-- ==== Sys2Proof/Word.lean ====
section
/-!
DEFINITION. The word types of the Quenel module and the plainest list-of-bytes type.
Registers, stamps, codes and addresses are bit vectors; indexes and counts are natural numbers.
-/

namespace Sys2Proof

/-- One byte, as rings, frames and records carry it. -/
abbrev Byte := BitVec 8

/-- A run of bytes, the lowest address first (R352, R394: little-endian). -/
abbrev Bytes := List Byte

/-- A 32-bit register or one 32-bit word of a register block (R343). -/
abbrev Word := BitVec 32

/-- A time stamp: the 32-bit nanosecond count (R10, R65). -/
abbrev Stamp := BitVec 32

/-- A 14-bit needle code (R161). -/
abbrev NCode := BitVec 14

/-- A sparse array: the entries that differ from the array's default, keys strictly rising. -/
abbrev SMap (α : Type) := List (Nat × α)

end Sys2Proof
end

