-- ==== Sys2Proof/Syntax.lean ====
section
/-!
DEFINITION. The commands of the Quenel module: one constructor per row of the opcode table, and the
small types their operands need. A Selda command names the hoop it is sent to and the ring it waits on; its
fields are read from the bytes that the ring holds (R352 to R356, R367 to R372). An event names the hoop in
which it happens and carries what reaches that hoop from outside: levels, readings, frames.
-/

namespace Sys2Proof

/-- The two controller halves (R6, R306). -/
inductive HoopId | hoopA | hoopB
deriving DecidableEq, Repr

/-- The members of the family (R2). -/
inductive Part | qn0128 | qn0256 | qn0512 | qn0512d
deriving DecidableEq, Repr

/-- A crossbar burst cut by the reset of its master (R429): master, target, address, direction, and the beats of the
burst that were complete and in all. -/
structure Burst where
  master : Nat
  target : Nat
  addr : Nat
  write : Bool
  beatsDone : Nat
  beats : Nat
deriving DecidableEq, Repr

/-- What else comes about inside a stage (spec file 95, STAGE_STD): nothing, DEADLINE at a knot before
DAC_STAGED (R92, R153), a stack error (R142) at a phase with a number of elements applied, or a single-bit error in a fetched word (R147). -/
inductive StageEvent | clean | deadline | stackError (phase applied : Nat) (uaddr : BitVec 12) | corrected (nano : Bool) (addr : BitVec 12)
deriving DecidableEq, Repr

/-- Where a double-bit error meets Tambour (R147, R156): the word's address, and the phase and the number of elements applied of the operation. -/
structure EccSite where
  addr : BitVec 12
  phase : Nat
  applied : Nat
deriving DecidableEq, Repr

/-- A PTP time (R65). -/
structure PtpTime where
  sec : Nat
  ns : Nat
deriving DecidableEq, Repr

/-- The response to a Delay_Req or Pdelay_Req (R70): how long ago the request left, 1/16 ns, the time that the response carries, and its correctionField,
1/16 ns. -/
structure DelayAnswer where
  ago : Nat
  received : PtpTime
  corr : Int
deriving DecidableEq, Repr

/-- A word in which the scrub of R147 found an error. -/
structure EccHit where
  nano : Bool
  addr : BitVec 12
  double : Bool
deriving DecidableEq, Repr

/-- One conversion as the group ADC yields it (R182, R187): the raw code, overrange, underrange, and whether the
injected source asks for its slot (R196). -/
structure Conv where
  code : BitVec 16
  ovr : Bool
  und : Bool
  inj : Bool
deriving DecidableEq, Repr

/-- What the loader takes from an accepted firmware image (R447, R150). -/
structure Image where
  version : BitVec 32
  build : BitVec 32
  svn : BitVec 16
  patchId : BitVec 16
  micro : List (BitVec 32)
  nano : List (BitVec 128)
  matchRegs : List (BitVec 32)
  overrides : List (BitVec 32)
deriving DecidableEq, Repr

/-- The commands, one constructor per row of the opcode table. -/
inductive Instr
  /-- NOP (R368): Selda NOP command of one slot; it is read and completed with no other effect. -/
  | nop (h : HoopId) (r : Nat)
  /-- CREATE (R81): Standing-thread CREATE command: the hoop checks, routes and compiles a new thread and accepts it as a commit for its epoch. -/
  | create (h : HoopId) (r : Nat)
  /-- MODIFY (R81): MODIFY command: changes a thread's egress port, band or movability at the epoch. -/
  | modify (h : HoopId) (r : Nat)
  /-- REOPEN (R81): REOPEN command: a DARKED or FAULTED thread is routed again as for CREATE. -/
  | reopen (h : HoopId) (r : Nat)
  /-- RELEASE (R81): RELEASE command: the thread's eyelet goes DARK at the epoch and the thread ends once the eyelet is confirmed dark. -/
  | release (h : HoopId) (r : Nat)
  /-- DARK (R81): Scheduled DARK command: the eyelet goes DARK and the thread goes DARKED at the epoch. -/
  | dark (h : HoopId) (r : Nat)
  /-- DARK_NOW (R109): Immediate DARK command: the eyelet is darked by the EYELET_DARK path and the thread is DARKED at acceptance. -/
  | darkNow (h : HoopId) (r : Nat)
  /-- CANCEL (R112): CANCEL command: withdraws an accepted commit that is at least 500 ns before its epoch. -/
  | cancel (h : HoopId) (r : Nat)
  /-- THREAD_READ (R368): Returns thread descriptors into host buffers. -/
  | threadRead (h : HoopId) (r : Nat)
  /-- LEDGER_READ (R388): Returns minute ledger records held in SRAM. -/
  | ledgerRead (h : HoopId) (r : Nat)
  /-- OUTCOME_READ (R107): Returns commit outcome records from the last 1,024 commits. -/
  | outcomeRead (h : HoopId) (r : Nat)
  /-- BATCH (R356): v3 BATCH command or part of a run: several entries under one epoch, accepted or refused whole when the last part is read. -/
  | batch (h : HoopId) (r : Nat)
  /-- PRK_SLOT_LOAD (R117): Loads pricked threads into a PATTERN slot; the slot is checked and compiled at the LAST part. -/
  | prkSlotLoad (h : HoopId) (r : Nat)
  /-- PRK_SLOT_MASK (R116): Loads an ingress port mask into a MASK slot. -/
  | prkSlotMask (h : HoopId) (r : Nat)
  /-- PRK_SLOT_CLEAR (R117): Clears a pattern slot unless it is referenced. -/
  | prkSlotClear (h : HoopId) (r : Nat)
  /-- PRK_LIST_WRITE (R120): Writes entries into a list store; this is refused with BUSY for the store of the active list. -/
  | prkListWrite (h : HoopId) (r : Nat)
  /-- PRK_START (R122): Checks a list and starts it at the earliest cycle boundary at least 6 µs ahead. -/
  | prkStart (h : HoopId) (r : Nat)
  /-- PRK_SWAP (R123): Arms the shadow list to become active at a common cycle boundary. -/
  | prkSwap (h : HoopId) (r : Nat)
  /-- PRK_SWAP_DISARM (R123): Disarms an armed swap until 6 µs before its instant. -/
  | prkSwapDisarm (h : HoopId) (r : Nat)
  /-- PRK_STOP (R124): Stops the pricking at the next boundary at least 6 µs ahead, or at once with IMMEDIATE, darking every pricked eyelet. -/
  | prkStop (h : HoopId) (r : Nat)
  /-- RING_BIND (R362): Binds or rebinds an agent ring to a tenant tag, port masks and meter, then enables it. -/
  | ringBind (h : HoopId) (r : Nat)
  /-- RING_UNBIND (R362): Unbinds an agent ring. -/
  | ringUnbind (h : HoopId) (r : Nat)
  /-- METER_SET (R365): Sets a ring's CIR, CBS and EBS and refills its token counts. -/
  | meterSet (h : HoopId) (r : Nat)
  /-- KEY_SET (R382): Sets or removes a ring's remote key, increments KEY_GEN and empties the COUNTER window. -/
  | keySet (h : HoopId) (r : Nat)
  /-- EVENT_SUB (R375): Sets or clears a range of event subscription bits for event ring 0. -/
  | eventSub (h : HoopId) (r : Nat)
  /-- NET_CFG (R380): Configures a management Ethernet port's IPv4 address, VLAN and remote enable. -/
  | netCfg (h : HoopId) (r : Nat)
  /-- PTP_CFG (R70): Configures one PTP domain's number, port, transport, delay mechanism, latencies and holdover limit. -/
  | ptpCfg (h : HoopId) (r : Nat)
  /-- DOMAIN_SWITCH (R75): Admin request to swap the primary and secondary PTP domains at one tick. -/
  | domainSwitch (h : HoopId) (r : Nat)
  /-- VERIFY_CFG (R103): Sets the verify tolerances, which take effect 1 ms after acceptance. -/
  | verifyCfg (h : HoopId) (r : Nat)
  /-- ADC_PROFILE (R196): Selects the budget profile of one group or of all groups. -/
  | adcProfile (h : HoopId) (r : Nat)
  /-- REF_SEL (R198): Selects the ADC reference source; REF_OK clears. -/
  | refSel (h : HoopId) (r : Nat)
  /-- CAL_CFG (R200): Enables calibration rounds and sets INTERVAL. -/
  | calCfg (h : HoopId) (r : Nat)
  /-- LOOP_SET (R233): Writes a coefficient set's shadow copy and optionally requests a swap. -/
  | loopSet (h : HoopId) (r : Nat)
  /-- LOOP_ASSIGN (R233): Assigns a range of elements to a coefficient set. -/
  | loopAssign (h : HoopId) (r : Nat)
  /-- TEC_DRIVE (R260): Sets PWM PERIOD and DEAD, IFULL and ILIM_NOM. -/
  | tecDrive (h : HoopId) (r : Nat)
  /-- TEC_COEF (R256): Writes a zone's TEC coefficient shadow set and optionally requests a swap. -/
  | tecCoef (h : HoopId) (r : Nat)
  /-- SETPOINT (R249): Selects the setpoint source and register setpoint. -/
  | setpoint (h : HoopId) (r : Nat)
  /-- TEC_ENABLE (R264): Enables the TEC, restarting both zones, or disables it, driving the outputs low. -/
  | tecEnable (h : HoopId) (r : Nat)
  /-- TRIP_CLEAR (R263): Clears both TEC trip latches unless a trip input is low. -/
  | tripClear (h : HoopId) (r : Nat)
  /-- THRESHOLDS (R267): Sets warning, throttle and shut-down thresholds of one group. -/
  | thresholds (h : HoopId) (r : Nat)
  /-- THM_MODEL (R243): Sets a thermistor's beta model. -/
  | thmModel (h : HoopId) (r : Nat)
  /-- HOLDUP_MIN (R295): Sets JNL_HOLDUP_MIN for the hold-up check. -/
  | holdupMin (h : HoopId) (r : Nat)
  /-- SAMPLER_RESTORE (R60): Restores every HBIAS from the factory table and clears REFINED. -/
  | samplerRestore (h : HoopId) (r : Nat)
  /-- DARK_RELEASE (R291): Requests the end of a module dark; the request is checked after an EYELET_DARK run. -/
  | darkRelease (h : HoopId) (r : Nat)
  /-- HANDOVER (R321): Admin command for a planned hand-over; each hoop posts the HANDOVER operation. -/
  | handover (h : HoopId) (r : Nat)
  /-- REJOIN (R334): Returns a MONITOR hoop to service through RESYNC. -/
  | rejoin (h : HoopId) (r : Nat)
  /-- REG_READ (R372): Diagnostic read of internal register words. -/
  | regRead (h : HoopId) (r : Nat)
  /-- SAMPLER_READ (R372): Diagnostic read of sampler records, header, egress table or factory HBIAS. -/
  | samplerRead (h : HoopId) (r : Nat)
  /-- JOURNAL_READ (R297): Diagnostic read of journal records by SEQ range. -/
  | journalRead (h : HoopId) (r : Nat)
  /-- RESULT_READ (R188): Diagnostic read of result words and stamps. -/
  | resultRead (h : HoopId) (r : Nat)
  /-- DELTA_READ (R83): Diagnostic read of a pending commit's delta and changed channels. -/
  | deltaRead (h : HoopId) (r : Nat)
  /-- PATCH_READ (R150): Diagnostic read of Tambour patch stores. -/
  | patchRead (h : HoopId) (r : Nat)
  /-- ELEMENT_READ (R38): Diagnostic read of element status words. -/
  | elementRead (h : HoopId) (r : Nat)
  /-- COMMIT_LIST (R87): Diagnostic list of pending commits. -/
  | commitList (h : HoopId) (r : Nat)
  /-- HISTORY_READ (R299): Diagnostic read from the history store rings. -/
  | historyRead (h : HoopId) (r : Nat)
  /-- FABRIC_COMMIT (R406): Initiates a fabric commit: checks, accepts the local part and sends PROPOSE to each member. -/
  | fabricCommit (h : HoopId) (r : Nat)
  /-- WLM_CFG (R404): Sets Walimin link enables, preferred address, TELEMETRY interval and TIME_CHECK limit. -/
  | wlmCfg (h : HoopId) (r : Nat)
  /-- DOORBELL (R347): Write of MBX_Rr_DB posting slots; the hoop reads, meters and serves commands in slot order. -/
  | doorbell (h : HoopId) (r : Nat) (tail : BitVec 12) (cmds : List Bytes)
  /-- MBX_CPL_HEAD (R347): Write of the completion head; frees entries so that a held ring is read again. -/
  | mbxCplHead (h : HoopId) (r : Nat) (v : BitVec 12)
  /-- MBX_EVT_HEAD (R375): Write of the event head; frees entries and writes a pending overflow notice. -/
  | mbxEvtHead (h : HoopId) (r : Nat) (v : BitVec 13)
  /-- REOPEN_RING0 (R350): Write of MBX_R0_CTRL.REOPEN sets EN on ring 0. -/
  | reopenRing0 (h : HoopId) (v : BitVec 32)
  /-- DMA_ERROR (R350): A ring DMA that ends in error disables the ring and raises its ring event. -/
  | dmaError (h : HoopId) (r : Nat)
  /-- MSIX_MODERATION_TIMEOUT (R351): Expiry of a ring's interrupt TIME after the first unsignalled entry signals its vector. -/
  | msixModerationTimeout (h : HoopId) (r : Nat) (evt : Bool)
  /-- REMOTE_DATAGRAM (R381): A UDP Selda envelope arrives; it is authenticated and served as a command of its ring, or dropped. -/
  | remoteDatagram (h : HoopId) (port : Nat) (srcAddr : BitVec 32) (srcPort : BitVec 16) (payload : Bytes)
  /-- SMBUS_BLOCK_READ (R474): The BMC reads a 4-byte status word over SMBus or I3C. -/
  | smbusBlockRead (h : HoopId) (cmd : BitVec 8)
  /-- ALERT_RESPONSE (R474): The module answers the SMBus Alert Response Address while BMC_X_ALERT_N is low. -/
  | alertResponse (h : HoopId)
  /-- TB_SNAP (R66): Write of TB_SNAP_CTRL.SNAP latches the count and both domains' times. -/
  | tbSnap (h : HoopId) (v : BitVec 32)
  /-- TB_CNT_READ (R80): A read of TB_CNT latches TB_FRAC. -/
  | tbCntRead (h : HoopId)
  /-- TB_PPS_CTRL_WRITE (R76): Write of PPS_OUT control; EN = 0 ends a pulse at once and a new WIDTH applies from the next edge. -/
  | tbPpsCtrlWrite (h : HoopId) (v : BitVec 32)
  /-- TB_CMP_FIRED_CLEAR (R90): RW1C acknowledgement of fired comparators. -/
  | tbCmpFiredClear (h : HoopId) (v : BitVec 32)
  /-- FC_STICKY_CLEAR (R278): RW1C clear of STICKY bits whose LIVE is 0; may release FAULT_N. -/
  | fcStickyClear (h : HoopId) (w : Nat) (v : BitVec 32)
  /-- FC_WIRE_CLEAR (R303): RW1C clear of wire-fault bits while the rails disagree. -/
  | fcWireClear (h : HoopId) (w : Nat) (v : BitVec 32)
  /-- REARM (R279): Write of FC_CTRL.REARM clears FC_FIRST.VALID. -/
  | rearm (h : HoopId) (v : BitVec 32)
  /-- PMC_CTRL_WRITE (R431): Write of EN, USER_EN or WINDOW; a new window waits for the next PTP second. -/
  | pmcCtrlWrite (h : HoopId) (v : BitVec 32)
  /-- PMC_LOAD (R435): Loads the named counter from its preload register in the next clock. -/
  | pmcLoad (h : HoopId) (v : BitVec 32) (inc : Nat)
  /-- PMC_OVF_CLEAR (R435): RW1C clear of counter overflow bits. -/
  | pmcOvfClear (h : HoopId) (w : Nat) (v : BitVec 32)
  /-- PMC_PRE_HI_WRITE (R438): Write of the upper preload half commits the whole preload value. -/
  | pmcPreHiWrite (h : HoopId) (c : Nat) (v : BitVec 32)
  /-- PMC_CNT_LO_READ (R438): A read of a counter's low word latches its high bits. -/
  | pmcCntLoRead (h : HoopId) (c : Nat)
  /-- REGISTER_WRITE (R343): Host write to any BAR0 register field without behaviour of its own; undefined encodings are ignored by R9. -/
  | registerWrite (h : HoopId) (off : Nat) (size : Nat) (v : BitVec 32)
  /-- POWER_ON_RESET (R441): A rail below 90 % of nominal for 1 µs holds the hoop in power-on reset. -/
  | powerOnReset (h : HoopId) (rail : Nat) (mv : Nat)
  /-- POR_RELEASE (R441): Rails, clock and MOD_RST_N good for 10 ms release power-on reset and start the loader. -/
  | porRelease (h : HoopId)
  /-- MOD_RST (R442): MOD_RST_N low for 1 µs resets both hoops. -/
  | modRst
  /-- RAIL_EXCURSION (R441): A rail outside tolerance for 1 µs asserts its fault source. -/
  | railExcursion (h : HoopId) (rail : Nat) (mv : Nat)
  /-- RAIL_RETURN (R441): A rail returns within tolerance and its fault source clears. -/
  | railReturn (h : HoopId) (rail : Nat) (mv : Nat)
  /-- PWR_FAIL_ASSERT (R296): PWR_FAIL_N asserted for 1 µs: S4 module dark and the final journal writes. -/
  | pwrFailAssert
  /-- PWR_FAIL_RELEASE (R454): PWR_FAIL_N released with rails held; the module stays dark until the release of R291. -/
  | pwrFailRelease
  /-- VKEEP_LOSS (R454): VKEEP is lost; the keeper loses its latches and ARMED clears. -/
  | vkeepLoss (h : HoopId)
  /-- PCIE_RESET (R443): PERST, hot reset or link down resets the endpoint and every MBX page. -/
  | pcieReset (h : HoopId) (cause : Nat) (cut : Option Burst)
  /-- DEFAULT_TARGET_ACCESS (R427): A burst to an unmapped or unreachable address is answered with error by the default target. -/
  | defaultTargetAccess (h : HoopId) (master : Nat) (write : Bool) (beats : Nat) (addr : Nat)
  /-- WATCHDOG_EXPIRY (R444): A core's 100 ms watchdog expires: source 11 asserts and the core is reset. -/
  | watchdogExpiry (h : HoopId) (core : Nat) (cut : Option Burst)
  /-- CORE_RESUME (R444): A reset core resumes in firmware and source 11 clears. -/
  | coreResume (h : HoopId) (core : Nat)
  /-- DEBUG_HALT (R265): JTAG halts a management core: TEC outputs low, loops frozen, standby leaves service. -/
  | debugHalt (h : HoopId) (core : Nat)
  /-- DEBUG_RESUME (R265): Every core resumes; each TEC zone restarts at its next reload. -/
  | debugResume (h : HoopId)
  /-- TEC_TRIP (R262): A TEC_TRIP_N input is low for 20 ns: all four outputs low and the trip latched. -/
  | tecTrip (z : Nat)
  /-- PPS_IN_EDGE (R77): A PPS_IN rising edge is stamped and its deviation reported. -/
  | ppsInEdge
  /-- FAULT_ASSERT (R278): A fault source becomes asserted or changes detail: new fault counted, recorded and reacted to by severity. -/
  | faultAssert (h : HoopId) (src : Nat) (det : Nat)
  /-- FAULT_CLEAR (R278): A source's rails return to clear; LIVE drops. -/
  | faultClear (h : HoopId) (src : Nat)
  /-- WIRE_FAULT (R277): A source's rails agree for 4 samples; it counts as asserted with WIRE set. -/
  | wireFault (h : HoopId) (src : Nat)
  /-- COLLECTOR_PARITY_ERROR (R284): A collector parity error engages the keeper force directly and holds FAULT_N low. -/
  | collectorParityError (h : HoopId)
  /-- FAULT_N_TIMEOUT (R285): The 10 µs FAULT_N time runs out and the pin follows FC_HOLD. -/
  | faultNTimeout (h : HoopId)
  /-- KEEPER_CRC_CHECK (R288): The 1 ms check of the keeper latches against their CRC. -/
  | keeperCrcCheck (h : HoopId) (flipped : Bool)
  /-- FORCE_RELEASE (R291): At the refresh boundary after an accepted dark release, the keeper force is released. -/
  | forceRelease (h : HoopId)
  /-- EPOCH_STROBE (R93): A standing comparator fires: needles load from the idle bank, banks swap, drive windows open and threads go SETTLING. -/
  | epochStrobe (h : HoopId) (k : Nat)
  /-- ZERO_CODE_EPOCH (R82): The epoch of a commit with n = 0 is reached and firmware applies it to the thread table. -/
  | zeroCodeEpoch (h : HoopId) (seq : Nat) (ring : Nat)
  /-- SETTLING_END (R98): Epoch + 1.0 µs: SETTLING threads go CARRYING and injected triggers fire. -/
  | settlingEnd (h : HoopId) (seq : Nat) (ring : Nat)
  /-- VERIFY_DEADLINE (R100): Epoch + 500 µs with a lit eyelet and channels unpassed: the thread goes FAULTED. -/
  | verifyDeadline (h : HoopId) (inPort : Nat)
  /-- PRICKING_ENTRY_STROBE (R125): A pricking entry epoch fires: a staged entry loads, a held one does not, and the next stage is posted. -/
  | prickingEntryStrobe (h : HoopId)
  /-- PRICKING_CYCLE_BOUNDARY (R121): A cycle boundary: the list starts, swaps, stops or ends, and recompiled slots are installed. -/
  | prickingCycleBoundary (h : HoopId)
  /-- PPS_OUT_EDGE (R76): Comparator 7 raises PPS_OUT at a second boundary. -/
  | ppsOutEdge (h : HoopId)
  /-- PPS_PULSE_END (R76): The PPS_OUT pulse ends after WIDTH µs. -/
  | ppsPulseEnd (h : HoopId)
  /-- REFRESH_ORIGIN (R168): Comparator 8 fires and starts frame 0 of the refresh schedule. -/
  | refreshOrigin (h : HoopId)
  /-- LEDGER_MINUTE_BOUNDARY (R388): Comparator 14 marks a ledger minute boundary and intervals are cut there. -/
  | ledgerMinuteBoundary (h : HoopId)
  /-- LEDGER_MINUTE_CLOSE (R388): 10 ms after a minute ends, its records close and are queued for the history store. -/
  | ledgerMinuteClose (h : HoopId)
  /-- HELD_EVENT_SWEEP (R69): The 1 ms sweep arms held events that now lie within 2 s. -/
  | heldEventSweep (h : HoopId)
  /-- ANCHOR_REWRITE (R66): At each PTP second boundary the anchor is rewritten and TB_ANCHOR_GEN increments. -/
  | anchorRewrite (h : HoopId)
  /-- TB_WRAP (R64): The nanosecond count wraps and TB_WRAP increments. -/
  | tbWrap (h : HoopId)
  /-- SYNC_RECEIVED (R71): A stamped PTP Sync exchange updates the servo and may move it between states. -/
  | syncReceived (h : HoopId) (dom : Nat) (corr : Int) (filt : Int) (origin : PtpTime) (utc : Int)
  /-- SYNC_TIMEOUT (R71): No valid Sync for 3 s puts the servo in HOLDOVER and may switch domains. -/
  | syncTimeout (h : HoopId) (dom : Nat)
  /-- HOLDOVER_LIMIT_EXPIRY (R71): The holdover limit runs out and TIME_VALID goes 0. -/
  | holdoverLimitExpiry (h : HoopId)
  /-- FREERUN_TIMEOUT (R71): No master selected for 3,600 s in HOLDOVER returns the servo to FREERUN. -/
  | freerunTimeout (h : HoopId) (dom : Nat)
  /-- TIME_LINK_COMPARE (R78): The 100 µs phase comparison of the duplex time link. -/
  | timeLinkCompare (h : HoopId) (phase : Nat) (linkOk : Bool)
  /-- STAGE_STD (R152): Tambour stages a standing commit: plans, writes, reads back, sets DAC_STAGED, arms its comparator and loads injected sequences. -/
  | stageStd (h : HoopId) (bad1 : List Nat) (bad2 : List Nat) (why : StageEvent)
  /-- STAGE_PRK (R153): Tambour stages a pricking entry's transition delta or catch-up. -/
  | stagePrk (h : HoopId) (bad1 : List Nat) (bad2 : List Nat) (why : StageEvent)
  /-- RESTORE_IDLE (R94): Tambour copies every needle's active bank into its idle bank and clears DAC_STAGED. -/
  | restoreIdle (h : HoopId)
  /-- TILE_UPDATE (R152): At each listed tile's refresh slot, codes are written to both banks and the DAC register with a drive window. -/
  | tileUpdate (h : HoopId) (t : Nat)
  /-- INJ_RELOAD (R152): Urgent load of the next 16 queued channels of one group's injected sequence. -/
  | injReload (h : HoopId) (g : Nat)
  /-- DISARM (R152): Urgent disarm of a comparator, clearing of injected entries and restore of the idle bank. -/
  | disarm (h : HoopId) (k : Nat)
  /-- TAMBOUR_HANDOVER (R152): Tambour HANDOVER operation that waits for the acknowledgement and the hand-over boundary. -/
  | tambourHandover (h : HoopId)
  /-- EYELET_DARK (R152): For each set dark-request bit, the eyelet's DARK code is written to both banks and the DAC register with a drive window. -/
  | eyeletDark (h : HoopId)
  /-- TAMBOUR_NOP (R152): Tambour operation 0x00 does nothing. -/
  | tambourNop (h : HoopId)
  /-- RESERVED_OPERATION (R149): A reserved operation code is dispatched, ended with no effect and reported. -/
  | reservedOperation (h : HoopId) (code : BitVec 6)
  /-- TAMBOUR_STOP (R155): On a stop request, Tambour stops at its next knot and writes the abort record. -/
  | tambourStop (h : HoopId) (phase : Nat) (applied : Nat) (uaddr : BitVec 12)
  /-- FORCED_STOP (R140): 64 microcycles pass with a stop pending and no knot; Tambour stops with FORCED. -/
  | forcedStop (h : HoopId) (phase : Nat) (applied : Nat) (uaddr : BitVec 12)
  /-- UNCORRECTABLE_ECC (R147): A double-bit error in a fetched word stops Tambour before the word executes and leaves it HALTED. -/
  | uncorrectableEcc (h : HoopId) (nano : Bool) (site : EccSite)
  /-- PATCH_SCRUB (R147): The 10 ms background scrub of the patch RAMs. -/
  | patchScrub (h : HoopId) (hit : Option EccHit)
  /-- WAIT_TIMEOUT (R144): A WAIT's fixed timeout expires and the ROM handler raises its reaction. -/
  | waitTimeout (h : HoopId) (cond : Nat) (g : Nat) (uaddr : BitVec 12)
  /-- TAMBOUR_RESUME (R157): Firmware records the abort, resumes Tambour and posts roll-back operations under its hold. -/
  | tambourResume (h : HoopId)
  /-- HOLD_RELEASE (R157): Firmware clears its hold once the roll-back operations have completed. -/
  | holdRelease (h : HoopId)
  /-- REFRESH_SLOT (R169): A slot start opens tile t's refresh window with pre-check, drive and register read-back. -/
  | refreshSlot (h : HoopId) (t : Nat) (fails : List Nat)
  /-- DITHER_WINDOW (R168): A 200 ns dither window opens on a tile with a dithered needle. -/
  | ditherWindow (h : HoopId) (t : Nat)
  /-- NEEDLE_SLEW_STEP (R165): A ramping needle steps toward its active bank and opens a slew window. -/
  | needleSlewStep (h : HoopId) (t : Nat)
  /-- WINDOW_END (R169): A window's last 20 ns run the post-check and the output stages return to high impedance. -/
  | windowEnd (h : HoopId) (t : Nat) (fails : List Nat)
  /-- DEGLITCH_RELEASE (R164): The 40 ns track-and-hold of a major transition releases. -/
  | deglitchRelease (h : HoopId) (e : Nat) (heater : Bool)
  /-- HEATER_SLEW_STEP (R166): Heater output codes step toward their targets at a PERIOD boundary. -/
  | heaterSlewStep (h : HoopId) (t : Nat)
  /-- RANGE_HOLD_END (R172): The 160 ns range-change hold ends and the output moves to the target. -/
  | rangeHoldEnd (h : HoopId) (e : Nat)
  /-- HEATER_COMPLIANCE_FAIL (R170): A heater at its compliance limit with a non-zero code for 1 µs raises its fault. -/
  | heaterComplianceFail (h : HoopId) (e : Nat)
  /-- HEATER_SUM_OVER (R170): HTR_SUM above HTR_CEIL by 2 % for 1 ms raises S1. -/
  | heaterSumOver (h : HoopId)
  /-- CONVERSION_END (R191): A conversion slot ends: result words are written and verdicts, loop and lock-in jobs follow. -/
  | conversionEnd (h : HoopId) (ch : Nat) (c : Conv)
  /-- SPARE_TEST_END (R206): The 100 µs spare test ends and the channel is lost. -/
  | spareTestEnd (h : HoopId) (ch : Nat) (normal : Bool)
  /-- ADC_CONVERSION_TIMEOUT (R209): A conversion not complete within 1 µs fails the group ADC and a spare takes over. -/
  | adcConversionTimeout (h : HoopId) (g : Nat)
  /-- REGULAR_PASS_START (R193): The loop tick starts a regular pass; FF jobs and coefficient swaps take effect. -/
  | regularPassStart (h : HoopId)
  /-- LOCKIN_WINDOW_END (R226): A lock-in window of DWIN ends and one dither-mode update is applied. -/
  | lockinWindowEnd (h : HoopId) (e : Nat)
  /-- LOOP_HOLD_TIMEOUT (R230): No valid update for 1 ms folds a HOLD loop into FF. -/
  | loopHoldTimeout (h : HoopId) (e : Nat)
  /-- CAP_JOB (R235): Every 1 ms the throttle cap is computed against HTR_CEIL. -/
  | capJob (h : HoopId)
  /-- FIELD_REFINEMENT (R60): After 60 s of a stable integrator, HBIAS is refined in the slice and possibly in MRAM. -/
  | fieldRefinement (h : HoopId) (e : Nat) (mean : Int)
  /-- TELEMETRY_SWEEP (R194): Channels missing from the regular sequence are converted at least once per second. -/
  | telemetrySweep (h : HoopId) (ch : Nat) (c : Conv)
  /-- CAL_ROUND_START (R200): A calibration round starts INTERVAL seconds after the previous one ends. -/
  | calRoundStart (h : HoopId)
  /-- CAL_STEP (R201): A calibration step of one channel completes: measurement, trims, check or return. -/
  | calStep (h : HoopId) (avg : Nat)
  /-- ADC_SELF_CAL_END (R204): A group ADC's 200 µs self-calibration ends and it takes its slots back. -/
  | adcSelfCalEnd (h : HoopId) (g : Nat) (mid : Nat)
  /-- REF_OK_SET (R197): The reference is steady for 50 µs and REF_OK sets. -/
  | refOkSet (h : HoopId) (drift : Nat)
  /-- REFERENCE_FALLBACK (R198): REF_IN leaves range or drifts for 2 µs; the hoop switches to the internal reference. -/
  | referenceFallback (h : HoopId)
  /-- DIODE_PASS (R242, R244): The 100 µs diode pass updates zone and tile temperatures and runs the TEC jobs. `volts` are the differences of the two
  junction voltages of the 32 diodes, in nV. -/
  | diodePass (h : HoopId) (volts : List Int)
  /-- ZONE_MEAN (R244): The 1 ms zone means and lattice peak update SETTLED, the commit gate and lattice thresholds. -/
  | zoneMean (h : HoopId)
  /-- DIODE_CROSS_CHECK (R245): The 1 ms check of each diode against its neighbours; strikes and SUSPECT. -/
  | diodeCrossCheck (h : HoopId)
  /-- DIE_SENSOR_READ (R243): The 1 ms junction read updates junction thresholds and the MRAM gate. -/
  | dieSensorRead (h : HoopId) (temps : List Int)
  /-- THERMISTOR_READ (R243): The 10 ms thermistor read checks open, short, bridge and auxiliary thresholds. -/
  | thermistorRead (h : HoopId) (ohms : List Nat)
  /-- THROTTLE_STEP (R268): A throttle level steps up after 500 ms or down after 2 s; HTR_CEIL or ULIM is rewritten. -/
  | throttleStep (h : HoopId) (grp : Nat)
  /-- PWM_RELOAD (R261): A zone's PWM counter reloads and takes its shadow duty, PERIOD and DEAD. -/
  | pwmReload (h : HoopId) (z : Nat)
  /-- SETPOINT_AVERAGE (R250): A 10 ms average of a pin source may change the effective setpoint. `avg` is the input of R249: µV at SETPT_IN, the duty of
  SETPT_PULSE in 10^-6, or its frequency in mHz, as SRC has it. -/
  | setpointAverage (h : HoopId) (avg : Int)
  /-- SETPOINT_SOURCE_LOST (R251): No pulse edge for 10 ms or an input out of range holds the setpoint and raises S1. -/
  | setpointSourceLost (h : HoopId)
  /-- SLICE_REBUILT (R58): The active slice rebuild completes and later commits use it. -/
  | sliceRebuilt (h : HoopId)
  /-- JOURNAL_BURST (R294): A burst of up to 64 records is written to MRAM after the hold-up check. -/
  | journalBurst (h : HoopId) (mv : Nat)
  /-- HOLDUP_RETRY (R295): A deferred MRAM write is retried every 1 ms. -/
  | holdupRetry (h : HoopId) (mv : Nat)
  /-- HISTORY_SECOND (R299): Per-second channel summaries and the counter snapshot are written to the history store. -/
  | historySecond (h : HoopId) (deferred : Bool) (writeFail : Bool)
  /-- WINDOW_BOUNDARY (R432): At each window boundary all counters are shadowed and written to the counter page. -/
  | windowBoundary (h : HoopId)
  /-- COUNTER_OVERFLOW (R435): A counter passes its maximum; OVF sets and it reloads and may interrupt. -/
  | counterOverflow (h : HoopId) (c : Nat) (inc : Nat)
  /-- HEALTH_SCORE (R318): Every 1 ms each hoop computes and exchanges its health score. -/
  | healthScore
  /-- PATCH_COMPARE (R317): The hoops compare patch identities every 1 s. -/
  | patchCompare
  /-- INTAKE_TIMEOUT (R314): A digest not matched within 50 µs is an intake mismatch and the standby leaves service. -/
  | intakeTimeout (h : HoopId)
  /-- HANDOVER_BOUNDARY (R322): At boundary B every output under the token passes to the new holder in one clock. -/
  | handoverBoundary
  /-- HANDOVER_ABANDON (R321): No qualifying boundary within 100 µs, or 4 µs for a hand-back, abandons the hand-over. -/
  | handoverAbandon (cause : Nat)
  /-- PROVING_END (R327): Every tile and heater source of the new holder is proven. -/
  | provingEnd (h : HoopId)
  /-- INTERLOCK_DISAGREEMENT (R331): Both or neither token pairs asserted, or a wire fault, cuts every shared output. -/
  | interlockDisagreement
  /-- GRACE_PERIOD_END (R332): After 2 µs one hoop is chosen to drive and the other enters MONITOR. -/
  | gracePeriodEnd
  /-- TOKEN_TIMEOUT (R307): A non-primary hoop takes the token when its peer holds none 10 s after reset. -/
  | tokenTimeout (h : HoopId)
  /-- RESYNC_COMPLETE (R335): Resync copying converges, tile signatures match and the hoop becomes STANDBY. -/
  | resyncComplete (h : HoopId) (ms : Nat)
  /-- HELLO_SEND (R392): Each enabled link sends a HELLO every 1 ms. -/
  | helloSend (h : HoopId)
  /-- HELLO (R398): HELLO received: a link comes up, changes neighbour, and the leader is recomputed. -/
  | hello (h : HoopId) (link : Nat) (frame : Bytes)
  /-- HELLO_TIMEOUT (R392): Three missed HELLOs take a link down. -/
  | helloTimeout (h : HoopId) (link : Nat)
  /-- LANE_LOCK_LOSS (R392): A lane loses block lock and its link goes down. -/
  | laneLockLoss (h : HoopId) (link : Nat) (lane : Nat)
  /-- ROUTE (R401): ROUTE frame received updates routing table entries. -/
  | route (h : HoopId) (link : Nat) (frame : Bytes)
  /-- ROUTE_ADVERTISE (R401): The whole routing table is sent on each up link every 10 ms. -/
  | routeAdvertise (h : HoopId)
  /-- TRIGGERED_UPDATE (R401): Changed entries are advertised within 100 µs, at most once per link per ms. -/
  | triggeredUpdate (h : HoopId) (link : Nat)
  /-- ROUTE_EXPIRY (R401): An entry unrefreshed for 30 ms becomes unreachable, and is removed 30 ms later. -/
  | routeExpiry (h : HoopId) (addr : Nat)
  /-- ADDR_REQ_SEND (R399): A module without an address sends ADDR_REQ every 10 ms. -/
  | addrReqSend (h : HoopId)
  /-- ADDR_REQ (R399): ADDR_REQ received: passed toward the leader, or answered with a grant by the leader. -/
  | addrReq (h : HoopId) (link : Nat) (frame : Bytes)
  /-- ADDR_GRANT (R399): ADDR_GRANT received: the named module takes the address. -/
  | addrGrant (h : HoopId) (link : Nat) (frame : Bytes)
  /-- PROPOSE (R408): A member checks its entries as an exact-epoch ring 0 commit and sends READY or ABORT. -/
  | propose (h : HoopId) (link : Nat) (frame : Bytes)
  /-- READY (R410): READY received at the initiator; GO is sent once all have arrived. -/
  | ready (h : HoopId) (link : Nat) (frame : Bytes)
  /-- GO (R409): GO received at a member, which disarms its E − 5 µs deadline. -/
  | go (h : HoopId) (link : Nat) (frame : Bytes)
  /-- ABORT (R409): ABORT received: the member withdraws, or the initiator aborts every member. -/
  | abort (h : HoopId) (link : Nat) (frame : Bytes)
  /-- DONE (R411): DONE received at the initiator. -/
  | done (h : HoopId) (link : Nat) (frame : Bytes)
  /-- READY_DEADLINE (R409): E − 20 µs: a member that is not accepted, or an initiator missing a READY, aborts. -/
  | readyDeadline (h : HoopId) (s : Nat)
  /-- GO_SEND_DEADLINE (R409): E − 10 µs at the initiator: an unsent GO is not sent and its own part is cancelled. -/
  | goSendDeadline (h : HoopId) (s : Nat)
  /-- GO_DEADLINE (R409): Member comparator at E − 5 µs without GO withdraws the commit and sends ABORT. -/
  | goDeadline (h : HoopId) (k : Nat)
  /-- FABRIC_OUTCOME_TIMEOUT (R411): At E + 200 µs the initiator raises the fabric outcome with missing members SILENT. -/
  | fabricOutcomeTimeout (h : HoopId) (s : Nat)
  /-- DARK_NOTICE_REPEAT (R415): A DARK_NOTICE is sent twice more at 1 ms intervals. -/
  | darkNoticeRepeat (h : HoopId)
  /-- DARK_NOTICE (R416): A received DARK_NOTICE raises source 196 against a matching live thread. -/
  | darkNotice (h : HoopId) (link : Nat) (frame : Bytes)
  /-- TIME_CHECK_SEND (R417): Every 1 s a TIME_CHECK request goes on each up link. -/
  | timeCheckSend (h : HoopId)
  /-- TIME_CHECK (R417): A TIME_CHECK request is answered, or a reply yields θ and may raise the over-limit event. -/
  | timeCheck (h : HoopId) (link : Nat) (frame : Bytes) (fine : BitVec 4)
  /-- TELEMETRY_SEND (R418): Every TELEMETRY interval the module sends TELEMETRY to its leader. -/
  | telemetrySend (h : HoopId)
  /-- TELEMETRY (R418): The leader receives TELEMETRY and raises the telemetry event. -/
  | telemetry (h : HoopId) (link : Nat) (frame : Bytes)
  /-- HANDOVER_NOTICE (R419): A received hand-over notice raises an event and has no other effect. -/
  | handoverNotice (h : HoopId) (link : Nat) (frame : Bytes)
  /-- IMAGE_AUTHENTICATED (R448): The loader accepts an image slot, locks the patch and starts the cores, or holds the hoop. -/
  | imageAuthenticated (h : HoopId) (fail0 : Nat) (fail1 : Nat) (img : Image)
  /-- LPDDR4X_TRAINED (R450): LPDDR4X initialisation and training complete, or the hoop is held. -/
  | lpddr4xTrained (h : HoopId) (gib : Nat) (ok : Bool)
  /-- MONITOR_SELF_TEST_DONE (R449): The monitor plane self-test ends, and the slice is built and the token taken. -/
  | monitorSelfTestDone (h : HoopId) (lost : List Nat)
  /-- FIRST_WRITE_DONE (R178): Every tile is written and every heater reaches its first target; FIRST_DONE sets. -/
  | firstWriteDone (h : HoopId)
  /-- RING0_OPEN (R452): After step 10, with SETTLED and LOCKED or their timeouts, ring 0 opens and steps close. -/
  | ring0Open (h : HoopId) (tempTimeout : Bool) (timeTimeout : Bool)
  /-- HISTORY_STORE_READY (R453): The history store is detected and formatted, or found absent. -/
  | historyStoreReady (h : HoopId) (present : Bool) (hdrOk : Bool) (capacity : Nat)
  /-- TOKEN_REFILL (R365): Every 1/CIR s of the count, a ring's Tc gains a token, or Te gains one if Tc is full. -/
  | tokenRefill (h : HoopId) (r : Nat)
  /-- TEC_TRIP_RELEASE (R262): A TEC_TRIP_N input returns high, TRIPz_LIVE clears, and a later TRIP_CLEAR can be accepted. -/
  | tecTripRelease (z : Nat)
  /-- INTAKE_DIGEST (R314): The standby receives the holder's intake digest and completion fields over the pair link and processes the matching command in that order. -/
  | intakeDigest (h : HoopId)
  /-- MASTER_SELECTION (R71): The best master clock algorithm selects or loses a domain's master, moving the servo toward ACQUIRING or into HOLDOVER. -/
  | masterSelection (h : HoopId) (dom : Nat) (selected : Bool)
  /-- DELAY_REQUEST_RESPONSE (R70): A Delay_Req or Pdelay_Req is sent, up to 128 per second, and its response is stamped to update the mean path delay of the domain. -/
  | delayRequestResponse (h : HoopId) (dom : Nat) (answer : DelayAnswer)
  /-- PCIE_LINK_UP (R443): The endpoint link returns after PERST release or link down, raising event 565 and allowing the ring 0 bases and REOPEN to be written. -/
  | pcieLinkUp (h : HoopId) (rate : Nat) (width : Nat)
  /-- POWER_MANAGEMENT_STATE (R455): A configuration write moves the endpoint between D0 and D3hot; in D3hot no ring is read. -/
  | powerManagementState (h : HoopId) (d3 : Bool)
  /-- NEIGHBOUR_LAG_UPDATE (R221): Every 1 µs the first-order lag of each neighbour's heater output difference is updated with time constant TAU. -/
  | neighbourLagUpdate (h : HoopId)
  /-- HTR_SUM_UPDATE (R173): Every 1 µs HTR_SUM is updated with the sum of the converted heater currents. -/
  | htrSumUpdate (h : HoopId)
  /-- PHASE_ACCUMULATOR_TICK (R175): At each 10 MHz tick every enabled tone's phase accumulator adds FTW, and heater dither terms are added to their output codes. -/
  | phaseAccumulatorTick (h : HoopId)
  /-- PWM_DUTY_EDGE (R260): When a zone's PWM count reaches D, H falls, FWD falls and REV rises after DEAD. -/
  | pwmDutyEdge (h : HoopId) (z : Nat)
deriving DecidableEq, Repr

end Sys2Proof
end

