-- ==== Sys2Proof/Config.lean ====
section
/-!
DEFINITION. What the part fixes (R2, R30 to R37) and the values that the manual leaves open. An opaque constant has
no value that Lean can see: a statement about it holds for every value.
-/

namespace Sys2Proof.Config

/-- Ports per side (R2). -/
def ports : Part → Nat
  | .qn0128 => 128
  | .qn0256 => 256
  | .qn0512 => 512
  | .qn0512d => 512

/-- log2 of the port count (R30). -/
def lgPorts : Part → Nat
  | .qn0128 => 7
  | .qn0256 => 8
  | .qn0512 => 9
  | .qn0512d => 9

/-- Stages of the Benes network (R30). -/
def stages (p : Part) : Nat := 2 * lgPorts p - 1

/-- Stitches S (R2). -/
def stitches (p : Part) : Nat := ports p / 2 * stages p

/-- Drive elements S + N (R34). -/
def elems (p : Part) : Nat := stitches p + ports p

/-- Monitor channels S + 2N (R36). -/
def chans (p : Part) : Nat := stitches p + 2 * ports p

/-- Tiles of 32 elements (R35). -/
def tiles (p : Part) : Nat := elems p / 32

/-- ADC groups in use (R37). -/
def groups (p : Part) : Nat := (chans p + 127) / 128

/-- Hoop B is enabled in the QN-0512D alone (R3). -/
def duplex : Part → Bool
  | .qn0512d => true
  | _ => false

/-- The PCIe device identity of a hoop (R2). -/
def deviceId : Part → HoopId → BitVec 16
  | .qn0128, _ => 0x5128
  | .qn0256, _ => 0x5256
  | .qn0512, _ => 0x5512
  | .qn0512d, .hoopA => 0x551A
  | .qn0512d, .hoopB => 0x551B

/-- BASE of HTR_CEIL in microamperes (R268). -/
def ceilBase : Part → Nat
  | .qn0128 => 800000
  | .qn0256 => 1812000
  | .qn0512 => 4050000
  | .qn0512d => 4050000

/-- Sequence mode (R192): the large members; the small ones scan masks. -/
def seqMode : Part → Bool
  | .qn0128 => false
  | .qn0256 => false
  | .qn0512 => true
  | .qn0512d => true

/-! ## Values the manual leaves open -/

/-- The 1,024-entry arccosine table of R223: from a ratio in Q0.16 to microradians (assumption 5). -/
opaque acosTable : Nat → Nat

/-- The 1,024-entry arcsine table of R223 (assumption 5). -/
opaque asinTable : Nat → Nat

/-- The 1,024-entry sine table of R175: signed 16-bit samples (assumption 5). -/
opaque sineTable : Nat → Int

/-- The thermistor reading in 0.01 degrees for a resistance, R25 and B (R243, assumption 5). -/
opaque thermistor : Nat → Nat → Nat → Int

/-- Microaddresses of the ROM that the manual does not list (R160, assumption 6). -/
opaque dispatchRom : Nat → BitVec 12

/-- The microword and nanoword ROM, which the manual does not list, 39 and 137 bits wide (R146, assumption 6). -/
opaque microRom : Nat → BitVec 39
opaque nanoRom : Nat → BitVec 137

/-- The check bits of the SECDED codes over a microword and a nanoword, and the word that a single-bit error leaves, none where two bits are wrong
(R141, R145, R147, assumption 144). -/
opaque check32 : BitVec 32 → BitVec 7
opaque check128 : BitVec 128 → BitVec 9
opaque mend32 : BitVec 32 → BitVec 7 → Option (BitVec 32)
opaque mend128 : BitVec 128 → BitVec 9 → Option (BitVec 128)

/-- The factory pair of diodes of a tile and the weight of the first in 1/256 (R221, assumption 7). -/
opaque tileDiodes : Nat → Nat × Nat × Nat

/-- The factory gradient offset of a diode at a setpoint, 0.01 degrees (R245, assumption 7). -/
opaque gradient : Nat → Nat → Int

/-- The ideality factor of a diode in units of 10^-4 and its offset in 0.01 K, factory values of the configuration region (R242, assumption 7). -/
opaque diodeN : Nat → Nat
opaque diodeOfs : Nat → Int

/-- KH of a zone, the upper 16 bits of its signed Q8.16 value (R253, R274, assumption 7). -/
opaque tecKH : Nat → BitVec 16

/-- The zone of a drive element by the factory zone map (R253, assumption 7). -/
opaque zoneOf : Nat → Bool

/-- Whether a sampler header passes its CRC-32: the manual lists the header's content without offsets (R57, R59,
assumption 11). -/
opaque headerOk : List (BitVec 8) → Bool

/-- LIGHT_FLOOR of a band from the header, in 1/65,536 pA (R57, assumption 11). -/
opaque headerFloor : List (BitVec 8) → Bool → Nat

/-- The dark ceiling of a band from the header, in 1/65,536 pA (R57, assumption 11). -/
opaque headerCeil : List (BitVec 8) → Bool → Nat

/-- The lattice die identity from the header (R57, assumption 11). -/
opaque headerDie : List (BitVec 8) → BitVec 64

/-- A value that a rule leaves unstated, drawn fresh for each use: the argument counts the uses (assumption 4). -/
opaque freeValue : Nat → Nat

end Sys2Proof.Config
end

