-- ==== Sys2Proof/Machine/State.lean ====
section
/-!
DEFINITION. The state of the Quenel module: every register, queue, buffer, table, mode and ball that the
manual gives each hoop, the monitor plane the hoops share, the balls of the module, the commands that are
waiting, and the state right after power-on reset. Every structure's default field values are its reset values.
-/

namespace Sys2Proof.Machine

/-- Why the block stops. No command of the manual stops the module for good, so nothing raises a fault in this
model at present: the type is kept for the host's interface (safe). -/
inductive Fault
  /-- An access below a unit that the manual does not give at all; raised by no meaning (safe). -/
  | absentUnit
deriving DecidableEq, Repr

/-- Why a command has no outcome. -/
inductive Refusal
  /-- The command has no meaning in the model yet; raised by `exec` alone (safe). -/
  | notModelled (mnemonic : String)
  /-- The bytes are a form that this hardware's word table does not name; raised by no meaning (safe). -/
  | noWord
deriving DecidableEq, Repr

/-! ## Threads, commits, completions -/

/-- States of a standing thread, encoded by `ThreadSt.code` (R41, R44). -/
inductive ThreadSt | none | staged | settling | carrying | verified | faulted | darked
deriving DecidableEq, Repr

/-- STATE of a drive element (R38). -/
inductive ElSt | idle | bar | cross | eyOpen | eyDark
deriving DecidableEq, Repr

/-- A thread: the descriptor of R41 without its ingress port (the key), its route and its verification.
`route` lists the output wire it takes at each stage (R30 to R33); `await` the channels that have not yet passed;
`bad` the channels outside their window on consecutive conversions, with their number (R44); `reinj` the
channels injected after light returned (R45). `late` is what a hand-over or a grace period adds to the time of settling (R324, R332). `slice` is
the build of the active slice that the commit being verified was compiled against (R58). `darkAt` and `darkFrom` say at which count the thread
last went DARKED and from which state, for a verdict of the same cycle (R46). -/
structure Thread where
  outPort : Nat := 0
  tenant : Nat := 0
  band : Bool := false
  pricked : Bool := false
  move : Bool := false
  st : ThreadSt := .none
  noLight : Bool := false
  degrade : Bool := false
  mixed : Bool := false
  gen : BitVec 8 := 0
  route : List Nat := []
  seq : Nat := 0
  ring : Nat := 0
  prev : ThreadSt := .none
  epoch : Nat := 0
  late : Nat := 0
  await : List Nat := []
  bad : SMap Nat := []
  reinj : List Nat := []
  reinjFrom : Nat := 0
  releasing : Bool := false
  vSince : Nat := 0
  slice : Nat := 0
  darkAt : Option Nat := Option.none
  darkFrom : ThreadSt := .none
deriving DecidableEq, Repr

/-- One entry of a compiled delta (R83). -/
structure DeltaEntry where
  elem : Nat
  st : ElSt
  ncode : NCode
  hff : BitVec 12
  hrange : Bool
  band : Bool
  mixed : Bool
  moved : Bool
deriving DecidableEq, Repr

/-- What one commit does to one thread: the operation (R81), the ingress port, the thread as it will stand at the
epoch, and the thread as the commit found it. -/
inductive ChangeKind | create | modify | reopen | release | dark | moved
deriving DecidableEq, Repr

structure Change where
  kind : ChangeKind
  inPort : Nat
  after : Thread
  before : Thread
  retarget : Bool := false
  dropped : Bool := false
deriving DecidableEq, Repr

/-- How far a pending commit has come (R90 to R93): waiting, posted to Tambour, DAC_STAGED and its comparator armed. -/
inductive StageSt | waiting | posted | armed (k : Nat)
deriving DecidableEq, Repr

/-- A pending commit (R87): the completion that accepted it, its epoch as PTP nanoseconds and as an extended count,
its compiled delta, its changed channels (R85), the commits its routes assume (R481), and the build of the slice it was compiled against
(R58). `placed` says that it was placed in an OPEN entry (R130), `doomed` names the commits whose dropped parts its routes assume (R481). -/
structure Commit where
  seq : Nat
  ring : Nat
  tenant : Nat
  epochNs : Nat
  epoch : Nat
  changes : List Change
  delta : List DeltaEntry
  chans : List Nat
  deps : List Nat
  stage : StageSt := .waiting
  fcid : Option Nat := Option.none
  placed : Bool := false
  doomed : List Nat := []
  slice : Nat := 0
deriving DecidableEq, Repr

/-- A loaded commit whose threads are still being judged (R104 to R107). -/
structure Judged where
  seq : Nat
  ring : Nat
  tenant : Nat
  epoch : Nat
  ports : List Nat
  nCodes : Nat
  nCh : Nat
  cMax : Nat
  chans : List Nat
  lastVerdict : Nat := 0
  fcid : Option Nat := Option.none
  releases : List Nat := []
deriving DecidableEq, Repr

/-- A commit outcome record (R107). -/
structure Outcome where
  seq : Nat
  outcome : Nat
  epoch : Stamp
  nCodes : Nat
  nCh : Nat
  nVer : Nat
  nFlt : Nat
  nNol : Nat
  nDrk : Nat
  tVer : Nat
  cMax : Nat
  ring : Nat
  tenant : Nat
deriving DecidableEq, Repr

/-- A completion entry (R357). -/
structure Cpl where
  origin : BitVec 16
  seq : Nat
  status : BitVec 8
  result : BitVec 56
  tag : BitVec 16
  stamp : Stamp
  epochSec : BitVec 48
  epochNs : BitVec 32
deriving DecidableEq, Repr

/-- An event entry (R374); the payload lists the values its chapter names, in the order of its table. -/
structure Ev where
  origin : BitVec 16
  seq : Nat
  source : Nat
  phase : Bool
  stamp : Stamp
  payload : List Nat
deriving DecidableEq, Repr

/-- Where an authenticated datagram came from (R383). -/
structure Remote where
  addr : BitVec 32
  port : BitVec 16
  keyGen : BitVec 16
  counter : Nat
deriving DecidableEq, Repr

/-- What waits in a ring's posted part: a slot of 64 bytes, or a remote command (R347, R383). -/
structure Posted where
  bytes : Bytes
  slot : Nat
  remote : Option Remote
deriving DecidableEq, Repr

/-- The colour of a read command (R365); ring 0 is never metered. -/
inductive Colour | unmetered | green | yellow | red
deriving DecidableEq, Repr

/-- A command that has been read and is not yet completed: its bytes, its colour, the status that check 1 or 2 of
R86 has given it, and whether a reaction line has asserted since it was read (R360). -/
structure ReadCmd where
  bytes : Bytes
  slot : Nat
  colour : Colour
  refusal : Option Nat
  aborted : Bool := false
  remote : Option Remote := Option.none
deriving DecidableEq, Repr

/-- The parts of a BATCH run held so far (R356): the epoch words of the header, the entries. -/
structure BatchRun where
  exact : Bool
  sec : BitVec 48
  ns : BitVec 32
  entries : List (Nat × Bytes)
  broken : Bool := false
deriving DecidableEq, Repr

/-- A receiver's window (R338): the latest value and the map of the 64 values that end there. -/
structure Win where
  last : Nat := 0
  map : BitVec 64 := 0
deriving DecidableEq, Repr

/-- One ring: its MBX page (R351), its part of host memory, its meter, its key. -/
structure Ring where
  cmdBase : BitVec 64 := 0
  cmdSize : BitVec 4 := 0
  cplBase : BitVec 64 := 0
  evtBase : BitVec 64 := 0
  evtSize : BitVec 4 := 0
  db : Nat := 0
  cmdHead : Nat := 0
  cplHead : Nat := 0
  cplTail : Nat := 0
  evtHead : Nat := 0
  evtTail : Nat := 0
  bound : Bool := false
  en : Bool := false
  versions : BitVec 3 := 0
  cplFull : Bool := false
  dmaErr : Bool := false
  tenant : Nat := 0
  intr : Word := 3
  green : Word := 0
  yellow : Word := 0
  red : Word := 0
  evtDrop : Word := 0
  dropsPending : Nat := 0
  tc : Nat := 0
  te : Nat := 0
  cir : Nat := 0
  cbs : Nat := 0
  ebs : Nat := 0
  inMask : BitVec 512 := 0
  outMask : BitVec 512 := 0
  key : Option Bytes := Option.none
  keyGen : BitVec 16 := 0
  ctrWin : Win := {}
  run : Option BatchRun := Option.none
  posted : List Posted := []
  read : List ReadCmd := []
  cpls : List Cpl := []
  evts : List Ev := []
  cplPhase : Bool := true
  evtPhase : Bool := true
  cplUnsig : Nat := 0
  evtUnsig : Nat := 0
  cplSeq : Nat := 0
  evtSeq : Nat := 0
deriving DecidableEq, Repr

/-- A response written to host memory for a read command (R373). -/
structure Response where
  addr : BitVec 64
  bytes : Bytes
deriving DecidableEq, Repr

/-- A reply on the management Ethernet: where it goes and its envelope (R381, R383). -/
structure UdpReply where
  addr : BitVec 32
  port : BitVec 16
  payload : Bytes
deriving DecidableEq, Repr

/-- One management Ethernet port (R380, NET_CFG). -/
structure NetPort where
  addr : BitVec 32 := 0
  mask : BitVec 32 := 0
  gateway : BitVec 32 := 0
  vlan : BitVec 16 := 0
  remoteEn : Bool := false
deriving DecidableEq, Repr

/-- Mailboxes: the 16 rings, the round-robin position of R348, the host memory the hoop has written, the MSI-X vectors signalled and the MSI-X table (R342), remote replies and drops: those for want
of a key, for KEY_GEN, for the MAC, for COUNTER, for the form of the envelope. `accepted` lists the counts at which the commands of the last 1 ms were
accepted (R26). -/
structure Mbx where
  rings : SMap Ring := []
  rrGreen : Nat := 0
  rrYellow : Nat := 0
  responses : List Response := []
  msix : List Nat := []
  msixTable : SMap Word := []
  udpTx : List UdpReply := []
  drops : List Nat := [0, 0, 0, 0, 0]
  dropAddr : BitVec 32 := 0
  dropEvSec : Option Nat := Option.none
  net0 : NetPort := {}
  net1 : NetPort := {}
  accepted : List Nat := []
deriving DecidableEq, Repr

/-- The EVT block (R379). -/
structure Evt where
  raised : Word := 0
  dropped : Word := 0
  sub : BitVec 576 := BitVec.allOnes 576
  cnt : SMap Word := []
deriving DecidableEq, Repr

/-! ## Faults, dark keeper, journal, history -/

/-- One fault source (R278, R303). `agree` says that its rails agree (R277); `since` is the count at which LIVE last set; `jsec` and `jnum`
count the journal records of the present second. -/
structure Src where
  live : Bool := false
  sticky : Bool := false
  wire : Bool := false
  agree : Bool := false
  cnt : Nat := 0
  det : BitVec 13 := 0x1FFF
  time : Stamp := 0
  since : Nat := 0
  jsec : Nat := 0
  jnum : Nat := 0
deriving DecidableEq, Repr

/-- The fault collector (R276 to R285, R303). `firstAt` is the count of the sample that FC_FIRST was captured in, `firstNew` says that event 455 has
still to tell it (R279). -/
structure Fc where
  src : SMap Src := []
  first : Word := 0
  firstTime : Stamp := 0
  firstAt : Nat := 0
  firstNew : Bool := false
  last : Word := 0
  lastTime : Stamp := 0
  hold : Bool := false
  newCnt : Word := 0
  pulse : Bool := false
  pulseEnd : Nat := 0
  dark : Bool := false
deriving DecidableEq, Repr

/-- The dark keeper (R288 to R291, R304), in the VKEEP domain. `pend` is a latch update that waits. -/
structure Dk where
  force : Bool := false
  armed : Bool := false
  vouch : Bool := false
  fcPar : Bool := false
  imageBad : Bool := false
  confirmed : Bool := false
  remote : Bool := false
  cause : Word := 0xFF
  time : Stamp := 0
  relTime : Stamp := 0
  count : Word := 0
  crc : Word := 0
  sp : BitVec 16 := 0
  codes : SMap NCode := []
  pend : Option (SMap NCode × BitVec 16) := Option.none
  relAccepted : Bool := false
  confirmed1 : SMap Nat := []
deriving DecidableEq, Repr

/-- A journal record before it is written (R292): everything but SEQ and CRC. -/
structure JRec where
  type : BitVec 16
  sev : BitVec 8
  flags : BitVec 8
  stamp : Stamp
  sec : BitVec 48
  ns : BitVec 32
  source : BitVec 16
  payload : Bytes
deriving DecidableEq, Repr

/-- The journal writer (R292 to R297, R305). `loss` is the entry held outside the buffer: records dropped, first and
last STAMP. `deferCause` is the cause of a deferral, hold-up or gate. -/
structure Jnl where
  buf : List JRec := []
  loss : Option (Nat × Stamp × Stamp) := Option.none
  head : Nat := 0
  seq : BitVec 32 := 0
  lost : Word := 0
  holdup : BitVec 11 := 0
  holdupMin : BitVec 11 := 0x3E8
  holdupOk : Bool := false
  bursts : Word := 0
  writing : Bool := false
  deferred : Bool := false
  deferredHoldup : Bool := false
  final : Bool := false
  oldest : Nat := 0
deriving DecidableEq, Repr

/-- One closed or open minute of one tenant (R389). -/
structure LedRec where
  minute : Nat
  tenant : Nat
  carry : Nat := 0
  verify : Nat := 0
  prkCarry : Nat := 0
  prkVerify : Nat := 0
  unconf : Nat := 0
  threads : List Nat := []
  utc : Int := 0
  flags : BitVec 16 := 0
deriving DecidableEq, Repr

/-- An interval that runs (R385): its start, and whether the thread was countable throughout. -/
structure Interval where
  start : Nat
  verFrom : Option Nat
deriving DecidableEq, Repr

/-- The ledger (R385 to R390): the open minute, the minute that is closing, and the last 60 closed minutes. -/
structure Ledger where
  minute : Nat := 0
  openRecs : List LedRec := []
  closing : List LedRec := []
  closingMin : Option Nat := Option.none
  closingFlags : BitVec 16 := 0
  closed : List (Nat × List LedRec) := []
  runs : SMap Interval := []
  flags : BitVec 16 := 0
deriving DecidableEq, Repr

/-- One channel's running second (R299): VALID conversions, the sum, the least and the greatest of their photocurrents in 1/65,536 pA, conversions
with OVR, and whether the spare has served it. -/
structure ChStat where
  n : Nat := 0
  sum : Nat := 0
  min : Nat := 0
  max : Nat := 0
  ovr : Nat := 0
  spare : Bool := false
deriving DecidableEq, Repr

/-- The history store (R298 to R300): whether it is present and usable, its rings with the second or minute of each entry, what is deferred, the
snapshot that waits for its second, writes that failed in a row. -/
structure Hist where
  present : Bool := false
  failed : Bool := false
  capacity : Nat := 0
  summaries : List (Nat × Bytes) := []
  counters : List (Nat × Bytes) := []
  ledger : List (Nat × Bytes) := []
  pendingSecs : List (Nat × Bytes × Bytes) := []
  pendingLed : List (Nat × Bytes) := []
  deferring : Bool := false
  badWrites : Nat := 0
  chStats : SMap ChStat := []
  snap : Option (Nat × Bytes) := Option.none
deriving DecidableEq, Repr

/-! ## Timebase -/

/-- Servo states (R71, R80). -/
inductive Servo | freerun | acquiring | locked | holdover
deriving DecidableEq, Repr

/-- One PTP domain: its configuration (R70, PTP_CFG) and its servo (R71, R74). `since` is the count at which the
present state began, `acqAt` that at which ACQUIRING last began; `syncs`, `good` and `bad` count consecutive Syncs. `rxStamp` and `rxFrac` are the
PTP stamp of the last Sync (R65), `meas` what it measured with its corrections and without the mean path delay, 1/16 ns (R70). -/
structure Dom where
  configured : Bool := false
  domainNumber : BitVec 7 := 0
  port : Bool := false
  transport : BitVec 8 := 0
  p2p : Bool := false
  logInt : Int := 0
  asym : Int := 0
  phyTx : Nat := 0
  phyRx : Nat := 0
  holdLimit : Nat := 10
  st : Servo := .freerun
  selected : Bool := false
  syncs : Nat := 0
  good : Nat := 0
  bad : Nat := 0
  since : Nat := 0
  limitOver : Bool := false
  offset : Int := 0
  mpd : BitVec 32 := 0
  utc : Int := 0
  acqAt : Nat := 0
  rxStamp : Stamp := 0
  rxFrac : BitVec 4 := 0
  meas : Int := 0
  masterSec : Nat := 0
  masterNs : Nat := 0
deriving DecidableEq, Repr

/-- A comparator (R68): the time T as an extended count in 1/16 ns, armed, fired, and the fine delay of its last firing, 1/16 ns. -/
structure Cmp where
  t16 : Nat := 0
  armed : Bool := false
  fired : Bool := false
  fine : Nat := 0
deriving DecidableEq, Repr

/-- The TB block (R63 to R80). `acc` is the 64-bit accumulator, `inc` the 8.32 increment. The anchor holds an
extended count and PTP seconds and nanoseconds. `heldEvents` are instants beyond the horizon, in PTP nanoseconds
with their comparator. `incHist` lists the increments of the last 60 s, each with the count from which it held; `ppsEnd` is the count at which the
pulse on PPS_OUT ends. -/
structure Tb where
  acc : BitVec 64 := 0
  wrap : BitVec 32 := 0
  inc : BitVec 40 := 0x0200000000
  fracLatch : BitVec 32 := 0
  prevWrapped : Bool := false
  snapCnt : BitVec 32 := 0
  snapFrac : BitVec 32 := 0
  snapSec : BitVec 48 := 0
  snapNs : BitVec 32 := 0
  snap2Sec : BitVec 48 := 0
  snap2Ns : BitVec 32 := 0
  anchorCnt : Nat := 0
  anchorSec : Nat := 0
  anchorNs : Nat := 0
  anchorGen : BitVec 32 := 0
  secOffset : Int := 0
  secRate : Int := 0
  secBase : BitVec 32 := 0
  ppsEn : Bool := false
  ppsGate : Bool := true
  ppsWidth : BitVec 19 := 10000
  ppsOut : Bool := false
  ppsEnd : Nat := 0
  ppsInStamp : BitVec 32 := 0
  ppsInFrac : BitVec 4 := 0
  ppsInDev : Int := 0
  ppsInLimit : BitVec 32 := 100
  cmps : SMap Cmp := []
  heldEvents : List (Nat × Nat) := []
  pri : Dom := {}
  sec : Dom := {}
  domSwitches : Nat := 0
  stepClosed : Bool := false
  timeValid : Bool := false
  linkOk : Bool := false
  incHist : List (Nat × Nat) := [(0, 0x0200000000)]
deriving DecidableEq, Repr

/-! ## Commits and pricking -/

/-- The verify tolerances (R103): steps of 0.1 dB, of 0.5 dB, codes of G0. -/
structure VParams where
  litTol : Nat := 10
  unlitMargin : Nat := 0
  absFloor : Nat := 16
deriving DecidableEq, Repr

/-- The commit unit: pending table, commits being judged, outcome history (the last 1,024), the rotation of
comparators 0 to 3, the verify tolerances (R103): the last ones set with the count from which they hold, and the earlier ones, newest first,
each with the count from which it held. -/
structure Cm where
  pending : List Commit := []
  judging : List Judged := []
  history : List Outcome := []
  rotation : Nat := 0
  vp : VParams := {}
  vpFrom : Nat := 0
  vpPast : List (Nat × VParams) := []
deriving DecidableEq, Repr

/-- What a slot holds (R116). -/
inductive SlotKind | empty | pattern | mask
deriving DecidableEq, Repr

/-- A slot's threads as recompiled around a commit (R131): the count of the boundary from which they hold, the commit's SEQ, the threads. -/
structure Refit where
  from_ : Nat
  seq : Nat
  threads : SMap Thread
deriving DecidableEq, Repr

/-- A pricking slot (R116): its threads or its mask; `pend` the recompiled threads that wait for their boundary, in order; `rot` its channels in
verification order (R132), `first` and `firstCycle` its first occurrence since it began verification. -/

structure Slot where
  kind : SlotKind := .empty
  threads : SMap Thread := []
  mask : BitVec 512 := 0
  pend : List Refit := []
  rot : List Nat := []
  first : Option Nat := Option.none
  firstCycle : Nat := 0
  verified : Bool := false
deriving DecidableEq, Repr

/-- A list entry (R119). -/
structure PEntry where
  dwell : BitVec 32
  index : BitVec 8
  type : BitVec 2
  rsv : BitVec 22
deriving DecidableEq, Repr

/-- A list that runs or is armed: its store, length, base as PTP nanoseconds, repeat count, cycle length, the
extended count of its first boundary and that boundary's number. -/
structure PList where
  store : Bool
  len : Nat
  baseNs : Nat
  repeats : Nat
  cycle : Nat
  startK : Nat
  startAt : Nat
  short : Nat
  firstShort : Nat
deriving DecidableEq, Repr

/-- The pricking unit (R116 to R137). `lit` lists the pricked eyelets that are open, `occFrom` the count from which their time is still
to be added to the ledger, `codes` the codes of the next entry's stage, `eyeIn` the last judged reading of each pricked thread's eyelet tap, by
512 slot + port, with its time (R132). -/
structure Prk where
  slots : SMap Slot := []
  load : Option (Nat × List (BitVec 64)) := Option.none
  store0 : SMap PEntry := []
  store1 : SMap PEntry := []
  active : Option PList := Option.none
  swap : Option PList := Option.none
  started : Bool := false
  stopAt : Option Nat := Option.none
  cycleNum : Nat := 0
  cycleStart : Nat := 0
  pos : Nat := 0
  nextEpoch : Nat := 0
  curType : BitVec 2 := 0
  heldNow : Bool := false
  catchup : Bool := false
  endCause : BitVec 2 := 0
  held : BitVec 32 := 0
  heldLast : BitVec 32 := 0
  startK : BitVec 32 := 0
  short : Nat := 0
  firstShort : Nat := 0
  base : Nat := 0
  nextStaged : Bool := false
  codes : Nat := 0
  override : BitVec 512 := 0
  tempEnd : Bool := false
  loaded : Option Nat := Option.none
  lit : List Nat := []
  occFrom : Nat := 0
  eyeIn : SMap (Nat × Nat) := []
deriving DecidableEq, Repr

/-! ## Tambour -/

/-- States of the sequencer (R160). -/
inductive TmbSt | notStarted | idle | running | waiting | stopped | halted
deriving DecidableEq, Repr

/-- A posted operation (R152): its code and what it names: a commit by 16 SEQ + ring, tiles with the codes to park or rewrite, a group,
a comparator. `roll` marks a roll-back or completion operation of R157. -/
structure TOp where
  code : BitVec 6
  seq : Nat := 0
  tiles : List Nat := []
  group : Nat := 0
  cmp : Option Nat := Option.none
  park : List Nat := []
  roll : Bool := false
deriving DecidableEq, Repr

/-- A word of a patch store: its data bits and its check bits (R141, R145). -/
structure Checked (d c : Nat) where
  data : BitVec d := 0
  check : BitVec c := 0
deriving DecidableEq, Repr

/-- An operation that microcode of the patch RAM runs (R140 to R145, R151; assumption 144): where it stands, its return stack, its element list with
how much of it has been written and read back, the last transfer, the channels to inject, its epoch, the nanoword's code source, and the stall of a
WAIT. -/
structure Run where
  op : TOp
  pc : BitVec 12
  stack : List (BitVec 12) := []
  delta : List DeltaEntry := []
  chans : List (Nat × List Nat) := []
  epoch : Nat := 0
  wrote : Nat := 0
  readBack : Nat := 0
  reading : Bool := false
  mismatch : Bool := false
  refused : Bool := false
  phase : Nat := 0
  source : Nat := 0
  waitFrom : Option Nat := Option.none
deriving DecidableEq, Repr

/-- Tambour (R138 to R160). `run` is the operation that patch microcode runs, `savedN` and `savedU` the save slots (R151), `since` the microcycles
without a knot since a stop was requested, `stopped` the operation that the last stop ended, `badWords` the patch words that the scrub found
uncorrectable and that have not been fetched (R147). -/
structure Tmb where
  st : TmbSt := .notStarted
  op : BitVec 6 := 0
  urgent : List TOp := []
  normal : List TOp := []
  urgentMax : Nat := 0
  normalMax : Nat := 0
  run : Option Run := Option.none
  savedN : Option Run := Option.none
  savedU : Option Run := Option.none
  since : Nat := 0
  stopped : Option TOp := Option.none
  badWords : List (Bool × Nat) := []
  dacStaged : Bool := false
  stagedSeq : Option Nat := Option.none
  waitCond : BitVec 5 := 0
  darkReq : BitVec 512 := 0
  upc : BitVec 12 := 0
  abortValid : Bool := false
  abortInfo : Word := 0
  abortCtx : Word := 0
  abortTime : Stamp := 0
  abortPre : Word := 0
  stopReq : Option Nat := Option.none
  hold : Bool := false
  eccMicro : BitVec 16 := 0
  eccNano : BitVec 16 := 0
  eccLast : Word := 0
  eccEvMicro : Option Nat := Option.none
  eccEvNano : Option Nat := Option.none
  eccSec : Nat := 0
  eccSecCnt : Nat := 0
  opsDone : Word := 0
  waitTo : Word := 0
  patchLock : Bool := false
  patchId : BitVec 16 := 0
  patchCrc : Word := 0
  micro : SMap (Checked 32 7) := []
  nano : SMap (Checked 128 9) := []
  matchRegs : SMap (BitVec 32) := []
  overrides : SMap (BitVec 32) := []
  stageDelta : List DeltaEntry := []
  strobeTiles : List Nat := []
deriving DecidableEq, Repr

/-! ## Drive arrays -/

/-- Kinds of needle window (R167). -/
inductive WinKind | drive | refresh | dither | slew
deriving DecidableEq, Repr

/-- One needle (R161 to R165, R180): both banks, by their number, the DAC register, its mask, its ramp, its tone, and the dither term that its last
window sampled (R176). -/
structure Needle where
  bank0 : NCode := 0
  bank1 : NCode := 0
  reg : NCode := 0
  masked : Bool := false
  ramp : Bool := false
  track : Bool := false
  tone : BitVec 4 := 0
  dtarget : BitVec 2 := 0
  dither : Int := 0
deriving DecidableEq, Repr

/-- One heater (R171, R172, R180). `pend` is a write that arrived during the range-change hold. -/
structure Heater where
  out : BitVec 12 := 0
  range : Bool := false
  tgt : BitVec 12 := 0
  tgtRange : Bool := false
  compl : Bool := false
  hold : Bool := false
  reached : Bool := false
  track : Bool := false
deriving DecidableEq, Repr

/-- One tile's configuration and window (R164, R167, R180). `driven` says that it has had its first drive window, which opens its discharge switch
(R177). -/
structure Tile where
  nSlew : Bool := false
  nStep : BitVec 8 := 0x10
  nPeriod : BitVec 10 := 0
  dith : Bool := false
  written : Bool := false
  hSlew : Bool := true
  hStep : BitVec 8 := 8
  hPeriod : BitVec 10 := 0
  win : Option WinKind := Option.none
  winStart : Nat := 0
  driven : Bool := false
deriving DecidableEq, Repr

/-- One dither tone (R175). -/
structure Tone where
  ftw : BitVec 32 := 0
  amp : BitVec 6 := 0
  en : Bool := false
  acc : BitVec 32 := 0
deriving DecidableEq, Repr

/-- State of one drive element as its status word reports it (R38). `unusable` says that its needle is masked or that its heater compliance check
has failed; both BAND_BAD bits make it UNUSABLE too (`Elem.excluded`). -/
structure Elem where
  st : ElSt := .idle
  band : Bool := false
  mixed : Bool := false
  unusable : Bool := false
  samplerBad : Bool := false
  refined : Bool := false
  badO : Bool := false
  badC : Bool := false
deriving DecidableEq, Repr

/-- The drive arrays of a hoop (R161 to R180). `bankSel` is the bank that is active. -/
structure Drv where
  needles : SMap Needle := []
  heaters : SMap Heater := []
  tiles : SMap Tile := []
  tones : SMap Tone := []
  elems : SMap Elem := []
  bankSel : Bool := false
  outEn : Bool := false
  refRun : Bool := false
  refOrigin : Nat := 0
  refSlot : BitVec 8 := 0
  refFrame : BitVec 24 := 0
  refSkip : Word := 0
  chkPost : BitVec 16 := 0
  chkPre : BitVec 16 := 0
  chkLast : Word := 0
  chkTime : Stamp := 0
  dglCnt : Word := 0
  nClamp : Word := 0
  nFirstDone : Bool := false
  hFirstDone : Bool := false
  hOutEn : Bool := false
  hSum : Nat := 0
  hCeil : Word := 0xFFFFFFFF
  rangeChg : Word := 0
  hClamp : Word := 0
  complCnt : Word := 0
  complLast : BitVec 13 := 0
deriving DecidableEq, Repr

/-- The active slice (R58): the sampler bytes it was built from, the temperature in 0.01 degrees it was built for,
the number of its build, the refinements added to HBIAS since (R60), the last time each record was written, and the header's LIGHT_FLOOR and
dark ceiling per band as photocurrents in 1/65,536 pA (R57, R182). -/
structure Slice where
  built : Bool := false
  headerOk : Bool := false
  src : List Host.Cell := []
  temp : Nat := 0
  rebuilding : Bool := false
  rebuildTemp : Nat := 0
  gen : Nat := 0
  adj : SMap Int := []
  wrote : SMap Nat := []
  floorO : Nat := 0
  floorC : Nat := 0
  ceilO : Nat := 0
  ceilC : Nat := 0
deriving DecidableEq, Repr

/-- The route map (R282): for each stitch the ingress ports of up to two threads, for each out port its thread. -/
structure RMap where
  stitch : SMap (List Nat) := []
  out : SMap (Option Nat) := []
deriving DecidableEq, Repr

/-! ## Monitor acquisition -/

/-- One monitor channel (R181 to R190, R212): range, flags, the trims kept for each range, the latest result word and
its stamp (R187, R188). `settle` counts the SETTLE conversions owed (R186, R189), `low` the VALID conversions below the
step-down limit (R184), `rail` the conversions at a rail (R206), `good` the latest VALID word and `goodAt` the count at which its
conversion started, `diff` the consecutive words that differ from the holder's (R239), `dark` the judged readings of a dark
confirmation: those below the ceiling, plus 4 for each that is not (R110). `sw` is the count of the last change of range or of front end (R186),
`owe` the instants from which a first conversion is still to carry SETTLE (R189), `due` says that a test of the front end waits for the group's
spare (R206), `ret` that the return to its own TIA waits for the channel's verdict (R202). -/
structure Chan where
  range : BitVec 2 := 2
  auto : Bool := true
  presel : Bool := false
  spare : Bool := false
  lost : Bool := false
  calFail : Bool := false
  ofs : List (BitVec 8) := [0, 0, 0]
  gain : List (BitVec 8) := [0, 0, 0]
  calStatus : BitVec 16 := 2
  word : Word := 0
  stamp : Stamp := 0
  good : Word := 0
  goodAt : Nat := 0
  diff : Nat := 0
  settle : Nat := 0
  low : Nat := 0
  rail : Nat := 0
  testing : Bool := false
  dark : Nat := 0
  sw : Nat := 0
  owe : List Nat := []
  due : Bool := false
  ret : Bool := false
deriving DecidableEq, Repr

/-- An entry of an injected sequence or queue (R195): channel, commit, the count from which it may convert, whether it has been converted in the
present pass of the sequence, whether it confirms a dark (R110). -/
structure InjEntry where
  chan : Nat
  seq : Nat
  from_ : Nat
  done : Bool := false
  dark : Bool := false
deriving DecidableEq, Repr

/-- One ADC group (R192 to R196, R207, R209, R212). `left` lists the entries of the running regular pass that are still to be converted, or in the
scan-mask parts the positions of the main mask; `passDue` says that a pass waits for it to end (R193). `window` is the count at which the present
window of 20 slots began, `used` the slots that the regular source, the injected source and the others have had in it (R196). -/
structure Group where
  profile : BitVec 2 := 1
  lost : Bool := false
  spareAdc : Bool := false
  calBlocked : Bool := false
  inj : List InjEntry := []
  injQueue : List InjEntry := []
  ovrSettle : Nat := 0
  passRate : BitVec 16 := 0
  passes : Nat := 0
  left : List Nat := []
  passDue : Bool := false
  window : Nat := 0
  used : List Nat := [0, 0, 0]
deriving DecidableEq, Repr

/-- The steps of calibrating one channel (R201). -/
inductive CalPh | zero0 | zero1 | zero2 | lvl0 | lvl1 | lvl2 | check
deriving DecidableEq, Repr

/-- A calibration in progress: channel (or spare of a group past the last channel), step, averages taken, whether it is
the second try, the trims that the channel had before. -/
structure Cal where
  chan : Nat
  ph : CalPh
  avgs : List Nat
  retry : Bool
  hold : Bool
  ofs0 : List (BitVec 8) := []
  gain0 : List (BitVec 8) := []
deriving DecidableEq, Repr

/-- The MON block of a hoop. `injAt` lists the starts of the injected conversions of the last 1 ms (R26). -/
structure Mon where
  chans : SMap Chan := []
  groups : SMap Group := []
  refOk : Bool := false
  refSrc : BitVec 2 := 0
  refFallback : Bool := false
  refMeas : Word := 1250000
  refChanged : Nat := 0
  calEn : Bool := false
  calInterval : BitVec 12 := 60
  cal : Option Cal := Option.none
  calRun : Bool := false
  sparePass : Bool := false
  calPaused : Bool := false
  calIMissing : Bool := false
  calFailed : BitVec 16 := 0
  calRound : Word := 0
  calTime : Stamp := 0
  calStart : Nat := 0
  calEnd : Nat := 0
  planeWr : Bool := false
  spare0 : BitVec 6 := 0x3F
  spare0Perm : Bool := false
  spare1 : BitVec 6 := 0x3F
  spare1Perm : Bool := false
  adcCal : List Nat := []
  ovrCnt : Word := 0
  refnokCnt : Word := 0
  calSel : BitVec 2 := 0
  sweepDeferred : Bool := false
  injAt : List Nat := []
deriving DecidableEq, Repr

/-! ## Loops -/

/-- Loop states (R229). -/
inductive LSt | off | ff | settle | closed | hold
deriving DecidableEq, Repr

/-- One loop (R218 to R241). Values in Q16.16 are integers in units of 2^-16 heater LSB. `changed` notes that the last
update moved u, `mLast` the magnitude before it, `above` the updates that exceeded it, `sinceFlip` updates since the last
flip, `low` the updates below the range threshold of R236. -/
structure Loop where
  set : BitVec 4 := 0
  st : LSt := .off
  sigma : Bool := false
  rlim : Bool := false
  isat : Bool := false
  note : Bool := false
  ff : Nat := 0
  i : Int := 0
  d : Int := 0
  p : Int := 0
  errPrev : Int := 0
  u : Nat := 0
  ur : Int := 0
  mLast : Nat := 0
  above : Nat := 0
  changed : Bool := false
  sinceFlip : Nat := 8
  flips : List Nat := []
  low : Nat := 0
  lx : Int := 0
  ls : Int := 0
  lm : Nat := 0
  lag : List Int := [0, 0, 0, 0]
  lastUpd : Nat := 0
  lastPass : Nat := 0
  reclamp : Bool := false
  turned : Bool := false
  stableFrom : Nat := 0
  stableLo : Int := 0
  stableHi : Int := 0
deriving DecidableEq, Repr

/-- A coefficient set (R233, R241): register values. -/
structure Coef where
  kp : BitVec 32 := 0
  ki : BitVec 32 := 0
  kd : BitVec 32 := 0
  a : BitVec 16 := 0
  imin : BitVec 32 := 0
  imax : BitVec 32 := 0
  cfg : BitVec 32 := 0
  lim : BitVec 16 := 0
deriving DecidableEq, Repr

/-- The reset values of the sets of R234. -/
def Coef.reset (k : Nat) : Coef :=
  match k with
  | 0 => { kp := 0x4000, ki := 0x0CCD, a := 0x8000, imin := 0xFC000000, imax := 0x04000000, cfg := 0x00050A00, lim := 0x40 }
  | 1 => { ki := 0x3333, imin := 0xFC000000, imax := 0x04000000, cfg := 1, lim := 0x40 }
  | 2 => { ki := 0x3333, imin := 0xFE000000, imax := 0x02000000, cfg := 1, lim := 0x40 }
  | _ => {}

/-- The BOB block of a hoop. -/
structure Bob where
  loops : SMap Loop := []
  sets : List Coef := (List.range 16).map Coef.reset
  shadows : List Coef := List.replicate 16 {}
  swapPend : BitVec 16 := 0
  swapRef : BitVec 16 := 0
  run : Bool := false
  follow : Bool := false
  tick : Word := 0
  nbrTau : BitVec 16 := 0x28
  cap : Word := 0xFFFFFFFF
  slow : Word := 0
  degCnt : Word := 0
  flipCnt : Word := 0
  cmpDiff : Word := 0
  slowEvMs : Option Nat := Option.none
deriving DecidableEq, Repr

/-! ## Thermal unit -/

/-- One TEC zone (R252 to R261). `means` are the 1 ms zone means of the last 100 ms, `sum` and `cnt` the passes of the
running millisecond. Temperatures are in 0.01 degrees. -/
structure Zone where
  t : Int := 0
  mean : Int := 0
  sum : Int := 0
  cnt : Nat := 0
  means : List Int := []
  u : Int := 0
  i : Int := 0
  d : Int := 0
  errPrev : Int := 0
  active : BitVec 13 := 500
  shadow : BitVec 13 := 500
  shadowAt : Nat := 0
  shadowNext : Option (BitVec 13) := Option.none
  per : BitVec 13 := 1000
  dead : BitVec 10 := 0
  reloadAt : Nat := 0
  coef : Coef := { kp := 0x6666, ki := 7, imin := 0xFFFF0000, imax := 0x00010000 }
  sh : Coef := {}
  swapPend : Bool := false
  fwd : Bool := false
  rev : Bool := false
  restart : Bool := false
  running : Bool := false
  ilimAct : Bool := false
  trip : Bool := false
  tripLive : Bool := false
  tripCnt : BitVec 16 := 0
  brgLvl : BitVec 3 := 0
  brgSince : Nat := 0
  brgSd : Bool := false
  brgFixed : Bool := false
  brgWarn : Bool := false
deriving DecidableEq, Repr

/-- The TEC block. -/
structure Tec where
  z0 : Zone := {}
  z1 : Zone := {}
  en : Bool := false
  drive : Bool := false
  dbgHalt : Bool := false
  settled : Bool := false
  spLost : Bool := false
  period : BitVec 13 := 1000
  deadT : BitVec 10 := 0
  setpt : BitVec 16 := 4000
  eff : BitVec 16 := 4000
  src : BitVec 2 := 0
  ilimNom : BitVec 16 := 100
  ifull : BitVec 16 := 100
  ownSp : Int := 4000
  spDiff : Nat := 0
deriving DecidableEq, Repr

/-- One lattice diode (R242 to R245): its latest reading, the sum of the running millisecond, its last 1 ms mean; a standby's own reading and
sum, and the consecutive means that differed (R248). -/
structure Diode where
  t : Int := 0
  sum : Int := 0
  cnt : Nat := 0
  mean : Int := 0
  suspect : Bool := false
  strikes : BitVec 2 := 0
  own : Int := 0
  ownSum : Int := 0
  diff : Nat := 0
deriving DecidableEq, Repr

/-- The THS block (R243, R267 to R271). -/
structure Ths where
  diodes : SMap Diode := []
  thm : List Int := [0, 0, 0, 0]
  thmR25 : List Nat := [10000, 10000, 10000, 10000]
  thmB : List Nat := [3435, 3435, 3435, 3435]
  thmFlt : BitVec 4 := 0
  ownThm : List Int := [0, 0, 0, 0]
  thmDiff : List Nat := [0, 0, 0, 0]
  dies : List Int := [0, 0, 0, 0, 0, 0, 0, 0]
  jct : Int := 0
  jctMin : Int := 0
  peak : Int := 0
  peakIx : BitVec 5 := 0
  suspectFlt : Bool := false
  jctWarn : Bool := false
  latWarn : Bool := false
  coldWarn : Bool := false
  ambWarn : Bool := false
  latLvl : BitVec 3 := 0
  jctLvl : BitVec 3 := 0
  latSince : Nat := 0
  jctSince : Nat := 0
  mramOk : Bool := false
  commitOk : Bool := false
  latSd : Bool := false
  jctSd : Bool := false
  jctThr : BitVec 24 := 0x73695F
  latThr : BitVec 24 := 0x554B05
  brgThr : BitVec 24 := 0x7D6E64
  auxThr : BitVec 16 := 0x323C
deriving DecidableEq, Repr

/-! ## Hoop pair -/

/-- Hoop roles (R306). -/
inductive Role | offline | active | standby | monitor | resync
deriving DecidableEq, Repr

/-- What the holder sends its peer for each command it accepts (R314): the digest and its completion fields.
`sent` of the pair unit holds those on their way, `awaiting` those the standby has still to match. -/
structure Digest where
  crc : BitVec 64
  ring : Nat
  status : Nat
  epochSec : BitVec 48
  epochNs : BitVec 32
  seq : Nat
  stamp : Stamp
  sentAt : Nat
deriving DecidableEq, Repr

/-- The pair unit of one hoop (R306 to R341). `sigDiff` marks the tiles whose signature differed on the last frame,
`catchup` the tiles a late standby still has to write, `post` the count at which this hoop posted HANDOVER (R321), `resume` the start of a grace
period after which the hoop waits for a refresh boundary to drive again (R332), `heatersBad` a compliance failure in the proving period (R327). -/
structure Pair where
  role : Role := .offline
  token : Bool := false
  strap : Bool := false
  health : BitVec 16 := 0xFFFF
  peerHealth : BitVec 16 := 0xFFFF
  hoCnt : BitVec 16 := 0
  hbCnt : BitVec 16 := 0
  hoLast : Word := 0xFFFF
  hoTime : Stamp := 0
  proving : Bool := false
  tilesProven : BitVec 152 := 0
  heatersProven : Bool := false
  provingFrom : Nat := 0
  cmpSingle : BitVec 16 := 0
  cmpMis : BitVec 16 := 0
  cmpLast : Word := 0
  awaiting : List Digest := []
  sent : List Digest := []
  longestUs : BitVec 16 := 0
  late : Word := 0
  ofm : List Nat := []
  interlock : Bool := false
  sigDiff : BitVec 152 := 0
  sigSame : BitVec 152 := 0
  catchup : List (Nat × List DeltaEntry) := []
  post : Option Nat := Option.none
  resume : Option Nat := Option.none
  heatersBad : Bool := false
deriving DecidableEq, Repr

/-- A hand-over that has been requested (R321): kind 0 planned, 1 fault-driven, 2 hand-back; the hoop that holds the
token, the cause, the count of the request, the element of a hand-back and the check it failed (4 for heater compliance), the tiles whose
windows were cut. -/
structure HandOver where
  kind : Nat
  fromB : Bool
  cause : BitVec 16
  request : Nat
  element : BitVec 16
  check : Nat := 0
  cutTiles : List Nat
deriving DecidableEq, Repr

/-- What the two hoops share of the token: a hand-over in progress, the standby's acknowledgement, the start of the
grace period of R332, whether the token has been claimed since module reset. -/
structure Duo where
  ho : Option HandOver := Option.none
  ack : Bool := false
  grace : Option Nat := Option.none
  claimed : Bool := false
deriving DecidableEq, Repr

/-! ## Walimin -/

/-- One link of a hoop (R391, R392, R422). -/
structure Link where
  up : Bool := false
  lock0 : Bool := false
  lock1 : Bool := false
  aligned : Bool := false
  nbrAddr : BitVec 12 := 0
  nbrId : BitVec 64 := 0
  leaderId : BitVec 64 := 0
  leaderDist : Nat := 15
  tx : Word := 0
  rx : Word := 0
  crc : Word := 0
  ctlDrop : BitVec 16 := 0
  telDrop : BitVec 16 := 0
  tofs : Int := 0
  lastHello : Nat := 0
  lastTrig : Option Nat := Option.none
deriving DecidableEq, Repr

/-- One routing-table entry (R401). `port` is the module port it was learned on, `at_` the count of its last refresh,
`changed` the links that have not yet been told of its last change. -/
structure Rt where
  dist : Nat := 16
  port : Nat := 0
  id : BitVec 64 := 0
  bootgen : BitVec 16 := 0
  valid : Bool := false
  at_ : Nat := 0
  deadAt : Option Nat := Option.none
  changed : List Nat := []
deriving DecidableEq, Repr

/-- A fabric commit that holds one of comparators 9 to 13 (R406 to R412). `st` is a code of WLM_FCs_STATE, `aborted` says that the initiator has
sent ABORT to its members. -/
structure Fab where
  st : Nat
  init : Bool
  fcid : Nat
  initiator : Nat
  members : List Nat
  readyIn : List Nat
  results : List (Nat × Nat)
  epoch : Nat
  epochNs : Nat
  localSeq : Option Nat
  reason : Nat
  aborted : Bool := false
deriving DecidableEq, Repr

/-- A chain record (R414), held for a local thread: its key and the IDs of the modules of the member list. -/
structure Chain where
  initiator : Nat
  fcid : Nat
  chain : Nat
  ids : List (BitVec 64)
deriving DecidableEq, Repr

/-- A DARK_NOTICE that is still to be repeated (R415). -/
structure Notice where
  key : Chain
  inPort : Nat
  cause : Nat
  left : Nat
  sentAt : Nat
deriving DecidableEq, Repr

/-- A frame in an output queue of a link (R393, R394); `tel` for the telemetry queue. -/
structure TxFrame where
  link : Nat
  tel : Bool := false
  bytes : Bytes
deriving DecidableEq, Repr

/-- The Walimin agent of a hoop (R391 to R422). `ended` holds the fabric commits of this initiator whose epoch has passed and whose comparator is
taken again; `seq` counts the messages that both hoops send, `localSeq` the link-local ones of this hoop; `telDeferred` says that R28 defers its
TELEMETRY. -/
structure Wlm where
  addr : BitVec 12 := 0
  pref : BitVec 12 := 0
  lastAddr : BitVec 12 := 0
  id : BitVec 64 := 0
  leader : BitVec 64 := 0
  leaderDist : Nat := 0
  isLeader : Bool := false
  conflict : Bool := false
  bootgen : BitVec 16 := 0
  linkEn : BitVec 4 := 0xF
  links : SMap Link := []
  table : SMap Rt := []
  fabs : SMap Fab := []
  chains : SMap Chain := []
  windows : SMap Win := []
  fwdWindows : SMap Win := []
  seq : Nat := 0
  notices : List Notice := []
  telInterval : BitVec 16 := 1000
  tcLimit : BitVec 16 := 10
  ttlDiscard : BitVec 16 := 0
  noRoute : BitVec 16 := 0
  dup : Word := 0
  noticeTx : BitVec 16 := 0
  noticeRx : BitVec 16 := 0
  fcInit : BitVec 16 := 0
  fcNotComplete : BitVec 16 := 0
  tx : List TxFrame := []
  handOff : List Bytes := []
  discardCrc : Nat := 0
  discardLen : Nat := 0
  discardType : Nat := 0
  discEvSec : Option Nat := Option.none
  qdropEvSec : Option Nat := Option.none
  reachEvSec : Nat := 0
  reachEvNum : Nat := 0
  localSeq : Nat := 0
  ended : List Fab := []
  telDeferred : Bool := false
deriving DecidableEq, Repr

/-! ## Interconnect, counters, power, start-up -/

/-- The XBAR block (R423 to R437). -/
structure Xbar where
  busy : BitVec 10 := 0
  defInfo : Word := 0
  defAddr : Word := 0
  defTime : Stamp := 0
  rstLast : Word := 0
  rstTime : Stamp := 0
  tgt : SMap Word := []
  defEvMs : Option Nat := Option.none
deriving DecidableEq, Repr

/-- One bank of the counter page (R432). -/
structure PmcBank where
  gen : Nat := 0
  stamp : Stamp := 0
  sec : BitVec 48 := 0
  ns : BitVec 32 := 0
  window : Nat := 0
  flags : BitVec 32 := 0
  values : List (BitVec 48) := []
  deltas : List (BitVec 48) := []
deriving DecidableEq, Repr

/-- The performance counters (R430 to R438). `first` marks the first snapshot after EN sets, `switched` a domain switch whose second is still to
come; `jump` holds what loads and reloads have added since the last boundary. -/
structure Pmc where
  en : Bool := true
  userEn : Bool := false
  window : BitVec 20 := 0xF4240
  winPending : Option (BitVec 20) := Option.none
  first : Bool := true
  switched : Bool := false
  timeInvalid : Bool := false
  gen : Nat := 0
  cnt : SMap (BitVec 48) := []
  last : SMap (BitVec 48) := []
  jump : SMap (BitVec 48) := []
  ovf : BitVec 256 := 0
  ovfTold : BitVec 256 := 0
  ovfEn : BitVec 256 := 0
  reload : BitVec 256 := 0
  ovfInWin : Bool := false
  preLo : SMap (BitVec 32) := []
  pre : SMap (BitVec 48) := []
  latchHi : SMap (BitVec 16) := []
  bank0 : PmcBank := {}
  bank1 : PmcBank := {}
  cur : Bool := false
deriving DecidableEq, Repr

/-- Start-up stages (R457). -/
inductive Stage | loader | held | fwStart | memory | lattice | wait | opened
deriving DecidableEq, Repr

/-- Start-up and identity of a hoop (R444 to R457). `heldEvents` are the events raised before ring 0 opens, with their stamps (R452); `spiOwn` is the
ball SPI_OWN of the hoop (R446). -/
structure Boot where
  por : Bool := true
  stage : Stage := .loader
  slot : Bool := false
  fail0 : Nat := 0
  fail1 : Nat := 0
  failCause : Nat := 0
  fwId : Word := 0
  fwBuild : Word := 0
  svn : BitVec 16 := 0
  minSvn : BitVec 16 := 0
  dieRev : BitVec 16 := 0
  lattice : BitVec 64 := 0
  romId : BitVec 16 := 0
  causePor : Bool := true
  causeMod : Bool := false
  causePcie : Bool := false
  causeWd : Bool := false
  resetAt : Nat := 0
  openMs : Nat := 0
  fwRun : Bool := false
  coresReset : List Nat := []
  coresHalted : List Nat := []
  ddrGib : Nat := 0
  tecEnabledAt : Option Nat := Option.none
  heldEvents : List (Nat × Stamp × List Nat) := []
  spiOwn : Bool := false
  moduleReset : Bool := true
deriving DecidableEq, Repr

/-- One rail (R439, R441, R458). -/
structure Rail where
  ok : Bool := false
  mv : BitVec 16 := 0
  lowest : BitVec 16 := 0
  seen : Bool := false
deriving DecidableEq, Repr

/-- The PWR block and the PCIe endpoint. -/
structure Pwr where
  rails : SMap Rail := []
  excur : Word := 0
  clockOk : Bool := true
  linkUp : Bool := false
  linkRate : Nat := 0
  linkWidth : Nat := 0
  d3 : Bool := false
deriving DecidableEq, Repr

/-- Settings that R451 stores in the MRAM configuration region and applies at every boot, kept as the commands' PARAM
blocks: opcode, which one, bytes. -/
abbrev Settings := List (Nat × Nat × Bytes)

/-- A calibration record of a channel (R203): trims of the three ranges and STATUS. -/
structure CalRec where
  ofs : List (BitVec 8) := [0, 0, 0]
  gain : List (BitVec 8) := [0, 0, 0]
  status : BitVec 16 := 2
deriving DecidableEq, Repr

/-- A write to the MRAM outside the journal, which waits for its hold-up check or for the temperature gate (R60, R203, R288, R295, R399): a sampler
record's refined HBIAS, the factory HBIAS of every record, the calibration records, the keeper image, the last address (R399). -/
inductive MWrite
  | hbias (elem : Nat) (band : Bool) (point code : Nat)
  | restore
  | cal (recs : SMap CalRec)
  | keeper (codes : SMap NCode) (sp : BitVec 16)
  | address (a : BitVec 12)
deriving DecidableEq, Repr

/-! ## The hoop, the module, the machine -/

/-- One hoop (R6): the part it lies in, whether it is Hoop B, and every block it holds. `bus` holds the word that the
last read of a register returned; `calStore` and `keeperImg` are the calibration records and the keeper image (codes
and setpoint) of the MRAM's configuration region (R203, R288, R292), `mwrites` the writes to the MRAM that are deferred (R295); `prkSlice` the slices that an active pricking still uses after rebuilds, each
with the boundary that ends it (R135), `oldSlices` those that commits compiled against them are still verified with, by their build (R58); `freeIx` is the model's own counter of the free values drawn (assumption 4). -/
structure Hoop where
  part : Part := .qn0512
  isB : Bool := false
  tb : Tb := {}
  cm : Cm := {}
  thr : SMap Thread := []
  prk : Prk := {}
  tmb : Tmb := {}
  drv : Drv := {}
  slice : Slice := {}
  prkSlice : List (Nat × Slice) := []
  oldSlices : SMap Slice := []
  rmap : RMap := {}
  mon : Mon := {}
  bob : Bob := {}
  tec : Tec := {}
  ths : Ths := {}
  fc : Fc := {}
  dk : Dk := {}
  jnl : Jnl := {}
  hist : Hist := {}
  led : Ledger := {}
  mbx : Mbx := {}
  evt : Evt := {}
  pair : Pair := {}
  wlm : Wlm := {}
  xbar : Xbar := {}
  pmc : Pmc := {}
  boot : Boot := {}
  pwr : Pwr := {}
  settings : Settings := []
  calStore : SMap CalRec := []
  keeperImg : Option (SMap NCode × BitVec 16) := Option.none
  mram : List Host.Cell := []
  mwrites : List MWrite := []
  bus : Word := 0
  freeIx : Nat := 0
deriving DecidableEq, Repr

/-- The balls of the module that a rule reads or drives (R287, R310, R462 to R474). -/
structure Balls where
  darkN : Bool := false
  faultN : Bool := true
  modRstN : Bool := true
  pwrFailN : Bool := true
  strapPrimary : Bool := true
  trip0N : Bool := true
  trip1N : Bool := true
  calSel : BitVec 2 := 0
  hoopActA : Bool := false
  hoopActB : Bool := false
deriving DecidableEq, Repr

/-- The machine: its hoops, what they share, the balls, and the commands that wait, first in first out. -/
structure State where
  a : Hoop
  b : Hoop
  duo : Duo
  balls : Balls
  pending : List Instr
deriving DecidableEq, Repr

/-- The module after power-on reset, before any rail has been released: every register at its R11 value, nothing
written anywhere, no command waiting. The part is the QN-0512 (DESIGN CHOICE, assumption 2). -/
def State.reset : State :=
  { a := {}, b := { isB := true }, duo := {}, balls := {}, pending := [] }

end Sys2Proof.Machine
end

