-- ==== Sys2Proof/Machine/Ops.lean ====
section
/-!
DEFINITION. The named operations every meaning is built from: sparse arrays, bytes and checks over them, byte
memory, time, counters, completions, events and journal records.
-/

namespace Sys2Proof.Machine

/-! ## Sparse arrays -/

/-- The entry of key `k`, or the default. -/
def smGet {α : Type} (d : α) : SMap α → Nat → α
  | [], _ => d
  | (j, v) :: m, k => if j = k then v else smGet d m k

/-- The array with entry `k` set to `v` where `v` may equal the default: keys stay strictly rising. -/
def smPut {α : Type} : SMap α → Nat → α → SMap α
  | [], k, v => [(k, v)]
  | (j, w) :: m, k, v => if k < j then (k, v) :: (j, w) :: m else if k = j then (k, v) :: m else (j, w) :: smPut m k v

/-- The array without entry `k`. -/
def smDel {α : Type} : SMap α → Nat → SMap α
  | [], _ => []
  | (j, w) :: m, k => if j = k then smDel m k else (j, w) :: smDel m k

/-- Set entry `k`; an entry equal to the default is not kept. -/
def smSet {α : Type} [DecidableEq α] (d : α) (m : SMap α) (k : Nat) (v : α) : SMap α :=
  if v = d then smDel m k else smPut m k v

/-- Change entry `k`. -/
def smUpd {α : Type} [DecidableEq α] (d : α) (m : SMap α) (k : Nat) (f : α → α) : SMap α :=
  smSet d m k (f (smGet d m k))

/-- The entry of key `k` where there is one. -/
def smFind {α : Type} : SMap α → Nat → Option α
  | [], _ => none
  | (j, v) :: m, k => if j = k then some v else smFind m k

/-- Keys strictly rise. -/
def smSorted {α : Type} : SMap α → Bool
  | [] => true
  | [_] => true
  | a :: b :: m => decide (a.1 < b.1) && smSorted (b :: m)

/-! ## Bytes -/

/-- `n` bytes of a number, the least significant first. -/
def leBytes : Nat → Nat → Bytes
  | 0, _ => []
  | n + 1, v => BitVec.ofNat 8 v :: leBytes n (v / 256)

/-- The number that bytes spell, the least significant first. -/
def leNat : Bytes → Nat
  | [] => 0
  | b :: bs => b.toNat + 256 * leNat bs

/-- The little-endian field of `n` bytes at offset `off`. -/
def field (bs : Bytes) (off n : Nat) : Nat := leNat ((bs.drop off).take n)

/-- Bytes padded with zeros, or cut, to `n`. -/
def padTo (n : Nat) (bs : Bytes) : Bytes := (bs ++ List.replicate (n - bs.length) 0).take n

/-- Values in 4 bytes each, in order. -/
def words (vs : List Nat) : Bytes := (vs.map (leBytes 4)).flatten

/-- A signed value of `w` bits from its bit pattern. -/
def toSigned (w v : Nat) : Int := if v % 2 ^ w < 2 ^ (w - 1) then (v % 2 ^ w : Nat) else (v % 2 ^ w : Nat) - (2 ^ w : Nat)

/-- The bit pattern of a signed value in `w` bits. -/
def ofSigned (w : Nat) (v : Int) : Nat := (v % (2 ^ w : Nat)).toNat

/-! ## Checks over bytes -/

/-- One bit of a reflected CRC-32 (R150). -/
def crc32Bit (c : BitVec 32) : BitVec 32 := if c.getLsbD 0 then (c >>> 1) ^^^ 0xEDB88320 else c >>> 1

def crc32Byte (c : BitVec 32) (b : Byte) : BitVec 32 :=
  let x := c ^^^ b.setWidth 32
  crc32Bit (crc32Bit (crc32Bit (crc32Bit (crc32Bit (crc32Bit (crc32Bit (crc32Bit x)))))))

/-- CRC-32 of R150: polynomial 0x04C11DB7 reflected, initial value and final XOR all ones. -/
def crc32 (bs : Bytes) : BitVec 32 := ~~~ (bs.foldl crc32Byte 0xFFFFFFFF)

def crc16Bit (c : BitVec 16) : BitVec 16 := if c.getLsbD 15 then (c <<< 1) ^^^ 0x1021 else c <<< 1

def crc16Byte (c : BitVec 16) (b : Byte) : BitVec 16 :=
  let x := c ^^^ (b.setWidth 16 <<< 8)
  crc16Bit (crc16Bit (crc16Bit (crc16Bit (crc16Bit (crc16Bit (crc16Bit (crc16Bit x)))))))

/-- CRC-16 of R55: polynomial 0x1021, initial value all ones, no reflection, no final XOR. -/
def crc16 (bs : Bytes) : BitVec 16 := bs.foldl crc16Byte 0xFFFF

def crc64Bit (c : BitVec 64) : BitVec 64 := if c.getLsbD 63 then (c <<< 1) ^^^ 0x42F0E1EBA9EA3693 else c <<< 1

def crc64Byte (c : BitVec 64) (b : Byte) : BitVec 64 :=
  let x := c ^^^ (b.setWidth 64 <<< 56)
  crc64Bit (crc64Bit (crc64Bit (crc64Bit (crc64Bit (crc64Bit (crc64Bit (crc64Bit x)))))))

/-- CRC-64 of R314: initial value and final XOR all ones; the manual gives no reflection (assumption 8). -/
def crc64 (bs : Bytes) : BitVec 64 := ~~~ (bs.foldl crc64Byte (BitVec.allOnes 64))

/-! ## Byte memory (R292): a canonical list of cells; an unlisted byte reads 0 (assumption 3) -/

/-- What an unlisted address reads as. -/
def memDefault : Byte := 0

/-- One byte. -/
def memGet (m : List Host.Cell) (a : Nat) : Byte := smGet memDefault m a

/-- Write one byte. -/
def memSet (m : List Host.Cell) (a : Nat) (b : Byte) : List Host.Cell := smSet memDefault m a b

/-- Write bytes at rising addresses. -/
def memWrite (m : List Host.Cell) (a : Nat) : Bytes → List Host.Cell
  | [] => m
  | b :: bs => memWrite (memSet m a b) (a + 1) bs

/-- Read `n` bytes. -/
def memRead (m : List Host.Cell) (a : Nat) : Nat → Bytes
  | 0 => []
  | n + 1 => memGet m a :: memRead m (a + 1) n

/-- The canonical form: addresses strictly rising, no entry that an unlisted address reads as. -/
def Memory.wf (m : List Host.Cell) : Bool := smSorted m && m.all (fun c => c.2 != memDefault)

/-! ## Numbers -/

/-- A bit as a number. -/
def bit (b : Bool) : Nat := if b then 1 else 0

/-- Add one and saturate. -/
def satInc {w : Nat} (x : BitVec w) : BitVec w := if x = BitVec.allOnes w then x else x + 1

/-- Round a / b to nearest, b positive, halves away from zero upward. -/
def divRound (a : Int) (b : Nat) : Int := (2 * a + b) / (2 * (b : Int))

/-- Clamp. -/
def clampI (x lo hi : Int) : Int := if x < lo then lo else if x > hi then hi else x

/-- A list without repeats, first occurrences kept. -/
def nub : List Nat → List Nat
  | [] => []
  | x :: xs => if xs.contains x then nub xs else x :: nub xs

/-- Insert into a rising list. -/
def insSorted (x : Nat) : List Nat → List Nat
  | [] => [x]
  | y :: ys => if x < y then x :: y :: ys else if x = y then y :: ys else y :: insSorted x ys

/-- Sort, dropping repeats. -/
def sortNat (xs : List Nat) : List Nat := xs.foldr insSorted []

/-- The least of a list, or the default. -/
def minL (d : Nat) (xs : List Nat) : Nat := xs.foldr min d

/-- The greatest of a list, or 0. -/
def maxL (xs : List Nat) : Nat := xs.foldr max 0

/-! ## The hoops of the module -/

/-- The part of the module. -/
def State.part (s : State) : Part := s.a.part

/-- A hoop. -/
def State.hoop (s : State) : HoopId → Hoop
  | .hoopA => s.a
  | .hoopB => s.b

/-- Replace a hoop. -/
def State.setHoop (s : State) (h : HoopId) (x : Hoop) : State :=
  match h with
  | .hoopA => { s with a := x }
  | .hoopB => { s with b := x }

/-- Whether the hoop is enabled (R3). -/
def State.has (s : State) : HoopId → Bool
  | .hoopA => true
  | .hoopB => Config.duplex s.a.part

/-- The other hoop. -/
def other : HoopId → HoopId
  | .hoopA => .hoopB
  | .hoopB => .hoopA

/-- Change a hoop that is enabled; nothing happens to one that is fused off (R3, assumption 9). -/
def State.upd (s : State) (h : HoopId) (f : Hoop → Hoop) : State :=
  if s.has h then s.setHoop h (f (s.hoop h)) else s

/-- Which hoop this is. -/
def Hoop.id (x : Hoop) : HoopId := if x.isB then .hoopB else .hoopA

/-- Ports per side of the hoop's part. -/
def Hoop.n (x : Hoop) : Nat := Config.ports x.part

/-- Stitches. -/
def Hoop.nS (x : Hoop) : Nat := Config.stitches x.part

/-- Drive elements. -/
def Hoop.nE (x : Hoop) : Nat := Config.elems x.part

/-! ## Time -/

/-- The nanosecond count (R63). -/
def Tb.cnt (t : Tb) : BitVec 32 := t.acc.extractLsb' 32 32

/-- The fraction of a nanosecond. -/
def Tb.frac (t : Tb) : BitVec 32 := t.acc.extractLsb' 0 32

/-- The count extended by TB_WRAP (R64). -/
def Tb.now (t : Tb) : Nat := t.wrap.toNat * 2 ^ 32 + t.cnt.toNat

/-- The stamp of this instant (R65). -/
def Hoop.stamp (x : Hoop) : Stamp := x.tb.cnt

/-- The extended count of this instant. -/
def Hoop.now (x : Hoop) : Nat := x.tb.now

/-- The instant in 1/16 ns. -/
def Tb.now16 (t : Tb) : Nat := t.now * 16 + (t.frac.toNat / 2 ^ 28)

/-- The extended count and its fraction, in 2^-32 ns. -/
def Tb.full (t : Tb) : Nat := t.wrap.toNat * 2 ^ 64 + t.acc.toNat

/-- An instant in 1/16 ns lies before the end of the present tick (R68). -/
def Tb.reached (t : Tb) (t16 : Nat) : Bool := decide (t16 * 2 ^ 28 < t.full + t.inc.toNat)

/-- PTP nanoseconds of an extended count (R66). -/
def Tb.ptpOf (t : Tb) (c : Nat) : Nat :=
  ((t.anchorSec * 1000000000 + t.anchorNs : Nat) + ((c : Int) - (t.anchorCnt : Int)) : Int).toNat

/-- The extended count of PTP nanoseconds (R66). -/
def Tb.cntOf (t : Tb) (ns : Nat) : Nat :=
  ((t.anchorCnt : Int) + ((ns : Int) - (t.anchorSec * 1000000000 + t.anchorNs : Nat))).toNat

/-- PTP seconds of an extended count. -/
def Tb.secOf (t : Tb) (c : Nat) : Nat := t.ptpOf c / 1000000000

/-- PTP nanoseconds within the second. -/
def Tb.nsOf (t : Tb) (c : Nat) : Nat := t.ptpOf c % 1000000000

/-- Milliseconds since reset release. -/
def Hoop.uptimeMs (x : Hoop) : Nat := (x.now - x.boot.resetAt) / 1000000

/-- One clock of the timebase (R63, R64). -/
def Tb.tick (t : Tb) : Tb :=
  let acc := t.acc + t.inc.setWidth 64
  { t with acc := acc, wrap := if acc < t.acc then t.wrap + 1 else t.wrap, prevWrapped := decide (acc < t.acc) }

/-! ## Counters (R430, R435) -/

/-- Counters that exist. -/
def pmcExists (p : Part) (c : Nat) : Bool :=
  !(60 ≤ c && c ≤ 63) && !(108 ≤ c && c ≤ 111) && c != 199 && decide (c < 238)
    && !(112 ≤ c && c ≤ 153 && decide (Config.groups p ≤ c - 112)) && !(154 ≤ c && c ≤ 195 && decide (Config.groups p ≤ c - 154))

/-- Add to a counter: it wraps, or takes its preload and the excess, and its OVF bit sets (R435). -/
def pmcRaw (c n : Nat) (x : Hoop) : Hoop :=
  if x.pmc.en && pmcExists x.part c then
    let v := (smGet 0 x.pmc.cnt c).toNat + n
    if v < 2 ^ 48 then { x with pmc := { x.pmc with cnt := smSet 0 x.pmc.cnt c (BitVec.ofNat 48 v) } }
    else
      let pre := if x.pmc.reload.getLsbD c then (smGet 0 x.pmc.pre c).toNat else 0
      let v' := BitVec.ofNat 48 (v - 2 ^ 48 + pre)
      { x with pmc := { x.pmc with
          cnt := smSet 0 x.pmc.cnt c v'
          ovf := x.pmc.ovf ||| BitVec.twoPow 256 c
          ovfInWin := true
          jump := smUpd 0 x.pmc.jump c (fun j => j + BitVec.ofNat 48 pre) } }
  else x

/-! ## The clock -/

/-- The drivers of this hoop may drive the TEC outputs: enabled, holding the token, with no trip, debug halt or bridge shut-down
(R262 to R266, R269). -/
def Tec.drives (t : Tec) : Bool := t.en && t.drive && !t.dbgHalt && !t.z0.trip && !t.z1.trip && !t.z0.brgSd && !t.z1.brgSd

/-- The PWM outputs of a zone at a count of its counter (R260): each rising edge is delayed by DEAD, each falling edge is not. -/
def Zone.pwm (z : Zone) (on : Bool) (now : Nat) : Zone :=
  let c := (now - z.reloadAt) / 2
  let h := decide (c < z.active.toNat)
  { z with
    fwd := on && z.running && h && (decide (z.dead.toNat ≤ c) || decide (z.per.toNat ≤ z.active.toNat))
    rev := on && z.running && !h && (decide (z.active.toNat + z.dead.toNat ≤ c) || z.active == 0) }

/-- The four outputs now. -/
def Hoop.pwmPins (x : Hoop) : Hoop :=
  { x with tec := { x.tec with z0 := x.tec.z0.pwm x.tec.drives x.now, z1 := x.tec.z1.pwm x.tec.drives x.now } }

/-- What waits in the link queues leaves in one clock (R393: the model gives links no time); the crossbar clocks at 1 GHz (R430). -/
def Hoop.tick (x : Hoop) : Hoop :=
  (pmcRaw 59 2 { x with tb := x.tb.tick, wlm := { x.wlm with tx := [] } }).pwmPins

/-- One clock of the module: each enabled hoop that is out of power-on reset advances. -/
def idleTick (s : State) : State :=
  let f : Hoop → Hoop := fun x => if x.boot.por then x else x.tick
  (s.upd .hoopA f).upd .hoopB f

/-! ## Rings -/

/-- A ring's page; ring 0 is always bound and accepts every version (R351). -/
def ringReset (r : Nat) : Ring := if r = 0 then { bound := true, versions := 7 } else {}

def Hoop.ring (x : Hoop) (r : Nat) : Ring := smGet (ringReset r) x.mbx.rings r

def Hoop.setRing (x : Hoop) (r : Nat) (g : Ring) : Hoop :=
  { x with mbx := { x.mbx with rings := smSet (ringReset r) x.mbx.rings r g } }

def Hoop.updRing (x : Hoop) (r : Nat) (f : Ring → Ring) : Hoop := x.setRing r (f (x.ring r))

/-- Slots of the command ring (R345, R351). -/
def Ring.slots (g : Ring) : Nat := 2 ^ (g.cmdSize.toNat + 4)

/-- Entries of the event ring. -/
def Ring.evtSlots (g : Ring) : Nat := 2 ^ (g.evtSize.toNat + 6)

/-- Completion entries that you have not consumed. -/
def Ring.cplUsed (g : Ring) : Nat := (g.cplTail + g.slots - g.cplHead) % g.slots

/-- Event entries that you have not consumed. -/
def Ring.evtUsed (g : Ring) : Nat := (g.evtTail + g.evtSlots - g.evtHead) % g.evtSlots

/-- Event entries free; head equal to tail means an empty ring (assumption 10). -/
def Ring.evtFree (g : Ring) : Nat := g.evtSlots - 1 - g.evtUsed

/-- The next SEQ of an identity (R337): 1 to 2^48 - 1, then 1. -/
def nextSeq (q : Nat) : Nat := if q + 1 < 2 ^ 48 then q + 1 else 1

/-- ORIGIN of a message of this hoop (R336). -/
def Hoop.origin (x : Hoop) (cls stream : Nat) : BitVec 16 :=
  BitVec.ofNat 16 (stream + cls * 256 + (if x.isB then 0x8000 else 0))

/-- Signal an MSI-X vector (R344). -/
def msixSend (v : Nat) (x : Hoop) : Hoop :=
  pmcRaw 233 1 { x with mbx := { x.mbx with msix := x.mbx.msix ++ [v] } }

/-- Whether the moderation of R351 signals this entry: `unsig` entries waited before it. -/
def modNow (g : Ring) (unsig : Nat) : Bool :=
  decide ((g.intr.toNat / 256) % 256 ≤ unsig + 1) || decide (g.intr.toNat / 65536 = 0)

/-- Write one event entry (R349, R374) with the stamp of its event and signal its vector. -/
def putEventAt (stamp : Stamp) (r src : Nat) (payload : List Nat) (x : Hoop) : Hoop :=
  let g := x.ring r
  let seq := nextSeq g.evtSeq
  let e : Ev := { origin := x.origin 2 r, seq := seq, source := src, phase := g.evtPhase, stamp := stamp, payload := payload }
  let tail := (g.evtTail + 1) % g.evtSlots
  let sig := g.intr.getLsbD 1 && modNow g g.evtUnsig
  let x := x.setRing r { g with
    evts := g.evts ++ [e], evtSeq := seq, evtTail := tail, evtPhase := if tail = 0 then !g.evtPhase else g.evtPhase,
    evtUnsig := if sig then 0 else g.evtUnsig + 1 }
  if sig then msixSend (16 + r) x else x

/-- Deliver an event of an instant to a ring, or drop and count it (R375). -/
def deliverEvAt (stamp : Stamp) (r src : Nat) (payload : List Nat) (x : Hoop) : Hoop :=
  let g := x.ring r
  if !g.en then x
  else if g.evtFree ≤ 1 then
    pmcRaw 232 1 { x.setRing r { g with evtDrop := satInc g.evtDrop, dropsPending := g.dropsPending + 1 } with
      evt := { x.evt with dropped := satInc x.evt.dropped } }
  else putEventAt stamp r src payload x

/-- Deliver an event of this instant. -/
def deliverEv (r src : Nat) (payload : List Nat) (x : Hoop) : Hoop := deliverEvAt x.stamp r src payload x

/-- Who may see an event besides event ring 0 (R375). -/
inductive Scope | hoop | ring (r : Nat) | tenant (t : Nat) | commit (r t : Nat)
deriving DecidableEq, Repr

/-- Whether an event of this scope goes to agent ring `r`. -/
def scopeHas (sc : Scope) (x : Hoop) (r : Nat) : Bool :=
  match sc with
  | .hoop => false
  | .ring q => q == r
  | .tenant t => (x.ring r).bound && (x.ring r).tenant == t
  | .commit q t => q == r || ((x.ring r).bound && t != 0 && (x.ring r).tenant == t)

/-- Roles in which a hoop writes this event (R306): all in ACTIVE and STANDBY, its own faults otherwise. -/
def evAllowed (x : Hoop) (src : Nat) : Bool :=
  match x.pair.role with
  | .active => true
  | .standby => true
  | _ => (448 ≤ src && src ≤ 463) || (544 ≤ src && src ≤ 550)

/-- Raise an event (R374 to R376): it is counted, held while ring 0 has not opened (R452, at most 64), and otherwise
delivered to ring 0 when its bit is set and to the agent rings of its scope. -/
def raiseEv (src : Nat) (payload : List Nat) (sc : Scope) (x : Hoop) : Hoop :=
  let x := pmcRaw 231 1 { x with evt := { x.evt with
    raised := x.evt.raised + 1, cnt := smUpd 0 x.evt.cnt src (fun c => c + 1) } }
  if x.boot.stage ≠ .opened then
    if x.boot.heldEvents.length < 64 then
      { x with boot := { x.boot with heldEvents := x.boot.heldEvents ++ [(src, x.stamp, payload)] } }
    else x
  else if evAllowed x src then
    let x := if x.evt.sub.getLsbD src then deliverEv 0 src payload x else x
    (List.range 15).foldl (fun y r => if scopeHas sc y (r + 1) then deliverEv (r + 1) src payload y else y) x
  else x

/-- Report the overflows that are new since the last report and enabled: vector 34 and event 553 (R435). -/
def pmcTell (x : Hoop) : Hoop :=
  let fresh := x.pmc.ovf &&& ~~~x.pmc.ovfTold &&& x.pmc.ovfEn
  (List.range 256).foldl (fun y c => if fresh.getLsbD c then
      raiseEv 553 [c, if x.pmc.reload.getLsbD c then 1 else 0] .hoop (msixSend 34 y) else y)
    { x with pmc := { x.pmc with ovfTold := x.pmc.ovf } }

/-! ## Journal (R292 to R295) -/

/-- Records that nothing displaces (R295). -/
def JRec.guarded (j : JRec) : Bool :=
  (2 ≤ j.sev.toNat && j.sev.toNat ≤ 4) ||
    [4, 5, 6, 7, 8, 9, 0xB, 0xC, 0xD, 0xE, 0xF, 0x11].contains j.type.toNat

/-- Drop the oldest record that is not guarded. -/
def dropOldest : List JRec → Option (JRec × List JRec)
  | [] => none
  | j :: js =>
    if j.guarded then (dropOldest js).map (fun p => (p.1, j :: p.2)) else some (j, js)

/-- Note a dropped record (R295). -/
def jnlLose (j : JRec) (x : Hoop) : Hoop :=
  let loss := match x.jnl.loss with
    | none => (1, j.stamp, j.stamp)
    | some (n, f, _) => (n + 1, f, j.stamp)
  raiseEv 460 [(satInc x.jnl.lost).toNat] .hoop
    { x with jnl := { x.jnl with loss := some loss, lost := satInc x.jnl.lost } }

/-- Queue a record (R294, R295). -/
def jnlQueue (j : JRec) (x : Hoop) : Hoop :=
  let x := if x.jnl.buf.isEmpty then { x with jnl := { x.jnl with oldest := x.now } } else x
  if x.jnl.buf.length < 1024 then { x with jnl := { x.jnl with buf := x.jnl.buf ++ [j] } }
  else match dropOldest x.jnl.buf with
    | some (old, rest) => jnlLose old { x with jnl := { x.jnl with buf := rest ++ [j] } }
    | none => jnlLose j x

/-- Build and queue a record of this instant: type, severity (0xFF where it is no fault), fault source, payload. -/
def jnlPut (type sev src : Nat) (wire : Bool) (payload : Bytes) (x : Hoop) : Hoop :=
  jnlQueue {
    type := BitVec.ofNat 16 type, sev := BitVec.ofNat 8 sev,
    flags := BitVec.ofNat 8 ((if x.isB then 4 else 0) + (if wire then 8 else 0) + (if x.tb.timeValid then 0 else 16)),
    stamp := x.stamp, sec := BitVec.ofNat 48 (x.tb.secOf x.now), ns := BitVec.ofNat 32 (x.tb.nsOf x.now),
    source := BitVec.ofNat 16 src, payload := padTo 36 payload } x

/-- The 64 bytes of a record with its SEQ (R292). -/
def JRec.bytes (j : JRec) (seq : BitVec 32) : Bytes :=
  let b := leBytes 2 j.type.toNat ++ [j.sev, j.flags] ++ leBytes 4 seq.toNat ++ leBytes 4 j.stamp.toNat
    ++ leBytes 6 j.sec.toNat ++ leBytes 4 j.ns.toNat ++ leBytes 2 j.source.toNat ++ padTo 36 j.payload
  b ++ leBytes 4 (crc32 b).toNat

/-- Write one record at the head of the ring, with the next SEQ. -/
def jnlWrite1 (x : Hoop) (j : JRec) : Hoop :=
  pmcRaw 222 1 { x with
    mram := memWrite x.mram (64 * x.jnl.head) (j.bytes x.jnl.seq)
    jnl := { x.jnl with head := (x.jnl.head + 1) % 393216, seq := x.jnl.seq + 1 } }

/-! ## Completions (R347 to R358) -/

/-- Write one completion entry (R349, R357). -/
def putCpl (r : Nat) (mk : Nat → Bool → Cpl) (x : Hoop) : Hoop :=
  let g := x.ring r
  let seq := nextSeq g.cplSeq
  let c := mk seq g.cplPhase
  let tail := (g.cplTail + 1) % g.slots
  let sig := g.intr.getLsbD 0 && modNow g g.cplUnsig
  let x := x.setRing r { g with
    cpls := g.cpls ++ [c], cplSeq := seq, cplTail := tail, cplPhase := if tail = 0 then !g.cplPhase else g.cplPhase,
    cplUnsig := if sig then 0 else g.cplUnsig + 1 }
  if sig then msixSend r x else x

/-! ## Free values (assumption 4) -/

/-- A value that a rule leaves unstated, and the state with the model's counter advanced. -/
def Hoop.fresh (x : Hoop) : Nat × Hoop := (Config.freeValue x.freeIx, { x with freeIx := x.freeIx + 1 })

end Sys2Proof.Machine
end

