-- ==== Sys2Proof/Machine/Lattice.lean ====
section
/-!
DEFINITION. The Benes lattice (R30 to R37), routes over it, and the router of R47: it finds, among all routings
that change no fixed thread, the one with the fewest moves, then the fewest MIXED stitches, then the fewest lost
channels, then the earliest choices.
-/

namespace Sys2Proof.Machine

/-- Where an output wire of a stage leads in the next stage (R32). -/
def nextWire (p : Part) (s w : Nat) : Nat :=
  let n := Config.ports p
  let m := Config.lgPorts p
  let b := if s ≤ m - 2 then n / 2 ^ s else n / 2 ^ (2 * m - 3 - s)
  let l := w % b
  let base := w - l
  if s ≤ m - 2 then base + (if l % 2 = 0 then l / 2 else b / 2 + (l - 1) / 2)
  else base + (if l < b / 2 then 2 * l else 2 * (l - b / 2) + 1)

/-- The output wires of a route from input wire `w` of stage `s`: the free stages take their bits from `choice`, the
first stage its highest; from the middle stage on the destination decides (R32). -/
def routeFrom (p : Part) (out choice : Nat) : Nat → Nat → Nat → List Nat
  | 0, _, _ => []
  | k + 1, s, w =>
    let m := Config.lgPorts p
    let bit := if s + 2 ≤ m then choice / 2 ^ (m - 2 - s) % 2 else out / 2 ^ (2 * m - 2 - s) % 2
    let o := w / 2 * 2 + bit
    o :: routeFrom p out choice k (s + 1) (nextWire p s o)

/-- The route of a thread for a choice of outputs at the free stages. -/
def routeOf (p : Part) (inP out choice : Nat) : List Nat := routeFrom p out choice (Config.stages p) 0 inP

/-- One stitch of a route: its index, and whether it is in CROSS (R30, R33). -/
structure Hop where
  stitch : Nat
  cross : Bool
  lower : Bool
deriving DecidableEq, Repr

/-- The stitches of a route, from stage `s` and input wire `w`. -/
def hopsFrom (p : Part) : List Nat → Nat → Nat → List Hop
  | [], _, _ => []
  | o :: os, s, w =>
    { stitch := s * (Config.ports p / 2) + o / 2, cross := o % 2 != w % 2, lower := o % 2 != 0 } :: hopsFrom p os (s + 1) (nextWire p s o)

/-- The stitches of a thread's route. -/
def hopsOf (p : Part) (inP : Nat) (route : List Nat) : List Hop := hopsFrom p route 0 inP

/-- Two routes agree: at every stage they use different output wires, and equal states in a stitch they share (R33). -/
def routesAgree : List Hop → List Hop → Bool
  | a :: as, b :: bs => (a.stitch != b.stitch || (a.cross == b.cross && a.lower != b.lower)) && routesAgree as bs
  | _, _ => true

/-- What the router has to place or must respect: ingress port, egress port, band. -/
structure Req where
  inPort : Nat
  outPort : Nat
  band : Bool
deriving DecidableEq, Repr

/-- A placed thread. -/
structure Placed where
  req : Req
  route : List Nat
  hops : List Hop
deriving DecidableEq, Repr

/-- Status of an element. -/
def Hoop.elem (x : Hoop) (e : Nat) : Elem := smGet {} x.drv.elems e

def Hoop.setElem (x : Hoop) (e : Nat) (v : Elem) : Hoop :=
  { x with drv := { x.drv with elems := smSet {} x.drv.elems e v } }

def Hoop.updElem (x : Hoop) (e : Nat) (f : Elem → Elem) : Hoop := x.setElem e (f (x.elem e))

/-- A monitor channel. -/
def Hoop.chan (x : Hoop) (c : Nat) : Chan := smGet {} x.mon.chans c

def Hoop.setChan (x : Hoop) (c : Nat) (v : Chan) : Hoop :=
  { x with mon := { x.mon with chans := smSet {} x.mon.chans c v } }

def Hoop.updChan (x : Hoop) (c : Nat) (f : Chan → Chan) : Hoop := x.setChan c (f (x.chan c))

/-- UNUSABLE (R38, R59): the needle is masked, the heater compliance check has failed, or both BAND_BAD bits are set. -/
def Elem.excluded (v : Elem) : Bool := v.unusable || (v.badO && v.badC)

/-- An element that a thread of this band may not use (R52). -/
def badFor (x : Hoop) (e : Nat) (band : Bool) : Bool :=
  let v := x.elem e
  v.excluded || (if band then v.badC else v.badO)

/-- Bands of the placed threads through a stitch. -/
def bandsAt (ps : List Placed) (st : Nat) : List Bool :=
  ps.filterMap (fun q => if q.hops.any (fun k => k.stitch == st) then some q.req.band else none)

/-- A stitch carries both bands (R54). -/
def mixedAt (ps : List Placed) (st : Nat) : Bool :=
  let b := bandsAt ps st
  b.contains true && b.contains false

/-- A route may be added to those placed: it agrees with each of them, uses no excluded stitch, and makes no stitch
with a BAND_BAD bit MIXED (R47, R52). -/
def routeOk (x : Hoop) (ps : List Placed) (q : Placed) : Bool :=
  ps.all (fun o => routesAgree o.hops q.hops) &&
  q.hops.all (fun k => !badFor x k.stitch q.req.band &&
    (!((x.elem k.stitch).badO || (x.elem k.stitch).badC) || !mixedAt (q :: ps) k.stitch))

/-- The cost of routes that are set: MIXED stitches, then lost channels (rule 4 of R47). -/
def routeCost (x : Hoop) (all set : List Placed) : Nat × Nat :=
  let sts := sortNat ((set.map (fun q => q.hops.map (·.stitch))).flatten)
  ((sts.filter (mixedAt all)).length, (sts.filter (fun st => (x.chan st).lost)).length)

/-- A candidate: its cost, and the threads set in rising ingress port, each with its choice. -/
structure Cand where
  mixed : Nat
  lost : Nat
  set : List Placed
deriving DecidableEq, Repr

/-- What rule 5 of R47 orders by: the threads that are set, in rising ingress port, each with the outputs it takes (upper before lower). Where two
routings set different threads the rule gives no order: the one whose first differing IN_PORT is lower comes first (DESIGN CHOICE, assumption 125). -/
def Cand.order (c : Cand) : List Nat := (c.set.map (fun q => q.req.inPort :: q.route)).flatten

/-- Lists of numbers, compared from their first entry on. -/
def comesFirst : List Nat → List Nat → Bool
  | a :: as, b :: bs => a < b || (a == b && comesFirst as bs)
  | [], _ :: _ => true
  | _, [] => false

/-- The better of two candidates (rules 4 and 5 of R47). -/
def betterCand : Option Cand → Option Cand → Option Cand
  | none, b => b
  | a, none => a
  | some a, some b =>
    if b.mixed < a.mixed ∨ (b.mixed = a.mixed ∧ b.lost < a.lost) ∨ (b.mixed = a.mixed ∧ b.lost = a.lost ∧ comesFirst b.order a.order = true)
    then some b else some a

/-- No routing that holds these costs so far can be better than the best one known, which came before it (rules 4 and 5 of R47): costs only grow as
threads are added. -/
def noBetter (best : Option Cand) (c : Nat × Nat) : Bool :=
  match best with
  | none => false
  | some b => decide (b.mixed < c.1) || (b.mixed == c.1 && decide (b.lost ≤ c.2))

/-- The best way to place the threads asked for, in rising ingress port, besides those pinned, or the one known already. Choices are tried in the order of
rule 5, so that of routings that tie the first one found stands. -/
def placeAll (x : Hoop) (pinned : List Placed) : List Req → List Placed → Option Cand → Option Cand
  | [], done, _ =>
    let c := routeCost x (pinned ++ done) done
    some { mixed := c.1, lost := c.2, set := done }
  | r :: rs, done, best =>
    (List.range (2 ^ (Config.lgPorts x.part - 1))).foldl (fun best choice =>
      if noBetter best (0, 0) then best
      else
        let route := routeOf x.part r.inPort r.outPort choice
        let q : Placed := { req := r, route := route, hops := hopsOf x.part r.inPort route }
        if !routeOk x (pinned ++ done) q || noBetter best (routeCost x (pinned ++ (done ++ [q])) (done ++ [q])) then best
        else placeAll x pinned rs (done ++ [q]) best) best

/-- Sublists of `k` elements, earlier elements first. -/
def choose {α : Type} : Nat → List α → List (List α)
  | 0, _ => [[]]
  | _ + 1, [] => []
  | k + 1, a :: as => (choose k as).map (a :: ·) ++ choose (k + 1) as

/-- Insert a request by ingress port. -/
def insReq (r : Req) : List Req → List Req
  | [] => [r]
  | q :: qs => if r.inPort ≤ q.inPort then r :: q :: qs else q :: insReq r qs

/-- Route with exactly `k` movable threads moved (rule 3). -/
def routeMoving (x : Hoop) (fixed movable : List Placed) (reqs : List Req) (k : Nat) : Option Cand :=
  (choose k movable).foldl (fun best mv =>
    let stay := movable.filter (fun q => !mv.contains q)
    betterCand best (placeAll x (fixed ++ stay) ((mv.map (·.req)).foldr insReq (reqs.foldr insReq [])) [] none)) none

/-- The router (R47): the fewest moves first. -/
def routeSearch (x : Hoop) (fixed movable : List Placed) (reqs : List Req) : Nat → Nat → Option Cand
  | 0, _ => none
  | fuel + 1, k =>
    match routeMoving x fixed movable reqs k with
    | some c => some c
    | none => routeSearch x fixed movable reqs fuel (k + 1)

/-- Route the threads asked for against the threads of a table: some may be moved, others not. -/
def routeAll (x : Hoop) (fixed movable : List Placed) (reqs : List Req) : Option Cand :=
  if reqs.isEmpty then some { mixed := 0, lost := 0, set := [] }
  else routeSearch x fixed movable reqs (movable.length + 1) 0

end Sys2Proof.Machine
end

