-- ==== Sys2Proof/Machine/Optics.lean ====
section
/-!
DEFINITION. The sampler and its active slice (R55 to R59), the codes of an element's state, temperatures of tiles
(R221, R244), heater feed-forward (R221, R222, R236), and photocurrents (R182, R101 to R103).
-/

namespace Sys2Proof.Machine

/-! ## Sampler records -/

/-- Byte address of the sampler region in the MRAM (R292). -/
def samplerBase : Nat := 0x1800000

/-- Address of record (element, band, point) (R57). -/
def recAddr (e : Nat) (band : Bool) (k : Nat) : Nat :=
  samplerBase + 0x1000 + ((e * 2 + (if band then 1 else 0)) * 16 + k) * 32

/-- A record's 32 bytes. -/
def recBytes (m : List Host.Cell) (e : Nat) (band : Bool) (k : Nat) : Bytes := memRead m (recAddr e band k) 32

/-- The record passes its CRC (R55, R59); one of zeros does not. -/
def recGood (m : List Host.Cell) (e : Nat) (band : Bool) (k : Nat) : Bool :=
  let b := recBytes m e band k
  !b.all (· == 0) && (crc16 (b.take 30)).toNat == field b 30 2

/-- Temperature point `k` in units of 1/300 degree: 20 degrees and steps of 10/3 degrees (R55). -/
def pointT (k : Nat) : Nat := 6000 + 1000 * k

/-- The last good point of an element in a band at or below a temperature in 0.01 degrees, and the first above it. -/
def bracket (m : List Host.Cell) (e : Nat) (band : Bool) (temp : Nat) : Option Nat × Option Nat :=
  ((List.range 16).reverse.find? (fun k => decide (pointT k ≤ 3 * temp) && recGood m e band k),
   (List.range 16).find? (fun k => decide (3 * temp < pointT k) && recGood m e band k))

/-- BAND_BAD by R59: a bracket wider than 10 K, or no good point on one side. A setpoint that lies on a good point is bracketed by that point on
both sides (DESIGN CHOICE, assumption 126). -/
def bandBad (m : List Host.Cell) (e : Nat) (band : Bool) (temp : Nat) : Bool :=
  match bracket m e band temp with
  | (some lo, some hi) => decide (3000 < pointT hi - pointT lo) && decide (pointT lo ≠ 3 * temp)
  | (some lo, none) => decide (pointT lo ≠ 3 * temp)
  | _ => true

/-- The good point nearest to a temperature, the lower on a tie. -/
def nearest (m : List Host.Cell) (e : Nat) (band : Bool) (temp : Nat) : Option Nat :=
  match bracket m e band temp with
  | (some lo, some hi) => if pointT hi - 3 * temp < 3 * temp - pointT lo then some hi else some lo
  | (some lo, none) => some lo
  | (none, hi) => hi

/-- The two records an entry is taken from, with the weight of the second and their distance in
1/300 degree (R58, R59); none where the element has no good record in either band. -/
def recPair (m : List Host.Cell) (e : Nat) (band : Bool) (temp : Nat) : Option (Bytes × Bytes × Nat × Nat) :=
  let near : Option (Bytes × Bytes × Nat × Nat) :=
    match nearest m e band temp with
    | some k => some (recBytes m e band k, recBytes m e band k, 0, 1)
    | none => match nearest m e (!band) temp with
      | some k => some (recBytes m e (!band) k, recBytes m e (!band) k, 0, 1)
      | none => none
  if bandBad m e band temp then near
  else match bracket m e band temp with
    | (some lo, some hi) => some (recBytes m e band lo, recBytes m e band hi, 3 * temp - pointT lo, pointT hi - pointT lo)
    | (some lo, none) => some (recBytes m e band lo, recBytes m e band lo, 0, 1)
    | _ => near

/-- Linear interpolation, rounded to nearest (assumption 12). -/
def lerp (lo hi : Int) (w d : Nat) : Int := lo + divRound ((hi - lo) * w) d

/-- HBIAS in heater LSB: a record in range 1 counts four times (R221). -/
def hbOf (b : Bytes) : Nat := let v := field b 4 2; if v / 32768 = 1 then 4 * (v % 4096) else v % 4096

/-- HSLOPE in quarter microradians per heater LSB (R221). -/
def hsOf (b : Bytes) : Nat := if field b 4 2 / 32768 = 1 then field b 8 2 else 4 * field b 8 2

/-- An entry of the active slice (R58): `hb` in heater LSB, `ts` the change of HBIAS in 2^-16 heater LSB per 0.01 degree,
`hs` in quarter microradians per heater LSB, `s0` to `sm1` the change of each needle code in 2^-16 LSB per 0.01 degree. -/
structure Entry where
  code0 : Nat := 0
  code1 : Nat := 0
  hb : Int := 0
  range : Bool := false
  ts : Int := 0
  nslope : Int := 0
  hs : Int := 0
  tgtLit : Int := 0
  tgtUnlit : Int := 0
  pgain : Int := 0
  nbr : List Int := [0, 0, 0, 0]
  m0 : Nat := 0
  m1 : Nat := 0
  s0 : Int := 0
  s1 : Int := 0
  sm0 : Int := 0
  sm1 : Int := 0
  valid : Bool := false
deriving DecidableEq, Repr

/-- A 16-bit unsigned field of two records, interpolated. -/
def lerpU (lo hi : Bytes) (off w d : Nat) : Int := lerp (field lo off 2) (field hi off 2) w d

/-- A 14-bit code of two records, interpolated. -/
def lerpC (lo hi : Bytes) (off w d : Nat) : Nat := (lerp (field lo off 2 % 16384 : Nat) (field hi off 2 % 16384 : Nat) w d).toNat % 16384

/-- The change of a 14-bit code with temperature, in 2^-16 LSB per 0.01 degree: `d` is the distance of the two points in 1/300 degree. -/
def slopeC (lo hi : Bytes) (off d : Nat) : Int := divRound (((field hi off 2 % 16384 : Nat) - (field lo off 2 % 16384 : Nat) : Int) * 65536 * 3) d

/-- The slice entry of an element and band. -/
def Hoop.entry (x : Hoop) (e : Nat) (band : Bool) : Entry :=
  match recPair x.slice.src e band x.slice.temp with
  | none => { code1 := (smGet 0 x.dk.codes (e - x.nS)).toNat }
  | some (lo, hi, w, d) =>
    { code0 := lerpC lo hi 0 w d, code1 := lerpC lo hi 2 w d
      hb := lerp (hbOf lo) (hbOf hi) w d + smGet 0 x.slice.adj (e * 2 + (if band then 1 else 0))
      range := decide (field lo 4 2 / 32768 = 1)
      ts := divRound (((hbOf hi : Int) - hbOf lo) * 65536 * 3) d
      nslope := lerpU lo hi 6 w d, hs := lerp (hsOf lo) (hsOf hi) w d
      tgtLit := lerpU lo hi 10 w d, tgtUnlit := lerpU lo hi 12 w d, pgain := lerpU lo hi 14 w d
      nbr := [16, 18, 20, 22].map (fun o => lerp (toSigned 16 (field lo o 2)) (toSigned 16 (field hi o 2)) w d)
      m0 := lerpC lo hi 24 w d, m1 := lerpC lo hi 26 w d
      s0 := slopeC lo hi 0 d, s1 := slopeC lo hi 2 d, sm0 := slopeC lo hi 24 d, sm1 := slopeC lo hi 26 d, valid := true }

/-- The hoop with the slice of a build, for what was compiled against it (R58). -/
def Hoop.atSlice (x : Hoop) (gen : Nat) : Hoop :=
  match smFind x.oldSlices gen with
  | some s => { x with slice := s }
  | none => x

/-- The egress table's minimum for an out port and band, Q0.16 (R57). -/
def Hoop.egressMin (x : Hoop) (j : Nat) (band : Bool) : Nat :=
  leNat (memRead x.slice.src (samplerBase + 0x4C1000 + (j * 2 + (if band then 1 else 0)) * 2) 2)

/-- The needle code of a state (R83): mixed codes come from the C-band record. -/
def Hoop.ncode (x : Hoop) (e : Nat) (st : ElSt) (band mixed : Bool) : NCode :=
  let en := x.entry e (band || mixed)
  BitVec.ofNat 14 (match st with
    | .idle => (x.entry e false).code0
    | .bar => if mixed then en.m0 else en.code0
    | .cross => if mixed then en.m1 else en.code1
    | .eyOpen => en.code0
    | .eyDark => en.code1)

/-! ## Writing sampler records, and the MRAM outside the journal (R60, R295) -/

/-- Index of a record in record order. -/
def recIndex (e : Nat) (band : Bool) (k : Nat) : Nat := (e * 2 + bit band) * 16 + k

/-- Write a record's HBIAS code and its REFINED bit, with a new CRC. -/
def writeHbias (m : List Host.Cell) (e : Nat) (band : Bool) (k code : Nat) (refined : Bool) : List Host.Cell :=
  let b := recBytes m e band k
  let body := b.take 4 ++ leBytes 2 (field b 4 2 / 4096 * 4096 + code % 4096) ++ (b.drop 6).take 22
    ++ leBytes 2 (field b 28 2 / 2 * 2 + bit refined)
  memWrite m (recAddr e band k) (body ++ leBytes 2 (crc16 body).toNat)

/-- The factory HBIAS of a record (R57). -/
def factoryHbias (m : List Host.Cell) (e : Nat) (band : Bool) (k : Nat) : Nat := leNat (memRead m (samplerBase + 0x4C2000 + 2 * recIndex e band k) 2)

/-- Every record of the part with the HBIAS of the factory table and REFINED clear. -/
def restoreRecords (x : Hoop) (m : List Host.Cell) : List Host.Cell :=
  ((List.range (x.nE * 32)).map (fun j => (j / 32, decide (j / 16 % 2 = 1), j % 16))).foldl (fun m q =>
    let b := recBytes m q.1 q.2.1 q.2.2
    let f := factoryHbias m q.1 q.2.1 q.2.2
    if field b 4 2 % 4096 = f % 4096 ∧ field b 28 2 % 2 = 0 then m else writeHbias m q.1 q.2.1 q.2.2 (f % 4096) false) m

/-- Carry out a write to the MRAM. -/
def applyMWrite (x : Hoop) (w : MWrite) : Hoop :=
  match w with
  | .hbias e b k c => { x with mram := writeHbias x.mram e b k c true }
  | .restore => { x with mram := restoreRecords x x.mram }
  | .cal r => { x with calStore := r }
  | .keeper m sp => { x with keeperImg := some (m, sp) }
  | .address a => { x with wlm := { x.wlm with lastAddr := a } }

/-- The last hold-up check passed and the temperature gate is open (R270, R295). -/
def Hoop.mramFree (x : Hoop) : Bool := x.ths.mramOk && x.jnl.holdupOk

/-- Write to the MRAM outside the journal: at once where the latest hold-up check passed, else with the first one that does (assumption 129). -/
def mramWrite (w : MWrite) (x : Hoop) : Hoop :=
  if x.mramFree then applyMWrite x w else { x with mwrites := x.mwrites ++ [w] }

/-- The deferred writes, in their order. -/
def flushMram (x : Hoop) : Hoop := if x.mramFree then x.mwrites.foldl applyMWrite { x with mwrites := [] } else x

/-! ## Temperatures -/

/-- A lattice diode. -/
def Hoop.diode (x : Hoop) (j : Nat) : Diode := smGet {} x.ths.diodes j

/-- Insert into a rising list of temperatures. -/
def insInt (v : Int) : List Int → List Int
  | [] => [v]
  | w :: ws => if v ≤ w then v :: w :: ws else w :: insInt v ws

/-- The median; of an even count the mean of the two middle values (R245). -/
def median (vs : List Int) : Int :=
  let s := vs.foldr insInt []
  let n := s.length
  if n = 0 then 0 else if n % 2 = 1 then s.getD (n / 2) 0 else divRound (s.getD (n / 2 - 1) 0 + s.getD (n / 2) 0) 2

/-- The grid cells adjacent to diode `j`, diagonals included (R245). -/
def diodeNbrs (j : Nat) : List Nat :=
  (List.range 32).filter (fun k => k != j && decide (((k / 8 : Nat) - (j / 8 : Nat) : Int).natAbs ≤ 1) &&
    decide (((k % 8 : Nat) - (j % 8 : Nat) : Int).natAbs ≤ 1))

/-- The mean of a list, rounded to nearest. -/
def meanI (vs : List Int) : Int := if vs.isEmpty then 0 else divRound vs.sum vs.length

/-- Zone of a diode (R242). -/
def diodeZone (j : Nat) : Bool := decide (4 ≤ j % 8)

/-- A zone. -/
def Tec.zone (t : Tec) (z : Bool) : Zone := if z then t.z1 else t.z0

/-- Temperature of a tile (R221, R244, R245). -/
def Hoop.tileTemp (x : Hoop) (t : Nat) : Int :=
  let (d1, d2, w) := Config.tileDiodes t
  let j1 := d1 % 32
  let j2 := d2 % 32
  let rd := fun (j : Nat) => if (x.diode j).suspect then
    median (((diodeNbrs j).filter (fun k => !(x.diode k).suspect)).map (fun k => (x.diode k).t)) else (x.diode j).t
  if (x.diode j1).suspect && (x.diode j2).suspect then (x.tec.zone (diodeZone j1)).t
  else divRound (rd j1 * (w % 257 : Nat) + rd j2 * (256 - w % 257 : Nat)) 256

/-! ## Feed-forward -/

/-- A loop. -/
def Hoop.loop (x : Hoop) (e : Nat) : Loop := smGet {} x.bob.loops e

def Hoop.setLoop (x : Hoop) (e : Nat) (v : Loop) : Hoop :=
  { x with bob := { x.bob with loops := smSet {} x.bob.loops e v } }

def Hoop.updLoop (x : Hoop) (e : Nat) (f : Loop → Loop) : Hoop := x.setLoop e (f (x.loop e))

/-- Neighbours of an element, in the order NBR0 to NBR3 (R56). -/
def nbrsOf (p : Part) (e : Nat) : List (Option Nat) :=
  let n2 := Config.ports p / 2
  let sN := Config.stitches p
  if e < sN then
    let s := e / n2
    let r := e % n2
    [if r = 0 then none else some (e - 1), if r + 1 < n2 then some (e + 1) else none,
     if s = 0 then none else some (e - n2), if s + 1 < Config.stages p then some (e + n2) else none]
  else [if e = sN then none else some (e - 1), if e + 1 < Config.elems p then some (e + 1) else none, none, none]

/-- The band an element's feed-forward uses (R222). -/
def Hoop.ffBand (x : Hoop) (e : Nat) : Bool :=
  let v := x.elem e
  match v.st with
  | .idle => false
  | _ => v.band || v.mixed

/-- Feed-forward of an element in a band, signed Q16.16 heater LSB (R221). -/
def Hoop.feedForward (x : Hoop) (e : Nat) (band : Bool) : Int :=
  let en := x.entry e band
  let tSet : Int := (x.slice.temp : Int)
  let tEff : Int := if x.tec.eff.toNat < 2000 then tSet else (x.tec.eff.toNat : Int)
  let temp := en.ts * (x.tileTemp (e / 32) - tEff)
  let lags := (x.loop e).lag
  let nb := ((nbrsOf x.part e).zip (en.nbr.zip lags)).map (fun q => match q with
    | (some k, c, l) => if en.hs = 0 then 0 else
        divRound (c * (x.entry k (x.ffBand k)).hs * l) (32768 * en.hs.toNat)
    | (none, _, _) => 0)
  en.hb * 65536 + temp - nb.sum

/-- Whole heater LSB of a Q16.16 value, clamped to the heater's span (R219, R236). -/
def toLsb (q : Int) : Nat := (clampI (divRound q 65536) 0 16380).toNat

/-- Code and range that the heater port chooses for an output, from the present range (R236). -/
def heaterCode (range : Bool) (u : Nat) : BitVec 12 × Bool :=
  if range || decide (4000 < u) then (BitVec.ofNat 12 (min 4095 ((u + 2) / 4)), true) else (BitVec.ofNat 12 u, false)

/-! ## Photocurrents -/

/-- Photocurrent of a result word in 1/65,536 pA: code, reference in microvolts, range (R182). -/
def Hoop.current (x : Hoop) (w : Word) : Nat :=
  (w.toNat % 65536) * x.mon.refMeas.toNat * 10 ^ (w.toNat / 65536 % 4)

/-- A result word is VALID (R187). -/
def wordValid (w : Word) : Bool := w.getLsbD 31

/-- The greatest `y` below 2^k with y^100 at most `v`, by bits from the top. -/
def rootBits (v : Nat) : Nat → Nat → Nat
  | 0, y => y
  | k + 1, y => if (y + 2 ^ k) ^ 100 ≤ v then rootBits v k (y + 2 ^ k) else rootBits v k y

/-- 10^(t/100) in units of 2^-32, rounded down: `t` in tenths of a decibel of power (R101, assumption 13). -/
def dbScale (t : Int) : Nat :=
  if 0 ≤ t then rootBits (2 ^ 3200 * 10 ^ t.toNat) 40 0 else rootBits (2 ^ 3200 / 10 ^ (-t).toNat) 33 0

/-- LIGHT_FLOOR of a band. -/
def Hoop.lightFloor (x : Hoop) (band : Bool) : Nat := if band then x.slice.floorC else x.slice.floorO

/-- The dark ceiling of a band. -/
def Hoop.darkCeil (x : Hoop) (band : Bool) : Nat := if band then x.slice.ceilC else x.slice.ceilO

/-- `n` codes of G0 as a photocurrent (R103). -/
def Hoop.g0Codes (x : Hoop) (n : Nat) : Nat := n * x.mon.refMeas.toNat

end Sys2Proof.Machine
end

