-- ==== Sys2Proof/Machine/Operands.lean ====
section
/-!
DEFINITION. The forms of a Selda command: header (R352), TLVs (R355), the v1 body (R367), the parameter block
(R369 to R372, R404), batch entries (R356), and the checks 1 to 3 of R86 that look at the form alone.
-/

namespace Sys2Proof.Machine

/-! ## Header (R352) -/

structure Hdr where
  version : Nat
  exact : Bool
  rsv : Nat
  opcode : Nat
  len : Nat
  tag : BitVec 16
  sec : Nat
  ns : Nat
deriving DecidableEq, Repr

/-- The header of a command's bytes; `rsv` collects the bits that must be 0, `ns` is the whole 32-bit word. -/
def hdrOf (b : Bytes) : Hdr :=
  { version := field b 0 1 % 16, exact := decide (field b 0 1 / 16 % 2 = 1), rsv := field b 0 1 / 32, opcode := field b 1 1,
    len := field b 2 2, tag := BitVec.ofNat 16 (field b 4 2), sec := field b 6 6, ns := field b 12 4 }

/-- The header names an epoch (R352, R88). -/
def Hdr.hasEpoch (h : Hdr) : Bool := h.sec != 0 || h.ns != 0

/-- PTP nanoseconds of the header's epoch. -/
def Hdr.epochNs (h : Hdr) : Nat := h.sec * 1000000000 + h.ns

/-- Commands that take an epoch (R368, R404). -/
def opEpoch (op : Nat) : Bool := [1, 2, 3, 4, 5, 0x30, 0x31].contains op

/-- The opcode exists in the version (R353, R368 to R372, R404). -/
def opIn (version op : Nat) : Bool :=
  if version = 1 then decide (op ≤ 7)
  else
    decide (op ≤ 0x0A) || (0x10 ≤ op && op ≤ 0x17) || (0x20 ≤ op && op ≤ 0x25) || op == 0x32 || (0x40 ≤ op && op ≤ 0x53)
      || (0x60 ≤ op && op ≤ 0x68) || (version == 3 && (op == 0x30 || op == 0x31))

/-- Largest LEN of a version (R353). -/
def maxLen (version : Nat) : Nat := if version = 1 then 4 else if version = 2 then 64 else 256

/-- Slots of a command of LEN units (R346). -/
def chainLen (len : Nat) : Nat := (len * 16 + 63) / 64

/-- Check 1 of R86 but for the chain (R354): the status of the first failure. `cut` says that the chain check fails. -/
def formCheck (h : Hdr) (versions : BitVec 3) (cut : Bool) : Option Nat :=
  if h.len = 0 then some 1
  else if 256 < h.len || (1 ≤ h.version && h.version ≤ 3 && maxLen h.version < h.len) then some 2
  else if cut then some 3
  else if !(1 ≤ h.version && h.version ≤ 3 && versions.getLsbD (h.version - 1)) then some 5
  else if !opIn h.version h.opcode || (h.version == 1 && h.len != 4) || (h.version != 1 && decide (h.len < 2)) then some 4
  else none

/-- Cost at the meter (R365). -/
def cmdCost (b : Bytes) : Nat := if (hdrOf b).opcode = 0x30 then field b 16 1 else 1

/-! ## TLVs (R355) -/

/-- Bytes rounded up to a multiple of 4. -/
def pad4 (n : Nat) : Nat := (n + 3) / 4 * 4

/-- The TLVs of a body, or none where one runs past the end or padding is not zero. Zeros alone end the list. -/
def tlvs : Nat → Bytes → Option (List (Nat × Bytes))
  | 0, b => if b.all (· == 0) then some [] else none
  | fuel + 1, b =>
    if b.all (· == 0) then some []
    else
      let n := field b 2 2
      if b.length < 4 + pad4 n then none
      else if !((b.drop (4 + n)).take (pad4 n - n)).all (· == 0) then none
      else (tlvs fuel (b.drop (4 + pad4 n))).map (fun r => (field b 0 2, (b.drop 4).take n) :: r)

/-- Fixed sizes of TLV values; PARAM has the command's own. -/
def tlvSize (t : Nat) : Option Nat :=
  match t with
  | 1 => some 8
  | 2 => some 2
  | 3 => some 6
  | 4 => some 12
  | 5 => some 12
  | 6 => some 12
  | _ => none

/-- The value of a TLV. -/
def tlvGet (ts : List (Nat × Bytes)) (t : Nat) : Option Bytes := (ts.find? (fun e => e.1 == t)).map (·.2)

/-- The parameter block's size by command (R369, R372); `n8` is N / 8. Lists of entries may be of any whole number. -/
def paramSizeOk (n8 op size : Nat) : Bool :=
  match op with
  | 0x09 => size == 10
  | 0x10 => decide (2 ≤ size) && (size - 2) % 8 == 0 && decide (size ≤ 2 + 8 * 256)
  | 0x11 => size == 1 + n8
  | 0x12 => size == 1
  | 0x13 => decide (3 ≤ size) && (size - 3) % 8 == 0 && decide (size ≤ 3 + 8 * 256)
  | 0x14 => size == 17
  | 0x15 => size == 17
  | 0x17 => size == 1
  | 0x20 => size == 12 + 2 * n8
  | 0x21 => size == 1
  | 0x22 => size == 9
  | 0x23 => size == 33
  | 0x24 => size == 5
  | 0x25 => size == 16
  | 0x31 => decide (4 ≤ size)
  | 0x32 => size == 7
  | 0x40 => size == 20
  | 0x42 => size == 3
  | 0x43 => size == 2
  | 0x44 => size == 1
  | 0x45 => size == 3
  | 0x46 => size == 30
  | 0x47 => size == 5
  | 0x48 => size == 8
  | 0x49 => size == 24
  | 0x4A => size == 3
  | 0x4B => size == 1
  | 0x4D => size == 4
  | 0x4E => size == 7
  | 0x4F => size == 2
  | 0x60 => size == 6
  | 0x61 => size == 6
  | 0x62 => size == 6
  | 0x63 => size == 4
  | 0x64 => size == 6
  | 0x65 => size == 5
  | 0x66 => size == 4
  | 0x68 => size == 15
  | _ => false

/-- The command takes a parameter block. -/
def hasParam (op : Nat) : Bool :=
  op == 9 || ([0x10, 0x11, 0x12, 0x13, 0x14, 0x15, 0x17].contains op) || (0x20 ≤ op && op ≤ 0x25) || op == 0x31 || op == 0x32
    || ([0x40, 0x42, 0x43, 0x44, 0x45, 0x46, 0x47, 0x48, 0x49, 0x4A, 0x4B, 0x4D, 0x4E, 0x4F].contains op)
    || ([0x60, 0x61, 0x62, 0x63, 0x64, 0x65, 0x66, 0x68].contains op)

/-- A read command: it takes buffers (R368, R372). -/
def isRead (op : Nat) : Bool := (8 ≤ op && op ≤ 0x0A) || (0x60 ≤ op && op ≤ 0x68)

/-- A diagnostic command (R372). -/
def isDiag (op : Nat) : Bool := 0x60 ≤ op && op ≤ 0x68

/-- The TLV types that a command requires (R368, R372). -/
def required (op : Nat) : List Nat :=
  (if op == 1 || op == 2 || op == 3 then [1] else if op == 4 || op == 5 || op == 6 then [2] else if op == 7 then [3] else [])
    ++ (if isRead op then [4] else []) ++ (if hasParam op then [0x10] else [])

/-- The TLV types that a command may take besides. -/
def optionalTlv (op : Nat) : List Nat :=
  (if isRead op then [5] else []) ++ (if op == 8 then [2] else if op == 0x0A then [3, 6] else [])

/-- No type twice. -/
def noTwice : List (Nat × Bytes) → Bool
  | [] => true
  | e :: es => es.all (fun f => f.1 != e.1) && noTwice es

/-- The TLVs of a command obey R355. -/
def tlvsOk (n8 op : Nat) (ts : List (Nat × Bytes)) : Bool :=
  noTwice ts && (required op).all (fun t => (tlvGet ts t).isSome) &&
    ts.all (fun e => ((required op).contains e.1 || (optionalTlv op).contains e.1) &&
      (match tlvSize e.1 with
       | some n => e.2.length == n
       | none => paramSizeOk n8 op e.2.length)) &&
    (op != 0x0A || (tlvGet ts 3).isSome != (tlvGet ts 6).isSome)

/-! ## Thread operands (R41) -/

/-- The fields of a descriptor that you supply. -/
structure Desc where
  inPort : Nat
  outPort : Nat
  tenant : Nat
  band : Bool
  pricked : Bool
  move : Bool
  rsv : Bool
deriving DecidableEq, Repr

/-- A descriptor's fields; the hoop's own fields are ignored on input. -/
def descOf (b : Bytes) : Desc :=
  let v := field b 0 8
  { inPort := v % 512, outPort := v / 2 ^ 16 % 512, tenant := v / 2 ^ 32 % 4096, band := decide (v / 2 ^ 44 % 2 = 1),
    pricked := decide (v / 2 ^ 45 % 2 = 1), move := decide (v / 2 ^ 46 % 2 = 1),
    rsv := decide (v / 2 ^ 9 % 128 ≠ 0) || decide (v / 2 ^ 25 % 128 ≠ 0) || decide (v / 2 ^ 47 % 2 ≠ 0) }

/-- Code of a thread state (R41). -/
def ThreadSt.code : ThreadSt → Nat
  | .none => 0
  | .staged => 1
  | .settling => 2
  | .carrying => 3
  | .verified => 4
  | .faulted => 5
  | .darked => 6

/-- The descriptor of a thread (R41). -/
def descNat (inP : Nat) (t : Thread) : Nat :=
  inP + t.outPort * 2 ^ 16 + t.tenant * 2 ^ 32 + bit t.band * 2 ^ 44 + bit t.pricked * 2 ^ 45 + bit t.move * 2 ^ 46
    + t.st.code * 2 ^ 48 + bit t.noLight * 2 ^ 51 + bit t.degrade * 2 ^ 52 + bit t.mixed * 2 ^ 53 + t.gen.toNat * 2 ^ 56

/-- The descriptor of a v1 body (R367) or of the THREAD TLV. -/
structure Body where
  tl : List (Nat × Bytes)
  v1 : Bool
deriving DecidableEq, Repr

/-- The body of a command as TLVs: those of v2 and v3, or the fixed fields of v1 under the same types (R367). A v1
command on a thread names it by the descriptor's IN_PORT (assumption 14). -/
def bodyOf (b : Bytes) : Option Body :=
  let h := hdrOf b
  if h.version = 1 then
    let rest := if h.opcode = 0 then b.drop 16 else if h.opcode = 7 then b.drop 22 else b.drop 24
    if !rest.all (· == 0) || (4 ≤ h.opcode && h.opcode ≤ 6 && (descOf ((b.drop 16).take 8)).rsv) then none
    else some { v1 := true, tl :=
      if h.opcode = 0 then [] else if h.opcode = 7 then [(3, (b.drop 16).take 6)]
      else if h.opcode ≤ 3 then [(1, (b.drop 16).take 8)]
      else [(2, leBytes 2 (field b 16 2))] }
  else if h.opcode = 0x30 then some { v1 := false, tl := [] }
  else (tlvs (b.length / 4) (b.drop 16)).map (fun t => { v1 := false, tl := t })

/-! ## Check 3 of R86 on the header -/

/-- Header fields legal for the opcode: reserved bits 0, epoch form valid and at most 3,600 s ahead, no epoch and no EXACT
where the command has none (R352, R86; assumption 15). -/
def hdrOk (x : Hoop) (h : Hdr) : Bool :=
  h.rsv == 0 && decide (h.ns ≤ 999999999) &&
    (if opEpoch h.opcode then (h.hasEpoch || !h.exact) && decide (h.epochNs ≤ x.tb.ptpOf x.now + 3600 * 1000000000)
     else !h.hasEpoch && !h.exact)

/-- A buffer TLV is legal: address 16-byte aligned, length 16 B to 1 MiB (R355, R373). -/
def bufOk (b : Bytes) : Bool := field b 0 8 % 16 == 0 && decide (16 ≤ field b 8 4) && decide (field b 8 4 ≤ 1048576)

/-- A descriptor's fields are legal: ports in range, reserved bits 0, standing class, a tag where ring 0 sends it
(R86, R361, R368). -/
def descOk (x : Hoop) (r : Nat) (d : Desc) : Bool :=
  decide (d.inPort < x.n) && decide (d.outPort < x.n) && !d.rsv && !d.pricked && (r != 0 || (1 ≤ d.tenant && d.tenant ≤ 4095))

/-- The port of a PORT TLV is legal. -/
def portOk (x : Hoop) (b : Bytes) : Bool := decide (field b 0 2 < x.n)

/-- Check 3 but for the parameter block and the batch body: header, TLVs, descriptor, port, buffers. -/
def fieldsOk (x : Hoop) (r : Nat) (b : Bytes) : Bool :=
  let h := hdrOf b
  hdrOk x h && (h.opcode != 0 || h.len == 4) &&
    match bodyOf b with
    | none => false
    | some body =>
      (h.opcode == 0x30 || tlvsOk (x.n / 8) h.opcode body.tl) &&
        (match tlvGet body.tl 1 with | some d => descOk x r (descOf d) | none => true) &&
        (match tlvGet body.tl 2 with | some p => portOk x p | none => true) &&
        (match tlvGet body.tl 4 with | some q => bufOk q | none => true) &&
        (match tlvGet body.tl 5 with | some q => bufOk q | none => true)

/-- The parameter block of a command; empty where it has none. -/
def paramOf (b : Bytes) : Bytes :=
  match bodyOf b with
  | some body => (tlvGet body.tl 0x10).getD []
  | none => []

/-! ## Batch entries (R356) -/

/-- The entry at the front of some bytes: its opcode and TLV bytes, where its head is legal. -/
def entryHead (b : Bytes) : Option (Nat × Bytes) :=
  let el := field b 2 2
  if b.length < 4 || el < 8 || 1024 < el || el % 4 != 0 || b.length < el || field b 1 1 != 0 then none
  else some (field b 0 1, (b.drop 4).take (el - 4))

/-- The `n` entries of a body: none where they do not fill it. LEN counts 16 bytes, so that fewer than 16 zeros may follow (assumption 123). -/
def entriesOf : Nat → Bytes → Option (List (Nat × Bytes))
  | 0, b => if decide (b.length < 16) && b.all (· == 0) then some [] else none
  | n + 1, b =>
    match entryHead b with
    | none => none
    | some e => (entriesOf n (b.drop (field b 2 2))).map (e :: ·)

/-- An entry's opcode is one of CREATE, MODIFY, REOPEN, RELEASE, DARK, and its TLVs and fields are legal. -/
def entryOk (x : Hoop) (r : Nat) (e : Nat × Bytes) : Bool :=
  decide (1 ≤ e.1 ∧ e.1 ≤ 5) &&
    match tlvs (e.2.length / 4) e.2 with
    | none => false
    | some ts => tlvsOk (x.n / 8) e.1 ts &&
        (match tlvGet ts 1 with | some d => descOk x r (descOf d) | none => true) &&
        (match tlvGet ts 2 with | some p => portOk x p | none => true)

/-- The ingress port that an entry names. -/
def entryPort (e : Nat × Bytes) : Nat :=
  match tlvs (e.2.length / 4) e.2 with
  | none => 0
  | some ts => match tlvGet ts 1 with
    | some d => (descOf d).inPort
    | none => match tlvGet ts 2 with
      | some p => field p 0 2
      | none => 0

/-- Index of the first of `n` entries that is malformed or names a port named before it. -/
def entryFault (x : Hoop) (r : Nat) : Nat → Bytes → List Nat → Nat → Option Nat
  | 0, _, _, _ => none
  | n + 1, b, seen, i =>
    match entryHead b with
    | none => some i
    | some e => if !entryOk x r e || seen.contains (entryPort e) then some i
                else entryFault x r n (b.drop (field b 2 2)) (entryPort e :: seen) (i + 1)

/-- Index of the first value that stands earlier in the list too. -/
def firstTwice : List Nat → List Nat → Nat
  | _, [] => 0
  | seen, a :: as => if seen.contains a then 0 else firstTwice (a :: seen) as + 1

/-- No value twice. -/
def distinct : List Nat → Bool
  | [] => true
  | a :: as => !as.contains a && distinct as

end Sys2Proof.Machine
end

