-- ==== Sys2Proof/Machine/Frames.lean ====
section
/-!
DEFINITION. Walimin frames (R394) and the sending of them: routes, output queues, the duplicate window (R338).
-/

namespace Sys2Proof.Machine

/-- DST of a broadcast (R394). -/
def bcast : Nat := 4095

/-- A frame's bytes (R394). -/
def frameBytes (dst src ttl type : Nat) (origin : BitVec 16) (seq : Nat) (payload : Bytes) : Bytes :=
  let b := leBytes 4 (dst + src * 4096 + ttl * 2 ^ 24 + type * 2 ^ 28) ++ leBytes 2 origin.toNat ++ leBytes 6 seq ++ payload
  b ++ leBytes 4 (crc32 b).toNat

/-- Fields of a received frame. -/
def frDst (b : Bytes) : Nat := field b 0 4 % 4096
def frSrc (b : Bytes) : Nat := field b 0 4 / 4096 % 4096
def frTtl (b : Bytes) : Nat := field b 0 4 / 2 ^ 24 % 16
def frType (b : Bytes) : Nat := field b 0 4 / 2 ^ 28
def frOrigin (b : Bytes) : Nat := field b 4 2
def frSeq (b : Bytes) : Nat := field b 6 6
def frPayload (b : Bytes) : Bytes := (b.drop 12).take (b.length - 16)

/-- A link of this hoop. -/
def Hoop.link (x : Hoop) (k : Nat) : Link := smGet {} x.wlm.links k

def Hoop.updLink (x : Hoop) (k : Nat) (f : Link → Link) : Hoop :=
  { x with wlm := { x.wlm with links := smSet {} x.wlm.links k (f (x.link k)) } }

/-- Links that are up. -/
def Hoop.upLinks (x : Hoop) : List Nat := (List.range 4).filter (fun k => (x.link k).up)

/-- Bytes that wait in one output queue of a link. -/
def queued (x : Hoop) (k : Nat) (tel : Bool) : Nat :=
  ((x.wlm.tx.filter (fun f => f.link == k && f.tel == tel)).map (fun f => f.bytes.length)).sum

/-- Hand a frame to a link's output queue of 32 KB, or drop and count it (R393). -/
def sendFrame (k : Nat) (tel : Bool) (b : Bytes) (x : Hoop) : Hoop :=
  if 32768 < queued x k tel + b.length then
    (fun y : Hoop => if y.wlm.qdropEvSec = some (y.now / 1000000000) then y else
        raiseEv 527 [k + (if y.isB then 4 else 0), if tel then 1 else 0] .hoop
          { y with wlm := { y.wlm with qdropEvSec := some (y.now / 1000000000) } })
      (x.updLink k (fun l => if tel then { l with telDrop := satInc l.telDrop } else { l with ctlDrop := satInc l.ctlDrop }))
  else
    pmcRaw (210 + k) 1 ((fun y : Hoop => { y with wlm := { y.wlm with tx := y.wlm.tx ++ [{ link := k, tel := tel, bytes := b }] } })
      (x.updLink k (fun l => { l with tx := l.tx + 1 })))

/-- An entry of the routing table (R401). -/
def Hoop.rt (x : Hoop) (a : Nat) : Rt := smGet {} x.wlm.table a

def Hoop.setRt (x : Hoop) (a : Nat) (r : Rt) : Hoop := { x with wlm := { x.wlm with table := smSet {} x.wlm.table a r } }

/-- The link toward an address, where the hoop has a route (R402). -/
def Hoop.routeTo (x : Hoop) (dst : Nat) : Option Nat :=
  let e := x.rt dst
  if e.valid && decide (e.dist ≤ 15) && (x.link (e.port % 4)).up then some (e.port % 4) else none

/-- Send a frame toward its DST, to the peer hoop of a duplex module, or discard and count it (R402). -/
def sendToward (tel : Bool) (b : Bytes) (x : Hoop) : Hoop :=
  match x.routeTo (frDst b) with
  | some k => sendFrame k tel b x
  | none =>
    if Config.duplex x.part then { x with wlm := { x.wlm with handOff := x.wlm.handOff ++ [b] } }
    else pmcRaw 218 1 { x with wlm := { x.wlm with noRoute := satInc x.wlm.noRoute } }

/-- ORIGIN of a Walimin message. -/
def Hoop.wlmOrigin (x : Hoop) : BitVec 16 := x.origin 3 0

/-- Originate a frame that is not link-local: the next SEQ, TTL 15 (R396, R337). A broadcast goes on every up link. -/
def originate (dst type : Nat) (payload : Bytes) (x : Hoop) : Hoop :=
  let seq := nextSeq x.wlm.seq
  let b := frameBytes dst x.wlm.addr.toNat 15 type x.wlmOrigin seq payload
  let x := { x with wlm := { x.wlm with seq := seq } }
  if dst = bcast then x.upLinks.foldl (fun y k => sendFrame k false b y) x
  else sendToward (type == 0xB) b x

/-- Send a link-local frame on one link: DST 0, TTL 0. Each hoop counts its own (assumption 24). -/
def sendLocal (k type : Nat) (payload : Bytes) (x : Hoop) : Hoop :=
  let seq := nextSeq x.wlm.localSeq
  sendFrame k false (frameBytes 0 x.wlm.addr.toNat 0 type x.wlmOrigin seq payload) { x with wlm := { x.wlm with localSeq := seq } }

/-- The window rule of R338 over values modulo `m`: the new window, or none where the message is discarded. R382 puts another `m` in place and
leaves the forward bound of 2^47 as it is (assumption 22). -/
def winAccept (m : Nat) (g : Win) (seq : Nat) : Option Win :=
  if g.last = 0 then some { last := seq, map := 1 }
  else
    let d := (seq + m - g.last % m) % m
    let back := (g.last + m - seq % m) % m
    if d ≠ 0 ∧ d < 2 ^ 47 then
      some { last := seq, map := (if 64 ≤ d then 0 else g.map <<< d) ||| 1 }
    else if back ≤ 63 ∧ !g.map.getLsbD back then some { g with map := g.map ||| (1#64 <<< back) }
    else none

end Sys2Proof.Machine
end

