-- ==== Sys2Proof/Machine/Threads.lean ====
section
/-!
DEFINITION. Threads: their state changes and events (R44, R378), the minute ledger (R385 to R389), chain notices
(R415), the dark of one thread (R46, R108 to R111), the route map (R282).
-/

namespace Sys2Proof.Machine

/-- A thread. -/
def Hoop.thread (x : Hoop) (i : Nat) : Thread := smGet {} x.thr i

def Hoop.setThread (x : Hoop) (i : Nat) (t : Thread) : Hoop := { x with thr := smSet {} x.thr i t }

def Hoop.updThread (x : Hoop) (i : Nat) (f : Thread → Thread) : Hoop := x.setThread i (f (x.thread i))

/-- Element and channel numbers (R34, R36): the eyelet of an ingress port, the egress tap of an egress port. -/
def Hoop.eyelet (x : Hoop) (i : Nat) : Nat := x.nS + i
def Hoop.egress (x : Hoop) (j : Nat) : Nat := x.nS + x.n + j

/-- A thread that holds or will hold light: the states of R39. -/
def ThreadSt.live : ThreadSt → Bool
  | .staged => true
  | .settling => true
  | .carrying => true
  | .verified => true
  | _ => false

/-- A thread whose eyelet is open. -/
def ThreadSt.lit : ThreadSt → Bool
  | .settling => true
  | .carrying => true
  | .verified => true
  | _ => false

/-- Raise the thread-state event of R378 and its journal record for the thread as it now stands. -/
def threadEvent (i : Nat) (t : Thread) (prev : ThreadSt) (cause seq src slot : Nat) (x : Hoop) : Hoop :=
  raiseEv 32 [descNat i t, prev.code, cause, seq, src, slot, x.tb.secOf x.now, x.tb.nsOf x.now] (.tenant t.tenant)
    (jnlPut 4 0xFF 0xFFFF false (leBytes 8 (descNat i t) ++ leBytes 1 prev.code ++ leBytes 6 seq) x)

/-- Count a transition (R430). -/
def countSt (st : ThreadSt) (x : Hoop) : Hoop :=
  match st with
  | .verified => pmcRaw 100 1 x
  | .faulted => pmcRaw 101 1 x
  | .darked => pmcRaw 102 1 x
  | _ => x

/-- Move a standing thread to a state, with its event. -/
def setSt (i : Nat) (st : ThreadSt) (cause seq src : Nat) (x : Hoop) : Hoop :=
  let t := x.thread i
  let t' := { t with st := st }
  threadEvent i t' t.st cause seq src 0xFFFF (countSt st (x.setThread i t'))

/-! ## Ledger -/

/-- Change the record of a tenant, which is made when it is first needed. -/
def addLed (minute tenant : Nat) (f : LedRec → LedRec) (rs : List LedRec) : List LedRec :=
  if rs.any (fun r => r.tenant == tenant) then rs.map (fun r => if r.tenant = tenant then f r else r)
  else rs ++ [f { minute := minute, tenant := tenant }]

/-- The count at which the open minute began. -/
def Hoop.minuteStart (x : Hoop) : Nat := x.tb.cntOf (x.led.minute * 1000000000)

/-- Time of one piece added to a record (R385, R387, R389). -/
def ledPiece (i : Nat) (prk counted : Bool) (ns ver : Nat) (r : LedRec) : LedRec :=
  if counted then
    { r with carry := r.carry + ns, verify := r.verify + ver
             prkCarry := if prk then r.prkCarry + ns else r.prkCarry
             prkVerify := if prk then r.prkVerify + ver else r.prkVerify
             threads := insSorted i r.threads }
  else { r with unconf := r.unconf + ns }

/-- The part of a piece after the thread went VERIFIED. -/
def verPart (a b : Nat) (v : Option Nat) : Nat :=
  match v with
  | some v => b - max a v
  | none => 0

/-- Settle an interval from `a` to `b`: the part before the open minute goes to the minute that is closing (R388). -/
def ledAdd (i tenant : Nat) (prk counted : Bool) (a b : Nat) (v : Option Nat) (x : Hoop) : Hoop :=
  let m := x.minuteStart
  let early := match x.led.closingMin with
    | some c => if a < m then addLed c tenant (ledPiece i prk counted (min b m - a) (verPart a (min b m) v)) x.led.closing else x.led.closing
    | none => x.led.closing
  let a' := if x.led.closingMin.isSome then max a m else a
  let late := if a' < b then addLed x.led.minute tenant (ledPiece i prk counted (b - a') (verPart a' b v)) x.led.openRecs else x.led.openRecs
  { x with led := { x.led with closing := early, openRecs := late } }

/-- Begin an interval of a thread that has become countable (R385). -/
def ledStart (i at_ : Nat) (x : Hoop) : Hoop :=
  let v : Interval := { start := at_, verFrom := if (x.thread i).st = .verified then some at_ else none }
  { x with led := { x.led with runs := smPut x.led.runs i v } }

/-- End the running interval of a thread, counted or not (R385). -/
def ledEnd (i at_ : Nat) (counted : Bool) (x : Hoop) : Hoop :=
  match smFind x.led.runs i with
  | none => x
  | some r =>
    let y := ledAdd i (x.thread i).tenant false counted r.start at_ r.verFrom x
    { y with led := { y.led with runs := smDel y.led.runs i } }

/-- The thread went VERIFIED within its running interval. -/
def ledVerified (i at_ : Nat) (x : Hoop) : Hoop :=
  match smFind x.led.runs i with
  | none => x
  | some r => { x with led := { x.led with runs := smPut x.led.runs i { r with verFrom := some at_ } } }

/-- Note a condition of the minute (R389). -/
def ledFlag (k : Nat) (x : Hoop) : Hoop := { x with led := { x.led with flags := x.led.flags ||| BitVec.twoPow 16 k } }

/-- A record has time in its minute (R389). -/
def LedRec.hasTime (r : LedRec) : Bool := r.carry != 0 || r.prkCarry != 0 || r.unconf != 0

/-- Records of the current and of the previous minute. -/
def Hoop.recentRecs (x : Hoop) : List LedRec :=
  x.led.openRecs ++ x.led.closing ++ ((x.led.closed.filter (fun e => e.1 + 60 == x.led.minute)).map (·.2)).flatten

/-- Tags that are active (R364). -/
def Hoop.activeTags (x : Hoop) : List Nat :=
  nub ((x.thr.filter (fun e => e.2.st != .none)).map (fun e => e.2.tenant) ++
    ((x.prk.slots.map (fun e => e.2.threads.map (fun t => t.2.tenant))).flatten) ++
    ((x.recentRecs.filter LedRec.hasTime).map (·.tenant)))

/-- Tags of `ts` that would make more than 512 active; none where they fit (R364). -/
def tagOver (x : Hoop) (ts : List Nat) : Option Nat :=
  let act := x.activeTags
  let new := nub (ts.filter (fun t => !act.contains t))
  if 512 < act.length + new.length then new.getLast? else none

/-! ## Chain notices (R415) -/

/-- The address that the routing table holds for an ID. -/
def Hoop.addrOfId (x : Hoop) (id : BitVec 64) : Option Nat :=
  (x.wlm.table.find? (fun e => e.2.valid && e.2.id == id && decide (e.2.dist ≤ 15))).map (·.1)

/-- The payload of a DARK_NOTICE. -/
def noticePayload (c : Chain) (inPort cause : Nat) : Bytes :=
  leBytes 2 c.initiator ++ leBytes 6 c.fcid ++ leBytes 2 c.chain ++ leBytes 2 inPort ++ leBytes 1 cause ++ [0, 0, 0]

/-- The addresses that a chain's notices go to: every other module of its record that has one. -/
def noticeTo (c : Chain) (x : Hoop) : List Nat := (c.ids.filter (fun d => d != x.wlm.id)).filterMap x.addrOfId

/-- Send the notices of a chain once. -/
def sendNotices (c : Chain) (inPort cause : Nat) (x : Hoop) : Hoop :=
  (noticeTo c x).foldl (fun y a =>
    originate a 9 (noticePayload c inPort cause) { y with wlm := { y.wlm with noticeTx := satInc y.wlm.noticeTx } }) x

/-- Tell the other modules of the chain of a thread (R415): now, and twice more; not while Tambour is HALTED. -/
def notify (i cause : Nat) (x : Hoop) : Hoop :=
  match smFind x.wlm.chains i with
  | none => x
  | some c =>
    if x.tmb.st = .halted then x
    else
      let y := sendNotices c i cause x
      raiseEv 521 ([c.initiator, c.fcid, c.chain, cause] ++ noticeTo c x) .hoop
        { y with wlm := { y.wlm with notices := y.wlm.notices ++ [{ key := c, inPort := i, cause := cause, left := 2, sentAt := x.now }] } }

/-! ## Codes of a needle -/

def Hoop.needle (x : Hoop) (e : Nat) : Needle := smGet {} x.drv.needles e

def Hoop.setNeedle (x : Hoop) (e : Nat) (v : Needle) : Hoop := { x with drv := { x.drv with needles := smSet {} x.drv.needles e v } }

def Hoop.updNeedle (x : Hoop) (e : Nat) (f : Needle → Needle) : Hoop := x.setNeedle e (f (x.needle e))

/-- The active bank's code; `bankSel` says which bank is active. -/
def Hoop.activeCode (x : Hoop) (e : Nat) : NCode := if x.drv.bankSel then (x.needle e).bank1 else (x.needle e).bank0

def Hoop.idleCode (x : Hoop) (e : Nat) : NCode := if x.drv.bankSel then (x.needle e).bank0 else (x.needle e).bank1

def Hoop.setIdle (x : Hoop) (e : Nat) (c : NCode) : Hoop :=
  x.updNeedle e (fun v => if x.drv.bankSel then { v with bank0 := c } else { v with bank1 := c })

/-- Restore an element's idle code from the active bank (R94). -/
def restoreElem (x : Hoop) (e : Nat) : Hoop := x.setIdle e (x.activeCode e)

/-! ## Commit outcomes (R107) -/

/-- The record of R107, 32 bytes. -/
def outcomeBytes (o : Outcome) : Bytes :=
  leBytes 6 o.seq ++ leBytes 1 o.outcome ++ [0] ++ leBytes 4 o.epoch.toNat ++ leBytes 2 o.nCodes ++ leBytes 2 o.nCh ++ leBytes 2 o.nVer
    ++ leBytes 2 o.nFlt ++ leBytes 2 o.nNol ++ leBytes 2 o.nDrk ++ leBytes 4 o.tVer ++ leBytes 2 o.cMax ++ [0, 0]

/-- Raise an outcome: event 322, journal record 0x0005, and the history of the last 1,024 (R107). -/
def putOutcome (o : Outcome) (x : Hoop) : Hoop :=
  raiseEv 322 [o.seq, o.outcome, o.epoch.toNat, o.nCodes, o.nCh, o.nVer, o.nFlt, o.nNol, o.nDrk, o.tVer, o.cMax] (.commit o.ring o.tenant)
    (jnlPut 5 0xFF 0xFFFF false (outcomeBytes o)
      { x with cm := { x.cm with history := (x.cm.history ++ [o]).drop (x.cm.history.length + 1 - 1024) } })

/-- Threads of a commit in a state. -/
def countIn (x : Hoop) (ports : List Nat) (f : Thread → Bool) : Nat := (ports.filter (fun i => f (x.thread i))).length

/-- An outcome from the present states of the threads. -/
def outcomeOf (x : Hoop) (seq ring tenant code epoch n nch c tver : Nat) (ports : List Nat) : Outcome :=
  { seq := seq, outcome := code, epoch := BitVec.ofNat 32 epoch, nCodes := n, nCh := nch,
    nVer := countIn x ports (fun t => t.st == .verified), nFlt := countIn x ports (fun t => t.st == .faulted),
    nNol := countIn x ports (fun t => t.st == .carrying && t.noLight), nDrk := countIn x ports (fun t => t.st == .darked),
    tVer := tver, cMax := c, ring := ring, tenant := tenant }

/-- A thread makes its commit PARTIAL (R107). -/
def Thread.partialEnd (t : Thread) : Bool := t.st == .faulted || t.st == .darked || (t.st == .carrying && t.noLight)

/-- A thread needs no further verdict for its commit's outcome. -/
def judgedPort (x : Hoop) (i : Nat) : Bool :=
  let t := x.thread i
  match t.st with
  | .verified => true
  | .faulted => true
  | .darked => true
  | .none => true
  | .carrying => t.noLight
  | _ => false

/-- Raise the outcomes of commits whose threads are all judged and whose releases are confirmed. -/
def outcomes (x : Hoop) : Hoop :=
  let ready := x.cm.judging.filter (fun j => j.releases.isEmpty && j.ports.all (judgedPort x))
  ready.foldl (fun y j =>
    putOutcome (outcomeOf y j.seq j.ring j.tenant (bit (j.ports.any (fun i => (y.thread i).partialEnd))) j.epoch j.nCodes j.nCh j.cMax j.lastVerdict j.ports) y)
    { x with cm := { x.cm with judging := x.cm.judging.filter (fun j => !ready.contains j) } }

/-! ## Darks -/

/-- Put an eyelet into the dark override, or take it out (R128). -/
def override (i : Nat) (on : Bool) (x : Hoop) : Hoop :=
  { x with prk := { x.prk with override :=
      if on then x.prk.override ||| BitVec.twoPow 512 i else x.prk.override &&& ~~~(BitVec.twoPow 512 i) } }

/-- Set an eyelet's dark-request bit and its override bit (R128, R151). -/
def reqDark (i : Nat) (x : Hoop) : Hoop :=
  override i true { x with tmb := { x.tmb with darkReq := x.tmb.darkReq ||| BitVec.twoPow 512 i } }

/-- Elements that a change sets or leaves: its routes' stitches and its eyelet. -/
def changeElems (x : Hoop) (c : Change) : List Nat :=
  x.eyelet c.inPort :: ((hopsOf x.part c.inPort c.after.route).map (·.stitch) ++ (hopsOf x.part c.inPort c.before.route).map (·.stitch))

/-- The changes of a thread whose part of a commit is lost with the thread; a release or a dark of it is not
(R46, R111; assumption 16). -/
def Change.drops (c : Change) (i : Nat) : Bool := c.inPort == i && c.kind != .release && c.kind != .dark && !c.dropped

/-- The elements that the changes of one kind set and no other change of the commit does. -/
def soleElems (x : Hoop) (c : Commit) (gone : Change → Bool) : List Nat :=
  let keep := ((c.changes.filter (fun g => !gone g)).map (changeElems x)).flatten
  ((c.changes.filter gone).map (changeElems x)).flatten.filter (fun e => !keep.contains e)

/-- A commit's own name: SEQ is counted per ring (R337). -/
def Commit.key (c : Commit) : Nat := c.seq * 16 + c.ring

/-- The pending commits whose stage the idle bank holds: the one it names, and those merged with it (R49). -/
def Hoop.stagedCommits (x : Hoop) : List Commit :=
  match x.cm.pending.find? (fun c => x.tmb.stagedSeq == some c.key) with
  | none => []
  | some c => x.cm.pending.filter (fun d => d.epochNs == c.epochNs && !d.delta.isEmpty)

/-- Drop a thread's part of the pending commits (R46, R111). In a staged commit the elements that it sets for that thread
alone go back to their active codes. A later commit that was routed against a commit with a part dropped now will be withdrawn (R481). -/
def dropParts (i : Nat) (x : Hoop) : Hoop :=
  let alone := (x.stagedCommits.map (fun c => soleElems x c (·.drops i))).flatten
  let hit := (x.cm.pending.filter (fun c => c.changes.any (·.drops i))).map Commit.key
  let y := alone.foldl restoreElem x
  { y with
    tmb := { y.tmb with stageDelta := y.tmb.stageDelta.filter (fun d => !alone.contains d.elem) }
    cm := { y.cm with pending := y.cm.pending.map (fun c =>
      { c with changes := c.changes.map (fun g => if g.drops i then { g with dropped := true } else g)
               doomed := nub (c.doomed ++ c.deps.filter hit.contains) }) } }

/-- The DARKED transition of a standing thread: ledger, pending parts, event, notices unless a notice darks it, and the outcomes that waited
for it (R44, R46, R107, R109, R415). -/
def darkThread (i cause seq src : Nat) (x : Hoop) : Hoop :=
  if (x.thread i).st.live then
    let y := dropParts i (ledEnd i x.now false x)
    let y := setSt i .darked cause seq src (override i true (y.updThread i (fun t => { t with darkAt := some y.now, darkFrom := t.st })))
    outcomes ((if src = 196 then id else notify i (if cause = 5 then 3 else 1)) y)
  else x

/-- The state that a verdict finds: a thread that was darked in this very cycle still has the one it was darked from (R46). -/
def Thread.seen (t : Thread) (now : Nat) : ThreadSt := if t.st = .darked ∧ t.darkAt = some now then t.darkFrom else t.st

/-- The FAULTED transition of a standing thread (R44, R108); one that is darked in the same cycle is reported FAULTED (R46). -/
def faultThread (i seq src : Nat) (x : Hoop) : Hoop :=
  let t := x.thread i
  if t.seen x.now = .carrying ∨ t.seen x.now = .verified then
    (if t.st = .darked then id else notify i 0) (setSt i .faulted 1 seq src (override i true (dropParts i (ledEnd i x.now false x))))
  else x

/-- Change the thread of ingress port `i` in every slot that holds one. -/
def updPricked (i : Nat) (f : Thread → Thread) (x : Hoop) : Hoop :=
  { x with prk := { x.prk with slots := x.prk.slots.map (fun e =>
      (e.1, { e.2 with threads := e.2.threads.map (fun t => if t.1 = i then (t.1, f t.2) else t) })) } }

/-- Add what an open pricked thread has carried since it was last settled (R134, R385, R387): counted where its egress tap's latest verdict
passed and it has light, VERIFIED time where it is VERIFIED. -/
def prkPay (i at_ : Nat) (ok : Bool) (x : Hoop) : Hoop :=
  match x.prk.loaded with
  | none => x
  | some p => match smFind (smGet {} x.prk.slots p).threads i with
    | none => x
    | some t =>
      if at_ ≤ x.prk.occFrom then x
      else
        let e := x.egress t.outPort
        let counted := ok && !t.noLight && !t.await.contains e && (smFind t.bad e).isNone
        ledAdd i t.tenant true counted x.prk.occFrom at_ (if t.st = .verified then some t.vSince else none) x

/-- Close an eyelet because of a fault: the request, and DARKED for its thread, standing or pricked (R282). -/
def darkEyelet (i cause src : Nat) (x : Hoop) : Hoop :=
  let y := reqDark i (darkThread i cause 0 src x)
  if x.prk.lit.contains i then
    updPricked i (fun t => if t.st.live then { t with st := .darked } else t) ((fun z : Hoop => { z with prk := { z.prk with lit := z.prk.lit.filter (· != i) } }) (prkPay i y.now false y))
  else y

/-! ## Route map (R282) -/

/-- Threads whose routes the lattice holds as loaded: standing threads past their epoch, one that waits to be reopened with the route it had, and
those of the loaded slot. -/
def Hoop.loadedThreads (x : Hoop) : SMap Thread :=
  x.thr.filter (fun e => e.2.st.lit || e.2.st == .faulted || e.2.st == .darked || (e.2.st == .staged && !e.2.route.isEmpty)) ++
    (match x.prk.loaded with
     | some p => (smGet {} x.prk.slots p).threads
     | none => [])

/-- The map from the threads as loaded. -/
def buildMap (x : Hoop) : RMap :=
  x.loadedThreads.foldl (fun m e =>
    { stitch := (hopsOf x.part e.1 e.2.route).foldl (fun s k => smUpd [] s k.stitch (fun l => if l.contains e.1 then l else l ++ [e.1])) m.stitch
      out := smSet none m.out e.2.outPort (some e.1) }) {}

/-- Ingress ports that an S2 detail names (R282). -/
def resolve (x : Hoop) (src det : Nat) : List Nat :=
  if src = 196 then (if det < x.n then [det] else [])
  else if det < x.nS then smGet [] x.rmap.stitch det
  else if det < x.nS + x.n then [det - x.nS]
  else if det < x.nS + 2 * x.n then (match smGet none x.rmap.out (det - x.nS - x.n) with | some i => [i] | none => [])
  else []

end Sys2Proof.Machine
end

