-- ==== Sys2Proof/Machine/Faults.lean ====
section
/-!
DEFINITION. The fault collector (R276 to R285), the dark keeper's force (R289), the DARK_N conditions (R286), roles
(R307), and `settle`: the reactions that reach across the hoops (R283, R312, R314, R402).
-/

namespace Sys2Proof.Machine

/-- Severity of a source (R276); reserved sources have none and never assert. -/
def sevOf (s : Nat) : Option Nat :=
  if [6, 8, 115, 129, 138, 223].contains s then some 4
  else if [0, 1, 2, 3, 4, 5, 7, 10, 11, 13, 15, 16, 18, 21, 22, 23, 25, 26, 34, 37, 108, 128, 137, 160, 161, 162].contains s then some 3
  else if [32, 33, 36, 112, 113, 114, 196].contains s then some 2
  else if [9, 12, 14, 17, 19, 20, 24, 35, 38, 106, 107, 109, 110, 111, 130, 131, 132, 133, 134, 136, 139, 140, 163, 164, 165, 192, 193,
      194, 195, 197, 198].contains s || (64 ≤ s && s ≤ 105) then some 1
  else if [135, 199, 200].contains s then some 0
  else none

/-- A source that the part has: one with a severity, and of sources 64 to 105 those of its own groups (R4, R276). -/
def Hoop.hasSrc (x : Hoop) (s : Nat) : Bool := (sevOf s).isSome && !(decide (64 ≤ s ∧ s ≤ 105) && decide (Config.groups x.part ≤ s - 64))

/-- A source. -/
def Hoop.src (x : Hoop) (s : Nat) : Src := smGet {} x.fc.src s

def Hoop.setSrc (x : Hoop) (s : Nat) (v : Src) : Hoop := { x with fc := { x.fc with src := smSet {} x.fc.src s v } }

/-- Live sources of a severity. -/
def Hoop.liveSev (x : Hoop) (sev : Nat) : List Nat := (x.fc.src.filter (fun e => e.2.live && sevOf e.1 == some sev)).map (·.1)

/-- The S3 or S4 reaction line is asserted (R281). -/
def Hoop.lineOn (x : Hoop) : Bool := !(x.liveSev 3).isEmpty || !(x.liveSev 4).isEmpty

/-- A STICKY bit of at least this severity is set. -/
def Hoop.stickyFrom (x : Hoop) (sev : Nat) : Bool :=
  x.fc.src.any (fun e => e.2.sticky && (match sevOf e.1 with | some v => decide (sev ≤ v) | none => false))

/-- Layout of FC_FIRST (R303). -/
def fcWord (s sev : Nat) (wire : Bool) : Word := BitVec.ofNat 32 (s + sev * 256 + (if wire then 2048 else 0) + 2 ^ 31)

/-- FC_FIRST takes a source: it holds none, or one of the same sample of a lower severity, or of the same severity and a higher number (R279). -/
def firstTakes (s sev : Nat) (x : Hoop) : Bool :=
  let f := x.fc.first.toNat
  !x.fc.first.getLsbD 31 || (x.fc.firstAt == x.now && (decide (f / 256 % 8 < sev) || (f / 256 % 8 == sev && decide (s < f % 256))))

/-- Capture a new fault in FC_FIRST and FC_LAST (R279). -/
def capture (s sev : Nat) (wire : Bool) (x : Hoop) : Hoop :=
  let w := fcWord s sev wire
  let x := { x with fc := { x.fc with last := w, lastTime := x.stamp, newCnt := x.fc.newCnt + 1 } }
  if firstTakes s sev x then { x with fc := { x.fc with first := w, firstTime := x.stamp, firstAt := x.now, firstNew := true } } else x

/-- Event 455 once the sample's capture is decided. -/
def tellFirst (x : Hoop) : Hoop :=
  if x.fc.firstNew then raiseEv 455 [x.fc.first.toNat, x.fc.firstTime.toNat] .hoop { x with fc := { x.fc with firstNew := false } } else x

/-- The journal record of a new fault, at most 16 per source per second (R278, R293). `extra` is what the
record names besides: a failing channel (R108), the threads and instants of a failing check (R170). -/
def faultRecord (s sev : Nat) (wire : Bool) (extra : List Nat) (x : Hoop) : Hoop :=
  let v := x.src s
  let sec := x.now / 1000000000
  let num := if v.jsec = sec then v.jnum else 0
  if 16 ≤ num then x
  else jnlPut 1 sev s wire (words ([v.det.toNat, v.cnt, x.fc.first.toNat] ++ extra)) (x.setSrc s { v with jsec := sec, jnum := num + 1 })

/-- What the severity does inside the hoop at once (R280, R282, R285, R155, R360): FAULT_N, vector 32, darks, the stop
request, which an uncorrectable word and a stack error do not make, since they stop Tambour themselves and only when the word is fetched (R147), and the mark on the commands that are read and not yet checked. -/
def react (s det sev : Nat) (x : Hoop) : Hoop :=
  let x := if 2 ≤ sev then msixSend 32 { x with fc := { x.fc with hold := true, pulse := true, pulseEnd := x.now + 10000 } } else x
  let x := if sev = 2 then (resolve x s det).foldl (fun y i => darkEyelet i 2 s y) x else x
  if 3 ≤ sev then
    { x with
      dk := { x.dk with relAccepted := false }
      tmb := { x.tmb with stopReq := if s != 21 && s != 22 && x.tmb.stopReq.isNone && x.tmb.st != .halted && x.tmb.st != .stopped && x.tmb.st != .notStarted then some s else x.tmb.stopReq }
      mbx := { x.mbx with rings := x.mbx.rings.map (fun e => (e.1, { e.2 with read := e.2.read.map (fun c => { c with aborted := true }) })) } }
  else x

/-- A source asserts, or changes its detail while live (R278). A repeat of a live source with the same detail is no new
fault; a source without a severity, or of a group that the part does not have, never asserts. -/
def faultOn (s det : Nat) (wire : Bool) (extra : List Nat) (x : Hoop) : Hoop :=
  match sevOf s with
  | none => x
  | some sev =>
    let v := x.src s
    if !x.hasSrc s || (v.live && v.det == BitVec.ofNat 13 det) then x
    else
      let x := x.setSrc s { v with
        live := true, sticky := true, wire := v.wire || wire, cnt := min (v.cnt + 1) 65535, det := BitVec.ofNat 13 det,
        time := x.stamp, since := if v.live then v.since else x.now }
      let x := pmcRaw (226 + sev) 1 (capture s sev wire x)
      let x := raiseEv (448 + sev) [s, det % 8192, x.stamp.toNat] .hoop x
      let x := if wire then raiseEv 453 [s] .hoop x else x
      react s (det % 8192) sev (faultRecord s sev wire extra x)

/-- A source asserts with a detail. -/
def fault (s det : Nat) (x : Hoop) : Hoop := faultOn s det false [] x

/-- Detail of a source that names nothing. -/
def noDet : Nat := 0x1FFF

/-- A source's condition ends (R278, R293); it stays asserted for as long as its rails agree (R277). -/
def faultOff (s : Nat) (x : Hoop) : Hoop :=
  let v := x.src s
  if v.live && !v.agree then
    raiseEv 454 [s] .hoop (jnlPut 2 ((sevOf s).getD 0xFF) s v.wire (words [v.det.toNat, x.now - v.since])
      (x.setSrc s { v with live := false }))
  else x

/-! ## Module dark -/

/-- A pricked thread that is live goes DARKED. -/
def darkPricked (x : Hoop) : Hoop :=
  { x with prk := { x.prk with lit := [], slots := x.prk.slots.map (fun e =>
      (e.1, { e.2 with threads := e.2.threads.map (fun t => (t.1, if t.2.st.live then { t.2 with st := .darked } else t.2)) })) } }

/-- The keeper forces this needle (R162). -/
def Hoop.forced (x : Hoop) (e : Nat) : Bool := x.dk.force && decide (x.nS ≤ e)

/-- REG and the dither term before the clamp (R163). The term is 0 while the element is IDLE or DARK (R176). -/
def Hoop.rawCode (x : Hoop) (e : Nat) : Int :=
  let v := x.needle e
  (v.reg.toNat : Int) + (if (x.elem e).st = .idle ∨ (x.elem e).st = .eyDark then 0 else v.dither)

/-- The code that a needle's core converts now (R161 to R163): the keeper's while it forces, else REG and dither, clamped. -/
def Hoop.coreCode (x : Hoop) (e : Nat) : NCode :=
  if x.forced e then smGet 0 x.dk.codes (e - x.nS) else BitVec.ofNat 14 (clampI (x.rawCode e) 0 16383).toNat

/-- Tiles with eyelets. -/
def eyeTiles (x : Hoop) : List Nat := (List.range (Config.tiles x.part)).filter (fun t => decide (x.nS ≤ 32 * t + 31))

/-- The keeper's force (R162, R165): the eyelet cores take its codes past the slew limiter, and the eyelet tiles' stages stay enabled, in a window
that lasts as long as the force. -/
def forceNeedles (x : Hoop) : Hoop :=
  let jumps := (List.range x.n).filter (fun i =>
    (clampI (x.rawCode (x.eyelet i)) 0 16383).toNat / 512 != (smGet 0 x.dk.codes i).toNat / 512)
  let y := jumps.foldl (fun y i => y.updNeedle (y.eyelet i) (fun v => { v with track := true })) x
  { y with drv := { y.drv with
      dglCnt := y.drv.dglCnt + BitVec.ofNat 32 jumps.length
      tiles := (eyeTiles y).foldl (fun m t => smUpd {} m t (fun v => { v with win := some .drive, winStart := y.now, driven := true })) y.drv.tiles } }

/-- Engage the keeper's force (R289): the cause, its severity, whether the other hoop's cross line asked for it. Every thread
that is not DARKED or FAULTED goes DARKED. -/
def engage (cause sev : Nat) (remote : Bool) (x : Hoop) : Hoop :=
  if x.dk.force then x
  else
    let live := (x.thr.filter (fun e => e.2.st.live)).map (·.1)
    let w : Word := BitVec.ofNat 32 (cause + sev * 256)
    let x := { x with
      dk := { x.dk with force := true, cause := w, time := x.stamp, count := satInc x.dk.count, remote := remote,
                        confirmed := false, confirmed1 := [], relAccepted := false }
      fc := { x.fc with dark := true } }
    let x := live.foldl (fun y i => darkThread i 5 0 cause y) (ledFlag 4 (forceNeedles x))
    let x := jnlPut 7 0xFF cause false (words [w.toNat, live.length, if remote then 1 else 0]) (darkPricked x)
    raiseEv 456 [w.toNat] .hoop (msixSend 33 x)

/-! ## Roles and tokens -/

/-- Encoding of a role (R306). -/
def Role.code : Role → Nat
  | .offline => 0
  | .active => 1
  | .standby => 2
  | .monitor => 3
  | .resync => 4

/-- Change a hoop's role, with event 544; a hoop that leaves service loses its token only where the caller says so. -/
def setRole (r : Role) (cause : Nat) (x : Hoop) : Hoop :=
  if x.pair.role = r then x
  else raiseEv 544 [if x.isB then 1 else 0, x.pair.role.code, r.code, cause] .hoop { x with pair := { x.pair with role := r } }

/-- An eyelet element is in the hoop's output fault map. -/
def Hoop.ofmEyelet (x : Hoop) : Bool := x.pair.ofm.any (fun e => decide (x.nS ≤ e))

/-- Eligible for a fault-driven hand-over (R320). -/
def Hoop.eligFault (x : Hoop) : Bool :=
  x.pair.role == .standby && !x.lineOn && x.pair.catchup.isEmpty && !x.ofmEyelet

/-- Eligible for a planned one (R320). -/
def eligPlanned (x peer : Hoop) : Bool := x.eligFault && x.pair.ofm.isEmpty && !x.pair.proving && !peer.pair.proving

/-- The first condition of R286 that fails in this hoop, 0 where all hold. -/
def vouchFail (x : Hoop) : Nat :=
  if !x.boot.fwRun || x.tmb.st == .stopped || x.tmb.st == .halted then 1
  else if !x.slice.headerOk then 2
  else if !(x.drv.nFirstDone && x.drv.hFirstDone) then 3
  else if !x.dk.armed then 4
  else if x.dk.force || x.lineOn then 5
  else if !x.dk.confirmed then 6
  else 0

/-- This hoop may close its DARK_N switch (R286, R312). -/
def vouches (x : Hoop) : Bool :=
  vouchFail x == 0 && !x.boot.por && (!Config.duplex x.part || x.pair.role == .active || x.eligFault)

/-! ## Reactions across the hoops -/

/-- Hoops of the module, in order. -/
def State.hoops (s : State) : List HoopId := if Config.duplex s.a.part then [.hoopA, .hoopB] else [.hoopA]

/-- The token holder. -/
def State.holder (s : State) : Option HoopId := s.hoops.find? (fun h => (s.hoop h).pair.role == .active)

/-- Change the module's shared part. -/
def State.setDuo (s : State) (d : Duo) : State := { s with duo := d }

/-- The S4 source that asserts a hoop's cross line; a parity error is of S4 though the collector does not hold it as live (R276, R284). -/
def Hoop.crossLine (x : Hoop) : Option Nat := if x.dk.fcPar then some 223 else (x.liveSev 4).head?

/-- S4 lines and the cross line (R280, R283): every hoop's keeper forces. -/
def settleS4 (s : State) : State :=
  match s.hoops.filterMap (fun h => (s.hoop h).crossLine) with
  | [] => s
  | c :: _ => s.hoops.foldl (fun s h => s.upd h (fun x =>
      match x.crossLine with
      | some k => engage k 4 false x
      | none => engage c 4 true x)) s

/-- Tiles with a window open, whose stages go to high impedance at recognition (R324). -/
def openTiles (x : Hoop) : List Nat := (x.drv.tiles.filter (fun e => e.2.win.isSome)).map (·.1)

/-- Every stage goes to high impedance, and with it every window that is open is cut. -/
def cutWindows (x : Hoop) : Hoop :=
  { x with drv := { x.drv with outEn := false, tiles := x.drv.tiles.map (fun e => (e.1, if e.2.win.isSome then { e.2 with win := none } else e.2)) } }

/-- Abandon a hand-over that is under way, with event 546 in both hoops; the holder's stages are enabled again. -/
def abandonHo (cause : Nat) (s : State) : State :=
  if s.duo.ho.isNone then s
  else
    let s := s.hoops.foldl (fun s h => s.upd h (fun x => raiseEv 546 [cause] .hoop
      { x with pair := { x.pair with post := none }, drv := { x.drv with outEn := x.pair.token } })) s
    s.setDuo { s.duo with ho := none, ack := false }

/-- A fault of S3 or S4 in either hoop before B abandons a planned hand-over (R325); a fault-driven one ends where its standby is no longer
eligible, and the module darks (R320). -/
def settleHo (s : State) : State :=
  match s.duo.ho with
  | some o =>
    if o.kind = 0 ∧ (s.a.lineOn || s.b.lineOn) then abandonHo 3 s
    else if o.kind = 1 ∧ !(if o.fromB then s.a.eligFault else s.b.eligFault) then abandonHo 4 s
    else s
  | none => s

/-- A live S3 or S4 in any hoop abandons an accepted dark release (R291). -/
def settleRel (s : State) : State :=
  if s.hoops.any (fun h => (s.hoop h).lineOn) then
    s.hoops.foldl (fun s h => s.upd h (fun x => { x with dk := { x.dk with relAccepted := false } })) s
  else s

/-- S3 in one hoop (R283, R289, R307): module dark in a single-hoop part; in the QN-0512D a hand-over from the holder, or the
end of service of a hoop that does not hold the token. -/
def settleS3 (s : State) (h : HoopId) : State :=
  let x := s.hoop h
  match (x.liveSev 3).head? with
  | none => s
  | some c =>
    if !Config.duplex s.a.part then s.upd h (engage c 3 false)
    else if x.pair.role = .standby ∨ x.pair.role = .resync then s.upd h (setRole .monitor c)
    else if x.pair.role = .active ∧ !x.dk.force then
      if s.duo.ho.isSome then s
      else if (s.hoop (other h)).eligFault then
        let o : HandOver := { kind := 1, fromB := x.isB, cause := BitVec.ofNat 16 c, request := x.now, element := 0x1FFF, cutTiles := openTiles x }
        (s.upd h cutWindows).setDuo { s.duo with ho := some o }
      else s.hoops.foldl (fun s k => s.upd k (fun y => engage c 3 (y.isB != x.isB) y)) s
    else s

/-- A hoop in RESYNC with an S4 of its own, or whose peer is no longer ACTIVE, goes to MONITOR; a hoop of the QN-0512D with a
HALTED Tambour goes OFFLINE, unless it is the holder of a hand-over under way (R307). -/
def settleRole (s : State) (h : HoopId) : State :=
  if !Config.duplex s.a.part then s
  else
    let x := s.hoop h
    let s := if x.pair.role = .resync ∧ (!(x.liveSev 4).isEmpty ∨ (s.hoop (other h)).pair.role ≠ .active) then s.upd h (setRole .monitor 0xFFFF) else s
    if x.tmb.st = .halted ∧ !(x.pair.role = .active ∧ s.duo.ho.isSome) then
      s.upd h (fun y => setRole .offline 21 { y with pair := { y.pair with token := false } })
    else s

/-- Intake digests on the pair link (R314), frames without a route (R402). -/
def settleLink (s : State) (h : HoopId) : State :=
  if !Config.duplex s.a.part then s
  else
    let x := s.hoop h
    let p := other h
    let s := s.upd p (fun y => if y.pair.role = .standby ∨ y.pair.role = .resync then { y with pair := { y.pair with awaiting := y.pair.awaiting ++ x.pair.sent } } else y)
    let s := x.wlm.handOff.foldl (fun s b => s.upd p (fun y => match y.routeTo (frDst b) with
      | some k => sendFrame k (frType b == 0xB) b y
      | none => pmcRaw 218 1 { y with wlm := { y.wlm with noRoute := satInc y.wlm.noRoute } })) s
    s.upd h (fun y => { y with pair := { y.pair with sent := [] }, wlm := { y.wlm with handOff := [] } })

/-- This hoop's DARK_N switch follows R286 and R312, with event 458. -/
def settleVouch (x : Hoop) : Hoop :=
  let v := vouches x
  if v = x.dk.vouch then x
  else raiseEv 458 [if v then 1 else 0, vouchFail x] .hoop { x with dk := { x.dk with vouch := v } }

/-- VER_BOOT.STAGE (R457). -/
def Stage.code : Stage → Nat
  | .loader => 0
  | .held => 1
  | .fwStart => 2
  | .memory => 3
  | .lattice => 4
  | .wait => 5
  | .opened => 6

/-- Enter a stage of start-up, with event 559 (R449). -/
def setStage (st : Stage) (x : Hoop) : Hoop :=
  raiseEv 559 [st.code, x.uptimeMs] .hoop { x with boot := { x.boot with stage := st } }

/-- Step 10 of R449 is complete once every eyelet is confirmed dark after the first writes. -/
def settleStage (x : Hoop) : Hoop :=
  if x.boot.stage = .lattice ∧ x.drv.nFirstDone ∧ x.drv.hFirstDone ∧ x.dk.confirmed ∧ x.boot.tecEnabledAt.isSome then setStage .wait x else x

/-- Pins of the module (R285, R287, R310). -/
def settlePins (s : State) : State :=
  { s with balls := { s.balls with
      darkN := s.hoops.any (fun h => (s.hoop h).dk.vouch)
      faultN := !s.hoops.any (fun h => (s.hoop h).fc.pulse || (s.hoop h).fc.hold || (s.hoop h).dk.fcPar)
      hoopActA := s.a.pair.token && s.duo.grace.isNone
      hoopActB := Config.duplex s.a.part && s.b.pair.token && s.duo.grace.isNone
      calSel := if Config.duplex s.a.part && s.b.pair.token then s.b.mon.calSel else s.a.mon.calSel } }

/-- Everything that follows a change within the hoops. -/
def settle (s : State) : State :=
  let s := settleHo (settleRel (settleS4 s))
  let s := s.hoops.foldl settleS3 s
  let s := s.hoops.foldl settleRole s
  let s := s.hoops.foldl settleLink s
  let s := s.hoops.foldl (fun s h => s.upd h (fun x => pmcTell (settleStage (settleVouch (tellFirst x))))) s
  settlePins s

/-- A command's effect on one hoop, and what follows from it. -/
def State.act (s : State) (h : HoopId) (f : Hoop → Hoop) : State := settle (s.upd h f)

end Sys2Proof.Machine
end

