-- ==== Sys2Proof/Machine/Sha.lean ====
section
/-!
DEFINITION. HMAC-SHA-256, which authenticates remote commands (R381).
-/

namespace Sys2Proof.Machine

/-- The 64 round constants. -/
def shaK : List Word :=
  [0x428a2f98, 0x71374491, 0xb5c0fbcf, 0xe9b5dba5, 0x3956c25b, 0x59f111f1, 0x923f82a4, 0xab1c5ed5]
    ++ [0xd807aa98, 0x12835b01, 0x243185be, 0x550c7dc3, 0x72be5d74, 0x80deb1fe, 0x9bdc06a7, 0xc19bf174]
    ++ [0xe49b69c1, 0xefbe4786, 0x0fc19dc6, 0x240ca1cc, 0x2de92c6f, 0x4a7484aa, 0x5cb0a9dc, 0x76f988da]
    ++ [0x983e5152, 0xa831c66d, 0xb00327c8, 0xbf597fc7, 0xc6e00bf3, 0xd5a79147, 0x06ca6351, 0x14292967]
    ++ [0x27b70a85, 0x2e1b2138, 0x4d2c6dfc, 0x53380d13, 0x650a7354, 0x766a0abb, 0x81c2c92e, 0x92722c85]
    ++ [0xa2bfe8a1, 0xa81a664b, 0xc24b8b70, 0xc76c51a3, 0xd192e819, 0xd6990624, 0xf40e3585, 0x106aa070]
    ++ [0x19a4c116, 0x1e376c08, 0x2748774c, 0x34b0bcb5, 0x391c0cb3, 0x4ed8aa4a, 0x5b9cca4f, 0x682e6ff3]
    ++ [0x748f82ee, 0x78a5636f, 0x84c87814, 0x8cc70208, 0x90befffa, 0xa4506ceb, 0xbef9a3f7, 0xc67178f2]

/-- The eight words of the hash. -/
structure Sha where
  a : Word
  b : Word
  c : Word
  d : Word
  e : Word
  f : Word
  g : Word
  h : Word
deriving DecidableEq, Repr

def shaInit : Sha :=
  { a := 0x6a09e667, b := 0xbb67ae85, c := 0x3c6ef372, d := 0xa54ff53a, e := 0x510e527f, f := 0x9b05688c, g := 0x1f83d9ab, h := 0x5be0cd19 }

/-- The number that bytes spell, the most significant first. -/
def beNat (bs : Bytes) : Nat := bs.foldl (fun n b => n * 256 + b.toNat) 0

/-- `n` bytes of a number, the most significant first. -/
def beBytes (n v : Nat) : Bytes := (leBytes n v).reverse

/-- Words of a block. -/
def shaWords : Nat → Bytes → List Word
  | 0, _ => []
  | n + 1, bs => BitVec.ofNat 32 (beNat (bs.take 4)) :: shaWords n (bs.drop 4)

/-- Extend the schedule by `n` words. The newest word stands first. -/
def shaExtend : Nat → List Word → List Word
  | 0, w => w
  | n + 1, w =>
    let x := w.getD 14 0
    let y := w.getD 1 0
    let s0 := x.rotateRight 7 ^^^ x.rotateRight 18 ^^^ (x >>> 3)
    let s1 := y.rotateRight 17 ^^^ y.rotateRight 19 ^^^ (y >>> 10)
    shaExtend n ((w.getD 15 0 + s0 + w.getD 6 0 + s1) :: w)

/-- One round with its constant and its word of the schedule. -/
def shaRound (q : Sha) (kw : Word × Word) : Sha :=
  let s1 := q.e.rotateRight 6 ^^^ q.e.rotateRight 11 ^^^ q.e.rotateRight 25
  let ch := (q.e &&& q.f) ^^^ (~~~q.e &&& q.g)
  let t1 := q.h + s1 + ch + kw.1 + kw.2
  let s0 := q.a.rotateRight 2 ^^^ q.a.rotateRight 13 ^^^ q.a.rotateRight 22
  let maj := (q.a &&& q.b) ^^^ (q.a &&& q.c) ^^^ (q.b &&& q.c)
  { a := t1 + (s0 + maj), b := q.a, c := q.b, d := q.c, e := q.d + t1, f := q.e, g := q.f, h := q.g }

/-- One block of 64 bytes. -/
def shaBlock (q : Sha) (blk : Bytes) : Sha :=
  let r := (shaK.zip (shaExtend 48 (shaWords 16 blk).reverse).reverse).foldl shaRound q
  { a := q.a + r.a, b := q.b + r.b, c := q.c + r.c, d := q.d + r.d, e := q.e + r.e, f := q.f + r.f, g := q.g + r.g, h := q.h + r.h }

/-- Blocks in order. -/
def shaBlocks : Nat → Sha → Bytes → Sha
  | 0, q, _ => q
  | n + 1, q, bs => shaBlocks n (shaBlock q (bs.take 64)) (bs.drop 64)

/-- SHA-256 of bytes. -/
def sha256 (m : Bytes) : Bytes :=
  let p := m ++ [0x80] ++ List.replicate ((119 - m.length % 64) % 64) 0 ++ beBytes 8 (8 * m.length)
  let q := shaBlocks (p.length / 64) shaInit p
  ([q.a, q.b, q.c, q.d, q.e, q.f, q.g, q.h].map (fun w => beBytes 4 w.toNat)).flatten

/-- HMAC-SHA-256 with a key of at most 64 bytes, cut to its first 16 bytes. -/
def mac16 (key m : Bytes) : Bytes :=
  let k := padTo 64 key
  (sha256 (k.map (· ^^^ 0x5C) ++ sha256 (k.map (· ^^^ 0x36) ++ m))).take 16

end Sys2Proof.Machine
end

