-- ==== Sys2Proof/Machine/Intake.lean ====
section
/-!
DEFINITION. Intake: reading and metering posted commands (R346 to R348, R354, R365), arbitration, completions (R357,
R358), digests (R314), and the frame every Selda command is served in (R86 checks 1 to 4, R360).
-/

namespace Sys2Proof.Machine

/-! ## Meter (R365) -/

/-- Colour of a command and the ring with its tokens spent and its colour counted. -/
def meter (g : Ring) (cost : Nat) : Colour × Ring :=
  if cost ≤ g.tc then (.green, { g with tc := g.tc - cost, green := g.green + 1 })
  else if cost ≤ g.te then (.yellow, { g with te := g.te - cost, yellow := g.yellow + 1 })
  else (.red, { g with red := g.red + 1 })

/-! ## Reading (R346, R347, R354) -/

/-- Drop the first `k` slots from what is posted; remote commands between them stay. -/
def dropSlots : Nat → List Posted → List Posted
  | 0, ps => ps
  | _ + 1, [] => []
  | k + 1, p :: ps => if p.remote.isSome then p :: dropSlots (k + 1) ps else dropSlots k ps

/-- The slots that are posted, in order. -/
def postedSlots (g : Ring) : List Posted := g.posted.filter (fun p => p.remote.isNone)

/-- A completion entry is free for one more command to be read (R347); head equal to tail means empty (assumption 10). -/
def cplRoom (g : Ring) : Bool := decide (g.cplUsed + g.read.length < g.slots - 1)

/-- The ring may read its next command now: enabled, the endpoint in D0 (R455), at most 64 commands ahead of the oldest one not
completed (R366), and room for its completion. -/
def canRead (x : Hoop) (g : Ring) : Bool := g.en && !x.pwr.d3 && decide (g.read.length ≤ 64) && cplRoom g

/-- Put a command among those read: its form check's status, else its colour (R354, R366). Ring 0 is never metered; a standby
takes its colours from the holder. -/
def takeIn (r : Nat) (x : Hoop) (g : Ring) (b : Bytes) (slot : Nat) (rm : Option Remote) (form : Option Nat) : Hoop :=
  let (col, g') := if form.isSome || r == 0 || x.pair.role == .standby then (Colour.unmetered, g) else meter g (cmdCost b)
  let st := match form with
    | some s => some s
    | none => if col = .red then some 7 else none
  pmcRaw (64 + r) 1 (x.setRing r { g' with read := g'.read ++ [{ bytes := b, slot := slot, colour := col, refusal := st, remote := rm }] })

/-- Read the next posted command of a ring, or none where it may not read or nothing is posted. -/
def readOne (r : Nat) (x : Hoop) : Option Hoop :=
  let g := x.ring r
  match g.posted with
  | [] => none
  | p :: ps =>
    if !canRead x g then none
    else
      let h := hdrOf p.bytes
      match p.remote with
      | some _ =>
        some (takeIn r x { g with posted := ps } p.bytes p.slot p.remote
          (formCheck h g.versions (h.len * 16 != p.bytes.length)))
      | none =>
        let locals := postedSlots g
        let k := max 1 (chainLen h.len)
        let cut := decide (locals.length < chainLen h.len) || decide (g.slots < p.slot + chainLen h.len)
        let form := formCheck h g.versions cut
        let n := if form = some 3 then locals.length else min k locals.length
        let b := ((locals.take n).map (·.bytes)).flatten
        some (takeIn r x { g with posted := dropSlots n g.posted, cmdHead := (p.slot + n) % g.slots }
          (b.take (if form.isSome then 64 else h.len * 16)) p.slot none form)

/-! ## Runs of BATCH parts (R356) -/

/-- A part that fails discards the held run; another command between two parts discards it and leaves the mark that its next part is refused. -/
def Ring.cutRun (op : Nat) (g : Ring) : Ring :=
  { g with run := if op = 0x30 then none else g.run.map (fun q => { q with broken := true, entries := [] }) }

/-- A command that is no part of the ring's held run breaks it (R356). -/
def breakRun (r op : Nat) (x : Hoop) : Hoop := if op = 0x30 then x else x.updRing r (Ring.cutRun op)

/-! ## Completions -/

/-- What a served command answers (R358): the status, RESULT, and the epoch as PTP nanoseconds. -/
structure Ans where
  status : Nat
  result : Nat := 0
  epochNs : Option Nat := none
deriving DecidableEq, Repr

/-- The bytes that the intake digest covers (R314, R373, R383): ring and slot or COUNTER, then the command without its buffers' values. -/
def digestBytes (r : Nat) (c : ReadCmd) : Bytes :=
  let b := c.bytes
  leBytes 1 r ++ (match c.remote with | some rm => leBytes 8 rm.counter | none => leBytes 2 c.slot) ++
    (match (if (hdrOf b).version = 1 then none else tlvs (b.length / 4) (b.drop 16)) with
     | some ts => b.take 16 ++ (ts.map (fun e => leBytes 2 e.1 ++ leBytes 2 e.2.length ++ (if e.1 = 4 || e.1 = 5 then [] else e.2))).flatten
     | none => b)

/-- The role lets this hoop answer the command (R306, R316). -/
def answers (x : Hoop) (r : Nat) (c : ReadCmd) : Bool :=
  match x.pair.role with
  | .active => true
  | .standby => true
  | .monitor => r == 0 && (isDiag (hdrOf c.bytes).opcode || (hdrOf c.bytes).opcode == 0x53)
  | .resync => r == 0 && (isDiag (hdrOf c.bytes).opcode || (hdrOf c.bytes).opcode == 0x53)
  | .offline => false

/-- The 32 bytes of a completion (R357). -/
def cplBytes (c : Cpl) : Bytes :=
  leBytes 2 c.origin.toNat ++ leBytes 6 c.seq ++ [c.status] ++ leBytes 7 c.result.toNat ++ leBytes 2 c.tag.toNat ++ leBytes 4 c.stamp.toNat
    ++ leBytes 6 c.epochSec.toNat ++ leBytes 4 c.epochNs.toNat

/-- The envelope of a reply (R381, R383). -/
def replyEnvelope (r : Nat) (rm : Remote) (key : Bytes) (c : Cpl) : Bytes :=
  let b := leBytes 1 1 ++ leBytes 1 r ++ leBytes 2 rm.keyGen.toNat ++ leBytes 8 rm.counter ++ leBytes 4 0 ++ cplBytes c
  b ++ mac16 key b

/-- Answer a remote agent under the ring's key (R383). -/
def remoteReply (r : Nat) (rm : Option Remote) (c : Cpl) (x : Hoop) : Hoop :=
  match rm, (x.ring r).key with
  | some m, some key => { x with mbx := { x.mbx with udpTx := x.mbx.udpTx ++ [{ addr := m.addr, port := m.port, payload := replyEnvelope r m key c }] } }
  | _, _ => x

/-- SEQ that the next completion of the ring takes. -/
def Hoop.nextCplSeq (x : Hoop) (r : Nat) : Nat := nextSeq (x.ring r).cplSeq

/-- Note an accepted command for the load of R26. -/
def noteAccepted (status : Nat) (x : Hoop) : Hoop :=
  if status = 0 then { x with mbx := { x.mbx with accepted := (x.mbx.accepted.filter (fun a => decide (x.now < a + 1000000))) ++ [x.now] } } else x

/-- Complete the command at the front of the ring: the entry, the reply to a remote agent (R383), the digest for the
standby (R314). `hold` gives the holder's SEQ and stamp to a standby. A command that the role leaves unanswered only goes. -/
def completeFront (r : Nat) (a : Ans) (hold : Option (Nat × Stamp)) (x : Hoop) : Hoop :=
  let g := x.ring r
  match g.read with
  | [] => x
  | c :: rest =>
    let x := x.setRing r { g with read := rest }
    if !answers x r c then x
    else
      let h := hdrOf c.bytes
      let ep := a.epochNs.getD 0
      let stamp := match hold with | some q => q.2 | none => x.stamp
      let seq := match hold with | some q => q.1 | none => x.nextCplSeq r
      let x := match hold with
        | some q => x.updRing r (fun g => { g with cplSeq := if q.1 = 1 then 2 ^ 48 - 1 else q.1 - 1 })
        | none => x
      let mk : Nat → Bool → Cpl := fun s ph =>
        { origin := x.origin 1 r, seq := s, status := BitVec.ofNat 8 (a.status + if ph then 128 else 0),
          result := BitVec.ofNat 56 a.result, tag := h.tag, stamp := stamp,
          epochSec := BitVec.ofNat 48 (ep / 1000000000), epochNs := BitVec.ofNat 32 (ep % 1000000000) }
      let ph := (x.ring r).cplPhase
      let x := putCpl r mk x
      let x := noteAccepted a.status (if a.status = 0 then x else pmcRaw (80 + r) 1 x)
      let x := remoteReply r c.remote (mk seq ph) x
      if Config.duplex x.part && x.pair.role == .active then
        { x with pair := { x.pair with sent := x.pair.sent ++
          [{ crc := crc64 (digestBytes r c), ring := r, status := a.status, epochSec := BitVec.ofNat 48 (ep / 1000000000),
             epochNs := BitVec.ofNat 32 (ep % 1000000000), seq := seq, stamp := stamp, sentAt := x.now }] } }
      else x

/-- Read all that may be read, and complete what was refused once it stands at the front (R348). A standby completes nothing
before the holder's digest. -/
def pump : Nat → Nat → Hoop → Hoop
  | 0, _, x => x
  | fuel + 1, r, x =>
    match readOne r x with
    | some y => pump fuel r y
    | none =>
      match (x.ring r).read with
      | [] => x
      | c :: _ =>
        if !answers x r c then pump fuel r (completeFront r { status := 0 } none x)
        else if x.pair.role = .standby then x
        else match c.refusal with
          | some st => pump fuel r (completeFront r { status := st } none (x.updRing r (Ring.cutRun (hdrOf c.bytes).opcode)))
          | none => x

/-- Pump a ring until nothing more moves, and note whether reading is held (R351). -/
def pumpRing (r : Nat) (x : Hoop) : Hoop :=
  let g := x.ring r
  let y := pump (2 * (g.posted.length + g.read.length) + 1) r x
  y.updRing r (fun g => { g with cplFull := g.en && !g.posted.isEmpty && !cplRoom g })

/-! ## Arbitration (R348) -/

/-- The ring's head command waits with this colour. -/
def headIs (x : Hoop) (r : Nat) (col : Colour) : Bool :=
  match (x.ring r).read with
  | c :: _ => c.colour == col && c.refusal.isNone
  | [] => false

/-- Agent rings in round-robin order after the one served last. -/
def rrOrder (last : Nat) : List Nat := (List.range 15).map (fun k => (last + k) % 15 + 1)

/-- The ring served next. -/
def nextRing (x : Hoop) : Option Nat :=
  if headIs x 0 .unmetered then some 0
  else match (rrOrder x.mbx.rrGreen).find? (fun r => headIs x r .green || headIs x r .unmetered) with
    | some r => some r
    | none => (rrOrder x.mbx.rrYellow).find? (fun r => headIs x r .yellow)

/-- Note which ring was served. -/
def served (r : Nat) (c : ReadCmd) (x : Hoop) : Hoop :=
  if r = 0 then x
  else if c.colour = .yellow then { x with mbx := { x.mbx with rrYellow := r } }
  else { x with mbx := { x.mbx with rrGreen := r } }

/-! ## Serving -/

/-- What a command needs to know of its surroundings: its ring, itself, the SEQ its completion will take, the peer hoop. -/
structure Ctx where
  ring : Nat
  cmd : ReadCmd
  seq : Nat
  peer : Hoop

/-- How a command is served: check 3 on its own fields with the RESULT of a failure (R358), and its checks from 4 on with its effect. -/
structure Verb where
  check : Ctx → Hoop → Bool
  run : Ctx → Hoop → Ans × Hoop
  blame : Ctx → Hoop → Nat := fun _ _ => 0

/-- No check of its own beyond the common ones. -/
def anyForm : Ctx → Hoop → Bool := fun _ _ => true

/-- Commands that an agent ring may send (R363, R368). -/
def agentOp (op : Nat) : Bool := decide (op ≤ 0x0A) || op == 0x30

/-- Serve a command: checks 1 and 2 have passed; ABORTED_FAULT (R360), check 3, permission by check 4, then its own. -/
def answer (v : Verb) (k : Ctx) (x : Hoop) : Ans × Hoop :=
  let op := (hdrOf k.cmd.bytes).opcode
  let x := breakRun k.ring op x
  if k.cmd.aborted then ({ status := 15 }, x.updRing k.ring (Ring.cutRun op))
  else if !fieldsOk x k.ring k.cmd.bytes then ({ status := 4 }, x.updRing k.ring (Ring.cutRun op))
  else if !v.check k x then ({ status := 4, result := v.blame k x }, x.updRing k.ring (Ring.cutRun op))
  else if (k.ring != 0 && !agentOp op) || (op == 0x23 && k.cmd.remote.isSome) then ({ status := 6 }, x)
  else v.run k x

/-- Serve the front command of a ring where it is this operation and the ring's turn; otherwise nothing. The standby serves in
the order of the holder's digests instead (R314). -/
def serveFront (peer : Hoop) (r op : Nat) (v : Verb) (x : Hoop) : Hoop :=
  match (x.ring r).read with
  | [] => x
  | c :: _ =>
    if (hdrOf c.bytes).opcode = op ∧ nextRing x = some r ∧ x.pair.role ≠ .standby ∧ answers x r c then
      let q := answer v { ring := r, cmd := c, seq := x.nextCplSeq r, peer := peer } x
      pumpRing r (completeFront r q.1 none (served r c q.2))
    else x

/-- A Selda row: serve the front command of ring `r` of hoop `h`. -/
def State.serve (s : State) (h : HoopId) (r op : Nat) (v : Verb) : State :=
  if r < 16 then s.act h (serveFront (s.hoop (other h)) r op v) else s

/-- A command's parameter field of `n` bytes at `off`. -/
def Ctx.par (k : Ctx) (off n : Nat) : Nat := field (paramOf k.cmd.bytes) off n

/-- A TLV of the command. -/
def Ctx.tlv (k : Ctx) (t : Nat) : Option Bytes :=
  match bodyOf k.cmd.bytes with
  | some b => tlvGet b.tl t
  | none => none

/-- The parameters that the last accepted command of this kind on the same subject carried; zeros where there was none. -/
def priorPar (k : Ctx) (x : Hoop) : Bytes :=
  let op := (hdrOf k.cmd.bytes).opcode
  match (x.settings.filter (fun e => e.1 == op && e.2.2.head? == (paramOf k.cmd.bytes).head?)).getLast? with
  | some e => e.2.2
  | none => []

/-- What an accepted admin change does besides its own effect (R369, R293): event 36 and journal record 0x0011 with the code,
the ring, 16 bytes of the previous and 16 of the new parameters (assumption 17). A key is never recorded (R382). `x` is the
state before the effect, `y` the state after it. -/
def adminOk (k : Ctx) (x y : Hoop) : Ans × Hoop :=
  let op := (hdrOf k.cmd.bytes).opcode
  let new := if op = 0x23 then (paramOf k.cmd.bytes).take 1 else paramOf k.cmd.bytes
  ({ status := 0 }, raiseEv 36 [op, k.ring] .hoop
    (jnlPut 0x11 0xFF 0xFFFF false (leBytes 2 op ++ leBytes 2 k.ring ++ padTo 16 (priorPar k x) ++ padTo 16 new) y))

/-- A setting that every boot applies again (R451): kept under its opcode and the thing it names. -/
def storeSetting (k : Ctx) (which : Nat) (x : Hoop) : Hoop :=
  let op := (hdrOf k.cmd.bytes).opcode
  { x with settings := x.settings.filter (fun e => !(e.1 == op && e.2.1 == which)) ++ [(op, which, paramOf k.cmd.bytes)] }

end Sys2Proof.Machine
end

