-- ==== Sys2Proof/Machine/Images.lean ====
section
/-!
DEFINITION. Compiled images: what a table of threads asks of each element (R33, R39, R54), pricking lists and the
images, transition deltas and catch-ups of their entries (R119 to R127), and where their boundaries lie (R121, R122).
-/

namespace Sys2Proof.Machine

/-- What an image asks of an element. -/
structure Want where
  st : ElSt
  band : Bool
  mixed : Bool
  code : NCode
deriving DecidableEq, Repr

/-- The users of a stitch among threads with their hops: the hop and the band of each. -/
def usersOf (hs : List (Nat × Thread × List Hop)) (e : Nat) : List (Hop × Bool) :=
  hs.filterMap (fun q => (q.2.2.find? (fun k => k.stitch == e)).map (fun k => (k, q.2.1.band)))

/-- Threads with the hops of their routes. -/
def withHops (p : Part) (t : SMap Thread) : List (Nat × Thread × List Hop) := t.map (fun e => (e.1, e.2, hopsOf p e.1 e.2.route))

/-- What threads ask of a stitch; one that no route passes is IDLE, parked at its BAR code (R33, R39, R54). -/
def wantStitch (x : Hoop) (hs : List (Nat × Thread × List Hop)) (e : Nat) : Want :=
  match usersOf hs e with
  | [] => { st := .idle, band := false, mixed := false, code := x.ncode e .idle false false }
  | (k, b) :: us =>
    let bands := b :: us.map (·.2)
    let mixed := bands.contains true && bands.contains false
    let band := bands.contains true
    let st := if k.cross then ElSt.cross else ElSt.bar
    { st := st, band := band, mixed := mixed, code := x.ncode e st band mixed }

/-- What an eyelet is asked for: open or dark in a band. -/
def wantEyelet (x : Hoop) (i : Nat) (opened band : Bool) : Want :=
  let st := if opened then ElSt.eyOpen else ElSt.eyDark
  { st := st, band := band, mixed := false, code := x.ncode (x.eyelet i) st band false }

/-- The band of an eyelet's DARK code: its thread's, or the last one it had (R288). -/
def Hoop.eyBand (x : Hoop) (i : Nat) : Bool :=
  match smFind x.thr i with
  | some t => t.band
  | none => (x.elem (x.eyelet i)).band

/-- The eyelet's DARK code. -/
def Hoop.darkCode (x : Hoop) (i : Nat) : NCode := (wantEyelet x i false (x.eyBand i)).code

/-- The eyelet is in the dark override (R128). -/
def Hoop.overridden (x : Hoop) (i : Nat) : Bool := x.prk.override.getLsbD i

/-- Elements take the states that the threads as loaded ask of them (R33, R38, R39). Their codes are those that commits, TILE_UPDATE and darks
write. -/
def refreshElems (es : List Nat) (x : Hoop) : Hoop :=
  let hs := withHops x.part x.loadedThreads
  es.foldl (fun y e =>
    if e < y.nS then
      let w := wantStitch y hs e
      y.updElem e (fun v => { v with st := w.st, band := w.band, mixed := w.mixed })
    else
      let i := e - y.nS
      let t := y.thread i
      y.updElem e (fun v => { v with st := if t.st.lit && !t.releasing && !y.overridden i then .eyOpen else .eyDark, band := y.eyBand i })) x

/-- MIXED of each standing thread follows the stitches of its route (R54). -/
def remix (x : Hoop) : Hoop :=
  { x with thr := x.thr.map (fun q => (q.1, { q.2 with mixed := (hopsOf x.part q.1 q.2.route).any (fun k => (x.elem k.stitch).mixed) })) }

/-! ## Pricking lists (R119, R121) -/

/-- A list store. -/
def Prk.store (p : Prk) (b : Bool) : SMap PEntry := if b then p.store1 else p.store0

/-- An entry that has not been written. -/
def emptyEntry : PEntry := { dwell := 0, index := 0, type := 0, rsv := 0 }

/-- Entry `i` of a store. -/
def Prk.entry (p : Prk) (b : Bool) (i : Nat) : PEntry := smGet emptyEntry (p.store b) i

/-- The dwells of a list. -/
def dwells (p : Prk) (b : Bool) (len : Nat) : List Nat := (List.range len).map (fun i => (p.entry b i).dwell.toNat)

/-- A pattern slot. -/
def Prk.slot (p : Prk) (k : Nat) : Slot := smGet {} p.slots k

/-- The PATTERN slots that a list names. -/
def listSlots (p : Prk) (b : Bool) (len : Nat) : List Nat :=
  nub (((List.range len).filter (fun i => (p.entry b i).type == 0)).map (fun i => (p.entry b i).index.toNat))

/-- Slots that the active list or an armed shadow list names, PATTERN and MASK alike (R117, R118). -/
def Prk.referenced (p : Prk) : List Nat :=
  let of := fun (l : PList) => nub (((List.range l.len).filter (fun i => (p.entry l.store i).type != 1)).map (fun i => (p.entry l.store i).index.toNat))
  (match p.active with | some l => of l | none => []) ++ (match p.swap with | some l => of l | none => [])

/-- Ingress ports of the pricked threads of a list (R126). -/
def prickedPorts (p : Prk) (b : Bool) (len : Nat) : List Nat :=
  nub (((listSlots p b len).map (fun k => (p.slot k).threads.map (·.1))).flatten)

/-- Count of boundary k of a list. -/
def PList.boundary (l : PList) (k : Nat) : Nat := l.startAt + (k - l.startK) * l.cycle

/-- Offset of entry `i` in its cycle. -/
def entryOff (p : Prk) (b : Bool) (i : Nat) : Nat := (dwells p b i).sum

/-- The image of an entry: the elements it sets, each with what it asks (R116, R126, R127). A stitch that no route passes keeps
its code, and an overridden eyelet its DARK code (R128). -/
def entryImage (x : Hoop) (l : PList) (i : Nat) : List (Nat × Want) :=
  let p := x.prk
  let en := p.entry l.store i
  let ports := prickedPorts p l.store l.len
  let eye := fun (q : Nat) (opened band : Bool) => (x.eyelet q, wantEyelet x q (opened && !x.overridden q) band)
  if en.type = 0 then
    let ts := (p.slot en.index.toNat).threads
    let hs := withHops x.part (x.thr ++ ts)
    let sts := sortNat (((withHops x.part ts).map (fun q => q.2.2.map (·.stitch))).flatten)
    sts.map (fun e => (e, wantStitch x hs e)) ++
      ports.map (fun q => match smFind ts q with
        | some t => eye q (t.st != .faulted && t.st != .darked) t.band
        | none => eye q false (x.eyBand q))
  else if en.type = 1 then ports.map (fun q => eye q false (x.eyBand q))
  else ((List.range x.n).filter (fun q => (p.slot en.index.toNat).mask.getLsbD q)).map (fun q => eye q false (x.eyBand q))

/-- What entries `i`, `i - 1`, ... of a cyclic list last asked of an element. -/
def planned (images : List (List (Nat × Want))) (e : Nat) : Nat → Nat → Option Want
  | 0, _ => none
  | fuel + 1, i =>
    match (images.getD i []).find? (fun w => w.1 == e) with
    | some w => some w.2
    | none => planned images e fuel (if i = 0 then images.length - 1 else i - 1)

/-- Code and range of an element's compiled heater feed-forward (R83, R231): with its integrator where it keeps its band. -/
def hffOf (x : Hoop) (e : Nat) (band : Bool) : BitVec 12 × Bool :=
  heaterCode (smGet {} x.drv.heaters e).range
    (toLsb (x.feedForward e band + (if band = x.ffBand e then (x.loop e).i else 0)))

/-- The delta entry that a want makes. -/
def mkDelta (x : Hoop) (e : Nat) (w : Want) (moved : Bool) : DeltaEntry :=
  let h := hffOf x e (w.band || w.mixed)
  { elem := e, st := w.st, ncode := w.code, hff := h.1, hrange := h.2, band := w.band, mixed := w.mixed, moved := moved }

/-- Code of an element's STATE (R38). -/
def ElSt.code : ElSt → Nat
  | .idle => 0
  | .bar => 1
  | .cross => 2
  | .eyOpen => 3
  | .eyDark => 4

/-- The 8 bytes of a compiled delta entry (R83). -/
def deltaBytes (d : DeltaEntry) : Bytes :=
  leBytes 8 (d.elem + d.st.code * 2 ^ 13 + d.ncode.toNat * 2 ^ 16 + d.hff.toNat * 2 ^ 32 + bit d.hrange * 2 ^ 44 + bit d.band * 2 ^ 45
    + bit d.mixed * 2 ^ 46 + bit d.moved * 2 ^ 47)

/-- The images of a list's entries. -/
def listImages (x : Hoop) (l : PList) : List (List (Nat × Want)) := (List.range l.len).map (entryImage x l)

/-- The entry before entry `i`, cyclically. -/
def prevEntry (len i : Nat) : Nat := if i = 0 then len - 1 else i - 1

/-- From the image planned for entry `j` of one list to that planned for entry `i` of another: every element whose code differs. -/
def between (x : Hoop) (was : List (List (Nat × Want))) (j : Nat) (images : List (List (Nat × Want))) (i : Nat) : List DeltaEntry :=
  (sortNat ((images.map (fun m => m.map (·.1))).flatten)).filterMap (fun e => match planned images e images.length i with
    | some w => if (match planned was e was.length j with | some v => v.code | none => (x.needle e).reg) = w.code then none else some (mkDelta x e w false)
    | none => none)

/-- The transition delta of entry `i` (R125). -/
def transition (x : Hoop) (images : List (List (Nat × Want))) (i : Nat) : List DeltaEntry := between x images (prevEntry images.length i) images i

/-- The catch-up of entry `i` (R125): every element whose planned code differs from the one its register holds. -/
def catchUp (x : Hoop) (images : List (List (Nat × Want))) (i : Nat) : List DeltaEntry :=
  let es := sortNat ((images.map (fun m => m.map (·.1))).flatten)
  es.filterMap (fun e => match planned images e images.length i with
    | some w => if (x.needle e).reg = w.code then none else some (mkDelta x e w false)
    | none => none)

/-- A stage of `n` codes fits a dwell (R24, R125). -/
def stageFits (dwell n : Nat) : Bool := decide (1000 + n ≤ 2 * dwell)

/-- PATTERN entries whose preceding dwell cannot stage their transition delta: how many, and the first (R125). -/
def shortEntries (x : Hoop) (l : PList) : List Nat :=
  let im := listImages x l
  (List.range l.len).filter (fun i => (x.prk.entry l.store i).type == 0 &&
    !stageFits (x.prk.entry l.store (prevEntry l.len i)).dwell.toNat (transition x im i).length)

/-- The last boundary of a finite list. -/
def PList.final (l : PList) : Option Nat := if l.repeats = 0 then none else some (l.boundary l.repeats)

/-! ## The next entry (R121, R125, R131, R135) -/

/-- The recompiled threads of a slot that hold from a boundary reached by an instant. -/
def Slot.due (at_ : Nat) (s : Slot) : List Refit := s.pend.filter (fun r => decide (r.from_ ≤ at_ + 2))

/-- The threads of a slot once everything recompiled for it is in place. -/
def Slot.last (s : Slot) : SMap Thread := match s.pend.getLast? with | some r => r.threads | none => s.threads

/-- The slots with the recompiled threads of the boundaries reached by an instant in place (R131). -/
def installed (at_ : Nat) (x : Hoop) : Hoop :=
  { x with prk := { x.prk with slots := x.prk.slots.map (fun e => match (e.2.due at_).getLast? with
    | some r => (e.1, { e.2 with threads := r.threads, pend := e.2.pend.filter (fun r => decide (at_ + 2 < r.from_)), rot := [], first := none, firstCycle := 0, verified := false })
    | none => e) } }

/-- The slice of a pricking's images at an instant (R135): that before a rebuild until the second boundary after it. -/
def Hoop.imageSlice (x : Hoop) (at_ : Nat) : Slice :=
  match x.prkSlice.find? (fun q => decide (at_ + 2 < q.1)) with
  | some q => q.2
  | none => x.slice

/-- The slots that begin verification afresh at the boundaries reached by an instant (R124, R131, R133, R135). -/
def renewed (at_ : Nat) (x : Hoop) : List Nat :=
  let begins : Option PList → List Nat := fun l => match l with
    | some l => if l.startAt ≤ at_ + 2 then listSlots x.prk l.store l.len else []
    | none => []
  (if x.prkSlice.any (fun q => decide (q.1 ≤ at_ + 2)) then x.prk.referenced.filter (fun k => (x.prk.slot k).kind == .pattern)
    else (x.prk.slots.filter (fun e => !(e.2.due at_).isEmpty)).map (·.1)) ++
    (if x.prk.started then [] else begins x.prk.active) ++ begins x.prk.swap

/-- A port whose thread in a table is closed by a dark or by a failure. -/
def shutIn (t : SMap Thread) (i : Nat) : Bool := match smFind t i with | some v => v.st == .faulted || v.st == .darked | none => false

/-- Take the eyelets of slots out of the dark override, but for those that a standing thread or a thread of some slot keeps in it (R128). -/
def unoverride (ks : List Nat) (x : Hoop) : Hoop :=
  let free := ((ks.map (fun k => (x.prk.slot k).threads.map (·.1))).flatten).filter (fun i => !shutIn x.thr i && !x.prk.slots.any (fun e => shutIn e.2.threads i))
  free.foldl (fun y i => override i false y) x

/-- The threads of slots are STAGED afresh, also those that had failed, and their eyelets leave the override (DEDUCED, assumption 143). -/
def renew (ks : List Nat) (x : Hoop) : Hoop :=
  unoverride ks { x with prk := { x.prk with slots := x.prk.slots.map (fun e =>
    if ks.contains e.1 ∧ e.2.kind = .pattern then (e.1, { e.2 with threads := e.2.threads.map (fun t => (t.1, { t.2 with st := .staged })) }) else e) } }

/-- The hoop as an image for an instant sees it: recompiled slots, fresh threads and the rebuilt slice from their boundary on. -/
def prkView (at_ : Nat) (x : Hoop) : Hoop := renew (renewed at_ x) { installed at_ x with slice := x.imageSlice at_ }

/-- The boundary of the earliest recompilation that waits (R131, R135, R137). -/
def Hoop.recompAt (x : Hoop) : Option Nat :=
  let bs := x.prkSlice.map (·.1) ++ (x.prk.slots.map (fun e => e.2.pend.map (·.from_))).flatten
  bs.find? (fun b => bs.all (fun c => decide (b ≤ c)))

/-- What comes after the current entry: an entry of a list, the end, or nothing. -/
inductive PNext | nothing | entry (l : PList) (i : Nat) | finish
deriving DecidableEq, Repr

/-- The next boundary of the list that runs. -/
def Hoop.nextBoundary (x : Hoop) (l : PList) : Nat := if x.prk.started then l.boundary (x.prk.cycleNum + 1) else l.startAt

/-- The shadow list that takes over at the next boundary (R123). -/
def Hoop.swapsNext (x : Hoop) (l : PList) : Option PList := x.prk.swap.filter (fun s => decide (s.startAt ≤ x.nextBoundary l + 2))

/-- The list ends at its next boundary (R124). -/
def Hoop.endsNext (x : Hoop) (l : PList) : Bool := x.prk.stopAt == some (x.nextBoundary l) || l.final == some (x.nextBoundary l)

/-- The next entry. A position equal to the list's length says that a boundary has passed and entry 0 has not yet loaded. -/
def prkNext (x : Hoop) : PNext :=
  match x.prk.active with
  | none => .nothing
  | some l =>
    if x.prk.started && x.prk.pos == l.len then .entry l 0
    else if x.prk.started && decide (x.prk.pos + 1 < l.len) then .entry l (x.prk.pos + 1)
    else match x.swapsNext l with
      | some s => .entry s 0
      | none => if x.endsNext l then .finish else .entry l 0

/-- Eyelets of open pricked threads that a list does not know go dark with its first entry (R39). -/
def strayDark (x : Hoop) (ports : List Nat) : List DeltaEntry :=
  (x.prk.lit.filter (fun i => !ports.contains i)).filterMap (fun i =>
    let w := wantEyelet x i false (x.eyBand i)
    if (x.needle (x.eyelet i)).reg = w.code then none else some (mkDelta x (x.eyelet i) w false))

/-- The next PATTERN entry is staged as a catch-up: after a hold, and as the first one after a start or a swap (R125). -/
def nextCatchup (x : Hoop) : Bool :=
  match prkNext x with
  | .entry l _ => x.prk.catchup || !x.prk.started || x.prk.swap == some l
  | _ => x.prk.catchup

/-- The eyelets that an OPEN or DARK entry closes: those whose registers hold no DARK code (R126, R127). -/
def closings (x : Hoop) (im : List (Nat × Want)) : List DeltaEntry :=
  (im.filter (fun w => (x.needle w.1).reg != w.2.code)).map (fun w => mkDelta x w.1 w.2 false)

/-- The stage of the next entry (R125 to R127): a PATTERN entry's transition delta from the image in force, or its catch-up; the eyelets that an OPEN
or DARK entry closes; at the end the OPEN image (R124). -/
def prkDelta (x : Hoop) : List DeltaEntry :=
  let y := prkView x.prk.nextEpoch x
  match prkNext y with
  | .nothing => []
  | .finish => strayDark y []
  | .entry l i =>
    let im := listImages y l
    strayDark y (prickedPorts y.prk l.store l.len) ++
      (if (y.prk.entry l.store i).type ≠ 0 then closings y (im.getD i [])
       else if nextCatchup y then catchUp y im i
       else between y (listImages { x with slice := x.imageSlice x.now } l) (if x.prk.pos = l.len then l.len - 1 else x.prk.pos) im i)

end Sys2Proof.Machine
end

