-- ==== Sys2Proof/Machine/Commits.lean ====
section
/-!
DEFINITION. Acceptance of commits: the projected thread table (R47), checks 4 to 9 of R86, compiling (R83 to R85),
the choice of an epoch (R88, R89, R129, R130), and the pending table (R87).
-/

namespace Sys2Proof.Machine

/-- One entry of a commit. -/
structure Edit where
  op : Nat
  inPort : Nat
  outPort : Nat := 0
  tenant : Nat := 0
  band : Bool := false
  move : Bool := false
  chain : Nat := 0
deriving DecidableEq, Repr

/-- The edit that an opcode and its TLVs spell; a ring's tag replaces the descriptor's on an agent ring (R361). -/
def editOf (op : Nat) (tag : Option Nat) (ts : List (Nat × Bytes)) : Edit :=
  match tlvGet ts 1 with
  | some b => let d := descOf b
              { op := op, inPort := d.inPort, outPort := d.outPort, tenant := tag.getD d.tenant, band := d.band, move := d.move }
  | none => { op := op, inPort := field ((tlvGet ts 2).getD []) 0 2 }

/-! ## Projected table (R47) -/

/-- What a change makes of the thread that the table holds. -/
def Change.apply (c : Change) (t : Thread) : Thread :=
  match c.kind with
  | .release => { t with releasing := true }
  | .dark => { t with st := .darked }
  | .modify => { c.after with st := if c.after.route = t.route ∧ c.after.band = t.band then t.st else .settling }
  | _ => { c.after with st := .settling }

/-- Apply a commit's changes to a table. -/
def applyTo (t : SMap Thread) (cs : List Change) : SMap Thread :=
  cs.foldl (fun t c => if c.dropped then t else smSet {} t c.inPort (c.apply (smGet {} t c.inPort))) t

/-- Insert a commit by its epoch; on a tie after those already there. -/
def insCommit (c : Commit) : List Commit → List Commit
  | [] => [c]
  | d :: ds => if c.epochNs < d.epochNs then c :: d :: ds else d :: insCommit c ds

/-- The pending commits that will load: those that R481 withdraws are not among them, nor what was routed against one of those. -/
def Hoop.loading (x : Hoop) : List Commit :=
  (x.cm.pending.foldl (fun (q : List Commit × List Nat) d =>
    if !d.doomed.isEmpty || d.deps.any q.2.contains then (q.1, d.key :: q.2) else (q.1 ++ [d], q.2)) ([], [])).1

/-- The threads as they will stand at an epoch: every pending commit with an earlier epoch that will load applied. -/
def projected (x : Hoop) (e : Nat) : SMap Thread :=
  (x.loading.filter (fun c => decide (c.epochNs < e))).foldl (fun t c => applyTo t c.changes) x.thr

/-- The delta that a commit will load: without the entries of dropped parts, and with the DARK code for every eyelet in the override (R111,
R154). -/
def liveDelta (x : Hoop) (c : Commit) : List DeltaEntry :=
  let gone := soleElems x c (·.dropped)
  (c.delta.filter (fun d => !gone.contains d.elem)).map (fun d =>
    if x.nS ≤ d.elem ∧ x.overridden (d.elem - x.nS) then { d with st := .eyDark, ncode := x.darkCode (d.elem - x.nS) } else d)

/-- The code that an element's register will hold at an epoch: the last pending delta that sets it (R84). -/
def projCode (x : Hoop) (e elem : Nat) : NCode :=
  match ((x.loading.filter (fun c => decide (c.epochNs < e))).filterMap (fun c => (liveDelta x c).find? (fun d => d.elem == elem))).getLast? with
  | some d => d.ncode
  | none => (x.needle elem).reg

/-! ## Checks 4 to 6 -/

/-- The thread of an edit in a table, where there is one. -/
def tblThread (t : SMap Thread) (i : Nat) : Option Thread :=
  match smFind t i with
  | some v => if v.st = .none then none else some v
  | none => none

/-- Who asks: the ring, and whether a fabric PROPOSE does (R408). -/
structure Asker where
  ring : Nat
  fabric : Bool := false
deriving DecidableEq, Repr

/-- A port of a PROPOSE lies in the mask of an agent ring of another tag (R408). -/
def foreignPort (x : Hoop) (e : Edit) : Bool :=
  (List.range 15).any (fun k => let g := x.ring (k + 1)
    g.bound && g.tenant != e.tenant && (g.inMask.getLsbD e.inPort || g.outMask.getLsbD e.outPort))

/-- Check 4 of one entry (R86, R363). -/
def ownsEdit (x : Hoop) (w : Asker) (t : SMap Thread) (e : Edit) : Bool :=
  let g := x.ring w.ring
  let mine := fun (i o : Nat) => w.ring == 0 || (g.inMask.getLsbD i && g.outMask.getLsbD o)
  if e.op = 1 then mine e.inPort e.outPort && !(w.fabric && foreignPort x e)
  else match tblThread t e.inPort with
    | none => false
    | some v => (w.ring == 0 || v.tenant == g.tenant) && mine e.inPort v.outPort &&
        (!(e.op == 2 || e.op == 3) || mine e.inPort e.outPort) &&
        !(w.fabric && foreignPort x { e with tenant := v.tenant, outPort := if e.op = 2 ∨ e.op = 3 then e.outPort else v.outPort })

/-- A thread of the table other than `i` ends on egress port `o`, and no entry of the commit retargets it away (R42). -/
def outTaken (t : SMap Thread) (es : List Edit) (i o : Nat) : Bool :=
  t.any (fun q => q.1 != i && q.2.st != .none && q.2.outPort == o &&
    !es.any (fun e => e.op == 2 && e.inPort == q.1 && e.outPort != o))

/-- A change that takes an egress port which its thread did not hold (R42). -/
def Change.takesOut (g : Change) (o : Nat) : Bool :=
  g.after.outPort == o && (g.kind == .create || ((g.kind == .modify || g.kind == .reopen) && g.before.outPort != o))

/-- Ingress or egress port that a pending commit takes at this very epoch (R42). -/
def portTaken (x : Hoop) (e : Nat) (i o : Nat) : Bool :=
  x.loading.any (fun c => c.epochNs == e && c.changes.any (fun g => !g.dropped &&
    ((g.kind == .create && g.inPort == i) || (g.takesOut o && (g.kind == .create || g.inPort != i)))))

/-- Ports of the pricked threads that a running or armed pricking uses (R118). -/
def prickPort (x : Hoop) (i o : Nat) : Bool :=
  x.prk.referenced.any (fun k => (x.prk.slot k).kind == .pattern && (x.prk.slot k).threads.any (fun t => t.1 == i || t.2.outPort == o))

/-- Check 5 of one entry (R42, R118, R360): the status of its failure. A thread with a release pending is held by it
(assumption 18). -/
def busyEdit (x : Hoop) (ens : Nat) (t : SMap Thread) (es : List Edit) (e : Edit) : Option Nat :=
  let dup := decide (1 < (es.filter (fun f => (f.op == 1 || f.op == 2 || f.op == 3) && f.outPort == e.outPort)).length)
  let taken := fun (o : Nat) => dup || outTaken t es e.inPort o || portTaken x ens e.inPort o
  match e.op with
  | 1 => if (tblThread t e.inPort).isSome || taken e.outPort || prickPort x e.inPort e.outPort then some 14 else none
  | 2 => match tblThread t e.inPort with
    | some v =>
      if v.st = .darked ∨ v.st = .faulted then some 16
      else if v.releasing || (v.outPort != e.outPort && taken e.outPort) then some 14 else none
    | none => none
  | 3 => match tblThread t e.inPort with
    | some v => if (v.st != .darked && v.st != .faulted) || v.releasing || (v.outPort != e.outPort && taken e.outPort)
        || prickPort x e.inPort e.outPort then some 14 else none
    | none => none
  | 4 => match tblThread t e.inPort with
    | some v => if v.releasing then some 14 else none
    | none => none
  | _ => match tblThread t e.inPort with
    | some v => if v.st = .darked ∨ v.st = .faulted then some 16 else if v.releasing then some 14 else none
    | none => none

/-- The first entry that fails, with its status. -/
def firstFail {α : Type} (f : α → Option Nat) : Nat → List α → Option (Nat × Nat)
  | _, [] => none
  | i, a :: as => match f a with
    | some s => some (s, i)
    | none => firstFail f (i + 1) as

/-! ## Compiling (R47, R83 to R85) -/

/-- What a commit changes. `slots` holds the pattern slots that must be recompiled around it, with their new routes. -/
structure Compiled where
  changes : List Change
  delta : List DeltaEntry
  chans : List Nat
  slots : List (Nat × SMap Thread)
deriving DecidableEq, Repr

def Compiled.n (c : Compiled) : Nat := c.delta.length
def Compiled.nch (c : Compiled) : Nat := c.chans.length

/-- The largest number of channels in one ADC group (R85). -/
def cMaxOf (chans : List Nat) : Nat := maxL ((nub (chans.map (· / 128))).map (fun g => (chans.filter (fun k => k / 128 == g)).length))

/-- An edit sets a route. -/
def Edit.routes (t : SMap Thread) (e : Edit) : Bool :=
  e.op == 1 || e.op == 3 || (e.op == 2 && (smGet {} t e.inPort).outPort != e.outPort)

/-- A thread as the router sees it. -/
def placedOf (p : Part) (i : Nat) (v : Thread) (band : Bool) : Placed :=
  { req := { inPort := i, outPort := v.outPort, band := band }, route := v.route, hops := hopsOf p i v.route }

/-- Ends that a thread cannot open with: lost taps for one that is created or reopened, and an eyelet that cannot serve its band, also where a
MODIFY changes the band (R51, R52). -/
def endsBad (x : Hoop) (t : SMap Thread) (e : Edit) : Bool :=
  ((e.op == 1 || e.op == 3) && ((x.chan (x.eyelet e.inPort)).lost || (x.chan (x.egress e.outPort)).lost || badFor x (x.eyelet e.inPort) e.band)) ||
    (e.op == 2 && (smGet {} t e.inPort).band != e.band && badFor x (x.eyelet e.inPort) e.band)

/-- A route whose taps are not all there (R51). -/
def routeLost (x : Hoop) (hops : List Hop) : Bool := hops.any (fun k => (x.chan k.stitch).lost)

/-- The light of a thread: the stitches it passes with the output it takes, while its eyelet is open. -/
def lightOf (p : Part) (t : SMap Thread) (i : Nat) : List (Nat × Bool) :=
  match tblThread t i with
  | some v => if v.st.lit && !v.releasing then (hopsOf p i v.route).map (fun k => (k.stitch, k.lower)) else []
  | none => []

/-- The changed-channel set (R85). -/
def chansOf (x : Hoop) (before after : SMap Thread) (cs : List Change) : List Nat :=
  let p := x.part
  let hb := withHops p before
  let ha := withHops p after
  let sts := sortNat ((cs.map (fun c => (hopsOf p c.inPort c.before.route ++ hopsOf p c.inPort c.after.route).map (·.stitch))).flatten)
  let turned := sts.filter (fun e => (wantStitch x hb e).st != (wantStitch x ha e).st)
  let per := cs.map (fun c =>
    let l0 := lightOf p before c.inPort
    let l1 := lightOf p after c.inPort
    let moved := ((l0.filter (fun q => !l1.contains q)) ++ (l1.filter (fun q => !l0.contains q))).map (·.1)
    let ey := x.eyelet c.inPort
    match c.kind with
    | .release => ey :: moved
    | .dark => ey :: moved
    | .modify => if c.after.route = c.before.route ∧ c.after.band = c.before.band then []
        else [ey, x.egress c.after.outPort] ++ (if c.retarget then x.egress c.before.outPort :: (hopsOf p c.inPort c.after.route).map (·.stitch) else []) ++ moved
    | .moved => [ey, x.egress c.after.outPort] ++ (hopsOf p c.inPort c.after.route).map (·.stitch) ++ moved
    | _ => [ey, x.egress c.after.outPort] ++ moved)
  sortNat (turned ++ per.flatten)

/-- The delta (R33, R81, R83, R84): stitches of the routes set and left, eyelets opened, closed or recoded, where the code differs from the
one the register will hold. -/
def deltaOf (x : Hoop) (code : Nat → NCode) (after : SMap Thread) (cs : List Change) : List DeltaEntry :=
  let p := x.part
  let ha := withHops p after
  let own := fun (c : Change) => match c.kind with
    | .release => []
    | .dark => []
    | .modify => if c.after.route = c.before.route ∧ c.after.band = c.before.band then []
        else (hopsOf p c.inPort c.before.route ++ hopsOf p c.inPort c.after.route).map (·.stitch)
    | _ => (hopsOf p c.inPort c.before.route ++ hopsOf p c.inPort c.after.route).map (·.stitch)
  let mine := sortNat (((cs.filter (fun c => c.kind != .moved)).map own).flatten)
  let byMove := sortNat (((cs.filter (fun c => c.kind == .moved)).map own).flatten)
  let sts := (sortNat (mine ++ byMove)).filterMap (fun e =>
    let w := wantStitch x ha e
    if w.code = code e then none else some (mkDelta x e w (!mine.contains e)))
  let eyes := (cs.filter (fun c => c.kind != .moved)).filterMap (fun c =>
    let e := x.eyelet c.inPort
    let w := wantEyelet x c.inPort (c.kind != .release && c.kind != .dark) c.after.band
    if (c.kind == .modify && c.after.band == c.before.band) || w.code == code e then none else some (mkDelta x e w false))
  sts ++ eyes

/-- Reroute a pattern slot around standing threads (R116, R131): its fixed threads keep their stitches, the movable ones that
collide are routed again; none where that cannot be. -/
def refitSlot (x : Hoop) (standing : List Placed) (ts : SMap Thread) : Option (SMap Thread) :=
  let ps := ts.map (fun e => (e.2.move, placedOf x.part e.1 e.2 e.2.band))
  let ok := fun (q : Placed) => routeOk x standing q
  let fixed := (ps.filter (fun q => !q.1)).map (·.2)
  let mv := (ps.filter (fun q => q.1)).map (·.2)
  if !fixed.all ok then none
  else match routeAll x (standing ++ fixed) (mv.filter ok) ((mv.filter (fun q => !ok q)).map (·.req)) with
    | none => none
    | some c => some (c.set.foldl (fun t q => smUpd {} t q.req.inPort (fun v => { v with route := q.route, gen := v.gen + 1 })) ts)

/-- Compile a commit's entries against the table at its epoch; none where it cannot be routed (R47, R51, R52); `some (none)`
where a fixed pricked thread stands in the way (R131). -/
def compile (x : Hoop) (ens : Nat) (code : Nat → NCode) (es : List Edit) : Option (Option Compiled) :=
  let p := x.part
  let t0 := projected x ens
  let edited := es.map (·.inPort)
  let reqs := (es.filter (Edit.routes t0)).map (fun e => ({ inPort := e.inPort, outPort := e.outPort, band := e.band } : Req))
  let rebanded := es.filter (fun e => e.op == 2 && !(e.routes t0))
  let stay := t0.filter (fun q => q.2.st != .none && !(reqs.any (fun r => r.inPort == q.1)))
  let pl := stay.map (fun q => (q, placedOf p q.1 q.2 (match rebanded.find? (fun e => e.inPort == q.1) with | some e => e.band | none => q.2.band)))
  let mayMove := fun (q : Nat × Thread) => q.2.move && q.2.st.lit && !q.2.releasing && !edited.contains q.1
  let fixed := (pl.filter (fun q => !mayMove q.1)).map (·.2)
  let movable := (pl.filter (fun q => mayMove q.1)).map (·.2)
  let bandOk := fixed.all (fun q => !(rebanded.any (fun e => e.inPort == q.req.inPort && (smGet {} t0 e.inPort).band != e.band)) ||
    q.hops.all (fun k => !badFor x k.stitch q.req.band &&
      (!((x.elem k.stitch).badO || (x.elem k.stitch).badC) || !mixedAt (fixed ++ movable) k.stitch)))
  if es.any (endsBad x t0) || !bandOk then none
  else match routeAll x fixed movable reqs with
    | none => none
    | some cand =>
      let routeFor := fun (i : Nat) => (cand.set.find? (fun q => q.req.inPort == i)).map (·.route)
      let all := cand.set ++ (fixed ++ movable).filter (fun q => !(cand.set.any (fun s => s.req.inPort == q.req.inPort)))
      let finish := fun (i : Nat) (v : Thread) => { v with
        mixed := (hopsOf p i v.route).any (fun k => mixedAt all k.stitch), degrade := routeLost x (hopsOf p i v.route) }
      let own := es.map (fun e =>
        let old := smGet {} t0 e.inPort
        let r := (routeFor e.inPort).getD old.route
        let g := if old.st = .none then old.gen else if r = old.route then old.gen else old.gen + 1
        match e.op with
        | 1 => ({ kind := .create, inPort := e.inPort, before := {}, after := finish e.inPort { outPort := e.outPort, tenant := e.tenant, band := e.band, move := e.move, route := r } } : Change)
        | 2 => { kind := .modify, inPort := e.inPort, before := old, retarget := e.routes t0,
                 after := finish e.inPort { old with outPort := e.outPort, band := e.band, move := e.move, route := r, gen := g } }
        | 3 => { kind := .reopen, inPort := e.inPort, before := old,
                 after := finish e.inPort { old with outPort := e.outPort, band := e.band, move := e.move, route := r, gen := g } }
        | 4 => { kind := .release, inPort := e.inPort, before := old, after := { old with releasing := true } }
        | _ => { kind := .dark, inPort := e.inPort, before := old, after := { old with st := .darked } })
      let moved := (cand.set.filter (fun q => !edited.contains q.req.inPort)).map (fun q =>
        let old := smGet {} t0 q.req.inPort
        ({ kind := .moved, inPort := q.req.inPort, before := old, after := finish q.req.inPort { old with route := q.route, gen := old.gen + 1 } } : Change))
      let cs := own ++ moved
      let t1 := applyTo t0 cs
      let newStanding := (cand.set ++ fixed ++ movable.filter (fun q => !(cand.set.any (fun s => s.req.inPort == q.req.inPort))))
      let touched := !cand.set.isEmpty || rebanded.any (fun e => (smGet {} t0 e.inPort).band != e.band)
      let slots := if touched then x.prk.referenced.filter (fun k => (x.prk.slot k).kind == .pattern) else []
      let refits := slots.map (fun k => (k, refitSlot x newStanding (x.prk.slot k).last))
      if refits.any (fun r => r.2.isNone) then some none
      else some (some { changes := cs, delta := deltaOf x code t1 cs, chans := chansOf x t0 t1 cs
                        slots := refits.filterMap (fun r => r.2.map (fun v => (r.1, v))) })

/-! ## Epochs (R18, R19, R49, R88, R89) -/

/-- Half nanoseconds of the lead for n codes: 3,568 ns + 0.5 ns n. -/
def lead2 (n : Nat) : Nat := 7136 + n

/-- Half nanoseconds of the spacing for n codes. -/
def gap2 (n : Nat) : Nat := 1000 + n

/-- Codes of the pending commits at an epoch. -/
def nAt (x : Hoop) (e : Nat) : Nat := ((x.cm.pending.filter (fun c => c.epochNs == e)).map (fun c => c.delta.length)).sum

/-- Epochs of pending commits that stage. -/
def stdEpochs (x : Hoop) : List Nat := (x.cm.pending.filter (fun c => !c.delta.isEmpty)).map (·.epochNs)

/-- Codes of a stage at an epoch with n codes more: the union's where commits merge; a commit of no codes is not merged (R49, R82). -/
def unionAt (x : Hoop) (e n : Nat) : Nat := if n = 0 then 0 else n + nAt x e

/-- Lead and spacing hold at an epoch for n codes (R19, R89, R49). -/
def timesOk (x : Hoop) (e n : Nat) : Bool :=
  let now := x.tb.ptpOf x.now
  let u := unionAt x e n
  decide (2 * now + lead2 u ≤ 2 * e) &&
    (n == 0 || ((stdEpochs x).filter (fun p => decide (p < e))).all (fun p => decide (2 * p + gap2 u ≤ 2 * e)) &&
      ((stdEpochs x).filter (fun p => decide (e < p))).all (fun p =>
        decide (2 * e + gap2 (nAt x p) ≤ 2 * p) || (stdEpochs x).any (fun q => decide (e < q ∧ q < p))))

/-- Ports and elements that a commit changes (R49): every stitch of the routes it sets and leaves, also one whose state and code stay as they are
(DESIGN CHOICE, assumption 127). -/
def footprint (x : Hoop) (cs : List Change) : List Nat :=
  (cs.map (fun c => match c.kind with
    | .release => [x.eyelet c.inPort]
    | .dark => [x.eyelet c.inPort]
    | .modify => if c.after.route = c.before.route ∧ c.after.band = c.before.band then [x.eyelet c.inPort]
        else [x.egress c.after.outPort, x.egress c.before.outPort] ++ changeElems x c
    | .create => x.egress c.after.outPort :: changeElems x c
    | _ => [x.egress c.after.outPort, x.egress c.before.outPort] ++ changeElems x c)).flatten

/-- A pending commit at this epoch or a later one changes what these changes change (R49). -/
def orderClash (x : Hoop) (e : Nat) (cs : List Change) : Bool :=
  let f := footprint x cs
  x.cm.pending.any (fun c => decide (e ≤ c.epochNs) && (footprint x c.changes).any (fun q => f.contains q))

/-- The first whole microsecond at or after an instant in half nanoseconds. -/
def wholeUs (half : Nat) : Nat := (half + 1999) / 2000 * 1000

/-- A pending epoch whose spacing keeps a commit of n codes from standing at `e` (R89). -/
def crowding (x : Hoop) (e n : Nat) : Option Nat :=
  (stdEpochs x).find? (fun p => if p < e then decide (2 * e < 2 * p + gap2 (unionAt x e n)) else decide (e < p ∧ 2 * p < 2 * e + gap2 (nAt x p)))

/-- The earliest whole microsecond at or after `e` that lead and spacing allow (R88). Only instants that the epoch which crowds them keeps out are
passed over. -/
def nextEpoch (x : Hoop) (n : Nat) : Nat → Nat → Nat
  | 0, e => e
  | fuel + 1, e =>
    let e := max e (wholeUs (2 * x.tb.ptpOf x.now + lead2 n))
    if timesOk x e n then e
    else match crowding x e n with
      | some p => nextEpoch x n fuel (max (e + 1000) (if p < e then wholeUs (2 * p + gap2 n) else wholeUs (2 * p)))
      | none => nextEpoch x n fuel (e + 1000)

/-! ## OPEN entries (R129, R130) -/

/-- The lists that a commit may be placed in: the active one up to its swap, stop or end, then the armed shadow. -/
def spans (x : Hoop) : List (PList × Option Nat) :=
  match x.prk.active with
  | none => []
  | some l =>
    let ends := fun (q : PList) => match x.prk.stopAt with | some t => some t | none => q.final
    match x.prk.swap with
    | some s => [(l, some s.startAt), (s, ends s)]
    | none => [(l, ends l)]

/-- Codes of the entry that follows OPEN entry `i` of cycle `k` (R130): the transition of a PATTERN entry, that to a shadow's first where a swap
follows, the open standing eyelets in the mask of a DARK entry; the pricked ones are closed already. -/
def nNext (x : Hoop) (l : PList) (im : List (List (Nat × Want))) (k i : Nat) : Nat :=
  let swaps := if i + 1 = l.len then x.prk.swap.filter (fun s => decide (s.startAt ≤ l.boundary (k + 1) + 2)) else none
  let q := swaps.getD l
  let j := if i + 1 = l.len then 0 else i + 1
  let en := x.prk.entry q.store j
  if en.type = 0 then (match swaps with
    | some s => (between x im i (listImages x s) 0).length
    | none => (transition x im j).length)
  else if en.type = 1 then 0
  else
    let ports := prickedPorts x.prk l.store l.len
    (x.thr.filter (fun t => (x.prk.slot en.index.toNat).mask.getLsbD t.1 && (t.2.st.lit || t.2.st == .staged) && !t.2.releasing && !ports.contains t.1)).length

/-- Time that the entry after `i` needs (R130). -/
def tNext2 (x : Hoop) (l : PList) (im : List (List (Nat × Want))) (k i : Nat) : Nat :=
  let n := nNext x l im k i
  if n = 0 then 0 else gap2 n

/-- The epoch at which n codes fit in OPEN entry `i` of cycle `k` at or after `from_`, in PTP nanoseconds (R130). -/
def fitOpen (x : Hoop) (l : PList) (im : List (List (Nat × Want))) (k i from_ n : Nat) (asap : Bool) : Option Nat :=
  let o := x.tb.ptpOf (l.boundary k + entryOff x.prk l.store i)
  let d := (x.prk.entry l.store i).dwell.toNat
  let p := maxL (o :: ((stdEpochs x).filter (fun q => decide (o ≤ q ∧ q < o + d))))
  let e := max from_ ((2 * p + gap2 n + 1) / 2)
  let e := if asap then wholeUs (2 * e) else e
  if 2 * e + 2000 + tNext2 x l im k i ≤ 2 * (o + d) then some e else none

/-- The first OPEN entry that fits, over a number of cycles from cycle `k`. -/
def findOpen (x : Hoop) (l : PList) (im : List (List (Nat × Want))) (until_ : Option Nat) (from_ n : Nat) (asap : Bool) : Nat → Nat → Option Nat
  | 0, _ => none
  | fuel + 1, k =>
    let opens := (List.range l.len).filter (fun i => (x.prk.entry l.store i).type == 1)
    match opens.filterMap (fun i => match fitOpen x l im k i from_ n asap with
        | some e => (match until_ with
          | some u => if x.tb.cntOf e < u then some e else none
          | none => some e)
        | none => none) with
    | e :: _ => some e
    | [] => findOpen x l im until_ from_ n asap fuel (k + 1)

/-- Place n codes at or after an instant (R130). -/
def placeOpen (x : Hoop) (from_ n : Nat) (asap : Bool) : Option Nat :=
  (spans x).foldl (fun best s =>
    match best with
    | some e => some e
    | none =>
      let l := s.1
      let k := l.startK + (x.tb.cntOf from_ - l.startAt) / max 1 l.cycle
      findOpen x l (listImages x l) s.2 from_ n asap 66 k) none

/-- Some OPEN entry would fit n codes with nothing else placed (check 7). -/
def openEver (x : Hoop) (n : Nat) : Bool :=
  (spans x).any (fun s =>
    let im := listImages x s.1
    (List.range s.1.len).any (fun i => (x.prk.entry s.1.store i).type == 1 &&
      decide (gap2 n + 2000 + tNext2 x s.1 im s.1.startK i ≤ 2 * (x.prk.entry s.1.store i).dwell.toNat)))

/-- The second cycle boundary after now (R131): of the shadow list where it takes over at the first. -/
def secondBoundary (x : Hoop) : Nat :=
  match x.prk.active with
  | none => x.now
  | some l =>
    let b := l.boundary (l.startK + (if x.now < l.startAt then 0 else (x.now - l.startAt) / max 1 l.cycle + 1))
    match x.prk.swap with
    | some s => if s.startAt ≤ b + 2 then s.startAt + s.cycle else b + l.cycle
    | none => b + l.cycle

/-- A pricking is active, so that a commit with codes needs an OPEN entry (R129). -/
def Hoop.pricking (x : Hoop) : Bool := x.prk.active.isSome

/-! ## The checks in order -/

/-- What acceptance decides: a refusal with the entry's index (R81, R358), the tag that would be one too many (R364) with the index of the entry
that brings it, or a commit at an epoch. -/
inductive Decision | refuse (status index : Nat) | tagLimit (tag index : Nat) | accept (c : Compiled) (ens : Nat)
deriving DecidableEq, Repr

/-- The entry to blame where the entries together fail: the last one of the shortest run from the first that fails. -/
def blame (x : Hoop) (ens : Nat) (es : List Edit) (bad : Option (Option Compiled) → Bool) : Nat :=
  ((List.range es.length).find? (fun k => bad (compile x ens (projCode x ens) (es.take (k + 1))))).getD 0

/-- BLOCKED, with the entry to blame. -/
def refuseBlocked (x : Hoop) (ens : Nat) (es : List Edit) : Decision := .refuse 8 (blame x ens es Option.isNone)

/-- ROUTE_CONFLICT with a pricked thread (R131) or an accepted commit (R49), with the entry to blame. -/
def refuseConflict (x : Hoop) (ens : Nat) (es : List Edit) : Decision :=
  .refuse 9 (blame x ens es (fun q => match q with
    | some (some c) => orderClash x ens c.changes
    | some none => true
    | none => false))

/-- Checks 8 and 9 at an epoch for what has been compiled and placed there. `late` says that the named epoch itself is short of lead. -/
def decideAt (x : Hoop) (ens : Nat) (es : List Edit) (late : Bool) (c : Compiled) : Decision :=
  if orderClash x ens c.changes then refuseConflict x ens es
  else if !late && timesOk x ens c.n then .accept c ens
  else .refuse 11 0

/-- "As soon as possible" outside a pricking (R88): compile at candidate epochs until one stands. -/
def decideAsap (x : Hoop) (es : List Edit) : Nat → Nat → Decision
  | 0, _ => .refuse 11 0
  | fuel + 1, e =>
    match compile x e (projCode x e) es with
    | none => refuseBlocked x e es
    | some none => refuseConflict x e es
    | some (some c) =>
      let e' := nextEpoch x c.n 400 e
      if e' = e then
        (if orderClash x e c.changes then (if nAt x e = 0 then refuseConflict x e es else decideAsap x es fuel (e + 1000)) else .accept c e)
      else decideAsap x es fuel e'

/-- Checks 7 to 9, in this order, of a commit that needs an OPEN entry: compiled at an epoch, placed at or after it, and compiled again where its
place is later. -/
def decideOpen (x : Hoop) (hasEpoch exact : Bool) (ens : Nat) (es : List Edit) : Nat → Nat → Compiled → Decision
  | 0, _, _ => .refuse 10 0
  | fuel + 1, at_, c =>
    let lead := 2 * x.tb.ptpOf x.now + lead2 c.n
    let late := hasEpoch && decide (2 * ens < lead)
    let from_ := max (if late then at_ else max at_ ((lead + 1) / 2)) (if c.slots.isEmpty then 0 else x.tb.ptpOf (secondBoundary x))
    match placeOpen x from_ c.n (!hasEpoch) with
    | none => .refuse 10 0
    | some e =>
      if exact && e != ens then .refuse 10 0
      else if e = at_ then decideAt x e es late c
      else match compile x e (projCode x e) es with
        | none => refuseBlocked x e es
        | some none => refuseConflict x e es
        | some (some d) => if d.n = c.n then decideAt x e es late d else decideOpen x hasEpoch exact ens es fuel e d

/-- A commit of scheduled DARKs alone (R129). -/
def darkOnly (es : List Edit) : Bool := es.all (fun e => e.op == 5)

/-- Checks 7 to 9. While a pricking is active a scheduled DARK needs no OPEN entry: it stages nothing, and at its epoch its eyelet goes dark by the
path of R108 (R129). -/
def decideTimes (x : Hoop) (hasEpoch exact : Bool) (ens : Nat) (es : List Edit) : Decision :=
  let first := if hasEpoch then ens else wholeUs (2 * x.tb.ptpOf x.now + lead2 0)
  let got := compile x first (projCode x first) es
  let n := match got with | some (some c) => c.n | _ => 1
  if x.pricking && !darkOnly es && n != 0 then
    if !openEver x n then .refuse 10 0
    else match got with
      | none => refuseBlocked x first es
      | some none => refuseConflict x first es
      | some (some c) => decideOpen x hasEpoch exact ens es 100 first c
  else if hasEpoch || x.pricking && darkOnly es then
    match got with
    | none => refuseBlocked x first es
    | some none => refuseConflict x first es
    | some (some c) => decideAt x first es false (if x.pricking && darkOnly es then { c with delta := [] } else c)
  else decideAsap x es 300 first

/-- Check 4, and check 5 of the entries, in the table at an epoch. -/
def portFail (x : Hoop) (w : Asker) (at_ : Nat) (es : List Edit) : Option (Nat × Nat) :=
  let t := projected x at_
  match firstFail (fun e => if ownsEdit x w t e then none else some 6) 0 es with
  | some f => some f
  | none => firstFail (busyEdit x at_ t es) 0 es

/-- Tags that the entries bring. -/
def newTags (es : List Edit) : List Nat := (es.filter (fun e => e.op == 1 || e.op == 3)).map (·.tenant)

/-- Checks 4 to 9 of R86 for a commit's entries, checks 4 and 5 once more where the epoch that is chosen is another than the first
possible one; no commit before the first writes are done (R178),
while the reference is not steady, or from AVDD/2 (R198). -/
def decideCommit (x : Hoop) (w : Asker) (hasEpoch exact : Bool) (ens : Nat) (es : List Edit) : Decision :=
  let at_ := if hasEpoch then ens else wholeUs (2 * x.tb.ptpOf x.now + lead2 0)
  let t := projected x at_
  match firstFail (fun e => if ownsEdit x w t e then none else some 6) 0 es with
  | some (s, i) => .refuse s i
  | none =>
    if x.dk.force then .refuse 16 0
    else if !(x.drv.nFirstDone && x.drv.hFirstDone) || !x.mon.refOk || x.mon.refSrc == 2 then .refuse 14 0
    else match firstFail (busyEdit x at_ t es) 0 es with
      | some (s, i) => .refuse s i
      | none =>
        if 64 ≤ x.cm.pending.length then .refuse 14 0
        else match tagOver x (newTags es) with
          | some tag => .tagLimit tag (((List.range es.length).find? (fun k => (tagOver x (newTags (es.take (k + 1)))).isSome)).getD 0)
          | none =>
            if !x.ths.commitOk then .refuse 12 0
            else match decideTimes x hasEpoch exact ens es with
              | .accept c e => if e = at_ then .accept c e
                  else (match portFail x w e es with
                    | some f => .refuse f.1 f.2
                    | none => .accept c e)
              | d => d

/-! ## The pending table and the posting of stages (R87, R90, R91) -/

/-- The next standing commit that waits for its stage. -/
def nextStage (x : Hoop) : Option Commit := x.cm.pending.find? (fun c => !c.delta.isEmpty)

/-- Change a pending commit. -/
def updCommit (seq ring : Nat) (f : Commit → Commit) (x : Hoop) : Hoop :=
  { x with cm := { x.cm with pending := x.cm.pending.map (fun c => if c.seq = seq ∧ c.ring = ring then f c else c) } }

/-- Entries of Tambour's queue (R151): the hardware's, and as many of the firmware's as it has entries of its own; the rest of the list waits in the
firmware. -/
def inQueue (hw : TOp → Bool) : Nat → List TOp → List TOp
  | _, [] => []
  | n, o :: os => if hw o then o :: inQueue hw n os else match n with
    | 0 => inQueue hw 0 os
    | k + 1 => o :: inQueue hw k os

/-- The normal queue: one entry of the pricking unit and 31 of the firmware. -/
def Tmb.normalQ (t : Tmb) : List TOp := inQueue (fun o => o.code == 2) 31 t.normal

/-- The urgent queue: an INJ_RELOAD of each group and six entries of the firmware. -/
def Tmb.urgentQ (t : Tmb) : List TOp := inQueue (fun o => o.code == 8) 6 t.urgent

/-- Post a normal operation. -/
def postNormal (o : TOp) (x : Hoop) : Hoop :=
  let t := { x.tmb with normal := x.tmb.normal ++ [o] }
  { x with tmb := { t with normalMax := max t.normalMax t.normalQ.length } }

/-- Post STAGE_STD for the next standing epoch once it lies within 2 s and nothing is staged before it (R90). Commits at one epoch
are one stage (R49). -/
def postStage (x : Hoop) : Hoop :=
  match nextStage x with
  | none => x
  | some c =>
    if c.stage = .waiting ∧ c.epoch ≤ x.now + 2000000000 ∧ !x.tmb.urgent.any (fun o => o.code == 9) then
      let o : TOp := { code := 1, seq := c.key }
      postNormal o { x with
        cm := { x.cm with pending := x.cm.pending.map (fun d => if d.epochNs = c.epochNs ∧ !d.delta.isEmpty then { d with stage := .posted } else d) } }
    else x

/-- Post an urgent operation. -/
def postUrgent (o : TOp) (x : Hoop) : Hoop :=
  let t := { x.tmb with urgent := x.tmb.urgent ++ [o] }
  { x with tmb := { t with urgentMax := max t.urgentMax t.urgentQ.length } }

/-- Take back the stage of every commit that is posted or armed, for a commit at or before its epoch (R49, R91): a posted stage
will find nothing to do (R139), a staged one is disarmed and its idle bank restored by DISARM. -/
def unstage (x : Hoop) : Hoop :=
  let armed := x.cm.pending.find? (fun c => match c.stage with | .armed _ => true | _ => false)
  let x := { x with cm := { x.cm with pending := x.cm.pending.map (fun c => if c.stage = .posted then { c with stage := .waiting } else c) } }
  match armed with
  | some c => (match c.stage with
    | .armed k => postUrgent { code := 9, seq := c.key, cmp := some k } x
    | _ => x)
  | none => x

/-- Take back the stage of a pricking entry for a commit that loads before it (R91, R130). -/
def unstagePrk (x : Hoop) : Hoop :=
  { x with
    tmb := { x.tmb with normal := ({ code := 3 } : TOp) :: x.tmb.normal ++ [{ code := 2 }] }
    prk := { x.prk with nextStaged := false } }

/-- Every thread of the commit is dropped (R111). -/
def Commit.allDropped (c : Commit) : Bool := c.changes.all (fun g => g.dropped || g.kind == .moved) && c.changes.any (·.dropped)

/-- Take a commit into the table: threads of CREATE and REOPEN go STAGED (R44), slots wait for their recompiled routes (R131),
stages are ordered again (R49, R91). -/
def takeCommit (seq ring tenant ens : Nat) (c : Compiled) (fcid : Option Nat) (x : Hoop) : Hoop :=
  let deps := (x.loading.filter (fun d => decide (d.epochNs < ens) && !d.allDropped)).map Commit.key
  let before := x.cm.pending.any (fun d => decide (ens ≤ d.epochNs) && d.stage != .waiting)
  let x := if before && !c.delta.isEmpty then unstage x else x
  let x := if x.prk.nextStaged && !c.delta.isEmpty && decide (x.tb.cntOf ens < x.prk.nextEpoch) then unstagePrk x else x
  let cm : Commit :=
    { seq := seq, ring := ring, tenant := tenant, epochNs := ens, epoch := x.tb.cntOf ens, changes := c.changes,
      delta := c.delta, chans := c.chans, deps := deps, fcid := fcid, placed := x.pricking && !c.delta.isEmpty, slice := x.slice.gen }
  let x := { x with cm := { x.cm with pending := insCommit cm x.cm.pending } }
  let x := c.slots.foldl (fun (y : Hoop) q => { y with prk := { y.prk with slots := smUpd {} y.prk.slots q.1 (fun s => { s with pend := s.pend ++ [{ from_ := secondBoundary x, seq := seq, threads := q.2 }] }) } }) x
  let x := c.changes.foldl (fun y g => match g.kind with
    | .create => override g.inPort false (threadEvent g.inPort { g.after with st := .staged, route := [] } .none 0 seq 0xFFFF 0xFFFF
        (y.setThread g.inPort { g.after with st := .staged, route := [], seq := seq, ring := ring, epoch := cm.epoch }))
    | .reopen => setSt g.inPort .staged 0 seq 0xFFFF (override g.inPort false
        (y.updThread g.inPort (fun t => { t with prev := t.st, seq := seq, ring := ring, epoch := cm.epoch })))
    | _ => y) x
  postStage (pmcRaw 96 1 x)

/-- RESULT of an accepted commit (R358). -/
def commitResult (c : Compiled) : Nat := c.n + c.nch * 2 ^ 13 + cMaxOf c.chans * 2 ^ 26

/-- Decide a commit and take it where it passes: the completion's answer (R86, R358). RESULT names the failing entry of a BATCH. -/
def acceptCommit (k : Ctx) (w : Asker) (hasEpoch exact : Bool) (ens : Nat) (batch : Bool) (es : List Edit) (x : Hoop) : Ans × Hoop :=
  match decideCommit x w hasEpoch exact ens es with
  | .refuse st i => ({ status := st, result := if batch then i else 0 }, x)
  | .tagLimit t i => ({ status := 14, result := if batch then i else 0 }, raiseEv 37 [t] .hoop x)
  | .accept c e =>
    ({ status := 0, result := commitResult c, epochNs := some e },
      takeCommit k.seq w.ring (x.ring w.ring).tenant e c none x)

end Sys2Proof.Machine
end

