-- ==== Sys2Proof/Machine/Outcomes.lean ====
section
/-!
DEFINITION. How a commit ends: withdrawal and what depends on it (R112, R113, R92, R481),
the ends of the parts of a fabric commit (R409 to R413), and read responses (R373).
-/

namespace Sys2Proof.Machine

/-! ## The parts of a fabric commit -/

/-- A record of comparators 9 to 13. -/
def Hoop.fabSlots (x : Hoop) : List Nat := (List.range 5).filter (fun s => (smFind x.wlm.fabs s).isSome)

/-- The slot that holds a fabric commit. -/
def fabOf (x : Hoop) (initiator fcid : Nat) : Option Nat :=
  x.fabSlots.find? (fun s => match smFind x.wlm.fabs s with
    | some f => f.initiator == initiator && f.fcid == fcid
    | none => false)

def setFab (s : Nat) (f : Fab) (x : Hoop) : Hoop := { x with wlm := { x.wlm with fabs := smPut x.wlm.fabs s f } }

def freeFab (s : Nat) (x : Hoop) : Hoop := { x with wlm := { x.wlm with fabs := smDel x.wlm.fabs s } }

/-- A member's part has ended (R411): DONE to the initiator, event 520, the comparator free. The initiator keeps its record until the
outcome is raised. RESULT: 0 loaded, 1 cancelled, 2 aborted by a fault. -/
def fabEnd (initiator fcid result reason : Nat) (x : Hoop) : Hoop :=
  match fabOf x initiator fcid with
  | none => x
  | some s =>
    match smFind x.wlm.fabs s with
    | none => x
    | some f =>
      if f.init then setFab s { f with st := if result = 0 then 4 else 5, localSeq := none, reason := if reason = 0 then f.reason else reason } x
      else
        let reason := if reason != 0 then reason else if f.reason != 0 then f.reason else if result = 2 then 6 else 0
        freeFab s (raiseEv 520 [fcid, initiator, result, reason] .hoop
          (originate initiator 8 (leBytes 6 fcid ++ leBytes 1 result ++ [0]) x))

/-! ## Withdrawal -/

/-- Give back what a commit held: threads it staged return to their state before, or end (R44, R92). A thread darked meanwhile stays
DARKED. -/
def undoChange (seq : Nat) (g : Change) (x : Hoop) : Hoop :=
  let t := x.thread g.inPort
  if g.dropped || t.st != .staged then x
  else match g.kind with
    | .create => threadEvent g.inPort { t with st := .none } .staged 0 seq 0xFFFF 0xFFFF ({ x with wlm := { x.wlm with chains := smDel x.wlm.chains g.inPort } }.setThread g.inPort {})
    | .reopen => setSt g.inPort t.prev 0 seq 0xFFFF (override g.inPort true x)
    | _ => x

/-- Withdraw one commit with an outcome: out of the table; a posted stage finds nothing to do (R139); disarmed and its idle bank restored where it was
staged; other commits of the same staging are staged again (R49, R112, R94). `note` raises event 324 where R112, R113 or R92 ends it (R115). -/
def withdraw (c : Commit) (code : Nat) (note : Bool) (x : Hoop) : Hoop :=
  let x := { x with cm := { x.cm with pending := x.cm.pending.filter (fun d => d.key != c.key) } }
  let others := fun (y : Hoop) => { y with
    cm := { y.cm with pending := y.cm.pending.map (fun d => if d.epochNs = c.epochNs ∧ c.stage = .posted then { d with stage := .waiting } else d) } }
  let x := match c.stage with
    | .armed k => postUrgent { code := 9, seq := c.key, cmp := some k } x
    | .posted => others x
    | .waiting => x
  let x := c.changes.foldl (fun y g => undoChange c.seq g y) x
  let x := if note && [3, 4, 6].contains code then raiseEv 324 [c.seq, code] (.commit c.ring c.tenant) x else x
  let x := putOutcome (outcomeOf x c.seq c.ring c.tenant code c.epoch c.delta.length c.chans.length (cMaxOf c.chans) 0
      (c.changes.map (·.inPort))) x
  let x := match c.fcid with
    | some f => fabEnd (f % 4096) (f / 4096) (if code = 3 then 1 else 2) 0 x
    | none => x
  postStage x

/-- Withdraw, in epoch order, every pending commit that depends on a key, with the same outcome (R481). -/
def withdrawDeps : Nat → List Nat → Nat → Hoop → Hoop
  | 0, _, _, x => x
  | fuel + 1, keys, code, x =>
    match x.cm.pending.find? (fun d => d.deps.any (fun k => keys.contains k)) with
    | some d => withdrawDeps fuel (d.key :: keys) code (withdraw d code true x)
    | none => x

/-- End a commit that does not load, and what was routed against it (R481). -/
def abortCommit (c : Commit) (code : Nat) (note : Bool) (x : Hoop) : Hoop :=
  withdrawDeps (x.cm.pending.length + 1) [c.key] code (withdraw c code note x)

/-- A pending commit that a SEQREF names for a ring: its own first, then those of the same tag; ring 0 sees all (R363). -/
def findPending (x : Hoop) (r seq : Nat) : Option Commit :=
  let ok := x.cm.pending.filter (fun c => c.seq % 2 ^ 48 == seq && (r == 0 || c.tenant == (x.ring r).tenant))
  match ok.find? (fun c => c.ring == r) with
  | some c => some c
  | none => ok.head?

/-- An outcome that a SEQREF names for a ring. -/
def findOutcome (x : Hoop) (r seq : Nat) : Option Outcome :=
  let ok := x.cm.history.filter (fun c => c.seq % 2 ^ 48 == seq && (r == 0 || c.tenant == (x.ring r).tenant))
  match ok.find? (fun c => c.ring == r) with
  | some c => some c
  | none => ok.head?

/-! ## Read responses (R373) -/

/-- Write a response of whole records of one size and answer how many were written. A hoop whose buffer is absent writes none. -/
def respond (k : Ctx) (size : Nat) (recs : List Bytes) (x : Hoop) : Ans × Hoop :=
  match k.tlv (if x.isB then 5 else 4) with
  | none => ({ status := 0 }, x)
  | some b =>
    let room := (field b 8 4 - 16) / max 1 size
    let out := recs.take room
    let head := leBytes 6 k.seq ++ [if x.isB then 1 else 0, 0] ++ leBytes 4 out.length ++ leBytes 4 (min (recs.length - out.length) 0xFFFFFFFF)
    ({ status := 0, result := out.length },
      { x with mbx := { x.mbx with responses := x.mbx.responses ++ [{ addr := BitVec.ofNat 64 (field b 0 8), bytes := head ++ out.flatten }] } })

end Sys2Proof.Machine
end

