-- ==== Sys2Proof/Machine/Clock.lean ====
section
/-!
DEFINITION. The timebase: comparators (R68, R69), snapshots and the anchor (R66), PPS (R76, R77), the servos and the
domain switch (R70 to R75), the time link (R78), and the two PTP commands.
-/

namespace Sys2Proof.Machine

/-! ## Comparators -/

def Tb.cmp (t : Tb) (k : Nat) : Cmp := smGet {} t.cmps k

def Hoop.setCmp (x : Hoop) (k : Nat) (c : Cmp) : Hoop := { x with tb := { x.tb with cmps := smSet {} x.tb.cmps k c } }

/-- Arm a comparator at an extended count in 1/16 ns: none where it lies less than 100 ns or more than 2 s ahead (R69). -/
def cmpArm (k t16 : Nat) (x : Hoop) : Option Hoop :=
  if x.now + 100 ≤ t16 / 16 ∧ t16 / 16 ≤ x.now + 2000000000 then some (x.setCmp k { t16 := t16, armed := true, fired := false })
  else none

/-- Report a refused arm (R69, R79). -/
def lateArm (k t16 : Nat) (x : Hoop) : Hoop := raiseEv 68 [k, t16 / 16 % 2 ^ 32] .hoop x

/-- Arm a comparator for PTP nanoseconds, or hold the instant until it lies within 2 s (R69). -/
def armAt (k ns : Nat) (x : Hoop) : Hoop :=
  let c := x.tb.cntOf ns
  if x.now + 2000000000 < c then { x with tb := { x.tb with heldEvents := x.tb.heldEvents.filter (fun e => e.1 != k) ++ [(k, ns)] } }
  else match cmpArm k (c * 16) x with
    | some y => y
    | none => lateArm k (c * 16) x

/-- Disarm. -/
def cmpDisarm (k : Nat) (x : Hoop) : Hoop := x.setCmp k { x.tb.cmp k with armed := false }

/-- Disarm a comparator, and forget an instant held for it (R69). -/
def dropArm (k : Nat) (x : Hoop) : Hoop := cmpDisarm k { x with tb := { x.tb with heldEvents := x.tb.heldEvents.filter (fun e => e.1 != k) } }

/-- The comparator is armed and its time lies before the end of this tick: the tick is the last in which the accumulator is at or before T (R68). -/
def cmpDue (x : Hoop) (k : Nat) : Bool := (x.tb.cmp k).armed && x.tb.reached (x.tb.cmp k).t16

/-- The fine delay of a comparator that fires in this tick: T less the accumulator, in whole steps of 1/16 ns, at most one tick less a step (R68). -/
def fineDelay (t : Tb) (t16 : Nat) : Nat := min 31 ((t16 * 2 ^ 28 - t.full) / 2 ^ 28)

/-- The comparator fires: FIRED sets, it is no longer armed, and its fine delay is set. -/
def cmpFire (k : Nat) (x : Hoop) : Hoop :=
  x.setCmp k { x.tb.cmp k with armed := false, fired := true, fine := fineDelay x.tb (x.tb.cmp k).t16 }

/-- The comparator fires where it is due. -/
def cmpFireDue (k : Nat) (x : Hoop) : Hoop := if cmpDue x k then cmpFire k x else x

/-! ## Servo states -/

def Servo.code : Servo → Nat
  | .freerun => 0
  | .acquiring => 1
  | .locked => 2
  | .holdover => 3

/-- A domain by its role: 0 primary, anything else secondary. -/
def Hoop.dom (x : Hoop) (d : Nat) : Dom := if d = 0 then x.tb.pri else x.tb.sec

def Hoop.setDom (x : Hoop) (d : Nat) (v : Dom) : Hoop :=
  if d = 0 then { x with tb := { x.tb with pri := v } } else { x with tb := { x.tb with sec := v } }

/-- Change a domain's servo state, with event 64 or 65. -/
def setServo (d : Nat) (st : Servo) (x : Hoop) : Hoop :=
  let v := x.dom d
  if v.st = st then x
  else raiseEv (64 + min d 1) [v.st.code, st.code] .hoop
    (x.setDom d { v with st := st, since := x.now, good := 0, bad := 0, syncs := 0, limitOver := false, acqAt := if st = .acquiring then x.now else v.acqAt })

/-- TIME_VALID of R71: 1 where the active domain is LOCKED, and it stays 1 in HOLDOVER within its limit. -/
def timeOk (t : Tb) : Bool :=
  t.pri.configured && (t.pri.st == .locked || (t.pri.st == .holdover && t.timeValid && t.pri.holdLimit != 0 && !t.pri.limitOver))

/-- Bring TIME_VALID up to date, with event 67; a minute in which it was 0 says so (R389). -/
def updValid (x : Hoop) : Hoop :=
  let v := timeOk x.tb
  let x := if v then x else ledFlag 0 x
  if v = x.tb.timeValid then x else raiseEv 67 [bit v] .hoop { x with tb := { x.tb with timeValid := v } }

/-- This hoop steers its own count (R78). -/
def steers (x : Hoop) : Bool := !Config.duplex x.part || x.pair.role == .active

/-- The increments from the one that held at `since`; earlier ones are dropped. -/
def incsFrom (since : Nat) : List (Nat × Nat) → List (Nat × Nat)
  | a :: b :: l => if b.1 ≤ since then incsFrom since (b :: l) else a :: b :: l
  | l => l

/-- The increments of a history times the nanoseconds for which each held, from `since` to `now`. -/
def incArea (since now : Nat) : List (Nat × Nat) → Nat
  | [] => 0
  | [a] => a.2 * (now - max a.1 since)
  | a :: b :: l => a.2 * (max b.1 since - max a.1 since) + incArea since now (b :: l)

/-- Write the increment, never outside 2.0 ns ± 500 ppm (R63, R72). -/
def setInc (i : Int) (x : Hoop) : Hoop :=
  let v := clampI i 8585639625 8594229559
  { x with tb := { x.tb with inc := BitVec.ofInt 40 v, incHist := incsFrom (x.now - 60000000000) (x.tb.incHist ++ [(x.now, v.toNat)]) } }

/-- The increment as the servo's law leaves it: within 500 ppm of nominal, no more is stated (R72, assumption 4). -/
def steerInc (x : Hoop) : Hoop :=
  let (f, x) := x.fresh
  setInc ((0x0200000000 : Int) + ((f % 8589935 : Nat) : Int) - 4294967) x

/-- The mean increment of the last 60 s, or since ACQUIRING where that is shorter (R71): each increment counts for the time it held, and the mean is
rounded down (DESIGN CHOICE, assumption 131: the rule gives no weights). -/
def meanInc (x : Hoop) (v : Dom) : Nat :=
  let since := max (max (x.now - 60000000000) v.acqAt) (x.tb.incHist.head?.elim x.now (·.1))
  if x.now ≤ since then x.tb.inc.toNat else incArea since x.now (incsFrom since x.tb.incHist) / (x.now - since)

/-- Move the instants that start-up counts from, where the extended count moves by `d`. -/
def Boot.moved (d : Int) (b : Boot) : Boot :=
  { b with resetAt := ((b.resetAt : Int) + d).toNat, tecEnabledAt := b.tecEnabledAt.map (fun t => ((t : Int) + d).toNat) }

/-- This instant in the active domain's time, 1/16 ns. -/
def Tb.ptp16 (t : Tb) : Int := ((t.ptpOf t.now * 16 + t.frac.toNat / 2 ^ 28 : Nat) : Int)

/-- Arm comparator 7 for a second boundary; one less than 100 ns ahead is refused as a late arm, and the next is taken (R69, R76). -/
def ppsArm (ns : Nat) (x : Hoop) : Hoop :=
  let y := armAt 7 ns x
  if (y.tb.cmp 7).armed then y else armAt 7 (ns + 1000000000) y

/-- Step the count to the master and rewrite the anchor in the same tick (R66, R72): `off` in 1/16 ns, own time less the master's. The rule of TB_WRAP
speaks of the tick in which the count wraps and not of a step: TB_WRAP stays as it is (DESIGN CHOICE, assumption 133). -/
def countStep (off : Int) (x : Hoop) : Hoop :=
  let master := ((x.tb.ptp16 - off) / 16).toNat
  let t := { x.tb with acc := x.tb.acc - BitVec.ofInt 64 (off * 2 ^ 28) }
  let y : Hoop := { x with
    tb := { t with anchorCnt := t.now, anchorSec := master / 1000000000, anchorNs := master % 1000000000, anchorGen := t.anchorGen + 1
                   incHist := [(t.now, t.inc.toNat)] }
    boot := x.boot.moved ((t.now : Int) - (x.now : Int)) }
  if (y.tb.cmp 7).armed then ppsArm ((y.tb.ptpOf y.now / 1000000000 + 1) * 1000000000) (cmpDisarm 7 y) else y

/-- D of a switch: secondary time less primary time now, in ns (R74). -/
def secOff (x : Hoop) (c : Nat) : Int :=
  let d : Int := toSigned 32 (c + 2 ^ 32 - x.tb.secBase.toNat)
  (x.tb.secOffset * 2 ^ 24 + x.tb.secRate * d) / 2 ^ 40

/-- The roles of the two domains are exchanged, the anchor being that of the new primary, which lies `d` ahead of the former (R75). Counts armed stay;
instants beyond the horizon are converted again, but for a pricking's, which keeps its counts (R124). The rule says both that the roles swap at the tick
and that the former primary becomes the secondary as soon as it returns to ACQUIRING: the model swaps at the tick (DESIGN CHOICE, assumption 134). -/
def takeRoles (d : Int) (x : Hoop) : Hoop :=
  let t := { x.tb with
    pri := x.tb.sec, sec := x.tb.pri, secOffset := -x.tb.secOffset, secRate := -x.tb.secRate,
    heldEvents := x.tb.heldEvents.map (fun e => if 4 ≤ e.1 ∧ e.1 ≤ 6 then (e.1, ((e.2 : Int) + d).toNat) else e)
    domSwitches := x.tb.domSwitches + 1 }
  let x := { x with
    tb := t
    pmc := { x.pmc with switched := true }
    cm := { x.cm with pending := x.cm.pending.map (fun c => if x.now + 2000000000 < c.epoch then { c with epoch := t.cntOf c.epochNs } else c) } }
  let x := raiseEv 66 [ofSigned 64 d] .hoop (ledFlag 3 x)
  let x := if 10 < d.natAbs then jnlPut 3 0xFF 0xFFFF false (words [66, ofSigned 32 d]) x else x
  updValid x

/-- Swap the domains at one tick (R75): rate into the increment, offset into the anchor, which is rewritten, roles exchanged. -/
def switchDomains (x : Hoop) : Hoop :=
  let d := secOff x x.now
  let base : Int := ((x.tb.ptpOf x.now : Nat) : Int) + d
  let y := setInc ((x.tb.inc.toNat : Int) + (x.tb.inc.toNat : Int) * x.tb.secRate / 2 ^ 40) x
  takeRoles d { y with tb := { y.tb with
    anchorCnt := x.now, anchorSec := (base / 1000000000).toNat, anchorNs := (base % 1000000000).toNat, anchorGen := x.tb.anchorGen + 1 } }

/-- Switch by itself where the primary is lost and the secondary LOCKED (R75). -/
def autoSwitch (x : Hoop) : Hoop :=
  if (x.tb.pri.st = .holdover ∨ x.tb.pri.st = .freerun) ∧ x.tb.sec.st = .locked ∧ steers x then switchDomains x else x

/-- Into HOLDOVER: the increment freezes at its mean (R71). -/
def toHoldover (d : Nat) (x : Hoop) : Hoop :=
  let v := x.dom d
  if v.st = .acquiring ∨ v.st = .locked then
    let x := if d = 0 ∧ steers x then setInc (meanInc x v : Nat) x else x
    let x := setServo d .holdover x
    updValid (autoSwitch x)
  else x

/-- Picoseconds in 1/16 ns, to the nearest. -/
def ps16 (ps : Int) : Int := divRound (16 * ps) 1000

/-- What a Sync measures in a domain, 1/16 ns: the domain's own time at the stamp at the PCS, corrected by the latency of the PHY, less the master's
origin time and the correctionField (R70, R74). The mean path delay and the link's asymmetry are still in it. -/
def syncMeas (d : Nat) (corr : Int) (sec ns : Nat) (x : Hoop) : Int :=
  x.tb.ptp16 + (if d = 0 then 0 else secOff x x.now * 16) - ps16 (x.dom d).phyRx - ((sec * 1000000000 + ns : Nat) : Int) * 16 - corr

/-- The servo's filtered offset from the master (R70, R71): what the Sync measured, less the mean path delay and the asymmetry of the link, and `filt`,
what the filter, whose law is not stated, adds (assumption 136). -/
def syncOffset (d : Nat) (corr filt : Int) (sec ns : Nat) (x : Hoop) : Int :=
  syncMeas d corr sec ns x - ((x.dom d).mpd.toNat : Int) - ps16 (x.dom d).asym + filt

/-- A stamped Sync exchange (R71, R72): the servo's state, the step or the rate, source 14, the secondary's values (R74). Before ring 0 opens the servo
steps the count and leaves the rate alone (DESIGN CHOICE, assumption 132: the rule does not say whether it steers the rate as well). -/
def syncIn (d : Nat) (corr filt : Int) (sec ns : Nat) (utc : Int) (x : Hoop) : Hoop :=
  let v := x.dom d
  let off := syncOffset d corr filt sec ns x
  let x := pmcRaw 219 1 (x.setDom d { v with offset := off, utc := utc, masterSec := sec, masterNs := ns, syncs := v.syncs + 1
                                             rxStamp := x.stamp, rxFrac := BitVec.ofNat 4 (x.tb.frac.toNat / 2 ^ 28), meas := syncMeas d corr sec ns x
                                             good := if off.natAbs ≤ 80 then v.good + 1 else 0, bad := if 1600 < off.natAbs then v.bad + 1 else 0 })
  if !v.configured then x
  else
    let w := x.dom d
    let x := match w.st with
      | .freerun => if w.selected ∧ 4 ≤ w.syncs then setServo d .acquiring x else x
      | .acquiring => if 32 ≤ w.good then setServo d .locked x else x
      | .locked => if 4 ≤ w.bad then setServo d .acquiring x else x
      | .holdover => if w.selected then setServo d .acquiring x else x
    let x := if d = 0 then
        if !steers x then x
        else
          let x := if !x.tb.stepClosed then x else if 160000000 < off.natAbs then fault 14 noDet x else faultOff 14 x
          if (x.dom 0).st = .freerun then x
          else if x.tb.stepClosed then steerInc x
          else if off = 0 then x else countStep off x
      else
        let (f, x) := x.fresh
        let m : Int := secOff x x.now * 65536 - off * 4096
        { x with tb := { x.tb with secOffset := m, secBase := x.tb.cnt, secRate := toSigned 32 f } }
    updValid x

/-! ## Commands -/

/-- PTP_CFG (R70, R371). -/
def ptpCfgVerb : Verb :=
  { check := fun k x =>
      let o := if k.par 0 1 = 0 then x.tb.sec else x.tb.pri
      decide (k.par 0 1 ≤ 1 ∧ k.par 1 1 ≤ 127 ∧ k.par 2 1 ≤ 1 ∧ k.par 3 1 ≤ 3 ∧ k.par 4 1 ≤ 1) &&
        decide (-7 ≤ toSigned 8 (k.par 5 1) ∧ toSigned 8 (k.par 5 1) ≤ 1) &&
        decide (k.par 10 4 ≤ 1000000 ∧ k.par 14 4 ≤ 1000000 ∧ k.par 18 2 ≤ 3600) &&
        !(o.configured && bit o.port == k.par 2 1 && o.domainNumber.toNat == k.par 1 1)
    run := fun k x =>
      let d := k.par 0 1
      let y := x.setDom d { x.dom d with
        configured := true, domainNumber := BitVec.ofNat 7 (k.par 1 1), port := k.par 2 1 == 1, transport := BitVec.ofNat 8 (k.par 3 1),
        p2p := k.par 4 1 == 1, logInt := toSigned 8 (k.par 5 1), asym := toSigned 32 (k.par 6 4), phyTx := k.par 10 4, phyRx := k.par 14 4,
        holdLimit := k.par 18 2 }
      adminOk k x (updValid (storeSetting k d y)) }

/-- DOMAIN_SWITCH (R75): the hoop that steers the time switches; its peer follows it (R78). -/
def domainSwitchVerb : Verb := { check := anyForm, run := fun k x => adminOk k x (if steers x then switchDomains x else x) }

/-- PTP_CFG. -/
def execPtpCfg (h : HoopId) (r : Nat) (s : State) : Host.Outcome State Fault Refusal := .next (s.serve h r 0x40 ptpCfgVerb)

/-- The hoop `y` follows `a`, which steers the time (R78): the count and its increment, the anchor, whose rewrite it counts, and a switch of the
domains. -/
def followTime (a y : Hoop) : Hoop :=
  let moved := (a.tb.anchorCnt, a.tb.anchorSec, a.tb.anchorNs) ≠ (y.tb.anchorCnt, y.tb.anchorSec, y.tb.anchorNs)
  let z : Hoop := { y with
    tb := { y.tb with
      acc := a.tb.acc, wrap := a.tb.wrap, inc := a.tb.inc, incHist := a.tb.incHist
      anchorCnt := a.tb.anchorCnt, anchorSec := a.tb.anchorSec, anchorNs := a.tb.anchorNs
      anchorGen := if moved then y.tb.anchorGen + 1 else y.tb.anchorGen }
    boot := y.boot.moved ((a.now : Int) - (y.now : Int)) }
  if a.tb.domSwitches = y.tb.domSwitches then z
  else
    let w := takeRoles (-(secOff a a.now)) z
    { w with tb := { w.tb with domSwitches := a.tb.domSwitches } }

/-- The peer of the ACTIVE hoop `h` follows its time (R78). -/
def timeFollow (h : HoopId) (s : State) : State :=
  if Config.duplex s.a.part && (s.hoop h).pair.role == .active && !(s.hoop (other h)).boot.por then s.upd (other h) (followTime (s.hoop h)) else s

/-- DOMAIN_SWITCH. -/
def execDomainSwitch (h : HoopId) (r : Nat) (s : State) : Host.Outcome State Fault Refusal := .next (timeFollow h (s.serve h r 0x41 domainSwitchVerb))

/-- TB_SNAP: latch the count, the fraction and both domains' times (R66). -/
def snap (v : BitVec 32) (x : Hoop) : Hoop :=
  if v.getLsbD 0 then
    let p := x.tb.ptpOf x.now
    let q := (((p : Nat) : Int) + secOff x x.now).toNat
    { x with tb := { x.tb with
        snapCnt := x.tb.cnt, snapFrac := x.tb.frac, snapSec := BitVec.ofNat 48 (p / 1000000000), snapNs := BitVec.ofNat 32 (p % 1000000000),
        snap2Sec := BitVec.ofNat 48 (q / 1000000000), snap2Ns := BitVec.ofNat 32 (q % 1000000000) } }
  else x

def execTbSnap (h : HoopId) (v : BitVec 32) (s : State) : Host.Outcome State Fault Refusal := .next (s.act h (snap v))

/-- TB_CNT_READ: the read returns the count and latches TB_FRAC (R80). -/
def execTbCntRead (h : HoopId) (s : State) : Host.Outcome State Fault Refusal :=
  .next (s.act h (fun x => { x with bus := x.tb.cnt, tb := { x.tb with fracLatch := x.tb.frac } }))

/-- The next second boundary, PTP nanoseconds. -/
def nextSecond (x : Hoop) : Nat := (x.tb.ptpOf x.now / 1000000000 + 1) * 1000000000

/-- TB_PPS_CTRL_WRITE (R76, R80): a WIDTH of 0 or above 500,000 leaves WIDTH as it is (R9). -/
def ppsCtrl (v : BitVec 32) (x : Hoop) : Hoop :=
  let w := v.toNat / 256 % 2 ^ 19
  let en := v.getLsbD 0
  let x := { x with tb := { x.tb with
    ppsEn := en, ppsGate := v.getLsbD 1, ppsWidth := if 1 ≤ w ∧ w ≤ 500000 then BitVec.ofNat 19 w else x.tb.ppsWidth,
    ppsOut := x.tb.ppsOut && en } }
  if en && !(x.tb.cmp 7).armed then ppsArm (nextSecond x) x else x

def execTbPpsCtrlWrite (h : HoopId) (v : BitVec 32) (s : State) : Host.Outcome State Fault Refusal := .next (s.act h (ppsCtrl v))

/-- TB_CMP_FIRED_CLEAR: RW1C (R8, R80). -/
def firedClear (v : BitVec 32) (x : Hoop) : Hoop :=
  (List.range 16).foldl (fun y k => if v.getLsbD k then y.setCmp k { y.tb.cmp k with fired := false } else y) x

def execTbCmpFiredClear (h : HoopId) (v : BitVec 32) (s : State) : Host.Outcome State Fault Refusal := .next (s.act h (firedClear v))

/-- PPS_OUT_EDGE: comparator 7 fires at a second boundary (R76) and is armed for the next; its tick may begin up to 2 ns before the boundary
(R68). The pulse is high for the WIDTH that stands at its edge. GATE is applied at the edge and cuts no pulse that is already high (DESIGN CHOICE,
assumption 135: the rule says that the pulse is suppressed). -/
def ppsEdge (x : Hoop) : Hoop :=
  if cmpDue x 7 then
    let x := cmpFire 7 x
    let x := if x.tb.ppsEn && !(x.tb.ppsGate && !x.tb.timeValid) then
        { x with tb := { x.tb with ppsOut := true, ppsEnd := (x.tb.cmp 7).t16 / 16 + x.tb.ppsWidth.toNat * 1000 } } else x
    if x.tb.ppsEn then ppsArm (((x.tb.ptpOf x.now + 100) / 1000000000 + 1) * 1000000000) x else x
  else x

def execPpsOutEdge (h : HoopId) (s : State) : Host.Outcome State Fault Refusal := .next (s.act h ppsEdge)

/-- PPS_PULSE_END (R76): the pulse ends WIDTH after its edge. -/
def execPpsPulseEnd (h : HoopId) (s : State) : Host.Outcome State Fault Refusal :=
  .next (s.act h (fun x => if x.tb.reached (x.tb.ppsEnd * 16) then { x with tb := { x.tb with ppsOut := false } } else x))

/-- A PPS_IN edge as one hoop stamps it (R77). -/
def ppsIn (x : Hoop) : Hoop :=
  let r := x.tb.ptpOf x.now % 1000000000
  let dev : Int := if r ≤ 500000000 then (r : Int) else (r : Int) - 1000000000
  let x := { x with tb := { x.tb with ppsInStamp := x.tb.cnt, ppsInFrac := BitVec.ofNat 4 (x.tb.frac.toNat / 2 ^ 28), ppsInDev := dev } }
  if x.tb.ppsInLimit.toNat < dev.natAbs then raiseEv 69 [ofSigned 32 dev] .hoop x else x

/-- PPS_IN_EDGE: every enabled hoop stamps it. -/
def execPpsInEdge (s : State) : Host.Outcome State Fault Refusal := .next ((s.act .hoopA ppsIn).act .hoopB ppsIn)

/-- HELD_EVENT_SWEEP (R69): instants now within 2 s are armed, and the next stage is posted once its epoch is (R90). -/
def heldSweep (x : Hoop) : Hoop :=
  let near := x.tb.heldEvents.filter (fun e => decide (x.tb.cntOf e.2 ≤ x.now + 2000000000))
  let x := { x with tb := { x.tb with heldEvents := x.tb.heldEvents.filter (fun e => !decide (x.tb.cntOf e.2 ≤ x.now + 2000000000)) } }
  postStage (near.foldl (fun y e => armAt e.1 e.2 y) x)

def execHeldEventSweep (h : HoopId) (s : State) : Host.Outcome State Fault Refusal := .next (s.act h heldSweep)

/-- ANCHOR_REWRITE (R66): the anchor moves to the PTP second boundary just reached; nothing where none has been reached since its last rewrite. -/
def anchorRewrite (x : Hoop) : Hoop :=
  let sec := x.tb.ptpOf x.now / 1000000000
  if sec ≤ x.tb.anchorSec then x
  else { x with tb := { x.tb with anchorCnt := x.tb.cntOf (sec * 1000000000), anchorSec := sec, anchorNs := 0, anchorGen := x.tb.anchorGen + 1 } }

def execAnchorRewrite (h : HoopId) (s : State) : Host.Outcome State Fault Refusal := .next (s.act h anchorRewrite)

/-- TB_WRAP: the tick in which the count wraps (R64); nothing where the next tick does not wrap. -/
def execTbWrap (h : HoopId) (s : State) : Host.Outcome State Fault Refusal :=
  .next (s.act h (fun x => if x.tb.tick.prevWrapped then { x with tb := x.tb.tick } else x))

/-- SYNC_RECEIVED. -/
def execSyncReceived (h : HoopId) (d : Nat) (corr filt : Int) (origin : PtpTime) (utc : Int) (s : State) : Host.Outcome State Fault Refusal :=
  .next (timeFollow h (s.act h (syncIn d corr filt origin.sec origin.ns utc)))

/-- SYNC_TIMEOUT: no valid Sync for 3 s (R71, R75). -/
def execSyncTimeout (h : HoopId) (d : Nat) (s : State) : Host.Outcome State Fault Refusal := .next (timeFollow h (s.act h (toHoldover d)))

/-- HOLDOVER_LIMIT_EXPIRY (R71). -/
def limitExpiry (x : Hoop) : Hoop :=
  if x.tb.pri.st = .holdover then updValid { x with tb := { x.tb with pri := { x.tb.pri with limitOver := true } } } else x

def execHoldoverLimitExpiry (h : HoopId) (s : State) : Host.Outcome State Fault Refusal := .next (s.act h limitExpiry)

/-- FREERUN_TIMEOUT: no master for 3,600 s in HOLDOVER (R71); the increment is nominal in FREERUN. -/
def freerun (d : Nat) (x : Hoop) : Hoop :=
  if (x.dom d).st = .holdover ∧ !(x.dom d).selected then
    let x := if d = 0 ∧ steers x then setInc 0x0200000000 x else x
    updValid (autoSwitch (setServo d .freerun x))
  else x

def execFreerunTimeout (h : HoopId) (d : Nat) (s : State) : Host.Outcome State Fault Refusal := .next (timeFollow h (s.act h (freerun d)))

/-- MASTER_SELECTION (R71): a master lost is HOLDOVER. -/
def masterSel (d : Nat) (sel : Bool) (x : Hoop) : Hoop :=
  let x := x.setDom d { x.dom d with selected := sel, syncs := 0 }
  if sel then x else toHoldover d x

def execMasterSelection (h : HoopId) (d : Nat) (sel : Bool) (s : State) : Host.Outcome State Fault Refusal :=
  .next (timeFollow h (s.act h (masterSel d sel)))

/-- The mean path delay that a request and its response give, 1/16 ns (R70): the request's stamp lies `ago` behind this instant, the stamps at the PCS
corrected by the latencies of the PHY. With request-response the master received it at `rSec`, `rNs`, and the last Sync gave the other way; with
peer-to-peer the response arrives now, and the correctionField holds the peer's turnaround. -/
def pathDelay (d ago rSec rNs : Nat) (corr : Int) (x : Hoop) : Int :=
  let v := x.dom d
  let own := x.tb.ptp16 + (if d = 0 then 0 else secOff x x.now * 16)
  let t3 := own - (ago : Int) + ps16 v.phyTx
  if v.p2p then (own - ps16 v.phyRx - t3 - corr) / 2
  else (v.meas + (((rSec * 1000000000 + rNs : Nat) : Int) * 16 - t3 - corr)) / 2

/-- A request and its response (R70): both are PTP messages, and the mean path delay follows. -/
def delayIn (d ago rSec rNs : Nat) (corr : Int) (x : Hoop) : Hoop :=
  pmcRaw 219 2 (x.setDom d { x.dom d with mpd := BitVec.ofNat 32 (pathDelay d ago rSec rNs corr x).toNat })

/-- DELAY_REQUEST_RESPONSE. -/
def execDelayRequestResponse (h : HoopId) (d : Nat) (answer : DelayAnswer) (s : State) : Host.Outcome State Fault Refusal :=
  .next (s.act h (delayIn d answer.ago answer.received.sec answer.received.ns answer.corr))

/-- TIME_LINK_COMPARE (R78): the phase in 1/16 ns; sources 12 and 13 follow it. -/
def timeLink (phase : Nat) (ok : Bool) (x : Hoop) : Hoop :=
  if Config.duplex x.part then
    let x := { x with tb := { x.tb with linkOk := ok && decide (phase ≤ 32) } }
    let x := if 32 < phase then fault 12 noDet x else faultOff 12 x
    if 64 < phase || !ok then fault 13 noDet x else faultOff 13 x
  else x

/-- TIME_LINK_COMPARE: over a link that holds, the standby's count follows the holder's. -/
def execTimeLinkCompare (h : HoopId) (phase : Nat) (ok : Bool) (s : State) : Host.Outcome State Fault Refusal :=
  let t := s.act h (timeLink phase ok)
  .next (if ok then timeFollow .hoopB (timeFollow .hoopA t) else t)

end Sys2Proof.Machine
end

