-- ==== Sys2Proof/Machine/Drive.lean ====
section
/-!
DEFINITION. The needle and heater drive arrays (R161 to R180): windows, checks, ramps, range changes, tones, the
keeper's latches at a refresh boundary (R288), and what the two hoops compare at a refresh slot (R315, R317, R319).
-/

namespace Sys2Proof.Machine

/-! ## Fields -/

def Hoop.heater (x : Hoop) (e : Nat) : Heater := smGet {} x.drv.heaters e

def Hoop.updHeater (x : Hoop) (e : Nat) (f : Heater → Heater) : Hoop :=
  { x with drv := { x.drv with heaters := smSet {} x.drv.heaters e (f (x.heater e)) } }

def Hoop.tile (x : Hoop) (t : Nat) : Tile := smGet {} x.drv.tiles t

def Hoop.updTile (x : Hoop) (t : Nat) (f : Tile → Tile) : Hoop :=
  { x with drv := { x.drv with tiles := smSet {} x.drv.tiles t (f (x.tile t)) } }

def Hoop.tone (x : Hoop) (k : Nat) : Tone := smGet {} x.drv.tones k

/-- Elements of a tile (R35). -/
def tileElems (t : Nat) : List Nat := (List.range 32).map (fun j => 32 * t + j)

/-- Tiles of the hoop's part. -/
def Hoop.nT (x : Hoop) : Nat := Config.tiles x.part

/-- This hoop holds the token; always so in a single-hoop part (R174). -/
def Hoop.holds (x : Hoop) : Bool := !Config.duplex x.part || x.pair.token

/-! ## Dither (R163, R175, R176) -/

/-- The dither term of a tone now. -/
def toneTerm (x : Hoop) (k : Nat) : Int :=
  let t := x.tone k
  if t.en then ((t.amp.toNat : Int) * toSigned 16 (ofSigned 16 (Config.sineTable (t.acc.toNat / 2 ^ 22))) + 16384) / 32768 else 0

/-- The term is 0 while the element is IDLE or DARK and while the keeper forces it (R176). -/
def quiet (x : Hoop) (e : Nat) : Bool := (x.elem e).st == .idle || (x.elem e).st == .eyDark || x.forced e

/-- Count the clamp where it acts on a needle's code (R163). -/
def noteClamp (x : Hoop) (e : Nat) : Hoop :=
  if x.forced e || clampI (x.rawCode e) 0 16383 == x.rawCode e then x else { x with drv := { x.drv with nClamp := satInc x.drv.nClamp } }

/-- Sample a needle's dither at the start of a window (R176). -/
def sampleNeedle (x : Hoop) (e : Nat) : Hoop :=
  noteClamp (x.updNeedle e (fun v => { v with dither := if v.dtarget = 1 then toneTerm x v.tone.toNat else 0 })) e

/-- The dither term of a heater. -/
def heaterTerm (x : Hoop) (e : Nat) : Int :=
  let v := x.needle e
  if v.dtarget = 2 ∧ !quiet x e then toneTerm x v.tone.toNat else 0

/-- The code that a heater's source converts (R171). -/
def heaterConv (x : Hoop) (e : Nat) : Nat := (clampI (((x.heater e).out.toNat : Int) + heaterTerm x e) 0 4095).toNat

/-! ## Needle codes -/

/-- A change of the upper 5 bits of a needle code (R164). -/
def major (a b : NCode) : Bool := a.toNat / 512 != b.toNat / 512

/-- Load a needle's register past the slew limiter (R165): a ramp ends, a major transition is deglitched. -/
def loadReg (x : Hoop) (e : Nat) (c : NCode) : Hoop :=
  let v := x.needle e
  let m := major v.reg c
  let x := x.setNeedle e { v with reg := c, ramp := false, track := v.track || m }
  let x := if (x.tile (e / 32)).win.isSome then noteClamp x e else x
  if m then { x with drv := { x.drv with dglCnt := x.drv.dglCnt + 1 } } else x

/-- A per-tile write: both banks and the register (R162). -/
def writeNeedle (x : Hoop) (e : Nat) (c : NCode) : Hoop :=
  loadReg (x.updNeedle e (fun v => { v with bank0 := c, bank1 := c })) e c

/-- A per-tile write by TILE_UPDATE: on a tile in SLEW mode the register ramps toward the active bank (R165). -/
def updateNeedle (x : Hoop) (e : Nat) (c : NCode) : Hoop :=
  if (x.tile (e / 32)).nSlew then
    x.updNeedle e (fun v => { v with bank0 := c, bank1 := c, ramp := v.reg != c })
  else writeNeedle x e c

/-! ## Windows (R96, R167, R169) -/

/-- A refresh, dither or slew window is skipped and counted (R169). -/
def skipWindow (x : Hoop) : Hoop := pmcRaw 207 1 { x with drv := { x.drv with refSkip := satInc x.drv.refSkip } }

/-- Open a window on a tile. A drive window takes the place of any other, and one of another kind that opened in the same tick is skipped and counted;
another kind is skipped and counted while a window is open. The dither of every needle is sampled at the start of each but a slew window (R176). -/
def openWindow (t : Nat) (k : WinKind) (x : Hoop) : Hoop :=
  let v := x.tile t
  let begin_ := fun (y : Hoop) => y.updTile t (fun v => { v with win := some k, winStart := y.now, driven := v.driven || k == .drive })
  let sampled := fun (y : Hoop) => (tileElems t).foldl sampleNeedle (begin_ y)
  match k with
  | .drive => pmcRaw 208 1 (sampled (if v.win.isSome && v.win != some .drive && v.winStart == x.now then skipWindow x else x))
  | .refresh => if v.win.isSome then skipWindow x else pmcRaw 206 1 (sampled x)
  | .dither => if v.win.isSome then skipWindow x else sampled x
  | .slew => if v.win.isSome then skipWindow x else begin_ x

/-! ## Checks (R170) -/

/-- Count a failing window check and record it as the last one: 0 post, 1 pre, 2 integrity, 3 standby pre (R170, R180). -/
def noteCheck (kind e : Nat) (x : Hoop) : Hoop :=
  { x with drv := { x.drv with
      chkPost := if kind = 0 then satInc x.drv.chkPost else x.drv.chkPost
      chkPre := if kind = 0 then x.drv.chkPre else satInc x.drv.chkPre
      chkLast := BitVec.ofNat 32 (e + kind * 8192), chkTime := x.stamp } }

/-- A check of an element that has failed. A stitch is masked and UNUSABLE with source 33, an eyelet raises source 34, the standby source 35; the
record names the threads of the route map, the start of the window (a pre-check runs as its window is about to open) and the time of the check. -/
def checkFail (kind e : Nat) (x : Hoop) : Hoop :=
  let x := noteCheck kind e x
  if kind = 3 then fault 35 e x
  else
    let extra := [if kind = 1 then x.now else (x.tile (e / 32)).winStart, x.now] ++ resolve x 33 e
    if e < x.nS then
      faultOn 33 e false extra ((x.updNeedle e (fun v => { v with masked := true })).updElem e (fun v => { v with unusable := true }))
    else faultOn 34 e false extra x

/-- A failure that the proving period turns into a hand-back (R328): the element enters the output fault map, source 35 names it,
and the pair unit hands back. -/
def handBack (h : HoopId) (kind e : Nat) (s : State) : State :=
  let s := s.upd h (fun x => fault 35 e (if kind < 4 then noteCheck kind e { x with pair := { x.pair with ofm := insSorted e x.pair.ofm } }
    else { x with pair := { x.pair with ofm := insSorted e x.pair.ofm } }))
  let x := s.hoop h
  s.setDuo { s.duo with ho := some { kind := 2, fromB := x.isB, cause := 35, request := x.now, element := BitVec.ofNat 16 e, check := kind, cutTiles := [e / 32] } }

/-- A failing check of the holder: hand back where the hoop is proving and the former holder is eligible, else R170. -/
def failIn (h : HoopId) (kind e : Nat) (s : State) : State :=
  let x := s.hoop h
  if x.pair.proving && kind != 1 && kind != 3 && (s.hoop (other h)).eligFault && s.duo.ho.isNone then handBack h kind e s
  else s.upd h (checkFail kind e)

/-- Sources 33 to 35 clear at the end of the window that raised them (R170). -/
def clearChecks (t : Nat) (x : Hoop) : Hoop :=
  [33, 34, 35].foldl (fun y k => if (y.src k).live && (y.src k).det.toNat / 32 == t then faultOff k y else y) x

/-- Elements of the tile whose register differs from the active bank, neither ramping nor forced (R170). -/
def integrityFails (x : Hoop) (t : Nat) : List Nat :=
  (tileElems t).filter (fun e => (x.needle e).reg != x.activeCode e && !(x.needle e).ramp && !x.forced e)

/-! ## Keeper latches (R288) -/

/-- The codes that the latches should hold, and whether one differs. -/
def keeperWant (x : Hoop) : SMap NCode := (List.range x.n).foldl (fun m i => smSet 0 m i (x.darkCode i)) []

/-- Rewrite the latches and the image after a slice rebuild or an eyelet's change of band, where a code differs: they take effect at
a refresh boundary. -/
def keeperRefresh (x : Hoop) : Hoop :=
  let w := keeperWant x
  if w = x.dk.codes then x else { x with dk := { x.dk with pend := some (w, BitVec.ofNat 16 x.slice.temp) } }

/-- The CRC of latched codes: 2 bytes per eyelet in order. -/
def keeperCrc (x : Hoop) (m : SMap NCode) : Word := crc32 (((List.range x.n).map (fun i => leBytes 2 (smGet 0 m i).toNat)).flatten)

/-- Take a waiting update where the force is off (R288). -/
def keeperTake (x : Hoop) : Hoop :=
  match x.dk.pend with
  | some (m, sp) =>
    if x.dk.force then x
    else
      let c := keeperCrc x m
      raiseEv 463 [c.toNat, sp.toNat] .hoop { mramWrite (.keeper m sp) x with dk := { x.dk with codes := m, sp := sp, crc := c, pend := none, imageBad := false } }
  | none => x

/-! ## Comparison of the hoops (R317 to R319) -/

def LSt.code : LSt → Nat
  | .off => 0
  | .ff => 1
  | .settle => 2
  | .closed => 3
  | .hold => 4

/-- The signature of a tile: CRC-64 over the words of its elements. -/
def tileSig (x : Hoop) (t : Nat) : BitVec 64 :=
  crc64 (((tileElems t).map (fun e =>
    leBytes 8 ((x.needle e).reg.toNat + (x.activeCode e).toNat * 2 ^ 16 + (x.heater e).tgt.toNat * 2 ^ 32 + bit (x.heater e).tgtRange * 2 ^ 44
      + (x.loop e).st.code * 2 ^ 45))).flatten)

/-- Both hoops are in service. -/
def inService (s : State) : Bool :=
  Config.duplex s.a.part && [Role.active, Role.standby].contains s.a.pair.role && [Role.active, Role.standby].contains s.b.pair.role

/-- The hoop that loses an arbitration raises source 160 (R319). -/
def arbitrate (s : State) : State :=
  let aWins := decide (s.b.pair.health.toNat < s.a.pair.health.toNat) || (s.a.pair.health == s.b.pair.health && s.a.pair.strap)
  s.upd (if aWins then .hoopB else .hoopA) (fault 160 noDet)

/-- Note a mismatch of an item in a hoop (event 549). -/
def noteMismatch (item what : Nat) (x : Hoop) : Hoop :=
  raiseEv 549 [item, what] .hoop
    { x with pair := { x.pair with cmpMis := satInc x.pair.cmpMis, cmpLast := BitVec.ofNat 32 (what % 256 + item * 256) } }

/-- Compare the signatures of a tile in hoop `h` (R317): a first difference is counted, a second on consecutive frames goes to
arbitration. -/
def sigCompare (h : HoopId) (t : Nat) (s : State) : State :=
  if !inService s then s
  else
    let x := s.hoop h
    let mark := BitVec.twoPow 152 t
    if tileSig s.a t = tileSig s.b t then s.upd h (fun y => { y with pair := { y.pair with sigDiff := y.pair.sigDiff &&& ~~~mark, sigSame := y.pair.sigSame ||| mark } })
    else if x.pair.sigDiff.getLsbD t then arbitrate (s.upd h (noteMismatch 0 t))
    else s.upd h (fun y => raiseEv 549 [0, t] .hoop
      { y with pair := { y.pair with sigDiff := y.pair.sigDiff ||| mark, sigSame := y.pair.sigSame &&& ~~~mark, cmpSingle := satInc y.pair.cmpSingle,
                                     cmpLast := BitVec.ofNat 32 t } })

/-! ## The rows -/

/-- A late standby's delta for a tile (R315). -/
def catchupTile (t : Nat) (x : Hoop) : Hoop :=
  let mine := (x.pair.catchup.filter (fun c => c.1 == t)).map (·.2)
  let x := mine.flatten.foldl (fun y (d : DeltaEntry) => writeNeedle y d.elem d.ncode) x
  { x with pair := { x.pair with catchup := x.pair.catchup.filter (fun c => c.1 != t) } }

/-- The slot and frame of the refresh schedule (R168). -/
def refPos (t : Nat) (x : Hoop) : Hoop :=
  { x with drv := { x.drv with refSlot := BitVec.ofNat 8 t, refFrame := BitVec.ofNat 24 ((x.now - x.drv.refOrigin) / 100000) } }

/-- REFRESH_SLOT (R169): a refresh boundary, the pre-check, the window, the integrity check, and the comparison of the hoops. `fails`
are the elements whose electrode differs by more than 6 mV. A tile before its first write keeps its stages in high impedance (R177). -/
def refreshSlot (h : HoopId) (t : Nat) (fails : List Nat) (s : State) : State :=
  let x := s.hoop h
  if !x.drv.refRun || decide (160 ≤ t) then s
  else
    let s := s.upd h (fun y => keeperTake (refPos t y))
    if x.nT ≤ t then s
    else
      let s := s.upd h (catchupTile t)
      let opens := (x.tile t).driven && (x.tile t).win.isNone
      let bad := fails.filter (fun e => e / 32 == t)
      let s := if x.holds then (if opens then bad.foldl (fun s e => failIn h 1 e s) s else s)
        else if x.pair.role = .standby then bad.foldl (fun s e => failIn h 3 e s) s
        else s
      let s := if (x.tile t).driven then s.upd h (openWindow t .refresh) else s
      let s := if opens then (integrityFails (s.hoop h) t).foldl (fun s e => failIn h 2 e s) s else s
      sigCompare h t s

/-- DITHER_WINDOW (R168). -/
def ditherWindow (t : Nat) (x : Hoop) : Hoop :=
  if x.drv.refRun && (x.tile t).dith && (x.tile t).driven && decide (t < x.nT) then openWindow t .dither x else x

def execDitherWindow (h : HoopId) (t : Nat) (s : State) : Host.Outcome State Fault Refusal := .next (s.act h (ditherWindow t))

/-- One slew step of a needle toward the active bank (R164, R165). -/
def slewNeedle (step : Nat) (x : Hoop) (e : Nat) : Hoop :=
  let v := x.needle e
  if !v.ramp then x
  else
    let goal := (x.activeCode e).toNat
    let r := v.reg.toNat
    let n := if r < goal then min goal (r + step) else max goal (r - step)
    let x := loadReg x e (BitVec.ofNat 14 n)
    x.updNeedle e (fun v => { v with ramp := n != goal })

/-- A tile returns to DEGLITCH when its TILE_UPDATE is done and no needle ramps any more (R237). -/
def slewDone (t : Nat) (x : Hoop) : Hoop :=
  if !(x.tile t).nSlew || (tileElems t).any (fun e => (x.needle e).ramp) || x.tmb.normal.any (fun o => o.code == 4 && o.tiles.contains t) then x
  else x.updTile t (fun v => { v with nSlew := false })

/-- NEEDLE_SLEW_STEP: a PERIOD boundary of a tile in SLEW mode; when no needle ramps any more the tile returns to DEGLITCH (R237). -/
def needleStep (t : Nat) (x : Hoop) : Hoop :=
  if (tileElems t).any (fun e => (x.needle e).ramp) then
    let x := openWindow t .slew ((tileElems t).foldl (slewNeedle (x.tile t).nStep.toNat) x)
    slewDone t x
  else slewDone t x

def execNeedleSlewStep (h : HoopId) (t : Nat) (s : State) : Host.Outcome State Fault Refusal := .next (s.act h (needleStep t))

/-- WINDOW_END (R169, R170): the post-check, in the token holder; the window closes, unless the keeper's force holds it open (R162), and the
sources of this tile's checks clear. A tile whose post-check passes is proven (R327). -/
def windowEnd (h : HoopId) (t : Nat) (fails : List Nat) (s : State) : State :=
  let x := s.hoop h
  if (x.tile t).win.isNone then s
  else
    let bad := if x.holds then fails.filter (fun e => e / 32 == t) else []
    let s := bad.foldl (fun s e => failIn h 0 e s) s
    s.upd h (fun y => clearChecks t (y.updTile t (fun v => if y.dk.force && (eyeTiles y).contains t then v else { v with win := none })) |> fun y =>
      if y.pair.proving && bad.isEmpty then { y with pair := { y.pair with tilesProven := y.pair.tilesProven ||| BitVec.twoPow 152 t } } else y)

/-- DEGLITCH_RELEASE (R164): the track-and-hold lets the output go. -/
def execDeglitchRelease (h : HoopId) (e : Nat) (heater : Bool) (s : State) : Host.Outcome State Fault Refusal :=
  .next (s.act h (fun x => if heater then x.updHeater e (fun v => { v with track := false }) else x.updNeedle e (fun v => { v with track := false })))

/-! ## Heaters (R171, R172) -/

/-- A change of the upper 4 bits of a heater code (R164). -/
def majorH (a b : BitVec 12) : Bool := a.toNat / 256 != b.toNat / 256

/-- Move a heater's output code. -/
def setOut (e : Nat) (c : BitVec 12) (x : Hoop) : Hoop :=
  x.updHeater e (fun v => { v with out := c, track := v.track || majorH v.out c, reached := v.reached || (c == v.tgt && v.range == v.tgtRange) })

/-- Freeze the output for the range change. -/
def holdHeater (e : Nat) (x : Hoop) : Hoop := x.updHeater e (fun v => { v with hold := true })

/-- Move a heater toward its target as its tile's mode has it, or begin the change of range that the target asks for. -/
def moveHeater (e : Nat) (x : Hoop) : Hoop :=
  let v := x.heater e
  let slew := (x.tile (e / 32)).hSlew
  if v.hold then x
  else if v.range = v.tgtRange then (if slew && v.out != v.tgt then x else setOut e v.tgt x)
  else if v.range && decide (1023 < v.out.toNat) then (if slew then x else holdHeater e (setOut e 1023 x))
  else holdHeater e x

/-- A heater-port write (R172); one that arrives during the hold replaces the target. -/
def heaterPort (e : Nat) (c : BitVec 12) (r : Bool) (x : Hoop) : Hoop :=
  moveHeater e (x.updHeater e (fun v => { v with tgt := c, tgtRange := r }))

/-- One slew step of a heater (R164, R166). -/
def slewHeater (step : Nat) (x : Hoop) (e : Nat) : Hoop :=
  let v := x.heater e
  let goal := if v.range = v.tgtRange then v.tgt.toNat else if v.range then min v.out.toNat 1023 else v.out.toNat
  if v.hold then x
  else
    let o := v.out.toNat
    let n := if o < goal then min goal (o + step) else max goal (o - step)
    moveHeater e (setOut e (BitVec.ofNat 12 n) x)

/-- The gentle mode of R237 ends when every element of the tile lies within 1 LSB of its target. -/
def gentleEnd (t : Nat) (x : Hoop) : Hoop :=
  if (x.tile t).hStep = 1 ∧ (x.tile t).hPeriod = 1 ∧ (tileElems t).all (fun e => let v := x.heater e
      v.range == v.tgtRange && decide (((v.out.toNat : Int) - v.tgt.toNat).natAbs ≤ 1)) then
    x.updTile t (fun v => { v with hStep := 8, hPeriod := 0 })
  else x

/-- HEATER_SLEW_STEP: all heaters of a tile in SLEW mode step together. -/
def heaterStep (t : Nat) (x : Hoop) : Hoop :=
  if (x.tile t).hSlew && decide (t < x.nT) then gentleEnd t ((tileElems t).foldl (slewHeater (x.tile t).hStep.toNat) x) else x

def execHeaterSlewStep (h : HoopId) (t : Nat) (s : State) : Host.Outcome State Fault Refusal := .next (s.act h (heaterStep t))

/-- RANGE_HOLD_END (R172): the source switches range, the output code is converted, the hold is released. -/
def rangeEnd (e : Nat) (x : Hoop) : Hoop :=
  let v := x.heater e
  if !v.hold then x
  else
    let n := if v.range then min 4095 (4 * v.out.toNat) else (v.out.toNat + 2) / 4
    let x := x.updHeater e (fun v => { v with range := !v.range, out := BitVec.ofNat 12 n, hold := false, track := false })
    let x := jnlPut 0xA 0xFF 0xFFFF false (words [e, bit v.range, bit (!v.range)]) (pmcRaw 209 1 { x with drv := { x.drv with rangeChg := satInc x.drv.rangeChg } })
    moveHeater e x

def execRangeHoldEnd (h : HoopId) (e : Nat) (s : State) : Host.Outcome State Fault Refusal := .next (s.act h (rangeEnd e))

/-- What a compliance failure does (R170). -/
def heaterFail (e : Nat) (x : Hoop) : Hoop :=
  if e < x.nS then fault 36 e (x.updElem e (fun v => { v with unusable := true })) else fault 37 e x

/-- HEATER_COMPLIANCE_FAIL (R170): only while the output code is not zero; in the proving period a hand-back (R328). -/
def complFail (h : HoopId) (e : Nat) (s : State) : State :=
  let x := s.hoop h
  if (x.heater e).out = 0 ∨ x.nE ≤ e then s
  else
    let s := s.upd h (fun x => (x.updHeater e (fun v => { v with compl := true })) |> fun x =>
      { x with drv := { x.drv with complCnt := satInc x.drv.complCnt, complLast := BitVec.ofNat 13 e }
               pair := { x.pair with heatersBad := x.pair.heatersBad || x.pair.proving } })
    if x.pair.proving && (s.hoop (other h)).eligFault && s.duo.ho.isNone then handBack h 4 e s
    else s.upd h (heaterFail e)

def execHeaterComplianceFail (h : HoopId) (e : Nat) (s : State) : Host.Outcome State Fault Refusal :=
  .next (settle (if s.has h then complFail h e s else s))

/-- HTR_SUM above HTR_CEIL by more than 2 % (R170). -/
def overCeil (x : Hoop) : Bool := decide (102 * x.drv.hCeil.toNat < 100 * x.drv.hSum)

/-- HEATER_SUM_OVER: it has lasted 1 ms. -/
def execHeaterSumOver (h : HoopId) (s : State) : Host.Outcome State Fault Refusal :=
  .next (s.act h (fun x => if overCeil x then fault 38 noDet x else x))

/-- HTR_SUM_UPDATE (R173): the sum of the converted currents in microamperes; source 38 clears with its cause. -/
def sumUpdate (x : Hoop) : Hoop :=
  let s := ((x.drv.heaters.map (fun e => heaterConv x e.1 * (if e.2.range then 8000 else 2000))).sum) / 4096
  let x := { x with drv := { x.drv with hSum := s } }
  if overCeil x then x else faultOff 38 x

def execHtrSumUpdate (h : HoopId) (s : State) : Host.Outcome State Fault Refusal := .next (s.act h sumUpdate)

/-- REFRESH_ORIGIN (R168): comparator 8 fires and frame 0 begins. -/
def refOrigin (x : Hoop) : Hoop :=
  if cmpDue x 8 then
    let x := cmpFire 8 x
    { x with drv := { x.drv with refRun := true, refOrigin := x.now, refSlot := 0, refFrame := 0 } }
  else x

def execRefreshOrigin (h : HoopId) (s : State) : Host.Outcome State Fault Refusal := .next (s.act h refOrigin)

/-- PHASE_ACCUMULATOR_TICK (R175): every enabled tone advances; a heater's clamp is counted at each tick (R176, R180). -/
def phaseTick (x : Hoop) : Hoop :=
  let x := { x with drv := { x.drv with tones := x.drv.tones.map (fun t => (t.1, if t.2.en then { t.2 with acc := t.2.acc + t.2.ftw } else t.2)) } }
  let clamps := (x.drv.heaters.filter (fun e => let raw := (e.2.out.toNat : Int) + heaterTerm x e.1
    decide (raw < 0) || decide (4095 < raw))).length
  (List.range clamps).foldl (fun y _ => { y with drv := { y.drv with hClamp := satInc y.drv.hClamp } }) x

def execPhaseAccumulatorTick (h : HoopId) (s : State) : Host.Outcome State Fault Refusal := .next (s.act h phaseTick)

end Sys2Proof.Machine
end

