-- ==== Sys2Proof/Machine/Inject.lean ====
section
/-!
DEFINITION. The injected queue and sequence of each ADC group (R195), and the operations that Tambour, the verdicts and
the darks use on them (R108, R110, R145, R152).
-/

namespace Sys2Proof.Machine

/-- An ADC group. -/
def Hoop.group (x : Hoop) (g : Nat) : Group := smGet {} x.mon.groups g

def Hoop.updGroup (x : Hoop) (g : Nat) (f : Group → Group) : Hoop :=
  { x with mon := { x.mon with groups := smSet {} x.mon.groups g (f (x.group g)) } }

/-- Groups that exist. -/
def Hoop.nG (x : Hoop) : Nat := Config.groups x.part

/-- Channels of a group. -/
def groupChans (x : Hoop) (g : Nat) : List Nat := ((List.range 128).map (fun j => 128 * g + j)).filter (fun c => decide (c < Config.chans x.part))

/-- A change of range or of front end (R186, R189): the next two conversions that start within 800 ns of it carry SETTLE. -/
def Chan.switched (v : Chan) (now : Nat) : Chan := { v with settle := 2, sw := now }

/-- Move queued channels into an empty sequence: the next 16 (R195). -/
def reloadInj (g : Group) : Group := if g.inj.isEmpty then { g with inj := g.injQueue.take 16, injQueue := g.injQueue.drop 16 } else g

/-- Queue an entry behind those of earlier instants. -/
def insInj (e : InjEntry) : List InjEntry → List InjEntry
  | [] => [e]
  | f :: fs => if e.from_ < f.from_ then e :: f :: fs else f :: insInj e fs

/-- Append one channel to the queue of its group. A stage never replaces a running sequence (R195). -/
def injectOne (e : InjEntry) (x : Hoop) : Hoop := x.updGroup (e.chan / 128) (fun g => { g with injQueue := insInj e g.injQueue })


/-- INJ_DONE of a group: while its queue holds channels the injector posts INJ_RELOAD (R152, R195). -/
def injDone (g : Nat) (x : Hoop) : Hoop :=
  if (x.group g).inj.isEmpty && !(x.group g).injQueue.isEmpty && !x.tmb.urgent.any (fun o => o.code == 8 && o.group == g) then
    postUrgent { code := 8, group := g } x
  else x

/-- The profile in force (R29): VERIFY while an entry of a commit or a pricking whose trigger has fired remains; a dark confirmation that belongs
to no commit does not change it. -/
def Group.profileAt (g : Group) (now : Nat) : BitVec 2 :=
  if (g.inj ++ g.injQueue).any (fun e => decide (e.from_ ≤ now) && decide (0 < e.seq)) then 1 else g.profile

/-- Entries leave a group, by their verdicts or because INJ_OP clears them; with the last of a sequence INJ_DONE is raised (R195). -/
def injDrop (g : Nat) (f : InjEntry → Bool) (x : Hoop) : Hoop :=
  if (x.group g).inj.any f || (x.group g).injQueue.any f then
    injDone g (x.updGroup g (fun v => { v with inj := v.inj.filter (fun e => !f e), injQueue := v.injQueue.filter (fun e => !f e) }))
  else x

/-- The entries of a channel whose trigger had fired by an instant leave: it has its verdict (R195). -/
def injLeave (c at_ : Nat) (x : Hoop) : Hoop := injDrop (c / 128) (fun e => e.chan == c && decide (e.from_ ≤ at_)) x

/-- Every entry of a channel leaves. -/
def injClose (c : Nat) (x : Hoop) : Hoop := injDrop (c / 128) (fun e => e.chan == c) x

/-- Clear the entries of a key from every sequence and queue (INJ_OP 4). -/
def clearInj (key : Nat) (x : Hoop) : Hoop := (List.range x.nG).foldl (fun y g => injDrop g (fun e => e.seq == key) y) x

/-- The channels of a commit whose epoch is reached are judged for it alone: the entries of earlier instants give way (R105). -/
def supersede (chans : List Nat) (key from_ : Nat) (x : Hoop) : Hoop :=
  (nub (chans.map (· / 128))).foldl (fun y g => injDrop g (fun e => chans.contains e.chan && e.seq != key && decide (e.from_ ≤ from_)) y) x

/-- Append channels for a trigger that is still to come, and load each group whose sequence is empty (INJ_OP 1). -/
def injectAt (chans : List Nat) (key from_ : Nat) (dark : Bool) (x : Hoop) : Hoop :=
  let y := chans.foldl (fun y c => injectOne { chan := c, seq := key, from_ := from_, dark := dark } y) x
  (nub (chans.map (· / 128))).foldl (fun y g => y.updGroup g reloadInj) y

/-- The first conversion of each channel that starts at or after an instant is to carry SETTLE (R189). -/
def oweSettle (chans : List Nat) (from_ : Nat) (x : Hoop) : Hoop :=
  chans.foldl (fun y c => y.updChan c (fun v => { v with owe := insSorted from_ v.owe })) x

/-- Inject channels as at an epoch that is now: what was injected for them before gives way (R45, R105). -/
def inject (chans : List Nat) (key from_ : Nat) (dark : Bool) (x : Hoop) : Hoop :=
  injectAt chans key from_ dark
    ((nub (chans.map (· / 128))).foldl (fun y g => y.updGroup g (fun v =>
      let old : InjEntry → Bool := fun e => chans.contains e.chan && decide (e.from_ ≤ from_)
      { v with inj := v.inj.filter (fun e => !old e), injQueue := v.injQueue.filter (fun e => !old e) })) x)

/-- Entries of a channel in its group's sequence and queue. -/
def injAll (x : Hoop) (c : Nat) : List InjEntry :=
  let g := x.group (c / 128)
  (g.inj ++ g.injQueue).filter (fun e => e.chan == c)

/-- An entry of a channel, where it has one. -/
def injOf (x : Hoop) (c : Nat) : Option InjEntry := (injAll x c).head?

/-- The entry of a channel whose trigger had fired by an instant. -/
def injDue (x : Hoop) (c at_ : Nat) : Option InjEntry := (injAll x c).find? (fun e => decide (e.from_ ≤ at_))

/-- Confirm an eyelet dark: its tap is injected 1.0 µs after the write and must read dark twice (R110). -/
def confirmDark (i : Nat) (x : Hoop) : Hoop :=
  let e := x.eyelet i
  oweSettle [e] (x.now + 1000) (inject [e] 0 (x.now + 1000) true (x.updChan e (fun c => { c with dark := 0 })))

/-- A source without a standing condition asserts and returns: each occurrence is a new fault (R95, R108, assumption 20). -/
def pulse (s det : Nat) (extra : List Nat) (x : Hoop) : Hoop := faultOff s (faultOn s det false extra x)

end Sys2Proof.Machine
end

