-- ==== Sys2Proof/Machine/Tambour.lean ====
section
/-!
DEFINITION. Tambour's operations (R138 to R160): what it may take and when, staging of standing commits, restores, tile updates, darks,
stops and resumption. An operation that ROM microcode runs is one whole row, or one stop of it (assumption 21).
-/

namespace Sys2Proof.Machine

/-! ## What Tambour takes (R151, R157) -/

/-- Tambour is at DISPATCH, and no stop waits for its next knot. -/
def Tmb.runs (t : Tmb) : Bool := t.st == .idle && t.stopReq.isNone

/-- The idle bank is free for a stage: none is staged, and no standing comparator is armed (R90). -/
def bankFree (x : Hoop) : Bool := !x.tmb.dacStaged && (List.range 4).all (fun k => !(x.tb.cmp k).armed)

/-- Epoch of the first pending commit that stages. -/
def firstStd (x : Hoop) : Option Nat := (x.cm.pending.find? (fun c => !c.delta.isEmpty)).map (·.epoch)

/-- The next strobe is a pricking entry's, not a standing commit's (R130). -/
def entryFirst (x : Hoop) : Bool :=
  match firstStd x with
  | some e => x.prk.active.isSome && decide (x.prk.nextEpoch ≤ e)
  | none => true

/-- A normal entry is eligible: a stage waits for the strobe before it (R89, R90, R125), and under the hold only roll-back and
completion operations are (R157). -/
def eligible (x : Hoop) (o : TOp) : Bool :=
  (o.roll || !x.tmb.hold) && (o.code != 1 || (bankFree x && !entryFirst x)) && (o.code != 2 || (bankFree x && entryFirst x))

/-- The urgent operation taken next. -/
def nextUrgent (x : Hoop) : Option TOp := x.tmb.urgentQ.find? (fun o => o.roll || !x.tmb.hold)

/-- The operation that Tambour takes next: darks, then urgent, then the oldest eligible normal one. A saved operation goes before those of its own
queue and after those that pre-empt it (R151). -/
def nextOp (x : Hoop) : Option TOp :=
  if x.tmb.darkReq != 0 then some { code := 0x10 }
  else if x.tmb.savedU.isSome then none
  else match nextUrgent x with
    | some o => some o
    | none => if x.tmb.savedN.isSome then none else x.tmb.normalQ.find? (eligible x)

/-- The next operation, where Tambour runs and it has this code. -/
def takes (x : Hoop) (code : BitVec 6) : Option TOp :=
  if x.tmb.runs then (nextOp x).filter (fun o => o.code == code) else none

/-- Take one operation off a queue. -/
def dropOp (o : TOp) : List TOp → List TOp
  | [] => []
  | p :: ps => if p = o then ps else p :: dropOp o ps

/-- An operation is complete (R160). -/
def opDone (o : TOp) (x : Hoop) : Hoop :=
  pmcRaw 105 1 { x with tmb := { x.tmb with
    op := o.code, opsDone := x.tmb.opsDone + 1, urgent := dropOp o x.tmb.urgent, normal := dropOp o x.tmb.normal } }

/-! ## Restore (R94) -/

/-- COPY: every idle bank takes its active bank; DAC_STAGED and the strobe tile mask clear. -/
def restoreIdle (x : Hoop) : Hoop :=
  { x with
    drv := { x.drv with needles := x.drv.needles.map (fun e =>
      (e.1, if x.drv.bankSel then { e.2 with bank0 := e.2.bank1 } else { e.2 with bank1 := e.2.bank0 })) }
    tmb := { x.tmb with dacStaged := false, stagedSeq := none, strobeTiles := [], stageDelta := [] } }

/-- RESTORE_IDLE. -/
def restoreOp (x : Hoop) : Hoop :=
  match takes x 3 with
  | some o => opDone o (restoreIdle x)
  | none => x

/-! ## Corrected words (R147) -/

/-- A single-bit error is corrected and counted; event 329 at most once per millisecond and store. -/
def eccFix (nano : Bool) (addr : BitVec 12) (x : Hoop) : Hoop :=
  let ms := x.now / 1000000
  let sec := x.now / 1000000000
  let told := (if nano then x.tmb.eccEvNano else x.tmb.eccEvMicro) = some ms
  let x := { x with tmb := { x.tmb with
    eccNano := if nano then satInc x.tmb.eccNano else x.tmb.eccNano
    eccMicro := if nano then x.tmb.eccMicro else satInc x.tmb.eccMicro
    eccSec := sec, eccSecCnt := if x.tmb.eccSec = sec then x.tmb.eccSecCnt + 1 else 1
    eccLast := BitVec.ofNat 32 (addr.toNat + bit nano * 4096)
    eccEvNano := if nano then some ms else x.tmb.eccEvNano
    eccEvMicro := if nano then x.tmb.eccEvMicro else some ms } }
  if told then x else raiseEv 329 [bit nano, addr.toNat] .hoop x

/-! ## Stops (R155, R156) -/

/-- TMB_ABORT_INFO's layout. -/
def abortWord (op : BitVec 6) (applied last : Nat) : Word := BitVec.ofNat 32 (op.toNat + applied % 8192 * 64 + last % 8192 * 2 ^ 19)

/-- TMB_ABORT_INFO's layout for an operation with its elements in the order in which it writes them. -/
def opWord (op : BitVec 6) (es : List Nat) (applied : Nat) : Word := abortWord op applied (if applied = 0 then 0x1FFF else es.getD (applied - 1) 0)

/-- The operation in a save slot at a stop (R156): the urgent one where both are held. -/
def Tmb.saved (t : Tmb) : Option Run := match t.savedU with | some r => some r | none => t.savedN

/-- The abort record and the stopped event; the firmware's hold begins. `flags` are FORCED, ECC and STACK of TMB_ABORT_CTX. A stopped stage leaves its
queue; any other operation stays there to be completed (R157, R158). -/
def stopRecord (st : TmbSt) (op : Option TOp) (info : Word) (phase : Nat) (uaddr : BitVec 12) (flags source : Nat) (x : Hoop) : Hoop :=
  let pre := x.tmb.saved
  let ctx : Word := BitVec.ofNat 32 (uaddr.toNat + phase % 8 * 2 ^ 12 + flags + bit pre.isSome * 2 ^ 18 + (if op.isNone then 2 ^ 19 else 0) + source % 256 * 2 ^ 24)
  let stage := fun (o : TOp) => (o.code == 1 || o.code == 2) && (op == some o || x.tmb.savedN.any (fun r => r.op == o))
  raiseEv 327 [info.toNat, ctx.toNat, x.stamp.toNat] .hoop
    { x with tmb := { x.tmb with
        st := st, stopReq := none, hold := true, abortValid := true, abortInfo := info, abortCtx := ctx, abortTime := x.stamp, upc := uaddr, run := none, since := 0
        abortPre := match pre with | some r => opWord r.op.code (r.delta.map (·.elem)) r.wrote | none => x.tmb.abortPre
        stopped := op, normal := x.tmb.normal.filter (fun o => !stage o) } }

/-- Every pending commit ends with a stop of Tambour before its epoch: outcome ABORTED_FAULT (R21, R158, R482). -/
def abortAll (x : Hoop) : Hoop := x.cm.pending.foldl (fun y c => if y.cm.pending.any (fun d => d.key == c.key) then withdraw c 2 true y else y) x

/-! ## Staging a standing commit (R92, R93, R95, R113, R152) -/

/-- The commits that a posted stage is for: the one it names with those merged with it (R49), while they are posted. -/
def stageCommits (x : Hoop) (o : TOp) : List Commit :=
  match x.cm.pending.find? (fun c => c.stage == .posted && c.key == o.seq) with
  | none => []
  | some c => x.cm.pending.filter (fun d => d.stage == .posted && d.epochNs == c.epochNs)

/-- The codes of a stage: the union of its commits' deltas (R49). -/
def stageDeltaOf (x : Hoop) (cs : List Commit) : List DeltaEntry := (cs.map (liveDelta x)).flatten

/-- Write codes into the idle bank. -/
def writeIdle (ds : List DeltaEntry) (x : Hoop) : Hoop := ds.foldl (fun y d => y.setIdle d.elem d.ncode) x

/-- The stage is checked: DAC_STAGED and the strobe tile mask (R93, R145). -/
def markStaged (key : Nat) (ds : List DeltaEntry) (x : Hoop) : Hoop :=
  pmcRaw 104 ds.length { x with tmb := { x.tmb with dacStaged := true, stagedSeq := some key, stageDelta := ds, strobeTiles := sortNat (ds.map (fun d => d.elem / 32)) } }

/-- Each commit of a stage reports DAC_STAGED (R115). -/
def tellStaged (cs : List Commit) (x : Hoop) : Hoop :=
  cs.foldl (fun y c => raiseEv 320 [c.seq, c.delta.length] (.commit c.ring c.tenant) y) x

/-- Mark the commits of a stage as armed on comparator `k`. Every arming takes the next of the rotation, also that of a commit which R91 disarmed and
which is staged again (DESIGN CHOICE, assumption 128). -/
def markArmed (ns k : Nat) (x : Hoop) : Hoop :=
  { x with cm := { x.cm with
      rotation := (k + 1) % 4
      pending := x.cm.pending.map (fun d => if d.stage = .posted ∧ d.epochNs = ns then { d with stage := .armed k } else d) } }

/-- End commits of a stage; those merged with them that stand are staged again (R49, R95). -/
def abortStage (cs : List Commit) (code : Nat) (x : Hoop) : Hoop :=
  cs.foldl (fun y c => if y.cm.pending.any (fun d => d.key == c.key) then abortCommit c code true y else y) x

/-- Elements of a stage that read back wrong twice (R95). -/
def readBad (ds : List DeltaEntry) (bad1 bad2 : List Nat) : List Nat := (ds.map (·.elem)).filter (fun e => bad1.contains e && bad2.contains e)

/-- Load the injected sequences of a stage for epoch + 1.0 µs. -/
def stageInject (cs : List Commit) (x : Hoop) : Hoop := cs.foldl (fun y c => injectAt c.chans c.key (c.epoch + 1000) false y) x

/-- The digest of a stage (R317): CRC-64 over its delta entries (R83). -/
def stageDigest (x : Hoop) : BitVec 64 := crc64 ((x.tmb.stageDelta.map deltaBytes).flatten)

/-- Compare the stage digests once both hoops have reached DAC_STAGED for the same stage (R317). -/
def digestCompare (s : State) : State :=
  if inService s && s.a.tmb.dacStaged && s.b.tmb.dacStaged && s.a.tmb.stagedSeq == s.b.tmb.stagedSeq && stageDigest s.a != stageDigest s.b then
    let q := s.a.tmb.stagedSeq.getD 0 / 16
    arbitrate (s.hoops.foldl (fun s h => s.upd h (noteMismatch 1 q)) s)
  else s

/-! ## Tile updates (R152, R177, R482) -/

/-- The code of an element's present state: DARK for an eyelet that is not open, BAR parking for an idle stitch. -/
def presentCode (x : Hoop) (e : Nat) : NCode :=
  let v := x.elem e
  if x.nS ≤ e then (if v.st = .eyOpen ∧ !x.overridden (e - x.nS) then x.ncode e .eyOpen v.band false else x.darkCode (e - x.nS))
  else match v.st with
    | .bar => x.ncode e .bar v.band v.mixed
    | .cross => x.ncode e .cross v.band v.mixed
    | _ => x.ncode e .idle false false

/-- A stitch on the route of a thread or of a pending commit keeps its code (R482). -/
def routeHeld (x : Hoop) (e : Nat) : Bool :=
  x.thr.any (fun t => t.2.st != .none && (hopsOf x.part t.1 t.2.route).any (fun k => k.stitch == e)) ||
    x.cm.pending.any (fun c => c.changes.any (fun g => !g.dropped && (hopsOf x.part g.inPort g.after.route).any (fun k => k.stitch == e)))

/-- The elements of a tile that a TILE_UPDATE writes: those named in `park`, or every element of the tile. -/
def updateElems (o : TOp) (t : Nat) (x : Hoop) : List Nat := (tileElems t).filter (fun e => o.park.isEmpty || (o.park.contains e && !routeHeld x e))

/-- TILE_UPDATE writes elements of a tile, with its drive window. -/
def updateSome (o : TOp) (t : Nat) (es : List Nat) (x : Hoop) : Hoop :=
  let x := es.foldl (fun y e => updateNeedle (if e < y.nS ∧ !o.park.isEmpty then y.updElem e (fun v => { v with st := .idle, mixed := false }) else y) e
    (if e < y.nS ∧ !o.park.isEmpty then y.ncode e .idle false false else presentCode y e)) x
  openWindow t .drive (es.foldl (fun y e => y.updLoop e (fun l => if l.st = .off then { l with st := .ff, i := 0 } else l)) x)

/-- A tile of the operation is written: it leaves the operation's list, and with the last one the operation is complete. -/
def tileWritten (o : TOp) (t : Nat) (x : Hoop) : Hoop :=
  let x := x.updTile t (fun v => { v with written := true })
  let x := if (List.range x.nT).all (fun t => (x.tile t).written) then { x with drv := { x.drv with nFirstDone := true } } else x
  let rest := o.tiles.filter (· != t)
  if rest.isEmpty then slewDone t (opDone o x)
  else slewDone t { x with tmb := { x.tmb with op := 4, normal := x.tmb.normal.map (fun p => if p = o then { o with tiles := rest } else p) } }

/-- TILE_UPDATE at one tile's refresh slot. -/
def tileUpdate (t : Nat) (x : Hoop) : Hoop :=
  match takes x 4 with
  | some o => if !o.tiles.contains t || !x.drv.refRun then x else tileWritten o t (updateSome o t (updateElems o t x) x)
  | none => x

/-- Park elements at BAR (R482): TILE_UPDATE for their tiles. -/
def postPark (es : List Nat) (x : Hoop) : Hoop :=
  if es.isEmpty then x else postNormal { code := 4, tiles := sortNat (es.map (· / 32)), park := es } x

/-! ## Injection (R152, R195) -/

/-- INJ_RELOAD. -/
def injReload (g : Nat) (x : Hoop) : Hoop :=
  match takes x 8 with
  | some o => if o.group = g then opDone o (x.updGroup g reloadInj) else x
  | none => x

/-! ## DISARM -/

/-- Disarm a comparator, clear the injected entries of its commits, restore the idle bank, in this order and as far as a stop lets it (R158); commits
that were staged with it and still stand are staged again (R49, R91, R94). -/
def disarmCmp (steps k key : Nat) (x : Hoop) : Hoop :=
  let mine := x.cm.pending.filter (fun c => c.stage == .armed k)
  let x := if 1 ≤ steps then cmpDisarm k x else x
  let x := if 2 ≤ steps then (key :: mine.map Commit.key).foldl (fun y q => clearInj q y) x else x
  let x := if 3 ≤ steps then restoreIdle x else x
  { x with cm := { x.cm with pending := x.cm.pending.map (fun c => if c.stage = .armed k then { c with stage := .waiting } else c) } }

/-- DISARM of comparator `k`. -/
def disarm (k : Nat) (x : Hoop) : Hoop :=
  match takes x 9 with
  | some o => if o.cmp = some k then postStage (opDone o (disarmCmp 3 k o.seq x)) else x
  | none => x

/-! ## Darks (R108 to R110, R152, R154) -/

/-- Write one eyelet's DARK code by the per-tile path, open its tile's drive window, and have its tap confirm the dark. -/
def darkOne (i : Nat) (x : Hoop) : Hoop :=
  let e := x.eyelet i
  let x := writeNeedle x e (x.darkCode i)
  let x := x.updElem e (fun v => { v with st := .eyDark })
  confirmDark i (openWindow (e / 32) .drive { x with tmb := { x.tmb with darkReq := x.tmb.darkReq &&& ~~~(BitVec.twoPow 512 i) } })

/-- Eyelets whose request bit is set, in order. -/
def darkBits (x : Hoop) : List Nat := (List.range x.n).filter (fun i => x.tmb.darkReq.getLsbD i)

/-- EYELET_DARK serves every set bit. -/
def eyeletDark (x : Hoop) : Hoop :=
  match takes x 0x10 with
  | some o => pmcRaw 107 1 (opDone o ((darkBits x).foldl (fun y i => darkOne i y) x))
  | none => x

/-! ## Stops part way (R140, R155 to R158) -/

/-- What a stopped stage has changed by its phase (R158): idle-bank codes, DAC_STAGED, comparator, injection. -/
def partialStage (o : TOp) (phase applied : Nat) (x : Hoop) : Hoop :=
  match stageCommits x o with
  | [] => x
  | c :: cs =>
    let ds := stageDeltaOf x (c :: cs)
    let x := if phase = 0 then x else writeIdle (if phase = 1 then ds.take applied else ds) x
    let x := if 3 ≤ phase then markStaged c.key ds x else x
    let x := if 4 ≤ phase then (match cmpArm (x.cm.rotation % 4) (c.epoch * 16) x with
        | some y => markArmed c.epochNs (x.cm.rotation % 4) y
        | none => lateArm (x.cm.rotation % 4) (c.epoch * 16) x) else x
    if 5 ≤ phase then stageInject (c :: cs) x else x

/-- The same of a pricking stage, which arms nothing. -/
def partialPrk (phase applied : Nat) (x : Hoop) : Hoop :=
  let ds := prkDelta x
  let x := if phase = 0 then x else writeIdle (if phase = 1 then ds.take applied else ds) x
  let x := if 3 ≤ phase then { markStaged 0 ds x with tmb := { (markStaged 0 ds x).tmb with stagedSeq := none } } else x
  { x with prk := { x.prk with nextStaged := false } }

/-- A stopped TILE_UPDATE has written its elements in order, tile after tile. -/
def partialTiles (o : TOp) : List Nat → Nat → Hoop → Hoop
  | [], _, x => x
  | t :: ts, n, x =>
    let es := updateElems o t x
    if n = 0 then x
    else if n < es.length then updateSome o t (es.take n) x
    else
      let o' := { o with tiles := t :: ts }
      partialTiles { o with tiles := ts } ts (n - es.length) (if ts.isEmpty then updateSome o' t es (x.updTile t (fun v => { v with written := true })) else tileWritten o' t (updateSome o' t es x))

/-- The elements that an operation writes, in order. -/
def opElems (x : Hoop) (o : TOp) : List Nat :=
  if o.code = 1 then (stageDeltaOf x (stageCommits x o)).map (·.elem)
  else if o.code = 2 then (prkDelta x).map (·.elem)
  else if o.code = 4 then (o.tiles.map (fun t => updateElems o t x)).flatten
  else if o.code = 0x10 then (darkBits x).map x.eyelet
  else []

/-- What an operation has changed when it is stopped in a phase with elements applied (R158). RESTORE_IDLE and INJ_RELOAD are whole from phase 1 on,
and the three effects of DISARM follow each other in phases 1 to 3 (assumption 21). -/
def partialOp (o : TOp) (phase applied : Nat) (x : Hoop) : Hoop :=
  match o.code.toNat with
  | 1 => partialStage o phase applied x
  | 2 => partialPrk phase applied x
  | 3 => if phase = 0 then x else restoreIdle x
  | 4 => partialTiles o o.tiles applied x
  | 8 => if phase = 0 then x else x.updGroup o.group reloadInj
  | 9 => (match o.cmp with | some k => disarmCmp phase k o.seq x | none => x)
  | 0x10 => ((darkBits x).take applied).foldl (fun y i => darkOne i y) x
  | _ => x

/-- Stop the operation that runs: its partial effect, the record, the end of the pending commits. -/
def stopOp (st : TmbSt) (phase applied : Nat) (uaddr : BitVec 12) (flags source : Nat) (x : Hoop) : Hoop :=
  let o := nextOp x
  let es := (o.map (opElems x)).getD []
  let staging := match o with | some q => q.code == 1 || q.code == 2 | none => false
  let ph := if staging then min phase 5 else 0
  let n := if !staging then min applied es.length else if ph = 0 then 0 else if ph = 1 then min applied es.length else es.length
  let info := opWord ((o.map (·.code)).getD 0) es n
  let x := match o with | some q => partialOp q (if staging then ph else phase) n x | none => x
  abortAll (stopRecord st (match o with
    | some q => (if q.code = 4 then x.tmb.normal.find? (fun p => p.code == 4 && p.park == q.park) else some q)
    | none => none) info ph uaddr flags source x)

/-- A stack error (R142): Tambour stops at once with STACK, and source 22 asserts. -/
def stackStop (phase applied : Nat) (uaddr : BitVec 12) (x : Hoop) : Hoop := fault 22 noDet (stopOp .stopped phase applied uaddr (2 ^ 20) 0xFF x)

/-! ## STAGE_STD (R152) -/

/-- STAGE_STD, whole. One whose commit has been withdrawn finds nothing to stage (R139). -/
def stageStd (bad1 bad2 : List Nat) (why : StageEvent) (x : Hoop) : Hoop :=
  match takes x 1, (takes x 1).map (stageCommits x) with
  | some o, some (c :: cs) =>
    let all := c :: cs
    let x := match why with | .corrected n a => eccFix n a x | _ => x
    match why with
    | .stackError ph n a => stackStop ph n a x
    | _ =>
      let ds := stageDeltaOf x all
      let bad := readBad ds bad1 bad2
      let hit := all.filter (fun d => (liveDelta x d).any (fun v => bad.contains v.elem))
      let x := opDone o x
      if why = .deadline ∨ c.epoch < x.now + 500 then abortStage all 6 x
      else if !bad.isEmpty then bad.foldl (fun y e => pulse 32 e [] y)
          (abortStage hit 2 (hit.foldl (fun y d => (bad.filter (fun e => (liveDelta x d).any (fun v => v.elem == e))).foldl
            (fun z e => raiseEv 325 [d.seq, e] (.commit d.ring d.tenant) z) y) x))
      else if !x.ths.commitOk then abortStage all 4 (tellStaged all x)
      else
        let k := x.cm.rotation % 4
        match cmpArm k (c.epoch * 16) x with
        | none => abortStage all 6 (lateArm k (c.epoch * 16) (tellStaged all x))
        | some y => stageInject all (markArmed c.epochNs k (tellStaged all (markStaged c.key ds (writeIdle ds y))))
  | some o, _ => opDone o x
  | none, _ => x

/-! ## NOP and reserved codes (R149, R152) -/

/-- Codes that name no operation. -/
def reservedCode (c : BitVec 6) : Bool := !([0, 1, 2, 3, 4, 8, 9, 0xA, 0x10].contains c.toNat)

/-- NOP: the firmware posts it and it completes. -/
def tambourNop (x : Hoop) : Hoop := if x.tmb.runs && !x.tmb.hold && x.tmb.darkReq == 0 then opDone { code := 0 } x else x

/-- A reserved code ends at once with no effect; event 332. -/
def reservedOp (c : BitVec 6) (x : Hoop) : Hoop :=
  if x.tmb.runs && !x.tmb.hold && x.tmb.darkReq == 0 && reservedCode c then raiseEv 332 [c.toNat] .hoop (opDone { code := c } x) else x

end Sys2Proof.Machine
end

