-- ==== Sys2Proof/Machine/Microcode.lean ====
section
/-!
DEFINITION. Tambour's microsequencer (R140 to R149, R151, R156): the fields of microwords and nanowords, the stores with their check bits, the match and
override registers, conditions, sequencing, the units that a nanoword drives, knots and save slots; and Tambour's rows. An operation whose first
microaddress lies in the patch RAM runs here, two microcycles in each clock tick (assumptions 1, 21, 144); any other is the row of its ROM microcode.
-/

namespace Sys2Proof.Machine

/-! ## Words (R141, R145) -/

/-- Bits of a word from a place on. -/
def bitsAt {w : Nat} (v : BitVec w) (lo n : Nat) : Nat := v.toNat / 2 ^ lo % 2 ^ n

/-- A field whose encodings from `lim` on are undefined executes as 0 (R145). -/
def upTo (lim v : Nat) : Nat := if v < lim then v else 0

/-- A microword's fields. -/
structure MicroWord where
  naddr : Nat
  knot : Bool
  seqop : Nat
  cond : Nat
  target : BitVec 12
deriving DecidableEq, Repr

/-- Every WAIT and DISPATCH is a knot, whatever bit 20 holds (R140). -/
def microOf (v : BitVec 32) : MicroWord :=
  let op := bitsAt v 17 3
  { naddr := bitsAt v 21 11, knot := v.getLsbD 20 || op == 4 || op == 5, seqop := op, cond := bitsAt v 12 5, target := BitVec.ofNat 12 v.toNat }

/-- A nanoword's fields; `count` is 0 for the rest of the list. -/
structure NanoWord where
  lbOp : Nat := 0
  count : Nat := 0
  src : Nat := 0
  check : Bool := false
  bank : Nat := 0
  win : Bool := false
  sfOp : Nat := 0
  injOp : Nat := 0
  cmpOp : Nat := 0
  cmpSel : Nat := 0
  opnd : Bool := false
  bankOp : Nat := 0
deriving DecidableEq, Repr

def nanoOf (v : BitVec 128) : NanoWord :=
  { lbOp := upTo 5 (bitsAt v 0 4), count := upTo 257 (bitsAt v 4 9), src := upTo 4 (bitsAt v 13 3), check := v.getLsbD 16, bank := upTo 3 (bitsAt v 17 2)
    win := v.getLsbD 19, sfOp := upTo 4 (bitsAt v 32 3), injOp := upTo 5 (bitsAt v 48 3), cmpOp := upTo 4 (bitsAt v 64 3), cmpSel := upTo 15 (bitsAt v 67 4)
    opnd := v.getLsbD 71, bankOp := upTo 3 (bitsAt v 96 2) }

/-! ## Fetch (R146 to R149) -/

/-- What a fetch yields: a word, one that was corrected, or one with two wrong bits (R147). -/
inductive Fetch (w : Nat) | good (v : BitVec w) | mended (v : BitVec w) | bad
deriving DecidableEq, Repr

/-- Check a stored word. -/
def checkWord {d c : Nat} (code : BitVec d → BitVec c) (mend : BitVec d → BitVec c → Option (BitVec d)) (w : Checked d c) : Fetch d :=
  if code w.data = w.check then .good w.data
  else match mend w.data w.check with
    | some v => .mended v
    | none => .bad

/-- The microword at an address: ROM below 0xF00, patch RAM from there on. -/
def fetchMicro (t : Tmb) (a : BitVec 12) : Fetch 32 :=
  if t.badWords.contains (false, a.toNat) then .bad
  else checkWord Config.check32 Config.mend32 (if a.toNat < 0xF00 then
    { data := (Config.microRom a.toNat).setWidth 32, check := (Config.microRom a.toNat).extractLsb' 32 7 } else smGet {} t.micro a.toNat)

/-- The nanoword at an address; word 0 is the null nanoword (R141). -/
def fetchNano (t : Tmb) (a : Nat) : Fetch 128 :=
  if a = 0 then .good 0
  else if t.badWords.contains (true, a) then .bad
  else checkWord Config.check128 Config.mend128 (if a < 0x700 then
    { data := (Config.nanoRom a).setWidth 128, check := (Config.nanoRom a).extractLsb' 128 9 } else smGet {} t.nano a)

/-- The patch address to which an enabled match register redirects a ROM microaddress; the lowest number wins (R148). -/
def matchHit (t : Tmb) (a : BitVec 12) : Option (BitVec 12) :=
  ((List.range 32).find? (fun k =>
    let v := smGet 0 t.matchRegs k
    v.getLsbD 31 && decide (bitsAt v 0 12 < 0xF00) && bitsAt v 0 12 == a.toNat)).map (fun k => BitVec.ofNat 12 (0xF00 + bitsAt (smGet 0 t.matchRegs k) 12 8))

/-- The address that is fetched for a next microaddress. -/
def redirect (t : Tmb) (a : BitVec 12) : BitVec 12 := (matchHit t a).getD a

/-- Where DISPATCH begins an operation in the patch RAM: its dispatch override, else a match register on its entry of the dispatch table (R148,
R149). -/
def patchEntry (t : Tmb) (code : BitVec 6) : Option (BitVec 12) :=
  let v := smGet 0 t.overrides code.toNat
  if v.getLsbD 31 then some (BitVec.ofNat 12 (0xF00 + bitsAt v 0 8)) else matchHit t (Config.dispatchRom code.toNat)

/-- The patch runs an operation. -/
def Tmb.patches (t : Tmb) (code : BitVec 6) : Bool := (patchEntry t code).isSome

/-! ## Operands -/

/-- The comparator that an operation names: the next of the rotation for a stage (R90). -/
def opCmp (x : Hoop) (o : TOp) : Nat := if o.code = 1 then x.cm.rotation % 4 else o.cmp.getD 0

/-- Begin an operation in the patch: its element list, the channels it injects, its epoch. -/
def beginRun (o : TOp) (x : Hoop) : Hoop :=
  let cs := if o.code = 1 then stageCommits x o else []
  let ds := if o.code = 1 then stageDeltaOf x cs else if o.code = 2 then prkDelta x
    else ((opElems x o).map (fun e => mkDelta x e { st := (x.elem e).st, band := (x.elem e).band, mixed := (x.elem e).mixed, code := presentCode x e } false))
  let r : Run := {
    op := o, pc := (patchEntry x.tmb o.code).getD (Config.dispatchRom o.code.toNat), delta := ds, chans := cs.map (fun c => (c.key, c.chans))
    epoch := match cs with | c :: _ => c.epoch | [] => x.prk.nextEpoch }
  { x with tmb := { x.tmb with st := .running, op := o.code, upc := r.pc, run := some r } }

/-- A row of an operation: the patch begins it, or its ROM microcode runs whole. -/
def viaPatch (code : BitVec 6) (rom : Hoop → Hoop) (x : Hoop) : Hoop :=
  match takes x code with
  | some o => if x.tmb.patches code then beginRun o x else rom x
  | none => rom x

/-! ## Conditions (R143) -/

/-- A refresh boundary has been reached since an instant (R144, R168). -/
def boundarySince (x : Hoop) (from_ : Nat) : Bool :=
  x.drv.refRun && decide (x.drv.refOrigin ≤ x.now) && (decide (from_ < x.drv.refOrigin) ||
    decide ((from_ - x.drv.refOrigin) % 100000 / 625 + (from_ - x.drv.refOrigin) / 100000 * 160 < (x.now - x.drv.refOrigin) % 100000 / 625 + (x.now - x.drv.refOrigin) / 100000 * 160))

/-- A condition holds for an operation. `ack` says that the other hoop has acknowledged the token transfer. -/
def condTrue (x : Hoop) (ack : Bool) (r : Run) (cond : Nat) : Bool :=
  match cond with
  | 0 => true
  | 1 => decide (r.delta.length ≤ r.readBack) && !r.mismatch
  | 2 => (x.tb.cmp (opCmp x r.op)).fired
  | 3 => (x.group r.op.group).inj.isEmpty
  | 4 => boundarySince x (r.waitFrom.getD x.now)
  | 5 => ack
  | 6 => r.mismatch
  | 7 => decide (r.epoch < x.now + 500)
  | 8 => x.tmb.darkReq != 0
  | 9 => !Config.duplex x.part || x.pair.token
  | 10 => x.pricking
  | 11 => r.refused
  | _ => false

/-! ## Sequencing (R142) -/

/-- What follows a word: the next microaddress with the return stack, a stall, the end of the operation, HALT, or a stack error. -/
inductive Seq | go (pc : BitVec 12) (stack : List (BitVec 12)) | stall | dispatch | halt | stackError
deriving DecidableEq, Repr

/-- The element list has entries that are not yet transferred. -/
def Run.remains (r : Run) : Bool := decide ((if r.reading then r.readBack else r.wrote) < r.delta.length)

/-- A fifth CALL or a RETURN from an empty stack is not executed (R142). -/
def stackFault (w : MicroWord) (r : Run) (c : Bool) : Bool := (w.seqop == 2 && c && decide (4 ≤ r.stack.length)) || (w.seqop == 3 && r.stack.isEmpty)

/-- The sequencing operation of the word at `a`. -/
def sequence (a : BitVec 12) (w : MicroWord) (r : Run) (c : Bool) : Seq :=
  match w.seqop with
  | 0 => .go (a + 1) r.stack
  | 1 => .go (if c then w.target else a + 1) r.stack
  | 2 => if !c then .go (a + 1) r.stack else if 4 ≤ r.stack.length then .stackError else .go w.target ((a + 1) :: r.stack)
  | 3 => (match r.stack with | q :: s => .go q s | [] => .stackError)
  | 4 => .dispatch
  | 5 => if c then .go (a + 1) r.stack else .stall
  | 6 => .go (if r.remains then w.target else a + 1) r.stack
  | _ => .halt

/-! ## The units of a nanoword (R145, R152, R154) -/

/-- Entries of one burst: as many as it counts, at most 256. -/
def burst (n : NanoWord) (l : List DeltaEntry) : List DeltaEntry := l.take (if n.count = 0 then 256 else n.count)

/-- The code that a burst writes for an entry: the operation's, or what the sampler fetch unit gives for the element; the DARK code of an eyelet in
the override (R128). -/
def codeOf (x : Hoop) (src sf : Nat) (d : DeltaEntry) : NCode :=
  if x.nS ≤ d.elem ∧ x.overridden (d.elem - x.nS) then x.darkCode (d.elem - x.nS)
  else if src = 2 then
    (if sf = 2 then (if x.nS ≤ d.elem then x.darkCode (d.elem - x.nS) else d.ncode)
     else if sf = 3 then x.ncode d.elem .idle false false else presentCode x d.elem)
  else if src = 3 then presentCode x d.elem
  else d.ncode

/-- Write codes: into the idle bank, into both banks, or into the DAC register as well. -/
def writeCodes (n : NanoWord) (sf : Nat) (ds : List DeltaEntry) (x : Hoop) : Hoop :=
  let y := ds.foldl (fun y d =>
    let c := codeOf y n.src sf d
    if n.bank = 0 then y.setIdle d.elem c
    else if n.bank = 1 then y.updNeedle d.elem (fun v => { v with bank0 := c, bank1 := c })
    else updateNeedle y d.elem c) x
  if n.win then (sortNat (ds.map (fun d => d.elem / 32))).foldl (fun y t => openWindow t .drive y) y else y

/-- The load bus. -/
def loadBus (n : NanoWord) (r : Run) (x : Hoop) : Run × Hoop :=
  match n.lbOp with
  | 1 =>
    if n.src = 1 then
      let is := ((darkBits x).take (if n.count = 0 then 256 else n.count))
      ({ r with wrote := r.wrote + is.length, reading := false }, is.foldl (fun y i => darkOne i y) x)
    else
      let ds := burst n (r.delta.drop r.wrote)
      ({ r with wrote := r.wrote + ds.length, reading := false, phase := max r.phase 1 }, writeCodes n r.source ds x)
  | 2 =>
    let ds := burst n (r.delta.drop r.readBack)
    let bad := n.check && ds.any (fun d => x.idleCode d.elem != codeOf x n.src r.source d)
    ({ r with readBack := r.readBack + ds.length, reading := true, mismatch := bad, phase := max r.phase 2 }, x)
  | 3 => (r, { x with drv := (restoreIdle x).drv })
  | 4 => ({ r with wrote := r.delta.length, reading := false }, r.op.tiles.foldl (fun y t =>
      (updateSome r.op t (updateElems r.op t y) y).updTile t (fun v => { v with written := true })) x)
  | _ => (r, x)

/-- The bank state. -/
def bankUnit (n : NanoWord) (r : Run) (x : Hoop) : Run × Hoop :=
  match n.bankOp with
  | 1 => ({ r with phase := max r.phase 3 }, pmcRaw 104 r.delta.length
      { x with tmb := { x.tmb with dacStaged := true, stagedSeq := if r.op.code = 1 then some r.op.seq else none, stageDelta := r.delta } })
  | 2 => (r, { x with tmb := { x.tmb with dacStaged := false, stagedSeq := none, stageDelta := [] } })
  | _ => (r, x)

/-- The comparator unit (R69, R90). -/
def cmpUnit (n : NanoWord) (r : Run) (x : Hoop) : Run × Hoop :=
  let k := if n.opnd then opCmp x r.op else n.cmpSel
  match n.cmpOp with
  | 1 => (match cmpArm k (r.epoch * 16) x with
    | some y => ({ r with refused := false, phase := max r.phase 4 }, match (if r.op.code = 1 ∧ k < 4 then (stageCommits x r.op).head? else none) with
        | some c => markArmed c.epochNs k (tellStaged (stageCommits x r.op) y)
        | none => y)
    | none => ({ r with refused := true }, lateArm k (r.epoch * 16) x))
  | 2 => (r, cmpDisarm k x)
  | 3 => (r, { x with tmb := { x.tmb with strobeTiles := sortNat (r.delta.map (fun d => d.elem / 32)) } })
  | _ => (r, x)

/-- Trigger time of an injected entry whose trigger is not armed. -/
def never : Nat := 2 ^ 64

/-- The ADC injector. -/
def injUnit (n : NanoWord) (r : Run) (x : Hoop) : Run × Hoop :=
  let keys := if r.op.code = 9 then [r.op.seq] else r.chans.map (·.1)
  match n.injOp with
  | 1 => ({ r with phase := max r.phase 5 }, r.chans.foldl (fun y q => injectAt q.2 q.1 never false y) x)
  | 2 => (r, x.updGroup r.op.group reloadInj)
  | 3 =>
    let arm := fun (e : InjEntry) => if keys.contains e.seq && e.from_ == never then { e with from_ := r.epoch + 1000 } else e
    (r, { x with mon := { x.mon with groups := x.mon.groups.map (fun g => (g.1, { g.2 with inj := g.2.inj.map arm, injQueue := g.2.injQueue.map arm })) } })
  | 4 => (r, keys.foldl (fun y k => clearInj k y) x)
  | _ => (r, x)

/-- A nanoword drives its five units. -/
def execNano (n : NanoWord) (r : Run) (x : Hoop) : Run × Hoop :=
  let r := if n.sfOp = 0 then r else { r with source := n.sfOp }
  let a := loadBus n r x
  let b := bankUnit n a.1 a.2
  let c := cmpUnit n b.1 b.2
  injUnit n c.1 c.2

/-! ## Ends, stops and save slots (R140, R142, R147, R151, R156) -/

/-- Stop the operation that the patch runs (R156). -/
def stopRun (st : TmbSt) (r : Run) (a : BitVec 12) (flags source : Nat) (x : Hoop) : Hoop :=
  let ph := if r.op.code = 1 ∨ r.op.code = 2 then r.phase else 0
  abortAll (stopRecord st (some r.op) (opWord r.op.code (r.delta.map (·.elem)) r.wrote) ph a flags source
    { x with prk := if r.op.code = 2 then { x.prk with nextStaged := false } else x.prk })

/-- DISPATCH ends the operation: a stage that has not armed its comparator is abandoned (R92), one of an entry tells the pricking unit whether it
reached DAC_STAGED (R153), and a disarmed commit is staged again (R91). -/
def endRun (r : Run) (x : Hoop) : Hoop :=
  let x := { x with tmb := { x.tmb with st := .idle, run := none } }
  let cs := stageCommits x r.op
  let x := opDone r.op x
  if r.op.code = 1 then abortStage cs 6 x
  else if r.op.code = 2 then { x with prk := { x.prk with nextStaged := x.tmb.dacStaged } }
  else if r.op.code = 9 then postStage { x with cm := { x.cm with pending := x.cm.pending.map (fun c =>
    match c.stage with | .armed k => (if (x.tb.cmp k).armed then c else { c with stage := .waiting }) | _ => c) } }
  else if r.op.code = 4 ∧ (List.range x.nT).all (fun t => (x.tile t).written) then { x with drv := { x.drv with nFirstDone := true } }
  else x

/-- An urgent operation. -/
def Run.isUrgent (r : Run) : Bool := r.op.code == 8 || r.op.code == 9 || r.op.code == 0xA

/-- At a knot an operation gives way to those that go before it (R151). -/
def preempt (r : Run) (x : Hoop) : Hoop :=
  if r.op.code = 0x10 then x
  else if x.tmb.darkReq != 0 || (!r.isUrgent && (nextUrgent x).isSome) then
    { x with tmb := { x.tmb with st := .idle, run := none, savedU := if r.isUrgent then some r else x.tmb.savedU, savedN := if r.isUrgent then x.tmb.savedN else some r } }
  else x

/-- A saved operation goes on once those ahead of it are done. -/
def goOn (x : Hoop) : Hoop :=
  if x.tmb.st != .idle || x.tmb.darkReq != 0 || x.tmb.stopReq.isSome then x
  else match x.tmb.savedU, x.tmb.savedN with
    | some r, _ => { x with tmb := { x.tmb with st := .running, op := r.op.code, run := some r, savedU := none } }
    | none, some r => if (nextUrgent x).isSome then x else { x with tmb := { x.tmb with st := .running, op := r.op.code, run := some r, savedN := none } }
    | none, none => x

/-- An uncorrectable word is fetched (R147): it does not execute, Tambour is HALTED, and source 21 asserts. -/
def fetchFault (nano : Bool) (addr : Nat) (stop : Hoop → Hoop) (x : Hoop) : Hoop :=
  let x := { x with tmb := { x.tmb with eccLast := BitVec.ofNat 32 (addr + bit nano * 4096 + 8192), badWords := x.tmb.badWords.filter (· != (nano, addr)) } }
  fault 21 noDet (stop (raiseEv 330 [bit nano, addr] .hoop x))

/-- The knot: a stop that is asked for is taken, else what goes first pre-empts; without a knot a pending stop is forced after 64 microcycles
(R140, R155). -/
def knot (isKnot : Bool) (a : BitVec 12) (x : Hoop) : Hoop :=
  match x.tmb.run, x.tmb.stopReq with
  | some r, some src =>
    if isKnot then stopRun .stopped r a 0 src x
    else if 63 ≤ x.tmb.since then raiseEv 333 [a.toNat] .hoop (stopRun .stopped r a (2 ^ 16) src x)
    else { x with tmb := { x.tmb with since := x.tmb.since + 1 } }
  | some r, none => if isKnot then preempt r x else x
  | none, _ => x

/-- The word at `a` executes: its nanoword, unless it is a WAIT that stalls already, then its sequencing. -/
def execWord (ack : Bool) (a : BitVec 12) (w : MicroWord) (n : NanoWord) (r : Run) (x : Hoop) : Hoop :=
  if stackFault w r (condTrue x ack r w.cond) then fault 22 noDet (stopRun .stopped r a (2 ^ 20) 0xFF x)
  else
    let (r, x) := if r.waitFrom.isSome then (r, x) else execNano n r x
    let put := fun (st : TmbSt) (r : Run) => { x with tmb := { x.tmb with st := st, upc := a, waitCond := BitVec.ofNat 5 w.cond, run := some r } }
    match sequence a w r (condTrue x ack r w.cond) with
    | .go pc s => knot w.knot a (put .running { r with pc := pc, stack := s, waitFrom := none })
    | .stall => knot w.knot a (put .waiting { r with waitFrom := some (r.waitFrom.getD x.now) })
    | .dispatch => endRun r x
    | .halt => stopRun .halted r a 0 0xFF x
    | .stackError => x

/-- One microcycle (R138, R141): the word at the redirected microaddress is fetched and executes. -/
def microcycle (ack : Bool) (x : Hoop) : Hoop :=
  match x.tmb.run with
  | none => goOn x
  | some r =>
    let a := redirect x.tmb r.pc
    let mended := fun (nano : Bool) (at_ : Nat) (y : Hoop) => eccFix nano (BitVec.ofNat 12 at_) y
    let micro : Option (BitVec 32 × Hoop) := match fetchMicro x.tmb a with
      | .good v => some (v, x)
      | .mended v => some (v, mended false a.toNat (if a.toNat < 0xF00 then x else { x with tmb := { x.tmb with micro := smSet {} x.tmb.micro a.toNat { data := v, check := Config.check32 v } } }))
      | .bad => none
    match micro with
    | none => fetchFault false a.toNat (stopRun .halted r a (2 ^ 17) 0xFF) x
    | some (v, x) =>
      let w := microOf v
      match fetchNano x.tmb w.naddr with
      | .good u => execWord ack a w (nanoOf u) r x
      | .mended u => execWord ack a w (nanoOf u) r (mended true w.naddr
          (if w.naddr < 0x700 then x else { x with tmb := { x.tmb with nano := smSet {} x.tmb.nano w.naddr { data := u, check := Config.check128 u } } }))
      | .bad => fetchFault true w.naddr (stopRun .halted r a (2 ^ 17) 0xFF) x

/-- Tambour runs a word of the patch in this tick. -/
def Tmb.busy (t : Tmb) : Bool := t.run.isSome || t.savedN.isSome || t.savedU.isSome

/-- The microcycles of one clock tick in one hoop. A standby whose HANDOVER has ended acknowledges the transfer (R321). -/
def microTickIn (h : HoopId) (s : State) : State :=
  let x := s.hoop h
  if x.boot.por || !x.tmb.busy then s
  else
    let y := microcycle s.duo.ack (microcycle s.duo.ack x)
    let t := s.upd h (fun _ => y)
    let done := (match x.tmb.run with | some r => r.op.code == 0xA | none => false) && y.tmb.run.isNone && y.tmb.st == .idle && !y.tmb.savedU.isSome
    settle (digestCompare (if done && x.pair.role == .standby && t.duo.ho.isSome then t.setDuo { t.duo with ack := true } else t))

/-- The microcycles of one clock tick. -/
def microTick (s : State) : State := microTickIn .hoopB (microTickIn .hoopA s)

/-! ## The rows of operations (R152) -/

def execStageStd (h : HoopId) (bad1 bad2 : List Nat) (why : StageEvent) (s : State) : Host.Outcome State Fault Refusal :=
  .next (settle (digestCompare (s.upd h (viaPatch 1 (stageStd bad1 bad2 why)))))

def execRestoreIdle (h : HoopId) (s : State) : Host.Outcome State Fault Refusal := .next (s.act h (viaPatch 3 restoreOp))

def execTileUpdate (h : HoopId) (t : Nat) (s : State) : Host.Outcome State Fault Refusal := .next (s.act h (viaPatch 4 (tileUpdate t)))

def execInjReload (h : HoopId) (g : Nat) (s : State) : Host.Outcome State Fault Refusal := .next (s.act h (viaPatch 8 (injReload g)))

def execDisarm (h : HoopId) (k : Nat) (s : State) : Host.Outcome State Fault Refusal := .next (s.act h (viaPatch 9 (disarm k)))

def execEyeletDark (h : HoopId) (s : State) : Host.Outcome State Fault Refusal := .next (s.act h (viaPatch 0x10 eyeletDark))

/-- NOP and reserved codes are posted by the firmware and taken at once, by the patch where it has a routine for them (R149). -/
def posted (code : BitVec 6) (rom : Hoop → Hoop) (x : Hoop) : Hoop :=
  if x.tmb.runs && !x.tmb.hold && x.tmb.darkReq == 0 && x.tmb.patches code then beginRun { code := code } x else rom x

def execTambourNop (h : HoopId) (s : State) : Host.Outcome State Fault Refusal := .next (s.act h (posted 0 tambourNop))

def execReservedOperation (h : HoopId) (code : BitVec 6) (s : State) : Host.Outcome State Fault Refusal :=
  .next (s.act h (fun x => if reservedCode code then posted code (reservedOp code) x else x))

/-! ## The rows of a stop (R140, R155 to R158) -/

/-- The microaddress that the patch is at. -/
def Run.addr (r : Run) (t : Tmb) : BitVec 12 := redirect t r.pc

/-- TAMBOUR_STOP: the stop request is taken at a knot. An operation of the patch takes it at its own knots; at DISPATCH and in a stalled WAIT it is
taken at once (R155). -/
def tambourStop (phase applied : Nat) (uaddr : BitVec 12) (x : Hoop) : Hoop :=
  match x.tmb.stopReq, x.tmb.run with
  | some src, none => stopOp .stopped phase applied uaddr 0 src x
  | some src, some r => if x.tmb.st = .waiting then stopRun .stopped r (r.addr x.tmb) 0 src x else x
  | none, _ => x

def execTambourStop (h : HoopId) (phase applied : Nat) (uaddr : BitVec 12) (s : State) : Host.Outcome State Fault Refusal :=
  .next (s.act h (tambourStop phase applied uaddr))

/-- FORCED_STOP: 64 microcycles without a knot (R140). -/
def forcedStop (phase applied : Nat) (uaddr : BitVec 12) (x : Hoop) : Hoop :=
  match x.tmb.stopReq, x.tmb.run with
  | some src, none => raiseEv 333 [uaddr.toNat] .hoop (stopOp .stopped phase applied uaddr (2 ^ 16) src x)
  | some src, some r => if 63 ≤ x.tmb.since then raiseEv 333 [(r.addr x.tmb).toNat] .hoop (stopRun .stopped r (r.addr x.tmb) (2 ^ 16) src x) else x
  | none, _ => x

def execForcedStop (h : HoopId) (phase applied : Nat) (uaddr : BitVec 12) (s : State) : Host.Outcome State Fault Refusal :=
  .next (s.act h (forcedStop phase applied uaddr))

/-- UNCORRECTABLE_ECC (R147): the word does not execute, Tambour is HALTED, source 21 asserts. -/
def eccHalt (nano : Bool) (e : EccSite) (x : Hoop) : Hoop :=
  let at_ := if nano then x.tmb.upc else e.addr
  if x.tmb.st = .idle ∨ x.tmb.st = .running ∨ x.tmb.st = .waiting then
    fetchFault nano e.addr.toNat (match x.tmb.run with
      | some r => stopRun .halted r at_ (2 ^ 17) 0xFF
      | none => stopOp .halted e.phase e.applied at_ (2 ^ 17) 0xFF) x
  else x

def execUncorrectableEcc (h : HoopId) (nano : Bool) (site : EccSite) (s : State) : Host.Outcome State Fault Refusal :=
  .next (s.act h (eccHalt nano site))

/-- PATCH_SCRUB (R147): a single-bit error is corrected in place; a double-bit error raises source 21 and stops nothing before the
word is fetched. -/
def patchScrub (hit : Option EccHit) (x : Hoop) : Hoop :=
  match hit with
  | none => x
  | some q =>
    if q.double then
      fault 21 noDet (raiseEv 330 [bit q.nano, q.addr.toNat] .hoop { x with tmb := { x.tmb with
        eccLast := BitVec.ofNat 32 (q.addr.toNat + bit q.nano * 4096 + 8192), badWords := (x.tmb.badWords.filter (· != (q.nano, q.addr.toNat))) ++ [(q.nano, q.addr.toNat)] } })
    else eccFix q.nano q.addr x

def execPatchScrub (h : HoopId) (hit : Option EccHit) (s : State) : Host.Outcome State Fault Refusal := .next (s.act h (patchScrub hit))

/-- The microword that a stalled operation of the patch waits at. -/
def waitWord (t : Tmb) : Option (Run × MicroWord) :=
  match t.run with
  | none => none
  | some r => match fetchMicro t (redirect t r.pc) with
    | .good v => some (r, microOf v)
    | .mended v => some (r, microOf v)
    | .bad => none

/-- A WAIT of the patch that times out goes on at TARGET (R144). -/
def timedOut (cond : Nat) (x : Hoop) : Hoop :=
  match if x.tmb.st = .waiting ∧ x.tmb.waitCond.toNat = cond then waitWord x.tmb else none with
  | some (r, w) => { x with tmb := { x.tmb with st := .running, run := some { r with pc := w.target, waitFrom := none } } }
  | none => x

/-- WAIT_TIMEOUT (R144): event 331, the count, the reaction of its condition, and the jump to TARGET. -/
def waitTimeout (cond g : Nat) (uaddr : BitVec 12) (x : Hoop) : Hoop :=
  if 1 ≤ cond ∧ cond ≤ 5 ∧ (x.tmb.runs ∨ x.tmb.st = .waiting ∧ x.tmb.waitCond.toNat = cond) then
    let x := raiseEv 331 [cond, uaddr.toNat] .hoop { timedOut cond x with tmb := { (timedOut cond x).tmb with waitTo := satInc x.tmb.waitTo } }
    if cond = 1 ∨ cond = 2 ∨ cond = 4 then fault 23 noDet x
    else if cond = 3 then
      pulse 24 g [] (x.updGroup g (fun v => reloadInj { v with inj := [], injQueue := v.inj ++ v.injQueue }))
    else x
  else x

/-- HANDOVER_ACK's timeout ends the hand-over that waits for it. -/
def execWaitTimeout (h : HoopId) (cond g : Nat) (uaddr : BitVec 12) (s : State) : Host.Outcome State Fault Refusal :=
  let t := s.upd h (waitTimeout cond g uaddr)
  .next (settle (if cond = 5 ∧ s.has h ∧ ((s.hoop h).tmb.runs ∨ (s.hoop h).tmb.st = .waiting ∧ (s.hoop h).tmb.waitCond.toNat = 5) then abandonHo 5 t else t))

/-- TAMBOUR_RESUME (R157): the record goes to the journal, the save slots clear, and the roll-back and completion operations of R158
are posted before anything else: RESTORE_IDLE for a stage that wrote, DISARM for one that had armed (posted as its commits ended), and the operation
again for any other, stopped or saved. -/
def resume (x : Hoop) : Hoop :=
  if x.tmb.st != .stopped then x
  else
    let t := x.tmb
    let saved := [t.savedU, t.savedN].filterMap id
    let wrote := fun (p : Nat) => decide (1 ≤ p ∧ p ≤ 3)
    let undo := (t.stopped.any (fun o => o.code == 1 || o.code == 2) && wrote (t.abortCtx.toNat / 4096 % 8)) || saved.any (fun r => (r.op.code == 1 || r.op.code == 2) && wrote r.phase)
    let again := fun (o : TOp) => t.stopped == some o || saved.any (fun r => r.op == o)
    let urgent := t.urgent.map (fun o => if o.code == 9 || again o then { o with roll := true } else o)
    let normal := t.normal.map (fun o => if again o then { o with roll := true } else o)
    let normal := if undo then { code := 3, roll := true } :: normal else normal
    let n := (urgent.filter (·.roll)).length + (normal.filter (·.roll)).length
    let x := jnlPut 6 0xFF 0xFFFF false (words [t.abortInfo.toNat, t.abortCtx.toNat, t.abortPre.toNat, n]) x
    raiseEv 328 [0, n] .hoop { x with tmb := { x.tmb with st := .idle, savedN := none, savedU := none, stopped := none, urgent := urgent, normal := normal } }

def execTambourResume (h : HoopId) (s : State) : Host.Outcome State Fault Refusal := .next (s.act h resume)

/-- HOLD_RELEASE (R157): the posted operations have completed. -/
def holdRelease (x : Hoop) : Hoop :=
  if x.tmb.st == .idle && !(x.tmb.urgent.any (·.roll)) && !(x.tmb.normal.any (·.roll)) then { x with tmb := { x.tmb with hold := false } } else x

def execHoldRelease (h : HoopId) (s : State) : Host.Outcome State Fault Refusal := .next (s.act h holdRelease)

end Sys2Proof.Machine
end

