-- ==== Sys2Proof/Machine/Loops.lean ====
section
/-!
DEFINITION. The stitch loops (R214 to R241): feed-forward output, the loop law in ratio and dither mode, the state changes, the
throttle cap, coefficient swaps, tones, field refinement (R60), and their rows.
-/

namespace Sys2Proof.Machine

/-! ## Who passes an element -/

/-- The thread that an ingress port carries as loaded: that of the loaded slot, without light while its eyelet is
closed, else the standing one. -/
def Hoop.carrier (x : Hoop) (i : Nat) : Thread :=
  match x.prk.loaded with
  | some p => (match smFind (x.prk.slot p).threads i with
    | some t => if x.prk.lit.contains i then t else { t with noLight := true }
    | none => x.thread i)
  | none => x.thread i

/-- Ingress ports of the threads through an element. -/
def through (x : Hoop) (e : Nat) : List Nat := if e < x.nS then smGet [] x.rmap.stitch e else [e - x.nS]

/-- A thread lights what it passes (R229). -/
def Thread.lights (t : Thread) : Bool := t.st.lit && !t.noLight

/-- The element is lit. -/
def Hoop.lit (x : Hoop) (e : Nat) : Bool := (through x e).any (fun i => (x.carrier i).lights)

/-- The hop of a thread at a stitch. -/
def hopAt (x : Hoop) (e i : Nat) : Option Hop := (hopsOf x.part i (x.carrier i).route).find? (fun k => k.stitch == e)

/-- The thread routed to a stitch's upper output. -/
def upper (x : Hoop) (e : Nat) : Option Nat := (through x e).find? (fun i => match hopAt x e i with | some k => !k.lower | none => false)

/-! ## Coefficient sets (R219, R233) -/

def Coef.kpZ (c : Coef) : Int := toSigned 24 c.kp.toNat
def Coef.kiZ (c : Coef) : Int := toSigned 24 c.ki.toNat
def Coef.kdZ (c : Coef) : Int := toSigned 24 c.kd.toNat
def Coef.lo (c : Coef) : Int := toSigned 32 c.imin.toNat
def Coef.hi (c : Coef) : Int := toSigned 32 c.imax.toNat
def Coef.dither (c : Coef) : Bool := c.cfg.getLsbD 0
/-- DEAD and HYST in microradians. -/
def Coef.dead (c : Coef) : Nat := c.cfg.toNat / 256 % 256 * 100
def Coef.hyst (c : Coef) : Nat := c.cfg.toNat / 65536 % 256 * 100

/-- The set of an element. -/
def Hoop.setOf (x : Hoop) (e : Nat) : Coef := x.bob.sets.getD (x.loop e).set.toNat {}

/-- A change of error mode takes a loop from CLOSED to HOLD, and its next valid update preloads (R233). -/
def Loop.turn (l : Loop) (turn : Bool) (v : Loop) : Loop :=
  if turn && (l.st == .closed || l.st == .hold) then { v with st := .hold, turned := true, lx := 0, ls := 0, lm := 0 } else v

/-- Saturate to signed Q16.16 (R219). -/
def sat32 (v : Int) : Int := clampI v (-2147483648) 2147483647

/-- A product with a coefficient of 16 fraction bits, rounded to nearest. -/
def qmul (a b : Int) : Int := sat32 (divRound (a * b) 65536)

/-- I within the set's limits. -/
def Coef.clamp (c : Coef) (i : Int) : Int := clampI i c.lo c.hi

/-! ## Output (R220, R235, R236) -/

/-- Heater LSB of a current in microamperes. -/
def lsbOfUa (c : Nat) : Nat := c * 4096 / 2000

/-- umax of R220. -/
def umax (x : Hoop) : Nat := if x.bob.cap = 0xFFFFFFFF then 16380 else min 16380 (lsbOfUa x.bob.cap.toNat)

/-- Write an output to the heater port (R236): range 1 above 4,000, back to range 0 after 64 outputs below 3,600. -/
def heaterOut (e u : Nat) (x : Hoop) : Hoop :=
  let l := x.loop e
  let wide := (x.heater e).tgtRange
  let low := if wide ∧ u < 3600 then l.low + 1 else 0
  let wide' := if wide then decide (low < 64) else decide (4000 < u)
  let x := x.setLoop e { l with low := if wide' then low else 0 }
  heaterPort e (BitVec.ofNat 12 (if wide' then min 4095 ((u + 2) / 4) else min 4095 u)) wide' x

/-- Clamp and round an unclamped output, keep RLIM with its event, and write the heater (R218 to R220). -/
def emit (e : Nat) (ur : Int) (x : Hoop) : Hoop :=
  let m := umax x
  let c := clampI ur 0 ((m : Int) * 65536)
  let r := decide (c ≠ ur)
  let l := x.loop e
  let u := (divRound c 65536).toNat
  let x := x.setLoop e { l with u := u, ur := ur, rlim := r }
  let x := if r = l.rlim then x else raiseEv 256 [e, if m < 16380 then 1 else 0] .hoop x
  heaterOut e u x

/-- The patterns that hold an element in FF while a pricking is active: the bands of the pricked threads that set it (R238). -/
def prickBands (x : Hoop) (e : Nat) : List Bool :=
  if !x.pricking then []
  else (((x.prk.referenced.filter (fun k => (x.prk.slot k).kind == .pattern)).map (fun k => (x.prk.slot k).threads)).flatten.filter
    (fun t => if e < x.nS then (hopsOf x.part t.1 t.2.route).any (fun h => h.stitch == e) else e == x.eyelet t.1)).map (fun t => t.2.band)

/-- Feed-forward of an element in use (R221, R222, R238), Q16.16. -/
def Hoop.ff (x : Hoop) (e : Nat) : Int :=
  match prickBands x e with
  | [] => x.feedForward e (x.ffBand e)
  | b :: bs =>
    let bands := b :: bs
    if bands.contains true && bands.contains false then
      x.feedForward e false + ((x.entry e true).hb - (x.entry e false).hb) * 32768
    else x.feedForward e b

/-- P, I and D of a state as they act on its output (R229). -/
def pid (l : Loop) : Int :=
  match l.st with
  | .off => 0
  | .ff => l.i
  | .settle => l.i
  | _ => l.p + l.i + l.d

/-- A tile goes to the gentle mode where an element in FF will move by more than 64 LSB beside a lit one (R237). -/
def gentle (e : Nat) (u : Int) (x : Hoop) : Hoop :=
  let l := x.loop e
  let nearLit := (tileElems (e / 32)).any x.lit || ((nbrsOf x.part e).filterMap id).any x.lit
  if l.st = .ff ∧ 64 < (u - (l.u : Int)).natAbs ∧ nearLit then
    x.updTile (e / 32) (fun t => { t with hSlew := true, hStep := 1, hPeriod := 1 })
  else x

/-- Recompute feed-forward and write the output of R229. -/
def ffOut (e : Nat) (x : Hoop) : Hoop :=
  let l := x.loop e
  if l.st = .off then x
  else
    let ff := x.ff e
    let ur := sat32 (ff + pid l)
    emit e ur ((gentle e (divRound (clampI ur 0 ((umax x : Nat) * 65536)) 65536) x).setLoop e { l with ff := toLsb ff })

/-! ## State changes (R230, R232) -/

/-- A DEGRADE note of a fold or preload where the held output lies further than LIM from FF (R232). -/
def disagree (e kind : Nat) (x : Hoop) : Hoop :=
  let l := x.loop e
  let held := l.u
  if (x.setOf e).lim.toNat < ((held : Int) - (l.ff : Int)).natAbs then
    raiseEv 257 [e, held, l.ff] .hoop (jnlPut 3 1 0xFFFF false (words [e, held, l.ff, kind])
      { x.setLoop e { l with note := true } with bob := { (x.setLoop e { l with note := true }).bob with degCnt := satInc x.bob.degCnt } })
  else x

/-- Fold on leaving CLOSED or HOLD for FF. -/
def fold (e : Nat) (x : Hoop) : Hoop :=
  let l := x.loop e
  match l.st with
  | .closed => ffOut e (disagree e 0 (x.setLoop e { l with st := .ff, i := (x.setOf e).clamp (sat32 (l.i + l.p + l.d)), p := 0, d := 0 }))
  | .hold => ffOut e (disagree e 0 (x.setLoop e { l with st := .ff, i := (x.setOf e).clamp (sat32 (l.i + l.p + l.d)), p := 0, d := 0 }))
  | .settle => x.setLoop e { l with st := .ff }
  | _ => x

/-- An update that cannot be made takes CLOSED to HOLD. -/
def missUpdate (e : Nat) (x : Hoop) : Hoop :=
  if (x.loop e).st = .closed then x.setLoop e { x.loop e with st := .hold } else x

/-! ## The law (R218) -/

/-- A set that is all zero: its elements behave as in FF (R234). -/
def Coef.isZero (c : Coef) : Bool := c == {}

/-- One update with an error in Q16.16 heater LSB. `frozen` holds the integrator in the dead zone (R225). -/
def loopUpdate (e : Nat) (err : Int) (frozen : Bool) (x : Hoop) : Hoop :=
  let c := x.setOf e
  let l := x.loop e
  let ff := x.ff e
  let i0 := if l.reclamp then c.clamp l.i else l.i
  let p := qmul c.kpZ err
  let step := qmul c.kiZ err
  let ic := if frozen then i0 else c.clamp (sat32 (i0 + step))
  let d := sat32 (divRound ((c.a.toNat : Int) * l.d) 65536 + qmul (65536 - (c.a.toNat : Int)) (qmul c.kdZ (sat32 (err - l.errPrev))))
  let ur := sat32 (ff + p + ic + d)
  let u := clampI ur 0 ((umax x : Nat) * 65536)
  let wind := decide (u ≠ ur) && decide (0 < step * (ur - u))
  let i := if wind then i0 else ic
  let u0 := l.u
  let x := pmcRaw 202 1 (x.setLoop e { l with
    st := .closed, ff := toLsb ff, p := p, i := i, d := d, errPrev := err, reclamp := false, isat := i == c.lo || i == c.hi,
    lastUpd := x.now, lastPass := x.bob.tick.toNat, sinceFlip := l.sinceFlip + 1 })
  let x := emit e ur x
  let x := if (x.loop e).rlim then pmcRaw 205 1 x else x
  let lo := min l.stableLo i
  let hi := max l.stableHi i
  let still := decide (hi - lo ≤ 16 * 65536)
  x.setLoop e { x.loop e with
    changed := (x.loop e).u != u0, stableFrom := if still then l.stableFrom else x.now
    stableLo := if still then lo else i, stableHi := if still then hi else i }

/-- The first update on entering CLOSED: I is set so that the output does not move (R232). -/
def preload (e : Nat) (err : Int) (x : Hoop) : Hoop :=
  let c := x.setOf e
  let l := x.loop e
  let ff := x.ff e
  let p := qmul c.kpZ err
  let i := c.clamp (sat32 ((l.u : Int) * 65536 - ff - p))
  let x := pmcRaw 202 1 (x.setLoop e { l with
    st := .closed, sigma := false, note := false, ff := toLsb ff, p := p, i := i, d := 0, errPrev := err, reclamp := false, turned := false,
    isat := i == c.lo || i == c.hi, above := 0, changed := false, lastUpd := x.now, lastPass := x.bob.tick.toNat, lx := 0, ls := 0, lm := 0,
    stableFrom := x.now, stableLo := i, stableHi := i })
  emit e (sat32 (ff + p + i)) (disagree e 1 x)

/-! ## Tones (R226 to R228) -/

/-- Frequency of tone k in Hz. -/
def toneHz (k : Nat) : Nat := 250 * (k + 1)

/-- Appearances that a stitch tone needs in the regular sequence (R227). -/
def toneReps (k : Nat) : Nat := (toneHz k + 1199) / 1200

/-- Elements on the routes of the threads through an element, and its neighbours: none of them may carry its tone (R227). -/
def toneNbrs (x : Hoop) (e : Nat) : List Nat :=
  ((nbrsOf x.part e).filterMap id) ++ ((through x e).map (fun i => x.eyelet i :: (hopsOf x.part i (x.carrier i).route).map (·.stitch))).flatten

/-- A tone is free for an element. -/
def toneFree (x : Hoop) (e k : Nat) : Bool :=
  (toneNbrs x e).all (fun f => f == e || (x.needle f).dtarget == 0 || (x.needle f).tone.toNat != k)

/-- Entries of a group's regular sequence beside those of one channel: channels of closed loops with their repeats, and the eyelet and egress taps
of CARRYING and VERIFIED threads (R193). -/
def seqOthers (x : Hoop) (g e : Nat) : Nat :=
  let taps := (x.thr.filter (fun t => t.2.st == .carrying || t.2.st == .verified)).map (fun t => [x.eyelet t.1, x.egress t.2.outPort])
  let loops := (x.bob.loops.filter (fun l => l.2.st == .closed || l.2.st == .hold)).map (·.1)
  let chans := (sortNat (loops ++ taps.flatten)).filter (fun c => c / 128 == g && c != e)
  (chans.map (fun c => if c < x.nS ∧ (x.needle c).dtarget ≠ 0 then toneReps (x.needle c).tone.toNat else 1)).sum

/-- Channels that the regular sequences hold, in ascending order (R193): those of closed loops, and the eyelet and egress taps of CARRYING and VERIFIED
threads; in scan-mask parts every channel that is not lost. -/
def regularChans (x : Hoop) : List Nat :=
  let all := if Config.seqMode x.part then
      sortNat ((x.bob.loops.filter (fun l => decide (l.1 < x.nE) && (l.2.st == .closed || l.2.st == .hold))).map (·.1) ++
        ((x.thr.filter (fun t => t.2.st == .carrying || t.2.st == .verified)).map (fun t => [x.eyelet t.1, x.egress t.2.outPort])).flatten)
    else List.range (Config.chans x.part)
  all.filter (fun c => !(x.chan c).lost)

/-- Appearances of a channel in a pass (R193, R227): those of a stitch with a tone in its needle; one in scan-mask parts (R210). -/
def appearances (x : Hoop) (c : Nat) : Nat :=
  if Config.seqMode x.part && decide (c < x.nS) && (x.needle c).dtarget != 0 then toneReps (x.needle c).tone.toNat else 1

/-- A pass over channels (R193): each once in their order, and the further appearances of a channel with R of them directly after the entry that lies
floor(j E / R) entries into the pass, for j = 1 to R - 1. -/
def passOf (x : Hoop) (cs : List Nat) : List Nat :=
  let extra := fun (k : Nat) => (cs.map (fun c =>
    ((List.range (appearances x c)).filter (fun j => decide (0 < j) && j * cs.length / appearances x c == k)).map (fun _ => c))).flatten
  (cs.zipIdx.map (fun p => p.1 :: extra p.2)).flatten

/-- A regular pass of a group starts (R193, R212). -/
def beginPass (g : Nat) (cs : List Nat) (x : Hoop) : Hoop :=
  x.updGroup g (fun v => { v with passes := v.passes + 1, passDue := false, left := passOf x (cs.filter (fun c => c / 128 == g)) })

/-- The loop tick of a group: its pass starts, or waits for the present one to end. -/
def tickPass (cs : List Nat) (x : Hoop) (g : Nat) : Hoop :=
  if (x.group g).left.isEmpty then beginPass g cs x else x.updGroup g (fun v => { v with passDue := true })

/-- The regular source has converted a channel: the pass goes on behind it, and the one that waits starts when it ends. -/
def passConv (ch : Nat) (x : Hoop) : Hoop :=
  let v := x.group (ch / 128)
  if !v.left.contains ch then x
  else
    let rest := (v.left.dropWhile (· != ch)).drop 1
    let y := x.updGroup (ch / 128) (fun v => { v with left := rest })
    if rest.isEmpty && v.passDue then beginPass (ch / 128) (regularChans y) y else y

/-- The sampling of an element's channel carries tone k: its repeats fit the 128 entries of the sequence (R228), or, in scan-mask parts, the tone
lies below a quarter of its group's pass rate (R210), that of the ticks until a second has been measured. -/
def toneFits (x : Hoop) (e k : Nat) : Bool :=
  let rate := (x.group (e / 128)).passRate.toNat
  if Config.seqMode x.part then x.nS ≤ e || decide (seqOthers x (e / 128) e + toneReps k ≤ 128)
  else decide (4 * toneHz k < if rate = 0 then 10000 else rate)

/-- An element takes a set; a change of error mode takes a CLOSED loop to HOLD (R233). -/
def assignSet (e : Nat) (n : BitVec 4) (x : Hoop) : Hoop :=
  let turn := (x.setOf e).dither != (x.bob.sets.getD n.toNat {}).dither
  x.updLoop e (fun l => l.turn turn { l with set := n, reclamp := true })

/-- Give an element a tone on its needle: AMP 8, the set of its kind (R227, R234). -/
def giveTone (e k : Nat) (x : Hoop) : Hoop :=
  let t := x.tone k
  let tone := if t.en then t else { ftw := BitVec.ofNat 32 ((toneHz k * 2 ^ 32 + 5000000) / 10000000), amp := 8, en := true, acc := 0 }
  let x := { x with drv := { x.drv with tones := smSet {} x.drv.tones k tone } }
  let x := x.updNeedle e (fun n => { n with tone := BitVec.ofNat 4 k, dtarget := 1 })
  let x := x.updTile (e / 32) (fun v => { v with dith := true })
  assignSet e (if e < x.nS then 1 else 2) x

/-- Take an element's tone back. -/
def dropTone (e : Nat) (x : Hoop) : Hoop :=
  if (x.needle e).dtarget = 0 then x
  else
    let x := x.updNeedle e (fun n => { n with tone := 0, dtarget := 0 })
    let x := x.updTile (e / 32) (fun v => { v with dith := (tileElems (e / 32)).any (fun f => (x.needle f).dtarget == 1) })
    assignSet e 0 x

/-- Two threads of different tags pass a stitch, or its flips ask for dither mode (R228). -/
def wantsTone (x : Hoop) (e : Nat) : Bool :=
  let tags := nub ((through x e).map (fun i => (x.carrier i).tenant))
  decide (2 ≤ tags.length) || decide (8 ≤ ((x.loop e).flips.filter (fun t => decide (x.now ≤ t + 1000000000))).length)

/-- Elements that ask for a tone and have none; the firmware tries them again at each commit (R228). -/
def toneless (x : Hoop) : List Nat :=
  ((x.rmap.stitch.map (·.1)).filter (fun e => x.lit e && wantsTone x e && (x.needle e).dtarget == 0)) ++
    ((x.thr.map (fun t => x.eyelet t.1)).filter (fun e => (x.elem e).st == .eyOpen && (x.needle e).dtarget == 0))

/-- The firmware's choice of mode for an element after a commit (R228): the lowest tone that is free and fits the sequence; event 263 where there
is none. -/
def chooseTone (e : Nat) (x : Hoop) : Hoop :=
  let want := if x.nS ≤ e then (x.elem e).st == .eyOpen && !(x.chan e).lost else x.lit e && wantsTone x e
  let free := (if x.nS ≤ e then [(e - x.nS) % 4] else (List.range 12).map (· + 4)).filter (toneFree x e)
  if !want then dropTone e x
  else if (x.needle e).dtarget ≠ 0 then x
  else match free.find? (toneFits x e) with
    | some k => giveTone e k x
    | none => raiseEv 263 [e, if free.isEmpty then 0 else 1] .hoop x

/-! ## Ratio mode (R223 to R225) -/

/-- The last judged reading of a pricked thread's eyelet tap, within the last cycle (R132). -/
def prickedIn (x : Hoop) (i : Nat) : Option Nat :=
  match x.prk.loaded, x.prk.active with
  | some p, some l => ((smFind x.prk.eyeIn (512 * p + i)).filter (fun q => decide (x.now ≤ q.2 + l.cycle))).map (·.1)
  | _, _ => none

/-- Light that an eyelet tap last showed for a thread, 1/65,536 pA; none before the thread's first valid reading after its epoch (in_t of
R101), and without a reading of a pricked thread in the last cycle (R132). -/
def inT (x : Hoop) (i : Nat) : Option Nat :=
  let t := x.carrier i
  let c := x.chan (x.eyelet i)
  if !t.lights then some 0
  else if t.pricked then prickedIn x i
  else if wordValid c.good && decide (t.epoch + 1000 ≤ c.goodAt) then some (x.current c.good)
  else none

/-- The magnitude m in microradians of a reading, none where the reference is 0; an eyelet has no reference (R223). -/
def ratioM (x : Hoop) (e r : Nat) : Option Nat :=
  let en := x.entry e (x.ffBand e)
  let pg := en.pgain.toNat
  if x.nS ≤ e then none
  else match upper x e with
  | some i =>
    let ref := (inT x i).getD 0 * pg * en.tgtLit.toNat
    if ref = 0 then none else some (2 * Config.acosTable (min 65536 (r * 4096 * 65536 * 65536 / ref)))
  | none =>
    let ref := maxL ((through x e).map (fun i => (inT x i).getD 0)) * pg
    if ref = 0 then none else some (2 * Config.asinTable (min 65536 (r * 4096 * 65536 / ref)))

/-- err = sigma m / HS (R224), Q16.16. -/
def errOf (x : Hoop) (e m : Nat) (neg : Bool) : Int :=
  let hs := (x.entry e (x.ffBand e)).hs.toNat
  let v : Int := if hs = 0 then 0 else divRound ((m : Int) * 4 * 65536) hs
  if neg then -v else v

/-- Record a flip; the eighth within one second is noted as R232 has it, with event 262 (R225). -/
def noteFlip (e : Nat) (x : Hoop) : Hoop :=
  let l := x.loop e
  let fs := l.flips.filter (fun t => decide (x.now ≤ t + 1000000000)) ++ [x.now]
  let x := x.setLoop e { l with flips := fs, sinceFlip := 0, above := 0, note := l.note || fs.length == 8 }
  let x := { x with bob := { x.bob with flipCnt := x.bob.flipCnt + 1 } }
  if fs.length = 8 then raiseEv 262 [e] .hoop (jnlPut 3 1 0xFFFF false (words [e, fs.length]) { x with bob := { x.bob with degCnt := satInc x.bob.degCnt } }) else x

/-- The element that has reached the flip-rate limit goes to dither mode where a tone is free (R225). -/
def flipLimit (e : Nat) (x : Hoop) : Hoop := if (x.loop e).flips.length = 8 ∧ (x.loop e).flips.getLast? = some x.now then chooseTone e x else x

/-- One update in ratio mode from a valid reading (R223 to R225). -/
def ratioUpdate (e r : Nat) (x : Hoop) : Hoop :=
  match ratioM x e r with
  | none => missUpdate e x
  | some m =>
    let c := x.setOf e
    let x := if (x.loop e).st = .hold then x.setLoop e { x.loop e with sigma := false, note := false, above := 0 } else x
    let l := x.loop e
    if m < c.dead ∨ c.isZero then loopUpdate e 0 true (x.setLoop e { l with above := 0, mLast := m })
    else
      let worse := l.changed && decide (l.mLast + c.hyst < m)
      let above := if worse then l.above + 1 else 0
      if 2 ≤ above ∧ 8 ≤ l.sinceFlip then
        let err := errOf x e m (!l.sigma)
        let x := noteFlip e (x.setLoop e { l with sigma := !l.sigma, i := c.clamp (sat32 (l.i + l.p + l.d)), d := 0, errPrev := err, mLast := m })
        flipLimit e (loopUpdate e err false x)
      else loopUpdate e (errOf x e m l.sigma) false (x.setLoop e { l with above := above, mLast := m })

/-! ## Dither mode (R226) -/

/-- The sine sample of an element's tone at a count in the past. -/
def sineAt (x : Hoop) (k at_ : Nat) : Int :=
  let t := x.tone k
  let back := (x.now - at_) / 100 * t.ftw.toNat
  toSigned 16 (ofSigned 16 (Config.sineTable ((t.acc.toNat + 2 ^ 32 * (back / 2 ^ 32 + 1) - back) % 2 ^ 32 / 2 ^ 22)))

/-- One word of a dither-mode element joins the lock-in sums. -/
def lockin (e r : Nat) (x : Hoop) : Hoop :=
  let n := x.needle e
  let at_ := if n.dtarget = 1 then (x.tile (e / 32)).winStart else x.now - 340
  let l := x.loop e
  x.setLoop e { l with lx := l.lx + (r : Int) * sineAt x n.tone.toNat at_, ls := l.ls + r, lm := l.lm + 1 }

/-- The error of a window (R226), Q16.16; none with fewer than 8 words or no normaliser. -/
def lockinErr (x : Hoop) (e : Nat) : Option Int :=
  let l := x.loop e
  let n := x.needle e
  let en := x.entry e (x.ffBand e)
  let amp := (x.tone n.tone.toNat).amp.toNat
  let a4 : Int := if n.dtarget = 1 then 4 * amp * en.nslope else amp * en.hs
  let up := upper x e
  let norm : Int :=
    if x.nS ≤ e then l.ls
    else (match up with
      | some i => (((inT x i).getD 0 * en.pgain.toNat / 4096 : Nat) : Int)
      | none => ((maxL ((through x e).map (fun i => (inT x i).getD 0)) * en.pgain.toNat / 4096 : Nat) : Int)) * l.lm
  let den := norm * a4 * en.hs * 32768
  if l.lm < 8 || decide (den ≤ 0) then none
  else
    let v := divRound (4 * l.lx * 1000000 * 4 * 4 * 65536) den.toNat
    some (sat32 (if x.nS ≤ e || up.isSome then v else -v))

/-- A valid update with an error: the preload after a change of error mode (R233), the law else. -/
def validUpdate (e : Nat) (err : Int) (x : Hoop) : Hoop := if (x.loop e).turned then preload e err x else loopUpdate e err false x

/-- LOCKIN_WINDOW_END. -/
def lockinEnd (e : Nat) (x : Hoop) : Hoop :=
  let l := x.loop e
  if !((x.setOf e).dither && (l.st == .closed || l.st == .hold)) then x
  else
    let z : Hoop → Hoop := fun y => y.setLoop e { y.loop e with lx := 0, ls := 0, lm := 0 }
    match lockinErr x e with
    | none => missUpdate e (z x)
    | some err => z (validUpdate e err (if l.st = .hold then x.setLoop e { l with sigma := false, note := false } else x))

def execLockinWindowEnd (h : HoopId) (e : Nat) (s : State) : Host.Outcome State Fault Refusal := .next (s.act h (lockinEnd e))

/-! ## A word arrives (R214, R217, R230) -/

/-- The element may close: lit, its channel not lost, not held by a pricking, an eyelet and an element in dither mode only with a tone (R229). -/
def mayClose (x : Hoop) (e : Nat) : Bool :=
  x.lit e && !(x.chan e).lost && (prickBands x e).isEmpty && ((decide (e < x.nS) && !(x.setOf e).dither) || (x.needle e).dtarget != 0) && x.bob.run

/-- The error with which an element enters CLOSED. -/
def firstErr (x : Hoop) (e r : Nat) : Option Int :=
  if (x.setOf e).dither then some 0 else (ratioM x e r).map (fun m => errOf x e m false)

/-- Enter CLOSED from SETTLE or FF on a reading. -/
def closeLoop (e r : Nat) (x : Hoop) : Hoop :=
  if !mayClose x e then x
  else match firstErr x e r with
    | some err => preload e err x
    | none => x

/-- A CLOSED element in ratio mode has not been updated for 208.4 µs. -/
def isSlow (x : Hoop) (e : Nat) : Bool := (x.loop e).st == .closed && !(x.setOf e).dither && decide ((x.loop e).lastUpd + 208400 < x.now)

/-- Event 261 for a slow element, at most once per millisecond, counted (R240, R241). -/
def slowNote (e : Nat) (x : Hoop) : Hoop :=
  if !isSlow x e || x.bob.slowEvMs == some (x.now / 1000000) then x
  else raiseEv 261 [e, x.now - (x.loop e).lastUpd] .hoop { x with bob := { x.bob with slowEvMs := some (x.now / 1000000), slow := satInc x.bob.slow } }

/-- A VALID word of an element's channel: LOOP, LOCKIN or the entry from FF. `changed`: the channel awaits a verdict. -/
def loopWord (e r : Nat) (changed : Bool) (x : Hoop) : Hoop :=
  let l := x.loop e
  let c := x.setOf e
  match l.st with
  | .closed =>
    if !mayClose x e then fold e x
    else if c.dither then lockin e r x
    else if l.lastPass = x.bob.tick.toNat then x
    else ratioUpdate e r (slowNote e x)
  | .hold =>
    if !mayClose x e then fold e x
    else if c.dither then lockin e r x
    else if l.turned then closeLoop e r x
    else ratioUpdate e r x
  | .ff => if changed then x else closeLoop e r x
  | _ => x

/-- A word that is not VALID; one after the update of its pass misses none (R217). -/
def loopNoWord (e : Nat) (x : Hoop) : Hoop := if (x.setOf e).dither ∨ (x.loop e).lastPass = x.bob.tick.toNat then x else missUpdate e x

/-- A verdict on an element's channel (R230): passed and lit closes the loop, anything else leaves FF. -/
def loopVerdict (e r : Nat) (pass : Bool) (x : Hoop) : Hoop :=
  if x.nE ≤ e || (x.loop e).st != .settle then x
  else
    let y := x.setLoop e { x.loop e with st := .ff }
    if pass then closeLoop e r y else y

/-- What a strobe or a reinjection does to the loop of an involved element (R231): `hff` is the delta's feed-forward in heater LSB where
the element is in the delta, `reband` a change of band. -/
def strobeLoop (e : Nat) (hff : Option Nat) (reband : Bool) (x : Hoop) : Hoop :=
  let l := x.loop e
  if l.st = .off then x
  else
    let c := x.setOf e
    let i := match hff with
      | some h => c.clamp (sat32 ((h : Int) * 65536 - x.ff e))
      | none => c.clamp (sat32 ((if reband then 0 else l.i) + l.p + l.d))
    ffOut e (x.setLoop e { l with st := .settle, i := i, p := 0, d := 0 })

/-! ## Rows -/

/-- LOOP_HOLD_TIMEOUT: HOLD without a valid update for 1 ms (R230). -/
def holdTimeout (e : Nat) (x : Hoop) : Hoop := if (x.loop e).st = .hold then fold e x else x

def execLoopHoldTimeout (h : HoopId) (e : Nat) (s : State) : Host.Outcome State Fault Refusal := .next (s.act h (holdTimeout e))

/-- NEIGHBOUR_LAG_UPDATE: one microsecond of the lags of R221. Each lag follows its neighbour's output less the bias that the neighbour held
in the band of this element's record. -/
def lagUpdate (x : Hoop) : Hoop :=
  let lagOne := fun (e : Nat) (l : Loop) =>
    { l with lag := ((nbrsOf x.part e).zip l.lag).map (fun q => match q with
      | (some k, f) =>
        let h := x.heater k
        let out : Int := if h.range then 4 * h.out.toNat else h.out.toNat
        let dh := (out - (x.entry k (x.ffBand e)).hb) * 65536
        f + divRound (dh - f) (max 1 x.bob.nbrTau.toNat)
      | (none, f) => f) }
  { x with bob := { x.bob with loops := (x.bob.loops.map (fun q => (q.1, lagOne q.1 q.2))) } }

def execNeighbourLagUpdate (h : HoopId) (s : State) : Host.Outcome State Fault Refusal := .next (s.act h lagUpdate)

/-- Demand of an element in 2^-16 heater LSB (R235). -/
def demand (x : Hoop) (e : Nat) (l : Loop) : Nat :=
  match l.st with
  | .off => 0
  | .closed => (max 0 l.ur).toNat
  | .hold => (max 0 l.ur).toNat
  | _ => (max 0 (x.ff e + l.i)).toNat

/-- Microamperes, rounded down, of a sum in 2^-16 heater LSB. -/
def uaOf (q : Nat) : Nat := q * 2000 / (4096 * 65536)

/-- The highest current c such that the capped sum is at most 0.99 of the ceiling, by bisection from the top (R235). -/
def capBits (ds : List Nat) (ceil : Nat) : Nat → Nat → Nat
  | 0, c => c
  | k + 1, c =>
    let t := c + 2 ^ k
    if 100 * uaOf ((ds.map (fun d => min d (t * 4096 * 65536 / 2000))).sum) ≤ 99 * ceil then capBits ds ceil k t else capBits ds ceil k c

/-- CAP_JOB (R235). -/
def capJob (x : Hoop) : Hoop :=
  let ds := x.bob.loops.map (fun q => demand x q.1 q.2)
  let cap : Word := if uaOf ds.sum ≤ x.drv.hCeil.toNat then 0xFFFFFFFF else BitVec.ofNat 32 (capBits ds x.drv.hCeil.toNat 13 0)
  if cap = x.bob.cap then x
  else raiseEv 260 [cap.toNat, if cap = 0xFFFFFFFF then 0 else (ds.filter (fun d => decide (cap.toNat < uaOf d))).length] .hoop { x with bob := { x.bob with cap := cap } }

def execCapJob (h : HoopId) (s : State) : Host.Outcome State Fault Refusal := .next (s.act h capJob)

/-- A set's coefficients are legal (R233): Imin at most Imax. A DWIN that would break R227 does not exist: every window is a whole multiple of 4 ms
(R241), and every tone of dither mode lies on the 250 Hz grid. -/
def Coef.ok (c : Coef) : Bool := decide (c.lo ≤ c.hi)

/-- Swap one set at the tick (R233). A refused swap sets its bit of REFUSED with event 259. -/
def swapSet (k : Nat) (x : Hoop) : Hoop :=
  let sh := x.bob.shadows.getD k {}
  let old := x.bob.sets.getD k {}
  let bitK := BitVec.twoPow 16 k
  let x := { x with bob := { x.bob with swapPend := x.bob.swapPend &&& ~~~bitK } }
  if !sh.ok then raiseEv 259 [k, 0] .hoop { x with bob := { x.bob with swapRef := x.bob.swapRef ||| bitK } }
  else
    let turn := sh.dither != old.dither
    let x := { x with bob := { x.bob with
      sets := x.bob.sets.set k sh, swapRef := x.bob.swapRef &&& ~~~bitK
      loops := x.bob.loops.map (fun q => (q.1, if q.2.set.toNat = k then
        q.2.turn turn { q.2 with reclamp := true } else q.2)) } }
    raiseEv 258 [k, x.bob.tick.toNat] .hoop x

/-- Swaps asked for. -/
def swapSets (x : Hoop) : Hoop := ((List.range 16).filter (fun k => x.bob.swapPend.getLsbD k)).foldl (fun y k => swapSet k y) x

/-- FF jobs of a tick: every element that no LOOP job updated in it (R214, R230): a CLOSED element without a word in the pass goes to
HOLD, an unlit one folds. -/
def ffJobs (x : Hoop) : Hoop :=
  x.bob.loops.foldl (fun y q =>
    let e := q.1
    let l := y.loop e
    if l.st = .off ∨ (l.st = .closed ∧ l.lastPass = y.bob.tick.toNat) then y
    else
      let y := if (l.st == .closed || l.st == .hold) && !mayClose y e then fold e y
        else if l.st = .closed ∧ !(y.setOf e).dither then missUpdate e y
        else y
      pmcRaw 204 1 (ffOut e y)) x

/-- The first CLOSED element of the pass that has not been updated for 208.4 µs. -/
def slowLoops (x : Hoop) : Hoop :=
  match x.bob.loops.find? (fun q => isSlow x q.1) with
  | none => x
  | some q => slowNote q.1 x

/-- REGULAR_PASS_START (R193, R217, R233): the loop tick. -/
def passStart (x : Hoop) : Hoop :=
  let x := ffJobs (slowLoops x)
  let x := { x with bob := { x.bob with tick := x.bob.tick + 1, run := true } }
  let x := swapSets x
  (List.range x.nG).foldl (tickPass (regularChans x)) x

def execRegularPassStart (h : HoopId) (s : State) : Host.Outcome State Fault Refusal := .next (s.act h passStart)

/-! ## Commands (R233) -/

/-- A coefficient set from its parameter block: the values of R370 in the order Kp, Ki, Kd, a, Imin, Imax, CFG, LIM. -/
def coefOf (k : Ctx) (off : Nat) : Coef :=
  { kp := BitVec.ofNat 32 (k.par off 4), ki := BitVec.ofNat 32 (k.par (off + 4) 4), kd := BitVec.ofNat 32 (k.par (off + 8) 4),
    a := BitVec.ofNat 16 (k.par (off + 12) 2), imin := BitVec.ofNat 32 (k.par (off + 14) 4), imax := BitVec.ofNat 32 (k.par (off + 18) 4),
    cfg := BitVec.ofNat 32 (k.par (off + 22) 4), lim := BitVec.ofNat 16 (k.par (off + 26) 2) }

/-- A Q8.16 value in [23:0] is sign-extended to 32 bits (R371). -/
def q24Ok (v : BitVec 32) : Bool := ofSigned 32 (toSigned 24 v.toNat) == v.toNat

/-- LOOP_SET (R233, R371): the shadow copy, and the swap asked for at the next loop tick. -/
def loopSetVerb : Verb :=
  { check := fun k _ =>
      let c := coefOf k 1
      decide (k.par 0 1 ≤ 15 ∧ k.par 29 1 ≤ 1) && q24Ok c.kp && q24Ok c.ki && q24Ok c.kd && c.ok && decide (c.cfg.toNat % 256 ≤ 1 ∧ c.cfg.toNat < 2 ^ 28)
    run := fun k x =>
      let n := k.par 0 1
      let y := { x with bob := { x.bob with
        shadows := x.bob.shadows.set n (coefOf k 1)
        swapPend := if k.par 29 1 = 1 then x.bob.swapPend ||| BitVec.twoPow 16 n else x.bob.swapPend } }
      adminOk k x (storeSetting k n y) }

def execLoopSet (h : HoopId) (r : Nat) (s : State) : Host.Outcome State Fault Refusal := .next (s.serve h r 0x46 loopSetVerb)

/-- LOOP_ASSIGN (R233): a range of elements takes a set; a change of mode takes a CLOSED loop to HOLD. -/
def loopAssignVerb : Verb :=
  { check := fun k x => decide (1 ≤ k.par 2 2 ∧ k.par 0 2 + k.par 2 2 ≤ x.nE ∧ k.par 4 1 ≤ 15)
    run := fun k x =>
      let n := k.par 4 1
      let y := ((List.range (k.par 2 2)).map (· + k.par 0 2)).foldl (fun (y : Hoop) e => assignSet e (BitVec.ofNat 4 n) y) x
      adminOk k x (storeSetting k (k.par 0 2) y) }

def execLoopAssign (h : HoopId) (r : Nat) (s : State) : Host.Outcome State Fault Refusal := .next (s.serve h r 0x47 loopAssignVerb)

/-! ## Field refinement (R60) -/

/-- FIELD_REFINEMENT: the integrator's mean goes into the slice's HBIAS and out of the integrator; near a temperature point the record takes the
slice's new HBIAS, once per hour and within 256 LSB of the factory value. `mean` is in heater LSB. -/
def refine (e : Nat) (mean : Int) (x : Hoop) : Hoop :=
  let l := x.loop e
  let ts := (through x e).map x.carrier
  let steady := l.st == .closed && decide (l.stableFrom + 60000000000 ≤ x.now) && !ts.isEmpty &&
    ts.all (fun t => t.st == .verified && decide (t.vSince + 60000000000 ≤ x.now))
  let m := clampI mean (divRound l.stableLo 65536) (divRound l.stableHi 65536)
  if !steady || m == 0 then x
  else
    let band := x.ffBand e
    let x := x.setLoop e { l with i := l.i - m * 65536, stableFrom := x.now, stableLo := l.i - m * 65536, stableHi := l.i - m * 65536 }
    let x := { x with slice := { x.slice with adj := smUpd 0 x.slice.adj (e * 2 + bit band) (fun v => v + m) } }
    let x := x.updElem e (fun v => { v with refined := true })
    match (List.range 16).find? (fun k => decide (((pointT k : Int) - 3 * x.slice.temp).natAbs ≤ 75)) with
    | none => x
    | some k =>
      let wide := decide (field (recBytes x.mram e band k) 4 2 / 32768 = 1)
      let hb := (x.entry e band).hb
      let code := clampI (if wide then divRound hb 4 else hb) 0 4095
      let f := factoryHbias x.mram e band k
      let lsb := fun (w : Bool) (c : Int) => if w then 4 * c else c
      let off := lsb wide code - lsb (decide (f / 32768 = 1)) (f % 4096 : Nat)
      if 256 < off.natAbs then
        pulse 20 e [] (jnlPut 0x12 0xFF 0xFFFF false (words [e, bit band, k]) x)
      else
        let r := recIndex e band k
        let recent := match smFind x.slice.wrote r with
          | some t => decide (x.now < t + 3600000000000)
          | none => false
        if recent then x
        else mramWrite (.hbias e band k code.toNat) { x with slice := { x.slice with wrote := smPut x.slice.wrote r x.now } }

def execFieldRefinement (h : HoopId) (e : Nat) (mean : Int) (s : State) : Host.Outcome State Fault Refusal := .next (s.act h (refine e mean))

/-- SAMPLER_RESTORE (R60). -/
def samplerRestoreVerb : Verb :=
  { check := fun _ _ => true
    run := fun k x => adminOk k x { mramWrite .restore x with
      slice := { x.slice with src := restoreRecords x x.slice.src, adj := [] }
      drv := { x.drv with elems := (x.drv.elems.map (fun e => (e.1, { e.2 with refined := false }))).filter (fun e => decide (e.2 ≠ {})) } } }

def execSamplerRestore (h : HoopId) (r : Nat) (s : State) : Host.Outcome State Fault Refusal := .next (s.serve h r 0x50 samplerRestoreVerb)

end Sys2Proof.Machine
end

