-- ==== Sys2Proof/Machine/Verify.lean ====
section
/-!
DEFINITION. Verification: the pass tests (R101 to R103), what a verdict does to standing and pricked threads (R44, R45, R104,
R108, R134), dark confirmation and the end of a release (R46, R110, R114), commit outcomes (R107), preselection (R185).
-/

namespace Sys2Proof.Machine

/-! ## Tests -/

/-- The tolerances that hold for an instant (R103): the last ones set, or the newest earlier ones that held by then. -/
def vpAt (x : Hoop) (at_ : Nat) : VParams :=
  if x.cm.vpFrom ≤ at_ then x.cm.vp
  else match x.cm.vpPast.find? (fun p => decide (p.1 ≤ at_)) with
    | some p => p.2
    | none => {}

/-- What a reading says of a channel. -/
inductive Judge | pass | fail | deferred | wait
deriving DecidableEq, Repr

/-- The bounds of a stitch tap in 2^-60 of 1/65,536 pA, from the light of its threads (R101); none with no light to judge by. -/
def stitchBounds (x : Hoop) (e : Nat) (vp : VParams) (light : Nat → Nat) : Option (Nat × Nat) :=
  let en := x.entry e (x.ffBand e)
  let up := upper x e
  let pg := en.pgain.toNat
  let expect := match up with | some i => light i * pg | none => 0
  let leak := maxL (((through x e).filter (fun i => up != some i)).map (fun i => light i * pg))
  if expect = 0 ∧ leak = 0 then none
  else
    let lit := expect * en.tgtLit.toNat
    some (lit * dbScale (-(vp.litTol : Int)),
      max (lit * dbScale vp.litTol + leak * en.tgtUnlit.toNat * dbScale (5 * vp.unlitMargin)) (x.g0Codes vp.absFloor * 2 ^ 60))

/-- The verdict of a tap some of whose threads have no reading: a pricked thread's lack defers it (R132), a standing one's is waited for (R101). -/
def unread (x : Hoop) (is : List Nat) : Option Judge :=
  match is.filter (fun i => (inT x i).isNone) with
  | [] => none
  | ms => some (if ms.any (fun i => (x.carrier i).pricked) then .deferred else .wait)

/-- A stitch tap (R101). -/
def judgeStitch (x : Hoop) (e r : Nat) (vp : VParams) : Judge :=
  match unread x (through x e) with
  | some j => j
  | none => match stitchBounds x e vp (fun i => (inT x i).getD 0) with
    | none => .deferred
    | some (lo, hi) => if lo ≤ r * 2 ^ 60 ∧ r * 2 ^ 60 ≤ hi then .pass else .fail

/-- The stitch of the last stage that drives an out port. -/
def lastStitch (p : Part) (j : Nat) : Nat := (Config.stages p - 1) * (Config.ports p / 2) + j / 2

/-- The dark limit of a former egress tap in 2^-48 units (R102). -/
def darkLimit (x : Hoop) (j : Nat) (vp : VParams) (light : Nat → Nat) : Nat :=
  let ts := through x (lastStitch x.part j)
  let best := ts.foldl (fun (b : Nat × Nat) i => if b.1 < light i then (light i, x.egressMin j (x.carrier i).band) else b) (0, 0)
  max (x.g0Codes vp.absFloor * 2 ^ 48) (best.1 * best.2 * dbScale (-300 + 5 * vp.unlitMargin))

/-- The ingress port whose lit thread ends on an out port. -/
def endsOn (x : Hoop) (j : Nat) : Option Nat :=
  match smGet none x.rmap.out j with
  | some i => if (x.carrier i).st.lit then some i else none
  | none => none

/-- An egress tap (R102). -/
def judgeEgress (x : Hoop) (j r : Nat) (vp : VParams) : Judge :=
  match endsOn x j with
  | some i => (match unread x [i], (inT x i).getD 0 with
    | some j, _ => j
    | none, 0 => .deferred
    | none, v => if v * x.egressMin j (x.carrier i).band ≤ r * 65536 then .pass else .fail)
  | none => match unread x (through x (lastStitch x.part j)) with
    | some j => j
    | none => if r * 2 ^ 48 ≤ darkLimit x j vp (fun i => (inT x i).getD 0) then .pass else .fail

/-- The test of a channel that is no eyelet tap, or of the eyelet tap of an opened thread (R102). -/
def judge (x : Hoop) (c r : Nat) (vp : VParams) : Judge :=
  if c < x.nS then judgeStitch x c r vp
  else if c < x.nS + x.n then
    (if x.lightFloor (x.carrier (c - x.nS)).band ≤ r then .pass else .deferred)
  else judgeEgress x (c - x.nS - x.n) r vp

/-- The channels that a thread must pass (R44, R51, R106): a lost stitch tap leaves the set, a lost eyelet or egress tap holds the thread. -/
def needChans (x : Hoop) (i : Nat) (t : Thread) : List Nat :=
  x.eyelet i :: x.egress t.outPort :: ((hopsOf x.part i t.route).map (·.stitch)).filter (fun c => !(x.chan c).lost)

/-- The channels of a thread that are not lost (R51). -/
def threadChans (x : Hoop) (i : Nat) (t : Thread) : List Nat := (needChans x i t).filter (fun c => !(x.chan c).lost)

/-- Note the time of a verdict for the commits that judge a thread (T_VER). -/
def stampVerdict (i : Nat) (x : Hoop) : Hoop :=
  { x with cm := { x.cm with judging := x.cm.judging.map (fun j => if j.ports.contains i then { j with lastVerdict := x.now - j.epoch } else j) } }

/-! ## Verdicts on standing threads -/

/-- A thread's last channel has passed (R104). -/
def goVerified (i : Nat) (x : Hoop) : Hoop :=
  let x := x.updThread i (fun t => { t with vSince := x.now, bad := [], reinj := [] })
  outcomes (stampVerdict i (ledVerified i x.now (setSt i .verified 1 (x.thread i).seq 0xFFFF x)))

/-- Channels shared with a faulted thread are judged again, once, for the threads that go on (R104). -/
def rejudge (i : Nat) (t : Thread) (x : Hoop) : Hoop :=
  let mine := (hopsOf x.part i t.route).map (·.stitch)
  x.thr.foldl (fun y q =>
    let shared := ((hopsOf y.part q.1 q.2.route).map (·.stitch)).filter (fun c => mine.contains c && !(y.chan c).lost)
    if q.1 = i ∨ shared.isEmpty then y
    else match q.2.st with
      | .carrying => inject shared (q.2.seq * 16 + q.2.ring) (y.now + 1000) false (y.updThread q.1 (fun v => { v with await := sortNat (v.await ++ shared) }))
      | .verified => inject shared (q.2.seq * 16 + q.2.ring) (y.now + 1000) false
          (y.updThread q.1 (fun v => { v with reinj := sortNat (v.reinj ++ shared), reinjFrom := y.now }))
      | _ => y) x

/-- Standing threads fail on a channel (R44, R104, R108): each FAULTED, its eyelet dark, source 112 or 114 with the eyelet as detail; then what
they shared with others is judged again. -/
def failThreads (is : List Nat) (src c : Nat) (x : Hoop) : Hoop :=
  let y := is.foldl (fun y i => stampVerdict i (pulse src (y.eyelet i) [c] (reqDark i (faultThread i (y.thread i).seq src y)))) x
  outcomes (is.foldl (fun y i => rejudge i (y.thread i) y) y)

/-- A standing thread fails. -/
def failThread (i src c : Nat) (x : Hoop) : Hoop := failThreads [i] src c x

/-- A channel passes for the standing threads it judges. -/
def passStanding (c : Nat) (x : Hoop) : Hoop :=
  x.thr.foldl (fun y q =>
    let i := q.1
    match q.2.st with
    | .carrying =>
      if q.2.await.contains c then
        let y := y.updThread i (fun t => { t with await := t.await.filter (· != c) })
        if (y.thread i).await.isEmpty ∧ (y.thread i).st = .carrying then goVerified i y else stampVerdict i y
      else y
    | .verified => if (smFind q.2.bad c).isSome || q.2.reinj.contains c then
        y.updThread i (fun t => { t with bad := smDel t.bad c, reinj := t.reinj.filter (· != c) }) else y
    | _ => y) x

/-- A failing channel ends a thread: a CARRYING one that awaits it at once, a VERIFIED one on the third conversion in a row, or at once where the
channel was injected again (R44, R45, R104); also one that was darked in this cycle (R46). -/
def failsOn (x : Hoop) (c : Nat) (q : Nat × Thread) : Bool :=
  match q.2.seen x.now with
  | .carrying => q.2.await.contains c
  | .verified => (threadChans x q.1 q.2).contains c && (q.2.reinj.contains c || decide (2 ≤ smGet 0 q.2.bad c))
  | _ => false

/-- A channel fails for the standing threads it judges; all of them are taken from the table as the reading finds it. -/
def failStanding (c : Nat) (x : Hoop) : Hoop :=
  let gone := (x.thr.filter (failsOn x c)).map (·.1)
  let y := x.thr.foldl (fun y q =>
    if q.2.st == .verified && !gone.contains q.1 && (threadChans x q.1 q.2).contains c then
      y.updThread q.1 (fun v => { v with bad := smSet 0 v.bad c (smGet 0 v.bad c + 1) })
    else y) x
  if gone.isEmpty then y else failThreads gone 112 c y

/-! ## Verdicts on pricked threads (R132, R134) -/

/-- Change the threads of the loaded slot. -/
def updLoaded (f : Nat → Thread → Thread) (x : Hoop) : Hoop :=
  match x.prk.loaded with
  | none => x
  | some p => { x with prk := { x.prk with slots := smUpd {} x.prk.slots p (fun s => { s with threads := s.threads.map (fun t => (t.1, f t.1 t.2)) }) } }

/-- Move a pricked thread of the loaded slot to a state, with its event. -/
def setPricked (p i : Nat) (st : ThreadSt) (cause src : Nat) (x : Hoop) : Hoop :=
  match smFind (x.prk.slot p).threads i with
  | none => x
  | some t =>
    let u := { t with st := st, vSince := if st = .verified then x.now else t.vSince }
    threadEvent i u t.st cause 0 src p
      (countSt st { x with prk := { x.prk with slots := smUpd {} x.prk.slots p (fun s => { s with threads := smPut s.threads i u }) } })

/-- A pricked thread fails: FAULTED, its eyelet dark and overridden, source 113 or 114 (R134). -/
def failPricked (p i src c : Nat) (x : Hoop) : Hoop :=
  let x := setPricked p i .faulted 1 src x
  let x := prkPay i x.now false x
  pulse src (x.eyelet i) [c] (reqDark i { x with prk := { x.prk with lit := x.prk.lit.filter (· != i) } })

/-- The key of injected entries of a pricking. -/
def prkKey : Nat := 2 ^ 60

/-- The threads of the loaded slot that a channel of this occurrence's subset judges by a conversion that began after its trigger (R132). -/
def judgedPricked (x : Hoop) (c start : Nat) : List (Nat × Nat × Thread) :=
  match x.prk.loaded with
  | none => []
  | some p => if !(injAll x c).any (fun e => e.seq == prkKey && decide (e.from_ ≤ start)) then [] else ((x.prk.slot p).threads.filter (fun t => x.prk.lit.contains t.1 && (threadChans x t.1 t.2).contains c)).map (fun t => (p, t.1, t.2))

/-- Move a channel of the loaded slot to the front or to the end of its rotation (R132, R134). -/
def rotate (c : Nat) (front : Bool) (x : Hoop) : Hoop :=
  match x.prk.loaded with
  | none => x
  | some p => { x with prk := { x.prk with slots := smUpd {} x.prk.slots p (fun s =>
      { s with rot := if !s.rot.contains c then s.rot else if front then c :: s.rot.filter (· != c) else s.rot.filter (· != c) ++ [c] }) } }

/-- A channel passes for pricked threads; a slot is VERIFIED when all of its threads are. -/
def passPricked (c : Nat) (ts : List (Nat × Nat × Thread)) (x : Hoop) : Hoop :=
  let x := ts.foldl (fun y q =>
    let y := updLoaded (fun i t => if i = q.2.1 then { t with await := t.await.filter (· != c), bad := smDel t.bad c } else t) y
    if q.2.2.st = .carrying ∧ (q.2.2.await.filter (· != c)).isEmpty then setPricked q.1 q.2.1 .verified 1 0xFFFF y else y) x
  match x.prk.loaded with
  | none => x
  | some p =>
    let s := x.prk.slot p
    let v := !s.threads.isEmpty && s.threads.all (fun t => t.2.st == .verified)
    let x := { x with prk := { x.prk with slots := smSet {} x.prk.slots p { s with verified := v } } }
    if v && !s.verified then raiseEv 372 [p, x.prk.cycleNum - s.firstCycle + 1] .hoop x else x

/-- A channel fails for pricked threads: those not VERIFIED at once, a VERIFIED one at its second judged conversion in a row. -/
def failPricked' (c : Nat) (ts : List (Nat × Nat × Thread)) (x : Hoop) : Hoop :=
  ts.foldl (fun y q =>
    match q.2.2.st with
    | .carrying => failPricked q.1 q.2.1 113 c y
    | .verified => if 1 ≤ smGet 0 q.2.2.bad c then failPricked q.1 q.2.1 113 c y
        else updLoaded (fun i t => if i = q.2.1 then { t with bad := smSet 0 t.bad c 1 } else t) y
    | _ => y) x

/-- What a verdict does to the pricked threads that the channel judges, and to its place in the rotation: first after a failure, else last. -/
def judgePricked (c : Nat) (ts : List (Nat × Nat × Thread)) (v : Judge) (x : Hoop) : Hoop :=
  if ts.isEmpty then x
  else match v with
    | .pass => rotate c false (passPricked c ts x)
    | .fail => rotate c true (failPricked' c ts x)
    | .deferred => rotate c false x
    | .wait => x

/-! ## Light (R45) -/

/-- An eyelet's light is lost or returns for its standing thread (R45, R385). -/
def lightChange (i r : Nat) (x : Hoop) : Hoop :=
  let t := x.thread i
  let on := decide (x.lightFloor t.band ≤ r)
  if !(t.st == .carrying || t.st == .verified) || on == !t.noLight then x
  else
    let x := x.updThread i (fun v => { v with noLight := !on })
    let x := threadEvent i (x.thread i) t.st 7 0 0xFFFF 0xFFFF x
    if !on then outcomes (ledEnd i x.now false x)
    else
      let cs := threadChans x i t
      let x := x.updThread i (fun v => { v with reinjFrom := x.now, await := if v.st = .carrying then needChans x i t else v.await, reinj := if v.st = .verified then cs else v.reinj })
      let x := (cs.filter (fun c => decide (c < x.nE))).foldl (fun y e => strobeLoop e none false y) x
      ledStart i x.now (oweSettle cs (x.now + 1000) (inject cs (t.seq * 16 + t.ring) (x.now + 1000) false x))

/-- The same for the pricked thread of an open eyelet, from a conversion that began while its pattern was settled: it waits while there is no light,
and when light returns its deadline begins again and it waits for all of its channels (R45, R134). Its channels stay in the rotation and need no
injection. The reading is noted for in_t (R132). -/
def lightPricked (i r start : Nat) (x : Hoop) : Hoop :=
  if !x.prk.lit.contains i || decide (start < x.prk.occFrom) then x
  else
    let x := match x.prk.loaded with
      | some p => { x with prk := { x.prk with eyeIn := smPut x.prk.eyeIn (512 * p + i) (r, start) } }
      | none => x
    updLoaded (fun j t =>
      let dim := decide (r < x.lightFloor t.band)
      if j ≠ i ∨ dim = t.noLight then t
      else if dim then { t with noLight := true }
      else { t with noLight := false, reinjFrom := x.now, await := if t.st = .carrying then needChans x i t else t.await }) x

/-! ## Dark confirmation (R46, R110, R114, R286, R449) -/

/-- A released thread ends (R44, R54, R114, R482): its port is free; its stitches that no other thread passes are IDLE, those of them that no pending
commit sets are parked, and a stitch that was MIXED with it is so no more. -/
def endThread (i : Nat) (x : Hoop) : Hoop :=
  let t := x.thread i
  let sts := (hopsOf x.part i t.route).map (·.stitch)
  let x := notify i 2 x
  let x := threadEvent i { t with st := .none, releasing := false } t.st 6 t.seq 0xFFFF 0xFFFF { x with thr := smDel x.thr i }
  let x := { x with rmap := buildMap x, wlm := { x.wlm with chains := smDel x.wlm.chains i } }
  let free := sts.filter (fun e => !(withHops x.part x.loadedThreads).any (fun q => q.2.2.any (fun k => k.stitch == e)))
  let x := remix (refreshElems sts (free.foldl (fun y e => dropTone e (fold e y)) x))
  let x := { x with cm := { x.cm with judging := x.cm.judging.map (fun j => { j with releases := j.releases.filter (· != i), lastVerdict := if j.releases.contains i then x.now - j.epoch else j.lastVerdict }) } }
  postPark (sts.filter (fun e => !routeHeld x e)) (outcomes x)

/-- An eyelet is confirmed dark: its confirmation leaves the sequence, and a release waiting for it is complete. -/
def darkOk (i : Nat) (x : Hoop) : Hoop :=
  let e := x.eyelet i
  let x := injDrop (e / 128) (fun f => f.chan == e && f.dark) (x.updChan e (fun c => { c with dark := 0, presel := false }))
  if (x.thread i).releasing then endThread i x else x

/-- A judged reading of an eyelet tap while its dark is being confirmed: two readings decide, and one that is not below the ceiling raises source
115 (R46, R110). -/
def darkRead (i r : Nat) (x : Hoop) : Hoop :=
  let e := x.eyelet i
  let below := decide (r < x.darkCeil (x.eyBand i))
  let d := (x.chan e).dark + (if below then 1 else 4)
  let x := x.updChan e (fun c => { c with dark := d })
  if d % 4 + d / 4 < 2 then x
  else if 4 ≤ d then fault 115 e (injLeave e x.now (x.updChan e (fun c => { c with dark := 0, presel := false })))
  else darkOk i x

/-- Eyelets confirmed since power-on or the last module dark (condition 6 of R286). -/
def confirmCount (i r : Nat) (x : Hoop) : Hoop :=
  if x.dk.confirmed || !decide (r < x.darkCeil (x.eyBand i)) then x
  else
    let m := smSet 0 x.dk.confirmed1 i (min 2 (smGet 0 x.dk.confirmed1 i + 1))
    { x with dk := { x.dk with confirmed1 := m, confirmed := (List.range x.n).all (fun j => smGet 0 m j == 2) } }

/-- An eyelet whose tap is lost is confirmed electrically by the post-check of a drive window (R208), with journal record 0x0008. -/
def electric (i : Nat) (x : Hoop) : Hoop :=
  let e := x.eyelet i
  if !(x.chan e).lost || (injOf x e).isNone && (smGet 0 x.dk.confirmed1 i == 2) then x
  else
    let m := smSet 0 x.dk.confirmed1 i 2
    let x := { x with dk := { x.dk with confirmed1 := m, confirmed := (List.range x.n).all (fun j => smGet 0 m j == 2) } }
    if (injOf x e).isSome then jnlPut 8 0xFF 0xFFFF false (words [0, 1]) (darkOk i x) else x

/-- WINDOW_END: the post-check (R169, R170); the reactions of a failing check come before its source clears. A dark eyelet whose tap is lost is
confirmed by a passing one. -/
def execWindowEnd (h : HoopId) (t : Nat) (fails : List Nat) (s : State) : Host.Outcome State Fault Refusal :=
  let open0 := ((s.hoop h).tile t).win.isSome
  let s' := if s.has h then windowEnd h t fails s else s
  let s' := if open0 then s'.upd h (fun x => ((tileElems t).filter (fun e => decide (x.nS ≤ e ∧ e < x.nE) && !fails.contains e && (x.elem e).st == .eyDark)).foldl
      (fun y e => electric (e - y.nS) y) x) else s'
  .next (settle s')

/-! ## A judged word -/

/-- The hoop with the slice that judges a channel: that of the commit being verified (R58), that of the pricking's images until they are
recompiled (R135), else the active one. -/
def judgeView (x : Hoop) (c : Nat) (pricked : Bool) : Hoop :=
  match x.thr.find? (fun t => t.2.st == .carrying && t.2.await.contains c) with
  | some t => x.atSlice t.2.slice
  | none => if pricked then { x with slice := x.imageSlice x.now } else x

/-- A VALID word of a channel that is not SETTLE: verdicts, light, darks (R44, R45, R101 to R110, R134). `start` is when it began to convert. A
reading that falls between an epoch of the channel and its trigger is not judged (R44, R98). -/
def verdict (c r start : Nat) (x : Hoop) : Hoop :=
  let i := c - x.nS
  let eye := decide (x.nS ≤ c ∧ c < x.nS + x.n)
  let x := if eye then confirmCount i r x else x
  if eye && (match injDue x c start with | some e => e.dark | none => false) then darkRead i r x
  else
    let x := if eye then lightPricked i r start (lightChange i r x) else x
    let awaited := x.thr.find? (fun t => t.2.seen x.now == .carrying && t.2.await.contains c)
    let at_ := match awaited with | some t => t.2.epoch | none => start
    let watched := awaited.isSome || x.thr.any (fun t => (t.2.seen x.now == .verified) && (threadChans x t.1 t.2).contains c) ||
      (injDue x c start).isSome
    if !watched || (injAll x c).any (fun e => decide (start < e.from_ ∧ e.from_ ≤ x.now + 1000)) then x
    else
      let x := pmcRaw 203 1 x
      let done : Hoop → Hoop := fun y => injLeave c start (y.updChan c (fun v => { v with presel := false }))
      let pk := judgedPricked x c start
      let v := judge (judgeView x c !pk.isEmpty) c r (vpAt x at_)
      match v with
      | .pass => loopVerdict c r true (judgePricked c pk v (passStanding c (done x)))
      | .fail => loopVerdict c r false (judgePricked c pk v (failStanding c (done x)))
      | .deferred => loopVerdict c r false (judgePricked c pk v (done x))
      | .wait => x

/-- Channels of a group that an occurrence of a dwell verifies, b(d) (R25, R133): at 1 % load with q = 0.4 µs and s = 1, else with q = 5.2 µs and
s = 0.81. -/
def occurrenceMax (light : Bool) (d : Nat) : Nat := min 16 (if light then (d - 1400) / 800 else (d - 6200) * 81 / 80000)

/-- C_p of a slot in a list, at 99 % load (R133). -/
def verifyCycles (x : Hoop) (l : PList) (p : Nat) (s : Slot) : Nat :=
  let b := max 1 (((List.range l.len).filter (fun i => (x.prk.entry l.store i).type == 0 && (x.prk.entry l.store i).index.toNat == p)).map
    (fun i => occurrenceMax false (x.prk.entry l.store i).dwell.toNat)).sum
  let cs := nub ((s.threads.map (fun q => threadChans x q.1 q.2)).flatten)
  maxL ((nub (cs.map (· / 128))).map (fun g => ((cs.filter (fun c => c / 128 == g)).length + b - 1) / b))

/-- VERIFY_DEADLINE (R44, R45, R100): 500 µs after the epoch, or after the reading that brought light back, with the eyelet lit and channels that
have not passed, or with a lost eyelet or egress tap (R106); a pricked thread has the larger of that and 2 C_p cycles (R134). -/
def deadline (i : Nat) (x : Hoop) : Hoop :=
  let t := x.thread i
  let late := decide (max t.epoch t.reinjFrom + 500000 ≤ x.now)
  let dead := (x.chan (x.eyelet i)).lost || (x.chan (x.egress t.outPort)).lost
  let x := if late && ((t.st == .carrying && !t.await.isEmpty && (!t.noLight || dead)) || (t.st == .verified && !t.noLight && !t.reinj.isEmpty)) then
      failThread i 114 0x1FFF (raiseEv 326 [t.seq, i] (.commit t.ring t.tenant) x) else x
  match x.prk.active with
  | none => x
  | some l => (x.prk.slots.filter (fun s => s.2.kind == .pattern)).foldl (fun y s =>
      match smFind s.2.threads i, s.2.first with
      | some u, some f =>
        let lim := max 500000 (2 * verifyCycles y l s.1 s.2 * l.cycle)
        if u.st = .carrying ∧ !u.noLight ∧ max f u.reinjFrom + lim ≤ y.now then failPricked s.1 i 114 0x1FFF (raiseEv 374 [s.1, i] .hoop y) else y
      | _, _ => y) x

def execVerifyDeadline (h : HoopId) (inPort : Nat) (s : State) : Host.Outcome State Fault Refusal := .next (s.act h (deadline inPort))

/-! ## Preselection (R185) -/

/-- The lowest range in which a current stays below 58,982 codes. -/
def rangeFor (x : Hoop) (cur : Nat) : BitVec 2 :=
  if cur < 58982 * x.mon.refMeas.toNat then 0 else if cur < 589820 * x.mon.refMeas.toNat then 1 else 2

/-- Set a changed channel's range until its verdict. -/
def presel (c : Nat) (rg : BitVec 2) (x : Hoop) : Hoop :=
  let v := x.chan c
  let v := if rg = v.range then v else v.switched x.now
  if v.auto then x.setChan c { v with range := rg, presel := true, low := 0 } else x

/-- Preselect the changed channels of a strobe; `x` is the hoop with the slice that judges them (R58): lit taps G2, taps expected dark G0, the others by their upper limits from the latest eyelet
readings. -/
def preselect (x : Hoop) (chans lit dark : List Nat) (vp : VParams) (h : Hoop) : Hoop :=
  let seen := fun (i : Nat) => wordValid (x.chan (x.eyelet i)).good
  let light := fun (i : Nat) => if (x.carrier i).lights then x.current (x.chan (x.eyelet i)).good else 0
  chans.foldl (fun y c =>
    if lit.contains c then presel c 2 y
    else if dark.contains c then presel c 0 y
    else if c < x.nS then
      (if (through x c).all seen then (match stitchBounds x c vp light with
        | some (_, hi) => presel c (rangeFor x (hi / 2 ^ 60)) y
        | none => presel c 0 y) else presel c 2 y)
    else if (through x (lastStitch x.part (c - x.nS - x.n))).all seen then presel c (rangeFor x (darkLimit x (c - x.nS - x.n) vp light / 2 ^ 48)) y
    else presel c 2 y) h

end Sys2Proof.Machine
end

