-- ==== Sys2Proof/Machine/Monitor.lean ====
section
/-!
DEFINITION. Monitor acquisition (R181 to R212): one conversion and what it sets off, ranges, lost channels and groups, the reference,
calibration of front ends and ADCs, and the commands that configure them; the ledger's intervals (R385).
-/

namespace Sys2Proof.Machine

/-! ## Losing a channel (R51, R106, R206, R207) -/

/-- The route of a thread passes a stitch. -/
def passesStitch (x : Hoop) (i : Nat) (t : Thread) (c : Nat) : Bool := (hopsOf x.part i t.route).any (fun k => k.stitch == c)

/-- A channel is a thread's eyelet or egress tap. -/
def endTap (x : Hoop) (i : Nat) (t : Thread) (c : Nat) : Bool := c == x.eyelet i || c == x.egress t.outPort

/-- A thread and the loss of a channel (R51, R106): a stitch tap leaves the set, and the thread carries DEGRADE; one that is being verified waits
for a lost eyelet or egress tap until its limit; a VERIFIED thread carries DEGRADE and is monitored on the rest. -/
def loseFor (x : Hoop) (c i : Nat) (t : Thread) : Thread :=
  let hold := endTap x i t c && (t.st == .settling || t.st == .carrying)
  if !(passesStitch x i t c || endTap x i t c || t.await.contains c) then t
  else { t with
    degrade := t.degrade || passesStitch x i t c || t.st == .verified
    await := if hold then insSorted c t.await else t.await.filter (· != c)
    reinj := t.reinj.filter (· != c), bad := smDel t.bad c }

/-- A channel is lost to the threads it judged, standing and pricked. A thread that waited for that stitch tap alone has passed. -/
def chanGone (c : Nat) (x : Hoop) : Hoop :=
  let y := { x with
    prk := { x.prk with slots := x.prk.slots.map (fun s => (s.1, { s.2 with
      rot := s.2.rot.filter (· != c), threads := s.2.threads.map (fun q => (q.1, loseFor x c q.1 q.2)) })) }
    thr := x.thr.map (fun q => (q.1, loseFor x c q.1 q.2)) }
  x.thr.foldl (fun y q => if (y.thread q.1).st = .carrying ∧ !q.2.await.isEmpty ∧ (y.thread q.1).await.isEmpty then goVerified q.1 y else y) y

/-- A channel is lost until the next power-on reset; its result entry reads 0, its loop falls to feed-forward. -/
def loseChan (cause c : Nat) (x : Hoop) : Hoop :=
  if (x.chan c).lost then x
  else
    let x := injClose c (x.updChan c (fun v => { v with
      lost := true, testing := false, spare := false, due := false, ret := false, owe := [], word := 0, stamp := 0, good := 0, rail := 0, dark := 0 }))
    let x := x.updGroup (c / 128) (fun g => { g with left := g.left.filter (· != c) })
    let x := if c < x.nE then fold c x else x
    raiseEv (128 + c / 128) [c / 128, cause, c % 128] .hoop (chanGone c x)

/-- A front end is lost (R206): source 106 with the channel as detail. A front end beyond the part's own is disabled (R4). -/
def loseFront (c : Nat) (x : Hoop) : Hoop :=
  if (x.chan c).lost || decide (Config.chans x.part ≤ c) then x else fault 106 c (loseChan 0 c x)

/-- A group is lost with all of its channels (R207). -/
def loseGroup (g : Nat) (x : Hoop) : Hoop :=
  if (x.group g).lost || decide (x.nG ≤ g) then x
  else
    let x := (groupChans x g).foldl (fun y c => loseChan 1 c y) ({ x with mon := { x.mon with adcCal := x.mon.adcCal.filter (· != g) } } |>.updGroup g (fun v => { v with lost := true, inj := [], injQueue := [] }))
    raiseEv (128 + g) [g, 1, 0] .hoop (if (x.src (64 + g)).live then x else fault (64 + g) g x)

/-! ## Roaming spare ADCs (R204, R209) -/

/-- Note a spare's assignment with event 176. -/
def setSpare (k g : Nat) (perm : Bool) (x : Hoop) : Hoop :=
  raiseEv 176 [k, g, bit perm] .hoop { x with mon := if k = 0 then { x.mon with spare0 := BitVec.ofNat 6 g, spare0Perm := perm }
    else { x.mon with spare1 := BitVec.ofNat 6 g, spare1Perm := perm } }

/-- A roaming spare that is not permanently assigned: one that serves no group, else one that stands in for a self-calibration. -/
def freeSpare (x : Hoop) : Option Nat :=
  if !x.mon.spare0Perm && x.mon.spare0 == 0x3F then some 0 else if !x.mon.spare1Perm && x.mon.spare1 == 0x3F then some 1
  else if !x.mon.spare0Perm then some 0 else if !x.mon.spare1Perm then some 1 else none

/-- A spare taken from the self-calibration of another group: that group has its slots back and waits for the other spare. -/
def callBack (k g : Nat) (x : Hoop) : Hoop :=
  let o := (if k = 0 then x.mon.spare0 else x.mon.spare1).toNat
  let x := { x with mon := { x.mon with adcCal := (if o = 0x3F ∨ o = g then [] else [o]) ++ x.mon.adcCal.filter (· != g) } }
  if o = 0x3F ∨ o = g then x else x.updGroup o (fun v => { v with spareAdc := false })

/-- A group ADC has failed (R209). -/
def adcFail (g : Nat) (x : Hoop) : Hoop :=
  if (x.group g).lost || decide (x.nG ≤ g) then x
  else match freeSpare x with
    | some k =>
      let x := fault 107 g (setSpare k g true ((callBack k g x).updGroup g (fun v => { v with spareAdc := true })))
      let x := raiseEv (128 + g) [g, 2, 0] .hoop x
      if x.mon.spare0Perm && x.mon.spare1Perm then fault 109 noDet x else x
    | none => if Config.duplex x.part then fault 108 g x else loseGroup g x

/-- ADC_CONVERSION_TIMEOUT: a conversion did not complete within 1 µs; the slot yields no word. -/
def execAdcConversionTimeout (h : HoopId) (g : Nat) (s : State) : Host.Outcome State Fault Refusal := .next (s.act h (adcFail g))

/-! ## The group's spare TIA (R181, R201, R206) -/

/-- What a group's spare TIA serves: a channel's photodiode, or its own calibration, numbered past the last channel. -/
def spareUser (x : Hoop) (g : Nat) : Option Nat :=
  match x.mon.chans.find? (fun q => q.1 / 128 == g && q.2.spare) with
  | some q => some q.1
  | none => match x.mon.cal with
    | some q => if q.chan = Config.chans x.part + g then some q.chan else none
    | none => none

/-- The spare of a channel's group is free for it. -/
def spareFree (x : Hoop) (c : Nat) : Bool :=
  match spareUser x (c / 128) with
  | some d => d == c
  | none => true

/-- The spare is switched onto a photodiode (R189). -/
def spareOn (c : Nat) (x : Hoop) : Hoop :=
  x.updChan c (fun v => if v.spare then { v with ret := false } else { v.switched x.now with spare := true, ret := false })

/-- Begin the 100 µs test of a front end on the spare; it waits while the spare serves another photodiode (R206). -/
def startTest (c : Nat) (x : Hoop) : Hoop :=
  if spareFree x c then (spareOn c x).updChan c (fun v => { v with testing := true, due := false }) else x.updChan c (fun v => { v with due := true })

/-- The spare of a group is free again: the first test that waits for it begins. -/
def spareFreed (g : Nat) (x : Hoop) : Hoop :=
  if (spareUser x g).isSome then x
  else match x.mon.chans.find? (fun q => q.1 / 128 == g && q.2.due) with
    | some q => startTest q.1 x
    | none => x

/-- A photodiode goes back to its own TIA, which costs two SETTLE conversions (R202). -/
def giveBack (c : Nat) (x : Hoop) : Hoop := spareFreed (c / 128) (x.updChan c (fun v => { v.switched x.now with spare := false, ret := false }))

/-! ## One conversion (R182 to R196) -/

/-- Start of the conversion whose slot of 400 ns ends now. From frame 0 on, slots end on the grid of NDL_REF_ORIGIN (R191): a word that comes between
two boundaries is that of the slot that has ended last. -/
def convStart (x : Hoop) : Nat :=
  if x.drv.refRun ∧ x.drv.refOrigin ≤ x.now then x.now - (x.now - x.drv.refOrigin) % 400 - 400 else x.now - 400

/-- Sources of conversions (R192, R196). -/
inductive Source | regular | injected | other
deriving DecidableEq, Repr

def Source.ix : Source → Nat
  | .regular => 0
  | .injected => 1
  | .other => 2

/-- A budget profile: its sources in order, each with its guaranteed slots (R196). -/
def budget (p : BitVec 2) : List (Source × Nat) :=
  if p = 0 then [(.regular, 16), (.injected, 4), (.other, 0)]
  else if p = 1 then [(.injected, 15), (.regular, 5), (.other, 0)]
  else [(.regular, 10), (.injected, 4), (.other, 6)]

/-- The window of 20 slots in which a slot begins (R191, R196); before frame 0 each slot stands alone. -/
def windowOf (x : Hoop) (t : Nat) : Nat := if x.drv.refRun ∧ x.drv.refOrigin ≤ t then t - (t - x.drv.refOrigin) % 8000 else t

/-- Slots that the sources of a group have had in the window of a slot. -/
def usedIn (x : Hoop) (g t : Nat) : List Nat := if (x.group g).window = windowOf x t then (x.group g).used else [0, 0, 0]

/-- A source of a group has pending work at a slot's start: entries of the pass, eligible injected entries, a calibration or the sweep. -/
def sourcePending (x : Hoop) (g t : Nat) : Source → Bool
  | .regular => !(x.group g).left.isEmpty
  | .injected => (x.group g).inj.any (fun e => decide (e.from_ ≤ t))
  | .other => Config.seqMode x.part || x.mon.calRun

/-- The source that a slot goes to (R196): in the profile's order the first with pending work and guaranteed slots left, then the first with pending
work. -/
def slotOwner (x : Hoop) (g t : Nat) : Source :=
  let b := budget ((x.group g).profileAt t)
  match b.find? (fun q => sourcePending x g t q.1 && decide ((usedIn x g t).getD q.1.ix 0 < q.2)) with
  | some q => q.1
  | none => match b.find? (fun q => sourcePending x g t q.1) with
    | some q => q.1
    | none => .other

/-- The eligible entry that the injected sequence converts next: in order, in passes (R195). -/
def nextInj (g : Group) (t : Nat) : Option Nat :=
  let el := g.inj.filter (fun e => decide (e.from_ ≤ t))
  match el.find? (fun e => !e.done) with
  | some e => some e.chan
  | none => el.head?.map (·.chan)

/-- The slot is the injected source's, and the channel is the one it converts next. -/
def injTakes (x : Hoop) (ch t : Nat) : Bool := nextInj (x.group (ch / 128)) t == some ch && slotOwner x (ch / 128) t == .injected

/-- Mark a channel of the sequence as converted in its pass; after the last eligible one a new pass begins. -/
def markInj (ch t : Nat) (l : List InjEntry) : List InjEntry :=
  let again := (l.filter (fun e => decide (e.from_ ≤ t))).all (·.done)
  l.map (fun e => if e.from_ ≤ t then { e with done := (e.done && !again) || e.chan == ch } else e)

/-- A slot of a source: its window's count, the injected or the regular pass, the load (R26). -/
def useSlot (ch t : Nat) (inj : Bool) (x : Hoop) : Hoop :=
  let g := ch / 128
  let s : Source := if inj then .injected else if (x.group g).left.contains ch then .regular else .other
  let u := usedIn x g t
  let x := x.updGroup g (fun v => { v with window := windowOf x t, used := u.set s.ix (u.getD s.ix 0 + 1), inj := if inj then markInj ch t v.inj else v.inj })
  if inj then { x with mon := { x.mon with injAt := (x.mon.injAt.filter (fun a => decide (t < a + 1000000))) ++ [t] } } else passConv ch x

/-- The conversion carries SETTLE (R189). -/
def settles (x : Hoop) (ch : Nat) : Bool :=
  let t := convStart x
  let v := x.chan ch
  v.owe.any (fun f => decide (f ≤ t)) || decide (0 < (x.group (ch / 128)).ovrSettle) || (decide (0 < v.settle) && decide (t < v.sw + 800))

/-- The result word (R187). -/
def resultWord (x : Hoop) (ch : Nat) (c : Conv) : Word :=
  let v := x.chan ch
  let st := settles x ch
  let nok := !x.mon.refOk
  BitVec.ofNat 32 ((if c.ovr then 65535 else if c.und then 0 else c.code.toNat) + v.range.toNat * 2 ^ 16 + bit c.ovr * 2 ^ 18 + bit c.und * 2 ^ 19
    + bit st * 2 ^ 20 + bit nok * 2 ^ 21 + bit c.inj * 2 ^ 22 + bit v.spare * 2 ^ 23 + ch % 128 * 2 ^ 24 + bit (!c.ovr && !st && !nok) * 2 ^ 31)

/-- Take the SETTLE that this conversion has paid off its causes. -/
def paySettle (ch : Nat) (c : Conv) (x : Hoop) : Hoop :=
  let t := convStart x
  let x := x.updGroup (ch / 128) (fun g => { g with ovrSettle := if c.ovr then 2 else g.ovrSettle - 1 })
  x.updChan ch (fun v => { v with owe := v.owe.filter (fun f => decide (t < f)), settle := if v.sw + 800 ≤ t then 0 else v.settle - 1 })

/-- Autorange (R184). Until its verdict a preselected channel only steps up after OVR (R185). -/
def autorange (ch : Nat) (w : Word) (x : Hoop) : Hoop :=
  let v := x.chan ch
  let code := w.toNat % 65536
  let ovr := w.getLsbD 18
  let up := decide (v.range.toNat < 2) && (ovr || (!v.presel && decide (58982 ≤ code)))
  let skip := w.getLsbD 20 || w.getLsbD 21
  let low := if ovr then 0 else if skip then v.low else if code < 4096 then v.low + 1 else 0
  if !v.auto then x
  else if up then x.setChan ch { v.switched x.now with range := v.range + 1, low := 0 }
  else if 8 ≤ low ∧ 0 < v.range.toNat ∧ !v.presel then x.setChan ch { v.switched x.now with range := v.range - 1, low := 0 }
  else x.setChan ch { v with low := if v.range = 0 then 0 else low }

/-- Count conversions at a rail; after 256 the spare is switched onto the photodiode for a test (R206). -/
def railCheck (ch : Nat) (c : Conv) (x : Hoop) : Hoop :=
  let v := x.chan ch
  if v.testing || v.spare then x
  else
    let n := if c.ovr || c.und then v.rail + 1 else 0
    let x := x.setChan ch { v with rail := n }
    if 256 ≤ n then startTest ch x else if v.due ∧ 256 ≤ v.rail then x.updChan ch (fun v => { v with due := false }) else x

/-- A conversion's part in its channel's second (R299). -/
def noteConv (x : Hoop) (w : Word) (q : ChStat) : ChStat :=
  let r := x.current w
  let q := { q with ovr := q.ovr + bit (w.getLsbD 18), spare := q.spare || w.getLsbD 23 }
  if wordValid w then { q with n := q.n + 1, sum := q.sum + r, min := if q.n = 0 then r else min q.min r, max := max q.max r } else q

/-- Counters of a conversion (R212, R430). -/
def countConv (ch : Nat) (w : Word) (x : Hoop) : Hoop :=
  let g := ch / 128
  let x := { x with hist := { x.hist with chStats := smUpd {} x.hist.chStats ch (noteConv x w) } }
  let x := pmcRaw (112 + g) 1 x
  let x := if w.getLsbD 22 then pmcRaw (154 + g) 1 x else x
  let x := if w.getLsbD 18 then pmcRaw 196 1 { x with mon := { x.mon with ovrCnt := satInc x.mon.ovrCnt } } else x
  let x := if w.getLsbD 20 then pmcRaw 197 1 x else x
  if w.getLsbD 21 then pmcRaw 198 1 { x with mon := { x.mon with refnokCnt := satInc x.mon.refnokCnt } } else x

/-- The ledger's interval that this VALID egress conversion ends (R385): counted where it passes the egress test, and a new one begins. -/
def ledgerConv (ch r : Nat) (x : Hoop) : Hoop :=
  let j := ch - x.nS - x.n
  if ch < x.nS + x.n then x
  else match endsOn x j with
    | none => x
    | some i =>
      let t := x.thread i
      if (smFind x.led.runs i).isNone || t.pricked then x
      else
        let ok := match inT x i with | some v => decide (v * x.egressMin j t.band ≤ r * 65536) | none => false
        let x := ledEnd i x.now (ok && !t.noLight) x
        if t.st == .carrying || t.st == .verified then ledStart i x.now x else x

/-- A channel whose words count: its group and itself are not lost. -/
def converts (x : Hoop) (ch : Nat) : Bool := decide (ch < Config.chans x.part) && !(x.chan ch).lost && !(x.group (ch / 128)).lost

/-- A channel that awaits a verdict (R202). -/
def calBusy (c : Nat) (x : Hoop) : Bool := x.thr.any (fun t => t.2.await.contains c || t.2.reinj.contains c) || (injOf x c).isSome

/-- A return to the channel's own TIA that waited for its verdict (R202). -/
def heldReturn (c : Nat) (x : Hoop) : Hoop := if (x.chan c).ret && !calBusy c x then giveBack c x else x

/-- A conversion ends: the word, its jobs, ranges, the ledger. A standby gives `held`, the holder's word, which its jobs use (R239). The word is the
injected source's where that source asks for the slot and R195 and R196 give it the slot for this channel. -/
def convert (ch : Nat) (c : Conv) (held : Option Word) (x : Hoop) : Hoop :=
  if !converts x ch then x
  else
    let start := convStart x
    let c := { c with inj := c.inj && injTakes x ch start }
    let w := resultWord x ch c
    let x := useSlot ch start c.inj (paySettle ch c x)
    let x := x.updChan ch (fun v => { v with word := w, stamp := BitVec.ofNat 32 (start + 120) })
    let x := countConv ch w x
    let u := held.getD w
    let r := x.current u
    let x := if wordValid u then
        let x := x.updChan ch (fun v => { v with good := u, goodAt := start })
        let awaited := x.thr.any (fun t => t.2.await.contains ch)
        let x := verdict ch r start x
        let x := if ch < x.nE then loopWord ch r awaited x else x
        ledgerConv ch r x
      else if ch < x.nE then loopNoWord ch x else x
    heldReturn ch (railCheck ch c (autorange ch w x))

/-- The standby's comparison of its own word with the holder's (R239): more than 64 codes apart in the same range on 8 consecutive conversions
raise source 163 against the group. -/
def wordCompare (ch : Nat) (w : Word) (x : Hoop) : Hoop :=
  let own := (x.chan ch).word
  let far := own.toNat / 65536 % 4 == w.toNat / 65536 % 4 && decide (64 < ((own.toNat % 65536 : Nat) - (w.toNat % 65536 : Nat) : Int).natAbs)
  let n := if far then (x.chan ch).diff + 1 else 0
  let x := x.updChan ch (fun v => { v with diff := n })
  let x := { x with bob := { x.bob with follow := true, cmpDiff := if far then satInc x.bob.cmpDiff else x.bob.cmpDiff } }
  if n = 8 then raiseEv 264 [ch / 128, ch % 128] .hoop (fault 163 (ch / 128) x) else x

/-- The hoop does not write the monitor plane, and its peer does (R205). -/
def planeElsewhere (s : State) (h : HoopId) : Bool := Config.duplex s.a.part && !(s.hoop h).mon.planeWr && (s.hoop (other h)).mon.planeWr

/-- The plane's range and front end of a channel: those that its writer has set, whatever this hoop has decided (R205). -/
def Chan.onPlane (v p : Chan) : Chan :=
  if v.range = p.range ∧ v.spare = p.spare then v else { v with range := p.range, spare := p.spare, settle := p.settle, sw := p.sw, low := p.low }

/-- One conversion in one hoop of the module: the standby follows the holder's words, and a hoop that does not write the plane its ranges. -/
def convertIn (h : HoopId) (ch : Nat) (c : Conv) (s : State) : State :=
  let p := (s.hoop (other h)).chan ch
  let held := if Config.duplex s.a.part && (s.hoop h).pair.role == .standby && p.word != 0 then some p.word else none
  let t := s.upd h (convert ch c held)
  let t := if Config.duplex s.a.part && (s.hoop h).pair.role == .standby then t.upd h (wordCompare ch p.word) else t
  if planeElsewhere s h then t.upd h (fun x => x.updChan ch (fun v => v.onPlane p)) else t

/-- CONVERSION_END. -/
def execConversionEnd (h : HoopId) (ch : Nat) (c : Conv) (s : State) : Host.Outcome State Fault Refusal := .next (settle (convertIn h ch c s))

/-- A channel of the regular sequence (R193). -/
def inRegular (x : Hoop) (ch : Nat) : Bool := (regularChans x).contains ch

/-- Channels of the sweep that have been read before and not within the last second (R194). -/
def sweepBehind (x : Hoop) : List Nat :=
  let reg := regularChans x
  (x.mon.chans.filter (fun c => wordValid c.2.good && decide (c.2.goodAt + 1000000000 < x.now) && converts x c.1 && !reg.contains c.1)).map (·.1)

/-- The sweep has fallen behind or has caught up: event 177 with the channels behind their one-second target (R211). -/
def sweepState (x : Hoop) : Hoop :=
  let n := (sweepBehind x).length
  if decide (0 < n) = x.mon.sweepDeferred then x else raiseEv 177 [n] .hoop { x with mon := { x.mon with sweepDeferred := decide (0 < n) } }

/-- TELEMETRY_SWEEP (R194): a channel missing from the regular sequence is converted; the parts in scan-mask mode have no sweep (R210). -/
def execTelemetrySweep (h : HoopId) (ch : Nat) (c : Conv) (s : State) : Host.Outcome State Fault Refusal :=
  .next (settle (if Config.seqMode s.a.part && s.has h && !inRegular (s.hoop h) ch then convertIn h ch { c with inj := false } (s.upd h sweepState) else s))

/-- SPARE_TEST_END (R206): the journal records whether the photodiode reads normally through the spare, and the channel is lost. A channel at a
rail whose spare does not read in range has not failed. -/
def spareEnd (ch : Nat) (normal : Bool) (x : Hoop) : Hoop :=
  let v := x.chan ch
  if !v.testing then x
  else
    let x := jnlPut 3 1 0xFFFF false (words [ch, bit normal]) (x.setChan ch { v.switched x.now with testing := false, spare := false, ret := false, rail := 0 })
    spareFreed (ch / 128) (if 256 ≤ v.rail ∧ !normal then x else loseFront ch x)

/-- What one hoop of the QN-0512D has found lost on the monitor plane is lost to both (R16). -/
def lostToBoth (h : HoopId) (f : Hoop → Hoop) (was : State) (s : State) : State :=
  if Config.duplex s.a.part && (s.hoop h).mon.chans != (was.hoop h).mon.chans && !(s.hoop (other h)).boot.por then s.upd (other h) f else s

def execSpareTestEnd (h : HoopId) (ch : Nat) (normal : Bool) (s : State) : Host.Outcome State Fault Refusal :=
  let t := s.upd h (spareEnd ch normal)
  .next (settle (lostToBoth h (fun x => if ((t.hoop h).chan ch).lost then loseFront ch x else x) s t))

/-! ## Reference (R197, R198) -/

/-- REF_OK_SET: `drift` is the largest departure that the reference monitor has seen over the last 50 µs, parts per million; within ±0.1 % the reference
is steady. -/
def refOkSet (drift : Nat) (x : Hoop) : Hoop :=
  if x.mon.refOk || decide (x.now < x.mon.refChanged + 50000) || decide (1000 < drift) then x
  else raiseEv 170 [1, x.mon.refSrc.toNat] .hoop { x with mon := { x.mon with refOk := true } }

def execRefOkSet (h : HoopId) (drift : Nat) (s : State) : Host.Outcome State Fault Refusal := .next (s.act h (refOkSet drift))

/-- Select a reference: REF_OK clears, and what the hoop measures of it against the internal one at this moment is in use (R197). AVDD/2 is measured
as REF_IN is (DESIGN CHOICE, assumption 139). -/
def selectRef (src : BitVec 2) (meas : Nat) (x : Hoop) : Hoop :=
  if src = x.mon.refSrc then x
  else raiseEv 170 [0, src.toNat] .hoop { x with mon := { x.mon with
    refSrc := src, refOk := false, refFallback := false, refChanged := x.now, refMeas := if src = 0 then 1250000 else BitVec.ofNat 32 meas } }

/-- REFERENCE_FALLBACK (R198): REF_IN has left its limits, the internal reference takes over, source 110. -/
def refFallback (x : Hoop) : Hoop :=
  if x.mon.refSrc != 1 then x
  else
    let was := x.mon.refMeas.toNat
    let x := selectRef 0 0 x
    fault 110 noDet (raiseEv 171 [was] .hoop { x with mon := { x.mon with refFallback := true } })

def execReferenceFallback (h : HoopId) (s : State) : Host.Outcome State Fault Refusal := .next (s.act h refFallback)

/-- Some changed channel awaits a verdict. A channel that is loaded for an epoch to come has not changed yet (R195). -/
def awaiting (x : Hoop) : Bool :=
  x.thr.any (fun t => !t.2.await.isEmpty || !t.2.reinj.isEmpty) ||
    x.mon.groups.any (fun g => (g.2.inj ++ g.2.injQueue).any (fun e => decide (e.from_ ≤ x.now + 1000)))

/-- REF_SEL. A change of SRC waits for the verdicts; a reference chosen anew ends the fallback and clears source 110. What the hoop measures of the
reference that it selects, in microvolts, no row gives: a free value (assumption 139). -/
def refSelVerb : Verb :=
  { check := fun k _ => decide (k.par 0 1 ≤ 2)
    run := fun k x =>
      let src := BitVec.ofNat 2 (k.par 0 1)
      if src = x.mon.refSrc then adminOk k x (storeSetting k 0 x)
      else if awaiting x || x.pricking then ({ status := 14 }, x)
      else
        let q := x.fresh
        adminOk k x (storeSetting k 0 (faultOff 110 (selectRef src q.1 q.2))) }

def execRefSel (h : HoopId) (r : Nat) (s : State) : Host.Outcome State Fault Refusal := .next (s.serve h r 0x44 refSelVerb)

/-- ADC_PROFILE (R196, R370). -/
def adcProfileVerb : Verb :=
  { check := fun k x => (decide (k.par 0 1 < x.nG) || k.par 0 1 == 0xFF) && decide (k.par 1 1 ≤ 2)
    run := fun k x =>
      let gs := if k.par 0 1 = 0xFF then List.range x.nG else [k.par 0 1]
      adminOk k x (storeSetting k (k.par 0 1) (gs.foldl (fun y g => y.updGroup g (fun v => { v with profile := BitVec.ofNat 2 (k.par 1 1) })) x)) }

def execAdcProfile (h : HoopId) (r : Nat) (s : State) : Host.Outcome State Fault Refusal := .next (s.serve h r 0x43 adcProfileVerb)

/-- VERIFY_CFG (R103): in force 1 ms after acceptance. -/
def verifyCfgVerb : Verb :=
  { check := fun k _ => decide (1 ≤ k.par 0 1 ∧ k.par 0 1 ≤ 30 ∧ k.par 1 1 ≤ 12)
    run := fun k x =>
      adminOk k x (storeSetting k 0 { x with cm := { x.cm with
        vp := { litTol := k.par 0 1, unlitMargin := k.par 1 1, absFloor := k.par 2 1 }, vpFrom := x.now + 1000000
        vpPast := (x.cm.vpFrom, x.cm.vp) :: x.cm.vpPast } }) }

def execVerifyCfg (h : HoopId) (r : Nat) (s : State) : Host.Outcome State Fault Refusal := .next (s.serve h r 0x42 verifyCfgVerb)

/-! ## Load (R26, R28) -/

/-- The load of a hoop in percent (R26): the larger of the injected conversions of the last 1 ms against the injected share of VERIFY, 1,875 a
group, and of the commands accepted in it against 200. -/
def Hoop.loadPct (x : Hoop) : Nat :=
  let recent := fun (l : List Nat) => (l.filter (fun a => decide (x.now < a + 1000000))).length
  min 100 (max (100 * recent x.mon.injAt / (1875 * x.nG)) (100 * recent x.mbx.accepted / 200))

/-- The history store cannot be deferred, or is (R28: it is the first). -/
def historyFirst (x : Hoop) : Bool := !x.hist.present || x.hist.failed || x.hist.deferring

/-- Work that a row says is deferred is deferred only above 1 % load (R26, R28; assumption 140). -/
def Hoop.mayDefer (x : Hoop) : Bool := decide (1 < x.loadPct)

/-- Whether the load defers what it may defer: the manual states no bound on the load, a free value decides (assumption 140). -/
def Hoop.defers (may : Bool) (x : Hoop) : Bool × Hoop := if may then (x.fresh.1 % 2 == 1, x.fresh.2) else (false, x)

/-! ## Calibration (R200 to R205) -/

/-- The lattice lies within 0.5 K of its setpoint. -/
def nearSetpoint (x : Hoop) : Bool :=
  decide ((x.tec.z0.mean - x.tec.eff.toNat).natAbs ≤ 50) && decide ((x.tec.z1.mean - x.tec.eff.toNat).natAbs ≤ 50)

/-- Channels to calibrate: those of the part, then one spare per group, numbered after the last channel. -/
def calCount (x : Hoop) : Nat := Config.chans x.part + x.nG

/-- What can be calibrated next, from an index on. -/
def calNext (x : Hoop) (k : Nat) : Option Nat :=
  ((List.range (calCount x - k)).map (· + k)).find? (fun c => decide (Config.chans x.part ≤ c) || converts x c)

/-- Begin with a channel: the spare is switched onto its photodiode (R201), unless calibration is paused, the channel awaits a verdict (R202) or the
spare serves another photodiode. -/
def calBegin (k : Option Nat) (retry : Bool) (x : Hoop) : Hoop :=
  match k with
  | none => x
  | some c =>
    let before := match x.mon.cal with
      | some q => if retry then (q.ofs0, q.gain0) else ((x.chan c).ofs, (x.chan c).gain)
      | none => ((x.chan c).ofs, (x.chan c).gain)
    let x := if c < Config.chans x.part ∧ !x.mon.calPaused ∧ (retry || !calBusy c x) ∧ spareFree x c then spareOn c x else x
    { x with mon := { x.mon with cal := some { chan := c, ph := .zero0, avgs := [], retry := retry, hold := false, ofs0 := before.1, gain0 := before.2 }, sparePass := decide (Config.chans x.part ≤ c), calSel := 0 } }

/-- The photodiode goes back to its own TIA, once its channel has its verdict (R202). -/
def calReturn (c : Nat) (x : Hoop) : Hoop :=
  if Config.chans x.part ≤ c then spareFreed (c - Config.chans x.part) x
  else if !(x.chan c).spare then x
  else if calBusy c x then x.updChan c (fun v => { v with ret := true })
  else giveBack c x

/-- The channel in progress keeps the trims it had before (R200, R203). -/
def calAbandon (q : Cal) (x : Hoop) : Hoop :=
  if q.chan < Config.chans x.part then (calReturn q.chan x).updChan q.chan (fun v => { v with ofs := q.ofs0, gain := q.gain0 }) else x

/-- The deviation of the lattice from its setpoint, of the zone that lies further away, as a 32-bit value in 0.01 degrees. -/
def latticeOffset (x : Hoop) : Nat :=
  let d0 := x.tec.z0.mean - x.tec.eff.toNat
  let d1 := x.tec.z1.mean - x.tec.eff.toNat
  (BitVec.ofInt 32 (if d0.natAbs < d1.natAbs then d1 else d0)).toNat

/-- CAL_PAUSE (R200): outside the window the channel in progress is abandoned, and the same channel begins anew once the lattice is back. -/
def calWindow (x : Hoop) : Hoop :=
  match x.mon.cal with
  | none => x
  | some q =>
    if x.mon.calPaused == !nearSetpoint x then x
    else
      let x := { x with mon := { x.mon with calPaused := !nearSetpoint x } }
      let x := raiseEv 175 [q.chan, latticeOffset x] .hoop x
      if x.mon.calPaused then (if q.hold then x else calAbandon q x)
      else if q.hold then x else calBegin (some q.chan) false x

/-- A round ends (R203): the count, the time, journal record 0x0013, event 172; the records go to MRAM (R295). -/
def calRoundEnd (x : Hoop) : Hoop :=
  let n := x.mon.calRound + 1
  let x := { x with mon := { x.mon with cal := none, calRun := false, calPaused := false, sparePass := false, calSel := 0, calRound := n, calTime := x.stamp, calEnd := x.now } }
  let x := mramWrite (.cal ((x.mon.chans.map (fun c => (c.1, ({ ofs := c.2.ofs, gain := c.2.gain, status := c.2.calStatus } : CalRec)))).filter (fun c => decide (c.2 ≠ {})))) x
  raiseEv 172 [n.toNat, x.now - x.mon.calStart, x.mon.calFailed.toNat] .hoop (jnlPut 0x13 0xFF 0xFFFF false (words [n.toNat, x.mon.calFailed.toNat]) x)

/-- Go on after a channel. -/
def calAdvance (c : Nat) (x : Hoop) : Hoop :=
  match calNext x (c + 1) with
  | some d => calBegin (some d) false x
  | none => calRoundEnd x

/-- Give a roaming spare its next group of the round (R204). -/
def adcTurn (k : Nat) (x : Hoop) : Hoop :=
  let perm := if k = 0 then x.mon.spare0Perm else x.mon.spare1Perm
  if perm then x
  else match x.mon.adcCal with
    | g :: gs => setSpare k g false ({ x with mon := { x.mon with adcCal := gs } } |>.updGroup g (fun v => { v with spareAdc := true }))
    | [] => setSpare k 0x3F false x

/-- A spare that serves no group takes the first one of a round; one that still stands in for a group goes on when that group's ADC is done. -/
def adcFirst (k : Nat) (x : Hoop) : Hoop := if (if k = 0 then x.mon.spare0 else x.mon.spare1) = 0x3F then adcTurn k x else x

/-- CAL_BLOCKED of each group at the start of a round: a group that is lost or whose ADC has no spare to stand in for it is not calibrated in
this round (R204, R207, R212); a group that becomes blocked raises its status event with cause 3 (R211). -/
def markBlocked (noSpare : Bool) (x : Hoop) : Hoop :=
  (List.range x.nG).foldl (fun y g =>
    let b := noSpare || (y.group g).lost
    let z := if b && !(y.group g).calBlocked then raiseEv (128 + g) [g, 3, 0] .hoop y else y
    z.updGroup g (fun v => { v with calBlocked := b })) x

/-- CAL_ROUND_START (R200): calibration is enabled and INTERVAL has passed. The ADCs' part of the round does not depend on the lattice (R204); the
channels wait, paused, while it lies more than 0.5 K from its setpoint. The load may defer the round, after history and TELEMETRY (R28). -/
def calRoundStart (x : Hoop) : Hoop :=
  if !x.mon.calEn || x.mon.calRun || decide (x.now < x.mon.calEnd + x.mon.calInterval.toNat * 1000000000) then x
  else
    let q := x.defers (x.mayDefer && historyFirst x && x.wlm.telDeferred)
    let x := q.2
    if q.1 then x else
    let x := { x with mon := { x.mon with
      calRun := true, calFailed := 0, calStart := x.now, calIMissing := false, calPaused := !nearSetpoint x
      adcCal := (List.range x.nG).filter (fun g => !(x.group g).lost && !(x.group g).spareAdc) } }
    let x := markBlocked (x.mon.spare0Perm && x.mon.spare1Perm) (faultOff 111 x)
    let x := if x.mon.spare0Perm && x.mon.spare1Perm then fault 109 noDet { x with mon := { x.mon with adcCal := [] } } else adcFirst 1 (adcFirst 0 x)
    calBegin (calNext x 0) false (if x.mon.calPaused then raiseEv 175 [(calNext x 0).getD 0x1FFF, latticeOffset x] .hoop x else x)

def execCalRoundStart (h : HoopId) (s : State) : Host.Outcome State Fault Refusal := .next (s.act h calRoundStart)

/-- Offset trim from a zero average taken at +64 steps of 20 µV (R183, R201). -/
def ofsTrim (x : Hoop) (avg : Nat) : Int := 64 - divRound ((avg * x.mon.refMeas.toNat : Nat) : Int) 1310720

/-- Gain trim from the average at 90 % of full scale, in steps of 0.02 % (R183, R201). -/
def gainTrim (old : BitVec 8) (avg : Nat) : Int := old.toInt + divRound ((47186 - (avg : Int)) * 5000) (max 1 avg)

/-- A trim fits 8 signed bits. -/
def trimOk (t : Int) : Bool := decide (-128 ≤ t ∧ t ≤ 127)

/-- A channel's calibration has failed (R203): once more, then its front end has failed. -/
def calFailCh (q : Cal) (rg resid : Nat) (trims : Bool) (x : Hoop) : Hoop :=
  if !q.retry && !trims then calBegin (some q.chan) true x
  else
    let x := raiseEv 173 [q.chan, rg, resid] .hoop { x with mon := { x.mon with calFailed := satInc x.mon.calFailed } }
    let x := if q.chan < Config.chans x.part then x.updChan q.chan (fun v => { v with calFail := true, calStatus := if trims then v.calStatus ||| 4 else BitVec.ofNat 16 (v.calStatus.toNat % 4 + 4 + 8 * min resid 8191) }) |> startTest q.chan else x
    calAdvance q.chan x

/-- CAL_STEP with the average of its measurement (R201 to R203). -/
def calStep (avg : Nat) (x : Hoop) : Hoop :=
  match x.mon.cal with
  | none => x
  | some q =>
    let c := q.chan
    let busy := calBusy c x
    let waits := if c < Config.chans x.part then !(x.chan c).spare else x.mon.chans.any (fun e => e.1 / 128 == c - Config.chans x.part && e.2.spare)
    let go := fun (ph : CalPh) (sel : BitVec 2) (y : Hoop) => { y with mon := { y.mon with cal := some { q with ph := ph, avgs := q.avgs ++ [avg] }, calSel := sel } }
    if q.hold then (if busy then x else calAdvance c (calReturn c x))
    else if x.mon.calPaused then x
    else match q.ph with
      | .zero0 => if !waits then go .zero1 0 x else if busy then x else if converts x c then calBegin (some c) q.retry x else calAdvance c x
      | .zero1 => go .zero2 0 x
      | .zero2 =>
        let ts := (q.avgs ++ [avg]).map (ofsTrim x)
        if !ts.all trimOk then calFailCh q ((ts.findIdx? (!trimOk ·)).getD 2) 0 true x
        else go .lvl0 1 (x.updChan c (fun v => { v with ofs := ts.map (fun t => BitVec.ofInt 8 t) }))
      | .lvl0 => go .lvl1 2 x
      | .lvl1 => go .lvl2 3 x
      | .lvl2 =>
        let dark := q.avgs.getD 2 0
        if 2 * avg < 47186 + 2 * dark then
          fault 111 noDet (raiseEv 174 [dark, avg] .hoop (calRoundEnd (calAbandon q { x with mon := { x.mon with calIMissing := true } })))
        else
          let old := (x.chan c).gain
          let ts := ((q.avgs ++ [avg]).drop 3).zip old |>.map (fun p => gainTrim p.2 p.1)
          if !ts.all trimOk then calFailCh q ((ts.findIdx? (!trimOk ·)).getD 2) 0 true x
          else go .check 3 (x.updChan c (fun v => { v with gain := ts.map (fun t => BitVec.ofInt 8 t) }))
      | .check =>
        let off := ((avg : Int) - 47186).natAbs
        let resid := off * 100000 / 47186
        if 47186 < 1000 * off then calFailCh q 2 resid false x
        else
          let x := x.updChan c (fun v => { v with calFail := false, calStatus := BitVec.ofNat 16 (1 + 8 * min resid 8191) })
          if busy then { x with mon := { x.mon with cal := some { q with hold := true } } } else calAdvance c (calReturn c x)

/-- A hoop that does not write the plane compares its trims with those that the plane holds (R205): more than 2 steps raise source 164. -/
def trimCompare (h : HoopId) (c : Nat) (s : State) : State :=
  if !planeElsewhere s h then s
  else
    let own := (s.hoop h).chan c
    let ref := (s.hoop (other h)).chan c
    let far := ((own.ofs ++ own.gain).zip (ref.ofs ++ ref.gain)).any (fun p => decide (2 < (p.1.toInt - p.2.toInt).natAbs))
    s.upd h (fun x => (if far then fault 164 c x else x).updChan c (fun v => { v with ofs := ref.ofs, gain := ref.gain }))

def execCalStep (h : HoopId) (avg : Nat) (s : State) : Host.Outcome State Fault Refusal :=
  let c := match (s.hoop h).mon.cal with | some q => some (q.chan, q.ph) | none => none
  let t := s.upd h (calStep avg)
  .next (settle (match c with
    | some (c, .zero2) => trimCompare h c t
    | some (c, .lvl2) => trimCompare h c t
    | _ => t))

/-- ADC_SELF_CAL_END (R204, R209): the test conversion of the midpoint decides; the spare goes to its next group. -/
def adcCalEnd (g mid : Nat) (x : Hoop) : Hoop :=
  let k := if x.mon.spare0.toNat = g ∧ !x.mon.spare0Perm then some 0 else if x.mon.spare1.toNat = g ∧ !x.mon.spare1Perm then some 1 else none
  match k with
  | none => x
  | some k =>
    let x := x.updGroup g (fun v => { v with spareAdc := false })
    if 16 < ((mid : Int) - 32768).natAbs then adcFail g (setSpare k 0x3F false x) |> fun y => if (if k = 0 then y.mon.spare0Perm else y.mon.spare1Perm) then y else adcTurn k y
    else adcTurn k x

def execAdcSelfCalEnd (h : HoopId) (g : Nat) (mid : Nat) (s : State) : Host.Outcome State Fault Refusal := .next (s.act h (adcCalEnd g mid))

/-- CAL_CFG (R200). -/
def calCfgVerb : Verb :=
  { check := fun k _ => decide (k.par 0 1 ≤ 1 ∧ k.par 1 2 ≤ 3600)
    run := fun k x => adminOk k x (storeSetting k 0 { x with mon := { x.mon with calEn := k.par 0 1 == 1, calInterval := BitVec.ofNat 12 (k.par 1 2) } }) }

def execCalCfg (h : HoopId) (r : Nat) (s : State) : Host.Outcome State Fault Refusal := .next (s.serve h r 0x45 calCfgVerb)

end Sys2Proof.Machine
end

