-- ==== Sys2Proof/Machine/Epochs.lean ====
section
/-!
DEFINITION. Standing epochs (R39, R44, R50, R82, R90 to R98, R105, R111, R114): what a commit does when its epoch is reached, the
common strobe, a late standby (R315), and the end of settling.
-/

namespace Sys2Proof.Machine

/-! ## Threads of a commit -/

/-- The change sets a route or a band, so that its thread settles and is verified afresh (R44, R50). -/
def Change.turns (g : Change) : Bool :=
  match g.kind with
  | .create => true
  | .reopen => true
  | .moved => true
  | .modify => g.after.route != g.before.route || g.after.band != g.before.band
  | _ => false

/-- The thread with what the change gives it. -/
def Change.into (g : Change) (t : Thread) : Thread :=
  { t with outPort := g.after.outPort, band := g.after.band, move := g.after.move, route := g.after.route, mixed := g.after.mixed,
           degrade := g.after.degrade, gen := g.after.gen }

/-- The former egress tap of a retargeted thread, which is judged dark for it where no thread of the commit ends on that port (R85, R102). -/
def formerTap (x : Hoop) (c : Commit) (g : Change) : List Nat :=
  if g.retarget && !c.changes.any (fun f => !f.dropped && f.inPort != g.inPort && f.after.outPort == g.before.outPort) then [x.egress g.before.outPort] else []

/-- One change at its epoch (R44, R46, R50): threads that are routed afresh go SETTLING and wait for their channels of the commit's set, a
release begins, a scheduled DARK takes effect. A release that is part of a fabric commit sends no notices (R415, assumption 25). -/
def loadChange (c : Commit) (x : Hoop) (g : Change) : Hoop :=
  let i := g.inPort
  let t := x.thread i
  match g.kind with
  | .release => (fun y : Hoop => if c.fcid.isSome then { y with wlm := { y.wlm with chains := smDel y.wlm.chains i } } else y)
      ((ledEnd i c.epoch false x).updThread i (fun t => { t with releasing := true }))
  | .dark => darkThread i 3 c.seq 0xFFFF x
  | _ =>
    let u := g.into t
    if !g.turns then x.setThread i u
    else
      let x := (ledEnd i c.epoch false x).setThread i { u with
        seq := c.seq, ring := c.ring, epoch := c.epoch, late := 0, bad := [], reinj := [], reinjFrom := 0
        noLight := t.noLight && g.kind != .create && g.kind != .reopen
        slice := c.slice, await := (needChans x i u).filter (fun k => c.chans.contains k) ++ formerTap x c g }
      if g.kind = .moved then
        pmcRaw 103 1 (raiseEv 323 [i, u.gen.toNat, c.seq] (.tenant t.tenant) (setSt i .settling 8 c.seq 0xFFFF x))
      else setSt i .settling 0 c.seq 0xFFFF x

/-- c of a commit at its epoch: the largest number of channels in one group, its own and those that still await a verdict from an earlier commit
(R85, R105). -/
def cMaxWith (x : Hoop) (chans : List Nat) : Nat :=
  let own := nub (chans.map (· / 128))
  cMaxOf ((sortNat (chans ++ (x.thr.map (fun t => t.2.await)).flatten)).filter (fun k => own.contains (k / 128)))

/-- What a commit's part in the outcome waits for (R104 to R107). -/
def judgedOf (x : Hoop) (c : Commit) : Judged :=
  { seq := c.seq, ring := c.ring, tenant := c.tenant, epoch := c.epoch, nCodes := c.delta.length, nCh := c.chans.length,
    cMax := cMaxWith x c.chans, chans := c.chans, fcid := c.fcid,
    ports := (c.changes.filter (fun g => g.kind != .release)).map (·.inPort)
    releases := (c.changes.filter (fun g => g.kind == .release && !g.dropped)).map (·.inPort) }

/-- Begin the confirmation of an eyelet that goes dark at an epoch: its trigger fires 1.0 µs after it (R110, R114). -/
def confirmAt (c : Commit) (i : Nat) (x : Hoop) : Hoop :=
  injectAt [x.eyelet i] c.key (c.epoch + 1000) true (x.updChan (x.eyelet i) (fun v => { v with dark := 0 }))

/-- Apply a commit to threads, elements and the route map. A scheduled DARK asks for its dark at its epoch, loaded by a strobe or not (R129, R151). -/
def applyCommit (c : Commit) (strobed : Bool) (x : Hoop) : Hoop :=
  let live := c.changes.filter (fun g => !g.dropped)
  let es := sortNat ((live.map (changeElems x)).flatten)
  let x := supersede c.chans c.key (c.epoch + 999) { x with cm := { x.cm with pending := x.cm.pending.filter (fun d => d.key != c.key) } }
  let before := x
  let x := oweSettle (c.chans.filter (fun k => !(x.chan k).lost)) (c.epoch + 1000) (live.foldl (loadChange c) x)
  let x := { x with rmap := buildMap x }
  let x := remix (refreshElems es x)
  let x := (live.filter (fun g => g.kind == .release)).foldl (fun y g => confirmAt c g.inPort y) x
  let x := (live.filter (fun g => g.kind == .dark)).foldl (fun y g => reqDark g.inPort (if strobed then confirmAt c g.inPort y else y)) x
  let x := { x with cm := { x.cm with judging := x.cm.judging ++ [judgedOf before c] } }
  match c.fcid with
  | some f => fabEnd (f % 4096) (f / 4096) 0 0 x
  | none => x

/-- What was routed against a part of this commit that did not load is withdrawn as DROPPED, in epoch order (R481). -/
def dropDeps (c : Commit) (x : Hoop) : Hoop :=
  (x.cm.pending.filter (fun d => d.doomed.contains c.key)).foldl (fun y d =>
    if y.cm.pending.any (fun e => e.key == d.key) then abortCommit d 5 true y else y) x

/-! ## The strobe (R93, R96 to R98) -/

/-- Every needle loads its register from its idle bank, the banks swap, and the follow copy makes them equal. -/
def loadAll (x : Hoop) : Hoop :=
  let x := (x.drv.needles.map (·.1)).foldl (fun y e =>
    let c := y.idleCode e
    loadReg (y.updNeedle e (fun v => { v with bank0 := c, bank1 := c })) e c) x
  { x with drv := { x.drv with bankSel := !x.drv.bankSel } }

/-- Feed-forward of a delta entry in heater LSB (R236). -/
def DeltaEntry.lsb (d : DeltaEntry) : Nat := if d.hrange then 4 * d.hff.toNat else d.hff.toNat

/-- What follows a strobe in the loops, the ranges and the tones (R185, R228, R231). `was` is the feed-forward band of each involved element
before it. -/
def afterLoad (cs : List Commit) (ds : List DeltaEntry) (was : List (Nat × Bool)) (x : Hoop) : Hoop :=
  let x := was.foldl (fun y q => strobeLoop q.1 ((ds.find? (fun d => d.elem == q.1)).map DeltaEntry.lsb) (q.2 != y.ffBand q.1) y) x
  let x := cs.foldl (fun y c =>
    let live := c.changes.filter (fun g => !g.dropped)
    preselect (y.atSlice c.slice) c.chans
      ((live.filter Change.turns).map (fun g => [y.eyelet g.inPort, y.egress g.after.outPort])).flatten
      ((live.filter (fun g => g.kind == .release || g.kind == .dark)).map (fun g => y.eyelet g.inPort))
      (vpAt y c.epoch) y) x
  (sortNat (was.map (·.1) ++ toneless x)).foldl (fun y e => chooseTone e y) x

/-- Elements involved in a strobe (R231), each with its band before it. -/
def involved (cs : List Commit) (ds : List DeltaEntry) (x : Hoop) : List (Nat × Bool) :=
  (sortNat (ds.map (·.elem) ++ ((cs.map (·.chans)).flatten.filter (fun k => decide (k < x.nE))))).map (fun e => (e, x.ffBand e))

/-- The parts of a stage's commits: threads, elements, outcomes, events. -/
def applyStage (cs : List Commit) (ds : List DeltaEntry) (x : Hoop) : Hoop :=
  let was := involved cs ds x
  let x := cs.foldl (fun y c => raiseEv 321 [c.seq, c.epoch % 2 ^ 32] (.commit c.ring c.tenant) (applyCommit c true y)) x
  let x := keeperRefresh (afterLoad cs ds was x)
  postStage (outcomes (cs.foldl (fun y c => dropDeps c y) x))

/-- The strobe of a stage that loads. -/
def strobeLoad (cs : List Commit) (x : Hoop) : Hoop :=
  let ds := x.tmb.stageDelta
  let tiles := x.tmb.strobeTiles
  let x := pmcRaw 97 1 (loadAll x)
  let x := tiles.foldl (fun y t => openWindow t .drive y) { x with tmb := { x.tmb with dacStaged := false, stagedSeq := none, stageDelta := [], strobeTiles := [] } }
  applyStage cs ds x

/-- End the commits whose threads are all dropped; none of their elements is staged any more (R111). -/
def endDropped (cs : List Commit) (x : Hoop) : Hoop := cs.foldl (fun y c => abortCommit c 5 false y) x

/-- The strobe of comparator `k` (R93, R97). `handing` says that a fault-driven hand-over from this hoop is under way: its strobe is gated,
and the commit proceeds in the hoop that takes the token. -/
def strobe (k : Nat) (handing : Bool) (x : Hoop) : Hoop :=
  if !(decide (k < 4) && cmpDue x k) then x
  else
    let x := cmpFire k x
    let cs := x.cm.pending.filter (fun c => c.stage == .armed k)
    let gone := cs.filter Commit.allDropped
    let live := cs.filter (fun c => !c.allDropped)
    if x.lineOn && handing then
      { x with cm := { x.cm with pending := x.cm.pending.filter (fun c => c.stage != .armed k) } }
    else if x.lineOn || x.tmb.hold then
      cs.foldl (fun y c => if y.cm.pending.any (fun d => d.key == c.key) then abortCommit c 2 true y else y) x
    else if live.isEmpty then endDropped gone x
    else strobeLoad live (endDropped (gone.map (fun c => { c with stage := .waiting })) x)

/-- A standby whose stage is not DAC_STAGED at the epoch (R315): its commits apply, and it writes the delta at the refresh slots of its
tiles. -/
def lateStandby (x : Hoop) : Hoop :=
  match x.cm.pending.find? (fun c => !c.delta.isEmpty) with
  | none => x
  | some c =>
    if x.pair.role != .standby || decide (x.now + 2 ≤ c.epoch) || !(c.stage == .waiting || c.stage == .posted) then x
    else
      let cs := x.cm.pending.filter (fun d => !d.delta.isEmpty && d.epochNs == c.epochNs)
      let gone := cs.filter Commit.allDropped
      let live := cs.filter (fun d => !d.allDropped)
      let ds := stageDeltaOf x live
      let tiles := sortNat (ds.map (fun d => d.elem / 32))
      let x := { x with
        pair := { x.pair with late := satInc x.pair.late, catchup := x.pair.catchup ++ tiles.map (fun t => (t, ds.filter (fun d => d.elem / 32 == t))) } }
      let x := raiseEv 549 [1, c.seq] .hoop x
      let x := stageInject live x
      applyStage live ds (endDropped (gone.map (fun d => { d with stage := .waiting })) x)

/-- A fault-driven hand-over from this hoop is under way. -/
def handingFrom (s : State) (h : HoopId) : Bool :=
  match s.duo.ho with
  | some o => o.kind == 1 && o.fromB == (s.hoop h).isB
  | none => false

/-- EPOCH_STROBE: comparator `k` of 0 to 3 fires, or the epoch of a late standby is reached. -/
def execEpochStrobe (h : HoopId) (k : Nat) (s : State) : Host.Outcome State Fault Refusal :=
  .next (s.act h (fun x => if (x.tb.cmp k).armed then strobe k (handingFrom s h) x else lateStandby x))

/-! ## Commits without codes (R82) -/

/-- The epoch of a commit with n = 0: the firmware applies it; its outcome is raised at once unless a release or a verification waits. -/
def zeroCode (seq ring : Nat) (x : Hoop) : Hoop :=
  match x.cm.pending.find? (fun c => c.seq == seq && c.ring == ring) with
  | none => x
  | some c =>
    if !c.delta.isEmpty || decide (x.now < c.epoch) then x
    else if c.allDropped then abortCommit c 5 false x
    else
      let waits := c.changes.any (fun g => !g.dropped && (g.turns || g.kind == .release))
      let x := applyCommit c false x
      let x := afterLoad [c] [] (involved [c] [] x) x
      let x := if waits then outcomes x
        else
          let ports := (judgedOf x c).ports
          putOutcome (outcomeOf x c.seq c.ring c.tenant (bit (ports.any (fun i => (x.thread i).partialEnd))) c.epoch 0 c.chans.length (cMaxOf c.chans) 0 ports)
            { x with cm := { x.cm with judging := x.cm.judging.filter (fun j => !(j.seq == c.seq && j.ring == c.ring)) } }
      dropDeps c x

def execZeroCodeEpoch (h : HoopId) (seq ring : Nat) (s : State) : Host.Outcome State Fault Refusal := .next (s.act h (zeroCode seq ring))

/-! ## Epoch + 1.0 µs (R44, R98, R195) -/

/-- Threads of a commit that have settled. -/
def settledOf (x : Hoop) (seq ring : Nat) : List Nat :=
  (x.thr.filter (fun q => q.2.st == .settling && q.2.seq == seq && q.2.ring == ring && decide (q.2.epoch + q.2.late + 1000 ≤ x.now))).map (·.1)

/-- SETTLING_END: the commit's SETTLING threads go CARRYING and become countable. The groups with its injected channels are under VERIFY from this
instant on (`Group.profileAt`). -/
def settlingEnd (seq ring : Nat) (x : Hoop) : Hoop :=
  (settledOf x seq ring).foldl (fun y i =>
    let at_ := (y.thread i).epoch + (y.thread i).late + 1000
    let y := setSt i .carrying 0 seq 0xFFFF y
    if (y.thread i).noLight then y else ledStart i at_ y) x

def execSettlingEnd (h : HoopId) (seq ring : Nat) (s : State) : Host.Outcome State Fault Refusal := .next (s.act h (settlingEnd seq ring))

end Sys2Proof.Machine
end

