-- ==== Sys2Proof/Machine/Pricking.lean ====
section
/-!
DEFINITION. Pricking (R116 to R137): slots, list stores, start, swap and stop, the stage of an entry, its strobe, the cycle boundary, and the
end by a fault or by temperature.
-/

namespace Sys2Proof.Machine

/-- Change the pricking unit. -/
def Hoop.updPrk (x : Hoop) (f : Prk → Prk) : Hoop := { x with prk := f x.prk }

/-! ## Slots (R116, R117) -/

/-- A part of a slot load: its slot, FIRST, LAST, its descriptors. -/
def slotPart (k : Ctx) : Nat × Bool × Bool × List Nat :=
  let b := paramOf k.cmd.bytes
  (field b 0 1, field b 1 1 % 2 == 1, field b 1 1 / 2 % 2 == 1, (List.range ((b.length - 2) / 8)).map (fun j => field b (2 + 8 * j) 8))

/-- A pricked descriptor's fields are legal (R117). -/
def prickedOk (x : Hoop) (d : Desc) : Bool :=
  decide (d.inPort < x.n) && decide (d.outPort < x.n) && !d.rsv && d.pricked && decide (1 ≤ d.tenant ∧ d.tenant ≤ 4095)

/-- The standing threads with every pending commit applied. -/
def finalTable (x : Hoop) : SMap Thread := x.cm.pending.foldl (fun t c => applyTo t c.changes) x.thr

/-- Every table the standing threads pass through: the present one, then the one after each pending commit. -/
def tablesThrough (t : SMap Thread) : List Commit → List (SMap Thread)
  | [] => [t]
  | c :: cs => t :: tablesThrough (applyTo t c.changes) cs

/-- A standing thread holds a port, now or at any epoch of the pending commits (R43). -/
def portHeld (x : Hoop) (i o : Nat) : Bool :=
  (tablesThrough x.thr x.cm.pending).any (fun t => t.any (fun q => q.2.st != .none && (q.1 == i || q.2.outPort == o)))

/-- Route the threads of a slot around the standing ones, which are pinned (R47, R51, R52, R116). -/
def routeSlot (x : Hoop) (ds : List Desc) : Option (SMap Thread) :=
  let fixed := ((finalTable x).filter (fun q => q.2.st != .none)).map (fun q => placedOf x.part q.1 q.2 q.2.band)
  if ds.any (fun d => endsBad x [] { op := 1, inPort := d.inPort, outPort := d.outPort, band := d.band }) then none
  else match routeAll x fixed [] (ds.map (fun d => ({ inPort := d.inPort, outPort := d.outPort, band := d.band } : Req))) with
    | none => none
    | some c =>
      let all := c.set ++ fixed
      some (ds.foldl (fun t d =>
        let r := ((c.set.find? (fun q => q.req.inPort == d.inPort)).map (·.route)).getD []
        smPut t d.inPort {
          outPort := d.outPort, tenant := d.tenant, band := d.band, pricked := true, move := d.move, route := r,
          mixed := (hopsOf x.part d.inPort r).any (fun k => mixedAt all k.stitch), degrade := routeLost x (hopsOf x.part d.inPort r) }) [])

/-- Check a loaded slot at its LAST part and store it. -/
def slotLast (slot : Nat) (ds : List Desc) (x : Hoop) : Ans × Hoop :=
  let x := x.updPrk (fun p => { p with load := none })
  if !ds.all (prickedOk x) then ({ status := 4 }, x)
  else if !distinct (ds.map (·.inPort)) || !distinct (ds.map (·.outPort)) || ds.any (fun d => portHeld x d.inPort d.outPort) then ({ status := 14 }, x)
  else match tagOver x (ds.map (·.tenant)) with
    | some t => ({ status := 14 }, raiseEv 37 [t] .hoop x)
    | none =>
      if x.prk.referenced.contains slot then ({ status := 14 }, x)
      else match routeSlot x ds with
        | none => ({ status := 8 }, x)
        | some t => ({ status := 0 }, x.updPrk (fun p => { p with slots := smSet {} p.slots slot { kind := .pattern, threads := t } }))

/-- PRK_SLOT_LOAD. A part that is not FIRST continues the load of its slot. -/
def slotLoadVerb : Verb :=
  { check := fun k x => let q := slotPart k
      field (paramOf k.cmd.bytes) 1 1 / 4 == 0 && (q.2.1 || (match x.prk.load with | some l => l.1 == q.1 | none => false))
    run := fun k x =>
      let (slot, first, last, ds) := slotPart k
      let held := if first then [] else (match x.prk.load with | some l => l.2 | none => [])
      let all := held ++ ds.map (BitVec.ofNat 64)
      if last then slotLast slot (all.map (fun d => descOf (leBytes 8 d.toNat))) x
      else ({ status := 0 }, x.updPrk (fun p => { p with load := some (slot, all) })) }

/-- PRK_SLOT_MASK. -/
def slotMaskVerb : Verb :=
  { check := anyForm
    run := fun k x =>
      let slot := k.par 0 1
      if x.prk.referenced.contains slot then ({ status := 14 }, x)
      else ({ status := 0 }, x.updPrk (fun p => { p with slots := smSet {} p.slots slot { kind := .mask, mask := BitVec.ofNat 512 (k.par 1 (x.n / 8)) } })) }

/-- PRK_SLOT_CLEAR. -/
def slotClearVerb : Verb :=
  { check := anyForm
    run := fun k x =>
      if x.prk.referenced.contains (k.par 0 1) then ({ status := 14 }, x)
      else ({ status := 0 }, x.updPrk (fun p => { p with slots := smDel p.slots (k.par 0 1) })) }

/-! ## Lists (R119, R120) -/

/-- An entry from its 64 bits. -/
def entryOf (v : Nat) : PEntry :=
  { dwell := BitVec.ofNat 32 v, index := BitVec.ofNat 8 (v / 2 ^ 32), type := BitVec.ofNat 2 (v / 2 ^ 40), rsv := BitVec.ofNat 22 (v / 2 ^ 42) }

/-- The store of the list that runs or is to start. -/
def Prk.activeStore (p : Prk) : Option Bool := p.active.map (·.store)

/-- PRK_LIST_WRITE. -/
def listWriteVerb : Verb :=
  { check := fun k _ => decide (k.par 0 1 ≤ 1) && decide (k.par 1 2 + ((paramOf k.cmd.bytes).length - 3) / 8 ≤ 1024)
    run := fun k x =>
      let b := paramOf k.cmd.bytes
      let store := k.par 0 1 == 1
      if x.prk.activeStore == some store then ({ status := 14 }, x)
      else
        let put := fun (m : SMap PEntry) => (List.range ((b.length - 3) / 8)).foldl (fun m j => smSet emptyEntry m (k.par 1 2 + j) (entryOf (field b (3 + 8 * j) 8))) m
        ({ status := 0 }, x.updPrk (fun p => if store then { p with store1 := put p.store1 } else { p with store0 := put p.store0 })) }

/-- Fields of PRK_START and PRK_SWAP. -/
structure ListArg where
  store : Bool
  len : Nat
  base : Nat
  repeats : Nat
deriving DecidableEq, Repr

def listArg (k : Ctx) : ListArg :=
  { store := k.par 0 1 == 1, len := k.par 1 2, base := k.par 3 6 * 1000000000 + k.par 9 4, repeats := k.par 13 4 }

/-- The field values of a list are legal (check 1 of R120). -/
def listFields (k : Ctx) (x : Hoop) : Bool :=
  let a := listArg k
  decide (k.par 0 1 ≤ 1) && decide (1 ≤ a.len ∧ a.len ≤ 1024) && decide (k.par 9 4 ≤ 999999999) &&
    decide (a.base ≤ x.tb.ptpOf x.now + 3600000000000) &&
    (List.range a.len).all (fun i =>
      let e := x.prk.entry a.store i
      let kind := (x.prk.slot e.index.toNat).kind
      decide (2000 ≤ e.dwell.toNat) && e.rsv == 0 && e.type != 3 && (e.type != 1 || e.index == 0) &&
        (e.type != 0 || kind == .pattern) && (e.type != 2 || kind == .mask))

/-- Checks 2 to 5 of R120: the status of the first that fails. -/
def listCheck (x : Hoop) (a : ListArg) : Option Nat :=
  let ds := dwells x.prk a.store a.len
  let long := fun (s : Nat) => maxL (((List.range a.len).filter (fun i => (x.prk.entry a.store i).type == 0 && (x.prk.entry a.store i).index.toNat == s)).map
    (fun i => (x.prk.entry a.store i).dwell.toNat))
  if 4294967295 < ds.sum then some 13
  else if ds.getLastD 0 < 2932 then some 10
  else if (listSlots x.prk a.store a.len).any (fun s => decide (long s < 7188)) then some 10
  else if !x.ths.commitOk then some 12
  else none

/-- A pricked port of the list that a standing thread holds (R43). -/
def listHeld (x : Hoop) (a : ListArg) : Bool :=
  (listSlots x.prk a.store a.len).any (fun s => (x.prk.slot s).threads.any (fun t => portHeld x t.1 t.2.outPort))

/-- The number of the first boundary at or after an instant, both in PTP nanoseconds (R122). -/
def firstK (base cycle at_ : Nat) : Nat := if at_ ≤ base then 0 else (at_ - base + cycle - 1) / cycle

/-- A list that begins at boundary `k`. -/
def makeList (x : Hoop) (a : ListArg) (k : Nat) : PList :=
  let l := (dwells x.prk a.store a.len).sum
  let p : PList := {
    store := a.store, len := a.len, baseNs := a.base, repeats := a.repeats, cycle := l, startK := k
    startAt := x.tb.cntOf (a.base + k * l), short := 0, firstShort := 0 }
  let sh := shortEntries x p
  { p with short := sh.length, firstShort := sh.headD 0 }

/-- RESULT of PRK_START and PRK_SWAP (R358). -/
def listAns (x : Hoop) (p : PList) : Ans :=
  { status := 0, result := p.startK % 2 ^ 32 + p.short % 2048 * 2 ^ 32 + p.firstShort % 1024 * 2 ^ 43, epochNs := some (x.tb.ptpOf p.startAt) }

/-- Post the stage of the next entry (R152). An entry of no codes has none (R82); a catch-up is looked at again when it is staged. -/
def postPrk (x : Hoop) : Hoop :=
  if prkNext x = .nothing then x
  else
    let n := (prkDelta x).length
    let y := Hoop.updPrk { x with tmb := { x.tmb with normal := x.tmb.normal.filter (fun o => o.code != 2) } } (fun p => { p with nextStaged := false, codes := n })
    if n = 0 ∧ !nextCatchup x then y else postNormal { code := 2 } y

/-- The comparator of 4 and 5 that carries the next entry epoch (R121): the one armed longer ago. -/
def entryCmp (x : Hoop) : Nat := if (x.tb.cmp 4).t16 ≤ (x.tb.cmp 5).t16 then 4 else 5

/-- Arm a pricking comparator for a count, or hold it beyond the horizon (R69, R121). -/
def armCount (k c : Nat) (x : Hoop) : Hoop := armAt k (x.tb.ptpOf c) x

/-- Stage again where something else now follows the current entry (R123 to R125): what is staged is restored first, and the entry epoch is armed
where none was to come. -/
def restagePrk (was : PNext) (x : Hoop) : Hoop :=
  if prkNext x = was then x
  else
    let y := if x.prk.nextStaged then postNormal { code := 3 } x else x
    let y := if was = .finish then armCount (entryCmp y) y.prk.nextEpoch y else y
    postPrk y

/-- A pending commit with codes loads before the list begins or after it ends, or where it fits in one of the list's OPEN entries (R129, R130). A
start that any other stands against is BUSY (DESIGN CHOICE, assumption 141). -/
def fitsList (x : Hoop) (l : PList) (c : Commit) : Bool :=
  c.delta.isEmpty || decide (c.epoch < l.startAt) || (match l.final with | some f => decide (f ≤ c.epoch) | none => false) ||
    (let y := { x with cm := { x.cm with pending := x.cm.pending.filter (fun d => decide (d.epochNs < c.epochNs)) } }
     (List.range l.len).any (fun i => (x.prk.entry l.store i).type == 1 &&
       fitOpen y l (listImages x l) (l.startK + (c.epoch - l.startAt) / max 1 l.cycle) i c.epochNs c.delta.length false == some c.epochNs))

/-- PRK_START (R120 to R122). A start while a list runs or is to start is BUSY. -/
def startVerb : Verb :=
  { check := listFields
    run := fun k x =>
      let a := listArg k
      if x.prk.active.isSome || listHeld x a then ({ status := 14 }, x)
      else match listCheck x a with
        | some st => ({ status := st }, x)
        | none =>
          let kk := firstK a.base (dwells x.prk a.store a.len).sum (x.tb.ptpOf x.now + 6000)
          if a.repeats != 0 && decide (a.repeats ≤ kk) then ({ status := 11 }, x)
          else
            let l := makeList x a kk
            if !x.cm.pending.all (fitsList x l) then ({ status := 14 }, x)
            else
              let y := Hoop.updPrk { x with cm := { x.cm with pending := x.cm.pending.map (fun c => { c with placed := !c.delta.isEmpty && decide (l.startAt ≤ c.epoch) }) } }
                (fun p => { p with
                  active := some l, swap := none, started := false, stopAt := none, pos := 0, curType := 0, heldNow := false, catchup := true
                  endCause := 0, held := 0, heldLast := 0, startK := BitVec.ofNat 32 kk, short := l.short, firstShort := l.firstShort, base := a.base
                  nextEpoch := l.startAt, tempEnd := false, loaded := none, lit := [], cycleNum := 0, cycleStart := 0, eyeIn := [] })
              (listAns x l, postPrk (armCount (entryCmp y) l.startAt (armCount 6 l.startAt y))) }

/-- The extended Euclidean algorithm: x with a x congruent to gcd(a, b) modulo b, and the gcd. -/
def egcd : Nat → Int → Int → Int → Int → Int × Int
  | 0, a, _, u, _ => (a, u)
  | fuel + 1, a, b, u, v => if b = 0 then (a, u) else egcd fuel b (a % b) v (u - a / b * v)

/-- The least m at or above `lo` with t0 + m la congruent to b modulo lb. -/
def meet (t0 la b lb lo : Nat) : Option Nat :=
  let (g, u) := egcd 100 la lb 1 0
  let d : Int := ((b : Int) - (t0 : Int)) % (lb : Int)
  if g = 0 ∨ d % g ≠ 0 then none
  else
    let q : Int := (lb : Int) / g
    let m0 : Int := ((d / g) * u) % q
    let m : Int := m0 + (((lo : Int) - m0 + q - 1) / q) * q
    some (if m0 < (lo : Int) then m else m0).toNat

/-- The instant of a swap in PTP nanoseconds (R123): a boundary of both lists at least 6 µs ahead. -/
def swapAt (x : Hoop) (l : PList) (a : ListArg) : Option Nat :=
  let now := x.tb.ptpOf x.now
  let t0 := x.tb.ptpOf l.startAt
  let lb := (dwells x.prk a.store a.len).sum
  let from_ := max (now + 6000) a.base
  let lo := firstK t0 l.cycle from_
  match meet t0 l.cycle a.base lb lo with
  | none => none
  | some m =>
    let t := t0 + m * l.cycle
    let late := match l.final with | some f => decide (x.tb.ptpOf f < t) | none => false
    if late || decide (now + 3600000000000 < t) then none else some t

/-- A standing commit has been placed in an OPEN entry at or after an instant (R123). -/
def placedAfter (x : Hoop) (ns : Nat) : Bool := x.cm.pending.any (fun c => c.placed && decide (ns ≤ c.epochNs))

/-- PRK_SWAP (R123). -/
def swapVerb : Verb :=
  { check := fun k x => listFields k x && (match x.prk.active with
      | some l => (listCheck x (listArg k)).isSome || (swapAt x l (listArg k)).isSome
      | none => true)
    run := fun k x =>
      let a := listArg k
      match x.prk.active with
      | none => ({ status := 14 }, x)
      | some l =>
        if x.prk.swap.isSome || x.prk.stopAt.isSome || l.store == a.store || listHeld x a then ({ status := 14 }, x)
        else match listCheck x a, swapAt x l a with
          | some st, _ => ({ status := st }, x)
          | none, none => ({ status := 4 }, x)
          | none, some t =>
            let kk := (t - a.base) / max 1 (dwells x.prk a.store a.len).sum
            if a.repeats != 0 && decide (a.repeats ≤ kk) then ({ status := 11 }, x)
            else if placedAfter x t then ({ status := 14 }, x)
            else
              let s := makeList x a kk
              (listAns x s, restagePrk (prkNext x) (x.updPrk (fun p => { p with
                swap := some s, startK := BitVec.ofNat 32 kk, short := s.short, firstShort := s.firstShort }))) }

/-- PRK_SWAP_DISARM (R123): until 6 µs before the instant. -/
def swapDisarmVerb : Verb :=
  { check := anyForm
    run := fun _ x => match x.prk.swap with
      | none => ({ status := 0 }, x)
      | some s => if s.startAt < x.now + 6000 then ({ status := 11 }, x) else ({ status := 0 }, restagePrk (prkNext x) (x.updPrk (fun p => { p with swap := none }))) }

/-! ## The end (R124, R134, R135) -/

/-- Ask for the dark of an eyelet without putting it into the override (R124, R128). -/
def reqDarkOnly (i : Nat) (x : Hoop) : Hoop := { x with tmb := { x.tmb with darkReq := x.tmb.darkReq ||| BitVec.twoPow 512 i } }

/-- Change every thread of the slots that are given. -/
def updSlots (ks : List Nat) (f : Slot → Slot) (x : Hoop) : Hoop :=
  x.updPrk (fun p => { p with slots := p.slots.map (fun e => if ks.contains e.1 ∧ e.2.kind = .pattern then (e.1, f e.2) else e) })

/-- The order in which a slot's channels verify: eyelet taps first, then ascending (R132). -/
def rotation (x : Hoop) (s : Slot) : List Nat :=
  let cs := sortNat ((s.threads.map (fun t => threadChans x t.1 t.2)).flatten)
  let eye := fun (c : Nat) => decide (x.nS ≤ c ∧ c < x.nS + x.n)
  cs.filter eye ++ cs.filter (fun c => !eye c)

/-- Slots begin verification afresh (R124, R133): their threads are STAGED until their first occurrence. -/
def freshSlots (ks : List Nat) (x : Hoop) : Hoop :=
  updSlots ks (fun s => { s with
    rot := rotation x s, first := none, firstCycle := 0, verified := false
    threads := s.threads.map (fun t => (t.1, { t.2 with bad := [], noLight := false, reinjFrom := 0, vSince := 0, await := needChans x t.1 t.2 })) }) (renew ks x)

/-- The loop tick's elements that the slots set go to FF (R238). -/
def holdLoops (ks : List Nat) (x : Hoop) : Hoop :=
  let es := sortNat ((ks.map (fun k => ((x.prk.slot k).threads.map (fun t => x.eyelet t.1 :: (hopsOf x.part t.1 t.2.route).map (·.stitch))).flatten)).flatten)
  es.foldl (fun y e => fold e y) x

/-- Settle the ledger of the open pricked eyelets at a count. -/
def payAll (at_ : Nat) (x : Hoop) : Hoop :=
  (x.prk.lit.foldl (fun y i => prkPay i at_ true y) x).updPrk (fun p => { p with occFrom := max p.occFrom at_ })

/-- The pricking becomes inactive: END_CAUSE, threads of the slots report none, comparators 4 to 6 are free, a stage of it is taken back.
Recompiled slots stay with their new routes. -/
def clearPrk (cause : Nat) (x : Hoop) : Hoop :=
  match x.prk.active with
  | none => x
  | some _ =>
    let ks := (x.prk.slots.filter (fun e => e.2.kind == .pattern)).map (·.1)
    let y := clearInj prkKey (payAll x.now x)
    let y := unoverride ks (updSlots ks (fun s => { s with
      pend := [], threads := s.last.map (fun t => (t.1, { t.2 with st := .none, await := [], bad := [], noLight := false })) }) y)
    let staged := y.prk.nextStaged
    let y := y.updPrk (fun p => { p with
      active := none, swap := none, stopAt := none, started := false, endCause := BitVec.ofNat 2 cause, nextStaged := false, codes := 0, eyeIn := []
      heldNow := false, catchup := false, loaded := none, lit := [], curType := 0, pos := 0, tempEnd := false })
    let y := { y with prkSlice := [], tmb := { y.tmb with normal := y.tmb.normal.filter (fun o => o.code != 2) } }
    let y := [4, 5, 6].foldl (fun z k => cmpDisarm k { z with tb := { z.tb with heldEvents := z.tb.heldEvents.filter (fun e => e.1 != k) } }) y
    let y := if staged then postNormal { code := 3 } y else y
    { y with rmap := buildMap y }

/-- The pricking ends, with event 370. -/
def endPrk (cause : Nat) (x : Hoop) : Hoop :=
  if x.prk.active.isSome then postStage (raiseEv 370 [cause, x.prk.cycleNum] .hoop (clearPrk cause x)) else x

/-- The first boundary at least 6 µs ahead of the list that will run then (R124). -/
def stopBoundary (x : Hoop) (l : PList) : Nat :=
  let t := fun (q : PList) => q.boundary (q.startK + firstK q.startAt q.cycle (x.now + 6000))
  let b := t l
  let b := match x.prk.swap with | some s => if s.startAt < b then t s else b | none => b
  match l.final with | some f => min f b | none => b

/-- A stop at the next boundary; it overrides a swap at or after it. -/
def armStop (temp : Bool) (x : Hoop) : Hoop :=
  match x.prk.active with
  | none => x
  | some l =>
    let b := stopBoundary x l
    restagePrk (prkNext x) <| x.updPrk (fun p => { p with stopAt := some b, tempEnd := temp, swap := match p.swap with | some s => if b ≤ s.startAt then none else some s | none => none })

/-- PRK_STOP (R124). With no list there is nothing to stop. -/
def stopVerb : Verb :=
  { check := fun k _ => decide (k.par 0 1 ≤ 1)
    run := fun k x =>
      if k.par 0 1 = 1 then
        let lit := x.prk.lit
        ({ status := 0 }, lit.foldl (fun y i => reqDarkOnly i y) (endPrk 2 x))
      else ({ status := 0 }, armStop false x) }

/-- The lattice leaves the commit gate while a pricking is active (R135): it ends at the next boundary, and source 140 asserts. -/
def prkTempStop (x : Hoop) : Hoop :=
  if x.prk.active.isSome && !x.prk.tempEnd then fault 140 noDet (armStop true x) else x

/-- A slice rebuild while a pricking is active (R135): its images keep the old slice until the second boundary. -/
def prkRecompile (old : Slice) (x : Hoop) : Hoop :=
  if x.prk.active.isSome then { x with prkSlice := x.prkSlice ++ [(secondBoundary x, old)] } else x

/-! ## Staging an entry (R24, R125, R153) -/

/-- The codes fit in the time before the next entry. -/
def entryFits (x : Hoop) (n : Nat) : Bool :=
  match x.prk.active with
  | none => false
  | some l =>
    if x.prk.started && x.prk.pos != l.len then stageFits (x.prk.entry l.store x.prk.pos).dwell.toNat n
    else stageFits (x.prk.nextEpoch - x.now) n

/-- STAGE_PRK, whole. At DEADLINE the idle bank is restored and the entry is held at its epoch. -/
def stagePrk (bad1 bad2 : List Nat) (why : StageEvent) (x : Hoop) : Hoop :=
  match takes x 2 with
  | none => x
  | some o =>
    let x := match why with | .corrected n a => eccFix n a x | _ => x
    match why with
    | .stackError ph n a => stackStop ph n a x
    | _ =>
      let ds := prkDelta x
      let bad := readBad ds bad1 bad2
      let x := opDone o x
      if ds.isEmpty then x.updPrk (fun p => { p with codes := 0 })
      else if why = .deadline ∨ x.prk.nextEpoch < x.now + 500 ∨ !entryFits x ds.length then restoreIdle x
      else if !bad.isEmpty then
        bad.foldl (fun y e => pulse 32 e [] (raiseEv 325 [0, e] .hoop y)) (restoreIdle x)
      else
        let y := markStaged 0 ds (writeIdle ds x)
        { y with tmb := { y.tmb with stagedSeq := none }, prk := { y.prk with nextStaged := true } }

def execStagePrk (h : HoopId) (bad1 bad2 : List Nat) (why : StageEvent) (s : State) : Host.Outcome State Fault Refusal :=
  .next (settle (digestCompare (s.upd h (viaPatch 2 (stagePrk bad1 bad2 why)))))

/-! ## The cycle boundary (R121, R123, R124, R131) -/

/-- Load a staged bank outside a standing commit. -/
def loadPrk (x : Hoop) : Hoop :=
  let tiles := x.tmb.strobeTiles
  let x := pmcRaw 98 1 (loadAll x)
  tiles.foldl (fun y t => openWindow t .drive y)
    { x with
      tmb := { x.tmb with dacStaged := false, stagedSeq := none, stageDelta := [], strobeTiles := [] }
      prk := { x.prk with nextStaged := false } }

/-- Eyelets dark in the state table. -/
def eyesDark (is : List Nat) (x : Hoop) : Hoop := is.foldl (fun y i => y.updElem (y.eyelet i) (fun v => { v with st := .eyDark })) x

/-- The final boundary: the OPEN image loads, or its darks go by the path of R108 (R124, R128). -/
def finishPrk (x : Hoop) : Hoop :=
  let cause := if x.prk.tempEnd then 3 else if (match x.prk.active with | some l => l.final == x.prk.stopAt || x.prk.stopAt.isNone | none => false) then 1 else 2
  let temp := x.prk.tempEnd
  let lit := x.prk.lit
  let y := payAll x.now x
  let y := if y.prk.nextStaged && !y.lineOn && !y.tmb.hold then eyesDark lit (loadPrk y) else lit.foldl (fun z i => reqDarkOnly i z) y
  let y := endPrk cause (y.updPrk (fun p => { p with lit := [] }))
  if temp then raiseEv 375 [140] .hoop (faultOff 140 y) else y

/-- Install what was recompiled for this boundary (R131, R135): the reroute event of each thread that was moved, with the SEQ of the commit that it
gave way to, and event 373. -/
def installAt (x : Hoop) : Hoop :=
  let again := renewed x.now x
  if again.isEmpty then x
  else
    let moved := (x.prk.slots.map (fun e => match (e.2.due x.now).getLast? with
      | some r => (r.threads.filter (fun q => q.2.route != (smGet {} e.2.threads q.1).route)).map (fun q => (q.1, q.2.gen.toNat, r.seq, q.2.tenant))
      | none => [])).flatten
    let y := freshSlots again { installed x.now x with prkSlice := x.prkSlice.filter (fun q => decide (x.now + 2 < q.1)) }
    let y := moved.foldl (fun z q => raiseEv 323 [q.1, q.2.1, q.2.2.1] (.tenant q.2.2.2) z) y
    raiseEv 373 (x.prk.cycleStart % 2 ^ 32 :: again) .hoop { y with rmap := buildMap y }

/-- A list takes over at its first boundary. -/
def beginList (l : PList) (ev : Hoop → Hoop) (x : Hoop) : Hoop :=
  let old := (x.prk.slots.filter (fun e => e.2.kind == .pattern)).map (·.1)
  let ks := listSlots x.prk l.store l.len
  let x := x.updPrk (fun p => { p with active := some l, started := true, cycleNum := l.startK, cycleStart := l.startAt, pos := l.len, base := l.baseNs, catchup := true })
  let x := updSlots (old.filter (fun k => !ks.contains k)) (fun s => { s with threads := s.threads.map (fun t => (t.1, { t.2 with st := .none })) }) x
  ev (holdLoops ks (freshSlots ks x))

/-- A boundary or an entry epoch of this hoop falls while it hands over by a fault (R135): the list goes on in the hoop that takes the token, and
ends here without an event. -/
def passesPrk (handing : Bool) (x : Hoop) : Bool := handing && x.lineOn && [4, 5, 6].any (cmpDue x)

/-- The boundary of comparator 6. -/
def cycleBoundary (x : Hoop) : Hoop :=
  if !cmpDue x 6 then x
  else
    let x := cmpFire 6 x
    match x.prk.active with
    | none => x
    | some l =>
      let next := fun (y : Hoop) => match y.prk.active with
        | some q => installAt (armCount 6 (q.boundary (y.prk.cycleNum + 1)) y)
        | none => y
      let begun := fun (y : Hoop) => if y.prk.started then y else beginList l (fun z => raiseEv 368 [bit l.store, l.startK, l.short, l.firstShort] .hoop z) y
      match x.swapsNext l with
      | some s => next (beginList s (fun y => raiseEv 369 [bit s.store, s.startAt % 2 ^ 32] .hoop y) ((begun x).updPrk (fun p => { p with swap := none })))
      | none =>
        if x.endsNext l then finishPrk x
        else if !x.prk.started then next (begun x)
        else next (x.updPrk (fun p => { p with cycleNum := p.cycleNum + 1, cycleStart := x.nextBoundary l, pos := l.len }))

def execPrickingCycleBoundary (h : HoopId) (s : State) : Host.Outcome State Fault Refusal := .next (s.act h (fun x => if passesPrk (handingFrom s h) x then clearPrk 0 x else cycleBoundary x))

/-! ## The entry strobe (R125 to R128, R135) -/

/-- Threads of a loaded pattern at an occurrence: a thread's first makes it CARRYING (R134). -/
def occur (p : Nat) (x : Hoop) : Hoop :=
  let s := x.prk.slot p
  let x := if s.first.isNone then x.updPrk (fun q => { q with slots := smUpd {} q.slots p (fun s => { s with first := some x.now, firstCycle := x.prk.cycleNum }) }) else x
  (s.threads.filter (fun t => t.2.st == .staged)).foldl (fun y t => setPricked p t.1 .carrying 4 0xFFFF y) x

/-- The subset of a slot's channels that an occurrence of a dwell verifies: b of each group at the hoop's load, in the rotating order (R132, R133).
Above 1 % load b is that of 99 % (DESIGN CHOICE, assumption 142). -/
def subset (x : Hoop) (p dwell : Nat) : List Nat :=
  let rot := (x.prk.slot p).rot.filter (fun c => !(x.chan c).lost)
  ((List.range x.nG).map (fun g => (rot.filter (fun c => c / 128 == g)).take (occurrenceMax (!x.mayDefer) dwell))).flatten

/-- Elements of an image take their states. -/
def imageStates (x : Hoop) (im : List (Nat × Want)) : Hoop :=
  im.foldl (fun y w => y.updElem w.1 (fun v => { v with st := w.2.st, band := w.2.band, mixed := w.2.mixed })) x

/-- A PATTERN entry of a dwell has loaded. -/
def patternLoaded (p dwell : Nat) (im : List (Nat × Want)) (x : Hoop) : Hoop :=
  let ts := (x.prk.slot p).threads
  let lit := (ts.filter (fun t => t.2.st != .faulted && t.2.st != .darked && !x.overridden t.1)).map (·.1)
  let was := x.prk.lit
  let x := imageStates (occur p (x.updPrk (fun q => { q with loaded := some p, lit := lit, occFrom := x.now + 1000 }))) im
  let x := { x with rmap := buildMap x }
  let open_ := ts.filter (fun t => lit.contains t.1)
  let chans := sortNat ((open_.map (fun t => threadChans x t.1 t.2)).flatten)
  let shut := (was.filter (fun i => !lit.contains i)).map x.eyelet
  let x := preselect { x with slice := x.imageSlice x.now } (chans ++ shut)
    ((open_.map (fun t => [x.eyelet t.1, x.egress t.2.outPort])).flatten) shut (vpAt x x.now) x
  injectAt (subset x p dwell) prkKey (x.now + 1000) false (oweSettle (sortNat (chans ++ shut)) (x.now + 1000) x)

/-- What a DARK entry does to the threads in its mask (R127). -/
def maskThreads (is : List Nat) (x : Hoop) : Hoop := is.foldl (fun y i => darkThread i 4 0 0xFFFF y) x

/-- Ingress ports of an entry's mask. -/
def maskPorts (x : Hoop) (e : PEntry) : List Nat := (List.range x.n).filter (fun i => (x.prk.slot e.index.toNat).mask.getLsbD i)

/-- The stage of the next entry has no codes and none is posted (R82): there is no strobe. -/
def bareEntry (x : Hoop) : Bool := x.prk.codes == 0 && !x.prk.nextStaged && !x.tmb.normal.any (fun o => o.code == 2)

/-- An entry takes effect, with or without a bank to load. -/
def entryLoads (strobe : Bool) (e : PEntry) (im : List (Nat × Want)) (x : Hoop) : Hoop :=
  let x := (if strobe then loadPrk x else x).updPrk (fun p => { p with heldNow := false, catchup := p.catchup && e.type != 0 })
  if e.type = 0 then patternLoaded e.index.toNat e.dwell.toNat im x
  else
    let is := if e.type = 1 then x.prk.lit else maskPorts x e
    let x := eyesDark is (if e.type = 2 then maskThreads is x else x)
    x.updPrk (fun p => { p with lit := p.lit.filter (fun i => !is.contains i), occFrom := x.now })

/-- An entry that is not staged at its epoch: a PATTERN entry is held, the others dark their eyelets (R125, R128). -/
def entryUnstaged (e : PEntry) (i : Nat) (x : Hoop) : Hoop :=
  let staged := x.prk.nextStaged
  let n := x.prk.codes
  let before := match x.prk.active with | some l => (x.prk.entry l.store (prevEntry l.len i)).dwell.toNat | none => 0
  let x := { x.updPrk (fun p => { p with nextStaged := false }) with
    tmb := { x.tmb with normal := x.tmb.normal.filter (fun o => o.code != 2) } }
  let x := if staged then restoreIdle x else x
  if e.type = 0 then
    pmcRaw 99 1 (raiseEv 371 [i, x.prk.cycleNum, n, 2 * before - 1000] .hoop (x.updPrk (fun p => { p with
      held := satInc p.held, heldLast := BitVec.ofNat 32 (i % 1024 + p.cycleNum % 65536 * 65536), heldNow := true, catchup := true })))
  else
    let is := if e.type = 1 then x.prk.lit else maskPorts x e
    let x := if e.type = 2 then maskThreads is x else x
    is.foldl (fun y i => if (y.elem (y.eyelet i)).st = .eyOpen then reqDarkOnly i y else y)
      (x.updPrk (fun p => { p with heldNow := false, lit := p.lit.filter (fun i => !is.contains i), occFrom := x.now }))

/-- A standby whose stage is late writes the entry's delta at the refresh slots of its tiles (R315). -/
def entryLate (l : PList) (i : Nat) (e : PEntry) (im : List (Nat × Want)) (x : Hoop) : Hoop :=
  let ds := if e.type = 0 then catchUp x (listImages x l) i else closings x im
  let tiles := sortNat (ds.map (fun d => d.elem / 32))
  let x := { x.updPrk (fun p => { p with heldNow := false, catchup := p.catchup && e.type != 0 }) with
    tmb := { x.tmb with normal := x.tmb.normal.filter (fun o => o.code != 2) }
    pair := { x.pair with late := satInc x.pair.late, catchup := x.pair.catchup ++ tiles.map (fun t => (t, ds.filter (fun d => d.elem / 32 == t))) } }
  let x := raiseEv 549 [1, 0] .hoop x
  if e.type = 0 then patternLoaded e.index.toNat e.dwell.toNat im x
  else
    let is := if e.type = 1 then x.prk.lit else maskPorts x e
    (eyesDark is (if e.type = 2 then maskThreads is x else x)).updPrk (fun p => { p with lit := p.lit.filter (fun i => !is.contains i), occFrom := x.now })

/-- The entry strobe of comparator 4 or 5: the boundary at the same instant comes first. -/
def entryStrobe (x : Hoop) : Hoop :=
  match [4, 5].find? (cmpDue x) with
  | none => x
  | some k =>
    let x := cycleBoundary (cmpFire k x)
    match prkNext x with
    | .entry l i =>
      let e := x.prk.entry l.store i
      let src := ((x.liveSev 4) ++ (x.liveSev 3)).headD 0
      if x.lineOn then raiseEv 375 [src] .hoop (endPrk 3 x)
      else
        let x := clearInj prkKey (payAll x.now x)
        let im := entryImage x l i
        let x := if x.prk.nextStaged && !x.tmb.hold then entryLoads true e im x
          else if bareEntry x then entryLoads false e im x
          else if x.pair.role == .standby && entryFits x x.prk.codes then entryLate l i e im x
          else entryUnstaged e i x
        let nx := x.prk.nextEpoch + e.dwell.toNat
        let x := x.updPrk (fun p => { p with pos := i, curType := e.type, nextEpoch := nx })
        let x := if prkNext x = .finish then x else armCount (entryCmp x) nx x
        postStage (postPrk (keeperRefresh x))
    | _ => x

def execPrickingEntryStrobe (h : HoopId) (s : State) : Host.Outcome State Fault Refusal := .next (s.act h (fun x => if passesPrk (handingFrom s h) x then clearPrk 0 x else entryStrobe x))

/-! ## The rows of ring 0 -/

/-- PRK_SLOT_LOAD. -/
def execPrkSlotLoad (h : HoopId) (r : Nat) (s : State) : Host.Outcome State Fault Refusal := .next (s.serve h r 0x10 slotLoadVerb)

/-- PRK_SLOT_MASK. -/
def execPrkSlotMask (h : HoopId) (r : Nat) (s : State) : Host.Outcome State Fault Refusal := .next (s.serve h r 0x11 slotMaskVerb)

/-- PRK_SLOT_CLEAR. -/
def execPrkSlotClear (h : HoopId) (r : Nat) (s : State) : Host.Outcome State Fault Refusal := .next (s.serve h r 0x12 slotClearVerb)

/-- PRK_LIST_WRITE. -/
def execPrkListWrite (h : HoopId) (r : Nat) (s : State) : Host.Outcome State Fault Refusal := .next (s.serve h r 0x13 listWriteVerb)

/-- PRK_START. -/
def execPrkStart (h : HoopId) (r : Nat) (s : State) : Host.Outcome State Fault Refusal := .next (s.serve h r 0x14 startVerb)

/-- PRK_SWAP. -/
def execPrkSwap (h : HoopId) (r : Nat) (s : State) : Host.Outcome State Fault Refusal := .next (s.serve h r 0x15 swapVerb)

/-- PRK_SWAP_DISARM. -/
def execPrkSwapDisarm (h : HoopId) (r : Nat) (s : State) : Host.Outcome State Fault Refusal := .next (s.serve h r 0x16 swapDisarmVerb)

/-- PRK_STOP. -/
def execPrkStop (h : HoopId) (r : Nat) (s : State) : Host.Outcome State Fault Refusal := .next (s.serve h r 0x17 stopVerb)

end Sys2Proof.Machine
end

