-- ==== Sys2Proof/Machine/Standing.lean ====
section
/-!
DEFINITION. The thread commands (R81, R107, R109, R112, R356, R368, R388): NOP, the commit kinds, BATCH, and the three
reads that agent rings may send.
-/

namespace Sys2Proof.Machine

/-- NOP. -/
def nopVerb : Verb := { check := anyForm, run := fun _ x => ({ status := 0 }, x) }

/-- The tag that an agent ring puts on its threads (R361). -/
def ringTag (x : Hoop) (r : Nat) : Option Nat := if r = 0 then none else some (x.ring r).tenant

/-- TLVs of the command's body. -/
def Ctx.tlvList (k : Ctx) : List (Nat × Bytes) :=
  match bodyOf k.cmd.bytes with
  | some b => b.tl
  | none => []

/-- CREATE, MODIFY, REOPEN, RELEASE and scheduled DARK: one entry (R81). -/
def commitVerb : Verb :=
  { check := anyForm
    run := fun k x =>
      let h := hdrOf k.cmd.bytes
      acceptCommit k { ring := k.ring } h.hasEpoch h.exact h.epochNs false [editOf h.opcode (ringTag x k.ring) k.tlvList] x }

/-- DARK_NOW (R109): check 4 against the present table; the eyelet's dark request sets and the thread is DARKED at acceptance. -/
def darkNowVerb : Verb :=
  { check := anyForm
    run := fun k x =>
      let e := editOf 6 (ringTag x k.ring) k.tlvList
      if !ownsEdit x { ring := k.ring } x.thr e then ({ status := 6 }, x)
      else ({ status := 0 }, reqDark e.inPort (darkThread e.inPort 3 k.seq 0xFFFF x)) }

/-- CANCEL of a FABRIC_COMMIT that has no local entries (R412), else of nothing that exists. -/
def cancelBare (k : Ctx) (q : Nat) (x : Hoop) : Ans × Hoop :=
  match if k.ring = 0 then fabOf x x.wlm.addr.toNat q else none with
  | none => ({ status := 6 }, x)
  | some s => match smFind x.wlm.fabs s with
    | none => ({ status := 6 }, x)
    | some f =>
      if !f.init then ({ status := 6 }, x)
      else if 3 ≤ f.st then ({ status := 11 }, x)
      else ({ status := 0, epochNs := some f.epochNs }, f.members.foldl (fun y a => originate a 7 (leBytes 6 f.fcid ++ [0, 5]) y)
        (setFab s { f with st := 5, reason := 5, aborted := true } (dropArm (9 + s) x)))

/-- CANCEL (R112, R412). -/
def cancelVerb : Verb :=
  { check := anyForm
    run := fun k x =>
      let q := field ((k.tlv 3).getD []) 0 6
      match findPending x k.ring q with
      | none => if (findOutcome x k.ring q).isSome then ({ status := 11 }, x) else cancelBare k q x
      | some c =>
        let fab := match c.fcid with
          | some f => (fabOf x (f % 4096) (f / 4096)).map (fun s => (s, f))
          | none => none
        let sent := match fab with
          | some (s, _) => (match smFind x.wlm.fabs s with | some f => f.init && f.st == 3 | none => false)
          | none => false
        if x.cm.pending.any (fun d => d.deps.contains c.key) then ({ status := 9 }, x)
        else if sent || (fab.isNone && decide (c.epoch < x.now + 500)) then ({ status := 11 }, x)
        else
          let x := match fab with
            | some (s, f) => (match smFind x.wlm.fabs s with
              | some fb => if fb.init then fb.members.foldl (fun y a =>
                  originate a 7 (leBytes 6 (f / 4096) ++ [0, 5]) y) (setFab s { fb with reason := 5, aborted := true } (dropArm (9 + s) x)) else x
              | none => x)
            | none => x
          ({ status := 0, epochNs := some c.epochNs }, withdraw c 3 true x) }

/-- THREAD_READ (R368): the descriptors of standing threads in rising ingress port, then those of the pattern slots; a ring sees its
own tag's, a PORT names one. -/
def threadReadVerb : Verb :=
  { check := anyForm
    run := fun k x =>
      let all := x.thr.filter (fun e => e.2.st != .none) ++ (x.prk.slots.map (fun s => s.2.threads)).flatten
      let mine := all.filter (fun e => k.ring == 0 || e.2.tenant == (x.ring k.ring).tenant)
      let recs := fun (l : SMap Thread) => l.map (fun e => leBytes 8 (descNat e.1 e.2))
      match k.tlv 2 with
      | none => respond k 8 (recs mine) x
      | some b =>
        let one := mine.filter (fun e => e.1 == field b 0 2)
        if one.isEmpty then ({ status := 6 }, x) else respond k 8 (recs one) x }

/-- A ledger record's 64 bytes (R389). -/
def ledBytes (r : LedRec) : Bytes :=
  let b := leBytes 6 r.minute ++ leBytes 2 (r.tenant % 4096) ++ leBytes 8 r.carry ++ leBytes 8 r.verify ++ leBytes 8 r.prkCarry
    ++ leBytes 8 r.prkVerify ++ leBytes 8 r.unconf ++ leBytes 2 r.threads.length ++ leBytes 2 (ofSigned 16 r.utc)
    ++ leBytes 2 r.flags.toNat ++ List.replicate 6 0
  b ++ leBytes 4 (crc32 b).toNat

/-- LEDGER_READ (R388): the closed minutes that SRAM holds; a ring sees its own tag's records. -/
def ledgerReadVerb : Verb :=
  { check := fun k _ => decide (1 ≤ k.par 6 2 ∧ k.par 6 2 ≤ 60) && decide (k.par 8 2 ≤ 4095)
    run := fun k x =>
      let first := k.par 0 6
      let t := k.par 8 2
      let tag := (x.ring k.ring).tenant
      if k.ring != 0 && t != 0 && t != tag then ({ status := 6 }, x)
      else
        let want := if k.ring = 0 then t else tag
        let recs := ((x.led.closed.filter (fun m => decide (first ≤ m.1 ∧ m.1 < first + 60 * k.par 6 2))).map (·.2)).flatten
        respond k 64 ((recs.filter (fun r => want == 0 || r.tenant == want)).map ledBytes) x }

/-- OUTCOME_READ (R107): one outcome by SEQREF, or a range of the last 1,024, the oldest first (assumption 19). -/
def outcomeReadVerb : Verb :=
  { check := anyForm
    run := fun k x =>
      match k.tlv 3 with
      | some b => (match findOutcome x k.ring (field b 0 6) with
        | some o => respond k 32 [outcomeBytes o] x
        | none => ({ status := 6 }, x))
      | none =>
        let b := (k.tlv 6).getD []
        let mine := x.cm.history.filter (fun o => k.ring == 0 || o.tenant == (x.ring k.ring).tenant)
        respond k 32 (((mine.drop (field b 0 8)).take (field b 8 4)).map outcomeBytes) x }

/-- The entries of a BATCH part, where its form is legal (R356). -/
def batchPart (x : Hoop) (r : Nat) (b : Bytes) : Option (List (Nat × Bytes)) :=
  let h := field b 16 4
  if h / 512 != 0 || h % 256 == 0 then none
  else match entriesOf (h % 256) (b.drop 20) with
    | none => none
    | some es => if es.all (entryOk x r) && distinct (es.map entryPort) then some es else none

/-- The RESULT of a part that fails check 3 (R358): the first failing entry, counted across the run; 0 where no entry fails. -/
def batchBlame (k : Ctx) (x : Hoop) : Nat :=
  let held := match (x.ring k.ring).run with | some q => q.entries.length | none => 0
  match entryFault x k.ring (field k.cmd.bytes 16 1) (k.cmd.bytes.drop 20) [] held with
  | some i => i
  | none => 0

/-- The edit of a batch entry. -/
def editOfEntry (tag : Option Nat) (e : Nat × Bytes) : Edit := editOf e.1 tag ((tlvs (e.2.length / 4) e.2).getD [])

/-- BATCH (R356): a part with MORE is held; the last part is decided whole. A part with the epoch and EXACT of a broken run is refused; any
other begins a new run (assumption 123). -/
def batchVerb : Verb :=
  { check := fun k x => (batchPart x k.ring k.cmd.bytes).isSome
    blame := batchBlame
    run := fun k x =>
      let h := hdrOf k.cmd.bytes
      let es := (batchPart x k.ring k.cmd.bytes).getD []
      let more := field k.cmd.bytes 17 1 % 2 == 1
      let g := x.ring k.ring
      let held := match g.run with | some q => q.entries | none => []
      let same := match g.run with
        | some q => (q.exact == h.exact && q.sec == BitVec.ofNat 48 h.sec && q.ns == BitVec.ofNat 32 h.ns) != q.broken
        | none => true
      let all := held ++ es
      let drop := x.updRing k.ring (fun g => { g with run := none })
      if !same || decide (1024 < all.length) then ({ status := 4 }, drop)
      else if more then
        ({ status := 0, result := all.length },
          x.updRing k.ring (fun g => { g with run := some { exact := h.exact, sec := BitVec.ofNat 48 h.sec, ns := BitVec.ofNat 32 h.ns, entries := all } }))
      else if !distinct (all.map entryPort) then ({ status := 4, result := firstTwice [] (all.map entryPort) }, drop)
      else acceptCommit k { ring := k.ring } h.hasEpoch h.exact h.epochNs true (all.map (editOfEntry (ringTag x k.ring))) drop }

/-! ## The rows -/

/-- NOP. -/
def execNop (h : HoopId) (r : Nat) (s : State) : Host.Outcome State Fault Refusal := .next (s.serve h r 0x00 nopVerb)

/-- CREATE. -/
def execCreate (h : HoopId) (r : Nat) (s : State) : Host.Outcome State Fault Refusal := .next (s.serve h r 0x01 commitVerb)

/-- MODIFY. -/
def execModify (h : HoopId) (r : Nat) (s : State) : Host.Outcome State Fault Refusal := .next (s.serve h r 0x02 commitVerb)

/-- REOPEN. -/
def execReopen (h : HoopId) (r : Nat) (s : State) : Host.Outcome State Fault Refusal := .next (s.serve h r 0x03 commitVerb)

/-- RELEASE. -/
def execRelease (h : HoopId) (r : Nat) (s : State) : Host.Outcome State Fault Refusal := .next (s.serve h r 0x04 commitVerb)

/-- DARK, scheduled. -/
def execDark (h : HoopId) (r : Nat) (s : State) : Host.Outcome State Fault Refusal := .next (s.serve h r 0x05 commitVerb)

/-- DARK_NOW. -/
def execDarkNow (h : HoopId) (r : Nat) (s : State) : Host.Outcome State Fault Refusal := .next (s.serve h r 0x06 darkNowVerb)

/-- CANCEL. -/
def execCancel (h : HoopId) (r : Nat) (s : State) : Host.Outcome State Fault Refusal := .next (s.serve h r 0x07 cancelVerb)

/-- THREAD_READ. -/
def execThreadRead (h : HoopId) (r : Nat) (s : State) : Host.Outcome State Fault Refusal := .next (s.serve h r 0x08 threadReadVerb)

/-- LEDGER_READ. -/
def execLedgerRead (h : HoopId) (r : Nat) (s : State) : Host.Outcome State Fault Refusal := .next (s.serve h r 0x09 ledgerReadVerb)

/-- OUTCOME_READ. -/
def execOutcomeRead (h : HoopId) (r : Nat) (s : State) : Host.Outcome State Fault Refusal := .next (s.serve h r 0x0A outcomeReadVerb)

/-- BATCH. -/
def execBatch (h : HoopId) (r : Nat) (s : State) : Host.Outcome State Fault Refusal := .next (s.serve h r 0x30 batchVerb)

end Sys2Proof.Machine
end

