-- ==== Sys2Proof/Machine/Minutes.lean ====
section
/-!
DEFINITION. The ledger's minutes (R385 to R389): the boundary that comparator 14 marks and the close 10 ms later.
-/

namespace Sys2Proof.Machine

/-- Close the minute that is closing: what a running interval still holds before its end is not counted (R388), records without time go,
source 33 reports it, and the records are queued for the history store. -/
def closeMinute (x : Hoop) : Hoop :=
  match x.led.closingMin with
  | none => x
  | some m =>
    let cut := x.minuteStart
    let x := x.led.runs.foldl (fun y q =>
      if q.2.start < cut then
        let y := { y with led := { y.led with closing := addLed m (y.thread q.1).tenant (ledPiece q.1 false false (cut - q.2.start) 0) y.led.closing } }
        { y with led := { y.led with runs := smPut y.led.runs q.1 { start := cut, verFrom := q.2.verFrom.map (max cut) } } }
      else y) x
    let recs := (x.led.closing.filter LedRec.hasTime).map (fun r => { r with flags := x.led.closingFlags, utc := x.tb.pri.utc })
    let x := { x with
      led := { x.led with closing := [], closingMin := none, closed := (x.led.closed ++ [(m, recs)]).drop (x.led.closed.length + 1 - 60) }
      hist := { x.hist with pendingLed := x.hist.pendingLed ++ recs.map (fun r => (m, ledBytes r)) } }
    raiseEv 33 [m, recs.length] .hoop x

/-- PTP seconds of the minute that an instant lies in; an instant within 100 ns of its end counts as the next. -/
def minuteOf (x : Hoop) : Nat := (x.tb.ptpOf x.now + 100) / 60000000000 * 60

/-- Conditions that hold when a minute begins (R389). -/
def minuteFlags (x : Hoop) : BitVec 16 := BitVec.ofNat 16 (bit (!x.tb.timeValid) + bit x.dk.force * 16)

/-- Begin the ledger: the present minute is open, and comparator 14 marks its end. -/
def startMinutes (x : Hoop) : Hoop :=
  let x := { x with led := { x.led with minute := minuteOf x, flags := minuteFlags x } }
  armAt 14 ((x.led.minute + 60) * 1000000000) x

/-- LEDGER_MINUTE_BOUNDARY: the open minute begins to close, and the next one opens. -/
def minuteBoundary (x : Hoop) : Hoop :=
  if !cmpDue x 14 then x
  else
    let x := payAll x.now (closeMinute (cmpFire 14 x))
    let x := { x with led := { x.led with
      closing := x.led.openRecs, closingMin := some x.led.minute, closingFlags := x.led.flags, openRecs := [] } }
    startMinutes x

def execLedgerMinuteBoundary (h : HoopId) (s : State) : Host.Outcome State Fault Refusal := .next (s.act h minuteBoundary)

/-- LEDGER_MINUTE_CLOSE: 10 ms after the minute's end. -/
def execLedgerMinuteClose (h : HoopId) (s : State) : Host.Outcome State Fault Refusal :=
  .next (s.act h (fun x => if x.minuteStart + 10000000 ≤ x.now then closeMinute x else x))

end Sys2Proof.Machine
end

