-- ==== Sys2Proof/Machine/Thermal.lean ====
section
/-!
DEFINITION. The thermal unit (R242 to R272): diodes, zones, the TEC loops and their PWM, trips, setpoints and slice rebuilds, thresholds and
throttling, the MRAM and commit gates, and the commands that configure them. Temperatures are in 0.01 degrees.
-/

namespace Sys2Proof.Machine

/-! ## Fields -/

def Hoop.updDiode (x : Hoop) (j : Nat) (f : Diode → Diode) : Hoop :=
  { x with ths := { x.ths with diodes := smSet {} x.ths.diodes j (f (x.diode j)) } }

def Hoop.updZone (x : Hoop) (z : Bool) (f : Zone → Zone) : Hoop :=
  if z then { x with tec := { x.tec with z1 := f x.tec.z1 } } else { x with tec := { x.tec with z0 := f x.tec.z0 } }

/-- A temperature of the effective setpoint. -/
def Hoop.effT (x : Hoop) : Int := (x.tec.eff.toNat : Int)

/-- This hoop computes with the other's readings (R248). -/
def standsBy (s : State) (h : HoopId) : Bool := Config.duplex s.a.part && (s.hoop h).pair.role == .standby

/-! ## TEC loops (R252 to R258) -/

/-- A temperature difference in Q16.16 kelvin. -/
def kelvin (d : Int) : Int := sat32 (divRound (d * 65536) 100)

/-- Error of a zone. -/
def zoneErr (x : Hoop) (z : Bool) : Int := kelvin ((x.tec.zone z).t - x.effT)

/-- ULIM of a zone in Q16.16 (R255). -/
def ulim (x : Hoop) (z : Bool) : Int :=
  ((x.tec.ilimNom.toNat * 65536 * (100 - 10 * (x.tec.zone z).brgLvl.toNat) / (100 * max 1 x.tec.ifull.toNat) : Nat) : Int)

/-- Heater current of a zone in microamperes (R253). -/
def zoneUa (x : Hoop) (z : Bool) : Nat :=
  ((x.drv.heaters.filter (fun e => Config.zoneOf e.1 == z)).map (fun e => heaterConv x e.1 * (if e.2.range then 8000 else 2000))).sum / 4096

/-- Feed-forward of a zone, Q16.16: KH times the power at 3.6 V (R253). -/
def zoneFf (x : Hoop) (z : Bool) : Int :=
  sat32 (divRound (toSigned 16 (Config.tecKH (bit z)).toNat * 256 * (zoneUa x z : Int) * 36) 10000000)

/-- Write a zone's shadow duty (R261). -/
def writeDuty (z : Bool) (d : BitVec 13) (x : Hoop) : Hoop :=
  x.updZone z (fun v => { v with shadow := d, shadowAt := x.now, shadowNext := some v.shadow })

/-- Duty of a drive (R254). -/
def dutyOf (per : Nat) (u : Int) : BitVec 13 := BitVec.ofNat 13 (divRound ((per : Int) * (65536 + u)) 131072).toNat

/-- One update of a zone's loop; none while its outputs are held low or before its restart (R257). -/
def tecUpdate (z : Bool) (x : Hoop) : Hoop :=
  let x := if (x.tec.zone z).swapPend then x.updZone z (fun v => { v with coef := v.sh, swapPend := false, i := v.sh.clamp v.i }) else x
  let v := x.tec.zone z
  if !v.running then x
  else
    let c := v.coef
    let err := zoneErr x z
    let ff := zoneFf x z
    let p := qmul c.kpZ err
    let step := qmul c.kiZ err
    let ic := c.clamp (sat32 (v.i + step))
    let d := sat32 (divRound ((c.a.toNat : Int) * v.d) 65536 + qmul (65536 - (c.a.toNat : Int)) (qmul c.kdZ (sat32 (err - v.errPrev))))
    let ur := sat32 (ff + p + ic + d)
    let u := clampI ur (-(ulim x z)) (ulim x z)
    let wind := decide (u ≠ ur) && decide (0 < step * (ur - u))
    writeDuty z (dutyOf x.tec.period.toNat u)
      (x.updZone z (fun v => { v with u := u, i := if wind then v.i else ic, d := d, errPrev := err, ilimAct := u != ur }))

/-- The outputs go low and both loops freeze. -/
def holdLow (x : Hoop) : Hoop :=
  ((x.updZone false (fun v => { v with running := false, restart := false })).updZone true (fun v => { v with running := false, restart := false })).pwmPins

/-- Nothing holds the outputs low. -/
def mayDrive (t : Tec) : Bool := t.en && !t.dbgHalt && !t.z0.trip && !t.z1.trip && !t.z0.brgSd && !t.z1.brgSd

/-- Both zones restart at their next reloads (R257): the drive then begins at zero mean current. -/
def restartZones (x : Hoop) : Hoop :=
  if !mayDrive x.tec then x
  else [false, true].foldl (fun y z =>
    let err := zoneErr y z
    let c := (y.tec.zone z).coef
    let i := c.clamp (sat32 (-(zoneFf y z + qmul c.kpZ err)))
    writeDuty z (BitVec.ofNat 13 (y.tec.period.toNat / 2)) (y.updZone z (fun v => { v with d := 0, errPrev := err, i := i, u := 0, restart := true }))) x

/-! ## Slice rebuilds (R52, R58, R59, R135, R288, R482) -/

/-- Begin to rebuild the active slice for the effective setpoint; below 20 degrees the slice stays, and where there is none one is built for
20 degrees. -/
def beginRebuild (x : Hoop) : Hoop :=
  if x.tec.eff.toNat < 2000 && x.slice.built then x
  else { x with slice := { x.slice with rebuilding := true, rebuildTemp := max 2000 x.tec.eff.toNat } }

/-- The cells of the MRAM's sampler region. -/
def samplerCells (m : List Host.Cell) : List Host.Cell := m.filter (fun c => decide (samplerBase ≤ c.1 ∧ c.1 < samplerBase + 0x600000))

/-- The header's bytes. -/
def headerBytes (m : List Host.Cell) : Bytes := memRead m samplerBase 4096

/-- A record carries REFINED (R55). -/
def recRefined (b : Bytes) : Bool := field b 28 2 % 2 == 1

/-- Flags of an element from its records (R38, R59); REFINED says that a record which the slice's HBIAS is taken from was refined (R60). -/
def elemFlags (src : List Host.Cell) (temp e : Nat) (x : Hoop) : Hoop :=
  let bad := fun (b : Bool) => (List.range 16).any (fun k => !recGood src e b k)
  let o := bandBad src e false temp
  let c := bandBad src e true temp
  let refined := [false, true].any (fun b => match recPair src e b temp with
    | some (lo, hi, w, _) => recRefined lo || (w != 0 && recRefined hi)
    | none => false)
  let y := x.updElem e (fun v => { v with samplerBad := bad false || bad true, badO := o, badC := c, refined := refined })
  if bad false || bad true || o || c then fault 19 e y else y

/-- A thread uses an element that its band may not use any more (R52). -/
def threadBarred (x : Hoop) (i : Nat) (t : Thread) : Bool :=
  (x.eyelet i :: (hopsOf x.part i t.route).map (·.stitch)).any (fun e => badFor x e t.band || ((x.elem e).mixed && ((x.elem e).badO || (x.elem e).badC)))

/-- Dark the threads whose elements have been lost to them. -/
def darkBarred (x : Hoop) : Hoop :=
  (x.thr.filter (fun q => q.2.st.live && !q.2.route.isEmpty && threadBarred x q.1 q.2)).foldl (fun y q => reqDark q.1 (darkThread q.1 2 0 19 y)) x

/-- Idle stitches whose parking code the new slice changes (R58). -/
def restParks (x : Hoop) : List Nat :=
  (List.range x.nS).filter (fun e => (x.elem e).st == .idle && (x.needle e).reg != x.ncode e .idle false false && !routeHeld x e)

/-- The tiles of the elements to rewrite go to SLEW, STEP 16 and PERIOD 1 µs, where they hold a lit element (R237). -/
def slewTiles (es : List Nat) (x : Hoop) : Hoop :=
  ((sortNat (es.map (· / 32))).filter (fun t => (tileElems t).any (fun e => decide (e < x.nE) && x.lit e))).foldl (fun y t =>
    y.updTile t (fun v => { v with nSlew := true, nStep := 16, nPeriod := 0 })) x

/-- A slice of an earlier build that a pending commit or a thread still being verified was compiled against (R58). -/
def sliceUsed (x : Hoop) (gen : Nat) : Bool :=
  x.cm.pending.any (fun c => c.slice == gen) || x.thr.any (fun t => t.2.slice == gen && !t.2.await.isEmpty)

/-- The rebuild completes: header, records, floors, flags; latches and idle codes follow it. What was compiled before it keeps the old slice. -/
def sliceBuild (x : Hoop) : Hoop :=
  if !x.slice.rebuilding then x
  else
    let src := samplerCells x.mram
    let hb := headerBytes src
    let ok := Config.headerOk hb
    let old := x.slice
    let temp := x.slice.rebuildTemp
    let x := { x with oldSlices := (smPut x.oldSlices old.gen old).filter (fun q => sliceUsed x q.1), slice := { x.slice with
      gen := old.gen + 1, built := true, headerOk := ok, src := src, temp := temp, rebuilding := false, adj := [],
      floorO := Config.headerFloor hb false, floorC := Config.headerFloor hb true, ceilO := Config.headerCeil hb false, ceilC := Config.headerCeil hb true } }
    let x := if ok then faultOff 18 x else fault 18 noDet x
    let x := prkRecompile old ((List.range x.nE).foldl (fun y e => elemFlags src temp e y) x)
    let x := keeperRefresh (darkBarred x)
    if x.drv.nFirstDone then postPark (restParks x) (slewTiles (restParks x) x) else x

def execSliceRebuilt (h : HoopId) (s : State) : Host.Outcome State Fault Refusal := .next (s.act h sliceBuild)

/-! ## Gates (R258, R271) -/

/-- Both zone means lie in the window of check 6. -/
def gateOpen (x : Hoop) : Bool :=
  [x.tec.z0.mean, x.tec.z1.mean].all (fun m => decide (2000 ≤ m ∧ m ≤ 7000) && decide ((m - x.effT).natAbs ≤ 200))

/-- Bring the commit gate up to date. A pricking ends when it closes. -/
def updGate (x : Hoop) : Hoop :=
  let v := gateOpen x
  let x := if v = x.ths.commitOk then x else raiseEv 398 [1, bit v] .hoop { x with ths := { x.ths with commitOk := v } }
  if v then x else prkTempStop x

/-- Bring SETTLED up to date: the last 100 means of both zones lie within 0.5 K of the setpoint. -/
def updSettled (x : Hoop) : Hoop :=
  let ok := [x.tec.z0, x.tec.z1].all (fun z => z.means.length == 100 && z.means.all (fun m => decide ((m - x.effT).natAbs ≤ 50)))
  if ok = x.tec.settled then x
  else raiseEv 391 [bit ok, ofSigned 16 x.tec.z0.mean, ofSigned 16 x.tec.z1.mean] .hoop { x with tec := { x.tec with settled := ok } }

/-! ## Setpoints (R249 to R251) -/

/-- A new effective setpoint. -/
def setEff (v : Nat) (x : Hoop) : Hoop :=
  if x.tec.eff = BitVec.ofNat 16 v then x
  else
    let x := { x with tec := { x.tec with eff := BitVec.ofNat 16 v } }
    let x := (x.updZone false (fun q => { q with errPrev := zoneErr x false })).updZone true (fun q => { q with errPrev := zoneErr x true })
    updGate (updSettled (raiseEv 389 [v, x.tec.src.toNat] .hoop (beginRebuild x)))

/-- The source is valid. -/
def spValid (x : Hoop) : Hoop :=
  if x.tec.spLost then raiseEv 390 [x.tec.src.toNat] .hoop (faultOff 134 { x with tec := { x.tec with spLost := false } }) else x

/-- SETPOINT. -/
def setpointVerb : Verb :=
  { check := fun k _ => decide (k.par 0 1 ≤ 3 ∧ 1500 ≤ k.par 1 2 ∧ k.par 1 2 ≤ 6500)
    run := fun k x =>
      let y := { x with tec := { x.tec with src := BitVec.ofNat 2 (k.par 0 1), setpt := BitVec.ofNat 16 (k.par 1 2) } }
      let y := if k.par 0 1 = 0 then setEff (k.par 1 2) (spValid y) else y
      adminOk k x (storeSetting k 0 y) }

def execSetpoint (h : HoopId) (r : Nat) (s : State) : Host.Outcome State Fault Refusal := .next (s.serve h r 0x4A setpointVerb)

/-- SETPOINT_SOURCE_LOST. -/
def spLost (x : Hoop) : Hoop :=
  if x.tec.src = 0 ∨ x.tec.spLost then x
  else raiseEv 390 [x.tec.src.toNat] .hoop (fault 134 noDet { x with tec := { x.tec with spLost := true } })

/-- The mapping of a pin source (R249), in 0.01 degrees: volts in µV, duty in 10^-6, frequency in mHz. -/
def pinSp (src : Nat) (v : Int) : Int :=
  match src with
  | 1 => 1500 + divRound (2 * v) 1000
  | 2 => 1500 + divRound (v - 50000) 180
  | _ => 1500 + divRound (v - 1500000) 1000

/-- A pin source outside its range is lost (R251). -/
def pinLost (src : Nat) (v : Int) : Bool :=
  match src with
  | 1 => decide (v < -50000) || decide (2550000 < v)
  | 2 => decide (v < 50000) || decide (950000 < v)
  | _ => decide (v < 1500000) || decide (6500000 < v)

/-- SETPOINT_AVERAGE: a 10 ms average of the pin source. A standby keeps it for comparison and follows the holder's setpoint (R248). -/
def spAverage (held : Option Nat) (avg : Int) (x : Hoop) : Hoop :=
  if x.tec.src = 0 then x
  else if pinLost x.tec.src.toNat avg then spLost x
  else
    let v := clampI (pinSp x.tec.src.toNat avg) 1500 6500
    let x := { spValid x with tec := { (spValid x).tec with ownSp := v } }
    match held with
    | some e => setEff e x
    | none => if 5 ≤ (v - x.effT).natAbs then setEff v.toNat x else x

def execSetpointAverage (h : HoopId) (avg : Int) (s : State) : Host.Outcome State Fault Refusal :=
  .next (s.act h (spAverage (if standsBy s h then some (s.hoop (other h)).tec.eff.toNat else none) avg))

def execSetpointSourceLost (h : HoopId) (s : State) : Host.Outcome State Fault Refusal := .next (s.act h spLost)

/-! ## Thresholds (R267 to R269) -/

/-- A byte of a threshold register, in 0.01 degrees. -/
def thrB (w k : Nat) : Int := ((w / 256 ^ k % 256 * 100 : Nat) : Int)

/-- A condition with 5 K of hysteresis. -/
def hyst (on : Bool) (reading thr : Int) : Bool := decide (thr ≤ reading) || (on && decide (thr - 500 < reading))

/-- A warning of a group changes: source 135 and event 395. `any` says whether a warning remains. -/
def tellWarn (grp : Nat) (old new : Bool) (reading : Int) (any : Bool) (x : Hoop) : Hoop :=
  if old = new then x
  else raiseEv 395 [grp, ofSigned 16 reading] .hoop (if new then fault 135 grp x else if any then x else faultOff 135 x)

/-- A warning of some group is set. -/
def anyWarn (x : Hoop) : Bool := x.ths.jctWarn || x.ths.latWarn || x.tec.z0.brgWarn || x.tec.z1.brgWarn || x.ths.coldWarn || x.ths.ambWarn

/-- The heater level. -/
def heaterLvl (x : Hoop) : Nat := max x.ths.latLvl.toNat x.ths.jctLvl.toNat

/-- Write HTR_CEIL (R268, R269). -/
def writeCeil (x : Hoop) : Hoop :=
  { x with drv := { x.drv with hCeil := BitVec.ofNat 32 (if x.ths.latSd then 0 else Config.ceilBase x.part * (100 - 10 * heaterLvl x) / 100) } }

/-- The level of a throttle group: 0 junction, 1 lattice, 2 and 3 the bridges. -/
def lvlOf (x : Hoop) (g : Nat) : Nat :=
  match g with
  | 0 => x.ths.jctLvl.toNat
  | 1 => x.ths.latLvl.toNat
  | 2 => x.tec.z0.brgLvl.toNat
  | _ => x.tec.z1.brgLvl.toNat

/-- The count at which it last stepped or last left the region it is in. -/
def sinceOf (x : Hoop) (g : Nat) : Nat :=
  match g with
  | 0 => x.ths.jctSince
  | 1 => x.ths.latSince
  | 2 => x.tec.z0.brgSince
  | _ => x.tec.z1.brgSince

/-- The group's reading and its throttle threshold. -/
def thrOf (x : Hoop) (g : Nat) : Int × Int :=
  match g with
  | 0 => (x.ths.jct, thrB x.ths.jctThr.toNat 1)
  | 1 => (x.ths.peak, thrB x.ths.latThr.toNat 1)
  | 2 => (x.ths.thm.getD 1 0, thrB x.ths.brgThr.toNat 1)
  | _ => (x.ths.thm.getD 2 0, thrB x.ths.brgThr.toNat 1)

/-- A bridge that could not be seen keeps its level until the next reset of the hoop (R247). -/
def lvlFixed (x : Hoop) (g : Nat) : Bool := (g == 2 && x.tec.z0.brgFixed) || (g == 3 && x.tec.z1.brgFixed)

/-- Set a level: event 396, source 136 with its first step, the ceilings that follow. -/
def setLvl (g v : Nat) (x : Hoop) : Hoop :=
  let old := lvlOf x g
  let b := BitVec.ofNat 3 v
  let y := match g with
    | 0 => { x with ths := { x.ths with jctLvl := b, jctSince := x.now } }
    | 1 => { x with ths := { x.ths with latLvl := b, latSince := x.now } }
    | 2 => x.updZone false (fun z => { z with brgLvl := b, brgSince := x.now })
    | _ => x.updZone true (fun z => { z with brgLvl := b, brgSince := x.now })
  if old = v then y
  else
    let y := if old = 0 then fault 136 g y else if (List.range 4).all (fun k => lvlOf y k == 0) then faultOff 136 y else y
    let y := raiseEv 396 [g, v] .hoop y
    if g < 2 then writeCeil y else y

/-- Restart the time of a group that neither steps up nor down. -/
def holdLvl (g : Nat) (x : Hoop) : Hoop :=
  match g with
  | 0 => { x with ths := { x.ths with jctSince := x.now } }
  | 1 => { x with ths := { x.ths with latSince := x.now } }
  | 2 => x.updZone false (fun z => { z with brgSince := x.now })
  | _ => x.updZone true (fun z => { z with brgSince := x.now })

/-- A new reading of a group after `was`: one step up on reaching the threshold; between the limits the level holds; the time of the steps down
begins at or below the threshold less 5 K. -/
def readLvl (g : Nat) (was : Int) (x : Hoop) : Hoop :=
  let (r, t) := thrOf x g
  if lvlFixed x g then x
  else if t ≤ r then (if lvlOf x g = 0 ∨ (was < t ∧ lvlOf x g < 7) then setLvl g (lvlOf x g + 1) x else x)
  else if t - 500 < r ∨ t - 500 < was then holdLvl g x
  else x

/-- THROTTLE_STEP: up after 500 ms at or above the threshold, down after 2 s at or below it less 5 K. -/
def throttleStep (g : Nat) (x : Hoop) : Hoop :=
  let (r, t) := thrOf x g
  let l := lvlOf x g
  if lvlFixed x g || decide (3 < g) then x
  else if t ≤ r then (if decide (1 ≤ l ∧ l < 7) && decide (sinceOf x g + 500000000 ≤ x.now) then setLvl g (l + 1) x else x)
  else if r ≤ t - 500 then (if 1 ≤ l ∧ sinceOf x g + 2000000000 ≤ x.now then setLvl g (l - 1) x else x)
  else x

def execThrottleStep (h : HoopId) (grp : Nat) (s : State) : Host.Outcome State Fault Refusal := .next (s.act h (throttleStep grp))

/-! ## Readings -/

/-- DIODE_PASS (R244, R252): the latest reading of every diode, the zone temperatures, one update of each TEC loop. `used` are the readings that the
hoop computes with. -/
def diodePass (own used : List Int) (x : Hoop) : Hoop :=
  let x := (List.range 32).foldl (fun y j => y.updDiode j (fun d =>
    let t := used.getD j d.t
    let o := own.getD j d.own
    { d with t := t, sum := d.sum + t, cnt := d.cnt + 1, own := o, ownSum := d.ownSum + o })) x
  let zone := fun (y : Hoop) (z : Bool) =>
    let ts := ((List.range 32).filter (fun j => diodeZone j == z && !(y.diode j).suspect)).map (fun j => (y.diode j).t)
    y.updZone z (fun v => let t := if ts.isEmpty then v.t else meanI ts
                          { v with t := t, sum := v.sum + t, cnt := v.cnt + 1 })
  tecUpdate true (tecUpdate false (zone (zone x false) true))

/-- The temperature of a diode from the difference of its junction voltages in nV (R242): q / (k ln 16) is 4,185.445 K/V. -/
def diodeTemp (j : Nat) (dv : Int) : Int := divRound (dv * 4185445) (max 1 (Config.diodeN j) * 1000000) - 27315 - Config.diodeOfs j

/-- The readings of a pass. -/
def diodeTemps (volts : List Int) : List Int := volts.zipIdx.map (fun q => diodeTemp q.2 q.1)

def execDiodePass (h : HoopId) (volts : List Int) (s : State) : Host.Outcome State Fault Refusal :=
  .next (s.act h (diodePass (diodeTemps volts) (if standsBy s h then (List.range 32).map (fun j => ((s.hoop (other h)).diode j).t) else diodeTemps volts)))

/-- The mean of a running millisecond, or the last one where nothing was read. -/
def msMean (sum : Int) (cnt : Nat) (old : Int) : Int := if cnt = 0 then old else divRound sum cnt

/-- Running differences of the thermistors between the hoops. -/
def thmDiffs (t : Ths) : List Nat :=
  (List.range 4).map (fun m => if 100 < (t.ownThm.getD m 0 - t.thm.getD m 0).natAbs then t.thmDiff.getD m 0 + 1 else 0)

/-- Running difference of the set point between the hoops. -/
def spDiffOf (x : Hoop) : Nat :=
  if x.tec.src != 0 && Nat.blt 10 (x.tec.ownSp - x.effT).natAbs then x.tec.spDiff + 1 else 0

/-- Whether some reading has differed for 3 ms. -/
def sensorFar (x : Hoop) : Bool :=
  (List.range 32).any (fun j => Nat.ble 3 (x.diode j).diff) || x.ths.thmDiff.any (fun n => Nat.ble 3 n) || Nat.ble 3 x.tec.spDiff

/-- One millisecond's difference of a diode's readings. -/
def diodeDiff (d : Diode) : Diode :=
  { d with diff := if 100 < (msMean d.ownSum d.cnt d.own - msMean d.sum d.cnt d.mean).natAbs then d.diff + 1 else 0 }

/-- The standby's comparison of its own readings with the holder's (R248). -/
def sensorCompare (x : Hoop) : Hoop :=
  let x := (List.range 32).foldl (fun y j => y.updDiode j diodeDiff) x
  let x := { x with ths := { x.ths with thmDiff := thmDiffs x.ths }, tec := { x.tec with spDiff := spDiffOf x } }
  bif sensorFar x then fault 165 noDet x else faultOff 165 x

/-- Lattice thresholds on the peak; `was` is the peak before it. -/
def latThresholds (was : Int) (x : Hoop) : Hoop :=
  let r := x.ths.peak
  let w := hyst x.ths.latWarn r (x.effT + thrB x.ths.latThr.toNat 0)
  let old := x.ths.latWarn
  let x := { x with ths := { x.ths with latWarn := w } }
  let x := readLvl 1 was (tellWarn 1 old w r (anyWarn x) x)
  let sd := hyst x.ths.latSd r (thrB x.ths.latThr.toNat 2)
  if sd = x.ths.latSd then x
  else
    let x := writeCeil { x with ths := { x.ths with latSd := sd } }
    raiseEv 397 [1, ofSigned 16 r] .hoop (if sd then fault 138 noDet x else faultOff 138 x)

/-- ZONE_MEAN (R244): the 1 ms means, SETTLED, the commit gate, the lattice thresholds. -/
def zoneMean (compare : Bool) (x : Hoop) : Hoop :=
  let x := if compare then sensorCompare x else x
  let was := x.ths.peak
  let x := (List.range 32).foldl (fun y j => y.updDiode j (fun d => { d with mean := msMean d.sum d.cnt d.mean, sum := 0, cnt := 0, ownSum := 0 })) x
  let z := fun (v : Zone) => let m := msMean v.sum v.cnt v.mean
    { v with mean := m, means := (v.means ++ [m]).drop (v.means.length + 1 - 100), sum := 0, cnt := 0 }
  let x := (x.updZone false z).updZone true z
  let good := (List.range 32).filter (fun j => !(x.diode j).suspect)
  let pk := good.foldl (fun (b : Option Nat) j => match b with
    | some k => if (x.diode k).mean < (x.diode j).mean then some j else some k
    | none => some j) none
  let x := match pk with
    | some j => { x with ths := { x.ths with peak := (x.diode j).mean, peakIx := BitVec.ofNat 5 j } }
    | none => x
  calWindow (latThresholds was (updGate (updSettled x)))

def execZoneMean (h : HoopId) (s : State) : Host.Outcome State Fault Refusal := .next (s.act h (zoneMean (standsBy s h)))

/-- Deviation of a diode from its neighbours; none with fewer than two (R245). -/
def deviation (x : Hoop) (j : Nat) : Option Nat :=
  let g := fun (k : Nat) => (x.diode k).mean - Config.gradient k x.tec.eff.toNat
  let ns := (diodeNbrs j).filter (fun k => !(x.diode k).suspect)
  if ns.length < 2 then none else some (g j - median (ns.map g)).natAbs

/-- Diodes SUSPECT. -/
def suspects (x : Hoop) : Nat := ((List.range 32).filter (fun j => (x.diode j).suspect)).length

/-- DIODE_CROSS_CHECK (R245, R246). `fresh` says that this hoop took the token and cleared the marks (R246): nine of its own are then S4. A standby
marks the diodes by the holder's readings and raises nothing for their number. -/
def crossCheck (fresh : Bool) (x : Hoop) : Hoop :=
  let devs := (List.range 32).map (fun j => (j, if (x.diode j).suspect then none else deviation x j))
  let x := devs.foldl (fun y q => match q.2 with
    | none => y
    | some d =>
      let s := if 250 < d then (y.diode q.1).strikes.toNat + 1 else 0
      let y := y.updDiode q.1 (fun v => { v with strikes := BitVec.ofNat 2 (min 3 s), suspect := decide (3 ≤ s) })
      if 3 ≤ s then raiseEv 392 [q.1, d] .hoop y else y) x
  let n := suspects x
  let f := decide (9 ≤ n)
  let old := x.ths.suspectFlt
  let x := { x with ths := { x.ths with suspectFlt := f } }
  if f && !old && x.pair.role != .standby then raiseEv 393 [n] .hoop (fault (if fresh then 129 else 128) noDet x) else x

/-- The hoop took the token in a hand-over since its reset. -/
def tookToken (x : Hoop) : Bool := Config.duplex x.part && x.pair.role == .active && x.pair.hoCnt != 0

def execDiodeCrossCheck (h : HoopId) (s : State) : Host.Outcome State Fault Refusal := .next (s.act h (fun x => crossCheck (tookToken x) x))

/-- The MRAM gate of R270. -/
def mramGate (x : Hoop) : Hoop :=
  let lo : Int := if x.ths.mramOk then -1000 else -500
  let hi : Int := if x.ths.mramOk then 10500 else 10000
  let v := decide (lo ≤ x.ths.jctMin ∧ x.ths.jct ≤ hi)
  if v = x.ths.mramOk then x else raiseEv 398 [0, bit v] .hoop { x with ths := { x.ths with mramOk := v } }

/-- DIE_SENSOR_READ: junction and its minimum, thresholds, the MRAM gate. -/
def dieRead (temps : List Int) (x : Hoop) : Hoop :=
  let ts := (List.range 8).map (fun i => temps.getD i (x.ths.dies.getD i 0))
  let hi := ts.foldl max (ts.headD 0)
  let lo := ts.foldl min (ts.headD 0)
  let was := x.ths.jct
  let x := { x with ths := { x.ths with dies := ts, jct := hi, jctMin := lo } }
  let w := hyst x.ths.jctWarn hi (thrB x.ths.jctThr.toNat 0)
  let old := x.ths.jctWarn
  let x := { x with ths := { x.ths with jctWarn := w } }
  let x := readLvl 0 was (tellWarn 0 old w hi (anyWarn x) x)
  let sd := hyst x.ths.jctSd hi (thrB x.ths.jctThr.toNat 2)
  let x := if sd = x.ths.jctSd then x
    else raiseEv 397 [0, ofSigned 16 hi] .hoop ((fun y : Hoop => if sd then fault 137 noDet y else faultOff 137 y) { x with ths := { x.ths with jctSd := sd } })
  mramGate x

def execDieSensorRead (h : HoopId) (temps : List Int) (s : State) : Host.Outcome State Fault Refusal := .next (s.act h (dieRead temps))

/-- A thermistor is open or short (R247). -/
def thmBad (t : Int) : Bool := decide (t < -4000) || decide (15000 < t)

/-- A thermistor's fault begins: source 130, event 394, and the bridge level 4 of a bridge that cannot be seen. -/
def thmFault (m : Nat) (x : Hoop) : Hoop :=
  if x.ths.thmFlt.getLsbD m then x
  else
    let x := raiseEv 394 [m] .hoop (fault 130 m { x with ths := { x.ths with thmFlt := x.ths.thmFlt ||| BitVec.twoPow 4 m } })
    if m = 1 then setLvl 2 4 (x.updZone false (fun v => { v with brgFixed := true }))
    else if m = 2 then setLvl 3 4 (x.updZone true (fun v => { v with brgFixed := true }))
    else x

/-- A bridge's thresholds; `was` are the readings before. -/
def bridge (z : Bool) (was : List Int) (x : Hoop) : Hoop :=
  let m := if z then 2 else 1
  if x.ths.thmFlt.getLsbD m then x
  else
    let r := x.ths.thm.getD m 0
    let v := x.tec.zone z
    let w := hyst v.brgWarn r (thrB x.ths.brgThr.toNat 0)
    let x := x.updZone z (fun q => { q with brgWarn := w })
    let x := readLvl (m + 1) (was.getD m 0) (tellWarn 2 v.brgWarn w r (anyWarn x) x)
    let sd := hyst v.brgSd r (thrB x.ths.brgThr.toNat 2)
    if sd = v.brgSd then x
    else
      let x := x.updZone z (fun q => { q with brgSd := sd })
      let x := raiseEv 397 [2, ofSigned 16 r] .hoop (if sd then fault 139 (bit z) x else if x.tec.z0.brgSd || x.tec.z1.brgSd then x else faultOff 139 x)
      if sd then holdLow x else restartZones x

/-- Cold plate and ambient warnings. -/
def auxWarn (x : Hoop) : Hoop :=
  let c := if x.ths.thmFlt.getLsbD 0 then x.ths.coldWarn else hyst x.ths.coldWarn (x.ths.thm.getD 0 0) (thrB x.ths.auxThr.toNat 0)
  let a := if x.ths.thmFlt.getLsbD 3 then x.ths.ambWarn else hyst x.ths.ambWarn (x.ths.thm.getD 3 0) (thrB x.ths.auxThr.toNat 1)
  let oc := x.ths.coldWarn
  let oa := x.ths.ambWarn
  let x := { x with ths := { x.ths with coldWarn := c, ambWarn := a } }
  tellWarn 4 oa a (x.ths.thm.getD 3 0) (anyWarn x) (tellWarn 3 oc c (x.ths.thm.getD 0 0) (anyWarn x) x)

/-- THERMISTOR_READ: `ohms` are the resistances of the four inputs; `held` the holder's readings in a standby. -/
def thmRead (ohms : List Nat) (held : Option (List Int)) (x : Hoop) : Hoop :=
  let own := (List.range 4).map (fun m => match ohms[m]? with
    | some r => Config.thermistor r (x.ths.thmR25.getD m 10000) (x.ths.thmB.getD m 3435)
    | none => x.ths.thm.getD m 0)
  let was := x.ths.thm
  let x := { x with ths := { x.ths with ownThm := own, thm := held.getD own } }
  let x := (List.range 4).foldl (fun y m => if thmBad (y.ths.thm.getD m 0) then thmFault m y
    else { y with ths := { y.ths with thmFlt := y.ths.thmFlt &&& ~~~(BitVec.twoPow 4 m) } }) x
  let x := if x.ths.thmFlt = 0 then faultOff 130 x else x
  auxWarn (bridge true was (bridge false was x))

def execThermistorRead (h : HoopId) (ohms : List Nat) (s : State) : Host.Outcome State Fault Refusal :=
  .next (s.act h (thmRead ohms (if standsBy s h then some (s.hoop (other h)).ths.thm else none)))

/-! ## PWM and trips (R257, R260 to R266) -/

/-- PWM_RELOAD of a zone: a shadow duty written with a clock to spare loads, PERIOD and DEAD follow, a restart takes effect. -/
def pwmReload (z : Bool) (x : Hoop) : Hoop :=
  (x.updZone z (fun v =>
    let inTime := decide (v.shadowAt + 4 ≤ x.now)
    { v with
      active := if inTime then v.shadow else v.shadowNext.getD v.active
      shadowNext := if inTime then none else some (v.shadowNext.getD v.active)
      per := x.tec.period, dead := x.tec.deadT, reloadAt := x.now
      running := v.running || (v.restart && inTime && mayDrive x.tec), restart := v.restart && !inTime })).pwmPins

def execPwmReload (h : HoopId) (z : Nat) (s : State) : Host.Outcome State Fault Refusal := .next (s.act h (pwmReload (z % 2 == 1)))

/-- A trip as one hoop latches it (R262). -/
def trip (z : Bool) (x : Hoop) : Hoop :=
  let cnt := (x.now - (x.tec.zone z).reloadAt) / 2
  let x := x.updZone z (fun v => { v with trip := true, tripLive := true, tripCnt := satInc v.tripCnt })
  raiseEv (385 + bit z) [x.stamp.toNat, cnt] .hoop (fault (131 + bit z) noDet (holdLow x))

/-- TEC_TRIP: both hoops latch it. -/
def execTecTrip (z : Nat) (s : State) : Host.Outcome State Fault Refusal :=
  let s := if z % 2 = 0 then { s with balls := { s.balls with trip0N := false } } else { s with balls := { s.balls with trip1N := false } }
  .next ((s.act .hoopA (trip (z % 2 == 1))).act .hoopB (trip (z % 2 == 1)))

/-- TEC_TRIP_RELEASE. -/
def execTecTripRelease (z : Nat) (s : State) : Host.Outcome State Fault Refusal :=
  let s := if z % 2 = 0 then { s with balls := { s.balls with trip0N := true } } else { s with balls := { s.balls with trip1N := true } }
  let f : Hoop → Hoop := fun x => x.updZone (z % 2 == 1) (fun v => { v with tripLive := false })
  .next ((s.act .hoopA f).act .hoopB f)

/-- TRIP_CLEAR (R263). -/
def tripClearVerb : Verb :=
  { check := anyForm
    run := fun k x =>
      if x.tec.z0.tripLive || x.tec.z1.tripLive then ({ status := 14 }, raiseEv 387 [0] .hoop x)
      else
        let y := (x.updZone false (fun v => { v with trip := false })).updZone true (fun v => { v with trip := false })
        let y := if x.tec.z0.trip || x.tec.z1.trip then restartZones y else y
        adminOk k x (raiseEv 387 [1] .hoop (faultOff 131 (faultOff 132 y))) }

def execTripClear (h : HoopId) (r : Nat) (s : State) : Host.Outcome State Fault Refusal := .next (s.serve h r 0x4C tripClearVerb)

/-- TEC_ENABLE (R264). -/
def tecEnableVerb : Verb :=
  { check := fun k _ => decide (k.par 0 1 ≤ 1)
    run := fun k x =>
      let on := k.par 0 1 == 1
      let y := { x with tec := { x.tec with en := on } }
      let y := if on then (if x.tec.en then faultOff 133 y else restartZones (faultOff 133 y)) else fault 133 noDet (holdLow y)
      adminOk k x (if on = x.tec.en then y else raiseEv 384 [bit on] .hoop y) }

def execTecEnable (h : HoopId) (r : Nat) (s : State) : Host.Outcome State Fault Refusal := .next (s.serve h r 0x4B tecEnableVerb)

/-- TEC_DRIVE (R255, R260): PERIOD and DEAD take effect at each zone's next reload. -/
def tecDriveVerb : Verb :=
  { check := fun k _ => decide (250 ≤ k.par 0 2 ∧ k.par 0 2 ≤ 5000 ∧ k.par 2 2 ≤ 1023 ∧ 4 * k.par 2 2 ≤ k.par 0 2) &&
      decide (100 ≤ k.par 4 2 ∧ k.par 4 2 ≤ 20000 ∧ k.par 6 2 ≤ k.par 4 2)
    run := fun k x => adminOk k x (storeSetting k 0 { x with tec := { x.tec with
      period := BitVec.ofNat 13 (k.par 0 2), deadT := BitVec.ofNat 10 (k.par 2 2), ifull := BitVec.ofNat 16 (k.par 4 2), ilimNom := BitVec.ofNat 16 (k.par 6 2) } }) }

def execTecDrive (h : HoopId) (r : Nat) (s : State) : Host.Outcome State Fault Refusal := .next (s.serve h r 0x48 tecDriveVerb)

/-- The coefficients of TEC_COEF. -/
def tecCoefOf (k : Ctx) : Coef :=
  { kp := BitVec.ofNat 32 (k.par 1 4), ki := BitVec.ofNat 32 (k.par 5 4), kd := BitVec.ofNat 32 (k.par 9 4), a := BitVec.ofNat 16 (k.par 13 2)
    imin := BitVec.ofNat 32 (k.par 15 4), imax := BitVec.ofNat 32 (k.par 19 4) }

/-- TEC_COEF (R256): the shadow set of a zone, and a swap at the next TEC sample. -/
def tecCoefVerb : Verb :=
  { check := fun k _ => let c := tecCoefOf k
      decide (k.par 0 1 ≤ 1 ∧ k.par 23 1 ≤ 1) && q24Ok c.kp && q24Ok c.ki && q24Ok c.kd && c.ok
    run := fun k x =>
      let y := x.updZone (k.par 0 1 == 1) (fun v => { v with sh := tecCoefOf k, swapPend := v.swapPend || k.par 23 1 == 1 })
      adminOk k x (storeSetting k (k.par 0 1) y) }

def execTecCoef (h : HoopId) (r : Nat) (s : State) : Host.Outcome State Fault Refusal := .next (s.serve h r 0x49 tecCoefVerb)

/-- The legal thresholds of a group (R267, R371). -/
def thresholdsOk (g w t sd : Nat) (x : Hoop) : Bool :=
  match g with
  | 0 => decide (w < t ∧ t < sd) && decide (sd ≤ x.ths.jctThr.toNat / 65536)
  | 1 => decide (x.tec.eff.toNat + 100 * w < 100 * t) && decide (t < sd) && decide (sd ≤ x.ths.latThr.toNat / 65536)
  | 2 => decide (w < t ∧ t < sd)
  | 3 => t == 0 && sd == 0
  | 4 => t == 0 && sd == 0
  | _ => false

/-- THRESHOLDS. -/
def thresholdsVerb : Verb :=
  { check := fun k x => thresholdsOk (k.par 0 1) (k.par 1 1) (k.par 2 1) (k.par 3 1) x
    run := fun k x =>
      let v : BitVec 24 := BitVec.ofNat 24 (k.par 1 1 + k.par 2 1 * 256 + k.par 3 1 * 65536)
      let w : BitVec 16 := BitVec.ofNat 16 (k.par 1 1)
      let t := match k.par 0 1 with
        | 0 => { x.ths with jctThr := v }
        | 1 => { x.ths with latThr := v }
        | 2 => { x.ths with brgThr := v }
        | 3 => { x.ths with auxThr := (x.ths.auxThr &&& 0xFF00) ||| w }
        | _ => { x.ths with auxThr := (x.ths.auxThr &&& 0x00FF) ||| (w <<< 8) }
      adminOk k x (storeSetting k (k.par 0 1) { x with ths := t }) }

def execThresholds (h : HoopId) (r : Nat) (s : State) : Host.Outcome State Fault Refusal := .next (s.serve h r 0x4D thresholdsVerb)

/-- THM_MODEL (R243). -/
def thmModelVerb : Verb :=
  { check := fun k _ => decide (k.par 0 1 ≤ 3)
    run := fun k x => adminOk k x (storeSetting k (k.par 0 1) { x with ths := { x.ths with
      thmR25 := x.ths.thmR25.set (k.par 0 1) (k.par 1 4), thmB := x.ths.thmB.set (k.par 0 1) (k.par 5 2) } }) }

def execThmModel (h : HoopId) (r : Nat) (s : State) : Host.Outcome State Fault Refusal := .next (s.serve h r 0x4E thmModelVerb)

end Sys2Proof.Machine
end

