-- ==== Sys2Proof/Machine/Collector.lean ====
section
/-!
DEFINITION. The rails of the fault sources and the writable registers of the collector (R277 to R279, R303), FAULT_N (R285), the keeper's
own checks (R284, R288), and the end of a module dark (R291).
-/

namespace Sys2Proof.Machine

/-! ## Rails (R277, R278) -/

/-- What the monitor plane does on a fault of its own monitors: a group whose supply or bias monitor asserts is lost (R207), a front end whose bias
monitor asserts is tested on the spare and then lost (R206). -/
def planeFault (s det : Nat) (x : Hoop) : Hoop :=
  if 64 ≤ s ∧ s ≤ 105 then loseGroup (s - 64) x
  else if s = 106 ∧ converts x det then startTest det (x.updChan det (fun v => { v with rail := 0 }))
  else x

/-- FAULT_ASSERT: a source's rails say asserted. -/
def railsOn (s det : Nat) (x : Hoop) : Hoop :=
  if !x.hasSrc s then x
  else
    let x := faultOn s det false [] x
    planeFault s det (x.setSrc s { x.src s with agree := false })

/-- A row of the rails in one hoop; a group that it loses is lost to both (R16). -/
def railsRow (h : HoopId) (src : Nat) (f : Hoop → Hoop) (s : State) : State :=
  settle (lostToBoth h (fun x => if 64 ≤ src ∧ src ≤ 105 then loseGroup (src - 64) x else x) s (s.upd h f))

def execFaultAssert (h : HoopId) (src det : Nat) (s : State) : Host.Outcome State Fault Refusal := .next (railsRow h src (railsOn src det) s)

/-- FAULT_CLEAR: a source's rails say clear. -/
def railsOff (s : Nat) (x : Hoop) : Hoop := faultOff s (x.setSrc s { x.src s with agree := false })

def execFaultClear (h : HoopId) (src : Nat) (s : State) : Host.Outcome State Fault Refusal := .next (s.act h (railsOff src))

/-- WIRE_FAULT: the rails agree; the source counts as asserted for as long as they do, with its present detail where it is live. -/
def wireFault (s : Nat) (x : Hoop) : Hoop :=
  let v := x.src s
  if !x.hasSrc s || v.agree then x
  else if v.live then raiseEv 453 [s] .hoop (x.setSrc s { v with wire := true, agree := true })
  else
    let x := faultOn s noDet true [] x
    planeFault s noDet (x.setSrc s { x.src s with agree := true })

def execWireFault (h : HoopId) (src : Nat) (s : State) : Host.Outcome State Fault Refusal := .next (railsRow h src (wireFault src) s)

/-- Sources of word `w` whose bit a write sets. -/
def wordSources (w : Nat) (v : BitVec 32) : List Nat := ((List.range 32).filter (fun j => v.getLsbD j && decide (w < 7))).map (fun j => 32 * w + j)

/-- FC_STICKY_CLEAR (R278, R285): STICKY clears where LIVE is 0; with no STICKY of S2 or higher left, firmware clears FC_HOLD. -/
def stickyClear (w : Nat) (v : BitVec 32) (x : Hoop) : Hoop :=
  let x := (wordSources w v).foldl (fun y s => let q := y.src s; if q.live then y else y.setSrc s { q with sticky := false }) x
  if x.stickyFrom 2 then x else { x with fc := { x.fc with hold := false } }

def execFcStickyClear (h : HoopId) (w : Nat) (v : BitVec 32) (s : State) : Host.Outcome State Fault Refusal := .next (s.act h (stickyClear w v))

/-- FC_WIRE_CLEAR (R303): a WIRE bit clears only while its rails disagree. -/
def wireClear (w : Nat) (v : BitVec 32) (x : Hoop) : Hoop :=
  (wordSources w v).foldl (fun y s => let q := y.src s; if q.agree then y else y.setSrc s { q with wire := false }) x

def execFcWireClear (h : HoopId) (w : Nat) (v : BitVec 32) (s : State) : Host.Outcome State Fault Refusal := .next (s.act h (wireClear w v))

/-- REARM (R279): FC_FIRST.VALID clears. -/
def rearm (v : BitVec 32) (x : Hoop) : Hoop :=
  if v.getLsbD 0 then { x with fc := { x.fc with first := x.fc.first &&& 0x7FFFFFFF } } else x

def execRearm (h : HoopId) (v : BitVec 32) (s : State) : Host.Outcome State Fault Refusal := .next (s.act h (rearm v))

/-- FAULT_N_TIMEOUT (R285): the 10 us time has run out. -/
def faultNEnd (x : Hoop) : Hoop :=
  if x.fc.pulse && decide (x.fc.pulseEnd ≤ x.now) then { x with fc := { x.fc with pulse := false } } else x

def execFaultNTimeout (h : HoopId) (s : State) : Host.Outcome State Fault Refusal := .next (s.act h faultNEnd)

/-! ## The keeper's own checks -/

/-- COLLECTOR_PARITY_ERROR (R284): the keeper forces directly, and holds FAULT_N low. -/
def parityError (x : Hoop) : Hoop :=
  engage 223 4 false { x with dk := { x.dk with fcPar := true } }

def execCollectorParityError (h : HoopId) (s : State) : Host.Outcome State Fault Refusal := .next (s.act h parityError)

/-- KEEPER_CRC_CHECK (R288): a mismatch raises source 26, which clears ARMED. `flipped` says that a latch no longer holds what was written. -/
def keeperCheck (flipped : Bool) (x : Hoop) : Hoop :=
  if x.dk.armed || x.dk.imageBad then
    if x.dk.imageBad || flipped || keeperCrc x x.dk.codes != x.dk.crc then
      fault 26 noDet { x with dk := { x.dk with imageBad := true, armed := false } }
    else faultOff 26 x
  else faultOff 26 x

def execKeeperCrcCheck (h : HoopId) (flipped : Bool) (s : State) : Host.Outcome State Fault Refusal := .next (s.act h (keeperCheck flipped))

/-! ## The end of a module dark (R291) -/

/-- The dark-request bit of every eyelet sets, and EYELET_DARK runs. -/
def darkAll (x : Hoop) : Hoop :=
  eyeletDark { x with tmb := { x.tmb with darkReq := (List.range x.n).foldl (fun b i => b ||| BitVec.twoPow 512 i) x.tmb.darkReq } }

/-- Every eyelet register holds its DARK code. -/
def allDarkCodes (x : Hoop) : Bool := (List.range x.n).all (fun i => (x.needle (x.eyelet i)).reg == x.darkCode i)

/-- What a dark release needs of a hoop. -/
def releasable (x : Hoop) : Bool :=
  !x.lineOn && !x.stickyFrom 3 && x.tmb.st != .halted && x.slice.headerOk && !x.dk.fcPar && allDarkCodes x

/-- The module is dark. -/
def moduleDark (x peer : Hoop) : Bool := x.dk.force || (Config.duplex x.part && peer.dk.force)

/-- DARK_RELEASE, its checks after the run. -/
def darkReleaseVerb : Verb :=
  { check := anyForm
    run := fun k x =>
      if !moduleDark x k.peer then ({ status := 0 }, x)
      else if releasable x && (!Config.duplex x.part || releasable k.peer) then adminOk k x { x with dk := { x.dk with relAccepted := true } }
      else ({ status := 14 }, x) }

/-- The front command of ring 0 will reach its own checks at this hoop. -/
def reaches (x : Hoop) (op : Nat) : Bool :=
  match (x.ring 0).read with
  | [] => false
  | c :: _ => (hdrOf c.bytes).opcode == op && nextRing x == some 0 && x.pair.role != .standby && answers x 0 c && !c.aborted && fieldsOk x 0 c.bytes

/-- On receiving the command, every hoop darks every eyelet; then it is checked. -/
def darkReleaseRun (h : HoopId) (s : State) : State :=
  if reaches (s.hoop h) 0x51 && moduleDark (s.hoop h) (s.hoop (other h)) then s.hoops.foldl (fun s k => s.upd k darkAll) s else s

def execDarkRelease (h : HoopId) (r : Nat) (s : State) : Host.Outcome State Fault Refusal :=
  .next ((if r = 0 then darkReleaseRun h s else s).serve h r 0x51 darkReleaseVerb)

/-- The force of one hoop ends and with it the window that it held open (R162): event 457 and journal record 0x0008 with the eyelets confirmed optically and electrically. -/
def unforce (x : Hoop) : Hoop :=
  if !x.dk.force then x
  else
    let done := (List.range x.n).filter (fun i => smGet 0 x.dk.confirmed1 i == 2)
    let el := (done.filter (fun i => (x.chan (x.eyelet i)).lost)).length
    raiseEv 457 [x.stamp.toNat] .hoop (msixSend 33 (jnlPut 8 0xFF 0xFFFF false (words [done.length - el, el])
      { x with dk := { x.dk with force := false, relAccepted := false, relTime := x.stamp }, fc := { x.fc with dark := false }
               drv := { x.drv with tiles := (eyeTiles x).foldl (fun m t => smUpd {} m t (fun v => { v with win := none })) x.drv.tiles } }))

/-- FORCE_RELEASE: at the refresh boundary after an accepted release, every hoop releases; a fault of S3 or S4 before it has undone the
acceptance. -/
def execForceRelease (h : HoopId) (s : State) : Host.Outcome State Fault Refusal :=
  .next (settle (if s.has h && (s.hoop h).dk.relAccepted && !s.hoops.any (fun k => (s.hoop k).lineOn) then s.hoops.foldl (fun s k => s.upd k unforce) s else s))

end Sys2Proof.Machine
end

