-- ==== Sys2Proof/Machine/Journal.lean ====
section
/-!
DEFINITION. The journal writer (R294, R295), the threshold of its hold-up check, and the history store (R28, R298 to R300, R434, R453).
-/

namespace Sys2Proof.Machine

/-! ## Bursts (R294, R295) -/

/-- The journal-loss record, built when it is written (R295). -/
def lossRecord (x : Hoop) (q : Nat × Stamp × Stamp) : JRec :=
  { type := 0xF, sev := 0xFF, flags := BitVec.ofNat 8 ((if x.isB then 4 else 0) + (if x.tb.timeValid then 0 else 16)), stamp := x.stamp,
    sec := BitVec.ofNat 48 (x.tb.secOf x.now), ns := BitVec.ofNat 32 (x.tb.nsOf x.now), source := 0xFFFF,
    payload := padTo 36 (words [q.1, q.2.1.toNat, q.2.2.toNat]) }

/-- Records that start a burst at once (R294). -/
def JRec.urgent (j : JRec) : Bool := (2 ≤ j.sev.toNat && j.sev.toNat ≤ 4) || j.type == 7

/-- A burst begins: 64 pending, the oldest 1 ms old, or a record that waits for nothing. -/
def burstDue (x : Hoop) : Bool :=
  decide (64 ≤ x.jnl.buf.length) || (!x.jnl.buf.isEmpty && decide (x.jnl.oldest + 1000000 ≤ x.now)) || x.jnl.buf.any JRec.urgent

/-- The extended count at which a record was queued, from its STAMP. -/
def queuedAt (x : Hoop) (j : JRec) : Nat := x.now - (x.stamp - j.stamp).toNat

/-- Write up to 64 records, the loss record first. -/
def writeBurst (x : Hoop) : Hoop :=
  let all := (match x.jnl.loss with | some q => [lossRecord x q] | none => []) ++ x.jnl.buf
  let rest := all.drop 64
  let x := (all.take 64).foldl jnlWrite1 x
  pmcRaw 223 1 { x with jnl := { x.jnl with
    buf := rest, loss := none, bursts := x.jnl.bursts + 1, oldest := match rest.head? with | some j => queuedAt x j | none => x.jnl.oldest } }

/-- The hold-up check (R295): a passing one ends source 9. -/
def holdupCheck (mv : Nat) (x : Hoop) : Hoop :=
  let ok := decide (x.jnl.holdupMin.toNat ≤ mv)
  let x := { x with jnl := { x.jnl with holdup := BitVec.ofNat 11 mv, holdupOk := ok } }
  if ok then faultOff 9 x else fault 9 noDet x

/-- Defer: every record in the buffer carries DEFERRED. The cause is 0 for the hold-up check and 1 for the gate. -/
def deferWrite (x : Hoop) : Hoop :=
  let cause := bit x.jnl.holdupOk
  let was := x.jnl.deferred
  let x := { x with jnl := { x.jnl with
    deferred := true, deferredHoldup := !x.jnl.holdupOk, buf := x.jnl.buf.map (fun j => { j with flags := j.flags ||| 1 }) } }
  if was then x else raiseEv 459 [cause] .hoop x

/-- Try a burst: the check, the gate of R270, the records. -/
def tryBurst (mv : Nat) (x : Hoop) : Hoop :=
  let x := holdupCheck mv x
  if x.jnl.holdupOk && x.ths.mramOk then
    let was := x.jnl.deferred
    let cause := bit (!x.jnl.deferredHoldup)
    let x := writeBurst { x with jnl := { x.jnl with deferred := false, deferredHoldup := false } }
    if was then raiseEv 459 [cause] .hoop x else x
  else deferWrite x

/-- JOURNAL_BURST. -/
def execJournalBurst (h : HoopId) (mv : Nat) (s : State) : Host.Outcome State Fault Refusal :=
  .next (s.act h (fun x => if burstDue x && !x.jnl.deferred then flushMram (tryBurst mv x) else x))

/-- HOLDUP_RETRY: a write that is deferred is tried again, of the journal or of another part of the MRAM. -/
def execHoldupRetry (h : HoopId) (mv : Nat) (s : State) : Host.Outcome State Fault Refusal :=
  .next (s.act h (fun x => if x.jnl.deferred then flushMram (tryBurst mv x) else if x.mwrites.isEmpty then x else flushMram (holdupCheck mv x)))

/-- HOLDUP_MIN (R295, R371). -/
def holdupMinVerb : Verb :=
  { check := fun k _ => decide (k.par 0 2 ≤ 1200)
    run := fun k x => adminOk k x (storeSetting k 0 { x with jnl := { x.jnl with holdupMin := BitVec.ofNat 11 (k.par 0 2) } }) }

def execHoldupMin (h : HoopId) (r : Nat) (s : State) : Host.Outcome State Fault Refusal := .next (s.serve h r 0x4F holdupMinVerb)

/-! ## History (R28, R299, R300) -/

/-- The heater is held by feed-forward only (R38, R229). -/
def ffHold (x : Hoop) (e : Nat) : Bool :=
  (x.elem e).st == .idle || !x.lit e || (x.chan e).lost || (x.loop e).st == .off || (x.loop e).st == .ff || (x.loop e).st == .settle

/-- The element status word (R38). An eyelet that has never been written is DARK. -/
def elemStatus (x : Hoop) (e : Nat) : Nat :=
  let v := x.elem e
  let st := if x.nS ≤ e ∧ v.st ≠ .eyOpen then 4 else v.st.code
  st + bit (v.band && st != 0) * 8 + bit v.mixed * 16 + bit (ffHold x e) * 32 + bit v.excluded * 64 + bit v.samplerBad * 128 + bit v.refined * 256
    + bit v.badO * 512 + bit v.badC * 1024

/-- The tenant of the thread routed to the output that a channel measures; 0 where there is none. -/
def chanTenant (x : Hoop) (c : Nat) : Nat :=
  match (if c < x.nS then upper x c else if c < x.nS + x.n then some (c - x.nS) else endsOn x (c - x.nS - x.n)) with
  | some i => (x.carrier i).tenant
  | none => 0

/-- One channel's summary of a second, 32 bytes (R299). -/
def summary (x : Hoop) (sec : Nat) (deferred : Bool) (c : Nat) : Bytes :=
  let q := smGet {} x.hist.chStats c
  let v := x.chan c
  let pa := fun (n : Nat) => leBytes 4 (n / 65536)
  let b := leBytes 6 sec ++ leBytes 2 (c + bit v.lost * 2 ^ 13 + bit q.spare * 2 ^ 14 + bit deferred * 2 ^ 15)
    ++ pa (q.sum / max 1 q.n) ++ pa q.min ++ pa q.max ++ leBytes 2 (min q.n 65535) ++ leBytes 1 (min q.ovr 255) ++ leBytes 1 v.range.toNat
    ++ leBytes 2 (if c < x.nE then elemStatus x c else 0) ++ leBytes 2 (chanTenant x c) ++ [0, 0]
  b ++ leBytes 2 (crc16 b).toNat

/-- Every channel's summary. -/
def summaries (x : Hoop) (sec : Nat) (deferred : Bool) : Bytes := ((List.range (Config.chans x.part)).map (summary x sec deferred)).flatten

/-- Seconds that the deferral buffer of 256 MiB holds (R300). -/
def deferCap (x : Hoop) : Nat := 268435456 / (32 * Config.chans x.part + 2048)

/-- Entries of the rings (R299): 4,000,000,000 bytes each of ledger and counters, summaries in the rest. -/
def keepLast {α : Type} (n : Nat) (l : List α) : List α := l.drop (l.length - n)

def summaryCap (x : Hoop) : Nat := (x.hist.capacity - 1048576 - 8000000000) / (32 * Config.chans x.part)

/-- Event 462. -/
def histEvent (x : Hoop) : Hoop :=
  raiseEv 462 [bit x.hist.present, bit x.hist.failed, bit x.hist.deferring, bit (!x.hist.deferring)] .hoop x

/-- Write what is pending to the store. -/
def writeHistory (x : Hoop) : Hoop :=
  let p := x.hist.pendingSecs
  let bytes := (p.map (fun q => q.2.1.length + q.2.2.length)).sum + 64 * x.hist.pendingLed.length
  pmcRaw 224 bytes { x with hist := { x.hist with
    summaries := keepLast (summaryCap x) (x.hist.summaries ++ p.map (fun q => (q.1, q.2.1)))
    counters := keepLast 1953125 (x.hist.counters ++ (p.filter (fun q => !q.2.2.isEmpty)).map (fun q => (q.1, q.2.2)))
    ledger := keepLast 62500000 (x.hist.ledger ++ x.hist.pendingLed), pendingSecs := [], pendingLed := [], badWrites := 0 } }

/-- Write the ledger's records alone: they are not deferred (R28). -/
def writeLedger (x : Hoop) : Hoop :=
  pmcRaw 224 (64 * x.hist.pendingLed.length) { x with hist := { x.hist with ledger := keepLast 62500000 (x.hist.ledger ++ x.hist.pendingLed), pendingLed := [] } }

/-- A second that does not fit the buffer any more is lost, with source 200 and record 0x0010. -/
def overflowHistory (x : Hoop) : Hoop :=
  match x.hist.pendingSecs with
  | q :: rest =>
    if deferCap x < x.hist.pendingSecs.length then
      fault 200 noDet (jnlPut 0x10 0xFF 0xFFFF false (words [1] ++ leBytes 6 q.1) { x with hist := { x.hist with pendingSecs := rest } })
    else x
  | [] => x

/-- The store has failed: source 199, and nothing more is written (R300). -/
def histFail (x : Hoop) : Hoop :=
  fault 199 noDet (histEvent { x with hist := { x.hist with failed := true, pendingSecs := [], pendingLed := [] } })

/-- HISTORY_SECOND (R299): `deferred` says that the load defers this second (R28), `writeFail` that the store's write fails. Nothing is written while source
199 is raised, whatever raised it (R300). -/
def historySecond (deferred writeFail : Bool) (x : Hoop) : Hoop :=
  let deferred := deferred && x.mayDefer
  let sec := (x.tb.ptpOf x.now + 100) / 1000000000 - 1
  let entry := (sec, summaries x sec deferred, match x.hist.snap with | some q => q.2 | none => [])
  let usable := x.hist.present && !x.hist.failed && !(x.src 199).live
  let x := { x with hist := { x.hist with chStats := [], snap := none } }
  if !usable then x
  else
    let was := x.hist.deferring
    let x := { x with hist := { x.hist with pendingSecs := x.hist.pendingSecs ++ [entry], deferring := deferred } }
    let x := if was != deferred then histEvent x else x
    if writeFail then
      if 1 ≤ x.hist.badWrites then histFail x else overflowHistory { x with hist := { x.hist with badWrites := x.hist.badWrites + 1 } }
    else if deferred then overflowHistory (pmcRaw 225 1 (writeLedger x))
    else faultOff 200 (writeHistory x)

/-- PASS_RATE of each group: the regular passes of the second that ends (R193, R212). -/
def passRates (x : Hoop) : Hoop :=
  (List.range x.nG).foldl (fun y g => y.updGroup g (fun v => { v with passRate := BitVec.ofNat 16 (min 65535 v.passes), passes := 0 })) x

def execHistorySecond (h : HoopId) (deferred writeFail : Bool) (s : State) : Host.Outcome State Fault Refusal := .next (s.act h (fun x => passRates (historySecond deferred writeFail x)))

/-- HISTORY_STORE_READY (R453, R298): the store is found at boot alone. A header that fails its check is written afresh and the rings are emptied.
Cause of event 563: 0 detected, 1 formatted, 2 absent. -/
def storeReady (present hdrOk : Bool) (capacity : Nat) (x : Hoop) : Hoop :=
  if x.hist.present || (x.src 199).live then x
  else if !present || decide (capacity < 64000000000) || decide (8000000000000 < capacity) then
    fault 199 noDet (histEvent (raiseEv 563 [0, 2] .hoop x))
  else
    let h := x.hist
    let h := if hdrOk then h else { h with summaries := [], counters := [], ledger := [] }
    histEvent (raiseEv 563 [capacity, bit (!hdrOk)] .hoop { x with hist := { h with present := true, capacity := capacity } })

def execHistoryStoreReady (h : HoopId) (present hdrOk : Bool) (capacity : Nat) (s : State) : Host.Outcome State Fault Refusal :=
  .next (s.act h (storeReady present hdrOk capacity))

end Sys2Proof.Machine
end

