-- ==== Sys2Proof/Machine/Mailbox.lean ====
section
/-!
DEFINITION. The mailboxes from the host's side: doorbells and heads (R347, R375), ring errors (R350), moderation (R351), the ring commands
(R362, R365, R375, R380, R382), token refill (R365), remote commands (R381 to R383).
-/

namespace Sys2Proof.Machine

/-! ## Doorbells and heads -/

/-- DOORBELL (R347): a value at or above the slot count is ignored; `cmds` are the posted slots as DMA reads them. -/
def doorbell (r : Nat) (tail : BitVec 12) (cmds : List Bytes) (x : Hoop) : Hoop :=
  let g := x.ring r
  if 16 ≤ r ∨ g.slots ≤ tail.toNat then x
  else
    let n := (tail.toNat + g.slots - g.db) % g.slots
    let new : List Posted := (List.range n).map (fun j => { bytes := padTo 64 (cmds.getD j []), slot := (g.db + j) % g.slots, remote := none })
    pumpRing r (x.setRing r { g with db := tail.toNat, posted := g.posted ++ new })

def execDoorbell (h : HoopId) (r : Nat) (tail : BitVec 12) (cmds : List Bytes) (s : State) : Host.Outcome State Fault Refusal :=
  .next (s.act h (doorbell r tail cmds))

/-- MBX_CPL_HEAD (R347): entries up to `v` are consumed, and a held ring is read again; a head beyond what was written is ignored (R14). -/
def cplHead (r : Nat) (v : BitVec 12) (x : Hoop) : Hoop :=
  let g := x.ring r
  let k := (v.toNat + g.slots - g.cplHead) % g.slots
  if 16 ≤ r ∨ g.slots ≤ v.toNat ∨ g.cplUsed < k then x
  else pumpRing r (x.setRing r { g with cplHead := v.toNat, cpls := g.cpls.drop k })

def execMbxCplHead (h : HoopId) (r : Nat) (v : BitVec 12) (s : State) : Host.Outcome State Fault Refusal := .next (s.act h (cplHead r v))

/-- MBX_EVT_HEAD (R375): entries up to `v` are consumed; the overflow notice of the ring is written once an entry is free. -/
def evtHead (r : Nat) (v : BitVec 13) (x : Hoop) : Hoop :=
  let g := x.ring r
  let k := (v.toNat + g.evtSlots - g.evtHead) % g.evtSlots
  if 16 ≤ r ∨ g.evtSlots ≤ v.toNat ∨ g.evtUsed < k then x
  else
    let n := g.dropsPending
    let x := x.setRing r { g with evtHead := v.toNat, evts := g.evts.drop k, dropsPending := if k = 0 then n else 0 }
    if k = 0 ∨ n = 0 then x else raiseEv (16 + r) [n] (.ring r) x

def execMbxEvtHead (h : HoopId) (r : Nat) (v : BitVec 13) (s : State) : Host.Outcome State Fault Refusal := .next (s.act h (evtHead r v))

/-! ## Enable and disable (R345, R349, R350) -/

/-- EN sets: the rings' first pass begins. -/
def Ring.enable (g : Ring) : Ring := if g.en then g else { g with en := true, dmaErr := false, cplPhase := true, evtPhase := true }

/-- The event of a ring; cause 0 bound, 1 rebound, 2 unbound, 3 disabled. -/
def ringEvent (r cause tenant : Nat) (x : Hoop) : Hoop := raiseEv r [cause, tenant] (.ring r) x

/-- REOPEN_RING0: EN sets on ring 0, once start-up has opened it, and what is posted is read. -/
def reopen0 (v : BitVec 32) (x : Hoop) : Hoop :=
  if v.getLsbD 0 && x.boot.stage == .opened then pumpRing 0 (x.updRing 0 Ring.enable) else x

def execReopenRing0 (h : HoopId) (v : BitVec 32) (s : State) : Host.Outcome State Fault Refusal := .next (s.act h (reopen0 v))

/-- DMA_ERROR (R350): EN clears and nothing more is written to the ring; commands that were read and not accepted go with it. -/
def dmaError (r : Nat) (x : Hoop) : Hoop :=
  let g := x.ring r
  if 16 ≤ r ∨ !g.en then x
  else ringEvent r 3 g.tenant (x.setRing r { g with en := false, dmaErr := true, run := none, read := [] })

def execDmaError (h : HoopId) (r : Nat) (s : State) : Host.Outcome State Fault Refusal := .next (s.act h (dmaError r))

/-- MSIX_MODERATION_TIMEOUT (R351): the vector of entries that have not been signalled. -/
def moderation (r : Nat) (evt : Bool) (x : Hoop) : Hoop :=
  let g := x.ring r
  if 16 ≤ r then x
  else if evt then
    if g.evtUnsig = 0 ∨ !g.intr.getLsbD 1 then x else msixSend (16 + r) (x.setRing r { g with evtUnsig := 0 })
  else if g.cplUnsig = 0 ∨ !g.intr.getLsbD 0 then x
  else msixSend r (x.setRing r { g with cplUnsig := 0 })

def execMsixModerationTimeout (h : HoopId) (r : Nat) (evt : Bool) (s : State) : Host.Outcome State Fault Refusal := .next (s.act h (moderation r evt))

/-! ## Ring commands -/

/-- An agent ring's number. -/
def agentRing (r : Nat) : Bool := decide (1 ≤ r ∧ r ≤ 15)

/-- The meter's parameters lie in their ranges (R365). -/
def meterOk (cir cbs ebs : Nat) : Bool := decide (1 ≤ cir ∧ cir ≤ 200000) && decide (1 ≤ cbs ∧ cbs ≤ 4096) && decide (ebs ≤ 4096)

/-- Set a ring's meter and fill its tokens. -/
def Ring.setMeter (g : Ring) (cir cbs ebs : Nat) : Ring := { g with cir := cir, cbs := cbs, ebs := ebs, tc := cbs, te := ebs }

/-- The ring is enabled and has slots that are posted and not read (R362). -/
def Ring.unread (g : Ring) : Bool := g.en && g.posted.any (fun p => p.remote.isNone)

/-- A port of the masks is owned by a ring with another tag, or carries a thread with another tag (R362). -/
def portsHeld (x : Hoop) (r tenant : Nat) (im om : BitVec 512) : Bool :=
  (List.range 15).any (fun q => let g := x.ring (q + 1)
    q + 1 != r && g.bound && g.tenant != tenant && (g.inMask &&& im != 0 || g.outMask &&& om != 0)) ||
  (x.thr ++ (x.prk.slots.map (fun e => e.2.threads)).flatten).any (fun t =>
    t.2.st != .none && t.2.tenant != tenant && (im.getLsbD t.1 || om.getLsbD t.2.outPort))

/-- RING_BIND. -/
def ringBindVerb : Verb :=
  { check := fun k _ => agentRing (k.par 0 1) && decide (k.par 1 1 ≤ 7) && decide (1 ≤ k.par 2 2 ∧ k.par 2 2 ≤ 4095)
      && meterOk (k.par 4 4) (k.par 8 2) (k.par 10 2)
    run := fun k x =>
      let r := k.par 0 1
      let g := x.ring r
      let t := k.par 2 2
      let im := BitVec.ofNat 512 (k.par 12 (x.n / 8))
      let om := BitVec.ofNat 512 (k.par (12 + x.n / 8) (x.n / 8))
      if g.unread || portsHeld x r t im om then ({ status := 14 }, x)
      else
        let g' := { g with bound := true, versions := BitVec.ofNat 3 (k.par 1 1), tenant := t, inMask := im, outMask := om,
                           posted := if g.en then g.posted else [], cmdHead := if g.en then g.cmdHead else g.db }
        adminOk k x (ringEvent r (bit g.bound) t (x.setRing r ((g'.setMeter (k.par 4 4) (k.par 8 2) (k.par 10 2)).enable))) }

def execRingBind (h : HoopId) (r : Nat) (s : State) : Host.Outcome State Fault Refusal := .next (s.serve h r 0x20 ringBindVerb)

/-- RING_UNBIND. -/
def ringUnbindVerb : Verb :=
  { check := fun k _ => agentRing (k.par 0 1)
    run := fun k x =>
      let r := k.par 0 1
      let g := x.ring r
      if g.unread then ({ status := 14 }, x)
      else adminOk k x (ringEvent r 2 g.tenant (x.setRing r
        { g with bound := false, en := false, tenant := 0, versions := 0, inMask := 0, outMask := 0, run := none, posted := [] })) }

def execRingUnbind (h : HoopId) (r : Nat) (s : State) : Host.Outcome State Fault Refusal := .next (s.serve h r 0x21 ringUnbindVerb)

/-- METER_SET. -/
def meterSetVerb : Verb :=
  { check := fun k _ => agentRing (k.par 0 1) && meterOk (k.par 1 4) (k.par 5 2) (k.par 7 2)
    run := fun k x => adminOk k x (x.updRing (k.par 0 1) (fun g => g.setMeter (k.par 1 4) (k.par 5 2) (k.par 7 2))) }

def execMeterSet (h : HoopId) (r : Nat) (s : State) : Host.Outcome State Fault Refusal := .next (s.serve h r 0x22 meterSetVerb)

/-- KEY_SET (R382): a key of zeros removes the key. -/
def keySetVerb : Verb :=
  { check := fun k _ => decide (k.par 0 1 ≤ 15)
    run := fun k x =>
      let r := k.par 0 1
      let key := ((paramOf k.cmd.bytes).drop 1).take 32
      let g := x.ring r
      let g' := if key.all (· == 0) then { g with key := none } else { g with key := some key, keyGen := g.keyGen + 1, ctrWin := {} }
      let q := adminOk k x (raiseEv 35 [r, g'.keyGen.toNat] .hoop (x.setRing r g'))
      ({ q.1 with result := g'.keyGen.toNat }, q.2) }

def execKeySet (h : HoopId) (r : Nat) (s : State) : Host.Outcome State Fault Refusal := .next (s.serve h r 0x23 keySetVerb)

/-- EVENT_SUB (R375, R371). -/
def eventSubVerb : Verb :=
  { check := fun k _ => decide (1 ≤ k.par 2 2) && decide (k.par 0 2 + k.par 2 2 ≤ 576) && decide (k.par 4 1 ≤ 1)
    run := fun k x =>
      let m := (List.range (k.par 2 2)).foldl (fun (b : BitVec 576) j => b ||| BitVec.twoPow 576 (k.par 0 2 + j)) 0
      adminOk k x { x with evt := { x.evt with sub := if k.par 4 1 = 1 then x.evt.sub ||| m else x.evt.sub &&& ~~~m } } }

def execEventSub (h : HoopId) (r : Nat) (s : State) : Host.Outcome State Fault Refusal := .next (s.serve h r 0x24 eventSubVerb)

/-- A management Ethernet port. -/
def Mbx.net (m : Mbx) (p : Nat) : NetPort := if p = 0 then m.net0 else m.net1

/-- NET_CFG (R380, R371, R451). -/
def netCfgVerb : Verb :=
  { check := fun k _ => decide (k.par 0 1 ≤ 1) && decide (k.par 13 2 ≤ 4094) && decide (k.par 15 1 ≤ 1)
    run := fun k x =>
      let v : NetPort := { addr := BitVec.ofNat 32 (k.par 1 4), mask := BitVec.ofNat 32 (k.par 5 4), gateway := BitVec.ofNat 32 (k.par 9 4),
                           vlan := BitVec.ofNat 16 (k.par 13 2), remoteEn := k.par 15 1 == 1 }
      adminOk k x (storeSetting k (k.par 0 1)
        { x with mbx := if k.par 0 1 = 0 then { x.mbx with net0 := v } else { x.mbx with net1 := v } }) }

def execNetCfg (h : HoopId) (r : Nat) (s : State) : Host.Outcome State Fault Refusal := .next (s.serve h r 0x25 netCfgVerb)

/-- TOKEN_REFILL (R365). -/
def refill (g : Ring) : Ring :=
  if g.tc < g.cbs then { g with tc := g.tc + 1 } else if g.te < g.ebs then { g with te := g.te + 1 } else g

def execTokenRefill (h : HoopId) (r : Nat) (s : State) : Host.Outcome State Fault Refusal :=
  .next (s.act h (fun x => if agentRing r && (x.ring r).bound then x.updRing r refill else x))

/-! ## Remote commands (R381, R382) -/

/-- Why a datagram is dropped: 0 no key, 1 KEY_GEN, 2 MAC, 3 COUNTER, 4 the form of the envelope; none where it is accepted, with the ring's
window. -/
def datagram (x : Hoop) (p : Bytes) : Nat ⊕ Win :=
  let r := field p 1 1
  let g := x.ring r
  if p.length < 32 ∨ field p 0 1 ≠ 1 ∨ 16 ≤ r ∨ field p 12 4 ≠ 0 ∨ field p 4 8 = 0 then .inl 4
  else match g.key with
    | none => .inl 0
    | some key =>
      if field p 2 2 ≠ g.keyGen.toNat then .inl 1
      else if mac16 key (p.take (p.length - 16)) ≠ p.drop (p.length - 16) then .inl 2
      else match winAccept (2 ^ 64 - 1) g.ctrWin (field p 4 8) with
        | some w => .inr w
        | none => .inl 3

/-- Count a drop, with event 34 at most once a second (R377, R382). -/
def dropDatagram (why : Nat) (addr : BitVec 32) (x : Hoop) : Hoop :=
  let n := x.mbx.drops.set why (x.mbx.drops.getD why 0 + 1)
  let x := pmcRaw 221 1 { x with mbx := { x.mbx with drops := n, dropAddr := addr } }
  let sec := x.now / 1000000000
  if x.mbx.dropEvSec = some sec then x
  else raiseEv 34 (n ++ [addr.toNat]) .hoop { x with mbx := { x.mbx with dropEvSec := some sec } }

/-- REMOTE_DATAGRAM: a command of its ring, in arrival order with those posted over PCIe; a port without remote enable takes none. -/
def remote (port : Nat) (addr : BitVec 32) (src : BitVec 16) (p : Bytes) (x : Hoop) : Hoop :=
  if !(x.mbx.net port).remoteEn then x
  else match datagram x p with
    | .inl why => dropDatagram why addr x
    | .inr w =>
      let r := field p 1 1
      let c : Posted := { bytes := (p.drop 16).take (p.length - 32), slot := 0,
                          remote := some { addr := addr, port := src, keyGen := BitVec.ofNat 16 (field p 2 2), counter := field p 4 8 } }
      pumpRing r (pmcRaw 220 1 (x.updRing r (fun g => { g with ctrWin := w, posted := g.posted ++ [c] })))

def execRemoteDatagram (h : HoopId) (port : Nat) (srcAddr : BitVec 32) (srcPort : BitVec 16) (payload : Bytes) (s : State) : Host.Outcome State Fault Refusal :=
  .next (s.act h (remote port srcAddr srcPort payload))

end Sys2Proof.Machine
end

