-- ==== Sys2Proof/Machine/Counters.lean ====
section
/-!
DEFINITION. The crossbar's default target and cut bursts (R423 to R429), the performance counters (R430 to R438).
-/

namespace Sys2Proof.Machine

/-! ## Crossbar -/

/-- The target of an internal address (R423): 9 is the default target. -/
def targetOf (ddrGib addr : Nat) : Nat :=
  if addr < 0x800000 then addr / 0x200000
  else if 0x100000000 ≤ addr ∧ addr < 0x100000000 + ddrGib * 2 ^ 30 then 4
  else if 0x2000000 ≤ addr ∧ addr < 0x4000000 then 5
  else if 0x1000000 ≤ addr ∧ addr < 0x1800000 then 6
  else if 0x1900000 ≤ addr ∧ addr < 0x1910000 then 7
  else if 0x1800000 ≤ addr ∧ addr < 0x1810000 then 8
  else 9

/-- What each master reaches (R424). -/
def reachable (m t : Nat) (write : Bool) : Bool :=
  if t < 4 then true
  else if t = 4 then m != 3 && m != 8
  else if t = 5 then m == 0 || m == 1 || m == 8
  else if t = 6 then m == 0 || m == 1
  else if t = 7 then m == 2
  else if t = 8 then (m == 0 || m == 1 || m == 3) && !write
  else false

/-- The access goes to the default target. -/
def defaultAccess (x : Hoop) (m addr : Nat) (write : Bool) : Bool :=
  let t := targetOf (min 8 x.boot.ddrGib) addr
  t == 9 || !reachable m t write

/-- A burst has held its target, which parks its grant on the management cluster port that last held it, port 0 after reset (R426). XBAR_TGTt reads
its reset value of R437, with PARKED 0, until then (assumption 145). -/
def parkGrant (t m : Nat) (x : Hoop) : Hoop :=
  let port := if m < 2 then m else (smGet 0 x.xbar.tgt t).toNat % 16
  { x with xbar := { x.xbar with tgt := smSet 0 x.xbar.tgt t (BitVec.ofNat 32 (port + 16)) } }

/-- The default target answers a burst (R427): counter 57, the XBAR registers, event 551 at most once a millisecond. -/
def defaultHit (m : Nat) (write : Bool) (beats addr : Nat) (x : Hoop) : Hoop :=
  let info : Word := BitVec.ofNat 32 (m % 16 + bit write * 16 + beats % 65536 * 256 + addr / 2 ^ 32 % 256 * 2 ^ 24)
  let dir := if write then 9 else 0
  let x := pmcRaw 57 1 (pmcRaw (dir + m) (32 * beats) (pmcRaw (27 + if write then 10 else 0) (32 * beats) (pmcRaw (48 + m) 1 x)))
  let x := parkGrant 9 m { x with xbar := { x.xbar with defInfo := info, defAddr := BitVec.ofNat 32 addr, defTime := x.stamp } }
  let ms := x.now / 1000000
  if x.xbar.defEvMs = some ms then x
  else raiseEv 551 [info.toNat, addr % 2 ^ 32] .hoop { x with xbar := { x.xbar with defEvMs := some ms } }

/-- What the error response does to its master (R428): firmware notes it in the journal; Tambour, the bobbin DMA and the journal writer raise
source 25; the others only fail their transfer. -/
def busError (m : Nat) (x : Hoop) : Hoop :=
  if m < 2 then jnlPut 3 0xFF 0xFFFF false (words [x.xbar.defInfo.toNat, x.xbar.defAddr.toNat]) x
  else if m = 2 ∨ m = 3 ∨ m = 8 then fault 25 noDet x
  else x

/-- DEFAULT_TARGET_ACCESS. -/
def defaultTarget (m : Nat) (write : Bool) (beats addr : Nat) (x : Hoop) : Hoop :=
  if m < 9 ∧ 1 ≤ beats ∧ beats ≤ 16 ∧ addr < 2 ^ 40 ∧ defaultAccess x m addr write = true then busError m (defaultHit m write beats addr x) else x

def execDefaultTargetAccess (h : HoopId) (master : Nat) (write : Bool) (beats addr : Nat) (s : State) : Host.Outcome State Fault Refusal :=
  .next (s.act h (defaultTarget master write beats addr))

/-- A burst that the reset of its master cuts (R429): the crossbar ends it at its target; one that had reached its last beat is complete. -/
def cutBurst (b : Burst) (x : Hoop) : Hoop :=
  let x := parkGrant b.target b.master x
  if b.beats ≤ b.beatsDone + 1 then x
  else
    let w : Word := BitVec.ofNat 32 (b.master % 16 + b.target % 16 * 16 + bit b.write * 256 + b.beatsDone % 16 * 65536)
    let x := if b.target = 9 then defaultHit b.master b.write b.beats b.addr x else x
    raiseEv 552 [w.toNat] .hoop (pmcRaw 58 1 { x with xbar := { x.xbar with rstLast := w, rstTime := x.stamp } })

/-- The burst of one of the masters that are reset. -/
def cutOf (masters : List Nat) (b : Option Burst) (x : Hoop) : Hoop :=
  match b with
  | some q => if masters.contains q.master then cutBurst q x else x
  | none => x

/-! ## Counter page (R431, R432, R434) -/

/-- The boundary now, PTP nanoseconds: a multiple of W, an instant within 100 ns of it counting as it. -/
def windowAt (x : Hoop) : Nat := (x.tb.ptpOf x.now + 100) / (x.pmc.window.toNat * 1000) * (x.pmc.window.toNat * 1000)

/-- The values of all counters. -/
def counterValues (p : Pmc) : List (BitVec 48) := (List.range 256).map (fun c => smGet 0 p.cnt c)

/-- What each counter gained in the window, without what was loaded into it. -/
def counterDeltas (p : Pmc) : List (BitVec 48) := (List.range 256).map (fun c => smGet 0 p.cnt c - smGet 0 p.last c - smGet 0 p.jump c)

/-- The snapshot of the history store's counter ring, 2,048 bytes (R299). -/
def snapshotBytes (sec : Nat) (vs : List (BitVec 48)) : Bytes := padTo 2048 (leBytes 6 sec ++ (vs.map (fun v => leBytes 6 v.toNat)).flatten)

/-- A PTP second: a pending WINDOW takes effect, and the snapshot goes to the history store. -/
def secondBoundaryPmc (sec : Nat) (vs : List (BitVec 48)) (x : Hoop) : Hoop :=
  let x := { x with hist := { x.hist with snap := some (sec, snapshotBytes sec vs) }, pmc := { x.pmc with switched := false } }
  match x.pmc.winPending with
  | some w => raiseEv 554 [w.toNat, sec] .hoop { x with pmc := { x.pmc with window := w, winPending := none } }
  | none => x

/-- WINDOW_BOUNDARY. -/
def windowBoundary (x : Hoop) : Hoop :=
  if !x.pmc.en then x
  else
    let b := windowAt x
    let sec := b / 1000000000
    let p := x.pmc
    let vs := counterValues p
    let gen := p.gen + 1
    let first := p.first || (p.switched && b % 1000000000 == 0)
    let bank : PmcBank := { gen := gen, stamp := x.stamp, sec := BitVec.ofNat 48 sec, ns := BitVec.ofNat 32 (b % 1000000000), window := p.window.toNat,
                            flags := BitVec.ofNat 32 (bit first + bit (!x.tb.timeValid) * 2 + bit p.ovfInWin * 4), values := vs, deltas := counterDeltas p }
    let p := { p with gen := gen, cur := !p.cur, last := p.cnt, jump := [], ovfInWin := false, first := false, timeInvalid := !x.tb.timeValid }
    let p := if p.cur then { p with bank1 := bank } else { p with bank0 := bank }
    let x := { x with pmc := p }
    if b % 1000000000 = 0 then secondBoundaryPmc sec vs x else x

def execWindowBoundary (h : HoopId) (s : State) : Host.Outcome State Fault Refusal := .next (s.act h windowBoundary)

/-- COUNTER_OVERFLOW (R435): an increment that carries a counter past its maximum. -/
def overflow (c inc : Nat) (x : Hoop) : Hoop :=
  if 2 ^ 48 ≤ (smGet 0 x.pmc.cnt c).toNat + inc then pmcRaw c inc x else x

def execCounterOverflow (h : HoopId) (c inc : Nat) (s : State) : Host.Outcome State Fault Refusal := .next (s.act h (overflow c inc))

/-! ## Registers with effects -/

/-- WINDOW encodings that are defined (R431). -/
def windowOk (w : Nat) : Bool := decide (1 ≤ w ∧ w ≤ 1000000) && 1000000 % w == 0

/-- PMC_CTRL_WRITE. -/
def pmcCtrl (v : BitVec 32) (x : Hoop) : Hoop :=
  let p := x.pmc
  let w := v.toNat / 4 % 2 ^ 20
  { x with pmc := { p with
      en := v.getLsbD 0
      userEn := v.getLsbD 1
      first := p.first || (v.getLsbD 0 && !p.en)
      winPending := if !windowOk w then p.winPending else if w = p.window.toNat then none else some (BitVec.ofNat 20 w) } }

def execPmcCtrlWrite (h : HoopId) (v : BitVec 32) (s : State) : Host.Outcome State Fault Refusal := .next (s.act h (pmcCtrl v))

/-- PMC_LOAD (R435): the counter takes its preload in the next clock, and an increment of that clock is added. -/
def pmcLoad (v : BitVec 32) (inc : Nat) (x : Hoop) : Hoop :=
  let c := v.toNat % 256
  if v.getLsbD 8 && pmcExists x.part c then
    let pre := smGet 0 x.pmc.pre c
    let old := smGet 0 x.pmc.cnt c
    pmcRaw c inc { x with pmc := { x.pmc with cnt := smSet 0 x.pmc.cnt c pre, jump := smUpd 0 x.pmc.jump c (fun j => j + (pre - old)) } }
  else x

def execPmcLoad (h : HoopId) (v : BitVec 32) (inc : Nat) (s : State) : Host.Outcome State Fault Refusal := .next (s.act h (pmcLoad v inc))

/-- The 256-bit map that word `w` of it spells. -/
def mapWord (w : Nat) (v : BitVec 32) : BitVec 256 := if w < 8 then v.setWidth 256 <<< (32 * w) else 0

/-- PMC_OVF_CLEAR. -/
def ovfClear (w : Nat) (v : BitVec 32) (x : Hoop) : Hoop :=
  let o := x.pmc.ovf &&& ~~~(mapWord w v)
  { x with pmc := { x.pmc with ovf := o, ovfTold := x.pmc.ovfTold &&& o } }

def execPmcOvfClear (h : HoopId) (w : Nat) (v : BitVec 32) (s : State) : Host.Outcome State Fault Refusal := .next (s.act h (ovfClear w v))

/-- PMC_PRE_HI_WRITE (R438): the whole preload takes effect, with the LO value last written; reserved counters ignore it. -/
def preHi (c : Nat) (v : BitVec 32) (x : Hoop) : Hoop :=
  if pmcExists x.part c then
    { x with pmc := { x.pmc with pre := smSet 0 x.pmc.pre c (BitVec.ofNat 48 (v.toNat % 65536 * 2 ^ 32 + (smGet 0 x.pmc.preLo c).toNat)) } }
  else x

def execPmcPreHiWrite (h : HoopId) (c : Nat) (v : BitVec 32) (s : State) : Host.Outcome State Fault Refusal := .next (s.act h (preHi c v))

/-- PMC_CNT_LO_READ (R438): the read returns the low word and latches the high bits. -/
def cntLo (c : Nat) (x : Hoop) : Hoop :=
  let v := smGet 0 x.pmc.cnt c
  if c < 256 then { x with bus := v.setWidth 32, pmc := { x.pmc with latchHi := smSet 0 x.pmc.latchHi c (BitVec.ofNat 16 (v.toNat / 2 ^ 32)) } } else x

def execPmcCntLoRead (h : HoopId) (c : Nat) (s : State) : Host.Outcome State Fault Refusal := .next (s.act h (cntLo c))

end Sys2Proof.Machine
end

