-- ==== Sys2Proof/Machine/Duplex.lean ====
section
/-!
DEFINITION. The hoop pair (R306 to R335): the token's outputs, hand-overs of the three kinds, the proving period, the interlock and its grace
period, resync, the health score, the patch comparison, intake mismatches, and a debug halt.
-/

namespace Sys2Proof.Machine

/-! ## The token (R308, R311) -/

/-- This hoop drives every output under the token. -/
def takeToken (x : Hoop) : Hoop :=
  Hoop.pwmPins { x with
    pair := { x.pair with token := true }
    mon := { x.mon with planeWr := true }
    tec := { x.tec with drive := true }
    drv := { x.drv with outEn := true, hOutEn := true }
    bob := { x.bob with follow := false } }

/-- This hoop's stages, sources and drivers are off (R311, R331). -/
def dropToken (x : Hoop) : Hoop :=
  Hoop.pwmPins { x with
    pair := { x.pair with token := false }
    mon := { x.mon with planeWr := false }
    tec := { x.tec with drive := false }
    drv := { x.drv with outEn := false, hOutEn := false }
    bob := { x.bob with follow := true } }

/-- The first TILE_UPDATE of every tile that has not been written: eyelet tiles first (R177, R307). -/
def firstTiles (x : Hoop) : Hoop :=
  let ts := (List.range x.nT).filter (fun t => !(x.tile t).written)
  let eye := ts.filter (fun t => decide (x.nS ≤ 32 * t + 31))
  let rest := ts.filter (fun t => !decide (x.nS ≤ 32 * t + 31))
  let post := fun (l : List Nat) (y : Hoop) => if l.isEmpty then y else postNormal { code := 4, tiles := l } y
  post rest (post eye x)

/-- Load the keeper latches from the image in the MRAM; ARMED sets once the CRC checks (R288). Without an image source 26 asserts. -/
def loadKeeper (x : Hoop) : Hoop :=
  match x.keeperImg with
  | some (m, sp) => { x with dk := { x.dk with codes := m, sp := sp, crc := keeperCrc x m, armed := true, imageBad := false } }
  | none => fault 26 noDet { x with dk := { x.dk with armed := false, imageBad := true } }

/-- The count that comparator 8 is armed for: the first multiple of 100 µs at least 100 µs ahead (R168). -/
def originCount (x : Hoop) : Nat := (x.now + 199999) / 100000 * 100000

/-- What the token holder does once its slice is built (R449, step 8): the keeper, comparator 8, the first writes. -/
def holderStart (x : Hoop) : Hoop :=
  let x := loadKeeper x
  let x := if x.drv.refRun || (x.tb.cmp 8).armed then x else armCount 8 (originCount x) x
  firstTiles x

/-- Claim the token at start-up: the hoop becomes ACTIVE and makes the first writes where its slice is built. -/
def claimToken (x : Hoop) : Hoop :=
  let x := setRole .active 0xFFFF (takeToken x)
  if x.slice.built then holderStart x else x

/-- Number of a hoop in events and records. -/
def hoopNum (h : HoopId) : Nat := match h with | .hoopA => 0 | .hoopB => 1

/-! ## Planned hand-overs (R321) -/

/-- HANDOVER: the peer of the holder must be eligible for a planned hand-over, and no HANDOVER is posted yet. -/
def handoverVerb : Verb :=
  { check := anyForm
    run := fun k x =>
      let ok := Config.duplex x.part && x.pair.post.isNone && (if x.pair.role = .active then eligPlanned k.peer x else eligPlanned x k.peer)
      if ok then adminOk k x (postUrgent { code := 0xA } { x with pair := { x.pair with post := some x.now } })
      else ({ status := 14 }, x) }

/-- The holder's post offers the token. -/
def offer (s : State) : State :=
  match s.holder with
  | none => s
  | some h =>
    let x := s.hoop h
    match x.pair.post with
    | some p => if s.duo.ho.isNone then
        settle (s.setDuo { s.duo with ho := some { kind := 0, fromB := x.isB, cause := 0xFFFF, request := p, element := 0x1FFF, cutTiles := [] } })
      else s
    | none => s

def execHandover (h : HoopId) (r : Nat) (s : State) : Host.Outcome State Fault Refusal := .next (offer (s.serve h r 0x52 handoverVerb))

/-- TAMBOUR_HANDOVER: the standby acknowledges; the holder's operation goes on once it has. One whose hand-over was abandoned ends. -/
def tambourHandover (h : HoopId) (s : State) : State :=
  let x := s.hoop h
  match takes x 0xA with
  | none => s
  | some o =>
    if s.duo.ho.isNone then s.upd h (opDone o)
    else if x.pair.role = .standby then (s.upd h (opDone o)).setDuo { s.duo with ack := true }
    else if s.duo.ack then s.upd h (opDone o)
    else s

def execTambourHandover (h : HoopId) (s : State) : Host.Outcome State Fault Refusal :=
  .next (settle (match if s.has h then takes (s.hoop h) 0xA else none with
    | some o => if (s.hoop h).tmb.patches 0xA then s.upd h (beginRun o) else tambourHandover h s
    | none => s))

/-! ## The boundary (R321 to R325) -/

/-- The count now in the hoop that holds the token. -/
def hoNow (s : State) (o : HandOver) : Nat := if o.fromB then s.b.now else s.a.now

/-- A boundary qualifies for a planned hand-over. -/
def plannedAt (x y : Hoop) (ack : Bool) : Bool :=
  match x.pair.post, y.pair.post with
  | some p, some q =>
    ack && decide (max p q + 2000 ≤ x.now) && !x.tmb.urgent.any (fun o => o.code == 0xA) && !y.tmb.urgent.any (fun o => o.code == 0xA)
      && x.drv.tiles.all (fun t => t.2.win.isNone || (t.2.win == some .refresh && t.2.winStart == x.now))
      && (List.range 7).all (fun k => let c := x.tb.cmp k
          !c.armed || !decide (x.now ≤ c.t16 / 16 && c.t16 / 16 ≤ x.now + 100))
  | _, _ => false

/-- The refresh boundary now is the hand-over's. -/
def boundaryDue (s : State) (o : HandOver) : Bool :=
  let x := if o.fromB then s.b else s.a
  let y := if o.fromB then s.a else s.b
  if o.kind = 0 then plannedAt x y s.duo.ack
  else decide (o.request + 100 ≤ x.now) && (o.kind != 2 || y.eligFault)

/-- PAYLOAD of the hand-over record (R325). -/
def hoPayload (kind fromN toN : Nat) (cause : BitVec 16) (request at_ hFrom hTo cut : Nat) (element : BitVec 16) : Bytes :=
  leBytes 1 kind ++ leBytes 1 (fromN + 2 * toN) ++ leBytes 2 cause.toNat ++ leBytes 4 request ++ leBytes 4 at_ ++ leBytes 2 hFrom ++ leBytes 2 hTo
    ++ leBytes 2 cut ++ leBytes 2 element.toNat

/-- What both hoops keep and report of a transfer (R322, R341). -/
def noteTransfer (kind fromN toN : Nat) (cause : BitVec 16) (request at_ hFrom hTo cut : Nat) (element : BitVec 16) (x : Hoop) : Hoop :=
  let w : Word := BitVec.ofNat 32 (cause.toNat + kind % 4 * 2 ^ 16 + fromN * 2 ^ 18 + toN * 2 ^ 19)
  ledFlag 2 (jnlPut 9 0xFF 0xFFFF false (hoPayload kind fromN toN cause request at_ hFrom hTo cut element)
    { x with pair := { x.pair with hoLast := w, hoTime := x.stamp } })

/-- Payload of a HANDOVER_NOTICE (R419). -/
def hoNotice (x : Hoop) (kind fromN toN at_ : Nat) : Bytes :=
  padTo 24 (leBytes 8 x.wlm.id.toNat ++ leBytes 1 kind ++ leBytes 1 fromN ++ leBytes 1 toN ++ leBytes 6 (x.tb.secOf at_) ++ leBytes 4 (x.tb.nsOf at_))

/-- Threads whose strobe fell within 400 ns before a recognition, or after it, settle from `b` on: they, their injected entries, and the pricked
threads of such an occurrence (R324). -/
def settleFrom (since b : Nat) (x : Hoop) : Hoop :=
  let hit := x.thr.filter (fun q => q.2.st == .settling && decide (since < q.2.epoch + 400))
  let keys := hit.map (fun q => q.2.seq * 16 + q.2.ring)
  let move := fun (e : InjEntry) => if keys.contains e.seq then { e with from_ := max e.from_ (b + 1000) } else e
  let x := hit.foldl (fun y q => y.updThread q.1 (fun t => { t with late := b - t.epoch })) x
  let x := { x with
    mon := { x.mon with groups := x.mon.groups.map (fun g => (g.1, { g.2 with inj := g.2.inj.map move, injQueue := g.2.injQueue.map move })) }
    prk := { x.prk with occFrom := if x.prk.loaded.isSome && decide (since < x.prk.occFrom) then b + 1000 else x.prk.occFrom } }
  if hit.isEmpty then x else jnlPut 3 0xFF 0xFFFF false (words ([since, b] ++ hit.map (·.1))) x

/-- Channels of the threads that pass an element (R328). -/
def elemChans (x : Hoop) (e : Nat) : List Nat := nub (((through x e).map (fun i => threadChans x i (x.carrier i))).flatten)

/-- What the new holder does at the boundary. -/
def becomeHolder (o : HandOver) (x : Hoop) : Hoop :=
  let b := x.now
  let x := setRole .active o.cause.toNat (takeToken x)
  let x := { x with
    pair := { x.pair with proving := true, tilesProven := 0, heatersProven := false, heatersBad := false, provingFrom := b, post := none
                          hoCnt := satInc x.pair.hoCnt, hbCnt := if o.kind = 2 then satInc x.pair.hbCnt else x.pair.hbCnt }
    ths := { x.ths with diodes := x.ths.diodes.map (fun d => (d.1, { d.2 with suspect := false, strikes := 0 })), suspectFlt := false } }
  let x := if o.kind = 0 then x else o.cutTiles.foldl (fun y t => openWindow t .drive y) x
  let x := if o.kind = 1 then settleFrom o.request b x else x
  if o.kind = 2 then inject (elemChans x o.element.toNat) 0 (b + 1000) false x else x

/-- What the former holder does at the boundary. -/
def endHolder (o : HandOver) (x : Hoop) : Hoop :=
  let x := setRole (if o.kind = 1 then .monitor else .standby) o.cause.toNat (dropToken x)
  { x with pair := { x.pair with post := none, proving := false } }

/-- Commands that a new holder finds refused at the front of its rings complete now. -/
def pumpAll (x : Hoop) : Hoop := if x.pair.awaiting.isEmpty then (List.range 16).foldl (fun y r => pumpRing r y) x else x

/-- HANDOVER_BOUNDARY: the token passes in one clock. -/
def handoverBoundary (s : State) : State :=
  match s.duo.ho with
  | none => s
  | some o =>
    if !boundaryDue s o then s
    else
      let f := if o.fromB then HoopId.hoopB else .hoopA
      let t := other f
      let at_ := hoNow s o
      let hf := (s.hoop f).pair.health.toNat
      let ht := (s.hoop t).pair.health.toNat
      let s := s.setDuo { s.duo with ho := none, ack := false }
      let s := (s.upd f (endHolder o)).upd t (becomeHolder o)
      let s := s.hoops.foldl (fun s h => s.upd h (fun x =>
        raiseEv 545 [o.kind, hoopNum f, hoopNum t, at_ % 2 ^ 32] .hoop (noteTransfer o.kind (hoopNum f) (hoopNum t) o.cause o.request at_ hf ht o.cutTiles.length o.element x))) s
      let s := (s.upd t pumpAll).hoops.foldl (fun s h => s.upd h (fun x =>
        if x.pair.role = .monitor then x else originate bcast 0xC (hoNotice x o.kind (hoopNum f) (hoopNum t) at_) x)) (s.upd t pumpAll)
      if o.kind = 1 then s.upd t (fun x => ((x.pair.ofm.filter (fun e => decide (e < x.nS))).foldl (fun y e => checkFail 0 e y) x)) else s

def execHandoverBoundary (s : State) : Host.Outcome State Fault Refusal := .next (settle (handoverBoundary s))

/-- The hand-over in progress has run out of time, or a hand-back's former holder is no longer eligible (R321, R328). -/
def abandonDue (s : State) (o : HandOver) : Bool :=
  let y := if o.fromB then s.a else s.b
  if o.kind = 0 then decide (o.request + 100000 ≤ hoNow s o)
  else if o.kind = 2 then decide (o.request + 4000 ≤ hoNow s o) || !y.eligFault
  else false

/-- HANDOVER_ABANDON: the token stays; after a hand-back R170 applies to the element. -/
def handoverAbandon (cause : Nat) (s : State) : State :=
  match s.duo.ho with
  | none => s
  | some o =>
    if !abandonDue s o then s
    else
      let s := abandonHo cause s
      if o.kind = 2 then
        s.upd (if o.fromB then .hoopB else .hoopA) (if o.check = 4 then heaterFail o.element.toNat else checkFail o.check o.element.toNat)
      else s

def execHandoverAbandon (cause : Nat) (s : State) : Host.Outcome State Fault Refusal := .next (settle (handoverAbandon cause s))

/-! ## Proving (R327) -/

/-- Tiles that are proven. -/
def provenTiles (x : Hoop) : Nat := ((List.range x.nT).filter (fun t => x.pair.tilesProven.getLsbD t)).length

/-- Every heater source has been connected for 1 µs without a compliance failure. -/
def heatersUp (x : Hoop) : Bool :=
  x.pair.heatersProven || (x.pair.proving && !x.pair.heatersBad && decide (x.pair.provingFrom + 1000 ≤ x.now))

/-- PROVING_END. -/
def provingEnd (x : Hoop) : Hoop :=
  if x.pair.proving && ((heatersUp x && decide (x.nT ≤ provenTiles x)) || decide (x.pair.provingFrom + 100200 ≤ x.now)) then
    raiseEv 547 [provenTiles x, x.pair.ofm.length] .hoop { x with pair := { x.pair with proving := false, heatersProven := heatersUp x } }
  else x

def execProvingEnd (h : HoopId) (s : State) : Host.Outcome State Fault Refusal := .next (s.act h provingEnd)

/-! ## Interlock (R331, R332) -/

/-- INTERLOCK_DISAGREEMENT: once the token has been claimed, and outside a grace period, every shared output of both hoops is cut. -/
def interlock (s : State) : State :=
  if !Config.duplex s.a.part || !s.duo.claimed || s.duo.grace.isSome then s
  else
    let s := abandonHo 6 s
    let s := s.hoops.foldl (fun s h => s.upd h (fun x => (holdLow (dropToken (cutWindows x))) |> fun y => { y with pair := { y.pair with interlock := true, proving := false } })) s
    s.setDuo { s.duo with grace := some s.a.now }

def execInterlockDisagreement (s : State) : Host.Outcome State Fault Refusal := .next (settle (interlock s))

/-- A hoop may drive alone (R332). -/
def mayDriveAlone (x : Hoop) : Bool := x.boot.fwRun && x.tmb.st != .halted && (x.liveSev 4).isEmpty

/-- The driving hoop takes the token. -/
def driveAlone (since : Nat) (x : Hoop) : Hoop :=
  let y := setRole .active 161 (takeToken x)
  { y with pair := { y.pair with resume := some since } }

/-- At the refresh boundary after it: a drive window on every tile, the TEC's restart, and threads whose epoch fell in the grace period. -/
def resumeDrive (x : Hoop) : Hoop :=
  match x.pair.resume with
  | none => x
  | some since =>
    if !x.drv.refRun then x
    else
      let b := x.now
      let x := restartZones { x with pair := { x.pair with resume := none } }
      let x := (List.range x.nT).foldl (fun y t => openWindow t .drive y) x
      let hit := x.thr.filter (fun q => q.2.st == .settling && decide (since ≤ q.2.epoch))
      hit.foldl (fun y q => y.updThread q.1 (fun t => { t with late := b - t.epoch })) x

def execRefreshSlot (h : HoopId) (t : Nat) (fails : List Nat) (s : State) : Host.Outcome State Fault Refusal :=
  .next (settle (if s.has h then refreshSlot h t fails (if t < 160 then s.upd h resumeDrive else s) else s))

/-- GRACE_PERIOD_END: 2 µs after the disagreement. -/
def graceEnd (s : State) : State :=
  match s.duo.grace with
  | none => s
  | some g =>
    if s.a.now < g + 2000 then s
    else
      let strap := if s.a.pair.strap then HoopId.hoopA else .hoopB
      let s := s.setDuo { s.duo with grace := none }
      let pick := if mayDriveAlone (s.hoop strap) then some strap else if mayDriveAlone (s.hoop (other strap)) then some (other strap) else none
      match pick with
      | none => s.hoops.foldl (fun s h => s.upd h (engage 161 4 false)) s
      | some d =>
        let o := other d
        let at_ := (s.hoop d).now
        let hf := (s.hoop o).pair.health.toNat
        let ht := (s.hoop d).pair.health.toNat
        let s := s.upd d (driveAlone g)
        let s := s.upd o (fun x => fault 161 noDet (if x.boot.fwRun && x.tmb.st != .halted then setRole .monitor 161 x else x))
        s.hoops.foldl (fun s h => s.upd h (fun x =>
          raiseEv 548 [hoopNum d] .hoop (noteTransfer 3 (hoopNum o) (hoopNum d) 161 g at_ hf ht 0 0x1FFF x))) s

def execGracePeriodEnd (s : State) : Host.Outcome State Fault Refusal := .next (settle (graceEnd s))

/-! ## Claims, resync and rejoin (R307, R334, R335) -/

/-- Enter RESYNC: the start is reported. -/
def enterResync (x : Hoop) : Hoop :=
  raiseEv 550 [0] .hoop (setRole .resync 0xFFFF { x with pair := { x.pair with awaiting := [], sigSame := 0, sigDiff := 0 } })

/-- Both hoops arm comparator 8 at the same count, so that their slots coincide (R168): a hoop that follows its peer takes the peer's. -/
def sameOrigin (a x : Hoop) : Hoop :=
  if x.drv.refRun then x
  else if a.drv.refRun then { x with drv := { x.drv with refRun := true, refOrigin := a.drv.refOrigin } }
  else if (a.tb.cmp 8).armed then x.setCmp 8 (a.tb.cmp 8)
  else x

/-- A hoop that has come up with its peer ACTIVE follows it (R307). -/
def followPeer (h : HoopId) (s : State) : State :=
  let x := s.hoop h
  if x.pair.role = .offline ∧ x.boot.fwRun ∧ x.boot.stage.code ≥ 4 ∧ x.tmb.st ≠ .halted ∧ (s.hoop (other h)).pair.role = .active then s.upd h (fun x => sameOrigin (s.hoop (other h)) (enterResync x)) else s

/-- TOKEN_TIMEOUT: the hoop that is not strap-primary claims 10 s after reset where its peer holds no token. -/
def tokenTimeout (h : HoopId) (s : State) : State :=
  let x := s.hoop h
  if Config.duplex s.a.part && x.pair.role == .offline && x.boot.fwRun && x.tmb.st != .halted && !x.pair.strap && !(s.hoop (other h)).pair.token
      && decide (x.boot.resetAt + 10000000000 ≤ x.now) then
    followPeer (other h) ((s.upd h claimToken).setDuo { s.duo with claimed := true })
  else s

def execTokenTimeout (h : HoopId) (s : State) : Host.Outcome State Fault Refusal := .next (settle (tokenTimeout h s))

/-- What the ACTIVE hoop copies (R335): `a` is the ACTIVE hoop. A needle's mask and what the hoop itself has found of its converters stay its own. -/
def copyFrom (a x : Hoop) : Hoop :=
  { x with
    thr := a.thr, cm := a.cm, prk := a.prk, rmap := a.rmap, slice := a.slice, prkSlice := a.prkSlice, oldSlices := a.oldSlices, led := a.led, bob := { a.bob with follow := true }
    tb := { x.tb with cmps := a.tb.cmps, heldEvents := a.tb.heldEvents }
    tmb := { x.tmb with urgent := a.tmb.urgent, normal := a.tmb.normal, dacStaged := a.tmb.dacStaged, stagedSeq := a.tmb.stagedSeq,
                        stageDelta := a.tmb.stageDelta, strobeTiles := a.tmb.strobeTiles, darkReq := a.tmb.darkReq }
    drv := { x.drv with
      needles := a.drv.needles.map (fun q => (q.1, { q.2 with masked := (x.needle q.1).masked })), heaters := a.drv.heaters, tiles := a.drv.tiles
      tones := a.drv.tones, elems := a.drv.elems, bankSel := a.drv.bankSel, refRun := a.drv.refRun, refOrigin := a.drv.refOrigin, hCeil := a.drv.hCeil
      nFirstDone := a.drv.nFirstDone, hFirstDone := a.drv.hFirstDone }
    mon := { x.mon with
      chans := a.mon.chans
      groups := a.mon.groups.map (fun q => (q.1, { q.2 with spareAdc := (x.group q.1).spareAdc })) }
    tec := { x.tec with z0 := a.tec.z0, z1 := a.tec.z1, period := a.tec.period, deadT := a.tec.deadT, ilimNom := a.tec.ilimNom, ifull := a.tec.ifull
                        en := a.tec.en, setpt := a.tec.setpt, eff := a.tec.eff, src := a.tec.src, settled := a.tec.settled }
    dk := { x.dk with codes := a.dk.codes, sp := a.dk.sp, crc := a.dk.crc, pend := a.dk.pend, armed := a.dk.armed, confirmed := a.dk.confirmed }
    boot := { x.boot with tecEnabledAt := a.boot.tecEnabledAt }
    mbx := { x.mbx with rings := (List.range 16).foldl (fun m r =>
      smSet (ringReset r) m r { smGet (ringReset r) m r with cplSeq := (a.ring r).cplSeq, evtSeq := (a.ring r).evtSeq }) x.mbx.rings }
    wlm := { x.wlm with seq := a.wlm.seq, addr := a.wlm.addr, lastAddr := a.wlm.lastAddr, fabs := a.wlm.fabs, ended := a.wlm.ended, chains := a.wlm.chains,
                        notices := a.wlm.notices, windows := a.wlm.windows }
    pair := { x.pair with catchup := [] } }

/-- RESYNC_COMPLETE: the copy has converged and the signatures have matched; `ms` is how long it took. -/
def resyncDone (h : HoopId) (ms : Nat) (s : State) : State :=
  let a := s.hoop (other h)
  let x := s.hoop h
  if Config.duplex s.a.part && x.pair.role == .resync && a.pair.role == .active then
    s.upd h (fun x => raiseEv 550 [ms] .hoop (setRole .standby 0xFFFF (copyFrom a x)))
  else s

def execResyncComplete (h : HoopId) (ms : Nat) (s : State) : Host.Outcome State Fault Refusal :=
  .next (settle (if s.has h then resyncDone h ms s else s))

/-- The patch identities are equal (R317). -/
def samePatch (x y : Hoop) : Bool := x.boot.romId == y.boot.romId && x.tmb.patchId == y.tmb.patchId && x.tmb.patchCrc == y.tmb.patchCrc

/-- What a rejoin needs of the hoop that returns (R334). -/
def rejoinOk (x active : Hoop) : Bool := !x.lineOn && !x.stickyFrom 3 && x.tmb.st != .halted && samePatch x active

/-- REJOIN: each hoop judges the hoop that is not ACTIVE. -/
def rejoinVerb : Verb :=
  { check := anyForm
    run := fun k x =>
      let ok := Config.duplex x.part && (if x.pair.role = .active then rejoinOk k.peer x else rejoinOk x k.peer)
      if ok then adminOk k x x else ({ status := 14 }, x) }

/-- The ACTIVE hoop accepts the REJOIN at the front of ring 0: its peer goes from MONITOR to RESYNC. -/
def rejoinPeer (h : HoopId) (s : State) : State :=
  let x := s.hoop h
  let y := s.hoop (other h)
  if Config.duplex s.a.part && x.pair.role == .active && reaches x 0x53 && y.pair.role == .monitor && rejoinOk y x then s.upd (other h) enterResync else s

def execRejoin (h : HoopId) (r : Nat) (s : State) : Host.Outcome State Fault Refusal :=
  .next ((if r = 0 then rejoinPeer h s else s).serve h r 0x53 rejoinVerb)

/-! ## Comparisons (R314, R317, R318) -/

/-- Health weights (R318). -/
def healthLoss (x : Hoop) : Nat :=
  let live1 := (x.liveSev 1).filter (fun s => !((64 ≤ s && s ≤ 107) || s == 110 || s == 111 || (192 ≤ s && s ≤ 200)))
  let eyes := (x.pair.ofm.filter (fun e => decide (x.nS ≤ e))).length
  let sec := x.now / 1000000000
  16384 * ((x.liveSev 3).length + (x.liveSev 4).length) + 8192 * eyes + 2048 * (x.pair.ofm.length - eyes)
    + 1024 * (bit x.mon.spare0Perm + bit x.mon.spare1Perm) + 256 * live1.length
    + (if sec ≤ x.tmb.eccSec + 1 then min 63 x.tmb.eccSecCnt else 0)

def healthOf (x : Hoop) : BitVec 16 := BitVec.ofNat 16 (65535 - healthLoss x)

/-- HEALTH_SCORE: each hoop computes its own and takes its peer's. -/
def execHealthScore (s : State) : Host.Outcome State Fault Refusal :=
  let s := s.hoops.foldl (fun s h => s.upd h (fun x => { x with pair := { x.pair with health := healthOf x } })) s
  .next (settle (if Config.duplex s.a.part then
    (s.upd .hoopA (fun x => { x with pair := { x.pair with peerHealth := s.b.pair.health } })).upd .hoopB (fun x => { x with pair := { x.pair with peerHealth := s.a.pair.health } })
  else s))

/-- The hoop that a patch mismatch puts out of service: the one without the token, or the one that is not strap-primary. -/
def patchLoser (s : State) : HoopId :=
  if s.a.pair.token then .hoopB else if s.b.pair.token then .hoopA else if s.a.pair.strap then .hoopB else .hoopA

/-- PATCH_COMPARE. -/
def patchCompare (s : State) : State :=
  if !(Config.duplex s.a.part && s.a.boot.fwRun && s.b.boot.fwRun) then s
  else
    let h := patchLoser s
    if samePatch s.a s.b then s.hoops.foldl (fun s k => s.upd k (fun x => faultOff 162 x)) s
    else s.upd h (fun x => fault 162 noDet (noteMismatch 3 0 x))

def execPatchCompare (s : State) : Host.Outcome State Fault Refusal := .next (settle (patchCompare s))

/-- INTAKE_TIMEOUT: a digest that has no match after 50 µs, or a command without its digest. -/
def intakeTimeout (x : Hoop) : Hoop :=
  let old := x.pair.awaiting.find? (fun d => decide (d.sentAt + 50000 ≤ x.now))
  let held := x.pair.awaiting.isEmpty && x.mbx.rings.any (fun e => !e.2.read.isEmpty)
  if x.pair.role = .standby ∧ (old.isSome ∨ held) then
    fault 160 noDet (noteMismatch 2 ((old.map (·.seq)).getD 0)
      { x with pair := { x.pair with longestUs := BitVec.ofNat 16 (max x.pair.longestUs.toNat (min 65535 (match old with | some d => (x.now - d.sentAt) / 1000 | none => 50))) } })
  else x

def execIntakeTimeout (h : HoopId) (s : State) : Host.Outcome State Fault Refusal := .next (s.act h intakeTimeout)

/-! ## Debug halts (R265, R333, R473) -/

/-- DEBUG_HALT of a management core. -/
def debugHalt (core : Nat) (x : Hoop) : Hoop :=
  if 2 ≤ core ∨ x.boot.coresHalted.contains core then x
  else
    let x := { x with boot := { x.boot with coresHalted := x.boot.coresHalted ++ [core] } }
    if x.holds then raiseEv 388 [core] .hoop (holdLow { x with tec := { x.tec with dbgHalt := true } })
    else if x.pair.role = .standby then fault 160 noDet x
    else x

def execDebugHalt (h : HoopId) (core : Nat) (s : State) : Host.Outcome State Fault Refusal := .next (s.act h (debugHalt core))

/-- DEBUG_RESUME: every core runs again. -/
def debugResume (x : Hoop) : Hoop :=
  match x.boot.coresHalted.getLast? with
  | none => x
  | some core =>
    let was := x.tec.dbgHalt
    let x := { x with boot := { x.boot with coresHalted := [] }, tec := { x.tec with dbgHalt := false } }
    if was then raiseEv 388 [core] .hoop (restartZones x) else faultOff 160 x

def execDebugResume (h : HoopId) (s : State) : Host.Outcome State Fault Refusal := .next (s.act h debugResume)

end Sys2Proof.Machine
end

