-- ==== Sys2Proof/Machine/Walimin.lean ====
section
/-!
DEFINITION. The Walimin fabric (R391 to R405, R415 to R420): links, leaders, addresses, routing tables, forwarding and duplicate discard, notices,
time checks and telemetry. Each link-local frame concerns the hoop whose link brought it; every other frame reaches the hoops in service.
-/

namespace Sys2Proof.Machine

/-! ## Frames in (R393, R396, R397, R420) -/

/-- Event 526 with the counts of what has been discarded, at most once a second. -/
def tellDiscard (x : Hoop) : Hoop :=
  let sec := x.now / 1000000000
  if x.wlm.discEvSec = some sec then x
  else raiseEv 526 [x.wlm.discardCrc, x.wlm.discardLen, x.wlm.discardType, x.wlm.ttlDiscard.toNat, x.wlm.noRoute.toNat] .hoop
    { x with wlm := { x.wlm with discEvSec := some sec } }

/-- Why a frame's form is refused: 0 CRC, 1 length, 2 TYPE (R393). -/
def badForm (b : Bytes) : Option Nat :=
  if b.length < 16 ∨ 512 < b.length ∨ b.length % 4 ≠ 0 then some 1
  else if field b (b.length - 4) 4 ≠ (crc32 (b.take (b.length - 4))).toNat then some 0
  else if 0xD ≤ frType b then some 2
  else none

/-- Discard a frame by R393. -/
def discardForm (k why : Nat) (x : Hoop) : Hoop :=
  let w := x.wlm
  tellDiscard (pmcRaw 218 1 ((fun y : Hoop => { y with wlm := { y.wlm with
      discardCrc := if why = 0 then w.discardCrc + 1 else w.discardCrc
      discardLen := if why = 1 then w.discardLen + 1 else w.discardLen
      discardType := if why = 2 then w.discardType + 1 else w.discardType } })
    (x.updLink k (fun l => { l with crc := satInc l.crc }))))

/-- Count a duplicate (R397). -/
def dupSeen (x : Hoop) : Hoop := pmcRaw 218 1 { x with wlm := { x.wlm with dup := x.wlm.dup + 1 } }

/-- The identity of a frame: SRC and ORIGIN without HOOP. -/
def frKey (b : Bytes) : Nat := frSrc b * 32768 + frOrigin b % 32768

/-- Modulus of SEQ (R338). -/
def seqMod : Nat := 2 ^ 48 - 1

/-- The frame passes a table of windows: the table with it marked, or none where it is a duplicate; SRC 0 is not subject to it. -/
def passWin (m : SMap Win) (b : Bytes) : Option (SMap Win) :=
  if frSrc b = 0 then some m
  else (winAccept seqMod (smGet {} m (frKey b)) (frSeq b)).map (fun w => smPut m (frKey b) w)

/-- Forget the windows of an address (R397). -/
def clearWins (a : Nat) (x : Hoop) : Hoop :=
  let keep := fun (q : Nat × Win) => q.1 / 32768 != a
  { x with wlm := { x.wlm with windows := x.wlm.windows.filter keep, fwdWindows := x.wlm.fwdWindows.filter keep } }

/-- The frame with its TTL one less. -/
def lessTtl (b : Bytes) : Bytes := frameBytes (frDst b) (frSrc b) (frTtl b - 1) (frType b) (BitVec.ofNat 16 (frOrigin b)) (frSeq b) (frPayload b)

/-- Forward a frame: the duplicate rule, the TTL, then its route, or every up link but `from_` for a broadcast (R396, R397, R402). -/
def forward (from_ : Option Nat) (b : Bytes) (x : Hoop) : Hoop :=
  match passWin x.wlm.fwdWindows b with
  | none => dupSeen x
  | some m =>
    let x := { x with wlm := { x.wlm with fwdWindows := m } }
    if frTtl b ≤ 1 then tellDiscard (pmcRaw 218 1 { x with wlm := { x.wlm with ttlDiscard := satInc x.wlm.ttlDiscard } })
    else if frDst b = bcast then (x.upLinks.filter (fun k => some k != from_)).foldl (fun y k => sendFrame k (frType b == 0xB) (lessTtl b) y) x
    else sendToward (frType b == 0xB) (lessTtl b) x

/-- Hoops that take part in the module's messages (R420). -/
def servingHoops (s : State) : List HoopId := s.hoops.filter (fun h => (s.hoop h).pair.role == .active || (s.hoop h).pair.role == .standby)

/-- Deliver a frame to the hoops in service, the ACTIVE one first, each by its own window. -/
def deliver (b : Bytes) (f : Hoop → Hoop) (s : State) : State :=
  let hs := servingHoops s
  let hs := hs.filter (fun h => (s.hoop h).pair.role == .active) ++ hs.filter (fun h => (s.hoop h).pair.role != .active)
  hs.foldl (fun s h => s.upd h (fun x => match passWin x.wlm.windows b with
    | some m => f { x with wlm := { x.wlm with windows := m } }
    | none => dupSeen x)) s

/-- The hoop's agent runs and its link is enabled. -/
def hears (x : Hoop) (k : Nat) : Bool := x.boot.fwRun && decide (k < 4) && x.wlm.linkEn.getLsbD k

/-- Count a frame received. -/
def gotFrame (k : Nat) (x : Hoop) : Hoop := pmcRaw (214 + k) 1 (x.updLink k (fun l => { l with rx := l.rx + 1 }))

/-- A link-local frame of a type arrives; `f` is its effect on the hoop whose link brought it. -/
def rxLocal (type : Nat) (h : HoopId) (k : Nat) (b : Bytes) (f : Hoop → Hoop) (s : State) : State :=
  let x := s.hoop h
  if !s.has h || !hears x k then s
  else match badForm b with
    | some why => s.upd h (discardForm k why)
    | none => if frType b ≠ type then s else s.upd h (fun y => if frDst b = 0 then f (gotFrame k y) else gotFrame k y)

/-- Any other frame of a type arrives; `f` is its effect on each hoop that it is delivered to. -/
def rxFrame (type : Nat) (h : HoopId) (k : Nat) (b : Bytes) (f : Hoop → Hoop) (s : State) : State :=
  let x := s.hoop h
  if !s.has h || !hears x k then s
  else match badForm b with
    | some why => s.upd h (discardForm k why)
    | none =>
      if frType b ≠ type then s
      else
        let s := s.upd h (gotFrame k)
        let dst := frDst b
        if dst = 0 then (servingHoops s).foldl (fun s h => s.upd h f) s
        else if dst = bcast then
          let s := deliver b f s
          s.hoops.foldl (fun s q => s.upd q (forward (if q = h then some k else none) b)) s
        else if dst = x.wlm.addr.toNat then deliver b f s
        else s.upd h (forward none b)

/-! ## Links and leaders (R392, R398) -/

/-- The leader of the moment: the lowest ID, then the lowest distance. -/
def bestLeader (x : Hoop) : BitVec 64 × Nat :=
  x.upLinks.foldl (fun (best : BitVec 64 × Nat) k =>
    let l := x.link k
    if 14 < l.leaderDist then best
    else if l.leaderId.toNat < best.1.toNat then (l.leaderId, l.leaderDist + 1)
    else if l.leaderId = best.1 ∧ l.leaderDist + 1 < best.2 then (l.leaderId, l.leaderDist + 1)
    else best) (x.wlm.id, 0)

/-- Compute the leader again, with event 516. -/
def updLeader (x : Hoop) : Hoop :=
  let q := bestLeader x
  if q.1 = x.wlm.leader ∧ q.2 = x.wlm.leaderDist then { x with wlm := { x.wlm with isLeader := q.1 == x.wlm.id } }
  else raiseEv 516 [q.1.toNat, q.2] .hoop { x with wlm := { x.wlm with leader := q.1, leaderDist := q.2, isLeader := q.1 == x.wlm.id } }

/-- A link goes down: its event, its source where it is enabled, the leader. -/
def linkDown (k : Nat) (x : Hoop) : Hoop :=
  if !(x.link k).up then x
  else
    let id := (x.link k).nbrId.toNat
    let x := raiseEv (512 + k) [k, 0, id] .hoop (x.updLink k (fun l => { l with up := false }))
    updLeader (if x.wlm.linkEn.getLsbD k then fault (192 + k) k x else x)

/-- A link comes up. -/
def linkUp (k : Nat) (x : Hoop) : Hoop :=
  if (x.link k).up then x
  else raiseEv (512 + k) [k, 1, (x.link k).nbrId.toNat] .hoop (faultOff (192 + k) (x.updLink k (fun l => { l with up := true })))

/-- Payload of a HELLO. -/
def helloPayload (x : Hoop) : Bytes :=
  leBytes 8 x.wlm.id.toNat ++ leBytes 2 x.wlm.addr.toNat ++ leBytes 2 x.wlm.bootgen.toNat ++ leBytes 8 x.wlm.leader.toNat
    ++ leBytes 1 x.wlm.leaderDist ++ leBytes 1 (bit x.isB) ++ leBytes 1 x.pair.role.code ++ [0]

/-- HELLO_SEND. -/
def helloSend (x : Hoop) : Hoop :=
  if x.boot.fwRun then ((List.range 4).filter (fun k => x.wlm.linkEn.getLsbD k)).foldl (fun y k => sendLocal k 0 (helloPayload y) y) x else x

def execHelloSend (h : HoopId) (s : State) : Host.Outcome State Fault Refusal := .next (s.act h helloSend)

/-- HELLO received: a frame shows both lanes locked and aligned. -/
def hello (k : Nat) (b : Bytes) (x : Hoop) : Hoop :=
  let p := frPayload b
  let id := BitVec.ofNat 64 (field p 0 8)
  let x := if (x.link k).up ∧ (x.link k).nbrId ≠ id then linkDown k x else x
  let x := x.updLink k (fun l => { l with
    lock0 := true, lock1 := true, aligned := true, nbrId := id, nbrAddr := BitVec.ofNat 12 (field p 8 2),
    leaderId := BitVec.ofNat 64 (field p 12 8), leaderDist := field p 20 1, lastHello := x.now })
  updLeader (linkUp k x)

def execHello (h : HoopId) (link : Nat) (frame : Bytes) (s : State) : Host.Outcome State Fault Refusal :=
  .next (settle (rxLocal 0 h link frame (hello link frame) s))

/-- HELLO_TIMEOUT: 3 ms without one. -/
def helloTimeout (k : Nat) (x : Hoop) : Hoop := if k < 4 ∧ (x.link k).lastHello + 3000000 ≤ x.now then linkDown k x else x

def execHelloTimeout (h : HoopId) (link : Nat) (s : State) : Host.Outcome State Fault Refusal := .next (s.act h (helloTimeout link))

/-- LANE_LOCK_LOSS. -/
def laneLoss (k lane : Nat) (x : Hoop) : Hoop :=
  if k < 4 ∧ lane < 2 then
    linkDown k (x.updLink k (fun l => { l with lock0 := l.lock0 && lane != 0, lock1 := l.lock1 && lane != 1, aligned := false }))
  else x

def execLaneLockLoss (h : HoopId) (link lane : Nat) (s : State) : Host.Outcome State Fault Refusal := .next (s.act h (laneLoss link lane))

/-! ## Routing (R400 to R402) -/

/-- The module port of a link. -/
def portOf (x : Hoop) (k : Nat) : Nat := k + 4 * bit x.isB

/-- Event 518, at most 16 a second. -/
def tellReach (a : Nat) (r : Rt) (x : Hoop) : Hoop :=
  let sec := x.now / 1000000000
  let n := if x.wlm.reachEvSec = sec then x.wlm.reachEvNum else 0
  if 16 ≤ n then x
  else raiseEv 518 [a, r.id.toNat, r.dist] .hoop { x with wlm := { x.wlm with reachEvSec := sec, reachEvNum := n + 1 } }

/-- Write a routing-table entry: links learn of a change, a new ID or BOOTGEN clears the address's windows, reachability is reported. -/
def putRt (a : Nat) (r : Rt) (x : Hoop) : Hoop :=
  let old := x.rt a
  let differs := !old.valid || old.dist != r.dist || old.port != r.port || old.id != r.id || old.bootgen != r.bootgen
  let x := if old.id != r.id || old.bootgen != r.bootgen then clearWins a x else x
  let x := x.setRt a (if differs then { r with changed := [0, 1, 2, 3] } else { r with changed := old.changed })
  let was := old.valid && decide (old.dist ≤ 15)
  if was != decide (r.dist ≤ 15) then tellReach a r x else x

/-- An entry at distance 16 from now on. -/
def unreach (x : Hoop) (r : Rt) : Rt := { r with dist := 16, deadAt := some x.now }

/-- Give up or take an address: event 517 with its cause: 0 granted, 1 given up, 2 in conflict. The table holds the module's own at distance 0. -/
def dropAddr (x : Hoop) : Hoop :=
  let a := x.wlm.addr.toNat
  if a = 0 then x else putRt a (unreach x (x.rt a)) { x with wlm := { x.wlm with addr := 0 } }

def takeAddr (a : Nat) (x : Hoop) : Hoop :=
  let x := if x.wlm.addr.toNat = a then x else dropAddr x
  let v := BitVec.ofNat 12 a
  raiseEv 517 [a, 0] .hoop (putRt a { dist := 0, port := 0, id := x.wlm.id, bootgen := x.wlm.bootgen, valid := true, at_ := x.now }
    (mramWrite (.address v) { x with wlm := { x.wlm with addr := v } }))

/-- This module's own address is advertised with another ID (R400): the higher ID gives it up. -/
def conflict (id : BitVec 64) (x : Hoop) : Hoop :=
  let a := x.wlm.addr.toNat
  let x := { x with wlm := { x.wlm with conflict := true } }
  if id.toNat < x.wlm.id.toNat then raiseEv 517 [a, 1] .hoop (dropAddr x) else raiseEv 517 [a, 2] .hoop x

/-- One advertised entry: address, distance, BOOTGEN, ID. -/
def learn (k a d gen : Nat) (id : BitVec 64) (x : Hoop) : Hoop :=
  if a = 0 ∨ 4095 ≤ a then x
  else if a = x.wlm.addr.toNat then (if id = x.wlm.id then x else conflict id x)
  else
    let old := x.rt a
    let dist := min 16 (d + 1)
    let new : Rt := { dist := dist, port := portOf x k, id := id, bootgen := BitVec.ofNat 16 gen, valid := true, at_ := x.now }
    if old.valid && old.port == portOf x k then
      if dist = 16 then (if old.dist = 16 then x else putRt a (unreach x { new with at_ := old.at_ }) x) else putRt a new x
    else if dist = 16 then x
    else if !old.valid || decide (dist < old.dist) || (dist == old.dist && decide (portOf x k < old.port)) then putRt a new x
    else x

/-- ROUTE received. -/
def routeIn (k : Nat) (b : Bytes) (x : Hoop) : Hoop :=
  let p := frPayload b
  let n := field p 0 1
  if n = 0 ∨ 30 < n ∨ p.length < 4 + 16 * n then x
  else (List.range n).foldl (fun y i => let o := 4 + 16 * i
    learn k (field p o 2) (field p (o + 2) 1) (field p (o + 4) 2) (BitVec.ofNat 64 (field p (o + 8) 8)) y) x

/-- The other hoop gives up the module's address with this one (R420). -/
def dropWith (h : HoopId) (had : Bool) (s : State) : State :=
  if had && (s.hoop h).wlm.addr == 0 && (s.hoop (other h)).wlm.addr != 0 then
    s.upd (other h) (fun y => raiseEv 517 [y.wlm.addr.toNat, 1] .hoop (dropAddr { y with wlm := { y.wlm with conflict := true } }))
  else s

def execRoute (h : HoopId) (link : Nat) (frame : Bytes) (s : State) : Host.Outcome State Fault Refusal :=
  .next (settle (dropWith h ((s.hoop h).wlm.addr != 0) (rxLocal 1 h link frame (routeIn link frame) s)))

/-- An entry as a link is told of it: poisoned toward the link it was learned on. -/
def rtBytes (x : Hoop) (k : Nat) (q : Nat × Rt) : Bytes :=
  let r := q.2
  let d := if r.dist != 0 && r.port == portOf x k then 16 else r.dist
  leBytes 2 q.1 ++ leBytes 1 d ++ [0] ++ leBytes 2 r.bootgen.toNat ++ [0, 0] ++ leBytes 8 r.id.toNat

/-- Entries in ROUTE frames of at most 30. -/
def sendRoutes (k : Nat) (es : List (Nat × Rt)) (x : Hoop) : Hoop :=
  (List.range ((es.length + 29) / 30)).foldl (fun y i =>
    let part := (es.drop (30 * i)).take 30
    sendLocal k 1 (leBytes 4 part.length ++ (part.map (rtBytes y k)).flatten) y) x

/-- The link has been told. -/
def told (k : Nat) (x : Hoop) : Hoop :=
  { x with wlm := { x.wlm with table := x.wlm.table.map (fun q => (q.1, { q.2 with changed := q.2.changed.filter (· != k) })) } }

/-- ROUTE_ADVERTISE. -/
def routeAdvertise (x : Hoop) : Hoop :=
  if x.boot.fwRun then x.upLinks.foldl (fun y k => told k (sendRoutes k (y.wlm.table.filter (fun q => q.2.valid)) y)) x else x

def execRouteAdvertise (h : HoopId) (s : State) : Host.Outcome State Fault Refusal := .next (s.act h routeAdvertise)

/-- TRIGGERED_UPDATE on a link, at most one a millisecond. -/
def triggered (k : Nat) (x : Hoop) : Hoop :=
  let es := x.wlm.table.filter (fun q => q.2.valid && q.2.changed.contains k)
  let free := match (x.link k).lastTrig with | some t => decide (t + 1000000 ≤ x.now) | none => true
  if !(x.link k).up || es.isEmpty || !free then x
  else (told k (sendRoutes k es x)).updLink k (fun l => { l with lastTrig := some x.now })

def execTriggeredUpdate (h : HoopId) (link : Nat) (s : State) : Host.Outcome State Fault Refusal := .next (s.act h (triggered link))

/-- ROUTE_EXPIRY: 30 ms without a refresh, and the removal 30 ms later. -/
def routeExpiry (a : Nat) (x : Hoop) : Hoop :=
  let r := x.rt a
  if !r.valid then x
  else if r.dist = 16 then
    (match r.deadAt with | some t => if t + 30000000 ≤ x.now then x.setRt a {} else x | none => x)
  else if r.dist ≠ 0 ∧ r.at_ + 30000000 ≤ x.now then putRt a (unreach x r) x
  else x

def execRouteExpiry (h : HoopId) (addr : Nat) (s : State) : Host.Outcome State Fault Refusal := .next (s.act h (routeExpiry addr))

/-! ## Addresses (R399) -/

/-- The up link that gave the best LEADER_DIST. -/
def leaderLink (x : Hoop) : Option Nat :=
  x.upLinks.find? (fun k => (x.link k).leaderId == x.wlm.leader && (x.link k).leaderDist + 1 == x.wlm.leaderDist)

/-- The address is free for an ID. -/
def addrFree (x : Hoop) (id : BitVec 64) (a : Nat) : Bool := let r := x.rt a; !r.valid || r.id == id

/-- The address that the leader grants: the preferred one, else the lowest that is free; none where all 4,094 are held. -/
def grantFor (x : Hoop) (id : BitVec 64) (pref : Nat) : Option Nat :=
  if 1 ≤ pref ∧ pref ≤ 4094 ∧ addrFree x id pref then some pref
  else ((List.range 4094).map (· + 1)).find? (addrFree x id)

/-- The address that this module prefers. -/
def preferred (x : Hoop) : Nat := if x.wlm.pref = 0 then x.wlm.lastAddr.toNat else x.wlm.pref.toNat

/-- Broadcast a grant. -/
def sendGrant (id : BitVec 64) (a gen : Nat) (x : Hoop) : Hoop := originate bcast 3 (leBytes 8 id.toNat ++ leBytes 2 a ++ leBytes 2 gen) x

/-- The hoop whose table decides for the module: the ACTIVE one (R420). -/
def decider (s : State) (h : HoopId) : Hoop := match s.holder with | some a => s.hoop a | none => s.hoop h

/-- A leader without an address grants one to itself, in every hoop in service. -/
def selfGrant (h : HoopId) (s : State) : State :=
  let d := decider s h
  if d.wlm.addr ≠ 0 then s
  else match grantFor d d.wlm.id (preferred d) with
    | some a => (servingHoops s).foldl (fun s q => s.upd q (fun x => sendGrant x.wlm.id a x.wlm.bootgen.toNat (takeAddr a x))) s
    | none => s

/-- An ADDR_REQ on one link: TYPE 2, no address to name, TTL 15 at its origin (assumption 26). -/
def sendReq (k : Nat) (seq ttl : Nat) (origin : BitVec 16) (p : Bytes) (x : Hoop) : Hoop := sendFrame k false (frameBytes 0 0 ttl 2 origin seq p) x

/-- ADDR_REQ_SEND of a hoop that is not the leader's. -/
def reqSend (x : Hoop) : Hoop :=
  match leaderLink x with
  | none => x
  | some k =>
    let seq := nextSeq x.wlm.seq
    sendReq k seq 15 x.wlmOrigin (leBytes 8 x.wlm.id.toNat ++ leBytes 2 (preferred x) ++ leBytes 2 x.wlm.bootgen.toNat) { x with wlm := { x.wlm with seq := seq } }

/-- ADDR_REQ_SEND. -/
def addrReqSend (h : HoopId) (s : State) : State :=
  let x := s.hoop h
  if !s.has h || !x.boot.fwRun || x.wlm.addr != 0 then s
  else if x.wlm.isLeader then selfGrant h s
  else s.upd h reqSend

def execAddrReqSend (h : HoopId) (s : State) : Host.Outcome State Fault Refusal := .next (settle (addrReqSend h s))

/-- The leader answers a request: every hoop in service broadcasts the address that the ACTIVE one picks. -/
def grant (h : HoopId) (b : Bytes) (s : State) : State :=
  let p := frPayload b
  let id := BitVec.ofNat 64 (field p 0 8)
  let s := selfGrant h s
  match grantFor (decider s h) id (field p 8 2) with
  | some a => (servingHoops s).foldl (fun s q => s.upd q (sendGrant id a (field p 10 2))) s
  | none => s

/-- ADDR_REQ received: the leader's hoops answer it, another module passes it on toward the leader. -/
def addrReq (h : HoopId) (k : Nat) (b : Bytes) (s : State) : State :=
  let x := s.hoop h
  if !s.has h || !hears x k then s
  else match badForm b with
    | some why => s.upd h (discardForm k why)
    | none =>
      if frType b ≠ 2 then s
      else
        let s := s.upd h (gotFrame k)
        if x.wlm.isLeader then grant h b s
        else s.upd h (fun y =>
          if frTtl b ≤ 1 then tellDiscard (pmcRaw 218 1 { y with wlm := { y.wlm with ttlDiscard := satInc y.wlm.ttlDiscard } })
          else match leaderLink y with
            | some l => sendReq l (frSeq b) (frTtl b - 1) (BitVec.ofNat 16 (frOrigin b)) (frPayload b) y
            | none => tellDiscard (pmcRaw 218 1 { y with wlm := { y.wlm with noRoute := satInc y.wlm.noRoute } }))

def execAddrReq (h : HoopId) (link : Nat) (frame : Bytes) (s : State) : Host.Outcome State Fault Refusal := .next (settle (addrReq h link frame s))

/-- ADDR_GRANT received: the module that it names takes the address. -/
def addrGrant (b : Bytes) (x : Hoop) : Hoop :=
  let p := frPayload b
  let a := field p 8 2
  if field p 0 8 = x.wlm.id.toNat ∧ 1 ≤ a ∧ a ≤ 4094 then takeAddr a x else x

def execAddrGrant (h : HoopId) (link : Nat) (frame : Bytes) (s : State) : Host.Outcome State Fault Refusal :=
  .next (settle (rxFrame 3 h link frame (addrGrant frame) s))

/-! ## WLM_CFG (R392, R404) -/

/-- WLM_CFG. -/
def wlmCfgVerb : Verb :=
  { check := fun k _ => decide (k.par 1 2 ≤ 4094) && (k.par 3 2 == 0 || decide (100 ≤ k.par 3 2 ∧ k.par 3 2 ≤ 60000)) && decide (1 ≤ k.par 5 2 ∧ k.par 5 2 ≤ 1000)
    run := fun k x =>
      let en := BitVec.ofNat 4 (k.par 0 1 / (if x.isB then 16 else 1))
      let y := { x with wlm := { x.wlm with linkEn := en, pref := BitVec.ofNat 12 (k.par 1 2), telInterval := BitVec.ofNat 16 (k.par 3 2), tcLimit := BitVec.ofNat 16 (k.par 5 2) } }
      let y := ((List.range 4).filter (fun l => !en.getLsbD l)).foldl (fun y l => faultOff (192 + l) (linkDown l y)) y
      adminOk k x (storeSetting k 0 y) }

def execWlmCfg (h : HoopId) (r : Nat) (s : State) : Host.Outcome State Fault Refusal := .next (s.serve h r 0x32 wlmCfgVerb)

/-! ## Notices (R415, R416, R419) -/

/-- DARK_NOTICE_REPEAT: notices sent 1 ms ago go out again, twice in all. -/
def noticeRepeat (x : Hoop) : Hoop :=
  if x.tmb.st = .halted then x
  else
    let due := x.wlm.notices.filter (fun n => decide (n.sentAt + 1000000 ≤ x.now))
    let keep := x.wlm.notices.filterMap (fun n =>
      if n.sentAt + 1000000 ≤ x.now then (if n.left ≤ 1 then none else some { n with left := n.left - 1, sentAt := x.now }) else some n)
    due.foldl (fun y n => sendNotices n.key n.inPort n.cause y) { x with wlm := { x.wlm with notices := keep } }

def execDarkNoticeRepeat (h : HoopId) (s : State) : Host.Outcome State Fault Refusal := .next (s.act h noticeRepeat)

/-- DARK_NOTICE received: source 196 for each live thread that holds the key; event 522. -/
def darkNotice (b : Bytes) (x : Hoop) : Hoop :=
  let p := frPayload b
  let ini := field p 0 2
  let fcid := field p 2 6
  let ch := field p 8 2
  let x := { x with wlm := { x.wlm with noticeRx := satInc x.wlm.noticeRx } }
  let hit := (x.wlm.chains.filter (fun q => q.2.initiator == ini && q.2.fcid == fcid && q.2.chain == ch && (x.thread q.1).st.live)).map (·.1)
  if hit.isEmpty then raiseEv 522 [ini, fcid, ch, 0xFFFF] .hoop x
  else hit.foldl (fun y i => pulse 196 i [] (raiseEv 522 [ini, fcid, ch, i] .hoop y)) x

def execDarkNotice (h : HoopId) (link : Nat) (frame : Bytes) (s : State) : Host.Outcome State Fault Refusal :=
  .next (settle (rxFrame 9 h link frame (darkNotice frame) s))

/-- HANDOVER_NOTICE received: an event and nothing else. -/
def handoverNotice (b : Bytes) (x : Hoop) : Hoop :=
  let p := frPayload b
  raiseEv 525 [frSrc b, field p 8 1, field p 11 6, field p 17 4] .hoop x

def execHandoverNotice (h : HoopId) (link : Nat) (frame : Bytes) (s : State) : Host.Outcome State Fault Refusal :=
  .next (settle (rxFrame 0xC h link frame (handoverNotice frame) s))

/-! ## Time checks (R417) -/

/-- A PTP time of 12 bytes: seconds 6, nanoseconds 4, sixteenths 1, and 0; from 1/16 ns since the epoch. -/
def timeBytes (t : Nat) : Bytes := leBytes 6 (t / 16000000000) ++ leBytes 4 (t / 16 % 1000000000) ++ leBytes 1 (t % 16) ++ [0]

def timeAt (p : Bytes) (o : Nat) : Nat := (field p o 6 * 1000000000 + field p (o + 6) 4) * 16 + field p (o + 10) 1 % 16

/-- The time of a stamp at sending. -/
def sendTime (x : Hoop) : Nat := x.tb.ptpOf x.now * 16 + x.tb.frac.toNat / 2 ^ 28

/-- Payload of a TIME_CHECK: 1 byte, 0 request and 1 reply, 3 of 0, t1, t2, t3 (assumption 27). -/
def tcPayload (reply t1 t2 t3 : Nat) : Bytes := leBytes 4 reply ++ timeBytes t1 ++ timeBytes t2 ++ timeBytes t3

/-- TIME_CHECK_SEND. -/
def timeCheckSend (x : Hoop) : Hoop := if x.boot.fwRun then x.upLinks.foldl (fun y k => sendLocal k 0xA (tcPayload 0 (sendTime y) 0 0) y) x else x

def execTimeCheckSend (h : HoopId) (s : State) : Host.Outcome State Fault Refusal := .next (s.act h timeCheckSend)

/-- TIME_CHECK received: `fine` is the 1/16 ns fraction of its stamp. -/
def timeCheck (k : Nat) (b : Bytes) (fine : BitVec 4) (x : Hoop) : Hoop :=
  let p := frPayload b
  let rx := x.tb.ptpOf x.now * 16 + fine.toNat
  if field p 0 1 = 0 then sendLocal k 0xA (tcPayload 1 (timeAt p 4) rx (sendTime x)) x
  else
    let theta : Int := (((timeAt p 16 : Int) - (timeAt p 4 : Int)) - ((rx : Int) - (timeAt p 28 : Int))) / 2
    let x := x.updLink k (fun l => { l with tofs := theta })
    if x.wlm.tcLimit.toNat * 16 < theta.natAbs then raiseEv 523 [k, ofSigned 32 theta] .hoop x else x

def execTimeCheck (h : HoopId) (link : Nat) (frame : Bytes) (fine : BitVec 4) (s : State) : Host.Outcome State Fault Refusal :=
  .next (settle (rxLocal 0xA h link frame (timeCheck link frame fine) s))

/-! ## Telemetry (R418) -/

/-- Standing threads in a state. -/
def countThreads (x : Hoop) (st : ThreadSt) : Nat := (x.thr.filter (fun q => q.2.st == st)).length

/-- The highest severity among live sources; 0 where there is none. -/
def topSeverity (x : Hoop) : Nat := maxL ((x.fc.src.filter (fun q => q.2.live)).map (fun q => (sevOf q.1).getD 0))

/-- Payload of TELEMETRY, in the order that R418 lists (assumption 28); with the load of R26 over the last millisecond. -/
def telPayload (x peer : Hoop) (dark : Bool) : Bytes :=
  let ra := if x.isB then peer else x
  let rb := if x.isB then x else peer
  padTo 48 (leBytes 8 x.wlm.id.toNat ++ leBytes 1 ra.pair.role.code ++ leBytes 1 rb.pair.role.code ++ leBytes 1 (bit x.tb.timeValid)
    ++ leBytes 1 (x.tb.pri.st.code + 16 * x.tb.sec.st.code)
    ++ ([ThreadSt.staged, .settling, .carrying, .verified, .faulted, .darked].map (fun t => leBytes 2 (countThreads x t))).flatten
    ++ leBytes 1 x.loadPct ++ leBytes 2 (ofSigned 16 x.tec.z0.mean) ++ leBytes 2 (ofSigned 16 x.tec.z1.mean) ++ leBytes 2 (ofSigned 16 x.ths.jct)
    ++ leBytes 1 (bit dark) ++ leBytes 1 (topSeverity x))

/-- TELEMETRY_SEND: a module with an address, to its leader; a leader sends itself none (assumption 148). The load may defer the message, after the
history (R28). -/
def telemetrySend (peer : Hoop) (dark : Bool) (x : Hoop) : Hoop :=
  if !x.boot.fwRun || x.wlm.addr == 0 || x.wlm.telInterval == 0 || x.wlm.isLeader || !(x.pair.role == .active || x.pair.role == .standby) then x
  else match x.addrOfId x.wlm.leader with
    | none => x
    | some a =>
      let q := x.defers (x.mayDefer && historyFirst x)
      let x := { q.2 with wlm := { q.2.wlm with telDeferred := q.1 } }
      if q.1 then x else originate a 0xB (telPayload x peer dark) x

def execTelemetrySend (h : HoopId) (s : State) : Host.Outcome State Fault Refusal :=
  .next (s.act h (telemetrySend (s.hoop (other h)) s.balls.darkN))

/-- TELEMETRY received: the leader raises event 524. -/
def telemetryIn (b : Bytes) (x : Hoop) : Hoop :=
  if x.wlm.isLeader then raiseEv 524 (frSrc b :: (frPayload b).map BitVec.toNat) .hoop x else x

def execTelemetry (h : HoopId) (link : Nat) (frame : Bytes) (s : State) : Host.Outcome State Fault Refusal :=
  .next (settle (rxFrame 0xB h link frame (telemetryIn frame) s))

end Sys2Proof.Machine
end

