-- ==== Sys2Proof/Machine/Fabric.lean ====
section
/-!
DEFINITION. Fabric commits (R405 to R414): FABRIC_COMMIT at the initiator, PROPOSE at a member, the messages and the deadlines between them, and
the outcome.
-/

namespace Sys2Proof.Machine

/-! ## Entries (R405) -/

/-- The entries of 12 bytes that a run of bytes holds. -/
def fabEntries (n : Nat) (b : Bytes) : List Bytes := (List.range n).map (fun i => (b.drop (12 * i)).take 12)

/-- The ingress port that an entry names. -/
def fabPort (e : Bytes) : Nat := field e 4 2 % 512

/-- The form of an entry: opcode, the zero byte, and for RELEASE and DARK the zeros after the port. -/
def fabForm (e : Bytes) : Bool :=
  decide (1 ≤ field e 0 1 ∧ field e 0 1 ≤ 5) && field e 1 1 == 0 && (decide (field e 0 1 ≤ 3) || (field e 6 6 == 0 && decide (field e 4 2 < 512)))

/-- An entry's fields are legal here. -/
def fabFieldsOk (x : Hoop) (e : Bytes) : Bool :=
  fabForm e && (if field e 0 1 ≤ 3 then descOk x 0 (descOf (e.drop 4)) else decide (field e 4 2 < x.n))

/-- The entries of one module: no ingress port twice. -/
def fabListOk (es : List Bytes) : Bool := es.all fabForm && distinct (es.map fabPort)

/-- The edit of an entry; TENANT is taken as written. -/
def fabEdit (e : Bytes) : Edit :=
  if field e 0 1 ≤ 3 then
    let d := descOf (e.drop 4)
    { op := field e 0 1, inPort := d.inPort, outPort := d.outPort, tenant := d.tenant, band := d.band, move := d.move, chain := field e 2 2 }
  else { op := field e 0 1, inPort := field e 4 2, chain := field e 2 2 }

/-- Chain records of the threads that entries create or reopen (R414). -/
def noteChains (initiator fcid : Nat) (addrs : List Nat) (es : List Edit) (x : Hoop) : Hoop :=
  let ids := addrs.map (fun a => if a = x.wlm.addr.toNat then x.wlm.id else (x.rt a).id)
  (es.filter (fun e => e.chain != 0 && (e.op == 1 || e.op == 3))).foldl (fun y e =>
    { y with wlm := { y.wlm with chains := smPut y.wlm.chains e.inPort { initiator := initiator, fcid := fcid, chain := e.chain, ids := ids } } }) x

/-! ## Records and comparators -/

/-- The number by which a commit names its fabric commit. -/
def fcKey (initiator fcid : Nat) : Nat := initiator + 4096 * fcid

/-- A record that has given its comparator back: an initiator's, past its epoch. -/
def givenBack (x : Hoop) (f : Fab) : Bool := f.init && decide (f.epoch ≤ x.now) && f.localSeq.isNone

/-- A free comparator of 9 to 13. -/
def freeSlot (x : Hoop) : Option Nat :=
  (List.range 5).find? (fun s => match smFind x.wlm.fabs s with | none => true | some f => givenBack x f)

/-- Take a comparator for a record; one that still waits for its outcome is kept besides. -/
def takeSlot (s : Nat) (f : Fab) (x : Hoop) : Hoop :=
  let x := match smFind x.wlm.fabs s with
    | some old => { x with wlm := { x.wlm with ended := x.wlm.ended ++ [old] } }
    | none => x
  setFab s f x

/-- Change the record of a fabric commit that this module initiated, wherever it is kept. -/
def updInit (initiator fcid : Nat) (g : Fab → Fab) (x : Hoop) : Hoop :=
  let is := fun (f : Fab) => f.init && f.initiator == initiator && f.fcid == fcid
  { x with wlm := { x.wlm with fabs := x.wlm.fabs.map (fun q => (q.1, if is q.2 then g q.2 else q.2)), ended := x.wlm.ended.map (fun f => if is f then g f else f) } }

/-- The record of a fabric commit that this module initiated. -/
def initFab (x : Hoop) (fcid : Nat) : Option Fab :=
  (x.wlm.fabs.map (·.2) ++ x.wlm.ended).find? (fun f => f.init && f.initiator == x.wlm.addr.toNat && f.fcid == fcid)

/-- Withdraw this module's part, and what was routed against it. -/
def withdrawPart (initiator fcid code : Nat) (x : Hoop) : Hoop :=
  match x.cm.pending.find? (fun c => c.fcid == some (fcKey initiator fcid)) with
  | some c => abortCommit c code true x
  | none => x

/-- ABORT to every member of a record. -/
def abortMembers (f : Fab) (status reason : Nat) (x : Hoop) : Hoop :=
  f.members.foldl (fun y a => originate a 7 (leBytes 6 f.fcid ++ leBytes 1 status ++ leBytes 1 reason) y) x

/-- The deadlines of a fabric commit that this module initiated are off. -/
def dropDeadlines (f : Fab) (x : Hoop) : Hoop :=
  match fabOf x f.initiator f.fcid with
  | some s => dropArm (9 + s) x
  | none => x

/-- The initiator gives its own part up; with `tell` it sends ABORT to every member (R409, R410). -/
def giveUp (f : Fab) (tell : Bool) (status reason : Nat) (x : Hoop) : Hoop :=
  let x := dropDeadlines f x
  let x := if tell then abortMembers f status reason x else x
  withdrawPart f.initiator f.fcid 3 (updInit f.initiator f.fcid (fun g => { g with st := 5, reason := reason, aborted := tell, localSeq := none }) x)

/-! ## The outcome (R411 to R413) -/

/-- Raise the outcome: 0 COMPLETE, 1 PARTIAL, 2 ABORTED; members 0 LOADED, 1 CANCELLED, 2 FAULT, 3 SILENT. -/
def fabOutcome (f : Fab) (x : Hoop) : Hoop :=
  let states := f.members.map (fun a => match f.results.find? (fun q => q.1 == a) with | some q => q.2 | none => 3)
  let all := (f.st == 3 || f.st == 4) && states.all (· == 0)
  let out := if all then 0 else if f.aborted then 2 else 1
  let gone := fun (g : Fab) => g.init && g.initiator == f.initiator && g.fcid == f.fcid
  let x := { x with wlm := { x.wlm with
    fabs := x.wlm.fabs.filter (fun q => !gone q.2), ended := x.wlm.ended.filter (fun g => !gone g)
    fcNotComplete := if out = 0 then x.wlm.fcNotComplete else satInc x.wlm.fcNotComplete } }
  raiseEv 519 ([f.fcid, out] ++ states) .hoop x

/-- Every member has reported. -/
def allDone (f : Fab) : Bool := f.members.all (fun a => f.results.any (fun q => q.1 == a))

/-- A member's end is noted, and the outcome raised when it was the last; before the initiator's own part has ended nothing is raised. -/
def noteEnd (fcid src result : Nat) (x : Hoop) : Hoop :=
  match initFab x fcid with
  | none => x
  | some f =>
    if !f.members.contains src || f.results.any (fun q => q.1 == src) then x
    else
      let g := { f with results := f.results ++ [(src, result)] }
      let x := updInit f.initiator fcid (fun _ => g) x
      if allDone g && (g.localSeq.isNone || g.st != 3) then fabOutcome g x else x

/-! ## FABRIC_COMMIT (R404, R406) -/

/-- The members of a parameter block: address and entries of each; none where it is ill-formed. -/
def membersOf : Nat → Bytes → Option (List (Nat × List Bytes))
  | 0, b => if b.isEmpty then some [] else none
  | m + 1, b =>
    let c := field b 2 1
    if b.length < 4 + 12 * c || c = 0 || 37 < c || field b 3 1 != 0 then none
    else (membersOf m (b.drop (4 + 12 * c))).map (fun r => (field b 0 2, fabEntries c (b.drop 4)) :: r)

/-- What a FABRIC_COMMIT asks: local entries, members. -/
def fabArg (p : Bytes) : Option (List Bytes × List (Nat × List Bytes)) :=
  let m := field p 0 1
  let c := field p 1 1
  if m = 0 ∨ 15 < m ∨ 37 < c ∨ field p 2 2 ≠ 0 ∨ p.length < 4 + 12 * c then none
  else (membersOf m (p.drop (4 + 12 * c))).map (fun r => (fabEntries c (p.drop 4), r))

/-- Check 3 of its own fields. -/
def fabCheck (k : Ctx) (x : Hoop) : Bool :=
  match fabArg (paramOf k.cmd.bytes) with
  | none => false
  | some (loc, ms) =>
    fabListOk loc && loc.all (fabFieldsOk x) && ms.all (fun q => fabListOk q.2 && decide (1 ≤ q.1 ∧ q.1 ≤ 4094) && q.1 != x.wlm.addr.toNat)
      && distinct (ms.map (·.1))

/-- Distance to an address: of the pair's two tables the shorter. -/
def distTo (x peer : Hoop) (a : Nat) : Nat :=
  let d := fun (y : Hoop) => if (y.rt a).valid then (y.rt a).dist else 16
  if Config.duplex x.part then min (d x) (d peer) else d x

/-- The earliest safe epoch (R406), PTP nanoseconds. -/
def fabEarliest (x : Hoop) (h : Nat) : Nat :=
  let a := x.tb.ptpOf x.now + max 50000 (max (2 * h * 2400 + 68000) (3 * h * 2400 + 53000))
  (a + 999) / 1000 * 1000

/-- Payload of a PROPOSE. -/
def proposePayload (fcid ens m : Nat) (addrs : List Nat) (es : List Bytes) : Bytes :=
  leBytes 6 fcid ++ leBytes 6 (ens / 1000000000) ++ leBytes 4 (ens % 1000000000) ++ leBytes 1 m ++ leBytes 1 es.length ++ [0, 0]
    ++ padTo 32 ((addrs.map (leBytes 2)).flatten) ++ es.flatten

/-- Accept a fabric commit: the record, its comparator at E - 20 us, PROPOSE to every member, chain records. -/
def startFabric (fcid ens slot : Nat) (ms : List (Nat × List Bytes)) (loc : List Edit) (x : Hoop) : Hoop :=
  let own := x.wlm.addr.toNat
  let addrs := own :: ms.map (·.1)
  let f : Fab := { st := 1, init := true, fcid := fcid, initiator := own, members := ms.map (·.1), readyIn := [], results := [], epoch := x.tb.cntOf ens,
                   epochNs := ens, localSeq := if loc.isEmpty then none else some fcid, reason := 0 }
  let x := takeSlot slot f { x with wlm := { x.wlm with fcInit := satInc x.wlm.fcInit } }
  let x := armAt (9 + slot) (ens - 20000) (dropArm (9 + slot) x)
  ms.foldl (fun y q => originate q.1 4 (proposePayload fcid ens ms.length addrs q.2) y) (noteChains own fcid addrs loc x)

/-- FABRIC_COMMIT, checks 2 to 5 of R406. -/
def fabricVerb : Verb :=
  { check := fabCheck
    run := fun k x =>
      match fabArg (paramOf k.cmd.bytes) with
      | none => ({ status := 4 }, x)
      | some (loc, ms) =>
        let h := hdrOf k.cmd.bytes
        let ds := ms.map (fun q => distTo x k.peer q.1)
        let ens := if h.hasEpoch then h.epochNs else fabEarliest x (maxL ds)
        match freeSlot x with
        | none => ({ status := 14 }, x)
        | some slot =>
          if x.wlm.addr = 0 ∨ !x.tb.timeValid then ({ status := 14 }, x)
          else if ds.any (· == 16) then ({ status := 8 }, x)
          else if ens < x.tb.ptpOf x.now + 50000 then ({ status := 11 }, x)
          else
            let es := loc.map fabEdit
            if es.isEmpty then ({ status := 0, epochNs := some ens }, startFabric k.seq ens slot ms [] x)
            else match decideCommit x { ring := 0 } true true ens es with
              | .refuse st i => ({ status := st, result := i }, x)
              | .tagLimit t _ => ({ status := 14 }, raiseEv 37 [t] .hoop x)
              | .accept c e =>
                ({ status := 0, result := commitResult c, epochNs := some e },
                  startFabric k.seq e slot ms es (takeCommit k.seq 0 0 e c (some (fcKey x.wlm.addr.toNat k.seq)) x)) }

def execFabricCommit (h : HoopId) (r : Nat) (s : State) : Host.Outcome State Fault Refusal := .next (s.serve h r 0x31 fabricVerb)

/-! ## The member (R408, R409) -/

/-- SEQ of a member's local commit: the FCID below, the initiator's address above (assumption 23). -/
def memberSeq (initiator fcid : Nat) : Nat := fcid + initiator * 2 ^ 48

/-- Answer a PROPOSE with ABORT. -/
def refuseProp (initiator fcid status reason : Nat) (x : Hoop) : Hoop := originate initiator 7 (leBytes 6 fcid ++ leBytes 1 status ++ leBytes 1 reason) x

/-- A PROPOSE at a member. -/
def propose (b : Bytes) (x : Hoop) : Hoop :=
  let p := frPayload b
  let ini := frSrc b
  let fcid := field p 0 6
  let ens := field p 6 6 * 1000000000 + field p 12 4
  let cnt := field p 17 1
  let raw := fabEntries cnt (p.drop 52)
  let e := x.tb.cntOf ens
  if !x.tb.timeValid then refuseProp ini fcid 14 3 x
  else match freeSlot x with
    | none => refuseProp ini fcid 14 4 x
    | some slot =>
      if e < x.now + 20000 then refuseProp ini fcid 11 1 x
      else if cnt = 0 ∨ 37 < cnt ∨ p.length < 52 + 12 * cnt ∨ 999999999 < field p 12 4 ∨ x.tb.ptpOf x.now + 3600000000000 < ens
          ∨ !fabListOk raw ∨ !raw.all (fabFieldsOk x) then refuseProp ini fcid 4 0 x
      else
        let es := raw.map fabEdit
        match decideCommit x { ring := 0, fabric := true } true true ens es with
        | .refuse st _ => refuseProp ini fcid st 0 x
        | .tagLimit t _ => refuseProp ini fcid 14 0 (raiseEv 37 [t] .hoop x)
        | .accept c _ =>
          let addrs := ((List.range 16).map (fun i => field p (20 + 2 * i) 2)).filter (· != 0)
          let x := takeCommit (memberSeq ini fcid) 0 0 ens c (some (fcKey ini fcid)) x
          let f : Fab := { st := 2, init := false, fcid := fcid, initiator := ini, members := addrs.drop 1, readyIn := [], results := [], epoch := e,
                           epochNs := ens, localSeq := some fcid, reason := 0 }
          let x := noteChains ini fcid addrs es (takeSlot slot f x)
          let x := armAt (9 + slot) (ens - 5000) (dropArm (9 + slot) x)
          originate ini 5 (leBytes 6 fcid ++ leBytes 2 c.n ++ leBytes 2 c.nch ++ [0, 0]) x

def execPropose (h : HoopId) (link : Nat) (frame : Bytes) (s : State) : Host.Outcome State Fault Refusal :=
  .next (settle (rxFrame 4 h link frame (propose frame) s))

/-- The slot and record of a fabric commit in which this module is a member. -/
def memberFab (x : Hoop) (initiator fcid : Nat) : Option (Nat × Fab) :=
  (x.wlm.fabs.find? (fun q => !q.2.init && q.2.initiator == initiator && q.2.fcid == fcid))

/-- GO received: the E - 5 us deadline is disarmed. -/
def goIn (b : Bytes) (x : Hoop) : Hoop :=
  match memberFab x (frSrc b) (field (frPayload b) 0 6) with
  | some (s, f) => if f.st = 2 then setFab s { f with st := 3 } (dropArm (9 + s) x) else x
  | none => x

def execGo (h : HoopId) (link : Nat) (frame : Bytes) (s : State) : Host.Outcome State Fault Refusal :=
  .next (settle (rxFrame 6 h link frame (goIn frame) s))

/-- ABORT received: a member withdraws at once; the initiator that has not sent GO aborts every member and withdraws. -/
def abortIn (b : Bytes) (x : Hoop) : Hoop :=
  let p := frPayload b
  let fcid := field p 0 6
  let src := frSrc b
  match memberFab x src fcid with
  | some (s, f) => withdrawPart src fcid 3 (setFab s { f with reason := field p 7 1 } (dropArm (9 + s) x))
  | none =>
    match initFab x fcid with
    | none => x
    | some f =>
      if !f.members.contains src then x
      else
        let x := if f.st = 1 ∨ f.st = 2 then giveUp f true (field p 6 1) (field p 7 1) x else x
        noteEnd fcid src 1 x

def execAbort (h : HoopId) (link : Nat) (frame : Bytes) (s : State) : Host.Outcome State Fault Refusal :=
  .next (settle (rxFrame 7 h link frame (abortIn frame) s))

/-- GO_DEADLINE: comparator `k` of 9 to 13 fires at E - 5 us without a GO. -/
def goDeadline (k : Nat) (x : Hoop) : Hoop :=
  if !(decide (9 ≤ k ∧ k ≤ 13) && cmpDue x k) then x
  else
    let x := cmpFire k x
    match smFind x.wlm.fabs (k - 9) with
    | some f =>
      if !f.init && f.st == 2 then
        withdrawPart f.initiator f.fcid 3 (refuseProp f.initiator f.fcid 11 7 (setFab (k - 9) { f with reason := 7 } x))
      else x
    | none => x

def execGoDeadline (h : HoopId) (k : Nat) (s : State) : Host.Outcome State Fault Refusal := .next (s.act h (goDeadline k))

/-! ## The initiator (R409 to R411) -/

/-- GO may be sent: the own part stands, time is valid, no reaction line is asserted (R410). -/
def mayGo (x : Hoop) (f : Fab) : Bool :=
  (f.localSeq.isNone || x.cm.pending.any (fun c => c.fcid == some (fcKey f.initiator f.fcid))) && x.tb.timeValid && !x.lineOn

/-- GO to every member (R410); the deadlines are off. -/
def sendGo (f : Fab) (x : Hoop) : Hoop :=
  f.members.foldl (fun y a => originate a 6 (leBytes 6 f.fcid ++ [0, 0]) y)
    (updInit f.initiator f.fcid (fun _ => { f with st := 3 }) (dropDeadlines f x))

/-- Every READY is in and GO is not sent, before E - 10 us (R409). -/
def waitsGo (x : Hoop) (f : Fab) : Bool := f.init && f.st == 2 && decide (x.now + 10000 < f.epoch)

/-- At every tick: a GO that waits for R410's conditions goes out as soon as they hold. -/
def goTick (s : State) : State :=
  s.hoops.foldl (fun s h => if (s.hoop h).wlm.fabs.any (fun q => waitsGo (s.hoop h) q.2 && mayGo (s.hoop h) q.2) then
      s.act h (fun x => ((x.wlm.fabs.map (·.2)).filter (waitsGo x)).foldl (fun y f => if mayGo y f then sendGo f y else y) x)
    else s) s

/-- READY received. -/
def readyIn (b : Bytes) (x : Hoop) : Hoop :=
  let fcid := field (frPayload b) 0 6
  let src := frSrc b
  match initFab x fcid with
  | none => x
  | some f =>
    if f.st ≠ 1 ∨ !f.members.contains src ∨ f.readyIn.contains src then x
    else
      let f := { f with readyIn := f.readyIn ++ [src] }
      let full := f.members.all (fun a => f.readyIn.contains a)
      if !full then updInit f.initiator fcid (fun _ => f) x
      else if mayGo x f then sendGo f x
      else updInit f.initiator fcid (fun _ => { f with st := 2 }) x

def execReady (h : HoopId) (link : Nat) (frame : Bytes) (s : State) : Host.Outcome State Fault Refusal :=
  .next (settle (rxFrame 5 h link frame (readyIn frame) s))

/-- DONE received. -/
def doneIn (b : Bytes) (x : Hoop) : Hoop := noteEnd (field (frPayload b) 0 6) (frSrc b) (min 2 (field (frPayload b) 6 1)) x

def execDone (h : HoopId) (link : Nat) (frame : Bytes) (s : State) : Host.Outcome State Fault Refusal :=
  .next (settle (rxFrame 8 h link frame (doneIn frame) s))

/-- READY_DEADLINE of slot `s`, E - 20 us: a missing READY aborts; where all are in and GO waits for R410's conditions the
comparator takes E - 10 us. -/
def readyDeadline (s : Nat) (x : Hoop) : Hoop :=
  match smFind x.wlm.fabs s with
  | some f =>
    if !(f.init && decide (f.epoch ≤ x.now + 20000)) then x
    else if f.st = 1 then giveUp f true 11 2 (cmpFireDue (9 + s) x)
    else if f.st = 2 then (if mayGo x f then sendGo f (cmpFireDue (9 + s) x) else armAt (9 + s) (f.epochNs - 10000) (cmpFireDue (9 + s) x))
    else x
  | none => x

def execReadyDeadline (h : HoopId) (slot : Nat) (s : State) : Host.Outcome State Fault Refusal := .next (s.act h (readyDeadline slot))

/-- GO_SEND_DEADLINE of slot `s`: E - 10 us with GO not sent. -/
def goSendDeadline (s : Nat) (x : Hoop) : Hoop :=
  match smFind x.wlm.fabs s with
  | some f => if f.init && (f.st == 1 || f.st == 2) && decide (f.epoch ≤ x.now + 10000) then giveUp f false 0 0 (cmpFireDue (9 + s) x) else x
  | none => x

def execGoSendDeadline (h : HoopId) (slot : Nat) (s : State) : Host.Outcome State Fault Refusal := .next (s.act h (goSendDeadline slot))

/-- FABRIC_OUTCOME_TIMEOUT: E + 200 us; slots from 5 on name the records that have given their comparator back. -/
def outcomeTimeout (s : Nat) (x : Hoop) : Hoop :=
  match (if s < 5 then smFind x.wlm.fabs s else x.wlm.ended[s - 5]?) with
  | some f => if f.init && decide (f.epoch + 200000 ≤ x.now) then fabOutcome f x else x
  | none => x

def execFabricOutcomeTimeout (h : HoopId) (slot : Nat) (s : State) : Host.Outcome State Fault Refusal := .next (s.act h (outcomeTimeout slot))

end Sys2Proof.Machine
end

