-- ==== Sys2Proof/Machine/Flags.lean ====
section
/-!
DEFINITION. The register words: every register of the BAR0 blocks (R80, R303, R304, R341, R351, R379, R438, R457) and of the internal
register space (R137, R160, R180, R188, R212, R241, R274, R275, R305, R422, R437, R458) as a view of the state, with every flag
and field it reports; and the writes of BAR0 registers that have no behaviour of their own (R9, R343, R345).
-/

namespace Sys2Proof.Machine

/-! ## Fields -/

/-- A word from its fields: the lowest bit, the width and the value of each. -/
def regWord (fs : List (Nat × Nat × Nat)) : Word :=
  BitVec.ofNat 32 (fs.foldl (fun a f => a + f.2.2 % 2 ^ f.2.1 * 2 ^ f.1) 0)

/-- A word of 32 flags, bit j from `f (32 * w + j)`. -/
def flagWord (f : Nat → Bool) (w : Nat) : Word :=
  BitVec.ofNat 32 ((List.range 32).foldl (fun a j => a + bit (f (32 * w + j)) * 2 ^ j) 0)

/-- The low and the high word of a wider value. -/
def loWord (v : Nat) : Word := BitVec.ofNat 32 v
def hiWord (v : Nat) : Word := BitVec.ofNat 32 (v / 2 ^ 32)

/-- A signed value of up to 32 bits as a register shows it. -/
def signedWord (v : Int) : Word := BitVec.ofNat 32 (ofSigned 32 v)

/-- An array of `n` records of `stride` bytes at `base` holds this offset. -/
def inArr (off base stride n : Nat) : Bool := Nat.ble base off && Nat.blt off (base + stride * n)

/-! ## MBX (R351) -/

def mbxStatus (r : Nat) (g : Ring) : Word :=
  regWord [(0, 1, bit (g.bound || r == 0)), (1, 1, bit g.en), (2, 3, g.versions.toNat), (5, 1, bit g.cplFull), (6, 1, bit g.key.isSome),
    (7, 1, bit g.dmaErr), (8, 12, g.tenant)]

/-- A register of a ring's page; DB, the heads you write and CTRL are write-only and read 0. -/
def mbxRead (x : Hoop) (r off : Nat) : Word :=
  let g := x.ring r
  match off with
  | 0x000 => loWord g.cmdBase.toNat
  | 0x004 => hiWord g.cmdBase.toNat
  | 0x008 => g.cmdSize.setWidth 32
  | 0x00C => loWord g.cplBase.toNat
  | 0x010 => hiWord g.cplBase.toNat
  | 0x014 => loWord g.evtBase.toNat
  | 0x018 => hiWord g.evtBase.toNat
  | 0x01C => g.evtSize.setWidth 32
  | 0x02C => mbxStatus r g
  | 0x030 => loWord g.cmdHead
  | 0x034 => loWord g.cplTail
  | 0x038 => loWord g.evtTail
  | 0x03C => g.intr
  | 0x040 => g.green
  | 0x044 => g.yellow
  | 0x048 => g.red
  | 0x04C => g.evtDrop
  | 0x050 => regWord [(0, 16, g.tc), (16, 16, g.te)]
  | _ => 0

/-! ## EVT (R379) -/

def evtRead (x : Hoop) (off : Nat) : Word :=
  if off = 0 then regWord ((List.range 16).map (fun r => (r, 1, bit (x.ring r).en)) ++
    (List.range 16).map (fun r => (16 + r, 1, bit ((x.ring r).dropsPending != 0))))
  else if off = 4 then x.evt.raised
  else if off = 8 then x.evt.dropped
  else if inArr off 0x100 4 18 then flagWord (fun s => x.evt.sub.getLsbD s) ((off - 0x100) / 4)
  else if inArr off 0x1000 4 576 then smGet 0 x.evt.cnt ((off - 0x1000) / 4)
  else 0

/-! ## FC (R303) -/

/-- The highest severity of the sources that hold a flag; 0b111 for none. -/
def sevCode (x : Hoop) (p : Src → Bool) : Nat :=
  let l := x.fc.src.filterMap (fun e => if p e.2 then sevOf e.1 else none)
  if l.isEmpty then 7 else maxL l

def fcStatus (x : Hoop) : Word :=
  regWord [(0, 1, bit (x.fc.src.any (fun e => e.2.live))), (1, 3, sevCode x (·.live)), (4, 1, bit (x.fc.src.any (fun e => e.2.sticky))),
    (5, 3, sevCode x (·.sticky)), (8, 1, bit x.fc.dark), (9, 1, bit x.fc.pulse), (10, 1, bit (x.fc.src.any (fun e => e.2.wire))), (12, 1, 1)]

def fcRead (x : Hoop) (off : Nat) : Word :=
  if off = 0 then fcStatus x
  else if off = 4 then x.fc.first
  else if off = 8 then x.fc.firstTime
  else if off = 0x10 then regWord [(0, 1, bit x.fc.hold)]
  else if off = 0x14 then x.fc.newCnt
  else if off = 0x18 then x.fc.last
  else if off = 0x1C then x.fc.lastTime
  else if inArr off 0x100 4 7 then flagWord (fun s => (x.src s).sticky) ((off - 0x100) / 4)
  else if inArr off 0x120 4 7 then flagWord (fun s => (x.src s).live) ((off - 0x120) / 4)
  else if inArr off 0x140 4 7 then flagWord (fun s => (x.src s).wire) ((off - 0x140) / 4)
  else if inArr off 0x200 4 224 then
    let s := (off - 0x200) / 4
    regWord [(0, 3, if x.hasSrc s then (sevOf s).getD 0 else 0), (16, 16, (x.src s).cnt)]
  else if inArr off 0x600 4 224 then (x.src ((off - 0x600) / 4)).det.setWidth 32
  else if inArr off 0xA00 4 224 then (x.src ((off - 0xA00) / 4)).time
  else 0

/-! ## TB (R80) -/

/-- This hoop steers the time (R78): with the token, or alone once firmware runs. -/
def tokenTime (x : Hoop) : Bool := if Config.duplex x.part then x.pair.token else x.boot.fwRun

def tbStatus (x : Hoop) : Word :=
  regWord [(0, 3, x.tb.pri.st.code), (3, 3, x.tb.sec.st.code), (6, 1, x.tb.domSwitches), (7, 1, bit x.tb.pri.port), (8, 1, bit x.tb.sec.port),
    (9, 1, bit x.tb.timeValid), (10, 1, bit x.tb.stepClosed), (11, 1, bit (x.tb.linkOk && Config.duplex x.part)), (12, 1, bit (tokenTime x))]

/-- TB_CMPk_TIME and TB_CMPk_FINE. The fine delay runs to 31/16 ns and the register has four bits: it reads the delay of the last firing modulo 1 ns
(DESIGN CHOICE, assumption 130). -/
def cmpTime (x : Hoop) (k : Nat) : Word := BitVec.ofNat 32 ((x.tb.cmp k).t16 / 16)
def cmpFine (x : Hoop) (k : Nat) : Word := BitVec.ofNat 32 ((x.tb.cmp k).fine % 16)

def tbRead (x : Hoop) (off : Nat) : Word :=
  let t := x.tb
  match off with
  | 0x00 => t.cnt
  | 0x04 => t.fracLatch
  | 0x08 => loWord t.inc.toNat
  | 0x0C => hiWord t.inc.toNat
  | 0x10 => tbStatus x
  | 0x14 => t.wrap
  | 0x20 => t.snapCnt
  | 0x24 => t.snapFrac
  | 0x28 => loWord t.snapSec.toNat
  | 0x2C => hiWord t.snapSec.toNat
  | 0x30 => t.snapNs
  | 0x34 => loWord t.snap2Sec.toNat
  | 0x38 => hiWord t.snap2Sec.toNat
  | 0x3C => t.snap2Ns
  | 0x40 => loWord t.anchorCnt
  | 0x44 => loWord t.anchorSec
  | 0x48 => hiWord (t.anchorSec % 2 ^ 48)
  | 0x4C => loWord t.anchorNs
  | 0x50 => t.anchorGen
  | 0x60 => loWord (ofSigned 64 t.secOffset)
  | 0x64 => hiWord (ofSigned 64 t.secOffset)
  | 0x68 => signedWord t.secRate
  | 0x6C => t.secBase
  | 0x70 => signedWord t.pri.offset
  | 0x74 => t.pri.mpd
  | 0x78 => signedWord t.sec.offset
  | 0x80 => regWord [(0, 1, bit t.ppsEn), (1, 1, bit t.ppsGate), (8, 19, t.ppsWidth.toNat)]
  | 0x84 => t.ppsInStamp
  | 0x88 => t.ppsInFrac.setWidth 32
  | 0x8C => signedWord t.ppsInDev
  | 0x90 => t.ppsInLimit
  | 0xA0 => flagWord (fun k => k < 16 && (t.cmp k).armed) 0
  | 0xA4 => flagWord (fun k => k < 16 && (t.cmp k).fired) 0
  | 0xA8 => regWord [(0, 16, t.heldEvents.length + (x.cm.pending.filter (fun c => decide (x.now + 2000000000 < c.epoch))).length)]
  | _ =>
    if inArr off 0x100 8 16 then
      let k := (off - 0x100) / 8
      if off % 8 = 0 then cmpTime x k else if off % 8 = 4 then cmpFine x k else 0
    else 0

/-! ## HOOP (R341) -/

/-- HOOP_STATUS; in single-hoop parts DUPLEX and the peer's fields read 0. -/
def hoopStatus (x peer : Hoop) : Word :=
  let d := Config.duplex x.part
  regWord [(0, 1, bit x.isB), (1, 3, x.pair.role.code), (4, 1, bit d), (5, 1, bit x.pair.strap), (6, 1, bit x.pair.token),
    (7, 1, bit (d && peer.pair.token)), (8, 1, bit x.pair.proving), (9, 1, bit (d && x.eligFault)), (10, 1, bit (d && eligPlanned x peer)),
    (11, 1, bit x.pair.interlock), (12, 3, if d then peer.pair.role.code else 0)]

def hoopRead (x peer : Hoop) (off : Nat) : Word :=
  let p := x.pair
  match off with
  | 0x00 => hoopStatus x peer
  | 0x04 => regWord [(0, 16, p.health.toNat), (16, 16, if Config.duplex x.part then p.peerHealth.toNat else 0)]
  | 0x08 => regWord [(0, 16, p.hoCnt.toNat), (16, 16, p.hbCnt.toNat)]
  | 0x0C => p.hoLast
  | 0x10 => p.hoTime
  | 0x14 => regWord [(0, 8, provenTiles x), (8, 1, bit (heatersUp x))]
  | 0x18 => regWord [(0, 16, p.cmpSingle.toNat), (16, 16, p.cmpMis.toNat)]
  | 0x1C => p.cmpLast
  | 0x20 => regWord [(0, 8, p.awaiting.length), (16, 16, p.longestUs.toNat)]
  | 0x24 => p.late
  | 0x28 => regWord [(0, 13, p.ofm.length), (13, 1, bit x.ofmEyelet)]
  | _ => if inArr off 0x100 4 152 then flagWord (fun e => p.ofm.contains e) ((off - 0x100) / 4) else 0

/-! ## DK (R304) -/

def dkStatus (d : Dk) : Word :=
  regWord [(0, 1, bit d.force), (1, 1, bit d.armed), (2, 1, bit d.vouch), (3, 1, bit d.fcPar), (4, 1, bit d.imageBad), (5, 1, bit d.confirmed),
    (6, 1, bit d.remote)]

def dkRead (x : Hoop) (off : Nat) : Word :=
  let d := x.dk
  match off with
  | 0x00 => dkStatus d
  | 0x04 => d.cause
  | 0x08 => d.time
  | 0x0C => d.relTime
  | 0x10 => d.count
  | 0x14 => d.crc
  | 0x18 => d.sp.setWidth 32
  | _ =>
    if inArr off 0x100 4 256 then
      let i := (off - 0x100) / 4
      regWord [(0, 14, (smGet 0 d.codes (2 * i)).toNat), (16, 14, (smGet 0 d.codes (2 * i + 1)).toNat)]
    else 0

/-! ## VER (R457) -/

def verBoot (b : Boot) : Word :=
  regWord [(0, 3, b.stage.code), (3, 1, bit b.slot), (4, 4, b.fail0), (8, 4, b.fail1), (12, 4, b.failCause)]

/-- TMB_VERSION (R160). -/
def tmbVersion (x : Hoop) : Word := regWord [(0, 16, x.boot.romId.toNat), (16, 16, x.tmb.patchId.toNat)]

def verRead (x : Hoop) (off : Nat) : Word :=
  let b := x.boot
  match off with
  | 0x00 => regWord [(0, 16, (Config.deviceId x.part x.id).toNat), (16, 1, bit x.isB)]
  | 0x04 => b.dieRev.setWidth 32
  | 0x08 => b.fwId
  | 0x0C => b.fwBuild
  | 0x10 => regWord [(0, 16, b.svn.toNat), (16, 16, b.minSvn.toNat)]
  | 0x14 => tmbVersion x
  | 0x18 => x.tmb.patchCrc
  | 0x1C => verBoot b
  | 0x20 => regWord [(0, 1, bit b.causePor), (1, 1, bit b.causeMod), (2, 1, bit b.causePcie), (3, 1, bit b.causeWd)]
  | 0x24 => loWord x.wlm.id.toNat
  | 0x28 => hiWord x.wlm.id.toNat
  | 0x2C => loWord b.lattice.toNat
  | 0x30 => hiWord b.lattice.toNat
  | 0x34 => x.wlm.bootgen.setWidth 32
  | 0x38 => BitVec.ofNat 32 (min x.uptimeMs 0xFFFFFFFF)
  | 0x3C => loWord b.openMs
  | _ => 0

/-! ## PMC (R438) -/

def pmcRead (x : Hoop) (off : Nat) : Word :=
  let p := x.pmc
  if off = 0 then regWord [(0, 1, bit p.en), (1, 1, bit p.userEn), (2, 20, p.window.toNat)]
  else if off = 4 then regWord [(0, 1, bit p.winPending.isSome), (1, 1, bit (p.ovf != 0)), (2, 1, bit p.timeInvalid)]
  else if off = 8 then loWord p.gen
  else if off = 0xC then hiWord p.gen
  else if inArr off 0x100 4 8 then flagWord (fun c => p.ovf.getLsbD c) ((off - 0x100) / 4)
  else if inArr off 0x120 4 8 then flagWord (fun c => p.ovfEn.getLsbD c) ((off - 0x120) / 4)
  else if inArr off 0x140 4 8 then flagWord (fun c => p.reload.getLsbD c) ((off - 0x140) / 4)
  else if inArr off 0x1000 8 256 then
    let c := (off - 0x1000) / 8
    if off % 8 = 0 then loWord (smGet 0 p.cnt c).toNat else (smGet 0 p.latchHi c).setWidth 32
  else if inArr off 0x2000 8 256 then
    let c := (off - 0x2000) / 8
    if off % 8 = 0 then smGet 0 p.preLo c else hiWord (smGet 0 p.pre c).toNat
  else 0

/-- A word of one bank of the counter page (R432). -/
def bankRead (b : PmcBank) (off : Nat) : Word :=
  let cell := fun (l : List (BitVec 48)) (o : Nat) => if o % 8 = 0 then loWord (l.getD (o / 8) 0).toNat else hiWord (l.getD (o / 8) 0).toNat
  match off with
  | 0x00 => loWord b.gen
  | 0x04 => hiWord b.gen
  | 0x08 => b.stamp
  | 0x0C => loWord b.sec.toNat
  | 0x10 => hiWord b.sec.toNat
  | 0x14 => b.ns
  | 0x18 => BitVec.ofNat 32 b.window
  | 0x1C => b.flags
  | _ => if inArr off 0x100 4 512 then cell b.values (off - 0x100) else if inArr off 0x900 4 512 then cell b.deltas (off - 0x900) else 0

/-- The word at a BAR2 offset aligned to 4 bytes: the counter page, or 0 while USER_EN is 0 (R432, R433). -/
def bar2Read (x : Hoop) (off : Nat) : Word :=
  let p := x.pmc
  if !p.userEn then 0
  else match off / 0x2000 with
    | 0 => if off = 0 then BitVec.ofNat 32 (bit p.cur) else if off = 8 then loWord p.gen else if off = 0xC then hiWord p.gen else 0
    | 1 => bankRead p.bank0 (off % 0x2000)
    | 2 => bankRead p.bank1 (off % 0x2000)
    | _ => 0

/-! ## MSI-X table (R342) -/

/-- A word of an entry that nothing has written: vector control is masked, the rest 0 (assumption 124). -/
def msixDefault (w : Nat) : Word := if w % 4 = 3 then 1 else 0

/-- A word of the MSI-X table: 64 entries of address, upper address, data and vector control. -/
def msixRead (x : Hoop) (w : Nat) : Word := smGet (msixDefault w) x.mbx.msixTable w

/-- Write a word of the table: address bits [1:0] read 0, and of vector control the mask bit alone is kept (assumption 124). -/
def msixWrite (w : Nat) (v : Word) (x : Hoop) : Hoop :=
  let v := if w % 4 = 0 then v &&& 0xFFFFFFFC else if w % 4 = 3 then v &&& 1 else v
  { x with mbx := { x.mbx with msixTable := smSet (msixDefault w) x.mbx.msixTable w v } }

/-! ## BAR0 (R343) -/

/-- The word at a BAR0 offset aligned to 4 bytes; an offset that no block defines reads 0. A hoop that is held shows the VER block alone (R448). -/
def bar0Read (x peer : Hoop) (off : Nat) : Word :=
  if x.boot.stage == .held then (if off / 0x10000 = 6 then verRead x (off % 0x10000) else 0)
  else if Nat.blt off 0x10000 then mbxRead x (off / 0x1000) (off % 0x1000)
  else match off / 0x10000 with
    | 1 => evtRead x (off % 0x10000)
    | 2 => fcRead x (off % 0x10000)
    | 3 => tbRead x (off % 0x10000)
    | 4 => hoopRead x peer (off % 0x10000)
    | 5 => dkRead x (off % 0x10000)
    | 6 => verRead x (off % 0x10000)
    | 8 => pmcRead x (off % 0x10000)
    | 15 => if off % 0x10000 < 0x400 then msixRead x (off % 0x10000 / 4) else 0
    | _ => 0

/-! ## TMB (R160) -/

def TmbSt.code : TmbSt → Nat
  | .notStarted => 0 | .idle => 1 | .running => 2 | .waiting => 3 | .stopped => 4 | .halted => 5

/-- What Tambour does now (R160): STATE, OP, WAIT_COND. An operation that it may take is running until its row completes it; TILE_UPDATE waits for its
refresh slot, HANDOVER for the acknowledgement (R144). -/
def tmbNow (x : Hoop) : TmbSt × BitVec 6 × Nat :=
  let t := x.tmb
  match if t.runs then nextOp x else none with
  | none => (t.st, match t.run with | some r => r.op.code | none => t.op, if t.st = .waiting then t.waitCond.toNat else 0)
  | some o => if o.code = 4 then (.waiting, o.code, 4) else if o.code = 0xA then (.waiting, o.code, 5) else (.running, o.code, 0)

def tmbStatus (x : Hoop) : Word :=
  let t := x.tmb
  let (st, op, wait) := tmbNow x
  regWord [(0, 3, st.code), (3, 6, op.toNat), (9, 1, bit t.savedN.isSome), (10, 1, bit t.savedU.isSome), (11, 1, bit t.patchLock),
    (12, 1, bit t.dacStaged), (13, 5, wait), (18, 1, bit t.abortValid)]

/-- Set bits of a mask. -/
def popCount {w : Nat} (m : BitVec w) : Nat := (List.range w).foldl (fun a i => a + bit (m.getLsbD i)) 0

def tmbRead (x : Hoop) (off : Nat) : Word :=
  let t := x.tmb
  match off with
  | 0x00 => tmbVersion x
  | 0x04 => t.patchCrc
  | 0x08 => tmbStatus x
  | 0x0C => t.upc.setWidth 32
  | 0x10 => t.abortInfo
  | 0x14 => t.abortCtx
  | 0x18 => t.abortTime
  | 0x1C => t.abortPre
  | 0x20 => regWord [(0, 16, t.eccMicro.toNat), (16, 16, t.eccNano.toNat)]
  | 0x24 => t.eccLast
  | 0x28 => regWord [(0, 6, t.urgentQ.length), (8, 6, t.normalQ.length), (16, 8, t.urgentMax), (24, 8, t.normalMax)]
  | 0x2C => t.opsDone
  | 0x30 => t.waitTo
  | 0x34 => regWord [(0, 10, popCount t.darkReq)]
  | _ =>
    if inArr off 0x40 4 32 then smGet 0 t.matchRegs ((off - 0x40) / 4) &&& 0x800FFFFF
    else if inArr off 0xC0 4 64 then smGet 0 t.overrides ((off - 0xC0) / 4) &&& 0x800000FF
    else if inArr off 0x200 4 64 then (Config.dispatchRom ((off - 0x200) / 4)).setWidth 32
    else 0

/-! ## PRK (R137) -/

/-- Cycles left of the active list; 0 while it runs for ever. -/
def repeatLeft (p : Prk) : Nat :=
  match p.active with
  | some l => if l.repeats = 0 then 0 else l.repeats - (if p.started then p.cycleNum else l.startK)
  | none => 0

/-- Count of the armed swap or stop boundary. -/
def swapCount (p : Prk) : Nat :=
  match p.swap, p.stopAt with
  | some l, _ => l.startAt
  | none, some b => b
  | none, none => 0

def prkStatus (x : Hoop) : Word :=
  let p := x.prk
  regWord [(0, 1, bit p.active.isSome), (1, 1, bit (p.activeStore.getD false)), (2, 1, bit p.swap.isSome), (3, 1, bit p.stopAt.isSome),
    (4, 2, p.curType.toNat), (6, 1, bit p.heldNow), (7, 1, bit (p.active.isSome && nextCatchup x)), (8, 2, p.endCause.toNat)]

def prkRead (x : Hoop) (off : Nat) : Word :=
  let p := x.prk
  match off with
  | 0x00 => prkStatus x
  | 0x04 => loWord ((p.active.map (·.cycle)).getD 0)
  | 0x08 => loWord p.cycleStart
  | 0x0C => loWord p.cycleNum
  | 0x10 => loWord (repeatLeft p)
  | 0x14 => regWord [(0, 10, p.pos)]
  | 0x18 => loWord p.nextEpoch
  | 0x1C => p.startK
  | 0x20 => loWord (p.base / 1000000000)
  | 0x24 => hiWord (p.base / 1000000000)
  | 0x28 => loWord (p.base % 1000000000)
  | 0x2C => loWord (swapCount p)
  | 0x30 => p.held
  | 0x34 => p.heldLast
  | 0x38 => regWord [(0, 11, p.short), (16, 10, p.firstShort)]
  | 0x3C => if p.active.isSome then regWord [(0, 7, (x.cm.pending.filter (·.placed)).length)] else 0
  | 0x40 => regWord [(0, 1, bit x.recompAt.isSome)]
  | 0x44 => loWord (x.recompAt.getD 0)
  | _ =>
    if inArr off 0x80 4 8 then flagWord (fun k => (p.slot k).kind != .empty) ((off - 0x80) / 4)
    else if inArr off 0xA0 4 8 then flagWord (fun k => (p.slot k).kind == .mask) ((off - 0xA0) / 4)
    else if inArr off 0xC0 4 8 then flagWord (fun k => (p.slot k).verified) ((off - 0xC0) / 4)
    else 0

/-! ## NDL and HTR (R180) -/

/-- A tile's discharge switch is closed until its first drive window begins (R177). -/
def discharged (x : Hoop) (t : Nat) : Bool := !(x.tile t).driven

def ndlStatus (x : Hoop) : Word :=
  regWord [(0, 1, bit x.drv.outEn), (1, 1, bit x.drv.refRun), (2, 1, bit x.drv.nFirstDone), (3, 1, bit ((List.range x.nT).any (discharged x))),
    (4, 1, bit x.dk.force)]

def ndlTile (t : Tile) : Word :=
  regWord [(0, 1, bit t.nSlew), (1, 8, t.nStep.toNat), (9, 10, t.nPeriod.toNat), (19, 1, bit t.dith), (20, 1, bit t.written)]

def ndlRead (x : Hoop) (off : Nat) : Word :=
  let d := x.drv
  match off with
  | 0x00 => ndlStatus x
  | 0x04 => loWord d.refOrigin
  | 0x08 => regWord [(0, 8, d.refSlot.toNat), (8, 24, d.refFrame.toNat)]
  | 0x0C => d.refSkip
  | 0x10 => regWord [(0, 16, d.chkPost.toNat), (16, 16, d.chkPre.toNat)]
  | 0x14 => d.chkLast
  | 0x18 => d.chkTime
  | 0x1C => d.dglCnt
  | 0x20 => regWord [(0, 13, (d.needles.filter (fun e => e.2.masked)).length)]
  | 0x24 => d.nClamp
  | _ =>
    if inArr off 0x100 4 x.nT then ndlTile (x.tile ((off - 0x100) / 4))
    else if inArr off 0x400 4 x.nT then flagWord (fun e => (x.needle e).masked) ((off - 0x400) / 4)
    else if inArr off 0x800 8 16 then
      let q := x.tone ((off - 0x800) / 8)
      if off % 8 = 0 then q.ftw else regWord [(0, 6, q.amp.toNat), (31, 1, bit q.en)]
    else if inArr off 0x1000 8 x.nE then
      let e := (off - 0x1000) / 8
      let n := x.needle e
      if off % 8 = 0 then regWord [(0, 14, n.reg.toNat), (16, 14, (x.activeCode e).toNat)]
      else regWord [(0, 14, (x.idleCode e).toNat), (14, 1, bit n.masked), (15, 1, bit n.ramp), (16, 4, n.tone.toNat), (20, 2, n.dtarget.toNat)]
    else 0

def htrStatus (x : Hoop) : Word := regWord [(0, 1, bit x.drv.hOutEn), (1, 1, bit x.drv.hFirstDone), (2, 1, bit (decide (x.drv.hCeil.toNat < x.drv.hSum)))]

def htrRead (x : Hoop) (off : Nat) : Word :=
  let d := x.drv
  match off with
  | 0x00 => htrStatus x
  | 0x04 => loWord d.hSum
  | 0x08 => d.hCeil
  | 0x0C => d.rangeChg
  | 0x10 => d.hClamp
  | 0x14 => d.complCnt
  | 0x18 => d.complLast.setWidth 32
  | _ =>
    if inArr off 0x100 4 x.nT then
      let t := x.tile ((off - 0x100) / 4)
      regWord [(0, 1, bit t.hSlew), (1, 8, t.hStep.toNat), (9, 10, t.hPeriod.toNat)]
    else if inArr off 0x1000 4 x.nE then
      let e := (off - 0x1000) / 4
      let v := x.heater e
      regWord [(0, 12, v.out.toNat), (12, 1, bit v.range), (16, 12, v.tgt.toNat), (28, 1, bit v.tgtRange),
        (29, 1, bit ((x.tile (e / 32)).hSlew && v.out != v.tgt)), (30, 1, bit v.compl), (31, 1, bit v.hold)]
    else 0

/-! ## MON and the result buffer (R188, R212) -/

/-- This hoop writes the monitor plane (R205): with the plane given to it, or alone once firmware runs. -/
def planeWrites (x : Hoop) : Bool := if Config.duplex x.part then x.mon.planeWr else x.boot.fwRun

def monStatus (x : Hoop) : Word :=
  let m := x.mon
  regWord [(0, 1, bit m.refOk), (1, 2, m.refSrc.toNat), (3, 1, bit m.refFallback), (4, 1, bit m.calRun),
    (5, 1, bit (m.groups.any (fun e => e.2.calBlocked))), (6, 1, bit (planeWrites x)), (8, 6, (m.groups.filter (fun e => e.2.lost)).length)]

/-- MON_CAL_STATUS [12:0]: the channel in calibration. -/
def calChan (m : Mon) : Nat :=
  match m.cal with
  | some q => q.chan
  | none => 0x1FFF

def monGroup (now : Nat) (g : Group) : Word :=
  regWord [(0, 2, (g.profileAt now).toNat), (2, 1, bit g.lost), (3, 1, bit g.spareAdc), (4, 1, bit g.calBlocked), (5, 5, g.inj.length), (16, 16, g.passRate.toNat)]

/-- The trim that the DAC holds: of the present range. -/
def trimOf (l : List (BitVec 8)) (r : BitVec 2) : Nat := (l.getD r.toNat 0).toNat

/-- The offset trim of a channel is held at +64 steps: a zero measurement of its calibration (R201). -/
def zeroPhase (m : Mon) (k : Nat) : Bool :=
  match m.cal with
  | some q => q.chan == k && (m.chans.any (fun e => e.1 == k && e.2.spare)) && !q.hold && (q.ph == .zero0 || q.ph == .zero1 || q.ph == .zero2)
  | none => false

def monChan (m : Mon) (k : Nat) (c : Chan) : Word :=
  regWord [(0, 2, c.range.toNat), (2, 1, bit c.auto), (3, 1, bit c.presel), (4, 1, bit c.spare), (5, 1, bit c.lost), (6, 1, bit c.calFail),
    (8, 8, if zeroPhase m k then 64 else trimOf c.ofs c.range), (16, 8, trimOf c.gain c.range)]

def monRead (x : Hoop) (off : Nat) : Word :=
  let m := x.mon
  match off with
  | 0x00 => monStatus x
  | 0x04 => m.refSrc.setWidth 32
  | 0x08 => m.refMeas
  | 0x0C => regWord [(0, 1, bit m.calEn), (1, 12, m.calInterval.toNat)]
  | 0x10 => regWord [(0, 13, calChan m), (13, 1, bit m.sparePass), (14, 1, bit m.calPaused), (15, 1, bit m.calIMissing), (16, 16, m.calFailed.toNat)]
  | 0x14 => m.calRound
  | 0x18 => m.calTime
  | 0x1C => regWord [(0, 6, m.spare0.toNat), (6, 1, bit m.spare0Perm), (8, 6, m.spare1.toNat), (14, 1, bit m.spare1Perm)]
  | 0x20 => m.ovrCnt
  | 0x24 => m.refnokCnt
  | 0x28 => regWord [(0, 13, (m.chans.filter (fun e => e.2.lost)).length)]
  | _ =>
    if inArr off 0x100 4 x.nG then (x.group ((off - 0x100) / 4)).profile.setWidth 32
    else if inArr off 0x200 4 x.nG then monGroup x.now (x.group ((off - 0x200) / 4))
    else if inArr off 0x400 16 x.nG then flagWord (fun c => c < Config.chans x.part && (x.chan c).lost) ((off - 0x400) / 4)
    else if inArr off 0x8000 4 (Config.chans x.part) then monChan m ((off - 0x8000) / 4) (x.chan ((off - 0x8000) / 4))
    else 0

/-- The result word and its stamp; a lost channel reads 0 in every field. -/
def resultPair (x : Hoop) (c : Nat) : Word × Word :=
  let v := x.chan c
  if v.lost || Nat.ble (Config.chans x.part) c then (0, 0) else (v.word, v.stamp)

/-! ## BOB (R241) -/

def coefRead (c : Coef) (i : Nat) : Word :=
  match i with
  | 0 => c.kp
  | 1 => c.ki
  | 2 => c.kd
  | 3 => c.a.setWidth 32
  | 4 => c.imin
  | 5 => c.imax
  | 6 => c.cfg
  | 7 => c.lim.setWidth 32
  | _ => 0

def bobElem (l : Loop) : Word :=
  regWord [(0, 4, l.set.toNat), (4, 3, l.st.code), (7, 1, bit l.sigma), (8, 1, bit l.rlim), (9, 1, bit l.isat), (10, 1, bit l.note), (16, 16, l.ff)]

/-- BOB: `util` is the free value of BOB_UTIL, a measurement of the run. -/
def bobRead (x : Hoop) (util off : Nat) : Word :=
  let b := x.bob
  match off with
  | 0x00 => regWord [(0, 1, bit b.run), (1, 1, bit b.follow), (2, 1, bit (b.cap != 0xFFFFFFFF)), (3, 1, bit (b.run && x.pricking))]
  | 0x04 => regWord [(0, 8, util % 101), (8, 8, util / 101 % 101)]
  | 0x08 => b.tick
  | 0x0C => b.nbrTau.setWidth 32
  | 0x10 => b.cap
  | 0x14 => regWord [(0, 13, (b.loops.filter (fun e => e.2.rlim)).length)]
  | 0x18 => b.slow
  | 0x1C => b.degCnt
  | 0x20 => b.flipCnt
  | 0x24 => b.swapRef.setWidth 32 <<< 16 ||| b.swapPend.setWidth 32
  | 0x28 => if Config.duplex x.part then b.cmpDiff else 0
  | _ =>
    if inArr off 0x100 32 16 then coefRead (b.sets.getD ((off - 0x100) / 32) {}) (off % 32 / 4)
    else if inArr off 0x300 32 16 then coefRead (b.shadows.getD ((off - 0x300) / 32) {}) (off % 32 / 4)
    else if inArr off 0x1000 8 x.nE then
      let l := x.loop ((off - 0x1000) / 8)
      if off % 8 = 0 then bobElem l else signedWord l.i
    else if inArr off 0xB000 4 x.nE then signedWord (x.loop ((off - 0xB000) / 4)).d
    else 0

/-! ## TEC and THS (R274, R275) -/

def tecStatus (t : Tec) : Word :=
  regWord [(0, 1, bit t.en), (1, 1, bit t.drive), (2, 1, bit t.z0.trip), (3, 1, bit t.z1.trip), (4, 1, bit t.z0.tripLive), (5, 1, bit t.z1.tripLive),
    (6, 1, bit t.dbgHalt), (7, 1, bit t.settled), (8, 1, bit t.spLost), (9, 1, bit t.z0.ilimAct), (10, 1, bit t.z1.ilimAct),
    (11, 3, t.z0.brgLvl.toNat), (14, 3, t.z1.brgLvl.toNat), (17, 1, bit (t.z0.brgSd || t.z1.brgSd))]

/-- The registers of one zone; KH stands there once firmware has put the factory value in. -/
def zoneRead (x : Hoop) (z : Bool) (i : Nat) : Word :=
  let v := x.tec.zone z
  match i with
  | 0 => regWord [(0, 16, ofSigned 16 v.u)]
  | 1 => regWord [(0, 13, v.active.toNat), (16, 13, v.shadow.toNat)]
  | 2 => signedWord v.i
  | _ => regWord [(0, 16, ofSigned 16 (ulim x z)), (16, 16, if x.boot.fwRun then (Config.tecKH (bit z)).toNat else 0)]

def tecRead (x : Hoop) (off : Nat) : Word :=
  let t := x.tec
  match off with
  | 0x00 => tecStatus t
  | 0x04 => regWord [(0, 13, t.period.toNat), (13, 10, t.deadT.toNat)]
  | 0x08 => t.setpt.setWidth 32
  | 0x0C => t.eff.setWidth 32
  | 0x10 => t.src.setWidth 32
  | 0x14 => regWord [(0, 16, t.ilimNom.toNat), (16, 16, t.ifull.toNat)]
  | 0x18 => regWord [(0, 16, t.z0.tripCnt.toNat), (16, 16, t.z1.tripCnt.toNat)]
  | _ =>
    if inArr off 0x20 16 2 then zoneRead x (decide (off ≥ 0x30)) (off % 16 / 4)
    else if inArr off 0x100 32 2 then (if off % 32 < 24 then coefRead (t.zone (decide (off ≥ 0x120))).coef (off % 32 / 4) else 0)
    else if inArr off 0x200 32 2 then (if off % 32 < 24 then coefRead (t.zone (decide (off ≥ 0x220))).sh (off % 32 / 4) else 0)
    else 0

/-- Temperatures are signed 16-bit fields. -/
def temp16 (t : Int) : Nat := ofSigned 16 t

def brgWarn (t : Tec) : Bool := t.z0.brgWarn || t.z1.brgWarn

def thsStatus (x : Hoop) : Word :=
  let t := x.ths
  regWord [(0, 6, suspects x), (6, 1, bit t.suspectFlt), (7, 1, bit t.jctWarn), (8, 1, bit t.latWarn), (9, 1, bit (brgWarn x.tec)),
    (10, 1, bit (t.coldWarn || t.ambWarn)), (11, 3, t.latLvl.toNat), (14, 3, t.jctLvl.toNat), (17, 1, bit t.mramOk), (18, 1, bit t.commitOk),
    (19, 1, bit t.latSd), (20, 1, bit t.jctSd), (21, 4, t.thmFlt.toNat)]

/-- The THS block. The table gives every THS_DIODEj the reset value 0 and bit 19 is the zone that R242 fixes: it reads 1 at reset for a diode of zone 1
(DESIGN CHOICE, assumption 138). -/
def thsRead (x : Hoop) (off : Nat) : Word :=
  let t := x.ths
  match off with
  | 0x00 => thsStatus x
  | 0x04 => regWord [(0, 16, temp16 x.tec.z0.mean)]
  | 0x08 => regWord [(0, 16, temp16 x.tec.z1.mean)]
  | 0x0C => regWord [(0, 16, temp16 t.peak), (16, 5, t.peakIx.toNat)]
  | 0x10 => regWord [(0, 16, temp16 t.jct), (16, 16, temp16 t.jctMin)]
  | 0x40 => t.jctThr.setWidth 32
  | 0x44 => t.latThr.setWidth 32
  | 0x48 => t.brgThr.setWidth 32
  | 0x4C => t.auxThr.setWidth 32
  | _ =>
    if inArr off 0x20 4 4 then regWord [(0, 16, temp16 (t.thm.getD ((off - 0x20) / 4) 0))]
    else if inArr off 0x100 4 32 then
      let j := (off - 0x100) / 4
      let d := x.diode j
      regWord [(0, 16, temp16 d.t), (16, 1, bit d.suspect), (17, 2, d.strikes.toNat), (19, 1, bit (diodeZone j))]
    else if inArr off 0x200 4 8 then regWord [(0, 16, temp16 (t.dies.getD ((off - 0x200) / 4) 0))]
    else 0

/-! ## JNL (R305) -/

def jnlRead (x : Hoop) (off : Nat) : Word :=
  let j := x.jnl
  match off with
  | 0x00 => regWord [(0, 1, bit j.writing), (1, 1, bit j.deferred), (2, 1, bit j.holdupOk), (3, 1, bit j.final)]
  | 0x04 => regWord [(0, 19, j.head)]
  | 0x08 => j.seq
  | 0x0C => regWord [(0, 11, j.buf.length)]
  | 0x10 => j.lost
  | 0x14 => j.holdup.setWidth 32
  | 0x18 => j.holdupMin.setWidth 32
  | 0x1C => j.bursts
  | _ => 0

/-! ## WLM (R422) -/

def wlmStatus (x : Hoop) : Word :=
  let w := x.wlm
  regWord [(0, 12, w.addr.toNat), (12, 1, bit w.isLeader), (13, 1, bit w.conflict), (14, 4, (x.upLinks.foldl (fun a k => a + 2 ^ k) 0)),
    (18, 4, w.linkEn.toNat), (22, 3, (w.fabs.filter (fun e => e.2.st != 5 && e.2.st != 0)).length)]

/-- The registers of link `k`. The table gives WLM_Lk_STATUS the reset value 0 and R392 enables the links at reset, LINK_EN being 0xF: EN reads 1 at
reset (DESIGN CHOICE, assumption 137). -/
def linkRead (x : Hoop) (k i : Nat) : Word :=
  let l := x.link k
  match i with
  | 0 => regWord [(0, 1, bit l.up), (1, 1, bit (x.wlm.linkEn.getLsbD k)), (2, 1, bit l.lock0), (3, 1, bit l.lock1), (4, 1, bit l.aligned), (8, 12, l.nbrAddr.toNat)]
  | 1 => loWord l.nbrId.toNat
  | 2 => hiWord l.nbrId.toNat
  | 3 => l.tx
  | 4 => l.rx
  | 5 => l.crc
  | 6 => regWord [(0, 16, l.ctlDrop.toNat), (16, 16, l.telDrop.toNat)]
  | _ => signedWord l.tofs

def fabRead (x : Hoop) (s i : Nat) : Word :=
  match smFind x.wlm.fabs s with
  | none => 0
  | some f =>
    match i with
    | 0 => loWord f.fcid
    | 1 => regWord [(0, 16, f.fcid / 2 ^ 32), (16, 12, f.initiator)]
    | 2 => loWord f.epoch
    | _ => regWord [(0, 3, f.st), (3, 1, bit f.init), (4, 4, f.members.length), (8, 4, f.readyIn.length), (12, 3, s)]

def wlmRead (x : Hoop) (off : Nat) : Word :=
  let w := x.wlm
  match off with
  | 0x00 => wlmStatus x
  | 0x04 => loWord w.id.toNat
  | 0x08 => hiWord w.id.toNat
  | 0x0C => loWord w.leader.toNat
  | 0x10 => hiWord w.leader.toNat
  | 0x14 => regWord [(0, 4, w.leaderDist)]
  | 0x18 => w.bootgen.setWidth 32
  | 0x1C => w.pref.setWidth 32
  | 0x20 => regWord [(0, 16, w.telInterval.toNat), (16, 16, w.tcLimit.toNat)]
  | 0x24 => regWord [(0, 16, w.ttlDiscard.toNat), (16, 16, w.noRoute.toNat)]
  | 0x28 => w.dup
  | 0x2C => regWord [(0, 16, w.noticeTx.toNat), (16, 16, w.noticeRx.toNat)]
  | 0x30 => regWord [(0, 16, w.fcInit.toNat), (16, 16, w.fcNotComplete.toNat)]
  | _ =>
    if inArr off 0x100 32 4 then linkRead x ((off - 0x100) / 32) (off % 32 / 4)
    else if inArr off 0x200 16 5 then fabRead x ((off - 0x200) / 16) (off % 16 / 4)
    else 0

def rtRead (x : Hoop) (a i : Nat) : Word :=
  let v := x.rt a
  match i with
  | 0 => regWord [(0, 5, v.dist), (5, 3, v.port), (8, 1, bit v.valid), (16, 16, v.bootgen.toNat)]
  | 1 => loWord v.id.toNat
  | 2 => hiWord v.id.toNat
  | _ => BitVec.ofNat 32 (min ((x.now - v.at_) / 1000000) 0xFFFF)

/-! ## XBAR and PWR (R437, R458) -/

def xbarRead (x : Hoop) (off : Nat) : Word :=
  match off with
  | 0x00 => x.xbar.busy.setWidth 32
  | 0x04 => x.xbar.defInfo
  | 0x08 => x.xbar.defAddr
  | 0x0C => x.xbar.defTime
  | 0x10 => x.xbar.rstLast
  | 0x14 => x.xbar.rstTime
  | _ => if inArr off 0x100 4 10 then smGet 0 x.xbar.tgt ((off - 0x100) / 4) else 0

def Hoop.rail (x : Hoop) (i : Nat) : Rail := smGet {} x.pwr.rails i

/-- PWR: `failN` is the ball PWR_FAIL_N. -/
def pwrRead (x : Hoop) (failN : Bool) (off : Nat) : Word :=
  if off = 0 then flagWord (fun i => (i < 9 && (x.rail i).ok) || (i == 9 && !failN) || (i == 10 && x.jnl.holdupOk)) 0
  else if off = 4 then x.pwr.excur
  else if inArr off 0x100 4 9 then
    let r := x.rail ((off - 0x100) / 4)
    regWord [(0, 16, r.mv.toNat), (16, 16, r.lowest.toNat)]
  else 0

/-! ## The internal register space -/

/-- The word at an internal address aligned to 4 bytes (R372): unmapped words read 0. `failN` is PWR_FAIL_N, `util` the free value of
BOB_UTIL. -/
def intRead (x : Hoop) (failN : Bool) (util addr : Nat) : Word :=
  if inArr addr 0x01800000 8 (Config.chans x.part) then
    (if addr % 8 = 0 then (resultPair x ((addr - 0x01800000) / 8)).1 else (resultPair x ((addr - 0x01800000) / 8)).2)
  else
    let off := addr % 0x10000
    match addr / 0x10000 with
    | 0x101 => tmbRead x off
    | 0x102 => prkRead x off
    | 0x103 => ndlRead x off
    | 0x104 => htrRead x off
    | 0x105 => monRead x off
    | 0x106 => bobRead x util off
    | 0x107 => tecRead x off
    | 0x108 => thsRead x off
    | 0x109 => jnlRead x off
    | 0x10A => wlmRead x off
    | 0x10B => rtRead x (off / 16) (off % 16 / 4)
    | 0x10C => xbarRead x off
    | 0x10D => pwrRead x failN off
    | _ => 0

/-! ## REGISTER_WRITE (R9, R343, R345) -/

/-- The low or the high half of a base, its alignment bits 0. -/
def putLo (base : BitVec 64) (v : Word) (align : Nat) : BitVec 64 :=
  BitVec.ofNat 64 (base.toNat / 2 ^ 32 * 2 ^ 32 + v.toNat / align * align)

def putHi (base : BitVec 64) (v : Word) : BitVec 64 := BitVec.ofNat 64 (v.toNat * 2 ^ 32 + base.toNat % 2 ^ 32)

/-- A write in a ring's page: bases and sizes only while EN is 0 (R345); an undefined size is ignored (R9). -/
def mbxWrite (off : Nat) (v : Word) (g : Ring) : Ring :=
  match off with
  | 0x000 => if g.en then g else { g with cmdBase := putLo g.cmdBase v 64 }
  | 0x004 => if g.en then g else { g with cmdBase := putHi g.cmdBase v }
  | 0x008 => if g.en || Nat.blt 8 (v.toNat % 16) then g else { g with cmdSize := BitVec.ofNat 4 v.toNat }
  | 0x00C => if g.en then g else { g with cplBase := putLo g.cplBase v 32 }
  | 0x010 => if g.en then g else { g with cplBase := putHi g.cplBase v }
  | 0x014 => if g.en then g else { g with evtBase := putLo g.evtBase v 64 }
  | 0x018 => if g.en then g else { g with evtBase := putHi g.evtBase v }
  | 0x01C => if g.en || Nat.blt 7 (v.toNat % 16) then g else { g with evtSize := BitVec.ofNat 4 v.toNat }
  | 0x03C => { g with intr := v &&& 0xFFFFFF03 }
  | _ => g

/-- A word of a 256-bit map, of counters that exist. -/
def putMap (m : BitVec 256) (part : Part) (w : Nat) (v : Word) : BitVec 256 :=
  let keep := m &&& ~~~ (mapWord w 0xFFFFFFFF)
  (List.range 32).foldl (fun a j => if v.getLsbD j && pmcExists part (32 * w + j) then a ||| BitVec.twoPow 256 (32 * w + j) else a) keep

/-- A write in the PMC block of OVF_EN, RELOAD and the preloads' low words (R438). -/
def pmcWrite (part : Part) (off : Nat) (v : Word) (p : Pmc) : Pmc :=
  if inArr off 0x120 4 8 then { p with ovfEn := putMap p.ovfEn part ((off - 0x120) / 4) v }
  else if inArr off 0x140 4 8 then { p with reload := putMap p.reload part ((off - 0x140) / 4) v }
  else if inArr off 0x2000 8 256 && off % 8 == 0 && pmcExists part ((off - 0x2000) / 8) then
    { p with preLo := smSet 0 p.preLo ((off - 0x2000) / 8) v }
  else p

/-- A write of one aligned 32-bit word; a register with behaviour of its own is written by its own row. -/
def bar0Write (off : Nat) (v : Word) (x : Hoop) : Hoop :=
  if Nat.blt off 0x10000 then x.updRing (off / 0x1000) (mbxWrite (off % 0x1000) v)
  else if off = 0x30090 then { x with tb := { x.tb with ppsInLimit := v } }
  else if off / 0x10000 = 8 then { x with pmc := pmcWrite x.part (off % 0x10000) v x.pmc }
  else if 0xF0000 ≤ off ∧ off < 0xF0400 then msixWrite ((off - 0xF0000) / 4) v x
  else x

/-- REGISTER_WRITE: an access of another size or alignment is ignored. -/
def execRegisterWrite (h : HoopId) (off size : Nat) (v : BitVec 32) (s : State) : Host.Outcome State Fault Refusal :=
  .next (if size = 4 ∧ off % 4 = 0 then s.act h (bar0Write off v) else s)

end Sys2Proof.Machine
end

