-- ==== Sys2Proof/Machine/Diagnostics.lean ====
section
/-!
DEFINITION. The diagnostic commands of ring 0 (R372, R373) and what a management controller reads over SMBus (R474).
-/

namespace Sys2Proof.Machine

/-- Counts of the largest member: a name beyond it is a field error; one beyond this part alone is refused with NOT_OWNER (R4). -/
def familyElems : Nat := Config.elems .qn0512
def familyChans : Nat := Config.chans .qn0512

/-- Whether a span of names lies within a count. -/
def within (first n count : Nat) : Bool := Nat.ble (first + n) count

/-! ## REG_READ -/

/-- REG_READ: internal address 4 B, words 2 B; `failN` is the ball PWR_FAIL_N. -/
def regReadVerb (failN : Bool) : Verb :=
  { check := fun k _ => decide (1 ≤ k.par 4 2 ∧ k.par 4 2 ≤ 1024)
    run := fun k x =>
      let f := x.fresh
      let a := k.par 0 4 / 4 * 4
      respond k 4 ((List.range (k.par 4 2)).map (fun i => leBytes 4 (intRead x failN f.1 (a + 4 * i)).toNat)) f.2 }

def execRegRead (h : HoopId) (r : Nat) (s : State) : Host.Outcome State Fault Refusal := .next (s.serve h r 0x60 (regReadVerb s.balls.pwrFailN))

/-! ## SAMPLER_READ -/

/-- Bytes of the sampler region at an offset. -/
def samplerBytes (x : Hoop) (off n : Nat) : Bytes := memRead x.mram (samplerBase + off) n

/-- Records, header, egress table entry or factory HBIAS, as kind 0 to 3 says. -/
def samplerRecs (x : Hoop) (kind e : Nat) (band : Bool) (first n : Nat) : Nat × List Bytes :=
  match kind with
  | 0 => (32, (List.range n).map (fun i => recBytes x.mram e band (first + i)))
  | 1 => (4096, [samplerBytes x 0 4096])
  | 2 => (2, [samplerBytes x (0x4C1000 + (e * 2 + bit band) * 2) 2])
  | _ => (2, (List.range n).map (fun i => samplerBytes x (0x4C2000 + 2 * recIndex e band (first + i)) 2))

/-- SAMPLER_READ: kind, element (out port for the egress table), band, first point, points. -/
def samplerReadVerb : Verb :=
  { check := fun k _ =>
      let kind := k.par 0 1
      decide (kind ≤ 3) && (kind == 1 || (decide (k.par 3 1 ≤ 1) &&
        (if kind = 2 then decide (k.par 1 2 < 512) else within (k.par 1 2) 1 familyElems && within (k.par 4 1) (k.par 5 1) 16)))
    run := fun k x =>
      let kind := k.par 0 1
      let e := k.par 1 2
      if (kind = 2 ∧ x.n ≤ e) ∨ ((kind = 0 ∨ kind = 3) ∧ x.nE ≤ e) then ({ status := 6 }, x)
      else
        let q := samplerRecs x kind e (k.par 3 1 == 1) (k.par 4 1) (k.par 5 1)
        respond k q.1 q.2 x }

def execSamplerRead (h : HoopId) (r : Nat) (s : State) : Host.Outcome State Fault Refusal := .next (s.serve h r 0x61 samplerReadVerb)

/-! ## JOURNAL_READ -/

/-- A record as the ring stores it, its FLAGS bit 7 set where its CRC is bad (R297); a slot never written gives none. -/
def journalSlot (m : List Host.Cell) (slot : Nat) : Option Bytes :=
  let b := memRead m (64 * slot) 64
  if b.all (· == 0) then none
  else if field b 60 4 = (crc32 (b.take 60)).toNat then some b
  else some (b.take 3 ++ [(b.getD 3 0) ||| 0x80] ++ b.drop 4)

/-- The slot of a SEQ, counted back from the head: none for a record not yet written or written over. -/
def slotOf (j : Jnl) (q : Nat) : Option Nat :=
  let back := (j.seq.toNat + 2 ^ 32 - q % 2 ^ 32) % 2 ^ 32
  if 1 ≤ back ∧ back ≤ 393216 then some ((j.head + 393216 - back) % 393216) else none

/-- JOURNAL_READ: first SEQ 4 B, count 2 B. -/
def journalReadVerb : Verb :=
  { check := fun k _ => decide (1 ≤ k.par 4 2 ∧ k.par 4 2 ≤ 1024)
    run := fun k x =>
      respond k 64 ((List.range (k.par 4 2)).filterMap (fun i =>
        match slotOf x.jnl (k.par 0 4 + i) with
        | some s => journalSlot x.mram s
        | none => none)) x }

def execJournalRead (h : HoopId) (r : Nat) (s : State) : Host.Outcome State Fault Refusal := .next (s.serve h r 0x62 journalReadVerb)

/-! ## RESULT_READ, ELEMENT_READ -/

/-- RESULT_READ: result word and stamp of each channel (R188). -/
def resultReadVerb : Verb :=
  { check := fun k _ => within (k.par 0 2) (k.par 2 2) familyChans
    run := fun k x =>
      if !within (k.par 0 2) (k.par 2 2) (Config.chans x.part) then ({ status := 6 }, x)
      else respond k 8 ((List.range (k.par 2 2)).map (fun i =>
        let q := resultPair x (k.par 0 2 + i)
        leBytes 4 q.1.toNat ++ leBytes 4 q.2.toNat)) x }

def execResultRead (h : HoopId) (r : Nat) (s : State) : Host.Outcome State Fault Refusal := .next (s.serve h r 0x63 resultReadVerb)

/-- ELEMENT_READ: element status words (R38). -/
def elementReadVerb : Verb :=
  { check := fun k _ => within (k.par 0 2) (k.par 2 2) familyElems
    run := fun k x =>
      if !within (k.par 0 2) (k.par 2 2) x.nE then ({ status := 6 }, x)
      else respond k 2 ((List.range (k.par 2 2)).map (fun i => leBytes 2 (elemStatus x (k.par 0 2 + i)))) x }

def execElementRead (h : HoopId) (r : Nat) (s : State) : Host.Outcome State Fault Refusal := .next (s.serve h r 0x66 elementReadVerb)

/-! ## DELTA_READ, COMMIT_LIST -/

/-- The records of a list that fit a room of bytes, in order. -/
def fitting : Nat → List Bytes → List Bytes
  | _, [] => []
  | room, b :: bs => if b.length ≤ room then b :: fitting (room - b.length) bs else []

/-- A response of records of several sizes (R373). -/
def respondMixed (k : Ctx) (recs : List Bytes) (x : Hoop) : Ans × Hoop :=
  match k.tlv (if x.isB then 5 else 4) with
  | none => ({ status := 0 }, x)
  | some b =>
    let out := fitting (field b 8 4 - 16) recs
    let head := leBytes 6 k.seq ++ [if x.isB then 1 else 0, 0] ++ leBytes 4 out.length ++ leBytes 4 (recs.length - out.length)
    ({ status := 0, result := out.length },
      { x with mbx := { x.mbx with responses := x.mbx.responses ++ [{ addr := BitVec.ofNat 64 (field b 0 8), bytes := head ++ out.flatten }] } })

/-- DELTA_READ: the entries of a pending commit's delta, then its changed channels. -/
def deltaReadVerb : Verb :=
  { check := anyForm
    run := fun k x =>
      match findPending x k.ring (k.par 0 6) with
      | none => ({ status := 6 }, x)
      | some c => respondMixed k (c.delta.map deltaBytes ++ c.chans.map (leBytes 2)) x }

def execDeltaRead (h : HoopId) (r : Nat) (s : State) : Host.Outcome State Fault Refusal := .next (s.serve h r 0x64 deltaReadVerb)

/-- COMMIT_LIST: SEQ 6 B, epoch as a count 4 B, n 2 B of each pending commit, in the order of their epochs. -/
def commitListVerb : Verb :=
  { check := anyForm
    run := fun k x =>
      respond k 12 (x.cm.pending.map (fun c => leBytes 6 c.seq ++ leBytes 4 c.epoch ++ leBytes 2 c.delta.length)) x }

def execCommitList (h : HoopId) (r : Nat) (s : State) : Host.Outcome State Fault Refusal := .next (s.serve h r 0x67 commitListVerb)

/-! ## PATCH_READ -/

/-- PATCH_READ: store 0 microwords 0xF00 to 0xFFF, store 1 nanowords 0x700 to 0x7FF; the first word by its address (R150). -/
def patchReadVerb : Verb :=
  { check := fun k _ =>
      let first := k.par 1 2
      if k.par 0 1 = 0 then Nat.ble 0xF00 first && within first (k.par 3 2) 0x1000
      else k.par 0 1 == 1 && Nat.ble 0x700 first && within first (k.par 3 2) 0x800
    run := fun k x =>
      if k.par 0 1 = 0 then respond k 4 ((List.range (k.par 3 2)).map (fun i => leBytes 4 (smGet {} x.tmb.micro (k.par 1 2 + i)).data.toNat)) x
      else respond k 16 ((List.range (k.par 3 2)).map (fun i => leBytes 16 (smGet {} x.tmb.nano (k.par 1 2 + i)).data.toNat)) x }

def execPatchRead (h : HoopId) (r : Nat) (s : State) : Host.Outcome State Fault Refusal := .next (s.serve h r 0x65 patchReadVerb)

/-! ## HISTORY_READ -/

/-- HISTORY_READ: ring, first second 6 B, seconds 4 B, first channel 2 B, channels 2 B (R299). A minute of the ledger is named by its
first second. -/
def historyReadVerb : Verb :=
  { check := fun k _ => decide (k.par 0 1 ≤ 2) && (k.par 0 1 != 0 || within (k.par 11 2) (k.par 13 2) familyChans)
    run := fun k x =>
      let inSec := fun (s : Nat) => decide (k.par 1 6 ≤ s ∧ s < k.par 1 6 + k.par 7 4)
      match k.par 0 1 with
      | 0 =>
        if !within (k.par 11 2) (k.par 13 2) (Config.chans x.part) then ({ status := 6 }, x)
        else respond k 32 (((x.hist.summaries.filter (fun e => inSec e.1)).map (fun e =>
          (List.range (k.par 13 2)).map (fun i => (e.2.drop (32 * (k.par 11 2 + i))).take 32))).flatten) x
      | 1 => respond k 2048 ((x.hist.counters.filter (fun e => inSec e.1)).map (·.2)) x
      | _ => respond k 64 ((x.hist.ledger.filter (fun e => inSec e.1)).map (·.2)) x }

def execHistoryRead (h : HoopId) (r : Nat) (s : State) : Host.Outcome State Fault Refusal := .next (s.serve h r 0x68 historyReadVerb)

/-! ## SMBus (R474) -/

/-- The word that a command code reads; a code not listed reads 0. -/
def bmcWord (x peer : Hoop) (cmd : Nat) : Word :=
  match cmd with
  | 0x00 => verRead x 0
  | 0x04 => x.boot.fwId
  | 0x08 => thsRead x 0x10
  | 0x0C => thsRead x 4 ||| (thsRead x 8 <<< 16)
  | 0x10 => fcStatus x
  | 0x14 => dkStatus x.dk
  | 0x18 => hoopStatus x peer
  | 0x1C => tecStatus x.tec
  | _ => 0

/-- SMBUS_BLOCK_READ: before firmware runs the hoop does not acknowledge. -/
def execSmbusBlockRead (h : HoopId) (cmd : BitVec 8) (s : State) : Host.Outcome State Fault Refusal :=
  .next (s.act h (fun x => if x.boot.fwRun then { x with bus := bmcWord x (s.hoop (other h)) cmd.toNat } else x))

/-- The hoop's 7-bit SMBus address. -/
def smbusAddr (x : Hoop) : Word := if x.isB then 0x4D else 0x4C

/-- ALERT_RESPONSE: answered while BMC_X_ALERT_N is low, which it is while FC_HOLD is 1. -/
def execAlertResponse (h : HoopId) (s : State) : Host.Outcome State Fault Refusal :=
  .next (s.act h (fun x => if x.boot.fwRun && x.fc.hold then { x with bus := smbusAddr x } else x))

end Sys2Proof.Machine
end

