-- ==== Sys2Proof/Machine/Power.lean ====
section
/-!
DEFINITION. Power and resets (R296, R439 to R445, R454, R455): power-on reset and its release, the module reset, rails, power failure, the
keeper's supply, the PCIe endpoint, the core watchdogs, and the PWM edge of R260.
-/

namespace Sys2Proof.Machine

/-! ## Rails (R439) -/

/-- Nominal voltage of a rail, mV. -/
def railNominal (i : Nat) : Nat := [750, 850, 1800, 1800, 1100, 600, 4000, 3600, 1800].getD i 0

/-- Tolerance of a rail, per cent. -/
def railTol (i : Nat) : Nat := [3, 3, 5, 3, 5, 5, 2, 3, 5].getD i 0

/-- Fault source of a rail; VDD2 and VDDQ share source 4. -/
def railSrc (i : Nat) : Nat := [0, 1, 2, 3, 4, 4, 5, 6, 7].getD i 0

/-- A reading lies within tolerance. -/
def railIn (i mv : Nat) : Bool := decide (100 * ((mv : Int) - railNominal i).natAbs ≤ railTol i * railNominal i)

/-- A reading lies below 90 % of nominal (R441). -/
def railLow (i mv : Nat) : Bool := decide (10 * mv < 9 * railNominal i)

/-- Take a reading: PWR_RAILi keeps the latest and the lowest. -/
def readRail (i mv : Nat) (x : Hoop) : Hoop :=
  let r := x.rail i
  let v := BitVec.ofNat 16 mv
  let q : Rail := { ok := railIn i mv, mv := v, lowest := if r.seen && r.lowest.toNat ≤ v.toNat then r.lowest else v, seen := true }
  { x with pwr := { x.pwr with rails := smSet {} x.pwr.rails i q } }

/-! ## Resets (R11, R442) -/

/-- The part of a ring that a power-on reset of a hoop keeps: SEQ runs on, unless the whole module is reset (R337, R442). -/
def keptRings (wide : Bool) (x : Hoop) : SMap Ring :=
  if wide then []
  else x.mbx.rings.foldl (fun m e => smSet (ringReset e.1) m e.1 { ringReset e.1 with cplSeq := e.2.cplSeq, evtSeq := e.2.evtSeq }) []

/-- The dark keeper across a reset of its hoop: the latches stay (R304), and a module dark ends, with what needs power-on to be confirmed
again (R284, R286, R291). -/
def keptDk (d : Dk) : Dk :=
  { d with force := false, vouch := false, fcPar := false, confirmed := false, remote := false, pend := none, relAccepted := false, confirmed1 := [] }

/-- A hoop in power-on reset: every register at its R11 value; the MRAM, the fuses, the store's contents and the keeper's latches stay.
`wide` says that the whole module is reset, `mod` that MOD_RST_N did it. -/
def hoopReset (wide mod : Bool) (x : Hoop) : Hoop :=
  { part := x.part, isB := x.isB, mram := x.mram, settings := x.settings, calStore := x.calStore, keeperImg := x.keeperImg, freeIx := x.freeIx
    dk := keptDk x.dk
    fc := if x.dk.fcPar then { src := [(223, { sticky := true })] } else {}
    boot := { dieRev := x.boot.dieRev, minSvn := x.boot.minSvn, romId := x.boot.romId, causePor := !mod, causeMod := mod, moduleReset := wide }
    wlm := { id := x.wlm.id, lastAddr := x.wlm.lastAddr, bootgen := if wide then x.wlm.bootgen + 1 else x.wlm.bootgen,
             seq := if wide then 0 else x.wlm.seq, localSeq := if wide then 0 else x.wlm.localSeq }
    mbx := { rings := keptRings wide x }
    hist := { summaries := x.hist.summaries, counters := x.hist.counters, ledger := x.hist.ledger }
    pair := { strap := !wide && x.pair.strap }
    pwr := { clockOk := x.pwr.clockOk } }

/-- Reset the whole module. -/
def moduleReset (mod : Bool) (s : State) : State :=
  (s.hoops.foldl (fun s h => s.upd h (hoopReset true mod)) s).setDuo {}

/-- POWER_ON_RESET: a rail below 90 % of nominal; with VKEEP the keeper is lost as well (R304). With every other enabled hoop in reset, it is a reset of
the module (R442). -/
def powerOn (h : HoopId) (rail mv : Nat) (s : State) : State :=
  if !railLow rail mv then s
  else
    let s := s.upd h (fun x => if rail = 8 then { x with dk := { vouch := x.dk.vouch } } else x)
    if (s.hoop h).boot.por then s
    else if !Config.duplex s.part || (s.hoop (other h)).boot.por then moduleReset false s
    else (abandonHo 3 s).upd h (hoopReset false false)

def execPowerOnReset (h : HoopId) (rail mv : Nat) (s : State) : Host.Outcome State Fault Refusal :=
  .next (if s.has h ∧ rail < 9 then settle (powerOn h rail mv s) else s)

/-- MOD_RST. -/
def execModRst (s : State) : Host.Outcome State Fault Refusal :=
  .next (settle { moduleReset true s with balls := { (moduleReset true s).balls with modRstN := false } })

/-- A rail's reading at the release: within tolerance, its value not stated (assumption 4). -/
def freeRail (x : Hoop) (i : Nat) : Hoop :=
  let t := railNominal i * railTol i / 100
  readRail i (railNominal i - t + x.fresh.1 % (2 * t + 1)) x.fresh.2

/-- The release of a hoop's power-on reset: the loader starts and owns the flash bus (R446); after a module reset the strap is sampled (R309). -/
def porRelease (strap : Bool) (x : Hoop) : Hoop :=
  if !x.boot.por then x
  else
    let x := (List.range 9).foldl freeRail x
    { x with
      boot := { x.boot with por := false, stage := .loader, resetAt := x.now, spiOwn := true }
      pwr := { x.pwr with clockOk := true }
      pair := { x.pair with strap := if !x.boot.moduleReset then x.pair.strap else if Config.duplex x.part then strap != x.isB else !x.isB } }

/-- POR_RELEASE: MOD_RST_N has been high for 10 ms. -/
def execPorRelease (h : HoopId) (s : State) : Host.Outcome State Fault Refusal :=
  .next (if s.has h then settle { s.upd h (porRelease s.balls.strapPrimary) with balls := { s.balls with modRstN := true } } else s)

/-! ## Rail excursions (R441) -/

/-- RAIL_EXCURSION: outside tolerance, outside power-on reset. -/
def railOut (rail mv : Nat) (x : Hoop) : Hoop :=
  if 9 ≤ rail ∨ railIn rail mv ∨ x.boot.por then x
  else
    let was := (x.rail rail).ok
    let x := readRail rail mv x
    if !was then x
    else raiseEv 561 [rail, 0, mv] .hoop (fault (railSrc rail) noDet { x with pwr := { x.pwr with excur := satInc x.pwr.excur } })

def execRailExcursion (h : HoopId) (rail mv : Nat) (s : State) : Host.Outcome State Fault Refusal := .next (s.act h (railOut rail mv))

/-- RAIL_RETURN: within tolerance. The source clears once every rail that shares it is within tolerance; a VKEEP that was lost brings the
keeper back at its reset values (R304). -/
def railBack (rail mv : Nat) (x : Hoop) : Hoop :=
  if 9 ≤ rail ∨ !railIn rail mv ∨ x.boot.por then x
  else
    let was := x.rail rail
    let x := readRail rail mv x
    let x := if rail = 8 ∧ was.seen ∧ railLow 8 was.mv.toNat then { x with dk := { vouch := x.dk.vouch } } else x
    if was.ok then x
    else
      let rest := (List.range 9).all (fun i => railSrc i != railSrc rail || (x.rail i).ok)
      raiseEv 561 [rail, 1, mv] .hoop (if rest then faultOff (railSrc rail) x else x)

def execRailReturn (h : HoopId) (rail mv : Nat) (s : State) : Host.Outcome State Fault Refusal := .next (s.act h (railBack rail mv))

/-- VKEEP_LOSS (R454): the keeper loses its latches and ARMED clears. -/
def keepLoss (x : Hoop) : Hoop :=
  readRail 8 0 { x with dk := { vouch := x.dk.vouch } }

def execVkeepLoss (h : HoopId) (s : State) : Host.Outcome State Fault Refusal := .next (s.act h keepLoss)

/-! ## Power failure (R296, R454) -/

/-- A journal record of this instant with FINAL set. -/
def finalRec (type src : Nat) (payload : Bytes) (x : Hoop) : JRec :=
  { type := BitVec.ofNat 16 type, sev := 0xFF, flags := BitVec.ofNat 8 (2 + (if x.isB then 4 else 0) + (if x.tb.timeValid then 0 else 16))
    stamp := x.stamp, sec := BitVec.ofNat 48 (x.tb.secOf x.now), ns := BitVec.ofNat 32 (x.tb.nsOf x.now), source := BitVec.ofNat 16 src, payload := padTo 36 payload }

/-- The ledger fragment of one tenant. -/
def fragment (x : Hoop) (r : LedRec) : JRec :=
  finalRec 0xD 0xFFFF (leBytes 4 r.tenant ++ leBytes 8 r.minute ++ leBytes 8 r.carry ++ leBytes 8 r.verify) x

/-- The records of R296 in their order; `live` counts the threads that were live. -/
def finalRecords (live : Nat) (x : Hoop) : List JRec :=
  let led := (x.led.openRecs.filter LedRec.hasTime).take 512
  let body := led.map (fragment x) ++ x.jnl.buf.map (fun j => { j with flags := j.flags ||| 2 })
  finalRec 0xC 8 (words [live, led.length, x.jnl.buf.length]) x :: body ++ [finalRec 0xE 0xFFFF (words [body.length + 1]) x]

/-- Write them without the hold-up check, but under the MRAM gate of R270. -/
def writeFinal (live : Nat) (x : Hoop) : Hoop :=
  if !x.ths.mramOk then deferWrite x
  else
    let y := (finalRecords live x).foldl jnlWrite1 x
    { y with jnl := { y.jnl with buf := [], final := true, deferred := false, deferredHoldup := false } }

/-- Threads that are live in a hoop. -/
def liveThreads (x : Hoop) : Nat := (x.thr.filter (fun e => e.2.st.live)).length

/-- PWR_FAIL_ASSERT: source 8 in every hoop that runs, the module darks, then the final records. -/
def powerFail (s : State) : State :=
  if !s.balls.pwrFailN then s
  else
    let t := settle ((s.hoops.foldl (fun s h => s.upd h (fun x => if x.boot.por then x else raiseEv 461 [0] .hoop (fault 8 noDet x))) s))
    let t := s.hoops.foldl (fun t h => t.upd h (fun x => if x.boot.por then x else writeFinal (liveThreads (s.hoop h)) x)) t
    settle { t with balls := { t.balls with pwrFailN := false } }

def execPwrFailAssert (s : State) : Host.Outcome State Fault Refusal := .next (powerFail s)

/-- PWR_FAIL_RELEASE: source 8 clears; the module stays dark until the release of R291. -/
def powerGood (s : State) : State :=
  if s.balls.pwrFailN then s
  else
    let t := s.hoops.foldl (fun s h => s.upd h (fun x => if x.boot.por then x else raiseEv 461 [1] .hoop (faultOff 8 x))) s
    settle { t with balls := { t.balls with pwrFailN := true } }

def execPwrFailRelease (s : State) : Host.Outcome State Fault Refusal := .next (powerGood s)

/-! ## The PCIe endpoint (R443, R455) -/

/-- A ring's page at its R11 values; binding, tag, masks, meter and key stay. What was posted or read and not accepted is discarded. -/
def Ring.pcieReset (r : Nat) (g : Ring) : Ring :=
  { ringReset r with
    bound := g.bound, versions := g.versions, tenant := g.tenant, tc := g.tc, te := g.te, cir := g.cir, cbs := g.cbs, ebs := g.ebs
    inMask := g.inMask, outMask := g.outMask, key := g.key, keyGen := g.keyGen, ctrWin := g.ctrWin, cplSeq := g.cplSeq, evtSeq := g.evtSeq }

/-- Events that were dropped for want of room and are still to be noted are discarded with what was not yet written. -/
def pcieReset (cause : Nat) (cut : Option Burst) (x : Hoop) : Hoop :=
  if x.boot.por then x
  else
    let x := cutOf [4] cut x
    let x := (List.range 16).foldl (fun y r => y.updRing r (Ring.pcieReset r)) x
    raiseEv 565 [cause, 0, 0] .hoop (fault 197 noDet { x with
      boot := { x.boot with causePcie := true }
      mbx := { x.mbx with msixTable := [] }
      pwr := { x.pwr with linkUp := false, linkRate := 0, linkWidth := 0, d3 := false } })

def execPcieReset (h : HoopId) (cause : Nat) (cut : Option Burst) (s : State) : Host.Outcome State Fault Refusal := .next (s.act h (pcieReset cause cut))

/-- PCIE_LINK_UP: the link is back, with event 565 of cause 3; EN stays 0 until REOPEN and RING_BIND. -/
def pcieUp (rate width : Nat) (x : Hoop) : Hoop :=
  if x.boot.por then x
  else raiseEv 565 [3, rate, width] .hoop (faultOff 197 { x with pwr := { x.pwr with linkUp := true, linkRate := rate, linkWidth := width } })

def execPcieLinkUp (h : HoopId) (rate width : Nat) (s : State) : Host.Outcome State Fault Refusal := .next (s.act h (pcieUp rate width))

/-- POWER_MANAGEMENT_STATE: in D3hot no ring is read; back in D0 reading goes on. -/
def powerState (d3 : Bool) (x : Hoop) : Hoop :=
  let y := { x with pwr := { x.pwr with d3 := d3 } }
  if d3 then y else pumpAll y

def execPowerManagementState (h : HoopId) (d3 : Bool) (s : State) : Host.Outcome State Fault Refusal := .next (s.act h (powerState d3))

/-! ## Core watchdogs (R444) -/

/-- WATCHDOG_EXPIRY: source 11, and the core with its crossbar port is reset (R429, R442). -/
def watchdog (core : Nat) (cut : Option Burst) (x : Hoop) : Hoop :=
  if !x.boot.fwRun then x
  else
    let x := cutOf [0, 1] cut x
    raiseEv 564 [core] .hoop (fault 11 noDet { x with boot := { x.boot with causeWd := true, coresReset := insSorted core x.boot.coresReset } })

def execWatchdogExpiry (h : HoopId) (core : Nat) (cut : Option Burst) (s : State) : Host.Outcome State Fault Refusal := .next (s.act h (watchdog core cut))

/-- CORE_RESUME: source 11 stays live until every core has resumed. -/
def coreResume (core : Nat) (x : Hoop) : Hoop :=
  if !x.boot.coresReset.contains core then x
  else
    let left := x.boot.coresReset.filter (fun c => c != core)
    let x := { x with boot := { x.boot with coresReset := left } }
    if left.isEmpty then faultOff 11 x else x

def execCoreResume (h : HoopId) (core : Nat) (s : State) : Host.Outcome State Fault Refusal := .next (s.act h (coreResume core))

/-! ## PWM_DUTY_EDGE (R260) -/

/-- At the count of the active duty H falls: FWD falls at once, and REV rises once DEAD has passed. -/
def dutyEdge (z : Bool) (x : Hoop) : Hoop := x.updZone z (fun v => v.pwm x.tec.drives x.now)

def execPwmDutyEdge (h : HoopId) (z : Nat) (s : State) : Host.Outcome State Fault Refusal := .next (if z < 2 then s.act h (dutyEdge (z == 1)) else s)

end Sys2Proof.Machine
end

