-- ==== Sys2Proof/Machine/Startup.lean ====
section
/-!
DEFINITION. Start-up (R448 to R452): the loader, memory and settings, the monitor self-test and the token, the first writes, the opening of
ring 0; and the table of Selda verbs by opcode.
-/

namespace Sys2Proof.Machine

/-! ## Verbs by opcode (R368 to R372) -/

/-- How a command of an opcode is served; `failN` is the ball PWR_FAIL_N. An opcode that no version has never passes the form check. -/
def verbOf (failN : Bool) (op : Nat) : Verb :=
  match op with
  | 0x01 => commitVerb
  | 0x02 => commitVerb
  | 0x03 => commitVerb
  | 0x04 => commitVerb
  | 0x05 => commitVerb
  | 0x06 => darkNowVerb
  | 0x07 => cancelVerb
  | 0x08 => threadReadVerb
  | 0x09 => ledgerReadVerb
  | 0x0A => outcomeReadVerb
  | 0x10 => slotLoadVerb
  | 0x11 => slotMaskVerb
  | 0x12 => slotClearVerb
  | 0x13 => listWriteVerb
  | 0x14 => startVerb
  | 0x15 => swapVerb
  | 0x16 => swapDisarmVerb
  | 0x17 => stopVerb
  | 0x20 => ringBindVerb
  | 0x21 => ringUnbindVerb
  | 0x22 => meterSetVerb
  | 0x23 => keySetVerb
  | 0x24 => eventSubVerb
  | 0x25 => netCfgVerb
  | 0x30 => batchVerb
  | 0x31 => fabricVerb
  | 0x32 => wlmCfgVerb
  | 0x40 => ptpCfgVerb
  | 0x41 => domainSwitchVerb
  | 0x42 => verifyCfgVerb
  | 0x43 => adcProfileVerb
  | 0x44 => refSelVerb
  | 0x45 => calCfgVerb
  | 0x46 => loopSetVerb
  | 0x47 => loopAssignVerb
  | 0x48 => tecDriveVerb
  | 0x49 => tecCoefVerb
  | 0x4A => setpointVerb
  | 0x4B => tecEnableVerb
  | 0x4C => tripClearVerb
  | 0x4D => thresholdsVerb
  | 0x4E => thmModelVerb
  | 0x4F => holdupMinVerb
  | 0x50 => samplerRestoreVerb
  | 0x51 => darkReleaseVerb
  | 0x52 => handoverVerb
  | 0x53 => rejoinVerb
  | 0x60 => regReadVerb failN
  | 0x61 => samplerReadVerb
  | 0x62 => journalReadVerb
  | 0x63 => resultReadVerb
  | 0x64 => deltaReadVerb
  | 0x65 => patchReadVerb
  | 0x66 => elementReadVerb
  | 0x67 => commitListVerb
  | 0x68 => historyReadVerb
  | _ => nopVerb

/-! ## IMAGE_AUTHENTICATED (R150, R446, R448) -/

/-- A hoop is held: the cause, and nothing driven (R448). -/
def holdBoot (cause : Nat) (x : Hoop) : Hoop :=
  let y := dropToken (setRole .offline 0xFFFF x)
  { y with boot := { y.boot with stage := .held, failCause := cause, fwRun := false, spiOwn := false } }

/-- Words of an image section put into a store from an address, padded with zeros to `n`; a word of zeros is not listed. -/
def loadStore {w : Nat} (first n : Nat) (l : List (BitVec w)) : SMap (BitVec w) :=
  (List.range n).foldl (fun m i => smSet 0 m (first + i) (l.getD i 0)) []

/-- The same with the check bits that the loader writes beside each word (R141, R145). -/
def loadChecked {d c : Nat} (check : BitVec d → BitVec c) (first n : Nat) (l : List (BitVec d)) : SMap (Checked d c) :=
  (List.range n).map (fun i => (first + i, { data := l.getD i 0, check := check (l.getD i 0) }))

/-- The CRC of R150 over the loaded patch. -/
def patchCrcOf (img : Image) : Word :=
  let le := fun (n k : Nat) (f : Nat → Nat) => ((List.range k).map (fun i => leBytes n (f i))).flatten
  crc32 (le 4 256 (fun i => (img.micro.getD i 0).toNat) ++ le 16 256 (fun i => (img.nano.getD i 0).toNat)
    ++ le 4 32 (fun i => (img.matchRegs.getD i 0).toNat) ++ le 4 64 (fun i => (img.overrides.getD i 0).toNat))

/-- The loader writes the patch stores and locks them. -/
def lockPatch (img : Image) (x : Hoop) : Hoop :=
  { x with tmb := { x.tmb with
      micro := loadChecked Config.check32 0xF00 256 img.micro, nano := loadChecked Config.check128 0x700 256 img.nano, matchRegs := loadStore 0 32 img.matchRegs
      overrides := loadStore 0 64 img.overrides, patchId := img.patchId, patchCrc := patchCrcOf img, patchLock := true, st := .idle } }

/-- The causes of the two slots: an SVN below the fused minimum is cause 4 whatever else the loader found. -/
def slotCause (x : Hoop) (fail : Nat) (img : Image) : Nat := if fail = 0 ∧ img.svn.toNat < x.boot.minSvn.toNat then 4 else fail

/-- The loader ends: an image is accepted and the cores start, or the hoop is held with both causes. -/
def authenticated (fail0 fail1 : Nat) (img : Image) (x : Hoop) : Hoop :=
  if x.boot.por || x.boot.stage != .loader then x
  else
    let c0 := slotCause x fail0 img
    let c1 := if c0 = 0 then 0 else slotCause x fail1 img
    if c0 ≠ 0 ∧ c1 ≠ 0 then
      let y := holdBoot c1 x
      { y with boot := { y.boot with fail0 := c0, fail1 := c1 } }
    else
      let x := lockPatch img { x with boot := { x.boot with
        fail0 := c0, slot := c0 != 0, fwId := img.version, fwBuild := img.build, svn := img.svn, fwRun := true, spiOwn := false } }
      let x := if Config.duplex x.part then x else takeToken { x with pair := { x.pair with role := .active } }
      let x := raiseEv 334 [(tmbVersion x).toNat, x.tmb.patchCrc.toNat] .hoop (setStage .fwStart x)
      if c0 = 0 then x else raiseEv 566 [c0] .hoop x

def execImageAuthenticated (h : HoopId) (fail0 fail1 : Nat) (img : Image) (s : State) : Host.Outcome State Fault Refusal :=
  .next (s.act h (authenticated fail0 fail1 img))

/-! ## LPDDR4X_TRAINED (R449 steps 3 to 5) -/

/-- Slots of the journal ring that hold anything. -/
def usedSlots (m : List Host.Cell) : List Nat := nub ((m.filter (fun c => Nat.blt c.1 samplerBase)).map (fun c => c.1 / 64))

/-- SEQ of the good record in a slot. -/
def goodSeq (m : List Host.Cell) (slot : Nat) : Option Nat :=
  let b := memRead m (64 * slot) 64
  if !b.all (· == 0) && field b 60 4 == (crc32 (b.take 60)).toNat then some (field b 4 4) else none

/-- The newest record: its successor slot does not hold SEQ + 1 with a valid CRC (R297). -/
def newestSlot (m : List Host.Cell) : Option (Nat × Nat) :=
  (usedSlots m).findSome? (fun s =>
    match goodSeq m s with
    | none => none
    | some q => if goodSeq m ((s + 1) % 393216) = some ((q + 1) % 2 ^ 32) then none else some (s, q))

/-- The journal goes on behind the newest record. -/
def findJournal (x : Hoop) : Hoop :=
  match newestSlot x.mram with
  | none => x
  | some (s, q) => { x with jnl := { x.jnl with head := (s + 1) % 393216, seq := BitVec.ofNat 32 (q + 1) } }

/-- TYPE of a stored record. -/
def typeAt (m : List Host.Cell) (slot : Nat) : Nat := leNat (memRead m (64 * slot) 2)

/-- The ledger fragments of the last power failure, walking back from a slot to its power-fail record; a boot record ends the walk in vain. -/
def fragments (m : List Host.Cell) : Nat → Nat → List Bytes → List Bytes
  | 0, _, _ => []
  | fuel + 1, slot, acc =>
    if (goodSeq m slot).isNone then []
    else match typeAt m slot with
      | 0xB => []
      | 0xC => acc
      | 0xD => fragments m fuel ((slot + 393215) % 393216) (memRead m (64 * slot) 64 :: acc)
      | _ => fragments m fuel ((slot + 393215) % 393216) acc

/-- A ledger record rebuilt from a fragment, PARTIAL (R389, R390). -/
def rebuilt (b : Bytes) : LedRec :=
  { minute := field b 28 8, tenant := field b 24 4, carry := field b 36 8, verify := field b 44 8, flags := 2 }

/-- Rebuild the minute that a power failure left open. -/
def rebuildLedger (x : Hoop) : Hoop :=
  match newestSlot x.mram with
  | none => x
  | some (s, _) =>
    match (fragments x.mram 1539 s []).map rebuilt with
    | [] => x
    | r :: rs => { x with led := { x.led with closed := [(r.minute, r :: rs)] }
                          hist := { x.hist with pendingLed := x.hist.pendingLed ++ (r :: rs).map (fun q => (q.minute, ledBytes q)) } }

/-- The boot record: firmware, TMB_VERSION, and whether a closing record ended the previous run (R293, R297). -/
def bootRecord (x : Hoop) : Hoop :=
  let closed := match newestSlot x.mram with
    | some (s, _) => bit (typeAt x.mram s == 0xE)
    | none => 0
  jnlPut 0xB 0xFF 0xFFFF false (words [x.boot.fwId.toNat, x.boot.fwBuild.toNat, (tmbVersion x).toNat, closed]) x

/-- Load the calibration trims (R203). -/
def loadCal (x : Hoop) : Hoop :=
  x.calStore.foldl (fun y e => y.updChan e.1 (fun c => { c with ofs := e.2.ofs, gain := e.2.gain, calStatus := e.2.status })) x

/-- A stored setting as the command that carried it. -/
def settingCmd (op : Nat) (p : Bytes) : Bytes :=
  let body := leBytes 2 0x10 ++ leBytes 2 p.length ++ padTo (pad4 p.length) p
  let len := (16 + body.length + 15) / 16
  padTo (16 * len) (leBytes 1 3 ++ leBytes 1 op ++ leBytes 2 len ++ List.replicate 12 0 ++ body)

/-- Apply one stored setting: what it sets, without the marks of a command. -/
def applySetting (y : Hoop) (e : Nat × Nat × Bytes) : Hoop :=
  let c : ReadCmd := { bytes := settingCmd e.1 e.2.2, slot := 0, colour := .unmetered, refusal := none }
  let z := ((verbOf true e.1).run { ring := 0, cmd := c, seq := 0, peer := {} } y).2
  { z with settings := y.settings, evt := y.evt, jnl := { y.jnl with holdupMin := z.jnl.holdupMin }, pmc := y.pmc, boot := y.boot
           mbx := { y.mbx with net0 := z.mbx.net0, net1 := z.mbx.net1 } }

/-- Apply the stored settings (R451). -/
def applySettings (x : Hoop) : Hoop := x.settings.foldl applySetting x

/-- Steps 3 to 5: memory, the MRAM's contents, the sampler header's check, the settings. -/
def trained (gib : Nat) (ok : Bool) (x : Hoop) : Hoop :=
  if x.boot.stage != .fwStart then x
  else if !ok || !(gib == 2 || gib == 4 || gib == 8) then holdBoot 8 (setStage .held (raiseEv 562 [gib, 4266, 8] .hoop x))
  else
    let x := setStage .memory (raiseEv 562 [gib, 4266, 0] .hoop { x with boot := { x.boot with ddrGib := gib } })
    let hb := headerBytes x.mram
    let x := bootRecord (rebuildLedger (findJournal (loadCal { x with boot := { x.boot with lattice := Config.headerDie hb } })))
    if !Config.headerOk hb then holdBoot 9 (fault 18 noDet (setStage .held x))
    else startMinutes (updLeader (writeCeil (applySettings x)))

def execLpddr4xTrained (h : HoopId) (gib : Nat) (ok : Bool) (s : State) : Host.Outcome State Fault Refusal := .next (s.act h (trained gib ok))

/-! ## MONITOR_SELF_TEST_DONE (R449 steps 6 to 8) -/

/-- Lost channels are recorded, and the slice is built at the effective setpoint. -/
def selfTest (lost : List Nat) (x : Hoop) : Hoop :=
  if x.boot.stage != .memory then x
  else sliceBuild (beginRebuild (setStage .lattice (lost.foldl (fun y c => loseFront c y) x)))

/-- The token at step 7: alone, as strap-primary where the peer holds none, or else by following the peer. -/
def selfTestDone (h : HoopId) (lost : List Nat) (s : State) : State :=
  if (s.hoop h).boot.stage != .memory then s
  else
    let s := lostToBoth h (fun x => lost.foldl (fun y c => loseFront c y) x) s (s.upd h (selfTest lost))
    let x := s.hoop h
    if !Config.duplex s.part then s.upd h holderStart
    else if x.pair.strap && !(s.hoop (other h)).pair.token then followPeer (other h) ((s.upd h claimToken).setDuo { s.duo with claimed := true })
    else followPeer h s

def execMonitorSelfTestDone (h : HoopId) (lost : List Nat) (s : State) : Host.Outcome State Fault Refusal :=
  .next (if s.has h then settle (selfTestDone h lost s) else s)

/-! ## FIRST_WRITE_DONE (R178, R449 steps 8 to 10) -/

/-- Every tile written and every heater at its first target: FIRST_DONE sets, the TEC starts, and every eyelet tap is injected. -/
def firstWrites (x : Hoop) : Hoop :=
  if x.boot.stage != .lattice || !(x.pair.role == .active || x.pair.role == .standby) || x.drv.hFirstDone || !(List.range x.nT).all (fun t => (x.tile t).written) ||
    !(List.range x.nE).all (fun e => (x.heater e).reached) then x
  else
    let x := { x with drv := { x.drv with nFirstDone := true, hFirstDone := true }, tec := { x.tec with en := true }
                      boot := { x.boot with tecEnabledAt := some x.now } }
    let x := raiseEv 384 [1] .hoop (restartZones x)
    ((List.range x.n).filter (fun i => smGet 0 x.dk.confirmed1 i != 2)).foldl (fun y i => confirmDark i y) x

def execFirstWriteDone (h : HoopId) (s : State) : Host.Outcome State Fault Refusal := .next (s.act h firstWrites)

/-! ## RING0_OPEN (R452) -/

/-- Deliver what was held. -/
def deliverHeld (x : Hoop) : Hoop :=
  x.boot.heldEvents.foldl (fun y e => if evAllowed y e.1 && y.evt.sub.getLsbD e.1 then deliverEvAt e.2.1 0 e.1 e.2.2 y else y)
    { x with boot := { x.boot with heldEvents := [] } }

/-- An interval has passed since the TEC was enabled. -/
def sinceTec (ns : Nat) (x : Hoop) : Bool :=
  match x.boot.tecEnabledAt with
  | some t => decide (t + ns ≤ x.now)
  | none => false

/-- The condition on temperature holds, or has timed out. -/
def tempCond (timeout : Bool) (x : Hoop) : Bool := x.tec.settled || (timeout && sinceTec 60000000000 x)

/-- The condition on time holds, or has timed out. -/
def timeCond (timeout : Bool) (x : Hoop) : Bool :=
  x.tb.pri.st == .locked || (!x.tb.pri.configured && !x.tb.sec.configured) || (timeout && sinceTec 10000000000 x)

/-- Ring 0 opens: EN with the bases written beforehand, steps close, what was held is delivered, events 560 and 559. -/
def ring0Open (tempTimeout timeTimeout : Bool) (x : Hoop) : Hoop :=
  if x.boot.stage != .wait || !(x.pair.role == .active || x.pair.role == .standby) || !tempCond tempTimeout x || !timeCond timeTimeout x then x
  else
    let ms := x.uptimeMs
    let x := (x.updRing 0 Ring.enable)
    let x := deliverHeld { x with boot := { x.boot with stage := .opened, openMs := ms }, tb := { x.tb with stepClosed := true } }
    let x := setStage .opened x
    pumpRing 0 (raiseEv 560 [ms, bit x.tec.settled, bit (x.tb.pri.st == .locked), bit (!x.tec.settled),
      bit (x.tb.pri.st != .locked && (x.tb.pri.configured || x.tb.sec.configured))] .hoop x)

def execRing0Open (h : HoopId) (tempTimeout timeTimeout : Bool) (s : State) : Host.Outcome State Fault Refusal :=
  .next (s.act h (ring0Open tempTimeout timeTimeout))

end Sys2Proof.Machine
end

