-- ==== Sys2Proof/Machine/Lockstep.lean ====
section
/-!
DEFINITION. The standby's intake (R314): it serves its own copy of each command in the order of the holder's digests, at the holder's stamp.
-/

namespace Sys2Proof.Machine

/-- The timebase as it stood at a stamp of the near past. -/
def Tb.atStamp (t : Tb) (stamp : Stamp) : Tb :=
  { t with acc := stamp.setWidth 64 <<< 32, wrap := if t.cnt < stamp then t.wrap - 1 else t.wrap }

/-- The front command of a ring, where it is the one that a digest names. -/
def matchFront (x : Hoop) (d : Digest) : Option ReadCmd :=
  match (x.ring d.ring).read with
  | [] => none
  | c :: _ => if crc64 (digestBytes d.ring c) = d.crc then some c else none

/-- What the standby's own checks give for it, and its state after them: a form refusal stands, RATE_RED is the holder's alone, and everything
else is served as of the holder's stamp. -/
def ownAnswer (failN : Bool) (peer : Hoop) (d : Digest) (c : ReadCmd) (x : Hoop) : Ans × Hoop :=
  if d.status = 7 then ({ status := 7 }, x.updRing d.ring (Ring.cutRun (hdrOf c.bytes).opcode))
  else match c.refusal with
    | some st => ({ status := st }, x.updRing d.ring (Ring.cutRun (hdrOf c.bytes).opcode))
    | none =>
      let q := answer (verbOf failN (hdrOf c.bytes).opcode) { ring := d.ring, cmd := c, seq := d.seq, peer := peer } { x with tb := x.tb.atStamp d.stamp }
      (q.1, { q.2 with tb := { q.2.tb with acc := x.tb.acc, wrap := x.tb.wrap } })

/-- The answer carries the holder's status and epoch. -/
def agrees (a : Ans) (d : Digest) : Bool :=
  a.status == d.status && a.epochNs.getD 0 == d.epochSec.toNat * 1000000000 + d.epochNs.toNat

/-- Match the oldest digest: complete with the holder's SEQ and stamp, or raise source 160. A hoop that has just taken the token still works
off the digests of the former holder, and sends none for them. -/
def intakeDigest (failN : Bool) (peer x : Hoop) : Hoop :=
  match x.pair.awaiting with
  | [] => x
  | d :: rest =>
    if !(x.pair.role == .standby || x.pair.role == .active) then x
    else match matchFront x d with
      | none => x
      | some c =>
        let us := min 65535 ((x.now - d.sentAt) / 1000)
        let x := { x with pair := { x.pair with awaiting := rest, longestUs := BitVec.ofNat 16 (max x.pair.longestUs.toNat us) } }
        let q := ownAnswer failN peer d c x
        if !agrees q.1 d then fault 160 noDet (noteMismatch 2 d.seq x)
        else
          let y := completeFront d.ring q.1 (some (d.seq, d.stamp)) (served d.ring c q.2)
          let y := pumpRing d.ring { y with pair := { y.pair with sent := x.pair.sent } }
          if y.pair.role == .active && rest.isEmpty then pumpAll y else y

/-- INTAKE_DIGEST. -/
def execIntakeDigest (h : HoopId) (s : State) : Host.Outcome State Fault Refusal :=
  .next (if Config.duplex s.part then s.act h (intakeDigest s.balls.pwrFailN (s.hoop (other h))) else s)

end Sys2Proof.Machine
end

