-- ==== Sys2Proof/Machine/Dispatch.lean ====
section
/-!
DEFINITION. The meaning of each command: one arm per row of the opcode table.
-/

namespace Sys2Proof.Machine

def exec (i : Instr) (s : State) : Host.Outcome State Fault Refusal :=
  match i with
  | .nop h r => Sys2Proof.Machine.execNop h r s
  | .create h r => Sys2Proof.Machine.execCreate h r s
  | .modify h r => Sys2Proof.Machine.execModify h r s
  | .reopen h r => Sys2Proof.Machine.execReopen h r s
  | .release h r => Sys2Proof.Machine.execRelease h r s
  | .dark h r => Sys2Proof.Machine.execDark h r s
  | .darkNow h r => Sys2Proof.Machine.execDarkNow h r s
  | .cancel h r => Sys2Proof.Machine.execCancel h r s
  | .threadRead h r => Sys2Proof.Machine.execThreadRead h r s
  | .ledgerRead h r => Sys2Proof.Machine.execLedgerRead h r s
  | .outcomeRead h r => Sys2Proof.Machine.execOutcomeRead h r s
  | .batch h r => Sys2Proof.Machine.execBatch h r s
  | .prkSlotLoad h r => Sys2Proof.Machine.execPrkSlotLoad h r s
  | .prkSlotMask h r => Sys2Proof.Machine.execPrkSlotMask h r s
  | .prkSlotClear h r => Sys2Proof.Machine.execPrkSlotClear h r s
  | .prkListWrite h r => Sys2Proof.Machine.execPrkListWrite h r s
  | .prkStart h r => Sys2Proof.Machine.execPrkStart h r s
  | .prkSwap h r => Sys2Proof.Machine.execPrkSwap h r s
  | .prkSwapDisarm h r => Sys2Proof.Machine.execPrkSwapDisarm h r s
  | .prkStop h r => Sys2Proof.Machine.execPrkStop h r s
  | .ringBind h r => Sys2Proof.Machine.execRingBind h r s
  | .ringUnbind h r => Sys2Proof.Machine.execRingUnbind h r s
  | .meterSet h r => Sys2Proof.Machine.execMeterSet h r s
  | .keySet h r => Sys2Proof.Machine.execKeySet h r s
  | .eventSub h r => Sys2Proof.Machine.execEventSub h r s
  | .netCfg h r => Sys2Proof.Machine.execNetCfg h r s
  | .ptpCfg h r => Sys2Proof.Machine.execPtpCfg h r s
  | .domainSwitch h r => Sys2Proof.Machine.execDomainSwitch h r s
  | .verifyCfg h r => Sys2Proof.Machine.execVerifyCfg h r s
  | .adcProfile h r => Sys2Proof.Machine.execAdcProfile h r s
  | .refSel h r => Sys2Proof.Machine.execRefSel h r s
  | .calCfg h r => Sys2Proof.Machine.execCalCfg h r s
  | .loopSet h r => Sys2Proof.Machine.execLoopSet h r s
  | .loopAssign h r => Sys2Proof.Machine.execLoopAssign h r s
  | .tecDrive h r => Sys2Proof.Machine.execTecDrive h r s
  | .tecCoef h r => Sys2Proof.Machine.execTecCoef h r s
  | .setpoint h r => Sys2Proof.Machine.execSetpoint h r s
  | .tecEnable h r => Sys2Proof.Machine.execTecEnable h r s
  | .tripClear h r => Sys2Proof.Machine.execTripClear h r s
  | .thresholds h r => Sys2Proof.Machine.execThresholds h r s
  | .thmModel h r => Sys2Proof.Machine.execThmModel h r s
  | .holdupMin h r => Sys2Proof.Machine.execHoldupMin h r s
  | .samplerRestore h r => Sys2Proof.Machine.execSamplerRestore h r s
  | .darkRelease h r => Sys2Proof.Machine.execDarkRelease h r s
  | .handover h r => Sys2Proof.Machine.execHandover h r s
  | .rejoin h r => Sys2Proof.Machine.execRejoin h r s
  | .regRead h r => Sys2Proof.Machine.execRegRead h r s
  | .samplerRead h r => Sys2Proof.Machine.execSamplerRead h r s
  | .journalRead h r => Sys2Proof.Machine.execJournalRead h r s
  | .resultRead h r => Sys2Proof.Machine.execResultRead h r s
  | .deltaRead h r => Sys2Proof.Machine.execDeltaRead h r s
  | .patchRead h r => Sys2Proof.Machine.execPatchRead h r s
  | .elementRead h r => Sys2Proof.Machine.execElementRead h r s
  | .commitList h r => Sys2Proof.Machine.execCommitList h r s
  | .historyRead h r => Sys2Proof.Machine.execHistoryRead h r s
  | .fabricCommit h r => Sys2Proof.Machine.execFabricCommit h r s
  | .wlmCfg h r => Sys2Proof.Machine.execWlmCfg h r s
  | .doorbell h r tail cmds => Sys2Proof.Machine.execDoorbell h r tail cmds s
  | .mbxCplHead h r v => Sys2Proof.Machine.execMbxCplHead h r v s
  | .mbxEvtHead h r v => Sys2Proof.Machine.execMbxEvtHead h r v s
  | .reopenRing0 h v => Sys2Proof.Machine.execReopenRing0 h v s
  | .dmaError h r => Sys2Proof.Machine.execDmaError h r s
  | .msixModerationTimeout h r evt => Sys2Proof.Machine.execMsixModerationTimeout h r evt s
  | .remoteDatagram h port srcAddr srcPort payload => Sys2Proof.Machine.execRemoteDatagram h port srcAddr srcPort payload s
  | .smbusBlockRead h cmd => Sys2Proof.Machine.execSmbusBlockRead h cmd s
  | .alertResponse h => Sys2Proof.Machine.execAlertResponse h s
  | .tbSnap h v => Sys2Proof.Machine.execTbSnap h v s
  | .tbCntRead h => Sys2Proof.Machine.execTbCntRead h s
  | .tbPpsCtrlWrite h v => Sys2Proof.Machine.execTbPpsCtrlWrite h v s
  | .tbCmpFiredClear h v => Sys2Proof.Machine.execTbCmpFiredClear h v s
  | .fcStickyClear h w v => Sys2Proof.Machine.execFcStickyClear h w v s
  | .fcWireClear h w v => Sys2Proof.Machine.execFcWireClear h w v s
  | .rearm h v => Sys2Proof.Machine.execRearm h v s
  | .pmcCtrlWrite h v => Sys2Proof.Machine.execPmcCtrlWrite h v s
  | .pmcLoad h v inc => Sys2Proof.Machine.execPmcLoad h v inc s
  | .pmcOvfClear h w v => Sys2Proof.Machine.execPmcOvfClear h w v s
  | .pmcPreHiWrite h c v => Sys2Proof.Machine.execPmcPreHiWrite h c v s
  | .pmcCntLoRead h c => Sys2Proof.Machine.execPmcCntLoRead h c s
  | .registerWrite h off size v => Sys2Proof.Machine.execRegisterWrite h off size v s
  | .powerOnReset h rail mv => Sys2Proof.Machine.execPowerOnReset h rail mv s
  | .porRelease h => Sys2Proof.Machine.execPorRelease h s
  | .modRst => Sys2Proof.Machine.execModRst s
  | .railExcursion h rail mv => Sys2Proof.Machine.execRailExcursion h rail mv s
  | .railReturn h rail mv => Sys2Proof.Machine.execRailReturn h rail mv s
  | .pwrFailAssert => Sys2Proof.Machine.execPwrFailAssert s
  | .pwrFailRelease => Sys2Proof.Machine.execPwrFailRelease s
  | .vkeepLoss h => Sys2Proof.Machine.execVkeepLoss h s
  | .pcieReset h cause cut => Sys2Proof.Machine.execPcieReset h cause cut s
  | .defaultTargetAccess h master write beats addr => Sys2Proof.Machine.execDefaultTargetAccess h master write beats addr s
  | .watchdogExpiry h core cut => Sys2Proof.Machine.execWatchdogExpiry h core cut s
  | .coreResume h core => Sys2Proof.Machine.execCoreResume h core s
  | .debugHalt h core => Sys2Proof.Machine.execDebugHalt h core s
  | .debugResume h => Sys2Proof.Machine.execDebugResume h s
  | .tecTrip z => Sys2Proof.Machine.execTecTrip z s
  | .ppsInEdge => Sys2Proof.Machine.execPpsInEdge s
  | .faultAssert h src det => Sys2Proof.Machine.execFaultAssert h src det s
  | .faultClear h src => Sys2Proof.Machine.execFaultClear h src s
  | .wireFault h src => Sys2Proof.Machine.execWireFault h src s
  | .collectorParityError h => Sys2Proof.Machine.execCollectorParityError h s
  | .faultNTimeout h => Sys2Proof.Machine.execFaultNTimeout h s
  | .keeperCrcCheck h flipped => Sys2Proof.Machine.execKeeperCrcCheck h flipped s
  | .forceRelease h => Sys2Proof.Machine.execForceRelease h s
  | .epochStrobe h k => Sys2Proof.Machine.execEpochStrobe h k s
  | .zeroCodeEpoch h seq ring => Sys2Proof.Machine.execZeroCodeEpoch h seq ring s
  | .settlingEnd h seq ring => Sys2Proof.Machine.execSettlingEnd h seq ring s
  | .verifyDeadline h inPort => Sys2Proof.Machine.execVerifyDeadline h inPort s
  | .prickingEntryStrobe h => Sys2Proof.Machine.execPrickingEntryStrobe h s
  | .prickingCycleBoundary h => Sys2Proof.Machine.execPrickingCycleBoundary h s
  | .ppsOutEdge h => Sys2Proof.Machine.execPpsOutEdge h s
  | .ppsPulseEnd h => Sys2Proof.Machine.execPpsPulseEnd h s
  | .refreshOrigin h => Sys2Proof.Machine.execRefreshOrigin h s
  | .ledgerMinuteBoundary h => Sys2Proof.Machine.execLedgerMinuteBoundary h s
  | .ledgerMinuteClose h => Sys2Proof.Machine.execLedgerMinuteClose h s
  | .heldEventSweep h => Sys2Proof.Machine.execHeldEventSweep h s
  | .anchorRewrite h => Sys2Proof.Machine.execAnchorRewrite h s
  | .tbWrap h => Sys2Proof.Machine.execTbWrap h s
  | .syncReceived h dom corr filt origin utc => Sys2Proof.Machine.execSyncReceived h dom corr filt origin utc s
  | .syncTimeout h dom => Sys2Proof.Machine.execSyncTimeout h dom s
  | .holdoverLimitExpiry h => Sys2Proof.Machine.execHoldoverLimitExpiry h s
  | .freerunTimeout h dom => Sys2Proof.Machine.execFreerunTimeout h dom s
  | .timeLinkCompare h phase linkOk => Sys2Proof.Machine.execTimeLinkCompare h phase linkOk s
  | .stageStd h bad1 bad2 why => Sys2Proof.Machine.execStageStd h bad1 bad2 why s
  | .stagePrk h bad1 bad2 why => Sys2Proof.Machine.execStagePrk h bad1 bad2 why s
  | .restoreIdle h => Sys2Proof.Machine.execRestoreIdle h s
  | .tileUpdate h t => Sys2Proof.Machine.execTileUpdate h t s
  | .injReload h g => Sys2Proof.Machine.execInjReload h g s
  | .disarm h k => Sys2Proof.Machine.execDisarm h k s
  | .tambourHandover h => Sys2Proof.Machine.execTambourHandover h s
  | .eyeletDark h => Sys2Proof.Machine.execEyeletDark h s
  | .tambourNop h => Sys2Proof.Machine.execTambourNop h s
  | .reservedOperation h code => Sys2Proof.Machine.execReservedOperation h code s
  | .tambourStop h phase applied uaddr => Sys2Proof.Machine.execTambourStop h phase applied uaddr s
  | .forcedStop h phase applied uaddr => Sys2Proof.Machine.execForcedStop h phase applied uaddr s
  | .uncorrectableEcc h nano site => Sys2Proof.Machine.execUncorrectableEcc h nano site s
  | .patchScrub h hit => Sys2Proof.Machine.execPatchScrub h hit s
  | .waitTimeout h cond g uaddr => Sys2Proof.Machine.execWaitTimeout h cond g uaddr s
  | .tambourResume h => Sys2Proof.Machine.execTambourResume h s
  | .holdRelease h => Sys2Proof.Machine.execHoldRelease h s
  | .refreshSlot h t fails => Sys2Proof.Machine.execRefreshSlot h t fails s
  | .ditherWindow h t => Sys2Proof.Machine.execDitherWindow h t s
  | .needleSlewStep h t => Sys2Proof.Machine.execNeedleSlewStep h t s
  | .windowEnd h t fails => Sys2Proof.Machine.execWindowEnd h t fails s
  | .deglitchRelease h e heater => Sys2Proof.Machine.execDeglitchRelease h e heater s
  | .heaterSlewStep h t => Sys2Proof.Machine.execHeaterSlewStep h t s
  | .rangeHoldEnd h e => Sys2Proof.Machine.execRangeHoldEnd h e s
  | .heaterComplianceFail h e => Sys2Proof.Machine.execHeaterComplianceFail h e s
  | .heaterSumOver h => Sys2Proof.Machine.execHeaterSumOver h s
  | .conversionEnd h ch c => Sys2Proof.Machine.execConversionEnd h ch c s
  | .spareTestEnd h ch normal => Sys2Proof.Machine.execSpareTestEnd h ch normal s
  | .adcConversionTimeout h g => Sys2Proof.Machine.execAdcConversionTimeout h g s
  | .regularPassStart h => Sys2Proof.Machine.execRegularPassStart h s
  | .lockinWindowEnd h e => Sys2Proof.Machine.execLockinWindowEnd h e s
  | .loopHoldTimeout h e => Sys2Proof.Machine.execLoopHoldTimeout h e s
  | .capJob h => Sys2Proof.Machine.execCapJob h s
  | .fieldRefinement h e mean => Sys2Proof.Machine.execFieldRefinement h e mean s
  | .telemetrySweep h ch c => Sys2Proof.Machine.execTelemetrySweep h ch c s
  | .calRoundStart h => Sys2Proof.Machine.execCalRoundStart h s
  | .calStep h avg => Sys2Proof.Machine.execCalStep h avg s
  | .adcSelfCalEnd h g mid => Sys2Proof.Machine.execAdcSelfCalEnd h g mid s
  | .refOkSet h drift => Sys2Proof.Machine.execRefOkSet h drift s
  | .referenceFallback h => Sys2Proof.Machine.execReferenceFallback h s
  | .diodePass h temps => Sys2Proof.Machine.execDiodePass h temps s
  | .zoneMean h => Sys2Proof.Machine.execZoneMean h s
  | .diodeCrossCheck h => Sys2Proof.Machine.execDiodeCrossCheck h s
  | .dieSensorRead h temps => Sys2Proof.Machine.execDieSensorRead h temps s
  | .thermistorRead h ohms => Sys2Proof.Machine.execThermistorRead h ohms s
  | .throttleStep h grp => Sys2Proof.Machine.execThrottleStep h grp s
  | .pwmReload h z => Sys2Proof.Machine.execPwmReload h z s
  | .setpointAverage h avg => Sys2Proof.Machine.execSetpointAverage h avg s
  | .setpointSourceLost h => Sys2Proof.Machine.execSetpointSourceLost h s
  | .sliceRebuilt h => Sys2Proof.Machine.execSliceRebuilt h s
  | .journalBurst h mv => Sys2Proof.Machine.execJournalBurst h mv s
  | .holdupRetry h mv => Sys2Proof.Machine.execHoldupRetry h mv s
  | .historySecond h deferred writeFail => Sys2Proof.Machine.execHistorySecond h deferred writeFail s
  | .windowBoundary h => Sys2Proof.Machine.execWindowBoundary h s
  | .counterOverflow h c inc => Sys2Proof.Machine.execCounterOverflow h c inc s
  | .healthScore => Sys2Proof.Machine.execHealthScore s
  | .patchCompare => Sys2Proof.Machine.execPatchCompare s
  | .intakeTimeout h => Sys2Proof.Machine.execIntakeTimeout h s
  | .handoverBoundary => Sys2Proof.Machine.execHandoverBoundary s
  | .handoverAbandon cause => Sys2Proof.Machine.execHandoverAbandon cause s
  | .provingEnd h => Sys2Proof.Machine.execProvingEnd h s
  | .interlockDisagreement => Sys2Proof.Machine.execInterlockDisagreement s
  | .gracePeriodEnd => Sys2Proof.Machine.execGracePeriodEnd s
  | .tokenTimeout h => Sys2Proof.Machine.execTokenTimeout h s
  | .resyncComplete h ms => Sys2Proof.Machine.execResyncComplete h ms s
  | .helloSend h => Sys2Proof.Machine.execHelloSend h s
  | .hello h link frame => Sys2Proof.Machine.execHello h link frame s
  | .helloTimeout h link => Sys2Proof.Machine.execHelloTimeout h link s
  | .laneLockLoss h link lane => Sys2Proof.Machine.execLaneLockLoss h link lane s
  | .route h link frame => Sys2Proof.Machine.execRoute h link frame s
  | .routeAdvertise h => Sys2Proof.Machine.execRouteAdvertise h s
  | .triggeredUpdate h link => Sys2Proof.Machine.execTriggeredUpdate h link s
  | .routeExpiry h addr => Sys2Proof.Machine.execRouteExpiry h addr s
  | .addrReqSend h => Sys2Proof.Machine.execAddrReqSend h s
  | .addrReq h link frame => Sys2Proof.Machine.execAddrReq h link frame s
  | .addrGrant h link frame => Sys2Proof.Machine.execAddrGrant h link frame s
  | .propose h link frame => Sys2Proof.Machine.execPropose h link frame s
  | .ready h link frame => Sys2Proof.Machine.execReady h link frame s
  | .go h link frame => Sys2Proof.Machine.execGo h link frame s
  | .abort h link frame => Sys2Proof.Machine.execAbort h link frame s
  | .done h link frame => Sys2Proof.Machine.execDone h link frame s
  | .readyDeadline h slot => Sys2Proof.Machine.execReadyDeadline h slot s
  | .goSendDeadline h slot => Sys2Proof.Machine.execGoSendDeadline h slot s
  | .goDeadline h k => Sys2Proof.Machine.execGoDeadline h k s
  | .fabricOutcomeTimeout h slot => Sys2Proof.Machine.execFabricOutcomeTimeout h slot s
  | .darkNoticeRepeat h => Sys2Proof.Machine.execDarkNoticeRepeat h s
  | .darkNotice h link frame => Sys2Proof.Machine.execDarkNotice h link frame s
  | .timeCheckSend h => Sys2Proof.Machine.execTimeCheckSend h s
  | .timeCheck h link frame fine => Sys2Proof.Machine.execTimeCheck h link frame fine s
  | .telemetrySend h => Sys2Proof.Machine.execTelemetrySend h s
  | .telemetry h link frame => Sys2Proof.Machine.execTelemetry h link frame s
  | .handoverNotice h link frame => Sys2Proof.Machine.execHandoverNotice h link frame s
  | .imageAuthenticated h fail0 fail1 img => Sys2Proof.Machine.execImageAuthenticated h fail0 fail1 img s
  | .lpddr4xTrained h gib ok => Sys2Proof.Machine.execLpddr4xTrained h gib ok s
  | .monitorSelfTestDone h lost => Sys2Proof.Machine.execMonitorSelfTestDone h lost s
  | .firstWriteDone h => Sys2Proof.Machine.execFirstWriteDone h s
  | .ring0Open h tempTimeout timeTimeout => Sys2Proof.Machine.execRing0Open h tempTimeout timeTimeout s
  | .historyStoreReady h present hdrOk capacity => Sys2Proof.Machine.execHistoryStoreReady h present hdrOk capacity s
  | .tokenRefill h r => Sys2Proof.Machine.execTokenRefill h r s
  | .tecTripRelease z => Sys2Proof.Machine.execTecTripRelease z s
  | .intakeDigest h => Sys2Proof.Machine.execIntakeDigest h s
  | .masterSelection h dom selected => Sys2Proof.Machine.execMasterSelection h dom selected s
  | .delayRequestResponse h dom answer => Sys2Proof.Machine.execDelayRequestResponse h dom answer s
  | .pcieLinkUp h rate width => Sys2Proof.Machine.execPcieLinkUp h rate width s
  | .powerManagementState h d3 => Sys2Proof.Machine.execPowerManagementState h d3 s
  | .neighbourLagUpdate h => Sys2Proof.Machine.execNeighbourLagUpdate h s
  | .htrSumUpdate h => Sys2Proof.Machine.execHtrSumUpdate h s
  | .phaseAccumulatorTick h => Sys2Proof.Machine.execPhaseAccumulatorTick h s
  | .pwmDutyEdge h z => Sys2Proof.Machine.execPwmDutyEdge h z s

end Sys2Proof.Machine
end

