-- ==== Sys2Proof/Machine/Step.lean ====
section
/-!
DEFINITION. One step of the module: the command at the front of the queue, or one tick of the 500 MHz clock when
no command waits (assumption 1).
-/

namespace Sys2Proof.Machine

/-- Take the first waiting command and run it with the rest of the queue; with none waiting, one clock tick passes in
every hoop that is enabled (R63, R64), with the microcycles of an operation that Tambour's patch runs (R138) and a GO that waits (R410). -/
def step (s : State) : Host.Outcome State Fault Refusal :=
  match s.pending with
  | [] => .next (goTick (microTick (idleTick s)))
  | i :: rest => exec i { s with pending := rest }

/-- Put the command that a table word spells at the front of the queue; no word of this table spells one. -/
def State.withFetchWord (s : State) (nbits w : Nat) : State :=
  match decodeTableWord nbits w with
  | some i => { s with pending := i :: s.pending }
  | none => s

end Sys2Proof.Machine
end

