-- ==== Sys2Proof/Safety.lean ====
section
/-!
DEFINITION. What the statements are said in: a command that completes, a safe step, the canonical form of the byte memories, a quiet module, and
the front command of a ring that passes its checks.
-/

namespace Sys2Proof.Machine

/-- The command answers a next state. -/
def Completes (i : Instr) (s : State) : Prop := ∃ t, exec i s = .next t

/-- A run of one step that neither faults nor is refused. -/
def StepSafe (s : State) : Prop := ∃ t, step s = .next t

/-- The byte memory of every hoop is in its canonical form. -/
def State.memWf (s : State) : Bool := Memory.wf s.a.mram && Memory.wf s.b.mram

/-- No live S3 or S4 source and no parity error in any hoop, and no hand-over under way. -/
def State.quiet (s : State) : Bool := s.hoops.all (fun k => !(s.hoop k).lineOn && !(s.hoop k).dk.fcPar) && s.duo.ho.isNone

/-! ## What a statement may rest on -/

/-- `Cm` without what telling, faults, darks and `settle` may change. -/
def Cm.calm (b : Cm) : Cm :=
  { b with pending := [], judging := [], history := [] }

/-- `Prk` without what telling, faults, darks and `settle` may change. -/
def Prk.calm (b : Prk) : Prk :=
  { b with slots := [], lit := [], override := 0 }

/-- `Tmb` without what telling, faults, darks and `settle` may change. -/
def Tmb.calm (b : Tmb) : Tmb :=
  { b with urgent := [], stopReq := none, darkReq := 0, stageDelta := [] }

/-- `Drv` without what telling, faults, darks and `settle` may change. -/
def Drv.calm (b : Drv) : Drv :=
  { b with needles := [], tiles := [], dglCnt := 0, outEn := false }

/-- `Dk` without what telling, faults, darks and `settle` may change. -/
def Dk.calm (b : Dk) : Dk :=
  { b with force := false, cause := 0, time := 0, count := 0, remote := false, confirmed := false, confirmed1 := [], relAccepted := false, vouch := false }

/-- `Jnl` without what telling, faults, darks and `settle` may change. -/
def Jnl.calm (b : Jnl) : Jnl :=
  { b with buf := [], loss := none, lost := 0, oldest := 0 }

/-- `Ledger` without what telling, faults, darks and `settle` may change. -/
def Ledger.calm (b : Ledger) : Ledger :=
  { b with openRecs := [], closing := [], runs := [], flags := 0 }

/-- `Mbx` without what telling, faults, darks and `settle` may change. -/
def Mbx.calm (b : Mbx) : Mbx :=
  { b with rings := [], msix := [], rrGreen := 0, rrYellow := 0, udpTx := [], accepted := [] }

/-- `Evt` without what telling, faults, darks and `settle` may change. -/
def Evt.calm (b : Evt) : Evt :=
  { b with raised := 0, cnt := [], dropped := 0 }

/-- `Pair` without what telling, faults, darks and `settle` may change. -/
def Pair.calm (b : Pair) : Pair :=
  { b with role := .offline, token := false, sent := [], awaiting := [], post := none }

/-- `Wlm` without what telling, faults, darks and `settle` may change. -/
def Wlm.calm (b : Wlm) : Wlm :=
  { b with tx := [], links := [], seq := 0, localSeq := 0, notices := [], noticeTx := 0, noRoute := 0, handOff := [], qdropEvSec := none }

/-- `Pmc` without what telling, faults, darks and `settle` may change. -/
def Pmc.calm (b : Pmc) : Pmc :=
  { b with cnt := [], ovf := 0, ovfTold := 0, ovfInWin := false, jump := [] }

/-- `Boot` without what telling, faults, darks and `settle` may change. -/
def Boot.calm (b : Boot) : Boot :=
  { b with stage := .loader, heldEvents := [] }

/-- The hoop without what telling, faults, darks and `settle` may change. -/
def Hoop.calm (x : Hoop) : Hoop :=
  { x with thr := [], fc := {}, cm := x.cm.calm, prk := x.prk.calm, tmb := x.tmb.calm, drv := x.drv.calm, dk := x.dk.calm, jnl := x.jnl.calm, led := x.led.calm, mbx := x.mbx.calm, evt := x.evt.calm, pair := x.pair.calm, wlm := x.wlm.calm, pmc := x.pmc.calm, boot := x.boot.calm }

/-- `Dk` without what telling and a quiet `settle` may change. -/
def Dk.core (b : Dk) : Dk :=
  { b with vouch := false }

/-- `Pair` without what telling and a quiet `settle` may change. -/
def Pair.core (b : Pair) : Pair :=
  { b with role := .offline, token := false, sent := [], awaiting := [] }

/-- `Wlm` without what telling and a quiet `settle` may change. -/
def Wlm.core (b : Wlm) : Wlm :=
  { b with tx := [], links := [], noRoute := 0, handOff := [], qdropEvSec := none }

/-- `Fc` without what telling and a quiet `settle` may change. -/
def Fc.core (b : Fc) : Fc :=
  { b with firstNew := false }

/-- The hoop without what telling, completions and a quiet `settle` may change. -/
def Hoop.core (x : Hoop) : Hoop :=
  { x with fc := x.fc.core, pmc := {}, evt := {}, mbx := {}, jnl := {}, boot := {}, dk := x.dk.core, pair := x.pair.core, wlm := x.wlm.core }

/-- A ring without its event entries and their counts. -/
def Ring.mail (g : Ring) : Ring :=
  { g with evts := [], evtSeq := 0, evtTail := 0, evtPhase := true, evtUnsig := 0, evtDrop := 0, dropsPending := 0 }

/-- The rings of a hoop without their event entries. -/
def Hoop.mail (x : Hoop) (r : Nat) : Ring := (x.ring r).mail

/-- The fault collector without FC_STATUS.DARK, which the keeper's force sets, and without the note that event 455 is still to tell FC_FIRST. -/
def Hoop.lines (x : Hoop) : Fc := { x.fc with dark := false, firstNew := false }

/-- The hoop without what telling may change: counters, event entries and their numbers, the vectors signalled, the events held before ring 0
opens. -/
def Hoop.untold (x : Hoop) : Hoop :=
  { x with pmc := {}, evt := {}, mbx := { x.mbx with rings := [], msix := [] }, boot := { x.boot with heldEvents := [] } }

/-- Nothing waits in the hoop for `settle`: no digest and no frame to pass on, no capture of FC_FIRST to tell, its DARK_N switch as the conditions of R286 say, its start-up stage
complete as far as it goes. -/
def Hoop.poised (x : Hoop) : Bool :=
  x.pair.sent.isEmpty && x.wlm.handOff.isEmpty && !x.fc.firstNew && vouches x == x.dk.vouch && x.tmb.st != .halted && x.pair.role != .resync
    && !(x.boot.stage == .lattice && x.drv.nFirstDone && x.drv.hFirstDone && x.dk.confirmed && x.boot.tecEnabledAt.isSome)

/-- A quiet module in which nothing waits for `settle`. -/
def State.poised (s : State) : Bool := s.quiet && s.hoops.all (fun k => (s.hoop k).poised)

/-- Hoop `h` is enabled, and is `x`. -/
def State.here (s : State) (h : HoopId) (x : Hoop) : Prop := s.has h = true ∧ s.hoop h = x

/-- The row completes: `exec` answers a next state. Hoop `h` is then `y` and the other hoop is as it was, both but for what `settle` may change. -/
def CompletesAs (i : Instr) (s : State) (h : HoopId) (y : Hoop) : Prop :=
  ∃ t, exec i s = .next t ∧ (t.hoop h).calm = y.calm ∧ (t.hoop (other h)).calm = (s.hoop (other h)).calm

/-- The row completes: `exec` answers a next state, and of hoop `h` as it is then `P` holds. -/
def CompletesWith (i : Instr) (s : State) (h : HoopId) (P : Hoop → Prop) : Prop := ∃ t, exec i s = .next t ∧ P (t.hoop h)

/-! ## Selda commands -/

/-- The context in which the command `c` at the front of ring `r` is served. -/
def ctxOf (s : State) (h : HoopId) (r : Nat) (c : ReadCmd) : Ctx :=
  { ring := r, cmd := c, seq := (s.hoop h).nextCplSeq r, peer := s.hoop (other h) }

/-- The ACTIVE hoop `h` serves ring `r` next, whose front command is `c` of opcode `op` (R306, R348). -/
def atFront (s : State) (h : HoopId) (r op : Nat) (c : ReadCmd) : Bool :=
  s.has h && decide (r < 16) && ((s.hoop h).ring r).read.head? == some c && (hdrOf c.bytes).opcode == op && nextRing (s.hoop h) == some r
    && (s.hoop h).pair.role == .active

/-- The front command passes checks 1 to 4 of R86 and is not struck by a reaction line (R360, R363): what is left is the command's own effect. -/
def passes (s : State) (h : HoopId) (r op : Nat) (c : ReadCmd) (v : Verb) : Bool :=
  atFront s h r op c && !c.aborted && fieldsOk (breakRun r op (s.hoop h)) r c.bytes && v.check (ctxOf s h r c) (breakRun r op (s.hoop h))
    && (r == 0 || agentOp op) && !(op == 0x23 && c.remote.isSome)

/-- The command's own effect on its hoop, and the answer its completion gives. -/
def ran (s : State) (h : HoopId) (r op : Nat) (c : ReadCmd) (v : Verb) : Ans × Hoop := v.run (ctxOf s h r c) (breakRun r op (s.hoop h))

/-- The command's entries pass checks 4 to 9 of R86: the commit that they compile to, and its epoch. -/
def accepts (s : State) (h : HoopId) (r op : Nat) (c : ReadCmd) (es : List Edit) (cmp : Compiled) (ens : Nat) : Bool :=
  let hd := hdrOf c.bytes
  decideCommit (breakRun r op (s.hoop h)) { ring := r } hd.hasEpoch hd.exact hd.epochNs es == .accept cmp ens

/-- The entries `es` of a commit with the named epoch `ens` pass checks 4 to 9 of R86 outside a pricking, one by one: each entry is the asker's (4) and
busies nothing (5), the keepers are not forced, the first writes are done and the reference is steady (R178, R198), the table has room and no ring's
thread limit is passed (5), the temperature lets commits be taken (6), `cmp` is what they compile to (8), it clashes with no accepted commit (R49), and
the epoch is neither late nor too near to another (9). -/
def meetsChecks (x : Hoop) (w : Asker) (ens : Nat) (es : List Edit) (cmp : Compiled) : Bool :=
  es.all (fun e => ownsEdit x w (projected x ens) e) && !x.dk.force && x.drv.nFirstDone && x.drv.hFirstDone && x.mon.refOk && x.mon.refSrc != 2
    && es.all (fun e => busyEdit x ens (projected x ens) es e == none) && decide (x.cm.pending.length < 64) && tagOver x (newTags es) == none
    && x.ths.commitOk && !x.pricking && compile x ens (projCode x ens) es == some (some cmp) && !orderClash x ens cmp.changes && timesOk x ens cmp.n

/-- The one entry of a CREATE, MODIFY, REOPEN, RELEASE or DARK. -/
def editFor (s : State) (h : HoopId) (r op : Nat) (c : ReadCmd) : Edit :=
  editOf op (ringTag (breakRun r op (s.hoop h)) r) (ctxOf s h r c).tlvList

/-- A commit stands in the table under SEQ `q` of ring `r`, with these changes and this delta, for this epoch. -/
def holdsCommit (y : Hoop) (q r : Nat) (cmp : Compiled) (ens : Nat) : Prop :=
  ∃ m ∈ y.cm.pending, m.seq = q ∧ m.ring = r ∧ m.epochNs = ens ∧ m.changes = cmp.changes ∧ m.delta = cmp.delta ∧ m.chans = cmp.chans

/-- The response that a read writes into the buffer that the TLV `b` gives it (R373): a head, then as many whole records as fit. -/
def responseOf (seq : Nat) (isB : Bool) (b : Bytes) (size : Nat) (recs : List Bytes) : Response :=
  let out := recs.take ((field b 8 4 - 16) / max 1 size)
  { addr := BitVec.ofNat 64 (field b 0 8)
    bytes := leBytes 6 seq ++ [if isB then 1 else 0, 0] ++ leBytes 4 out.length ++ leBytes 4 (min (recs.length - out.length) 0xFFFFFFFF) ++ out.flatten }

/-- What a read does on hoop A's buffer and on hoop B's: it completes, writes its response there and changes nothing else. -/
def CompletesReading (i : Instr) (s : State) (h : HoopId) (r : Nat) (c : ReadCmd) (size : Nat) (recs : List Bytes) : Prop :=
  let x := s.hoop h
  ∀ b, (ctxOf s h r c).tlv (if x.isB then 5 else 4) = some b →
    CompletesAs i s h { x with mbx := { x.mbx with responses := x.mbx.responses ++ [responseOf (x.nextCplSeq r) x.isB b size recs] } }

/-! ## Walimin frames -/

/-- A sound frame of a type arrives on an enabled link of a hoop whose agent runs. -/
def heard (x : Hoop) (k : Nat) (b : Bytes) (type : Nat) : Bool := hears x k && badForm b == none && frType b == type

/-- A frame of a type for `dst` reaches a hoop in service, whose window it passes: the windows then. -/
def arrives (x : Hoop) (k : Nat) (b : Bytes) (type dst : Nat) (m : SMap Win) : Bool :=
  heard x k b type && frDst b == dst && dst != 0 && (x.pair.role == .active || x.pair.role == .standby) && passWin x.wlm.windows b == some m

/-- A frame of a type for the address that the hoop holds. -/
def delivered (x : Hoop) (k : Nat) (b : Bytes) (type : Nat) (m : SMap Win) : Bool :=
  arrives x k b type x.wlm.addr.toNat m && x.wlm.addr.toNat != bcast

/-- The hoop as the effect of a delivered frame finds it: the frame counted, its window marked. -/
def received (k : Nat) (m : SMap Win) (x : Hoop) : Hoop := (fun y : Hoop => { y with wlm := { y.wlm with windows := m } }) (gotFrame k x)

/-- A frame stands in the control queue of a link. -/
def sends (y : Hoop) (l : Nat) (b : Bytes) : Prop := ({ link := l, bytes := b } : TxFrame) ∈ y.wlm.tx

/-- The frame that the hoop would originate next (R337, R394, R396). -/
def nextFrame (x : Hoop) (dst type : Nat) (p : Bytes) : Bytes := frameBytes dst x.wlm.addr.toNat 15 type x.wlmOrigin (nextSeq x.wlm.seq) p

/-- The control queue of a link has room for this many bytes (R393). -/
def roomFor (x : Hoop) (l n : Nat) : Bool := decide (queued x l false + n ≤ 32768)

/-! ## What holds of the module as a whole -/

/-- The pins follow the hoops (R285 to R287, R310, R312): every DARK_N switch stands as its conditions say, and the balls as the hoops drive them. -/
def State.pinsWf (s : State) : Bool :=
  s.hoops.all (fun h => (s.hoop h).dk.vouch == vouches (s.hoop h)) && s.balls.darkN == s.hoops.any (fun h => (s.hoop h).dk.vouch)
    && s.balls.faultN == !s.hoops.any (fun h => (s.hoop h).fc.pulse || (s.hoop h).fc.hold || (s.hoop h).dk.fcPar)
    && s.balls.hoopActA == (s.a.pair.token && s.duo.grace.isNone) && s.balls.hoopActB == (Config.duplex s.a.part && s.b.pair.token && s.duo.grace.isNone)
    && s.balls.calSel == (if Config.duplex s.a.part && s.b.pair.token then s.b.mon.calSel else s.a.mon.calSel)

/-- Rows that can write the byte memory of a hoop: the journal's bursts and final records, the sampler's records, the standby's copy of a command, the stored
commands that start-up runs again. -/
def writesMram : Instr → Bool
  | .journalBurst .. | .holdupRetry .. | .pwrFailAssert | .fieldRefinement .. | .samplerRestore .. | .intakeDigest .. | .lpddr4xTrained .. => true
  | _ => false

/-! ## What a row leaves unchanged -/

/-- A part of a hoop that rows leave as it was. -/
inductive Block where
  | settings
  | calStore
  | keeperImg
  | bus
  | freeIx
  | pwr
  | xbar
  | hist
  | ths
  | slice
  | prkSlice
  | oldSlices
  | mwrites
  | rmap
  | mon
  | bob
  | tec
  | led
  | jnl
  | evt
  | mbx
  | pair
  | dk
  | boot
  | prk
  | tmb
  | drv
  | cm
  | wlm
  | tb
deriving DecidableEq, Repr

/-- The part stands in `y` as in `x`; of a part that telling, faults, darks and `settle` reach, what they may not change. -/
def Block.kept (b : Block) (x y : Hoop) : Prop :=
  match b with
  | .settings => y.settings = x.settings
  | .calStore => y.calStore = x.calStore
  | .keeperImg => y.keeperImg = x.keeperImg
  | .bus => y.bus = x.bus
  | .freeIx => y.freeIx = x.freeIx
  | .pwr => y.pwr = x.pwr
  | .xbar => y.xbar = x.xbar
  | .hist => y.hist = x.hist
  | .ths => y.ths = x.ths
  | .slice => y.slice = x.slice
  | .prkSlice => y.prkSlice = x.prkSlice
  | .oldSlices => y.oldSlices = x.oldSlices
  | .mwrites => y.mwrites = x.mwrites
  | .rmap => y.rmap = x.rmap
  | .mon => y.mon = x.mon
  | .bob => y.bob = x.bob
  | .tec => y.tec = x.tec
  | .led => y.led.calm = x.led.calm
  | .jnl => y.jnl.calm = x.jnl.calm
  | .evt => y.evt.calm = x.evt.calm
  | .mbx => y.mbx.calm = x.mbx.calm
  | .pair => y.pair.calm = x.pair.calm
  | .dk => y.dk.calm = x.dk.calm
  | .boot => y.boot.calm = x.boot.calm
  | .prk => y.prk.calm = x.prk.calm
  | .tmb => y.tmb.calm = x.tmb.calm
  | .drv => y.drv.calm = x.drv.calm
  | .cm => y.cm.calm = x.cm.calm
  | .wlm => y.wlm.calm = x.wlm.calm
  | .tb => y.tb = x.tb

/-- Rows that may write any part: resets, start-up of the memory, the end of a RESYNC, and a digest's commands at the standby. -/
def writesAny : Instr → Bool
  | .powerOnReset .. | .porRelease .. | .modRst | .resyncComplete .. | .lpddr4xTrained .. | .intakeDigest .. => true
  | _ => false

/-- Rows that may write the settings that every boot applies again. -/
def writesSettings : Instr → Bool
  | .netCfg .. | .ptpCfg .. | .verifyCfg .. | .adcProfile .. | .refSel .. | .calCfg .. | .loopSet .. | .loopAssign .. | .tecDrive .. | .tecCoef .. | .setpoint ..
  | .thresholds .. | .thmModel .. | .holdupMin .. | .wlmCfg .. => true
  | _ => false

/-- Rows that may write the calibration store. -/
def writesCalStore : Instr → Bool
  | .calStep .. | .journalBurst .. | .holdupRetry .. => true
  | _ => false

/-- Rows that may write the keeper image. -/
def writesKeeperImg : Instr → Bool
  | .refreshSlot .. | .journalBurst .. | .holdupRetry .. => true
  | _ => false

/-- Rows that may write the latched half of a 64-bit read. -/
def writesBus : Instr → Bool
  | .smbusBlockRead .. | .alertResponse .. | .tbCntRead .. | .pmcCntLoRead .. => true
  | _ => false

/-- Rows that may write the counter of free values (assumption 4). -/
def writesFreeIx : Instr → Bool
  | .refSel .. | .regRead .. | .syncReceived .. | .calRoundStart .. | .telemetrySend .. => true
  | _ => false

/-- Rows that may write the rails and the PCIe link. -/
def writesPwr : Instr → Bool
  | .railExcursion .. | .railReturn .. | .vkeepLoss .. | .pcieReset .. | .pcieLinkUp .. | .powerManagementState .. => true
  | _ => false

/-- Rows that may write the crossbar. -/
def writesXbar : Instr → Bool
  | .pcieReset .. | .defaultTargetAccess .. | .watchdogExpiry .. => true
  | _ => false

/-- Rows that may write the history. -/
def writesHist : Instr → Bool
  | .ledgerMinuteBoundary .. | .ledgerMinuteClose .. | .conversionEnd .. | .telemetrySweep .. | .historySecond .. | .windowBoundary .. | .historyStoreReady .. => true
  | _ => false

/-- Rows that may write the thermal sensors. -/
def writesThs : Instr → Bool
  | .setpoint .. | .thresholds .. | .thmModel .. | .diodePass .. | .zoneMean .. | .diodeCrossCheck .. | .dieSensorRead .. | .thermistorRead .. | .throttleStep ..
  | .setpointAverage .. | .handoverBoundary => true
  | _ => false

/-- Rows that may write the slice that drives. -/
def writesSlice : Instr → Bool
  | .setpoint .. | .samplerRestore .. | .prickingEntryStrobe .. | .fieldRefinement ..
  | .setpointAverage .. | .sliceRebuilt .. | .monitorSelfTestDone .. => true
  | _ => false

/-- Rows that may write the slices that an active pricking still uses. -/
def writesPrkSlice : Instr → Bool
  | .prkStop .. | .prickingEntryStrobe .. | .prickingCycleBoundary .. | .sliceRebuilt .. | .monitorSelfTestDone .. => true
  | _ => false

/-- Rows that may write the slices kept for what was compiled against them. -/
def writesOldSlices : Instr → Bool
  | .sliceRebuilt .. | .monitorSelfTestDone .. => true
  | _ => false

/-- Rows that may write the writes to the MRAM that wait for a hold-up check. -/
def writesMwrites : Instr → Bool
  | .samplerRestore .. | .refreshSlot .. | .fieldRefinement .. | .calStep .. | .journalBurst .. | .holdupRetry .. | .addrReqSend .. | .addrReq ..
  | .addrGrant .. => true
  | _ => false

/-- Rows that may write the retarget map. -/
def writesRmap : Instr → Bool
  | .prkStop .. | .epochStrobe .. | .zeroCodeEpoch .. | .prickingEntryStrobe .. | .prickingCycleBoundary .. | .windowEnd .. | .conversionEnd .. | .telemetrySweep .. => true
  | _ => false

/-- Rows that may write the monitor. -/
def writesMon : Instr → Bool
  | .prkStop .. | .adcProfile .. | .refSel .. | .calCfg .. | .darkRelease .. | .faultAssert .. | .wireFault .. | .epochStrobe .. | .zeroCodeEpoch ..
  | .verifyDeadline .. | .prickingEntryStrobe .. | .prickingCycleBoundary .. | .stageStd .. | .injReload .. | .disarm .. | .eyeletDark .. | .tambourStop ..
  | .forcedStop .. | .uncorrectableEcc .. | .waitTimeout .. | .windowEnd .. | .conversionEnd .. | .spareTestEnd .. | .adcConversionTimeout ..
  | .regularPassStart .. | .telemetrySweep .. | .calRoundStart .. | .calStep .. | .adcSelfCalEnd .. | .refOkSet .. | .referenceFallback .. | .zoneMean ..
  | .historySecond .. | .handoverBoundary | .interlockDisagreement | .gracePeriodEnd | .tokenTimeout .. | .imageAuthenticated .. | .monitorSelfTestDone ..
  | .firstWriteDone .. => true
  | _ => false

/-- Rows that may write the bobbin. -/
def writesBob : Instr → Bool
  | .loopSet .. | .loopAssign .. | .faultAssert .. | .wireFault .. | .epochStrobe .. | .zeroCodeEpoch .. | .prickingEntryStrobe ..
  | .prickingCycleBoundary .. | .tileUpdate .. | .windowEnd .. | .conversionEnd .. | .spareTestEnd .. | .adcConversionTimeout .. | .regularPassStart ..
  | .lockinWindowEnd .. | .loopHoldTimeout .. | .capJob .. | .fieldRefinement .. | .telemetrySweep .. | .adcSelfCalEnd .. | .handoverBoundary
  | .interlockDisagreement | .gracePeriodEnd | .tokenTimeout .. | .imageAuthenticated .. | .monitorSelfTestDone .. | .neighbourLagUpdate .. => true
  | _ => false

/-- Rows that may write the TEC loops. -/
def writesTec : Instr → Bool
  | .tecDrive .. | .tecCoef .. | .setpoint .. | .tecEnable .. | .tripClear .. | .debugHalt .. | .debugResume .. | .tecTrip .. | .refreshSlot ..
  | .diodePass .. | .zoneMean .. | .dieSensorRead .. | .thermistorRead .. | .throttleStep .. | .pwmReload .. | .setpointAverage .. | .setpointSourceLost ..
  | .handoverBoundary | .interlockDisagreement | .gracePeriodEnd | .tokenTimeout .. | .imageAuthenticated .. | .monitorSelfTestDone .. | .firstWriteDone ..
  | .tecTripRelease .. | .pwmDutyEdge .. => true
  | _ => false

/-- Rows that may write the ledger. -/
def writesLed : Instr → Bool
  | .ledgerMinuteBoundary .. | .ledgerMinuteClose .. => true
  | _ => false

/-- Rows that may write the journal. -/
def writesJnl : Instr → Bool
  | .holdupMin .. | .pwrFailAssert | .journalBurst .. | .holdupRetry .. => true
  | _ => false

/-- Rows that may write the events. -/
def writesEvt : Instr → Bool
  | .eventSub .. => true
  | _ => false

/-- Rows that may write the mailbox. -/
def writesMbx : Instr → Bool
  | .threadRead .. | .ledgerRead .. | .outcomeRead .. | .netCfg .. | .regRead .. | .samplerRead .. | .journalRead .. | .resultRead .. | .deltaRead ..
  | .patchRead .. | .elementRead .. | .commitList .. | .historyRead .. | .remoteDatagram .. | .registerWrite .. | .pcieReset .. => true
  | _ => false

/-- Rows that may write the pair. -/
def writesPair : Instr → Bool
  | .rejoin .. | .epochStrobe .. | .prickingEntryStrobe .. | .stageStd .. | .stagePrk .. | .refreshSlot .. | .windowEnd .. | .heaterComplianceFail ..
  | .healthScore | .patchCompare | .intakeTimeout .. | .handoverBoundary | .provingEnd .. | .interlockDisagreement | .gracePeriodEnd | .tokenTimeout ..
  | .monitorSelfTestDone .. => true
  | _ => false

/-- Rows that may write the dark keeper. -/
def writesDk : Instr → Bool
  | .railReturn .. | .vkeepLoss .. | .collectorParityError .. | .keeperCrcCheck .. | .forceRelease .. | .epochStrobe .. | .prickingEntryStrobe ..
  | .refreshSlot .. | .sliceRebuilt .. | .tokenTimeout .. | .monitorSelfTestDone .. => true
  | _ => false

/-- Rows that may write start-up. -/
def writesBoot : Instr → Bool
  | .domainSwitch .. | .pcieReset .. | .watchdogExpiry .. | .coreResume .. | .debugHalt .. | .debugResume .. | .syncReceived .. | .syncTimeout ..
  | .freerunTimeout .. | .timeLinkCompare .. | .imageAuthenticated .. | .firstWriteDone .. | .ring0Open .. | .masterSelection .. => true
  | _ => false

/-- Rows that may write pricking. -/
def writesPrk : Instr → Bool
  | .create .. | .modify .. | .reopen .. | .release .. | .dark .. | .batch .. | .prkSlotLoad .. | .prkListWrite .. | .prkStart .. | .prkSwap ..
  | .prkSwapDisarm .. | .prkStop .. | .setpoint .. | .fabricCommit .. | .prickingEntryStrobe .. | .prickingCycleBoundary .. | .ledgerMinuteBoundary ..
  | .stagePrk .. | .tambourStop .. | .forcedStop .. | .uncorrectableEcc .. | .conversionEnd .. | .telemetrySweep .. | .zoneMean .. | .setpointAverage ..
  | .handoverBoundary | .propose .. => true
  | _ => false

/-- Rows that may write the Tambour. -/
def writesTmb : Instr → Bool
  | .create .. | .modify .. | .reopen .. | .release .. | .dark .. | .cancel .. | .batch .. | .prkStart .. | .prkSwap .. | .prkSwapDisarm .. | .prkStop ..
  | .setpoint .. | .darkRelease .. | .handover .. | .fabricCommit .. | .faultAssert .. | .wireFault .. | .epochStrobe .. | .zeroCodeEpoch ..
  | .prickingEntryStrobe .. | .prickingCycleBoundary .. | .heldEventSweep .. | .stageStd .. | .stagePrk .. | .restoreIdle .. | .tileUpdate ..
  | .injReload .. | .disarm .. | .tambourHandover .. | .eyeletDark .. | .tambourNop .. | .reservedOperation .. | .tambourStop .. | .forcedStop ..
  | .uncorrectableEcc .. | .patchScrub .. | .waitTimeout .. | .tambourResume .. | .holdRelease .. | .windowEnd .. | .conversionEnd .. | .spareTestEnd ..
  | .adcConversionTimeout .. | .telemetrySweep .. | .adcSelfCalEnd .. | .zoneMean .. | .setpointAverage .. | .sliceRebuilt .. | .tokenTimeout ..
  | .propose .. | .abort .. | .readyDeadline .. | .goSendDeadline .. | .goDeadline .. | .imageAuthenticated .. | .monitorSelfTestDone .. => true
  | _ => false

/-- Rows that may write the drive. -/
def writesDrv : Instr → Bool
  | .samplerRestore .. | .darkRelease .. | .faultAssert .. | .wireFault .. | .epochStrobe .. | .zeroCodeEpoch .. | .prickingEntryStrobe ..
  | .prickingCycleBoundary .. | .refreshOrigin .. | .stagePrk .. | .tileUpdate .. | .eyeletDark .. | .tambourStop .. | .forcedStop ..
  | .uncorrectableEcc .. | .refreshSlot .. | .ditherWindow .. | .needleSlewStep .. | .windowEnd .. | .deglitchRelease .. | .heaterSlewStep ..
  | .rangeHoldEnd .. | .heaterComplianceFail .. | .conversionEnd .. | .spareTestEnd .. | .adcConversionTimeout .. | .regularPassStart ..
  | .lockinWindowEnd .. | .loopHoldTimeout .. | .fieldRefinement .. | .telemetrySweep .. | .adcSelfCalEnd .. | .zoneMean .. | .dieSensorRead ..
  | .thermistorRead .. | .throttleStep .. | .sliceRebuilt .. | .handoverBoundary | .handoverAbandon .. | .interlockDisagreement | .gracePeriodEnd
  | .tokenTimeout .. | .imageAuthenticated .. | .monitorSelfTestDone .. | .firstWriteDone .. | .htrSumUpdate .. | .phaseAccumulatorTick .. => true
  | _ => false

/-- Rows that may write the commits. -/
def writesCm : Instr → Bool
  | .verifyCfg .. | .stageStd .. | .stagePrk .. | .tambourStop .. | .forcedStop .. | .uncorrectableEcc .. => true
  | _ => false

/-- Rows that may write the fabric. -/
def writesWlm : Instr → Bool
  | .cancel .. | .fabricCommit .. | .wlmCfg .. | .epochStrobe .. | .zeroCodeEpoch .. | .stageStd .. | .stagePrk .. | .tambourStop .. | .forcedStop ..
  | .uncorrectableEcc .. | .windowEnd .. | .conversionEnd .. | .telemetrySweep .. | .journalBurst .. | .holdupRetry .. | .hello .. | .helloTimeout ..
  | .laneLockLoss .. | .route .. | .routeAdvertise .. | .triggeredUpdate .. | .routeExpiry .. | .addrReqSend .. | .addrReq .. | .addrGrant .. | .propose ..
  | .ready .. | .go .. | .abort .. | .done .. | .readyDeadline .. | .goSendDeadline .. | .goDeadline .. | .fabricOutcomeTimeout .. | .darkNotice ..
  | .timeCheck .. | .telemetrySend .. | .telemetry .. | .handoverNotice .. => true
  | _ => false

/-- Rows that may write the timebase. -/
def writesTb : Instr → Bool
  | .cancel .. | .prkStart .. | .prkSwap .. | .prkSwapDisarm .. | .prkStop .. | .ptpCfg .. | .domainSwitch .. | .setpoint .. | .fabricCommit ..
  | .tbSnap .. | .tbCntRead .. | .tbPpsCtrlWrite .. | .tbCmpFiredClear .. | .registerWrite .. | .ppsInEdge | .epochStrobe .. | .prickingEntryStrobe ..
  | .prickingCycleBoundary .. | .ppsOutEdge .. | .ppsPulseEnd .. | .refreshOrigin .. | .ledgerMinuteBoundary .. | .heldEventSweep .. | .anchorRewrite ..
  | .tbWrap .. | .syncReceived .. | .syncTimeout .. | .holdoverLimitExpiry .. | .freerunTimeout .. | .timeLinkCompare .. | .stageStd .. | .disarm ..
  | .tambourStop .. | .forcedStop .. | .uncorrectableEcc .. | .zoneMean .. | .setpointAverage .. | .tokenTimeout .. | .propose .. | .ready .. | .go ..
  | .abort .. | .readyDeadline .. | .goSendDeadline .. | .goDeadline .. | .monitorSelfTestDone .. | .ring0Open .. | .masterSelection ..
  | .delayRequestResponse .. => true
  | _ => false

/-- Row `i` may write the part. -/
def Block.writtenBy (b : Block) (i : Instr) : Bool :=
  writesAny i || match b with
  | .settings => writesSettings i
  | .calStore => writesCalStore i
  | .keeperImg => writesKeeperImg i
  | .bus => writesBus i
  | .freeIx => writesFreeIx i
  | .pwr => writesPwr i
  | .xbar => writesXbar i
  | .hist => writesHist i
  | .ths => writesThs i
  | .slice => writesSlice i
  | .prkSlice => writesPrkSlice i
  | .oldSlices => writesOldSlices i
  | .mwrites => writesMwrites i
  | .rmap => writesRmap i
  | .mon => writesMon i
  | .bob => writesBob i
  | .tec => writesTec i
  | .led => writesLed i
  | .jnl => writesJnl i
  | .evt => writesEvt i
  | .mbx => writesMbx i
  | .pair => writesPair i
  | .dk => writesDk i
  | .boot => writesBoot i
  | .prk => writesPrk i
  | .tmb => writesTmb i
  | .drv => writesDrv i
  | .cm => writesCm i
  | .wlm => writesWlm i
  | .tb => writesTb i

/-- The hoop on which a row acts alone: the other is reached by `settle` only. -/
def ownHoop : Instr → Option HoopId
  | .nop h .. | .create h .. | .modify h .. | .reopen h .. | .release h .. | .dark h .. | .darkNow h .. | .cancel h .. | .threadRead h .. | .ledgerRead h ..
  | .outcomeRead h .. | .batch h .. | .prkSlotLoad h .. | .prkSlotMask h .. | .prkSlotClear h .. | .prkListWrite h .. | .prkStart h .. | .prkSwap h ..
  | .prkSwapDisarm h .. | .prkStop h .. | .ringBind h .. | .ringUnbind h .. | .meterSet h .. | .keySet h .. | .eventSub h .. | .netCfg h .. | .ptpCfg h ..
  | .verifyCfg h .. | .adcProfile h .. | .refSel h .. | .calCfg h .. | .loopSet h .. | .loopAssign h .. | .tecDrive h .. | .tecCoef h ..
  | .setpoint h .. | .tecEnable h .. | .tripClear h .. | .thresholds h .. | .thmModel h .. | .holdupMin h .. | .samplerRestore h .. | .regRead h .. | .samplerRead h ..
  | .journalRead h .. | .resultRead h .. | .deltaRead h .. | .patchRead h .. | .elementRead h .. | .commitList h .. | .historyRead h .. | .fabricCommit h .. | .wlmCfg h ..
  | .doorbell h .. | .mbxCplHead h .. | .mbxEvtHead h .. | .reopenRing0 h .. | .dmaError h .. | .msixModerationTimeout h .. | .remoteDatagram h .. | .smbusBlockRead h ..
  | .alertResponse h | .tbSnap h .. | .tbCntRead h | .tbPpsCtrlWrite h .. | .tbCmpFiredClear h .. | .fcStickyClear h .. | .fcWireClear h .. | .rearm h ..
  | .pmcCtrlWrite h .. | .pmcLoad h .. | .pmcOvfClear h .. | .pmcPreHiWrite h .. | .pmcCntLoRead h .. | .registerWrite h .. | .railExcursion h .. | .railReturn h ..
  | .vkeepLoss h | .pcieReset h .. | .defaultTargetAccess h .. | .watchdogExpiry h .. | .coreResume h .. | .debugHalt h .. | .debugResume h
  | .faultClear h .. | .collectorParityError h | .faultNTimeout h | .keeperCrcCheck h .. | .epochStrobe h .. | .zeroCodeEpoch h .. | .settlingEnd h ..
  | .verifyDeadline h .. | .prickingEntryStrobe h | .prickingCycleBoundary h | .ppsOutEdge h | .ppsPulseEnd h | .refreshOrigin h | .ledgerMinuteBoundary h
  | .ledgerMinuteClose h | .heldEventSweep h | .anchorRewrite h | .tbWrap h | .holdoverLimitExpiry h | .restoreIdle h | .tileUpdate h ..
  | .injReload h .. | .disarm h .. | .eyeletDark h | .tambourNop h | .reservedOperation h .. | .tambourStop h .. | .forcedStop h .. | .uncorrectableEcc h ..
  | .patchScrub h .. | .tambourResume h | .holdRelease h | .ditherWindow h .. | .needleSlewStep h .. | .deglitchRelease h .. | .heaterSlewStep h .. | .rangeHoldEnd h ..
  | .heaterSumOver h | .adcConversionTimeout h .. | .regularPassStart h | .lockinWindowEnd h .. | .loopHoldTimeout h .. | .capJob h
  | .fieldRefinement h .. | .calRoundStart h | .adcSelfCalEnd h .. | .refOkSet h .. | .referenceFallback h | .diodePass h .. | .zoneMean h | .diodeCrossCheck h
  | .dieSensorRead h .. | .thermistorRead h .. | .throttleStep h .. | .pwmReload h .. | .setpointAverage h .. | .setpointSourceLost h | .sliceRebuilt h
  | .journalBurst h .. | .holdupRetry h .. | .historySecond h .. | .windowBoundary h | .counterOverflow h .. | .intakeTimeout h | .provingEnd h | .helloSend h
  | .helloTimeout h .. | .laneLockLoss h .. | .routeAdvertise h | .triggeredUpdate h .. | .routeExpiry h .. | .readyDeadline h .. | .goSendDeadline h .. | .goDeadline h ..
  | .fabricOutcomeTimeout h .. | .darkNoticeRepeat h | .timeCheckSend h | .telemetrySend h | .imageAuthenticated h .. | .lpddr4xTrained h .. | .firstWriteDone h
  | .ring0Open h .. | .historyStoreReady h .. | .tokenRefill h .. | .intakeDigest h | .delayRequestResponse h .. | .pcieLinkUp h .. | .powerManagementState h ..
  | .neighbourLagUpdate h | .htrSumUpdate h | .phaseAccumulatorTick h | .pwmDutyEdge h .. => some h
  | _ => none

/-! ## Completions -/

/-- The completion that an ACTIVE hoop writes for `c` with this status and no result (R357). -/
def completionOf (x : Hoop) (r : Nat) (c : ReadCmd) (status : Nat) : Cpl :=
  { origin := x.origin 1 r, seq := x.nextCplSeq r, status := BitVec.ofNat 8 (status + if (x.ring r).cplPhase then 128 else 0), result := 0, tag := (hdrOf c.bytes).tag
    stamp := x.stamp, epochSec := 0, epochNs := 0 }

end Sys2Proof.Machine
end

