-- ==== Sys2Proof/Certificates/Slice0/Obligations.lean ====
section
/-!
DEFINITION. What is claimed of the model: one statement for each family of rows and each kind of state, and the statements about every step.
-/

open Sys2Proof Sys2Proof.Machine

/-- A step runs the command at the front: with `i` in front of the queue, step is exec of `i` on the state with the rest of the queue. On an empty
queue, which is the model's own case (assumption 1), a step answers a next state with the queue still empty. It is one tick: where no patch of Tambour
runs and no GO waits to be sent, the timebase of every enabled hoop out of power-on reset advances by one tick, and its threads, commits, drive arrays
and MRAM stand as before. -/
def Obligations.StepRunsTheFrontCommand : Prop :=
  (∀ (s : State) (i : Instr) (rest : List Instr), s.pending = i :: rest → step s = exec i { s with pending := rest }) ∧
  (∀ s, s.pending = [] → ∃ t, step s = .next t ∧ t.pending = []) ∧
  (∀ s h x, s.here h x → s.pending = [] → x.boot.por = false → (∀ k, (s.hoop k).tmb.busy = false) →
    (∀ k, (s.hoop k).wlm.fabs.all (fun q => !(q.2.init && q.2.st == 2)) = true) → ∃ t, step s = .next t ∧ (t.hoop h).tb = x.tb.tick ∧
      (t.hoop h).thr = x.thr ∧ (t.hoop h).cm = x.cm ∧ (t.hoop h).drv = x.drv ∧ (t.hoop h).mram = x.mram)

/-- The count and its wrap count (R64): a tick adds the increment to the accumulator, whose upper 32 bits are the count and which wraps; the wrap
count takes one more in the tick in which it does, every 2^31 ticks of 2 ns at nominal rate; at a power-on reset of a hoop and of the module all three
are 0. -/
def Obligations.TimebaseTick : Prop :=
  (∀ (b : Tb) n, n = b.acc.toNat + b.inc.toNat → b.tick.cnt.toNat = n / 2 ^ 32 % 2 ^ 32 ∧ b.tick.frac.toNat = n % 2 ^ 32 ∧
    b.tick.wrap = b.wrap + (if 2 ^ 64 ≤ n then 1 else 0)) ∧
  (∀ s h rail mv, s.has h = true → rail < 9 → railLow rail mv = true → (s.hoop h).boot.por = false → ∃ t, exec (.powerOnReset h rail mv) s = .next t ∧
    (t.hoop h).tb.cnt = 0 ∧ (t.hoop h).tb.frac = 0 ∧ (t.hoop h).tb.wrap = 0) ∧
  (∀ s, ∃ t, exec .modRst s = .next t ∧ ∀ h, s.has h = true → (t.hoop h).tb.cnt = 0 ∧ (t.hoop h).tb.frac = 0 ∧ (t.hoop h).tb.wrap = 0) ∧
  (∀ h, (State.reset.hoop h).tb.cnt = 0 ∧ (State.reset.hoop h).tb.frac = 0 ∧ (State.reset.hoop h).tb.wrap = 0 ∧ 2 ^ 31 * (State.reset.hoop h).tb.inc.toNat = 2 ^ 64)

/-- Every command of the table completes in every state: no row of it faults or is refused. No command touches the queue of those that wait, and none
changes what a hoop is, its part and its side; a row of `ownHoop` leaves the other hoop as it was but for what `settle` may change. -/
def Obligations.RowsCompleteAndKeepTheQueue : Prop :=
  (∀ i s, Completes i s) ∧
  (∀ i s t, exec i s = .next t → t.pending = s.pending ∧ ∀ h, (t.hoop h).part = (s.hoop h).part ∧ (t.hoop h).isB = (s.hoop h).isB) ∧
  (∀ i s t h, ownHoop i = some h → exec i s = .next t → (t.hoop (other h)).calm = (s.hoop (other h)).calm)

/-- What rows leave unchanged: a part of a hoop that a row does not write, of the settings, the stores, the registers of the monitor, the loops, the
drive, the timebase, the mailbox, the fabric and the others of `Block`, stands after the row as before, in both hoops. -/
def Obligations.RowsLeaveTheRest : Prop :=
  ∀ b i s t h, Block.writtenBy b i = false → exec i s = .next t → b.kept (s.hoop h) (t.hoop h)

/-- The byte memory (R292, R294, R57, R60): no row but those of `writesMram` changes a byte of it in any hoop, no row of one hoop changes a byte of
the other's, and a journal burst of one record changes none outside the 64 bytes of the slot at its head; the settings that start-up applies again are
no SAMPLER_RESTORE. Rests on assumption 3 of the log, the model's choices. -/
def Obligations.MemoryFrame : Prop :=
  (∀ i s t h, writesMram i = false → exec i s = .next t → ∀ a, memGet (t.hoop h).mram a = memGet (s.hoop h).mram a) ∧
  (∀ s h t mv, exec (.journalBurst h mv) s = .next t ∨ exec (.holdupRetry h mv) s = .next t → (t.hoop (other h)).mram = (s.hoop (other h)).mram) ∧
  (∀ s h t e mean, exec (.fieldRefinement h e mean) s = .next t → (t.hoop (other h)).mram = (s.hoop (other h)).mram) ∧
  (∀ s h t r, exec (.samplerRestore h r) s = .next t → (t.hoop (other h)).mram = (s.hoop (other h)).mram) ∧
  (∀ s h x mv j, s.here h x → x.jnl.buf = [j] → x.jnl.loss = none → burstDue x = true → x.jnl.deferred = false → x.jnl.holdupMin.toNat ≤ mv → x.ths.mramOk = true →
    x.mwrites = [] → (x.src 9).live = false → CompletesWith (.journalBurst h mv) s h (fun y => ∀ a, a < 64 * x.jnl.head ∨ 64 * x.jnl.head + (j.bytes x.jnl.seq).length ≤ a → memGet y.mram a = memGet x.mram a)) ∧
  (∀ s h t gib ok, (∀ q ∈ (s.hoop h).settings, q.1 ≠ 0x50) → exec (.lpddr4xTrained h gib ok) s = .next t → ∀ k, (t.hoop k).mram = (s.hoop k).mram)

/-- Every step keeps the byte memories in their canonical form: addresses rising, no byte listed that an unlisted address reads as. Rests on
assumption 3 of the log, the model's choices. -/
def Obligations.MemoryStaysCanonical : Prop := ∀ s t, s.memWf = true → step s = .next t → t.memWf = true

/-- Every step keeps the pins as the hoops drive them: DARK_N released where some hoop vouches by R286 and R312, FAULT_N low where some hoop asserts
it, HOOP_ACT by the token outside the grace period of R331, CAL_SEL from the hoop that holds the token. -/
def Obligations.PinsFollowTheHoops : Prop := ∀ s t, s.pinsWf = true → step s = .next t → t.pinsWf = true

/-- Both invariants hold at reset, where the queue is empty, DARK_N is asserted and FAULT_N is not. -/
def Obligations.ResetMeetsTheInvariants : Prop :=
  State.reset.memWf = true ∧ State.reset.pinsWf = true ∧ State.reset.pending = [] ∧ State.reset.balls.darkN = false ∧ State.reset.balls.faultN = true

/-- Routes (R30 to R33): whatever is chosen at the free stages, the route of a thread has one output wire per stage and ends at its egress port, its
k-th stitch is one of stage k, and the first m - 1 outputs are the choice's bits, the highest first; the wiring between two stages is one to one. -/
def Obligations.RoutesReachTheirPort : Prop :=
  (∀ p i o c, i < Config.ports p → o < Config.ports p → (routeOf p i o c).length = Config.stages p ∧ (routeOf p i o c).getLast? = some o) ∧
  (∀ p i o c k q, i < Config.ports p → o < Config.ports p → (hopsOf p i (routeOf p i o c))[k]? = some q → q.stitch < Config.stitches p ∧ q.stitch / (Config.ports p / 2) = k) ∧
  (∀ p i o c k w, i < Config.ports p → o < Config.ports p → k + 1 < Config.lgPorts p → (routeOf p i o c)[k]? = some w → w % 2 = c / 2 ^ (Config.lgPorts p - 2 - k) % 2) ∧
  (∀ p k v w, k + 1 < Config.stages p → v < Config.ports p → w < Config.ports p → nextWire p k v < Config.ports p ∧ (nextWire p k v = nextWire p k w → v = w))

/-- Tiles (R35): tile t holds the drive elements 32t to 32t + 31; the tiles fill the range of elements, the stitches' first; no tile spans two stages,
or holds stitches and eyelets. -/
def Obligations.TilePlan : Prop :=
  (∀ t e, e ∈ tileElems t ↔ 32 * t ≤ e ∧ e ≤ 32 * t + 31) ∧
  (∀ p, Config.tiles p * 32 = Config.elems p ∧ Config.ports p / 2 % 32 = 0) ∧
  (∀ p e f t, e ∈ tileElems t → f ∈ tileElems t → e < Config.elems p → f < Config.elems p → (e < Config.stitches p ↔ t < Config.stitches p / 32) ∧
    (e < Config.stitches p → f < Config.stitches p ∧ e / (Config.ports p / 2) = f / (Config.ports p / 2)))

/-- Completions (R357, R359): a NOP completes with status 0 and its TAG, as the next entry of its ring; a CREATE that a check refuses completes with
that check's status, and neither the pending table nor any thread changes. Forms that complete here, `exec` answering the next state given: nop. -/
def Obligations.CompletionEntries : Prop :=
  (∀ s h r c, passes s h r 0 c nopVerb = true → c.remote = none → ((s.hoop h).ring r).read = [c] → ((s.hoop h).ring r).posted = [] →
    CompletesWith (.nop h r) s h (fun y => (y.ring r).cpls = ((s.hoop h).ring r).cpls ++ [completionOf (s.hoop h) r c 0] ∧ (y.ring r).read = [])) ∧
  (∀ s h r c st k, s.quiet = true → passes s h r 1 c commitVerb = true → c.remote = none → ((s.hoop h).ring r).read = [c] → ((s.hoop h).ring r).posted = [] →
    decideCommit (breakRun r 1 (s.hoop h)) { ring := r } (hdrOf c.bytes).hasEpoch (hdrOf c.bytes).exact (hdrOf c.bytes).epochNs [editFor s h r 1 c] = .refuse st k →
    CompletesWith (.create h r) s h (fun y => (y.ring r).cpls = ((s.hoop h).ring r).cpls ++ [completionOf (s.hoop h) r c st] ∧ y.cm = (s.hoop h).cm ∧ y.thr = (s.hoop h).thr))

/-- Registers of the timebase with effects: a snapshot latches the count, its fraction and the times of both domains (R66); a read of TB_CNT returns
the count and latches its fraction (R80); a write of TB_PPS_CTRL takes EN and GATE, and WIDTH where it is 1 to 500,000, and EN = 0 ends a pulse at
once (R76, R9); a write of TB_CMP_FIRED clears the bits it sets and no others (R80). Nothing else of the hoop changes. Forms that complete here,
`exec` answering the next state given: tbSnap, tbCntRead, tbPpsCtrlWrite, tbCmpFiredClear. -/
def Obligations.TimebaseRegisterRows : Prop :=
  (∀ s h x (v : BitVec 32), s.here h x → CompletesAs (.tbSnap h v) s h (if v.getLsbD 0 then { x with tb := { x.tb with
      snapCnt := x.tb.cnt, snapFrac := x.tb.frac
      snapSec := BitVec.ofNat 48 (x.tb.ptpOf x.now / 1000000000), snapNs := BitVec.ofNat 32 (x.tb.ptpOf x.now % 1000000000)
      snap2Sec := BitVec.ofNat 48 (((x.tb.ptpOf x.now : Int) + secOff x x.now).toNat / 1000000000)
      snap2Ns := BitVec.ofNat 32 (((x.tb.ptpOf x.now : Int) + secOff x x.now).toNat % 1000000000) } } else x)) ∧
  (∀ s h x, s.here h x → CompletesAs (.tbCntRead h) s h { x with bus := x.tb.cnt, tb := { x.tb with fracLatch := x.tb.frac } }) ∧
  (∀ s h x (v : BitVec 32), s.here h x → v.getLsbD 0 = false → CompletesAs (.tbPpsCtrlWrite h v) s h { x with tb := { x.tb with
      ppsEn := false, ppsOut := false, ppsGate := v.getLsbD 1
      ppsWidth := if 1 ≤ v.toNat / 256 % 2 ^ 19 ∧ v.toNat / 256 % 2 ^ 19 ≤ 500000 then BitVec.ofNat 19 (v.toNat / 256 % 2 ^ 19) else x.tb.ppsWidth } }) ∧
  (∀ s h x (v : BitVec 32), s.here h x → v.getLsbD 0 = true → CompletesWith (.tbPpsCtrlWrite h v) s h (fun y =>
      y.tb.ppsEn = true ∧ y.tb.ppsOut = x.tb.ppsOut ∧ y.tb.ppsGate = v.getLsbD 1 ∧
      y.tb.ppsWidth = (if 1 ≤ v.toNat / 256 % 2 ^ 19 ∧ v.toNat / 256 % 2 ^ 19 ≤ 500000 then BitVec.ofNat 19 (v.toNat / 256 % 2 ^ 19) else x.tb.ppsWidth))) ∧
  (∀ s h x (v : BitVec 32), s.here h x → CompletesWith (.tbCmpFiredClear h v) s h (fun y => ∀ k,
      y.tb.cmp k = { x.tb.cmp k with fired := (x.tb.cmp k).fired && !(decide (k < 16) && v.getLsbD k) }))

/-- Events of the timebase: the rising edge of PPS_OUT, gated by TIME_VALID, and its fall WIDTH after it (R76); an edge of PPS_IN stamped by every
hoop (R77); the sweep that takes held instants out once they lie within 2 s, and arms the comparator of one at least 100 ns ahead (R69); the anchor at
a second boundary (R66); the tick in which the count wraps (R64). Forms that complete here, `exec` answering the next state given: ppsInEdge,
ppsOutEdge, ppsPulseEnd, heldEventSweep, anchorRewrite, tbWrap. Rests on assumptions 31, 71 of the log, the model's choices. -/
def Obligations.TimebaseEventRows : Prop :=
  (∀ s h x, s.here h x → cmpDue x 7 = true → x.tb.ppsEn = true → (x.tb.ppsGate = false ∨ x.tb.timeValid = true) →
    CompletesWith (.ppsOutEdge h) s h (fun y => y.tb.ppsOut = true ∧ y.tb.ppsEnd = (x.tb.cmp 7).t16 / 16 + x.tb.ppsWidth.toNat * 1000)) ∧
  (∀ s h x, s.here h x → cmpDue x 7 = true → x.tb.ppsGate = true → x.tb.timeValid = false →
    CompletesWith (.ppsOutEdge h) s h (fun y => y.tb.ppsOut = x.tb.ppsOut)) ∧
  (∀ s h x, s.here h x → x.tb.reached (x.tb.ppsEnd * 16) = true → CompletesAs (.ppsPulseEnd h) s h { x with tb := { x.tb with ppsOut := false } }) ∧
  (∀ s, ∃ t, exec .ppsInEdge s = .next t ∧ ∀ h, s.has h = true →
    (t.hoop h).tb.ppsInStamp = (s.hoop h).tb.cnt ∧ (t.hoop h).tb.ppsInFrac = BitVec.ofNat 4 ((s.hoop h).tb.frac.toNat / 2 ^ 28)) ∧
  (∀ s h x, s.here h x → CompletesWith (.heldEventSweep h) s h (fun y =>
    y.tb.heldEvents = x.tb.heldEvents.filter (fun e => !decide (x.tb.cntOf e.2 ≤ x.now + 2000000000)))) ∧
  (∀ s h x k ns, s.here h x → x.tb.heldEvents = [(k, ns)] → x.now + 100 ≤ x.tb.cntOf ns → x.tb.cntOf ns ≤ x.now + 2000000000 →
    CompletesWith (.heldEventSweep h) s h (fun y => y.tb.cmp k = { t16 := x.tb.cntOf ns * 16, armed := true, fired := false })) ∧
  (∀ s h x, s.here h x → x.tb.anchorSec < x.tb.ptpOf x.now / 1000000000 → CompletesAs (.anchorRewrite h) s h { x with tb := { x.tb with
    anchorCnt := x.tb.cntOf (x.tb.ptpOf x.now / 1000000000 * 1000000000), anchorSec := x.tb.ptpOf x.now / 1000000000, anchorNs := 0
    anchorGen := x.tb.anchorGen + 1 } }) ∧
  (∀ s h x, s.here h x → x.tb.acc + x.tb.inc.setWidth 64 < x.tb.acc → CompletesWith (.tbWrap h) s h (fun y =>
    y.tb.wrap = x.tb.wrap + 1 ∧ y.tb.acc = x.tb.acc + x.tb.inc.setWidth 64))

/-- The servos (R70 to R72): the offset of a Sync from its stamp, the origin time and the corrections; from ACQUIRING into LOCKED with the 32nd offset
within 5 ns, from LOCKED back with the 4th beyond 100 ns; the step of the count before ring 0 opens; HOLDOVER with no Sync or no master, and the
switch to a LOCKED secondary (R75); the end of the holdover limit, which ends TIME_VALID; FREERUN at the nominal increment; the mean path delay; the
phase of the time link and its sources 12 and 13 (R78). Forms that complete here, `exec` answering the next state given: syncReceived, syncTimeout,
holdoverLimitExpiry, freerunTimeout, timeLinkCompare, masterSelection, delayRequestResponse. Rests on assumptions 4, 31 of the log, the model's
choices. -/
def Obligations.ServoRows : Prop :=
  (∀ s h x d corr filt o utc, s.here h x → (x.dom d).configured = true → (x.dom d).st = .acquiring → 31 ≤ (x.dom d).good →
    (syncOffset d corr filt o.sec o.ns x).natAbs ≤ 80 →
    CompletesWith (.syncReceived h d corr filt o utc) s h (fun y => (y.dom d).st = .locked ∧ (y.dom d).offset = syncOffset d corr filt o.sec o.ns x)) ∧
  (∀ s h x d corr filt o utc, s.here h x → (x.dom d).configured = true → (x.dom d).st = .locked → 3 ≤ (x.dom d).bad →
    1600 < (syncOffset d corr filt o.sec o.ns x).natAbs →
    CompletesWith (.syncReceived h d corr filt o utc) s h (fun y => (y.dom d).st = .acquiring ∧ (y.dom d).offset = syncOffset d corr filt o.sec o.ns x)) ∧
  (∀ s h x corr filt o utc, s.here h x → x.tb.pri.configured = true → x.tb.pri.st ≠ .freerun → steers x = true → x.tb.stepClosed = false →
    syncOffset 0 corr filt o.sec o.ns x ≠ 0 → CompletesWith (.syncReceived h 0 corr filt o utc) s h (fun y =>
      let off := syncOffset 0 corr filt o.sec o.ns x
      let master := ((x.tb.ptp16 - off) / 16).toNat
      y.tb.acc = x.tb.acc - BitVec.ofInt 64 (off * 2 ^ 28) ∧ y.tb.anchorCnt = y.now ∧ y.tb.anchorSec = master / 1000000000 ∧
      y.tb.anchorNs = master % 1000000000 ∧ y.tb.anchorGen = x.tb.anchorGen + 1)) ∧
  (∀ s h x d, s.here h x → (x.dom d).st = .acquiring ∨ (x.dom d).st = .locked → d ≠ 0 ∨ x.tb.sec.st ≠ .locked →
    CompletesWith (.syncTimeout h d) s h (fun y => (y.dom d).st = .holdover) ∧ CompletesWith (.masterSelection h d false) s h (fun y => (y.dom d).st = .holdover)) ∧
  (∀ s h x, s.here h x → x.tb.pri.st = .acquiring ∨ x.tb.pri.st = .locked → x.tb.sec.st = .locked → steers x = true →
    CompletesWith (.syncTimeout h 0) s h (fun y => y.tb.pri = x.tb.sec ∧ y.tb.sec.st = .holdover ∧ y.tb.domSwitches = x.tb.domSwitches + 1)) ∧
  (∀ s h x, s.here h x → x.tb.pri.st = .holdover → CompletesWith (.holdoverLimitExpiry h) s h (fun y => y.tb.pri.limitOver = true ∧ y.tb.timeValid = false)) ∧
  (∀ s h x d, s.here h x → (x.dom d).st = .holdover → (x.dom d).selected = false → d ≠ 0 ∨ x.tb.sec.st ≠ .locked →
    CompletesWith (.freerunTimeout h d) s h (fun y => (y.dom d).st = .freerun ∧ (d = 0 → steers x = true → y.tb.inc = 0x0200000000))) ∧
  (∀ s h x d, s.here h x → CompletesWith (.masterSelection h d true) s h (fun y =>
    y.calm = (x.setDom d { x.dom d with selected := true, syncs := 0 }).calm)) ∧
  (∀ s h x d a, s.here h x → CompletesAs (.delayRequestResponse h d a) s h
    (x.setDom d { x.dom d with mpd := BitVec.ofNat 32 (pathDelay d a.ago a.received.sec a.received.ns a.corr x).toNat })) ∧
  (∀ s h x phase ok, s.here h x → Config.duplex x.part = true → CompletesWith (.timeLinkCompare h phase ok) s h (fun y =>
    y.tb.linkOk = (ok && decide (phase ≤ 32)) ∧ (y.src 12).live = decide (32 < phase) ∧ (y.src 13).live = (decide (64 < phase) || !ok)))

/-- The PTP commands: PTP_CFG configures the domain that it names, and every boot does so again (R70, R451); DOMAIN_SWITCH exchanges the domains, with
the offset and the rate of the secondary reversed (R75). Forms that complete here, `exec` answering the next state given: ptpCfg, domainSwitch. -/
def Obligations.ClockCommands : Prop :=
  (∀ s h r c, passes s h r 0x40 c ptpCfgVerb = true → CompletesWith (.ptpCfg h r) s h (fun y =>
    let d := field (paramOf c.bytes) 0 1
    let v := y.dom d
    v.configured = true ∧ v.domainNumber = BitVec.ofNat 7 (field (paramOf c.bytes) 1 1) ∧ v.port = (field (paramOf c.bytes) 2 1 == 1) ∧
    v.transport = BitVec.ofNat 8 (field (paramOf c.bytes) 3 1) ∧ v.p2p = (field (paramOf c.bytes) 4 1 == 1) ∧
    v.logInt = toSigned 8 (field (paramOf c.bytes) 5 1) ∧ v.asym = toSigned 32 (field (paramOf c.bytes) 6 4) ∧
    v.phyTx = field (paramOf c.bytes) 10 4 ∧ v.phyRx = field (paramOf c.bytes) 14 4 ∧ v.holdLimit = field (paramOf c.bytes) 18 2 ∧
    (0x40, d, paramOf c.bytes) ∈ y.settings)) ∧
  (∀ s h r c, passes s h r 0x41 c domainSwitchVerb = true → CompletesWith (.domainSwitch h r) s h (fun y =>
    y.tb.pri = (s.hoop h).tb.sec ∧ y.tb.sec = (s.hoop h).tb.pri ∧ y.tb.secOffset = -(s.hoop h).tb.secOffset ∧
    y.tb.secRate = -(s.hoop h).tb.secRate ∧ y.tb.domSwitches = (s.hoop h).tb.domSwitches + 1 ∧ y.tb.anchorCnt = (s.hoop h).now))

/-- The commit commands (R81, R86, R87): where the checks accept one, the commit stands in the pending table under the SEQ of its completion, with the
changes, the delta and the channels that were compiled, for the epoch decided; the thread of a CREATE or a REOPEN is STAGED (R44). BATCH (R356): the
last part of a run is decided whole with every entry held, as one commit; a part with MORE is held by its ring, where no other command waits behind
it. Forms that complete here, `exec` answering the next state given: create, modify, reopen, release, dark, batch. Rests on assumptions 38, 44 of the
log, the model's choices. -/
def Obligations.CommitCommands : Prop :=
  (∀ s h r c cmp e, s.quiet = true → passes s h r 1 c commitVerb = true → accepts s h r 1 c [editFor s h r 1 c] cmp e = true →
    CompletesWith (.create h r) s h (fun y => holdsCommit y ((s.hoop h).nextCplSeq r) r cmp e ∧ (y.thread (editFor s h r 1 c).inPort).st = .staged)) ∧
  (∀ s h r c cmp e, s.quiet = true → passes s h r 2 c commitVerb = true → accepts s h r 2 c [editFor s h r 2 c] cmp e = true →
    CompletesWith (.modify h r) s h (fun y => holdsCommit y ((s.hoop h).nextCplSeq r) r cmp e)) ∧
  (∀ s h r c cmp e, s.quiet = true → passes s h r 3 c commitVerb = true → accepts s h r 3 c [editFor s h r 3 c] cmp e = true →
    CompletesWith (.reopen h r) s h (fun y => holdsCommit y ((s.hoop h).nextCplSeq r) r cmp e ∧ (y.thread (editFor s h r 3 c).inPort).st = .staged)) ∧
  (∀ s h r c cmp e, s.quiet = true → passes s h r 4 c commitVerb = true → accepts s h r 4 c [editFor s h r 4 c] cmp e = true →
    CompletesWith (.release h r) s h (fun y => holdsCommit y ((s.hoop h).nextCplSeq r) r cmp e)) ∧
  (∀ s h r c cmp e, s.quiet = true → passes s h r 5 c commitVerb = true → accepts s h r 5 c [editFor s h r 5 c] cmp e = true →
    CompletesWith (.dark h r) s h (fun y => holdsCommit y ((s.hoop h).nextCplSeq r) r cmp e)) ∧
  (∀ s h r c es cmp e, s.quiet = true → passes s h r 0x30 c batchVerb = true → batchPart (s.hoop h) r c.bytes = some es → field c.bytes 17 1 % 2 = 0 →
    ((s.hoop h).ring r).run = none → distinct (es.map entryPort) = true →
    decideCommit ((s.hoop h).updRing r (fun g => { g with run := none })) { ring := r } (hdrOf c.bytes).hasEpoch (hdrOf c.bytes).exact (hdrOf c.bytes).epochNs
      (es.map (editOfEntry (ringTag (s.hoop h) r))) = .accept cmp e →
    CompletesWith (.batch h r) s h (fun y => holdsCommit y ((s.hoop h).nextCplSeq r) r cmp e)) ∧
  (∀ s h r c es, passes s h r 0x30 c batchVerb = true → batchPart (s.hoop h) r c.bytes = some es → field c.bytes 17 1 % 2 = 1 →
    ((s.hoop h).ring r).run = none → ((s.hoop h).ring r).read = [c] → ((s.hoop h).ring r).posted = [] →
    CompletesWith (.batch h r) s h (fun y => (y.ring r).run = some
      { exact := (hdrOf c.bytes).exact, sec := BitVec.ofNat 48 (hdrOf c.bytes).sec, ns := BitVec.ofNat 32 (hdrOf c.bytes).ns, entries := es }))

/-- Where the commit commands complete (R81, R86): a CREATE, MODIFY, REOPEN, RELEASE or DARK with a named epoch outside a pricking, whose one entry
passes checks 4 to 9 each, and a BATCH of one part whose entries pass them together, is taken into the pending table for the epoch that it names
(R87); so is the local part of a FABRIC_COMMIT whose members are all reached (R405, R410). Forms that complete here, `exec` answering the next state
given: create, modify, reopen, release, dark, batch, fabricCommit. Rests on assumptions 38, 44, 95, 96 of the log, the model's choices. -/
def Obligations.CommitsThatMeetTheChecks : Prop :=
  (∀ s h r c cmp, s.quiet = true → passes s h r 1 c commitVerb = true → (hdrOf c.bytes).hasEpoch = true →
    meetsChecks (breakRun r 1 (s.hoop h)) { ring := r } (hdrOf c.bytes).epochNs [editFor s h r 1 c] cmp = true →
    CompletesWith (.create h r) s h (fun y => holdsCommit y ((s.hoop h).nextCplSeq r) r cmp (hdrOf c.bytes).epochNs)) ∧
  (∀ s h r c cmp, s.quiet = true → passes s h r 2 c commitVerb = true → (hdrOf c.bytes).hasEpoch = true →
    meetsChecks (breakRun r 2 (s.hoop h)) { ring := r } (hdrOf c.bytes).epochNs [editFor s h r 2 c] cmp = true →
    CompletesWith (.modify h r) s h (fun y => holdsCommit y ((s.hoop h).nextCplSeq r) r cmp (hdrOf c.bytes).epochNs)) ∧
  (∀ s h r c cmp, s.quiet = true → passes s h r 3 c commitVerb = true → (hdrOf c.bytes).hasEpoch = true →
    meetsChecks (breakRun r 3 (s.hoop h)) { ring := r } (hdrOf c.bytes).epochNs [editFor s h r 3 c] cmp = true →
    CompletesWith (.reopen h r) s h (fun y => holdsCommit y ((s.hoop h).nextCplSeq r) r cmp (hdrOf c.bytes).epochNs)) ∧
  (∀ s h r c cmp, s.quiet = true → passes s h r 4 c commitVerb = true → (hdrOf c.bytes).hasEpoch = true →
    meetsChecks (breakRun r 4 (s.hoop h)) { ring := r } (hdrOf c.bytes).epochNs [editFor s h r 4 c] cmp = true →
    CompletesWith (.release h r) s h (fun y => holdsCommit y ((s.hoop h).nextCplSeq r) r cmp (hdrOf c.bytes).epochNs)) ∧
  (∀ s h r c cmp, s.quiet = true → passes s h r 5 c commitVerb = true → (hdrOf c.bytes).hasEpoch = true →
    meetsChecks (breakRun r 5 (s.hoop h)) { ring := r } (hdrOf c.bytes).epochNs [editFor s h r 5 c] cmp = true →
    CompletesWith (.dark h r) s h (fun y => holdsCommit y ((s.hoop h).nextCplSeq r) r cmp (hdrOf c.bytes).epochNs)) ∧
  (∀ s h r c es cmp, s.quiet = true → passes s h r 0x30 c batchVerb = true → batchPart (s.hoop h) r c.bytes = some es → field c.bytes 17 1 % 2 = 0 →
    ((s.hoop h).ring r).run = none → distinct (es.map entryPort) = true → (hdrOf c.bytes).hasEpoch = true →
    meetsChecks ((s.hoop h).updRing r (fun g => { g with run := none })) { ring := r } (hdrOf c.bytes).epochNs
      (es.map (editOfEntry (ringTag (s.hoop h) r))) cmp = true →
    CompletesWith (.batch h r) s h (fun y => holdsCommit y ((s.hoop h).nextCplSeq r) r cmp (hdrOf c.bytes).epochNs)) ∧
  (∀ s h x c loc ms slot ds ens cmp, x = s.hoop h → s.quiet = true → passes s h 0 0x31 c fabricVerb = true → fabArg (paramOf c.bytes) = some (loc, ms) → freeSlot x = some slot →
    x.wlm.addr ≠ 0 → x.tb.timeValid = true → ds = ms.map (fun q => distTo x (s.hoop (other h)) q.1) → ds.any (· == 16) = false → loc ≠ [] →
    (hdrOf c.bytes).hasEpoch = true → ens = (hdrOf c.bytes).epochNs → x.tb.ptpOf x.now + 50000 ≤ ens →
    meetsChecks (breakRun 0 0x31 x) { ring := 0 } ens (loc.map fabEdit) cmp = true →
    CompletesWith (.fabricCommit h 0) s h (fun y => holdsCommit y (x.nextCplSeq 0) 0 cmp ens ∧ y.wlm.fcInit = satInc x.wlm.fcInit))

/-- DARK_NOW darks a live thread at once and sets its eyelet's dark request (R109); CANCEL takes a pending commit on which none depends out of the
table, until 500 ns before its epoch, with outcome 3 (R112, R107); NOP changes nothing (R368). Forms that complete here, `exec` answering the next
state given: nop, darkNow, cancel. Rests on assumption 40 of the log, the model's choices. -/
def Obligations.ImmediateCommands : Prop :=
  (∀ s h r c, s.quiet = true → passes s h r 6 c darkNowVerb = true →
    ownsEdit (breakRun r 6 (s.hoop h)) { ring := r } (s.hoop h).thr (editFor s h r 6 c) = true →
    ((s.hoop h).thread (editFor s h r 6 c).inPort).st.live = true → (editFor s h r 6 c).inPort < 512 →
    CompletesWith (.darkNow h r) s h (fun y => (y.thread (editFor s h r 6 c).inPort).st = .darked ∧
      y.tmb.darkReq.getLsbD (editFor s h r 6 c).inPort = true ∧ y.prk.override.getLsbD (editFor s h r 6 c).inPort = true)) ∧
  (∀ s h r c m, s.quiet = true → passes s h r 7 c cancelVerb = true →
    findPending (breakRun r 7 (s.hoop h)) r (field (((ctxOf s h r c).tlv 3).getD []) 0 6) = some m → m.fcid = none →
    (s.hoop h).cm.pending.any (fun d => d.deps.contains m.key) = false → (s.hoop h).now + 500 ≤ m.epoch →
    CompletesWith (.cancel h r) s h (fun y => (∀ d ∈ y.cm.pending, d.key ≠ m.key) ∧ ∃ o ∈ y.cm.history, o.seq = m.seq ∧ o.ring = m.ring ∧ o.outcome = 3)) ∧
  (∀ s h r c, passes s h r 0 c nopVerb = true → CompletesAs (.nop h r) s h (s.hoop h))

/-- The reads that an agent ring may send, on ring 0 (R368, R388, R107, R373): THREAD_READ gives the descriptors of every thread, LEDGER_READ the
records of the minutes asked for, OUTCOME_READ the outcome that a SEQREF names. Forms that complete here, `exec` answering the next state given:
threadRead, ledgerRead, outcomeRead. Rests on assumption 19 of the log, the model's choices. -/
def Obligations.AgentReads : Prop :=
  (∀ s h c, passes s h 0 8 c threadReadVerb = true → (ctxOf s h 0 c).tlv 2 = none →
    CompletesReading (.threadRead h 0) s h 0 c 8 (((s.hoop h).thr.filter (fun e => e.2.st != .none) ++
      ((s.hoop h).prk.slots.map (fun q => q.2.threads)).flatten).map (fun e => leBytes 8 (descNat e.1 e.2)))) ∧
  (∀ s h c, passes s h 0 9 c ledgerReadVerb = true → field (paramOf c.bytes) 8 2 = 0 →
    CompletesReading (.ledgerRead h 0) s h 0 c 64 ((((s.hoop h).led.closed.filter (fun m => decide (field (paramOf c.bytes) 0 6 ≤ m.1 ∧
      m.1 < field (paramOf c.bytes) 0 6 + 60 * field (paramOf c.bytes) 6 2))).map (·.2)).flatten.map ledBytes)) ∧
  (∀ s h c b o, passes s h 0 0xA c outcomeReadVerb = true → (ctxOf s h 0 c).tlv 3 = some b → findOutcome (s.hoop h) 0 (field b 0 6) = some o →
    CompletesReading (.outcomeRead h 0) s h 0 c 32 [outcomeBytes o])

/-- Slots and list stores (R116, R117, R120): a part that is FIRST and not LAST holds its descriptors; a slot whose single part passes every check
becomes a PATTERN slot with one routed thread for each descriptor; PRK_SLOT_MASK stores the mask; PRK_SLOT_CLEAR empties a slot that no list names;
PRK_LIST_WRITE stores each entry in the store that does not run. Forms that complete here, `exec` answering the next state given: prkSlotLoad,
prkSlotMask, prkSlotClear, prkListWrite. -/
def Obligations.PrickingStores : Prop :=
  (∀ s h c, passes s h 0 0x10 c slotLoadVerb = true → field (paramOf c.bytes) 1 1 % 4 = 1 →
    CompletesAs (.prkSlotLoad h 0) s h { s.hoop h with prk := { (s.hoop h).prk with
      load := some (field (paramOf c.bytes) 0 1, (slotPart (ctxOf s h 0 c)).2.2.2.map (BitVec.ofNat 64)) } }) ∧
  (∀ s h c ds, s.quiet = true → passes s h 0 0x10 c slotLoadVerb = true → field (paramOf c.bytes) 1 1 % 4 = 3 →
    ds = (slotPart (ctxOf s h 0 c)).2.2.2.map (fun d => descOf (leBytes 8 (BitVec.ofNat 64 d).toNat)) →
    (slotLast (field (paramOf c.bytes) 0 1) ds (breakRun 0 0x10 (s.hoop h))).1.status = 0 →
    CompletesWith (.prkSlotLoad h 0) s h (fun y => (y.prk.slot (field (paramOf c.bytes) 0 1)).kind = .pattern ∧
      ∀ d ∈ ds, ∃ t, smFind (y.prk.slot (field (paramOf c.bytes) 0 1)).threads d.inPort = some t ∧
        t.outPort = d.outPort ∧ t.tenant = d.tenant ∧ t.pricked = true ∧ t.st = .none)) ∧
  (∀ s h c, s.quiet = true → passes s h 0 0x11 c slotMaskVerb = true →
    (s.hoop h).prk.referenced.contains (field (paramOf c.bytes) 0 1) = false →
    CompletesWith (.prkSlotMask h 0) s h (fun y => y.prk.slot (field (paramOf c.bytes) 0 1) =
      { kind := .mask, mask := BitVec.ofNat 512 (field (paramOf c.bytes) 1 ((s.hoop h).n / 8)) })) ∧
  (∀ s h c, s.quiet = true → passes s h 0 0x12 c slotClearVerb = true →
    (s.hoop h).prk.referenced.contains (field (paramOf c.bytes) 0 1) = false →
    CompletesWith (.prkSlotClear h 0) s h (fun y => y.prk.slot (field (paramOf c.bytes) 0 1) = {})) ∧
  (∀ s h c, passes s h 0 0x13 c listWriteVerb = true → (s.hoop h).prk.activeStore ≠ some (field (paramOf c.bytes) 0 1 == 1) →
    CompletesWith (.prkListWrite h 0) s h (fun y => ∀ j, j < ((paramOf c.bytes).length - 3) / 8 →
      y.prk.entry (field (paramOf c.bytes) 0 1 == 1) (field (paramOf c.bytes) 1 2 + j) = entryOf (field (paramOf c.bytes) (3 + 8 * j) 8)))

/-- Start, swap and stop (R120 to R124): a list that passes the checks is active and is to start at the first boundary at least 6 us ahead; a swap is
armed for a common boundary and is disarmed until 6 us before it; PRK_STOP sets the boundary of the stop, or ends the pricking at once. Forms that
complete here, `exec` answering the next state given: prkStart, prkSwap, prkSwapDisarm, prkStop. Rests on assumption 49 of the log, the model's
choices. -/
def Obligations.PrickingCommands : Prop :=
  (∀ s h c, passes s h 0 0x14 c startVerb = true → (s.hoop h).prk.active = none → listHeld (s.hoop h) (listArg (ctxOf s h 0 c)) = false →
    listCheck (s.hoop h) (listArg (ctxOf s h 0 c)) = none →
    ((listArg (ctxOf s h 0 c)).repeats ≠ 0 → firstK (listArg (ctxOf s h 0 c)).base
      (dwells (s.hoop h).prk (listArg (ctxOf s h 0 c)).store (listArg (ctxOf s h 0 c)).len).sum ((s.hoop h).tb.ptpOf (s.hoop h).now + 6000) <
        (listArg (ctxOf s h 0 c)).repeats) →
    CompletesWith (.prkStart h 0) s h (fun y => ∃ l, y.prk.active = some l ∧ l.store = (listArg (ctxOf s h 0 c)).store ∧ l.len = (listArg (ctxOf s h 0 c)).len ∧
      l.cycle = (dwells (s.hoop h).prk l.store l.len).sum ∧
      l.startK = firstK (listArg (ctxOf s h 0 c)).base l.cycle ((s.hoop h).tb.ptpOf (s.hoop h).now + 6000) ∧
      l.startAt = (s.hoop h).tb.cntOf ((listArg (ctxOf s h 0 c)).base + l.startK * l.cycle) ∧ y.prk.started = false ∧ y.prk.nextEpoch = l.startAt)) ∧
  (∀ s h c l t, passes s h 0 0x15 c swapVerb = true → (s.hoop h).prk.active = some l → (s.hoop h).prk.swap = none → (s.hoop h).prk.stopAt = none →
    l.store ≠ (listArg (ctxOf s h 0 c)).store → listHeld (s.hoop h) (listArg (ctxOf s h 0 c)) = false →
    listCheck (s.hoop h) (listArg (ctxOf s h 0 c)) = none → swapAt (s.hoop h) l (listArg (ctxOf s h 0 c)) = some t →
    ((listArg (ctxOf s h 0 c)).repeats ≠ 0 → (t - (listArg (ctxOf s h 0 c)).base) /
      max 1 (dwells (s.hoop h).prk (listArg (ctxOf s h 0 c)).store (listArg (ctxOf s h 0 c)).len).sum < (listArg (ctxOf s h 0 c)).repeats) →
    placedAfter (s.hoop h) t = false →
    CompletesWith (.prkSwap h 0) s h (fun y => y.prk.active = some l ∧ ∃ q, y.prk.swap = some q ∧ q.store = (listArg (ctxOf s h 0 c)).store ∧
      q.len = (listArg (ctxOf s h 0 c)).len ∧ q.cycle = (dwells (s.hoop h).prk q.store q.len).sum ∧ q.startK = (t - (listArg (ctxOf s h 0 c)).base) / max 1 q.cycle)) ∧
  (∀ s h c q, passes s h 0 0x16 c swapDisarmVerb = true → (s.hoop h).prk.swap = some q → (s.hoop h).now + 6000 ≤ q.startAt →
    CompletesAs (.prkSwapDisarm h 0) s h { s.hoop h with prk := { (s.hoop h).prk with swap := none } }) ∧
  (∀ s h c l, passes s h 0 0x17 c stopVerb = true → field (paramOf c.bytes) 0 1 = 0 → (s.hoop h).prk.active = some l →
    CompletesWith (.prkStop h 0) s h (fun y => y.prk.active = some l ∧ y.prk.stopAt = some (stopBoundary (s.hoop h) l))) ∧
  (∀ s h c l, passes s h 0 0x17 c stopVerb = true → field (paramOf c.bytes) 0 1 = 1 → (s.hoop h).prk.active = some l →
    CompletesWith (.prkStop h 0) s h (fun y => y.prk.active = none ∧ y.prk.swap = none ∧ y.prk.endCause = 2 ∧ y.prk.loaded = none))

/-- Pricking at its boundaries and entries (R121 to R125): the first boundary begins the list; each later one counts a cycle; an armed swap takes over
at its boundary; the final boundary ends the pricking; each entry epoch makes its entry the current one and sets the next epoch a dwell later. Forms
that complete here, `exec` answering the next state given: prickingEntryStrobe, prickingCycleBoundary. Rests on assumptions 31, 51 of the log, the
model's choices. -/
def Obligations.PrickingEvents : Prop :=
  (∀ s h x l, s.here h x → cmpDue x 6 = true → x.prk.active = some l → x.prk.started = false →
    CompletesWith (.prickingCycleBoundary h) s h (fun y => y.prk.started = true ∧ y.prk.active = some l ∧ y.prk.cycleNum = l.startK ∧ y.prk.cycleStart = l.startAt)) ∧
  (∀ s h x l, s.here h x → cmpDue x 6 = true → x.prk.active = some l → x.prk.started = true → x.prk.swap = none →
    x.prk.stopAt ≠ some (x.nextBoundary l) → l.final ≠ some (x.nextBoundary l) →
    CompletesWith (.prickingCycleBoundary h) s h (fun y => y.prk.active = some l ∧ y.prk.cycleNum = x.prk.cycleNum + 1 ∧ y.prk.cycleStart = x.nextBoundary l)) ∧
  (∀ s h x l q, s.here h x → cmpDue x 6 = true → x.prk.active = some l → x.prk.started = true → x.prk.swap = some q → q.startAt ≤ x.nextBoundary l + 2 →
    CompletesWith (.prickingCycleBoundary h) s h (fun y => y.prk.active = some q ∧ y.prk.swap = none ∧ y.prk.cycleNum = q.startK ∧ y.prk.cycleStart = q.startAt)) ∧
  (∀ s h x l, s.here h x → cmpDue x 6 = true → x.prk.active = some l → x.prk.started = true → x.prk.swap = none →
    x.prk.stopAt = some (x.nextBoundary l) → CompletesWith (.prickingCycleBoundary h) s h (fun y => y.prk.active = none)) ∧
  (∀ s h x l i, s.here h x → s.quiet = true → cmpDue x 4 = true → cmpDue x 6 = false → prkNext x = .entry l i →
    CompletesWith (.prickingEntryStrobe h) s h (fun y => y.prk.pos = i ∧ y.prk.curType = (x.prk.entry l.store i).type ∧
      y.prk.nextEpoch = x.prk.nextEpoch + (x.prk.entry l.store i).dwell.toNat ∧
      (x.prk.nextStaged = true → x.tmb.hold = false → (x.prk.entry l.store i).type = 0 → y.prk.loaded = some (x.prk.entry l.store i).index.toNat)))

/-- Standing epochs (R44, R82, R93, R96 to R98): the strobe of a staged CREATE switches the banks, makes both banks of every needle the code that was
staged, sets its thread SETTLING on its route and takes the commit out of the table; a commit without codes is applied at its epoch and its outcome
raised; 1.0 us after the epoch a SETTLING thread goes CARRYING. Forms that complete here, `exec` answering the next state given: epochStrobe,
zeroCodeEpoch, settlingEnd. Rests on assumptions 45, 46 of the log, the model's choices. -/
def Obligations.EpochRows : Prop :=
  (∀ s h x k m g, s.here h x → s.quiet = true → k < 4 → cmpDue x k = true → x.tmb.hold = false → x.cm.pending = [m] → m.stage = .armed k →
    m.fcid = none → m.changes = [g] → g.kind = .create → g.dropped = false →
    CompletesWith (.epochStrobe h k) s h (fun y => y.drv.bankSel = !x.drv.bankSel ∧ y.tmb.dacStaged = false ∧ y.cm.pending = [] ∧
      (∀ e ∈ x.drv.needles.map (·.1), (y.needle e).bank0 = x.idleCode e ∧ (y.needle e).bank1 = x.idleCode e) ∧
      (y.thread g.inPort).st = .settling ∧ (y.thread g.inPort).route = g.after.route ∧ (y.thread g.inPort).outPort = g.after.outPort)) ∧
  (∀ s h x m g, s.here h x → s.quiet = true → x.cm.pending = [m] → m.delta = [] → m.epoch ≤ x.now → m.fcid = none → m.changes = [g] → g.kind = .modify →
    g.turns = false → g.dropped = false →
    CompletesWith (.zeroCodeEpoch h m.seq m.ring) s h (fun y => y.cm.pending = [] ∧ (y.thread g.inPort).move = g.after.move ∧
      ∃ o ∈ y.cm.history, o.seq = m.seq ∧ o.ring = m.ring)) ∧
  (∀ s h x i, s.here h x → s.quiet = true → (x.thread i).st = .settling → (x.thread i).epoch + (x.thread i).late + 1000 ≤ x.now →
    CompletesWith (.settlingEnd h (x.thread i).seq (x.thread i).ring) s h (fun y => (y.thread i).st = .carrying))

/-- Ring commands of ring 0 (R362, R365, R382): RING_BIND gives a ring its tag, masks, versions and meter with full tokens and enables it; RING_UNBIND
takes them and disables it; METER_SET sets the meter, fills the tokens and leaves the rest of the ring; KEY_SET sets the key, counts KEY_GEN and
empties the window, or removes the key where it is all zeros. Forms that complete here, `exec` answering the next state given: ringBind, ringUnbind,
meterSet, keySet. Rests on assumption 79 of the log, the model's choices. -/
def Obligations.RingCommands : Prop :=
  (∀ s h c q, passes s h 0 0x20 c ringBindVerb = true → q = field (paramOf c.bytes) 0 1 → ((s.hoop h).ring q).unread = false →
    portsHeld (s.hoop h) q (field (paramOf c.bytes) 2 2) (BitVec.ofNat 512 (field (paramOf c.bytes) 12 ((s.hoop h).n / 8)))
      (BitVec.ofNat 512 (field (paramOf c.bytes) (12 + (s.hoop h).n / 8) ((s.hoop h).n / 8))) = false →
    CompletesWith (.ringBind h 0) s h (fun y => (y.ring q).bound = true ∧ (y.ring q).en = true ∧ (y.ring q).tenant = field (paramOf c.bytes) 2 2 ∧
      (y.ring q).versions = BitVec.ofNat 3 (field (paramOf c.bytes) 1 1) ∧
      (y.ring q).inMask = BitVec.ofNat 512 (field (paramOf c.bytes) 12 ((s.hoop h).n / 8)) ∧
      (y.ring q).outMask = BitVec.ofNat 512 (field (paramOf c.bytes) (12 + (s.hoop h).n / 8) ((s.hoop h).n / 8)) ∧
      (y.ring q).cir = field (paramOf c.bytes) 4 4 ∧ (y.ring q).cbs = field (paramOf c.bytes) 8 2 ∧ (y.ring q).ebs = field (paramOf c.bytes) 10 2 ∧
      (y.ring q).tc = field (paramOf c.bytes) 8 2 ∧ (y.ring q).te = field (paramOf c.bytes) 10 2)) ∧
  (∀ s h c q, passes s h 0 0x21 c ringUnbindVerb = true → q = field (paramOf c.bytes) 0 1 → ((s.hoop h).ring q).unread = false →
    CompletesWith (.ringUnbind h 0) s h (fun y => y.mail q = { ((s.hoop h).ring q).mail with
      bound := false, en := false, tenant := 0, versions := 0, inMask := 0, outMask := 0, run := none, posted := [] })) ∧
  (∀ s h c q, passes s h 0 0x22 c meterSetVerb = true → q = field (paramOf c.bytes) 0 1 →
    CompletesWith (.meterSet h 0) s h (fun y => y.mail q = { ((s.hoop h).ring q).mail with
      cir := field (paramOf c.bytes) 1 4, cbs := field (paramOf c.bytes) 5 2, ebs := field (paramOf c.bytes) 7 2
      tc := field (paramOf c.bytes) 5 2, te := field (paramOf c.bytes) 7 2 })) ∧
  (∀ s h c q key, passes s h 0 0x23 c keySetVerb = true → q = field (paramOf c.bytes) 0 1 → key = ((paramOf c.bytes).drop 1).take 32 →
    CompletesWith (.keySet h 0) s h (fun y => if key.all (· == 0) then (y.ring q).key = none ∧ (y.ring q).keyGen = ((s.hoop h).ring q).keyGen
      else (y.ring q).key = some key ∧ (y.ring q).keyGen = ((s.hoop h).ring q).keyGen + 1 ∧ (y.ring q).ctrWin = {}))

/-- EVENT_SUB sets or clears the bits of its range and no others (R375); NET_CFG configures the port that it names, and every boot does so again
(R380, R451). Forms that complete here, `exec` answering the next state given: eventSub, netCfg. -/
def Obligations.MessageCommands : Prop :=
  (∀ s h c, passes s h 0 0x24 c eventSubVerb = true → CompletesWith (.eventSub h 0) s h (fun y => ∀ j, j < 576 →
    y.evt.sub.getLsbD j = if field (paramOf c.bytes) 0 2 ≤ j ∧ j < field (paramOf c.bytes) 0 2 + field (paramOf c.bytes) 2 2
      then field (paramOf c.bytes) 4 1 == 1 else (s.hoop h).evt.sub.getLsbD j)) ∧
  (∀ s h c p, passes s h 0 0x25 c netCfgVerb = true → p = field (paramOf c.bytes) 0 1 → CompletesWith (.netCfg h 0) s h (fun y =>
    y.mbx.net p = { addr := BitVec.ofNat 32 (field (paramOf c.bytes) 1 4), mask := BitVec.ofNat 32 (field (paramOf c.bytes) 5 4)
                    gateway := BitVec.ofNat 32 (field (paramOf c.bytes) 9 4), vlan := BitVec.ofNat 16 (field (paramOf c.bytes) 13 2)
                    remoteEn := field (paramOf c.bytes) 15 1 == 1 } ∧
    y.mbx.net (1 - p) = (s.hoop h).mbx.net (1 - p) ∧ (0x25, p, paramOf c.bytes) ∈ y.settings))

/-- A ring from the host's side (R347, R349, R350, R365, R375): a doorbell moves the tail and posts the slots; a legal command at the head of an
enabled ring 0 is read; the heads take what the host has consumed; REOPEN enables ring 0; a DMA error disables a ring and drops what it had read; a
token comes to Tc, or to Te where Tc is full. A datagram that fails is counted by its reason; one that passes is a command of its ring (R382). Forms
that complete here, `exec` answering the next state given: doorbell, mbxCplHead, mbxEvtHead, reopenRing0, dmaError, msixModerationTimeout,
remoteDatagram, tokenRefill. Rests on assumptions 10, 80, 81 of the log, the model's choices. -/
def Obligations.RingRows : Prop :=
  (∀ s h x r (v : BitVec 12) cmds, s.here h x → r < 16 → v.toNat < (x.ring r).slots → (x.ring r).en = false →
    CompletesWith (.doorbell h r v cmds) s h (fun y => (y.ring r).db = v.toNat ∧
      (y.ring r).posted = (x.ring r).posted ++ (List.range ((v.toNat + (x.ring r).slots - (x.ring r).db) % (x.ring r).slots)).map
        (fun j => { bytes := padTo 64 (cmds.getD j []), slot := ((x.ring r).db + j) % (x.ring r).slots, remote := none }))) ∧
  (∀ s h x (v : BitVec 12) b, s.here h x → v.toNat < (x.ring 0).slots → v.toNat = (x.ring 0).db + 1 → (x.ring 0).posted = [] → (x.ring 0).read = [] →
    canRead x (x.ring 0) = true → x.pair.role = .active → chainLen (hdrOf (padTo 64 b)).len = 1 → formCheck (hdrOf (padTo 64 b)) (x.ring 0).versions false = none →
    CompletesWith (.doorbell h 0 v [b]) s h (fun y => (y.ring 0).posted = [] ∧ (y.ring 0).read =
      [{ bytes := (padTo 64 b).take ((hdrOf (padTo 64 b)).len * 16), slot := (x.ring 0).db, colour := .unmetered, refusal := none, remote := none }])) ∧
  (∀ s h x r (v : BitVec 12), s.here h x → r < 16 → v.toNat < (x.ring r).slots →
    (v.toNat + (x.ring r).slots - (x.ring r).cplHead) % (x.ring r).slots ≤ (x.ring r).cplUsed → (x.ring r).posted = [] → (x.ring r).read = [] →
    CompletesWith (.mbxCplHead h r v) s h (fun y => (y.ring r).cplHead = v.toNat ∧
      (y.ring r).cpls = (x.ring r).cpls.drop ((v.toNat + (x.ring r).slots - (x.ring r).cplHead) % (x.ring r).slots))) ∧
  (∀ s h x r (v : BitVec 13), s.here h x → r < 16 → v.toNat < (x.ring r).evtSlots →
    (v.toNat + (x.ring r).evtSlots - (x.ring r).evtHead) % (x.ring r).evtSlots ≤ (x.ring r).evtUsed →
    CompletesWith (.mbxEvtHead h r v) s h (fun y => (y.ring r).evtHead = v.toNat)) ∧
  (∀ s h x (v : BitVec 32), s.here h x → v.getLsbD 0 = true → x.boot.stage = .opened → CompletesWith (.reopenRing0 h v) s h (fun y => (y.ring 0).en = true)) ∧
  (∀ s h x r, s.here h x → r < 16 → (x.ring r).en = true →
    CompletesWith (.dmaError h r) s h (fun y => y.mail r = { (x.ring r).mail with en := false, dmaErr := true, run := none, read := [] })) ∧
  (∀ s h x r, s.here h x → r < 16 → (x.ring r).cplUnsig ≠ 0 → (x.ring r).intr.getLsbD 0 = true →
    CompletesWith (.msixModerationTimeout h r false) s h (fun y => y.mail r = { (x.ring r).mail with cplUnsig := 0 })) ∧
  (∀ s h x r, s.here h x → agentRing r = true → (x.ring r).bound = true → CompletesWith (.tokenRefill h r) s h (fun y =>
    (y.ring r).tc = (if (x.ring r).tc < (x.ring r).cbs then (x.ring r).tc + 1 else (x.ring r).tc) ∧
    (y.ring r).te = (if (x.ring r).tc < (x.ring r).cbs then (x.ring r).te else if (x.ring r).te < (x.ring r).ebs then (x.ring r).te + 1 else (x.ring r).te))) ∧
  (∀ s h x port a sp p why, s.here h x → (x.mbx.net port).remoteEn = true → datagram x p = .inl why → CompletesWith (.remoteDatagram h port a sp p) s h (fun y =>
    y.mbx.drops = x.mbx.drops.set why (x.mbx.drops.getD why 0 + 1) ∧ y.mbx.dropAddr = a)) ∧
  (∀ s h x port a sp p w, s.here h x → (x.mbx.net port).remoteEn = true → datagram x p = .inr w → (x.ring (field p 1 1)).en = false →
    CompletesWith (.remoteDatagram h port a sp p) s h (fun y => (y.ring (field p 1 1)).ctrWin = w ∧
      (y.ring (field p 1 1)).posted = (x.ring (field p 1 1)).posted ++ [{
        bytes := (p.drop 16).take (p.length - 32), slot := 0
        remote := some { addr := a, port := sp, keyGen := BitVec.ofNat 16 (field p 2 2), counter := field p 4 8 } }]))

/-- One conversion (R182, R184, R187, R191, R194 to R196): the channel's result entry takes the word and a stamp 280 ns before the end of the slot, in
the regular sequence and in the telemetry sweep, with INJ where R195 and R196 give the injected source the slot for this channel; a channel in auto
range that reads OVR goes up a range. Forms that complete here, `exec` answering the next state given: conversionEnd, telemetrySweep. -/
def Obligations.ConversionRows : Prop :=
  (∀ s h x ch c, s.here h x → converts x ch = true → CompletesWith (.conversionEnd h ch c) s h (fun y =>
    (y.chan ch).word = resultWord x ch { c with inj := c.inj && injTakes x ch (convStart x) } ∧ (y.chan ch).stamp = BitVec.ofNat 32 (convStart x + 120) ∧
    (c.ovr = true → (x.chan ch).auto = true → (x.chan ch).range.toNat < 2 → planeElsewhere s h = false →
      (y.chan ch).range = (x.chan ch).range + 1))) ∧
  (∀ s h x ch c, s.here h x → converts x ch = true → Config.seqMode s.a.part = true → inRegular x ch = false →
    CompletesWith (.telemetrySweep h ch c) s h (fun y => (y.chan ch).word = resultWord x ch { c with inj := false } ∧
      (y.chan ch).stamp = BitVec.ofNat 32 (convStart x + 120)))

/-- Failures of the monitor plane (R100, R206, R207, R209): a roaming spare takes over a failed ADC, with source 107; without a spare a single-hoop
part loses the group; a spare test ends with the channel lost and source 106, or with the photodiode back where it had not failed; a thread that has
not passed 500 us after its epoch is FAULTED and its eyelet is asked to go dark. Forms that complete here, `exec` answering the next state given:
verifyDeadline, spareTestEnd, adcConversionTimeout. Rests on assumption 58 of the log, the model's choices. -/
def Obligations.MonitorFailures : Prop :=
  (∀ s h x g, s.here h x → g < x.nG → (x.group g).lost = false → x.mon.spare0Perm = false → x.mon.spare0 = 0x3F → CompletesWith (.adcConversionTimeout h g) s h (fun y =>
    y.mon.spare0 = BitVec.ofNat 6 g ∧ y.mon.spare0Perm = true ∧ (y.group g).spareAdc = true ∧ (y.group g).lost = false ∧ (y.src 107).live = true)) ∧
  (∀ s h x g, s.here h x → g < x.nG → (x.group g).lost = false → x.mon.spare0Perm = true → x.mon.spare1Perm = true → Config.duplex x.part = false →
    CompletesWith (.adcConversionTimeout h g) s h (fun y => (y.group g).lost = true ∧ (y.src (64 + g)).live = true)) ∧
  (∀ s h x ch normal, s.here h x → ch < Config.chans x.part → (x.chan ch).testing = true → (x.chan ch).lost = false → ((x.chan ch).rail < 256 ∨ normal = true) →
    CompletesWith (.spareTestEnd h ch normal) s h (fun y => (y.chan ch).lost = true ∧ (y.src 106).live = true)) ∧
  (∀ s h x ch, s.here h x → (x.chan ch).testing = true → (x.chan ch).due = false → 256 ≤ (x.chan ch).rail →
    CompletesWith (.spareTestEnd h ch false) s h (fun y => y.chan ch =
      { x.chan ch with testing := false, spare := false, ret := false, settle := 2, sw := x.now, rail := 0 })) ∧
  (∀ s h x i, s.here h x → s.quiet = true → i < 512 → (x.thread i).st = .carrying → (x.thread i).await ≠ [] → (x.thread i).noLight = false →
    max (x.thread i).epoch (x.thread i).reinjFrom + 500000 ≤ x.now →
    CompletesWith (.verifyDeadline h i) s h (fun y => (y.thread i).st = .faulted ∧ y.tmb.darkReq.getLsbD i = true))

/-- The reference and the commands of the monitor plane (R103, R196 to R198, R200): REF_OK sets 50 us after the last change; a lost external reference
falls back to the internal one; REF_SEL, ADC_PROFILE, VERIFY_CFG and CAL_CFG set what they name, and each boot does so again (R451). Forms that
complete here, `exec` answering the next state given: verifyCfg, adcProfile, refSel, calCfg, refOkSet, referenceFallback. -/
def Obligations.MonitorCommands : Prop :=
  (∀ s h x drift, s.here h x → x.mon.refOk = false → x.mon.refChanged + 50000 ≤ x.now → drift ≤ 1000 →
    CompletesAs (.refOkSet h drift) s h { x with mon := { x.mon with refOk := true } }) ∧
  (∀ s h x, s.here h x → x.mon.refSrc = 1 → CompletesWith (.referenceFallback h) s h (fun y => y.mon = { x.mon with
    refSrc := 0, refOk := false, refFallback := true, refChanged := x.now, refMeas := 1250000 } ∧ (y.src 110).live = true)) ∧
  (∀ s h c, passes s h 0 0x44 c refSelVerb = true → awaiting (s.hoop h) = false → (s.hoop h).pricking = false →
    CompletesWith (.refSel h 0) s h (fun y => y.mon.refSrc = BitVec.ofNat 2 (field (paramOf c.bytes) 0 1) ∧
      ((s.hoop h).mon.refSrc ≠ BitVec.ofNat 2 (field (paramOf c.bytes) 0 1) → y.mon.refOk = false ∧ (((s.hoop h).src 110).agree = false → (y.src 110).live = false) ∧
        (field (paramOf c.bytes) 0 1 = 0 → y.mon.refMeas = 1250000)) ∧
      (0x44, 0, paramOf c.bytes) ∈ y.settings)) ∧
  (∀ s h c, passes s h 0 0x44 c refSelVerb = true → (s.hoop h).mon.refSrc = BitVec.ofNat 2 (field (paramOf c.bytes) 0 1) →
    CompletesWith (.refSel h 0) s h (fun y => y.mon = (s.hoop h).mon ∧ (0x44, 0, paramOf c.bytes) ∈ y.settings)) ∧
  (∀ s h c, passes s h 0 0x43 c adcProfileVerb = true → CompletesWith (.adcProfile h 0) s h (fun y =>
    (∀ g, g < (s.hoop h).nG → (field (paramOf c.bytes) 0 1 = 0xFF ∨ field (paramOf c.bytes) 0 1 = g) →
      (y.group g).profile = BitVec.ofNat 2 (field (paramOf c.bytes) 1 1)) ∧ (0x43, field (paramOf c.bytes) 0 1, paramOf c.bytes) ∈ y.settings)) ∧
  (∀ s h c, passes s h 0 0x42 c verifyCfgVerb = true → CompletesWith (.verifyCfg h 0) s h (fun y =>
    y.cm.vp = { litTol := field (paramOf c.bytes) 0 1, unlitMargin := field (paramOf c.bytes) 1 1, absFloor := field (paramOf c.bytes) 2 1 } ∧
    y.cm.vpFrom = (s.hoop h).now + 1000000 ∧ (∀ t, t < (s.hoop h).now + 1000000 → vpAt y t = vpAt (s.hoop h) t) ∧ (0x42, 0, paramOf c.bytes) ∈ y.settings)) ∧
  (∀ s h c, passes s h 0 0x45 c calCfgVerb = true → CompletesWith (.calCfg h 0) s h (fun y =>
    y.mon = { (s.hoop h).mon with calEn := field (paramOf c.bytes) 0 1 == 1, calInterval := BitVec.ofNat 12 (field (paramOf c.bytes) 1 2) } ∧
    (0x45, 0, paramOf c.bytes) ∈ y.settings))

/-- Calibration (R200, R201, R204): a round starts INTERVAL after the last one ended and begins with the first channel that converts; its measurements
follow each other; the third zero sets the offset trims; a self-calibration that passes frees its spare for the next group. Forms that complete here,
`exec` answering the next state given: calRoundStart, calStep, adcSelfCalEnd. Rests on assumptions 60, 62 of the log, the model's choices. -/
def Obligations.CalibrationRows : Prop :=
  (∀ s h x k, s.here h x → x.mon.calEn = true → x.mon.calRun = false → nearSetpoint x = true →
    x.mon.calEnd + x.mon.calInterval.toNat * 1000000000 ≤ x.now → calNext x 0 = some k → (x.mayDefer && historyFirst x && x.wlm.telDeferred) = false →
    CompletesWith (.calRoundStart h) s h (fun y => y.mon.calRun = true ∧ y.mon.calStart = x.now ∧ y.mon.calFailed = 0 ∧
      ∃ q, y.mon.cal = some q ∧ q.chan = k ∧ q.ph = .zero0 ∧ q.avgs = [] ∧ q.hold = false)) ∧
  (∀ s h x q avg, s.here h x → x.mon.cal = some q → x.mon.calPaused = false → q.hold = false → q.ph = .zero1 →
    CompletesAs (.calStep h avg) s h { x with mon := { x.mon with cal := some { q with ph := .zero2, avgs := q.avgs ++ [avg] }, calSel := 0 } }) ∧
  (∀ s h x q avg, s.here h x → x.mon.cal = some q → x.mon.calPaused = false → q.hold = false → q.ph = .lvl0 →
    CompletesAs (.calStep h avg) s h { x with mon := { x.mon with cal := some { q with ph := .lvl1, avgs := q.avgs ++ [avg] }, calSel := 2 } }) ∧
  (∀ s h x q avg, s.here h x → x.mon.cal = some q → x.mon.calPaused = false → q.hold = false → q.ph = .zero2 → planeElsewhere s h = false →
    ((q.avgs ++ [avg]).map (ofsTrim x)).all trimOk = true →
    CompletesWith (.calStep h avg) s h (fun y => (y.chan q.chan).ofs = ((q.avgs ++ [avg]).map (ofsTrim x)).map (BitVec.ofInt 8) ∧
      y.mon.calSel = 1 ∧ y.mon.cal = some { q with ph := .lvl0, avgs := q.avgs ++ [avg] })) ∧
  (∀ s h x g (mid : Nat), s.here h x → x.mon.spare0.toNat = g → x.mon.spare0Perm = false → Int.natAbs ((mid : Int) - 32768) ≤ 16 → x.mon.adcCal = [] →
    CompletesWith (.adcSelfCalEnd h g mid) s h (fun y => (y.group g).spareAdc = false ∧ y.mon.spare0 = 0x3F)) ∧
  (∀ s h x g g' gs (mid : Nat), s.here h x → x.mon.spare0.toNat = g → x.mon.spare0Perm = false → Int.natAbs ((mid : Int) - 32768) ≤ 16 → x.mon.adcCal = g' :: gs →
    CompletesWith (.adcSelfCalEnd h g mid) s h (fun y => (y.group g').spareAdc = true ∧ y.mon.spare0 = BitVec.ofNat 6 g' ∧ y.mon.adcCal = gs))

/-- Commands of the loops and the sampler (R60, R233): LOOP_SET writes the shadow copy and asks for the swap where it is told to; LOOP_ASSIGN gives
every element of its range the set; SAMPLER_RESTORE puts every HBIAS back, in the MRAM at once or where a hold-up check lets it (R295), and forgets
what the slice had refined. Forms that complete here, `exec` answering the next state given: loopSet, loopAssign, samplerRestore. -/
def Obligations.LoopCommands : Prop :=
  (∀ s h c, passes s h 0 0x46 c loopSetVerb = true → CompletesWith (.loopSet h 0) s h (fun y =>
    y.bob = { (s.hoop h).bob with
      shadows := (s.hoop h).bob.shadows.set (field (paramOf c.bytes) 0 1) (coefOf (ctxOf s h 0 c) 1)
      swapPend := if field (paramOf c.bytes) 29 1 = 1 then (s.hoop h).bob.swapPend ||| BitVec.twoPow 16 (field (paramOf c.bytes) 0 1) else (s.hoop h).bob.swapPend } ∧
    (0x46, field (paramOf c.bytes) 0 1, paramOf c.bytes) ∈ y.settings)) ∧
  (∀ s h c, passes s h 0 0x47 c loopAssignVerb = true → CompletesWith (.loopAssign h 0) s h (fun y =>
    (∀ e, field (paramOf c.bytes) 0 2 ≤ e → e < field (paramOf c.bytes) 0 2 + field (paramOf c.bytes) 2 2 →
      (y.loop e).set = BitVec.ofNat 4 (field (paramOf c.bytes) 4 1) ∧ (y.loop e).reclamp = true) ∧
    (∀ e, (e < field (paramOf c.bytes) 0 2 ∨ field (paramOf c.bytes) 0 2 + field (paramOf c.bytes) 2 2 ≤ e) → y.loop e = (s.hoop h).loop e))) ∧
  (∀ s h c, passes s h 0 0x50 c samplerRestoreVerb = true → CompletesWith (.samplerRestore h 0) s h (fun y =>
    (if (s.hoop h).mramFree then y.mram = restoreRecords (s.hoop h) (s.hoop h).mram else y.mram = (s.hoop h).mram ∧ y.mwrites = (s.hoop h).mwrites ++ [.restore]) ∧
    y.slice = { (s.hoop h).slice with src := restoreRecords (s.hoop h) (s.hoop h).slice.src, adj := [] }))

/-- The loops' own events (R193, R217, R221, R226, R230, R233, R235, R60): a lock-in window ends with its sums cleared and one update, or in HOLD
where it had none; HOLD folds after its time; the lags move by their time constant; the cap is recomputed; the loop tick counts and swaps the sets
that ask for it; a refinement moves the mean out of the integrator into the slice. Forms that complete here, `exec` answering the next state given:
regularPassStart, lockinWindowEnd, loopHoldTimeout, capJob, fieldRefinement, neighbourLagUpdate. Rests on assumptions 4, 5 of the log, the model's
choices. -/
def Obligations.LoopRows : Prop :=
  (∀ s h x e, s.here h x → (x.setOf e).dither = true → ((x.loop e).st = .closed ∨ (x.loop e).st = .hold) → CompletesWith (.lockinWindowEnd h e) s h (fun y =>
    (y.loop e).lx = 0 ∧ (y.loop e).ls = 0 ∧ (y.loop e).lm = 0 ∧ (y.loop e).st = if (lockinErr x e).isSome then .closed else .hold)) ∧
  (∀ s h x e, s.here h x → (x.loop e).st = .hold → CompletesWith (.loopHoldTimeout h e) s h (fun y => (y.loop e).st = .ff ∧
    (y.loop e).i = (x.setOf e).clamp (sat32 ((x.loop e).i + (x.loop e).p + (x.loop e).d)) ∧ (y.loop e).p = 0 ∧ (y.loop e).d = 0)) ∧
  (∀ s h x e l, s.here h x → smFind x.bob.loops e = some l → CompletesWith (.neighbourLagUpdate h) s h (fun y =>
    (y.loop e).lag = ((nbrsOf x.part e).zip l.lag).map (fun q => match q.1 with
      | some k => q.2 + divRound (((if (x.heater k).range then 4 * (x.heater k).out.toNat else (x.heater k).out.toNat : Nat) - (x.entry k (x.ffBand e)).hb) * 65536 - q.2)
          (max 1 x.bob.nbrTau.toNat)
      | none => q.2))) ∧
  (∀ s h x, s.here h x → CompletesWith (.capJob h) s h (fun y => y.bob = { x.bob with
    cap := if uaOf (x.bob.loops.map (fun q => demand x q.1 q.2)).sum ≤ x.drv.hCeil.toNat then 0xFFFFFFFF
      else BitVec.ofNat 32 (capBits (x.bob.loops.map (fun q => demand x q.1 q.2)) x.drv.hCeil.toNat 13 0) })) ∧
  (∀ s h x, s.here h x → CompletesWith (.regularPassStart h) s h (fun y => y.bob.tick = x.bob.tick + 1 ∧ y.bob.run = true ∧ y.bob.swapPend = 0 ∧
    ∀ k, k < 16 → k < x.bob.sets.length → x.bob.swapPend.getLsbD k = true → (x.bob.shadows.getD k {}).ok = true →
      y.bob.sets.getD k {} = x.bob.shadows.getD k {})) ∧
  (∀ s h x e mean m, s.here h x → (x.loop e).st = .closed → (x.loop e).stableFrom + 60000000000 ≤ x.now → through x e ≠ [] →
    (∀ i ∈ through x e, (x.carrier i).st = .verified ∧ (x.carrier i).vSince + 60000000000 ≤ x.now) →
    m = clampI mean (divRound (x.loop e).stableLo 65536) (divRound (x.loop e).stableHi 65536) → m ≠ 0 →
    CompletesWith (.fieldRefinement h e mean) s h (fun y => (y.loop e).i = (x.loop e).i - m * 65536 ∧
      smGet 0 y.slice.adj (e * 2 + bit (x.ffBand e)) = smGet 0 x.slice.adj (e * 2 + bit (x.ffBand e)) + m ∧ (y.elem e).refined = true))

/-- Thermal commands (R243, R249, R250, R255, R256, R260, R263, R264, R267, R451): each sets what it names. SETPOINT of a register source takes effect
on the write; TEC_ENABLE and an accepted TRIP_CLEAR restart both zones at half duty, and TEC_ENABLE with 0 freezes both loops with source 133;
TRIP_CLEAR while an input is low changes no latch. Forms that complete here, `exec` answering the next state given: tecDrive, tecCoef, setpoint,
tecEnable, tripClear, thresholds, thmModel. Rests on assumptions 66, 68 of the log, the model's choices. -/
def Obligations.ThermalCommands : Prop :=
  (∀ s h c, passes s h 0 0x4A c setpointVerb = true → CompletesWith (.setpoint h 0) s h (fun y =>
    y.tec.src = BitVec.ofNat 2 (field (paramOf c.bytes) 0 1) ∧ y.tec.setpt = BitVec.ofNat 16 (field (paramOf c.bytes) 1 2) ∧
    (if field (paramOf c.bytes) 0 1 = 0 then y.tec.eff = BitVec.ofNat 16 (field (paramOf c.bytes) 1 2) ∧ y.tec.spLost = false
      else y.tec.eff = (s.hoop h).tec.eff) ∧ (0x4A, 0, paramOf c.bytes) ∈ y.settings)) ∧
  (∀ s h c, passes s h 0 0x48 c tecDriveVerb = true → CompletesWith (.tecDrive h 0) s h (fun y => y.tec = { (s.hoop h).tec with
    period := BitVec.ofNat 13 (field (paramOf c.bytes) 0 2), deadT := BitVec.ofNat 10 (field (paramOf c.bytes) 2 2)
    ifull := BitVec.ofNat 16 (field (paramOf c.bytes) 4 2), ilimNom := BitVec.ofNat 16 (field (paramOf c.bytes) 6 2) } ∧
    (0x48, 0, paramOf c.bytes) ∈ y.settings)) ∧
  (∀ s h c z, passes s h 0 0x49 c tecCoefVerb = true → z = (field (paramOf c.bytes) 0 1 == 1) → CompletesWith (.tecCoef h 0) s h (fun y =>
    y.tec.zone z = { (s.hoop h).tec.zone z with
      sh := tecCoefOf (ctxOf s h 0 c), swapPend := ((s.hoop h).tec.zone z).swapPend || field (paramOf c.bytes) 23 1 == 1 } ∧
    y.tec.zone (!z) = (s.hoop h).tec.zone (!z))) ∧
  (∀ s h c, passes s h 0 0x4C c tripClearVerb = true → ((s.hoop h).tec.z0.tripLive || (s.hoop h).tec.z1.tripLive) = true →
    CompletesWith (.tripClear h 0) s h (fun y => y.tec = (s.hoop h).tec)) ∧
  (∀ s h c, passes s h 0 0x4C c tripClearVerb = true → ((s.hoop h).tec.z0.tripLive || (s.hoop h).tec.z1.tripLive) = false →
    CompletesWith (.tripClear h 0) s h (fun y => y.tec.z0.trip = false ∧ y.tec.z1.trip = false ∧ (((s.hoop h).src 131).agree = false → (y.src 131).live = false) ∧ (((s.hoop h).src 132).agree = false → (y.src 132).live = false) ∧
      (((s.hoop h).tec.z0.trip || (s.hoop h).tec.z1.trip) = true → mayDrive y.tec = true →
        ∀ z, (y.tec.zone z).restart = true ∧ (y.tec.zone z).u = 0 ∧ (y.tec.zone z).shadow = BitVec.ofNat 13 (y.tec.period.toNat / 2)))) ∧
  (∀ s h c, passes s h 0 0x4B c tecEnableVerb = true → field (paramOf c.bytes) 0 1 = 1 → CompletesWith (.tecEnable h 0) s h (fun y =>
    y.tec.en = true ∧ (((s.hoop h).src 133).agree = false → (y.src 133).live = false) ∧ ((s.hoop h).tec.en = false → mayDrive y.tec = true →
      ∀ z, (y.tec.zone z).restart = true ∧ (y.tec.zone z).d = 0 ∧ (y.tec.zone z).shadow = BitVec.ofNat 13 (y.tec.period.toNat / 2)))) ∧
  (∀ s h c, passes s h 0 0x4B c tecEnableVerb = true → field (paramOf c.bytes) 0 1 = 0 → CompletesWith (.tecEnable h 0) s h (fun y =>
    y.tec.en = false ∧ (y.src 133).live = true ∧ ∀ z, (y.tec.zone z).running = false ∧ (y.tec.zone z).restart = false ∧
      (y.tec.zone z).fwd = false ∧ (y.tec.zone z).rev = false)) ∧
  (∀ s h c, passes s h 0 0x4D c thresholdsVerb = true → CompletesWith (.thresholds h 0) s h (fun y =>
    (field (paramOf c.bytes) 0 1 = 0 → y.ths = { (s.hoop h).ths with jctThr := BitVec.ofNat 24 (field (paramOf c.bytes) 1 3) }) ∧
    (field (paramOf c.bytes) 0 1 = 1 → y.ths = { (s.hoop h).ths with latThr := BitVec.ofNat 24 (field (paramOf c.bytes) 1 3) }) ∧
    (field (paramOf c.bytes) 0 1 = 2 → y.ths = { (s.hoop h).ths with brgThr := BitVec.ofNat 24 (field (paramOf c.bytes) 1 3) }) ∧
    (field (paramOf c.bytes) 0 1 = 3 → y.ths.auxThr.toNat % 256 = field (paramOf c.bytes) 1 1 ∧ y.ths.auxThr.toNat / 256 = (s.hoop h).ths.auxThr.toNat / 256) ∧
    (field (paramOf c.bytes) 0 1 = 4 → y.ths.auxThr.toNat / 256 = field (paramOf c.bytes) 1 1 ∧ y.ths.auxThr.toNat % 256 = (s.hoop h).ths.auxThr.toNat % 256))) ∧
  (∀ s h c m, passes s h 0 0x4E c thmModelVerb = true → m = field (paramOf c.bytes) 0 1 → CompletesWith (.thmModel h 0) s h (fun y => y.ths = { (s.hoop h).ths with
    thmR25 := (s.hoop h).ths.thmR25.set m (field (paramOf c.bytes) 1 4), thmB := (s.hoop h).ths.thmB.set m (field (paramOf c.bytes) 5 2) }))

/-- Temperature readings (R242 to R247, R258, R267, R270, R271): a diode pass gives every diode its reading and each zone the mean of its diodes that
are not SUSPECT; the 1 ms means, SETTLED and the commit gate follow; three strikes make a diode SUSPECT and nine SUSPECT raise a fault; the junction
is the hottest die sensor and opens or closes the MRAM gate; a thermistor is read by its model, and a bridge that cannot be seen is throttled at level
4. Forms that complete here, `exec` answering the next state given: diodePass, zoneMean, diodeCrossCheck, dieSensorRead, thermistorRead. Rests on
assumption 69 of the log, the model's choices. -/
def Obligations.SensorRows : Prop :=
  (∀ s h x volts temps j, s.here h x → standsBy s h = false → j < 32 → temps = diodeTemps volts → CompletesWith (.diodePass h volts) s h (fun y =>
    (y.diode j).t = temps.getD j (x.diode j).t ∧ (y.diode j).sum = (x.diode j).sum + temps.getD j (x.diode j).t ∧ (y.diode j).cnt = (x.diode j).cnt + 1 ∧
    ((x.diode j).suspect = false → (y.tec.zone (diodeZone j)).t = meanI (((List.range 32).filter (fun k =>
      diodeZone k == diodeZone j && !(x.diode k).suspect)).map (fun k => temps.getD k (x.diode k).t))))) ∧
  (∀ s h x j, s.here h x → j < 32 → CompletesWith (.zoneMean h) s h (fun y =>
    (y.diode j).mean = msMean (x.diode j).sum (x.diode j).cnt (x.diode j).mean ∧ (y.diode j).sum = 0 ∧ (y.diode j).cnt = 0 ∧
    (∀ z, (y.tec.zone z).mean = msMean (x.tec.zone z).sum (x.tec.zone z).cnt (x.tec.zone z).mean) ∧
    ((x.diode j).suspect = false → (y.diode j).mean ≤ y.ths.peak) ∧ y.ths.commitOk = gateOpen y ∧
    y.tec.settled = ([y.tec.z0, y.tec.z1].all (fun z => z.means.length == 100 && z.means.all (fun m => decide ((m - y.effT).natAbs ≤ 50)))))) ∧
  (∀ s h x j d n, s.here h x → j < 32 → (x.diode j).suspect = false → deviation x j = some d →
    n = (if 250 < d then (x.diode j).strikes.toNat + 1 else 0) → CompletesWith (.diodeCrossCheck h) s h (fun y =>
      (y.diode j).strikes = BitVec.ofNat 2 (min 3 n) ∧ (y.diode j).suspect = decide (3 ≤ n) ∧
      (9 ≤ suspects y → x.ths.suspectFlt = false → x.pair.role ≠ .standby → (y.src (if tookToken x then 129 else 128)).live = true))) ∧
  (∀ s h x temps, s.here h x → temps.length = 8 → CompletesWith (.dieSensorRead h temps) s h (fun y => y.ths.dies = temps ∧
    (∀ t ∈ temps, y.ths.jctMin ≤ t ∧ t ≤ y.ths.jct) ∧ y.ths.jct ∈ temps ∧ y.ths.jctMin ∈ temps ∧
    y.ths.mramOk = if x.ths.mramOk then decide (-1000 ≤ y.ths.jctMin ∧ y.ths.jct ≤ 10500) else decide (-500 ≤ y.ths.jctMin ∧ y.ths.jct ≤ 10000))) ∧
  (∀ s h x r0 r1 r2 r3 m t, s.here h x → standsBy s h = false → m < 4 →
    t = Config.thermistor ([r0, r1, r2, r3].getD m 0) (x.ths.thmR25.getD m 10000) (x.ths.thmB.getD m 3435) →
    CompletesWith (.thermistorRead h [r0, r1, r2, r3]) s h (fun y => y.ths.thm.getD m 0 = t ∧
      (thmBad t = true → y.ths.thmFlt.getLsbD m = true) ∧
      (thmBad t = true → m = 1 → x.ths.thmFlt.getLsbD 1 = false → y.tec.z0.brgLvl = 4) ∧
      (thmBad t = true → m = 2 → x.ths.thmFlt.getLsbD 2 = false → y.tec.z1.brgLvl = 4) ∧
      (thmBad t = false → y.ths.thmFlt.getLsbD m = false)))

/-- Throttling, drive and setpoint of the thermal unit (R250 to R252, R257, R260 to R262, R268, R269, R58): a level steps up every 500 ms at or above
its threshold and down every 2 s below it, and HTR_CEIL follows the heater level; a reload takes the shadow duty that was written a clock before; a
trip puts both loops to rest in both hoops; a pin source moves the setpoint in steps of 0.05 K, and a lost source holds it; a rebuilt slice takes the
header, the records and the setpoint's temperature. Forms that complete here, `exec` answering the next state given: tecTrip, throttleStep, pwmReload,
setpointAverage, setpointSourceLost, sliceRebuilt, tecTripRelease, pwmDutyEdge. Rests on assumptions 65, 67 of the log, the model's choices. -/
def Obligations.ThermalRows : Prop :=
  (∀ s h x g, s.here h x → g < 4 → lvlFixed x g = false → (thrOf x g).2 ≤ (thrOf x g).1 → 1 ≤ lvlOf x g → lvlOf x g < 7 →
    sinceOf x g + 500000000 ≤ x.now → CompletesWith (.throttleStep h g) s h (fun y => lvlOf y g = lvlOf x g + 1 ∧ sinceOf y g = x.now ∧
      (g < 2 → y.drv.hCeil = BitVec.ofNat 32 (if x.ths.latSd then 0 else Config.ceilBase x.part * (100 - 10 * heaterLvl y) / 100)))) ∧
  (∀ s h x g, s.here h x → g < 4 → lvlFixed x g = false → (thrOf x g).1 ≤ (thrOf x g).2 - 500 → 1 ≤ lvlOf x g →
    sinceOf x g + 2000000000 ≤ x.now → CompletesWith (.throttleStep h g) s h (fun y => lvlOf y g = lvlOf x g - 1)) ∧
  (∀ s h x z b, s.here h x → b = (z % 2 == 1) → CompletesWith (.pwmReload h z) s h (fun y =>
    (y.tec.zone b).active = (if (x.tec.zone b).shadowAt + 4 ≤ x.now then (x.tec.zone b).shadow else (x.tec.zone b).shadowNext.getD (x.tec.zone b).active) ∧
    (y.tec.zone b).per = x.tec.period ∧ (y.tec.zone b).dead = x.tec.deadT ∧ (y.tec.zone b).reloadAt = x.now ∧
    (y.tec.zone b).running = ((x.tec.zone b).running || ((x.tec.zone b).restart && decide ((x.tec.zone b).shadowAt + 4 ≤ x.now) && mayDrive x.tec)))) ∧
  (∀ s h x z b, s.here h x → z < 2 → b = (z == 1) → CompletesWith (.pwmDutyEdge h z) s h (fun y =>
    y.tec.zone b = (x.tec.zone b).pwm x.tec.drives x.now ∧ y.tec.zone (!b) = x.tec.zone (!b))) ∧
  (∀ s h x z b, s.here h x → z < 2 → b = (z == 1) → ∃ t, exec (.tecTrip z) s = .next t ∧ (if b then t.balls.trip1N else t.balls.trip0N) = false ∧
    ((t.hoop h).tec.zone b).trip = true ∧ ((t.hoop h).tec.zone b).tripLive = true ∧ ((t.hoop h).src (131 + z)).live = true ∧
    ∀ q, ((t.hoop h).tec.zone q).running = false ∧ ((t.hoop h).tec.zone q).fwd = false ∧ ((t.hoop h).tec.zone q).rev = false) ∧
  (∀ s h x z b, s.here h x → z < 2 → b = (z == 1) → ∃ t, exec (.tecTripRelease z) s = .next t ∧ (if b then t.balls.trip1N else t.balls.trip0N) = true ∧
    (t.hoop h).tec.zone b = { x.tec.zone b with tripLive := false } ∧ (t.hoop h).tec.zone (!b) = x.tec.zone (!b)) ∧
  (∀ s h x avg v, s.here h x → standsBy s h = false → x.tec.src ≠ 0 → pinLost x.tec.src.toNat avg = false → v = clampI (pinSp x.tec.src.toNat avg) 1500 6500 →
    CompletesWith (.setpointAverage h avg) s h (fun y =>
    y.tec.spLost = false ∧ (if 5 ≤ (v - x.effT).natAbs then y.tec.eff = BitVec.ofNat 16 v.toNat ∧
      (∀ z, (y.tec.zone z).errPrev = kelvin ((x.tec.zone z).t - v)) ∧ (2000 ≤ v → y.slice.rebuilding = true ∧ y.slice.rebuildTemp = v.toNat)
      else y.tec.eff = x.tec.eff ∧ y.slice = x.slice))) ∧
  (∀ s h x, s.here h x → x.tec.src ≠ 0 → x.tec.spLost = false → CompletesWith (.setpointSourceLost h) s h (fun y =>
    y.tec = { x.tec with spLost := true } ∧ (y.src 134).live = true)) ∧
  (∀ s h x, s.here h x → x.slice.rebuilding = true → CompletesWith (.sliceRebuilt h) s h (fun y =>
    y.slice = { x.slice with
      gen := x.slice.gen + 1, built := true, headerOk := Config.headerOk (headerBytes (samplerCells x.mram)), src := samplerCells x.mram, temp := x.slice.rebuildTemp
      rebuilding := false, adj := []
      floorO := Config.headerFloor (headerBytes (samplerCells x.mram)) false, floorC := Config.headerFloor (headerBytes (samplerCells x.mram)) true
      ceilO := Config.headerCeil (headerBytes (samplerCells x.mram)) false, ceilC := Config.headerCeil (headerBytes (samplerCells x.mram)) true } ∧
    (∀ e, e < x.nE → (y.elem e).badO = bandBad (samplerCells x.mram) e false x.slice.rebuildTemp ∧
      (y.elem e).badC = bandBad (samplerCells x.mram) e true x.slice.rebuildTemp)))

/-- Tambour's staging (R92, R93, R113, R115, R153): a stage whose codes read back right leaves DAC_STAGED, the delta and its strobe tile mask, and a
standing one arms the next comparator of 0 to 3 for its epoch; a pricking one arms none and stages the entry. Forms that complete here, `exec`
answering the next state given: stageStd, stagePrk. Rests on assumption 41 of the log, the model's choices. -/
def Obligations.StagingOperations : Prop :=
  (∀ s h x o c cs bad1 bad2, s.here h x → takes x 1 = some o → x.tmb.patches 1 = false → stageCommits x o = c :: cs → x.now + 500 ≤ c.epoch → c.epoch ≤ x.now + 2000000000 →
    x.ths.commitOk = true → readBad (stageDeltaOf x (c :: cs)) bad1 bad2 = [] →
    CompletesWith (.stageStd h bad1 bad2 .clean) s h (fun y => y.tmb.dacStaged = true ∧ y.tmb.stagedSeq = some c.key ∧ y.tmb.stageDelta = stageDeltaOf x (c :: cs) ∧
      y.tmb.strobeTiles = sortNat ((stageDeltaOf x (c :: cs)).map (fun d => d.elem / 32)) ∧ y.tmb.op = 1 ∧ y.tmb.opsDone = x.tmb.opsDone + 1 ∧
      y.tb.cmp (x.cm.rotation % 4) = { t16 := c.epoch * 16, armed := true, fired := false } ∧ y.cm.rotation = (x.cm.rotation % 4 + 1) % 4)) ∧
  (∀ s h x o bad1 bad2, s.here h x → takes x 2 = some o → x.tmb.patches 2 = false → x.now + 500 ≤ x.prk.nextEpoch → entryFits x (prkDelta x).length = true →
    prkDelta x ≠ [] → readBad (prkDelta x) bad1 bad2 = [] →
    CompletesWith (.stagePrk h bad1 bad2 .clean) s h (fun y => y.tmb.dacStaged = true ∧ y.tmb.stagedSeq = none ∧ y.tmb.stageDelta = prkDelta x ∧
      y.tmb.op = 2 ∧ y.tmb.opsDone = x.tmb.opsDone + 1 ∧ y.prk.nextStaged = true ∧ y.tb.cmps = x.tb.cmps))

/-- Tambour's other operations (R94, R108, R149, R151, R152): RESTORE_IDLE copies every active bank into the idle one and clears DAC_STAGED;
TILE_UPDATE writes the present codes of its tile to both banks and the register and opens the drive window; INJ_RELOAD fills an empty sequence; DISARM
disarms its comparator and restores the idle bank; EYELET_DARK writes the DARK code of each eyelet asked for and clears the bits; NOP and a reserved
code only complete. An operation whose first microaddress lies in the patch RAM begins there instead (R149), RESTORE_IDLE for one. Forms that complete
here, `exec` answering the next state given: restoreIdle, tileUpdate, injReload, disarm, eyeletDark, tambourNop, reservedOperation. -/
def Obligations.TambourOperations : Prop :=
  (∀ s h x o, s.here h x → s.quiet = true → takes x 3 = some o → x.tmb.patches 3 = false → CompletesWith (.restoreIdle h) s h (fun y =>
    (∀ e, (y.needle e).bank0 = x.activeCode e ∧ (y.needle e).bank1 = x.activeCode e ∧ (y.needle e).reg = (x.needle e).reg) ∧ y.tmb.dacStaged = false ∧
    y.tmb.stageDelta = [] ∧ y.tmb.strobeTiles = [] ∧ y.tmb.op = 3 ∧ y.tmb.opsDone = x.tmb.opsDone + 1)) ∧
  (∀ s h x o t, s.here h x → s.quiet = true → takes x 4 = some o → x.tmb.patches 4 = false → o.tiles.contains t = true → x.drv.refRun = true → CompletesWith (.tileUpdate h t) s h (fun y =>
    (y.tile t).win = some .drive ∧ (y.tile t).winStart = x.now ∧ (y.tile t).written = true ∧
    (o.tiles.filter (· != t) = [] → y.tmb.opsDone = x.tmb.opsDone + 1) ∧
    (o.park = [] → (x.tile t).nSlew = false → ∀ e ∈ tileElems t, (y.needle e).reg = presentCode x e ∧ (y.needle e).bank0 = presentCode x e ∧
      (y.needle e).bank1 = presentCode x e) ∧
    (∀ e ∈ o.park, e ∈ tileElems t → e < x.nS → routeHeld x e = false → (y.elem e).st = .idle ∧ (y.elem e).mixed = false))) ∧
  (∀ s h x o g, s.here h x → takes x 8 = some o → x.tmb.patches 8 = false → o.group = g → CompletesWith (.injReload h g) s h (fun y =>
    y.group g = reloadInj (x.group g) ∧ y.tmb.op = 8 ∧ y.tmb.opsDone = x.tmb.opsDone + 1)) ∧
  (∀ s h x o k, s.here h x → takes x 9 = some o → x.tmb.patches 9 = false → o.cmp = some k → CompletesWith (.disarm h k) s h (fun y =>
    y.tb.cmp k = { x.tb.cmp k with armed := false } ∧ y.tmb.dacStaged = false ∧ y.tmb.stageDelta = [] ∧ y.tmb.opsDone = x.tmb.opsDone + 1)) ∧
  (∀ s h x o, s.here h x → s.quiet = true → takes x 0x10 = some o → x.tmb.patches 0x10 = false → CompletesWith (.eyeletDark h) s h (fun y =>
    (∀ i, i < x.n → y.tmb.darkReq.getLsbD i = false) ∧ y.tmb.opsDone = x.tmb.opsDone + 1 ∧
    (∀ i, i < x.n → x.tmb.darkReq.getLsbD i = true → (y.elem (x.eyelet i)).st = .eyDark ∧ (y.needle (x.eyelet i)).reg = x.darkCode i ∧
      (y.needle (x.eyelet i)).bank0 = x.darkCode i ∧ (y.needle (x.eyelet i)).bank1 = x.darkCode i))) ∧
  (∀ s h x, s.here h x → x.tmb.runs = true → x.tmb.hold = false → x.tmb.darkReq = 0 → x.tmb.patches 0 = false → CompletesWith (.tambourNop h) s h (fun y =>
    y.tmb.op = 0 ∧ y.tmb.opsDone = x.tmb.opsDone + 1)) ∧
  (∀ s h x code, s.here h x → x.tmb.runs = true → x.tmb.hold = false → x.tmb.darkReq = 0 → reservedCode code = true → x.tmb.patches code = false →
    CompletesWith (.reservedOperation h code) s h (fun y => y.tmb.op = code ∧ y.tmb.opsDone = x.tmb.opsDone + 1)) ∧
  (∀ s h x o a, s.here h x → takes x 3 = some o → patchEntry x.tmb 3 = some a → CompletesWith (.restoreIdle h) s h (fun y =>
    y.tmb.st = .running ∧ y.tmb.op = 3 ∧ y.tmb.upc = a ∧ ∃ r, y.tmb.run = some r ∧ r.op = o ∧ r.pc = a ∧ r.stack = []))

/-- Tambour's stops and its errors (R140, R142, R144, R147, R155 to R158): a stop request stops it with the abort record, the hold set and every
pending commit ended; a forced stop sets FORCED; an uncorrectable word halts it with source 21; a corrected word counts; a WAIT that times out counts
and has its reaction; a resume clears the save slots and posts the roll-back first; the hold ends when the posted operations have completed. Forms
that complete here, `exec` answering the next state given: tambourStop, forcedStop, uncorrectableEcc, patchScrub, waitTimeout, tambourResume,
holdRelease. Rests on assumptions 42, 53 of the log, the model's choices. -/
def Obligations.TambourStops : Prop :=
  (∀ s h x src phase applied uaddr, s.here h x → x.tmb.stopReq = some src → x.tmb.run = none → CompletesWith (.tambourStop h phase applied uaddr) s h (fun y =>
    y.tmb.st = .stopped ∧ y.tmb.hold = true ∧ y.tmb.abortValid = true ∧ y.tmb.abortTime = x.stamp ∧ y.tmb.upc = uaddr ∧
    (s.quiet = true → y.cm.pending = []) ∧
    (nextOp x = none → y.tmb.abortInfo = abortWord 0 0 0x1FFF ∧ y.tmb.abortCtx = BitVec.ofNat 32 (uaddr.toNat + 2 ^ 19 + src % 256 * 2 ^ 24)))) ∧
  (∀ s h x src phase applied uaddr, s.here h x → x.tmb.stopReq = some src → x.tmb.run = none → CompletesWith (.forcedStop h phase applied uaddr) s h (fun y =>
    y.tmb.st = .stopped ∧ y.tmb.hold = true ∧ y.tmb.abortTime = x.stamp ∧ y.tmb.abortCtx.getLsbD 16 = true)) ∧
  (∀ s h x nano site, s.here h x → (x.tmb.st = .idle ∨ x.tmb.st = .running ∨ x.tmb.st = .waiting) → CompletesWith (.uncorrectableEcc h nano site) s h (fun y =>
    y.tmb.st = .halted ∧ y.tmb.eccLast = BitVec.ofNat 32 (site.addr.toNat + bit nano * 4096 + 8192) ∧ y.tmb.abortCtx.getLsbD 17 = true ∧ (y.src 21).live = true)) ∧
  (∀ s h x, s.here h x → CompletesAs (.patchScrub h none) s h x) ∧
  (∀ s h x nano addr, s.here h x → CompletesWith (.patchScrub h (some ⟨nano, addr, false⟩)) s h (fun y =>
    y.tmb.eccNano = (if nano then satInc x.tmb.eccNano else x.tmb.eccNano) ∧ y.tmb.eccMicro = (if nano then x.tmb.eccMicro else satInc x.tmb.eccMicro) ∧
    y.tmb.eccLast = BitVec.ofNat 32 (addr.toNat + bit nano * 4096))) ∧
  (∀ s h x nano addr, s.here h x → CompletesWith (.patchScrub h (some ⟨nano, addr, true⟩)) s h (fun y =>
    y.tmb.eccLast = BitVec.ofNat 32 (addr.toNat + bit nano * 4096 + 8192) ∧ (y.src 21).live = true)) ∧
  (∀ s h x cond g uaddr, s.here h x → x.tmb.runs = true → 1 ≤ cond → cond ≤ 5 → CompletesWith (.waitTimeout h cond g uaddr) s h (fun y =>
    y.tmb.waitTo = satInc x.tmb.waitTo ∧ (cond = 1 ∨ cond = 2 ∨ cond = 4 → (y.src 23).live = true) ∧
    (cond = 3 → y.group g = reloadInj { x.group g with inj := [], injQueue := (x.group g).inj ++ (x.group g).injQueue }))) ∧
  (∀ s h x, s.here h x → x.tmb.st = .stopped → CompletesWith (.tambourResume h) s h (fun y => y.tmb.st = .idle ∧ y.tmb.savedN = none ∧ y.tmb.savedU = none ∧
    y.tmb.hold = x.tmb.hold ∧ ∀ o, x.tmb.stopped = some o → o.code = 1 ∨ o.code = 2 → 1 ≤ x.tmb.abortCtx.toNat / 4096 % 8 →
      x.tmb.abortCtx.toNat / 4096 % 8 ≤ 3 → y.tmb.normal.head? = some { code := 3, roll := true })) ∧
  (∀ s h x, s.here h x → x.tmb.st = .idle → (x.tmb.urgent.any (·.roll)) = false → (x.tmb.normal.any (·.roll)) = false →
    CompletesAs (.holdRelease h) s h { x with tmb := { x.tmb with hold := false } })

/-- Rails and registers of the collector (R277 to R279, R285, R303): an asserted source is LIVE and STICKY with its detail, and counts as new unless
it was live with that detail; it clears with its rails; agreeing rails count as asserted and set WIRE; STICKY and WIRE clear where a write may clear
them, and FC_HOLD with the last STICKY of S2 or higher; REARM frees FC_FIRST; the pulse ends after 10 us. Forms that complete here, `exec` answering
the next state given: fcStickyClear, fcWireClear, rearm, faultAssert, faultClear, wireFault, faultNTimeout. Rests on assumption 20 of the log, the
model's choices. -/
def Obligations.CollectorRows : Prop :=
  (∀ s h x src det sev, s.here h x → sevOf src = some sev → CompletesWith (.faultAssert h src det) s h (fun y =>
    (y.src src).live = true ∧ (y.src src).det = BitVec.ofNat 13 det ∧ (y.src src).agree = false ∧
    (if (x.src src).live = true ∧ (x.src src).det = BitVec.ofNat 13 det then y.fc.newCnt = x.fc.newCnt
      else (y.src src).sticky = true ∧ (y.src src).cnt = min ((x.src src).cnt + 1) 65535 ∧ (y.src src).time = x.stamp ∧ y.fc.newCnt = x.fc.newCnt + 1 ∧
        y.fc.last = fcWord src sev false ∧ y.fc.lastTime = x.stamp ∧ (x.fc.first.getLsbD 31 = false → y.fc.first = fcWord src sev false)))) ∧
  (∀ s h x src det, s.here h x → sevOf src = none → CompletesWith (.faultAssert h src det) s h (fun y => y.lines = x.lines)) ∧
  (∀ s h x src, s.here h x → CompletesWith (.faultClear h src) s h (fun y => y.src src = { x.src src with live := false, agree := false })) ∧
  (∀ s h x src, s.here h x → (sevOf src).isSome = true → (x.src src).agree = false → CompletesWith (.wireFault h src) s h (fun y =>
    (y.src src).live = true ∧ (y.src src).wire = true ∧ (y.src src).agree = true ∧
    (if (x.src src).live then y.fc.newCnt = x.fc.newCnt ∧ (y.src src).det = (x.src src).det
      else y.fc.newCnt = x.fc.newCnt + 1 ∧ (y.src src).sticky = true ∧ (y.src src).det = BitVec.ofNat 13 noDet))) ∧
  (∀ s h x w v k, s.here h x → w < 7 → CompletesWith (.fcStickyClear h w v) s h (fun y =>
    (y.src k = if k / 32 = w ∧ v.getLsbD (k % 32) = true ∧ (x.src k).live = false then { x.src k with sticky := false } else x.src k) ∧
    y.fc.hold = (x.fc.hold && y.stickyFrom 2) ∧ y.fc.first = x.fc.first ∧ y.fc.newCnt = x.fc.newCnt)) ∧
  (∀ s h x w v k, s.here h x → w < 7 → CompletesWith (.fcWireClear h w v) s h (fun y =>
    y.src k = if k / 32 = w ∧ v.getLsbD (k % 32) = true ∧ (x.src k).agree = false then { x.src k with wire := false } else x.src k)) ∧
  (∀ s h x v, s.here h x → v.getLsbD 0 = true → CompletesWith (.rearm h v) s h (fun y => y.lines = { x.lines with first := x.fc.first &&& 0x7FFFFFFF })) ∧
  (∀ s h x, s.here h x → x.fc.pulse = true → x.fc.pulseEnd ≤ x.now → CompletesWith (.faultNTimeout h) s h (fun y => y.lines = { x.lines with pulse := false }))

/-- What a fault of S3 or S4 does to the module (R280, R283, R285, R286, R289): S4 forces the keeper of every hoop and opens every DARK_N switch; S3
does so in a single-hoop part; in the QN-0512D, S3 in the holder requests a hand-over where the standby is eligible, and darks the module where it is
not; FAULT_N goes low. Forms that complete here, `exec` answering the next state given: faultAssert. -/
def Obligations.FaultReactions : Prop :=
  (∀ s h x src det, s.here h x → sevOf src = some 4 → (x.src src).live = false → ∃ t, exec (.faultAssert h src det) s = .next t ∧
    (∀ k, s.has k = true → (t.hoop k).dk.force = true ∧ (t.hoop k).dk.vouch = false) ∧ t.balls.darkN = false ∧ t.balls.faultN = false) ∧
  (∀ s h x src det, s.here h x → sevOf src = some 3 → (x.src src).live = false → Config.duplex s.a.part = false → ∃ t, exec (.faultAssert h src det) s = .next t ∧
    (t.hoop h).dk.force = true ∧ t.balls.darkN = false ∧ t.balls.faultN = false) ∧
  (∀ s h x src det, s.here h x → s.quiet = true → sevOf src = some 3 → Config.duplex s.a.part = true → x.pair.role = .active → x.dk.force = false →
    (s.hoop (other h)).eligFault = true → ∃ t o, exec (.faultAssert h src det) s = .next t ∧ t.duo.ho = some o ∧ o.kind = 1 ∧ o.fromB = x.isB ∧
      o.cause = BitVec.ofNat 16 src ∧ o.request = x.now ∧ (t.hoop h).dk.force = false ∧ t.balls.faultN = false) ∧
  (∀ s h x src det, s.here h x → s.quiet = true → sevOf src = some 3 → Config.duplex s.a.part = true → x.pair.role = .active →
    (s.hoop (other h)).eligFault = false → ∃ t, exec (.faultAssert h src det) s = .next t ∧ (x.dk.force = false → ∀ k, (t.hoop k).dk.force = true) ∧
      t.balls.faultN = false)

/-- The keeper and the end of a module dark (R284, R288, R291): a parity error forces its own hoop's keeper and holds FAULT_N low; a latch check that
fails raises source 26 and clears ARMED; DARK_RELEASE is accepted where every hoop may be released, and at the refresh boundary after it every hoop's
force ends. Forms that complete here, `exec` answering the next state given: darkRelease, collectorParityError, keeperCrcCheck, forceRelease. Rests on
assumptions 56, 57, 72 of the log, the model's choices. -/
def Obligations.KeeperRows : Prop :=
  (∀ s h x, s.here h x → ∃ t, exec (.collectorParityError h) s = .next t ∧ (t.hoop h).dk.fcPar = true ∧ (s.quiet = true → (t.hoop h).dk.force = true) ∧
    t.balls.faultN = false) ∧
  (∀ s h x flipped, s.here h x → (x.dk.armed || x.dk.imageBad) = true → (x.dk.imageBad || flipped || keeperCrc x x.dk.codes != x.dk.crc) = true →
    CompletesWith (.keeperCrcCheck h flipped) s h (fun y => y.dk.armed = false ∧ y.dk.imageBad = true ∧ (y.src 26).live = true)) ∧
  (∀ s h x, s.here h x → x.dk.imageBad = false → keeperCrc x x.dk.codes = x.dk.crc → CompletesWith (.keeperCrcCheck h false) s h (fun y =>
    y.dk.armed = x.dk.armed ∧ y.dk.imageBad = false ∧ ((x.src 26).agree = false → (y.src 26).live = false))) ∧
  (∀ s h c u, s.quiet = true → u = darkReleaseRun h s → passes u h 0 0x51 c darkReleaseVerb = true → moduleDark (u.hoop h) (u.hoop (other h)) = true →
    releasable (u.hoop h) = true → (Config.duplex (u.hoop h).part = true → releasable (u.hoop (other h)) = true) →
    CompletesWith (.darkRelease h 0) s h (fun y => y.dk.relAccepted = true)) ∧
  (∀ s h c u, s.quiet = true → u = darkReleaseRun h s → passes u h 0 0x51 c darkReleaseVerb = true → moduleDark (u.hoop h) (u.hoop (other h)) = true →
    releasable (u.hoop h) = false → CompletesWith (.darkRelease h 0) s h (fun y => y.dk = { (u.hoop h).dk with vouch := y.dk.vouch })) ∧
  (∀ s h x k, s.here h x → s.has k = true → s.quiet = true → x.dk.relAccepted = true → (s.hoop k).dk.force = true → ∃ t, exec (.forceRelease h) s = .next t ∧
    (t.hoop k).dk.force = false ∧ (t.hoop k).dk.relAccepted = false ∧ (t.hoop k).dk.relTime = (s.hoop k).stamp)

/-- The journal writer (R292, R294, R295, R371): a burst that is due and may be written takes up to 64 records, each at the head with the next SEQ;
one that the hold-up check or the MRAM gate stops is deferred and writes nothing, with source 9 for the check alone; a retry writes what was deferred,
of the journal and of the rest of the MRAM; HOLDUP_MIN sets the threshold. Forms that complete here, `exec` answering the next state given: holdupMin,
journalBurst, holdupRetry. Rests on assumptions 31, 74 of the log, the model's choices. -/
def Obligations.JournalRows : Prop :=
  (∀ s h x mv j, s.here h x → burstDue x = true → x.jnl.deferred = false → x.jnl.holdupMin.toNat ≤ mv → x.ths.mramOk = true → x.jnl.loss = none → x.jnl.buf = [j] →
    x.mwrites = [] → (x.src 9).live = false → CompletesWith (.journalBurst h mv) s h (fun y => y.mram = memWrite x.mram (64 * x.jnl.head) (j.bytes x.jnl.seq) ∧
      y.jnl.head = (x.jnl.head + 1) % 393216 ∧ y.jnl.seq = x.jnl.seq + 1 ∧ y.jnl.bursts = x.jnl.bursts + 1 ∧ y.jnl.holdup = BitVec.ofNat 11 mv)) ∧
  (∀ s h x mv n, s.here h x → s.poised = true → burstDue x = true → x.jnl.deferred = false → x.jnl.holdupMin.toNat ≤ mv → x.ths.mramOk = true →
    (x.src 9).live = false → n = x.jnl.buf.length + (if x.jnl.loss.isSome then 1 else 0) → CompletesWith (.journalBurst h mv) s h (fun y =>
      y.jnl.buf.length = n - 64 ∧ y.jnl.loss = none ∧ y.jnl.seq = x.jnl.seq + BitVec.ofNat 32 (min n 64) ∧ y.jnl.bursts = x.jnl.bursts + 1)) ∧
  (∀ s h x mv, s.here h x → burstDue x = true → x.jnl.deferred = false → (mv < x.jnl.holdupMin.toNat ∨ x.ths.mramOk = false) →
    CompletesWith (.journalBurst h mv) s h (fun y => y.mram = x.mram ∧ y.jnl.deferred = true ∧ y.jnl.deferredHoldup = decide (mv < x.jnl.holdupMin.toNat) ∧
      y.jnl.bursts = x.jnl.bursts ∧ ((x.src 9).agree = false → (y.src 9).live = decide (mv < x.jnl.holdupMin.toNat)))) ∧
  (∀ s h x mv, s.here h x → x.jnl.deferred = true → x.jnl.holdupMin.toNat ≤ mv → x.ths.mramOk = true → CompletesWith (.holdupRetry h mv) s h (fun y =>
    y.jnl.deferred = false ∧ y.jnl.bursts = x.jnl.bursts + 1 ∧ y.mwrites = [] ∧ ((x.src 9).agree = false → (y.src 9).live = false))) ∧
  (∀ s h x mv w, s.here h x → x.jnl.deferred = false → x.mwrites = [w] → x.jnl.holdupMin.toNat ≤ mv → x.ths.mramOk = true →
    CompletesWith (.holdupRetry h mv) s h (fun y => y.mwrites = [] ∧ y.mram = (applyMWrite x w).mram ∧ y.calStore = (applyMWrite x w).calStore)) ∧
  (∀ s h c, passes s h 0 0x4F c holdupMinVerb = true → CompletesWith (.holdupMin h 0) s h (fun y =>
    y.jnl.holdupMin = BitVec.ofNat 11 (field (paramOf c.bytes) 0 2) ∧ (0x4F, 0, paramOf c.bytes) ∈ y.settings))

/-- The history store and the ledger's minutes (R28, R299, R300, R385 to R389): a second's summaries and snapshot go to a working store with all that
waits, or wait where the second is deferred; a write that fails twice ends the store with source 199, as does an absent store; a minute ends at
comparator 14, and its records are closed 10 ms later. Forms that complete here, `exec` answering the next state given: ledgerMinuteBoundary,
ledgerMinuteClose, historySecond, historyStoreReady. Rests on assumptions 75, 76 of the log, the model's choices. -/
def Obligations.HistoryRows : Prop :=
  (∀ s h x sec, s.here h x → x.hist.present = true → x.hist.failed = false → (x.src 199).live = false → sec = (x.tb.ptpOf x.now + 100) / 1000000000 - 1 →
    CompletesWith (.historySecond h false false) s h (fun y => y.hist.pendingSecs = [] ∧ y.hist.pendingLed = [] ∧ y.hist.chStats = [] ∧ ((x.src 200).agree = false → (y.src 200).live = false) ∧
      y.hist.summaries = keepLast (summaryCap x) (x.hist.summaries ++ x.hist.pendingSecs.map (fun q => (q.1, q.2.1)) ++ [(sec, summaries x sec false)]) ∧
      y.hist.ledger = keepLast 62500000 (x.hist.ledger ++ x.hist.pendingLed))) ∧
  (∀ s h x, s.here h x → x.hist.present = true → x.hist.failed = false → (x.src 199).live = false → x.mayDefer = true → x.hist.pendingSecs.length < deferCap x →
    CompletesWith (.historySecond h true false) s h (fun y =>
    y.hist.deferring = true ∧ y.hist.pendingSecs.length = x.hist.pendingSecs.length + 1 ∧ y.hist.summaries = x.hist.summaries ∧ y.hist.pendingLed = [])) ∧
  (∀ s h x deferred, s.here h x → x.hist.present = true → x.hist.failed = false → (x.src 199).live = false → 1 ≤ x.hist.badWrites → CompletesWith (.historySecond h deferred true) s h (fun y =>
    y.hist.failed = true ∧ y.hist.pendingSecs = [] ∧ (y.src 199).live = true)) ∧
  (∀ s h x hdrOk cap, s.here h x → x.hist.present = false → (x.src 199).live = false → 64000000000 ≤ cap → cap ≤ 8000000000000 →
    CompletesWith (.historyStoreReady h true hdrOk cap) s h (fun y => y.hist.present = true ∧ y.hist.capacity = cap ∧
      (if hdrOk then y.hist.summaries = x.hist.summaries ∧ y.hist.ledger = x.hist.ledger else y.hist.summaries = [] ∧ y.hist.ledger = []))) ∧
  (∀ s h x hdrOk cap, s.here h x → x.hist.present = false → (x.src 199).live = false → CompletesWith (.historyStoreReady h false hdrOk cap) s h (fun y =>
    y.hist = x.hist ∧ (y.src 199).live = true)) ∧
  (∀ s h x, s.here h x → s.quiet = true → cmpDue x 14 = true → CompletesWith (.ledgerMinuteBoundary h) s h (fun y =>
    y.led.closingMin = some x.led.minute ∧ y.led.minute = minuteOf x ∧ y.led.openRecs = [] ∧ y.led.flags = minuteFlags x ∧ y.led.closingFlags = x.led.flags)) ∧
  (∀ s h x m, s.here h x → x.led.closingMin = some m → x.minuteStart + 10000000 ≤ x.now → CompletesWith (.ledgerMinuteClose h) s h (fun y =>
    y.led.closingMin = none ∧ (∃ recs, y.led.closed = (x.led.closed ++ [(m, recs)]).drop (x.led.closed.length + 1 - 60) ∧ (∀ r ∈ recs, r.hasTime = true ∧ r.flags = x.led.closingFlags) ∧
      y.hist.pendingLed = x.hist.pendingLed ++ recs.map (fun r => (m, ledBytes r))) ∧ (s.quiet = true → y.led.closing = [])))

/-- The performance counters and the default target (R427, R428, R431, R432, R435, R438): PMC_CTRL takes a WINDOW that is defined; a load gives a
counter its preload and an increment of the same clock; an overflow sets its flag and a write of 1 clears it; the preload takes effect with its HI
word; a LO read returns the low word and latches the rest; a window boundary writes the other bank with every counter; a burst to no target is
answered and recorded. Forms that complete here, `exec` answering the next state given: pmcCtrlWrite, pmcLoad, pmcOvfClear, pmcPreHiWrite,
pmcCntLoRead, defaultTargetAccess, windowBoundary, counterOverflow. Rests on assumptions 71, 100, 102 of the log, the model's choices. -/
def Obligations.CounterRows : Prop :=
  (∀ s h x v, s.here h x → CompletesAs (.pmcCtrlWrite h v) s h { x with pmc := { x.pmc with
    en := v.getLsbD 0, userEn := v.getLsbD 1, first := x.pmc.first || (v.getLsbD 0 && !x.pmc.en)
    winPending := if !windowOk (v.toNat / 4 % 2 ^ 20) then x.pmc.winPending else if v.toNat / 4 % 2 ^ 20 = x.pmc.window.toNat then none
      else some (BitVec.ofNat 20 (v.toNat / 4 % 2 ^ 20)) } }) ∧
  (∀ s h x c inc, s.here h x → s.poised = true → x.pmc.ovf &&& ~~~x.pmc.ovfTold &&& x.pmc.ovfEn = 0 → c < 256 → pmcExists x.part c = true →
    (smGet 0 x.pmc.pre c).toNat + inc < 2 ^ 48 → CompletesWith (.pmcLoad h (BitVec.ofNat 32 (c + 256)) inc) s h (fun y =>
      smGet 0 y.pmc.cnt c = smGet 0 x.pmc.pre c + BitVec.ofNat 48 (if x.pmc.en then inc else 0) ∧ y.pmc.ovf = x.pmc.ovf)) ∧
  (∀ s h x c inc, s.here h x → s.poised = true → x.pmc.ovf &&& ~~~x.pmc.ovfTold &&& x.pmc.ovfEn = 0 → x.pmc.en = true → c < 256 → pmcExists x.part c = true →
    x.pmc.ovfEn.getLsbD c = false → 2 ^ 48 ≤ (smGet 0 x.pmc.cnt c).toNat + inc → CompletesWith (.counterOverflow h c inc) s h (fun y => y.pmc.ovf.getLsbD c = true ∧
      smGet 0 y.pmc.cnt c = BitVec.ofNat 48 ((smGet 0 x.pmc.cnt c).toNat + inc - 2 ^ 48 + if x.pmc.reload.getLsbD c then (smGet 0 x.pmc.pre c).toNat else 0))) ∧
  (∀ s h x w v, s.here h x → s.poised = true → x.pmc.ovf &&& ~~~x.pmc.ovfTold &&& x.pmc.ovfEn = 0 → CompletesWith (.pmcOvfClear h w v) s h (fun y =>
    y.pmc.ovf = x.pmc.ovf &&& ~~~(mapWord w v))) ∧
  (∀ s h x c v, s.here h x → pmcExists x.part c = true → CompletesAs (.pmcPreHiWrite h c v) s h { x with pmc := { x.pmc with
    pre := smSet 0 x.pmc.pre c (BitVec.ofNat 48 (v.toNat % 65536 * 2 ^ 32 + (smGet 0 x.pmc.preLo c).toNat)) } }) ∧
  (∀ s h x c, s.here h x → c < 256 → CompletesAs (.pmcCntLoRead h c) s h { x with
    bus := (smGet 0 x.pmc.cnt c).setWidth 32
    pmc := { x.pmc with latchHi := smSet 0 x.pmc.latchHi c (BitVec.ofNat 16 ((smGet 0 x.pmc.cnt c).toNat / 2 ^ 32)) } }) ∧
  (∀ s h x b, s.here h x → x.pmc.en = true → CompletesWith (.windowBoundary h) s h (fun y => y.pmc.gen = x.pmc.gen + 1 ∧ y.pmc.cur = !x.pmc.cur ∧ y.pmc.last = x.pmc.cnt ∧
    (b = (if y.pmc.cur then y.pmc.bank1 else y.pmc.bank0) → b.gen = x.pmc.gen + 1 ∧ b.stamp = x.stamp ∧ b.values = counterValues x.pmc ∧
      b.deltas = counterDeltas x.pmc ∧ b.window = x.pmc.window.toNat ∧ b.sec = BitVec.ofNat 48 (windowAt x / 1000000000) ∧
      b.ns = BitVec.ofNat 32 (windowAt x % 1000000000)))) ∧
  (∀ s h x m write beats addr, s.here h x → m < 9 → 1 ≤ beats → beats ≤ 16 → addr < 2 ^ 40 → defaultAccess x m addr write = true →
    CompletesWith (.defaultTargetAccess h m write beats addr) s h (fun y => y.xbar.defAddr = BitVec.ofNat 32 addr ∧ y.xbar.defTime = x.stamp ∧
      y.xbar.defInfo = BitVec.ofNat 32 (m + bit write * 16 + beats * 256 + addr / 2 ^ 32 * 2 ^ 24) ∧
      (m = 2 ∨ m = 3 ∨ m = 8 → (y.src 25).live = true)))

/-- Hand-over commands and their steps (R307, R320 to R322, R325 to R328): a HANDOVER that is accepted offers the token; the standby's operation
acknowledges it; at its boundary the token passes in one clock; one that has run out of time is abandoned, and a hand-back that is abandoned marks its
element; the proving period ends. Forms that complete here, `exec` answering the next state given: handover, tambourHandover, handoverBoundary,
handoverAbandon, provingEnd. Rests on assumptions 31, 84, 85 of the log, the model's choices. -/
def Obligations.HandoverRows : Prop :=
  (∀ s h c x, passes s h 0 0x52 c handoverVerb = true → x = s.hoop h → s.poised = true → s.holder = some h → Config.duplex s.a.part = true → x.pair.post = none →
    eligPlanned (s.hoop (other h)) x = true → ∃ t o, exec (.handover h 0) s = .next t ∧ t.duo.ho = some o ∧ o.kind = 0 ∧ o.fromB = x.isB ∧ o.request = x.now ∧
      (t.hoop h).tmb.urgentMax = max x.tmb.urgentMax (x.tmb.urgent.length + 1)) ∧
  (∀ s h x o q, s.here h x → takes x 0xA = some o → x.tmb.patches 0xA = false → x.pair.role = .standby → (s.a.lineOn || s.b.lineOn) = false → s.duo.ho = some q → q.kind = 0 →
    ∃ t, exec (.tambourHandover h) s = .next t ∧ t.duo.ack = true ∧ (t.hoop h).tmb.opsDone = x.tmb.opsDone + 1) ∧
  (∀ s h x o, s.here h x → takes x 0xA = some o → x.tmb.patches 0xA = false → x.pair.role ≠ .standby → s.duo.ack = true →
    CompletesWith (.tambourHandover h) s h (fun y => y.tmb.opsDone = x.tmb.opsDone + 1 ∧ y.tmb.op = 0xA)) ∧
  (∀ s o f, Config.duplex s.a.part = true → s.duo.ho = some o → boundaryDue s o = true → f = (if o.fromB then HoopId.hoopB else .hoopA) →
    (s.hoop (other f)).lineOn = false → (s.hoop (other f)).tmb.st ≠ .halted →
    ∃ t, exec .handoverBoundary s = .next t ∧ (t.hoop f).pair.token = false ∧ (t.hoop f).mon.planeWr = false ∧ (t.hoop f).drv.outEn = false ∧
      (t.hoop (other f)).pair.token = true ∧ (t.hoop (other f)).pair.role = .active ∧ (t.hoop (other f)).mon.planeWr = true ∧
      (t.hoop (other f)).drv.outEn = true ∧ (t.hoop (other f)).pair.proving = true ∧ (t.hoop (other f)).pair.tilesProven = 0 ∧
      (t.hoop (other f)).pair.hoCnt = satInc (s.hoop (other f)).pair.hoCnt) ∧
  (∀ s o cause, s.duo.ho = some o → abandonDue s o = true → o.kind = 0 → (s.a.lineOn || s.b.lineOn) = false →
    ∃ t, exec (.handoverAbandon cause) s = .next t ∧ t.duo.ho = none ∧ t.duo.ack = false) ∧
  (∀ s o cause f, Config.duplex s.a.part = true → s.duo.ho = some o → abandonDue s o = true → o.kind = 2 → o.check ≠ 3 → f = (if o.fromB then HoopId.hoopB else .hoopA) →
    o.element.toNat < (s.hoop f).nS → ∃ t, exec (.handoverAbandon cause) s = .next t ∧ ((t.hoop f).elem o.element.toNat).unusable = true) ∧
  (∀ s h x, s.here h x → x.pair.proving = true → x.pair.provingFrom + 1000 ≤ x.now → (x.nT ≤ provenTiles x ∨ x.pair.provingFrom + 100200 ≤ x.now) →
    CompletesAs (.provingEnd h) s h { x with pair := { x.pair with proving := false, heatersProven := true } })

/-- Who may drive (R306, R307, R331 to R335): an interlock disagreement cuts both hoops until the grace period ends, when the strap-primary hoop
drives and the other reports source 161, or both darken where neither may; a hoop claims the token 10 s after reset; a resync copies the holder and
makes a standby; an accepted REJOIN takes a MONITOR to RESYNC. Forms that complete here, `exec` answering the next state given: rejoin,
interlockDisagreement, gracePeriodEnd, tokenTimeout, resyncComplete. Rests on assumptions 87, 88, 89 of the log, the model's choices. -/
def Obligations.TokenRows : Prop :=
  (∀ s, Config.duplex s.a.part = true → s.duo.claimed = true → s.duo.grace = none → ∃ t, exec .interlockDisagreement s = .next t ∧ t.duo.grace = some s.a.now ∧
    t.balls.hoopActA = false ∧ t.balls.hoopActB = false ∧ (∀ h, (t.hoop h).pair.token = false ∧ (t.hoop h).pair.interlock = true ∧
      (t.hoop h).drv.outEn = false ∧ (t.hoop h).drv.hOutEn = false ∧ (t.hoop h).tec.z0.running = false ∧ (t.hoop h).tec.z1.running = false)) ∧
  (∀ s g d, Config.duplex s.a.part = true → s.duo.grace = some g → g + 2000 ≤ s.a.now → d = (if s.a.pair.strap then HoopId.hoopA else .hoopB) → mayDriveAlone (s.hoop d) = true →
    ∃ t, exec .gracePeriodEnd s = .next t ∧ t.duo.grace = none ∧ (t.hoop d).pair.token = true ∧ (t.hoop d).pair.role = .active ∧ (t.hoop d).drv.outEn = true ∧
      ((t.hoop (other d)).src 161).live = true) ∧
  (∀ s g, Config.duplex s.a.part = true → s.duo.grace = some g → g + 2000 ≤ s.a.now → mayDriveAlone s.a = false → mayDriveAlone s.b = false →
    ∃ t, exec .gracePeriodEnd s = .next t ∧ ∀ h, (t.hoop h).dk.force = true) ∧
  (∀ s h x, s.here h x → Config.duplex s.a.part = true → x.pair.role = .offline → x.boot.fwRun = true → x.tmb.st ≠ .halted → x.pair.strap = false →
    (s.hoop (other h)).pair.token = false → x.boot.resetAt + 10000000000 ≤ x.now → ∃ t, exec (.tokenTimeout h) s = .next t ∧ (t.hoop h).pair.token = true ∧
      (t.hoop h).pair.role = .active ∧ (t.hoop h).drv.outEn = true ∧ t.duo.claimed = true) ∧
  (∀ s h x ms, s.here h x → s.quiet = true → Config.duplex s.a.part = true → x.pair.role = .resync → (s.hoop (other h)).pair.role = .active → x.tmb.st ≠ .halted →
    CompletesWith (.resyncComplete h ms) s h (fun y => y.pair.role = .standby ∧ y.thr = (s.hoop (other h)).thr ∧ y.cm = (s.hoop (other h)).cm ∧
      y.slice = (s.hoop (other h)).slice ∧ y.drv.heaters = (s.hoop (other h)).drv.heaters ∧ y.pair.catchup = [])) ∧
  (∀ s h c u, u = rejoinPeer h s → passes u h 0 0x53 c rejoinVerb = true → s.poised = true → Config.duplex s.a.part = true → reaches (s.hoop h) 0x53 = true →
    (s.hoop h).pair.role = .active → (s.hoop (other h)).pair.role = .monitor → rejoinOk (s.hoop (other h)) (s.hoop h) = true →
    ∃ t, exec (.rejoin h 0) s = .next t ∧ (t.hoop (other h)).pair.role = .resync ∧ (t.hoop (other h)).pair.sigSame = 0)

/-- Comparison of the hoops and debug halts (R265, R314, R317, R318, R333, R473): the health scores pass to the peer; patches that differ raise source
162 in one hoop; a digest without a match raises source 160 in the standby; a debug halt of the driving hoop holds the TEC outputs low, and they
restart when every core runs again. Forms that complete here, `exec` answering the next state given: debugHalt, debugResume, healthScore,
patchCompare, intakeTimeout. Rests on assumptions 34, 87 of the log, the model's choices. -/
def Obligations.PairWatchRows : Prop :=
  (∀ s, ∃ t, exec .healthScore s = .next t ∧ (∀ h, s.has h = true → (t.hoop h).pair.health = healthOf (s.hoop h)) ∧
    (Config.duplex s.a.part = true → ∀ h, (t.hoop h).pair.peerHealth = healthOf (s.hoop (other h)))) ∧
  (∀ s, Config.duplex s.a.part = true → s.a.boot.fwRun = true → s.b.boot.fwRun = true → ∃ t, exec .patchCompare s = .next t ∧
    (if samePatch s.a s.b then ∀ h, ((s.hoop h).src 162).agree = false → ((t.hoop h).src 162).live = false
      else ((t.hoop (patchLoser s)).src 162).live = true ∧ (t.hoop (patchLoser s)).pair.cmpMis = satInc (s.hoop (patchLoser s)).pair.cmpMis)) ∧
  (∀ s h x d, s.here h x → x.pair.role = .standby → x.pair.awaiting.find? (fun d => decide (d.sentAt + 50000 ≤ x.now)) = some d →
    CompletesWith (.intakeTimeout h) s h (fun y => (y.src 160).live = true ∧ y.pair.cmpMis = satInc x.pair.cmpMis)) ∧
  (∀ s h x core, s.here h x → core < 2 → x.boot.coresHalted.contains core = false → x.holds = true → CompletesWith (.debugHalt h core) s h (fun y =>
    y.tec.dbgHalt = true ∧ y.boot.coresHalted = x.boot.coresHalted ++ [core] ∧ ∀ z, (y.tec.zone z).running = false ∧ (y.tec.zone z).fwd = false ∧ (y.tec.zone z).rev = false)) ∧
  (∀ s h x core, s.here h x → core < 2 → x.boot.coresHalted.contains core = false → x.holds = false → x.pair.role = .standby →
    CompletesWith (.debugHalt h core) s h (fun y => (y.src 160).live = true ∧ y.boot.coresHalted = x.boot.coresHalted ++ [core] ∧ y.tec = x.tec)) ∧
  (∀ s h x, s.here h x → x.boot.coresHalted ≠ [] → CompletesWith (.debugResume h) s h (fun y => y.boot.coresHalted = [] ∧ y.tec.dbgHalt = false ∧
    (if x.tec.dbgHalt then mayDrive y.tec = true → ∀ z, (y.tec.zone z).restart = true else (x.src 160).agree = false → (y.src 160).live = false)))

/-- Diagnostic commands of ring 0 (R372, R373, R55, R57, R83, R150, R188, R292, R297, R299, R38, R87): each writes a response of whole records into
its buffer and changes nothing else; a REG_READ of BOB_UTIL takes a free value. Forms that complete here, `exec` answering the next state given:
regRead, samplerRead, journalRead, resultRead, deltaRead, patchRead, elementRead, commitList, historyRead. Rests on assumptions 4, 48, 118 of the log,
the model's choices. -/
def Obligations.DiagnosticReads : Prop :=
  (∀ s h c b x, passes s h 0 0x60 c (regReadVerb s.balls.pwrFailN) = true → x = s.hoop h → (ctxOf s h 0 c).tlv (if x.isB then 5 else 4) = some b →
    CompletesAs (.regRead h 0) s h { x with
      freeIx := x.freeIx + 1
      mbx := { x.mbx with responses := x.mbx.responses ++ [responseOf (x.nextCplSeq 0) x.isB b 4 ((List.range (field (paramOf c.bytes) 4 2)).map (fun i =>
        leBytes 4 (intRead x s.balls.pwrFailN (Config.freeValue x.freeIx) (field (paramOf c.bytes) 0 4 / 4 * 4 + 4 * i)).toNat))] } }) ∧
  (∀ s h c q, passes s h 0 0x61 c samplerReadVerb = true → (field (paramOf c.bytes) 0 1 = 2 → field (paramOf c.bytes) 1 2 < (s.hoop h).n) →
    (field (paramOf c.bytes) 0 1 = 0 ∨ field (paramOf c.bytes) 0 1 = 3 → field (paramOf c.bytes) 1 2 < (s.hoop h).nE) →
    q = samplerRecs (s.hoop h) (field (paramOf c.bytes) 0 1) (field (paramOf c.bytes) 1 2) (field (paramOf c.bytes) 3 1 == 1) (field (paramOf c.bytes) 4 1)
      (field (paramOf c.bytes) 5 1) → CompletesReading (.samplerRead h 0) s h 0 c q.1 q.2) ∧
  (∀ s h c, passes s h 0 0x62 c journalReadVerb = true → CompletesReading (.journalRead h 0) s h 0 c 64 ((List.range (field (paramOf c.bytes) 4 2)).filterMap (fun i =>
    match slotOf (s.hoop h).jnl (field (paramOf c.bytes) 0 4 + i) with
    | some k => journalSlot (s.hoop h).mram k
    | none => none))) ∧
  (∀ s h c, passes s h 0 0x63 c resultReadVerb = true → field (paramOf c.bytes) 0 2 + field (paramOf c.bytes) 2 2 ≤ Config.chans (s.hoop h).part →
    CompletesReading (.resultRead h 0) s h 0 c 8 ((List.range (field (paramOf c.bytes) 2 2)).map (fun i =>
      leBytes 4 (resultPair (s.hoop h) (field (paramOf c.bytes) 0 2 + i)).1.toNat ++ leBytes 4 (resultPair (s.hoop h) (field (paramOf c.bytes) 0 2 + i)).2.toNat))) ∧
  (∀ s h c b m x, passes s h 0 0x64 c deltaReadVerb = true → x = s.hoop h → findPending x 0 (field (paramOf c.bytes) 0 6) = some m →
    (ctxOf s h 0 c).tlv (if x.isB then 5 else 4) = some b → ((m.delta.map deltaBytes ++ m.chans.map (leBytes 2)).map List.length).sum ≤ field b 8 4 - 16 →
    CompletesAs (.deltaRead h 0) s h { x with mbx := { x.mbx with responses := x.mbx.responses ++ [{
      addr := BitVec.ofNat 64 (field b 0 8)
      bytes := leBytes 6 (x.nextCplSeq 0) ++ [if x.isB then 1 else 0, 0] ++ leBytes 4 (m.delta.length + m.chans.length) ++ leBytes 4 0
        ++ (m.delta.map deltaBytes ++ m.chans.map (leBytes 2)).flatten }] } }) ∧
  (∀ s h c, passes s h 0 0x65 c patchReadVerb = true → CompletesReading (.patchRead h 0) s h 0 c (if field (paramOf c.bytes) 0 1 = 0 then 4 else 16)
    ((List.range (field (paramOf c.bytes) 3 2)).map (fun i => if field (paramOf c.bytes) 0 1 = 0 then leBytes 4 (smGet {} (s.hoop h).tmb.micro (field (paramOf c.bytes) 1 2 + i)).data.toNat
      else leBytes 16 (smGet {} (s.hoop h).tmb.nano (field (paramOf c.bytes) 1 2 + i)).data.toNat))) ∧
  (∀ s h c, passes s h 0 0x66 c elementReadVerb = true → field (paramOf c.bytes) 0 2 + field (paramOf c.bytes) 2 2 ≤ (s.hoop h).nE →
    CompletesReading (.elementRead h 0) s h 0 c 2 ((List.range (field (paramOf c.bytes) 2 2)).map (fun i => leBytes 2 (elemStatus (s.hoop h) (field (paramOf c.bytes) 0 2 + i))))) ∧
  (∀ s h c, passes s h 0 0x67 c commitListVerb = true → CompletesReading (.commitList h 0) s h 0 c 12 ((s.hoop h).cm.pending.map (fun m =>
    leBytes 6 m.seq ++ leBytes 4 m.epoch ++ leBytes 2 m.delta.length))) ∧
  (∀ s h c, passes s h 0 0x68 c historyReadVerb = true → field (paramOf c.bytes) 0 1 = 1 → CompletesReading (.historyRead h 0) s h 0 c 2048
    (((s.hoop h).hist.counters.filter (fun e => decide (field (paramOf c.bytes) 1 6 ≤ e.1 ∧ e.1 < field (paramOf c.bytes) 1 6 + field (paramOf c.bytes) 7 4))).map (·.2))) ∧
  (∀ s h c, passes s h 0 0x68 c historyReadVerb = true → field (paramOf c.bytes) 0 1 = 2 → CompletesReading (.historyRead h 0) s h 0 c 64
    (((s.hoop h).hist.ledger.filter (fun e => decide (field (paramOf c.bytes) 1 6 ≤ e.1 ∧ e.1 < field (paramOf c.bytes) 1 6 + field (paramOf c.bytes) 7 4))).map (·.2))) ∧
  (∀ s h c, passes s h 0 0x68 c historyReadVerb = true → field (paramOf c.bytes) 0 1 = 0 →
    field (paramOf c.bytes) 11 2 + field (paramOf c.bytes) 13 2 ≤ Config.chans (s.hoop h).part → CompletesReading (.historyRead h 0) s h 0 c 32
    ((((s.hoop h).hist.summaries.filter (fun e => decide (field (paramOf c.bytes) 1 6 ≤ e.1 ∧ e.1 < field (paramOf c.bytes) 1 6 + field (paramOf c.bytes) 7 4))).map (fun e =>
      (List.range (field (paramOf c.bytes) 13 2)).map (fun i => (e.2.drop (32 * (field (paramOf c.bytes) 11 2 + i))).take 32))).flatten))

/-- Host registers and the SMBus (R9, R345, R349, R438, R474): a ring's bases change while it is disabled and only then, its vector control at any
time; the PPS limit and the MSI-X table take the word written; any other word, and an access of another size, is ignored; a block read returns the
word of its code, and an alert response the address, while firmware runs. Forms that complete here, `exec` answering the next state given:
smbusBlockRead, alertResponse, registerWrite. Rests on assumptions 35, 78, 116, 124 of the log, the model's choices. -/
def Obligations.RegisterWrites : Prop :=
  (∀ s h x r v, s.here h x → r < 16 → (x.ring r).en = false → CompletesWith (.registerWrite h (r * 0x1000) 4 v) s h (fun y =>
    y.mail r = { (x.ring r).mail with cmdBase := BitVec.ofNat 64 ((x.ring r).cmdBase.toNat / 2 ^ 32 * 2 ^ 32 + v.toNat / 64 * 64) })) ∧
  (∀ s h x r v, s.here h x → r < 16 → (x.ring r).en = false → v.toNat % 16 ≤ 8 → CompletesWith (.registerWrite h (r * 0x1000 + 8) 4 v) s h (fun y =>
    y.mail r = { (x.ring r).mail with cmdSize := BitVec.ofNat 4 v.toNat })) ∧
  (∀ s h x r o v, s.here h x → r < 16 → (x.ring r).en = true → o < 0x20 → o % 4 = 0 → CompletesWith (.registerWrite h (r * 0x1000 + o) 4 v) s h (fun y =>
    y.mail r = (x.ring r).mail)) ∧
  (∀ s h x r v, s.here h x → r < 16 → CompletesWith (.registerWrite h (r * 0x1000 + 0x3C) 4 v) s h (fun y =>
    y.mail r = { (x.ring r).mail with intr := v &&& 0xFFFFFF03 })) ∧
  (∀ s h x v, s.here h x → CompletesAs (.registerWrite h 0x30090 4 v) s h { x with tb := { x.tb with ppsInLimit := v } }) ∧
  (∀ s h x o v, s.here h x → o < 0x10000 → o % 4 = 0 → CompletesAs (.registerWrite h (0x80000 + o) 4 v) s h { x with pmc := pmcWrite x.part o v x.pmc }) ∧
  (∀ s h x o v, s.here h x → 0x10000 ≤ o → o ≠ 0x30090 → o / 0x10000 ≠ 8 → o / 0x10000 ≠ 15 → CompletesAs (.registerWrite h o 4 v) s h x) ∧
  (∀ s h x w v, s.here h x → w < 256 → CompletesWith (.registerWrite h (0xF0000 + 4 * w) 4 v) s h (fun y =>
    (w % 4 = 2 → msixRead y w = v) ∧ ∀ u, u ≠ w → msixRead y u = msixRead x u)) ∧
  (∀ s h o size v, (size ≠ 4 ∨ o % 4 ≠ 0) → exec (.registerWrite h o size v) s = .next s) ∧
  (∀ s h x cmd, s.here h x → x.boot.fwRun = true → CompletesAs (.smbusBlockRead h cmd) s h { x with bus := bmcWord x (s.hoop (other h)) cmd.toNat }) ∧
  (∀ s h x, s.here h x → x.boot.fwRun = true → x.fc.hold = true → CompletesAs (.alertResponse h) s h { x with bus := if x.isB then 0x4D else 0x4C })

/-- Power and resets of hoops (R11, R296, R439, R441, R442, R444, R454, R458): a rail under 90 % resets its hoop, and MOD_RST the module: MRAM and
keeper latches stay; a release leaves every rail within tolerance; an excursion and a return move its source; a power failure darks every hoop; a
core's watchdog raises source 11 until every core has resumed. Forms that complete here, `exec` answering the next state given: powerOnReset,
porRelease, modRst, railExcursion, railReturn, pwrFailAssert, pwrFailRelease, vkeepLoss, watchdogExpiry, coreResume. Rests on assumptions 4, 71, 104,
105 of the log, the model's choices. -/
def Obligations.PowerRows : Prop :=
  (∀ s h x rail mv, s.here h x → rail < 9 → railLow rail mv = true → x.boot.por = false → ∃ t, exec (.powerOnReset h rail mv) s = .next t ∧
    (t.hoop h).boot.por = true ∧ (t.hoop h).boot.fwRun = false ∧ (t.hoop h).tmb.st = .notStarted ∧ (t.hoop h).tec = {} ∧ (t.hoop h).ths = {} ∧ (t.hoop h).tb = {} ∧
    (t.hoop h).mram = x.mram ∧ (t.hoop h).settings = x.settings ∧ (t.hoop h).dk.codes = x.dk.codes ∧ (t.hoop h).dk.armed = x.dk.armed ∧
    (t.hoop h).wlm.bootgen = (if Config.duplex s.a.part = true ∧ (s.hoop (other h)).boot.por = false then x.wlm.bootgen else x.wlm.bootgen + 1)) ∧
  (∀ s, ∃ t, exec .modRst s = .next t ∧ t.balls.modRstN = false ∧ t.balls.darkN = false ∧ t.duo = {} ∧ ∀ h, s.has h = true → (t.hoop h).boot.por = true ∧
    (t.hoop h).boot.causeMod = true ∧ (t.hoop h).boot.causePor = false ∧ (t.hoop h).thr = [] ∧ (t.hoop h).cm = {} ∧ (t.hoop h).dk.force = false ∧
    (t.hoop h).mram = (s.hoop h).mram ∧ (t.hoop h).dk.codes = (s.hoop h).dk.codes ∧ (t.hoop h).wlm.bootgen = (s.hoop h).wlm.bootgen + 1) ∧
  (∀ s h x, s.here h x → x.boot.por = true → ∃ t, exec (.porRelease h) s = .next t ∧ t.balls.modRstN = true ∧ (t.hoop h).boot.por = false ∧
    (t.hoop h).boot.resetAt = x.now ∧ (t.hoop h).boot.spiOwn = true ∧ (∀ i, i < 9 → ((t.hoop h).rail i).ok = true) ∧
    (x.boot.moduleReset = true → Config.duplex x.part = true → (t.hoop h).pair.strap = (s.balls.strapPrimary != x.isB))) ∧
  (∀ s h x rail mv, s.here h x → rail < 9 → railIn rail mv = false → x.boot.por = false → (x.rail rail).ok = true → CompletesWith (.railExcursion h rail mv) s h (fun y =>
    (y.rail rail).ok = false ∧ (y.rail rail).mv = BitVec.ofNat 16 mv ∧ y.pwr.excur = satInc x.pwr.excur ∧ (y.src (railSrc rail)).live = true)) ∧
  (∀ s h x rail mv, s.here h x → rail < 9 → railIn rail mv = true → x.boot.por = false → (x.rail rail).ok = false →
    (∀ i, i < 9 → i ≠ rail → railSrc i = railSrc rail → (x.rail i).ok = true) → CompletesWith (.railReturn h rail mv) s h (fun y =>
    (y.rail rail).ok = true ∧ (y.rail rail).mv = BitVec.ofNat 16 mv ∧ ((x.src (railSrc rail)).agree = false → (y.src (railSrc rail)).live = false))) ∧
  (∀ s h x, s.here h x → s.balls.pwrFailN = true → x.boot.por = false → ∃ t, exec .pwrFailAssert s = .next t ∧ t.balls.pwrFailN = false ∧ t.balls.darkN = false ∧
    ((t.hoop h).src 8).live = true ∧ (∀ k, s.has k = true → (t.hoop k).dk.force = true) ∧ (x.ths.mramOk = true → (t.hoop h).jnl.final = true)) ∧
  (∀ s h x, s.here h x → s.balls.pwrFailN = false → x.boot.por = false → ∃ t, exec .pwrFailRelease s = .next t ∧ t.balls.pwrFailN = true ∧
    ((x.src 8).agree = false → ((t.hoop h).src 8).live = false)) ∧
  (∀ s h x, s.here h x → CompletesWith (.vkeepLoss h) s h (fun y => y.dk.armed = false ∧ y.dk.codes = [] ∧ (y.rail 8).mv = 0)) ∧
  (∀ s h x core cut, s.here h x → x.boot.fwRun = true → CompletesWith (.watchdogExpiry h core cut) s h (fun y =>
    y.boot.causeWd = true ∧ y.boot.coresReset = insSorted core x.boot.coresReset ∧ (y.src 11).live = true)) ∧
  (∀ s h x core, s.here h x → x.boot.coresReset = [core] → CompletesWith (.coreResume h core) s h (fun y => y.boot.coresReset = [] ∧ ((x.src 11).agree = false → (y.src 11).live = false)))

/-- The PCIe endpoint and the standby's intake (R314, R443, R455): a reset of the endpoint disables every ring, discards what was posted or read,
keeps its binding, meter and key, and raises source 197 until the link is up; D3hot is noted; a standby completes a command with the holder's SEQ and
stamp where its own answer agrees, and raises source 160 where it does not. Forms that complete here, `exec` answering the next state given:
pcieReset, intakeDigest, pcieLinkUp, powerManagementState. Rests on assumptions 77, 80, 90 of the log, the model's choices. -/
def Obligations.EndpointRows : Prop :=
  (∀ s h x cause cut r, s.here h x → x.boot.por = false → r < 16 → CompletesWith (.pcieReset h cause cut) s h (fun y => y.boot.causePcie = true ∧ y.pwr.linkUp = false ∧
    (y.src 197).live = true ∧ (y.ring r).en = false ∧ (y.ring r).read = [] ∧ (y.ring r).posted = [] ∧ (y.ring r).bound = (x.ring r).bound ∧
    (y.ring r).tenant = (x.ring r).tenant ∧ (y.ring r).tc = (x.ring r).tc ∧ (y.ring r).key = (x.ring r).key ∧ (y.ring r).cplSeq = (x.ring r).cplSeq)) ∧
  (∀ s h x rate width, s.here h x → x.boot.por = false → CompletesWith (.pcieLinkUp h rate width) s h (fun y =>
    y.pwr = { x.pwr with linkUp := true, linkRate := rate, linkWidth := width } ∧ ((x.src 197).agree = false → (y.src 197).live = false))) ∧
  (∀ s h x d3, s.here h x → CompletesWith (.powerManagementState h d3) s h (fun y => y.pwr = { x.pwr with d3 := d3 })) ∧
  (∀ s h x d c rest, s.here h x → Config.duplex s.a.part = true → x.pair.role = .standby → x.pair.awaiting = d :: rest → d.ring < 16 → matchFront x d = some c →
    (x.ring d.ring).read = [c] → (x.ring d.ring).posted = [] → c.refusal = none → c.aborted = false → (hdrOf c.bytes).opcode = 0 → answers x d.ring c = true →
    fieldsOk (breakRun d.ring 0 x) d.ring c.bytes = true → d.status = 0 → d.epochSec = 0 → d.epochNs = 0 → 1 ≤ d.seq → d.seq < 2 ^ 48 →
    CompletesWith (.intakeDigest h) s h (fun y => (y.ring d.ring).read = [] ∧ ∃ cp, (y.ring d.ring).cpls = (x.ring d.ring).cpls ++ [cp] ∧ cp.seq = d.seq ∧ cp.stamp = d.stamp ∧
      cp.status.toNat % 128 = 0 ∧ cp.tag = (hdrOf c.bytes).tag)) ∧
  (∀ s h x d c rest, s.here h x → Config.duplex s.a.part = true → x.pair.role = .standby → x.pair.awaiting = d :: rest → matchFront x d = some c →
    c.refusal = some 4 → d.status ≠ 7 → d.status ≠ 4 → CompletesWith (.intakeDigest h) s h (fun y => (y.src 160).live = true ∧ y.pair.cmpMis = satInc x.pair.cmpMis))

/-- Start-up (R448 to R453, R150, R288): an image that passes starts the firmware and locks the patch, and two that fail hold the hoop; memory that
trains is sized, and a sampler header that fails its check holds the hoop; the slice is built and the token claimed after the self-test; the first
writes done, the TEC starts; ring 0 opens once temperature and time allow it. Forms that complete here, `exec` answering the next state given:
imageAuthenticated, lpddr4xTrained, monitorSelfTestDone, firstWriteDone, ring0Open. Rests on assumptions 107, 109, 110, 111, 112 of the log, the
model's choices. -/
def Obligations.StartupRows : Prop :=
  (∀ s h x fail1 img, s.here h x → x.boot.por = false → x.boot.stage = .loader → slotCause x 0 img = 0 → CompletesWith (.imageAuthenticated h 0 fail1 img) s h (fun y =>
    y.boot.fwRun = true ∧ y.boot.slot = false ∧ y.boot.fwId = img.version ∧ y.boot.svn = img.svn ∧ y.boot.spiOwn = false ∧ y.boot.stage = .fwStart ∧ y.tmb.patchLock = true ∧
    y.tmb.patchId = img.patchId ∧ y.tmb.patchCrc = patchCrcOf img ∧ y.tmb.st = .idle ∧ (Config.duplex x.part = false → y.mon.planeWr = true ∧ y.drv.outEn = true))) ∧
  (∀ s h x fail0 fail1 img, s.here h x → x.boot.por = false → x.boot.stage = .loader → slotCause x fail0 img ≠ 0 → slotCause x fail1 img ≠ 0 →
    CompletesWith (.imageAuthenticated h fail0 fail1 img) s h (fun y => y.boot.fwRun = false ∧ y.boot.stage = .held ∧ y.boot.failCause = slotCause x fail1 img ∧
      y.boot.fail0 = slotCause x fail0 img ∧ y.drv.outEn = false)) ∧
  (∀ s h x gib, s.here h x → x.boot.stage = .fwStart → (gib = 2 ∨ gib = 4 ∨ gib = 8) →
    CompletesWith (.lpddr4xTrained h gib true) s h (fun y => y.boot.ddrGib = gib ∧ y.boot.lattice = Config.headerDie (headerBytes x.mram) ∧
      (if Config.headerOk (headerBytes x.mram) then y.boot.stage = .memory
        else y.boot.stage = .held ∧ y.boot.failCause = 9 ∧ y.boot.fwRun = false ∧ (y.src 18).live = true))) ∧
  (∀ s h x gib, s.here h x → x.boot.stage = .fwStart → CompletesWith (.lpddr4xTrained h gib false) s h (fun y =>
    y.boot.fwRun = false ∧ y.boot.failCause = 8 ∧ y.boot.stage = .held ∧ y.drv.outEn = false)) ∧
  (∀ s h x lost, s.here h x → x.boot.stage = .memory → x.slice.built = false → CompletesWith (.monitorSelfTestDone h lost) s h (fun y =>
    y.slice.built = true ∧ y.slice.temp = max 2000 x.tec.eff.toNat ∧ (∀ c ∈ lost, (y.chan c).lost = true) ∧
    (∀ m sp, Config.duplex s.a.part = false → x.keeperImg = some (m, sp) → y.dk.codes = m ∧ y.dk.sp = sp ∧ y.dk.armed = true))) ∧
  (∀ s h x lost, s.here h x → Config.duplex s.a.part = true → x.boot.stage = .memory → x.pair.strap = true → (s.hoop (other h)).pair.token = false →
    x.tmb.st ≠ .halted → ∃ t, exec (.monitorSelfTestDone h lost) s = .next t ∧ (t.hoop h).pair.token = true ∧ (t.hoop h).pair.role = .active ∧ t.duo.claimed = true) ∧
  (∀ s h x, s.here h x → x.boot.stage = .lattice → x.pair.role = .active → x.drv.nFirstDone = false → (∀ t, t < x.nT → (x.tile t).written = true) →
    (∀ e, e < x.nE → (x.heater e).reached = true) →
    CompletesWith (.firstWriteDone h) s h (fun y => y.drv.nFirstDone = true ∧ y.drv.hFirstDone = true ∧ y.tec.en = true ∧ y.boot.tecEnabledAt = some x.now)) ∧
  (∀ s h x a b, s.here h x → x.boot.stage = .wait → x.pair.role = .active → tempCond a x = true → timeCond b x = true → CompletesWith (.ring0Open h a b) s h (fun y =>
    (y.ring 0).en = true ∧ y.boot.stage = .opened ∧ y.boot.openMs = x.uptimeMs ∧ y.tb.stepClosed = true))

/-- Windows and needles (R96, R164, R165, R168 to R170, R288): the refresh origin starts frame 0; a refresh slot keeps its place in the schedule,
takes a waiting latch update at its boundary and opens the window; a dither window does so where none is open; a slewing needle steps toward its code;
a window's end closes it, and a stitch that fails its check is masked and UNUSABLE; a deglitched output is let go. Forms that complete here, `exec`
answering the next state given: refreshOrigin, refreshSlot, ditherWindow, needleSlewStep, windowEnd, deglitchRelease. Rests on assumption 31 of the
log, the model's choices. -/
def Obligations.WindowRows : Prop :=
  (∀ s h x, s.here h x → cmpDue x 8 = true → CompletesWith (.refreshOrigin h) s h (fun y => y.drv.refRun = true ∧ y.drv.refOrigin = x.now ∧ y.drv.refSlot = 0 ∧
    y.drv.refFrame = 0 ∧ (y.tb.cmp 8).armed = false ∧ (y.tb.cmp 8).fired = true)) ∧
  (∀ s h x t fails, s.here h x → x.drv.refRun = true → t < 160 → CompletesWith (.refreshSlot h t fails) s h (fun y =>
    y.drv.refSlot = BitVec.ofNat 8 t ∧ y.drv.refFrame = BitVec.ofNat 24 ((x.now - x.drv.refOrigin) / 100000) ∧
    (∀ m sp, x.dk.pend = some (m, sp) → x.dk.force = false → y.dk.codes = m ∧ y.dk.sp = sp ∧ y.dk.crc = keeperCrc x m ∧ y.dk.pend = none) ∧
    (s.quiet = true → inService s = false → t < x.nT → (x.tile t).driven = true → (x.tile t).win = none → x.pair.resume = none → x.pair.catchup = [] → fails = [] →
      integrityFails x t = [] →
      (y.tile t).win = some .refresh ∧ (y.tile t).winStart = x.now) ∧
    (t < x.nT → (x.tile t).driven = true → (x.tile t).win.isSome = true → x.pair.resume = none → x.pair.catchup = [] → y.drv.refSkip = satInc x.drv.refSkip))) ∧
  (∀ s h x t, s.here h x → x.drv.refRun = true → (x.tile t).dith = true → (x.tile t).driven = true → t < x.nT → CompletesWith (.ditherWindow h t) s h (fun y =>
    if (x.tile t).win.isSome then y.drv.refSkip = satInc x.drv.refSkip
    else s.quiet = true → (y.tile t).win = some .dither ∧ (y.tile t).winStart = x.now)) ∧
  (∀ s h x t e goal, s.here h x → s.quiet = true → e ∈ tileElems t → (x.needle e).ramp = true → goal = (x.activeCode e).toNat → CompletesWith (.needleSlewStep h t) s h (fun y =>
    (y.needle e).reg.toNat = (if (x.needle e).reg.toNat < goal then min goal ((x.needle e).reg.toNat + (x.tile t).nStep.toNat)
      else max goal ((x.needle e).reg.toNat - (x.tile t).nStep.toNat)) ∧ (y.needle e).ramp = ((y.needle e).reg.toNat != goal))) ∧
  (∀ s h x t k, s.here h x → (x.tile t).win = some k → CompletesWith (.windowEnd h t []) s h (fun y => (s.quiet = true → (y.tile t).win = none) ∧
    (x.pair.proving = true → t < 152 → y.pair.tilesProven.getLsbD t = true))) ∧
  (∀ s h x t e k, s.here h x → (x.tile t).win = some k → x.holds = true → x.pair.proving = false → e / 32 = t → e < x.nS → (x.needle e).masked = false →
    CompletesWith (.windowEnd h t [e]) s h (fun y => (y.elem e).unusable = true ∧ (s.quiet = true → (y.needle e).masked = true) ∧ y.drv.chkPost = satInc x.drv.chkPost ∧
      y.drv.chkLast = BitVec.ofNat 32 e ∧ y.drv.chkTime = x.stamp)) ∧
  (∀ s h x e, s.here h x → CompletesWith (.deglitchRelease h e true) s h (fun y => y.heater e = { x.heater e with track := false })) ∧
  (∀ s h x e, s.here h x → s.quiet = true → CompletesWith (.deglitchRelease h e false) s h (fun y => y.needle e = { x.needle e with track := false }))

/-- Heaters and tones (R166, R170 to R173, R175): a heater in SLEW mode steps toward its target; the end of a range hold switches the range and
converts the code; a compliance failure counts and marks a stitch UNUSABLE, or raises source 37 for an eyelet; the sum is taken, and raises source 38
or clears it; each enabled tone advances by its tuning word. Forms that complete here, `exec` answering the next state given: heaterSlewStep,
rangeHoldEnd, heaterComplianceFail, heaterSumOver, htrSumUpdate, phaseAccumulatorTick. Rests on assumption 31 of the log, the model's choices. -/
def Obligations.HeaterRows : Prop :=
  (∀ s h x t e, s.here h x → (x.tile t).hSlew = true → t < x.nT → e ∈ tileElems t → (x.heater e).hold = false → (x.heater e).range = (x.heater e).tgtRange →
    CompletesWith (.heaterSlewStep h t) s h (fun y => (y.heater e).out.toNat = if (x.heater e).out.toNat < (x.heater e).tgt.toNat
      then min (x.heater e).tgt.toNat ((x.heater e).out.toNat + (x.tile t).hStep.toNat) else max (x.heater e).tgt.toNat ((x.heater e).out.toNat - (x.tile t).hStep.toNat))) ∧
  (∀ s h x e conv, s.here h x → (x.heater e).hold = true → (x.heater e).range ≠ (x.heater e).tgtRange →
    conv = BitVec.ofNat 12 (if (x.heater e).range then min 4095 (4 * (x.heater e).out.toNat) else ((x.heater e).out.toNat + 2) / 4) →
    CompletesWith (.rangeHoldEnd h e) s h (fun y => (y.heater e).range = (x.heater e).tgtRange ∧ (y.heater e).hold = false ∧
      (y.heater e).out = (if (x.tile (e / 32)).hSlew then conv else (x.heater e).tgt) ∧ y.drv.rangeChg = satInc x.drv.rangeChg)) ∧
  (∀ s h x e, s.here h x → (x.heater e).out ≠ 0 → e < x.nE → x.pair.proving = false → CompletesWith (.heaterComplianceFail h e) s h (fun y =>
    (y.heater e).compl = true ∧ y.drv.complCnt = satInc x.drv.complCnt ∧ y.drv.complLast = BitVec.ofNat 13 e ∧
    (if e < x.nS then (y.elem e).unusable = true ∧ (y.src 36).live = true else (y.src 37).live = true))) ∧
  (∀ s h x, s.here h x → overCeil x = true → CompletesWith (.heaterSumOver h) s h (fun y => (y.src 38).live = true)) ∧
  (∀ s h x, s.here h x → CompletesWith (.htrSumUpdate h) s h (fun y =>
    y.drv.hSum = ((x.drv.heaters.map (fun e => heaterConv x e.1 * (if e.2.range then 8000 else 2000))).sum) / 4096 ∧
    (overCeil y = false → ((x.src 38).agree = false → (y.src 38).live = false)))) ∧
  (∀ s h x k, s.here h x → CompletesWith (.phaseAccumulatorTick h) s h (fun y => y.tone k = { x.tone k with
    acc := if (x.tone k).en then (x.tone k).acc + (x.tone k).ftw else (x.tone k).acc }))

/-- Links and leaders (R392, R398): HELLO goes out on every enabled link whose queue has room; one that arrives brings its link up with the neighbour
it names; three missed or a lane without lock take an enabled link down with source 192 + link; the leader is computed again each time. Forms that
complete here, `exec` answering the next state given: wlmCfg, helloSend, hello, helloTimeout, laneLockLoss. Rests on assumptions 24, 32, 92 of the
log, the model's choices. -/
def Obligations.LinkRows : Prop :=
  (∀ s h x k, s.here h x → s.poised = true → x.boot.fwRun = true → k < 4 → x.wlm.linkEn.getLsbD k = true → roomFor x k 40 = true →
    CompletesWith (.helloSend h) s h (fun y => ∃ q, sends y k (frameBytes 0 x.wlm.addr.toNat 0 0 x.wlmOrigin q (helloPayload x)))) ∧
  (∀ s h x k b, s.here h x → s.poised = true → heard x k b 0 = true → frDst b = 0 → CompletesWith (.hello h k b) s h (fun y =>
    (y.link k).up = true ∧ (y.link k).nbrId = BitVec.ofNat 64 (field (frPayload b) 0 8) ∧ (y.link k).leaderId = BitVec.ofNat 64 (field (frPayload b) 12 8) ∧
    (y.link k).leaderDist = field (frPayload b) 20 1 ∧ (y.link k).lastHello = x.now ∧
    (y.wlm.leader, y.wlm.leaderDist) = bestLeader y ∧ y.wlm.isLeader = (y.wlm.leader == x.wlm.id))) ∧
  (∀ s h x k, s.here h x → s.poised = true → k < 4 → (x.link k).up = true → (x.link k).lastHello + 3000000 ≤ x.now → x.wlm.linkEn.getLsbD k = true →
    CompletesWith (.helloTimeout h k) s h (fun y => (y.link k).up = false ∧ (y.src (192 + k)).live = true ∧ (y.wlm.leader, y.wlm.leaderDist) = bestLeader y)) ∧
  (∀ s h x k lane, s.here h x → s.poised = true → k < 4 → lane < 2 → (x.link k).up = true → x.wlm.linkEn.getLsbD k = true →
    CompletesWith (.laneLockLoss h k lane) s h (fun y => (y.link k).up = false ∧ (if lane = 0 then (y.link k).lock0 else (y.link k).lock1) = false ∧
      (y.link k).aligned = false ∧ (y.src (192 + k)).live = true ∧ (y.wlm.leader, y.wlm.leaderDist) = bestLeader y)) ∧
  (∀ s h c y, passes s h 0 0x32 c wlmCfgVerb = true → s.poised = true → y = (s.hoop h).wlm → CompletesWith (.wlmCfg h 0) s h (fun z =>
    z.wlm.linkEn = BitVec.ofNat 4 (field (paramOf c.bytes) 0 1 / (if (s.hoop h).isB then 16 else 1)) ∧ z.wlm.pref = BitVec.ofNat 12 (field (paramOf c.bytes) 1 2) ∧
    z.wlm.telInterval = BitVec.ofNat 16 (field (paramOf c.bytes) 3 2) ∧ z.wlm.tcLimit = BitVec.ofNat 16 (field (paramOf c.bytes) 5 2) ∧
    (0x32, 0, paramOf c.bytes) ∈ z.settings ∧ z.wlm.table = y.table ∧ z.wlm.addr = y.addr ∧
    ∀ l < 4, if z.wlm.linkEn.getLsbD l then z.link l = (s.hoop h).link l else (z.link l).up = false ∧ (((s.hoop h).src (192 + l)).agree = false → (z.src (192 + l)).live = false)))

/-- Routing (R400 to R402): an advertised entry that is new, comes from the port in use, or is nearer is taken one hop farther; a module whose own
address is advertised with a lower ID gives the address up, in both hoops of a pair; the whole table goes out on every up link; a triggered update
tells a link of what changed, once a millisecond at most; an entry 30 ms old becomes unreachable, and 30 ms later it is gone. Forms that complete
here, `exec` answering the next state given: route, routeAdvertise, triggeredUpdate, routeExpiry. Rests on assumptions 83, 93 of the log, the model's
choices. -/
def Obligations.RoutingRows : Prop :=
  (∀ s h x k b p a, s.here h x → heard x k b 1 = true → frDst b = 0 → p = frPayload b → field p 0 1 = 1 → 20 ≤ p.length → a = field p 4 2 → 1 ≤ a → a < 4095 →
    a ≠ x.wlm.addr.toNat → field p 6 1 ≤ 14 → ((x.rt a).valid = false ∨ (x.rt a).port = portOf x k ∨ field p 6 1 + 1 < (x.rt a).dist) →
    CompletesWith (.route h k b) s h (fun y => (y.rt a).valid = true ∧ (y.rt a).dist = field p 6 1 + 1 ∧ (y.rt a).port = portOf x k ∧ (y.rt a).at_ = x.now ∧
      (y.rt a).bootgen = BitVec.ofNat 16 (field p 8 2) ∧ (y.rt a).id = BitVec.ofNat 64 (field p 12 8) ∧ ((x.rt a).valid = false → (y.rt a).changed = [0, 1, 2, 3]))) ∧
  (∀ s h x k b p, s.here h x → heard x k b 1 = true → frDst b = 0 → p = frPayload b → field p 0 1 = 1 → 20 ≤ p.length → field p 4 2 = x.wlm.addr.toNat →
    1 ≤ field p 4 2 → field p 4 2 < 4095 → field p 12 8 < x.wlm.id.toNat → ∃ t, exec (.route h k b) s = .next t ∧ (t.hoop h).wlm.conflict = true ∧
      (t.hoop h).wlm.addr = 0 ∧ ((t.hoop h).rt (field p 4 2)).dist = 16 ∧ (s.has (other h) = true → (t.hoop (other h)).wlm.addr = 0)) ∧
  (∀ s h x k, s.here h x → x.boot.fwRun = true → k ∈ x.upLinks → CompletesWith (.routeAdvertise h) s h (fun y => ∀ a, k ∉ (y.rt a).changed)) ∧
  (∀ s h x k es, s.here h x → s.poised = true → x.boot.fwRun = true → k ∈ x.upLinks → es = x.wlm.table.filter (fun q => q.2.valid) → 1 ≤ es.length → es.length ≤ 30 →
    roomFor x k (20 + 16 * es.length) = true → CompletesWith (.routeAdvertise h) s h (fun y =>
      ∃ q, sends y k (frameBytes 0 x.wlm.addr.toNat 0 1 x.wlmOrigin q (leBytes 4 es.length ++ (es.map (rtBytes x k)).flatten)))) ∧
  (∀ s h x k e, s.here h x → s.poised = true → (x.link k).up = true → e ∈ x.wlm.table → e.2.valid = true → k ∈ e.2.changed →
    (∀ t, (x.link k).lastTrig = some t → t + 1000000 ≤ x.now) →
    CompletesWith (.triggeredUpdate h k) s h (fun y => (y.link k).lastTrig = some x.now ∧ ∀ a, k ∉ (y.rt a).changed)) ∧
  (∀ s h x k t, s.here h x → (x.link k).lastTrig = some t → x.now < t + 1000000 → CompletesAs (.triggeredUpdate h k) s h x) ∧
  (∀ s h x a, s.here h x → (x.rt a).valid = true → (x.rt a).dist ≠ 0 → (x.rt a).dist ≠ 16 → (x.rt a).at_ + 30000000 ≤ x.now →
    CompletesWith (.routeExpiry h a) s h (fun y => (y.rt a).valid = true ∧ (y.rt a).dist = 16 ∧ (y.rt a).deadAt = some x.now ∧ (y.rt a).changed = [0, 1, 2, 3])) ∧
  (∀ s h x a t, s.here h x → (x.rt a).valid = true → (x.rt a).dist = 16 → (x.rt a).deadAt = some t → t + 30000000 ≤ x.now →
    CompletesWith (.routeExpiry h a) s h (fun y => (y.rt a).valid = false))

/-- Addresses (R399): a leader without an address grants one to itself, another module asks on its leader's port; the leader answers a request by a
broadcast grant of the address preferred, or the lowest that is free, and a module on the way passes it on with a TTL one less; the module that a
grant names takes the address. Forms that complete here, `exec` answering the next state given: addrReqSend, addrReq, addrGrant. Rests on assumptions
24, 26, 98 of the log, the model's choices. -/
def Obligations.AddressRows : Prop :=
  (∀ s h x a, s.here h x → x.boot.fwRun = true → x.wlm.addr = 0 → x.wlm.isLeader = true → s.holder = some h → grantFor x x.wlm.id (preferred x) = some a →
    CompletesWith (.addrReqSend h) s h (fun y => y.wlm.addr = BitVec.ofNat 12 a ∧ (x.mramFree = true → y.wlm.lastAddr = BitVec.ofNat 12 a) ∧ (y.rt a).valid = true ∧ (y.rt a).dist = 0 ∧
      (y.rt a).id = x.wlm.id)) ∧
  (∀ s h x k, s.here h x → s.poised = true → x.boot.fwRun = true → x.wlm.addr = 0 → x.wlm.isLeader = false → leaderLink x = some k → roomFor x k 28 = true →
    CompletesWith (.addrReqSend h) s h (fun y => sends y k (frameBytes 0 0 15 2 x.wlmOrigin (nextSeq x.wlm.seq)
      (leBytes 8 x.wlm.id.toNat ++ leBytes 2 (preferred x) ++ leBytes 2 x.wlm.bootgen.toNat)))) ∧
  (∀ s h x k b p a l, s.here h x → s.poised = true → heard x k b 2 = true → x.wlm.isLeader = true → x.wlm.addr ≠ 0 → s.holder = some h → p = frPayload b →
    grantFor x (BitVec.ofNat 64 (field p 0 8)) (field p 8 2) = some a → l ∈ x.upLinks → roomFor x l 28 = true →
    CompletesWith (.addrReq h k b) s h (fun y => sends y l (nextFrame x bcast 3
      (leBytes 8 (BitVec.ofNat 64 (field p 0 8)).toNat ++ leBytes 2 a ++ leBytes 2 (field p 10 2))))) ∧
  (∀ s h x k b l, s.here h x → s.poised = true → heard x k b 2 = true → x.wlm.isLeader = false → 1 < frTtl b → leaderLink x = some l → roomFor x l b.length = true →
    CompletesWith (.addrReq h k b) s h (fun y => sends y l (frameBytes 0 0 (frTtl b - 1) 2 (BitVec.ofNat 16 (frOrigin b)) (frSeq b) (frPayload b)))) ∧
  (∀ s h x k b m a, s.here h x → arrives x k b 3 bcast m = true → field (frPayload b) 0 8 = x.wlm.id.toNat → a = field (frPayload b) 8 2 → 1 ≤ a → a ≤ 4094 →
    CompletesWith (.addrGrant h k b) s h (fun y => y.wlm.addr = BitVec.ofNat 12 a ∧ (x.mramFree = true → y.wlm.lastAddr = BitVec.ofNat 12 a) ∧ (y.rt a).valid = true ∧ (y.rt a).dist = 0 ∧
      (y.rt a).id = x.wlm.id)) ∧
  (∀ x id pref, 1 ≤ pref → pref ≤ 4094 → addrFree x id pref = true → grantFor x id pref = some pref) ∧
  (∀ x id pref a, grantFor x id pref = some a → 1 ≤ a ∧ a ≤ 4094 ∧ addrFree x id a = true ∧ (a = pref ∨ ∀ c, 1 ≤ c → c < a → addrFree x id c = false))

/-- Notices, time checks and telemetry (R415 to R419): a notice goes out twice more at 1 ms; one that names the key of a live thread darks it by
source 196; a time check is asked, answered and measured as R417 says; telemetry goes to the leader, which raises an event for it, and a hand-over
notice raises one. Forms that complete here, `exec` answering the next state given: darkNoticeRepeat, darkNotice, timeCheckSend, timeCheck,
telemetrySend, telemetry, handoverNotice. Rests on assumptions 27, 94 of the log, the model's choices. -/
def Obligations.NoticeRows : Prop :=
  (∀ s h x, s.here h x → s.quiet = true → x.tmb.st ≠ .halted → CompletesWith (.darkNoticeRepeat h) s h (fun y =>
    y.wlm.notices = x.wlm.notices.filterMap (fun n => if x.now < n.sentAt + 1000000 then some n
      else if n.left ≤ 1 then none else some { n with left := n.left - 1, sentAt := x.now }))) ∧
  (∀ s h x n a k, s.here h x → s.poised = true → x.tmb.st ≠ .halted → x.wlm.notices = [n] → n.sentAt + 1000000 ≤ x.now → noticeTo n.key x = [a] → a < bcast →
    x.routeTo a = some k → roomFor x k 32 = true → CompletesWith (.darkNoticeRepeat h) s h (fun y =>
      sends y k (nextFrame x a 9 (noticePayload n.key n.inPort n.cause)) ∧ y.wlm.noticeTx = satInc x.wlm.noticeTx)) ∧
  (∀ s h x k b m, s.here h x → delivered x k b 9 m = true → CompletesWith (.darkNotice h k b) s h (fun y => y.wlm.noticeRx = satInc x.wlm.noticeRx)) ∧
  (∀ s h x k b m i q p, s.here h x → s.quiet = true → delivered x k b 9 m = true → (i, q) ∈ x.wlm.chains → i < x.n → (x.thread i).st.live = true →
    p = frPayload b → q.initiator = field p 0 2 → q.fcid = field p 2 6 → q.chain = field p 8 2 → (x.src 196).live = false →
    CompletesWith (.darkNotice h k b) s h (fun y => (y.thread i).st = .darked ∧ (y.src 196).sticky = true ∧ y.fc.hold = true)) ∧
  (∀ s h x k, s.here h x → s.poised = true → x.boot.fwRun = true → k ∈ x.upLinks → roomFor x k 56 = true → CompletesWith (.timeCheckSend h) s h (fun y =>
    ∃ q, sends y k (frameBytes 0 x.wlm.addr.toNat 0 0xA x.wlmOrigin q (tcPayload 0 (sendTime x) 0 0)))) ∧
  (∀ s h x k b fine p, s.here h x → s.poised = true → heard x k b 0xA = true → frDst b = 0 → p = frPayload b → field p 0 1 = 0 → roomFor x k 56 = true →
    CompletesWith (.timeCheck h k b fine) s h (fun y => ∃ q, sends y k (frameBytes 0 x.wlm.addr.toNat 0 0xA x.wlmOrigin q
      (tcPayload 1 (timeAt p 4) (x.tb.ptpOf x.now * 16 + fine.toNat) (sendTime x))))) ∧
  (∀ s h x k b fine p, s.here h x → s.poised = true → heard x k b 0xA = true → frDst b = 0 → p = frPayload b → field p 0 1 ≠ 0 →
    CompletesWith (.timeCheck h k b fine) s h (fun y => (y.link k).tofs =
      (((timeAt p 16 : Int) - timeAt p 4) - (((x.tb.ptpOf x.now * 16 + fine.toNat : Nat) : Int) - timeAt p 28)) / 2 ∧
      smGet 0 y.evt.cnt 523 = smGet 0 x.evt.cnt 523 + (if x.wlm.tcLimit.toNat * 16 < (y.link k).tofs.natAbs then 1 else 0))) ∧
  (∀ s h x a k, s.here h x → s.poised = true → x.boot.fwRun = true → x.wlm.addr ≠ 0 → x.wlm.telInterval ≠ 0 → x.wlm.isLeader = false →
    (x.pair.role = .active ∨ x.pair.role = .standby) → x.addrOfId x.wlm.leader = some a → a < bcast → x.routeTo a = some k → queued x k true + 64 ≤ 32768 →
    (x.mayDefer && historyFirst x) = false → CompletesWith (.telemetrySend h) s h (fun y => y.wlm.telDeferred = false ∧
      (⟨k, true, nextFrame x a 0xB (telPayload x (s.hoop (other h)) s.balls.darkN)⟩ : TxFrame) ∈ y.wlm.tx)) ∧
  (∀ s h x k b m, s.here h x → s.poised = true → delivered x k b 0xB m = true → x.wlm.isLeader = true →
    CompletesWith (.telemetry h k b) s h (fun y => smGet 0 y.evt.cnt 524 = smGet 0 x.evt.cnt 524 + 1)) ∧
  (∀ s h x k b m, s.here h x → s.poised = true → arrives x k b 0xC bcast m = true →
    CompletesWith (.handoverNotice h k b) s h (fun y => smGet 0 y.evt.cnt 525 = smGet 0 x.evt.cnt 525 + 1))

/-- Fabric commits at the initiator (R405 to R413): an accepted FABRIC_COMMIT holds a comparator of 9 to 13 and its local part, and each member is
sent its PROPOSE; with the last READY, GO is sent where the own part stands, time is valid and no reaction line is asserted; ends are noted, and the
last one raises the outcome; a READY missing at E - 20 us aborts, a GO not sent at E - 10 us ends the own part, and E + 200 us ends the record. Forms
that complete here, `exec` answering the next state given: fabricCommit, ready, done, readyDeadline, goSendDeadline, fabricOutcomeTimeout. Rests on
assumptions 95, 96 of the log, the model's choices. -/
def Obligations.FabricInitiatorRows : Prop :=
  (∀ s h x c loc ms slot ds ens, x = s.hoop h → passes s h 0 0x31 c fabricVerb = true → fabArg (paramOf c.bytes) = some (loc, ms) → freeSlot x = some slot →
    x.wlm.addr ≠ 0 → x.tb.timeValid = true → ds = ms.map (fun q => distTo x (s.hoop (other h)) q.1) → ds.any (· == 16) = false →
    ens = (if (hdrOf c.bytes).hasEpoch then (hdrOf c.bytes).epochNs else fabEarliest x (maxL ds)) → x.tb.ptpOf x.now + 50000 ≤ ens → loc = [] →
    CompletesWith (.fabricCommit h 0) s h (fun y => y.wlm.fcInit = satInc x.wlm.fcInit ∧ smFind y.wlm.fabs slot = some
      { st := 1, init := true, fcid := x.nextCplSeq 0, initiator := x.wlm.addr.toNat, members := ms.map (·.1), readyIn := [], results := [],
        epoch := x.tb.cntOf ens, epochNs := ens, localSeq := none, reason := 0 })) ∧
  (∀ s h x c loc ms slot ds ens cmp e, x = s.hoop h → s.quiet = true → passes s h 0 0x31 c fabricVerb = true → fabArg (paramOf c.bytes) = some (loc, ms) → freeSlot x = some slot →
    x.wlm.addr ≠ 0 → x.tb.timeValid = true → ds = ms.map (fun q => distTo x (s.hoop (other h)) q.1) → ds.any (· == 16) = false →
    ens = (if (hdrOf c.bytes).hasEpoch then (hdrOf c.bytes).epochNs else fabEarliest x (maxL ds)) → x.tb.ptpOf x.now + 50000 ≤ ens → loc ≠ [] →
    decideCommit (breakRun 0 0x31 x) { ring := 0 } true true ens (loc.map fabEdit) = .accept cmp e →
    CompletesWith (.fabricCommit h 0) s h (fun y => holdsCommit y (x.nextCplSeq 0) 0 cmp e ∧ smFind y.wlm.fabs slot = some
      { st := 1, init := true, fcid := x.nextCplSeq 0, initiator := x.wlm.addr.toNat, members := ms.map (·.1), readyIn := [], results := [],
        epoch := x.tb.cntOf e, epochNs := e, localSeq := some (x.nextCplSeq 0), reason := 0 })) ∧
  (∀ s h x c a es slot ens k b, x = s.hoop h → s.poised = true → passes s h 0 0x31 c fabricVerb = true → fabArg (paramOf c.bytes) = some ([], [(a, es)]) → freeSlot x = some slot →
    x.wlm.addr ≠ 0 → x.tb.timeValid = true → distTo x (s.hoop (other h)) a ≠ 16 →
    ens = (if (hdrOf c.bytes).hasEpoch then (hdrOf c.bytes).epochNs else fabEarliest x (maxL [distTo x (s.hoop (other h)) a])) → x.tb.ptpOf x.now + 50000 ≤ ens →
    x.routeTo a = some k → b = nextFrame x a 4 (proposePayload (x.nextCplSeq 0) ens 1 [x.wlm.addr.toNat, a] es) → roomFor x k b.length = true →
    CompletesWith (.fabricCommit h 0) s h (fun y => sends y k b)) ∧
  (∀ s h x k b m fcid src f g, s.here h x → delivered x k b 5 m = true → fcid = field (frPayload b) 0 6 → src = frSrc b → initFab x fcid = some f → f.st = 1 →
    src ∈ f.members → src ∉ f.readyIn → g = { f with readyIn := f.readyIn ++ [src] } →
    CompletesWith (.ready h k b) s h (fun y => initFab y fcid = some (if f.members.all (fun a => g.readyIn.contains a) then { g with st := if mayGo x f then 3 else 2 } else g))) ∧
  (∀ s h x k b m fcid src f l, s.here h x → s.poised = true → delivered x k b 5 m = true → fcid = field (frPayload b) 0 6 → src = frSrc b → initFab x fcid = some f → f.st = 1 →
    f.members = [src] → f.readyIn = [] → mayGo x f = true → x.routeTo src = some l → roomFor x l 24 = true →
    CompletesWith (.ready h k b) s h (fun y => sends y l (nextFrame x src 6 (leBytes 6 fcid ++ [0, 0])))) ∧
  (∀ s h x k b m fcid src f g, s.here h x → delivered x k b 8 m = true → fcid = field (frPayload b) 0 6 → src = frSrc b → initFab x fcid = some f →
    src ∈ f.members → f.results.any (fun q => q.1 == src) = false → g = { f with results := f.results ++ [(src, min 2 (field (frPayload b) 6 1))] } →
    CompletesWith (.done h k b) s h (fun y => initFab y fcid = if allDone g && (g.localSeq.isNone || g.st != 3) then none else some g)) ∧
  (∀ s h x slot f, s.here h x → smFind x.wlm.fabs slot = some f → f.init = true → f.st = 1 → f.epoch ≤ x.now + 20000 →
    x.cm.pending.any (fun d => d.fcid == some (fcKey f.initiator f.fcid)) = false →
    CompletesWith (.readyDeadline h slot) s h (fun y => smFind y.wlm.fabs slot = some { f with st := 5, reason := 2, aborted := true, localSeq := none })) ∧
  (∀ s h x slot f d, s.here h x → s.quiet = true → smFind x.wlm.fabs slot = some f → f.init = true → f.st = 1 → f.epoch ≤ x.now + 20000 →
    x.cm.pending.find? (fun d => d.fcid == some (fcKey f.initiator f.fcid)) = some d →
    CompletesWith (.readyDeadline h slot) s h (fun y => ∀ e ∈ y.cm.pending, e.key ≠ d.key)) ∧
  (∀ s h x slot f, s.here h x → smFind x.wlm.fabs slot = some f → f.init = true → (f.st = 1 ∨ f.st = 2) → f.epoch ≤ x.now + 10000 →
    x.cm.pending.any (fun d => d.fcid == some (fcKey f.initiator f.fcid)) = false →
    CompletesWith (.goSendDeadline h slot) s h (fun y => smFind y.wlm.fabs slot = some { f with st := 5, reason := 0, aborted := false, localSeq := none })) ∧
  (∀ s h x slot f d, s.here h x → s.quiet = true → smFind x.wlm.fabs slot = some f → f.init = true → (f.st = 1 ∨ f.st = 2) → f.epoch ≤ x.now + 10000 →
    x.cm.pending.find? (fun d => d.fcid == some (fcKey f.initiator f.fcid)) = some d →
    CompletesWith (.goSendDeadline h slot) s h (fun y => ∀ e ∈ y.cm.pending, e.key ≠ d.key)) ∧
  (∀ s h x slot f, s.here h x → slot < 5 → smFind x.wlm.fabs slot = some f → f.init = true → f.epoch + 200000 ≤ x.now →
    CompletesWith (.fabricOutcomeTimeout h slot) s h (fun y => (∀ q ∈ y.wlm.fabs, ¬(q.2.init = true ∧ q.2.initiator = f.initiator ∧ q.2.fcid = f.fcid)) ∧
      y.wlm.fcNotComplete = if (f.st == 3 || f.st == 4) && f.members.all (fun a => (f.results.find? (fun q => q.1 == a)).map (·.2) == some 0)
        then x.wlm.fcNotComplete else satInc x.wlm.fcNotComplete))

/-- Fabric commits at a member (R408, R409, R411): a PROPOSE that passes the checks stands in the pending table for exactly its epoch, with comparator
9 + slot armed for E - 5 us and READY sent, and one without valid time or a free comparator is answered by ABORT; GO disarms the deadline; an ABORT,
and a deadline without GO, withdraw the local commit. Forms that complete here, `exec` answering the next state given: propose, go, abort, goDeadline.
Rests on assumptions 23, 95, 97 of the log, the model's choices. -/
def Obligations.FabricMemberRows : Prop :=
  (∀ s h x y k b m p ens slot raw cmp e, s.here h x → s.quiet = true → delivered x k b 4 m = true → y = received k m x → p = frPayload b →
    ens = field p 6 6 * 1000000000 + field p 12 4 → raw = fabEntries (field p 17 1) (p.drop 52) → x.tb.timeValid = true → freeSlot x = some slot → x.now + 20000 ≤ x.tb.cntOf ens →
    1 ≤ field p 17 1 → field p 17 1 ≤ 37 → 52 + 12 * field p 17 1 ≤ p.length → field p 12 4 ≤ 999999999 → ens ≤ x.tb.ptpOf x.now + 3600000000000 →
    fabListOk raw = true → raw.all (fabFieldsOk y) = true → decideCommit y { ring := 0, fabric := true } true true ens (raw.map fabEdit) = .accept cmp e →
    CompletesWith (.propose h k b) s h (fun z => holdsCommit z (memberSeq (frSrc b) (field p 0 6)) 0 cmp ens ∧
      (∃ f, smFind z.wlm.fabs slot = some f ∧ f.st = 2 ∧ f.init = false ∧ f.fcid = field p 0 6 ∧ f.initiator = frSrc b ∧ f.epochNs = ens) ∧
      (x.now + 100 ≤ x.tb.cntOf (ens - 5000) → x.tb.cntOf (ens - 5000) ≤ x.now + 2000000000 →
        z.tb.cmp (9 + slot) = { t16 := x.tb.cntOf (ens - 5000) * 16, armed := true, fired := false }))) ∧
  (∀ s h x k b m l, s.here h x → s.poised = true → delivered x k b 4 m = true → x.tb.timeValid = false → x.routeTo (frSrc b) = some l → roomFor x l 24 = true →
    CompletesWith (.propose h k b) s h (fun y => sends y l (nextFrame x (frSrc b) 7 (leBytes 6 (field (frPayload b) 0 6) ++ leBytes 1 14 ++ leBytes 1 3)))) ∧
  (∀ s h x k b m l, s.here h x → s.poised = true → delivered x k b 4 m = true → x.tb.timeValid = true → freeSlot x = none → x.routeTo (frSrc b) = some l → roomFor x l 24 = true →
    CompletesWith (.propose h k b) s h (fun y => sends y l (nextFrame x (frSrc b) 7 (leBytes 6 (field (frPayload b) 0 6) ++ leBytes 1 14 ++ leBytes 1 4)))) ∧
  (∀ s h x k b m slot f, s.here h x → delivered x k b 6 m = true → memberFab x (frSrc b) (field (frPayload b) 0 6) = some (slot, f) → f.st = 2 →
    CompletesWith (.go h k b) s h (fun y => smFind y.wlm.fabs slot = some { f with st := 3 } ∧ (y.tb.cmp (9 + slot)).armed = false ∧ ∀ e ∈ y.tb.heldEvents, e.1 ≠ 9 + slot)) ∧
  (∀ s h x k b m slot f, s.here h x → delivered x k b 7 m = true → memberFab x (frSrc b) (field (frPayload b) 0 6) = some (slot, f) →
    CompletesWith (.abort h k b) s h (fun y => (y.tb.cmp (9 + slot)).armed = false)) ∧
  (∀ s h x k b m slot f d, s.here h x → s.quiet = true → delivered x k b 7 m = true → memberFab x (frSrc b) (field (frPayload b) 0 6) = some (slot, f) →
    x.cm.pending.find? (fun d => d.fcid == some (fcKey (frSrc b) (field (frPayload b) 0 6))) = some d →
    CompletesWith (.abort h k b) s h (fun y => ∀ e ∈ y.cm.pending, e.key ≠ d.key)) ∧
  (∀ s h x k b m a f fcid, s.here h x → delivered x k b 7 m = true → fcid = field (frPayload b) 0 6 → memberFab x (frSrc b) fcid = none → initFab x fcid = some f →
    (f.st = 1 ∨ f.st = 2) → f.members = [frSrc b, a] → frSrc b ≠ a → f.results = [] → x.cm.pending.any (fun d => d.fcid == some (fcKey f.initiator f.fcid)) = false →
    CompletesWith (.abort h k b) s h (fun y => initFab y fcid = some { f with st := 5, reason := field (frPayload b) 7 1, aborted := true, localSeq := none, results := [(frSrc b, 1)] })) ∧
  (∀ s h x k f, s.here h x → 9 ≤ k → k ≤ 13 → cmpDue x k = true → smFind x.wlm.fabs (k - 9) = some f →
    CompletesWith (.goDeadline h k) s h (fun y => (y.tb.cmp k).armed = false ∧ (y.tb.cmp k).fired = true)) ∧
  (∀ s h x k f d, s.here h x → s.quiet = true → 9 ≤ k → k ≤ 13 → cmpDue x k = true → smFind x.wlm.fabs (k - 9) = some f → f.init = false → f.st = 2 →
    x.cm.pending.find? (fun d => d.fcid == some (fcKey f.initiator f.fcid)) = some d →
    CompletesWith (.goDeadline h k) s h (fun y => ∀ e ∈ y.cm.pending, e.key ≠ d.key))
end

