-- ==== Sys2Proof/Laws/Sparse.lean ====
section
/-!
SUPPORT. What the operations over sparse arrays and over byte memory do: a read after a write, and that every write keeps the canonical form.
-/

namespace Sys2Proof.Machine

variable {α : Type}

@[simp] theorem smGet_nil (d : α) (k : Nat) : smGet d [] k = d := rfl

theorem smGet_smPut_self (d : α) (m : SMap α) (k : Nat) (v : α) : smGet d (smPut m k v) k = v := by
  induction m with
  | nil => simp [smPut, smGet]
  | cons e m ih =>
    obtain ⟨j, w⟩ := e
    unfold smPut
    split
    · simp [smGet]
    · split
      · simp [smGet]
      · rename_i _ h
        simp [smGet, Ne.symm h, ih]

theorem smGet_smPut_ne (d : α) (m : SMap α) {k j : Nat} (v : α) (h : j ≠ k) : smGet d (smPut m k v) j = smGet d m j := by
  induction m with
  | nil => simp [smPut, smGet, Ne.symm h]
  | cons e m ih =>
    obtain ⟨i, w⟩ := e
    unfold smPut
    split
    · simp [smGet, Ne.symm h]
    · split
      · subst_vars
        simp [smGet, Ne.symm h]
      · by_cases g : i = j <;> simp [smGet, g, ih]

theorem smGet_smDel_self (d : α) (m : SMap α) (k : Nat) : smGet d (smDel m k) k = d := by
  induction m with
  | nil => rfl
  | cons e m ih =>
    obtain ⟨i, w⟩ := e
    by_cases g : i = k <;> simp [smDel, smGet, g, ih]

theorem smGet_smDel_ne (d : α) (m : SMap α) {k j : Nat} (h : j ≠ k) : smGet d (smDel m k) j = smGet d m j := by
  induction m with
  | nil => rfl
  | cons e m ih =>
    obtain ⟨i, w⟩ := e
    by_cases g : i = k
    · subst g
      simp [smDel, smGet, Ne.symm h, ih]
    · by_cases g' : i = j
      · subst g'
        simp [smDel, smGet, h]
      · simp [smDel, smGet, g, g', ih]

variable [DecidableEq α]

@[simp] theorem smGet_smSet_self (d : α) (m : SMap α) (k : Nat) (v : α) : smGet d (smSet d m k v) k = v := by
  unfold smSet
  split
  · subst_vars; exact smGet_smDel_self _ m k
  · exact smGet_smPut_self d m k v

theorem smGet_smSet_ne (d d' : α) (m : SMap α) {k j : Nat} (v : α) (h : j ≠ k) : smGet d' (smSet d m k v) j = smGet d' m j := by
  unfold smSet
  split
  · exact smGet_smDel_ne d' m h
  · exact smGet_smPut_ne d' m v h

@[simp] theorem smGet_smUpd_self (d : α) (m : SMap α) (k : Nat) (f : α → α) : smGet d (smUpd d m k f) k = f (smGet d m k) := by
  simp [smUpd]

theorem smGet_smUpd_ne (d : α) (m : SMap α) {k j : Nat} (f : α → α) (h : j ≠ k) : smGet d (smUpd d m k f) j = smGet d m j :=
  smGet_smSet_ne d d m _ h

/-! ## The canonical form -/

omit [DecidableEq α] in
/-- Sorted means pairwise rising keys. -/
theorem smSorted_iff (m : SMap α) : smSorted m = true ↔ m.Pairwise (fun a b => a.1 < b.1) := by
  induction m with
  | nil => simp [smSorted]
  | cons a m ih =>
    cases m with
    | nil => simp [smSorted]
    | cons b m =>
      simp only [smSorted, Bool.and_eq_true, decide_eq_true_eq, ih, List.pairwise_cons]
      constructor
      · rintro ⟨h, hb, hm⟩
        refine ⟨?_, hb, hm⟩
        intro c hc
        rcases List.mem_cons.mp hc with rfl | hc
        · exact h
        · exact Nat.lt_trans h (hb c hc)
      · rintro ⟨h, hb, hm⟩
        exact ⟨h b (by simp), hb, hm⟩

omit [DecidableEq α] in
/-- An entry after `smPut` is the new one or an old one. -/
theorem mem_smPut {m : SMap α} {k : Nat} {v : α} {e : Nat × α} (h : e ∈ smPut m k v) : e = (k, v) ∨ e ∈ m := by
  induction m with
  | nil => simp [smPut] at h; exact .inl h
  | cons a m ih =>
    obtain ⟨j, w⟩ := a
    unfold smPut at h
    split at h
    · rcases List.mem_cons.mp h with h | h
      · exact .inl h
      · exact .inr h
    · split at h
      · rcases List.mem_cons.mp h with h | h
        · exact .inl h
        · exact .inr (List.mem_cons_of_mem _ h)
      · rcases List.mem_cons.mp h with h | h
        · exact .inr (h ▸ List.mem_cons_self ..)
        · rcases ih h with h | h
          · exact .inl h
          · exact .inr (List.mem_cons_of_mem _ h)

omit [DecidableEq α] in
theorem mem_smDel {m : SMap α} {k : Nat} {e : Nat × α} (h : e ∈ smDel m k) : e ∈ m := by
  induction m with
  | nil => simp [smDel] at h
  | cons a m ih =>
    obtain ⟨j, w⟩ := a
    unfold smDel at h
    split at h
    · exact List.mem_cons_of_mem _ (ih h)
    · rcases List.mem_cons.mp h with h | h
      · exact h ▸ List.mem_cons_self ..
      · exact List.mem_cons_of_mem _ (ih h)

omit [DecidableEq α] in
theorem smSorted_smPut (m : SMap α) (k : Nat) (v : α) (h : smSorted m = true) : smSorted (smPut m k v) = true := by
  rw [smSorted_iff] at *
  induction m with
  | nil => simp [smPut]
  | cons a m ih =>
    obtain ⟨j, w⟩ := a
    have hm := List.pairwise_cons.mp h
    unfold smPut
    split
    · rename_i g
      refine List.pairwise_cons.mpr ⟨?_, h⟩
      intro c hc
      rcases List.mem_cons.mp hc with rfl | hc
      · exact g
      · exact Nat.lt_trans g (hm.1 c hc)
    · split
      · rename_i g
        exact List.pairwise_cons.mpr ⟨fun c hc => g ▸ hm.1 c hc, hm.2⟩
      · rename_i g g'
        refine List.pairwise_cons.mpr ⟨?_, ih hm.2⟩
        intro c hc
        rcases mem_smPut hc with rfl | hc
        · show j < k
          omega
        · exact hm.1 c hc

omit [DecidableEq α] in
theorem smSorted_smDel (m : SMap α) (k : Nat) (h : smSorted m = true) : smSorted (smDel m k) = true := by
  rw [smSorted_iff] at *
  induction m with
  | nil => simp [smDel]
  | cons a m ih =>
    obtain ⟨j, w⟩ := a
    have hm := List.pairwise_cons.mp h
    unfold smDel
    split
    · exact ih hm.2
    · exact List.pairwise_cons.mpr ⟨fun c hc => hm.1 c (mem_smDel hc), ih hm.2⟩

/-- Setting an entry keeps keys rising. -/
theorem smSorted_smSet (d : α) (m : SMap α) (k : Nat) (v : α) (h : smSorted m = true) : smSorted (smSet d m k v) = true := by
  unfold smSet
  split
  · exact smSorted_smDel m k h
  · exact smSorted_smPut m k v h

/-! ## Byte memory -/

@[simp] theorem memGet_memSet_self (m : List Host.Cell) (a : Nat) (b : Byte) : memGet (memSet m a b) a = b := by
  simp [memGet, memSet]

theorem memGet_memSet_ne (m : List Host.Cell) {a c : Nat} (b : Byte) (h : c ≠ a) : memGet (memSet m a b) c = memGet m c := by
  simp [memGet, memSet, smGet_smSet_ne _ _ _ _ h]

/-- Every byte outside the written ones reads as before. -/
theorem memGet_memWrite_outside (bs : Bytes) (m : List Host.Cell) (a c : Nat) (h : c < a ∨ a + bs.length ≤ c) :
    memGet (memWrite m a bs) c = memGet m c := by
  induction bs generalizing m a with
  | nil => rfl
  | cons b bs ih =>
    simp only [List.length_cons] at h
    simp only [memWrite]
    rw [ih (memSet m a b) (a + 1) (by omega), memGet_memSet_ne m b (by omega)]

/-- A written byte reads as written. -/
theorem memGet_memWrite_inside (bs : Bytes) (m : List Host.Cell) (a i : Nat) (h : i < bs.length) :
    memGet (memWrite m a bs) (a + i) = bs[i] := by
  induction bs generalizing m a i with
  | nil => simp at h
  | cons b bs ih =>
    cases i with
    | zero =>
      simp only [memWrite, Nat.add_zero, List.getElem_cons_zero]
      rw [memGet_memWrite_outside bs _ (a + 1) a (by omega), memGet_memSet_self]
    | succ i =>
      simp only [memWrite, List.getElem_cons_succ]
      have := ih (memSet m a b) (a + 1) i (by simpa using h)
      rw [show a + (i + 1) = a + 1 + i by omega]
      exact this

/-- Writing one byte keeps the canonical form. -/
theorem memSet_wf (m : List Host.Cell) (a : Nat) (b : Byte) (h : Memory.wf m = true) : Memory.wf (memSet m a b) = true := by
  simp only [Memory.wf, Bool.and_eq_true, List.all_eq_true] at *
  refine ⟨smSorted_smSet _ m a b h.1, ?_⟩
  intro c hc
  unfold memSet smSet at hc
  split at hc
  · exact h.2 c (mem_smDel hc)
  · rcases mem_smPut hc with rfl | hc
    · rename_i g
      simpa using g
    · exact h.2 c hc

/-- Writing bytes keeps the canonical form. -/
theorem memWrite_wf (bs : Bytes) (m : List Host.Cell) (a : Nat) (h : Memory.wf m = true) : Memory.wf (memWrite m a bs) = true := by
  induction bs generalizing m a with
  | nil => exact h
  | cons b bs ih => exact ih _ _ (memSet_wf m a b h)

end Sys2Proof.Machine
end

