-- ==== Sys2Proof/Laws/Calm.lean ====
section
/-!
SUPPORT. What the shared operations leave alone. `Hoop.calm` is the hoop without everything that telling (events, journal records, completions,
counters), faults, darks and `settle` may change; each shared operation keeps it, so every block it holds reads after the operation as before.
-/

namespace Sys2Proof.Machine

/-- A fold keeps what each of its steps keeps. -/
theorem foldl_keeps {α β γ : Type} (p : α → γ) (f : α → β → α) (h : ∀ x b, p (f x b) = p x) (l : List β) (x : α) : p (l.foldl f x) = p x := by
  induction l generalizing x with
  | nil => rfl
  | cons b l ih => simp [ih, h]

theorem Cm.calm_upd (b : Cm) (v0 : List Commit) (v1 : List Judged) (v2 : List Outcome) :
    ({ b with pending := v0, judging := v1, history := v2 } : Cm).calm = b.calm := rfl

theorem Prk.calm_upd (b : Prk) (v0 : SMap Slot) (v1 : List Nat) (v2 : BitVec 512) :
    ({ b with slots := v0, lit := v1, override := v2 } : Prk).calm = b.calm := rfl

theorem Tmb.calm_upd (b : Tmb) (v0 : List TOp) (v1 : Option Nat) (v2 : BitVec 512) (v3 : List DeltaEntry) :
    ({ b with urgent := v0, stopReq := v1, darkReq := v2, stageDelta := v3 } : Tmb).calm = b.calm := rfl

theorem Drv.calm_upd (b : Drv) (v0 : SMap Needle) (v1 : SMap Tile) (v2 : Word) (v3 : Bool) :
    ({ b with needles := v0, tiles := v1, dglCnt := v2, outEn := v3 } : Drv).calm = b.calm := rfl

theorem Dk.calm_upd (b : Dk) (v0 : Bool) (v1 : Word) (v2 : Stamp) (v3 : Word) (v4 : Bool) (v5 : Bool) (v6 : SMap Nat) (v7 : Bool) (v8 : Bool) :
    ({ b with force := v0, cause := v1, time := v2, count := v3, remote := v4, confirmed := v5, confirmed1 := v6, relAccepted := v7, vouch := v8 } : Dk).calm = b.calm := rfl

theorem Jnl.calm_upd (b : Jnl) (v0 : List JRec) (v1 : Option (Nat × Stamp × Stamp)) (v2 : Word) (v3 : Nat) :
    ({ b with buf := v0, loss := v1, lost := v2, oldest := v3 } : Jnl).calm = b.calm := rfl

theorem Ledger.calm_upd (b : Ledger) (v0 : List LedRec) (v1 : List LedRec) (v2 : SMap Interval) (v3 : BitVec 16) :
    ({ b with openRecs := v0, closing := v1, runs := v2, flags := v3 } : Ledger).calm = b.calm := rfl

theorem Mbx.calm_upd (b : Mbx) (v0 : SMap Ring) (v1 : List Nat) (v2 : Nat) (v3 : Nat) (v4 : List UdpReply) (v5 : List Nat) :
    ({ b with rings := v0, msix := v1, rrGreen := v2, rrYellow := v3, udpTx := v4, accepted := v5 } : Mbx).calm = b.calm := rfl

theorem Evt.calm_upd (b : Evt) (v0 : Word) (v1 : SMap Word) (v2 : Word) :
    ({ b with raised := v0, cnt := v1, dropped := v2 } : Evt).calm = b.calm := rfl

theorem Pair.calm_upd (b : Pair) (v0 : Role) (v1 : Bool) (v2 : List Digest) (v3 : List Digest) (v4 : Option Nat) :
    ({ b with role := v0, token := v1, sent := v2, awaiting := v3, post := v4 } : Pair).calm = b.calm := rfl

theorem Wlm.calm_upd (b : Wlm) (v0 : List TxFrame) (v1 : SMap Link) (v2 : Nat) (v3 : Nat) (v4 : List Notice) (v5 : BitVec 16) (v6 : BitVec 16) (v7 : List Bytes) (v8 : Option Nat) :
    ({ b with tx := v0, links := v1, seq := v2, localSeq := v3, notices := v4, noticeTx := v5, noRoute := v6, handOff := v7, qdropEvSec := v8 } : Wlm).calm = b.calm := rfl

theorem Pmc.calm_upd (b : Pmc) (v0 : SMap (BitVec 48)) (v1 : BitVec 256) (v2 : BitVec 256) (v3 : Bool) (v4 : SMap (BitVec 48)) :
    ({ b with cnt := v0, ovf := v1, ovfTold := v2, ovfInWin := v3, jump := v4 } : Pmc).calm = b.calm := rfl

theorem Boot.calm_upd (b : Boot) (v0 : Stage) (v1 : List (Nat × Stamp × List Nat)) :
    ({ b with stage := v0, heldEvents := v1 } : Boot).calm = b.calm := rfl

/-- An update of blocks that keeps each of them calm keeps the hoop calm. -/
theorem Hoop.calm_upd (x : Hoop) (thr : SMap Thread) (fc : Fc) (cm : Cm) (prk : Prk) (tmb : Tmb) (drv : Drv) (dk : Dk) (jnl : Jnl) (led : Ledger) (mbx : Mbx) (evt : Evt) (pair : Pair) (wlm : Wlm) (pmc : Pmc) (boot : Boot)
    (h0 : cm.calm = x.cm.calm) (h1 : prk.calm = x.prk.calm) (h2 : tmb.calm = x.tmb.calm) (h3 : drv.calm = x.drv.calm) (h4 : dk.calm = x.dk.calm) (h5 : jnl.calm = x.jnl.calm) (h6 : led.calm = x.led.calm) (h7 : mbx.calm = x.mbx.calm) (h8 : evt.calm = x.evt.calm) (h9 : pair.calm = x.pair.calm) (h10 : wlm.calm = x.wlm.calm) (h11 : pmc.calm = x.pmc.calm) (h12 : boot.calm = x.boot.calm) :
    ({ x with thr := thr, fc := fc, cm := cm, prk := prk, tmb := tmb, drv := drv, dk := dk, jnl := jnl, led := led, mbx := mbx, evt := evt, pair := pair, wlm := wlm, pmc := pmc, boot := boot } : Hoop).calm = x.calm := by
  simp only [Hoop.calm, h0, h1, h2, h3, h4, h5, h6, h7, h8, h9, h10, h11, h12]

/-! ## Telling -/

@[simp] theorem pmcRaw_calm (c n : Nat) (x : Hoop) : (pmcRaw c n x).calm = x.calm := by
  unfold pmcRaw
  split
  · extract_lets v pre v'
    split <;> (apply Hoop.calm_upd x <;> first | with_reducible rfl | apply Pmc.calm_upd)
  · rfl

@[simp] theorem setRing_calm (x : Hoop) (r : Nat) (g : Ring) : (x.setRing r g).calm = x.calm := by
  unfold Hoop.setRing
  apply Hoop.calm_upd x <;> first | with_reducible rfl | apply Mbx.calm_upd

@[simp] theorem updRing_calm (x : Hoop) (r : Nat) (f : Ring → Ring) : (x.updRing r f).calm = x.calm := setRing_calm ..

@[simp] theorem msixSend_calm (v : Nat) (x : Hoop) : (msixSend v x).calm = x.calm := by
  refine (pmcRaw_calm ..).trans ?_
  apply Hoop.calm_upd x <;> first | with_reducible rfl | apply Mbx.calm_upd

@[simp] theorem putEventAt_calm (st : Stamp) (r src : Nat) (p : List Nat) (x : Hoop) : (putEventAt st r src p x).calm = x.calm := by
  unfold putEventAt
  extract_lets
  split
  · exact (msixSend_calm ..).trans (setRing_calm ..)
  · exact setRing_calm ..

@[simp] theorem deliverEvAt_calm (st : Stamp) (r src : Nat) (p : List Nat) (x : Hoop) : (deliverEvAt st r src p x).calm = x.calm := by
  unfold deliverEvAt
  extract_lets g
  split
  · rfl
  · split
    · refine (pmcRaw_calm ..).trans (Eq.trans ?_ (setRing_calm x r { g with evtDrop := satInc g.evtDrop, dropsPending := g.dropsPending + 1 }))
      apply Hoop.calm_upd (x.setRing r _) <;> first | with_reducible rfl | apply Evt.calm_upd
    · exact putEventAt_calm ..

@[simp] theorem deliverEv_calm (r src : Nat) (p : List Nat) (x : Hoop) : (deliverEv r src p x).calm = x.calm := deliverEvAt_calm ..

@[simp] theorem raiseEv_calm (src : Nat) (p : List Nat) (sc : Scope) (x : Hoop) : (raiseEv src p sc x).calm = x.calm := by
  have h0 : ∀ y : Hoop, (pmcRaw 231 1 { y with evt := { y.evt with raised := y.evt.raised + 1, cnt := smUpd 0 y.evt.cnt src (fun c => c + 1) } }).calm = y.calm := by
    intro y
    refine (pmcRaw_calm ..).trans ?_
    apply Hoop.calm_upd y <;> first | with_reducible rfl | apply Evt.calm_upd
  have h1 : ∀ (y : Hoop) (l : List (Nat × Stamp × List Nat)), ({ y with boot := { y.boot with heldEvents := l } } : Hoop).calm = y.calm := by
    intro y l
    apply Hoop.calm_upd y <;> first | with_reducible rfl | apply Boot.calm_upd
  have h2 : ∀ y : Hoop, (if y.evt.sub.getLsbD src then deliverEv 0 src p y else y).calm = y.calm := by
    intro y; split <;> simp
  unfold raiseEv
  extract_lets s1 z s2 w
  split
  · split
    · exact (h1 z _).trans (h0 x)
    · exact h0 x
  · split
    · refine (foldl_keeps Hoop.calm _ ?_ _ w).trans ((h2 z).trans (h0 x))
      intro y r; split <;> simp
    · exact h0 x

@[simp] theorem pmcTell_calm (x : Hoop) : (pmcTell x).calm = x.calm := by
  unfold pmcTell
  extract_lets fresh
  refine (foldl_keeps Hoop.calm _ ?_ _ _).trans ?_
  · intro y c; split <;> simp
  · apply Hoop.calm_upd x <;> first | with_reducible rfl | apply Pmc.calm_upd

@[simp] theorem jnlLose_calm (j : JRec) (x : Hoop) : (jnlLose j x).calm = x.calm := by
  unfold jnlLose
  extract_lets
  refine (raiseEv_calm ..).trans ?_
  apply Hoop.calm_upd x <;> first | with_reducible rfl | apply Jnl.calm_upd

theorem jnlBuf_calm (y : Hoop) (l : List JRec) : ({ y with jnl := { y.jnl with buf := l } } : Hoop).calm = y.calm := by
  apply Hoop.calm_upd y <;> first | with_reducible rfl | apply Jnl.calm_upd

@[simp] theorem jnlQueue_calm (j : JRec) (x : Hoop) : (jnlQueue j x).calm = x.calm := by
  have h : ∀ y : Hoop, (if y.jnl.buf.isEmpty then { y with jnl := { y.jnl with oldest := y.now } } else y).calm = y.calm := by
    intro y; split
    · apply Hoop.calm_upd y <;> first | with_reducible rfl | apply Jnl.calm_upd
    · rfl
  unfold jnlQueue
  extract_lets s1 z s2
  split
  · exact (jnlBuf_calm z _).trans (h x)
  · split
    · exact (jnlLose_calm ..).trans ((jnlBuf_calm z _).trans (h x))
    · exact (jnlLose_calm ..).trans (h x)

@[simp] theorem jnlPut_calm (ty sev src : Nat) (w : Bool) (p : Bytes) (x : Hoop) : (jnlPut ty sev src w p x).calm = x.calm := jnlQueue_calm ..

@[simp] theorem putCpl_calm (r : Nat) (mk : Nat → Bool → Cpl) (x : Hoop) : (putCpl r mk x).calm = x.calm := by
  unfold putCpl
  extract_lets
  split
  · exact (msixSend_calm ..).trans (setRing_calm ..)
  · exact setRing_calm ..

/-! ## Frames on links -/

theorem wlm_calm (x : Hoop) (w : Wlm) (h : w.calm = x.wlm.calm) : ({ x with wlm := w } : Hoop).calm = x.calm := by
  apply Hoop.calm_upd x <;> first | with_reducible rfl | exact h

@[simp] theorem updLink_calm (x : Hoop) (k : Nat) (f : Link → Link) : (x.updLink k f).calm = x.calm := wlm_calm x _ (Wlm.calm_upd ..)

@[simp] theorem sendFrame_calm (k : Nat) (tel : Bool) (b : Bytes) (x : Hoop) : (sendFrame k tel b x).calm = x.calm := by
  have h : ∀ (y : Hoop) (src : Nat) (p : List Nat), (if y.wlm.qdropEvSec = some (y.now / 1000000000) then y else
      raiseEv src p .hoop { y with wlm := { y.wlm with qdropEvSec := some (y.now / 1000000000) } }).calm = y.calm := by
    intro y src p; split
    · rfl
    · exact (raiseEv_calm ..).trans (wlm_calm y _ (Wlm.calm_upd ..))
  unfold sendFrame
  split
  · exact (h _ _ _).trans (updLink_calm ..)
  · exact (pmcRaw_calm ..).trans ((wlm_calm _ _ (Wlm.calm_upd ..)).trans (updLink_calm ..))

@[simp] theorem sendToward_calm (tel : Bool) (b : Bytes) (x : Hoop) : (sendToward tel b x).calm = x.calm := by
  unfold sendToward
  split
  · simp
  · split
    · exact wlm_calm x _ (Wlm.calm_upd ..)
    · exact (pmcRaw_calm ..).trans (wlm_calm x _ (Wlm.calm_upd ..))

@[simp] theorem originate_calm (dst ty : Nat) (p : Bytes) (x : Hoop) : (originate dst ty p x).calm = x.calm := by
  unfold originate
  extract_lets seq b s1 z
  have h : z.calm = x.calm := wlm_calm x _ (Wlm.calm_upd ..)
  split
  · refine (foldl_keeps Hoop.calm _ ?_ _ z).trans h
    intro y k; simp
  · exact (sendToward_calm ..).trans h

@[simp] theorem sendLocal_calm (k ty : Nat) (p : Bytes) (x : Hoop) : (sendLocal k ty p x).calm = x.calm := by
  unfold sendLocal
  extract_lets
  exact (sendFrame_calm ..).trans (wlm_calm x _ (Wlm.calm_upd ..))

/-! ## Threads and darks -/

@[simp] theorem setThread_calm (x : Hoop) (i : Nat) (t : Thread) : (x.setThread i t).calm = x.calm := by
  apply Hoop.calm_upd x <;> with_reducible rfl

theorem drv_calm (x : Hoop) (d : Drv) (h : d.calm = x.drv.calm) : ({ x with drv := d } : Hoop).calm = x.calm := by
  apply Hoop.calm_upd x <;> first | with_reducible rfl | exact h

@[simp] theorem setNeedle_calm (x : Hoop) (e : Nat) (v : Needle) : (x.setNeedle e v).calm = x.calm := drv_calm x _ (Drv.calm_upd ..)

@[simp] theorem updNeedle_calm (x : Hoop) (e : Nat) (f : Needle → Needle) : (x.updNeedle e f).calm = x.calm := setNeedle_calm ..

@[simp] theorem updTile_calm (x : Hoop) (t : Nat) (f : Tile → Tile) : ({ x with drv := { x.drv with tiles := smSet {} x.drv.tiles t (f (smGet {} x.drv.tiles t)) } } : Hoop).calm = x.calm :=
  drv_calm x _ (Drv.calm_upd ..)

@[simp] theorem setIdle_calm (x : Hoop) (e : Nat) (c : NCode) : (x.setIdle e c).calm = x.calm := setNeedle_calm ..

@[simp] theorem restoreElem_calm (x : Hoop) (e : Nat) : (restoreElem x e).calm = x.calm := setIdle_calm ..

@[simp] theorem threadEvent_calm (i : Nat) (t : Thread) (p : ThreadSt) (c q r l : Nat) (x : Hoop) : (threadEvent i t p c q r l x).calm = x.calm :=
  (raiseEv_calm ..).trans (jnlPut_calm ..)

@[simp] theorem countSt_calm (st : ThreadSt) (x : Hoop) : (countSt st x).calm = x.calm := by
  unfold countSt; split <;> simp

@[simp] theorem setSt_calm (i : Nat) (st : ThreadSt) (c q r : Nat) (x : Hoop) : (setSt i st c q r x).calm = x.calm :=
  (threadEvent_calm ..).trans ((countSt_calm ..).trans (setThread_calm ..))

theorem led_calm (x : Hoop) (d : Ledger) (h : d.calm = x.led.calm) : ({ x with led := d } : Hoop).calm = x.calm := by
  apply Hoop.calm_upd x <;> first | with_reducible rfl | exact h

@[simp] theorem ledAdd_calm (i t : Nat) (p c : Bool) (a b : Nat) (v : Option Nat) (x : Hoop) : (ledAdd i t p c a b v x).calm = x.calm := led_calm x _ (Ledger.calm_upd ..)

@[simp] theorem ledStart_calm (i a : Nat) (x : Hoop) : (ledStart i a x).calm = x.calm := led_calm x _ (Ledger.calm_upd ..)

@[simp] theorem ledEnd_calm (i a : Nat) (c : Bool) (x : Hoop) : (ledEnd i a c x).calm = x.calm := by
  unfold ledEnd; split
  · rfl
  · exact (led_calm _ _ (Ledger.calm_upd ..)).trans (ledAdd_calm ..)

@[simp] theorem ledVerified_calm (i a : Nat) (x : Hoop) : (ledVerified i a x).calm = x.calm := by
  unfold ledVerified; split
  · rfl
  · exact led_calm x _ (Ledger.calm_upd ..)

@[simp] theorem ledFlag_calm (k : Nat) (x : Hoop) : (ledFlag k x).calm = x.calm := led_calm x _ (Ledger.calm_upd ..)

theorem prk_calm (x : Hoop) (d : Prk) (h : d.calm = x.prk.calm) : ({ x with prk := d } : Hoop).calm = x.calm := by
  apply Hoop.calm_upd x <;> first | with_reducible rfl | exact h

@[simp] theorem override_calm (i : Nat) (b : Bool) (x : Hoop) : (override i b x).calm = x.calm := prk_calm x _ (Prk.calm_upd ..)

@[simp] theorem reqDark_calm (i : Nat) (x : Hoop) : (reqDark i x).calm = x.calm := by
  refine (override_calm ..).trans ?_
  apply Hoop.calm_upd x <;> first | with_reducible rfl | apply Tmb.calm_upd

@[simp] theorem dropParts_calm (i : Nat) (x : Hoop) : (dropParts i x).calm = x.calm := by
  unfold dropParts
  extract_lets alone hit y
  refine Eq.trans ?_ (foldl_keeps Hoop.calm restoreElem restoreElem_calm alone x)
  apply Hoop.calm_upd y <;> first | with_reducible rfl | apply Cm.calm_upd | apply Tmb.calm_upd

theorem cm_calm (x : Hoop) (d : Cm) (h : d.calm = x.cm.calm) : ({ x with cm := d } : Hoop).calm = x.calm := by
  apply Hoop.calm_upd x <;> first | with_reducible rfl | exact h

@[simp] theorem putOutcome_calm (o : Outcome) (x : Hoop) : (putOutcome o x).calm = x.calm :=
  (raiseEv_calm ..).trans ((jnlPut_calm ..).trans (cm_calm x _ (Cm.calm_upd ..)))

@[simp] theorem outcomes_calm (x : Hoop) : (outcomes x).calm = x.calm := by
  unfold outcomes
  extract_lets ready
  exact (foldl_keeps Hoop.calm _ (fun y j => putOutcome_calm _ y) ready _).trans (cm_calm x _ (Cm.calm_upd ..))

@[simp] theorem updThread_calm (x : Hoop) (i : Nat) (f : Thread → Thread) : (x.updThread i f).calm = x.calm := setThread_calm ..

@[simp] theorem sendNotices_calm (c : Chain) (i k : Nat) (x : Hoop) : (sendNotices c i k x).calm = x.calm := by
  refine foldl_keeps Hoop.calm _ ?_ _ x
  intro y a
  exact (originate_calm ..).trans (wlm_calm y _ (Wlm.calm_upd ..))

@[simp] theorem notify_calm (i c : Nat) (x : Hoop) : (notify i c x).calm = x.calm := by
  unfold notify; split
  · rfl
  · split
    · rfl
    · extract_lets y
      exact (raiseEv_calm ..).trans ((wlm_calm y _ (Wlm.calm_upd ..)).trans (sendNotices_calm ..))

@[simp] theorem darkThread_calm (i c q r : Nat) (x : Hoop) : (darkThread i c q r x).calm = x.calm := by
  unfold darkThread; split
  · split <;> simp
  · rfl

@[simp] theorem faultThread_calm (i q r : Nat) (x : Hoop) : (faultThread i q r x).calm = x.calm := by
  unfold faultThread
  extract_lets t
  split
  · split <;> simp
  · rfl

@[simp] theorem updPricked_calm (i : Nat) (f : Thread → Thread) (x : Hoop) : (updPricked i f x).calm = x.calm := prk_calm x _ (Prk.calm_upd ..)

@[simp] theorem prkPay_calm (i a : Nat) (ok : Bool) (x : Hoop) : (prkPay i a ok x).calm = x.calm := by
  unfold prkPay; split
  · rfl
  · split
    · rfl
    · split
      · rfl
      · exact ledAdd_calm ..

@[simp] theorem darkEyelet_calm (i c r : Nat) (x : Hoop) : (darkEyelet i c r x).calm = x.calm := by
  have h : ∀ y : Hoop, y = reqDark i (darkThread i c 0 r x) → y.calm = x.calm := by
    rintro _ rfl; simp
  unfold darkEyelet
  extract_lets y
  split
  · exact (updPricked_calm ..).trans ((prk_calm _ _ (Prk.calm_upd ..)).trans ((prkPay_calm ..).trans (h y rfl)))
  · exact h y rfl

/-! ## Faults -/

theorem fc_calm (x : Hoop) (f : Fc) : ({ x with fc := f } : Hoop).calm = x.calm := by
  apply Hoop.calm_upd x <;> with_reducible rfl

@[simp] theorem setSrc_calm (x : Hoop) (k : Nat) (v : Src) : (x.setSrc k v).calm = x.calm := fc_calm ..

@[simp] theorem capture_calm (k v : Nat) (w : Bool) (x : Hoop) : (capture k v w x).calm = x.calm := by
  unfold capture
  extract_lets c s1 y s2
  split
  · exact (fc_calm y _).trans (fc_calm x _)
  · exact fc_calm x _

@[simp] theorem tellFirst_calm (x : Hoop) : (tellFirst x).calm = x.calm := by
  unfold tellFirst; split
  · exact (raiseEv_calm ..).trans (fc_calm ..)
  · rfl

@[simp] theorem faultRecord_calm (k v : Nat) (w : Bool) (e : List Nat) (x : Hoop) : (faultRecord k v w e x).calm = x.calm := by
  unfold faultRecord
  extract_lets u sec num
  split
  · rfl
  · simp

@[simp] theorem react_calm (k d v : Nat) (x : Hoop) : (react k d v x).calm = x.calm := by
  have h1 : ∀ y : Hoop, (if 2 ≤ v then msixSend 32 { y with fc := { y.fc with hold := true, pulse := true, pulseEnd := y.now + 10000 } } else y).calm = y.calm := by
    intro y; split
    · exact (msixSend_calm ..).trans (fc_calm ..)
    · rfl
  have h2 : ∀ y : Hoop, (if v = 2 then (resolve y k d).foldl (fun y i => darkEyelet i 2 k y) y else y).calm = y.calm := by
    intro y; split
    · exact foldl_keeps Hoop.calm _ (fun y i => darkEyelet_calm i 2 k y) _ y
    · rfl
  unfold react
  extract_lets s1 y z s2 s3 s4
  have e : z.calm = x.calm := (h2 y).trans (h1 x)
  split
  · refine Eq.trans ?_ e
    apply Hoop.calm_upd z <;> first | with_reducible rfl | apply Dk.calm_upd | apply Tmb.calm_upd | apply Mbx.calm_upd
  · exact e

@[simp] theorem faultOn_calm (k d : Nat) (w : Bool) (e : List Nat) (x : Hoop) : (faultOn k d w e x).calm = x.calm := by
  unfold faultOn; split
  · rfl
  · extract_lets v a b c z
    split
    · rfl
    · have hc : c.calm = x.calm := (raiseEv_calm ..).trans ((pmcRaw_calm ..).trans ((capture_calm ..).trans (setSrc_calm ..)))
      have hz : z.calm = c.calm := by
        show (if w then raiseEv 453 [k] .hoop c else c).calm = c.calm
        split <;> simp
      exact (react_calm ..).trans ((faultRecord_calm ..).trans (hz.trans hc))

@[simp] theorem fault_calm (k d : Nat) (x : Hoop) : (fault k d x).calm = x.calm := faultOn_calm ..

@[simp] theorem faultOff_calm (k : Nat) (x : Hoop) : (faultOff k x).calm = x.calm := by
  unfold faultOff
  extract_lets v
  split
  · exact (raiseEv_calm ..).trans ((jnlPut_calm ..).trans (setSrc_calm ..))
  · rfl

/-! ## Module dark, roles, `settle` -/

@[simp] theorem darkPricked_calm (x : Hoop) : (darkPricked x).calm = x.calm := prk_calm x _ (Prk.calm_upd ..)

@[simp] theorem forceNeedles_calm (x : Hoop) : (forceNeedles x).calm = x.calm := by
  unfold forceNeedles
  extract_lets jumps y s1
  exact (drv_calm y _ (Drv.calm_upd ..)).trans (foldl_keeps Hoop.calm _ (fun y i => updNeedle_calm ..) jumps x)

@[simp] theorem engage_calm (c v : Nat) (r : Bool) (x : Hoop) : (engage c v r x).calm = x.calm := by
  unfold engage; split
  · rfl
  · extract_lets live w s1 s2 y z u
    have hy : y.calm = x.calm := by
      apply Hoop.calm_upd x <;> first | with_reducible rfl | apply Dk.calm_upd
    have hz : z.calm = x.calm :=
      (foldl_keeps Hoop.calm _ (fun y i => darkThread_calm i 5 0 c y) live _).trans ((ledFlag_calm ..).trans ((forceNeedles_calm ..).trans hy))
    exact (raiseEv_calm ..).trans ((msixSend_calm ..).trans ((jnlPut_calm ..).trans ((darkPricked_calm ..).trans hz)))

theorem pair_calm (x : Hoop) (p : Pair) (h : p.calm = x.pair.calm) : ({ x with pair := p } : Hoop).calm = x.calm := by
  apply Hoop.calm_upd x <;> first | with_reducible rfl | exact h

@[simp] theorem setRole_calm (r : Role) (c : Nat) (x : Hoop) : (setRole r c x).calm = x.calm := by
  unfold setRole; split
  · rfl
  · exact (raiseEv_calm ..).trans (pair_calm x _ (Pair.calm_upd ..))

theorem dk_calm (x : Hoop) (p : Dk) (h : p.calm = x.dk.calm) : ({ x with dk := p } : Hoop).calm = x.calm := by
  apply Hoop.calm_upd x <;> first | with_reducible rfl | exact h

@[simp] theorem settleVouch_calm (x : Hoop) : (settleVouch x).calm = x.calm := by
  unfold settleVouch
  extract_lets v
  split
  · rfl
  · exact (raiseEv_calm ..).trans (dk_calm x _ (Dk.calm_upd ..))

@[simp] theorem setStage_calm (st : Stage) (x : Hoop) : (setStage st x).calm = x.calm := by
  refine (raiseEv_calm ..).trans ?_
  apply Hoop.calm_upd x <;> first | with_reducible rfl | apply Boot.calm_upd

@[simp] theorem settleStage_calm (x : Hoop) : (settleStage x).calm = x.calm := by
  unfold settleStage; split <;> simp

/-- A change that keeps one hoop calm keeps every hoop calm. -/
theorem upd_calm (s : State) (h k : HoopId) (f : Hoop → Hoop) (e : ∀ x, (f x).calm = x.calm) : ((s.upd h f).hoop k).calm = (s.hoop k).calm := by
  unfold State.upd; split
  · cases h <;> cases k <;> simp [State.setHoop, State.hoop, e]
  · rfl

theorem setDuo_calm (s : State) (d : Duo) (k : HoopId) : ((s.setDuo d).hoop k).calm = (s.hoop k).calm := by cases k <;> rfl

/-- A fold of changes that keep hoop `k` calm. -/
theorem foldl_upd_calm (l : List HoopId) (s : State) (k : HoopId) (f : State → HoopId → State) (e : ∀ s h, ((f s h).hoop k).calm = (s.hoop k).calm) :
    ((l.foldl f s).hoop k).calm = (s.hoop k).calm := foldl_keeps (fun s : State => (s.hoop k).calm) f e l s

@[simp] theorem abandonHo_calm (c : Nat) (s : State) (k : HoopId) : ((abandonHo c s).hoop k).calm = (s.hoop k).calm := by
  unfold abandonHo; split
  · rfl
  · extract_lets t
    refine (setDuo_calm t _ k).trans (foldl_upd_calm _ s k _ ?_)
    intro s h
    refine upd_calm s h k _ ?_
    intro x
    refine (raiseEv_calm ..).trans ?_
    apply Hoop.calm_upd x <;> first | with_reducible rfl | apply Pair.calm_upd | apply Drv.calm_upd

@[simp] theorem settleS4_calm (s : State) (k : HoopId) : ((settleS4 s).hoop k).calm = (s.hoop k).calm := by
  unfold settleS4; split
  · rfl
  · refine foldl_upd_calm _ s k _ ?_
    intro s h
    refine upd_calm s h k _ ?_
    intro x; split <;> simp

@[simp] theorem settleHo_calm (s : State) (k : HoopId) : ((settleHo s).hoop k).calm = (s.hoop k).calm := by
  unfold settleHo; split
  · split
    · simp
    · split <;> (split <;> first | exact abandonHo_calm 4 s k | rfl)
  · rfl

@[simp] theorem settleRel_calm (s : State) (k : HoopId) : ((settleRel s).hoop k).calm = (s.hoop k).calm := by
  unfold settleRel; split
  · refine foldl_upd_calm _ s k _ ?_
    intro s h
    exact upd_calm s h k _ (fun x => dk_calm x _ (Dk.calm_upd ..))
  · rfl

@[simp] theorem cutWindows_calm (x : Hoop) : (cutWindows x).calm = x.calm := drv_calm x _ (Drv.calm_upd ..)

@[simp] theorem settleS3_calm (s : State) (h k : HoopId) : ((settleS3 s h).hoop k).calm = (s.hoop k).calm := by
  unfold settleS3
  extract_lets x
  split
  · rfl
  · split
    · exact upd_calm s h k _ (fun _ => engage_calm ..)
    · split
      · exact upd_calm s h k _ (fun _ => setRole_calm ..)
      · split
        · split
          · rfl
          · split
            · extract_lets o
              exact (setDuo_calm _ _ k).trans (upd_calm s h k _ cutWindows_calm)
            · refine foldl_upd_calm _ s k _ ?_
              intro s j
              exact upd_calm s j k _ (fun _ => engage_calm ..)
        · rfl

@[simp] theorem settleRole_calm (s : State) (h k : HoopId) : ((settleRole s h).hoop k).calm = (s.hoop k).calm := by
  have e : ∀ s : State, ((if (s.hoop h).pair.role = .resync ∧ (!((s.hoop h).liveSev 4).isEmpty ∨ (s.hoop (other h)).pair.role ≠ .active) then
      s.upd h (setRole .monitor 0xFFFF) else s).hoop k).calm = (s.hoop k).calm := by
    intro s; split
    · exact upd_calm s h k _ (fun _ => setRole_calm ..)
    · rfl
  unfold settleRole; split
  · rfl
  · extract_lets x t
    split
    · exact (upd_calm t h k _ (fun y => (setRole_calm ..).trans (pair_calm y _ (Pair.calm_upd ..)))).trans (e s)
    · exact e s

@[simp] theorem settleLink_calm (s : State) (h k : HoopId) : ((settleLink s h).hoop k).calm = (s.hoop k).calm := by
  unfold settleLink; split
  · rfl
  · extract_lets x p t u
    have ht : (t.hoop k).calm = (s.hoop k).calm := by
      refine upd_calm s p k _ ?_
      intro y; split
      · exact pair_calm y _ (Pair.calm_upd ..)
      · rfl
    have hu : (u.hoop k).calm = (t.hoop k).calm := by
      refine foldl_keeps (fun s : State => (s.hoop k).calm) _ ?_ _ t
      intro s b
      refine upd_calm s p k _ ?_
      intro y; split
      · simp
      · exact (pmcRaw_calm ..).trans (wlm_calm y _ (Wlm.calm_upd ..))
    refine (upd_calm u h k _ ?_).trans (hu.trans ht)
    intro y
    apply Hoop.calm_upd y <;> first | with_reducible rfl | apply Pair.calm_upd | apply Wlm.calm_upd

@[simp] theorem settlePins_hoop (s : State) (k : HoopId) : (settlePins s).hoop k = s.hoop k := by cases k <;> rfl

/-- `settle` keeps every hoop calm. -/
@[simp] theorem settle_calm (s : State) (k : HoopId) : ((settle s).hoop k).calm = (s.hoop k).calm := by
  unfold settle
  extract_lets s1 s2 s3 s4 s5
  have h1 : (s1.hoop k).calm = (s.hoop k).calm := by
    show ((settleHo (settleRel (settleS4 s))).hoop k).calm = _
    simp
  have h2 := foldl_upd_calm s1.hoops s1 k _ (fun s h => settleS3_calm s h k)
  have h3 := foldl_upd_calm s2.hoops s2 k _ (fun s h => settleRole_calm s h k)
  have h4 := foldl_upd_calm s3.hoops s3 k _ (fun s h => settleLink_calm s h k)
  have h5 : (s5.hoop k).calm = (s4.hoop k).calm := foldl_upd_calm s4.hoops s4 k _ (fun s h => upd_calm s h k _ (fun x => by simp))
  rw [settlePins_hoop]
  exact h5.trans (h4.trans (h3.trans (h2.trans h1)))

/-- A row's effect on its own hoop, but for what `settle` may change. -/
theorem act_calm (s : State) (h : HoopId) (f : Hoop → Hoop) (e : s.has h = true) : ((s.act h f).hoop h).calm = (f (s.hoop h)).calm := by
  unfold State.act
  rw [settle_calm]
  unfold State.upd
  rw [if_pos e]
  cases h <;> rfl

/-- The other hoop stays calm. -/
theorem act_calm_other (s : State) (h : HoopId) (f : Hoop → Hoop) : ((s.act h f).hoop (other h)).calm = (s.hoop (other h)).calm := by
  unfold State.act
  rw [settle_calm]
  unfold State.upd
  split
  · cases h <;> rfl
  · rfl

/-! ## Serving -/

theorem mbx_calm (x : Hoop) (m : Mbx) (h : m.calm = x.mbx.calm) : ({ x with mbx := m } : Hoop).calm = x.calm := by
  apply Hoop.calm_upd x <;> first | with_reducible rfl | exact h

@[simp] theorem remoteReply_calm (r : Nat) (m : Option Remote) (c : Cpl) (x : Hoop) : (remoteReply r m c x).calm = x.calm := by
  unfold remoteReply; split
  · exact mbx_calm x _ (Mbx.calm_upd ..)
  · rfl

@[simp] theorem noteAccepted_calm (st : Nat) (x : Hoop) : (noteAccepted st x).calm = x.calm := by
  unfold noteAccepted; split
  · exact mbx_calm x _ (Mbx.calm_upd ..)
  · rfl

@[simp] theorem completeFront_calm (r : Nat) (a : Ans) (o : Option (Nat × Stamp)) (x : Hoop) : (completeFront r a o x).calm = x.calm := by
  have h1 : ∀ y : Hoop, (if a.status = 0 then y else pmcRaw (80 + r) 1 y).calm = y.calm := by
    intro y; split <;> simp
  have h2 : ∀ (y : Hoop) (f : Nat × Stamp → Ring → Ring), (match o with | some q => y.updRing r (f q) | none => y).calm = y.calm := by
    intro y f; split <;> simp
  unfold completeFront
  extract_lets g ep
  split
  · rfl
  · extract_lets y hd st seq z mk ph u v w s1
    split
    · exact setRing_calm ..
    · have hz : z.calm = x.calm := (h2 y _).trans (setRing_calm ..)
      have hw : w.calm = x.calm := (remoteReply_calm ..).trans ((noteAccepted_calm ..).trans ((h1 u).trans ((putCpl_calm ..).trans hz)))
      split
      · exact (pair_calm w _ (Pair.calm_upd ..)).trans hw
      · exact hw

@[simp] theorem takeIn_calm (r : Nat) (x : Hoop) (g : Ring) (b : Bytes) (sl : Nat) (m : Option Remote) (f : Option Nat) : (takeIn r x g b sl m f).calm = x.calm := by
  unfold takeIn
  split
  exact (pmcRaw_calm ..).trans (setRing_calm ..)

theorem readOne_calm (r : Nat) (x y : Hoop) (h : readOne r x = some y) : y.calm = x.calm := by
  unfold readOne at h
  dsimp only at h
  split at h
  · cases h
  · split at h
    · cases h
    · split at h
      · cases h; exact takeIn_calm ..
      · cases h; exact takeIn_calm ..

@[simp] theorem pump_calm (n r : Nat) (x : Hoop) : (pump n r x).calm = x.calm := by
  induction n generalizing x with
  | zero => rfl
  | succ n ih =>
    unfold pump
    split
    · rename_i y h
      exact (ih y).trans (readOne_calm r x y h)
    · split
      · rfl
      · split
        · exact (ih _).trans (completeFront_calm ..)
        · split
          · rfl
          · split
            · exact (ih _).trans ((completeFront_calm ..).trans (updRing_calm ..))
            · rfl

@[simp] theorem pumpRing_calm (r : Nat) (x : Hoop) : (pumpRing r x).calm = x.calm :=
  (updRing_calm ..).trans (pump_calm ..)

@[simp] theorem served_calm (r : Nat) (c : ReadCmd) (x : Hoop) : (served r c x).calm = x.calm := by
  unfold served; split
  · rfl
  · split <;> exact mbx_calm x _ (Mbx.calm_upd ..)

@[simp] theorem breakRun_calm (r op : Nat) (x : Hoop) : (breakRun r op x).calm = x.calm := by
  unfold breakRun; split <;> simp

end Sys2Proof.Machine
end

