-- ==== Sys2Proof/Laws/Lines.lean ====
section
/-!
SUPPORT. What telling and `settle` leave alone in the fault collector: everything but FC_STATUS.DARK. So a source that a row asserts or clears is
live, sticky and counted after the row as the row left it.
-/

namespace Sys2Proof.Machine

theorem lines_of_fc (x y : Hoop) (h : y.fc = x.fc) : y.lines = x.lines := by
  simp only [Hoop.lines, h]

@[simp] theorem setRing_lines (x : Hoop) (r : Nat) (g : Ring) : (x.setRing r g).lines = x.lines := lines_of_fc _ _ rfl

theorem pmcRaw_fc (c n : Nat) (x : Hoop) : (pmcRaw c n x).fc = x.fc := by
  unfold pmcRaw; split
  · extract_lets
    split <;> rfl
  · rfl

@[simp] theorem pmcRaw_lines (c n : Nat) (x : Hoop) : (pmcRaw c n x).lines = x.lines := lines_of_fc _ _ (by rw [pmcRaw_fc])

@[simp] theorem msixSend_lines (v : Nat) (x : Hoop) : (msixSend v x).lines = x.lines :=
  (pmcRaw_lines ..).trans (lines_of_fc _ _ rfl)

@[simp] theorem putEventAt_lines (st : Stamp) (r src : Nat) (p : List Nat) (x : Hoop) : (putEventAt st r src p x).lines = x.lines := by
  unfold putEventAt
  extract_lets g
  split
  · exact (msixSend_lines ..).trans (setRing_lines x r _)
  · exact setRing_lines x r _

@[simp] theorem deliverEvAt_lines (st : Stamp) (r src : Nat) (p : List Nat) (x : Hoop) : (deliverEvAt st r src p x).lines = x.lines := by
  unfold deliverEvAt
  extract_lets g
  split
  · rfl
  · split
    · refine (pmcRaw_lines ..).trans (Eq.trans (lines_of_fc (x.setRing r { g with evtDrop := satInc g.evtDrop, dropsPending := g.dropsPending + 1 }) _ rfl) ?_)
      exact setRing_lines x r _
    · exact putEventAt_lines ..

@[simp] theorem raiseEv_lines (src : Nat) (p : List Nat) (sc : Scope) (x : Hoop) : (raiseEv src p sc x).lines = x.lines := by
  have h2 : ∀ y : Hoop, (if y.evt.sub.getLsbD src then deliverEv 0 src p y else y).lines = y.lines := by
    intro y; split
    · exact deliverEvAt_lines ..
    · rfl
  unfold raiseEv
  extract_lets s1 z s2 w
  have hz : z.lines = x.lines := (pmcRaw_lines ..).trans (lines_of_fc _ _ rfl)
  split
  · split
    · exact (lines_of_fc z _ rfl).trans hz
    · exact hz
  · split
    · refine (foldl_keeps Hoop.lines _ ?_ _ w).trans ((h2 z).trans hz)
      intro y r; split
      · exact deliverEvAt_lines ..
      · rfl
    · exact hz

@[simp] theorem pmcTell_lines (x : Hoop) : (pmcTell x).lines = x.lines := by
  unfold pmcTell
  extract_lets fresh
  refine (foldl_keeps Hoop.lines _ ?_ _ _).trans ?_
  · intro y c; split <;> simp
  · exact lines_of_fc _ _ rfl

@[simp] theorem jnlLose_lines (j : JRec) (x : Hoop) : (jnlLose j x).lines = x.lines := by
  unfold jnlLose
  extract_lets
  exact (raiseEv_lines ..).trans (lines_of_fc _ _ rfl)

@[simp] theorem jnlQueue_lines (j : JRec) (x : Hoop) : (jnlQueue j x).lines = x.lines := by
  have h : ∀ y : Hoop, (if y.jnl.buf.isEmpty then { y with jnl := { y.jnl with oldest := y.now } } else y).lines = y.lines := by
    intro y; split
    · exact lines_of_fc _ _ rfl
    · rfl
  unfold jnlQueue
  extract_lets s1 z s2
  split
  · exact (lines_of_fc z _ rfl).trans (h x)
  · split
    · exact (jnlLose_lines ..).trans ((lines_of_fc z _ rfl).trans (h x))
    · exact (jnlLose_lines ..).trans (h x)

@[simp] theorem jnlPut_lines (ty sev src : Nat) (w : Bool) (p : Bytes) (x : Hoop) : (jnlPut ty sev src w p x).lines = x.lines := jnlQueue_lines ..

@[simp] theorem sendFrame_lines (k : Nat) (tel : Bool) (b : Bytes) (x : Hoop) : (sendFrame k tel b x).lines = x.lines := by
  have h : ∀ (y : Hoop) (src : Nat) (p : List Nat), (if y.wlm.qdropEvSec = some (y.now / 1000000000) then y else
      raiseEv src p .hoop { y with wlm := { y.wlm with qdropEvSec := some (y.now / 1000000000) } }).lines = y.lines := by
    intro y src p; split
    · rfl
    · exact (raiseEv_lines ..).trans (lines_of_fc _ _ rfl)
  unfold sendFrame
  split
  · exact (h _ _ _).trans (lines_of_fc _ _ rfl)
  · exact (pmcRaw_lines ..).trans (lines_of_fc _ _ rfl)

@[simp] theorem sendToward_lines (tel : Bool) (b : Bytes) (x : Hoop) : (sendToward tel b x).lines = x.lines := by
  unfold sendToward
  split
  · simp
  · split
    · exact lines_of_fc _ _ rfl
    · exact (pmcRaw_lines ..).trans (lines_of_fc _ _ rfl)

@[simp] theorem originate_lines (dst ty : Nat) (p : Bytes) (x : Hoop) : (originate dst ty p x).lines = x.lines := by
  unfold originate
  extract_lets seq b s1 z
  have h : z.lines = x.lines := lines_of_fc _ _ rfl
  split
  · refine (foldl_keeps Hoop.lines _ ?_ _ z).trans h
    intro y k; simp
  · exact (sendToward_lines ..).trans h

@[simp] theorem threadEvent_lines (i : Nat) (t : Thread) (p : ThreadSt) (c q r l : Nat) (x : Hoop) : (threadEvent i t p c q r l x).lines = x.lines :=
  (raiseEv_lines ..).trans (jnlPut_lines ..)

@[simp] theorem countSt_lines (st : ThreadSt) (x : Hoop) : (countSt st x).lines = x.lines := by
  unfold countSt; split <;> simp

@[simp] theorem setSt_lines (i : Nat) (st : ThreadSt) (c q r : Nat) (x : Hoop) : (setSt i st c q r x).lines = x.lines :=
  (threadEvent_lines ..).trans ((countSt_lines ..).trans (lines_of_fc _ _ rfl))

@[simp] theorem ledEnd_lines (i a : Nat) (c : Bool) (x : Hoop) : (ledEnd i a c x).lines = x.lines := by
  unfold ledEnd; split
  · rfl
  · exact lines_of_fc _ _ rfl

@[simp] theorem dropParts_lines (i : Nat) (x : Hoop) : (dropParts i x).lines = x.lines := by
  unfold dropParts
  extract_lets alone hit y
  refine Eq.trans ?_ (foldl_keeps Hoop.lines restoreElem (fun _ _ => lines_of_fc _ _ rfl) alone x)
  exact lines_of_fc y _ rfl

@[simp] theorem sendNotices_lines (c : Chain) (i k : Nat) (x : Hoop) : (sendNotices c i k x).lines = x.lines := by
  refine foldl_keeps Hoop.lines _ ?_ _ x
  intro y a
  exact (originate_lines ..).trans (lines_of_fc _ _ rfl)

@[simp] theorem notify_lines (i c : Nat) (x : Hoop) : (notify i c x).lines = x.lines := by
  unfold notify; split
  · rfl
  · split
    · rfl
    · extract_lets y
      exact (raiseEv_lines ..).trans ((lines_of_fc y _ rfl).trans (sendNotices_lines ..))

@[simp] theorem override_lines (i : Nat) (b : Bool) (x : Hoop) : (override i b x).lines = x.lines := lines_of_fc _ _ rfl

@[simp] theorem outcomes_lines (x : Hoop) : (outcomes x).lines = x.lines := by
  unfold outcomes
  extract_lets ready
  refine (foldl_keeps Hoop.lines _ (fun y j => ?_) ready _).trans (lines_of_fc _ _ rfl)
  exact (raiseEv_lines ..).trans ((jnlPut_lines ..).trans (lines_of_fc _ _ rfl))

@[simp] theorem updThread_lines (x : Hoop) (i : Nat) (f : Thread → Thread) : (x.updThread i f).lines = x.lines := lines_of_fc _ _ rfl

@[simp] theorem darkThread_lines (i c q r : Nat) (x : Hoop) : (darkThread i c q r x).lines = x.lines := by
  unfold darkThread; split
  · split <;> simp
  · rfl

@[simp] theorem forceNeedles_lines (x : Hoop) : (forceNeedles x).lines = x.lines := by
  unfold forceNeedles
  extract_lets jumps y s1
  exact (lines_of_fc y _ rfl).trans (foldl_keeps Hoop.lines (fun (y : Hoop) i => y.updNeedle (y.eyelet i) (fun v => { v with track := true })) (fun _ _ => lines_of_fc _ _ rfl) jumps x)

@[simp] theorem engage_lines (c v : Nat) (r : Bool) (x : Hoop) : (engage c v r x).lines = x.lines := by
  unfold engage; split
  · rfl
  · extract_lets live w s1 s2 y z u
    have hz : z.lines = x.lines :=
      (foldl_keeps Hoop.lines _ (fun y i => darkThread_lines i 5 0 c y) live _).trans
        ((lines_of_fc _ (ledFlag 4 (forceNeedles y)) rfl).trans ((forceNeedles_lines y).trans rfl))
    exact (raiseEv_lines ..).trans ((msixSend_lines ..).trans ((jnlPut_lines ..).trans ((lines_of_fc z _ rfl).trans hz)))

@[simp] theorem setRole_lines (r : Role) (c : Nat) (x : Hoop) : (setRole r c x).lines = x.lines := by
  unfold setRole; split
  · rfl
  · exact (raiseEv_lines ..).trans (lines_of_fc _ _ rfl)

@[simp] theorem settleVouch_lines (x : Hoop) : (settleVouch x).lines = x.lines := by
  unfold settleVouch
  extract_lets v
  split
  · rfl
  · exact (raiseEv_lines ..).trans (lines_of_fc _ _ rfl)

@[simp] theorem tellFirst_lines (x : Hoop) : (tellFirst x).lines = x.lines := by
  unfold tellFirst; split
  · exact (raiseEv_lines ..).trans rfl
  · rfl

@[simp] theorem settleStage_lines (x : Hoop) : (settleStage x).lines = x.lines := by
  unfold settleStage; split
  · exact (raiseEv_lines ..).trans (lines_of_fc _ _ rfl)
  · rfl

theorem upd_lines (s : State) (h k : HoopId) (f : Hoop → Hoop) (e : ∀ x, (f x).lines = x.lines) : ((s.upd h f).hoop k).lines = (s.hoop k).lines := by
  unfold State.upd; split
  · cases h <;> cases k <;> simp [State.setHoop, State.hoop, e]
  · rfl

theorem setDuo_lines (s : State) (d : Duo) (k : HoopId) : ((s.setDuo d).hoop k).lines = (s.hoop k).lines := by cases k <;> rfl

theorem foldl_upd_lines (l : List HoopId) (s : State) (k : HoopId) (f : State → HoopId → State) (e : ∀ s h, ((f s h).hoop k).lines = (s.hoop k).lines) :
    ((l.foldl f s).hoop k).lines = (s.hoop k).lines := foldl_keeps (fun s : State => (s.hoop k).lines) f e l s

@[simp] theorem abandonHo_lines (c : Nat) (s : State) (k : HoopId) : ((abandonHo c s).hoop k).lines = (s.hoop k).lines := by
  unfold abandonHo; split
  · rfl
  · extract_lets t
    refine (setDuo_lines t _ k).trans (foldl_upd_lines _ s k _ ?_)
    intro s h
    exact upd_lines s h k _ (fun x => (raiseEv_lines ..).trans (lines_of_fc _ _ rfl))

@[simp] theorem settleS4_lines (s : State) (k : HoopId) : ((settleS4 s).hoop k).lines = (s.hoop k).lines := by
  unfold settleS4; split
  · rfl
  · refine foldl_upd_lines _ s k _ ?_
    intro s h
    refine upd_lines s h k _ ?_
    intro x; split <;> simp

@[simp] theorem settleHo_lines (s : State) (k : HoopId) : ((settleHo s).hoop k).lines = (s.hoop k).lines := by
  unfold settleHo; split
  · split
    · simp
    · split <;> (split <;> first | exact abandonHo_lines 4 s k | rfl)
  · rfl

@[simp] theorem settleRel_lines (s : State) (k : HoopId) : ((settleRel s).hoop k).lines = (s.hoop k).lines := by
  unfold settleRel; split
  · refine foldl_upd_lines _ s k _ ?_
    intro s h
    exact upd_lines s h k _ (fun x => lines_of_fc _ _ rfl)
  · rfl

@[simp] theorem settleS3_lines (s : State) (h k : HoopId) : ((settleS3 s h).hoop k).lines = (s.hoop k).lines := by
  unfold settleS3
  extract_lets x
  split
  · rfl
  · split
    · exact upd_lines s h k _ (fun _ => engage_lines ..)
    · split
      · exact upd_lines s h k _ (fun _ => setRole_lines ..)
      · split
        · split
          · rfl
          · split
            · extract_lets o
              refine (setDuo_lines _ _ k).trans (upd_lines s h k cutWindows ?_)
              intro y
              exact lines_of_fc _ _ rfl
            · refine foldl_upd_lines _ s k _ ?_
              intro s j
              exact upd_lines s j k _ (fun _ => engage_lines ..)
        · rfl

@[simp] theorem settleRole_lines (s : State) (h k : HoopId) : ((settleRole s h).hoop k).lines = (s.hoop k).lines := by
  have e : ∀ s : State, ((if (s.hoop h).pair.role = .resync ∧ (!((s.hoop h).liveSev 4).isEmpty ∨ (s.hoop (other h)).pair.role ≠ .active) then
      s.upd h (setRole .monitor 0xFFFF) else s).hoop k).lines = (s.hoop k).lines := by
    intro s; split
    · exact upd_lines s h k _ (fun _ => setRole_lines ..)
    · rfl
  unfold settleRole; split
  · rfl
  · extract_lets x t
    split
    · refine (upd_lines t h k _ ?_).trans (e s)
      intro y
      exact (setRole_lines ..).trans (lines_of_fc _ _ rfl)
    · exact e s

@[simp] theorem settleLink_lines (s : State) (h k : HoopId) : ((settleLink s h).hoop k).lines = (s.hoop k).lines := by
  unfold settleLink; split
  · rfl
  · extract_lets x p t u
    have ht : (t.hoop k).lines = (s.hoop k).lines := by
      refine upd_lines s p k _ ?_
      intro y; split
      · exact lines_of_fc _ _ rfl
      · rfl
    have hu : (u.hoop k).lines = (t.hoop k).lines := by
      refine foldl_keeps (fun s : State => (s.hoop k).lines) _ ?_ _ t
      intro s b
      refine upd_lines s p k _ ?_
      intro y; split
      · simp
      · exact (pmcRaw_lines ..).trans (lines_of_fc _ _ rfl)
    refine (upd_lines u h k _ ?_).trans (hu.trans ht)
    intro y
    exact lines_of_fc _ _ rfl

/-- `settle` leaves the rings alone but for their event entries. -/
@[simp] theorem settle_lines (s : State) (k : HoopId) : ((settle s).hoop k).lines = (s.hoop k).lines := by
  unfold settle
  extract_lets s1 s2 s3 s4 s5
  have h1 : (s1.hoop k).lines = (s.hoop k).lines := by
    show ((settleHo (settleRel (settleS4 s))).hoop k).lines = _
    simp
  have h2 := foldl_upd_lines s1.hoops s1 k _ (fun s h => settleS3_lines s h k)
  have h3 := foldl_upd_lines s2.hoops s2 k _ (fun s h => settleRole_lines s h k)
  have h4 := foldl_upd_lines s3.hoops s3 k _ (fun s h => settleLink_lines s h k)
  have h5 : (s5.hoop k).lines = (s4.hoop k).lines := foldl_upd_lines s4.hoops s4 k _ (fun s h => upd_lines s h k _ (fun x => by simp))
  rw [settlePins_hoop]
  exact h5.trans (h4.trans (h3.trans (h2.trans h1)))

theorem act_lines (s : State) (h : HoopId) (f : Hoop → Hoop) (e : s.has h = true) : ((s.act h f).hoop h).lines = (f (s.hoop h)).lines := by
  unfold State.act
  rw [settle_lines]
  unfold State.upd
  rw [if_pos e]
  cases h <;> rfl

end Sys2Proof.Machine
end

