-- ==== Sys2Proof/Laws/Quiet.lean ====
section
/-!
SUPPORT. `Hoop.core` is the hoop without what telling, completions and links may change. Where no S3 or S4 source is live and no hand-over is
under way, `settle` keeps it: threads, commits, codes, pricking and Tambour read after it as before.
-/

namespace Sys2Proof.Machine

theorem Dk.core_upd (b : Dk) (v0 : Bool) :
    ({ b with vouch := v0 } : Dk).core = b.core := rfl

theorem Fc.core_upd (b : Fc) (v0 : Bool) :
    ({ b with firstNew := v0 } : Fc).core = b.core := rfl

theorem Pair.core_upd (b : Pair) (v0 : Role) (v1 : Bool) (v2 : List Digest) (v3 : List Digest) :
    ({ b with role := v0, token := v1, sent := v2, awaiting := v3 } : Pair).core = b.core := rfl

theorem Wlm.core_upd (b : Wlm) (v0 : List TxFrame) (v1 : SMap Link) (v2 : BitVec 16) (v3 : List Bytes) (v4 : Option Nat) :
    ({ b with tx := v0, links := v1, noRoute := v2, handOff := v3, qdropEvSec := v4 } : Wlm).core = b.core := rfl

/-- An update of blocks that keeps each of them keeps the core. -/
theorem Hoop.core_upd (x : Hoop) (pmc : Pmc) (evt : Evt) (mbx : Mbx) (jnl : Jnl) (boot : Boot) (dk : Dk) (pair : Pair) (wlm : Wlm) (fc : Fc)
    (h0 : dk.core = x.dk.core) (h1 : pair.core = x.pair.core) (h2 : wlm.core = x.wlm.core) (h3 : fc.core = x.fc.core) :
    ({ x with pmc := pmc, evt := evt, mbx := mbx, jnl := jnl, boot := boot, dk := dk, pair := pair, wlm := wlm, fc := fc } : Hoop).core = x.core := by
  simp only [Hoop.core, h0, h1, h2, h3]

/-! ## Telling -/

@[simp] theorem pmcRaw_core (c n : Nat) (x : Hoop) : (pmcRaw c n x).core = x.core := by
  unfold pmcRaw
  split
  · extract_lets v pre v'
    split <;> (apply Hoop.core_upd x <;> with_reducible rfl)
  · rfl

@[simp] theorem setRing_core (x : Hoop) (r : Nat) (g : Ring) : (x.setRing r g).core = x.core := by
  unfold Hoop.setRing
  apply Hoop.core_upd x <;> with_reducible rfl

@[simp] theorem updRing_core (x : Hoop) (r : Nat) (f : Ring → Ring) : (x.updRing r f).core = x.core := setRing_core ..

@[simp] theorem msixSend_core (v : Nat) (x : Hoop) : (msixSend v x).core = x.core := by
  refine (pmcRaw_core ..).trans ?_
  apply Hoop.core_upd x <;> with_reducible rfl

@[simp] theorem putEventAt_core (st : Stamp) (r src : Nat) (p : List Nat) (x : Hoop) : (putEventAt st r src p x).core = x.core := by
  unfold putEventAt
  extract_lets
  split
  · exact (msixSend_core ..).trans (setRing_core ..)
  · exact setRing_core ..

@[simp] theorem deliverEvAt_core (st : Stamp) (r src : Nat) (p : List Nat) (x : Hoop) : (deliverEvAt st r src p x).core = x.core := by
  unfold deliverEvAt
  extract_lets g
  split
  · rfl
  · split
    · refine (pmcRaw_core ..).trans (Eq.trans ?_ (setRing_core x r { g with evtDrop := satInc g.evtDrop, dropsPending := g.dropsPending + 1 }))
      apply Hoop.core_upd (x.setRing r _) <;> with_reducible rfl
    · exact putEventAt_core ..

@[simp] theorem deliverEv_core (r src : Nat) (p : List Nat) (x : Hoop) : (deliverEv r src p x).core = x.core := deliverEvAt_core ..

@[simp] theorem raiseEv_core (src : Nat) (p : List Nat) (sc : Scope) (x : Hoop) : (raiseEv src p sc x).core = x.core := by
  have h2 : ∀ y : Hoop, (if y.evt.sub.getLsbD src then deliverEv 0 src p y else y).core = y.core := by
    intro y; split <;> simp
  unfold raiseEv
  extract_lets s1 z s2 w
  have h0 : z.core = x.core := by
    refine (pmcRaw_core ..).trans ?_
    apply Hoop.core_upd x <;> with_reducible rfl
  split
  · split
    · refine Eq.trans ?_ h0
      apply Hoop.core_upd z <;> with_reducible rfl
    · exact h0
  · split
    · refine (foldl_keeps Hoop.core _ ?_ _ w).trans ((h2 z).trans h0)
      intro y r; split <;> simp
    · exact h0

@[simp] theorem pmcTell_core (x : Hoop) : (pmcTell x).core = x.core := by
  unfold pmcTell
  extract_lets fresh
  refine (foldl_keeps Hoop.core _ ?_ _ _).trans ?_
  · intro y c; split <;> simp
  · apply Hoop.core_upd x <;> with_reducible rfl

@[simp] theorem jnlLose_core (j : JRec) (x : Hoop) : (jnlLose j x).core = x.core := by
  unfold jnlLose
  extract_lets
  refine (raiseEv_core ..).trans ?_
  apply Hoop.core_upd x <;> with_reducible rfl

theorem jnl_core (y : Hoop) (j : Jnl) : ({ y with jnl := j } : Hoop).core = y.core := by
  apply Hoop.core_upd y <;> with_reducible rfl

@[simp] theorem jnlQueue_core (j : JRec) (x : Hoop) : (jnlQueue j x).core = x.core := by
  have h : ∀ y : Hoop, (if y.jnl.buf.isEmpty then { y with jnl := { y.jnl with oldest := y.now } } else y).core = y.core := by
    intro y; split
    · exact jnl_core y _
    · rfl
  unfold jnlQueue
  extract_lets s1 z s2
  split
  · exact (jnl_core z _).trans (h x)
  · split
    · exact (jnlLose_core ..).trans ((jnl_core z _).trans (h x))
    · exact (jnlLose_core ..).trans (h x)

@[simp] theorem jnlPut_core (ty sev src : Nat) (w : Bool) (p : Bytes) (x : Hoop) : (jnlPut ty sev src w p x).core = x.core := jnlQueue_core ..

@[simp] theorem putCpl_core (r : Nat) (mk : Nat → Bool → Cpl) (x : Hoop) : (putCpl r mk x).core = x.core := by
  unfold putCpl
  extract_lets
  split
  · exact (msixSend_core ..).trans (setRing_core ..)
  · exact setRing_core ..

@[simp] theorem threadEvent_core (i : Nat) (t : Thread) (p : ThreadSt) (c q r l : Nat) (x : Hoop) : (threadEvent i t p c q r l x).core = x.core :=
  (raiseEv_core ..).trans (jnlPut_core ..)

@[simp] theorem countSt_core (st : ThreadSt) (x : Hoop) : (countSt st x).core = x.core := by
  unfold countSt; split <;> simp

/-- A state change leaves but the thread. -/
theorem setSt_core (i : Nat) (st : ThreadSt) (c q r : Nat) (x : Hoop) :
    (setSt i st c q r x).core = (x.setThread i { x.thread i with st := st }).core :=
  (threadEvent_core ..).trans (countSt_core ..)

/-! ## Frames on links -/

theorem wlm_core (x : Hoop) (w : Wlm) (h : w.core = x.wlm.core) : ({ x with wlm := w } : Hoop).core = x.core := by
  apply Hoop.core_upd x <;> first | with_reducible rfl | exact h

@[simp] theorem sendFrame_core (k : Nat) (tel : Bool) (b : Bytes) (x : Hoop) : (sendFrame k tel b x).core = x.core := by
  have h : ∀ (y : Hoop) (src : Nat) (p : List Nat), (if y.wlm.qdropEvSec = some (y.now / 1000000000) then y else
      raiseEv src p .hoop { y with wlm := { y.wlm with qdropEvSec := some (y.now / 1000000000) } }).core = y.core := by
    intro y src p; split
    · rfl
    · exact (raiseEv_core ..).trans (wlm_core y _ (Wlm.core_upd ..))
  unfold sendFrame
  split
  · exact (h _ _ _).trans (wlm_core x _ (Wlm.core_upd ..))
  · exact (pmcRaw_core ..).trans ((wlm_core _ _ (Wlm.core_upd ..)).trans (wlm_core x _ (Wlm.core_upd ..)))

/-! ## Completions and reading -/

@[simp] theorem remoteReply_core (r : Nat) (m : Option Remote) (c : Cpl) (x : Hoop) : (remoteReply r m c x).core = x.core := by
  unfold remoteReply; split
  · apply Hoop.core_upd x <;> with_reducible rfl
  · rfl

theorem pair_core (x : Hoop) (p : Pair) (h : p.core = x.pair.core) : ({ x with pair := p } : Hoop).core = x.core := by
  apply Hoop.core_upd x <;> first | with_reducible rfl | exact h

@[simp] theorem noteAccepted_core (st : Nat) (x : Hoop) : (noteAccepted st x).core = x.core := by
  unfold noteAccepted; split
  · apply Hoop.core_upd x <;> with_reducible rfl
  · rfl

@[simp] theorem completeFront_core (r : Nat) (a : Ans) (o : Option (Nat × Stamp)) (x : Hoop) : (completeFront r a o x).core = x.core := by
  have h1 : ∀ y : Hoop, (if a.status = 0 then y else pmcRaw (80 + r) 1 y).core = y.core := by
    intro y; split <;> simp
  have h2 : ∀ (y : Hoop) (f : Nat × Stamp → Ring → Ring), (match o with | some q => y.updRing r (f q) | none => y).core = y.core := by
    intro y f; split <;> simp
  unfold completeFront
  extract_lets g ep
  split
  · rfl
  · extract_lets y hd st seq z mk ph u v w s1
    split
    · exact setRing_core ..
    · have hz : z.core = x.core := (h2 y _).trans (setRing_core ..)
      have hw : w.core = x.core := (remoteReply_core ..).trans ((noteAccepted_core ..).trans ((h1 u).trans ((putCpl_core ..).trans hz)))
      split
      · exact (pair_core w _ (Pair.core_upd ..)).trans hw
      · exact hw

@[simp] theorem takeIn_core (r : Nat) (x : Hoop) (g : Ring) (b : Bytes) (sl : Nat) (m : Option Remote) (f : Option Nat) : (takeIn r x g b sl m f).core = x.core := by
  unfold takeIn
  split
  exact (pmcRaw_core ..).trans (setRing_core ..)

theorem readOne_core (r : Nat) (x y : Hoop) (h : readOne r x = some y) : y.core = x.core := by
  unfold readOne at h
  dsimp only at h
  split at h
  · cases h
  · split at h
    · cases h
    · split at h
      · cases h; exact takeIn_core ..
      · cases h; exact takeIn_core ..

@[simp] theorem pump_core (n r : Nat) (x : Hoop) : (pump n r x).core = x.core := by
  induction n generalizing x with
  | zero => rfl
  | succ n ih =>
    unfold pump
    split
    · rename_i y h
      exact (ih y).trans (readOne_core r x y h)
    · split
      · rfl
      · split
        · exact (ih _).trans (completeFront_core ..)
        · split
          · rfl
          · split
            · exact (ih _).trans ((completeFront_core ..).trans (updRing_core ..))
            · rfl

@[simp] theorem pumpRing_core (r : Nat) (x : Hoop) : (pumpRing r x).core = x.core :=
  (updRing_core ..).trans (pump_core ..)

@[simp] theorem served_core (r : Nat) (c : ReadCmd) (x : Hoop) : (served r c x).core = x.core := by
  unfold served; split
  · rfl
  · split <;> (apply Hoop.core_upd x <;> with_reducible rfl)

@[simp] theorem breakRun_core (r op : Nat) (x : Hoop) : (breakRun r op x).core = x.core := by
  unfold breakRun; split <;> simp

/-! ## A quiet `settle` -/

@[simp] theorem setRole_core (r : Role) (c : Nat) (x : Hoop) : (setRole r c x).core = x.core := by
  unfold setRole; split
  · rfl
  · exact (raiseEv_core ..).trans (pair_core x _ (Pair.core_upd ..))

@[simp] theorem settleVouch_core (x : Hoop) : (settleVouch x).core = x.core := by
  unfold settleVouch
  extract_lets v
  split
  · rfl
  · refine (raiseEv_core ..).trans ?_
    apply Hoop.core_upd x <;> first | with_reducible rfl | apply Dk.core_upd

@[simp] theorem tellFirst_core (x : Hoop) : (tellFirst x).core = x.core := by
  unfold tellFirst; split
  · refine (raiseEv_core ..).trans ?_
    apply Hoop.core_upd x <;> first | with_reducible rfl | apply Fc.core_upd
  · rfl

@[simp] theorem settleStage_core (x : Hoop) : (settleStage x).core = x.core := by
  unfold settleStage; split
  · refine (raiseEv_core ..).trans ?_
    apply Hoop.core_upd x <;> with_reducible rfl
  · rfl

theorem upd_core (s : State) (h k : HoopId) (f : Hoop → Hoop) (e : ∀ x, (f x).core = x.core) : ((s.upd h f).hoop k).core = (s.hoop k).core := by
  unfold State.upd; split
  · cases h <;> cases k <;> simp [State.setHoop, State.hoop, e]
  · rfl

theorem foldl_upd_core (l : List HoopId) (s : State) (k : HoopId) (f : State → HoopId → State) (e : ∀ s h, ((f s h).hoop k).core = (s.hoop k).core) :
    ((l.foldl f s).hoop k).core = (s.hoop k).core := foldl_keeps (fun s : State => (s.hoop k).core) f e l s

theorem settleRole_core (s : State) (h k : HoopId) : ((settleRole s h).hoop k).core = (s.hoop k).core := by
  have e : ∀ s : State, ((if (s.hoop h).pair.role = .resync ∧ (!((s.hoop h).liveSev 4).isEmpty ∨ (s.hoop (other h)).pair.role ≠ .active) then
      s.upd h (setRole .monitor 0xFFFF) else s).hoop k).core = (s.hoop k).core := by
    intro s; split
    · exact upd_core s h k _ (fun _ => setRole_core ..)
    · rfl
  unfold settleRole; split
  · rfl
  · extract_lets x t
    split
    · exact (upd_core t h k _ (fun y => (setRole_core ..).trans (pair_core y _ (Pair.core_upd ..)))).trans (e s)
    · exact e s

theorem settleLink_core (s : State) (h k : HoopId) : ((settleLink s h).hoop k).core = (s.hoop k).core := by
  unfold settleLink; split
  · rfl
  · extract_lets x p t u
    have ht : (t.hoop k).core = (s.hoop k).core := by
      refine upd_core s p k _ ?_
      intro y; split
      · exact pair_core y _ (Pair.core_upd ..)
      · rfl
    have hu : (u.hoop k).core = (t.hoop k).core := by
      refine foldl_keeps (fun s : State => (s.hoop k).core) _ ?_ _ t
      intro s b
      refine upd_core s p k _ ?_
      intro y; split
      · simp
      · exact (pmcRaw_core ..).trans (wlm_core y _ (Wlm.core_upd ..))
    refine (upd_core u h k _ ?_).trans (hu.trans ht)
    intro y
    apply Hoop.core_upd y <;> first | with_reducible rfl | apply Pair.core_upd | apply Wlm.core_upd

theorem lineOn_false (x : Hoop) (h : x.lineOn = false) : x.liveSev 3 = [] ∧ x.liveSev 4 = [] := by
  simpa [Hoop.lineOn] using h

/-- Without a live S3 or S4 and without a hand-over, no force engages and no hand-over ends. -/
theorem quiet_lines (s : State) (q : s.quiet = true) : settleHo (settleRel (settleS4 s)) = s := by
  simp only [State.quiet, Bool.and_eq_true, List.all_eq_true, Bool.not_eq_true', Option.isNone_iff_eq_none] at q
  obtain ⟨ql, qh⟩ := q
  have e1 : settleS4 s = s := by
    unfold settleS4
    have : s.hoops.filterMap (fun h => (s.hoop h).crossLine) = [] := by
      rw [List.filterMap_eq_nil_iff]
      intro h hh
      unfold Hoop.crossLine
      rw [(ql h hh).2, (lineOn_false _ (ql h hh).1).2]; rfl
    rw [this]
  have e2 : settleRel s = s := by
    unfold settleRel
    rw [if_neg]
    simp only [List.any_eq_true, not_exists, not_and, Bool.not_eq_true]
    exact fun h hh => (ql h hh).1
  have e3 : settleHo s = s := by
    unfold settleHo; rw [qh]
  rw [e1, e2, e3]

/-- And no hoop acts on an S3. -/
theorem quiet_s3 (s : State) (q : s.quiet = true) : s.hoops.foldl settleS3 s = s := by
  simp only [State.quiet, Bool.and_eq_true, List.all_eq_true, Bool.not_eq_true', Option.isNone_iff_eq_none] at q
  obtain ⟨ql, qh⟩ := q
  have e4 : ∀ l : List HoopId, (∀ h ∈ l, h ∈ s.hoops) → l.foldl settleS3 s = s := by
    intro l
    induction l with
    | nil => intro _; rfl
    | cons h l ih =>
      intro hl
      have : settleS3 s h = s := by
        unfold settleS3
        extract_lets x
        have : x.liveSev 3 = [] := (lineOn_false _ (ql h (hl h (by simp))).1).1
        rw [this]; rfl
      rw [List.foldl_cons, this]
      exact ih (fun j hj => hl j (by simp [hj]))
  exact e4 _ (fun _ h => h)

/-- A quiet `settle` keeps the core of every hoop. -/
theorem settle_core (s : State) (q : s.quiet = true) (k : HoopId) : ((settle s).hoop k).core = (s.hoop k).core := by
  unfold settle
  extract_lets s1 s2 s3 s4 s5
  have h1 : s1 = s := quiet_lines s q
  have h2 : s2 = s := by
    show s1.hoops.foldl settleS3 s1 = s
    rw [h1]; exact quiet_s3 s q
  have h3 := foldl_upd_core s2.hoops s2 k _ (fun s h => settleRole_core s h k)
  have h4 := foldl_upd_core s3.hoops s3 k _ (fun s h => settleLink_core s h k)
  have h5 : (s5.hoop k).core = (s4.hoop k).core := foldl_upd_core s4.hoops s4 k _ (fun s h => upd_core s h k _ (fun x => by simp))
  rw [settlePins_hoop]
  exact h5.trans (h4.trans (h3.trans (by rw [h2])))

/-- A row's effect on its own hoop where the module stays quiet. -/
theorem act_core (s : State) (h : HoopId) (f : Hoop → Hoop) (e : s.has h = true) (q : (s.upd h f).quiet = true) :
    ((s.act h f).hoop h).core = (f (s.hoop h)).core := by
  unfold State.act
  rw [settle_core _ q]
  unfold State.upd
  rw [if_pos e]
  cases h <;> rfl

/-- An effect that keeps the part and the sources keeps the module quiet. -/
theorem quiet_upd (s : State) (h : HoopId) (f : Hoop → Hoop) (q : s.quiet = true) (hp : (f (s.hoop h)).part = (s.hoop h).part)
    (hf : (f (s.hoop h)).fc.src = (s.hoop h).fc.src) (hk : (f (s.hoop h)).dk.fcPar = (s.hoop h).dk.fcPar) : (s.upd h f).quiet = true := by
  have hp' : ∀ k, ((s.upd h f).hoop k).dk.fcPar = (s.hoop k).dk.fcPar := by
    intro k
    unfold State.upd
    split
    · cases h <;> cases k <;> simp_all [State.setHoop, State.hoop]
    · rfl
  have hl : ∀ k, ((s.upd h f).hoop k).lineOn = (s.hoop k).lineOn := by
    intro k
    unfold State.upd
    split
    · cases h <;> cases k <;> simp_all [State.setHoop, State.hoop, Hoop.lineOn, Hoop.liveSev]
    · rfl
  have hh : (s.upd h f).hoops = s.hoops := by
    unfold State.upd
    split
    · cases h
      · simp only [State.hoop] at hp
        simp [State.hoops, State.setHoop, State.hoop, hp]
      · rfl
    · rfl
  have hd : (s.upd h f).duo = s.duo := by
    unfold State.upd
    split
    · cases h <;> rfl
    · rfl
  simp only [State.quiet, hl, hh, hd, hp'] at *
  exact q

end Sys2Proof.Machine
end

