-- ==== Sys2Proof/Laws/Rings.lean ====
section
/-!
SUPPORT. What telling and `settle` leave alone in the rings: everything but the event entries and their counts. Then what serving does to the
ring that is served: the front command goes and its completion is the next entry.
-/

namespace Sys2Proof.Machine

theorem Ring.mail_upd (g : Ring) (a : List Ev) (b c : Nat) (d : Bool) (e : Nat) (f : Word) (n : Nat) :
    ({ g with evts := a, evtSeq := b, evtTail := c, evtPhase := d, evtUnsig := e, evtDrop := f, dropsPending := n } : Ring).mail = g.mail := rfl

theorem mail_of_rings (x y : Hoop) (h : y.mbx.rings = x.mbx.rings) : y.mail = x.mail := by
  funext r; simp only [Hoop.mail, Hoop.ring, h]

theorem ring_setRing_self (x : Hoop) (r : Nat) (g : Ring) : (x.setRing r g).ring r = g := by
  simp only [Hoop.ring, Hoop.setRing, smGet_smSet_self]

theorem ring_setRing_ne (x : Hoop) {r k : Nat} (g : Ring) (h : k ≠ r) : (x.setRing r g).ring k = x.ring k := by
  simp only [Hoop.ring, Hoop.setRing, smGet_smSet_ne _ _ _ _ h]

theorem setRing_mail (x : Hoop) (r : Nat) (g : Ring) (h : g.mail = (x.ring r).mail) : (x.setRing r g).mail = x.mail := by
  funext k
  by_cases e : k = r
  · subst e; simp only [Hoop.mail, ring_setRing_self, h]
  · simp only [Hoop.mail, ring_setRing_ne x g e]

@[simp] theorem pmcRaw_rings (c n : Nat) (x : Hoop) : (pmcRaw c n x).mbx = x.mbx := by
  unfold pmcRaw
  split
  · extract_lets
    split <;> rfl
  · rfl

@[simp] theorem pmcRaw_mail (c n : Nat) (x : Hoop) : (pmcRaw c n x).mail = x.mail := mail_of_rings _ _ (by rw [pmcRaw_rings])

@[simp] theorem msixSend_mail (v : Nat) (x : Hoop) : (msixSend v x).mail = x.mail :=
  (pmcRaw_mail ..).trans (mail_of_rings _ _ rfl)

@[simp] theorem putEventAt_mail (st : Stamp) (r src : Nat) (p : List Nat) (x : Hoop) : (putEventAt st r src p x).mail = x.mail := by
  unfold putEventAt
  extract_lets g
  split
  · exact (msixSend_mail ..).trans (setRing_mail x r _ (Ring.mail_upd g ..))
  · exact setRing_mail x r _ (Ring.mail_upd g ..)

@[simp] theorem deliverEvAt_mail (st : Stamp) (r src : Nat) (p : List Nat) (x : Hoop) : (deliverEvAt st r src p x).mail = x.mail := by
  unfold deliverEvAt
  extract_lets g
  split
  · rfl
  · split
    · refine (pmcRaw_mail ..).trans (Eq.trans (mail_of_rings (x.setRing r { g with evtDrop := satInc g.evtDrop, dropsPending := g.dropsPending + 1 }) _ rfl) ?_)
      exact setRing_mail x r _ (Ring.mail_upd g ..)
    · exact putEventAt_mail ..

@[simp] theorem raiseEv_mail (src : Nat) (p : List Nat) (sc : Scope) (x : Hoop) : (raiseEv src p sc x).mail = x.mail := by
  have h2 : ∀ y : Hoop, (if y.evt.sub.getLsbD src then deliverEv 0 src p y else y).mail = y.mail := by
    intro y; split
    · exact deliverEvAt_mail ..
    · rfl
  unfold raiseEv
  extract_lets s1 z s2 w
  have hz : z.mail = x.mail := (pmcRaw_mail ..).trans (mail_of_rings _ _ rfl)
  split
  · split
    · exact (mail_of_rings z _ rfl).trans hz
    · exact hz
  · split
    · refine (foldl_keeps Hoop.mail _ ?_ _ w).trans ((h2 z).trans hz)
      intro y r; split
      · exact deliverEvAt_mail ..
      · rfl
    · exact hz

@[simp] theorem pmcTell_mail (x : Hoop) : (pmcTell x).mail = x.mail := by
  unfold pmcTell
  extract_lets fresh
  refine (foldl_keeps Hoop.mail _ ?_ _ _).trans ?_
  · intro y c; split <;> simp
  · exact mail_of_rings _ _ rfl

@[simp] theorem jnlLose_mail (j : JRec) (x : Hoop) : (jnlLose j x).mail = x.mail := by
  unfold jnlLose
  extract_lets
  exact (raiseEv_mail ..).trans (mail_of_rings _ _ rfl)

@[simp] theorem jnlQueue_mail (j : JRec) (x : Hoop) : (jnlQueue j x).mail = x.mail := by
  have h : ∀ y : Hoop, (if y.jnl.buf.isEmpty then { y with jnl := { y.jnl with oldest := y.now } } else y).mail = y.mail := by
    intro y; split
    · exact mail_of_rings _ _ rfl
    · rfl
  unfold jnlQueue
  extract_lets s1 z s2
  split
  · exact (mail_of_rings z _ rfl).trans (h x)
  · split
    · exact (jnlLose_mail ..).trans ((mail_of_rings z _ rfl).trans (h x))
    · exact (jnlLose_mail ..).trans (h x)

@[simp] theorem jnlPut_mail (ty sev src : Nat) (w : Bool) (p : Bytes) (x : Hoop) : (jnlPut ty sev src w p x).mail = x.mail := jnlQueue_mail ..

@[simp] theorem sendFrame_mail (k : Nat) (tel : Bool) (b : Bytes) (x : Hoop) : (sendFrame k tel b x).mail = x.mail := by
  have h : ∀ (y : Hoop) (src : Nat) (p : List Nat), (if y.wlm.qdropEvSec = some (y.now / 1000000000) then y else
      raiseEv src p .hoop { y with wlm := { y.wlm with qdropEvSec := some (y.now / 1000000000) } }).mail = y.mail := by
    intro y src p; split
    · rfl
    · exact (raiseEv_mail ..).trans (mail_of_rings _ _ rfl)
  unfold sendFrame
  split
  · exact (h _ _ _).trans (mail_of_rings _ _ rfl)
  · exact (pmcRaw_mail ..).trans (mail_of_rings _ _ rfl)

@[simp] theorem sendToward_mail (tel : Bool) (b : Bytes) (x : Hoop) : (sendToward tel b x).mail = x.mail := by
  unfold sendToward
  split
  · simp
  · split
    · exact mail_of_rings _ _ rfl
    · exact (pmcRaw_mail ..).trans (mail_of_rings _ _ rfl)

@[simp] theorem originate_mail (dst ty : Nat) (p : Bytes) (x : Hoop) : (originate dst ty p x).mail = x.mail := by
  unfold originate
  extract_lets seq b s1 z
  have h : z.mail = x.mail := mail_of_rings _ _ rfl
  split
  · refine (foldl_keeps Hoop.mail _ ?_ _ z).trans h
    intro y k; simp
  · exact (sendToward_mail ..).trans h

@[simp] theorem threadEvent_mail (i : Nat) (t : Thread) (p : ThreadSt) (c q r l : Nat) (x : Hoop) : (threadEvent i t p c q r l x).mail = x.mail :=
  (raiseEv_mail ..).trans (jnlPut_mail ..)

@[simp] theorem countSt_mail (st : ThreadSt) (x : Hoop) : (countSt st x).mail = x.mail := by
  unfold countSt; split <;> simp

@[simp] theorem setSt_mail (i : Nat) (st : ThreadSt) (c q r : Nat) (x : Hoop) : (setSt i st c q r x).mail = x.mail :=
  (threadEvent_mail ..).trans ((countSt_mail ..).trans (mail_of_rings _ _ rfl))

@[simp] theorem ledEnd_mail (i a : Nat) (c : Bool) (x : Hoop) : (ledEnd i a c x).mail = x.mail := by
  unfold ledEnd; split
  · rfl
  · exact mail_of_rings _ _ rfl

@[simp] theorem dropParts_mail (i : Nat) (x : Hoop) : (dropParts i x).mail = x.mail := by
  unfold dropParts
  extract_lets alone hit y
  refine Eq.trans ?_ (foldl_keeps Hoop.mail restoreElem (fun _ _ => mail_of_rings _ _ rfl) alone x)
  exact mail_of_rings y _ rfl

@[simp] theorem sendNotices_mail (c : Chain) (i k : Nat) (x : Hoop) : (sendNotices c i k x).mail = x.mail := by
  refine foldl_keeps Hoop.mail _ ?_ _ x
  intro y a
  exact (originate_mail ..).trans (mail_of_rings _ _ rfl)

@[simp] theorem notify_mail (i c : Nat) (x : Hoop) : (notify i c x).mail = x.mail := by
  unfold notify; split
  · rfl
  · split
    · rfl
    · extract_lets y
      exact (raiseEv_mail ..).trans ((mail_of_rings y _ rfl).trans (sendNotices_mail ..))

@[simp] theorem override_mail (i : Nat) (b : Bool) (x : Hoop) : (override i b x).mail = x.mail := mail_of_rings _ _ rfl

@[simp] theorem outcomes_mail (x : Hoop) : (outcomes x).mail = x.mail := by
  unfold outcomes
  extract_lets ready
  refine (foldl_keeps Hoop.mail _ (fun y j => ?_) ready _).trans (mail_of_rings _ _ rfl)
  exact (raiseEv_mail ..).trans ((jnlPut_mail ..).trans (mail_of_rings _ _ rfl))

@[simp] theorem updThread_mail (x : Hoop) (i : Nat) (f : Thread → Thread) : (x.updThread i f).mail = x.mail := mail_of_rings _ _ rfl

@[simp] theorem darkThread_mail (i c q r : Nat) (x : Hoop) : (darkThread i c q r x).mail = x.mail := by
  unfold darkThread; split
  · split <;> simp
  · rfl

@[simp] theorem forceNeedles_mail (x : Hoop) : (forceNeedles x).mail = x.mail := by
  unfold forceNeedles
  extract_lets jumps y s1
  exact (mail_of_rings y _ rfl).trans (foldl_keeps Hoop.mail (fun (y : Hoop) i => y.updNeedle (y.eyelet i) (fun v => { v with track := true })) (fun _ _ => mail_of_rings _ _ rfl) jumps x)

@[simp] theorem engage_mail (c v : Nat) (r : Bool) (x : Hoop) : (engage c v r x).mail = x.mail := by
  unfold engage; split
  · rfl
  · extract_lets live w s1 s2 y z u
    have hz : z.mail = x.mail :=
      (foldl_keeps Hoop.mail _ (fun y i => darkThread_mail i 5 0 c y) live _).trans
        ((mail_of_rings _ (ledFlag 4 (forceNeedles y)) rfl).trans ((forceNeedles_mail y).trans (mail_of_rings _ _ rfl)))
    exact (raiseEv_mail ..).trans ((msixSend_mail ..).trans ((jnlPut_mail ..).trans ((mail_of_rings z _ rfl).trans hz)))

@[simp] theorem setRole_mail (r : Role) (c : Nat) (x : Hoop) : (setRole r c x).mail = x.mail := by
  unfold setRole; split
  · rfl
  · exact (raiseEv_mail ..).trans (mail_of_rings _ _ rfl)

@[simp] theorem settleVouch_mail (x : Hoop) : (settleVouch x).mail = x.mail := by
  unfold settleVouch
  extract_lets v
  split
  · rfl
  · exact (raiseEv_mail ..).trans (mail_of_rings _ _ rfl)

@[simp] theorem tellFirst_mail (x : Hoop) : (tellFirst x).mail = x.mail := by
  unfold tellFirst; split
  · exact (raiseEv_mail ..).trans (mail_of_rings _ _ rfl)
  · rfl

@[simp] theorem settleStage_mail (x : Hoop) : (settleStage x).mail = x.mail := by
  unfold settleStage; split
  · exact (raiseEv_mail ..).trans (mail_of_rings _ _ rfl)
  · rfl

theorem upd_mail (s : State) (h k : HoopId) (f : Hoop → Hoop) (e : ∀ x, (f x).mail = x.mail) : ((s.upd h f).hoop k).mail = (s.hoop k).mail := by
  unfold State.upd; split
  · cases h <;> cases k <;> simp [State.setHoop, State.hoop, e]
  · rfl

theorem setDuo_mail (s : State) (d : Duo) (k : HoopId) : ((s.setDuo d).hoop k).mail = (s.hoop k).mail := by cases k <;> rfl

theorem foldl_upd_mail (l : List HoopId) (s : State) (k : HoopId) (f : State → HoopId → State) (e : ∀ s h, ((f s h).hoop k).mail = (s.hoop k).mail) :
    ((l.foldl f s).hoop k).mail = (s.hoop k).mail := foldl_keeps (fun s : State => (s.hoop k).mail) f e l s

@[simp] theorem abandonHo_mail (c : Nat) (s : State) (k : HoopId) : ((abandonHo c s).hoop k).mail = (s.hoop k).mail := by
  unfold abandonHo; split
  · rfl
  · extract_lets t
    refine (setDuo_mail t _ k).trans (foldl_upd_mail _ s k _ ?_)
    intro s h
    exact upd_mail s h k _ (fun x => (raiseEv_mail ..).trans (mail_of_rings _ _ rfl))

@[simp] theorem settleS4_mail (s : State) (k : HoopId) : ((settleS4 s).hoop k).mail = (s.hoop k).mail := by
  unfold settleS4; split
  · rfl
  · refine foldl_upd_mail _ s k _ ?_
    intro s h
    refine upd_mail s h k _ ?_
    intro x; split <;> simp

@[simp] theorem settleHo_mail (s : State) (k : HoopId) : ((settleHo s).hoop k).mail = (s.hoop k).mail := by
  unfold settleHo; split
  · split
    · simp
    · split <;> (split <;> first | exact abandonHo_mail 4 s k | rfl)
  · rfl

@[simp] theorem settleRel_mail (s : State) (k : HoopId) : ((settleRel s).hoop k).mail = (s.hoop k).mail := by
  unfold settleRel; split
  · refine foldl_upd_mail _ s k _ ?_
    intro s h
    exact upd_mail s h k _ (fun x => mail_of_rings _ _ rfl)
  · rfl

@[simp] theorem settleS3_mail (s : State) (h k : HoopId) : ((settleS3 s h).hoop k).mail = (s.hoop k).mail := by
  unfold settleS3
  extract_lets x
  split
  · rfl
  · split
    · exact upd_mail s h k _ (fun _ => engage_mail ..)
    · split
      · exact upd_mail s h k _ (fun _ => setRole_mail ..)
      · split
        · split
          · rfl
          · split
            · extract_lets o
              refine (setDuo_mail _ _ k).trans (upd_mail s h k cutWindows ?_)
              intro y
              exact mail_of_rings _ _ rfl
            · refine foldl_upd_mail _ s k _ ?_
              intro s j
              exact upd_mail s j k _ (fun _ => engage_mail ..)
        · rfl

@[simp] theorem settleRole_mail (s : State) (h k : HoopId) : ((settleRole s h).hoop k).mail = (s.hoop k).mail := by
  have e : ∀ s : State, ((if (s.hoop h).pair.role = .resync ∧ (!((s.hoop h).liveSev 4).isEmpty ∨ (s.hoop (other h)).pair.role ≠ .active) then
      s.upd h (setRole .monitor 0xFFFF) else s).hoop k).mail = (s.hoop k).mail := by
    intro s; split
    · exact upd_mail s h k _ (fun _ => setRole_mail ..)
    · rfl
  unfold settleRole; split
  · rfl
  · extract_lets x t
    split
    · refine (upd_mail t h k _ ?_).trans (e s)
      intro y
      exact (setRole_mail ..).trans (mail_of_rings _ _ rfl)
    · exact e s

@[simp] theorem settleLink_mail (s : State) (h k : HoopId) : ((settleLink s h).hoop k).mail = (s.hoop k).mail := by
  unfold settleLink; split
  · rfl
  · extract_lets x p t u
    have ht : (t.hoop k).mail = (s.hoop k).mail := by
      refine upd_mail s p k _ ?_
      intro y; split
      · exact mail_of_rings _ _ rfl
      · rfl
    have hu : (u.hoop k).mail = (t.hoop k).mail := by
      refine foldl_keeps (fun s : State => (s.hoop k).mail) _ ?_ _ t
      intro s b
      refine upd_mail s p k _ ?_
      intro y; split
      · simp
      · exact (pmcRaw_mail ..).trans (mail_of_rings _ _ rfl)
    refine (upd_mail u h k _ ?_).trans (hu.trans ht)
    intro y
    exact mail_of_rings _ _ rfl

/-- `settle` leaves the rings alone but for their event entries. -/
@[simp] theorem settle_mail (s : State) (k : HoopId) : ((settle s).hoop k).mail = (s.hoop k).mail := by
  unfold settle
  extract_lets s1 s2 s3 s4 s5
  have h1 : (s1.hoop k).mail = (s.hoop k).mail := by
    show ((settleHo (settleRel (settleS4 s))).hoop k).mail = _
    simp
  have h2 := foldl_upd_mail s1.hoops s1 k _ (fun s h => settleS3_mail s h k)
  have h3 := foldl_upd_mail s2.hoops s2 k _ (fun s h => settleRole_mail s h k)
  have h4 := foldl_upd_mail s3.hoops s3 k _ (fun s h => settleLink_mail s h k)
  have h5 : (s5.hoop k).mail = (s4.hoop k).mail := foldl_upd_mail s4.hoops s4 k _ (fun s h => upd_mail s h k _ (fun x => by simp))
  rw [settlePins_hoop]
  exact h5.trans (h4.trans (h3.trans (h2.trans h1)))

theorem act_mail (s : State) (h : HoopId) (f : Hoop → Hoop) (e : s.has h = true) : ((s.act h f).hoop h).mail = (f (s.hoop h)).mail := by
  unfold State.act
  rw [settle_mail]
  unfold State.upd
  rw [if_pos e]
  cases h <;> rfl

end Sys2Proof.Machine
end

