-- ==== Sys2Proof/Laws/Serve.lean ====
section
/-!
SUPPORT. What serving a Selda command does, said once: the command's own effect, then its completion, then what `settle` does.
-/

namespace Sys2Proof.Machine

/-- A command that passes its checks: its own effect, its completion, the reading that goes on, `settle`. -/
theorem serve_passes (s : State) (h : HoopId) (r op : Nat) (c : ReadCmd) (v : Verb) (p : passes s h r op c v = true) :
    s.serve h r op v = settle (s.upd h (fun _ => pumpRing r (completeFront r (ran s h r op c v).1 none (served r c (ran s h r op c v).2)))) := by
  simp only [passes, atFront, Bool.and_eq_true, Bool.not_eq_true', decide_eq_true_eq, beq_iff_eq, Bool.or_eq_true] at p
  obtain ⟨⟨⟨⟨⟨⟨⟨⟨⟨⟨-, hr⟩, hf⟩, ho⟩, hn⟩, ha⟩, hab⟩, hfl⟩, hc⟩, hp⟩, hk⟩ := p
  unfold State.serve
  rw [if_pos hr]
  unfold State.act
  congr 1
  unfold State.upd
  split
  · congr 1
    unfold serveFront
    cases hrd : ((s.hoop h).ring r).read with
    | nil => rw [hrd] at hf; cases hf
    | cons d l =>
      rw [hrd] at hf
      cases hf
      have hans : answers (s.hoop h) r c = true := by
        unfold answers; rw [ha]
      simp only []
      rw [if_pos ⟨ho, hn, by rw [ha]; decide, hans⟩]
      have e : answer v (ctxOf s h r c) (s.hoop h) = ran s h r op c v := by
        subst ho
        have h6 : ((r != 0 && !agentOp (hdrOf c.bytes).opcode) || ((hdrOf c.bytes).opcode == 0x23 && c.remote.isSome)) = false := by
          rw [hk]
          rcases hp with hp | hp
          · simp [hp]
          · simp [hp]
        unfold answer
        extract_lets op' x'
        have g1 : ¬ (!fieldsOk x' r c.bytes) = true := by
          show ¬ (!fieldsOk (breakRun r (hdrOf c.bytes).opcode (s.hoop h)) r c.bytes) = true
          rw [hfl]; decide
        have g2 : ¬ (!v.check (ctxOf s h r c) x') = true := by
          show ¬ (!v.check (ctxOf s h r c) (breakRun r (hdrOf c.bytes).opcode (s.hoop h))) = true
          rw [hc]; decide
        have g3 : ¬ ((r != 0 && !agentOp op') || (op' == 0x23 && c.remote.isSome)) = true := by
          show ¬ ((r != 0 && !agentOp (hdrOf c.bytes).opcode) || ((hdrOf c.bytes).opcode == 0x23 && c.remote.isSome)) = true
          rw [h6]; decide
        have g0 : ¬ c.aborted = true := by rw [hab]; decide
        exact (if_neg g0).trans ((if_neg g1).trans ((if_neg g2).trans (if_neg g3)))
      have e' := e
      unfold ctxOf at e'
      rw [e']
  · rfl

theorem passes_has {s : State} {h : HoopId} {r op : Nat} {c : ReadCmd} {v : Verb} (p : passes s h r op c v = true) : s.has h = true := by
  simp only [passes, atFront, Bool.and_eq_true] at p
  tauto

/-- The hoop after a served command, but for what `settle` may change. -/
theorem serve_calm (s : State) (h : HoopId) (r op : Nat) (c : ReadCmd) (v : Verb) (p : passes s h r op c v = true) :
    ((s.serve h r op v).hoop h).calm = (ran s h r op c v).2.calm := by
  rw [serve_passes s h r op c v p]
  refine (act_calm s h _ (passes_has p)).trans ?_
  simp

/-- The hoop after a served command in a quiet module. -/
theorem serve_core (s : State) (h : HoopId) (r op : Nat) (c : ReadCmd) (v : Verb) (p : passes s h r op c v = true) (q : s.quiet = true)
    (hp : (ran s h r op c v).2.part = (s.hoop h).part) (hf : (ran s h r op c v).2.fc.src = (s.hoop h).fc.src)
    (hk : (ran s h r op c v).2.dk.fcPar = (s.hoop h).dk.fcPar) : ((s.serve h r op v).hoop h).core = (ran s h r op c v).2.core := by
  rw [serve_passes s h r op c v p]
  have e : (pumpRing r (completeFront r (ran s h r op c v).1 none (served r c (ran s h r op c v).2))).core = (ran s h r op c v).2.core := by simp
  refine (act_core s h (fun _ => _) (passes_has p) ?_).trans e
  refine quiet_upd s h (fun _ => _) q ?_ ?_ ?_
  · exact (congrArg Hoop.part e).trans hp
  · exact (congrArg (fun z : Hoop => z.fc.src) e).trans hf
  · exact (congrArg (fun z : Hoop => z.dk.fcPar) e).trans hk

/-- The rings after a served command. -/
theorem serve_mail (s : State) (h : HoopId) (r op : Nat) (c : ReadCmd) (v : Verb) (p : passes s h r op c v = true) :
    ((s.serve h r op v).hoop h).mail = (pumpRing r (completeFront r (ran s h r op c v).1 none (served r c (ran s h r op c v).2))).mail := by
  rw [serve_passes s h r op c v p]
  exact act_mail s h (fun _ => _) (passes_has p)

end Sys2Proof.Machine
end

