-- ==== Sys2Proof/Laws/Rows.lean ====
section
/-!
SUPPORT. A block that `settle` never touches, read after a row: what the row's own effect made of it.
-/

namespace Sys2Proof.Machine

theorem Hoop.part_of_calm {x y : Hoop} (h : x.calm = y.calm) : x.part = y.part := by
  have e := congrArg Hoop.part h; exact e

theorem Hoop.isB_of_calm {x y : Hoop} (h : x.calm = y.calm) : x.isB = y.isB := by
  have e := congrArg Hoop.isB h; exact e

theorem Hoop.tb_of_calm {x y : Hoop} (h : x.calm = y.calm) : x.tb = y.tb := by
  have e := congrArg Hoop.tb h; exact e

theorem Hoop.slice_of_calm {x y : Hoop} (h : x.calm = y.calm) : x.slice = y.slice := by
  have e := congrArg Hoop.slice h; exact e

theorem Hoop.prkSlice_of_calm {x y : Hoop} (h : x.calm = y.calm) : x.prkSlice = y.prkSlice := by
  have e := congrArg Hoop.prkSlice h; exact e

theorem Hoop.rmap_of_calm {x y : Hoop} (h : x.calm = y.calm) : x.rmap = y.rmap := by
  have e := congrArg Hoop.rmap h; exact e

theorem Hoop.mon_of_calm {x y : Hoop} (h : x.calm = y.calm) : x.mon = y.mon := by
  have e := congrArg Hoop.mon h; exact e

theorem Hoop.bob_of_calm {x y : Hoop} (h : x.calm = y.calm) : x.bob = y.bob := by
  have e := congrArg Hoop.bob h; exact e

theorem Hoop.tec_of_calm {x y : Hoop} (h : x.calm = y.calm) : x.tec = y.tec := by
  have e := congrArg Hoop.tec h; exact e

theorem Hoop.ths_of_calm {x y : Hoop} (h : x.calm = y.calm) : x.ths = y.ths := by
  have e := congrArg Hoop.ths h; exact e

theorem Hoop.hist_of_calm {x y : Hoop} (h : x.calm = y.calm) : x.hist = y.hist := by
  have e := congrArg Hoop.hist h; exact e

theorem Hoop.xbar_of_calm {x y : Hoop} (h : x.calm = y.calm) : x.xbar = y.xbar := by
  have e := congrArg Hoop.xbar h; exact e

theorem Hoop.pwr_of_calm {x y : Hoop} (h : x.calm = y.calm) : x.pwr = y.pwr := by
  have e := congrArg Hoop.pwr h; exact e

theorem Hoop.settings_of_calm {x y : Hoop} (h : x.calm = y.calm) : x.settings = y.settings := by
  have e := congrArg Hoop.settings h; exact e

theorem Hoop.calStore_of_calm {x y : Hoop} (h : x.calm = y.calm) : x.calStore = y.calStore := by
  have e := congrArg Hoop.calStore h; exact e

theorem Hoop.keeperImg_of_calm {x y : Hoop} (h : x.calm = y.calm) : x.keeperImg = y.keeperImg := by
  have e := congrArg Hoop.keeperImg h; exact e

theorem Hoop.mram_of_calm {x y : Hoop} (h : x.calm = y.calm) : x.mram = y.mram := by
  have e := congrArg Hoop.mram h; exact e

theorem Hoop.bus_of_calm {x y : Hoop} (h : x.calm = y.calm) : x.bus = y.bus := by
  have e := congrArg Hoop.bus h; exact e

theorem Hoop.freeIx_of_calm {x y : Hoop} (h : x.calm = y.calm) : x.freeIx = y.freeIx := by
  have e := congrArg Hoop.freeIx h; exact e

theorem act_part (s : State) (h : HoopId) (f : Hoop → Hoop) (e : s.has h = true) : ((s.act h f).hoop h).part = (f (s.hoop h)).part :=
  Hoop.part_of_calm (act_calm s h f e)

theorem act_isB (s : State) (h : HoopId) (f : Hoop → Hoop) (e : s.has h = true) : ((s.act h f).hoop h).isB = (f (s.hoop h)).isB :=
  Hoop.isB_of_calm (act_calm s h f e)

theorem act_tb (s : State) (h : HoopId) (f : Hoop → Hoop) (e : s.has h = true) : ((s.act h f).hoop h).tb = (f (s.hoop h)).tb :=
  Hoop.tb_of_calm (act_calm s h f e)

theorem act_slice (s : State) (h : HoopId) (f : Hoop → Hoop) (e : s.has h = true) : ((s.act h f).hoop h).slice = (f (s.hoop h)).slice :=
  Hoop.slice_of_calm (act_calm s h f e)

theorem act_prkSlice (s : State) (h : HoopId) (f : Hoop → Hoop) (e : s.has h = true) : ((s.act h f).hoop h).prkSlice = (f (s.hoop h)).prkSlice :=
  Hoop.prkSlice_of_calm (act_calm s h f e)

theorem act_rmap (s : State) (h : HoopId) (f : Hoop → Hoop) (e : s.has h = true) : ((s.act h f).hoop h).rmap = (f (s.hoop h)).rmap :=
  Hoop.rmap_of_calm (act_calm s h f e)

theorem act_mon (s : State) (h : HoopId) (f : Hoop → Hoop) (e : s.has h = true) : ((s.act h f).hoop h).mon = (f (s.hoop h)).mon :=
  Hoop.mon_of_calm (act_calm s h f e)

theorem act_bob (s : State) (h : HoopId) (f : Hoop → Hoop) (e : s.has h = true) : ((s.act h f).hoop h).bob = (f (s.hoop h)).bob :=
  Hoop.bob_of_calm (act_calm s h f e)

theorem act_tec (s : State) (h : HoopId) (f : Hoop → Hoop) (e : s.has h = true) : ((s.act h f).hoop h).tec = (f (s.hoop h)).tec :=
  Hoop.tec_of_calm (act_calm s h f e)

theorem act_ths (s : State) (h : HoopId) (f : Hoop → Hoop) (e : s.has h = true) : ((s.act h f).hoop h).ths = (f (s.hoop h)).ths :=
  Hoop.ths_of_calm (act_calm s h f e)

theorem act_hist (s : State) (h : HoopId) (f : Hoop → Hoop) (e : s.has h = true) : ((s.act h f).hoop h).hist = (f (s.hoop h)).hist :=
  Hoop.hist_of_calm (act_calm s h f e)

theorem act_xbar (s : State) (h : HoopId) (f : Hoop → Hoop) (e : s.has h = true) : ((s.act h f).hoop h).xbar = (f (s.hoop h)).xbar :=
  Hoop.xbar_of_calm (act_calm s h f e)

theorem act_pwr (s : State) (h : HoopId) (f : Hoop → Hoop) (e : s.has h = true) : ((s.act h f).hoop h).pwr = (f (s.hoop h)).pwr :=
  Hoop.pwr_of_calm (act_calm s h f e)

theorem act_settings (s : State) (h : HoopId) (f : Hoop → Hoop) (e : s.has h = true) : ((s.act h f).hoop h).settings = (f (s.hoop h)).settings :=
  Hoop.settings_of_calm (act_calm s h f e)

theorem act_calStore (s : State) (h : HoopId) (f : Hoop → Hoop) (e : s.has h = true) : ((s.act h f).hoop h).calStore = (f (s.hoop h)).calStore :=
  Hoop.calStore_of_calm (act_calm s h f e)

theorem act_keeperImg (s : State) (h : HoopId) (f : Hoop → Hoop) (e : s.has h = true) : ((s.act h f).hoop h).keeperImg = (f (s.hoop h)).keeperImg :=
  Hoop.keeperImg_of_calm (act_calm s h f e)

theorem act_mram (s : State) (h : HoopId) (f : Hoop → Hoop) (e : s.has h = true) : ((s.act h f).hoop h).mram = (f (s.hoop h)).mram :=
  Hoop.mram_of_calm (act_calm s h f e)

theorem act_bus (s : State) (h : HoopId) (f : Hoop → Hoop) (e : s.has h = true) : ((s.act h f).hoop h).bus = (f (s.hoop h)).bus :=
  Hoop.bus_of_calm (act_calm s h f e)

theorem act_freeIx (s : State) (h : HoopId) (f : Hoop → Hoop) (e : s.has h = true) : ((s.act h f).hoop h).freeIx = (f (s.hoop h)).freeIx :=
  Hoop.freeIx_of_calm (act_calm s h f e)

theorem serve_tb (s : State) (h : HoopId) (r op : Nat) (c : ReadCmd) (v : Verb) (p : passes s h r op c v = true) :
    ((s.serve h r op v).hoop h).tb = (ran s h r op c v).2.tb := Hoop.tb_of_calm (serve_calm s h r op c v p)

theorem serve_mon (s : State) (h : HoopId) (r op : Nat) (c : ReadCmd) (v : Verb) (p : passes s h r op c v = true) :
    ((s.serve h r op v).hoop h).mon = (ran s h r op c v).2.mon := Hoop.mon_of_calm (serve_calm s h r op c v p)

theorem serve_bob (s : State) (h : HoopId) (r op : Nat) (c : ReadCmd) (v : Verb) (p : passes s h r op c v = true) :
    ((s.serve h r op v).hoop h).bob = (ran s h r op c v).2.bob := Hoop.bob_of_calm (serve_calm s h r op c v p)

theorem serve_tec (s : State) (h : HoopId) (r op : Nat) (c : ReadCmd) (v : Verb) (p : passes s h r op c v = true) :
    ((s.serve h r op v).hoop h).tec = (ran s h r op c v).2.tec := Hoop.tec_of_calm (serve_calm s h r op c v p)

theorem serve_ths (s : State) (h : HoopId) (r op : Nat) (c : ReadCmd) (v : Verb) (p : passes s h r op c v = true) :
    ((s.serve h r op v).hoop h).ths = (ran s h r op c v).2.ths := Hoop.ths_of_calm (serve_calm s h r op c v p)

theorem serve_hist (s : State) (h : HoopId) (r op : Nat) (c : ReadCmd) (v : Verb) (p : passes s h r op c v = true) :
    ((s.serve h r op v).hoop h).hist = (ran s h r op c v).2.hist := Hoop.hist_of_calm (serve_calm s h r op c v p)

theorem serve_settings (s : State) (h : HoopId) (r op : Nat) (c : ReadCmd) (v : Verb) (p : passes s h r op c v = true) :
    ((s.serve h r op v).hoop h).settings = (ran s h r op c v).2.settings := Hoop.settings_of_calm (serve_calm s h r op c v p)

theorem serve_pwr (s : State) (h : HoopId) (r op : Nat) (c : ReadCmd) (v : Verb) (p : passes s h r op c v = true) :
    ((s.serve h r op v).hoop h).pwr = (ran s h r op c v).2.pwr := Hoop.pwr_of_calm (serve_calm s h r op c v p)

theorem serve_slice (s : State) (h : HoopId) (r op : Nat) (c : ReadCmd) (v : Verb) (p : passes s h r op c v = true) :
    ((s.serve h r op v).hoop h).slice = (ran s h r op c v).2.slice := Hoop.slice_of_calm (serve_calm s h r op c v p)

theorem serve_freeIx (s : State) (h : HoopId) (r op : Nat) (c : ReadCmd) (v : Verb) (p : passes s h r op c v = true) :
    ((s.serve h r op v).hoop h).freeIx = (ran s h r op c v).2.freeIx := Hoop.freeIx_of_calm (serve_calm s h r op c v p)

theorem serve_mram (s : State) (h : HoopId) (r op : Nat) (c : ReadCmd) (v : Verb) (p : passes s h r op c v = true) :
    ((s.serve h r op v).hoop h).mram = (ran s h r op c v).2.mram := Hoop.mram_of_calm (serve_calm s h r op c v p)

@[simp] theorem raiseEv_part (src : Nat) (p : List Nat) (sc : Scope) (x : Hoop) : (raiseEv src p sc x).part = x.part := Hoop.part_of_calm (raiseEv_calm src p sc x)

@[simp] theorem raiseEv_isB (src : Nat) (p : List Nat) (sc : Scope) (x : Hoop) : (raiseEv src p sc x).isB = x.isB := Hoop.isB_of_calm (raiseEv_calm src p sc x)

@[simp] theorem raiseEv_tb (src : Nat) (p : List Nat) (sc : Scope) (x : Hoop) : (raiseEv src p sc x).tb = x.tb := Hoop.tb_of_calm (raiseEv_calm src p sc x)

@[simp] theorem raiseEv_slice (src : Nat) (p : List Nat) (sc : Scope) (x : Hoop) : (raiseEv src p sc x).slice = x.slice := Hoop.slice_of_calm (raiseEv_calm src p sc x)

@[simp] theorem raiseEv_prkSlice (src : Nat) (p : List Nat) (sc : Scope) (x : Hoop) : (raiseEv src p sc x).prkSlice = x.prkSlice := Hoop.prkSlice_of_calm (raiseEv_calm src p sc x)

@[simp] theorem raiseEv_rmap (src : Nat) (p : List Nat) (sc : Scope) (x : Hoop) : (raiseEv src p sc x).rmap = x.rmap := Hoop.rmap_of_calm (raiseEv_calm src p sc x)

@[simp] theorem raiseEv_mon (src : Nat) (p : List Nat) (sc : Scope) (x : Hoop) : (raiseEv src p sc x).mon = x.mon := Hoop.mon_of_calm (raiseEv_calm src p sc x)

@[simp] theorem raiseEv_bob (src : Nat) (p : List Nat) (sc : Scope) (x : Hoop) : (raiseEv src p sc x).bob = x.bob := Hoop.bob_of_calm (raiseEv_calm src p sc x)

@[simp] theorem raiseEv_tec (src : Nat) (p : List Nat) (sc : Scope) (x : Hoop) : (raiseEv src p sc x).tec = x.tec := Hoop.tec_of_calm (raiseEv_calm src p sc x)

@[simp] theorem raiseEv_ths (src : Nat) (p : List Nat) (sc : Scope) (x : Hoop) : (raiseEv src p sc x).ths = x.ths := Hoop.ths_of_calm (raiseEv_calm src p sc x)

@[simp] theorem raiseEv_hist (src : Nat) (p : List Nat) (sc : Scope) (x : Hoop) : (raiseEv src p sc x).hist = x.hist := Hoop.hist_of_calm (raiseEv_calm src p sc x)

@[simp] theorem raiseEv_xbar (src : Nat) (p : List Nat) (sc : Scope) (x : Hoop) : (raiseEv src p sc x).xbar = x.xbar := Hoop.xbar_of_calm (raiseEv_calm src p sc x)

@[simp] theorem raiseEv_pwr (src : Nat) (p : List Nat) (sc : Scope) (x : Hoop) : (raiseEv src p sc x).pwr = x.pwr := Hoop.pwr_of_calm (raiseEv_calm src p sc x)

@[simp] theorem raiseEv_settings (src : Nat) (p : List Nat) (sc : Scope) (x : Hoop) : (raiseEv src p sc x).settings = x.settings := Hoop.settings_of_calm (raiseEv_calm src p sc x)

@[simp] theorem raiseEv_calStore (src : Nat) (p : List Nat) (sc : Scope) (x : Hoop) : (raiseEv src p sc x).calStore = x.calStore := Hoop.calStore_of_calm (raiseEv_calm src p sc x)

@[simp] theorem raiseEv_keeperImg (src : Nat) (p : List Nat) (sc : Scope) (x : Hoop) : (raiseEv src p sc x).keeperImg = x.keeperImg := Hoop.keeperImg_of_calm (raiseEv_calm src p sc x)

@[simp] theorem raiseEv_mram (src : Nat) (p : List Nat) (sc : Scope) (x : Hoop) : (raiseEv src p sc x).mram = x.mram := Hoop.mram_of_calm (raiseEv_calm src p sc x)

@[simp] theorem raiseEv_bus (src : Nat) (p : List Nat) (sc : Scope) (x : Hoop) : (raiseEv src p sc x).bus = x.bus := Hoop.bus_of_calm (raiseEv_calm src p sc x)

@[simp] theorem raiseEv_freeIx (src : Nat) (p : List Nat) (sc : Scope) (x : Hoop) : (raiseEv src p sc x).freeIx = x.freeIx := Hoop.freeIx_of_calm (raiseEv_calm src p sc x)

@[simp] theorem jnlPut_part (ty sev src : Nat) (w : Bool) (p : Bytes) (x : Hoop) : (jnlPut ty sev src w p x).part = x.part := Hoop.part_of_calm (jnlPut_calm ty sev src w p x)

@[simp] theorem jnlPut_isB (ty sev src : Nat) (w : Bool) (p : Bytes) (x : Hoop) : (jnlPut ty sev src w p x).isB = x.isB := Hoop.isB_of_calm (jnlPut_calm ty sev src w p x)

@[simp] theorem jnlPut_tb (ty sev src : Nat) (w : Bool) (p : Bytes) (x : Hoop) : (jnlPut ty sev src w p x).tb = x.tb := Hoop.tb_of_calm (jnlPut_calm ty sev src w p x)

@[simp] theorem jnlPut_slice (ty sev src : Nat) (w : Bool) (p : Bytes) (x : Hoop) : (jnlPut ty sev src w p x).slice = x.slice := Hoop.slice_of_calm (jnlPut_calm ty sev src w p x)

@[simp] theorem jnlPut_prkSlice (ty sev src : Nat) (w : Bool) (p : Bytes) (x : Hoop) : (jnlPut ty sev src w p x).prkSlice = x.prkSlice := Hoop.prkSlice_of_calm (jnlPut_calm ty sev src w p x)

@[simp] theorem jnlPut_rmap (ty sev src : Nat) (w : Bool) (p : Bytes) (x : Hoop) : (jnlPut ty sev src w p x).rmap = x.rmap := Hoop.rmap_of_calm (jnlPut_calm ty sev src w p x)

@[simp] theorem jnlPut_mon (ty sev src : Nat) (w : Bool) (p : Bytes) (x : Hoop) : (jnlPut ty sev src w p x).mon = x.mon := Hoop.mon_of_calm (jnlPut_calm ty sev src w p x)

@[simp] theorem jnlPut_bob (ty sev src : Nat) (w : Bool) (p : Bytes) (x : Hoop) : (jnlPut ty sev src w p x).bob = x.bob := Hoop.bob_of_calm (jnlPut_calm ty sev src w p x)

@[simp] theorem jnlPut_tec (ty sev src : Nat) (w : Bool) (p : Bytes) (x : Hoop) : (jnlPut ty sev src w p x).tec = x.tec := Hoop.tec_of_calm (jnlPut_calm ty sev src w p x)

@[simp] theorem jnlPut_ths (ty sev src : Nat) (w : Bool) (p : Bytes) (x : Hoop) : (jnlPut ty sev src w p x).ths = x.ths := Hoop.ths_of_calm (jnlPut_calm ty sev src w p x)

@[simp] theorem jnlPut_hist (ty sev src : Nat) (w : Bool) (p : Bytes) (x : Hoop) : (jnlPut ty sev src w p x).hist = x.hist := Hoop.hist_of_calm (jnlPut_calm ty sev src w p x)

@[simp] theorem jnlPut_xbar (ty sev src : Nat) (w : Bool) (p : Bytes) (x : Hoop) : (jnlPut ty sev src w p x).xbar = x.xbar := Hoop.xbar_of_calm (jnlPut_calm ty sev src w p x)

@[simp] theorem jnlPut_pwr (ty sev src : Nat) (w : Bool) (p : Bytes) (x : Hoop) : (jnlPut ty sev src w p x).pwr = x.pwr := Hoop.pwr_of_calm (jnlPut_calm ty sev src w p x)

@[simp] theorem jnlPut_settings (ty sev src : Nat) (w : Bool) (p : Bytes) (x : Hoop) : (jnlPut ty sev src w p x).settings = x.settings := Hoop.settings_of_calm (jnlPut_calm ty sev src w p x)

@[simp] theorem jnlPut_calStore (ty sev src : Nat) (w : Bool) (p : Bytes) (x : Hoop) : (jnlPut ty sev src w p x).calStore = x.calStore := Hoop.calStore_of_calm (jnlPut_calm ty sev src w p x)

@[simp] theorem jnlPut_keeperImg (ty sev src : Nat) (w : Bool) (p : Bytes) (x : Hoop) : (jnlPut ty sev src w p x).keeperImg = x.keeperImg := Hoop.keeperImg_of_calm (jnlPut_calm ty sev src w p x)

@[simp] theorem jnlPut_mram (ty sev src : Nat) (w : Bool) (p : Bytes) (x : Hoop) : (jnlPut ty sev src w p x).mram = x.mram := Hoop.mram_of_calm (jnlPut_calm ty sev src w p x)

@[simp] theorem jnlPut_bus (ty sev src : Nat) (w : Bool) (p : Bytes) (x : Hoop) : (jnlPut ty sev src w p x).bus = x.bus := Hoop.bus_of_calm (jnlPut_calm ty sev src w p x)

@[simp] theorem jnlPut_freeIx (ty sev src : Nat) (w : Bool) (p : Bytes) (x : Hoop) : (jnlPut ty sev src w p x).freeIx = x.freeIx := Hoop.freeIx_of_calm (jnlPut_calm ty sev src w p x)

@[simp] theorem pmcRaw_part (c n : Nat) (x : Hoop) : (pmcRaw c n x).part = x.part := Hoop.part_of_calm (pmcRaw_calm c n x)

@[simp] theorem pmcRaw_isB (c n : Nat) (x : Hoop) : (pmcRaw c n x).isB = x.isB := Hoop.isB_of_calm (pmcRaw_calm c n x)

@[simp] theorem pmcRaw_tb (c n : Nat) (x : Hoop) : (pmcRaw c n x).tb = x.tb := Hoop.tb_of_calm (pmcRaw_calm c n x)

@[simp] theorem pmcRaw_slice (c n : Nat) (x : Hoop) : (pmcRaw c n x).slice = x.slice := Hoop.slice_of_calm (pmcRaw_calm c n x)

@[simp] theorem pmcRaw_prkSlice (c n : Nat) (x : Hoop) : (pmcRaw c n x).prkSlice = x.prkSlice := Hoop.prkSlice_of_calm (pmcRaw_calm c n x)

@[simp] theorem pmcRaw_rmap (c n : Nat) (x : Hoop) : (pmcRaw c n x).rmap = x.rmap := Hoop.rmap_of_calm (pmcRaw_calm c n x)

@[simp] theorem pmcRaw_mon (c n : Nat) (x : Hoop) : (pmcRaw c n x).mon = x.mon := Hoop.mon_of_calm (pmcRaw_calm c n x)

@[simp] theorem pmcRaw_bob (c n : Nat) (x : Hoop) : (pmcRaw c n x).bob = x.bob := Hoop.bob_of_calm (pmcRaw_calm c n x)

@[simp] theorem pmcRaw_tec (c n : Nat) (x : Hoop) : (pmcRaw c n x).tec = x.tec := Hoop.tec_of_calm (pmcRaw_calm c n x)

@[simp] theorem pmcRaw_ths (c n : Nat) (x : Hoop) : (pmcRaw c n x).ths = x.ths := Hoop.ths_of_calm (pmcRaw_calm c n x)

@[simp] theorem pmcRaw_hist (c n : Nat) (x : Hoop) : (pmcRaw c n x).hist = x.hist := Hoop.hist_of_calm (pmcRaw_calm c n x)

@[simp] theorem pmcRaw_xbar (c n : Nat) (x : Hoop) : (pmcRaw c n x).xbar = x.xbar := Hoop.xbar_of_calm (pmcRaw_calm c n x)

@[simp] theorem pmcRaw_pwr (c n : Nat) (x : Hoop) : (pmcRaw c n x).pwr = x.pwr := Hoop.pwr_of_calm (pmcRaw_calm c n x)

@[simp] theorem pmcRaw_settings (c n : Nat) (x : Hoop) : (pmcRaw c n x).settings = x.settings := Hoop.settings_of_calm (pmcRaw_calm c n x)

@[simp] theorem pmcRaw_calStore (c n : Nat) (x : Hoop) : (pmcRaw c n x).calStore = x.calStore := Hoop.calStore_of_calm (pmcRaw_calm c n x)

@[simp] theorem pmcRaw_keeperImg (c n : Nat) (x : Hoop) : (pmcRaw c n x).keeperImg = x.keeperImg := Hoop.keeperImg_of_calm (pmcRaw_calm c n x)

@[simp] theorem pmcRaw_mram (c n : Nat) (x : Hoop) : (pmcRaw c n x).mram = x.mram := Hoop.mram_of_calm (pmcRaw_calm c n x)

@[simp] theorem pmcRaw_bus (c n : Nat) (x : Hoop) : (pmcRaw c n x).bus = x.bus := Hoop.bus_of_calm (pmcRaw_calm c n x)

@[simp] theorem pmcRaw_freeIx (c n : Nat) (x : Hoop) : (pmcRaw c n x).freeIx = x.freeIx := Hoop.freeIx_of_calm (pmcRaw_calm c n x)

@[simp] theorem fault_part (k d : Nat) (x : Hoop) : (fault k d x).part = x.part := Hoop.part_of_calm (fault_calm k d x)

@[simp] theorem fault_isB (k d : Nat) (x : Hoop) : (fault k d x).isB = x.isB := Hoop.isB_of_calm (fault_calm k d x)

@[simp] theorem fault_tb (k d : Nat) (x : Hoop) : (fault k d x).tb = x.tb := Hoop.tb_of_calm (fault_calm k d x)

@[simp] theorem fault_slice (k d : Nat) (x : Hoop) : (fault k d x).slice = x.slice := Hoop.slice_of_calm (fault_calm k d x)

@[simp] theorem fault_prkSlice (k d : Nat) (x : Hoop) : (fault k d x).prkSlice = x.prkSlice := Hoop.prkSlice_of_calm (fault_calm k d x)

@[simp] theorem fault_rmap (k d : Nat) (x : Hoop) : (fault k d x).rmap = x.rmap := Hoop.rmap_of_calm (fault_calm k d x)

@[simp] theorem fault_mon (k d : Nat) (x : Hoop) : (fault k d x).mon = x.mon := Hoop.mon_of_calm (fault_calm k d x)

@[simp] theorem fault_bob (k d : Nat) (x : Hoop) : (fault k d x).bob = x.bob := Hoop.bob_of_calm (fault_calm k d x)

@[simp] theorem fault_tec (k d : Nat) (x : Hoop) : (fault k d x).tec = x.tec := Hoop.tec_of_calm (fault_calm k d x)

@[simp] theorem fault_ths (k d : Nat) (x : Hoop) : (fault k d x).ths = x.ths := Hoop.ths_of_calm (fault_calm k d x)

@[simp] theorem fault_hist (k d : Nat) (x : Hoop) : (fault k d x).hist = x.hist := Hoop.hist_of_calm (fault_calm k d x)

@[simp] theorem fault_xbar (k d : Nat) (x : Hoop) : (fault k d x).xbar = x.xbar := Hoop.xbar_of_calm (fault_calm k d x)

@[simp] theorem fault_pwr (k d : Nat) (x : Hoop) : (fault k d x).pwr = x.pwr := Hoop.pwr_of_calm (fault_calm k d x)

@[simp] theorem fault_settings (k d : Nat) (x : Hoop) : (fault k d x).settings = x.settings := Hoop.settings_of_calm (fault_calm k d x)

@[simp] theorem fault_calStore (k d : Nat) (x : Hoop) : (fault k d x).calStore = x.calStore := Hoop.calStore_of_calm (fault_calm k d x)

@[simp] theorem fault_keeperImg (k d : Nat) (x : Hoop) : (fault k d x).keeperImg = x.keeperImg := Hoop.keeperImg_of_calm (fault_calm k d x)

@[simp] theorem fault_mram (k d : Nat) (x : Hoop) : (fault k d x).mram = x.mram := Hoop.mram_of_calm (fault_calm k d x)

@[simp] theorem fault_bus (k d : Nat) (x : Hoop) : (fault k d x).bus = x.bus := Hoop.bus_of_calm (fault_calm k d x)

@[simp] theorem fault_freeIx (k d : Nat) (x : Hoop) : (fault k d x).freeIx = x.freeIx := Hoop.freeIx_of_calm (fault_calm k d x)

@[simp] theorem faultOff_part (k : Nat) (x : Hoop) : (faultOff k x).part = x.part := Hoop.part_of_calm (faultOff_calm k x)

@[simp] theorem faultOff_isB (k : Nat) (x : Hoop) : (faultOff k x).isB = x.isB := Hoop.isB_of_calm (faultOff_calm k x)

@[simp] theorem faultOff_tb (k : Nat) (x : Hoop) : (faultOff k x).tb = x.tb := Hoop.tb_of_calm (faultOff_calm k x)

@[simp] theorem faultOff_slice (k : Nat) (x : Hoop) : (faultOff k x).slice = x.slice := Hoop.slice_of_calm (faultOff_calm k x)

@[simp] theorem faultOff_prkSlice (k : Nat) (x : Hoop) : (faultOff k x).prkSlice = x.prkSlice := Hoop.prkSlice_of_calm (faultOff_calm k x)

@[simp] theorem faultOff_rmap (k : Nat) (x : Hoop) : (faultOff k x).rmap = x.rmap := Hoop.rmap_of_calm (faultOff_calm k x)

@[simp] theorem faultOff_mon (k : Nat) (x : Hoop) : (faultOff k x).mon = x.mon := Hoop.mon_of_calm (faultOff_calm k x)

@[simp] theorem faultOff_bob (k : Nat) (x : Hoop) : (faultOff k x).bob = x.bob := Hoop.bob_of_calm (faultOff_calm k x)

@[simp] theorem faultOff_tec (k : Nat) (x : Hoop) : (faultOff k x).tec = x.tec := Hoop.tec_of_calm (faultOff_calm k x)

@[simp] theorem faultOff_ths (k : Nat) (x : Hoop) : (faultOff k x).ths = x.ths := Hoop.ths_of_calm (faultOff_calm k x)

@[simp] theorem faultOff_hist (k : Nat) (x : Hoop) : (faultOff k x).hist = x.hist := Hoop.hist_of_calm (faultOff_calm k x)

@[simp] theorem faultOff_xbar (k : Nat) (x : Hoop) : (faultOff k x).xbar = x.xbar := Hoop.xbar_of_calm (faultOff_calm k x)

@[simp] theorem faultOff_pwr (k : Nat) (x : Hoop) : (faultOff k x).pwr = x.pwr := Hoop.pwr_of_calm (faultOff_calm k x)

@[simp] theorem faultOff_settings (k : Nat) (x : Hoop) : (faultOff k x).settings = x.settings := Hoop.settings_of_calm (faultOff_calm k x)

@[simp] theorem faultOff_calStore (k : Nat) (x : Hoop) : (faultOff k x).calStore = x.calStore := Hoop.calStore_of_calm (faultOff_calm k x)

@[simp] theorem faultOff_keeperImg (k : Nat) (x : Hoop) : (faultOff k x).keeperImg = x.keeperImg := Hoop.keeperImg_of_calm (faultOff_calm k x)

@[simp] theorem faultOff_mram (k : Nat) (x : Hoop) : (faultOff k x).mram = x.mram := Hoop.mram_of_calm (faultOff_calm k x)

@[simp] theorem faultOff_bus (k : Nat) (x : Hoop) : (faultOff k x).bus = x.bus := Hoop.bus_of_calm (faultOff_calm k x)

@[simp] theorem faultOff_freeIx (k : Nat) (x : Hoop) : (faultOff k x).freeIx = x.freeIx := Hoop.freeIx_of_calm (faultOff_calm k x)

@[simp] theorem breakRun_part (r op : Nat) (x : Hoop) : (breakRun r op x).part = x.part := Hoop.part_of_calm (breakRun_calm r op x)

@[simp] theorem breakRun_isB (r op : Nat) (x : Hoop) : (breakRun r op x).isB = x.isB := Hoop.isB_of_calm (breakRun_calm r op x)

@[simp] theorem breakRun_tb (r op : Nat) (x : Hoop) : (breakRun r op x).tb = x.tb := Hoop.tb_of_calm (breakRun_calm r op x)

@[simp] theorem breakRun_slice (r op : Nat) (x : Hoop) : (breakRun r op x).slice = x.slice := Hoop.slice_of_calm (breakRun_calm r op x)

@[simp] theorem breakRun_prkSlice (r op : Nat) (x : Hoop) : (breakRun r op x).prkSlice = x.prkSlice := Hoop.prkSlice_of_calm (breakRun_calm r op x)

@[simp] theorem breakRun_rmap (r op : Nat) (x : Hoop) : (breakRun r op x).rmap = x.rmap := Hoop.rmap_of_calm (breakRun_calm r op x)

@[simp] theorem breakRun_mon (r op : Nat) (x : Hoop) : (breakRun r op x).mon = x.mon := Hoop.mon_of_calm (breakRun_calm r op x)

@[simp] theorem breakRun_bob (r op : Nat) (x : Hoop) : (breakRun r op x).bob = x.bob := Hoop.bob_of_calm (breakRun_calm r op x)

@[simp] theorem breakRun_tec (r op : Nat) (x : Hoop) : (breakRun r op x).tec = x.tec := Hoop.tec_of_calm (breakRun_calm r op x)

@[simp] theorem breakRun_ths (r op : Nat) (x : Hoop) : (breakRun r op x).ths = x.ths := Hoop.ths_of_calm (breakRun_calm r op x)

@[simp] theorem breakRun_hist (r op : Nat) (x : Hoop) : (breakRun r op x).hist = x.hist := Hoop.hist_of_calm (breakRun_calm r op x)

@[simp] theorem breakRun_xbar (r op : Nat) (x : Hoop) : (breakRun r op x).xbar = x.xbar := Hoop.xbar_of_calm (breakRun_calm r op x)

@[simp] theorem breakRun_pwr (r op : Nat) (x : Hoop) : (breakRun r op x).pwr = x.pwr := Hoop.pwr_of_calm (breakRun_calm r op x)

@[simp] theorem breakRun_settings (r op : Nat) (x : Hoop) : (breakRun r op x).settings = x.settings := Hoop.settings_of_calm (breakRun_calm r op x)

@[simp] theorem breakRun_calStore (r op : Nat) (x : Hoop) : (breakRun r op x).calStore = x.calStore := Hoop.calStore_of_calm (breakRun_calm r op x)

@[simp] theorem breakRun_keeperImg (r op : Nat) (x : Hoop) : (breakRun r op x).keeperImg = x.keeperImg := Hoop.keeperImg_of_calm (breakRun_calm r op x)

@[simp] theorem breakRun_mram (r op : Nat) (x : Hoop) : (breakRun r op x).mram = x.mram := Hoop.mram_of_calm (breakRun_calm r op x)

@[simp] theorem breakRun_bus (r op : Nat) (x : Hoop) : (breakRun r op x).bus = x.bus := Hoop.bus_of_calm (breakRun_calm r op x)

@[simp] theorem breakRun_freeIx (r op : Nat) (x : Hoop) : (breakRun r op x).freeIx = x.freeIx := Hoop.freeIx_of_calm (breakRun_calm r op x)

/-- What an accepted admin change adds is telling. -/
theorem adminOk_calm (k : Ctx) (x y : Hoop) : (adminOk k x y).2.calm = y.calm := by
  unfold adminOk
  extract_lets
  exact (raiseEv_calm ..).trans (jnlPut_calm ..)

@[simp] theorem adminOk_part (k : Ctx) (x y : Hoop) : (adminOk k x y).2.part = y.part := Hoop.part_of_calm (adminOk_calm k x y)

@[simp] theorem adminOk_isB (k : Ctx) (x y : Hoop) : (adminOk k x y).2.isB = y.isB := Hoop.isB_of_calm (adminOk_calm k x y)

@[simp] theorem adminOk_tb (k : Ctx) (x y : Hoop) : (adminOk k x y).2.tb = y.tb := Hoop.tb_of_calm (adminOk_calm k x y)

@[simp] theorem adminOk_slice (k : Ctx) (x y : Hoop) : (adminOk k x y).2.slice = y.slice := Hoop.slice_of_calm (adminOk_calm k x y)

@[simp] theorem adminOk_prkSlice (k : Ctx) (x y : Hoop) : (adminOk k x y).2.prkSlice = y.prkSlice := Hoop.prkSlice_of_calm (adminOk_calm k x y)

@[simp] theorem adminOk_rmap (k : Ctx) (x y : Hoop) : (adminOk k x y).2.rmap = y.rmap := Hoop.rmap_of_calm (adminOk_calm k x y)

@[simp] theorem adminOk_mon (k : Ctx) (x y : Hoop) : (adminOk k x y).2.mon = y.mon := Hoop.mon_of_calm (adminOk_calm k x y)

@[simp] theorem adminOk_bob (k : Ctx) (x y : Hoop) : (adminOk k x y).2.bob = y.bob := Hoop.bob_of_calm (adminOk_calm k x y)

@[simp] theorem adminOk_tec (k : Ctx) (x y : Hoop) : (adminOk k x y).2.tec = y.tec := Hoop.tec_of_calm (adminOk_calm k x y)

@[simp] theorem adminOk_ths (k : Ctx) (x y : Hoop) : (adminOk k x y).2.ths = y.ths := Hoop.ths_of_calm (adminOk_calm k x y)

@[simp] theorem adminOk_hist (k : Ctx) (x y : Hoop) : (adminOk k x y).2.hist = y.hist := Hoop.hist_of_calm (adminOk_calm k x y)

@[simp] theorem adminOk_xbar (k : Ctx) (x y : Hoop) : (adminOk k x y).2.xbar = y.xbar := Hoop.xbar_of_calm (adminOk_calm k x y)

@[simp] theorem adminOk_pwr (k : Ctx) (x y : Hoop) : (adminOk k x y).2.pwr = y.pwr := Hoop.pwr_of_calm (adminOk_calm k x y)

@[simp] theorem adminOk_settings (k : Ctx) (x y : Hoop) : (adminOk k x y).2.settings = y.settings := Hoop.settings_of_calm (adminOk_calm k x y)

@[simp] theorem adminOk_calStore (k : Ctx) (x y : Hoop) : (adminOk k x y).2.calStore = y.calStore := Hoop.calStore_of_calm (adminOk_calm k x y)

@[simp] theorem adminOk_keeperImg (k : Ctx) (x y : Hoop) : (adminOk k x y).2.keeperImg = y.keeperImg := Hoop.keeperImg_of_calm (adminOk_calm k x y)

@[simp] theorem adminOk_mram (k : Ctx) (x y : Hoop) : (adminOk k x y).2.mram = y.mram := Hoop.mram_of_calm (adminOk_calm k x y)

@[simp] theorem adminOk_bus (k : Ctx) (x y : Hoop) : (adminOk k x y).2.bus = y.bus := Hoop.bus_of_calm (adminOk_calm k x y)

@[simp] theorem adminOk_freeIx (k : Ctx) (x y : Hoop) : (adminOk k x y).2.freeIx = y.freeIx := Hoop.freeIx_of_calm (adminOk_calm k x y)

@[simp] theorem storeSetting_part (k : Ctx) (w : Nat) (x : Hoop) : (storeSetting k w x).part = x.part := rfl

@[simp] theorem storeSetting_isB (k : Ctx) (w : Nat) (x : Hoop) : (storeSetting k w x).isB = x.isB := rfl

@[simp] theorem storeSetting_tb (k : Ctx) (w : Nat) (x : Hoop) : (storeSetting k w x).tb = x.tb := rfl

@[simp] theorem storeSetting_slice (k : Ctx) (w : Nat) (x : Hoop) : (storeSetting k w x).slice = x.slice := rfl

@[simp] theorem storeSetting_prkSlice (k : Ctx) (w : Nat) (x : Hoop) : (storeSetting k w x).prkSlice = x.prkSlice := rfl

@[simp] theorem storeSetting_rmap (k : Ctx) (w : Nat) (x : Hoop) : (storeSetting k w x).rmap = x.rmap := rfl

@[simp] theorem storeSetting_mon (k : Ctx) (w : Nat) (x : Hoop) : (storeSetting k w x).mon = x.mon := rfl

@[simp] theorem storeSetting_bob (k : Ctx) (w : Nat) (x : Hoop) : (storeSetting k w x).bob = x.bob := rfl

@[simp] theorem storeSetting_tec (k : Ctx) (w : Nat) (x : Hoop) : (storeSetting k w x).tec = x.tec := rfl

@[simp] theorem storeSetting_ths (k : Ctx) (w : Nat) (x : Hoop) : (storeSetting k w x).ths = x.ths := rfl

@[simp] theorem storeSetting_hist (k : Ctx) (w : Nat) (x : Hoop) : (storeSetting k w x).hist = x.hist := rfl

@[simp] theorem storeSetting_xbar (k : Ctx) (w : Nat) (x : Hoop) : (storeSetting k w x).xbar = x.xbar := rfl

@[simp] theorem storeSetting_pwr (k : Ctx) (w : Nat) (x : Hoop) : (storeSetting k w x).pwr = x.pwr := rfl

@[simp] theorem storeSetting_calStore (k : Ctx) (w : Nat) (x : Hoop) : (storeSetting k w x).calStore = x.calStore := rfl

@[simp] theorem storeSetting_keeperImg (k : Ctx) (w : Nat) (x : Hoop) : (storeSetting k w x).keeperImg = x.keeperImg := rfl

@[simp] theorem storeSetting_mram (k : Ctx) (w : Nat) (x : Hoop) : (storeSetting k w x).mram = x.mram := rfl

@[simp] theorem storeSetting_bus (k : Ctx) (w : Nat) (x : Hoop) : (storeSetting k w x).bus = x.bus := rfl

@[simp] theorem storeSetting_freeIx (k : Ctx) (w : Nat) (x : Hoop) : (storeSetting k w x).freeIx = x.freeIx := rfl

@[simp] theorem storeSetting_cm (k : Ctx) (w : Nat) (x : Hoop) : (storeSetting k w x).cm = x.cm := rfl

@[simp] theorem storeSetting_thr (k : Ctx) (w : Nat) (x : Hoop) : (storeSetting k w x).thr = x.thr := rfl

@[simp] theorem storeSetting_prk (k : Ctx) (w : Nat) (x : Hoop) : (storeSetting k w x).prk = x.prk := rfl

@[simp] theorem storeSetting_tmb (k : Ctx) (w : Nat) (x : Hoop) : (storeSetting k w x).tmb = x.tmb := rfl

@[simp] theorem storeSetting_drv (k : Ctx) (w : Nat) (x : Hoop) : (storeSetting k w x).drv = x.drv := rfl

@[simp] theorem storeSetting_led (k : Ctx) (w : Nat) (x : Hoop) : (storeSetting k w x).led = x.led := rfl

@[simp] theorem storeSetting_fc (k : Ctx) (w : Nat) (x : Hoop) : (storeSetting k w x).fc = x.fc := rfl

@[simp] theorem storeSetting_dk (k : Ctx) (w : Nat) (x : Hoop) : (storeSetting k w x).dk = x.dk := rfl

@[simp] theorem storeSetting_pair (k : Ctx) (w : Nat) (x : Hoop) : (storeSetting k w x).pair = x.pair := rfl

@[simp] theorem storeSetting_mbx (k : Ctx) (w : Nat) (x : Hoop) : (storeSetting k w x).mbx = x.mbx := rfl

@[simp] theorem storeSetting_evt (k : Ctx) (w : Nat) (x : Hoop) : (storeSetting k w x).evt = x.evt := rfl

@[simp] theorem storeSetting_wlm (k : Ctx) (w : Nat) (x : Hoop) : (storeSetting k w x).wlm = x.wlm := rfl

@[simp] theorem storeSetting_pmc (k : Ctx) (w : Nat) (x : Hoop) : (storeSetting k w x).pmc = x.pmc := rfl

@[simp] theorem storeSetting_boot (k : Ctx) (w : Nat) (x : Hoop) : (storeSetting k w x).boot = x.boot := rfl

@[simp] theorem storeSetting_jnl (k : Ctx) (w : Nat) (x : Hoop) : (storeSetting k w x).jnl = x.jnl := rfl

end Sys2Proof.Machine
end

