-- ==== Sys2Proof/Laws/State.lean ====
section
/-!
SUPPORT. One lemma per field and named update of the state, true by `rfl`: what an update of one block leaves alone.
-/

namespace Sys2Proof.Machine

/-! ## The module -/

@[simp] theorem State.hoop_a (s : State) : s.hoop .hoopA = s.a := rfl
@[simp] theorem State.hoop_b (s : State) : s.hoop .hoopB = s.b := rfl
@[simp] theorem State.has_a (s : State) : s.has .hoopA = true := rfl
@[simp] theorem other_a : other .hoopA = .hoopB := rfl
@[simp] theorem other_b : other .hoopB = .hoopA := rfl

@[simp] theorem State.setHoop_duo (s : State) (h : HoopId) (x : Hoop) : (s.setHoop h x).duo = s.duo := by cases h <;> rfl
@[simp] theorem State.setHoop_balls (s : State) (h : HoopId) (x : Hoop) : (s.setHoop h x).balls = s.balls := by cases h <;> rfl
@[simp] theorem State.setHoop_pending (s : State) (h : HoopId) (x : Hoop) : (s.setHoop h x).pending = s.pending := by cases h <;> rfl
@[simp] theorem State.setDuo_balls (s : State) (d : Duo) : (s.setDuo d).balls = s.balls := rfl
@[simp] theorem State.setDuo_pending (s : State) (d : Duo) : (s.setDuo d).pending = s.pending := rfl
@[simp] theorem State.setDuo_a (s : State) (d : Duo) : (s.setDuo d).a = s.a := rfl
@[simp] theorem State.setDuo_b (s : State) (d : Duo) : (s.setDuo d).b = s.b := rfl
@[simp] theorem State.setDuo_duo (s : State) (d : Duo) : (s.setDuo d).duo = d := rfl
@[simp] theorem State.setDuo_hoop (s : State) (d : Duo) (h : HoopId) : (s.setDuo d).hoop h = s.hoop h := by cases h <;> rfl
@[simp] theorem State.setHoop_self (s : State) (h : HoopId) (x : Hoop) : (s.setHoop h x).hoop h = x := by cases h <;> rfl
@[simp] theorem State.setHoop_other (s : State) (h : HoopId) (x : Hoop) : (s.setHoop h x).hoop (other h) = s.hoop (other h) := by cases h <;> rfl

@[simp] theorem State.upd_duo (s : State) (h : HoopId) (f : Hoop → Hoop) : (s.upd h f).duo = s.duo := by unfold State.upd; split <;> simp
@[simp] theorem State.upd_balls (s : State) (h : HoopId) (f : Hoop → Hoop) : (s.upd h f).balls = s.balls := by unfold State.upd; split <;> simp
@[simp] theorem State.upd_pending (s : State) (h : HoopId) (f : Hoop → Hoop) : (s.upd h f).pending = s.pending := by unfold State.upd; split <;> simp

/-- The changed hoop, where it is enabled. -/
theorem State.upd_self (s : State) (h : HoopId) (f : Hoop → Hoop) (e : s.has h = true) : (s.upd h f).hoop h = f (s.hoop h) := by
  simp [State.upd, e]

/-- An effect that leaves the hoop as it is leaves the module as it is. -/
theorem State.upd_id (s : State) (h : HoopId) (f : Hoop → Hoop) (e : f (s.hoop h) = s.hoop h) : s.upd h f = s := by
  unfold State.upd
  split
  · rw [e]; cases h <;> rfl
  · rfl

/-- Effects that agree on the hoop agree on the module. -/
theorem State.upd_congr (s : State) (h : HoopId) (f g : Hoop → Hoop) (e : f (s.hoop h) = g (s.hoop h)) : s.upd h f = s.upd h g := by
  unfold State.upd; rw [e]

/-- The other hoop keeps its state. -/
@[simp] theorem State.upd_other (s : State) (h : HoopId) (f : Hoop → Hoop) : (s.upd h f).hoop (other h) = s.hoop (other h) := by
  unfold State.upd; split <;> simp

/-! ## `setCmp` -/

@[simp] theorem Hoop.setCmp_part (x : Hoop) (k : Nat) (c : Cmp) : (x.setCmp k c).part = x.part := rfl
@[simp] theorem Hoop.setCmp_isB (x : Hoop) (k : Nat) (c : Cmp) : (x.setCmp k c).isB = x.isB := rfl
@[simp] theorem Hoop.setCmp_cm (x : Hoop) (k : Nat) (c : Cmp) : (x.setCmp k c).cm = x.cm := rfl
@[simp] theorem Hoop.setCmp_thr (x : Hoop) (k : Nat) (c : Cmp) : (x.setCmp k c).thr = x.thr := rfl
@[simp] theorem Hoop.setCmp_prk (x : Hoop) (k : Nat) (c : Cmp) : (x.setCmp k c).prk = x.prk := rfl
@[simp] theorem Hoop.setCmp_tmb (x : Hoop) (k : Nat) (c : Cmp) : (x.setCmp k c).tmb = x.tmb := rfl
@[simp] theorem Hoop.setCmp_drv (x : Hoop) (k : Nat) (c : Cmp) : (x.setCmp k c).drv = x.drv := rfl
@[simp] theorem Hoop.setCmp_slice (x : Hoop) (k : Nat) (c : Cmp) : (x.setCmp k c).slice = x.slice := rfl
@[simp] theorem Hoop.setCmp_prkSlice (x : Hoop) (k : Nat) (c : Cmp) : (x.setCmp k c).prkSlice = x.prkSlice := rfl
@[simp] theorem Hoop.setCmp_oldSlices (x : Hoop) (k : Nat) (c : Cmp) : (x.setCmp k c).oldSlices = x.oldSlices := rfl
@[simp] theorem Hoop.setCmp_rmap (x : Hoop) (k : Nat) (c : Cmp) : (x.setCmp k c).rmap = x.rmap := rfl
@[simp] theorem Hoop.setCmp_mon (x : Hoop) (k : Nat) (c : Cmp) : (x.setCmp k c).mon = x.mon := rfl
@[simp] theorem Hoop.setCmp_bob (x : Hoop) (k : Nat) (c : Cmp) : (x.setCmp k c).bob = x.bob := rfl
@[simp] theorem Hoop.setCmp_tec (x : Hoop) (k : Nat) (c : Cmp) : (x.setCmp k c).tec = x.tec := rfl
@[simp] theorem Hoop.setCmp_ths (x : Hoop) (k : Nat) (c : Cmp) : (x.setCmp k c).ths = x.ths := rfl
@[simp] theorem Hoop.setCmp_fc (x : Hoop) (k : Nat) (c : Cmp) : (x.setCmp k c).fc = x.fc := rfl
@[simp] theorem Hoop.setCmp_dk (x : Hoop) (k : Nat) (c : Cmp) : (x.setCmp k c).dk = x.dk := rfl
@[simp] theorem Hoop.setCmp_jnl (x : Hoop) (k : Nat) (c : Cmp) : (x.setCmp k c).jnl = x.jnl := rfl
@[simp] theorem Hoop.setCmp_hist (x : Hoop) (k : Nat) (c : Cmp) : (x.setCmp k c).hist = x.hist := rfl
@[simp] theorem Hoop.setCmp_led (x : Hoop) (k : Nat) (c : Cmp) : (x.setCmp k c).led = x.led := rfl
@[simp] theorem Hoop.setCmp_mbx (x : Hoop) (k : Nat) (c : Cmp) : (x.setCmp k c).mbx = x.mbx := rfl
@[simp] theorem Hoop.setCmp_evt (x : Hoop) (k : Nat) (c : Cmp) : (x.setCmp k c).evt = x.evt := rfl
@[simp] theorem Hoop.setCmp_pair (x : Hoop) (k : Nat) (c : Cmp) : (x.setCmp k c).pair = x.pair := rfl
@[simp] theorem Hoop.setCmp_wlm (x : Hoop) (k : Nat) (c : Cmp) : (x.setCmp k c).wlm = x.wlm := rfl
@[simp] theorem Hoop.setCmp_xbar (x : Hoop) (k : Nat) (c : Cmp) : (x.setCmp k c).xbar = x.xbar := rfl
@[simp] theorem Hoop.setCmp_pmc (x : Hoop) (k : Nat) (c : Cmp) : (x.setCmp k c).pmc = x.pmc := rfl
@[simp] theorem Hoop.setCmp_boot (x : Hoop) (k : Nat) (c : Cmp) : (x.setCmp k c).boot = x.boot := rfl
@[simp] theorem Hoop.setCmp_pwr (x : Hoop) (k : Nat) (c : Cmp) : (x.setCmp k c).pwr = x.pwr := rfl
@[simp] theorem Hoop.setCmp_settings (x : Hoop) (k : Nat) (c : Cmp) : (x.setCmp k c).settings = x.settings := rfl
@[simp] theorem Hoop.setCmp_calStore (x : Hoop) (k : Nat) (c : Cmp) : (x.setCmp k c).calStore = x.calStore := rfl
@[simp] theorem Hoop.setCmp_keeperImg (x : Hoop) (k : Nat) (c : Cmp) : (x.setCmp k c).keeperImg = x.keeperImg := rfl
@[simp] theorem Hoop.setCmp_mram (x : Hoop) (k : Nat) (c : Cmp) : (x.setCmp k c).mram = x.mram := rfl
@[simp] theorem Hoop.setCmp_mwrites (x : Hoop) (k : Nat) (c : Cmp) : (x.setCmp k c).mwrites = x.mwrites := rfl
@[simp] theorem Hoop.setCmp_bus (x : Hoop) (k : Nat) (c : Cmp) : (x.setCmp k c).bus = x.bus := rfl
@[simp] theorem Hoop.setCmp_freeIx (x : Hoop) (k : Nat) (c : Cmp) : (x.setCmp k c).freeIx = x.freeIx := rfl

/-! ## `setDom` -/

@[simp] theorem Hoop.setDom_part (x : Hoop) (d : Nat) (v : Dom) : (x.setDom d v).part = x.part := by unfold Hoop.setDom; split <;> rfl
@[simp] theorem Hoop.setDom_isB (x : Hoop) (d : Nat) (v : Dom) : (x.setDom d v).isB = x.isB := by unfold Hoop.setDom; split <;> rfl
@[simp] theorem Hoop.setDom_cm (x : Hoop) (d : Nat) (v : Dom) : (x.setDom d v).cm = x.cm := by unfold Hoop.setDom; split <;> rfl
@[simp] theorem Hoop.setDom_thr (x : Hoop) (d : Nat) (v : Dom) : (x.setDom d v).thr = x.thr := by unfold Hoop.setDom; split <;> rfl
@[simp] theorem Hoop.setDom_prk (x : Hoop) (d : Nat) (v : Dom) : (x.setDom d v).prk = x.prk := by unfold Hoop.setDom; split <;> rfl
@[simp] theorem Hoop.setDom_tmb (x : Hoop) (d : Nat) (v : Dom) : (x.setDom d v).tmb = x.tmb := by unfold Hoop.setDom; split <;> rfl
@[simp] theorem Hoop.setDom_drv (x : Hoop) (d : Nat) (v : Dom) : (x.setDom d v).drv = x.drv := by unfold Hoop.setDom; split <;> rfl
@[simp] theorem Hoop.setDom_slice (x : Hoop) (d : Nat) (v : Dom) : (x.setDom d v).slice = x.slice := by unfold Hoop.setDom; split <;> rfl
@[simp] theorem Hoop.setDom_prkSlice (x : Hoop) (d : Nat) (v : Dom) : (x.setDom d v).prkSlice = x.prkSlice := by unfold Hoop.setDom; split <;> rfl
@[simp] theorem Hoop.setDom_oldSlices (x : Hoop) (d : Nat) (v : Dom) : (x.setDom d v).oldSlices = x.oldSlices := by unfold Hoop.setDom; split <;> rfl
@[simp] theorem Hoop.setDom_rmap (x : Hoop) (d : Nat) (v : Dom) : (x.setDom d v).rmap = x.rmap := by unfold Hoop.setDom; split <;> rfl
@[simp] theorem Hoop.setDom_mon (x : Hoop) (d : Nat) (v : Dom) : (x.setDom d v).mon = x.mon := by unfold Hoop.setDom; split <;> rfl
@[simp] theorem Hoop.setDom_bob (x : Hoop) (d : Nat) (v : Dom) : (x.setDom d v).bob = x.bob := by unfold Hoop.setDom; split <;> rfl
@[simp] theorem Hoop.setDom_tec (x : Hoop) (d : Nat) (v : Dom) : (x.setDom d v).tec = x.tec := by unfold Hoop.setDom; split <;> rfl
@[simp] theorem Hoop.setDom_ths (x : Hoop) (d : Nat) (v : Dom) : (x.setDom d v).ths = x.ths := by unfold Hoop.setDom; split <;> rfl
@[simp] theorem Hoop.setDom_fc (x : Hoop) (d : Nat) (v : Dom) : (x.setDom d v).fc = x.fc := by unfold Hoop.setDom; split <;> rfl
@[simp] theorem Hoop.setDom_dk (x : Hoop) (d : Nat) (v : Dom) : (x.setDom d v).dk = x.dk := by unfold Hoop.setDom; split <;> rfl
@[simp] theorem Hoop.setDom_jnl (x : Hoop) (d : Nat) (v : Dom) : (x.setDom d v).jnl = x.jnl := by unfold Hoop.setDom; split <;> rfl
@[simp] theorem Hoop.setDom_hist (x : Hoop) (d : Nat) (v : Dom) : (x.setDom d v).hist = x.hist := by unfold Hoop.setDom; split <;> rfl
@[simp] theorem Hoop.setDom_led (x : Hoop) (d : Nat) (v : Dom) : (x.setDom d v).led = x.led := by unfold Hoop.setDom; split <;> rfl
@[simp] theorem Hoop.setDom_mbx (x : Hoop) (d : Nat) (v : Dom) : (x.setDom d v).mbx = x.mbx := by unfold Hoop.setDom; split <;> rfl
@[simp] theorem Hoop.setDom_evt (x : Hoop) (d : Nat) (v : Dom) : (x.setDom d v).evt = x.evt := by unfold Hoop.setDom; split <;> rfl
@[simp] theorem Hoop.setDom_pair (x : Hoop) (d : Nat) (v : Dom) : (x.setDom d v).pair = x.pair := by unfold Hoop.setDom; split <;> rfl
@[simp] theorem Hoop.setDom_wlm (x : Hoop) (d : Nat) (v : Dom) : (x.setDom d v).wlm = x.wlm := by unfold Hoop.setDom; split <;> rfl
@[simp] theorem Hoop.setDom_xbar (x : Hoop) (d : Nat) (v : Dom) : (x.setDom d v).xbar = x.xbar := by unfold Hoop.setDom; split <;> rfl
@[simp] theorem Hoop.setDom_pmc (x : Hoop) (d : Nat) (v : Dom) : (x.setDom d v).pmc = x.pmc := by unfold Hoop.setDom; split <;> rfl
@[simp] theorem Hoop.setDom_boot (x : Hoop) (d : Nat) (v : Dom) : (x.setDom d v).boot = x.boot := by unfold Hoop.setDom; split <;> rfl
@[simp] theorem Hoop.setDom_pwr (x : Hoop) (d : Nat) (v : Dom) : (x.setDom d v).pwr = x.pwr := by unfold Hoop.setDom; split <;> rfl
@[simp] theorem Hoop.setDom_settings (x : Hoop) (d : Nat) (v : Dom) : (x.setDom d v).settings = x.settings := by unfold Hoop.setDom; split <;> rfl
@[simp] theorem Hoop.setDom_calStore (x : Hoop) (d : Nat) (v : Dom) : (x.setDom d v).calStore = x.calStore := by unfold Hoop.setDom; split <;> rfl
@[simp] theorem Hoop.setDom_keeperImg (x : Hoop) (d : Nat) (v : Dom) : (x.setDom d v).keeperImg = x.keeperImg := by unfold Hoop.setDom; split <;> rfl
@[simp] theorem Hoop.setDom_mram (x : Hoop) (d : Nat) (v : Dom) : (x.setDom d v).mram = x.mram := by unfold Hoop.setDom; split <;> rfl
@[simp] theorem Hoop.setDom_mwrites (x : Hoop) (d : Nat) (v : Dom) : (x.setDom d v).mwrites = x.mwrites := by unfold Hoop.setDom; split <;> rfl
@[simp] theorem Hoop.setDom_bus (x : Hoop) (d : Nat) (v : Dom) : (x.setDom d v).bus = x.bus := by unfold Hoop.setDom; split <;> rfl
@[simp] theorem Hoop.setDom_freeIx (x : Hoop) (d : Nat) (v : Dom) : (x.setDom d v).freeIx = x.freeIx := by unfold Hoop.setDom; split <;> rfl

/-! ## `setThread` -/

@[simp] theorem Hoop.setThread_part (x : Hoop) (i : Nat) (t : Thread) : (x.setThread i t).part = x.part := rfl
@[simp] theorem Hoop.setThread_isB (x : Hoop) (i : Nat) (t : Thread) : (x.setThread i t).isB = x.isB := rfl
@[simp] theorem Hoop.setThread_tb (x : Hoop) (i : Nat) (t : Thread) : (x.setThread i t).tb = x.tb := rfl
@[simp] theorem Hoop.setThread_cm (x : Hoop) (i : Nat) (t : Thread) : (x.setThread i t).cm = x.cm := rfl
@[simp] theorem Hoop.setThread_prk (x : Hoop) (i : Nat) (t : Thread) : (x.setThread i t).prk = x.prk := rfl
@[simp] theorem Hoop.setThread_tmb (x : Hoop) (i : Nat) (t : Thread) : (x.setThread i t).tmb = x.tmb := rfl
@[simp] theorem Hoop.setThread_drv (x : Hoop) (i : Nat) (t : Thread) : (x.setThread i t).drv = x.drv := rfl
@[simp] theorem Hoop.setThread_slice (x : Hoop) (i : Nat) (t : Thread) : (x.setThread i t).slice = x.slice := rfl
@[simp] theorem Hoop.setThread_prkSlice (x : Hoop) (i : Nat) (t : Thread) : (x.setThread i t).prkSlice = x.prkSlice := rfl
@[simp] theorem Hoop.setThread_oldSlices (x : Hoop) (i : Nat) (t : Thread) : (x.setThread i t).oldSlices = x.oldSlices := rfl
@[simp] theorem Hoop.setThread_rmap (x : Hoop) (i : Nat) (t : Thread) : (x.setThread i t).rmap = x.rmap := rfl
@[simp] theorem Hoop.setThread_mon (x : Hoop) (i : Nat) (t : Thread) : (x.setThread i t).mon = x.mon := rfl
@[simp] theorem Hoop.setThread_bob (x : Hoop) (i : Nat) (t : Thread) : (x.setThread i t).bob = x.bob := rfl
@[simp] theorem Hoop.setThread_tec (x : Hoop) (i : Nat) (t : Thread) : (x.setThread i t).tec = x.tec := rfl
@[simp] theorem Hoop.setThread_ths (x : Hoop) (i : Nat) (t : Thread) : (x.setThread i t).ths = x.ths := rfl
@[simp] theorem Hoop.setThread_fc (x : Hoop) (i : Nat) (t : Thread) : (x.setThread i t).fc = x.fc := rfl
@[simp] theorem Hoop.setThread_dk (x : Hoop) (i : Nat) (t : Thread) : (x.setThread i t).dk = x.dk := rfl
@[simp] theorem Hoop.setThread_jnl (x : Hoop) (i : Nat) (t : Thread) : (x.setThread i t).jnl = x.jnl := rfl
@[simp] theorem Hoop.setThread_hist (x : Hoop) (i : Nat) (t : Thread) : (x.setThread i t).hist = x.hist := rfl
@[simp] theorem Hoop.setThread_led (x : Hoop) (i : Nat) (t : Thread) : (x.setThread i t).led = x.led := rfl
@[simp] theorem Hoop.setThread_mbx (x : Hoop) (i : Nat) (t : Thread) : (x.setThread i t).mbx = x.mbx := rfl
@[simp] theorem Hoop.setThread_evt (x : Hoop) (i : Nat) (t : Thread) : (x.setThread i t).evt = x.evt := rfl
@[simp] theorem Hoop.setThread_pair (x : Hoop) (i : Nat) (t : Thread) : (x.setThread i t).pair = x.pair := rfl
@[simp] theorem Hoop.setThread_wlm (x : Hoop) (i : Nat) (t : Thread) : (x.setThread i t).wlm = x.wlm := rfl
@[simp] theorem Hoop.setThread_xbar (x : Hoop) (i : Nat) (t : Thread) : (x.setThread i t).xbar = x.xbar := rfl
@[simp] theorem Hoop.setThread_pmc (x : Hoop) (i : Nat) (t : Thread) : (x.setThread i t).pmc = x.pmc := rfl
@[simp] theorem Hoop.setThread_boot (x : Hoop) (i : Nat) (t : Thread) : (x.setThread i t).boot = x.boot := rfl
@[simp] theorem Hoop.setThread_pwr (x : Hoop) (i : Nat) (t : Thread) : (x.setThread i t).pwr = x.pwr := rfl
@[simp] theorem Hoop.setThread_settings (x : Hoop) (i : Nat) (t : Thread) : (x.setThread i t).settings = x.settings := rfl
@[simp] theorem Hoop.setThread_calStore (x : Hoop) (i : Nat) (t : Thread) : (x.setThread i t).calStore = x.calStore := rfl
@[simp] theorem Hoop.setThread_keeperImg (x : Hoop) (i : Nat) (t : Thread) : (x.setThread i t).keeperImg = x.keeperImg := rfl
@[simp] theorem Hoop.setThread_mram (x : Hoop) (i : Nat) (t : Thread) : (x.setThread i t).mram = x.mram := rfl
@[simp] theorem Hoop.setThread_mwrites (x : Hoop) (i : Nat) (t : Thread) : (x.setThread i t).mwrites = x.mwrites := rfl
@[simp] theorem Hoop.setThread_bus (x : Hoop) (i : Nat) (t : Thread) : (x.setThread i t).bus = x.bus := rfl
@[simp] theorem Hoop.setThread_freeIx (x : Hoop) (i : Nat) (t : Thread) : (x.setThread i t).freeIx = x.freeIx := rfl

/-! ## `setNeedle` -/

@[simp] theorem Hoop.setNeedle_part (x : Hoop) (e : Nat) (v : Needle) : (x.setNeedle e v).part = x.part := rfl
@[simp] theorem Hoop.setNeedle_isB (x : Hoop) (e : Nat) (v : Needle) : (x.setNeedle e v).isB = x.isB := rfl
@[simp] theorem Hoop.setNeedle_tb (x : Hoop) (e : Nat) (v : Needle) : (x.setNeedle e v).tb = x.tb := rfl
@[simp] theorem Hoop.setNeedle_cm (x : Hoop) (e : Nat) (v : Needle) : (x.setNeedle e v).cm = x.cm := rfl
@[simp] theorem Hoop.setNeedle_thr (x : Hoop) (e : Nat) (v : Needle) : (x.setNeedle e v).thr = x.thr := rfl
@[simp] theorem Hoop.setNeedle_prk (x : Hoop) (e : Nat) (v : Needle) : (x.setNeedle e v).prk = x.prk := rfl
@[simp] theorem Hoop.setNeedle_tmb (x : Hoop) (e : Nat) (v : Needle) : (x.setNeedle e v).tmb = x.tmb := rfl
@[simp] theorem Hoop.setNeedle_slice (x : Hoop) (e : Nat) (v : Needle) : (x.setNeedle e v).slice = x.slice := rfl
@[simp] theorem Hoop.setNeedle_prkSlice (x : Hoop) (e : Nat) (v : Needle) : (x.setNeedle e v).prkSlice = x.prkSlice := rfl
@[simp] theorem Hoop.setNeedle_oldSlices (x : Hoop) (e : Nat) (v : Needle) : (x.setNeedle e v).oldSlices = x.oldSlices := rfl
@[simp] theorem Hoop.setNeedle_rmap (x : Hoop) (e : Nat) (v : Needle) : (x.setNeedle e v).rmap = x.rmap := rfl
@[simp] theorem Hoop.setNeedle_mon (x : Hoop) (e : Nat) (v : Needle) : (x.setNeedle e v).mon = x.mon := rfl
@[simp] theorem Hoop.setNeedle_bob (x : Hoop) (e : Nat) (v : Needle) : (x.setNeedle e v).bob = x.bob := rfl
@[simp] theorem Hoop.setNeedle_tec (x : Hoop) (e : Nat) (v : Needle) : (x.setNeedle e v).tec = x.tec := rfl
@[simp] theorem Hoop.setNeedle_ths (x : Hoop) (e : Nat) (v : Needle) : (x.setNeedle e v).ths = x.ths := rfl
@[simp] theorem Hoop.setNeedle_fc (x : Hoop) (e : Nat) (v : Needle) : (x.setNeedle e v).fc = x.fc := rfl
@[simp] theorem Hoop.setNeedle_dk (x : Hoop) (e : Nat) (v : Needle) : (x.setNeedle e v).dk = x.dk := rfl
@[simp] theorem Hoop.setNeedle_jnl (x : Hoop) (e : Nat) (v : Needle) : (x.setNeedle e v).jnl = x.jnl := rfl
@[simp] theorem Hoop.setNeedle_hist (x : Hoop) (e : Nat) (v : Needle) : (x.setNeedle e v).hist = x.hist := rfl
@[simp] theorem Hoop.setNeedle_led (x : Hoop) (e : Nat) (v : Needle) : (x.setNeedle e v).led = x.led := rfl
@[simp] theorem Hoop.setNeedle_mbx (x : Hoop) (e : Nat) (v : Needle) : (x.setNeedle e v).mbx = x.mbx := rfl
@[simp] theorem Hoop.setNeedle_evt (x : Hoop) (e : Nat) (v : Needle) : (x.setNeedle e v).evt = x.evt := rfl
@[simp] theorem Hoop.setNeedle_pair (x : Hoop) (e : Nat) (v : Needle) : (x.setNeedle e v).pair = x.pair := rfl
@[simp] theorem Hoop.setNeedle_wlm (x : Hoop) (e : Nat) (v : Needle) : (x.setNeedle e v).wlm = x.wlm := rfl
@[simp] theorem Hoop.setNeedle_xbar (x : Hoop) (e : Nat) (v : Needle) : (x.setNeedle e v).xbar = x.xbar := rfl
@[simp] theorem Hoop.setNeedle_pmc (x : Hoop) (e : Nat) (v : Needle) : (x.setNeedle e v).pmc = x.pmc := rfl
@[simp] theorem Hoop.setNeedle_boot (x : Hoop) (e : Nat) (v : Needle) : (x.setNeedle e v).boot = x.boot := rfl
@[simp] theorem Hoop.setNeedle_pwr (x : Hoop) (e : Nat) (v : Needle) : (x.setNeedle e v).pwr = x.pwr := rfl
@[simp] theorem Hoop.setNeedle_settings (x : Hoop) (e : Nat) (v : Needle) : (x.setNeedle e v).settings = x.settings := rfl
@[simp] theorem Hoop.setNeedle_calStore (x : Hoop) (e : Nat) (v : Needle) : (x.setNeedle e v).calStore = x.calStore := rfl
@[simp] theorem Hoop.setNeedle_keeperImg (x : Hoop) (e : Nat) (v : Needle) : (x.setNeedle e v).keeperImg = x.keeperImg := rfl
@[simp] theorem Hoop.setNeedle_mram (x : Hoop) (e : Nat) (v : Needle) : (x.setNeedle e v).mram = x.mram := rfl
@[simp] theorem Hoop.setNeedle_mwrites (x : Hoop) (e : Nat) (v : Needle) : (x.setNeedle e v).mwrites = x.mwrites := rfl
@[simp] theorem Hoop.setNeedle_bus (x : Hoop) (e : Nat) (v : Needle) : (x.setNeedle e v).bus = x.bus := rfl
@[simp] theorem Hoop.setNeedle_freeIx (x : Hoop) (e : Nat) (v : Needle) : (x.setNeedle e v).freeIx = x.freeIx := rfl

/-! ## `updHeater` -/

@[simp] theorem Hoop.updHeater_part (x : Hoop) (e : Nat) (f : Heater → Heater) : (x.updHeater e f).part = x.part := rfl
@[simp] theorem Hoop.updHeater_isB (x : Hoop) (e : Nat) (f : Heater → Heater) : (x.updHeater e f).isB = x.isB := rfl
@[simp] theorem Hoop.updHeater_tb (x : Hoop) (e : Nat) (f : Heater → Heater) : (x.updHeater e f).tb = x.tb := rfl
@[simp] theorem Hoop.updHeater_cm (x : Hoop) (e : Nat) (f : Heater → Heater) : (x.updHeater e f).cm = x.cm := rfl
@[simp] theorem Hoop.updHeater_thr (x : Hoop) (e : Nat) (f : Heater → Heater) : (x.updHeater e f).thr = x.thr := rfl
@[simp] theorem Hoop.updHeater_prk (x : Hoop) (e : Nat) (f : Heater → Heater) : (x.updHeater e f).prk = x.prk := rfl
@[simp] theorem Hoop.updHeater_tmb (x : Hoop) (e : Nat) (f : Heater → Heater) : (x.updHeater e f).tmb = x.tmb := rfl
@[simp] theorem Hoop.updHeater_slice (x : Hoop) (e : Nat) (f : Heater → Heater) : (x.updHeater e f).slice = x.slice := rfl
@[simp] theorem Hoop.updHeater_prkSlice (x : Hoop) (e : Nat) (f : Heater → Heater) : (x.updHeater e f).prkSlice = x.prkSlice := rfl
@[simp] theorem Hoop.updHeater_oldSlices (x : Hoop) (e : Nat) (f : Heater → Heater) : (x.updHeater e f).oldSlices = x.oldSlices := rfl
@[simp] theorem Hoop.updHeater_rmap (x : Hoop) (e : Nat) (f : Heater → Heater) : (x.updHeater e f).rmap = x.rmap := rfl
@[simp] theorem Hoop.updHeater_mon (x : Hoop) (e : Nat) (f : Heater → Heater) : (x.updHeater e f).mon = x.mon := rfl
@[simp] theorem Hoop.updHeater_bob (x : Hoop) (e : Nat) (f : Heater → Heater) : (x.updHeater e f).bob = x.bob := rfl
@[simp] theorem Hoop.updHeater_tec (x : Hoop) (e : Nat) (f : Heater → Heater) : (x.updHeater e f).tec = x.tec := rfl
@[simp] theorem Hoop.updHeater_ths (x : Hoop) (e : Nat) (f : Heater → Heater) : (x.updHeater e f).ths = x.ths := rfl
@[simp] theorem Hoop.updHeater_fc (x : Hoop) (e : Nat) (f : Heater → Heater) : (x.updHeater e f).fc = x.fc := rfl
@[simp] theorem Hoop.updHeater_dk (x : Hoop) (e : Nat) (f : Heater → Heater) : (x.updHeater e f).dk = x.dk := rfl
@[simp] theorem Hoop.updHeater_jnl (x : Hoop) (e : Nat) (f : Heater → Heater) : (x.updHeater e f).jnl = x.jnl := rfl
@[simp] theorem Hoop.updHeater_hist (x : Hoop) (e : Nat) (f : Heater → Heater) : (x.updHeater e f).hist = x.hist := rfl
@[simp] theorem Hoop.updHeater_led (x : Hoop) (e : Nat) (f : Heater → Heater) : (x.updHeater e f).led = x.led := rfl
@[simp] theorem Hoop.updHeater_mbx (x : Hoop) (e : Nat) (f : Heater → Heater) : (x.updHeater e f).mbx = x.mbx := rfl
@[simp] theorem Hoop.updHeater_evt (x : Hoop) (e : Nat) (f : Heater → Heater) : (x.updHeater e f).evt = x.evt := rfl
@[simp] theorem Hoop.updHeater_pair (x : Hoop) (e : Nat) (f : Heater → Heater) : (x.updHeater e f).pair = x.pair := rfl
@[simp] theorem Hoop.updHeater_wlm (x : Hoop) (e : Nat) (f : Heater → Heater) : (x.updHeater e f).wlm = x.wlm := rfl
@[simp] theorem Hoop.updHeater_xbar (x : Hoop) (e : Nat) (f : Heater → Heater) : (x.updHeater e f).xbar = x.xbar := rfl
@[simp] theorem Hoop.updHeater_pmc (x : Hoop) (e : Nat) (f : Heater → Heater) : (x.updHeater e f).pmc = x.pmc := rfl
@[simp] theorem Hoop.updHeater_boot (x : Hoop) (e : Nat) (f : Heater → Heater) : (x.updHeater e f).boot = x.boot := rfl
@[simp] theorem Hoop.updHeater_pwr (x : Hoop) (e : Nat) (f : Heater → Heater) : (x.updHeater e f).pwr = x.pwr := rfl
@[simp] theorem Hoop.updHeater_settings (x : Hoop) (e : Nat) (f : Heater → Heater) : (x.updHeater e f).settings = x.settings := rfl
@[simp] theorem Hoop.updHeater_calStore (x : Hoop) (e : Nat) (f : Heater → Heater) : (x.updHeater e f).calStore = x.calStore := rfl
@[simp] theorem Hoop.updHeater_keeperImg (x : Hoop) (e : Nat) (f : Heater → Heater) : (x.updHeater e f).keeperImg = x.keeperImg := rfl
@[simp] theorem Hoop.updHeater_mram (x : Hoop) (e : Nat) (f : Heater → Heater) : (x.updHeater e f).mram = x.mram := rfl
@[simp] theorem Hoop.updHeater_mwrites (x : Hoop) (e : Nat) (f : Heater → Heater) : (x.updHeater e f).mwrites = x.mwrites := rfl
@[simp] theorem Hoop.updHeater_bus (x : Hoop) (e : Nat) (f : Heater → Heater) : (x.updHeater e f).bus = x.bus := rfl
@[simp] theorem Hoop.updHeater_freeIx (x : Hoop) (e : Nat) (f : Heater → Heater) : (x.updHeater e f).freeIx = x.freeIx := rfl

/-! ## `updTile` -/

@[simp] theorem Hoop.updTile_part (x : Hoop) (t : Nat) (f : Tile → Tile) : (x.updTile t f).part = x.part := rfl
@[simp] theorem Hoop.updTile_isB (x : Hoop) (t : Nat) (f : Tile → Tile) : (x.updTile t f).isB = x.isB := rfl
@[simp] theorem Hoop.updTile_tb (x : Hoop) (t : Nat) (f : Tile → Tile) : (x.updTile t f).tb = x.tb := rfl
@[simp] theorem Hoop.updTile_cm (x : Hoop) (t : Nat) (f : Tile → Tile) : (x.updTile t f).cm = x.cm := rfl
@[simp] theorem Hoop.updTile_thr (x : Hoop) (t : Nat) (f : Tile → Tile) : (x.updTile t f).thr = x.thr := rfl
@[simp] theorem Hoop.updTile_prk (x : Hoop) (t : Nat) (f : Tile → Tile) : (x.updTile t f).prk = x.prk := rfl
@[simp] theorem Hoop.updTile_tmb (x : Hoop) (t : Nat) (f : Tile → Tile) : (x.updTile t f).tmb = x.tmb := rfl
@[simp] theorem Hoop.updTile_slice (x : Hoop) (t : Nat) (f : Tile → Tile) : (x.updTile t f).slice = x.slice := rfl
@[simp] theorem Hoop.updTile_prkSlice (x : Hoop) (t : Nat) (f : Tile → Tile) : (x.updTile t f).prkSlice = x.prkSlice := rfl
@[simp] theorem Hoop.updTile_oldSlices (x : Hoop) (t : Nat) (f : Tile → Tile) : (x.updTile t f).oldSlices = x.oldSlices := rfl
@[simp] theorem Hoop.updTile_rmap (x : Hoop) (t : Nat) (f : Tile → Tile) : (x.updTile t f).rmap = x.rmap := rfl
@[simp] theorem Hoop.updTile_mon (x : Hoop) (t : Nat) (f : Tile → Tile) : (x.updTile t f).mon = x.mon := rfl
@[simp] theorem Hoop.updTile_bob (x : Hoop) (t : Nat) (f : Tile → Tile) : (x.updTile t f).bob = x.bob := rfl
@[simp] theorem Hoop.updTile_tec (x : Hoop) (t : Nat) (f : Tile → Tile) : (x.updTile t f).tec = x.tec := rfl
@[simp] theorem Hoop.updTile_ths (x : Hoop) (t : Nat) (f : Tile → Tile) : (x.updTile t f).ths = x.ths := rfl
@[simp] theorem Hoop.updTile_fc (x : Hoop) (t : Nat) (f : Tile → Tile) : (x.updTile t f).fc = x.fc := rfl
@[simp] theorem Hoop.updTile_dk (x : Hoop) (t : Nat) (f : Tile → Tile) : (x.updTile t f).dk = x.dk := rfl
@[simp] theorem Hoop.updTile_jnl (x : Hoop) (t : Nat) (f : Tile → Tile) : (x.updTile t f).jnl = x.jnl := rfl
@[simp] theorem Hoop.updTile_hist (x : Hoop) (t : Nat) (f : Tile → Tile) : (x.updTile t f).hist = x.hist := rfl
@[simp] theorem Hoop.updTile_led (x : Hoop) (t : Nat) (f : Tile → Tile) : (x.updTile t f).led = x.led := rfl
@[simp] theorem Hoop.updTile_mbx (x : Hoop) (t : Nat) (f : Tile → Tile) : (x.updTile t f).mbx = x.mbx := rfl
@[simp] theorem Hoop.updTile_evt (x : Hoop) (t : Nat) (f : Tile → Tile) : (x.updTile t f).evt = x.evt := rfl
@[simp] theorem Hoop.updTile_pair (x : Hoop) (t : Nat) (f : Tile → Tile) : (x.updTile t f).pair = x.pair := rfl
@[simp] theorem Hoop.updTile_wlm (x : Hoop) (t : Nat) (f : Tile → Tile) : (x.updTile t f).wlm = x.wlm := rfl
@[simp] theorem Hoop.updTile_xbar (x : Hoop) (t : Nat) (f : Tile → Tile) : (x.updTile t f).xbar = x.xbar := rfl
@[simp] theorem Hoop.updTile_pmc (x : Hoop) (t : Nat) (f : Tile → Tile) : (x.updTile t f).pmc = x.pmc := rfl
@[simp] theorem Hoop.updTile_boot (x : Hoop) (t : Nat) (f : Tile → Tile) : (x.updTile t f).boot = x.boot := rfl
@[simp] theorem Hoop.updTile_pwr (x : Hoop) (t : Nat) (f : Tile → Tile) : (x.updTile t f).pwr = x.pwr := rfl
@[simp] theorem Hoop.updTile_settings (x : Hoop) (t : Nat) (f : Tile → Tile) : (x.updTile t f).settings = x.settings := rfl
@[simp] theorem Hoop.updTile_calStore (x : Hoop) (t : Nat) (f : Tile → Tile) : (x.updTile t f).calStore = x.calStore := rfl
@[simp] theorem Hoop.updTile_keeperImg (x : Hoop) (t : Nat) (f : Tile → Tile) : (x.updTile t f).keeperImg = x.keeperImg := rfl
@[simp] theorem Hoop.updTile_mram (x : Hoop) (t : Nat) (f : Tile → Tile) : (x.updTile t f).mram = x.mram := rfl
@[simp] theorem Hoop.updTile_mwrites (x : Hoop) (t : Nat) (f : Tile → Tile) : (x.updTile t f).mwrites = x.mwrites := rfl
@[simp] theorem Hoop.updTile_bus (x : Hoop) (t : Nat) (f : Tile → Tile) : (x.updTile t f).bus = x.bus := rfl
@[simp] theorem Hoop.updTile_freeIx (x : Hoop) (t : Nat) (f : Tile → Tile) : (x.updTile t f).freeIx = x.freeIx := rfl

/-! ## `setElem` -/

@[simp] theorem Hoop.setElem_part (x : Hoop) (e : Nat) (v : Elem) : (x.setElem e v).part = x.part := rfl
@[simp] theorem Hoop.setElem_isB (x : Hoop) (e : Nat) (v : Elem) : (x.setElem e v).isB = x.isB := rfl
@[simp] theorem Hoop.setElem_tb (x : Hoop) (e : Nat) (v : Elem) : (x.setElem e v).tb = x.tb := rfl
@[simp] theorem Hoop.setElem_cm (x : Hoop) (e : Nat) (v : Elem) : (x.setElem e v).cm = x.cm := rfl
@[simp] theorem Hoop.setElem_thr (x : Hoop) (e : Nat) (v : Elem) : (x.setElem e v).thr = x.thr := rfl
@[simp] theorem Hoop.setElem_prk (x : Hoop) (e : Nat) (v : Elem) : (x.setElem e v).prk = x.prk := rfl
@[simp] theorem Hoop.setElem_tmb (x : Hoop) (e : Nat) (v : Elem) : (x.setElem e v).tmb = x.tmb := rfl
@[simp] theorem Hoop.setElem_slice (x : Hoop) (e : Nat) (v : Elem) : (x.setElem e v).slice = x.slice := rfl
@[simp] theorem Hoop.setElem_prkSlice (x : Hoop) (e : Nat) (v : Elem) : (x.setElem e v).prkSlice = x.prkSlice := rfl
@[simp] theorem Hoop.setElem_oldSlices (x : Hoop) (e : Nat) (v : Elem) : (x.setElem e v).oldSlices = x.oldSlices := rfl
@[simp] theorem Hoop.setElem_rmap (x : Hoop) (e : Nat) (v : Elem) : (x.setElem e v).rmap = x.rmap := rfl
@[simp] theorem Hoop.setElem_mon (x : Hoop) (e : Nat) (v : Elem) : (x.setElem e v).mon = x.mon := rfl
@[simp] theorem Hoop.setElem_bob (x : Hoop) (e : Nat) (v : Elem) : (x.setElem e v).bob = x.bob := rfl
@[simp] theorem Hoop.setElem_tec (x : Hoop) (e : Nat) (v : Elem) : (x.setElem e v).tec = x.tec := rfl
@[simp] theorem Hoop.setElem_ths (x : Hoop) (e : Nat) (v : Elem) : (x.setElem e v).ths = x.ths := rfl
@[simp] theorem Hoop.setElem_fc (x : Hoop) (e : Nat) (v : Elem) : (x.setElem e v).fc = x.fc := rfl
@[simp] theorem Hoop.setElem_dk (x : Hoop) (e : Nat) (v : Elem) : (x.setElem e v).dk = x.dk := rfl
@[simp] theorem Hoop.setElem_jnl (x : Hoop) (e : Nat) (v : Elem) : (x.setElem e v).jnl = x.jnl := rfl
@[simp] theorem Hoop.setElem_hist (x : Hoop) (e : Nat) (v : Elem) : (x.setElem e v).hist = x.hist := rfl
@[simp] theorem Hoop.setElem_led (x : Hoop) (e : Nat) (v : Elem) : (x.setElem e v).led = x.led := rfl
@[simp] theorem Hoop.setElem_mbx (x : Hoop) (e : Nat) (v : Elem) : (x.setElem e v).mbx = x.mbx := rfl
@[simp] theorem Hoop.setElem_evt (x : Hoop) (e : Nat) (v : Elem) : (x.setElem e v).evt = x.evt := rfl
@[simp] theorem Hoop.setElem_pair (x : Hoop) (e : Nat) (v : Elem) : (x.setElem e v).pair = x.pair := rfl
@[simp] theorem Hoop.setElem_wlm (x : Hoop) (e : Nat) (v : Elem) : (x.setElem e v).wlm = x.wlm := rfl
@[simp] theorem Hoop.setElem_xbar (x : Hoop) (e : Nat) (v : Elem) : (x.setElem e v).xbar = x.xbar := rfl
@[simp] theorem Hoop.setElem_pmc (x : Hoop) (e : Nat) (v : Elem) : (x.setElem e v).pmc = x.pmc := rfl
@[simp] theorem Hoop.setElem_boot (x : Hoop) (e : Nat) (v : Elem) : (x.setElem e v).boot = x.boot := rfl
@[simp] theorem Hoop.setElem_pwr (x : Hoop) (e : Nat) (v : Elem) : (x.setElem e v).pwr = x.pwr := rfl
@[simp] theorem Hoop.setElem_settings (x : Hoop) (e : Nat) (v : Elem) : (x.setElem e v).settings = x.settings := rfl
@[simp] theorem Hoop.setElem_calStore (x : Hoop) (e : Nat) (v : Elem) : (x.setElem e v).calStore = x.calStore := rfl
@[simp] theorem Hoop.setElem_keeperImg (x : Hoop) (e : Nat) (v : Elem) : (x.setElem e v).keeperImg = x.keeperImg := rfl
@[simp] theorem Hoop.setElem_mram (x : Hoop) (e : Nat) (v : Elem) : (x.setElem e v).mram = x.mram := rfl
@[simp] theorem Hoop.setElem_mwrites (x : Hoop) (e : Nat) (v : Elem) : (x.setElem e v).mwrites = x.mwrites := rfl
@[simp] theorem Hoop.setElem_bus (x : Hoop) (e : Nat) (v : Elem) : (x.setElem e v).bus = x.bus := rfl
@[simp] theorem Hoop.setElem_freeIx (x : Hoop) (e : Nat) (v : Elem) : (x.setElem e v).freeIx = x.freeIx := rfl

/-! ## `setChan` -/

@[simp] theorem Hoop.setChan_part (x : Hoop) (c : Nat) (v : Chan) : (x.setChan c v).part = x.part := rfl
@[simp] theorem Hoop.setChan_isB (x : Hoop) (c : Nat) (v : Chan) : (x.setChan c v).isB = x.isB := rfl
@[simp] theorem Hoop.setChan_tb (x : Hoop) (c : Nat) (v : Chan) : (x.setChan c v).tb = x.tb := rfl
@[simp] theorem Hoop.setChan_cm (x : Hoop) (c : Nat) (v : Chan) : (x.setChan c v).cm = x.cm := rfl
@[simp] theorem Hoop.setChan_thr (x : Hoop) (c : Nat) (v : Chan) : (x.setChan c v).thr = x.thr := rfl
@[simp] theorem Hoop.setChan_prk (x : Hoop) (c : Nat) (v : Chan) : (x.setChan c v).prk = x.prk := rfl
@[simp] theorem Hoop.setChan_tmb (x : Hoop) (c : Nat) (v : Chan) : (x.setChan c v).tmb = x.tmb := rfl
@[simp] theorem Hoop.setChan_drv (x : Hoop) (c : Nat) (v : Chan) : (x.setChan c v).drv = x.drv := rfl
@[simp] theorem Hoop.setChan_slice (x : Hoop) (c : Nat) (v : Chan) : (x.setChan c v).slice = x.slice := rfl
@[simp] theorem Hoop.setChan_prkSlice (x : Hoop) (c : Nat) (v : Chan) : (x.setChan c v).prkSlice = x.prkSlice := rfl
@[simp] theorem Hoop.setChan_oldSlices (x : Hoop) (c : Nat) (v : Chan) : (x.setChan c v).oldSlices = x.oldSlices := rfl
@[simp] theorem Hoop.setChan_rmap (x : Hoop) (c : Nat) (v : Chan) : (x.setChan c v).rmap = x.rmap := rfl
@[simp] theorem Hoop.setChan_bob (x : Hoop) (c : Nat) (v : Chan) : (x.setChan c v).bob = x.bob := rfl
@[simp] theorem Hoop.setChan_tec (x : Hoop) (c : Nat) (v : Chan) : (x.setChan c v).tec = x.tec := rfl
@[simp] theorem Hoop.setChan_ths (x : Hoop) (c : Nat) (v : Chan) : (x.setChan c v).ths = x.ths := rfl
@[simp] theorem Hoop.setChan_fc (x : Hoop) (c : Nat) (v : Chan) : (x.setChan c v).fc = x.fc := rfl
@[simp] theorem Hoop.setChan_dk (x : Hoop) (c : Nat) (v : Chan) : (x.setChan c v).dk = x.dk := rfl
@[simp] theorem Hoop.setChan_jnl (x : Hoop) (c : Nat) (v : Chan) : (x.setChan c v).jnl = x.jnl := rfl
@[simp] theorem Hoop.setChan_hist (x : Hoop) (c : Nat) (v : Chan) : (x.setChan c v).hist = x.hist := rfl
@[simp] theorem Hoop.setChan_led (x : Hoop) (c : Nat) (v : Chan) : (x.setChan c v).led = x.led := rfl
@[simp] theorem Hoop.setChan_mbx (x : Hoop) (c : Nat) (v : Chan) : (x.setChan c v).mbx = x.mbx := rfl
@[simp] theorem Hoop.setChan_evt (x : Hoop) (c : Nat) (v : Chan) : (x.setChan c v).evt = x.evt := rfl
@[simp] theorem Hoop.setChan_pair (x : Hoop) (c : Nat) (v : Chan) : (x.setChan c v).pair = x.pair := rfl
@[simp] theorem Hoop.setChan_wlm (x : Hoop) (c : Nat) (v : Chan) : (x.setChan c v).wlm = x.wlm := rfl
@[simp] theorem Hoop.setChan_xbar (x : Hoop) (c : Nat) (v : Chan) : (x.setChan c v).xbar = x.xbar := rfl
@[simp] theorem Hoop.setChan_pmc (x : Hoop) (c : Nat) (v : Chan) : (x.setChan c v).pmc = x.pmc := rfl
@[simp] theorem Hoop.setChan_boot (x : Hoop) (c : Nat) (v : Chan) : (x.setChan c v).boot = x.boot := rfl
@[simp] theorem Hoop.setChan_pwr (x : Hoop) (c : Nat) (v : Chan) : (x.setChan c v).pwr = x.pwr := rfl
@[simp] theorem Hoop.setChan_settings (x : Hoop) (c : Nat) (v : Chan) : (x.setChan c v).settings = x.settings := rfl
@[simp] theorem Hoop.setChan_calStore (x : Hoop) (c : Nat) (v : Chan) : (x.setChan c v).calStore = x.calStore := rfl
@[simp] theorem Hoop.setChan_keeperImg (x : Hoop) (c : Nat) (v : Chan) : (x.setChan c v).keeperImg = x.keeperImg := rfl
@[simp] theorem Hoop.setChan_mram (x : Hoop) (c : Nat) (v : Chan) : (x.setChan c v).mram = x.mram := rfl
@[simp] theorem Hoop.setChan_mwrites (x : Hoop) (c : Nat) (v : Chan) : (x.setChan c v).mwrites = x.mwrites := rfl
@[simp] theorem Hoop.setChan_bus (x : Hoop) (c : Nat) (v : Chan) : (x.setChan c v).bus = x.bus := rfl
@[simp] theorem Hoop.setChan_freeIx (x : Hoop) (c : Nat) (v : Chan) : (x.setChan c v).freeIx = x.freeIx := rfl

/-! ## `updGroup` -/

@[simp] theorem Hoop.updGroup_part (x : Hoop) (g : Nat) (f : Group → Group) : (x.updGroup g f).part = x.part := rfl
@[simp] theorem Hoop.updGroup_isB (x : Hoop) (g : Nat) (f : Group → Group) : (x.updGroup g f).isB = x.isB := rfl
@[simp] theorem Hoop.updGroup_tb (x : Hoop) (g : Nat) (f : Group → Group) : (x.updGroup g f).tb = x.tb := rfl
@[simp] theorem Hoop.updGroup_cm (x : Hoop) (g : Nat) (f : Group → Group) : (x.updGroup g f).cm = x.cm := rfl
@[simp] theorem Hoop.updGroup_thr (x : Hoop) (g : Nat) (f : Group → Group) : (x.updGroup g f).thr = x.thr := rfl
@[simp] theorem Hoop.updGroup_prk (x : Hoop) (g : Nat) (f : Group → Group) : (x.updGroup g f).prk = x.prk := rfl
@[simp] theorem Hoop.updGroup_tmb (x : Hoop) (g : Nat) (f : Group → Group) : (x.updGroup g f).tmb = x.tmb := rfl
@[simp] theorem Hoop.updGroup_drv (x : Hoop) (g : Nat) (f : Group → Group) : (x.updGroup g f).drv = x.drv := rfl
@[simp] theorem Hoop.updGroup_slice (x : Hoop) (g : Nat) (f : Group → Group) : (x.updGroup g f).slice = x.slice := rfl
@[simp] theorem Hoop.updGroup_prkSlice (x : Hoop) (g : Nat) (f : Group → Group) : (x.updGroup g f).prkSlice = x.prkSlice := rfl
@[simp] theorem Hoop.updGroup_oldSlices (x : Hoop) (g : Nat) (f : Group → Group) : (x.updGroup g f).oldSlices = x.oldSlices := rfl
@[simp] theorem Hoop.updGroup_rmap (x : Hoop) (g : Nat) (f : Group → Group) : (x.updGroup g f).rmap = x.rmap := rfl
@[simp] theorem Hoop.updGroup_bob (x : Hoop) (g : Nat) (f : Group → Group) : (x.updGroup g f).bob = x.bob := rfl
@[simp] theorem Hoop.updGroup_tec (x : Hoop) (g : Nat) (f : Group → Group) : (x.updGroup g f).tec = x.tec := rfl
@[simp] theorem Hoop.updGroup_ths (x : Hoop) (g : Nat) (f : Group → Group) : (x.updGroup g f).ths = x.ths := rfl
@[simp] theorem Hoop.updGroup_fc (x : Hoop) (g : Nat) (f : Group → Group) : (x.updGroup g f).fc = x.fc := rfl
@[simp] theorem Hoop.updGroup_dk (x : Hoop) (g : Nat) (f : Group → Group) : (x.updGroup g f).dk = x.dk := rfl
@[simp] theorem Hoop.updGroup_jnl (x : Hoop) (g : Nat) (f : Group → Group) : (x.updGroup g f).jnl = x.jnl := rfl
@[simp] theorem Hoop.updGroup_hist (x : Hoop) (g : Nat) (f : Group → Group) : (x.updGroup g f).hist = x.hist := rfl
@[simp] theorem Hoop.updGroup_led (x : Hoop) (g : Nat) (f : Group → Group) : (x.updGroup g f).led = x.led := rfl
@[simp] theorem Hoop.updGroup_mbx (x : Hoop) (g : Nat) (f : Group → Group) : (x.updGroup g f).mbx = x.mbx := rfl
@[simp] theorem Hoop.updGroup_evt (x : Hoop) (g : Nat) (f : Group → Group) : (x.updGroup g f).evt = x.evt := rfl
@[simp] theorem Hoop.updGroup_pair (x : Hoop) (g : Nat) (f : Group → Group) : (x.updGroup g f).pair = x.pair := rfl
@[simp] theorem Hoop.updGroup_wlm (x : Hoop) (g : Nat) (f : Group → Group) : (x.updGroup g f).wlm = x.wlm := rfl
@[simp] theorem Hoop.updGroup_xbar (x : Hoop) (g : Nat) (f : Group → Group) : (x.updGroup g f).xbar = x.xbar := rfl
@[simp] theorem Hoop.updGroup_pmc (x : Hoop) (g : Nat) (f : Group → Group) : (x.updGroup g f).pmc = x.pmc := rfl
@[simp] theorem Hoop.updGroup_boot (x : Hoop) (g : Nat) (f : Group → Group) : (x.updGroup g f).boot = x.boot := rfl
@[simp] theorem Hoop.updGroup_pwr (x : Hoop) (g : Nat) (f : Group → Group) : (x.updGroup g f).pwr = x.pwr := rfl
@[simp] theorem Hoop.updGroup_settings (x : Hoop) (g : Nat) (f : Group → Group) : (x.updGroup g f).settings = x.settings := rfl
@[simp] theorem Hoop.updGroup_calStore (x : Hoop) (g : Nat) (f : Group → Group) : (x.updGroup g f).calStore = x.calStore := rfl
@[simp] theorem Hoop.updGroup_keeperImg (x : Hoop) (g : Nat) (f : Group → Group) : (x.updGroup g f).keeperImg = x.keeperImg := rfl
@[simp] theorem Hoop.updGroup_mram (x : Hoop) (g : Nat) (f : Group → Group) : (x.updGroup g f).mram = x.mram := rfl
@[simp] theorem Hoop.updGroup_mwrites (x : Hoop) (g : Nat) (f : Group → Group) : (x.updGroup g f).mwrites = x.mwrites := rfl
@[simp] theorem Hoop.updGroup_bus (x : Hoop) (g : Nat) (f : Group → Group) : (x.updGroup g f).bus = x.bus := rfl
@[simp] theorem Hoop.updGroup_freeIx (x : Hoop) (g : Nat) (f : Group → Group) : (x.updGroup g f).freeIx = x.freeIx := rfl

/-! ## `setLoop` -/

@[simp] theorem Hoop.setLoop_part (x : Hoop) (e : Nat) (v : Loop) : (x.setLoop e v).part = x.part := rfl
@[simp] theorem Hoop.setLoop_isB (x : Hoop) (e : Nat) (v : Loop) : (x.setLoop e v).isB = x.isB := rfl
@[simp] theorem Hoop.setLoop_tb (x : Hoop) (e : Nat) (v : Loop) : (x.setLoop e v).tb = x.tb := rfl
@[simp] theorem Hoop.setLoop_cm (x : Hoop) (e : Nat) (v : Loop) : (x.setLoop e v).cm = x.cm := rfl
@[simp] theorem Hoop.setLoop_thr (x : Hoop) (e : Nat) (v : Loop) : (x.setLoop e v).thr = x.thr := rfl
@[simp] theorem Hoop.setLoop_prk (x : Hoop) (e : Nat) (v : Loop) : (x.setLoop e v).prk = x.prk := rfl
@[simp] theorem Hoop.setLoop_tmb (x : Hoop) (e : Nat) (v : Loop) : (x.setLoop e v).tmb = x.tmb := rfl
@[simp] theorem Hoop.setLoop_drv (x : Hoop) (e : Nat) (v : Loop) : (x.setLoop e v).drv = x.drv := rfl
@[simp] theorem Hoop.setLoop_slice (x : Hoop) (e : Nat) (v : Loop) : (x.setLoop e v).slice = x.slice := rfl
@[simp] theorem Hoop.setLoop_prkSlice (x : Hoop) (e : Nat) (v : Loop) : (x.setLoop e v).prkSlice = x.prkSlice := rfl
@[simp] theorem Hoop.setLoop_oldSlices (x : Hoop) (e : Nat) (v : Loop) : (x.setLoop e v).oldSlices = x.oldSlices := rfl
@[simp] theorem Hoop.setLoop_rmap (x : Hoop) (e : Nat) (v : Loop) : (x.setLoop e v).rmap = x.rmap := rfl
@[simp] theorem Hoop.setLoop_mon (x : Hoop) (e : Nat) (v : Loop) : (x.setLoop e v).mon = x.mon := rfl
@[simp] theorem Hoop.setLoop_tec (x : Hoop) (e : Nat) (v : Loop) : (x.setLoop e v).tec = x.tec := rfl
@[simp] theorem Hoop.setLoop_ths (x : Hoop) (e : Nat) (v : Loop) : (x.setLoop e v).ths = x.ths := rfl
@[simp] theorem Hoop.setLoop_fc (x : Hoop) (e : Nat) (v : Loop) : (x.setLoop e v).fc = x.fc := rfl
@[simp] theorem Hoop.setLoop_dk (x : Hoop) (e : Nat) (v : Loop) : (x.setLoop e v).dk = x.dk := rfl
@[simp] theorem Hoop.setLoop_jnl (x : Hoop) (e : Nat) (v : Loop) : (x.setLoop e v).jnl = x.jnl := rfl
@[simp] theorem Hoop.setLoop_hist (x : Hoop) (e : Nat) (v : Loop) : (x.setLoop e v).hist = x.hist := rfl
@[simp] theorem Hoop.setLoop_led (x : Hoop) (e : Nat) (v : Loop) : (x.setLoop e v).led = x.led := rfl
@[simp] theorem Hoop.setLoop_mbx (x : Hoop) (e : Nat) (v : Loop) : (x.setLoop e v).mbx = x.mbx := rfl
@[simp] theorem Hoop.setLoop_evt (x : Hoop) (e : Nat) (v : Loop) : (x.setLoop e v).evt = x.evt := rfl
@[simp] theorem Hoop.setLoop_pair (x : Hoop) (e : Nat) (v : Loop) : (x.setLoop e v).pair = x.pair := rfl
@[simp] theorem Hoop.setLoop_wlm (x : Hoop) (e : Nat) (v : Loop) : (x.setLoop e v).wlm = x.wlm := rfl
@[simp] theorem Hoop.setLoop_xbar (x : Hoop) (e : Nat) (v : Loop) : (x.setLoop e v).xbar = x.xbar := rfl
@[simp] theorem Hoop.setLoop_pmc (x : Hoop) (e : Nat) (v : Loop) : (x.setLoop e v).pmc = x.pmc := rfl
@[simp] theorem Hoop.setLoop_boot (x : Hoop) (e : Nat) (v : Loop) : (x.setLoop e v).boot = x.boot := rfl
@[simp] theorem Hoop.setLoop_pwr (x : Hoop) (e : Nat) (v : Loop) : (x.setLoop e v).pwr = x.pwr := rfl
@[simp] theorem Hoop.setLoop_settings (x : Hoop) (e : Nat) (v : Loop) : (x.setLoop e v).settings = x.settings := rfl
@[simp] theorem Hoop.setLoop_calStore (x : Hoop) (e : Nat) (v : Loop) : (x.setLoop e v).calStore = x.calStore := rfl
@[simp] theorem Hoop.setLoop_keeperImg (x : Hoop) (e : Nat) (v : Loop) : (x.setLoop e v).keeperImg = x.keeperImg := rfl
@[simp] theorem Hoop.setLoop_mram (x : Hoop) (e : Nat) (v : Loop) : (x.setLoop e v).mram = x.mram := rfl
@[simp] theorem Hoop.setLoop_mwrites (x : Hoop) (e : Nat) (v : Loop) : (x.setLoop e v).mwrites = x.mwrites := rfl
@[simp] theorem Hoop.setLoop_bus (x : Hoop) (e : Nat) (v : Loop) : (x.setLoop e v).bus = x.bus := rfl
@[simp] theorem Hoop.setLoop_freeIx (x : Hoop) (e : Nat) (v : Loop) : (x.setLoop e v).freeIx = x.freeIx := rfl

/-! ## `updDiode` -/

@[simp] theorem Hoop.updDiode_part (x : Hoop) (j : Nat) (f : Diode → Diode) : (x.updDiode j f).part = x.part := rfl
@[simp] theorem Hoop.updDiode_isB (x : Hoop) (j : Nat) (f : Diode → Diode) : (x.updDiode j f).isB = x.isB := rfl
@[simp] theorem Hoop.updDiode_tb (x : Hoop) (j : Nat) (f : Diode → Diode) : (x.updDiode j f).tb = x.tb := rfl
@[simp] theorem Hoop.updDiode_cm (x : Hoop) (j : Nat) (f : Diode → Diode) : (x.updDiode j f).cm = x.cm := rfl
@[simp] theorem Hoop.updDiode_thr (x : Hoop) (j : Nat) (f : Diode → Diode) : (x.updDiode j f).thr = x.thr := rfl
@[simp] theorem Hoop.updDiode_prk (x : Hoop) (j : Nat) (f : Diode → Diode) : (x.updDiode j f).prk = x.prk := rfl
@[simp] theorem Hoop.updDiode_tmb (x : Hoop) (j : Nat) (f : Diode → Diode) : (x.updDiode j f).tmb = x.tmb := rfl
@[simp] theorem Hoop.updDiode_drv (x : Hoop) (j : Nat) (f : Diode → Diode) : (x.updDiode j f).drv = x.drv := rfl
@[simp] theorem Hoop.updDiode_slice (x : Hoop) (j : Nat) (f : Diode → Diode) : (x.updDiode j f).slice = x.slice := rfl
@[simp] theorem Hoop.updDiode_prkSlice (x : Hoop) (j : Nat) (f : Diode → Diode) : (x.updDiode j f).prkSlice = x.prkSlice := rfl
@[simp] theorem Hoop.updDiode_oldSlices (x : Hoop) (j : Nat) (f : Diode → Diode) : (x.updDiode j f).oldSlices = x.oldSlices := rfl
@[simp] theorem Hoop.updDiode_rmap (x : Hoop) (j : Nat) (f : Diode → Diode) : (x.updDiode j f).rmap = x.rmap := rfl
@[simp] theorem Hoop.updDiode_mon (x : Hoop) (j : Nat) (f : Diode → Diode) : (x.updDiode j f).mon = x.mon := rfl
@[simp] theorem Hoop.updDiode_bob (x : Hoop) (j : Nat) (f : Diode → Diode) : (x.updDiode j f).bob = x.bob := rfl
@[simp] theorem Hoop.updDiode_tec (x : Hoop) (j : Nat) (f : Diode → Diode) : (x.updDiode j f).tec = x.tec := rfl
@[simp] theorem Hoop.updDiode_fc (x : Hoop) (j : Nat) (f : Diode → Diode) : (x.updDiode j f).fc = x.fc := rfl
@[simp] theorem Hoop.updDiode_dk (x : Hoop) (j : Nat) (f : Diode → Diode) : (x.updDiode j f).dk = x.dk := rfl
@[simp] theorem Hoop.updDiode_jnl (x : Hoop) (j : Nat) (f : Diode → Diode) : (x.updDiode j f).jnl = x.jnl := rfl
@[simp] theorem Hoop.updDiode_hist (x : Hoop) (j : Nat) (f : Diode → Diode) : (x.updDiode j f).hist = x.hist := rfl
@[simp] theorem Hoop.updDiode_led (x : Hoop) (j : Nat) (f : Diode → Diode) : (x.updDiode j f).led = x.led := rfl
@[simp] theorem Hoop.updDiode_mbx (x : Hoop) (j : Nat) (f : Diode → Diode) : (x.updDiode j f).mbx = x.mbx := rfl
@[simp] theorem Hoop.updDiode_evt (x : Hoop) (j : Nat) (f : Diode → Diode) : (x.updDiode j f).evt = x.evt := rfl
@[simp] theorem Hoop.updDiode_pair (x : Hoop) (j : Nat) (f : Diode → Diode) : (x.updDiode j f).pair = x.pair := rfl
@[simp] theorem Hoop.updDiode_wlm (x : Hoop) (j : Nat) (f : Diode → Diode) : (x.updDiode j f).wlm = x.wlm := rfl
@[simp] theorem Hoop.updDiode_xbar (x : Hoop) (j : Nat) (f : Diode → Diode) : (x.updDiode j f).xbar = x.xbar := rfl
@[simp] theorem Hoop.updDiode_pmc (x : Hoop) (j : Nat) (f : Diode → Diode) : (x.updDiode j f).pmc = x.pmc := rfl
@[simp] theorem Hoop.updDiode_boot (x : Hoop) (j : Nat) (f : Diode → Diode) : (x.updDiode j f).boot = x.boot := rfl
@[simp] theorem Hoop.updDiode_pwr (x : Hoop) (j : Nat) (f : Diode → Diode) : (x.updDiode j f).pwr = x.pwr := rfl
@[simp] theorem Hoop.updDiode_settings (x : Hoop) (j : Nat) (f : Diode → Diode) : (x.updDiode j f).settings = x.settings := rfl
@[simp] theorem Hoop.updDiode_calStore (x : Hoop) (j : Nat) (f : Diode → Diode) : (x.updDiode j f).calStore = x.calStore := rfl
@[simp] theorem Hoop.updDiode_keeperImg (x : Hoop) (j : Nat) (f : Diode → Diode) : (x.updDiode j f).keeperImg = x.keeperImg := rfl
@[simp] theorem Hoop.updDiode_mram (x : Hoop) (j : Nat) (f : Diode → Diode) : (x.updDiode j f).mram = x.mram := rfl
@[simp] theorem Hoop.updDiode_mwrites (x : Hoop) (j : Nat) (f : Diode → Diode) : (x.updDiode j f).mwrites = x.mwrites := rfl
@[simp] theorem Hoop.updDiode_bus (x : Hoop) (j : Nat) (f : Diode → Diode) : (x.updDiode j f).bus = x.bus := rfl
@[simp] theorem Hoop.updDiode_freeIx (x : Hoop) (j : Nat) (f : Diode → Diode) : (x.updDiode j f).freeIx = x.freeIx := rfl

/-! ## `setSrc` -/

@[simp] theorem Hoop.setSrc_part (x : Hoop) (k : Nat) (v : Src) : (x.setSrc k v).part = x.part := rfl
@[simp] theorem Hoop.setSrc_isB (x : Hoop) (k : Nat) (v : Src) : (x.setSrc k v).isB = x.isB := rfl
@[simp] theorem Hoop.setSrc_tb (x : Hoop) (k : Nat) (v : Src) : (x.setSrc k v).tb = x.tb := rfl
@[simp] theorem Hoop.setSrc_cm (x : Hoop) (k : Nat) (v : Src) : (x.setSrc k v).cm = x.cm := rfl
@[simp] theorem Hoop.setSrc_thr (x : Hoop) (k : Nat) (v : Src) : (x.setSrc k v).thr = x.thr := rfl
@[simp] theorem Hoop.setSrc_prk (x : Hoop) (k : Nat) (v : Src) : (x.setSrc k v).prk = x.prk := rfl
@[simp] theorem Hoop.setSrc_tmb (x : Hoop) (k : Nat) (v : Src) : (x.setSrc k v).tmb = x.tmb := rfl
@[simp] theorem Hoop.setSrc_drv (x : Hoop) (k : Nat) (v : Src) : (x.setSrc k v).drv = x.drv := rfl
@[simp] theorem Hoop.setSrc_slice (x : Hoop) (k : Nat) (v : Src) : (x.setSrc k v).slice = x.slice := rfl
@[simp] theorem Hoop.setSrc_prkSlice (x : Hoop) (k : Nat) (v : Src) : (x.setSrc k v).prkSlice = x.prkSlice := rfl
@[simp] theorem Hoop.setSrc_oldSlices (x : Hoop) (k : Nat) (v : Src) : (x.setSrc k v).oldSlices = x.oldSlices := rfl
@[simp] theorem Hoop.setSrc_rmap (x : Hoop) (k : Nat) (v : Src) : (x.setSrc k v).rmap = x.rmap := rfl
@[simp] theorem Hoop.setSrc_mon (x : Hoop) (k : Nat) (v : Src) : (x.setSrc k v).mon = x.mon := rfl
@[simp] theorem Hoop.setSrc_bob (x : Hoop) (k : Nat) (v : Src) : (x.setSrc k v).bob = x.bob := rfl
@[simp] theorem Hoop.setSrc_tec (x : Hoop) (k : Nat) (v : Src) : (x.setSrc k v).tec = x.tec := rfl
@[simp] theorem Hoop.setSrc_ths (x : Hoop) (k : Nat) (v : Src) : (x.setSrc k v).ths = x.ths := rfl
@[simp] theorem Hoop.setSrc_dk (x : Hoop) (k : Nat) (v : Src) : (x.setSrc k v).dk = x.dk := rfl
@[simp] theorem Hoop.setSrc_jnl (x : Hoop) (k : Nat) (v : Src) : (x.setSrc k v).jnl = x.jnl := rfl
@[simp] theorem Hoop.setSrc_hist (x : Hoop) (k : Nat) (v : Src) : (x.setSrc k v).hist = x.hist := rfl
@[simp] theorem Hoop.setSrc_led (x : Hoop) (k : Nat) (v : Src) : (x.setSrc k v).led = x.led := rfl
@[simp] theorem Hoop.setSrc_mbx (x : Hoop) (k : Nat) (v : Src) : (x.setSrc k v).mbx = x.mbx := rfl
@[simp] theorem Hoop.setSrc_evt (x : Hoop) (k : Nat) (v : Src) : (x.setSrc k v).evt = x.evt := rfl
@[simp] theorem Hoop.setSrc_pair (x : Hoop) (k : Nat) (v : Src) : (x.setSrc k v).pair = x.pair := rfl
@[simp] theorem Hoop.setSrc_wlm (x : Hoop) (k : Nat) (v : Src) : (x.setSrc k v).wlm = x.wlm := rfl
@[simp] theorem Hoop.setSrc_xbar (x : Hoop) (k : Nat) (v : Src) : (x.setSrc k v).xbar = x.xbar := rfl
@[simp] theorem Hoop.setSrc_pmc (x : Hoop) (k : Nat) (v : Src) : (x.setSrc k v).pmc = x.pmc := rfl
@[simp] theorem Hoop.setSrc_boot (x : Hoop) (k : Nat) (v : Src) : (x.setSrc k v).boot = x.boot := rfl
@[simp] theorem Hoop.setSrc_pwr (x : Hoop) (k : Nat) (v : Src) : (x.setSrc k v).pwr = x.pwr := rfl
@[simp] theorem Hoop.setSrc_settings (x : Hoop) (k : Nat) (v : Src) : (x.setSrc k v).settings = x.settings := rfl
@[simp] theorem Hoop.setSrc_calStore (x : Hoop) (k : Nat) (v : Src) : (x.setSrc k v).calStore = x.calStore := rfl
@[simp] theorem Hoop.setSrc_keeperImg (x : Hoop) (k : Nat) (v : Src) : (x.setSrc k v).keeperImg = x.keeperImg := rfl
@[simp] theorem Hoop.setSrc_mram (x : Hoop) (k : Nat) (v : Src) : (x.setSrc k v).mram = x.mram := rfl
@[simp] theorem Hoop.setSrc_mwrites (x : Hoop) (k : Nat) (v : Src) : (x.setSrc k v).mwrites = x.mwrites := rfl
@[simp] theorem Hoop.setSrc_bus (x : Hoop) (k : Nat) (v : Src) : (x.setSrc k v).bus = x.bus := rfl
@[simp] theorem Hoop.setSrc_freeIx (x : Hoop) (k : Nat) (v : Src) : (x.setSrc k v).freeIx = x.freeIx := rfl

/-! ## `setRing` -/

@[simp] theorem Hoop.setRing_part (x : Hoop) (r : Nat) (g : Ring) : (x.setRing r g).part = x.part := rfl
@[simp] theorem Hoop.setRing_isB (x : Hoop) (r : Nat) (g : Ring) : (x.setRing r g).isB = x.isB := rfl
@[simp] theorem Hoop.setRing_tb (x : Hoop) (r : Nat) (g : Ring) : (x.setRing r g).tb = x.tb := rfl
@[simp] theorem Hoop.setRing_cm (x : Hoop) (r : Nat) (g : Ring) : (x.setRing r g).cm = x.cm := rfl
@[simp] theorem Hoop.setRing_thr (x : Hoop) (r : Nat) (g : Ring) : (x.setRing r g).thr = x.thr := rfl
@[simp] theorem Hoop.setRing_prk (x : Hoop) (r : Nat) (g : Ring) : (x.setRing r g).prk = x.prk := rfl
@[simp] theorem Hoop.setRing_tmb (x : Hoop) (r : Nat) (g : Ring) : (x.setRing r g).tmb = x.tmb := rfl
@[simp] theorem Hoop.setRing_drv (x : Hoop) (r : Nat) (g : Ring) : (x.setRing r g).drv = x.drv := rfl
@[simp] theorem Hoop.setRing_slice (x : Hoop) (r : Nat) (g : Ring) : (x.setRing r g).slice = x.slice := rfl
@[simp] theorem Hoop.setRing_prkSlice (x : Hoop) (r : Nat) (g : Ring) : (x.setRing r g).prkSlice = x.prkSlice := rfl
@[simp] theorem Hoop.setRing_oldSlices (x : Hoop) (r : Nat) (g : Ring) : (x.setRing r g).oldSlices = x.oldSlices := rfl
@[simp] theorem Hoop.setRing_rmap (x : Hoop) (r : Nat) (g : Ring) : (x.setRing r g).rmap = x.rmap := rfl
@[simp] theorem Hoop.setRing_mon (x : Hoop) (r : Nat) (g : Ring) : (x.setRing r g).mon = x.mon := rfl
@[simp] theorem Hoop.setRing_bob (x : Hoop) (r : Nat) (g : Ring) : (x.setRing r g).bob = x.bob := rfl
@[simp] theorem Hoop.setRing_tec (x : Hoop) (r : Nat) (g : Ring) : (x.setRing r g).tec = x.tec := rfl
@[simp] theorem Hoop.setRing_ths (x : Hoop) (r : Nat) (g : Ring) : (x.setRing r g).ths = x.ths := rfl
@[simp] theorem Hoop.setRing_fc (x : Hoop) (r : Nat) (g : Ring) : (x.setRing r g).fc = x.fc := rfl
@[simp] theorem Hoop.setRing_dk (x : Hoop) (r : Nat) (g : Ring) : (x.setRing r g).dk = x.dk := rfl
@[simp] theorem Hoop.setRing_jnl (x : Hoop) (r : Nat) (g : Ring) : (x.setRing r g).jnl = x.jnl := rfl
@[simp] theorem Hoop.setRing_hist (x : Hoop) (r : Nat) (g : Ring) : (x.setRing r g).hist = x.hist := rfl
@[simp] theorem Hoop.setRing_led (x : Hoop) (r : Nat) (g : Ring) : (x.setRing r g).led = x.led := rfl
@[simp] theorem Hoop.setRing_evt (x : Hoop) (r : Nat) (g : Ring) : (x.setRing r g).evt = x.evt := rfl
@[simp] theorem Hoop.setRing_pair (x : Hoop) (r : Nat) (g : Ring) : (x.setRing r g).pair = x.pair := rfl
@[simp] theorem Hoop.setRing_wlm (x : Hoop) (r : Nat) (g : Ring) : (x.setRing r g).wlm = x.wlm := rfl
@[simp] theorem Hoop.setRing_xbar (x : Hoop) (r : Nat) (g : Ring) : (x.setRing r g).xbar = x.xbar := rfl
@[simp] theorem Hoop.setRing_pmc (x : Hoop) (r : Nat) (g : Ring) : (x.setRing r g).pmc = x.pmc := rfl
@[simp] theorem Hoop.setRing_boot (x : Hoop) (r : Nat) (g : Ring) : (x.setRing r g).boot = x.boot := rfl
@[simp] theorem Hoop.setRing_pwr (x : Hoop) (r : Nat) (g : Ring) : (x.setRing r g).pwr = x.pwr := rfl
@[simp] theorem Hoop.setRing_settings (x : Hoop) (r : Nat) (g : Ring) : (x.setRing r g).settings = x.settings := rfl
@[simp] theorem Hoop.setRing_calStore (x : Hoop) (r : Nat) (g : Ring) : (x.setRing r g).calStore = x.calStore := rfl
@[simp] theorem Hoop.setRing_keeperImg (x : Hoop) (r : Nat) (g : Ring) : (x.setRing r g).keeperImg = x.keeperImg := rfl
@[simp] theorem Hoop.setRing_mram (x : Hoop) (r : Nat) (g : Ring) : (x.setRing r g).mram = x.mram := rfl
@[simp] theorem Hoop.setRing_mwrites (x : Hoop) (r : Nat) (g : Ring) : (x.setRing r g).mwrites = x.mwrites := rfl
@[simp] theorem Hoop.setRing_bus (x : Hoop) (r : Nat) (g : Ring) : (x.setRing r g).bus = x.bus := rfl
@[simp] theorem Hoop.setRing_freeIx (x : Hoop) (r : Nat) (g : Ring) : (x.setRing r g).freeIx = x.freeIx := rfl

/-! ## `updPrk` -/

@[simp] theorem Hoop.updPrk_part (x : Hoop) (f : Prk → Prk) : (x.updPrk f).part = x.part := rfl
@[simp] theorem Hoop.updPrk_isB (x : Hoop) (f : Prk → Prk) : (x.updPrk f).isB = x.isB := rfl
@[simp] theorem Hoop.updPrk_tb (x : Hoop) (f : Prk → Prk) : (x.updPrk f).tb = x.tb := rfl
@[simp] theorem Hoop.updPrk_cm (x : Hoop) (f : Prk → Prk) : (x.updPrk f).cm = x.cm := rfl
@[simp] theorem Hoop.updPrk_thr (x : Hoop) (f : Prk → Prk) : (x.updPrk f).thr = x.thr := rfl
@[simp] theorem Hoop.updPrk_tmb (x : Hoop) (f : Prk → Prk) : (x.updPrk f).tmb = x.tmb := rfl
@[simp] theorem Hoop.updPrk_drv (x : Hoop) (f : Prk → Prk) : (x.updPrk f).drv = x.drv := rfl
@[simp] theorem Hoop.updPrk_slice (x : Hoop) (f : Prk → Prk) : (x.updPrk f).slice = x.slice := rfl
@[simp] theorem Hoop.updPrk_prkSlice (x : Hoop) (f : Prk → Prk) : (x.updPrk f).prkSlice = x.prkSlice := rfl
@[simp] theorem Hoop.updPrk_oldSlices (x : Hoop) (f : Prk → Prk) : (x.updPrk f).oldSlices = x.oldSlices := rfl
@[simp] theorem Hoop.updPrk_rmap (x : Hoop) (f : Prk → Prk) : (x.updPrk f).rmap = x.rmap := rfl
@[simp] theorem Hoop.updPrk_mon (x : Hoop) (f : Prk → Prk) : (x.updPrk f).mon = x.mon := rfl
@[simp] theorem Hoop.updPrk_bob (x : Hoop) (f : Prk → Prk) : (x.updPrk f).bob = x.bob := rfl
@[simp] theorem Hoop.updPrk_tec (x : Hoop) (f : Prk → Prk) : (x.updPrk f).tec = x.tec := rfl
@[simp] theorem Hoop.updPrk_ths (x : Hoop) (f : Prk → Prk) : (x.updPrk f).ths = x.ths := rfl
@[simp] theorem Hoop.updPrk_fc (x : Hoop) (f : Prk → Prk) : (x.updPrk f).fc = x.fc := rfl
@[simp] theorem Hoop.updPrk_dk (x : Hoop) (f : Prk → Prk) : (x.updPrk f).dk = x.dk := rfl
@[simp] theorem Hoop.updPrk_jnl (x : Hoop) (f : Prk → Prk) : (x.updPrk f).jnl = x.jnl := rfl
@[simp] theorem Hoop.updPrk_hist (x : Hoop) (f : Prk → Prk) : (x.updPrk f).hist = x.hist := rfl
@[simp] theorem Hoop.updPrk_led (x : Hoop) (f : Prk → Prk) : (x.updPrk f).led = x.led := rfl
@[simp] theorem Hoop.updPrk_mbx (x : Hoop) (f : Prk → Prk) : (x.updPrk f).mbx = x.mbx := rfl
@[simp] theorem Hoop.updPrk_evt (x : Hoop) (f : Prk → Prk) : (x.updPrk f).evt = x.evt := rfl
@[simp] theorem Hoop.updPrk_pair (x : Hoop) (f : Prk → Prk) : (x.updPrk f).pair = x.pair := rfl
@[simp] theorem Hoop.updPrk_wlm (x : Hoop) (f : Prk → Prk) : (x.updPrk f).wlm = x.wlm := rfl
@[simp] theorem Hoop.updPrk_xbar (x : Hoop) (f : Prk → Prk) : (x.updPrk f).xbar = x.xbar := rfl
@[simp] theorem Hoop.updPrk_pmc (x : Hoop) (f : Prk → Prk) : (x.updPrk f).pmc = x.pmc := rfl
@[simp] theorem Hoop.updPrk_boot (x : Hoop) (f : Prk → Prk) : (x.updPrk f).boot = x.boot := rfl
@[simp] theorem Hoop.updPrk_pwr (x : Hoop) (f : Prk → Prk) : (x.updPrk f).pwr = x.pwr := rfl
@[simp] theorem Hoop.updPrk_settings (x : Hoop) (f : Prk → Prk) : (x.updPrk f).settings = x.settings := rfl
@[simp] theorem Hoop.updPrk_calStore (x : Hoop) (f : Prk → Prk) : (x.updPrk f).calStore = x.calStore := rfl
@[simp] theorem Hoop.updPrk_keeperImg (x : Hoop) (f : Prk → Prk) : (x.updPrk f).keeperImg = x.keeperImg := rfl
@[simp] theorem Hoop.updPrk_mram (x : Hoop) (f : Prk → Prk) : (x.updPrk f).mram = x.mram := rfl
@[simp] theorem Hoop.updPrk_mwrites (x : Hoop) (f : Prk → Prk) : (x.updPrk f).mwrites = x.mwrites := rfl
@[simp] theorem Hoop.updPrk_bus (x : Hoop) (f : Prk → Prk) : (x.updPrk f).bus = x.bus := rfl
@[simp] theorem Hoop.updPrk_freeIx (x : Hoop) (f : Prk → Prk) : (x.updPrk f).freeIx = x.freeIx := rfl

/-! ## `updLink` -/

@[simp] theorem Hoop.updLink_part (x : Hoop) (k : Nat) (f : Link → Link) : (x.updLink k f).part = x.part := rfl
@[simp] theorem Hoop.updLink_isB (x : Hoop) (k : Nat) (f : Link → Link) : (x.updLink k f).isB = x.isB := rfl
@[simp] theorem Hoop.updLink_tb (x : Hoop) (k : Nat) (f : Link → Link) : (x.updLink k f).tb = x.tb := rfl
@[simp] theorem Hoop.updLink_cm (x : Hoop) (k : Nat) (f : Link → Link) : (x.updLink k f).cm = x.cm := rfl
@[simp] theorem Hoop.updLink_thr (x : Hoop) (k : Nat) (f : Link → Link) : (x.updLink k f).thr = x.thr := rfl
@[simp] theorem Hoop.updLink_prk (x : Hoop) (k : Nat) (f : Link → Link) : (x.updLink k f).prk = x.prk := rfl
@[simp] theorem Hoop.updLink_tmb (x : Hoop) (k : Nat) (f : Link → Link) : (x.updLink k f).tmb = x.tmb := rfl
@[simp] theorem Hoop.updLink_drv (x : Hoop) (k : Nat) (f : Link → Link) : (x.updLink k f).drv = x.drv := rfl
@[simp] theorem Hoop.updLink_slice (x : Hoop) (k : Nat) (f : Link → Link) : (x.updLink k f).slice = x.slice := rfl
@[simp] theorem Hoop.updLink_prkSlice (x : Hoop) (k : Nat) (f : Link → Link) : (x.updLink k f).prkSlice = x.prkSlice := rfl
@[simp] theorem Hoop.updLink_oldSlices (x : Hoop) (k : Nat) (f : Link → Link) : (x.updLink k f).oldSlices = x.oldSlices := rfl
@[simp] theorem Hoop.updLink_rmap (x : Hoop) (k : Nat) (f : Link → Link) : (x.updLink k f).rmap = x.rmap := rfl
@[simp] theorem Hoop.updLink_mon (x : Hoop) (k : Nat) (f : Link → Link) : (x.updLink k f).mon = x.mon := rfl
@[simp] theorem Hoop.updLink_bob (x : Hoop) (k : Nat) (f : Link → Link) : (x.updLink k f).bob = x.bob := rfl
@[simp] theorem Hoop.updLink_tec (x : Hoop) (k : Nat) (f : Link → Link) : (x.updLink k f).tec = x.tec := rfl
@[simp] theorem Hoop.updLink_ths (x : Hoop) (k : Nat) (f : Link → Link) : (x.updLink k f).ths = x.ths := rfl
@[simp] theorem Hoop.updLink_fc (x : Hoop) (k : Nat) (f : Link → Link) : (x.updLink k f).fc = x.fc := rfl
@[simp] theorem Hoop.updLink_dk (x : Hoop) (k : Nat) (f : Link → Link) : (x.updLink k f).dk = x.dk := rfl
@[simp] theorem Hoop.updLink_jnl (x : Hoop) (k : Nat) (f : Link → Link) : (x.updLink k f).jnl = x.jnl := rfl
@[simp] theorem Hoop.updLink_hist (x : Hoop) (k : Nat) (f : Link → Link) : (x.updLink k f).hist = x.hist := rfl
@[simp] theorem Hoop.updLink_led (x : Hoop) (k : Nat) (f : Link → Link) : (x.updLink k f).led = x.led := rfl
@[simp] theorem Hoop.updLink_mbx (x : Hoop) (k : Nat) (f : Link → Link) : (x.updLink k f).mbx = x.mbx := rfl
@[simp] theorem Hoop.updLink_evt (x : Hoop) (k : Nat) (f : Link → Link) : (x.updLink k f).evt = x.evt := rfl
@[simp] theorem Hoop.updLink_pair (x : Hoop) (k : Nat) (f : Link → Link) : (x.updLink k f).pair = x.pair := rfl
@[simp] theorem Hoop.updLink_xbar (x : Hoop) (k : Nat) (f : Link → Link) : (x.updLink k f).xbar = x.xbar := rfl
@[simp] theorem Hoop.updLink_pmc (x : Hoop) (k : Nat) (f : Link → Link) : (x.updLink k f).pmc = x.pmc := rfl
@[simp] theorem Hoop.updLink_boot (x : Hoop) (k : Nat) (f : Link → Link) : (x.updLink k f).boot = x.boot := rfl
@[simp] theorem Hoop.updLink_pwr (x : Hoop) (k : Nat) (f : Link → Link) : (x.updLink k f).pwr = x.pwr := rfl
@[simp] theorem Hoop.updLink_settings (x : Hoop) (k : Nat) (f : Link → Link) : (x.updLink k f).settings = x.settings := rfl
@[simp] theorem Hoop.updLink_calStore (x : Hoop) (k : Nat) (f : Link → Link) : (x.updLink k f).calStore = x.calStore := rfl
@[simp] theorem Hoop.updLink_keeperImg (x : Hoop) (k : Nat) (f : Link → Link) : (x.updLink k f).keeperImg = x.keeperImg := rfl
@[simp] theorem Hoop.updLink_mram (x : Hoop) (k : Nat) (f : Link → Link) : (x.updLink k f).mram = x.mram := rfl
@[simp] theorem Hoop.updLink_mwrites (x : Hoop) (k : Nat) (f : Link → Link) : (x.updLink k f).mwrites = x.mwrites := rfl
@[simp] theorem Hoop.updLink_bus (x : Hoop) (k : Nat) (f : Link → Link) : (x.updLink k f).bus = x.bus := rfl
@[simp] theorem Hoop.updLink_freeIx (x : Hoop) (k : Nat) (f : Link → Link) : (x.updLink k f).freeIx = x.freeIx := rfl

/-! ## `setRt` -/

@[simp] theorem Hoop.setRt_part (x : Hoop) (a : Nat) (r : Rt) : (x.setRt a r).part = x.part := rfl
@[simp] theorem Hoop.setRt_isB (x : Hoop) (a : Nat) (r : Rt) : (x.setRt a r).isB = x.isB := rfl
@[simp] theorem Hoop.setRt_tb (x : Hoop) (a : Nat) (r : Rt) : (x.setRt a r).tb = x.tb := rfl
@[simp] theorem Hoop.setRt_cm (x : Hoop) (a : Nat) (r : Rt) : (x.setRt a r).cm = x.cm := rfl
@[simp] theorem Hoop.setRt_thr (x : Hoop) (a : Nat) (r : Rt) : (x.setRt a r).thr = x.thr := rfl
@[simp] theorem Hoop.setRt_prk (x : Hoop) (a : Nat) (r : Rt) : (x.setRt a r).prk = x.prk := rfl
@[simp] theorem Hoop.setRt_tmb (x : Hoop) (a : Nat) (r : Rt) : (x.setRt a r).tmb = x.tmb := rfl
@[simp] theorem Hoop.setRt_drv (x : Hoop) (a : Nat) (r : Rt) : (x.setRt a r).drv = x.drv := rfl
@[simp] theorem Hoop.setRt_slice (x : Hoop) (a : Nat) (r : Rt) : (x.setRt a r).slice = x.slice := rfl
@[simp] theorem Hoop.setRt_prkSlice (x : Hoop) (a : Nat) (r : Rt) : (x.setRt a r).prkSlice = x.prkSlice := rfl
@[simp] theorem Hoop.setRt_oldSlices (x : Hoop) (a : Nat) (r : Rt) : (x.setRt a r).oldSlices = x.oldSlices := rfl
@[simp] theorem Hoop.setRt_rmap (x : Hoop) (a : Nat) (r : Rt) : (x.setRt a r).rmap = x.rmap := rfl
@[simp] theorem Hoop.setRt_mon (x : Hoop) (a : Nat) (r : Rt) : (x.setRt a r).mon = x.mon := rfl
@[simp] theorem Hoop.setRt_bob (x : Hoop) (a : Nat) (r : Rt) : (x.setRt a r).bob = x.bob := rfl
@[simp] theorem Hoop.setRt_tec (x : Hoop) (a : Nat) (r : Rt) : (x.setRt a r).tec = x.tec := rfl
@[simp] theorem Hoop.setRt_ths (x : Hoop) (a : Nat) (r : Rt) : (x.setRt a r).ths = x.ths := rfl
@[simp] theorem Hoop.setRt_fc (x : Hoop) (a : Nat) (r : Rt) : (x.setRt a r).fc = x.fc := rfl
@[simp] theorem Hoop.setRt_dk (x : Hoop) (a : Nat) (r : Rt) : (x.setRt a r).dk = x.dk := rfl
@[simp] theorem Hoop.setRt_jnl (x : Hoop) (a : Nat) (r : Rt) : (x.setRt a r).jnl = x.jnl := rfl
@[simp] theorem Hoop.setRt_hist (x : Hoop) (a : Nat) (r : Rt) : (x.setRt a r).hist = x.hist := rfl
@[simp] theorem Hoop.setRt_led (x : Hoop) (a : Nat) (r : Rt) : (x.setRt a r).led = x.led := rfl
@[simp] theorem Hoop.setRt_mbx (x : Hoop) (a : Nat) (r : Rt) : (x.setRt a r).mbx = x.mbx := rfl
@[simp] theorem Hoop.setRt_evt (x : Hoop) (a : Nat) (r : Rt) : (x.setRt a r).evt = x.evt := rfl
@[simp] theorem Hoop.setRt_pair (x : Hoop) (a : Nat) (r : Rt) : (x.setRt a r).pair = x.pair := rfl
@[simp] theorem Hoop.setRt_xbar (x : Hoop) (a : Nat) (r : Rt) : (x.setRt a r).xbar = x.xbar := rfl
@[simp] theorem Hoop.setRt_pmc (x : Hoop) (a : Nat) (r : Rt) : (x.setRt a r).pmc = x.pmc := rfl
@[simp] theorem Hoop.setRt_boot (x : Hoop) (a : Nat) (r : Rt) : (x.setRt a r).boot = x.boot := rfl
@[simp] theorem Hoop.setRt_pwr (x : Hoop) (a : Nat) (r : Rt) : (x.setRt a r).pwr = x.pwr := rfl
@[simp] theorem Hoop.setRt_settings (x : Hoop) (a : Nat) (r : Rt) : (x.setRt a r).settings = x.settings := rfl
@[simp] theorem Hoop.setRt_calStore (x : Hoop) (a : Nat) (r : Rt) : (x.setRt a r).calStore = x.calStore := rfl
@[simp] theorem Hoop.setRt_keeperImg (x : Hoop) (a : Nat) (r : Rt) : (x.setRt a r).keeperImg = x.keeperImg := rfl
@[simp] theorem Hoop.setRt_mram (x : Hoop) (a : Nat) (r : Rt) : (x.setRt a r).mram = x.mram := rfl
@[simp] theorem Hoop.setRt_mwrites (x : Hoop) (a : Nat) (r : Rt) : (x.setRt a r).mwrites = x.mwrites := rfl
@[simp] theorem Hoop.setRt_bus (x : Hoop) (a : Nat) (r : Rt) : (x.setRt a r).bus = x.bus := rfl
@[simp] theorem Hoop.setRt_freeIx (x : Hoop) (a : Nat) (r : Rt) : (x.setRt a r).freeIx = x.freeIx := rfl

end Sys2Proof.Machine
end

