-- ==== Sys2Proof/Laws/Still.lean ====
section
/-!
SUPPORT. What `settle` does to a poised module: it reports the counter overflows and sets the pins. So every block that telling does not write
reads after it as the row left it.
-/

namespace Sys2Proof.Machine

/-! ## Telling -/

theorem Hoop.untold_upd (x : Hoop) (p : Pmc) (e : Evt) (g : SMap Ring) (m : List Nat) (b : List (Nat × Stamp × List Nat)) :
    ({ x with pmc := p, evt := e, mbx := { x.mbx with rings := g, msix := m }, boot := { x.boot with heldEvents := b } } : Hoop).untold = x.untold := rfl

theorem Hoop.untold_pmc (x : Hoop) (p : Pmc) : ({ x with pmc := p } : Hoop).untold = x.untold := rfl

@[simp] theorem pmcRaw_untold (c n : Nat) (x : Hoop) : (pmcRaw c n x).untold = x.untold := by
  unfold pmcRaw
  split
  · extract_lets v pre v'
    split <;> exact Hoop.untold_pmc x _
  · rfl

@[simp] theorem setRing_untold (x : Hoop) (r : Nat) (g : Ring) : (x.setRing r g).untold = x.untold := rfl

@[simp] theorem msixSend_untold (v : Nat) (x : Hoop) : (msixSend v x).untold = x.untold := (pmcRaw_untold ..).trans rfl

@[simp] theorem putEventAt_untold (st : Stamp) (r src : Nat) (p : List Nat) (x : Hoop) : (putEventAt st r src p x).untold = x.untold := by
  unfold putEventAt
  extract_lets
  split
  · exact (msixSend_untold ..).trans (setRing_untold ..)
  · exact setRing_untold ..

@[simp] theorem deliverEvAt_untold (st : Stamp) (r src : Nat) (p : List Nat) (x : Hoop) : (deliverEvAt st r src p x).untold = x.untold := by
  unfold deliverEvAt
  extract_lets g
  split
  · rfl
  · split
    · exact (pmcRaw_untold ..).trans (Eq.trans rfl (setRing_untold x r { g with evtDrop := satInc g.evtDrop, dropsPending := g.dropsPending + 1 }))
    · exact putEventAt_untold ..

@[simp] theorem deliverEv_untold (r src : Nat) (p : List Nat) (x : Hoop) : (deliverEv r src p x).untold = x.untold := deliverEvAt_untold ..

@[simp] theorem raiseEv_untold (src : Nat) (p : List Nat) (sc : Scope) (x : Hoop) : (raiseEv src p sc x).untold = x.untold := by
  have h2 : ∀ y : Hoop, (if y.evt.sub.getLsbD src then deliverEv 0 src p y else y).untold = y.untold := by
    intro y; split <;> simp
  unfold raiseEv
  extract_lets s1 z s2 w
  have h0 : z.untold = x.untold := (pmcRaw_untold ..).trans rfl
  split
  · split
    · exact Eq.trans rfl h0
    · exact h0
  · split
    · refine (foldl_keeps Hoop.untold _ ?_ _ w).trans ((h2 z).trans h0)
      intro y r; split <;> simp
    · exact h0

@[simp] theorem pmcTell_untold (x : Hoop) : (pmcTell x).untold = x.untold := by
  unfold pmcTell
  extract_lets fresh
  refine (foldl_keeps Hoop.untold _ ?_ _ _).trans ?_
  · intro y c; split <;> simp
  · rfl

/-! ## A poised module -/

theorem State.poised_quiet {s : State} (p : s.poised = true) : s.quiet = true := by
  simp only [State.poised, Bool.and_eq_true] at p; exact p.1

theorem State.poised_at {s : State} (p : s.poised = true) {k : HoopId} (h : k ∈ s.hoops) : (s.hoop k).poised = true := by
  simp only [State.poised, Bool.and_eq_true, List.all_eq_true] at p; exact p.2 k h

/-- A poised module goes through `settle` with its overflows reported and its pins set. -/
theorem settle_poised (s : State) (p : s.poised = true) :
    settle s = settlePins (s.hoops.foldl (fun s h => s.upd h pmcTell) s) := by
  have keep : ∀ (f : State → HoopId → State) (l : List HoopId), (∀ h ∈ l, f s h = s) → l.foldl f s = s := by
    intro f l
    induction l with
    | nil => intro _; rfl
    | cons h l ih => intro e; rw [List.foldl_cons, e h (by simp)]; exact ih (fun j hj => e j (by simp [hj]))
  have q := s.poised_quiet p
  have ps := fun k hk => State.poised_at (s := s) p (k := k) hk
  simp only [Hoop.poised, Bool.and_eq_true, List.isEmpty_iff, beq_iff_eq, bne_iff_ne, Bool.not_eq_true'] at ps
  have e2 : s.hoops.foldl settleRole s = s := by
    refine keep _ _ (fun h hh => ?_)
    obtain ⟨⟨⟨⟨⟨⟨-, -⟩, -⟩, -⟩, hs⟩, hr⟩, -⟩ := ps h hh
    unfold settleRole
    split
    · rfl
    · extract_lets x u
      have : u = s := if_neg (fun c => hr c.1)
      rw [this, if_neg (fun c => hs c.1)]
  have e3 : s.hoops.foldl settleLink s = s := by
    refine keep _ _ (fun h hh => ?_)
    obtain ⟨⟨⟨⟨⟨⟨h1, h2⟩, -⟩, -⟩, hs⟩, hr⟩, -⟩ := ps h hh
    unfold settleLink
    split
    · rfl
    · extract_lets x p u t
      have hu : u = s := by
        refine State.upd_id s p _ ?_
        show (if _ then _ else _) = _
        split
        · show ({ s.hoop p with pair := { (s.hoop p).pair with awaiting := (s.hoop p).pair.awaiting ++ (s.hoop h).pair.sent } } : Hoop) = s.hoop p
          rw [h1, List.append_nil]
        · rfl
      have ht : t = s := by
        show x.wlm.handOff.foldl _ u = s
        rw [show x.wlm.handOff = [] from h2, hu]; rfl
      rw [ht]
      refine State.upd_id s h _ ?_
      show ({ s.hoop h with pair := { (s.hoop h).pair with sent := [] }, wlm := { (s.hoop h).wlm with handOff := [] } } : Hoop) = s.hoop h
      rw [← h1, ← h2]
  unfold settle
  extract_lets s1 s2 s3 s4 s5
  have h1 : s1 = s := quiet_lines s q
  have h2 : s2 = s := by show s1.hoops.foldl _ s1 = s; rw [h1]; exact quiet_s3 s q
  have h3 : s3 = s := by show s2.hoops.foldl _ s2 = s; rw [h2]; exact e2
  have h4 : s4 = s := by show s3.hoops.foldl _ s3 = s; rw [h3]; exact e3
  show settlePins (s4.hoops.foldl _ s4) = _
  rw [h4]
  have e5 : ∀ h ∈ s.hoops, pmcTell (settleStage (settleVouch (tellFirst (s.hoop h)))) = pmcTell (s.hoop h) := by
    intro h hh
    obtain ⟨⟨⟨⟨⟨⟨-, -⟩, hn⟩, hv⟩, -⟩, -⟩, hc⟩ := ps h hh
    have n : tellFirst (s.hoop h) = s.hoop h := if_neg (by rw [hn]; decide)
    have v : settleVouch (s.hoop h) = s.hoop h := if_pos hv
    rw [n, v]
    refine congrArg pmcTell (if_neg ?_)
    rintro ⟨c1, c2, c3, c4, c5⟩
    simp [c1, c2, c3, c4, c5] at hc
  have e6 : s.hoops.foldl (fun s h => s.upd h (fun x => pmcTell (settleStage (settleVouch (tellFirst x))))) s = s.hoops.foldl (fun s h => s.upd h pmcTell) s := by
    unfold State.hoops at e5 ⊢
    split
    · rename_i d
      rw [if_pos d] at e5
      simp only [List.foldl_cons, List.foldl_nil]
      rw [State.upd_congr s .hoopA _ pmcTell (e5 .hoopA (by simp))]
      refine State.upd_congr _ .hoopB (fun x => pmcTell (settleStage (settleVouch (tellFirst x)))) pmcTell ?_
      have : (s.upd .hoopA pmcTell).hoop .hoopB = s.hoop .hoopB := State.upd_other s .hoopA pmcTell
      rw [this]
      exact e5 .hoopB (by simp)
    · rename_i d
      rw [if_neg d] at e5
      exact State.upd_congr s .hoopA (fun x => pmcTell (settleStage (settleVouch (tellFirst x)))) pmcTell (e5 .hoopA (by simp))
  rw [e6]

theorem has_mem {s : State} {h : HoopId} (e : s.has h = true) : h ∈ s.hoops := by
  cases h
  · unfold State.hoops; split <;> simp
  · unfold State.hoops
    rw [if_pos (show Config.duplex s.a.part = true from e)]; simp

/-- A hoop of a poised module after `settle`. -/
theorem settle_poised_hoop (s : State) (p : s.poised = true) (h : HoopId) (e : s.has h = true) : (settle s).hoop h = pmcTell (s.hoop h) := by
  rw [settle_poised s p, settlePins_hoop]
  unfold State.hoops
  split
  · rename_i d
    have d' : (s.upd .hoopA pmcTell).has .hoopB = true := by
      have e0 : (s.upd .hoopA pmcTell).a = pmcTell s.a := State.upd_self s .hoopA pmcTell rfl
      have e1 : (pmcTell s.a).part = s.a.part := by
        have e := congrArg Hoop.part (pmcTell_untold s.a); exact e
      show Config.duplex (s.upd .hoopA pmcTell).a.part = true
      rw [e0, e1]; exact d
    simp only [List.foldl_cons, List.foldl_nil]
    cases h
    · rw [show (HoopId.hoopA) = other .hoopB from rfl, State.upd_other]
      exact State.upd_self s .hoopA pmcTell rfl
    · rw [State.upd_self _ .hoopB pmcTell d']
      exact congrArg pmcTell (State.upd_other s .hoopA pmcTell)
  · rename_i d
    cases h
    · exact State.upd_self s .hoopA pmcTell rfl
    · exact absurd e d

/-- A row's effect on its own hoop where the module stays poised. -/
theorem act_poised (s : State) (h : HoopId) (f : Hoop → Hoop) (e : s.has h = true) (p : (s.upd h f).poised = true) :
    (s.act h f).hoop h = pmcTell (f (s.hoop h)) := by
  unfold State.act
  have e' : (s.upd h f).has h = true := by
    cases h
    · rfl
    · show Config.duplex (s.upd .hoopB f).a.part = true
      have : (s.upd .hoopB f).a = s.a := State.upd_other s .hoopB f
      rw [this]; exact e
  rw [settle_poised_hoop _ p h e', State.upd_self s h f e]

/-- An effect that keeps the part, the sources and the poise of its hoop keeps the module poised. -/
theorem poised_upd (s : State) (h : HoopId) (f : Hoop → Hoop) (p : s.poised = true) (hp : (f (s.hoop h)).part = (s.hoop h).part)
    (hf : (f (s.hoop h)).fc.src = (s.hoop h).fc.src) (hk : (f (s.hoop h)).dk.fcPar = (s.hoop h).dk.fcPar) (hq : (s.hoop h).poised = true → (f (s.hoop h)).poised = true) : (s.upd h f).poised = true := by
  have hh : (s.upd h f).hoops = s.hoops := by
    unfold State.upd
    split
    · cases h
      · simp only [State.hoop] at hp
        simp [State.hoops, State.setHoop, State.hoop, hp]
      · rfl
    · rfl
  have q := quiet_upd s h f (State.poised_quiet p) hp hf hk
  simp only [State.poised, Bool.and_eq_true, List.all_eq_true] at p ⊢
  refine ⟨q, fun k hk => ?_⟩
  rw [hh] at hk
  have pk := p.2 k hk
  unfold State.upd
  split
  · by_cases e : k = h
    · subst e; rw [State.setHoop_self]; exact hq pk
    · have : k = other h := by cases h <;> cases k <;> first | rfl | exact absurd rfl e
      rw [this, State.setHoop_other, ← this]; exact pk
  · exact pk

end Sys2Proof.Machine
end

