-- ==== Sys2Proof/Laws/Makes.lean ====
section
/-!
SUPPORT. How a row is shown to complete with its effect: from the shape of its meaning and what its own operation makes of the hoop.
-/

namespace Sys2Proof.Machine

theorem makes_act {i : Instr} {s : State} {h : HoopId} {x y : Hoop} (f : Hoop → Hoop) (e : s.here h x) (hx : exec i s = .next (s.act h f))
    (hf : (f x).calm = y.calm) : CompletesAs i s h y := by
  obtain ⟨e, rfl⟩ := e
  exact ⟨_, hx, (act_calm s h f e).trans hf, act_calm_other s h f⟩

/-- What the row's own operation says of the blocks that `settle` leaves alone holds after the row. -/
theorem gives_act {i : Instr} {s : State} {h : HoopId} {x : Hoop} {P : Hoop → Prop} (f : Hoop → Hoop) (e : s.here h x)
    (hx : exec i s = .next (s.act h f)) (hP : ∀ y : Hoop, y.calm = (f x).calm → P y) : CompletesWith i s h P := by
  obtain ⟨e, rfl⟩ := e
  exact ⟨_, hx, hP _ (act_calm s h f e)⟩

/-- The same in a quiet module, of the core. -/
theorem gives_core {i : Instr} {s : State} {h : HoopId} {x : Hoop} {P : Hoop → Prop} (f : Hoop → Hoop) (e : s.here h x) (q : s.quiet = true)
    (hx : exec i s = .next (s.act h f)) (hp : (f x).part = x.part) (hs : (f x).fc.src = x.fc.src) (hk : (f x).dk.fcPar = x.dk.fcPar)
    (hP : ∀ y : Hoop, y.core = (f x).core → P y) : CompletesWith i s h P := by
  obtain ⟨e, rfl⟩ := e
  exact ⟨_, hx, hP _ (act_core s h f e (quiet_upd s h f q hp hs hk))⟩

/-- The same in a poised module: only overflow reports come after the row. -/
theorem gives_poised {i : Instr} {s : State} {h : HoopId} {x : Hoop} {P : Hoop → Prop} (f : Hoop → Hoop) (e : s.here h x) (q : s.poised = true)
    (hx : exec i s = .next (s.act h f)) (hp : (f x).part = x.part) (hs : (f x).fc.src = x.fc.src) (hk : (f x).dk.fcPar = x.dk.fcPar) (hq : x.poised = true → (f x).poised = true)
    (hP : P (pmcTell (f x))) : CompletesWith i s h P := by
  obtain ⟨e, rfl⟩ := e
  refine ⟨_, hx, ?_⟩
  rw [act_poised s h f e (poised_upd s h f q hp hs hk hq)]
  exact hP

/-- The rings. -/
theorem gives_mail {i : Instr} {s : State} {h : HoopId} {x : Hoop} {P : Hoop → Prop} (f : Hoop → Hoop) (e : s.here h x)
    (hx : exec i s = .next (s.act h f)) (hP : ∀ y : Hoop, y.mail = (f x).mail → P y) : CompletesWith i s h P := by
  obtain ⟨e, rfl⟩ := e
  exact ⟨_, hx, hP _ (act_mail s h f e)⟩

/-- The fault collector. -/
theorem gives_lines {i : Instr} {s : State} {h : HoopId} {x : Hoop} {P : Hoop → Prop} (f : Hoop → Hoop) (e : s.here h x)
    (hx : exec i s = .next (s.act h f)) (hP : ∀ y : Hoop, y.lines = (f x).lines → P y) : CompletesWith i s h P := by
  obtain ⟨e, rfl⟩ := e
  exact ⟨_, hx, hP _ (act_lines s h f e)⟩

/-! ## Selda commands -/

theorem makes_serve {i : Instr} {s : State} {h : HoopId} {r op : Nat} {c : ReadCmd} {v : Verb} {y : Hoop} (p : passes s h r op c v = true)
    (hx : exec i s = .next (s.serve h r op v)) (hf : (ran s h r op c v).2.calm = y.calm) : CompletesAs i s h y := by
  refine ⟨_, hx, (serve_calm s h r op c v p).trans hf, ?_⟩
  rw [serve_passes s h r op c v p]
  exact act_calm_other s h (fun _ => _)

theorem gives_serve {i : Instr} {s : State} {h : HoopId} {r op : Nat} {c : ReadCmd} {v : Verb} {P : Hoop → Prop} (p : passes s h r op c v = true)
    (hx : exec i s = .next (s.serve h r op v)) (hP : ∀ y : Hoop, y.calm = (ran s h r op c v).2.calm → P y) : CompletesWith i s h P :=
  ⟨_, hx, hP _ (serve_calm s h r op c v p)⟩

theorem gives_serve_core {i : Instr} {s : State} {h : HoopId} {r op : Nat} {c : ReadCmd} {v : Verb} {P : Hoop → Prop}
    (p : passes s h r op c v = true) (q : s.quiet = true) (hx : exec i s = .next (s.serve h r op v))
    (hp : (ran s h r op c v).2.part = (s.hoop h).part) (hf : (ran s h r op c v).2.fc.src = (s.hoop h).fc.src)
    (hk : (ran s h r op c v).2.dk.fcPar = (s.hoop h).dk.fcPar) (hP : ∀ y : Hoop, y.core = (ran s h r op c v).2.core → P y) : CompletesWith i s h P :=
  ⟨_, hx, hP _ (serve_core s h r op c v p q hp hf hk)⟩

/-! A command other than a batch part discards the run its ring holds, which no block but the rings shows. -/

@[simp] theorem breakRun_cm (r op : Nat) (x : Hoop) : (breakRun r op x).cm = x.cm := by unfold breakRun; split <;> rfl

@[simp] theorem breakRun_thr (r op : Nat) (x : Hoop) : (breakRun r op x).thr = x.thr := by unfold breakRun; split <;> rfl

@[simp] theorem breakRun_prk (r op : Nat) (x : Hoop) : (breakRun r op x).prk = x.prk := by unfold breakRun; split <;> rfl

@[simp] theorem breakRun_tmb (r op : Nat) (x : Hoop) : (breakRun r op x).tmb = x.tmb := by unfold breakRun; split <;> rfl

@[simp] theorem breakRun_drv (r op : Nat) (x : Hoop) : (breakRun r op x).drv = x.drv := by unfold breakRun; split <;> rfl

@[simp] theorem breakRun_fc (r op : Nat) (x : Hoop) : (breakRun r op x).fc = x.fc := by unfold breakRun; split <;> rfl

@[simp] theorem breakRun_dk (r op : Nat) (x : Hoop) : (breakRun r op x).dk = x.dk := by unfold breakRun; split <;> rfl

@[simp] theorem breakRun_jnl (r op : Nat) (x : Hoop) : (breakRun r op x).jnl = x.jnl := by unfold breakRun; split <;> rfl

@[simp] theorem breakRun_led (r op : Nat) (x : Hoop) : (breakRun r op x).led = x.led := by unfold breakRun; split <;> rfl

@[simp] theorem breakRun_evt (r op : Nat) (x : Hoop) : (breakRun r op x).evt = x.evt := by unfold breakRun; split <;> rfl

@[simp] theorem breakRun_pair (r op : Nat) (x : Hoop) : (breakRun r op x).pair = x.pair := by unfold breakRun; split <;> rfl

@[simp] theorem breakRun_wlm (r op : Nat) (x : Hoop) : (breakRun r op x).wlm = x.wlm := by unfold breakRun; split <;> rfl

@[simp] theorem breakRun_pmc (r op : Nat) (x : Hoop) : (breakRun r op x).pmc = x.pmc := by unfold breakRun; split <;> rfl

@[simp] theorem breakRun_boot (r op : Nat) (x : Hoop) : (breakRun r op x).boot = x.boot := by unfold breakRun; split <;> rfl

end Sys2Proof.Machine
end

