-- ==== Sys2Proof/Laws/Clock.lean ====
section
/-!
SUPPORT. What the operations of the timebase do to its block, said once each.
-/

namespace Sys2Proof.Machine

@[simp] theorem Hoop.setCmp_cmp (x : Hoop) (k : Nat) (c : Cmp) : (x.setCmp k c).tb.cmp k = c := by
  simp [Hoop.setCmp, Tb.cmp]

theorem Hoop.setCmp_cmp_ne (x : Hoop) {k j : Nat} (c : Cmp) (e : j ≠ k) : (x.setCmp k c).tb.cmp j = x.tb.cmp j := by
  simp [Hoop.setCmp, Tb.cmp, smGet_smSet_ne _ _ _ _ e]

/-- Arming touches comparators, held instants and what telling writes. -/
theorem armAt_tb (k ns : Nat) (x : Hoop) : ∃ c l, (armAt k ns x).tb = { x.tb with cmps := c, heldEvents := l } := by
  unfold armAt
  extract_lets c s1
  split
  · exact ⟨_, _, rfl⟩
  · split
    · rename_i y h
      unfold cmpArm at h
      split at h
      · cases h; exact ⟨_, _, rfl⟩
      · cases h
    · exact ⟨x.tb.cmps, x.tb.heldEvents, raiseEv_tb ..⟩

/-- An instant within 2 s is not held again. -/
theorem armAt_near (k ns : Nat) (x : Hoop) (h : x.tb.cntOf ns ≤ x.now + 2000000000) : ∃ c, (armAt k ns x).tb = { x.tb with cmps := c } := by
  unfold armAt
  extract_lets c s1
  rw [if_neg (by omega)]
  split
  · rename_i y h
    unfold cmpArm at h
    split at h
    · cases h; exact ⟨_, rfl⟩
    · cases h
  · exact ⟨x.tb.cmps, raiseEv_tb ..⟩

/-- An instant from 100 ns to 2 s ahead arms its comparator (R69). -/
theorem armAt_armed (k ns : Nat) (x : Hoop) (h : x.now + 100 ≤ x.tb.cntOf ns) (g : x.tb.cntOf ns ≤ x.now + 2000000000) :
    (armAt k ns x).tb.cmp k = { t16 := x.tb.cntOf ns * 16, armed := true, fired := false } := by
  have e : cmpArm k (x.tb.cntOf ns * 16) x = some (x.setCmp k { t16 := x.tb.cntOf ns * 16, armed := true, fired := false }) := by
    have d : x.tb.cntOf ns * 16 / 16 = x.tb.cntOf ns := by omega
    unfold cmpArm
    exact if_pos ⟨by rw [d]; exact h, by rw [d]; exact g⟩
  have e2 : armAt k ns x = x.setCmp k { t16 := x.tb.cntOf ns * 16, armed := true, fired := false } := by
    unfold armAt
    extract_lets c s1
    rw [if_neg (by show ¬ (x.now + 2000000000 < x.tb.cntOf ns); omega), show cmpArm k (c * 16) x = _ from e]
  rw [e2, Hoop.setCmp_cmp]

theorem Hoop.setDom_same (x : Hoop) (d : Nat) (v : Dom) : (x.setDom d v).dom d = v := by
  unfold Hoop.setDom Hoop.dom; split <;> rfl

@[simp] theorem updValid_tb (x : Hoop) : (updValid x).tb = { x.tb with timeValid := timeOk x.tb } := by
  unfold updValid
  extract_lets v y s1
  have hy : y.tb = x.tb := by
    show (if _ then _ else _ : Hoop).tb = _
    split <;> rfl
  split
  · rename_i e
    rw [hy] at e ⊢
    have e' : timeOk x.tb = x.tb.timeValid := e
    rw [e']
  · rw [raiseEv_tb]
    show ({ y.tb with timeValid := v } : Tb) = _
    rw [hy]

theorem updValid_dom (x : Hoop) (d : Nat) : (updValid x).dom d = x.dom d := by
  unfold Hoop.dom; rw [updValid_tb]

theorem Hoop.dom_of_tb {x y : Hoop} (h : x.tb = y.tb) (d : Nat) : x.dom d = y.dom d := by
  unfold Hoop.dom; rw [h]

/-- A change of servo state leaves the other domain and everything but the domains. -/
theorem setServo_tb (d : Nat) (st : Servo) (x : Hoop) : ∃ v : Dom, v.st = st ∧ v.offset = (x.dom d).offset ∧ v.configured = (x.dom d).configured ∧
    v.selected = (x.dom d).selected ∧ (setServo d st x).tb = (x.setDom d v).tb := by
  unfold setServo
  extract_lets v
  split
  · rename_i e
    refine ⟨x.dom d, e, rfl, rfl, rfl, ?_⟩
    unfold Hoop.setDom Hoop.dom; split <;> rfl
  · refine ⟨{ x.dom d with st := st, since := x.now, good := 0, bad := 0, syncs := 0, limitOver := false, acqAt := if st = .acquiring then x.now else (x.dom d).acqAt }, rfl, rfl, rfl, rfl, ?_⟩
    exact raiseEv_tb ..

theorem setServo_st (d : Nat) (st : Servo) (x : Hoop) : ((setServo d st x).dom d).st = st := by
  obtain ⟨v, hv, -, -, -, e⟩ := setServo_tb d st x
  rw [Hoop.dom_of_tb e, Hoop.setDom_same, hv]

theorem setServo_offset (d : Nat) (st : Servo) (x : Hoop) : ((setServo d st x).dom d).offset = (x.dom d).offset := by
  obtain ⟨v, -, hv, -, -, e⟩ := setServo_tb d st x
  rw [Hoop.dom_of_tb e, Hoop.setDom_same, hv]

/-- A fault or its end leaves the timebase. -/
theorem faultIf_tb (c : Prop) [Decidable c] (s d : Nat) (x : Hoop) : (if c then fault s d x else faultOff s x).tb = x.tb := by
  split
  · exact fault_tb s d x
  · exact faultOff_tb s x

@[simp] theorem postStage_tb (x : Hoop) : (postStage x).tb = x.tb := by
  unfold postStage; split
  · rfl
  · split <;> rfl

/-- Without a LOCKED secondary behind the primary no switch follows. -/
theorem autoSwitch_none (x : Hoop) (h : x.tb.sec.st ≠ .locked) : autoSwitch x = x := by
  unfold autoSwitch
  exact if_neg (fun c => h c.2.1)

/-- A new increment leaves the other registers of the timebase. -/
theorem setInc_tb (i : Int) (x : Hoop) : ∃ a l, (setInc i x).tb = { x.tb with inc := a, incHist := l } := by
  unfold setInc; exact ⟨_, _, rfl⟩

theorem whereSteers_sec (c : Prop) [Decidable c] (i : Int) (x : Hoop) : (if c then setInc i x else x).tb.sec = x.tb.sec := by
  split
  · obtain ⟨a, l, e⟩ := setInc_tb i x
    rw [e]
  · rfl

/-- HOLDOVER of the domain named, where no LOCKED secondary takes over (R71, R75). -/
theorem toHoldover_st (d : Nat) (x : Hoop) (h : (x.dom d).st = .acquiring ∨ (x.dom d).st = .locked) (g : d ≠ 0 ∨ x.tb.sec.st ≠ .locked) :
    ((toHoldover d x).dom d).st = .holdover := by
  unfold toHoldover
  extract_lets v y z
  rw [if_pos h, updValid_dom]
  obtain ⟨w, -, -, -, -, e⟩ := setServo_tb d .holdover y
  have hz : (z.dom d).st = .holdover := setServo_st d .holdover y
  rw [autoSwitch_none z]
  · exact hz
  · by_cases hd : d = 0
    · have : z.tb.sec = x.tb.sec := by
        show (setServo d .holdover y).tb.sec = _
        rw [e]; unfold Hoop.setDom; rw [if_pos hd]
        show y.tb.sec = _
        exact whereSteers_sec _ _ x
      rw [this]; exact g.resolve_left (fun h => h hd)
    · have : z.tb.sec = z.dom d := by unfold Hoop.dom; rw [if_neg hd]
      rw [this, hz]; decide

end Sys2Proof.Machine
end

