-- ==== Sys2Proof/WellFormed.lean ====
section
/-!
DEFINITION. Which commands are well formed: every number names something the largest member has: a ring, a
fault source, a tile, an element, a channel, a link (R2, R30 to R37, R276, R345). A member with fewer of them ignores
the rest (R4).
-/

namespace Sys2Proof

/-- A command whose numbers name rings, sources, elements and links that exist. -/
def WellFormed (i : Instr) : Bool :=
  match i with
  | .nop _ r => decide (r < 16)
  | .create _ r => decide (r < 16)
  | .modify _ r => decide (r < 16)
  | .reopen _ r => decide (r < 16)
  | .release _ r => decide (r < 16)
  | .dark _ r => decide (r < 16)
  | .darkNow _ r => decide (r < 16)
  | .cancel _ r => decide (r < 16)
  | .threadRead _ r => decide (r < 16)
  | .ledgerRead _ r => decide (r < 16)
  | .outcomeRead _ r => decide (r < 16)
  | .batch _ r => decide (r < 16)
  | .prkSlotLoad _ r => decide (r < 16)
  | .prkSlotMask _ r => decide (r < 16)
  | .prkSlotClear _ r => decide (r < 16)
  | .prkListWrite _ r => decide (r < 16)
  | .prkStart _ r => decide (r < 16)
  | .prkSwap _ r => decide (r < 16)
  | .prkSwapDisarm _ r => decide (r < 16)
  | .prkStop _ r => decide (r < 16)
  | .ringBind _ r => decide (r < 16)
  | .ringUnbind _ r => decide (r < 16)
  | .meterSet _ r => decide (r < 16)
  | .keySet _ r => decide (r < 16)
  | .eventSub _ r => decide (r < 16)
  | .netCfg _ r => decide (r < 16)
  | .ptpCfg _ r => decide (r < 16)
  | .domainSwitch _ r => decide (r < 16)
  | .verifyCfg _ r => decide (r < 16)
  | .adcProfile _ r => decide (r < 16)
  | .refSel _ r => decide (r < 16)
  | .calCfg _ r => decide (r < 16)
  | .loopSet _ r => decide (r < 16)
  | .loopAssign _ r => decide (r < 16)
  | .tecDrive _ r => decide (r < 16)
  | .tecCoef _ r => decide (r < 16)
  | .setpoint _ r => decide (r < 16)
  | .tecEnable _ r => decide (r < 16)
  | .tripClear _ r => decide (r < 16)
  | .thresholds _ r => decide (r < 16)
  | .thmModel _ r => decide (r < 16)
  | .holdupMin _ r => decide (r < 16)
  | .samplerRestore _ r => decide (r < 16)
  | .darkRelease _ r => decide (r < 16)
  | .handover _ r => decide (r < 16)
  | .rejoin _ r => decide (r < 16)
  | .regRead _ r => decide (r < 16)
  | .samplerRead _ r => decide (r < 16)
  | .journalRead _ r => decide (r < 16)
  | .resultRead _ r => decide (r < 16)
  | .deltaRead _ r => decide (r < 16)
  | .patchRead _ r => decide (r < 16)
  | .elementRead _ r => decide (r < 16)
  | .commitList _ r => decide (r < 16)
  | .historyRead _ r => decide (r < 16)
  | .fabricCommit _ r => decide (r < 16)
  | .wlmCfg _ r => decide (r < 16)
  | .doorbell _ r _ _ => decide (r < 16)
  | .mbxCplHead _ r _ => decide (r < 16)
  | .mbxEvtHead _ r _ => decide (r < 16)
  | .reopenRing0 _ _ => true
  | .dmaError _ r => decide (r < 16)
  | .msixModerationTimeout _ r _ => decide (r < 16)
  | .remoteDatagram _ port _ _ _ => decide (port < 2)
  | .smbusBlockRead _ _ => true
  | .alertResponse _ => true
  | .tbSnap _ _ => true
  | .tbCntRead _ => true
  | .tbPpsCtrlWrite _ _ => true
  | .tbCmpFiredClear _ _ => true
  | .fcStickyClear _ w _ => decide (w < 7)
  | .fcWireClear _ w _ => decide (w < 7)
  | .rearm _ _ => true
  | .pmcCtrlWrite _ _ => true
  | .pmcLoad _ _ _ => true
  | .pmcOvfClear _ w _ => decide (w < 8)
  | .pmcPreHiWrite _ c _ => decide (c < 256)
  | .pmcCntLoRead _ c => decide (c < 256)
  | .registerWrite _ off _ _ => decide (off < 1048576)
  | .powerOnReset _ rail _ => decide (rail < 9)
  | .porRelease _ => true
  | .modRst => true
  | .railExcursion _ rail _ => decide (rail < 9)
  | .railReturn _ rail _ => decide (rail < 9)
  | .pwrFailAssert => true
  | .pwrFailRelease => true
  | .vkeepLoss _ => true
  | .pcieReset _ _ _ => true
  | .defaultTargetAccess _ master _ _ addr => decide (master < 9) && decide (addr < 1099511627776)
  | .watchdogExpiry _ core _ => decide (core < 4)
  | .coreResume _ core => decide (core < 4)
  | .debugHalt _ core => decide (core < 4)
  | .debugResume _ => true
  | .tecTrip z => decide (z < 2)
  | .ppsInEdge => true
  | .faultAssert _ src _ => decide (src < 224)
  | .faultClear _ src => decide (src < 224)
  | .wireFault _ src => decide (src < 224)
  | .collectorParityError _ => true
  | .faultNTimeout _ => true
  | .keeperCrcCheck _ _ => true
  | .forceRelease _ => true
  | .epochStrobe _ k => decide (k < 16)
  | .zeroCodeEpoch _ _ ring => decide (ring < 16)
  | .settlingEnd _ _ ring => decide (ring < 16)
  | .verifyDeadline _ inPort => decide (inPort < 512)
  | .prickingEntryStrobe _ => true
  | .prickingCycleBoundary _ => true
  | .ppsOutEdge _ => true
  | .ppsPulseEnd _ => true
  | .refreshOrigin _ => true
  | .ledgerMinuteBoundary _ => true
  | .ledgerMinuteClose _ => true
  | .heldEventSweep _ => true
  | .anchorRewrite _ => true
  | .tbWrap _ => true
  | .syncReceived _ dom _ _ _ _ => decide (dom < 2)
  | .syncTimeout _ dom => decide (dom < 2)
  | .holdoverLimitExpiry _ => true
  | .freerunTimeout _ dom => decide (dom < 2)
  | .timeLinkCompare _ _ _ => true
  | .stageStd _ _ _ _ => true
  | .stagePrk _ _ _ _ => true
  | .restoreIdle _ => true
  | .tileUpdate _ t => decide (t < 152)
  | .injReload _ g => decide (g < 42)
  | .disarm _ k => decide (k < 16)
  | .tambourHandover _ => true
  | .eyeletDark _ => true
  | .tambourNop _ => true
  | .reservedOperation _ _ => true
  | .tambourStop _ _ _ _ => true
  | .forcedStop _ _ _ _ => true
  | .uncorrectableEcc _ _ _ => true
  | .patchScrub _ _ => true
  | .waitTimeout _ cond g _ => decide (cond < 32) && decide (g < 42)
  | .tambourResume _ => true
  | .holdRelease _ => true
  | .refreshSlot _ t _ => decide (t < 160)
  | .ditherWindow _ t => decide (t < 152)
  | .needleSlewStep _ t => decide (t < 152)
  | .windowEnd _ t _ => decide (t < 152)
  | .deglitchRelease _ e _ => decide (e < 4864)
  | .heaterSlewStep _ t => decide (t < 152)
  | .rangeHoldEnd _ e => decide (e < 4864)
  | .heaterComplianceFail _ e => decide (e < 4864)
  | .heaterSumOver _ => true
  | .conversionEnd _ ch _ => decide (ch < 5376)
  | .spareTestEnd _ ch _ => decide (ch < 5376)
  | .adcConversionTimeout _ g => decide (g < 42)
  | .regularPassStart _ => true
  | .lockinWindowEnd _ e => decide (e < 4864)
  | .loopHoldTimeout _ e => decide (e < 4864)
  | .capJob _ => true
  | .fieldRefinement _ e _ => decide (e < 4864)
  | .telemetrySweep _ ch _ => decide (ch < 5376)
  | .calRoundStart _ => true
  | .calStep _ _ => true
  | .adcSelfCalEnd _ g _ => decide (g < 42)
  | .refOkSet _ _ => true
  | .referenceFallback _ => true
  | .diodePass _ _ => true
  | .zoneMean _ => true
  | .diodeCrossCheck _ => true
  | .dieSensorRead _ _ => true
  | .thermistorRead _ _ => true
  | .throttleStep _ grp => decide (grp < 4)
  | .pwmReload _ z => decide (z < 2)
  | .setpointAverage _ _ => true
  | .setpointSourceLost _ => true
  | .sliceRebuilt _ => true
  | .journalBurst _ _ => true
  | .holdupRetry _ _ => true
  | .historySecond _ _ _ => true
  | .windowBoundary _ => true
  | .counterOverflow _ c _ => decide (c < 256)
  | .healthScore => true
  | .patchCompare => true
  | .intakeTimeout _ => true
  | .handoverBoundary => true
  | .handoverAbandon _ => true
  | .provingEnd _ => true
  | .interlockDisagreement => true
  | .gracePeriodEnd => true
  | .tokenTimeout _ => true
  | .resyncComplete _ _ => true
  | .helloSend _ => true
  | .hello _ link _ => decide (link < 4)
  | .helloTimeout _ link => decide (link < 4)
  | .laneLockLoss _ link lane => decide (link < 4) && decide (lane < 2)
  | .route _ link _ => decide (link < 4)
  | .routeAdvertise _ => true
  | .triggeredUpdate _ link => decide (link < 4)
  | .routeExpiry _ addr => decide (addr < 4096)
  | .addrReqSend _ => true
  | .addrReq _ link _ => decide (link < 4)
  | .addrGrant _ link _ => decide (link < 4)
  | .propose _ link _ => decide (link < 4)
  | .ready _ link _ => decide (link < 4)
  | .go _ link _ => decide (link < 4)
  | .abort _ link _ => decide (link < 4)
  | .done _ link _ => decide (link < 4)
  | .readyDeadline _ s => decide (s < 5)
  | .goSendDeadline _ s => decide (s < 5)
  | .goDeadline _ k => decide (k < 16)
  | .fabricOutcomeTimeout _ _ => true
  | .darkNoticeRepeat _ => true
  | .darkNotice _ link _ => decide (link < 4)
  | .timeCheckSend _ => true
  | .timeCheck _ link _ _ => decide (link < 4)
  | .telemetrySend _ => true
  | .telemetry _ link _ => decide (link < 4)
  | .handoverNotice _ link _ => decide (link < 4)
  | .imageAuthenticated _ _ _ _ => true
  | .lpddr4xTrained _ _ _ => true
  | .monitorSelfTestDone _ _ => true
  | .firstWriteDone _ => true
  | .ring0Open _ _ _ => true
  | .historyStoreReady _ _ _ _ => true
  | .tokenRefill _ r => decide (r < 16)
  | .tecTripRelease z => decide (z < 2)
  | .intakeDigest _ => true
  | .masterSelection _ dom _ => decide (dom < 2)
  | .delayRequestResponse _ dom _ => decide (dom < 2)
  | .pcieLinkUp _ _ _ => true
  | .powerManagementState _ _ => true
  | .neighbourLagUpdate _ => true
  | .htrSumUpdate _ => true
  | .phaseAccumulatorTick _ => true
  | .pwmDutyEdge _ z => decide (z < 2)

end Sys2Proof
end

