-- ==== Sys2Proof/Laws/PerInstr.lean ====
section
/-!
SUPPORT. A fact about every constructor of `Instr`: a well-formed command that names a ring names one of the sixteen (R345).
-/

namespace Sys2Proof.Laws.Wf

/-- The ring that a command names. -/
def ringOf : Instr → Option Nat
  | .nop _ r => some r
  | .create _ r => some r
  | .modify _ r => some r
  | .reopen _ r => some r
  | .release _ r => some r
  | .dark _ r => some r
  | .darkNow _ r => some r
  | .cancel _ r => some r
  | .threadRead _ r => some r
  | .ledgerRead _ r => some r
  | .outcomeRead _ r => some r
  | .batch _ r => some r
  | .prkSlotLoad _ r => some r
  | .prkSlotMask _ r => some r
  | .prkSlotClear _ r => some r
  | .prkListWrite _ r => some r
  | .prkStart _ r => some r
  | .prkSwap _ r => some r
  | .prkSwapDisarm _ r => some r
  | .prkStop _ r => some r
  | .ringBind _ r => some r
  | .ringUnbind _ r => some r
  | .meterSet _ r => some r
  | .keySet _ r => some r
  | .eventSub _ r => some r
  | .netCfg _ r => some r
  | .ptpCfg _ r => some r
  | .domainSwitch _ r => some r
  | .verifyCfg _ r => some r
  | .adcProfile _ r => some r
  | .refSel _ r => some r
  | .calCfg _ r => some r
  | .loopSet _ r => some r
  | .loopAssign _ r => some r
  | .tecDrive _ r => some r
  | .tecCoef _ r => some r
  | .setpoint _ r => some r
  | .tecEnable _ r => some r
  | .tripClear _ r => some r
  | .thresholds _ r => some r
  | .thmModel _ r => some r
  | .holdupMin _ r => some r
  | .samplerRestore _ r => some r
  | .darkRelease _ r => some r
  | .handover _ r => some r
  | .rejoin _ r => some r
  | .regRead _ r => some r
  | .samplerRead _ r => some r
  | .journalRead _ r => some r
  | .resultRead _ r => some r
  | .deltaRead _ r => some r
  | .patchRead _ r => some r
  | .elementRead _ r => some r
  | .commitList _ r => some r
  | .historyRead _ r => some r
  | .fabricCommit _ r => some r
  | .wlmCfg _ r => some r
  | .doorbell _ r _ _ => some r
  | .mbxCplHead _ r _ => some r
  | .mbxEvtHead _ r _ => some r
  | .dmaError _ r => some r
  | .msixModerationTimeout _ r _ => some r
  | .zeroCodeEpoch _ _ ring => some ring
  | .settlingEnd _ _ ring => some ring
  | .tokenRefill _ r => some r
  | _ => none

/-- The ring that a well-formed command names exists. -/
def Statement (i : Instr) : Prop := ∀ q, ringOf i = some q → WellFormed i = true → q < 16

theorem nop (h : HoopId) (r : Nat) : Statement (.nop h r) := fun _ e w => by cases e; exact of_decide_eq_true w
theorem create (h : HoopId) (r : Nat) : Statement (.create h r) := fun _ e w => by cases e; exact of_decide_eq_true w
theorem modify (h : HoopId) (r : Nat) : Statement (.modify h r) := fun _ e w => by cases e; exact of_decide_eq_true w
theorem reopen (h : HoopId) (r : Nat) : Statement (.reopen h r) := fun _ e w => by cases e; exact of_decide_eq_true w
theorem release (h : HoopId) (r : Nat) : Statement (.release h r) := fun _ e w => by cases e; exact of_decide_eq_true w
theorem dark (h : HoopId) (r : Nat) : Statement (.dark h r) := fun _ e w => by cases e; exact of_decide_eq_true w
theorem darkNow (h : HoopId) (r : Nat) : Statement (.darkNow h r) := fun _ e w => by cases e; exact of_decide_eq_true w
theorem cancel (h : HoopId) (r : Nat) : Statement (.cancel h r) := fun _ e w => by cases e; exact of_decide_eq_true w
theorem threadRead (h : HoopId) (r : Nat) : Statement (.threadRead h r) := fun _ e w => by cases e; exact of_decide_eq_true w
theorem ledgerRead (h : HoopId) (r : Nat) : Statement (.ledgerRead h r) := fun _ e w => by cases e; exact of_decide_eq_true w
theorem outcomeRead (h : HoopId) (r : Nat) : Statement (.outcomeRead h r) := fun _ e w => by cases e; exact of_decide_eq_true w
theorem batch (h : HoopId) (r : Nat) : Statement (.batch h r) := fun _ e w => by cases e; exact of_decide_eq_true w
theorem prkSlotLoad (h : HoopId) (r : Nat) : Statement (.prkSlotLoad h r) := fun _ e w => by cases e; exact of_decide_eq_true w
theorem prkSlotMask (h : HoopId) (r : Nat) : Statement (.prkSlotMask h r) := fun _ e w => by cases e; exact of_decide_eq_true w
theorem prkSlotClear (h : HoopId) (r : Nat) : Statement (.prkSlotClear h r) := fun _ e w => by cases e; exact of_decide_eq_true w
theorem prkListWrite (h : HoopId) (r : Nat) : Statement (.prkListWrite h r) := fun _ e w => by cases e; exact of_decide_eq_true w
theorem prkStart (h : HoopId) (r : Nat) : Statement (.prkStart h r) := fun _ e w => by cases e; exact of_decide_eq_true w
theorem prkSwap (h : HoopId) (r : Nat) : Statement (.prkSwap h r) := fun _ e w => by cases e; exact of_decide_eq_true w
theorem prkSwapDisarm (h : HoopId) (r : Nat) : Statement (.prkSwapDisarm h r) := fun _ e w => by cases e; exact of_decide_eq_true w
theorem prkStop (h : HoopId) (r : Nat) : Statement (.prkStop h r) := fun _ e w => by cases e; exact of_decide_eq_true w
theorem ringBind (h : HoopId) (r : Nat) : Statement (.ringBind h r) := fun _ e w => by cases e; exact of_decide_eq_true w
theorem ringUnbind (h : HoopId) (r : Nat) : Statement (.ringUnbind h r) := fun _ e w => by cases e; exact of_decide_eq_true w
theorem meterSet (h : HoopId) (r : Nat) : Statement (.meterSet h r) := fun _ e w => by cases e; exact of_decide_eq_true w
theorem keySet (h : HoopId) (r : Nat) : Statement (.keySet h r) := fun _ e w => by cases e; exact of_decide_eq_true w
theorem eventSub (h : HoopId) (r : Nat) : Statement (.eventSub h r) := fun _ e w => by cases e; exact of_decide_eq_true w
theorem netCfg (h : HoopId) (r : Nat) : Statement (.netCfg h r) := fun _ e w => by cases e; exact of_decide_eq_true w
theorem ptpCfg (h : HoopId) (r : Nat) : Statement (.ptpCfg h r) := fun _ e w => by cases e; exact of_decide_eq_true w
theorem domainSwitch (h : HoopId) (r : Nat) : Statement (.domainSwitch h r) := fun _ e w => by cases e; exact of_decide_eq_true w
theorem verifyCfg (h : HoopId) (r : Nat) : Statement (.verifyCfg h r) := fun _ e w => by cases e; exact of_decide_eq_true w
theorem adcProfile (h : HoopId) (r : Nat) : Statement (.adcProfile h r) := fun _ e w => by cases e; exact of_decide_eq_true w
theorem refSel (h : HoopId) (r : Nat) : Statement (.refSel h r) := fun _ e w => by cases e; exact of_decide_eq_true w
theorem calCfg (h : HoopId) (r : Nat) : Statement (.calCfg h r) := fun _ e w => by cases e; exact of_decide_eq_true w
theorem loopSet (h : HoopId) (r : Nat) : Statement (.loopSet h r) := fun _ e w => by cases e; exact of_decide_eq_true w
theorem loopAssign (h : HoopId) (r : Nat) : Statement (.loopAssign h r) := fun _ e w => by cases e; exact of_decide_eq_true w
theorem tecDrive (h : HoopId) (r : Nat) : Statement (.tecDrive h r) := fun _ e w => by cases e; exact of_decide_eq_true w
theorem tecCoef (h : HoopId) (r : Nat) : Statement (.tecCoef h r) := fun _ e w => by cases e; exact of_decide_eq_true w
theorem setpoint (h : HoopId) (r : Nat) : Statement (.setpoint h r) := fun _ e w => by cases e; exact of_decide_eq_true w
theorem tecEnable (h : HoopId) (r : Nat) : Statement (.tecEnable h r) := fun _ e w => by cases e; exact of_decide_eq_true w
theorem tripClear (h : HoopId) (r : Nat) : Statement (.tripClear h r) := fun _ e w => by cases e; exact of_decide_eq_true w
theorem thresholds (h : HoopId) (r : Nat) : Statement (.thresholds h r) := fun _ e w => by cases e; exact of_decide_eq_true w
theorem thmModel (h : HoopId) (r : Nat) : Statement (.thmModel h r) := fun _ e w => by cases e; exact of_decide_eq_true w
theorem holdupMin (h : HoopId) (r : Nat) : Statement (.holdupMin h r) := fun _ e w => by cases e; exact of_decide_eq_true w
theorem samplerRestore (h : HoopId) (r : Nat) : Statement (.samplerRestore h r) := fun _ e w => by cases e; exact of_decide_eq_true w
theorem darkRelease (h : HoopId) (r : Nat) : Statement (.darkRelease h r) := fun _ e w => by cases e; exact of_decide_eq_true w
theorem handover (h : HoopId) (r : Nat) : Statement (.handover h r) := fun _ e w => by cases e; exact of_decide_eq_true w
theorem rejoin (h : HoopId) (r : Nat) : Statement (.rejoin h r) := fun _ e w => by cases e; exact of_decide_eq_true w
theorem regRead (h : HoopId) (r : Nat) : Statement (.regRead h r) := fun _ e w => by cases e; exact of_decide_eq_true w
theorem samplerRead (h : HoopId) (r : Nat) : Statement (.samplerRead h r) := fun _ e w => by cases e; exact of_decide_eq_true w
theorem journalRead (h : HoopId) (r : Nat) : Statement (.journalRead h r) := fun _ e w => by cases e; exact of_decide_eq_true w
theorem resultRead (h : HoopId) (r : Nat) : Statement (.resultRead h r) := fun _ e w => by cases e; exact of_decide_eq_true w
theorem deltaRead (h : HoopId) (r : Nat) : Statement (.deltaRead h r) := fun _ e w => by cases e; exact of_decide_eq_true w
theorem patchRead (h : HoopId) (r : Nat) : Statement (.patchRead h r) := fun _ e w => by cases e; exact of_decide_eq_true w
theorem elementRead (h : HoopId) (r : Nat) : Statement (.elementRead h r) := fun _ e w => by cases e; exact of_decide_eq_true w
theorem commitList (h : HoopId) (r : Nat) : Statement (.commitList h r) := fun _ e w => by cases e; exact of_decide_eq_true w
theorem historyRead (h : HoopId) (r : Nat) : Statement (.historyRead h r) := fun _ e w => by cases e; exact of_decide_eq_true w
theorem fabricCommit (h : HoopId) (r : Nat) : Statement (.fabricCommit h r) := fun _ e w => by cases e; exact of_decide_eq_true w
theorem wlmCfg (h : HoopId) (r : Nat) : Statement (.wlmCfg h r) := fun _ e w => by cases e; exact of_decide_eq_true w
theorem doorbell (h : HoopId) (r : Nat) (tail : BitVec 12) (cmds : List Bytes) : Statement (.doorbell h r tail cmds) := fun _ e w => by cases e; exact of_decide_eq_true w
theorem mbxCplHead (h : HoopId) (r : Nat) (v : BitVec 12) : Statement (.mbxCplHead h r v) := fun _ e w => by cases e; exact of_decide_eq_true w
theorem mbxEvtHead (h : HoopId) (r : Nat) (v : BitVec 13) : Statement (.mbxEvtHead h r v) := fun _ e w => by cases e; exact of_decide_eq_true w
theorem reopenRing0 (h : HoopId) (v : BitVec 32) : Statement (.reopenRing0 h v) := fun _ e => nomatch e
theorem dmaError (h : HoopId) (r : Nat) : Statement (.dmaError h r) := fun _ e w => by cases e; exact of_decide_eq_true w
theorem msixModerationTimeout (h : HoopId) (r : Nat) (evt : Bool) : Statement (.msixModerationTimeout h r evt) := fun _ e w => by cases e; exact of_decide_eq_true w
theorem remoteDatagram (h : HoopId) (port : Nat) (srcAddr : BitVec 32) (srcPort : BitVec 16) (payload : Bytes) : Statement (.remoteDatagram h port srcAddr srcPort payload) := fun _ e => nomatch e
theorem smbusBlockRead (h : HoopId) (cmd : BitVec 8) : Statement (.smbusBlockRead h cmd) := fun _ e => nomatch e
theorem alertResponse (h : HoopId) : Statement (.alertResponse h) := fun _ e => nomatch e
theorem tbSnap (h : HoopId) (v : BitVec 32) : Statement (.tbSnap h v) := fun _ e => nomatch e
theorem tbCntRead (h : HoopId) : Statement (.tbCntRead h) := fun _ e => nomatch e
theorem tbPpsCtrlWrite (h : HoopId) (v : BitVec 32) : Statement (.tbPpsCtrlWrite h v) := fun _ e => nomatch e
theorem tbCmpFiredClear (h : HoopId) (v : BitVec 32) : Statement (.tbCmpFiredClear h v) := fun _ e => nomatch e
theorem fcStickyClear (h : HoopId) (w : Nat) (v : BitVec 32) : Statement (.fcStickyClear h w v) := fun _ e => nomatch e
theorem fcWireClear (h : HoopId) (w : Nat) (v : BitVec 32) : Statement (.fcWireClear h w v) := fun _ e => nomatch e
theorem rearm (h : HoopId) (v : BitVec 32) : Statement (.rearm h v) := fun _ e => nomatch e
theorem pmcCtrlWrite (h : HoopId) (v : BitVec 32) : Statement (.pmcCtrlWrite h v) := fun _ e => nomatch e
theorem pmcLoad (h : HoopId) (v : BitVec 32) (inc : Nat) : Statement (.pmcLoad h v inc) := fun _ e => nomatch e
theorem pmcOvfClear (h : HoopId) (w : Nat) (v : BitVec 32) : Statement (.pmcOvfClear h w v) := fun _ e => nomatch e
theorem pmcPreHiWrite (h : HoopId) (c : Nat) (v : BitVec 32) : Statement (.pmcPreHiWrite h c v) := fun _ e => nomatch e
theorem pmcCntLoRead (h : HoopId) (c : Nat) : Statement (.pmcCntLoRead h c) := fun _ e => nomatch e
theorem registerWrite (h : HoopId) (off : Nat) (size : Nat) (v : BitVec 32) : Statement (.registerWrite h off size v) := fun _ e => nomatch e
theorem powerOnReset (h : HoopId) (rail : Nat) (mv : Nat) : Statement (.powerOnReset h rail mv) := fun _ e => nomatch e
theorem porRelease (h : HoopId) : Statement (.porRelease h) := fun _ e => nomatch e
theorem modRst : Statement .modRst := fun _ e => nomatch e
theorem railExcursion (h : HoopId) (rail : Nat) (mv : Nat) : Statement (.railExcursion h rail mv) := fun _ e => nomatch e
theorem railReturn (h : HoopId) (rail : Nat) (mv : Nat) : Statement (.railReturn h rail mv) := fun _ e => nomatch e
theorem pwrFailAssert : Statement .pwrFailAssert := fun _ e => nomatch e
theorem pwrFailRelease : Statement .pwrFailRelease := fun _ e => nomatch e
theorem vkeepLoss (h : HoopId) : Statement (.vkeepLoss h) := fun _ e => nomatch e
theorem pcieReset (h : HoopId) (cause : Nat) (cut : Option Burst) : Statement (.pcieReset h cause cut) := fun _ e => nomatch e
theorem defaultTargetAccess (h : HoopId) (master : Nat) (write : Bool) (beats : Nat) (addr : Nat) : Statement (.defaultTargetAccess h master write beats addr) := fun _ e => nomatch e
theorem watchdogExpiry (h : HoopId) (core : Nat) (cut : Option Burst) : Statement (.watchdogExpiry h core cut) := fun _ e => nomatch e
theorem coreResume (h : HoopId) (core : Nat) : Statement (.coreResume h core) := fun _ e => nomatch e
theorem debugHalt (h : HoopId) (core : Nat) : Statement (.debugHalt h core) := fun _ e => nomatch e
theorem debugResume (h : HoopId) : Statement (.debugResume h) := fun _ e => nomatch e
theorem tecTrip (z : Nat) : Statement (.tecTrip z) := fun _ e => nomatch e
theorem ppsInEdge : Statement .ppsInEdge := fun _ e => nomatch e
theorem faultAssert (h : HoopId) (src : Nat) (det : Nat) : Statement (.faultAssert h src det) := fun _ e => nomatch e
theorem faultClear (h : HoopId) (src : Nat) : Statement (.faultClear h src) := fun _ e => nomatch e
theorem wireFault (h : HoopId) (src : Nat) : Statement (.wireFault h src) := fun _ e => nomatch e
theorem collectorParityError (h : HoopId) : Statement (.collectorParityError h) := fun _ e => nomatch e
theorem faultNTimeout (h : HoopId) : Statement (.faultNTimeout h) := fun _ e => nomatch e
theorem keeperCrcCheck (h : HoopId) (flipped : Bool) : Statement (.keeperCrcCheck h flipped) := fun _ e => nomatch e
theorem forceRelease (h : HoopId) : Statement (.forceRelease h) := fun _ e => nomatch e
theorem epochStrobe (h : HoopId) (k : Nat) : Statement (.epochStrobe h k) := fun _ e => nomatch e
theorem zeroCodeEpoch (h : HoopId) (seq : Nat) (ring : Nat) : Statement (.zeroCodeEpoch h seq ring) := fun _ e w => by cases e; exact of_decide_eq_true w
theorem settlingEnd (h : HoopId) (seq : Nat) (ring : Nat) : Statement (.settlingEnd h seq ring) := fun _ e w => by cases e; exact of_decide_eq_true w
theorem verifyDeadline (h : HoopId) (inPort : Nat) : Statement (.verifyDeadline h inPort) := fun _ e => nomatch e
theorem prickingEntryStrobe (h : HoopId) : Statement (.prickingEntryStrobe h) := fun _ e => nomatch e
theorem prickingCycleBoundary (h : HoopId) : Statement (.prickingCycleBoundary h) := fun _ e => nomatch e
theorem ppsOutEdge (h : HoopId) : Statement (.ppsOutEdge h) := fun _ e => nomatch e
theorem ppsPulseEnd (h : HoopId) : Statement (.ppsPulseEnd h) := fun _ e => nomatch e
theorem refreshOrigin (h : HoopId) : Statement (.refreshOrigin h) := fun _ e => nomatch e
theorem ledgerMinuteBoundary (h : HoopId) : Statement (.ledgerMinuteBoundary h) := fun _ e => nomatch e
theorem ledgerMinuteClose (h : HoopId) : Statement (.ledgerMinuteClose h) := fun _ e => nomatch e
theorem heldEventSweep (h : HoopId) : Statement (.heldEventSweep h) := fun _ e => nomatch e
theorem anchorRewrite (h : HoopId) : Statement (.anchorRewrite h) := fun _ e => nomatch e
theorem tbWrap (h : HoopId) : Statement (.tbWrap h) := fun _ e => nomatch e
theorem syncReceived (h : HoopId) (dom : Nat) (corr : Int) (filt : Int) (origin : PtpTime) (utc : Int) : Statement (.syncReceived h dom corr filt origin utc) := fun _ e => nomatch e
theorem syncTimeout (h : HoopId) (dom : Nat) : Statement (.syncTimeout h dom) := fun _ e => nomatch e
theorem holdoverLimitExpiry (h : HoopId) : Statement (.holdoverLimitExpiry h) := fun _ e => nomatch e
theorem freerunTimeout (h : HoopId) (dom : Nat) : Statement (.freerunTimeout h dom) := fun _ e => nomatch e
theorem timeLinkCompare (h : HoopId) (phase : Nat) (linkOk : Bool) : Statement (.timeLinkCompare h phase linkOk) := fun _ e => nomatch e
theorem stageStd (h : HoopId) (bad1 : List Nat) (bad2 : List Nat) (why : StageEvent) : Statement (.stageStd h bad1 bad2 why) := fun _ e => nomatch e
theorem stagePrk (h : HoopId) (bad1 : List Nat) (bad2 : List Nat) (why : StageEvent) : Statement (.stagePrk h bad1 bad2 why) := fun _ e => nomatch e
theorem restoreIdle (h : HoopId) : Statement (.restoreIdle h) := fun _ e => nomatch e
theorem tileUpdate (h : HoopId) (t : Nat) : Statement (.tileUpdate h t) := fun _ e => nomatch e
theorem injReload (h : HoopId) (g : Nat) : Statement (.injReload h g) := fun _ e => nomatch e
theorem disarm (h : HoopId) (k : Nat) : Statement (.disarm h k) := fun _ e => nomatch e
theorem tambourHandover (h : HoopId) : Statement (.tambourHandover h) := fun _ e => nomatch e
theorem eyeletDark (h : HoopId) : Statement (.eyeletDark h) := fun _ e => nomatch e
theorem tambourNop (h : HoopId) : Statement (.tambourNop h) := fun _ e => nomatch e
theorem reservedOperation (h : HoopId) (code : BitVec 6) : Statement (.reservedOperation h code) := fun _ e => nomatch e
theorem tambourStop (h : HoopId) (phase : Nat) (applied : Nat) (uaddr : BitVec 12) : Statement (.tambourStop h phase applied uaddr) := fun _ e => nomatch e
theorem forcedStop (h : HoopId) (phase : Nat) (applied : Nat) (uaddr : BitVec 12) : Statement (.forcedStop h phase applied uaddr) := fun _ e => nomatch e
theorem uncorrectableEcc (h : HoopId) (nano : Bool) (site : EccSite) : Statement (.uncorrectableEcc h nano site) := fun _ e => nomatch e
theorem patchScrub (h : HoopId) (hit : Option EccHit) : Statement (.patchScrub h hit) := fun _ e => nomatch e
theorem waitTimeout (h : HoopId) (cond : Nat) (g : Nat) (uaddr : BitVec 12) : Statement (.waitTimeout h cond g uaddr) := fun _ e => nomatch e
theorem tambourResume (h : HoopId) : Statement (.tambourResume h) := fun _ e => nomatch e
theorem holdRelease (h : HoopId) : Statement (.holdRelease h) := fun _ e => nomatch e
theorem refreshSlot (h : HoopId) (t : Nat) (fails : List Nat) : Statement (.refreshSlot h t fails) := fun _ e => nomatch e
theorem ditherWindow (h : HoopId) (t : Nat) : Statement (.ditherWindow h t) := fun _ e => nomatch e
theorem needleSlewStep (h : HoopId) (t : Nat) : Statement (.needleSlewStep h t) := fun _ e => nomatch e
theorem windowEnd (h : HoopId) (t : Nat) (fails : List Nat) : Statement (.windowEnd h t fails) := fun _ e => nomatch e
theorem deglitchRelease (h : HoopId) (e : Nat) (heater : Bool) : Statement (.deglitchRelease h e heater) := fun _ e => nomatch e
theorem heaterSlewStep (h : HoopId) (t : Nat) : Statement (.heaterSlewStep h t) := fun _ e => nomatch e
theorem rangeHoldEnd (h : HoopId) (e : Nat) : Statement (.rangeHoldEnd h e) := fun _ e => nomatch e
theorem heaterComplianceFail (h : HoopId) (e : Nat) : Statement (.heaterComplianceFail h e) := fun _ e => nomatch e
theorem heaterSumOver (h : HoopId) : Statement (.heaterSumOver h) := fun _ e => nomatch e
theorem conversionEnd (h : HoopId) (ch : Nat) (c : Conv) : Statement (.conversionEnd h ch c) := fun _ e => nomatch e
theorem spareTestEnd (h : HoopId) (ch : Nat) (normal : Bool) : Statement (.spareTestEnd h ch normal) := fun _ e => nomatch e
theorem adcConversionTimeout (h : HoopId) (g : Nat) : Statement (.adcConversionTimeout h g) := fun _ e => nomatch e
theorem regularPassStart (h : HoopId) : Statement (.regularPassStart h) := fun _ e => nomatch e
theorem lockinWindowEnd (h : HoopId) (e : Nat) : Statement (.lockinWindowEnd h e) := fun _ e => nomatch e
theorem loopHoldTimeout (h : HoopId) (e : Nat) : Statement (.loopHoldTimeout h e) := fun _ e => nomatch e
theorem capJob (h : HoopId) : Statement (.capJob h) := fun _ e => nomatch e
theorem fieldRefinement (h : HoopId) (e : Nat) (mean : Int) : Statement (.fieldRefinement h e mean) := fun _ e => nomatch e
theorem telemetrySweep (h : HoopId) (ch : Nat) (c : Conv) : Statement (.telemetrySweep h ch c) := fun _ e => nomatch e
theorem calRoundStart (h : HoopId) : Statement (.calRoundStart h) := fun _ e => nomatch e
theorem calStep (h : HoopId) (avg : Nat) : Statement (.calStep h avg) := fun _ e => nomatch e
theorem adcSelfCalEnd (h : HoopId) (g : Nat) (mid : Nat) : Statement (.adcSelfCalEnd h g mid) := fun _ e => nomatch e
theorem refOkSet (h : HoopId) (drift : Nat) : Statement (.refOkSet h drift) := fun _ e => nomatch e
theorem referenceFallback (h : HoopId) : Statement (.referenceFallback h) := fun _ e => nomatch e
theorem diodePass (h : HoopId) (temps : List Int) : Statement (.diodePass h temps) := fun _ e => nomatch e
theorem zoneMean (h : HoopId) : Statement (.zoneMean h) := fun _ e => nomatch e
theorem diodeCrossCheck (h : HoopId) : Statement (.diodeCrossCheck h) := fun _ e => nomatch e
theorem dieSensorRead (h : HoopId) (temps : List Int) : Statement (.dieSensorRead h temps) := fun _ e => nomatch e
theorem thermistorRead (h : HoopId) (ohms : List Nat) : Statement (.thermistorRead h ohms) := fun _ e => nomatch e
theorem throttleStep (h : HoopId) (grp : Nat) : Statement (.throttleStep h grp) := fun _ e => nomatch e
theorem pwmReload (h : HoopId) (z : Nat) : Statement (.pwmReload h z) := fun _ e => nomatch e
theorem setpointAverage (h : HoopId) (avg : Int) : Statement (.setpointAverage h avg) := fun _ e => nomatch e
theorem setpointSourceLost (h : HoopId) : Statement (.setpointSourceLost h) := fun _ e => nomatch e
theorem sliceRebuilt (h : HoopId) : Statement (.sliceRebuilt h) := fun _ e => nomatch e
theorem journalBurst (h : HoopId) (mv : Nat) : Statement (.journalBurst h mv) := fun _ e => nomatch e
theorem holdupRetry (h : HoopId) (mv : Nat) : Statement (.holdupRetry h mv) := fun _ e => nomatch e
theorem historySecond (h : HoopId) (deferred : Bool) (writeFail : Bool) : Statement (.historySecond h deferred writeFail) := fun _ e => nomatch e
theorem windowBoundary (h : HoopId) : Statement (.windowBoundary h) := fun _ e => nomatch e
theorem counterOverflow (h : HoopId) (c : Nat) (inc : Nat) : Statement (.counterOverflow h c inc) := fun _ e => nomatch e
theorem healthScore : Statement .healthScore := fun _ e => nomatch e
theorem patchCompare : Statement .patchCompare := fun _ e => nomatch e
theorem intakeTimeout (h : HoopId) : Statement (.intakeTimeout h) := fun _ e => nomatch e
theorem handoverBoundary : Statement .handoverBoundary := fun _ e => nomatch e
theorem handoverAbandon (cause : Nat) : Statement (.handoverAbandon cause) := fun _ e => nomatch e
theorem provingEnd (h : HoopId) : Statement (.provingEnd h) := fun _ e => nomatch e
theorem interlockDisagreement : Statement .interlockDisagreement := fun _ e => nomatch e
theorem gracePeriodEnd : Statement .gracePeriodEnd := fun _ e => nomatch e
theorem tokenTimeout (h : HoopId) : Statement (.tokenTimeout h) := fun _ e => nomatch e
theorem resyncComplete (h : HoopId) (ms : Nat) : Statement (.resyncComplete h ms) := fun _ e => nomatch e
theorem helloSend (h : HoopId) : Statement (.helloSend h) := fun _ e => nomatch e
theorem hello (h : HoopId) (link : Nat) (frame : Bytes) : Statement (.hello h link frame) := fun _ e => nomatch e
theorem helloTimeout (h : HoopId) (link : Nat) : Statement (.helloTimeout h link) := fun _ e => nomatch e
theorem laneLockLoss (h : HoopId) (link : Nat) (lane : Nat) : Statement (.laneLockLoss h link lane) := fun _ e => nomatch e
theorem route (h : HoopId) (link : Nat) (frame : Bytes) : Statement (.route h link frame) := fun _ e => nomatch e
theorem routeAdvertise (h : HoopId) : Statement (.routeAdvertise h) := fun _ e => nomatch e
theorem triggeredUpdate (h : HoopId) (link : Nat) : Statement (.triggeredUpdate h link) := fun _ e => nomatch e
theorem routeExpiry (h : HoopId) (addr : Nat) : Statement (.routeExpiry h addr) := fun _ e => nomatch e
theorem addrReqSend (h : HoopId) : Statement (.addrReqSend h) := fun _ e => nomatch e
theorem addrReq (h : HoopId) (link : Nat) (frame : Bytes) : Statement (.addrReq h link frame) := fun _ e => nomatch e
theorem addrGrant (h : HoopId) (link : Nat) (frame : Bytes) : Statement (.addrGrant h link frame) := fun _ e => nomatch e
theorem propose (h : HoopId) (link : Nat) (frame : Bytes) : Statement (.propose h link frame) := fun _ e => nomatch e
theorem ready (h : HoopId) (link : Nat) (frame : Bytes) : Statement (.ready h link frame) := fun _ e => nomatch e
theorem go (h : HoopId) (link : Nat) (frame : Bytes) : Statement (.go h link frame) := fun _ e => nomatch e
theorem abort (h : HoopId) (link : Nat) (frame : Bytes) : Statement (.abort h link frame) := fun _ e => nomatch e
theorem done (h : HoopId) (link : Nat) (frame : Bytes) : Statement (.done h link frame) := fun _ e => nomatch e
theorem readyDeadline (h : HoopId) (s : Nat) : Statement (.readyDeadline h s) := fun _ e => nomatch e
theorem goSendDeadline (h : HoopId) (s : Nat) : Statement (.goSendDeadline h s) := fun _ e => nomatch e
theorem goDeadline (h : HoopId) (k : Nat) : Statement (.goDeadline h k) := fun _ e => nomatch e
theorem fabricOutcomeTimeout (h : HoopId) (s : Nat) : Statement (.fabricOutcomeTimeout h s) := fun _ e => nomatch e
theorem darkNoticeRepeat (h : HoopId) : Statement (.darkNoticeRepeat h) := fun _ e => nomatch e
theorem darkNotice (h : HoopId) (link : Nat) (frame : Bytes) : Statement (.darkNotice h link frame) := fun _ e => nomatch e
theorem timeCheckSend (h : HoopId) : Statement (.timeCheckSend h) := fun _ e => nomatch e
theorem timeCheck (h : HoopId) (link : Nat) (frame : Bytes) (fine : BitVec 4) : Statement (.timeCheck h link frame fine) := fun _ e => nomatch e
theorem telemetrySend (h : HoopId) : Statement (.telemetrySend h) := fun _ e => nomatch e
theorem telemetry (h : HoopId) (link : Nat) (frame : Bytes) : Statement (.telemetry h link frame) := fun _ e => nomatch e
theorem handoverNotice (h : HoopId) (link : Nat) (frame : Bytes) : Statement (.handoverNotice h link frame) := fun _ e => nomatch e
theorem imageAuthenticated (h : HoopId) (fail0 : Nat) (fail1 : Nat) (img : Image) : Statement (.imageAuthenticated h fail0 fail1 img) := fun _ e => nomatch e
theorem lpddr4xTrained (h : HoopId) (gib : Nat) (ok : Bool) : Statement (.lpddr4xTrained h gib ok) := fun _ e => nomatch e
theorem monitorSelfTestDone (h : HoopId) (lost : List Nat) : Statement (.monitorSelfTestDone h lost) := fun _ e => nomatch e
theorem firstWriteDone (h : HoopId) : Statement (.firstWriteDone h) := fun _ e => nomatch e
theorem ring0Open (h : HoopId) (tempTimeout : Bool) (timeTimeout : Bool) : Statement (.ring0Open h tempTimeout timeTimeout) := fun _ e => nomatch e
theorem historyStoreReady (h : HoopId) (present : Bool) (hdrOk : Bool) (capacity : Nat) : Statement (.historyStoreReady h present hdrOk capacity) := fun _ e => nomatch e
theorem tokenRefill (h : HoopId) (r : Nat) : Statement (.tokenRefill h r) := fun _ e w => by cases e; exact of_decide_eq_true w
theorem tecTripRelease (z : Nat) : Statement (.tecTripRelease z) := fun _ e => nomatch e
theorem intakeDigest (h : HoopId) : Statement (.intakeDigest h) := fun _ e => nomatch e
theorem masterSelection (h : HoopId) (dom : Nat) (selected : Bool) : Statement (.masterSelection h dom selected) := fun _ e => nomatch e
theorem delayRequestResponse (h : HoopId) (dom : Nat) (answer : DelayAnswer) : Statement (.delayRequestResponse h dom answer) := fun _ e => nomatch e
theorem pcieLinkUp (h : HoopId) (rate : Nat) (width : Nat) : Statement (.pcieLinkUp h rate width) := fun _ e => nomatch e
theorem powerManagementState (h : HoopId) (d3 : Bool) : Statement (.powerManagementState h d3) := fun _ e => nomatch e
theorem neighbourLagUpdate (h : HoopId) : Statement (.neighbourLagUpdate h) := fun _ e => nomatch e
theorem htrSumUpdate (h : HoopId) : Statement (.htrSumUpdate h) := fun _ e => nomatch e
theorem phaseAccumulatorTick (h : HoopId) : Statement (.phaseAccumulatorTick h) := fun _ e => nomatch e
theorem pwmDutyEdge (h : HoopId) (z : Nat) : Statement (.pwmDutyEdge h z) := fun _ e => nomatch e

end Sys2Proof.Laws.Wf
end

