-- ==== Sys2Proof/Laws/Stores.lean ====
section
/-!
SUPPORT. The writes to the MRAM outside the journal (R60, R295): every one keeps the canonical form of the byte memory, and a write is carried out at
once or waits.
-/

namespace Sys2Proof.Machine

/-- A fold of an operation that keeps a property of its state keeps it. -/
theorem foldl_holds {α β : Type} {P : β → Prop} {f : β → α → β} (hf : ∀ b a, P b → P (f b a)) (l : List α) (b : β) (h : P b) : P (l.foldl f b) := by
  induction l generalizing b with
  | nil => exact h
  | cons a l ih => exact ih _ (hf b a h)

theorem writeHbias_wf (m : List Host.Cell) (e : Nat) (band : Bool) (k code : Nat) (refined : Bool) (h : Memory.wf m = true) :
    Memory.wf (writeHbias m e band k code refined) = true := memWrite_wf _ _ _ h

theorem restoreRecords_wf (x : Hoop) (m : List Host.Cell) (h : Memory.wf m = true) : Memory.wf (restoreRecords x m) = true := by
  refine foldl_holds (P := fun m => Memory.wf m = true) (fun m q hm => ?_) _ m h
  dsimp only
  split
  · exact hm
  · exact writeHbias_wf _ _ _ _ _ _ hm

theorem applyMWrite_wf (x : Hoop) (w : MWrite) (h : Memory.wf x.mram = true) : Memory.wf (applyMWrite x w).mram = true := by
  cases w with
  | hbias e b k c => exact writeHbias_wf _ _ _ _ _ _ h
  | restore => exact restoreRecords_wf _ _ h
  | cal r => exact h
  | keeper m sp => exact h
  | address a => exact h

/-- Where the latest hold-up check passed and the gate is open, a write is carried out at once. -/
theorem mramWrite_free {x : Hoop} (w : MWrite) (h : x.mramFree = true) : mramWrite w x = applyMWrite x w := by simp [mramWrite, h]

/-- Else it waits, behind those that wait already. -/
theorem mramWrite_blocked {x : Hoop} (w : MWrite) (h : x.mramFree = false) : mramWrite w x = { x with mwrites := x.mwrites ++ [w] } := by
  simp [mramWrite, h]

theorem mramWrite_wf (x : Hoop) (w : MWrite) (h : Memory.wf x.mram = true) : Memory.wf (mramWrite w x).mram = true := by
  cases hf : x.mramFree
  · rw [mramWrite_blocked w hf]; exact h
  · rw [mramWrite_free w hf]; exact applyMWrite_wf x w h

theorem flushMram_wf (x : Hoop) (h : Memory.wf x.mram = true) : Memory.wf (flushMram x).mram = true := by
  unfold flushMram
  split
  · exact foldl_holds (P := fun y : Hoop => Memory.wf y.mram = true) (fun y w hy => applyMWrite_wf y w hy) _ _ h
  · exact h

/-- A write to the MRAM touches the byte memory, the calibration store, the keeper image and the last address alone. -/
theorem applyMWrite_frame (x : Hoop) (w : MWrite) :
    { applyMWrite x w with mram := x.mram, calStore := x.calStore, keeperImg := x.keeperImg, wlm := x.wlm } = x := by cases w <;> rfl

end Sys2Proof.Machine
end

