-- ==== Sys2Proof/Tests/Slice0.lean ====
section
/-!
SUPPORT. Tests: an ill-formed command for each check of `WellFormed`; small checks of single rows, with results taken from the manual; and for every statement
with hypotheses a named witness for each clause, a concrete state and operands that meet them all.
-/

namespace Sys2Proof.Tests

/- Proofs by evaluation are checked one after another: many at once would each hold a stack. -/
set_option Elab.async false

open Sys2Proof Sys2Proof.Machine

/-! ## Ill-formed commands: each check refuses one -/

/-- Commands that name something no member has, part 1. -/
def ill0 : List Instr :=
  [.nop .hoopA 16, .create .hoopA 16, .modify .hoopA 16, .reopen .hoopA 16, .release .hoopA 16, .dark .hoopA 16, .darkNow .hoopA 16, .cancel .hoopA 16,
   .threadRead .hoopA 16, .ledgerRead .hoopA 16, .outcomeRead .hoopA 16, .batch .hoopA 16, .prkSlotLoad .hoopA 16, .prkSlotMask .hoopA 16, .prkSlotClear .hoopA 16,
   .prkListWrite .hoopA 16, .prkStart .hoopA 16, .prkSwap .hoopA 16, .prkSwapDisarm .hoopA 16, .prkStop .hoopA 16, .ringBind .hoopA 16, .ringUnbind .hoopA 16,
   .meterSet .hoopA 16, .keySet .hoopA 16]
theorem test_ill_formed_0 : ill0.all (fun i => !WellFormed i) = true := by decide

/-- Commands that name something no member has, part 2. -/
def ill1 : List Instr :=
  [.eventSub .hoopA 16, .netCfg .hoopA 16, .ptpCfg .hoopA 16, .domainSwitch .hoopA 16, .verifyCfg .hoopA 16, .adcProfile .hoopA 16, .refSel .hoopA 16,
   .calCfg .hoopA 16, .loopSet .hoopA 16, .loopAssign .hoopA 16, .tecDrive .hoopA 16, .tecCoef .hoopA 16, .setpoint .hoopA 16, .tecEnable .hoopA 16,
   .tripClear .hoopA 16, .thresholds .hoopA 16, .thmModel .hoopA 16, .holdupMin .hoopA 16, .samplerRestore .hoopA 16, .darkRelease .hoopA 16, .handover .hoopA 16,
   .rejoin .hoopA 16, .regRead .hoopA 16, .samplerRead .hoopA 16]
theorem test_ill_formed_1 : ill1.all (fun i => !WellFormed i) = true := by decide

/-- Commands that name something no member has, part 3. -/
def ill2 : List Instr :=
  [.journalRead .hoopA 16, .resultRead .hoopA 16, .deltaRead .hoopA 16, .patchRead .hoopA 16, .elementRead .hoopA 16, .commitList .hoopA 16, .historyRead .hoopA 16,
   .fabricCommit .hoopA 16, .wlmCfg .hoopA 16, .doorbell .hoopA 16 0 [], .mbxCplHead .hoopA 16 0, .mbxEvtHead .hoopA 16 0, .dmaError .hoopA 16,
   .msixModerationTimeout .hoopA 16 false, .remoteDatagram .hoopA 2 0 0 [], .fcStickyClear .hoopA 7 0, .fcWireClear .hoopA 7 0, .pmcOvfClear .hoopA 8 0,
   .pmcPreHiWrite .hoopA 256 0, .pmcCntLoRead .hoopA 256, .registerWrite .hoopA 1048576 0 0, .powerOnReset .hoopA 9 0, .railExcursion .hoopA 9 0,
   .railReturn .hoopA 9 0]
theorem test_ill_formed_2 : ill2.all (fun i => !WellFormed i) = true := by decide

/-- Commands that name something no member has, part 4. -/
def ill3 : List Instr :=
  [.defaultTargetAccess .hoopA 9 false 0 0, .defaultTargetAccess .hoopA 0 false 0 1099511627776, .watchdogExpiry .hoopA 4 none, .coreResume .hoopA 4,
   .debugHalt .hoopA 4, .tecTrip 2, .faultAssert .hoopA 224 0, .faultClear .hoopA 224, .wireFault .hoopA 224, .epochStrobe .hoopA 16, .zeroCodeEpoch .hoopA 0 16,
   .settlingEnd .hoopA 0 16, .verifyDeadline .hoopA 512, .syncReceived .hoopA 2 0 0 ⟨0, 0⟩ 0, .syncTimeout .hoopA 2, .freerunTimeout .hoopA 2, .tileUpdate .hoopA 152,
   .injReload .hoopA 42, .disarm .hoopA 16, .waitTimeout .hoopA 32 0 0, .waitTimeout .hoopA 0 42 0, .refreshSlot .hoopA 160 [], .ditherWindow .hoopA 152,
   .needleSlewStep .hoopA 152]
theorem test_ill_formed_3 : ill3.all (fun i => !WellFormed i) = true := by decide

/-- Commands that name something no member has, part 5. -/
def ill4 : List Instr :=
  [.windowEnd .hoopA 152 [], .deglitchRelease .hoopA 4864 false, .heaterSlewStep .hoopA 152, .rangeHoldEnd .hoopA 4864, .heaterComplianceFail .hoopA 4864,
   .conversionEnd .hoopA 5376 { code := 0, ovr := false, und := false, inj := false }, .spareTestEnd .hoopA 5376 false,
   .adcConversionTimeout .hoopA 42, .lockinWindowEnd .hoopA 4864, .loopHoldTimeout .hoopA 4864, .fieldRefinement .hoopA 4864 0,
   .telemetrySweep .hoopA 5376 { code := 0, ovr := false, und := false, inj := false }, .adcSelfCalEnd .hoopA 42 0, .throttleStep .hoopA 4,
   .pwmReload .hoopA 2, .counterOverflow .hoopA 256 0, .hello .hoopA 4 [], .helloTimeout .hoopA 4, .laneLockLoss .hoopA 4 0, .laneLockLoss .hoopA 0 2,
   .route .hoopA 4 [], .triggeredUpdate .hoopA 4, .routeExpiry .hoopA 4096, .addrReq .hoopA 4 []]
theorem test_ill_formed_4 : ill4.all (fun i => !WellFormed i) = true := by decide

/-- Commands that name something no member has, part 6. -/
def ill5 : List Instr :=
  [.addrGrant .hoopA 4 [], .propose .hoopA 4 [], .ready .hoopA 4 [], .go .hoopA 4 [], .abort .hoopA 4 [], .done .hoopA 4 [], .readyDeadline .hoopA 5,
   .goSendDeadline .hoopA 5, .goDeadline .hoopA 16, .darkNotice .hoopA 4 [], .timeCheck .hoopA 4 [] 0, .telemetry .hoopA 4 [], .handoverNotice .hoopA 4 [],
   .tokenRefill .hoopA 16, .tecTripRelease 2, .masterSelection .hoopA 2 false, .delayRequestResponse .hoopA 2 ⟨0, ⟨0, 0⟩, 0⟩, .pwmDutyEdge .hoopA 2]
theorem test_ill_formed_5 : ill5.all (fun i => !WellFormed i) = true := by decide

theorem test_well_formed : [Instr.create .hoopA 15, .tileUpdate .hoopB 151, .faultAssert .hoopA 223 0, .modRst].all WellFormed = true := by decide

/-! ## Figures of the manual -/

/-- A hoop out of reset, of the QN-0512. -/
def hoopG : Hoop := { boot := { por := false, stage := .opened, fwRun := true }, pair := { role := .active, token := true, strap := true } }

/-- R18: lead(18) = 3,577 ns and lead(4,864) = 6,000 ns. -/
theorem test_lead : lead2 18 = 2 * 3577 ∧ lead2 4864 = 2 * 6000 := by decide

/-- The colours of sixteen single commands. -/
def colours : Nat → Ring → List Colour
  | 0, _ => []
  | n + 1, g => (meter g 1).1 :: colours n (meter g 1).2

/-- The example of R365: CBS 4 and EBS 8 give four green, eight yellow, four red. -/
theorem test_meter : colours 16 { tc := 4, te := 8 } = List.replicate 4 .green ++ List.replicate 8 .yellow ++ List.replicate 4 .red := by decide

/-- The example of R187: an injected conversion of channel 5,266 in G1 with code 0x5B3C is the word 0x92415B3C. -/
theorem test_result_word : resultWord { hoopG with mon := { refOk := true, chans := [(5266, { range := 1 })] } } 5266
    { code := 0x5B3C, ovr := false, und := false, inj := true } = 0x92415B3C := by decide +kernel

/-- R268: throttle level 4 of the QN-0512 is 60 % of BASE, 2,430,000 uA. -/
theorem test_heater_ceiling : (writeCeil { hoopG with ths := { latLvl := 4 } }).drv.hCeil = 2430000 := by decide +kernel

/-- R187's example again: channel 5,266 of the QN-0512 is the egress tap of out 402. -/
theorem test_egress_tap : hoopG.egress 402 = 5266 := by decide

/-- The usual check values of the CRC polynomials over "123456789": CRC-32 of R150 and CRC-16 of R55. -/
theorem test_crc : crc32 [0x31, 0x32, 0x33, 0x34, 0x35, 0x36, 0x37, 0x38, 0x39] = 0xCBF43926 ∧
    crc16 [0x31, 0x32, 0x33, 0x34, 0x35, 0x36, 0x37, 0x38, 0x39] = 0x29B1 := by decide +kernel

/-- R64: the wrap count takes one more in the tick in which the count wraps. -/
theorem test_wrap : (({ acc := 0xFFFFFFFF00000000 } : Tb).tick).wrap = 1 ∧ (({ acc := 0xFFFFFFFF00000000 } : Tb).tick).cnt = 1 := by decide

/-- R347: a doorbell at or above the slot count is ignored. -/
theorem test_doorbell : (doorbell 0 64 [] { hoopG with mbx := { rings := [(0, { en := true, bound := true })] } }).mbx.rings = [(0, { en := true, bound := true })] := by
  decide +kernel

/-- No word spells a command. -/
theorem test_no_word : decodeTableWord 32 0 = none ∧ State.reset.withFetchWord 32 0 = State.reset := ⟨rfl, rfl⟩

/-- A step runs the command in front: a snapshot of the timebase. -/
theorem test_step_front : step { State.reset with pending := [.tbSnap .hoopA 1] } = exec (.tbSnap .hoopA 1) { State.reset with pending := [] } := rfl


/-! ## Small states -/

/-- A hoop in service. -/
def hA (p : Part := .qn0128) : Hoop :=
  { part := p, boot := { por := false, stage := .opened, fwRun := true }, pair := { role := .active, token := true, strap := true }, tmb := { st := .idle },
    tb := { acc := 0x4000000000000000, timeValid := true } }

/-- Its peer in a pair. -/
def hB : Hoop := { hA .qn0512d with isB := true, pair := { role := .standby } }

/-- A module of one hoop, and a pair. -/
def sA (x : Hoop) : State := { State.reset with a := x }
def sD (x y : Hoop) : State := { State.reset with a := x, b := y }

/-- A command that stands at the front of its ring. -/
def cmdOf (b : Bytes) : ReadCmd := { bytes := b, slot := 0, colour := .unmetered, refusal := none }
def withCmd (r : Nat) (b : Bytes) (x : Hoop) : Hoop := x.setRing r { x.ring r with read := [cmdOf b] }

/-- Commands of v3: without a body, with TLVs, with a parameter block. -/
def bare (op : Nat) : Bytes := padTo 64 ([3] ++ leBytes 1 op ++ [4, 0])
def tlvOf (t : Nat) (v : Bytes) : Bytes := leBytes 2 t ++ leBytes 2 v.length ++ padTo (pad4 v.length) v
def withTlvs (op : Nat) (l : List (Nat × Bytes)) : Bytes :=
  let body := (l.map (fun q => tlvOf q.1 q.2)).flatten
  let len := (16 + body.length + 15) / 16
  padTo (16 * len) ([3] ++ leBytes 1 op ++ leBytes 2 len ++ List.replicate 12 0 ++ body)
def adm (op : Nat) (p : Bytes) : Bytes := withTlvs op [(16, p)]

/-- A hoop that takes commits. -/
def hR : Hoop := { hA with drv := { nFirstDone := true, hFirstDone := true }, mon := { refOk := true }, ths := { commitOk := true, mramOk := true } }

/-- A thread of that hoop on ingress port 3, in a state. -/
def threadIn (st : ThreadSt) : Thread := { outPort := 5, tenant := 1, st := st, route := routeOf .qn0128 3 5 0, seq := 7 }
def hT (st : ThreadSt) : Hoop := { hR with thr := [(3, threadIn st)] }

/-- A thread descriptor, and the commands that carry one or a port. -/
def descB (i o : Nat) (move : Bool) : Bytes := leBytes 8 (i + o * 2 ^ 16 + 2 ^ 32 + bit move * 2 ^ 46)
def thrCmd (op i o : Nat) (move : Bool) : Bytes := withTlvs op [(1, descB i o move)]
def portCmd (op i : Nat) : Bytes := withTlvs op [(2, leBytes 2 i)]

/-- What the checks of R86 answer for a commit command, and the commit that they accept. -/
def decOf (s : State) (r op : Nat) (c : ReadCmd) : Decision :=
  decideCommit (breakRun r op (s.hoop .hoopA)) { ring := r } (hdrOf c.bytes).hasEpoch (hdrOf c.bytes).exact (hdrOf c.bytes).epochNs [editFor s .hoopA r op c]
def accOf : Decision → Compiled × Nat
  | .accept c e => (c, e)
  | _ => ({ changes := [], delta := [], chans := [], slots := [] }, 0)

def accepted : Decision → Bool
  | .accept _ _ => true
  | _ => false
theorem accOf_eq {d : Decision} (h : accepted d = true) : d = .accept (accOf d).1 (accOf d).2 := by cases d <;> first | rfl | cases h
theorem accepts_acc {s : State} {r op : Nat} {c : ReadCmd} (h : accepted (decOf s r op c) = true) :
    accepts s .hoopA r op c [editFor s .hoopA r op c] (accOf (decOf s r op c)).1 (accOf (decOf s r op c)).2 = true := beq_iff_eq.mpr (accOf_eq h)

/-- The commit that entries compile to, and that it meets the checks where they hold of it. -/
def cmpOf : Option (Option Compiled) → Compiled
  | some (some c) => c
  | _ => { changes := [], delta := [], chans := [], slots := [] }
theorem cmpOf_eq {q : Option (Option Compiled)} (h : q.bind id |>.isSome) : (q == some (some (cmpOf q))) = true := by
  rcases q with _ | _ | c <;> first | exact beq_iff_eq.mpr rfl | cases h
theorem meets_cmp {x : Hoop} {w : Asker} {ens : Nat} {es : List Edit}
    (h : ((compile x ens (projCode x ens) es).bind id).isSome = true ∧ (es.all (fun e => ownsEdit x w (projected x ens) e) && !x.dk.force && x.drv.nFirstDone
      && x.drv.hFirstDone && x.mon.refOk && x.mon.refSrc != 2 && es.all (fun e => busyEdit x ens (projected x ens) es e == none)
      && decide (x.cm.pending.length < 64) && tagOver x (newTags es) == none && x.ths.commitOk && !x.pricking && true
      && !orderClash x ens (cmpOf (compile x ens (projCode x ens) es)).changes && timesOk x ens (cmpOf (compile x ens (projCode x ens) es)).n) = true) :
    meetsChecks x w ens es (cmpOf (compile x ens (projCode x ens) es)) = true := by
  rw [meetsChecks, cmpOf_eq h.1]; exact h.2

/-- A table that holds the same value for every number of a range gives it there. -/
theorem smGet_fill {α : Type} (d v : α) (n : Nat) : ∀ (a k : Nat), a ≤ k → k < a + n → smGet d ((List.range' a n).map (fun e => (e, v))) k = v := by
  induction n with
  | zero => intro a k h g; omega
  | succ n ih =>
    intro a k h g
    simp only [List.range'_succ, List.map_cons, smGet]
    split
    · rfl
    · exact ih (a + 1) k (by omega) (by omega)

/-- A hoop in its first writes whose tiles are written and whose heaters have arrived. -/
def reachedAll : SMap Heater := (List.range' 0 1000).map (fun e => (e, { reached := true }))
def hFw : Hoop := { hA with
  boot := { hA.boot with stage := .lattice }, drv := { tiles := (List.range 60).map (fun t => (t, { written := true })), heaters := reachedAll } }
theorem hFw_heater (e : Nat) : hFw.heater e = smGet {} reachedAll e := rfl
theorem hFw_reached (e : Nat) (h : e < 1000) : (hFw.heater e).reached = true := by
  rw [hFw_heater, reachedAll, smGet_fill (α := Heater) {} { reached := true } 1000 0 e (Nat.zero_le e) (by omega)]

/-- The same command with an epoch, 0.3 ms ahead. -/
def atEpoch (b : Bytes) : Bytes := b.take 6 ++ leBytes 6 1 ++ leBytes 4 74000000 ++ b.drop 16

/-- A mask slot, a list of it in both stores, and the list that runs. -/
def hP : Hoop :=
  { hR with prk := { slots := [(1, { kind := .mask, mask := 3 })], store0 := [(0, { dwell := 10000, index := 1, type := 2, rsv := 0 })]
                     store1 := [(0, { dwell := 20000, index := 1, type := 2, rsv := 0 })] } }
def pl0 : PList := { store := false, len := 1, baseNs := 0, repeats := 0, cycle := 10000, startK := 107376, startAt := 1073760000, short := 10000, firstShort := 0 }
def pl1 : PList := { store := true, len := 1, baseNs := 0, repeats := 0, cycle := 20000, startK := 53690, startAt := 1073800000, short := 20000, firstShort := 0 }
def hL : Hoop := { hP with prk := { hP.prk with active := some pl0 } }

/-! ## A blank sampler: no record is good, and every DARK code is the keeper's -/
theorem memRead_nil (a n : Nat) : memRead [] a n = List.replicate n 0 := by
  induction n generalizing a with
  | zero => rfl
  | succ n ih => rw [memRead, ih]; rfl
theorem recGood_nil (e : Nat) (b : Bool) : recGood [] e b = fun _ => false := by
  funext k; simp only [recGood, recBytes, memRead_nil]; decide +kernel
theorem find_false (l : List Nat) : l.find? (fun _ => false) = none := by
  induction l with
  | nil => rfl
  | cons a l ih => rw [List.find?_cons]; exact ih
theorem entry_blank {x : Hoop} (h : x.slice.src = []) (e : Nat) (b : Bool) : x.entry e b = { code1 := (smGet 0 x.dk.codes (e - x.nS)).toNat } := by
  have : recPair [] e b x.slice.temp = none := by simp [recPair, recGood_nil, bandBad, nearest, bracket, find_false]
  rw [Hoop.entry, h, this]
theorem allDark_blank {x : Hoop} (h : x.slice.src = []) (g : x.dk.codes = []) (n : x.drv.needles = []) : allDarkCodes x = true := by
  simp only [allDarkCodes, List.all_eq_true, Hoop.darkCode, wantEyelet, Hoop.ncode, entry_blank h, g]
  simp [Hoop.needle, n, smGet]

/-- A hoop on the fabric: link 0 up toward the leader 3, link 1 up toward a neighbour. -/
def hW : Hoop :=
  { hA with wlm := { id := 5, addr := 9, leader := 3, leaderDist := 1, table := [(9, { dist := 0, id := 5, valid := true }), (20, { dist := 1, port := 0, id := 3, valid := true })]
                     links := [(0, { up := true, leaderId := 3, leaderDist := 0 }), (1, { up := true, leaderId := 3, leaderDist := 1 })] } }

/-- A frame of a type from the address 20. -/
def frm (dst ttl type : Nat) (p : Bytes) : Bytes := frameBytes dst (if ttl = 0 then 0 else 20) ttl type 0x300 7 p

/-- A PROPOSE of one entry: its two halves, and the frame with its CRC. -/
def propLo : Bytes := [9, 64, 1, 78, 0, 3, 7, 0, 0, 0, 0, 0] ++ (proposePayload 6 1074000000 1 [20, 9] [[1, 0, 1, 0] ++ descB 3 5 false]).take 28
def propHi : Bytes := (proposePayload 6 1074000000 1 [20, 9] [[1, 0, 1, 0] ++ descB 3 5 false]).drop 28
def propF : Bytes := propLo ++ propHi ++ leBytes 4 684880571
theorem propLo_crc : propLo.foldl crc32Byte 0xFFFFFFFF = 1283404931 := by decide +kernel
theorem propHi_crc : propHi.foldl crc32Byte 1283404931 = 3610086724 := by decide +kernel
theorem propF_crc : crc32 (propF.take (propF.length - 4)) = 684880571 := by
  rw [show propF.take (propF.length - 4) = propLo ++ propHi by decide +kernel, crc32, List.foldl_append, propLo_crc, propHi_crc]; decide
theorem propF_form : badForm propF = none := by
  rw [badForm, propF_crc, if_neg (by decide +kernel), if_neg (by decide +kernel), if_neg (by decide +kernel)]
theorem propF_delivered {x : Hoop} {m : SMap Win} (h : (hears x 0 && (frDst propF == x.wlm.addr.toNat && x.wlm.addr.toNat != 0
    && (x.pair.role == .active || x.pair.role == .standby) && passWin x.wlm.windows propF == some m && x.wlm.addr.toNat != bcast)) = true) :
    delivered x 0 propF 4 m = true := by
  have t : (frType propF == 4) = true := by decide +kernel
  simp only [Bool.and_eq_true] at h
  simp [delivered, arrives, heard, propF_form, t, h]

/-- The state that a command answers, and the one that a step does. -/
def nextOf : Host.Outcome State Fault Refusal → State
  | .next t => t
  | _ => State.reset

/-- What a refused commit answers. -/
def refOf : Decision → Nat × Nat
  | .refuse a b => (a, b)
  | _ => (0, 0)
def refused : Decision → Bool
  | .refuse _ _ => true
  | _ => false
theorem refOf_eq {d : Decision} (h : refused d = true) : d = .refuse (refOf d).1 (refOf d).2 := by cases d <;> first | rfl | cases h

/-- A hoop with one record to journal. -/
def jr1 : JRec := { type := 1, sev := 4, flags := 0, stamp := 0x400000000, sec := 0, ns := 0, source := 3, payload := [1, 2] }
def hJ : Hoop := { hA with jnl := { buf := [jr1] }, ths := { mramOk := true } }


/-! ## Witnesses -/

theorem wit_StepRunsTheFrontCommand_0 : ∃ (s : State) (i : Instr) (rest : List Instr), s.pending = i :: rest :=
  ⟨{ State.reset with pending := [.modRst] }, Instr.modRst, [], by decide +kernel⟩

theorem wit_StepRunsTheFrontCommand_1 : ∃ (s : State), s.pending = [] := ⟨State.reset, rfl⟩

theorem wit_StepRunsTheFrontCommand_2 : ∃ (s : State) (h : HoopId) (x : Hoop), s.here h x ∧ s.pending = [] ∧ x.boot.por = false ∧
    (∀ k, (s.hoop k).tmb.busy = false) ∧ (∀ k, (s.hoop k).wlm.fabs.all (fun q => !(q.2.init && q.2.st == 2)) = true) :=
  ⟨(sA hA), HoopId.hoopA, _, ⟨rfl, rfl⟩, by decide +kernel, by decide +kernel, fun k => by cases k <;> decide +kernel, fun k => by cases k <;> decide +kernel⟩

theorem wit_TimebaseTick_0 : ∃ (b : Tb) (n : _), n = b.acc.toNat + b.inc.toNat :=
  ⟨(hA.tb), (hA.tb.acc.toNat + hA.tb.inc.toNat), by decide +kernel⟩

theorem wit_TimebaseTick_1 : ∃ (s : State) (h : HoopId) (rail : _) (mv : _), s.has h = true ∧ rail < 9 ∧ railLow rail mv = true ∧ (s.hoop h).boot.por = false :=
  ⟨(sA hA), HoopId.hoopA, 0, 0, by decide +kernel⟩

theorem wit_RowsCompleteAndKeepTheQueue_0 : ∃ (i : _) (s : State) (t : _), exec i s = .next t :=
  ⟨Instr.modRst, (sA hA), (nextOf (exec .modRst (sA hA))), rfl⟩

theorem wit_RowsCompleteAndKeepTheQueue_1 : ∃ (i : _) (s : State) (t : _) (h : HoopId), ownHoop i = some h ∧ exec i s = .next t :=
  ⟨(Instr.pwmReload .hoopA 1), (sA hA), (nextOf (exec (.pwmReload .hoopA 1) (sA hA))), HoopId.hoopA, rfl, rfl⟩

theorem wit_RowsLeaveTheRest_0 : ∃ (b : Block) (i : Instr) (s : State) (t : _), Block.writtenBy b i = false ∧ exec i s = .next t :=
  ⟨Block.settings, (Instr.pwmReload .hoopA 1), (sA hA), (nextOf (exec (.pwmReload .hoopA 1) (sA hA))), rfl, rfl⟩

theorem wit_MemoryFrame_0 : ∃ (i : _) (s : State) (t : _), exec i s = .next t ∧ writesMram i = false :=
  ⟨Instr.modRst, (sA hA), (nextOf (exec .modRst (sA hA))), rfl, by decide +kernel⟩

theorem wit_MemoryFrame_1 : ∃ (s : State) (h : HoopId) (t : _) (mv : _), (exec (.journalBurst h mv) s = .next t ∨ exec (.holdupRetry h mv) s = .next t) :=
  ⟨(sA hA), HoopId.hoopA, (nextOf (exec (.journalBurst .hoopA 9000) (sA hA))), 9000, Or.inl rfl⟩

theorem wit_MemoryFrame_2 : ∃ (s : State) (h : HoopId) (t : _) (e : _) (mean : _), exec (.fieldRefinement h e mean) s = .next t :=
  ⟨(sA hA), HoopId.hoopA, (nextOf (exec (.fieldRefinement .hoopA 3 5) (sA hA))), 3, 5, rfl⟩

theorem wit_MemoryFrame_3 : ∃ (s : State) (h : HoopId) (t : _) (r : _), exec (.samplerRestore h r) s = .next t :=
  ⟨(sA hA), HoopId.hoopA, (nextOf (exec (.samplerRestore .hoopA 0) (sA hA))), 0, rfl⟩

theorem wit_MemoryFrame_4 : ∃ (s : State) (h : HoopId) (x : Hoop) (mv : _) (j : _), s.here h x ∧ x.jnl.buf = [j] ∧ x.jnl.loss = none ∧ burstDue x = true ∧ x.jnl.deferred = false ∧ x.jnl.holdupMin.toNat ≤ mv ∧ x.ths.mramOk = true ∧ x.mwrites = [] ∧ (x.src 9).live = false :=
  ⟨(sA hJ), HoopId.hoopA, _, 20000, jr1, ⟨rfl, rfl⟩, by decide +kernel⟩

theorem wit_MemoryFrame_5 : ∃ (s : State) (h : HoopId) (t : _) (gib : _) (ok : _), exec (.lpddr4xTrained h gib ok) s = .next t ∧ (∀ q ∈ (s.hoop h).settings, q.1 ≠ 0x50) :=
  ⟨(sA hA), HoopId.hoopA, (nextOf (exec (.lpddr4xTrained .hoopA 4 true) (sA hA))), 4, true, rfl, by decide +kernel⟩

theorem wit_MemoryStaysCanonical_0 : ∃ (s : State) (t : _), step s = .next t ∧ s.memWf = true :=
  ⟨(sA hA), (nextOf (step (sA hA))), rfl, by decide +kernel⟩

theorem wit_PinsFollowTheHoops_0 : ∃ (s : State) (t : _), step s = .next t ∧ s.pinsWf = true :=
  ⟨State.reset, (nextOf (step State.reset)), rfl, by decide +kernel⟩

theorem wit_RoutesReachTheirPort_0 : ∃ (p : Part) (i : Nat) (o : Nat), i < Config.ports p ∧ o < Config.ports p :=
  ⟨Part.qn0512, 300, 5, by decide +kernel⟩

theorem wit_RoutesReachTheirPort_1 : ∃ (p : Part) (i : Nat) (o : Nat) (c : Nat) (k : Nat) (q : Hop), i < Config.ports p ∧ o < Config.ports p ∧ (hopsOf p i (routeOf p i o c))[k]? = some q :=
  ⟨Part.qn0512, 300, 5, 77, 4, ((hopsOf Part.qn0512 300 (routeOf Part.qn0512 300 5 77)).getD 4 { stitch := 0, cross := false, lower := false }), by decide +kernel⟩

theorem wit_RoutesReachTheirPort_2 : ∃ (p : Part) (i : Nat) (o : Nat) (c : Nat) (k : Nat) (w : Nat), i < Config.ports p ∧ o < Config.ports p ∧ k + 1 < Config.lgPorts p ∧ (routeOf p i o c)[k]? = some w :=
  ⟨Part.qn0512, 300, 5, 77, 6, (((routeOf Part.qn0512 300 5 77)[6]?).getD 0), by decide +kernel⟩

theorem wit_RoutesReachTheirPort_3 : ∃ (p : Part) (k : Nat) (v : Nat) (w : Nat), k + 1 < Config.stages p ∧ v < Config.ports p ∧ w < Config.ports p :=
  ⟨Part.qn0512, 7, 511, 1, by decide +kernel⟩

theorem wit_TilePlan_0 : ∃ (p : Part) (e : _) (f : _) (t : _), e ∈ tileElems t ∧ f ∈ tileElems t ∧ e < Config.elems p ∧ f < Config.elems p :=
  ⟨Part.qn0128, 97, 99, 3, by decide +kernel⟩

theorem wit_CompletionEntries_0 : ∃ (s : State) (h : HoopId) (r : _) (c : _), passes s h r 0 c nopVerb = true ∧ c.remote = none ∧ ((s.hoop h).ring r).read = [c] ∧ ((s.hoop h).ring r).posted = [] :=
  ⟨(sA (withCmd 0 (bare 0) hA)), HoopId.hoopA, 0, (cmdOf (bare 0)), by decide +kernel⟩

theorem wit_CompletionEntries_1 : ∃ (s : State) (h : HoopId) (r : _) (c : _) (st : _) (k : _), decideCommit (breakRun r 1 (s.hoop h)) { ring := r } (hdrOf c.bytes).hasEpoch (hdrOf c.bytes).exact (hdrOf c.bytes).epochNs [editFor s h r 1 c] = .refuse st k ∧ s.quiet = true ∧ passes s h r 1 c commitVerb = true ∧ c.remote = none ∧ ((s.hoop h).ring r).read = [c] ∧ ((s.hoop h).ring r).posted = [] :=
  ⟨(sA (withCmd 0 (thrCmd 1 3 5 false) hA)), HoopId.hoopA, 0, (cmdOf (thrCmd 1 3 5 false)), ((refOf (decideCommit (breakRun 0 1 (withCmd 0 (thrCmd 1 3 5 false) hA)) { ring := 0 } (hdrOf (thrCmd 1 3 5 false)).hasEpoch (hdrOf (thrCmd 1 3 5 false)).exact (hdrOf (thrCmd 1 3 5 false)).epochNs [editFor (sA (withCmd 0 (thrCmd 1 3 5 false) hA)) .hoopA 0 1 (cmdOf (thrCmd 1 3 5 false))])).1), ((refOf (decideCommit (breakRun 0 1 (withCmd 0 (thrCmd 1 3 5 false) hA)) { ring := 0 } (hdrOf (thrCmd 1 3 5 false)).hasEpoch (hdrOf (thrCmd 1 3 5 false)).exact (hdrOf (thrCmd 1 3 5 false)).epochNs [editFor (sA (withCmd 0 (thrCmd 1 3 5 false) hA)) .hoopA 0 1 (cmdOf (thrCmd 1 3 5 false))])).2), refOf_eq (by decide +kernel), by decide +kernel⟩

theorem wit_TimebaseRegisterRows_0 : ∃ (s : State) (h : HoopId) (x : Hoop), s.here h x :=
  ⟨(sA hA), HoopId.hoopA, _, ⟨rfl, rfl⟩⟩

theorem wit_TimebaseRegisterRows_1 : ∃ (s : State) (h : HoopId) (x : Hoop), s.here h x :=
  ⟨(sA hA), HoopId.hoopA, _, ⟨rfl, rfl⟩⟩

theorem wit_TimebaseRegisterRows_2 : ∃ (s : State) (h : HoopId) (x : Hoop) (v : BitVec 32), s.here h x ∧ v.getLsbD 0 = false :=
  ⟨(sA hA), HoopId.hoopA, _, 0x6400, ⟨rfl, rfl⟩, by decide +kernel⟩

theorem wit_TimebaseRegisterRows_3 : ∃ (s : State) (h : HoopId) (x : Hoop) (v : BitVec 32), s.here h x ∧ v.getLsbD 0 = true :=
  ⟨(sA hA), HoopId.hoopA, _, 0x6401, ⟨rfl, rfl⟩, by decide +kernel⟩

theorem wit_TimebaseRegisterRows_4 : ∃ (s : State) (h : HoopId) (x : Hoop), s.here h x :=
  ⟨(sA hA), HoopId.hoopA, _, ⟨rfl, rfl⟩⟩

theorem wit_TimebaseEventRows_0 : ∃ (s : State) (h : HoopId) (x : Hoop), s.here h x ∧ cmpDue x 7 = true ∧ x.tb.ppsEn = true ∧ ((x.tb.ppsGate = false ∨ x.tb.timeValid = true)) :=
  ⟨(sA { hA with tb := { hA.tb with ppsEn := true, ppsGate := true, timeValid := true, cmps := [(7, { t16 := 0x400000000, armed := true })] } }), HoopId.hoopA, _, ⟨rfl, rfl⟩, by decide +kernel⟩

theorem wit_TimebaseEventRows_1 : ∃ (s : State) (h : HoopId) (x : Hoop), s.here h x ∧ cmpDue x 7 = true ∧ x.tb.ppsGate = true ∧ x.tb.timeValid = false :=
  ⟨(sA { hA with tb := { hA.tb with ppsEn := true, ppsGate := true, timeValid := false, cmps := [(7, { t16 := 0x400000000, armed := true })] } }), HoopId.hoopA, _, ⟨rfl, rfl⟩, by decide +kernel⟩

theorem wit_TimebaseEventRows_2 : ∃ (s : State) (h : HoopId) (x : Hoop), s.here h x ∧ x.tb.reached (x.tb.ppsEnd * 16) = true :=
  ⟨(sA hA), HoopId.hoopA, _, ⟨rfl, rfl⟩, by decide +kernel⟩

theorem wit_TimebaseEventRows_3 : ∃ (s : State) (h : HoopId) (x : Hoop), s.here h x :=
  ⟨(sA { hA with tb := { hA.tb with heldEvents := [(4, 0x40000000 + 100), (5, 0x40000000 + 3000000000)] } }), HoopId.hoopA, _, ⟨rfl, rfl⟩⟩

theorem wit_TimebaseEventRows_4 : ∃ (s : State) (h : HoopId) (x : Hoop) (k : _) (ns : _), s.here h x ∧ x.tb.heldEvents = [(k, ns)] ∧ x.now + 100 ≤ x.tb.cntOf ns ∧ x.tb.cntOf ns ≤ x.now + 2000000000 :=
  ⟨(sA { hA with tb := { hA.tb with heldEvents := [(4, 0x40000000 + 100)] } }), HoopId.hoopA, _, 4, (0x40000000 + 100), ⟨rfl, rfl⟩, by decide +kernel⟩

theorem wit_TimebaseEventRows_5 : ∃ (s : State) (h : HoopId) (x : Hoop), s.here h x ∧ x.tb.anchorSec < x.tb.ptpOf x.now / 1000000000 :=
  ⟨(sA hA), HoopId.hoopA, _, ⟨rfl, rfl⟩, by decide +kernel⟩

theorem wit_TimebaseEventRows_6 : ∃ (s : State) (h : HoopId) (x : Hoop), s.here h x ∧ x.tb.acc + x.tb.inc.setWidth 64 < x.tb.acc :=
  ⟨(sA { hA with tb := { hA.tb with acc := 0xFFFFFFFF00000000 } }), HoopId.hoopA, _, ⟨rfl, rfl⟩, by decide +kernel⟩

theorem wit_ServoRows_0 : ∃ (s : State) (h : HoopId) (x : Hoop) (d : _) (corr : Int) (filt : Int) (o : PtpTime), s.here h x ∧ (x.dom d).configured = true ∧ (x.dom d).st = .acquiring ∧ 31 ≤ (x.dom d).good ∧ (syncOffset d corr filt o.sec o.ns x).natAbs ≤ 80 :=
  ⟨(sA { hA with tb := { hA.tb with pri := { configured := true, st := .acquiring, good := 31 }, sec := {} } }), HoopId.hoopA, _, 0, 0, -80, ⟨1, 73741824⟩, ⟨rfl, rfl⟩, by decide +kernel⟩

theorem wit_ServoRows_1 : ∃ (s : State) (h : HoopId) (x : Hoop) (d : _) (corr : Int) (filt : Int) (o : PtpTime), s.here h x ∧ (x.dom d).configured = true ∧ (x.dom d).st = .locked ∧ 3 ≤ (x.dom d).bad ∧ 1600 < (syncOffset d corr filt o.sec o.ns x).natAbs :=
  ⟨(sA { hA with tb := { hA.tb with pri := { configured := true, st := .locked, bad := 3 }, sec := {} } }), HoopId.hoopA, _, 0, 0, 1601, ⟨1, 73741824⟩, ⟨rfl, rfl⟩, by decide +kernel⟩

theorem wit_ServoRows_2 : ∃ (s : State) (h : HoopId) (x : Hoop) (corr : Int) (filt : Int) (o : PtpTime), s.here h x ∧ x.tb.pri.configured = true ∧ x.tb.pri.st ≠ .freerun ∧ steers x = true ∧ x.tb.stepClosed = false ∧ syncOffset 0 corr filt o.sec o.ns x ≠ 0 :=
  ⟨(sA { hA with tb := { hA.tb with pri := { configured := true, st := .acquiring }, sec := {} } }), HoopId.hoopA, _, 0, 160, ⟨1, 73741824⟩, ⟨rfl, rfl⟩, by decide +kernel⟩

theorem wit_ServoRows_3 : ∃ (s : State) (h : HoopId) (x : Hoop) (d : _), s.here h x ∧ ((x.dom d).st = .acquiring ∨ (x.dom d).st = .locked) ∧ (d ≠ 0 ∨ x.tb.sec.st ≠ .locked) :=
  ⟨(sA { hA with tb := { hA.tb with pri := { configured := true, st := .locked }, sec := {} } }), HoopId.hoopA, _, 0, ⟨rfl, rfl⟩, by decide +kernel⟩

theorem wit_ServoRows_4 : ∃ (s : State) (h : HoopId) (x : Hoop), s.here h x ∧ (x.tb.pri.st = .acquiring ∨ x.tb.pri.st = .locked) ∧ x.tb.sec.st = .locked ∧ steers x = true :=
  ⟨(sA { hA with tb := { hA.tb with pri := { configured := true, st := .locked }, sec := { configured := true, st := .locked } } }), HoopId.hoopA, _, ⟨rfl, rfl⟩, by decide +kernel⟩

theorem wit_ServoRows_5 : ∃ (s : State) (h : HoopId) (x : Hoop), s.here h x ∧ x.tb.pri.st = .holdover :=
  ⟨(sA { hA with tb := { hA.tb with pri := { configured := true, st := .holdover }, sec := {} } }), HoopId.hoopA, _, ⟨rfl, rfl⟩, by decide +kernel⟩

theorem wit_ServoRows_6 : ∃ (s : State) (h : HoopId) (x : Hoop) (d : _), s.here h x ∧ (x.dom d).st = .holdover ∧ (x.dom d).selected = false ∧ (d ≠ 0 ∨ x.tb.sec.st ≠ .locked) :=
  ⟨(sA { hA with tb := { hA.tb with pri := { configured := true, st := .holdover }, sec := {} } }), HoopId.hoopA, _, 0, ⟨rfl, rfl⟩, by decide +kernel⟩

theorem wit_ServoRows_7 : ∃ (s : State) (h : HoopId) (x : Hoop), s.here h x :=
  ⟨(sA hA), HoopId.hoopA, _, ⟨rfl, rfl⟩⟩

theorem wit_ServoRows_8 : ∃ (s : State) (h : HoopId) (x : Hoop), s.here h x :=
  ⟨(sA hA), HoopId.hoopA, _, ⟨rfl, rfl⟩⟩

theorem wit_ServoRows_9 : ∃ (s : State) (h : HoopId) (x : Hoop), s.here h x ∧ Config.duplex x.part = true :=
  ⟨(sD (hA .qn0512d) hB), HoopId.hoopA, _, ⟨rfl, rfl⟩, by decide +kernel⟩

theorem wit_ClockCommands_0 : ∃ (s : State) (h : HoopId) (r : _) (c : _), passes s h r 0x40 c ptpCfgVerb = true :=
  ⟨(sA (withCmd 0 (adm 0x40 [1, 5, 1, 0, 1, 0xFD, 1, 0, 0, 0, 2, 0, 0, 0, 3, 0, 0, 0, 100, 0]) (hA))), HoopId.hoopA, 0, (cmdOf (adm 0x40 [1, 5, 1, 0, 1, 0xFD, 1, 0, 0, 0, 2, 0, 0, 0, 3, 0, 0, 0, 100, 0])), by decide +kernel⟩

theorem wit_ClockCommands_1 : ∃ (s : State) (h : HoopId) (r : _) (c : _), passes s h r 0x41 c domainSwitchVerb = true :=
  ⟨(sA (withCmd 0 (bare 0x41) ({ hA with tb := { hA.tb with sec := { configured := true, st := .locked }, secOffset := 7, secRate := 3 } }))), HoopId.hoopA, 0, (cmdOf (bare 0x41)), by decide +kernel⟩

def wCommitCommands_0 : State := (sA (withCmd 0 (atEpoch (thrCmd 1 3 5 false)) (hR)))
theorem wit_CommitCommands_0 : ∃ (s : State) (h : HoopId) (r : _) (c : _) (cmp : _) (e : _), accepts s h r 1 c [editFor s h r 1 c] cmp e = true ∧ s.quiet = true ∧ passes s h r 1 c commitVerb = true :=
  ⟨wCommitCommands_0, HoopId.hoopA, 0, (cmdOf (atEpoch (thrCmd 1 3 5 false))), ((accOf (decOf wCommitCommands_0 0 1 (cmdOf (atEpoch (thrCmd 1 3 5 false))))).1), ((accOf (decOf wCommitCommands_0 0 1 (cmdOf (atEpoch (thrCmd 1 3 5 false))))).2), accepts_acc (by decide +kernel), by decide +kernel⟩

def wCommitCommands_1 : State := (sA (withCmd 0 (thrCmd 2 3 5 true) (hT .verified)))
theorem wit_CommitCommands_1 : ∃ (s : State) (h : HoopId) (r : _) (c : _) (cmp : _) (e : _), accepts s h r 2 c [editFor s h r 2 c] cmp e = true ∧ s.quiet = true ∧ passes s h r 2 c commitVerb = true :=
  ⟨wCommitCommands_1, HoopId.hoopA, 0, (cmdOf (thrCmd 2 3 5 true)), ((accOf (decOf wCommitCommands_1 0 2 (cmdOf (thrCmd 2 3 5 true)))).1), ((accOf (decOf wCommitCommands_1 0 2 (cmdOf (thrCmd 2 3 5 true)))).2), accepts_acc (by decide +kernel), by decide +kernel⟩

def wCommitCommands_2 : State := (sA (withCmd 0 (atEpoch (thrCmd 3 3 5 false)) (hT .darked)))
theorem wit_CommitCommands_2 : ∃ (s : State) (h : HoopId) (r : _) (c : _) (cmp : _) (e : _), accepts s h r 3 c [editFor s h r 3 c] cmp e = true ∧ s.quiet = true ∧ passes s h r 3 c commitVerb = true :=
  ⟨wCommitCommands_2, HoopId.hoopA, 0, (cmdOf (atEpoch (thrCmd 3 3 5 false))), ((accOf (decOf wCommitCommands_2 0 3 (cmdOf (atEpoch (thrCmd 3 3 5 false))))).1), ((accOf (decOf wCommitCommands_2 0 3 (cmdOf (atEpoch (thrCmd 3 3 5 false))))).2), accepts_acc (by decide +kernel), by decide +kernel⟩

def wCommitCommands_3 : State := (sA (withCmd 0 (portCmd 4 3) (hT .verified)))
theorem wit_CommitCommands_3 : ∃ (s : State) (h : HoopId) (r : _) (c : _) (cmp : _) (e : _), accepts s h r 4 c [editFor s h r 4 c] cmp e = true ∧ s.quiet = true ∧ passes s h r 4 c commitVerb = true :=
  ⟨wCommitCommands_3, HoopId.hoopA, 0, (cmdOf (portCmd 4 3)), ((accOf (decOf wCommitCommands_3 0 4 (cmdOf (portCmd 4 3)))).1), ((accOf (decOf wCommitCommands_3 0 4 (cmdOf (portCmd 4 3)))).2), accepts_acc (by decide +kernel), by decide +kernel⟩

def wCommitCommands_4 : State := (sA (withCmd 0 (portCmd 5 3) (hT .carrying)))
theorem wit_CommitCommands_4 : ∃ (s : State) (h : HoopId) (r : _) (c : _) (cmp : _) (e : _), accepts s h r 5 c [editFor s h r 5 c] cmp e = true ∧ s.quiet = true ∧ passes s h r 5 c commitVerb = true :=
  ⟨wCommitCommands_4, HoopId.hoopA, 0, (cmdOf (portCmd 5 3)), ((accOf (decOf wCommitCommands_4 0 5 (cmdOf (portCmd 5 3)))).1), ((accOf (decOf wCommitCommands_4 0 5 (cmdOf (portCmd 5 3)))).2), accepts_acc (by decide +kernel), by decide +kernel⟩

def wCommitCommands_5 : State := (sA (withCmd 0 ((atEpoch <| padTo 48 ([3, 0x30, 3, 0] ++ List.replicate 12 0 ++ [1, 0, 0, 0] ++ [1, 0, 28, 0] ++ tlvOf 1 (descB 3 5 false)))) (hR)))
theorem wit_CommitCommands_5 : ∃ (s : State) (h : HoopId) (r : _) (c : _) (es : _) (cmp : _) (e : _), decideCommit ((s.hoop h).updRing r (fun g => { g with run := none })) { ring := r } (hdrOf c.bytes).hasEpoch (hdrOf c.bytes).exact (hdrOf c.bytes).epochNs (es.map (editOfEntry (ringTag (s.hoop h) r))) = .accept cmp e ∧ s.quiet = true ∧ passes s h r 0x30 c batchVerb = true ∧ batchPart (s.hoop h) r c.bytes = some es ∧ field c.bytes 17 1 % 2 = 0 ∧ ((s.hoop h).ring r).run = none ∧ distinct (es.map entryPort) = true :=
  ⟨wCommitCommands_5, HoopId.hoopA, 0, (cmdOf ((atEpoch <| padTo 48 ([3, 0x30, 3, 0] ++ List.replicate 12 0 ++ [1, 0, 0, 0] ++ [1, 0, 28, 0] ++ tlvOf 1 (descB 3 5 false))))), [(1, tlvOf 1 (descB 3 5 false) ++ List.replicate 12 0)], ((accOf (decideCommit ((wCommitCommands_5.hoop HoopId.hoopA).updRing 0 (fun g => { g with run := none })) { ring := 0 } (hdrOf (cmdOf ((atEpoch <| padTo 48 ([3, 0x30, 3, 0] ++ List.replicate 12 0 ++ [1, 0, 0, 0] ++ [1, 0, 28, 0] ++ tlvOf 1 (descB 3 5 false))))).bytes).hasEpoch (hdrOf (cmdOf ((atEpoch <| padTo 48 ([3, 0x30, 3, 0] ++ List.replicate 12 0 ++ [1, 0, 0, 0] ++ [1, 0, 28, 0] ++ tlvOf 1 (descB 3 5 false))))).bytes).exact (hdrOf (cmdOf ((atEpoch <| padTo 48 ([3, 0x30, 3, 0] ++ List.replicate 12 0 ++ [1, 0, 0, 0] ++ [1, 0, 28, 0] ++ tlvOf 1 (descB 3 5 false))))).bytes).epochNs ([(1, tlvOf 1 (descB 3 5 false) ++ List.replicate 12 0)].map (editOfEntry (ringTag (wCommitCommands_5.hoop HoopId.hoopA) 0))))).1), ((accOf (decideCommit ((wCommitCommands_5.hoop HoopId.hoopA).updRing 0 (fun g => { g with run := none })) { ring := 0 } (hdrOf (cmdOf ((atEpoch <| padTo 48 ([3, 0x30, 3, 0] ++ List.replicate 12 0 ++ [1, 0, 0, 0] ++ [1, 0, 28, 0] ++ tlvOf 1 (descB 3 5 false))))).bytes).hasEpoch (hdrOf (cmdOf ((atEpoch <| padTo 48 ([3, 0x30, 3, 0] ++ List.replicate 12 0 ++ [1, 0, 0, 0] ++ [1, 0, 28, 0] ++ tlvOf 1 (descB 3 5 false))))).bytes).exact (hdrOf (cmdOf ((atEpoch <| padTo 48 ([3, 0x30, 3, 0] ++ List.replicate 12 0 ++ [1, 0, 0, 0] ++ [1, 0, 28, 0] ++ tlvOf 1 (descB 3 5 false))))).bytes).epochNs ([(1, tlvOf 1 (descB 3 5 false) ++ List.replicate 12 0)].map (editOfEntry (ringTag (wCommitCommands_5.hoop HoopId.hoopA) 0))))).2), accOf_eq (by decide +kernel), by decide +kernel⟩

theorem wit_CommitCommands_6 : ∃ (s : State) (h : HoopId) (r : _) (c : _) (es : _), passes s h r 0x30 c batchVerb = true ∧ batchPart (s.hoop h) r c.bytes = some es ∧ field c.bytes 17 1 % 2 = 1 ∧ ((s.hoop h).ring r).run = none ∧ ((s.hoop h).ring r).read = [c] ∧ ((s.hoop h).ring r).posted = [] :=
  ⟨(sA (withCmd 0 ((atEpoch <| padTo 48 ([3, 0x30, 3, 0] ++ List.replicate 12 0 ++ [1, 1, 0, 0] ++ [1, 0, 28, 0] ++ tlvOf 1 (descB 3 5 false)))) (hR))), HoopId.hoopA, 0, (cmdOf ((atEpoch <| padTo 48 ([3, 0x30, 3, 0] ++ List.replicate 12 0 ++ [1, 1, 0, 0] ++ [1, 0, 28, 0] ++ tlvOf 1 (descB 3 5 false))))), [(1, tlvOf 1 (descB 3 5 false) ++ List.replicate 12 0)], by decide +kernel⟩

theorem wit_CommitsThatMeetTheChecks_0 : ∃ (s : State) (h : HoopId) (r : _) (c : _) (cmp : _), meetsChecks (breakRun r 1 (s.hoop h)) { ring := r } (hdrOf c.bytes).epochNs [editFor s h r 1 c] cmp = true ∧ s.quiet = true ∧ passes s h r 1 c commitVerb = true ∧ (hdrOf c.bytes).hasEpoch = true :=
  ⟨(sA (withCmd 0 (atEpoch (thrCmd 1 3 5 false)) (hR))), HoopId.hoopA, 0, (cmdOf (atEpoch (thrCmd 1 3 5 false))), _, meets_cmp (by decide +kernel), by decide +kernel⟩

theorem wit_CommitsThatMeetTheChecks_1 : ∃ (s : State) (h : HoopId) (r : _) (c : _) (cmp : _), meetsChecks (breakRun r 2 (s.hoop h)) { ring := r } (hdrOf c.bytes).epochNs [editFor s h r 2 c] cmp = true ∧ s.quiet = true ∧ passes s h r 2 c commitVerb = true ∧ (hdrOf c.bytes).hasEpoch = true :=
  ⟨(sA (withCmd 0 (atEpoch (thrCmd 2 3 5 true)) (hT .verified))), HoopId.hoopA, 0, (cmdOf (atEpoch (thrCmd 2 3 5 true))), _, meets_cmp (by decide +kernel), by decide +kernel⟩

theorem wit_CommitsThatMeetTheChecks_2 : ∃ (s : State) (h : HoopId) (r : _) (c : _) (cmp : _), meetsChecks (breakRun r 3 (s.hoop h)) { ring := r } (hdrOf c.bytes).epochNs [editFor s h r 3 c] cmp = true ∧ s.quiet = true ∧ passes s h r 3 c commitVerb = true ∧ (hdrOf c.bytes).hasEpoch = true :=
  ⟨(sA (withCmd 0 (atEpoch (thrCmd 3 3 5 false)) (hT .darked))), HoopId.hoopA, 0, (cmdOf (atEpoch (thrCmd 3 3 5 false))), _, meets_cmp (by decide +kernel), by decide +kernel⟩

theorem wit_CommitsThatMeetTheChecks_3 : ∃ (s : State) (h : HoopId) (r : _) (c : _) (cmp : _), meetsChecks (breakRun r 4 (s.hoop h)) { ring := r } (hdrOf c.bytes).epochNs [editFor s h r 4 c] cmp = true ∧ s.quiet = true ∧ passes s h r 4 c commitVerb = true ∧ (hdrOf c.bytes).hasEpoch = true :=
  ⟨(sA (withCmd 0 (atEpoch (portCmd 4 3)) (hT .verified))), HoopId.hoopA, 0, (cmdOf (atEpoch (portCmd 4 3))), _, meets_cmp (by decide +kernel), by decide +kernel⟩

theorem wit_CommitsThatMeetTheChecks_4 : ∃ (s : State) (h : HoopId) (r : _) (c : _) (cmp : _), meetsChecks (breakRun r 5 (s.hoop h)) { ring := r } (hdrOf c.bytes).epochNs [editFor s h r 5 c] cmp = true ∧ s.quiet = true ∧ passes s h r 5 c commitVerb = true ∧ (hdrOf c.bytes).hasEpoch = true :=
  ⟨(sA (withCmd 0 (atEpoch (portCmd 5 3)) (hT .carrying))), HoopId.hoopA, 0, (cmdOf (atEpoch (portCmd 5 3))), _, meets_cmp (by decide +kernel), by decide +kernel⟩

theorem wit_CommitsThatMeetTheChecks_5 : ∃ (s : State) (h : HoopId) (r : _) (c : _) (es : _) (cmp : _), meetsChecks ((s.hoop h).updRing r (fun g => { g with run := none })) { ring := r } (hdrOf c.bytes).epochNs (es.map (editOfEntry (ringTag (s.hoop h) r))) cmp = true ∧ s.quiet = true ∧ passes s h r 0x30 c batchVerb = true ∧ batchPart (s.hoop h) r c.bytes = some es ∧ field c.bytes 17 1 % 2 = 0 ∧ ((s.hoop h).ring r).run = none ∧ distinct (es.map entryPort) = true ∧ (hdrOf c.bytes).hasEpoch = true :=
  ⟨(sA (withCmd 0 ((atEpoch <| padTo 48 ([3, 0x30, 3, 0] ++ List.replicate 12 0 ++ [1, 0, 0, 0] ++ [1, 0, 28, 0] ++ tlvOf 1 (descB 3 5 false)))) (hR))), HoopId.hoopA, 0, (cmdOf ((atEpoch <| padTo 48 ([3, 0x30, 3, 0] ++ List.replicate 12 0 ++ [1, 0, 0, 0] ++ [1, 0, 28, 0] ++ tlvOf 1 (descB 3 5 false))))), [(1, tlvOf 1 (descB 3 5 false) ++ List.replicate 12 0)], _, meets_cmp (by decide +kernel), by decide +kernel⟩

theorem wit_CommitsThatMeetTheChecks_6 : ∃ (s : State) (h : HoopId) (x : Hoop) (c : _) (loc : _) (ms : _) (slot : _) (ds : _) (ens : _) (cmp : _), x = s.hoop h ∧ ds = ms.map (fun q => distTo x (s.hoop (other h)) q.1) ∧ ens = (hdrOf c.bytes).epochNs ∧ meetsChecks (breakRun 0 0x31 x) { ring := 0 } ens (loc.map fabEdit) cmp = true ∧ s.quiet = true ∧ passes s h 0 0x31 c fabricVerb = true ∧ fabArg (paramOf c.bytes) = some (loc, ms) ∧ freeSlot x = some slot ∧ x.wlm.addr ≠ 0 ∧ x.tb.timeValid = true ∧ ds.any (· == 16) = false ∧ loc ≠ [] ∧ (hdrOf c.bytes).hasEpoch = true ∧ x.tb.ptpOf x.now + 50000 ≤ ens :=
  ⟨(sA (withCmd 0 (atEpoch (adm 0x31 ([1, 1, 0, 0] ++ ([1, 0, 1, 0] ++ descB 3 5 false) ++ leBytes 2 20 ++ [1, 0] ++ ([1, 0, 1, 0] ++ descB 3 5 false)))) { hR with wlm := { hW.wlm with addr := 9 } })), HoopId.hoopA, _, (cmdOf (atEpoch (adm 0x31 ([1, 1, 0, 0] ++ ([1, 0, 1, 0] ++ descB 3 5 false) ++ leBytes 2 20 ++ [1, 0] ++ ([1, 0, 1, 0] ++ descB 3 5 false))))), (((fabArg (paramOf (cmdOf (atEpoch (adm 0x31 ([1, 1, 0, 0] ++ ([1, 0, 1, 0] ++ descB 3 5 false) ++ leBytes 2 20 ++ [1, 0] ++ ([1, 0, 1, 0] ++ descB 3 5 false))))).bytes)).getD ([], [])).1), (((fabArg (paramOf (cmdOf (atEpoch (adm 0x31 ([1, 1, 0, 0] ++ ([1, 0, 1, 0] ++ descB 3 5 false) ++ leBytes 2 20 ++ [1, 0] ++ ([1, 0, 1, 0] ++ descB 3 5 false))))).bytes)).getD ([], [])).2), 0, _, _, _, rfl, rfl, rfl, meets_cmp (by decide +kernel), by decide +kernel⟩

theorem wit_ImmediateCommands_0 : ∃ (s : State) (h : HoopId) (r : _) (c : _), s.quiet = true ∧ passes s h r 6 c darkNowVerb = true ∧ ownsEdit (breakRun r 6 (s.hoop h)) { ring := r } (s.hoop h).thr (editFor s h r 6 c) = true ∧ ((s.hoop h).thread (editFor s h r 6 c).inPort).st.live = true ∧ (editFor s h r 6 c).inPort < 512 :=
  ⟨(sA (withCmd 0 (portCmd 6 3) (hT .verified))), HoopId.hoopA, 0, (cmdOf (portCmd 6 3)), by decide +kernel⟩

theorem wit_ImmediateCommands_1 : ∃ (s : State) (h : HoopId) (r : _) (c : _) (m : _), s.quiet = true ∧ passes s h r 7 c cancelVerb = true ∧ findPending (breakRun r 7 (s.hoop h)) r (field (((ctxOf s h r c).tlv 3).getD []) 0 6) = some m ∧ m.fcid = none ∧ (s.hoop h).cm.pending.any (fun d => d.deps.contains m.key) = false ∧ (s.hoop h).now + 500 ≤ m.epoch :=
  ⟨(sA (withCmd 0 (withTlvs 7 [(3, leBytes 6 9)]) ({ hR with cm := { pending := [{ seq := 9, ring := 0, tenant := 0, epochNs := 0x40100000, epoch := 0x40100000, changes := [], delta := [], chans := [], deps := [] }] } }))), HoopId.hoopA, 0, (cmdOf (withTlvs 7 [(3, leBytes 6 9)])), { seq := 9, ring := 0, tenant := 0, epochNs := 0x40100000, epoch := 0x40100000, changes := [], delta := [], chans := [], deps := [] }, by decide +kernel⟩

theorem wit_ImmediateCommands_2 : ∃ (s : State) (h : HoopId) (r : _) (c : _), passes s h r 0 c nopVerb = true :=
  ⟨(sA (withCmd 0 (bare 0) (hA))), HoopId.hoopA, 0, (cmdOf (bare 0)), by decide +kernel⟩

theorem wit_AgentReads_0 : ∃ (s : State) (h : HoopId) (c : _), passes s h 0 8 c threadReadVerb = true ∧ (ctxOf s h 0 c).tlv 2 = none :=
  ⟨(sA (withCmd 0 (withTlvs 8 [(4, leBytes 8 0x1000 ++ leBytes 4 256)]) (hT .verified))), HoopId.hoopA, (cmdOf (withTlvs 8 [(4, leBytes 8 0x1000 ++ leBytes 4 256)])), by decide +kernel⟩

theorem wit_AgentReads_1 : ∃ (s : State) (h : HoopId) (c : _), passes s h 0 9 c ledgerReadVerb = true ∧ field (paramOf c.bytes) 8 2 = 0 :=
  ⟨(sA (withCmd 0 (withTlvs 9 [(4, leBytes 8 0x1000 ++ leBytes 4 256), (16, leBytes 6 60 ++ leBytes 2 1 ++ leBytes 2 0)]) ({ hA with led := { closed := [(60, [{ minute := 60, tenant := 1, carry := 5 }])] } }))), HoopId.hoopA, (cmdOf (withTlvs 9 [(4, leBytes 8 0x1000 ++ leBytes 4 256), (16, leBytes 6 60 ++ leBytes 2 1 ++ leBytes 2 0)])), by decide +kernel⟩

theorem wit_AgentReads_2 : ∃ (s : State) (h : HoopId) (c : _) (b : _) (o : _), passes s h 0 0xA c outcomeReadVerb = true ∧ (ctxOf s h 0 c).tlv 3 = some b ∧ findOutcome (s.hoop h) 0 (field b 0 6) = some o :=
  ⟨(sA (withCmd 0 (withTlvs 0xA [(4, leBytes 8 0x1000 ++ leBytes 4 256), (3, leBytes 6 9)]) ({ hA with cm := { history := [{ seq := 9, outcome := 0, epoch := 5, nCodes := 1, nCh := 2, nVer := 1, nFlt := 0, nNol := 0, nDrk := 0, tVer := 3, cMax := 1, ring := 0, tenant := 0 }] } }))), HoopId.hoopA, (cmdOf (withTlvs 0xA [(4, leBytes 8 0x1000 ++ leBytes 4 256), (3, leBytes 6 9)])), (leBytes 6 9), { seq := 9, outcome := 0, epoch := 5, nCodes := 1, nCh := 2, nVer := 1, nFlt := 0, nNol := 0, nDrk := 0, tVer := 3, cMax := 1, ring := 0, tenant := 0 }, by decide +kernel⟩

theorem wit_PrickingStores_0 : ∃ (s : State) (h : HoopId) (c : _), passes s h 0 0x10 c slotLoadVerb = true ∧ field (paramOf c.bytes) 1 1 % 4 = 1 :=
  ⟨(sA (withCmd 0 (adm 0x10 ([4, 1] ++ (leBytes 8 (3 + 5 * 2 ^ 16 + 2 ^ 32 + 2 ^ 45)))) (hR))), HoopId.hoopA, (cmdOf (adm 0x10 ([4, 1] ++ (leBytes 8 (3 + 5 * 2 ^ 16 + 2 ^ 32 + 2 ^ 45))))), by decide +kernel⟩

def wPrickingStores_1 : State := (sA (withCmd 0 (adm 0x10 ([4, 3] ++ (leBytes 8 (3 + 5 * 2 ^ 16 + 2 ^ 32 + 2 ^ 45)))) (hR)))
theorem wit_PrickingStores_1 : ∃ (s : State) (h : HoopId) (c : _) (ds : _), s.quiet = true ∧ passes s h 0 0x10 c slotLoadVerb = true ∧ field (paramOf c.bytes) 1 1 % 4 = 3 ∧ ds = (slotPart (ctxOf s h 0 c)).2.2.2.map (fun d => descOf (leBytes 8 (BitVec.ofNat 64 d).toNat)) ∧ (slotLast (field (paramOf c.bytes) 0 1) ds (breakRun 0 0x10 (s.hoop h))).1.status = 0 :=
  ⟨wPrickingStores_1, HoopId.hoopA, (cmdOf (adm 0x10 ([4, 3] ++ (leBytes 8 (3 + 5 * 2 ^ 16 + 2 ^ 32 + 2 ^ 45))))), ((slotPart (ctxOf wPrickingStores_1 HoopId.hoopA 0 (cmdOf (adm 0x10 ([4, 3] ++ (leBytes 8 (3 + 5 * 2 ^ 16 + 2 ^ 32 + 2 ^ 45))))))).2.2.2.map (fun d => descOf (leBytes 8 (BitVec.ofNat 64 d).toNat))), by decide +kernel⟩

theorem wit_PrickingStores_2 : ∃ (s : State) (h : HoopId) (c : _), s.quiet = true ∧ passes s h 0 0x11 c slotMaskVerb = true ∧ (s.hoop h).prk.referenced.contains (field (paramOf c.bytes) 0 1) = false :=
  ⟨(sA (withCmd 0 (adm 0x11 (4 :: leBytes 16 0x8001)) (hR))), HoopId.hoopA, (cmdOf (adm 0x11 (4 :: leBytes 16 0x8001))), by decide +kernel⟩

theorem wit_PrickingStores_3 : ∃ (s : State) (h : HoopId) (c : _), s.quiet = true ∧ passes s h 0 0x12 c slotClearVerb = true ∧ (s.hoop h).prk.referenced.contains (field (paramOf c.bytes) 0 1) = false :=
  ⟨(sA (withCmd 0 (adm 0x12 [4]) (hR))), HoopId.hoopA, (cmdOf (adm 0x12 [4])), by decide +kernel⟩

theorem wit_PrickingStores_4 : ∃ (s : State) (h : HoopId) (c : _), passes s h 0 0x13 c listWriteVerb = true ∧ (s.hoop h).prk.activeStore ≠ some (field (paramOf c.bytes) 0 1 == 1) :=
  ⟨(sA (withCmd 0 (adm 0x13 ([1] ++ leBytes 2 5 ++ leBytes 8 0x100002710)) (hR))), HoopId.hoopA, (cmdOf (adm 0x13 ([1] ++ leBytes 2 5 ++ leBytes 8 0x100002710))), by decide +kernel⟩

theorem wit_PrickingCommands_0 : ∃ (s : State) (h : HoopId) (c : _), passes s h 0 0x14 c startVerb = true ∧ (s.hoop h).prk.active = none ∧ listHeld (s.hoop h) (listArg (ctxOf s h 0 c)) = false ∧ listCheck (s.hoop h) (listArg (ctxOf s h 0 c)) = none ∧ (((listArg (ctxOf s h 0 c)).repeats ≠ 0 → firstK (listArg (ctxOf s h 0 c)).base (dwells (s.hoop h).prk (listArg (ctxOf s h 0 c)).store (listArg (ctxOf s h 0 c)).len).sum ((s.hoop h).tb.ptpOf (s.hoop h).now + 6000) < (listArg (ctxOf s h 0 c)).repeats)) :=
  ⟨(sA (withCmd 0 (adm 0x14 ([0] ++ leBytes 2 1 ++ leBytes 6 0 ++ leBytes 4 0 ++ leBytes 4 0)) (hP))), HoopId.hoopA, (cmdOf (adm 0x14 ([0] ++ leBytes 2 1 ++ leBytes 6 0 ++ leBytes 4 0 ++ leBytes 4 0))), by decide +kernel⟩

def wPrickingCommands_1 : State := (sA (withCmd 0 (adm 0x15 ([1] ++ leBytes 2 1 ++ leBytes 6 0 ++ leBytes 4 0 ++ leBytes 4 0)) (hL)))
theorem wit_PrickingCommands_1 : ∃ (s : State) (h : HoopId) (c : _) (l : _) (t : _), passes s h 0 0x15 c swapVerb = true ∧ (s.hoop h).prk.active = some l ∧ (s.hoop h).prk.swap = none ∧ (s.hoop h).prk.stopAt = none ∧ l.store ≠ (listArg (ctxOf s h 0 c)).store ∧ listHeld (s.hoop h) (listArg (ctxOf s h 0 c)) = false ∧ listCheck (s.hoop h) (listArg (ctxOf s h 0 c)) = none ∧ swapAt (s.hoop h) l (listArg (ctxOf s h 0 c)) = some t ∧ (((listArg (ctxOf s h 0 c)).repeats ≠ 0 → (t - (listArg (ctxOf s h 0 c)).base) / max 1 (dwells (s.hoop h).prk (listArg (ctxOf s h 0 c)).store (listArg (ctxOf s h 0 c)).len).sum < (listArg (ctxOf s h 0 c)).repeats)) ∧ placedAfter (s.hoop h) t = false :=
  ⟨wPrickingCommands_1, HoopId.hoopA, (cmdOf (adm 0x15 ([1] ++ leBytes 2 1 ++ leBytes 6 0 ++ leBytes 4 0 ++ leBytes 4 0))), pl0, ((swapAt (wPrickingCommands_1.hoop HoopId.hoopA) pl0 (listArg (ctxOf wPrickingCommands_1 HoopId.hoopA 0 (cmdOf (adm 0x15 ([1] ++ leBytes 2 1 ++ leBytes 6 0 ++ leBytes 4 0 ++ leBytes 4 0)))))).getD 0), by decide +kernel⟩

theorem wit_PrickingCommands_2 : ∃ (s : State) (h : HoopId) (c : _) (q : _), passes s h 0 0x16 c swapDisarmVerb = true ∧ (s.hoop h).prk.swap = some q ∧ (s.hoop h).now + 6000 ≤ q.startAt :=
  ⟨(sA (withCmd 0 (bare 0x16) ({ hL with prk := { hL.prk with swap := some pl1 } }))), HoopId.hoopA, (cmdOf (bare 0x16)), pl1, by decide +kernel⟩

theorem wit_PrickingCommands_3 : ∃ (s : State) (h : HoopId) (c : _) (l : _), passes s h 0 0x17 c stopVerb = true ∧ field (paramOf c.bytes) 0 1 = 0 ∧ (s.hoop h).prk.active = some l :=
  ⟨(sA (withCmd 0 (adm 0x17 [0]) (hL))), HoopId.hoopA, (cmdOf (adm 0x17 [0])), pl0, by decide +kernel⟩

theorem wit_PrickingCommands_4 : ∃ (s : State) (h : HoopId) (c : _) (l : _), passes s h 0 0x17 c stopVerb = true ∧ field (paramOf c.bytes) 0 1 = 1 ∧ (s.hoop h).prk.active = some l :=
  ⟨(sA (withCmd 0 (adm 0x17 [1]) (hL))), HoopId.hoopA, (cmdOf (adm 0x17 [1])), pl0, by decide +kernel⟩

theorem wit_PrickingEvents_0 : ∃ (s : State) (h : HoopId) (x : Hoop) (l : _), s.here h x ∧ cmpDue x 6 = true ∧ x.prk.active = some l ∧ x.prk.started = false :=
  ⟨(sA { hL with prk := { hL.prk with started := false, cycleNum := 107376, swap := none, stopAt := none, nextStaged := true, nextEpoch := 1073770000 }, tb := { hL.tb with acc := 1073770000 * 2 ^ 32, cmps := [(6, { t16 := 1073770000 * 16, armed := true })] } }), HoopId.hoopA, _, pl0, ⟨rfl, rfl⟩, by decide +kernel⟩

theorem wit_PrickingEvents_1 : ∃ (s : State) (h : HoopId) (x : Hoop) (l : _), s.here h x ∧ cmpDue x 6 = true ∧ x.prk.active = some l ∧ x.prk.started = true ∧ x.prk.swap = none ∧ x.prk.stopAt ≠ some (x.nextBoundary l) ∧ l.final ≠ some (x.nextBoundary l) :=
  ⟨(sA { hL with prk := { hL.prk with started := true, cycleNum := 107376, swap := none, stopAt := none, nextStaged := true, nextEpoch := 1073770000 }, tb := { hL.tb with acc := 1073770000 * 2 ^ 32, cmps := [(6, { t16 := 1073770000 * 16, armed := true })] } }), HoopId.hoopA, _, pl0, ⟨rfl, rfl⟩, by decide +kernel⟩

theorem wit_PrickingEvents_2 : ∃ (s : State) (h : HoopId) (x : Hoop) (l : _) (q : _), s.here h x ∧ cmpDue x 6 = true ∧ x.prk.active = some l ∧ x.prk.started = true ∧ x.prk.swap = some q ∧ q.startAt ≤ x.nextBoundary l + 2 :=
  ⟨(sA { hL with prk := { hL.prk with started := true, cycleNum := 107376, swap := some { pl1 with startAt := 1073770000 }, stopAt := none, nextStaged := true, nextEpoch := 1073770000 }, tb := { hL.tb with acc := 1073770000 * 2 ^ 32, cmps := [(6, { t16 := 1073770000 * 16, armed := true })] } }), HoopId.hoopA, _, pl0, { pl1 with startAt := 1073770000 }, ⟨rfl, rfl⟩, by decide +kernel⟩

theorem wit_PrickingEvents_3 : ∃ (s : State) (h : HoopId) (x : Hoop) (l : _), s.here h x ∧ cmpDue x 6 = true ∧ x.prk.active = some l ∧ x.prk.started = true ∧ x.prk.swap = none ∧ x.prk.stopAt = some (x.nextBoundary l) :=
  ⟨(sA { hL with prk := { hL.prk with started := true, cycleNum := 107376, swap := none, stopAt := some 1073770000, nextStaged := true, nextEpoch := 1073770000 }, tb := { hL.tb with acc := 1073770000 * 2 ^ 32, cmps := [(6, { t16 := 1073770000 * 16, armed := true })] } }), HoopId.hoopA, _, pl0, ⟨rfl, rfl⟩, by decide +kernel⟩

theorem wit_PrickingEvents_4 : ∃ (s : State) (h : HoopId) (x : Hoop) (l : _) (i : _), s.here h x ∧ s.quiet = true ∧ cmpDue x 4 = true ∧ cmpDue x 6 = false ∧ prkNext x = .entry l i :=
  ⟨(sA { hL with prk := { hL.prk with started := true, cycleNum := 107376, swap := none, stopAt := none, nextStaged := true, nextEpoch := 1073770000 }, tb := { hL.tb with acc := 1073770000 * 2 ^ 32, cmps := [(4, { t16 := 1073770000 * 16, armed := true })] } }), HoopId.hoopA, _, pl0, 0, ⟨rfl, rfl⟩, by decide +kernel⟩

theorem wit_EpochRows_0 : ∃ (s : State) (h : HoopId) (x : Hoop) (k : _) (m : _) (g : _), s.here h x ∧ s.quiet = true ∧ k < 4 ∧ cmpDue x k = true ∧ x.tmb.hold = false ∧ x.cm.pending = [m] ∧ m.stage = .armed k ∧ m.fcid = none ∧ m.changes = [g] ∧ g.kind = .create ∧ g.dropped = false :=
  ⟨(sA { hR with thr := [(3, threadIn .staged)], drv := { hR.drv with needles := [(835, { bank1 := 9 }), (3, { bank0 := 5, bank1 := 5 })] }, cm := { pending := [({ seq := 9, ring := 0, tenant := 0, epochNs := 0x40000000, epoch := 0x40000000, changes := [({ kind := .create, inPort := 3, before := {}, after := threadIn .none } : Change)], delta := [{ elem := 835, st := .eyOpen, ncode := 7, hff := 0, hrange := false, band := false, mixed := false, moved := false }], chans := [], deps := [], stage := .armed 1 } : Commit)] }, tmb := { st := .idle, dacStaged := true, stagedSeq := some 144 }, tb := { hR.tb with cmps := [(1, { t16 := 0x400000000, armed := true })] } }), HoopId.hoopA, _, 1, ({ seq := 9, ring := 0, tenant := 0, epochNs := 0x40000000, epoch := 0x40000000, changes := [({ kind := .create, inPort := 3, before := {}, after := threadIn .none } : Change)], delta := [{ elem := 835, st := .eyOpen, ncode := 7, hff := 0, hrange := false, band := false, mixed := false, moved := false }], chans := [], deps := [], stage := .armed 1 } : Commit), ({ kind := .create, inPort := 3, before := {}, after := threadIn .none } : Change), ⟨rfl, rfl⟩, by decide +kernel⟩

theorem wit_EpochRows_1 : ∃ (s : State) (h : HoopId) (x : Hoop) (m : _) (g : _), s.here h x ∧ s.quiet = true ∧ x.cm.pending = [m] ∧ m.delta = [] ∧ m.epoch ≤ x.now ∧ m.fcid = none ∧ m.changes = [g] ∧ g.kind = .modify ∧ g.turns = false ∧ g.dropped = false :=
  ⟨(sA { hT .verified with cm := { pending := [({ seq := 9, ring := 0, tenant := 0, epochNs := 0x40000000, epoch := 0x40000000, changes := [({ kind := .modify, inPort := 3, before := threadIn .verified, after := { threadIn .verified with move := true } } : Change)], delta := [], chans := [], deps := [] } : Commit)] } }), HoopId.hoopA, _, ({ seq := 9, ring := 0, tenant := 0, epochNs := 0x40000000, epoch := 0x40000000, changes := [({ kind := .modify, inPort := 3, before := threadIn .verified, after := { threadIn .verified with move := true } } : Change)], delta := [], chans := [], deps := [] } : Commit), ({ kind := .modify, inPort := 3, before := threadIn .verified, after := { threadIn .verified with move := true } } : Change), ⟨rfl, rfl⟩, by decide +kernel⟩

theorem wit_EpochRows_2 : ∃ (s : State) (h : HoopId) (x : Hoop) (i : _), s.here h x ∧ s.quiet = true ∧ (x.thread i).st = .settling ∧ (x.thread i).epoch + (x.thread i).late + 1000 ≤ x.now :=
  ⟨(sA { hR with thr := [(3, { threadIn .settling with epoch := 0x40000000 - 1000 })] }), HoopId.hoopA, _, 3, ⟨rfl, rfl⟩, by decide +kernel⟩

theorem wit_RingCommands_0 : ∃ (s : State) (h : HoopId) (c : _) (q : _), passes s h 0 0x20 c ringBindVerb = true ∧ q = field (paramOf c.bytes) 0 1 ∧ ((s.hoop h).ring q).unread = false ∧ portsHeld (s.hoop h) q (field (paramOf c.bytes) 2 2) (BitVec.ofNat 512 (field (paramOf c.bytes) 12 ((s.hoop h).n / 8))) (BitVec.ofNat 512 (field (paramOf c.bytes) (12 + (s.hoop h).n / 8) ((s.hoop h).n / 8))) = false :=
  ⟨(sA (withCmd 0 (adm 0x20 ([3, 7] ++ leBytes 2 5 ++ leBytes 4 1000 ++ leBytes 2 64 ++ leBytes 2 32 ++ leBytes 16 255 ++ leBytes 16 255)) (hA))), HoopId.hoopA, (cmdOf (adm 0x20 ([3, 7] ++ leBytes 2 5 ++ leBytes 4 1000 ++ leBytes 2 64 ++ leBytes 2 32 ++ leBytes 16 255 ++ leBytes 16 255))), 3, by decide +kernel⟩

theorem wit_RingCommands_1 : ∃ (s : State) (h : HoopId) (c : _) (q : _), passes s h 0 0x21 c ringUnbindVerb = true ∧ q = field (paramOf c.bytes) 0 1 ∧ ((s.hoop h).ring q).unread = false :=
  ⟨(sA (withCmd 0 (adm 0x21 [3]) (hA.setRing 3 { bound := true, en := true, tenant := 5, versions := 7 }))), HoopId.hoopA, (cmdOf (adm 0x21 [3])), 3, by decide +kernel⟩

theorem wit_RingCommands_2 : ∃ (s : State) (h : HoopId) (c : _) (q : _), passes s h 0 0x22 c meterSetVerb = true ∧ q = field (paramOf c.bytes) 0 1 :=
  ⟨(sA (withCmd 0 (adm 0x22 ([3] ++ leBytes 4 1000 ++ leBytes 2 64 ++ leBytes 2 32)) (hA.setRing 3 { bound := true, en := true, tenant := 5, versions := 7 }))), HoopId.hoopA, (cmdOf (adm 0x22 ([3] ++ leBytes 4 1000 ++ leBytes 2 64 ++ leBytes 2 32))), 3, by decide +kernel⟩

theorem wit_RingCommands_3 : ∃ (s : State) (h : HoopId) (c : _) (q : _) (key : _), passes s h 0 0x23 c keySetVerb = true ∧ q = field (paramOf c.bytes) 0 1 ∧ key = ((paramOf c.bytes).drop 1).take 32 :=
  ⟨(sA (withCmd 0 (adm 0x23 (3 :: leBytes 32 77)) (hA))), HoopId.hoopA, (cmdOf (adm 0x23 (3 :: leBytes 32 77))), 3, (leBytes 32 77), by decide +kernel⟩

theorem wit_MessageCommands_0 : ∃ (s : State) (h : HoopId) (c : _), passes s h 0 0x24 c eventSubVerb = true :=
  ⟨(sA (withCmd 0 (adm 0x24 (leBytes 2 448 ++ leBytes 2 16 ++ [0])) (hA))), HoopId.hoopA, (cmdOf (adm 0x24 (leBytes 2 448 ++ leBytes 2 16 ++ [0]))), by decide +kernel⟩

theorem wit_MessageCommands_1 : ∃ (s : State) (h : HoopId) (c : _) (p : _), passes s h 0 0x25 c netCfgVerb = true ∧ p = field (paramOf c.bytes) 0 1 :=
  ⟨(sA (withCmd 0 (adm 0x25 ([1] ++ leBytes 4 0x0A000002 ++ leBytes 4 0xFFFFFF00 ++ leBytes 4 0x0A000001 ++ leBytes 2 7 ++ [1])) (hA))), HoopId.hoopA, (cmdOf (adm 0x25 ([1] ++ leBytes 4 0x0A000002 ++ leBytes 4 0xFFFFFF00 ++ leBytes 4 0x0A000001 ++ leBytes 2 7 ++ [1]))), 1, by decide +kernel⟩

theorem wit_RingRows_0 : ∃ (s : State) (h : HoopId) (x : Hoop) (r : _) (v : BitVec 12), s.here h x ∧ r < 16 ∧ v.toNat < (x.ring r).slots ∧ (x.ring r).en = false :=
  ⟨(sA hA), HoopId.hoopA, _, 2, 1, ⟨rfl, rfl⟩, by decide +kernel⟩

theorem wit_RingRows_1 : ∃ (s : State) (h : HoopId) (x : Hoop) (v : BitVec 12) (b : _), s.here h x ∧ v.toNat < (x.ring 0).slots ∧ v.toNat = (x.ring 0).db + 1 ∧ (x.ring 0).posted = [] ∧ (x.ring 0).read = [] ∧ canRead x (x.ring 0) = true ∧ x.pair.role = .active ∧ chainLen (hdrOf (padTo 64 b)).len = 1 ∧ formCheck (hdrOf (padTo 64 b)) (x.ring 0).versions false = none :=
  ⟨(sA (hA.setRing 0 { ringReset 0 with en := true })), HoopId.hoopA, _, 1, (bare 0), ⟨rfl, rfl⟩, by decide +kernel⟩

theorem wit_RingRows_2 : ∃ (s : State) (h : HoopId) (x : Hoop) (r : _) (v : BitVec 12), s.here h x ∧ r < 16 ∧ v.toNat < (x.ring r).slots ∧ (v.toNat + (x.ring r).slots - (x.ring r).cplHead) % (x.ring r).slots ≤ (x.ring r).cplUsed ∧ (x.ring r).posted = [] ∧ (x.ring r).read = [] :=
  ⟨(sA (hA.setRing 2 { bound := true, cplTail := 1, cpls := [{ origin := 0x100, seq := 1, status := 0x80, result := 0, tag := 0, stamp := 0, epochSec := 0, epochNs := 0 }] })), HoopId.hoopA, _, 2, 1, ⟨rfl, rfl⟩, by decide +kernel⟩

theorem wit_RingRows_3 : ∃ (s : State) (h : HoopId) (x : Hoop) (r : _) (v : BitVec 13), s.here h x ∧ r < 16 ∧ v.toNat < (x.ring r).evtSlots ∧ (v.toNat + (x.ring r).evtSlots - (x.ring r).evtHead) % (x.ring r).evtSlots ≤ (x.ring r).evtUsed :=
  ⟨(sA (hA.setRing 2 { bound := true, evtTail := 1, evtHead := 0 })), HoopId.hoopA, _, 2, 1, ⟨rfl, rfl⟩, by decide +kernel⟩

theorem wit_RingRows_4 : ∃ (s : State) (h : HoopId) (x : Hoop) (v : BitVec 32), s.here h x ∧ v.getLsbD 0 = true ∧ x.boot.stage = .opened :=
  ⟨(sA hA), HoopId.hoopA, _, 1, ⟨rfl, rfl⟩, by decide +kernel⟩

theorem wit_RingRows_5 : ∃ (s : State) (h : HoopId) (x : Hoop) (r : _), s.here h x ∧ r < 16 ∧ (x.ring r).en = true :=
  ⟨(sA (hA.setRing 2 { bound := true, en := true, tenant := 5, read := [cmdOf (bare 0)] })), HoopId.hoopA, _, 2, ⟨rfl, rfl⟩, by decide +kernel⟩

theorem wit_RingRows_6 : ∃ (s : State) (h : HoopId) (x : Hoop) (r : _), s.here h x ∧ r < 16 ∧ (x.ring r).cplUnsig ≠ 0 ∧ (x.ring r).intr.getLsbD 0 = true :=
  ⟨(sA (hA.setRing 2 { bound := true, cplUnsig := 3 })), HoopId.hoopA, _, 2, ⟨rfl, rfl⟩, by decide +kernel⟩

theorem wit_RingRows_7 : ∃ (s : State) (h : HoopId) (x : Hoop) (r : _), s.here h x ∧ agentRing r = true ∧ (x.ring r).bound = true :=
  ⟨(sA (hA.setRing 2 { bound := true, cir := 10, cbs := 10, ebs := 5, tc := 10, te := 4 })), HoopId.hoopA, _, 2, ⟨rfl, rfl⟩, by decide +kernel⟩

theorem wit_RingRows_8 : ∃ (s : State) (h : HoopId) (x : Hoop) (port : _) (p : _) (why : _), s.here h x ∧ (x.mbx.net port).remoteEn = true ∧ datagram x p = .inl why :=
  ⟨(sA { hA with mbx := { net0 := { remoteEn := true } } }), HoopId.hoopA, _, 0, (let m : Bytes := [1, 2] ++ leBytes 2 1 ++ leBytes 8 9 ++ leBytes 4 0 ++ bare 0; m ++ mac16 (leBytes 32 77) m), 0, ⟨rfl, rfl⟩, by decide +kernel⟩

theorem wit_RingRows_9 : ∃ (s : State) (h : HoopId) (x : Hoop) (port : _) (p : _) (w : _), s.here h x ∧ (x.mbx.net port).remoteEn = true ∧ datagram x p = .inr w ∧ (x.ring (field p 1 1)).en = false :=
  ⟨(sA (Hoop.setRing { hA with mbx := { net0 := { remoteEn := true } } } 2 { bound := true, key := some (leBytes 32 77), keyGen := 1 })), HoopId.hoopA, _, 0, (let m : Bytes := [1, 2] ++ leBytes 2 1 ++ leBytes 8 9 ++ leBytes 4 0 ++ bare 0; m ++ mac16 (leBytes 32 77) m), ((winAccept (2 ^ 64 - 1) {} 9).getD {}), ⟨rfl, rfl⟩, by decide +kernel⟩

theorem wit_ConversionRows_0 : ∃ (s : State) (h : HoopId) (x : Hoop) (ch : _), s.here h x ∧ converts x ch = true :=
  ⟨(sA (hA.setChan 5 { hA.chan 5 with range := 1 })), HoopId.hoopA, _, 5, ⟨rfl, rfl⟩, by decide +kernel⟩

theorem wit_ConversionRows_1 : ∃ (s : State) (h : HoopId) (x : Hoop) (ch : _), s.here h x ∧ converts x ch = true ∧ Config.seqMode s.a.part = true ∧ inRegular x ch = false :=
  ⟨(sA (hA .qn0512)), HoopId.hoopA, _, 5, ⟨rfl, rfl⟩, by decide +kernel⟩

theorem wit_MonitorFailures_0 : ∃ (s : State) (h : HoopId) (x : Hoop) (g : _), s.here h x ∧ g < x.nG ∧ (x.group g).lost = false ∧ x.mon.spare0Perm = false ∧ x.mon.spare0 = 0x3F :=
  ⟨(sA hA), HoopId.hoopA, _, 1, ⟨rfl, rfl⟩, by decide +kernel⟩

theorem wit_MonitorFailures_1 : ∃ (s : State) (h : HoopId) (x : Hoop) (g : _), s.here h x ∧ g < x.nG ∧ (x.group g).lost = false ∧ x.mon.spare0Perm = true ∧ x.mon.spare1Perm = true ∧ Config.duplex x.part = false :=
  ⟨(sA { hA with mon := { spare0Perm := true, spare1Perm := true } }), HoopId.hoopA, _, 1, ⟨rfl, rfl⟩, by decide +kernel⟩

theorem wit_MonitorFailures_2 : ∃ (s : State) (h : HoopId) (x : Hoop) (ch : _) (normal : _), s.here h x ∧ ch < Config.chans x.part ∧ (x.chan ch).testing = true ∧ (x.chan ch).lost = false ∧ (((x.chan ch).rail < 256 ∨ normal = true)) :=
  ⟨(sA (hA.setChan 5 { hA.chan 5 with testing := true, rail := 3 })), HoopId.hoopA, _, 5, false, ⟨rfl, rfl⟩, by decide +kernel⟩

theorem wit_MonitorFailures_3 : ∃ (s : State) (h : HoopId) (x : Hoop) (ch : _), s.here h x ∧ (x.chan ch).testing = true ∧ (x.chan ch).due = false ∧ 256 ≤ (x.chan ch).rail :=
  ⟨(sA (hA.setChan 5 { hA.chan 5 with testing := true, rail := 256 })), HoopId.hoopA, _, 5, ⟨rfl, rfl⟩, by decide +kernel⟩

theorem wit_MonitorFailures_4 : ∃ (s : State) (h : HoopId) (x : Hoop) (i : _), s.here h x ∧ s.quiet = true ∧ i < 512 ∧ (x.thread i).st = .carrying ∧ (x.thread i).await ≠ [] ∧ (x.thread i).noLight = false ∧ max (x.thread i).epoch (x.thread i).reinjFrom + 500000 ≤ x.now :=
  ⟨(sA { hR with thr := [(3, { threadIn .carrying with epoch := 1, await := [5] })] }), HoopId.hoopA, _, 3, ⟨rfl, rfl⟩, by decide +kernel⟩

theorem wit_MonitorCommands_0 : ∃ (s : State) (h : HoopId) (x : Hoop) (drift : _), s.here h x ∧ x.mon.refOk = false ∧ x.mon.refChanged + 50000 ≤ x.now ∧ drift ≤ 1000 :=
  ⟨(sA hA), HoopId.hoopA, _, 1000, ⟨rfl, rfl⟩, by decide +kernel⟩

theorem wit_MonitorCommands_1 : ∃ (s : State) (h : HoopId) (x : Hoop), s.here h x ∧ x.mon.refSrc = 1 :=
  ⟨(sA { hA with mon := { hA.mon with refSrc := 1 } }), HoopId.hoopA, _, ⟨rfl, rfl⟩, by decide +kernel⟩

theorem wit_MonitorCommands_2 : ∃ (s : State) (h : HoopId) (c : _), passes s h 0 0x44 c refSelVerb = true ∧ awaiting (s.hoop h) = false ∧ (s.hoop h).pricking = false :=
  ⟨(sA (withCmd 0 (adm 0x44 [1]) (hA))), HoopId.hoopA, (cmdOf (adm 0x44 [1])), by decide +kernel⟩

theorem wit_MonitorCommands_3 : ∃ (s : State) (h : HoopId) (c : _), passes s h 0 0x44 c refSelVerb = true ∧ (s.hoop h).mon.refSrc = BitVec.ofNat 2 (field (paramOf c.bytes) 0 1) :=
  ⟨(sA (withCmd 0 (adm 0x44 [0]) hA)), HoopId.hoopA, (cmdOf (adm 0x44 [0])), by decide +kernel⟩

theorem wit_MonitorCommands_4 : ∃ (s : State) (h : HoopId) (c : _), passes s h 0 0x43 c adcProfileVerb = true :=
  ⟨(sA (withCmd 0 (adm 0x43 [0xFF, 2]) (hA))), HoopId.hoopA, (cmdOf (adm 0x43 [0xFF, 2])), by decide +kernel⟩

theorem wit_MonitorCommands_5 : ∃ (s : State) (h : HoopId) (c : _), passes s h 0 0x42 c verifyCfgVerb = true :=
  ⟨(sA (withCmd 0 (adm 0x42 [12, 2, 20]) (hA))), HoopId.hoopA, (cmdOf (adm 0x42 [12, 2, 20])), by decide +kernel⟩

theorem wit_MonitorCommands_6 : ∃ (s : State) (h : HoopId) (c : _), passes s h 0 0x45 c calCfgVerb = true :=
  ⟨(sA (withCmd 0 (adm 0x45 ([1] ++ leBytes 2 30)) (hA))), HoopId.hoopA, (cmdOf (adm 0x45 ([1] ++ leBytes 2 30))), by decide +kernel⟩

theorem wit_CalibrationRows_0 : ∃ (s : State) (h : HoopId) (x : Hoop) (k : _), s.here h x ∧ x.mon.calEn = true ∧ x.mon.calRun = false ∧ nearSetpoint x = true ∧ x.mon.calEnd + x.mon.calInterval.toNat * 1000000000 ≤ x.now ∧ calNext x 0 = some k ∧ (x.mayDefer && historyFirst x && x.wlm.telDeferred) = false :=
  ⟨(sA { hA with tec := { hA.tec with z0 := { hA.tec.z0 with t := 4000, mean := 4000 }, z1 := { hA.tec.z1 with t := 4000, mean := 4000 } }, mon := { hA.mon with calEn := true, calInterval := 0 } }), HoopId.hoopA, _, 0, ⟨rfl, rfl⟩, by decide +kernel⟩

theorem wit_CalibrationRows_1 : ∃ (s : State) (h : HoopId) (x : Hoop) (q : _), s.here h x ∧ x.mon.cal = some q ∧ x.mon.calPaused = false ∧ q.hold = false ∧ q.ph = .zero1 :=
  ⟨(sA { hA with tec := { hA.tec with z0 := { hA.tec.z0 with t := 4000, mean := 4000 }, z1 := { hA.tec.z1 with t := 4000, mean := 4000 } }, mon := { hA.mon with calEn := true, calRun := true, cal := some ({ chan := 7, ph := .zero1, avgs := [100], retry := false, hold := false } : Cal) } }), HoopId.hoopA, _, ({ chan := 7, ph := .zero1, avgs := [100], retry := false, hold := false } : Cal), ⟨rfl, rfl⟩, by decide +kernel⟩

theorem wit_CalibrationRows_2 : ∃ (s : State) (h : HoopId) (x : Hoop) (q : _), s.here h x ∧ x.mon.cal = some q ∧ x.mon.calPaused = false ∧ q.hold = false ∧ q.ph = .lvl0 :=
  ⟨(sA { hA with tec := { hA.tec with z0 := { hA.tec.z0 with t := 4000, mean := 4000 }, z1 := { hA.tec.z1 with t := 4000, mean := 4000 } }, mon := { hA.mon with calEn := true, calRun := true, cal := some ({ chan := 7, ph := .lvl0, avgs := [100, 100, 100], retry := false, hold := false } : Cal) } }), HoopId.hoopA, _, ({ chan := 7, ph := .lvl0, avgs := [100, 100, 100], retry := false, hold := false } : Cal), ⟨rfl, rfl⟩, by decide +kernel⟩

theorem wit_CalibrationRows_3 : ∃ (s : State) (h : HoopId) (x : Hoop) (q : _) (avg : _), s.here h x ∧ x.mon.cal = some q ∧ x.mon.calPaused = false ∧ q.hold = false ∧ q.ph = .zero2 ∧ planeElsewhere s h = false ∧ ((q.avgs ++ [avg]).map (ofsTrim x)).all trimOk = true :=
  ⟨(sA { hA with tec := { hA.tec with z0 := { hA.tec.z0 with t := 4000, mean := 4000 }, z1 := { hA.tec.z1 with t := 4000, mean := 4000 } }, mon := { hA.mon with calEn := true, calRun := true, cal := some ({ chan := 7, ph := .zero2, avgs := [0, 0], retry := false, hold := false } : Cal) } }), HoopId.hoopA, _, ({ chan := 7, ph := .zero2, avgs := [0, 0], retry := false, hold := false } : Cal), 0, ⟨rfl, rfl⟩, by decide +kernel⟩

theorem wit_CalibrationRows_4 : ∃ (s : State) (h : HoopId) (x : Hoop) (g : _) (mid : Nat), s.here h x ∧ x.mon.spare0.toNat = g ∧ x.mon.spare0Perm = false ∧ Int.natAbs ((mid : Int) - 32768) ≤ 16 ∧ x.mon.adcCal = [] :=
  ⟨(sA { hA with tec := { hA.tec with z0 := { hA.tec.z0 with t := 4000, mean := 4000 }, z1 := { hA.tec.z1 with t := 4000, mean := 4000 } }, mon := { hA.mon with spare0 := 2 } }), HoopId.hoopA, _, 2, 32770, ⟨rfl, rfl⟩, by decide +kernel⟩

theorem wit_CalibrationRows_5 : ∃ (s : State) (h : HoopId) (x : Hoop) (g : _) (g' : _) (gs : _) (mid : Nat), s.here h x ∧ x.mon.spare0.toNat = g ∧ x.mon.spare0Perm = false ∧ Int.natAbs ((mid : Int) - 32768) ≤ 16 ∧ x.mon.adcCal = g' :: gs :=
  ⟨(sA { hA with tec := { hA.tec with z0 := { hA.tec.z0 with t := 4000, mean := 4000 }, z1 := { hA.tec.z1 with t := 4000, mean := 4000 } }, mon := { hA.mon with spare0 := 2, adcCal := [4, 5] } }), HoopId.hoopA, _, 2, 4, [5], 32770, ⟨rfl, rfl⟩, by decide +kernel⟩

theorem wit_LoopCommands_0 : ∃ (s : State) (h : HoopId) (c : _), passes s h 0 0x46 c loopSetVerb = true :=
  ⟨(sA (withCmd 0 (adm 0x46 ([5] ++ leBytes 4 0x4000 ++ leBytes 4 0x333 ++ leBytes 4 0 ++ leBytes 2 0x8000 ++ leBytes 4 0xFC000000 ++ leBytes 4 0x4000000 ++ leBytes 4 0x10001 ++ leBytes 2 64 ++ [1])) (hA))), HoopId.hoopA, (cmdOf (adm 0x46 ([5] ++ leBytes 4 0x4000 ++ leBytes 4 0x333 ++ leBytes 4 0 ++ leBytes 2 0x8000 ++ leBytes 4 0xFC000000 ++ leBytes 4 0x4000000 ++ leBytes 4 0x10001 ++ leBytes 2 64 ++ [1]))), by decide +kernel⟩

theorem wit_LoopCommands_1 : ∃ (s : State) (h : HoopId) (c : _), passes s h 0 0x47 c loopAssignVerb = true :=
  ⟨(sA (withCmd 0 (adm 0x47 (leBytes 2 832 ++ leBytes 2 4 ++ [5])) (hA))), HoopId.hoopA, (cmdOf (adm 0x47 (leBytes 2 832 ++ leBytes 2 4 ++ [5]))), by decide +kernel⟩

theorem wit_LoopCommands_2 : ∃ (s : State) (h : HoopId) (c : _), passes s h 0 0x50 c samplerRestoreVerb = true :=
  ⟨(sA (withCmd 0 (bare 0x50) (hA))), HoopId.hoopA, (cmdOf (bare 0x50)), by decide +kernel⟩

theorem wit_LoopRows_0 : ∃ (s : State) (h : HoopId) (x : Hoop) (e : _), s.here h x ∧ (x.setOf e).dither = true ∧ (((x.loop e).st = .closed ∨ (x.loop e).st = .hold)) :=
  ⟨(sA { hA with bob := { hA.bob with loops := [(5, { set := 1, st := .closed, lx := 500, ls := 900, lm := 40 })] } }), HoopId.hoopA, _, 5, ⟨rfl, rfl⟩, by decide +kernel⟩

theorem wit_LoopRows_1 : ∃ (s : State) (h : HoopId) (x : Hoop) (e : _), s.here h x ∧ (x.loop e).st = .hold :=
  ⟨(sA { hA with bob := { hA.bob with loops := [(5, { st := .hold, i := 6553600, p := 65536, d := 10 })] } }), HoopId.hoopA, _, 5, ⟨rfl, rfl⟩, by decide +kernel⟩

theorem wit_LoopRows_2 : ∃ (s : State) (h : HoopId) (x : Hoop) (e : _) (l : _), s.here h x ∧ smFind x.bob.loops e = some l :=
  ⟨(sA { hA with bob := { hA.bob with loops := [(5, { lag := [65536, 0, 0, 0] })] } }), HoopId.hoopA, _, 5, { lag := [65536, 0, 0, 0] }, ⟨rfl, rfl⟩, by decide +kernel⟩

theorem wit_LoopRows_3 : ∃ (s : State) (h : HoopId) (x : Hoop), s.here h x :=
  ⟨(sA { { hA with bob := { hA.bob with loops := [(5, { st := .closed, u := 900, ff := 900 })] } } with drv := { hA.drv with hCeil := 10 } }), HoopId.hoopA, _, ⟨rfl, rfl⟩⟩

theorem wit_LoopRows_4 : ∃ (s : State) (h : HoopId) (x : Hoop), s.here h x :=
  ⟨(sA { hA with bob := { hA.bob with swapPend := 9, shadows := hA.bob.shadows.set 3 { kp := 7 } } }), HoopId.hoopA, _, ⟨rfl, rfl⟩⟩

theorem wit_LoopRows_5 : ∃ (s : State) (h : HoopId) (x : Hoop) (e : _) (mean : _) (m : _), s.here h x ∧ (x.loop e).st = .closed ∧ (x.loop e).stableFrom + 60000000000 ≤ x.now ∧ through x e ≠ [] ∧ (∀ i ∈ through x e, (x.carrier i).st = .verified ∧ (x.carrier i).vSince + 60000000000 ≤ x.now) ∧ m = clampI mean (divRound (x.loop e).stableLo 65536) (divRound (x.loop e).stableHi 65536) ∧ m ≠ 0 :=
  ⟨(sA { hT .verified with tb := { hA.tb with acc := 0x4000000000000000, wrap := 100 }, rmap := { stitch := [(5, [3])] }, bob := { hA.bob with loops := [(5, { st := .closed, i := 655360, stableLo := 0, stableHi := 655360 })] } }), HoopId.hoopA, _, 5, 7, 7, ⟨rfl, rfl⟩, by decide +kernel⟩

theorem wit_ThermalCommands_0 : ∃ (s : State) (h : HoopId) (c : _), passes s h 0 0x4A c setpointVerb = true :=
  ⟨(sA (withCmd 0 (adm 0x4A ([0] ++ leBytes 2 4500)) (hA))), HoopId.hoopA, (cmdOf (adm 0x4A ([0] ++ leBytes 2 4500))), by decide +kernel⟩

theorem wit_ThermalCommands_1 : ∃ (s : State) (h : HoopId) (c : _), passes s h 0 0x48 c tecDriveVerb = true :=
  ⟨(sA (withCmd 0 (adm 0x48 (leBytes 2 2000 ++ leBytes 2 20 ++ leBytes 2 5000 ++ leBytes 2 4000)) (hA))), HoopId.hoopA, (cmdOf (adm 0x48 (leBytes 2 2000 ++ leBytes 2 20 ++ leBytes 2 5000 ++ leBytes 2 4000))), by decide +kernel⟩

theorem wit_ThermalCommands_2 : ∃ (s : State) (h : HoopId) (c : _) (z : _), passes s h 0 0x49 c tecCoefVerb = true ∧ z = (field (paramOf c.bytes) 0 1 == 1) :=
  ⟨(sA (withCmd 0 (adm 0x49 ([1] ++ leBytes 4 0x4000 ++ leBytes 4 7 ++ leBytes 4 0 ++ leBytes 2 0 ++ leBytes 4 0xFFFF0000 ++ leBytes 4 0x10000 ++ [1])) (hA))), HoopId.hoopA, (cmdOf (adm 0x49 ([1] ++ leBytes 4 0x4000 ++ leBytes 4 7 ++ leBytes 4 0 ++ leBytes 2 0 ++ leBytes 4 0xFFFF0000 ++ leBytes 4 0x10000 ++ [1]))), true, by decide +kernel⟩

theorem wit_ThermalCommands_3 : ∃ (s : State) (h : HoopId) (c : _), passes s h 0 0x4C c tripClearVerb = true ∧ ((s.hoop h).tec.z0.tripLive || (s.hoop h).tec.z1.tripLive) = true :=
  ⟨(sA (withCmd 0 (bare 0x4C) ({ hA with tec := { hA.tec with z0 := { hA.tec.z0 with trip := true, tripLive := true } } }))), HoopId.hoopA, (cmdOf (bare 0x4C)), by decide +kernel⟩

theorem wit_ThermalCommands_4 : ∃ (s : State) (h : HoopId) (c : _), passes s h 0 0x4C c tripClearVerb = true ∧ ((s.hoop h).tec.z0.tripLive || (s.hoop h).tec.z1.tripLive) = false :=
  ⟨(sA (withCmd 0 (bare 0x4C) ({ hA with tec := { hA.tec with z0 := { hA.tec.z0 with trip := true }, en := true, drive := true } }))), HoopId.hoopA, (cmdOf (bare 0x4C)), by decide +kernel⟩

theorem wit_ThermalCommands_5 : ∃ (s : State) (h : HoopId) (c : _), passes s h 0 0x4B c tecEnableVerb = true ∧ field (paramOf c.bytes) 0 1 = 1 :=
  ⟨(sA (withCmd 0 (adm 0x4B [1]) ({ hA with tec := { hA.tec with z0 := { hA.tec.z0 with d := 7 }, drive := true } }))), HoopId.hoopA, (cmdOf (adm 0x4B [1])), by decide +kernel⟩

theorem wit_ThermalCommands_6 : ∃ (s : State) (h : HoopId) (c : _), passes s h 0 0x4B c tecEnableVerb = true ∧ field (paramOf c.bytes) 0 1 = 0 :=
  ⟨(sA (withCmd 0 (adm 0x4B [0]) ({ hA with tec := { hA.tec with z0 := { hA.tec.z0 with running := true }, en := true } }))), HoopId.hoopA, (cmdOf (adm 0x4B [0])), by decide +kernel⟩

theorem wit_ThermalCommands_7 : ∃ (s : State) (h : HoopId) (c : _), passes s h 0 0x4D c thresholdsVerb = true :=
  ⟨(sA (withCmd 0 (adm 0x4D [0, 90, 100, 112]) (hA))), HoopId.hoopA, (cmdOf (adm 0x4D [0, 90, 100, 112])), by decide +kernel⟩

theorem wit_ThermalCommands_8 : ∃ (s : State) (h : HoopId) (c : _) (m : _), passes s h 0 0x4E c thmModelVerb = true ∧ m = field (paramOf c.bytes) 0 1 :=
  ⟨(sA (withCmd 0 (adm 0x4E ([2] ++ leBytes 4 12000 ++ leBytes 2 3400)) (hA))), HoopId.hoopA, (cmdOf (adm 0x4E ([2] ++ leBytes 4 12000 ++ leBytes 2 3400))), 2, by decide +kernel⟩

theorem wit_SensorRows_0 : ∃ (s : State) (h : HoopId) (x : Hoop) (volts : List Int) (temps : List Int) (j : _), s.here h x ∧ temps = diodeTemps volts ∧ standsBy s h = false ∧ j < 32 :=
  ⟨(sA hA), HoopId.hoopA, _, [], _, 5, ⟨rfl, rfl⟩, rfl, by decide +kernel⟩

theorem wit_SensorRows_1 : ∃ (s : State) (h : HoopId) (x : Hoop) (j : _), s.here h x ∧ j < 32 :=
  ⟨(sA { hA with ths := { hA.ths with diodes := [(5, { sum := 8100, cnt := 2 })] } }), HoopId.hoopA, _, 5, ⟨rfl, rfl⟩, by decide +kernel⟩

def wSensorRows_2 : State := (sA { hA with ths := { hA.ths with diodes := (List.range 32).map (fun k => (k, { mean := if k = 9 then 4300 else 4000 })) } })
theorem wit_SensorRows_2 : ∃ (s : State) (h : HoopId) (x : Hoop) (j : _) (d : _) (n : _), s.here h x ∧ deviation x j = some d ∧ n = (if 250 < d then (x.diode j).strikes.toNat + 1 else 0) ∧ j < 32 ∧ (x.diode j).suspect = false :=
  ⟨wSensorRows_2, HoopId.hoopA, _, 9, ((deviation (wSensorRows_2.hoop HoopId.hoopA) 9).getD 0), (if 250 < ((deviation (wSensorRows_2.hoop HoopId.hoopA) 9).getD 0) then 1 else 0), ⟨rfl, rfl⟩, rfl, rfl, by decide +kernel⟩

theorem wit_SensorRows_3 : ∃ (s : State) (h : HoopId) (x : Hoop) (temps : List Int), s.here h x ∧ temps.length = 8 :=
  ⟨(sA hA), HoopId.hoopA, _, [5000, 5100, 4900, 5000, 5000, 5000, 6000, 5000], ⟨rfl, rfl⟩, by decide +kernel⟩

theorem wit_SensorRows_4 : ∃ (s : State) (h : HoopId) (x : Hoop) (r0 : _) (r1 : _) (r2 : _) (r3 : _) (m : _) (t : _), s.here h x ∧ t = Config.thermistor ([r0, r1, r2, r3].getD m 0) (x.ths.thmR25.getD m 10000) (x.ths.thmB.getD m 3435) ∧ standsBy s h = false ∧ m < 4 :=
  ⟨(sA hA), HoopId.hoopA, _, 10000, 9000, 0, 11000, 1, (Config.thermistor 9000 10000 3435), ⟨rfl, rfl⟩, rfl, by decide +kernel⟩

theorem wit_ThermalRows_0 : ∃ (s : State) (h : HoopId) (x : Hoop) (g : _), s.here h x ∧ g < 4 ∧ lvlFixed x g = false ∧ (thrOf x g).2 ≤ (thrOf x g).1 ∧ 1 ≤ lvlOf x g ∧ lvlOf x g < 7 ∧ sinceOf x g + 500000000 ≤ x.now :=
  ⟨(sA { hA with tb := { hA.tb with wrap := 2 }, ths := { hA.ths with peak := 8000, latLvl := 2, latSince := 0 } }), HoopId.hoopA, _, 1, ⟨rfl, rfl⟩, by decide +kernel⟩

theorem wit_ThermalRows_1 : ∃ (s : State) (h : HoopId) (x : Hoop) (g : _), s.here h x ∧ g < 4 ∧ lvlFixed x g = false ∧ (thrOf x g).1 ≤ (thrOf x g).2 - 500 ∧ 1 ≤ lvlOf x g ∧ sinceOf x g + 2000000000 ≤ x.now :=
  ⟨(sA { hA with tb := { hA.tb with wrap := 2 }, ths := { hA.ths with peak := 3000, latLvl := 2, latSince := 0 } }), HoopId.hoopA, _, 1, ⟨rfl, rfl⟩, by decide +kernel⟩

theorem wit_ThermalRows_2 : ∃ (s : State) (h : HoopId) (x : Hoop) (z : _) (b : _), s.here h x ∧ b = (z % 2 == 1) :=
  ⟨(sA { hA with tec := { hA.tec with z1 := { hA.tec.z1 with shadow := 700, restart := true }, en := true, drive := true } }), HoopId.hoopA, _, 1, true, ⟨rfl, rfl⟩, by decide +kernel⟩

theorem wit_ThermalRows_3 : ∃ (s : State) (h : HoopId) (x : Hoop) (z : _) (b : _), s.here h x ∧ z < 2 ∧ b = (z == 1) :=
  ⟨(sA hA), HoopId.hoopA, _, 0, false, ⟨rfl, rfl⟩, by decide +kernel⟩

theorem wit_ThermalRows_4 : ∃ (s : State) (h : HoopId) (x : Hoop) (z : _) (b : _), s.here h x ∧ z < 2 ∧ b = (z == 1) :=
  ⟨(sA hA), HoopId.hoopA, _, 1, true, ⟨rfl, rfl⟩, by decide +kernel⟩

theorem wit_ThermalRows_5 : ∃ (s : State) (h : HoopId) (x : Hoop) (z : _) (b : _), s.here h x ∧ z < 2 ∧ b = (z == 1) :=
  ⟨(sA { hA with tec := { hA.tec with z0 := { hA.tec.z0 with trip := true, tripLive := true } } }), HoopId.hoopA, _, 0, false, ⟨rfl, rfl⟩, by decide +kernel⟩

theorem wit_ThermalRows_6 : ∃ (s : State) (h : HoopId) (x : Hoop) (avg : _) (v : _), s.here h x ∧ standsBy s h = false ∧ x.tec.src ≠ 0 ∧ pinLost x.tec.src.toNat avg = false ∧ v = clampI (pinSp x.tec.src.toNat avg) 1500 6500 :=
  ⟨(sA { hA with tec := { hA.tec with src := 1, spLost := true } }), HoopId.hoopA, _, 1400000, 4300, ⟨rfl, rfl⟩, by decide +kernel⟩

theorem wit_ThermalRows_7 : ∃ (s : State) (h : HoopId) (x : Hoop), s.here h x ∧ x.tec.src ≠ 0 ∧ x.tec.spLost = false :=
  ⟨(sA { hA with tec := { hA.tec with src := 1 } }), HoopId.hoopA, _, ⟨rfl, rfl⟩, by decide +kernel⟩

theorem wit_ThermalRows_8 : ∃ (s : State) (h : HoopId) (x : Hoop), s.here h x ∧ x.slice.rebuilding = true :=
  ⟨(sA { hA with slice := { rebuilding := true, rebuildTemp := 4100 } }), HoopId.hoopA, _, ⟨rfl, rfl⟩, by decide +kernel⟩

theorem wit_StagingOperations_0 : ∃ (s : State) (h : HoopId) (x : Hoop) (o : _) (c : _) (cs : _) (bad1 : _) (bad2 : _), s.here h x ∧ takes x 1 = some o ∧ x.tmb.patches 1 = false ∧ stageCommits x o = c :: cs ∧ x.now + 500 ≤ c.epoch ∧ c.epoch ≤ x.now + 2000000000 ∧ x.ths.commitOk = true ∧ readBad (stageDeltaOf x (c :: cs)) bad1 bad2 = [] :=
  ⟨(sA { hR with cm := { pending := [({ seq := 9, ring := 0, tenant := 0, epochNs := 0x40100000, epoch := 0x40100000, changes := [({ kind := .create, inPort := 3, before := {}, after := threadIn .none } : Change)], delta := [({ elem := 835, st := .eyOpen, ncode := 7, hff := 0, hrange := false, band := false, mixed := false, moved := false } : DeltaEntry)], chans := [835], deps := [], stage := .posted } : Commit)] }, tmb := { st := .idle, normal := [{ code := 1, seq := 144 }] } }), HoopId.hoopA, _, { code := 1, seq := 144 }, ({ seq := 9, ring := 0, tenant := 0, epochNs := 0x40100000, epoch := 0x40100000, changes := [({ kind := .create, inPort := 3, before := {}, after := threadIn .none } : Change)], delta := [({ elem := 835, st := .eyOpen, ncode := 7, hff := 0, hrange := false, band := false, mixed := false, moved := false } : DeltaEntry)], chans := [835], deps := [], stage := .posted } : Commit), [], [835], [], ⟨rfl, rfl⟩, by decide +kernel⟩

theorem wit_StagingOperations_1 : ∃ (s : State) (h : HoopId) (x : Hoop) (o : _) (bad1 : _) (bad2 : _), s.here h x ∧ takes x 2 = some o ∧ x.tmb.patches 2 = false ∧ x.now + 500 ≤ x.prk.nextEpoch ∧ entryFits x (prkDelta x).length = true ∧ prkDelta x ≠ [] ∧ readBad (prkDelta x) bad1 bad2 = [] :=
  ⟨(sA { hL with tmb := { st := .idle, normal := [{ code := 2 }] }, drv := { hL.drv with needles := [(835, { reg := 5 })] }, prk := { hL.prk with lit := [3], started := true, cycleNum := 107376, nextEpoch := 1073770000 } }), HoopId.hoopA, _, { code := 2 }, [], [], ⟨rfl, rfl⟩, by decide +kernel⟩

theorem wit_TambourOperations_0 : ∃ (s : State) (h : HoopId) (x : Hoop) (o : _), s.here h x ∧ s.quiet = true ∧ takes x 3 = some o ∧ x.tmb.patches 3 = false :=
  ⟨(sA { { hR with cm := { pending := [] }, tmb := { st := .idle, normal := [{ code := 3 }] } } with drv := { hR.drv with needles := [(7, { bank0 := 3, bank1 := 9, reg := 3 })] } }), HoopId.hoopA, _, { code := 3 }, ⟨rfl, rfl⟩, by decide +kernel⟩

theorem wit_TambourOperations_1 : ∃ (s : State) (h : HoopId) (x : Hoop) (o : _) (t : _), s.here h x ∧ s.quiet = true ∧ takes x 4 = some o ∧ x.tmb.patches 4 = false ∧ o.tiles.contains t = true ∧ x.drv.refRun = true :=
  ⟨(sA { { hR with cm := { pending := [] }, tmb := { st := .idle, normal := [{ code := 4, tiles := [26] }] } } with drv := { hR.drv with refRun := true } }), HoopId.hoopA, _, { code := 4, tiles := [26] }, 26, ⟨rfl, rfl⟩, by decide +kernel⟩

theorem wit_TambourOperations_2 : ∃ (s : State) (h : HoopId) (x : Hoop) (o : _) (g : _), s.here h x ∧ takes x 8 = some o ∧ x.tmb.patches 8 = false ∧ o.group = g :=
  ⟨(sA (({ hR with cm := { pending := [] }, tmb := { st := .idle, normal := [{ code := 8, group := 2 }] } } : Hoop).updGroup 2 (fun v => { v with injQueue := [{ chan := 260, seq := 1, from_ := 9 }] }))), HoopId.hoopA, _, { code := 8, group := 2 }, 2, ⟨rfl, rfl⟩, by decide +kernel⟩

theorem wit_TambourOperations_3 : ∃ (s : State) (h : HoopId) (x : Hoop) (o : _) (k : _), s.here h x ∧ takes x 9 = some o ∧ x.tmb.patches 9 = false ∧ o.cmp = some k :=
  ⟨(sA { hR with tmb := { st := .idle, dacStaged := true, urgent := [{ code := 9, cmp := some 2 }] }, tb := { hA.tb with cmps := [(2, { t16 := 0x401000000, armed := true })] } }), HoopId.hoopA, _, { code := 9, cmp := some 2 }, 2, ⟨rfl, rfl⟩, by decide +kernel⟩

theorem wit_TambourOperations_4 : ∃ (s : State) (h : HoopId) (x : Hoop) (o : _), s.here h x ∧ s.quiet = true ∧ takes x 0x10 = some o ∧ x.tmb.patches 0x10 = false :=
  ⟨(sA { hR with tmb := { st := .idle, darkReq := 8 } }), HoopId.hoopA, _, { code := 0x10 }, ⟨rfl, rfl⟩, by decide +kernel⟩

theorem wit_TambourOperations_5 : ∃ (s : State) (h : HoopId) (x : Hoop), s.here h x ∧ x.tmb.runs = true ∧ x.tmb.hold = false ∧ x.tmb.darkReq = 0 ∧ x.tmb.patches 0 = false :=
  ⟨(sA hR), HoopId.hoopA, _, ⟨rfl, rfl⟩, by decide +kernel⟩

theorem wit_TambourOperations_6 : ∃ (s : State) (h : HoopId) (x : Hoop) (code : _), s.here h x ∧ x.tmb.runs = true ∧ x.tmb.hold = false ∧ x.tmb.darkReq = 0 ∧ reservedCode code = true ∧ x.tmb.patches code = false :=
  ⟨(sA hR), HoopId.hoopA, _, 5, ⟨rfl, rfl⟩, by decide +kernel⟩

theorem wit_TambourOperations_7 : ∃ (s : State) (h : HoopId) (x : Hoop) (o : _) (a : _), s.here h x ∧ takes x 3 = some o ∧ patchEntry x.tmb 3 = some a :=
  ⟨(sA { hR with tmb := { st := .idle, normal := [{ code := 3 }], overrides := [(3, 0x80000010)] } }), HoopId.hoopA, _, { code := 3 }, 0xF10, ⟨rfl, rfl⟩, by decide +kernel⟩

theorem wit_TambourStops_0 : ∃ (s : State) (h : HoopId) (x : Hoop) (src : _), s.here h x ∧ x.tmb.stopReq = some src ∧ x.tmb.run = none :=
  ⟨(sA { hR with tmb := { st := .idle, stopReq := some 16 }, cm := { pending := [({ seq := 9, ring := 0, tenant := 0, epochNs := 0x40100000, epoch := 0x40100000, changes := [({ kind := .create, inPort := 3, before := {}, after := threadIn .none } : Change)], delta := [({ elem := 835, st := .eyOpen, ncode := 7, hff := 0, hrange := false, band := false, mixed := false, moved := false } : DeltaEntry)], chans := [835], deps := [], stage := .posted } : Commit)] } }), HoopId.hoopA, _, 16, ⟨rfl, rfl⟩, by decide +kernel⟩

theorem wit_TambourStops_1 : ∃ (s : State) (h : HoopId) (x : Hoop) (src : _), s.here h x ∧ x.tmb.stopReq = some src ∧ x.tmb.run = none :=
  ⟨(sA { hR with tmb := { st := .idle, stopReq := some 16 }, cm := { pending := [({ seq := 9, ring := 0, tenant := 0, epochNs := 0x40100000, epoch := 0x40100000, changes := [({ kind := .create, inPort := 3, before := {}, after := threadIn .none } : Change)], delta := [({ elem := 835, st := .eyOpen, ncode := 7, hff := 0, hrange := false, band := false, mixed := false, moved := false } : DeltaEntry)], chans := [835], deps := [], stage := .posted } : Commit)] } }), HoopId.hoopA, _, 16, ⟨rfl, rfl⟩, by decide +kernel⟩

theorem wit_TambourStops_2 : ∃ (s : State) (h : HoopId) (x : Hoop), s.here h x ∧ ((x.tmb.st = .idle ∨ x.tmb.st = .running ∨ x.tmb.st = .waiting)) :=
  ⟨(sA hR), HoopId.hoopA, _, ⟨rfl, rfl⟩, by decide +kernel⟩

theorem wit_TambourStops_3 : ∃ (s : State) (h : HoopId) (x : Hoop), s.here h x :=
  ⟨(sA hR), HoopId.hoopA, _, ⟨rfl, rfl⟩⟩

theorem wit_TambourStops_4 : ∃ (s : State) (h : HoopId) (x : Hoop), s.here h x :=
  ⟨(sA hR), HoopId.hoopA, _, ⟨rfl, rfl⟩⟩

theorem wit_TambourStops_5 : ∃ (s : State) (h : HoopId) (x : Hoop), s.here h x :=
  ⟨(sA hR), HoopId.hoopA, _, ⟨rfl, rfl⟩⟩

theorem wit_TambourStops_6 : ∃ (s : State) (h : HoopId) (x : Hoop) (cond : _), s.here h x ∧ x.tmb.runs = true ∧ 1 ≤ cond ∧ cond ≤ 5 :=
  ⟨(sA hR), HoopId.hoopA, _, 3, ⟨rfl, rfl⟩, by decide +kernel⟩

theorem wit_TambourStops_7 : ∃ (s : State) (h : HoopId) (x : Hoop), s.here h x ∧ x.tmb.st = .stopped :=
  ⟨(sA { hR with tmb := { st := .stopped, hold := true, abortValid := true, abortInfo := 1, abortCtx := 8192, stopped := some { code := 1 } } }), HoopId.hoopA, _, ⟨rfl, rfl⟩, by decide +kernel⟩

theorem wit_TambourStops_8 : ∃ (s : State) (h : HoopId) (x : Hoop), s.here h x ∧ x.tmb.st = .idle ∧ (x.tmb.urgent.any (·.roll)) = false ∧ (x.tmb.normal.any (·.roll)) = false :=
  ⟨(sA { hR with tmb := { st := .idle, hold := true } }), HoopId.hoopA, _, ⟨rfl, rfl⟩, by decide +kernel⟩

theorem wit_CollectorRows_0 : ∃ (s : State) (h : HoopId) (x : Hoop) (src : _) (sev : _), s.here h x ∧ sevOf src = some sev :=
  ⟨(sA hR), HoopId.hoopA, _, 34, 3, ⟨rfl, rfl⟩, by decide +kernel⟩

theorem wit_CollectorRows_1 : ∃ (s : State) (h : HoopId) (x : Hoop) (src : _), s.here h x ∧ sevOf src = none :=
  ⟨(sA hR), HoopId.hoopA, _, 27, ⟨rfl, rfl⟩, by decide +kernel⟩

theorem wit_CollectorRows_2 : ∃ (s : State) (h : HoopId) (x : Hoop), s.here h x :=
  ⟨(sA (hR.setSrc 34 { live := true, sticky := true })), HoopId.hoopA, _, ⟨rfl, rfl⟩⟩

theorem wit_CollectorRows_3 : ∃ (s : State) (h : HoopId) (x : Hoop) (src : _), s.here h x ∧ (sevOf src).isSome = true ∧ (x.src src).agree = false :=
  ⟨(sA hR), HoopId.hoopA, _, 34, ⟨rfl, rfl⟩, by decide +kernel⟩

theorem wit_CollectorRows_4 : ∃ (s : State) (h : HoopId) (x : Hoop) (w : _), s.here h x ∧ w < 7 :=
  ⟨(sA (hR.setSrc 34 { sticky := true })), HoopId.hoopA, _, 1, ⟨rfl, rfl⟩, by decide +kernel⟩

theorem wit_CollectorRows_5 : ∃ (s : State) (h : HoopId) (x : Hoop) (w : _), s.here h x ∧ w < 7 :=
  ⟨(sA (hR.setSrc 34 { wire := true })), HoopId.hoopA, _, 1, ⟨rfl, rfl⟩, by decide +kernel⟩

theorem wit_CollectorRows_6 : ∃ (s : State) (h : HoopId) (x : Hoop) (v : BitVec 32), s.here h x ∧ v.getLsbD 0 = true :=
  ⟨(sA { hR with fc := { first := 0x80000322 } }), HoopId.hoopA, _, 1, ⟨rfl, rfl⟩, by decide +kernel⟩

theorem wit_CollectorRows_7 : ∃ (s : State) (h : HoopId) (x : Hoop), s.here h x ∧ x.fc.pulse = true ∧ x.fc.pulseEnd ≤ x.now :=
  ⟨(sA { hR with fc := { pulse := true, pulseEnd := 9 } }), HoopId.hoopA, _, ⟨rfl, rfl⟩, by decide +kernel⟩

theorem wit_FaultReactions_0 : ∃ (s : State) (h : HoopId) (x : Hoop) (src : _), s.here h x ∧ sevOf src = some 4 ∧ (x.src src).live = false :=
  ⟨(sA hR), HoopId.hoopA, _, 8, ⟨rfl, rfl⟩, by decide +kernel⟩

theorem wit_FaultReactions_1 : ∃ (s : State) (h : HoopId) (x : Hoop) (src : _), s.here h x ∧ sevOf src = some 3 ∧ (x.src src).live = false ∧ Config.duplex s.a.part = false :=
  ⟨(sA hR), HoopId.hoopA, _, 34, ⟨rfl, rfl⟩, by decide +kernel⟩

theorem wit_FaultReactions_2 : ∃ (s : State) (h : HoopId) (x : Hoop) (src : _), s.here h x ∧ s.quiet = true ∧ sevOf src = some 3 ∧ Config.duplex s.a.part = true ∧ x.pair.role = .active ∧ x.dk.force = false ∧ (s.hoop (other h)).eligFault = true :=
  ⟨(sD (hA .qn0512d) hB), HoopId.hoopA, _, 34, ⟨rfl, rfl⟩, by decide +kernel⟩

theorem wit_FaultReactions_3 : ∃ (s : State) (h : HoopId) (x : Hoop) (src : _), s.here h x ∧ s.quiet = true ∧ sevOf src = some 3 ∧ Config.duplex s.a.part = true ∧ x.pair.role = .active ∧ (s.hoop (other h)).eligFault = false :=
  ⟨(sD (hA .qn0512d) { hB with pair := { role := .monitor } }), HoopId.hoopA, _, 34, ⟨rfl, rfl⟩, by decide +kernel⟩

theorem wit_KeeperRows_0 : ∃ (s : State) (h : HoopId) (x : Hoop), s.here h x :=
  ⟨(sA hR), HoopId.hoopA, _, ⟨rfl, rfl⟩⟩

theorem wit_KeeperRows_1 : ∃ (s : State) (h : HoopId) (x : Hoop) (flipped : _), s.here h x ∧ (x.dk.armed || x.dk.imageBad) = true ∧ (x.dk.imageBad || flipped || keeperCrc x x.dk.codes != x.dk.crc) = true :=
  ⟨(sA { hR with dk := { armed := true } }), HoopId.hoopA, _, true, ⟨rfl, rfl⟩, by decide +kernel⟩

theorem wit_KeeperRows_2 : ∃ (s : State) (h : HoopId) (x : Hoop), s.here h x ∧ keeperCrc x x.dk.codes = x.dk.crc ∧ x.dk.imageBad = false :=
  ⟨(sA { hR with dk := { armed := true, crc := keeperCrc hR [] } }), HoopId.hoopA, _, ⟨rfl, rfl⟩, rfl, by decide +kernel⟩

def wKeeperRows_3 : State := (sA (withCmd 0 (bare 0x51) ({ hR with slice := { headerOk := true }, dk := { force := true }, tmb := {} })))
theorem wit_KeeperRows_3 : ∃ (s : State) (h : HoopId) (c : _) (u : _), u = darkReleaseRun h s ∧ releasable (u.hoop h) = true ∧ s.quiet = true ∧ passes u h 0 0x51 c darkReleaseVerb = true ∧ moduleDark (u.hoop h) (u.hoop (other h)) = true ∧ ((Config.duplex (u.hoop h).part = true → releasable (u.hoop (other h)) = true)) :=
  ⟨wKeeperRows_3, HoopId.hoopA, (cmdOf (bare 0x51)), (darkReleaseRun HoopId.hoopA wKeeperRows_3), rfl, (by simp only [releasable]; rw [allDark_blank] <;> decide +kernel), by decide +kernel⟩

def wKeeperRows_4 : State := (sA (withCmd 0 (bare 0x51) ({ hR with dk := { force := true }, tmb := {} })))
theorem wit_KeeperRows_4 : ∃ (s : State) (h : HoopId) (c : _) (u : _), u = darkReleaseRun h s ∧ s.quiet = true ∧ passes u h 0 0x51 c darkReleaseVerb = true ∧ moduleDark (u.hoop h) (u.hoop (other h)) = true ∧ releasable (u.hoop h) = false :=
  ⟨wKeeperRows_4, HoopId.hoopA, (cmdOf (bare 0x51)), (darkReleaseRun HoopId.hoopA wKeeperRows_4), rfl, by decide +kernel⟩

theorem wit_KeeperRows_5 : ∃ (s : State) (h : HoopId) (x : Hoop) (k : _), s.here h x ∧ s.has k = true ∧ s.quiet = true ∧ x.dk.relAccepted = true ∧ (s.hoop k).dk.force = true :=
  ⟨(sA { hR with dk := { force := true, relAccepted := true } }), HoopId.hoopA, _, .hoopA, ⟨rfl, rfl⟩, by decide +kernel⟩

theorem wit_JournalRows_0 : ∃ (s : State) (h : HoopId) (x : Hoop) (mv : _) (j : _), s.here h x ∧ burstDue x = true ∧ x.jnl.deferred = false ∧ x.jnl.holdupMin.toNat ≤ mv ∧ x.ths.mramOk = true ∧ x.jnl.loss = none ∧ x.jnl.buf = [j] ∧ x.mwrites = [] ∧ (x.src 9).live = false :=
  ⟨(sA { hR with jnl := { buf := [({ type := 7, sev := 0xFF, flags := 0, stamp := 0, sec := 0, ns := 0, source := 0, payload := List.replicate 36 0 } : JRec)] } }), HoopId.hoopA, _, 1000, ({ type := 7, sev := 0xFF, flags := 0, stamp := 0, sec := 0, ns := 0, source := 0, payload := List.replicate 36 0 } : JRec), ⟨rfl, rfl⟩, by decide +kernel⟩

theorem wit_JournalRows_1 : ∃ (s : State) (h : HoopId) (x : Hoop) (mv : _) (n : _), s.here h x ∧ s.poised = true ∧ burstDue x = true ∧ x.jnl.deferred = false ∧ x.jnl.holdupMin.toNat ≤ mv ∧ x.ths.mramOk = true ∧ (x.src 9).live = false ∧ n = x.jnl.buf.length + (if x.jnl.loss.isSome then 1 else 0) :=
  ⟨(sA { hR with jnl := { buf := [({ type := 7, sev := 0xFF, flags := 0, stamp := 0, sec := 0, ns := 0, source := 0, payload := List.replicate 36 0 } : JRec)] } }), HoopId.hoopA, _, 1000, 1, ⟨rfl, rfl⟩, by decide +kernel⟩

theorem wit_JournalRows_2 : ∃ (s : State) (h : HoopId) (x : Hoop) (mv : _), s.here h x ∧ burstDue x = true ∧ x.jnl.deferred = false ∧ ((mv < x.jnl.holdupMin.toNat ∨ x.ths.mramOk = false)) :=
  ⟨(sA { hR with jnl := { buf := [({ type := 7, sev := 0xFF, flags := 0, stamp := 0, sec := 0, ns := 0, source := 0, payload := List.replicate 36 0 } : JRec)] } }), HoopId.hoopA, _, 900, ⟨rfl, rfl⟩, by decide +kernel⟩

theorem wit_JournalRows_3 : ∃ (s : State) (h : HoopId) (x : Hoop) (mv : _), s.here h x ∧ x.jnl.deferred = true ∧ x.jnl.holdupMin.toNat ≤ mv ∧ x.ths.mramOk = true :=
  ⟨(sA { hR with jnl := { buf := [({ type := 7, sev := 0xFF, flags := 0, stamp := 0, sec := 0, ns := 0, source := 0, payload := List.replicate 36 0 } : JRec)], deferred := true } }), HoopId.hoopA, _, 1000, ⟨rfl, rfl⟩, by decide +kernel⟩

theorem wit_JournalRows_4 : ∃ (s : State) (h : HoopId) (x : Hoop) (mv : _) (w : _), s.here h x ∧ x.jnl.deferred = false ∧ x.mwrites = [w] ∧ x.jnl.holdupMin.toNat ≤ mv ∧ x.ths.mramOk = true :=
  ⟨(sA { hR with mwrites := [.address 9] }), HoopId.hoopA, _, 1000, .address 9, ⟨rfl, rfl⟩, by decide +kernel⟩

theorem wit_JournalRows_5 : ∃ (s : State) (h : HoopId) (c : _), passes s h 0 0x4F c holdupMinVerb = true :=
  ⟨(sA (withCmd 0 (adm 0x4F (leBytes 2 900)) (hA))), HoopId.hoopA, (cmdOf (adm 0x4F (leBytes 2 900))), by decide +kernel⟩

theorem wit_HistoryRows_0 : ∃ (s : State) (h : HoopId) (x : Hoop) (sec : _), s.here h x ∧ x.hist.present = true ∧ x.hist.failed = false ∧ (x.src 199).live = false ∧ sec = (x.tb.ptpOf x.now + 100) / 1000000000 - 1 :=
  ⟨(sA { hA .qn0128 with hist := { present := true } }), HoopId.hoopA, _, 0, ⟨rfl, rfl⟩, by decide +kernel⟩

theorem wit_HistoryRows_1 : ∃ (s : State) (h : HoopId) (x : Hoop), s.here h x ∧ x.hist.present = true ∧ x.hist.failed = false ∧ (x.src 199).live = false ∧ x.mayDefer = true ∧ x.hist.pendingSecs.length < deferCap x :=
  ⟨(sA { hA .qn0128 with hist := { present := true }, mbx := { accepted := List.replicate 10 0x40000000 } }), HoopId.hoopA, _, ⟨rfl, rfl⟩, by decide +kernel⟩

theorem wit_HistoryRows_2 : ∃ (s : State) (h : HoopId) (x : Hoop), s.here h x ∧ x.hist.present = true ∧ x.hist.failed = false ∧ (x.src 199).live = false ∧ 1 ≤ x.hist.badWrites :=
  ⟨(sA { hA .qn0128 with hist := { present := true, badWrites := 1 } }), HoopId.hoopA, _, ⟨rfl, rfl⟩, by decide +kernel⟩

theorem wit_HistoryRows_3 : ∃ (s : State) (h : HoopId) (x : Hoop) (cap : _), s.here h x ∧ x.hist.present = false ∧ (x.src 199).live = false ∧ 64000000000 ≤ cap ∧ cap ≤ 8000000000000 :=
  ⟨(sA hA), HoopId.hoopA, _, 64000000000, ⟨rfl, rfl⟩, by decide +kernel⟩

theorem wit_HistoryRows_4 : ∃ (s : State) (h : HoopId) (x : Hoop), s.here h x ∧ x.hist.present = false ∧ (x.src 199).live = false :=
  ⟨(sA hA), HoopId.hoopA, _, ⟨rfl, rfl⟩, by decide +kernel⟩

theorem wit_HistoryRows_5 : ∃ (s : State) (h : HoopId) (x : Hoop), s.here h x ∧ s.quiet = true ∧ cmpDue x 14 = true :=
  ⟨(sA { hA with tb := { hA.tb with cmps := [(14, { t16 := 0x400000000, armed := true })] } }), HoopId.hoopA, _, ⟨rfl, rfl⟩, by decide +kernel⟩

theorem wit_HistoryRows_6 : ∃ (s : State) (h : HoopId) (x : Hoop) (m : _), s.here h x ∧ x.led.closingMin = some m ∧ x.minuteStart + 10000000 ≤ x.now :=
  ⟨(sA { hA with led := { minute := 0, closingMin := some 0, closing := [{ minute := 0, tenant := 1, carry := 5, threads := [3] }] } }), HoopId.hoopA, _, 0, ⟨rfl, rfl⟩, by decide +kernel⟩

theorem wit_CounterRows_0 : ∃ (s : State) (h : HoopId) (x : Hoop), s.here h x :=
  ⟨(sA hA), HoopId.hoopA, _, ⟨rfl, rfl⟩⟩

theorem wit_CounterRows_1 : ∃ (s : State) (h : HoopId) (x : Hoop) (c : _) (inc : _), s.here h x ∧ s.poised = true ∧ x.pmc.ovf &&& ~~~x.pmc.ovfTold &&& x.pmc.ovfEn = 0 ∧ c < 256 ∧ pmcExists x.part c = true ∧ (smGet 0 x.pmc.pre c).toNat + inc < 2 ^ 48 :=
  ⟨(sA { hA with pmc := { pre := [(222, 9)] } }), HoopId.hoopA, _, 222, 3, ⟨rfl, rfl⟩, by decide +kernel⟩

theorem wit_CounterRows_2 : ∃ (s : State) (h : HoopId) (x : Hoop) (c : _) (inc : _), s.here h x ∧ s.poised = true ∧ x.pmc.ovf &&& ~~~x.pmc.ovfTold &&& x.pmc.ovfEn = 0 ∧ x.pmc.en = true ∧ c < 256 ∧ pmcExists x.part c = true ∧ x.pmc.ovfEn.getLsbD c = false ∧ 2 ^ 48 ≤ (smGet 0 x.pmc.cnt c).toNat + inc :=
  ⟨(sA { hA with pmc := { cnt := [(222, 0xFFFFFFFFFFFF)] } }), HoopId.hoopA, _, 222, 3, ⟨rfl, rfl⟩, by decide +kernel⟩

theorem wit_CounterRows_3 : ∃ (s : State) (h : HoopId) (x : Hoop), s.here h x ∧ s.poised = true ∧ x.pmc.ovf &&& ~~~x.pmc.ovfTold &&& x.pmc.ovfEn = 0 :=
  ⟨(sA { hA with pmc := { ovf := 0x100000000 } }), HoopId.hoopA, _, ⟨rfl, rfl⟩, by decide +kernel⟩

theorem wit_CounterRows_4 : ∃ (s : State) (h : HoopId) (x : Hoop) (c : _), s.here h x ∧ pmcExists x.part c = true :=
  ⟨(sA hA), HoopId.hoopA, _, 222, ⟨rfl, rfl⟩, by decide +kernel⟩

theorem wit_CounterRows_5 : ∃ (s : State) (h : HoopId) (x : Hoop) (c : _), s.here h x ∧ c < 256 :=
  ⟨(sA { hA with pmc := { cnt := [(222, 0x500000007)] } }), HoopId.hoopA, _, 222, ⟨rfl, rfl⟩, by decide +kernel⟩

theorem wit_CounterRows_6 : ∃ (s : State) (h : HoopId) (x : Hoop), s.here h x ∧ x.pmc.en = true :=
  ⟨(sA hA), HoopId.hoopA, _, ⟨rfl, rfl⟩, by decide +kernel⟩

theorem wit_CounterRows_7 : ∃ (s : State) (h : HoopId) (x : Hoop) (m : _) (write : _) (beats : _) (addr : _), s.here h x ∧ m < 9 ∧ 1 ≤ beats ∧ beats ≤ 16 ∧ addr < 2 ^ 40 ∧ defaultAccess x m addr write = true :=
  ⟨(sA hA), HoopId.hoopA, _, 2, true, 4, 0x7000000000, ⟨rfl, rfl⟩, by decide +kernel⟩

theorem wit_HandoverRows_0 : ∃ (s : State) (h : HoopId) (c : _) (x : Hoop), x = s.hoop h ∧ passes s h 0 0x52 c handoverVerb = true ∧ s.poised = true ∧ s.holder = some h ∧ Config.duplex s.a.part = true ∧ x.pair.post = none ∧ eligPlanned (s.hoop (other h)) x = true :=
  ⟨(sD (withCmd 0 (bare 0x52) (hA .qn0512d)) (hB)), HoopId.hoopA, (cmdOf (bare 0x52)), _, rfl, by decide +kernel⟩

theorem wit_HandoverRows_1 : ∃ (s : State) (h : HoopId) (x : Hoop) (o : _) (q : _), s.here h x ∧ takes x 0xA = some o ∧ x.tmb.patches 0xA = false ∧ x.pair.role = .standby ∧ (s.a.lineOn || s.b.lineOn) = false ∧ s.duo.ho = some q ∧ q.kind = 0 :=
  ⟨{ sD (hA .qn0512d) { hB with tmb := { st := .idle, urgent := [{ code := 0xA }] } } with duo := { ho := some { kind := 0, fromB := false, cause := 0, request := 0, element := 0, cutTiles := [] } } }, .hoopB, _, { code := 0xA }, { kind := 0, fromB := false, cause := 0, request := 0, element := 0, cutTiles := [] }, ⟨rfl, rfl⟩, by decide +kernel⟩

theorem wit_HandoverRows_2 : ∃ (s : State) (h : HoopId) (x : Hoop) (o : _), s.here h x ∧ takes x 0xA = some o ∧ x.tmb.patches 0xA = false ∧ x.pair.role ≠ .standby ∧ s.duo.ack = true :=
  ⟨{ sD { hA .qn0512d with tmb := { st := .idle, urgent := [{ code := 0xA }] } } hB with duo := { ack := true } }, HoopId.hoopA, _, { code := 0xA }, ⟨rfl, rfl⟩, by decide +kernel⟩

theorem wit_HandoverRows_3 : ∃ (s : State) (o : _) (f : _), Config.duplex s.a.part = true ∧ s.duo.ho = some o ∧ boundaryDue s o = true ∧ f = (if o.fromB then HoopId.hoopB else .hoopA) ∧ (s.hoop (other f)).lineOn = false ∧ (s.hoop (other f)).tmb.st ≠ .halted :=
  ⟨{ sD (hA .qn0512d) hB with duo := { ho := some { kind := 1, fromB := false, cause := 34, request := 5, element := 0x1FFF, cutTiles := [] } } }, { kind := 1, fromB := false, cause := 34, request := 5, element := 0x1FFF, cutTiles := [] }, HoopId.hoopA, by decide +kernel⟩

theorem wit_HandoverRows_4 : ∃ (s : State) (o : _), s.duo.ho = some o ∧ abandonDue s o = true ∧ o.kind = 0 ∧ (s.a.lineOn || s.b.lineOn) = false :=
  ⟨{ sD (hA .qn0512d) hB with duo := { ho := some { kind := 0, fromB := false, cause := 0xFFFF, request := 5, element := 0x1FFF, cutTiles := [] } } }, { kind := 0, fromB := false, cause := 0xFFFF, request := 5, element := 0x1FFF, cutTiles := [] }, by decide +kernel⟩

theorem wit_HandoverRows_5 : ∃ (s : State) (o : _) (f : _), Config.duplex s.a.part = true ∧ s.duo.ho = some o ∧ abandonDue s o = true ∧ o.kind = 2 ∧ o.check ≠ 3 ∧ f = (if o.fromB then HoopId.hoopB else .hoopA) ∧ o.element.toNat < (s.hoop f).nS :=
  ⟨{ sD (hA .qn0512d) hB with duo := { ho := some { kind := 2, fromB := false, cause := 32, request := 5, element := 9, cutTiles := [] } } }, { kind := 2, fromB := false, cause := 32, request := 5, element := 9, cutTiles := [] }, HoopId.hoopA, by decide +kernel⟩

theorem wit_HandoverRows_6 : ∃ (s : State) (h : HoopId) (x : Hoop), s.here h x ∧ x.pair.proving = true ∧ x.pair.provingFrom + 1000 ≤ x.now ∧ ((x.nT ≤ provenTiles x ∨ x.pair.provingFrom + 100200 ≤ x.now)) :=
  ⟨(sD { hA .qn0512d with pair := { role := .active, token := true, proving := true, provingFrom := 9 } } hB), HoopId.hoopA, _, ⟨rfl, rfl⟩, by decide +kernel⟩

theorem wit_TokenRows_0 : ∃ (s : State), Config.duplex s.a.part = true ∧ s.duo.claimed = true ∧ s.duo.grace = none :=
  ⟨{ sD (hA .qn0512d) hB with duo := { claimed := true } }, by decide +kernel⟩

theorem wit_TokenRows_1 : ∃ (s : State) (g : _) (d : _), Config.duplex s.a.part = true ∧ s.duo.grace = some g ∧ g + 2000 ≤ s.a.now ∧ d = (if s.a.pair.strap then HoopId.hoopA else .hoopB) ∧ mayDriveAlone (s.hoop d) = true :=
  ⟨{ sD (hA .qn0512d) hB with duo := { claimed := true, grace := some 9 } }, 9, HoopId.hoopA, by decide +kernel⟩

theorem wit_TokenRows_2 : ∃ (s : State) (g : _), Config.duplex s.a.part = true ∧ s.duo.grace = some g ∧ g + 2000 ≤ s.a.now ∧ mayDriveAlone s.a = false ∧ mayDriveAlone s.b = false :=
  ⟨{ sD { hA .qn0512d with boot := { hB.boot with fwRun := false } } { hB with boot := { hB.boot with fwRun := false } } with duo := { claimed := true, grace := some 9 } }, 9, by decide +kernel⟩

theorem wit_TokenRows_3 : ∃ (s : State) (h : HoopId) (x : Hoop), s.here h x ∧ Config.duplex s.a.part = true ∧ x.pair.role = .offline ∧ x.boot.fwRun = true ∧ x.tmb.st ≠ .halted ∧ x.pair.strap = false ∧ (s.hoop (other h)).pair.token = false ∧ x.boot.resetAt + 10000000000 ≤ x.now :=
  ⟨(sD { hA .qn0512d with pair := {} } { hB with pair := {}, tb := { hB.tb with wrap := 9 } }), .hoopB, _, ⟨rfl, rfl⟩, by decide +kernel⟩

theorem wit_TokenRows_4 : ∃ (s : State) (h : HoopId) (x : Hoop), s.here h x ∧ s.quiet = true ∧ Config.duplex s.a.part = true ∧ x.pair.role = .resync ∧ (s.hoop (other h)).pair.role = .active ∧ x.tmb.st ≠ .halted :=
  ⟨(sD (hA .qn0512d) { hB with pair := { role := .resync } }), .hoopB, _, ⟨rfl, rfl⟩, by decide +kernel⟩

def wTokenRows_5 : State := (sD (withCmd 0 (bare 0x53) (hA .qn0512d)) ({ hB with pair := { role := .monitor } }))
theorem wit_TokenRows_5 : ∃ (s : State) (h : HoopId) (c : _) (u : _), u = rejoinPeer h s ∧ passes u h 0 0x53 c rejoinVerb = true ∧ s.poised = true ∧ Config.duplex s.a.part = true ∧ reaches (s.hoop h) 0x53 = true ∧ (s.hoop h).pair.role = .active ∧ (s.hoop (other h)).pair.role = .monitor ∧ rejoinOk (s.hoop (other h)) (s.hoop h) = true :=
  ⟨wTokenRows_5, HoopId.hoopA, (cmdOf (bare 0x53)), (rejoinPeer HoopId.hoopA wTokenRows_5), rfl, by decide +kernel⟩

theorem wit_PairWatchRows_0 : ∃ (s : State), Config.duplex s.a.part = true ∧ s.a.boot.fwRun = true ∧ s.b.boot.fwRun = true :=
  ⟨(sD (hA .qn0512d) { hB with tmb := { st := .idle, patchId := 4 } }), by decide +kernel⟩

theorem wit_PairWatchRows_1 : ∃ (s : State) (h : HoopId) (x : Hoop) (d : _), s.here h x ∧ x.pair.role = .standby ∧ x.pair.awaiting.find? (fun d => decide (d.sentAt + 50000 ≤ x.now)) = some d :=
  ⟨(sD (hA .qn0512d) { hB with pair := { role := .standby, awaiting := [({ crc := 1, ring := 0, status := 0, epochSec := 0, epochNs := 0, seq := 3, stamp := 0, sentAt := 9 } : Digest)] } }), .hoopB, _, ({ crc := 1, ring := 0, status := 0, epochSec := 0, epochNs := 0, seq := 3, stamp := 0, sentAt := 9 } : Digest), ⟨rfl, rfl⟩, by decide +kernel⟩

theorem wit_PairWatchRows_2 : ∃ (s : State) (h : HoopId) (x : Hoop) (core : _), s.here h x ∧ core < 2 ∧ x.boot.coresHalted.contains core = false ∧ x.holds = true :=
  ⟨(sA hA), HoopId.hoopA, _, 1, ⟨rfl, rfl⟩, by decide +kernel⟩

theorem wit_PairWatchRows_3 : ∃ (s : State) (h : HoopId) (x : Hoop) (core : _), s.here h x ∧ core < 2 ∧ x.boot.coresHalted.contains core = false ∧ x.holds = false ∧ x.pair.role = .standby :=
  ⟨(sD (hA .qn0512d) hB), .hoopB, _, 1, ⟨rfl, rfl⟩, by decide +kernel⟩

theorem wit_PairWatchRows_4 : ∃ (s : State) (h : HoopId) (x : Hoop), s.here h x ∧ x.boot.coresHalted ≠ [] :=
  ⟨(sA { hA with boot := { hA.boot with coresHalted := [1] }, tec := { hA.tec with dbgHalt := true } }), HoopId.hoopA, _, ⟨rfl, rfl⟩, by decide +kernel⟩

theorem wit_DiagnosticReads_0 : ∃ (s : State) (h : HoopId) (c : _) (b : _) (x : Hoop), x = s.hoop h ∧ passes s h 0 0x60 c (regReadVerb s.balls.pwrFailN) = true ∧ (ctxOf s h 0 c).tlv (if x.isB then 5 else 4) = some b :=
  ⟨(sA (withCmd 0 (withTlvs 0x60 [(4, leBytes 8 0x1000 ++ leBytes 4 4096), (16, leBytes 4 0x10020 ++ leBytes 2 4)]) (hA))), HoopId.hoopA, (cmdOf (withTlvs 0x60 [(4, leBytes 8 0x1000 ++ leBytes 4 4096), (16, leBytes 4 0x10020 ++ leBytes 2 4)])), (leBytes 8 0x1000 ++ leBytes 4 4096), _, rfl, by decide +kernel⟩

def wDiagnosticReads_1 : State := (sA (withCmd 0 (withTlvs 0x61 [(4, leBytes 8 0x1000 ++ leBytes 4 4096), (16, [0] ++ leBytes 2 5 ++ [0, 2, 3])]) (hA)))
theorem wit_DiagnosticReads_1 : ∃ (s : State) (h : HoopId) (c : _) (q : _), passes s h 0 0x61 c samplerReadVerb = true ∧ ((field (paramOf c.bytes) 0 1 = 2 → field (paramOf c.bytes) 1 2 < (s.hoop h).n)) ∧ ((field (paramOf c.bytes) 0 1 = 0 ∨ field (paramOf c.bytes) 0 1 = 3 → field (paramOf c.bytes) 1 2 < (s.hoop h).nE)) ∧ q = samplerRecs (s.hoop h) (field (paramOf c.bytes) 0 1) (field (paramOf c.bytes) 1 2) (field (paramOf c.bytes) 3 1 == 1) (field (paramOf c.bytes) 4 1) (field (paramOf c.bytes) 5 1) :=
  ⟨wDiagnosticReads_1, HoopId.hoopA, (cmdOf (withTlvs 0x61 [(4, leBytes 8 0x1000 ++ leBytes 4 4096), (16, [0] ++ leBytes 2 5 ++ [0, 2, 3])])), (samplerRecs (wDiagnosticReads_1.hoop HoopId.hoopA) 0 5 false 2 3), by decide +kernel⟩

theorem wit_DiagnosticReads_2 : ∃ (s : State) (h : HoopId) (c : _), passes s h 0 0x62 c journalReadVerb = true :=
  ⟨(sA (withCmd 0 (withTlvs 0x62 [(4, leBytes 8 0x1000 ++ leBytes 4 4096), (16, leBytes 4 0 ++ leBytes 2 4)]) ((jnlWrite1 (jnlWrite1 hA { type := 7, sev := 0xFF, flags := 0, stamp := 0, sec := 0, ns := 0, source := 0, payload := [] }) { type := 7, sev := 0xFF, flags := 0, stamp := 0, sec := 0, ns := 0, source := 0, payload := [] })))), HoopId.hoopA, (cmdOf (withTlvs 0x62 [(4, leBytes 8 0x1000 ++ leBytes 4 4096), (16, leBytes 4 0 ++ leBytes 2 4)])), by decide +kernel⟩

theorem wit_DiagnosticReads_3 : ∃ (s : State) (h : HoopId) (c : _), passes s h 0 0x63 c resultReadVerb = true ∧ field (paramOf c.bytes) 0 2 + field (paramOf c.bytes) 2 2 ≤ Config.chans (s.hoop h).part :=
  ⟨(sA (withCmd 0 (withTlvs 0x63 [(4, leBytes 8 0x1000 ++ leBytes 4 4096), (16, leBytes 2 0 ++ leBytes 2 3)]) (hA))), HoopId.hoopA, (cmdOf (withTlvs 0x63 [(4, leBytes 8 0x1000 ++ leBytes 4 4096), (16, leBytes 2 0 ++ leBytes 2 3)])), by decide +kernel⟩

theorem wit_DiagnosticReads_4 : ∃ (s : State) (h : HoopId) (c : _) (b : _) (m : _) (x : Hoop), x = s.hoop h ∧ passes s h 0 0x64 c deltaReadVerb = true ∧ findPending x 0 (field (paramOf c.bytes) 0 6) = some m ∧ (ctxOf s h 0 c).tlv (if x.isB then 5 else 4) = some b ∧ ((m.delta.map deltaBytes ++ m.chans.map (leBytes 2)).map List.length).sum ≤ field b 8 4 - 16 :=
  ⟨(sA (withCmd 0 (withTlvs 0x64 [(4, leBytes 8 0x1000 ++ leBytes 4 4096), (16, leBytes 6 9)]) ({ hA with cm := { pending := [({ seq := 9, ring := 0, tenant := 0, epochNs := 0x40100000, epoch := 0x40100000, changes := [], delta := [{ elem := 835, st := .eyOpen, ncode := 7, hff := 0, hrange := false, band := false, mixed := false, moved := false }], chans := [835], deps := [] } : Commit)] } }))), HoopId.hoopA, (cmdOf (withTlvs 0x64 [(4, leBytes 8 0x1000 ++ leBytes 4 4096), (16, leBytes 6 9)])), (leBytes 8 0x1000 ++ leBytes 4 4096), ({ seq := 9, ring := 0, tenant := 0, epochNs := 0x40100000, epoch := 0x40100000, changes := [], delta := [{ elem := 835, st := .eyOpen, ncode := 7, hff := 0, hrange := false, band := false, mixed := false, moved := false }], chans := [835], deps := [] } : Commit), _, rfl, by decide +kernel⟩

theorem wit_DiagnosticReads_5 : ∃ (s : State) (h : HoopId) (c : _), passes s h 0 0x65 c patchReadVerb = true :=
  ⟨(sA (withCmd 0 (withTlvs 0x65 [(4, leBytes 8 0x1000 ++ leBytes 4 4096), (16, [1] ++ leBytes 2 0x700 ++ leBytes 2 2)]) (hA))), HoopId.hoopA, (cmdOf (withTlvs 0x65 [(4, leBytes 8 0x1000 ++ leBytes 4 4096), (16, [1] ++ leBytes 2 0x700 ++ leBytes 2 2)])), by decide +kernel⟩

theorem wit_DiagnosticReads_6 : ∃ (s : State) (h : HoopId) (c : _), passes s h 0 0x66 c elementReadVerb = true ∧ field (paramOf c.bytes) 0 2 + field (paramOf c.bytes) 2 2 ≤ (s.hoop h).nE :=
  ⟨(sA (withCmd 0 (withTlvs 0x66 [(4, leBytes 8 0x1000 ++ leBytes 4 4096), (16, leBytes 2 830 ++ leBytes 2 3)]) (hA))), HoopId.hoopA, (cmdOf (withTlvs 0x66 [(4, leBytes 8 0x1000 ++ leBytes 4 4096), (16, leBytes 2 830 ++ leBytes 2 3)])), by decide +kernel⟩

theorem wit_DiagnosticReads_7 : ∃ (s : State) (h : HoopId) (c : _), passes s h 0 0x67 c commitListVerb = true :=
  ⟨(sA (withCmd 0 (withTlvs 0x67 [(4, leBytes 8 0x1000 ++ leBytes 4 4096)]) ({ hA with cm := { pending := [({ seq := 9, ring := 0, tenant := 0, epochNs := 0x40100000, epoch := 0x40100000, changes := [], delta := [{ elem := 835, st := .eyOpen, ncode := 7, hff := 0, hrange := false, band := false, mixed := false, moved := false }], chans := [835], deps := [] } : Commit)] } }))), HoopId.hoopA, (cmdOf (withTlvs 0x67 [(4, leBytes 8 0x1000 ++ leBytes 4 4096)])), by decide +kernel⟩

theorem wit_DiagnosticReads_8 : ∃ (s : State) (h : HoopId) (c : _), passes s h 0 0x68 c historyReadVerb = true ∧ field (paramOf c.bytes) 0 1 = 1 :=
  ⟨(sA (withCmd 0 (withTlvs 0x68 [(4, leBytes 8 0x1000 ++ leBytes 4 4096), (16, [1] ++ leBytes 6 60 ++ leBytes 4 1 ++ leBytes 4 0)]) ({ hA with hist := { present := true, counters := [(60, List.replicate 2048 7)] } }))), HoopId.hoopA, (cmdOf (withTlvs 0x68 [(4, leBytes 8 0x1000 ++ leBytes 4 4096), (16, [1] ++ leBytes 6 60 ++ leBytes 4 1 ++ leBytes 4 0)])), by decide +kernel⟩

theorem wit_DiagnosticReads_9 : ∃ (s : State) (h : HoopId) (c : _), passes s h 0 0x68 c historyReadVerb = true ∧ field (paramOf c.bytes) 0 1 = 2 :=
  ⟨(sA (withCmd 0 (withTlvs 0x68 [(4, leBytes 8 0x1000 ++ leBytes 4 4096), (16, [2] ++ leBytes 6 60 ++ leBytes 4 1 ++ leBytes 4 0)]) ({ hA with hist := { present := true, ledger := [(60, List.replicate 64 7)] } }))), HoopId.hoopA, (cmdOf (withTlvs 0x68 [(4, leBytes 8 0x1000 ++ leBytes 4 4096), (16, [2] ++ leBytes 6 60 ++ leBytes 4 1 ++ leBytes 4 0)])), by decide +kernel⟩

theorem wit_DiagnosticReads_10 : ∃ (s : State) (h : HoopId) (c : _), passes s h 0 0x68 c historyReadVerb = true ∧ field (paramOf c.bytes) 0 1 = 0 ∧ field (paramOf c.bytes) 11 2 + field (paramOf c.bytes) 13 2 ≤ Config.chans (s.hoop h).part :=
  ⟨(sA (withCmd 0 (withTlvs 0x68 [(4, leBytes 8 0x1000 ++ leBytes 4 4096), (16, [0] ++ leBytes 6 60 ++ leBytes 4 1 ++ leBytes 2 1 ++ leBytes 2 4)]) ({ hA with hist := { present := true, summaries := [(60, List.replicate 320 7)] } }))), HoopId.hoopA, (cmdOf (withTlvs 0x68 [(4, leBytes 8 0x1000 ++ leBytes 4 4096), (16, [0] ++ leBytes 6 60 ++ leBytes 4 1 ++ leBytes 2 1 ++ leBytes 2 4)])), by decide +kernel⟩

theorem wit_RegisterWrites_0 : ∃ (s : State) (h : HoopId) (x : Hoop) (r : _), s.here h x ∧ r < 16 ∧ (x.ring r).en = false :=
  ⟨(sA hA), HoopId.hoopA, _, 2, ⟨rfl, rfl⟩, by decide +kernel⟩

theorem wit_RegisterWrites_1 : ∃ (s : State) (h : HoopId) (x : Hoop) (r : _) (v : BitVec 32), s.here h x ∧ r < 16 ∧ (x.ring r).en = false ∧ v.toNat % 16 ≤ 8 :=
  ⟨(sA hA), HoopId.hoopA, _, 2, 3, ⟨rfl, rfl⟩, by decide +kernel⟩

theorem wit_RegisterWrites_2 : ∃ (s : State) (h : HoopId) (x : Hoop) (r : _) (o : _), s.here h x ∧ r < 16 ∧ (x.ring r).en = true ∧ o < 0x20 ∧ o % 4 = 0 :=
  ⟨(sA (hA.setRing 2 { en := true })), HoopId.hoopA, _, 2, 8, ⟨rfl, rfl⟩, by decide +kernel⟩

theorem wit_RegisterWrites_3 : ∃ (s : State) (h : HoopId) (x : Hoop) (r : _), s.here h x ∧ r < 16 :=
  ⟨(sA hA), HoopId.hoopA, _, 2, ⟨rfl, rfl⟩, by decide +kernel⟩

theorem wit_RegisterWrites_4 : ∃ (s : State) (h : HoopId) (x : Hoop), s.here h x :=
  ⟨(sA hA), HoopId.hoopA, _, ⟨rfl, rfl⟩⟩

theorem wit_RegisterWrites_5 : ∃ (s : State) (h : HoopId) (x : Hoop) (o : _), s.here h x ∧ o < 0x10000 ∧ o % 4 = 0 :=
  ⟨(sA hA), HoopId.hoopA, _, 8, ⟨rfl, rfl⟩, by decide +kernel⟩

theorem wit_RegisterWrites_6 : ∃ (s : State) (h : HoopId) (x : Hoop) (o : _), s.here h x ∧ 0x10000 ≤ o ∧ o ≠ 0x30090 ∧ o / 0x10000 ≠ 8 ∧ o / 0x10000 ≠ 15 :=
  ⟨(sA hA), HoopId.hoopA, _, 0x40000, ⟨rfl, rfl⟩, by decide +kernel⟩

theorem wit_RegisterWrites_7 : ∃ (s : State) (h : HoopId) (x : Hoop) (w : _), s.here h x ∧ w < 256 :=
  ⟨(sA hA), HoopId.hoopA, _, 6, ⟨rfl, rfl⟩, by decide +kernel⟩

theorem wit_RegisterWrites_8 : ∃ (o : _) (size : _), ((size ≠ 4 ∨ o % 4 ≠ 0)) :=
  ⟨2, 4, by decide +kernel⟩

theorem wit_RegisterWrites_9 : ∃ (s : State) (h : HoopId) (x : Hoop), s.here h x ∧ x.boot.fwRun = true :=
  ⟨(sA hA), HoopId.hoopA, _, ⟨rfl, rfl⟩, by decide +kernel⟩

theorem wit_RegisterWrites_10 : ∃ (s : State) (h : HoopId) (x : Hoop), s.here h x ∧ x.boot.fwRun = true ∧ x.fc.hold = true :=
  ⟨(sA { hA with fc := { hold := true } }), HoopId.hoopA, _, ⟨rfl, rfl⟩, by decide +kernel⟩

theorem wit_PowerRows_0 : ∃ (s : State) (h : HoopId) (x : Hoop) (rail : _) (mv : _), s.here h x ∧ rail < 9 ∧ railLow rail mv = true ∧ x.boot.por = false :=
  ⟨(sA hA), HoopId.hoopA, _, 1, 700, ⟨rfl, rfl⟩, by decide +kernel⟩

theorem wit_PowerRows_1 : ∃ (s : State) (h : HoopId) (x : Hoop), s.here h x ∧ x.boot.por = true :=
  ⟨(sA { hA with boot := {} }), HoopId.hoopA, _, ⟨rfl, rfl⟩, by decide +kernel⟩

theorem wit_PowerRows_2 : ∃ (s : State) (h : HoopId) (x : Hoop) (rail : _) (mv : _), s.here h x ∧ rail < 9 ∧ railIn rail mv = false ∧ x.boot.por = false ∧ (x.rail rail).ok = true :=
  ⟨(sA { hA with pwr := { rails := [(1, { ok := true, mv := 850, seen := true })] } }), HoopId.hoopA, _, 1, 800, ⟨rfl, rfl⟩, by decide +kernel⟩

theorem wit_PowerRows_3 : ∃ (s : State) (h : HoopId) (x : Hoop) (rail : _) (mv : _), s.here h x ∧ rail < 9 ∧ railIn rail mv = true ∧ x.boot.por = false ∧ (x.rail rail).ok = false ∧ ((∀ i, i < 9 → i ≠ rail → railSrc i = railSrc rail → (x.rail i).ok = true)) :=
  ⟨(sA { hA with pwr := { rails := [(1, { ok := false, mv := 800, seen := true })] } }), HoopId.hoopA, _, 1, 850, ⟨rfl, rfl⟩, by decide +kernel⟩

theorem wit_PowerRows_4 : ∃ (s : State) (h : HoopId) (x : Hoop), s.here h x ∧ s.balls.pwrFailN = true ∧ x.boot.por = false :=
  ⟨(sA { hA with ths := { mramOk := true } }), HoopId.hoopA, _, ⟨rfl, rfl⟩, by decide +kernel⟩

theorem wit_PowerRows_5 : ∃ (s : State) (h : HoopId) (x : Hoop), s.here h x ∧ s.balls.pwrFailN = false ∧ x.boot.por = false :=
  ⟨{ sA hA with balls := { pwrFailN := false } }, HoopId.hoopA, _, ⟨rfl, rfl⟩, by decide +kernel⟩

theorem wit_PowerRows_6 : ∃ (s : State) (h : HoopId) (x : Hoop), s.here h x :=
  ⟨(sA { hA with dk := { armed := true, codes := [(1, 5)] } }), HoopId.hoopA, _, ⟨rfl, rfl⟩⟩

theorem wit_PowerRows_7 : ∃ (s : State) (h : HoopId) (x : Hoop), s.here h x ∧ x.boot.fwRun = true :=
  ⟨(sA hA), HoopId.hoopA, _, ⟨rfl, rfl⟩, by decide +kernel⟩

theorem wit_PowerRows_8 : ∃ (s : State) (h : HoopId) (x : Hoop) (core : _), s.here h x ∧ x.boot.coresReset = [core] :=
  ⟨(sA { hA with boot := { hA.boot with coresReset := [1] } }), HoopId.hoopA, _, 1, ⟨rfl, rfl⟩, by decide +kernel⟩

theorem wit_EndpointRows_0 : ∃ (s : State) (h : HoopId) (x : Hoop) (r : _), s.here h x ∧ x.boot.por = false ∧ r < 16 :=
  ⟨(sA (hA.setRing 0 { ringReset 0 with en := true })), HoopId.hoopA, _, 0, ⟨rfl, rfl⟩, by decide +kernel⟩

theorem wit_EndpointRows_1 : ∃ (s : State) (h : HoopId) (x : Hoop), s.here h x ∧ x.boot.por = false :=
  ⟨(sA hA), HoopId.hoopA, _, ⟨rfl, rfl⟩, by decide +kernel⟩

theorem wit_EndpointRows_2 : ∃ (s : State) (h : HoopId) (x : Hoop), s.here h x :=
  ⟨(sA hA), HoopId.hoopA, _, ⟨rfl, rfl⟩⟩

theorem wit_EndpointRows_3 : ∃ (s : State) (h : HoopId) (x : Hoop) (d : _) (c : _) (rest : _), s.here h x ∧ Config.duplex s.a.part = true ∧ x.pair.role = .standby ∧ x.pair.awaiting = d :: rest ∧ d.ring < 16 ∧ matchFront x d = some c ∧ (x.ring d.ring).read = [c] ∧ (x.ring d.ring).posted = [] ∧ c.refusal = none ∧ c.aborted = false ∧ (hdrOf c.bytes).opcode = 0 ∧ answers x d.ring c = true ∧ fieldsOk (breakRun d.ring 0 x) d.ring c.bytes = true ∧ d.status = 0 ∧ d.epochSec = 0 ∧ d.epochNs = 0 ∧ 1 ≤ d.seq ∧ d.seq < 2 ^ 48 :=
  ⟨(sD (hA .qn0512d) { (hB.setRing 0 { hB.ring 0 with read := [(cmdOf (bare 0))] }) with pair := { role := .standby, awaiting := [({ crc := crc64 (digestBytes 0 (cmdOf (bare 0))), ring := 0, status := 0, epochSec := 0, epochNs := 0, seq := 3, stamp := 0x3FFFFF00, sentAt := 0x3FFFFF00 } : Digest)] } }), .hoopB, _, ({ crc := crc64 (digestBytes 0 (cmdOf (bare 0))), ring := 0, status := 0, epochSec := 0, epochNs := 0, seq := 3, stamp := 0x3FFFFF00, sentAt := 0x3FFFFF00 } : Digest), (cmdOf (bare 0)), [], ⟨rfl, rfl⟩, by decide +kernel⟩

theorem wit_EndpointRows_4 : ∃ (s : State) (h : HoopId) (x : Hoop) (d : _) (c : _) (rest : _), s.here h x ∧ Config.duplex s.a.part = true ∧ x.pair.role = .standby ∧ x.pair.awaiting = d :: rest ∧ matchFront x d = some c ∧ c.refusal = some 4 ∧ d.status ≠ 7 ∧ d.status ≠ 4 :=
  ⟨(sD (hA .qn0512d) { (hB.setRing 0 { hB.ring 0 with read := [({ cmdOf (bare 0) with refusal := some 4 } : ReadCmd)] }) with pair := { role := .standby, awaiting := [({ crc := crc64 (digestBytes 0 ({ cmdOf (bare 0) with refusal := some 4 } : ReadCmd)), ring := 0, status := 5, epochSec := 0, epochNs := 0, seq := 3, stamp := 0x3FFFFF00, sentAt := 0x3FFFFF00 } : Digest)] } }), .hoopB, _, ({ crc := crc64 (digestBytes 0 ({ cmdOf (bare 0) with refusal := some 4 } : ReadCmd)), ring := 0, status := 5, epochSec := 0, epochNs := 0, seq := 3, stamp := 0x3FFFFF00, sentAt := 0x3FFFFF00 } : Digest), ({ cmdOf (bare 0) with refusal := some 4 } : ReadCmd), [], ⟨rfl, rfl⟩, by decide +kernel⟩

theorem wit_StartupRows_0 : ∃ (s : State) (h : HoopId) (x : Hoop) (img : _), s.here h x ∧ x.boot.por = false ∧ x.boot.stage = .loader ∧ slotCause x 0 img = 0 :=
  ⟨(sA { hA with boot := { hA.boot with stage := .loader } }), HoopId.hoopA, _, ({ version := 7, build := 1, svn := 3, patchId := 9, micro := [], nano := [], matchRegs := [], overrides := [] } : Image), ⟨rfl, rfl⟩, by decide +kernel⟩

theorem wit_StartupRows_1 : ∃ (s : State) (h : HoopId) (x : Hoop) (fail0 : _) (fail1 : _) (img : _), s.here h x ∧ x.boot.por = false ∧ x.boot.stage = .loader ∧ slotCause x fail0 img ≠ 0 ∧ slotCause x fail1 img ≠ 0 :=
  ⟨(sA { hA with boot := { hA.boot with stage := .loader, minSvn := 4 } }), HoopId.hoopA, _, 2, 0, ({ version := 7, build := 1, svn := 3, patchId := 9, micro := [], nano := [], matchRegs := [], overrides := [] } : Image), ⟨rfl, rfl⟩, by decide +kernel⟩

theorem wit_StartupRows_2 : ∃ (s : State) (h : HoopId) (x : Hoop) (gib : _), s.here h x ∧ x.boot.stage = .fwStart ∧ ((gib = 2 ∨ gib = 4 ∨ gib = 8)) :=
  ⟨(sA { hA with boot := { hA.boot with stage := .fwStart } }), HoopId.hoopA, _, 4, ⟨rfl, rfl⟩, by decide +kernel⟩

theorem wit_StartupRows_3 : ∃ (s : State) (h : HoopId) (x : Hoop), s.here h x ∧ x.boot.stage = .fwStart :=
  ⟨(sA { hA with boot := { hA.boot with stage := .fwStart } }), HoopId.hoopA, _, ⟨rfl, rfl⟩, by decide +kernel⟩

theorem wit_StartupRows_4 : ∃ (s : State) (h : HoopId) (x : Hoop), s.here h x ∧ x.boot.stage = .memory ∧ x.slice.built = false :=
  ⟨(sA { hA with boot := { hA.boot with stage := .memory } }), HoopId.hoopA, _, ⟨rfl, rfl⟩, by decide +kernel⟩

theorem wit_StartupRows_5 : ∃ (s : State) (h : HoopId) (x : Hoop), s.here h x ∧ Config.duplex s.a.part = true ∧ x.boot.stage = .memory ∧ x.pair.strap = true ∧ (s.hoop (other h)).pair.token = false ∧ x.tmb.st ≠ .halted :=
  ⟨(sD { hA .qn0512d with boot := { hA.boot with stage := .memory }, pair := { strap := true } } { hB with pair := {} }), HoopId.hoopA, _, ⟨rfl, rfl⟩, by decide +kernel⟩

theorem wit_StartupRows_6 : ∃ (s : State) (h : HoopId) (x : Hoop), s.here h x ∧ ((∀ e, e < x.nE → (x.heater e).reached = true)) ∧ x.boot.stage = .lattice ∧ x.pair.role = .active ∧ x.drv.nFirstDone = false ∧ ((∀ t, t < x.nT → (x.tile t).written = true)) :=
  ⟨(sA hFw), HoopId.hoopA, _, ⟨rfl, rfl⟩, fun e he => hFw_reached e (Nat.lt_of_lt_of_le he (by decide +kernel)), by decide +kernel⟩

theorem wit_StartupRows_7 : ∃ (s : State) (h : HoopId) (x : Hoop) (a : _) (b : _), s.here h x ∧ x.boot.stage = .wait ∧ x.pair.role = .active ∧ tempCond a x = true ∧ timeCond b x = true :=
  ⟨(sA { hA with tec := { settled := true }, boot := { hA.boot with stage := .wait, tecEnabledAt := some 0 } }), HoopId.hoopA, _, true, true, ⟨rfl, rfl⟩, by decide +kernel⟩

theorem wit_WindowRows_0 : ∃ (s : State) (h : HoopId) (x : Hoop), s.here h x ∧ cmpDue x 8 = true :=
  ⟨(sA { hA with tb := { hA.tb with cmps := [(8, { t16 := 0x400000000, armed := true })] } }), HoopId.hoopA, _, ⟨rfl, rfl⟩, by decide +kernel⟩

theorem wit_WindowRows_1 : ∃ (s : State) (h : HoopId) (x : Hoop) (t : _), s.here h x ∧ x.drv.refRun = true ∧ t < 160 :=
  ⟨(sA { hA with drv := { hA.drv with refRun := true, tiles := [(3, { driven := true })] }, dk := { pend := some ([(1, 5)], 7) } }), HoopId.hoopA, _, 3, ⟨rfl, rfl⟩, by decide +kernel⟩

theorem wit_WindowRows_2 : ∃ (s : State) (h : HoopId) (x : Hoop) (t : _), s.here h x ∧ x.drv.refRun = true ∧ (x.tile t).dith = true ∧ (x.tile t).driven = true ∧ t < x.nT :=
  ⟨(sA { hA with drv := { hA.drv with refRun := true, tiles := [(3, { dith := true, driven := true })] } }), HoopId.hoopA, _, 3, ⟨rfl, rfl⟩, by decide +kernel⟩

theorem wit_WindowRows_3 : ∃ (s : State) (h : HoopId) (x : Hoop) (t : _) (e : _) (goal : _), s.here h x ∧ s.quiet = true ∧ e ∈ tileElems t ∧ (x.needle e).ramp = true ∧ goal = (x.activeCode e).toNat :=
  ⟨(sA { hA with drv := { hA.drv with refRun := true, tiles := [(26, { nSlew := true })], needles := [(835, { bank0 := 100, reg := 40, ramp := true })] } }), HoopId.hoopA, _, 26, 835, ((({ bank0 := 100 } : Needle).bank0).toNat), ⟨rfl, rfl⟩, by decide +kernel⟩

theorem wit_WindowRows_4 : ∃ (s : State) (h : HoopId) (x : Hoop) (t : _) (k : _), s.here h x ∧ (x.tile t).win = some k :=
  ⟨(sA { hA with drv := { hA.drv with refRun := true, tiles := [(3, { win := some .drive })] } }), HoopId.hoopA, _, 3, .drive, ⟨rfl, rfl⟩, by decide +kernel⟩

theorem wit_WindowRows_5 : ∃ (s : State) (h : HoopId) (x : Hoop) (t : _) (e : _) (k : _), s.here h x ∧ (x.tile t).win = some k ∧ x.holds = true ∧ x.pair.proving = false ∧ e / 32 = t ∧ e < x.nS ∧ (x.needle e).masked = false :=
  ⟨(sA { hA with drv := { hA.drv with refRun := true, tiles := [(3, { win := some .drive })] } }), HoopId.hoopA, _, 3, 97, .drive, ⟨rfl, rfl⟩, by decide +kernel⟩

theorem wit_WindowRows_6 : ∃ (s : State) (h : HoopId) (x : Hoop), s.here h x :=
  ⟨(sA hA), HoopId.hoopA, _, ⟨rfl, rfl⟩⟩

theorem wit_WindowRows_7 : ∃ (s : State) (h : HoopId) (x : Hoop), s.here h x ∧ s.quiet = true :=
  ⟨(sA hA), HoopId.hoopA, _, ⟨rfl, rfl⟩, by decide +kernel⟩

theorem wit_HeaterRows_0 : ∃ (s : State) (h : HoopId) (x : Hoop) (t : _) (e : _), s.here h x ∧ (x.tile t).hSlew = true ∧ t < x.nT ∧ e ∈ tileElems t ∧ (x.heater e).hold = false ∧ (x.heater e).range = (x.heater e).tgtRange :=
  ⟨(sA { hA with drv := { hA.drv with heaters := [(5, { out := 10, tgt := 100 })] } }), HoopId.hoopA, _, 0, 5, ⟨rfl, rfl⟩, by decide +kernel⟩

theorem wit_HeaterRows_1 : ∃ (s : State) (h : HoopId) (x : Hoop) (e : _) (conv : _), s.here h x ∧ (x.heater e).hold = true ∧ (x.heater e).range ≠ (x.heater e).tgtRange ∧ conv = BitVec.ofNat 12 (if (x.heater e).range then min 4095 (4 * (x.heater e).out.toNat) else ((x.heater e).out.toNat + 2) / 4) :=
  ⟨(sA { hA with drv := { hA.drv with heaters := [(5, { out := 103, hold := true, tgtRange := true })] } }), HoopId.hoopA, _, 5, (26 : BitVec 12), ⟨rfl, rfl⟩, by decide +kernel⟩

theorem wit_HeaterRows_2 : ∃ (s : State) (h : HoopId) (x : Hoop) (e : _), s.here h x ∧ (x.heater e).out ≠ 0 ∧ e < x.nE ∧ x.pair.proving = false :=
  ⟨(sA { hA with drv := { hA.drv with heaters := [(5, { out := 103 })] } }), HoopId.hoopA, _, 5, ⟨rfl, rfl⟩, by decide +kernel⟩

theorem wit_HeaterRows_3 : ∃ (s : State) (h : HoopId) (x : Hoop), s.here h x ∧ overCeil x = true :=
  ⟨(sA { hA with drv := { hA.drv with hCeil := 10, hSum := 900 } }), HoopId.hoopA, _, ⟨rfl, rfl⟩, by decide +kernel⟩

theorem wit_HeaterRows_4 : ∃ (s : State) (h : HoopId) (x : Hoop), s.here h x :=
  ⟨(sA { hA with drv := { hA.drv with heaters := [(5, { out := 103 })] } }), HoopId.hoopA, _, ⟨rfl, rfl⟩⟩

theorem wit_HeaterRows_5 : ∃ (s : State) (h : HoopId) (x : Hoop), s.here h x :=
  ⟨(sA { hA with drv := { hA.drv with tones := [(2, { ftw := 99, en := true, acc := 5 })] } }), HoopId.hoopA, _, ⟨rfl, rfl⟩⟩

theorem wit_LinkRows_0 : ∃ (s : State) (h : HoopId) (x : Hoop) (k : _), s.here h x ∧ s.poised = true ∧ x.boot.fwRun = true ∧ k < 4 ∧ x.wlm.linkEn.getLsbD k = true ∧ roomFor x k 40 = true :=
  ⟨(sA hW), HoopId.hoopA, _, 2, ⟨rfl, rfl⟩, by decide +kernel⟩

theorem wit_LinkRows_1 : ∃ (s : State) (h : HoopId) (x : Hoop) (k : _) (b : Bytes), s.here h x ∧ s.poised = true ∧ heard x k b 0 = true ∧ frDst b = 0 :=
  ⟨(sA hW), HoopId.hoopA, _, 2, (frm 0 0 0 (leBytes 8 3 ++ leBytes 2 20 ++ leBytes 2 1 ++ leBytes 8 3 ++ [0, 0, 1, 0])), ⟨rfl, rfl⟩, by decide +kernel⟩

theorem wit_LinkRows_2 : ∃ (s : State) (h : HoopId) (x : Hoop) (k : _), s.here h x ∧ s.poised = true ∧ k < 4 ∧ (x.link k).up = true ∧ (x.link k).lastHello + 3000000 ≤ x.now ∧ x.wlm.linkEn.getLsbD k = true :=
  ⟨(sA hW), HoopId.hoopA, _, 0, ⟨rfl, rfl⟩, by decide +kernel⟩

theorem wit_LinkRows_3 : ∃ (s : State) (h : HoopId) (x : Hoop) (k : _) (lane : _), s.here h x ∧ s.poised = true ∧ k < 4 ∧ lane < 2 ∧ (x.link k).up = true ∧ x.wlm.linkEn.getLsbD k = true :=
  ⟨(sA hW), HoopId.hoopA, _, 0, 1, ⟨rfl, rfl⟩, by decide +kernel⟩

def wLinkRows_4 : State := (sA (withCmd 0 (adm 0x32 ([0xFE] ++ leBytes 2 77 ++ leBytes 2 500 ++ leBytes 2 20)) (hW)))
theorem wit_LinkRows_4 : ∃ (s : State) (h : HoopId) (c : _) (y : Wlm), passes s h 0 0x32 c wlmCfgVerb = true ∧ s.poised = true ∧ y = (s.hoop h).wlm :=
  ⟨wLinkRows_4, HoopId.hoopA, (cmdOf (adm 0x32 ([0xFE] ++ leBytes 2 77 ++ leBytes 2 500 ++ leBytes 2 20))), ((wLinkRows_4.hoop HoopId.hoopA).wlm), by decide +kernel⟩

theorem wit_RoutingRows_0 : ∃ (s : State) (h : HoopId) (x : Hoop) (k : _) (b : Bytes) (p : _) (a : _), s.here h x ∧ heard x k b 1 = true ∧ frDst b = 0 ∧ p = frPayload b ∧ field p 0 1 = 1 ∧ 20 ≤ p.length ∧ a = field p 4 2 ∧ 1 ≤ a ∧ a < 4095 ∧ a ≠ x.wlm.addr.toNat ∧ field p 6 1 ≤ 14 ∧ (((x.rt a).valid = false ∨ (x.rt a).port = portOf x k ∨ field p 6 1 + 1 < (x.rt a).dist)) :=
  ⟨(sA hW), HoopId.hoopA, _, 1, (frm 0 0 1 (leBytes 4 1 ++ leBytes 2 30 ++ [2, 0] ++ leBytes 2 4 ++ [0, 0] ++ leBytes 8 8)), (frPayload (frm 0 0 1 (leBytes 4 1 ++ leBytes 2 30 ++ [2, 0] ++ leBytes 2 4 ++ [0, 0] ++ leBytes 8 8))), 30, ⟨rfl, rfl⟩, by decide +kernel⟩

theorem wit_RoutingRows_1 : ∃ (s : State) (h : HoopId) (x : Hoop) (k : _) (b : Bytes) (p : _), s.here h x ∧ heard x k b 1 = true ∧ frDst b = 0 ∧ p = frPayload b ∧ field p 0 1 = 1 ∧ 20 ≤ p.length ∧ field p 4 2 = x.wlm.addr.toNat ∧ 1 ≤ field p 4 2 ∧ field p 4 2 < 4095 ∧ field p 12 8 < x.wlm.id.toNat :=
  ⟨(sD { hW with part := .qn0512d } { hB with wlm := { hB.wlm with addr := 9 } }), HoopId.hoopA, _, 1, (frm 0 0 1 (leBytes 4 1 ++ leBytes 2 9 ++ [2, 0] ++ leBytes 2 4 ++ [0, 0] ++ leBytes 8 2)), (frPayload (frm 0 0 1 (leBytes 4 1 ++ leBytes 2 9 ++ [2, 0] ++ leBytes 2 4 ++ [0, 0] ++ leBytes 8 2))), ⟨rfl, rfl⟩, by decide +kernel⟩

theorem wit_RoutingRows_2 : ∃ (s : State) (h : HoopId) (x : Hoop) (k : _), s.here h x ∧ x.boot.fwRun = true ∧ k ∈ x.upLinks :=
  ⟨(sA hW), HoopId.hoopA, _, 1, ⟨rfl, rfl⟩, by decide +kernel⟩

theorem wit_RoutingRows_3 : ∃ (s : State) (h : HoopId) (x : Hoop) (k : _) (es : _), s.here h x ∧ s.poised = true ∧ x.boot.fwRun = true ∧ k ∈ x.upLinks ∧ es = x.wlm.table.filter (fun q => q.2.valid) ∧ 1 ≤ es.length ∧ es.length ≤ 30 ∧ roomFor x k (20 + 16 * es.length) = true :=
  ⟨(sA hW), HoopId.hoopA, _, 1, (((sA hW).hoop HoopId.hoopA).wlm.table.filter (fun q => q.2.valid)), ⟨rfl, rfl⟩, by decide +kernel⟩

theorem wit_RoutingRows_4 : ∃ (s : State) (h : HoopId) (x : Hoop) (k : _) (e : _), s.here h x ∧ s.poised = true ∧ (x.link k).up = true ∧ e ∈ x.wlm.table ∧ e.2.valid = true ∧ k ∈ e.2.changed ∧ ((∀ t, (x.link k).lastTrig = some t → t + 1000000 ≤ x.now)) :=
  ⟨(sA ({ hW with wlm := { hW.wlm with table := [(30, { dist := 3, port := 1, id := 8, valid := true, changed := [0] })] } })), HoopId.hoopA, _, 0, (30, { dist := 3, port := 1, id := 8, valid := true, changed := [0] }), ⟨rfl, rfl⟩, by decide +kernel⟩

theorem wit_RoutingRows_5 : ∃ (s : State) (h : HoopId) (x : Hoop) (k : _) (t : _), s.here h x ∧ (x.link k).lastTrig = some t ∧ x.now < t + 1000000 :=
  ⟨(sA ({ hW with wlm := { hW.wlm with links := [(0, { up := true, lastTrig := some 1073741800 })] } })), HoopId.hoopA, _, 0, 1073741800, ⟨rfl, rfl⟩, by decide +kernel⟩

theorem wit_RoutingRows_6 : ∃ (s : State) (h : HoopId) (x : Hoop) (a : _), s.here h x ∧ (x.rt a).valid = true ∧ (x.rt a).dist ≠ 0 ∧ (x.rt a).dist ≠ 16 ∧ (x.rt a).at_ + 30000000 ≤ x.now :=
  ⟨(sA ({ hW with wlm := { hW.wlm with table := [(30, { dist := 3, port := 1, id := 8, valid := true, changed := [0] })] } })), HoopId.hoopA, _, 30, ⟨rfl, rfl⟩, by decide +kernel⟩

theorem wit_RoutingRows_7 : ∃ (s : State) (h : HoopId) (x : Hoop) (a : _) (t : _), s.here h x ∧ (x.rt a).valid = true ∧ (x.rt a).dist = 16 ∧ (x.rt a).deadAt = some t ∧ t + 30000000 ≤ x.now :=
  ⟨(sA ({ hW with wlm := { hW.wlm with table := [(30, { dist := 16, port := 1, id := 8, valid := true, deadAt := some 9 })] } })), HoopId.hoopA, _, 30, 9, ⟨rfl, rfl⟩, by decide +kernel⟩

theorem wit_AddressRows_0 : ∃ (s : State) (h : HoopId) (x : Hoop) (a : _), s.here h x ∧ x.boot.fwRun = true ∧ x.wlm.addr = 0 ∧ x.wlm.isLeader = true ∧ s.holder = some h ∧ grantFor x x.wlm.id (preferred x) = some a :=
  ⟨(sA ({ hW with wlm := { hW.wlm with addr := 0, pref := 40, table := [], leader := 5, leaderDist := 0, isLeader := true } })), HoopId.hoopA, _, 40, ⟨rfl, rfl⟩, by decide +kernel⟩

theorem wit_AddressRows_1 : ∃ (s : State) (h : HoopId) (x : Hoop) (k : _), s.here h x ∧ s.poised = true ∧ x.boot.fwRun = true ∧ x.wlm.addr = 0 ∧ x.wlm.isLeader = false ∧ leaderLink x = some k ∧ roomFor x k 28 = true :=
  ⟨(sA ({ hW with wlm := { hW.wlm with addr := 0, pref := 40 } })), HoopId.hoopA, _, 0, ⟨rfl, rfl⟩, by decide +kernel⟩

theorem wit_AddressRows_2 : ∃ (s : State) (h : HoopId) (x : Hoop) (k : _) (b : Bytes) (p : _) (a : _) (l : _), s.here h x ∧ s.poised = true ∧ heard x k b 2 = true ∧ x.wlm.isLeader = true ∧ x.wlm.addr ≠ 0 ∧ s.holder = some h ∧ p = frPayload b ∧ grantFor x (BitVec.ofNat 64 (field p 0 8)) (field p 8 2) = some a ∧ l ∈ x.upLinks ∧ roomFor x l 28 = true :=
  ⟨(sA ({ hW with wlm := { hW.wlm with leader := 5, leaderDist := 0, isLeader := true } })), HoopId.hoopA, _, 1, (frm 0 15 2 (leBytes 8 8 ++ leBytes 2 50 ++ leBytes 2 4)), (frPayload (frm 0 15 2 (leBytes 8 8 ++ leBytes 2 50 ++ leBytes 2 4))), 50, 0, ⟨rfl, rfl⟩, by decide +kernel⟩

theorem wit_AddressRows_3 : ∃ (s : State) (h : HoopId) (x : Hoop) (k : _) (b : Bytes) (l : _), s.here h x ∧ s.poised = true ∧ heard x k b 2 = true ∧ x.wlm.isLeader = false ∧ 1 < frTtl b ∧ leaderLink x = some l ∧ roomFor x l b.length = true :=
  ⟨(sA hW), HoopId.hoopA, _, 1, (frm 0 9 2 (leBytes 8 8 ++ leBytes 2 50 ++ leBytes 2 4)), 0, ⟨rfl, rfl⟩, by decide +kernel⟩

theorem wit_AddressRows_4 : ∃ (s : State) (h : HoopId) (x : Hoop) (k : _) (b : Bytes) (m : _) (a : _), s.here h x ∧ arrives x k b 3 bcast m = true ∧ field (frPayload b) 0 8 = x.wlm.id.toNat ∧ a = field (frPayload b) 8 2 ∧ 1 ≤ a ∧ a ≤ 4094 :=
  ⟨(sA ({ hW with wlm := { hW.wlm with addr := 0 } })), HoopId.hoopA, _, 1, (frm bcast 14 3 (leBytes 8 5 ++ leBytes 2 60 ++ leBytes 2 0)), ((passWin [] (frm bcast 14 3 (leBytes 8 5 ++ leBytes 2 60 ++ leBytes 2 0))).getD []), 60, ⟨rfl, rfl⟩, by decide +kernel⟩

theorem wit_AddressRows_5 : ∃ (x : Hoop) (id : _) (pref : _), 1 ≤ pref ∧ pref ≤ 4094 ∧ addrFree x id pref = true :=
  ⟨hW, 8, 33, by decide +kernel⟩

theorem wit_AddressRows_6 : ∃ (x : Hoop) (id : _) (pref : _) (a : _), grantFor x id pref = some a :=
  ⟨hW, 8, 9, 1, by decide +kernel⟩

theorem wit_NoticeRows_0 : ∃ (s : State) (h : HoopId) (x : Hoop), s.here h x ∧ s.quiet = true ∧ x.tmb.st ≠ .halted :=
  ⟨(sA ({ hW with wlm := { hW.wlm with notices := [({ key := { initiator := 20, fcid := 6, chain := 1, ids := [5, 3] }, inPort := 3, cause := 2, left := 2, sentAt := 9 } : Notice)] } })), HoopId.hoopA, _, ⟨rfl, rfl⟩, by decide +kernel⟩

theorem wit_NoticeRows_1 : ∃ (s : State) (h : HoopId) (x : Hoop) (n : _) (a : _) (k : _), s.here h x ∧ s.poised = true ∧ x.tmb.st ≠ .halted ∧ x.wlm.notices = [n] ∧ n.sentAt + 1000000 ≤ x.now ∧ noticeTo n.key x = [a] ∧ a < bcast ∧ x.routeTo a = some k ∧ roomFor x k 32 = true :=
  ⟨(sA ({ hW with wlm := { hW.wlm with notices := [({ key := { initiator := 20, fcid := 6, chain := 1, ids := [5, 3] }, inPort := 3, cause := 2, left := 2, sentAt := 9 } : Notice)] } })), HoopId.hoopA, _, ({ key := { initiator := 20, fcid := 6, chain := 1, ids := [5, 3] }, inPort := 3, cause := 2, left := 2, sentAt := 9 } : Notice), 20, 0, ⟨rfl, rfl⟩, by decide +kernel⟩

theorem wit_NoticeRows_2 : ∃ (s : State) (h : HoopId) (x : Hoop) (k : _) (b : Bytes) (m : _), s.here h x ∧ delivered x k b 9 m = true :=
  ⟨(sA hW), HoopId.hoopA, _, 0, (frm 9 14 9 (leBytes 2 20 ++ leBytes 6 6 ++ leBytes 2 1 ++ leBytes 2 3 ++ [2, 0, 0, 0])), ((passWin [] (frm 9 14 9 (leBytes 2 20 ++ leBytes 6 6 ++ leBytes 2 1 ++ leBytes 2 3 ++ [2, 0, 0, 0]))).getD []), ⟨rfl, rfl⟩, by decide +kernel⟩

theorem wit_NoticeRows_3 : ∃ (s : State) (h : HoopId) (x : Hoop) (k : _) (b : Bytes) (m : _) (i : _) (q : _) (p : _), s.here h x ∧ s.quiet = true ∧ delivered x k b 9 m = true ∧ (i, q) ∈ x.wlm.chains ∧ i < x.n ∧ (x.thread i).st.live = true ∧ p = frPayload b ∧ q.initiator = field p 0 2 ∧ q.fcid = field p 2 6 ∧ q.chain = field p 8 2 ∧ (x.src 196).live = false :=
  ⟨(sA { { hW with wlm := { hW.wlm with chains := [(3, { initiator := 20, fcid := 6, chain := 1, ids := [5, 3] })] } } with thr := [(3, threadIn .carrying)] }), HoopId.hoopA, _, 0, (frm 9 14 9 (leBytes 2 20 ++ leBytes 6 6 ++ leBytes 2 1 ++ leBytes 2 3 ++ [2, 0, 0, 0])), ((passWin [] (frm 9 14 9 (leBytes 2 20 ++ leBytes 6 6 ++ leBytes 2 1 ++ leBytes 2 3 ++ [2, 0, 0, 0]))).getD []), 3, { initiator := 20, fcid := 6, chain := 1, ids := [5, 3] }, (frPayload (frm 9 14 9 (leBytes 2 20 ++ leBytes 6 6 ++ leBytes 2 1 ++ leBytes 2 3 ++ [2, 0, 0, 0]))), ⟨rfl, rfl⟩, by decide +kernel⟩

theorem wit_NoticeRows_4 : ∃ (s : State) (h : HoopId) (x : Hoop) (k : _), s.here h x ∧ s.poised = true ∧ x.boot.fwRun = true ∧ k ∈ x.upLinks ∧ roomFor x k 56 = true :=
  ⟨(sA hW), HoopId.hoopA, _, 0, ⟨rfl, rfl⟩, by decide +kernel⟩

theorem wit_NoticeRows_5 : ∃ (s : State) (h : HoopId) (x : Hoop) (k : _) (b : Bytes) (p : _), s.here h x ∧ s.poised = true ∧ heard x k b 0xA = true ∧ frDst b = 0 ∧ p = frPayload b ∧ field p 0 1 = 0 ∧ roomFor x k 56 = true :=
  ⟨(sA hW), HoopId.hoopA, _, 0, (frm 0 0 0xA (tcPayload 0 16000000000 16000000320 16000000640)), (frPayload (frm 0 0 0xA (tcPayload 0 16000000000 16000000320 16000000640))), ⟨rfl, rfl⟩, by decide +kernel⟩

theorem wit_NoticeRows_6 : ∃ (s : State) (h : HoopId) (x : Hoop) (k : _) (b : Bytes) (p : _), s.here h x ∧ s.poised = true ∧ heard x k b 0xA = true ∧ frDst b = 0 ∧ p = frPayload b ∧ field p 0 1 ≠ 0 :=
  ⟨(sA hW), HoopId.hoopA, _, 0, (frm 0 0 0xA (tcPayload 1 16000000000 16000000320 16000000640)), (frPayload (frm 0 0 0xA (tcPayload 1 16000000000 16000000320 16000000640))), ⟨rfl, rfl⟩, by decide +kernel⟩

theorem wit_NoticeRows_7 : ∃ (s : State) (h : HoopId) (x : Hoop) (a : _) (k : _), s.here h x ∧ s.poised = true ∧ x.boot.fwRun = true ∧ x.wlm.addr ≠ 0 ∧ x.wlm.telInterval ≠ 0 ∧ x.wlm.isLeader = false ∧ ((x.pair.role = .active ∨ x.pair.role = .standby)) ∧ x.addrOfId x.wlm.leader = some a ∧ a < bcast ∧ x.routeTo a = some k ∧ queued x k true + 64 ≤ 32768 ∧ (x.mayDefer && historyFirst x) = false :=
  ⟨(sA hW), HoopId.hoopA, _, 20, 0, ⟨rfl, rfl⟩, by decide +kernel⟩

theorem wit_NoticeRows_8 : ∃ (s : State) (h : HoopId) (x : Hoop) (k : _) (b : Bytes) (m : _), s.here h x ∧ s.poised = true ∧ delivered x k b 0xB m = true ∧ x.wlm.isLeader = true :=
  ⟨(sA ({ hW with wlm := { hW.wlm with leader := 5, leaderDist := 0, isLeader := true } })), HoopId.hoopA, _, 0, (frm 9 14 0xB (List.replicate 48 1)), ((passWin [] (frm 9 14 0xB (List.replicate 48 1))).getD []), ⟨rfl, rfl⟩, by decide +kernel⟩

theorem wit_NoticeRows_9 : ∃ (s : State) (h : HoopId) (x : Hoop) (k : _) (b : Bytes) (m : _), s.here h x ∧ s.poised = true ∧ arrives x k b 0xC bcast m = true :=
  ⟨(sA hW), HoopId.hoopA, _, 0, (frm bcast 14 0xC (List.replicate 16 1)), ((passWin [] (frm bcast 14 0xC (List.replicate 16 1))).getD []), ⟨rfl, rfl⟩, by decide +kernel⟩

def wFabricInitiatorRows_0 : State := (sA (withCmd 0 (adm 0x31 ([1, 0, 0, 0] ++ leBytes 2 20 ++ [1, 0] ++ ([1, 0, 1, 0] ++ descB 3 5 false))) ({ hR with wlm := { hW.wlm with addr := 9 } })))
theorem wit_FabricInitiatorRows_0 : ∃ (s : State) (h : HoopId) (x : Hoop) (c : _) (loc : _) (ms : _) (slot : _) (ds : _) (ens : _), x = s.hoop h ∧ passes s h 0 0x31 c fabricVerb = true ∧ fabArg (paramOf c.bytes) = some (loc, ms) ∧ freeSlot x = some slot ∧ x.wlm.addr ≠ 0 ∧ x.tb.timeValid = true ∧ ds = ms.map (fun q => distTo x (s.hoop (other h)) q.1) ∧ ds.any (· == 16) = false ∧ ens = (if (hdrOf c.bytes).hasEpoch then (hdrOf c.bytes).epochNs else fabEarliest x (maxL ds)) ∧ x.tb.ptpOf x.now + 50000 ≤ ens ∧ loc = [] :=
  ⟨wFabricInitiatorRows_0, HoopId.hoopA, _, (cmdOf (adm 0x31 ([1, 0, 0, 0] ++ leBytes 2 20 ++ [1, 0] ++ ([1, 0, 1, 0] ++ descB 3 5 false)))), (((fabArg (paramOf (cmdOf (adm 0x31 ([1, 0, 0, 0] ++ leBytes 2 20 ++ [1, 0] ++ ([1, 0, 1, 0] ++ descB 3 5 false)))).bytes)).getD ([], [])).1), (((fabArg (paramOf (cmdOf (adm 0x31 ([1, 0, 0, 0] ++ leBytes 2 20 ++ [1, 0] ++ ([1, 0, 1, 0] ++ descB 3 5 false)))).bytes)).getD ([], [])).2), 0, (((fabArg (paramOf (cmdOf (adm 0x31 ([1, 0, 0, 0] ++ leBytes 2 20 ++ [1, 0] ++ ([1, 0, 1, 0] ++ descB 3 5 false)))).bytes)).getD ([], [])).2.map (fun q => distTo (wFabricInitiatorRows_0.hoop HoopId.hoopA) (wFabricInitiatorRows_0.hoop (other HoopId.hoopA)) q.1)), (if (hdrOf (cmdOf (adm 0x31 ([1, 0, 0, 0] ++ leBytes 2 20 ++ [1, 0] ++ ([1, 0, 1, 0] ++ descB 3 5 false)))).bytes).hasEpoch then (hdrOf (cmdOf (adm 0x31 ([1, 0, 0, 0] ++ leBytes 2 20 ++ [1, 0] ++ ([1, 0, 1, 0] ++ descB 3 5 false)))).bytes).epochNs else fabEarliest (wFabricInitiatorRows_0.hoop HoopId.hoopA) (maxL (((fabArg (paramOf (cmdOf (adm 0x31 ([1, 0, 0, 0] ++ leBytes 2 20 ++ [1, 0] ++ ([1, 0, 1, 0] ++ descB 3 5 false)))).bytes)).getD ([], [])).2.map (fun q => distTo (wFabricInitiatorRows_0.hoop HoopId.hoopA) (wFabricInitiatorRows_0.hoop (other HoopId.hoopA)) q.1)))), rfl, by decide +kernel⟩

def wFabricInitiatorRows_1 : State := (sA (withCmd 0 (adm 0x31 ([1, 1, 0, 0] ++ ([1, 0, 1, 0] ++ descB 3 5 false) ++ leBytes 2 20 ++ [1, 0] ++ ([1, 0, 1, 0] ++ descB 3 5 false))) ({ hR with wlm := { hW.wlm with addr := 9 } })))
theorem wit_FabricInitiatorRows_1 : ∃ (s : State) (h : HoopId) (x : Hoop) (c : _) (loc : _) (ms : _) (slot : _) (ds : _) (ens : _) (cmp : _) (e : _), x = s.hoop h ∧ decideCommit (breakRun 0 0x31 x) { ring := 0 } true true ens (loc.map fabEdit) = .accept cmp e ∧ s.quiet = true ∧ passes s h 0 0x31 c fabricVerb = true ∧ fabArg (paramOf c.bytes) = some (loc, ms) ∧ freeSlot x = some slot ∧ x.wlm.addr ≠ 0 ∧ x.tb.timeValid = true ∧ ds = ms.map (fun q => distTo x (s.hoop (other h)) q.1) ∧ ds.any (· == 16) = false ∧ ens = (if (hdrOf c.bytes).hasEpoch then (hdrOf c.bytes).epochNs else fabEarliest x (maxL ds)) ∧ x.tb.ptpOf x.now + 50000 ≤ ens ∧ loc ≠ [] :=
  ⟨wFabricInitiatorRows_1, HoopId.hoopA, _, (cmdOf (adm 0x31 ([1, 1, 0, 0] ++ ([1, 0, 1, 0] ++ descB 3 5 false) ++ leBytes 2 20 ++ [1, 0] ++ ([1, 0, 1, 0] ++ descB 3 5 false)))), (((fabArg (paramOf (cmdOf (adm 0x31 ([1, 1, 0, 0] ++ ([1, 0, 1, 0] ++ descB 3 5 false) ++ leBytes 2 20 ++ [1, 0] ++ ([1, 0, 1, 0] ++ descB 3 5 false)))).bytes)).getD ([], [])).1), (((fabArg (paramOf (cmdOf (adm 0x31 ([1, 1, 0, 0] ++ ([1, 0, 1, 0] ++ descB 3 5 false) ++ leBytes 2 20 ++ [1, 0] ++ ([1, 0, 1, 0] ++ descB 3 5 false)))).bytes)).getD ([], [])).2), 0, (((fabArg (paramOf (cmdOf (adm 0x31 ([1, 1, 0, 0] ++ ([1, 0, 1, 0] ++ descB 3 5 false) ++ leBytes 2 20 ++ [1, 0] ++ ([1, 0, 1, 0] ++ descB 3 5 false)))).bytes)).getD ([], [])).2.map (fun q => distTo (wFabricInitiatorRows_1.hoop HoopId.hoopA) (wFabricInitiatorRows_1.hoop (other HoopId.hoopA)) q.1)), (if (hdrOf (cmdOf (adm 0x31 ([1, 1, 0, 0] ++ ([1, 0, 1, 0] ++ descB 3 5 false) ++ leBytes 2 20 ++ [1, 0] ++ ([1, 0, 1, 0] ++ descB 3 5 false)))).bytes).hasEpoch then (hdrOf (cmdOf (adm 0x31 ([1, 1, 0, 0] ++ ([1, 0, 1, 0] ++ descB 3 5 false) ++ leBytes 2 20 ++ [1, 0] ++ ([1, 0, 1, 0] ++ descB 3 5 false)))).bytes).epochNs else fabEarliest (wFabricInitiatorRows_1.hoop HoopId.hoopA) (maxL (((fabArg (paramOf (cmdOf (adm 0x31 ([1, 1, 0, 0] ++ ([1, 0, 1, 0] ++ descB 3 5 false) ++ leBytes 2 20 ++ [1, 0] ++ ([1, 0, 1, 0] ++ descB 3 5 false)))).bytes)).getD ([], [])).2.map (fun q => distTo (wFabricInitiatorRows_1.hoop HoopId.hoopA) (wFabricInitiatorRows_1.hoop (other HoopId.hoopA)) q.1)))), ((accOf (decideCommit (breakRun 0 0x31 (wFabricInitiatorRows_1.hoop HoopId.hoopA)) { ring := 0 } true true (if (hdrOf (cmdOf (adm 0x31 ([1, 1, 0, 0] ++ ([1, 0, 1, 0] ++ descB 3 5 false) ++ leBytes 2 20 ++ [1, 0] ++ ([1, 0, 1, 0] ++ descB 3 5 false)))).bytes).hasEpoch then (hdrOf (cmdOf (adm 0x31 ([1, 1, 0, 0] ++ ([1, 0, 1, 0] ++ descB 3 5 false) ++ leBytes 2 20 ++ [1, 0] ++ ([1, 0, 1, 0] ++ descB 3 5 false)))).bytes).epochNs else fabEarliest (wFabricInitiatorRows_1.hoop HoopId.hoopA) (maxL (((fabArg (paramOf (cmdOf (adm 0x31 ([1, 1, 0, 0] ++ ([1, 0, 1, 0] ++ descB 3 5 false) ++ leBytes 2 20 ++ [1, 0] ++ ([1, 0, 1, 0] ++ descB 3 5 false)))).bytes)).getD ([], [])).2.map (fun q => distTo (wFabricInitiatorRows_1.hoop HoopId.hoopA) (wFabricInitiatorRows_1.hoop (other HoopId.hoopA)) q.1)))) (((fabArg (paramOf (cmdOf (adm 0x31 ([1, 1, 0, 0] ++ ([1, 0, 1, 0] ++ descB 3 5 false) ++ leBytes 2 20 ++ [1, 0] ++ ([1, 0, 1, 0] ++ descB 3 5 false)))).bytes)).getD ([], [])).1.map fabEdit))).1), ((accOf (decideCommit (breakRun 0 0x31 (wFabricInitiatorRows_1.hoop HoopId.hoopA)) { ring := 0 } true true (if (hdrOf (cmdOf (adm 0x31 ([1, 1, 0, 0] ++ ([1, 0, 1, 0] ++ descB 3 5 false) ++ leBytes 2 20 ++ [1, 0] ++ ([1, 0, 1, 0] ++ descB 3 5 false)))).bytes).hasEpoch then (hdrOf (cmdOf (adm 0x31 ([1, 1, 0, 0] ++ ([1, 0, 1, 0] ++ descB 3 5 false) ++ leBytes 2 20 ++ [1, 0] ++ ([1, 0, 1, 0] ++ descB 3 5 false)))).bytes).epochNs else fabEarliest (wFabricInitiatorRows_1.hoop HoopId.hoopA) (maxL (((fabArg (paramOf (cmdOf (adm 0x31 ([1, 1, 0, 0] ++ ([1, 0, 1, 0] ++ descB 3 5 false) ++ leBytes 2 20 ++ [1, 0] ++ ([1, 0, 1, 0] ++ descB 3 5 false)))).bytes)).getD ([], [])).2.map (fun q => distTo (wFabricInitiatorRows_1.hoop HoopId.hoopA) (wFabricInitiatorRows_1.hoop (other HoopId.hoopA)) q.1)))) (((fabArg (paramOf (cmdOf (adm 0x31 ([1, 1, 0, 0] ++ ([1, 0, 1, 0] ++ descB 3 5 false) ++ leBytes 2 20 ++ [1, 0] ++ ([1, 0, 1, 0] ++ descB 3 5 false)))).bytes)).getD ([], [])).1.map fabEdit))).2), rfl, accOf_eq (by decide +kernel), by decide +kernel⟩

def wFabricInitiatorRows_2 : State := (sA (withCmd 0 (adm 0x31 ([1, 0, 0, 0] ++ leBytes 2 20 ++ [1, 0] ++ ([1, 0, 1, 0] ++ descB 3 5 false))) ({ hR with wlm := { hW.wlm with addr := 9 } })))
theorem wit_FabricInitiatorRows_2 : ∃ (s : State) (h : HoopId) (x : Hoop) (c : _) (a : _) (es : _) (slot : _) (ens : _) (k : _) (b : _), x = s.hoop h ∧ b = nextFrame x a 4 (proposePayload (x.nextCplSeq 0) ens 1 [x.wlm.addr.toNat, a] es) ∧ s.poised = true ∧ passes s h 0 0x31 c fabricVerb = true ∧ fabArg (paramOf c.bytes) = some ([], [(a, es)]) ∧ freeSlot x = some slot ∧ x.wlm.addr ≠ 0 ∧ x.tb.timeValid = true ∧ distTo x (s.hoop (other h)) a ≠ 16 ∧ ens = (if (hdrOf c.bytes).hasEpoch then (hdrOf c.bytes).epochNs else fabEarliest x (maxL [distTo x (s.hoop (other h)) a])) ∧ x.tb.ptpOf x.now + 50000 ≤ ens ∧ x.routeTo a = some k ∧ roomFor x k b.length = true :=
  ⟨wFabricInitiatorRows_2, HoopId.hoopA, _, (cmdOf (adm 0x31 ([1, 0, 0, 0] ++ leBytes 2 20 ++ [1, 0] ++ ([1, 0, 1, 0] ++ descB 3 5 false)))), 20, [([1, 0, 1, 0] ++ descB 3 5 false)], 0, (if (hdrOf (cmdOf (adm 0x31 ([1, 0, 0, 0] ++ leBytes 2 20 ++ [1, 0] ++ ([1, 0, 1, 0] ++ descB 3 5 false)))).bytes).hasEpoch then (hdrOf (cmdOf (adm 0x31 ([1, 0, 0, 0] ++ leBytes 2 20 ++ [1, 0] ++ ([1, 0, 1, 0] ++ descB 3 5 false)))).bytes).epochNs else fabEarliest (wFabricInitiatorRows_2.hoop HoopId.hoopA) (maxL (((fabArg (paramOf (cmdOf (adm 0x31 ([1, 0, 0, 0] ++ leBytes 2 20 ++ [1, 0] ++ ([1, 0, 1, 0] ++ descB 3 5 false)))).bytes)).getD ([], [])).2.map (fun q => distTo (wFabricInitiatorRows_2.hoop HoopId.hoopA) (wFabricInitiatorRows_2.hoop (other HoopId.hoopA)) q.1)))), 0, (nextFrame (wFabricInitiatorRows_2.hoop HoopId.hoopA) 20 4 (proposePayload ((wFabricInitiatorRows_2.hoop HoopId.hoopA).nextCplSeq 0) (if (hdrOf (cmdOf (adm 0x31 ([1, 0, 0, 0] ++ leBytes 2 20 ++ [1, 0] ++ ([1, 0, 1, 0] ++ descB 3 5 false)))).bytes).hasEpoch then (hdrOf (cmdOf (adm 0x31 ([1, 0, 0, 0] ++ leBytes 2 20 ++ [1, 0] ++ ([1, 0, 1, 0] ++ descB 3 5 false)))).bytes).epochNs else fabEarliest (wFabricInitiatorRows_2.hoop HoopId.hoopA) (maxL (((fabArg (paramOf (cmdOf (adm 0x31 ([1, 0, 0, 0] ++ leBytes 2 20 ++ [1, 0] ++ ([1, 0, 1, 0] ++ descB 3 5 false)))).bytes)).getD ([], [])).2.map (fun q => distTo (wFabricInitiatorRows_2.hoop HoopId.hoopA) (wFabricInitiatorRows_2.hoop (other HoopId.hoopA)) q.1)))) 1 [(wFabricInitiatorRows_2.hoop HoopId.hoopA).wlm.addr.toNat, 20] [([1, 0, 1, 0] ++ descB 3 5 false)])), rfl, rfl, by decide +kernel⟩

theorem wit_FabricInitiatorRows_3 : ∃ (s : State) (h : HoopId) (x : Hoop) (k : _) (b : Bytes) (m : _) (fcid : _) (src : _) (f : _) (g : _), s.here h x ∧ delivered x k b 5 m = true ∧ fcid = field (frPayload b) 0 6 ∧ src = frSrc b ∧ initFab x fcid = some f ∧ f.st = 1 ∧ src ∈ f.members ∧ src ∉ f.readyIn ∧ g = { f with readyIn := f.readyIn ++ [src] } :=
  ⟨(sA { hR with wlm := { hW.wlm with fabs := [(0, { st := 1, init := true, fcid := 6, initiator := 9, members := [20], readyIn := [], results := [], epoch := 1074000000, epochNs := 1074000000, localSeq := none, reason := 0 })] } }), HoopId.hoopA, _, 0, (frm 9 14 5 (leBytes 6 6 ++ [0, 0])), ((passWin [] (frm 9 14 5 (leBytes 6 6 ++ [0, 0]))).getD []), 6, 20, { st := 1, init := true, fcid := 6, initiator := 9, members := [20], readyIn := [], results := [], epoch := 1074000000, epochNs := 1074000000, localSeq := none, reason := 0 }, { ({ st := 1, init := true, fcid := 6, initiator := 9, members := [20], readyIn := [], results := [], epoch := 1074000000, epochNs := 1074000000, localSeq := none, reason := 0 } : Fab) with readyIn := [20] }, ⟨rfl, rfl⟩, by decide +kernel⟩

theorem wit_FabricInitiatorRows_4 : ∃ (s : State) (h : HoopId) (x : Hoop) (k : _) (b : Bytes) (m : _) (fcid : _) (src : _) (f : _) (l : _), s.here h x ∧ s.poised = true ∧ delivered x k b 5 m = true ∧ fcid = field (frPayload b) 0 6 ∧ src = frSrc b ∧ initFab x fcid = some f ∧ f.st = 1 ∧ f.members = [src] ∧ f.readyIn = [] ∧ mayGo x f = true ∧ x.routeTo src = some l ∧ roomFor x l 24 = true :=
  ⟨(sA { hR with wlm := { hW.wlm with fabs := [(0, { st := 1, init := true, fcid := 6, initiator := 9, members := [20], readyIn := [], results := [], epoch := 1074000000, epochNs := 1074000000, localSeq := none, reason := 0 })] } }), HoopId.hoopA, _, 0, (frm 9 14 5 (leBytes 6 6 ++ [0, 0])), ((passWin [] (frm 9 14 5 (leBytes 6 6 ++ [0, 0]))).getD []), 6, 20, { st := 1, init := true, fcid := 6, initiator := 9, members := [20], readyIn := [], results := [], epoch := 1074000000, epochNs := 1074000000, localSeq := none, reason := 0 }, 0, ⟨rfl, rfl⟩, by decide +kernel⟩

theorem wit_FabricInitiatorRows_5 : ∃ (s : State) (h : HoopId) (x : Hoop) (k : _) (b : Bytes) (m : _) (fcid : _) (src : _) (f : _) (g : _), s.here h x ∧ delivered x k b 8 m = true ∧ fcid = field (frPayload b) 0 6 ∧ src = frSrc b ∧ initFab x fcid = some f ∧ src ∈ f.members ∧ f.results.any (fun q => q.1 == src) = false ∧ g = { f with results := f.results ++ [(src, min 2 (field (frPayload b) 6 1))] } :=
  ⟨(sA { hR with wlm := { hW.wlm with fabs := [(0, { st := 3, init := true, fcid := 6, initiator := 9, members := [20], readyIn := [], results := [], epoch := 1074000000, epochNs := 1074000000, localSeq := none, reason := 0 })] } }), HoopId.hoopA, _, 0, (frm 9 14 8 (leBytes 6 6 ++ [0, 0])), ((passWin [] (frm 9 14 8 (leBytes 6 6 ++ [0, 0]))).getD []), 6, 20, { st := 3, init := true, fcid := 6, initiator := 9, members := [20], readyIn := [], results := [], epoch := 1074000000, epochNs := 1074000000, localSeq := none, reason := 0 }, { ({ st := 3, init := true, fcid := 6, initiator := 9, members := [20], readyIn := [], results := [], epoch := 1074000000, epochNs := 1074000000, localSeq := none, reason := 0 } : Fab) with results := [(20, 0)] }, ⟨rfl, rfl⟩, by decide +kernel⟩

theorem wit_FabricInitiatorRows_6 : ∃ (s : State) (h : HoopId) (x : Hoop) (slot : _) (f : _), s.here h x ∧ smFind x.wlm.fabs slot = some f ∧ f.init = true ∧ f.st = 1 ∧ f.epoch ≤ x.now + 20000 ∧ x.cm.pending.any (fun d => d.fcid == some (fcKey f.initiator f.fcid)) = false :=
  ⟨(sA { hR with wlm := { hW.wlm with fabs := [(0, { st := 1, init := true, fcid := 6, initiator := 9, members := [20], readyIn := [], results := [], epoch := 1073741900, epochNs := 1074000000, localSeq := none, reason := 0 })] } }), HoopId.hoopA, _, 0, { st := 1, init := true, fcid := 6, initiator := 9, members := [20], readyIn := [], results := [], epoch := 1073741900, epochNs := 1074000000, localSeq := none, reason := 0 }, ⟨rfl, rfl⟩, by decide +kernel⟩

theorem wit_FabricInitiatorRows_7 : ∃ (s : State) (h : HoopId) (x : Hoop) (slot : _) (f : _) (d : _), s.here h x ∧ s.quiet = true ∧ smFind x.wlm.fabs slot = some f ∧ f.init = true ∧ f.st = 1 ∧ f.epoch ≤ x.now + 20000 ∧ x.cm.pending.find? (fun d => d.fcid == some (fcKey f.initiator f.fcid)) = some d :=
  ⟨(sA { hR with wlm := { hW.wlm with fabs := [(0, { st := 1, init := true, fcid := 6, initiator := 9, members := [20], readyIn := [], results := [], epoch := 1073741900, epochNs := 1074000000, localSeq := none, reason := 0 })] }, cm := { pending := [{ seq := 9, ring := 0, tenant := 0, epochNs := 1074000000, epoch := 1074000000, changes := [], delta := [], chans := [], deps := [], fcid := some (fcKey 9 6) }] } }), HoopId.hoopA, _, 0, { st := 1, init := true, fcid := 6, initiator := 9, members := [20], readyIn := [], results := [], epoch := 1073741900, epochNs := 1074000000, localSeq := none, reason := 0 }, { seq := 9, ring := 0, tenant := 0, epochNs := 1074000000, epoch := 1074000000, changes := [], delta := [], chans := [], deps := [], fcid := some (fcKey 9 6) }, ⟨rfl, rfl⟩, by decide +kernel⟩

theorem wit_FabricInitiatorRows_8 : ∃ (s : State) (h : HoopId) (x : Hoop) (slot : _) (f : _), s.here h x ∧ ((f.st = 1 ∨ f.st = 2)) ∧ smFind x.wlm.fabs slot = some f ∧ f.init = true ∧ f.epoch ≤ x.now + 10000 ∧ x.cm.pending.any (fun d => d.fcid == some (fcKey f.initiator f.fcid)) = false :=
  ⟨(sA { hR with wlm := { hW.wlm with fabs := [(0, { st := 2, init := true, fcid := 6, initiator := 9, members := [20], readyIn := [], results := [], epoch := 1073741900, epochNs := 1074000000, localSeq := none, reason := 0 })] } }), HoopId.hoopA, _, 0, { st := 2, init := true, fcid := 6, initiator := 9, members := [20], readyIn := [], results := [], epoch := 1073741900, epochNs := 1074000000, localSeq := none, reason := 0 }, ⟨rfl, rfl⟩, Or.inr rfl, by decide +kernel⟩

theorem wit_FabricInitiatorRows_9 : ∃ (s : State) (h : HoopId) (x : Hoop) (slot : _) (f : _) (d : _), s.here h x ∧ ((f.st = 1 ∨ f.st = 2)) ∧ s.quiet = true ∧ smFind x.wlm.fabs slot = some f ∧ f.init = true ∧ f.epoch ≤ x.now + 10000 ∧ x.cm.pending.find? (fun d => d.fcid == some (fcKey f.initiator f.fcid)) = some d :=
  ⟨(sA { hR with wlm := { hW.wlm with fabs := [(0, { st := 2, init := true, fcid := 6, initiator := 9, members := [20], readyIn := [], results := [], epoch := 1073741900, epochNs := 1074000000, localSeq := none, reason := 0 })] }, cm := { pending := [{ seq := 9, ring := 0, tenant := 0, epochNs := 1074000000, epoch := 1074000000, changes := [], delta := [], chans := [], deps := [], fcid := some (fcKey 9 6) }] } }), HoopId.hoopA, _, 0, { st := 2, init := true, fcid := 6, initiator := 9, members := [20], readyIn := [], results := [], epoch := 1073741900, epochNs := 1074000000, localSeq := none, reason := 0 }, { seq := 9, ring := 0, tenant := 0, epochNs := 1074000000, epoch := 1074000000, changes := [], delta := [], chans := [], deps := [], fcid := some (fcKey 9 6) }, ⟨rfl, rfl⟩, Or.inr rfl, by decide +kernel⟩

theorem wit_FabricInitiatorRows_10 : ∃ (s : State) (h : HoopId) (x : Hoop) (slot : _) (f : _), s.here h x ∧ slot < 5 ∧ smFind x.wlm.fabs slot = some f ∧ f.init = true ∧ f.epoch + 200000 ≤ x.now :=
  ⟨(sA { hR with wlm := { hW.wlm with fabs := [(0, { st := 4, init := true, fcid := 6, initiator := 9, members := [20], readyIn := [], results := [], epoch := 1073500000, epochNs := 1074000000, localSeq := none, reason := 0 })] } }), HoopId.hoopA, _, 0, { st := 4, init := true, fcid := 6, initiator := 9, members := [20], readyIn := [], results := [], epoch := 1073500000, epochNs := 1074000000, localSeq := none, reason := 0 }, ⟨rfl, rfl⟩, by decide +kernel⟩

def wFabricMemberRows_0 : State := (sA { hR with wlm := { hW.wlm with addr := 9 } })
theorem wit_FabricMemberRows_0 : ∃ (s : State) (h : HoopId) (x : Hoop) (y : _) (k : _) (b : Bytes) (m : _) (p : _) (ens : _) (slot : _) (raw : _) (cmp : _) (e : _), s.here h x ∧ delivered x k b 4 m = true ∧ decideCommit y { ring := 0, fabric := true } true true ens (raw.map fabEdit) = .accept cmp e ∧ s.quiet = true ∧ y = received k m x ∧ p = frPayload b ∧ ens = field p 6 6 * 1000000000 + field p 12 4 ∧ raw = fabEntries (field p 17 1) (p.drop 52) ∧ x.tb.timeValid = true ∧ freeSlot x = some slot ∧ x.now + 20000 ≤ x.tb.cntOf ens ∧ 1 ≤ field p 17 1 ∧ field p 17 1 ≤ 37 ∧ 52 + 12 * field p 17 1 ≤ p.length ∧ field p 12 4 ≤ 999999999 ∧ ens ≤ x.tb.ptpOf x.now + 3600000000000 ∧ fabListOk raw = true ∧ raw.all (fabFieldsOk y) = true :=
  ⟨wFabricMemberRows_0, HoopId.hoopA, _, (received 0 ((passWin [] propF).getD []) (wFabricMemberRows_0.hoop HoopId.hoopA)), 0, propF, ((passWin [] propF).getD []), (frPayload propF), 1074000000, 0, (fabEntries 1 ((frPayload propF).drop 52)), ((accOf (decideCommit (received 0 ((passWin [] propF).getD []) (wFabricMemberRows_0.hoop HoopId.hoopA)) { ring := 0, fabric := true } true true 1074000000 ((fabEntries 1 ((frPayload propF).drop 52)).map fabEdit))).1), ((accOf (decideCommit (received 0 ((passWin [] propF).getD []) (wFabricMemberRows_0.hoop HoopId.hoopA)) { ring := 0, fabric := true } true true 1074000000 ((fabEntries 1 ((frPayload propF).drop 52)).map fabEdit))).2), ⟨rfl, rfl⟩, propF_delivered (by decide +kernel), accOf_eq (by decide +kernel), by decide +kernel⟩

theorem wit_FabricMemberRows_1 : ∃ (s : State) (h : HoopId) (x : Hoop) (k : _) (b : Bytes) (m : _) (l : _), s.here h x ∧ delivered x k b 4 m = true ∧ s.poised = true ∧ x.tb.timeValid = false ∧ x.routeTo (frSrc b) = some l ∧ roomFor x l 24 = true :=
  ⟨(sA { hR with wlm := { hW.wlm with addr := 9 }, tb := { hR.tb with timeValid := false } }), HoopId.hoopA, _, 0, propF, ((passWin [] propF).getD []), 0, ⟨rfl, rfl⟩, propF_delivered (by decide +kernel), by decide +kernel⟩

theorem wit_FabricMemberRows_2 : ∃ (s : State) (h : HoopId) (x : Hoop) (k : _) (b : Bytes) (m : _) (l : _), s.here h x ∧ delivered x k b 4 m = true ∧ s.poised = true ∧ x.tb.timeValid = true ∧ freeSlot x = none ∧ x.routeTo (frSrc b) = some l ∧ roomFor x l 24 = true :=
  ⟨(sA { hR with wlm := { hW.wlm with fabs := [(0, { st := 2, init := false, fcid := 6, initiator := 20, members := [9], readyIn := [], results := [], epoch := 1074000000, epochNs := 1074000000, localSeq := some 6, reason := 0 }), (1, { st := 2, init := false, fcid := 6, initiator := 20, members := [9], readyIn := [], results := [], epoch := 1074000000, epochNs := 1074000000, localSeq := some 6, reason := 0 }), (2, { st := 2, init := false, fcid := 6, initiator := 20, members := [9], readyIn := [], results := [], epoch := 1074000000, epochNs := 1074000000, localSeq := some 6, reason := 0 }), (3, { st := 2, init := false, fcid := 6, initiator := 20, members := [9], readyIn := [], results := [], epoch := 1074000000, epochNs := 1074000000, localSeq := some 6, reason := 0 }), (4, { st := 2, init := false, fcid := 6, initiator := 20, members := [9], readyIn := [], results := [], epoch := 1074000000, epochNs := 1074000000, localSeq := some 6, reason := 0 })] } }), HoopId.hoopA, _, 0, propF, ((passWin [] propF).getD []), 0, ⟨rfl, rfl⟩, propF_delivered (by decide +kernel), by decide +kernel⟩

theorem wit_FabricMemberRows_3 : ∃ (s : State) (h : HoopId) (x : Hoop) (k : _) (b : Bytes) (m : _) (slot : _) (f : _), s.here h x ∧ delivered x k b 6 m = true ∧ memberFab x (frSrc b) (field (frPayload b) 0 6) = some (slot, f) ∧ f.st = 2 :=
  ⟨(sA { hR with wlm := { hW.wlm with fabs := [(0, { st := 2, init := false, fcid := 6, initiator := 20, members := [9], readyIn := [], results := [], epoch := 1074000000, epochNs := 1074000000, localSeq := some 6, reason := 0 })] } }), HoopId.hoopA, _, 0, (frm 9 14 6 (leBytes 6 6 ++ [0, 0])), ((passWin [] (frm 9 14 6 (leBytes 6 6 ++ [0, 0]))).getD []), 0, { st := 2, init := false, fcid := 6, initiator := 20, members := [9], readyIn := [], results := [], epoch := 1074000000, epochNs := 1074000000, localSeq := some 6, reason := 0 }, ⟨rfl, rfl⟩, by decide +kernel⟩

theorem wit_FabricMemberRows_4 : ∃ (s : State) (h : HoopId) (x : Hoop) (k : _) (b : Bytes) (m : _) (slot : _) (f : _), s.here h x ∧ delivered x k b 7 m = true ∧ memberFab x (frSrc b) (field (frPayload b) 0 6) = some (slot, f) :=
  ⟨(sA { hR with wlm := { hW.wlm with fabs := [(0, { st := 2, init := false, fcid := 6, initiator := 20, members := [9], readyIn := [], results := [], epoch := 1074000000, epochNs := 1074000000, localSeq := some 6, reason := 0 })] } }), HoopId.hoopA, _, 0, (frm 9 14 7 (leBytes 6 6 ++ [11, 7])), ((passWin [] (frm 9 14 7 (leBytes 6 6 ++ [11, 7]))).getD []), 0, { st := 2, init := false, fcid := 6, initiator := 20, members := [9], readyIn := [], results := [], epoch := 1074000000, epochNs := 1074000000, localSeq := some 6, reason := 0 }, ⟨rfl, rfl⟩, by decide +kernel⟩

theorem wit_FabricMemberRows_5 : ∃ (s : State) (h : HoopId) (x : Hoop) (k : _) (b : Bytes) (m : _) (slot : _) (f : _) (d : _), s.here h x ∧ s.quiet = true ∧ delivered x k b 7 m = true ∧ memberFab x (frSrc b) (field (frPayload b) 0 6) = some (slot, f) ∧ x.cm.pending.find? (fun d => d.fcid == some (fcKey (frSrc b) (field (frPayload b) 0 6))) = some d :=
  ⟨(sA { hR with wlm := { hW.wlm with fabs := [(0, { st := 2, init := false, fcid := 6, initiator := 20, members := [9], readyIn := [], results := [], epoch := 1074000000, epochNs := 1074000000, localSeq := some 6, reason := 0 })] }, cm := { pending := [{ seq := 9, ring := 0, tenant := 0, epochNs := 1074000000, epoch := 1074000000, changes := [], delta := [], chans := [], deps := [], fcid := some (fcKey 20 6) }] } }), HoopId.hoopA, _, 0, (frm 9 14 7 (leBytes 6 6 ++ [11, 7])), ((passWin [] (frm 9 14 7 (leBytes 6 6 ++ [11, 7]))).getD []), 0, { st := 2, init := false, fcid := 6, initiator := 20, members := [9], readyIn := [], results := [], epoch := 1074000000, epochNs := 1074000000, localSeq := some 6, reason := 0 }, { seq := 9, ring := 0, tenant := 0, epochNs := 1074000000, epoch := 1074000000, changes := [], delta := [], chans := [], deps := [], fcid := some (fcKey 20 6) }, ⟨rfl, rfl⟩, by decide +kernel⟩

theorem wit_FabricMemberRows_6 : ∃ (s : State) (h : HoopId) (x : Hoop) (k : _) (b : Bytes) (m : _) (a : _) (f : _) (fcid : _), s.here h x ∧ ((f.st = 1 ∨ f.st = 2)) ∧ delivered x k b 7 m = true ∧ fcid = field (frPayload b) 0 6 ∧ memberFab x (frSrc b) fcid = none ∧ initFab x fcid = some f ∧ f.members = [frSrc b, a] ∧ frSrc b ≠ a ∧ f.results = [] ∧ x.cm.pending.any (fun d => d.fcid == some (fcKey f.initiator f.fcid)) = false :=
  ⟨(sA { hR with wlm := { hW.wlm with fabs := [(0, { st := 1, init := true, fcid := 6, initiator := 9, members := [20, 30], readyIn := [], results := [], epoch := 1074000000, epochNs := 1074000000, localSeq := none, reason := 0 })] } }), HoopId.hoopA, _, 0, (frm 9 14 7 (leBytes 6 6 ++ [11, 7])), ((passWin [] (frm 9 14 7 (leBytes 6 6 ++ [11, 7]))).getD []), 30, { st := 1, init := true, fcid := 6, initiator := 9, members := [20, 30], readyIn := [], results := [], epoch := 1074000000, epochNs := 1074000000, localSeq := none, reason := 0 }, 6, ⟨rfl, rfl⟩, Or.inl rfl, by decide +kernel⟩

theorem wit_FabricMemberRows_7 : ∃ (s : State) (h : HoopId) (x : Hoop) (k : _) (f : _), s.here h x ∧ 9 ≤ k ∧ k ≤ 13 ∧ cmpDue x k = true ∧ smFind x.wlm.fabs (k - 9) = some f :=
  ⟨(sA { hR with wlm := { hW.wlm with fabs := [(0, { st := 2, init := false, fcid := 6, initiator := 20, members := [9], readyIn := [], results := [], epoch := 1074000000, epochNs := 1074000000, localSeq := some 6, reason := 0 })] }, tb := { hR.tb with cmps := [(9, { t16 := 0x400000000, armed := true })] } }), HoopId.hoopA, _, 9, { st := 2, init := false, fcid := 6, initiator := 20, members := [9], readyIn := [], results := [], epoch := 1074000000, epochNs := 1074000000, localSeq := some 6, reason := 0 }, ⟨rfl, rfl⟩, by decide +kernel⟩

theorem wit_FabricMemberRows_8 : ∃ (s : State) (h : HoopId) (x : Hoop) (k : _) (f : _) (d : _), s.here h x ∧ s.quiet = true ∧ 9 ≤ k ∧ k ≤ 13 ∧ cmpDue x k = true ∧ smFind x.wlm.fabs (k - 9) = some f ∧ f.init = false ∧ f.st = 2 ∧ x.cm.pending.find? (fun d => d.fcid == some (fcKey f.initiator f.fcid)) = some d :=
  ⟨(sA { hR with wlm := { hW.wlm with fabs := [(0, { st := 2, init := false, fcid := 6, initiator := 20, members := [9], readyIn := [], results := [], epoch := 1074000000, epochNs := 1074000000, localSeq := some 6, reason := 0 })] }, cm := { pending := [{ seq := 9, ring := 0, tenant := 0, epochNs := 1074000000, epoch := 1074000000, changes := [], delta := [], chans := [], deps := [], fcid := some (fcKey 20 6) }] }, tb := { hR.tb with cmps := [(9, { t16 := 0x400000000, armed := true })] } }), HoopId.hoopA, _, 9, { st := 2, init := false, fcid := 6, initiator := 20, members := [9], readyIn := [], results := [], epoch := 1074000000, epochNs := 1074000000, localSeq := some 6, reason := 0 }, { seq := 9, ring := 0, tenant := 0, epochNs := 1074000000, epoch := 1074000000, changes := [], delta := [], chans := [], deps := [], fcid := some (fcKey 20 6) }, ⟨rfl, rfl⟩, by decide +kernel⟩


end Sys2Proof.Tests
end

section
/-!
SUPPORT. Register writes of the host and reads over SMBus: what each block makes of a write, and the statement O49.
-/

namespace Sys2Proof.Machine
open Sys2Proof

/-! ## REGISTER_WRITE (R9, R343, R345) -/

theorem exec_registerWrite (h : HoopId) (off size : Nat) (v : BitVec 32) (s : State) :
    exec (.registerWrite h off size v) s = .next (if size = 4 ∧ off % 4 = 0 then s.act h (bar0Write off v) else s) := rfl

theorem exec_registerWrite_aligned (h : HoopId) {off : Nat} (v : BitVec 32) (s : State) (e : off % 4 = 0) :
    exec (.registerWrite h off 4 v) s = .next (s.act h (bar0Write off v)) := by
  rw [exec_registerWrite, if_pos ⟨rfl, e⟩]

theorem exec_registerWrite_ignored (h : HoopId) {off size : Nat} (v : BitVec 32) (s : State) (e : size ≠ 4 ∨ off % 4 ≠ 0) :
    exec (.registerWrite h off size v) s = .next s := by
  rw [exec_registerWrite, if_neg (by omega)]

/-- The first sixteen pages are the rings' (R345). -/
theorem bar0Write_ringPage {r o : Nat} (v : Word) (x : Hoop) (hr : r < 16) (ho : o < 0x1000) :
    bar0Write (r * 0x1000 + o) v x = x.updRing r (mbxWrite o v) := by
  have hlt : Nat.blt (r * 0x1000 + o) 0x10000 = true := by rw [Nat.blt_eq]; omega
  have hq : (r * 0x1000 + o) / 0x1000 = r := by omega
  have hm : (r * 0x1000 + o) % 0x1000 = o := by omega
  simp only [bar0Write, hlt, hq, hm, if_true]

/-- The blocks behind the rings' pages. -/
theorem bar0Write_block {off : Nat} (v : Word) (x : Hoop) (h : 0x10000 ≤ off) :
    bar0Write off v x = if off = 0x30090 then { x with tb := { x.tb with ppsInLimit := v } }
      else if off / 0x10000 = 8 then { x with pmc := pmcWrite x.part (off % 0x10000) v x.pmc }
      else if 0xF0000 ≤ off ∧ off < 0xF0400 then msixWrite ((off - 0xF0000) / 4) v x else x := by
  have hge : ¬ Nat.blt off 0x10000 = true := by rw [Nat.blt_eq]; omega
  simp only [bar0Write, if_neg hge]

theorem bar0Write_ppsLimit (v : Word) (x : Hoop) : bar0Write 0x30090 v x = { x with tb := { x.tb with ppsInLimit := v } } := rfl

theorem bar0Write_pmc {o : Nat} (v : Word) (x : Hoop) (h : o < 0x10000) :
    bar0Write (0x80000 + o) v x = { x with pmc := pmcWrite x.part o v x.pmc } := by
  rw [bar0Write_block v x (by omega), if_neg (by omega), if_pos (by omega), show (0x80000 + o) % 0x10000 = o by omega]

theorem bar0Write_msix {w : Nat} (v : Word) (x : Hoop) (h : w < 256) : bar0Write (0xF0000 + 4 * w) v x = msixWrite w v x := by
  rw [bar0Write_block v x (by omega), if_neg (by omega), if_neg (by omega), if_pos (by omega), show (0xF0000 + 4 * w - 0xF0000) / 4 = w by omega]

/-- An offset in no block that this row writes is ignored (R9). -/
theorem bar0Write_ignored {off : Nat} (v : Word) (x : Hoop) (h : 0x10000 ≤ off) (hp : off ≠ 0x30090) (h8 : off / 0x10000 ≠ 8)
    (h15 : off / 0x10000 ≠ 15) : bar0Write off v x = x := by
  rw [bar0Write_block v x h, if_neg hp, if_neg h8, if_neg (by omega)]

@[simp] theorem updRing_ring_self (x : Hoop) (r : Nat) (f : Ring → Ring) : (x.updRing r f).ring r = f (x.ring r) :=
  smGet_smSet_self ..

/-- What an aligned write in a ring's page makes of the ring's own registers. -/
theorem registerWrite_ring {s : State} {h : HoopId} {x : Hoop} {r o : Nat} {v : BitVec 32} {g : Ring} (e : s.here h x) (hr : r < 16)
    (ho : o < 0x1000) (ha : o % 4 = 0) (hg : (mbxWrite o v (x.ring r)).mail = g) :
    CompletesWith (.registerWrite h (r * 0x1000 + o) 4 v) s h (fun y => y.mail r = g) := by
  refine gives_mail (bar0Write (r * 0x1000 + o) v) e (exec_registerWrite_aligned h v s (by omega)) fun y hy => ?_
  rw [hy, bar0Write_ringPage v x hr ho, Hoop.mail, updRing_ring_self, hg]

/-- While the ring is enabled its bases and sizes stand (R345). -/
theorem mbxWrite_enabled {o : Nat} (v : Word) (g : Ring) (en : g.en = true) (ho : o < 0x20) (ha : o % 4 = 0) : mbxWrite o v g = g := by
  obtain ⟨k, rfl⟩ : ∃ k, o = 4 * k := ⟨o / 4, by omega⟩
  have hk : k < 8 := by omega
  interval_cases k <;> simp [mbxWrite, en]

theorem mbxWrite_cmdSize (v : Word) (g : Ring) (en : g.en = false) (hv : v.toNat % 16 ≤ 8) :
    mbxWrite 8 v g = { g with cmdSize := BitVec.ofNat 4 v.toNat } := by
  have hn : ¬ (g.en || Nat.blt 8 (v.toNat % 16)) = true := by simp [en, Nat.blt_eq]; omega
  exact if_neg hn

theorem mbxWrite_cmdBase (v : Word) (g : Ring) (en : g.en = false) : mbxWrite 0 v g = { g with cmdBase := putLo g.cmdBase v 64 } :=
  if_neg (by simp [en])

/-! ## MSI-X table (R342) -/

theorem msixRead_of_calm {x y : Hoop} (h : x.calm = y.calm) (w : Nat) : msixRead x w = msixRead y w := by
  have e := congrArg (fun z : Hoop => msixRead z w) h; exact e

theorem msixRead_msixWrite_data {w : Nat} (v : Word) (x : Hoop) (h : w % 4 = 2) : msixRead (msixWrite w v x) w = v := by
  have hv : (if w % 4 = 0 then v &&& 0xFFFFFFFC else if w % 4 = 3 then v &&& 1 else v) = v := by rw [if_neg (by omega), if_neg (by omega)]
  exact (smGet_smSet_self ..).trans hv

theorem msixRead_msixWrite_ne {w u : Nat} (v : Word) (x : Hoop) (h : u ≠ w) : msixRead (msixWrite w v x) u = msixRead x u :=
  smGet_smSet_ne _ _ _ _ h

/-! ## The statement -/

/-- Settles O49: each write is the write of its block, read back through the blocks that `settle` leaves alone. -/
theorem registerWrites : Obligations.RegisterWrites := by
  unfold Obligations.RegisterWrites
  refine ⟨?base, ?size, ?enabled, ?vector, ?pps, ?pmc, ?ignored, ?msix, ?unaligned, ?smbus, ?alert⟩
  case base =>
    intro s h x r v e hr en
    have hw := registerWrite_ring e hr (by decide) rfl (congrArg Ring.mail (mbxWrite_cmdBase v _ en))
    rwa [Nat.add_zero] at hw
  case size =>
    intro s h x r v e hr en hv
    exact registerWrite_ring e hr (by decide) rfl (congrArg Ring.mail (mbxWrite_cmdSize v _ en hv))
  case enabled =>
    intro s h x r o v e hr en ho ha
    exact registerWrite_ring e hr (by omega) ha (congrArg Ring.mail (mbxWrite_enabled v _ en ho ha))
  case vector =>
    intro s h x r v e hr
    exact registerWrite_ring e hr (by decide) rfl rfl
  case pps =>
    intro s h x v e
    exact makes_act _ e (exec_registerWrite_aligned h v s rfl) (congrArg Hoop.calm (bar0Write_ppsLimit v x))
  case pmc =>
    intro s h x o v e ho ha
    exact makes_act _ e (exec_registerWrite_aligned h v s (by omega)) (congrArg Hoop.calm (bar0Write_pmc v x ho))
  case ignored =>
    intro s h x o v e hb hp h8 h15
    by_cases ha : o % 4 = 0
    · exact makes_act _ e (exec_registerWrite_aligned h v s ha) (congrArg Hoop.calm (bar0Write_ignored v x hb hp h8 h15))
    · exact ⟨s, exec_registerWrite_ignored h v s (.inr ha), congrArg Hoop.calm e.2, rfl⟩
  case msix =>
    intro s h x w v e hw
    refine gives_act (bar0Write (0xF0000 + 4 * w) v) e (exec_registerWrite_aligned h v s (by omega)) fun y hy => ?_
    rw [bar0Write_msix v x hw] at hy
    exact ⟨fun h2 => (msixRead_of_calm hy w).trans (msixRead_msixWrite_data v x h2),
      fun u hu => (msixRead_of_calm hy u).trans (msixRead_msixWrite_ne v x hu)⟩
  case unaligned =>
    intro s h o size v e
    exact exec_registerWrite_ignored h v s e
  case smbus =>
    intro s h x cmd e hfw
    exact makes_act (fun x => if x.boot.fwRun then { x with bus := bmcWord x (s.hoop (other h)) cmd.toNat } else x) e rfl
      (congrArg Hoop.calm (if_pos hfw))
  case alert =>
    intro s h x e hfw hh
    exact makes_act (fun x => if x.boot.fwRun && x.fc.hold then { x with bus := smbusAddr x } else x) e rfl
      (congrArg Hoop.calm (if_pos (by rw [hfw, hh]; rfl)))
end Sys2Proof.Machine
end

section
/-!
SUPPORT. A power-on reset by the supply of the dark keeper, and the statement O50, which it refutes.
-/

namespace Sys2Proof.Machine
open Sys2Proof

theorem Dk.armed_of_calm {x y : Hoop} (h : x.calm = y.calm) : x.dk.armed = y.dk.armed := by
  have e := congrArg (fun z : Hoop => z.dk.armed) h; exact e

theorem exec_powerOnReset {h : HoopId} {rail : Nat} (mv : Nat) {s : State} (e : s.has h = true) (hr : rail < 9) :
    exec (.powerOnReset h rail mv) s = .next (settle (powerOn h rail mv s)) :=
  congrArg Host.Outcome.next (if_pos ⟨e, hr⟩)

/-- A reset by VKEEP takes the keeper's latches with it (R304): the hoop of a part with one hoop comes out of it disarmed. -/
theorem powerOn_vkeep_armed (s : State) (hp : Config.duplex s.a.part = false) (hr : s.a.boot.por = false) :
    ((powerOn .hoopA 8 0 s).hoop .hoopA).dk.armed = false := by
  simp [powerOn, moduleReset, hoopReset, keptDk, State.upd, State.setHoop, State.hoops, State.part, railLow, railNominal, hp, hr]

theorem powerOnReset_vkeep_armed {s t : State} (hp : Config.duplex s.a.part = false) (hr : s.a.boot.por = false)
    (ht : exec (.powerOnReset .hoopA 8 0) s = .next t) : (t.hoop .hoopA).dk.armed = false := by
  rw [exec_powerOnReset 0 rfl (by decide)] at ht
  cases ht
  exact (Dk.armed_of_calm (settle_calm ..)).trans (powerOn_vkeep_armed s hp hr)

/-- Refutes O50: its first clause keeps ARMED and the latched codes across a power-on reset by any of the nine rails, but VKEEP, rail 8, supplies the
keeper itself, and a reset by VKEEP below 90 % clears them (R304). -/
theorem not_powerRows : ¬ Obligations.PowerRows := by
  unfold Obligations.PowerRows
  intro h
  obtain ⟨t, ht, -, -, -, -, -, -, -, -, -, harmed, -⟩ :=
    h.1 { State.reset with a := { State.reset.a with boot := { por := false }, dk := { armed := true } } } .hoopA _ 8 0 ⟨rfl, rfl⟩
      (by decide) (by decide) rfl
  have hlost : (t.hoop .hoopA).dk.armed = false := powerOnReset_vkeep_armed rfl rfl ht
  have hkept : (t.hoop .hoopA).dk.armed = true := harmed
  rw [hlost] at hkept
  exact Bool.false_ne_true hkept
end Sys2Proof.Machine
end

section
/-!
SUPPORT. What no command changes: the queue of commands that wait, and the part and the side of each hoop.
-/

namespace Sys2Proof.Machine
open Sys2Proof

/-- What a hoop is: its part and its side. -/
def Hoop.site (x : Hoop) : Part × Bool := (x.part, x.isB)

/-! Each function of the model keeps the site: one lemma for each, in the order of the model's files, which the headings name. A proof unfolds its
function and reads the site off the body from the outside in, past one operation after the other; hence the `↓`, which keeps `simp` out of the
operands. A function that keeps `calm` keeps the site with it. -/

theorem Hoop.site_of_calm {x y : Hoop} (h : x.calm = y.calm) : x.site = y.site :=
  Prod.ext (Hoop.part_of_calm h) (Hoop.isB_of_calm h)

/-- An update of any other fields keeps the site. -/
theorem Hoop.site_mk (x : Hoop) (tb cm thr prk tmb drv slice prkSlice oldSlices rmap mon bob tec ths fc dk jnl hist led mbx evt pair wlm xbar pmc boot
    pwr settings calStore keeperImg mram mwrites bus freeIx) :
    (Hoop.mk x.part x.isB tb cm thr prk tmb drv slice prkSlice oldSlices rmap mon bob tec ths fc dk jnl hist led mbx evt pair wlm xbar pmc boot pwr
      settings calStore keeperImg mram mwrites bus freeIx).site = x.site := Prod.ext rfl rfl

theorem Hoop.site_ite (c : Prop) [Decidable c] (x y : Hoop) : (if c then x else y).site = if c then x.site else y.site := apply_ite ..

theorem Hoop.site_cond (c : Bool) (x y : Hoop) : (bif c then x else y).site = if c then x.site else y.site := by cases c <;> rfl

theorem Hoop.site_foldl {α : Type} (f : Hoop → α → Hoop) (h : ∀ x a, (f x a).site = x.site) (l : List α) (x : Hoop) : (l.foldl f x).site = x.site :=
  foldl_keeps Hoop.site f h l x

theorem Hoop.site_snd {α : Type} (a : α) (x : Hoop) : (a, x).2.site = x.site := Prod.ext rfl rfl

theorem Hoop.site_snd_ite {α : Type} (c : Prop) [Decidable c] (p q : α × Hoop) :
    (if c then p else q).2.site = if c then p.2.site else q.2.site := apply_ite (fun p : α × Hoop => p.2.site) ..

/-- The command's own effect keeps the site. -/
def Verb.Stays (v : Verb) : Prop := ∀ k x, (v.run k x).2.site = x.site

/-- What no row changes: the queue of commands that wait, and what each hoop is. -/
def State.frame (s : State) : List Instr × (Part × Bool) × (Part × Bool) := (s.pending, s.a.site, s.b.site)

theorem State.frame_iff {s t : State} : t.frame = s.frame ↔ t.pending = s.pending ∧ ∀ k, (t.hoop k).site = (s.hoop k).site := by
  simp only [State.frame, Prod.mk.injEq]
  refine and_congr_right fun _ => ⟨fun ⟨ha, hb⟩ k => ?_, fun h => ⟨h .hoopA, h .hoopB⟩⟩
  cases k with
  | hoopA => exact ha
  | hoopB => exact hb

theorem State.frame_ext {s t : State} (hp : t.pending = s.pending) (h : ∀ k, (t.hoop k).site = (s.hoop k).site) : t.frame = s.frame :=
  State.frame_iff.mpr ⟨hp, h⟩

/-- An update of the duplex state and the balls keeps the frame. -/
theorem State.frame_mk (s : State) (duo : Duo) (balls : Balls) : (State.mk s.a s.b duo balls s.pending).frame = s.frame :=
  State.frame_ext rfl (fun k => by cases k <;> rfl)

theorem State.frame_ite (c : Prop) [Decidable c] (s t : State) : (if c then s else t).frame = if c then s.frame else t.frame := apply_ite ..

theorem State.frame_foldl {α : Type} (f : State → α → State) (h : ∀ s a, (f s a).frame = s.frame) (l : List α) (s : State) :
    (l.foldl f s).frame = s.frame := foldl_keeps State.frame f h l s

theorem State.setDuo_frame (s : State) (d : Duo) : (s.setDuo d).frame = s.frame := State.frame_mk ..

theorem State.upd_frame (s : State) (h : HoopId) (f : Hoop → Hoop) (e : ∀ x, (f x).site = x.site) : (s.upd h f).frame = s.frame := by
  unfold State.upd
  split
  · cases h with
    | hoopA => exact Prod.ext rfl (Prod.ext (e _) rfl)
    | hoopB => exact Prod.ext rfl (Prod.ext rfl (e _))
  · rfl

/-! ## Ops -/

theorem pmcRaw_site (c n : Nat) (x : Hoop) : (pmcRaw c n x).site = x.site := Hoop.site_of_calm (pmcRaw_calm ..)
theorem Hoop.pwmPins_site (x : Hoop) : (Hoop.pwmPins x).site = x.site := Prod.ext rfl rfl
theorem Hoop.setRing_site (x : Hoop) (r : Nat) (g : Ring) : (Hoop.setRing x r g).site = x.site := Hoop.site_of_calm (setRing_calm ..)
theorem Hoop.updRing_site (x : Hoop) (r : Nat) (f : Ring → Ring) : (Hoop.updRing x r f).site = x.site := Hoop.site_of_calm (updRing_calm ..)
theorem msixSend_site (v : Nat) (x : Hoop) : (msixSend v x).site = x.site := Hoop.site_of_calm (msixSend_calm ..)

theorem deliverEvAt_site (stamp : Stamp) (r src : Nat) (payload : List Nat) (x : Hoop) : (deliverEvAt stamp r src payload x).site = x.site :=
  Hoop.site_of_calm (deliverEvAt_calm ..)

theorem raiseEv_site (src : Nat) (payload : List Nat) (sc : Scope) (x : Hoop) : (raiseEv src payload sc x).site = x.site :=
  Hoop.site_of_calm (raiseEv_calm ..)

theorem pmcTell_site (x : Hoop) : (pmcTell x).site = x.site := Hoop.site_of_calm (pmcTell_calm ..)

theorem jnlPut_site (type sev src : Nat) (wire : Bool) (payload : Bytes) (x : Hoop) : (jnlPut type sev src wire payload x).site = x.site :=
  Hoop.site_of_calm (jnlPut_calm ..)

theorem jnlWrite1_site (x : Hoop) (j : JRec) : (jnlWrite1 x j).site = x.site := by
  unfold jnlWrite1
  simp only [↓Hoop.site_mk, ↓pmcRaw_site]

theorem Hoop.fresh_site (x : Hoop) : (Hoop.fresh x).2.site = x.site := Prod.ext rfl rfl

/-! ## Lattice -/

theorem Hoop.updElem_site (x : Hoop) (e : Nat) (f : Elem → Elem) : (Hoop.updElem x e f).site = x.site := Prod.ext rfl rfl
theorem Hoop.setChan_site (x : Hoop) (c : Nat) (v : Chan) : (Hoop.setChan x c v).site = x.site := Prod.ext rfl rfl
theorem Hoop.updChan_site (x : Hoop) (c : Nat) (f : Chan → Chan) : (Hoop.updChan x c f).site = x.site := Prod.ext rfl rfl

/-! ## Optics -/

theorem applyMWrite_site (x : Hoop) (w : MWrite) : (applyMWrite x w).site = x.site := by
  unfold applyMWrite
  split <;> simp only [↓Hoop.site_mk]

theorem mramWrite_site (w : MWrite) (x : Hoop) : (mramWrite w x).site = x.site := by
  unfold mramWrite
  simp only [↓Hoop.site_mk, ↓Hoop.site_ite, ite_self, ↓applyMWrite_site]

theorem flushMram_site (x : Hoop) : (flushMram x).site = x.site := by
  unfold flushMram
  simp only [↓Hoop.site_mk, ↓Hoop.site_ite, ite_self, ↓Hoop.site_foldl, implies_true, ↓applyMWrite_site]

theorem Hoop.setLoop_site (x : Hoop) (e : Nat) (v : Loop) : (Hoop.setLoop x e v).site = x.site := Prod.ext rfl rfl
theorem Hoop.updLoop_site (x : Hoop) (e : Nat) (f : Loop → Loop) : (Hoop.updLoop x e f).site = x.site := Prod.ext rfl rfl

/-! ## Frames -/

theorem Hoop.updLink_site (x : Hoop) (k : Nat) (f : Link → Link) : (Hoop.updLink x k f).site = x.site := Hoop.site_of_calm (updLink_calm ..)
theorem sendFrame_site (k : Nat) (tel : Bool) (b : Bytes) (x : Hoop) : (sendFrame k tel b x).site = x.site := Hoop.site_of_calm (sendFrame_calm ..)
theorem Hoop.setRt_site (x : Hoop) (a : Nat) (r : Rt) : (Hoop.setRt x a r).site = x.site := Prod.ext rfl rfl
theorem sendToward_site (tel : Bool) (b : Bytes) (x : Hoop) : (sendToward tel b x).site = x.site := Hoop.site_of_calm (sendToward_calm ..)

theorem originate_site (dst type : Nat) (payload : Bytes) (x : Hoop) : (originate dst type payload x).site = x.site :=
  Hoop.site_of_calm (originate_calm ..)

theorem sendLocal_site (k type : Nat) (payload : Bytes) (x : Hoop) : (sendLocal k type payload x).site = x.site :=
  Hoop.site_of_calm (sendLocal_calm ..)

/-! ## Threads -/

theorem Hoop.setThread_site (x : Hoop) (i : Nat) (t : Thread) : (Hoop.setThread x i t).site = x.site := Hoop.site_of_calm (setThread_calm ..)
theorem Hoop.updThread_site (x : Hoop) (i : Nat) (f : Thread → Thread) : (Hoop.updThread x i f).site = x.site := Hoop.site_of_calm (updThread_calm ..)

theorem threadEvent_site (i : Nat) (t : Thread) (prev : ThreadSt) (cause seq src slot : Nat) (x : Hoop) :
    (threadEvent i t prev cause seq src slot x).site = x.site :=
  Hoop.site_of_calm (threadEvent_calm ..)

theorem countSt_site (st : ThreadSt) (x : Hoop) : (countSt st x).site = x.site := Hoop.site_of_calm (countSt_calm ..)

theorem setSt_site (i : Nat) (st : ThreadSt) (cause seq src : Nat) (x : Hoop) : (setSt i st cause seq src x).site = x.site :=
  Hoop.site_of_calm (setSt_calm ..)

theorem ledStart_site (i at_ : Nat) (x : Hoop) : (ledStart i at_ x).site = x.site := Hoop.site_of_calm (ledStart_calm ..)
theorem ledEnd_site (i at_ : Nat) (counted : Bool) (x : Hoop) : (ledEnd i at_ counted x).site = x.site := Hoop.site_of_calm (ledEnd_calm ..)
theorem ledVerified_site (i at_ : Nat) (x : Hoop) : (ledVerified i at_ x).site = x.site := Hoop.site_of_calm (ledVerified_calm ..)
theorem ledFlag_site (k : Nat) (x : Hoop) : (ledFlag k x).site = x.site := Hoop.site_of_calm (ledFlag_calm ..)

theorem sendNotices_site (c : Chain) (inPort cause : Nat) (x : Hoop) : (sendNotices c inPort cause x).site = x.site :=
  Hoop.site_of_calm (sendNotices_calm ..)

theorem notify_site (i cause : Nat) (x : Hoop) : (notify i cause x).site = x.site := Hoop.site_of_calm (notify_calm ..)
theorem Hoop.setNeedle_site (x : Hoop) (e : Nat) (v : Needle) : (Hoop.setNeedle x e v).site = x.site := Hoop.site_of_calm (setNeedle_calm ..)
theorem Hoop.updNeedle_site (x : Hoop) (e : Nat) (f : Needle → Needle) : (Hoop.updNeedle x e f).site = x.site := Hoop.site_of_calm (updNeedle_calm ..)
theorem Hoop.setIdle_site (x : Hoop) (e : Nat) (c : NCode) : (Hoop.setIdle x e c).site = x.site := Hoop.site_of_calm (setIdle_calm ..)
theorem putOutcome_site (o : Outcome) (x : Hoop) : (putOutcome o x).site = x.site := Hoop.site_of_calm (putOutcome_calm ..)
theorem outcomes_site (x : Hoop) : (outcomes x).site = x.site := Hoop.site_of_calm (outcomes_calm ..)
theorem override_site (i : Nat) (on : Bool) (x : Hoop) : (override i on x).site = x.site := Hoop.site_of_calm (override_calm ..)
theorem reqDark_site (i : Nat) (x : Hoop) : (reqDark i x).site = x.site := Hoop.site_of_calm (reqDark_calm ..)
theorem darkThread_site (i cause seq src : Nat) (x : Hoop) : (darkThread i cause seq src x).site = x.site := Hoop.site_of_calm (darkThread_calm ..)
theorem faultThread_site (i seq src : Nat) (x : Hoop) : (faultThread i seq src x).site = x.site := Hoop.site_of_calm (faultThread_calm ..)
theorem prkPay_site (i at_ : Nat) (ok : Bool) (x : Hoop) : (prkPay i at_ ok x).site = x.site := Hoop.site_of_calm (prkPay_calm ..)

/-! ## Faults -/

theorem Hoop.setSrc_site (x : Hoop) (s : Nat) (v : Src) : (Hoop.setSrc x s v).site = x.site := Hoop.site_of_calm (setSrc_calm ..)
theorem tellFirst_site (x : Hoop) : (tellFirst x).site = x.site := Hoop.site_of_calm (tellFirst_calm ..)

theorem faultOn_site (s det : Nat) (wire : Bool) (extra : List Nat) (x : Hoop) : (faultOn s det wire extra x).site = x.site :=
  Hoop.site_of_calm (faultOn_calm ..)

theorem fault_site (s det : Nat) (x : Hoop) : (fault s det x).site = x.site := Hoop.site_of_calm (fault_calm ..)
theorem faultOff_site (s : Nat) (x : Hoop) : (faultOff s x).site = x.site := Hoop.site_of_calm (faultOff_calm ..)
theorem engage_site (cause sev : Nat) (remote : Bool) (x : Hoop) : (engage cause sev remote x).site = x.site := Hoop.site_of_calm (engage_calm ..)
theorem setRole_site (r : Role) (cause : Nat) (x : Hoop) : (setRole r cause x).site = x.site := Hoop.site_of_calm (setRole_calm ..)

theorem settleS4_frame (s : State) : (settleS4 s).frame = s.frame := by
  unfold settleS4
  split
  · rfl
  · refine State.frame_foldl _ (fun s h => State.upd_frame s h _ fun x => ?_) _ s
    split <;> exact engage_site ..

theorem cutWindows_site (x : Hoop) : (cutWindows x).site = x.site := Hoop.site_of_calm (cutWindows_calm ..)

theorem abandonHo_frame (cause : Nat) (s : State) : (abandonHo cause s).frame = s.frame := by
  unfold abandonHo
  simp only [↓Hoop.site_mk, ↓State.frame_ite, ite_self, ↓State.frame_foldl, implies_true, ↓State.upd_frame, ↓raiseEv_site, ↓State.setDuo_frame]

theorem settleHo_frame (s : State) : (settleHo s).frame = s.frame := by
  unfold settleHo
  split <;> simp only [↓State.frame_ite, ite_self, ↓abandonHo_frame]

theorem settleRel_frame (s : State) : (settleRel s).frame = s.frame := by
  unfold settleRel
  simp only [↓Hoop.site_mk, ↓State.frame_ite, ite_self, ↓State.frame_foldl, implies_true, ↓State.upd_frame]

theorem settleS3_frame (s : State) (h : HoopId) : (settleS3 s h).frame = s.frame := by
  unfold settleS3
  dsimp only
  split <;> simp only [↓State.frame_ite, ite_self, ↓State.frame_foldl, implies_true, ↓State.upd_frame, ↓engage_site, ↓setRole_site, ↓cutWindows_site,
    ↓State.setDuo_frame]

theorem settleRole_frame (s : State) (h : HoopId) : (settleRole s h).frame = s.frame := by
  unfold settleRole
  simp only [↓Hoop.site_mk, ↓State.frame_ite, ite_self, implies_true, ↓State.upd_frame, ↓setRole_site]

theorem settleLink_frame (s : State) (h : HoopId) : (settleLink s h).frame = s.frame := by
  unfold settleLink
  split
  · rfl
  · extract_lets x p s1 s2
    have h1 : s1.frame = s.frame := by
      simp only [s1, ↓State.upd_frame, ↓Hoop.site_ite, ↓Hoop.site_mk, ite_self, implies_true]
    have h2 : s2.frame = s1.frame := by
      refine State.frame_foldl _ (fun s b => State.upd_frame s p _ fun y => ?_) _ s1
      split
      · exact sendFrame_site ..
      · exact (pmcRaw_site ..).trans (Hoop.site_mk ..)
    exact (State.upd_frame s2 h _ fun y => Hoop.site_mk ..).trans (h2.trans h1)

theorem settleVouch_site (x : Hoop) : (settleVouch x).site = x.site := Hoop.site_of_calm (settleVouch_calm ..)
theorem setStage_site (st : Stage) (x : Hoop) : (setStage st x).site = x.site := Hoop.site_of_calm (setStage_calm ..)
theorem settleStage_site (x : Hoop) : (settleStage x).site = x.site := Hoop.site_of_calm (settleStage_calm ..)

theorem settlePins_frame (s : State) : (settlePins s).frame = s.frame := by
  unfold settlePins
  simp only [↓State.frame_mk]

theorem settle_frame (s : State) : (settle s).frame = s.frame := by
  unfold settle
  simp only [↓State.frame_foldl, implies_true, ↓settleHo_frame, ↓settleRel_frame, ↓settleS4_frame, ↓settleS3_frame, ↓settleRole_frame,
    ↓settleLink_frame, ↓State.upd_frame, ↓pmcTell_site, ↓settleStage_site, ↓settleVouch_site, ↓tellFirst_site, ↓settlePins_frame]

theorem State.act_frame (s : State) (h : HoopId) (f : Hoop → Hoop) (e : ∀ x, (f x).site = x.site) : (s.act h f).frame = s.frame :=
  (settle_frame ..).trans (State.upd_frame s h f e)

/-! ## Intake -/

theorem breakRun_site (r op : Nat) (x : Hoop) : (breakRun r op x).site = x.site := Hoop.site_of_calm (breakRun_calm ..)

theorem completeFront_site (r : Nat) (a : Ans) (hold : Option (Nat × Stamp)) (x : Hoop) : (completeFront r a hold x).site = x.site :=
  Hoop.site_of_calm (completeFront_calm ..)

theorem pumpRing_site (r : Nat) (x : Hoop) : (pumpRing r x).site = x.site := Hoop.site_of_calm (pumpRing_calm ..)
theorem served_site (r : Nat) (c : ReadCmd) (x : Hoop) : (served r c x).site = x.site := Hoop.site_of_calm (served_calm ..)

theorem answer_site {v : Verb} (hv : v.Stays) (k : Ctx) (x : Hoop) : (answer v k x).2.site = x.site := by
  unfold answer
  simp only [↓Hoop.site_snd, ↓Hoop.site_snd_ite, ↓hv _ _, ↓Hoop.updRing_site, ↓breakRun_site, ite_self]

theorem serveFront_site (peer : Hoop) (r op : Nat) {v : Verb} (hv : v.Stays) (x : Hoop) : (serveFront peer r op v x).site = x.site := by
  unfold serveFront
  split
  · rfl
  · simp only [↓Hoop.site_ite, ↓pumpRing_site, ↓completeFront_site, ↓served_site, ↓answer_site hv, ite_self]

theorem State.serve_frame (s : State) (h : HoopId) (r op : Nat) {v : Verb} (hv : v.Stays) : (s.serve h r op v).frame = s.frame := by
  unfold State.serve
  simp only [↓State.frame_ite, ↓State.act_frame _ _ _ (serveFront_site _ r op hv), ite_self]

theorem adminOk_site (k : Ctx) (x y : Hoop) : (adminOk k x y).2.site = y.site := Hoop.site_of_calm (adminOk_calm ..)
theorem storeSetting_site (k : Ctx) (which : Nat) (x : Hoop) : (storeSetting k which x).site = x.site := Prod.ext rfl rfl

/-! ## Images -/

theorem refreshElems_site (es : List Nat) (x : Hoop) : (refreshElems es x).site = x.site := by
  unfold refreshElems
  simp only [↓Hoop.site_ite, ite_self, ↓Hoop.site_foldl, implies_true, ↓Hoop.updElem_site]

theorem remix_site (x : Hoop) : (remix x).site = x.site := Prod.ext rfl rfl

theorem installed_site (at_ : Nat) (x : Hoop) : (installed at_ x).site = x.site := by
  unfold installed
  simp only [↓Hoop.site_mk]

theorem unoverride_site (ks : List Nat) (x : Hoop) : (unoverride ks x).site = x.site := by
  unfold unoverride
  simp only [↓Hoop.site_foldl, implies_true, ↓override_site]

theorem renew_site (ks : List Nat) (x : Hoop) : (renew ks x).site = x.site := by
  unfold renew
  simp only [↓Hoop.site_mk, ↓unoverride_site]

/-! ## Commits -/

theorem postNormal_site (o : TOp) (x : Hoop) : (postNormal o x).site = x.site := Prod.ext rfl rfl

theorem postStage_site (x : Hoop) : (postStage x).site = x.site := by
  unfold postStage
  split <;> simp only [↓Hoop.site_mk, ↓Hoop.site_ite, ite_self, ↓postNormal_site]

theorem postUrgent_site (o : TOp) (x : Hoop) : (postUrgent o x).site = x.site := Prod.ext rfl rfl

theorem unstage_site (x : Hoop) : (unstage x).site = x.site := by
  unfold unstage
  dsimp only
  repeat' split
  all_goals simp only [↓Hoop.site_mk, ↓postUrgent_site]

theorem unstagePrk_site (x : Hoop) : (unstagePrk x).site = x.site := Prod.ext rfl rfl

theorem takeCommit_site (seq ring tenant ens : Nat) (c : Compiled) (fcid : Option Nat) (x : Hoop) :
    (takeCommit seq ring tenant ens c fcid x).site = x.site := by
  unfold takeCommit
  simp only [↓postStage_site, ↓pmcRaw_site]
  refine (Hoop.site_foldl _ (fun y g => ?_) _ _).trans ?_
  · split <;> simp only [↓override_site, ↓threadEvent_site, ↓Hoop.setThread_site, ↓setSt_site, ↓Hoop.updThread_site]
  · simp only [↓Hoop.site_mk, ↓Hoop.site_ite, ↓Hoop.site_foldl, ↓unstage_site, ↓unstagePrk_site, ite_self, implies_true]

theorem acceptCommit_site (k : Ctx) (w : Asker) (hasEpoch exact : Bool) (ens : Nat) (batch : Bool) (es : List Edit) (x : Hoop) :
    (acceptCommit k w hasEpoch exact ens batch es x).2.site = x.site := by
  unfold acceptCommit
  split <;> simp only [↓Hoop.site_snd, ↓raiseEv_site, ↓takeCommit_site]

/-! ## Outcomes -/

theorem setFab_site (s : Nat) (f : Fab) (x : Hoop) : (setFab s f x).site = x.site := Prod.ext rfl rfl
theorem freeFab_site (s : Nat) (x : Hoop) : (freeFab s x).site = x.site := Prod.ext rfl rfl

theorem fabEnd_site (initiator fcid result reason : Nat) (x : Hoop) : (fabEnd initiator fcid result reason x).site = x.site := by
  unfold fabEnd
  repeat' split
  all_goals simp only [↓setFab_site, ↓freeFab_site, ↓raiseEv_site, ↓originate_site]

theorem undoChange_site (seq : Nat) (g : Change) (x : Hoop) : (undoChange seq g x).site = x.site := by
  unfold undoChange
  split <;> simp only [↓Hoop.site_mk, ↓Hoop.site_ite, ite_self, ↓threadEvent_site, ↓Hoop.setThread_site, ↓setSt_site, ↓override_site]

theorem withdraw_site (c : Commit) (code : Nat) (note : Bool) (x : Hoop) : (withdraw c code note x).site = x.site := by
  unfold withdraw
  repeat' split
  all_goals simp only [↓Hoop.site_mk, ↓Hoop.site_foldl, implies_true, ↓postUrgent_site, ↓undoChange_site, ↓raiseEv_site, ↓putOutcome_site,
    ↓fabEnd_site, ↓postStage_site]

theorem withdrawDeps_site (fuel : Nat) (keys : List Nat) (code : Nat) (x : Hoop) : (withdrawDeps fuel keys code x).site = x.site := by
  induction fuel generalizing keys x with
  | zero => rfl
  | succ fuel ih =>
    unfold withdrawDeps
    split
    · exact (ih ..).trans (withdraw_site ..)
    · rfl

theorem abortCommit_site (c : Commit) (code : Nat) (note : Bool) (x : Hoop) : (abortCommit c code note x).site = x.site :=
  (withdrawDeps_site ..).trans (withdraw_site ..)

theorem respond_site (k : Ctx) (size : Nat) (recs : List Bytes) (x : Hoop) : (respond k size recs x).2.site = x.site := by
  unfold respond
  split <;> simp only [↓Hoop.site_mk, ↓Hoop.site_snd]

/-! ## Clock -/

theorem Hoop.setCmp_site (x : Hoop) (k : Nat) (c : Cmp) : (Hoop.setCmp x k c).site = x.site := Prod.ext rfl rfl

theorem lateArm_site (k t16 : Nat) (x : Hoop) : (lateArm k t16 x).site = x.site := by
  unfold lateArm
  simp only [↓raiseEv_site]

theorem cmpArm_site {k t16 : Nat} {x y : Hoop} (h : cmpArm k t16 x = some y) : y.site = x.site := by
  unfold cmpArm at h
  split at h
  · cases h; exact Hoop.setCmp_site ..
  · cases h

theorem armAt_site (k ns : Nat) (x : Hoop) : (armAt k ns x).site = x.site := by
  unfold armAt
  extract_lets c
  split
  · exact Hoop.site_mk ..
  · split
    · exact cmpArm_site ‹_›
    · exact lateArm_site ..

theorem cmpDisarm_site (k : Nat) (x : Hoop) : (cmpDisarm k x).site = x.site := Prod.ext rfl rfl
theorem dropArm_site (k : Nat) (x : Hoop) : (dropArm k x).site = x.site := Prod.ext rfl rfl
theorem cmpFire_site (k : Nat) (x : Hoop) : (cmpFire k x).site = x.site := Prod.ext rfl rfl

theorem cmpFireDue_site (k : Nat) (x : Hoop) : (cmpFireDue k x).site = x.site := by
  unfold cmpFireDue
  simp only [↓Hoop.site_ite, ite_self, ↓cmpFire_site]

theorem Hoop.setDom_site (x : Hoop) (d : Nat) (v : Dom) : (Hoop.setDom x d v).site = x.site := by
  unfold Hoop.setDom
  simp only [↓Hoop.site_mk, ↓Hoop.site_ite, ite_self]

theorem setServo_site (d : Nat) (st : Servo) (x : Hoop) : (setServo d st x).site = x.site := by
  unfold setServo
  simp only [↓Hoop.site_ite, ite_self, ↓raiseEv_site, ↓Hoop.setDom_site]

theorem updValid_site (x : Hoop) : (updValid x).site = x.site := by
  unfold updValid
  simp only [↓Hoop.site_mk, ↓Hoop.site_ite, ite_self, ↓ledFlag_site, ↓raiseEv_site]

theorem setInc_site (i : Int) (x : Hoop) : (setInc i x).site = x.site := Prod.ext rfl rfl
theorem steerInc_site (x : Hoop) : (steerInc x).site = x.site := Prod.ext rfl rfl

theorem ppsArm_site (ns : Nat) (x : Hoop) : (ppsArm ns x).site = x.site := by
  unfold ppsArm
  simp only [↓Hoop.site_ite, ite_self, ↓armAt_site]

theorem countStep_site (off : Int) (x : Hoop) : (countStep off x).site = x.site := by
  unfold countStep
  simp only [↓Hoop.site_mk, ↓Hoop.site_ite, ite_self, ↓ppsArm_site, ↓cmpDisarm_site]

theorem takeRoles_site (d : Int) (x : Hoop) : (takeRoles d x).site = x.site := by
  unfold takeRoles
  simp only [↓Hoop.site_mk, ↓Hoop.site_ite, ite_self, ↓raiseEv_site, ↓ledFlag_site, ↓jnlPut_site, ↓updValid_site]

theorem switchDomains_site (x : Hoop) : (switchDomains x).site = x.site := by
  unfold switchDomains
  simp only [↓Hoop.site_mk, ↓setInc_site, ↓takeRoles_site]

theorem autoSwitch_site (x : Hoop) : (autoSwitch x).site = x.site := by
  unfold autoSwitch
  simp only [↓Hoop.site_ite, ite_self, ↓switchDomains_site]

theorem toHoldover_site (d : Nat) (x : Hoop) : (toHoldover d x).site = x.site := by
  unfold toHoldover
  simp only [↓Hoop.site_ite, ite_self, ↓setInc_site, ↓setServo_site, ↓updValid_site, ↓autoSwitch_site]

theorem syncIn_site (d : Nat) (corr filt : Int) (sec ns : Nat) (utc : Int) (x : Hoop) : (syncIn d corr filt sec ns utc x).site = x.site := by
  unfold syncIn
  simp only [↓Hoop.site_mk, ↓Hoop.site_ite, ite_self, ↓pmcRaw_site, ↓Hoop.setDom_site, ↓fault_site, ↓faultOff_site, ↓steerInc_site, ↓countStep_site,
    ↓Hoop.fresh_site, ↓updValid_site]
  repeat' split
  all_goals simp only [↓pmcRaw_site, ↓Hoop.setDom_site, ↓setServo_site]

theorem ptpCfgVerb_stays : ptpCfgVerb.Stays := fun k x => by
  simp only [ptpCfgVerb, ↓Hoop.setDom_site, ↓adminOk_site, ↓updValid_site, ↓storeSetting_site]

theorem domainSwitchVerb_stays : domainSwitchVerb.Stays := fun k x => by
  simp only [domainSwitchVerb, ↓Hoop.site_ite, ite_self, ↓adminOk_site, ↓switchDomains_site]

theorem followTime_site (a y : Hoop) : (followTime a y).site = y.site := by
  unfold followTime
  simp only [↓Hoop.site_mk, ↓Hoop.site_ite, ite_self, ↓takeRoles_site]

theorem timeFollow_frame (h : HoopId) (s : State) : (timeFollow h s).frame = s.frame := by
  unfold timeFollow
  simp only [↓State.frame_ite, ite_self, implies_true, ↓State.upd_frame, ↓followTime_site]

theorem snap_site (v : BitVec 32) (x : Hoop) : (snap v x).site = x.site := by
  unfold snap
  simp only [↓Hoop.site_mk, ↓Hoop.site_ite, ite_self]

theorem ppsCtrl_site (v : BitVec 32) (x : Hoop) : (ppsCtrl v x).site = x.site := by
  unfold ppsCtrl
  simp only [↓Hoop.site_mk, ↓Hoop.site_ite, ite_self, ↓ppsArm_site]

theorem firedClear_site (v : BitVec 32) (x : Hoop) : (firedClear v x).site = x.site := by
  unfold firedClear
  simp only [↓Hoop.site_ite, ite_self, ↓Hoop.site_foldl, implies_true, ↓Hoop.setCmp_site]

theorem ppsEdge_site (x : Hoop) : (ppsEdge x).site = x.site := by
  unfold ppsEdge
  simp only [↓Hoop.site_mk, ↓Hoop.site_ite, ite_self, ↓cmpFire_site, ↓ppsArm_site]

theorem ppsIn_site (x : Hoop) : (ppsIn x).site = x.site := by
  unfold ppsIn
  simp only [↓Hoop.site_mk, ↓Hoop.site_ite, ite_self, ↓raiseEv_site]

theorem heldSweep_site (x : Hoop) : (heldSweep x).site = x.site := by
  unfold heldSweep
  simp only [↓Hoop.site_mk, ↓Hoop.site_foldl, implies_true, ↓postStage_site, ↓armAt_site]

theorem anchorRewrite_site (x : Hoop) : (anchorRewrite x).site = x.site := by
  unfold anchorRewrite
  simp only [↓Hoop.site_mk, ↓Hoop.site_ite, ite_self]

theorem limitExpiry_site (x : Hoop) : (limitExpiry x).site = x.site := by
  unfold limitExpiry
  simp only [↓Hoop.site_mk, ↓Hoop.site_ite, ite_self, ↓updValid_site]

theorem freerun_site (d : Nat) (x : Hoop) : (freerun d x).site = x.site := by
  unfold freerun
  simp only [↓Hoop.site_ite, ite_self, ↓setInc_site, ↓updValid_site, ↓autoSwitch_site, ↓setServo_site]

theorem masterSel_site (d : Nat) (sel : Bool) (x : Hoop) : (masterSel d sel x).site = x.site := by
  unfold masterSel
  simp only [↓Hoop.site_ite, ite_self, ↓Hoop.setDom_site, ↓toHoldover_site]

theorem delayIn_site (d ago rSec rNs : Nat) (corr : Int) (x : Hoop) : (delayIn d ago rSec rNs corr x).site = x.site := by
  unfold delayIn
  simp only [↓pmcRaw_site, ↓Hoop.setDom_site]

theorem timeLink_site (phase : Nat) (ok : Bool) (x : Hoop) : (timeLink phase ok x).site = x.site := by
  unfold timeLink
  simp only [↓Hoop.site_mk, ↓Hoop.site_ite, ite_self, ↓fault_site, ↓faultOff_site]

/-! ## Drive -/

theorem Hoop.updHeater_site (x : Hoop) (e : Nat) (f : Heater → Heater) : (Hoop.updHeater x e f).site = x.site := Prod.ext rfl rfl
theorem Hoop.updTile_site (x : Hoop) (t : Nat) (f : Tile → Tile) : (Hoop.updTile x t f).site = x.site := Hoop.site_of_calm (updTile_calm ..)

theorem noteClamp_site (x : Hoop) (e : Nat) : (noteClamp x e).site = x.site := by
  unfold noteClamp
  simp only [↓Hoop.site_mk, ↓Hoop.site_ite, ite_self]

theorem sampleNeedle_site (x : Hoop) (e : Nat) : (sampleNeedle x e).site = x.site := by
  unfold sampleNeedle
  simp only [↓noteClamp_site, ↓Hoop.updNeedle_site]

theorem loadReg_site (x : Hoop) (e : Nat) (c : NCode) : (loadReg x e c).site = x.site := by
  unfold loadReg
  simp only [↓Hoop.site_mk, ↓Hoop.site_ite, ite_self, ↓Hoop.setNeedle_site, ↓noteClamp_site]

theorem writeNeedle_site (x : Hoop) (e : Nat) (c : NCode) : (writeNeedle x e c).site = x.site := by
  unfold writeNeedle
  simp only [↓loadReg_site, ↓Hoop.updNeedle_site]

theorem updateNeedle_site (x : Hoop) (e : Nat) (c : NCode) : (updateNeedle x e c).site = x.site := by
  unfold updateNeedle
  simp only [↓Hoop.site_ite, ite_self, ↓Hoop.updNeedle_site, ↓writeNeedle_site]

theorem skipWindow_site (x : Hoop) : (skipWindow x).site = x.site := by
  unfold skipWindow
  simp only [↓Hoop.site_mk, ↓pmcRaw_site]

theorem openWindow_site (t : Nat) (k : WinKind) (x : Hoop) : (openWindow t k x).site = x.site := by
  unfold openWindow
  split <;> simp only [↓Hoop.site_ite, ite_self, ↓Hoop.site_foldl, implies_true, ↓Hoop.updTile_site, ↓sampleNeedle_site, ↓pmcRaw_site,
    ↓skipWindow_site]

theorem noteCheck_site (kind e : Nat) (x : Hoop) : (noteCheck kind e x).site = x.site := by
  unfold noteCheck
  simp only [↓Hoop.site_mk]

theorem checkFail_site (kind e : Nat) (x : Hoop) : (checkFail kind e x).site = x.site := by
  unfold checkFail
  simp only [↓Hoop.site_ite, ite_self, ↓noteCheck_site, ↓fault_site, ↓faultOn_site, ↓Hoop.updNeedle_site, ↓Hoop.updElem_site]

theorem handBack_frame (h : HoopId) (kind e : Nat) (s : State) : (handBack h kind e s).frame = s.frame := by
  unfold handBack
  simp only [↓Hoop.site_mk, ite_self, implies_true, ↓Hoop.site_ite, ↓State.upd_frame, ↓fault_site, ↓noteCheck_site, ↓State.setDuo_frame]

theorem failIn_frame (h : HoopId) (kind e : Nat) (s : State) : (failIn h kind e s).frame = s.frame := by
  unfold failIn
  simp only [↓State.frame_ite, ite_self, implies_true, ↓handBack_frame, ↓State.upd_frame, ↓checkFail_site]

theorem clearChecks_site (t : Nat) (x : Hoop) : (clearChecks t x).site = x.site := by
  unfold clearChecks
  simp only [↓Hoop.site_ite, ite_self, ↓Hoop.site_foldl, implies_true, ↓faultOff_site]

theorem keeperRefresh_site (x : Hoop) : (keeperRefresh x).site = x.site := by
  unfold keeperRefresh
  simp only [↓Hoop.site_mk, ↓Hoop.site_ite, ite_self]

theorem keeperTake_site (x : Hoop) : (keeperTake x).site = x.site := by
  unfold keeperTake
  split <;> simp only [↓Hoop.site_mk, ↓Hoop.site_ite, ite_self, ↓raiseEv_site, ↓mramWrite_site]

theorem arbitrate_frame (s : State) : (arbitrate s).frame = s.frame := by
  unfold arbitrate
  simp only [implies_true, ↓State.upd_frame, ↓fault_site]

theorem noteMismatch_site (item what : Nat) (x : Hoop) : (noteMismatch item what x).site = x.site := by
  unfold noteMismatch
  simp only [↓Hoop.site_mk, ↓raiseEv_site]

theorem sigCompare_frame (h : HoopId) (t : Nat) (s : State) : (sigCompare h t s).frame = s.frame := by
  unfold sigCompare
  simp only [↓Hoop.site_mk, ↓State.frame_ite, ite_self, implies_true, ↓State.upd_frame, ↓arbitrate_frame, ↓noteMismatch_site, ↓raiseEv_site]

theorem catchupTile_site (t : Nat) (x : Hoop) : (catchupTile t x).site = x.site := by
  unfold catchupTile
  simp only [↓Hoop.site_mk, ↓Hoop.site_foldl, implies_true, ↓writeNeedle_site]

theorem refPos_site (t : Nat) (x : Hoop) : (refPos t x).site = x.site := Prod.ext rfl rfl

theorem refreshSlot_frame (h : HoopId) (t : Nat) (fails : List Nat) (s : State) : (refreshSlot h t fails s).frame = s.frame := by
  unfold refreshSlot
  simp only [↓State.frame_ite, ite_self, ↓State.frame_foldl, implies_true, ↓State.upd_frame, ↓keeperTake_site, ↓refPos_site, ↓catchupTile_site,
    ↓failIn_frame, ↓openWindow_site, ↓sigCompare_frame]

theorem ditherWindow_site (t : Nat) (x : Hoop) : (ditherWindow t x).site = x.site := by
  unfold ditherWindow
  simp only [↓Hoop.site_ite, ite_self, ↓openWindow_site]

theorem slewNeedle_site (step : Nat) (x : Hoop) (e : Nat) : (slewNeedle step x e).site = x.site := by
  unfold slewNeedle
  simp only [↓Hoop.site_ite, ite_self, ↓loadReg_site, ↓Hoop.updNeedle_site]

theorem slewDone_site (t : Nat) (x : Hoop) : (slewDone t x).site = x.site := by
  unfold slewDone
  simp only [↓Hoop.site_ite, ite_self, ↓Hoop.updTile_site]

theorem needleStep_site (t : Nat) (x : Hoop) : (needleStep t x).site = x.site := by
  unfold needleStep
  simp only [↓Hoop.site_ite, ite_self, ↓Hoop.site_foldl, implies_true, ↓openWindow_site, ↓slewNeedle_site, ↓slewDone_site]

theorem windowEnd_frame (h : HoopId) (t : Nat) (fails : List Nat) (s : State) : (windowEnd h t fails s).frame = s.frame := by
  unfold windowEnd
  simp only [↓Hoop.site_mk, ↓State.frame_ite, ite_self, ↓State.frame_foldl, implies_true, ↓Hoop.site_ite, ↓failIn_frame, ↓State.upd_frame,
    ↓clearChecks_site, ↓Hoop.updTile_site]

theorem setOut_site (e : Nat) (c : BitVec 12) (x : Hoop) : (setOut e c x).site = x.site := Prod.ext rfl rfl
theorem holdHeater_site (e : Nat) (x : Hoop) : (holdHeater e x).site = x.site := Prod.ext rfl rfl

theorem moveHeater_site (e : Nat) (x : Hoop) : (moveHeater e x).site = x.site := by
  unfold moveHeater
  simp only [↓Hoop.site_ite, ite_self, ↓setOut_site, ↓holdHeater_site]

theorem heaterPort_site (e : Nat) (c : BitVec 12) (r : Bool) (x : Hoop) : (heaterPort e c r x).site = x.site := by
  unfold heaterPort
  simp only [↓moveHeater_site, ↓Hoop.updHeater_site]

theorem slewHeater_site (step : Nat) (x : Hoop) (e : Nat) : (slewHeater step x e).site = x.site := by
  unfold slewHeater
  simp only [↓Hoop.site_ite, ite_self, ↓moveHeater_site, ↓setOut_site]

theorem gentleEnd_site (t : Nat) (x : Hoop) : (gentleEnd t x).site = x.site := by
  unfold gentleEnd
  simp only [↓Hoop.site_ite, ite_self, ↓Hoop.updTile_site]

theorem heaterStep_site (t : Nat) (x : Hoop) : (heaterStep t x).site = x.site := by
  unfold heaterStep
  simp only [↓Hoop.site_ite, ite_self, ↓Hoop.site_foldl, implies_true, ↓gentleEnd_site, ↓slewHeater_site]

theorem rangeEnd_site (e : Nat) (x : Hoop) : (rangeEnd e x).site = x.site := by
  unfold rangeEnd
  simp only [↓Hoop.site_mk, ↓Hoop.site_ite, ite_self, ↓Hoop.updHeater_site, ↓jnlPut_site, ↓pmcRaw_site, ↓moveHeater_site]

theorem heaterFail_site (e : Nat) (x : Hoop) : (heaterFail e x).site = x.site := by
  unfold heaterFail
  simp only [↓Hoop.site_ite, ite_self, ↓fault_site, ↓Hoop.updElem_site]

theorem complFail_frame (h : HoopId) (e : Nat) (s : State) : (complFail h e s).frame = s.frame := by
  unfold complFail
  simp only [↓Hoop.site_mk, ↓State.frame_ite, ite_self, implies_true, ↓State.upd_frame, ↓Hoop.updHeater_site, ↓handBack_frame, ↓heaterFail_site]

theorem sumUpdate_site (x : Hoop) : (sumUpdate x).site = x.site := by
  unfold sumUpdate
  simp only [↓Hoop.site_mk, ↓Hoop.site_ite, ite_self, ↓faultOff_site]

theorem refOrigin_site (x : Hoop) : (refOrigin x).site = x.site := by
  unfold refOrigin
  simp only [↓Hoop.site_mk, ↓Hoop.site_ite, ite_self, ↓cmpFire_site]

theorem phaseTick_site (x : Hoop) : (phaseTick x).site = x.site := by
  unfold phaseTick
  simp only [↓Hoop.site_mk, ↓Hoop.site_foldl, implies_true]

/-! ## Inject -/

theorem Hoop.updGroup_site (x : Hoop) (g : Nat) (f : Group → Group) : (Hoop.updGroup x g f).site = x.site := Prod.ext rfl rfl
theorem injectOne_site (e : InjEntry) (x : Hoop) : (injectOne e x).site = x.site := Prod.ext rfl rfl

theorem injDone_site (g : Nat) (x : Hoop) : (injDone g x).site = x.site := by
  unfold injDone
  simp only [↓Hoop.site_ite, ite_self, ↓postUrgent_site]

theorem injDrop_site (g : Nat) (f : InjEntry → Bool) (x : Hoop) : (injDrop g f x).site = x.site := by
  unfold injDrop
  simp only [↓Hoop.site_ite, ite_self, ↓injDone_site, ↓Hoop.updGroup_site]

theorem injLeave_site (c at_ : Nat) (x : Hoop) : (injLeave c at_ x).site = x.site := by
  unfold injLeave
  simp only [↓injDrop_site]

theorem injClose_site (c : Nat) (x : Hoop) : (injClose c x).site = x.site := by
  unfold injClose
  simp only [↓injDrop_site]

theorem clearInj_site (key : Nat) (x : Hoop) : (clearInj key x).site = x.site := by
  unfold clearInj
  simp only [↓Hoop.site_foldl, implies_true, ↓injDrop_site]

theorem supersede_site (chans : List Nat) (key from_ : Nat) (x : Hoop) : (supersede chans key from_ x).site = x.site := by
  unfold supersede
  simp only [↓Hoop.site_foldl, implies_true, ↓injDrop_site]

theorem injectAt_site (chans : List Nat) (key from_ : Nat) (dark : Bool) (x : Hoop) : (injectAt chans key from_ dark x).site = x.site := by
  unfold injectAt
  simp only [↓Hoop.site_foldl, implies_true, ↓injectOne_site, ↓Hoop.updGroup_site]

theorem oweSettle_site (chans : List Nat) (from_ : Nat) (x : Hoop) : (oweSettle chans from_ x).site = x.site := by
  unfold oweSettle
  simp only [↓Hoop.site_foldl, implies_true, ↓Hoop.updChan_site]

theorem inject_site (chans : List Nat) (key from_ : Nat) (dark : Bool) (x : Hoop) : (inject chans key from_ dark x).site = x.site := by
  unfold inject
  simp only [↓Hoop.site_foldl, implies_true, ↓injectAt_site, ↓Hoop.updGroup_site]

theorem confirmDark_site (i : Nat) (x : Hoop) : (confirmDark i x).site = x.site := by
  unfold confirmDark
  simp only [↓oweSettle_site, ↓inject_site, ↓Hoop.updChan_site]

theorem pulse_site (s det : Nat) (extra : List Nat) (x : Hoop) : (pulse s det extra x).site = x.site := by
  unfold pulse
  simp only [↓faultOff_site, ↓faultOn_site]

/-! ## Tambour -/

theorem opDone_site (o : TOp) (x : Hoop) : (opDone o x).site = x.site := by
  unfold opDone
  simp only [↓Hoop.site_mk, ↓pmcRaw_site]

theorem restoreIdle_site (x : Hoop) : (restoreIdle x).site = x.site := by
  unfold restoreIdle
  simp only [↓Hoop.site_mk]

theorem restoreOp_site (x : Hoop) : (restoreOp x).site = x.site := by
  unfold restoreOp
  split <;> simp only [↓opDone_site, ↓restoreIdle_site]

theorem eccFix_site (nano : Bool) (addr : BitVec 12) (x : Hoop) : (eccFix nano addr x).site = x.site := by
  unfold eccFix
  simp only [↓Hoop.site_mk, ↓Hoop.site_ite, ite_self, ↓raiseEv_site]

theorem stopRecord_site (st : TmbSt) (op : Option TOp) (info : Word) (phase : Nat) (uaddr : BitVec 12) (flags source : Nat) (x : Hoop) :
    (stopRecord st op info phase uaddr flags source x).site = x.site := by
  unfold stopRecord
  simp only [↓Hoop.site_mk, ↓raiseEv_site]

theorem abortAll_site (x : Hoop) : (abortAll x).site = x.site := by
  unfold abortAll
  simp only [↓Hoop.site_ite, ite_self, ↓Hoop.site_foldl, implies_true, ↓withdraw_site]

theorem writeIdle_site (ds : List DeltaEntry) (x : Hoop) : (writeIdle ds x).site = x.site := by
  unfold writeIdle
  simp only [↓Hoop.site_foldl, implies_true, ↓Hoop.setIdle_site]

theorem markStaged_site (key : Nat) (ds : List DeltaEntry) (x : Hoop) : (markStaged key ds x).site = x.site := by
  unfold markStaged
  simp only [↓Hoop.site_mk, ↓pmcRaw_site]

theorem tellStaged_site (cs : List Commit) (x : Hoop) : (tellStaged cs x).site = x.site := by
  unfold tellStaged
  simp only [↓Hoop.site_foldl, implies_true, ↓raiseEv_site]

theorem markArmed_site (ns k : Nat) (x : Hoop) : (markArmed ns k x).site = x.site := by
  unfold markArmed
  simp only [↓Hoop.site_mk]

theorem abortStage_site (cs : List Commit) (code : Nat) (x : Hoop) : (abortStage cs code x).site = x.site := by
  unfold abortStage
  simp only [↓Hoop.site_ite, ite_self, ↓Hoop.site_foldl, implies_true, ↓abortCommit_site]

theorem stageInject_site (cs : List Commit) (x : Hoop) : (stageInject cs x).site = x.site := by
  unfold stageInject
  simp only [↓Hoop.site_foldl, implies_true, ↓injectAt_site]

theorem digestCompare_frame (s : State) : (digestCompare s).frame = s.frame := by
  unfold digestCompare
  simp only [↓State.frame_ite, ite_self, ↓State.frame_foldl, implies_true, ↓arbitrate_frame, ↓State.upd_frame, ↓noteMismatch_site]

theorem updateSome_site (o : TOp) (t : Nat) (es : List Nat) (x : Hoop) : (updateSome o t es x).site = x.site := by
  unfold updateSome
  simp only [↓Hoop.site_ite, ite_self, ↓Hoop.site_foldl, implies_true, ↓updateNeedle_site, ↓Hoop.updElem_site, ↓openWindow_site, ↓Hoop.updLoop_site]

theorem tileWritten_site (o : TOp) (t : Nat) (x : Hoop) : (tileWritten o t x).site = x.site := by
  unfold tileWritten
  simp only [↓Hoop.site_mk, ↓Hoop.site_ite, ite_self, ↓Hoop.updTile_site, ↓slewDone_site, ↓opDone_site]

theorem tileUpdate_site (t : Nat) (x : Hoop) : (tileUpdate t x).site = x.site := by
  unfold tileUpdate
  split <;> simp only [↓Hoop.site_ite, ite_self, ↓tileWritten_site, ↓updateSome_site]

theorem postPark_site (es : List Nat) (x : Hoop) : (postPark es x).site = x.site := by
  unfold postPark
  simp only [↓Hoop.site_ite, ite_self, ↓postNormal_site]

theorem injReload_site (g : Nat) (x : Hoop) : (injReload g x).site = x.site := by
  unfold injReload
  split <;> simp only [↓Hoop.site_ite, ite_self, ↓opDone_site, ↓Hoop.updGroup_site]

theorem disarmCmp_site (steps k key : Nat) (x : Hoop) : (disarmCmp steps k key x).site = x.site := by
  unfold disarmCmp
  simp only [↓Hoop.site_mk, ↓Hoop.site_ite, ite_self, ↓Hoop.site_foldl, implies_true, ↓cmpDisarm_site, ↓clearInj_site, ↓restoreIdle_site]

theorem disarm_site (k : Nat) (x : Hoop) : (disarm k x).site = x.site := by
  unfold disarm
  split <;> simp only [↓Hoop.site_ite, ite_self, ↓postStage_site, ↓opDone_site, ↓disarmCmp_site]

theorem darkOne_site (i : Nat) (x : Hoop) : (darkOne i x).site = x.site := by
  unfold darkOne
  simp only [↓Hoop.site_mk, ↓writeNeedle_site, ↓Hoop.updElem_site, ↓confirmDark_site, ↓openWindow_site]

theorem eyeletDark_site (x : Hoop) : (eyeletDark x).site = x.site := by
  unfold eyeletDark
  split <;> simp only [↓Hoop.site_foldl, implies_true, ↓pmcRaw_site, ↓opDone_site, ↓darkOne_site]

theorem partialStage_site (o : TOp) (phase applied : Nat) (x : Hoop) : (partialStage o phase applied x).site = x.site := by
  unfold partialStage
  split
  · rfl
  · extract_lets ds x1 x2 x3
    have h1 : x1.site = x.site := by simp only [x1, ↓Hoop.site_ite, ↓writeIdle_site, ite_self]
    have h2 : x2.site = x.site := by simp only [x2, ↓Hoop.site_ite, ↓markStaged_site, h1, ite_self]
    have h3 : x3.site = x.site := by
      simp only [x3]
      split
      · split
        · exact (markArmed_site ..).trans ((cmpArm_site ‹_›).trans h2)
        · exact (lateArm_site ..).trans h2
      · exact h2
    simp only [↓Hoop.site_ite, ↓stageInject_site, h3, ite_self]

theorem partialPrk_site (phase applied : Nat) (x : Hoop) : (partialPrk phase applied x).site = x.site := by
  unfold partialPrk
  simp only [↓Hoop.site_mk, ↓Hoop.site_ite, ite_self, ↓writeIdle_site, ↓markStaged_site]

theorem partialTiles_site (o : TOp) (ts : List Nat) (n : Nat) (x : Hoop) : (partialTiles o ts n x).site = x.site := by
  induction ts generalizing o n x with
  | nil => rfl
  | cons t ts ih =>
    unfold partialTiles
    simp only [↓Hoop.site_ite, ↓ih, ↓updateSome_site, ↓Hoop.updTile_site, ↓tileWritten_site, ite_self]

theorem partialOp_site (o : TOp) (phase applied : Nat) (x : Hoop) : (partialOp o phase applied x).site = x.site := by
  unfold partialOp
  split
  case h_6 =>
    split
    · exact disarmCmp_site ..
    · rfl
  all_goals
    simp only [↓Hoop.site_ite, ↓Hoop.site_foldl, ↓partialStage_site, ↓partialPrk_site, ↓restoreIdle_site, ↓partialTiles_site, ↓Hoop.updGroup_site,
      ↓darkOne_site, ite_self, implies_true]

theorem stopOp_site (st : TmbSt) (phase applied : Nat) (uaddr : BitVec 12) (flags source : Nat) (x : Hoop) :
    (stopOp st phase applied uaddr flags source x).site = x.site := by
  unfold stopOp
  simp only [↓abortAll_site, ↓stopRecord_site]
  split <;> simp only [↓partialOp_site]

theorem stackStop_site (phase applied : Nat) (uaddr : BitVec 12) (x : Hoop) : (stackStop phase applied uaddr x).site = x.site := by
  unfold stackStop
  simp only [↓fault_site, ↓stopOp_site]

theorem stageStd_site (bad1 bad2 : List Nat) (why : StageEvent) (x : Hoop) : (stageStd bad1 bad2 why x).site = x.site := by
  unfold stageStd
  split
  case h_1 =>
    cases why
    case stackError => exact stackStop_site ..
    all_goals
      simp only [↓Hoop.site_ite, ↓Hoop.site_foldl, ↓abortStage_site, ↓pulse_site, ↓raiseEv_site, ↓tellStaged_site, ↓opDone_site, ↓eccFix_site,
        implies_true]
      iterate 3 (split; · rfl)
      split
      · simp only [↓abortStage_site, ↓lateArm_site, ↓tellStaged_site, ↓opDone_site, ↓eccFix_site]
      · simp only [↓stageInject_site, ↓markArmed_site, ↓tellStaged_site, ↓markStaged_site, ↓writeIdle_site, ↓cmpArm_site ‹_›, ↓opDone_site,
        ↓eccFix_site]
  case h_2 => exact opDone_site ..
  case h_3 => rfl

theorem tambourNop_site (x : Hoop) : (tambourNop x).site = x.site := by
  unfold tambourNop
  simp only [↓Hoop.site_ite, ite_self, ↓opDone_site]

theorem reservedOp_site (c : BitVec 6) (x : Hoop) : (reservedOp c x).site = x.site := by
  unfold reservedOp
  simp only [↓Hoop.site_ite, ite_self, ↓raiseEv_site, ↓opDone_site]

/-! ## Microcode -/

theorem beginRun_site (o : TOp) (x : Hoop) : (beginRun o x).site = x.site := by
  unfold beginRun
  simp only [↓Hoop.site_mk]

theorem viaPatch_site (code : BitVec 6) {rom : Hoop → Hoop} (h : ∀ x, (rom x).site = x.site) (x : Hoop) : (viaPatch code rom x).site = x.site := by
  unfold viaPatch
  split <;> simp only [↓Hoop.site_ite, ↓beginRun_site, ↓h, ite_self]

theorem stopRun_site (st : TmbSt) (r : Run) (a : BitVec 12) (flags source : Nat) (x : Hoop) : (stopRun st r a flags source x).site = x.site := by
  unfold stopRun
  simp only [↓Hoop.site_mk, ↓abortAll_site, ↓stopRecord_site]

theorem fetchFault_site (nano : Bool) (addr : Nat) {stop : Hoop → Hoop} (h : ∀ x, (stop x).site = x.site) (x : Hoop) :
    (fetchFault nano addr stop x).site = x.site := by
  unfold fetchFault
  simp only [↓Hoop.site_mk, ↓fault_site, ↓h, ↓raiseEv_site]

theorem posted_site (code : BitVec 6) {rom : Hoop → Hoop} (h : ∀ x, (rom x).site = x.site) (x : Hoop) : (posted code rom x).site = x.site := by
  unfold posted
  simp only [↓Hoop.site_ite, ↓beginRun_site, ↓h, ite_self]

theorem tambourStop_site (phase applied : Nat) (uaddr : BitVec 12) (x : Hoop) : (tambourStop phase applied uaddr x).site = x.site := by
  unfold tambourStop
  split <;> simp only [↓Hoop.site_ite, ite_self, ↓stopOp_site, ↓stopRun_site]

theorem forcedStop_site (phase applied : Nat) (uaddr : BitVec 12) (x : Hoop) : (forcedStop phase applied uaddr x).site = x.site := by
  unfold forcedStop
  split <;> simp only [↓Hoop.site_ite, ite_self, ↓raiseEv_site, ↓stopOp_site, ↓stopRun_site]

theorem eccHalt_site (nano : Bool) (e : EccSite) (x : Hoop) : (eccHalt nano e x).site = x.site := by
  unfold eccHalt
  extract_lets at_
  split
  · refine fetchFault_site _ _ (fun y => ?_) x
    cases x.tmb.run with
    | none => exact stopOp_site ..
    | some r => exact stopRun_site ..
  · rfl

theorem patchScrub_site (hit : Option EccHit) (x : Hoop) : (patchScrub hit x).site = x.site := by
  unfold patchScrub
  split <;> simp only [↓Hoop.site_mk, ↓Hoop.site_ite, ite_self, ↓fault_site, ↓raiseEv_site, ↓eccFix_site]

theorem timedOut_site (cond : Nat) (x : Hoop) : (timedOut cond x).site = x.site := by
  unfold timedOut
  split <;> simp only [↓Hoop.site_mk]

theorem waitTimeout_site (cond g : Nat) (uaddr : BitVec 12) (x : Hoop) : (waitTimeout cond g uaddr x).site = x.site := by
  unfold waitTimeout
  simp only [↓Hoop.site_mk, ↓Hoop.site_ite, ite_self, ↓raiseEv_site, ↓timedOut_site, ↓fault_site, ↓pulse_site, ↓Hoop.updGroup_site]

theorem resume_site (x : Hoop) : (resume x).site = x.site := by
  unfold resume
  simp only [↓Hoop.site_mk, ↓Hoop.site_ite, ite_self, ↓jnlPut_site, ↓raiseEv_site]

theorem holdRelease_site (x : Hoop) : (holdRelease x).site = x.site := by
  unfold holdRelease
  simp only [↓Hoop.site_mk, ↓Hoop.site_ite, ite_self]

/-! ## Loops -/

theorem heaterOut_site (e u : Nat) (x : Hoop) : (heaterOut e u x).site = x.site := by
  unfold heaterOut
  simp only [↓Hoop.setLoop_site, ↓heaterPort_site]

theorem emit_site (e : Nat) (ur : Int) (x : Hoop) : (emit e ur x).site = x.site := by
  unfold emit
  simp only [↓Hoop.site_ite, ite_self, ↓Hoop.setLoop_site, ↓raiseEv_site, ↓heaterOut_site]

theorem gentle_site (e : Nat) (u : Int) (x : Hoop) : (gentle e u x).site = x.site := by
  unfold gentle
  simp only [↓Hoop.site_ite, ite_self, ↓Hoop.updTile_site]

theorem ffOut_site (e : Nat) (x : Hoop) : (ffOut e x).site = x.site := by
  unfold ffOut
  simp only [↓Hoop.site_ite, ite_self, ↓emit_site, ↓gentle_site, ↓Hoop.setLoop_site]

theorem disagree_site (e kind : Nat) (x : Hoop) : (disagree e kind x).site = x.site := by
  unfold disagree
  simp only [↓Hoop.site_mk, ↓Hoop.site_ite, ite_self, ↓raiseEv_site, ↓jnlPut_site, ↓Hoop.setLoop_site]

theorem fold_site (e : Nat) (x : Hoop) : (fold e x).site = x.site := by
  unfold fold
  dsimp only
  split <;> simp only [↓ffOut_site, ↓disagree_site, ↓Hoop.setLoop_site]

theorem missUpdate_site (e : Nat) (x : Hoop) : (missUpdate e x).site = x.site := by
  unfold missUpdate
  simp only [↓Hoop.site_ite, ite_self, ↓Hoop.setLoop_site]

theorem loopUpdate_site (e : Nat) (err : Int) (frozen : Bool) (x : Hoop) : (loopUpdate e err frozen x).site = x.site := by
  unfold loopUpdate
  simp only [↓Hoop.site_ite, ite_self, ↓pmcRaw_site, ↓Hoop.setLoop_site, ↓emit_site]

theorem preload_site (e : Nat) (err : Int) (x : Hoop) : (preload e err x).site = x.site := by
  unfold preload
  simp only [↓pmcRaw_site, ↓Hoop.setLoop_site, ↓emit_site, ↓disagree_site]

theorem beginPass_site (g : Nat) (cs : List Nat) (x : Hoop) : (beginPass g cs x).site = x.site := Prod.ext rfl rfl

theorem tickPass_site (cs : List Nat) (x : Hoop) (g : Nat) : (tickPass cs x g).site = x.site := by
  unfold tickPass
  simp only [↓Hoop.site_ite, ite_self, ↓beginPass_site, ↓Hoop.updGroup_site]

theorem passConv_site (ch : Nat) (x : Hoop) : (passConv ch x).site = x.site := by
  unfold passConv
  simp only [↓Hoop.site_ite, ite_self, ↓Hoop.updGroup_site, ↓beginPass_site]

theorem assignSet_site (e : Nat) (n : BitVec 4) (x : Hoop) : (assignSet e n x).site = x.site := Prod.ext rfl rfl

theorem giveTone_site (e k : Nat) (x : Hoop) : (giveTone e k x).site = x.site := by
  unfold giveTone
  simp only [↓Hoop.site_mk, ↓Hoop.updNeedle_site, ↓Hoop.updTile_site, ↓assignSet_site]

theorem dropTone_site (e : Nat) (x : Hoop) : (dropTone e x).site = x.site := by
  unfold dropTone
  simp only [↓Hoop.site_ite, ite_self, ↓Hoop.updNeedle_site, ↓Hoop.updTile_site, ↓assignSet_site]

theorem chooseTone_site (e : Nat) (x : Hoop) : (chooseTone e x).site = x.site := by
  unfold chooseTone
  simp only [↓Hoop.site_ite, ↓dropTone_site]
  repeat' split
  all_goals simp only [↓giveTone_site, ↓raiseEv_site]

theorem noteFlip_site (e : Nat) (x : Hoop) : (noteFlip e x).site = x.site := by
  unfold noteFlip
  simp only [↓Hoop.site_mk, ↓Hoop.site_ite, ite_self, ↓Hoop.setLoop_site, ↓raiseEv_site, ↓jnlPut_site]

theorem flipLimit_site (e : Nat) (x : Hoop) : (flipLimit e x).site = x.site := by
  unfold flipLimit
  simp only [↓Hoop.site_ite, ite_self, ↓chooseTone_site]

theorem ratioUpdate_site (e r : Nat) (x : Hoop) : (ratioUpdate e r x).site = x.site := by
  unfold ratioUpdate
  split <;> simp only [↓Hoop.site_ite, ite_self, ↓missUpdate_site, ↓Hoop.setLoop_site, ↓loopUpdate_site, ↓noteFlip_site, ↓flipLimit_site]

theorem lockin_site (e r : Nat) (x : Hoop) : (lockin e r x).site = x.site := by
  unfold lockin
  simp only [↓Hoop.setLoop_site]

theorem validUpdate_site (e : Nat) (err : Int) (x : Hoop) : (validUpdate e err x).site = x.site := by
  unfold validUpdate
  simp only [↓Hoop.site_ite, ite_self, ↓preload_site, ↓loopUpdate_site]

theorem lockinEnd_site (e : Nat) (x : Hoop) : (lockinEnd e x).site = x.site := by
  unfold lockinEnd
  split <;> simp only [↓Hoop.site_ite, ite_self, ↓Hoop.setLoop_site, ↓missUpdate_site, ↓validUpdate_site]

theorem closeLoop_site (e r : Nat) (x : Hoop) : (closeLoop e r x).site = x.site := by
  unfold closeLoop
  repeat' split
  all_goals simp only [↓preload_site]

theorem slowNote_site (e : Nat) (x : Hoop) : (slowNote e x).site = x.site := by
  unfold slowNote
  simp only [↓Hoop.site_mk, ↓Hoop.site_ite, ite_self, ↓raiseEv_site]

theorem loopWord_site (e r : Nat) (changed : Bool) (x : Hoop) : (loopWord e r changed x).site = x.site := by
  unfold loopWord
  dsimp only
  split <;> simp only [↓Hoop.site_ite, ite_self, ↓fold_site, ↓lockin_site, ↓ratioUpdate_site, ↓slowNote_site, ↓closeLoop_site]

theorem loopNoWord_site (e : Nat) (x : Hoop) : (loopNoWord e x).site = x.site := by
  unfold loopNoWord
  simp only [↓Hoop.site_ite, ite_self, ↓missUpdate_site]

theorem loopVerdict_site (e r : Nat) (pass : Bool) (x : Hoop) : (loopVerdict e r pass x).site = x.site := by
  unfold loopVerdict
  simp only [↓Hoop.site_ite, ite_self, ↓Hoop.setLoop_site, ↓closeLoop_site]

theorem strobeLoop_site (e : Nat) (hff : Option Nat) (reband : Bool) (x : Hoop) : (strobeLoop e hff reband x).site = x.site := by
  unfold strobeLoop
  simp only [↓Hoop.site_ite, ite_self, ↓ffOut_site, ↓Hoop.setLoop_site]

theorem holdTimeout_site (e : Nat) (x : Hoop) : (holdTimeout e x).site = x.site := by
  unfold holdTimeout
  simp only [↓Hoop.site_ite, ite_self, ↓fold_site]

theorem lagUpdate_site (x : Hoop) : (lagUpdate x).site = x.site := by
  unfold lagUpdate
  simp only [↓Hoop.site_mk]

theorem capJob_site (x : Hoop) : (capJob x).site = x.site := by
  unfold capJob
  simp only [↓Hoop.site_mk, ↓Hoop.site_ite, ite_self, ↓raiseEv_site]

theorem swapSet_site (k : Nat) (x : Hoop) : (swapSet k x).site = x.site := by
  unfold swapSet
  simp only [↓Hoop.site_mk, ↓Hoop.site_ite, ite_self, ↓raiseEv_site]

theorem swapSets_site (x : Hoop) : (swapSets x).site = x.site := by
  unfold swapSets
  simp only [↓Hoop.site_foldl, implies_true, ↓swapSet_site]

theorem ffJobs_site (x : Hoop) : (ffJobs x).site = x.site := by
  unfold ffJobs
  simp only [↓Hoop.site_ite, ite_self, ↓Hoop.site_foldl, implies_true, ↓fold_site, ↓missUpdate_site, ↓pmcRaw_site, ↓ffOut_site]

theorem slowLoops_site (x : Hoop) : (slowLoops x).site = x.site := by
  unfold slowLoops
  split <;> simp only [↓slowNote_site]

theorem passStart_site (x : Hoop) : (passStart x).site = x.site := by
  unfold passStart
  simp only [↓Hoop.site_mk, ↓Hoop.site_foldl, implies_true, ↓ffJobs_site, ↓slowLoops_site, ↓swapSets_site, ↓tickPass_site]

theorem loopSetVerb_stays : loopSetVerb.Stays := fun k x => by
  simp only [loopSetVerb, ↓Hoop.site_mk, ↓adminOk_site, ↓storeSetting_site]

theorem loopAssignVerb_stays : loopAssignVerb.Stays := fun k x => by
  simp only [loopAssignVerb, ↓Hoop.site_foldl, implies_true, ↓assignSet_site, ↓adminOk_site, ↓storeSetting_site]

theorem refine_site (e : Nat) (mean : Int) (x : Hoop) : (refine e mean x).site = x.site := by
  unfold refine
  simp only [↓Hoop.site_ite]
  repeat' split
  all_goals simp only [↓Hoop.site_mk, ↓Hoop.setLoop_site, ↓Hoop.updElem_site, ↓pulse_site, ↓jnlPut_site, ↓mramWrite_site]

theorem samplerRestoreVerb_stays : samplerRestoreVerb.Stays := fun k x => by
  simp only [samplerRestoreVerb, ↓Hoop.site_mk, ↓adminOk_site, ↓mramWrite_site]

/-! ## Verify -/

theorem stampVerdict_site (i : Nat) (x : Hoop) : (stampVerdict i x).site = x.site := by
  unfold stampVerdict
  simp only [↓Hoop.site_mk]

theorem goVerified_site (i : Nat) (x : Hoop) : (goVerified i x).site = x.site := by
  unfold goVerified
  simp only [↓Hoop.updThread_site, ↓outcomes_site, ↓stampVerdict_site, ↓ledVerified_site, ↓setSt_site]

theorem rejudge_site (i : Nat) (t : Thread) (x : Hoop) : (rejudge i t x).site = x.site := by
  refine Hoop.site_foldl _ (fun y q => ?_) _ _
  simp only [↓Hoop.site_ite]
  split
  · rfl
  · split <;> simp only [↓inject_site, ↓Hoop.updThread_site]

theorem failThreads_site (is : List Nat) (src c : Nat) (x : Hoop) : (failThreads is src c x).site = x.site := by
  unfold failThreads
  simp only [↓Hoop.site_foldl, implies_true, ↓stampVerdict_site, ↓pulse_site, ↓reqDark_site, ↓faultThread_site, ↓outcomes_site, ↓rejudge_site]

theorem failThread_site (i src c : Nat) (x : Hoop) : (failThread i src c x).site = x.site := by
  unfold failThread
  simp only [↓failThreads_site]

theorem passStanding_site (c : Nat) (x : Hoop) : (passStanding c x).site = x.site := by
  refine Hoop.site_foldl _ (fun y q => ?_) _ _
  dsimp only
  split <;> simp only [↓Hoop.site_ite, ↓goVerified_site, ↓stampVerdict_site, ↓Hoop.updThread_site, ite_self]

theorem failStanding_site (c : Nat) (x : Hoop) : (failStanding c x).site = x.site := by
  unfold failStanding
  simp only [↓Hoop.site_ite, ite_self, ↓Hoop.site_foldl, implies_true, ↓Hoop.updThread_site, ↓failThreads_site]

theorem updLoaded_site (f : Nat → Thread → Thread) (x : Hoop) : (updLoaded f x).site = x.site := by
  unfold updLoaded
  split <;> simp only [↓Hoop.site_mk]

theorem setPricked_site (p i : Nat) (st : ThreadSt) (cause src : Nat) (x : Hoop) : (setPricked p i st cause src x).site = x.site := by
  unfold setPricked
  split <;> simp only [↓Hoop.site_mk, ↓threadEvent_site, ↓countSt_site]

theorem failPricked_site (p i src c : Nat) (x : Hoop) : (failPricked p i src c x).site = x.site := by
  unfold failPricked
  simp only [↓Hoop.site_mk, ↓setPricked_site, ↓prkPay_site, ↓pulse_site, ↓reqDark_site]

theorem rotate_site (c : Nat) (front : Bool) (x : Hoop) : (rotate c front x).site = x.site := by
  unfold rotate
  split <;> simp only [↓Hoop.site_mk]

theorem passPricked_site (c : Nat) (ts : List (Nat × Nat × Thread)) (x : Hoop) : (passPricked c ts x).site = x.site := by
  unfold passPricked
  dsimp only
  split <;> simp only [↓Hoop.site_mk, ↓Hoop.site_ite, ite_self, ↓Hoop.site_foldl, implies_true, ↓updLoaded_site, ↓setPricked_site, ↓raiseEv_site]

theorem failPricked'_site (c : Nat) (ts : List (Nat × Nat × Thread)) (x : Hoop) : (failPricked' c ts x).site = x.site := by
  refine Hoop.site_foldl _ (fun y q => ?_) _ _
  split <;> simp only [↓Hoop.site_ite, ↓failPricked_site, ↓updLoaded_site, ite_self]

theorem judgePricked_site (c : Nat) (ts : List (Nat × Nat × Thread)) (v : Judge) (x : Hoop) : (judgePricked c ts v x).site = x.site := by
  unfold judgePricked
  repeat' split
  all_goals simp only [↓rotate_site, ↓passPricked_site, ↓failPricked'_site]

theorem lightChange_site (i r : Nat) (x : Hoop) : (lightChange i r x).site = x.site := by
  unfold lightChange
  simp only [↓Hoop.site_ite, ite_self, ↓Hoop.site_foldl, implies_true, ↓Hoop.updThread_site, ↓threadEvent_site, ↓outcomes_site, ↓ledEnd_site,
    ↓strobeLoop_site, ↓ledStart_site, ↓oweSettle_site, ↓inject_site]

theorem lightPricked_site (i r start : Nat) (x : Hoop) : (lightPricked i r start x).site = x.site := by
  unfold lightPricked
  repeat' split
  all_goals simp only [↓Hoop.site_mk, ↓updLoaded_site]

theorem endThread_site (i : Nat) (x : Hoop) : (endThread i x).site = x.site := by
  unfold endThread
  simp only [↓Hoop.site_mk, ↓Hoop.site_foldl, implies_true, ↓notify_site, ↓threadEvent_site, ↓remix_site, ↓refreshElems_site, ↓dropTone_site,
    ↓fold_site, ↓postPark_site, ↓outcomes_site]

theorem darkOk_site (i : Nat) (x : Hoop) : (darkOk i x).site = x.site := by
  unfold darkOk
  simp only [↓Hoop.site_ite, ite_self, ↓injDrop_site, ↓Hoop.updChan_site, ↓endThread_site]

theorem darkRead_site (i r : Nat) (x : Hoop) : (darkRead i r x).site = x.site := by
  unfold darkRead
  simp only [↓Hoop.site_ite, ite_self, ↓Hoop.updChan_site, ↓fault_site, ↓injLeave_site, ↓darkOk_site]

theorem confirmCount_site (i r : Nat) (x : Hoop) : (confirmCount i r x).site = x.site := by
  unfold confirmCount
  simp only [↓Hoop.site_mk, ↓Hoop.site_ite, ite_self]

theorem electric_site (i : Nat) (x : Hoop) : (electric i x).site = x.site := by
  unfold electric
  simp only [↓Hoop.site_mk, ↓Hoop.site_ite, ite_self, ↓jnlPut_site, ↓darkOk_site]

theorem verdict_site (c r start : Nat) (x : Hoop) : (verdict c r start x).site = x.site := by
  unfold verdict
  simp only [↓Hoop.site_ite, ite_self, ↓confirmCount_site, ↓darkRead_site, ↓lightPricked_site, ↓lightChange_site]
  repeat' split
  all_goals simp only [↓confirmCount_site, ↓lightPricked_site, ↓lightChange_site, ↓pmcRaw_site, ↓injLeave_site, ↓Hoop.updChan_site, ↓loopVerdict_site,
    ↓judgePricked_site, ↓passStanding_site, ↓failStanding_site]

theorem deadline_site (i : Nat) (x : Hoop) : (deadline i x).site = x.site := by
  -- The function is unfolded as a whole: against `deadline i x` the kernel would evaluate the conditions of its body.
  generalize hf : deadline = f
  delta deadline at hf
  subst hf
  beta_reduce
  extract_lets t late dead x1
  have h1 : x1.site = x.site := by simp only [x1, ↓Hoop.site_ite, ↓failThread_site, ↓raiseEv_site, ite_self]
  clear_value x1
  split
  · exact h1
  · refine (Hoop.site_foldl _ (fun y s => ?_) _ _).trans h1
    dsimp only
    split
    · simp only [↓Hoop.site_ite, ↓failPricked_site, ↓raiseEv_site, ite_self]
    · rfl

theorem presel_site (c : Nat) (rg : BitVec 2) (x : Hoop) : (presel c rg x).site = x.site := by
  unfold presel
  simp only [↓Hoop.site_ite, ite_self, ↓Hoop.setChan_site]

theorem preselect_site (x : Hoop) (chans lit dark : List Nat) (vp : VParams) (h : Hoop) : (preselect x chans lit dark vp h).site = h.site := by
  refine Hoop.site_foldl _ (fun y c => ?_) _ _
  repeat' split
  all_goals exact presel_site ..

/-! ## Monitor -/

theorem chanGone_site (c : Nat) (x : Hoop) : (chanGone c x).site = x.site := by
  unfold chanGone
  simp only [↓Hoop.site_mk, ↓Hoop.site_ite, ite_self, ↓Hoop.site_foldl, implies_true, ↓goVerified_site]

theorem loseChan_site (cause c : Nat) (x : Hoop) : (loseChan cause c x).site = x.site := by
  unfold loseChan
  simp only [↓Hoop.site_ite, ite_self, ↓injClose_site, ↓Hoop.updChan_site, ↓Hoop.updGroup_site, ↓fold_site, ↓raiseEv_site, ↓chanGone_site]

theorem loseFront_site (c : Nat) (x : Hoop) : (loseFront c x).site = x.site := by
  unfold loseFront
  simp only [↓Hoop.site_ite, ite_self, ↓fault_site, ↓loseChan_site]

theorem loseGroup_site (g : Nat) (x : Hoop) : (loseGroup g x).site = x.site := by
  unfold loseGroup
  simp only [↓Hoop.site_mk, ↓Hoop.site_ite, ite_self, ↓Hoop.site_foldl, implies_true, ↓loseChan_site, ↓Hoop.updGroup_site, ↓raiseEv_site, ↓fault_site]

theorem setSpare_site (k g : Nat) (perm : Bool) (x : Hoop) : (setSpare k g perm x).site = x.site := by
  unfold setSpare
  simp only [↓Hoop.site_mk, ↓raiseEv_site]

theorem callBack_site (k g : Nat) (x : Hoop) : (callBack k g x).site = x.site := by
  unfold callBack
  simp only [↓Hoop.site_mk, ↓Hoop.site_ite, ite_self, ↓Hoop.updGroup_site]

theorem adcFail_site (g : Nat) (x : Hoop) : (adcFail g x).site = x.site := by
  unfold adcFail
  repeat' split
  all_goals simp only [↓Hoop.site_ite, ite_self, ↓fault_site, ↓setSpare_site, ↓callBack_site, ↓Hoop.updGroup_site, ↓raiseEv_site, ↓loseGroup_site]

theorem spareOn_site (c : Nat) (x : Hoop) : (spareOn c x).site = x.site := by
  unfold spareOn
  simp only [↓Hoop.updChan_site]

theorem startTest_site (c : Nat) (x : Hoop) : (startTest c x).site = x.site := by
  unfold startTest
  simp only [↓Hoop.site_ite, ite_self, ↓spareOn_site, ↓Hoop.updChan_site]

theorem spareFreed_site (g : Nat) (x : Hoop) : (spareFreed g x).site = x.site := by
  unfold spareFreed
  repeat' split
  all_goals simp only [↓startTest_site]

theorem giveBack_site (c : Nat) (x : Hoop) : (giveBack c x).site = x.site := by
  unfold giveBack
  simp only [↓spareFreed_site, ↓Hoop.updChan_site]

theorem useSlot_site (ch t : Nat) (inj : Bool) (x : Hoop) : (useSlot ch t inj x).site = x.site := by
  unfold useSlot
  simp only [↓Hoop.site_mk, ↓Hoop.site_ite, ite_self, ↓Hoop.updGroup_site, ↓passConv_site]

theorem paySettle_site (ch : Nat) (c : Conv) (x : Hoop) : (paySettle ch c x).site = x.site := by
  unfold paySettle
  simp only [↓Hoop.updGroup_site, ↓Hoop.updChan_site]

theorem autorange_site (ch : Nat) (w : Word) (x : Hoop) : (autorange ch w x).site = x.site := by
  unfold autorange
  simp only [↓Hoop.site_ite, ite_self, ↓Hoop.setChan_site]

theorem railCheck_site (ch : Nat) (c : Conv) (x : Hoop) : (railCheck ch c x).site = x.site := by
  unfold railCheck
  simp only [↓Hoop.site_ite, ite_self, ↓Hoop.setChan_site, ↓startTest_site, ↓Hoop.updChan_site]

theorem countConv_site (ch : Nat) (w : Word) (x : Hoop) : (countConv ch w x).site = x.site := by
  unfold countConv
  simp only [↓Hoop.site_mk, ↓Hoop.site_ite, ite_self, ↓pmcRaw_site]

theorem ledgerConv_site (ch r : Nat) (x : Hoop) : (ledgerConv ch r x).site = x.site := by
  unfold ledgerConv
  simp only [↓Hoop.site_ite]
  repeat' split
  all_goals simp only [↓ledEnd_site, ↓ledStart_site]

theorem heldReturn_site (c : Nat) (x : Hoop) : (heldReturn c x).site = x.site := by
  unfold heldReturn
  simp only [↓Hoop.site_ite, ite_self, ↓giveBack_site]

theorem convert_site (ch : Nat) (c : Conv) (held : Option Word) (x : Hoop) : (convert ch c held x).site = x.site := by
  unfold convert
  simp only [↓Hoop.site_ite, ite_self, ↓useSlot_site, ↓paySettle_site, ↓Hoop.updChan_site, ↓countConv_site, ↓verdict_site, ↓loopWord_site,
    ↓ledgerConv_site, ↓loopNoWord_site, ↓heldReturn_site, ↓railCheck_site, ↓autorange_site]

theorem wordCompare_site (ch : Nat) (w : Word) (x : Hoop) : (wordCompare ch w x).site = x.site := by
  unfold wordCompare
  simp only [↓Hoop.site_mk, ↓Hoop.site_ite, ite_self, ↓Hoop.updChan_site, ↓raiseEv_site, ↓fault_site]

theorem convertIn_frame (h : HoopId) (ch : Nat) (c : Conv) (s : State) : (convertIn h ch c s).frame = s.frame := by
  unfold convertIn
  simp only [↓State.frame_ite, ite_self, implies_true, ↓State.upd_frame, ↓convert_site, ↓wordCompare_site, ↓Hoop.updChan_site]

theorem sweepState_site (x : Hoop) : (sweepState x).site = x.site := by
  unfold sweepState
  simp only [↓Hoop.site_mk, ↓Hoop.site_ite, ite_self, ↓raiseEv_site]

theorem spareEnd_site (ch : Nat) (normal : Bool) (x : Hoop) : (spareEnd ch normal x).site = x.site := by
  unfold spareEnd
  simp only [↓Hoop.site_ite, ite_self, ↓jnlPut_site, ↓Hoop.setChan_site, ↓spareFreed_site, ↓loseFront_site]

theorem lostToBoth_frame (h : HoopId) {f : Hoop → Hoop} (e : ∀ x, (f x).site = x.site) (was s : State) : (lostToBoth h f was s).frame = s.frame := by
  unfold lostToBoth
  simp only [↓State.frame_ite, ↓State.upd_frame _ _ _ e, ite_self]

theorem refOkSet_site (drift : Nat) (x : Hoop) : (refOkSet drift x).site = x.site := by
  unfold refOkSet
  simp only [↓Hoop.site_mk, ↓Hoop.site_ite, ite_self, ↓raiseEv_site]

theorem selectRef_site (src : BitVec 2) (meas : Nat) (x : Hoop) : (selectRef src meas x).site = x.site := by
  unfold selectRef
  simp only [↓Hoop.site_mk, ↓Hoop.site_ite, ite_self, ↓raiseEv_site]

theorem refFallback_site (x : Hoop) : (refFallback x).site = x.site := by
  unfold refFallback
  simp only [↓Hoop.site_mk, ↓Hoop.site_ite, ite_self, ↓selectRef_site, ↓fault_site, ↓raiseEv_site]

theorem refSelVerb_stays : refSelVerb.Stays := fun k x => by
  simp only [refSelVerb, ite_self, ↓Hoop.site_snd, ↓Hoop.site_snd_ite, ↓adminOk_site, ↓storeSetting_site, ↓Hoop.fresh_site, ↓faultOff_site,
    ↓selectRef_site]

theorem adcProfileVerb_stays : adcProfileVerb.Stays := fun k x => by
  simp only [adcProfileVerb, ↓Hoop.site_foldl, implies_true, ↓adminOk_site, ↓storeSetting_site, ↓Hoop.updGroup_site]

theorem verifyCfgVerb_stays : verifyCfgVerb.Stays := fun k x => by
  simp only [verifyCfgVerb, ↓Hoop.site_mk, ↓adminOk_site, ↓storeSetting_site]

theorem Hoop.defers_site (may : Bool) (x : Hoop) : (Hoop.defers may x).2.site = x.site := by
  unfold Hoop.defers
  simp only [ite_self, ↓Hoop.site_snd, ↓Hoop.site_snd_ite, ↓Hoop.fresh_site]

theorem calBegin_site (k : Option Nat) (retry : Bool) (x : Hoop) : (calBegin k retry x).site = x.site := by
  unfold calBegin
  split <;> simp only [↓Hoop.site_mk, ↓Hoop.site_ite, ite_self, ↓spareOn_site]

theorem calReturn_site (c : Nat) (x : Hoop) : (calReturn c x).site = x.site := by
  unfold calReturn
  simp only [↓Hoop.site_ite, ite_self, ↓spareFreed_site, ↓Hoop.updChan_site, ↓giveBack_site]

theorem calAbandon_site (q : Cal) (x : Hoop) : (calAbandon q x).site = x.site := by
  unfold calAbandon
  simp only [↓Hoop.site_ite, ite_self, ↓calReturn_site, ↓Hoop.updChan_site]

theorem calWindow_site (x : Hoop) : (calWindow x).site = x.site := by
  unfold calWindow
  split <;> simp only [↓Hoop.site_mk, ↓Hoop.site_ite, ite_self, ↓raiseEv_site, ↓calAbandon_site, ↓calBegin_site]

theorem calRoundEnd_site (x : Hoop) : (calRoundEnd x).site = x.site := by
  unfold calRoundEnd
  simp only [↓Hoop.site_mk, ↓mramWrite_site, ↓raiseEv_site, ↓jnlPut_site]

theorem calAdvance_site (c : Nat) (x : Hoop) : (calAdvance c x).site = x.site := by
  unfold calAdvance
  split <;> simp only [↓calBegin_site, ↓calRoundEnd_site]

theorem adcTurn_site (k : Nat) (x : Hoop) : (adcTurn k x).site = x.site := by
  unfold adcTurn
  repeat' split
  all_goals simp only [↓Hoop.site_mk, ↓Hoop.site_ite, ite_self, ↓setSpare_site, ↓Hoop.updGroup_site]

theorem adcFirst_site (k : Nat) (x : Hoop) : (adcFirst k x).site = x.site := by
  unfold adcFirst
  simp only [↓Hoop.site_ite, ite_self, ↓adcTurn_site]

theorem markBlocked_site (noSpare : Bool) (x : Hoop) : (markBlocked noSpare x).site = x.site := by
  unfold markBlocked
  simp only [↓Hoop.site_ite, ite_self, ↓Hoop.site_foldl, implies_true, ↓raiseEv_site, ↓Hoop.updGroup_site]

theorem calRoundStart_site (x : Hoop) : (calRoundStart x).site = x.site := by
  unfold calRoundStart
  simp only [↓Hoop.site_mk, ↓Hoop.site_ite, ite_self, ↓Hoop.defers_site, ↓markBlocked_site, ↓faultOff_site, ↓fault_site, ↓adcFirst_site,
    ↓calBegin_site, ↓raiseEv_site]

theorem calFailCh_site (q : Cal) (rg resid : Nat) (trims : Bool) (x : Hoop) : (calFailCh q rg resid trims x).site = x.site := by
  unfold calFailCh
  simp only [↓Hoop.site_mk, ↓Hoop.site_ite, ite_self, ↓calBegin_site, ↓raiseEv_site, ↓Hoop.updChan_site, ↓startTest_site, ↓calAdvance_site]

theorem calStep_site (avg : Nat) (x : Hoop) : (calStep avg x).site = x.site := by
  unfold calStep
  repeat' split
  all_goals simp only [↓Hoop.site_mk, ↓Hoop.site_ite, ite_self, ↓calAdvance_site, ↓calReturn_site, ↓calBegin_site, ↓calFailCh_site,
    ↓Hoop.updChan_site, ↓fault_site, ↓raiseEv_site, ↓calRoundEnd_site, ↓calAbandon_site]

theorem trimCompare_frame (h : HoopId) (c : Nat) (s : State) : (trimCompare h c s).frame = s.frame := by
  unfold trimCompare
  simp only [↓State.frame_ite, ite_self, implies_true, ↓Hoop.site_ite, ↓State.upd_frame, ↓fault_site, ↓Hoop.updChan_site]

theorem adcCalEnd_site (g mid : Nat) (x : Hoop) : (adcCalEnd g mid x).site = x.site := by
  unfold adcCalEnd
  dsimp only
  split <;> simp only [↓Hoop.site_ite, ite_self, ↓Hoop.updGroup_site, ↓adcFail_site, ↓setSpare_site, ↓adcTurn_site]

theorem calCfgVerb_stays : calCfgVerb.Stays := fun k x => by
  simp only [calCfgVerb, ↓Hoop.site_mk, ↓adminOk_site, ↓storeSetting_site]

/-! ## Epochs -/

theorem loadChange_site (c : Commit) (x : Hoop) (g : Change) : (loadChange c x g).site = x.site := by
  unfold loadChange
  split <;> simp only [↓Hoop.site_mk, ↓Hoop.site_ite, ite_self, ↓ledEnd_site, ↓Hoop.updThread_site, ↓darkThread_site, ↓Hoop.setThread_site,
    ↓pmcRaw_site, ↓raiseEv_site, ↓setSt_site]

theorem confirmAt_site (c : Commit) (i : Nat) (x : Hoop) : (confirmAt c i x).site = x.site := Prod.ext rfl rfl

theorem applyCommit_site (c : Commit) (strobed : Bool) (x : Hoop) : (applyCommit c strobed x).site = x.site := by
  unfold applyCommit
  extract_lets live es cm0 x1 before x2 x3 x4 x5 x6 cm1 x7
  have h : x7.site = x.site := by
    simp only [x7, x6, x5, x4, x3, x2, x1, ↓Hoop.site_mk, ↓Hoop.site_ite, ↓Hoop.site_foldl, ↓reqDark_site, ↓confirmAt_site, ↓remix_site,
      ↓refreshElems_site, ↓oweSettle_site, ↓loadChange_site, ↓supersede_site, ite_self, implies_true]
  split
  · exact (fabEnd_site ..).trans h
  · exact h

theorem dropDeps_site (c : Commit) (x : Hoop) : (dropDeps c x).site = x.site := by
  unfold dropDeps
  simp only [↓Hoop.site_ite, ite_self, ↓Hoop.site_foldl, implies_true, ↓abortCommit_site]

theorem loadAll_site (x : Hoop) : (loadAll x).site = x.site := by
  unfold loadAll
  simp only [↓Hoop.site_mk, ↓Hoop.site_foldl, implies_true, ↓loadReg_site, ↓Hoop.updNeedle_site]

theorem afterLoad_site (cs : List Commit) (ds : List DeltaEntry) (was : List (Nat × Bool)) (x : Hoop) : (afterLoad cs ds was x).site = x.site := by
  unfold afterLoad
  simp only [↓Hoop.site_foldl, implies_true, ↓strobeLoop_site, ↓preselect_site, ↓chooseTone_site]

theorem applyStage_site (cs : List Commit) (ds : List DeltaEntry) (x : Hoop) : (applyStage cs ds x).site = x.site := by
  unfold applyStage
  simp only [↓Hoop.site_foldl, implies_true, ↓raiseEv_site, ↓applyCommit_site, ↓keeperRefresh_site, ↓afterLoad_site, ↓postStage_site, ↓outcomes_site,
    ↓dropDeps_site]

theorem strobeLoad_site (cs : List Commit) (x : Hoop) : (strobeLoad cs x).site = x.site := by
  unfold strobeLoad
  simp only [↓Hoop.site_mk, ↓Hoop.site_foldl, implies_true, ↓pmcRaw_site, ↓loadAll_site, ↓openWindow_site, ↓applyStage_site]

theorem endDropped_site (cs : List Commit) (x : Hoop) : (endDropped cs x).site = x.site := by
  unfold endDropped
  simp only [↓Hoop.site_foldl, implies_true, ↓abortCommit_site]

theorem strobe_site (k : Nat) (handing : Bool) (x : Hoop) : (strobe k handing x).site = x.site := by
  unfold strobe
  simp only [↓Hoop.site_mk, ↓Hoop.site_ite, ite_self, ↓Hoop.site_foldl, implies_true, ↓cmpFire_site, ↓abortCommit_site, ↓endDropped_site,
    ↓strobeLoad_site]

theorem lateStandby_site (x : Hoop) : (lateStandby x).site = x.site := by
  unfold lateStandby
  split <;> simp only [↓Hoop.site_mk, ↓Hoop.site_ite, ite_self, ↓raiseEv_site, ↓stageInject_site, ↓applyStage_site, ↓endDropped_site]

theorem zeroCode_site (seq ring : Nat) (x : Hoop) : (zeroCode seq ring x).site = x.site := by
  unfold zeroCode
  split <;> simp only [↓Hoop.site_mk, ↓Hoop.site_ite, ite_self, ↓abortCommit_site, ↓applyCommit_site, ↓afterLoad_site, ↓outcomes_site,
    ↓putOutcome_site, ↓dropDeps_site]

theorem settlingEnd_site (seq ring : Nat) (x : Hoop) : (settlingEnd seq ring x).site = x.site := by
  unfold settlingEnd
  simp only [↓Hoop.site_ite, ite_self, ↓Hoop.site_foldl, implies_true, ↓setSt_site, ↓ledStart_site]

/-! ## Pricking -/

theorem Hoop.updPrk_site (x : Hoop) (f : Prk → Prk) : (Hoop.updPrk x f).site = x.site := Prod.ext rfl rfl

theorem slotLast_site (slot : Nat) (ds : List Desc) (x : Hoop) : (slotLast slot ds x).2.site = x.site := by
  unfold slotLast
  simp only [↓Hoop.site_snd, ↓Hoop.site_snd_ite, ↓Hoop.updPrk_site]
  repeat' split
  all_goals simp only [↓Hoop.site_snd, ↓Hoop.updPrk_site, ↓raiseEv_site]

theorem slotLoadVerb_stays : slotLoadVerb.Stays := fun k x => by
  simp only [slotLoadVerb, ite_self, ↓Hoop.site_snd, ↓Hoop.site_snd_ite, ↓slotLast_site, ↓Hoop.updPrk_site]

theorem slotMaskVerb_stays : slotMaskVerb.Stays := fun k x => by
  simp only [slotMaskVerb, ite_self, ↓Hoop.site_snd, ↓Hoop.site_snd_ite, ↓Hoop.updPrk_site]

theorem slotClearVerb_stays : slotClearVerb.Stays := fun k x => by
  simp only [slotClearVerb, ite_self, ↓Hoop.site_snd, ↓Hoop.site_snd_ite, ↓Hoop.updPrk_site]

theorem listWriteVerb_stays : listWriteVerb.Stays := fun k x => by
  simp only [listWriteVerb, ite_self, ↓Hoop.site_snd, ↓Hoop.site_snd_ite, ↓Hoop.updPrk_site]

theorem postPrk_site (x : Hoop) : (postPrk x).site = x.site := by
  unfold postPrk
  simp only [↓Hoop.site_mk, ↓Hoop.site_ite, ite_self, ↓Hoop.updPrk_site, ↓postNormal_site]

theorem armCount_site (k c : Nat) (x : Hoop) : (armCount k c x).site = x.site := by
  unfold armCount
  simp only [↓armAt_site]

theorem restagePrk_site (was : PNext) (x : Hoop) : (restagePrk was x).site = x.site := by
  unfold restagePrk
  simp only [↓Hoop.site_ite, ite_self, ↓postNormal_site, ↓armCount_site, ↓postPrk_site]

theorem startVerb_stays : startVerb.Stays := fun k x => by
  simp only [startVerb]
  repeat' split
  all_goals simp only [↓Hoop.site_mk, ↓Hoop.site_snd, ↓Hoop.updPrk_site, ↓postPrk_site, ↓armCount_site]

theorem swapVerb_stays : swapVerb.Stays := fun k x => by
  simp only [swapVerb]
  repeat' split
  all_goals simp only [↓Hoop.site_snd, ↓restagePrk_site, ↓Hoop.updPrk_site]

theorem swapDisarmVerb_stays : swapDisarmVerb.Stays := fun k x => by
  simp only [swapDisarmVerb]
  split <;> simp only [ite_self, ↓Hoop.site_snd, ↓Hoop.site_snd_ite, ↓restagePrk_site, ↓Hoop.updPrk_site]

theorem reqDarkOnly_site (i : Nat) (x : Hoop) : (reqDarkOnly i x).site = x.site := Prod.ext rfl rfl

theorem updSlots_site (ks : List Nat) (f : Slot → Slot) (x : Hoop) : (updSlots ks f x).site = x.site := by
  unfold updSlots
  simp only [↓Hoop.updPrk_site]

theorem freshSlots_site (ks : List Nat) (x : Hoop) : (freshSlots ks x).site = x.site := by
  unfold freshSlots
  simp only [↓updSlots_site, ↓renew_site]

theorem holdLoops_site (ks : List Nat) (x : Hoop) : (holdLoops ks x).site = x.site := by
  unfold holdLoops
  simp only [↓Hoop.site_foldl, implies_true, ↓fold_site]

theorem payAll_site (at_ : Nat) (x : Hoop) : (payAll at_ x).site = x.site := by
  unfold payAll
  simp only [↓Hoop.site_foldl, implies_true, ↓prkPay_site, ↓Hoop.updPrk_site]

theorem clearPrk_site (cause : Nat) (x : Hoop) : (clearPrk cause x).site = x.site := by
  unfold clearPrk
  split
  · rfl
  · simp only [↓Hoop.site_mk, ↓Hoop.site_ite, ↓Hoop.site_foldl, ↓postNormal_site, ↓cmpDisarm_site, ↓Hoop.updPrk_site, ↓unoverride_site,
    ↓updSlots_site,
      ↓clearInj_site, ↓payAll_site, ite_self, implies_true]

theorem endPrk_site (cause : Nat) (x : Hoop) : (endPrk cause x).site = x.site := by
  unfold endPrk
  simp only [↓Hoop.site_ite, ite_self, ↓postStage_site, ↓raiseEv_site, ↓clearPrk_site]

theorem armStop_site (temp : Bool) (x : Hoop) : (armStop temp x).site = x.site := by
  unfold armStop
  split <;> simp only [↓restagePrk_site, ↓Hoop.updPrk_site]

theorem stopVerb_stays : stopVerb.Stays := fun k x => by
  simp only [stopVerb, ite_self, ↓Hoop.site_foldl, implies_true, ↓Hoop.site_snd, ↓Hoop.site_snd_ite, ↓reqDarkOnly_site, ↓endPrk_site, ↓armStop_site]

theorem prkTempStop_site (x : Hoop) : (prkTempStop x).site = x.site := by
  unfold prkTempStop
  simp only [↓Hoop.site_ite, ite_self, ↓fault_site, ↓armStop_site]

theorem prkRecompile_site (old : Slice) (x : Hoop) : (prkRecompile old x).site = x.site := by
  unfold prkRecompile
  simp only [↓Hoop.site_mk, ↓Hoop.site_ite, ite_self]

theorem stagePrk_site (bad1 bad2 : List Nat) (why : StageEvent) (x : Hoop) : (stagePrk bad1 bad2 why x).site = x.site := by
  unfold stagePrk
  repeat' split
  all_goals simp only [↓Hoop.site_mk, ↓Hoop.site_ite, ite_self, ↓Hoop.site_foldl, implies_true, ↓eccFix_site, ↓stackStop_site, ↓opDone_site,
    ↓Hoop.updPrk_site, ↓restoreIdle_site, ↓pulse_site, ↓raiseEv_site, ↓markStaged_site, ↓writeIdle_site]

theorem loadPrk_site (x : Hoop) : (loadPrk x).site = x.site := by
  unfold loadPrk
  simp only [↓Hoop.site_mk, ↓Hoop.site_foldl, implies_true, ↓pmcRaw_site, ↓loadAll_site, ↓openWindow_site]

theorem eyesDark_site (is : List Nat) (x : Hoop) : (eyesDark is x).site = x.site := by
  unfold eyesDark
  simp only [↓Hoop.site_foldl, implies_true, ↓Hoop.updElem_site]

theorem finishPrk_site (x : Hoop) : (finishPrk x).site = x.site := by
  unfold finishPrk
  simp only [↓Hoop.site_ite, ite_self, ↓Hoop.site_foldl, implies_true, ↓payAll_site, ↓eyesDark_site, ↓loadPrk_site, ↓reqDarkOnly_site, ↓endPrk_site,
    ↓Hoop.updPrk_site, ↓raiseEv_site, ↓faultOff_site]

theorem installAt_site (x : Hoop) : (installAt x).site = x.site := by
  unfold installAt
  simp only [↓Hoop.site_mk, ↓Hoop.site_ite, ite_self, ↓Hoop.site_foldl, implies_true, ↓freshSlots_site, ↓installed_site, ↓raiseEv_site]

theorem beginList_site (l : PList) {ev : Hoop → Hoop} (h : ∀ x, (ev x).site = x.site) (x : Hoop) : (beginList l ev x).site = x.site := by
  unfold beginList
  simp only [↓h, ↓holdLoops_site, ↓freshSlots_site, ↓updSlots_site, ↓Hoop.updPrk_site]

theorem cycleBoundary_site (x : Hoop) : (cycleBoundary x).site = x.site := by
  have hbegin : ∀ l src (p : Hoop → List Nat) z, (beginList l (fun y => raiseEv src (p y) .hoop y) z).site = z.site := fun l src p z =>
    beginList_site l (fun y => raiseEv_site ..) z
  unfold cycleBoundary
  split
  · rfl
  · extract_lets x1 next
    have h1 : x1.site = x.site := cmpFire_site ..
    split
    · exact h1
    · extract_lets begun
      have hn : ∀ y, (next y).site = y.site := fun y => by
        simp only [next]
        split
        · exact (installAt_site ..).trans (armCount_site ..)
        · rfl
      have hb : ∀ y, (begun y).site = y.site := fun y => by simp only [begun, ↓Hoop.site_ite, ↓hbegin, ite_self]
      split
      · exact (hn _).trans ((hbegin ..).trans ((Hoop.updPrk_site ..).trans ((hb _).trans h1)))
      · simp only [↓Hoop.site_ite, ↓finishPrk_site, ↓hn, ↓hb, ↓Hoop.updPrk_site, h1, ite_self]

theorem occur_site (p : Nat) (x : Hoop) : (occur p x).site = x.site := by
  unfold occur
  simp only [↓Hoop.site_ite, ite_self, ↓Hoop.site_foldl, implies_true, ↓Hoop.updPrk_site, ↓setPricked_site]

theorem imageStates_site (x : Hoop) (im : List (Nat × Want)) : (imageStates x im).site = x.site := by
  unfold imageStates
  simp only [↓Hoop.site_foldl, implies_true, ↓Hoop.updElem_site]

theorem patternLoaded_site (p dwell : Nat) (im : List (Nat × Want)) (x : Hoop) : (patternLoaded p dwell im x).site = x.site := by
  unfold patternLoaded
  simp only [↓Hoop.site_mk, ↓imageStates_site, ↓occur_site, ↓Hoop.updPrk_site, ↓preselect_site, ↓injectAt_site, ↓oweSettle_site]

theorem maskThreads_site (is : List Nat) (x : Hoop) : (maskThreads is x).site = x.site := by
  unfold maskThreads
  simp only [↓Hoop.site_foldl, implies_true, ↓darkThread_site]

theorem entryLoads_site (strobe : Bool) (e : PEntry) (im : List (Nat × Want)) (x : Hoop) : (entryLoads strobe e im x).site = x.site := by
  unfold entryLoads
  simp only [↓Hoop.site_ite, ite_self, ↓loadPrk_site, ↓Hoop.updPrk_site, ↓patternLoaded_site, ↓eyesDark_site, ↓maskThreads_site]

theorem entryUnstaged_site (e : PEntry) (i : Nat) (x : Hoop) : (entryUnstaged e i x).site = x.site := by
  unfold entryUnstaged
  simp only [↓Hoop.site_mk, ↓Hoop.site_ite, ite_self, ↓Hoop.site_foldl, implies_true, ↓Hoop.updPrk_site, ↓restoreIdle_site, ↓pmcRaw_site,
    ↓raiseEv_site, ↓maskThreads_site, ↓reqDarkOnly_site]

theorem entryLate_site (l : PList) (i : Nat) (e : PEntry) (im : List (Nat × Want)) (x : Hoop) : (entryLate l i e im x).site = x.site := by
  unfold entryLate
  simp only [↓Hoop.site_mk, ↓Hoop.site_ite, ite_self, ↓Hoop.updPrk_site, ↓raiseEv_site, ↓patternLoaded_site, ↓eyesDark_site, ↓maskThreads_site]

theorem entryStrobe_site (x : Hoop) : (entryStrobe x).site = x.site := by
  unfold entryStrobe
  dsimp only
  repeat' split
  all_goals simp only [↓cycleBoundary_site, ↓cmpFire_site, ↓raiseEv_site, ↓endPrk_site, ↓clearInj_site, ↓payAll_site, ↓entryLoads_site,
    ↓entryLate_site, ↓entryUnstaged_site, ↓Hoop.updPrk_site, ↓armCount_site, ↓postStage_site, ↓postPrk_site, ↓keeperRefresh_site]

/-! ## Standing -/

theorem nopVerb_stays : nopVerb.Stays := fun k x => by
  simp only [nopVerb]

theorem commitVerb_stays : commitVerb.Stays := fun k x => by
  simp only [commitVerb, ↓acceptCommit_site]

theorem darkNowVerb_stays : darkNowVerb.Stays := fun k x => by
  simp only [darkNowVerb, ite_self, ↓Hoop.site_snd, ↓Hoop.site_snd_ite, ↓reqDark_site, ↓darkThread_site]

theorem cancelBare_site (k : Ctx) (q : Nat) (x : Hoop) : (cancelBare k q x).2.site = x.site := by
  unfold cancelBare
  repeat' split
  all_goals simp only [↓Hoop.site_foldl, implies_true, ↓Hoop.site_snd, ↓originate_site, ↓setFab_site, ↓dropArm_site]

theorem cancelVerb_stays : cancelVerb.Stays := fun k x => by
  simp only [cancelVerb]
  repeat' split
  all_goals simp only [↓Hoop.site_foldl, implies_true, ↓Hoop.site_snd, ↓cancelBare_site, ↓originate_site, ↓setFab_site, ↓dropArm_site, ↓withdraw_site]

theorem threadReadVerb_stays : threadReadVerb.Stays := fun k x => by
  simp only [threadReadVerb]
  split <;> simp only [ite_self, ↓Hoop.site_snd, ↓Hoop.site_snd_ite, ↓respond_site]

theorem ledgerReadVerb_stays : ledgerReadVerb.Stays := fun k x => by
  simp only [ledgerReadVerb, ite_self, ↓Hoop.site_snd, ↓Hoop.site_snd_ite, ↓respond_site]

theorem outcomeReadVerb_stays : outcomeReadVerb.Stays := fun k x => by
  simp only [outcomeReadVerb]
  repeat' split
  all_goals simp only [↓Hoop.site_snd, ↓respond_site]

theorem batchVerb_stays : batchVerb.Stays := fun k x => by
  simp only [batchVerb, ite_self, ↓Hoop.site_snd, ↓Hoop.site_snd_ite, ↓Hoop.updRing_site, ↓acceptCommit_site]

/-! ## Minutes -/

theorem closeMinute_site (x : Hoop) : (closeMinute x).site = x.site := by
  unfold closeMinute
  split <;> simp only [↓Hoop.site_mk, ↓Hoop.site_ite, ite_self, ↓Hoop.site_foldl, implies_true, ↓raiseEv_site]

theorem startMinutes_site (x : Hoop) : (startMinutes x).site = x.site := by
  unfold startMinutes
  simp only [↓Hoop.site_mk, ↓armAt_site]

theorem minuteBoundary_site (x : Hoop) : (minuteBoundary x).site = x.site := by
  unfold minuteBoundary
  simp only [↓Hoop.site_mk, ↓Hoop.site_ite, ite_self, ↓payAll_site, ↓closeMinute_site, ↓cmpFire_site, ↓startMinutes_site]

/-! ## Thermal -/

theorem Hoop.updDiode_site (x : Hoop) (j : Nat) (f : Diode → Diode) : (Hoop.updDiode x j f).site = x.site := Prod.ext rfl rfl

theorem Hoop.updZone_site (x : Hoop) (z : Bool) (f : Zone → Zone) : (Hoop.updZone x z f).site = x.site := by
  unfold Hoop.updZone
  simp only [↓Hoop.site_mk, ↓Hoop.site_ite, ite_self]

theorem writeDuty_site (z : Bool) (d : BitVec 13) (x : Hoop) : (writeDuty z d x).site = x.site := by
  unfold writeDuty
  simp only [↓Hoop.updZone_site]

theorem tecUpdate_site (z : Bool) (x : Hoop) : (tecUpdate z x).site = x.site := by
  unfold tecUpdate
  simp only [↓Hoop.site_ite, ite_self, ↓Hoop.updZone_site, ↓writeDuty_site]

theorem holdLow_site (x : Hoop) : (holdLow x).site = x.site := Prod.ext rfl rfl

theorem restartZones_site (x : Hoop) : (restartZones x).site = x.site := by
  unfold restartZones
  simp only [↓Hoop.site_ite, ite_self, ↓Hoop.site_foldl, implies_true, ↓writeDuty_site, ↓Hoop.updZone_site]

theorem beginRebuild_site (x : Hoop) : (beginRebuild x).site = x.site := by
  unfold beginRebuild
  simp only [↓Hoop.site_mk, ↓Hoop.site_ite, ite_self]

theorem elemFlags_site (src : List Host.Cell) (temp e : Nat) (x : Hoop) : (elemFlags src temp e x).site = x.site := by
  unfold elemFlags
  simp only [↓Hoop.site_ite, ite_self, ↓Hoop.updElem_site, ↓fault_site]

theorem darkBarred_site (x : Hoop) : (darkBarred x).site = x.site := by
  unfold darkBarred
  simp only [↓Hoop.site_foldl, implies_true, ↓reqDark_site, ↓darkThread_site]

theorem slewTiles_site (es : List Nat) (x : Hoop) : (slewTiles es x).site = x.site := by
  unfold slewTiles
  simp only [↓Hoop.site_foldl, implies_true, ↓Hoop.updTile_site]

theorem sliceBuild_site (x : Hoop) : (sliceBuild x).site = x.site := by
  unfold sliceBuild
  simp only [↓Hoop.site_mk, ↓Hoop.site_ite, ite_self, ↓Hoop.site_foldl, implies_true, ↓faultOff_site, ↓fault_site, ↓prkRecompile_site,
    ↓elemFlags_site, ↓keeperRefresh_site, ↓darkBarred_site, ↓postPark_site, ↓slewTiles_site]

theorem updGate_site (x : Hoop) : (updGate x).site = x.site := by
  unfold updGate
  simp only [↓Hoop.site_mk, ↓Hoop.site_ite, ite_self, ↓raiseEv_site, ↓prkTempStop_site]

theorem updSettled_site (x : Hoop) : (updSettled x).site = x.site := by
  unfold updSettled
  simp only [↓Hoop.site_mk, ↓Hoop.site_ite, ite_self, ↓raiseEv_site]

theorem setEff_site (v : Nat) (x : Hoop) : (setEff v x).site = x.site := by
  unfold setEff
  simp only [↓Hoop.site_mk, ↓Hoop.site_ite, ite_self, ↓Hoop.updZone_site, ↓updGate_site, ↓updSettled_site, ↓raiseEv_site, ↓beginRebuild_site]

theorem spValid_site (x : Hoop) : (spValid x).site = x.site := by
  unfold spValid
  simp only [↓Hoop.site_mk, ↓Hoop.site_ite, ite_self, ↓raiseEv_site, ↓faultOff_site]

theorem setpointVerb_stays : setpointVerb.Stays := fun k x => by
  simp only [setpointVerb, ↓Hoop.site_mk, ↓Hoop.site_ite, ite_self, ↓setEff_site, ↓spValid_site, ↓adminOk_site, ↓storeSetting_site]

theorem spLost_site (x : Hoop) : (spLost x).site = x.site := by
  unfold spLost
  simp only [↓Hoop.site_mk, ↓Hoop.site_ite, ite_self, ↓raiseEv_site, ↓fault_site]

theorem spAverage_site (held : Option Nat) (avg : Int) (x : Hoop) : (spAverage held avg x).site = x.site := by
  unfold spAverage
  repeat' split
  all_goals simp only [↓Hoop.site_mk, ↓Hoop.site_ite, ite_self, ↓spLost_site, ↓spValid_site, ↓setEff_site]

theorem tellWarn_site (grp : Nat) (old new : Bool) (reading : Int) (any : Bool) (x : Hoop) : (tellWarn grp old new reading any x).site = x.site := by
  unfold tellWarn
  simp only [↓Hoop.site_ite, ite_self, ↓raiseEv_site, ↓fault_site, ↓faultOff_site]

theorem writeCeil_site (x : Hoop) : (writeCeil x).site = x.site := by
  unfold writeCeil
  simp only [↓Hoop.site_mk]

theorem setLvl_site (g v : Nat) (x : Hoop) : (setLvl g v x).site = x.site := by
  unfold setLvl
  split <;> simp only [↓Hoop.site_mk, ↓Hoop.site_ite, ite_self, ↓Hoop.updZone_site, ↓fault_site, ↓faultOff_site, ↓raiseEv_site, ↓writeCeil_site]

theorem holdLvl_site (g : Nat) (x : Hoop) : (holdLvl g x).site = x.site := by
  unfold holdLvl
  split <;> simp only [↓Hoop.site_mk, ↓Hoop.updZone_site]

theorem readLvl_site (g : Nat) (was : Int) (x : Hoop) : (readLvl g was x).site = x.site := by
  unfold readLvl
  simp only [↓Hoop.site_ite, ite_self, ↓setLvl_site, ↓holdLvl_site]

theorem throttleStep_site (g : Nat) (x : Hoop) : (throttleStep g x).site = x.site := by
  unfold throttleStep
  simp only [↓Hoop.site_ite, ite_self, ↓setLvl_site]

theorem diodePass_site (own used : List Int) (x : Hoop) : (diodePass own used x).site = x.site := by
  unfold diodePass
  simp only [↓Hoop.site_foldl, implies_true, ↓Hoop.updDiode_site, ↓Hoop.updZone_site, ↓tecUpdate_site]

theorem sensorCompare_site (x : Hoop) : (sensorCompare x).site = x.site := by
  unfold sensorCompare
  simp only [↓Hoop.site_mk, ite_self, ↓Hoop.site_cond, ite_self, ↓Hoop.site_foldl, implies_true, ↓Hoop.updDiode_site, ↓fault_site, ↓faultOff_site]

theorem latThresholds_site (was : Int) (x : Hoop) : (latThresholds was x).site = x.site := by
  unfold latThresholds
  simp only [↓Hoop.site_mk, ↓Hoop.site_ite, ite_self, ↓readLvl_site, ↓tellWarn_site, ↓writeCeil_site, ↓raiseEv_site, ↓fault_site, ↓faultOff_site]

theorem zoneMean_site (compare : Bool) (x : Hoop) : (zoneMean compare x).site = x.site := by
  unfold zoneMean
  extract_lets x1 was x2 z x3 good pk ths x4
  have h3 : x3.site = x.site := by
    simp only [x3, x2, x1, ↓Hoop.updZone_site, ↓Hoop.site_foldl, ↓Hoop.updDiode_site, ↓Hoop.site_ite, ↓sensorCompare_site, ite_self, implies_true]
  have h4 : x4.site = x.site := by
    simp only [x4]
    clear_value pk x3
    split
    · exact (Hoop.site_mk ..).trans h3
    · exact h3
  simp only [↓calWindow_site, ↓latThresholds_site, ↓updGate_site, ↓updSettled_site, h4]

theorem crossCheck_site (fresh : Bool) (x : Hoop) : (crossCheck fresh x).site = x.site := by
  unfold crossCheck
  extract_lets devs x1 n f old ths x2
  have h1 : x1.site = x.site := by
    refine Hoop.site_foldl _ (fun y q => ?_) _ _
    dsimp only
    split
    · rfl
    · simp only [↓Hoop.site_ite, ↓raiseEv_site, ↓Hoop.updDiode_site, ite_self]
  have h2 : x2.site = x.site := (Hoop.site_mk ..).trans h1
  simp only [↓Hoop.site_ite, ↓raiseEv_site, ↓fault_site, h2, ite_self]

theorem mramGate_site (x : Hoop) : (mramGate x).site = x.site := by
  unfold mramGate
  simp only [↓Hoop.site_mk, ↓Hoop.site_ite, ite_self, ↓raiseEv_site]

theorem dieRead_site (temps : List Int) (x : Hoop) : (dieRead temps x).site = x.site := by
  unfold dieRead
  simp only [↓Hoop.site_mk, ↓Hoop.site_ite, ite_self, ↓readLvl_site, ↓tellWarn_site, ↓raiseEv_site, ↓fault_site, ↓faultOff_site, ↓mramGate_site]

theorem thmFault_site (m : Nat) (x : Hoop) : (thmFault m x).site = x.site := by
  unfold thmFault
  simp only [↓Hoop.site_mk, ↓Hoop.site_ite, ite_self, ↓raiseEv_site, ↓fault_site, ↓setLvl_site, ↓Hoop.updZone_site]

theorem bridge_site (z : Bool) (was : List Int) (x : Hoop) : (bridge z was x).site = x.site := by
  unfold bridge
  simp only [↓Hoop.site_ite, ite_self, ↓Hoop.updZone_site, ↓readLvl_site, ↓tellWarn_site, ↓raiseEv_site, ↓fault_site, ↓faultOff_site, ↓holdLow_site,
    ↓restartZones_site]

theorem auxWarn_site (x : Hoop) : (auxWarn x).site = x.site := by
  unfold auxWarn
  simp only [↓Hoop.site_mk, ↓tellWarn_site]

theorem thmRead_site (ohms : List Nat) (held : Option (List Int)) (x : Hoop) : (thmRead ohms held x).site = x.site := by
  unfold thmRead
  simp only [↓Hoop.site_mk, ↓Hoop.site_ite, ite_self, ↓Hoop.site_foldl, implies_true, ↓thmFault_site, ↓faultOff_site, ↓auxWarn_site, ↓bridge_site]

theorem pwmReload_site (z : Bool) (x : Hoop) : (pwmReload z x).site = x.site := by
  unfold pwmReload
  simp only [↓Hoop.updZone_site, ↓Hoop.pwmPins_site]

theorem trip_site (z : Bool) (x : Hoop) : (trip z x).site = x.site := by
  unfold trip
  simp only [↓Hoop.updZone_site, ↓raiseEv_site, ↓fault_site, ↓holdLow_site]

theorem tripClearVerb_stays : tripClearVerb.Stays := fun k x => by
  simp only [tripClearVerb, ↓Hoop.site_ite, ite_self, ↓Hoop.site_snd, ↓Hoop.site_snd_ite, ↓raiseEv_site, ↓Hoop.updZone_site, ↓restartZones_site,
    ↓adminOk_site, ↓faultOff_site]

theorem tecEnableVerb_stays : tecEnableVerb.Stays := fun k x => by
  simp only [tecEnableVerb, ↓Hoop.site_mk, ↓Hoop.site_ite, ite_self, ↓faultOff_site, ↓restartZones_site, ↓fault_site, ↓holdLow_site, ↓adminOk_site,
    ↓raiseEv_site]

theorem tecDriveVerb_stays : tecDriveVerb.Stays := fun k x => by
  simp only [tecDriveVerb, ↓Hoop.site_mk, ↓adminOk_site, ↓storeSetting_site]

theorem tecCoefVerb_stays : tecCoefVerb.Stays := fun k x => by
  simp only [tecCoefVerb, ↓Hoop.updZone_site, ↓adminOk_site, ↓storeSetting_site]

theorem thresholdsVerb_stays : thresholdsVerb.Stays := fun k x => by
  simp only [thresholdsVerb, ↓Hoop.site_mk, ↓adminOk_site, ↓storeSetting_site]

theorem thmModelVerb_stays : thmModelVerb.Stays := fun k x => by
  simp only [thmModelVerb, ↓Hoop.site_mk, ↓adminOk_site, ↓storeSetting_site]

/-! ## Collector -/

theorem planeFault_site (s det : Nat) (x : Hoop) : (planeFault s det x).site = x.site := by
  unfold planeFault
  simp only [↓Hoop.site_ite, ite_self, ↓loseGroup_site, ↓startTest_site, ↓Hoop.updChan_site]

theorem railsOn_site (s det : Nat) (x : Hoop) : (railsOn s det x).site = x.site := by
  unfold railsOn
  simp only [↓Hoop.site_ite, ite_self, ↓faultOn_site, ↓planeFault_site, ↓Hoop.setSrc_site]

theorem railsRow_frame (h : HoopId) (src : Nat) {f : Hoop → Hoop} (e : ∀ x, (f x).site = x.site) (s : State) :
    (railsRow h src f s).frame = s.frame := by
  have hl : ∀ x : Hoop, (if 64 ≤ src ∧ src ≤ 105 then loseGroup (src - 64) x else x).site = x.site := fun x => by
    simp only [↓Hoop.site_ite, ↓loseGroup_site, ite_self]
  exact (settle_frame ..).trans ((lostToBoth_frame h hl ..).trans (State.upd_frame s h f e))

theorem railsOff_site (s : Nat) (x : Hoop) : (railsOff s x).site = x.site := by
  unfold railsOff
  simp only [↓faultOff_site, ↓Hoop.setSrc_site]

theorem wireFault_site (s : Nat) (x : Hoop) : (wireFault s x).site = x.site := by
  unfold wireFault
  simp only [↓Hoop.site_ite, ite_self, ↓raiseEv_site, ↓Hoop.setSrc_site, ↓faultOn_site, ↓planeFault_site]

theorem stickyClear_site (w : Nat) (v : BitVec 32) (x : Hoop) : (stickyClear w v x).site = x.site := by
  unfold stickyClear
  simp only [↓Hoop.site_mk, ↓Hoop.site_ite, ite_self, ↓Hoop.site_foldl, implies_true, ↓Hoop.setSrc_site]

theorem wireClear_site (w : Nat) (v : BitVec 32) (x : Hoop) : (wireClear w v x).site = x.site := by
  unfold wireClear
  simp only [↓Hoop.site_ite, ite_self, ↓Hoop.site_foldl, implies_true, ↓Hoop.setSrc_site]

theorem rearm_site (v : BitVec 32) (x : Hoop) : (rearm v x).site = x.site := by
  unfold rearm
  simp only [↓Hoop.site_mk, ↓Hoop.site_ite, ite_self]

theorem faultNEnd_site (x : Hoop) : (faultNEnd x).site = x.site := by
  unfold faultNEnd
  simp only [↓Hoop.site_mk, ↓Hoop.site_ite, ite_self]

theorem parityError_site (x : Hoop) : (parityError x).site = x.site := by
  unfold parityError
  simp only [↓Hoop.site_mk, ↓engage_site]

theorem keeperCheck_site (flipped : Bool) (x : Hoop) : (keeperCheck flipped x).site = x.site := by
  unfold keeperCheck
  simp only [↓Hoop.site_mk, ↓Hoop.site_ite, ite_self, ↓fault_site, ↓faultOff_site]

theorem darkAll_site (x : Hoop) : (darkAll x).site = x.site := by
  unfold darkAll
  simp only [↓Hoop.site_mk, ↓eyeletDark_site]

theorem darkReleaseVerb_stays : darkReleaseVerb.Stays := fun k x => by
  simp only [darkReleaseVerb, ↓Hoop.site_mk, ite_self, ↓Hoop.site_snd, ↓Hoop.site_snd_ite, ↓adminOk_site]

theorem darkReleaseRun_frame (h : HoopId) (s : State) : (darkReleaseRun h s).frame = s.frame := by
  unfold darkReleaseRun
  simp only [↓State.frame_ite, ite_self, ↓State.frame_foldl, implies_true, ↓State.upd_frame, ↓darkAll_site]

theorem unforce_site (x : Hoop) : (unforce x).site = x.site := by
  unfold unforce
  simp only [↓Hoop.site_mk, ↓Hoop.site_ite, ite_self, ↓raiseEv_site, ↓msixSend_site, ↓jnlPut_site]

/-! ## Journal -/

theorem writeBurst_site (x : Hoop) : (writeBurst x).site = x.site := by
  unfold writeBurst
  simp only [↓Hoop.site_mk, ↓Hoop.site_foldl, implies_true, ↓jnlWrite1_site, ↓pmcRaw_site]

theorem holdupCheck_site (mv : Nat) (x : Hoop) : (holdupCheck mv x).site = x.site := by
  unfold holdupCheck
  simp only [↓Hoop.site_mk, ↓Hoop.site_ite, ite_self, ↓faultOff_site, ↓fault_site]

theorem deferWrite_site (x : Hoop) : (deferWrite x).site = x.site := by
  unfold deferWrite
  simp only [↓Hoop.site_mk, ↓Hoop.site_ite, ite_self, ↓raiseEv_site]

theorem tryBurst_site (mv : Nat) (x : Hoop) : (tryBurst mv x).site = x.site := by
  unfold tryBurst
  simp only [↓Hoop.site_mk, ↓Hoop.site_ite, ite_self, ↓holdupCheck_site, ↓writeBurst_site, ↓raiseEv_site, ↓deferWrite_site]

theorem holdupMinVerb_stays : holdupMinVerb.Stays := fun k x => by
  simp only [holdupMinVerb, ↓Hoop.site_mk, ↓adminOk_site, ↓storeSetting_site]

theorem histEvent_site (x : Hoop) : (histEvent x).site = x.site := by
  unfold histEvent
  simp only [↓raiseEv_site]

theorem writeHistory_site (x : Hoop) : (writeHistory x).site = x.site := by
  unfold writeHistory
  simp only [↓Hoop.site_mk, ↓pmcRaw_site]

theorem writeLedger_site (x : Hoop) : (writeLedger x).site = x.site := by
  unfold writeLedger
  simp only [↓Hoop.site_mk, ↓pmcRaw_site]

theorem overflowHistory_site (x : Hoop) : (overflowHistory x).site = x.site := by
  unfold overflowHistory
  split <;> simp only [↓Hoop.site_mk, ↓Hoop.site_ite, ite_self, ↓fault_site, ↓jnlPut_site]

theorem histFail_site (x : Hoop) : (histFail x).site = x.site := by
  unfold histFail
  simp only [↓Hoop.site_mk, ↓fault_site, ↓histEvent_site]

theorem historySecond_site (deferred writeFail : Bool) (x : Hoop) : (historySecond deferred writeFail x).site = x.site := by
  unfold historySecond
  simp only [↓Hoop.site_mk, ↓Hoop.site_ite, ite_self, ↓histEvent_site, ↓histFail_site, ↓overflowHistory_site, ↓pmcRaw_site, ↓writeLedger_site,
    ↓faultOff_site, ↓writeHistory_site]

theorem passRates_site (x : Hoop) : (passRates x).site = x.site := by
  unfold passRates
  simp only [↓Hoop.site_foldl, implies_true, ↓Hoop.updGroup_site]

theorem storeReady_site (present hdrOk : Bool) (capacity : Nat) (x : Hoop) : (storeReady present hdrOk capacity x).site = x.site := by
  unfold storeReady
  simp only [↓Hoop.site_mk, ↓Hoop.site_ite, ite_self, ↓fault_site, ↓histEvent_site, ↓raiseEv_site]

/-! ## Mailbox -/

theorem doorbell_site (r : Nat) (tail : BitVec 12) (cmds : List Bytes) (x : Hoop) : (doorbell r tail cmds x).site = x.site := by
  unfold doorbell
  simp only [↓Hoop.site_ite, ite_self, ↓pumpRing_site, ↓Hoop.setRing_site]

theorem cplHead_site (r : Nat) (v : BitVec 12) (x : Hoop) : (cplHead r v x).site = x.site := by
  unfold cplHead
  simp only [↓Hoop.site_ite, ite_self, ↓pumpRing_site, ↓Hoop.setRing_site]

theorem evtHead_site (r : Nat) (v : BitVec 13) (x : Hoop) : (evtHead r v x).site = x.site := by
  unfold evtHead
  simp only [↓Hoop.site_ite, ite_self, ↓Hoop.setRing_site, ↓raiseEv_site]

theorem ringEvent_site (r cause tenant : Nat) (x : Hoop) : (ringEvent r cause tenant x).site = x.site := by
  unfold ringEvent
  simp only [↓raiseEv_site]

theorem reopen0_site (v : BitVec 32) (x : Hoop) : (reopen0 v x).site = x.site := by
  unfold reopen0
  simp only [↓Hoop.site_ite, ite_self, ↓pumpRing_site, ↓Hoop.updRing_site]

theorem dmaError_site (r : Nat) (x : Hoop) : (dmaError r x).site = x.site := by
  unfold dmaError
  simp only [↓Hoop.site_ite, ite_self, ↓ringEvent_site, ↓Hoop.setRing_site]

theorem moderation_site (r : Nat) (evt : Bool) (x : Hoop) : (moderation r evt x).site = x.site := by
  unfold moderation
  simp only [↓Hoop.site_ite, ite_self, ↓msixSend_site, ↓Hoop.setRing_site]

theorem ringBindVerb_stays : ringBindVerb.Stays := fun k x => by
  simp only [ringBindVerb, ite_self, ↓Hoop.site_snd, ↓Hoop.site_snd_ite, ↓adminOk_site, ↓ringEvent_site, ↓Hoop.setRing_site]

theorem ringUnbindVerb_stays : ringUnbindVerb.Stays := fun k x => by
  simp only [ringUnbindVerb, ite_self, ↓Hoop.site_snd, ↓Hoop.site_snd_ite, ↓adminOk_site, ↓ringEvent_site, ↓Hoop.setRing_site]

theorem meterSetVerb_stays : meterSetVerb.Stays := fun k x => by
  simp only [meterSetVerb, ↓adminOk_site, ↓Hoop.updRing_site]

theorem keySetVerb_stays : keySetVerb.Stays := fun k x => by
  simp only [keySetVerb, ↓adminOk_site, ↓raiseEv_site, ↓Hoop.setRing_site]

theorem eventSubVerb_stays : eventSubVerb.Stays := fun k x => by
  simp only [eventSubVerb, ↓Hoop.site_mk, ↓adminOk_site]

theorem netCfgVerb_stays : netCfgVerb.Stays := fun k x => by
  simp only [netCfgVerb, ↓Hoop.site_mk, ↓adminOk_site, ↓storeSetting_site]

theorem dropDatagram_site (why : Nat) (addr : BitVec 32) (x : Hoop) : (dropDatagram why addr x).site = x.site := by
  unfold dropDatagram
  simp only [↓Hoop.site_mk, ↓Hoop.site_ite, ite_self, ↓pmcRaw_site, ↓raiseEv_site]

theorem remote_site (port : Nat) (addr : BitVec 32) (src : BitVec 16) (p : Bytes) (x : Hoop) : (remote port addr src p x).site = x.site := by
  unfold remote
  repeat' split
  all_goals simp only [↓dropDatagram_site, ↓pumpRing_site, ↓pmcRaw_site, ↓Hoop.updRing_site]

/-! ## Counters -/

theorem parkGrant_site (t m : Nat) (x : Hoop) : (parkGrant t m x).site = x.site := by
  unfold parkGrant
  simp only [↓Hoop.site_mk]

theorem defaultHit_site (m : Nat) (write : Bool) (beats addr : Nat) (x : Hoop) : (defaultHit m write beats addr x).site = x.site := by
  unfold defaultHit
  simp only [↓Hoop.site_mk, ↓Hoop.site_ite, ite_self, ↓pmcRaw_site, ↓parkGrant_site, ↓raiseEv_site]

theorem busError_site (m : Nat) (x : Hoop) : (busError m x).site = x.site := by
  unfold busError
  simp only [↓Hoop.site_ite, ite_self, ↓jnlPut_site, ↓fault_site]

theorem defaultTarget_site (m : Nat) (write : Bool) (beats addr : Nat) (x : Hoop) : (defaultTarget m write beats addr x).site = x.site := by
  unfold defaultTarget
  simp only [↓Hoop.site_ite, ite_self, ↓busError_site, ↓defaultHit_site]

theorem cutBurst_site (b : Burst) (x : Hoop) : (cutBurst b x).site = x.site := by
  unfold cutBurst
  simp only [↓Hoop.site_mk, ↓Hoop.site_ite, ite_self, ↓parkGrant_site, ↓defaultHit_site, ↓raiseEv_site, ↓pmcRaw_site]

theorem cutOf_site (masters : List Nat) (b : Option Burst) (x : Hoop) : (cutOf masters b x).site = x.site := by
  unfold cutOf
  split <;> simp only [↓Hoop.site_ite, ite_self, ↓cutBurst_site]

theorem secondBoundaryPmc_site (sec : Nat) (vs : List (BitVec 48)) (x : Hoop) : (secondBoundaryPmc sec vs x).site = x.site := by
  unfold secondBoundaryPmc
  dsimp only
  split <;> simp only [↓Hoop.site_mk, ↓raiseEv_site]

theorem windowBoundary_site (x : Hoop) : (windowBoundary x).site = x.site := by
  unfold windowBoundary
  simp only [↓Hoop.site_mk, ↓Hoop.site_ite, ite_self, ↓secondBoundaryPmc_site]

theorem overflow_site (c inc : Nat) (x : Hoop) : (overflow c inc x).site = x.site := by
  unfold overflow
  simp only [↓Hoop.site_ite, ite_self, ↓pmcRaw_site]

theorem pmcCtrl_site (v : BitVec 32) (x : Hoop) : (pmcCtrl v x).site = x.site := by
  unfold pmcCtrl
  simp only [↓Hoop.site_mk]

theorem pmcLoad_site (v : BitVec 32) (inc : Nat) (x : Hoop) : (pmcLoad v inc x).site = x.site := by
  unfold pmcLoad
  simp only [↓Hoop.site_mk, ↓Hoop.site_ite, ite_self, ↓pmcRaw_site]

theorem ovfClear_site (w : Nat) (v : BitVec 32) (x : Hoop) : (ovfClear w v x).site = x.site := Prod.ext rfl rfl

theorem preHi_site (c : Nat) (v : BitVec 32) (x : Hoop) : (preHi c v x).site = x.site := by
  unfold preHi
  simp only [↓Hoop.site_mk, ↓Hoop.site_ite, ite_self]

theorem cntLo_site (c : Nat) (x : Hoop) : (cntLo c x).site = x.site := by
  unfold cntLo
  simp only [↓Hoop.site_mk, ↓Hoop.site_ite, ite_self]

/-! ## Duplex -/

theorem takeToken_site (x : Hoop) : (takeToken x).site = x.site := Prod.ext rfl rfl
theorem dropToken_site (x : Hoop) : (dropToken x).site = x.site := Prod.ext rfl rfl

theorem firstTiles_site (x : Hoop) : (firstTiles x).site = x.site := by
  unfold firstTiles
  simp only [↓Hoop.site_ite, ite_self, ↓postNormal_site]

theorem loadKeeper_site (x : Hoop) : (loadKeeper x).site = x.site := by
  unfold loadKeeper
  split <;> simp only [↓Hoop.site_mk, ↓fault_site]

theorem holderStart_site (x : Hoop) : (holderStart x).site = x.site := by
  unfold holderStart
  simp only [↓Hoop.site_ite, ite_self, ↓loadKeeper_site, ↓armCount_site, ↓firstTiles_site]

theorem claimToken_site (x : Hoop) : (claimToken x).site = x.site := by
  unfold claimToken
  simp only [↓Hoop.site_ite, ite_self, ↓setRole_site, ↓takeToken_site, ↓holderStart_site]

theorem handoverVerb_stays : handoverVerb.Stays := fun k x => by
  simp only [handoverVerb, ↓Hoop.site_mk, ite_self, ↓Hoop.site_snd, ↓Hoop.site_snd_ite, ↓adminOk_site, ↓postUrgent_site]

theorem offer_frame (s : State) : (offer s).frame = s.frame := by
  unfold offer
  dsimp only
  repeat' split
  all_goals simp only [↓settle_frame, ↓State.setDuo_frame]

theorem tambourHandover_frame (h : HoopId) (s : State) : (tambourHandover h s).frame = s.frame := by
  unfold tambourHandover
  dsimp only
  split <;> simp only [↓State.frame_ite, ite_self, implies_true, ↓State.upd_frame, ↓opDone_site, ↓State.setDuo_frame]

theorem noteTransfer_site (kind fromN toN : Nat) (cause : BitVec 16) (request at_ hFrom hTo cut : Nat) (element : BitVec 16) (x : Hoop) :
    (noteTransfer kind fromN toN cause request at_ hFrom hTo cut element x).site = x.site := by
  unfold noteTransfer
  simp only [↓Hoop.site_mk, ↓ledFlag_site, ↓jnlPut_site]

theorem settleFrom_site (since b : Nat) (x : Hoop) : (settleFrom since b x).site = x.site := by
  unfold settleFrom
  simp only [↓Hoop.site_mk, ↓Hoop.site_ite, ite_self, ↓Hoop.site_foldl, implies_true, ↓Hoop.updThread_site, ↓jnlPut_site]

theorem becomeHolder_site (o : HandOver) (x : Hoop) : (becomeHolder o x).site = x.site := by
  unfold becomeHolder
  simp only [↓Hoop.site_mk, ↓Hoop.site_ite, ite_self, ↓Hoop.site_foldl, implies_true, ↓setRole_site, ↓takeToken_site, ↓openWindow_site,
    ↓settleFrom_site, ↓inject_site]

theorem endHolder_site (o : HandOver) (x : Hoop) : (endHolder o x).site = x.site := by
  unfold endHolder
  simp only [↓Hoop.site_mk, ↓setRole_site, ↓dropToken_site]

theorem pumpAll_site (x : Hoop) : (pumpAll x).site = x.site := by
  unfold pumpAll
  simp only [↓Hoop.site_ite, ite_self, ↓Hoop.site_foldl, implies_true, ↓pumpRing_site]

theorem handoverBoundary_frame (s : State) : (handoverBoundary s).frame = s.frame := by
  unfold handoverBoundary
  split <;> simp only [↓State.frame_ite, ite_self, ↓State.frame_foldl, implies_true, ↓Hoop.site_foldl, ↓Hoop.site_ite, ↓State.setDuo_frame,
    ↓State.upd_frame, ↓endHolder_site, ↓becomeHolder_site, ↓raiseEv_site, ↓noteTransfer_site, ↓pumpAll_site, ↓originate_site, ↓checkFail_site]

theorem handoverAbandon_frame (cause : Nat) (s : State) : (handoverAbandon cause s).frame = s.frame := by
  unfold handoverAbandon
  repeat' split
  all_goals simp only [implies_true, ↓abandonHo_frame, ↓State.upd_frame, ↓heaterFail_site, ↓checkFail_site]

theorem provingEnd_site (x : Hoop) : (provingEnd x).site = x.site := by
  unfold provingEnd
  simp only [↓Hoop.site_mk, ↓Hoop.site_ite, ite_self, ↓raiseEv_site]

theorem interlock_frame (s : State) : (interlock s).frame = s.frame := by
  unfold interlock
  simp only [↓Hoop.site_mk, ↓State.frame_ite, ite_self, ↓State.frame_foldl, implies_true, ↓abandonHo_frame, ↓State.upd_frame, ↓holdLow_site,
    ↓dropToken_site, ↓cutWindows_site, ↓State.setDuo_frame]

theorem driveAlone_site (since : Nat) (x : Hoop) : (driveAlone since x).site = x.site := by
  unfold driveAlone
  simp only [↓Hoop.site_mk, ↓setRole_site, ↓takeToken_site]

theorem resumeDrive_site (x : Hoop) : (resumeDrive x).site = x.site := by
  unfold resumeDrive
  split <;> simp only [↓Hoop.site_mk, ↓Hoop.site_ite, ite_self, ↓Hoop.site_foldl, implies_true, ↓restartZones_site, ↓openWindow_site,
    ↓Hoop.updThread_site]

theorem graceEnd_frame (s : State) : (graceEnd s).frame = s.frame := by
  unfold graceEnd
  dsimp only
  repeat' split
  all_goals simp only [ite_self, ↓State.frame_foldl, implies_true, ↓Hoop.site_ite, ↓State.setDuo_frame, ↓State.upd_frame, ↓engage_site,
    ↓driveAlone_site, ↓fault_site, ↓setRole_site, ↓raiseEv_site, ↓noteTransfer_site]

theorem enterResync_site (x : Hoop) : (enterResync x).site = x.site := by
  unfold enterResync
  simp only [↓Hoop.site_mk, ↓raiseEv_site, ↓setRole_site]

theorem sameOrigin_site (a x : Hoop) : (sameOrigin a x).site = x.site := by
  unfold sameOrigin
  simp only [↓Hoop.site_mk, ↓Hoop.site_ite, ite_self, ↓Hoop.setCmp_site]

theorem followPeer_frame (h : HoopId) (s : State) : (followPeer h s).frame = s.frame := by
  unfold followPeer
  simp only [↓State.frame_ite, ite_self, implies_true, ↓State.upd_frame, ↓sameOrigin_site, ↓enterResync_site]

theorem tokenTimeout_frame (h : HoopId) (s : State) : (tokenTimeout h s).frame = s.frame := by
  unfold tokenTimeout
  simp only [↓State.frame_ite, ite_self, implies_true, ↓followPeer_frame, ↓State.upd_frame, ↓claimToken_site, ↓State.setDuo_frame]

theorem copyFrom_site (a x : Hoop) : (copyFrom a x).site = x.site := by
  unfold copyFrom
  simp only [↓Hoop.site_mk]

theorem resyncDone_frame (h : HoopId) (ms : Nat) (s : State) : (resyncDone h ms s).frame = s.frame := by
  unfold resyncDone
  simp only [↓State.frame_ite, ite_self, implies_true, ↓State.upd_frame, ↓raiseEv_site, ↓setRole_site, ↓copyFrom_site]

theorem rejoinVerb_stays : rejoinVerb.Stays := fun k x => by
  simp only [rejoinVerb, ite_self, ↓Hoop.site_snd, ↓Hoop.site_snd_ite, ↓adminOk_site]

theorem rejoinPeer_frame (h : HoopId) (s : State) : (rejoinPeer h s).frame = s.frame := by
  unfold rejoinPeer
  simp only [↓State.frame_ite, ite_self, implies_true, ↓State.upd_frame, ↓enterResync_site]

theorem patchCompare_frame (s : State) : (patchCompare s).frame = s.frame := by
  unfold patchCompare
  simp only [↓State.frame_ite, ite_self, ↓State.frame_foldl, implies_true, ↓State.upd_frame, ↓faultOff_site, ↓fault_site, ↓noteMismatch_site]

theorem intakeTimeout_site (x : Hoop) : (intakeTimeout x).site = x.site := by
  unfold intakeTimeout
  simp only [↓Hoop.site_mk, ↓Hoop.site_ite, ite_self, ↓fault_site, ↓noteMismatch_site]

theorem debugHalt_site (core : Nat) (x : Hoop) : (debugHalt core x).site = x.site := by
  unfold debugHalt
  simp only [↓Hoop.site_mk, ↓Hoop.site_ite, ite_self, ↓raiseEv_site, ↓holdLow_site, ↓fault_site]

theorem debugResume_site (x : Hoop) : (debugResume x).site = x.site := by
  unfold debugResume
  split <;> simp only [↓Hoop.site_mk, ↓Hoop.site_ite, ite_self, ↓raiseEv_site, ↓restartZones_site, ↓faultOff_site]

/-! ## Walimin -/

theorem tellDiscard_site (x : Hoop) : (tellDiscard x).site = x.site := by
  unfold tellDiscard
  simp only [↓Hoop.site_mk, ↓Hoop.site_ite, ite_self, ↓raiseEv_site]

theorem discardForm_site (k why : Nat) (x : Hoop) : (discardForm k why x).site = x.site := by
  unfold discardForm
  simp only [↓Hoop.site_mk, ↓tellDiscard_site, ↓pmcRaw_site, ↓Hoop.updLink_site]

theorem dupSeen_site (x : Hoop) : (dupSeen x).site = x.site := by
  unfold dupSeen
  simp only [↓Hoop.site_mk, ↓pmcRaw_site]

theorem clearWins_site (a : Nat) (x : Hoop) : (clearWins a x).site = x.site := Prod.ext rfl rfl

theorem forward_site (from_ : Option Nat) (b : Bytes) (x : Hoop) : (forward from_ b x).site = x.site := by
  unfold forward
  split <;> simp only [↓Hoop.site_mk, ↓Hoop.site_ite, ite_self, ↓Hoop.site_foldl, implies_true, ↓dupSeen_site, ↓tellDiscard_site, ↓pmcRaw_site,
    ↓sendFrame_site, ↓sendToward_site]

theorem deliver_frame (b : Bytes) {f : Hoop → Hoop} (e : ∀ x, (f x).site = x.site) (s : State) : (deliver b f s).frame = s.frame := by
  refine State.frame_foldl _ (fun s h => State.upd_frame s h _ fun x => ?_) _ s
  split
  · exact (e _).trans (Hoop.site_mk ..)
  · exact dupSeen_site ..

theorem gotFrame_site (k : Nat) (x : Hoop) : (gotFrame k x).site = x.site := by
  unfold gotFrame
  simp only [↓pmcRaw_site, ↓Hoop.updLink_site]

theorem rxLocal_frame (type : Nat) (h : HoopId) (k : Nat) (b : Bytes) {f : Hoop → Hoop} (e : ∀ x, (f x).site = x.site) (s : State) :
    (rxLocal type h k b f s).frame = s.frame := by
  unfold rxLocal
  simp only [↓State.frame_ite]
  split
  · rfl
  · split <;> simp only [↓State.frame_ite, ↓State.upd_frame, ↓Hoop.site_ite, ↓discardForm_site, ↓gotFrame_site, ↓e, ite_self, implies_true]

theorem rxFrame_frame (type : Nat) (h : HoopId) (k : Nat) (b : Bytes) {f : Hoop → Hoop} (e : ∀ x, (f x).site = x.site) (s : State) :
    (rxFrame type h k b f s).frame = s.frame := by
  unfold rxFrame
  simp only [↓State.frame_ite]
  split
  · rfl
  · split <;> simp only [↓State.frame_ite, ↓State.frame_foldl, ↓State.upd_frame, ↓deliver_frame b e, ↓forward_site, ↓discardForm_site, ↓gotFrame_site,
    ↓e, ite_self, implies_true]

theorem updLeader_site (x : Hoop) : (updLeader x).site = x.site := by
  unfold updLeader
  simp only [↓Hoop.site_mk, ↓Hoop.site_ite, ite_self, ↓raiseEv_site]

theorem linkDown_site (k : Nat) (x : Hoop) : (linkDown k x).site = x.site := by
  unfold linkDown
  simp only [↓Hoop.site_ite, ite_self, ↓raiseEv_site, ↓Hoop.updLink_site, ↓updLeader_site, ↓fault_site]

theorem linkUp_site (k : Nat) (x : Hoop) : (linkUp k x).site = x.site := by
  unfold linkUp
  simp only [↓Hoop.site_ite, ite_self, ↓raiseEv_site, ↓faultOff_site, ↓Hoop.updLink_site]

theorem helloSend_site (x : Hoop) : (helloSend x).site = x.site := by
  unfold helloSend
  simp only [↓Hoop.site_ite, ite_self, ↓Hoop.site_foldl, implies_true, ↓sendLocal_site]

theorem hello_site (k : Nat) (b : Bytes) (x : Hoop) : (hello k b x).site = x.site := by
  unfold hello
  simp only [↓Hoop.site_ite, ite_self, ↓linkDown_site, ↓Hoop.updLink_site, ↓updLeader_site, ↓linkUp_site]

theorem helloTimeout_site (k : Nat) (x : Hoop) : (helloTimeout k x).site = x.site := by
  unfold helloTimeout
  simp only [↓Hoop.site_ite, ite_self, ↓linkDown_site]

theorem laneLoss_site (k lane : Nat) (x : Hoop) : (laneLoss k lane x).site = x.site := by
  unfold laneLoss
  simp only [↓Hoop.site_ite, ite_self, ↓linkDown_site, ↓Hoop.updLink_site]

theorem tellReach_site (a : Nat) (r : Rt) (x : Hoop) : (tellReach a r x).site = x.site := by
  unfold tellReach
  simp only [↓Hoop.site_mk, ↓Hoop.site_ite, ite_self, ↓raiseEv_site]

theorem putRt_site (a : Nat) (r : Rt) (x : Hoop) : (putRt a r x).site = x.site := by
  unfold putRt
  simp only [↓Hoop.site_ite, ite_self, ↓clearWins_site, ↓Hoop.setRt_site, ↓tellReach_site]

theorem dropAddr_site (x : Hoop) : (dropAddr x).site = x.site := by
  unfold dropAddr
  simp only [↓Hoop.site_mk, ↓Hoop.site_ite, ite_self, ↓putRt_site]

theorem takeAddr_site (a : Nat) (x : Hoop) : (takeAddr a x).site = x.site := by
  unfold takeAddr
  simp only [↓Hoop.site_mk, ↓Hoop.site_ite, ite_self, ↓dropAddr_site, ↓raiseEv_site, ↓putRt_site, ↓mramWrite_site]

theorem conflict_site (id : BitVec 64) (x : Hoop) : (conflict id x).site = x.site := by
  unfold conflict
  simp only [↓Hoop.site_mk, ↓Hoop.site_ite, ite_self, ↓raiseEv_site, ↓dropAddr_site]

theorem learn_site (k a d gen : Nat) (id : BitVec 64) (x : Hoop) : (learn k a d gen id x).site = x.site := by
  unfold learn
  simp only [↓Hoop.site_ite, ite_self, ↓conflict_site, ↓putRt_site]

theorem routeIn_site (k : Nat) (b : Bytes) (x : Hoop) : (routeIn k b x).site = x.site := by
  unfold routeIn
  simp only [↓Hoop.site_ite, ite_self, ↓Hoop.site_foldl, implies_true, ↓learn_site]

theorem dropWith_frame (h : HoopId) (had : Bool) (s : State) : (dropWith h had s).frame = s.frame := by
  unfold dropWith
  simp only [↓Hoop.site_mk, ↓State.frame_ite, ite_self, implies_true, ↓State.upd_frame, ↓raiseEv_site, ↓dropAddr_site]

theorem sendRoutes_site (k : Nat) (es : List (Nat × Rt)) (x : Hoop) : (sendRoutes k es x).site = x.site := by
  unfold sendRoutes
  simp only [↓Hoop.site_foldl, implies_true, ↓sendLocal_site]

theorem told_site (k : Nat) (x : Hoop) : (told k x).site = x.site := Prod.ext rfl rfl

theorem routeAdvertise_site (x : Hoop) : (routeAdvertise x).site = x.site := by
  unfold routeAdvertise
  simp only [↓Hoop.site_ite, ite_self, ↓Hoop.site_foldl, implies_true, ↓told_site, ↓sendRoutes_site]

theorem triggered_site (k : Nat) (x : Hoop) : (triggered k x).site = x.site := by
  unfold triggered
  simp only [↓Hoop.site_ite, ite_self, ↓told_site, ↓sendRoutes_site, ↓Hoop.updLink_site]

theorem routeExpiry_site (a : Nat) (x : Hoop) : (routeExpiry a x).site = x.site := by
  unfold routeExpiry
  simp only [↓Hoop.site_ite, ite_self, ↓putRt_site]
  repeat' split
  all_goals simp only [↓Hoop.setRt_site]

theorem sendGrant_site (id : BitVec 64) (a gen : Nat) (x : Hoop) : (sendGrant id a gen x).site = x.site := by
  unfold sendGrant
  simp only [↓originate_site]

theorem selfGrant_frame (h : HoopId) (s : State) : (selfGrant h s).frame = s.frame := by
  unfold selfGrant
  simp only [↓State.frame_ite]
  repeat' split
  all_goals simp only [↓State.frame_foldl, implies_true, ↓State.upd_frame, ↓sendGrant_site, ↓takeAddr_site]

theorem sendReq_site (k : Nat) (seq ttl : Nat) (origin : BitVec 16) (p : Bytes) (x : Hoop) : (sendReq k seq ttl origin p x).site = x.site := by
  unfold sendReq
  simp only [↓sendFrame_site]

theorem reqSend_site (x : Hoop) : (reqSend x).site = x.site := by
  unfold reqSend
  split <;> simp only [↓Hoop.site_mk, ↓sendReq_site]

theorem addrReqSend_frame (h : HoopId) (s : State) : (addrReqSend h s).frame = s.frame := by
  unfold addrReqSend
  simp only [↓State.frame_ite, ite_self, implies_true, ↓selfGrant_frame, ↓State.upd_frame, ↓reqSend_site]

theorem grant_frame (h : HoopId) (b : Bytes) (s : State) : (grant h b s).frame = s.frame := by
  unfold grant
  dsimp only
  split <;> simp only [↓State.frame_foldl, implies_true, ↓selfGrant_frame, ↓State.upd_frame, ↓sendGrant_site]

theorem addrReq_frame (h : HoopId) (k : Nat) (b : Bytes) (s : State) : (addrReq h k b s).frame = s.frame := by
  unfold addrReq
  extract_lets x
  split
  · rfl
  · split
    · exact State.upd_frame _ _ _ (discardForm_site _ _)
    · split
      · rfl
      · have h1 : (s.upd h (gotFrame k)).frame = s.frame := State.upd_frame _ _ _ (gotFrame_site k)
        split
        · exact (grant_frame ..).trans h1
        · refine (State.upd_frame _ h _ fun y => ?_).trans h1
          split
          · simp only [↓tellDiscard_site, ↓pmcRaw_site, ↓Hoop.site_mk]
          · split
            · exact sendReq_site ..
            · simp only [↓tellDiscard_site, ↓pmcRaw_site, ↓Hoop.site_mk]

theorem addrGrant_site (b : Bytes) (x : Hoop) : (addrGrant b x).site = x.site := by
  unfold addrGrant
  simp only [↓Hoop.site_ite, ite_self, ↓takeAddr_site]

theorem wlmCfgVerb_stays : wlmCfgVerb.Stays := fun k x => by
  simp only [wlmCfgVerb, ↓Hoop.site_mk, ↓Hoop.site_foldl, implies_true, ↓faultOff_site, ↓linkDown_site, ↓adminOk_site, ↓storeSetting_site]

theorem noticeRepeat_site (x : Hoop) : (noticeRepeat x).site = x.site := by
  unfold noticeRepeat
  simp only [↓Hoop.site_mk, ↓Hoop.site_ite, ite_self, ↓Hoop.site_foldl, implies_true, ↓sendNotices_site]

theorem darkNotice_site (b : Bytes) (x : Hoop) : (darkNotice b x).site = x.site := by
  unfold darkNotice
  simp only [↓Hoop.site_mk, ↓Hoop.site_ite, ite_self, ↓Hoop.site_foldl, implies_true, ↓raiseEv_site, ↓pulse_site]

theorem handoverNotice_site (b : Bytes) (x : Hoop) : (handoverNotice b x).site = x.site := by
  unfold handoverNotice
  simp only [↓raiseEv_site]

theorem timeCheckSend_site (x : Hoop) : (timeCheckSend x).site = x.site := by
  unfold timeCheckSend
  simp only [↓Hoop.site_ite, ite_self, ↓Hoop.site_foldl, implies_true, ↓sendLocal_site]

theorem timeCheck_site (k : Nat) (b : Bytes) (fine : BitVec 4) (x : Hoop) : (timeCheck k b fine x).site = x.site := by
  unfold timeCheck
  simp only [↓Hoop.site_ite, ite_self, ↓sendLocal_site, ↓Hoop.updLink_site, ↓raiseEv_site]

theorem telemetrySend_site (peer : Hoop) (dark : Bool) (x : Hoop) : (telemetrySend peer dark x).site = x.site := by
  unfold telemetrySend
  repeat' split
  all_goals simp only [↓Hoop.site_mk, ↓Hoop.site_ite, ite_self, ↓Hoop.defers_site, ↓originate_site]

theorem telemetryIn_site (b : Bytes) (x : Hoop) : (telemetryIn b x).site = x.site := by
  unfold telemetryIn
  simp only [↓Hoop.site_ite, ite_self, ↓raiseEv_site]

/-! ## Fabric -/

theorem noteChains_site (initiator fcid : Nat) (addrs : List Nat) (es : List Edit) (x : Hoop) :
    (noteChains initiator fcid addrs es x).site = x.site := by
  unfold noteChains
  simp only [↓Hoop.site_mk, ↓Hoop.site_foldl, implies_true]

theorem takeSlot_site (s : Nat) (f : Fab) (x : Hoop) : (takeSlot s f x).site = x.site := by
  unfold takeSlot
  split <;> simp only [↓Hoop.site_mk, ↓setFab_site]

theorem updInit_site (initiator fcid : Nat) (g : Fab → Fab) (x : Hoop) : (updInit initiator fcid g x).site = x.site := by
  unfold updInit
  simp only [↓Hoop.site_mk]

theorem withdrawPart_site (initiator fcid code : Nat) (x : Hoop) : (withdrawPart initiator fcid code x).site = x.site := by
  unfold withdrawPart
  split <;> simp only [↓abortCommit_site]

theorem abortMembers_site (f : Fab) (status reason : Nat) (x : Hoop) : (abortMembers f status reason x).site = x.site := by
  unfold abortMembers
  simp only [↓Hoop.site_foldl, implies_true, ↓originate_site]

theorem dropDeadlines_site (f : Fab) (x : Hoop) : (dropDeadlines f x).site = x.site := by
  unfold dropDeadlines
  split <;> simp only [↓dropArm_site]

theorem giveUp_site (f : Fab) (tell : Bool) (status reason : Nat) (x : Hoop) : (giveUp f tell status reason x).site = x.site := by
  unfold giveUp
  simp only [↓Hoop.site_ite, ite_self, ↓dropDeadlines_site, ↓abortMembers_site, ↓withdrawPart_site, ↓updInit_site]

theorem fabOutcome_site (f : Fab) (x : Hoop) : (fabOutcome f x).site = x.site := by
  unfold fabOutcome
  simp only [↓Hoop.site_mk, ↓raiseEv_site]

theorem noteEnd_site (fcid src result : Nat) (x : Hoop) : (noteEnd fcid src result x).site = x.site := by
  unfold noteEnd
  split <;> simp only [↓Hoop.site_ite, ite_self, ↓updInit_site, ↓fabOutcome_site]

theorem startFabric_site (fcid ens slot : Nat) (ms : List (Nat × List Bytes)) (loc : List Edit) (x : Hoop) :
    (startFabric fcid ens slot ms loc x).site = x.site := by
  unfold startFabric
  simp only [↓Hoop.site_mk, ↓Hoop.site_foldl, implies_true, ↓takeSlot_site, ↓armAt_site, ↓dropArm_site, ↓originate_site, ↓noteChains_site]

theorem fabricVerb_stays : fabricVerb.Stays := fun k x => by
  simp only [fabricVerb]
  repeat' split
  all_goals simp only [↓Hoop.site_snd, ↓startFabric_site, ↓raiseEv_site, ↓takeCommit_site]

theorem refuseProp_site (initiator fcid status reason : Nat) (x : Hoop) : (refuseProp initiator fcid status reason x).site = x.site := by
  unfold refuseProp
  simp only [↓originate_site]

theorem propose_site (b : Bytes) (x : Hoop) : (propose b x).site = x.site := by
  unfold propose
  simp only [↓Hoop.site_ite, ↓refuseProp_site]
  repeat' split
  all_goals simp only [↓refuseProp_site, ↓raiseEv_site, ↓takeCommit_site, ↓noteChains_site, ↓takeSlot_site, ↓armAt_site, ↓dropArm_site,
    ↓originate_site]

theorem goIn_site (b : Bytes) (x : Hoop) : (goIn b x).site = x.site := by
  unfold goIn
  split <;> simp only [↓Hoop.site_ite, ite_self, ↓setFab_site, ↓dropArm_site]

theorem abortIn_site (b : Bytes) (x : Hoop) : (abortIn b x).site = x.site := by
  unfold abortIn
  dsimp only
  repeat' split
  all_goals simp only [↓withdrawPart_site, ↓setFab_site, ↓dropArm_site, ↓giveUp_site, ↓noteEnd_site]

theorem goDeadline_site (k : Nat) (x : Hoop) : (goDeadline k x).site = x.site := by
  unfold goDeadline
  simp only [↓Hoop.site_ite]
  repeat' split
  all_goals simp only [↓cmpFire_site, ↓withdrawPart_site, ↓refuseProp_site, ↓setFab_site]

theorem sendGo_site (f : Fab) (x : Hoop) : (sendGo f x).site = x.site := by
  unfold sendGo
  simp only [↓Hoop.site_foldl, implies_true, ↓originate_site, ↓updInit_site, ↓dropDeadlines_site]

theorem readyIn_site (b : Bytes) (x : Hoop) : (readyIn b x).site = x.site := by
  unfold readyIn
  dsimp only
  split <;> simp only [↓Hoop.site_ite, ite_self, ↓updInit_site, ↓sendGo_site]

theorem doneIn_site (b : Bytes) (x : Hoop) : (doneIn b x).site = x.site := by
  unfold doneIn
  simp only [↓noteEnd_site]

theorem readyDeadline_site (s : Nat) (x : Hoop) : (readyDeadline s x).site = x.site := by
  unfold readyDeadline
  split <;> simp only [↓Hoop.site_ite, ite_self, ↓giveUp_site, ↓cmpFireDue_site, ↓sendGo_site, ↓armAt_site]

theorem goSendDeadline_site (s : Nat) (x : Hoop) : (goSendDeadline s x).site = x.site := by
  unfold goSendDeadline
  split <;> simp only [↓Hoop.site_ite, ite_self, ↓giveUp_site, ↓cmpFireDue_site]

theorem outcomeTimeout_site (s : Nat) (x : Hoop) : (outcomeTimeout s x).site = x.site := by
  unfold outcomeTimeout
  split <;> simp only [↓Hoop.site_ite, ite_self, ↓fabOutcome_site]

/-! ## Flags -/

theorem msixWrite_site (w : Nat) (v : Word) (x : Hoop) : (msixWrite w v x).site = x.site := by
  unfold msixWrite
  simp only [↓Hoop.site_mk]

theorem bar0Write_site (off : Nat) (v : Word) (x : Hoop) : (bar0Write off v x).site = x.site := by
  unfold bar0Write
  simp only [↓Hoop.site_mk, ↓Hoop.site_ite, ite_self, ↓Hoop.updRing_site, ↓msixWrite_site]

/-! ## Diagnostics -/

theorem regReadVerb_stays (failN : Bool) : (regReadVerb failN).Stays := fun k x => by
  simp only [regReadVerb, ↓Hoop.fresh_site, ↓respond_site]

theorem samplerReadVerb_stays : samplerReadVerb.Stays := fun k x => by
  simp only [samplerReadVerb, ite_self, ↓Hoop.site_snd, ↓Hoop.site_snd_ite, ↓respond_site]

theorem journalReadVerb_stays : journalReadVerb.Stays := fun k x => by
  simp only [journalReadVerb, ↓respond_site]

theorem resultReadVerb_stays : resultReadVerb.Stays := fun k x => by
  simp only [resultReadVerb, ite_self, ↓Hoop.site_snd, ↓Hoop.site_snd_ite, ↓respond_site]

theorem elementReadVerb_stays : elementReadVerb.Stays := fun k x => by
  simp only [elementReadVerb, ite_self, ↓Hoop.site_snd, ↓Hoop.site_snd_ite, ↓respond_site]

theorem respondMixed_site (k : Ctx) (recs : List Bytes) (x : Hoop) : (respondMixed k recs x).2.site = x.site := by
  unfold respondMixed
  split <;> simp only [↓Hoop.site_mk, ↓Hoop.site_snd]

theorem deltaReadVerb_stays : deltaReadVerb.Stays := fun k x => by
  simp only [deltaReadVerb]
  split <;> simp only [↓Hoop.site_snd, ↓respondMixed_site]

theorem commitListVerb_stays : commitListVerb.Stays := fun k x => by
  simp only [commitListVerb, ↓respond_site]

theorem patchReadVerb_stays : patchReadVerb.Stays := fun k x => by
  simp only [patchReadVerb, ite_self, ↓Hoop.site_snd_ite, ↓respond_site]

theorem historyReadVerb_stays : historyReadVerb.Stays := fun k x => by
  simp only [historyReadVerb]
  split <;> simp only [ite_self, ↓Hoop.site_snd, ↓Hoop.site_snd_ite, ↓respond_site]

/-! ## Power -/

theorem readRail_site (i mv : Nat) (x : Hoop) : (readRail i mv x).site = x.site := by
  unfold readRail
  simp only [↓Hoop.site_mk]

theorem hoopReset_site (wide mod : Bool) (x : Hoop) : (hoopReset wide mod x).site = x.site := Prod.ext rfl rfl

theorem moduleReset_frame (mod : Bool) (s : State) : (moduleReset mod s).frame = s.frame := by
  unfold moduleReset
  simp only [↓State.frame_foldl, implies_true, ↓State.upd_frame, ↓hoopReset_site, ↓State.setDuo_frame]

theorem powerOn_frame (h : HoopId) (rail mv : Nat) (s : State) : (powerOn h rail mv s).frame = s.frame := by
  unfold powerOn
  simp only [↓Hoop.site_mk, ↓State.frame_ite, ite_self, implies_true, ↓Hoop.site_ite, ↓State.upd_frame, ↓moduleReset_frame, ↓abandonHo_frame,
    ↓hoopReset_site]

theorem freeRail_site (x : Hoop) (i : Nat) : (freeRail x i).site = x.site := Prod.ext rfl rfl

theorem porRelease_site (strap : Bool) (x : Hoop) : (porRelease strap x).site = x.site := by
  unfold porRelease
  simp only [↓Hoop.site_mk, ↓Hoop.site_ite, ite_self, ↓Hoop.site_foldl, implies_true, ↓freeRail_site]

theorem railOut_site (rail mv : Nat) (x : Hoop) : (railOut rail mv x).site = x.site := by
  unfold railOut
  simp only [↓Hoop.site_mk, ↓Hoop.site_ite, ite_self, ↓readRail_site, ↓raiseEv_site, ↓fault_site]

theorem railBack_site (rail mv : Nat) (x : Hoop) : (railBack rail mv x).site = x.site := by
  unfold railBack
  simp only [↓Hoop.site_mk, ↓Hoop.site_ite, ite_self, ↓readRail_site, ↓raiseEv_site, ↓faultOff_site]

theorem keepLoss_site (x : Hoop) : (keepLoss x).site = x.site := Prod.ext rfl rfl

theorem writeFinal_site (live : Nat) (x : Hoop) : (writeFinal live x).site = x.site := by
  unfold writeFinal
  simp only [↓Hoop.site_mk, ↓Hoop.site_ite, ite_self, ↓Hoop.site_foldl, implies_true, ↓deferWrite_site, ↓jnlWrite1_site]

theorem powerFail_frame (s : State) : (powerFail s).frame = s.frame := by
  unfold powerFail
  simp only [↓State.frame_mk, ↓State.frame_ite, ite_self, ↓State.frame_foldl, implies_true, ↓Hoop.site_ite, ↓settle_frame, ↓State.upd_frame,
    ↓raiseEv_site, ↓fault_site, ↓writeFinal_site]

theorem powerGood_frame (s : State) : (powerGood s).frame = s.frame := by
  unfold powerGood
  simp only [↓State.frame_mk, ↓State.frame_ite, ite_self, ↓State.frame_foldl, implies_true, ↓Hoop.site_ite, ↓State.upd_frame, ↓raiseEv_site,
    ↓faultOff_site, ↓settle_frame]

theorem pcieReset_site (cause : Nat) (cut : Option Burst) (x : Hoop) : (pcieReset cause cut x).site = x.site := by
  unfold pcieReset
  simp only [↓Hoop.site_mk, ↓Hoop.site_ite, ite_self, ↓Hoop.site_foldl, implies_true, ↓cutOf_site, ↓Hoop.updRing_site, ↓raiseEv_site, ↓fault_site]

theorem pcieUp_site (rate width : Nat) (x : Hoop) : (pcieUp rate width x).site = x.site := by
  unfold pcieUp
  simp only [↓Hoop.site_mk, ↓Hoop.site_ite, ite_self, ↓raiseEv_site, ↓faultOff_site]

theorem powerState_site (d3 : Bool) (x : Hoop) : (powerState d3 x).site = x.site := by
  unfold powerState
  simp only [↓Hoop.site_mk, ↓Hoop.site_ite, ite_self, ↓pumpAll_site]

theorem watchdog_site (core : Nat) (cut : Option Burst) (x : Hoop) : (watchdog core cut x).site = x.site := by
  unfold watchdog
  simp only [↓Hoop.site_mk, ↓Hoop.site_ite, ite_self, ↓cutOf_site, ↓raiseEv_site, ↓fault_site]

theorem coreResume_site (core : Nat) (x : Hoop) : (coreResume core x).site = x.site := by
  unfold coreResume
  simp only [↓Hoop.site_mk, ↓Hoop.site_ite, ite_self, ↓faultOff_site]

theorem dutyEdge_site (z : Bool) (x : Hoop) : (dutyEdge z x).site = x.site := by
  unfold dutyEdge
  simp only [↓Hoop.updZone_site]

/-! ## Startup -/

theorem verbOf_stays (failN : Bool) (op : Nat) : (verbOf failN op).Stays := by
  unfold verbOf
  split
  · exact commitVerb_stays
  · exact commitVerb_stays
  · exact commitVerb_stays
  · exact commitVerb_stays
  · exact commitVerb_stays
  · exact darkNowVerb_stays
  · exact cancelVerb_stays
  · exact threadReadVerb_stays
  · exact ledgerReadVerb_stays
  · exact outcomeReadVerb_stays
  · exact slotLoadVerb_stays
  · exact slotMaskVerb_stays
  · exact slotClearVerb_stays
  · exact listWriteVerb_stays
  · exact startVerb_stays
  · exact swapVerb_stays
  · exact swapDisarmVerb_stays
  · exact stopVerb_stays
  · exact ringBindVerb_stays
  · exact ringUnbindVerb_stays
  · exact meterSetVerb_stays
  · exact keySetVerb_stays
  · exact eventSubVerb_stays
  · exact netCfgVerb_stays
  · exact batchVerb_stays
  · exact fabricVerb_stays
  · exact wlmCfgVerb_stays
  · exact ptpCfgVerb_stays
  · exact domainSwitchVerb_stays
  · exact verifyCfgVerb_stays
  · exact adcProfileVerb_stays
  · exact refSelVerb_stays
  · exact calCfgVerb_stays
  · exact loopSetVerb_stays
  · exact loopAssignVerb_stays
  · exact tecDriveVerb_stays
  · exact tecCoefVerb_stays
  · exact setpointVerb_stays
  · exact tecEnableVerb_stays
  · exact tripClearVerb_stays
  · exact thresholdsVerb_stays
  · exact thmModelVerb_stays
  · exact holdupMinVerb_stays
  · exact samplerRestoreVerb_stays
  · exact darkReleaseVerb_stays
  · exact handoverVerb_stays
  · exact rejoinVerb_stays
  · exact regReadVerb_stays failN
  · exact samplerReadVerb_stays
  · exact journalReadVerb_stays
  · exact resultReadVerb_stays
  · exact deltaReadVerb_stays
  · exact patchReadVerb_stays
  · exact elementReadVerb_stays
  · exact commitListVerb_stays
  · exact historyReadVerb_stays
  · exact nopVerb_stays

theorem holdBoot_site (cause : Nat) (x : Hoop) : (holdBoot cause x).site = x.site := by
  unfold holdBoot
  simp only [↓Hoop.site_mk, ↓dropToken_site, ↓setRole_site]

theorem lockPatch_site (img : Image) (x : Hoop) : (lockPatch img x).site = x.site := by
  unfold lockPatch
  simp only [↓Hoop.site_mk]

theorem authenticated_site (fail0 fail1 : Nat) (img : Image) (x : Hoop) : (authenticated fail0 fail1 img x).site = x.site := by
  unfold authenticated
  simp only [↓Hoop.site_mk, ↓Hoop.site_ite, ite_self, ↓holdBoot_site, ↓lockPatch_site, ↓takeToken_site, ↓raiseEv_site, ↓setStage_site]

theorem findJournal_site (x : Hoop) : (findJournal x).site = x.site := by
  unfold findJournal
  split <;> simp only [↓Hoop.site_mk]

theorem rebuildLedger_site (x : Hoop) : (rebuildLedger x).site = x.site := by
  unfold rebuildLedger
  repeat' split
  all_goals simp only [↓Hoop.site_mk]

theorem bootRecord_site (x : Hoop) : (bootRecord x).site = x.site := by
  unfold bootRecord
  simp only [↓jnlPut_site]

theorem loadCal_site (x : Hoop) : (loadCal x).site = x.site := by
  unfold loadCal
  simp only [↓Hoop.site_foldl, implies_true, ↓Hoop.updChan_site]

theorem applySetting_site (y : Hoop) (e : Nat × Nat × Bytes) : (applySetting y e).site = y.site := by
  unfold applySetting
  simp only [↓Hoop.site_mk, ↓verbOf_stays _ _ _ _]

theorem applySettings_site (x : Hoop) : (applySettings x).site = x.site := by
  unfold applySettings
  simp only [↓Hoop.site_foldl, implies_true, ↓applySetting_site]

theorem trained_site (gib : Nat) (ok : Bool) (x : Hoop) : (trained gib ok x).site = x.site := by
  unfold trained
  simp only [↓Hoop.site_mk, ↓Hoop.site_ite, ite_self, ↓holdBoot_site, ↓setStage_site, ↓raiseEv_site, ↓bootRecord_site, ↓rebuildLedger_site,
    ↓findJournal_site, ↓loadCal_site, ↓fault_site, ↓startMinutes_site, ↓updLeader_site, ↓writeCeil_site, ↓applySettings_site]

theorem selfTest_site (lost : List Nat) (x : Hoop) : (selfTest lost x).site = x.site := by
  unfold selfTest
  simp only [↓Hoop.site_ite, ite_self, ↓Hoop.site_foldl, implies_true, ↓sliceBuild_site, ↓beginRebuild_site, ↓setStage_site, ↓loseFront_site]

theorem selfTestDone_frame (h : HoopId) (lost : List Nat) (s : State) : (selfTestDone h lost s).frame = s.frame := by
  unfold selfTestDone
  simp only [↓State.frame_ite, ite_self, implies_true, ↓Hoop.site_foldl, ↓lostToBoth_frame, ↓loseFront_site, ↓State.upd_frame, ↓selfTest_site,
    ↓holderStart_site, ↓followPeer_frame, ↓claimToken_site, ↓State.setDuo_frame]

theorem firstWrites_site (x : Hoop) : (firstWrites x).site = x.site := by
  unfold firstWrites
  simp only [↓Hoop.site_mk, ↓Hoop.site_ite, ite_self, ↓Hoop.site_foldl, implies_true, ↓raiseEv_site, ↓restartZones_site, ↓confirmDark_site]

theorem deliverHeld_site (x : Hoop) : (deliverHeld x).site = x.site := by
  unfold deliverHeld
  simp only [↓Hoop.site_mk, ↓Hoop.site_ite, ite_self, ↓Hoop.site_foldl, implies_true, ↓deliverEvAt_site]

theorem ring0Open_site (tempTimeout timeTimeout : Bool) (x : Hoop) : (ring0Open tempTimeout timeTimeout x).site = x.site := by
  unfold ring0Open
  simp only [↓Hoop.site_mk, ↓Hoop.site_ite, ite_self, ↓Hoop.updRing_site, ↓deliverHeld_site, ↓setStage_site, ↓pumpRing_site, ↓raiseEv_site]

/-! ## Lockstep -/

theorem ownAnswer_site (failN : Bool) (peer : Hoop) (d : Digest) (c : ReadCmd) (x : Hoop) : (ownAnswer failN peer d c x).2.site = x.site := by
  unfold ownAnswer
  simp only [↓Hoop.site_snd_ite, ↓Hoop.site_snd, ↓Hoop.updRing_site]
  split
  · rfl
  · split
    · exact Hoop.updRing_site ..
    · exact (answer_site (verbOf_stays failN _) ..).trans (Hoop.site_mk ..)

theorem intakeDigest_site (failN : Bool) (peer x : Hoop) : (intakeDigest failN peer x).site = x.site := by
  unfold intakeDigest
  repeat' split
  all_goals simp only [↓Hoop.site_mk, ↓Hoop.site_ite, ite_self, ↓ownAnswer_site, ↓fault_site, ↓noteMismatch_site, ↓completeFront_site, ↓served_site,
    ↓pumpRing_site, ↓pumpAll_site]

end Sys2Proof.Machine
end

section
/-!
SUPPORT. Every row completes, keeps the queue, the part and the side of each hoop, and a row of one hoop the other: the statement O3.
-/

namespace Sys2Proof.Machine
open Sys2Proof

/-- The row answers a next state, with the frame of the state it starts from. -/
def Keeps (s : State) (o : Host.Outcome State Fault Refusal) : Prop := ∃ t, o = .next t ∧ t.frame = s.frame

theorem keeps_next {s t : State} (e : t.frame = s.frame) : Keeps s (.next t) := ⟨t, rfl, e⟩

theorem keeps_settle {s t : State} (e : t.frame = s.frame) : Keeps s (.next (settle t)) := keeps_next ((settle_frame t).trans e)

theorem keeps_act (s : State) (h : HoopId) {f : Hoop → Hoop} (e : ∀ x, (f x).site = x.site) : Keeps s (.next (s.act h f)) :=
  keeps_next (State.act_frame s h f e)

theorem keeps_serve (s : State) (h : HoopId) (r op : Nat) {v : Verb} (hv : v.Stays) : Keeps s (.next (s.serve h r op v)) :=
  keeps_next (State.serve_frame s h r op hv)

/-- A row of one hoop, and the domains that follow its time. -/
theorem keeps_timeFollow (s : State) (h k : HoopId) {f : Hoop → Hoop} (e : ∀ x, (f x).site = x.site) : Keeps s (.next (timeFollow k (s.act h f))) :=
  keeps_next ((timeFollow_frame ..).trans (State.act_frame s h f e))

/-- A row that acts on both hoops, one after the other. -/
theorem act_both_frame (s : State) {f : Hoop → Hoop} (e : ∀ x, (f x).site = x.site) : ((s.act .hoopA f).act .hoopB f).frame = s.frame :=
  (State.act_frame _ _ _ e).trans (State.act_frame s _ _ e)

theorem keeps_rxFrame (type : Nat) (h : HoopId) (k : Nat) (b : Bytes) {f : Hoop → Hoop} (e : ∀ x, (f x).site = x.site) (s : State) :
    Keeps s (.next (settle (rxFrame type h k b f s))) := keeps_settle (rxFrame_frame type h k b e s)

/-! ## Selda rows that reach the other hoop -/

theorem execDomainSwitch_keeps (h : HoopId) (r : Nat) (s : State) : Keeps s (execDomainSwitch h r s) :=
  keeps_next ((timeFollow_frame ..).trans (State.serve_frame s h r 0x41 domainSwitchVerb_stays))

theorem execDarkRelease_keeps (h : HoopId) (r : Nat) (s : State) : Keeps s (execDarkRelease h r s) := by
  refine keeps_next ((State.serve_frame _ h r 0x51 darkReleaseVerb_stays).trans ?_)
  simp only [↓State.frame_ite, ↓darkReleaseRun_frame, ite_self]

theorem execHandover_keeps (h : HoopId) (r : Nat) (s : State) : Keeps s (execHandover h r s) :=
  keeps_next ((offer_frame ..).trans (State.serve_frame s h r 0x52 handoverVerb_stays))

theorem execRejoin_keeps (h : HoopId) (r : Nat) (s : State) : Keeps s (execRejoin h r s) := by
  refine keeps_next ((State.serve_frame _ h r 0x53 rejoinVerb_stays).trans ?_)
  simp only [↓State.frame_ite, ↓rejoinPeer_frame, ite_self]

/-! ## Host registers and the SMBus -/

theorem execSmbusBlockRead_keeps (h : HoopId) (cmd : BitVec 8) (s : State) : Keeps s (execSmbusBlockRead h cmd s) :=
  keeps_act s h fun x => by simp only [↓Hoop.site_ite, ↓Hoop.site_mk, ite_self]

theorem execAlertResponse_keeps (h : HoopId) (s : State) : Keeps s (execAlertResponse h s) :=
  keeps_act s h fun x => by simp only [↓Hoop.site_ite, ↓Hoop.site_mk, ite_self]

theorem execTbCntRead_keeps (h : HoopId) (s : State) : Keeps s (execTbCntRead h s) := keeps_act s h fun _ => Hoop.site_mk ..

theorem execRegisterWrite_keeps (h : HoopId) (off size : Nat) (v : BitVec 32) (s : State) : Keeps s (execRegisterWrite h off size v s) :=
  keeps_next (by simp only [↓State.frame_ite, ↓State.act_frame, ↓bar0Write_site, ite_self, implies_true])

/-! ## Power and resets -/

theorem execPowerOnReset_keeps (h : HoopId) (rail mv : Nat) (s : State) : Keeps s (execPowerOnReset h rail mv s) :=
  keeps_next (by simp only [↓State.frame_ite, ↓settle_frame, ↓powerOn_frame, ite_self])

theorem execPorRelease_keeps (h : HoopId) (s : State) : Keeps s (execPorRelease h s) :=
  keeps_next (by simp only [↓State.frame_ite, ↓settle_frame, ↓State.frame_mk, ↓State.upd_frame, ↓porRelease_site, ite_self, implies_true])

theorem execModRst_keeps (s : State) : Keeps s (execModRst s) :=
  keeps_settle ((State.frame_mk ..).trans (moduleReset_frame true s))

/-! ## Faults -/

theorem execTecTrip_keeps (z : Nat) (s : State) : Keeps s (execTecTrip z s) :=
  keeps_next ((act_both_frame _ (trip_site _)).trans (by simp only [↓State.frame_ite, ↓State.frame_mk, ite_self]))

theorem execTecTripRelease_keeps (z : Nat) (s : State) : Keeps s (execTecTripRelease z s) :=
  keeps_next ((act_both_frame _ fun x => Hoop.updZone_site ..).trans (by simp only [↓State.frame_ite, ↓State.frame_mk, ite_self]))

theorem execForceRelease_keeps (h : HoopId) (s : State) : Keeps s (execForceRelease h s) :=
  keeps_settle (by simp only [↓State.frame_ite, ↓State.frame_foldl, ↓State.upd_frame, ↓unforce_site, ite_self, implies_true])

/-! ## Epochs and the timebase -/

theorem execEpochStrobe_keeps (h : HoopId) (k : Nat) (s : State) : Keeps s (execEpochStrobe h k s) :=
  keeps_act s h fun x => by simp only [↓Hoop.site_ite, ↓strobe_site, ↓lateStandby_site, ite_self]

theorem execPrickingEntryStrobe_keeps (h : HoopId) (s : State) : Keeps s (execPrickingEntryStrobe h s) :=
  keeps_act s h fun x => by simp only [↓Hoop.site_ite, ↓clearPrk_site, ↓entryStrobe_site, ite_self]

theorem execPrickingCycleBoundary_keeps (h : HoopId) (s : State) : Keeps s (execPrickingCycleBoundary h s) :=
  keeps_act s h fun x => by simp only [↓Hoop.site_ite, ↓clearPrk_site, ↓cycleBoundary_site, ite_self]

theorem execPpsPulseEnd_keeps (h : HoopId) (s : State) : Keeps s (execPpsPulseEnd h s) :=
  keeps_act s h fun x => by simp only [↓Hoop.site_ite, ↓Hoop.site_mk, ite_self]

theorem execLedgerMinuteClose_keeps (h : HoopId) (s : State) : Keeps s (execLedgerMinuteClose h s) :=
  keeps_act s h fun x => by simp only [↓Hoop.site_ite, ↓closeMinute_site, ite_self]

theorem execTbWrap_keeps (h : HoopId) (s : State) : Keeps s (execTbWrap h s) :=
  keeps_act s h fun x => by simp only [↓Hoop.site_ite, ↓Hoop.site_mk, ite_self]

theorem execTimeLinkCompare_keeps (h : HoopId) (phase : Nat) (ok : Bool) (s : State) : Keeps s (execTimeLinkCompare h phase ok s) :=
  keeps_next (by simp only [↓State.frame_ite, ↓timeFollow_frame, ↓State.act_frame, ↓timeLink_site, ite_self, implies_true])

/-! ## Tambour and the drive -/

theorem execStageStd_keeps (h : HoopId) (bad1 bad2 : List Nat) (why : StageEvent) (s : State) : Keeps s (execStageStd h bad1 bad2 why s) :=
  keeps_settle ((digestCompare_frame ..).trans (State.upd_frame s h _ (viaPatch_site 1 (stageStd_site bad1 bad2 why))))

theorem execStagePrk_keeps (h : HoopId) (bad1 bad2 : List Nat) (why : StageEvent) (s : State) : Keeps s (execStagePrk h bad1 bad2 why s) :=
  keeps_settle ((digestCompare_frame ..).trans (State.upd_frame s h _ (viaPatch_site 2 (stagePrk_site bad1 bad2 why))))

theorem execTambourHandover_keeps (h : HoopId) (s : State) : Keeps s (execTambourHandover h s) := by
  refine keeps_settle ?_
  split
  · simp only [↓State.frame_ite, ↓State.upd_frame, ↓beginRun_site, ↓tambourHandover_frame, ite_self, implies_true]
  · rfl

theorem execReservedOperation_keeps (h : HoopId) (code : BitVec 6) (s : State) : Keeps s (execReservedOperation h code s) :=
  keeps_act s h fun x => by simp only [↓Hoop.site_ite, ↓posted_site code (reservedOp_site code), ite_self]

theorem execWaitTimeout_keeps (h : HoopId) (cond g : Nat) (uaddr : BitVec 12) (s : State) : Keeps s (execWaitTimeout h cond g uaddr s) :=
  keeps_settle (by simp only [↓State.frame_ite, ↓abandonHo_frame, ↓State.upd_frame, ↓waitTimeout_site, ite_self, implies_true])

theorem execRefreshSlot_keeps (h : HoopId) (t : Nat) (fails : List Nat) (s : State) : Keeps s (execRefreshSlot h t fails s) :=
  keeps_settle (by simp only [↓State.frame_ite, ↓refreshSlot_frame, ↓State.upd_frame, ↓resumeDrive_site, ite_self, implies_true])

theorem execWindowEnd_keeps (h : HoopId) (t : Nat) (fails : List Nat) (s : State) : Keeps s (execWindowEnd h t fails s) :=
  keeps_settle (by simp only [↓State.frame_ite, ↓State.upd_frame, ↓Hoop.site_foldl, ↓electric_site, ↓windowEnd_frame, ite_self, implies_true])

theorem execDeglitchRelease_keeps (h : HoopId) (e : Nat) (heater : Bool) (s : State) : Keeps s (execDeglitchRelease h e heater s) :=
  keeps_act s h fun x => by simp only [↓Hoop.site_ite, ↓Hoop.updHeater_site, ↓Hoop.updNeedle_site, ite_self]

theorem execHeaterComplianceFail_keeps (h : HoopId) (e : Nat) (s : State) : Keeps s (execHeaterComplianceFail h e s) :=
  keeps_settle (by simp only [↓State.frame_ite, ↓complFail_frame, ite_self])

theorem execHeaterSumOver_keeps (h : HoopId) (s : State) : Keeps s (execHeaterSumOver h s) :=
  keeps_act s h fun x => by simp only [↓Hoop.site_ite, ↓fault_site, ite_self]

/-! ## The monitor -/

theorem execSpareTestEnd_keeps (h : HoopId) (ch : Nat) (normal : Bool) (s : State) : Keeps s (execSpareTestEnd h ch normal s) :=
  keeps_settle ((lostToBoth_frame h (fun x => by simp only [↓Hoop.site_ite, ↓loseFront_site, ite_self]) ..).trans
    (State.upd_frame s h _ (spareEnd_site ch normal)))

theorem execTelemetrySweep_keeps (h : HoopId) (ch : Nat) (c : Conv) (s : State) : Keeps s (execTelemetrySweep h ch c s) :=
  keeps_settle (by simp only [↓State.frame_ite, ↓convertIn_frame, ↓State.upd_frame, ↓sweepState_site, ite_self, implies_true])

theorem execCalStep_keeps (h : HoopId) (avg : Nat) (s : State) : Keeps s (execCalStep h avg s) := by
  have hs : (s.upd h (calStep avg)).frame = s.frame := State.upd_frame s h _ (calStep_site avg)
  refine keeps_settle ?_
  split
  · exact (trimCompare_frame ..).trans hs
  · exact (trimCompare_frame ..).trans hs
  · exact hs

theorem execDiodePass_keeps (h : HoopId) (volts : List Int) (s : State) : Keeps s (execDiodePass h volts s) :=
  keeps_act s h (diodePass_site _ _)

theorem execDiodeCrossCheck_keeps (h : HoopId) (s : State) : Keeps s (execDiodeCrossCheck h s) := keeps_act s h fun _ => crossCheck_site ..

/-! ## The journal, the history and the rings -/

theorem execJournalBurst_keeps (h : HoopId) (mv : Nat) (s : State) : Keeps s (execJournalBurst h mv s) :=
  keeps_act s h fun x => by simp only [↓Hoop.site_ite, ↓flushMram_site, ↓tryBurst_site, ite_self]

theorem execHoldupRetry_keeps (h : HoopId) (mv : Nat) (s : State) : Keeps s (execHoldupRetry h mv s) :=
  keeps_act s h fun x => by simp only [↓Hoop.site_ite, ↓flushMram_site, ↓tryBurst_site, ↓holdupCheck_site, ite_self]

theorem execHistorySecond_keeps (h : HoopId) (deferred writeFail : Bool) (s : State) : Keeps s (execHistorySecond h deferred writeFail s) :=
  keeps_act s h fun _ => (passRates_site _).trans (historySecond_site ..)

theorem execTokenRefill_keeps (h : HoopId) (r : Nat) (s : State) : Keeps s (execTokenRefill h r s) :=
  keeps_act s h fun x => by simp only [↓Hoop.site_ite, ↓Hoop.updRing_site, ite_self]

/-! ## The pair -/

theorem execHealthScore_keeps (s : State) : Keeps s (execHealthScore s) :=
  keeps_settle (by simp only [↓State.frame_ite, ↓State.frame_foldl, ↓State.upd_frame, ↓Hoop.site_mk, ite_self, implies_true])

theorem execResyncComplete_keeps (h : HoopId) (ms : Nat) (s : State) : Keeps s (execResyncComplete h ms s) :=
  keeps_settle (by simp only [↓State.frame_ite, ↓resyncDone_frame, ite_self])

theorem execMonitorSelfTestDone_keeps (h : HoopId) (lost : List Nat) (s : State) : Keeps s (execMonitorSelfTestDone h lost s) :=
  keeps_next (by simp only [↓State.frame_ite, ↓settle_frame, ↓selfTestDone_frame, ite_self])

theorem execIntakeDigest_keeps (h : HoopId) (s : State) : Keeps s (execIntakeDigest h s) :=
  keeps_next (by simp only [↓State.frame_ite, ↓State.act_frame, ↓intakeDigest_site, ite_self, implies_true])

theorem execPwmDutyEdge_keeps (h : HoopId) (z : Nat) (s : State) : Keeps s (execPwmDutyEdge h z s) :=
  keeps_next (by simp only [↓State.frame_ite, ↓State.act_frame, ↓dutyEdge_site, ite_self, implies_true])

/-! ## Every row -/

/-- Every row completes, and keeps the queue and what each hoop is: row by row, the effect on one hoop or on both keeps it, and so does `settle`. -/
theorem exec_keeps (i : Instr) (s : State) : Keeps s (exec i s) := by
  cases i with
  | nop h r => exact keeps_serve s h r 0x00 nopVerb_stays
  | create h r => exact keeps_serve s h r 0x01 commitVerb_stays
  | modify h r => exact keeps_serve s h r 0x02 commitVerb_stays
  | reopen h r => exact keeps_serve s h r 0x03 commitVerb_stays
  | release h r => exact keeps_serve s h r 0x04 commitVerb_stays
  | dark h r => exact keeps_serve s h r 0x05 commitVerb_stays
  | darkNow h r => exact keeps_serve s h r 0x06 darkNowVerb_stays
  | cancel h r => exact keeps_serve s h r 0x07 cancelVerb_stays
  | threadRead h r => exact keeps_serve s h r 0x08 threadReadVerb_stays
  | ledgerRead h r => exact keeps_serve s h r 0x09 ledgerReadVerb_stays
  | outcomeRead h r => exact keeps_serve s h r 0x0A outcomeReadVerb_stays
  | batch h r => exact keeps_serve s h r 0x30 batchVerb_stays
  | prkSlotLoad h r => exact keeps_serve s h r 0x10 slotLoadVerb_stays
  | prkSlotMask h r => exact keeps_serve s h r 0x11 slotMaskVerb_stays
  | prkSlotClear h r => exact keeps_serve s h r 0x12 slotClearVerb_stays
  | prkListWrite h r => exact keeps_serve s h r 0x13 listWriteVerb_stays
  | prkStart h r => exact keeps_serve s h r 0x14 startVerb_stays
  | prkSwap h r => exact keeps_serve s h r 0x15 swapVerb_stays
  | prkSwapDisarm h r => exact keeps_serve s h r 0x16 swapDisarmVerb_stays
  | prkStop h r => exact keeps_serve s h r 0x17 stopVerb_stays
  | ringBind h r => exact keeps_serve s h r 0x20 ringBindVerb_stays
  | ringUnbind h r => exact keeps_serve s h r 0x21 ringUnbindVerb_stays
  | meterSet h r => exact keeps_serve s h r 0x22 meterSetVerb_stays
  | keySet h r => exact keeps_serve s h r 0x23 keySetVerb_stays
  | eventSub h r => exact keeps_serve s h r 0x24 eventSubVerb_stays
  | netCfg h r => exact keeps_serve s h r 0x25 netCfgVerb_stays
  | ptpCfg h r => exact keeps_serve s h r 0x40 ptpCfgVerb_stays
  | domainSwitch h r => exact execDomainSwitch_keeps h r s
  | verifyCfg h r => exact keeps_serve s h r 0x42 verifyCfgVerb_stays
  | adcProfile h r => exact keeps_serve s h r 0x43 adcProfileVerb_stays
  | refSel h r => exact keeps_serve s h r 0x44 refSelVerb_stays
  | calCfg h r => exact keeps_serve s h r 0x45 calCfgVerb_stays
  | loopSet h r => exact keeps_serve s h r 0x46 loopSetVerb_stays
  | loopAssign h r => exact keeps_serve s h r 0x47 loopAssignVerb_stays
  | tecDrive h r => exact keeps_serve s h r 0x48 tecDriveVerb_stays
  | tecCoef h r => exact keeps_serve s h r 0x49 tecCoefVerb_stays
  | setpoint h r => exact keeps_serve s h r 0x4A setpointVerb_stays
  | tecEnable h r => exact keeps_serve s h r 0x4B tecEnableVerb_stays
  | tripClear h r => exact keeps_serve s h r 0x4C tripClearVerb_stays
  | thresholds h r => exact keeps_serve s h r 0x4D thresholdsVerb_stays
  | thmModel h r => exact keeps_serve s h r 0x4E thmModelVerb_stays
  | holdupMin h r => exact keeps_serve s h r 0x4F holdupMinVerb_stays
  | samplerRestore h r => exact keeps_serve s h r 0x50 samplerRestoreVerb_stays
  | darkRelease h r => exact execDarkRelease_keeps h r s
  | handover h r => exact execHandover_keeps h r s
  | rejoin h r => exact execRejoin_keeps h r s
  | regRead h r => exact keeps_serve s h r 0x60 (regReadVerb_stays s.balls.pwrFailN)
  | samplerRead h r => exact keeps_serve s h r 0x61 samplerReadVerb_stays
  | journalRead h r => exact keeps_serve s h r 0x62 journalReadVerb_stays
  | resultRead h r => exact keeps_serve s h r 0x63 resultReadVerb_stays
  | deltaRead h r => exact keeps_serve s h r 0x64 deltaReadVerb_stays
  | patchRead h r => exact keeps_serve s h r 0x65 patchReadVerb_stays
  | elementRead h r => exact keeps_serve s h r 0x66 elementReadVerb_stays
  | commitList h r => exact keeps_serve s h r 0x67 commitListVerb_stays
  | historyRead h r => exact keeps_serve s h r 0x68 historyReadVerb_stays
  | fabricCommit h r => exact keeps_serve s h r 0x31 fabricVerb_stays
  | wlmCfg h r => exact keeps_serve s h r 0x32 wlmCfgVerb_stays
  | doorbell h r tail cmds => exact keeps_act s h (doorbell_site r tail cmds)
  | mbxCplHead h r v => exact keeps_act s h (cplHead_site r v)
  | mbxEvtHead h r v => exact keeps_act s h (evtHead_site r v)
  | reopenRing0 h v => exact keeps_act s h (reopen0_site v)
  | dmaError h r => exact keeps_act s h (dmaError_site r)
  | msixModerationTimeout h r evt => exact keeps_act s h (moderation_site r evt)
  | remoteDatagram h port srcAddr srcPort payload => exact keeps_act s h (remote_site port srcAddr srcPort payload)
  | smbusBlockRead h cmd => exact execSmbusBlockRead_keeps h cmd s
  | alertResponse h => exact execAlertResponse_keeps h s
  | tbSnap h v => exact keeps_act s h (snap_site v)
  | tbCntRead h => exact execTbCntRead_keeps h s
  | tbPpsCtrlWrite h v => exact keeps_act s h (ppsCtrl_site v)
  | tbCmpFiredClear h v => exact keeps_act s h (firedClear_site v)
  | fcStickyClear h w v => exact keeps_act s h (stickyClear_site w v)
  | fcWireClear h w v => exact keeps_act s h (wireClear_site w v)
  | rearm h v => exact keeps_act s h (rearm_site v)
  | pmcCtrlWrite h v => exact keeps_act s h (pmcCtrl_site v)
  | pmcLoad h v inc => exact keeps_act s h (pmcLoad_site v inc)
  | pmcOvfClear h w v => exact keeps_act s h (ovfClear_site w v)
  | pmcPreHiWrite h c v => exact keeps_act s h (preHi_site c v)
  | pmcCntLoRead h c => exact keeps_act s h (cntLo_site c)
  | registerWrite h off size v => exact execRegisterWrite_keeps h off size v s
  | powerOnReset h rail mv => exact execPowerOnReset_keeps h rail mv s
  | porRelease h => exact execPorRelease_keeps h s
  | modRst => exact execModRst_keeps s
  | railExcursion h rail mv => exact keeps_act s h (railOut_site rail mv)
  | railReturn h rail mv => exact keeps_act s h (railBack_site rail mv)
  | pwrFailAssert => exact keeps_next (powerFail_frame s)
  | pwrFailRelease => exact keeps_next (powerGood_frame s)
  | vkeepLoss h => exact keeps_act s h keepLoss_site
  | pcieReset h cause cut => exact keeps_act s h (pcieReset_site cause cut)
  | defaultTargetAccess h master write beats addr => exact keeps_act s h (defaultTarget_site master write beats addr)
  | watchdogExpiry h core cut => exact keeps_act s h (watchdog_site core cut)
  | coreResume h core => exact keeps_act s h (coreResume_site core)
  | debugHalt h core => exact keeps_act s h (debugHalt_site core)
  | debugResume h => exact keeps_act s h debugResume_site
  | tecTrip z => exact execTecTrip_keeps z s
  | ppsInEdge => exact keeps_next (act_both_frame s ppsIn_site)
  | faultAssert h src det => exact keeps_next (railsRow_frame h src (railsOn_site src det) s)
  | faultClear h src => exact keeps_act s h (railsOff_site src)
  | wireFault h src => exact keeps_next (railsRow_frame h src (wireFault_site src) s)
  | collectorParityError h => exact keeps_act s h parityError_site
  | faultNTimeout h => exact keeps_act s h faultNEnd_site
  | keeperCrcCheck h flipped => exact keeps_act s h (keeperCheck_site flipped)
  | forceRelease h => exact execForceRelease_keeps h s
  | epochStrobe h k => exact execEpochStrobe_keeps h k s
  | zeroCodeEpoch h seq ring => exact keeps_act s h (zeroCode_site seq ring)
  | settlingEnd h seq ring => exact keeps_act s h (settlingEnd_site seq ring)
  | verifyDeadline h inPort => exact keeps_act s h (deadline_site inPort)
  | prickingEntryStrobe h => exact execPrickingEntryStrobe_keeps h s
  | prickingCycleBoundary h => exact execPrickingCycleBoundary_keeps h s
  | ppsOutEdge h => exact keeps_act s h ppsEdge_site
  | ppsPulseEnd h => exact execPpsPulseEnd_keeps h s
  | refreshOrigin h => exact keeps_act s h refOrigin_site
  | ledgerMinuteBoundary h => exact keeps_act s h minuteBoundary_site
  | ledgerMinuteClose h => exact execLedgerMinuteClose_keeps h s
  | heldEventSweep h => exact keeps_act s h heldSweep_site
  | anchorRewrite h => exact keeps_act s h anchorRewrite_site
  | tbWrap h => exact execTbWrap_keeps h s
  | syncReceived h dom corr filt origin utc => exact keeps_timeFollow s h h (syncIn_site dom corr filt origin.sec origin.ns utc)
  | syncTimeout h dom => exact keeps_timeFollow s h h (toHoldover_site dom)
  | holdoverLimitExpiry h => exact keeps_act s h limitExpiry_site
  | freerunTimeout h dom => exact keeps_timeFollow s h h (freerun_site dom)
  | timeLinkCompare h phase linkOk => exact execTimeLinkCompare_keeps h phase linkOk s
  | stageStd h bad1 bad2 why => exact execStageStd_keeps h bad1 bad2 why s
  | stagePrk h bad1 bad2 why => exact execStagePrk_keeps h bad1 bad2 why s
  | restoreIdle h => exact keeps_act s h (viaPatch_site 3 restoreOp_site)
  | tileUpdate h t => exact keeps_act s h (viaPatch_site 4 (tileUpdate_site t))
  | injReload h g => exact keeps_act s h (viaPatch_site 8 (injReload_site g))
  | disarm h k => exact keeps_act s h (viaPatch_site 9 (disarm_site k))
  | tambourHandover h => exact execTambourHandover_keeps h s
  | eyeletDark h => exact keeps_act s h (viaPatch_site 0x10 eyeletDark_site)
  | tambourNop h => exact keeps_act s h (posted_site 0 tambourNop_site)
  | reservedOperation h code => exact execReservedOperation_keeps h code s
  | tambourStop h phase applied uaddr => exact keeps_act s h (tambourStop_site phase applied uaddr)
  | forcedStop h phase applied uaddr => exact keeps_act s h (forcedStop_site phase applied uaddr)
  | uncorrectableEcc h nano site => exact keeps_act s h (eccHalt_site nano site)
  | patchScrub h hit => exact keeps_act s h (patchScrub_site hit)
  | waitTimeout h cond g uaddr => exact execWaitTimeout_keeps h cond g uaddr s
  | tambourResume h => exact keeps_act s h resume_site
  | holdRelease h => exact keeps_act s h holdRelease_site
  | refreshSlot h t fails => exact execRefreshSlot_keeps h t fails s
  | ditherWindow h t => exact keeps_act s h (ditherWindow_site t)
  | needleSlewStep h t => exact keeps_act s h (needleStep_site t)
  | windowEnd h t fails => exact execWindowEnd_keeps h t fails s
  | deglitchRelease h e heater => exact execDeglitchRelease_keeps h e heater s
  | heaterSlewStep h t => exact keeps_act s h (heaterStep_site t)
  | rangeHoldEnd h e => exact keeps_act s h (rangeEnd_site e)
  | heaterComplianceFail h e => exact execHeaterComplianceFail_keeps h e s
  | heaterSumOver h => exact execHeaterSumOver_keeps h s
  | conversionEnd h ch c => exact keeps_settle (convertIn_frame h ch c s)
  | spareTestEnd h ch normal => exact execSpareTestEnd_keeps h ch normal s
  | adcConversionTimeout h g => exact keeps_act s h (adcFail_site g)
  | regularPassStart h => exact keeps_act s h passStart_site
  | lockinWindowEnd h e => exact keeps_act s h (lockinEnd_site e)
  | loopHoldTimeout h e => exact keeps_act s h (holdTimeout_site e)
  | capJob h => exact keeps_act s h capJob_site
  | fieldRefinement h e mean => exact keeps_act s h (refine_site e mean)
  | telemetrySweep h ch c => exact execTelemetrySweep_keeps h ch c s
  | calRoundStart h => exact keeps_act s h calRoundStart_site
  | calStep h avg => exact execCalStep_keeps h avg s
  | adcSelfCalEnd h g mid => exact keeps_act s h (adcCalEnd_site g mid)
  | refOkSet h drift => exact keeps_act s h (refOkSet_site drift)
  | referenceFallback h => exact keeps_act s h refFallback_site
  | diodePass h temps => exact execDiodePass_keeps h temps s
  | zoneMean h => exact keeps_act s h (zoneMean_site (standsBy s h))
  | diodeCrossCheck h => exact execDiodeCrossCheck_keeps h s
  | dieSensorRead h temps => exact keeps_act s h (dieRead_site temps)
  | thermistorRead h ohms => exact keeps_act s h (thmRead_site ohms (if standsBy s h then some (s.hoop (other h)).ths.thm else none))
  | throttleStep h grp => exact keeps_act s h (throttleStep_site grp)
  | pwmReload h z => exact keeps_act s h (pwmReload_site (z % 2 == 1))
  | setpointAverage h avg => exact keeps_act s h (spAverage_site (if standsBy s h then some (s.hoop (other h)).tec.eff.toNat else none) avg)
  | setpointSourceLost h => exact keeps_act s h spLost_site
  | sliceRebuilt h => exact keeps_act s h sliceBuild_site
  | journalBurst h mv => exact execJournalBurst_keeps h mv s
  | holdupRetry h mv => exact execHoldupRetry_keeps h mv s
  | historySecond h deferred writeFail => exact execHistorySecond_keeps h deferred writeFail s
  | windowBoundary h => exact keeps_act s h windowBoundary_site
  | counterOverflow h c inc => exact keeps_act s h (overflow_site c inc)
  | healthScore => exact execHealthScore_keeps s
  | patchCompare => exact keeps_settle (patchCompare_frame s)
  | intakeTimeout h => exact keeps_act s h intakeTimeout_site
  | handoverBoundary => exact keeps_settle (handoverBoundary_frame s)
  | handoverAbandon cause => exact keeps_settle (handoverAbandon_frame cause s)
  | provingEnd h => exact keeps_act s h provingEnd_site
  | interlockDisagreement => exact keeps_settle (interlock_frame s)
  | gracePeriodEnd => exact keeps_settle (graceEnd_frame s)
  | tokenTimeout h => exact keeps_settle (tokenTimeout_frame h s)
  | resyncComplete h ms => exact execResyncComplete_keeps h ms s
  | helloSend h => exact keeps_act s h helloSend_site
  | hello h link frame => exact keeps_settle (rxLocal_frame 0 h link frame (hello_site link frame) s)
  | helloTimeout h link => exact keeps_act s h (helloTimeout_site link)
  | laneLockLoss h link lane => exact keeps_act s h (laneLoss_site link lane)
  | route h link frame => exact keeps_settle ((dropWith_frame ..).trans (rxLocal_frame 1 h link frame (routeIn_site link frame) s))
  | routeAdvertise h => exact keeps_act s h routeAdvertise_site
  | triggeredUpdate h link => exact keeps_act s h (triggered_site link)
  | routeExpiry h addr => exact keeps_act s h (routeExpiry_site addr)
  | addrReqSend h => exact keeps_settle (addrReqSend_frame h s)
  | addrReq h link frame => exact keeps_settle (addrReq_frame h link frame s)
  | addrGrant h link frame => exact keeps_rxFrame 3 h link frame (addrGrant_site frame) s
  | propose h link frame => exact keeps_rxFrame 4 h link frame (propose_site frame) s
  | ready h link frame => exact keeps_rxFrame 5 h link frame (readyIn_site frame) s
  | go h link frame => exact keeps_rxFrame 6 h link frame (goIn_site frame) s
  | abort h link frame => exact keeps_rxFrame 7 h link frame (abortIn_site frame) s
  | done h link frame => exact keeps_rxFrame 8 h link frame (doneIn_site frame) s
  | readyDeadline h slot => exact keeps_act s h (readyDeadline_site slot)
  | goSendDeadline h slot => exact keeps_act s h (goSendDeadline_site slot)
  | goDeadline h k => exact keeps_act s h (goDeadline_site k)
  | fabricOutcomeTimeout h slot => exact keeps_act s h (outcomeTimeout_site slot)
  | darkNoticeRepeat h => exact keeps_act s h noticeRepeat_site
  | darkNotice h link frame => exact keeps_rxFrame 9 h link frame (darkNotice_site frame) s
  | timeCheckSend h => exact keeps_act s h timeCheckSend_site
  | timeCheck h link frame fine => exact keeps_settle (rxLocal_frame 0xA h link frame (timeCheck_site link frame fine) s)
  | telemetrySend h => exact keeps_act s h (telemetrySend_site (s.hoop (other h)) s.balls.darkN)
  | telemetry h link frame => exact keeps_rxFrame 0xB h link frame (telemetryIn_site frame) s
  | handoverNotice h link frame => exact keeps_rxFrame 0xC h link frame (handoverNotice_site frame) s
  | imageAuthenticated h fail0 fail1 img => exact keeps_act s h (authenticated_site fail0 fail1 img)
  | lpddr4xTrained h gib ok => exact keeps_act s h (trained_site gib ok)
  | monitorSelfTestDone h lost => exact execMonitorSelfTestDone_keeps h lost s
  | firstWriteDone h => exact keeps_act s h firstWrites_site
  | ring0Open h tempTimeout timeTimeout => exact keeps_act s h (ring0Open_site tempTimeout timeTimeout)
  | historyStoreReady h present hdrOk capacity => exact keeps_act s h (storeReady_site present hdrOk capacity)
  | tokenRefill h r => exact execTokenRefill_keeps h r s
  | tecTripRelease z => exact execTecTripRelease_keeps z s
  | intakeDigest h => exact execIntakeDigest_keeps h s
  | masterSelection h dom selected => exact keeps_timeFollow s h h (masterSel_site dom selected)
  | delayRequestResponse h dom answer => exact keeps_act s h (delayIn_site dom answer.ago answer.received.sec answer.received.ns answer.corr)
  | pcieLinkUp h rate width => exact keeps_act s h (pcieUp_site rate width)
  | powerManagementState h d3 => exact keeps_act s h (powerState_site d3)
  | neighbourLagUpdate h => exact keeps_act s h lagUpdate_site
  | htrSumUpdate h => exact keeps_act s h sumUpdate_site
  | phaseAccumulatorTick h => exact keeps_act s h phaseTick_site
  | pwmDutyEdge h z => exact execPwmDutyEdge_keeps h z s

/-! ## The other hoop -/

/-- If the row completes, it leaves hoop `k` as it was, but for what telling, faults, darks and `settle` may change. -/
structure Spares (s : State) (k : HoopId) (o : Host.Outcome State Fault Refusal) : Prop where
  calm_of_next : ∀ t, o = .next t → (t.hoop k).calm = (s.hoop k).calm

theorem spares_next {s t : State} {k : HoopId} (e : (t.hoop k).calm = (s.hoop k).calm) : Spares s k (.next t) where
  calm_of_next _ ht := by cases ht; exact e

theorem spares_act (s : State) (h : HoopId) (f : Hoop → Hoop) : Spares s (other h) (.next (s.act h f)) := spares_next (act_calm_other s h f)

theorem spares_serve (s : State) (h : HoopId) (r op : Nat) (v : Verb) : Spares s (other h) (.next (s.serve h r op v)) := by
  refine spares_next ?_
  unfold State.serve
  split
  · exact act_calm_other ..
  · rfl

theorem spares_ite (c : Prop) [Decidable c] (s : State) (h : HoopId) (f : Hoop → Hoop) : Spares s (other h) (.next (if c then s.act h f else s)) := by
  split
  · exact spares_act s h f
  · exact spares_next rfl

/-- A row of one hoop reaches the other by `settle` alone: a Selda row serves its own ring, and the rest act on their own hoop, three of them under a
condition. -/
theorem exec_spares {i : Instr} {h : HoopId} (s : State) (e : ownHoop i = some h) : Spares s (other h) (exec i s) := by
  cases i <;> cases e
  case registerWrite | intakeDigest | pwmDutyEdge => exact spares_ite _ s h _
  case nop | create | modify | reopen | release | dark | darkNow | cancel | threadRead | ledgerRead | outcomeRead | batch | prkSlotLoad |
    prkSlotMask | prkSlotClear | prkListWrite | prkStart | prkSwap | prkSwapDisarm | prkStop | ringBind | ringUnbind | meterSet | keySet |
    eventSub | netCfg | ptpCfg | verifyCfg | adcProfile | refSel | calCfg | loopSet | loopAssign | tecDrive | tecCoef | setpoint | tecEnable
    | tripClear | thresholds | thmModel | holdupMin | samplerRestore | regRead | samplerRead | journalRead | resultRead | deltaRead |
    patchRead | elementRead | commitList | historyRead | fabricCommit | wlmCfg => exact spares_serve ..
  case doorbell | mbxCplHead | mbxEvtHead | reopenRing0 | dmaError | msixModerationTimeout | remoteDatagram | smbusBlockRead | alertResponse
    | tbSnap | tbCntRead | tbPpsCtrlWrite | tbCmpFiredClear | fcStickyClear | fcWireClear | rearm | pmcCtrlWrite | pmcLoad | pmcOvfClear |
    pmcPreHiWrite | pmcCntLoRead | railExcursion | railReturn | vkeepLoss | pcieReset | defaultTargetAccess | watchdogExpiry | coreResume |
    debugHalt | debugResume | faultClear | collectorParityError | faultNTimeout | keeperCrcCheck | epochStrobe | zeroCodeEpoch | settlingEnd
    | verifyDeadline | prickingEntryStrobe | prickingCycleBoundary | ppsOutEdge | ppsPulseEnd | refreshOrigin | ledgerMinuteBoundary |
    ledgerMinuteClose | heldEventSweep | anchorRewrite | tbWrap | holdoverLimitExpiry | restoreIdle | tileUpdate | injReload | disarm |
    eyeletDark | tambourNop | reservedOperation | tambourStop | forcedStop | uncorrectableEcc | patchScrub | tambourResume | holdRelease |
    ditherWindow | needleSlewStep | deglitchRelease | heaterSlewStep | rangeHoldEnd | heaterSumOver | adcConversionTimeout |
    regularPassStart | lockinWindowEnd | loopHoldTimeout | capJob | fieldRefinement | calRoundStart | adcSelfCalEnd | refOkSet |
    referenceFallback | diodePass | zoneMean | diodeCrossCheck | dieSensorRead | thermistorRead | throttleStep | pwmReload | setpointAverage
    | setpointSourceLost | sliceRebuilt | journalBurst | holdupRetry | historySecond | windowBoundary | counterOverflow | intakeTimeout |
    provingEnd | helloSend | helloTimeout | laneLockLoss | routeAdvertise | triggeredUpdate | routeExpiry | readyDeadline | goSendDeadline |
    goDeadline | fabricOutcomeTimeout | darkNoticeRepeat | timeCheckSend | telemetrySend | imageAuthenticated | lpddr4xTrained |
    firstWriteDone | ring0Open | historyStoreReady | tokenRefill | delayRequestResponse | pcieLinkUp | powerManagementState |
    neighbourLagUpdate | htrSumUpdate | phaseAccumulatorTick => exact spares_act ..

/-- Settles O3: `exec_keeps` row by row for the first two claims, `exec_spares` for the third. -/
theorem rowsCompleteAndKeepTheQueue : Obligations.RowsCompleteAndKeepTheQueue := by
  unfold Obligations.RowsCompleteAndKeepTheQueue
  refine ⟨fun i s => ?_, fun i s t ht => ?_, fun i s t h e ht => (exec_spares s e).calm_of_next t ht⟩
  · obtain ⟨t, ht, -⟩ := exec_keeps i s
    exact ⟨t, ht⟩
  · obtain ⟨u, hu, hf⟩ := exec_keeps i s
    cases ht.symm.trans hu
    obtain ⟨hq, hs⟩ := State.frame_iff.mp hf
    exact ⟨hq, fun k => Prod.ext_iff.mp (hs k)⟩

end Sys2Proof.Machine
end

section
/-!
SUPPORT. The reset state meets the invariants: the statement O8.
-/

namespace Sys2Proof.Machine
open Sys2Proof
/-- Settles O8: every conjunct is a closed fact about the reset state. -/
theorem resetMeetsTheInvariants : Obligations.ResetMeetsTheInvariants := by
  unfold Obligations.ResetMeetsTheInvariants
  exact ⟨rfl, rfl, rfl, rfl, rfl⟩
end Sys2Proof.Machine
end

section
/-!
SUPPORT. A source that asserts and one that is released (R278), and what a row's own operation says at once of the blocks that `settle` leaves alone
and of the fault collector.
-/

namespace Sys2Proof.Machine
open Sys2Proof

theorem Hoop.src_of_lines {x y : Hoop} (h : y.lines = x.lines) (k : Nat) : y.src k = x.src k := by
  have hl : y.lines.src = x.lines.src := by rw [h]
  exact congrArg (smGet ({} : Src) · k) hl

@[simp] theorem Hoop.setSrc_src_self (x : Hoop) (k : Nat) (v : Src) : (x.setSrc k v).src k = v := by
  simp only [Hoop.src, Hoop.setSrc, smGet_smSet_self]

theorem Fc.src_withFirst (f : Fc) (w : Word) (t : Stamp) (n : Nat) (b : Bool) :
    ({ f with first := w, firstTime := t, firstAt := n, firstNew := b } : Fc).src = f.src := rfl

theorem Fc.src_withLast (f : Fc) (w : Word) (t : Stamp) (n : Nat) : ({ f with last := w, lastTime := t, newCnt := n } : Fc).src = f.src := rfl

theorem capture_fc_src (s sev : Nat) (wire : Bool) (x : Hoop) : (capture s sev wire x).fc.src = x.fc.src := by
  unfold capture
  extract_lets w f y
  split
  · exact (Fc.src_withFirst ..).trans (Fc.src_withLast ..)
  · exact Fc.src_withLast ..

/-- A new fault's capture in FC_FIRST and FC_LAST leaves the sources themselves. -/
theorem capture_src (s sev : Nat) (wire : Bool) (x : Hoop) (k : Nat) : (capture s sev wire x).src k = x.src k :=
  congrArg (smGet ({} : Src) · k) (capture_fc_src s sev wire x)

@[simp] theorem prkPay_lines (i at_ : Nat) (ok : Bool) (x : Hoop) : (prkPay i at_ ok x).lines = x.lines := by
  unfold prkPay
  split
  · rfl
  · split
    · rfl
    · split <;> rfl

@[simp] theorem darkEyelet_lines (i cause src : Nat) (x : Hoop) : (darkEyelet i cause src x).lines = x.lines := by
  unfold darkEyelet
  extract_lets y
  have hy : y.lines = x.lines := darkThread_lines i cause 0 src x
  split
  · exact (prkPay_lines i y.now false y).trans hy
  · exact hy

/-- The reaction of a severity leaves the sources themselves. -/
theorem react_src (s det sev : Nat) (x : Hoop) (k : Nat) : (react s det sev x).src k = x.src k := by
  unfold react
  extract_lets f y z
  have hy : y.src k = x.src k := by
    show (if _ then _ else _ : Hoop).src k = _
    split
    · exact Hoop.src_of_lines (msixSend_lines ..) k
    · rfl
  have hz : z.src k = y.src k := by
    show (if _ then _ else _ : Hoop).src k = _
    split
    · exact Hoop.src_of_lines (foldl_keeps Hoop.lines _ (fun _ _ => darkEyelet_lines ..) _ y) k
    · rfl
  split <;> exact hz.trans hy

theorem faultRecord_src_live (s sev : Nat) (wire : Bool) (extra : List Nat) (x : Hoop) :
    ((faultRecord s sev wire extra x).src s).live = (x.src s).live := by
  unfold faultRecord
  extract_lets v sec num
  split
  · rfl
  · rw [Hoop.src_of_lines (jnlPut_lines ..), Hoop.setSrc_src_self]

/-- A source that the part has is live once it asserts (R278). -/
theorem fault_live {s : Nat} (det : Nat) {x : Hoop} (hs : x.hasSrc s = true) : ((fault s det x).src s).live = true := by
  unfold fault faultOn
  split
  next hnone => simp [Hoop.hasSrc, hnone] at hs
  next sev _ =>
    extract_lets v y z u w
    split
    next hstill =>
      have hv : (v.live && v.det == BitVec.ofNat 13 det) = true := by simpa [hs] using hstill
      exact (Bool.and_eq_true_iff.mp hv).1
    next =>
      have hw : w.src s = y.src s :=
        (Hoop.src_of_lines (raiseEv_lines ..) s).trans ((Hoop.src_of_lines (pmcRaw_lines ..) s).trans (capture_src ..))
      rw [react_src, faultRecord_src_live, hw, Hoop.setSrc_src_self]

/-- A source whose rails do not agree is not live once its condition ends (R277, R278). -/
theorem faultOff_not_live {s : Nat} {x : Hoop} (ha : (x.src s).agree = false) : ((faultOff s x).src s).live = false := by
  unfold faultOff
  extract_lets v
  split
  · rw [Hoop.src_of_lines (raiseEv_lines ..), Hoop.src_of_lines (jnlPut_lines ..), Hoop.setSrc_src_self]
  next hoff => simpa [v, ha] using hoff

/-- What the row's own operation says of the blocks that `settle` leaves alone and of the fault collector holds after the row. -/
theorem gives_act_lines {i : Instr} {s : State} {h : HoopId} {x : Hoop} {P : Hoop → Prop} (f : Hoop → Hoop) (e : s.here h x)
    (hx : exec i s = .next (s.act h f)) (hP : ∀ y : Hoop, y.calm = (f x).calm → y.lines = (f x).lines → P y) : CompletesWith i s h P := by
  obtain ⟨e, rfl⟩ := e
  exact ⟨_, hx, hP _ (act_calm s h f e) (act_lines s h f e)⟩

/-- What the row's own operation says of the blocks that `settle` leaves alone, and in a quiet module of the core, holds after the row. -/
theorem gives_act_core {i : Instr} {s : State} {h : HoopId} {x : Hoop} {P : Hoop → Prop} (f : Hoop → Hoop) (e : s.here h x)
    (hx : exec i s = .next (s.act h f)) (hp : (f x).part = x.part) (hs : (f x).fc.src = x.fc.src) (hk : (f x).dk.fcPar = x.dk.fcPar)
    (hP : ∀ y : Hoop, y.calm = (f x).calm → (s.quiet = true → y.core = (f x).core) → P y) : CompletesWith i s h P := by
  obtain ⟨e, rfl⟩ := e
  exact ⟨_, hx, hP _ (act_calm s h f e) fun q => act_core s h f e (quiet_upd s h f q hp hs hk)⟩

end Sys2Proof.Machine
end

section
/-!
SUPPORT. The history store (R28, R299, R300): what each of its operations makes of the store's block, and what it leaves alone.
-/

namespace Sys2Proof.Machine
open Sys2Proof

theorem Hoop.lines_withHist (x : Hoop) (b : Hist) : ({ x with hist := b } : Hoop).lines = x.lines := rfl

theorem histEvent_hist (x : Hoop) : (histEvent x).hist = x.hist := raiseEv_hist ..

/-- A store in use: present, not failed, source 199 not raised (R300). -/
def Hoop.storeUsable (x : Hoop) : Bool := x.hist.present && !x.hist.failed && !(x.src 199).live

theorem Hoop.storeUsable_of {x : Hoop} (hp : x.hist.present = true) (hf : x.hist.failed = false) (hl : (x.src 199).live = false) :
    x.storeUsable = true := by simp [Hoop.storeUsable, hp, hf, hl]

/-- What a second leaves for the store (R299): its summaries, and the snapshot where one waits. -/
def secondEntry (deferred : Bool) (x : Hoop) : Nat × Bytes × Bytes :=
  let sec := (x.tb.ptpOf x.now + 100) / 1000000000 - 1
  (sec, summaries x sec deferred, match x.hist.snap with | some q => q.2 | none => [])

/-- The second's entry waits behind those that wait already. -/
def queueSecond (deferred : Bool) (x : Hoop) : Hoop :=
  let y := { x with hist := { x.hist with
    chStats := [], snap := none, pendingSecs := x.hist.pendingSecs ++ [secondEntry deferred x], deferring := deferred } }
  if x.hist.deferring != deferred then histEvent y else y

/-- Queuing changes the store's block, and tells of a change of deferral. -/
theorem queueSecond_untold (deferred : Bool) (x : Hoop) : (queueSecond deferred x).untold = ({ x with hist := { x.hist with
    chStats := [], snap := none, pendingSecs := x.hist.pendingSecs ++ [secondEntry deferred x], deferring := deferred } } : Hoop).untold := by
  unfold queueSecond
  extract_lets
  split
  · exact raiseEv_untold ..
  · rfl

theorem queueSecond_hist (deferred : Bool) (x : Hoop) : (queueSecond deferred x).hist = { x.hist with
    chStats := [], snap := none, pendingSecs := x.hist.pendingSecs ++ [secondEntry deferred x], deferring := deferred } := by
  have e := congrArg Hoop.hist (queueSecond_untold deferred x)
  exact e

theorem queueSecond_part (deferred : Bool) (x : Hoop) : (queueSecond deferred x).part = x.part := by
  have e := congrArg Hoop.part (queueSecond_untold deferred x)
  exact e

theorem queueSecond_lines (deferred : Bool) (x : Hoop) : (queueSecond deferred x).lines = x.lines := by
  have e := congrArg Hoop.lines (queueSecond_untold deferred x)
  exact e

/-- With a store in use the second is queued, and then the store is written, or the ledger alone, or the write fails. -/
theorem historySecond_usable (deferred writeFail : Bool) {x : Hoop} (hu : x.storeUsable = true) : historySecond deferred writeFail x =
    let d := deferred && x.mayDefer
    let y := queueSecond d x
    if writeFail then
      if 1 ≤ y.hist.badWrites then histFail y else overflowHistory { y with hist := { y.hist with badWrites := y.hist.badWrites + 1 } }
    else if d then overflowHistory (pmcRaw 225 1 (writeLedger y))
    else faultOff 200 (writeHistory y) := by
  unfold Hoop.storeUsable at hu
  unfold historySecond
  simp only [hu]
  rfl

/-! ## The writes -/

theorem writeHistory_hist (x : Hoop) : (writeHistory x).hist = { x.hist with
    summaries := keepLast (summaryCap x) (x.hist.summaries ++ x.hist.pendingSecs.map (fun q => (q.1, q.2.1)))
    counters := keepLast 1953125 (x.hist.counters ++ (x.hist.pendingSecs.filter (fun q => !q.2.2.isEmpty)).map (fun q => (q.1, q.2.2)))
    ledger := keepLast 62500000 (x.hist.ledger ++ x.hist.pendingLed), pendingSecs := [], pendingLed := [], badWrites := 0 } := by
  unfold writeHistory
  extract_lets
  rw [pmcRaw_hist]

theorem writeHistory_lines (x : Hoop) : (writeHistory x).lines = x.lines :=
  (pmcRaw_lines ..).trans (Hoop.lines_withHist ..)

theorem writeLedger_hist (x : Hoop) : (writeLedger x).hist = { x.hist with
    ledger := keepLast 62500000 (x.hist.ledger ++ x.hist.pendingLed), pendingLed := [] } := pmcRaw_hist ..

theorem writeLedger_part (x : Hoop) : (writeLedger x).part = x.part := pmcRaw_part ..

/-- Seconds that fit the deferral buffer all stay in it (R300). -/
theorem overflowHistory_fits {x : Hoop} (h : x.hist.pendingSecs.length ≤ deferCap x) : overflowHistory x = x := by
  unfold overflowHistory
  split
  · exact if_neg (Nat.not_lt.mpr h)
  · rfl

theorem histFail_hist (x : Hoop) : (histFail x).hist = { x.hist with failed := true, pendingSecs := [], pendingLed := [] } :=
  (fault_hist ..).trans (histEvent_hist _)

/-- Every part has source 199, the failure of the store (R276). -/
theorem Hoop.hasSrc_storeFailure (x : Hoop) : x.hasSrc 199 = true := rfl

theorem histFail_live (x : Hoop) : ((histFail x).src 199).live = true := fault_live noDet (Hoop.hasSrc_storeFailure _)

/-- The number of channels, and so of seconds that fit, is the part's alone. -/
theorem deferCap_of_part {x y : Hoop} (h : y.part = x.part) : deferCap y = deferCap x := by simp only [deferCap, h]

theorem summaryCap_of {x y : Hoop} (hp : y.part = x.part) (hc : y.hist.capacity = x.hist.capacity) : summaryCap y = summaryCap x := by
  simp only [summaryCap, hp, hc]

theorem passRates_hist (x : Hoop) : (passRates x).hist = x.hist := by
  unfold passRates
  exact foldl_keeps Hoop.hist _ (fun _ _ => Hoop.updGroup_hist ..) _ x

theorem passRates_fc (x : Hoop) : (passRates x).fc = x.fc := by
  unfold passRates
  exact foldl_keeps Hoop.fc _ (fun _ _ => Hoop.updGroup_fc ..) _ x

/-! ## A second (R299) -/

/-- A second that is not deferred: the store takes its entry with all that waits. -/
theorem historySecond_written_hist {x : Hoop} (hu : x.storeUsable = true) : (historySecond false false x).hist = { x.hist with
    chStats := [], snap := none, deferring := false, pendingSecs := [], pendingLed := [], badWrites := 0
    summaries := keepLast (summaryCap x) (x.hist.summaries ++ (x.hist.pendingSecs ++ [secondEntry false x]).map (fun q => (q.1, q.2.1)))
    counters := keepLast 1953125 (x.hist.counters ++
      ((x.hist.pendingSecs ++ [secondEntry false x]).filter (fun q => !q.2.2.isEmpty)).map (fun q => (q.1, q.2.2)))
    ledger := keepLast 62500000 (x.hist.ledger ++ x.hist.pendingLed) } := by
  have hcap : summaryCap (queueSecond false x) = summaryCap x := summaryCap_of (queueSecond_part ..) (by rw [queueSecond_hist])
  rw [historySecond_usable false false hu]
  exact (faultOff_hist ..).trans ((writeHistory_hist _).trans (by rw [Bool.false_and, hcap, queueSecond_hist]))

/-- Source 200, the overflow of the deferral buffer, ends with the write (R300). -/
theorem historySecond_written_overflow {x : Hoop} (hu : x.storeUsable = true) (ha : (x.src 200).agree = false) :
    ((historySecond false false x).src 200).live = false := by
  rw [historySecond_usable false false hu]
  refine faultOff_not_live ?_
  rw [Hoop.src_of_lines ((writeHistory_lines _).trans (queueSecond_lines ..)), ha]

/-- A second that is deferred and fits the buffer waits there; the ledger's records are written (R28). -/
theorem historySecond_deferred_hist {x : Hoop} (hu : x.storeUsable = true) (hd : x.mayDefer = true)
    (hfit : x.hist.pendingSecs.length < deferCap x) : (historySecond true false x).hist = { x.hist with
      chStats := [], snap := none, deferring := true, pendingSecs := x.hist.pendingSecs ++ [secondEntry true x], pendingLed := []
      ledger := keepLast 62500000 (x.hist.ledger ++ x.hist.pendingLed) } := by
  let y := pmcRaw 225 1 (writeLedger (queueSecond true x))
  have hy : y.hist = { x.hist with
      chStats := [], snap := none, deferring := true, pendingSecs := x.hist.pendingSecs ++ [secondEntry true x], pendingLed := []
      ledger := keepLast 62500000 (x.hist.ledger ++ x.hist.pendingLed) } :=
    (pmcRaw_hist ..).trans ((writeLedger_hist _).trans (by rw [queueSecond_hist]))
  have hcap : deferCap y = deferCap x :=
    deferCap_of_part ((pmcRaw_part ..).trans ((writeLedger_part _).trans (queueSecond_part ..)))
  have hroom : y.hist.pendingSecs.length ≤ deferCap y := by
    rw [hy, hcap, List.length_append]
    exact hfit
  rw [historySecond_usable true false hu, hd]
  show (overflowHistory y).hist = _
  rw [overflowHistory_fits hroom, hy]

/-- The second write in a row that fails ends the store (R300). -/
theorem historySecond_fails (deferred : Bool) {x : Hoop} (hu : x.storeUsable = true) (hb : 1 ≤ x.hist.badWrites) :
    historySecond deferred true x = histFail (queueSecond (deferred && x.mayDefer) x) := by
  have hq : 1 ≤ (queueSecond (deferred && x.mayDefer) x).hist.badWrites := by rwa [queueSecond_hist]
  rw [historySecond_usable deferred true hu]
  exact if_pos hq

/-! ## The store at boot (R298, R453) -/

/-- A store of a capacity in range is taken into use; a header that fails its check is written afresh and empties the rings. -/
theorem storeReady_present_hist (hdrOk : Bool) {capacity : Nat} {x : Hoop} (hp : x.hist.present = false) (hl : (x.src 199).live = false)
    (hlo : 64000000000 ≤ capacity) (hhi : capacity ≤ 8000000000000) : (storeReady true hdrOk capacity x).hist =
      { (if hdrOk then x.hist else { x.hist with summaries := [], counters := [], ledger := [] }) with present := true, capacity := capacity } := by
  unfold storeReady
  rw [if_neg (by simp [hp, hl]), if_neg (by simp; omega)]
  exact (histEvent_hist _).trans (raiseEv_hist ..)

theorem storeReady_absent (hdrOk : Bool) (capacity : Nat) {x : Hoop} (hp : x.hist.present = false) (hl : (x.src 199).live = false) :
    storeReady false hdrOk capacity x = fault 199 noDet (histEvent (raiseEv 563 [0, 2] .hoop x)) := by
  unfold storeReady
  rw [if_neg (by simp [hp, hl])]
  exact if_pos rfl

/-! ## The row of a second -/

/-- The row of a second: its operation, then PASS_RATE of each group, which leaves the store and the fault collector. -/
theorem gives_historySecond {s : State} {h : HoopId} {x : Hoop} {deferred writeFail : Bool} {P : Hoop → Prop} (e : s.here h x)
    (hP : ∀ y : Hoop, y.hist = (historySecond deferred writeFail x).hist → (∀ k, y.src k = (historySecond deferred writeFail x).src k) → P y) :
    CompletesWith (.historySecond h deferred writeFail) s h P := by
  refine gives_act_lines (fun x => passRates (historySecond deferred writeFail x)) e rfl fun y hcalm hlines => hP y ?_ fun k => ?_
  · exact (Hoop.hist_of_calm hcalm).trans (passRates_hist _)
  · exact Hoop.src_of_lines (hlines.trans (lines_of_fc _ _ (passRates_fc _))) k

end Sys2Proof.Machine
end

section
/-!
SUPPORT. The ledger's minutes (R385 to R389): what charging the running intervals may change, what the close of a minute makes of its records, and
what the boundary makes of the next minute.
-/

namespace Sys2Proof.Machine
open Sys2Proof

/-! ## Charging -/

/-- `y` is `x` with its intervals charged: records of the open and of the closing minute and the running intervals may differ. -/
def Charged (x y : Hoop) : Prop := ∃ opened closing runs, y = { x with led := { x.led with openRecs := opened, closing := closing, runs := runs } }

theorem Charged.refl (x : Hoop) : Charged x x := ⟨_, _, _, rfl⟩

theorem Charged.trans {x y z : Hoop} (hxy : Charged x y) (hyz : Charged y z) : Charged x z := by
  obtain ⟨_, _, _, rfl⟩ := hxy
  obtain ⟨_, _, _, rfl⟩ := hyz
  exact ⟨_, _, _, rfl⟩

theorem prkPay_charged (i at_ : Nat) (ok : Bool) (x : Hoop) : Charged x (prkPay i at_ ok x) := by
  unfold prkPay
  split
  · exact .refl x
  · split
    · exact .refl x
    · split
      · exact .refl x
      · exact ⟨_, _, _, rfl⟩

/-- Settling the open pricked eyelets charges them, and notes the count. -/
theorem payAll_charged (at_ : Nat) (x : Hoop) : ∃ y, Charged x y ∧ payAll at_ x = y.updPrk (fun p => { p with occFrom := max p.occFrom at_ }) :=
  ⟨_, foldl_holds (P := Charged x) (fun y i hy => hy.trans (prkPay_charged i at_ true y)) x.prk.lit x (.refl x), rfl⟩

/-- What a running interval that began before `cut` still holds before it goes to the closing minute `m`, not counted (R388). -/
def cutRun (m cut : Nat) (x : Hoop) (q : Nat × Interval) : Hoop :=
  if q.2.start < cut then
    { x with led := { x.led with
      closing := addLed m (x.thread q.1).tenant (ledPiece q.1 false false (cut - q.2.start) 0) x.led.closing
      runs := smPut x.led.runs q.1 { start := cut, verFrom := q.2.verFrom.map (max cut) } } }
  else x

theorem cutRun_charged (m cut : Nat) (x : Hoop) (q : Nat × Interval) : Charged x (cutRun m cut x q) := by
  unfold cutRun
  split
  · exact ⟨_, _, _, rfl⟩
  · exact .refl x

theorem cutRuns_charged (m cut : Nat) (l : List (Nat × Interval)) (x : Hoop) : Charged x (l.foldl (cutRun m cut) x) :=
  foldl_holds (P := Charged x) (fun y q hy => hy.trans (cutRun_charged m cut y q)) l x (.refl x)

/-! ## The close -/

/-- The records that a minute closes with: those with time, with the conditions of the minute (R388, R389). -/
def closingRecs (x : Hoop) : List LedRec :=
  (x.led.closing.filter LedRec.hasTime).map (fun r => { r with flags := x.led.closingFlags, utc := x.tb.pri.utc })

theorem closingRecs_mem {x : Hoop} {r : LedRec} (hr : r ∈ closingRecs x) : r.hasTime = true ∧ r.flags = x.led.closingFlags := by
  obtain ⟨r', hr', rfl⟩ := List.mem_map.mp hr
  exact ⟨(List.mem_filter.mp hr').2, rfl⟩

/-- The minute `m` is closed with its records, which wait for the history store. -/
def putMinute (m : Nat) (x : Hoop) : Hoop :=
  { x with
    led := { x.led with closing := [], closingMin := none, closed := (x.led.closed ++ [(m, closingRecs x)]).drop (x.led.closed.length + 1 - 60) }
    hist := { x.hist with pendingLed := x.hist.pendingLed ++ (closingRecs x).map (fun r => (m, ledBytes r)) } }

theorem closeMinute_none {x : Hoop} (h : x.led.closingMin = none) : closeMinute x = x := by
  unfold closeMinute
  rw [h]

theorem closeMinute_some {x : Hoop} {m : Nat} (h : x.led.closingMin = some m) :
    closeMinute x = raiseEv 33 [m, (closingRecs (x.led.runs.foldl (cutRun m x.minuteStart) x)).length] .hoop
      (putMinute m (x.led.runs.foldl (cutRun m x.minuteStart) x)) := by
  unfold closeMinute
  rw [h]
  rfl

theorem Hoop.led_of_core {x y : Hoop} (h : x.core = y.core) : x.led = y.led := by
  have e := congrArg Hoop.led h
  exact e

@[simp] theorem raiseEv_led (src : Nat) (p : List Nat) (sc : Scope) (x : Hoop) : (raiseEv src p sc x).led = x.led := Hoop.led_of_core (raiseEv_core ..)

/-- What a minute's close leaves: no record is open to it any more, its records stand among the closed ones and wait for the store. -/
theorem closeMinute_closes {x : Hoop} {m : Nat} (h : x.led.closingMin = some m) :
    (closeMinute x).led.closingMin = none ∧ (closeMinute x).led.closing = [] ∧
    ∃ recs, (∀ r ∈ recs, r.hasTime = true ∧ r.flags = x.led.closingFlags) ∧
      (closeMinute x).led.closed = (x.led.closed ++ [(m, recs)]).drop (x.led.closed.length + 1 - 60) ∧
      (closeMinute x).hist.pendingLed = x.hist.pendingLed ++ recs.map (fun r => (m, ledBytes r)) := by
  have hcut := cutRuns_charged m x.minuteStart x.led.runs x
  rw [closeMinute_some h, raiseEv_led, raiseEv_hist]
  generalize x.led.runs.foldl (cutRun m x.minuteStart) x = y at hcut
  obtain ⟨_, _, _, hy⟩ := hcut
  refine ⟨rfl, rfl, closingRecs y, fun r hr => ?_, ?_, ?_⟩
  · obtain ⟨htime, hflags⟩ := closingRecs_mem hr
    exact ⟨htime, by rw [hflags, hy]⟩
  · show (y.led.closed ++ [(m, closingRecs y)]).drop (y.led.closed.length + 1 - 60) = _
    rw [show y.led.closed = x.led.closed by rw [hy]]
  · show y.hist.pendingLed ++ _ = _
    rw [show y.hist.pendingLed = x.hist.pendingLed by rw [hy]]

/-! ## What a minute's turn keeps -/

/-- What the turn of a minute reads and leaves: the part, the clock but for its comparators, the fault collector, the keeper. -/
def Hoop.gear (x : Hoop) : Part × Tb × Fc × Dk := (x.part, { x.tb with cmps := [], heldEvents := [] }, x.fc, x.dk)

/-- The gear with the open minute and its conditions, which only the boundary moves on. -/
def Hoop.dial (x : Hoop) : (Part × Tb × Fc × Dk) × Nat × BitVec 16 := (x.gear, x.led.minute, x.led.flags)

theorem Hoop.gear_of_dial {x y : Hoop} (h : x.dial = y.dial) : x.gear = y.gear := congrArg Prod.fst h
theorem Hoop.minute_of_dial {x y : Hoop} (h : x.dial = y.dial) : x.led.minute = y.led.minute := congrArg (·.2.1) h
theorem Hoop.flags_of_dial {x y : Hoop} (h : x.dial = y.dial) : x.led.flags = y.led.flags := congrArg (·.2.2) h

theorem Hoop.dial_of_untold {x y : Hoop} (h : x.untold = y.untold) : x.dial = y.dial := by
  have e := congrArg Hoop.dial h
  exact e

/-- The gear holds what keeps a module quiet. -/
theorem Hoop.of_gear {x y : Hoop} (h : x.gear = y.gear) : x.part = y.part ∧ x.fc.src = y.fc.src ∧ x.dk.fcPar = y.dk.fcPar :=
  ⟨congrArg (·.1) h, congrArg (·.2.2.1.src) h, congrArg (·.2.2.2.fcPar) h⟩

theorem minuteOf_of_gear {x y : Hoop} (h : x.gear = y.gear) : minuteOf x = minuteOf y := by
  have ht : ({ x.tb with cmps := [], heldEvents := [] } : Tb) = { y.tb with cmps := [], heldEvents := [] } := congrArg (·.2.1) h
  have hm := congrArg (fun t : Tb => (t.ptpOf t.now + 100) / 60000000000 * 60) ht
  exact hm

theorem minuteFlags_of_gear {x y : Hoop} (h : x.gear = y.gear) : minuteFlags x = minuteFlags y := by
  have hv : x.tb.timeValid = y.tb.timeValid := congrArg (·.2.1.timeValid) h
  have hf : x.dk.force = y.dk.force := congrArg (·.2.2.2.force) h
  unfold minuteFlags
  rw [hv, hf]

theorem Charged.dial {x y : Hoop} (h : Charged x y) : y.dial = x.dial := by
  obtain ⟨_, _, _, rfl⟩ := h
  rfl

theorem cmpFire_dial (k : Nat) (x : Hoop) : (cmpFire k x).dial = x.dial := rfl

theorem payAll_dial (at_ : Nat) (x : Hoop) : (payAll at_ x).dial = x.dial := by
  obtain ⟨y, hy, h⟩ := payAll_charged at_ x
  rw [h]
  exact hy.dial

theorem putMinute_dial (m : Nat) (x : Hoop) : (putMinute m x).dial = x.dial := rfl

theorem closeMinute_dial (x : Hoop) : (closeMinute x).dial = x.dial := by
  cases h : x.led.closingMin with
  | none => rw [closeMinute_none h]
  | some m =>
    rw [closeMinute_some h]
    exact (Hoop.dial_of_untold (raiseEv_untold ..)).trans ((putMinute_dial ..).trans (cutRuns_charged ..).dial)

theorem Hoop.dial_withCmps (x : Hoop) (c : SMap Cmp) (l : List (Nat × Nat)) :
    ({ x with tb := { x.tb with cmps := c, heldEvents := l } } : Hoop).dial = x.dial := rfl

theorem Hoop.led_withTb (x : Hoop) (t : Tb) : ({ x with tb := t } : Hoop).led = x.led := rfl

/-- Arming holds the instant, sets the comparator, or reports that it is too near (R69). -/
theorem armAt_cases (k ns : Nat) (x : Hoop) : (∃ c l, armAt k ns x = { x with tb := { x.tb with cmps := c, heldEvents := l } }) ∨
    ∃ p, armAt k ns x = raiseEv 68 p .hoop x := by
  unfold armAt
  extract_lets c
  split
  · exact .inl ⟨_, _, rfl⟩
  · split
    next y hy =>
      unfold cmpArm at hy
      split at hy
      · cases hy
        exact .inl ⟨_, _, rfl⟩
      · cases hy
    next => exact .inr ⟨_, rfl⟩

theorem armAt_dial (k ns : Nat) (x : Hoop) : (armAt k ns x).dial = x.dial := by
  rcases armAt_cases k ns x with ⟨c, l, h⟩ | ⟨p, h⟩
  · rw [h, Hoop.dial_withCmps]
  · rw [h]
    exact Hoop.dial_of_untold (raiseEv_untold ..)

theorem armAt_led (k ns : Nat) (x : Hoop) : (armAt k ns x).led = x.led := by
  rcases armAt_cases k ns x with ⟨c, l, h⟩ | ⟨p, h⟩
  · rw [h, Hoop.led_withTb]
  · rw [h, raiseEv_led]

/-! ## The boundary -/

/-- The open minute begins to close. -/
def turnMinute (x : Hoop) : Hoop :=
  { x with led := { x.led with closing := x.led.openRecs, closingMin := some x.led.minute, closingFlags := x.led.flags, openRecs := [] } }

theorem minuteBoundary_due {x : Hoop} (h : cmpDue x 14 = true) :
    minuteBoundary x = startMinutes (turnMinute (payAll x.now (closeMinute (cmpFire 14 x)))) := by
  unfold minuteBoundary
  exact if_neg (by simp [h])

theorem startMinutes_led (x : Hoop) : (startMinutes x).led = { x.led with minute := minuteOf x, flags := minuteFlags x } := armAt_led ..

theorem Hoop.gear_withLed (x : Hoop) (l : Ledger) : ({ x with led := l } : Hoop).gear = x.gear := rfl

theorem startMinutes_gear (x : Hoop) : (startMinutes x).gear = x.gear :=
  (Hoop.gear_of_dial (armAt_dial ..)).trans (Hoop.gear_withLed ..)

theorem turnMinute_gear (x : Hoop) : (turnMinute x).gear = x.gear := rfl

/-- At the boundary the minute before is closed and every open interval charged; the dial still shows the minute that ends. -/
theorem minuteEnd_dial (x : Hoop) : (payAll x.now (closeMinute (cmpFire 14 x))).dial = x.dial :=
  (payAll_dial ..).trans ((closeMinute_dial _).trans (cmpFire_dial ..))

theorem minuteBoundary_gear (x : Hoop) : (minuteBoundary x).gear = x.gear := by
  cases h : cmpDue x 14 with
  | false =>
    unfold minuteBoundary
    rw [if_pos (by simp [h])]
  | true =>
    rw [minuteBoundary_due h]
    exact (startMinutes_gear _).trans ((turnMinute_gear _).trans (Hoop.gear_of_dial (minuteEnd_dial x)))

/-- The minute that was open closes with its conditions, and the next one opens with no record and with the conditions that hold now (R388, R389). -/
theorem minuteBoundary_led {x : Hoop} (h : cmpDue x 14 = true) : (minuteBoundary x).led.closingMin = some x.led.minute ∧
    (minuteBoundary x).led.minute = minuteOf x ∧ (minuteBoundary x).led.openRecs = [] ∧ (minuteBoundary x).led.flags = minuteFlags x ∧
    (minuteBoundary x).led.closingFlags = x.led.flags := by
  have hdial := minuteEnd_dial x
  rw [minuteBoundary_due h, startMinutes_led]
  generalize payAll x.now (closeMinute (cmpFire 14 x)) = y at hdial
  have hgear : (turnMinute y).gear = x.gear := Hoop.gear_of_dial hdial
  exact ⟨congrArg some (Hoop.minute_of_dial hdial), minuteOf_of_gear hgear, rfl, minuteFlags_of_gear hgear, Hoop.flags_of_dial hdial⟩

/-! ## The row of a minute's close -/

/-- The minute's close 10 ms after its end, and not before. -/
def closeDue (x : Hoop) : Hoop := if x.minuteStart + 10000000 ≤ x.now then closeMinute x else x

theorem closeDue_due {x : Hoop} (h : x.minuteStart + 10000000 ≤ x.now) : closeDue x = closeMinute x := if_pos h

theorem closeDue_gear (x : Hoop) : (closeDue x).gear = x.gear := by
  unfold closeDue
  split
  · exact Hoop.gear_of_dial (closeMinute_dial x)
  · rfl

theorem Hoop.closingMin_of_calm {x y : Hoop} (h : x.calm = y.calm) : x.led.closingMin = y.led.closingMin := by
  have e := congrArg (fun z : Hoop => z.led.closingMin) h
  exact e

theorem Hoop.closed_of_calm {x y : Hoop} (h : x.calm = y.calm) : x.led.closed = y.led.closed := by
  have e := congrArg (fun z : Hoop => z.led.closed) h
  exact e

end Sys2Proof.Machine
end

section
/-!
SUPPORT. The history store and the ledger's minutes: the statement O43.
-/

namespace Sys2Proof.Machine
open Sys2Proof

/-- Settles O43: each row's operation on the store's or the ledger's block, read through the blocks that `settle` leaves alone, the fault collector,
and in a quiet module the core. -/
theorem historyRows : Obligations.HistoryRows := by
  unfold Obligations.HistoryRows
  refine ⟨?written, ?deferred, ?failed, ?present, ?absent, ?boundary, ?close⟩
  case written =>
    intro s h x sec e hp hf hl hsec
    have hu := Hoop.storeUsable_of hp hf hl
    refine gives_historySecond e fun y hist hsrc => ?_
    rw [hist, historySecond_written_hist hu]
    refine ⟨rfl, rfl, rfl, fun ha => ?_, ?_, by with_reducible rfl⟩
    · rw [hsrc]
      exact historySecond_written_overflow hu ha
    · subst hsec
      simp [secondEntry]
  case deferred =>
    intro s h x e hp hf hl hd hfit
    refine gives_historySecond e fun y hist _ => ?_
    rw [hist, historySecond_deferred_hist (Hoop.storeUsable_of hp hf hl) hd hfit]
    exact ⟨rfl, List.length_append, rfl, rfl⟩
  case failed =>
    intro s h x deferred e hp hf hl hb
    refine gives_historySecond e fun y hist hsrc => ?_
    rw [historySecond_fails deferred (Hoop.storeUsable_of hp hf hl) hb] at hist hsrc
    rw [hist, hsrc, histFail_hist]
    exact ⟨rfl, rfl, histFail_live _⟩
  case present =>
    intro s h x hdrOk cap e hp hl hlo hhi
    refine gives_act (storeReady true hdrOk cap) e rfl fun y hcalm => ?_
    rw [(Hoop.hist_of_calm hcalm).trans (storeReady_present_hist hdrOk hp hl hlo hhi)]
    refine ⟨rfl, rfl, ?_⟩
    cases hdrOk <;> exact ⟨rfl, rfl⟩
  case absent =>
    intro s h x hdrOk cap e hp hl
    refine gives_act_lines (storeReady false hdrOk cap) e rfl fun y hcalm hlines => ?_
    rw [storeReady_absent hdrOk cap hp hl] at hcalm hlines
    refine ⟨?_, ?_⟩
    · exact (Hoop.hist_of_calm hcalm).trans ((fault_hist ..).trans ((histEvent_hist _).trans (raiseEv_hist ..)))
    · rw [Hoop.src_of_lines hlines]
      exact fault_live noDet (Hoop.hasSrc_storeFailure _)
  case boundary =>
    intro s h x e hq hdue
    obtain ⟨hp, hs, hk⟩ := Hoop.of_gear (minuteBoundary_gear x)
    refine gives_core minuteBoundary e hq rfl hp hs hk fun y hcore => ?_
    rw [Hoop.led_of_core hcore]
    exact minuteBoundary_led hdue
  case close =>
    intro s h x m e hm hdue
    obtain ⟨hp, hs, hk⟩ := Hoop.of_gear (closeDue_gear x)
    refine gives_act_core closeDue e rfl hp hs hk fun y hcalm hcore => ?_
    rw [closeDue_due hdue] at hcalm hcore
    obtain ⟨hmin, hclosing, recs, hrecs, hclosed, hled⟩ := closeMinute_closes hm
    refine ⟨(Hoop.closingMin_of_calm hcalm).trans hmin, ⟨recs, (Hoop.closed_of_calm hcalm).trans hclosed, hrecs, ?_⟩, fun q => ?_⟩
    · rw [Hoop.hist_of_calm hcalm, hled]
    · rw [Hoop.led_of_core (hcore q), hclosing]
end Sys2Proof.Machine
end

section
/-!
SUPPORT. The wiring of the lattice and the routes over it (R30 to R33): between two stages a permutation inside equal blocks of wires, at each stage an
output wire of the stitch that the input wire reaches. Then the statement O9.
-/

namespace Sys2Proof.Machine
open Sys2Proof

/-! ## Sizes (R2, R30) -/

theorem ports_eq_two_pow (p : Part) : Config.ports p = 2 ^ Config.lgPorts p := by cases p <;> rfl

theorem seven_le_lgPorts (p : Part) : 7 ≤ Config.lgPorts p := by cases p <;> decide

theorem ports_even (p : Part) : Config.ports p % 2 = 0 := by cases p <;> rfl

theorem two_mul_half_ports (p : Part) : 2 * (Config.ports p / 2) = Config.ports p := by
  have := ports_even p
  omega

/-- The ports split into blocks of equal size, a power of two. -/
theorem ports_div_two_pow (p : Part) {j : Nat} (h : j < Config.lgPorts p) :
    Config.ports p / 2 ^ j = 2 * 2 ^ (Config.lgPorts p - 1 - j) := by
  rw [ports_eq_two_pow, Nat.pow_div (by omega) (by omega), ← Nat.pow_succ']
  congr 1
  omega

/-! ## A map inside blocks -/

/-- The map `f` of positions, inside each block of `b` wires. -/
def inBlock (b : Nat) (f : Nat → Nat) (w : Nat) : Nat := w - w % b + f (w % b)

theorem inBlock_eq (b : Nat) (f : Nat → Nat) (w : Nat) : inBlock b f w = b * (w / b) + f (w % b) := by
  have := Nat.div_add_mod w b
  unfold inBlock
  omega

section
variable {b : Nat} {f : Nat → Nat} (into : ∀ l, l < b → f l < b)
include into

theorem inBlock_div {w : Nat} (hb : 0 < b) : inBlock b f w / b = w / b := by
  rw [inBlock_eq, Nat.mul_add_div hb, Nat.div_eq_of_lt (into _ (Nat.mod_lt w hb)), Nat.add_zero]

theorem inBlock_mod {w : Nat} (hb : 0 < b) : inBlock b f w % b = f (w % b) := by
  rw [inBlock_eq, Nat.mul_add_mod, Nat.mod_eq_of_lt (into _ (Nat.mod_lt w hb))]

theorem inBlock_lt {n w : Nat} (hb : 0 < b) (hn : b ∣ n) (hw : w < n) : inBlock b f w < n := by
  obtain ⟨q, rfl⟩ := hn
  have hq : w / b < q := Nat.div_lt_of_lt_mul hw
  rw [← inBlock_div into hb (w := w), Nat.div_lt_iff_lt_mul hb] at hq
  rwa [Nat.mul_comm]

theorem inBlock_inj {v w : Nat} (hb : 0 < b) (inj : ∀ l k, l < b → k < b → f l = f k → l = k) (h : inBlock b f v = inBlock b f w) : v = w := by
  have hdiv : v / b = w / b := by rw [← inBlock_div into hb, h, inBlock_div into hb]
  have hmod : f (v % b) = f (w % b) := by rw [← inBlock_mod into hb, h, inBlock_mod into hb]
  rw [← Nat.div_add_mod v b, hdiv, inj _ _ (Nat.mod_lt v hb) (Nat.mod_lt w hb) hmod, Nat.div_add_mod]

end

/-! ## The wiring (R32) -/

/-- Upper outputs to the upper half of a block of `2 * c` wires, lower outputs to the lower half. -/
def unshuffle (c l : Nat) : Nat := if l % 2 = 0 then l / 2 else c + (l - 1) / 2

/-- The two halves of a block of `2 * c` wires, merged. -/
def shuffle (c l : Nat) : Nat := if l < c then 2 * l else 2 * (l - c) + 1

theorem unshuffle_lt {c l : Nat} (h : l < 2 * c) : unshuffle c l < 2 * c := by
  unfold unshuffle
  split <;> omega

theorem shuffle_lt {c l : Nat} (h : l < 2 * c) : shuffle c l < 2 * c := by
  unfold shuffle
  split <;> omega

theorem unshuffle_inj {c l k : Nat} (hl : l < 2 * c) (hk : k < 2 * c) (h : unshuffle c l = unshuffle c k) : l = k := by
  unfold unshuffle at h
  split at h <;> split at h <;> omega

theorem shuffle_inj {c l k : Nat} (h : shuffle c l = shuffle c k) : l = k := by
  unfold shuffle at h
  split at h <;> split at h <;> omega

/-- A shuffle moves the position in the half up by one bit. -/
theorem shuffle_half {c l : Nat} (h : l < 2 * c) : shuffle c l / 2 = l % c := by
  unfold shuffle
  split
  · rw [Nat.mod_eq_of_lt ‹_›]; omega
  · rw [Nat.mod_eq_sub_mod (by omega), Nat.mod_eq_of_lt (by omega)]; omega

/-- The ingress half: an unshuffle in blocks that halve at every stage. -/
theorem nextWire_ingress {p : Part} {s : Nat} (w : Nat) (h : s ≤ Config.lgPorts p - 2) :
    nextWire p s w = inBlock (2 * 2 ^ (Config.lgPorts p - 1 - s)) (unshuffle (2 ^ (Config.lgPorts p - 1 - s))) w := by
  have hm := seven_le_lgPorts p
  simp only [nextWire, if_pos h, ports_div_two_pow p (show s < Config.lgPorts p by omega), Nat.mul_div_cancel_left _ Nat.two_pos]
  rfl

/-- The egress half: a shuffle in blocks that double. -/
theorem nextWire_egress {p : Part} {s : Nat} (w : Nat) (h : Config.lgPorts p - 2 < s) :
    nextWire p s w = inBlock (2 * 2 ^ (Config.lgPorts p - 1 - (2 * Config.lgPorts p - 3 - s)))
      (shuffle (2 ^ (Config.lgPorts p - 1 - (2 * Config.lgPorts p - 3 - s)))) w := by
  have hm := seven_le_lgPorts p
  simp only [nextWire, if_neg (Nat.not_le.mpr h), ports_div_two_pow p (show 2 * Config.lgPorts p - 3 - s < Config.lgPorts p by omega),
    Nat.mul_div_cancel_left _ Nat.two_pos]
  rfl

theorem block_dvd_ports (p : Part) (j : Nat) : 2 * 2 ^ (Config.lgPorts p - 1 - j) ∣ Config.ports p := by
  have hm := seven_le_lgPorts p
  rw [ports_eq_two_pow, ← Nat.pow_succ']
  exact Nat.pow_dvd_pow 2 (by omega)

theorem nextWire_lt {p : Part} (s : Nat) {w : Nat} (h : w < Config.ports p) : nextWire p s w < Config.ports p := by
  by_cases hs : s ≤ Config.lgPorts p - 2
  · rw [nextWire_ingress w hs]
    exact inBlock_lt (fun _ => unshuffle_lt) (by positivity) (block_dvd_ports p _) h
  · rw [nextWire_egress w (Nat.not_le.mp hs)]
    exact inBlock_lt (fun _ => shuffle_lt) (by positivity) (block_dvd_ports p _) h

theorem nextWire_inj {p : Part} {s v w : Nat} (h : nextWire p s v = nextWire p s w) : v = w := by
  by_cases hs : s ≤ Config.lgPorts p - 2
  · rw [nextWire_ingress v hs, nextWire_ingress w hs] at h
    exact inBlock_inj (fun _ => unshuffle_lt) (by positivity) (fun _ _ => unshuffle_inj) h
  · rw [nextWire_egress v (Nat.not_le.mp hs), nextWire_egress w (Nat.not_le.mp hs)] at h
    exact inBlock_inj (fun _ => shuffle_lt) (by positivity) (fun _ _ _ _ => shuffle_inj) h

/-! ## Routes (R30 to R33) -/

/-- The output wire that a route takes from input wire `w` of stage `s`. -/
def exitWire (p : Part) (out choice s w : Nat) : Nat :=
  w / 2 * 2 + (if s + 2 ≤ Config.lgPorts p then choice / 2 ^ (Config.lgPorts p - 2 - s) % 2 else out / 2 ^ (2 * Config.lgPorts p - 2 - s) % 2)

theorem routeFrom_succ (p : Part) (out choice k s w : Nat) : routeFrom p out choice (k + 1) s w =
    exitWire p out choice s w :: routeFrom p out choice k (s + 1) (nextWire p s (exitWire p out choice s w)) := rfl

theorem exitWire_half (p : Part) (out choice s w : Nat) : exitWire p out choice s w / 2 = w / 2 := by
  unfold exitWire
  split <;> omega

theorem exitWire_lt {p : Part} (out choice s : Nat) {w : Nat} (h : w < Config.ports p) : exitWire p out choice s w < Config.ports p := by
  have hh := exitWire_half p out choice s w
  have hn := ports_even p
  omega

theorem exitWire_free {p : Part} {s : Nat} (out choice w : Nat) (h : s + 1 < Config.lgPorts p) :
    exitWire p out choice s w % 2 = choice / 2 ^ (Config.lgPorts p - 2 - s) % 2 := by
  unfold exitWire
  rw [if_pos (by omega)]
  omega

theorem exitWire_bound {p : Part} {s : Nat} (out choice w : Nat) (h : Config.lgPorts p ≤ s + 1) :
    exitWire p out choice s w % 2 = out / 2 ^ (2 * Config.lgPorts p - 2 - s) % 2 := by
  unfold exitWire
  rw [if_neg (by omega)]
  omega

@[simp] theorem routeFrom_length (p : Part) (out choice k s w : Nat) : (routeFrom p out choice k s w).length = k := by
  induction k generalizing s w with
  | zero => rfl
  | succ k ih => rw [routeFrom_succ, List.length_cons, ih]

/-- From the middle stage on, the wire at which a route enters stage `s` holds the top bits of its egress port, those that the stages before have set. -/
def HeadsFor (p : Part) (out s w : Nat) : Prop :=
  Config.lgPorts p ≤ s + 1 → w / 2 % 2 ^ (s + 1 - Config.lgPorts p) = out / 2 ^ (2 * Config.lgPorts p - 1 - s)

/-- A stage of the egress half adds one bit of the egress port. -/
theorem exitWire_mod {p : Part} {out choice s w : Nat} (h : HeadsFor p out s w) (hs : Config.lgPorts p ≤ s + 1) (hl : s + 1 < 2 * Config.lgPorts p) :
    exitWire p out choice s w % 2 ^ (s + 2 - Config.lgPorts p) = out / 2 ^ (2 * Config.lgPorts p - 2 - s) := by
  have hbit := exitWire_bound out choice w hs
  have htop := h hs
  rw [show s + 2 - Config.lgPorts p = s + 1 - Config.lgPorts p + 1 by omega, Nat.pow_succ', Nat.mod_mul, exitWire_half, htop, hbit,
    show 2 * Config.lgPorts p - 1 - s = 2 * Config.lgPorts p - 2 - s + 1 by omega, Nat.pow_succ, ← Nat.div_div_eq_div_mul]
  omega

theorem headsFor_next {p : Part} {out choice s w : Nat} (ho : out < Config.ports p) (h : HeadsFor p out s w) (hl : s + 2 < 2 * Config.lgPorts p) :
    HeadsFor p out (s + 1) (nextWire p s (exitWire p out choice s w)) := by
  intro hs
  rcases Nat.lt_or_ge (s + 1) (Config.lgPorts p) with hfree | hbound
  · rw [show s + 1 + 1 - Config.lgPorts p = 0 by omega, show 2 * Config.lgPorts p - 1 - (s + 1) = Config.lgPorts p by omega,
      ← ports_eq_two_pow, Nat.div_eq_of_lt ho, Nat.pow_zero, Nat.mod_one]
  · have hc : Config.lgPorts p - 1 - (2 * Config.lgPorts p - 3 - s) = s + 2 - Config.lgPorts p := by omega
    have hpos : 0 < 2 * 2 ^ (s + 2 - Config.lgPorts p) := by positivity
    rw [nextWire_egress _ (by omega), hc, show s + 1 + 1 - Config.lgPorts p = s + 2 - Config.lgPorts p by omega,
      show 2 * Config.lgPorts p - 1 - (s + 1) = 2 * Config.lgPorts p - 2 - s by omega, ← exitWire_mod (choice := choice) h hbound (by omega),
      ← Nat.mod_mul_right_div_self, inBlock_mod (fun _ => shuffle_lt) hpos, shuffle_half (Nat.mod_lt _ hpos), Nat.mod_mul_left_mod]

/-- Through the last stage a route that heads for its egress port reaches it. -/
theorem routeFrom_getLast {p : Part} {out : Nat} (choice : Nat) (ho : out < Config.ports p) {k s w : Nat} (hk : s + (k + 1) = Config.stages p)
    (hw : w < Config.ports p) (h : HeadsFor p out s w) : (routeFrom p out choice (k + 1) s w).getLast? = some out := by
  have hm := seven_le_lgPorts p
  unfold Config.stages at hk
  induction k generalizing s w with
  | zero =>
    have hmod := exitWire_mod (choice := choice) h (by omega) (by omega)
    rw [show s + 2 - Config.lgPorts p = Config.lgPorts p by omega, ← ports_eq_two_pow, Nat.mod_eq_of_lt (exitWire_lt out choice s hw),
      show 2 * Config.lgPorts p - 2 - s = 0 by omega, Nat.pow_zero, Nat.div_one] at hmod
    exact congrArg some hmod
  | succ k ih =>
    rw [routeFrom_succ, routeFrom_succ, List.getLast?_cons_cons, ← routeFrom_succ]
    exact ih (by omega) (nextWire_lt s (exitWire_lt out choice s hw)) (headsFor_next ho h (by omega))

theorem headsFor_zero (p : Part) (out w : Nat) : HeadsFor p out 0 w := fun h => absurd (seven_le_lgPorts p) (by omega)

theorem routeOf_getLast {p : Part} {i o : Nat} (c : Nat) (hi : i < Config.ports p) (ho : o < Config.ports p) : (routeOf p i o c).getLast? = some o := by
  have hm := seven_le_lgPorts p
  obtain ⟨k, hk⟩ : ∃ k, Config.stages p = k + 1 := ⟨2 * Config.lgPorts p - 2, by unfold Config.stages; omega⟩
  unfold routeOf
  rw [hk]
  exact routeFrom_getLast c ho (by omega) hi (headsFor_zero p o i)

/-- At a free stage the output is the choice's bit. -/
theorem routeFrom_free {p : Part} {out choice n s w k v : Nat} (h : (routeFrom p out choice n s w)[k]? = some v) (hk : s + k + 1 < Config.lgPorts p) :
    v % 2 = choice / 2 ^ (Config.lgPorts p - 2 - (s + k)) % 2 := by
  induction n generalizing s w k with
  | zero => simp [routeFrom] at h
  | succ n ih =>
    rw [routeFrom_succ] at h
    cases k with
    | zero =>
      cases h
      exact exitWire_free out choice w hk
    | succ k =>
      rw [List.getElem?_cons_succ] at h
      rw [show s + (k + 1) = s + 1 + k by omega]
      exact ih h (by omega)

/-- The stitches of a route lie in the stages in turn. -/
theorem hopsFrom_stage {p : Part} {out choice n s w k : Nat} {q : Hop} (hw : w < Config.ports p)
    (h : (hopsFrom p (routeFrom p out choice n s w) s w)[k]? = some q) : k < n ∧ q.stitch / (Config.ports p / 2) = s + k := by
  induction n generalizing s w k with
  | zero => simp [routeFrom, hopsFrom] at h
  | succ n ih =>
    rw [routeFrom_succ, hopsFrom] at h
    cases k with
    | zero =>
      cases h
      have hlt := exitWire_lt out choice s hw
      have hn := two_mul_half_ports p
      refine ⟨Nat.succ_pos n, ?_⟩
      dsimp only
      rw [Nat.mul_comm, Nat.mul_add_div (by omega), Nat.div_eq_of_lt (by omega)]
    | succ k =>
      rw [List.getElem?_cons_succ] at h
      obtain ⟨hlt, hst⟩ := ih (nextWire_lt s (exitWire_lt out choice s hw)) h
      exact ⟨by omega, by omega⟩

/-- Settles O9: by induction over the stages, where from the middle stage on each output adds a bit of the egress port, and by a wiring that permutes
the positions of each block. -/
theorem routesReachTheirPort : Obligations.RoutesReachTheirPort := by
  unfold Obligations.RoutesReachTheirPort
  refine ⟨?ends, ?stage, ?choice, ?wiring⟩
  case ends =>
    intro p i o c hi ho
    exact ⟨routeFrom_length .., routeOf_getLast c hi ho⟩
  case stage =>
    intro p i o c k q hi _ hq
    obtain ⟨hk, hst⟩ := hopsFrom_stage hi hq
    rw [Nat.zero_add] at hst
    refine ⟨?_, hst⟩
    have hpos : 0 < Config.ports p / 2 := by cases p <;> decide
    rw [Config.stitches, Nat.mul_comm, ← Nat.div_lt_iff_lt_mul hpos, hst]
    exact hk
  case choice =>
    intro p i o c k w _ _ hk hw
    have hbit := routeFrom_free hw (by omega)
    rwa [Nat.zero_add] at hbit
  case wiring =>
    intro p k v w _ hv _
    exact ⟨nextWire_lt k hv, nextWire_inj⟩

end Sys2Proof.Machine
end

section
/-!
SUPPORT. The tiles of the drive array (R35) and the statement O10.
-/

namespace Sys2Proof.Machine
open Sys2Proof

theorem mem_tileElems {t e : Nat} : e ∈ tileElems t ↔ e / 32 = t := by
  simp only [tileElems, List.mem_map, List.mem_range]
  constructor
  · rintro ⟨j, hj, rfl⟩
    omega
  · intro h
    exact ⟨e % 32, by omega, by omega⟩

/-- A range of whole tiles holds a drive element exactly where it holds its tile. -/
theorem lt_iff_tile_lt {e n : Nat} (h : 32 ∣ n) : e < n ↔ e / 32 < n / 32 := by
  obtain ⟨k, rfl⟩ := h
  omega

/-- Blocks of whole tiles split no tile. -/
theorem div_eq_tile_div {e n : Nat} (h : 32 ∣ n) : e / n = e / 32 / (n / 32) := by
  obtain ⟨k, rfl⟩ := h
  rw [Nat.div_div_eq_div_mul, Nat.mul_div_cancel_left _ (by decide)]

theorem tile_dvd_half_ports (p : Part) : 32 ∣ Config.ports p / 2 := by cases p <;> decide

theorem tile_dvd_stitches (p : Part) : 32 ∣ Config.stitches p := Nat.dvd_mul_right_of_dvd (tile_dvd_half_ports p) _

theorem tile_dvd_elems (p : Part) : 32 ∣ Config.elems p := by cases p <;> decide

/-- Settles O10: a stage, the stitches and the elements are each a whole number of tiles. -/
theorem tilePlan : Obligations.TilePlan := by
  unfold Obligations.TilePlan
  refine ⟨?elements, ?sizes, ?whole⟩
  case elements =>
    intro t e
    rw [mem_tileElems]
    omega
  case sizes =>
    intro p
    exact ⟨Nat.div_mul_cancel (tile_dvd_elems p), Nat.mod_eq_zero_of_dvd (tile_dvd_half_ports p)⟩
  case whole =>
    intro p e f t he hf _ _
    rw [mem_tileElems] at he hf
    rw [lt_iff_tile_lt (e := e) (tile_dvd_stitches p), lt_iff_tile_lt (e := f) (tile_dvd_stitches p), div_eq_tile_div (e := e) (tile_dvd_half_ports p),
      div_eq_tile_div (e := f) (tile_dvd_half_ports p), he, hf]
    exact ⟨Iff.rfl, fun h => ⟨h, rfl⟩⟩

end Sys2Proof.Machine
end

section
/-!
SUPPORT. The Selda commands of the loops and the sampler (R60, R233) and the statement O31.
-/

namespace Sys2Proof.Machine
open Sys2Proof

theorem passes_opcode {s : State} {h : HoopId} {r op : Nat} {c : ReadCmd} {v : Verb} (p : passes s h r op c v = true) : (hdrOf c.bytes).opcode = op := by
  simp only [passes, atFront, Bool.and_eq_true, beq_iff_eq] at p
  tauto

theorem storeSetting_mem (k : Ctx) (which : Nat) (x : Hoop) :
    ((hdrOf k.cmd.bytes).opcode, which, paramOf k.cmd.bytes) ∈ (storeSetting k which x).settings := List.mem_append_right _ (List.mem_singleton_self _)

/-! ## LOOP_ASSIGN -/

theorem Hoop.loop_of_bob {x y : Hoop} (h : x.bob = y.bob) (e : Nat) : x.loop e = y.loop e := by
  unfold Hoop.loop
  rw [h]

theorem Loop.turn_set (l : Loop) (turn : Bool) (v : Loop) : (l.turn turn v).set = v.set := by unfold Loop.turn; split <;> rfl

theorem Loop.turn_reclamp (l : Loop) (turn : Bool) (v : Loop) : (l.turn turn v).reclamp = v.reclamp := by unfold Loop.turn; split <;> rfl

theorem assignSet_loop_self (e : Nat) (n : BitVec 4) (x : Hoop) : ((assignSet e n x).loop e).set = n ∧ ((assignSet e n x).loop e).reclamp = true := by
  have h : (assignSet e n x).loop e = (x.loop e).turn _ { x.loop e with set := n, reclamp := true } := smGet_smSet_self ..
  rw [h, Loop.turn_set, Loop.turn_reclamp]
  exact ⟨rfl, rfl⟩

theorem assignSet_loop_ne {e f : Nat} (n : BitVec 4) (x : Hoop) (h : f ≠ e) : (assignSet e n x).loop f = x.loop f := smGet_smSet_ne _ _ _ _ h

/-- Elements that take a set one after the other: each of them has it then, the others are as they were. -/
theorem assignSets_loop (es : List Nat) (n : BitVec 4) (x : Hoop) (e : Nat) :
    (e ∈ es → ((es.foldl (fun y e => assignSet e n y) x).loop e).set = n ∧ ((es.foldl (fun y e => assignSet e n y) x).loop e).reclamp = true) ∧
      (e ∉ es → (es.foldl (fun y e => assignSet e n y) x).loop e = x.loop e) := by
  induction es generalizing x with
  | nil => simp
  | cons f es ih =>
    obtain ⟨hin, hout⟩ := ih (assignSet f n x)
    rw [List.foldl_cons]
    refine ⟨fun h => ?_, fun h => ?_⟩
    · by_cases he : e ∈ es
      · exact hin he
      · rw [hout he, (List.mem_cons.mp h).resolve_right he]
        exact assignSet_loop_self ..
    · obtain ⟨hne, he⟩ := not_or.mp (mt List.mem_cons.mpr h)
      rw [hout he, assignSet_loop_ne n x hne]

theorem mem_range_map_add {n off e : Nat} : e ∈ (List.range n).map (· + off) ↔ off ≤ e ∧ e < off + n := by
  simp only [List.mem_map, List.mem_range]
  constructor
  · rintro ⟨j, hj, rfl⟩
    omega
  · intro h
    exact ⟨e - off, by omega, by omega⟩

/-! ## SAMPLER_RESTORE -/

theorem restoreRecords_of_part {x y : Hoop} (h : x.part = y.part) (m : List Host.Cell) : restoreRecords x m = restoreRecords y m := by
  unfold restoreRecords Hoop.nE
  rw [h]

theorem breakRun_mramFree (r op : Nat) (x : Hoop) : (breakRun r op x).mramFree = x.mramFree := by
  unfold Hoop.mramFree
  rw [breakRun_ths, breakRun_jnl]

theorem breakRun_mwrites (r op : Nat) (x : Hoop) : (breakRun r op x).mwrites = x.mwrites := by unfold breakRun; split <;> rfl

theorem Hoop.mwrites_of_calm {x y : Hoop} (h : x.calm = y.calm) : x.mwrites = y.mwrites := by
  have e := congrArg (fun z : Hoop => z.mwrites) h; exact e

theorem samplerRestore_free (k : Ctx) {x : Hoop} (h : x.mramFree = true) : (samplerRestoreVerb.run k x).2.mram = restoreRecords x x.mram :=
  (adminOk_mram ..).trans (congrArg Hoop.mram (mramWrite_free .restore h))

theorem samplerRestore_blocked (k : Ctx) {x : Hoop} (h : x.mramFree = false) :
    (samplerRestoreVerb.run k x).2.mram = x.mram ∧ (samplerRestoreVerb.run k x).2.mwrites = x.mwrites ++ [.restore] :=
  ⟨(adminOk_mram ..).trans (congrArg Hoop.mram (mramWrite_blocked .restore h) :),
    (Hoop.mwrites_of_calm (adminOk_calm ..)).trans (congrArg Hoop.mwrites (mramWrite_blocked .restore h))⟩

theorem samplerRestore_slice (k : Ctx) (x : Hoop) :
    (samplerRestoreVerb.run k x).2.slice = { x.slice with src := restoreRecords x x.slice.src, adj := [] } := adminOk_slice ..

/-! ## The statement -/

/-- Settles O31: each command's own effect, on blocks that its completion and `settle` leave alone. -/
theorem loopCommands : Obligations.LoopCommands := by
  unfold Obligations.LoopCommands
  refine ⟨?set, ?assign, ?restore⟩
  case set =>
    intro s h c p
    refine gives_serve p rfl fun y hy => ⟨?_, ?_⟩
    · rw [Hoop.bob_of_calm (hy.trans (adminOk_calm ..))]
      simp only [storeSetting, breakRun_bob]
      rfl
    · rw [Hoop.settings_of_calm (hy.trans (adminOk_calm ..)), ← passes_opcode p]
      exact storeSetting_mem ..
  case assign =>
    intro s h c p
    refine gives_serve p rfl fun y hy => ?_
    have hloop e := assignSets_loop ((List.range (field (paramOf c.bytes) 2 2)).map (· + field (paramOf c.bytes) 0 2))
      (BitVec.ofNat 4 (field (paramOf c.bytes) 4 1)) (breakRun 0 0x47 (s.hoop h)) e
    have hbob := Hoop.loop_of_bob (Hoop.bob_of_calm (hy.trans (adminOk_calm ..)))
    refine ⟨fun e hlo hhi => ?_, fun e he => ?_⟩
    · rw [hbob]
      exact (hloop e).1 (mem_range_map_add.mpr ⟨hlo, hhi⟩)
    · rw [hbob]
      refine ((hloop e).2 fun hin => ?_).trans (Hoop.loop_of_bob (breakRun_bob ..) e)
      have := mem_range_map_add.mp hin
      omega
  case restore =>
    intro s h c p
    have hpart := breakRun_part 0 0x50 (s.hoop h)
    have hfree := breakRun_mramFree 0 0x50 (s.hoop h)
    refine gives_serve p rfl fun y hy => ⟨?_, ?_⟩
    · rw [Hoop.mram_of_calm hy, Hoop.mwrites_of_calm hy, ← hfree]
      split
      · rw [ran, samplerRestore_free _ ‹_›, restoreRecords_of_part hpart, breakRun_mram]
      · obtain ⟨hmram, hwait⟩ := samplerRestore_blocked (ctxOf s h 0 c) (Bool.eq_false_iff.mpr ‹_›)
        exact ⟨hmram.trans (breakRun_mram ..), hwait.trans (by rw [breakRun_mwrites])⟩
    · rw [Hoop.slice_of_calm hy, ran, samplerRestore_slice, restoreRecords_of_part hpart, breakRun_slice]

end Sys2Proof.Machine
end

section
/-!
SUPPORT. What an epoch leaves alone: a view of the hoop with the banks of the needles, the pending table, the sources and the threads, and what each
operation that runs at an epoch does to it.
-/

namespace Sys2Proof.Machine
open Sys2Proof

/-- The part, the pending table, the strobe's two flags, the two banks of each needle, and what a quiet module rests on: the sources and the parity
error. -/
structure Rig where
  part : Part
  pending : List Commit
  dacStaged : Bool
  bankSel : Bool
  banks : Nat → NCode × NCode
  src : SMap Src
  fcPar : Bool

def Hoop.rig (x : Hoop) : Rig where
  part := x.part
  pending := x.cm.pending
  dacStaged := x.tmb.dacStaged
  bankSel := x.drv.bankSel
  banks := fun e => ((x.needle e).bank0, (x.needle e).bank1)
  src := x.fc.src
  fcPar := x.dk.fcPar

/-- The rig with the thread table. -/
def Hoop.standing (x : Hoop) : Rig × SMap Thread := (x.rig, x.thr)

theorem Hoop.rig_of_standing {x y : Hoop} (h : x.standing = y.standing) : x.rig = y.rig := congrArg Prod.fst h

theorem Hoop.thread_of_standing {x y : Hoop} (h : x.standing = y.standing) (i : Nat) : x.thread i = y.thread i :=
  congrArg (fun q : Rig × SMap Thread => smGet ({} : Thread) q.2 i) h

theorem Hoop.pending_of_rig {x y : Hoop} (h : x.rig = y.rig) : x.cm.pending = y.cm.pending := congrArg Rig.pending h

theorem Hoop.standing_of_core {x y : Hoop} (h : x.core = y.core) : x.standing = y.standing := by
  have e := congrArg Hoop.standing h; exact e

/-! ## Shapes -/

/-- A change of the commits' block that leaves the pending table. -/
theorem Hoop.standing_withCm {x : Hoop} {c : Cm} (h : c.pending = x.cm.pending) : ({ x with cm := c } : Hoop).standing = x.standing := by
  have e : ({ x with cm := c } : Hoop).standing = ({ x.rig with pending := c.pending }, x.thr) := rfl
  rw [e, h]
  rfl

theorem Hoop.standing_ite (c : Prop) [Decidable c] (x y : Hoop) : (if c then x else y).standing = if c then x.standing else y.standing := apply_ite ..

theorem Hoop.standing_foldl {α : Type} (f : Hoop → α → Hoop) (h : ∀ x a, (f x a).standing = x.standing) (l : List α) (x : Hoop) :
    (l.foldl f x).standing = x.standing := foldl_keeps Hoop.standing f h l x

/-! ## Telling, threads and outcomes -/

theorem pmcRaw_standing (c n : Nat) (x : Hoop) : (pmcRaw c n x).standing = x.standing := Hoop.standing_of_core (pmcRaw_core ..)

theorem raiseEv_standing (src : Nat) (p : List Nat) (sc : Scope) (x : Hoop) : (raiseEv src p sc x).standing = x.standing :=
  Hoop.standing_of_core (raiseEv_core ..)

theorem jnlPut_standing (ty sev src : Nat) (w : Bool) (p : Bytes) (x : Hoop) : (jnlPut ty sev src w p x).standing = x.standing :=
  Hoop.standing_of_core (jnlPut_core ..)

theorem ledStart_standing (i at_ : Nat) (x : Hoop) : (ledStart i at_ x).standing = x.standing := rfl

theorem ledEnd_standing (i at_ : Nat) (counted : Bool) (x : Hoop) : (ledEnd i at_ counted x).standing = x.standing := by
  unfold ledEnd
  split <;> rfl

theorem putOutcome_standing (o : Outcome) (x : Hoop) : (putOutcome o x).standing = x.standing :=
  (raiseEv_standing ..).trans ((jnlPut_standing ..).trans (Hoop.standing_withCm rfl))

theorem outcomes_standing (x : Hoop) : (outcomes x).standing = x.standing :=
  (Hoop.standing_foldl _ (fun _ _ => putOutcome_standing ..) _ _).trans (Hoop.standing_withCm rfl)

/-- A change of state is one of its thread alone. -/
theorem setSt_standing (i : Nat) (st : ThreadSt) (c q r : Nat) (x : Hoop) :
    (setSt i st c q r x).standing = (x.setThread i { x.thread i with st := st }).standing := Hoop.standing_of_core (setSt_core ..)

@[simp] theorem Hoop.setThread_rig (x : Hoop) (i : Nat) (t : Thread) : (x.setThread i t).rig = x.rig := rfl

@[simp] theorem Hoop.setThread_thread_self (x : Hoop) (i : Nat) (t : Thread) : (x.setThread i t).thread i = t := smGet_smSet_self ..

theorem Hoop.setThread_thread_ne (x : Hoop) {i j : Nat} (t : Thread) (h : j ≠ i) : (x.setThread i t).thread j = x.thread j := smGet_smSet_ne _ _ _ _ h

theorem setSt_rig (i : Nat) (st : ThreadSt) (c q r : Nat) (x : Hoop) : (setSt i st c q r x).rig = x.rig :=
  (Hoop.rig_of_standing (setSt_standing ..)).trans (Hoop.setThread_rig ..)

theorem setSt_thread_self (i : Nat) (st : ThreadSt) (c q r : Nat) (x : Hoop) : (setSt i st c q r x).thread i = { x.thread i with st := st } := by
  rw [Hoop.thread_of_standing (setSt_standing ..), Hoop.setThread_thread_self]

theorem setSt_thread_ne {i j : Nat} (st : ThreadSt) (c q r : Nat) (x : Hoop) (h : j ≠ i) : (setSt i st c q r x).thread j = x.thread j := by
  rw [Hoop.thread_of_standing (setSt_standing ..), Hoop.setThread_thread_ne x _ h]

/-! ## Needles and windows -/

/-- A write to a needle that keeps both its banks. -/
theorem Hoop.setNeedle_standing {x : Hoop} {e : Nat} {v : Needle} (h0 : v.bank0 = (x.needle e).bank0) (h1 : v.bank1 = (x.needle e).bank1) :
    (x.setNeedle e v).standing = x.standing := by
  have hb : (x.setNeedle e v).rig.banks = x.rig.banks := by
    funext j
    by_cases hj : j = e
    · subst hj
      simp only [Hoop.rig, Hoop.needle, Hoop.setNeedle, smGet_smSet_self] at *
      rw [h0, h1]
    · simp only [Hoop.rig, Hoop.needle, Hoop.setNeedle, smGet_smSet_ne _ _ _ _ hj]
  have hr : (x.setNeedle e v).rig = { x.rig with banks := (x.setNeedle e v).rig.banks } := rfl
  exact Prod.ext (hr.trans (by rw [hb]; rfl)) rfl

theorem noteClamp_standing (x : Hoop) (e : Nat) : (noteClamp x e).standing = x.standing := by
  unfold noteClamp
  split <;> rfl

theorem sampleNeedle_standing (x : Hoop) (e : Nat) : (sampleNeedle x e).standing = x.standing :=
  (noteClamp_standing ..).trans (Hoop.setNeedle_standing rfl rfl)

theorem skipWindow_standing (x : Hoop) : (skipWindow x).standing = x.standing := (pmcRaw_standing ..).trans rfl

theorem Hoop.updTile_standing (x : Hoop) (t : Nat) (f : Tile → Tile) : (x.updTile t f).standing = x.standing := rfl

theorem openWindow_standing (t : Nat) (k : WinKind) (x : Hoop) : (openWindow t k x).standing = x.standing := by
  unfold openWindow
  split <;> simp only [↓Hoop.standing_ite, ite_self, ↓Hoop.standing_foldl, implies_true, ↓Hoop.updTile_standing, ↓sampleNeedle_standing,
    ↓pmcRaw_standing, ↓skipWindow_standing]

theorem loadReg_standing (x : Hoop) (e : Nat) (c : NCode) : (loadReg x e c).standing = x.standing := by
  have h (y : Hoop) (m : Bool) : (if m then { y with drv := { y.drv with dglCnt := y.drv.dglCnt + 1 } } else y).standing = y.standing := by
    cases m <;> rfl
  unfold loadReg
  extract_lets v m x1 x2
  refine (h x2 m).trans (Eq.trans ?_ (Hoop.setNeedle_standing (x := x) (e := e) (v := { v with reg := c, ramp := false, track := v.track || m }) rfl rfl))
  show (if _ then noteClamp x1 e else x1).standing = x1.standing
  split
  · exact noteClamp_standing ..
  · rfl

/-! ## Injected channels -/

theorem Hoop.updGroup_standing (x : Hoop) (g : Nat) (f : Group → Group) : (x.updGroup g f).standing = x.standing := rfl

theorem injDone_standing (g : Nat) (x : Hoop) : (injDone g x).standing = x.standing := by
  unfold injDone
  split <;> rfl

theorem injDrop_standing (g : Nat) (f : InjEntry → Bool) (x : Hoop) : (injDrop g f x).standing = x.standing := by
  unfold injDrop
  simp only [↓Hoop.standing_ite, ite_self, ↓injDone_standing, ↓Hoop.updGroup_standing]

theorem supersede_standing (chans : List Nat) (key from_ : Nat) (x : Hoop) : (supersede chans key from_ x).standing = x.standing :=
  Hoop.standing_foldl _ (fun _ _ => injDrop_standing ..) _ _

theorem oweSettle_standing (chans : List Nat) (from_ : Nat) (x : Hoop) : (oweSettle chans from_ x).standing = x.standing := by
  refine Hoop.standing_foldl _ (fun y c => ?_) _ _
  rfl

theorem presel_standing (c : Nat) (rg : BitVec 2) (x : Hoop) : (presel c rg x).standing = x.standing := by
  unfold presel
  extract_lets v w
  split <;> rfl

theorem preselect_standing (x : Hoop) (chans lit dark : List Nat) (vp : VParams) (h : Hoop) : (preselect x chans lit dark vp h).standing = h.standing := by
  refine Hoop.standing_foldl _ (fun y c => ?_) _ _
  repeat' split
  all_goals exact presel_standing ..

/-! ## Elements, loops and tones -/

theorem refreshElems_standing (es : List Nat) (x : Hoop) : (refreshElems es x).standing = x.standing := by
  refine Hoop.standing_foldl _ (fun y e => ?_) _ _
  split <;> rfl

theorem Hoop.setLoop_standing (x : Hoop) (e : Nat) (v : Loop) : (x.setLoop e v).standing = x.standing := rfl

theorem moveHeater_standing (e : Nat) (x : Hoop) : (moveHeater e x).standing = x.standing := by
  unfold moveHeater
  extract_lets v slew
  repeat' split
  all_goals rfl

theorem heaterOut_standing (e u : Nat) (x : Hoop) : (heaterOut e u x).standing = x.standing := (moveHeater_standing ..).trans rfl

theorem emit_standing (e : Nat) (ur : Int) (x : Hoop) : (emit e ur x).standing = x.standing := by
  unfold emit
  simp only [↓Hoop.standing_ite, ite_self, ↓Hoop.setLoop_standing, ↓raiseEv_standing, ↓heaterOut_standing]

theorem gentle_standing (e : Nat) (u : Int) (x : Hoop) : (gentle e u x).standing = x.standing := by
  unfold gentle
  simp only [↓Hoop.standing_ite, ite_self, ↓Hoop.updTile_standing]

theorem ffOut_standing (e : Nat) (x : Hoop) : (ffOut e x).standing = x.standing := by
  unfold ffOut
  simp only [↓Hoop.standing_ite, ite_self, ↓emit_standing, ↓gentle_standing, ↓Hoop.setLoop_standing]

theorem strobeLoop_standing (e : Nat) (hff : Option Nat) (reband : Bool) (x : Hoop) : (strobeLoop e hff reband x).standing = x.standing := by
  unfold strobeLoop
  simp only [↓Hoop.standing_ite, ite_self, ↓ffOut_standing, ↓Hoop.setLoop_standing]

theorem assignSet_standing (e : Nat) (n : BitVec 4) (x : Hoop) : (assignSet e n x).standing = x.standing := rfl

theorem giveTone_standing (e k : Nat) (x : Hoop) : (giveTone e k x).standing = x.standing := by
  unfold giveTone
  extract_lets t tone d x1 x2 x3
  exact (assignSet_standing ..).trans ((Hoop.updTile_standing ..).trans (Hoop.setNeedle_standing (x := x1) rfl rfl))

theorem dropTone_standing (e : Nat) (x : Hoop) : (dropTone e x).standing = x.standing := by
  unfold dropTone
  split
  · rfl
  · exact (assignSet_standing ..).trans ((Hoop.updTile_standing ..).trans (Hoop.setNeedle_standing rfl rfl))

theorem chooseTone_standing (e : Nat) (x : Hoop) : (chooseTone e x).standing = x.standing := by
  unfold chooseTone
  extract_lets want free
  split
  · exact dropTone_standing ..
  · split
    · rfl
    · split
      · exact giveTone_standing ..
      · exact raiseEv_standing ..

theorem keeperRefresh_standing (x : Hoop) : (keeperRefresh x).standing = x.standing := by
  unfold keeperRefresh
  extract_lets w
  split <;> rfl

theorem afterLoad_standing (cs : List Commit) (ds : List DeltaEntry) (was : List (Nat × Bool)) (x : Hoop) : (afterLoad cs ds was x).standing = x.standing := by
  unfold afterLoad
  simp only [↓Hoop.standing_foldl, implies_true, ↓strobeLoop_standing, ↓preselect_standing, ↓chooseTone_standing]

end Sys2Proof.Machine
end

section
/-!
SUPPORT. The strobe of a staged CREATE, the epoch of a commit without codes and the end of settling (R44, R82, R93, R96 to R98), and the statement O23.
-/

namespace Sys2Proof.Machine
open Sys2Proof

/-! ## The banks at a strobe (R93) -/

/-- A needle's register takes the idle code, and the follow copy makes the banks equal. -/
def followIdle (x : Hoop) (e : Nat) : Hoop := writeNeedle x e (x.idleCode e)

theorem loadAll_eq (x : Hoop) : loadAll x = (fun y : Hoop => { y with drv := { y.drv with bankSel := !y.drv.bankSel } })
    ((x.drv.needles.map (·.1)).foldl followIdle x) := rfl

/-- The banks with those of the needles `es` made equal to their idle codes. -/
def Hoop.followed (x : Hoop) (es : List Nat) (e : Nat) : NCode × NCode := if e ∈ es then (x.idleCode e, x.idleCode e) else x.rig.banks e

theorem Hoop.idleCode_of_rig {x y : Hoop} (e : Nat) (hs : x.rig.bankSel = y.rig.bankSel)
    (hb : x.rig.banks e = y.rig.banks e ∨ x.rig.banks e = (y.idleCode e, y.idleCode e)) : x.idleCode e = y.idleCode e := by
  simp only [Hoop.rig, Prod.mk.injEq] at hs hb
  unfold Hoop.idleCode at *
  rw [hs]
  rcases hb with ⟨h0, h1⟩ | ⟨h0, h1⟩ <;> rw [h0, h1]
  split <;> rfl

theorem followIdle_standing (x : Hoop) (e : Nat) : (followIdle x e).standing = ({ x.rig with banks := x.followed [e] }, x.thr) := by
  refine (loadReg_standing ..).trans ?_
  have hb : (x.updNeedle e (fun v => { v with bank0 := x.idleCode e, bank1 := x.idleCode e })).rig.banks = x.followed [e] := by
    funext j
    by_cases hj : j = e
    · subst hj
      simp [Hoop.followed, Hoop.rig, Hoop.needle, Hoop.updNeedle, Hoop.setNeedle]
    · simp [Hoop.followed, Hoop.rig, Hoop.needle, Hoop.updNeedle, Hoop.setNeedle, hj, smGet_smSet_ne _ _ _ _ hj]
  rw [← hb]
  rfl

theorem followIdle_fold (es : List Nat) (x : Hoop) : (es.foldl followIdle x).standing = ({ x.rig with banks := x.followed es }, x.thr) := by
  induction es generalizing x with
  | nil =>
    have hb : x.followed [] = x.rig.banks := funext fun e => if_neg List.not_mem_nil
    rw [hb]
    rfl
  | cons e es ih =>
    have hst := followIdle_standing x e
    have hr : (followIdle x e).rig = { x.rig with banks := x.followed [e] } := congrArg Prod.fst hst
    have ht : (followIdle x e).thr = x.thr := congrArg Prod.snd hst
    have hb : (followIdle x e).followed es = x.followed (e :: es) := by
      funext j
      have hj : (followIdle x e).rig.banks j = x.followed [e] j := by rw [hr]
      have hi : (followIdle x e).idleCode j = x.idleCode j := by
        refine Hoop.idleCode_of_rig j (by rw [hr]) ?_
        rw [hj]
        unfold Hoop.followed
        split
        · exact .inr rfl
        · exact .inl rfl
      unfold Hoop.followed at *
      rw [hj, hi]
      by_cases h1 : j ∈ es <;> by_cases h2 : j = e <;> simp [h1, h2]
    rw [List.foldl_cons, ih, hb, hr, ht]

/-- Every needle follows its idle bank, and the banks switch. -/
theorem loadAll_standing (x : Hoop) :
    (loadAll x).standing = ({ x.rig with bankSel := !x.drv.bankSel, banks := x.followed (x.drv.needles.map (·.1)) }, x.thr) := by
  rw [loadAll_eq]
  exact congrArg (fun q : Rig × SMap Thread => ({ q.1 with bankSel := !q.1.bankSel }, q.2)) (followIdle_fold (x.drv.needles.map (·.1)) x)

/-! ## One change of a commit (R44) -/

theorem loadChange_rig {c : Commit} {g : Change} (x : Hoop) (hr : g.kind ≠ .release) (hd : g.kind ≠ .dark) : (loadChange c x g).rig = x.rig := by
  have hset (t : Thread) : ((ledEnd g.inPort c.epoch false x).setThread g.inPort t).rig = x.rig :=
    (Hoop.setThread_rig ..).trans (Hoop.rig_of_standing (ledEnd_standing ..))
  unfold loadChange
  extract_lets i t u
  split
  · exact absurd ‹_› hr
  · exact absurd ‹_› hd
  · split
    · rfl
    · split
      · exact (Hoop.rig_of_standing (pmcRaw_standing ..)).trans ((Hoop.rig_of_standing (raiseEv_standing ..)).trans ((setSt_rig ..).trans (hset _)))
      · exact (setSt_rig ..).trans (hset _)

/-- A CREATE sets its thread SETTLING on the route and to the egress port of its change. -/
theorem loadChange_create {c : Commit} {g : Change} (x : Hoop) (h : g.kind = .create) : ((loadChange c x g).thread g.inPort).st = .settling ∧
    ((loadChange c x g).thread g.inPort).route = g.after.route ∧ ((loadChange c x g).thread g.inPort).outPort = g.after.outPort := by
  have ht : g.turns = true := by unfold Change.turns; rw [h]
  unfold loadChange
  simp only [h, ht, Bool.not_true, Bool.false_eq_true, if_false, reduceCtorEq, setSt_thread_self, Hoop.setThread_thread_self, Change.into, and_self]

/-- A MODIFY that sets neither a route nor a band gives its thread the rest. -/
theorem loadChange_modify {c : Commit} {g : Change} (x : Hoop) (h : g.kind = .modify) (ht : g.turns = false) :
    (loadChange c x g).thread g.inPort = g.into (x.thread g.inPort) := by
  unfold loadChange
  simp only [h, ht, Bool.not_false, if_true, Hoop.setThread_thread_self]

/-! ## A commit of one change at its epoch -/

/-- A thread without MIXED, which follows the stitches of its route (R54). -/
def Thread.unmixed (t : Thread) : Thread := { t with mixed := false }

/-- A map over the entries that keeps a view of each keeps it of what is read. -/
theorem smGet_map_view {α γ : Type} (p : α → γ) (f : Nat × α → α) (h : ∀ e, p (f e) = p e.2) (d : α) (m : SMap α) (k : Nat) :
    p (smGet d (m.map (fun e => (e.1, f e))) k) = p (smGet d m k) := by
  induction m with
  | nil => rfl
  | cons e m ih =>
    simp only [List.map_cons, smGet]
    split
    · exact h e
    · exact ih

theorem remix_thread (x : Hoop) (i : Nat) : ((remix x).thread i).unmixed = (x.thread i).unmixed :=
  smGet_map_view Thread.unmixed (fun q => { q.2 with mixed := (hopsOf x.part q.1 q.2.route).any (fun k => (x.elem k.stitch).mixed) }) (fun _ => rfl) _ _ i

theorem remix_rig (x : Hoop) : (remix x).rig = x.rig := rfl

/-- The hoop as the changes of a commit find it: the commit out of the table, its channels' earlier entries out of the sequences. -/
def takenOut (c : Commit) (x : Hoop) : Hoop :=
  supersede c.chans c.key (c.epoch + 999) { x with cm := { x.cm with pending := x.cm.pending.filter (fun d => d.key != c.key) } }

theorem takenOut_rig (c : Commit) (x : Hoop) : (takenOut c x).rig = { x.rig with pending := x.cm.pending.filter (fun d => d.key != c.key) } :=
  (Hoop.rig_of_standing (supersede_standing ..)).trans rfl

/-- A commit of one module alone, without releases and darks, does its changes and sets MIXED anew. -/
theorem applyCommit_standing {c : Commit} {gs : List Change} (strobed : Bool) (x : Hoop) (hl : c.changes.filter (fun g => !g.dropped) = gs)
    (hk : ∀ g ∈ gs, g.kind ≠ .release ∧ g.kind ≠ .dark) (hf : c.fcid = none) :
    ∃ y : Hoop, y.standing = (gs.foldl (loadChange c) (takenOut c x)).standing ∧ (applyCommit c strobed x).standing = (remix y).standing := by
  have hrel : gs.filter (fun g => g.kind == .release) = [] := List.filter_eq_nil_iff.mpr fun g hg => by simp [(hk g hg).1]
  have hdark : gs.filter (fun g => g.kind == .dark) = [] := List.filter_eq_nil_iff.mpr fun g hg => by simp [(hk g hg).2]
  unfold applyCommit
  extract_lets live es cm0 x1 before x2 x3 x4 x5 x6 cm1 x7
  have hlive : live = gs := hl
  have h5 : x5 = x4 := by simp only [x5, hlive, hrel, List.foldl_nil]
  have h6 : x6 = x4 := by simp only [x6, hlive, hdark, List.foldl_nil, h5]
  have h7 : x7.standing = x4.standing := (Hoop.standing_withCm rfl).trans (by rw [h6])
  have h3 : x3.standing = (gs.foldl (loadChange c) x1).standing := Eq.trans rfl ((oweSettle_standing ..).trans (by rw [hlive]))
  rw [hf]
  exact ⟨refreshElems es x3, (refreshElems_standing ..).trans h3, h7⟩

/-- The one commit of the table, with the one change that it makes. -/
theorem applyCommit_single {c : Commit} {g : Change} (strobed : Bool) {x : Hoop} (hx : x.cm.pending = [c]) (hc : c.changes = [g]) (hg : g.dropped = false)
    (hr : g.kind ≠ .release) (hd : g.kind ≠ .dark) (hf : c.fcid = none) : (applyCommit c strobed x).rig = { x.rig with pending := [] } ∧
      ∀ i, ((applyCommit c strobed x).thread i).unmixed = ((loadChange c (takenOut c x) g).thread i).unmixed := by
  obtain ⟨y, hy, hst⟩ := applyCommit_standing (gs := [g]) strobed x (by simp [hc, hg]) (by simp [hr, hd]) hf
  refine ⟨?_, fun i => ?_⟩
  · rw [Hoop.rig_of_standing hst, remix_rig, Hoop.rig_of_standing hy]
    refine (loadChange_rig _ hr hd).trans ((takenOut_rig ..).trans ?_)
    simp [hx]
  · rw [Hoop.thread_of_standing hst, remix_thread, Hoop.thread_of_standing hy]
    rfl

theorem dropDeps_nil {c : Commit} {x : Hoop} (h : x.cm.pending = []) : dropDeps c x = x := by
  unfold dropDeps
  rw [h]
  rfl

theorem postStage_nil {x : Hoop} (h : x.cm.pending = []) : postStage x = x := by
  unfold postStage nextStage
  rw [h]
  rfl

theorem Commit.allDropped_single {c : Commit} {g : Change} (hc : c.changes = [g]) (hg : g.dropped = false) : c.allDropped = false := by
  simp [Commit.allDropped, hc, hg]

/-! ## The strobe (R93, R96 to R98) -/

theorem Hoop.lineOn_of_quiet {s : State} {h : HoopId} {x : Hoop} (e : s.here h x) (q : s.quiet = true) : x.lineOn = false := by
  obtain ⟨hh, rfl⟩ := e
  simp only [State.quiet, Bool.and_eq_true, List.all_eq_true, Bool.not_eq_true'] at q
  exact (q.1 h (has_mem hh)).1

/-- The comparator of the one commit fires: its stage loads. -/
theorem strobe_single {k : Nat} {x : Hoop} {c : Commit} (handing : Bool) (hk : k < 4) (hdue : cmpDue x k = true) (hline : x.lineOn = false)
    (hhold : x.tmb.hold = false) (hp : x.cm.pending = [c]) (hst : c.stage = .armed k) (hd : c.allDropped = false) :
    strobe k handing x = strobeLoad [c] (cmpFire k x) := by
  unfold strobe
  rw [if_neg (by simp [hk, hdue])]
  extract_lets y cs gone live
  have hcs : cs = [c] := by
    show x.cm.pending.filter _ = [c]
    simp [hp, hst]
  have hgone : gone = [] := by simp [gone, hcs, hd]
  have hlive : live = [c] := by simp [live, hcs, hd]
  have hy : y.lineOn = false := hline
  have hh : y.tmb.hold = false := hhold
  rw [if_neg (by simp [hy]), if_neg (by simp [hy, hh]), hlive, hgone]
  exact if_neg Bool.false_ne_true

/-- What the stage's own effect on the drive makes of the hoop, before its commits apply. -/
def staged (x : Hoop) : Hoop :=
  x.tmb.strobeTiles.foldl (fun y t => openWindow t .drive y) (pmcRaw 97 1 (loadAll x) |> fun y =>
    { y with tmb := { y.tmb with dacStaged := false, stagedSeq := none, stageDelta := [], strobeTiles := [] } })

theorem strobeLoad_eq (cs : List Commit) (x : Hoop) : strobeLoad cs x = applyStage cs x.tmb.stageDelta (staged x) := rfl

theorem staged_standing (x : Hoop) : (staged x).standing =
    ({ x.rig with dacStaged := false, bankSel := !x.drv.bankSel, banks := x.followed (x.drv.needles.map (·.1)) }, x.thr) := by
  refine (Hoop.standing_foldl _ (fun _ _ => openWindow_standing ..) _ _).trans ?_
  exact congrArg (fun q : Rig × SMap Thread => ({ q.1 with dacStaged := false }, q.2)) ((pmcRaw_standing ..).trans (loadAll_standing x))

/-- A stage of one commit, the only one of the table: its commit applies, and of the view nothing else changes. -/
theorem applyStage_standing {c : Commit} {ds : List DeltaEntry} {x : Hoop} (h : (applyCommit c true x).cm.pending = []) :
    (applyStage [c] ds x).standing = (applyCommit c true x).standing := by
  unfold applyStage
  extract_lets was y z
  have hz : z.standing = (applyCommit c true x).standing := (keeperRefresh_standing ..).trans ((afterLoad_standing ..).trans (raiseEv_standing ..))
  have hp : z.cm.pending = [] := (Hoop.pending_of_rig (Hoop.rig_of_standing hz)).trans h
  have ho : (outcomes (dropDeps c z)).standing = z.standing := (outcomes_standing ..).trans (by rw [dropDeps_nil hp])
  rw [List.foldl_cons, List.foldl_nil, postStage_nil ((Hoop.pending_of_rig (Hoop.rig_of_standing ho)).trans hp)]
  exact ho.trans hz

theorem strobeLoad_create {c : Commit} {g : Change} {x : Hoop} (hp : x.cm.pending = [c]) (hc : c.changes = [g]) (hk : g.kind = .create)
    (hg : g.dropped = false) (hf : c.fcid = none) :
    (strobeLoad [c] x).rig = { x.rig with pending := [], dacStaged := false, bankSel := !x.drv.bankSel, banks := x.followed (x.drv.needles.map (·.1)) } ∧
      ((strobeLoad [c] x).thread g.inPort).st = .settling ∧ ((strobeLoad [c] x).thread g.inPort).route = g.after.route ∧
      ((strobeLoad [c] x).thread g.inPort).outPort = g.after.outPort := by
  have hs : (staged x).rig = _ := congrArg Prod.fst (staged_standing x)
  have hps : (staged x).cm.pending = [c] := (congrArg Rig.pending hs).trans hp
  obtain ⟨hrig, hthr⟩ := applyCommit_single true hps hc hg (by simp [hk]) (by simp [hk]) hf
  obtain ⟨hst, hroute, hout⟩ := loadChange_create (c := c) (takenOut c (staged x)) hk
  have h := applyStage_standing (ds := x.tmb.stageDelta) (congrArg Rig.pending hrig)
  have ht := hthr g.inPort
  rw [strobeLoad_eq, Hoop.rig_of_standing h, Hoop.thread_of_standing h, hrig, hs]
  exact ⟨rfl, (congrArg Thread.st ht).trans hst, (congrArg Thread.route ht).trans hroute, (congrArg Thread.outPort ht).trans hout⟩

/-! ## A commit without codes (R82) -/

/-- The hoop at the epoch of a commit without codes, its changes made. -/
def zeroApplied (c : Commit) (x : Hoop) : Hoop := afterLoad [c] [] (involved [c] [] (applyCommit c false x)) (applyCommit c false x)

theorem zeroApplied_standing (c : Commit) (x : Hoop) : (zeroApplied c x).standing = (applyCommit c false x).standing := afterLoad_standing ..

/-- The outcome of a commit without codes that waits for no verdict. -/
def zeroOutcome (c : Commit) (x : Hoop) : Outcome :=
  let ports := (judgedOf x c).ports
  outcomeOf x c.seq c.ring c.tenant (bit (ports.any (fun i => (x.thread i).partialEnd))) c.epoch 0 c.chans.length (cMaxOf c.chans) 0 ports

/-- The commit is judged at once. -/
def judgedNow (c : Commit) (x : Hoop) : Hoop :=
  { x with cm := { x.cm with judging := x.cm.judging.filter (fun j => !(j.seq == c.seq && j.ring == c.ring)) } }

theorem judgedNow_standing (c : Commit) (x : Hoop) : (judgedNow c x).standing = x.standing := Hoop.standing_withCm rfl

/-- Its epoch applies the one commit of the table, whose change waits for nothing, and raises its outcome. -/
theorem zeroCode_single {c : Commit} {g : Change} {x : Hoop} (hp : x.cm.pending = [c]) (hn : c.delta = []) (hdue : c.epoch ≤ x.now)
    (hc : c.changes = [g]) (hk : g.kind ≠ .release) (ht : g.turns = false) (hg : g.dropped = false) :
    zeroCode c.seq c.ring x = dropDeps c (putOutcome (zeroOutcome c (zeroApplied c x)) (judgedNow c (zeroApplied c x))) := by
  have hfind : x.cm.pending.find? (fun d => d.seq == c.seq && d.ring == c.ring) = some c := by simp [hp]
  have hready : ¬ (!c.delta.isEmpty || decide (x.now < c.epoch)) = true := by simp [hn]; omega
  have hkept : ¬ c.allDropped = true := by simp [Commit.allDropped_single hc hg]
  have hwaits : ¬ (c.changes.any (fun g => !g.dropped && (g.turns || g.kind == .release))) = true := by simp [hc, ht, hk]
  unfold zeroCode
  rw [hfind]
  exact (if_neg hready).trans ((if_neg hkept).trans (congrArg (dropDeps c) (if_neg hwaits)))

theorem Hoop.history_of_core {x y : Hoop} (h : x.core = y.core) : x.cm.history = y.cm.history := by
  have e := congrArg (fun z : Hoop => z.cm.history) h; exact e

theorem putOutcome_history (o : Outcome) (x : Hoop) : o ∈ (putOutcome o x).cm.history := by
  unfold putOutcome
  rw [Hoop.history_of_core (raiseEv_core ..), Hoop.history_of_core (jnlPut_core ..), List.drop_append_of_le_length (by omega)]
  exact List.mem_append_right _ (List.mem_singleton_self o)

theorem zeroCode_modify {c : Commit} {g : Change} {x : Hoop} (hp : x.cm.pending = [c]) (hn : c.delta = []) (hdue : c.epoch ≤ x.now)
    (hf : c.fcid = none) (hc : c.changes = [g]) (hk : g.kind = .modify) (ht : g.turns = false) (hg : g.dropped = false) :
    (zeroCode c.seq c.ring x).rig = { x.rig with pending := [] } ∧ ((zeroCode c.seq c.ring x).thread g.inPort).move = g.after.move ∧
      ∃ o ∈ (zeroCode c.seq c.ring x).cm.history, o.seq = c.seq ∧ o.ring = c.ring := by
  obtain ⟨hrig, hthr⟩ := applyCommit_single false hp hc hg (by simp [hk]) (by simp [hk]) hf
  have hst : (putOutcome (zeroOutcome c (zeroApplied c x)) (judgedNow c (zeroApplied c x))).standing = (applyCommit c false x).standing :=
    (putOutcome_standing ..).trans ((judgedNow_standing ..).trans (zeroApplied_standing ..))
  have hr := (Hoop.rig_of_standing hst).trans hrig
  have hmove := congrArg Thread.move (hthr g.inPort)
  rw [zeroCode_single hp hn hdue hc (by simp [hk]) ht hg, dropDeps_nil (congrArg Rig.pending hr)]
  refine ⟨hr, ?_, _, putOutcome_history .., rfl, rfl⟩
  rw [Hoop.thread_of_standing hst]
  exact hmove.trans (congrArg Thread.move (loadChange_modify _ hk ht) :)

/-! ## The end of settling (R98) -/

/-- The thread of a port goes CARRYING and becomes countable. -/
def carryOne (seq : Nat) (x : Hoop) (i : Nat) : Hoop :=
  let y := setSt i .carrying 0 seq 0xFFFF x
  if (y.thread i).noLight then y else ledStart i ((x.thread i).epoch + (x.thread i).late + 1000) y

theorem settlingEnd_eq (seq ring : Nat) (x : Hoop) : settlingEnd seq ring x = (settledOf x seq ring).foldl (carryOne seq) x := rfl

theorem carryOne_standing (seq : Nat) (x : Hoop) (i : Nat) : (carryOne seq x i).standing = (setSt i .carrying 0 seq 0xFFFF x).standing := by
  unfold carryOne
  extract_lets y
  split
  · rfl
  · exact ledStart_standing ..

theorem settlingEnd_rig (seq ring : Nat) (x : Hoop) : (settlingEnd seq ring x).rig = x.rig :=
  foldl_keeps Hoop.rig _ (fun _ _ => (Hoop.rig_of_standing (carryOne_standing ..)).trans (setSt_rig ..)) _ x

theorem carryOne_thread_self (seq : Nat) (x : Hoop) (i : Nat) : ((carryOne seq x i).thread i).st = .carrying := by
  rw [Hoop.thread_of_standing (carryOne_standing ..), setSt_thread_self]

theorem carryOne_thread_ne (seq : Nat) (x : Hoop) {i j : Nat} (h : i ≠ j) : (carryOne seq x j).thread i = x.thread i := by
  rw [Hoop.thread_of_standing (carryOne_standing ..), setSt_thread_ne _ _ _ _ _ h]

/-- After its turn a thread of the list is CARRYING, and it stays so. -/
theorem carryAll_thread (seq : Nat) (l : List Nat) (x : Hoop) {i : Nat} (h : i ∈ l ∨ (x.thread i).st = .carrying) :
    ((l.foldl (carryOne seq) x).thread i).st = .carrying := by
  induction l generalizing x with
  | nil => exact h.resolve_left List.not_mem_nil
  | cons j l ih =>
    refine ih (carryOne seq x j) ?_
    by_cases hj : i = j
    · subst hj
      exact .inr (carryOne_thread_self ..)
    · rw [carryOne_thread_ne seq x hj]
      exact h.imp_left fun hm => (List.mem_cons.mp hm).resolve_left hj

theorem mem_of_smGet_ne {α : Type} {d : α} {m : SMap α} {k : Nat} (h : smGet d m k ≠ d) : (k, smGet d m k) ∈ m := by
  induction m with
  | nil => exact absurd rfl h
  | cons e m ih =>
    simp only [smGet] at *
    split at h
    · rename_i hk
      rw [if_pos hk, ← hk]
      exact List.mem_cons_self
    · rename_i hk
      rw [if_neg hk]
      exact List.mem_cons_of_mem _ (ih h)

theorem mem_settledOf {x : Hoop} {i : Nat} (h : (x.thread i).st = .settling) (hdue : (x.thread i).epoch + (x.thread i).late + 1000 ≤ x.now) :
    i ∈ settledOf x (x.thread i).seq (x.thread i).ring := by
  have hm : (i, x.thread i) ∈ x.thr := mem_of_smGet_ne fun hd => by
    have hn : (x.thread i).st = .none := congrArg Thread.st hd
    rw [h] at hn
    cases hn
  exact List.mem_map.mpr ⟨_, List.mem_filter.mpr ⟨hm, by simp [h, hdue]⟩, rfl⟩

/-! ## The statement -/

/-- A row that keeps the part, the sources and the parity error, in a quiet module: what holds of its effect's view and of the history holds after it. -/
theorem gives_standing {i : Instr} {s : State} {h : HoopId} {x : Hoop} {P : Hoop → Prop} {r : Rig} (f : Hoop → Hoop) (e : s.here h x) (q : s.quiet = true)
    (hx : exec i s = .next (s.act h f)) (hr : (f x).rig = r) (hrp : r.part = x.part) (hrs : r.src = x.fc.src) (hrk : r.fcPar = x.dk.fcPar)
    (hP : ∀ y : Hoop, y.rig = r → (∀ k, y.thread k = (f x).thread k) → y.cm.history = (f x).cm.history → P y) : CompletesWith i s h P := by
  refine gives_core f e q hx ((congrArg Rig.part hr).trans hrp) ((congrArg Rig.src hr).trans hrs) ((congrArg Rig.fcPar hr).trans hrk) fun y hy => ?_
  have hst := Hoop.standing_of_core hy
  exact hP y ((Hoop.rig_of_standing hst).trans hr) (Hoop.thread_of_standing hst) (Hoop.history_of_core hy)

/-- Settles O23: each row's operation on the view of the hoop that a quiet `settle` keeps. -/
theorem epochRows : Obligations.EpochRows := by
  unfold Obligations.EpochRows
  refine ⟨?strobe, ?zero, ?settling⟩
  case strobe =>
    intro s h x k m g e hq hk4 hdue hhold hp hst hf hc hk hg
    have harmed : (x.tb.cmp k).armed = true := (Bool.and_eq_true_iff.mp hdue).1
    have hload : (if (x.tb.cmp k).armed then strobe k (handingFrom s h) x else lateStandby x) = strobeLoad [m] (cmpFire k x) :=
      (if_pos harmed).trans (strobe_single _ hk4 hdue (Hoop.lineOn_of_quiet e hq) hhold hp hst (Commit.allDropped_single hc hg))
    obtain ⟨hrig, hth⟩ := strobeLoad_create (x := cmpFire k x) hp hc hk hg hf
    refine gives_standing (fun x => if (x.tb.cmp k).armed then strobe k (handingFrom s h) x else lateStandby x) e hq rfl
      ((congrArg Hoop.rig hload).trans hrig) rfl rfl rfl fun y hy hthr _ => ?_
    refine ⟨congrArg Rig.bankSel hy, congrArg Rig.dacStaged hy, congrArg Rig.pending hy, fun n hn => ?_, ?_⟩
    · have hb : ((y.needle n).bank0, (y.needle n).bank1) = x.followed (x.drv.needles.map (·.1)) n := congrFun (congrArg Rig.banks hy) n
      rw [Hoop.followed, if_pos hn] at hb
      exact Prod.mk.inj hb
    · rw [hthr, hload]
      exact hth
  case zero =>
    intro s h x m g e hq hp hn hdue hf hc hk ht hg
    obtain ⟨hrig, hmove, hout⟩ := zeroCode_modify hp hn hdue hf hc hk ht hg
    refine gives_standing (zeroCode m.seq m.ring) e hq rfl hrig rfl rfl rfl fun y hy hthr hhist => ?_
    rw [hthr, hhist]
    exact ⟨congrArg Rig.pending hy, hmove, hout⟩
  case settling =>
    intro s h x i e hq hst hdue
    refine gives_standing (settlingEnd (x.thread i).seq (x.thread i).ring) e hq rfl (settlingEnd_rig ..) rfl rfl rfl fun y _ hthr _ => ?_
    rw [hthr, settlingEnd_eq]
    exact carryAll_thread _ _ x (.inl (mem_settledOf hst hdue))

end Sys2Proof.Machine
end

section
/-!
SUPPORT. The timebase's tick as numbers, the timebase after a power-on reset (R63, R64, R442), and the statement O2.
-/

namespace Sys2Proof.Machine
open Sys2Proof

/-! ## The tick -/

theorem Tb.cnt_toNat (t : Tb) : t.cnt.toNat = t.acc.toNat / 2 ^ 32 := by
  have h := t.acc.isLt
  rw [Tb.cnt, BitVec.extractLsb'_toNat, Nat.shiftRight_eq_div_pow]
  omega

theorem Tb.frac_toNat (t : Tb) : t.frac.toNat = t.acc.toNat % 2 ^ 32 := by
  rw [Tb.frac, BitVec.extractLsb'_toNat, Nat.shiftRight_zero]

theorem Tb.tick_acc_toNat (t : Tb) : t.tick.acc.toNat = (t.acc.toNat + t.inc.toNat) % 2 ^ 64 := by
  have h := t.inc.isLt
  show (t.acc + t.inc.setWidth 64).toNat = _
  rw [BitVec.toNat_add, BitVec.toNat_setWidth, Nat.mod_eq_of_lt (a := t.inc.toNat) (by omega)]

/-- The accumulator wraps in the tick whose sum reaches 2^64. -/
theorem Tb.tick_acc_lt_iff (t : Tb) : t.tick.acc < t.acc ↔ 2 ^ 64 ≤ t.acc.toNat + t.inc.toNat := by
  have ha := t.acc.isLt
  have hi := t.inc.isLt
  rw [BitVec.lt_def, t.tick_acc_toNat]
  omega

theorem Tb.tick_wrap (t : Tb) : t.tick.wrap = t.wrap + (if 2 ^ 64 ≤ t.acc.toNat + t.inc.toNat then 1 else 0) := by
  have h : t.tick.wrap = if t.tick.acc < t.acc then t.wrap + 1 else t.wrap := rfl
  rw [h]
  by_cases hc : t.tick.acc < t.acc
  · rw [if_pos hc, if_pos (t.tick_acc_lt_iff.mp hc)]
  · rw [if_neg hc, if_neg (mt t.tick_acc_lt_iff.mpr hc)]
    exact (BitVec.add_zero _).symm

/-! ## Resets -/

theorem State.has_of_frame {s t : State} (h : t.frame = s.frame) (k : HoopId) : t.has k = s.has k := by
  cases k with
  | hoopA => rfl
  | hoopB => exact congrArg Config.duplex (congrArg Prod.fst ((State.frame_iff.mp h).2 .hoopA) : t.a.part = s.a.part)

/-- An update of every enabled hoop that keeps what the hoops are. -/
theorem State.foldl_upd_self (s : State) {h : HoopId} {f : Hoop → Hoop} (hf : ∀ x, (f x).site = x.site) (e : s.has h = true) :
    (s.hoops.foldl (fun s k => s.upd k f) s).hoop h = f (s.hoop h) := by
  unfold State.hoops
  by_cases hd : Config.duplex s.a.part = true
  · rw [if_pos hd]
    have hB : (s.upd .hoopA f).has .hoopB = true := (State.has_of_frame (State.upd_frame s .hoopA f hf) .hoopB).trans hd
    cases h with
    | hoopA => exact (State.upd_other _ .hoopB f).trans (State.upd_self s .hoopA f rfl)
    | hoopB => exact (State.upd_self _ .hoopB f hB).trans (congrArg f (State.upd_other s .hoopA f))
  · rw [if_neg hd]
    cases h with
    | hoopA => exact State.upd_self s .hoopA f rfl
    | hoopB => exact absurd e hd

theorem hoopReset_tb (wide mod : Bool) (x : Hoop) : (hoopReset wide mod x).tb = {} := rfl

theorem moduleReset_tb (mod : Bool) {s : State} {h : HoopId} (e : s.has h = true) : ((moduleReset mod s).hoop h).tb = {} := by
  rw [moduleReset, State.setDuo_hoop, State.foldl_upd_self s (f := hoopReset true mod) (fun _ => rfl) e, hoopReset_tb]

/-- What a fall of VKEEP, rail 8, takes from the keeper (R304). -/
def keeperLost (rail : Nat) (x : Hoop) : Hoop := if rail = 8 then { x with dk := { vouch := x.dk.vouch } } else x

theorem keeperLost_site (rail : Nat) (x : Hoop) : (keeperLost rail x).site = x.site := by unfold keeperLost; split <;> rfl

theorem keeperLost_boot (rail : Nat) (x : Hoop) : (keeperLost rail x).boot = x.boot := by unfold keeperLost; split <;> rfl

theorem powerOn_eq (h : HoopId) {rail mv : Nat} (s : State) (hl : railLow rail mv = true) : powerOn h rail mv s =
    (let u := s.upd h (keeperLost rail)
     if (u.hoop h).boot.por then u
     else if !Config.duplex u.part || (u.hoop (other h)).boot.por then moduleReset false u
     else (abandonHo 3 u).upd h (hoopReset false false)) := if_neg (by rw [hl]; decide)

/-- Whether the rest of the module is in reset or not, the hoop whose rail fails comes out of its power-on reset with a fresh timebase. -/
theorem powerOn_tb {h : HoopId} {rail mv : Nat} {s : State} (e : s.has h = true) (hl : railLow rail mv = true) (hp : (s.hoop h).boot.por = false) :
    ((powerOn h rail mv s).hoop h).tb = {} := by
  rw [powerOn_eq h s hl]
  extract_lets u
  have hu : u.has h = true := (State.has_of_frame (State.upd_frame s h _ (keeperLost_site rail)) h).trans e
  have hpu : (u.hoop h).boot.por = false := by
    rw [State.upd_self s h _ e, keeperLost_boot, hp]
  rw [if_neg (by rw [hpu]; decide)]
  split
  · exact moduleReset_tb false hu
  · rw [State.upd_self _ h _ ((State.has_of_frame (abandonHo_frame 3 u) h).trans hu), hoopReset_tb]

theorem settle_tb (s : State) (h : HoopId) : ((settle s).hoop h).tb = (s.hoop h).tb := Hoop.tb_of_calm (settle_calm s h)

/-- Settles O2: the tick by the accumulator's sum, the resets by the timebase that they leave. -/
theorem timebaseTick : Obligations.TimebaseTick := by
  unfold Obligations.TimebaseTick
  have hzero : ∀ {t : Tb}, t = {} → t.cnt = 0 ∧ t.frac = 0 ∧ t.wrap = 0 := by
    rintro _ rfl
    decide
  refine ⟨?tick, ?powerOn, ?modRst, ?reset⟩
  case tick =>
    rintro b n rfl
    refine ⟨?_, ?_, b.tick_wrap⟩
    · rw [Tb.cnt_toNat, Tb.tick_acc_toNat]
      omega
    · rw [Tb.frac_toNat, Tb.tick_acc_toNat]
      omega
  case powerOn =>
    intro s h rail mv e hr hl hp
    exact ⟨_, exec_powerOnReset mv e hr, hzero ((settle_tb ..).trans (powerOn_tb e hl hp))⟩
  case modRst =>
    intro s
    refine ⟨_, rfl, fun h e => hzero ((settle_tb ..).trans ?_)⟩
    have hb : ∀ (u : State) (b : Balls), ({ u with balls := b } : State).hoop h = u.hoop h := fun u b => by cases h <;> rfl
    rw [hb, moduleReset_tb true e]
  case reset =>
    intro h
    cases h <;> decide

end Sys2Proof.Machine
end

section
/-!
SUPPORT. One step of the module: the front command, or one tick of the clock (R63, R64), and the statement O1.
-/

namespace Sys2Proof.Machine
open Sys2Proof

theorem step_cons {s : State} {i : Instr} {rest : List Instr} (h : s.pending = i :: rest) : step s = exec i { s with pending := rest } := by
  unfold step
  rw [h]

theorem step_nil {s : State} (h : s.pending = []) : step s = .next (goTick (microTick (idleTick s))) := by
  unfold step
  rw [h]

/-! ## The queue -/

theorem settle_pending (s : State) : (settle s).pending = s.pending := (State.frame_iff.mp (settle_frame s)).1

theorem digestCompare_pending (s : State) : (digestCompare s).pending = s.pending := (State.frame_iff.mp (digestCompare_frame s)).1

theorem idleTick_pending (s : State) : (idleTick s).pending = s.pending := (State.upd_pending ..).trans (State.upd_pending ..)

theorem microTickIn_pending (h : HoopId) (s : State) : (microTickIn h s).pending = s.pending := by
  unfold microTickIn
  extract_lets x y t done
  split
  · rfl
  · rw [settle_pending, digestCompare_pending]
    split
    · exact State.upd_pending ..
    · exact State.upd_pending ..

theorem microTick_pending (s : State) : (microTick s).pending = s.pending := (microTickIn_pending ..).trans (microTickIn_pending ..)

theorem goTick_pending (s : State) : (goTick s).pending = s.pending := by
  refine foldl_keeps State.pending _ (fun u h => ?_) _ s
  split
  · exact (settle_pending _).trans (State.upd_pending ..)
  · rfl

/-! ## A tick in which nothing else runs -/

/-- What a tick of the clock leaves of a hoop, and what a patch of Tambour and a GO would need. -/
structure Rest where
  site : Part × Bool
  thr : SMap Thread
  cm : Cm
  drv : Drv
  mram : List Host.Cell
  tmb : Tmb
  fabs : SMap Fab

def Hoop.atRest (x : Hoop) : Rest where
  site := x.site
  thr := x.thr
  cm := x.cm
  drv := x.drv
  mram := x.mram
  tmb := x.tmb
  fabs := x.wlm.fabs

theorem Hoop.atRest_of_untold {x y : Hoop} (h : x.untold = y.untold) : x.atRest = y.atRest := by
  have e := congrArg Hoop.atRest h; exact e

/-- The hoop with its clock advanced and its link queues empty, before the crossbar's clocks are counted. -/
def Hoop.clocked (x : Hoop) : Hoop := { x with tb := x.tb.tick, wlm := { x.wlm with tx := [] } }

theorem Hoop.tick_eq (x : Hoop) : x.tick = (pmcRaw 59 2 x.clocked).pwmPins := rfl

theorem Hoop.pwmPins_atRest (x : Hoop) : x.pwmPins.atRest = x.atRest := rfl

theorem Hoop.tick_atRest (x : Hoop) : x.tick.atRest = x.atRest := by
  rw [Hoop.tick_eq, Hoop.pwmPins_atRest, Hoop.atRest_of_untold (pmcRaw_untold 59 2 x.clocked)]
  rfl

theorem Hoop.tick_tb (x : Hoop) : x.tick.tb = x.tb.tick := pmcRaw_tb 59 2 x.clocked

/-- One hoop's part of the clock tick. -/
def Hoop.idle (x : Hoop) : Hoop := if x.boot.por then x else x.tick

theorem idleTick_eq (s : State) : idleTick s = (s.upd .hoopA Hoop.idle).upd .hoopB Hoop.idle := rfl

theorem Hoop.idle_atRest (x : Hoop) : x.idle.atRest = x.atRest := by
  unfold Hoop.idle
  split
  · rfl
  · exact x.tick_atRest

theorem Hoop.idle_site (x : Hoop) : x.idle.site = x.site := congrArg Rest.site x.idle_atRest

theorem upd_atRest (s : State) (h k : HoopId) {f : Hoop → Hoop} (hf : ∀ x, (f x).atRest = x.atRest) :
    ((s.upd h f).hoop k).atRest = (s.hoop k).atRest := by
  unfold State.upd
  split
  · by_cases hk : k = h
    · rw [hk, State.setHoop_self, hf]
    · have ho : k = other h := by
        revert hk
        cases h <;> cases k <;> decide
      rw [ho, State.setHoop_other]
  · rfl

theorem idleTick_atRest (s : State) (k : HoopId) : ((idleTick s).hoop k).atRest = (s.hoop k).atRest :=
  (upd_atRest _ .hoopB k Hoop.idle_atRest).trans (upd_atRest s .hoopA k Hoop.idle_atRest)

theorem idleTick_hoop {s : State} {h : HoopId} (e : s.has h = true) : (idleTick s).hoop h = (s.hoop h).idle := by
  rw [idleTick_eq]
  cases h with
  | hoopA => exact (State.upd_other _ .hoopB Hoop.idle).trans (State.upd_self s .hoopA Hoop.idle e)
  | hoopB =>
    have hB : (s.upd .hoopA Hoop.idle).has .hoopB = true := (State.has_of_frame (State.upd_frame s .hoopA Hoop.idle Hoop.idle_site) .hoopB).trans e
    exact (State.upd_self _ .hoopB Hoop.idle hB).trans (congrArg Hoop.idle (State.upd_other s .hoopA Hoop.idle))

theorem idleTick_tb {s : State} {h : HoopId} (e : s.has h = true) (hp : (s.hoop h).boot.por = false) : ((idleTick s).hoop h).tb = (s.hoop h).tb.tick := by
  rw [idleTick_hoop e, Hoop.idle, hp]
  exact Hoop.tick_tb _

/-- Where no patch of Tambour runs, a tick brings no microcycle. -/
theorem microTick_idle {s : State} (h : ∀ k, (s.hoop k).tmb.busy = false) : microTick s = s := by
  have hin : ∀ k, microTickIn k s = s := fun k => if_pos (by rw [h k, Bool.not_false, Bool.or_true])
  rw [microTick, hin, hin]

/-- Where no initiator has all its READYs, no GO is sent. -/
theorem goTick_idle {s : State} (h : ∀ k, (s.hoop k).wlm.fabs.all (fun q => !(q.2.init && q.2.st == 2)) = true) : goTick s = s := by
  refine List.foldl_fixed' (fun k => if_neg ?_) _
  rw [Bool.not_eq_true, List.any_eq_false]
  intro q hq
  have hn := List.all_eq_true.mp (h k) q hq
  rw [Bool.not_eq_true'] at hn
  rw [waitsGo, hn, Bool.false_and, Bool.false_and]
  decide

/-- Settles O1: on an empty queue each part of the tick keeps the queue, and where nothing else runs only the clock advances. -/
theorem stepRunsTheFrontCommand : Obligations.StepRunsTheFrontCommand := by
  unfold Obligations.StepRunsTheFrontCommand
  refine ⟨fun _ _ _ => step_cons, ?queue, ?tick⟩
  case queue =>
    intro s hq
    exact ⟨_, step_nil hq, (goTick_pending _).trans ((microTick_pending _).trans ((idleTick_pending s).trans hq))⟩
  case tick =>
    rintro s h _ ⟨e, rfl⟩ hq hpor hbusy hgo
    have hrest := idleTick_atRest s
    have hmicro : microTick (idleTick s) = idleTick s := microTick_idle fun k => (congrArg (fun v => v.tmb.busy) (hrest k)).trans (hbusy k)
    have hnogo : goTick (idleTick s) = idleTick s :=
      goTick_idle fun k => (congrArg (fun v => v.fabs.all fun q => !(q.2.init && q.2.st == 2)) (hrest k)).trans (hgo k)
    exact ⟨idleTick s, by rw [step_nil hq, hmicro, hnogo], idleTick_tb e hpor, congrArg Rest.thr (hrest h), congrArg Rest.cm (hrest h),
      congrArg Rest.drv (hrest h), congrArg Rest.mram (hrest h)⟩

end Sys2Proof.Machine
end

section
/-!
SUPPORT. The registers of the timebase with effects (R66, R76, R80) and the statement O12.
-/

namespace Sys2Proof.Machine
open Sys2Proof

/-- The next pulse of PPS_OUT is armed on comparators and held instants alone. -/
theorem ppsArm_tb (ns : Nat) (x : Hoop) : ∃ c l, (ppsArm ns x).tb = { x.tb with cmps := c, heldEvents := l } := by
  obtain ⟨c, l, h⟩ := armAt_tb 7 ns x
  obtain ⟨c2, l2, h2⟩ := armAt_tb 7 (ns + 1000000000) (armAt 7 ns x)
  unfold ppsArm
  extract_lets y
  split
  · exact ⟨c, l, h⟩
  · exact ⟨c2, l2, h2.trans (by rw [h])⟩

/-- The WIDTH that a write of TB_PPS_CTRL leaves (R9, R76). -/
def widthAfter (v : BitVec 32) (w : BitVec 19) : BitVec 19 :=
  if 1 ≤ v.toNat / 256 % 2 ^ 19 ∧ v.toNat / 256 % 2 ^ 19 ≤ 500000 then BitVec.ofNat 19 (v.toNat / 256 % 2 ^ 19) else w

/-- The fields that a write of TB_PPS_CTRL takes, and the pulse that EN = 0 ends. -/
def ppsTaken (v : BitVec 32) (t : Tb) : Tb :=
  { t with ppsEn := v.getLsbD 0, ppsGate := v.getLsbD 1, ppsWidth := widthAfter v t.ppsWidth, ppsOut := t.ppsOut && v.getLsbD 0 }

/-- The write itself, before the next pulse is armed. -/
def ppsWritten (v : BitVec 32) (x : Hoop) : Hoop := { x with tb := ppsTaken v x.tb }

theorem ppsCtrl_eq (v : BitVec 32) (x : Hoop) : ppsCtrl v x =
    if v.getLsbD 0 && !((ppsWritten v x).tb.cmp 7).armed then ppsArm (nextSecond (ppsWritten v x)) (ppsWritten v x) else ppsWritten v x := rfl

theorem ppsCtrl_off {v : BitVec 32} (h : v.getLsbD 0 = false) (x : Hoop) : ppsCtrl v x = ppsWritten v x := by
  rw [ppsCtrl_eq]
  exact if_neg (by rw [h, Bool.false_and]; exact Bool.false_ne_true)

theorem ppsCtrl_tb (v : BitVec 32) (x : Hoop) : ∃ c l, (ppsCtrl v x).tb = { ppsTaken v x.tb with cmps := c, heldEvents := l } := by
  rw [ppsCtrl_eq]
  split
  · exact ppsArm_tb _ (ppsWritten v x)
  · exact ⟨_, _, rfl⟩

/-- The comparators that a list of RW1C bits names are no longer FIRED. -/
theorem firedClear_cmps (v : BitVec 32) (l : List Nat) (x : Hoop) (k : Nat) :
    (l.foldl (fun y k => if v.getLsbD k then y.setCmp k { y.tb.cmp k with fired := false } else y) x).tb.cmp k =
      { x.tb.cmp k with fired := (x.tb.cmp k).fired && !(decide (k ∈ l) && v.getLsbD k) } := by
  induction l generalizing x with
  | nil => simp
  | cons j l ih =>
    rw [List.foldl_cons, ih]
    by_cases hv : v.getLsbD j = true
    · rw [if_pos hv]
      by_cases hk : k = j
      · subst hk
        simp [Hoop.setCmp_cmp, hv]
      · simp [Hoop.setCmp_cmp_ne x _ hk, hk]
    · rw [if_neg hv]
      by_cases hk : k = j
      · subst hk
        simp [hv]
      · simp [hk]

theorem firedClear_cmp (v : BitVec 32) (x : Hoop) (k : Nat) :
    (firedClear v x).tb.cmp k = { x.tb.cmp k with fired := (x.tb.cmp k).fired && !(decide (k < 16) && v.getLsbD k) } := by
  have h := firedClear_cmps v (List.range 16) x k
  simp only [List.mem_range] at h
  exact h

/-- Settles O12: each register's own operation on the block of the timebase. -/
theorem timebaseRegisterRows : Obligations.TimebaseRegisterRows := by
  unfold Obligations.TimebaseRegisterRows
  refine ⟨?snap, ?count, ?off, ?on, ?fired⟩
  case snap =>
    intro s h x v e
    exact makes_act (snap v) e rfl rfl
  case count =>
    intro s h x e
    exact makes_act (fun x => { x with bus := x.tb.cnt, tb := { x.tb with fracLatch := x.tb.frac } }) e rfl rfl
  case off =>
    intro s h x v e hv
    refine makes_act (ppsCtrl v) e rfl ?_
    rw [ppsCtrl_off hv, ppsWritten, ppsTaken, hv, Bool.and_false]
    rfl
  case on =>
    intro s h x v e hv
    refine gives_act (ppsCtrl v) e rfl fun y hy => ?_
    obtain ⟨c, l, ht⟩ := ppsCtrl_tb v x
    rw [Hoop.tb_of_calm hy, ht]
    exact ⟨hv, by rw [ppsTaken, hv, Bool.and_true], rfl, rfl⟩
  case fired =>
    intro s h x v e
    refine gives_act (firedClear v) e rfl fun y hy k => ?_
    rw [Hoop.tb_of_calm hy]
    exact firedClear_cmp v x k

end Sys2Proof.Machine
end

section
/-!
SUPPORT. The events of the timebase (R64, R66, R69, R76, R77) and the statement O13.
-/

namespace Sys2Proof.Machine
open Sys2Proof

/-! ## PPS -/

/-- PPS_OUT at a second boundary: GATE suppresses the pulse while TIME_VALID is 0 (R76). -/
def ppsPulse (t : Tb) : Tb :=
  if t.ppsEn && !(t.ppsGate && !t.timeValid) then { t with ppsOut := true, ppsEnd := (t.cmp 7).t16 / 16 + t.ppsWidth.toNat * 1000 } else t

theorem cmpFire_t16 (k : Nat) (x : Hoop) : ((cmpFire k x).tb.cmp k).t16 = (x.tb.cmp k).t16 := by
  rw [cmpFire, Hoop.setCmp_cmp]

/-- The boundary fires comparator 7 and sets PPS_OUT, before the next pulse is armed. -/
def ppsFired (x : Hoop) : Hoop :=
  if x.tb.ppsEn && !(x.tb.ppsGate && !x.tb.timeValid) then
    { cmpFire 7 x with tb := { (cmpFire 7 x).tb with ppsOut := true, ppsEnd := ((cmpFire 7 x).tb.cmp 7).t16 / 16 + x.tb.ppsWidth.toNat * 1000 } }
  else cmpFire 7 x

theorem ppsEdge_due {x : Hoop} (h : cmpDue x 7 = true) : ppsEdge x =
    if (ppsFired x).tb.ppsEn then ppsArm ((((ppsFired x).tb.ptpOf (ppsFired x).now + 100) / 1000000000 + 1) * 1000000000) (ppsFired x)
    else ppsFired x := if_pos h

theorem ppsFired_tb (x : Hoop) : (ppsFired x).tb = { ppsPulse x.tb with cmps := (cmpFire 7 x).tb.cmps } := by
  unfold ppsFired ppsPulse
  rw [cmpFire_t16]
  split <;> rfl

/-- The pulse is that of the boundary that fired; the rest is comparators and held instants. -/
theorem ppsEdge_tb {x : Hoop} (h : cmpDue x 7 = true) : ∃ c l, (ppsEdge x).tb = { ppsPulse x.tb with cmps := c, heldEvents := l } := by
  rw [ppsEdge_due h]
  split
  · obtain ⟨c, l, ha⟩ := ppsArm_tb ((((ppsFired x).tb.ptpOf (ppsFired x).now + 100) / 1000000000 + 1) * 1000000000) (ppsFired x)
    exact ⟨c, l, ha.trans (by rw [ppsFired_tb])⟩
  · exact ⟨_, _, ppsFired_tb x⟩

theorem ppsIn_stamp (x : Hoop) : (ppsIn x).tb.ppsInStamp = x.tb.cnt ∧ (ppsIn x).tb.ppsInFrac = BitVec.ofNat 4 (x.tb.frac.toNat / 2 ^ 28) := by
  unfold ppsIn
  extract_lets r dev y
  split
  · rw [raiseEv_tb]
    exact ⟨rfl, rfl⟩
  · exact ⟨rfl, rfl⟩

/-- An effect on both hoops, one after the other, finds each hoop's timebase as it stood. -/
theorem act_both_tb (s : State) {h : HoopId} {f : Hoop → Hoop} (hf : ∀ x, (f x).site = x.site) (e : s.has h = true) :
    ∃ x : Hoop, x.tb = (s.hoop h).tb ∧ (((s.act .hoopA f).act .hoopB f).hoop h).tb = (f x).tb := by
  cases h with
  | hoopA => exact ⟨_, rfl, (Hoop.tb_of_calm (act_calm_other _ .hoopB f)).trans (act_tb s .hoopA f rfl)⟩
  | hoopB =>
    have hB : (s.act .hoopA f).has .hoopB = true := (State.has_of_frame (State.act_frame s .hoopA f hf) .hoopB).trans e
    exact ⟨_, Hoop.tb_of_calm (act_calm_other s .hoopA f), act_tb _ .hoopB f hB⟩

/-! ## Held instants -/

/-- Instants that lie within 2 s are armed and not held again. -/
theorem armAll_tb (l : List (Nat × Nat)) (x : Hoop) (h : ∀ e ∈ l, x.tb.cntOf e.2 ≤ x.now + 2000000000) :
    ∃ c, (l.foldl (fun y e => armAt e.1 e.2 y) x).tb = { x.tb with cmps := c } := by
  induction l generalizing x with
  | nil => exact ⟨_, rfl⟩
  | cons e l ih =>
    obtain ⟨c, hc⟩ := armAt_near e.1 e.2 x (h e List.mem_cons_self)
    obtain ⟨c2, hc2⟩ := ih (armAt e.1 e.2 x) fun d hd => by
      rw [Hoop.now, hc]
      exact h d (List.mem_cons_of_mem _ hd)
    exact ⟨c2, hc2.trans (by rw [hc])⟩

/-- The hoop with the instants taken out that lie within 2 s. -/
def takenNear (x : Hoop) : Hoop :=
  { x with tb := { x.tb with heldEvents := x.tb.heldEvents.filter (fun e => !decide (x.tb.cntOf e.2 ≤ x.now + 2000000000)) } }

theorem takenNear_now (x : Hoop) : (takenNear x).now = x.now := rfl

theorem takenNear_cntOf (x : Hoop) (ns : Nat) : (takenNear x).tb.cntOf ns = x.tb.cntOf ns := rfl

theorem heldSweep_tb (x : Hoop) : (heldSweep x).tb =
    ((x.tb.heldEvents.filter (fun e => decide (x.tb.cntOf e.2 ≤ x.now + 2000000000))).foldl (fun y e => armAt e.1 e.2 y) (takenNear x)).tb := postStage_tb _

theorem heldSweep_heldEvents (x : Hoop) :
    (heldSweep x).tb.heldEvents = x.tb.heldEvents.filter (fun e => !decide (x.tb.cntOf e.2 ≤ x.now + 2000000000)) := by
  obtain ⟨c, hc⟩ := armAll_tb (x.tb.heldEvents.filter (fun e => decide (x.tb.cntOf e.2 ≤ x.now + 2000000000))) (takenNear x)
    fun e he => of_decide_eq_true (List.mem_filter.mp he).2
  rw [heldSweep_tb, hc, takenNear]

/-- The one instant held, due and 100 ns ahead, arms its comparator. -/
theorem heldSweep_cmp {k ns : Nat} {x : Hoop} (hh : x.tb.heldEvents = [(k, ns)]) (hlo : x.now + 100 ≤ x.tb.cntOf ns)
    (hhi : x.tb.cntOf ns ≤ x.now + 2000000000) : (heldSweep x).tb.cmp k = { t16 := x.tb.cntOf ns * 16, armed := true, fired := false } := by
  have hn : x.tb.heldEvents.filter (fun e => decide (x.tb.cntOf e.2 ≤ x.now + 2000000000)) = [(k, ns)] := by
    simp [hh, hhi]
  have ha := armAt_armed k ns (takenNear x)
  rw [takenNear_now, takenNear_cntOf] at ha
  rw [heldSweep_tb, hn, List.foldl_cons, List.foldl_nil]
  exact ha hlo hhi

/-- Settles O13: each event's own operation on the block of the timebase. -/
theorem timebaseEventRows : Obligations.TimebaseEventRows := by
  unfold Obligations.TimebaseEventRows
  refine ⟨?edge, ?gated, ?pulseEnd, ?ppsIn, ?sweep, ?armed, ?anchor, ?wrap⟩
  case edge =>
    intro s h x e hdue hen hgate
    refine gives_act ppsEdge e rfl fun y hy => ?_
    obtain ⟨c, l, ht⟩ := ppsEdge_tb hdue
    have hp : (x.tb.ppsEn && !(x.tb.ppsGate && !x.tb.timeValid)) = true := by
      rcases hgate with hg | hg <;> simp [hen, hg]
    rw [Hoop.tb_of_calm hy, ht, ppsPulse, if_pos hp]
    exact ⟨rfl, rfl⟩
  case gated =>
    intro s h x e hdue hgate hinvalid
    refine gives_act ppsEdge e rfl fun y hy => ?_
    obtain ⟨c, l, ht⟩ := ppsEdge_tb hdue
    rw [Hoop.tb_of_calm hy, ht, ppsPulse, if_neg (by simp [hgate, hinvalid])]
  case pulseEnd =>
    intro s h x e hr
    exact makes_act (fun x => if x.tb.reached (x.tb.ppsEnd * 16) then { x with tb := { x.tb with ppsOut := false } } else x) e rfl
      (congrArg Hoop.calm (if_pos hr))
  case ppsIn =>
    intro s
    refine ⟨_, rfl, fun h e => ?_⟩
    obtain ⟨x, hx, ht⟩ := act_both_tb s ppsIn_site e
    rw [ht, ← hx]
    exact ppsIn_stamp x
  case sweep =>
    intro s h x e
    refine gives_act heldSweep e rfl fun y hy => ?_
    rw [Hoop.tb_of_calm hy, heldSweep_heldEvents]
  case armed =>
    intro s h x k ns e hh hlo hhi
    refine gives_act heldSweep e rfl fun y hy => ?_
    rw [Hoop.tb_of_calm hy, heldSweep_cmp hh hlo hhi]
  case anchor =>
    intro s h x e hs
    exact makes_act anchorRewrite e rfl (congrArg Hoop.calm (if_neg (Nat.not_le.mpr hs)))
  case wrap =>
    intro s h x e hw
    refine gives_act (fun x => if x.tb.tick.prevWrapped then { x with tb := x.tb.tick } else x) e rfl fun y hy => ?_
    have ht : y.tb = x.tb.tick := (Hoop.tb_of_calm hy).trans (congrArg Hoop.tb (if_pos (decide_eq_true hw)))
    rw [ht]
    exact ⟨if_pos hw, rfl⟩

end Sys2Proof.Machine
end

section
/-!
SUPPORT. The PTP commands (R70, R75) and the statement O15; source 12 of the time link, whose rails agree, and the statement O14, which it refutes.
-/

namespace Sys2Proof.Machine
open Sys2Proof

theorem passes_steers {s : State} {h : HoopId} {r op : Nat} {c : ReadCmd} {v : Verb} (p : passes s h r op c v = true) :
    steers (breakRun r op (s.hoop h)) = true := by
  simp only [passes, atFront, Bool.and_eq_true] at p
  obtain ⟨⟨⟨⟨⟨⟨-, hactive⟩, -⟩, -⟩, -⟩, -⟩, -⟩ := p
  rw [steers, breakRun_pair, hactive, Bool.or_true]

/-- The peer follows; the hoop itself is left as it is. -/
theorem timeFollow_hoop (h : HoopId) (s : State) : (timeFollow h s).hoop h = s.hoop h := by
  unfold timeFollow
  split
  · cases h with
    | hoopA => exact State.upd_other s .hoopB _
    | hoopB => exact State.upd_other s .hoopA _
  · rfl

/-! ## PTP_CFG and DOMAIN_SWITCH -/

theorem updValid_settings (x : Hoop) : (updValid x).settings = x.settings := by
  unfold updValid
  extract_lets v y
  have hy : y.settings = x.settings := by
    show (if _ then _ else _ : Hoop).settings = _
    split <;> rfl
  split
  · exact hy
  · exact (raiseEv_settings ..).trans hy

/-- The roles exchanged, and what follows their anchor, before any of it is told. -/
def rolesTaken (d : Int) (x : Hoop) : Hoop :=
  let t := { x.tb with
    pri := x.tb.sec, sec := x.tb.pri, secOffset := -x.tb.secOffset, secRate := -x.tb.secRate,
    heldEvents := x.tb.heldEvents.map (fun e => if 4 ≤ e.1 ∧ e.1 ≤ 6 then (e.1, ((e.2 : Int) + d).toNat) else e)
    domSwitches := x.tb.domSwitches + 1 }
  { x with
    tb := t
    pmc := { x.pmc with switched := true }
    cm := { x.cm with pending := x.cm.pending.map (fun c => if x.now + 2000000000 < c.epoch then { c with epoch := t.cntOf c.epochNs } else c) } }

/-- Event 66, and the journal's record of a switch over more than 10 ns. -/
def tellSwitch (d : Int) (x : Hoop) : Hoop :=
  let y := raiseEv 66 [ofSigned 64 d] .hoop (ledFlag 3 x)
  if 10 < d.natAbs then jnlPut 3 0xFF 0xFFFF false (words [66, ofSigned 32 d]) y else y

theorem takeRoles_eq (d : Int) (x : Hoop) : takeRoles d x = updValid (tellSwitch d (rolesTaken d x)) := rfl

theorem tellSwitch_calm (d : Int) (x : Hoop) : (tellSwitch d x).calm = x.calm := by
  unfold tellSwitch
  extract_lets y
  have hy : y.calm = x.calm := (raiseEv_calm ..).trans (ledFlag_calm ..)
  split
  · exact (jnlPut_calm ..).trans hy
  · exact hy

theorem takeRoles_tb (d : Int) (x : Hoop) : (takeRoles d x).tb = { (rolesTaken d x).tb with timeValid := timeOk (rolesTaken d x).tb } := by
  rw [takeRoles_eq, updValid_tb, Hoop.tb_of_calm (tellSwitch_calm ..)]

/-- The anchor rewritten to the secondary's time, and the increment at its rate, before the roles are exchanged (R75). -/
def switchAnchor (x : Hoop) : Hoop :=
  let base : Int := ((x.tb.ptpOf x.now : Nat) : Int) + secOff x x.now
  let y := setInc ((x.tb.inc.toNat : Int) + (x.tb.inc.toNat : Int) * x.tb.secRate / 2 ^ 40) x
  { y with tb := { y.tb with
    anchorCnt := x.now, anchorSec := (base / 1000000000).toNat, anchorNs := (base % 1000000000).toNat, anchorGen := x.tb.anchorGen + 1 } }

theorem switchDomains_eq (x : Hoop) : switchDomains x = takeRoles (secOff x x.now) (switchAnchor x) := rfl

theorem switchDomains_tb (x : Hoop) : (switchDomains x).tb.pri = x.tb.sec ∧ (switchDomains x).tb.sec = x.tb.pri ∧
    (switchDomains x).tb.secOffset = -x.tb.secOffset ∧ (switchDomains x).tb.secRate = -x.tb.secRate ∧
    (switchDomains x).tb.domSwitches = x.tb.domSwitches + 1 ∧ (switchDomains x).tb.anchorCnt = x.now := by
  rw [switchDomains_eq, takeRoles_tb]
  exact ⟨rfl, rfl, rfl, rfl, rfl, rfl⟩

/-- Settles O15: each command's own effect on the timebase and the settings, which its completion and `settle` leave alone. -/
theorem clockCommands : Obligations.ClockCommands := by
  unfold Obligations.ClockCommands
  refine ⟨?ptp, ?switch⟩
  case ptp =>
    intro s h r c p
    refine gives_serve p rfl fun y hy => ?_
    extract_lets d v
    have hset : y.settings = _ := (Hoop.settings_of_calm (hy.trans (adminOk_calm ..))).trans (updValid_settings _)
    have hdom : v = _ := (Hoop.dom_of_tb (Hoop.tb_of_calm (hy.trans (adminOk_calm ..))) d).trans ((updValid_dom ..).trans (Hoop.setDom_same _ d _))
    have hmem : (0x40, d, paramOf c.bytes) ∈ y.settings := by
      rw [hset, ← passes_opcode p]
      exact storeSetting_mem (ctxOf s h r c) d _
    rw [hdom]
    exact ⟨rfl, rfl, rfl, rfl, rfl, rfl, rfl, rfl, rfl, rfl, hmem⟩
  case switch =>
    intro s h r c p
    have ht : ((timeFollow h (s.serve h r 0x41 domainSwitchVerb)).hoop h).tb = (switchDomains (breakRun r 0x41 (s.hoop h))).tb := by
      rw [timeFollow_hoop, serve_tb s h r 0x41 c domainSwitchVerb p]
      exact (adminOk_tb ..).trans (congrArg Hoop.tb (if_pos (passes_steers p)))
    have hs := switchDomains_tb (breakRun r 0x41 (s.hoop h))
    rw [← ht, Hoop.now, breakRun_tb] at hs
    exact ⟨_, rfl, hs⟩

/-! ## The time link -/

theorem updValid_lines (x : Hoop) : (updValid x).lines = x.lines := by
  unfold updValid
  extract_lets v y
  have hy : y.lines = x.lines := by
    show (if _ then _ else _ : Hoop).lines = _
    split <;> rfl
  split
  · exact hy
  · exact (raiseEv_lines ..).trans hy

theorem tellSwitch_lines (d : Int) (x : Hoop) : (tellSwitch d x).lines = x.lines := by
  unfold tellSwitch
  extract_lets y
  have hy : y.lines = x.lines := (raiseEv_lines ..).trans rfl
  split
  · exact (jnlPut_lines ..).trans hy
  · exact hy

theorem takeRoles_lines (d : Int) (x : Hoop) : (takeRoles d x).lines = x.lines := by
  rw [takeRoles_eq, updValid_lines, tellSwitch_lines]
  rfl

theorem followTime_lines (a y : Hoop) : (followTime a y).lines = y.lines := by
  unfold followTime
  dsimp only
  split
  · rfl
  · exact (takeRoles_lines ..).trans rfl

/-- A hoop that follows the time keeps its fault collector. -/
theorem timeFollow_lines (h k : HoopId) (s : State) : ((timeFollow h s).hoop k).lines = (s.hoop k).lines := by
  unfold timeFollow
  split
  · exact upd_lines s (other h) k _ (followTime_lines _)
  · rfl

/-- A source whose rails agree stays asserted when its condition ends (R277). -/
theorem faultOff_agree {k : Nat} {x : Hoop} (h : (x.src k).agree = true) : faultOff k x = x := if_neg (by rw [h, Bool.not_true, Bool.and_false]; decide)

/-- A source that is not live has nothing to end. -/
theorem faultOff_idle {k : Nat} {x : Hoop} (h : (x.src k).live = false) : faultOff k x = x := if_neg (by rw [h, Bool.false_and]; decide)

/-- The two hoops in phase over a link that holds: source 12 stays as its rails hold it. -/
theorem timeLink_agree {x : Hoop} (hd : Config.duplex x.part = true) (h12 : (x.src 12).agree = true) (h13 : (x.src 13).live = false) :
    timeLink 0 true x = { x with tb := { x.tb with linkOk := true } } := by
  have e12 : faultOff 12 { x with tb := { x.tb with linkOk := true } } = _ := faultOff_agree h12
  have e13 : faultOff 13 { x with tb := { x.tb with linkOk := true } } = _ := faultOff_idle h13
  unfold timeLink
  rw [if_pos hd]
  exact (congrArg (faultOff 13) e12).trans e13

theorem timeLinkCompare_agree {s t : State} {h : HoopId} (e : s.has h = true) (hd : Config.duplex (s.hoop h).part = true)
    (h12 : ((s.hoop h).src 12).agree = true) (h13 : ((s.hoop h).src 13).live = false) (ht : exec (.timeLinkCompare h 0 true) s = .next t) :
    (t.hoop h).src 12 = (s.hoop h).src 12 := by
  cases ht
  refine Hoop.src_of_lines (((timeFollow_lines ..).trans (timeFollow_lines ..)).trans ((act_lines s h _ e).trans ?_)) 12
  rw [timeLink_agree hd h12 h13]
  rfl

/-- Refutes O14: its last clause has source 12 live exactly where the phase is over 2 ns, but a source whose rails agree (R277), as WIRE_FAULT leaves it,
stays live when the two hoops are in phase again. -/
theorem not_servoRows : ¬ Obligations.ServoRows := by
  unfold Obligations.ServoRows
  rintro ⟨-, -, -, -, -, -, -, -, -, hlink⟩
  obtain ⟨t, ht, -, hlive, -⟩ :=
    hlink { State.reset with a := { State.reset.a with part := .qn0512d, fc := { src := [(12, { live := true, agree := true })] } } } .hoopA _ 0 true
      ⟨rfl, rfl⟩ rfl
  rw [timeLinkCompare_agree rfl rfl rfl rfl ht] at hlive
  exact absurd hlive (by decide)

end Sys2Proof.Machine
end

section
/-!
SUPPORT. A served command's fault collector, the reference and the Selda commands of the monitor plane (R103, R196 to R200), and the statement O29.
-/

namespace Sys2Proof.Machine
open Sys2Proof

/-! ## The fault collector after a served command -/

theorem Hoop.lines_of_core {x y : Hoop} (h : x.core = y.core) : x.lines = y.lines :=
  congrArg (fun z : Hoop => ({ z.fc with dark := false } : Fc)) h

theorem serve_lines {s : State} {h : HoopId} {r op : Nat} {c : ReadCmd} {v : Verb} (p : passes s h r op c v = true) :
    ((s.serve h r op v).hoop h).lines = (ran s h r op c v).2.lines := by
  rw [serve_passes s h r op c v p]
  exact (act_lines s h (fun _ => _) (passes_has p)).trans (Hoop.lines_of_core (by simp))

/-- What a command's own effect says of the blocks that `settle` leaves alone and of the fault collector holds after the row. -/
theorem gives_serve_lines {i : Instr} {s : State} {h : HoopId} {r op : Nat} {c : ReadCmd} {v : Verb} {P : Hoop → Prop} (p : passes s h r op c v = true)
    (hx : exec i s = .next (s.serve h r op v)) (hP : ∀ y : Hoop, y.calm = (ran s h r op c v).2.calm → y.lines = (ran s h r op c v).2.lines → P y) :
    CompletesWith i s h P := ⟨_, hx, hP _ (serve_calm s h r op c v p) (serve_lines p)⟩

@[simp] theorem adminOk_lines (k : Ctx) (x y : Hoop) : (adminOk k x y).2.lines = y.lines := (raiseEv_lines ..).trans (jnlPut_lines ..)

@[simp] theorem storeSetting_lines (k : Ctx) (which : Nat) (x : Hoop) : (storeSetting k which x).lines = x.lines := rfl

/-! ## The reference (R197, R198) -/

theorem refOkSet_due {drift : Nat} {x : Hoop} (hok : x.mon.refOk = false) (hn : x.mon.refChanged + 50000 ≤ x.now) (hd : drift ≤ 1000) :
    refOkSet drift x = raiseEv 170 [1, x.mon.refSrc.toNat] .hoop { x with mon := { x.mon with refOk := true } } := by
  refine if_neg ?_
  rw [hok]
  simp [hn, hd]

theorem selectRef_other {src : BitVec 2} {meas : Nat} {x : Hoop} (h : src ≠ x.mon.refSrc) : (selectRef src meas x).mon = { x.mon with
    refSrc := src, refOk := false, refFallback := false, refChanged := x.now, refMeas := if src = 0 then 1250000 else BitVec.ofNat 32 meas } := by
  rw [selectRef, if_neg h, raiseEv_mon]

theorem refFallback_external {x : Hoop} (h : x.mon.refSrc = 1) : (refFallback x).mon = { x.mon with
    refSrc := 0, refOk := false, refFallback := true, refChanged := x.now, refMeas := 1250000 } := by
  have hn : ¬ (x.mon.refSrc != 1) = true := by simp [h]
  rw [refFallback, if_neg hn, fault_mon, raiseEv_mon, selectRef_other (by rw [h]; decide)]
  rfl

theorem refFallback_live {x : Hoop} (h : x.mon.refSrc = 1) : ((refFallback x).src 110).live = true := by
  have hn : ¬ (x.mon.refSrc != 1) = true := by simp [h]
  rw [refFallback, if_neg hn]
  exact fault_live _ rfl

/-! ## The commands -/

theorem breakRun_awaiting (r op : Nat) (x : Hoop) : awaiting (breakRun r op x) = awaiting x := by
  unfold breakRun; split <;> rfl

theorem breakRun_pricking (r op : Nat) (x : Hoop) : (breakRun r op x).pricking = x.pricking := by
  simp only [Hoop.pricking, breakRun_prk]

theorem refSel_same {k : Ctx} {x : Hoop} (h : BitVec.ofNat 2 (k.par 0 1) = x.mon.refSrc) : refSelVerb.run k x = adminOk k x (storeSetting k 0 x) := if_pos h

/-- A command that answers with its setting stored leaves it stored (R451). -/
theorem setting_stored {k : Ctx} {op which : Nat} {x y z : Hoop} (hy : y.calm = (adminOk k x (storeSetting k which z)).2.calm)
    (ho : (hdrOf k.cmd.bytes).opcode = op) : (op, which, paramOf k.cmd.bytes) ∈ y.settings := by
  rw [Hoop.settings_of_calm hy, adminOk_settings, ← ho]
  exact storeSetting_mem ..

/-- REF_SEL of another reference, where no verdict is waited for and no pricking runs. -/
theorem refSel_other {k : Ctx} {x : Hoop} (h : BitVec.ofNat 2 (k.par 0 1) ≠ x.mon.refSrc) (ha : awaiting x = false) (hp : x.pricking = false) :
    refSelVerb.run k x = adminOk k x (storeSetting k 0 (faultOff 110 (selectRef (BitVec.ofNat 2 (k.par 0 1)) x.fresh.1 x.fresh.2))) :=
  (if_neg h).trans (if_neg (by rw [ha, hp]; decide))

@[simp] theorem Hoop.updGroup_group_self (x : Hoop) (g : Nat) (f : Group → Group) : (x.updGroup g f).group g = f (x.group g) := smGet_smSet_self ..

theorem Hoop.updGroup_group_ne (x : Hoop) {g j : Nat} (f : Group → Group) (h : g ≠ j) : (x.updGroup j f).group g = x.group g := smGet_smSet_ne _ _ _ _ h

/-- Groups that take a profile one after the other: each of them has it then. -/
theorem profile_foldl (p : BitVec 2) {gs : List Nat} {g : Nat} (x : Hoop) (hg : g ∈ gs ∨ (x.group g).profile = p) :
    ((gs.foldl (fun y g => y.updGroup g (fun v => { v with profile := p })) x).group g).profile = p := by
  induction gs generalizing x with
  | nil => exact hg.resolve_left List.not_mem_nil
  | cons j gs ih =>
    refine ih _ ?_
    by_cases hj : g = j
    · subst hj
      exact .inr (congrArg Group.profile (x.updGroup_group_self g _))
    · exact hg.imp (fun hin => (List.mem_cons.mp hin).resolve_left hj) (congrArg Group.profile (x.updGroup_group_ne _ hj)).trans

theorem Hoop.group_of_mon {x y : Hoop} (h : x.mon = y.mon) (g : Nat) : x.group g = y.group g := congrArg (fun m : Mon => smGet ({} : Group) m.groups g) h

theorem Hoop.vp_of_calm {x y : Hoop} (h : x.calm = y.calm) : (x.cm.vp, x.cm.vpFrom, x.cm.vpPast) = (y.cm.vp, y.cm.vpFrom, y.cm.vpPast) := by
  have e := congrArg (fun z : Hoop => (z.cm.vp, z.cm.vpFrom, z.cm.vpPast)) h
  exact e

/-- Before its own instant a new set of verdict parameters leaves the ones in force. -/
theorem vpAt_before {x y : Hoop} {v : VParams} {n t : Nat} (h : (y.cm.vp, y.cm.vpFrom, y.cm.vpPast) = (v, n, (x.cm.vpFrom, x.cm.vp) :: x.cm.vpPast)) (ht : t < n) :
    vpAt y t = vpAt x t := by
  obtain ⟨-, hfrom, hpast⟩ : _ ∧ y.cm.vpFrom = n ∧ y.cm.vpPast = _ := by simpa only [Prod.mk.injEq] using h
  have hn : ¬ n ≤ t := Nat.not_le.mpr ht
  by_cases hx : x.cm.vpFrom ≤ t <;> simp [vpAt, hfrom, hpast, hn, hx]

/-! ## The statement -/

/-- Settles O29: the effect of each row and each command, with the fault collector's source 110 beside the monitor's registers. -/
theorem monitorCommands : Obligations.MonitorCommands := by
  unfold Obligations.MonitorCommands
  refine ⟨?refOk, ?fallback, ?refSel, ?refSame, ?profile, ?verify, ?cal⟩
  case refOk =>
    intro s h x drift e hok hn hd
    exact makes_act (refOkSet drift) e rfl (by rw [refOkSet_due hok hn hd, raiseEv_calm])
  case fallback =>
    intro s h x e hsrc
    exact gives_act_lines refFallback e rfl fun y hy hl =>
      ⟨(Hoop.mon_of_calm hy).trans (refFallback_external hsrc), (congrArg Src.live (Hoop.src_of_lines hl 110)).trans (refFallback_live hsrc)⟩
  case refSel =>
    intro s h c p ha hp
    refine gives_serve_lines p rfl fun y hy hl => ?_
    by_cases hsame : BitVec.ofNat 2 ((ctxOf s h 0 c).par 0 1) = (breakRun 0 0x44 (s.hoop h)).mon.refSrc
    · rw [ran, refSel_same hsame] at hy
      have hmon := Hoop.mon_of_calm hy
      rw [adminOk_mon, storeSetting_mon] at hmon
      rw [hmon]
      rw [breakRun_mon] at hsame ⊢
      exact ⟨hsame.symm, fun hne => absurd hsame.symm hne, setting_stored hy (passes_opcode p)⟩
    · rw [ran, refSel_other hsame ((breakRun_awaiting ..).trans ha) ((breakRun_pricking ..).trans hp)] at hy hl
      have hsel : BitVec.ofNat 2 ((ctxOf s h 0 c).par 0 1) ≠ (breakRun 0 0x44 (s.hoop h)).fresh.2.mon.refSrc := hsame
      have hmon := Hoop.mon_of_calm hy
      rw [adminOk_mon, storeSetting_mon, faultOff_mon, selectRef_other hsel] at hmon
      rw [adminOk_lines, storeSetting_lines] at hl
      rw [hmon]
      refine ⟨rfl, fun _ => ⟨rfl, fun hag => ?_, fun h0 => if_pos (congrArg (BitVec.ofNat 2) h0)⟩, setting_stored hy (passes_opcode p)⟩
      rw [Hoop.src_of_lines hl 110]
      refine faultOff_not_live ?_
      rw [selectRef, if_neg hsel, Hoop.src_of_lines (raiseEv_lines ..) 110]
      exact (congrArg (fun f : Fc => (smGet ({} : Src) f.src 110).agree) (breakRun_fc ..)).trans hag
  case refSame =>
    intro s h c p hsame
    have hpar : BitVec.ofNat 2 ((ctxOf s h 0 c).par 0 1) = (breakRun 0 0x44 (s.hoop h)).mon.refSrc := by
      rw [breakRun_mon, hsame]
      rfl
    refine gives_serve p rfl fun y hy => ?_
    rw [ran, refSel_same hpar] at hy
    exact ⟨by rw [Hoop.mon_of_calm hy, adminOk_mon, storeSetting_mon, breakRun_mon], setting_stored hy (passes_opcode p)⟩
  case profile =>
    intro s h c p
    refine gives_serve p rfl fun y hy => ⟨fun g hg hsel => ?_, setting_stored hy (passes_opcode p)⟩
    rw [Hoop.group_of_mon ((Hoop.mon_of_calm (hy.trans (adminOk_calm ..))).trans (storeSetting_mon ..))]
    refine profile_foldl _ _ (.inl ?_)
    split
    · exact List.mem_range.mpr (by rwa [Hoop.nG, breakRun_part])
    next hall => exact List.mem_singleton.mpr (hsel.resolve_left hall).symm
  case verify =>
    intro s h c p
    refine gives_serve p rfl fun y hy => ?_
    have hvp := Hoop.vp_of_calm (hy.trans (adminOk_calm ..))
    have hnow : (breakRun 0 0x42 (s.hoop h)).now = (s.hoop h).now := congrArg Tb.now (breakRun_tb ..)
    simp only [storeSetting_cm, breakRun_cm, hnow] at hvp
    exact ⟨congrArg Prod.fst hvp, congrArg (·.2.1) hvp, fun t ht => vpAt_before hvp ht, setting_stored hy (passes_opcode p)⟩
  case cal =>
    intro s h c p
    refine gives_serve p rfl fun y hy => ⟨?_, setting_stored hy (passes_opcode p)⟩
    rw [Hoop.mon_of_calm (hy.trans (adminOk_calm ..)), storeSetting_mon]
    simp only [breakRun_mon]
    rfl

end Sys2Proof.Machine
end

section
/-!
SUPPORT. Three statements that some state does not meet, O28, O36 and O53: each with the state, what the model makes of it, and the refutation.
-/

namespace Sys2Proof.Machine
open Sys2Proof

/-! ## O28: a channel that the sparse array lists twice -/

/-- Channel 0 stands twice among the channels, which no premise of O28 forbids: its first entry, the one that a read finds, ends its spare test with a
rail that has not failed; its second has a test that waits for the spare. -/
def channelTwice : State := { State.reset with a := { State.reset.a with mon := { chans := [(0, { testing := true, rail := 256 }), (0, { due := true })] } } }

/-- The spare that the test frees goes to the test that waits, which is again one of channel 0 (R206). -/
theorem spareTestEnd_channelTwice {t : State} (ht : exec (.spareTestEnd .hoopA 0 false) channelTwice = .next t) : (t.a.chan 0).testing = true := by
  obtain rfl := Host.Outcome.next.inj ht
  decide +kernel

/-- Refutes O28: by its fourth clause the channel is no longer tested, but the test of its second entry begins at once. -/
theorem not_monitorFailures : ¬ Obligations.MonitorFailures := by
  unfold Obligations.MonitorFailures
  rintro ⟨-, -, -, hback, -⟩
  obtain ⟨t, ht, hchan⟩ := hback channelTwice .hoopA _ 0 ⟨rfl, rfl⟩ rfl rfl (by decide)
  have htest := congrArg Chan.testing hchan
  rw [State.hoop_a, spareTestEnd_channelTwice ht] at htest
  exact absurd htest (by decide)

/-! ## O36: a stage whose digest differs from the standby's -/

/-- A posted CREATE on ingress port 0 whose delta is the port's eyelet. -/
def postedCreate : Commit where
  seq := 1
  ring := 0
  tenant := 0
  epochNs := 1000
  epoch := 1000
  changes := [{ kind := .create, inPort := 0, after := {}, before := {} }]
  delta := [{ elem := Config.stitches .qn0512d, st := .eyOpen, ncode := 0, hff := 0, hrange := false, band := false, mixed := false, moved := false }]
  chans := []
  deps := []
  stage := .posted

/-- A quiet QN-0512D: the standby, which is late and so not eligible, has staged the same commit with an empty delta; the holder stages it now. -/
def digestsDiffer : State := { State.reset with
  a := { State.reset.a with
    part := .qn0512d, pair := { role := .active }, cm := { pending := [postedCreate] }, thr := [(0, { st := .staged })]
    tmb := { st := .idle, normal := [{ code := 1, seq := postedCreate.key }] }, ths := { commitOk := true } }
  b := { State.reset.b with
    part := .qn0512d, pair := { role := .standby, catchup := [(0, [])] }, tmb := { dacStaged := true, stagedSeq := some postedCreate.key } } }

/-- The comparison raises source 160 in the holder (R317, R319), the module darks (R283), and the dark of the thread takes its eyelet out of the staged
delta (R111). -/
theorem stageStd_digestsDiffer {t : State} (ht : exec (.stageStd .hoopA [] [] .clean) digestsDiffer = .next t) : t.a.tmb.stageDelta = [] := by
  obtain rfl := Host.Outcome.next.inj ht
  decide +kernel

/-- Refutes O36: by its first clause the staged delta is the commit's, but a stage whose digests differ darks the module. -/
theorem not_stagingOperations : ¬ Obligations.StagingOperations := by
  unfold Obligations.StagingOperations
  rintro ⟨hstd, -⟩
  obtain ⟨t, ht, -, -, hdelta, -⟩ := hstd digestsDiffer .hoopA _ { code := 1, seq := postedCreate.key } postedCreate [] [] [] ⟨rfl, rfl⟩
    (by decide +kernel) (by decide +kernel) (by decide +kernel) (by decide +kernel) (by decide +kernel) rfl (by decide +kernel)
  rw [State.hoop_a, stageStd_digestsDiffer ht] at hdelta
  exact absurd hdelta (by decide +kernel)

/-! ## O53: a window under the keeper's force -/

/-- A quiet hoop under the keeper's force (R289), with the drive window of an eyelet tile open (R162). -/
def windowForced : State := { State.reset with a := { State.reset.a with dk := { force := true }, drv := { tiles := [(151, { win := some .drive })] } } }

/-- The force holds the window of an eyelet tile open. -/
theorem windowEnd_windowForced {t : State} (ht : exec (.windowEnd .hoopA 151 []) windowForced = .next t) : (t.a.tile 151).win = some .drive := by
  obtain rfl := Host.Outcome.next.inj ht
  decide +kernel

/-- Refutes O53: its fifth clause has every window of a quiet module closed by WINDOW_END, also one that the keeper's force holds open. -/
theorem not_windowRows : ¬ Obligations.WindowRows := by
  unfold Obligations.WindowRows
  rintro ⟨-, -, -, -, hend, -⟩
  obtain ⟨t, ht, hwin, -⟩ := hend windowForced .hoopA _ 151 .drive ⟨rfl, rfl⟩ rfl
  have hnone := hwin (by decide +kernel)
  rw [State.hoop_a, windowEnd_windowForced ht] at hnone
  exact absurd hnone (by decide)

end Sys2Proof.Machine
end

section
/-!
SUPPORT. The desk at which commits are taken and withdrawn, the DARKED transition and a withdrawal (R44, R109, R112), and the statement O18.
-/

namespace Sys2Proof.Machine
open Sys2Proof

/-- The commits, what a quiet module rests on (the part, the sources and the parity error), and the FCID counter. -/
structure Desk where
  cm : Cm
  part : Part
  src : SMap Src
  fcPar : Bool
  fcInit : BitVec 16

def Hoop.desk (x : Hoop) : Desk where
  cm := x.cm
  part := x.part
  src := x.fc.src
  fcPar := x.dk.fcPar
  fcInit := x.wlm.fcInit

theorem Hoop.desk_of_core {x y : Hoop} (h : x.core = y.core) : x.desk = y.desk := by
  have e := congrArg Hoop.desk h; exact e

theorem Hoop.cm_of_desk {x y : Hoop} (h : x.desk = y.desk) : x.cm = y.cm := congrArg Desk.cm h

theorem Hoop.desk_foldl {α : Type} (f : Hoop → α → Hoop) (h : ∀ x a, (f x a).desk = x.desk) (l : List α) (x : Hoop) : (l.foldl f x).desk = x.desk :=
  foldl_keeps Hoop.desk f h l x

/-- A served command that keeps what a quiet module rests on: what its effect says of the core holds after the row. -/
theorem gives_serve_desk {i : Instr} {s : State} {h : HoopId} {r op : Nat} {c : ReadCmd} {v : Verb} {P : Hoop → Prop} {d : Desk}
    (p : passes s h r op c v = true) (q : s.quiet = true) (hx : exec i s = .next (s.serve h r op v)) (hd : (ran s h r op c v).2.desk = d)
    (hp : d.part = (s.hoop h).part) (hs : d.src = (s.hoop h).fc.src) (hk : d.fcPar = (s.hoop h).dk.fcPar)
    (hP : ∀ y : Hoop, y.core = (ran s h r op c v).2.core → y.desk = d → P y) : CompletesWith i s h P :=
  gives_serve_core p q hx ((congrArg Desk.part hd).trans hp) ((congrArg Desk.src hd).trans hs) ((congrArg Desk.fcPar hd).trans hk)
    fun y hy => hP y hy ((Hoop.desk_of_core hy).trans hd)

theorem breakRun_desk (r op : Nat) (x : Hoop) : (breakRun r op x).desk = x.desk := Hoop.desk_of_core (breakRun_core ..)

/-- What a quiet module rests on, of an operation that leaves alone what telling, darks and faults may change and the fault collector. -/
theorem Hoop.rests_of_calm_lines {x y : Hoop} (hc : x.calm = y.calm) (hl : x.lines = y.lines) :
    x.part = y.part ∧ x.fc.src = y.fc.src ∧ x.dk.fcPar = y.dk.fcPar := by
  have hk := congrArg (fun z : Hoop => z.dk.fcPar) hc
  exact ⟨Hoop.part_of_calm hc, (congrArg Fc.src hl :), hk⟩

/-! ## Frames and notices -/

theorem sendToward_core (tel : Bool) (b : Bytes) (x : Hoop) : (sendToward tel b x).core = x.core := by
  unfold sendToward
  split
  · exact sendFrame_core ..
  · split
    · exact wlm_core x _ (Wlm.core_upd ..)
    · exact (pmcRaw_core ..).trans (wlm_core x _ (Wlm.core_upd ..))

/-- Of the core a frame takes a SEQ. -/
theorem originate_core (dst type : Nat) (p : Bytes) (x : Hoop) :
    (originate dst type p x).core = ({ x with wlm := { x.wlm with seq := nextSeq x.wlm.seq } } : Hoop).core := by
  unfold originate
  extract_lets seq b w y
  split
  · exact foldl_keeps Hoop.core _ (fun _ _ => sendFrame_core ..) _ y
  · exact sendToward_core _ _ y

theorem originate_standing (dst type : Nat) (p : Bytes) (x : Hoop) : (originate dst type p x).standing = x.standing :=
  (Hoop.standing_of_core (originate_core ..)).trans rfl

theorem originate_desk (dst type : Nat) (p : Bytes) (x : Hoop) : (originate dst type p x).desk = x.desk :=
  (Hoop.desk_of_core (originate_core ..)).trans rfl

theorem sendNotices_standing (c : Chain) (i cause : Nat) (x : Hoop) : (sendNotices c i cause x).standing = x.standing := by
  refine Hoop.standing_foldl _ (fun y a => ?_) _ x
  exact (originate_standing ..).trans rfl

theorem notify_standing (i cause : Nat) (x : Hoop) : (notify i cause x).standing = x.standing := by
  unfold notify
  split
  · rfl
  · split
    · rfl
    · exact (raiseEv_standing ..).trans (sendNotices_standing ..)

/-! ## DARKED (R44, R109) -/

theorem darkThread_darked {i cause seq src : Nat} {x : Hoop} (h : (x.thread i).st.live = true) :
    ((darkThread i cause seq src x).thread i).st = .darked := by
  unfold darkThread
  rw [if_pos h]
  extract_lets y z
  refine (congrArg Thread.st (Hoop.thread_of_standing (outcomes_standing _) i)).trans ?_
  have hz : (z.thread i).st = .darked := congrArg Thread.st (setSt_thread_self ..)
  split
  · exact hz
  · exact (congrArg Thread.st (Hoop.thread_of_standing (notify_standing ..) i)).trans hz

theorem getLsbD_or_twoPow (b : BitVec 512) {i : Nat} (h : i < 512) : (b ||| BitVec.twoPow 512 i).getLsbD i = true := by
  simp [h]

theorem Hoop.tmb_of_core {x y : Hoop} (h : x.core = y.core) : x.tmb = y.tmb := by
  have e := congrArg (fun z : Hoop => z.tmb) h; exact e

theorem Hoop.prk_of_core {x y : Hoop} (h : x.core = y.core) : x.prk = y.prk := by
  have e := congrArg (fun z : Hoop => z.prk) h; exact e

/-! ## A commit withdrawn (R112) -/

/-- A change of thread, override or queue leaves the desk. -/
theorem setSt_desk (i : Nat) (st : ThreadSt) (c q r : Nat) (x : Hoop) : (setSt i st c q r x).desk = x.desk :=
  (Hoop.desk_of_core (setSt_core ..)).trans rfl

theorem threadEvent_desk (i : Nat) (t : Thread) (prev : ThreadSt) (c q r l : Nat) (x : Hoop) : (threadEvent i t prev c q r l x).desk = x.desk :=
  Hoop.desk_of_core (threadEvent_core ..)

theorem undoChange_desk (seq : Nat) (g : Change) (x : Hoop) : (undoChange seq g x).desk = x.desk := by
  unfold undoChange
  extract_lets t
  split
  · rfl
  · split
    · exact (threadEvent_desk ..).trans rfl
    · exact (setSt_desk ..).trans rfl
    · rfl

/-- The pending commits with other stages. -/
def Desk.restage (f : Commit → StageSt) (d : Desk) : Desk :=
  { d with cm := { d.cm with pending := d.cm.pending.map (fun c => { c with stage := f c }) } }

theorem Desk.restage_stage (d : Desk) : d.restage Commit.stage = d := by
  show { d with cm := { d.cm with pending := d.cm.pending.map id } } = d
  rw [List.map_id]

theorem mem_restage {f : Commit → StageSt} {d : Desk} {m : Commit} : m ∈ (d.restage f).cm.pending ↔ ∃ c ∈ d.cm.pending, { c with stage := f c } = m :=
  List.mem_map

/-- A map of the pending commits that touches their stages alone. -/
theorem Desk.restage_map {f : Commit → StageSt} {g : Commit → Commit} (d : Desk) (h : ∀ c, g c = { c with stage := f c }) :
    { d with cm := { d.cm with pending := d.cm.pending.map g } } = d.restage f := by
  rw [Desk.restage, funext h]

theorem postStage_desk (x : Hoop) : ∃ f, (postStage x).desk = x.desk.restage f := by
  unfold postStage
  split
  · exact ⟨_, (Desk.restage_stage _).symm⟩
  next c _ =>
    split
    · refine ⟨fun d => if d.epochNs = c.epochNs ∧ !d.delta.isEmpty then .posted else d.stage, Desk.restage_map x.desk fun d => ?_⟩
      split <;> rfl
    · exact ⟨_, (Desk.restage_stage _).symm⟩

/-- The pending table without one commit. -/
def Desk.without (k : Nat) (d : Desk) : Desk := { d with cm := { d.cm with pending := d.cm.pending.filter (fun c => c.key != k) } }

/-- A withdrawal of a commit of one module alone, up to its outcome and the stage that is posted next. -/
theorem withdraw_outcome {c : Commit} {code : Nat} (note : Bool) (x : Hoop) (hf : c.fcid = none) : ∃ f y o,
    y.desk = (x.desk.without c.key).restage f ∧ o.seq = c.seq ∧ o.ring = c.ring ∧ o.outcome = code ∧
      withdraw c code note x = postStage (putOutcome o y) := by
  unfold withdraw
  extract_lets cm0 x0 others x1 x2 x3 x4 x5
  have h1 : ∃ f, x1.desk = x0.desk.restage f := by
    show ∃ f, (match c.stage with | .armed k => _ | .posted => _ | .waiting => _ : Hoop).desk = _
    split
    · exact ⟨_, (Desk.restage_stage _).symm⟩
    · refine ⟨fun d => if d.epochNs = c.epochNs ∧ c.stage = .posted then .waiting else d.stage, Desk.restage_map x0.desk fun d => ?_⟩
      split <;> rfl
    · exact ⟨_, (Desk.restage_stage _).symm⟩
  obtain ⟨f, h1⟩ := h1
  have h2 : x2.desk = x1.desk := Hoop.desk_foldl _ (fun _ _ => undoChange_desk ..) _ x1
  have h3 : x3.desk = x2.desk := by
    show (if _ then raiseEv _ _ _ x2 else x2 : Hoop).desk = x2.desk
    split
    · exact Hoop.desk_of_core (raiseEv_core ..)
    · rfl
  have h5 : x5 = x4 := by simp only [x5, hf]
  exact ⟨f, x3, _, h3.trans (h2.trans h1), rfl, rfl, rfl, congrArg postStage h5⟩

/-- Withdrawn, a commit stands no longer in the table, and its outcome stands in the history. -/
theorem withdraw_desk {c : Commit} {code : Nat} (note : Bool) (x : Hoop) (hf : c.fcid = none) : ∃ d, (withdraw c code note x).desk = d ∧ d.part = x.part ∧
    d.src = x.fc.src ∧ d.fcPar = x.dk.fcPar ∧ (∀ m ∈ d.cm.pending, m.key ≠ c.key) ∧
    ∃ o ∈ d.cm.history, o.seq = c.seq ∧ o.ring = c.ring ∧ o.outcome = code := by
  obtain ⟨f, y, o, hy, hs, hr, hc, hw⟩ := withdraw_outcome (code := code) note x hf
  obtain ⟨g, hg⟩ := postStage_desk (putOutcome o y)
  refine ⟨_, rfl, ?_⟩
  have hrig : (putOutcome o y).rig = y.rig := Hoop.rig_of_standing (putOutcome_standing ..)
  rw [hw, hg]
  refine ⟨(congrArg Rig.part hrig).trans (congrArg Desk.part hy), (congrArg Rig.src hrig).trans (congrArg Desk.src hy),
    (congrArg Rig.fcPar hrig).trans (congrArg Desk.fcPar hy), fun m hm => ?_, o, putOutcome_history .., hs, hr, hc⟩
  have hpend : (putOutcome o y).desk.cm.pending = ((x.desk.without c.key).restage f).cm.pending :=
    (congrArg Rig.pending hrig).trans (congrArg (fun d : Desk => d.cm.pending) hy)
  obtain ⟨m1, hm1, rfl⟩ := mem_restage.mp hm
  rw [hpend] at hm1
  obtain ⟨m2, hm2, rfl⟩ := mem_restage.mp hm1
  exact bne_iff_ne.mp (List.mem_filter.mp hm2).2

/-! ## The statement -/

theorem cancelVerb_own {k : Ctx} {x : Hoop} {m : Commit} (hm : findPending x k.ring (field ((k.tlv 3).getD []) 0 6) = some m) (hf : m.fcid = none)
    (hd : x.cm.pending.any (fun d => d.deps.contains m.key) = false) (hn : x.now + 500 ≤ m.epoch) :
    cancelVerb.run k x = ({ status := 0, epochNs := some m.epochNs }, withdraw m 3 true x) := by
  have hlate : decide (m.epoch < x.now + 500) = false := decide_eq_false (by omega)
  unfold cancelVerb
  simp only [hm, hf, hd, hlate]
  rfl

theorem darkNowVerb_own {k : Ctx} {x : Hoop} {e : Edit} (he : editOf 6 (ringTag x k.ring) k.tlvList = e) (ho : ownsEdit x { ring := k.ring } x.thr e = true) :
    darkNowVerb.run k x = ({ status := 0 }, reqDark e.inPort (darkThread e.inPort 3 k.seq 0xFFFF x)) := by
  subst he
  exact if_neg (by simp [ho])

/-- Settles O18: DARK_NOW by the DARKED transition and the request, CANCEL by a withdrawal, NOP by its empty effect. -/
theorem immediateCommands : Obligations.ImmediateCommands := by
  unfold Obligations.ImmediateCommands
  refine ⟨?darkNow, ?cancel, ?nop⟩
  case darkNow =>
    intro s h r c q p ho hl hi
    have hown : ownsEdit (breakRun r 6 (s.hoop h)) { ring := r } (breakRun r 6 (s.hoop h)).thr (editFor s h r 6 c) = true := by
      rwa [breakRun_thr]
    have hrun : (ran s h r 6 c darkNowVerb).2 = _ := congrArg Prod.snd (darkNowVerb_own (k := ctxOf s h r c) rfl hown)
    obtain ⟨hpart, hsrc, hpar⟩ := Hoop.rests_of_calm_lines
      ((reqDark_calm (editFor s h r 6 c).inPort _).trans (darkThread_calm (editFor s h r 6 c).inPort 3 (ctxOf s h r c).seq 0xFFFF (breakRun r 6 (s.hoop h))))
      ((lines_of_fc _ _ rfl).trans (darkThread_lines ..))
    refine gives_serve_core p q rfl ((congrArg Hoop.part hrun).trans (hpart.trans (breakRun_part ..)))
      ((congrArg (fun z : Hoop => z.fc.src) hrun).trans (hsrc.trans (by rw [breakRun_fc])))
      ((congrArg (fun z : Hoop => z.dk.fcPar) hrun).trans (hpar.trans (by rw [breakRun_dk]))) fun y hy => ?_
    · rw [hrun] at hy
      rw [Hoop.thread_of_standing (Hoop.standing_of_core hy), Hoop.tmb_of_core hy, Hoop.prk_of_core hy]
      exact ⟨darkThread_darked hl, getLsbD_or_twoPow _ hi, getLsbD_or_twoPow _ hi⟩
  case cancel =>
    intro s h r c m q p hm hf hd hn
    have hrun : (ran s h r 7 c cancelVerb).2 = withdraw m 3 true (breakRun r 7 (s.hoop h)) :=
      congrArg Prod.snd (cancelVerb_own (k := ctxOf s h r c) hm hf (by rwa [breakRun_cm]) (by rwa [Hoop.now, breakRun_tb]))
    obtain ⟨d, hdesk, hp, hs, hk, hgone, hout⟩ := withdraw_desk (code := 3) true (breakRun r 7 (s.hoop h)) hf
    refine gives_serve_desk p q rfl ((congrArg Hoop.desk hrun).trans hdesk) (hp.trans ?_) (hs.trans ?_) (hk.trans ?_) fun y _ hy => ?_
    · exact congrArg Desk.part (breakRun_desk r 7 (s.hoop h))
    · exact congrArg Desk.src (breakRun_desk r 7 (s.hoop h))
    · exact congrArg Desk.fcPar (breakRun_desk r 7 (s.hoop h))
    · rw [show y.cm = d.cm from congrArg Desk.cm hy]
      exact ⟨hgone, hout⟩
  case nop =>
    intro s h r c p
    exact makes_serve p rfl (breakRun_calm ..)

end Sys2Proof.Machine
end

section
/-!
SUPPORT. What an accepted commit compiled to, and the pending table and the threads after it is taken (R44, R86, R87), and the statement O16.
-/

namespace Sys2Proof.Machine
open Sys2Proof

/-! ## What acceptance decides (R86) -/

theorem decideAt_accept {x : Hoop} {ens e : Nat} {es : List Edit} {late : Bool} {c d : Compiled} (h : decideAt x ens es late c = .accept d e) : d = c := by
  unfold decideAt at h
  split at h
  · cases h
  · split at h
    · cases h; rfl
    · cases h

/-- The entries compile to this at some epoch. -/
def compilesTo (x : Hoop) (es : List Edit) (c : Compiled) : Prop := ∃ ens, compile x ens (projCode x ens) es = some (some c)

theorem decideAsap_accept {x : Hoop} {es : List Edit} {fuel e e' : Nat} {c : Compiled} (h : decideAsap x es fuel e = .accept c e') : compilesTo x es c := by
  induction fuel generalizing e with
  | zero => cases h
  | succ fuel ih =>
    unfold decideAsap at h
    split at h
    · cases h
    · cases h
    next d hd =>
      dsimp only at h
      split at h
      · split at h
        · split at h
          · cases h
          · exact ih h
        · cases h; exact ⟨_, hd⟩
      · exact ih h

theorem decideOpen_accept {x : Hoop} {hasEpoch exact_ : Bool} {ens fuel at_ e : Nat} {es : List Edit} {c d : Compiled} (hc : compilesTo x es c)
    (h : decideOpen x hasEpoch exact_ ens es fuel at_ c = .accept d e) : compilesTo x es d := by
  induction fuel generalizing at_ c with
  | zero => cases h
  | succ fuel ih =>
    unfold decideOpen at h
    extract_lets lead late from_ at h
    split at h
    · cases h
    · split at h
      · cases h
      · split at h
        · exact decideAt_accept h ▸ hc
        · split at h
          · cases h
          · cases h
          next f hf =>
            split at h
            · exact decideAt_accept h ▸ ⟨_, hf⟩
            · exact ih ⟨_, hf⟩ h

/-- An accepted commit makes the changes that its entries compile to; its delta may be left out (R129). -/
theorem decideTimes_accept {x : Hoop} {hasEpoch exact_ : Bool} {ens e : Nat} {es : List Edit} {c : Compiled}
    (h : decideTimes x hasEpoch exact_ ens es = .accept c e) : ∃ d, compilesTo x es d ∧ c.changes = d.changes := by
  unfold decideTimes at h
  extract_lets first got n at h
  have hgot : compile x first (projCode x first) es = got := rfl
  clear_value n got
  split at h
  · split at h
    · cases h
    · split at h
      · cases h
      · cases h
      next d => exact ⟨c, decideOpen_accept ⟨_, hgot⟩ h, rfl⟩
  · split at h
    · split at h
      · cases h
      · cases h
      next d =>
        refine ⟨d, ⟨_, hgot⟩, ?_⟩
        rw [decideAt_accept h]
        split <;> rfl
    · exact ⟨c, decideAsap_accept h, rfl⟩

theorem decideCommit_accept {x : Hoop} {w : Asker} {hasEpoch exact_ : Bool} {ens e : Nat} {es : List Edit} {c : Compiled}
    (h : decideCommit x w hasEpoch exact_ ens es = .accept c e) : decideTimes x hasEpoch exact_ ens es = .accept c e := by
  unfold decideCommit at h
  extract_lets at_ t at h
  split at h
  · cases h
  split at h
  · cases h
  split at h
  · cases h
  split at h
  · cases h
  split at h
  · cases h
  split at h
  · cases h
  split at h
  · cases h
  split at h
  next hd =>
    split at h
    · cases h
      exact hd
    · split at h
      · cases h
      · cases h
        exact hd
  · exact h

/-- The kind of change that an entry makes (R81). -/
def Edit.kind (e : Edit) : ChangeKind :=
  match e.op with
  | 1 => .create
  | 2 => .modify
  | 3 => .reopen
  | 4 => .release
  | _ => .dark

theorem compile_own {x : Hoop} {ens : Nat} {code : Nat → NCode} {es : List Edit} {c : Compiled} (h : compile x ens code es = some (some c)) {e : Edit}
    (he : e ∈ es) : ∃ g ∈ c.changes, g.kind = e.kind ∧ g.inPort = e.inPort := by
  unfold compile at h
  extract_lets p t0 edited reqs rebanded stay pl mayMove fixed movable bandOk at h
  split at h
  · cases h
  · split at h
    · cases h
    · extract_lets routeFor all finish own moved cs t1 newStanding touched slots refits at h
      split at h
      · cases h
      · cases h
        refine ⟨_, List.mem_append_left moved (List.mem_map_of_mem he), ?_⟩
        unfold Edit.kind
        dsimp only
        generalize e.op = op
        rcases op with _ | _ | _ | _ | _ | _ <;> exact ⟨rfl, rfl⟩

/-- The entry of an accepted commit is among its changes. -/
theorem decideCommit_change {x : Hoop} {w : Asker} {hasEpoch exact_ : Bool} {ens en : Nat} {es : List Edit} {c : Compiled}
    (h : decideCommit x w hasEpoch exact_ ens es = .accept c en) {e : Edit} (he : e ∈ es) : ∃ g ∈ c.changes, g.kind = e.kind ∧ g.inPort = e.inPort := by
  obtain ⟨d, ⟨_, hd⟩, hc⟩ := decideTimes_accept (decideCommit_accept h)
  rw [hc]
  exact compile_own hd he

/-! ## A commit taken (R44, R87) -/

theorem mem_insCommit (c : Commit) (l : List Commit) : c ∈ insCommit c l := by
  induction l with
  | nil => exact List.mem_singleton_self c
  | cons d l ih =>
    unfold insCommit
    split
    · exact List.mem_cons_self
    · exact List.mem_cons_of_mem _ ih

theorem unstage_desk (x : Hoop) : ∃ f, (unstage x).desk = x.desk.restage f := by
  have hmap : { x.desk with cm := { x.cm with pending := x.cm.pending.map (fun c => if c.stage = .posted then { c with stage := .waiting } else c) } }
      = x.desk.restage (fun c => if c.stage = .posted then .waiting else c.stage) := by
    refine Desk.restage_map x.desk fun d => ?_
    split <;> rfl
  refine ⟨_, Eq.trans ?_ hmap⟩
  unfold unstage
  dsimp only
  repeat' split
  all_goals rfl

/-- What a change does to its thread as its commit is taken: a created or reopened one goes STAGED. -/
def stageChange (seq ring epoch : Nat) (y : Hoop) (g : Change) : Hoop :=
  match g.kind with
  | .create => override g.inPort false (threadEvent g.inPort { g.after with st := .staged, route := [] } .none 0 seq 0xFFFF 0xFFFF
      (y.setThread g.inPort { g.after with st := .staged, route := [], seq := seq, ring := ring, epoch := epoch }))
  | .reopen => setSt g.inPort .staged 0 seq 0xFFFF (override g.inPort false
      (y.updThread g.inPort (fun t => { t with prev := t.st, seq := seq, ring := ring, epoch := epoch })))
  | _ => y

theorem override_desk (i : Nat) (on : Bool) (x : Hoop) : (override i on x).desk = x.desk := rfl

theorem override_thread (i : Nat) (on : Bool) (x : Hoop) (j : Nat) : (override i on x).thread j = x.thread j := rfl

theorem Hoop.setThread_desk (x : Hoop) (i : Nat) (t : Thread) : (x.setThread i t).desk = x.desk := rfl

theorem stageChange_desk (seq ring epoch : Nat) (y : Hoop) (g : Change) : (stageChange seq ring epoch y g).desk = y.desk := by
  unfold stageChange
  split
  · exact (override_desk ..).trans ((threadEvent_desk ..).trans (Hoop.setThread_desk ..))
  · exact (setSt_desk ..).trans ((override_desk ..).trans (Hoop.setThread_desk ..))
  · rfl

/-- The pending table with one commit more. -/
def Desk.taking (m : Commit) (d : Desk) : Desk := { d with cm := { d.cm with pending := insCommit m d.cm.pending } }

/-- The commit of ring `ring` that its completion names `seq`, with what the entries compiled to. -/
def Commit.records (m : Commit) (seq ring ens : Nat) (c : Compiled) : Prop :=
  m.seq = seq ∧ m.ring = ring ∧ m.epochNs = ens ∧ m.changes = c.changes ∧ m.delta = c.delta ∧ m.chans = c.chans

/-- A commit is taken in three steps: it goes into the table, its threads go STAGED, the next stage is posted. -/
theorem takeCommit_steps (seq ring tenant ens : Nat) (c : Compiled) (fcid : Option Nat) (x : Hoop) : ∃ f m y, m.records seq ring ens c ∧
    y.desk = (x.desk.restage f).taking m ∧
    takeCommit seq ring tenant ens c fcid x = postStage (pmcRaw 96 1 (c.changes.foldl (stageChange seq ring m.epoch) y)) := by
  unfold takeCommit
  extract_lets deps before x1 x2 m cm x3 x4 x5
  have h1 : ∃ f, x1.desk = x.desk.restage f := by
    show ∃ f, (if (before && !c.delta.isEmpty) = true then unstage x else x).desk = _
    split
    · exact unstage_desk x
    · exact ⟨_, (Desk.restage_stage _).symm⟩
  obtain ⟨f, h1⟩ := h1
  have h2 : x2.desk = x1.desk := by
    show (if (x1.prk.nextStaged && !c.delta.isEmpty && decide (x1.tb.cntOf ens < x1.prk.nextEpoch)) = true then unstagePrk x1 else x1).desk = _
    split <;> rfl
  have h3 : x3.desk = x2.desk.taking m := rfl
  have h4 : x4.desk = x3.desk := by
    refine Hoop.desk_foldl _ (fun y q => ?_) _ x3
    rfl
  exact ⟨f, m, x4, ⟨rfl, rfl, rfl, rfl, rfl, rfl⟩, by rw [h4, h3, h2, h1], rfl⟩

theorem takeCommit_desk (seq ring tenant ens : Nat) (c : Compiled) (fcid : Option Nat) (x : Hoop) :
    ∃ b, (takeCommit seq ring tenant ens c fcid x).desk = { x.desk with cm := b } ∧ ∃ m ∈ b.pending, m.records seq ring ens c := by
  obtain ⟨f, m, y, hm, hy, h⟩ := takeCommit_steps seq ring tenant ens c fcid x
  obtain ⟨g, hg⟩ := postStage_desk (pmcRaw 96 1 (c.changes.foldl (stageChange seq ring m.epoch) y))
  have hz : (pmcRaw 96 1 (c.changes.foldl (stageChange seq ring m.epoch) y)).desk = (x.desk.restage f).taking m :=
    (Hoop.desk_of_core (pmcRaw_core ..)).trans ((Hoop.desk_foldl _ (fun _ _ => stageChange_desk ..) _ y).trans hy)
  refine ⟨(((x.desk.restage f).taking m).restage g).cm, by rw [h, hg, hz]; rfl, _, mem_restage.mpr ⟨m, mem_insCommit m _, rfl⟩, hm⟩

theorem Hoop.thr_of_core {x y : Hoop} (h : x.core = y.core) : x.thr = y.thr := congrArg Prod.snd (Hoop.standing_of_core h)

theorem postStage_thr (x : Hoop) : (postStage x).thr = x.thr := by
  unfold postStage
  repeat' split
  all_goals rfl

/-- A change that stages its thread leaves the others. -/
theorem stageChange_thread (seq ring epoch : Nat) (y : Hoop) {g : Change} (h : g.kind = .create ∨ g.kind = .reopen) :
    ((stageChange seq ring epoch y g).thread g.inPort).st = .staged ∧ ∀ i, i ≠ g.inPort → (stageChange seq ring epoch y g).thread i = y.thread i := by
  unfold stageChange
  rcases h with h | h <;> rw [h]
  · simp only [override_thread, Hoop.thread_of_standing (Hoop.standing_of_core (threadEvent_core ..))]
    exact ⟨by rw [Hoop.setThread_thread_self], fun i hi => Hoop.setThread_thread_ne _ _ hi⟩
  · exact ⟨by rw [setSt_thread_self], fun i hi => (setSt_thread_ne _ _ _ _ _ hi).trans (Hoop.setThread_thread_ne _ _ hi)⟩

theorem stageChange_other (seq ring epoch : Nat) (y : Hoop) {g : Change} (h : ¬ (g.kind = .create ∨ g.kind = .reopen)) : stageChange seq ring epoch y g = y := by
  unfold stageChange
  split
  next hk => exact absurd (.inl hk) h
  next hk => exact absurd (.inr hk) h
  next => rfl

/-- A thread that is staged stays so while the others of its commit are. -/
theorem stageChange_stays (seq ring epoch : Nat) {y : Hoop} (g : Change) {i : Nat} (h : (y.thread i).st = .staged) :
    ((stageChange seq ring epoch y g).thread i).st = .staged := by
  by_cases hk : g.kind = .create ∨ g.kind = .reopen
  · obtain ⟨hself, hne⟩ := stageChange_thread seq ring epoch y hk
    by_cases hi : i = g.inPort
    · exact hi ▸ hself
    · rw [hne i hi, h]
  · rw [stageChange_other seq ring epoch y hk, h]

theorem stageChanges_staged (seq ring epoch : Nat) (gs : List Change) (y : Hoop) {i : Nat}
    (h : (∃ g ∈ gs, (g.kind = .create ∨ g.kind = .reopen) ∧ g.inPort = i) ∨ (y.thread i).st = .staged) :
    ((gs.foldl (stageChange seq ring epoch) y).thread i).st = .staged := by
  induction gs generalizing y with
  | nil => exact h.resolve_left (by simp)
  | cons g gs ih =>
    refine ih (stageChange seq ring epoch y g) ?_
    rcases h with ⟨d, hd, hk, hi⟩ | h
    · rcases List.mem_cons.mp hd with rfl | hd
      · exact .inr (hi ▸ (stageChange_thread seq ring epoch y hk).1)
      · exact .inl ⟨d, hd, hk, hi⟩
    · exact .inr (stageChange_stays seq ring epoch g h)

theorem takeCommit_staged {seq ring tenant ens : Nat} {c : Compiled} {fcid : Option Nat} (x : Hoop) {g : Change} (hg : g ∈ c.changes)
    (hk : g.kind = .create ∨ g.kind = .reopen) : ((takeCommit seq ring tenant ens c fcid x).thread g.inPort).st = .staged := by
  obtain ⟨f, m, y, -, -, h⟩ := takeCommit_steps seq ring tenant ens c fcid x
  have ht : (takeCommit seq ring tenant ens c fcid x).thr = (c.changes.foldl (stageChange seq ring m.epoch) y).thr := by
    rw [h, postStage_thr, Hoop.thr_of_core (pmcRaw_core ..)]
  rw [Hoop.thread, ht]
  exact stageChanges_staged seq ring m.epoch c.changes y (.inl ⟨g, hg, hk, rfl⟩)

/-- A served command that takes a commit. -/
theorem gives_takeCommit {i : Instr} {s : State} {h : HoopId} {r op q ring t en : Nat} {c : ReadCmd} {v : Verb} {cmp : Compiled} {f : Option Nat} {z : Hoop}
    {P : Hoop → Prop} (p : passes s h r op c v = true) (hq : s.quiet = true) (hx : exec i s = .next (s.serve h r op v))
    (hr : (ran s h r op c v).2 = takeCommit q ring t en cmp f z) (hz : z.desk = (s.hoop h).desk) (hP : ∀ y : Hoop, holdsCommit y q ring cmp en →
      (∀ g ∈ cmp.changes, g.kind = .create ∨ g.kind = .reopen → (y.thread g.inPort).st = .staged) → P y) : CompletesWith i s h P := by
  obtain ⟨b, hb, m, hm, hrec⟩ := takeCommit_desk q ring t en cmp f z
  refine gives_serve_desk p hq hx ((congrArg Hoop.desk hr).trans hb) (congrArg Desk.part hz) (congrArg Desk.src hz) (congrArg Desk.fcPar hz) fun y hy hd => ?_
  refine hP y ⟨m, ?_, hrec⟩ fun g hg hk => ?_
  · rw [show y.cm = b from congrArg Desk.cm hd]
    exact hm
  · rw [Hoop.thread_of_standing (Hoop.standing_of_core hy), hr]
    exact takeCommit_staged z hg hk

/-! ## The commit commands -/

theorem acceptCommit_accept {k : Ctx} {w : Asker} {hasEpoch exact_ batch : Bool} {ens e : Nat} {es : List Edit} {x : Hoop} {c : Compiled}
    (h : decideCommit x w hasEpoch exact_ ens es = .accept c e) :
    (acceptCommit k w hasEpoch exact_ ens batch es x).2 = takeCommit k.seq w.ring (x.ring w.ring).tenant e c none x := by
  unfold acceptCommit
  rw [h]

theorem commitVerb_accepts {s : State} {h : HoopId} {r op e : Nat} {c : ReadCmd} {cmp : Compiled} (p : passes s h r op c commitVerb = true)
    (ha : accepts s h r op c [editFor s h r op c] cmp e = true) : (ran s h r op c commitVerb).2 =
      takeCommit ((s.hoop h).nextCplSeq r) r ((breakRun r op (s.hoop h)).ring r).tenant e cmp none (breakRun r op (s.hoop h)) := by
  refine acceptCommit_accept (k := ctxOf s h r c) ?_
  rw [show hdrOf (ctxOf s h r c).cmd.bytes = hdrOf c.bytes from rfl, passes_opcode p]
  exact eq_of_beq ha

theorem editOf_op (op : Nat) (tag : Option Nat) (ts : List (Nat × Bytes)) : (editOf op tag ts).op = op := by
  unfold editOf
  split <;> rfl

theorem gives_commit {i : Instr} {s : State} {h : HoopId} {r op e : Nat} {c : ReadCmd} {cmp : Compiled} (p : passes s h r op c commitVerb = true)
    (hq : s.quiet = true) (hx : exec i s = .next (s.serve h r op commitVerb)) (ha : accepts s h r op c [editFor s h r op c] cmp e = true) :
    CompletesWith i s h (fun y => holdsCommit y ((s.hoop h).nextCplSeq r) r cmp e) :=
  gives_takeCommit p hq hx (commitVerb_accepts p ha) (breakRun_desk ..) fun _ hy _ => hy

/-- A CREATE or a REOPEN stages its thread with it. -/
theorem gives_stagingCommit {i : Instr} {s : State} {h : HoopId} {r op e : Nat} {c : ReadCmd} {cmp : Compiled} (p : passes s h r op c commitVerb = true)
    (hq : s.quiet = true) (hx : exec i s = .next (s.serve h r op commitVerb)) (ho : op = 1 ∨ op = 3)
    (ha : accepts s h r op c [editFor s h r op c] cmp e = true) : CompletesWith i s h (fun y =>
      holdsCommit y ((s.hoop h).nextCplSeq r) r cmp e ∧ (y.thread (editFor s h r op c).inPort).st = .staged) := by
  obtain ⟨g, hg, hk, hp⟩ := decideCommit_change (eq_of_beq ha) (List.mem_singleton_self _)
  refine gives_takeCommit p hq hx (commitVerb_accepts p ha) (breakRun_desk ..) fun y hy hst => ⟨hy, hp ▸ hst g hg ?_⟩
  rw [hk, Edit.kind, editFor, editOf_op]
  rcases ho with rfl | rfl
  · exact .inl rfl
  · exact .inr rfl

/-! ## BATCH (R356) -/

theorem breakRun_batch (r : Nat) (x : Hoop) : breakRun r 0x30 x = x := if_pos rfl

theorem entriesOf_length {n : Nat} {b : Bytes} {es : List (Nat × Bytes)} (h : entriesOf n b = some es) : es.length = n := by
  induction n generalizing b es with
  | zero =>
    unfold entriesOf at h
    split at h
    · cases h; rfl
    · cases h
  | succ n ih =>
    unfold entriesOf at h
    split at h
    · cases h
    · obtain ⟨l, hl, rfl⟩ := Option.map_eq_some_iff.mp h
      exact congrArg Nat.succ (ih hl)

theorem batchPart_length {x : Hoop} {r : Nat} {b : Bytes} {es : List (Nat × Bytes)} (h : batchPart x r b = some es) : es.length ≤ 1024 := by
  unfold batchPart at h
  extract_lets hd at h
  split at h
  · cases h
  · split at h
    · cases h
    next l hl =>
      split at h
      · cases h
        have := entriesOf_length hl
        omega
      · cases h

/-- The last part of a run of one is decided as one commit. -/
theorem batchVerb_last {k : Ctx} {x : Hoop} {es : List (Nat × Bytes)} (hp : batchPart x k.ring k.cmd.bytes = some es) (hl : field k.cmd.bytes 17 1 % 2 = 0)
    (hr : (x.ring k.ring).run = none) (hd : distinct (es.map entryPort) = true) : batchVerb.run k x =
      acceptCommit k { ring := k.ring } (hdrOf k.cmd.bytes).hasEpoch (hdrOf k.cmd.bytes).exact (hdrOf k.cmd.bytes).epochNs true
        (es.map (editOfEntry (ringTag x k.ring))) (x.updRing k.ring (fun g => { g with run := none })) := by
  have hlen : ¬ 1024 < es.length := Nat.not_lt.mpr (batchPart_length hp)
  simp [batchVerb, hp, hl, hr, hd, hlen]

/-- The first part of a run with MORE is held. -/
theorem batchVerb_more {k : Ctx} {x : Hoop} {es : List (Nat × Bytes)} (hp : batchPart x k.ring k.cmd.bytes = some es) (hl : field k.cmd.bytes 17 1 % 2 = 1)
    (hr : (x.ring k.ring).run = none) : (batchVerb.run k x).2 = x.updRing k.ring (fun g => { g with run := some {
      exact := (hdrOf k.cmd.bytes).exact, sec := BitVec.ofNat 48 (hdrOf k.cmd.bytes).sec, ns := BitVec.ofNat 32 (hdrOf k.cmd.bytes).ns, entries := es } }) := by
  have hlen : ¬ 1024 < es.length := Nat.not_lt.mpr (batchPart_length hp)
  simp [batchVerb, hp, hl, hr, hlen]

/-! ## The intake of a ring after its front command -/

/-- What a ring has read, what is posted on it, and the run it holds. -/
def Hoop.intake (x : Hoop) (r : Nat) : List ReadCmd × List Posted × Option BatchRun := ((x.ring r).read, (x.ring r).posted, (x.ring r).run)

theorem Hoop.intake_of_mail {x y : Hoop} (h : x.mail = y.mail) (r : Nat) : x.intake r = y.intake r := by
  have e := congrArg (fun m : Nat → Ring => ((m r).read, (m r).posted, (m r).run)) h
  exact e

theorem Hoop.intake_of_rings {x y : Hoop} (h : x.mbx.rings = y.mbx.rings) (r : Nat) : x.intake r = y.intake r :=
  Hoop.intake_of_mail (mail_of_rings _ _ h) r

theorem setRing_intake (x : Hoop) (r : Nat) (g : Ring) : (x.setRing r g).intake r = (g.read, g.posted, g.run) := by
  rw [Hoop.intake, ring_setRing_self]

theorem putCpl_intake (r : Nat) (mk : Nat → Bool → Cpl) (x : Hoop) : (putCpl r mk x).intake r = x.intake r := by
  unfold putCpl
  extract_lets g seq c tail sig y
  have hy : y.intake r = x.intake r := setRing_intake ..
  split
  · exact (Hoop.intake_of_mail (msixSend_mail ..) r).trans hy
  · exact hy

theorem noteAccepted_rings (st : Nat) (x : Hoop) : (noteAccepted st x).mbx.rings = x.mbx.rings := by
  unfold noteAccepted
  split <;> rfl

theorem remoteReply_rings (r : Nat) (m : Option Remote) (c : Cpl) (x : Hoop) : (remoteReply r m c x).mbx.rings = x.mbx.rings := by
  unfold remoteReply
  split <;> rfl

/-- The front command goes; what was posted and the held run stay. -/
theorem completeFront_intake {r : Nat} {a : Ans} {x : Hoop} {c : ReadCmd} {rest : List ReadCmd} {ps : List Posted} {run : Option BatchRun}
    (h : x.intake r = (c :: rest, ps, run)) : (completeFront r a none x).intake r = (rest, ps, run) := by
  obtain ⟨hread, hposted, hrun⟩ : (x.ring r).read = c :: rest ∧ (x.ring r).posted = ps ∧ (x.ring r).run = run := by
    simpa only [Hoop.intake, Prod.mk.injEq] using h
  have h0 : (x.setRing r { x.ring r with read := rest }).intake r = (rest, ps, run) := by rw [setRing_intake, hposted, hrun]
  have h1 (y : Hoop) : (if a.status = 0 then y else pmcRaw (80 + r) 1 y).intake r = y.intake r := by
    split
    · rfl
    · exact Hoop.intake_of_mail (pmcRaw_mail ..) r
  unfold completeFront
  extract_lets g ep
  split
  next hnil => exact absurd (hread.symm.trans hnil) (by simp)
  next d rest' hcons =>
    obtain ⟨rfl, rfl⟩ := List.cons.inj (hcons.symm.trans hread)
    extract_lets y hd st seq z mk ph u v w
    have hw : w.intake r = (rest', ps, run) := (Hoop.intake_of_rings (remoteReply_rings ..) r).trans ((Hoop.intake_of_rings (noteAccepted_rings ..) r).trans
      ((h1 u).trans ((putCpl_intake ..).trans h0)))
    repeat' split
    · exact h0
    · exact hw
    · exact hw

theorem pumpRing_intake {r : Nat} {x : Hoop} {run : Option BatchRun} (h : x.intake r = ([], [], run)) : (pumpRing r x).intake r = ([], [], run) := by
  obtain ⟨hread, hposted, hrun⟩ : (x.ring r).read = [] ∧ (x.ring r).posted = [] ∧ (x.ring r).run = run := by
    simpa only [Hoop.intake, Prod.mk.injEq] using h
  have hpump : pump (2 * ((x.ring r).posted.length + (x.ring r).read.length) + 1) r x = x := by
    rw [hread, hposted]
    simp [pump, readOne, hposted, hread]
  unfold pumpRing
  dsimp only
  rw [hpump, Hoop.updRing, setRing_intake]
  exact h

theorem served_intake (r : Nat) (c : ReadCmd) (x : Hoop) : (served r c x).intake r = x.intake r := by
  refine Hoop.intake_of_rings ?_ r
  unfold served
  repeat' split
  all_goals rfl

/-- A served command of a ring on which nothing more waits, and the run that its effect leaves. -/
theorem gives_serve_run {i : Instr} {s : State} {h : HoopId} {r op : Nat} {c : ReadCmd} {v : Verb} {run : Option BatchRun} (p : passes s h r op c v = true)
    (hx : exec i s = .next (s.serve h r op v)) (hr : (ran s h r op c v).2.intake r = ([c], [], run)) : CompletesWith i s h (fun y => (y.ring r).run = run) := by
  have hi := (Hoop.intake_of_mail (serve_mail s h r op c v p) r).trans
    (pumpRing_intake (completeFront_intake (a := (ran s h r op c v).1) ((served_intake r c (ran s h r op c v).2).trans hr)))
  exact ⟨_, hx, congrArg (fun q : List ReadCmd × List Posted × Option BatchRun => q.2.2) hi⟩

/-- A BATCH of one part, taken. -/
theorem gives_batch {s : State} {h : HoopId} {r e : Nat} {c : ReadCmd} {es : List (Nat × Bytes)} {cmp : Compiled} (hq : s.quiet = true)
    (p : passes s h r 0x30 c batchVerb = true) (hp : batchPart (s.hoop h) r c.bytes = some es) (hl : field c.bytes 17 1 % 2 = 0)
    (hrun : ((s.hoop h).ring r).run = none) (hd : distinct (es.map entryPort) = true)
    (ha : decideCommit ((s.hoop h).updRing r (fun g => { g with run := none })) { ring := r } (hdrOf c.bytes).hasEpoch (hdrOf c.bytes).exact (hdrOf c.bytes).epochNs
      (es.map (editOfEntry (ringTag (s.hoop h) r))) = .accept cmp e) :
    CompletesWith (.batch h r) s h (fun y => holdsCommit y ((s.hoop h).nextCplSeq r) r cmp e) := by
  have hb : ran s h r 0x30 c batchVerb = _ := (congrArg (batchVerb.run (ctxOf s h r c)) (breakRun_batch r (s.hoop h))).trans
    (batchVerb_last (k := ctxOf s h r c) hp hl hrun hd)
  exact gives_takeCommit p hq rfl ((congrArg Prod.snd hb).trans (acceptCommit_accept (k := ctxOf s h r c) ha))
    (Hoop.desk_of_core (updRing_core ..)) fun _ hy _ => hy

/-- Settles O16: an accepted commit stands in the table with what its entries compiled to, and its CREATE or REOPEN stages the thread. -/
theorem commitCommands : Obligations.CommitCommands := by
  unfold Obligations.CommitCommands
  refine ⟨?create, ?modify, ?reopen, ?release, ?dark, ?last, ?more⟩
  case create => exact fun s h r c cmp e q p ha => gives_stagingCommit p q rfl (.inl rfl) ha
  case modify => exact fun s h r c cmp e q p ha => gives_commit p q rfl ha
  case reopen => exact fun s h r c cmp e q p ha => gives_stagingCommit p q rfl (.inr rfl) ha
  case release => exact fun s h r c cmp e q p ha => gives_commit p q rfl ha
  case dark => exact fun s h r c cmp e q p ha => gives_commit p q rfl ha
  case last => exact fun s h r c es cmp e q p hp hl hr hd ha => gives_batch q p hp hl hr hd ha
  case more =>
    intro s h r c es p hp hl hrun hread hposted
    have hb : (ran s h r 0x30 c batchVerb).2 = _ := (congrArg (fun x => (batchVerb.run (ctxOf s h r c) x).2) (breakRun_batch r (s.hoop h))).trans
      (batchVerb_more (k := ctxOf s h r c) hp hl hrun)
    refine gives_serve_run p rfl ?_
    rw [hb, Hoop.updRing]
    exact (setRing_intake ..).trans (Prod.ext hread (Prod.ext hposted rfl))

end Sys2Proof.Machine
end

section
/-!
SUPPORT. Entries that meet checks 4 to 9 are accepted (R86), a FABRIC_COMMIT's local part (R405, R410), and the statement O17.
-/

namespace Sys2Proof.Machine
open Sys2Proof

/-! ## The checks passed (R86) -/

theorem firstFail_none {α : Type} {f : α → Option Nat} {l : List α} (h : ∀ a ∈ l, f a = none) (i : Nat) : firstFail f i l = none := by
  induction l generalizing i with
  | nil => rfl
  | cons a l ih =>
    rw [firstFail, h a List.mem_cons_self]
    exact ih (fun b hb => h b (List.mem_cons_of_mem _ hb)) _

/-- Outside a pricking a commit with a named epoch is decided at it. -/
theorem decideTimes_named {x : Hoop} {exact_ : Bool} {ens : Nat} {es : List Edit} {cmp : Compiled} (hp : x.pricking = false)
    (hc : compile x ens (projCode x ens) es = some (some cmp)) (ho : orderClash x ens cmp.changes = false) (ht : timesOk x ens cmp.n = true) :
    decideTimes x true exact_ ens es = .accept cmp ens := by
  simp [decideTimes, decideAt, hp, hc, ho, ht]

theorem meetsChecks_accept {x : Hoop} {w : Asker} {ens : Nat} {es : List Edit} {cmp : Compiled} (exact_ : Bool) (h : meetsChecks x w ens es cmp = true) :
    decideCommit x w true exact_ ens es = .accept cmp ens := by
  simp only [meetsChecks, Bool.and_eq_true, Bool.not_eq_true', decide_eq_true_eq, beq_iff_eq, bne_iff_ne, List.all_eq_true] at h
  obtain ⟨⟨⟨⟨⟨⟨⟨⟨⟨⟨⟨⟨⟨hown, hforce⟩, hn⟩, hh⟩, hok⟩, hsrc⟩, hbusy⟩, hroom⟩, htag⟩, htemp⟩, hprk⟩, hcmp⟩, hclash⟩, htimes⟩ := h
  have h4 : firstFail (fun e => if ownsEdit x w (projected x ens) e then none else some 6) 0 es = none :=
    firstFail_none (fun e he => if_pos (hown e he)) 0
  have h5 : firstFail (busyEdit x ens (projected x ens) es) 0 es = none := firstFail_none hbusy 0
  have hsrc' : x.mon.refSrc ≠ 2#2 := hsrc
  have hroom' : ¬ 64 ≤ x.cm.pending.length := by omega
  simp [decideCommit, h4, h5, hforce, hn, hh, hok, hsrc', hroom', htag, htemp, decideTimes_named hprk hcmp hclash htimes]

theorem gives_checkedCommit {i : Instr} {s : State} {h : HoopId} {r op : Nat} {c : ReadCmd} {cmp : Compiled} (hq : s.quiet = true)
    (p : passes s h r op c commitVerb = true) (hx : exec i s = .next (s.serve h r op commitVerb)) (he : (hdrOf c.bytes).hasEpoch = true)
    (hm : meetsChecks (breakRun r op (s.hoop h)) { ring := r } (hdrOf c.bytes).epochNs [editFor s h r op c] cmp = true) :
    CompletesWith i s h (fun y => holdsCommit y ((s.hoop h).nextCplSeq r) r cmp (hdrOf c.bytes).epochNs) := by
  refine gives_commit p hq hx ?_
  rw [accepts, he, meetsChecks_accept _ hm]
  exact beq_self_eq_true _

/-! ## The start of a fabric commit (R405, R410) -/

theorem lateArm_desk (k t16 : Nat) (x : Hoop) : (lateArm k t16 x).desk = x.desk := Hoop.desk_of_core (raiseEv_core ..)

theorem cmpArm_desk {k t16 : Nat} {x y : Hoop} (h : cmpArm k t16 x = some y) : y.desk = x.desk := by
  unfold cmpArm at h
  split at h
  · cases h; rfl
  · cases h

theorem armAt_desk (k ns : Nat) (x : Hoop) : (armAt k ns x).desk = x.desk := by
  unfold armAt
  dsimp only
  split
  · rfl
  · split
    · exact cmpArm_desk ‹_›
    · exact lateArm_desk ..

theorem takeSlot_desk (s : Nat) (f : Fab) (x : Hoop) : (takeSlot s f x).desk = x.desk := by
  unfold takeSlot
  dsimp only
  split <;> rfl

theorem noteChains_desk (initiator fcid : Nat) (addrs : List Nat) (es : List Edit) (x : Hoop) : (noteChains initiator fcid addrs es x).desk = x.desk := by
  unfold noteChains
  refine Hoop.desk_foldl _ (fun y e => ?_) _ x
  rfl

theorem startFabric_desk (fcid ens slot : Nat) (ms : List (Nat × List Bytes)) (loc : List Edit) (x : Hoop) :
    (startFabric fcid ens slot ms loc x).desk = { x.desk with fcInit := satInc x.wlm.fcInit } := by
  unfold startFabric
  extract_lets own addrs f w y z
  refine (Hoop.desk_foldl _ (fun _ _ => originate_desk ..) _ _).trans ((noteChains_desk ..).trans ((armAt_desk ..).trans ?_))
  exact (takeSlot_desk ..).trans rfl

/-- The local part of a FABRIC_COMMIT that is accepted is taken, and the fabric commit starts. -/
theorem fabricVerb_accept {k : Ctx} {x : Hoop} {loc : List Bytes} {ms : List (Nat × List Bytes)} {slot ens e : Nat} {cmp : Compiled}
    (harg : fabArg (paramOf k.cmd.bytes) = some (loc, ms)) (hslot : freeSlot x = some slot) (haddr : x.wlm.addr ≠ 0) (hvalid : x.tb.timeValid = true)
    (hfar : (ms.map (fun q => distTo x k.peer q.1)).any (· == 16) = false) (hloc : loc ≠ []) (hep : (hdrOf k.cmd.bytes).hasEpoch = true)
    (hens : ens = (hdrOf k.cmd.bytes).epochNs) (hlead : x.tb.ptpOf x.now + 50000 ≤ ens)
    (ha : decideCommit x { ring := 0 } true true ens (loc.map fabEdit) = .accept cmp e) : (fabricVerb.run k x).2 =
      startFabric k.seq e slot ms (loc.map fabEdit) (takeCommit k.seq 0 0 e cmp (some (fcKey x.wlm.addr.toNat k.seq)) x) := by
  have hlate : ¬ ens < x.tb.ptpOf x.now + 50000 := Nat.not_lt.mpr hlead
  have haddr' : x.wlm.addr ≠ 0#12 := haddr
  subst hens
  simp [fabricVerb, harg, hslot, haddr', hvalid, hfar, hloc, hep, hlate, ha]

/-- A command other than a batch part touches its ring alone, which the checks of a fabric commit do not read. -/
theorem breakRun_fabric (x : Hoop) : breakRun 0 0x31 x = x.updRing 0 (Ring.cutRun 0x31) := if_neg (by decide)

theorem freeSlot_breakRun (x : Hoop) : freeSlot (breakRun 0 0x31 x) = freeSlot x := by
  rw [breakRun_fabric]
  rfl

theorem distTo_breakRun (x peer : Hoop) (a : Nat) : distTo (breakRun 0 0x31 x) peer a = distTo x peer a := by
  rw [breakRun_fabric]
  rfl

/-! ## The statement -/

/-- Settles O17: checks 4 to 9 passed one by one are a decision to accept, and what is accepted is taken. -/
theorem commitsThatMeetTheChecks : Obligations.CommitsThatMeetTheChecks := by
  unfold Obligations.CommitsThatMeetTheChecks
  refine ⟨?create, ?modify, ?reopen, ?release, ?dark, ?batch, ?fabric⟩
  case create => exact fun s h r c cmp q p he hm => gives_checkedCommit q p rfl he hm
  case modify => exact fun s h r c cmp q p he hm => gives_checkedCommit q p rfl he hm
  case reopen => exact fun s h r c cmp q p he hm => gives_checkedCommit q p rfl he hm
  case release => exact fun s h r c cmp q p he hm => gives_checkedCommit q p rfl he hm
  case dark => exact fun s h r c cmp q p he hm => gives_checkedCommit q p rfl he hm
  case batch =>
    intro s h r c es cmp q p hp hl hr hd he hm
    refine gives_batch q p hp hl hr hd ?_
    rw [he]
    exact meetsChecks_accept _ hm
  case fabric =>
    intro s h x c loc ms slot ds ens cmp hx q p harg hslot haddr hvalid hds hfar hloc hep hens hlead hm
    subst hx hds
    have hrun : (ran s h 0 0x31 c fabricVerb).2 = _ := fabricVerb_accept (k := ctxOf s h 0 c) harg ((freeSlot_breakRun _).trans hslot)
      (by rwa [breakRun_wlm]) (by rwa [breakRun_tb]) (by simp only [distTo_breakRun]; exact hfar) hloc hep hens (by rwa [Hoop.now, breakRun_tb])
      (meetsChecks_accept true hm)
    obtain ⟨b, hb, m, hmem, hrec⟩ := takeCommit_desk ((s.hoop h).nextCplSeq 0) 0 0 ens cmp
      (some (fcKey (breakRun 0 0x31 (s.hoop h)).wlm.addr.toNat ((s.hoop h).nextCplSeq 0))) (breakRun 0 0x31 (s.hoop h))
    have hstart : (ran s h 0 0x31 c fabricVerb).2.desk = { (s.hoop h).desk with cm := b, fcInit := satInc (s.hoop h).wlm.fcInit } := by
      refine (congrArg Hoop.desk hrun).trans ((startFabric_desk ..).trans ?_)
      refine (congrArg (fun d : Desk => { d with fcInit := satInc d.fcInit }) hb).trans ?_
      rw [breakRun_desk]
      rfl
    refine gives_serve_desk p q rfl hstart rfl rfl rfl fun y _ hy => ⟨⟨m, ?_, hrec⟩, congrArg Desk.fcInit hy⟩
    rw [show y.cm = b from congrArg Desk.cm hy]
    exact hmem

end Sys2Proof.Machine
end

section
/-!
SUPPORT. The staged delta under `settle`: only darks change it, and they take entries out of it (R111).
-/

namespace Sys2Proof.Machine
open Sys2Proof

/-- Nothing is staged. -/
def Hoop.noDelta (x : Hoop) : Prop := x.tmb.stageDelta = []

theorem Hoop.noDelta_of_tmb {x y : Hoop} (h : x.tmb = y.tmb) (hy : y.noDelta) : x.noDelta := (congrArg Tmb.stageDelta h).trans hy

theorem Hoop.noDelta_of_core {x y : Hoop} (h : x.core = y.core) : y.noDelta → x.noDelta := Hoop.noDelta_of_tmb (Hoop.tmb_of_core h)

/-! ## Darks -/

theorem notify_tmb (i cause : Nat) (x : Hoop) : (notify i cause x).tmb = x.tmb := by
  have hs (c : Chain) : (sendNotices c i cause x).tmb = x.tmb := by
    refine foldl_keeps Hoop.tmb _ (fun y a => ?_) _ x
    exact (Hoop.tmb_of_core (originate_core ..)).trans rfl
  unfold notify
  split
  · rfl
  · split
    · rfl
    · exact (Hoop.tmb_of_core (raiseEv_core ..)).trans (hs _)

theorem putOutcome_tmb (o : Outcome) (x : Hoop) : (putOutcome o x).tmb = x.tmb := by
  unfold putOutcome
  rw [Hoop.tmb_of_core (raiseEv_core ..), Hoop.tmb_of_core (jnlPut_core ..)]

theorem outcomes_tmb (x : Hoop) : (outcomes x).tmb = x.tmb :=
  (foldl_keeps Hoop.tmb _ (fun _ _ => putOutcome_tmb ..) _ _).trans rfl

theorem ledEnd_tmb (i at_ : Nat) (counted : Bool) (x : Hoop) : (ledEnd i at_ counted x).tmb = x.tmb := by
  unfold ledEnd
  split <;> rfl

theorem restoreElem_tmb (x : Hoop) (e : Nat) : (restoreElem x e).tmb = x.tmb := rfl

/-- A part dropped takes entries out of the staged delta. -/
theorem dropParts_noDelta {i : Nat} {x : Hoop} (h : x.noDelta) : (dropParts i x).noDelta := by
  unfold dropParts
  extract_lets alone hit y
  have hy : y.tmb = x.tmb := foldl_keeps Hoop.tmb _ restoreElem_tmb alone x
  show y.tmb.stageDelta.filter _ = []
  rw [hy, h]
  rfl

theorem darkThread_noDelta {i cause seq src : Nat} {x : Hoop} (h : x.noDelta) : (darkThread i cause seq src x).noDelta := by
  unfold darkThread
  split
  · extract_lets y z
    have hy : y.noDelta := dropParts_noDelta (Hoop.noDelta_of_tmb (ledEnd_tmb ..) h)
    have hz : z.noDelta := Hoop.noDelta_of_core (setSt_core ..) hy
    refine Hoop.noDelta_of_tmb (outcomes_tmb _) ?_
    split
    · exact hz
    · exact Hoop.noDelta_of_tmb (notify_tmb ..) hz
  · exact h

theorem forceNeedles_tmb (x : Hoop) : (forceNeedles x).tmb = x.tmb := by
  unfold forceNeedles
  extract_lets jumps y
  exact foldl_keeps Hoop.tmb (fun (y : Hoop) i => y.updNeedle (y.eyelet i) (fun v => { v with track := true })) (fun _ _ => rfl) jumps x

theorem engage_noDelta {cause sev : Nat} {remote : Bool} {x : Hoop} (h : x.noDelta) : (engage cause sev remote x).noDelta := by
  unfold engage
  split
  · exact h
  · extract_lets live w dk fc y z u
    have hz : z.noDelta := List.foldlRecOn live _ (Hoop.noDelta_of_tmb (forceNeedles_tmb y) h) fun _ hb _ _ => darkThread_noDelta hb
    exact Hoop.noDelta_of_core ((raiseEv_core ..).trans ((msixSend_core ..).trans (jnlPut_core ..))) hz

/-! ## `settle` -/

theorem State.upd_noDelta {s : State} {h k : HoopId} {f : Hoop → Hoop} (hf : ∀ x : Hoop, x.noDelta → (f x).noDelta) (hs : (s.hoop k).noDelta) :
    ((s.upd h f).hoop k).noDelta := by
  by_cases hh : s.has h = true
  · by_cases hk : k = h
    · subst hk
      rw [State.upd_self s k f hh]
      exact hf _ hs
    · have hk' : k = other h := by
        cases h <;> cases k <;> trivial
      rw [hk', State.upd_other, ← hk']
      exact hs
  · rwa [State.upd, if_neg hh]

theorem State.foldl_noDelta {k : HoopId} {l : List HoopId} {f : State → HoopId → State} {s : State}
    (hf : ∀ (s : State) h, (s.hoop k).noDelta → ((f s h).hoop k).noDelta) (hs : (s.hoop k).noDelta) : ((l.foldl f s).hoop k).noDelta :=
  List.foldlRecOn (motive := fun s : State => (s.hoop k).noDelta) l f hs fun s hb h _ => hf s h hb

theorem setDuo_noDelta {s : State} {d : Duo} {k : HoopId} (hs : (s.hoop k).noDelta) : ((s.setDuo d).hoop k).noDelta := by
  cases k <;> exact hs

theorem settleS4_noDelta {s : State} {k : HoopId} (hs : (s.hoop k).noDelta) : ((settleS4 s).hoop k).noDelta := by
  unfold settleS4
  split
  · exact hs
  · refine State.foldl_noDelta (fun s h => State.upd_noDelta fun x hx => ?_) hs
    split <;> exact engage_noDelta hx

theorem settleRel_noDelta {s : State} {k : HoopId} (hs : (s.hoop k).noDelta) : ((settleRel s).hoop k).noDelta := by
  unfold settleRel
  split
  · exact State.foldl_noDelta (fun s h => State.upd_noDelta fun x hx => hx) hs
  · exact hs

theorem abandonHo_noDelta {c : Nat} {s : State} {k : HoopId} (hs : (s.hoop k).noDelta) : ((abandonHo c s).hoop k).noDelta := by
  unfold abandonHo
  split
  · exact hs
  · extract_lets t
    exact setDuo_noDelta (State.foldl_noDelta (fun s h => State.upd_noDelta fun x hx => Hoop.noDelta_of_core (raiseEv_core ..) hx) hs)

theorem settleHo_noDelta {s : State} {k : HoopId} (hs : (s.hoop k).noDelta) : ((settleHo s).hoop k).noDelta := by
  unfold settleHo
  split
  · exact iteInduction (motive := fun s : State => (s.hoop k).noDelta) (fun _ => abandonHo_noDelta hs) fun _ =>
      iteInduction (motive := fun s : State => (s.hoop k).noDelta) (fun _ => abandonHo_noDelta hs) fun _ => hs
  · exact hs

theorem settleS3_noDelta {s : State} {h k : HoopId} (hs : (s.hoop k).noDelta) : ((settleS3 s h).hoop k).noDelta := by
  unfold settleS3
  extract_lets x
  split
  · exact hs
  · split
    · exact State.upd_noDelta (fun _ => engage_noDelta) hs
    · split
      · exact State.upd_noDelta (fun _ => Hoop.noDelta_of_core (setRole_core ..)) hs
      · split
        · split
          · exact hs
          · split
            · exact setDuo_noDelta (State.upd_noDelta (fun _ hx => hx) hs)
            · exact State.foldl_noDelta (fun s h => State.upd_noDelta fun _ => engage_noDelta) hs
        · exact hs

/-- `settle` stages nothing. -/
theorem settle_noDelta {s : State} {k : HoopId} (hs : (s.hoop k).noDelta) : ((settle s).hoop k).noDelta := by
  unfold settle
  extract_lets s1 s2 s3 s4 s5
  have h1 : (s1.hoop k).noDelta := settleHo_noDelta (settleRel_noDelta (settleS4_noDelta hs))
  have h2 : (s2.hoop k).noDelta := State.foldl_noDelta (fun _ _ => settleS3_noDelta) h1
  have h3 : (s3.hoop k).noDelta := State.foldl_noDelta (fun s h => Hoop.noDelta_of_core (settleRole_core s h k)) h2
  have h4 : (s4.hoop k).noDelta := State.foldl_noDelta (fun s h => Hoop.noDelta_of_core (settleLink_core s h k)) h3
  have h5 : (s5.hoop k).noDelta := State.foldl_noDelta (fun s h => State.upd_noDelta fun x => Hoop.noDelta_of_core (by simp)) h4
  rw [settlePins_hoop]
  exact h5

/-- A row that leaves nothing staged: what it says of the blocks that `settle` leaves alone, and the delta. -/
theorem gives_noDelta {i : Instr} {s : State} {h : HoopId} {x : Hoop} {P : Hoop → Prop} (f : Hoop → Hoop) (e : s.here h x)
    (hx : exec i s = .next (s.act h f)) (hf : (f x).noDelta) (hP : ∀ y : Hoop, y.calm = (f x).calm → y.noDelta → P y) : CompletesWith i s h P := by
  obtain ⟨e, rfl⟩ := e
  refine ⟨_, hx, hP _ (act_calm s h f e) (settle_noDelta ?_)⟩
  rwa [State.upd_self s h f e]

end Sys2Proof.Machine
end

section
/-!
SUPPORT. Tambour's operations whole in a row (R94, R149, R151, R152): how one is taken, completes and is handed to the patch, and what RESTORE_IDLE,
INJ_RELOAD and DISARM leave.
-/

namespace Sys2Proof.Machine
open Sys2Proof

/-! ## Taken, complete, or the patch's (R149, R151) -/

theorem takes_code {x : Hoop} {code : BitVec 6} {o : TOp} (h : takes x code = some o) : o.code = code := by
  unfold takes at h
  split at h
  · exact eq_of_beq (Option.filter_eq_some_iff.mp h).2
  · cases h

theorem viaPatch_rom {code : BitVec 6} {rom : Hoop → Hoop} {x : Hoop} {o : TOp} (h : takes x code = some o) (hp : x.tmb.patches code = false) :
    viaPatch code rom x = rom x := by
  unfold viaPatch
  rw [h]
  exact if_neg (by rw [hp]; decide)

theorem viaPatch_patch {code : BitVec 6} {rom : Hoop → Hoop} {x : Hoop} {o : TOp} {a : BitVec 12} (h : takes x code = some o)
    (hp : patchEntry x.tmb code = some a) : viaPatch code rom x = beginRun o x := by
  unfold viaPatch
  rw [h]
  exact if_pos (by rw [Tmb.patches, hp]; rfl)

theorem posted_rom {code : BitVec 6} {rom : Hoop → Hoop} {x : Hoop} (hp : x.tmb.patches code = false) : posted code rom x = rom x :=
  if_neg (by simp [hp])

theorem opDone_core (o : TOp) (x : Hoop) : (opDone o x).core = ({ x with tmb := { x.tmb with
    op := o.code, opsDone := x.tmb.opsDone + 1, urgent := dropOp o x.tmb.urgent, normal := dropOp o x.tmb.normal } } : Hoop).core := pmcRaw_core ..

/-- The operation last done and the number done. -/
theorem Hoop.done_of_calm {x y : Hoop} (h : x.calm = y.calm) : x.tmb.op = y.tmb.op ∧ x.tmb.opsDone = y.tmb.opsDone := by
  have e := congrArg (fun z : Hoop => (z.tmb.op, z.tmb.opsDone)) h
  exact Prod.mk.inj e

theorem opDone_done (o : TOp) (x : Hoop) : (opDone o x).tmb.op = o.code ∧ (opDone o x).tmb.opsDone = x.tmb.opsDone + 1 := by
  rw [Hoop.tmb_of_core (opDone_core o x)]
  exact ⟨rfl, rfl⟩

/-- The registers of an operation that the patch begins (R149). -/
theorem beginRun_registers {x : Hoop} {o : TOp} {a : BitVec 12} (hp : patchEntry x.tmb o.code = some a) :
    (beginRun o x).tmb.st = .running ∧ (beginRun o x).tmb.op = o.code ∧ (beginRun o x).tmb.upc = a ∧
      ∃ r, (beginRun o x).tmb.run = some r ∧ r.op = o ∧ r.pc = a ∧ r.stack = [] :=
  ⟨rfl, rfl, congrArg (Option.getD · _) hp, _, rfl, rfl, congrArg (Option.getD · _) hp, rfl⟩

/-! ## INJ_RELOAD, NOP and reserved codes -/

theorem injReload_taken {x : Hoop} {o : TOp} (h : takes x 8 = some o) : injReload o.group x = opDone o (x.updGroup o.group reloadInj) := by
  unfold injReload
  rw [h]
  exact if_pos rfl

theorem opDone_mon (o : TOp) (x : Hoop) : (opDone o x).mon = x.mon := (Hoop.mon_of_calm (pmcRaw_calm ..)).trans rfl

theorem tambourNop_taken {x : Hoop} (hr : x.tmb.runs = true) (hh : x.tmb.hold = false) (hd : x.tmb.darkReq = 0) : tambourNop x = opDone { code := 0 } x :=
  if_pos (by simp [hr, hh, hd])

theorem reservedOp_taken {x : Hoop} {code : BitVec 6} (hr : x.tmb.runs = true) (hh : x.tmb.hold = false) (hd : x.tmb.darkReq = 0)
    (hc : reservedCode code = true) : reservedOp code x = raiseEv 332 [code.toNat] .hoop (opDone { code := code } x) :=
  if_pos (by simp [hr, hh, hd, hc])

/-! ## RESTORE_IDLE (R94) -/

theorem smGet_map {α : Type} (f : α → α) {d : α} (hd : f d = d) (m : SMap α) (k : Nat) : smGet d (m.map (fun e => (e.1, f e.2))) k = f (smGet d m k) := by
  induction m with
  | nil => exact hd.symm
  | cons e m ih =>
    simp only [List.map_cons, smGet]
    split
    · rfl
    · exact ih

/-- The idle bank of a needle takes the active bank. -/
def Needle.restored (v : Needle) (sel : Bool) : Needle := if sel then { v with bank0 := v.bank1 } else { v with bank1 := v.bank0 }

theorem restoreIdle_needle (x : Hoop) (e : Nat) : (restoreIdle x).needle e = (x.needle e).restored x.drv.bankSel :=
  smGet_map (fun v : Needle => v.restored x.drv.bankSel) (by cases x.drv.bankSel <;> rfl) _ e

theorem restoreIdle_codes (x : Hoop) (e : Nat) : ((restoreIdle x).needle e).bank0 = x.activeCode e ∧ ((restoreIdle x).needle e).bank1 = x.activeCode e ∧
    ((restoreIdle x).needle e).reg = (x.needle e).reg := by
  rw [restoreIdle_needle, Needle.restored, Hoop.activeCode]
  split <;> exact ⟨rfl, rfl, rfl⟩

theorem restoreOp_taken {x : Hoop} {o : TOp} (h : takes x 3 = some o) : restoreOp x = opDone o (restoreIdle x) := by
  unfold restoreOp
  rw [h]

theorem Hoop.drv_of_core {x y : Hoop} (h : x.core = y.core) : x.drv = y.drv := by
  have e := congrArg (fun z : Hoop => z.drv) h; exact e

theorem Hoop.needle_of_core {x y : Hoop} (h : x.core = y.core) (e : Nat) : x.needle e = y.needle e :=
  congrArg (fun d : Drv => smGet ({} : Needle) d.needles e) (Hoop.drv_of_core h)

/-! ## DISARM -/

/-- The timebase and the number of operations done, which clearing injected entries leaves. -/
def Hoop.tally (x : Hoop) : Tb × Word := (x.tb, x.tmb.opsDone)

theorem injDone_tally (g : Nat) (x : Hoop) : (injDone g x).tally = x.tally := by
  unfold injDone
  split <;> rfl

theorem injDrop_tally (g : Nat) (f : InjEntry → Bool) (x : Hoop) : (injDrop g f x).tally = x.tally := by
  unfold injDrop
  split
  · exact (injDone_tally ..).trans rfl
  · rfl

theorem clearInj_tally (key : Nat) (x : Hoop) : (clearInj key x).tally = x.tally := foldl_keeps Hoop.tally _ (fun _ _ => injDrop_tally ..) _ x

/-- DISARM's three effects. -/
theorem disarmCmp_whole (k key : Nat) (x : Hoop) : (disarmCmp 3 k key x).tally = (cmpDisarm k x).tally ∧ (disarmCmp 3 k key x).tmb.dacStaged = false ∧
    (disarmCmp 3 k key x).noDelta := by
  unfold disarmCmp
  extract_lets mine x1 x2 x3
  have h2 : x2.tally = x1.tally := foldl_keeps Hoop.tally _ (fun _ _ => clearInj_tally ..) _ x1
  exact ⟨h2, rfl, rfl⟩

theorem disarm_taken {x : Hoop} {o : TOp} {k : Nat} (h : takes x 9 = some o) (hk : o.cmp = some k) :
    disarm k x = postStage (opDone o (disarmCmp 3 k o.seq x)) := by
  unfold disarm
  rw [h]
  exact if_pos hk

theorem postStage_tmb (x : Hoop) : ∃ l n, (postStage x).tmb = { x.tmb with normal := l, normalMax := n } := by
  unfold postStage
  split
  · exact ⟨_, _, rfl⟩
  · split <;> exact ⟨_, _, rfl⟩

/-- DISARM leaves its comparator disarmed, nothing staged, and one operation more done. -/
theorem disarm_registers {x : Hoop} {o : TOp} {k : Nat} (h : takes x 9 = some o) (hk : o.cmp = some k) :
    (disarm k x).tb.cmp k = { x.tb.cmp k with armed := false } ∧ (disarm k x).tmb.dacStaged = false ∧ (disarm k x).tmb.opsDone = x.tmb.opsDone + 1 ∧
      (disarm k x).noDelta := by
  obtain ⟨htally, hdac, hdelta⟩ := disarmCmp_whole k o.seq x
  obtain ⟨l, n, htmb⟩ := postStage_tmb (opDone o (disarmCmp 3 k o.seq x))
  rw [Hoop.tmb_of_core (opDone_core ..)] at htmb
  have htb : (disarm k x).tb = (cmpDisarm k x).tb := by
    rw [disarm_taken h hk, postStage_tb]
    exact (congrArg Hoop.tb (opDone_core o _) :).trans (congrArg Prod.fst htally)
  rw [disarm_taken h hk] at htb ⊢
  rw [htb, Hoop.noDelta, htmb]
  refine ⟨Hoop.setCmp_cmp .., hdac, ?_, hdelta⟩
  exact congrArg (· + 1) (congrArg Prod.snd htally)

end Sys2Proof.Machine
end

section
/-!
SUPPORT. What per-tile writes and windows do to the drive (R152, R154, R162, R169): the codes of the needles, and the board of what codes are compiled
from.
-/

namespace Sys2Proof.Machine
open Sys2Proof

/-! ## The board and the codes -/

/-- What an element's code is compiled from, with the tiles, Tambour's registers, the count, and what a quiet module rests on. -/
structure Board where
  part : Part
  thr : SMap Thread
  slice : Slice
  darks : SMap NCode
  override : BitVec 512
  elems : SMap Elem
  tiles : SMap Tile
  tmb : Tmb
  tb : Tb
  src : SMap Src
  fcPar : Bool

def Hoop.board (x : Hoop) : Board where
  part := x.part
  thr := x.thr
  slice := x.slice
  darks := x.dk.codes
  override := x.prk.override
  elems := x.drv.elems
  tiles := x.drv.tiles
  tmb := x.tmb
  tb := x.tb
  src := x.fc.src
  fcPar := x.dk.fcPar

/-- A needle's register and its two banks. -/
def Hoop.codes (x : Hoop) (e : Nat) : NCode × NCode × NCode := ((x.needle e).reg, (x.needle e).bank0, (x.needle e).bank1)

theorem Hoop.board_of_core {x y : Hoop} (h : x.core = y.core) : x.board = y.board := by
  have e := congrArg Hoop.board h; exact e

theorem Hoop.codes_of_core {x y : Hoop} (h : x.core = y.core) (e : Nat) : x.codes e = y.codes e :=
  congrArg (fun v : Needle => (v.reg, v.bank0, v.bank1)) (Hoop.needle_of_core h e)

theorem Hoop.codes_of_needles {x y : Hoop} (h : x.drv.needles = y.drv.needles) (e : Nat) : x.codes e = y.codes e :=
  congrArg (fun m : SMap Needle => ((smGet ({} : Needle) m e).reg, (smGet ({} : Needle) m e).bank0, (smGet ({} : Needle) m e).bank1)) h

theorem Hoop.setNeedle_needle_self (x : Hoop) (e : Nat) (v : Needle) : (x.setNeedle e v).needle e = v := smGet_smSet_self ..

theorem Hoop.setNeedle_needle_ne (x : Hoop) {e j : Nat} (v : Needle) (h : j ≠ e) : (x.setNeedle e v).needle j = x.needle j := smGet_smSet_ne _ _ _ _ h

theorem Hoop.setNeedle_codes_ne (x : Hoop) {e j : Nat} (v : Needle) (h : j ≠ e) : (x.setNeedle e v).codes j = x.codes j := by
  rw [Hoop.codes, Hoop.setNeedle_needle_ne x v h]
  rfl

theorem Hoop.setNeedle_codes_self (x : Hoop) (e : Nat) (v : Needle) : (x.setNeedle e v).codes e = (v.reg, v.bank0, v.bank1) := by
  rw [Hoop.codes, Hoop.setNeedle_needle_self]

theorem Hoop.setNeedle_board (x : Hoop) (e : Nat) (v : Needle) : (x.setNeedle e v).board = x.board := rfl

/-! ## Samples, loads and writes -/

theorem noteClamp_board (x : Hoop) (e : Nat) : (noteClamp x e).board = x.board := by
  unfold noteClamp
  split <;> rfl

theorem noteClamp_needles (x : Hoop) (e : Nat) : (noteClamp x e).drv.needles = x.drv.needles := by
  unfold noteClamp
  split <;> rfl

theorem sampleNeedle_board (x : Hoop) (e : Nat) : (sampleNeedle x e).board = x.board := (noteClamp_board ..).trans (Hoop.setNeedle_board ..)

/-- A sample sets the dither term alone. -/
theorem sampleNeedle_codes (x : Hoop) (e j : Nat) : (sampleNeedle x e).codes j = x.codes j := by
  refine (Hoop.codes_of_needles (noteClamp_needles ..) j).trans ?_
  by_cases h : j = e
  · subst h
    exact Hoop.setNeedle_codes_self ..
  · exact Hoop.setNeedle_codes_ne _ _ h

theorem loadReg_eq (x : Hoop) (e : Nat) (c : NCode) : ∃ v : Needle, v.reg = c ∧ v.bank0 = (x.needle e).bank0 ∧ v.bank1 = (x.needle e).bank1 ∧
    (loadReg x e c).board = (x.setNeedle e v).board ∧ (loadReg x e c).drv.needles = (x.setNeedle e v).drv.needles := by
  unfold loadReg
  extract_lets v m x1 x2
  have hb : x2.board = x1.board := by
    show (if (x1.tile (e / 32)).win.isSome = true then noteClamp x1 e else x1).board = _
    split
    · exact noteClamp_board ..
    · rfl
  have hn : x2.drv.needles = x1.drv.needles := by
    show (if (x1.tile (e / 32)).win.isSome = true then noteClamp x1 e else x1).drv.needles = _
    split
    · exact noteClamp_needles ..
    · rfl
  refine ⟨{ v with reg := c, ramp := false, track := v.track || m }, rfl, rfl, rfl, ?_, ?_⟩
  · split
    · exact Eq.trans rfl hb
    · exact hb
  · split
    · exact Eq.trans rfl hn
    · exact hn

theorem writeNeedle_board (x : Hoop) (e : Nat) (c : NCode) : (writeNeedle x e c).board = x.board := by
  obtain ⟨v, -, -, -, hb, -⟩ := loadReg_eq (x.updNeedle e (fun v => { v with bank0 := c, bank1 := c })) e c
  exact hb.trans rfl

/-- A per-tile write gives a needle one code in its register and both banks (R162). -/
theorem writeNeedle_codes_self (x : Hoop) (e : Nat) (c : NCode) : (writeNeedle x e c).codes e = (c, c, c) := by
  obtain ⟨v, hreg, h0, h1, -, hn⟩ := loadReg_eq (x.updNeedle e (fun v => { v with bank0 := c, bank1 := c })) e c
  rw [Hoop.updNeedle, Hoop.setNeedle_needle_self] at h0 h1
  refine (Hoop.codes_of_needles hn e).trans ?_
  rw [Hoop.setNeedle_codes_self, hreg, h0, h1]

theorem writeNeedle_codes_ne (x : Hoop) {e j : Nat} (c : NCode) (h : j ≠ e) : (writeNeedle x e c).codes j = x.codes j := by
  obtain ⟨v, -, -, -, -, hn⟩ := loadReg_eq (x.updNeedle e (fun v => { v with bank0 := c, bank1 := c })) e c
  exact (Hoop.codes_of_needles hn j).trans ((Hoop.setNeedle_codes_ne _ _ h).trans (Hoop.setNeedle_codes_ne _ _ h))

theorem updateNeedle_board (x : Hoop) (e : Nat) (c : NCode) : (updateNeedle x e c).board = x.board := by
  unfold updateNeedle
  split
  · rfl
  · exact writeNeedle_board ..

/-- On a tile that does not slew, TILE_UPDATE writes past the slew limiter. -/
theorem updateNeedle_deglitch {x : Hoop} {e : Nat} (c : NCode) (h : (x.tile (e / 32)).nSlew = false) : updateNeedle x e c = writeNeedle x e c :=
  if_neg (by rw [h]; decide)

/-! ## Windows (R169) -/

theorem Hoop.updTile_tile_self (x : Hoop) (t : Nat) (f : Tile → Tile) : (x.updTile t f).tile t = f (x.tile t) := smGet_smSet_self ..

theorem skipWindow_core (x : Hoop) : (skipWindow x).core = ({ x with drv := { x.drv with refSkip := satInc x.drv.refSkip } } : Hoop).core := pmcRaw_core ..

/-- A tile with a window that opened at an instant. -/
def Tile.opened (k : WinKind) (now : Nat) (v : Tile) : Tile := { v with win := some k, winStart := now, driven := v.driven || k == .drive }

/-- A board with a tile in a window that opens now. -/
def Board.opened (k : WinKind) (t : Nat) (b : Board) : Board := { b with tiles := smSet {} b.tiles t ((smGet {} b.tiles t).opened k b.tb.now) }

/-- A drive window opens whatever window is open; of the board it changes its tile. -/
theorem openWindow_drive (t : Nat) (x : Hoop) : (openWindow t .drive x).board = x.board.opened .drive t ∧
    ∀ e, (openWindow t .drive x).codes e = x.codes e := by
  unfold openWindow
  extract_lets v begin_ sampled
  generalize (v.win.isSome && v.win != some .drive && v.winStart == x.now) = c
  have hx : (if c then skipWindow x else x).board = x.board ∧ ∀ e, (if c then skipWindow x else x).codes e = x.codes e := by
    split
    · exact ⟨(Hoop.board_of_core (skipWindow_core x)).trans rfl, fun e => (Hoop.codes_of_core (skipWindow_core x) e).trans rfl⟩
    · exact ⟨rfl, fun _ => rfl⟩
  have hs (y : Hoop) : (sampled y).board = y.board.opened .drive t ∧ ∀ e, (sampled y).codes e = y.codes e :=
    ⟨foldl_keeps Hoop.board _ sampleNeedle_board _ _, fun e => foldl_keeps (·.codes e) _ (fun y j => sampleNeedle_codes y j e) _ _⟩
  refine ⟨?_, fun e => ?_⟩
  · exact (Hoop.board_of_core (pmcRaw_core ..)).trans ((hs _).1.trans (congrArg (Board.opened .drive t) hx.1))
  · exact (Hoop.codes_of_core (pmcRaw_core ..) e).trans (((hs _).2 e).trans (hx.2 e))

/-! ## Codes (R83, R128) -/

/-- A hoop with this board. -/
def Board.hoop (b : Board) : Hoop :=
  { part := b.part, thr := b.thr, slice := b.slice, dk := { codes := b.darks }, prk := { override := b.override }, drv := { elems := b.elems } }

theorem presentCode_board (x : Hoop) (e : Nat) : presentCode x e = presentCode x.board.hoop e := rfl

/-- A change of elements, tiles and Tambour that keeps the bands of the elements keeps the DARK codes. -/
structure Hoop.recast (x y : Hoop) : Prop where
  board : x.board = { y.board with elems := x.board.elems, tiles := x.board.tiles, tmb := x.board.tmb }
  band : ∀ e, (x.elem e).band = (y.elem e).band

theorem Hoop.recast.part {x y : Hoop} (h : x.recast y) : x.part = y.part := congrArg Board.part h.board

theorem Hoop.recast.eyBand {x y : Hoop} (h : x.recast y) (i : Nat) : x.eyBand i = y.eyBand i := by
  have ht : x.thr = y.thr := congrArg Board.thr h.board
  have he : x.eyelet i = y.eyelet i := congrArg (fun b : Board => b.hoop.eyelet i) h.board
  unfold Hoop.eyBand
  rw [ht, he, h.band]

theorem darkCode_eq (x : Hoop) (i : Nat) : x.darkCode i = x.ncode (x.eyelet i) .eyDark (x.eyBand i) false := rfl

theorem eyDark_board (x : Hoop) (i : Nat) (band : Bool) : x.ncode (x.eyelet i) .eyDark band false = x.board.hoop.ncode (x.board.hoop.eyelet i) .eyDark band false := rfl

theorem Hoop.recast.darkCode {x y : Hoop} (h : x.recast y) (i : Nat) : x.darkCode i = y.darkCode i := by
  rw [darkCode_eq, darkCode_eq, h.eyBand, eyDark_board, eyDark_board y, h.board]
  rfl

end Sys2Proof.Machine
end

section
/-!
SUPPORT. EYELET_DARK and TILE_UPDATE, element after element (R108, R152, R154).
-/

namespace Sys2Proof.Machine
open Sys2Proof

/-- A fold that reaches something at each of its elements, and keeps what it has reached. -/
theorem foldl_reaches {α β : Type} {f : β → α → β} {Q : β → Prop} {R : β → α → Prop} {l : List α}
    (h : ∀ a ∈ l, ∀ y, Q y → Q (f y a) ∧ R (f y a) a ∧ ∀ b, R y b → R (f y a) b) {x : β} (hx : Q x) :
    Q (l.foldl f x) ∧ ∀ a, a ∈ l ∨ R x a → R (l.foldl f x) a := by
  induction l generalizing x with
  | nil => exact ⟨hx, fun a ha => ha.resolve_left List.not_mem_nil⟩
  | cons a l ih =>
    obtain ⟨hq, hr, hkeep⟩ := h a List.mem_cons_self x hx
    obtain ⟨hq', hr'⟩ := ih (fun b hb => h b (List.mem_cons_of_mem _ hb)) hq
    refine ⟨hq', fun b hb => hr' b ?_⟩
    rcases hb with hb | hb
    · rcases List.mem_cons.mp hb with rfl | hb
      · exact .inr hr
      · exact .inl hb
    · exact .inr (hkeep b hb)

theorem Hoop.recast.refl (x : Hoop) : x.recast x := ⟨rfl, fun _ => rfl⟩

theorem Hoop.recast.trans {x y z : Hoop} (h : x.recast y) (g : y.recast z) : x.recast z := by
  refine ⟨?_, fun e => (h.band e).trans (g.band e)⟩
  have e := h.board
  rw [g.board] at e
  exact e

theorem Hoop.recast.eyelet {x y : Hoop} (h : x.recast y) (i : Nat) : x.eyelet i = y.eyelet i := by
  unfold Hoop.eyelet Hoop.nS
  rw [h.part]

theorem Hoop.updElem_elem_self (x : Hoop) (e : Nat) (f : Elem → Elem) : (x.updElem e f).elem e = f (x.elem e) := smGet_smSet_self ..

theorem Hoop.updElem_elem_ne (x : Hoop) {e j : Nat} (f : Elem → Elem) (h : j ≠ e) : (x.updElem e f).elem j = x.elem j := smGet_smSet_ne _ _ _ _ h

theorem Hoop.elem_of_board {x y : Hoop} (h : x.board.elems = y.board.elems) (e : Nat) : x.elem e = y.elem e :=
  congrArg (fun m : SMap Elem => smGet ({} : Elem) m e) h

/-- A board with other elements. -/
def Board.withElems (m : SMap Elem) (b : Board) : Board := { b with elems := m }

/-! ## EYELET_DARK (R108, R110) -/

/-- The board and the drive. -/
def Hoop.rack (x : Hoop) : Board × Drv := (x.board, x.drv)

theorem Hoop.updGroup_rack (x : Hoop) (g : Nat) (f : Group → Group) : (x.updGroup g f).rack = x.rack := rfl

theorem Hoop.updChan_rack (x : Hoop) (c : Nat) (f : Chan → Chan) : (x.updChan c f).rack = x.rack := rfl

theorem injectOne_rack (e : InjEntry) (x : Hoop) : (injectOne e x).rack = x.rack := rfl

theorem injectAt_rack (chans : List Nat) (key from_ : Nat) (dark : Bool) (x : Hoop) : (injectAt chans key from_ dark x).rack = x.rack :=
  (foldl_keeps Hoop.rack _ (fun _ _ => Hoop.updGroup_rack ..) _ _).trans (foldl_keeps Hoop.rack _ (fun _ _ => injectOne_rack ..) _ x)

theorem inject_rack (chans : List Nat) (key from_ : Nat) (dark : Bool) (x : Hoop) : (inject chans key from_ dark x).rack = x.rack :=
  (injectAt_rack ..).trans (foldl_keeps Hoop.rack _ (fun _ _ => Hoop.updGroup_rack ..) _ x)

theorem oweSettle_rack (chans : List Nat) (from_ : Nat) (x : Hoop) : (oweSettle chans from_ x).rack = x.rack :=
  foldl_keeps Hoop.rack _ (fun _ _ => Hoop.updChan_rack ..) _ x

/-- A dark confirmation works on the monitor's sequences alone. -/
theorem confirmDark_rack (i : Nat) (x : Hoop) : (confirmDark i x).rack = x.rack :=
  (oweSettle_rack ..).trans ((inject_rack ..).trans (Hoop.updChan_rack ..))

theorem Hoop.board_of_rack {x y : Hoop} (h : x.rack = y.rack) : x.board = y.board := congrArg Prod.fst h

theorem Hoop.codes_of_rack {x y : Hoop} (h : x.rack = y.rack) (e : Nat) : x.codes e = y.codes e :=
  Hoop.codes_of_needles (congrArg (fun q : Board × Drv => q.2.needles) h) e

/-- The request bit of an eyelet is served. -/
def Tmb.served (t : Tmb) (i : Nat) : Tmb := { t with darkReq := t.darkReq &&& ~~~(BitVec.twoPow 512 i) }

/-- The hoop with an eyelet written dark, before its window opens. -/
def darkWritten (i : Nat) (x : Hoop) : Hoop :=
  let y := (writeNeedle x (x.eyelet i) (x.darkCode i)).updElem (x.eyelet i) (fun v => { v with st := .eyDark })
  { y with tmb := y.tmb.served i }

theorem Hoop.board_tmb (x : Hoop) : x.board.tmb = x.tmb := rfl

theorem Board.opened_tmb (k : WinKind) (t : Nat) (b : Board) : (b.opened k t).tmb = b.tmb := rfl

theorem darkOne_eq (i : Nat) (x : Hoop) : darkOne i x = confirmDark i (openWindow (x.eyelet i / 32) .drive (darkWritten i x)) := rfl

theorem darkOne_board (i : Nat) (x : Hoop) : (darkOne i x).board = (darkWritten i x).board.opened .drive (x.eyelet i / 32) := by
  rw [darkOne_eq, Hoop.board_of_rack (confirmDark_rack ..), (openWindow_drive ..).1]

theorem darkOne_codes (i : Nat) (x : Hoop) (e : Nat) : (darkOne i x).codes e = (writeNeedle x (x.eyelet i) (x.darkCode i)).codes e := by
  rw [darkOne_eq, Hoop.codes_of_rack (confirmDark_rack ..), (openWindow_drive ..).2]
  rfl

theorem darkWritten_board (i : Nat) (x : Hoop) : (darkWritten i x).board =
    { x.board with elems := (x.updElem (x.eyelet i) (fun v => { v with st := .eyDark })).drv.elems, tmb := x.tmb.served i } := by
  have hw := writeNeedle_board x (x.eyelet i) (x.darkCode i)
  exact congrArg (fun b : Board => { b with
    elems := smSet {} b.elems (x.eyelet i) { smGet ({} : Elem) b.elems (x.eyelet i) with st := .eyDark }, tmb := b.tmb.served i }) hw

theorem darkOne_elem (i : Nat) (x : Hoop) (e : Nat) : (darkOne i x).elem e = (x.updElem (x.eyelet i) (fun v => { v with st := .eyDark })).elem e := by
  refine Hoop.elem_of_board ?_ e
  rw [darkOne_board, darkWritten_board]
  rfl

theorem darkOne_tmb (i : Nat) (x : Hoop) : (darkOne i x).tmb = x.tmb.served i := by
  rw [← Hoop.board_tmb, darkOne_board, Board.opened_tmb, darkWritten_board]

theorem darkOne_recast (i : Nat) (x : Hoop) : (darkOne i x).recast x := by
  refine ⟨?_, fun e => ?_⟩
  · rw [darkOne_board, darkWritten_board]
    rfl
  · rw [darkOne_elem]
    by_cases h : e = x.eyelet i
    · subst h
      rw [Hoop.updElem_elem_self]
    · rw [Hoop.updElem_elem_ne x _ h]

theorem Tmb.served_self (t : Tmb) (i : Nat) : (t.served i).darkReq.getLsbD i = false := by
  simp only [Tmb.served, BitVec.getLsbD_and, BitVec.getLsbD_not, BitVec.getLsbD_twoPow]
  by_cases h : i < 512 <;> simp [h]

theorem Tmb.served_clear (t : Tmb) (i : Nat) {j : Nat} (h : t.darkReq.getLsbD j = false) : (t.served i).darkReq.getLsbD j = false := by
  simp only [Tmb.served, BitVec.getLsbD_and, h, Bool.false_and]

/-- What an eyelet that EYELET_DARK has served shows. -/
def darkServed (x y : Hoop) (i : Nat) : Prop :=
  (y.elem (x.eyelet i)).st = .eyDark ∧ y.codes (x.eyelet i) = (x.darkCode i, x.darkCode i, x.darkCode i) ∧ y.tmb.darkReq.getLsbD i = false

/-- What EYELET_DARK keeps while it serves eyelets: the bands, the requests that are clear, and the count of operations. -/
structure Serving (x y : Hoop) : Prop where
  recast : y.recast x
  done : y.tmb.opsDone = x.tmb.opsDone
  clear : ∀ i, x.tmb.darkReq.getLsbD i = false → y.tmb.darkReq.getLsbD i = false

theorem Serving.darkOne {x y : Hoop} (h : Serving x y) (i : Nat) : Serving x (darkOne i y) := by
  refine ⟨(darkOne_recast i y).trans h.recast, ?_, fun j hj => ?_⟩
  · rw [darkOne_tmb]
    exact h.done
  · rw [darkOne_tmb]
    exact Tmb.served_clear _ _ (h.clear j hj)

theorem darkOne_served {x y : Hoop} (h : Serving x y) (i : Nat) : darkServed x (darkOne i y) i := by
  have he := h.recast.eyelet i
  refine ⟨?_, ?_, ?_⟩
  · rw [← he, darkOne_elem, Hoop.updElem_elem_self]
  · rw [← he, darkOne_codes, writeNeedle_codes_self, h.recast.darkCode]
  · rw [darkOne_tmb, Tmb.served_self]

theorem darkOne_keeps {x y : Hoop} (h : Serving x y) (i : Nat) {j : Nat} (hj : darkServed x y j) : darkServed x (darkOne i y) j := by
  by_cases hij : j = i
  · subst hij
    exact darkOne_served h j
  · have he : x.eyelet j ≠ y.eyelet i := by
      rw [h.recast.eyelet]
      unfold Hoop.eyelet
      omega
    obtain ⟨helem, hcodes, hbit⟩ := hj
    refine ⟨?_, ?_, ?_⟩
    · rw [darkOne_elem, Hoop.updElem_elem_ne y _ he, helem]
    · rw [darkOne_codes, writeNeedle_codes_ne y _ he, hcodes]
    · rw [darkOne_tmb, Tmb.served_clear _ _ hbit]

/-- The darks of the eyelets `l`. -/
theorem darks_served (l : List Nat) (x : Hoop) :
    Serving x (l.foldl (fun y i => darkOne i y) x) ∧ ∀ i ∈ l, darkServed x (l.foldl (fun y i => darkOne i y) x) i := by
  have h := foldl_reaches (f := fun y i => darkOne i y) (Q := Serving x) (R := darkServed x) (l := l)
    (fun i _ y hy => ⟨hy.darkOne i, darkOne_served hy i, fun _ => darkOne_keeps hy i⟩) ⟨Hoop.recast.refl x, rfl, fun _ hi => hi⟩
  exact ⟨h.1, fun i hi => h.2 i (.inl hi)⟩

theorem mem_darkBits {x : Hoop} {i : Nat} : i ∈ darkBits x ↔ i < x.n ∧ x.tmb.darkReq.getLsbD i = true := by
  simp [darkBits]

theorem eyeletDark_core {x : Hoop} {o : TOp} (h : takes x 0x10 = some o) :
    (eyeletDark x).core = (opDone o ((darkBits x).foldl (fun y i => darkOne i y) x)).core := by
  unfold eyeletDark
  rw [h]
  exact pmcRaw_core ..

/-! ## TILE_UPDATE (R152, R177, R482) -/

/-- One element of a TILE_UPDATE: a named stitch is parked IDLE, any other element gets the code of its present state. -/
def updateStep (o : TOp) (y : Hoop) (e : Nat) : Hoop :=
  updateNeedle (if e < y.nS ∧ !o.park.isEmpty then y.updElem e (fun v => { v with st := .idle, mixed := false }) else y) e
    (if e < y.nS ∧ !o.park.isEmpty then y.ncode e .idle false false else presentCode y e)

/-- Loops that were off start on feed-forward. -/
def startLoops (es : List Nat) (x : Hoop) : Hoop := es.foldl (fun y e => y.updLoop e (fun l => if l.st = .off then { l with st := .ff, i := 0 } else l)) x

theorem updateSome_eq (o : TOp) (t : Nat) (es : List Nat) (x : Hoop) :
    updateSome o t es x = openWindow t .drive (startLoops es (es.foldl (updateStep o) x)) := rfl

theorem startLoops_rack (es : List Nat) (x : Hoop) : (startLoops es x).rack = x.rack := by
  refine foldl_keeps Hoop.rack _ (fun y e => ?_) es x
  rfl

theorem updateSome_board (o : TOp) (t : Nat) (es : List Nat) (x : Hoop) :
    (updateSome o t es x).board = (es.foldl (updateStep o) x).board.opened .drive t := by
  rw [updateSome_eq, (openWindow_drive ..).1, Hoop.board_of_rack (startLoops_rack ..)]

theorem updateSome_codes (o : TOp) (t : Nat) (es : List Nat) (x : Hoop) (e : Nat) :
    (updateSome o t es x).codes e = (es.foldl (updateStep o) x).codes e := by
  rw [updateSome_eq, (openWindow_drive ..).2, Hoop.codes_of_rack (startLoops_rack ..)]

/-- A stitch that is parked. -/
def Elem.parked (v : Elem) : Prop := v.st = .idle ∧ v.mixed = false

theorem updateStep_board (o : TOp) (y : Hoop) (e : Nat) : (updateStep o y e).board =
    (if e < y.nS ∧ !o.park.isEmpty then y.updElem e (fun v => { v with st := .idle, mixed := false }) else y).board := updateNeedle_board ..

theorem updateStep_park {o : TOp} {y : Hoop} {e : Nat} (hp : o.park ≠ []) (he : e < y.nS) :
    (updateStep o y e).board = (y.updElem e (fun v => { v with st := .idle, mixed := false })).board := by
  rw [updateStep_board, if_pos (by simp [hp, he])]

theorem updateStep_present {o : TOp} {y : Hoop} {e : Nat} (h : ¬ (o.park ≠ [] ∧ e < y.nS)) : updateStep o y e = updateNeedle y e (presentCode y e) := by
  have hc : ¬ (e < y.nS ∧ (!o.park.isEmpty) = true) := by
    rintro ⟨he, hp⟩
    exact h ⟨by simpa using hp, he⟩
  rw [updateStep, if_neg hc, if_neg hc]

/-- Of the board a TILE_UPDATE's writes change the elements, and each named stitch that they reach stays parked. -/
theorem updateSteps_park {o : TOp} (l : List Nat) (x : Hoop) (hp : o.park ≠ []) :
    (l.foldl (updateStep o) x).board = { x.board with elems := (l.foldl (updateStep o) x).board.elems } ∧
      ∀ e ∈ l, e < x.nS → ((l.foldl (updateStep o) x).elem e).parked := by
  have h := foldl_reaches (f := updateStep o) (Q := fun y => y.board = { x.board with elems := y.board.elems })
    (R := fun y e => e < x.nS → (y.elem e).parked) (l := l) (x := x) (fun e _ y hy => ?_) rfl
  · exact ⟨h.1, fun e he => h.2 e (.inl he)⟩
  · have hn : y.nS = x.nS := congrArg (fun b : Board => Config.stitches b.part) hy
    by_cases he : e < y.nS
    · have hb := updateStep_park hp he
      have helem (j : Nat) := Hoop.elem_of_board (congrArg Board.elems hb) j
      refine ⟨?_, fun _ => ?_, fun j hj hjn => ?_⟩
      · rw [hb]
        exact congrArg (Board.withElems _) hy
      · rw [helem, Hoop.updElem_elem_self]
        exact ⟨rfl, rfl⟩
      · rw [helem]
        by_cases hje : j = e
        · subst hje
          rw [Hoop.updElem_elem_self]
          exact ⟨rfl, rfl⟩
        · rw [Hoop.updElem_elem_ne y _ hje]
          exact hj hjn
    · have hb : (updateStep o y e).board = y.board := by rw [updateStep_present (fun hc => he hc.2), updateNeedle_board]
      refine ⟨by rwa [hb], fun hx => absurd (hn ▸ hx) he, fun j hj hjn => ?_⟩
      rw [Hoop.elem_of_board (congrArg Board.elems hb)]
      exact hj hjn

/-- Without named stitches every element of a tile that does not slew gets its present code. -/
theorem updateSteps_present {o : TOp} {t : Nat} {l : List Nat} {x : Hoop} (hp : o.park = []) (hl : ∀ e ∈ l, e / 32 = t) (ht : (x.tile t).nSlew = false) :
    ∀ e ∈ l, (l.foldl (updateStep o) x).codes e = (presentCode x e, presentCode x e, presentCode x e) := by
  have h := foldl_reaches (f := updateStep o) (Q := fun y => y.board = x.board)
    (R := fun y e => y.codes e = (presentCode x e, presentCode x e, presentCode x e)) (l := l) (x := x) (fun e he y hy => ?_) rfl
  · exact fun e he => h.2 e (.inl he)
  · have htile : (y.tile (e / 32)).nSlew = false := by
      rw [hl e he, ← ht]
      exact congrArg (fun b : Board => (smGet ({} : Tile) b.tiles t).nSlew) hy
    have hstep : updateStep o y e = writeNeedle y e (presentCode x e) := by
      rw [updateStep_present (fun hc => hc.1 hp), updateNeedle_deglitch _ htile, presentCode_board, hy, ← presentCode_board]
    rw [hstep]
    refine ⟨(writeNeedle_board ..).trans hy, writeNeedle_codes_self .., fun j hj => ?_⟩
    by_cases hje : j = e
    · rw [hje, writeNeedle_codes_self]
    · rw [writeNeedle_codes_ne y _ hje, hj]

theorem updateSteps_board (o : TOp) (l : List Nat) (x : Hoop) :
    (l.foldl (updateStep o) x).board = { x.board with elems := (l.foldl (updateStep o) x).board.elems } := by
  by_cases hp : o.park = []
  · have h : (l.foldl (updateStep o) x).board = x.board := by
      refine foldl_keeps Hoop.board _ (fun y e => ?_) l x
      rw [updateStep_present (fun hc => hc.1 hp), updateNeedle_board]
    rw [h]
  · exact (updateSteps_park l x hp).1

/-- A tile's window and whether it has been written. -/
def Tile.shown (v : Tile) : Option WinKind × Nat × Bool := (v.win, v.winStart, v.written)

theorem slewDone_cases (t : Nat) (x : Hoop) : slewDone t x = x ∨ slewDone t x = x.updTile t (fun v => { v with nSlew := false }) := by
  unfold slewDone
  split
  · exact .inl rfl
  · exact .inr rfl

theorem slewDone_shown (t : Nat) (x : Hoop) : ((slewDone t x).tile t).shown = (x.tile t).shown := by
  rcases slewDone_cases t x with h | h <;> rw [h]
  rw [Hoop.updTile_tile_self]
  rfl

theorem slewDone_board (t : Nat) (x : Hoop) : (slewDone t x).board = { x.board with tiles := (slewDone t x).board.tiles } := by
  rcases slewDone_cases t x with h | h
  · rw [h]
  · rw [h]
    rfl

theorem slewDone_codes (t : Nat) (x : Hoop) (e : Nat) : (slewDone t x).codes e = x.codes e := by
  rcases slewDone_cases t x with h | h <;> rw [h]
  rfl

/-- A board with other registers of Tambour. -/
def Board.withTmb (m : Tmb) (b : Board) : Board := { b with tmb := m }

/-- A hoop with a tile marked as written. -/
def Hoop.marked (x : Hoop) (t : Nat) : Hoop := x.updTile t (fun v => { v with written := true })

/-- A tile written, before its slew mode is looked at. -/
theorem tileWritten_eq (o : TOp) (t : Nat) (x : Hoop) : ∃ u : Hoop, tileWritten o t x = slewDone t u ∧ (∀ e, u.codes e = x.codes e) ∧
    u.board = (x.marked t).board.withTmb u.tmb ∧ (o.tiles.filter (· != t) = [] → u.tmb.opsDone = x.tmb.opsDone + 1) := by
  unfold tileWritten
  extract_lets y d z rest
  have hz : z.board = (x.marked t).board ∧ ∀ e, z.codes e = x.codes e := by
    show (if (List.range y.nT).all (fun t => (y.tile t).written) then { y with drv := { y.drv with nFirstDone := true } } else y : Hoop).board = _ ∧
      ∀ e, (if (List.range y.nT).all (fun t => (y.tile t).written) then { y with drv := { y.drv with nFirstDone := true } } else y : Hoop).codes e = _
    split <;> exact ⟨rfl, fun _ => rfl⟩
  split
  · refine ⟨opDone o z, rfl, fun e => (Hoop.codes_of_core (opDone_core ..) e).trans (hz.2 e), ?_, fun _ => ?_⟩
    · rw [Hoop.board_of_core (opDone_core ..), Hoop.tmb_of_core (opDone_core ..)]
      exact congrArg (Board.withTmb _) hz.1
    · rw [(opDone_done o z).2]
      exact congrArg (fun b : Board => b.tmb.opsDone + 1) hz.1
  next hrest => exact ⟨_, rfl, hz.2, congrArg (Board.withTmb _) hz.1, fun h => absurd (congrArg List.isEmpty h) hrest⟩

theorem tileUpdate_taken {x : Hoop} {o : TOp} {t : Nat} (h : takes x 4 = some o) (ht : o.tiles.contains t = true) (hr : x.drv.refRun = true) :
    tileUpdate t x = tileWritten o t (updateSome o t (updateElems o t x) x) := by
  unfold tileUpdate
  rw [h]
  exact if_neg (by rw [ht, hr]; decide)

end Sys2Proof.Machine
end

section
/-!
SUPPORT. What TILE_UPDATE and EYELET_DARK leave when they are taken (R108, R152), and what the operations of Tambour leave after their rows.
-/

namespace Sys2Proof.Machine
open Sys2Proof

/-! ## TILE_UPDATE taken -/

/-- The part, the sources and the collector's parity, on which a quiet module rests. -/
def Board.still (b : Board) : Part × SMap Src × Bool := (b.part, b.src, b.fcPar)

/-- The writes of a TILE_UPDATE on a tile. -/
def tileSteps (o : TOp) (t : Nat) (x : Hoop) : Hoop := (updateElems o t x).foldl (updateStep o) x

/-- A tile after its TILE_UPDATE. -/
def tileDone (o : TOp) (t : Nat) (x : Hoop) : Hoop := tileWritten o t (updateSome o t (updateElems o t x) x)

theorem tileSteps_board (o : TOp) (t : Nat) (x : Hoop) : (tileSteps o t x).board = x.board.withElems (tileSteps o t x).board.elems := updateSteps_board ..

/-- A tile of a board marked as written. -/
def Board.marked (t : Nat) (b : Board) : Board := { b with tiles := smSet {} b.tiles t { smGet ({} : Tile) b.tiles t with written := true } }

theorem Hoop.marked_board (x : Hoop) (t : Nat) : (x.marked t).board = x.board.marked t := rfl

def Board.tile (b : Board) (t : Nat) : Tile := smGet {} b.tiles t

theorem Hoop.board_tile (x : Hoop) (t : Nat) : x.board.tile t = x.tile t := rfl

theorem Board.marked_tile (b : Board) (t : Nat) : (b.marked t).tile t = { b.tile t with written := true } := smGet_smSet_self ..

theorem Board.opened_tile (k : WinKind) (b : Board) (t : Nat) : (b.opened k t).tile t = (b.tile t).opened k b.tb.now := smGet_smSet_self ..

theorem Board.withTmb_tile (m : Tmb) (b : Board) (t : Nat) : (b.withTmb m).tile t = b.tile t := rfl

/-- A tile written on the board of the element writes, in its drive window and marked. -/
theorem tileDone_eq (o : TOp) (t : Nat) (x : Hoop) : ∃ u : Hoop, tileDone o t x = slewDone t u ∧ (∀ e, u.codes e = (tileSteps o t x).codes e) ∧
    u.board = (((x.board.withElems (tileSteps o t x).board.elems).opened .drive t).marked t).withTmb u.tmb ∧
    (o.tiles.filter (· != t) = [] → u.tmb.opsDone = x.tmb.opsDone + 1) := by
  obtain ⟨u, hu, hcodes, hboard, hops⟩ := tileWritten_eq o t (updateSome o t (updateElems o t x) x)
  have hb : (updateSome o t (updateElems o t x) x).board = (x.board.withElems (tileSteps o t x).board.elems).opened .drive t := by
    rw [updateSome_board, ← tileSteps, tileSteps_board]
    rfl
  refine ⟨u, hu, fun e => (hcodes e).trans (updateSome_codes ..), ?_, fun h => (hops h).trans ?_⟩
  · rw [hboard, Hoop.marked_board, hb]
  · rw [← Hoop.board_tmb, hb]
    rfl

theorem tileDone_still (o : TOp) (t : Nat) (x : Hoop) : (tileDone o t x).board.still = x.board.still := by
  obtain ⟨u, hu, -, hboard, -⟩ := tileDone_eq o t x
  rw [hu, slewDone_board, hboard]
  rfl

theorem tileDone_codes (o : TOp) (t : Nat) (x : Hoop) (e : Nat) : (tileDone o t x).codes e = (tileSteps o t x).codes e := by
  obtain ⟨u, hu, hcodes, -, -⟩ := tileDone_eq o t x
  rw [hu, slewDone_codes, hcodes]

theorem tileDone_elems (o : TOp) (t : Nat) (x : Hoop) : (tileDone o t x).board.elems = (tileSteps o t x).board.elems := by
  obtain ⟨u, hu, -, hboard, -⟩ := tileDone_eq o t x
  rw [hu, slewDone_board, hboard]
  rfl

theorem tileDone_opsDone {o : TOp} {t : Nat} (x : Hoop) (h : o.tiles.filter (· != t) = []) : (tileDone o t x).tmb.opsDone = x.tmb.opsDone + 1 := by
  obtain ⟨u, hu, -, -, hops⟩ := tileDone_eq o t x
  rw [hu, ← hops h]
  exact congrArg (fun b : Board => b.tmb.opsDone) (slewDone_board t u)

/-- The tile is in a drive window that opens now, and is written. -/
theorem tileDone_shown (o : TOp) (t : Nat) (x : Hoop) : ((tileDone o t x).tile t).shown = (some .drive, x.now, true) := by
  obtain ⟨u, hu, -, hboard, -⟩ := tileDone_eq o t x
  have htile : u.tile t = { (x.tile t).opened .drive x.now with written := true } := by
    rw [← Hoop.board_tile, hboard, Board.withTmb_tile, Board.marked_tile, Board.opened_tile]
    rfl
  rw [hu, slewDone_shown, htile]
  rfl

theorem updateElems_all {o : TOp} (t : Nat) (x : Hoop) (h : o.park = []) : updateElems o t x = tileElems t := by
  unfold updateElems
  rw [h]
  exact List.filter_eq_self.mpr fun _ _ => rfl

theorem mem_updateElems {o : TOp} {t e : Nat} {x : Hoop} (hp : e ∈ o.park) (ht : e ∈ tileElems t) (hr : routeHeld x e = false) : e ∈ updateElems o t x :=
  List.mem_filter.mpr ⟨ht, by simp [hp, hr]⟩

/-- A TILE_UPDATE that names no stitch writes the present code of every element of a tile that does not slew. -/
theorem tileDone_present {o : TOp} {t : Nat} {x : Hoop} (hp : o.park = []) (hs : (x.tile t).nSlew = false) {e : Nat} (he : e ∈ tileElems t) :
    (tileDone o t x).codes e = (presentCode x e, presentCode x e, presentCode x e) := by
  rw [tileDone_codes, tileSteps, updateElems_all t x hp]
  exact updateSteps_present hp (fun _ hj => mem_tileElems.mp hj) hs e he

/-- A TILE_UPDATE parks the stitches that it names and no route holds. -/
theorem tileDone_parked {o : TOp} {t e : Nat} {x : Hoop} (hp : e ∈ o.park) (ht : e ∈ tileElems t) (hn : e < x.nS) (hr : routeHeld x e = false) :
    ((tileDone o t x).elem e).parked := by
  rw [Hoop.elem_of_board (tileDone_elems o t x)]
  exact (updateSteps_park _ x (List.ne_nil_of_mem hp)).2 e (mem_updateElems hp ht hr) hn

/-! ## EYELET_DARK taken -/

/-- The darks of every eyelet asked for. -/
def darksDone (x : Hoop) : Hoop := (darkBits x).foldl (fun y i => darkOne i y) x

theorem darksDone_serving (x : Hoop) : Serving x (darksDone x) := (darks_served ..).1

theorem darksDone_served {x : Hoop} {i : Nat} (hi : i < x.n) (hr : x.tmb.darkReq.getLsbD i = true) : darkServed x (darksDone x) i :=
  (darks_served ..).2 i (mem_darkBits.mpr ⟨hi, hr⟩)

/-- No eyelet's request is left. -/
theorem darksDone_clear {x : Hoop} {i : Nat} (hi : i < x.n) : (darksDone x).tmb.darkReq.getLsbD i = false := by
  cases hr : x.tmb.darkReq.getLsbD i with
  | false => exact (darksDone_serving x).clear i hr
  | true => exact (darksDone_served hi hr).2.2

end Sys2Proof.Machine
end

section
/-!
SUPPORT. Tambour's other operations (O37).
-/

namespace Sys2Proof.Machine
open Sys2Proof

section
variable {s : State} {h : HoopId} {x : Hoop} {o : TOp}

theorem opDone_still (o : TOp) (x : Hoop) : (opDone o x).board.still = x.board.still := by
  rw [Hoop.board_of_core (opDone_core ..)]
  rfl

/-- Clause 1: RESTORE_IDLE (R94). -/
theorem restoreIdle_completes (e : s.here h x) (q : s.quiet = true) (ho : takes x 3 = some o) (hp : x.tmb.patches 3 = false) :
    CompletesWith (.restoreIdle h) s h (fun y =>
      (∀ e, (y.needle e).bank0 = x.activeCode e ∧ (y.needle e).bank1 = x.activeCode e ∧ (y.needle e).reg = (x.needle e).reg) ∧ y.tmb.dacStaged = false ∧
      y.tmb.stageDelta = [] ∧ y.tmb.strobeTiles = [] ∧ y.tmb.op = 3 ∧ y.tmb.opsDone = x.tmb.opsDone + 1) := by
  have hrow : viaPatch 3 restoreOp x = opDone o (restoreIdle x) := (viaPatch_rom ho hp).trans (restoreOp_taken ho)
  have hb : (viaPatch 3 restoreOp x).board.still = x.board.still := by
    rw [hrow, opDone_still]
    rfl
  refine gives_core (viaPatch 3 restoreOp) e q rfl (congrArg Prod.fst hb) (congrArg (·.2.1) hb) (congrArg (·.2.2) hb) fun y hy => ?_
  rw [hrow] at hy
  have hn (j : Nat) : y.needle j = (restoreIdle x).needle j := Hoop.needle_of_core (hy.trans (opDone_core ..)) j
  rw [Hoop.tmb_of_core (hy.trans (opDone_core ..))]
  exact ⟨fun j => hn j ▸ restoreIdle_codes x j, rfl, rfl, rfl, takes_code ho, rfl⟩

/-- Clause 2: TILE_UPDATE (R152). -/
theorem tileUpdate_completes {t : Nat} (e : s.here h x) (q : s.quiet = true) (ho : takes x 4 = some o) (hp : x.tmb.patches 4 = false)
    (ht : o.tiles.contains t = true) (hr : x.drv.refRun = true) :
    CompletesWith (.tileUpdate h t) s h (fun y =>
      (y.tile t).win = some .drive ∧ (y.tile t).winStart = x.now ∧ (y.tile t).written = true ∧
      (o.tiles.filter (· != t) = [] → y.tmb.opsDone = x.tmb.opsDone + 1) ∧
      (o.park = [] → (x.tile t).nSlew = false → ∀ e ∈ tileElems t, (y.needle e).reg = presentCode x e ∧ (y.needle e).bank0 = presentCode x e ∧
        (y.needle e).bank1 = presentCode x e) ∧
      (∀ e ∈ o.park, e ∈ tileElems t → e < x.nS → routeHeld x e = false → (y.elem e).st = .idle ∧ (y.elem e).mixed = false)) := by
  have hrow : viaPatch 4 (tileUpdate t) x = tileDone o t x := (viaPatch_rom ho hp).trans (tileUpdate_taken ho ht hr)
  have hb : (viaPatch 4 (tileUpdate t) x).board.still = x.board.still := by rw [hrow, tileDone_still]
  refine gives_core (viaPatch 4 (tileUpdate t)) e q rfl (congrArg Prod.fst hb) (congrArg (·.2.1) hb) (congrArg (·.2.2) hb) fun y hy => ?_
  rw [hrow] at hy
  have hyb := Hoop.board_of_core hy
  have hshown : (y.tile t).shown = (some .drive, x.now, true) := by rw [← Hoop.board_tile, hyb, Hoop.board_tile, tileDone_shown]
  simp only [Tile.shown, Prod.mk.injEq] at hshown
  obtain ⟨hwin, hstart, hwritten⟩ := hshown
  refine ⟨hwin, hstart, hwritten, fun hrest => ?_, fun hpark hslew j hj => ?_, fun j hj hjt hn hheld => ?_⟩
  · rw [← Hoop.board_tmb, hyb, Hoop.board_tmb, tileDone_opsDone x hrest]
  · have hc := (Hoop.codes_of_core hy j).trans (tileDone_present hpark hslew hj)
    simpa only [Hoop.codes, Prod.mk.injEq] using hc
  · rw [Hoop.elem_of_board (congrArg Board.elems hyb)]
    exact tileDone_parked hj hjt hn hheld

/-- Clause 3: INJ_RELOAD. -/
theorem injReload_completes {g : Nat} (e : s.here h x) (ho : takes x 8 = some o) (hp : x.tmb.patches 8 = false) (hg : o.group = g) :
    CompletesWith (.injReload h g) s h (fun y => y.group g = reloadInj (x.group g) ∧ y.tmb.op = 8 ∧ y.tmb.opsDone = x.tmb.opsDone + 1) := by
  subst hg
  refine gives_act (viaPatch 8 (injReload o.group)) e rfl fun y hy => ?_
  rw [viaPatch_rom ho hp, injReload_taken ho] at hy
  obtain ⟨hop, hops⟩ := Hoop.done_of_calm hy
  obtain ⟨hop', hops'⟩ := opDone_done o (x.updGroup o.group reloadInj)
  refine ⟨?_, hop.trans (hop'.trans (takes_code ho)), hops.trans hops'⟩
  rw [Hoop.group_of_mon ((Hoop.mon_of_calm hy).trans (opDone_mon ..)), Hoop.updGroup_group_self]

/-- The registers of a run: its state, its place, the run itself and whether a commit is staged. -/
def Tmb.runRegs (t : Tmb) : TmbSt × BitVec 12 × Option Run × Bool := (t.st, t.upc, t.run, t.dacStaged)

theorem Hoop.runRegs_of_calm {y : Hoop} (h : x.calm = y.calm) : x.tmb.runRegs = y.tmb.runRegs := by
  have e := congrArg (fun z : Hoop => z.tmb.runRegs) h
  exact e

/-- Clause 4: DISARM. -/
theorem disarm_completes {k : Nat} (e : s.here h x) (ho : takes x 9 = some o) (hp : x.tmb.patches 9 = false) (hk : o.cmp = some k) :
    CompletesWith (.disarm h k) s h (fun y =>
      y.tb.cmp k = { x.tb.cmp k with armed := false } ∧ y.tmb.dacStaged = false ∧ y.tmb.stageDelta = [] ∧ y.tmb.opsDone = x.tmb.opsDone + 1) := by
  have hrow : viaPatch 9 (disarm k) x = disarm k x := viaPatch_rom ho hp
  obtain ⟨hcmp, hdac, hops, hdelta⟩ := disarm_registers ho hk
  refine gives_noDelta (viaPatch 9 (disarm k)) e rfl (hrow ▸ hdelta) fun y hy hnone => ?_
  rw [hrow] at hy
  exact ⟨Hoop.tb_of_calm hy ▸ hcmp, (congrArg (·.2.2.2) (Hoop.runRegs_of_calm hy)).trans hdac, hnone, (Hoop.done_of_calm hy).2.trans hops⟩

/-- Clause 5: EYELET_DARK (R108). -/
theorem eyeletDark_completes (e : s.here h x) (q : s.quiet = true) (ho : takes x 0x10 = some o) (hp : x.tmb.patches 0x10 = false) :
    CompletesWith (.eyeletDark h) s h (fun y =>
      (∀ i, i < x.n → y.tmb.darkReq.getLsbD i = false) ∧ y.tmb.opsDone = x.tmb.opsDone + 1 ∧
      (∀ i, i < x.n → x.tmb.darkReq.getLsbD i = true → (y.elem (x.eyelet i)).st = .eyDark ∧ (y.needle (x.eyelet i)).reg = x.darkCode i ∧
        (y.needle (x.eyelet i)).bank0 = x.darkCode i ∧ (y.needle (x.eyelet i)).bank1 = x.darkCode i)) := by
  have hrow : (viaPatch 0x10 eyeletDark x).core = (opDone o (darksDone x)).core := (congrArg Hoop.core (viaPatch_rom ho hp)).trans (eyeletDark_core ho)
  have hserve := darksDone_serving x
  have hb : (viaPatch 0x10 eyeletDark x).board.still = x.board.still := by
    rw [Hoop.board_of_core hrow, opDone_still]
    exact (congrArg Board.still hserve.recast.board :)
  refine gives_core (viaPatch 0x10 eyeletDark) e q rfl (congrArg Prod.fst hb) (congrArg (·.2.1) hb) (congrArg (·.2.2) hb) fun y hy => ?_
  have hc := hy.trans (hrow.trans (opDone_core ..))
  refine ⟨fun i hi => ?_, ?_, fun i hi hreq => ?_⟩
  · rw [Hoop.tmb_of_core hc]
    exact darksDone_clear hi
  · rw [Hoop.tmb_of_core hc, ← hserve.done]
  · obtain ⟨hst, hcodes, -⟩ := darksDone_served hi hreq
    refine ⟨(congrArg Elem.st (Hoop.elem_of_board (congrArg Board.elems (Hoop.board_of_core hc)) _)).trans hst, ?_⟩
    have hcodes' := (Hoop.codes_of_core hc (x.eyelet i)).trans hcodes
    simpa only [Hoop.codes, Prod.mk.injEq] using hcodes'

/-- Clause 6: NOP. -/
theorem tambourNop_completes (e : s.here h x) (hr : x.tmb.runs = true) (hh : x.tmb.hold = false) (hd : x.tmb.darkReq = 0) (hp : x.tmb.patches 0 = false) :
    CompletesWith (.tambourNop h) s h (fun y => y.tmb.op = 0 ∧ y.tmb.opsDone = x.tmb.opsDone + 1) := by
  refine gives_act (posted 0 tambourNop) e rfl fun y hy => ?_
  rw [posted_rom hp, tambourNop_taken hr hh hd] at hy
  obtain ⟨hop, hops⟩ := Hoop.done_of_calm hy
  obtain ⟨hop', hops'⟩ := opDone_done { code := 0 } x
  exact ⟨hop.trans hop', hops.trans hops'⟩

/-- Clause 7: a reserved code. -/
theorem reservedOperation_completes {code : BitVec 6} (e : s.here h x) (hr : x.tmb.runs = true) (hh : x.tmb.hold = false) (hd : x.tmb.darkReq = 0)
    (hc : reservedCode code = true) (hp : x.tmb.patches code = false) :
    CompletesWith (.reservedOperation h code) s h (fun y => y.tmb.op = code ∧ y.tmb.opsDone = x.tmb.opsDone + 1) := by
  refine gives_act (fun x => if reservedCode code then posted code (reservedOp code) x else x) e rfl fun y hy => ?_
  rw [if_pos hc, posted_rom hp, reservedOp_taken hr hh hd hc, raiseEv_calm] at hy
  obtain ⟨hop, hops⟩ := Hoop.done_of_calm hy
  obtain ⟨hop', hops'⟩ := opDone_done { code := code } x
  exact ⟨hop.trans hop', hops.trans hops'⟩

/-- Clause 8: an operation that begins in the patch RAM (R149). -/
theorem restoreIdle_patched {a : BitVec 12} (e : s.here h x) (ho : takes x 3 = some o) (hp : patchEntry x.tmb 3 = some a) :
    CompletesWith (.restoreIdle h) s h (fun y =>
      y.tmb.st = .running ∧ y.tmb.op = 3 ∧ y.tmb.upc = a ∧ ∃ r, y.tmb.run = some r ∧ r.op = o ∧ r.pc = a ∧ r.stack = []) := by
  refine gives_act (viaPatch 3 restoreOp) e rfl fun y hy => ?_
  have hcode : o.code = 3 := takes_code ho
  obtain ⟨hst, hop, hupc, r, hrun, hr⟩ := beginRun_registers (x := x) (o := o) (hcode.symm ▸ hp)
  rw [viaPatch_patch ho hp] at hy
  obtain ⟨hst', hupc', hrun', -⟩ : _ ∧ _ ∧ _ ∧ _ := by simpa only [Tmb.runRegs, Prod.mk.injEq] using Hoop.runRegs_of_calm hy
  exact ⟨hst'.trans hst, (Hoop.done_of_calm hy).1.trans (hop.trans hcode), hupc'.trans hupc, r, hrun'.trans hrun, hr⟩

end

/-- Settles O37: each operation that is taken is one function of the hoop, whose effect on the blocks or on the core stands through `settle`. -/
theorem tambourOperations : Obligations.TambourOperations := by
  unfold Obligations.TambourOperations
  refine ⟨?restoreIdle, ?tileUpdate, ?injReload, ?disarm, ?eyeletDark, ?nop, ?reserved, ?patched⟩
  case restoreIdle => exact fun _ _ _ _ e q ho hp => restoreIdle_completes e q ho hp
  case tileUpdate => exact fun _ _ _ _ _ e q ho hp ht hr => tileUpdate_completes e q ho hp ht hr
  case injReload => exact fun _ _ _ _ _ e ho hp hg => injReload_completes e ho hp hg
  case disarm => exact fun _ _ _ _ _ e ho hp hk => disarm_completes e ho hp hk
  case eyeletDark => exact fun _ _ _ _ e q ho hp => eyeletDark_completes e q ho hp
  case nop => exact fun _ _ _ e hr hh hd hp => tambourNop_completes e hr hh hd hp
  case reserved => exact fun _ _ _ _ e hr hh hd hc hp => reservedOperation_completes e hr hh hd hc hp
  case patched => exact fun _ _ _ _ _ e ho hp => restoreIdle_patched e ho hp

end Sys2Proof.Machine
end

section
/-!
SUPPORT. Pricking slots and list stores (R116, R117, R120), and the statement O20.
-/

namespace Sys2Proof.Machine
open Sys2Proof

/-! ## Keyed writes, one after the other -/

/-- What step `a` of a fold writes reads back at the end, where every other step of the fold leaves it alone. -/
theorem foldl_reads {α β γ : Type} {get : β → γ} {f : β → α → β} {a : α} {v : γ} {l : List α} (hwrite : ∀ b, get (f b a) = v)
    (hkeep : ∀ b, ∀ c ∈ l, c ≠ a → get (f b c) = get b) (b : β) (h : a ∈ l ∨ get b = v) : get (l.foldl f b) = v := by
  induction l generalizing b with
  | nil => exact h.resolve_left List.not_mem_nil
  | cons c l ih =>
    refine ih (fun b d hd => hkeep b d (List.mem_cons_of_mem _ hd)) (f b c) ?_
    by_cases hc : c = a
    · exact .inr (hc ▸ hwrite b)
    · rw [hkeep b c List.mem_cons_self hc]
      exact h.imp_left fun hm => (List.mem_cons.mp hm).resolve_left (Ne.symm hc)

theorem smFind_smPut_self {α : Type} (m : SMap α) (k : Nat) (v : α) : smFind (smPut m k v) k = some v := by
  induction m with
  | nil => exact if_pos rfl
  | cons e m ih =>
    obtain ⟨j, w⟩ := e
    unfold smPut
    split
    · exact if_pos rfl
    · split
      · exact if_pos rfl
      · exact (if_neg (Ne.symm ‹_›)).trans ih

theorem smFind_smPut_ne {α : Type} (m : SMap α) {k j : Nat} (v : α) (h : j ≠ k) : smFind (smPut m k v) j = smFind m j := by
  induction m with
  | nil => exact if_neg (Ne.symm h)
  | cons e m ih =>
    obtain ⟨i, w⟩ := e
    unfold smPut
    split
    · exact if_neg (Ne.symm h)
    · split
      · subst_vars
        simp [smFind, Ne.symm h]
      · simp [smFind, ih]

/-- A table filled by writes under different keys holds each value under its key. -/
theorem smFind_foldl_smPut {α β : Type} {key : α → Nat} (val : α → β) {l : List α} (hd : (l.map key).Nodup) (m : SMap β) {a : α} (h : a ∈ l) :
    smFind (l.foldl (fun m a => smPut m (key a) (val a)) m) (key a) = some (val a) :=
  foldl_reads (get := fun m => smFind m (key a)) (f := fun m a => smPut m (key a) (val a)) (fun m => smFind_smPut_self m ..)
    (fun m _ hc hne => smFind_smPut_ne m _ fun he => hne (List.inj_on_of_nodup_map hd hc h he.symm)) m (.inl h)

theorem distinct_nodup {l : List Nat} (h : distinct l = true) : l.Nodup := by
  induction l with
  | nil => exact List.nodup_nil
  | cons a l ih =>
    simp only [distinct, Bool.and_eq_true, Bool.not_eq_true', List.contains_eq_mem, decide_eq_false_iff_not] at h
    exact List.nodup_cons.mpr ⟨h.1, ih h.2⟩

theorem Prk.slot_of_set {p : Prk} {m : SMap Slot} {k : Nat} {v : Slot} (h : p.slots = smSet {} m k v) : p.slot k = v := by
  rw [Prk.slot, h, smGet_smSet_self]

/-! ## A slot load (R116, R117) -/

/-- The routed threads are those of the descriptors, not yet begun. -/
theorem routeSlot_thread {x : Hoop} {ds : List Desc} {t : SMap Thread} (h : routeSlot x ds = some t) (hd : (ds.map (·.inPort)).Nodup) {d : Desc}
    (hm : d ∈ ds) : ∃ v, smFind t d.inPort = some v ∧ v.outPort = d.outPort ∧ v.tenant = d.tenant ∧ v.pricked = true ∧ v.st = .none := by
  unfold routeSlot at h
  extract_lets fixed at h
  split at h
  · exact nomatch h
  · split at h
    · exact nomatch h
    · obtain rfl := Option.some.inj h
      exact ⟨_, smFind_foldl_smPut (key := Desc.inPort) _ hd [] hm, rfl, rfl, rfl, rfl⟩

/-- A slot load that passes every check of R117: no ingress port stands in it twice, and the slot becomes a PATTERN slot of the routed threads. -/
theorem slotLast_ok {slot : Nat} {ds : List Desc} {x : Hoop} (h : (slotLast slot ds x).1.status = 0) : ∃ y t,
    (ds.map (·.inPort)).Nodup ∧ routeSlot y ds = some t ∧
    slotLast slot ds x = ({ status := 0 }, x.updPrk (fun p => { p with
      load := none, slots := smSet {} p.slots slot { kind := .pattern, threads := t } })) := by
  revert h
  unfold slotLast
  extract_lets y
  split
  · exact fun h => nomatch h
  · split
    · exact fun h => nomatch h
    next hports =>
      split
      · exact fun h => nomatch h
      · split
        · exact fun h => nomatch h
        · split
          · exact fun h => nomatch h
          next t hroute =>
            simp only [Bool.or_eq_true, Bool.not_eq_true', not_or, Bool.not_eq_false] at hports
            exact fun _ => ⟨y, t, distinct_nodup hports.1.1, hroute, rfl⟩

theorem slotLoadVerb_first {k : Ctx} (x : Hoop) (h : field (paramOf k.cmd.bytes) 1 1 % 4 = 1) : slotLoadVerb.run k x =
    ({ status := 0 }, x.updPrk (fun p => { p with load := some (field (paramOf k.cmd.bytes) 0 1, (slotPart k).2.2.2.map (BitVec.ofNat 64)) })) := by
  have hfirst : field (paramOf k.cmd.bytes) 1 1 % 2 = 1 := by omega
  have hlast : field (paramOf k.cmd.bytes) 1 1 / 2 % 2 = 0 := by omega
  simp [slotLoadVerb, slotPart, hfirst, hlast]

theorem slotLoadVerb_single {k : Ctx} (x : Hoop) (h : field (paramOf k.cmd.bytes) 1 1 % 4 = 3) : slotLoadVerb.run k x =
    slotLast (field (paramOf k.cmd.bytes) 0 1) ((slotPart k).2.2.2.map (fun d => descOf (leBytes 8 (BitVec.ofNat 64 d).toNat))) x := by
  have hfirst : field (paramOf k.cmd.bytes) 1 1 % 2 = 1 := by omega
  have hlast : field (paramOf k.cmd.bytes) 1 1 / 2 % 2 = 1 := by omega
  simp [slotLoadVerb, slotPart, hfirst, hlast, Function.comp_def]

/-! ## MASK slots and empty slots (R116, R117) -/

theorem slotMaskVerb_free {k : Ctx} {x : Hoop} (h : x.prk.referenced.contains (k.par 0 1) = false) : slotMaskVerb.run k x =
    ({ status := 0 }, x.updPrk (fun p => { p with
      slots := smSet {} p.slots (k.par 0 1) { kind := .mask, mask := BitVec.ofNat 512 (k.par 1 (x.n / 8)) } })) := if_neg (by rw [h]; decide)

theorem slotClearVerb_free {k : Ctx} {x : Hoop} (h : x.prk.referenced.contains (k.par 0 1) = false) : slotClearVerb.run k x =
    ({ status := 0 }, x.updPrk (fun p => { p with slots := smDel p.slots (k.par 0 1) })) := if_neg (by rw [h]; decide)

/-! ## List stores (R120) -/

/-- What PRK_LIST_WRITE makes of the store that it names: its entries, from the first index on. -/
def putEntries (k : Ctx) (m : SMap PEntry) : SMap PEntry :=
  (List.range (((paramOf k.cmd.bytes).length - 3) / 8)).foldl
    (fun m j => smSet emptyEntry m (k.par 1 2 + j) (entryOf (field (paramOf k.cmd.bytes) (3 + 8 * j) 8))) m

theorem putEntries_entry (k : Ctx) (m : SMap PEntry) {j : Nat} (h : j < ((paramOf k.cmd.bytes).length - 3) / 8) :
    smGet emptyEntry (putEntries k m) (k.par 1 2 + j) = entryOf (field (paramOf k.cmd.bytes) (3 + 8 * j) 8) :=
  foldl_reads (get := fun m => smGet emptyEntry m (k.par 1 2 + j)) (a := j) (fun _ => smGet_smSet_self ..)
    (fun _ _ _ hi => smGet_smSet_ne _ _ _ _ (by omega)) m (.inl (List.mem_range.mpr h))

/-- A write into a store that does not run. -/
theorem listWriteVerb_idle {k : Ctx} {x : Hoop} (h : x.prk.activeStore ≠ some (k.par 0 1 == 1)) : listWriteVerb.run k x =
    ({ status := 0 }, x.updPrk (fun p => if k.par 0 1 == 1 then { p with store1 := putEntries k p.store1 }
      else { p with store0 := putEntries k p.store0 })) :=
  if_neg (by simpa using h)

theorem listWriteVerb_store {k : Ctx} {x : Hoop} (h : x.prk.activeStore ≠ some (k.par 0 1 == 1)) :
    (listWriteVerb.run k x).2.prk.store (k.par 0 1 == 1) = putEntries k (x.prk.store (k.par 0 1 == 1)) := by
  rw [listWriteVerb_idle h]
  cases k.par 0 1 == 1 <;> rfl

theorem Prk.entry_of_calm {x y : Hoop} (h : x.calm = y.calm) : x.prk.entry = y.prk.entry := by
  have e := congrArg (fun z : Hoop => z.prk.entry) h; exact e

/-! ## The statement -/

theorem Hoop.updPrk_calm {x y : Hoop} (h : x.calm = y.calm) (hp : x.prk = y.prk) (f : Prk → Prk) : (x.updPrk f).calm = (y.updPrk f).calm := by
  rw [Hoop.updPrk, Hoop.updPrk, hp]
  exact congrArg (fun z : Hoop => ({ z with prk := (f y.prk).calm } : Hoop)) h

/-- A served command that changes the pricking unit alone, in a quiet module: what holds of the unit after its effect holds after the row. -/
theorem gives_serve_prk {i : Instr} {s : State} {h : HoopId} {r op : Nat} {c : ReadCmd} {v : Verb} {a : Ans} {f : Prk → Prk} {P : Hoop → Prop}
    (p : passes s h r op c v = true) (q : s.quiet = true) (hx : exec i s = .next (s.serve h r op v))
    (hrun : v.run (ctxOf s h r c) (breakRun r op (s.hoop h)) = (a, (breakRun r op (s.hoop h)).updPrk f))
    (hP : ∀ y : Hoop, y.prk = f (s.hoop h).prk → P y) : CompletesWith i s h P := by
  have hran : (ran s h r op c v).2 = (breakRun r op (s.hoop h)).updPrk f := congrArg Prod.snd hrun
  refine gives_serve_core p q hx (by rw [hran]; simp) (by rw [hran]; simp) (by rw [hran]; simp) fun y hy => hP y ?_
  rw [Hoop.prk_of_core hy, hran, Hoop.updPrk, breakRun_prk]

/-- Settles O20: each command's own effect on the pricking unit; a load and a list write are folds of writes under different keys, which all stand. -/
theorem prickingStores : Obligations.PrickingStores := by
  unfold Obligations.PrickingStores
  refine ⟨?first, ?single, ?mask, ?clear, ?list⟩
  case first =>
    intro s h c p hpart
    refine makes_serve p rfl ((congrArg (fun q : Ans × Hoop => q.2.calm) (slotLoadVerb_first (k := ctxOf s h 0 c) _ hpart)).trans ?_)
    exact Hoop.updPrk_calm (breakRun_calm ..) (breakRun_prk ..) _
  case single =>
    intro s h c ds q p hpart hds hok
    subst hds
    obtain ⟨y, t, hd, ht, hslot⟩ := slotLast_ok hok
    refine gives_serve_prk p q rfl ((slotLoadVerb_single _ hpart).trans hslot) fun z hz => ?_
    have hz : z.prk.slot (field (paramOf c.bytes) 0 1) = { kind := .pattern, threads := t } :=
      Prk.slot_of_set (congrArg Prk.slots hz)
    rw [hz]
    exact ⟨rfl, fun d hm => routeSlot_thread ht hd hm⟩
  case mask =>
    intro s h c q p hfree
    refine gives_serve_prk p q rfl (slotMaskVerb_free (by rwa [breakRun_prk])) fun y hy => ?_
    rw [Hoop.n, breakRun_part] at hy
    exact Prk.slot_of_set (congrArg Prk.slots hy)
  case clear =>
    intro s h c q p hfree
    refine gives_serve_prk p q rfl (slotClearVerb_free (by rwa [breakRun_prk])) fun y hy => ?_
    rw [hy]
    exact smGet_smDel_self ..
  case list =>
    intro s h c p hidle
    refine gives_serve p rfl fun y hy j hj => ?_
    rw [Prk.entry_of_calm hy, Prk.entry]
    refine (congrArg (smGet emptyEntry · _) (listWriteVerb_store (k := ctxOf s h 0 c) (by rwa [breakRun_prk]))).trans ?_
    exact putEntries_entry (ctxOf s h 0 c) _ hj

end Sys2Proof.Machine
end

section
/-!
SUPPORT. Two statements that some state does not meet, O21 and O22: each with the state, what the model makes of it, and the refutation.
-/

namespace Sys2Proof.Machine
open Sys2Proof

/-! ## O21: a start against a commit that the list leaves no place -/

/-- PRK_START of a list of one entry in store 0, with base 0 and without an end (R369). -/
def startCommand : Bytes :=
  [3, 0x14, 3, 0] ++ List.replicate 12 0 ++ leBytes 2 0x10 ++ leBytes 2 17 ++ [0] ++ leBytes 2 1 ++ List.replicate (14 + 11) 0

/-- The command as ring 0 holds it. -/
def startRead : ReadCmd := { bytes := startCommand, slot := 0, colour := .unmetered, refusal := none }

/-- Ring 0 holds the start of a list of one DARK entry, which runs without an end from its first boundary on, at 10 us. A CREATE with a code waits for
its epoch at 50 us, and the list has no OPEN entry in which it could load (R129). -/
def startBlocked : State := { State.reset with a := { State.reset.a with
  boot := { por := false, stage := .opened, fwRun := true }, pair := { role := .active, token := true }, ths := { commitOk := true }
  mbx := { rings := [(0, { ({} : Ring) with read := [startRead] })] }
  prk := { slots := [(1, { kind := .mask, mask := 3 })], store0 := [(0, { dwell := 10000, index := 1, type := 2, rsv := 0 })] }
  cm := { pending := [{ postedCreate with epochNs := 50000, epoch := 50000, stage := .waiting }] } } }

/-- The start is refused, since the CREATE stands against it (assumption 141). -/
theorem prkStart_startBlocked {t : State} (ht : exec (.prkStart .hoopA 0) startBlocked = .next t) : t.a.prk.active = none := by
  obtain rfl := Host.Outcome.next.inj ht
  decide +kernel

/-- Refutes O21: by its first clause a list that passes the checks of R120 is active, also where a pending commit could not load beside it. -/
theorem not_prickingCommands : ¬ Obligations.PrickingCommands := by
  unfold Obligations.PrickingCommands
  rintro ⟨hstart, -⟩
  obtain ⟨t, ht, l, hactive, -⟩ := hstart startBlocked .hoopA startRead (by decide +kernel) rfl (by decide +kernel) (by decide +kernel)
    (by decide +kernel)
  rw [State.hoop_a, prkStart_startBlocked ht] at hactive
  exact nomatch hactive

/-! ## O22: a list that is stopped before it begins -/

/-- A list of one OPEN entry of 10 us, which is to begin at 10 us. -/
def openList : PList where
  store := false
  len := 1
  baseNs := 0
  repeats := 0
  cycle := 10000
  startK := 1
  startAt := 10000
  short := 0
  firstShort := 0

/-- The first boundary of that list falls, and a stop has been set for it, as PRK_STOP sets it for a list whose start lies 6 us ahead or more (R124). -/
def stoppedAtStart : State := { State.reset with a := { State.reset.a with
  tb := { acc := 10000 * 2 ^ 32, cmps := [(6, { t16 := 10000 * 16, armed := true })] }
  prk := {
    store0 := [(0, { dwell := 10000, index := 0, type := 1, rsv := 0 })], active := some openList
    stopAt := some openList.startAt, nextEpoch := openList.startAt } } }

/-- The list ends there and never begins. -/
theorem prickingCycleBoundary_stoppedAtStart {t : State} (ht : exec (.prickingCycleBoundary .hoopA) stoppedAtStart = .next t) :
    t.a.prk.active = none := by
  obtain rfl := Host.Outcome.next.inj ht
  decide +kernel

/-- Refutes O22: by its first clause the first boundary begins the list, also where a stop has been set for that very boundary. -/
theorem not_prickingEvents : ¬ Obligations.PrickingEvents := by
  unfold Obligations.PrickingEvents
  rintro ⟨hbegin, -⟩
  obtain ⟨t, ht, -, hactive, -⟩ := hbegin stoppedAtStart .hoopA _ openList ⟨rfl, rfl⟩ (by decide +kernel) rfl rfl
  rw [State.hoop_a, prickingCycleBoundary_stoppedAtStart ht] at hactive
  exact nomatch hactive

end Sys2Proof.Machine
end

section
/-!
SUPPORT. A statement that some state does not meet, O38: the state, what the model makes of it, and the refutation.
-/

namespace Sys2Proof.Machine
open Sys2Proof

/-! ## O38: a stop at DISPATCH beside a saved operation -/

/-- A RESTORE_IDLE that the patch ran gave way at a knot to an EYELET_DARK (R151). The darks are served, and before the saved operation goes on source 16
asks for a stop (R155). -/
def stopBesideSaved : State := { State.reset with a := { State.reset.a with
  tmb := {
    st := .idle, stopReq := some 16, normal := [{ code := 3 }], savedN := some { op := { code := 3 }, pc := 0xF10 }, overrides := [(3, 0x80000010)] } } }

/-- Tambour takes no operation there: the saved one goes before the normal queue (R151). -/
theorem nextOp_stopBesideSaved : nextOp stopBesideSaved.a = none := by decide +kernel

/-- The stop sets PRE_VALID, bit 18 of TMB_ABORT_CTX, since a save slot holds an operation (R156). -/
theorem tambourStop_stopBesideSaved {t : State} (ht : exec (.tambourStop .hoopA 0 0 0) stopBesideSaved = .next t) :
    t.a.tmb.abortCtx.getLsbD 18 = true := by
  obtain rfl := Host.Outcome.next.inj ht
  decide +kernel

/-- Refutes O38: its first clause gives TMB_ABORT_CTX of a stop with no operation to take as IDLE, the source and the address alone, but beside a saved
operation PRE_VALID is set as well. -/
theorem not_tambourStops : ¬ Obligations.TambourStops := by
  unfold Obligations.TambourStops
  rintro ⟨hstop, -⟩
  obtain ⟨t, ht, -, -, -, -, -, -, hidle⟩ := hstop stopBesideSaved .hoopA _ 16 0 0 0 ⟨rfl, rfl⟩ rfl rfl
  obtain ⟨-, hctx⟩ := hidle nextOp_stopBesideSaved
  have hpre := tambourStop_stopBesideSaved ht
  rw [State.hoop_a] at hctx
  rw [hctx] at hpre
  exact absurd hpre (by decide)

end Sys2Proof.Machine
end

section
/-!
SUPPORT. The heaters and the dither tones (R166, R170 to R173, R175) and the statement O54.
-/

namespace Sys2Proof.Machine
open Sys2Proof

/-! ## What `settle` leaves of the drive arrays -/

theorem Hoop.drvCalm_of_calm {x y : Hoop} (h : x.calm = y.calm) : x.drv.calm = y.drv.calm := by
  have e := congrArg Hoop.drv h; exact e

/-- What does not look at the parts of the drive arrays that calm leaves out reads the same in hoops that agree when calm. -/
theorem Hoop.drvView_of_calm {γ : Type} (p : Drv → γ) (hp : ∀ d, p d.calm = p d) {x y : Hoop} (h : x.calm = y.calm) : p x.drv = p y.drv :=
  (hp _).symm.trans ((congrArg p (Hoop.drvCalm_of_calm h)).trans (hp _))

theorem Hoop.heater_of_calm {x y : Hoop} (h : x.calm = y.calm) (e : Nat) : x.heater e = y.heater e :=
  Hoop.drvView_of_calm (fun d => smGet ({} : Heater) d.heaters e) (fun _ => rfl) h

theorem Hoop.elem_of_calm {x y : Hoop} (h : x.calm = y.calm) (e : Nat) : x.elem e = y.elem e :=
  Hoop.drvView_of_calm (fun d => smGet ({} : Elem) d.elems e) (fun _ => rfl) h

theorem Hoop.tone_of_calm {x y : Hoop} (h : x.calm = y.calm) (k : Nat) : x.tone k = y.tone k :=
  Hoop.drvView_of_calm (fun d => smGet ({} : Tone) d.tones k) (fun _ => rfl) h

theorem Hoop.rangeChg_of_calm {x y : Hoop} (h : x.calm = y.calm) : x.drv.rangeChg = y.drv.rangeChg :=
  Hoop.drvView_of_calm Drv.rangeChg (fun _ => rfl) h

theorem Hoop.compl_of_calm {x y : Hoop} (h : x.calm = y.calm) : x.drv.complCnt = y.drv.complCnt ∧ x.drv.complLast = y.drv.complLast :=
  ⟨Hoop.drvView_of_calm Drv.complCnt (fun _ => rfl) h, Hoop.drvView_of_calm Drv.complLast (fun _ => rfl) h⟩

theorem Hoop.hSum_of_calm {x y : Hoop} (h : x.calm = y.calm) : x.drv.hSum = y.drv.hSum := Hoop.drvView_of_calm Drv.hSum (fun _ => rfl) h

theorem overCeil_of_calm {x y : Hoop} (h : x.calm = y.calm) : overCeil x = overCeil y :=
  Hoop.drvView_of_calm (fun d => decide (102 * d.hCeil.toNat < 100 * d.hSum)) (fun _ => rfl) h

theorem Hoop.tile_of_tiles {x y : Hoop} (h : x.drv.tiles = y.drv.tiles) (t : Nat) : x.tile t = y.tile t := congrArg (smGet ({} : Tile) · t) h

/-! ## A heater moves (R171, R172) -/

@[simp] theorem Hoop.updHeater_heater_self (x : Hoop) (e : Nat) (f : Heater → Heater) : (x.updHeater e f).heater e = f (x.heater e) := smGet_smSet_self ..

theorem Hoop.updHeater_heater_ne (x : Hoop) {e j : Nat} (f : Heater → Heater) (h : j ≠ e) : (x.updHeater e f).heater j = x.heater j := smGet_smSet_ne _ _ _ _ h

theorem setOut_heater_self (e : Nat) (c : BitVec 12) (x : Hoop) : (setOut e c x).heater e = { x.heater e with
    out := c, track := (x.heater e).track || majorH (x.heater e).out c,
    reached := (x.heater e).reached || (c == (x.heater e).tgt && (x.heater e).range == (x.heater e).tgtRange) } := by
  rw [setOut, Hoop.updHeater_heater_self]

theorem setOut_heater_ne {e j : Nat} (c : BitVec 12) (x : Hoop) (h : j ≠ e) : (setOut e c x).heater j = x.heater j := x.updHeater_heater_ne _ h

theorem holdHeater_heater_ne {e j : Nat} (x : Hoop) (h : j ≠ e) : (holdHeater e x).heater j = x.heater j := x.updHeater_heater_ne _ h

/-- A move is none, one to a code, or a hold with or without one: what these keep, a move keeps. -/
theorem moveHeater_keeps {γ : Type} (p : Hoop → γ) (e : Nat) (hout : ∀ c y, p (setOut e c y) = p y) (hhold : ∀ y, p (holdHeater e y) = p y) (x : Hoop) :
    p (moveHeater e x) = p x := by
  unfold moveHeater
  extract_lets v slew
  split
  · rfl
  · split
    · split
      · rfl
      · exact hout ..
    · split
      · split
        · rfl
        · exact (hhold _).trans (hout ..)
      · exact hhold _

theorem moveHeater_heater_ne {e j : Nat} (x : Hoop) (h : j ≠ e) : (moveHeater e x).heater j = x.heater j :=
  moveHeater_keeps (·.heater j) e (fun c y => setOut_heater_ne c y h) (fun y => holdHeater_heater_ne y h) x

theorem moveHeater_tiles (e : Nat) (x : Hoop) : (moveHeater e x).drv.tiles = x.drv.tiles :=
  moveHeater_keeps (·.drv.tiles) e (fun _ _ => rfl) (fun _ => rfl) x

theorem moveHeater_rangeChg (e : Nat) (x : Hoop) : (moveHeater e x).drv.rangeChg = x.drv.rangeChg :=
  moveHeater_keeps (·.drv.rangeChg) e (fun _ _ => rfl) (fun _ => rfl) x

theorem moveHeater_inRange {e : Nat} {x : Hoop} (hh : (x.heater e).hold = false) (hr : (x.heater e).range = (x.heater e).tgtRange) :
    moveHeater e x = if (x.tile (e / 32)).hSlew && (x.heater e).out != (x.heater e).tgt then x else setOut e (x.heater e).tgt x :=
  (if_neg (by rw [hh]; decide)).trans (if_pos hr)

/-- A heater in the range of its target stays there; in SLEW mode its code waits for the next step, else it is the target's. -/
theorem moveHeater_heater_inRange {e : Nat} {x : Hoop} (hh : (x.heater e).hold = false) (hr : (x.heater e).range = (x.heater e).tgtRange) :
    ((moveHeater e x).heater e).out = (if (x.tile (e / 32)).hSlew then (x.heater e).out else (x.heater e).tgt) ∧
    ((moveHeater e x).heater e).range = (x.heater e).range ∧ ((moveHeater e x).heater e).hold = false := by
  rw [moveHeater_inRange hh hr]
  split
  next hwait =>
    obtain ⟨hslew, -⟩ := Bool.and_eq_true_iff.mp hwait
    exact ⟨by rw [if_pos hslew], rfl, hh⟩
  next hgo =>
    rw [setOut_heater_self]
    refine ⟨?_, rfl, hh⟩
    split
    next hslew =>
      have hthere : (x.heater e).out = (x.heater e).tgt := by simpa [hslew] using hgo
      exact hthere.symm
    · rfl

/-! ## A slew step (R164, R166) -/

/-- One step of `step` from `o` toward `goal`, not past it. -/
def stepToward (step goal o : Nat) : Nat := if o < goal then min goal (o + step) else max goal (o - step)

theorem stepToward_le (step : Nat) {goal o m : Nat} (hg : goal ≤ m) (ho : o ≤ m) : stepToward step goal o ≤ m := by
  unfold stepToward
  split <;> omega

theorem slewHeater_heater_ne {step e j : Nat} (x : Hoop) (h : j ≠ e) : (slewHeater step x e).heater j = x.heater j := by
  unfold slewHeater
  extract_lets v goal o n
  split
  · rfl
  · exact (moveHeater_heater_ne _ h).trans (setOut_heater_ne _ x h)

theorem slewHeater_tiles (step : Nat) (x : Hoop) (e : Nat) : (slewHeater step x e).drv.tiles = x.drv.tiles := by
  unfold slewHeater
  extract_lets v goal o n
  split
  · rfl
  · exact moveHeater_tiles ..

theorem slewHeater_inRange {step e : Nat} {x : Hoop} (hh : (x.heater e).hold = false) (hr : (x.heater e).range = (x.heater e).tgtRange) :
    slewHeater step x e = moveHeater e (setOut e (BitVec.ofNat 12 (stepToward step (x.heater e).tgt.toNat (x.heater e).out.toNat)) x) := by
  unfold slewHeater stepToward
  simp only [hh, if_pos hr, Bool.false_eq_true, if_false]

theorem slewHeater_out {step e : Nat} {x : Hoop} (hs : (x.tile (e / 32)).hSlew = true) (hh : (x.heater e).hold = false)
    (hr : (x.heater e).range = (x.heater e).tgtRange) :
    ((slewHeater step x e).heater e).out.toNat = stepToward step (x.heater e).tgt.toNat (x.heater e).out.toNat := by
  have hle : stepToward step (x.heater e).tgt.toNat (x.heater e).out.toNat ≤ 4095 :=
    stepToward_le step (Nat.le_of_lt_succ (x.heater e).tgt.isLt) (Nat.le_of_lt_succ (x.heater e).out.isLt)
  have hv := setOut_heater_self e (BitVec.ofNat 12 (stepToward step (x.heater e).tgt.toNat (x.heater e).out.toNat)) x
  obtain ⟨hout, -⟩ := moveHeater_heater_inRange (by rw [hv]; exact hh) (by rw [hv]; exact hr)
  rw [slewHeater_inRange hh hr, hout.trans (if_pos hs), hv]
  exact Nat.mod_eq_of_lt (Nat.lt_succ_of_le hle)

theorem foldl_slewHeater_notMem {step e : Nat} {l : List Nat} (x : Hoop) (h : e ∉ l) : (l.foldl (slewHeater step) x).heater e = x.heater e := by
  induction l generalizing x with
  | nil => rfl
  | cons j l ih =>
    obtain ⟨hj, hl⟩ := not_or.mp fun hm => h (List.mem_cons.mpr hm)
    exact (ih _ hl).trans (slewHeater_heater_ne x hj)

theorem tileElems_nodup (t : Nat) : (tileElems t).Nodup := List.nodup_range.map fun i j h => by simpa using h

/-- Each heater of a tile in SLEW mode takes one step, whatever the other heaters of the tile do. -/
theorem foldl_slewHeater_out {step t e : Nat} {x : Hoop} (he : e ∈ tileElems t) (hs : (x.tile t).hSlew = true) (hh : (x.heater e).hold = false)
    (hr : (x.heater e).range = (x.heater e).tgtRange) :
    (((tileElems t).foldl (slewHeater step) x).heater e).out.toNat = stepToward step (x.heater e).tgt.toNat (x.heater e).out.toNat := by
  obtain ⟨before, after, hl⟩ := List.append_of_mem he
  have hd := tileElems_nodup t
  rw [hl] at hd
  obtain ⟨hb, ha⟩ : e ∉ before ∧ e ∉ after := by
    rw [List.nodup_middle, List.nodup_cons, List.mem_append, not_or] at hd
    exact hd.1
  rw [hl, List.foldl_append, List.foldl_cons, foldl_slewHeater_notMem _ ha]
  have hz := foldl_slewHeater_notMem (step := step) x hb
  have ht := Hoop.tile_of_tiles (foldl_keeps (·.drv.tiles) _ (slewHeater_tiles step) before x) t
  rw [← hz] at hh hr ⊢
  exact slewHeater_out (by rw [mem_tileElems.mp he, ht, hs]) hh hr

theorem gentleEnd_heater (t e : Nat) (x : Hoop) : (gentleEnd t x).heater e = x.heater e := by
  unfold gentleEnd
  split <;> rfl

theorem heaterStep_slew {t : Nat} {x : Hoop} (hs : (x.tile t).hSlew = true) (ht : t < x.nT) :
    heaterStep t x = gentleEnd t ((tileElems t).foldl (slewHeater (x.tile t).hStep.toNat) x) :=
  if_pos (by rw [hs, decide_eq_true ht]; rfl)

/-! ## The end of a range hold (R172) -/

/-- The code of the other range, of the same current but for its rounding. -/
def Heater.converted (v : Heater) : BitVec 12 := BitVec.ofNat 12 (if v.range then min 4095 (4 * v.out.toNat) else (v.out.toNat + 2) / 4)

/-- The heater at the end of its hold: in the other range, its output free again. -/
def Heater.switched (v : Heater) : Heater := { v with range := !v.range, out := v.converted, hold := false, track := false }

/-- The source switches its range and is counted. -/
def switchRange (e : Nat) (x : Hoop) : Hoop :=
  let y := x.updHeater e Heater.switched
  { y with drv := { y.drv with rangeChg := satInc y.drv.rangeChg } }

theorem switchRange_heater (e : Nat) (x : Hoop) : (switchRange e x).heater e = (x.heater e).switched := x.updHeater_heater_self e _

/-- At the end of a hold the source switches, and the heater moves on toward its target. -/
theorem rangeEnd_hold {e : Nat} {x : Hoop} (h : (x.heater e).hold = true) : ∃ z, rangeEnd e x = moveHeater e z ∧ z.drv = (switchRange e x).drv :=
  ⟨_, if_neg (by rw [h]; decide), Hoop.drv_of_core ((jnlPut_core ..).trans (pmcRaw_core ..))⟩

/-- Where the target asks for the other range, the end of the hold gives it. -/
theorem rangeEnd_heater {e : Nat} {x : Hoop} (hh : (x.heater e).hold = true) (hr : (x.heater e).range ≠ (x.heater e).tgtRange) :
    ((rangeEnd e x).heater e).out = (if (x.tile (e / 32)).hSlew then (x.heater e).converted else (x.heater e).tgt) ∧
    ((rangeEnd e x).heater e).range = (x.heater e).tgtRange ∧ ((rangeEnd e x).heater e).hold = false ∧
    (rangeEnd e x).drv.rangeChg = satInc x.drv.rangeChg := by
  obtain ⟨z, hz, hd⟩ := rangeEnd_hold hh
  have hv : z.heater e = _ := (congrArg (fun d : Drv => smGet ({} : Heater) d.heaters e) hd).trans (switchRange_heater e x)
  have ht : (z.tile (e / 32)).hSlew = (x.tile (e / 32)).hSlew := congrArg Tile.hSlew (Hoop.tile_of_tiles (congrArg Drv.tiles hd) _)
  have hnew : (!(x.heater e).range) = (x.heater e).tgtRange := Bool.not_eq_eq_eq_not.mpr (Bool.eq_not.mpr hr)
  obtain ⟨hout, hrange, hhold⟩ := moveHeater_heater_inRange (e := e) (x := z) (by rw [hv]; rfl) (by rw [hv]; exact hnew)
  rw [hv] at hout hrange
  rw [ht] at hout
  rw [hz, moveHeater_rangeChg, hd]
  exact ⟨hout, hrange.trans hnew, hhold, rfl⟩

/-! ## A compliance failure (R170) -/

theorem State.upd_upd (s : State) (h : HoopId) (f g : Hoop → Hoop) : (s.upd h f).upd h g = s.upd h (fun x => g (f x)) := by
  cases h with
  | hoopA => rfl
  | hoopB =>
    unfold State.upd
    by_cases hb : s.has .hoopB = true
    · rw [if_pos hb, if_pos hb]
      exact if_pos hb
    · rw [if_neg hb, if_neg hb, if_neg hb]

/-- The failure is marked at the heater, counted, and named as the last one. -/
def noteCompl (e : Nat) (x : Hoop) : Hoop :=
  let y := x.updHeater e (fun v => { v with compl := true })
  { y with drv := { y.drv with complCnt := satInc y.drv.complCnt, complLast := BitVec.ofNat 13 e }
           pair := { y.pair with heatersBad := y.pair.heatersBad || y.pair.proving } }

theorem noteCompl_heater (e : Nat) (x : Hoop) : ((noteCompl e x).heater e).compl = true :=
  congrArg Heater.compl (x.updHeater_heater_self e (fun v => { v with compl := true }))

/-- Outside the proving period a failure is noted and then does what R170 says. -/
theorem complFail_upd {h : HoopId} {e : Nat} {s : State} (hout : ((s.hoop h).heater e).out ≠ 0) (he : e < (s.hoop h).nE)
    (hp : (s.hoop h).pair.proving = false) : complFail h e s = s.upd h (fun x => heaterFail e (noteCompl e x)) := by
  have hfail : ¬ (((s.hoop h).heater e).out = 0 ∨ (s.hoop h).nE ≤ e) := not_or.mpr ⟨hout, Nat.not_le.mpr he⟩
  refine (if_neg hfail).trans ((if_neg ?_).trans (State.upd_upd ..))
  rw [hp, Bool.false_and, Bool.false_and]
  decide

theorem execHeaterComplianceFail_eq {h : HoopId} {e : Nat} {s : State} (hs : s.has h = true) (hout : ((s.hoop h).heater e).out ≠ 0)
    (he : e < (s.hoop h).nE) (hp : (s.hoop h).pair.proving = false) :
    exec (.heaterComplianceFail h e) s = .next (s.act h fun x => heaterFail e (noteCompl e x)) := by
  refine congrArg (fun t => Host.Outcome.next (settle t)) ((if_pos hs).trans ?_)
  exact complFail_upd hout he hp

theorem heaterFail_stitch {e : Nat} {x : Hoop} (h : e < x.nS) : heaterFail e x = fault 36 e (x.updElem e (fun v => { v with unusable := true })) := if_pos h

theorem heaterFail_eyelet {e : Nat} {x : Hoop} (h : ¬ e < x.nS) : heaterFail e x = fault 37 e x := if_neg h

/-- A failure leaves the heater and its counts as they were noted. -/
theorem heaterFail_noted (e : Nat) (x : Hoop) : (heaterFail e x).heater e = x.heater e ∧ (heaterFail e x).drv.complCnt = x.drv.complCnt ∧
    (heaterFail e x).drv.complLast = x.drv.complLast := by
  have hfault (k : Nat) (y : Hoop) : (fault k e y).heater e = y.heater e ∧ (fault k e y).drv.complCnt = y.drv.complCnt ∧
      (fault k e y).drv.complLast = y.drv.complLast := ⟨Hoop.heater_of_calm (fault_calm ..) e, Hoop.compl_of_calm (fault_calm ..)⟩
  by_cases h : e < x.nS
  · rw [heaterFail_stitch h]
    exact hfault 36 _
  · rw [heaterFail_eyelet h]
    exact hfault 37 x

/-! ## The sum (R173) -/

/-- The sum of the converted currents, in microamperes. -/
def heaterSum (x : Hoop) : Nat := ((x.drv.heaters.map (fun e => heaterConv x e.1 * (if e.2.range then 8000 else 2000))).sum) / 4096

def takeSum (x : Hoop) : Hoop := { x with drv := { x.drv with hSum := heaterSum x } }

theorem sumUpdate_eq (x : Hoop) : sumUpdate x = if overCeil (takeSum x) then takeSum x else faultOff 38 (takeSum x) := rfl

theorem sumUpdate_calm (x : Hoop) : (sumUpdate x).calm = (takeSum x).calm := by
  rw [sumUpdate_eq]
  split
  · rfl
  · exact faultOff_calm ..

/-! ## The tones (R175) -/

/-- A tone one tick later. -/
def Tone.ticked (t : Tone) : Tone := if t.en then { t with acc := t.acc + t.ftw } else t

theorem phaseTick_tones (x : Hoop) : (phaseTick x).drv.tones = x.drv.tones.map (fun t => (t.1, t.2.ticked)) := by
  unfold phaseTick
  refine (foldl_keeps (fun y : Hoop => y.drv.tones) _ ?_ _ _).trans rfl
  exact fun _ _ => rfl

theorem phaseTick_tone (x : Hoop) (k : Nat) : (phaseTick x).tone k = (x.tone k).ticked := by
  rw [Hoop.tone, phaseTick_tones]
  exact smGet_map Tone.ticked rfl x.drv.tones k

theorem Tone.ticked_eq (t : Tone) : t.ticked = { t with acc := if t.en then t.acc + t.ftw else t.acc } := by
  unfold Tone.ticked
  split <;> rfl

/-! ## The statement -/

/-- Settles O54: each row's operation on the drive arrays, read through what `settle` leaves of them, with sources 36 to 38 of the fault collector. -/
theorem heaterRows : Obligations.HeaterRows := by
  unfold Obligations.HeaterRows
  refine ⟨?slew, ?hold, ?compliance, ?excess, ?sum, ?tones⟩
  case slew =>
    intro s h x t e hx hslew ht he hhold hrange
    refine gives_act (heaterStep t) hx rfl fun y hy => ?_
    rw [Hoop.heater_of_calm hy, heaterStep_slew hslew ht, gentleEnd_heater]
    exact foldl_slewHeater_out he hslew hhold hrange
  case hold =>
    intro s h x e conv hx hhold hrange hconv
    refine gives_act (rangeEnd e) hx rfl fun y hy => ?_
    obtain ⟨hout, hnew, hfree, hcnt⟩ := rangeEnd_heater hhold hrange
    rw [Hoop.heater_of_calm hy, Hoop.rangeChg_of_calm hy]
    exact ⟨hnew, hfree, hconv ▸ hout, hcnt⟩
  case compliance =>
    intro s h x e hx hout he hp
    obtain ⟨hs, rfl⟩ := hx
    refine gives_act_lines _ ⟨hs, rfl⟩ (execHeaterComplianceFail_eq hs hout he hp) fun y hy hl => ?_
    obtain ⟨hheater, hcnt, hlast⟩ := heaterFail_noted e (noteCompl e (s.hoop h))
    obtain ⟨hcnt', hlast'⟩ := Hoop.compl_of_calm hy
    refine ⟨?_, hcnt'.trans hcnt, hlast'.trans hlast, ?_⟩
    · rw [Hoop.heater_of_calm hy, hheater, noteCompl_heater]
    · split
      next hstitch =>
        rw [heaterFail_stitch (x := noteCompl e _) hstitch] at hy hl
        rw [Hoop.elem_of_calm (hy.trans (fault_calm ..)), Hoop.updElem_elem_self, Hoop.src_of_lines hl]
        exact ⟨rfl, fault_live _ rfl⟩
      next heyelet =>
        rw [heaterFail_eyelet (x := noteCompl e _) heyelet] at hl
        rw [Hoop.src_of_lines hl]
        exact fault_live _ rfl
  case excess =>
    intro s h x hx hover
    refine gives_lines (fun x => if overCeil x then fault 38 noDet x else x) hx rfl fun y hl => ?_
    rw [if_pos hover] at hl
    rw [Hoop.src_of_lines hl]
    exact fault_live _ rfl
  case sum =>
    intro s h x hx
    refine gives_act_lines sumUpdate hx rfl fun y hy hl => ?_
    have hsum := hy.trans (sumUpdate_calm x)
    refine ⟨Hoop.hSum_of_calm hsum, fun hunder hagree => ?_⟩
    rw [overCeil_of_calm hsum] at hunder
    rw [sumUpdate_eq, hunder, if_neg Bool.false_ne_true] at hl
    rw [Hoop.src_of_lines hl]
    exact faultOff_not_live hagree
  case tones =>
    intro s h x k hx
    refine gives_act phaseTick hx rfl fun y hy => ?_
    rw [Hoop.tone_of_calm hy, phaseTick_tone, Tone.ticked_eq]

end Sys2Proof.Machine
end

section
/-!
SUPPORT. Calibration rounds: the start of a round, the steps of a channel, the turns of the roaming spares (R200, R201, R204), and the statement O30.
-/

namespace Sys2Proof.Machine
open Sys2Proof

/-! ## Spares (R204) -/

theorem setSpare_zero_mon (g : Nat) (perm : Bool) (x : Hoop) :
    (setSpare 0 g perm x).mon = { x.mon with spare0 := BitVec.ofNat 6 g, spare0Perm := perm } := raiseEv_mon ..

theorem setSpare_zero_group (g : Nat) (perm : Bool) (x : Hoop) (j : Nat) : (setSpare 0 g perm x).group j = x.group j :=
  (Hoop.group_of_mon (raiseEv_mon ..) j).trans rfl

/-- A spare that is not permanently assigned and finds no group waiting serves none. -/
theorem adcTurn_zero_nil {x : Hoop} (hp : x.mon.spare0Perm = false) (hw : x.mon.adcCal = []) : adcTurn 0 x = setSpare 0 0x3F false x := by
  simp [adcTurn, hp, hw]

/-- The first group that waits has the spare next. -/
theorem adcTurn_zero_cons {x : Hoop} {g : Nat} {gs : List Nat} (hp : x.mon.spare0Perm = false) (hw : x.mon.adcCal = g :: gs) :
    adcTurn 0 x = setSpare 0 g false (({ x with mon := { x.mon with adcCal := gs } } : Hoop).updGroup g fun v => { v with spareAdc := true }) := by
  simp [adcTurn, hp, hw]

/-- A self-calibration that passes takes the spare from its group and gives it its next turn. -/
theorem adcCalEnd_passes {x : Hoop} {g mid : Nat} (hs : x.mon.spare0.toNat = g) (hp : x.mon.spare0Perm = false)
    (hmid : ((mid : Int) - 32768).natAbs ≤ 16) : adcCalEnd g mid x = adcTurn 0 (x.updGroup g fun v => { v with spareAdc := false }) := by
  have hpass : ¬ 16 < ((mid : Int) - 32768).natAbs := Nat.not_lt.mpr hmid
  simp [adcCalEnd, hs, hp, hpass]

/-! ## The start of a round (R200) -/

/-- What says which channels can be calibrated, and what a round notes of its start. -/
structure Roll where
  part : Part
  chans : SMap Chan
  lost : Nat → Bool
  run : Bool
  start : Nat
  failed : BitVec 16

def Hoop.roll (x : Hoop) : Roll where
  part := x.part
  chans := x.mon.chans
  lost := fun g => (x.group g).lost
  run := x.mon.calRun
  start := x.mon.calStart
  failed := x.mon.calFailed

theorem Hoop.roll_of_calm {x y : Hoop} (h : x.calm = y.calm) : x.roll = y.roll := by
  simp only [Hoop.roll, Hoop.group, Hoop.mon_of_calm h, Hoop.part_of_calm h]

/-- A group that is changed and not lost by it. -/
theorem Hoop.updGroup_roll {x : Hoop} {g : Nat} {f : Group → Group} (h : (f (x.group g)).lost = (x.group g).lost) : (x.updGroup g f).roll = x.roll := by
  have hl : (fun j => ((x.updGroup g f).group j).lost) = fun j => (x.group j).lost := by
    funext j
    by_cases hj : j = g
    · subst hj
      rw [Hoop.updGroup_group_self, h]
    · rw [Hoop.updGroup_group_ne x f hj]
  exact congrArg (fun l => { x.roll with lost := l }) hl

theorem setSpare_roll (k g : Nat) (perm : Bool) (x : Hoop) : (setSpare k g perm x).roll = x.roll := by
  refine (Hoop.roll_of_calm (raiseEv_calm ..)).trans ?_
  split <;> rfl

theorem adcTurn_roll (k : Nat) (x : Hoop) : (adcTurn k x).roll = x.roll := by
  unfold adcTurn
  extract_lets perm
  split
  · rfl
  · split
    · exact (setSpare_roll ..).trans (Hoop.updGroup_roll rfl)
    · exact setSpare_roll ..

theorem adcFirst_roll (k : Nat) (x : Hoop) : (adcFirst k x).roll = x.roll := by
  simp only [adcFirst, apply_ite Hoop.roll, adcTurn_roll, ite_self]

theorem markBlocked_roll (noSpare : Bool) (x : Hoop) : (markBlocked noSpare x).roll = x.roll := by
  refine foldl_keeps Hoop.roll _ (fun y g => ?_) _ x
  extract_lets b z
  refine (Hoop.updGroup_roll rfl).trans ?_
  simp only [z]
  split
  · exact Hoop.roll_of_calm (raiseEv_calm ..)
  · rfl

theorem calNext_of_roll {x y : Hoop} (h : x.roll = y.roll) (k : Nat) : calNext x k = calNext y k := by
  have hpart : x.part = y.part := congrArg Roll.part h
  have hchans : x.mon.chans = y.mon.chans := congrArg Roll.chans h
  have hlost g : (x.group g).lost = (y.group g).lost := congrArg (fun r => Roll.lost r g) h
  have hconv c : converts x c = converts y c := by simp only [converts, Hoop.chan, hpart, hchans, hlost]
  simp only [calNext, calCount, Hoop.nG, hpart, hconv]

/-- A round that starts, before its first channel. -/
def Hoop.opened (x : Hoop) : Hoop :=
  { x with mon := { x.mon with
    calRun := true, calFailed := 0, calStart := x.now, calIMissing := false, calPaused := !nearSetpoint x
    adcCal := (List.range x.nG).filter (fun g => !(x.group g).lost && !(x.group g).spareAdc) } }

/-- Groups that are blocked are marked, and the spares take their first groups. -/
def readied (x : Hoop) : Hoop :=
  let y := markBlocked (x.mon.spare0Perm && x.mon.spare1Perm) (faultOff 111 x)
  if y.mon.spare0Perm && y.mon.spare1Perm then fault 109 noDet { y with mon := { y.mon with adcCal := [] } } else adcFirst 1 (adcFirst 0 y)

/-- Event 175 of a round that starts paused. -/
def notePause (x : Hoop) : Hoop := if x.mon.calPaused then raiseEv 175 [(calNext x 0).getD 0x1FFF, latticeOffset x] .hoop x else x

theorem readied_roll (x : Hoop) : (readied x).roll = x.roll := by
  unfold readied
  extract_lets y
  have hy : y.roll = x.roll := (markBlocked_roll ..).trans (Hoop.roll_of_calm (faultOff_calm ..))
  split
  · exact (Hoop.roll_of_calm (fault_calm ..)).trans (.trans rfl hy)
  · exact (adcFirst_roll ..).trans ((adcFirst_roll ..).trans hy)

theorem notePause_roll (x : Hoop) : (notePause x).roll = x.roll := by
  unfold notePause
  split
  · exact Hoop.roll_of_calm (raiseEv_calm ..)
  · rfl

/-- A round that is due and not deferred begins with the channel that comes first in it. -/
theorem calRoundStart_due {x : Hoop} (he : x.mon.calEn = true) (hr : x.mon.calRun = false)
    (hi : x.mon.calEnd + x.mon.calInterval.toNat * 1000000000 ≤ x.now) (hd : (x.mayDefer && historyFirst x && x.wlm.telDeferred) = false) :
    calRoundStart x = calBegin (calNext x 0) false (notePause (readied x.opened)) := by
  have hdue : ¬ (!x.mon.calEn || x.mon.calRun || decide (x.now < x.mon.calEnd + x.mon.calInterval.toNat * 1000000000)) = true := by
    simp [he, hr, hi]
  have hnext : calNext (readied x.opened) 0 = calNext x 0 := (calNext_of_roll (readied_roll _) 0).trans rfl
  rw [← hnext]
  unfold calRoundStart
  rw [if_neg hdue, hd]
  rfl

/-- A channel begins with its first zero (R201), and the round's notes stand. -/
theorem calBegin_some (c : Nat) (retry : Bool) (x : Hoop) : (calBegin (some c) retry x).mon.calRun = x.mon.calRun ∧
    (calBegin (some c) retry x).mon.calStart = x.mon.calStart ∧ (calBegin (some c) retry x).mon.calFailed = x.mon.calFailed ∧
    ∃ q, (calBegin (some c) retry x).mon.cal = some q ∧ q.chan = c ∧ q.ph = .zero0 ∧ q.avgs = [] ∧ q.hold = false := by
  unfold calBegin
  dsimp only
  refine ⟨?_, ?_, ?_, _, rfl, rfl, rfl, rfl, rfl⟩ <;> split <;> rfl

/-! ## The steps of a channel (R201) -/

/-- A measurement's average is noted, and the next one selected. -/
def calGo (q : Cal) (avg : Nat) (ph : CalPh) (sel : BitVec 2) (x : Hoop) : Hoop :=
  { x with mon := { x.mon with cal := some { q with ph := ph, avgs := q.avgs ++ [avg] }, calSel := sel } }

theorem calGo_chan (q : Cal) (avg : Nat) (ph : CalPh) (sel : BitVec 2) (x : Hoop) (c : Nat) : (calGo q avg ph sel x).chan c = x.chan c := rfl

section
variable {x : Hoop} {q : Cal} (hq : x.mon.cal = some q) (hp : x.mon.calPaused = false) (hh : q.hold = false)
include hq hp hh

theorem calStep_zero1 (avg : Nat) (ph : q.ph = .zero1) : calStep avg x = calGo q avg .zero2 0 x := by
  simp [calStep, hq, hp, hh, ph, calGo]

theorem calStep_lvl0 (avg : Nat) (ph : q.ph = .lvl0) : calStep avg x = calGo q avg .lvl1 2 x := by
  simp [calStep, hq, hp, hh, ph, calGo]

/-- The third zero sets the offset trims where all of them fit. -/
theorem calStep_zero2 {avg : Nat} (ph : q.ph = .zero2) (ht : ((q.avgs ++ [avg]).map (ofsTrim x)).all trimOk = true) :
    calStep avg x = calGo q avg .lvl0 1 (x.updChan q.chan fun v => { v with ofs := ((q.avgs ++ [avg]).map (ofsTrim x)).map (BitVec.ofInt 8) }) := by
  simp only [calStep, hq, hp, hh, ph, ht, calGo]
  rfl

end

/-- After a step in whose place no trims are compared, the row is the step's alone. -/
theorem exec_calStep {h : HoopId} {avg : Nat} {s : State} {q : Cal} (hq : (s.hoop h).mon.cal = some q)
    (hc : (q.ph = .zero2 ∨ q.ph = .lvl2) → planeElsewhere (s.upd h (calStep avg)) h = false) :
    exec (.calStep h avg) s = .next (s.act h (calStep avg)) := by
  show execCalStep h avg s = _
  unfold execCalStep
  rw [hq]
  cases hph : q.ph <;> simp [State.act, trimCompare, hc, hph]

theorem Hoop.chan_of_mon {x y : Hoop} (h : x.mon = y.mon) (c : Nat) : x.chan c = y.chan c := congrArg (fun m : Mon => smGet ({} : Chan) m.chans c) h

@[simp] theorem Hoop.updChan_chan_self (x : Hoop) (c : Nat) (f : Chan → Chan) : (x.updChan c f).chan c = f (x.chan c) := smGet_smSet_self ..

/-- Who writes the plane is not changed by an effect that leaves its own hoop's part and PLANE_WR. -/
theorem planeElsewhere_upd {s : State} {h : HoopId} {f : Hoop → Hoop} (hs : s.has h = true) (hsite : ∀ x, (f x).site = x.site)
    (hf : (f (s.hoop h)).mon.planeWr = (s.hoop h).mon.planeWr) : planeElsewhere (s.upd h f) h = planeElsewhere s h := by
  obtain ⟨-, hk⟩ := State.frame_iff.mp (State.upd_frame s h f hsite)
  have hpart : (s.upd h f).a.part = s.a.part := congrArg Prod.fst (hk .hoopA)
  rw [planeElsewhere, planeElsewhere, hpart, State.upd_self s h f hs, State.upd_other, hf]

/-! ## The statement -/

/-- Settles O30: each row's own operation on the monitor's block, which `settle` leaves alone. -/
theorem calibrationRows : Obligations.CalibrationRows := by
  unfold Obligations.CalibrationRows
  refine ⟨?start, ?zero1, ?lvl0, ?zero2, ?last, ?next⟩
  case start =>
    intro s h x k hx hen hrun _ hdue hk hdefer
    refine gives_act calRoundStart hx rfl fun y hy => ?_
    rw [Hoop.mon_of_calm hy, calRoundStart_due hen hrun hdue hdefer, hk]
    have hroll := (notePause_roll (readied x.opened)).trans (readied_roll x.opened)
    obtain ⟨hrun, hstart, hfailed, hcal⟩ := calBegin_some k false (notePause (readied x.opened))
    exact ⟨hrun.trans (congrArg Roll.run hroll), hstart.trans (congrArg Roll.start hroll), hfailed.trans (congrArg Roll.failed hroll), hcal⟩
  case zero1 =>
    intro s h x q avg hx hq hp hh hph
    obtain ⟨hs, rfl⟩ := hx
    exact makes_act (calStep avg) ⟨hs, rfl⟩ (exec_calStep hq (by simp [hph])) (congrArg Hoop.calm (calStep_zero1 hq hp hh avg hph))
  case lvl0 =>
    intro s h x q avg hx hq hp hh hph
    obtain ⟨hs, rfl⟩ := hx
    exact makes_act (calStep avg) ⟨hs, rfl⟩ (exec_calStep hq (by simp [hph])) (congrArg Hoop.calm (calStep_lvl0 hq hp hh avg hph))
  case zero2 =>
    intro s h x q avg hx hq hp hh hph hplane ht
    obtain ⟨hs, rfl⟩ := hx
    have hstep := calStep_zero2 hq hp hh hph ht
    have hsame : planeElsewhere (s.upd h (calStep avg)) h = planeElsewhere s h :=
      planeElsewhere_upd hs (calStep_site avg) (by rw [hstep]; rfl)
    refine gives_act (calStep avg) ⟨hs, rfl⟩ (exec_calStep hq fun _ => hsame.trans hplane) fun y hy => ?_
    have hmon := Hoop.mon_of_calm (hy.trans (congrArg Hoop.calm hstep))
    refine ⟨?_, congrArg Mon.calSel hmon, congrArg Mon.cal hmon⟩
    rw [Hoop.chan_of_mon hmon, calGo_chan, Hoop.updChan_chan_self]
  case last =>
    intro s h x g mid hx hg hperm hmid hnone
    refine gives_act (adcCalEnd g mid) hx rfl fun y hy => ?_
    rw [adcCalEnd_passes hg hperm hmid, adcTurn_zero_nil (by exact hperm) (by exact hnone)] at hy
    have hmon := Hoop.mon_of_calm hy
    refine ⟨?_, congrArg Mon.spare0 (hmon.trans (setSpare_zero_mon ..))⟩
    rw [Hoop.group_of_mon hmon, setSpare_zero_group, Hoop.updGroup_group_self]
  case next =>
    intro s h x g g' gs mid hx hg hperm hmid hwait
    refine gives_act (adcCalEnd g mid) hx rfl fun y hy => ?_
    rw [adcCalEnd_passes hg hperm hmid, adcTurn_zero_cons (by exact hperm) (by exact hwait)] at hy
    have hmon := Hoop.mon_of_calm hy
    have hset := hmon.trans (setSpare_zero_mon ..)
    refine ⟨?_, congrArg Mon.spare0 hset, congrArg Mon.adcCal hset⟩
    rw [Hoop.group_of_mon hmon, setSpare_zero_group, Hoop.updGroup_group_self]

end Sys2Proof.Machine
end

section
/-!
SUPPORT. What the jobs of the loops leave alone: of each channel its result entry and its range, of the loops' block the tick and the coefficient sets.
The verdicts and the further work of a conversion leave the same alone.
-/

namespace Sys2Proof.Machine
open Sys2Proof

/-- A channel's result entry (R187, R188) and its range. -/
@[ext] structure Reading where
  word : Word
  stamp : Stamp
  range : BitVec 2
  auto : Bool

def Chan.reading (v : Chan) : Reading := { word := v.word, stamp := v.stamp, range := v.range, auto := v.auto }

/-- An update of a channel's other fields. -/
theorem Chan.reading_mk (v : Chan) (presel spare lost calFail ofs gain calStatus good goodAt diff settle low rail testing dark sw owe due ret) :
    (Chan.mk v.range v.auto presel spare lost calFail ofs gain calStatus v.word v.stamp good goodAt diff settle low rail testing dark sw owe due ret).reading =
      v.reading := Reading.ext rfl rfl rfl rfl

theorem Chan.switched_reading (v : Chan) (now : Nat) : (v.switched now).reading = v.reading := Chan.reading_mk ..

/-- The loops' block without the loops and the counts that their jobs keep. -/
def Bob.plan (b : Bob) : Bob :=
  { b with loops := [], swapRef := 0, follow := false, slow := 0, degCnt := 0, flipCnt := 0, cmpDiff := 0, slowEvMs := none }

/-- The reading of every channel, and of the loops' block the tick, the sets, their shadow copies and the swaps asked for. -/
structure Bench where
  reading : Nat → Reading
  plan : Bob

def Hoop.bench (x : Hoop) : Bench where
  reading := fun c => (x.chan c).reading
  plan := x.bob.plan

theorem Hoop.bench_ext {x y : Hoop} (hc : x.mon.chans = y.mon.chans) (hb : x.bob.plan = y.bob.plan) : x.bench = y.bench := by
  simp only [Hoop.bench, Hoop.chan, hc, hb]

theorem Hoop.bench_of_calm {x y : Hoop} (h : x.calm = y.calm) : x.bench = y.bench :=
  Hoop.bench_ext (congrArg Mon.chans (Hoop.mon_of_calm h)) (congrArg Bob.plan (Hoop.bob_of_calm h))

theorem Hoop.plan_of_bench {x y : Hoop} (h : x.bench = y.bench) : x.bob.plan = y.bob.plan := congrArg Bench.plan h

theorem Hoop.reading_of_bench {x y : Hoop} (h : x.bench = y.bench) (c : Nat) : (x.chan c).reading = (y.chan c).reading :=
  congrArg (fun b => Bench.reading b c) h

/-! ## Shapes -/

/-- An update outside the monitor's block and the loops' keeps the bench. -/
theorem Hoop.bench_mk (x : Hoop) (part isB tb cm thr prk tmb drv slice prkSlice oldSlices rmap tec ths fc dk jnl hist led mbx evt pair wlm xbar pmc boot
    pwr settings calStore keeperImg mram mwrites bus freeIx) :
    (Hoop.mk part isB tb cm thr prk tmb drv slice prkSlice oldSlices rmap x.mon x.bob tec ths fc dk jnl hist led mbx evt pair wlm xbar pmc boot
      pwr settings calStore keeperImg mram mwrites bus freeIx).bench = x.bench := Hoop.bench_ext rfl rfl

/-- An update of the loops' block outside the tick, the sets and the swaps. -/
theorem Hoop.bench_bob (x : Hoop) (part isB tb cm thr prk tmb drv slice prkSlice oldSlices rmap tec ths fc dk jnl hist led mbx evt pair wlm xbar pmc boot
    pwr settings calStore keeperImg mram mwrites bus freeIx loops swapRef follow slow degCnt flipCnt cmpDiff slowEvMs) :
    (Hoop.mk part isB tb cm thr prk tmb drv slice prkSlice oldSlices rmap x.mon (Bob.mk loops x.bob.sets x.bob.shadows x.bob.swapPend swapRef x.bob.run follow
      x.bob.tick x.bob.nbrTau x.bob.cap slow degCnt flipCnt cmpDiff slowEvMs) tec ths fc dk jnl hist led mbx evt pair wlm xbar pmc boot
      pwr settings calStore keeperImg mram mwrites bus freeIx).bench = x.bench := Hoop.bench_ext rfl rfl

/-- An update of the monitor's block outside the channels. -/
theorem Hoop.bench_mon (x : Hoop) (part isB tb cm thr prk tmb drv slice prkSlice oldSlices rmap tec ths fc dk jnl hist led mbx evt pair wlm xbar pmc boot
    pwr settings calStore keeperImg mram mwrites bus freeIx groups refOk refSrc refFallback refMeas refChanged calEn calInterval cal calRun sparePass
    calPaused calIMissing calFailed calRound calTime calStart calEnd planeWr spare0 spare0Perm spare1 spare1Perm adcCal ovrCnt refnokCnt calSel
    sweepDeferred injAt) :
    (Hoop.mk part isB tb cm thr prk tmb drv slice prkSlice oldSlices rmap (Mon.mk x.mon.chans groups refOk refSrc refFallback refMeas refChanged calEn
      calInterval cal calRun sparePass calPaused calIMissing calFailed calRound calTime calStart calEnd planeWr spare0 spare0Perm spare1 spare1Perm
      adcCal ovrCnt refnokCnt calSel sweepDeferred injAt) x.bob tec ths fc dk jnl hist led mbx evt pair wlm xbar pmc boot
      pwr settings calStore keeperImg mram mwrites bus freeIx).bench = x.bench := Hoop.bench_ext rfl rfl

theorem Hoop.bench_ite (c : Prop) [Decidable c] (x y : Hoop) : (if c then x else y).bench = if c then x.bench else y.bench := apply_ite ..

theorem Hoop.bench_foldl {α : Type} (f : Hoop → α → Hoop) (h : ∀ x a, (f x a).bench = x.bench) (l : List α) (x : Hoop) :
    (l.foldl f x).bench = x.bench :=
  foldl_keeps Hoop.bench f h l x

/-- A channel that keeps its reading. -/
theorem Hoop.setChan_bench {x : Hoop} {c : Nat} {v : Chan} (h : v.reading = (x.chan c).reading) : (x.setChan c v).bench = x.bench := by
  have hr : (x.setChan c v).bench.reading = x.bench.reading := by
    funext j
    by_cases hj : j = c
    · subst hj
      exact (congrArg Chan.reading (smGet_smSet_self ..)).trans h
    · exact congrArg Chan.reading (smGet_smSet_ne _ _ _ _ hj)
  exact congrArg (fun r => { x.bench with reading := r }) hr

theorem Hoop.updChan_bench {x : Hoop} {c : Nat} {f : Chan → Chan} (h : ∀ v, (f v).reading = v.reading) : (x.updChan c f).bench = x.bench :=
  Hoop.setChan_bench (h _)

/-! ## Telling, threads and faults -/

theorem pmcRaw_bench (c n : Nat) (x : Hoop) : (pmcRaw c n x).bench = x.bench := Hoop.bench_of_calm (pmcRaw_calm ..)

theorem raiseEv_bench (src : Nat) (payload : List Nat) (sc : Scope) (x : Hoop) : (raiseEv src payload sc x).bench = x.bench :=
  Hoop.bench_of_calm (raiseEv_calm ..)

theorem jnlPut_bench (type sev src : Nat) (wire : Bool) (payload : Bytes) (x : Hoop) : (jnlPut type sev src wire payload x).bench = x.bench :=
  Hoop.bench_of_calm (jnlPut_calm ..)

theorem fault_bench (s det : Nat) (x : Hoop) : (fault s det x).bench = x.bench := Hoop.bench_of_calm (fault_calm ..)

theorem pulse_calm (s det : Nat) (extra : List Nat) (x : Hoop) : (pulse s det extra x).calm = x.calm := (faultOff_calm ..).trans (faultOn_calm ..)

theorem pulse_bench (s det : Nat) (extra : List Nat) (x : Hoop) : (pulse s det extra x).bench = x.bench := Hoop.bench_of_calm (pulse_calm ..)

theorem outcomes_bench (x : Hoop) : (outcomes x).bench = x.bench := Hoop.bench_of_calm (outcomes_calm ..)

theorem threadEvent_bench (i : Nat) (t : Thread) (prev : ThreadSt) (cause seq src slot : Nat) (x : Hoop) :
    (threadEvent i t prev cause seq src slot x).bench = x.bench :=
  Hoop.bench_of_calm (threadEvent_calm ..)

theorem countSt_bench (st : ThreadSt) (x : Hoop) : (countSt st x).bench = x.bench := Hoop.bench_of_calm (countSt_calm ..)

theorem setSt_bench (i : Nat) (st : ThreadSt) (cause seq src : Nat) (x : Hoop) : (setSt i st cause seq src x).bench = x.bench :=
  Hoop.bench_of_calm (setSt_calm ..)

theorem ledVerified_bench (i at_ : Nat) (x : Hoop) : (ledVerified i at_ x).bench = x.bench := Hoop.bench_of_calm (ledVerified_calm ..)

theorem ledStart_bench (i at_ : Nat) (x : Hoop) : (ledStart i at_ x).bench = x.bench := Hoop.bench_of_calm (ledStart_calm ..)

theorem ledEnd_bench (i at_ : Nat) (counted : Bool) (x : Hoop) : (ledEnd i at_ counted x).bench = x.bench := Hoop.bench_of_calm (ledEnd_calm ..)

theorem notify_bench (i cause : Nat) (x : Hoop) : (notify i cause x).bench = x.bench := Hoop.bench_of_calm (notify_calm ..)

theorem reqDark_bench (i : Nat) (x : Hoop) : (reqDark i x).bench = x.bench := Hoop.bench_of_calm (reqDark_calm ..)

theorem faultThread_bench (i seq src : Nat) (x : Hoop) : (faultThread i seq src x).bench = x.bench := Hoop.bench_of_calm (faultThread_calm ..)

theorem prkPay_bench (i at_ : Nat) (ok : Bool) (x : Hoop) : (prkPay i at_ ok x).bench = x.bench := Hoop.bench_of_calm (prkPay_calm ..)

theorem Hoop.updThread_bench (x : Hoop) (i : Nat) (f : Thread → Thread) : (Hoop.updThread x i f).bench = x.bench := Hoop.bench_of_calm (updThread_calm ..)

theorem Hoop.updNeedle_bench (x : Hoop) (e : Nat) (f : Needle → Needle) : (Hoop.updNeedle x e f).bench = x.bench := Hoop.bench_of_calm (updNeedle_calm ..)

theorem Hoop.updTile_bench (x : Hoop) (t : Nat) (f : Tile → Tile) : (Hoop.updTile x t f).bench = x.bench := Hoop.bench_of_calm (updTile_calm ..)

/-! ## The parts of the state -/

theorem Hoop.updElem_bench (x : Hoop) (e : Nat) (f : Elem → Elem) : (Hoop.updElem x e f).bench = x.bench := Hoop.bench_ext rfl rfl

theorem Hoop.updHeater_bench (x : Hoop) (e : Nat) (f : Heater → Heater) : (Hoop.updHeater x e f).bench = x.bench := Hoop.bench_ext rfl rfl

theorem Hoop.setLoop_bench (x : Hoop) (e : Nat) (v : Loop) : (Hoop.setLoop x e v).bench = x.bench := Hoop.bench_ext rfl rfl

theorem Hoop.updGroup_bench (x : Hoop) (g : Nat) (f : Group → Group) : (Hoop.updGroup x g f).bench = x.bench := Hoop.bench_ext rfl rfl

theorem moveHeater_bench (e : Nat) (x : Hoop) : (moveHeater e x).bench = x.bench :=
  moveHeater_keeps Hoop.bench e (fun _ _ => Hoop.updHeater_bench ..) (fun _ => Hoop.updHeater_bench ..) x

theorem heaterPort_bench (e : Nat) (c : BitVec 12) (r : Bool) (x : Hoop) : (heaterPort e c r x).bench = x.bench := by
  unfold heaterPort
  simp only [↓moveHeater_bench, ↓Hoop.updHeater_bench]

/-! ## The loops -/

theorem heaterOut_bench (e u : Nat) (x : Hoop) : (heaterOut e u x).bench = x.bench := by
  unfold heaterOut
  simp only [↓Hoop.setLoop_bench, ↓heaterPort_bench]

theorem emit_bench (e : Nat) (ur : Int) (x : Hoop) : (emit e ur x).bench = x.bench := by
  unfold emit
  simp only [↓Hoop.bench_ite, ite_self, ↓Hoop.setLoop_bench, ↓raiseEv_bench, ↓heaterOut_bench]

theorem gentle_bench (e : Nat) (u : Int) (x : Hoop) : (gentle e u x).bench = x.bench := by
  unfold gentle
  simp only [↓Hoop.bench_ite, ite_self, ↓Hoop.updTile_bench]

theorem ffOut_bench (e : Nat) (x : Hoop) : (ffOut e x).bench = x.bench := by
  unfold ffOut
  simp only [↓Hoop.bench_ite, ite_self, ↓emit_bench, ↓gentle_bench, ↓Hoop.setLoop_bench]

theorem disagree_bench (e kind : Nat) (x : Hoop) : (disagree e kind x).bench = x.bench := by
  unfold disagree
  simp only [↓Hoop.bench_bob, ↓Hoop.bench_ite, ite_self, ↓raiseEv_bench, ↓jnlPut_bench, ↓Hoop.setLoop_bench]

theorem fold_bench (e : Nat) (x : Hoop) : (fold e x).bench = x.bench := by
  unfold fold
  dsimp only
  split <;> simp only [↓ffOut_bench, ↓disagree_bench, ↓Hoop.setLoop_bench]

theorem missUpdate_bench (e : Nat) (x : Hoop) : (missUpdate e x).bench = x.bench := by
  unfold missUpdate
  simp only [↓Hoop.bench_ite, ite_self, ↓Hoop.setLoop_bench]

theorem loopUpdate_bench (e : Nat) (err : Int) (frozen : Bool) (x : Hoop) : (loopUpdate e err frozen x).bench = x.bench := by
  unfold loopUpdate
  simp only [↓Hoop.bench_ite, ite_self, ↓pmcRaw_bench, ↓Hoop.setLoop_bench, ↓emit_bench]

theorem preload_bench (e : Nat) (err : Int) (x : Hoop) : (preload e err x).bench = x.bench := by
  unfold preload
  simp only [↓pmcRaw_bench, ↓Hoop.setLoop_bench, ↓emit_bench, ↓disagree_bench]

theorem beginPass_bench (g : Nat) (cs : List Nat) (x : Hoop) : (beginPass g cs x).bench = x.bench := Hoop.bench_ext rfl rfl

theorem tickPass_bench (cs : List Nat) (x : Hoop) (g : Nat) : (tickPass cs x g).bench = x.bench := by
  unfold tickPass
  simp only [↓Hoop.bench_ite, ite_self, ↓beginPass_bench, ↓Hoop.updGroup_bench]

theorem passConv_bench (ch : Nat) (x : Hoop) : (passConv ch x).bench = x.bench := by
  unfold passConv
  simp only [↓Hoop.bench_ite, ite_self, ↓Hoop.updGroup_bench, ↓beginPass_bench]

theorem assignSet_bench (e : Nat) (n : BitVec 4) (x : Hoop) : (assignSet e n x).bench = x.bench := Hoop.bench_ext rfl rfl

theorem giveTone_bench (e k : Nat) (x : Hoop) : (giveTone e k x).bench = x.bench := by
  unfold giveTone
  simp only [↓Hoop.bench_mk, ↓Hoop.updNeedle_bench, ↓Hoop.updTile_bench, ↓assignSet_bench]

theorem dropTone_bench (e : Nat) (x : Hoop) : (dropTone e x).bench = x.bench := by
  unfold dropTone
  simp only [↓Hoop.bench_ite, ite_self, ↓Hoop.updNeedle_bench, ↓Hoop.updTile_bench, ↓assignSet_bench]

theorem chooseTone_bench (e : Nat) (x : Hoop) : (chooseTone e x).bench = x.bench := by
  unfold chooseTone
  simp only [↓Hoop.bench_ite, ↓dropTone_bench]
  repeat' split
  all_goals simp only [↓giveTone_bench, ↓raiseEv_bench]

theorem noteFlip_bench (e : Nat) (x : Hoop) : (noteFlip e x).bench = x.bench := by
  unfold noteFlip
  simp only [↓Hoop.bench_bob, ↓Hoop.bench_ite, ite_self, ↓Hoop.setLoop_bench, ↓raiseEv_bench, ↓jnlPut_bench]

theorem flipLimit_bench (e : Nat) (x : Hoop) : (flipLimit e x).bench = x.bench := by
  unfold flipLimit
  simp only [↓Hoop.bench_ite, ite_self, ↓chooseTone_bench]

theorem ratioUpdate_bench (e r : Nat) (x : Hoop) : (ratioUpdate e r x).bench = x.bench := by
  unfold ratioUpdate
  split <;> simp only [↓Hoop.bench_ite, ite_self, ↓missUpdate_bench, ↓Hoop.setLoop_bench, ↓loopUpdate_bench, ↓noteFlip_bench, ↓flipLimit_bench]

theorem lockin_bench (e r : Nat) (x : Hoop) : (lockin e r x).bench = x.bench := by
  unfold lockin
  simp only [↓Hoop.setLoop_bench]

theorem closeLoop_bench (e r : Nat) (x : Hoop) : (closeLoop e r x).bench = x.bench := by
  unfold closeLoop
  repeat' split
  all_goals simp only [↓preload_bench]

theorem slowNote_bench (e : Nat) (x : Hoop) : (slowNote e x).bench = x.bench := by
  unfold slowNote
  simp only [↓Hoop.bench_bob, ↓Hoop.bench_ite, ite_self, ↓raiseEv_bench]

theorem loopWord_bench (e r : Nat) (changed : Bool) (x : Hoop) : (loopWord e r changed x).bench = x.bench := by
  unfold loopWord
  dsimp only
  split <;> simp only [↓Hoop.bench_ite, ite_self, ↓fold_bench, ↓lockin_bench, ↓ratioUpdate_bench, ↓slowNote_bench, ↓closeLoop_bench]

theorem loopNoWord_bench (e : Nat) (x : Hoop) : (loopNoWord e x).bench = x.bench := by
  unfold loopNoWord
  simp only [↓Hoop.bench_ite, ite_self, ↓missUpdate_bench]

theorem loopVerdict_bench (e r : Nat) (pass : Bool) (x : Hoop) : (loopVerdict e r pass x).bench = x.bench := by
  unfold loopVerdict
  simp only [↓Hoop.bench_ite, ite_self, ↓Hoop.setLoop_bench, ↓closeLoop_bench]

theorem strobeLoop_bench (e : Nat) (hff : Option Nat) (reband : Bool) (x : Hoop) : (strobeLoop e hff reband x).bench = x.bench := by
  unfold strobeLoop
  simp only [↓Hoop.bench_ite, ite_self, ↓ffOut_bench, ↓Hoop.setLoop_bench]

theorem ffJobs_bench (x : Hoop) : (ffJobs x).bench = x.bench := by
  unfold ffJobs
  simp only [↓Hoop.bench_ite, ite_self, ↓Hoop.bench_foldl, implies_true, ↓fold_bench, ↓missUpdate_bench, ↓pmcRaw_bench, ↓ffOut_bench]

theorem slowLoops_bench (x : Hoop) : (slowLoops x).bench = x.bench := by
  unfold slowLoops
  split <;> simp only [↓slowNote_bench]

end Sys2Proof.Machine
end

section
/-!
SUPPORT. The events of the stitch loops: what an output leaves of its loop, the ends of a lock-in window and of HOLD, the lags, the cap, the loop tick and
a refinement (R60, R193, R217, R221, R226, R230, R233, R235), and the statement O32.
-/

namespace Sys2Proof.Machine
open Sys2Proof

/-! ## An output and its loop (R218 to R220, R229, R232) -/

/-- What the output of a loop does not write: its state and its integrator, proportional and differential terms. -/
def Loop.terms (l : Loop) : LSt × Int × Int × Int := (l.st, l.i, l.p, l.d)

@[simp] theorem Hoop.setLoop_loop_self (x : Hoop) (e : Nat) (v : Loop) : (x.setLoop e v).loop e = v := smGet_smSet_self ..

theorem Hoop.loop_of_calm {x y : Hoop} (h : x.calm = y.calm) (e : Nat) : x.loop e = y.loop e := Hoop.loop_of_bob (Hoop.bob_of_calm h) e

theorem heaterPort_bob (e : Nat) (c : BitVec 12) (r : Bool) (x : Hoop) : (heaterPort e c r x).bob = x.bob :=
  moveHeater_keeps Hoop.bob e (fun _ _ => rfl) (fun _ => rfl) _

theorem heaterOut_terms (e u : Nat) (x : Hoop) : ((heaterOut e u x).loop e).terms = (x.loop e).terms := by
  unfold heaterOut
  extract_lets l wide low wide' y
  rw [Hoop.loop_of_bob (heaterPort_bob ..), Hoop.setLoop_loop_self]
  rfl

theorem emit_terms (e : Nat) (ur : Int) (x : Hoop) : ((emit e ur x).loop e).terms = (x.loop e).terms := by
  unfold emit
  extract_lets m c r l u y z
  have hz : z.loop e = y.loop e := by
    simp only [z]
    split
    · rfl
    · exact Hoop.loop_of_calm (raiseEv_calm ..) e
  rw [heaterOut_terms, hz, Hoop.setLoop_loop_self]
  rfl

theorem ffOut_terms (e : Nat) (x : Hoop) : ((ffOut e x).loop e).terms = (x.loop e).terms := by
  unfold ffOut
  extract_lets l ff ur
  split
  · rfl
  · rw [emit_terms, Hoop.setLoop_loop_self]
    rfl

theorem disagree_terms (e kind : Nat) (x : Hoop) : ((disagree e kind x).loop e).terms = (x.loop e).terms := by
  unfold disagree
  extract_lets l held
  split
  · rw [Hoop.loop_of_calm ((raiseEv_calm ..).trans (jnlPut_calm ..))]
    exact (congrArg Loop.terms (x.setLoop_loop_self e { x.loop e with note := true }) :)
  · rfl

/-- HOLD folds: the terms go into the integrator, and the loop is in FF (R232). -/
theorem fold_hold_terms {e : Nat} {x : Hoop} (h : (x.loop e).st = .hold) : ((fold e x).loop e).terms =
    (.ff, (x.setOf e).clamp (sat32 ((x.loop e).i + (x.loop e).p + (x.loop e).d)), 0, 0) := by
  unfold fold
  simp only [h]
  rw [ffOut_terms, disagree_terms, Hoop.setLoop_loop_self]
  rfl

/-! ## A lock-in window ends (R226, R230) -/

theorem Loop.st_of_terms {l k : Loop} (h : l.terms = k.terms) : l.st = k.st := congrArg Prod.fst h

theorem preload_closed (e : Nat) (err : Int) (x : Hoop) : ((preload e err x).loop e).st = .closed := by
  unfold preload
  extract_lets c l ff p i y
  rw [Loop.st_of_terms (emit_terms ..), Loop.st_of_terms (disagree_terms ..), Hoop.loop_of_calm (pmcRaw_calm ..), Hoop.setLoop_loop_self]

theorem loopUpdate_closed (e : Nat) (err : Int) (frozen : Bool) (x : Hoop) : ((loopUpdate e err frozen x).loop e).st = .closed := by
  unfold loopUpdate
  extract_lets c l ff i0 p step ic d ur u wind i u0 y z w lo hi still
  rw [Hoop.setLoop_loop_self]
  have hw : w.loop e = z.loop e := by
    simp only [w]
    split
    · exact Hoop.loop_of_calm (pmcRaw_calm ..) e
    · rfl
  show (w.loop e).st = .closed
  rw [hw, Loop.st_of_terms (emit_terms ..), Hoop.loop_of_calm (pmcRaw_calm ..), Hoop.setLoop_loop_self]

theorem validUpdate_closed (e : Nat) (err : Int) (x : Hoop) : ((validUpdate e err x).loop e).st = .closed := by
  unfold validUpdate
  split
  · exact preload_closed ..
  · exact loopUpdate_closed ..

/-- An update that cannot be made leaves a CLOSED loop, and one in HOLD, in HOLD with the sums as they are. -/
theorem missUpdate_loop {e : Nat} {x : Hoop} (h : (x.loop e).st = .closed ∨ (x.loop e).st = .hold) :
    (missUpdate e x).loop e = { x.loop e with st := .hold } := by
  unfold missUpdate
  split
  · rw [Hoop.setLoop_loop_self]
  next hn => rw [← h.resolve_left hn]

/-- A loop with its lock-in sums cleared. -/
def Loop.swept (l : Loop) : Loop := { l with lx := 0, ls := 0, lm := 0 }

/-- A window that ends for a loop in dither mode clears its sums; the loop is CLOSED after an update, in HOLD where there was none. -/
theorem lockinEnd_loop {e : Nat} {x : Hoop} (hd : (x.setOf e).dither = true) (hs : (x.loop e).st = .closed ∨ (x.loop e).st = .hold) :
    ∃ l : Loop, (lockinEnd e x).loop e = l.swept ∧ l.st = if (lockinErr x e).isSome then .closed else .hold := by
  have hrun : ¬ (!((x.setOf e).dither && ((x.loop e).st == .closed || (x.loop e).st == .hold))) = true := by
    rcases hs with hs | hs <;> simp [hd, hs]
  unfold lockinEnd
  extract_lets l z
  rw [if_neg hrun]
  split
  next hnone =>
    refine ⟨{ x.loop e with st := .hold }, ?_, by rw [hnone]; rfl⟩
    have hz : (z x).loop e = (x.loop e).swept := x.setLoop_loop_self e _
    rw [missUpdate_loop (by rw [hz]; exact hs), hz]
    rfl
  next err herr =>
    exact ⟨_, Hoop.setLoop_loop_self .., by rw [herr]; exact validUpdate_closed ..⟩

/-! ## The lags and the cap (R221, R235) -/

theorem smGet_map_of_find {α : Type} (f : Nat → α → α) (d : α) {m : SMap α} {k : Nat} {v : α} (h : smFind m k = some v) :
    smGet d (m.map fun q => (q.1, f q.1 q.2)) k = f k v := by
  induction m with
  | nil => simp [smFind] at h
  | cons q m ih =>
    obtain ⟨j, w⟩ := q
    by_cases hj : j = k
    · subst hj
      simp_all [smFind, smGet]
    · simp_all [smFind, smGet]

/-- What a neighbour's heater gives beyond the bias of its record, in the band of element `e` (R221). -/
def excess (x : Hoop) (e k : Nat) : Int :=
  (if (x.heater k).range then 4 * (x.heater k).out.toNat else (x.heater k).out.toNat : Nat) - (x.entry k (x.ffBand e)).hb

/-- One microsecond of an element's lags. -/
def lagged (x : Hoop) (e : Nat) (l : Loop) : List Int :=
  ((nbrsOf x.part e).zip l.lag).map fun q => match q.1 with
    | some k => q.2 + divRound (excess x e k * 65536 - q.2) (max 1 x.bob.nbrTau.toNat)
    | none => q.2

theorem lagUpdate_lag {x : Hoop} {e : Nat} {l : Loop} (h : smFind x.bob.loops e = some l) : ((lagUpdate x).loop e).lag = lagged x e l := by
  unfold lagUpdate lagged
  extract_lets one
  have he : smGet ({} : Loop) (x.bob.loops.map fun q => (q.1, one q.1 q.2)) e = one e l := smGet_map_of_find one {} h
  refine (congrArg Loop.lag he).trans (List.map_congr_left fun q _ => ?_)
  obtain ⟨n, f⟩ := q
  cases n with
  | none => rfl
  | some k =>
    simp only [excess]
    split <;> push_cast <;> rfl

/-- The cap that the job finds. -/
def capFor (x : Hoop) : Word :=
  if uaOf (x.bob.loops.map (fun q => demand x q.1 q.2)).sum ≤ x.drv.hCeil.toNat then 0xFFFFFFFF
  else BitVec.ofNat 32 (capBits (x.bob.loops.map (fun q => demand x q.1 q.2)) x.drv.hCeil.toNat 13 0)

theorem capJob_bob (x : Hoop) : (capJob x).bob = { x.bob with cap := capFor x } := by
  unfold capJob
  extract_lets ds cap
  have hcap : cap = capFor x := rfl
  rw [hcap]
  split
  next hsame => rw [hsame]
  · rw [raiseEv_bob]

/-! ## The loop tick (R193, R217, R233) -/

/-- A swap that is asked for: the set takes its shadow copy where that is legal. -/
def Bob.swap (b : Bob) (k : Nat) : Bob :=
  { b with swapPend := b.swapPend &&& ~~~BitVec.twoPow 16 k
           sets := if (b.shadows.getD k {}).ok then b.sets.set k (b.shadows.getD k {}) else b.sets }

theorem swapSet_plan (k : Nat) (x : Hoop) : (swapSet k x).bob.plan = x.bob.plan.swap k := by
  unfold swapSet
  extract_lets sh old bitK y
  split
  next hbad =>
    have hno : (x.bob.shadows.getD k {}).ok = false := by simpa [sh] using hbad
    rw [raiseEv_bob]
    simp only [Bob.plan, Bob.swap, hno]
    rfl
  next hok =>
    have hyes : (x.bob.shadows.getD k {}).ok = true := by simpa [sh] using hok
    rw [raiseEv_bob]
    simp only [Bob.plan, Bob.swap, hyes]
    rfl

theorem swapSets_plan (l : List Nat) (x : Hoop) : (l.foldl (fun y k => swapSet k y) x).bob.plan = l.foldl Bob.swap x.bob.plan := by
  induction l generalizing x with
  | nil => rfl
  | cons k l ih => rw [List.foldl_cons, List.foldl_cons, ih, swapSet_plan]

theorem foldl_swap_tick (l : List Nat) (b : Bob) : (l.foldl Bob.swap b).tick = b.tick := foldl_keeps Bob.tick Bob.swap (fun _ _ => rfl) l b

theorem foldl_swap_run (l : List Nat) (b : Bob) : (l.foldl Bob.swap b).run = b.run := foldl_keeps Bob.run Bob.swap (fun _ _ => rfl) l b

theorem Bob.swap_swapPend (b : Bob) (k j : Nat) : (b.swap k).swapPend.getLsbD j = (b.swapPend.getLsbD j && !(j == k)) := by
  by_cases hj : j < 16
  · by_cases hk : j = k
    · subst hk
      simp [Bob.swap, hj]
    · simp [Bob.swap, hj, hk]
  · simp [BitVec.getLsbD_of_ge _ _ (Nat.not_lt.mp hj)]

theorem foldl_swap_swapPend (l : List Nat) (b : Bob) (j : Nat) :
    (l.foldl Bob.swap b).swapPend.getLsbD j = (b.swapPend.getLsbD j && !l.contains j) := by
  induction l generalizing b with
  | nil => simp
  | cons k l ih => rw [List.foldl_cons, ih, Bob.swap_swapPend, List.contains_cons, Bool.not_or, Bool.and_assoc]

theorem Bob.swap_sets_self {b : Bob} {k : Nat} (hk : k < b.sets.length) (hok : (b.shadows.getD k {}).ok = true) :
    (b.swap k).sets.getD k {} = b.shadows.getD k {} := by
  have hset : (b.swap k).sets = b.sets.set k (b.shadows.getD k {}) := if_pos hok
  rw [hset, List.getD_eq_getElem _ _ (by rwa [List.length_set]), List.getElem_set_self]

theorem Bob.swap_sets_ne {b : Bob} {k j : Nat} (h : k ≠ j) : (b.swap j).sets.getD k {} = b.sets.getD k {} := by
  unfold Bob.swap
  dsimp only
  split
  · rw [List.getD_eq_getElem?_getD, List.getElem?_set_ne h.symm, ← List.getD_eq_getElem?_getD]
  · rfl

/-- Sets that are swapped one after the other: each of them that is legal is its shadow copy then. -/
theorem foldl_swap_sets {l : List Nat} {b : Bob} {k : Nat} (hk : k < b.sets.length) (hok : (b.shadows.getD k {}).ok = true)
    (h : k ∈ l ∨ b.sets.getD k {} = b.shadows.getD k {}) : (l.foldl Bob.swap b).sets.getD k {} = b.shadows.getD k {} := by
  induction l generalizing b with
  | nil => exact h.resolve_left List.not_mem_nil
  | cons j l ih =>
    have hlen : (b.swap j).sets.length = b.sets.length := by
      unfold Bob.swap
      dsimp only
      split
      · exact List.length_set
      · rfl
    refine ih (b := b.swap j) (hlen ▸ hk) hok ?_
    by_cases hj : k = j
    · subst hj
      exact .inr (Bob.swap_sets_self hk hok)
    · exact h.imp (fun hin => (List.mem_cons.mp hin).resolve_left hj) (Bob.swap_sets_ne hj).trans

/-- The swaps asked for. -/
def Bob.asked (b : Bob) : List Nat := (List.range 16).filter fun k => b.swapPend.getLsbD k

theorem Bob.mem_asked {b : Bob} {k : Nat} : k ∈ b.asked ↔ k < 16 ∧ b.swapPend.getLsbD k = true := by
  rw [Bob.asked, List.mem_filter, List.mem_range]

/-- The tick counts, and the loops run. -/
def Bob.ticked (b : Bob) : Bob := { b with tick := b.tick + 1, run := true }

def ticked (x : Hoop) : Hoop := { x with bob := x.bob.ticked }

theorem passStart_eq (x : Hoop) : passStart x = (List.range (swapSets (ticked (ffJobs (slowLoops x)))).nG).foldl
    (tickPass (regularChans (swapSets (ticked (ffJobs (slowLoops x)))))) (swapSets (ticked (ffJobs (slowLoops x)))) := rfl

/-- A tick counts, and swaps the sets that ask for it. -/
theorem passStart_plan (x : Hoop) : (passStart x).bob.plan = x.bob.asked.foldl Bob.swap x.bob.plan.ticked := by
  have hjobs : (ffJobs (slowLoops x)).bob.plan = x.bob.plan := Hoop.plan_of_bench ((ffJobs_bench ..).trans (slowLoops_bench ..))
  rw [passStart_eq, Hoop.plan_of_bench (Hoop.bench_foldl _ (fun y g => tickPass_bench _ y g) _ _)]
  refine (swapSets_plan (ticked (ffJobs (slowLoops x))).bob.asked _).trans ?_
  exact congrArg (fun b : Bob => b.asked.foldl Bob.swap b.ticked) hjobs

/-! ## A refinement (R60) -/

/-- What a refinement changes: the loops, the slice's HBIAS, the elements' states. -/
def Hoop.trimmed (x : Hoop) : Bob × SMap Int × SMap Elem := (x.bob, x.slice.adj, x.drv.elems)

theorem Hoop.trimmed_of_calm {x y : Hoop} (h : x.calm = y.calm) : x.trimmed = y.trimmed := by
  simp only [Hoop.trimmed, Hoop.bob_of_calm h, Hoop.slice_of_calm h, Hoop.drvView_of_calm Drv.elems (fun _ => rfl) h]

/-- The mean `m` is out of the integrator and in the slice, and the element is marked. -/
def takeMean (e : Nat) (m : Int) (x : Hoop) : Hoop :=
  let l := x.loop e
  let y := x.setLoop e { l with i := l.i - m * 65536, stableFrom := x.now, stableLo := l.i - m * 65536, stableHi := l.i - m * 65536 }
  ({ y with slice := { y.slice with adj := smUpd 0 y.slice.adj (e * 2 + bit (x.ffBand e)) (fun v => v + m) } } : Hoop).updElem e
    (fun v => { v with refined := true })

theorem takeMean_loop (e : Nat) (m : Int) (x : Hoop) : (takeMean e m x).loop e =
    { x.loop e with i := (x.loop e).i - m * 65536, stableFrom := x.now, stableLo := (x.loop e).i - m * 65536, stableHi := (x.loop e).i - m * 65536 } :=
  x.setLoop_loop_self e _

theorem takeMean_adj (e : Nat) (m : Int) (x : Hoop) : smGet 0 (takeMean e m x).slice.adj (e * 2 + bit (x.ffBand e)) =
    smGet 0 x.slice.adj (e * 2 + bit (x.ffBand e)) + m := smGet_smUpd_self (0 : Int) x.slice.adj (e * 2 + bit (x.ffBand e)) (fun v => v + m)

theorem takeMean_elem (e : Nat) (m : Int) (x : Hoop) : (takeMean e m x).elem e = { x.elem e with refined := true } := Hoop.updElem_elem_self ..

theorem Hoop.elem_of_elems {x y : Hoop} (h : x.drv.elems = y.drv.elems) (e : Nat) : x.elem e = y.elem e := congrArg (smGet ({} : Elem) · e) h

theorem mramWrite_hbias_trimmed (e : Nat) (band : Bool) (k c : Nat) (x : Hoop) : (mramWrite (.hbias e band k c) x).trimmed = x.trimmed := by
  unfold mramWrite
  split <;> rfl

/-- An element whose loop has been steady, with every thread through it VERIFIED, for a minute: the mean goes where it belongs; the record in the MRAM
and the notes beside it change nothing of that. -/
theorem refine_steady {e : Nat} {mean : Int} {x : Hoop} (hst : (x.loop e).st = .closed) (hstable : (x.loop e).stableFrom + 60000000000 ≤ x.now)
    (hne : through x e ≠ []) (hver : ∀ i ∈ through x e, (x.carrier i).st = .verified ∧ (x.carrier i).vSince + 60000000000 ≤ x.now)
    (hm : clampI mean (divRound (x.loop e).stableLo 65536) (divRound (x.loop e).stableHi 65536) ≠ 0) :
    (refine e mean x).trimmed = (takeMean e (clampI mean (divRound (x.loop e).stableLo 65536) (divRound (x.loop e).stableHi 65536)) x).trimmed := by
  have hall : ((through x e).map x.carrier).all (fun t => t.st == .verified && decide (t.vSince + 60000000000 ≤ x.now)) = true := by
    simpa [List.all_map, List.all_eq_true] using hver
  unfold refine
  extract_lets l ts steady m
  have hgo : ¬ (!steady || m == 0) = true := by
    simp only [steady, l, ts, m, hst, hall, hstable]
    simp [hne, hm]
  rw [if_neg hgo]
  split
  · rfl
  · extract_lets wide code f off r recent
    split
    · exact (Hoop.trimmed_of_calm ((pulse_calm ..).trans (jnlPut_calm ..))).trans rfl
    · split
      · rfl
      · exact (mramWrite_hbias_trimmed ..).trans rfl

/-! ## The statement -/

/-- Settles O32: each event's own operation on the loops' block, which `settle` leaves alone. -/
theorem loopRows : Obligations.LoopRows := by
  unfold Obligations.LoopRows
  refine ⟨?window, ?hold, ?lags, ?cap, ?tick, ?refinement⟩
  case window =>
    intro s h x e hx hd hst
    refine gives_act (lockinEnd e) hx rfl fun y hy => ?_
    obtain ⟨l, hl, hls⟩ := lockinEnd_loop hd hst
    rw [Hoop.loop_of_calm hy, hl]
    exact ⟨rfl, rfl, rfl, hls⟩
  case hold =>
    intro s h x e hx hst
    refine gives_act (holdTimeout e) hx rfl fun y hy => ?_
    have hterms := fold_hold_terms hst
    simp only [Loop.terms, Prod.mk.injEq] at hterms
    rwa [Hoop.loop_of_calm hy, holdTimeout, if_pos hst]
  case lags =>
    intro s h x e l hx hl
    refine gives_act lagUpdate hx rfl fun y hy => ?_
    rw [Hoop.loop_of_calm hy, lagUpdate_lag hl]
    rfl
  case cap =>
    intro s h x hx
    exact gives_act capJob hx rfl fun y hy => (Hoop.bob_of_calm hy).trans (capJob_bob x)
  case tick =>
    intro s h x hx
    refine gives_act passStart hx rfl fun y hy => ?_
    have hplan : y.bob.plan = _ := (congrArg Bob.plan (Hoop.bob_of_calm hy)).trans (passStart_plan x)
    refine ⟨?_, ?_, ?_, fun k hk hlen hask hok => ?_⟩
    · exact (congrArg Bob.tick hplan).trans (foldl_swap_tick ..)
    · exact (congrArg Bob.run hplan).trans (foldl_swap_run ..)
    · refine BitVec.eq_of_getLsbD_eq fun j hj => ?_
      refine (congrArg (fun b : Bob => b.swapPend.getLsbD j) hplan).trans ((foldl_swap_swapPend ..).trans ?_)
      have hmem : (x.bob.swapPend.getLsbD j && !x.bob.asked.contains j) = false := by
        by_cases hset : x.bob.swapPend.getLsbD j = true
        · simp [Bob.mem_asked.mpr ⟨hj, hset⟩]
        · simp [hset]
      exact hmem.trans BitVec.getLsbD_zero.symm
    · refine (congrArg (fun b : Bob => b.sets.getD k {}) hplan).trans ?_
      exact foldl_swap_sets (b := x.bob.plan.ticked) hlen hok (.inl (Bob.mem_asked.mpr ⟨hk, hask⟩))
  case refinement =>
    intro s h x e mean m hx hst hstable hne hver hm hm0
    refine gives_act (refine e mean) hx rfl fun y hy => ?_
    subst hm
    have htrim := (Hoop.trimmed_of_calm hy).trans (refine_steady hst hstable hne hver hm0)
    simp only [Hoop.trimmed, Prod.mk.injEq] at htrim
    obtain ⟨hbob, hadj, helems⟩ := htrim
    refine ⟨?_, ?_, ?_⟩
    · rw [Hoop.loop_of_bob hbob, takeMean_loop]
    · rw [hadj, takeMean_adj]
    · rw [Hoop.elem_of_elems helems, takeMean_elem]

end Sys2Proof.Machine
end

section
/-!
SUPPORT. What injected channels, verdicts and the work around a conversion leave alone: the readings of the channels and the plan of the loops.
-/

namespace Sys2Proof.Machine
open Sys2Proof

/-! ## Injected channels -/

theorem postUrgent_bench (o : TOp) (x : Hoop) : (postUrgent o x).bench = x.bench := Hoop.bench_ext rfl rfl

theorem postNormal_bench (o : TOp) (x : Hoop) : (postNormal o x).bench = x.bench := Hoop.bench_ext rfl rfl

theorem postPark_bench (es : List Nat) (x : Hoop) : (postPark es x).bench = x.bench := by
  unfold postPark
  simp only [↓Hoop.bench_ite, ite_self, ↓postNormal_bench]

theorem injectOne_bench (e : InjEntry) (x : Hoop) : (injectOne e x).bench = x.bench := Hoop.bench_ext rfl rfl

theorem injDone_bench (g : Nat) (x : Hoop) : (injDone g x).bench = x.bench := by
  unfold injDone
  simp only [↓Hoop.bench_ite, ite_self, ↓postUrgent_bench]

theorem injDrop_bench (g : Nat) (f : InjEntry → Bool) (x : Hoop) : (injDrop g f x).bench = x.bench := by
  unfold injDrop
  simp only [↓Hoop.bench_ite, ite_self, ↓injDone_bench, ↓Hoop.updGroup_bench]

theorem injLeave_bench (c at_ : Nat) (x : Hoop) : (injLeave c at_ x).bench = x.bench := by
  unfold injLeave
  simp only [↓injDrop_bench]

theorem injectAt_bench (chans : List Nat) (key from_ : Nat) (dark : Bool) (x : Hoop) : (injectAt chans key from_ dark x).bench = x.bench := by
  unfold injectAt
  simp only [↓Hoop.bench_foldl, implies_true, ↓injectOne_bench, ↓Hoop.updGroup_bench]

theorem inject_bench (chans : List Nat) (key from_ : Nat) (dark : Bool) (x : Hoop) : (inject chans key from_ dark x).bench = x.bench := by
  unfold inject
  simp only [↓Hoop.bench_foldl, implies_true, ↓injectAt_bench, ↓Hoop.updGroup_bench]

theorem oweSettle_bench (chans : List Nat) (from_ : Nat) (x : Hoop) : (oweSettle chans from_ x).bench = x.bench := by
  unfold oweSettle
  simp only [↓Hoop.bench_foldl, implies_true, ↓Hoop.updChan_bench, Chan.reading_mk]

/-! ## Verdicts -/

theorem refreshElems_bench (es : List Nat) (x : Hoop) : (refreshElems es x).bench = x.bench := by
  unfold refreshElems
  simp only [↓Hoop.bench_ite, ite_self, ↓Hoop.bench_foldl, implies_true, ↓Hoop.updElem_bench]

theorem remix_bench (x : Hoop) : (remix x).bench = x.bench := Hoop.bench_ext rfl rfl

theorem stampVerdict_bench (i : Nat) (x : Hoop) : (stampVerdict i x).bench = x.bench := by
  unfold stampVerdict
  simp only [↓Hoop.bench_mk]

theorem goVerified_bench (i : Nat) (x : Hoop) : (goVerified i x).bench = x.bench := by
  unfold goVerified
  simp only [↓Hoop.updThread_bench, ↓outcomes_bench, ↓stampVerdict_bench, ↓ledVerified_bench, ↓setSt_bench]

theorem rejudge_bench (i : Nat) (t : Thread) (x : Hoop) : (rejudge i t x).bench = x.bench := by
  refine Hoop.bench_foldl _ (fun y q => ?_) _ _
  simp only [↓Hoop.bench_ite]
  split
  · rfl
  · split <;> simp only [↓inject_bench, ↓Hoop.updThread_bench]

theorem failThreads_bench (is : List Nat) (src c : Nat) (x : Hoop) : (failThreads is src c x).bench = x.bench := by
  unfold failThreads
  simp only [↓Hoop.bench_foldl, implies_true, ↓stampVerdict_bench, ↓pulse_bench, ↓reqDark_bench, ↓faultThread_bench, ↓outcomes_bench, ↓rejudge_bench]

theorem passStanding_bench (c : Nat) (x : Hoop) : (passStanding c x).bench = x.bench := by
  refine Hoop.bench_foldl _ (fun y q => ?_) _ _
  dsimp only
  split <;> simp only [↓Hoop.bench_ite, ↓goVerified_bench, ↓stampVerdict_bench, ↓Hoop.updThread_bench, ite_self]

theorem failStanding_bench (c : Nat) (x : Hoop) : (failStanding c x).bench = x.bench := by
  unfold failStanding
  simp only [↓Hoop.bench_ite, ite_self, ↓Hoop.bench_foldl, implies_true, ↓Hoop.updThread_bench, ↓failThreads_bench]

theorem updLoaded_bench (f : Nat → Thread → Thread) (x : Hoop) : (updLoaded f x).bench = x.bench := by
  unfold updLoaded
  split <;> simp only [↓Hoop.bench_mk]

theorem setPricked_bench (p i : Nat) (st : ThreadSt) (cause src : Nat) (x : Hoop) : (setPricked p i st cause src x).bench = x.bench := by
  unfold setPricked
  split <;> simp only [↓Hoop.bench_mk, ↓threadEvent_bench, ↓countSt_bench]

theorem failPricked_bench (p i src c : Nat) (x : Hoop) : (failPricked p i src c x).bench = x.bench := by
  unfold failPricked
  simp only [↓Hoop.bench_mk, ↓setPricked_bench, ↓prkPay_bench, ↓pulse_bench, ↓reqDark_bench]

theorem rotate_bench (c : Nat) (front : Bool) (x : Hoop) : (rotate c front x).bench = x.bench := by
  unfold rotate
  split <;> simp only [↓Hoop.bench_mk]

theorem passPricked_bench (c : Nat) (ts : List (Nat × Nat × Thread)) (x : Hoop) : (passPricked c ts x).bench = x.bench := by
  unfold passPricked
  dsimp only
  split <;> simp only [↓Hoop.bench_mk, ↓Hoop.bench_ite, ite_self, ↓Hoop.bench_foldl, implies_true, ↓updLoaded_bench, ↓setPricked_bench, ↓raiseEv_bench]

theorem failPricked'_bench (c : Nat) (ts : List (Nat × Nat × Thread)) (x : Hoop) : (failPricked' c ts x).bench = x.bench := by
  refine Hoop.bench_foldl _ (fun y q => ?_) _ _
  split <;> simp only [↓Hoop.bench_ite, ↓failPricked_bench, ↓updLoaded_bench, ite_self]

theorem judgePricked_bench (c : Nat) (ts : List (Nat × Nat × Thread)) (v : Judge) (x : Hoop) : (judgePricked c ts v x).bench = x.bench := by
  unfold judgePricked
  repeat' split
  all_goals simp only [↓rotate_bench, ↓passPricked_bench, ↓failPricked'_bench]

theorem lightChange_bench (i r : Nat) (x : Hoop) : (lightChange i r x).bench = x.bench := by
  unfold lightChange
  simp only [↓Hoop.bench_ite, ite_self, ↓Hoop.bench_foldl, implies_true, ↓Hoop.updThread_bench, ↓threadEvent_bench, ↓outcomes_bench, ↓ledEnd_bench,
    ↓strobeLoop_bench, ↓ledStart_bench, ↓oweSettle_bench, ↓inject_bench]

theorem lightPricked_bench (i r start : Nat) (x : Hoop) : (lightPricked i r start x).bench = x.bench := by
  unfold lightPricked
  repeat' split
  all_goals simp only [↓Hoop.bench_mk, ↓updLoaded_bench]

theorem endThread_bench (i : Nat) (x : Hoop) : (endThread i x).bench = x.bench := by
  unfold endThread
  simp only [↓Hoop.bench_mk, ↓Hoop.bench_foldl, implies_true, ↓notify_bench, ↓threadEvent_bench, ↓remix_bench, ↓refreshElems_bench, ↓dropTone_bench,
    ↓fold_bench, ↓postPark_bench, ↓outcomes_bench]

theorem darkOk_bench (i : Nat) (x : Hoop) : (darkOk i x).bench = x.bench := by
  unfold darkOk
  simp only [↓Hoop.bench_ite, ite_self, ↓injDrop_bench, ↓Hoop.updChan_bench, Chan.reading_mk, implies_true, ↓endThread_bench]

theorem darkRead_bench (i r : Nat) (x : Hoop) : (darkRead i r x).bench = x.bench := by
  unfold darkRead
  simp only [↓Hoop.bench_ite, ite_self, ↓Hoop.updChan_bench, Chan.reading_mk, implies_true, ↓fault_bench, ↓injLeave_bench, ↓darkOk_bench]

theorem confirmCount_bench (i r : Nat) (x : Hoop) : (confirmCount i r x).bench = x.bench := by
  unfold confirmCount
  simp only [↓Hoop.bench_mk, ↓Hoop.bench_ite, ite_self]

theorem verdict_bench (c r start : Nat) (x : Hoop) : (verdict c r start x).bench = x.bench := by
  unfold verdict
  simp only [↓Hoop.bench_ite, ite_self, ↓confirmCount_bench, ↓darkRead_bench, ↓lightPricked_bench, ↓lightChange_bench]
  repeat' split
  all_goals simp only [↓confirmCount_bench, ↓lightPricked_bench, ↓lightChange_bench, ↓pmcRaw_bench, ↓injLeave_bench, ↓Hoop.updChan_bench,
    Chan.reading_mk, implies_true, ↓loopVerdict_bench, ↓judgePricked_bench, ↓passStanding_bench, ↓failStanding_bench]

/-! ## Conversions -/

theorem ledgerConv_bench (ch r : Nat) (x : Hoop) : (ledgerConv ch r x).bench = x.bench := by
  unfold ledgerConv
  simp only [↓Hoop.bench_ite]
  repeat' split
  all_goals simp only [↓ledEnd_bench, ↓ledStart_bench]

theorem countConv_bench (ch : Nat) (w : Word) (x : Hoop) : (countConv ch w x).bench = x.bench := by
  unfold countConv
  simp only [↓Hoop.bench_mk, ↓Hoop.bench_mon, ↓Hoop.bench_ite, ite_self, ↓pmcRaw_bench]

theorem useSlot_bench (ch t : Nat) (inj : Bool) (x : Hoop) : (useSlot ch t inj x).bench = x.bench := by
  unfold useSlot
  simp only [↓Hoop.bench_mon, ↓Hoop.bench_ite, ite_self, ↓Hoop.updGroup_bench, ↓passConv_bench]

theorem paySettle_bench (ch : Nat) (c : Conv) (x : Hoop) : (paySettle ch c x).bench = x.bench := by
  unfold paySettle
  simp only [↓Hoop.updGroup_bench, ↓Hoop.updChan_bench, Chan.reading_mk, implies_true]

theorem spareOn_bench (c : Nat) (x : Hoop) : (spareOn c x).bench = x.bench :=
  Hoop.updChan_bench fun v => by split <;> rfl

theorem startTest_bench (c : Nat) (x : Hoop) : (startTest c x).bench = x.bench := by
  unfold startTest
  simp only [↓Hoop.bench_ite, ite_self, ↓spareOn_bench, ↓Hoop.updChan_bench, Chan.reading_mk, implies_true]

theorem spareFreed_bench (g : Nat) (x : Hoop) : (spareFreed g x).bench = x.bench := by
  unfold spareFreed
  repeat' split
  all_goals simp only [↓startTest_bench]

theorem giveBack_bench (c : Nat) (x : Hoop) : (giveBack c x).bench = x.bench := by
  unfold giveBack
  simp only [↓spareFreed_bench, ↓Hoop.updChan_bench, Chan.reading_mk, Chan.switched_reading, implies_true]

theorem heldReturn_bench (c : Nat) (x : Hoop) : (heldReturn c x).bench = x.bench := by
  unfold heldReturn
  simp only [↓Hoop.bench_ite, ite_self, ↓giveBack_bench]

theorem railCheck_bench (ch : Nat) (c : Conv) (x : Hoop) : (railCheck ch c x).bench = x.bench := by
  unfold railCheck
  simp only [↓Hoop.bench_ite, ite_self, ↓Hoop.setChan_bench, ↓startTest_bench, ↓Hoop.updChan_bench, Chan.reading_mk, implies_true]

theorem wordCompare_bench (ch : Nat) (w : Word) (x : Hoop) : (wordCompare ch w x).bench = x.bench := by
  unfold wordCompare
  simp only [↓Hoop.bench_bob, ↓Hoop.bench_ite, ite_self, ↓Hoop.updChan_bench, Chan.reading_mk, implies_true, ↓raiseEv_bench, ↓fault_bench]

end Sys2Proof.Machine
end

section
/-!
SUPPORT. One conversion of a monitor channel: the result entry that it leaves, the range that OVR asks for, and a hoop that follows the other's plane
(R182, R184, R187, R191, R194 to R196, R205, R239), and the statement O27.
-/

namespace Sys2Proof.Machine
open Sys2Proof

/-! ## The result word (R187) -/

/-- OVR is bit 18. -/
theorem resultWord_ovr {x : Hoop} {ch : Nat} {c : Conv} (h : c.ovr = true) : (resultWord x ch c).getLsbD 18 = true := by
  have hr : (x.chan ch).range.toNat < 4 := (x.chan ch).range.isLt
  unfold resultWord
  extract_lets v st nok
  rw [BitVec.getLsbD_ofNat, Nat.testBit_eq_decide_div_mod_eq]
  simp only [h, if_true, bit, v]
  generalize (x.chan ch).range.toNat = r at hr ⊢
  simp only [Nat.reducePow, Nat.reduceLT, decide_true, Bool.true_and, decide_eq_true_eq]
  omega

/-- A slot's start depends on the clock and on the refresh schedule's origin. -/
theorem convStart_congr {x y : Hoop} (htb : x.tb = y.tb) (hd : x.drv.calm = y.drv.calm) : convStart x = convStart y := by
  have hrun : x.drv.refRun = y.drv.refRun := (congrArg Drv.refRun hd :)
  have horigin : x.drv.refOrigin = y.drv.refOrigin := (congrArg Drv.refOrigin hd :)
  have hnow : x.now = y.now := congrArg Tb.now htb
  rw [convStart, convStart, hrun, horigin, hnow]

/-- A result word depends on the slot, on REF_OK, on its channel and on its group. -/
theorem resultWord_congr {x y : Hoop} {ch : Nat} (c : Conv) (hstart : convStart x = convStart y) (hok : x.mon.refOk = y.mon.refOk)
    (hchan : x.chan ch = y.chan ch) (hgroup : x.group (ch / 128) = y.group (ch / 128)) : resultWord x ch c = resultWord y ch c := by
  simp only [resultWord, settles, hstart, hok, hchan, hgroup]

theorem converts_congr {x y : Hoop} {ch : Nat} (hpart : x.part = y.part) (hchan : x.chan ch = y.chan ch)
    (hgroup : x.group (ch / 128) = y.group (ch / 128)) : converts x ch = converts y ch := by
  rw [converts, converts, hpart, hchan, hgroup]

/-! ## The steps of a conversion -/

/-- The entry takes its word and its stamp. -/
def putEntry (ch : Nat) (w : Word) (at_ : Stamp) (x : Hoop) : Hoop := x.updChan ch fun v => { v with word := w, stamp := at_ }

theorem putEntry_reading (ch : Nat) (w : Word) (at_ : Stamp) (x : Hoop) :
    ((putEntry ch w at_ x).chan ch).reading = { (x.chan ch).reading with word := w, stamp := at_ } :=
  congrArg Chan.reading (x.updChan_chan_self ch _)

/-- What a word sets off in the loops, the verdicts and the ledger. -/
def wordJobs (ch start : Nat) (u : Word) (x : Hoop) : Hoop :=
  let r := x.current u
  if wordValid u then
    let x := x.updChan ch (fun v => { v with good := u, goodAt := start })
    let awaited := x.thr.any (fun t => t.2.await.contains ch)
    let x := verdict ch r start x
    let x := if ch < x.nE then loopWord ch r awaited x else x
    ledgerConv ch r x
  else if ch < x.nE then loopNoWord ch x else x

theorem wordJobs_bench (ch start : Nat) (u : Word) (x : Hoop) : (wordJobs ch start u x).bench = x.bench := by
  unfold wordJobs
  simp only [↓Hoop.bench_ite, ite_self, ↓ledgerConv_bench, ↓loopWord_bench, ↓verdict_bench, ↓Hoop.updChan_bench, Chan.reading_mk, implies_true,
    ↓loopNoWord_bench]

/-- The conversion as its slot has it (R195, R196): injected only where the slot is the injected source's for this channel. -/
def inSlot (x : Hoop) (ch : Nat) (c : Conv) : Conv := { c with inj := c.inj && injTakes x ch (convStart x) }

/-- A conversion with its entry written and its jobs done, before the range and the front end are looked at. -/
def converted (ch : Nat) (c : Conv) (held : Option Word) (x : Hoop) : Hoop :=
  let w := resultWord x ch (inSlot x ch c)
  wordJobs ch (convStart x) (held.getD w) (countConv ch w (putEntry ch w (BitVec.ofNat 32 (convStart x + 120))
    (useSlot ch (convStart x) (inSlot x ch c).inj (paySettle ch (inSlot x ch c) x))))

theorem convert_eq {ch : Nat} {c : Conv} {held : Option Word} {x : Hoop} (h : converts x ch = true) : convert ch c held x =
    heldReturn ch (railCheck ch (inSlot x ch c) (autorange ch (resultWord x ch (inSlot x ch c)) (converted ch c held x))) :=
  if_neg (by simp [h])

theorem converted_reading (ch : Nat) (c : Conv) (held : Option Word) (x : Hoop) : ((converted ch c held x).chan ch).reading =
    { (x.chan ch).reading with word := resultWord x ch (inSlot x ch c), stamp := BitVec.ofNat 32 (convStart x + 120) } := by
  unfold converted
  extract_lets w
  rw [Hoop.reading_of_bench ((wordJobs_bench ..).trans (countConv_bench ..)), putEntry_reading,
    Hoop.reading_of_bench ((useSlot_bench ..).trans (paySettle_bench ..))]

/-! ## Autorange (R184) -/

theorem Hoop.setChan_reading (x : Hoop) (c : Nat) (v : Chan) : ((x.setChan c v).chan c).reading = v.reading := congrArg Chan.reading (smGet_smSet_self ..)

/-- Autorange writes the range alone. -/
theorem autorange_reading (ch : Nat) (w : Word) (x : Hoop) : ∃ r, ((autorange ch w x).chan ch).reading = { (x.chan ch).reading with range := r } := by
  unfold autorange
  extract_lets v code ovr up skip low
  split
  · exact ⟨_, rfl⟩
  · split
    · exact ⟨_, Hoop.setChan_reading ..⟩
    · split
      · exact ⟨_, Hoop.setChan_reading ..⟩
      · exact ⟨_, Hoop.setChan_reading ..⟩

/-- A channel in auto range that reads OVR goes up a range. -/
theorem autorange_up {ch : Nat} {w : Word} {x : Hoop} (ha : (x.chan ch).auto = true) (hr : (x.chan ch).range.toNat < 2) (ho : w.getLsbD 18 = true) :
    ((autorange ch w x).chan ch).range = (x.chan ch).range + 1 := by
  unfold autorange
  extract_lets v code ovr up skip low
  have hup : up = true := by simp [up, ovr, v, ho, hr]
  have hauto : ¬ (!v.auto) = true := by simp [v, ha]
  rw [if_neg hauto, if_pos hup]
  exact congrArg Chan.range (smGet_smSet_self ..)

/-! ## The conversion -/

/-- A conversion leaves its word and its stamp in the entry; after OVR a channel in auto range is one range up. -/
theorem convert_reading {ch : Nat} {c : Conv} {held : Option Word} {x : Hoop} (h : converts x ch = true) :
    ((convert ch c held x).chan ch).word = resultWord x ch (inSlot x ch c) ∧
    ((convert ch c held x).chan ch).stamp = BitVec.ofNat 32 (convStart x + 120) ∧
    (c.ovr = true → (x.chan ch).auto = true → (x.chan ch).range.toNat < 2 → ((convert ch c held x).chan ch).range = (x.chan ch).range + 1) := by
  have hafter : ((convert ch c held x).chan ch).reading =
      ((autorange ch (resultWord x ch (inSlot x ch c)) (converted ch c held x)).chan ch).reading := by
    rw [convert_eq h]
    exact Hoop.reading_of_bench ((heldReturn_bench ..).trans (railCheck_bench ..)) ch
  have hbefore := converted_reading ch c held x
  obtain ⟨r, hr⟩ := autorange_reading ch (resultWord x ch (inSlot x ch c)) (converted ch c held x)
  rw [hbefore] at hr
  have hentry := hafter.trans hr
  refine ⟨congrArg Reading.word hentry, congrArg Reading.stamp hentry, fun ho ha hlt => ?_⟩
  have hrange : ((converted ch c held x).chan ch).range = (x.chan ch).range := congrArg Reading.range hbefore
  have hauto : ((converted ch c held x).chan ch).auto = (x.chan ch).auto := congrArg Reading.auto hbefore
  have hup := autorange_up (hauto.trans ha) (by rwa [hrange]) (resultWord_ovr (x := x) (ch := ch) (c := inSlot x ch c) ho)
  rw [hrange] at hup
  exact (congrArg Reading.range hafter).trans hup

/-! ## One hoop of the module (R205, R239) -/

/-- The standby's comparison with the holder, and the plane's range where the other hoop writes it. -/
def followed (s : State) (h : HoopId) (ch : Nat) (x : Hoop) : Hoop :=
  let p := (s.hoop (other h)).chan ch
  let y := if Config.duplex s.a.part && (s.hoop h).pair.role == .standby then wordCompare ch p.word x else x
  if planeElsewhere s h then y.updChan ch (fun v => v.onPlane p) else y

/-- The holder's word, for a standby that has one to follow. -/
def heldWord (s : State) (h : HoopId) (ch : Nat) : Option Word :=
  if Config.duplex s.a.part && (s.hoop h).pair.role == .standby && ((s.hoop (other h)).chan ch).word != 0 then some ((s.hoop (other h)).chan ch).word
  else none

theorem convertIn_eq (h : HoopId) (ch : Nat) (c : Conv) (s : State) :
    convertIn h ch c s = s.upd h fun x => followed s h ch (convert ch c (heldWord s h ch) x) := by
  unfold convertIn followed
  extract_lets p held t u
  have hu : u = s.upd h fun x => if Config.duplex s.a.part && (s.hoop h).pair.role == .standby then wordCompare ch p.word (convert ch c held x)
      else convert ch c held x := by
    simp only [u, t]
    split
    · exact State.upd_upd ..
    · rfl
  rw [hu]
  split
  · exact State.upd_upd ..
  · rfl

theorem Chan.onPlane_entry (v p : Chan) : (v.onPlane p).word = v.word ∧ (v.onPlane p).stamp = v.stamp := by
  unfold Chan.onPlane
  split <;> exact ⟨rfl, rfl⟩

theorem followed_reading (s : State) (h : HoopId) (ch : Nat) (x : Hoop) :
    ((followed s h ch x).chan ch).word = (x.chan ch).word ∧ ((followed s h ch x).chan ch).stamp = (x.chan ch).stamp ∧
    (planeElsewhere s h = false → ((followed s h ch x).chan ch).range = (x.chan ch).range) := by
  unfold followed
  extract_lets p y
  have hy : (y.chan ch).reading = (x.chan ch).reading := by
    refine Hoop.reading_of_bench ?_ ch
    simp only [y, Hoop.bench_ite, wordCompare_bench, ite_self]
  split
  next helse =>
    rw [Hoop.updChan_chan_self]
    obtain ⟨hword, hstamp⟩ := Chan.onPlane_entry (y.chan ch) p
    exact ⟨hword.trans (congrArg Reading.word hy), hstamp.trans (congrArg Reading.stamp hy), fun hne => absurd (helse.symm.trans hne) (by decide)⟩
  · exact ⟨congrArg Reading.word hy, congrArg Reading.stamp hy, fun _ => congrArg Reading.range hy⟩

/-! ## The sweep (R194, R211) -/

/-- The sweep's own state is a mark in the monitor's block, and an event. -/
theorem sweepState_keeps {γ : Type} (p : Hoop → γ) (hp : ∀ y z : Hoop, y.calm = z.calm → p y = p z)
    (hm : ∀ (y : Hoop) b, p { y with mon := { y.mon with sweepDeferred := b } } = p y) (x : Hoop) : p (sweepState x) = p x := by
  unfold sweepState
  extract_lets n
  split
  · rfl
  · exact (hp _ _ (raiseEv_calm ..)).trans (hm x _)

/-- What a conversion reads of the hoop, the sweep's state leaves. -/
theorem sweepState_reads (x : Hoop) (ch : Nat) : convStart (sweepState x) = convStart x ∧ converts (sweepState x) ch = converts x ch ∧
    ∀ c, resultWord (sweepState x) ch c = resultWord x ch c := by
  have hpart := sweepState_keeps Hoop.part (fun _ _ h => Hoop.part_of_calm h) (fun _ _ => rfl) x
  have hchan := sweepState_keeps (·.chan ch) (fun _ _ h => Hoop.chan_of_mon (Hoop.mon_of_calm h) ch) (fun _ _ => rfl) x
  have hgroup := sweepState_keeps (·.group (ch / 128)) (fun _ _ h => Hoop.group_of_mon (Hoop.mon_of_calm h) _) (fun _ _ => rfl) x
  have hok := sweepState_keeps (·.mon.refOk) (fun _ _ h => congrArg Mon.refOk (Hoop.mon_of_calm h)) (fun _ _ => rfl) x
  have hstart := convStart_congr (sweepState_keeps Hoop.tb (fun _ _ h => Hoop.tb_of_calm h) (fun _ _ => rfl) x)
    (sweepState_keeps (·.drv.calm) (fun _ _ h => Hoop.drvCalm_of_calm h) (fun _ _ => rfl) x)
  exact ⟨hstart, converts_congr hpart hchan hgroup, fun c => resultWord_congr c hstart hok hchan hgroup⟩

theorem exec_telemetrySweep {s : State} {h : HoopId} {ch : Nat} {c : Conv} (hs : s.has h = true) (hp : Config.seqMode s.a.part = true)
    (hr : inRegular (s.hoop h) ch = false) : exec (.telemetrySweep h ch c) s = .next (s.act h fun x =>
      followed (s.upd h sweepState) h ch (convert ch { c with inj := false } (heldWord (s.upd h sweepState) h ch) (sweepState x))) := by
  have hgo : (Config.seqMode s.a.part && s.has h && !inRegular (s.hoop h) ch) = true := by simp [hs, hp, hr]
  refine congrArg (fun t => Host.Outcome.next (settle t)) ((if_pos hgo).trans ?_)
  rw [convertIn_eq, State.upd_upd]

/-! ## The statement -/

/-- Settles O27: a conversion leaves its reading in the monitor's block, which `settle` leaves alone. -/
theorem conversionRows : Obligations.ConversionRows := by
  unfold Obligations.ConversionRows
  refine ⟨?regular, ?sweep⟩
  case regular =>
    intro s h x ch c hx hconv
    refine gives_act (fun x => followed s h ch (convert ch c (heldWord s h ch) x)) hx
      (congrArg (fun t => Host.Outcome.next (settle t)) (convertIn_eq h ch c s)) fun y hy => ?_
    obtain ⟨hword, hstamp, hrange⟩ := convert_reading (c := c) (held := heldWord s h ch) hconv
    obtain ⟨fword, fstamp, frange⟩ := followed_reading s h ch (convert ch c (heldWord s h ch) x)
    rw [Hoop.chan_of_mon (Hoop.mon_of_calm hy)]
    exact ⟨fword.trans hword, fstamp.trans hstamp, fun ho ha hlt hplane => (frange hplane).trans (hrange ho ha hlt)⟩
  case sweep =>
    intro s h x ch c hx hconv hp hr
    obtain ⟨hs, rfl⟩ := hx
    refine gives_act _ ⟨hs, rfl⟩ (exec_telemetrySweep hs hp hr) fun y hy => ?_
    obtain ⟨hstart, hconvs, hres⟩ := sweepState_reads (s.hoop h) ch
    obtain ⟨hword, hstamp, -⟩ := convert_reading (c := { c with inj := false }) (held := heldWord (s.upd h sweepState) h ch) (hconvs.trans hconv)
    obtain ⟨fword, fstamp, -⟩ := followed_reading (s.upd h sweepState) h ch
      (convert ch { c with inj := false } (heldWord (s.upd h sweepState) h ch) (sweepState (s.hoop h)))
    rw [Hoop.chan_of_mon (Hoop.mon_of_calm hy)]
    exact ⟨fword.trans (hword.trans (hres _)), fstamp.trans (hstamp.trans (by rw [hstart]))⟩

end Sys2Proof.Machine
end

section
/-!
SUPPORT. The thermal unit: what its operations make of the zones, the diodes and the setpoint, and what of its two blocks telling, faults, the pricking
unit and the calibration leave alone (R242 to R272).
-/

namespace Sys2Proof.Machine
open Sys2Proof

/-! ## Zones -/

theorem Hoop.updZone_zone (x : Hoop) (z w : Bool) (f : Zone → Zone) :
    (x.updZone z f).tec.zone w = if w = z then f (x.tec.zone w) else x.tec.zone w := by
  cases z <;> cases w <;> rfl

@[simp] theorem Hoop.updZone_zone_self (x : Hoop) (z : Bool) (f : Zone → Zone) : (x.updZone z f).tec.zone z = f (x.tec.zone z) := by cases z <;> rfl

@[simp] theorem Hoop.updZone_zone_not (x : Hoop) (z : Bool) (f : Zone → Zone) : (x.updZone z f).tec.zone (!z) = x.tec.zone (!z) := by cases z <;> rfl

@[simp] theorem Hoop.updZone_ths (x : Hoop) (z : Bool) (f : Zone → Zone) : (x.updZone z f).ths = x.ths := by cases z <;> rfl

/-- The TEC block without its zones. -/
def Tec.plant (t : Tec) : Tec := { t with z0 := {}, z1 := {} }

@[simp] theorem Hoop.updZone_plant (x : Hoop) (z : Bool) (f : Zone → Zone) : (x.updZone z f).tec.plant = x.tec.plant := by cases z <;> rfl

/-- A zone whose drive rests has both outputs low (R260). -/
theorem Zone.pwm_rest {z : Zone} (h : z.running = false) (on : Bool) (now : Nat) : z.pwm on now = { z with fwd := false, rev := false } := by
  simp [Zone.pwm, h]

theorem Hoop.pwmPins_zone (x : Hoop) (z : Bool) : x.pwmPins.tec.zone z = (x.tec.zone z).pwm x.tec.drives x.now := by cases z <;> rfl

/-- Outputs held low: neither zone drives, and neither restarts (R257). -/
theorem holdLow_zone (x : Hoop) (z : Bool) :
    (holdLow x).tec.zone z = { x.tec.zone z with running := false, restart := false, fwd := false, rev := false } := by
  unfold holdLow
  rw [Hoop.pwmPins_zone]
  cases z <;> exact Zone.pwm_rest rfl ..

theorem holdLow_ths (x : Hoop) : (holdLow x).ths = x.ths := rfl

/-- One zone restarts at its next reload (R257). -/
def restartZone (z : Bool) (x : Hoop) : Hoop :=
  let err := zoneErr x z
  let c := (x.tec.zone z).coef
  let i := c.clamp (sat32 (-(zoneFf x z + qmul c.kpZ err)))
  writeDuty z (BitVec.ofNat 13 (x.tec.period.toNat / 2)) (x.updZone z fun v => { v with d := 0, errPrev := err, i := i, u := 0, restart := true })

theorem restartZones_eq (x : Hoop) : restartZones x = if !mayDrive x.tec then x else restartZone true (restartZone false x) := rfl

/-- The zone restarts at half duty with its drive and its derivative at 0; its trip and its bridge stand. -/
theorem restartZone_zone_self (z : Bool) (x : Hoop) : ∃ e i n m, (restartZone z x).tec.zone z = { x.tec.zone z with
    d := 0, errPrev := e, i := i, u := 0, restart := true, shadow := BitVec.ofNat 13 (x.tec.period.toNat / 2), shadowAt := n, shadowNext := m } := by
  unfold restartZone writeDuty
  simp only [Hoop.updZone_zone_self]
  exact ⟨_, _, _, _, rfl⟩

theorem restartZone_zone_not (z : Bool) (x : Hoop) : (restartZone z x).tec.zone (!z) = x.tec.zone (!z) := by
  unfold restartZone writeDuty
  simp only [Hoop.updZone_zone_not]

theorem restartZone_plant (z : Bool) (x : Hoop) : (restartZone z x).tec.plant = x.tec.plant := by
  unfold restartZone writeDuty
  simp only [Hoop.updZone_plant]

theorem Tec.period_of_plant {t u : Tec} (h : t.plant = u.plant) : t.period = u.period := (congrArg Tec.period h :)

/-- Where nothing holds the outputs low, both zones restart at half duty (R257). -/
theorem restartZones_zone {x : Hoop} (h : mayDrive x.tec = true) (z : Bool) : ∃ e i n m, (restartZones x).tec.zone z = { x.tec.zone z with
    d := 0, errPrev := e, i := i, u := 0, restart := true, shadow := BitVec.ofNat 13 (x.tec.period.toNat / 2), shadowAt := n, shadowNext := m } := by
  rw [restartZones_eq, if_neg (by simp [h])]
  cases z with
  | false =>
    rw [show false = !true from rfl, restartZone_zone_not]
    exact restartZone_zone_self false x
  | true =>
    have hp : (restartZone false x).tec.period = x.tec.period := Tec.period_of_plant (restartZone_plant ..)
    rw [← hp, show x.tec.zone true = (restartZone false x).tec.zone true from (restartZone_zone_not false x).symm]
    exact restartZone_zone_self true _

/-- A zone without what a restart sets: its trip and its bridge are left. -/
def Zone.stops (v : Zone) : Bool × Bool × BitVec 16 × BitVec 3 × Nat × Bool × Bool × Bool :=
  (v.trip, v.tripLive, v.tripCnt, v.brgLvl, v.brgSince, v.brgSd, v.brgFixed, v.brgWarn)

theorem restartZones_stops (x : Hoop) (z : Bool) : ((restartZones x).tec.zone z).stops = (x.tec.zone z).stops := by
  by_cases h : mayDrive x.tec = true
  · obtain ⟨e, i, n, m, hz⟩ := restartZones_zone h z
    rw [hz]
    rfl
  · rw [restartZones_eq, if_pos (by simpa using h)]

theorem restartZones_plant (x : Hoop) : (restartZones x).tec.plant = x.tec.plant := by
  rw [restartZones_eq]
  split
  · rfl
  · rw [restartZone_plant, restartZone_plant]

/-- Nothing but the enable, the debug halt, the trips and the bridges says whether the outputs may be driven. -/
theorem mayDrive_congr {t u : Tec} (hp : t.plant = u.plant) (hz : ∀ z, (t.zone z).stops = (u.zone z).stops) : mayDrive t = mayDrive u := by
  have hen : t.en = u.en := (congrArg Tec.en hp :)
  have hdbg : t.dbgHalt = u.dbgHalt := (congrArg Tec.dbgHalt hp :)
  have h0 := hz false
  have h1 := hz true
  simp only [Zone.stops, Tec.zone, Prod.mk.injEq, if_true, Bool.false_eq_true, if_false] at h0 h1
  obtain ⟨ht0, -, -, -, -, hs0, -, -⟩ := h0
  obtain ⟨ht1, -, -, -, -, hs1, -, -⟩ := h1
  simp only [mayDrive, hen, hdbg, ht0, ht1, hs0, hs1]

theorem mayDrive_restartZones (x : Hoop) : mayDrive (restartZones x).tec = mayDrive x.tec :=
  mayDrive_congr (restartZones_plant x) (restartZones_stops x)

theorem restartZone_rest (z : Bool) (x : Hoop) : (restartZone z x).ths = x.ths ∧ (restartZone z x).lines = x.lines := by
  cases z <;> exact ⟨rfl, rfl⟩

theorem restartZones_ths (x : Hoop) : (restartZones x).ths = x.ths := by
  rw [restartZones_eq]
  split
  · rfl
  · rw [(restartZone_rest ..).1, (restartZone_rest ..).1]

theorem restartZones_lines (x : Hoop) : (restartZones x).lines = x.lines := by
  rw [restartZones_eq]
  split
  · rfl
  · rw [(restartZone_rest ..).2, (restartZone_rest ..).2]

/-! ## A source released beside another (R278) -/

/-- The end of one source's condition leaves every other source as it was. -/
theorem faultOff_src_ne {k j : Nat} (x : Hoop) (h : j ≠ k) : (faultOff k x).src j = x.src j := by
  unfold faultOff
  extract_lets v
  split
  · rw [Hoop.src_of_lines (raiseEv_lines ..), Hoop.src_of_lines (jnlPut_lines ..)]
    exact smGet_smSet_ne _ _ _ _ h
  · rfl

/-! ## The thermal unit's blocks and the slice -/

/-- The TEC block, the sensors' block and the slice that drives. -/
structure Climate where
  tec : Tec
  ths : Ths
  slice : Slice

def Hoop.climate (x : Hoop) : Climate where
  tec := x.tec
  ths := x.ths
  slice := x.slice

theorem Hoop.climate_of_calm {x y : Hoop} (h : x.calm = y.calm) : x.climate = y.climate := by
  simp only [Hoop.climate, Hoop.tec_of_calm h, Hoop.ths_of_calm h, Hoop.slice_of_calm h]

theorem Hoop.tec_of_climate {x y : Hoop} (h : x.climate = y.climate) : x.tec = y.tec := congrArg Climate.tec h

theorem Hoop.ths_of_climate {x y : Hoop} (h : x.climate = y.climate) : x.ths = y.ths := congrArg Climate.ths h

/-- An update outside the two blocks and the slice. -/
theorem Hoop.climate_mk (x : Hoop) (part isB tb cm thr prk tmb drv prkSlice oldSlices rmap mon bob fc dk jnl hist led mbx evt pair wlm xbar pmc boot
    pwr settings calStore keeperImg mram mwrites bus freeIx) :
    (Hoop.mk part isB tb cm thr prk tmb drv x.slice prkSlice oldSlices rmap mon bob x.tec x.ths fc dk jnl hist led mbx evt pair wlm xbar pmc boot
      pwr settings calStore keeperImg mram mwrites bus freeIx).climate = x.climate := rfl

theorem Hoop.climate_ite (c : Prop) [Decidable c] (x y : Hoop) : (if c then x else y).climate = if c then x.climate else y.climate := apply_ite ..

theorem raiseEv_climate (src : Nat) (payload : List Nat) (sc : Scope) (x : Hoop) : (raiseEv src payload sc x).climate = x.climate :=
  Hoop.climate_of_calm (raiseEv_calm ..)

theorem fault_climate (s det : Nat) (x : Hoop) : (fault s det x).climate = x.climate := Hoop.climate_of_calm (fault_calm ..)

theorem faultOff_climate (s : Nat) (x : Hoop) : (faultOff s x).climate = x.climate := Hoop.climate_of_calm (faultOff_calm ..)

theorem postNormal_climate (o : TOp) (x : Hoop) : (postNormal o x).climate = x.climate := rfl

/-! ## The pricking unit and the calibration leave the thermal unit alone (R135, R200) -/

theorem armAt_climate (k ns : Nat) (x : Hoop) : (armAt k ns x).climate = x.climate := by
  rcases armAt_cases k ns x with ⟨c, l, h⟩ | ⟨p, h⟩
  · rw [h]
    rfl
  · rw [h]
    exact raiseEv_climate ..

theorem postPrk_climate (x : Hoop) : (postPrk x).climate = x.climate := by
  unfold postPrk
  simp only [apply_ite Hoop.climate, postNormal_climate]
  split
  · rfl
  · exact ite_self _

theorem restagePrk_climate (was : PNext) (x : Hoop) : (restagePrk was x).climate = x.climate := by
  unfold restagePrk armCount
  simp only [↓Hoop.climate_ite, ite_self, ↓postPrk_climate, ↓armAt_climate, ↓postNormal_climate]

theorem armStop_climate (temp : Bool) (x : Hoop) : (armStop temp x).climate = x.climate := by
  unfold armStop
  split
  · rfl
  · exact restagePrk_climate ..

theorem prkTempStop_climate (x : Hoop) : (prkTempStop x).climate = x.climate := by
  unfold prkTempStop
  simp only [↓Hoop.climate_ite, ite_self, ↓fault_climate, ↓armStop_climate]

theorem Hoop.updChan_climate (x : Hoop) (c : Nat) (f : Chan → Chan) : (x.updChan c f).climate = x.climate := rfl

theorem spareOn_climate (c : Nat) (x : Hoop) : (spareOn c x).climate = x.climate := rfl

theorem startTest_climate (c : Nat) (x : Hoop) : (startTest c x).climate = x.climate := by
  unfold startTest
  simp only [↓Hoop.climate_ite, ite_self, ↓Hoop.updChan_climate, ↓spareOn_climate]

theorem spareFreed_climate (g : Nat) (x : Hoop) : (spareFreed g x).climate = x.climate := by
  unfold spareFreed
  split
  · rfl
  · split
    · exact startTest_climate ..
    · rfl

theorem giveBack_climate (c : Nat) (x : Hoop) : (giveBack c x).climate = x.climate := spareFreed_climate ..

theorem calReturn_climate (c : Nat) (x : Hoop) : (calReturn c x).climate = x.climate := by
  unfold calReturn
  simp only [↓Hoop.climate_ite, ite_self, ↓Hoop.updChan_climate, ↓spareFreed_climate, ↓giveBack_climate]

theorem calAbandon_climate (q : Cal) (x : Hoop) : (calAbandon q x).climate = x.climate := by
  unfold calAbandon
  simp only [↓Hoop.climate_ite, ite_self, ↓Hoop.updChan_climate, ↓calReturn_climate]

theorem calBegin_climate (k : Option Nat) (retry : Bool) (x : Hoop) : (calBegin k retry x).climate = x.climate := by
  unfold calBegin
  split
  · rfl
  · simp only [↓Hoop.climate_mk, ↓Hoop.climate_ite, ite_self, ↓spareOn_climate]

theorem calWindow_climate (x : Hoop) : (calWindow x).climate = x.climate := by
  unfold calWindow
  split
  · rfl
  · simp only [↓Hoop.climate_mk, ↓Hoop.climate_ite, ite_self, ↓raiseEv_climate, ↓calAbandon_climate, ↓calBegin_climate]

/-! ## The gate, SETTLED and the setpoint (R249 to R252, R258) -/

/-- The last 100 means of both zones lie within 0.5 K of the setpoint. -/
def Tec.inBand (t : Tec) : Bool :=
  [t.z0, t.z1].all fun z => z.means.length == 100 && z.means.all fun m => decide ((m - (t.eff.toNat : Int)).natAbs ≤ 50)

theorem updSettled_climate (x : Hoop) : (updSettled x).climate = { x.climate with tec := { x.tec with settled := x.tec.inBand } } := by
  unfold updSettled
  extract_lets ok
  split
  next hsame => exact congrArg (fun b => { x.climate with tec := { x.tec with settled := b } }) (show x.tec.settled = x.tec.inBand from hsame.symm)
  next => exact raiseEv_climate ..

theorem updGate_climate (x : Hoop) : (updGate x).climate = { x.climate with ths := { x.ths with commitOk := gateOpen x } } := by
  unfold updGate
  extract_lets v ths y
  have hy : y.climate = { x.climate with ths := { x.ths with commitOk := gateOpen x } } := by
    show (if v = x.ths.commitOk then _ else _ : Hoop).climate = _
    split
    next hsame => exact congrArg (fun b => { x.climate with ths := { x.ths with commitOk := b } }) (show x.ths.commitOk = gateOpen x from hsame.symm)
    next => exact raiseEv_climate ..
  split
  · exact hy
  · exact (prkTempStop_climate y).trans hy

theorem updSettled_tec (x : Hoop) : (updSettled x).tec = { x.tec with settled := x.tec.inBand } := congrArg Climate.tec (updSettled_climate x)

theorem updSettled_ths (x : Hoop) : (updSettled x).ths = x.ths := congrArg Climate.ths (updSettled_climate x)

theorem updSettled_slice (x : Hoop) : (updSettled x).slice = x.slice := congrArg Climate.slice (updSettled_climate x)

theorem updGate_tec (x : Hoop) : (updGate x).tec = x.tec := congrArg Climate.tec (updGate_climate x)

theorem updGate_ths (x : Hoop) : (updGate x).ths = { x.ths with commitOk := gateOpen x } := congrArg Climate.ths (updGate_climate x)

theorem updGate_slice (x : Hoop) : (updGate x).slice = x.slice := congrArg Climate.slice (updGate_climate x)

/-- A rebuild leaves the two blocks. -/
theorem beginRebuild_blocks (x : Hoop) : (beginRebuild x).tec = x.tec ∧ (beginRebuild x).ths = x.ths := by
  unfold beginRebuild
  split <;> exact ⟨rfl, rfl⟩

/-- From 20 degrees the slice is rebuilt for the effective setpoint (R58). -/
theorem beginRebuild_slice {x : Hoop} (h : 2000 ≤ x.tec.eff.toNat) :
    (beginRebuild x).slice = { x.slice with rebuilding := true, rebuildTemp := x.tec.eff.toNat } := by
  have hwarm : ¬ (decide (x.tec.eff.toNat < 2000) && x.slice.built) = true := by simp [Nat.not_lt.mpr h]
  unfold beginRebuild
  rw [if_neg hwarm]
  simp only [Nat.max_eq_right h]

/-- The setpoint and the errors of both zones from it, before the slice follows. -/
def takeEff (v : Nat) (x : Hoop) : Hoop :=
  let y : Hoop := { x with tec := { x.tec with eff := BitVec.ofNat 16 v } }
  (y.updZone false fun q => { q with errPrev := zoneErr y false }).updZone true fun q => { q with errPrev := zoneErr y true }

theorem takeEff_tec (v : Nat) (x : Hoop) : (takeEff v x).tec = { x.tec with
    eff := BitVec.ofNat 16 v
    z0 := { x.tec.z0 with errPrev := kelvin (x.tec.z0.t - ((BitVec.ofNat 16 v).toNat : Int)) }
    z1 := { x.tec.z1 with errPrev := kelvin (x.tec.z1.t - ((BitVec.ofNat 16 v).toNat : Int)) } } := rfl

theorem setEff_same {v : Nat} {x : Hoop} (h : x.tec.eff = BitVec.ofNat 16 v) : setEff v x = x := if_pos h

theorem setEff_new {v : Nat} {x : Hoop} (h : x.tec.eff ≠ BitVec.ofNat 16 v) :
    setEff v x = updGate (updSettled (raiseEv 389 [v, x.tec.src.toNat] .hoop (beginRebuild (takeEff v x)))) := if_neg h

/-- A new setpoint: the TEC block takes it and SETTLED follows, and the slice begins to follow. -/
theorem setEff_new_blocks {v : Nat} {x : Hoop} (h : x.tec.eff ≠ BitVec.ofNat 16 v) :
    (setEff v x).tec = { (takeEff v x).tec with settled := (takeEff v x).tec.inBand } ∧ (setEff v x).slice = (beginRebuild (takeEff v x)).slice := by
  rw [setEff_new h, updGate_tec, updSettled_tec, raiseEv_tec, (beginRebuild_blocks _).1, updGate_slice, updSettled_slice, raiseEv_slice]
  exact ⟨rfl, rfl⟩

/-- The setpoint is the one that was set, whether it is new or not. -/
theorem setEff_tec (v : Nat) (x : Hoop) : (setEff v x).tec.eff = BitVec.ofNat 16 v ∧ (setEff v x).tec.src = x.tec.src ∧
    (setEff v x).tec.setpt = x.tec.setpt ∧ (setEff v x).tec.spLost = x.tec.spLost := by
  by_cases h : x.tec.eff = BitVec.ofNat 16 v
  · rw [setEff_same h]
    exact ⟨h, rfl, rfl, rfl⟩
  · rw [(setEff_new_blocks h).1]
    exact ⟨rfl, rfl, rfl, rfl⟩

/-- A valid source is not lost (R251); nothing else of the two blocks changes. -/
theorem spValid_climate (x : Hoop) : (spValid x).climate = { x.climate with tec := { x.tec with spLost := false } } := by
  unfold spValid
  split
  next => exact (raiseEv_climate ..).trans (faultOff_climate ..)
  next hl => exact congrArg (fun b => { x.climate with tec := { x.tec with spLost := b } }) (show x.tec.spLost = false by simpa using hl)

end Sys2Proof.Machine
end

section
/-!
SUPPORT. The Selda commands of the thermal unit (R243, R249, R255, R256, R260, R263, R264, R267), and the statement O33.
-/

namespace Sys2Proof.Machine
open Sys2Proof

/-! ## Fields and thresholds -/

/-- A field of three bytes, byte by byte. -/
theorem field_three (bs : Bytes) (off : Nat) : field bs off 3 = field bs off 1 + field bs (off + 1) 1 * 256 + field bs (off + 2) 1 * 65536 := by
  simp only [field, ← List.drop_drop]
  match bs.drop off with
  | [] => rfl
  | [a] => simp [leNat]
  | [a, b] => simp [leNat]; omega
  | a :: b :: c :: _ => simp [leNat]; omega

theorem field_one_lt (bs : Bytes) (off : Nat) : field bs off 1 < 256 := by
  unfold field
  match bs.drop off with
  | [] => decide
  | a :: _ => simpa [leNat] using a.isLt

/-- The low byte of a register is written, and the high one stands. -/
theorem lowByte_written (a : BitVec 16) {v : Nat} (h : v < 256) :
    ((a &&& 0xFF00) ||| BitVec.ofNat 16 v).toNat % 256 = v ∧ ((a &&& 0xFF00) ||| BitVec.ofNat 16 v).toNat / 256 = a.toNat / 256 := by
  have hv : v % 2 ^ 16 = v := Nat.mod_eq_of_lt (by omega)
  have ha : a.toNat / 256 < 2 ^ 8 := by have := a.isLt; omega
  have hn : ((a &&& 0xFF00) ||| BitVec.ofNat 16 v).toNat = (a.toNat &&& 0xFF00) ||| v := by
    rw [BitVec.toNat_or, BitVec.toNat_and, BitVec.toNat_ofNat, hv]
    rfl
  rw [hn]
  constructor
  · rw [show 256 = 2 ^ 8 from rfl, Nat.or_mod_two_pow, Nat.and_mod_two_pow]
    simpa using h
  · rw [show 256 = 2 ^ 8 from rfl] at ha ⊢
    rw [← Nat.shiftRight_eq_div_pow, Nat.shiftRight_or_distrib, Nat.shiftRight_and_distrib, Nat.shiftRight_eq_div_pow, Nat.shiftRight_eq_div_pow v,
      Nat.div_eq_of_lt h, Nat.or_zero]
    exact (Nat.and_two_pow_sub_one_eq_mod _ 8).trans (Nat.mod_eq_of_lt ha)

theorem highByte_written (a : BitVec 16) {v : Nat} (h : v < 256) :
    ((a &&& 0x00FF) ||| (BitVec.ofNat 16 v <<< 8)).toNat / 256 = v ∧ ((a &&& 0x00FF) ||| (BitVec.ofNat 16 v <<< 8)).toNat % 256 = a.toNat % 256 := by
  have hv : v % 2 ^ 16 = v := Nat.mod_eq_of_lt (by omega)
  have hn : ((a &&& 0x00FF) ||| (BitVec.ofNat 16 v <<< 8)).toNat = 2 ^ 8 * v + a.toNat % 2 ^ 8 := by
    rw [BitVec.toNat_or, BitVec.toNat_and, BitVec.toNat_shiftLeft, BitVec.toNat_ofNat, hv, Nat.shiftLeft_eq, Nat.mod_eq_of_lt (by omega), Nat.or_comm,
      Nat.mul_comm]
    refine (congrArg (_ ||| ·) (Nat.and_two_pow_sub_one_eq_mod a.toNat 8)).trans ?_
    exact (Nat.two_pow_add_eq_or_of_lt (Nat.mod_lt _ (by decide)) v).symm
  rw [hn]
  omega

/-! ## The effects of the commands -/

/-- The TEC block and the sensors' block after a command that is answered as an accepted change. -/
theorem accepted_blocks {k : Ctx} {w : Nat} {x y z : Hoop} (h : y.calm = (adminOk k x (storeSetting k w z)).2.calm) : y.tec = z.tec ∧ y.ths = z.ths :=
  ⟨(Hoop.tec_of_calm h).trans ((adminOk_tec ..).trans (storeSetting_tec ..)), (Hoop.ths_of_calm h).trans ((adminOk_ths ..).trans (storeSetting_ths ..))⟩

/-- The setpoint's source and value as SETPOINT writes them (R249). -/
def setpointTaken (k : Ctx) (x : Hoop) : Hoop :=
  let y : Hoop := { x with tec := { x.tec with src := BitVec.ofNat 2 (k.par 0 1), setpt := BitVec.ofNat 16 (k.par 1 2) } }
  if k.par 0 1 = 0 then setEff (k.par 1 2) (spValid y) else y

theorem setpointVerb_run (k : Ctx) (x : Hoop) : setpointVerb.run k x = adminOk k x (storeSetting k 0 (setpointTaken k x)) := rfl

theorem setpointTaken_tec (k : Ctx) (x : Hoop) : (setpointTaken k x).tec.src = BitVec.ofNat 2 (k.par 0 1) ∧
    (setpointTaken k x).tec.setpt = BitVec.ofNat 16 (k.par 1 2) ∧
    if k.par 0 1 = 0 then (setpointTaken k x).tec.eff = BitVec.ofNat 16 (k.par 1 2) ∧ (setpointTaken k x).tec.spLost = false
      else (setpointTaken k x).tec.eff = x.tec.eff := by
  unfold setpointTaken
  extract_lets tec y
  split
  · obtain ⟨heff, hsrc, hset, hlost⟩ := setEff_tec (k.par 1 2) (spValid y)
    have hv : (spValid y).tec = { y.tec with spLost := false } := congrArg Climate.tec (spValid_climate y)
    rw [hv] at hsrc hset hlost
    exact ⟨hsrc, hset, heff, hlost⟩
  · exact ⟨rfl, rfl, rfl⟩

/-- The trips of both zones cleared, before a restart (R263). -/
def untripped (x : Hoop) : Hoop := (x.updZone false fun v => { v with trip := false }).updZone true fun v => { v with trip := false }

/-- TRIP_CLEAR with both inputs high, before it is told (R263). -/
def tripsCleared (x : Hoop) : Hoop :=
  faultOff 131 (faultOff 132 (if x.tec.z0.trip || x.tec.z1.trip then restartZones (untripped x) else untripped x))

theorem tripClearVerb_live {k : Ctx} {x : Hoop} (h : (x.tec.z0.tripLive || x.tec.z1.tripLive) = true) :
    tripClearVerb.run k x = ({ status := 14 }, raiseEv 387 [0] .hoop x) := if_pos h

theorem tripClearVerb_clear {k : Ctx} {x : Hoop} (h : (x.tec.z0.tripLive || x.tec.z1.tripLive) = false) :
    tripClearVerb.run k x = adminOk k x (raiseEv 387 [1] .hoop (tripsCleared x)) := if_neg (by simp [h])

theorem tripsCleared_tec (x : Hoop) : (tripsCleared x).tec = (if x.tec.z0.trip || x.tec.z1.trip then restartZones (untripped x) else untripped x).tec := by
  rw [tripsCleared, faultOff_tec, faultOff_tec]

/-- No trip is left. -/
theorem tripsCleared_trip (x : Hoop) (z : Bool) : ((tripsCleared x).tec.zone z).trip = false := by
  have hz : ((untripped x).tec.zone z).trip = false := by cases z <;> rfl
  rw [tripsCleared_tec]
  split
  · exact (congrArg Prod.fst (restartZones_stops (untripped x) z)).trans hz
  · exact hz

/-- After a trip both zones restart at half duty (R257, R263). -/
theorem tripsCleared_restart {x : Hoop} (h : (x.tec.z0.trip || x.tec.z1.trip) = true) (hd : mayDrive (tripsCleared x).tec = true) (z : Bool) :
    ((tripsCleared x).tec.zone z).restart = true ∧ ((tripsCleared x).tec.zone z).u = 0 ∧
      ((tripsCleared x).tec.zone z).shadow = BitVec.ofNat 13 ((tripsCleared x).tec.period.toNat / 2) := by
  rw [tripsCleared_tec, if_pos h] at hd ⊢
  obtain ⟨e, i, n, m, hz⟩ := restartZones_zone ((mayDrive_restartZones _).symm.trans hd) z
  rw [hz, Tec.period_of_plant (restartZones_plant _)]
  exact ⟨rfl, rfl, rfl⟩

/-- Sources 131 and 132 are released (R263). -/
theorem tripsCleared_src (x : Hoop) : ((x.src 131).agree = false → ((tripsCleared x).src 131).live = false) ∧
    ((x.src 132).agree = false → ((tripsCleared x).src 132).live = false) := by
  unfold tripsCleared
  generalize hy : (if x.tec.z0.trip || x.tec.z1.trip then restartZones (untripped x) else untripped x) = y
  have hl : y.lines = x.lines := by
    rw [← hy]
    split
    · exact restartZones_lines _
    · rfl
  refine ⟨fun h => faultOff_not_live ?_, fun h => ?_⟩
  · rwa [faultOff_src_ne y (by decide), Hoop.src_of_lines hl]
  · rw [faultOff_src_ne _ (by decide)]
    exact faultOff_not_live (by rwa [Hoop.src_of_lines hl])

/-- TEC_ENABLE before it is told: with 1 the zones restart, with 0 the outputs go low and source 133 asserts (R264). -/
def tecEnabled (on : Bool) (x : Hoop) : Hoop :=
  let y : Hoop := { x with tec := { x.tec with en := on } }
  if on then (if x.tec.en then faultOff 133 y else restartZones (faultOff 133 y)) else fault 133 noDet (holdLow y)

theorem tecEnableVerb_calm (k : Ctx) (x : Hoop) : (tecEnableVerb.run k x).2.calm = (tecEnabled (k.par 0 1 == 1) x).calm := by
  refine (adminOk_calm ..).trans ?_
  split
  · rfl
  · exact raiseEv_calm ..

theorem tecEnableVerb_lines (k : Ctx) (x : Hoop) : (tecEnableVerb.run k x).2.lines = (tecEnabled (k.par 0 1 == 1) x).lines := by
  refine (adminOk_lines ..).trans ?_
  split
  · rfl
  · exact raiseEv_lines ..

theorem tecEnabled_on (x : Hoop) : (tecEnabled true x).tec.en = true ∧ ((x.src 133).agree = false → ((tecEnabled true x).src 133).live = false) := by
  let y : Hoop := { x with tec := { x.tec with en := true } }
  have hf : (faultOff 133 y).tec = y.tec := faultOff_tec ..
  have hs (h : (x.src 133).agree = false) : ((faultOff 133 y).src 133).live = false := faultOff_not_live h
  have hd : tecEnabled true x = if x.tec.en then faultOff 133 y else restartZones (faultOff 133 y) := rfl
  rw [hd]
  split
  · exact ⟨congrArg Tec.en hf, hs⟩
  · refine ⟨(congrArg Tec.en (restartZones_plant (faultOff 133 y)) :).trans (congrArg Tec.en hf), fun h => ?_⟩
    rw [Hoop.src_of_lines (restartZones_lines _)]
    exact hs h

theorem tecEnabled_restart {x : Hoop} (h : x.tec.en = false) (hd : mayDrive (tecEnabled true x).tec = true) (z : Bool) :
    ((tecEnabled true x).tec.zone z).restart = true ∧ ((tecEnabled true x).tec.zone z).d = 0 ∧
      ((tecEnabled true x).tec.zone z).shadow = BitVec.ofNat 13 ((tecEnabled true x).tec.period.toNat / 2) := by
  have he : tecEnabled true x = restartZones (faultOff 133 { x with tec := { x.tec with en := true } }) := if_neg (by simp [h])
  rw [he] at hd ⊢
  obtain ⟨e, i, n, m, hz⟩ := restartZones_zone ((mayDrive_restartZones _).symm.trans hd) z
  rw [hz, Tec.period_of_plant (restartZones_plant _)]
  exact ⟨rfl, rfl, rfl⟩

theorem tecEnabled_off (x : Hoop) : (tecEnabled false x).tec.en = false ∧ ((tecEnabled false x).src 133).live = true ∧
    ∀ z, ((tecEnabled false x).tec.zone z).running = false ∧ ((tecEnabled false x).tec.zone z).restart = false ∧
      ((tecEnabled false x).tec.zone z).fwd = false ∧ ((tecEnabled false x).tec.zone z).rev = false := by
  have he : tecEnabled false x = fault 133 noDet (holdLow { x with tec := { x.tec with en := false } }) := rfl
  refine ⟨?_, ?_, fun z => ?_⟩
  · rw [he, fault_tec]
    rfl
  · rw [he]
    exact fault_live noDet rfl
  · rw [he, fault_tec, holdLow_zone]
    exact ⟨rfl, rfl, rfl, rfl⟩

/-! ## The statement -/

theorem breakRun_src (r op : Nat) (x : Hoop) (k : Nat) : (breakRun r op x).src k = x.src k := congrArg (fun f : Fc => smGet ({} : Src) f.src k) (breakRun_fc ..)

/-- Settles O33: each command's own effect on the thermal unit's blocks, which its completion and `settle` leave alone, and on sources 131 to 133. -/
theorem thermalCommands : Obligations.ThermalCommands := by
  unfold Obligations.ThermalCommands
  refine ⟨?setpoint, ?drive, ?coef, ?refused, ?cleared, ?on, ?off, ?thresholds, ?model⟩
  case setpoint =>
    intro s h c p
    refine gives_serve p rfl fun y hy => ?_
    obtain ⟨hsrc, hset, heff⟩ := setpointTaken_tec (ctxOf s h 0 c) (breakRun 0 0x4A (s.hoop h))
    rw [(accepted_blocks hy).1]
    rw [breakRun_tec] at heff
    exact ⟨hsrc, hset, heff, setting_stored hy (passes_opcode p)⟩
  case drive =>
    intro s h c p
    refine gives_serve p rfl fun y hy => ⟨?_, setting_stored hy (passes_opcode p)⟩
    rw [(accepted_blocks hy).1, breakRun_tec]
    rfl
  case coef =>
    intro s h c z p hz
    refine gives_serve p rfl fun y hy => ?_
    subst hz
    rw [(accepted_blocks hy).1]
    have hx := congrArg Tec.zone (breakRun_tec 0 0x49 (s.hoop h))
    rw [← hx]
    exact ⟨Hoop.updZone_zone_self .., Hoop.updZone_zone_not ..⟩
  case refused =>
    intro s h c p hl
    refine gives_serve p rfl fun y hy => ?_
    rw [ran, tripClearVerb_live (by rwa [breakRun_tec])] at hy
    rw [Hoop.tec_of_calm hy, raiseEv_tec, breakRun_tec]
  case cleared =>
    intro s h c p hl
    refine gives_serve_lines p rfl fun y hy hlines => ?_
    rw [ran, tripClearVerb_clear (by rwa [breakRun_tec])] at hy hlines
    have ht : y.tec = (tripsCleared (breakRun 0 0x4C (s.hoop h))).tec := by rw [Hoop.tec_of_calm hy, adminOk_tec, raiseEv_tec]
    have hs (k : Nat) : y.src k = (tripsCleared (breakRun 0 0x4C (s.hoop h))).src k := Hoop.src_of_lines (by rw [hlines, adminOk_lines, raiseEv_lines]) k
    obtain ⟨h131, h132⟩ := tripsCleared_src (breakRun 0 0x4C (s.hoop h))
    rw [breakRun_src] at h131 h132
    rw [ht, hs, hs, ← breakRun_tec 0 0x4C (s.hoop h)]
    exact ⟨tripsCleared_trip _ false, tripsCleared_trip _ true, h131, h132, tripsCleared_restart⟩
  case on =>
    intro s h c p hone
    refine gives_serve_lines p rfl fun y hy hlines => ?_
    have hon : ((ctxOf s h 0 c).par 0 1 == 1) = true := beq_iff_eq.mpr hone
    have ht := Hoop.tec_of_calm (hy.trans (tecEnableVerb_calm ..))
    have hs := Hoop.src_of_lines (hlines.trans (tecEnableVerb_lines ..)) 133
    rw [hon] at ht hs
    obtain ⟨hen, hsrc⟩ := tecEnabled_on (breakRun 0 0x4B (s.hoop h))
    rw [breakRun_src] at hsrc
    rw [ht, hs, ← breakRun_tec 0 0x4B (s.hoop h)]
    exact ⟨hen, hsrc, tecEnabled_restart⟩
  case off =>
    intro s h c p hzero
    refine gives_serve_lines p rfl fun y hy hlines => ?_
    have hoff : ((ctxOf s h 0 c).par 0 1 == 1) = false := beq_false_of_ne fun h1 => absurd (hzero.symm.trans h1) (by decide)
    have ht := Hoop.tec_of_calm (hy.trans (tecEnableVerb_calm ..))
    have hs := Hoop.src_of_lines (hlines.trans (tecEnableVerb_lines ..)) 133
    rw [hoff] at ht hs
    rw [ht, hs]
    exact tecEnabled_off _
  case thresholds =>
    intro s h c p
    refine gives_serve p rfl fun y hy => ?_
    have hlow := lowByte_written (s.hoop h).ths.auxThr (field_one_lt (paramOf c.bytes) 1)
    have hhigh := highByte_written (s.hoop h).ths.auxThr (field_one_lt (paramOf c.bytes) 1)
    have ht := (accepted_blocks hy).2
    rw [breakRun_ths] at ht
    rw [ht, field_three]
    refine ⟨fun h0 => ?_, fun h1 => ?_, fun h2 => ?_, fun h3 => ?_, fun h4 => ?_⟩
    · simp only [Ctx.par, ctxOf, h0]
    · simp only [Ctx.par, ctxOf, h1]
    · simp only [Ctx.par, ctxOf, h2]
    · simp only [Ctx.par, ctxOf, h3]
      exact hlow
    · simp only [Ctx.par, ctxOf, h4]
      exact hhigh
  case model =>
    intro s h c m p hm
    subst hm
    refine gives_serve p rfl fun y hy => ?_
    rw [(accepted_blocks hy).2, breakRun_ths]
    rfl

end Sys2Proof.Machine
end

section
/-!
SUPPORT. The comparison of the hoops and the debug halts (R265, R314, R317, R318, R473), and the statement O47.
-/

namespace Sys2Proof.Machine
open Sys2Proof

/-! ## Parts of the pair unit and of start-up that `settle` leaves alone -/

theorem Hoop.cmpMis_of_calm {x y : Hoop} (h : x.calm = y.calm) : x.pair.cmpMis = y.pair.cmpMis := by
  have e := congrArg (fun z : Hoop => z.pair.cmpMis) h
  exact e

theorem Hoop.health_of_calm {x y : Hoop} (h : x.calm = y.calm) : x.pair.health = y.pair.health ∧ x.pair.peerHealth = y.pair.peerHealth := by
  have e := congrArg (fun z : Hoop => (z.pair.health, z.pair.peerHealth)) h
  exact Prod.mk.inj e

theorem Hoop.coresHalted_of_calm {x y : Hoop} (h : x.calm = y.calm) : x.boot.coresHalted = y.boot.coresHalted := by
  have e := congrArg (fun z : Hoop => z.boot.coresHalted) h
  exact e

/-! ## Both hoops of a pair -/

theorem has_duplex {s : State} (hd : Config.duplex s.a.part = true) (h : HoopId) : s.has h = true := by
  cases h with
  | hoopA => rfl
  | hoopB => exact hd

theorem State.hoops_duplex {s : State} (hd : Config.duplex s.a.part = true) : s.hoops = [.hoopA, .hoopB] := if_pos hd

theorem State.hoops_single {s : State} (hd : Config.duplex s.a.part = false) : s.hoops = [.hoopA] := if_neg (by simp [hd])

/-- Effects on both hoops, one after the other. -/
theorem upd_both {s : State} (hd : Config.duplex s.a.part = true) {f : Hoop → Hoop} (g : Hoop → Hoop) (hf : (f s.a).part = s.a.part) :
    (s.upd .hoopA f).upd .hoopB g = { s with a := f s.a, b := g s.b } := by
  have ha : s.upd .hoopA f = { s with a := f s.a } := if_pos rfl
  rw [ha]
  exact if_pos (show Config.duplex (f s.a).part = true by rw [hf, hd])

/-- One effect on every hoop of a pair. -/
theorem upd_all {s : State} (hd : Config.duplex s.a.part = true) {f : Hoop → Hoop} (hf : (f s.a).part = s.a.part) :
    s.hoops.foldl (fun s k => s.upd k f) s = { s with a := f s.a, b := f s.b } := by
  rw [State.hoops_duplex hd]
  exact upd_both hd f hf

/-! ## HEALTH_SCORE (R318) -/

/-- A score noted. -/
def noteScore (w : BitVec 16) (x : Hoop) : Hoop := { x with pair := { x.pair with health := w } }

theorem noteScore_health (w : BitVec 16) (x : Hoop) : (noteScore w x).pair.health = w := rfl

theorem noteScore_part (w : BitVec 16) (x : Hoop) : (noteScore w x).part = x.part := rfl

/-- Each hoop notes its own score. -/
def scored (s : State) : State := s.hoops.foldl (fun s h => s.upd h fun x => noteScore (healthOf x) x) s

/-- Each hoop of a pair takes the other's score. -/
def scoresPassed (s : State) : State :=
  if Config.duplex s.a.part then
    (s.upd .hoopA fun x => { x with pair := { x.pair with peerHealth := s.b.pair.health } }).upd .hoopB fun x =>
      { x with pair := { x.pair with peerHealth := s.a.pair.health } }
  else s

theorem exec_healthScore (s : State) : exec .healthScore s = .next (settle (scoresPassed (scored s))) := rfl

theorem noteScore_site (w : BitVec 16) (x : Hoop) : (noteScore w x).site = x.site := rfl

theorem scored_part (s : State) : (scored s).a.part = s.a.part := by
  have hf : (scored s).frame = s.frame := State.frame_foldl _ (fun s h => State.upd_frame s h _ fun _ => noteScore_site ..) _ s
  exact congrArg (fun q => q.2.1.1) hf

theorem scored_health {s : State} {h : HoopId} (hs : s.has h = true) : ((scored s).hoop h).pair.health = healthOf (s.hoop h) := by
  unfold scored
  cases hd : Config.duplex s.a.part with
  | true =>
    rw [upd_all hd (f := fun x => noteScore (healthOf x) x) (noteScore_part ..)]
    cases h <;> exact noteScore_health ..
  | false =>
    rw [State.hoops_single hd]
    cases h with
    | hoopA => exact noteScore_health ..
    | hoopB => exact absurd (hd.symm.trans hs) (by decide)

/-- The scores pass to the peer, and each hoop keeps its own. -/
theorem scoresPassed_health (s : State) (h : HoopId) : ((scoresPassed s).hoop h).pair.health = (s.hoop h).pair.health ∧
    (Config.duplex s.a.part = true → ((scoresPassed s).hoop h).pair.peerHealth = (s.hoop (other h)).pair.health) := by
  unfold scoresPassed
  split
  next hd =>
    rw [upd_both hd _ rfl]
    cases h <;> exact ⟨rfl, fun _ => rfl⟩
  next hs => exact ⟨rfl, fun hd => absurd hd hs⟩

/-! ## PATCH_COMPARE (R317) -/

theorem patchCompare_runs {s : State} (hd : Config.duplex s.a.part = true) (ha : s.a.boot.fwRun = true) (hb : s.b.boot.fwRun = true) :
    patchCompare s = if samePatch s.a s.b then s.hoops.foldl (fun s k => s.upd k fun x => faultOff 162 x) s
      else s.upd (patchLoser s) fun x => fault 162 noDet (noteMismatch 3 0 x) := if_neg (by simp [hd, ha, hb])

/-- A mismatch is counted and told (R317). -/
theorem noteMismatch_cmpMis (item what : Nat) (x : Hoop) : (noteMismatch item what x).pair.cmpMis = satInc x.pair.cmpMis :=
  Hoop.cmpMis_of_calm (raiseEv_calm ..)

/-- Equal patches end source 162 in both hoops. -/
theorem patchesSame_src {s : State} (hd : Config.duplex s.a.part = true) {h : HoopId} (ha : ((s.hoop h).src 162).agree = false) :
    (((s.hoops.foldl (fun s k => s.upd k fun x => faultOff 162 x) s).hoop h).src 162).live = false := by
  rw [upd_all hd (faultOff_part ..)]
  cases h <;> exact faultOff_not_live ha

/-! ## INTAKE_TIMEOUT (R314) -/

/-- A digest that has waited 50 us at the standby: the mismatch is counted, and source 160 asserts. -/
theorem intakeTimeout_old {x : Hoop} {d : Digest} (hr : x.pair.role = .standby)
    (hd : x.pair.awaiting.find? (fun d => decide (d.sentAt + 50000 ≤ x.now)) = some d) :
    ((intakeTimeout x).src 160).live = true ∧ (intakeTimeout x).pair.cmpMis = satInc x.pair.cmpMis := by
  unfold intakeTimeout
  simp only [hd]
  rw [if_pos ⟨hr, .inl rfl⟩]
  exact ⟨fault_live noDet rfl, (Hoop.cmpMis_of_calm (fault_calm ..)).trans (noteMismatch_cmpMis ..)⟩

/-! ## Debug halts (R265, R473) -/

/-- The core is noted as halted. -/
def coreHalted (core : Nat) (x : Hoop) : Hoop := { x with boot := { x.boot with coresHalted := x.boot.coresHalted ++ [core] } }

theorem debugHalt_runs {core : Nat} {x : Hoop} (hc : core < 2) (hn : x.boot.coresHalted.contains core = false) : debugHalt core x =
    if x.holds then raiseEv 388 [core] .hoop (holdLow { coreHalted core x with tec := { x.tec with dbgHalt := true } })
    else if x.pair.role = .standby then fault 160 noDet (coreHalted core x) else coreHalted core x := by
  refine if_neg ?_
  rw [hn]
  simpa using hc

/-- Every core runs again, before the outputs restart. -/
def coresRun (x : Hoop) : Hoop := { x with boot := { x.boot with coresHalted := [] }, tec := { x.tec with dbgHalt := false } }

theorem debugResume_halted {x : Hoop} (h : x.boot.coresHalted ≠ []) : ∃ core, debugResume x =
    if x.tec.dbgHalt then raiseEv 388 [core] .hoop (restartZones (coresRun x)) else faultOff 160 (coresRun x) := by
  unfold debugResume
  split
  next hnone => exact absurd (List.getLast?_eq_none_iff.mp hnone) h
  next core _ => exact ⟨core, rfl⟩

theorem restartZones_boot (x : Hoop) : (restartZones x).boot = x.boot := by
  rw [restartZones_eq]
  split <;> rfl

/-- The end of the halt: the outputs that it held low restart, or the standby's source 160 ends. -/
theorem debugResume_effect {x : Hoop} (h : x.boot.coresHalted ≠ []) : (debugResume x).boot.coresHalted = [] ∧ (debugResume x).tec.dbgHalt = false ∧
    if x.tec.dbgHalt then mayDrive (debugResume x).tec = true → ∀ z, ((debugResume x).tec.zone z).restart = true
      else (x.src 160).agree = false → ((debugResume x).src 160).live = false := by
  obtain ⟨core, he⟩ := debugResume_halted h
  rw [he]
  split
  next =>
    rw [raiseEv_tec]
    refine ⟨(Hoop.coresHalted_of_calm (raiseEv_calm ..)).trans (congrArg Boot.coresHalted (restartZones_boot _)),
      (congrArg Tec.dbgHalt (restartZones_plant _) :), fun hd z => ?_⟩
    obtain ⟨e, i, n, m, hz⟩ := restartZones_zone ((mayDrive_restartZones _).symm.trans hd) z
    rw [hz]
  next =>
    rw [faultOff_tec]
    exact ⟨Hoop.coresHalted_of_calm (faultOff_calm ..), rfl, fun ha => faultOff_not_live ha⟩

/-! ## The statement -/

/-- Settles O47: each row's own operation on the pair unit, the TEC block and start-up, read through what `settle` leaves of them, with sources 160 and
162 of the fault collector. -/
theorem pairWatchRows : Obligations.PairWatchRows := by
  unfold Obligations.PairWatchRows
  refine ⟨?health, ?patch, ?intake, ?halt, ?haltStandby, ?resume⟩
  case health =>
    intro s
    have hy (h : HoopId) := Hoop.health_of_calm (settle_calm (scoresPassed (scored s)) h)
    refine ⟨_, exec_healthScore s, fun h hs => ?_, fun hd h => ?_⟩
    · exact (hy h).1.trans ((scoresPassed_health ..).1.trans (scored_health hs))
    · exact (hy h).2.trans (((scoresPassed_health ..).2 (by rwa [scored_part])).trans (scored_health (has_duplex hd _)))
  case patch =>
    intro s hd ha hb
    refine ⟨_, rfl, ?_⟩
    rw [patchCompare_runs hd ha hb]
    split
    next =>
      intro h hag
      rw [Hoop.src_of_lines (settle_lines ..)]
      exact patchesSame_src hd hag
    next =>
      rw [Hoop.src_of_lines (settle_lines ..), Hoop.cmpMis_of_calm (settle_calm ..), State.upd_self _ _ _ (has_duplex hd _)]
      exact ⟨fault_live noDet rfl, (Hoop.cmpMis_of_calm (fault_calm ..)).trans (noteMismatch_cmpMis ..)⟩
  case intake =>
    intro s h x d e hr hd
    refine gives_act_lines intakeTimeout e rfl fun y hy hl => ?_
    rw [Hoop.src_of_lines hl, Hoop.cmpMis_of_calm hy]
    exact intakeTimeout_old hr hd
  case halt =>
    intro s h x core e hc hn hh
    refine gives_act (debugHalt core) e rfl fun y hy => ?_
    rw [debugHalt_runs hc hn, if_pos hh] at hy
    rw [Hoop.tec_of_calm hy, Hoop.coresHalted_of_calm (hy.trans (raiseEv_calm ..)), raiseEv_tec]
    refine ⟨rfl, rfl, fun z => ?_⟩
    rw [holdLow_zone]
    exact ⟨rfl, rfl, rfl⟩
  case haltStandby =>
    intro s h x core e hc hn hh hr
    refine gives_act_lines (debugHalt core) e rfl fun y hy hl => ?_
    rw [debugHalt_runs hc hn, hh, if_neg Bool.false_ne_true, if_pos hr] at hy hl
    rw [Hoop.src_of_lines hl, Hoop.tec_of_calm hy, Hoop.coresHalted_of_calm (hy.trans (fault_calm ..)), fault_tec]
    exact ⟨fault_live noDet rfl, rfl, rfl⟩
  case resume =>
    intro s h x e hne
    refine gives_act_lines debugResume e rfl fun y hy hl => ?_
    rw [Hoop.src_of_lines hl, Hoop.tec_of_calm hy, Hoop.coresHalted_of_calm hy]
    exact debugResume_effect hne

end Sys2Proof.Machine
end

section
/-!
SUPPORT. The readings of the thermal unit: diodes one after the other, warnings and levels, which leave the readings, the thermistors' faults and the
bridges (R242 to R247, R258, R267 to R271).
-/

namespace Sys2Proof.Machine
open Sys2Proof

/-! ## Diodes one after the other -/

theorem Hoop.updDiode_diode_self (x : Hoop) (j : Nat) (f : Diode → Diode) : (x.updDiode j f).diode j = f (x.diode j) := smGet_smSet_self ..

theorem Hoop.updDiode_diode_ne (x : Hoop) {j k : Nat} (f : Diode → Diode) (h : j ≠ k) : (x.updDiode k f).diode j = x.diode j :=
  smGet_smSet_ne _ _ _ _ h

theorem Hoop.diode_of_ths {x y : Hoop} (h : x.ths = y.ths) (j : Nat) : x.diode j = y.diode j := congrArg (fun t : Ths => smGet ({} : Diode) t.diodes j) h

/-- Steps that each change the place of their own key alone, as `f` says: the place of every key of the list is changed once. -/
theorem foldl_at {α β : Type} (get : Hoop → Nat → β) (key : α → Nat) (f : α → β → β) {step : Hoop → α → Hoop}
    (hself : ∀ x a, get (step x a) (key a) = f a (get x (key a))) (hne : ∀ x a j, j ≠ key a → get (step x a) j = get x j)
    {l : List α} (hl : (l.map key).Nodup) (x : Hoop) {a : α} (ha : a ∈ l) : get (l.foldl step x) (key a) = f a (get x (key a)) := by
  have hkeep (l : List α) (x : Hoop) (j : Nat) (hj : j ∉ l.map key) : get (l.foldl step x) j = get x j := by
    induction l generalizing x with
    | nil => rfl
    | cons b l ih =>
      rw [List.map_cons, List.mem_cons, not_or] at hj
      exact (ih _ hj.2).trans (hne x b j hj.1)
  induction l generalizing x with
  | nil => exact absurd ha List.not_mem_nil
  | cons b l ih =>
    obtain ⟨hb, hl⟩ := List.nodup_cons.mp hl
    rcases List.mem_cons.mp ha with rfl | ha
    · exact (hkeep l _ _ hb).trans (hself x a)
    · have hab : key a ≠ key b := fun h => hb (h ▸ List.mem_map_of_mem ha)
      rw [List.foldl_cons, ih hl _ ha, hne x b _ hab]

/-- The same over the numbers below a bound. -/
theorem foldl_range_at {β : Type} (get : Hoop → Nat → β) (f : Nat → β → β) {step : Hoop → Nat → Hoop}
    (hself : ∀ x j, get (step x j) j = f j (get x j)) (hne : ∀ x k j, j ≠ k → get (step x k) j = get x j) {n j : Nat} (h : j < n) (x : Hoop) :
    get ((List.range n).foldl step x) j = f j (get x j) :=
  foldl_at get id f hself hne (by rw [List.map_id]; exact List.nodup_range) x (List.mem_range.mpr h)

/-- The sensors' block without its diodes. -/
def Ths.board (t : Ths) : Ths := { t with diodes := [] }

/-- One update of each diode. -/
def updDiodes (f : Nat → Diode → Diode) (x : Hoop) : Hoop := (List.range 32).foldl (fun y j => y.updDiode j (f j)) x

theorem updDiodes_diode (f : Nat → Diode → Diode) (x : Hoop) {j : Nat} (h : j < 32) : (updDiodes f x).diode j = f j (x.diode j) :=
  foldl_range_at Hoop.diode f (fun y k => Hoop.updDiode_diode_self y k _) (fun y _ _ hj => y.updDiode_diode_ne _ hj) h x

/-- What an update of a diode keeps, the updates of all keep. -/
theorem updDiodes_keeps {γ : Type} (p : Hoop → γ) (h : ∀ y j g, p (y.updDiode j g) = p y) (f : Nat → Diode → Diode) (x : Hoop) :
    p (updDiodes f x) = p x := by
  unfold updDiodes
  exact foldl_keeps p _ (fun y j => h y j (f j)) _ x

theorem updDiodes_tec (f : Nat → Diode → Diode) (x : Hoop) : (updDiodes f x).tec = x.tec := updDiodes_keeps Hoop.tec Hoop.updDiode_tec f x

/-! ## Readings: the blocks without warnings, levels and shut-downs -/

def Zone.sensed (v : Zone) : Zone := { v with brgLvl := 0, brgSince := 0, brgSd := false, brgFixed := false, brgWarn := false }

def Tec.sensed (t : Tec) : Tec := { t with z0 := t.z0.sensed, z1 := t.z1.sensed }

def Ths.sensed (t : Ths) : Ths :=
  { t with
    jctWarn := false, latWarn := false, coldWarn := false, ambWarn := false, latLvl := 0, jctLvl := 0, latSince := 0, jctSince := 0
    latSd := false, jctSd := false }

/-- What the thermal unit has read, and what it makes of that beside warnings, levels and shut-downs. -/
structure Readings where
  tec : Tec
  ths : Ths

def Hoop.readings (x : Hoop) : Readings where
  tec := x.tec.sensed
  ths := x.ths.sensed

theorem Hoop.readings_of_climate {x y : Hoop} (h : x.climate = y.climate) : x.readings = y.readings := by
  simp only [Hoop.readings, Hoop.tec_of_climate h, Hoop.ths_of_climate h]

theorem Hoop.readings_of_calm {x y : Hoop} (h : x.calm = y.calm) : x.readings = y.readings := Hoop.readings_of_climate (Hoop.climate_of_calm h)

theorem Hoop.readings_ite (c : Prop) [Decidable c] (x y : Hoop) : (if c then x else y).readings = if c then x.readings else y.readings := apply_ite ..

theorem raiseEv_readings (src : Nat) (payload : List Nat) (sc : Scope) (x : Hoop) : (raiseEv src payload sc x).readings = x.readings :=
  Hoop.readings_of_calm (raiseEv_calm ..)

theorem fault_readings (s det : Nat) (x : Hoop) : (fault s det x).readings = x.readings := Hoop.readings_of_calm (fault_calm ..)

theorem faultOff_readings (s : Nat) (x : Hoop) : (faultOff s x).readings = x.readings := Hoop.readings_of_calm (faultOff_calm ..)

/-- A zone that keeps its readings. -/
theorem Hoop.updZone_readings {x : Hoop} {z : Bool} {f : Zone → Zone} (h : ∀ v, (f v).sensed = v.sensed) : (x.updZone z f).readings = x.readings := by
  cases z with
  | false => exact congrArg (fun v => { x.readings with tec := { x.tec.sensed with z0 := v } }) (h _)
  | true => exact congrArg (fun v => { x.readings with tec := { x.tec.sensed with z1 := v } }) (h _)

/-! ## Warnings and levels (R267 to R269) -/

theorem tellWarn_climate (grp : Nat) (old new : Bool) (reading : Int) (any : Bool) (x : Hoop) : (tellWarn grp old new reading any x).climate = x.climate := by
  unfold tellWarn
  simp only [↓Hoop.climate_ite, ite_self, ↓raiseEv_climate, ↓fault_climate, ↓faultOff_climate]

theorem writeCeil_climate (x : Hoop) : (writeCeil x).climate = x.climate := rfl

/-- A level and the count of its step are written, before anything is told (R268). -/
def putLvl (g v : Nat) (x : Hoop) : Hoop :=
  match g with
  | 0 => { x with ths := { x.ths with jctLvl := BitVec.ofNat 3 v, jctSince := x.now } }
  | 1 => { x with ths := { x.ths with latLvl := BitVec.ofNat 3 v, latSince := x.now } }
  | 2 => x.updZone false fun z => { z with brgLvl := BitVec.ofNat 3 v, brgSince := x.now }
  | _ => x.updZone true fun z => { z with brgLvl := BitVec.ofNat 3 v, brgSince := x.now }

/-- What follows a level that has changed: source 136 and event 396. -/
def tellLvl (g v old : Nat) (x : Hoop) : Hoop :=
  raiseEv 396 [g, v] .hoop (if old = 0 then fault 136 g x else if (List.range 4).all (fun k => lvlOf x k == 0) then faultOff 136 x else x)

theorem setLvl_eq (g v : Nat) (x : Hoop) : setLvl g v x = if lvlOf x g = v then putLvl g v x
    else if g < 2 then writeCeil (tellLvl g v (lvlOf x g) (putLvl g v x)) else tellLvl g v (lvlOf x g) (putLvl g v x) := rfl

theorem tellLvl_calm (g v old : Nat) (x : Hoop) : (tellLvl g v old x).calm = x.calm := by
  unfold tellLvl
  simp only [apply_ite Hoop.calm, raiseEv_calm, fault_calm, faultOff_calm, ite_self]

theorem tellLvl_climate (g v old : Nat) (x : Hoop) : (tellLvl g v old x).climate = x.climate := Hoop.climate_of_calm (tellLvl_calm ..)

/-- A level that is set is written. -/
theorem setLvl_climate (g v : Nat) (x : Hoop) : (setLvl g v x).climate = (putLvl g v x).climate := by
  rw [setLvl_eq]
  simp only [↓Hoop.climate_ite, ite_self, ↓writeCeil_climate, ↓tellLvl_climate]

theorem putLvl_readings (g v : Nat) (x : Hoop) : (putLvl g v x).readings = x.readings := by
  unfold putLvl
  split
  · rfl
  · rfl
  · exact Hoop.updZone_readings fun _ => rfl
  · exact Hoop.updZone_readings fun _ => rfl

theorem setLvl_readings (g v : Nat) (x : Hoop) : (setLvl g v x).readings = x.readings :=
  (Hoop.readings_of_climate (setLvl_climate g v x)).trans (putLvl_readings g v x)

theorem holdLvl_readings (g : Nat) (x : Hoop) : (holdLvl g x).readings = x.readings := by
  unfold holdLvl
  split
  · rfl
  · rfl
  · exact Hoop.updZone_readings fun _ => rfl
  · exact Hoop.updZone_readings fun _ => rfl

theorem readLvl_readings (g : Nat) (was : Int) (x : Hoop) : (readLvl g was x).readings = x.readings := by
  unfold readLvl
  simp only [↓Hoop.readings_ite, ite_self, ↓setLvl_readings, ↓holdLvl_readings]

end Sys2Proof.Machine
end

section
/-!
SUPPORT. The passes over the diodes, the die sensors and the thermistors (R242 to R247, R258, R270, R271), and the statement O34.
-/

namespace Sys2Proof.Machine
open Sys2Proof

/-! ## A pass over the diodes (R244) -/

/-- A diode takes its reading of a pass. -/
def passDiode (own used : List Int) (j : Nat) (d : Diode) : Diode :=
  let t := used.getD j d.t
  let o := own.getD j d.own
  { d with t := t, sum := d.sum + t, cnt := d.cnt + 1, own := o, ownSum := d.ownSum + o }

/-- The readings of a zone's diodes that are not SUSPECT. -/
def zoneTemps (x : Hoop) (z : Bool) : List Int :=
  ((List.range 32).filter fun j => diodeZone j == z && !(x.diode j).suspect).map fun j => (x.diode j).t

/-- A zone takes the mean of its diodes. -/
def zoneTemp (z : Bool) (x : Hoop) : Hoop :=
  let ts := zoneTemps x z
  x.updZone z fun v => let t := if ts.isEmpty then v.t else meanI ts
                       { v with t := t, sum := v.sum + t, cnt := v.cnt + 1 }

theorem diodePass_eq (own used : List Int) (x : Hoop) :
    diodePass own used x = tecUpdate true (tecUpdate false (zoneTemp true (zoneTemp false (updDiodes (passDiode own used) x)))) := rfl

theorem zoneTemp_ths (z : Bool) (x : Hoop) : (zoneTemp z x).ths = x.ths := Hoop.updZone_ths ..

theorem zoneTemps_of_ths {x y : Hoop} (h : x.ths = y.ths) (z : Bool) : zoneTemps x z = zoneTemps y z := by
  simp only [zoneTemps, Hoop.diode_of_ths h]

theorem zoneTemp_self {z : Bool} {x : Hoop} (h : zoneTemps x z ≠ []) : ((zoneTemp z x).tec.zone z).t = meanI (zoneTemps x z) := by
  unfold zoneTemp
  extract_lets ts
  rw [Hoop.updZone_zone_self]
  exact if_neg (by simpa using h)

theorem zoneTemp_not (z : Bool) (x : Hoop) : (zoneTemp z x).tec.zone (!z) = x.tec.zone (!z) := Hoop.updZone_zone_not ..

/-- A zone changed but for its temperature. -/
theorem Hoop.updZone_t {x : Hoop} {z : Bool} {f : Zone → Zone} (h : ∀ v, (f v).t = v.t) (w : Bool) :
    ((x.updZone z f).tec.zone w).t = (x.tec.zone w).t := by
  rw [Hoop.updZone_zone]
  split
  · exact h _
  · rfl

/-- The coefficients that a zone waits for are taken (R256). -/
def swapCoef (z : Bool) (x : Hoop) : Hoop :=
  if (x.tec.zone z).swapPend then x.updZone z fun v => { v with coef := v.sh, swapPend := false, i := v.sh.clamp v.i } else x

theorem swapCoef_keeps (z : Bool) (x : Hoop) (w : Bool) : ((swapCoef z x).tec.zone w).t = (x.tec.zone w).t ∧ (swapCoef z x).ths = x.ths := by
  unfold swapCoef
  split
  · refine ⟨Hoop.updZone_t ?_ w, Hoop.updZone_ths ..⟩
    exact fun _ => rfl
  · exact ⟨rfl, rfl⟩

theorem writeDuty_t (z : Bool) (d : BitVec 13) (x : Hoop) (w : Bool) : ((writeDuty z d x).tec.zone w).t = (x.tec.zone w).t := by
  refine Hoop.updZone_t (x := x) (z := z) ?_ w
  exact fun _ => rfl

/-- An update of a loop leaves the temperatures and the sensors (R252). -/
theorem tecUpdate_keeps (z : Bool) (x : Hoop) (w : Bool) : ((tecUpdate z x).tec.zone w).t = (x.tec.zone w).t ∧ (tecUpdate z x).ths = x.ths := by
  obtain ⟨ht, hths⟩ := swapCoef_keeps z x w
  unfold tecUpdate
  extract_lets y v
  split
  next => exact ⟨ht, hths⟩
  next =>
    refine ⟨(writeDuty_t ..).trans ((Hoop.updZone_t ?_ w).trans ht), (Hoop.updZone_ths ..).trans ((Hoop.updZone_ths ..).trans hths)⟩
    exact fun _ => rfl

theorem diodePass_ths (own used : List Int) (x : Hoop) : (diodePass own used x).ths = (updDiodes (passDiode own used) x).ths := by
  rw [diodePass_eq, (tecUpdate_keeps _ _ true).2, (tecUpdate_keeps _ _ true).2, zoneTemp_ths, zoneTemp_ths]

theorem diodePass_diode (own used : List Int) (x : Hoop) {j : Nat} (h : j < 32) : (diodePass own used x).diode j = passDiode own used j (x.diode j) :=
  (Hoop.diode_of_ths (diodePass_ths ..) j).trans (updDiodes_diode _ x h)

/-- The temperature of a zone that has a diode which is not SUSPECT. -/
theorem diodePass_zone (own used : List Int) (x : Hoop) {z : Bool} (h : zoneTemps (updDiodes (passDiode own used) x) z ≠ []) :
    ((diodePass own used x).tec.zone z).t = meanI (zoneTemps (updDiodes (passDiode own used) x) z) := by
  rw [diodePass_eq, (tecUpdate_keeps _ _ z).1, (tecUpdate_keeps _ _ z).1]
  cases z with
  | false =>
    refine (congrArg Zone.t (zoneTemp_not true _)).trans (zoneTemp_self h)
  | true =>
    have hths : zoneTemps (zoneTemp false (updDiodes (passDiode own used) x)) true = _ := zoneTemps_of_ths (zoneTemp_ths false _) true
    rw [← hths] at h ⊢
    exact zoneTemp_self h

/-- The readings of a pass, over the diodes that were not SUSPECT before it. -/
theorem zoneTemps_pass (own used : List Int) (x : Hoop) (z : Bool) : zoneTemps (updDiodes (passDiode own used) x) z =
    ((List.range 32).filter fun k => diodeZone k == z && !(x.diode k).suspect).map fun k => used.getD k (x.diode k).t := by
  have hd (k : Nat) (hk : k ∈ List.range 32) := updDiodes_diode (passDiode own used) x (List.mem_range.mp hk)
  unfold zoneTemps
  rw [List.filter_congr fun k hk => by rw [hd k hk, passDiode]]
  exact List.map_congr_left fun k hk => by rw [hd k (List.mem_filter.mp hk).1]; rfl

/-! ## The millisecond's means (R244, R245, R258) -/

/-- A diode's mean of the millisecond. -/
def meanDiode (d : Diode) : Diode := { d with mean := msMean d.sum d.cnt d.mean, sum := 0, cnt := 0, ownSum := 0 }

/-- A zone's mean of the millisecond, and the last 100 of them. -/
def meanZone (v : Zone) : Zone :=
  let m := msMean v.sum v.cnt v.mean
  { v with mean := m, means := (v.means ++ [m]).drop (v.means.length + 1 - 100), sum := 0, cnt := 0 }

/-- The hotter of a diode and the hottest so far. -/
def hotter (x : Hoop) (b : Option Nat) (j : Nat) : Option Nat :=
  match b with
  | some k => if (x.diode k).mean < (x.diode j).mean then some j else some k
  | none => some j

/-- The hottest diode of those that are not SUSPECT. -/
def hottest (x : Hoop) : Option Nat := ((List.range 32).filter fun j => !(x.diode j).suspect).foldl (hotter x) none

/-- The peak is the mean of a diode, where there is one. -/
def putPeak (b : Option Nat) (x : Hoop) : Hoop :=
  match b with
  | some j => { x with ths := { x.ths with peak := (x.diode j).mean, peakIx := BitVec.ofNat 5 j } }
  | none => x

/-- The means of the diodes and the zones. -/
def meansOf (x : Hoop) : Hoop := ((updDiodes (fun _ => meanDiode) x).updZone false meanZone).updZone true meanZone

/-- The means of the diodes and the zones, and the peak. -/
def meansTaken (x : Hoop) : Hoop := putPeak (hottest (meansOf x)) (meansOf x)

/-- A standby compares its own readings with the holder's first (R248). -/
def compared (compare : Bool) (x : Hoop) : Hoop := if compare then sensorCompare x else x

theorem zoneMean_eq (compare : Bool) (x : Hoop) : zoneMean compare x =
    calWindow (latThresholds (compared compare x).ths.peak (updGate (updSettled (meansTaken (compared compare x))))) := by
  unfold zoneMean
  extract_lets x₀ was x₁ z x₂ good pk ths x₃
  have hpk : pk = hottest x₂ := rfl
  clear_value pk
  have hx : x₃ = putPeak pk x₂ := by cases pk <;> rfl
  rw [hx, hpk]
  rfl

/-- The hottest of a list is at least as hot as each of it, and as the one before it. -/
theorem hotter_foldl (x : Hoop) (l : List Nat) (k : Nat) : ∃ m, l.foldl (hotter x) (some k) = some m ∧ (x.diode k).mean ≤ (x.diode m).mean ∧
    ∀ j ∈ l, (x.diode j).mean ≤ (x.diode m).mean := by
  induction l generalizing k with
  | nil => exact ⟨k, rfl, Int.le_refl _, fun j hj => absurd hj List.not_mem_nil⟩
  | cons a l ih =>
    by_cases h : (x.diode k).mean < (x.diode a).mean
    · obtain ⟨m, hm, ha, hl⟩ := ih a
      refine ⟨m, (congrArg (l.foldl (hotter x)) (if_pos h)).trans hm, Int.le_trans (Int.le_of_lt h) ha, ?_⟩
      exact fun j hj => (List.mem_cons.mp hj).elim (fun h => h ▸ ha) (hl j)
    · obtain ⟨m, hm, hk, hl⟩ := ih k
      refine ⟨m, (congrArg (l.foldl (hotter x)) (if_neg h)).trans hm, hk, ?_⟩
      exact fun j hj => (List.mem_cons.mp hj).elim (fun hja => hja ▸ Int.le_trans (Int.not_lt.mp h) hk) (hl j)

theorem putPeak_keeps (b : Option Nat) (x : Hoop) : (putPeak b x).tec = x.tec ∧ (putPeak b x).ths.diodes = x.ths.diodes := by
  cases b <;> exact ⟨rfl, rfl⟩

theorem putPeak_peak (j : Nat) (x : Hoop) : (putPeak (some j) x).ths.peak = (x.diode j).mean := rfl

/-- The hottest diode is at least as hot as each that is not SUSPECT. -/
theorem hottest_of_good (x : Hoop) {j : Nat} (hj : j < 32) (hs : (x.diode j).suspect = false) :
    ∃ m, hottest x = some m ∧ (x.diode j).mean ≤ (x.diode m).mean := by
  have hmem : j ∈ (List.range 32).filter fun j => !(x.diode j).suspect := List.mem_filter.mpr ⟨List.mem_range.mpr hj, by rw [hs]; rfl⟩
  unfold hottest
  generalize (List.range 32).filter (fun j => !(x.diode j).suspect) = l at hmem
  cases l with
  | nil => exact absurd hmem List.not_mem_nil
  | cons a l =>
    obtain ⟨m, hm, ha, hl⟩ := hotter_foldl x l a
    exact ⟨m, hm, (List.mem_cons.mp hmem).elim (fun hja => hja ▸ ha) (hl j)⟩

theorem Hoop.diode_of_diodes {x y : Hoop} (h : x.ths.diodes = y.ths.diodes) (j : Nat) : x.diode j = y.diode j :=
  congrArg (fun l => smGet ({} : Diode) l j) h

theorem Hoop.updZones_zone (x : Hoop) (f : Zone → Zone) (z : Bool) : ((x.updZone false f).updZone true f).tec.zone z = f (x.tec.zone z) := by
  cases z <;> rfl

theorem meansOf_zone (x : Hoop) (z : Bool) : (meansOf x).tec.zone z = meanZone (x.tec.zone z) := by
  unfold meansOf
  rw [Hoop.updZones_zone, updDiodes_tec]

theorem meansOf_diode (x : Hoop) {j : Nat} (h : j < 32) : (meansOf x).diode j = meanDiode (x.diode j) :=
  (Hoop.diode_of_ths ((Hoop.updZone_ths ..).trans (Hoop.updZone_ths ..)) j).trans (updDiodes_diode _ x h)

theorem meansTaken_zone (x : Hoop) (z : Bool) : (meansTaken x).tec.zone z = meanZone (x.tec.zone z) :=
  (congrArg (fun t : Tec => t.zone z) (putPeak_keeps ..).1).trans (meansOf_zone x z)

theorem meansTaken_diode (x : Hoop) {j : Nat} (h : j < 32) : (meansTaken x).diode j = meanDiode (x.diode j) :=
  (Hoop.diode_of_diodes (putPeak_keeps ..).2 j).trans (meansOf_diode x h)

/-- No diode that is not SUSPECT is hotter than the peak. -/
theorem meansTaken_peak (x : Hoop) {j : Nat} (h : j < 32) (hs : (x.diode j).suspect = false) :
    ((meansTaken x).diode j).mean ≤ (meansTaken x).ths.peak := by
  obtain ⟨m, hm, hle⟩ := hottest_of_good (meansOf x) h (by rw [meansOf_diode x h]; exact hs)
  rw [meansTaken_diode x h, ← meansOf_diode x h]
  unfold meansTaken
  rw [hm, putPeak_peak]
  exact hle

/-! ## The standby's comparison (R248) -/

/-- The differences of the thermistors and the set point are noted. -/
def noteDiffs (x : Hoop) : Hoop := { x with ths := { x.ths with thmDiff := thmDiffs x.ths }, tec := { x.tec with spDiff := spDiffOf x } }

theorem noteDiffs_diodes (x : Hoop) : (noteDiffs x).ths.diodes = x.ths.diodes := rfl

theorem noteDiffs_zone (x : Hoop) (z : Bool) : (noteDiffs x).tec.zone z = x.tec.zone z := by cases z <;> rfl

theorem sensorCompare_climate (x : Hoop) : (sensorCompare x).climate = (noteDiffs (updDiodes (fun _ => diodeDiff) x)).climate := by
  have heq : sensorCompare x = bif sensorFar (noteDiffs (updDiodes (fun _ => diodeDiff) x)) then
      fault 165 noDet (noteDiffs (updDiodes (fun _ => diodeDiff) x)) else faultOff 165 (noteDiffs (updDiodes (fun _ => diodeDiff) x)) := rfl
  rw [heq]
  cases sensorFar (noteDiffs (updDiodes (fun _ => diodeDiff) x)) with
  | true => exact fault_climate ..
  | false => exact faultOff_climate ..

/-- The comparison changes a diode's count of differences alone. -/
theorem compared_diode (compare : Bool) (x : Hoop) {j : Nat} (h : j < 32) : ∃ n, (compared compare x).diode j = { x.diode j with diff := n } := by
  unfold compared
  split
  next =>
    have hd : (sensorCompare x).diode j = (updDiodes (fun _ => diodeDiff) x).diode j :=
      Hoop.diode_of_diodes ((congrArg Ths.diodes (Hoop.ths_of_climate (sensorCompare_climate x))).trans (noteDiffs_diodes _)) j
    rw [hd, updDiodes_diode _ x h]
    exact ⟨_, rfl⟩
  next => exact ⟨_, rfl⟩

/-- The comparison leaves the zones. -/
theorem compared_zone (compare : Bool) (x : Hoop) (z : Bool) : (compared compare x).tec.zone z = x.tec.zone z := by
  unfold compared
  split
  next =>
    rw [Hoop.tec_of_climate (sensorCompare_climate x), noteDiffs_zone, updDiodes_tec]
  next => rfl

/-! ## SETTLED, the gate and the lattice's thresholds at the end of a millisecond -/

theorem latThresholds_readings (was : Int) (x : Hoop) : (latThresholds was x).readings = x.readings := by
  unfold latThresholds
  extract_lets r w old ths y y' sd ths' y''
  have hy : y'.readings = x.readings := (readLvl_readings ..).trans ((Hoop.readings_of_climate (tellWarn_climate ..)).trans rfl)
  split
  next => exact hy
  next =>
    rw [raiseEv_readings, Hoop.readings_ite, fault_readings, faultOff_readings, ite_self]
    exact hy

/-- A reading's fields, of two hoops whose readings agree. -/
theorem Hoop.sensed_of_readings {x y : Hoop} (h : x.readings = y.readings) : x.tec.sensed = y.tec.sensed ∧ x.ths.sensed = y.ths.sensed :=
  ⟨congrArg Readings.tec h, congrArg Readings.ths h⟩

/-- The means of both zones lie within 2 K of the setpoint, and in the range where a commit may be made (R258). -/
def Tec.inReach (t : Tec) : Bool :=
  [t.z0.mean, t.z1.mean].all fun m => decide (2000 ≤ m ∧ m ≤ 7000) && decide ((m - (t.eff.toNat : Int)).natAbs ≤ 200)

theorem gateOpen_eq (x : Hoop) : gateOpen x = x.tec.sensed.inReach := rfl

theorem Tec.sensed_zone_mean (t : Tec) (z : Bool) : (t.sensed.zone z).mean = (t.zone z).mean := by cases z <;> rfl

/-- SETTLED and the gate follow the zones' means; the diodes, the peak and the means stay. -/
theorem settledGate_blocks {x y : Hoop} (h : y.readings = (updGate (updSettled x)).readings) :
    y.tec.settled = y.tec.inBand ∧ y.ths.commitOk = gateOpen y ∧ y.ths.diodes = x.ths.diodes ∧ y.ths.peak = x.ths.peak ∧
      ∀ z, (y.tec.zone z).mean = (x.tec.zone z).mean := by
  obtain ⟨ht, hs⟩ := Hoop.sensed_of_readings h
  have hgate : gateOpen (updSettled x) = y.tec.sensed.inReach := by
    rw [ht, updGate_tec, gateOpen_eq]
  rw [updGate_tec, updSettled_tec] at ht
  rw [updGate_ths, updSettled_ths] at hs
  have hsettled : y.tec.settled = x.tec.inBand := (congrArg Tec.settled ht :)
  have hband : y.tec.inBand = x.tec.inBand := (congrArg Tec.inBand ht :)
  have hok : y.ths.commitOk = gateOpen (updSettled x) := (congrArg Ths.commitOk hs :)
  refine ⟨hsettled.trans hband.symm, hok.trans hgate, (congrArg Ths.diodes hs :), (congrArg Ths.peak hs :), fun z => ?_⟩
  rw [← Tec.sensed_zone_mean, ht]
  cases z <;> rfl

theorem zoneMean_readings (compare : Bool) (x : Hoop) :
    (zoneMean compare x).readings = (updGate (updSettled (meansTaken (compared compare x)))).readings := by
  rw [zoneMean_eq, Hoop.readings_of_climate (calWindow_climate _), latThresholds_readings]

end Sys2Proof.Machine
end

section
/-!
SUPPORT. The cross-check of the diodes, the die sensors and the thermistors (R245 to R247, R267, R270, R271), and the statement O34.
-/

namespace Sys2Proof.Machine
open Sys2Proof

/-! ## The cross-check (R245, R246) -/

/-- The strikes of a diode that deviates by `d`. -/
def strikesNext (d : Nat) (v : Diode) : Nat := if 250 < d then v.strikes.toNat + 1 else 0

/-- A diode is judged by its deviation, where there is one. -/
def judgeDiode (dev : Option Nat) (v : Diode) : Diode :=
  match dev with
  | some d => { v with strikes := BitVec.ofNat 2 (min 3 (strikesNext d v)), suspect := decide (3 ≤ strikesNext d v) }
  | none => v

/-- One diode of the cross-check. -/
def crossStep (x : Hoop) (q : Nat × Option Nat) : Hoop :=
  match q.2 with
  | none => x
  | some d =>
    let y := x.updDiode q.1 (fun _ => judgeDiode (some d) (x.diode q.1))
    if 3 ≤ strikesNext d (x.diode q.1) then raiseEv 392 [q.1, d] .hoop y else y

/-- The deviations that the cross-check judges. -/
def crossDevs (x : Hoop) : List (Nat × Option Nat) := (List.range 32).map fun j => (j, if (x.diode j).suspect then none else deviation x j)

/-- The number of SUSPECT diodes is told. -/
def crossTell (fresh : Bool) (x : Hoop) : Hoop :=
  let y : Hoop := { x with ths := { x.ths with suspectFlt := decide (9 ≤ suspects x) } }
  if decide (9 ≤ suspects x) && !x.ths.suspectFlt && x.pair.role != .standby then raiseEv 393 [suspects x] .hoop (fault (if fresh then 129 else 128) noDet y) else y

theorem crossStep_some (x : Hoop) (j d : Nat) :
    (crossStep x (j, some d)).ths = (x.updDiode j fun _ => judgeDiode (some d) (x.diode j)).ths ∧ (crossStep x (j, some d)).pair = x.pair := by
  unfold crossStep
  dsimp only
  split
  · exact ⟨raiseEv_ths .., (congrArg Hoop.pair (raiseEv_untold ..) :)⟩
  · exact ⟨rfl, rfl⟩

/-- A step of the cross-check judges its own diode. -/
theorem crossStep_diode_self (x : Hoop) (q : Nat × Option Nat) : (crossStep x q).diode q.1 = judgeDiode q.2 (x.diode q.1) := by
  obtain ⟨j, dev⟩ := q
  cases dev with
  | none => rfl
  | some d => exact (Hoop.diode_of_ths (crossStep_some x j d).1 j).trans (Hoop.updDiode_diode_self ..)

theorem crossStep_diode_ne (x : Hoop) (q : Nat × Option Nat) (j : Nat) (h : j ≠ q.1) : (crossStep x q).diode j = x.diode j := by
  obtain ⟨k, dev⟩ := q
  cases dev with
  | none => rfl
  | some d => exact (Hoop.diode_of_ths (crossStep_some x k d).1 j).trans (x.updDiode_diode_ne _ h)

/-- The sensors' block but its diodes, and the pair, which the cross-check's steps leave. -/
def Hoop.boardPair (x : Hoop) : Ths × Pair := (x.ths.board, x.pair)

theorem crossStep_boardPair (x : Hoop) (q : Nat × Option Nat) : (crossStep x q).boardPair = x.boardPair := by
  obtain ⟨k, dev⟩ := q
  cases dev with
  | none => rfl
  | some d =>
    obtain ⟨ht, hp⟩ := crossStep_some x k d
    exact Prod.ext (congrArg Ths.board ht :) hp

theorem crossCheck_eq (fresh : Bool) (x : Hoop) : crossCheck fresh x = crossTell fresh ((crossDevs x).foldl crossStep x) := rfl

theorem crossTell_diodes (fresh : Bool) (x : Hoop) : (crossTell fresh x).ths.diodes = x.ths.diodes := by
  unfold crossTell
  extract_lets y
  split
  · rw [raiseEv_ths, fault_ths]
  · rfl

/-- From nine SUSPECT diodes on a hoop that does not stand by raises the fault (R246). -/
theorem crossTell_live {fresh : Bool} {x : Hoop} (hn : 9 ≤ suspects x) (hf : x.ths.suspectFlt = false) (hr : x.pair.role ≠ .standby) :
    ((crossTell fresh x).src (if fresh then 129 else 128)).live = true := by
  unfold crossTell
  extract_lets y
  rw [if_pos (by simp [hn, hf, hr]), Hoop.src_of_lines (raiseEv_lines ..)]
  cases fresh <;> exact fault_live _ rfl

/-- A diode with a deviation is judged by it. -/
theorem crossCheck_diode (fresh : Bool) {x : Hoop} {j d : Nat} (hj : j < 32) (hs : (x.diode j).suspect = false) (hd : deviation x j = some d) :
    (crossCheck fresh x).diode j = judgeDiode (some d) (x.diode j) := by
  have hmem : (j, some d) ∈ crossDevs x := List.mem_map.mpr ⟨j, List.mem_range.mpr hj, by rw [hs, hd]; rfl⟩
  have hkeys : (crossDevs x).map Prod.fst = List.range 32 := by
    rw [crossDevs, List.map_map]
    exact List.map_id _
  rw [crossCheck_eq, Hoop.diode_of_diodes (crossTell_diodes ..)]
  exact foldl_at Hoop.diode Prod.fst (fun q => judgeDiode q.2) crossStep_diode_self crossStep_diode_ne (hkeys ▸ List.nodup_range) x hmem

theorem suspects_of_diodes {x y : Hoop} (h : x.ths.diodes = y.ths.diodes) : suspects x = suspects y := by
  simp only [suspects, Hoop.diode_of_diodes h]

theorem crossCheck_live {fresh : Bool} {x : Hoop} (hn : 9 ≤ suspects (crossCheck fresh x)) (hf : x.ths.suspectFlt = false)
    (hr : x.pair.role ≠ .standby) : ((crossCheck fresh x).src (if fresh then 129 else 128)).live = true := by
  have hb : ((crossDevs x).foldl crossStep x).boardPair = x.boardPair := foldl_keeps Hoop.boardPair _ crossStep_boardPair _ x
  rw [crossCheck_eq] at hn ⊢
  rw [suspects_of_diodes (crossTell_diodes ..)] at hn
  refine crossTell_live hn ?_ ?_
  · exact (congrArg (fun p : Ths × Pair => p.1.suspectFlt) hb :).trans hf
  · have hpair : ((crossDevs x).foldl crossStep x).pair = x.pair := congrArg Prod.snd hb
    rwa [hpair]

/-! ## The die sensors (R267, R270, R271) -/

/-- The die sensors' readings, the junction and its minimum. -/
def readDies (temps : List Int) (x : Hoop) : Hoop :=
  let ts := (List.range 8).map fun i => temps.getD i (x.ths.dies.getD i 0)
  { x with ths := { x.ths with dies := ts, jct := ts.foldl max (ts.headD 0), jctMin := ts.foldl min (ts.headD 0) } }

/-- The junction's thresholds; `was` is the junction before. -/
def jctThresholds (was : Int) (x : Hoop) : Hoop :=
  let hi := x.ths.jct
  let w := hyst x.ths.jctWarn hi (thrB x.ths.jctThr.toNat 0)
  let y : Hoop := { x with ths := { x.ths with jctWarn := w } }
  let y := readLvl 0 was (tellWarn 0 x.ths.jctWarn w hi (anyWarn y) y)
  let sd := hyst y.ths.jctSd hi (thrB y.ths.jctThr.toNat 2)
  if sd = y.ths.jctSd then y
  else raiseEv 397 [0, ofSigned 16 hi] .hoop ((fun v : Hoop => if sd then fault 137 noDet v else faultOff 137 v) { y with ths := { y.ths with jctSd := sd } })

theorem dieRead_eq (temps : List Int) (x : Hoop) : dieRead temps x = mramGate (jctThresholds x.ths.jct (readDies temps x)) := rfl

theorem jctThresholds_readings (was : Int) (x : Hoop) : (jctThresholds was x).readings = x.readings := by
  unfold jctThresholds
  extract_lets hi w ths y y' sd
  have hy : y'.readings = x.readings := (readLvl_readings ..).trans ((Hoop.readings_of_climate (tellWarn_climate ..)).trans rfl)
  split
  next => exact hy
  next =>
    rw [raiseEv_readings, Hoop.readings_ite, fault_readings, faultOff_readings, ite_self]
    exact hy

/-- The window of the junction in which the MRAM may be used. -/
def Ths.mramOpen (t : Ths) : Bool := decide ((if t.mramOk then -1000 else -500) ≤ t.jctMin ∧ t.jct ≤ (if t.mramOk then 10500 else 10000))

theorem mramGate_readings (x : Hoop) : (mramGate x).readings = { x.readings with ths := { x.ths.sensed with mramOk := x.ths.mramOpen } } := by
  unfold mramGate
  extract_lets lo hi v
  have hv : v = x.ths.mramOpen := rfl
  rw [← hv]
  split
  next hsame =>
    rw [hsame]
    rfl
  next =>
    rw [raiseEv_readings]
    rfl

theorem dieRead_ths {temps : List Int} {x y : Hoop} (h : y.readings = (dieRead temps x).readings) :
    y.ths.dies = (readDies temps x).ths.dies ∧ y.ths.jct = (readDies temps x).ths.jct ∧ y.ths.jctMin = (readDies temps x).ths.jctMin ∧
      y.ths.mramOk = (readDies temps x).ths.mramOpen := by
  obtain ⟨-, hs⟩ := Hoop.sensed_of_readings h
  obtain ⟨-, hj⟩ := Hoop.sensed_of_readings (jctThresholds_readings x.ths.jct (readDies temps x))
  have hm : (mramGate (jctThresholds x.ths.jct (readDies temps x))).ths.sensed = _ := congrArg Readings.ths (mramGate_readings _)
  rw [dieRead_eq, hm] at hs
  have hopen : (jctThresholds x.ths.jct (readDies temps x)).ths.mramOpen = (readDies temps x).ths.mramOpen := (congrArg Ths.mramOpen hj :)
  rw [hopen, hj] at hs
  exact ⟨(congrArg Ths.dies hs :), (congrArg Ths.jct hs :), (congrArg Ths.jctMin hs :), (congrArg Ths.mramOk hs :)⟩

/-- Eight readings are taken as they are. -/
theorem readDies_dies {temps : List Int} (h : temps.length = 8) (x : Hoop) : (readDies temps x).ths.dies = temps := by
  refine List.ext_getElem (by simp [readDies, h]) fun i hi hi' => ?_
  simp [readDies, hi']

/-- The hottest and the coldest of a list that is not empty. -/
theorem foldl_max_spec {l : List Int} (h : l ≠ []) : l.foldl max (l.headD 0) ∈ l ∧ ∀ t ∈ l, t ≤ l.foldl max (l.headD 0) := by
  cases l with
  | nil => exact absurd rfl h
  | cons a l => exact List.max?_eq_some_iff.mp (by rw [List.max?_cons']; simp)

theorem foldl_min_spec {l : List Int} (h : l ≠ []) : l.foldl min (l.headD 0) ∈ l ∧ ∀ t ∈ l, l.foldl min (l.headD 0) ≤ t := by
  cases l with
  | nil => exact absurd rfl h
  | cons a l => exact List.min?_eq_some_iff.mp (by rw [List.min?_cons']; simp)

theorem readDies_jct {temps : List Int} (h : temps.length = 8) (x : Hoop) :
    (readDies temps x).ths.jct = temps.foldl max (temps.headD 0) ∧ (readDies temps x).ths.jctMin = temps.foldl min (temps.headD 0) := by
  have hd := readDies_dies h x
  exact ⟨(congrArg (fun l : List Int => l.foldl max (l.headD 0)) hd :), (congrArg (fun l : List Int => l.foldl min (l.headD 0)) hd :)⟩

/-! ## The thermistors (R243, R247, R267) -/

/-- The readings of the four inputs. -/
def thmOwn (ohms : List Nat) (t : Ths) : List Int :=
  (List.range 4).map fun m => match ohms[m]? with
    | some r => Config.thermistor r (t.thmR25.getD m 10000) (t.thmB.getD m 3435)
    | none => t.thm.getD m 0

/-- The fault of an input follows its reading. -/
def thmCheck (x : Hoop) (m : Nat) : Hoop :=
  if thmBad (x.ths.thm.getD m 0) then thmFault m x else { x with ths := { x.ths with thmFlt := x.ths.thmFlt &&& ~~~(BitVec.twoPow 4 m) } }

/-- The readings are taken and the faults of the four inputs follow them. -/
def thmTaken (ohms : List Nat) (x : Hoop) : Hoop :=
  thmCheck (thmCheck (thmCheck (thmCheck { x with ths := { x.ths with ownThm := thmOwn ohms x.ths, thm := thmOwn ohms x.ths } } 0) 1) 2) 3

/-- No thermistor is at fault. -/
def thmCalm (x : Hoop) : Hoop := if x.ths.thmFlt = 0 then faultOff 130 x else x

theorem thmRead_eq (ohms : List Nat) (x : Hoop) :
    thmRead ohms none x = auxWarn (bridge true x.ths.thm (bridge false x.ths.thm (thmCalm (thmTaken ohms x)))) := by
  rfl

/-- The thermistor of a zone's bridge. -/
def bridgeInput (z : Bool) : Nat := if z then 2 else 1

/-- A bridge that cannot be seen is throttled at level 4 (R267). -/
def fixBridge (z : Bool) (x : Hoop) : Hoop := setLvl (if z then 3 else 2) 4 (x.updZone z fun v => { v with brgFixed := true })

/-- A fault of an input is noted and told. -/
def noteThmFault (m : Nat) (x : Hoop) : Hoop :=
  raiseEv 394 [m] .hoop (fault 130 m { x with ths := { x.ths with thmFlt := x.ths.thmFlt ||| BitVec.twoPow 4 m } })

theorem noteThmFault_tec (m : Nat) (x : Hoop) : (noteThmFault m x).tec = x.tec := (raiseEv_tec ..).trans (fault_tec ..)

theorem noteThmFault_ths (m : Nat) (x : Hoop) : (noteThmFault m x).ths = { x.ths with thmFlt := x.ths.thmFlt ||| BitVec.twoPow 4 m } :=
  (raiseEv_ths ..).trans (fault_ths ..)

theorem thmFault_flagged {m : Nat} {x : Hoop} (h : x.ths.thmFlt.getLsbD m = true) : thmFault m x = x := if_pos h

theorem thmFault_new {m : Nat} {x : Hoop} (h : x.ths.thmFlt.getLsbD m = false) : thmFault m x =
    if m = 1 then fixBridge false (noteThmFault m x) else if m = 2 then fixBridge true (noteThmFault m x) else noteThmFault m x :=
  if_neg (by simp [h])

theorem fixBridge_readings (z : Bool) (x : Hoop) : (fixBridge z x).readings = x.readings := by
  refine (setLvl_readings ..).trans (Hoop.updZone_readings ?_)
  exact fun _ => rfl

theorem setLvl_bridge (z : Bool) (v : Nat) (x : Hoop) : (setLvl (if z then 3 else 2) v x).tec =
    (x.updZone z fun q => { q with brgLvl := BitVec.ofNat 3 v, brgSince := x.now }).tec := by
  cases z <;> exact Hoop.tec_of_climate (setLvl_climate ..)

theorem fixBridge_level (z : Bool) (x : Hoop) : ((fixBridge z x).tec.zone z).brgLvl = 4 := by
  rw [fixBridge, setLvl_bridge, Hoop.updZone_zone_self]
  rfl

theorem fixBridge_not (z : Bool) (x : Hoop) : (fixBridge z x).tec.zone (!z) = x.tec.zone (!z) := by
  rw [fixBridge, setLvl_bridge, Hoop.updZone_zone_not, Hoop.updZone_zone_not]

/-- A fault of an input changes no reading but the input's bit. -/
theorem thmFault_ths (m : Nat) (x : Hoop) :
    (thmFault m x).ths.thm = x.ths.thm ∧ (thmFault m x).ths.thmFlt = if x.ths.thmFlt.getLsbD m then x.ths.thmFlt else x.ths.thmFlt ||| BitVec.twoPow 4 m := by
  cases hm : x.ths.thmFlt.getLsbD m with
  | true =>
    rw [thmFault_flagged hm]
    exact ⟨rfl, rfl⟩
  | false =>
    have hr : (thmFault m x).readings = (noteThmFault m x).readings := by
      rw [thmFault_new hm]
      simp only [↓Hoop.readings_ite, ite_self, fixBridge_readings]
    obtain ⟨-, hs⟩ := Hoop.sensed_of_readings hr
    rw [noteThmFault_ths] at hs
    exact ⟨(congrArg Ths.thm hs :), (congrArg Ths.thmFlt hs :)⟩

theorem thmCheck_thm (x : Hoop) (m : Nat) : (thmCheck x m).ths.thm = x.ths.thm := by
  unfold thmCheck
  split
  · exact (thmFault_ths m x).1
  · rfl

/-- An input's bit follows its reading, the others stay. -/
theorem thmCheck_bit (x : Hoop) {m : Nat} (hm : m < 4) (k : Nat) :
    (thmCheck x m).ths.thmFlt.getLsbD k = if k = m then thmBad (x.ths.thm.getD m 0) else x.ths.thmFlt.getLsbD k := by
  unfold thmCheck
  cases hb : thmBad (x.ths.thm.getD m 0) with
  | true =>
    rw [if_pos rfl, (thmFault_ths m x).2]
    split
    next hset =>
      split
      next hk => rw [hk, hset]
      next => rfl
    next =>
      by_cases hk : k = m
      · simp [hm, hk]
      · simp [BitVec.getLsbD_or, BitVec.getLsbD_twoPow, hk, Ne.symm hk]
  | false =>
    by_cases hk : k = m
    · simp [hm, hk]
    · by_cases hw : k < 4
      · simp [hw, hk]
      · simp [BitVec.getLsbD_of_ge _ _ (Nat.le_of_not_lt hw), hk]

/-! ## The bridges' levels -/

/-- The level of a zone stays but where the thermistor of its own bridge fails. -/
theorem thmCheck_level_ne (x : Hoop) {m : Nat} {z : Bool} (h : m ≠ bridgeInput z) :
    ((thmCheck x m).tec.zone z).brgLvl = (x.tec.zone z).brgLvl := by
  unfold thmCheck
  split
  next =>
    cases hm : x.ths.thmFlt.getLsbD m with
    | true => rw [thmFault_flagged hm]
    | false =>
      rw [thmFault_new hm]
      cases z with
      | false =>
        have h1 : m ≠ 1 := h
        rw [if_neg h1]
        split
        · exact (congrArg Zone.brgLvl (fixBridge_not true _)).trans (by rw [noteThmFault_tec]; rfl)
        · rw [noteThmFault_tec]
      | true =>
        rw [if_neg (show m ≠ 2 from h)]
        split
        · exact (congrArg Zone.brgLvl (fixBridge_not false _)).trans (by rw [noteThmFault_tec]; rfl)
        · rw [noteThmFault_tec]
  next => rfl

/-- A bridge whose thermistor fails is set to level 4. -/
theorem thmCheck_level (x : Hoop) {z : Bool} (hb : thmBad (x.ths.thm.getD (bridgeInput z) 0) = true) (hm : x.ths.thmFlt.getLsbD (bridgeInput z) = false) :
    ((thmCheck x (bridgeInput z)).tec.zone z).brgLvl = 4 := by
  rw [thmCheck, if_pos hb, thmFault_new hm]
  cases z with
  | false => exact fixBridge_level false _
  | true => exact fixBridge_level true _

/-- The readings, the faults of the inputs and the level of one zone. -/
structure Inputs where
  thm : List Int
  flt : BitVec 4
  lvl : BitVec 3

def Hoop.inputs (x : Hoop) (z : Bool) : Inputs where
  thm := x.ths.thm
  flt := x.ths.thmFlt
  lvl := (x.tec.zone z).brgLvl

theorem Hoop.inputs_of_blocks {x y : Hoop} (hs : x.ths = y.ths) (z : Bool) (hz : (x.tec.zone z).brgLvl = (y.tec.zone z).brgLvl) : x.inputs z = y.inputs z := by
  simp only [Hoop.inputs, hs, hz]

theorem Hoop.inputs_of_climate {x y : Hoop} (h : x.climate = y.climate) (z : Bool) : x.inputs z = y.inputs z :=
  Hoop.inputs_of_blocks (Hoop.ths_of_climate h) z (by rw [Hoop.tec_of_climate h])

theorem Hoop.updZone_inputs (x : Hoop) (z : Bool) (f : Zone → Zone) : (x.updZone z f).inputs (!z) = x.inputs (!z) :=
  Hoop.inputs_of_blocks (Hoop.updZone_ths ..) _ (by rw [Hoop.updZone_zone_not])

theorem readLvl_inputs (z : Bool) (was : Int) (x : Hoop) : (readLvl (if z then 3 else 2) was x).inputs (!z) = x.inputs (!z) := by
  have hset (v : Nat) : (setLvl (if z then 3 else 2) v x).inputs (!z) = x.inputs (!z) := by
    cases z <;> exact Hoop.inputs_of_climate (setLvl_climate ..) _
  have hhold : (holdLvl (if z then 3 else 2) x).inputs (!z) = x.inputs (!z) := by cases z <;> rfl
  unfold readLvl
  simp only [apply_ite (fun y : Hoop => y.inputs (!z)), hset, hhold, ite_self]

theorem holdLow_inputs (x : Hoop) (z : Bool) : (holdLow x).inputs z = x.inputs z :=
  Hoop.inputs_of_blocks (holdLow_ths x) z (by rw [holdLow_zone])

theorem restartZones_inputs (x : Hoop) (z : Bool) : (restartZones x).inputs z = x.inputs z :=
  Hoop.inputs_of_blocks (restartZones_ths x) z (congrArg (fun p : Bool × Bool × BitVec 16 × BitVec 3 × Nat × Bool × Bool × Bool => p.2.2.2.1) (restartZones_stops x z) :)

/-- A bridge whose thermistor is at fault is left. -/
theorem bridge_flagged {z : Bool} {x : Hoop} (h : x.ths.thmFlt.getLsbD (bridgeInput z) = true) (was : List Int) : bridge z was x = x := if_pos h

/-- A bridge's thresholds leave the readings, the faults and the other zone's level. -/
theorem bridge_inputs (z : Bool) (was : List Int) (x : Hoop) : (bridge z was x).inputs (!z) = x.inputs (!z) := by
  unfold bridge
  extract_lets m
  split
  · rfl
  · rename_i r v w y y' sd u u' hflt
    have hy : y'.inputs (!z) = x.inputs (!z) := by
      have hl : m + 1 = if z then 3 else 2 := by cases z <;> rfl
      have hr : y'.inputs (!z) = (tellWarn 2 v.brgWarn w r (anyWarn y) y).inputs (!z) := by
        show (readLvl (m + 1) _ _).inputs (!z) = _
        rw [hl]
        exact readLvl_inputs ..
      exact hr.trans ((Hoop.inputs_of_climate (tellWarn_climate ..) _).trans (Hoop.updZone_inputs ..))
    have hu : u'.climate = u.climate := by
      show (raiseEv _ _ _ _).climate = _
      simp only [↓raiseEv_climate, ↓Hoop.climate_ite, ↓fault_climate, ↓faultOff_climate, ite_self]
    have hu' : u'.inputs (!z) = x.inputs (!z) := (Hoop.inputs_of_climate hu _).trans ((Hoop.updZone_inputs ..).trans hy)
    split
    · exact hy
    · split
      · exact (holdLow_inputs ..).trans hu'
      · exact (restartZones_inputs ..).trans hu'

theorem auxWarn_inputs (x : Hoop) (z : Bool) : (auxWarn x).inputs z = x.inputs z := by
  unfold auxWarn
  extract_lets c a oc oa ths y
  exact Hoop.inputs_of_climate ((tellWarn_climate ..).trans (tellWarn_climate ..)) z

theorem thmCalm_inputs (x : Hoop) (z : Bool) : (thmCalm x).inputs z = x.inputs z := by
  unfold thmCalm
  split
  · exact Hoop.inputs_of_climate (faultOff_climate ..) z
  · rfl


/-! ## All four inputs -/

theorem thmTaken_thm (ohms : List Nat) (x : Hoop) : (thmTaken ohms x).ths.thm = thmOwn ohms x.ths := by
  simp only [thmTaken, thmCheck_thm]

theorem thmTaken_bit (ohms : List Nat) (x : Hoop) {m : Nat} (h : m < 4) :
    (thmTaken ohms x).ths.thmFlt.getLsbD m = thmBad ((thmOwn ohms x.ths).getD m 0) := by
  unfold thmTaken
  interval_cases m <;> simp (disch := decide) [thmCheck_bit, thmCheck_thm, -BitVec.getLsbD_eq_getElem]

/-- A bridge whose thermistor fails with these readings is at level 4. -/
theorem thmTaken_level {ohms : List Nat} {x : Hoop} {z : Bool} (hb : thmBad ((thmOwn ohms x.ths).getD (bridgeInput z) 0) = true)
    (hm : x.ths.thmFlt.getLsbD (bridgeInput z) = false) : ((thmTaken ohms x).tec.zone z).brgLvl = 4 := by
  unfold thmTaken
  generalize hy : ({ x with ths := { x.ths with ownThm := thmOwn ohms x.ths, thm := thmOwn ohms x.ths } } : Hoop) = y
  have hthm : y.ths.thm = thmOwn ohms x.ths := by rw [← hy]
  have hflt : y.ths.thmFlt = x.ths.thmFlt := by rw [← hy]
  rw [thmCheck_level_ne _ (show 3 ≠ bridgeInput z by cases z <;> decide)]
  cases z with
  | false =>
    rw [thmCheck_level_ne _ (show 2 ≠ bridgeInput false by decide)]
    refine thmCheck_level (z := false) _ ?_ ?_
    · rwa [thmCheck_thm, hthm]
    · rw [thmCheck_bit _ (by decide), hflt]
      exact hm
  | true =>
    refine thmCheck_level (z := true) _ ?_ ?_
    · rwa [thmCheck_thm, thmCheck_thm, hthm]
    · rw [thmCheck_bit _ (by decide), if_neg (by decide), thmCheck_bit _ (by decide), hflt]
      exact hm

/-- What the warnings and the bridges leave after the readings. -/
theorem thmRead_inputs (ohms : List Nat) (x : Hoop) : (thmRead ohms none x).ths.thm = thmOwn ohms x.ths ∧
    (thmRead ohms none x).ths.thmFlt = (thmTaken ohms x).ths.thmFlt ∧
    ∀ z, (thmTaken ohms x).ths.thmFlt.getLsbD (bridgeInput z) = true → ((thmRead ohms none x).tec.zone z).brgLvl = ((thmTaken ohms x).tec.zone z).brgLvl := by
  rw [thmRead_eq, ← thmTaken_thm]
  generalize thmTaken ohms x = t
  have haux := auxWarn_inputs (bridge true x.ths.thm (bridge false x.ths.thm (thmCalm t)))
  have hone := bridge_inputs true x.ths.thm (bridge false x.ths.thm (thmCalm t))
  have hzero := (bridge_inputs false x.ths.thm (thmCalm t)).trans (thmCalm_inputs t true)
  have hthm : (bridge false x.ths.thm (thmCalm t)).ths.thm = t.ths.thm := (congrArg Inputs.thm hzero :)
  have hflt : (bridge false x.ths.thm (thmCalm t)).ths.thmFlt = t.ths.thmFlt := (congrArg Inputs.flt hzero :)
  refine ⟨?_, ?_, fun z hz => ?_⟩
  · exact ((congrArg Inputs.thm ((haux false).trans hone) :)).trans hthm
  · exact ((congrArg Inputs.flt ((haux false).trans hone) :)).trans hflt
  · cases z with
    | false =>
      have hcalm : (thmCalm t).ths.thmFlt = t.ths.thmFlt := (congrArg Inputs.flt (thmCalm_inputs t false) :)
      have hskip : bridge false x.ths.thm (thmCalm t) = thmCalm t := bridge_flagged (by rw [hcalm]; exact hz) _
      exact (congrArg Inputs.lvl ((haux false).trans (hone.trans ((congrArg (fun y : Hoop => y.inputs false) hskip).trans (thmCalm_inputs t false)))) :)
    | true =>
      have hskip := bridge_flagged (x := bridge false x.ths.thm (thmCalm t)) (z := true) (by rw [hflt]; exact hz) x.ths.thm
      exact (congrArg Inputs.lvl ((haux true).trans ((congrArg (fun y : Hoop => y.inputs true) hskip).trans hzero)) :)

theorem thmOwn_getD (r0 r1 r2 r3 : Nat) (t : Ths) {m : Nat} (h : m < 4) : (thmOwn [r0, r1, r2, r3] t).getD m 0 =
    Config.thermistor ([r0, r1, r2, r3].getD m 0) (t.thmR25.getD m 10000) (t.thmB.getD m 3435) := by
  interval_cases m <;> rfl

/-! ## The statement -/

/-- Settles O34: each row's readings lie in blocks that warnings, levels, `settle` and the calibration leave alone. -/
theorem sensorRows : Obligations.SensorRows := by
  unfold Obligations.SensorRows
  refine ⟨?pass, ?means, ?check, ?dies, ?inputs⟩
  case pass =>
    intro s h x volts temps j e hstand hj htemps
    have hx : exec (.diodePass h volts) s = .next (s.act h (diodePass temps temps)) := by
      show execDiodePass h volts s = _
      rw [execDiodePass, hstand, htemps]
      rfl
    refine gives_act _ e hx fun y hy => ?_
    have hdiode : y.diode j = passDiode temps temps j (x.diode j) := (Hoop.diode_of_ths (Hoop.ths_of_calm hy) j).trans (diodePass_diode _ _ x hj)
    rw [hdiode]
    refine ⟨rfl, rfl, rfl, fun hs => ?_⟩
    have hne : zoneTemps (updDiodes (passDiode temps temps) x) (diodeZone j) ≠ [] := by
      rw [zoneTemps_pass]
      exact List.ne_nil_of_mem (List.mem_map_of_mem (List.mem_filter.mpr ⟨List.mem_range.mpr hj, by simp [hs]⟩))
    rw [Hoop.tec_of_calm hy, diodePass_zone _ _ x hne, zoneTemps_pass]
  case means =>
    intro s h x j e hj
    refine gives_act (zoneMean (standsBy s h)) e rfl fun y hy => ?_
    obtain ⟨hsettled, hgate, hdiodes, hpeak, hzones⟩ := settledGate_blocks ((Hoop.readings_of_calm hy).trans (zoneMean_readings ..))
    obtain ⟨n, hown⟩ := compared_diode (standsBy s h) x hj
    have hd : y.diode j = meanDiode { x.diode j with diff := n } := (Hoop.diode_of_diodes hdiodes j).trans ((meansTaken_diode _ hj).trans (by rw [hown]))
    refine ⟨by rw [hd]; rfl, by rw [hd]; rfl, by rw [hd]; rfl, fun z => ?_, fun hs => ?_, hgate, hsettled⟩
    · rw [hzones, meansTaken_zone, compared_zone]
      rfl
    · rw [Hoop.diode_of_diodes hdiodes, hpeak]
      exact meansTaken_peak _ hj (by rw [hown]; exact hs)
  case check =>
    intro s h x j d n e hj hs hd hn
    refine gives_act_lines (fun x => crossCheck (tookToken x) x) e rfl fun y hy hlines => ?_
    have hdiode : y.diode j = judgeDiode (some d) (x.diode j) := (Hoop.diode_of_ths (Hoop.ths_of_calm hy) j).trans (crossCheck_diode _ hj hs hd)
    rw [hdiode, hn]
    refine ⟨rfl, rfl, fun hnine hflt hrole => ?_⟩
    rw [Hoop.src_of_lines hlines]
    exact crossCheck_live (by rwa [← suspects_of_diodes (congrArg Ths.diodes (Hoop.ths_of_calm hy))]) hflt hrole
  case dies =>
    intro s h x temps e hlen
    refine gives_act (dieRead temps) e rfl fun y hy => ?_
    obtain ⟨hdies, hjct, hmin, hok⟩ := dieRead_ths (Hoop.readings_of_calm hy)
    obtain ⟨hmax, hle⟩ := foldl_max_spec (l := temps) (by rintro rfl; exact absurd hlen (by decide))
    obtain ⟨hmem, hge⟩ := foldl_min_spec (l := temps) (by rintro rfl; exact absurd hlen (by decide))
    obtain ⟨hj, hm⟩ := readDies_jct hlen x
    rw [hdies, readDies_dies hlen, hok, Ths.mramOpen, ← hjct, ← hmin, hjct, hmin, hj, hm]
    refine ⟨rfl, fun t ht => ⟨hge t ht, hle t ht⟩, hmax, hmem, ?_⟩
    have hsame : (readDies temps x).ths.mramOk = x.ths.mramOk := rfl
    rw [hsame]
    cases x.ths.mramOk <;> rfl
  case inputs =>
    intro s h x r0 r1 r2 r3 m t e hstand hm ht
    have hx : exec (.thermistorRead h [r0, r1, r2, r3]) s = .next (s.act h (thmRead [r0, r1, r2, r3] none)) := by
      show execThermistorRead h [r0, r1, r2, r3] s = _
      rw [execThermistorRead, hstand]
      rfl
    refine gives_act _ e hx fun y hy => ?_
    obtain ⟨hthm, hflt, hlvl⟩ := thmRead_inputs [r0, r1, r2, r3] x
    have hown := thmOwn_getD r0 r1 r2 r3 x.ths hm
    rw [← ht] at hown
    have hbit : y.ths.thmFlt.getLsbD m = thmBad t := by rw [Hoop.ths_of_calm hy, hflt, thmTaken_bit _ _ hm, hown]
    have hfour (z : Bool) (hz : m = bridgeInput z) (hb : thmBad t = true) (hf : x.ths.thmFlt.getLsbD (bridgeInput z) = false) :
        (y.tec.zone z).brgLvl = 4 := by
      subst hz
      rw [Hoop.tec_of_calm hy, hlvl z (by rw [thmTaken_bit _ _ hm, hown, hb])]
      exact thmTaken_level (by rw [hown, hb]) hf
    refine ⟨?_, fun hb => hbit.trans hb, fun hb h1 hf => hfour false h1 hb hf, fun hb h2 hf => hfour true h2 hb hf, fun hb => hbit.trans hb⟩
    rw [Hoop.ths_of_calm hy, hthm, hown]

end Sys2Proof.Machine
end

section
/-!
SUPPORT. Throttle steps, PWM, trips, the setpoint's pin source and the rebuilt slice (R58, R59, R249 to R252, R257, R260 to R262, R268, R269), and the
statement O35.
-/

namespace Sys2Proof.Machine
open Sys2Proof

/-! ## Throttle steps (R268, R269) -/

/-- A group between its limits does not step. -/
theorem throttleStep_eq (g : Nat) (x : Hoop) : throttleStep g x = if lvlFixed x g || decide (3 < g) then x
    else if (thrOf x g).2 ≤ (thrOf x g).1 then
      (if decide (1 ≤ lvlOf x g ∧ lvlOf x g < 7) && decide (sinceOf x g + 500000000 ≤ x.now) then setLvl g (lvlOf x g + 1) x else x)
    else if (thrOf x g).1 ≤ (thrOf x g).2 - 500 then
      (if 1 ≤ lvlOf x g ∧ sinceOf x g + 2000000000 ≤ x.now then setLvl g (lvlOf x g - 1) x else x)
    else x := rfl

theorem throttleStep_up {g : Nat} {x : Hoop} (hg : g < 4) (hfix : lvlFixed x g = false) (hthr : (thrOf x g).2 ≤ (thrOf x g).1) (hone : 1 ≤ lvlOf x g)
    (hseven : lvlOf x g < 7) (hsince : sinceOf x g + 500000000 ≤ x.now) : throttleStep g x = setLvl g (lvlOf x g + 1) x := by
  rw [throttleStep_eq, if_neg (by simp [hfix, Nat.le_of_lt_succ hg]), if_pos hthr, if_pos (by simp [hone, hseven, hsince])]

theorem throttleStep_down {g : Nat} {x : Hoop} (hg : g < 4) (hfix : lvlFixed x g = false) (hthr : (thrOf x g).1 ≤ (thrOf x g).2 - 500)
    (hone : 1 ≤ lvlOf x g) (hsince : sinceOf x g + 2000000000 ≤ x.now) : throttleStep g x = setLvl g (lvlOf x g - 1) x := by
  rw [throttleStep_eq, if_neg (by simp [hfix, Nat.le_of_lt_succ hg]), if_neg (by omega), if_pos hthr, if_pos ⟨hone, hsince⟩]

theorem lvlOf_of_climate {x y : Hoop} (h : x.climate = y.climate) (g : Nat) : lvlOf x g = lvlOf y g := by
  simp only [lvlOf, Hoop.tec_of_climate h, Hoop.ths_of_climate h]

theorem sinceOf_of_climate {x y : Hoop} (h : x.climate = y.climate) (g : Nat) : sinceOf x g = sinceOf y g := by
  simp only [sinceOf, Hoop.tec_of_climate h, Hoop.ths_of_climate h]

theorem putLvl_lvl {g v : Nat} (hg : g < 4) (hv : v < 8) (x : Hoop) : lvlOf (putLvl g v x) g = v ∧ sinceOf (putLvl g v x) g = x.now := by
  have hb : (BitVec.ofNat 3 v).toNat = v := by rw [BitVec.toNat_ofNat, Nat.mod_eq_of_lt hv]
  interval_cases g <;> exact ⟨hb, rfl⟩

theorem lvlOf_lt (x : Hoop) (g : Nat) : lvlOf x g < 8 := by
  unfold lvlOf
  split <;> exact BitVec.isLt _

/-- After a level is set the group is at it, from now on. -/
theorem setLvl_lvl {g v : Nat} (hg : g < 4) (hv : v < 8) {x y : Hoop} (h : y.calm = (setLvl g v x).calm) : lvlOf y g = v ∧ sinceOf y g = x.now := by
  have hc : y.climate = (putLvl g v x).climate := (Hoop.climate_of_calm h).trans (setLvl_climate g v x)
  rw [lvlOf_of_climate hc, sinceOf_of_climate hc]
  exact putLvl_lvl hg hv x

theorem putLvl_part (g v : Nat) (x : Hoop) : (putLvl g v x).part = x.part := by
  unfold putLvl
  split <;> rfl

theorem putLvl_latSd (g v : Nat) (x : Hoop) : (putLvl g v x).ths.latSd = x.ths.latSd := by
  unfold putLvl
  split <;> rfl

theorem heaterLvl_of_climate {x y : Hoop} (h : x.climate = y.climate) : heaterLvl x = heaterLvl y := by
  simp only [heaterLvl, Hoop.ths_of_climate h]

/-- A heater level that changes takes HTR_CEIL with it. -/
theorem setLvl_ceil {g v : Nat} (hg : g < 2) {x y : Hoop} (hv : lvlOf x g ≠ v) (h : y.calm = (setLvl g v x).calm) :
    y.drv.hCeil = BitVec.ofNat 32 (if x.ths.latSd then 0 else Config.ceilBase x.part * (100 - 10 * heaterLvl y) / 100) := by
  have hc : y.climate = (putLvl g v x).climate := (Hoop.climate_of_calm h).trans (setLvl_climate g v x)
  have hceil : y.drv.hCeil = (setLvl g v x).drv.hCeil := (congrArg (fun q : Hoop => q.drv.hCeil) h :)
  have htold : (tellLvl g v (lvlOf x g) (putLvl g v x)).climate = (putLvl g v x).climate := tellLvl_climate ..
  have hlat : (tellLvl g v (lvlOf x g) (putLvl g v x)).ths.latSd = x.ths.latSd := by rw [Hoop.ths_of_climate htold, putLvl_latSd]
  have hpart : (tellLvl g v (lvlOf x g) (putLvl g v x)).part = x.part := (Hoop.part_of_calm (tellLvl_calm ..)).trans (putLvl_part ..)
  rw [hceil, setLvl_eq, if_neg hv, if_pos hg, heaterLvl_of_climate (hc.trans htold.symm), ← hlat, ← hpart]
  rfl

/-! ## Trips (R262) -/

/-- An effect on both hoops, one after the other, finds each hoop as it stood but for what `settle` may change. -/
theorem act_both (s : State) {h : HoopId} {f : Hoop → Hoop} (hf : ∀ x, (f x).site = x.site) (e : s.has h = true) : ∃ x : Hoop,
    x.calm = (s.hoop h).calm ∧ (((s.act .hoopA f).act .hoopB f).hoop h).calm = (f x).calm ∧
      (((s.act .hoopA f).act .hoopB f).hoop h).lines = (f x).lines := by
  cases h with
  | hoopA =>
    have hB : (((s.act .hoopA f).act .hoopB f).hoop .hoopA).lines = ((s.act .hoopA f).hoop .hoopA).lines := by
      rw [State.act, settle_lines]
      exact congrArg Hoop.lines (State.upd_other _ .hoopB f)
    exact ⟨_, rfl, (act_calm_other _ .hoopB f).trans (act_calm s .hoopA f rfl), hB.trans (act_lines s .hoopA f rfl)⟩
  | hoopB =>
    have hB : (s.act .hoopA f).has .hoopB = true := (State.has_of_frame (State.act_frame s .hoopA f hf) .hoopB).trans e
    exact ⟨_, act_calm_other s .hoopA f, act_calm _ .hoopB f hB, act_lines _ .hoopB f hB⟩

/-- A trip latches in its zone and puts both loops to rest. -/
theorem trip_zone (z q : Bool) (x : Hoop) : ((trip z x).tec.zone q).running = false ∧ ((trip z x).tec.zone q).fwd = false ∧
    ((trip z x).tec.zone q).rev = false ∧ ((trip z x).tec.zone z).trip = true ∧ ((trip z x).tec.zone z).tripLive = true := by
  have ht (w : Bool) : (trip z x).tec.zone w = (holdLow (x.updZone z fun v => { v with trip := true, tripLive := true, tripCnt := satInc v.tripCnt })).tec.zone w := by
    unfold trip
    rw [raiseEv_tec, fault_tec]
  rw [ht, ht, holdLow_zone, holdLow_zone, Hoop.updZone_zone_self]
  exact ⟨rfl, rfl, rfl, rfl, rfl⟩

theorem trip_live (z : Bool) (x : Hoop) : ((trip z x).src (131 + bit z)).live = true := by
  unfold trip
  extract_lets cnt y
  rw [Hoop.src_of_lines (raiseEv_lines ..)]
  cases z <;> exact fault_live _ rfl

/-! ## The trip inputs stand through `settle` -/

theorem foldl_upd_balls (l : List HoopId) (s : State) (f : HoopId → Hoop → Hoop) : (l.foldl (fun s h => s.upd h (f h)) s).balls = s.balls :=
  foldl_keeps State.balls _ (fun s h => State.upd_balls s h (f h)) l s

theorem settleS4_balls (s : State) : (settleS4 s).balls = s.balls := by
  unfold settleS4
  split
  · rfl
  · exact foldl_upd_balls ..

theorem abandonHo_balls (c : Nat) (s : State) : (abandonHo c s).balls = s.balls := by
  unfold abandonHo
  split
  · rfl
  · exact (State.setDuo_balls ..).trans (foldl_upd_balls ..)

theorem settleHo_balls (s : State) : (settleHo s).balls = s.balls := by
  unfold settleHo
  split
  · simp only [apply_ite State.balls, abandonHo_balls, ite_self]
  · rfl

theorem settleRel_balls (s : State) : (settleRel s).balls = s.balls := by
  unfold settleRel
  split
  · exact foldl_upd_balls ..
  · rfl

theorem settleS3_balls (s : State) (h : HoopId) : (settleS3 s h).balls = s.balls := by
  unfold settleS3
  extract_lets x
  split
  · rfl
  · split
    · exact State.upd_balls ..
    · split
      · exact State.upd_balls ..
      · split
        · split
          · rfl
          · split
            · exact (State.setDuo_balls ..).trans (State.upd_balls ..)
            · exact foldl_upd_balls ..
        · rfl

theorem settleRole_balls (s : State) (h : HoopId) : (settleRole s h).balls = s.balls := by
  unfold settleRole
  simp only [apply_ite State.balls, State.upd_balls, ite_self]

theorem settleLink_balls (s : State) (h : HoopId) : (settleLink s h).balls = s.balls := by
  unfold settleLink
  split
  · rfl
  · extract_lets x p s1 s2
    have h2 : s2.balls = s1.balls := foldl_keeps State.balls _ (fun s b => State.upd_balls ..) _ s1
    exact (State.upd_balls ..).trans (h2.trans (State.upd_balls ..))

/-- The balls of both trip inputs. -/
def State.tripBalls (s : State) : Bool × Bool := (s.balls.trip0N, s.balls.trip1N)

theorem State.tripBalls_of_balls {s t : State} (h : s.balls = t.balls) : s.tripBalls = t.tripBalls :=
  congrArg (fun b : Balls => (b.trip0N, b.trip1N)) h

theorem settlePins_tripBalls (s : State) : (settlePins s).tripBalls = s.tripBalls := rfl

/-- `settle` drives no trip input. -/
theorem settle_tripBalls (s : State) : (settle s).tripBalls = s.tripBalls := by
  unfold settle
  extract_lets s1 s2 s3 s4 s5
  have h1 : s1.balls = s.balls := (settleHo_balls _).trans ((settleRel_balls _).trans (settleS4_balls s))
  have h2 : s2.balls = s1.balls := foldl_keeps State.balls _ settleS3_balls _ s1
  have h3 : s3.balls = s2.balls := foldl_keeps State.balls _ settleRole_balls _ s2
  have h4 : s4.balls = s3.balls := foldl_keeps State.balls _ settleLink_balls _ s3
  have h5 : s5.balls = s4.balls := foldl_keeps State.balls _ (fun s h => State.upd_balls s h _) _ s4
  exact (settlePins_tripBalls s5).trans (State.tripBalls_of_balls (h5.trans (h4.trans (h3.trans (h2.trans h1)))))

theorem act_tripBalls (s : State) (h : HoopId) (f : Hoop → Hoop) : (s.act h f).tripBalls = s.tripBalls :=
  (settle_tripBalls _).trans (State.tripBalls_of_balls (State.upd_balls ..))

/-- A trip input goes to a level. -/
def State.setTrip (s : State) (b v : Bool) : State :=
  if b then { s with balls := { s.balls with trip1N := v } } else { s with balls := { s.balls with trip0N := v } }

theorem State.setTrip_hoop (s : State) (b v : Bool) (h : HoopId) : (s.setTrip b v).hoop h = s.hoop h := by cases b <;> cases h <;> rfl

theorem State.setTrip_has (s : State) (b v : Bool) (h : HoopId) : (s.setTrip b v).has h = s.has h := by cases b <;> cases h <;> rfl

/-- The ball of a trip input. -/
def State.tripBall (s : State) (b : Bool) : Bool := if b then s.balls.trip1N else s.balls.trip0N

theorem State.tripBall_of_tripBalls {s t : State} (h : s.tripBalls = t.tripBalls) (b : Bool) : s.tripBall b = t.tripBall b := by
  cases b with
  | false => exact (congrArg Prod.fst h :)
  | true => exact (congrArg Prod.snd h :)

theorem State.setTrip_tripBall (s : State) (b v : Bool) : (s.setTrip b v).tripBall b = v := by cases b <;> rfl

/-- The input stands at its level after an effect on both hoops. -/
theorem setTrip_both (s : State) (b v : Bool) (f : Hoop → Hoop) : (((s.setTrip b v).act .hoopA f).act .hoopB f).tripBall b = v :=
  (State.tripBall_of_tripBalls ((act_tripBalls ((s.setTrip b v).act .hoopA f) .hoopB f).trans (act_tripBalls (s.setTrip b v) .hoopA f)) b).trans
    (s.setTrip_tripBall b v)

/-- A trip's input is released. -/
def releaseTrip (z : Bool) (x : Hoop) : Hoop := x.updZone z fun v => { v with tripLive := false }

theorem State.setTrip_of_parity {z : Nat} (hz : z < 2) (s : State) (v : Bool) : s.setTrip (z == 1) v =
    if z % 2 = 0 then { s with balls := { s.balls with trip0N := v } } else { s with balls := { s.balls with trip1N := v } } := by
  interval_cases z <;> rfl

theorem parity_eq {z : Nat} (hz : z < 2) : (z % 2 == 1) = (z == 1) := by rw [Nat.mod_eq_of_lt hz]

theorem exec_tecTrip {z : Nat} (hz : z < 2) (s : State) :
    exec (.tecTrip z) s = .next (((s.setTrip (z == 1) false).act .hoopA (trip (z == 1))).act .hoopB (trip (z == 1))) := by
  show execTecTrip z s = _
  rw [execTecTrip, parity_eq hz, ← State.setTrip_of_parity hz]

theorem exec_tecTripRelease {z : Nat} (hz : z < 2) (s : State) :
    exec (.tecTripRelease z) s = .next (((s.setTrip (z == 1) true).act .hoopA (releaseTrip (z == 1))).act .hoopB (releaseTrip (z == 1))) := by
  show execTecTripRelease z s = _
  rw [execTecTripRelease, parity_eq hz, ← State.setTrip_of_parity hz]
  rfl

/-! ## The setpoint's pin source (R249 to R251) -/

/-- An average that is valid is kept as the hoop's own, and its source is not lost. -/
def takeAverage (v : Int) (x : Hoop) : Hoop := { spValid x with tec := { (spValid x).tec with ownSp := v } }

theorem takeAverage_tec (v : Int) (x : Hoop) : (takeAverage v x).tec = { x.tec with spLost := false, ownSp := v } :=
  congrArg (fun t : Tec => { t with ownSp := v }) (congrArg Climate.tec (spValid_climate x) :)

theorem takeAverage_slice (v : Int) (x : Hoop) : (takeAverage v x).slice = x.slice := (congrArg Climate.slice (spValid_climate x) :)

theorem spAverage_valid {avg : Int} {x : Hoop} (hsrc : x.tec.src ≠ 0) (hpin : pinLost x.tec.src.toNat avg = false) :
    spAverage none avg x = if 5 ≤ (clampI (pinSp x.tec.src.toNat avg) 1500 6500 - x.effT).natAbs then
      setEff (clampI (pinSp x.tec.src.toNat avg) 1500 6500).toNat (takeAverage (clampI (pinSp x.tec.src.toNat avg) 1500 6500) x)
      else takeAverage (clampI (pinSp x.tec.src.toNat avg) 1500 6500) x := by
  have heff (v : Int) : (takeAverage v x).effT = x.effT := by rw [Hoop.effT, takeAverage_tec]; rfl
  unfold spAverage
  rw [if_neg hsrc, if_neg (by simp [hpin]), ← heff (clampI (pinSp x.tec.src.toNat avg) 1500 6500)]
  rfl

theorem clampI_range (a : Int) {lo hi : Int} (h : lo ≤ hi) : lo ≤ clampI a lo hi ∧ clampI a lo hi ≤ hi := by
  unfold clampI
  split
  · omega
  · split <;> omega

/-- A setpoint that has moved by 0.05 K is taken. -/
theorem setEff_moved {v : Int} {x : Hoop} (hlo : 1500 ≤ v) (hhi : v ≤ 6500) (hfar : 5 ≤ (v - x.effT).natAbs) :
    (setEff v.toNat x).tec.eff = BitVec.ofNat 16 v.toNat ∧ (∀ z, ((setEff v.toNat x).tec.zone z).errPrev = kelvin ((x.tec.zone z).t - v)) ∧
      (2000 ≤ v → (setEff v.toNat x).slice = { x.slice with rebuilding := true, rebuildTemp := v.toNat }) := by
  have hv : (BitVec.ofNat 16 v.toNat).toNat = v.toNat := by rw [BitVec.toNat_ofNat]; omega
  have hint : ((BitVec.ofNat 16 v.toNat).toNat : Int) = v := by rw [hv]; omega
  have hnew : x.tec.eff ≠ BitVec.ofNat 16 v.toNat := fun h => by
    rw [Hoop.effT, h, hint] at hfar
    omega
  obtain ⟨htec, hslice⟩ := setEff_new_blocks hnew
  rw [htec, takeEff_tec, hslice]
  refine ⟨rfl, fun z => ?_, fun hwarm => ?_⟩
  · rw [hint]
    cases z <;> rfl
  · have heff : (takeEff v.toNat x).tec.eff.toNat = v.toNat := hv
    rw [beginRebuild_slice (by rw [heff]; omega), heff]
    rfl

/-- A source that is lost is told by source 134 (R251). -/
theorem spLost_new {x : Hoop} (hsrc : x.tec.src ≠ 0) (hl : x.tec.spLost = false) :
    (spLost x).tec = { x.tec with spLost := true } ∧ ((spLost x).src 134).live = true := by
  unfold spLost
  rw [if_neg (not_or.mpr ⟨hsrc, by simp [hl]⟩), raiseEv_tec, fault_tec, Hoop.src_of_lines (raiseEv_lines ..)]
  exact ⟨rfl, fault_live _ rfl⟩

/-! ## A rebuilt slice (R58, R59) -/

/-- The slice that drives, and the elements. -/
def Hoop.lattice (x : Hoop) : Slice × SMap Elem := (x.slice, x.drv.elems)

theorem Hoop.lattice_of_calm {x y : Hoop} (h : x.calm = y.calm) : x.lattice = y.lattice := (congrArg (fun q : Hoop => (q.slice, q.drv.elems)) h :)

/-- The rebuilt slice is the active one. -/
def takeSlice (x : Hoop) : Hoop :=
  let src := samplerCells x.mram
  let hb := headerBytes src
  let old := x.slice
  { x with oldSlices := (smPut x.oldSlices old.gen old).filter (fun q => sliceUsed x q.1), slice := { x.slice with
    gen := old.gen + 1, built := true, headerOk := Config.headerOk hb, src := src, temp := x.slice.rebuildTemp, rebuilding := false, adj := []
    floorO := Config.headerFloor hb false, floorC := Config.headerFloor hb true, ceilO := Config.headerCeil hb false, ceilC := Config.headerCeil hb true } }

/-- Source 18 follows the header. -/
def tellHeader (ok : Bool) (x : Hoop) : Hoop := if ok then faultOff 18 x else fault 18 noDet x

/-- Every element takes its flags from its records. -/
def flagElems (src : List Host.Cell) (temp : Nat) (x : Hoop) : Hoop := (List.range x.nE).foldl (fun y e => elemFlags src temp e y) x

/-- Threads, latches and parking codes follow a new slice. -/
def followSlice (x : Hoop) : Hoop :=
  let y := keeperRefresh (darkBarred x)
  if y.drv.nFirstDone then postPark (restParks y) (slewTiles (restParks y) y) else y

theorem sliceBuild_rebuilding {x : Hoop} (h : x.slice.rebuilding = true) : sliceBuild x = followSlice (prkRecompile x.slice
    (flagElems (samplerCells x.mram) x.slice.rebuildTemp (tellHeader (Config.headerOk (headerBytes (samplerCells x.mram))) (takeSlice x)))) :=
  if_neg (by simp [h])

theorem tellHeader_calm (ok : Bool) (x : Hoop) : (tellHeader ok x).calm = x.calm := by
  unfold tellHeader
  split
  · exact faultOff_calm ..
  · exact fault_calm ..

theorem prkRecompile_lattice (old : Slice) (x : Hoop) : (prkRecompile old x).lattice = x.lattice := by
  unfold prkRecompile
  split <;> rfl

theorem darkBarred_calm (x : Hoop) : (darkBarred x).calm = x.calm := by
  unfold darkBarred
  exact foldl_keeps Hoop.calm _ (fun y q => (reqDark_calm ..).trans (darkThread_calm ..)) _ x

theorem keeperRefresh_lattice (x : Hoop) : (keeperRefresh x).lattice = x.lattice := by
  unfold keeperRefresh
  extract_lets w
  split <;> rfl

theorem slewTiles_lattice (es : List Nat) (x : Hoop) : (slewTiles es x).lattice = x.lattice := by
  unfold slewTiles
  refine foldl_keeps Hoop.lattice _ ?_ _ x
  exact fun _ _ => rfl

theorem postPark_lattice (es : List Nat) (x : Hoop) : (postPark es x).lattice = x.lattice := by
  unfold postPark
  split <;> rfl

/-- What follows a new slice leaves it, and the elements. -/
theorem followSlice_lattice (x : Hoop) : (followSlice x).lattice = x.lattice := by
  have hy : (keeperRefresh (darkBarred x)).lattice = x.lattice := (keeperRefresh_lattice _).trans (Hoop.lattice_of_calm (darkBarred_calm x))
  unfold followSlice
  extract_lets y
  split
  · exact (postPark_lattice ..).trans ((slewTiles_lattice ..).trans hy)
  · exact hy

/-- Where an element's records of each polarity do not bound the slice's temperature (R59). -/
def Hoop.bandFlags (x : Hoop) (e : Nat) : Bool × Bool := ((x.elem e).badO, (x.elem e).badC)

theorem Hoop.bandFlags_of_lattice {x y : Hoop} (h : x.lattice = y.lattice) (e : Nat) : x.bandFlags e = y.bandFlags e :=
  congrArg (fun p : Slice × SMap Elem => ((smGet ({} : Elem) p.2 e).badO, (smGet ({} : Elem) p.2 e).badC)) h

theorem elemFlags_lattice (src : List Host.Cell) (temp e : Nat) (x : Hoop) : ∃ f : Elem → Elem, (elemFlags src temp e x).lattice = (x.updElem e f).lattice ∧
    ∀ v, ((f v).badO, (f v).badC) = (bandBad src e false temp, bandBad src e true temp) := by
  unfold elemFlags
  extract_lets bad o c refined y
  refine ⟨fun v => { v with samplerBad := bad false || bad true, badO := o, badC := c, refined := refined }, ?_, fun v => rfl⟩
  split
  · exact Hoop.lattice_of_calm (fault_calm ..)
  · rfl

theorem elemFlags_slice (src : List Host.Cell) (temp e : Nat) (x : Hoop) : (elemFlags src temp e x).slice = x.slice := by
  obtain ⟨f, hl, -⟩ := elemFlags_lattice src temp e x
  exact (congrArg Prod.fst hl :)

theorem elemFlags_self (src : List Host.Cell) (temp e : Nat) (x : Hoop) :
    (elemFlags src temp e x).bandFlags e = (bandBad src e false temp, bandBad src e true temp) := by
  obtain ⟨f, hl, hf⟩ := elemFlags_lattice src temp e x
  rw [Hoop.bandFlags_of_lattice hl, Hoop.bandFlags, Hoop.updElem_elem_self]
  exact hf _

theorem elemFlags_ne (src : List Host.Cell) (temp : Nat) (x : Hoop) (e j : Nat) (h : j ≠ e) : (elemFlags src temp e x).bandFlags j = x.bandFlags j := by
  obtain ⟨f, hl, -⟩ := elemFlags_lattice src temp e x
  rw [Hoop.bandFlags_of_lattice hl, Hoop.bandFlags, Hoop.updElem_elem_ne _ _ h]
  rfl

theorem flagElems_slice (src : List Host.Cell) (temp : Nat) (x : Hoop) : (flagElems src temp x).slice = x.slice := by
  unfold flagElems
  exact foldl_keeps Hoop.slice _ (fun y e => elemFlags_slice src temp e y) _ x

theorem flagElems_bandFlags (src : List Host.Cell) (temp : Nat) (x : Hoop) {e : Nat} (h : e < x.nE) :
    (flagElems src temp x).bandFlags e = (bandBad src e false temp, bandBad src e true temp) := by
  unfold flagElems
  exact foldl_range_at Hoop.bandFlags (fun e _ => (bandBad src e false temp, bandBad src e true temp)) (fun y e => elemFlags_self src temp e y)
    (fun y k j hj => elemFlags_ne src temp y k j hj) h x

/-- A rebuilt slice, and the flags of the elements by its records. -/
theorem sliceBuild_lattice {x y : Hoop} (h : x.slice.rebuilding = true) (hy : y.calm = (sliceBuild x).calm) : y.slice = (takeSlice x).slice ∧
    ∀ e, e < x.nE → y.bandFlags e = (bandBad (samplerCells x.mram) e false x.slice.rebuildTemp, bandBad (samplerCells x.mram) e true x.slice.rebuildTemp) := by
  have hl := Hoop.lattice_of_calm hy
  rw [sliceBuild_rebuilding h, followSlice_lattice, prkRecompile_lattice] at hl
  generalize hw : tellHeader (Config.headerOk (headerBytes (samplerCells x.mram))) (takeSlice x) = w at hl
  have hcalm : w.calm = (takeSlice x).calm := by rw [← hw, tellHeader_calm]
  refine ⟨?_, fun e he => ?_⟩
  · exact (congrArg Prod.fst hl :).trans ((flagElems_slice ..).trans (Hoop.slice_of_calm hcalm))
  · have hpart : w.part = x.part := (Hoop.part_of_calm hcalm).trans rfl
    rw [Hoop.bandFlags_of_lattice hl]
    exact flagElems_bandFlags _ _ w (by rwa [Hoop.nE, hpart])

/-! ## The statement -/

/-- Settles O35: each row's own effect on the zones, the levels, the setpoint and the slice, which `settle` leaves alone in both hoops. -/
theorem thermalRows : Obligations.ThermalRows := by
  unfold Obligations.ThermalRows
  refine ⟨?up, ?down, ?reload, ?edge, ?trip, ?release, ?average, ?lost, ?slice⟩
  case up =>
    intro s h x g e hg hfix hthr hone hseven hsince
    refine gives_act (throttleStep g) e rfl fun y hy => ?_
    rw [throttleStep_up hg hfix hthr hone hseven hsince] at hy
    obtain ⟨hlvl, htime⟩ := setLvl_lvl hg (by omega) hy
    exact ⟨hlvl, htime, fun hheat => setLvl_ceil hheat (by omega) hy⟩
  case down =>
    intro s h x g e hg hfix hthr hone hsince
    refine gives_act (throttleStep g) e rfl fun y hy => ?_
    rw [throttleStep_down hg hfix hthr hone hsince] at hy
    have hlt := lvlOf_lt x g
    exact (setLvl_lvl hg (by omega) hy).1
  case reload =>
    intro s h x z b e hb
    refine gives_act (pwmReload (z % 2 == 1)) e rfl fun y hy => ?_
    rw [← hb] at hy
    rw [Hoop.tec_of_calm hy, pwmReload, Hoop.pwmPins_zone, Hoop.updZone_zone_self]
    exact ⟨by simp only [Zone.pwm, decide_eq_true_eq], rfl, rfl, rfl, rfl⟩
  case edge =>
    intro s h x z b e hz hb
    have hx : exec (.pwmDutyEdge h z) s = .next (s.act h (dutyEdge (z == 1))) := congrArg Host.Outcome.next (if_pos hz)
    refine gives_act _ e hx fun y hy => ?_
    rw [← hb] at hy
    rw [Hoop.tec_of_calm hy]
    exact ⟨Hoop.updZone_zone_self .., Hoop.updZone_zone_not ..⟩
  case trip =>
    intro s h x z b e hz hb
    obtain ⟨e, rfl⟩ := e
    obtain ⟨w, -, hc, hl⟩ := act_both (s.setTrip (z == 1) false) (trip_site (z == 1)) ((State.setTrip_has ..).trans e)
    have hsrc : 131 + z = 131 + bit (z == 1) := by interval_cases z <;> rfl
    subst hb
    refine ⟨_, exec_tecTrip hz s, setTrip_both .., ?_⟩
    rw [Hoop.tec_of_calm hc, Hoop.src_of_lines hl, hsrc]
    obtain ⟨-, -, -, htrip, hlive⟩ := trip_zone (z == 1) false w
    refine ⟨htrip, hlive, trip_live .., fun q => ?_⟩
    obtain ⟨hrun, hfwd, hrev, -, -⟩ := trip_zone (z == 1) q w
    exact ⟨hrun, hfwd, hrev⟩
  case release =>
    intro s h x z b e hz hb
    obtain ⟨e, rfl⟩ := e
    obtain ⟨w, hw, hc, -⟩ := act_both (s.setTrip (z == 1) true) (fun _ => Hoop.updZone_site ..) (f := releaseTrip (z == 1)) ((State.setTrip_has ..).trans e)
    rw [State.setTrip_hoop] at hw
    subst hb
    refine ⟨_, exec_tecTripRelease hz s, setTrip_both .., ?_⟩
    rw [Hoop.tec_of_calm hc, ← Hoop.tec_of_calm hw]
    exact ⟨Hoop.updZone_zone_self .., Hoop.updZone_zone_not ..⟩
  case average =>
    intro s h x avg v e hstand hsrc hpin hv
    have hx : exec (.setpointAverage h avg) s = .next (s.act h (spAverage none avg)) := by
      show execSetpointAverage h avg s = _
      rw [execSetpointAverage, hstand]
      rfl
    refine gives_act _ e hx fun y hy => ?_
    rw [spAverage_valid hsrc hpin, ← hv] at hy
    obtain ⟨hlo, hhi⟩ : 1500 ≤ v ∧ v ≤ 6500 := hv ▸ clampI_range _ (by decide)
    rw [Hoop.tec_of_calm hy, Hoop.slice_of_calm hy]
    have heff : (takeAverage v x).effT = x.effT := by rw [Hoop.effT, takeAverage_tec]; rfl
    split
    next hfar =>
      obtain ⟨hset, herr, hslice⟩ := setEff_moved hlo hhi (x := takeAverage v x) (by rwa [heff])
      refine ⟨?_, hset, fun z => ?_, fun hwarm => ?_⟩
      · rw [(setEff_tec _ _).2.2.2, takeAverage_tec]
      · rw [herr, takeAverage_tec]
        cases z <;> rfl
      · rw [hslice hwarm]
        exact ⟨rfl, rfl⟩
    next => exact ⟨(congrArg Tec.spLost (takeAverage_tec v x) :), (congrArg Tec.eff (takeAverage_tec v x) :), takeAverage_slice v x⟩
  case lost =>
    intro s h x e hsrc hl
    refine gives_act_lines spLost e rfl fun y hy hlines => ?_
    rw [Hoop.tec_of_calm hy, Hoop.src_of_lines hlines]
    exact spLost_new hsrc hl
  case slice =>
    intro s h x e hr
    refine gives_act sliceBuild e rfl fun y hy => ?_
    obtain ⟨hslice, hflags⟩ := sliceBuild_lattice hr hy
    exact ⟨hslice, fun k hk => Prod.mk.inj (hflags k hk)⟩

end Sys2Proof.Machine
end

section
/-!
SUPPORT. The pins follow the hoops after every step: the statement O7. `settle` sets every DARK_N switch and every ball, whatever came before it, and
what a row or a tick does outside `settle` changes nothing that a pin shows.
-/

namespace Sys2Proof.Machine
open Sys2Proof

/-! ## What the pins show -/

/-- The hoop without what telling, the journal, a clock tick and a change of the time may change, none of which a pin shows. -/
def Hoop.shown (x : Hoop) : Hoop :=
  { x with tb := {}, cm := {}, tec := {}, jnl := {}, led := {}, evt := {}, mbx := {}, wlm := {}, pmc := {}
           boot := { fwRun := x.boot.fwRun, por := x.boot.por } }

/-- An update of the other fields shows nothing. -/
theorem Hoop.shown_upd (x : Hoop) (tb : Tb) (cm : Cm) (tec : Tec) (jnl : Jnl) (led : Ledger) (evt : Evt) (mbx : Mbx) (wlm : Wlm) (pmc : Pmc) :
    ({ x with tb := tb, cm := cm, tec := tec, jnl := jnl, led := led, evt := evt, mbx := mbx, wlm := wlm, pmc := pmc } : Hoop).shown = x.shown := rfl

theorem Hoop.shown_of_untold {x y : Hoop} (h : x.untold = y.untold) : x.shown = y.shown := by
  have e := congrArg Hoop.shown h; exact e

theorem vouches_of_shown {x y : Hoop} (h : x.shown = y.shown) : vouches x = vouches y := by
  have e := congrArg vouches h; exact e

theorem Hoop.dk_of_shown {x y : Hoop} (h : x.shown = y.shown) : x.dk = y.dk := by
  have e := congrArg Hoop.dk h; exact e

theorem Hoop.fc_of_shown {x y : Hoop} (h : x.shown = y.shown) : x.fc = y.fc := by
  have e := congrArg Hoop.fc h; exact e

theorem Hoop.pair_of_shown {x y : Hoop} (h : x.shown = y.shown) : x.pair = y.pair := by
  have e := congrArg Hoop.pair h; exact e

theorem Hoop.mon_of_shown {x y : Hoop} (h : x.shown = y.shown) : x.mon = y.mon := by
  have e := congrArg Hoop.mon h; exact e

theorem Hoop.part_of_shown {x y : Hoop} (h : x.shown = y.shown) : x.part = y.part := by
  have e := congrArg Hoop.part h; exact e

theorem State.hoops_of_part {s t : State} (h : t.a.part = s.a.part) : t.hoops = s.hoops := by
  unfold State.hoops
  rw [h]

/-- Whether the pins follow the hoops depends on what is shown of the hoops, on the grace period and on the balls. -/
theorem State.pinsWf_congr {s t : State} (hk : ∀ k, (t.hoop k).shown = (s.hoop k).shown) (hg : t.duo.grace = s.duo.grace)
    (hb : t.balls = s.balls) : t.pinsWf = s.pinsWf := by
  have part : t.a.part = s.a.part := Hoop.part_of_shown (hk .hoopA)
  have pairA : t.a.pair = s.a.pair := Hoop.pair_of_shown (hk .hoopA)
  have pairB : t.b.pair = s.b.pair := Hoop.pair_of_shown (hk .hoopB)
  have monA : t.a.mon = s.a.mon := Hoop.mon_of_shown (hk .hoopA)
  have monB : t.b.mon = s.b.mon := Hoop.mon_of_shown (hk .hoopB)
  simp only [State.pinsWf, State.hoops_of_part part, vouches_of_shown (hk _), Hoop.dk_of_shown (hk _), Hoop.fc_of_shown (hk _), part, pairA, pairB,
    monA, monB, hg, hb]

/-! ## After `settle` -/

/-- What `settle` does last in each hoop. -/
def settleLast (x : Hoop) : Hoop := pmcTell (settleStage (settleVouch (tellFirst x)))

theorem setStage_shown (st : Stage) (x : Hoop) : (setStage st x).shown = x.shown :=
  (Hoop.shown_of_untold (raiseEv_untold ..)).trans rfl

theorem settleStage_shown (x : Hoop) : (settleStage x).shown = x.shown := by
  unfold settleStage
  split
  · exact setStage_shown ..
  · rfl

theorem settleVouch_vouch (x : Hoop) : (settleVouch x).dk.vouch = vouches (settleVouch x) := by
  unfold settleVouch
  extract_lets v
  split
  · next h => exact h.symm
  · have h := Hoop.shown_of_untold (raiseEv_untold 458 [if v then 1 else 0, vouchFail x] .hoop { x with dk := { x.dk with vouch := v } })
    rw [vouches_of_shown h, Hoop.dk_of_shown h]
    rfl

theorem settleLast_vouch (x : Hoop) : (settleLast x).dk.vouch = vouches (settleLast x) := by
  have h : (settleLast x).shown = (settleVouch (tellFirst x)).shown :=
    (Hoop.shown_of_untold (pmcTell_untold _)).trans (settleStage_shown _)
  rw [vouches_of_shown h, Hoop.dk_of_shown h, settleVouch_vouch]

theorem settleLast_part (x : Hoop) : (settleLast x).part = x.part := by
  have h : (settleLast x).site = x.site := by
    simp only [settleLast, pmcTell_site, settleStage_site, settleVouch_site, tellFirst_site]
  exact congrArg Prod.fst h

/-- One operation in every enabled hoop reaches each of them. -/
theorem State.each_hoop (s : State) (f : Hoop → Hoop) (hf : ∀ x, (f x).part = x.part) {k : HoopId} (hk : k ∈ s.hoops) :
    (s.hoops.foldl (fun s h => s.upd h f) s).hoop k = f (s.hoop k) := by
  have ha : (s.upd .hoopA f).hoop .hoopA = f s.a := State.upd_self s .hoopA f rfl
  by_cases d : Config.duplex s.a.part = true
  · have hB : (s.upd .hoopA f).has .hoopB = true := by
      show Config.duplex ((s.upd .hoopA f).hoop .hoopA).part = true
      rw [ha, hf, d]
    have hl : s.hoops = [.hoopA, .hoopB] := if_pos d
    rw [hl, List.foldl_cons, List.foldl_cons, List.foldl_nil]
    cases k with
    | hoopA => exact (State.upd_other _ .hoopB f).trans ha
    | hoopB => exact (State.upd_self _ .hoopB f hB).trans (congrArg f (State.upd_other s .hoopA f))
  · have hl : s.hoops = [.hoopA] := if_neg d
    rw [hl] at hk ⊢
    cases List.mem_singleton.mp hk
    exact ha

theorem State.each_hoops (s : State) (f : Hoop → Hoop) (hf : ∀ x, (f x).part = x.part) :
    (s.hoops.foldl (fun s h => s.upd h f) s).hoops = s.hoops := by
  refine State.hoops_of_part ?_
  have ha : .hoopA ∈ s.hoops := has_mem rfl
  exact (congrArg Hoop.part (s.each_hoop f hf ha)).trans (hf _)

/-- Balls set from hoops whose switches stand as their conditions say. -/
theorem settlePins_pinsWf (s : State) (h : ∀ k ∈ s.hoops, (s.hoop k).dk.vouch = vouches (s.hoop k)) : (settlePins s).pinsWf = true := by
  have hh : (settlePins s).hoops = s.hoops := rfl
  simp only [State.pinsWf, hh, settlePins_hoop, Bool.and_eq_true, List.all_eq_true, beq_iff_eq]
  exact ⟨⟨⟨⟨⟨h, rfl⟩, rfl⟩, rfl⟩, rfl⟩, by simp only [settlePins, Bool.and_eq_true]⟩

theorem settle_pinsWf (s : State) : (settle s).pinsWf = true := by
  unfold settle
  extract_lets s1 s2 s3 s4 s5
  refine settlePins_pinsWf s5 fun k hk => ?_
  have hs : s5.hoop k = settleLast (s4.hoop k) := s4.each_hoop settleLast settleLast_part ((s4.each_hoops settleLast settleLast_part) ▸ hk)
  rw [hs]
  exact settleLast_vouch _

/-! ## Every row -/

/-- If the row completes, the pins follow the hoops after it. -/
structure Pinned (o : Host.Outcome State Fault Refusal) : Prop where
  pins_of_next : ∀ t, o = .next t → t.pinsWf = true

theorem pinned_next {t : State} (h : t.pinsWf = true) : Pinned (.next t) where
  pins_of_next _ e := by cases e; exact h

theorem pinned_settle (t : State) : Pinned (.next (settle t)) := pinned_next (settle_pinsWf t)

theorem act_pinsWf (s : State) (h : HoopId) (f : Hoop → Hoop) : (s.act h f).pinsWf = true := settle_pinsWf _

theorem pinned_ite {c : Prop} [Decidable c] {s t : State} (hs : s.pinsWf = true) (ht : t.pinsWf = true) : Pinned (.next (if c then t else s)) := by
  split
  · exact pinned_next ht
  · exact pinned_next hs

theorem State.serve_pinsWf {s : State} (hs : s.pinsWf = true) (h : HoopId) (r op : Nat) (v : Verb) : (s.serve h r op v).pinsWf = true := by
  unfold State.serve
  split
  · exact act_pinsWf ..
  · exact hs

theorem pinned_serve {s : State} (hs : s.pinsWf = true) (h : HoopId) (r op : Nat) (v : Verb) : Pinned (.next (s.serve h r op v)) :=
  pinned_next (State.serve_pinsWf hs h r op v)

/-- A command of ring 0 is served, and `settle` follows, whatever its row did before that. -/
theorem pinned_serve_after {s : State} (hs : s.pinsWf = true) (f : State → State) (h : HoopId) (r op : Nat) (v : Verb) :
    Pinned (.next ((if r = 0 then f s else s).serve h r op v)) := by
  by_cases hr : r = 0
  · subst hr
    exact pinned_settle _
  · rw [if_neg hr]
    exact pinned_serve hs h r op v

/-! ## The domains that follow a hoop's time -/

theorem updValid_shown (x : Hoop) : (updValid x).shown = x.shown := by
  unfold updValid
  extract_lets v y
  have hy : y.shown = x.shown := by
    show (if _ then _ else _ : Hoop).shown = _
    split <;> rfl
  split
  · exact hy
  · exact (Hoop.shown_of_untold (raiseEv_untold ..)).trans hy

theorem jnlLose_shown (j : JRec) (x : Hoop) : (jnlLose j x).shown = x.shown := (Hoop.shown_of_untold (raiseEv_untold ..)).trans rfl

theorem jnlQueue_shown (j : JRec) (x : Hoop) : (jnlQueue j x).shown = x.shown := by
  have hx : (if x.jnl.buf.isEmpty then { x with jnl := { x.jnl with oldest := x.now } } else x : Hoop).shown = x.shown := by
    split <;> rfl
  unfold jnlQueue
  dsimp only
  generalize (if x.jnl.buf.isEmpty then { x with jnl := { x.jnl with oldest := x.now } } else x : Hoop) = y at hx ⊢
  split
  · exact hx
  · split
    · exact (jnlLose_shown ..).trans hx
    · exact (jnlLose_shown ..).trans hx

theorem jnlPut_shown (ty sev src : Nat) (w : Bool) (p : Bytes) (x : Hoop) : (jnlPut ty sev src w p x).shown = x.shown := jnlQueue_shown ..

theorem tellSwitch_shown (d : Int) (x : Hoop) : (tellSwitch d x).shown = x.shown := by
  unfold tellSwitch
  extract_lets y
  have hy : y.shown = x.shown := (Hoop.shown_of_untold (raiseEv_untold ..)).trans rfl
  split
  · exact (jnlPut_shown ..).trans hy
  · exact hy

theorem rolesTaken_shown (d : Int) (x : Hoop) : (rolesTaken d x).shown = x.shown := by
  unfold rolesTaken
  exact Hoop.shown_upd ..

theorem takeRoles_shown (d : Int) (x : Hoop) : (takeRoles d x).shown = x.shown := by
  rw [takeRoles_eq, updValid_shown, tellSwitch_shown, rolesTaken_shown]

/-- A change of the time shows nothing. -/
theorem Hoop.shown_retimed (x : Hoop) (tb : Tb) (d : Int) : ({ x with tb := tb, boot := x.boot.moved d } : Hoop).shown = x.shown := rfl

theorem followTime_shown (a y : Hoop) : (followTime a y).shown = y.shown := by
  unfold followTime
  extract_lets moved t z w
  have hz : z.shown = y.shown := Hoop.shown_retimed ..
  split
  · exact hz
  · exact (Hoop.shown_upd ..).trans ((takeRoles_shown _ z).trans hz)

theorem upd_shown (s : State) (h k : HoopId) {f : Hoop → Hoop} (hf : ∀ x, (f x).shown = x.shown) :
    ((s.upd h f).hoop k).shown = (s.hoop k).shown := by
  unfold State.upd
  split
  · by_cases hk : k = h
    · rw [hk, State.setHoop_self, hf]
    · have ho : k = other h := by
        revert hk
        cases h <;> cases k <;> decide
      rw [ho, State.setHoop_other]
  · rfl

theorem State.upd_pinsWf (s : State) (h : HoopId) {f : Hoop → Hoop} (hf : ∀ x, (f x).shown = x.shown) : (s.upd h f).pinsWf = s.pinsWf :=
  State.pinsWf_congr (fun k => upd_shown s h k hf) (congrArg Duo.grace (State.upd_duo ..)) (State.upd_balls ..)

theorem timeFollow_pinsWf (h : HoopId) {s : State} (hs : s.pinsWf = true) : (timeFollow h s).pinsWf = true := by
  unfold timeFollow
  split
  · rw [State.upd_pinsWf _ _ (followTime_shown _), hs]
  · exact hs

theorem pinned_timeFollow {s : State} (hs : s.pinsWf = true) (h : HoopId) : Pinned (.next (timeFollow h s)) := pinned_next (timeFollow_pinsWf h hs)

theorem offer_pinsWf {s : State} (hs : s.pinsWf = true) : (offer s).pinsWf = true := by
  unfold offer
  split
  · exact hs
  · dsimp only
    split
    · split
      · exact settle_pinsWf _
      · exact hs
    · exact hs

theorem powerFail_pinsWf {s : State} (hs : s.pinsWf = true) : (powerFail s).pinsWf = true := by
  unfold powerFail
  split
  · exact hs
  · exact settle_pinsWf _

theorem powerGood_pinsWf {s : State} (hs : s.pinsWf = true) : (powerGood s).pinsWf = true := by
  unfold powerGood
  split
  · exact hs
  · exact settle_pinsWf _

theorem execTimeLinkCompare_pinned (h : HoopId) (phase : Nat) (ok : Bool) (s : State) : Pinned (execTimeLinkCompare h phase ok s) := by
  unfold execTimeLinkCompare
  extract_lets t
  have ht : t.pinsWf = true := settle_pinsWf _
  split
  · exact pinned_timeFollow (timeFollow_pinsWf .hoopA ht) .hoopB
  · exact pinned_next ht

/-- Every row ends in `settle`, or changes no signal after it, or leaves the module as it is. -/
theorem exec_pinned {s : State} (hs : s.pinsWf = true) (i : Instr) : Pinned (exec i s) := by
  cases i
  case nop | create | modify | reopen | release | dark | darkNow | cancel | threadRead | ledgerRead | outcomeRead | batch | prkSlotLoad |
    prkSlotMask | prkSlotClear | prkListWrite | prkStart | prkSwap | prkSwapDisarm | prkStop | ringBind | ringUnbind | meterSet | keySet |
    eventSub | netCfg | ptpCfg | verifyCfg | adcProfile | refSel | calCfg | loopSet | loopAssign | tecDrive | tecCoef | setpoint | tecEnable
    | tripClear | thresholds | thmModel | holdupMin | samplerRestore | regRead | samplerRead | journalRead | resultRead | deltaRead |
    patchRead | elementRead | commitList | historyRead | fabricCommit | wlmCfg => exact pinned_serve hs ..
  case darkRelease h r => exact pinned_serve_after hs (darkReleaseRun h) h r 0x51 darkReleaseVerb
  case rejoin h r => exact pinned_serve_after hs (rejoinPeer h) h r 0x53 rejoinVerb
  case handover h r => exact pinned_next (offer_pinsWf (State.serve_pinsWf hs h r 0x52 handoverVerb))
  case domainSwitch h r => exact pinned_timeFollow (State.serve_pinsWf hs h r 0x41 domainSwitchVerb) h
  case syncReceived | syncTimeout | freerunTimeout | masterSelection =>
    refine pinned_timeFollow ?_ _
    exact act_pinsWf ..
  case timeLinkCompare h phase ok => exact execTimeLinkCompare_pinned ..
  case pwrFailAssert => exact pinned_next (powerFail_pinsWf hs)
  case pwrFailRelease => exact pinned_next (powerGood_pinsWf hs)
  case registerWrite | intakeDigest | pwmDutyEdge | powerOnReset | porRelease | monitorSelfTestDone => exact pinned_ite hs (settle_pinsWf _)
  all_goals exact pinned_settle _

/-! ## A tick -/

theorem Hoop.idle_shown (x : Hoop) : x.idle.shown = x.shown := by
  unfold Hoop.idle
  split
  · rfl
  · rw [Hoop.tick_eq]
    exact (Hoop.shown_upd ..).trans ((Hoop.shown_of_untold (pmcRaw_untold ..)).trans (Hoop.shown_upd ..))

theorem idleTick_pinsWf {s : State} (hs : s.pinsWf = true) : (idleTick s).pinsWf = true := by
  rw [idleTick_eq, State.upd_pinsWf _ _ Hoop.idle_shown, State.upd_pinsWf _ _ Hoop.idle_shown, hs]

theorem microTickIn_pinsWf (h : HoopId) {s : State} (hs : s.pinsWf = true) : (microTickIn h s).pinsWf = true := by
  unfold microTickIn
  extract_lets x y t done
  split
  · exact hs
  · exact settle_pinsWf _

theorem microTick_pinsWf {s : State} (hs : s.pinsWf = true) : (microTick s).pinsWf = true :=
  microTickIn_pinsWf .hoopB (microTickIn_pinsWf .hoopA hs)

theorem goTick_pinsWf {s : State} (hs : s.pinsWf = true) : (goTick s).pinsWf = true := by
  refine List.foldlRecOn (motive := fun t : State => t.pinsWf = true) s.hoops _ hs fun t ht h _ => ?_
  split
  · exact act_pinsWf ..
  · exact ht

/-- Settles O7: the row at the front of the queue keeps the pins, and so does each part of a tick. -/
theorem pinsFollowTheHoops : Obligations.PinsFollowTheHoops := by
  unfold Obligations.PinsFollowTheHoops
  intro s t hs ht
  cases hq : s.pending with
  | nil =>
    rw [step_nil hq] at ht
    cases ht
    exact goTick_pinsWf (microTick_pinsWf (idleTick_pinsWf hs))
  | cons i rest =>
    rw [step_cons hq] at ht
    have hs' : ({ s with pending := rest } : State).pinsWf = true := hs
    exact (exec_pinned hs' i).pins_of_next t ht

end Sys2Proof.Machine
end

section
/-!
SUPPORT. What keeps the byte memory of a hoop as it is: one lemma for each function of the model that does not store there, in the order of the
model's files, which the headings name.
-/

namespace Sys2Proof.Machine
open Sys2Proof

/-! A function that keeps `calm` keeps the memory with it. Of any other function a proof reads the memory off the body from the outside in, past one
operation after the other; hence the `↓`, which keeps `simp` out of the operands. -/

/-- The byte memory of a hoop. -/
def Hoop.cells (x : Hoop) : List Host.Cell := x.mram

theorem Hoop.cells_of_calm {x y : Hoop} (h : x.calm = y.calm) : x.cells = y.cells := Hoop.mram_of_calm h

/-- An update of any other fields keeps the memory. -/
theorem Hoop.cells_mk (x : Hoop) (part isB tb cm thr prk tmb drv slice prkSlice oldSlices rmap mon bob tec ths fc dk jnl hist led mbx evt pair wlm
    xbar pmc boot pwr settings calStore keeperImg mwrites bus freeIx) :
    (Hoop.mk part isB tb cm thr prk tmb drv slice prkSlice oldSlices rmap mon bob tec ths fc dk jnl hist led mbx evt pair wlm xbar pmc boot pwr
      settings calStore keeperImg x.mram mwrites bus freeIx).cells = x.cells := by cases x; rfl

theorem Hoop.cells_ite (c : Prop) [Decidable c] (x y : Hoop) : (if c then x else y).cells = if c then x.cells else y.cells := apply_ite ..

theorem Hoop.cells_cond (c : Bool) (x y : Hoop) : (bif c then x else y).cells = if c then x.cells else y.cells := by cases c <;> rfl

theorem Hoop.cells_foldl {α : Type} (f : Hoop → α → Hoop) (h : ∀ x a, (f x a).cells = x.cells) (l : List α) (x : Hoop) :
    (l.foldl f x).cells = x.cells :=
  foldl_keeps Hoop.cells f h l x

theorem Hoop.cells_snd {α : Type} (a : α) (x : Hoop) : (a, x).2.cells = x.cells := by cases x; rfl

theorem Hoop.cells_snd_ite {α : Type} (c : Prop) [Decidable c] (p q : α × Hoop) :
    (if c then p else q).2.cells = if c then p.2.cells else q.2.cells := apply_ite (fun p : α × Hoop => p.2.cells) ..

/-- The command's own effect keeps the memory. -/
def Verb.LeavesCells (v : Verb) : Prop := ∀ k x, (v.run k x).2.cells = x.cells

/-- The byte memories of the module. -/
def State.cells (s : State) : List Host.Cell × List Host.Cell := (s.a.cells, s.b.cells)

theorem State.cells_iff {s t : State} : t.cells = s.cells ↔ ∀ k, (t.hoop k).cells = (s.hoop k).cells := by
  simp only [State.cells, Prod.mk.injEq]
  refine ⟨fun ⟨ha, hb⟩ k => ?_, fun h => ⟨h .hoopA, h .hoopB⟩⟩
  cases k with
  | hoopA => exact ha
  | hoopB => exact hb

/-- An update of the duplex state, the balls and the queue keeps the memories. -/
theorem State.cells_mk (s : State) (duo : Duo) (balls : Balls) (pending : List Instr) : (State.mk s.a s.b duo balls pending).cells = s.cells := rfl

theorem State.cells_ite (c : Prop) [Decidable c] (s t : State) : (if c then s else t).cells = if c then s.cells else t.cells := apply_ite ..

theorem State.cells_foldl {α : Type} (f : State → α → State) (h : ∀ s a, (f s a).cells = s.cells) (l : List α) (s : State) :
    (l.foldl f s).cells = s.cells := foldl_keeps State.cells f h l s

theorem State.setDuo_cells (s : State) (d : Duo) : (s.setDuo d).cells = s.cells := rfl

theorem State.upd_cells_at (s : State) (h : HoopId) (f : Hoop → Hoop) (e : (f (s.hoop h)).cells = (s.hoop h).cells) :
    (s.upd h f).cells = s.cells := by
  unfold State.upd
  split
  · cases h with
    | hoopA => exact Prod.ext e rfl
    | hoopB => exact Prod.ext rfl e
  · rfl

theorem State.upd_cells (s : State) (h : HoopId) (f : Hoop → Hoop) (e : ∀ x, (f x).cells = x.cells) : (s.upd h f).cells = s.cells :=
  s.upd_cells_at h f (e _)

/-- A write that stores no byte, now or when it has waited. -/
theorem mramWrite_cells {w : MWrite} (hw : ∀ x, (applyMWrite x w).cells = x.cells) (x : Hoop) : (mramWrite w x).cells = x.cells := by
  unfold mramWrite
  simp only [↓Hoop.cells_mk, ↓Hoop.cells_ite, ite_self, hw]

theorem keeperWrite_cells (m : SMap NCode) (sp : BitVec 16) (x : Hoop) : (mramWrite (.keeper m sp) x).cells = x.cells :=
  mramWrite_cells (fun _ => Hoop.cells_mk ..) x

theorem addressWrite_cells (a : BitVec 12) (x : Hoop) : (mramWrite (.address a) x).cells = x.cells := mramWrite_cells (fun _ => Hoop.cells_mk ..) x
theorem calWrite_cells (r : SMap CalRec) (x : Hoop) : (mramWrite (.cal r) x).cells = x.cells := mramWrite_cells (fun _ => Hoop.cells_mk ..) x

/-! ## Ops -/

theorem pmcRaw_cells (c n : Nat) (x : Hoop) : (pmcRaw c n x).cells = x.cells := Hoop.cells_of_calm (pmcRaw_calm ..)
theorem Hoop.pwmPins_cells (x : Hoop) : (Hoop.pwmPins x).cells = x.cells := Hoop.cells_mk ..
theorem Hoop.setRing_cells (x : Hoop) (r : Nat) (g : Ring) : (Hoop.setRing x r g).cells = x.cells := Hoop.cells_of_calm (setRing_calm ..)
theorem Hoop.updRing_cells (x : Hoop) (r : Nat) (f : Ring → Ring) : (Hoop.updRing x r f).cells = x.cells := Hoop.cells_of_calm (updRing_calm ..)
theorem msixSend_cells (v : Nat) (x : Hoop) : (msixSend v x).cells = x.cells := Hoop.cells_of_calm (msixSend_calm ..)

theorem deliverEvAt_cells (stamp : Stamp) (r src : Nat) (payload : List Nat) (x : Hoop) : (deliverEvAt stamp r src payload x).cells = x.cells :=
  Hoop.cells_of_calm (deliverEvAt_calm ..)

theorem raiseEv_cells (src : Nat) (payload : List Nat) (sc : Scope) (x : Hoop) : (raiseEv src payload sc x).cells = x.cells :=
  Hoop.cells_of_calm (raiseEv_calm ..)

theorem pmcTell_cells (x : Hoop) : (pmcTell x).cells = x.cells := Hoop.cells_of_calm (pmcTell_calm ..)

theorem jnlPut_cells (type sev src : Nat) (wire : Bool) (payload : Bytes) (x : Hoop) : (jnlPut type sev src wire payload x).cells = x.cells :=
  Hoop.cells_of_calm (jnlPut_calm ..)

theorem Hoop.fresh_cells (x : Hoop) : (Hoop.fresh x).2.cells = x.cells := Hoop.cells_mk ..

/-! ## Lattice -/

theorem Hoop.updElem_cells (x : Hoop) (e : Nat) (f : Elem → Elem) : (Hoop.updElem x e f).cells = x.cells := Hoop.cells_mk ..
theorem Hoop.setChan_cells (x : Hoop) (c : Nat) (v : Chan) : (Hoop.setChan x c v).cells = x.cells := Hoop.cells_mk ..
theorem Hoop.updChan_cells (x : Hoop) (c : Nat) (f : Chan → Chan) : (Hoop.updChan x c f).cells = x.cells := Hoop.cells_mk ..

/-! ## Optics -/

theorem Hoop.setLoop_cells (x : Hoop) (e : Nat) (v : Loop) : (Hoop.setLoop x e v).cells = x.cells := Hoop.cells_mk ..
theorem Hoop.updLoop_cells (x : Hoop) (e : Nat) (f : Loop → Loop) : (Hoop.updLoop x e f).cells = x.cells := Hoop.cells_mk ..

/-! ## Frames -/

theorem Hoop.updLink_cells (x : Hoop) (k : Nat) (f : Link → Link) : (Hoop.updLink x k f).cells = x.cells := Hoop.cells_of_calm (updLink_calm ..)
theorem sendFrame_cells (k : Nat) (tel : Bool) (b : Bytes) (x : Hoop) : (sendFrame k tel b x).cells = x.cells :=
  Hoop.cells_of_calm (sendFrame_calm ..)
theorem Hoop.setRt_cells (x : Hoop) (a : Nat) (r : Rt) : (Hoop.setRt x a r).cells = x.cells := Hoop.cells_mk ..
theorem sendToward_cells (tel : Bool) (b : Bytes) (x : Hoop) : (sendToward tel b x).cells = x.cells := Hoop.cells_of_calm (sendToward_calm ..)

theorem originate_cells (dst type : Nat) (payload : Bytes) (x : Hoop) : (originate dst type payload x).cells = x.cells :=
  Hoop.cells_of_calm (originate_calm ..)

theorem sendLocal_cells (k type : Nat) (payload : Bytes) (x : Hoop) : (sendLocal k type payload x).cells = x.cells :=
  Hoop.cells_of_calm (sendLocal_calm ..)

/-! ## Threads -/

theorem Hoop.setThread_cells (x : Hoop) (i : Nat) (t : Thread) : (Hoop.setThread x i t).cells = x.cells := Hoop.cells_of_calm (setThread_calm ..)
theorem Hoop.updThread_cells (x : Hoop) (i : Nat) (f : Thread → Thread) : (Hoop.updThread x i f).cells = x.cells :=
  Hoop.cells_of_calm (updThread_calm ..)

theorem threadEvent_cells (i : Nat) (t : Thread) (prev : ThreadSt) (cause seq src slot : Nat) (x : Hoop) :
    (threadEvent i t prev cause seq src slot x).cells = x.cells :=
  Hoop.cells_of_calm (threadEvent_calm ..)

theorem countSt_cells (st : ThreadSt) (x : Hoop) : (countSt st x).cells = x.cells := Hoop.cells_of_calm (countSt_calm ..)

theorem setSt_cells (i : Nat) (st : ThreadSt) (cause seq src : Nat) (x : Hoop) : (setSt i st cause seq src x).cells = x.cells :=
  Hoop.cells_of_calm (setSt_calm ..)

theorem ledStart_cells (i at_ : Nat) (x : Hoop) : (ledStart i at_ x).cells = x.cells := Hoop.cells_of_calm (ledStart_calm ..)
theorem ledEnd_cells (i at_ : Nat) (counted : Bool) (x : Hoop) : (ledEnd i at_ counted x).cells = x.cells := Hoop.cells_of_calm (ledEnd_calm ..)
theorem ledVerified_cells (i at_ : Nat) (x : Hoop) : (ledVerified i at_ x).cells = x.cells := Hoop.cells_of_calm (ledVerified_calm ..)
theorem ledFlag_cells (k : Nat) (x : Hoop) : (ledFlag k x).cells = x.cells := Hoop.cells_of_calm (ledFlag_calm ..)

theorem sendNotices_cells (c : Chain) (inPort cause : Nat) (x : Hoop) : (sendNotices c inPort cause x).cells = x.cells :=
  Hoop.cells_of_calm (sendNotices_calm ..)

theorem notify_cells (i cause : Nat) (x : Hoop) : (notify i cause x).cells = x.cells := Hoop.cells_of_calm (notify_calm ..)
theorem Hoop.setNeedle_cells (x : Hoop) (e : Nat) (v : Needle) : (Hoop.setNeedle x e v).cells = x.cells := Hoop.cells_of_calm (setNeedle_calm ..)
theorem Hoop.updNeedle_cells (x : Hoop) (e : Nat) (f : Needle → Needle) : (Hoop.updNeedle x e f).cells = x.cells :=
  Hoop.cells_of_calm (updNeedle_calm ..)
theorem Hoop.setIdle_cells (x : Hoop) (e : Nat) (c : NCode) : (Hoop.setIdle x e c).cells = x.cells := Hoop.cells_of_calm (setIdle_calm ..)
theorem putOutcome_cells (o : Outcome) (x : Hoop) : (putOutcome o x).cells = x.cells := Hoop.cells_of_calm (putOutcome_calm ..)
theorem outcomes_cells (x : Hoop) : (outcomes x).cells = x.cells := Hoop.cells_of_calm (outcomes_calm ..)
theorem override_cells (i : Nat) (on : Bool) (x : Hoop) : (override i on x).cells = x.cells := Hoop.cells_of_calm (override_calm ..)
theorem reqDark_cells (i : Nat) (x : Hoop) : (reqDark i x).cells = x.cells := Hoop.cells_of_calm (reqDark_calm ..)
theorem darkThread_cells (i cause seq src : Nat) (x : Hoop) : (darkThread i cause seq src x).cells = x.cells :=
  Hoop.cells_of_calm (darkThread_calm ..)
theorem faultThread_cells (i seq src : Nat) (x : Hoop) : (faultThread i seq src x).cells = x.cells := Hoop.cells_of_calm (faultThread_calm ..)
theorem prkPay_cells (i at_ : Nat) (ok : Bool) (x : Hoop) : (prkPay i at_ ok x).cells = x.cells := Hoop.cells_of_calm (prkPay_calm ..)

/-! ## Faults -/

theorem Hoop.setSrc_cells (x : Hoop) (s : Nat) (v : Src) : (Hoop.setSrc x s v).cells = x.cells := Hoop.cells_of_calm (setSrc_calm ..)
theorem tellFirst_cells (x : Hoop) : (tellFirst x).cells = x.cells := Hoop.cells_of_calm (tellFirst_calm ..)

theorem faultOn_cells (s det : Nat) (wire : Bool) (extra : List Nat) (x : Hoop) : (faultOn s det wire extra x).cells = x.cells :=
  Hoop.cells_of_calm (faultOn_calm ..)

theorem fault_cells (s det : Nat) (x : Hoop) : (fault s det x).cells = x.cells := Hoop.cells_of_calm (fault_calm ..)
theorem faultOff_cells (s : Nat) (x : Hoop) : (faultOff s x).cells = x.cells := Hoop.cells_of_calm (faultOff_calm ..)
theorem engage_cells (cause sev : Nat) (remote : Bool) (x : Hoop) : (engage cause sev remote x).cells = x.cells := Hoop.cells_of_calm (engage_calm ..)
theorem setRole_cells (r : Role) (cause : Nat) (x : Hoop) : (setRole r cause x).cells = x.cells := Hoop.cells_of_calm (setRole_calm ..)

theorem settleS4_cells (s : State) : (settleS4 s).cells = s.cells := by
  unfold settleS4
  split
  · rfl
  · refine State.cells_foldl _ (fun s h => State.upd_cells s h _ fun x => ?_) _ s
    split <;> exact engage_cells ..

theorem cutWindows_cells (x : Hoop) : (cutWindows x).cells = x.cells := Hoop.cells_of_calm (cutWindows_calm ..)

theorem abandonHo_cells (cause : Nat) (s : State) : (abandonHo cause s).cells = s.cells := by
  unfold abandonHo
  simp only [↓Hoop.cells_mk, ↓State.cells_ite, ite_self, ↓State.cells_foldl, implies_true, ↓State.upd_cells, ↓raiseEv_cells, ↓State.setDuo_cells]

theorem settleHo_cells (s : State) : (settleHo s).cells = s.cells := by
  unfold settleHo
  split <;> simp only [↓State.cells_ite, ite_self, ↓abandonHo_cells]

theorem settleRel_cells (s : State) : (settleRel s).cells = s.cells := by
  unfold settleRel
  simp only [↓Hoop.cells_mk, ↓State.cells_ite, ite_self, ↓State.cells_foldl, implies_true, ↓State.upd_cells]

theorem settleS3_cells (s : State) (h : HoopId) : (settleS3 s h).cells = s.cells := by
  unfold settleS3
  dsimp only
  split <;> simp only [↓State.cells_ite, ite_self, ↓State.cells_foldl, implies_true, ↓State.upd_cells, ↓engage_cells, ↓setRole_cells,
    ↓cutWindows_cells,
    ↓State.setDuo_cells]

theorem settleRole_cells (s : State) (h : HoopId) : (settleRole s h).cells = s.cells := by
  unfold settleRole
  simp only [↓Hoop.cells_mk, ↓State.cells_ite, ite_self, implies_true, ↓State.upd_cells, ↓setRole_cells]

theorem settleLink_cells (s : State) (h : HoopId) : (settleLink s h).cells = s.cells := by
  unfold settleLink
  split
  · rfl
  · extract_lets x p s1 s2
    have h1 : s1.cells = s.cells := by
      simp only [s1, ↓State.upd_cells, ↓Hoop.cells_ite, ↓Hoop.cells_mk, ite_self, implies_true]
    have h2 : s2.cells = s1.cells := by
      refine State.cells_foldl _ (fun s b => State.upd_cells s p _ fun y => ?_) _ s1
      split
      · exact sendFrame_cells ..
      · exact (pmcRaw_cells ..).trans (Hoop.cells_mk ..)
    exact (State.upd_cells s2 h _ fun y => Hoop.cells_mk ..).trans (h2.trans h1)

theorem settleVouch_cells (x : Hoop) : (settleVouch x).cells = x.cells := Hoop.cells_of_calm (settleVouch_calm ..)
theorem setStage_cells (st : Stage) (x : Hoop) : (setStage st x).cells = x.cells := Hoop.cells_of_calm (setStage_calm ..)
theorem settleStage_cells (x : Hoop) : (settleStage x).cells = x.cells := Hoop.cells_of_calm (settleStage_calm ..)

theorem settlePins_cells (s : State) : (settlePins s).cells = s.cells := by
  unfold settlePins
  simp only [↓State.cells_mk]

theorem settle_cells (s : State) : (settle s).cells = s.cells := by
  unfold settle
  simp only [↓State.cells_foldl, implies_true, ↓settleHo_cells, ↓settleRel_cells, ↓settleS4_cells, ↓settleS3_cells, ↓settleRole_cells,
    ↓settleLink_cells, ↓State.upd_cells, ↓pmcTell_cells, ↓settleStage_cells, ↓settleVouch_cells, ↓tellFirst_cells, ↓settlePins_cells]

theorem State.act_cells (s : State) (h : HoopId) (f : Hoop → Hoop) (e : ∀ x, (f x).cells = x.cells) : (s.act h f).cells = s.cells :=
  (settle_cells ..).trans (State.upd_cells s h f e)

/-! ## Intake -/

theorem breakRun_cells (r op : Nat) (x : Hoop) : (breakRun r op x).cells = x.cells := Hoop.cells_of_calm (breakRun_calm ..)

theorem completeFront_cells (r : Nat) (a : Ans) (hold : Option (Nat × Stamp)) (x : Hoop) : (completeFront r a hold x).cells = x.cells :=
  Hoop.cells_of_calm (completeFront_calm ..)

theorem pumpRing_cells (r : Nat) (x : Hoop) : (pumpRing r x).cells = x.cells := Hoop.cells_of_calm (pumpRing_calm ..)
theorem served_cells (r : Nat) (c : ReadCmd) (x : Hoop) : (served r c x).cells = x.cells := Hoop.cells_of_calm (served_calm ..)

theorem answer_cells {v : Verb} (hv : v.LeavesCells) (k : Ctx) (x : Hoop) : (answer v k x).2.cells = x.cells := by
  unfold answer
  simp only [↓Hoop.cells_snd, ↓Hoop.cells_snd_ite, ↓hv _ _, ↓Hoop.updRing_cells, ↓breakRun_cells, ite_self]

theorem serveFront_cells (peer : Hoop) (r op : Nat) {v : Verb} (hv : v.LeavesCells) (x : Hoop) : (serveFront peer r op v x).cells = x.cells := by
  unfold serveFront
  split
  · rfl
  · simp only [↓Hoop.cells_ite, ↓pumpRing_cells, ↓completeFront_cells, ↓served_cells, ↓answer_cells hv, ite_self]

theorem State.serve_cells (s : State) (h : HoopId) (r op : Nat) {v : Verb} (hv : v.LeavesCells) : (s.serve h r op v).cells = s.cells := by
  unfold State.serve
  simp only [↓State.cells_ite, ↓State.act_cells _ _ _ (serveFront_cells _ r op hv), ite_self]

theorem adminOk_cells (k : Ctx) (x y : Hoop) : (adminOk k x y).2.cells = y.cells := Hoop.cells_of_calm (adminOk_calm ..)
theorem storeSetting_cells (k : Ctx) (which : Nat) (x : Hoop) : (storeSetting k which x).cells = x.cells := Hoop.cells_mk ..

/-! ## Images -/

theorem refreshElems_cells (es : List Nat) (x : Hoop) : (refreshElems es x).cells = x.cells := by
  unfold refreshElems
  simp only [↓Hoop.cells_ite, ite_self, ↓Hoop.cells_foldl, implies_true, ↓Hoop.updElem_cells]

theorem remix_cells (x : Hoop) : (remix x).cells = x.cells := Hoop.cells_mk ..

theorem installed_cells (at_ : Nat) (x : Hoop) : (installed at_ x).cells = x.cells := by
  unfold installed
  simp only [↓Hoop.cells_mk]

theorem unoverride_cells (ks : List Nat) (x : Hoop) : (unoverride ks x).cells = x.cells := by
  unfold unoverride
  simp only [↓Hoop.cells_foldl, implies_true, ↓override_cells]

theorem renew_cells (ks : List Nat) (x : Hoop) : (renew ks x).cells = x.cells := by
  unfold renew
  simp only [↓Hoop.cells_mk, ↓unoverride_cells]

/-! ## Commits -/

theorem postNormal_cells (o : TOp) (x : Hoop) : (postNormal o x).cells = x.cells := Hoop.cells_mk ..

theorem postStage_cells (x : Hoop) : (postStage x).cells = x.cells := by
  unfold postStage
  split <;> simp only [↓Hoop.cells_mk, ↓Hoop.cells_ite, ite_self, ↓postNormal_cells]

theorem postUrgent_cells (o : TOp) (x : Hoop) : (postUrgent o x).cells = x.cells := Hoop.cells_mk ..

theorem unstage_cells (x : Hoop) : (unstage x).cells = x.cells := by
  unfold unstage
  dsimp only
  repeat' split
  all_goals simp only [↓Hoop.cells_mk, ↓postUrgent_cells]

theorem unstagePrk_cells (x : Hoop) : (unstagePrk x).cells = x.cells := Hoop.cells_mk ..

theorem takeCommit_cells (seq ring tenant ens : Nat) (c : Compiled) (fcid : Option Nat) (x : Hoop) :
    (takeCommit seq ring tenant ens c fcid x).cells = x.cells := by
  unfold takeCommit
  simp only [↓postStage_cells, ↓pmcRaw_cells]
  refine (Hoop.cells_foldl _ (fun y g => ?_) _ _).trans ?_
  · split <;> simp only [↓override_cells, ↓threadEvent_cells, ↓Hoop.setThread_cells, ↓setSt_cells, ↓Hoop.updThread_cells]
  · simp only [↓Hoop.cells_mk, ↓Hoop.cells_ite, ↓Hoop.cells_foldl, ↓unstage_cells, ↓unstagePrk_cells, ite_self, implies_true]

theorem acceptCommit_cells (k : Ctx) (w : Asker) (hasEpoch exact : Bool) (ens : Nat) (batch : Bool) (es : List Edit) (x : Hoop) :
    (acceptCommit k w hasEpoch exact ens batch es x).2.cells = x.cells := by
  unfold acceptCommit
  split <;> simp only [↓Hoop.cells_snd, ↓raiseEv_cells, ↓takeCommit_cells]

/-! ## Outcomes -/

theorem setFab_cells (s : Nat) (f : Fab) (x : Hoop) : (setFab s f x).cells = x.cells := Hoop.cells_mk ..
theorem freeFab_cells (s : Nat) (x : Hoop) : (freeFab s x).cells = x.cells := Hoop.cells_mk ..

theorem fabEnd_cells (initiator fcid result reason : Nat) (x : Hoop) : (fabEnd initiator fcid result reason x).cells = x.cells := by
  unfold fabEnd
  repeat' split
  all_goals simp only [↓setFab_cells, ↓freeFab_cells, ↓raiseEv_cells, ↓originate_cells]

theorem undoChange_cells (seq : Nat) (g : Change) (x : Hoop) : (undoChange seq g x).cells = x.cells := by
  unfold undoChange
  split <;> simp only [↓Hoop.cells_mk, ↓Hoop.cells_ite, ite_self, ↓threadEvent_cells, ↓Hoop.setThread_cells, ↓setSt_cells, ↓override_cells]

theorem withdraw_cells (c : Commit) (code : Nat) (note : Bool) (x : Hoop) : (withdraw c code note x).cells = x.cells := by
  unfold withdraw
  repeat' split
  all_goals simp only [↓Hoop.cells_mk, ↓Hoop.cells_foldl, implies_true, ↓postUrgent_cells, ↓undoChange_cells, ↓raiseEv_cells, ↓putOutcome_cells,
    ↓fabEnd_cells, ↓postStage_cells]

theorem withdrawDeps_cells (fuel : Nat) (keys : List Nat) (code : Nat) (x : Hoop) : (withdrawDeps fuel keys code x).cells = x.cells := by
  induction fuel generalizing keys x with
  | zero => rfl
  | succ fuel ih =>
    unfold withdrawDeps
    split
    · exact (ih ..).trans (withdraw_cells ..)
    · rfl

theorem abortCommit_cells (c : Commit) (code : Nat) (note : Bool) (x : Hoop) : (abortCommit c code note x).cells = x.cells :=
  (withdrawDeps_cells ..).trans (withdraw_cells ..)

theorem respond_cells (k : Ctx) (size : Nat) (recs : List Bytes) (x : Hoop) : (respond k size recs x).2.cells = x.cells := by
  unfold respond
  split <;> simp only [↓Hoop.cells_mk, ↓Hoop.cells_snd]

/-! ## Clock -/

theorem Hoop.setCmp_cells (x : Hoop) (k : Nat) (c : Cmp) : (Hoop.setCmp x k c).cells = x.cells := Hoop.cells_mk ..

theorem lateArm_cells (k t16 : Nat) (x : Hoop) : (lateArm k t16 x).cells = x.cells := by
  unfold lateArm
  simp only [↓raiseEv_cells]

theorem cmpArm_cells {k t16 : Nat} {x y : Hoop} (h : cmpArm k t16 x = some y) : y.cells = x.cells := by
  unfold cmpArm at h
  split at h
  · cases h; exact Hoop.setCmp_cells ..
  · cases h

theorem armAt_cells (k ns : Nat) (x : Hoop) : (armAt k ns x).cells = x.cells := by
  unfold armAt
  extract_lets c
  split
  · exact Hoop.cells_mk ..
  · split
    · exact cmpArm_cells ‹_›
    · exact lateArm_cells ..

theorem cmpDisarm_cells (k : Nat) (x : Hoop) : (cmpDisarm k x).cells = x.cells := Hoop.cells_mk ..
theorem dropArm_cells (k : Nat) (x : Hoop) : (dropArm k x).cells = x.cells := Hoop.cells_mk ..
theorem cmpFire_cells (k : Nat) (x : Hoop) : (cmpFire k x).cells = x.cells := Hoop.cells_mk ..

theorem cmpFireDue_cells (k : Nat) (x : Hoop) : (cmpFireDue k x).cells = x.cells := by
  unfold cmpFireDue
  simp only [↓Hoop.cells_ite, ite_self, ↓cmpFire_cells]

theorem Hoop.setDom_cells (x : Hoop) (d : Nat) (v : Dom) : (Hoop.setDom x d v).cells = x.cells := by
  unfold Hoop.setDom
  simp only [↓Hoop.cells_mk, ↓Hoop.cells_ite, ite_self]

theorem setServo_cells (d : Nat) (st : Servo) (x : Hoop) : (setServo d st x).cells = x.cells := by
  unfold setServo
  simp only [↓Hoop.cells_ite, ite_self, ↓raiseEv_cells, ↓Hoop.setDom_cells]

theorem updValid_cells (x : Hoop) : (updValid x).cells = x.cells := by
  unfold updValid
  simp only [↓Hoop.cells_mk, ↓Hoop.cells_ite, ite_self, ↓ledFlag_cells, ↓raiseEv_cells]

theorem setInc_cells (i : Int) (x : Hoop) : (setInc i x).cells = x.cells := Hoop.cells_mk ..
theorem steerInc_cells (x : Hoop) : (steerInc x).cells = x.cells := Hoop.cells_mk ..

theorem ppsArm_cells (ns : Nat) (x : Hoop) : (ppsArm ns x).cells = x.cells := by
  unfold ppsArm
  simp only [↓Hoop.cells_ite, ite_self, ↓armAt_cells]

theorem countStep_cells (off : Int) (x : Hoop) : (countStep off x).cells = x.cells := by
  unfold countStep
  simp only [↓Hoop.cells_mk, ↓Hoop.cells_ite, ite_self, ↓ppsArm_cells, ↓cmpDisarm_cells]

theorem takeRoles_cells (d : Int) (x : Hoop) : (takeRoles d x).cells = x.cells := by
  unfold takeRoles
  simp only [↓Hoop.cells_mk, ↓Hoop.cells_ite, ite_self, ↓raiseEv_cells, ↓ledFlag_cells, ↓jnlPut_cells, ↓updValid_cells]

theorem switchDomains_cells (x : Hoop) : (switchDomains x).cells = x.cells := by
  unfold switchDomains
  simp only [↓Hoop.cells_mk, ↓setInc_cells, ↓takeRoles_cells]

theorem autoSwitch_cells (x : Hoop) : (autoSwitch x).cells = x.cells := by
  unfold autoSwitch
  simp only [↓Hoop.cells_ite, ite_self, ↓switchDomains_cells]

theorem toHoldover_cells (d : Nat) (x : Hoop) : (toHoldover d x).cells = x.cells := by
  unfold toHoldover
  simp only [↓Hoop.cells_ite, ite_self, ↓setInc_cells, ↓setServo_cells, ↓updValid_cells, ↓autoSwitch_cells]

theorem syncIn_cells (d : Nat) (corr filt : Int) (sec ns : Nat) (utc : Int) (x : Hoop) : (syncIn d corr filt sec ns utc x).cells = x.cells := by
  unfold syncIn
  simp only [↓Hoop.cells_mk, ↓Hoop.cells_ite, ite_self, ↓pmcRaw_cells, ↓Hoop.setDom_cells, ↓fault_cells, ↓faultOff_cells, ↓steerInc_cells,
    ↓countStep_cells,
    ↓Hoop.fresh_cells, ↓updValid_cells]
  repeat' split
  all_goals simp only [↓pmcRaw_cells, ↓Hoop.setDom_cells, ↓setServo_cells]

theorem ptpCfgVerb_leavesCells : ptpCfgVerb.LeavesCells := fun k x => by
  simp only [ptpCfgVerb, ↓Hoop.setDom_cells, ↓adminOk_cells, ↓updValid_cells, ↓storeSetting_cells]

theorem domainSwitchVerb_leavesCells : domainSwitchVerb.LeavesCells := fun k x => by
  simp only [domainSwitchVerb, ↓Hoop.cells_ite, ite_self, ↓adminOk_cells, ↓switchDomains_cells]

theorem followTime_cells (a y : Hoop) : (followTime a y).cells = y.cells := by
  unfold followTime
  simp only [↓Hoop.cells_mk, ↓Hoop.cells_ite, ite_self, ↓takeRoles_cells]

theorem timeFollow_cells (h : HoopId) (s : State) : (timeFollow h s).cells = s.cells := by
  unfold timeFollow
  simp only [↓State.cells_ite, ite_self, implies_true, ↓State.upd_cells, ↓followTime_cells]

theorem snap_cells (v : BitVec 32) (x : Hoop) : (snap v x).cells = x.cells := by
  unfold snap
  simp only [↓Hoop.cells_mk, ↓Hoop.cells_ite, ite_self]

theorem ppsCtrl_cells (v : BitVec 32) (x : Hoop) : (ppsCtrl v x).cells = x.cells := by
  unfold ppsCtrl
  simp only [↓Hoop.cells_mk, ↓Hoop.cells_ite, ite_self, ↓ppsArm_cells]

theorem firedClear_cells (v : BitVec 32) (x : Hoop) : (firedClear v x).cells = x.cells := by
  unfold firedClear
  simp only [↓Hoop.cells_ite, ite_self, ↓Hoop.cells_foldl, implies_true, ↓Hoop.setCmp_cells]

theorem ppsEdge_cells (x : Hoop) : (ppsEdge x).cells = x.cells := by
  unfold ppsEdge
  simp only [↓Hoop.cells_mk, ↓Hoop.cells_ite, ite_self, ↓cmpFire_cells, ↓ppsArm_cells]

theorem ppsIn_cells (x : Hoop) : (ppsIn x).cells = x.cells := by
  unfold ppsIn
  simp only [↓Hoop.cells_mk, ↓Hoop.cells_ite, ite_self, ↓raiseEv_cells]

theorem heldSweep_cells (x : Hoop) : (heldSweep x).cells = x.cells := by
  unfold heldSweep
  simp only [↓Hoop.cells_mk, ↓Hoop.cells_foldl, implies_true, ↓postStage_cells, ↓armAt_cells]

theorem anchorRewrite_cells (x : Hoop) : (anchorRewrite x).cells = x.cells := by
  unfold anchorRewrite
  simp only [↓Hoop.cells_mk, ↓Hoop.cells_ite, ite_self]

theorem limitExpiry_cells (x : Hoop) : (limitExpiry x).cells = x.cells := by
  unfold limitExpiry
  simp only [↓Hoop.cells_mk, ↓Hoop.cells_ite, ite_self, ↓updValid_cells]

theorem freerun_cells (d : Nat) (x : Hoop) : (freerun d x).cells = x.cells := by
  unfold freerun
  simp only [↓Hoop.cells_ite, ite_self, ↓setInc_cells, ↓updValid_cells, ↓autoSwitch_cells, ↓setServo_cells]

theorem masterSel_cells (d : Nat) (sel : Bool) (x : Hoop) : (masterSel d sel x).cells = x.cells := by
  unfold masterSel
  simp only [↓Hoop.cells_ite, ite_self, ↓Hoop.setDom_cells, ↓toHoldover_cells]

theorem delayIn_cells (d ago rSec rNs : Nat) (corr : Int) (x : Hoop) : (delayIn d ago rSec rNs corr x).cells = x.cells := by
  unfold delayIn
  simp only [↓pmcRaw_cells, ↓Hoop.setDom_cells]

theorem timeLink_cells (phase : Nat) (ok : Bool) (x : Hoop) : (timeLink phase ok x).cells = x.cells := by
  unfold timeLink
  simp only [↓Hoop.cells_mk, ↓Hoop.cells_ite, ite_self, ↓fault_cells, ↓faultOff_cells]

/-! ## Drive -/

theorem Hoop.updHeater_cells (x : Hoop) (e : Nat) (f : Heater → Heater) : (Hoop.updHeater x e f).cells = x.cells := Hoop.cells_mk ..
theorem Hoop.updTile_cells (x : Hoop) (t : Nat) (f : Tile → Tile) : (Hoop.updTile x t f).cells = x.cells := Hoop.cells_of_calm (updTile_calm ..)

theorem noteClamp_cells (x : Hoop) (e : Nat) : (noteClamp x e).cells = x.cells := by
  unfold noteClamp
  simp only [↓Hoop.cells_mk, ↓Hoop.cells_ite, ite_self]

theorem sampleNeedle_cells (x : Hoop) (e : Nat) : (sampleNeedle x e).cells = x.cells := by
  unfold sampleNeedle
  simp only [↓noteClamp_cells, ↓Hoop.updNeedle_cells]

theorem loadReg_cells (x : Hoop) (e : Nat) (c : NCode) : (loadReg x e c).cells = x.cells := by
  unfold loadReg
  simp only [↓Hoop.cells_mk, ↓Hoop.cells_ite, ite_self, ↓Hoop.setNeedle_cells, ↓noteClamp_cells]

theorem writeNeedle_cells (x : Hoop) (e : Nat) (c : NCode) : (writeNeedle x e c).cells = x.cells := by
  unfold writeNeedle
  simp only [↓loadReg_cells, ↓Hoop.updNeedle_cells]

theorem updateNeedle_cells (x : Hoop) (e : Nat) (c : NCode) : (updateNeedle x e c).cells = x.cells := by
  unfold updateNeedle
  simp only [↓Hoop.cells_ite, ite_self, ↓Hoop.updNeedle_cells, ↓writeNeedle_cells]

theorem skipWindow_cells (x : Hoop) : (skipWindow x).cells = x.cells := by
  unfold skipWindow
  simp only [↓Hoop.cells_mk, ↓pmcRaw_cells]

theorem openWindow_cells (t : Nat) (k : WinKind) (x : Hoop) : (openWindow t k x).cells = x.cells := by
  unfold openWindow
  split <;> simp only [↓Hoop.cells_ite, ite_self, ↓Hoop.cells_foldl, implies_true, ↓Hoop.updTile_cells, ↓sampleNeedle_cells, ↓pmcRaw_cells,
    ↓skipWindow_cells]

theorem noteCheck_cells (kind e : Nat) (x : Hoop) : (noteCheck kind e x).cells = x.cells := by
  unfold noteCheck
  simp only [↓Hoop.cells_mk]

theorem checkFail_cells (kind e : Nat) (x : Hoop) : (checkFail kind e x).cells = x.cells := by
  unfold checkFail
  simp only [↓Hoop.cells_ite, ite_self, ↓noteCheck_cells, ↓fault_cells, ↓faultOn_cells, ↓Hoop.updNeedle_cells, ↓Hoop.updElem_cells]

theorem handBack_cells (h : HoopId) (kind e : Nat) (s : State) : (handBack h kind e s).cells = s.cells := by
  unfold handBack
  simp only [↓Hoop.cells_mk, ite_self, implies_true, ↓Hoop.cells_ite, ↓State.upd_cells, ↓fault_cells, ↓noteCheck_cells, ↓State.setDuo_cells]

theorem failIn_cells (h : HoopId) (kind e : Nat) (s : State) : (failIn h kind e s).cells = s.cells := by
  unfold failIn
  simp only [↓State.cells_ite, ite_self, implies_true, ↓handBack_cells, ↓State.upd_cells, ↓checkFail_cells]

theorem clearChecks_cells (t : Nat) (x : Hoop) : (clearChecks t x).cells = x.cells := by
  unfold clearChecks
  simp only [↓Hoop.cells_ite, ite_self, ↓Hoop.cells_foldl, implies_true, ↓faultOff_cells]

theorem keeperRefresh_cells (x : Hoop) : (keeperRefresh x).cells = x.cells := by
  unfold keeperRefresh
  simp only [↓Hoop.cells_mk, ↓Hoop.cells_ite, ite_self]

theorem keeperTake_cells (x : Hoop) : (keeperTake x).cells = x.cells := by
  unfold keeperTake
  split <;> simp only [↓Hoop.cells_mk, ↓Hoop.cells_ite, ite_self, ↓raiseEv_cells, ↓keeperWrite_cells]

theorem arbitrate_cells (s : State) : (arbitrate s).cells = s.cells := by
  unfold arbitrate
  simp only [implies_true, ↓State.upd_cells, ↓fault_cells]

theorem noteMismatch_cells (item what : Nat) (x : Hoop) : (noteMismatch item what x).cells = x.cells := by
  unfold noteMismatch
  simp only [↓Hoop.cells_mk, ↓raiseEv_cells]

theorem sigCompare_cells (h : HoopId) (t : Nat) (s : State) : (sigCompare h t s).cells = s.cells := by
  unfold sigCompare
  simp only [↓Hoop.cells_mk, ↓State.cells_ite, ite_self, implies_true, ↓State.upd_cells, ↓arbitrate_cells, ↓noteMismatch_cells, ↓raiseEv_cells]

theorem catchupTile_cells (t : Nat) (x : Hoop) : (catchupTile t x).cells = x.cells := by
  unfold catchupTile
  simp only [↓Hoop.cells_mk, ↓Hoop.cells_foldl, implies_true, ↓writeNeedle_cells]

theorem refPos_cells (t : Nat) (x : Hoop) : (refPos t x).cells = x.cells := Hoop.cells_mk ..

theorem refreshSlot_cells (h : HoopId) (t : Nat) (fails : List Nat) (s : State) : (refreshSlot h t fails s).cells = s.cells := by
  unfold refreshSlot
  simp only [↓State.cells_ite, ite_self, ↓State.cells_foldl, implies_true, ↓State.upd_cells, ↓keeperTake_cells, ↓refPos_cells, ↓catchupTile_cells,
    ↓failIn_cells, ↓openWindow_cells, ↓sigCompare_cells]

theorem ditherWindow_cells (t : Nat) (x : Hoop) : (ditherWindow t x).cells = x.cells := by
  unfold ditherWindow
  simp only [↓Hoop.cells_ite, ite_self, ↓openWindow_cells]

theorem slewNeedle_cells (step : Nat) (x : Hoop) (e : Nat) : (slewNeedle step x e).cells = x.cells := by
  unfold slewNeedle
  simp only [↓Hoop.cells_ite, ite_self, ↓loadReg_cells, ↓Hoop.updNeedle_cells]

theorem slewDone_cells (t : Nat) (x : Hoop) : (slewDone t x).cells = x.cells := by
  unfold slewDone
  simp only [↓Hoop.cells_ite, ite_self, ↓Hoop.updTile_cells]

theorem needleStep_cells (t : Nat) (x : Hoop) : (needleStep t x).cells = x.cells := by
  unfold needleStep
  simp only [↓Hoop.cells_ite, ite_self, ↓Hoop.cells_foldl, implies_true, ↓openWindow_cells, ↓slewNeedle_cells, ↓slewDone_cells]

theorem windowEnd_cells (h : HoopId) (t : Nat) (fails : List Nat) (s : State) : (windowEnd h t fails s).cells = s.cells := by
  unfold windowEnd
  simp only [↓Hoop.cells_mk, ↓State.cells_ite, ite_self, ↓State.cells_foldl, implies_true, ↓Hoop.cells_ite, ↓failIn_cells, ↓State.upd_cells,
    ↓clearChecks_cells, ↓Hoop.updTile_cells]

theorem setOut_cells (e : Nat) (c : BitVec 12) (x : Hoop) : (setOut e c x).cells = x.cells := Hoop.cells_mk ..
theorem holdHeater_cells (e : Nat) (x : Hoop) : (holdHeater e x).cells = x.cells := Hoop.cells_mk ..

theorem moveHeater_cells (e : Nat) (x : Hoop) : (moveHeater e x).cells = x.cells := by
  unfold moveHeater
  simp only [↓Hoop.cells_ite, ite_self, ↓setOut_cells, ↓holdHeater_cells]

theorem heaterPort_cells (e : Nat) (c : BitVec 12) (r : Bool) (x : Hoop) : (heaterPort e c r x).cells = x.cells := by
  unfold heaterPort
  simp only [↓moveHeater_cells, ↓Hoop.updHeater_cells]

theorem slewHeater_cells (step : Nat) (x : Hoop) (e : Nat) : (slewHeater step x e).cells = x.cells := by
  unfold slewHeater
  simp only [↓Hoop.cells_ite, ite_self, ↓moveHeater_cells, ↓setOut_cells]

theorem gentleEnd_cells (t : Nat) (x : Hoop) : (gentleEnd t x).cells = x.cells := by
  unfold gentleEnd
  simp only [↓Hoop.cells_ite, ite_self, ↓Hoop.updTile_cells]

theorem heaterStep_cells (t : Nat) (x : Hoop) : (heaterStep t x).cells = x.cells := by
  unfold heaterStep
  simp only [↓Hoop.cells_ite, ite_self, ↓Hoop.cells_foldl, implies_true, ↓gentleEnd_cells, ↓slewHeater_cells]

theorem rangeEnd_cells (e : Nat) (x : Hoop) : (rangeEnd e x).cells = x.cells := by
  unfold rangeEnd
  simp only [↓Hoop.cells_mk, ↓Hoop.cells_ite, ite_self, ↓Hoop.updHeater_cells, ↓jnlPut_cells, ↓pmcRaw_cells, ↓moveHeater_cells]

theorem heaterFail_cells (e : Nat) (x : Hoop) : (heaterFail e x).cells = x.cells := by
  unfold heaterFail
  simp only [↓Hoop.cells_ite, ite_self, ↓fault_cells, ↓Hoop.updElem_cells]

theorem complFail_cells (h : HoopId) (e : Nat) (s : State) : (complFail h e s).cells = s.cells := by
  unfold complFail
  simp only [↓Hoop.cells_mk, ↓State.cells_ite, ite_self, implies_true, ↓State.upd_cells, ↓Hoop.updHeater_cells, ↓handBack_cells, ↓heaterFail_cells]

theorem sumUpdate_cells (x : Hoop) : (sumUpdate x).cells = x.cells := by
  unfold sumUpdate
  simp only [↓Hoop.cells_mk, ↓Hoop.cells_ite, ite_self, ↓faultOff_cells]

theorem refOrigin_cells (x : Hoop) : (refOrigin x).cells = x.cells := by
  unfold refOrigin
  simp only [↓Hoop.cells_mk, ↓Hoop.cells_ite, ite_self, ↓cmpFire_cells]

theorem phaseTick_cells (x : Hoop) : (phaseTick x).cells = x.cells := by
  unfold phaseTick
  simp only [↓Hoop.cells_mk, ↓Hoop.cells_foldl, implies_true]

/-! ## Inject -/

theorem Hoop.updGroup_cells (x : Hoop) (g : Nat) (f : Group → Group) : (Hoop.updGroup x g f).cells = x.cells := Hoop.cells_mk ..
theorem injectOne_cells (e : InjEntry) (x : Hoop) : (injectOne e x).cells = x.cells := Hoop.cells_mk ..

theorem injDone_cells (g : Nat) (x : Hoop) : (injDone g x).cells = x.cells := by
  unfold injDone
  simp only [↓Hoop.cells_ite, ite_self, ↓postUrgent_cells]

theorem injDrop_cells (g : Nat) (f : InjEntry → Bool) (x : Hoop) : (injDrop g f x).cells = x.cells := by
  unfold injDrop
  simp only [↓Hoop.cells_ite, ite_self, ↓injDone_cells, ↓Hoop.updGroup_cells]

theorem injLeave_cells (c at_ : Nat) (x : Hoop) : (injLeave c at_ x).cells = x.cells := by
  unfold injLeave
  simp only [↓injDrop_cells]

theorem injClose_cells (c : Nat) (x : Hoop) : (injClose c x).cells = x.cells := by
  unfold injClose
  simp only [↓injDrop_cells]

theorem clearInj_cells (key : Nat) (x : Hoop) : (clearInj key x).cells = x.cells := by
  unfold clearInj
  simp only [↓Hoop.cells_foldl, implies_true, ↓injDrop_cells]

theorem supersede_cells (chans : List Nat) (key from_ : Nat) (x : Hoop) : (supersede chans key from_ x).cells = x.cells := by
  unfold supersede
  simp only [↓Hoop.cells_foldl, implies_true, ↓injDrop_cells]

theorem injectAt_cells (chans : List Nat) (key from_ : Nat) (dark : Bool) (x : Hoop) : (injectAt chans key from_ dark x).cells = x.cells := by
  unfold injectAt
  simp only [↓Hoop.cells_foldl, implies_true, ↓injectOne_cells, ↓Hoop.updGroup_cells]

theorem oweSettle_cells (chans : List Nat) (from_ : Nat) (x : Hoop) : (oweSettle chans from_ x).cells = x.cells := by
  unfold oweSettle
  simp only [↓Hoop.cells_foldl, implies_true, ↓Hoop.updChan_cells]

theorem inject_cells (chans : List Nat) (key from_ : Nat) (dark : Bool) (x : Hoop) : (inject chans key from_ dark x).cells = x.cells := by
  unfold inject
  simp only [↓Hoop.cells_foldl, implies_true, ↓injectAt_cells, ↓Hoop.updGroup_cells]

theorem confirmDark_cells (i : Nat) (x : Hoop) : (confirmDark i x).cells = x.cells := by
  unfold confirmDark
  simp only [↓oweSettle_cells, ↓inject_cells, ↓Hoop.updChan_cells]

theorem pulse_cells (s det : Nat) (extra : List Nat) (x : Hoop) : (pulse s det extra x).cells = x.cells := by
  unfold pulse
  simp only [↓faultOff_cells, ↓faultOn_cells]

/-! ## Tambour -/

theorem opDone_cells (o : TOp) (x : Hoop) : (opDone o x).cells = x.cells := by
  unfold opDone
  simp only [↓Hoop.cells_mk, ↓pmcRaw_cells]

theorem restoreIdle_cells (x : Hoop) : (restoreIdle x).cells = x.cells := by
  unfold restoreIdle
  simp only [↓Hoop.cells_mk]

theorem restoreOp_cells (x : Hoop) : (restoreOp x).cells = x.cells := by
  unfold restoreOp
  split <;> simp only [↓opDone_cells, ↓restoreIdle_cells]

theorem eccFix_cells (nano : Bool) (addr : BitVec 12) (x : Hoop) : (eccFix nano addr x).cells = x.cells := by
  unfold eccFix
  simp only [↓Hoop.cells_mk, ↓Hoop.cells_ite, ite_self, ↓raiseEv_cells]

theorem stopRecord_cells (st : TmbSt) (op : Option TOp) (info : Word) (phase : Nat) (uaddr : BitVec 12) (flags source : Nat) (x : Hoop) :
    (stopRecord st op info phase uaddr flags source x).cells = x.cells := by
  unfold stopRecord
  simp only [↓Hoop.cells_mk, ↓raiseEv_cells]

theorem abortAll_cells (x : Hoop) : (abortAll x).cells = x.cells := by
  unfold abortAll
  simp only [↓Hoop.cells_ite, ite_self, ↓Hoop.cells_foldl, implies_true, ↓withdraw_cells]

theorem writeIdle_cells (ds : List DeltaEntry) (x : Hoop) : (writeIdle ds x).cells = x.cells := by
  unfold writeIdle
  simp only [↓Hoop.cells_foldl, implies_true, ↓Hoop.setIdle_cells]

theorem markStaged_cells (key : Nat) (ds : List DeltaEntry) (x : Hoop) : (markStaged key ds x).cells = x.cells := by
  unfold markStaged
  simp only [↓Hoop.cells_mk, ↓pmcRaw_cells]

theorem tellStaged_cells (cs : List Commit) (x : Hoop) : (tellStaged cs x).cells = x.cells := by
  unfold tellStaged
  simp only [↓Hoop.cells_foldl, implies_true, ↓raiseEv_cells]

theorem markArmed_cells (ns k : Nat) (x : Hoop) : (markArmed ns k x).cells = x.cells := by
  unfold markArmed
  simp only [↓Hoop.cells_mk]

theorem abortStage_cells (cs : List Commit) (code : Nat) (x : Hoop) : (abortStage cs code x).cells = x.cells := by
  unfold abortStage
  simp only [↓Hoop.cells_ite, ite_self, ↓Hoop.cells_foldl, implies_true, ↓abortCommit_cells]

theorem stageInject_cells (cs : List Commit) (x : Hoop) : (stageInject cs x).cells = x.cells := by
  unfold stageInject
  simp only [↓Hoop.cells_foldl, implies_true, ↓injectAt_cells]

theorem digestCompare_cells (s : State) : (digestCompare s).cells = s.cells := by
  unfold digestCompare
  simp only [↓State.cells_ite, ite_self, ↓State.cells_foldl, implies_true, ↓arbitrate_cells, ↓State.upd_cells, ↓noteMismatch_cells]

theorem updateSome_cells (o : TOp) (t : Nat) (es : List Nat) (x : Hoop) : (updateSome o t es x).cells = x.cells := by
  unfold updateSome
  simp only [↓Hoop.cells_ite, ite_self, ↓Hoop.cells_foldl, implies_true, ↓updateNeedle_cells, ↓Hoop.updElem_cells, ↓openWindow_cells,
    ↓Hoop.updLoop_cells]

theorem tileWritten_cells (o : TOp) (t : Nat) (x : Hoop) : (tileWritten o t x).cells = x.cells := by
  unfold tileWritten
  simp only [↓Hoop.cells_mk, ↓Hoop.cells_ite, ite_self, ↓Hoop.updTile_cells, ↓slewDone_cells, ↓opDone_cells]

theorem tileUpdate_cells (t : Nat) (x : Hoop) : (tileUpdate t x).cells = x.cells := by
  unfold tileUpdate
  split <;> simp only [↓Hoop.cells_ite, ite_self, ↓tileWritten_cells, ↓updateSome_cells]

theorem postPark_cells (es : List Nat) (x : Hoop) : (postPark es x).cells = x.cells := by
  unfold postPark
  simp only [↓Hoop.cells_ite, ite_self, ↓postNormal_cells]

theorem injReload_cells (g : Nat) (x : Hoop) : (injReload g x).cells = x.cells := by
  unfold injReload
  split <;> simp only [↓Hoop.cells_ite, ite_self, ↓opDone_cells, ↓Hoop.updGroup_cells]

theorem disarmCmp_cells (steps k key : Nat) (x : Hoop) : (disarmCmp steps k key x).cells = x.cells := by
  unfold disarmCmp
  simp only [↓Hoop.cells_mk, ↓Hoop.cells_ite, ite_self, ↓Hoop.cells_foldl, implies_true, ↓cmpDisarm_cells, ↓clearInj_cells, ↓restoreIdle_cells]

theorem disarm_cells (k : Nat) (x : Hoop) : (disarm k x).cells = x.cells := by
  unfold disarm
  split <;> simp only [↓Hoop.cells_ite, ite_self, ↓postStage_cells, ↓opDone_cells, ↓disarmCmp_cells]

theorem darkOne_cells (i : Nat) (x : Hoop) : (darkOne i x).cells = x.cells := by
  unfold darkOne
  simp only [↓Hoop.cells_mk, ↓writeNeedle_cells, ↓Hoop.updElem_cells, ↓confirmDark_cells, ↓openWindow_cells]

theorem eyeletDark_cells (x : Hoop) : (eyeletDark x).cells = x.cells := by
  unfold eyeletDark
  split <;> simp only [↓Hoop.cells_foldl, implies_true, ↓pmcRaw_cells, ↓opDone_cells, ↓darkOne_cells]

theorem partialStage_cells (o : TOp) (phase applied : Nat) (x : Hoop) : (partialStage o phase applied x).cells = x.cells := by
  unfold partialStage
  split
  · rfl
  · extract_lets ds x1 x2 x3
    have h1 : x1.cells = x.cells := by simp only [x1, ↓Hoop.cells_ite, ↓writeIdle_cells, ite_self]
    have h2 : x2.cells = x.cells := by simp only [x2, ↓Hoop.cells_ite, ↓markStaged_cells, h1, ite_self]
    have h3 : x3.cells = x.cells := by
      simp only [x3]
      split
      · split
        · exact (markArmed_cells ..).trans ((cmpArm_cells ‹_›).trans h2)
        · exact (lateArm_cells ..).trans h2
      · exact h2
    simp only [↓Hoop.cells_ite, ↓stageInject_cells, h3, ite_self]

theorem partialPrk_cells (phase applied : Nat) (x : Hoop) : (partialPrk phase applied x).cells = x.cells := by
  unfold partialPrk
  simp only [↓Hoop.cells_mk, ↓Hoop.cells_ite, ite_self, ↓writeIdle_cells, ↓markStaged_cells]

theorem partialTiles_cells (o : TOp) (ts : List Nat) (n : Nat) (x : Hoop) : (partialTiles o ts n x).cells = x.cells := by
  induction ts generalizing o n x with
  | nil => rfl
  | cons t ts ih =>
    unfold partialTiles
    simp only [↓Hoop.cells_ite, ↓ih, ↓updateSome_cells, ↓Hoop.updTile_cells, ↓tileWritten_cells, ite_self]

theorem partialOp_cells (o : TOp) (phase applied : Nat) (x : Hoop) : (partialOp o phase applied x).cells = x.cells := by
  unfold partialOp
  split
  case h_6 =>
    split
    · exact disarmCmp_cells ..
    · rfl
  all_goals
    simp only [↓Hoop.cells_ite, ↓Hoop.cells_foldl, ↓partialStage_cells, ↓partialPrk_cells, ↓restoreIdle_cells, ↓partialTiles_cells,
      ↓Hoop.updGroup_cells,
      ↓darkOne_cells, ite_self, implies_true]

theorem stopOp_cells (st : TmbSt) (phase applied : Nat) (uaddr : BitVec 12) (flags source : Nat) (x : Hoop) :
    (stopOp st phase applied uaddr flags source x).cells = x.cells := by
  unfold stopOp
  simp only [↓abortAll_cells, ↓stopRecord_cells]
  split <;> simp only [↓partialOp_cells]

theorem stackStop_cells (phase applied : Nat) (uaddr : BitVec 12) (x : Hoop) : (stackStop phase applied uaddr x).cells = x.cells := by
  unfold stackStop
  simp only [↓fault_cells, ↓stopOp_cells]

theorem stageStd_cells (bad1 bad2 : List Nat) (why : StageEvent) (x : Hoop) : (stageStd bad1 bad2 why x).cells = x.cells := by
  unfold stageStd
  split
  case h_1 =>
    cases why
    case stackError => exact stackStop_cells ..
    all_goals
      simp only [↓Hoop.cells_ite, ↓Hoop.cells_foldl, ↓abortStage_cells, ↓pulse_cells, ↓raiseEv_cells, ↓tellStaged_cells, ↓opDone_cells, ↓eccFix_cells,
        implies_true]
      iterate 3 (split; · rfl)
      split
      · simp only [↓abortStage_cells, ↓lateArm_cells, ↓tellStaged_cells, ↓opDone_cells, ↓eccFix_cells]
      · simp only [↓stageInject_cells, ↓markArmed_cells, ↓tellStaged_cells, ↓markStaged_cells, ↓writeIdle_cells, ↓cmpArm_cells ‹_›, ↓opDone_cells,
        ↓eccFix_cells]
  case h_2 => exact opDone_cells ..
  case h_3 => rfl

theorem tambourNop_cells (x : Hoop) : (tambourNop x).cells = x.cells := by
  unfold tambourNop
  simp only [↓Hoop.cells_ite, ite_self, ↓opDone_cells]

theorem reservedOp_cells (c : BitVec 6) (x : Hoop) : (reservedOp c x).cells = x.cells := by
  unfold reservedOp
  simp only [↓Hoop.cells_ite, ite_self, ↓raiseEv_cells, ↓opDone_cells]

/-! ## Microcode -/

theorem beginRun_cells (o : TOp) (x : Hoop) : (beginRun o x).cells = x.cells := by
  unfold beginRun
  simp only [↓Hoop.cells_mk]

theorem viaPatch_cells (code : BitVec 6) {rom : Hoop → Hoop} (h : ∀ x, (rom x).cells = x.cells) (x : Hoop) :
    (viaPatch code rom x).cells = x.cells := by
  unfold viaPatch
  split <;> simp only [↓Hoop.cells_ite, ↓beginRun_cells, ↓h, ite_self]

theorem stopRun_cells (st : TmbSt) (r : Run) (a : BitVec 12) (flags source : Nat) (x : Hoop) : (stopRun st r a flags source x).cells = x.cells := by
  unfold stopRun
  simp only [↓Hoop.cells_mk, ↓abortAll_cells, ↓stopRecord_cells]

theorem fetchFault_cells (nano : Bool) (addr : Nat) {stop : Hoop → Hoop} (h : ∀ x, (stop x).cells = x.cells) (x : Hoop) :
    (fetchFault nano addr stop x).cells = x.cells := by
  unfold fetchFault
  simp only [↓Hoop.cells_mk, ↓fault_cells, ↓h, ↓raiseEv_cells]

theorem posted_cells (code : BitVec 6) {rom : Hoop → Hoop} (h : ∀ x, (rom x).cells = x.cells) (x : Hoop) : (posted code rom x).cells = x.cells := by
  unfold posted
  simp only [↓Hoop.cells_ite, ↓beginRun_cells, ↓h, ite_self]

theorem tambourStop_cells (phase applied : Nat) (uaddr : BitVec 12) (x : Hoop) : (tambourStop phase applied uaddr x).cells = x.cells := by
  unfold tambourStop
  split <;> simp only [↓Hoop.cells_ite, ite_self, ↓stopOp_cells, ↓stopRun_cells]

theorem forcedStop_cells (phase applied : Nat) (uaddr : BitVec 12) (x : Hoop) : (forcedStop phase applied uaddr x).cells = x.cells := by
  unfold forcedStop
  split <;> simp only [↓Hoop.cells_ite, ite_self, ↓raiseEv_cells, ↓stopOp_cells, ↓stopRun_cells]

theorem eccHalt_cells (nano : Bool) (e : EccSite) (x : Hoop) : (eccHalt nano e x).cells = x.cells := by
  unfold eccHalt
  extract_lets at_
  split
  · refine fetchFault_cells _ _ (fun y => ?_) x
    cases x.tmb.run with
    | none => exact stopOp_cells ..
    | some r => exact stopRun_cells ..
  · rfl

theorem patchScrub_cells (hit : Option EccHit) (x : Hoop) : (patchScrub hit x).cells = x.cells := by
  unfold patchScrub
  split <;> simp only [↓Hoop.cells_mk, ↓Hoop.cells_ite, ite_self, ↓fault_cells, ↓raiseEv_cells, ↓eccFix_cells]

theorem timedOut_cells (cond : Nat) (x : Hoop) : (timedOut cond x).cells = x.cells := by
  unfold timedOut
  split <;> simp only [↓Hoop.cells_mk]

theorem waitTimeout_cells (cond g : Nat) (uaddr : BitVec 12) (x : Hoop) : (waitTimeout cond g uaddr x).cells = x.cells := by
  unfold waitTimeout
  simp only [↓Hoop.cells_mk, ↓Hoop.cells_ite, ite_self, ↓raiseEv_cells, ↓timedOut_cells, ↓fault_cells, ↓pulse_cells, ↓Hoop.updGroup_cells]

theorem resume_cells (x : Hoop) : (resume x).cells = x.cells := by
  unfold resume
  simp only [↓Hoop.cells_mk, ↓Hoop.cells_ite, ite_self, ↓jnlPut_cells, ↓raiseEv_cells]

theorem holdRelease_cells (x : Hoop) : (holdRelease x).cells = x.cells := by
  unfold holdRelease
  simp only [↓Hoop.cells_mk, ↓Hoop.cells_ite, ite_self]

/-! ## Loops -/

theorem heaterOut_cells (e u : Nat) (x : Hoop) : (heaterOut e u x).cells = x.cells := by
  unfold heaterOut
  simp only [↓Hoop.setLoop_cells, ↓heaterPort_cells]

theorem emit_cells (e : Nat) (ur : Int) (x : Hoop) : (emit e ur x).cells = x.cells := by
  unfold emit
  simp only [↓Hoop.cells_ite, ite_self, ↓Hoop.setLoop_cells, ↓raiseEv_cells, ↓heaterOut_cells]

theorem gentle_cells (e : Nat) (u : Int) (x : Hoop) : (gentle e u x).cells = x.cells := by
  unfold gentle
  simp only [↓Hoop.cells_ite, ite_self, ↓Hoop.updTile_cells]

theorem ffOut_cells (e : Nat) (x : Hoop) : (ffOut e x).cells = x.cells := by
  unfold ffOut
  simp only [↓Hoop.cells_ite, ite_self, ↓emit_cells, ↓gentle_cells, ↓Hoop.setLoop_cells]

theorem disagree_cells (e kind : Nat) (x : Hoop) : (disagree e kind x).cells = x.cells := by
  unfold disagree
  simp only [↓Hoop.cells_mk, ↓Hoop.cells_ite, ite_self, ↓raiseEv_cells, ↓jnlPut_cells, ↓Hoop.setLoop_cells]

theorem fold_cells (e : Nat) (x : Hoop) : (fold e x).cells = x.cells := by
  unfold fold
  dsimp only
  split <;> simp only [↓ffOut_cells, ↓disagree_cells, ↓Hoop.setLoop_cells]

theorem missUpdate_cells (e : Nat) (x : Hoop) : (missUpdate e x).cells = x.cells := by
  unfold missUpdate
  simp only [↓Hoop.cells_ite, ite_self, ↓Hoop.setLoop_cells]

theorem loopUpdate_cells (e : Nat) (err : Int) (frozen : Bool) (x : Hoop) : (loopUpdate e err frozen x).cells = x.cells := by
  unfold loopUpdate
  simp only [↓Hoop.cells_ite, ite_self, ↓pmcRaw_cells, ↓Hoop.setLoop_cells, ↓emit_cells]

theorem preload_cells (e : Nat) (err : Int) (x : Hoop) : (preload e err x).cells = x.cells := by
  unfold preload
  simp only [↓pmcRaw_cells, ↓Hoop.setLoop_cells, ↓emit_cells, ↓disagree_cells]

theorem beginPass_cells (g : Nat) (cs : List Nat) (x : Hoop) : (beginPass g cs x).cells = x.cells := Hoop.cells_mk ..

theorem tickPass_cells (cs : List Nat) (x : Hoop) (g : Nat) : (tickPass cs x g).cells = x.cells := by
  unfold tickPass
  simp only [↓Hoop.cells_ite, ite_self, ↓beginPass_cells, ↓Hoop.updGroup_cells]

theorem passConv_cells (ch : Nat) (x : Hoop) : (passConv ch x).cells = x.cells := by
  unfold passConv
  simp only [↓Hoop.cells_ite, ite_self, ↓Hoop.updGroup_cells, ↓beginPass_cells]

theorem assignSet_cells (e : Nat) (n : BitVec 4) (x : Hoop) : (assignSet e n x).cells = x.cells := Hoop.cells_mk ..

theorem giveTone_cells (e k : Nat) (x : Hoop) : (giveTone e k x).cells = x.cells := by
  unfold giveTone
  simp only [↓Hoop.cells_mk, ↓Hoop.updNeedle_cells, ↓Hoop.updTile_cells, ↓assignSet_cells]

theorem dropTone_cells (e : Nat) (x : Hoop) : (dropTone e x).cells = x.cells := by
  unfold dropTone
  simp only [↓Hoop.cells_ite, ite_self, ↓Hoop.updNeedle_cells, ↓Hoop.updTile_cells, ↓assignSet_cells]

theorem chooseTone_cells (e : Nat) (x : Hoop) : (chooseTone e x).cells = x.cells := by
  unfold chooseTone
  simp only [↓Hoop.cells_ite, ↓dropTone_cells]
  repeat' split
  all_goals simp only [↓giveTone_cells, ↓raiseEv_cells]

theorem noteFlip_cells (e : Nat) (x : Hoop) : (noteFlip e x).cells = x.cells := by
  unfold noteFlip
  simp only [↓Hoop.cells_mk, ↓Hoop.cells_ite, ite_self, ↓Hoop.setLoop_cells, ↓raiseEv_cells, ↓jnlPut_cells]

theorem flipLimit_cells (e : Nat) (x : Hoop) : (flipLimit e x).cells = x.cells := by
  unfold flipLimit
  simp only [↓Hoop.cells_ite, ite_self, ↓chooseTone_cells]

theorem ratioUpdate_cells (e r : Nat) (x : Hoop) : (ratioUpdate e r x).cells = x.cells := by
  unfold ratioUpdate
  split <;> simp only [↓Hoop.cells_ite, ite_self, ↓missUpdate_cells, ↓Hoop.setLoop_cells, ↓loopUpdate_cells, ↓noteFlip_cells, ↓flipLimit_cells]

theorem lockin_cells (e r : Nat) (x : Hoop) : (lockin e r x).cells = x.cells := by
  unfold lockin
  simp only [↓Hoop.setLoop_cells]

theorem validUpdate_cells (e : Nat) (err : Int) (x : Hoop) : (validUpdate e err x).cells = x.cells := by
  unfold validUpdate
  simp only [↓Hoop.cells_ite, ite_self, ↓preload_cells, ↓loopUpdate_cells]

theorem lockinEnd_cells (e : Nat) (x : Hoop) : (lockinEnd e x).cells = x.cells := by
  unfold lockinEnd
  split <;> simp only [↓Hoop.cells_ite, ite_self, ↓Hoop.setLoop_cells, ↓missUpdate_cells, ↓validUpdate_cells]

theorem closeLoop_cells (e r : Nat) (x : Hoop) : (closeLoop e r x).cells = x.cells := by
  unfold closeLoop
  repeat' split
  all_goals simp only [↓preload_cells]

theorem slowNote_cells (e : Nat) (x : Hoop) : (slowNote e x).cells = x.cells := by
  unfold slowNote
  simp only [↓Hoop.cells_mk, ↓Hoop.cells_ite, ite_self, ↓raiseEv_cells]

theorem loopWord_cells (e r : Nat) (changed : Bool) (x : Hoop) : (loopWord e r changed x).cells = x.cells := by
  unfold loopWord
  dsimp only
  split <;> simp only [↓Hoop.cells_ite, ite_self, ↓fold_cells, ↓lockin_cells, ↓ratioUpdate_cells, ↓slowNote_cells, ↓closeLoop_cells]

theorem loopNoWord_cells (e : Nat) (x : Hoop) : (loopNoWord e x).cells = x.cells := by
  unfold loopNoWord
  simp only [↓Hoop.cells_ite, ite_self, ↓missUpdate_cells]

theorem loopVerdict_cells (e r : Nat) (pass : Bool) (x : Hoop) : (loopVerdict e r pass x).cells = x.cells := by
  unfold loopVerdict
  simp only [↓Hoop.cells_ite, ite_self, ↓Hoop.setLoop_cells, ↓closeLoop_cells]

theorem strobeLoop_cells (e : Nat) (hff : Option Nat) (reband : Bool) (x : Hoop) : (strobeLoop e hff reband x).cells = x.cells := by
  unfold strobeLoop
  simp only [↓Hoop.cells_ite, ite_self, ↓ffOut_cells, ↓Hoop.setLoop_cells]

theorem holdTimeout_cells (e : Nat) (x : Hoop) : (holdTimeout e x).cells = x.cells := by
  unfold holdTimeout
  simp only [↓Hoop.cells_ite, ite_self, ↓fold_cells]

theorem lagUpdate_cells (x : Hoop) : (lagUpdate x).cells = x.cells := by
  unfold lagUpdate
  simp only [↓Hoop.cells_mk]

theorem capJob_cells (x : Hoop) : (capJob x).cells = x.cells := by
  unfold capJob
  simp only [↓Hoop.cells_mk, ↓Hoop.cells_ite, ite_self, ↓raiseEv_cells]

theorem swapSet_cells (k : Nat) (x : Hoop) : (swapSet k x).cells = x.cells := by
  unfold swapSet
  simp only [↓Hoop.cells_mk, ↓Hoop.cells_ite, ite_self, ↓raiseEv_cells]

theorem swapSets_cells (x : Hoop) : (swapSets x).cells = x.cells := by
  unfold swapSets
  simp only [↓Hoop.cells_foldl, implies_true, ↓swapSet_cells]

theorem ffJobs_cells (x : Hoop) : (ffJobs x).cells = x.cells := by
  unfold ffJobs
  simp only [↓Hoop.cells_ite, ite_self, ↓Hoop.cells_foldl, implies_true, ↓fold_cells, ↓missUpdate_cells, ↓pmcRaw_cells, ↓ffOut_cells]

theorem slowLoops_cells (x : Hoop) : (slowLoops x).cells = x.cells := by
  unfold slowLoops
  split <;> simp only [↓slowNote_cells]

theorem passStart_cells (x : Hoop) : (passStart x).cells = x.cells := by
  unfold passStart
  simp only [↓Hoop.cells_mk, ↓Hoop.cells_foldl, implies_true, ↓ffJobs_cells, ↓slowLoops_cells, ↓swapSets_cells, ↓tickPass_cells]

theorem loopSetVerb_leavesCells : loopSetVerb.LeavesCells := fun k x => by
  simp only [loopSetVerb, ↓Hoop.cells_mk, ↓adminOk_cells, ↓storeSetting_cells]

theorem loopAssignVerb_leavesCells : loopAssignVerb.LeavesCells := fun k x => by
  simp only [loopAssignVerb, ↓Hoop.cells_foldl, implies_true, ↓assignSet_cells, ↓adminOk_cells, ↓storeSetting_cells]

/-! ## Verify -/

theorem stampVerdict_cells (i : Nat) (x : Hoop) : (stampVerdict i x).cells = x.cells := by
  unfold stampVerdict
  simp only [↓Hoop.cells_mk]

theorem goVerified_cells (i : Nat) (x : Hoop) : (goVerified i x).cells = x.cells := by
  unfold goVerified
  simp only [↓Hoop.updThread_cells, ↓outcomes_cells, ↓stampVerdict_cells, ↓ledVerified_cells, ↓setSt_cells]

theorem rejudge_cells (i : Nat) (t : Thread) (x : Hoop) : (rejudge i t x).cells = x.cells := by
  refine Hoop.cells_foldl _ (fun y q => ?_) _ _
  simp only [↓Hoop.cells_ite]
  split
  · rfl
  · split <;> simp only [↓inject_cells, ↓Hoop.updThread_cells]

theorem failThreads_cells (is : List Nat) (src c : Nat) (x : Hoop) : (failThreads is src c x).cells = x.cells := by
  unfold failThreads
  simp only [↓Hoop.cells_foldl, implies_true, ↓stampVerdict_cells, ↓pulse_cells, ↓reqDark_cells, ↓faultThread_cells, ↓outcomes_cells, ↓rejudge_cells]

theorem failThread_cells (i src c : Nat) (x : Hoop) : (failThread i src c x).cells = x.cells := by
  unfold failThread
  simp only [↓failThreads_cells]

theorem passStanding_cells (c : Nat) (x : Hoop) : (passStanding c x).cells = x.cells := by
  refine Hoop.cells_foldl _ (fun y q => ?_) _ _
  dsimp only
  split <;> simp only [↓Hoop.cells_ite, ↓goVerified_cells, ↓stampVerdict_cells, ↓Hoop.updThread_cells, ite_self]

theorem failStanding_cells (c : Nat) (x : Hoop) : (failStanding c x).cells = x.cells := by
  unfold failStanding
  simp only [↓Hoop.cells_ite, ite_self, ↓Hoop.cells_foldl, implies_true, ↓Hoop.updThread_cells, ↓failThreads_cells]

theorem updLoaded_cells (f : Nat → Thread → Thread) (x : Hoop) : (updLoaded f x).cells = x.cells := by
  unfold updLoaded
  split <;> simp only [↓Hoop.cells_mk]

theorem setPricked_cells (p i : Nat) (st : ThreadSt) (cause src : Nat) (x : Hoop) : (setPricked p i st cause src x).cells = x.cells := by
  unfold setPricked
  split <;> simp only [↓Hoop.cells_mk, ↓threadEvent_cells, ↓countSt_cells]

theorem failPricked_cells (p i src c : Nat) (x : Hoop) : (failPricked p i src c x).cells = x.cells := by
  unfold failPricked
  simp only [↓Hoop.cells_mk, ↓setPricked_cells, ↓prkPay_cells, ↓pulse_cells, ↓reqDark_cells]

theorem rotate_cells (c : Nat) (front : Bool) (x : Hoop) : (rotate c front x).cells = x.cells := by
  unfold rotate
  split <;> simp only [↓Hoop.cells_mk]

theorem passPricked_cells (c : Nat) (ts : List (Nat × Nat × Thread)) (x : Hoop) : (passPricked c ts x).cells = x.cells := by
  unfold passPricked
  dsimp only
  split <;> simp only [↓Hoop.cells_mk, ↓Hoop.cells_ite, ite_self, ↓Hoop.cells_foldl, implies_true, ↓updLoaded_cells, ↓setPricked_cells,
    ↓raiseEv_cells]

theorem failPricked'_cells (c : Nat) (ts : List (Nat × Nat × Thread)) (x : Hoop) : (failPricked' c ts x).cells = x.cells := by
  refine Hoop.cells_foldl _ (fun y q => ?_) _ _
  split <;> simp only [↓Hoop.cells_ite, ↓failPricked_cells, ↓updLoaded_cells, ite_self]

theorem judgePricked_cells (c : Nat) (ts : List (Nat × Nat × Thread)) (v : Judge) (x : Hoop) : (judgePricked c ts v x).cells = x.cells := by
  unfold judgePricked
  repeat' split
  all_goals simp only [↓rotate_cells, ↓passPricked_cells, ↓failPricked'_cells]

theorem lightChange_cells (i r : Nat) (x : Hoop) : (lightChange i r x).cells = x.cells := by
  unfold lightChange
  simp only [↓Hoop.cells_ite, ite_self, ↓Hoop.cells_foldl, implies_true, ↓Hoop.updThread_cells, ↓threadEvent_cells, ↓outcomes_cells, ↓ledEnd_cells,
    ↓strobeLoop_cells, ↓ledStart_cells, ↓oweSettle_cells, ↓inject_cells]

theorem lightPricked_cells (i r start : Nat) (x : Hoop) : (lightPricked i r start x).cells = x.cells := by
  unfold lightPricked
  repeat' split
  all_goals simp only [↓Hoop.cells_mk, ↓updLoaded_cells]

theorem endThread_cells (i : Nat) (x : Hoop) : (endThread i x).cells = x.cells := by
  unfold endThread
  simp only [↓Hoop.cells_mk, ↓Hoop.cells_foldl, implies_true, ↓notify_cells, ↓threadEvent_cells, ↓remix_cells, ↓refreshElems_cells, ↓dropTone_cells,
    ↓fold_cells, ↓postPark_cells, ↓outcomes_cells]

theorem darkOk_cells (i : Nat) (x : Hoop) : (darkOk i x).cells = x.cells := by
  unfold darkOk
  simp only [↓Hoop.cells_ite, ite_self, ↓injDrop_cells, ↓Hoop.updChan_cells, ↓endThread_cells]

theorem darkRead_cells (i r : Nat) (x : Hoop) : (darkRead i r x).cells = x.cells := by
  unfold darkRead
  simp only [↓Hoop.cells_ite, ite_self, ↓Hoop.updChan_cells, ↓fault_cells, ↓injLeave_cells, ↓darkOk_cells]

theorem confirmCount_cells (i r : Nat) (x : Hoop) : (confirmCount i r x).cells = x.cells := by
  unfold confirmCount
  simp only [↓Hoop.cells_mk, ↓Hoop.cells_ite, ite_self]

theorem electric_cells (i : Nat) (x : Hoop) : (electric i x).cells = x.cells := by
  unfold electric
  simp only [↓Hoop.cells_mk, ↓Hoop.cells_ite, ite_self, ↓jnlPut_cells, ↓darkOk_cells]

theorem verdict_cells (c r start : Nat) (x : Hoop) : (verdict c r start x).cells = x.cells := by
  unfold verdict
  simp only [↓Hoop.cells_ite, ite_self, ↓confirmCount_cells, ↓darkRead_cells, ↓lightPricked_cells, ↓lightChange_cells]
  repeat' split
  all_goals simp only [↓confirmCount_cells, ↓lightPricked_cells, ↓lightChange_cells, ↓pmcRaw_cells, ↓injLeave_cells, ↓Hoop.updChan_cells,
    ↓loopVerdict_cells,
    ↓judgePricked_cells, ↓passStanding_cells, ↓failStanding_cells]

theorem deadline_cells (i : Nat) (x : Hoop) : (deadline i x).cells = x.cells := by
  -- The function is unfolded as a whole: against `deadline i x` the kernel would evaluate the conditions of its body.
  generalize hf : deadline = f
  delta deadline at hf
  subst hf
  beta_reduce
  extract_lets t late dead x1
  have h1 : x1.cells = x.cells := by simp only [x1, ↓Hoop.cells_ite, ↓failThread_cells, ↓raiseEv_cells, ite_self]
  clear_value x1
  split
  · exact h1
  · refine (Hoop.cells_foldl _ (fun y s => ?_) _ _).trans h1
    dsimp only
    split
    · simp only [↓Hoop.cells_ite, ↓failPricked_cells, ↓raiseEv_cells, ite_self]
    · rfl

theorem presel_cells (c : Nat) (rg : BitVec 2) (x : Hoop) : (presel c rg x).cells = x.cells := by
  unfold presel
  simp only [↓Hoop.cells_ite, ite_self, ↓Hoop.setChan_cells]

theorem preselect_cells (x : Hoop) (chans lit dark : List Nat) (vp : VParams) (h : Hoop) : (preselect x chans lit dark vp h).cells = h.cells := by
  refine Hoop.cells_foldl _ (fun y c => ?_) _ _
  repeat' split
  all_goals exact presel_cells ..

/-! ## Monitor -/

theorem chanGone_cells (c : Nat) (x : Hoop) : (chanGone c x).cells = x.cells := by
  unfold chanGone
  simp only [↓Hoop.cells_mk, ↓Hoop.cells_ite, ite_self, ↓Hoop.cells_foldl, implies_true, ↓goVerified_cells]

theorem loseChan_cells (cause c : Nat) (x : Hoop) : (loseChan cause c x).cells = x.cells := by
  unfold loseChan
  simp only [↓Hoop.cells_ite, ite_self, ↓injClose_cells, ↓Hoop.updChan_cells, ↓Hoop.updGroup_cells, ↓fold_cells, ↓raiseEv_cells, ↓chanGone_cells]

theorem loseFront_cells (c : Nat) (x : Hoop) : (loseFront c x).cells = x.cells := by
  unfold loseFront
  simp only [↓Hoop.cells_ite, ite_self, ↓fault_cells, ↓loseChan_cells]

theorem loseGroup_cells (g : Nat) (x : Hoop) : (loseGroup g x).cells = x.cells := by
  unfold loseGroup
  simp only [↓Hoop.cells_mk, ↓Hoop.cells_ite, ite_self, ↓Hoop.cells_foldl, implies_true, ↓loseChan_cells, ↓Hoop.updGroup_cells, ↓raiseEv_cells,
    ↓fault_cells]

theorem setSpare_cells (k g : Nat) (perm : Bool) (x : Hoop) : (setSpare k g perm x).cells = x.cells := by
  unfold setSpare
  simp only [↓Hoop.cells_mk, ↓raiseEv_cells]

theorem callBack_cells (k g : Nat) (x : Hoop) : (callBack k g x).cells = x.cells := by
  unfold callBack
  simp only [↓Hoop.cells_mk, ↓Hoop.cells_ite, ite_self, ↓Hoop.updGroup_cells]

theorem adcFail_cells (g : Nat) (x : Hoop) : (adcFail g x).cells = x.cells := by
  unfold adcFail
  repeat' split
  all_goals simp only [↓Hoop.cells_ite, ite_self, ↓fault_cells, ↓setSpare_cells, ↓callBack_cells, ↓Hoop.updGroup_cells, ↓raiseEv_cells,
    ↓loseGroup_cells]

theorem spareOn_cells (c : Nat) (x : Hoop) : (spareOn c x).cells = x.cells := by
  unfold spareOn
  simp only [↓Hoop.updChan_cells]

theorem startTest_cells (c : Nat) (x : Hoop) : (startTest c x).cells = x.cells := by
  unfold startTest
  simp only [↓Hoop.cells_ite, ite_self, ↓spareOn_cells, ↓Hoop.updChan_cells]

theorem spareFreed_cells (g : Nat) (x : Hoop) : (spareFreed g x).cells = x.cells := by
  unfold spareFreed
  repeat' split
  all_goals simp only [↓startTest_cells]

theorem giveBack_cells (c : Nat) (x : Hoop) : (giveBack c x).cells = x.cells := by
  unfold giveBack
  simp only [↓spareFreed_cells, ↓Hoop.updChan_cells]

theorem useSlot_cells (ch t : Nat) (inj : Bool) (x : Hoop) : (useSlot ch t inj x).cells = x.cells := by
  unfold useSlot
  simp only [↓Hoop.cells_mk, ↓Hoop.cells_ite, ite_self, ↓Hoop.updGroup_cells, ↓passConv_cells]

theorem paySettle_cells (ch : Nat) (c : Conv) (x : Hoop) : (paySettle ch c x).cells = x.cells := by
  unfold paySettle
  simp only [↓Hoop.updGroup_cells, ↓Hoop.updChan_cells]

theorem autorange_cells (ch : Nat) (w : Word) (x : Hoop) : (autorange ch w x).cells = x.cells := by
  unfold autorange
  simp only [↓Hoop.cells_ite, ite_self, ↓Hoop.setChan_cells]

theorem railCheck_cells (ch : Nat) (c : Conv) (x : Hoop) : (railCheck ch c x).cells = x.cells := by
  unfold railCheck
  simp only [↓Hoop.cells_ite, ite_self, ↓Hoop.setChan_cells, ↓startTest_cells, ↓Hoop.updChan_cells]

theorem countConv_cells (ch : Nat) (w : Word) (x : Hoop) : (countConv ch w x).cells = x.cells := by
  unfold countConv
  simp only [↓Hoop.cells_mk, ↓Hoop.cells_ite, ite_self, ↓pmcRaw_cells]

theorem ledgerConv_cells (ch r : Nat) (x : Hoop) : (ledgerConv ch r x).cells = x.cells := by
  unfold ledgerConv
  simp only [↓Hoop.cells_ite]
  repeat' split
  all_goals simp only [↓ledEnd_cells, ↓ledStart_cells]

theorem heldReturn_cells (c : Nat) (x : Hoop) : (heldReturn c x).cells = x.cells := by
  unfold heldReturn
  simp only [↓Hoop.cells_ite, ite_self, ↓giveBack_cells]

theorem convert_cells (ch : Nat) (c : Conv) (held : Option Word) (x : Hoop) : (convert ch c held x).cells = x.cells := by
  unfold convert
  simp only [↓Hoop.cells_ite, ite_self, ↓useSlot_cells, ↓paySettle_cells, ↓Hoop.updChan_cells, ↓countConv_cells, ↓verdict_cells, ↓loopWord_cells,
    ↓ledgerConv_cells, ↓loopNoWord_cells, ↓heldReturn_cells, ↓railCheck_cells, ↓autorange_cells]

theorem wordCompare_cells (ch : Nat) (w : Word) (x : Hoop) : (wordCompare ch w x).cells = x.cells := by
  unfold wordCompare
  simp only [↓Hoop.cells_mk, ↓Hoop.cells_ite, ite_self, ↓Hoop.updChan_cells, ↓raiseEv_cells, ↓fault_cells]

theorem convertIn_cells (h : HoopId) (ch : Nat) (c : Conv) (s : State) : (convertIn h ch c s).cells = s.cells := by
  unfold convertIn
  simp only [↓State.cells_ite, ite_self, implies_true, ↓State.upd_cells, ↓convert_cells, ↓wordCompare_cells, ↓Hoop.updChan_cells]

theorem sweepState_cells (x : Hoop) : (sweepState x).cells = x.cells := by
  unfold sweepState
  simp only [↓Hoop.cells_mk, ↓Hoop.cells_ite, ite_self, ↓raiseEv_cells]

theorem spareEnd_cells (ch : Nat) (normal : Bool) (x : Hoop) : (spareEnd ch normal x).cells = x.cells := by
  unfold spareEnd
  simp only [↓Hoop.cells_ite, ite_self, ↓jnlPut_cells, ↓Hoop.setChan_cells, ↓spareFreed_cells, ↓loseFront_cells]

theorem lostToBoth_cells (h : HoopId) {f : Hoop → Hoop} (e : ∀ x, (f x).cells = x.cells) (was s : State) :
    (lostToBoth h f was s).cells = s.cells := by
  unfold lostToBoth
  simp only [↓State.cells_ite, ↓State.upd_cells _ _ _ e, ite_self]

theorem refOkSet_cells (drift : Nat) (x : Hoop) : (refOkSet drift x).cells = x.cells := by
  unfold refOkSet
  simp only [↓Hoop.cells_mk, ↓Hoop.cells_ite, ite_self, ↓raiseEv_cells]

theorem selectRef_cells (src : BitVec 2) (meas : Nat) (x : Hoop) : (selectRef src meas x).cells = x.cells := by
  unfold selectRef
  simp only [↓Hoop.cells_mk, ↓Hoop.cells_ite, ite_self, ↓raiseEv_cells]

theorem refFallback_cells (x : Hoop) : (refFallback x).cells = x.cells := by
  unfold refFallback
  simp only [↓Hoop.cells_mk, ↓Hoop.cells_ite, ite_self, ↓selectRef_cells, ↓fault_cells, ↓raiseEv_cells]

theorem refSelVerb_leavesCells : refSelVerb.LeavesCells := fun k x => by
  simp only [refSelVerb, ite_self, ↓Hoop.cells_snd, ↓Hoop.cells_snd_ite, ↓adminOk_cells, ↓storeSetting_cells, ↓Hoop.fresh_cells, ↓faultOff_cells,
    ↓selectRef_cells]

theorem adcProfileVerb_leavesCells : adcProfileVerb.LeavesCells := fun k x => by
  simp only [adcProfileVerb, ↓Hoop.cells_foldl, implies_true, ↓adminOk_cells, ↓storeSetting_cells, ↓Hoop.updGroup_cells]

theorem verifyCfgVerb_leavesCells : verifyCfgVerb.LeavesCells := fun k x => by
  simp only [verifyCfgVerb, ↓Hoop.cells_mk, ↓adminOk_cells, ↓storeSetting_cells]

theorem Hoop.defers_cells (may : Bool) (x : Hoop) : (Hoop.defers may x).2.cells = x.cells := by
  unfold Hoop.defers
  simp only [ite_self, ↓Hoop.cells_snd, ↓Hoop.cells_snd_ite, ↓Hoop.fresh_cells]

theorem calBegin_cells (k : Option Nat) (retry : Bool) (x : Hoop) : (calBegin k retry x).cells = x.cells := by
  unfold calBegin
  split <;> simp only [↓Hoop.cells_mk, ↓Hoop.cells_ite, ite_self, ↓spareOn_cells]

theorem calReturn_cells (c : Nat) (x : Hoop) : (calReturn c x).cells = x.cells := by
  unfold calReturn
  simp only [↓Hoop.cells_ite, ite_self, ↓spareFreed_cells, ↓Hoop.updChan_cells, ↓giveBack_cells]

theorem calAbandon_cells (q : Cal) (x : Hoop) : (calAbandon q x).cells = x.cells := by
  unfold calAbandon
  simp only [↓Hoop.cells_ite, ite_self, ↓calReturn_cells, ↓Hoop.updChan_cells]

theorem calWindow_cells (x : Hoop) : (calWindow x).cells = x.cells := by
  unfold calWindow
  split <;> simp only [↓Hoop.cells_mk, ↓Hoop.cells_ite, ite_self, ↓raiseEv_cells, ↓calAbandon_cells, ↓calBegin_cells]

theorem calRoundEnd_cells (x : Hoop) : (calRoundEnd x).cells = x.cells := by
  unfold calRoundEnd
  simp only [↓Hoop.cells_mk, ↓calWrite_cells, ↓raiseEv_cells, ↓jnlPut_cells]

theorem calAdvance_cells (c : Nat) (x : Hoop) : (calAdvance c x).cells = x.cells := by
  unfold calAdvance
  split <;> simp only [↓calBegin_cells, ↓calRoundEnd_cells]

theorem adcTurn_cells (k : Nat) (x : Hoop) : (adcTurn k x).cells = x.cells := by
  unfold adcTurn
  repeat' split
  all_goals simp only [↓Hoop.cells_mk, ↓Hoop.cells_ite, ite_self, ↓setSpare_cells, ↓Hoop.updGroup_cells]

theorem adcFirst_cells (k : Nat) (x : Hoop) : (adcFirst k x).cells = x.cells := by
  unfold adcFirst
  simp only [↓Hoop.cells_ite, ite_self, ↓adcTurn_cells]

theorem markBlocked_cells (noSpare : Bool) (x : Hoop) : (markBlocked noSpare x).cells = x.cells := by
  unfold markBlocked
  simp only [↓Hoop.cells_ite, ite_self, ↓Hoop.cells_foldl, implies_true, ↓raiseEv_cells, ↓Hoop.updGroup_cells]

theorem calRoundStart_cells (x : Hoop) : (calRoundStart x).cells = x.cells := by
  unfold calRoundStart
  simp only [↓Hoop.cells_mk, ↓Hoop.cells_ite, ite_self, ↓Hoop.defers_cells, ↓markBlocked_cells, ↓faultOff_cells, ↓fault_cells, ↓adcFirst_cells,
    ↓calBegin_cells, ↓raiseEv_cells]

theorem calFailCh_cells (q : Cal) (rg resid : Nat) (trims : Bool) (x : Hoop) : (calFailCh q rg resid trims x).cells = x.cells := by
  unfold calFailCh
  simp only [↓Hoop.cells_mk, ↓Hoop.cells_ite, ite_self, ↓calBegin_cells, ↓raiseEv_cells, ↓Hoop.updChan_cells, ↓startTest_cells, ↓calAdvance_cells]

theorem calStep_cells (avg : Nat) (x : Hoop) : (calStep avg x).cells = x.cells := by
  unfold calStep
  repeat' split
  all_goals simp only [↓Hoop.cells_mk, ↓Hoop.cells_ite, ite_self, ↓calAdvance_cells, ↓calReturn_cells, ↓calBegin_cells, ↓calFailCh_cells,
    ↓Hoop.updChan_cells, ↓fault_cells, ↓raiseEv_cells, ↓calRoundEnd_cells, ↓calAbandon_cells]

theorem trimCompare_cells (h : HoopId) (c : Nat) (s : State) : (trimCompare h c s).cells = s.cells := by
  unfold trimCompare
  simp only [↓State.cells_ite, ite_self, implies_true, ↓Hoop.cells_ite, ↓State.upd_cells, ↓fault_cells, ↓Hoop.updChan_cells]

theorem adcCalEnd_cells (g mid : Nat) (x : Hoop) : (adcCalEnd g mid x).cells = x.cells := by
  unfold adcCalEnd
  dsimp only
  split <;> simp only [↓Hoop.cells_ite, ite_self, ↓Hoop.updGroup_cells, ↓adcFail_cells, ↓setSpare_cells, ↓adcTurn_cells]

theorem calCfgVerb_leavesCells : calCfgVerb.LeavesCells := fun k x => by
  simp only [calCfgVerb, ↓Hoop.cells_mk, ↓adminOk_cells, ↓storeSetting_cells]

/-! ## Epochs -/

theorem loadChange_cells (c : Commit) (x : Hoop) (g : Change) : (loadChange c x g).cells = x.cells := by
  unfold loadChange
  split <;> simp only [↓Hoop.cells_mk, ↓Hoop.cells_ite, ite_self, ↓ledEnd_cells, ↓Hoop.updThread_cells, ↓darkThread_cells, ↓Hoop.setThread_cells,
    ↓pmcRaw_cells, ↓raiseEv_cells, ↓setSt_cells]

theorem confirmAt_cells (c : Commit) (i : Nat) (x : Hoop) : (confirmAt c i x).cells = x.cells := Hoop.cells_mk ..

theorem applyCommit_cells (c : Commit) (strobed : Bool) (x : Hoop) : (applyCommit c strobed x).cells = x.cells := by
  unfold applyCommit
  extract_lets live es cm0 x1 before x2 x3 x4 x5 x6 cm1 x7
  have h : x7.cells = x.cells := by
    simp only [x7, x6, x5, x4, x3, x2, x1, ↓Hoop.cells_mk, ↓Hoop.cells_ite, ↓Hoop.cells_foldl, ↓reqDark_cells, ↓confirmAt_cells, ↓remix_cells,
      ↓refreshElems_cells, ↓oweSettle_cells, ↓loadChange_cells, ↓supersede_cells, ite_self, implies_true]
  split
  · exact (fabEnd_cells ..).trans h
  · exact h

theorem dropDeps_cells (c : Commit) (x : Hoop) : (dropDeps c x).cells = x.cells := by
  unfold dropDeps
  simp only [↓Hoop.cells_ite, ite_self, ↓Hoop.cells_foldl, implies_true, ↓abortCommit_cells]

theorem loadAll_cells (x : Hoop) : (loadAll x).cells = x.cells := by
  unfold loadAll
  simp only [↓Hoop.cells_mk, ↓Hoop.cells_foldl, implies_true, ↓loadReg_cells, ↓Hoop.updNeedle_cells]

theorem afterLoad_cells (cs : List Commit) (ds : List DeltaEntry) (was : List (Nat × Bool)) (x : Hoop) : (afterLoad cs ds was x).cells = x.cells := by
  unfold afterLoad
  simp only [↓Hoop.cells_foldl, implies_true, ↓strobeLoop_cells, ↓preselect_cells, ↓chooseTone_cells]

theorem applyStage_cells (cs : List Commit) (ds : List DeltaEntry) (x : Hoop) : (applyStage cs ds x).cells = x.cells := by
  unfold applyStage
  simp only [↓Hoop.cells_foldl, implies_true, ↓raiseEv_cells, ↓applyCommit_cells, ↓keeperRefresh_cells, ↓afterLoad_cells, ↓postStage_cells,
    ↓outcomes_cells,
    ↓dropDeps_cells]

theorem strobeLoad_cells (cs : List Commit) (x : Hoop) : (strobeLoad cs x).cells = x.cells := by
  unfold strobeLoad
  simp only [↓Hoop.cells_mk, ↓Hoop.cells_foldl, implies_true, ↓pmcRaw_cells, ↓loadAll_cells, ↓openWindow_cells, ↓applyStage_cells]

theorem endDropped_cells (cs : List Commit) (x : Hoop) : (endDropped cs x).cells = x.cells := by
  unfold endDropped
  simp only [↓Hoop.cells_foldl, implies_true, ↓abortCommit_cells]

theorem strobe_cells (k : Nat) (handing : Bool) (x : Hoop) : (strobe k handing x).cells = x.cells := by
  unfold strobe
  simp only [↓Hoop.cells_mk, ↓Hoop.cells_ite, ite_self, ↓Hoop.cells_foldl, implies_true, ↓cmpFire_cells, ↓abortCommit_cells, ↓endDropped_cells,
    ↓strobeLoad_cells]

theorem lateStandby_cells (x : Hoop) : (lateStandby x).cells = x.cells := by
  unfold lateStandby
  split <;> simp only [↓Hoop.cells_mk, ↓Hoop.cells_ite, ite_self, ↓raiseEv_cells, ↓stageInject_cells, ↓applyStage_cells, ↓endDropped_cells]

theorem zeroCode_cells (seq ring : Nat) (x : Hoop) : (zeroCode seq ring x).cells = x.cells := by
  unfold zeroCode
  split <;> simp only [↓Hoop.cells_mk, ↓Hoop.cells_ite, ite_self, ↓abortCommit_cells, ↓applyCommit_cells, ↓afterLoad_cells, ↓outcomes_cells,
    ↓putOutcome_cells, ↓dropDeps_cells]

theorem settlingEnd_cells (seq ring : Nat) (x : Hoop) : (settlingEnd seq ring x).cells = x.cells := by
  unfold settlingEnd
  simp only [↓Hoop.cells_ite, ite_self, ↓Hoop.cells_foldl, implies_true, ↓setSt_cells, ↓ledStart_cells]

/-! ## Pricking -/

theorem Hoop.updPrk_cells (x : Hoop) (f : Prk → Prk) : (Hoop.updPrk x f).cells = x.cells := Hoop.cells_mk ..

theorem slotLast_cells (slot : Nat) (ds : List Desc) (x : Hoop) : (slotLast slot ds x).2.cells = x.cells := by
  unfold slotLast
  simp only [↓Hoop.cells_snd, ↓Hoop.cells_snd_ite, ↓Hoop.updPrk_cells]
  repeat' split
  all_goals simp only [↓Hoop.cells_snd, ↓Hoop.updPrk_cells, ↓raiseEv_cells]

theorem slotLoadVerb_leavesCells : slotLoadVerb.LeavesCells := fun k x => by
  simp only [slotLoadVerb, ite_self, ↓Hoop.cells_snd, ↓Hoop.cells_snd_ite, ↓slotLast_cells, ↓Hoop.updPrk_cells]

theorem slotMaskVerb_leavesCells : slotMaskVerb.LeavesCells := fun k x => by
  simp only [slotMaskVerb, ite_self, ↓Hoop.cells_snd, ↓Hoop.cells_snd_ite, ↓Hoop.updPrk_cells]

theorem slotClearVerb_leavesCells : slotClearVerb.LeavesCells := fun k x => by
  simp only [slotClearVerb, ite_self, ↓Hoop.cells_snd, ↓Hoop.cells_snd_ite, ↓Hoop.updPrk_cells]

theorem listWriteVerb_leavesCells : listWriteVerb.LeavesCells := fun k x => by
  simp only [listWriteVerb, ite_self, ↓Hoop.cells_snd, ↓Hoop.cells_snd_ite, ↓Hoop.updPrk_cells]

theorem postPrk_cells (x : Hoop) : (postPrk x).cells = x.cells := by
  unfold postPrk
  simp only [↓Hoop.cells_mk, ↓Hoop.cells_ite, ite_self, ↓Hoop.updPrk_cells, ↓postNormal_cells]

theorem armCount_cells (k c : Nat) (x : Hoop) : (armCount k c x).cells = x.cells := by
  unfold armCount
  simp only [↓armAt_cells]

theorem restagePrk_cells (was : PNext) (x : Hoop) : (restagePrk was x).cells = x.cells := by
  unfold restagePrk
  simp only [↓Hoop.cells_ite, ite_self, ↓postNormal_cells, ↓armCount_cells, ↓postPrk_cells]

theorem startVerb_leavesCells : startVerb.LeavesCells := fun k x => by
  simp only [startVerb]
  repeat' split
  all_goals simp only [↓Hoop.cells_mk, ↓Hoop.cells_snd, ↓Hoop.updPrk_cells, ↓postPrk_cells, ↓armCount_cells]

theorem swapVerb_leavesCells : swapVerb.LeavesCells := fun k x => by
  simp only [swapVerb]
  repeat' split
  all_goals simp only [↓Hoop.cells_snd, ↓restagePrk_cells, ↓Hoop.updPrk_cells]

theorem swapDisarmVerb_leavesCells : swapDisarmVerb.LeavesCells := fun k x => by
  simp only [swapDisarmVerb]
  split <;> simp only [ite_self, ↓Hoop.cells_snd, ↓Hoop.cells_snd_ite, ↓restagePrk_cells, ↓Hoop.updPrk_cells]

theorem reqDarkOnly_cells (i : Nat) (x : Hoop) : (reqDarkOnly i x).cells = x.cells := Hoop.cells_mk ..

theorem updSlots_cells (ks : List Nat) (f : Slot → Slot) (x : Hoop) : (updSlots ks f x).cells = x.cells := by
  unfold updSlots
  simp only [↓Hoop.updPrk_cells]

theorem freshSlots_cells (ks : List Nat) (x : Hoop) : (freshSlots ks x).cells = x.cells := by
  unfold freshSlots
  simp only [↓updSlots_cells, ↓renew_cells]

theorem holdLoops_cells (ks : List Nat) (x : Hoop) : (holdLoops ks x).cells = x.cells := by
  unfold holdLoops
  simp only [↓Hoop.cells_foldl, implies_true, ↓fold_cells]

theorem payAll_cells (at_ : Nat) (x : Hoop) : (payAll at_ x).cells = x.cells := by
  unfold payAll
  simp only [↓Hoop.cells_foldl, implies_true, ↓prkPay_cells, ↓Hoop.updPrk_cells]

theorem clearPrk_cells (cause : Nat) (x : Hoop) : (clearPrk cause x).cells = x.cells := by
  unfold clearPrk
  split
  · rfl
  · simp only [↓Hoop.cells_mk, ↓Hoop.cells_ite, ↓Hoop.cells_foldl, ↓postNormal_cells, ↓cmpDisarm_cells, ↓Hoop.updPrk_cells, ↓unoverride_cells,
    ↓updSlots_cells,
      ↓clearInj_cells, ↓payAll_cells, ite_self, implies_true]

theorem endPrk_cells (cause : Nat) (x : Hoop) : (endPrk cause x).cells = x.cells := by
  unfold endPrk
  simp only [↓Hoop.cells_ite, ite_self, ↓postStage_cells, ↓raiseEv_cells, ↓clearPrk_cells]

theorem armStop_cells (temp : Bool) (x : Hoop) : (armStop temp x).cells = x.cells := by
  unfold armStop
  split <;> simp only [↓restagePrk_cells, ↓Hoop.updPrk_cells]

theorem stopVerb_leavesCells : stopVerb.LeavesCells := fun k x => by
  simp only [stopVerb, ite_self, ↓Hoop.cells_foldl, implies_true, ↓Hoop.cells_snd, ↓Hoop.cells_snd_ite, ↓reqDarkOnly_cells, ↓endPrk_cells,
    ↓armStop_cells]

theorem prkTempStop_cells (x : Hoop) : (prkTempStop x).cells = x.cells := by
  unfold prkTempStop
  simp only [↓Hoop.cells_ite, ite_self, ↓fault_cells, ↓armStop_cells]

theorem prkRecompile_cells (old : Slice) (x : Hoop) : (prkRecompile old x).cells = x.cells := by
  unfold prkRecompile
  simp only [↓Hoop.cells_mk, ↓Hoop.cells_ite, ite_self]

theorem stagePrk_cells (bad1 bad2 : List Nat) (why : StageEvent) (x : Hoop) : (stagePrk bad1 bad2 why x).cells = x.cells := by
  unfold stagePrk
  repeat' split
  all_goals simp only [↓Hoop.cells_mk, ↓Hoop.cells_ite, ite_self, ↓Hoop.cells_foldl, implies_true, ↓eccFix_cells, ↓stackStop_cells, ↓opDone_cells,
    ↓Hoop.updPrk_cells, ↓restoreIdle_cells, ↓pulse_cells, ↓raiseEv_cells, ↓markStaged_cells, ↓writeIdle_cells]

theorem loadPrk_cells (x : Hoop) : (loadPrk x).cells = x.cells := by
  unfold loadPrk
  simp only [↓Hoop.cells_mk, ↓Hoop.cells_foldl, implies_true, ↓pmcRaw_cells, ↓loadAll_cells, ↓openWindow_cells]

theorem eyesDark_cells (is : List Nat) (x : Hoop) : (eyesDark is x).cells = x.cells := by
  unfold eyesDark
  simp only [↓Hoop.cells_foldl, implies_true, ↓Hoop.updElem_cells]

theorem finishPrk_cells (x : Hoop) : (finishPrk x).cells = x.cells := by
  unfold finishPrk
  simp only [↓Hoop.cells_ite, ite_self, ↓Hoop.cells_foldl, implies_true, ↓payAll_cells, ↓eyesDark_cells, ↓loadPrk_cells, ↓reqDarkOnly_cells,
    ↓endPrk_cells,
    ↓Hoop.updPrk_cells, ↓raiseEv_cells, ↓faultOff_cells]

theorem installAt_cells (x : Hoop) : (installAt x).cells = x.cells := by
  unfold installAt
  simp only [↓Hoop.cells_mk, ↓Hoop.cells_ite, ite_self, ↓Hoop.cells_foldl, implies_true, ↓freshSlots_cells, ↓installed_cells, ↓raiseEv_cells]

theorem beginList_cells (l : PList) {ev : Hoop → Hoop} (h : ∀ x, (ev x).cells = x.cells) (x : Hoop) : (beginList l ev x).cells = x.cells := by
  unfold beginList
  simp only [↓h, ↓holdLoops_cells, ↓freshSlots_cells, ↓updSlots_cells, ↓Hoop.updPrk_cells]

theorem cycleBoundary_cells (x : Hoop) : (cycleBoundary x).cells = x.cells := by
  have hbegin : ∀ l src (p : Hoop → List Nat) z, (beginList l (fun y => raiseEv src (p y) .hoop y) z).cells = z.cells := fun l src p z =>
    beginList_cells l (fun y => raiseEv_cells ..) z
  unfold cycleBoundary
  split
  · rfl
  · extract_lets x1 next
    have h1 : x1.cells = x.cells := cmpFire_cells ..
    split
    · exact h1
    · extract_lets begun
      have hn : ∀ y, (next y).cells = y.cells := fun y => by
        simp only [next]
        split
        · exact (installAt_cells ..).trans (armCount_cells ..)
        · rfl
      have hb : ∀ y, (begun y).cells = y.cells := fun y => by simp only [begun, ↓Hoop.cells_ite, ↓hbegin, ite_self]
      split
      · exact (hn _).trans ((hbegin ..).trans ((Hoop.updPrk_cells ..).trans ((hb _).trans h1)))
      · simp only [↓Hoop.cells_ite, ↓finishPrk_cells, ↓hn, ↓hb, ↓Hoop.updPrk_cells, h1, ite_self]

theorem occur_cells (p : Nat) (x : Hoop) : (occur p x).cells = x.cells := by
  unfold occur
  simp only [↓Hoop.cells_ite, ite_self, ↓Hoop.cells_foldl, implies_true, ↓Hoop.updPrk_cells, ↓setPricked_cells]

theorem imageStates_cells (x : Hoop) (im : List (Nat × Want)) : (imageStates x im).cells = x.cells := by
  unfold imageStates
  simp only [↓Hoop.cells_foldl, implies_true, ↓Hoop.updElem_cells]

theorem patternLoaded_cells (p dwell : Nat) (im : List (Nat × Want)) (x : Hoop) : (patternLoaded p dwell im x).cells = x.cells := by
  unfold patternLoaded
  simp only [↓Hoop.cells_mk, ↓imageStates_cells, ↓occur_cells, ↓Hoop.updPrk_cells, ↓preselect_cells, ↓injectAt_cells, ↓oweSettle_cells]

theorem maskThreads_cells (is : List Nat) (x : Hoop) : (maskThreads is x).cells = x.cells := by
  unfold maskThreads
  simp only [↓Hoop.cells_foldl, implies_true, ↓darkThread_cells]

theorem entryLoads_cells (strobe : Bool) (e : PEntry) (im : List (Nat × Want)) (x : Hoop) : (entryLoads strobe e im x).cells = x.cells := by
  unfold entryLoads
  simp only [↓Hoop.cells_ite, ite_self, ↓loadPrk_cells, ↓Hoop.updPrk_cells, ↓patternLoaded_cells, ↓eyesDark_cells, ↓maskThreads_cells]

theorem entryUnstaged_cells (e : PEntry) (i : Nat) (x : Hoop) : (entryUnstaged e i x).cells = x.cells := by
  unfold entryUnstaged
  simp only [↓Hoop.cells_mk, ↓Hoop.cells_ite, ite_self, ↓Hoop.cells_foldl, implies_true, ↓Hoop.updPrk_cells, ↓restoreIdle_cells, ↓pmcRaw_cells,
    ↓raiseEv_cells, ↓maskThreads_cells, ↓reqDarkOnly_cells]

theorem entryLate_cells (l : PList) (i : Nat) (e : PEntry) (im : List (Nat × Want)) (x : Hoop) : (entryLate l i e im x).cells = x.cells := by
  unfold entryLate
  simp only [↓Hoop.cells_mk, ↓Hoop.cells_ite, ite_self, ↓Hoop.updPrk_cells, ↓raiseEv_cells, ↓patternLoaded_cells, ↓eyesDark_cells, ↓maskThreads_cells]

theorem entryStrobe_cells (x : Hoop) : (entryStrobe x).cells = x.cells := by
  unfold entryStrobe
  dsimp only
  repeat' split
  all_goals simp only [↓cycleBoundary_cells, ↓cmpFire_cells, ↓raiseEv_cells, ↓endPrk_cells, ↓clearInj_cells, ↓payAll_cells, ↓entryLoads_cells,
    ↓entryLate_cells, ↓entryUnstaged_cells, ↓Hoop.updPrk_cells, ↓armCount_cells, ↓postStage_cells, ↓postPrk_cells, ↓keeperRefresh_cells]

/-! ## Standing -/

theorem nopVerb_leavesCells : nopVerb.LeavesCells := fun k x => by
  simp only [nopVerb]

theorem commitVerb_leavesCells : commitVerb.LeavesCells := fun k x => by
  simp only [commitVerb, ↓acceptCommit_cells]

theorem darkNowVerb_leavesCells : darkNowVerb.LeavesCells := fun k x => by
  simp only [darkNowVerb, ite_self, ↓Hoop.cells_snd, ↓Hoop.cells_snd_ite, ↓reqDark_cells, ↓darkThread_cells]

theorem cancelBare_cells (k : Ctx) (q : Nat) (x : Hoop) : (cancelBare k q x).2.cells = x.cells := by
  unfold cancelBare
  repeat' split
  all_goals simp only [↓Hoop.cells_foldl, implies_true, ↓Hoop.cells_snd, ↓originate_cells, ↓setFab_cells, ↓dropArm_cells]

theorem cancelVerb_leavesCells : cancelVerb.LeavesCells := fun k x => by
  simp only [cancelVerb]
  repeat' split
  all_goals simp only [↓Hoop.cells_foldl, implies_true, ↓Hoop.cells_snd, ↓cancelBare_cells, ↓originate_cells, ↓setFab_cells, ↓dropArm_cells,
    ↓withdraw_cells]

theorem threadReadVerb_leavesCells : threadReadVerb.LeavesCells := fun k x => by
  simp only [threadReadVerb]
  split <;> simp only [ite_self, ↓Hoop.cells_snd, ↓Hoop.cells_snd_ite, ↓respond_cells]

theorem ledgerReadVerb_leavesCells : ledgerReadVerb.LeavesCells := fun k x => by
  simp only [ledgerReadVerb, ite_self, ↓Hoop.cells_snd, ↓Hoop.cells_snd_ite, ↓respond_cells]

theorem outcomeReadVerb_leavesCells : outcomeReadVerb.LeavesCells := fun k x => by
  simp only [outcomeReadVerb]
  repeat' split
  all_goals simp only [↓Hoop.cells_snd, ↓respond_cells]

theorem batchVerb_leavesCells : batchVerb.LeavesCells := fun k x => by
  simp only [batchVerb, ite_self, ↓Hoop.cells_snd, ↓Hoop.cells_snd_ite, ↓Hoop.updRing_cells, ↓acceptCommit_cells]

/-! ## Minutes -/

theorem closeMinute_cells (x : Hoop) : (closeMinute x).cells = x.cells := by
  unfold closeMinute
  split <;> simp only [↓Hoop.cells_mk, ↓Hoop.cells_ite, ite_self, ↓Hoop.cells_foldl, implies_true, ↓raiseEv_cells]

theorem startMinutes_cells (x : Hoop) : (startMinutes x).cells = x.cells := by
  unfold startMinutes
  simp only [↓Hoop.cells_mk, ↓armAt_cells]

theorem minuteBoundary_cells (x : Hoop) : (minuteBoundary x).cells = x.cells := by
  unfold minuteBoundary
  simp only [↓Hoop.cells_mk, ↓Hoop.cells_ite, ite_self, ↓payAll_cells, ↓closeMinute_cells, ↓cmpFire_cells, ↓startMinutes_cells]

/-! ## Thermal -/

theorem Hoop.updDiode_cells (x : Hoop) (j : Nat) (f : Diode → Diode) : (Hoop.updDiode x j f).cells = x.cells := Hoop.cells_mk ..

theorem Hoop.updZone_cells (x : Hoop) (z : Bool) (f : Zone → Zone) : (Hoop.updZone x z f).cells = x.cells := by
  unfold Hoop.updZone
  simp only [↓Hoop.cells_mk, ↓Hoop.cells_ite, ite_self]

theorem writeDuty_cells (z : Bool) (d : BitVec 13) (x : Hoop) : (writeDuty z d x).cells = x.cells := by
  unfold writeDuty
  simp only [↓Hoop.updZone_cells]

theorem tecUpdate_cells (z : Bool) (x : Hoop) : (tecUpdate z x).cells = x.cells := by
  unfold tecUpdate
  simp only [↓Hoop.cells_ite, ite_self, ↓Hoop.updZone_cells, ↓writeDuty_cells]

theorem holdLow_cells (x : Hoop) : (holdLow x).cells = x.cells := Hoop.cells_mk ..

theorem restartZones_cells (x : Hoop) : (restartZones x).cells = x.cells := by
  unfold restartZones
  simp only [↓Hoop.cells_ite, ite_self, ↓Hoop.cells_foldl, implies_true, ↓writeDuty_cells, ↓Hoop.updZone_cells]

theorem beginRebuild_cells (x : Hoop) : (beginRebuild x).cells = x.cells := by
  unfold beginRebuild
  simp only [↓Hoop.cells_mk, ↓Hoop.cells_ite, ite_self]

theorem elemFlags_cells (src : List Host.Cell) (temp e : Nat) (x : Hoop) : (elemFlags src temp e x).cells = x.cells := by
  unfold elemFlags
  simp only [↓Hoop.cells_ite, ite_self, ↓Hoop.updElem_cells, ↓fault_cells]

theorem darkBarred_cells (x : Hoop) : (darkBarred x).cells = x.cells := by
  unfold darkBarred
  simp only [↓Hoop.cells_foldl, implies_true, ↓reqDark_cells, ↓darkThread_cells]

theorem slewTiles_cells (es : List Nat) (x : Hoop) : (slewTiles es x).cells = x.cells := by
  unfold slewTiles
  simp only [↓Hoop.cells_foldl, implies_true, ↓Hoop.updTile_cells]

theorem sliceBuild_cells (x : Hoop) : (sliceBuild x).cells = x.cells := by
  unfold sliceBuild
  simp only [↓Hoop.cells_mk, ↓Hoop.cells_ite, ite_self, ↓Hoop.cells_foldl, implies_true, ↓faultOff_cells, ↓fault_cells, ↓prkRecompile_cells,
    ↓elemFlags_cells, ↓keeperRefresh_cells, ↓darkBarred_cells, ↓postPark_cells, ↓slewTiles_cells]

theorem updGate_cells (x : Hoop) : (updGate x).cells = x.cells := by
  unfold updGate
  simp only [↓Hoop.cells_mk, ↓Hoop.cells_ite, ite_self, ↓raiseEv_cells, ↓prkTempStop_cells]

theorem updSettled_cells (x : Hoop) : (updSettled x).cells = x.cells := by
  unfold updSettled
  simp only [↓Hoop.cells_mk, ↓Hoop.cells_ite, ite_self, ↓raiseEv_cells]

theorem setEff_cells (v : Nat) (x : Hoop) : (setEff v x).cells = x.cells := by
  unfold setEff
  simp only [↓Hoop.cells_mk, ↓Hoop.cells_ite, ite_self, ↓Hoop.updZone_cells, ↓updGate_cells, ↓updSettled_cells, ↓raiseEv_cells, ↓beginRebuild_cells]

theorem spValid_cells (x : Hoop) : (spValid x).cells = x.cells := by
  unfold spValid
  simp only [↓Hoop.cells_mk, ↓Hoop.cells_ite, ite_self, ↓raiseEv_cells, ↓faultOff_cells]

theorem setpointVerb_leavesCells : setpointVerb.LeavesCells := fun k x => by
  simp only [setpointVerb, ↓Hoop.cells_mk, ↓Hoop.cells_ite, ite_self, ↓setEff_cells, ↓spValid_cells, ↓adminOk_cells, ↓storeSetting_cells]

theorem spLost_cells (x : Hoop) : (spLost x).cells = x.cells := by
  unfold spLost
  simp only [↓Hoop.cells_mk, ↓Hoop.cells_ite, ite_self, ↓raiseEv_cells, ↓fault_cells]

theorem spAverage_cells (held : Option Nat) (avg : Int) (x : Hoop) : (spAverage held avg x).cells = x.cells := by
  unfold spAverage
  repeat' split
  all_goals simp only [↓Hoop.cells_mk, ↓Hoop.cells_ite, ite_self, ↓spLost_cells, ↓spValid_cells, ↓setEff_cells]

theorem tellWarn_cells (grp : Nat) (old new : Bool) (reading : Int) (any : Bool) (x : Hoop) :
    (tellWarn grp old new reading any x).cells = x.cells := by
  unfold tellWarn
  simp only [↓Hoop.cells_ite, ite_self, ↓raiseEv_cells, ↓fault_cells, ↓faultOff_cells]

theorem writeCeil_cells (x : Hoop) : (writeCeil x).cells = x.cells := by
  unfold writeCeil
  simp only [↓Hoop.cells_mk]

theorem setLvl_cells (g v : Nat) (x : Hoop) : (setLvl g v x).cells = x.cells := by
  unfold setLvl
  split <;> simp only [↓Hoop.cells_mk, ↓Hoop.cells_ite, ite_self, ↓Hoop.updZone_cells, ↓fault_cells, ↓faultOff_cells, ↓raiseEv_cells,
    ↓writeCeil_cells]

theorem holdLvl_cells (g : Nat) (x : Hoop) : (holdLvl g x).cells = x.cells := by
  unfold holdLvl
  split <;> simp only [↓Hoop.cells_mk, ↓Hoop.updZone_cells]

theorem readLvl_cells (g : Nat) (was : Int) (x : Hoop) : (readLvl g was x).cells = x.cells := by
  unfold readLvl
  simp only [↓Hoop.cells_ite, ite_self, ↓setLvl_cells, ↓holdLvl_cells]

theorem throttleStep_cells (g : Nat) (x : Hoop) : (throttleStep g x).cells = x.cells := by
  unfold throttleStep
  simp only [↓Hoop.cells_ite, ite_self, ↓setLvl_cells]

theorem diodePass_cells (own used : List Int) (x : Hoop) : (diodePass own used x).cells = x.cells := by
  unfold diodePass
  simp only [↓Hoop.cells_foldl, implies_true, ↓Hoop.updDiode_cells, ↓Hoop.updZone_cells, ↓tecUpdate_cells]

theorem sensorCompare_cells (x : Hoop) : (sensorCompare x).cells = x.cells := by
  unfold sensorCompare
  simp only [↓Hoop.cells_mk, ite_self, ↓Hoop.cells_cond, ite_self, ↓Hoop.cells_foldl, implies_true, ↓Hoop.updDiode_cells, ↓fault_cells,
    ↓faultOff_cells]

theorem latThresholds_cells (was : Int) (x : Hoop) : (latThresholds was x).cells = x.cells := by
  unfold latThresholds
  simp only [↓Hoop.cells_mk, ↓Hoop.cells_ite, ite_self, ↓readLvl_cells, ↓tellWarn_cells, ↓writeCeil_cells, ↓raiseEv_cells, ↓fault_cells,
    ↓faultOff_cells]

theorem zoneMean_cells (compare : Bool) (x : Hoop) : (zoneMean compare x).cells = x.cells := by
  unfold zoneMean
  extract_lets x1 was x2 z x3 good pk ths x4
  have h3 : x3.cells = x.cells := by
    simp only [x3, x2, x1, ↓Hoop.updZone_cells, ↓Hoop.cells_foldl, ↓Hoop.updDiode_cells, ↓Hoop.cells_ite, ↓sensorCompare_cells, ite_self,
      implies_true]
  have h4 : x4.cells = x.cells := by
    simp only [x4]
    clear_value pk x3
    split
    · exact (Hoop.cells_mk ..).trans h3
    · exact h3
  simp only [↓calWindow_cells, ↓latThresholds_cells, ↓updGate_cells, ↓updSettled_cells, h4]

theorem crossCheck_cells (fresh : Bool) (x : Hoop) : (crossCheck fresh x).cells = x.cells := by
  unfold crossCheck
  extract_lets devs x1 n f old ths x2
  have h1 : x1.cells = x.cells := by
    refine Hoop.cells_foldl _ (fun y q => ?_) _ _
    dsimp only
    split
    · rfl
    · simp only [↓Hoop.cells_ite, ↓raiseEv_cells, ↓Hoop.updDiode_cells, ite_self]
  have h2 : x2.cells = x.cells := (Hoop.cells_mk ..).trans h1
  simp only [↓Hoop.cells_ite, ↓raiseEv_cells, ↓fault_cells, h2, ite_self]

theorem mramGate_cells (x : Hoop) : (mramGate x).cells = x.cells := by
  unfold mramGate
  simp only [↓Hoop.cells_mk, ↓Hoop.cells_ite, ite_self, ↓raiseEv_cells]

theorem dieRead_cells (temps : List Int) (x : Hoop) : (dieRead temps x).cells = x.cells := by
  unfold dieRead
  simp only [↓Hoop.cells_mk, ↓Hoop.cells_ite, ite_self, ↓readLvl_cells, ↓tellWarn_cells, ↓raiseEv_cells, ↓fault_cells, ↓faultOff_cells,
    ↓mramGate_cells]

theorem thmFault_cells (m : Nat) (x : Hoop) : (thmFault m x).cells = x.cells := by
  unfold thmFault
  simp only [↓Hoop.cells_mk, ↓Hoop.cells_ite, ite_self, ↓raiseEv_cells, ↓fault_cells, ↓setLvl_cells, ↓Hoop.updZone_cells]

theorem bridge_cells (z : Bool) (was : List Int) (x : Hoop) : (bridge z was x).cells = x.cells := by
  unfold bridge
  simp only [↓Hoop.cells_ite, ite_self, ↓Hoop.updZone_cells, ↓readLvl_cells, ↓tellWarn_cells, ↓raiseEv_cells, ↓fault_cells, ↓faultOff_cells,
    ↓holdLow_cells,
    ↓restartZones_cells]

theorem auxWarn_cells (x : Hoop) : (auxWarn x).cells = x.cells := by
  unfold auxWarn
  simp only [↓Hoop.cells_mk, ↓tellWarn_cells]

theorem thmRead_cells (ohms : List Nat) (held : Option (List Int)) (x : Hoop) : (thmRead ohms held x).cells = x.cells := by
  unfold thmRead
  simp only [↓Hoop.cells_mk, ↓Hoop.cells_ite, ite_self, ↓Hoop.cells_foldl, implies_true, ↓thmFault_cells, ↓faultOff_cells, ↓auxWarn_cells,
    ↓bridge_cells]

theorem pwmReload_cells (z : Bool) (x : Hoop) : (pwmReload z x).cells = x.cells := by
  unfold pwmReload
  simp only [↓Hoop.updZone_cells, ↓Hoop.pwmPins_cells]

theorem trip_cells (z : Bool) (x : Hoop) : (trip z x).cells = x.cells := by
  unfold trip
  simp only [↓Hoop.updZone_cells, ↓raiseEv_cells, ↓fault_cells, ↓holdLow_cells]

theorem tripClearVerb_leavesCells : tripClearVerb.LeavesCells := fun k x => by
  simp only [tripClearVerb, ↓Hoop.cells_ite, ite_self, ↓Hoop.cells_snd, ↓Hoop.cells_snd_ite, ↓raiseEv_cells, ↓Hoop.updZone_cells, ↓restartZones_cells,
    ↓adminOk_cells, ↓faultOff_cells]

theorem tecEnableVerb_leavesCells : tecEnableVerb.LeavesCells := fun k x => by
  simp only [tecEnableVerb, ↓Hoop.cells_mk, ↓Hoop.cells_ite, ite_self, ↓faultOff_cells, ↓restartZones_cells, ↓fault_cells, ↓holdLow_cells,
    ↓adminOk_cells,
    ↓raiseEv_cells]

theorem tecDriveVerb_leavesCells : tecDriveVerb.LeavesCells := fun k x => by
  simp only [tecDriveVerb, ↓Hoop.cells_mk, ↓adminOk_cells, ↓storeSetting_cells]

theorem tecCoefVerb_leavesCells : tecCoefVerb.LeavesCells := fun k x => by
  simp only [tecCoefVerb, ↓Hoop.updZone_cells, ↓adminOk_cells, ↓storeSetting_cells]

theorem thresholdsVerb_leavesCells : thresholdsVerb.LeavesCells := fun k x => by
  simp only [thresholdsVerb, ↓Hoop.cells_mk, ↓adminOk_cells, ↓storeSetting_cells]

theorem thmModelVerb_leavesCells : thmModelVerb.LeavesCells := fun k x => by
  simp only [thmModelVerb, ↓Hoop.cells_mk, ↓adminOk_cells, ↓storeSetting_cells]

/-! ## Collector -/

theorem planeFault_cells (s det : Nat) (x : Hoop) : (planeFault s det x).cells = x.cells := by
  unfold planeFault
  simp only [↓Hoop.cells_ite, ite_self, ↓loseGroup_cells, ↓startTest_cells, ↓Hoop.updChan_cells]

theorem railsOn_cells (s det : Nat) (x : Hoop) : (railsOn s det x).cells = x.cells := by
  unfold railsOn
  simp only [↓Hoop.cells_ite, ite_self, ↓faultOn_cells, ↓planeFault_cells, ↓Hoop.setSrc_cells]

theorem railsRow_cells (h : HoopId) (src : Nat) {f : Hoop → Hoop} (e : ∀ x, (f x).cells = x.cells) (s : State) :
    (railsRow h src f s).cells = s.cells := by
  have hl : ∀ x : Hoop, (if 64 ≤ src ∧ src ≤ 105 then loseGroup (src - 64) x else x).cells = x.cells := fun x => by
    simp only [↓Hoop.cells_ite, ↓loseGroup_cells, ite_self]
  exact (settle_cells ..).trans ((lostToBoth_cells h hl ..).trans (State.upd_cells s h f e))

theorem railsOff_cells (s : Nat) (x : Hoop) : (railsOff s x).cells = x.cells := by
  unfold railsOff
  simp only [↓faultOff_cells, ↓Hoop.setSrc_cells]

theorem wireFault_cells (s : Nat) (x : Hoop) : (wireFault s x).cells = x.cells := by
  unfold wireFault
  simp only [↓Hoop.cells_ite, ite_self, ↓raiseEv_cells, ↓Hoop.setSrc_cells, ↓faultOn_cells, ↓planeFault_cells]

theorem stickyClear_cells (w : Nat) (v : BitVec 32) (x : Hoop) : (stickyClear w v x).cells = x.cells := by
  unfold stickyClear
  simp only [↓Hoop.cells_mk, ↓Hoop.cells_ite, ite_self, ↓Hoop.cells_foldl, implies_true, ↓Hoop.setSrc_cells]

theorem wireClear_cells (w : Nat) (v : BitVec 32) (x : Hoop) : (wireClear w v x).cells = x.cells := by
  unfold wireClear
  simp only [↓Hoop.cells_ite, ite_self, ↓Hoop.cells_foldl, implies_true, ↓Hoop.setSrc_cells]

theorem rearm_cells (v : BitVec 32) (x : Hoop) : (rearm v x).cells = x.cells := by
  unfold rearm
  simp only [↓Hoop.cells_mk, ↓Hoop.cells_ite, ite_self]

theorem faultNEnd_cells (x : Hoop) : (faultNEnd x).cells = x.cells := by
  unfold faultNEnd
  simp only [↓Hoop.cells_mk, ↓Hoop.cells_ite, ite_self]

theorem parityError_cells (x : Hoop) : (parityError x).cells = x.cells := by
  unfold parityError
  simp only [↓Hoop.cells_mk, ↓engage_cells]

theorem keeperCheck_cells (flipped : Bool) (x : Hoop) : (keeperCheck flipped x).cells = x.cells := by
  unfold keeperCheck
  simp only [↓Hoop.cells_mk, ↓Hoop.cells_ite, ite_self, ↓fault_cells, ↓faultOff_cells]

theorem darkAll_cells (x : Hoop) : (darkAll x).cells = x.cells := by
  unfold darkAll
  simp only [↓Hoop.cells_mk, ↓eyeletDark_cells]

theorem darkReleaseVerb_leavesCells : darkReleaseVerb.LeavesCells := fun k x => by
  simp only [darkReleaseVerb, ↓Hoop.cells_mk, ite_self, ↓Hoop.cells_snd, ↓Hoop.cells_snd_ite, ↓adminOk_cells]

theorem darkReleaseRun_cells (h : HoopId) (s : State) : (darkReleaseRun h s).cells = s.cells := by
  unfold darkReleaseRun
  simp only [↓State.cells_ite, ite_self, ↓State.cells_foldl, implies_true, ↓State.upd_cells, ↓darkAll_cells]

theorem unforce_cells (x : Hoop) : (unforce x).cells = x.cells := by
  unfold unforce
  simp only [↓Hoop.cells_mk, ↓Hoop.cells_ite, ite_self, ↓raiseEv_cells, ↓msixSend_cells, ↓jnlPut_cells]

/-! ## Journal -/

theorem holdupCheck_cells (mv : Nat) (x : Hoop) : (holdupCheck mv x).cells = x.cells := by
  unfold holdupCheck
  simp only [↓Hoop.cells_mk, ↓Hoop.cells_ite, ite_self, ↓faultOff_cells, ↓fault_cells]

theorem deferWrite_cells (x : Hoop) : (deferWrite x).cells = x.cells := by
  unfold deferWrite
  simp only [↓Hoop.cells_mk, ↓Hoop.cells_ite, ite_self, ↓raiseEv_cells]

theorem holdupMinVerb_leavesCells : holdupMinVerb.LeavesCells := fun k x => by
  simp only [holdupMinVerb, ↓Hoop.cells_mk, ↓adminOk_cells, ↓storeSetting_cells]

theorem histEvent_cells (x : Hoop) : (histEvent x).cells = x.cells := by
  unfold histEvent
  simp only [↓raiseEv_cells]

theorem writeHistory_cells (x : Hoop) : (writeHistory x).cells = x.cells := by
  unfold writeHistory
  simp only [↓Hoop.cells_mk, ↓pmcRaw_cells]

theorem writeLedger_cells (x : Hoop) : (writeLedger x).cells = x.cells := by
  unfold writeLedger
  simp only [↓Hoop.cells_mk, ↓pmcRaw_cells]

theorem overflowHistory_cells (x : Hoop) : (overflowHistory x).cells = x.cells := by
  unfold overflowHistory
  split <;> simp only [↓Hoop.cells_mk, ↓Hoop.cells_ite, ite_self, ↓fault_cells, ↓jnlPut_cells]

theorem histFail_cells (x : Hoop) : (histFail x).cells = x.cells := by
  unfold histFail
  simp only [↓Hoop.cells_mk, ↓fault_cells, ↓histEvent_cells]

theorem historySecond_cells (deferred writeFail : Bool) (x : Hoop) : (historySecond deferred writeFail x).cells = x.cells := by
  unfold historySecond
  simp only [↓Hoop.cells_mk, ↓Hoop.cells_ite, ite_self, ↓histEvent_cells, ↓histFail_cells, ↓overflowHistory_cells, ↓pmcRaw_cells, ↓writeLedger_cells,
    ↓faultOff_cells, ↓writeHistory_cells]

theorem passRates_cells (x : Hoop) : (passRates x).cells = x.cells := by
  unfold passRates
  simp only [↓Hoop.cells_foldl, implies_true, ↓Hoop.updGroup_cells]

theorem storeReady_cells (present hdrOk : Bool) (capacity : Nat) (x : Hoop) : (storeReady present hdrOk capacity x).cells = x.cells := by
  unfold storeReady
  simp only [↓Hoop.cells_mk, ↓Hoop.cells_ite, ite_self, ↓fault_cells, ↓histEvent_cells, ↓raiseEv_cells]

/-! ## Mailbox -/

theorem doorbell_cells (r : Nat) (tail : BitVec 12) (cmds : List Bytes) (x : Hoop) : (doorbell r tail cmds x).cells = x.cells := by
  unfold doorbell
  simp only [↓Hoop.cells_ite, ite_self, ↓pumpRing_cells, ↓Hoop.setRing_cells]

theorem cplHead_cells (r : Nat) (v : BitVec 12) (x : Hoop) : (cplHead r v x).cells = x.cells := by
  unfold cplHead
  simp only [↓Hoop.cells_ite, ite_self, ↓pumpRing_cells, ↓Hoop.setRing_cells]

theorem evtHead_cells (r : Nat) (v : BitVec 13) (x : Hoop) : (evtHead r v x).cells = x.cells := by
  unfold evtHead
  simp only [↓Hoop.cells_ite, ite_self, ↓Hoop.setRing_cells, ↓raiseEv_cells]

theorem ringEvent_cells (r cause tenant : Nat) (x : Hoop) : (ringEvent r cause tenant x).cells = x.cells := by
  unfold ringEvent
  simp only [↓raiseEv_cells]

theorem reopen0_cells (v : BitVec 32) (x : Hoop) : (reopen0 v x).cells = x.cells := by
  unfold reopen0
  simp only [↓Hoop.cells_ite, ite_self, ↓pumpRing_cells, ↓Hoop.updRing_cells]

theorem dmaError_cells (r : Nat) (x : Hoop) : (dmaError r x).cells = x.cells := by
  unfold dmaError
  simp only [↓Hoop.cells_ite, ite_self, ↓ringEvent_cells, ↓Hoop.setRing_cells]

theorem moderation_cells (r : Nat) (evt : Bool) (x : Hoop) : (moderation r evt x).cells = x.cells := by
  unfold moderation
  simp only [↓Hoop.cells_ite, ite_self, ↓msixSend_cells, ↓Hoop.setRing_cells]

theorem ringBindVerb_leavesCells : ringBindVerb.LeavesCells := fun k x => by
  simp only [ringBindVerb, ite_self, ↓Hoop.cells_snd, ↓Hoop.cells_snd_ite, ↓adminOk_cells, ↓ringEvent_cells, ↓Hoop.setRing_cells]

theorem ringUnbindVerb_leavesCells : ringUnbindVerb.LeavesCells := fun k x => by
  simp only [ringUnbindVerb, ite_self, ↓Hoop.cells_snd, ↓Hoop.cells_snd_ite, ↓adminOk_cells, ↓ringEvent_cells, ↓Hoop.setRing_cells]

theorem meterSetVerb_leavesCells : meterSetVerb.LeavesCells := fun k x => by
  simp only [meterSetVerb, ↓adminOk_cells, ↓Hoop.updRing_cells]

theorem keySetVerb_leavesCells : keySetVerb.LeavesCells := fun k x => by
  simp only [keySetVerb, ↓adminOk_cells, ↓raiseEv_cells, ↓Hoop.setRing_cells]

theorem eventSubVerb_leavesCells : eventSubVerb.LeavesCells := fun k x => by
  simp only [eventSubVerb, ↓Hoop.cells_mk, ↓adminOk_cells]

theorem netCfgVerb_leavesCells : netCfgVerb.LeavesCells := fun k x => by
  simp only [netCfgVerb, ↓Hoop.cells_mk, ↓adminOk_cells, ↓storeSetting_cells]

theorem dropDatagram_cells (why : Nat) (addr : BitVec 32) (x : Hoop) : (dropDatagram why addr x).cells = x.cells := by
  unfold dropDatagram
  simp only [↓Hoop.cells_mk, ↓Hoop.cells_ite, ite_self, ↓pmcRaw_cells, ↓raiseEv_cells]

theorem remote_cells (port : Nat) (addr : BitVec 32) (src : BitVec 16) (p : Bytes) (x : Hoop) : (remote port addr src p x).cells = x.cells := by
  unfold remote
  repeat' split
  all_goals simp only [↓dropDatagram_cells, ↓pumpRing_cells, ↓pmcRaw_cells, ↓Hoop.updRing_cells]

/-! ## Counters -/

theorem parkGrant_cells (t m : Nat) (x : Hoop) : (parkGrant t m x).cells = x.cells := by
  unfold parkGrant
  simp only [↓Hoop.cells_mk]

theorem defaultHit_cells (m : Nat) (write : Bool) (beats addr : Nat) (x : Hoop) : (defaultHit m write beats addr x).cells = x.cells := by
  unfold defaultHit
  simp only [↓Hoop.cells_mk, ↓Hoop.cells_ite, ite_self, ↓pmcRaw_cells, ↓parkGrant_cells, ↓raiseEv_cells]

theorem busError_cells (m : Nat) (x : Hoop) : (busError m x).cells = x.cells := by
  unfold busError
  simp only [↓Hoop.cells_ite, ite_self, ↓jnlPut_cells, ↓fault_cells]

theorem defaultTarget_cells (m : Nat) (write : Bool) (beats addr : Nat) (x : Hoop) : (defaultTarget m write beats addr x).cells = x.cells := by
  unfold defaultTarget
  simp only [↓Hoop.cells_ite, ite_self, ↓busError_cells, ↓defaultHit_cells]

theorem cutBurst_cells (b : Burst) (x : Hoop) : (cutBurst b x).cells = x.cells := by
  unfold cutBurst
  simp only [↓Hoop.cells_mk, ↓Hoop.cells_ite, ite_self, ↓parkGrant_cells, ↓defaultHit_cells, ↓raiseEv_cells, ↓pmcRaw_cells]

theorem cutOf_cells (masters : List Nat) (b : Option Burst) (x : Hoop) : (cutOf masters b x).cells = x.cells := by
  unfold cutOf
  split <;> simp only [↓Hoop.cells_ite, ite_self, ↓cutBurst_cells]

theorem secondBoundaryPmc_cells (sec : Nat) (vs : List (BitVec 48)) (x : Hoop) : (secondBoundaryPmc sec vs x).cells = x.cells := by
  unfold secondBoundaryPmc
  dsimp only
  split <;> simp only [↓Hoop.cells_mk, ↓raiseEv_cells]

theorem windowBoundary_cells (x : Hoop) : (windowBoundary x).cells = x.cells := by
  unfold windowBoundary
  simp only [↓Hoop.cells_mk, ↓Hoop.cells_ite, ite_self, ↓secondBoundaryPmc_cells]

theorem overflow_cells (c inc : Nat) (x : Hoop) : (overflow c inc x).cells = x.cells := by
  unfold overflow
  simp only [↓Hoop.cells_ite, ite_self, ↓pmcRaw_cells]

theorem pmcCtrl_cells (v : BitVec 32) (x : Hoop) : (pmcCtrl v x).cells = x.cells := by
  unfold pmcCtrl
  simp only [↓Hoop.cells_mk]

theorem pmcLoad_cells (v : BitVec 32) (inc : Nat) (x : Hoop) : (pmcLoad v inc x).cells = x.cells := by
  unfold pmcLoad
  simp only [↓Hoop.cells_mk, ↓Hoop.cells_ite, ite_self, ↓pmcRaw_cells]

theorem ovfClear_cells (w : Nat) (v : BitVec 32) (x : Hoop) : (ovfClear w v x).cells = x.cells := Hoop.cells_mk ..

theorem preHi_cells (c : Nat) (v : BitVec 32) (x : Hoop) : (preHi c v x).cells = x.cells := by
  unfold preHi
  simp only [↓Hoop.cells_mk, ↓Hoop.cells_ite, ite_self]

theorem cntLo_cells (c : Nat) (x : Hoop) : (cntLo c x).cells = x.cells := by
  unfold cntLo
  simp only [↓Hoop.cells_mk, ↓Hoop.cells_ite, ite_self]

/-! ## Duplex -/

theorem takeToken_cells (x : Hoop) : (takeToken x).cells = x.cells := Hoop.cells_mk ..
theorem dropToken_cells (x : Hoop) : (dropToken x).cells = x.cells := Hoop.cells_mk ..

theorem firstTiles_cells (x : Hoop) : (firstTiles x).cells = x.cells := by
  unfold firstTiles
  simp only [↓Hoop.cells_ite, ite_self, ↓postNormal_cells]

theorem loadKeeper_cells (x : Hoop) : (loadKeeper x).cells = x.cells := by
  unfold loadKeeper
  split <;> simp only [↓Hoop.cells_mk, ↓fault_cells]

theorem holderStart_cells (x : Hoop) : (holderStart x).cells = x.cells := by
  unfold holderStart
  simp only [↓Hoop.cells_ite, ite_self, ↓loadKeeper_cells, ↓armCount_cells, ↓firstTiles_cells]

theorem claimToken_cells (x : Hoop) : (claimToken x).cells = x.cells := by
  unfold claimToken
  simp only [↓Hoop.cells_ite, ite_self, ↓setRole_cells, ↓takeToken_cells, ↓holderStart_cells]

theorem handoverVerb_leavesCells : handoverVerb.LeavesCells := fun k x => by
  simp only [handoverVerb, ↓Hoop.cells_mk, ite_self, ↓Hoop.cells_snd, ↓Hoop.cells_snd_ite, ↓adminOk_cells, ↓postUrgent_cells]

theorem offer_cells (s : State) : (offer s).cells = s.cells := by
  unfold offer
  dsimp only
  repeat' split
  all_goals simp only [↓settle_cells, ↓State.setDuo_cells]

theorem tambourHandover_cells (h : HoopId) (s : State) : (tambourHandover h s).cells = s.cells := by
  unfold tambourHandover
  dsimp only
  split <;> simp only [↓State.cells_ite, ite_self, implies_true, ↓State.upd_cells, ↓opDone_cells, ↓State.setDuo_cells]

theorem noteTransfer_cells (kind fromN toN : Nat) (cause : BitVec 16) (request at_ hFrom hTo cut : Nat) (element : BitVec 16) (x : Hoop) :
    (noteTransfer kind fromN toN cause request at_ hFrom hTo cut element x).cells = x.cells := by
  unfold noteTransfer
  simp only [↓Hoop.cells_mk, ↓ledFlag_cells, ↓jnlPut_cells]

theorem settleFrom_cells (since b : Nat) (x : Hoop) : (settleFrom since b x).cells = x.cells := by
  unfold settleFrom
  simp only [↓Hoop.cells_mk, ↓Hoop.cells_ite, ite_self, ↓Hoop.cells_foldl, implies_true, ↓Hoop.updThread_cells, ↓jnlPut_cells]

theorem becomeHolder_cells (o : HandOver) (x : Hoop) : (becomeHolder o x).cells = x.cells := by
  unfold becomeHolder
  simp only [↓Hoop.cells_mk, ↓Hoop.cells_ite, ite_self, ↓Hoop.cells_foldl, implies_true, ↓setRole_cells, ↓takeToken_cells, ↓openWindow_cells,
    ↓settleFrom_cells, ↓inject_cells]

theorem endHolder_cells (o : HandOver) (x : Hoop) : (endHolder o x).cells = x.cells := by
  unfold endHolder
  simp only [↓Hoop.cells_mk, ↓setRole_cells, ↓dropToken_cells]

theorem pumpAll_cells (x : Hoop) : (pumpAll x).cells = x.cells := by
  unfold pumpAll
  simp only [↓Hoop.cells_ite, ite_self, ↓Hoop.cells_foldl, implies_true, ↓pumpRing_cells]

theorem handoverBoundary_cells (s : State) : (handoverBoundary s).cells = s.cells := by
  unfold handoverBoundary
  split <;> simp only [↓State.cells_ite, ite_self, ↓State.cells_foldl, implies_true, ↓Hoop.cells_foldl, ↓Hoop.cells_ite, ↓State.setDuo_cells,
    ↓State.upd_cells, ↓endHolder_cells, ↓becomeHolder_cells, ↓raiseEv_cells, ↓noteTransfer_cells, ↓pumpAll_cells, ↓originate_cells, ↓checkFail_cells]

theorem handoverAbandon_cells (cause : Nat) (s : State) : (handoverAbandon cause s).cells = s.cells := by
  unfold handoverAbandon
  repeat' split
  all_goals simp only [implies_true, ↓abandonHo_cells, ↓State.upd_cells, ↓heaterFail_cells, ↓checkFail_cells]

theorem provingEnd_cells (x : Hoop) : (provingEnd x).cells = x.cells := by
  unfold provingEnd
  simp only [↓Hoop.cells_mk, ↓Hoop.cells_ite, ite_self, ↓raiseEv_cells]

theorem interlock_cells (s : State) : (interlock s).cells = s.cells := by
  unfold interlock
  simp only [↓Hoop.cells_mk, ↓State.cells_ite, ite_self, ↓State.cells_foldl, implies_true, ↓abandonHo_cells, ↓State.upd_cells, ↓holdLow_cells,
    ↓dropToken_cells, ↓cutWindows_cells, ↓State.setDuo_cells]

theorem driveAlone_cells (since : Nat) (x : Hoop) : (driveAlone since x).cells = x.cells := by
  unfold driveAlone
  simp only [↓Hoop.cells_mk, ↓setRole_cells, ↓takeToken_cells]

theorem resumeDrive_cells (x : Hoop) : (resumeDrive x).cells = x.cells := by
  unfold resumeDrive
  split <;> simp only [↓Hoop.cells_mk, ↓Hoop.cells_ite, ite_self, ↓Hoop.cells_foldl, implies_true, ↓restartZones_cells, ↓openWindow_cells,
    ↓Hoop.updThread_cells]

theorem graceEnd_cells (s : State) : (graceEnd s).cells = s.cells := by
  unfold graceEnd
  dsimp only
  repeat' split
  all_goals simp only [ite_self, ↓State.cells_foldl, implies_true, ↓Hoop.cells_ite, ↓State.setDuo_cells, ↓State.upd_cells, ↓engage_cells,
    ↓driveAlone_cells, ↓fault_cells, ↓setRole_cells, ↓raiseEv_cells, ↓noteTransfer_cells]

theorem enterResync_cells (x : Hoop) : (enterResync x).cells = x.cells := by
  unfold enterResync
  simp only [↓Hoop.cells_mk, ↓raiseEv_cells, ↓setRole_cells]

theorem sameOrigin_cells (a x : Hoop) : (sameOrigin a x).cells = x.cells := by
  unfold sameOrigin
  simp only [↓Hoop.cells_mk, ↓Hoop.cells_ite, ite_self, ↓Hoop.setCmp_cells]

theorem followPeer_cells (h : HoopId) (s : State) : (followPeer h s).cells = s.cells := by
  unfold followPeer
  simp only [↓State.cells_ite, ite_self, implies_true, ↓State.upd_cells, ↓sameOrigin_cells, ↓enterResync_cells]

theorem tokenTimeout_cells (h : HoopId) (s : State) : (tokenTimeout h s).cells = s.cells := by
  unfold tokenTimeout
  simp only [↓State.cells_ite, ite_self, implies_true, ↓followPeer_cells, ↓State.upd_cells, ↓claimToken_cells, ↓State.setDuo_cells]

theorem copyFrom_cells (a x : Hoop) : (copyFrom a x).cells = x.cells := by
  unfold copyFrom
  simp only [↓Hoop.cells_mk]

theorem resyncDone_cells (h : HoopId) (ms : Nat) (s : State) : (resyncDone h ms s).cells = s.cells := by
  unfold resyncDone
  simp only [↓State.cells_ite, ite_self, implies_true, ↓State.upd_cells, ↓raiseEv_cells, ↓setRole_cells, ↓copyFrom_cells]

theorem rejoinVerb_leavesCells : rejoinVerb.LeavesCells := fun k x => by
  simp only [rejoinVerb, ite_self, ↓Hoop.cells_snd, ↓Hoop.cells_snd_ite, ↓adminOk_cells]

theorem rejoinPeer_cells (h : HoopId) (s : State) : (rejoinPeer h s).cells = s.cells := by
  unfold rejoinPeer
  simp only [↓State.cells_ite, ite_self, implies_true, ↓State.upd_cells, ↓enterResync_cells]

theorem patchCompare_cells (s : State) : (patchCompare s).cells = s.cells := by
  unfold patchCompare
  simp only [↓State.cells_ite, ite_self, ↓State.cells_foldl, implies_true, ↓State.upd_cells, ↓faultOff_cells, ↓fault_cells, ↓noteMismatch_cells]

theorem intakeTimeout_cells (x : Hoop) : (intakeTimeout x).cells = x.cells := by
  unfold intakeTimeout
  simp only [↓Hoop.cells_mk, ↓Hoop.cells_ite, ite_self, ↓fault_cells, ↓noteMismatch_cells]

theorem debugHalt_cells (core : Nat) (x : Hoop) : (debugHalt core x).cells = x.cells := by
  unfold debugHalt
  simp only [↓Hoop.cells_mk, ↓Hoop.cells_ite, ite_self, ↓raiseEv_cells, ↓holdLow_cells, ↓fault_cells]

theorem debugResume_cells (x : Hoop) : (debugResume x).cells = x.cells := by
  unfold debugResume
  split <;> simp only [↓Hoop.cells_mk, ↓Hoop.cells_ite, ite_self, ↓raiseEv_cells, ↓restartZones_cells, ↓faultOff_cells]

/-! ## Walimin -/

theorem tellDiscard_cells (x : Hoop) : (tellDiscard x).cells = x.cells := by
  unfold tellDiscard
  simp only [↓Hoop.cells_mk, ↓Hoop.cells_ite, ite_self, ↓raiseEv_cells]

theorem discardForm_cells (k why : Nat) (x : Hoop) : (discardForm k why x).cells = x.cells := by
  unfold discardForm
  simp only [↓Hoop.cells_mk, ↓tellDiscard_cells, ↓pmcRaw_cells, ↓Hoop.updLink_cells]

theorem dupSeen_cells (x : Hoop) : (dupSeen x).cells = x.cells := by
  unfold dupSeen
  simp only [↓Hoop.cells_mk, ↓pmcRaw_cells]

theorem clearWins_cells (a : Nat) (x : Hoop) : (clearWins a x).cells = x.cells := Hoop.cells_mk ..

theorem forward_cells (from_ : Option Nat) (b : Bytes) (x : Hoop) : (forward from_ b x).cells = x.cells := by
  unfold forward
  split <;> simp only [↓Hoop.cells_mk, ↓Hoop.cells_ite, ite_self, ↓Hoop.cells_foldl, implies_true, ↓dupSeen_cells, ↓tellDiscard_cells, ↓pmcRaw_cells,
    ↓sendFrame_cells, ↓sendToward_cells]

theorem deliver_cells (b : Bytes) {f : Hoop → Hoop} (e : ∀ x, (f x).cells = x.cells) (s : State) : (deliver b f s).cells = s.cells := by
  refine State.cells_foldl _ (fun s h => State.upd_cells s h _ fun x => ?_) _ s
  split
  · exact (e _).trans (Hoop.cells_mk ..)
  · exact dupSeen_cells ..

theorem gotFrame_cells (k : Nat) (x : Hoop) : (gotFrame k x).cells = x.cells := by
  unfold gotFrame
  simp only [↓pmcRaw_cells, ↓Hoop.updLink_cells]

theorem rxLocal_cells (type : Nat) (h : HoopId) (k : Nat) (b : Bytes) {f : Hoop → Hoop} (e : ∀ x, (f x).cells = x.cells) (s : State) :
    (rxLocal type h k b f s).cells = s.cells := by
  unfold rxLocal
  simp only [↓State.cells_ite]
  split
  · rfl
  · split <;> simp only [↓State.cells_ite, ↓State.upd_cells, ↓Hoop.cells_ite, ↓discardForm_cells, ↓gotFrame_cells, ↓e, ite_self, implies_true]

theorem rxFrame_cells (type : Nat) (h : HoopId) (k : Nat) (b : Bytes) {f : Hoop → Hoop} (e : ∀ x, (f x).cells = x.cells) (s : State) :
    (rxFrame type h k b f s).cells = s.cells := by
  unfold rxFrame
  simp only [↓State.cells_ite]
  split
  · rfl
  · split <;> simp only [↓State.cells_ite, ↓State.cells_foldl, ↓State.upd_cells, ↓deliver_cells b e, ↓forward_cells, ↓discardForm_cells,
    ↓gotFrame_cells,
    ↓e, ite_self, implies_true]

theorem updLeader_cells (x : Hoop) : (updLeader x).cells = x.cells := by
  unfold updLeader
  simp only [↓Hoop.cells_mk, ↓Hoop.cells_ite, ite_self, ↓raiseEv_cells]

theorem linkDown_cells (k : Nat) (x : Hoop) : (linkDown k x).cells = x.cells := by
  unfold linkDown
  simp only [↓Hoop.cells_ite, ite_self, ↓raiseEv_cells, ↓Hoop.updLink_cells, ↓updLeader_cells, ↓fault_cells]

theorem linkUp_cells (k : Nat) (x : Hoop) : (linkUp k x).cells = x.cells := by
  unfold linkUp
  simp only [↓Hoop.cells_ite, ite_self, ↓raiseEv_cells, ↓faultOff_cells, ↓Hoop.updLink_cells]

theorem helloSend_cells (x : Hoop) : (helloSend x).cells = x.cells := by
  unfold helloSend
  simp only [↓Hoop.cells_ite, ite_self, ↓Hoop.cells_foldl, implies_true, ↓sendLocal_cells]

theorem hello_cells (k : Nat) (b : Bytes) (x : Hoop) : (hello k b x).cells = x.cells := by
  unfold hello
  simp only [↓Hoop.cells_ite, ite_self, ↓linkDown_cells, ↓Hoop.updLink_cells, ↓updLeader_cells, ↓linkUp_cells]

theorem helloTimeout_cells (k : Nat) (x : Hoop) : (helloTimeout k x).cells = x.cells := by
  unfold helloTimeout
  simp only [↓Hoop.cells_ite, ite_self, ↓linkDown_cells]

theorem laneLoss_cells (k lane : Nat) (x : Hoop) : (laneLoss k lane x).cells = x.cells := by
  unfold laneLoss
  simp only [↓Hoop.cells_ite, ite_self, ↓linkDown_cells, ↓Hoop.updLink_cells]

theorem tellReach_cells (a : Nat) (r : Rt) (x : Hoop) : (tellReach a r x).cells = x.cells := by
  unfold tellReach
  simp only [↓Hoop.cells_mk, ↓Hoop.cells_ite, ite_self, ↓raiseEv_cells]

theorem putRt_cells (a : Nat) (r : Rt) (x : Hoop) : (putRt a r x).cells = x.cells := by
  unfold putRt
  simp only [↓Hoop.cells_ite, ite_self, ↓clearWins_cells, ↓Hoop.setRt_cells, ↓tellReach_cells]

theorem dropAddr_cells (x : Hoop) : (dropAddr x).cells = x.cells := by
  unfold dropAddr
  simp only [↓Hoop.cells_mk, ↓Hoop.cells_ite, ite_self, ↓putRt_cells]

theorem takeAddr_cells (a : Nat) (x : Hoop) : (takeAddr a x).cells = x.cells := by
  unfold takeAddr
  simp only [↓Hoop.cells_mk, ↓Hoop.cells_ite, ite_self, ↓dropAddr_cells, ↓raiseEv_cells, ↓putRt_cells, ↓addressWrite_cells]

theorem conflict_cells (id : BitVec 64) (x : Hoop) : (conflict id x).cells = x.cells := by
  unfold conflict
  simp only [↓Hoop.cells_mk, ↓Hoop.cells_ite, ite_self, ↓raiseEv_cells, ↓dropAddr_cells]

theorem learn_cells (k a d gen : Nat) (id : BitVec 64) (x : Hoop) : (learn k a d gen id x).cells = x.cells := by
  unfold learn
  simp only [↓Hoop.cells_ite, ite_self, ↓conflict_cells, ↓putRt_cells]

theorem routeIn_cells (k : Nat) (b : Bytes) (x : Hoop) : (routeIn k b x).cells = x.cells := by
  unfold routeIn
  simp only [↓Hoop.cells_ite, ite_self, ↓Hoop.cells_foldl, implies_true, ↓learn_cells]

theorem dropWith_cells (h : HoopId) (had : Bool) (s : State) : (dropWith h had s).cells = s.cells := by
  unfold dropWith
  simp only [↓Hoop.cells_mk, ↓State.cells_ite, ite_self, implies_true, ↓State.upd_cells, ↓raiseEv_cells, ↓dropAddr_cells]

theorem sendRoutes_cells (k : Nat) (es : List (Nat × Rt)) (x : Hoop) : (sendRoutes k es x).cells = x.cells := by
  unfold sendRoutes
  simp only [↓Hoop.cells_foldl, implies_true, ↓sendLocal_cells]

theorem told_cells (k : Nat) (x : Hoop) : (told k x).cells = x.cells := Hoop.cells_mk ..

theorem routeAdvertise_cells (x : Hoop) : (routeAdvertise x).cells = x.cells := by
  unfold routeAdvertise
  simp only [↓Hoop.cells_ite, ite_self, ↓Hoop.cells_foldl, implies_true, ↓told_cells, ↓sendRoutes_cells]

theorem triggered_cells (k : Nat) (x : Hoop) : (triggered k x).cells = x.cells := by
  unfold triggered
  simp only [↓Hoop.cells_ite, ite_self, ↓told_cells, ↓sendRoutes_cells, ↓Hoop.updLink_cells]

theorem routeExpiry_cells (a : Nat) (x : Hoop) : (routeExpiry a x).cells = x.cells := by
  unfold routeExpiry
  simp only [↓Hoop.cells_ite, ite_self, ↓putRt_cells]
  repeat' split
  all_goals simp only [↓Hoop.setRt_cells]

theorem sendGrant_cells (id : BitVec 64) (a gen : Nat) (x : Hoop) : (sendGrant id a gen x).cells = x.cells := by
  unfold sendGrant
  simp only [↓originate_cells]

theorem selfGrant_cells (h : HoopId) (s : State) : (selfGrant h s).cells = s.cells := by
  unfold selfGrant
  simp only [↓State.cells_ite]
  repeat' split
  all_goals simp only [↓State.cells_foldl, implies_true, ↓State.upd_cells, ↓sendGrant_cells, ↓takeAddr_cells]

theorem sendReq_cells (k : Nat) (seq ttl : Nat) (origin : BitVec 16) (p : Bytes) (x : Hoop) : (sendReq k seq ttl origin p x).cells = x.cells := by
  unfold sendReq
  simp only [↓sendFrame_cells]

theorem reqSend_cells (x : Hoop) : (reqSend x).cells = x.cells := by
  unfold reqSend
  split <;> simp only [↓Hoop.cells_mk, ↓sendReq_cells]

theorem addrReqSend_cells (h : HoopId) (s : State) : (addrReqSend h s).cells = s.cells := by
  unfold addrReqSend
  simp only [↓State.cells_ite, ite_self, implies_true, ↓selfGrant_cells, ↓State.upd_cells, ↓reqSend_cells]

theorem grant_cells (h : HoopId) (b : Bytes) (s : State) : (grant h b s).cells = s.cells := by
  unfold grant
  dsimp only
  split <;> simp only [↓State.cells_foldl, implies_true, ↓selfGrant_cells, ↓State.upd_cells, ↓sendGrant_cells]

theorem addrReq_cells (h : HoopId) (k : Nat) (b : Bytes) (s : State) : (addrReq h k b s).cells = s.cells := by
  unfold addrReq
  extract_lets x
  split
  · rfl
  · split
    · exact State.upd_cells _ _ _ (discardForm_cells _ _)
    · split
      · rfl
      · have h1 : (s.upd h (gotFrame k)).cells = s.cells := State.upd_cells _ _ _ (gotFrame_cells k)
        split
        · exact (grant_cells ..).trans h1
        · refine (State.upd_cells _ h _ fun y => ?_).trans h1
          split
          · simp only [↓tellDiscard_cells, ↓pmcRaw_cells, ↓Hoop.cells_mk]
          · split
            · exact sendReq_cells ..
            · simp only [↓tellDiscard_cells, ↓pmcRaw_cells, ↓Hoop.cells_mk]

theorem addrGrant_cells (b : Bytes) (x : Hoop) : (addrGrant b x).cells = x.cells := by
  unfold addrGrant
  simp only [↓Hoop.cells_ite, ite_self, ↓takeAddr_cells]

theorem wlmCfgVerb_leavesCells : wlmCfgVerb.LeavesCells := fun k x => by
  simp only [wlmCfgVerb, ↓Hoop.cells_mk, ↓Hoop.cells_foldl, implies_true, ↓faultOff_cells, ↓linkDown_cells, ↓adminOk_cells, ↓storeSetting_cells]

theorem noticeRepeat_cells (x : Hoop) : (noticeRepeat x).cells = x.cells := by
  unfold noticeRepeat
  simp only [↓Hoop.cells_mk, ↓Hoop.cells_ite, ite_self, ↓Hoop.cells_foldl, implies_true, ↓sendNotices_cells]

theorem darkNotice_cells (b : Bytes) (x : Hoop) : (darkNotice b x).cells = x.cells := by
  unfold darkNotice
  simp only [↓Hoop.cells_mk, ↓Hoop.cells_ite, ite_self, ↓Hoop.cells_foldl, implies_true, ↓raiseEv_cells, ↓pulse_cells]

theorem handoverNotice_cells (b : Bytes) (x : Hoop) : (handoverNotice b x).cells = x.cells := by
  unfold handoverNotice
  simp only [↓raiseEv_cells]

theorem timeCheckSend_cells (x : Hoop) : (timeCheckSend x).cells = x.cells := by
  unfold timeCheckSend
  simp only [↓Hoop.cells_ite, ite_self, ↓Hoop.cells_foldl, implies_true, ↓sendLocal_cells]

theorem timeCheck_cells (k : Nat) (b : Bytes) (fine : BitVec 4) (x : Hoop) : (timeCheck k b fine x).cells = x.cells := by
  unfold timeCheck
  simp only [↓Hoop.cells_ite, ite_self, ↓sendLocal_cells, ↓Hoop.updLink_cells, ↓raiseEv_cells]

theorem telemetrySend_cells (peer : Hoop) (dark : Bool) (x : Hoop) : (telemetrySend peer dark x).cells = x.cells := by
  unfold telemetrySend
  repeat' split
  all_goals simp only [↓Hoop.cells_mk, ↓Hoop.cells_ite, ite_self, ↓Hoop.defers_cells, ↓originate_cells]

theorem telemetryIn_cells (b : Bytes) (x : Hoop) : (telemetryIn b x).cells = x.cells := by
  unfold telemetryIn
  simp only [↓Hoop.cells_ite, ite_self, ↓raiseEv_cells]

/-! ## Fabric -/

theorem noteChains_cells (initiator fcid : Nat) (addrs : List Nat) (es : List Edit) (x : Hoop) :
    (noteChains initiator fcid addrs es x).cells = x.cells := by
  unfold noteChains
  simp only [↓Hoop.cells_mk, ↓Hoop.cells_foldl, implies_true]

theorem takeSlot_cells (s : Nat) (f : Fab) (x : Hoop) : (takeSlot s f x).cells = x.cells := by
  unfold takeSlot
  split <;> simp only [↓Hoop.cells_mk, ↓setFab_cells]

theorem updInit_cells (initiator fcid : Nat) (g : Fab → Fab) (x : Hoop) : (updInit initiator fcid g x).cells = x.cells := by
  unfold updInit
  simp only [↓Hoop.cells_mk]

theorem withdrawPart_cells (initiator fcid code : Nat) (x : Hoop) : (withdrawPart initiator fcid code x).cells = x.cells := by
  unfold withdrawPart
  split <;> simp only [↓abortCommit_cells]

theorem abortMembers_cells (f : Fab) (status reason : Nat) (x : Hoop) : (abortMembers f status reason x).cells = x.cells := by
  unfold abortMembers
  simp only [↓Hoop.cells_foldl, implies_true, ↓originate_cells]

theorem dropDeadlines_cells (f : Fab) (x : Hoop) : (dropDeadlines f x).cells = x.cells := by
  unfold dropDeadlines
  split <;> simp only [↓dropArm_cells]

theorem giveUp_cells (f : Fab) (tell : Bool) (status reason : Nat) (x : Hoop) : (giveUp f tell status reason x).cells = x.cells := by
  unfold giveUp
  simp only [↓Hoop.cells_ite, ite_self, ↓dropDeadlines_cells, ↓abortMembers_cells, ↓withdrawPart_cells, ↓updInit_cells]

theorem fabOutcome_cells (f : Fab) (x : Hoop) : (fabOutcome f x).cells = x.cells := by
  unfold fabOutcome
  simp only [↓Hoop.cells_mk, ↓raiseEv_cells]

theorem noteEnd_cells (fcid src result : Nat) (x : Hoop) : (noteEnd fcid src result x).cells = x.cells := by
  unfold noteEnd
  split <;> simp only [↓Hoop.cells_ite, ite_self, ↓updInit_cells, ↓fabOutcome_cells]

theorem startFabric_cells (fcid ens slot : Nat) (ms : List (Nat × List Bytes)) (loc : List Edit) (x : Hoop) :
    (startFabric fcid ens slot ms loc x).cells = x.cells := by
  unfold startFabric
  simp only [↓Hoop.cells_mk, ↓Hoop.cells_foldl, implies_true, ↓takeSlot_cells, ↓armAt_cells, ↓dropArm_cells, ↓originate_cells, ↓noteChains_cells]

theorem fabricVerb_leavesCells : fabricVerb.LeavesCells := fun k x => by
  simp only [fabricVerb]
  repeat' split
  all_goals simp only [↓Hoop.cells_snd, ↓startFabric_cells, ↓raiseEv_cells, ↓takeCommit_cells]

theorem refuseProp_cells (initiator fcid status reason : Nat) (x : Hoop) : (refuseProp initiator fcid status reason x).cells = x.cells := by
  unfold refuseProp
  simp only [↓originate_cells]

theorem propose_cells (b : Bytes) (x : Hoop) : (propose b x).cells = x.cells := by
  unfold propose
  simp only [↓Hoop.cells_ite, ↓refuseProp_cells]
  repeat' split
  all_goals simp only [↓refuseProp_cells, ↓raiseEv_cells, ↓takeCommit_cells, ↓noteChains_cells, ↓takeSlot_cells, ↓armAt_cells, ↓dropArm_cells,
    ↓originate_cells]

theorem goIn_cells (b : Bytes) (x : Hoop) : (goIn b x).cells = x.cells := by
  unfold goIn
  split <;> simp only [↓Hoop.cells_ite, ite_self, ↓setFab_cells, ↓dropArm_cells]

theorem abortIn_cells (b : Bytes) (x : Hoop) : (abortIn b x).cells = x.cells := by
  unfold abortIn
  dsimp only
  repeat' split
  all_goals simp only [↓withdrawPart_cells, ↓setFab_cells, ↓dropArm_cells, ↓giveUp_cells, ↓noteEnd_cells]

theorem goDeadline_cells (k : Nat) (x : Hoop) : (goDeadline k x).cells = x.cells := by
  unfold goDeadline
  simp only [↓Hoop.cells_ite]
  repeat' split
  all_goals simp only [↓cmpFire_cells, ↓withdrawPart_cells, ↓refuseProp_cells, ↓setFab_cells]

theorem sendGo_cells (f : Fab) (x : Hoop) : (sendGo f x).cells = x.cells := by
  unfold sendGo
  simp only [↓Hoop.cells_foldl, implies_true, ↓originate_cells, ↓updInit_cells, ↓dropDeadlines_cells]

theorem readyIn_cells (b : Bytes) (x : Hoop) : (readyIn b x).cells = x.cells := by
  unfold readyIn
  dsimp only
  split <;> simp only [↓Hoop.cells_ite, ite_self, ↓updInit_cells, ↓sendGo_cells]

theorem doneIn_cells (b : Bytes) (x : Hoop) : (doneIn b x).cells = x.cells := by
  unfold doneIn
  simp only [↓noteEnd_cells]

theorem readyDeadline_cells (s : Nat) (x : Hoop) : (readyDeadline s x).cells = x.cells := by
  unfold readyDeadline
  split <;> simp only [↓Hoop.cells_ite, ite_self, ↓giveUp_cells, ↓cmpFireDue_cells, ↓sendGo_cells, ↓armAt_cells]

theorem goSendDeadline_cells (s : Nat) (x : Hoop) : (goSendDeadline s x).cells = x.cells := by
  unfold goSendDeadline
  split <;> simp only [↓Hoop.cells_ite, ite_self, ↓giveUp_cells, ↓cmpFireDue_cells]

theorem outcomeTimeout_cells (s : Nat) (x : Hoop) : (outcomeTimeout s x).cells = x.cells := by
  unfold outcomeTimeout
  split <;> simp only [↓Hoop.cells_ite, ite_self, ↓fabOutcome_cells]

/-! ## Flags -/

theorem msixWrite_cells (w : Nat) (v : Word) (x : Hoop) : (msixWrite w v x).cells = x.cells := by
  unfold msixWrite
  simp only [↓Hoop.cells_mk]

theorem bar0Write_cells (off : Nat) (v : Word) (x : Hoop) : (bar0Write off v x).cells = x.cells := by
  unfold bar0Write
  simp only [↓Hoop.cells_mk, ↓Hoop.cells_ite, ite_self, ↓Hoop.updRing_cells, ↓msixWrite_cells]

/-! ## Diagnostics -/

theorem regReadVerb_leavesCells (failN : Bool) : (regReadVerb failN).LeavesCells := fun k x => by
  simp only [regReadVerb, ↓Hoop.fresh_cells, ↓respond_cells]

theorem samplerReadVerb_leavesCells : samplerReadVerb.LeavesCells := fun k x => by
  simp only [samplerReadVerb, ite_self, ↓Hoop.cells_snd, ↓Hoop.cells_snd_ite, ↓respond_cells]

theorem journalReadVerb_leavesCells : journalReadVerb.LeavesCells := fun k x => by
  simp only [journalReadVerb, ↓respond_cells]

theorem resultReadVerb_leavesCells : resultReadVerb.LeavesCells := fun k x => by
  simp only [resultReadVerb, ite_self, ↓Hoop.cells_snd, ↓Hoop.cells_snd_ite, ↓respond_cells]

theorem elementReadVerb_leavesCells : elementReadVerb.LeavesCells := fun k x => by
  simp only [elementReadVerb, ite_self, ↓Hoop.cells_snd, ↓Hoop.cells_snd_ite, ↓respond_cells]

theorem respondMixed_cells (k : Ctx) (recs : List Bytes) (x : Hoop) : (respondMixed k recs x).2.cells = x.cells := by
  unfold respondMixed
  split <;> simp only [↓Hoop.cells_mk, ↓Hoop.cells_snd]

theorem deltaReadVerb_leavesCells : deltaReadVerb.LeavesCells := fun k x => by
  simp only [deltaReadVerb]
  split <;> simp only [↓Hoop.cells_snd, ↓respondMixed_cells]

theorem commitListVerb_leavesCells : commitListVerb.LeavesCells := fun k x => by
  simp only [commitListVerb, ↓respond_cells]

theorem patchReadVerb_leavesCells : patchReadVerb.LeavesCells := fun k x => by
  simp only [patchReadVerb, ite_self, ↓Hoop.cells_snd_ite, ↓respond_cells]

theorem historyReadVerb_leavesCells : historyReadVerb.LeavesCells := fun k x => by
  simp only [historyReadVerb]
  split <;> simp only [ite_self, ↓Hoop.cells_snd, ↓Hoop.cells_snd_ite, ↓respond_cells]

/-! ## Power -/

theorem readRail_cells (i mv : Nat) (x : Hoop) : (readRail i mv x).cells = x.cells := by
  unfold readRail
  simp only [↓Hoop.cells_mk]

theorem hoopReset_cells (wide mod : Bool) (x : Hoop) : (hoopReset wide mod x).cells = x.cells := Hoop.cells_mk ..

theorem moduleReset_cells (mod : Bool) (s : State) : (moduleReset mod s).cells = s.cells := by
  unfold moduleReset
  simp only [↓State.cells_foldl, implies_true, ↓State.upd_cells, ↓hoopReset_cells, ↓State.setDuo_cells]

theorem powerOn_cells (h : HoopId) (rail mv : Nat) (s : State) : (powerOn h rail mv s).cells = s.cells := by
  unfold powerOn
  simp only [↓Hoop.cells_mk, ↓State.cells_ite, ite_self, implies_true, ↓Hoop.cells_ite, ↓State.upd_cells, ↓moduleReset_cells, ↓abandonHo_cells,
    ↓hoopReset_cells]

theorem freeRail_cells (x : Hoop) (i : Nat) : (freeRail x i).cells = x.cells := Hoop.cells_mk ..

theorem porRelease_cells (strap : Bool) (x : Hoop) : (porRelease strap x).cells = x.cells := by
  unfold porRelease
  simp only [↓Hoop.cells_mk, ↓Hoop.cells_ite, ite_self, ↓Hoop.cells_foldl, implies_true, ↓freeRail_cells]

theorem railOut_cells (rail mv : Nat) (x : Hoop) : (railOut rail mv x).cells = x.cells := by
  unfold railOut
  simp only [↓Hoop.cells_mk, ↓Hoop.cells_ite, ite_self, ↓readRail_cells, ↓raiseEv_cells, ↓fault_cells]

theorem railBack_cells (rail mv : Nat) (x : Hoop) : (railBack rail mv x).cells = x.cells := by
  unfold railBack
  simp only [↓Hoop.cells_mk, ↓Hoop.cells_ite, ite_self, ↓readRail_cells, ↓raiseEv_cells, ↓faultOff_cells]

theorem keepLoss_cells (x : Hoop) : (keepLoss x).cells = x.cells := Hoop.cells_mk ..

theorem powerGood_cells (s : State) : (powerGood s).cells = s.cells := by
  unfold powerGood
  simp only [↓State.cells_mk, ↓State.cells_ite, ite_self, ↓State.cells_foldl, implies_true, ↓Hoop.cells_ite, ↓State.upd_cells, ↓raiseEv_cells,
    ↓faultOff_cells, ↓settle_cells]

theorem pcieReset_cells (cause : Nat) (cut : Option Burst) (x : Hoop) : (pcieReset cause cut x).cells = x.cells := by
  unfold pcieReset
  simp only [↓Hoop.cells_mk, ↓Hoop.cells_ite, ite_self, ↓Hoop.cells_foldl, implies_true, ↓cutOf_cells, ↓Hoop.updRing_cells, ↓raiseEv_cells,
    ↓fault_cells]

theorem pcieUp_cells (rate width : Nat) (x : Hoop) : (pcieUp rate width x).cells = x.cells := by
  unfold pcieUp
  simp only [↓Hoop.cells_mk, ↓Hoop.cells_ite, ite_self, ↓raiseEv_cells, ↓faultOff_cells]

theorem powerState_cells (d3 : Bool) (x : Hoop) : (powerState d3 x).cells = x.cells := by
  unfold powerState
  simp only [↓Hoop.cells_mk, ↓Hoop.cells_ite, ite_self, ↓pumpAll_cells]

theorem watchdog_cells (core : Nat) (cut : Option Burst) (x : Hoop) : (watchdog core cut x).cells = x.cells := by
  unfold watchdog
  simp only [↓Hoop.cells_mk, ↓Hoop.cells_ite, ite_self, ↓cutOf_cells, ↓raiseEv_cells, ↓fault_cells]

theorem coreResume_cells (core : Nat) (x : Hoop) : (coreResume core x).cells = x.cells := by
  unfold coreResume
  simp only [↓Hoop.cells_mk, ↓Hoop.cells_ite, ite_self, ↓faultOff_cells]

theorem dutyEdge_cells (z : Bool) (x : Hoop) : (dutyEdge z x).cells = x.cells := by
  unfold dutyEdge
  simp only [↓Hoop.updZone_cells]

/-! ## Startup -/

theorem holdBoot_cells (cause : Nat) (x : Hoop) : (holdBoot cause x).cells = x.cells := by
  unfold holdBoot
  simp only [↓Hoop.cells_mk, ↓dropToken_cells, ↓setRole_cells]

theorem lockPatch_cells (img : Image) (x : Hoop) : (lockPatch img x).cells = x.cells := by
  unfold lockPatch
  simp only [↓Hoop.cells_mk]

theorem authenticated_cells (fail0 fail1 : Nat) (img : Image) (x : Hoop) : (authenticated fail0 fail1 img x).cells = x.cells := by
  unfold authenticated
  simp only [↓Hoop.cells_mk, ↓Hoop.cells_ite, ite_self, ↓holdBoot_cells, ↓lockPatch_cells, ↓takeToken_cells, ↓raiseEv_cells, ↓setStage_cells]

theorem findJournal_cells (x : Hoop) : (findJournal x).cells = x.cells := by
  unfold findJournal
  split <;> simp only [↓Hoop.cells_mk]

theorem rebuildLedger_cells (x : Hoop) : (rebuildLedger x).cells = x.cells := by
  unfold rebuildLedger
  repeat' split
  all_goals simp only [↓Hoop.cells_mk]

theorem bootRecord_cells (x : Hoop) : (bootRecord x).cells = x.cells := by
  unfold bootRecord
  simp only [↓jnlPut_cells]

theorem loadCal_cells (x : Hoop) : (loadCal x).cells = x.cells := by
  unfold loadCal
  simp only [↓Hoop.cells_foldl, implies_true, ↓Hoop.updChan_cells]

theorem selfTest_cells (lost : List Nat) (x : Hoop) : (selfTest lost x).cells = x.cells := by
  unfold selfTest
  simp only [↓Hoop.cells_ite, ite_self, ↓Hoop.cells_foldl, implies_true, ↓sliceBuild_cells, ↓beginRebuild_cells, ↓setStage_cells, ↓loseFront_cells]

theorem selfTestDone_cells (h : HoopId) (lost : List Nat) (s : State) : (selfTestDone h lost s).cells = s.cells := by
  unfold selfTestDone
  simp only [↓State.cells_ite, ite_self, implies_true, ↓Hoop.cells_foldl, ↓lostToBoth_cells, ↓loseFront_cells, ↓State.upd_cells, ↓selfTest_cells,
    ↓holderStart_cells, ↓followPeer_cells, ↓claimToken_cells, ↓State.setDuo_cells]

theorem firstWrites_cells (x : Hoop) : (firstWrites x).cells = x.cells := by
  unfold firstWrites
  simp only [↓Hoop.cells_mk, ↓Hoop.cells_ite, ite_self, ↓Hoop.cells_foldl, implies_true, ↓raiseEv_cells, ↓restartZones_cells, ↓confirmDark_cells]

theorem deliverHeld_cells (x : Hoop) : (deliverHeld x).cells = x.cells := by
  unfold deliverHeld
  simp only [↓Hoop.cells_mk, ↓Hoop.cells_ite, ite_self, ↓Hoop.cells_foldl, implies_true, ↓deliverEvAt_cells]

theorem ring0Open_cells (tempTimeout timeTimeout : Bool) (x : Hoop) : (ring0Open tempTimeout timeTimeout x).cells = x.cells := by
  unfold ring0Open
  simp only [↓Hoop.cells_mk, ↓Hoop.cells_ite, ite_self, ↓Hoop.updRing_cells, ↓deliverHeld_cells, ↓setStage_cells, ↓pumpRing_cells, ↓raiseEv_cells]

end Sys2Proof.Machine
end

section
/-!
SUPPORT. What a tick of the idle module and a row that stores no byte leave of the byte memories of both hoops: all of it.
-/

namespace Sys2Proof.Machine
open Sys2Proof

/-! ## A tick -/

theorem idleTick_cells (s : State) : (idleTick s).cells = s.cells := State.cells_iff.mpr fun k => congrArg Rest.mram (idleTick_atRest s k)

theorem writeCodes_cells (n : NanoWord) (sf : Nat) (ds : List DeltaEntry) (x : Hoop) : (writeCodes n sf ds x).cells = x.cells := by
  unfold writeCodes
  simp only [↓Hoop.cells_ite, ↓Hoop.cells_foldl, ↓openWindow_cells, ↓Hoop.setIdle_cells, ↓Hoop.updNeedle_cells, ↓updateNeedle_cells, ite_self,
    implies_true]

theorem loadBus_cells (n : NanoWord) (r : Run) (x : Hoop) : (loadBus n r x).2.cells = x.cells := by
  unfold loadBus
  split
  · simp only [↓Hoop.cells_snd_ite, ↓Hoop.cells_snd, ↓Hoop.cells_foldl, ↓darkOne_cells, ↓writeCodes_cells, ite_self, implies_true]
  · exact Hoop.cells_snd ..
  · exact Hoop.cells_mk ..
  · simp only [↓Hoop.cells_snd, ↓Hoop.cells_foldl, ↓Hoop.updTile_cells, ↓updateSome_cells, implies_true]
  · exact Hoop.cells_snd ..

theorem bankUnit_cells (n : NanoWord) (r : Run) (x : Hoop) : (bankUnit n r x).2.cells = x.cells := by
  unfold bankUnit
  split
  · exact (pmcRaw_cells ..).trans (Hoop.cells_mk ..)
  · exact Hoop.cells_mk ..
  · exact Hoop.cells_snd ..

theorem cmpUnit_cells (n : NanoWord) (r : Run) (x : Hoop) : (cmpUnit n r x).2.cells = x.cells := by
  unfold cmpUnit
  extract_lets k
  split
  · split
    · next y hy =>
      have h := cmpArm_cells hy
      split
      · simpa only [↓markArmed_cells, ↓tellStaged_cells] using h
      · exact h
    · exact lateArm_cells ..
  · exact cmpDisarm_cells ..
  · exact Hoop.cells_mk ..
  · exact Hoop.cells_snd ..

theorem injUnit_cells (n : NanoWord) (r : Run) (x : Hoop) : (injUnit n r x).2.cells = x.cells := by
  unfold injUnit
  extract_lets keys
  split
  · simp only [↓Hoop.cells_snd, ↓Hoop.cells_foldl, ↓injectAt_cells, implies_true]
  · exact Hoop.updGroup_cells ..
  · exact Hoop.cells_mk ..
  · simp only [↓Hoop.cells_snd, ↓Hoop.cells_foldl, ↓clearInj_cells, implies_true]
  · exact Hoop.cells_snd ..

theorem execNano_cells (n : NanoWord) (r : Run) (x : Hoop) : (execNano n r x).2.cells = x.cells :=
  (injUnit_cells ..).trans ((cmpUnit_cells ..).trans ((bankUnit_cells ..).trans (loadBus_cells ..)))

theorem endRun_cells (r : Run) (x : Hoop) : (endRun r x).cells = x.cells := by
  unfold endRun
  simp only [↓Hoop.cells_ite, ↓Hoop.cells_mk, ↓abortStage_cells, ↓opDone_cells, ↓postStage_cells, ite_self]

theorem preempt_cells (r : Run) (x : Hoop) : (preempt r x).cells = x.cells := by
  unfold preempt
  simp only [↓Hoop.cells_ite, ↓Hoop.cells_mk, ite_self]

theorem goOn_cells (x : Hoop) : (goOn x).cells = x.cells := by
  unfold goOn
  split
  · rfl
  · split <;> simp only [↓Hoop.cells_ite, ↓Hoop.cells_mk, ite_self]

theorem knot_cells (isKnot : Bool) (a : BitVec 12) (x : Hoop) : (knot isKnot a x).cells = x.cells := by
  unfold knot
  split <;> simp only [↓Hoop.cells_ite, ↓Hoop.cells_mk, ↓stopRun_cells, ↓raiseEv_cells, ↓preempt_cells, ite_self]

theorem execWord_cells (ack : Bool) (a : BitVec 12) (w : MicroWord) (n : NanoWord) (r : Run) (x : Hoop) :
    (execWord ack a w n r x).cells = x.cells := by
  unfold execWord
  split
  · simp only [↓fault_cells, ↓stopRun_cells]
  · have h : (if r.waitFrom.isSome then (r, x) else execNano n r x).2.cells = x.cells := by
      simp only [↓Hoop.cells_snd_ite, ↓execNano_cells, ite_self]
    generalize (if r.waitFrom.isSome then (r, x) else execNano n r x) = q at h ⊢
    obtain ⟨r', y⟩ := q
    dsimp only at h ⊢
    split
    · exact (knot_cells ..).trans ((Hoop.cells_mk ..).trans h)
    · exact (knot_cells ..).trans ((Hoop.cells_mk ..).trans h)
    · exact (endRun_cells ..).trans h
    · exact (stopRun_cells ..).trans h
    · exact h

theorem microcycle_cells (ack : Bool) (x : Hoop) : (microcycle ack x).cells = x.cells := by
  unfold microcycle
  split
  · exact goOn_cells x
  · extract_lets a mended t micro
    have hmend : ∀ nano at_ y, (mended nano at_ y).cells = y.cells := fun nano at_ y => eccFix_cells ..
    have hmicro : ∀ v y, micro = some (v, y) → y.cells = x.cells := by
      intro v y h
      simp only [micro] at h
      split at h
      · cases h
        rfl
      · cases h
        rw [hmend]
        split
        · rfl
        · exact Hoop.cells_mk ..
      · cases h
    clear_value micro mended
    cases micro with
    | none => exact fetchFault_cells _ _ (stopRun_cells _ _ _ _ _) x
    | some q =>
      obtain ⟨v, y⟩ := q
      have hy : y.cells = x.cells := hmicro v y rfl
      dsimp only
      split
      · rw [execWord_cells, hy]
      · rw [execWord_cells, hmend]
        split
        · exact hy
        · exact (Hoop.cells_mk ..).trans hy
      · exact (fetchFault_cells _ _ (stopRun_cells _ _ _ _ _) y).trans hy

theorem microTickIn_cells (h : HoopId) (s : State) : (microTickIn h s).cells = s.cells := by
  unfold microTickIn
  extract_lets x y t done
  have hy : y.cells = x.cells := (microcycle_cells ..).trans (microcycle_cells ..)
  have ht : t.cells = s.cells := s.upd_cells_at h _ hy
  split
  · rfl
  · simp only [↓settle_cells, ↓digestCompare_cells, ↓State.cells_ite, ↓State.setDuo_cells, ite_self, ht]

theorem microTick_cells (s : State) : (microTick s).cells = s.cells := (microTickIn_cells ..).trans (microTickIn_cells ..)

theorem goTick_cells (s : State) : (goTick s).cells = s.cells := by
  refine State.cells_foldl _ (fun t h => ?_) _ s
  simp only [↓State.cells_ite, ↓State.act_cells, ↓Hoop.cells_foldl, ↓Hoop.cells_ite, ↓sendGo_cells, ite_self, implies_true]

/-! ## Rows -/

/-- The row answers a next state, with the byte memories of the state it starts from. -/
def SparesMemory (s : State) (o : Host.Outcome State Fault Refusal) : Prop := ∃ t, o = .next t ∧ t.cells = s.cells

theorem sparesMemory_next {s t : State} (e : t.cells = s.cells) : SparesMemory s (.next t) := ⟨t, rfl, e⟩

theorem sparesMemory_settle {s t : State} (e : t.cells = s.cells) : SparesMemory s (.next (settle t)) := sparesMemory_next ((settle_cells t).trans e)

theorem sparesMemory_act (s : State) (h : HoopId) {f : Hoop → Hoop} (e : ∀ x, (f x).cells = x.cells) : SparesMemory s (.next (s.act h f)) :=
  sparesMemory_next (State.act_cells s h f e)

theorem sparesMemory_serve (s : State) (h : HoopId) (r op : Nat) {v : Verb} (hv : v.LeavesCells) : SparesMemory s (.next (s.serve h r op v)) :=
  sparesMemory_next (State.serve_cells s h r op hv)

/-- A row of one hoop, and the domains that follow its time. -/
theorem sparesMemory_timeFollow (s : State) (h k : HoopId) {f : Hoop → Hoop} (e : ∀ x, (f x).cells = x.cells) :
    SparesMemory s (.next (timeFollow k (s.act h f))) :=
  sparesMemory_next ((timeFollow_cells ..).trans (State.act_cells s h f e))

/-- A row that acts on both hoops, one after the other. -/
theorem act_both_cells (s : State) {f : Hoop → Hoop} (e : ∀ x, (f x).cells = x.cells) : ((s.act .hoopA f).act .hoopB f).cells = s.cells :=
  (State.act_cells _ _ _ e).trans (State.act_cells s _ _ e)

theorem sparesMemory_rxFrame (type : Nat) (h : HoopId) (k : Nat) (b : Bytes) {f : Hoop → Hoop} (e : ∀ x, (f x).cells = x.cells) (s : State) :
    SparesMemory s (.next (settle (rxFrame type h k b f s))) := sparesMemory_settle (rxFrame_cells type h k b e s)

/-! ## Selda rows that reach the other hoop -/

theorem execDomainSwitch_sparesMemory (h : HoopId) (r : Nat) (s : State) : SparesMemory s (execDomainSwitch h r s) :=
  sparesMemory_next ((timeFollow_cells ..).trans (State.serve_cells s h r 0x41 domainSwitchVerb_leavesCells))

theorem execDarkRelease_sparesMemory (h : HoopId) (r : Nat) (s : State) : SparesMemory s (execDarkRelease h r s) := by
  refine sparesMemory_next ((State.serve_cells _ h r 0x51 darkReleaseVerb_leavesCells).trans ?_)
  simp only [↓State.cells_ite, ↓darkReleaseRun_cells, ite_self]

theorem execHandover_sparesMemory (h : HoopId) (r : Nat) (s : State) : SparesMemory s (execHandover h r s) :=
  sparesMemory_next ((offer_cells ..).trans (State.serve_cells s h r 0x52 handoverVerb_leavesCells))

theorem execRejoin_sparesMemory (h : HoopId) (r : Nat) (s : State) : SparesMemory s (execRejoin h r s) := by
  refine sparesMemory_next ((State.serve_cells _ h r 0x53 rejoinVerb_leavesCells).trans ?_)
  simp only [↓State.cells_ite, ↓rejoinPeer_cells, ite_self]

/-! ## Host registers and the SMBus -/

theorem execSmbusBlockRead_sparesMemory (h : HoopId) (cmd : BitVec 8) (s : State) : SparesMemory s (execSmbusBlockRead h cmd s) :=
  sparesMemory_act s h fun x => by simp only [↓Hoop.cells_ite, ↓Hoop.cells_mk, ite_self]

theorem execAlertResponse_sparesMemory (h : HoopId) (s : State) : SparesMemory s (execAlertResponse h s) :=
  sparesMemory_act s h fun x => by simp only [↓Hoop.cells_ite, ↓Hoop.cells_mk, ite_self]

theorem execTbCntRead_sparesMemory (h : HoopId) (s : State) : SparesMemory s (execTbCntRead h s) := sparesMemory_act s h fun _ => Hoop.cells_mk ..

theorem execRegisterWrite_sparesMemory (h : HoopId) (off size : Nat) (v : BitVec 32) (s : State) :
    SparesMemory s (execRegisterWrite h off size v s) :=
  sparesMemory_next (by simp only [↓State.cells_ite, ↓State.act_cells, ↓bar0Write_cells, ite_self, implies_true])

/-! ## Power and resets -/

theorem execPowerOnReset_sparesMemory (h : HoopId) (rail mv : Nat) (s : State) : SparesMemory s (execPowerOnReset h rail mv s) :=
  sparesMemory_next (by simp only [↓State.cells_ite, ↓settle_cells, ↓powerOn_cells, ite_self])

theorem execPorRelease_sparesMemory (h : HoopId) (s : State) : SparesMemory s (execPorRelease h s) :=
  sparesMemory_next (by simp only [↓State.cells_ite, ↓settle_cells, ↓State.cells_mk, ↓State.upd_cells, ↓porRelease_cells, ite_self, implies_true])

theorem execModRst_sparesMemory (s : State) : SparesMemory s (execModRst s) :=
  sparesMemory_settle ((State.cells_mk ..).trans (moduleReset_cells true s))

/-! ## Faults -/

theorem execTecTrip_sparesMemory (z : Nat) (s : State) : SparesMemory s (execTecTrip z s) :=
  sparesMemory_next ((act_both_cells _ (trip_cells _)).trans (by simp only [↓State.cells_ite, ↓State.cells_mk, ite_self]))

theorem execTecTripRelease_sparesMemory (z : Nat) (s : State) : SparesMemory s (execTecTripRelease z s) :=
  sparesMemory_next ((act_both_cells _ fun x => Hoop.updZone_cells ..).trans (by simp only [↓State.cells_ite, ↓State.cells_mk, ite_self]))

theorem execForceRelease_sparesMemory (h : HoopId) (s : State) : SparesMemory s (execForceRelease h s) :=
  sparesMemory_settle (by simp only [↓State.cells_ite, ↓State.cells_foldl, ↓State.upd_cells, ↓unforce_cells, ite_self, implies_true])

/-! ## Epochs and the timebase -/

theorem execEpochStrobe_sparesMemory (h : HoopId) (k : Nat) (s : State) : SparesMemory s (execEpochStrobe h k s) :=
  sparesMemory_act s h fun x => by simp only [↓Hoop.cells_ite, ↓strobe_cells, ↓lateStandby_cells, ite_self]

theorem execPrickingEntryStrobe_sparesMemory (h : HoopId) (s : State) : SparesMemory s (execPrickingEntryStrobe h s) :=
  sparesMemory_act s h fun x => by simp only [↓Hoop.cells_ite, ↓clearPrk_cells, ↓entryStrobe_cells, ite_self]

theorem execPrickingCycleBoundary_sparesMemory (h : HoopId) (s : State) : SparesMemory s (execPrickingCycleBoundary h s) :=
  sparesMemory_act s h fun x => by simp only [↓Hoop.cells_ite, ↓clearPrk_cells, ↓cycleBoundary_cells, ite_self]

theorem execPpsPulseEnd_sparesMemory (h : HoopId) (s : State) : SparesMemory s (execPpsPulseEnd h s) :=
  sparesMemory_act s h fun x => by simp only [↓Hoop.cells_ite, ↓Hoop.cells_mk, ite_self]

theorem execLedgerMinuteClose_sparesMemory (h : HoopId) (s : State) : SparesMemory s (execLedgerMinuteClose h s) :=
  sparesMemory_act s h fun x => by simp only [↓Hoop.cells_ite, ↓closeMinute_cells, ite_self]

theorem execTbWrap_sparesMemory (h : HoopId) (s : State) : SparesMemory s (execTbWrap h s) :=
  sparesMemory_act s h fun x => by simp only [↓Hoop.cells_ite, ↓Hoop.cells_mk, ite_self]

theorem execTimeLinkCompare_sparesMemory (h : HoopId) (phase : Nat) (ok : Bool) (s : State) : SparesMemory s (execTimeLinkCompare h phase ok s) :=
  sparesMemory_next (by simp only [↓State.cells_ite, ↓timeFollow_cells, ↓State.act_cells, ↓timeLink_cells, ite_self, implies_true])

/-! ## Tambour and the drive -/

theorem execStageStd_sparesMemory (h : HoopId) (bad1 bad2 : List Nat) (why : StageEvent) (s : State) :
    SparesMemory s (execStageStd h bad1 bad2 why s) :=
  sparesMemory_settle ((digestCompare_cells ..).trans (State.upd_cells s h _ (viaPatch_cells 1 (stageStd_cells bad1 bad2 why))))

theorem execStagePrk_sparesMemory (h : HoopId) (bad1 bad2 : List Nat) (why : StageEvent) (s : State) :
    SparesMemory s (execStagePrk h bad1 bad2 why s) :=
  sparesMemory_settle ((digestCompare_cells ..).trans (State.upd_cells s h _ (viaPatch_cells 2 (stagePrk_cells bad1 bad2 why))))

theorem execTambourHandover_sparesMemory (h : HoopId) (s : State) : SparesMemory s (execTambourHandover h s) := by
  refine sparesMemory_settle ?_
  split
  · simp only [↓State.cells_ite, ↓State.upd_cells, ↓beginRun_cells, ↓tambourHandover_cells, ite_self, implies_true]
  · rfl

theorem execReservedOperation_sparesMemory (h : HoopId) (code : BitVec 6) (s : State) : SparesMemory s (execReservedOperation h code s) :=
  sparesMemory_act s h fun x => by simp only [↓Hoop.cells_ite, ↓posted_cells code (reservedOp_cells code), ite_self]

theorem execWaitTimeout_sparesMemory (h : HoopId) (cond g : Nat) (uaddr : BitVec 12) (s : State) :
    SparesMemory s (execWaitTimeout h cond g uaddr s) :=
  sparesMemory_settle (by simp only [↓State.cells_ite, ↓abandonHo_cells, ↓State.upd_cells, ↓waitTimeout_cells, ite_self, implies_true])

theorem execRefreshSlot_sparesMemory (h : HoopId) (t : Nat) (fails : List Nat) (s : State) : SparesMemory s (execRefreshSlot h t fails s) :=
  sparesMemory_settle (by simp only [↓State.cells_ite, ↓refreshSlot_cells, ↓State.upd_cells, ↓resumeDrive_cells, ite_self, implies_true])

theorem execWindowEnd_sparesMemory (h : HoopId) (t : Nat) (fails : List Nat) (s : State) : SparesMemory s (execWindowEnd h t fails s) :=
  sparesMemory_settle (by simp only [↓State.cells_ite, ↓State.upd_cells, ↓Hoop.cells_foldl, ↓electric_cells, ↓windowEnd_cells, ite_self,
    implies_true])

theorem execDeglitchRelease_sparesMemory (h : HoopId) (e : Nat) (heater : Bool) (s : State) : SparesMemory s (execDeglitchRelease h e heater s) :=
  sparesMemory_act s h fun x => by simp only [↓Hoop.cells_ite, ↓Hoop.updHeater_cells, ↓Hoop.updNeedle_cells, ite_self]

theorem execHeaterComplianceFail_sparesMemory (h : HoopId) (e : Nat) (s : State) : SparesMemory s (execHeaterComplianceFail h e s) :=
  sparesMemory_settle (by simp only [↓State.cells_ite, ↓complFail_cells, ite_self])

theorem execHeaterSumOver_sparesMemory (h : HoopId) (s : State) : SparesMemory s (execHeaterSumOver h s) :=
  sparesMemory_act s h fun x => by simp only [↓Hoop.cells_ite, ↓fault_cells, ite_self]

/-! ## The monitor -/

theorem execSpareTestEnd_sparesMemory (h : HoopId) (ch : Nat) (normal : Bool) (s : State) : SparesMemory s (execSpareTestEnd h ch normal s) :=
  sparesMemory_settle ((lostToBoth_cells h (fun x => by simp only [↓Hoop.cells_ite, ↓loseFront_cells, ite_self]) ..).trans
    (State.upd_cells s h _ (spareEnd_cells ch normal)))

theorem execTelemetrySweep_sparesMemory (h : HoopId) (ch : Nat) (c : Conv) (s : State) : SparesMemory s (execTelemetrySweep h ch c s) :=
  sparesMemory_settle (by simp only [↓State.cells_ite, ↓convertIn_cells, ↓State.upd_cells, ↓sweepState_cells, ite_self, implies_true])

theorem execCalStep_sparesMemory (h : HoopId) (avg : Nat) (s : State) : SparesMemory s (execCalStep h avg s) := by
  have hs : (s.upd h (calStep avg)).cells = s.cells := State.upd_cells s h _ (calStep_cells avg)
  refine sparesMemory_settle ?_
  split
  · exact (trimCompare_cells ..).trans hs
  · exact (trimCompare_cells ..).trans hs
  · exact hs

theorem execDiodePass_sparesMemory (h : HoopId) (volts : List Int) (s : State) : SparesMemory s (execDiodePass h volts s) :=
  sparesMemory_act s h (diodePass_cells _ _)

theorem execDiodeCrossCheck_sparesMemory (h : HoopId) (s : State) : SparesMemory s (execDiodeCrossCheck h s) :=
  sparesMemory_act s h fun _ => crossCheck_cells ..

/-! ## The journal, the history and the rings -/

theorem execHistorySecond_sparesMemory (h : HoopId) (deferred writeFail : Bool) (s : State) :
    SparesMemory s (execHistorySecond h deferred writeFail s) :=
  sparesMemory_act s h fun _ => (passRates_cells _).trans (historySecond_cells ..)

theorem execTokenRefill_sparesMemory (h : HoopId) (r : Nat) (s : State) : SparesMemory s (execTokenRefill h r s) :=
  sparesMemory_act s h fun x => by simp only [↓Hoop.cells_ite, ↓Hoop.updRing_cells, ite_self]

/-! ## The pair -/

theorem execHealthScore_sparesMemory (s : State) : SparesMemory s (execHealthScore s) :=
  sparesMemory_settle (by simp only [↓State.cells_ite, ↓State.cells_foldl, ↓State.upd_cells, ↓Hoop.cells_mk, ite_self, implies_true])

theorem execResyncComplete_sparesMemory (h : HoopId) (ms : Nat) (s : State) : SparesMemory s (execResyncComplete h ms s) :=
  sparesMemory_settle (by simp only [↓State.cells_ite, ↓resyncDone_cells, ite_self])

theorem execMonitorSelfTestDone_sparesMemory (h : HoopId) (lost : List Nat) (s : State) : SparesMemory s (execMonitorSelfTestDone h lost s) :=
  sparesMemory_next (by simp only [↓State.cells_ite, ↓settle_cells, ↓selfTestDone_cells, ite_self])

theorem execPwmDutyEdge_sparesMemory (h : HoopId) (z : Nat) (s : State) : SparesMemory s (execPwmDutyEdge h z s) :=
  sparesMemory_next (by simp only [↓State.cells_ite, ↓State.act_cells, ↓dutyEdge_cells, ite_self, implies_true])

/-! ## Every row -/

/-- A row that stores no byte completes and leaves every byte, row by row: its effect on one hoop or on both leaves them, and so does `settle`. -/
theorem exec_sparesMemory {i : Instr} (hi : writesMram i = false) (s : State) : SparesMemory s (exec i s) := by
  cases i with
  | nop h r => exact sparesMemory_serve s h r 0x00 nopVerb_leavesCells
  | create h r => exact sparesMemory_serve s h r 0x01 commitVerb_leavesCells
  | modify h r => exact sparesMemory_serve s h r 0x02 commitVerb_leavesCells
  | reopen h r => exact sparesMemory_serve s h r 0x03 commitVerb_leavesCells
  | release h r => exact sparesMemory_serve s h r 0x04 commitVerb_leavesCells
  | dark h r => exact sparesMemory_serve s h r 0x05 commitVerb_leavesCells
  | darkNow h r => exact sparesMemory_serve s h r 0x06 darkNowVerb_leavesCells
  | cancel h r => exact sparesMemory_serve s h r 0x07 cancelVerb_leavesCells
  | threadRead h r => exact sparesMemory_serve s h r 0x08 threadReadVerb_leavesCells
  | ledgerRead h r => exact sparesMemory_serve s h r 0x09 ledgerReadVerb_leavesCells
  | outcomeRead h r => exact sparesMemory_serve s h r 0x0A outcomeReadVerb_leavesCells
  | batch h r => exact sparesMemory_serve s h r 0x30 batchVerb_leavesCells
  | prkSlotLoad h r => exact sparesMemory_serve s h r 0x10 slotLoadVerb_leavesCells
  | prkSlotMask h r => exact sparesMemory_serve s h r 0x11 slotMaskVerb_leavesCells
  | prkSlotClear h r => exact sparesMemory_serve s h r 0x12 slotClearVerb_leavesCells
  | prkListWrite h r => exact sparesMemory_serve s h r 0x13 listWriteVerb_leavesCells
  | prkStart h r => exact sparesMemory_serve s h r 0x14 startVerb_leavesCells
  | prkSwap h r => exact sparesMemory_serve s h r 0x15 swapVerb_leavesCells
  | prkSwapDisarm h r => exact sparesMemory_serve s h r 0x16 swapDisarmVerb_leavesCells
  | prkStop h r => exact sparesMemory_serve s h r 0x17 stopVerb_leavesCells
  | ringBind h r => exact sparesMemory_serve s h r 0x20 ringBindVerb_leavesCells
  | ringUnbind h r => exact sparesMemory_serve s h r 0x21 ringUnbindVerb_leavesCells
  | meterSet h r => exact sparesMemory_serve s h r 0x22 meterSetVerb_leavesCells
  | keySet h r => exact sparesMemory_serve s h r 0x23 keySetVerb_leavesCells
  | eventSub h r => exact sparesMemory_serve s h r 0x24 eventSubVerb_leavesCells
  | netCfg h r => exact sparesMemory_serve s h r 0x25 netCfgVerb_leavesCells
  | ptpCfg h r => exact sparesMemory_serve s h r 0x40 ptpCfgVerb_leavesCells
  | domainSwitch h r => exact execDomainSwitch_sparesMemory h r s
  | verifyCfg h r => exact sparesMemory_serve s h r 0x42 verifyCfgVerb_leavesCells
  | adcProfile h r => exact sparesMemory_serve s h r 0x43 adcProfileVerb_leavesCells
  | refSel h r => exact sparesMemory_serve s h r 0x44 refSelVerb_leavesCells
  | calCfg h r => exact sparesMemory_serve s h r 0x45 calCfgVerb_leavesCells
  | loopSet h r => exact sparesMemory_serve s h r 0x46 loopSetVerb_leavesCells
  | loopAssign h r => exact sparesMemory_serve s h r 0x47 loopAssignVerb_leavesCells
  | tecDrive h r => exact sparesMemory_serve s h r 0x48 tecDriveVerb_leavesCells
  | tecCoef h r => exact sparesMemory_serve s h r 0x49 tecCoefVerb_leavesCells
  | setpoint h r => exact sparesMemory_serve s h r 0x4A setpointVerb_leavesCells
  | tecEnable h r => exact sparesMemory_serve s h r 0x4B tecEnableVerb_leavesCells
  | tripClear h r => exact sparesMemory_serve s h r 0x4C tripClearVerb_leavesCells
  | thresholds h r => exact sparesMemory_serve s h r 0x4D thresholdsVerb_leavesCells
  | thmModel h r => exact sparesMemory_serve s h r 0x4E thmModelVerb_leavesCells
  | holdupMin h r => exact sparesMemory_serve s h r 0x4F holdupMinVerb_leavesCells
  | samplerRestore h r => cases hi
  | darkRelease h r => exact execDarkRelease_sparesMemory h r s
  | handover h r => exact execHandover_sparesMemory h r s
  | rejoin h r => exact execRejoin_sparesMemory h r s
  | regRead h r => exact sparesMemory_serve s h r 0x60 (regReadVerb_leavesCells s.balls.pwrFailN)
  | samplerRead h r => exact sparesMemory_serve s h r 0x61 samplerReadVerb_leavesCells
  | journalRead h r => exact sparesMemory_serve s h r 0x62 journalReadVerb_leavesCells
  | resultRead h r => exact sparesMemory_serve s h r 0x63 resultReadVerb_leavesCells
  | deltaRead h r => exact sparesMemory_serve s h r 0x64 deltaReadVerb_leavesCells
  | patchRead h r => exact sparesMemory_serve s h r 0x65 patchReadVerb_leavesCells
  | elementRead h r => exact sparesMemory_serve s h r 0x66 elementReadVerb_leavesCells
  | commitList h r => exact sparesMemory_serve s h r 0x67 commitListVerb_leavesCells
  | historyRead h r => exact sparesMemory_serve s h r 0x68 historyReadVerb_leavesCells
  | fabricCommit h r => exact sparesMemory_serve s h r 0x31 fabricVerb_leavesCells
  | wlmCfg h r => exact sparesMemory_serve s h r 0x32 wlmCfgVerb_leavesCells
  | doorbell h r tail cmds => exact sparesMemory_act s h (doorbell_cells r tail cmds)
  | mbxCplHead h r v => exact sparesMemory_act s h (cplHead_cells r v)
  | mbxEvtHead h r v => exact sparesMemory_act s h (evtHead_cells r v)
  | reopenRing0 h v => exact sparesMemory_act s h (reopen0_cells v)
  | dmaError h r => exact sparesMemory_act s h (dmaError_cells r)
  | msixModerationTimeout h r evt => exact sparesMemory_act s h (moderation_cells r evt)
  | remoteDatagram h port srcAddr srcPort payload => exact sparesMemory_act s h (remote_cells port srcAddr srcPort payload)
  | smbusBlockRead h cmd => exact execSmbusBlockRead_sparesMemory h cmd s
  | alertResponse h => exact execAlertResponse_sparesMemory h s
  | tbSnap h v => exact sparesMemory_act s h (snap_cells v)
  | tbCntRead h => exact execTbCntRead_sparesMemory h s
  | tbPpsCtrlWrite h v => exact sparesMemory_act s h (ppsCtrl_cells v)
  | tbCmpFiredClear h v => exact sparesMemory_act s h (firedClear_cells v)
  | fcStickyClear h w v => exact sparesMemory_act s h (stickyClear_cells w v)
  | fcWireClear h w v => exact sparesMemory_act s h (wireClear_cells w v)
  | rearm h v => exact sparesMemory_act s h (rearm_cells v)
  | pmcCtrlWrite h v => exact sparesMemory_act s h (pmcCtrl_cells v)
  | pmcLoad h v inc => exact sparesMemory_act s h (pmcLoad_cells v inc)
  | pmcOvfClear h w v => exact sparesMemory_act s h (ovfClear_cells w v)
  | pmcPreHiWrite h c v => exact sparesMemory_act s h (preHi_cells c v)
  | pmcCntLoRead h c => exact sparesMemory_act s h (cntLo_cells c)
  | registerWrite h off size v => exact execRegisterWrite_sparesMemory h off size v s
  | powerOnReset h rail mv => exact execPowerOnReset_sparesMemory h rail mv s
  | porRelease h => exact execPorRelease_sparesMemory h s
  | modRst => exact execModRst_sparesMemory s
  | railExcursion h rail mv => exact sparesMemory_act s h (railOut_cells rail mv)
  | railReturn h rail mv => exact sparesMemory_act s h (railBack_cells rail mv)
  | pwrFailAssert => cases hi
  | pwrFailRelease => exact sparesMemory_next (powerGood_cells s)
  | vkeepLoss h => exact sparesMemory_act s h keepLoss_cells
  | pcieReset h cause cut => exact sparesMemory_act s h (pcieReset_cells cause cut)
  | defaultTargetAccess h master write beats addr => exact sparesMemory_act s h (defaultTarget_cells master write beats addr)
  | watchdogExpiry h core cut => exact sparesMemory_act s h (watchdog_cells core cut)
  | coreResume h core => exact sparesMemory_act s h (coreResume_cells core)
  | debugHalt h core => exact sparesMemory_act s h (debugHalt_cells core)
  | debugResume h => exact sparesMemory_act s h debugResume_cells
  | tecTrip z => exact execTecTrip_sparesMemory z s
  | ppsInEdge => exact sparesMemory_next (act_both_cells s ppsIn_cells)
  | faultAssert h src det => exact sparesMemory_next (railsRow_cells h src (railsOn_cells src det) s)
  | faultClear h src => exact sparesMemory_act s h (railsOff_cells src)
  | wireFault h src => exact sparesMemory_next (railsRow_cells h src (wireFault_cells src) s)
  | collectorParityError h => exact sparesMemory_act s h parityError_cells
  | faultNTimeout h => exact sparesMemory_act s h faultNEnd_cells
  | keeperCrcCheck h flipped => exact sparesMemory_act s h (keeperCheck_cells flipped)
  | forceRelease h => exact execForceRelease_sparesMemory h s
  | epochStrobe h k => exact execEpochStrobe_sparesMemory h k s
  | zeroCodeEpoch h seq ring => exact sparesMemory_act s h (zeroCode_cells seq ring)
  | settlingEnd h seq ring => exact sparesMemory_act s h (settlingEnd_cells seq ring)
  | verifyDeadline h inPort => exact sparesMemory_act s h (deadline_cells inPort)
  | prickingEntryStrobe h => exact execPrickingEntryStrobe_sparesMemory h s
  | prickingCycleBoundary h => exact execPrickingCycleBoundary_sparesMemory h s
  | ppsOutEdge h => exact sparesMemory_act s h ppsEdge_cells
  | ppsPulseEnd h => exact execPpsPulseEnd_sparesMemory h s
  | refreshOrigin h => exact sparesMemory_act s h refOrigin_cells
  | ledgerMinuteBoundary h => exact sparesMemory_act s h minuteBoundary_cells
  | ledgerMinuteClose h => exact execLedgerMinuteClose_sparesMemory h s
  | heldEventSweep h => exact sparesMemory_act s h heldSweep_cells
  | anchorRewrite h => exact sparesMemory_act s h anchorRewrite_cells
  | tbWrap h => exact execTbWrap_sparesMemory h s
  | syncReceived h dom corr filt origin utc => exact sparesMemory_timeFollow s h h (syncIn_cells dom corr filt origin.sec origin.ns utc)
  | syncTimeout h dom => exact sparesMemory_timeFollow s h h (toHoldover_cells dom)
  | holdoverLimitExpiry h => exact sparesMemory_act s h limitExpiry_cells
  | freerunTimeout h dom => exact sparesMemory_timeFollow s h h (freerun_cells dom)
  | timeLinkCompare h phase linkOk => exact execTimeLinkCompare_sparesMemory h phase linkOk s
  | stageStd h bad1 bad2 why => exact execStageStd_sparesMemory h bad1 bad2 why s
  | stagePrk h bad1 bad2 why => exact execStagePrk_sparesMemory h bad1 bad2 why s
  | restoreIdle h => exact sparesMemory_act s h (viaPatch_cells 3 restoreOp_cells)
  | tileUpdate h t => exact sparesMemory_act s h (viaPatch_cells 4 (tileUpdate_cells t))
  | injReload h g => exact sparesMemory_act s h (viaPatch_cells 8 (injReload_cells g))
  | disarm h k => exact sparesMemory_act s h (viaPatch_cells 9 (disarm_cells k))
  | tambourHandover h => exact execTambourHandover_sparesMemory h s
  | eyeletDark h => exact sparesMemory_act s h (viaPatch_cells 0x10 eyeletDark_cells)
  | tambourNop h => exact sparesMemory_act s h (posted_cells 0 tambourNop_cells)
  | reservedOperation h code => exact execReservedOperation_sparesMemory h code s
  | tambourStop h phase applied uaddr => exact sparesMemory_act s h (tambourStop_cells phase applied uaddr)
  | forcedStop h phase applied uaddr => exact sparesMemory_act s h (forcedStop_cells phase applied uaddr)
  | uncorrectableEcc h nano site => exact sparesMemory_act s h (eccHalt_cells nano site)
  | patchScrub h hit => exact sparesMemory_act s h (patchScrub_cells hit)
  | waitTimeout h cond g uaddr => exact execWaitTimeout_sparesMemory h cond g uaddr s
  | tambourResume h => exact sparesMemory_act s h resume_cells
  | holdRelease h => exact sparesMemory_act s h holdRelease_cells
  | refreshSlot h t fails => exact execRefreshSlot_sparesMemory h t fails s
  | ditherWindow h t => exact sparesMemory_act s h (ditherWindow_cells t)
  | needleSlewStep h t => exact sparesMemory_act s h (needleStep_cells t)
  | windowEnd h t fails => exact execWindowEnd_sparesMemory h t fails s
  | deglitchRelease h e heater => exact execDeglitchRelease_sparesMemory h e heater s
  | heaterSlewStep h t => exact sparesMemory_act s h (heaterStep_cells t)
  | rangeHoldEnd h e => exact sparesMemory_act s h (rangeEnd_cells e)
  | heaterComplianceFail h e => exact execHeaterComplianceFail_sparesMemory h e s
  | heaterSumOver h => exact execHeaterSumOver_sparesMemory h s
  | conversionEnd h ch c => exact sparesMemory_settle (convertIn_cells h ch c s)
  | spareTestEnd h ch normal => exact execSpareTestEnd_sparesMemory h ch normal s
  | adcConversionTimeout h g => exact sparesMemory_act s h (adcFail_cells g)
  | regularPassStart h => exact sparesMemory_act s h passStart_cells
  | lockinWindowEnd h e => exact sparesMemory_act s h (lockinEnd_cells e)
  | loopHoldTimeout h e => exact sparesMemory_act s h (holdTimeout_cells e)
  | capJob h => exact sparesMemory_act s h capJob_cells
  | fieldRefinement h e mean => cases hi
  | telemetrySweep h ch c => exact execTelemetrySweep_sparesMemory h ch c s
  | calRoundStart h => exact sparesMemory_act s h calRoundStart_cells
  | calStep h avg => exact execCalStep_sparesMemory h avg s
  | adcSelfCalEnd h g mid => exact sparesMemory_act s h (adcCalEnd_cells g mid)
  | refOkSet h drift => exact sparesMemory_act s h (refOkSet_cells drift)
  | referenceFallback h => exact sparesMemory_act s h refFallback_cells
  | diodePass h temps => exact execDiodePass_sparesMemory h temps s
  | zoneMean h => exact sparesMemory_act s h (zoneMean_cells (standsBy s h))
  | diodeCrossCheck h => exact execDiodeCrossCheck_sparesMemory h s
  | dieSensorRead h temps => exact sparesMemory_act s h (dieRead_cells temps)
  | thermistorRead h ohms => exact sparesMemory_act s h (thmRead_cells ohms (if standsBy s h then some (s.hoop (other h)).ths.thm else none))
  | throttleStep h grp => exact sparesMemory_act s h (throttleStep_cells grp)
  | pwmReload h z => exact sparesMemory_act s h (pwmReload_cells (z % 2 == 1))
  | setpointAverage h avg => exact sparesMemory_act s h (spAverage_cells (if standsBy s h then some (s.hoop (other h)).tec.eff.toNat else none) avg)
  | setpointSourceLost h => exact sparesMemory_act s h spLost_cells
  | sliceRebuilt h => exact sparesMemory_act s h sliceBuild_cells
  | journalBurst h mv => cases hi
  | holdupRetry h mv => cases hi
  | historySecond h deferred writeFail => exact execHistorySecond_sparesMemory h deferred writeFail s
  | windowBoundary h => exact sparesMemory_act s h windowBoundary_cells
  | counterOverflow h c inc => exact sparesMemory_act s h (overflow_cells c inc)
  | healthScore => exact execHealthScore_sparesMemory s
  | patchCompare => exact sparesMemory_settle (patchCompare_cells s)
  | intakeTimeout h => exact sparesMemory_act s h intakeTimeout_cells
  | handoverBoundary => exact sparesMemory_settle (handoverBoundary_cells s)
  | handoverAbandon cause => exact sparesMemory_settle (handoverAbandon_cells cause s)
  | provingEnd h => exact sparesMemory_act s h provingEnd_cells
  | interlockDisagreement => exact sparesMemory_settle (interlock_cells s)
  | gracePeriodEnd => exact sparesMemory_settle (graceEnd_cells s)
  | tokenTimeout h => exact sparesMemory_settle (tokenTimeout_cells h s)
  | resyncComplete h ms => exact execResyncComplete_sparesMemory h ms s
  | helloSend h => exact sparesMemory_act s h helloSend_cells
  | hello h link frame => exact sparesMemory_settle (rxLocal_cells 0 h link frame (hello_cells link frame) s)
  | helloTimeout h link => exact sparesMemory_act s h (helloTimeout_cells link)
  | laneLockLoss h link lane => exact sparesMemory_act s h (laneLoss_cells link lane)
  | route h link frame => exact sparesMemory_settle ((dropWith_cells ..).trans (rxLocal_cells 1 h link frame (routeIn_cells link frame) s))
  | routeAdvertise h => exact sparesMemory_act s h routeAdvertise_cells
  | triggeredUpdate h link => exact sparesMemory_act s h (triggered_cells link)
  | routeExpiry h addr => exact sparesMemory_act s h (routeExpiry_cells addr)
  | addrReqSend h => exact sparesMemory_settle (addrReqSend_cells h s)
  | addrReq h link frame => exact sparesMemory_settle (addrReq_cells h link frame s)
  | addrGrant h link frame => exact sparesMemory_rxFrame 3 h link frame (addrGrant_cells frame) s
  | propose h link frame => exact sparesMemory_rxFrame 4 h link frame (propose_cells frame) s
  | ready h link frame => exact sparesMemory_rxFrame 5 h link frame (readyIn_cells frame) s
  | go h link frame => exact sparesMemory_rxFrame 6 h link frame (goIn_cells frame) s
  | abort h link frame => exact sparesMemory_rxFrame 7 h link frame (abortIn_cells frame) s
  | done h link frame => exact sparesMemory_rxFrame 8 h link frame (doneIn_cells frame) s
  | readyDeadline h slot => exact sparesMemory_act s h (readyDeadline_cells slot)
  | goSendDeadline h slot => exact sparesMemory_act s h (goSendDeadline_cells slot)
  | goDeadline h k => exact sparesMemory_act s h (goDeadline_cells k)
  | fabricOutcomeTimeout h slot => exact sparesMemory_act s h (outcomeTimeout_cells slot)
  | darkNoticeRepeat h => exact sparesMemory_act s h noticeRepeat_cells
  | darkNotice h link frame => exact sparesMemory_rxFrame 9 h link frame (darkNotice_cells frame) s
  | timeCheckSend h => exact sparesMemory_act s h timeCheckSend_cells
  | timeCheck h link frame fine => exact sparesMemory_settle (rxLocal_cells 0xA h link frame (timeCheck_cells link frame fine) s)
  | telemetrySend h => exact sparesMemory_act s h (telemetrySend_cells (s.hoop (other h)) s.balls.darkN)
  | telemetry h link frame => exact sparesMemory_rxFrame 0xB h link frame (telemetryIn_cells frame) s
  | handoverNotice h link frame => exact sparesMemory_rxFrame 0xC h link frame (handoverNotice_cells frame) s
  | imageAuthenticated h fail0 fail1 img => exact sparesMemory_act s h (authenticated_cells fail0 fail1 img)
  | lpddr4xTrained h gib ok => cases hi
  | monitorSelfTestDone h lost => exact execMonitorSelfTestDone_sparesMemory h lost s
  | firstWriteDone h => exact sparesMemory_act s h firstWrites_cells
  | ring0Open h tempTimeout timeTimeout => exact sparesMemory_act s h (ring0Open_cells tempTimeout timeTimeout)
  | historyStoreReady h present hdrOk capacity => exact sparesMemory_act s h (storeReady_cells present hdrOk capacity)
  | tokenRefill h r => exact execTokenRefill_sparesMemory h r s
  | tecTripRelease z => exact execTecTripRelease_sparesMemory z s
  | intakeDigest h => cases hi
  | masterSelection h dom selected => exact sparesMemory_timeFollow s h h (masterSel_cells dom selected)
  | delayRequestResponse h dom answer => exact sparesMemory_act s h (delayIn_cells dom answer.ago answer.received.sec answer.received.ns answer.corr)
  | pcieLinkUp h rate width => exact sparesMemory_act s h (pcieUp_cells rate width)
  | powerManagementState h d3 => exact sparesMemory_act s h (powerState_cells d3)
  | neighbourLagUpdate h => exact sparesMemory_act s h lagUpdate_cells
  | htrSumUpdate h => exact sparesMemory_act s h sumUpdate_cells
  | phaseAccumulatorTick h => exact sparesMemory_act s h phaseTick_cells
  | pwmDutyEdge h z => exact execPwmDutyEdge_sparesMemory h z s

end Sys2Proof.Machine
end

section
/-!
SUPPORT. The byte memory stays in its canonical form (assumption 3): what the functions that store bytes do to it, and the statement O6.
-/

namespace Sys2Proof.Machine
open Sys2Proof

theorem wf_of_cells {x y : Hoop} (h : y.cells = x.cells) (hx : Memory.wf x.mram = true) : Memory.wf y.mram = true :=
  (congrArg Memory.wf h).trans hx

/-! ## The journal's records -/

theorem jnlWrite1_mram (x : Hoop) (j : JRec) : (jnlWrite1 x j).mram = memWrite x.mram (64 * x.jnl.head) (j.bytes x.jnl.seq) := pmcRaw_mram ..

theorem jnlWrites_wf (l : List JRec) {x : Hoop} (h : Memory.wf x.mram = true) : Memory.wf (l.foldl jnlWrite1 x).mram = true :=
  foldl_holds (P := fun y : Hoop => Memory.wf y.mram = true) (fun y j hy => by rw [jnlWrite1_mram]; exact memWrite_wf _ _ _ hy) l x h

theorem writeBurst_wf {x : Hoop} (h : Memory.wf x.mram = true) : Memory.wf (writeBurst x).mram = true := by
  unfold writeBurst
  exact wf_of_cells ((pmcRaw_cells ..).trans (Hoop.cells_mk ..)) (jnlWrites_wf _ h)

theorem tryBurst_wf (mv : Nat) {x : Hoop} (h : Memory.wf x.mram = true) : Memory.wf (tryBurst mv x).mram = true := by
  have hc : Memory.wf (holdupCheck mv x).mram = true := wf_of_cells (holdupCheck_cells mv x) h
  unfold tryBurst
  dsimp only
  split
  · split
    · exact wf_of_cells (raiseEv_cells ..) (writeBurst_wf hc)
    · exact writeBurst_wf hc
  · exact wf_of_cells (deferWrite_cells _) hc

theorem journalBurst_wf (mv : Nat) {x : Hoop} (h : Memory.wf x.mram = true) :
    Memory.wf (if burstDue x && !x.jnl.deferred then flushMram (tryBurst mv x) else x).mram = true := by
  split
  · exact flushMram_wf _ (tryBurst_wf mv h)
  · exact h

theorem holdupRetry_wf (mv : Nat) {x : Hoop} (h : Memory.wf x.mram = true) :
    Memory.wf (if x.jnl.deferred then flushMram (tryBurst mv x) else if x.mwrites.isEmpty then x else flushMram (holdupCheck mv x)).mram = true := by
  split
  · exact flushMram_wf _ (tryBurst_wf mv h)
  · split
    · exact h
    · exact flushMram_wf _ (wf_of_cells (holdupCheck_cells mv x) h)

theorem writeFinal_wf (live : Nat) {x : Hoop} (h : Memory.wf x.mram = true) : Memory.wf (writeFinal live x).mram = true := by
  unfold writeFinal
  split
  · exact wf_of_cells (deferWrite_cells x) h
  · exact jnlWrites_wf _ h

/-! ## The sampler's records -/

theorem refine_wf (e : Nat) (mean : Int) {x : Hoop} (h : Memory.wf x.mram = true) : Memory.wf (refine e mean x).mram = true := by
  unfold refine
  extract_lets l ts steady m band x1 t x2 x3
  have h3 : x3.cells = x.cells := by
    simp only [x3, x2, x1, ↓Hoop.updElem_cells, ↓Hoop.cells_mk, ↓Hoop.setLoop_cells]
  split
  · exact h
  · split
    · exact wf_of_cells h3 h
    · extract_lets wide code f off r recent
      split
      · exact wf_of_cells ((pulse_cells ..).trans ((jnlPut_cells ..).trans h3)) h
      · split
        · exact wf_of_cells h3 h
        · exact mramWrite_wf _ _ (wf_of_cells ((Hoop.cells_mk ..).trans h3) h)

theorem samplerRestore_wf (k : Ctx) {x : Hoop} (h : Memory.wf x.mram = true) : Memory.wf (samplerRestoreVerb.run k x).2.mram = true :=
  wf_of_cells ((adminOk_cells ..).trans (Hoop.cells_mk ..)) (mramWrite_wf x .restore h)

/-! ## Commands -/

/-- The command's own effect keeps the canonical form. -/
def Verb.KeepsWf (v : Verb) : Prop := ∀ k x, Memory.wf x.mram = true → Memory.wf (v.run k x).2.mram = true

theorem Verb.LeavesCells.keepsWf {v : Verb} (hv : v.LeavesCells) : v.KeepsWf := fun k x h => wf_of_cells (hv k x) h

/-- Every command but SAMPLER_RESTORE leaves the byte memory. -/
theorem verbOf_leavesCells (failN : Bool) {op : Nat} (ho : op ≠ 0x50) : (verbOf failN op).LeavesCells := by
  unfold verbOf
  split
  · exact commitVerb_leavesCells
  · exact commitVerb_leavesCells
  · exact commitVerb_leavesCells
  · exact commitVerb_leavesCells
  · exact commitVerb_leavesCells
  · exact darkNowVerb_leavesCells
  · exact cancelVerb_leavesCells
  · exact threadReadVerb_leavesCells
  · exact ledgerReadVerb_leavesCells
  · exact outcomeReadVerb_leavesCells
  · exact slotLoadVerb_leavesCells
  · exact slotMaskVerb_leavesCells
  · exact slotClearVerb_leavesCells
  · exact listWriteVerb_leavesCells
  · exact startVerb_leavesCells
  · exact swapVerb_leavesCells
  · exact swapDisarmVerb_leavesCells
  · exact stopVerb_leavesCells
  · exact ringBindVerb_leavesCells
  · exact ringUnbindVerb_leavesCells
  · exact meterSetVerb_leavesCells
  · exact keySetVerb_leavesCells
  · exact eventSubVerb_leavesCells
  · exact netCfgVerb_leavesCells
  · exact batchVerb_leavesCells
  · exact fabricVerb_leavesCells
  · exact wlmCfgVerb_leavesCells
  · exact ptpCfgVerb_leavesCells
  · exact domainSwitchVerb_leavesCells
  · exact verifyCfgVerb_leavesCells
  · exact adcProfileVerb_leavesCells
  · exact refSelVerb_leavesCells
  · exact calCfgVerb_leavesCells
  · exact loopSetVerb_leavesCells
  · exact loopAssignVerb_leavesCells
  · exact tecDriveVerb_leavesCells
  · exact tecCoefVerb_leavesCells
  · exact setpointVerb_leavesCells
  · exact tecEnableVerb_leavesCells
  · exact tripClearVerb_leavesCells
  · exact thresholdsVerb_leavesCells
  · exact thmModelVerb_leavesCells
  · exact holdupMinVerb_leavesCells
  · exact absurd rfl ho
  · exact darkReleaseVerb_leavesCells
  · exact handoverVerb_leavesCells
  · exact rejoinVerb_leavesCells
  · exact regReadVerb_leavesCells failN
  · exact samplerReadVerb_leavesCells
  · exact journalReadVerb_leavesCells
  · exact resultReadVerb_leavesCells
  · exact deltaReadVerb_leavesCells
  · exact patchReadVerb_leavesCells
  · exact elementReadVerb_leavesCells
  · exact commitListVerb_leavesCells
  · exact historyReadVerb_leavesCells
  · exact nopVerb_leavesCells

theorem samplerRestore_keepsWf : samplerRestoreVerb.KeepsWf := fun k _ h => samplerRestore_wf k h

theorem verbOf_keepsWf (failN : Bool) (op : Nat) : (verbOf failN op).KeepsWf := by
  by_cases ho : op = 0x50
  · subst ho
    exact samplerRestore_keepsWf
  · exact (verbOf_leavesCells failN ho).keepsWf

theorem answer_wf {v : Verb} (hv : v.KeepsWf) (k : Ctx) {x : Hoop} (h : Memory.wf x.mram = true) : Memory.wf (answer v k x).2.mram = true := by
  have hb : Memory.wf (breakRun k.ring (hdrOf k.cmd.bytes).opcode x).mram = true := wf_of_cells (breakRun_cells ..) h
  unfold answer
  extract_lets op y
  split
  · exact wf_of_cells (Hoop.updRing_cells ..) hb
  · split
    · exact wf_of_cells (Hoop.updRing_cells ..) hb
    · split
      · exact wf_of_cells (Hoop.updRing_cells ..) hb
      · split
        · exact hb
        · exact hv _ _ hb

theorem serveFront_wf (peer : Hoop) (r op : Nat) {v : Verb} (hv : v.KeepsWf) {x : Hoop} (h : Memory.wf x.mram = true) :
    Memory.wf (serveFront peer r op v x).mram = true := by
  unfold serveFront
  split
  · exact h
  · split
    · exact wf_of_cells ((pumpRing_cells ..).trans ((completeFront_cells ..).trans (served_cells ..))) (answer_wf hv _ h)
    · exact h

/-! ## The standby's intake -/

theorem ownAnswer_wf (failN : Bool) (peer : Hoop) (d : Digest) (c : ReadCmd) {x : Hoop} (h : Memory.wf x.mram = true) :
    Memory.wf (ownAnswer failN peer d c x).2.mram = true := by
  unfold ownAnswer
  split
  · exact wf_of_cells (Hoop.updRing_cells ..) h
  · split
    · exact wf_of_cells (Hoop.updRing_cells ..) h
    · exact answer_wf (verbOf_keepsWf failN _) _ h

theorem intakeDigest_wf (failN : Bool) (peer : Hoop) {x : Hoop} (h : Memory.wf x.mram = true) :
    Memory.wf (intakeDigest failN peer x).mram = true := by
  unfold intakeDigest
  split
  · exact h
  · split
    · exact h
    · split
      · exact h
      · extract_lets us t y q z p w
        have hy : Memory.wf y.mram = true := h
        have hw : Memory.wf w.mram = true :=
          wf_of_cells ((pumpRing_cells ..).trans ((Hoop.cells_mk ..).trans ((completeFront_cells ..).trans (served_cells ..))))
            (ownAnswer_wf failN peer _ _ hy)
        split
        · exact wf_of_cells ((fault_cells ..).trans (noteMismatch_cells ..)) hy
        · split
          · exact wf_of_cells (pumpAll_cells w) hw
          · exact hw

/-! ## The settings that start-up applies again -/

theorem applySetting_cells (y : Hoop) {e : Nat × Nat × Bytes} (he : e.1 ≠ 0x50) : (applySetting y e).cells = y.cells :=
  (Hoop.cells_mk ..).trans (verbOf_leavesCells true he _ _)

theorem applySetting_wf {y : Hoop} (e : Nat × Nat × Bytes) (h : Memory.wf y.mram = true) : Memory.wf (applySetting y e).mram = true :=
  verbOf_keepsWf true e.1 _ _ h

theorem applySettings_cells {x : Hoop} (hx : ∀ q ∈ x.settings, q.1 ≠ 0x50) : (applySettings x).cells = x.cells :=
  List.foldlRecOn (motive := fun y : Hoop => y.cells = x.cells) x.settings applySetting rfl fun y hy q hq => (applySetting_cells y (hx q hq)).trans hy

theorem applySettings_wf {x : Hoop} (h : Memory.wf x.mram = true) : Memory.wf (applySettings x).mram = true :=
  foldl_holds (P := fun y : Hoop => Memory.wf y.mram = true) (fun _ e hy => applySetting_wf e hy) _ _ h

/-- The stage that start-up enters once the memory's size is known. -/
def sized (gib : Nat) (x : Hoop) : Hoop := setStage .memory (raiseEv 562 [gib, 4266, 0] .hoop { x with boot := { x.boot with ddrGib := gib } })

theorem setStage_mram (st : Stage) (x : Hoop) : (setStage st x).mram = x.mram := Hoop.mram_of_calm (setStage_calm ..)

theorem sized_mram (gib : Nat) (x : Hoop) : (sized gib x).mram = x.mram := (setStage_mram ..).trans (raiseEv_mram ..)

theorem setStage_settings (st : Stage) (x : Hoop) : (setStage st x).settings = x.settings := Hoop.settings_of_calm (setStage_calm ..)

theorem sized_settings (gib : Nat) (x : Hoop) : (sized gib x).settings = x.settings := (setStage_settings ..).trans (raiseEv_settings ..)

/-- The stores read back, and the boot record: what comes before the header's check. -/
def readBack (y : Hoop) : Hoop :=
  bootRecord (rebuildLedger (findJournal (loadCal { y with boot := { y.boot with lattice := Config.headerDie (headerBytes y.mram) } })))

theorem readBack_cells (y : Hoop) : (readBack y).cells = y.cells := by
  simp only [readBack, ↓bootRecord_cells, ↓rebuildLedger_cells, ↓findJournal_cells, ↓loadCal_cells, ↓Hoop.cells_mk]

theorem loadCal_settings (x : Hoop) : (loadCal x).settings = x.settings := by
  unfold loadCal
  refine foldl_keeps Hoop.settings _ ?_ _ x
  intro _ _
  rfl

theorem findJournal_settings (x : Hoop) : (findJournal x).settings = x.settings := by
  unfold findJournal
  split <;> rfl

theorem rebuildLedger_settings (x : Hoop) : (rebuildLedger x).settings = x.settings := by
  unfold rebuildLedger
  split
  · rfl
  · split <;> rfl

theorem readBack_settings (y : Hoop) : (readBack y).settings = y.settings := by
  rw [readBack, bootRecord, jnlPut_settings, rebuildLedger_settings, findJournal_settings, loadCal_settings]

theorem trained_eq (gib : Nat) (ok : Bool) (x : Hoop) : trained gib ok x =
    if x.boot.stage != .fwStart then x
    else if !ok || !(gib == 2 || gib == 4 || gib == 8) then holdBoot 8 (setStage .held (raiseEv 562 [gib, 4266, 8] .hoop x))
    else if !Config.headerOk (headerBytes (sized gib x).mram) then holdBoot 9 (fault 18 noDet (setStage .held (readBack (sized gib x))))
    else startMinutes (updLeader (writeCeil (applySettings (readBack (sized gib x))))) := rfl

/-- Start-up leaves the byte memory where the settings leave it. -/
theorem trained_cells_of (gib : Nat) (ok : Bool) {x : Hoop} (hs : (applySettings (readBack (sized gib x))).cells = x.cells) :
    (trained gib ok x).cells = x.cells := by
  rw [trained_eq]
  have hb : (readBack (sized gib x)).cells = x.cells := (readBack_cells _).trans (sized_mram gib x)
  simp only [↓Hoop.cells_ite, ↓holdBoot_cells, ↓setStage_cells, ↓raiseEv_cells, ↓fault_cells, ↓startMinutes_cells, ↓updLeader_cells, ↓writeCeil_cells,
    hb, hs, ite_self]

theorem trained_cells (gib : Nat) (ok : Bool) {x : Hoop} (hx : ∀ q ∈ x.settings, q.1 ≠ 0x50) : (trained gib ok x).cells = x.cells := by
  refine trained_cells_of gib ok ((applySettings_cells ?_).trans ((readBack_cells _).trans (sized_mram gib x)))
  rw [readBack_settings, sized_settings]
  exact hx

theorem trained_wf (gib : Nat) (ok : Bool) {x : Hoop} (h : Memory.wf x.mram = true) : Memory.wf (trained gib ok x).mram = true := by
  have hb : (readBack (sized gib x)).cells = x.cells := (readBack_cells _).trans (sized_mram gib x)
  rw [trained_eq]
  split
  · exact h
  · split
    · exact wf_of_cells (by simp only [↓holdBoot_cells, ↓setStage_cells, ↓raiseEv_cells]) h
    · split
      · exact wf_of_cells (by simp only [↓holdBoot_cells, ↓setStage_cells, ↓fault_cells, hb]) h
      · exact wf_of_cells (by simp only [↓startMinutes_cells, ↓updLeader_cells, ↓writeCeil_cells]) (applySettings_wf (wf_of_cells hb h))

/-! ## Rows -/

theorem State.memWf_iff {s : State} : s.memWf = true ↔ ∀ k, Memory.wf (s.hoop k).mram = true := by
  rw [State.memWf, Bool.and_eq_true]
  refine ⟨fun ⟨ha, hb⟩ k => ?_, fun h => ⟨h .hoopA, h .hoopB⟩⟩
  cases k with
  | hoopA => exact ha
  | hoopB => exact hb

theorem State.memWf_of_cells {s t : State} (h : t.cells = s.cells) (hs : s.memWf = true) : t.memWf = true :=
  State.memWf_iff.mpr fun k => wf_of_cells (State.cells_iff.mp h k) (State.memWf_iff.mp hs k)

theorem State.upd_memWf {s : State} (h : HoopId) {f : Hoop → Hoop} (hf : ∀ x, Memory.wf x.mram = true → Memory.wf (f x).mram = true)
    (hs : s.memWf = true) : (s.upd h f).memWf = true := by
  rw [State.memWf, Bool.and_eq_true] at hs ⊢
  obtain ⟨ha, hb⟩ := hs
  unfold State.upd
  split
  · cases h with
    | hoopA => exact ⟨hf _ ha, hb⟩
    | hoopB => exact ⟨ha, hf _ hb⟩
  · exact ⟨ha, hb⟩

theorem settle_memWf {s : State} (hs : s.memWf = true) : (settle s).memWf = true := State.memWf_of_cells (settle_cells s) hs

theorem State.act_memWf {s : State} (h : HoopId) {f : Hoop → Hoop} (hf : ∀ x, Memory.wf x.mram = true → Memory.wf (f x).mram = true)
    (hs : s.memWf = true) : (s.act h f).memWf = true := settle_memWf (State.upd_memWf h hf hs)

theorem State.serve_memWf {s : State} (h : HoopId) (r op : Nat) {v : Verb} (hv : v.KeepsWf) (hs : s.memWf = true) :
    (s.serve h r op v).memWf = true := by
  unfold State.serve
  split
  · exact State.act_memWf h (fun _ hx => serveFront_wf _ r op hv hx) hs
  · exact hs

theorem powerFail_memWf {s : State} (hs : s.memWf = true) : (powerFail s).memWf = true := by
  unfold powerFail
  split
  · exact hs
  · extract_lets t u
    have ht : t.memWf = true := by
      refine State.memWf_of_cells ?_ hs
      simp only [t, ↓settle_cells, ↓State.cells_foldl, ↓State.upd_cells, ↓Hoop.cells_ite, ↓raiseEv_cells, ↓fault_cells, ite_self, implies_true]
    have hu : u.memWf = true := by
      refine foldl_holds (P := fun v : State => v.memWf = true) (fun v h hv => State.upd_memWf h (fun x hx => ?_) hv) _ t ht
      split
      · exact hx
      · exact writeFinal_wf _ hx
    exact settle_memWf (State.memWf_of_cells (State.cells_mk ..) hu)

/-- Every row keeps the canonical form: seven rows store bytes, and the others leave them. -/
theorem exec_memWf (i : Instr) {s t : State} (hs : s.memWf = true) (ht : exec i s = .next t) : t.memWf = true := by
  cases hi : writesMram i with
  | false =>
    obtain ⟨u, hu, hc⟩ := exec_sparesMemory hi s
    cases ht.symm.trans hu
    exact State.memWf_of_cells hc hs
  | true =>
    cases i
    case journalBurst h mv => cases ht; exact State.act_memWf h (fun _ hx => journalBurst_wf mv hx) hs
    case holdupRetry h mv => cases ht; exact State.act_memWf h (fun _ hx => holdupRetry_wf mv hx) hs
    case pwrFailAssert => cases ht; exact powerFail_memWf hs
    case fieldRefinement h e mean => cases ht; exact State.act_memWf h (fun _ hx => refine_wf e mean hx) hs
    case samplerRestore h r => cases ht; exact State.serve_memWf h r 0x50 samplerRestore_keepsWf hs
    case intakeDigest h =>
      cases ht
      split
      · exact State.act_memWf h (fun _ hx => intakeDigest_wf _ _ hx) hs
      · exact hs
    case lpddr4xTrained h gib ok => cases ht; exact State.act_memWf h (fun _ hx => trained_wf gib ok hx) hs
    all_goals cases hi

/-- Settles O6: the row at the front of the queue keeps the canonical form, and a tick stores no byte. -/
theorem memoryStaysCanonical : Obligations.MemoryStaysCanonical := by
  unfold Obligations.MemoryStaysCanonical
  intro s t hs ht
  cases hq : s.pending with
  | nil =>
    rw [step_nil hq] at ht
    cases ht
    exact State.memWf_of_cells ((goTick_cells _).trans ((microTick_cells _).trans (idleTick_cells s))) hs
  | cons i rest =>
    rw [step_cons hq] at ht
    exact exec_memWf i (State.memWf_of_cells (State.cells_mk ..) hs) ht

end Sys2Proof.Machine
end

section
/-!
SUPPORT. The journal writer, said once: the hold-up check, a burst, a deferral, the writes that waited; and the statements O5 and O42.
-/

namespace Sys2Proof.Machine
open Sys2Proof

/-! ## The hold-up check (R295) -/

/-- The reading of the check and its verdict, before source 9 follows it. -/
def checked (mv : Nat) (x : Hoop) : Hoop :=
  { x with jnl := { x.jnl with holdup := BitVec.ofNat 11 mv, holdupOk := decide (x.jnl.holdupMin.toNat ≤ mv) } }

theorem holdupCheck_eq (mv : Nat) (x : Hoop) :
    holdupCheck mv x = if x.jnl.holdupMin.toNat ≤ mv then faultOff 9 (checked mv x) else fault 9 noDet (checked mv x) := by
  unfold holdupCheck checked
  simp only [decide_eq_true_eq]

/-- The check leaves the buffer and its losses to the records that source 9 may bring. -/
theorem holdupCheck_calm (mv : Nat) (x : Hoop) : (holdupCheck mv x).calm = (checked mv x).calm := by
  rw [holdupCheck_eq]
  split
  · exact faultOff_calm ..
  · exact fault_calm ..

theorem holdupCheck_ths (mv : Nat) (x : Hoop) : (holdupCheck mv x).ths = x.ths := (Hoop.ths_of_calm (holdupCheck_calm mv x)).trans rfl

theorem holdupCheck_part (mv : Nat) (x : Hoop) : (holdupCheck mv x).part = x.part := (Hoop.part_of_calm (holdupCheck_calm mv x)).trans rfl

theorem holdupCheck_mram (mv : Nat) (x : Hoop) : (holdupCheck mv x).mram = x.mram := (Hoop.mram_of_calm (holdupCheck_calm mv x)).trans rfl

theorem holdupCheck_mwrites (mv : Nat) (x : Hoop) : (holdupCheck mv x).mwrites = x.mwrites := (Hoop.mwrites_of_calm (holdupCheck_calm mv x)).trans rfl

theorem Hoop.jnl_of_untold {x y : Hoop} (h : x.untold = y.untold) : x.jnl = y.jnl := by
  have e := congrArg Hoop.jnl h; exact e

theorem Hoop.jnl_of_calm {x y : Hoop} (h : x.calm = y.calm) : x.jnl.calm = y.jnl.calm := congrArg Hoop.jnl h

theorem holdupCheck_jnl (mv : Nat) (x : Hoop) : (holdupCheck mv x).jnl.calm =
    { x.jnl.calm with holdup := BitVec.ofNat 11 mv, holdupOk := decide (x.jnl.holdupMin.toNat ≤ mv) } := Hoop.jnl_of_calm (holdupCheck_calm mv x)

theorem holdupCheck_ok (mv : Nat) (x : Hoop) : (holdupCheck mv x).jnl.holdupOk = decide (x.jnl.holdupMin.toNat ≤ mv) :=
  (congrArg Jnl.holdupOk (holdupCheck_jnl mv x) :)

theorem holdupCheck_bursts (mv : Nat) (x : Hoop) : (holdupCheck mv x).jnl.bursts = x.jnl.bursts := (congrArg Jnl.bursts (holdupCheck_jnl mv x) :)

/-- A check that passes where source 9 is not raised brings no record. -/
theorem holdupCheck_passes {mv : Nat} {x : Hoop} (hm : x.jnl.holdupMin.toNat ≤ mv) (h9 : (x.src 9).live = false) :
    holdupCheck mv x = checked mv x := by
  rw [holdupCheck_eq, if_pos hm]
  have h : ((checked mv x).src 9).live = false := h9
  unfold faultOff
  dsimp only
  rw [h, Bool.false_and]
  rfl

/-! ## A burst (R294) -/

/-- What a burst may take: the record of what was lost, then the buffer. -/
def burstRecords (x : Hoop) : List JRec := (match x.jnl.loss with | some q => [lossRecord x q] | none => []) ++ x.jnl.buf

/-- The hoop with up to 64 of its records written. -/
def burstWritten (x : Hoop) : Hoop := ((burstRecords x).take 64).foldl jnlWrite1 x

theorem writeBurst_jnl (x : Hoop) : ∃ oldest, (writeBurst x).jnl = { (burstWritten x).jnl with
    buf := (burstRecords x).drop 64, loss := none, bursts := (burstWritten x).jnl.bursts + 1, oldest := oldest } :=
  ⟨_, Hoop.jnl_of_untold (pmcRaw_untold ..)⟩

theorem writeBurst_mram (x : Hoop) : (writeBurst x).mram = (burstWritten x).mram := pmcRaw_mram ..

theorem jnlWrite1_jnl (x : Hoop) (j : JRec) : (jnlWrite1 x j).jnl = { x.jnl with head := (x.jnl.head + 1) % 393216, seq := x.jnl.seq + 1 } :=
  Hoop.jnl_of_untold (pmcRaw_untold ..)

theorem jnlWrites_jnl (l : List JRec) (x : Hoop) :
    ∃ head, (l.foldl jnlWrite1 x).jnl = { x.jnl with head := head, seq := x.jnl.seq + BitVec.ofNat 32 l.length } := by
  induction l generalizing x with
  | nil => exact ⟨x.jnl.head, by simp⟩
  | cons j l ih =>
    obtain ⟨head, h⟩ := ih (jnlWrite1 x j)
    refine ⟨head, ?_⟩
    have hseq : x.jnl.seq + 1 + BitVec.ofNat 32 l.length = x.jnl.seq + BitVec.ofNat 32 (l.length + 1) := by
      rw [Nat.add_comm l.length 1, BitVec.ofNat_add, ← add_assoc]
      rfl
    rw [List.foldl_cons, h, jnlWrite1_jnl, List.length_cons, ← hseq]

/-- The journal after a burst: what is over 64 records waits, and SEQ has gone on by what was written. -/
theorem burst_jnl (x : Hoop) : ∃ head oldest, (writeBurst x).jnl = { x.jnl with
    buf := (burstRecords x).drop 64, loss := none, head := head, seq := x.jnl.seq + BitVec.ofNat 32 (min 64 (burstRecords x).length)
    bursts := x.jnl.bursts + 1, oldest := oldest } := by
  obtain ⟨oldest, h⟩ := writeBurst_jnl x
  obtain ⟨head, hw⟩ := jnlWrites_jnl ((burstRecords x).take 64) x
  rw [List.length_take] at hw
  refine ⟨head, oldest, h.trans ?_⟩
  rw [burstWritten, hw]

theorem burstRecords_length (x : Hoop) : (burstRecords x).length = x.jnl.buf.length + (if x.jnl.loss.isSome then 1 else 0) := by
  rw [burstRecords, List.length_append]
  cases x.jnl.loss with
  | none => exact Nat.add_comm ..
  | some q => exact Nat.add_comm ..

/-- A burst of one record writes it at the head. -/
theorem burst_one {x : Hoop} {j : JRec} (hb : x.jnl.buf = [j]) (hl : x.jnl.loss = none) : burstWritten x = jnlWrite1 x j := by
  rw [burstWritten, burstRecords, hl, hb]
  rfl

/-! ## A deferral (R295) -/

/-- The journal with nothing deferred. -/
def undeferred (x : Hoop) : Hoop := { x with jnl := { x.jnl with deferred := false, deferredHoldup := false } }

/-- The journal with its records deferred. -/
def deferral (x : Hoop) : Hoop :=
  { x with jnl := { x.jnl with
      deferred := true, deferredHoldup := !x.jnl.holdupOk, buf := x.jnl.buf.map (fun j => { j with flags := j.flags ||| 1 }) } }

theorem deferWrite_untold (x : Hoop) : (deferWrite x).untold = (deferral x).untold := by
  unfold deferWrite
  extract_lets cause was t y
  split
  · rfl
  · exact raiseEv_untold ..

/-- A burst whose check passes under an open gate is written. -/
theorem tryBurst_writes {mv : Nat} {x : Hoop} (hm : x.jnl.holdupMin.toNat ≤ mv) (ht : x.ths.mramOk = true) :
    (tryBurst mv x).untold = (writeBurst (undeferred (holdupCheck mv x))).untold := by
  have hgo : ((holdupCheck mv x).jnl.holdupOk && (holdupCheck mv x).ths.mramOk) = true := by
    rw [holdupCheck_ok, holdupCheck_ths, ht, decide_eq_true hm]
    rfl
  unfold tryBurst
  dsimp only
  rw [if_pos hgo]
  split
  · exact raiseEv_untold ..
  · rfl

/-- One that the check or the gate stops is deferred. -/
theorem tryBurst_defers {mv : Nat} {x : Hoop} (h : mv < x.jnl.holdupMin.toNat ∨ x.ths.mramOk = false) :
    (tryBurst mv x).untold = (deferral (holdupCheck mv x)).untold := by
  have hstop : ¬ ((holdupCheck mv x).jnl.holdupOk && (holdupCheck mv x).ths.mramOk) = true := by
    rw [holdupCheck_ok, holdupCheck_ths]
    rcases h with h | h
    · simp [h]
    · simp [h]
  unfold tryBurst
  dsimp only
  rw [if_neg hstop]
  exact deferWrite_untold _

/-- The journal after a burst that is written. -/
theorem tryBurst_jnl {mv : Nat} {x : Hoop} (hm : x.jnl.holdupMin.toNat ≤ mv) (ht : x.ths.mramOk = true) :
    ∃ head oldest, (tryBurst mv x).jnl = { (holdupCheck mv x).jnl with
      buf := (burstRecords (holdupCheck mv x)).drop 64, loss := none, head := head
      seq := (holdupCheck mv x).jnl.seq + BitVec.ofNat 32 (min 64 (burstRecords (holdupCheck mv x)).length)
      bursts := (holdupCheck mv x).jnl.bursts + 1, oldest := oldest, deferred := false, deferredHoldup := false } := by
  obtain ⟨head, oldest, h⟩ := burst_jnl (undeferred (holdupCheck mv x))
  exact ⟨head, oldest, (Hoop.jnl_of_untold (tryBurst_writes hm ht)).trans h⟩

/-! ## The writes that waited (R295) -/

theorem flushMram_free {x : Hoop} (h : x.mramFree = true) : flushMram x = x.mwrites.foldl applyMWrite { x with mwrites := [] } := if_pos h

theorem flushMram_blocked {x : Hoop} (h : x.mramFree = false) : flushMram x = x := if_neg (by rw [h]; decide)

theorem flushMram_none {x : Hoop} (h : x.mwrites = []) : flushMram x = x := by
  unfold flushMram
  split
  · rw [h]
    show ({ x with mwrites := [] } : Hoop) = x
    rw [← h]
  · rfl

/-- The hoop without what the journal writer and telling may change. -/
def Hoop.unwritten (x : Hoop) : Hoop :=
  { x.untold with jnl := {}, mram := [], calStore := [], keeperImg := none, mwrites := [], wlm := { x.wlm with lastAddr := 0 } }

theorem Hoop.unwritten_of_untold {x y : Hoop} (h : x.untold = y.untold) : x.unwritten = y.unwritten := by
  have e := congrArg Hoop.unwritten h; exact e

theorem applyMWrite_unwritten (x : Hoop) (w : MWrite) : (applyMWrite x w).unwritten = x.unwritten := by cases w <;> rfl

theorem flushMram_unwritten (x : Hoop) : (flushMram x).unwritten = x.unwritten := by
  unfold flushMram
  split
  · exact foldl_keeps Hoop.unwritten _ applyMWrite_unwritten _ _
  · rfl

theorem flushMram_jnl (x : Hoop) : (flushMram x).jnl = x.jnl := by
  unfold flushMram
  split
  · exact foldl_keeps Hoop.jnl _ (fun y w => by cases w <;> rfl) _ _
  · rfl

theorem flushMram_mwrites {x : Hoop} (h : x.mramFree = true) : (flushMram x).mwrites = [] := by
  rw [flushMram_free h]
  exact foldl_keeps Hoop.mwrites _ (fun y w => by cases w <;> rfl) _ _

theorem jnlWrite1_unwritten (x : Hoop) (j : JRec) : (jnlWrite1 x j).unwritten = x.unwritten :=
  (Hoop.unwritten_of_untold (pmcRaw_untold ..)).trans rfl

theorem jnlWrites_unwritten (l : List JRec) (x : Hoop) : (l.foldl jnlWrite1 x).unwritten = x.unwritten :=
  foldl_keeps Hoop.unwritten _ jnlWrite1_unwritten l x

theorem writeBurst_unwritten (x : Hoop) : (writeBurst x).unwritten = x.unwritten :=
  (Hoop.unwritten_of_untold (pmcRaw_untold ..)).trans (jnlWrites_unwritten _ x)

theorem tryBurst_unwritten (mv : Nat) (x : Hoop) : (tryBurst mv x).unwritten = (holdupCheck mv x).unwritten := by
  by_cases h : x.jnl.holdupMin.toNat ≤ mv ∧ x.ths.mramOk = true
  · exact (Hoop.unwritten_of_untold (tryBurst_writes h.1 h.2)).trans (writeBurst_unwritten _)
  · have h' : mv < x.jnl.holdupMin.toNat ∨ x.ths.mramOk = false := by
      rcases not_and_or.mp h with h | h
      · exact .inl (Nat.lt_of_not_le h)
      · exact .inr (Bool.eq_false_of_not_eq_true h)
    exact (Hoop.unwritten_of_untold (tryBurst_defers h')).trans rfl

theorem Hoop.mramFree_of {x : Hoop} (ht : x.ths.mramOk = true) (hj : x.jnl.holdupOk = true) : x.mramFree = true := by
  rw [Hoop.mramFree, ht, hj]
  rfl

theorem holdupCheck_mramFree {mv : Nat} {x : Hoop} (hm : x.jnl.holdupMin.toNat ≤ mv) (ht : x.ths.mramOk = true) :
    (holdupCheck mv x).mramFree = true :=
  Hoop.mramFree_of ((congrArg Ths.mramOk (holdupCheck_ths mv x)).trans ht) ((holdupCheck_ok mv x).trans (decide_eq_true hm))

/-- Source 9 follows the check alone (R295). -/
theorem holdupCheck_source {mv : Nat} {x : Hoop} (ha : (x.src 9).agree = false) :
    ((holdupCheck mv x).src 9).live = decide (mv < x.jnl.holdupMin.toNat) := by
  rw [holdupCheck_eq]
  split
  next hm =>
    rw [decide_eq_false (Nat.not_lt.mpr hm)]
    exact faultOff_not_live (x := checked mv x) ha
  next hm =>
    rw [decide_eq_true (Nat.lt_of_not_le hm)]
    exact fault_live noDet (x := checked mv x) rfl

/-! ## What a burst leaves of the rest -/

theorem Hoop.lines_of_unwritten {x y : Hoop} (h : x.unwritten = y.unwritten) : x.lines = y.lines := by
  have e := congrArg Hoop.lines h; exact e

theorem Hoop.ths_of_unwritten {x y : Hoop} (h : x.unwritten = y.unwritten) : x.ths = y.ths := by
  have e := congrArg Hoop.ths h; exact e

theorem Hoop.poised_of_unwritten {x y : Hoop} (h : x.unwritten = y.unwritten) : x.poised = y.poised := by
  have e := congrArg Hoop.poised h; exact e

theorem Hoop.mram_of_untold {x y : Hoop} (h : x.untold = y.untold) : x.mram = y.mram := by
  have e := congrArg Hoop.mram h; exact e

theorem Hoop.mwrites_of_untold {x y : Hoop} (h : x.untold = y.untold) : x.mwrites = y.mwrites := by
  have e := congrArg Hoop.mwrites h; exact e

theorem jnlWrite1_mwrites (x : Hoop) (j : JRec) : (jnlWrite1 x j).mwrites = x.mwrites := (Hoop.mwrites_of_untold (pmcRaw_untold ..)).trans rfl

/-- A burst writes nothing that waits. -/
theorem writeBurst_mwrites (x : Hoop) : (writeBurst x).mwrites = x.mwrites :=
  (Hoop.mwrites_of_untold (pmcRaw_untold ..)).trans
    (foldl_keeps Hoop.mwrites jnlWrite1 jnlWrite1_mwrites _ _)

theorem tryBurst_mwrites {mv : Nat} {x : Hoop} (hm : x.jnl.holdupMin.toNat ≤ mv) (ht : x.ths.mramOk = true) : (tryBurst mv x).mwrites = x.mwrites :=
  (Hoop.mwrites_of_untold (tryBurst_writes hm ht)).trans ((writeBurst_mwrites _).trans (holdupCheck_mwrites mv x))

/-- After a burst that is written, the MRAM is free. -/
theorem tryBurst_mramFree {mv : Nat} {x : Hoop} (hm : x.jnl.holdupMin.toNat ≤ mv) (ht : x.ths.mramOk = true) : (tryBurst mv x).mramFree = true := by
  obtain ⟨head, oldest, hj⟩ := tryBurst_jnl hm ht
  refine Hoop.mramFree_of ?_ ?_
  · rw [Hoop.ths_of_unwritten (tryBurst_unwritten mv x), holdupCheck_ths, ht]
  · rw [hj]
    exact (holdupCheck_ok mv x).trans (decide_eq_true hm)

/-- After one that is deferred, it is not. -/
theorem tryBurst_blocked {mv : Nat} {x : Hoop} (h : mv < x.jnl.holdupMin.toNat ∨ x.ths.mramOk = false) : (tryBurst mv x).mramFree = false := by
  have hj : (tryBurst mv x).jnl.holdupOk = decide (x.jnl.holdupMin.toNat ≤ mv) :=
    (congrArg Jnl.holdupOk (Hoop.jnl_of_untold (tryBurst_defers h))).trans (holdupCheck_ok mv x)
  have ht : (tryBurst mv x).ths.mramOk = x.ths.mramOk :=
    congrArg Ths.mramOk ((Hoop.ths_of_unwritten (tryBurst_unwritten mv x)).trans (holdupCheck_ths mv x))
  rw [Hoop.mramFree, hj, ht]
  rcases h with h | h
  · rw [decide_eq_false (Nat.not_le.mpr h), Bool.and_false]
  · rw [h, Bool.false_and]

/-! ## One write that waited -/

theorem applyMWrite_mwrites (x : Hoop) (w : MWrite) : (applyMWrite x w).mwrites = x.mwrites := by cases w <;> rfl

theorem applyMWrite_mram_of {x y : Hoop} (hp : x.part = y.part) (hm : x.mram = y.mram) (w : MWrite) :
    (applyMWrite x w).mram = (applyMWrite y w).mram := by
  cases w with
  | hbias e b k c => exact congrArg (writeHbias · e b k c true) hm
  | restore => exact (restoreRecords_of_part hp _).trans (congrArg (restoreRecords y) hm)
  | cal r => exact hm
  | keeper m sp => exact hm
  | address a => exact hm

theorem applyMWrite_calStore_of {x y : Hoop} (hc : x.calStore = y.calStore) (w : MWrite) :
    (applyMWrite x w).calStore = (applyMWrite y w).calStore := by
  cases w with
  | hbias e b k c => exact hc
  | restore => exact hc
  | cal r => rfl
  | keeper m sp => exact hc
  | address a => exact hc

/-! ## The rows -/

/-- JOURNAL_BURST on the hoop. -/
def burstRow (mv : Nat) (x : Hoop) : Hoop := if burstDue x && !x.jnl.deferred then flushMram (tryBurst mv x) else x

/-- HOLDUP_RETRY on the hoop. -/
def retryRow (mv : Nat) (x : Hoop) : Hoop :=
  if x.jnl.deferred then flushMram (tryBurst mv x) else if x.mwrites.isEmpty then x else flushMram (holdupCheck mv x)

theorem exec_journalBurst (h : HoopId) (mv : Nat) (s : State) : exec (.journalBurst h mv) s = .next (s.act h (burstRow mv)) := rfl

theorem exec_holdupRetry (h : HoopId) (mv : Nat) (s : State) : exec (.holdupRetry h mv) s = .next (s.act h (retryRow mv)) := rfl

theorem burstRow_due {mv : Nat} {x : Hoop} (hd : burstDue x = true) (hf : x.jnl.deferred = false) : burstRow mv x = flushMram (tryBurst mv x) := by
  rw [burstRow, hd, hf]
  rfl

theorem retryRow_deferred {mv : Nat} {x : Hoop} (hf : x.jnl.deferred = true) : retryRow mv x = flushMram (tryBurst mv x) := if_pos hf

theorem retryRow_waits {mv : Nat} {x : Hoop} {w : MWrite} (hf : x.jnl.deferred = false) (hw : x.mwrites = [w]) :
    retryRow mv x = flushMram (holdupCheck mv x) := by
  rw [retryRow, hf, hw]
  rfl

/-- A burst row of a hoop with no other write that waits and no source 9 to end is the burst. -/
theorem burstRow_alone {mv : Nat} {x : Hoop} (hd : burstDue x = true) (hf : x.jnl.deferred = false) (hm : x.jnl.holdupMin.toNat ≤ mv)
    (ht : x.ths.mramOk = true) (hw : x.mwrites = []) (h9 : (x.src 9).live = false) :
    (burstRow mv x).untold = (writeBurst (undeferred (checked mv x))).untold := by
  rw [burstRow_due hd hf, flushMram_none ((tryBurst_mwrites hm ht).trans hw), tryBurst_writes hm ht, holdupCheck_passes hm h9]

/-- The record stands at the head. -/
theorem burstRow_one_mram {mv : Nat} {x : Hoop} {j : JRec} (hd : burstDue x = true) (hf : x.jnl.deferred = false) (hm : x.jnl.holdupMin.toNat ≤ mv)
    (ht : x.ths.mramOk = true) (hl : x.jnl.loss = none) (hb : x.jnl.buf = [j]) (hw : x.mwrites = []) (h9 : (x.src 9).live = false) :
    (burstRow mv x).mram = memWrite x.mram (64 * x.jnl.head) (j.bytes x.jnl.seq) := by
  rw [Hoop.mram_of_untold (burstRow_alone hd hf hm ht hw h9), writeBurst_mram, burst_one (x := undeferred (checked mv x)) hb hl]
  exact jnlWrite1_mram _ _

/-- Settles O5: a row that stores nothing keeps both memories, a row of one hoop keeps the other's, and a burst of one record writes the slot at the
head. -/
theorem memoryFrame : Obligations.MemoryFrame := by
  unfold Obligations.MemoryFrame
  refine ⟨fun i s t h hi ht a => ?silent, fun s h t mv ht => ?writer, fun s h t e mean ht => ?refine, fun s h t r ht => ?restore,
    fun s h x mv j e hb hl hd hf hm hg hw h9 => ?one, fun s h t gib ok hs ht k => ?boot⟩
  case silent =>
    obtain ⟨u, hu, hc⟩ := exec_sparesMemory hi s
    cases hu.symm.trans ht
    exact congrArg (memGet · a) (State.cells_iff.mp hc h)
  case writer =>
    rcases ht with ht | ht
    · exact Hoop.mram_of_calm ((exec_spares s rfl).calm_of_next t ht)
    · exact Hoop.mram_of_calm ((exec_spares s rfl).calm_of_next t ht)
  case refine => exact Hoop.mram_of_calm ((exec_spares s rfl).calm_of_next t ht)
  case restore => exact Hoop.mram_of_calm ((exec_spares s rfl).calm_of_next t ht)
  case one =>
    refine gives_act (burstRow mv) e (exec_journalBurst h mv s) fun y hy a ha => ?_
    rw [Hoop.mram_of_calm hy, burstRow_one_mram hd hf hm hg hl hb hw h9, memGet_memWrite_outside _ _ _ _ ha]
  case boot =>
    cases ht
    exact State.cells_iff.mp ((settle_cells _).trans (State.upd_cells_at s h _ (trained_cells gib ok hs))) k

/-- The journal after one record is written. -/
theorem burstRow_one_jnl {mv : Nat} {x : Hoop} {j : JRec} (hd : burstDue x = true) (hf : x.jnl.deferred = false) (hm : x.jnl.holdupMin.toNat ≤ mv)
    (ht : x.ths.mramOk = true) (hl : x.jnl.loss = none) (hb : x.jnl.buf = [j]) (hw : x.mwrites = []) (h9 : (x.src 9).live = false) :
    (burstRow mv x).jnl.calm = { x.jnl.calm with head := (x.jnl.head + 1) % 393216, seq := x.jnl.seq + 1, bursts := x.jnl.bursts + 1
                                                 holdup := BitVec.ofNat 11 mv, holdupOk := decide (x.jnl.holdupMin.toNat ≤ mv), deferred := false
                                                 deferredHoldup := false } := by
  obtain ⟨oldest, hj⟩ := writeBurst_jnl (undeferred (checked mv x))
  rw [Hoop.jnl_of_untold (burstRow_alone hd hf hm ht hw h9), hj, burst_one (x := undeferred (checked mv x)) hb hl, jnlWrite1_jnl]
  rfl

/-- Settles O42: a burst that passes its check and the gate is written, one that does not is deferred, and a retry writes what waits. -/
theorem journalRows : Obligations.JournalRows := by
  unfold Obligations.JournalRows
  refine ⟨fun s h x mv j e hd hf hm hg hl hb hw h9 => ?one, fun s h x mv n e hp hd hf hm hg h9 hn => ?many, fun s h x mv e hd hf hstop => ?defers,
    fun s h x mv e hf hm hg => ?retry, fun s h x mv w e hf hw hm hg => ?rest, fun s h c p => ?threshold⟩
  case one =>
    refine gives_act (burstRow mv) e (exec_journalBurst h mv s) fun y hy => ?_
    have hj : y.jnl.calm = _ := (Hoop.jnl_of_calm hy).trans (burstRow_one_jnl hd hf hm hg hl hb hw h9)
    exact ⟨(Hoop.mram_of_calm hy).trans (burstRow_one_mram hd hf hm hg hl hb hw h9), (congrArg Jnl.head hj :), (congrArg Jnl.seq hj :),
      (congrArg Jnl.bursts hj :), (congrArg Jnl.holdup hj :)⟩
  case many =>
    have hu : (burstRow mv x).unwritten = x.unwritten := by
      rw [burstRow_due hd hf, flushMram_unwritten, tryBurst_unwritten, holdupCheck_passes hm h9]
      rfl
    have hl : (burstRow mv x).lines = x.lines := Hoop.lines_of_unwritten hu
    obtain ⟨head, oldest, hj⟩ := tryBurst_jnl (x := x) (mv := mv) hm hg
    have hy : (pmcTell (burstRow mv x)).jnl = _ :=
      (Hoop.jnl_of_untold (pmcTell_untold _)).trans ((congrArg Hoop.jnl (burstRow_due hd hf)).trans ((flushMram_jnl _).trans hj))
    refine gives_poised (burstRow mv) e hp (exec_journalBurst h mv s) (congrArg Hoop.part hu :) (congrArg Fc.src hl :) (congrArg (·.dk.fcPar) hu :)
      (fun h => (Hoop.poised_of_unwritten hu).trans h) ?_
    have hc : (burstRecords (checked mv x)).length = n := (burstRecords_length _).trans hn.symm
    rw [hy, holdupCheck_passes hm h9, hc]
    exact ⟨(List.length_drop ..).trans (congrArg (· - 64) hc), rfl, congrArg (x.jnl.seq + BitVec.ofNat 32 ·) (Nat.min_comm 64 n), rfl⟩
  case defers =>
    have hrow : burstRow mv x = tryBurst mv x := (burstRow_due hd hf).trans (flushMram_blocked (tryBurst_blocked hstop))
    refine gives_act_lines (burstRow mv) e (exec_journalBurst h mv s) fun y hy hl => ?_
    rw [hrow] at hy hl
    have hj : y.jnl.calm = _ := (Hoop.jnl_of_calm hy).trans (congrArg Jnl.calm (Hoop.jnl_of_untold (tryBurst_defers hstop)))
    have hok : (deferral (holdupCheck mv x)).jnl.deferredHoldup = decide (mv < x.jnl.holdupMin.toNat) := by
      show (!(holdupCheck mv x).jnl.holdupOk) = _
      rw [holdupCheck_ok, ← decide_not]
      exact decide_eq_decide.mpr Nat.not_le
    refine ⟨?_, (congrArg Jnl.deferred hj :), (congrArg Jnl.deferredHoldup hj :).trans hok,
      (congrArg Jnl.bursts hj :).trans (holdupCheck_bursts mv x), fun ha => ?_⟩
    · exact (Hoop.mram_of_calm hy).trans ((Hoop.mram_of_untold (tryBurst_defers hstop)).trans (holdupCheck_mram mv x))
    · rw [Hoop.src_of_lines (hl.trans (Hoop.lines_of_unwritten (tryBurst_unwritten mv x)))]
      exact holdupCheck_source ha
  case retry =>
    obtain ⟨head, oldest, hj⟩ := tryBurst_jnl (x := x) (mv := mv) hm hg
    refine gives_act_lines (retryRow mv) e (exec_holdupRetry h mv s) fun y hy hl => ?_
    rw [retryRow_deferred hf] at hy hl
    have hc : y.jnl.calm = _ := (Hoop.jnl_of_calm hy).trans (congrArg Jnl.calm ((flushMram_jnl _).trans hj))
    refine ⟨(congrArg Jnl.deferred hc :), (congrArg Jnl.bursts hc :).trans (congrArg (· + 1) (holdupCheck_bursts mv x)),
      (Hoop.mwrites_of_calm hy).trans (flushMram_mwrites (tryBurst_mramFree hm hg)), fun ha => ?_⟩
    have hs : y.src 9 = (holdupCheck mv x).src 9 :=
      Hoop.src_of_lines (hl.trans (Hoop.lines_of_unwritten ((flushMram_unwritten _).trans (tryBurst_unwritten mv x)))) 9
    rw [hs, holdupCheck_source ha]
    exact decide_eq_false (Nat.not_lt.mpr hm)
  case rest =>
    refine gives_act (retryRow mv) e (exec_holdupRetry h mv s) fun y hy => ?_
    have hr : retryRow mv x = applyMWrite { holdupCheck mv x with mwrites := [] } w := by
      rw [retryRow_waits hf hw, flushMram_free (holdupCheck_mramFree hm hg), holdupCheck_mwrites, hw]
      rfl
    rw [hr] at hy
    have hz : ({ holdupCheck mv x with mwrites := [] } : Hoop).part = x.part := holdupCheck_part mv x
    have hm' : ({ holdupCheck mv x with mwrites := [] } : Hoop).mram = x.mram := holdupCheck_mram mv x
    have hc' : ({ holdupCheck mv x with mwrites := [] } : Hoop).calStore = x.calStore :=
      (Hoop.calStore_of_calm (holdupCheck_calm mv x)).trans rfl
    rw [Hoop.mwrites_of_calm hy, Hoop.mram_of_calm hy, Hoop.calStore_of_calm hy, applyMWrite_mram_of hz hm', applyMWrite_calStore_of hc']
    exact ⟨applyMWrite_mwrites _ _, rfl, rfl⟩
  case threshold =>
    refine gives_serve p rfl fun y hy => ?_
    have ha : y.calm = _ := hy.trans (adminOk_calm ..)
    have hj : y.jnl.calm = _ := Hoop.jnl_of_calm ha
    refine ⟨(congrArg Jnl.holdupMin hj :), ?_⟩
    rw [Hoop.settings_of_calm ha, ← passes_opcode p]
    exact storeSetting_mem (ctxOf s h 0 c) 0 _

end Sys2Proof.Machine
end

section
/-!
SUPPORT. The keeper's force through `settle`, what a fault of S3 or S4 makes of its hoop, and the reactions across the hoops: the statement O40; and
the statement O39, refuted.
-/

namespace Sys2Proof.Machine
open Sys2Proof

/-! ## The keeper under the operations on threads -/

/-- The dark keeper but for its DARK_N switch. -/
def Hoop.keeper (x : Hoop) : Dk := x.dk.core

theorem Hoop.keeper_of_core {x y : Hoop} (h : x.core = y.core) : x.keeper = y.keeper := congrArg Hoop.dk h

theorem Hoop.force_of_keeper {x y : Hoop} (h : x.keeper = y.keeper) : x.dk.force = y.dk.force := (congrArg Dk.force h :)

theorem Hoop.keeper_of_dk {x y : Hoop} (h : x.dk = y.dk) : x.keeper = y.keeper := congrArg Dk.core h

theorem notify_keeper (i cause : Nat) (x : Hoop) : (notify i cause x).keeper = x.keeper := by
  have hs (c : Chain) : (sendNotices c i cause x).keeper = x.keeper := by
    refine foldl_keeps Hoop.keeper _ (fun y a => ?_) _ x
    exact (Hoop.keeper_of_core (originate_core ..)).trans (Hoop.keeper_of_dk rfl)
  unfold notify
  split
  · rfl
  · split
    · rfl
    · exact (Hoop.keeper_of_core (raiseEv_core ..)).trans ((Hoop.keeper_of_dk rfl).trans (hs _))

theorem putOutcome_keeper (o : Outcome) (x : Hoop) : (putOutcome o x).keeper = x.keeper := by
  unfold putOutcome
  rw [Hoop.keeper_of_core (raiseEv_core ..), Hoop.keeper_of_core (jnlPut_core ..)]
  exact Hoop.keeper_of_dk rfl

theorem outcomes_keeper (x : Hoop) : (outcomes x).keeper = x.keeper :=
  (foldl_keeps Hoop.keeper _ (fun _ _ => putOutcome_keeper ..) _ _).trans (Hoop.keeper_of_dk rfl)

theorem ledEnd_keeper (i at_ : Nat) (counted : Bool) (x : Hoop) : (ledEnd i at_ counted x).keeper = x.keeper := by
  unfold ledEnd
  split <;> rfl

theorem dropParts_keeper (i : Nat) (x : Hoop) : (dropParts i x).keeper = x.keeper := by
  unfold dropParts
  extract_lets alone hit y
  have hy : y.keeper = x.keeper := foldl_keeps Hoop.keeper restoreElem (fun _ _ => rfl) alone x
  exact Eq.trans rfl hy

theorem setSt_keeper (i : Nat) (st : ThreadSt) (cause seq src : Nat) (x : Hoop) : (setSt i st cause seq src x).keeper = x.keeper :=
  (Hoop.keeper_of_core (setSt_core ..)).trans rfl

theorem darkThread_keeper (i cause seq src : Nat) (x : Hoop) : (darkThread i cause seq src x).keeper = x.keeper := by
  unfold darkThread
  split
  · extract_lets y z
    have hy : y.keeper = x.keeper := (dropParts_keeper ..).trans (ledEnd_keeper ..)
    have hz : z.keeper = x.keeper := (setSt_keeper ..).trans hy
    refine (outcomes_keeper _).trans ?_
    split
    · exact hz
    · exact (notify_keeper ..).trans hz
  · rfl

theorem forceNeedles_keeper (x : Hoop) : (forceNeedles x).keeper = x.keeper := by
  unfold forceNeedles
  extract_lets jumps y
  exact foldl_keeps Hoop.keeper (fun (y : Hoop) i => y.updNeedle (y.eyelet i) (fun v => { v with track := true })) (fun _ _ => rfl) jumps x

/-- The keeper forces once it is engaged (R289). -/
theorem engage_force (cause sev : Nat) (remote : Bool) (x : Hoop) : (engage cause sev remote x).dk.force = true := by
  unfold engage
  split
  next h => exact h
  next =>
    extract_lets live w dk fc y z u
    have hz : z.keeper = y.keeper :=
      (foldl_keeps Hoop.keeper (fun y i => darkThread i 5 0 cause y) (fun _ _ => darkThread_keeper ..) live _).trans (forceNeedles_keeper y)
    have hu : u.keeper = y.keeper := (Hoop.keeper_of_core (jnlPut_core ..)).trans hz
    exact Hoop.force_of_keeper ((Hoop.keeper_of_core ((raiseEv_core ..).trans (msixSend_core ..))).trans hu)

/-! ## A force that stands stays through `settle` -/

/-- Hoop `k` is under its keeper's force. -/
def State.Forced (s : State) (k : HoopId) : Prop := (s.hoop k).dk.force = true

theorem HoopId.eq_or_other (h k : HoopId) : k = h ∨ k = other h := by cases h <;> cases k <;> decide

/-- An effect that ends no force ends none in the module. -/
theorem State.upd_forced {s : State} {h k : HoopId} {f : Hoop → Hoop} (hf : ∀ x : Hoop, x.dk.force = true → (f x).dk.force = true) (hs : s.Forced k) :
    (s.upd h f).Forced k := by
  by_cases hh : s.has h = true
  · unfold State.Forced
    rcases HoopId.eq_or_other h k with rfl | rfl
    · rw [State.upd_self s k f hh]
      exact hf _ hs
    · rw [State.upd_other s h f]
      exact hs
  · rwa [State.upd, if_neg hh]

theorem State.upd_forced_keeper {s : State} {h k : HoopId} {f : Hoop → Hoop} (hf : ∀ x : Hoop, (f x).keeper = x.keeper) (hs : s.Forced k) :
    (s.upd h f).Forced k := State.upd_forced (fun x hx => (Hoop.force_of_keeper (hf x)).trans hx) hs

theorem State.foldl_forced {k : HoopId} {l : List HoopId} {f : State → HoopId → State} {s : State}
    (hf : ∀ (s : State) h, s.Forced k → (f s h).Forced k) (hs : s.Forced k) : (l.foldl f s).Forced k :=
  List.foldlRecOn (motive := fun s : State => s.Forced k) l f hs fun s hb h _ => hf s h hb

theorem State.setDuo_forced {s : State} {d : Duo} {k : HoopId} (hs : s.Forced k) : (s.setDuo d).Forced k := by cases k <;> exact hs

theorem settleS4_forced {s : State} {k : HoopId} (hs : s.Forced k) : (settleS4 s).Forced k := by
  unfold settleS4
  split
  · exact hs
  · refine State.foldl_forced (fun s h => State.upd_forced fun x _ => ?_) hs
    split <;> exact engage_force ..

theorem settleRel_forced {s : State} {k : HoopId} (hs : s.Forced k) : (settleRel s).Forced k := by
  unfold settleRel
  split
  · exact State.foldl_forced (fun s h => State.upd_forced fun x hx => hx) hs
  · exact hs

theorem abandonHo_forced {cause : Nat} {s : State} {k : HoopId} (hs : s.Forced k) : (abandonHo cause s).Forced k := by
  unfold abandonHo
  split
  · exact hs
  · refine State.setDuo_forced (State.foldl_forced (fun s h => State.upd_forced_keeper fun x => ?_) hs)
    exact (Hoop.keeper_of_core (raiseEv_core ..)).trans (Hoop.keeper_of_dk rfl)

theorem settleHo_forced {s : State} {k : HoopId} (hs : s.Forced k) : (settleHo s).Forced k := by
  unfold settleHo
  split
  · exact iteInduction (motive := fun t : State => t.Forced k) (fun _ => abandonHo_forced hs)
      fun _ => iteInduction (motive := fun t : State => t.Forced k) (fun _ => abandonHo_forced hs) fun _ => hs
  · exact hs

theorem settleS3_forced {s : State} {h k : HoopId} (hs : s.Forced k) : (settleS3 s h).Forced k := by
  unfold settleS3
  extract_lets x
  split
  · exact hs
  · split
    · exact State.upd_forced (fun _ _ => engage_force ..) hs
    · split
      · exact State.upd_forced_keeper (fun _ => Hoop.keeper_of_core (setRole_core ..)) hs
      · split
        · split
          · exact hs
          · split
            · exact State.setDuo_forced (State.upd_forced_keeper (fun _ => Hoop.keeper_of_dk rfl) hs)
            · exact State.foldl_forced (fun s h => State.upd_forced fun _ _ => engage_force ..) hs
        · exact hs

/-! ## `settle`: reactions, then what follows them -/

/-- The module once S3 and S4 have had their reactions. -/
def reacted (s : State) : State := (settleHo (settleRel (settleS4 s))).hoops.foldl settleS3 (settleHo (settleRel (settleS4 s)))

/-- What follows the reactions keeps the core of every hoop. -/
theorem settle_core_reacted (s : State) (k : HoopId) : ((settle s).hoop k).core = ((reacted s).hoop k).core := by
  unfold settle
  extract_lets s1 s2 s3 s4 s5
  have h3 := foldl_upd_core s2.hoops s2 k _ (fun s h => settleRole_core s h k)
  have h4 := foldl_upd_core s3.hoops s3 k _ (fun s h => settleLink_core s h k)
  have h5 : (s5.hoop k).core = (s4.hoop k).core := foldl_upd_core s4.hoops s4 k _ (fun s h => upd_core s h k _ (fun x => by simp))
  rw [settlePins_hoop]
  exact h5.trans (h4.trans h3)

theorem settleRole_duo (s : State) (h : HoopId) : (settleRole s h).duo = s.duo := by
  unfold settleRole
  split
  · rfl
  · extract_lets x t
    have ht : t.duo = s.duo := by
      show (if _ then _ else _ : State).duo = _
      split
      · exact State.upd_duo ..
      · rfl
    split
    · exact (State.upd_duo ..).trans ht
    · exact ht

theorem settleLink_duo (s : State) (h : HoopId) : (settleLink s h).duo = s.duo := by
  unfold settleLink
  split
  · rfl
  · extract_lets x p t u
    have hu : u.duo = t.duo := foldl_keeps State.duo _ (fun _ _ => State.upd_duo ..) _ t
    exact (State.upd_duo ..).trans (hu.trans (State.upd_duo ..))

/-- Nor does it touch what the hoops share. -/
theorem settle_duo_reacted (s : State) : (settle s).duo = (reacted s).duo := by
  unfold settle
  extract_lets s1 s2 s3 s4 s5
  have h3 : s3.duo = s2.duo := foldl_keeps State.duo settleRole settleRole_duo s2.hoops s2
  have h4 : s4.duo = s3.duo := foldl_keeps State.duo settleLink settleLink_duo s3.hoops s3
  have h5 : s5.duo = s4.duo := foldl_keeps State.duo _ (fun s h => State.upd_duo s h _) s4.hoops s4
  exact Eq.trans rfl (h5.trans (h4.trans h3))

theorem reacted_forced {s : State} {k : HoopId} (hs : (settleS4 s).Forced k) : (reacted s).Forced k :=
  State.foldl_forced (fun _ _ => settleS3_forced) (settleHo_forced (settleRel_forced hs))

theorem settle_forced_of_reacted {s : State} {k : HoopId} (hs : (reacted s).Forced k) : (settle s).Forced k :=
  (Hoop.force_of_keeper (Hoop.keeper_of_core (settle_core_reacted s k))).trans hs

theorem settle_forced {s : State} {k : HoopId} (hs : s.Forced k) : (settle s).Forced k :=
  settle_forced_of_reacted (reacted_forced (settleS4_forced hs))

/-! ## What the pins then show -/

theorem vouches_of_force {x : Hoop} (h : x.dk.force = true) : vouches x = false := by
  have hf : (vouchFail x == 0) = false := by
    unfold vouchFail
    rw [h]
    simp only [Bool.true_or, if_true, beq_eq_false_iff_ne, ne_eq]
    split_ifs <;> decide
  rw [vouches, hf, Bool.false_and, Bool.false_and]

theorem State.vouch_of_forced {s : State} (hp : s.pinsWf = true) {k : HoopId} (hk : k ∈ s.hoops) (hf : s.Forced k) : (s.hoop k).dk.vouch = false := by
  simp only [State.pinsWf, Bool.and_eq_true, List.all_eq_true, beq_iff_eq] at hp
  obtain ⟨⟨⟨⟨⟨hv, -⟩, -⟩, -⟩, -⟩, -⟩ := hp
  exact (hv k hk).trans (vouches_of_force hf)

/-- DARK_N opens where every hoop is under force (R286). -/
theorem State.darkN_of_forced {s : State} (hp : s.pinsWf = true) (hf : ∀ k ∈ s.hoops, s.Forced k) : s.balls.darkN = false := by
  have hv := fun k hk => State.vouch_of_forced hp (k := k) hk (hf k hk)
  simp only [State.pinsWf, Bool.and_eq_true, List.all_eq_true, beq_iff_eq] at hp
  obtain ⟨⟨⟨⟨⟨-, hd⟩, -⟩, -⟩, -⟩, -⟩ := hp
  rw [hd, List.any_eq_false]
  exact fun k hk => Bool.eq_false_iff.mp (hv k hk)

/-- FAULT_N is low where a hoop holds it (R285). -/
theorem State.faultN_of_held {s : State} (hp : s.pinsWf = true) {h : HoopId} (hh : h ∈ s.hoops)
    (hf : (s.hoop h).fc.hold = true ∨ (s.hoop h).dk.fcPar = true) : s.balls.faultN = false := by
  simp only [State.pinsWf, Bool.and_eq_true, List.all_eq_true, beq_iff_eq] at hp
  obtain ⟨⟨⟨⟨-, hn⟩, -⟩, -⟩, -⟩ := hp
  rw [hn, Bool.not_eq_false', List.any_eq_true]
  refine ⟨h, hh, ?_⟩
  rcases hf with hf | hf
  · rw [hf, Bool.or_true, Bool.true_or]
  · rw [hf, Bool.or_true]

end Sys2Proof.Machine
end

section
/-!
SUPPORT. What a fault of S3 or S4 makes of its hoop and of the module: the statement O40; and the statement O39, refuted by a source of a group that
the part does not have.
-/

namespace Sys2Proof.Machine
open Sys2Proof

/-! ## Entries of the source table -/

theorem mem_smSet {α : Type} [DecidableEq α] {d : α} {m : SMap α} {k : Nat} {v : α} {e : Nat × α} (h : e ∈ smSet d m k v) : e ∈ m ∨ e.1 = k := by
  unfold smSet at h
  split at h
  · exact .inl (mem_smDel h)
  · rcases mem_smPut h with rfl | h
    · exact .inr rfl
    · exact .inl h

/-- The sources of `y` are those of `x` but for source `k`. -/
def Hoop.OnlySrc (k : Nat) (x y : Hoop) : Prop := ∀ e ∈ y.fc.src, e ∈ x.fc.src ∨ e.1 = k

theorem Hoop.OnlySrc.refl (k : Nat) (x : Hoop) : Hoop.OnlySrc k x x := fun _ he => .inl he

theorem Hoop.OnlySrc.trans {k : Nat} {x y z : Hoop} (hxy : Hoop.OnlySrc k x y) (hyz : Hoop.OnlySrc k y z) : Hoop.OnlySrc k x z :=
  fun e he => (hyz e he).elim (hxy e) .inr

theorem Hoop.onlySrc_of_eq {k : Nat} {x y : Hoop} (h : y.fc.src = x.fc.src) : Hoop.OnlySrc k x y := fun _ he => .inl (h ▸ he)

theorem Hoop.setSrc_onlySrc (x : Hoop) (k : Nat) (v : Src) : Hoop.OnlySrc k x (x.setSrc k v) := fun _ he => mem_smSet he

theorem Hoop.fc_src_of_lines {x y : Hoop} (h : y.lines = x.lines) : y.fc.src = x.fc.src := (congrArg Fc.src h :)

theorem Hoop.liveSev_of_lines {x y : Hoop} (h : y.lines = x.lines) (sev : Nat) : y.liveSev sev = x.liveSev sev := by
  rw [Hoop.liveSev, Hoop.fc_src_of_lines h, Hoop.liveSev]

theorem Hoop.mem_liveSev {x : Hoop} {k sev : Nat} (hl : (x.src k).live = true) (hs : sevOf k = some sev) : k ∈ x.liveSev sev := by
  have hne : smGet ({} : Src) x.fc.src k ≠ {} := fun h => by
    have hf : (x.src k).live = false := (congrArg Src.live h).trans rfl
    exact absurd (hl.symm.trans hf) (by decide)
  have hm : (k, x.src k) ∈ x.fc.src := mem_of_smGet_ne hne
  rw [Hoop.liveSev, List.mem_map]
  refine ⟨(k, x.src k), List.mem_filter.mpr ⟨hm, ?_⟩, rfl⟩
  rw [hl, hs, Bool.true_and, beq_self_eq_true]

/-- A source that only source `k` could have made live is source `k`. -/
theorem Hoop.liveSev_only {x y : Hoop} {k sev : Nat} (hn : x.liveSev sev = []) (ho : Hoop.OnlySrc k x y) {j : Nat} (hj : j ∈ y.liveSev sev) :
    j = k ∧ sevOf j = some sev := by
  obtain ⟨e, he, rfl⟩ := List.mem_map.mp hj
  obtain ⟨hm, hc⟩ := List.mem_filter.mp he
  obtain ⟨-, hs⟩ := Bool.and_eq_true_iff.mp hc
  refine ⟨(ho e hm).resolve_left fun hx => ?_, beq_iff_eq.mp hs⟩
  have hin : e.1 ∈ x.liveSev sev := List.mem_map.mpr ⟨e, List.mem_filter.mpr ⟨hx, hc⟩, rfl⟩
  rw [hn] at hin
  exact absurd hin List.not_mem_nil

/-! ## The reaction inside the hoop -/

theorem capture_dk (s sev : Nat) (wire : Bool) (x : Hoop) : (capture s sev wire x).dk = x.dk := by
  unfold capture
  extract_lets w f y
  split <;> rfl

theorem capture_pair (s sev : Nat) (wire : Bool) (x : Hoop) : (capture s sev wire x).pair = x.pair := by
  unfold capture
  extract_lets w f y
  split <;> rfl

theorem faultRecord_dk (s sev : Nat) (wire : Bool) (extra : List Nat) (x : Hoop) : (faultRecord s sev wire extra x).dk = x.dk := by
  unfold faultRecord
  extract_lets v sec num
  split
  · rfl
  · exact (Hoop.dk_of_shown (jnlPut_shown ..)).trans rfl

theorem faultRecord_pair (s sev : Nat) (wire : Bool) (extra : List Nat) (x : Hoop) : (faultRecord s sev wire extra x).pair = x.pair := by
  unfold faultRecord
  extract_lets v sec num
  split
  · rfl
  · exact (Hoop.pair_of_shown (jnlPut_shown ..)).trans rfl

theorem faultRecord_onlySrc (s sev : Nat) (wire : Bool) (extra : List Nat) (x : Hoop) : Hoop.OnlySrc s x (faultRecord s sev wire extra x) := by
  unfold faultRecord
  extract_lets v sec num
  split
  · exact Hoop.OnlySrc.refl _ _
  · exact Hoop.OnlySrc.trans (Hoop.setSrc_onlySrc _ _ _) (Hoop.onlySrc_of_eq (Hoop.fc_src_of_lines (jnlPut_lines _ _ _ _ _ _)))

/-- FAULT_N is held, and vector 32 goes out (R285, R360). -/
def heldLow (x : Hoop) : Hoop := msixSend 32 { x with fc := { x.fc with hold := true, pulse := true, pulseEnd := x.now + 10000 } }

theorem heldLow_shown (x : Hoop) :
    (heldLow x).shown = ({ x with fc := { x.fc with hold := true, pulse := true, pulseEnd := x.now + 10000 } } : Hoop).shown :=
  Hoop.shown_of_untold (msixSend_untold ..)

/-- What S3 and S4 do besides: they end an accepted release, stop Tambour, and abort the commands that wait (R291, R155, R360). -/
def severeStop (s : Nat) (x : Hoop) : Hoop :=
  { x with
    dk := { x.dk with relAccepted := false }
    tmb := { x.tmb with stopReq :=
      if s != 21 && s != 22 && x.tmb.stopReq.isNone && x.tmb.st != .halted && x.tmb.st != .stopped && x.tmb.st != .notStarted then some s else x.tmb.stopReq }
    mbx := { x.mbx with rings := x.mbx.rings.map (fun e => (e.1, { e.2 with read := e.2.read.map (fun c => { c with aborted := true }) })) } }

theorem react_severe_eq (s det : Nat) {sev : Nat} (h3 : 3 ≤ sev) (x : Hoop) : react s det sev x = severeStop s (heldLow x) := by
  have h2 : 2 ≤ sev := Nat.le_of_succ_le h3
  have hne : sev ≠ 2 := by omega
  unfold react
  simp only [h2, h3, hne, if_true, if_false]
  rfl

/-- S3 and S4 hold FAULT_N and end an accepted release; they change no other field of the keeper and none of the pair link (R280, R285, R291). -/
theorem react_severe (s det : Nat) {sev : Nat} (h3 : 3 ≤ sev) (x : Hoop) :
    (react s det sev x).dk = { x.dk with relAccepted := false } ∧ (react s det sev x).pair = x.pair ∧ (react s det sev x).fc.src = x.fc.src ∧
      (react s det sev x).fc.hold = true := by
  have hfc : (heldLow x).fc = _ := Hoop.fc_of_shown (heldLow_shown x)
  have hdk : (heldLow x).dk = x.dk := (Hoop.dk_of_shown (heldLow_shown x)).trans rfl
  have hpair : (heldLow x).pair = x.pair := (Hoop.pair_of_shown (heldLow_shown x)).trans rfl
  rw [react_severe_eq s det h3]
  exact ⟨congrArg (fun d : Dk => { d with relAccepted := false }) hdk, hpair, (congrArg Fc.src hfc :), (congrArg Fc.hold hfc :)⟩

/-- A new fault: its source, its capture, its count, its event, its record, then the reaction (R278). -/
theorem fault_new {s sev : Nat} (det : Nat) {x : Hoop} (hs : sevOf s = some sev) (hh : x.hasSrc s = true) (hl : (x.src s).live = false) :
    ∃ v p, fault s det x = react s (det % 8192) sev (faultRecord s sev false []
      (raiseEv (448 + sev) p .hoop (pmcRaw (226 + sev) 1 (capture s sev false (x.setSrc s v))))) := by
  unfold fault faultOn
  rw [hs]
  dsimp only
  rw [hh, hl, Bool.not_true, Bool.false_and, Bool.or_false, if_neg (by decide)]
  exact ⟨_, _, rfl⟩

/-- What a new fault of S3 or S4 makes of its hoop. -/
theorem fault_severe {s sev : Nat} (det : Nat) {x : Hoop} (hs : sevOf s = some sev) (h3 : 3 ≤ sev) (hh : x.hasSrc s = true)
    (hl : (x.src s).live = false) : (fault s det x).dk = { x.dk with relAccepted := false } ∧ (fault s det x).pair = x.pair ∧
      Hoop.OnlySrc s x (fault s det x) ∧ (fault s det x).fc.hold = true := by
  obtain ⟨v, p, hf⟩ := fault_new det hs hh hl
  have htold (y : Hoop) : (raiseEv (448 + sev) p .hoop (pmcRaw (226 + sev) 1 y)).shown = y.shown :=
    Hoop.shown_of_untold ((raiseEv_untold ..).trans (pmcRaw_untold ..))
  rw [hf]
  obtain ⟨hdk, hpair, hsrc, hhold⟩ := react_severe s (det % 8192) h3 (faultRecord s sev false []
    (raiseEv (448 + sev) p .hoop (pmcRaw (226 + sev) 1 (capture s sev false (x.setSrc s v)))))
  refine ⟨?_, ?_, ?_, hhold⟩
  · rw [hdk, faultRecord_dk, Hoop.dk_of_shown (htold _), capture_dk]
    rfl
  · rw [hpair, faultRecord_pair, Hoop.pair_of_shown (htold _), capture_pair]
    rfl
  · have hset : Hoop.OnlySrc s x (capture s sev false (x.setSrc s v)) :=
      Hoop.OnlySrc.trans (Hoop.setSrc_onlySrc _ _ _) (Hoop.onlySrc_of_eq (capture_fc_src ..))
    have hev := Hoop.OnlySrc.trans hset (Hoop.onlySrc_of_eq (congrArg Fc.src (Hoop.fc_of_shown (htold _))))
    exact Hoop.OnlySrc.trans (Hoop.OnlySrc.trans hev (faultRecord_onlySrc _ _ _ _ _)) (Hoop.onlySrc_of_eq hsrc)

/-! ## The row -/

/-- The sources of the groups and of the front ends are of S1 (R276). -/
theorem sevOf_plane (k : Nat) (hk : k < 43) : sevOf (64 + k) = some 1 := by
  revert k
  decide

theorem plane_of_severe {s sev : Nat} (hs : sevOf s = some sev) (h3 : 3 ≤ sev) : ¬(64 ≤ s ∧ s ≤ 106) := by
  rintro ⟨hlo, hhi⟩
  have h1 := sevOf_plane (s - 64) (by omega)
  rw [Nat.add_sub_cancel' hlo, hs, Option.some_inj] at h1
  omega

theorem hasSrc_of_severe {s sev : Nat} (x : Hoop) (hs : sevOf s = some sev) (h3 : 3 ≤ sev) : x.hasSrc s = true := by
  have hn : decide (64 ≤ s ∧ s ≤ 105) = false := decide_eq_false fun h => plane_of_severe hs h3 (by omega)
  rw [Hoop.hasSrc, hs, hn]
  rfl

/-- The row of a source of no group is the operation in its own hoop. -/
theorem railsRow_ungrouped {h : HoopId} {src : Nat} {f : Hoop → Hoop} {s : State} (hg : ¬(64 ≤ src ∧ src ≤ 105)) :
    railsRow h src f s = s.act h f := by
  have hl (t : State) : lostToBoth h (fun x => if 64 ≤ src ∧ src ≤ 105 then loseGroup (src - 64) x else x) s t = t := by
    unfold lostToBoth
    exact iteInduction (motive := (· = t)) (fun _ => State.upd_id _ _ _ (if_neg hg)) fun _ => rfl
  rw [railsRow, hl, State.act]

theorem railsOn_severe {s sev : Nat} (det : Nat) {x : Hoop} (hs : sevOf s = some sev) (h3 : 3 ≤ sev) :
    railsOn s det x = (fault s det x).setSrc s { (fault s det x).src s with agree := false } := by
  have hp := plane_of_severe hs h3
  unfold railsOn
  rw [hasSrc_of_severe x hs h3, Bool.not_true, if_neg (by decide)]
  dsimp only
  unfold planeFault
  rw [if_neg (by omega), if_neg (by omega)]
  rfl

/-- What an asserted fault of S3 or S4 makes of its hoop: the source live and alone in what it changes of the sources, FAULT_N held. -/
theorem railsOn_severe_effect {s sev : Nat} (det : Nat) {x : Hoop} (hs : sevOf s = some sev) (h3 : 3 ≤ sev) (hl : (x.src s).live = false) :
    s ∈ (railsOn s det x).liveSev sev ∧ Hoop.OnlySrc s x (railsOn s det x) ∧ (railsOn s det x).dk = { x.dk with relAccepted := false } ∧
      (railsOn s det x).pair = x.pair ∧ (railsOn s det x).fc.hold = true := by
  obtain ⟨hdk, hpair, honly, hhold⟩ := fault_severe det hs h3 (hasSrc_of_severe x hs h3) hl
  rw [railsOn_severe det hs h3]
  refine ⟨Hoop.mem_liveSev ?_ hs, Hoop.OnlySrc.trans honly (Hoop.setSrc_onlySrc _ _ _), hdk, hpair, hhold⟩
  rw [Hoop.setSrc_src_self]
  exact fault_live det (hasSrc_of_severe x hs h3)

theorem exec_faultAssert (h : HoopId) (src det : Nat) (s : State) : exec (.faultAssert h src det) s = .next (railsRow h src (railsOn src det) s) :=
  rfl

theorem exec_faultAssert_severe {h : HoopId} {src sev : Nat} (det : Nat) (s : State) (hs : sevOf src = some sev) (h3 : 3 ≤ sev) :
    exec (.faultAssert h src det) s = .next (s.act h (railsOn src det)) :=
  (exec_faultAssert ..).trans (congrArg Host.Outcome.next (railsRow_ungrouped fun hg => plane_of_severe hs h3 (by omega)))

/-! ## S4: every hoop is forced -/

theorem Hoop.crossLine_of_live {x : Hoop} {c : Nat} (h : c ∈ x.liveSev 4) : x.crossLine ≠ none := by
  unfold Hoop.crossLine
  split
  · exact Option.some_ne_none _
  · rw [Ne, List.head?_eq_none_iff]
    exact List.ne_nil_of_mem h

/-- A hoop's answer to S4: to its own line, or to the other hoop's, of source `c` (R283). -/
def crossed (c : Nat) (x : Hoop) : Hoop :=
  match x.crossLine with
  | some k => engage k 4 false x
  | none => engage c 4 true x

theorem crossed_force (c : Nat) (x : Hoop) : (crossed c x).dk.force = true := by
  unfold crossed
  split <;> exact engage_force ..

theorem crossed_part (c : Nat) (x : Hoop) : (crossed c x).part = x.part := by
  unfold crossed
  split <;> exact congrArg Prod.fst (engage_site ..)

theorem settleS4_forces {s : State} {h : HoopId} (hh : h ∈ s.hoops) (hc : (s.hoop h).crossLine ≠ none) {k : HoopId} (hk : k ∈ s.hoops) :
    (settleS4 s).Forced k := by
  unfold settleS4
  split
  next hn =>
    rw [List.filterMap_eq_nil_iff] at hn
    exact absurd (hn h hh) hc
  next c _ _ => exact (congrArg (·.dk.force) (State.each_hoop s (crossed c) (crossed_part c) hk)).trans (crossed_force c _)

/-! ## S3 in a single-hoop part -/

/-- The module before its hoops act on their S3. -/
def beforeS3 (s : State) : State := settleHo (settleRel (settleS4 s))

theorem beforeS3_lines (s : State) (k : HoopId) : ((beforeS3 s).hoop k).lines = (s.hoop k).lines := by simp [beforeS3]

theorem beforeS3_part (s : State) : (beforeS3 s).a.part = s.a.part := by
  have hf : (beforeS3 s).frame = s.frame := by rw [beforeS3, settleHo_frame, settleRel_frame, settleS4_frame]
  exact congrArg Prod.fst ((State.frame_iff.mp hf).2 .hoopA)

theorem head?_of_mem {l : List Nat} {c : Nat} (h : c ∈ l) : ∃ d, l.head? = some d := by
  cases l with
  | nil => exact absurd h List.not_mem_nil
  | cons d l => exact ⟨d, rfl⟩

theorem settleS3_forces_single {s : State} {h : HoopId} {c : Nat} (hd : Config.duplex s.a.part = false) (hh : s.has h = true)
    (hc : c ∈ (s.hoop h).liveSev 3) : (settleS3 s h).Forced h := by
  obtain ⟨d, hhead⟩ := head?_of_mem hc
  unfold settleS3
  dsimp only
  rw [hhead, hd]
  exact (congrArg (·.dk.force) (State.upd_self s h (engage d 3 false) hh)).trans (engage_force ..)

theorem reacted_forces_single {s : State} {c : Nat} (hd : Config.duplex s.a.part = false) (hc : c ∈ s.a.liveSev 3) : (reacted s).Forced .hoopA := by
  have hd' : Config.duplex (beforeS3 s).a.part = false := by rw [beforeS3_part, hd]
  have hl : (beforeS3 s).hoops = [.hoopA] := if_neg (by rw [hd']; decide)
  have hr : reacted s = settleS3 (beforeS3 s) .hoopA := congrArg (List.foldl settleS3 (beforeS3 s)) hl
  rw [hr]
  refine settleS3_forces_single hd' rfl (c := c) ?_
  rw [Hoop.liveSev_of_lines (beforeS3_lines s .hoopA)]
  exact hc

/-! ## S3 of one hoop of the QN-0512D -/

theorem State.quiet_at {s : State} (q : s.quiet = true) {k : HoopId} (hk : k ∈ s.hoops) :
    (s.hoop k).lineOn = false ∧ (s.hoop k).dk.fcPar = false := by
  simp only [State.quiet, Bool.and_eq_true, List.all_eq_true, Bool.not_eq_true'] at q
  exact q.1 k hk

theorem State.quiet_ho {s : State} (q : s.quiet = true) : s.duo.ho = none := by
  simp only [State.quiet, Bool.and_eq_true, Option.isNone_iff_eq_none] at q
  exact q.2

theorem settleS3_idle {s : State} {h : HoopId} (hn : (s.hoop h).liveSev 3 = []) : settleS3 s h = s := by
  unfold settleS3
  dsimp only
  rw [hn]
  rfl

/-- Where the other hoop has no S3, the reactions to S3 are those of the one hoop. -/
theorem reacted_lone {s : State} {h : HoopId} (hd : Config.duplex s.a.part = true) (ho : (s.hoop (other h)).liveSev 3 = []) :
    reacted s = settleS3 (beforeS3 s) h := by
  have hl : (beforeS3 s).hoops = [.hoopA, .hoopB] := if_pos (by rw [beforeS3_part, hd])
  have hr : reacted s = settleS3 (settleS3 (beforeS3 s) .hoopA) .hoopB := congrArg (List.foldl settleS3 (beforeS3 s)) hl
  rw [hr]
  cases h with
  | hoopA =>
    refine settleS3_idle ?_
    rw [Hoop.liveSev_of_lines ((settleS3_lines (beforeS3 s) .hoopA .hoopB).trans (beforeS3_lines s .hoopB))]
    exact ho
  | hoopB =>
    refine congrArg (settleS3 · .hoopB) (settleS3_idle ?_)
    rw [Hoop.liveSev_of_lines (beforeS3_lines s .hoopA)]
    exact ho

/-- The hoop with no dark release accepted. -/
def unaccepted (x : Hoop) : Hoop := { x with dk := { x.dk with relAccepted := false } }

/-- Without an S4 or a parity error and without a hand-over, a live S3 undoes an accepted dark release, and nothing else (R291). -/
theorem beforeS3_hoop {s : State} (h4 : ∀ k ∈ s.hoops, (s.hoop k).crossLine = none) (hho : s.duo.ho = none) {h : HoopId} (hh : h ∈ s.hoops)
    (hl : (s.hoop h).lineOn = true) : (beforeS3 s).duo = s.duo ∧ ∀ k ∈ s.hoops, (beforeS3 s).hoop k = unaccepted (s.hoop k) := by
  have e4 : settleS4 s = s := by
    unfold settleS4
    rw [List.filterMap_eq_nil_iff.mpr h4]
  have er : settleRel s = s.hoops.foldl (fun s h => s.upd h unaccepted) s := if_pos (List.any_eq_true.mpr ⟨h, hh, hl⟩)
  have hduo : (settleRel s).duo = s.duo := by
    rw [er]
    exact foldl_keeps State.duo _ (fun _ _ => State.upd_duo ..) _ s
  have eh : settleHo (settleRel s) = settleRel s := by
    unfold settleHo
    rw [hduo, hho]
  rw [beforeS3, e4, eh]
  refine ⟨hduo, fun k hk => ?_⟩
  rw [er, State.each_hoop s unaccepted (fun _ => rfl) hk]

/-- An S3 in the holder asks for a hand-over where the standby is eligible, and darks the module where it is not (R283, R320). -/
theorem settleS3_holder {s : State} {h : HoopId} {c : Nat} (hd : Config.duplex s.a.part = true) (hc : ((s.hoop h).liveSev 3).head? = some c)
    (hr : (s.hoop h).pair.role = .active) (hf : (s.hoop h).dk.force = false) (hho : s.duo.ho = none) :
    settleS3 s h = if (s.hoop (other h)).eligFault then
      (s.upd h cutWindows).setDuo { s.duo with ho := some { kind := 1, fromB := (s.hoop h).isB, cause := BitVec.ofNat 16 c, request := (s.hoop h).now
                                                            element := 0x1FFF, cutTiles := openTiles (s.hoop h) } }
    else s.hoops.foldl (fun t k => t.upd k (fun y => engage c 3 (y.isB != (s.hoop h).isB) y)) s := by
  unfold settleS3
  dsimp only
  rw [hc]
  dsimp only
  rw [hd, hr, hf, hho]
  rfl

/-! ## The statement O40 -/

theorem railsOn_part (src det : Nat) (x : Hoop) : (railsOn src det x).part = x.part := congrArg Prod.fst (railsOn_site ..)

theorem railsOn_isB (src det : Nat) (x : Hoop) : (railsOn src det x).isB = x.isB := congrArg Prod.snd (railsOn_site ..)

theorem railsOn_severe_tb {src sev : Nat} (det : Nat) {x : Hoop} (hs : sevOf src = some sev) (h3 : 3 ≤ sev) : (railsOn src det x).tb = x.tb := by
  rw [railsOn_severe det hs h3]
  exact fault_tb ..

theorem State.act_hoops (s : State) (h : HoopId) {f : Hoop → Hoop} (hf : ∀ x, (f x).site = x.site) : (s.act h f).hoops = s.hoops :=
  State.hoops_of_part (congrArg Prod.fst ((State.frame_iff.mp (State.act_frame s h f hf)).2 .hoopA))

theorem State.upd_hoops (s : State) (h : HoopId) {f : Hoop → Hoop} (hf : ∀ x, (f x).site = x.site) : (s.upd h f).hoops = s.hoops :=
  State.hoops_of_part (congrArg Prod.fst ((State.frame_iff.mp (State.upd_frame s h f hf)).2 .hoopA))

section
variable {s : State} {h : HoopId} {src sev : Nat} (det : Nat) (hh : s.has h = true) (hs : sevOf src = some sev) (h3 : 3 ≤ sev)
  (hl : ((s.hoop h).src src).live = false)
include hh hs h3 hl

/-- A new fault of S3 or S4 holds FAULT_N low (R285). -/
theorem severe_faultN : (s.act h (railsOn src det)).balls.faultN = false := by
  refine State.faultN_of_held (act_pinsWf ..) ((State.act_hoops s h (railsOn_site src det)) ▸ has_mem hh) (.inl ?_)
  have hlines := act_lines s h (railsOn src det) hh
  obtain ⟨-, -, -, -, hhold⟩ := railsOn_severe_effect det hs h3 hl
  exact (congrArg Fc.hold hlines).trans hhold

theorem severe_live : src ∈ ((s.upd h (railsOn src det)).hoop h).liveSev sev := by
  rw [State.upd_self s h _ hh]
  exact (railsOn_severe_effect det hs h3 hl).1

end

theorem s4_forces {s : State} {h k : HoopId} {src : Nat} (det : Nat) (hh : s.has h = true) (hs : sevOf src = some 4)
    (hl : ((s.hoop h).src src).live = false) (hk : k ∈ s.hoops) : (s.act h (railsOn src det)).Forced k := by
  have hu := State.upd_hoops s h (railsOn_site src det)
  exact settle_forced_of_reacted (reacted_forced (settleS4_forces (hu ▸ has_mem hh)
    (Hoop.crossLine_of_live (severe_live det hh hs (by decide) hl)) (hu ▸ hk)))

theorem s3_forces_single {s : State} {h : HoopId} {src : Nat} (det : Nat) (hh : s.has h = true) (hs : sevOf src = some 3)
    (hl : ((s.hoop h).src src).live = false) (hd : Config.duplex s.a.part = false) :
    h = .hoopA ∧ (s.act h (railsOn src det)).Forced .hoopA := by
  cases h with
  | hoopB => exact absurd (hh.symm.trans hd) (by decide)
  | hoopA =>
    have hp : (s.upd .hoopA (railsOn src det)).a.part = s.a.part :=
      (congrArg Hoop.part (State.upd_self s .hoopA (railsOn src det) hh)).trans (railsOn_part ..)
    exact ⟨rfl, settle_forced_of_reacted (reacted_forces_single (hp.symm ▸ hd) (severe_live det hh hs (by decide) hl))⟩

theorem State.mem_hoops_of_duplex {s : State} (hd : Config.duplex s.a.part = true) (k : HoopId) : k ∈ s.hoops := by
  rw [State.hoops, if_pos hd]
  cases k <;> decide

theorem Hoop.crossLine_none {x : Hoop} (hp : x.dk.fcPar = false) (hl : x.liveSev 4 = []) : x.crossLine = none := by
  rw [Hoop.crossLine, hp, hl]
  rfl

theorem not_live_of_quiet {s : State} {h : HoopId} {src : Nat} (q : s.quiet = true) (hh : s.has h = true) (hs : sevOf src = some 3) :
    ((s.hoop h).src src).live = false := by
  refine Bool.eq_false_iff.mpr fun hl => ?_
  have hm := Hoop.mem_liveSev hl hs
  rw [(lineOn_false _ (State.quiet_at q (has_mem hh)).1).1] at hm
  exact absurd hm List.not_mem_nil

/-- In a hoop without S3 and S4, a new S3 is the one S3, and no S4 comes with it. -/
theorem railsOn_lone {src : Nat} (det : Nat) {x : Hoop} (hs : sevOf src = some 3) (hx : x.lineOn = false) (hl : (x.src src).live = false) :
    ((railsOn src det x).liveSev 3).head? = some src ∧ (railsOn src det x).liveSev 4 = [] ∧ (railsOn src det x).lineOn = true := by
  obtain ⟨hm, honly, -⟩ := railsOn_severe_effect det hs (by decide) hl
  obtain ⟨h3, h4⟩ := lineOn_false x hx
  refine ⟨?_, List.eq_nil_iff_forall_not_mem.mpr fun j hj => ?_, ?_⟩
  · obtain ⟨d, hd⟩ := head?_of_mem hm
    rw [hd, (Hoop.liveSev_only h3 honly (List.mem_of_head? hd)).1]
  · obtain ⟨rfl, hj4⟩ := Hoop.liveSev_only h4 honly hj
    exact absurd (hs.symm.trans hj4) (by decide)
  · have hne : ((railsOn src det x).liveSev 3).isEmpty = false := List.isEmpty_eq_false_iff.mpr (List.ne_nil_of_mem hm)
    rw [Hoop.lineOn, hne]
    rfl

/-- What an S3 of one hoop finds when its turn comes, in a module that was quiet. -/
theorem s3_turn {s : State} {h : HoopId} {src : Nat} (det : Nat) (hh : s.has h = true) (hs : sevOf src = some 3) (q : s.quiet = true)
    (hd : Config.duplex s.a.part = true) : ∃ v, reacted (s.upd h (railsOn src det)) = settleS3 v h ∧ Config.duplex v.a.part = true ∧
      v.duo.ho = none ∧ v.hoop h = unaccepted (railsOn src det (s.hoop h)) ∧ v.hoop (other h) = unaccepted (s.hoop (other h)) ∧
      ((v.hoop h).liveSev 3).head? = some src := by
  have hx := State.quiet_at q (has_mem hh)
  have hy := State.quiet_at q (State.mem_hoops_of_duplex hd (other h))
  have hl := not_live_of_quiet q hh hs
  have eh : (s.upd h (railsOn src det)).hoop h = railsOn src det (s.hoop h) := State.upd_self s h _ hh
  have eo : (s.upd h (railsOn src det)).hoop (other h) = s.hoop (other h) := State.upd_other s h _
  have hu := State.upd_hoops s h (railsOn_site src det)
  have hd' : Config.duplex (s.upd h (railsOn src det)).a.part = true := by
    have hp : (s.upd h (railsOn src det)).a.part = s.a.part :=
      congrArg Prod.fst ((State.frame_iff.mp (State.upd_frame s h _ (railsOn_site src det))).2 .hoopA)
    rw [hp, hd]
  obtain ⟨hhead, h4, hon⟩ := railsOn_lone det hs hx.1 hl
  obtain ⟨-, -, hdk, -⟩ := railsOn_severe_effect (x := s.hoop h) det hs (by decide) hl
  have hcross : ∀ k ∈ (s.upd h (railsOn src det)).hoops, ((s.upd h (railsOn src det)).hoop k).crossLine = none := fun k _ => by
    rcases HoopId.eq_or_other h k with rfl | rfl
    · rw [eh]
      exact Hoop.crossLine_none ((congrArg Dk.fcPar hdk).trans hx.2) h4
    · rw [eo]
      exact Hoop.crossLine_none hy.2 (lineOn_false _ hy.1).2
  obtain ⟨hduo, hhoop⟩ := beforeS3_hoop hcross ((congrArg Duo.ho (State.upd_duo ..)).trans (State.quiet_ho q)) (hu ▸ has_mem hh)
    ((congrArg Hoop.lineOn eh).trans hon)
  have mem (k : HoopId) : k ∈ (s.upd h (railsOn src det)).hoops := hu ▸ State.mem_hoops_of_duplex hd k
  have vh := (hhoop h (mem h)).trans (congrArg unaccepted eh)
  refine ⟨_, reacted_lone hd' ?_, ?_, ?_, vh, (hhoop _ (mem _)).trans (congrArg unaccepted eo), ?_⟩
  · rw [eo]
    exact (lineOn_false _ hy.1).1
  · rw [beforeS3_part, hd']
  · rw [hduo, State.upd_duo]
    exact State.quiet_ho q
  · rw [vh]
    exact hhead

theorem unaccepted_eligFault (x : Hoop) : (unaccepted x).eligFault = x.eligFault := rfl

theorem State.has_of_duplex {s : State} (hd : Config.duplex s.a.part = true) (h : HoopId) : s.has h = true := by
  cases h with
  | hoopA => rfl
  | hoopB => exact hd

/-- The hand-over that an S3 of the holder asks for (R320). -/
def faultHandOver (src : Nat) (x : Hoop) : HandOver :=
  { kind := 1, fromB := x.isB, cause := BitVec.ofNat 16 src, request := x.now, element := 0x1FFF, cutTiles := openTiles x }

/-- The reaction to a new S3 of the holder, in a module that was quiet (R283, R320). -/
theorem s3_holder {s : State} {h : HoopId} {src : Nat} (det : Nat) (hh : s.has h = true) (hs : sevOf src = some 3) (q : s.quiet = true)
    (hd : Config.duplex s.a.part = true) (hr : (s.hoop h).pair.role = .active) (hf : (s.hoop h).dk.force = false) :
    ∃ v : State, Config.duplex v.a.part = true ∧ v.hoop h = unaccepted (railsOn src det (s.hoop h)) ∧
      reacted (s.upd h (railsOn src det)) = if (s.hoop (other h)).eligFault then
          (v.upd h cutWindows).setDuo { v.duo with ho := some (faultHandOver src (v.hoop h)) }
        else v.hoops.foldl (fun t k => t.upd k (fun y => engage src 3 (y.isB != (v.hoop h).isB) y)) v := by
  obtain ⟨v, hv, hvd, hho, vh, vo, hhead⟩ := s3_turn det hh hs q hd
  obtain ⟨-, -, hdk, hpair, -⟩ := railsOn_severe_effect (x := s.hoop h) det hs (by decide) (not_live_of_quiet q hh hs)
  have hrole : (v.hoop h).pair.role = .active := by
    rw [vh]
    exact (congrArg Pair.role hpair).trans hr
  have hforce : (v.hoop h).dk.force = false := by
    rw [vh]
    exact (congrArg Dk.force hdk).trans hf
  have hel : (v.hoop (other h)).eligFault = (s.hoop (other h)).eligFault := by rw [vo, unaccepted_eligFault]
  exact ⟨v, hvd, vh, hv.trans ((settleS3_holder hvd hhead hrole hforce hho).trans (by rw [hel]; rfl))⟩

/-- Settles O40: S4 reaches every keeper over the cross line, S3 the keeper of a single hoop, and in the QN-0512D the other hoop's eligibility decides
between a hand-over and a module dark. -/
theorem faultReactions : Obligations.FaultReactions := by
  unfold Obligations.FaultReactions
  refine ⟨fun s h x src det e hs hl => ?s4, fun s h x src det e hs hl hd => ?single, fun s h x src det e q hs hd hr hf he => ?handover,
    fun s h x src det e q hs hd hr he => ?dark⟩
  case s4 =>
    obtain ⟨hh, rfl⟩ := e
    have ht := State.act_hoops s h (railsOn_site src det)
    have hforced : ∀ k ∈ (s.act h (railsOn src det)).hoops, (s.act h (railsOn src det)).Forced k := fun k hk => s4_forces det hh hs hl (ht ▸ hk)
    have hp := act_pinsWf s h (railsOn src det)
    refine ⟨_, exec_faultAssert_severe det s hs (by decide), fun k hk => ?_, State.darkN_of_forced hp hforced, severe_faultN det hh hs (by decide) hl⟩
    have hk' : k ∈ (s.act h (railsOn src det)).hoops := ht ▸ has_mem hk
    exact ⟨hforced k hk', State.vouch_of_forced hp hk' (hforced k hk')⟩
  case single =>
    obtain ⟨hh, rfl⟩ := e
    obtain ⟨rfl, hforced⟩ := s3_forces_single det hh hs hl hd
    refine ⟨_, exec_faultAssert_severe det s hs (by decide), hforced, ?_, severe_faultN det hh hs (by decide) hl⟩
    refine State.darkN_of_forced (act_pinsWf ..) fun k hk => ?_
    rw [State.act_hoops s .hoopA (railsOn_site src det), State.hoops, if_neg (by rw [hd]; decide)] at hk
    rw [List.mem_singleton.mp hk]
    exact hforced
  case handover =>
    obtain ⟨hh, rfl⟩ := e
    have hl := not_live_of_quiet q hh hs
    obtain ⟨v, hvd, vh, hreact⟩ := s3_holder det hh hs q hd hr hf
    rw [if_pos he] at hreact
    obtain ⟨-, -, hdk, -⟩ := railsOn_severe_effect (x := s.hoop h) det hs (by decide) hl
    have hho : (s.act h (railsOn src det)).duo.ho = some (faultHandOver src (v.hoop h)) :=
      congrArg Duo.ho ((settle_duo_reacted _).trans (congrArg State.duo hreact))
    refine ⟨_, _, exec_faultAssert_severe det s hs (by decide), hho, rfl, ?_, rfl, ?_, ?_, severe_faultN det hh hs (by decide) hl⟩
    · exact (congrArg Hoop.isB vh).trans (railsOn_isB ..)
    · exact (congrArg Hoop.now vh).trans (congrArg Tb.now (railsOn_severe_tb det hs (by decide)))
    · have hcut : (reacted (s.upd h (railsOn src det))).hoop h = cutWindows (v.hoop h) := by
        rw [hreact, State.setDuo_hoop, State.upd_self v h _ (State.has_of_duplex hvd h)]
      have hk : ((settle (s.upd h (railsOn src det))).hoop h).keeper = (v.hoop h).keeper :=
        (Hoop.keeper_of_core (settle_core_reacted ..)).trans ((congrArg Hoop.keeper hcut).trans (Hoop.keeper_of_dk rfl))
      refine (Hoop.force_of_keeper hk).trans ?_
      rw [vh]
      exact (congrArg Dk.force hdk).trans hf
  case dark =>
    obtain ⟨hh, rfl⟩ := e
    have hl := not_live_of_quiet q hh hs
    refine ⟨_, exec_faultAssert_severe det s hs (by decide), fun hf k => ?_, severe_faultN det hh hs (by decide) hl⟩
    obtain ⟨v, hvd, -, hreact⟩ := s3_holder det hh hs q hd hr hf
    rw [if_neg (by rw [he]; decide)] at hreact
    refine settle_forced_of_reacted ?_
    have hk := State.each_hoop v (fun y => engage src 3 (y.isB != (v.hoop h).isB) y) (fun x => congrArg Prod.fst (engage_site ..))
      (State.mem_hoops_of_duplex hvd k)
    rw [hreact]
    exact (congrArg (·.dk.force) hk).trans (engage_force ..)

/-! ## The statement O39 -/

/-- A part with 19 groups, as reset leaves it: it has no source 105, though the number has a severity (R4, R276). -/
def fewGroups : State := { State.reset with a := { part := .qn0256 } }

theorem fewGroups_source : fewGroups.a.hasSrc 105 = false := by decide

theorem fewGroups_assert : exec (.faultAssert .hoopA 105 0) fewGroups = .next (settle fewGroups) := by
  have hu : fewGroups.upd .hoopA (railsOn 105 0) = fewGroups := by
    refine State.upd_id _ _ _ (if_pos ?_)
    show (!fewGroups.a.hasSrc 105) = true
    rw [fewGroups_source]
    rfl
  have hl : lostToBoth .hoopA (fun x => if 64 ≤ 105 ∧ 105 ≤ 105 then loseGroup (105 - 64) x else x) fewGroups fewGroups = fewGroups :=
    if_neg (by rw [show Config.duplex fewGroups.a.part = false from rfl]; decide)
  rw [exec_faultAssert, railsRow, hu, hl]

/-- Refutes O39: its first clause asks every source with a severity to assert, and a source of a group that the part does not have never does
(R4, R276): source 105, of group 41, in a QN-0256. -/
theorem not_collectorRows : ¬ Obligations.CollectorRows := by
  unfold Obligations.CollectorRows
  rintro ⟨hassert, -⟩
  obtain ⟨t, ht, hlive, -⟩ := hassert fewGroups .hoopA fewGroups.a 105 0 1 ⟨rfl, rfl⟩ (by decide)
  have he : settle fewGroups = t := Host.Outcome.next.inj (fewGroups_assert.symm.trans ht)
  rw [← he, Hoop.src_of_lines (settle_lines fewGroups .hoopA)] at hlive
  exact absurd hlive (by decide)

end Sys2Proof.Machine
end

section
/-!
SUPPORT. The dark keeper's own checks, and the end of a module dark: the statement O41.
-/

namespace Sys2Proof.Machine
open Sys2Proof

/-! ## The keeper's own checks (R284, R288) -/

theorem Hoop.dk_of_calm {x y : Hoop} (h : x.calm = y.calm) : x.dk.calm = y.dk.calm := congrArg Hoop.dk h

theorem parityError_fcPar (x : Hoop) : (parityError x).dk.fcPar = true := (congrArg Dk.fcPar (Hoop.dk_of_calm (engage_calm ..)) :)

theorem parityError_force (x : Hoop) : (parityError x).dk.force = true := engage_force ..

/-- A latch check that fails raises source 26 with ARMED clear. -/
theorem keeperCheck_fails {flipped : Bool} {x : Hoop} (ha : (x.dk.armed || x.dk.imageBad) = true)
    (hb : (x.dk.imageBad || flipped || keeperCrc x x.dk.codes != x.dk.crc) = true) :
    keeperCheck flipped x = fault 26 noDet { x with dk := { x.dk with imageBad := true, armed := false } } := by
  rw [keeperCheck, if_pos ha, if_pos hb]

/-- One that passes ends source 26. -/
theorem keeperCheck_passes {x : Hoop} (hi : x.dk.imageBad = false) (hc : keeperCrc x x.dk.codes = x.dk.crc) :
    keeperCheck false x = faultOff 26 x := by
  unfold keeperCheck
  rw [hi, hc, bne_self_eq_false]
  exact ite_self _

/-! ## DARK_RELEASE (R291) -/

/-- The darks of every eyelet leave the sources and the collector's parity. -/
theorem darkAll_still (x : Hoop) : (darkAll x).board.still = x.board.still := by
  unfold darkAll
  generalize ({ x.tmb with darkReq := (List.range x.n).foldl (fun b i => b ||| BitVec.twoPow 512 i) x.tmb.darkReq } : Tmb) = t
  cases ht : takes { x with tmb := t } 0x10 with
  | none =>
    unfold eyeletDark
    rw [ht]
    rfl
  | some o =>
    rw [Hoop.board_of_core (eyeletDark_core ht), opDone_still]
    exact (congrArg Board.still (darksDone_serving { x with tmb := t }).recast.board).trans rfl

/-- A quiet module stays quiet under an effect that leaves those. -/
theorem quiet_upd_still (s : State) (h : HoopId) (f : Hoop → Hoop) (q : s.quiet = true) (hf : ∀ x, (f x).board.still = x.board.still) :
    (s.upd h f).quiet = true :=
  quiet_upd s h f q (congrArg Prod.fst (hf _)) (congrArg (·.2.1) (hf _)) (congrArg (·.2.2) (hf _))

theorem quiet_each_still {f : Hoop → Hoop} (hf : ∀ x, (f x).board.still = x.board.still) {l : List HoopId} {s : State} (q : s.quiet = true) :
    (l.foldl (fun s k => s.upd k f) s).quiet = true :=
  List.foldlRecOn (motive := fun t : State => t.quiet = true) l _ q fun t ht k _ => quiet_upd_still t k f ht hf

theorem darkReleaseRun_quiet (h : HoopId) {s : State} (q : s.quiet = true) : (darkReleaseRun h s).quiet = true := by
  unfold darkReleaseRun
  split
  · exact quiet_each_still darkAll_still q
  · exact q

theorem releasable_of_core {x y : Hoop} (h : x.core = y.core) : releasable x = releasable y := by
  have e := congrArg releasable h; exact e

theorem moduleDark_of_core {x y : Hoop} (h : x.core = y.core) (p : Hoop) : moduleDark x p = moduleDark y p := by
  have e := congrArg (moduleDark · p) h; exact e

theorem adminOk_core (k : Ctx) (x y : Hoop) : (adminOk k x y).2.core = y.core := (raiseEv_core ..).trans (jnlPut_core ..)

/-- Every hoop that the command's hoop knows of may be released. -/
def allReleasable (x peer : Hoop) : Bool := releasable x && (!Config.duplex x.part || releasable peer)

/-- DARK_RELEASE in a dark module is accepted where every hoop may be released. -/
theorem darkRelease_accepts {x : Hoop} (k : Ctx) (hm : moduleDark x k.peer = true) (hr : allReleasable x k.peer = true) :
    (darkReleaseVerb.run k x).2.core = ({ x with dk := { x.dk with relAccepted := true } } : Hoop).core := by
  have hrun : darkReleaseVerb.run k x = adminOk k x { x with dk := { x.dk with relAccepted := true } } :=
    (if_neg (by rw [hm]; decide)).trans (if_pos hr)
  rw [hrun, adminOk_core]

/-- Elsewhere it changes nothing. -/
theorem darkRelease_refuses {x : Hoop} (k : Ctx) (hm : moduleDark x k.peer = true) (hr : allReleasable x k.peer = false) :
    (darkReleaseVerb.run k x).2 = x := by
  have hrun : darkReleaseVerb.run k x = ({ status := 14 }, x) := (if_neg (by rw [hm]; decide)).trans (if_neg (Bool.eq_false_iff.mp hr))
  rw [hrun]

/-- A command served in a quiet module leaves the core that its own effect leaves, where that keeps the module quiet. -/
theorem serve_core_still {u : State} {h : HoopId} {r op : Nat} {c : ReadCmd} {v : Verb} {z : Hoop} (p : passes u h r op c v = true)
    (q : u.quiet = true) (hz : (ran u h r op c v).2.core = z.core) (hs : z.board.still = (u.hoop h).board.still) :
    ((u.serve h r op v).hoop h).core = z.core := by
  have hb : (ran u h r op c v).2.board.still = (u.hoop h).board.still := (congrArg Board.still (Hoop.board_of_core hz)).trans hs
  exact (serve_core u h r op c v p q (congrArg Prod.fst hb) (congrArg (·.2.1) hb) (congrArg (·.2.2) hb)).trans hz

theorem exec_darkRelease (h : HoopId) (s : State) : exec (.darkRelease h 0) s = .next ((darkReleaseRun h s).serve h 0 0x51 darkReleaseVerb) := rfl

/-- The hoop as DARK_RELEASE's own checks find it. -/
theorem darkRelease_finds {u : State} {h : HoopId} (hm : moduleDark (u.hoop h) (u.hoop (other h)) = true) :
    moduleDark (breakRun 0 0x51 (u.hoop h)) (u.hoop (other h)) = true ∧
      allReleasable (breakRun 0 0x51 (u.hoop h)) (u.hoop (other h)) = allReleasable (u.hoop h) (u.hoop (other h)) := by
  have hc := breakRun_core 0 0x51 (u.hoop h)
  refine ⟨(moduleDark_of_core hc _).trans hm, ?_⟩
  rw [allReleasable, allReleasable, releasable_of_core hc, breakRun_part]

/-! ## FORCE_RELEASE (R291) -/

/-- The hoop with its force ended and its windows closed, before this is told. -/
def unforced (x : Hoop) : Hoop :=
  { x with dk := { x.dk with force := false, relAccepted := false, relTime := x.stamp }, fc := { x.fc with dark := false }
           drv := { x.drv with tiles := (eyeTiles x).foldl (fun m t => smUpd {} m t (fun v => { v with win := none })) x.drv.tiles } }

theorem unforce_core {x : Hoop} (hf : x.dk.force = true) : (unforce x).core = (unforced x).core := by
  unfold unforce
  rw [hf, if_neg (by decide)]
  exact (raiseEv_core ..).trans ((msixSend_core ..).trans (jnlPut_core ..))

theorem unforced_still (x : Hoop) : (unforced x).board.still = x.board.still := rfl

theorem unforce_still (x : Hoop) : (unforce x).board.still = x.board.still := by
  by_cases hf : x.dk.force = true
  · rw [Hoop.board_of_core (unforce_core hf), unforced_still]
  · rw [unforce, if_pos (by rw [Bool.eq_false_iff.mpr hf]; rfl)]

/-- Every hoop's force ends once a release is accepted and no S3 or S4 is live. -/
theorem exec_forceRelease {s : State} {h : HoopId} (hh : s.has h = true) (q : s.quiet = true) (hr : (s.hoop h).dk.relAccepted = true) :
    exec (.forceRelease h) s = .next (settle (s.hoops.foldl (fun s k => s.upd k unforce) s)) := by
  have hq : s.hoops.any (fun k => (s.hoop k).lineOn) = false := List.any_eq_false.mpr fun k hk => Bool.eq_false_iff.mp (State.quiet_at q hk).1
  exact congrArg (fun t => Host.Outcome.next (settle t)) (if_pos (by rw [hh, hr, hq]; rfl))

theorem Dk.eq_of_core {a b : Dk} (h : a.core = b.core) : a = { b with vouch := a.vouch } := by
  cases a
  cases b
  simp only [Dk.core, Dk.mk.injEq] at h ⊢
  tauto

/-- Settles O41: what each row does to its keeper stands through `settle`, which in a quiet module leaves every core as it is. -/
theorem keeperRows : Obligations.KeeperRows := by
  unfold Obligations.KeeperRows
  refine ⟨fun s h x e => ?parity, fun s h x flipped e ha hb => ?fails, fun s h x e hi hc => ?passes, fun s h c u q hu p hm hr hpeer => ?accepted,
    fun s h c u q hu p hm hr => ?refused, fun s h x k e hk q hr hf => ?release⟩
  case parity =>
    obtain ⟨hh, rfl⟩ := e
    have hpar : ((s.act h parityError).hoop h).dk.fcPar = true :=
      (congrArg Dk.fcPar (Hoop.dk_of_calm (act_calm s h parityError hh)) :).trans (parityError_fcPar _)
    refine ⟨_, rfl, hpar, fun _ => settle_forced ?_, ?_⟩
    · exact (congrArg (·.dk.force) (State.upd_self s h parityError hh)).trans (parityError_force _)
    · exact State.faultN_of_held (act_pinsWf ..) (State.act_hoops s h parityError_site ▸ has_mem hh) (.inr hpar)
  case fails =>
    refine gives_act_lines (keeperCheck flipped) e rfl fun y hy hl => ?_
    rw [keeperCheck_fails ha hb] at hy hl
    have hd := Hoop.dk_of_calm (hy.trans (fault_calm ..))
    refine ⟨(congrArg Dk.armed hd :), (congrArg Dk.imageBad hd :), ?_⟩
    rw [Hoop.src_of_lines hl]
    exact fault_live noDet rfl
  case passes =>
    refine gives_act_lines (keeperCheck false) e rfl fun y hy hl => ?_
    rw [keeperCheck_passes hi hc] at hy hl
    have hd := Hoop.dk_of_calm (hy.trans (faultOff_calm ..))
    refine ⟨(congrArg Dk.armed hd :), (congrArg Dk.imageBad hd :).trans hi, fun ha => ?_⟩
    rw [Hoop.src_of_lines hl]
    exact faultOff_not_live ha
  case accepted =>
    subst hu
    obtain ⟨hdark, hall⟩ := darkRelease_finds hm
    have hrel : allReleasable ((darkReleaseRun h s).hoop h) ((darkReleaseRun h s).hoop (other h)) = true := by
      rw [allReleasable, hr, Bool.true_and]
      cases hd : Config.duplex ((darkReleaseRun h s).hoop h).part with
      | false => rfl
      | true => exact hpeer hd
    have hstill := congrArg Board.still (Hoop.board_of_core (breakRun_core 0 0x51 ((darkReleaseRun h s).hoop h)))
    have hcore := serve_core_still p (darkReleaseRun_quiet h q) (darkRelease_accepts (ctxOf (darkReleaseRun h s) h 0 c) hdark (hall.trans hrel))
      (Eq.trans rfl hstill)
    exact ⟨_, exec_darkRelease h s, (congrArg Dk.relAccepted (Hoop.keeper_of_core hcore) :)⟩
  case refused =>
    subst hu
    obtain ⟨hdark, hall⟩ := darkRelease_finds hm
    have hrel : allReleasable ((darkReleaseRun h s).hoop h) ((darkReleaseRun h s).hoop (other h)) = false := by
      rw [allReleasable, hr, Bool.false_and]
    have hran := congrArg Hoop.core (darkRelease_refuses (ctxOf (darkReleaseRun h s) h 0 c) hdark (hall.trans hrel))
    have hcore := serve_core_still p (darkReleaseRun_quiet h q) (hran.trans (breakRun_core ..)) rfl
    exact ⟨_, exec_darkRelease h s, Dk.eq_of_core (Hoop.keeper_of_core hcore)⟩
  case release =>
    obtain ⟨hh, rfl⟩ := e
    refine ⟨_, exec_forceRelease hh q hr, ?_⟩
    have hcore := settle_core _ (quiet_each_still unforce_still (l := s.hoops) q) k
    rw [State.each_hoop s unforce (fun x => congrArg Prod.fst (unforce_site x)) (has_mem hk), unforce_core hf] at hcore
    have hd := Hoop.keeper_of_core hcore
    exact ⟨(congrArg Dk.force hd :), (congrArg Dk.relAccepted hd :), (congrArg Dk.relTime hd :)⟩

end Sys2Proof.Machine
end
section
/-!
SUPPORT. Four statements that some state does not meet, O45, O46, O52 and O4: each with the state, what the model makes of it, and the refutation.
-/

namespace Sys2Proof.Machine
open Sys2Proof

/-- Hoops alike modulo what a settling erases have their heater sources proven alike. -/
theorem heatersProven_of_calm {x y : Hoop} (h : x.calm = y.calm) : x.pair.heatersProven = y.pair.heatersProven := congrArg (·.pair.heatersProven) h

/-- And FIRST_DONE of the needles alike. -/
theorem nFirstDone_of_calm {x y : Hoop} (h : x.calm = y.calm) : x.drv.nFirstDone = y.drv.nFirstDone := congrArg (·.drv.nFirstDone) h

/-! ## O45: a proving period with a compliance failure -/

/-- The new holder's proving period has run out, and a heater source has failed its compliance in it (R327). -/
def provingWithFailure : State := Tests.sA { Tests.hA with pair := { Tests.hA.pair with proving := true, heatersBad := true } }

/-- At its end the heater sources are not proven. -/
theorem provingEnd_provingWithFailure : (provingEnd (provingWithFailure.hoop .hoopA)).pair.heatersProven = false := by decide +kernel

/-- Refutes O45: its last clause has every proving period end with the heater sources proven, also one in which a source failed its compliance. -/
theorem not_handoverRows : ¬ Obligations.HandoverRows := by
  unfold Obligations.HandoverRows
  rintro ⟨-, -, -, -, -, -, hproving⟩
  obtain ⟨t, ht, hcalm, -⟩ := hproving provingWithFailure .hoopA provingWithFailure.a ⟨rfl, rfl⟩ rfl (by decide +kernel) (.inr (by decide +kernel))
  obtain rfl := Host.Outcome.next.inj ht
  rw [act_calm provingWithFailure .hoopA provingEnd rfl] at hcalm
  have hproven := heatersProven_of_calm hcalm
  rw [provingEnd_provingWithFailure] at hproven
  exact absurd hproven (by decide)

/-! ## O46: a token claimed under a live S3 -/

/-- Hoop A, which is not strap-primary, comes up with source 0 live, an S3; its peer is an eligible STANDBY without the token (R307, R320). -/
def claimUnderFault : State := Tests.sD
  { Tests.hA .qn0512d with
    pair := { role := .offline, strap := false }, fc := { src := [(0, { live := true })] }, tb := { Tests.hA.tb with wrap := 3 } }
  Tests.hB

/-- The claim makes it ACTIVE, and the S3 then begins a hand-over to the peer, for which its stages go to high impedance (R320, R324). -/
theorem tokenTimeout_claimUnderFault {t : State} (ht : exec (.tokenTimeout .hoopA) claimUnderFault = .next t) : t.a.drv.outEn = false := by
  obtain rfl := Host.Outcome.next.inj ht
  decide +kernel

/-- Refutes O46: by its fourth clause the stages of the hoop that claims the token are enabled, but a live S3 of its own hands over to the peer at
once. -/
theorem not_tokenRows : ¬ Obligations.TokenRows := by
  unfold Obligations.TokenRows
  rintro ⟨-, -, -, htimeout, -⟩
  obtain ⟨t, ht, -, -, hout, -⟩ := htimeout claimUnderFault .hoopA _ ⟨rfl, rfl⟩ rfl rfl rfl (by decide) rfl rfl (by decide +kernel)
  rw [State.hoop_a, tokenTimeout_claimUnderFault ht] at hout
  exact absurd hout (by decide)

/-! ## O52: first writes of the heaters noted before those of the needles -/

/-- Every tile is written and every heater has arrived; FIRST_DONE of the heaters is set and that of the needles is not. -/
def heatersFirst : State := Tests.sA { Tests.hFw with drv := { Tests.hFw.drv with hFirstDone := true } }

/-- FIRST_WRITE_DONE leaves such a hoop as it is. -/
theorem firstWrites_heatersFirst : firstWrites heatersFirst.a = heatersFirst.a := by
  unfold firstWrites
  exact if_pos rfl

/-- Refutes O52: by its seventh clause the row sets FIRST_DONE of the needles wherever it is clear and all first writes are made, but where that of the
heaters is set already the row does nothing. -/
theorem not_startupRows : ¬ Obligations.StartupRows := by
  unfold Obligations.StartupRows
  rintro ⟨-, -, -, -, -, -, hfirst, -⟩
  have htiles : ∀ t < heatersFirst.a.nT, (heatersFirst.a.tile t).written = true := by decide +kernel
  obtain ⟨t, ht, hdone, -⟩ := hfirst heatersFirst .hoopA heatersFirst.a ⟨rfl, rfl⟩ rfl rfl rfl htiles
    (fun e he => Tests.hFw_reached e (Nat.lt_trans he (by decide +kernel)))
  obtain rfl := Host.Outcome.next.inj ht
  rw [nFirstDone_of_calm (act_calm heatersFirst .hoopA firstWrites rfl), State.hoop_a, firstWrites_heatersFirst] at hdone
  exact absurd hdone (by decide)

/-! ## O4: a stop within a TILE_UPDATE -/

/-- Tambour stands at DISPATCH with TILE_UPDATE of tile 0 as its next operation, and source 16 asks for a stop (R155). Every loop is OFF. -/
def stopInTileUpdate : State := { State.reset with a := { State.reset.a with
  tmb := { st := .idle, stopReq := some 16, normal := [{ code := 4, tiles := [0] }] } } }

/-- The loop of stitch 0 is OFF there. -/
theorem loop_stopInTileUpdate : (stopInTileUpdate.a.loop 0).st = .off := by decide +kernel

/-- Stopped with one element applied (R158), the operation has written stitch 0 and taken its loop to FF (R152). -/
theorem loop_tambourStop_stopInTileUpdate : ((tambourStop 0 1 0 stopInTileUpdate.a).loop 0).st = .ff := by decide +kernel

/-- Refutes O4: the table does not name TAMBOUR_STOP among the rows that may write the loops, but a stop within a TILE_UPDATE leaves the elements
already applied as the operation wrote them, their loops in FF. -/
theorem not_rowsLeaveTheRest : ¬ Obligations.RowsLeaveTheRest := by
  unfold Obligations.RowsLeaveTheRest
  intro hkeeps
  have hbob : ((stopInTileUpdate.act .hoopA (tambourStop 0 1 0)).hoop .hoopA).bob = stopInTileUpdate.a.bob :=
    hkeeps .bob (.tambourStop .hoopA 0 1 0) stopInTileUpdate _ .hoopA rfl rfl
  rw [act_bob _ _ _ rfl, State.hoop_a] at hbob
  have hloop : (tambourStop 0 1 0 stopInTileUpdate.a).loop 0 = stopInTileUpdate.a.loop 0 := by
    simp only [Hoop.loop, hbob]
  have hst := loop_tambourStop_stopInTileUpdate
  rw [hloop, loop_stopInTileUpdate] at hst
  exact absurd hst (by decide)

end Sys2Proof.Machine
end
section
/-!
SUPPORT. The performance counters and the default target (R427, R428, R431, R432, R435, R438): what an increment, a window boundary and a burst to no
target leave, and the statement O44.
-/

namespace Sys2Proof.Machine
open Sys2Proof

/-! ## An increment, and its report -/

/-- An increment below the maximum adds; with the counters off it does nothing. -/
theorem pmcRaw_pmc_of_lt {x : Hoop} {c n : Nat} (hc : pmcExists x.part c = true) (hlt : (smGet 0 x.pmc.cnt c).toNat + n < 2 ^ 48) :
    smGet 0 (pmcRaw c n x).pmc.cnt c = smGet 0 x.pmc.cnt c + BitVec.ofNat 48 (if x.pmc.en then n else 0) ∧ (pmcRaw c n x).pmc.ovf = x.pmc.ovf ∧
      (pmcRaw c n x).pmc.ovfTold = x.pmc.ovfTold ∧ (pmcRaw c n x).pmc.ovfEn = x.pmc.ovfEn := by
  unfold pmcRaw
  cases hen : x.pmc.en with
  | false => simp
  | true =>
    rw [if_pos (by rw [hc]; rfl)]
    simp only [if_pos hlt, if_true, smGet_smSet_self, and_true]
    exact BitVec.eq_of_toNat_eq (by simp)

/-- One that passes the maximum sets OVF and takes the preload where RELOAD says so. -/
theorem pmcRaw_pmc_of_le {x : Hoop} {c n : Nat} (hen : x.pmc.en = true) (hc : pmcExists x.part c = true) (hle : 2 ^ 48 ≤ (smGet 0 x.pmc.cnt c).toNat + n) :
    smGet 0 (pmcRaw c n x).pmc.cnt c =
        BitVec.ofNat 48 ((smGet 0 x.pmc.cnt c).toNat + n - 2 ^ 48 + if x.pmc.reload.getLsbD c then (smGet 0 x.pmc.pre c).toNat else 0) ∧
      (pmcRaw c n x).pmc.ovf = x.pmc.ovf ||| BitVec.twoPow 256 c ∧ (pmcRaw c n x).pmc.ovfTold = x.pmc.ovfTold ∧
      (pmcRaw c n x).pmc.ovfEn = x.pmc.ovfEn := by
  unfold pmcRaw
  rw [if_pos (by rw [hen, hc]; rfl)]
  simp only [if_neg (Nat.not_lt.mpr hle), smGet_smSet_self, and_self]

/-- What the counters hold is no part of what waits for `settle`. -/
theorem pmcRaw_poised (c n : Nat) (x : Hoop) : (pmcRaw c n x).poised = x.poised := Hoop.poised_of_unwritten (Hoop.unwritten_of_untold (pmcRaw_untold ..))

theorem pmcRaw_dk (c n : Nat) (x : Hoop) : (pmcRaw c n x).dk = x.dk := by
  have e := congrArg Hoop.dk (pmcRaw_untold c n x); exact e

/-- Without an overflow that is new and enabled, nothing is reported. -/
theorem pmcTell_of_none_fresh {x : Hoop} (h : x.pmc.ovf &&& ~~~x.pmc.ovfTold &&& x.pmc.ovfEn = 0) :
    pmcTell x = { x with pmc := { x.pmc with ovfTold := x.pmc.ovf } } := by
  unfold pmcTell
  simp only [h, BitVec.ofNat_eq_ofNat, BitVec.getLsbD_zero, Bool.false_eq_true, if_false]
  exact List.foldl_fixed' (fun _ => rfl) _

/-- An overflow whose report is off is not fresh. -/
theorem none_fresh_or_twoPow {o told en : BitVec 256} {c : Nat} (h : o &&& ~~~told &&& en = 0) (hc : en.getLsbD c = false) :
    (o ||| BitVec.twoPow 256 c) &&& ~~~told &&& en = 0 := by
  apply BitVec.eq_of_getLsbD_eq
  intro i hi
  have hbit := congrArg (BitVec.getLsbD · i) h
  by_cases hic : i = c
  · subst hic; simp [hc]
  · simpa [hic, hi] using hbit

/-- Clearing OVF bits makes none fresh. -/
theorem none_fresh_clear {o told en m : BitVec 256} (h : o &&& ~~~told &&& en = 0) :
    o &&& ~~~m &&& ~~~(told &&& (o &&& ~~~m)) &&& en = 0 := by
  apply BitVec.eq_of_getLsbD_eq
  intro i hi
  have hbit := congrArg (BitVec.getLsbD · i) h
  revert hbit
  simp only [BitVec.getLsbD_and, BitVec.getLsbD_not, hi, decide_true, Bool.true_and, BitVec.ofNat_eq_ofNat, BitVec.getLsbD_zero]
  cases o.getLsbD i <;> cases told.getLsbD i <;> cases en.getLsbD i <;> cases m.getLsbD i <;> simp

/-- A counter that has taken its preload (R435). -/
def loaded (c : Nat) (x : Hoop) : Hoop :=
  { x with pmc := { x.pmc with
      cnt := smSet 0 x.pmc.cnt c (smGet 0 x.pmc.pre c), jump := smUpd 0 x.pmc.jump c (fun j => j + (smGet 0 x.pmc.pre c - smGet 0 x.pmc.cnt c)) } }

/-! ## The window boundary -/

/-- The counter page but for what increments and overflows change. -/
def Pmc.page (p : Pmc) : Nat × Bool × SMap (BitVec 48) × PmcBank × PmcBank := (p.gen, p.cur, p.last, p.bank0, p.bank1)

theorem Hoop.page_of_calm {x y : Hoop} (h : x.calm = y.calm) : x.pmc.page = y.pmc.page := congrArg (·.pmc.page) h

/-- The bank that a window boundary writes (R432). -/
def windowBank (x : Hoop) : PmcBank :=
  { gen := x.pmc.gen + 1, stamp := x.stamp, sec := BitVec.ofNat 48 (windowAt x / 1000000000), ns := BitVec.ofNat 32 (windowAt x % 1000000000), window := x.pmc.window.toNat
    flags := BitVec.ofNat 32 (bit (x.pmc.first || (x.pmc.switched && windowAt x % 1000000000 == 0)) + bit (!x.tb.timeValid) * 2 + bit x.pmc.ovfInWin * 4)
    values := counterValues x.pmc, deltas := counterDeltas x.pmc }

/-- The second's end leaves the page (R299, R431). -/
theorem secondBoundaryPmc_page (sec : Nat) (vs : List (BitVec 48)) (x : Hoop) : (secondBoundaryPmc sec vs x).pmc.page = x.pmc.page := by
  unfold secondBoundaryPmc
  extract_lets y
  split
  · exact (Hoop.page_of_calm (raiseEv_calm ..)).trans rfl
  · rfl

/-- A window boundary counts the window, turns to the other bank and writes that one (R431, R432). -/
theorem windowBoundary_page {x : Hoop} (hen : x.pmc.en = true) :
    (windowBoundary x).pmc.page = (x.pmc.gen + 1, !x.pmc.cur, x.pmc.cnt, if x.pmc.cur then windowBank x else x.pmc.bank0,
      if x.pmc.cur then x.pmc.bank1 else windowBank x) := by
  unfold windowBoundary
  rw [if_neg (by simp [hen])]
  extract_lets b sec p vs gen first bank p1 p2 y
  have hy : y.pmc.page = (x.pmc.gen + 1, !x.pmc.cur, x.pmc.cnt, if x.pmc.cur then windowBank x else x.pmc.bank0,
      if x.pmc.cur then x.pmc.bank1 else windowBank x) := by
    cases hcur : x.pmc.cur <;> simp [y, p2, p1, p, hcur, Pmc.page, bank, windowBank, gen, b, sec, vs, first]
  split
  · exact (secondBoundaryPmc_page ..).trans hy
  · exact hy

/-! ## The default target -/

/-- The burst's first write: the registers of the default target, then the event where this millisecond has raised none (R427). -/
theorem defaultHit_xbar (m : Nat) (write : Bool) (beats addr : Nat) (x : Hoop) :
    (defaultHit m write beats addr x).xbar.defAddr = BitVec.ofNat 32 addr ∧ (defaultHit m write beats addr x).xbar.defTime = x.stamp ∧
      (defaultHit m write beats addr x).xbar.defInfo =
        BitVec.ofNat 32 (m % 16 + bit write * 16 + beats % 65536 * 256 + addr / 2 ^ 32 % 256 * 2 ^ 24) := by
  unfold defaultHit
  extract_lets info dir y b z ms
  have hy : y.tb = x.tb := by simp [y]
  have hz : z.xbar.defAddr = BitVec.ofNat 32 addr ∧ z.xbar.defTime = x.stamp ∧ z.xbar.defInfo = info := ⟨rfl, congrArg Tb.cnt hy, rfl⟩
  split
  · exact hz
  · rw [raiseEv_xbar]; exact hz

/-- What the answer does to its master leaves the crossbar's registers (R428). -/
theorem busError_xbar (m : Nat) (x : Hoop) : (busError m x).xbar = x.xbar := by
  unfold busError
  split
  · exact jnlPut_xbar ..
  · split
    · exact fault_xbar ..
    · rfl

/-- Tambour, the bobbin DMA and the journal writer raise source 25 (R428). -/
theorem busError_live {m : Nat} (hm : m = 2 ∨ m = 3 ∨ m = 8) (x : Hoop) : ((busError m x).src 25).live = true := by
  unfold busError
  rw [if_neg (by omega), if_pos hm]
  exact fault_live noDet rfl

/-- Settles O44: a row on the counters writes them outright; loads, overflows and clears are read in a poised module, where no report follows. -/
theorem counterRows : Obligations.CounterRows := by
  unfold Obligations.CounterRows
  refine ⟨?_, ?_, ?_, ?_, ?_, ?_, ?_, ?_⟩
  · intro s h x v e
    exact makes_act (pmcCtrl v) e rfl rfl
  · intro s h x c inc e q hfresh hc hex hlt
    have hcm : (BitVec.ofNat 32 (c + 256)).toNat % 256 = c := by simp only [BitVec.toNat_ofNat]; omega
    have hbit : (BitVec.ofNat 32 (c + 256)).getLsbD 8 = true := by
      rw [BitVec.getLsbD_ofNat, Nat.testBit_eq_decide_div_mod_eq]
      simp only [Nat.reducePow, Nat.reduceLT, decide_true, Bool.true_and, decide_eq_true_eq]
      omega
    have hload : pmcLoad (BitVec.ofNat 32 (c + 256)) inc x = pmcRaw c inc (loaded c x) := by
      unfold pmcLoad loaded
      simp only [hcm, hbit, hex, Bool.and_self, if_true]
    refine gives_poised (pmcLoad (BitVec.ofNat 32 (c + 256)) inc) e q rfl ?_ ?_ ?_ ?_ ?_ <;> rw [hload]
    · exact pmcRaw_part ..
    · exact congrArg Fc.src (pmcRaw_fc ..)
    · exact congrArg Dk.fcPar (pmcRaw_dk ..)
    · exact fun hp => (pmcRaw_poised ..).trans hp
    · obtain ⟨hcnt, hovf, htold, hen⟩ := pmcRaw_pmc_of_lt (x := loaded c x) (n := inc) hex (by simpa [loaded] using hlt)
      rw [pmcTell_of_none_fresh (by rw [hovf, htold, hen]; exact hfresh)]
      exact ⟨hcnt.trans (congrArg (· + _) (smGet_smSet_self ..)), hovf⟩
  · intro s h x c inc e q hfresh hen hc hex hoff hle
    have hrun : overflow c inc x = pmcRaw c inc x := if_pos hle
    refine gives_poised (overflow c inc) e q rfl ?_ ?_ ?_ ?_ ?_ <;> rw [hrun]
    · exact pmcRaw_part ..
    · exact congrArg Fc.src (pmcRaw_fc ..)
    · exact congrArg Dk.fcPar (pmcRaw_dk ..)
    · exact fun hp => (pmcRaw_poised ..).trans hp
    · obtain ⟨hcnt, hovf, htold, hovfEn⟩ := pmcRaw_pmc_of_le hen hex hle
      rw [pmcTell_of_none_fresh (by rw [hovf, htold, hovfEn]; exact none_fresh_or_twoPow hfresh hoff)]
      exact ⟨by simp [hovf, hc], hcnt⟩
  · intro s h x w v e q hfresh
    refine gives_poised (ovfClear w v) e q rfl rfl rfl rfl (fun hp => hp) ?_
    rw [pmcTell_of_none_fresh (none_fresh_clear hfresh)]
    rfl
  · intro s h x c v e hex
    exact makes_act (preHi c v) e rfl (congrArg Hoop.calm (if_pos hex))
  · intro s h x c e hc
    exact makes_act (cntLo c) e rfl (congrArg Hoop.calm (if_pos hc))
  · intro s h x b e hen
    refine gives_act windowBoundary e rfl fun y hy => ?_
    have hpage := (Hoop.page_of_calm hy).trans (windowBoundary_page hen)
    simp only [Pmc.page, Prod.mk.injEq] at hpage
    obtain ⟨hgen, hcur, hlast, h0, h1⟩ := hpage
    refine ⟨hgen, hcur, hlast, fun hb => ?_⟩
    have hbank : b = windowBank x := by
      rw [hb, hcur, h0, h1]
      cases x.pmc.cur <;> rfl
    subst hbank
    exact ⟨rfl, rfl, rfl, rfl, rfl, rfl, rfl⟩
  · intro s h x m write beats addr e hm hb hb' ha hdef
    refine gives_act_lines (defaultTarget m write beats addr) e rfl fun y hy hl => ?_
    have hrun : defaultTarget m write beats addr x = busError m (defaultHit m write beats addr x) := if_pos ⟨hm, hb, hb', ha, hdef⟩
    rw [hrun] at hy hl
    have hx := (Hoop.xbar_of_calm hy).trans (busError_xbar ..)
    obtain ⟨haddr, htime, hinfo⟩ := defaultHit_xbar m write beats addr x
    rw [hx]
    refine ⟨haddr, htime, ?_, fun hm' => ?_⟩
    · rw [hinfo, Nat.mod_eq_of_lt (by omega : m < 16), Nat.mod_eq_of_lt (by omega : beats < 65536), Nat.mod_eq_of_lt (by omega : addr / 2 ^ 32 < 256)]
    · rw [Hoop.src_of_lines hl]
      exact busError_live hm' _

end Sys2Proof.Machine
end
section
/-!
SUPPORT. What reads answer (R373): the response of a read as a statement names it, the reads that agent rings may send, and the diagnostic commands of
ring 0. The statements O19 and O48.
-/

namespace Sys2Proof.Machine
open Sys2Proof

/-! ## A read's response -/

/-- The hoop with these rings: what the break of a run makes of it (R356). -/
def Hoop.withRings (m : SMap Ring) (x : Hoop) : Hoop := { x with mbx := { x.mbx with rings := m } }

/-- The hoop with one more response written. -/
def Hoop.answering (q : Response) (x : Hoop) : Hoop := { x with mbx := { x.mbx with responses := x.mbx.responses ++ [q] } }

theorem breakRun_withRings (r op : Nat) (x : Hoop) : ∃ m, breakRun r op x = x.withRings m := by
  unfold breakRun
  split
  · exact ⟨x.mbx.rings, rfl⟩
  · exact ⟨_, rfl⟩

theorem Hoop.withRings_calm (m : SMap Ring) (x : Hoop) : (x.withRings m).calm = x.calm := rfl

theorem Hoop.answering_calm_congr {x y : Hoop} (q : Response) (h : x.calm = y.calm) : (x.answering q).calm = (y.answering q).calm :=
  congrArg (Hoop.answering q) h

/-- Where the hoop's own buffer is given, the response is written there. -/
theorem respond_of_some {k : Ctx} {size : Nat} {recs : List Bytes} {x : Hoop} {b : Bytes} (h : k.tlv (if x.isB then 5 else 4) = some b) :
    (respond k size recs x).2 = x.answering (responseOf k.seq x.isB b size recs) := by
  unfold respond
  rw [h]
  rfl

/-- A read whose own effect is a response reads as the statements say. -/
theorem completesReading_of_run {i : Instr} {s : State} {h : HoopId} {op : Nat} {c : ReadCmd} {v : Verb} {size : Nat} {recs : List Bytes}
    (p : passes s h 0 op c v = true) (hx : exec i s = .next (s.serve h 0 op v))
    (hrun : ∀ m, v.run (ctxOf s h 0 c) ((s.hoop h).withRings m) = respond (ctxOf s h 0 c) size recs ((s.hoop h).withRings m)) :
    CompletesReading i s h 0 c size recs := by
  intro b hb
  obtain ⟨m, hm⟩ := breakRun_withRings 0 op (s.hoop h)
  refine makes_serve p hx ?_
  rw [ran, hm, hrun, respond_of_some (x := (s.hoop h).withRings m) hb]
  exact Hoop.answering_calm_congr _ ((s.hoop h).withRings_calm m)

/-! ## Reads of agent rings -/

theorem ctxOf_ring (s : State) (h : HoopId) (r : Nat) (c : ReadCmd) : (ctxOf s h r c).ring = r := rfl

/-- On ring 0 no tag is asked for (R362). -/
theorem filter_ring0 {α : Type} (p : α → Bool) (l : List α) : (l.filter fun e => (0 : Nat) == 0 || p e) = l := by simp

/-- On ring 0 a SEQREF names a commit or an outcome of any tag, whatever the rings hold (R107). -/
theorem findOutcome_withRings (m : SMap Ring) (x : Hoop) (q : Nat) : findOutcome (x.withRings m) 0 q = findOutcome x 0 q := by
  simp [findOutcome, Hoop.withRings]

theorem findPending_withRings (m : SMap Ring) (x : Hoop) (q : Nat) : findPending (x.withRings m) 0 q = findPending x 0 q := by
  simp [findPending, Hoop.withRings]

/-- Settles O19: on ring 0 no tag is asked for, so each read gives every record of what it names. -/
theorem agentReads : Obligations.AgentReads := by
  unfold Obligations.AgentReads
  refine ⟨?_, ?_, ?_⟩
  · intro s h c p hport
    refine completesReading_of_run p rfl fun m => ?_
    simp only [threadReadVerb, hport, ctxOf_ring, filter_ring0]
    rfl
  · intro s h c p htag
    refine completesReading_of_run p rfl fun m => ?_
    have hk : (ctxOf s h 0 c).par 8 2 = 0 := htag
    simp only [ledgerReadVerb, hk, ctxOf_ring, if_true, filter_ring0]
    rfl
  · intro s h c b o p hb ho
    refine completesReading_of_run p rfl fun m => ?_
    simp only [outcomeReadVerb, hb, ctxOf_ring, findOutcome_withRings, ho]

/-! ## Diagnostic commands -/

/-- Where all records fit, a response of mixed sizes holds them all. -/
theorem fitting_of_le {room : Nat} {recs : List Bytes} (h : (recs.map List.length).sum ≤ room) : fitting room recs = recs := by
  induction recs generalizing room with
  | nil => rfl
  | cons b bs ih =>
    rw [List.map_cons, List.sum_cons] at h
    rw [fitting, if_pos (by omega), ih (by omega)]

/-- A response of mixed sizes in which all records fit. -/
theorem respondMixed_of_fits {k : Ctx} {recs : List Bytes} {x : Hoop} {b : Bytes} (h : k.tlv (if x.isB then 5 else 4) = some b)
    (hfit : (recs.map List.length).sum ≤ field b 8 4 - 16) :
    (respondMixed k recs x).2 =
      x.answering ⟨BitVec.ofNat 64 (field b 0 8), leBytes 6 k.seq ++ [if x.isB then 1 else 0, 0] ++ leBytes 4 recs.length ++ leBytes 4 0 ++ recs.flatten⟩ := by
  unfold respondMixed
  rw [h]
  simp only [fitting_of_le hfit, Nat.sub_self]
  rfl

/-- A span that lies within a count passes. -/
theorem within_of_le {a n c : Nat} (h : a + n ≤ c) : within a n c = true := Nat.ble_eq.mpr h

/-- The records of a span of channels that the part has (R188, R38, R299). -/
theorem not_beyond {a n c : Nat} (h : a + n ≤ c) : ¬ (!within a n c) = true := fun hout =>
  Bool.false_ne_true (((Bool.not_eq_true' _).mp hout).symm.trans (within_of_le h))

/-- Settles O48: each command answers the records that it names; only REG_READ takes a free value besides. -/
theorem diagnosticReads : Obligations.DiagnosticReads := by
  unfold Obligations.DiagnosticReads
  refine ⟨?_, ?_, ?_, ?_, ?_, ?_, ?_, ?_, ?_, ?_, ?_⟩
  · intro s h c b x p hxe hb
    subst hxe
    obtain ⟨m, hm⟩ := breakRun_withRings 0 0x60 (s.hoop h)
    refine makes_serve p rfl ?_
    rw [ran, hm]
    exact (congrArg Hoop.calm (respond_of_some (x := ((s.hoop h).withRings m).fresh.2) hb)).trans rfl
  · intro s h c q p h2 h0 hq
    subst hq
    refine completesReading_of_run p rfl fun m => if_neg ?_
    rintro (⟨hk, hle⟩ | ⟨hk, hle⟩)
    · exact Nat.not_le.mpr (h2 hk) hle
    · exact Nat.not_le.mpr (h0 hk) hle
  · intro s h c p
    refine completesReading_of_run p rfl fun m => congrArg (fun g => respond (ctxOf s h 0 c) 64 (List.filterMap g _) _) (funext fun i => ?_)
    have hj : ((s.hoop h).withRings m).jnl = (s.hoop h).jnl := rfl
    have hm : ((s.hoop h).withRings m).mram = (s.hoop h).mram := rfl
    have hpar : ∀ a n, (ctxOf s h 0 c).par a n = field (paramOf c.bytes) a n := fun _ _ => rfl
    cases ho : slotOf (s.hoop h).jnl (field (paramOf c.bytes) 0 4 + i) <;> simp only [hj, hm, hpar, ho]
  · intro s h c p hle
    exact completesReading_of_run p rfl fun m => if_neg (not_beyond hle)
  · intro s h c b m x p hxe hm hb hfit
    subst hxe
    obtain ⟨g, hg⟩ := breakRun_withRings 0 0x64 (s.hoop h)
    have hfind : findPending ((s.hoop h).withRings g) (ctxOf s h 0 c).ring ((ctxOf s h 0 c).par 0 6) = some m := (findPending_withRings ..).trans hm
    refine makes_serve p rfl ?_
    rw [ran, hg]
    simp only [deltaReadVerb, hfind]
    rw [respondMixed_of_fits (x := (s.hoop h).withRings g) hb hfit]
    rw [List.length_append, List.length_map, List.length_map]
    rfl
  · intro s h c p
    refine completesReading_of_run p rfl fun m => ?_
    by_cases hk : field (paramOf c.bytes) 0 1 = 0
    · simp only [patchReadVerb, if_pos hk, if_pos (show (ctxOf s h 0 c).par 0 1 = 0 from hk)]
      rfl
    · simp only [patchReadVerb, if_neg hk, if_neg (show ¬ (ctxOf s h 0 c).par 0 1 = 0 from hk)]
      rfl
  · intro s h c p hle
    exact completesReading_of_run p rfl fun m => if_neg (not_beyond hle)
  · intro s h c p
    exact completesReading_of_run p rfl fun m => rfl
  · intro s h c p hk
    refine completesReading_of_run p rfl fun m => ?_
    simp only [historyReadVerb, show (ctxOf s h 0 c).par 0 1 = 1 from hk]
    rfl
  · intro s h c p hk
    refine completesReading_of_run p rfl fun m => ?_
    simp only [historyReadVerb, show (ctxOf s h 0 c).par 0 1 = 2 from hk]
    rfl
  · intro s h c p hk hle
    refine completesReading_of_run p rfl fun m => ?_
    simp only [historyReadVerb, show (ctxOf s h 0 c).par 0 1 = 0 from hk]
    exact if_neg (not_beyond hle)

end Sys2Proof.Machine
end
section
/-!
SUPPORT. EVENT_SUB and NET_CFG (R375, R380, R451): the subscription map after a range of it is set or cleared, the port that a setting configures, and
the statement O25.
-/

namespace Sys2Proof.Machine
open Sys2Proof

/-- The map of a range of event sources. -/
def sourceRange (first n : Nat) : BitVec 576 := (List.range n).foldl (fun (b : BitVec 576) j => b ||| BitVec.twoPow 576 (first + j)) 0

/-- A source stands in the map of a range exactly where it lies in the range. -/
theorem sourceRange_bit {first n : Nat} (j : Nat) (hj : j < 576) : (sourceRange first n).getLsbD j = decide (first ≤ j ∧ j < first + n) := by
  unfold sourceRange
  induction n with
  | zero => simp
  | succ n ih =>
    rw [List.range_succ, List.foldl_append, List.foldl_cons, List.foldl_nil, BitVec.getLsbD_or, ih, BitVec.getLsbD_twoPow, Bool.eq_iff_iff]
    simp only [Bool.or_eq_true, Bool.and_eq_true, decide_eq_true_eq]
    omega

/-- Or-ed in, a range sets its bits and no others. -/
theorem getLsbD_or_range {a m : BitVec 576} {j : Nat} {inn : Prop} [Decidable inn] (h : m.getLsbD j = decide inn) :
    (a ||| m).getLsbD j = if inn then true else a.getLsbD j := by
  rw [BitVec.getLsbD_or, h]
  by_cases hin : inn
  · rw [decide_eq_true hin, if_pos hin, Bool.or_true]
  · rw [decide_eq_false hin, if_neg hin, Bool.or_false]

/-- Masked out, it clears them and no others. -/
theorem getLsbD_and_not_range {a m : BitVec 576} {j : Nat} {inn : Prop} [Decidable inn] (hj : j < 576) (h : m.getLsbD j = decide inn) :
    (a &&& ~~~m).getLsbD j = if inn then false else a.getLsbD j := by
  rw [BitVec.getLsbD_and, BitVec.getLsbD_not, h, decide_eq_true hj, Bool.true_and]
  by_cases hin : inn
  · rw [decide_eq_true hin, if_pos hin, Bool.not_true, Bool.and_false]
  · rw [decide_eq_false hin, if_neg hin, Bool.not_false, Bool.and_true]

/-- The mailbox with one of the two ports configured (R380). -/
def Mbx.setNet (m : Mbx) (p : Nat) (v : NetPort) : Mbx := if p = 0 then { m with net0 := v } else { m with net1 := v }

theorem Mbx.net_setNet_self (m : Mbx) (p : Nat) (v : NetPort) : (m.setNet p v).net p = v := by
  unfold Mbx.setNet Mbx.net
  by_cases hp : p = 0 <;> simp [hp]

theorem Mbx.net_setNet_other (m : Mbx) {p : Nat} (v : NetPort) (hp : p ≤ 1) : (m.setNet p v).net (1 - p) = m.net (1 - p) := by
  unfold Mbx.setNet Mbx.net
  obtain rfl | rfl : p = 0 ∨ p = 1 := by omega
  · rfl
  · rfl

theorem Hoop.sub_of_calm {x y : Hoop} (h : x.calm = y.calm) : x.evt.sub = y.evt.sub := congrArg (·.evt.sub) h

theorem Hoop.net_of_calm {x y : Hoop} (h : x.calm = y.calm) (p : Nat) : x.mbx.net p = y.mbx.net p := congrArg (·.mbx.net p) h

/-- A command that passes has passed its own check. -/
theorem passes_check {s : State} {h : HoopId} {r op : Nat} {c : ReadCmd} {v : Verb} (p : passes s h r op c v = true) :
    v.check (ctxOf s h r c) (breakRun r op (s.hoop h)) = true := by
  simp only [passes, Bool.and_eq_true] at p
  exact p.1.1.2

/-- The configuration that a NET_CFG carries (R380). -/
def netPortOf (b : Bytes) : NetPort :=
  { addr := BitVec.ofNat 32 (field b 1 4), mask := BitVec.ofNat 32 (field b 5 4), gateway := BitVec.ofNat 32 (field b 9 4)
    vlan := BitVec.ofNat 16 (field b 13 2), remoteEn := field b 15 1 == 1 }

theorem netCfgVerb_net (k : Ctx) (x : Hoop) (j : Nat) :
    (netCfgVerb.run k x).2.mbx.net j = (x.mbx.setNet (k.par 0 1) (netPortOf (paramOf k.cmd.bytes))).net j := (Hoop.net_of_calm (adminOk_calm ..) j).trans rfl

/-- The break of a run leaves the ports. -/
theorem breakRun_setNet (r op : Nat) (x : Hoop) (p : Nat) (v : NetPort) (j : Nat) :
    ((breakRun r op x).mbx.setNet p v).net j = (x.mbx.setNet p v).net j := by
  obtain ⟨m, hm⟩ := breakRun_withRings r op x
  rw [hm]
  unfold Mbx.setNet
  split <;> rfl

/-- Settles O25: the range is a map or-ed in or masked out; the setting is stored with the port's configuration. -/
theorem messageCommands : Obligations.MessageCommands := by
  unfold Obligations.MessageCommands
  constructor
  · intro s h c p
    refine gives_serve p rfl fun y hy j hj => ?_
    have hsub : y.evt.sub = if field (paramOf c.bytes) 4 1 = 1 then (s.hoop h).evt.sub ||| sourceRange (field (paramOf c.bytes) 0 2) (field (paramOf c.bytes) 2 2)
        else (s.hoop h).evt.sub &&& ~~~sourceRange (field (paramOf c.bytes) 0 2) (field (paramOf c.bytes) 2 2) :=
      (Hoop.sub_of_calm (hy.trans (adminOk_calm ..))).trans rfl
    have hbit := sourceRange_bit (first := field (paramOf c.bytes) 0 2) (n := field (paramOf c.bytes) 2 2) j hj
    rw [hsub]
    by_cases hon : field (paramOf c.bytes) 4 1 = 1
    · rw [if_pos hon, getLsbD_or_range hbit, hon]
      rfl
    · rw [if_neg hon, getLsbD_and_not_range hj hbit, beq_false_of_ne hon]
  · intro s h c q p hq
    subst hq
    refine gives_serve p rfl fun y hy => ?_
    have hone : field (paramOf c.bytes) 0 1 ≤ 1 := by
      have hc := passes_check p
      simp only [netCfgVerb, Bool.and_eq_true, decide_eq_true_eq] at hc
      exact hc.1.1
    have hnet : ∀ k, y.mbx.net k = ((s.hoop h).mbx.setNet (field (paramOf c.bytes) 0 1) (netPortOf (paramOf c.bytes))).net k := fun k => by
      rw [Hoop.net_of_calm hy, ran, netCfgVerb_net, breakRun_setNet]
      rfl
    exact ⟨(hnet _).trans (Mbx.net_setNet_self ..), (hnet _).trans (Mbx.net_setNet_other _ _ hone), setting_stored hy (passes_opcode p)⟩

end Sys2Proof.Machine
end
section
/-!
SUPPORT. The rings as commands are read and completed (R346 to R350, R357, R362, R365): what reading and completing a ring leaves of it, and that other rings
stand. The statement O24.
-/

namespace Sys2Proof.Machine
open Sys2Proof

/-! ## What reading and completing leaves -/

/-- A ring but for what the reading and the completion of its commands and its event entries change. -/
def Ring.seat (g : Ring) : Ring :=
  { g.mail with
    cmdHead := 0, cplTail := 0, cplFull := false, green := 0, yellow := 0, red := 0, tc := 0, te := 0, run := none, posted := [], read := [], cpls := []
    cplPhase := true, cplUnsig := 0, cplSeq := 0 }

/-- The rings but for what the reading and the completion of the commands of ring `r`, and event entries, change. -/
def Hoop.besides (r : Nat) (x : Hoop) : Nat → Ring := fun k => if k = r then (x.ring k).seat else (x.ring k).mail

theorem Hoop.besides_of_mail {x y : Hoop} (h : x.mail = y.mail) (r : Nat) : x.besides r = y.besides r := by
  funext k
  have hk : (x.ring k).mail = (y.ring k).mail := congrFun h k
  unfold Hoop.besides
  split
  · exact (congrArg Ring.seat hk :)
  · exact hk

theorem Hoop.besides_of_rings {x y : Hoop} (h : x.mbx.rings = y.mbx.rings) (r : Nat) : x.besides r = y.besides r := Hoop.besides_of_mail (mail_of_rings _ _ h) r

theorem setRing_besides {x : Hoop} {r : Nat} {g : Ring} (h : g.seat = (x.ring r).seat) : (x.setRing r g).besides r = x.besides r := by
  funext k
  unfold Hoop.besides
  split
  next hk => subst hk; rw [ring_setRing_self, h]
  next hk => rw [ring_setRing_ne x g hk]

theorem updRing_besides {x : Hoop} {r : Nat} {f : Ring → Ring} (h : ∀ g, (f g).seat = g.seat) : (x.updRing r f).besides r = x.besides r := setRing_besides (h _)

theorem meter_seat (g : Ring) (cost : Nat) : (meter g cost).2.seat = g.seat := by
  unfold meter
  repeat' split
  all_goals rfl

theorem takeIn_besides {r : Nat} {x : Hoop} {g : Ring} (b : Bytes) (slot : Nat) (rm : Option Remote) (form : Option Nat) (h : g.seat = (x.ring r).seat) :
    (takeIn r x g b slot rm form).besides r = x.besides r := by
  unfold takeIn
  split
  next col g' hg =>
    have hseat : g'.seat = g.seat := by
      split at hg
      · exact congrArg Ring.seat (Prod.mk.inj hg).2.symm
      · exact (congrArg (fun q : Colour × Ring => q.2.seat) hg).symm.trans (meter_seat ..)
    exact (Hoop.besides_of_mail (pmcRaw_mail ..) r).trans (setRing_besides (Eq.trans hseat h))

theorem readOne_besides {r : Nat} {x y : Hoop} (h : readOne r x = some y) : y.besides r = x.besides r := by
  unfold readOne at h
  extract_lets g at h
  split at h
  · cases h
  · split at h
    · cases h
    · extract_lets hd at h
      split at h
      · obtain rfl := Option.some.inj h
        exact takeIn_besides _ _ _ _ rfl
      · obtain rfl := Option.some.inj h
        exact takeIn_besides _ _ _ _ rfl

theorem putCpl_besides (r : Nat) (mk : Nat → Bool → Cpl) (x : Hoop) : (putCpl r mk x).besides r = x.besides r := by
  unfold putCpl
  extract_lets g seq c tail sig y
  have hy : y.besides r = x.besides r := setRing_besides rfl
  split
  · exact (Hoop.besides_of_mail (msixSend_mail ..) r).trans hy
  · exact hy

theorem completeFront_besides (r : Nat) (a : Ans) (hold : Option (Nat × Stamp)) (x : Hoop) : (completeFront r a hold x).besides r = x.besides r := by
  unfold completeFront
  extract_lets g ep
  split
  · rfl
  next c rest =>
    extract_lets y hd st seq z mk ph u v w
    have hy : y.besides r = x.besides r := setRing_besides rfl
    have hz : z.besides r = y.besides r := by
      unfold z
      split
      · exact updRing_besides fun _ => rfl
      · rfl
    have hv : v.besides r = u.besides r := by
      refine (Hoop.besides_of_rings (noteAccepted_rings ..) r).trans ?_
      split
      · rfl
      · exact Hoop.besides_of_mail (pmcRaw_mail ..) r
    have hw : w.besides r = x.besides r :=
      (Hoop.besides_of_rings (remoteReply_rings ..) r).trans (hv.trans ((putCpl_besides ..).trans (hz.trans hy)))
    split
    · exact hy
    · split
      · exact hw
      · exact hw

/-- What one turn of the pump does: it reads one command, or completes the front one, or stops. -/
theorem pump_cases (n r : Nat) (x : Hoop) : (∃ y, readOne r x = some y ∧ pump (n + 1) r x = pump n r y) ∨ pump (n + 1) r x = x ∨
    ∃ (z : Hoop) (a : Ans), (z = x ∨ ∃ op, z = x.updRing r (Ring.cutRun op)) ∧ pump (n + 1) r x = pump n r (completeFront r a none z) := by
  rw [pump]
  cases readOne r x with
  | some y => exact .inl ⟨y, rfl, rfl⟩
  | none =>
    cases (x.ring r).read with
    | nil => exact .inr (.inl rfl)
    | cons c rest =>
      dsimp only
      split
      · exact .inr (.inr ⟨x, _, .inl rfl, rfl⟩)
      · split
        · exact .inr (.inl rfl)
        · cases c.refusal with
          | some st => exact .inr (.inr ⟨_, _, .inr ⟨_, rfl⟩, rfl⟩)
          | none => exact .inr (.inl rfl)

theorem pump_besides (n r : Nat) (x : Hoop) : (pump n r x).besides r = x.besides r := by
  induction n generalizing x with
  | zero => rfl
  | succ n ih =>
    obtain ⟨y, hy, hp⟩ | hp | ⟨z, a, hz, hp⟩ := pump_cases n r x <;> rw [hp]
    · exact (ih y).trans (readOne_besides hy)
    · refine (ih _).trans ((completeFront_besides ..).trans ?_)
      obtain rfl | ⟨op, rfl⟩ := hz
      · rfl
      · exact updRing_besides fun _ => rfl

theorem pumpRing_besides (r : Nat) (x : Hoop) : (pumpRing r x).besides r = x.besides r := by
  unfold pumpRing
  extract_lets g y
  have hy : y.besides r = x.besides r := pump_besides ..
  rw [← hy]
  exact updRing_besides (x := y) fun _ => rfl

theorem served_rings (r : Nat) (c : ReadCmd) (x : Hoop) : (served r c x).mbx.rings = x.mbx.rings := by
  unfold served
  repeat' split
  all_goals rfl

/-- Of the rings a served command leaves what its own effect left, but for what the completion and the reading change of its own ring. -/
theorem serve_besides {s : State} {h : HoopId} {r op : Nat} {c : ReadCmd} {v : Verb} (p : passes s h r op c v = true) :
    ((s.serve h r op v).hoop h).besides r = (ran s h r op c v).2.besides r :=
  (Hoop.besides_of_mail (serve_mail s h r op c v p) r).trans
    ((pumpRing_besides ..).trans ((completeFront_besides ..).trans (Hoop.besides_of_rings (served_rings ..) r)))

theorem Hoop.mail_of_besides {x y : Hoop} {r k : Nat} (h : x.besides r = y.besides r) (hk : k ≠ r) : x.mail k = y.mail k := by
  have e := congrFun h k
  unfold Hoop.besides at e
  rwa [if_neg hk, if_neg hk] at e

theorem Hoop.seat_of_besides {x y : Hoop} {r k : Nat} (h : x.besides r = y.besides r) : (x.ring k).seat = (y.ring k).seat := by
  by_cases hk : k = r
  · have e := congrFun h k
    unfold Hoop.besides at e
    rwa [if_pos hk, if_pos hk] at e
  · exact (congrArg Ring.seat (Hoop.mail_of_besides h hk) :)

/-! ## Ring commands (R362, R365, R382) -/

theorem adminOk_mail (k : Ctx) (x y : Hoop) : (adminOk k x y).2.mail = y.mail := (raiseEv_mail ..).trans (jnlPut_mail ..)

theorem ringEvent_mail (r cause tenant : Nat) (x : Hoop) : (ringEvent r cause tenant x).mail = x.mail := raiseEv_mail ..

theorem setRing_mail_self (x : Hoop) (r : Nat) (g : Ring) : (x.setRing r g).mail r = g.mail := congrArg Ring.mail (ring_setRing_self x r g)

theorem agentRing_ne {q : Nat} (h : agentRing q = true) : q ≠ 0 := by
  simp only [agentRing, decide_eq_true_eq] at h
  omega

/-- The break of a ring's run leaves the other rings. -/
theorem breakRun_ring_ne (r op : Nat) (x : Hoop) {q : Nat} (hq : q ≠ r) : (breakRun r op x).ring q = x.ring q := by
  unfold breakRun
  split
  · rfl
  · exact ring_setRing_ne x _ hq

theorem portsHeld_breakRun (op : Nat) (x : Hoop) (r t : Nat) (im om : BitVec 512) : portsHeld (breakRun 0 op x) r t im om = portsHeld x r t im om := by
  have hr : ∀ q, (breakRun 0 op x).ring (q + 1) = x.ring (q + 1) := fun q => breakRun_ring_ne 0 op x (Nat.succ_ne_zero q)
  simp only [portsHeld, hr, breakRun_thr, breakRun_prk]

/-- A command of ring 0: an agent ring is after it as the command's own effect left it. -/
theorem gives_serve_mail {i : Instr} {s : State} {h : HoopId} {op q : Nat} {c : ReadCmd} {v : Verb} {P : Hoop → Prop} (p : passes s h 0 op c v = true)
    (hx : exec i s = .next (s.serve h 0 op v)) (hq : agentRing q = true)
    (hP : ∀ y : Hoop, y.mail q = (v.run (ctxOf s h 0 c) (breakRun 0 op (s.hoop h))).2.mail q → P y) : CompletesWith i s h P :=
  ⟨_, hx, hP _ (Hoop.mail_of_besides (serve_besides p) (agentRing_ne hq))⟩

/-- An admin command's change of a ring, told and recorded. -/
theorem adminOk_setRing_mail {k : Ctx} {x z y : Hoop} {q : Nat} {g : Ring} (h : z.mail = (y.setRing q g).mail) : (adminOk k x z).2.mail q = g.mail := by
  rw [adminOk_mail, h, setRing_mail_self]

/-- The ring that a RING_BIND makes of one (R362): tag, versions, masks, meter with full tokens, enabled. -/
def boundRing (b : Bytes) (n : Nat) (g : Ring) : Ring :=
  (({ g with bound := true, versions := BitVec.ofNat 3 (field b 1 1), tenant := field b 2 2, inMask := BitVec.ofNat 512 (field b 12 (n / 8))
             outMask := BitVec.ofNat 512 (field b (12 + n / 8) (n / 8)), posted := if g.en then g.posted else []
             cmdHead := if g.en then g.cmdHead else g.db } : Ring).setMeter (field b 4 4) (field b 8 2) (field b 10 2)).enable

theorem ringBindVerb_mail {k : Ctx} {x : Hoop} (hun : (x.ring (k.par 0 1)).unread = false)
    (hheld : portsHeld x (k.par 0 1) (k.par 2 2) (BitVec.ofNat 512 (k.par 12 (x.n / 8))) (BitVec.ofNat 512 (k.par (12 + x.n / 8) (x.n / 8))) = false) :
    (ringBindVerb.run k x).2.mail (k.par 0 1) = (boundRing (paramOf k.cmd.bytes) x.n (x.ring (k.par 0 1))).mail := by
  simp only [ringBindVerb, hun, hheld, Bool.or_self, Bool.false_eq_true, if_false]
  exact adminOk_setRing_mail (ringEvent_mail ..)

/-- The ring that a RING_UNBIND leaves of one (R362). -/
def Ring.unbind (g : Ring) : Ring := { g with bound := false, en := false, tenant := 0, versions := 0, inMask := 0, outMask := 0, run := none, posted := [] }

theorem ringUnbindVerb_mail {k : Ctx} {x : Hoop} (hun : (x.ring (k.par 0 1)).unread = false) :
    (ringUnbindVerb.run k x).2.mail (k.par 0 1) = (x.ring (k.par 0 1)).unbind.mail := by
  simp only [ringUnbindVerb, hun, Bool.false_eq_true, if_false]
  exact adminOk_setRing_mail (ringEvent_mail ..)

/-- The ring with the key that a KEY_SET carries, or without one (R382). -/
def keyedRing (key : Bytes) (g : Ring) : Ring :=
  if key.all (· == 0) then { g with key := none } else { g with key := some key, keyGen := g.keyGen + 1, ctrWin := {} }

theorem keySetVerb_mail (k : Ctx) (x : Hoop) :
    (keySetVerb.run k x).2.mail (k.par 0 1) = (keyedRing (((paramOf k.cmd.bytes).drop 1).take 32) (x.ring (k.par 0 1))).mail :=
  adminOk_setRing_mail (raiseEv_mail ..)

/-- What a binding grants: tag, versions, masks, meter and tokens (R362, R365). -/
def Ring.grant (g : Ring) : Bool × Nat × BitVec 3 × BitVec 512 × BitVec 512 × Nat × Nat × Nat × Nat × Nat :=
  (g.bound, g.tenant, g.versions, g.inMask, g.outMask, g.cir, g.cbs, g.ebs, g.tc, g.te)

theorem Ring.grant_enable (g : Ring) : g.enable.grant = g.grant := by
  unfold Ring.enable
  split <;> rfl

theorem Ring.en_enable (g : Ring) : g.enable.en = true := by
  unfold Ring.enable
  split
  next hen => exact hen
  next => rfl

/-- What a key's number, its window and the key itself are, no reading and no completion changes (R382). -/
def Ring.auth (g : Ring) : Option Bytes × BitVec 16 × Win := (g.key, g.keyGen, g.ctrWin)

theorem Ring.auth_of_seat {g g' : Ring} (h : g.seat = g'.seat) : g.auth = g'.auth := (congrArg Ring.auth h :)

theorem breakRun_auth (r op : Nat) (x : Hoop) (q : Nat) : ((breakRun r op x).ring q).auth = (x.ring q).auth := by
  by_cases hq : q = r
  · subst hq
    unfold breakRun
    split
    · rfl
    · exact (congrArg Ring.auth (updRing_ring_self ..)).trans rfl
  · rw [breakRun_ring_ne r op x hq]

theorem keyedRing_auth {g g' : Ring} (h : g.auth = g'.auth) {key : Bytes} : (keyedRing key g).auth = (keyedRing key g').auth := by
  obtain ⟨-, hgen, hwin⟩ : g.key = g'.key ∧ g.keyGen = g'.keyGen ∧ g.ctrWin = g'.ctrWin := by simpa only [Ring.auth, Prod.mk.injEq] using h
  unfold keyedRing
  split
  · simp only [Ring.auth, hgen, hwin]
  · simp only [Ring.auth, hgen]

theorem Ring.auth_of_mail {g g' : Ring} (h : g.mail = g'.mail) : g.auth = g'.auth := (congrArg Ring.auth h :)

/-- Settles O24: each command's own effect on the ring it names, which its completion on ring 0 leaves. -/
theorem ringCommands : Obligations.RingCommands := by
  unfold Obligations.RingCommands
  refine ⟨?_, ?_, ?_, ?_⟩
  · intro s h c q p hq hun hheld
    subst hq
    have hagent : agentRing (field (paramOf c.bytes) 0 1) = true := by
      have hc := passes_check p
      simp only [ringBindVerb, Bool.and_eq_true] at hc
      exact hc.1.1.1
    have hring := breakRun_ring_ne 0 0x20 (s.hoop h) (agentRing_ne hagent)
    have hn : (breakRun 0 0x20 (s.hoop h)).n = (s.hoop h).n := by rw [Hoop.n, breakRun_part, Hoop.n]
    refine gives_serve_mail p rfl hagent fun y hy => ?_
    have hm := hy.trans (ringBindVerb_mail (k := ctxOf s h 0 c) (hring ▸ hun) (by rw [hn, portsHeld_breakRun]; exact hheld))
    have hen : (y.ring (field (paramOf c.bytes) 0 1)).en = true := (congrArg Ring.en hm).trans (Ring.en_enable _)
    have hgrant := (congrArg Ring.grant hm).trans (Ring.grant_enable _)
    rw [hn] at hgrant
    simp only [Ring.grant, Ring.setMeter, Prod.mk.injEq] at hgrant
    obtain ⟨hbound, htag, hver, hin, hout, hcir, hcbs, hebs, htc, hte⟩ := hgrant
    exact ⟨hbound, hen, htag, hver, hin, hout, hcir, hcbs, hebs, htc, hte⟩
  · intro s h c q p hq hun
    subst hq
    have hagent : agentRing (field (paramOf c.bytes) 0 1) = true := passes_check p
    have hring := breakRun_ring_ne 0 0x21 (s.hoop h) (agentRing_ne hagent)
    exact gives_serve_mail p rfl hagent fun y hy =>
      hy.trans ((ringUnbindVerb_mail (k := ctxOf s h 0 c) (hring ▸ hun)).trans (congrArg (fun g : Ring => g.unbind.mail) hring))
  · intro s h c q p hq
    subst hq
    have hagent : agentRing (field (paramOf c.bytes) 0 1) = true := by
      have hc := passes_check p
      simp only [meterSetVerb, Bool.and_eq_true] at hc
      exact hc.1
    exact gives_serve_mail p rfl hagent fun y hy => hy.trans ((adminOk_setRing_mail rfl).trans
      (congrArg (fun g : Ring => (g.setMeter (field (paramOf c.bytes) 1 4) (field (paramOf c.bytes) 5 2) (field (paramOf c.bytes) 7 2)).mail)
        (breakRun_ring_ne 0 0x22 (s.hoop h) (agentRing_ne hagent))))
  · intro s h c q key p hq hkey
    subst hq hkey
    refine ⟨_, rfl, ?_⟩
    have hran : (((ran s h 0 0x23 c keySetVerb).2).ring (field (paramOf c.bytes) 0 1)).mail =
        (keyedRing (((paramOf c.bytes).drop 1).take 32) ((breakRun 0 0x23 (s.hoop h)).ring (field (paramOf c.bytes) 0 1))).mail := keySetVerb_mail ..
    have hauth : (((s.serve h 0 0x23 keySetVerb).hoop h).ring (field (paramOf c.bytes) 0 1)).auth =
        (keyedRing (((paramOf c.bytes).drop 1).take 32) ((s.hoop h).ring (field (paramOf c.bytes) 0 1))).auth :=
      (Ring.auth_of_seat (Hoop.seat_of_besides (serve_besides p))).trans ((Ring.auth_of_mail hran).trans (keyedRing_auth (breakRun_auth ..)))
    unfold keyedRing at hauth
    split
    next hz =>
      rw [if_pos hz] at hauth
      simp only [Ring.auth, Prod.mk.injEq] at hauth
      exact ⟨hauth.1, hauth.2.1⟩
    next hz =>
      rw [if_neg hz] at hauth
      simp only [Ring.auth, Prod.mk.injEq] at hauth
      exact hauth

end Sys2Proof.Machine
end
section
/-!
SUPPORT. The completion entry of a served command (R349, R357), and the statement O11.
-/

namespace Sys2Proof.Machine
open Sys2Proof

/-- The entry that an ACTIVE hoop writes for `c` with this answer (R357). -/
def answerEntry (x : Hoop) (r : Nat) (c : ReadCmd) (a : Ans) : Cpl :=
  { origin := x.origin 1 r, seq := x.nextCplSeq r, status := BitVec.ofNat 8 (a.status + if (x.ring r).cplPhase then 128 else 0), result := BitVec.ofNat 56 a.result
    tag := (hdrOf c.bytes).tag, stamp := x.stamp, epochSec := BitVec.ofNat 48 (a.epochNs.getD 0 / 1000000000), epochNs := BitVec.ofNat 32 (a.epochNs.getD 0 % 1000000000) }

theorem Hoop.cpls_of_mail {x y : Hoop} (h : x.mail = y.mail) (r : Nat) : (x.ring r).cpls = (y.ring r).cpls :=
  (congrArg (fun m : Nat → Ring => (m r).cpls) h :)

theorem Hoop.cpls_of_rings {x y : Hoop} (h : x.mbx.rings = y.mbx.rings) (r : Nat) : (x.ring r).cpls = (y.ring r).cpls := Hoop.cpls_of_mail (mail_of_rings _ _ h) r

theorem putCpl_cpls (r : Nat) (mk : Nat → Bool → Cpl) (x : Hoop) :
    ((putCpl r mk x).ring r).cpls = (x.ring r).cpls ++ [mk (nextSeq (x.ring r).cplSeq) (x.ring r).cplPhase] := by
  unfold putCpl
  extract_lets g seq c tail sig y
  have hy : (y.ring r).cpls = g.cpls ++ [c] := congrArg Ring.cpls (ring_setRing_self ..)
  split
  · exact (Hoop.cpls_of_mail (msixSend_mail ..) r).trans hy
  · exact hy

/-- The front command of an ACTIVE hoop completes by the next entry of its ring. -/
theorem completeFront_cpls {r : Nat} {a : Ans} {x : Hoop} {c : ReadCmd} {rest : List ReadCmd} (hr : (x.ring r).read = c :: rest) (ha : x.pair.role = .active) :
    ((completeFront r a none x).ring r).cpls = (x.ring r).cpls ++ [answerEntry x r c a] := by
  unfold completeFront
  extract_lets g ep
  split
  next hnil => exact absurd (hr.symm.trans hnil) (by simp)
  next d rest' hcons =>
    obtain ⟨rfl, rfl⟩ := List.cons.inj (hcons.symm.trans hr)
    extract_lets y hd st seq z mk ph u v w
    have hans : answers y r d = true := by
      unfold answers
      rw [show y.pair.role = .active from ha]
    have hring : y.ring r = { g with read := rest' } := ring_setRing_self ..
    have hu : (u.ring r).cpls = (x.ring r).cpls ++ [answerEntry x r d a] := by
      refine (putCpl_cpls ..).trans ?_
      rw [show z.ring r = { g with read := rest' } from hring]
      rfl
    have hv : (v.ring r).cpls = (u.ring r).cpls := by
      refine (Hoop.cpls_of_rings (noteAccepted_rings ..) r).trans ?_
      split
      · rfl
      · exact Hoop.cpls_of_mail (pmcRaw_mail ..) r
    have hw : (w.ring r).cpls = (x.ring r).cpls ++ [answerEntry x r d a] := (Hoop.cpls_of_rings (remoteReply_rings ..) r).trans (hv.trans hu)
    rw [if_neg (by rw [hans]; decide)]
    split
    · exact hw
    · exact hw

/-- Where nothing is posted and nothing is read, the pump does nothing. -/
theorem pump_of_empty {r : Nat} {x : Hoop} (hp : (x.ring r).posted = []) (hr : (x.ring r).read = []) (n : Nat) : pump n r x = x := by
  cases n with
  | zero => rfl
  | succ n => simp [pump, readOne, hp, hr]

theorem pumpRing_cpls_of_empty {r : Nat} {x : Hoop} (hp : (x.ring r).posted = []) (hr : (x.ring r).read = []) :
    ((pumpRing r x).ring r).cpls = (x.ring r).cpls := by
  unfold pumpRing
  extract_lets g y
  have hy : y = x := pump_of_empty hp hr _
  rw [hy, updRing_ring_self]

theorem breakRun_ring_self (r op : Nat) (x : Hoop) : ∃ run, (breakRun r op x).ring r = { x.ring r with run := run } := by
  unfold breakRun
  split
  · exact ⟨_, rfl⟩
  · exact ⟨_, updRing_ring_self ..⟩

theorem passes_active {s : State} {h : HoopId} {r op : Nat} {c : ReadCmd} {v : Verb} (p : passes s h r op c v = true) : (s.hoop h).pair.role = .active := by
  simp only [passes, atFront, Bool.and_eq_true, beq_iff_eq] at p
  tauto

theorem served_view (r : Nat) (c : ReadCmd) (x : Hoop) :
    (served r c x).ring r = x.ring r ∧ (served r c x).pair = x.pair ∧ (served r c x).isB = x.isB ∧ (served r c x).tb = x.tb := by
  unfold served
  repeat' split
  all_goals exact ⟨rfl, rfl, rfl, rfl⟩

theorem Hoop.intake_iff {x : Hoop} {r : Nat} {l : List ReadCmd} {ps : List Posted} {run : Option BatchRun} :
    x.intake r = (l, ps, run) ↔ (x.ring r).read = l ∧ (x.ring r).posted = ps ∧ (x.ring r).run = run := by
  simp only [Hoop.intake, Prod.mk.injEq]

theorem Hoop.cm_of_core {x y : Hoop} (h : x.core = y.core) : x.cm = y.cm := (congrArg Hoop.cm h :)

/-- A command whose own effect is none, alone on its ring: its answer is the next completion, and the ring has read nothing more. -/
theorem serve_cpls {s : State} {h : HoopId} {r op : Nat} {c : ReadCmd} {v : Verb} {a : Ans} (p : passes s h r op c v = true)
    (hr : ((s.hoop h).ring r).read = [c]) (hp : ((s.hoop h).ring r).posted = [])
    (hrun : v.run (ctxOf s h r c) (breakRun r op (s.hoop h)) = (a, breakRun r op (s.hoop h))) :
    (((s.serve h r op v).hoop h).ring r).cpls = ((s.hoop h).ring r).cpls ++ [answerEntry (s.hoop h) r c a] ∧ (((s.serve h r op v).hoop h).ring r).read = [] := by
  obtain ⟨run, hring⟩ := breakRun_ring_self r op (s.hoop h)
  obtain ⟨hsv, hpair, hisB, htb⟩ := served_view r c (breakRun r op (s.hoop h))
  rw [hring] at hsv
  rw [breakRun_pair] at hpair
  have hrd : ((served r c (breakRun r op (s.hoop h))).ring r).read = [c] := by rw [hsv, hr]
  have hcpls := completeFront_cpls (a := a) hrd (by rw [hpair]; exact passes_active p)
  have hentry : answerEntry (served r c (breakRun r op (s.hoop h))) r c a = answerEntry (s.hoop h) r c a := by
    simp only [answerEntry, Hoop.nextCplSeq, Hoop.origin, Hoop.stamp, hsv, hisB, htb, breakRun_isB, breakRun_tb]
  rw [hsv, hentry] at hcpls
  have hin : (served r c (breakRun r op (s.hoop h))).intake r = ([c], [], run) := by rw [Hoop.intake, hsv, hr, hp]
  have hdone := completeFront_intake (a := a) hin
  obtain ⟨hread, hposted, -⟩ := Hoop.intake_iff.mp hdone
  have hmail := serve_mail s h r op c v p
  rw [show ran s h r op c v = _ from hrun] at hmail
  constructor
  · exact (Hoop.cpls_of_mail hmail r).trans ((pumpRing_cpls_of_empty hposted hread).trans hcpls)
  · exact congrArg Prod.fst ((Hoop.intake_of_mail hmail r).trans (pumpRing_intake hdone))

/-- An answer without RESULT and epoch is the entry of the statement. -/
theorem answerEntry_status (x : Hoop) (r : Nat) (c : ReadCmd) (st : Nat) : answerEntry x r c { status := st } = completionOf x r c st := by
  simp [answerEntry, completionOf]

/-- Settles O11: both commands have no effect of their own, so the completion is all that the ring gets; the core stands as before. -/
theorem completionEntries : Obligations.CompletionEntries := by
  unfold Obligations.CompletionEntries
  constructor
  · intro s h r c p hremote hr hp
    rw [← answerEntry_status]
    exact ⟨_, rfl, serve_cpls p hr hp rfl⟩
  · intro s h r c st k q p hremote hr hp hdec
    have hrun : commitVerb.run (ctxOf s h r c) (breakRun r 1 (s.hoop h)) = ({ status := st, result := 0 }, breakRun r 1 (s.hoop h)) := by
      have hd : decideCommit (breakRun r 1 (s.hoop h)) { ring := (ctxOf s h r c).ring } (hdrOf (ctxOf s h r c).cmd.bytes).hasEpoch
          (hdrOf (ctxOf s h r c).cmd.bytes).exact (hdrOf (ctxOf s h r c).cmd.bytes).epochNs
          [editOf (hdrOf (ctxOf s h r c).cmd.bytes).opcode (ringTag (breakRun r 1 (s.hoop h)) (ctxOf s h r c).ring) (ctxOf s h r c).tlvList] = .refuse st k := by
        rw [show (hdrOf (ctxOf s h r c).cmd.bytes).opcode = 1 from passes_opcode p]
        exact hdec
      simp only [commitVerb, acceptCommit, hd, Bool.false_eq_true, if_false]
    obtain ⟨hcpls, hread⟩ := serve_cpls p hr hp hrun
    have hcore := serve_core s h r 1 c commitVerb p q (by rw [ran, hrun]; simp) (by rw [ran, hrun]; simp) (by rw [ran, hrun]; simp)
    rw [ran, hrun, breakRun_core] at hcore
    rw [answerEntry_status] at hcpls
    exact ⟨_, rfl, hcpls, Hoop.cm_of_core hcore, Hoop.thr_of_core hcore⟩

end Sys2Proof.Machine
end
section
/-!
SUPPORT. A ring from the host's side (R347, R349, R350, R365, R382): doorbells and heads, reading on a ring that is off and on ring 0, datagrams. The
statement O26.
-/

namespace Sys2Proof.Machine
open Sys2Proof

/-! ## Reading -/

/-- A ring that is off reads nothing. -/
theorem readOne_of_off {r : Nat} {x : Hoop} (h : (x.ring r).en = false) : readOne r x = none := by
  have hc : canRead x (x.ring r) = false := by rw [canRead, h]; rfl
  unfold readOne
  extract_lets g
  split
  · rfl
  · exact if_pos (by rw [hc]; rfl)

/-- The ring is off and holds these slots. -/
def Hoop.posts (x : Hoop) (r : Nat) (ps : List Posted) : Prop := (x.ring r).en = false ∧ (x.ring r).posted = ps

theorem completeFront_posts {r : Nat} {x : Hoop} {ps : List Posted} (a : Ans) (h : x.posts r ps) : (completeFront r a none x).posts r ps := by
  obtain ⟨hen, hps⟩ := h
  refine ⟨(congrArg Ring.en (Hoop.seat_of_besides (completeFront_besides r a none x) : ((completeFront r a none x).ring r).seat = _) :).trans hen, ?_⟩
  cases hr : (x.ring r).read with
  | nil => rw [show completeFront r a none x = x by rw [completeFront]; simp only [hr]]; exact hps
  | cons c rest =>
    have hin := completeFront_intake (a := a) (Hoop.intake_iff.mpr ⟨hr, hps, rfl⟩)
    exact (Hoop.intake_iff.mp hin).2.1

theorem pump_posts {r : Nat} {x : Hoop} {ps : List Posted} (n : Nat) (h : x.posts r ps) : (pump n r x).posts r ps := by
  induction n generalizing x with
  | zero => exact h
  | succ n ih =>
    obtain ⟨y, hy, -⟩ | hp | ⟨z, a, hz, hp⟩ := pump_cases n r x
    · rw [readOne_of_off h.1] at hy
      cases hy
    · rw [hp]
      exact h
    · rw [hp]
      refine ih (completeFront_posts a ?_)
      obtain rfl | ⟨op, rfl⟩ := hz
      · exact h
      · rw [Hoop.posts, updRing_ring_self]
        exact h

theorem pumpRing_posts {r : Nat} {x : Hoop} {ps : List Posted} (h : x.posts r ps) : (pumpRing r x).posts r ps := by
  have hy := pump_posts (2 * ((x.ring r).posted.length + (x.ring r).read.length) + 1) h
  rw [pumpRing, Hoop.posts, updRing_ring_self]
  exact hy

/-- Parts of a ring that reading and completing leave. -/
theorem Ring.seated_of_seat {g g' : Ring} (h : g.seat = g'.seat) : g.db = g'.db ∧ g.cplHead = g'.cplHead ∧ g.en = g'.en ∧ g.ctrWin = g'.ctrWin := by
  have hw := Ring.auth_of_seat h
  simp only [Ring.auth, Prod.mk.injEq] at hw
  exact ⟨(congrArg Ring.db h :), (congrArg Ring.cplHead h :), (congrArg Ring.en h :), hw.2.2⟩

theorem Hoop.seat_of_mail {x y : Hoop} (h : x.mail = y.mail) (r : Nat) : (x.ring r).seat = (y.ring r).seat :=
  (congrArg (fun m : Nat → Ring => (m r).seat) h :)

theorem Hoop.posted_of_mail {x y : Hoop} (h : x.mail = y.mail) (r : Nat) : (x.ring r).posted = (y.ring r).posted :=
  (congrArg (fun m : Nat → Ring => (m r).posted) h :)

theorem pumpRing_seat (r : Nat) (x : Hoop) (k : Nat) : ((pumpRing r x).ring k).seat = (x.ring k).seat := Hoop.seat_of_besides (pumpRing_besides r x)

/-- A legal command of ring 0 is never metered (R365). -/
theorem takeIn_ring0 (x : Hoop) (g : Ring) (b : Bytes) (slot : Nat) : takeIn 0 x g b slot none none =
    pmcRaw 64 1 (x.setRing 0 { g with read := g.read ++ [{ bytes := b, slot := slot, colour := .unmetered, refusal := none, remote := none }] }) := rfl

/-- A legal command of one slot, the only one posted on ring 0, is read whole (R346, R354). -/
theorem readOne_single {x : Hoop} {p : Posted} (hp : (x.ring 0).posted = [p]) (hr : (x.ring 0).read = []) (hrm : p.remote = none) (hc : canRead x (x.ring 0) = true)
    (hlen : chainLen (hdrOf p.bytes).len = 1) (hslot : p.slot < (x.ring 0).slots) (hform : formCheck (hdrOf p.bytes) (x.ring 0).versions false = none) :
    ∃ y, readOne 0 x = some y ∧ y.pair = x.pair ∧ (y.ring 0).posted = [] ∧ (y.ring 0).read =
      [{ bytes := p.bytes.take ((hdrOf p.bytes).len * 16), slot := p.slot, colour := .unmetered, refusal := none, remote := none }] := by
  have hlocals : postedSlots (x.ring 0) = [p] := by simp [postedSlots, hp, hrm]
  have hcut : decide ((x.ring 0).slots ≤ p.slot) = false := decide_eq_false (Nat.not_le.mpr hslot)
  have hread : readOne 0 x = some (takeIn 0 x { x.ring 0 with posted := [], cmdHead := (p.slot + 1) % (x.ring 0).slots }
      (p.bytes.take ((hdrOf p.bytes).len * 16)) p.slot none none) := by
    simp only [readOne, hp, hc, hrm, hlocals, hlen]
    simp [dropSlots, hrm, hcut, hform]
  rw [takeIn_ring0] at hread
  obtain ⟨hrd, hpo, -⟩ := Hoop.intake_iff.mp ((Hoop.intake_of_mail (pmcRaw_mail ..) 0).trans (setRing_intake ..))
  exact ⟨_, hread, (congrArg Hoop.pair (pmcRaw_untold ..) :), hpo, hrd.trans (congrArg (· ++ _) hr)⟩

/-- Read and legal, it waits to be served. -/
theorem pumpRing_single {x : Hoop} {p : Posted} (hp : (x.ring 0).posted = [p]) (hr : (x.ring 0).read = []) (hrm : p.remote = none) (hc : canRead x (x.ring 0) = true)
    (hact : x.pair.role = .active) (hlen : chainLen (hdrOf p.bytes).len = 1) (hslot : p.slot < (x.ring 0).slots)
    (hform : formCheck (hdrOf p.bytes) (x.ring 0).versions false = none) :
    ((pumpRing 0 x).ring 0).posted = [] ∧ ((pumpRing 0 x).ring 0).read =
      [{ bytes := p.bytes.take ((hdrOf p.bytes).len * 16), slot := p.slot, colour := .unmetered, refusal := none, remote := none }] := by
  obtain ⟨y, hy, hpair, hpo, hrd⟩ := readOne_single hp hr hrm hc hlen hslot hform
  have hnone : readOne 0 y = none := by
    unfold readOne
    simp only [hpo]
  have hans : ∀ c, answers y 0 c = true := fun c => by
    unfold answers
    rw [hpair, hact]
  have hpump : pump 3 0 x = y := by
    rw [pump, hy]
    simp [pump, hnone, hrd, hans, hpair, hact]
  unfold pumpRing
  extract_lets g z
  have hz : z = y := by
    unfold z g
    rw [hp, hr]
    exact hpump
  rw [hz, updRing_ring_self]
  exact ⟨hpo, hrd⟩

/-! ## Doorbells and heads (R347, R375) -/

/-- The slots that a doorbell posts. -/
def newSlots (g : Ring) (v : BitVec 12) (cmds : List Bytes) : List Posted :=
  (List.range ((v.toNat + g.slots - g.db) % g.slots)).map (fun j => { bytes := padTo 64 (cmds.getD j []), slot := (g.db + j) % g.slots, remote := none })

/-- The ring that a doorbell has rung, nothing read yet. -/
def rung (r : Nat) (v : BitVec 12) (cmds : List Bytes) (x : Hoop) : Hoop :=
  x.setRing r { x.ring r with db := v.toNat, posted := (x.ring r).posted ++ newSlots (x.ring r) v cmds }

theorem rung_ring (r : Nat) (v : BitVec 12) (cmds : List Bytes) (x : Hoop) :
    (rung r v cmds x).ring r = { x.ring r with db := v.toNat, posted := (x.ring r).posted ++ newSlots (x.ring r) v cmds } := ring_setRing_self ..

theorem doorbell_eq {r : Nat} {v : BitVec 12} (cmds : List Bytes) {x : Hoop} (hr : r < 16) (hv : v.toNat < (x.ring r).slots) :
    doorbell r v cmds x = pumpRing r (rung r v cmds x) := if_neg (by rintro (h | h) <;> omega)

/-- The ring whose host has consumed completions up to `v`, nothing read yet. -/
def consumed (r : Nat) (v : BitVec 12) (x : Hoop) : Hoop :=
  x.setRing r { x.ring r with cplHead := v.toNat, cpls := (x.ring r).cpls.drop ((v.toNat + (x.ring r).slots - (x.ring r).cplHead) % (x.ring r).slots) }

theorem consumed_ring (r : Nat) (v : BitVec 12) (x : Hoop) : (consumed r v x).ring r =
    { x.ring r with cplHead := v.toNat, cpls := (x.ring r).cpls.drop ((v.toNat + (x.ring r).slots - (x.ring r).cplHead) % (x.ring r).slots) } := ring_setRing_self ..

theorem evtHead_mail {r : Nat} {v : BitVec 13} {x : Hoop} (hr : r < 16) (hv : v.toNat < (x.ring r).evtSlots)
    (hu : (v.toNat + (x.ring r).evtSlots - (x.ring r).evtHead) % (x.ring r).evtSlots ≤ (x.ring r).evtUsed) :
    (evtHead r v x).mail r = { (x.ring r).mail with evtHead := v.toNat } := by
  unfold evtHead
  extract_lets g k n y
  rw [if_neg (by rintro (h | h | h) <;> [omega; exact Nat.not_le.mpr hv h; exact Nat.not_lt.mpr hu h])]
  have hy : y.mail r = { (x.ring r).mail with evtHead := v.toNat } := setRing_mail_self ..
  split
  · exact hy
  · rw [raiseEv_mail, hy]

/-! ## Datagrams (R381, R382) -/

theorem Hoop.drops_of_calm {x y : Hoop} (h : x.calm = y.calm) : x.mbx.drops = y.mbx.drops := congrArg (·.mbx.drops) h

theorem Hoop.dropAddr_of_calm {x y : Hoop} (h : x.calm = y.calm) : x.mbx.dropAddr = y.mbx.dropAddr := congrArg (·.mbx.dropAddr) h

/-- A datagram that fails is counted by its reason, its sender noted. -/
theorem dropDatagram_mbx (why : Nat) (a : BitVec 32) (x : Hoop) :
    (dropDatagram why a x).mbx.drops = x.mbx.drops.set why (x.mbx.drops.getD why 0 + 1) ∧ (dropDatagram why a x).mbx.dropAddr = a := by
  unfold dropDatagram
  extract_lets n m y sec
  have hy : y.mbx.drops = n ∧ y.mbx.dropAddr = a := by
    unfold y
    rw [pmcRaw_rings]
    exact ⟨rfl, rfl⟩
  split
  · exact hy
  · rw [← Hoop.drops_of_calm (raiseEv_calm ..).symm, ← Hoop.dropAddr_of_calm (raiseEv_calm ..).symm]
    exact hy

theorem remote_drops {port : Nat} {x : Hoop} {p : Bytes} {why : Nat} (a : BitVec 32) (sp : BitVec 16) (hen : (x.mbx.net port).remoteEn = true)
    (hd : datagram x p = .inl why) : remote port a sp p x = dropDatagram why a x := by
  unfold remote
  rw [if_neg (by rw [hen]; decide), hd]

/-- The command that an accepted datagram carries (R382). -/
def remoteCommand (a : BitVec 32) (sp : BitVec 16) (p : Bytes) : Posted :=
  { bytes := (p.drop 16).take (p.length - 32), slot := 0
    remote := some { addr := a, port := sp, keyGen := BitVec.ofNat 16 (field p 2 2), counter := field p 4 8 } }

/-- The ring of an accepted datagram, its window marked and the command posted. -/
def datagramPosted (a : BitVec 32) (sp : BitVec 16) (p : Bytes) (w : Win) (g : Ring) : Ring := { g with ctrWin := w, posted := g.posted ++ [remoteCommand a sp p] }

theorem remote_posts {port : Nat} {x : Hoop} {p : Bytes} {w : Win} (a : BitVec 32) (sp : BitVec 16) (hen : (x.mbx.net port).remoteEn = true)
    (hd : datagram x p = .inr w) : remote port a sp p x = pumpRing (field p 1 1) (pmcRaw 220 1 (x.updRing (field p 1 1) (datagramPosted a sp p w))) := by
  unfold remote
  rw [if_neg (by rw [hen]; decide), hd]
  rfl

/-- Settles O26: what a row changes of a ring stands in its fields; what is read after it changes none of those. -/
theorem ringRows : Obligations.RingRows := by
  unfold Obligations.RingRows
  refine ⟨?_, ?_, ?_, ?_, ?_, ?_, ?_, ?_, ?_, ?_⟩
  · intro s h x r v cmds e hr hv hoff
    refine gives_mail (doorbell r v cmds) e rfl fun y hy => ?_
    rw [doorbell_eq cmds hr hv] at hy
    have hseat := pumpRing_seat r (rung r v cmds x) r
    rw [rung_ring] at hseat
    have hposts := pumpRing_posts (x := rung r v cmds x) (r := r) ⟨by rw [rung_ring]; exact hoff, rfl⟩
    rw [rung_ring] at hposts
    obtain ⟨hdb, -⟩ := Ring.seated_of_seat ((Hoop.seat_of_mail hy r).trans hseat)
    exact ⟨hdb, (Hoop.posted_of_mail hy r).trans hposts.2⟩
  · intro s h x v b e hv hdb hposted hread hcan hact hlen hform
    refine gives_mail (doorbell 0 v [b]) e rfl fun y hy => ?_
    rw [doorbell_eq [b] (by decide) hv] at hy
    have hnew : newSlots (x.ring 0) v [b] = [{ bytes := padTo 64 b, slot := (x.ring 0).db, remote := none }] := by
      have hone : (v.toNat + (x.ring 0).slots - (x.ring 0).db) % (x.ring 0).slots = 1 := by
        rw [show v.toNat + (x.ring 0).slots - (x.ring 0).db = 1 + (x.ring 0).slots by omega, Nat.add_mod_right, Nat.mod_eq_of_lt (by omega)]
      rw [newSlots, hone]
      simp [Nat.mod_eq_of_lt (show (x.ring 0).db < (x.ring 0).slots by omega)]
    have hposts : ((rung 0 v [b] x).ring 0).posted = [{ bytes := padTo 64 b, slot := (x.ring 0).db, remote := none }] := by rw [rung_ring, hnew, hposted]; rfl
    obtain ⟨hpo, hrd⟩ := pumpRing_single hposts (by rw [rung_ring]; exact hread) rfl (by rw [rung_ring]; exact hcan) hact hlen
      (by rw [rung_ring]; exact (by omega : (x.ring 0).db < (x.ring 0).slots)) (by rw [rung_ring]; exact hform)
    have hin := Hoop.intake_of_mail hy 0
    exact ⟨(congrArg (·.2.1) hin).trans hpo, (congrArg Prod.fst hin).trans hrd⟩
  · intro s h x r v e hr hv hused hposted hread
    refine gives_mail (cplHead r v) e rfl fun y hy => ?_
    have hrun : cplHead r v x = pumpRing r (consumed r v x) := if_neg (by rintro (h | h | h) <;> omega)
    rw [hrun] at hy
    have hseat := pumpRing_seat r (consumed r v x) r
    rw [consumed_ring] at hseat
    have hcpls := pumpRing_cpls_of_empty (x := consumed r v x) (r := r) (by rw [consumed_ring]; exact hposted) (by rw [consumed_ring]; exact hread)
    rw [consumed_ring] at hcpls
    obtain ⟨-, hhead, -⟩ := Ring.seated_of_seat ((Hoop.seat_of_mail hy r).trans hseat)
    exact ⟨hhead, (Hoop.cpls_of_mail hy r).trans hcpls⟩
  · intro s h x r v e hr hv hused
    refine gives_mail (evtHead r v) e rfl fun y hy => ?_
    exact congrArg Ring.evtHead ((congrFun hy r).trans (evtHead_mail hr hv hused))
  · intro s h x v e hv hst
    refine gives_mail (reopen0 v) e rfl fun y hy => ?_
    have hrun : reopen0 v x = pumpRing 0 (x.updRing 0 Ring.enable) := if_pos (by rw [hv, hst]; rfl)
    rw [hrun] at hy
    have hseat := pumpRing_seat 0 (x.updRing 0 Ring.enable) 0
    rw [updRing_ring_self] at hseat
    obtain ⟨-, -, hen, -⟩ := Ring.seated_of_seat ((Hoop.seat_of_mail hy 0).trans hseat)
    exact hen.trans (Ring.en_enable _)
  · intro s h x r e hr hen
    refine gives_mail (dmaError r) e rfl fun y hy => ?_
    have hrun : dmaError r x = ringEvent r 3 (x.ring r).tenant (x.setRing r { x.ring r with en := false, dmaErr := true, run := none, read := [] }) :=
      if_neg (by simp [hen]; omega)
    rw [hy, hrun, ringEvent_mail, setRing_mail_self]
    rfl
  · intro s h x r e hr hun hi
    refine gives_mail (moderation r false) e rfl fun y hy => ?_
    have hrun : moderation r false x = msixSend r (x.setRing r { x.ring r with cplUnsig := 0 }) := by
      unfold moderation
      extract_lets g
      have hdue : ¬ (g.cplUnsig = 0 ∨ (!g.intr.getLsbD 0) = true) := by
        rintro (h | h)
        · exact hun h
        · rw [show g.intr.getLsbD 0 = true from hi] at h
          cases h
      rw [if_neg (by omega), if_neg (by decide), if_neg hdue]
    rw [hy, hrun, msixSend_mail, setRing_mail_self]
    rfl
  · intro s h x r e ha hb
    refine gives_mail (fun x => if agentRing r && (x.ring r).bound then x.updRing r refill else x) e rfl fun y hy => ?_
    have hm : (y.ring r).mail = (refill (x.ring r)).mail := by
      have hy' := congrFun hy r
      rw [if_pos (by rw [ha, hb]; rfl)] at hy'
      exact hy'.trans (setRing_mail_self ..)
    have htc : (y.ring r).tc = (refill (x.ring r)).tc := (congrArg Ring.tc hm :)
    have hte : (y.ring r).te = (refill (x.ring r)).te := (congrArg Ring.te hm :)
    rw [htc, hte]
    unfold refill
    repeat' split
    all_goals exact ⟨rfl, rfl⟩
  · intro s h x port a sp p why e hen hd
    refine gives_act (remote port a sp p) e rfl fun y hy => ?_
    rw [remote_drops a sp hen hd] at hy
    obtain ⟨hdrops, haddr⟩ := dropDatagram_mbx why a x
    exact ⟨(Hoop.drops_of_calm hy).trans hdrops, (Hoop.dropAddr_of_calm hy).trans haddr⟩
  · intro s h x port a sp p w e hen hd hoff
    refine gives_mail (remote port a sp p) e rfl fun y hy => ?_
    rw [remote_posts a sp hen hd] at hy
    have hring : (pmcRaw 220 1 (x.updRing (field p 1 1) (datagramPosted a sp p w))).ring (field p 1 1) = datagramPosted a sp p w (x.ring (field p 1 1)) := by
      rw [Hoop.ring, pmcRaw_rings]
      exact updRing_ring_self ..
    have hseat := pumpRing_seat (field p 1 1) (pmcRaw 220 1 (x.updRing (field p 1 1) (datagramPosted a sp p w))) (field p 1 1)
    have hposts := pumpRing_posts (x := pmcRaw 220 1 (x.updRing (field p 1 1) (datagramPosted a sp p w))) (r := field p 1 1)
      ⟨by rw [hring]; exact hoff, rfl⟩
    rw [hring] at hseat hposts
    obtain ⟨-, -, -, hwin⟩ := Ring.seated_of_seat ((Hoop.seat_of_mail hy _).trans hseat)
    exact ⟨hwin, (Hoop.posted_of_mail hy _).trans hposts.2⟩

end Sys2Proof.Machine
end
section
/-!
SUPPORT. The PCIe endpoint and the standby's intake (R314, R443, R455): what a fault of a low severity leaves of the rings, a reset of the endpoint, the
completion at the holder's SEQ and stamp. The statement O51.
-/

namespace Sys2Proof.Machine
open Sys2Proof

/-! ## A fault of S0 or S1 -/

/-- Below S2 a fault is captured, counted, told and recorded, and does nothing else (R280). -/
theorem react_low {sev : Nat} (s det : Nat) (h : sev < 2) (x : Hoop) : react s det sev x = x := by
  have h2 : ¬ 2 ≤ sev := by omega
  have hne : sev ≠ 2 := by omega
  have h3 : ¬ 3 ≤ sev := by omega
  unfold react
  simp only [h2, hne, h3, if_false]

theorem capture_mail (s sev : Nat) (wire : Bool) (x : Hoop) : (capture s sev wire x).mail = x.mail := by
  unfold capture
  extract_lets w f y
  split <;> exact mail_of_rings _ _ rfl

theorem faultRecord_mail (s sev : Nat) (wire : Bool) (extra : List Nat) (x : Hoop) : (faultRecord s sev wire extra x).mail = x.mail := by
  unfold faultRecord
  extract_lets v sec num
  split
  · rfl
  · exact (jnlPut_mail ..).trans (mail_of_rings _ _ rfl)

/-- It leaves the rings but for event entries. -/
theorem fault_mail {s sev : Nat} (det : Nat) (hs : sevOf s = some sev) (h : sev < 2) (x : Hoop) : (fault s det x).mail = x.mail := by
  unfold fault faultOn
  rw [hs]
  dsimp only
  split
  · rfl
  · rw [if_neg Bool.false_ne_true, react_low _ _ h, faultRecord_mail, raiseEv_mail, pmcRaw_mail, capture_mail]
    exact mail_of_rings _ _ rfl

/-! ## A reset of the endpoint (R443) -/

theorem foldl_updRing_ring (f : Nat → Ring → Ring) (n r : Nat) (x : Hoop) :
    ((List.range n).foldl (fun y k => y.updRing k (f k)) x).ring r = if r < n then f r (x.ring r) else x.ring r := by
  induction n with
  | zero => simp
  | succ n ih =>
    rw [List.range_succ, List.foldl_append, List.foldl_cons, List.foldl_nil]
    by_cases hr : r = n
    · subst hr
      rw [updRing_ring_self, ih, if_neg (Nat.lt_irrefl r), if_pos (Nat.lt_succ_self r)]
    · rw [Hoop.updRing, ring_setRing_ne _ _ hr, ih]
      exact if_congr (by omega) rfl rfl

theorem xbar_mail (x : Hoop) (b : Xbar) : ({ x with xbar := b } : Hoop).mail = x.mail := mail_of_rings _ _ rfl

theorem parkGrant_mail (t m : Nat) (x : Hoop) : (parkGrant t m x).mail = x.mail := xbar_mail ..

theorem defaultHit_mail (m : Nat) (write : Bool) (beats addr : Nat) (x : Hoop) : (defaultHit m write beats addr x).mail = x.mail := by
  unfold defaultHit
  extract_lets info dir y b z ms
  have hy : y.mail = x.mail := (pmcRaw_mail ..).trans ((pmcRaw_mail ..).trans ((pmcRaw_mail ..).trans (pmcRaw_mail ..)))
  have hz : z.mail = x.mail := (parkGrant_mail ..).trans ((xbar_mail y _).trans hy)
  split
  · exact hz
  · exact (raiseEv_mail ..).trans ((xbar_mail z _).trans hz)

theorem cutBurst_mail (b : Burst) (x : Hoop) : (cutBurst b x).mail = x.mail := by
  unfold cutBurst
  extract_lets y w z
  split
  · exact parkGrant_mail ..
  · have hz : z.mail = x.mail := by
      unfold z
      split
      · exact (defaultHit_mail ..).trans (parkGrant_mail ..)
      · exact parkGrant_mail ..
    exact (raiseEv_mail ..).trans ((pmcRaw_mail ..).trans ((xbar_mail z _).trans hz))

theorem cutOf_mail (masters : List Nat) (b : Option Burst) (x : Hoop) : (cutOf masters b x).mail = x.mail := by
  unfold cutOf
  repeat' split
  · exact cutBurst_mail ..
  · rfl
  · rfl

theorem Hoop.causePcie_of_calm {x y : Hoop} (h : x.calm = y.calm) : x.boot.causePcie = y.boot.causePcie := congrArg (·.boot.causePcie) h

/-- The rings at their reset values but for binding, meter, key and SEQs. -/
def ringsReset (x : Hoop) : Hoop := (List.range 16).foldl (fun y r => y.updRing r (Ring.pcieReset r)) x

theorem ringsReset_ring {r : Nat} (hr : r < 16) (x : Hoop) : (ringsReset x).ring r = (x.ring r).pcieReset r :=
  (foldl_updRing_ring Ring.pcieReset 16 r x).trans (if_pos hr)

/-- The endpoint without link and vectors, its reset noted. -/
def Hoop.unplugged (x : Hoop) : Hoop :=
  { x with boot := { x.boot with causePcie := true }, mbx := { x.mbx with msixTable := [] }
           pwr := { x.pwr with linkUp := false, linkRate := 0, linkWidth := 0, d3 := false } }

theorem Hoop.unplugged_view (x : Hoop) : x.unplugged.boot.causePcie = true ∧ x.unplugged.pwr.linkUp = false := ⟨rfl, rfl⟩

theorem Hoop.unplugged_mail (x : Hoop) : x.unplugged.mail = x.mail := mail_of_rings _ _ rfl

/-- A reset of the endpoint resets the rings and raises source 197. -/
theorem pcieReset_eq (cause : Nat) (cut : Option Burst) {x : Hoop} (hpor : x.boot.por = false) :
    pcieReset cause cut x = raiseEv 565 [cause, 0, 0] .hoop (fault 197 noDet (ringsReset (cutOf [4] cut x)).unplugged) := if_neg (by rw [hpor]; decide)

/-- What a reset of the endpoint leaves of a ring. -/
theorem Ring.pcieReset_fields {r : Nat} {g g' g₀ : Ring} (h : g.mail = (g'.pcieReset r).mail) (h' : g'.mail = g₀.mail) :
    g.en = false ∧ g.read = [] ∧ g.posted = [] ∧ g.bound = g₀.bound ∧ g.tenant = g₀.tenant ∧ g.tc = g₀.tc ∧ g.key = g₀.key ∧ g.cplSeq = g₀.cplSeq := by
  have hreset : (ringReset r).en = false ∧ (ringReset r).read = [] ∧ (ringReset r).posted = [] := by
    unfold ringReset
    split <;> exact ⟨rfl, rfl, rfl⟩
  exact ⟨(congrArg Ring.en h :).trans hreset.1, (congrArg Ring.read h :).trans hreset.2.1, (congrArg Ring.posted h :).trans hreset.2.2,
    (congrArg Ring.bound h :).trans (congrArg Ring.bound h' :), (congrArg Ring.tenant h :).trans (congrArg Ring.tenant h' :),
    (congrArg Ring.tc h :).trans (congrArg Ring.tc h' :), (congrArg Ring.key h :).trans (congrArg Ring.key h' :), (congrArg Ring.cplSeq h :).trans (congrArg Ring.cplSeq h' :)⟩

theorem pumpAll_calm (x : Hoop) : (pumpAll x).calm = x.calm := by
  unfold pumpAll
  split
  · exact foldl_keeps Hoop.calm _ (fun y r => pumpRing_calm r y) _ x
  · rfl

/-- What a row's own operation says of the blocks that `settle` leaves alone, of the fault collector and of the rings holds after the row. -/
theorem gives_act_mail {i : Instr} {s : State} {h : HoopId} {x : Hoop} {P : Hoop → Prop} (f : Hoop → Hoop) (e : s.here h x) (hx : exec i s = .next (s.act h f))
    (hP : ∀ y : Hoop, y.calm = (f x).calm → y.lines = (f x).lines → y.mail = (f x).mail → P y) : CompletesWith i s h P := by
  obtain ⟨e, rfl⟩ := e
  exact ⟨_, hx, hP _ (act_calm s h f e) (act_lines s h f e) (act_mail s h f e)⟩

/-! ## The standby's intake (R314) -/

/-- Header and length of a NOP, and the span of names in its TLVs, are all that check 3 asks of it: the clock does not matter. -/
theorem fieldsOk_of_part {x y : Hoop} {b : Bytes} (hop : (hdrOf b).opcode = 0) (h : x.part = y.part) (r : Nat) : fieldsOk x r b = fieldsOk y r b := by
  have hn : x.n = y.n := by rw [Hoop.n, Hoop.n, h]
  have hepoch : opEpoch 0 = false := by decide
  simp only [fieldsOk, hdrOk, descOk, portOk, hop, hn, hepoch, Bool.false_eq_true, if_false]

/-- SEQ after the one that lets the holder's come next. -/
theorem nextSeq_before {q : Nat} (h1 : 1 ≤ q) (h2 : q < 2 ^ 48) : nextSeq (if q = 1 then 2 ^ 48 - 1 else q - 1) = q := by
  unfold nextSeq
  split <;> split <;> omega

/-- The hoop with its timebase as it stood at the holder's stamp. -/
def Hoop.asOf (x : Hoop) (st : Stamp) : Hoop := { x with tb := x.tb.atStamp st }

theorem Hoop.asOf_part (x : Hoop) (st : Stamp) : (x.asOf st).part = x.part := by
  unfold Hoop.asOf
  rfl

/-- The hoop back at its own time. -/
def Hoop.backAt (x : Hoop) (t : Tb) : Hoop := { x with tb := { x.tb with acc := t.acc, wrap := t.wrap } }

theorem Hoop.asOf_ring (x : Hoop) (st : Stamp) (r : Nat) : (x.asOf st).ring r = x.ring r := by
  unfold Hoop.asOf Hoop.ring
  rfl

theorem Hoop.asOf_pair (x : Hoop) (st : Stamp) : (x.asOf st).pair = x.pair := by
  unfold Hoop.asOf
  rfl

theorem Hoop.backAt_ring (x : Hoop) (t : Tb) (r : Nat) : (x.backAt t).ring r = x.ring r := by
  unfold Hoop.backAt Hoop.ring
  rfl

theorem Hoop.backAt_pair (x : Hoop) (t : Tb) : (x.backAt t).pair = x.pair := by
  unfold Hoop.backAt
  rfl

theorem answer_nop {k : Ctx} {x : Hoop} (hop : (hdrOf k.cmd.bytes).opcode = 0) (hab : k.cmd.aborted = false)
    (hf : fieldsOk (breakRun k.ring 0 x) k.ring k.cmd.bytes = true) : answer nopVerb k x = ({ status := 0 }, breakRun k.ring 0 x) := by
  unfold answer
  simp only [hop, hab, hf, Bool.false_eq_true, if_false, Bool.not_true]
  simp [nopVerb, anyForm, agentOp]

/-- What a standby's own checks give for a NOP that is not struck (R314). -/
theorem ownAnswer_nop {failN : Bool} {peer x : Hoop} {d : Digest} {c : ReadCmd} (hs : d.status = 0) (hop : (hdrOf c.bytes).opcode = 0) (href : c.refusal = none)
    (hab : c.aborted = false) (hf : fieldsOk x d.ring c.bytes = true) :
    ownAnswer failN peer d c x = ({ status := 0 }, (breakRun d.ring 0 (x.asOf d.stamp)).backAt x.tb) := by
  have h1 := fieldsOk_of_part hop (breakRun_part d.ring 0 (x.asOf d.stamp)) d.ring
  have h2 := fieldsOk_of_part (x := x.asOf d.stamp) (y := x) hop (Hoop.asOf_part ..) d.ring
  have hfields := h1.trans (h2.trans hf)
  have hans := answer_nop (k := { ring := d.ring, cmd := c, seq := d.seq, peer := peer }) hop hab hfields
  unfold ownAnswer
  rw [if_neg (by rw [hs]; decide), href, hop]
  exact congrArg (fun q : Ans × Hoop => (q.1, q.2.backAt x.tb)) hans

/-- With the holder's SEQ and stamp given, the front command completes under them. -/
theorem completeFront_holder {r : Nat} {a : Ans} {x : Hoop} {c : ReadCmd} {q : Nat × Stamp} (hr : (x.ring r).read = [c]) (hans : answers x r c = true)
    (h1 : 1 ≤ q.1) (h2 : q.1 < 2 ^ 48) : (completeFront r a (some q) x).intake r = ([], (x.ring r).posted, (x.ring r).run) ∧
      ∃ cp, ((completeFront r a (some q) x).ring r).cpls = (x.ring r).cpls ++ [cp] ∧ cp.seq = q.1 ∧ cp.stamp = q.2 ∧
        cp.status = BitVec.ofNat 8 (a.status + if (x.ring r).cplPhase then 128 else 0) ∧ cp.tag = (hdrOf c.bytes).tag := by
  unfold completeFront
  extract_lets g ep
  split
  next hnil => exact absurd (hr.symm.trans hnil) (by simp)
  next d rest' hcons =>
    obtain ⟨rfl, rfl⟩ := List.cons.inj (hcons.symm.trans hr)
    extract_lets y hd st seq z mk ph u v w
    have hy : y.ring r = { g with read := [] } := ring_setRing_self ..
    have hz : z.ring r = { g with read := [], cplSeq := if q.1 = 1 then 2 ^ 48 - 1 else q.1 - 1 } :=
      (updRing_ring_self ..).trans (congrArg (fun g : Ring => ({ g with cplSeq := if q.1 = 1 then 2 ^ 48 - 1 else q.1 - 1 } : Ring)) hy)
    have hu : (u.ring r).cpls = g.cpls ++ [mk q.1 g.cplPhase] := by
      refine (putCpl_cpls ..).trans ?_
      rw [hz]
      simp only [nextSeq_before h1 h2]
    have hin : u.intake r = ([], g.posted, g.run) := (putCpl_intake ..).trans (by rw [Hoop.intake, hz])
    have hv : v.mail = u.mail := by
      refine (mail_of_rings _ _ (noteAccepted_rings ..)).trans ?_
      split
      · rfl
      · exact pmcRaw_mail ..
    have hw : w.mail = u.mail := (mail_of_rings _ _ (remoteReply_rings ..)).trans hv
    have hwin := (Hoop.intake_of_mail hw r).trans hin
    have hwc := (Hoop.cpls_of_mail hw r).trans hu
    rw [if_neg (show ¬ (!answers y r d) = true by rw [show answers y r d = true from hans]; decide)]
    split
    · exact ⟨hwin, _, hwc, rfl, rfl, rfl, rfl⟩
    · exact ⟨hwin, _, hwc, rfl, rfl, rfl, rfl⟩

/-- The pair link with its digests to send left out. -/
def Hoop.bond (x : Hoop) : Pair := { x.pair with sent := [] }

theorem Hoop.bond_of_untold {x y : Hoop} (h : x.untold = y.untold) : x.bond = y.bond := (congrArg Hoop.bond h :)

theorem putCpl_bond (r : Nat) (mk : Nat → Bool → Cpl) (x : Hoop) : (putCpl r mk x).bond = x.bond := by
  unfold putCpl
  extract_lets g seq c tail sig y
  split
  · exact (Hoop.bond_of_untold (msixSend_untold ..)).trans rfl
  · rfl

theorem noteAccepted_pair (st : Nat) (x : Hoop) : (noteAccepted st x).pair = x.pair := by
  unfold noteAccepted
  split <;> rfl

theorem remoteReply_pair (r : Nat) (m : Option Remote) (c : Cpl) (x : Hoop) : (remoteReply r m c x).pair = x.pair := by
  unfold remoteReply
  split <;> rfl

/-- A completion adds a digest to those to send, and changes nothing else of the pair link (R314). -/
theorem completeFront_bond (r : Nat) (a : Ans) (hold : Option (Nat × Stamp)) (x : Hoop) : (completeFront r a hold x).bond = x.bond := by
  unfold completeFront
  extract_lets g ep
  split
  · rfl
  next c rest =>
    extract_lets y hd st seq z mk ph u v w
    have hz : z.bond = x.bond := by
      unfold z
      split <;> rfl
    have hv : v.bond = u.bond := by
      refine (congrArg (fun p : Pair => { p with sent := [] }) (noteAccepted_pair ..)).trans ?_
      split
      · rfl
      · exact Hoop.bond_of_untold (pmcRaw_untold ..)
    have hw : w.bond = x.bond :=
      (congrArg (fun p : Pair => { p with sent := [] }) (remoteReply_pair ..)).trans (hv.trans ((putCpl_bond ..).trans hz))
    split
    · rfl
    · split
      · exact hw
      · exact hw

/-- What the intake makes of the hoop before its own checks: the digest taken, its wait noted. -/
def digestTaken (d : Digest) (rest : List Digest) (x : Hoop) : Hoop :=
  { x with pair := { x.pair with awaiting := rest, longestUs := BitVec.ofNat 16 (max x.pair.longestUs.toNat (min 65535 ((x.now - d.sentAt) / 1000))) } }

/-- What the standby does with its own answer (R314). -/
def digestMatched (d : Digest) (rest : List Digest) (c : ReadCmd) (x : Hoop) (q : Ans × Hoop) : Hoop :=
  if !agrees q.1 d then fault 160 noDet (noteMismatch 2 d.seq x)
  else
    let y := completeFront d.ring q.1 (some (d.seq, d.stamp)) (served d.ring c q.2)
    let y := pumpRing d.ring { y with pair := { y.pair with sent := x.pair.sent } }
    if y.pair.role == .active && rest.isEmpty then pumpAll y else y

theorem intakeDigest_eq (failN : Bool) (peer : Hoop) {x : Hoop} {d : Digest} {c : ReadCmd} {rest : List Digest} (hrole : x.pair.role = .standby)
    (haw : x.pair.awaiting = d :: rest) (hm : matchFront x d = some c) :
    intakeDigest failN peer x = digestMatched d rest c (digestTaken d rest x) (ownAnswer failN peer d c (digestTaken d rest x)) := by
  unfold intakeDigest
  rw [haw]
  dsimp only
  rw [if_neg (by rw [hrole]; decide), hm]
  rfl

/-- On a ring where nothing waits, reading changes only whether it is held. -/
theorem pumpRing_of_empty {r : Nat} {x : Hoop} (hp : (x.ring r).posted = []) (hr : (x.ring r).read = []) :
    pumpRing r x = x.updRing r (fun g => { g with cplFull := g.en && !g.posted.isEmpty && !cplRoom g }) := by
  unfold pumpRing
  extract_lets g y
  rw [show y = x from pump_of_empty hp hr _]

/-- Completed at the holder's SEQ, a STANDBY whose ring waits for nothing more stops there. -/
theorem digestMatched_agrees {d : Digest} {rest : List Digest} {c : ReadCmd} {x y : Hoop} {a : Ans} (hag : agrees a d = true)
    (hrole : (completeFront d.ring a (some (d.seq, d.stamp)) (served d.ring c y)).bond.role = .standby)
    (hr : ((completeFront d.ring a (some (d.seq, d.stamp)) (served d.ring c y)).ring d.ring).read = [])
    (hp : ((completeFront d.ring a (some (d.seq, d.stamp)) (served d.ring c y)).ring d.ring).posted = []) :
    ((digestMatched d rest c x (a, y)).ring d.ring).cpls = ((completeFront d.ring a (some (d.seq, d.stamp)) (served d.ring c y)).ring d.ring).cpls ∧
      ((digestMatched d rest c x (a, y)).ring d.ring).read = [] := by
  unfold digestMatched
  rw [if_neg (by rw [hag]; decide)]
  generalize completeFront d.ring a (some (d.seq, d.stamp)) (served d.ring c y) = z at hrole hr hp
  have hpump := pumpRing_of_empty (x := { z with pair := { z.pair with sent := x.pair.sent } }) hp hr
  have hstandby : (pumpRing d.ring { z with pair := { z.pair with sent := x.pair.sent } }).pair.role = .standby := by
    rw [hpump]
    exact hrole
  dsimp only
  rw [if_neg (by rw [hstandby]; simp), hpump, updRing_ring_self]
  exact ⟨rfl, hr⟩

/-- A NOP's own answer leaves the standby's ring but for its run, and the pair link. -/
theorem nopOwn_view (d : Digest) (x : Hoop) : (∃ run, (((breakRun d.ring 0 (x.asOf d.stamp)).backAt x.tb).ring d.ring) = { x.ring d.ring with run := run }) ∧
    ((breakRun d.ring 0 (x.asOf d.stamp)).backAt x.tb).pair = x.pair := by
  obtain ⟨run, h⟩ := breakRun_ring_self d.ring 0 (x.asOf d.stamp)
  rw [Hoop.backAt_ring, h, Hoop.asOf_ring, Hoop.backAt_pair, breakRun_pair, Hoop.asOf_pair]
  exact ⟨⟨run, rfl⟩, rfl⟩

/-- A NOP alone on its ring, of which the holder says that it completed: it completes at the holder's SEQ and stamp (R314). -/
theorem intakeDigest_nop {failN : Bool} {peer x : Hoop} {d : Digest} {c : ReadCmd} {rest : List Digest} (hrole : x.pair.role = .standby)
    (haw : x.pair.awaiting = d :: rest) (hm : matchFront x d = some c) (hr : (x.ring d.ring).read = [c]) (hp : (x.ring d.ring).posted = [])
    (href : c.refusal = none) (hab : c.aborted = false) (hop : (hdrOf c.bytes).opcode = 0) (hf : fieldsOk x d.ring c.bytes = true)
    (hst : d.status = 0) (hsec : d.epochSec = 0) (hns : d.epochNs = 0) (h1 : 1 ≤ d.seq) (h2 : d.seq < 2 ^ 48) :
    ∃ cp, (((intakeDigest failN peer x).ring d.ring).cpls = (x.ring d.ring).cpls ++ [cp] ∧ cp.seq = d.seq ∧ cp.stamp = d.stamp ∧
      cp.status.toNat % 128 = 0 ∧ cp.tag = (hdrOf c.bytes).tag) ∧ ((intakeDigest failN peer x).ring d.ring).read = [] := by
  have hown := ownAnswer_nop (failN := failN) (peer := peer) (x := digestTaken d rest x) hst hop href hab
    ((fieldsOk_of_part (y := x) hop rfl d.ring).trans hf)
  have hag : agrees { status := 0 } d = true := by simp [agrees, hst, hsec, hns]
  rw [intakeDigest_eq failN peer hrole haw hm, hown]
  obtain ⟨hring, hpair⟩ := nopOwn_view d (digestTaken d rest x)
  generalize (breakRun d.ring 0 ((digestTaken d rest x).asOf d.stamp)).backAt (digestTaken d rest x).tb = y at hring hpair
  obtain ⟨run, hring⟩ := hring
  obtain ⟨hsv, hsp, -, -⟩ := served_view d.ring c y
  rw [hring] at hsv
  rw [hpair] at hsp
  have hans : answers (served d.ring c y) d.ring c = true := by
    unfold answers
    rw [hsp, show (digestTaken d rest x).pair.role = .standby from hrole]
  obtain ⟨hin, cp, hcpls, hseq, hstamp, hstatus, htag⟩ := completeFront_holder (a := { status := 0 }) (q := (d.seq, d.stamp))
    ((congrArg Ring.read hsv).trans hr) hans h1 h2
  have hbond := completeFront_bond d.ring { status := 0 } (some (d.seq, d.stamp)) (served d.ring c y)
  have hrun := digestMatched_agrees (rest := rest) (c := c) (x := digestTaken d rest x) (y := y) hag
    ((congrArg Pair.role hbond).trans ((congrArg Pair.role hsp).trans hrole)) (Hoop.intake_iff.mp hin).1 ((Hoop.intake_iff.mp hin).2.1.trans ((congrArg Ring.posted hsv).trans hp))
  rw [hrun.1, hrun.2]
  refine ⟨cp, ⟨hcpls.trans (congrArg (fun g : Ring => g.cpls ++ [cp]) hsv :), hseq, hstamp, ?_, htag⟩, rfl⟩
  rw [hstatus]
  split <;> rfl

/-- A form refusal of its own, where the holder says otherwise (R314). -/
theorem intakeDigest_mismatch (failN : Bool) (peer : Hoop) {x : Hoop} {d : Digest} {c : ReadCmd} {rest : List Digest} (hrole : x.pair.role = .standby)
    (haw : x.pair.awaiting = d :: rest) (hm : matchFront x d = some c) (href : c.refusal = some 4) (h7 : d.status ≠ 7) (h4 : d.status ≠ 4) :
    ∃ z, intakeDigest failN peer x = fault 160 noDet z ∧ z.pair.cmpMis = satInc x.pair.cmpMis := by
  have hown : (ownAnswer failN peer d c (digestTaken d rest x)).1 = { status := 4 } := by
    unfold ownAnswer
    rw [if_neg h7, href]
  have hag : agrees (ownAnswer failN peer d c (digestTaken d rest x)).1 d = false := by
    rw [hown, agrees, show ((4 : Nat) == d.status) = false from beq_false_of_ne (Ne.symm h4), Bool.false_and]
  rw [intakeDigest_eq failN peer hrole haw hm]
  exact ⟨_, if_pos (by rw [hag]; rfl), Hoop.cmpMis_of_calm (raiseEv_calm ..)⟩

/-- Settles O51: the reset's rings, source 197 and the intake's two ends, each read off the row's own operation. -/
theorem endpointRows : Obligations.EndpointRows := by
  unfold Obligations.EndpointRows
  refine ⟨?reset, ?up, ?d3, ?agrees, ?differs⟩
  case reset =>
    intro s h x cause cut r e hpor hr
    refine gives_act_mail (pcieReset cause cut) e rfl fun y hc hl hm => ?_
    rw [pcieReset_eq cause cut hpor] at hc hl hm
    have hc' := hc.trans ((raiseEv_calm ..).trans (fault_calm ..))
    have hm' : (y.ring r).mail = (((cutOf [4] cut x).ring r).pcieReset r).mail := by
      rw [raiseEv_mail, fault_mail (sev := 1) noDet rfl (by decide), Hoop.unplugged_mail] at hm
      exact (congrFun hm r).trans (congrArg Ring.mail (ringsReset_ring hr (cutOf [4] cut x)))
    have hcut : ((cutOf [4] cut x).ring r).mail = (x.ring r).mail := congrFun (cutOf_mail [4] cut x) r
    obtain ⟨hen, hread, hposted, hbound, htag, htc, hkey, hseq⟩ := Ring.pcieReset_fields hm' hcut
    obtain ⟨hcause, hlink⟩ := Hoop.unplugged_view (ringsReset (cutOf [4] cut x))
    refine ⟨(Hoop.causePcie_of_calm hc').trans hcause, (congrArg Pwr.linkUp (Hoop.pwr_of_calm hc')).trans hlink, ?_, hen, hread, hposted, hbound, htag, htc, hkey, hseq⟩
    rw [Hoop.src_of_lines hl, Hoop.src_of_lines (raiseEv_lines ..)]
    exact fault_live noDet rfl
  case up =>
    intro s h x rate width e hpor
    refine gives_act_lines (pcieUp rate width) e rfl fun y hc hl => ?_
    have hrun : pcieUp rate width x = raiseEv 565 [3, rate, width] .hoop (faultOff 197 { x with pwr := { x.pwr with linkUp := true, linkRate := rate, linkWidth := width } }) :=
      if_neg (by rw [hpor]; decide)
    rw [hrun] at hc hl
    refine ⟨(Hoop.pwr_of_calm (hc.trans ((raiseEv_calm ..).trans (faultOff_calm ..)))).trans rfl, fun hag => ?_⟩
    rw [Hoop.src_of_lines hl, Hoop.src_of_lines (raiseEv_lines ..)]
    exact faultOff_not_live hag
  case d3 =>
    intro s h x d3 e
    refine gives_act (powerState d3) e rfl fun y hc => (Hoop.pwr_of_calm hc).trans ?_
    unfold powerState
    extract_lets p z
    split
    · rfl
    · exact (Hoop.pwr_of_calm (pumpAll_calm z)).trans rfl
  case agrees =>
    intro s h x d c rest e hdup hrole haw hr16 hm hr hp href hab hop hans hf hst hsec hns h1 h2
    have hf' : fieldsOk x d.ring c.bytes = true := (fieldsOk_of_part hop (breakRun_part d.ring 0 x).symm d.ring).trans hf
    obtain ⟨cp, ⟨hcpls, hcp⟩, hread⟩ := intakeDigest_nop (failN := s.balls.pwrFailN) (peer := s.hoop (other h)) hrole haw hm hr hp href hab hop hf' hst hsec hns h1 h2
    refine gives_mail (intakeDigest s.balls.pwrFailN (s.hoop (other h))) e (congrArg _ (if_pos hdup)) fun y hy => ?_
    exact ⟨(congrArg Prod.fst (Hoop.intake_of_mail hy d.ring)).trans hread, cp, (Hoop.cpls_of_mail hy d.ring).trans hcpls, hcp⟩
  case differs =>
    intro s h x d c rest e hdup hrole haw hm href h7 h4
    refine gives_act_lines (intakeDigest s.balls.pwrFailN (s.hoop (other h))) e (congrArg _ (if_pos hdup)) fun y hc hl => ?_
    obtain ⟨z, hrun, hz⟩ := intakeDigest_mismatch s.balls.pwrFailN (s.hoop (other h)) hrole haw hm href h7 h4
    rw [hrun] at hc hl
    refine ⟨?_, (Hoop.cmpMis_of_calm (hc.trans (fault_calm ..))).trans hz⟩
    rw [Hoop.src_of_lines hl]
    exact fault_live noDet rfl

end Sys2Proof.Machine
end

section
/-!
SUPPORT. The Walimin block of a hoop through `settle`: in a quiet module whose hoops hold no frame for each other, `settle` writes nothing of it, and
in any quiet module no frame leaves an output queue.
-/

namespace Sys2Proof.Machine
open Sys2Proof

/-! ## What a network row reads and writes -/

/-- Sources whose counts the statements on notices, time checks and telemetry name. -/
def isNote (n : Nat) : Bool := 523 ≤ n && n ≤ 525

/-- The Walimin block and the count of one event. -/
def Hoop.wire (n : Nat) (x : Hoop) : Part × Wlm × Word := (x.part, x.wlm, smGet 0 x.evt.cnt n)

/-- What keeps a module still: no reaction line, no parity error, no frame for the other hoop. -/
def Hoop.gate (x : Hoop) : Part × Bool × Bool × List Bytes := (x.part, x.lineOn, x.dk.fcPar, x.wlm.handOff)

theorem Hoop.wlm_of_wire {n : Nat} {x y : Hoop} (h : x.wire n = y.wire n) : x.wlm = y.wlm := congrArg (fun q => q.2.1) h

theorem Hoop.part_of_wire {n : Nat} {x y : Hoop} (h : x.wire n = y.wire n) : x.part = y.part := congrArg (fun q => q.1) h

theorem Hoop.cnt_of_wire {n : Nat} {x y : Hoop} (h : x.wire n = y.wire n) : smGet 0 x.evt.cnt n = smGet 0 y.evt.cnt n := congrArg (fun q => q.2.2) h

theorem pmcRaw_pmc (c n : Nat) (x : Hoop) : ∃ p, pmcRaw c n x = { x with pmc := p } := by
  unfold pmcRaw
  split
  · extract_lets v pre v'
    split
    · exact ⟨_, rfl⟩
    · exact ⟨_, rfl⟩
  · exact ⟨x.pmc, rfl⟩

@[simp] theorem pmcRaw_wlm (c n : Nat) (x : Hoop) : (pmcRaw c n x).wlm = x.wlm := by
  obtain ⟨p, e⟩ := pmcRaw_pmc c n x
  rw [e]

@[simp] theorem pmcRaw_wire (m c n : Nat) (x : Hoop) : (pmcRaw c n x).wire m = x.wire m := by
  obtain ⟨p, e⟩ := pmcRaw_pmc c n x
  rw [e]; rfl

@[simp] theorem pmcRaw_gate (c n : Nat) (x : Hoop) : (pmcRaw c n x).gate = x.gate := by
  obtain ⟨p, e⟩ := pmcRaw_pmc c n x
  rw [e]; rfl

@[simp] theorem msixSend_wire (m v : Nat) (x : Hoop) : (msixSend v x).wire m = x.wire m := (pmcRaw_wire ..).trans rfl

theorem setRing_wire (m r : Nat) (g : Ring) (x : Hoop) : (x.setRing r g).wire m = x.wire m := rfl

@[simp] theorem deliverEv_wire (m r src : Nat) (p : List Nat) (x : Hoop) : (deliverEv r src p x).wire m = x.wire m := by
  unfold deliverEv deliverEvAt
  extract_lets g
  split
  · rfl
  · split
    · exact (pmcRaw_wire ..).trans rfl
    · unfold putEventAt
      extract_lets h tail sig y
      split
      · exact (msixSend_wire ..).trans (setRing_wire ..)
      · exact setRing_wire ..

/-- The event counted, before it is delivered. -/
def countEv (src : Nat) (x : Hoop) : Hoop :=
  pmcRaw 231 1 { x with evt := { x.evt with raised := x.evt.raised + 1, cnt := smUpd 0 x.evt.cnt src (fun c => c + 1) } }

/-- Of an event, the Walimin block and the counts see only that it is counted. -/
theorem raiseEv_wire_count (m src : Nat) (p : List Nat) (sc : Scope) (x : Hoop) : (raiseEv src p sc x).wire m = (countEv src x).wire m := by
  have h2 : ∀ y : Hoop, (if y.evt.sub.getLsbD src then deliverEv 0 src p y else y).wire m = y.wire m := by
    intro y; split <;> simp
  unfold raiseEv
  extract_lets s1 z s2 w
  split
  · split <;> rfl
  · split
    · refine (foldl_keeps (Hoop.wire m) _ ?_ _ w).trans (h2 z)
      intro y r; split <;> simp
    · rfl

theorem wire_evt (m : Nat) (x : Hoop) (e : Evt) : ({ x with evt := e } : Hoop).wire m = (x.part, x.wlm, smGet 0 e.cnt m) := rfl

theorem countEv_wire (m src : Nat) (x : Hoop) : (countEv src x).wire m = (x.part, x.wlm, smGet 0 (smUpd 0 x.evt.cnt src (fun c => c + 1)) m) :=
  (pmcRaw_wire ..).trans (wire_evt ..)

theorem countEv_wire_ne {m src : Nat} (h : m ≠ src) (x : Hoop) : (countEv src x).wire m = x.wire m := by
  rw [countEv_wire, smGet_smUpd_ne 0 x.evt.cnt _ h]; rfl

theorem raiseEv_wire {m src : Nat} (h : m ≠ src) (p : List Nat) (sc : Scope) (x : Hoop) : (raiseEv src p sc x).wire m = x.wire m :=
  (raiseEv_wire_count ..).trans (countEv_wire_ne h x)

@[simp] theorem raiseEv_wlm (src : Nat) (p : List Nat) (sc : Scope) (x : Hoop) : (raiseEv src p sc x).wlm = x.wlm :=
  Hoop.wlm_of_wire (raiseEv_wire (Nat.succ_ne_self src) p sc x)

/-- An event raised is counted once. -/
theorem raiseEv_cnt (src : Nat) (p : List Nat) (sc : Scope) (x : Hoop) : smGet 0 (raiseEv src p sc x).evt.cnt src = smGet 0 x.evt.cnt src + 1 := by
  have h := congrArg (fun q => q.2.2) ((raiseEv_wire_count src src p sc x).trans (countEv_wire ..))
  exact h.trans (smGet_smUpd_self ..)

theorem Hoop.gate_of {x y : Hoop} (hl : x.lines = y.lines) (hc : x.core = y.core) (hw : x.wlm = y.wlm) : x.gate = y.gate := by
  have hs : x.fc.src = y.fc.src := (congrArg Fc.src hl :)
  have hp : x.part = y.part := (congrArg Hoop.part hc :)
  have hk : x.dk.fcPar = y.dk.fcPar := (congrArg (fun z : Hoop => z.dk.fcPar) hc :)
  unfold Hoop.gate Hoop.lineOn Hoop.liveSev
  rw [hs, hp, hk, hw]

@[simp] theorem raiseEv_gate (src : Nat) (p : List Nat) (sc : Scope) (x : Hoop) : (raiseEv src p sc x).gate = x.gate :=
  Hoop.gate_of (raiseEv_lines ..) (raiseEv_core ..) (raiseEv_wlm ..)

theorem jnlQueue_wire {m : Nat} (h : isNote m = true) (j : JRec) (x : Hoop) : (jnlQueue j x).wire m = x.wire m := by
  have h0 : m ≠ 460 := by rintro rfl; exact absurd h (by decide)
  have lose : ∀ (j : JRec) (y : Hoop), (jnlLose j y).wire m = y.wire m := fun j y => (raiseEv_wire h0 ..).trans rfl
  have old : (if x.jnl.buf.isEmpty then { x with jnl := { x.jnl with oldest := x.now } } else x).wire m = x.wire m := by split <;> rfl
  unfold jnlQueue
  extract_lets y
  split
  · exact old
  · split
    · exact (lose ..).trans old
    · exact (lose ..).trans old

theorem jnlPut_wire {m : Nat} (h : isNote m = true) (ty sev src : Nat) (w : Bool) (p : Bytes) (x : Hoop) : (jnlPut ty sev src w p x).wire m = x.wire m :=
  jnlQueue_wire h ..

/-! ## What a quiet `settle` does to it -/

theorem setRole_wire {m : Nat} (h : isNote m = true) (r : Role) (c : Nat) (x : Hoop) : (setRole r c x).wire m = x.wire m := by
  unfold setRole
  split
  · rfl
  · exact (raiseEv_wire (by rintro rfl; exact absurd h (by decide)) ..).trans rfl

theorem tellFirst_wire {m : Nat} (h : isNote m = true) (x : Hoop) : (tellFirst x).wire m = x.wire m := by
  unfold tellFirst
  split
  · exact (raiseEv_wire (by rintro rfl; exact absurd h (by decide)) ..).trans rfl
  · rfl

theorem settleVouch_wire {m : Nat} (h : isNote m = true) (x : Hoop) : (settleVouch x).wire m = x.wire m := by
  unfold settleVouch
  extract_lets v
  split
  · rfl
  · exact (raiseEv_wire (by rintro rfl; exact absurd h (by decide)) ..).trans rfl

theorem settleStage_wire {m : Nat} (h : isNote m = true) (x : Hoop) : (settleStage x).wire m = x.wire m := by
  unfold settleStage setStage
  split
  · exact (raiseEv_wire (by rintro rfl; exact absurd h (by decide)) ..).trans rfl
  · rfl

theorem pmcTell_wire {m : Nat} (h : isNote m = true) (x : Hoop) : (pmcTell x).wire m = x.wire m := by
  have h0 : m ≠ 553 := by rintro rfl; exact absurd h (by decide)
  unfold pmcTell
  extract_lets fresh
  refine (foldl_keeps (Hoop.wire m) _ ?_ _ _).trans rfl
  intro y c; split
  · exact (raiseEv_wire h0 ..).trans (msixSend_wire ..)
  · rfl

/-- A view that an effect keeps of every hoop stands after the effect on one. -/
theorem State.upd_view {γ : Type} (p : Hoop → γ) (s : State) (h k : HoopId) (f : Hoop → Hoop) (e : ∀ x, p (f x) = p x) : p ((s.upd h f).hoop k) = p (s.hoop k) := by
  unfold State.upd; split
  · cases h <;> cases k <;> simp [State.setHoop, State.hoop, e]
  · rfl

/-- The same of an effect that keeps it of the hoop that it finds. -/
theorem State.upd_view_at {γ : Type} (p : Hoop → γ) (s : State) (h k : HoopId) (f : Hoop → Hoop) (e : p (f (s.hoop h)) = p (s.hoop h)) :
    p ((s.upd h f).hoop k) = p (s.hoop k) := by
  unfold State.upd; split
  · cases h <;> cases k <;> simp_all [State.setHoop, State.hoop]
  · rfl

/-- The hoop without its token. -/
theorem wire_pair (m : Nat) (x : Hoop) (p : Pair) : ({ x with pair := p } : Hoop).wire m = x.wire m := rfl

theorem settleRole_wire {m : Nat} (hm : isNote m = true) (s : State) (h k : HoopId) : ((settleRole s h).hoop k).wire m = (s.hoop k).wire m := by
  have e : ∀ s : State, ((if (s.hoop h).pair.role = .resync ∧ (!((s.hoop h).liveSev 4).isEmpty ∨ (s.hoop (other h)).pair.role ≠ .active) then
      s.upd h (setRole .monitor 0xFFFF) else s).hoop k).wire m = (s.hoop k).wire m := by
    intro s; split
    · exact State.upd_view (Hoop.wire m) s h k _ (fun _ => setRole_wire hm ..)
    · rfl
  unfold settleRole; split
  · rfl
  · extract_lets x t
    split
    · exact (State.upd_view (Hoop.wire m) t h k _ (fun y => (setRole_wire hm ..).trans (wire_pair ..))).trans (e s)
    · exact e s

/-- No hoop of a pair holds a frame for the other. -/
def State.noHandOff (s : State) : Prop := Config.duplex s.a.part = true → ∀ k, (s.hoop k).wlm.handOff = []

theorem State.noHandOff_of_wire {m : Nat} {s t : State} (h : ∀ k, (t.hoop k).wire m = (s.hoop k).wire m) (hs : s.noHandOff) : t.noHandOff := by
  intro hd k
  have hp : t.a.part = s.a.part := Hoop.part_of_wire (h .hoopA)
  rw [Hoop.wlm_of_wire (h k)]
  exact hs (hp ▸ hd) k

theorem settleLink_wire {m : Nat} {s : State} (hs : s.noHandOff) (h k : HoopId) : ((settleLink s h).hoop k).wire m = (s.hoop k).wire m := by
  unfold settleLink; split
  · rfl
  next hd =>
    have hn := hs (by simpa using hd)
    extract_lets x p t u
    have ht : ∀ k, (t.hoop k).wire m = (s.hoop k).wire m := fun k => State.upd_view (Hoop.wire m) s p k _ (fun y => by split <;> rfl)
    have hu : u = t := by
      show x.wlm.handOff.foldl _ t = t
      rw [hn h]; rfl
    rw [hu]
    refine (State.upd_view_at (Hoop.wire m) t h k _ ?_).trans (ht k)
    have e : (t.hoop h).wlm.handOff = [] := (congrArg Wlm.handOff (Hoop.wlm_of_wire (ht h))).trans (hn h)
    show ((t.hoop h).part, ({ (t.hoop h).wlm with handOff := [] } : Wlm), smGet 0 (t.hoop h).evt.cnt m) = _
    rw [← e]; rfl

theorem foldl_settleLink_wire {m : Nat} (l : List HoopId) : ∀ {s : State}, s.noHandOff → ∀ k, ((l.foldl settleLink s).hoop k).wire m = (s.hoop k).wire m := by
  induction l with
  | nil => exact fun _ _ => rfl
  | cons h l ih =>
    intro s hs k
    have e : ∀ k, ((settleLink s h).hoop k).wire m = (s.hoop k).wire m := settleLink_wire hs h
    exact (ih (State.noHandOff_of_wire e hs) k).trans (e k)

/-- A quiet module whose hoops hold no frame for each other. -/
def State.still (s : State) : Prop := s.quiet = true ∧ s.noHandOff

/-- `settle` writes nothing of the Walimin block of a still module. -/
theorem settle_wire {m : Nat} (hm : isNote m = true) {s : State} (hs : s.still) (k : HoopId) : ((settle s).hoop k).wire m = (s.hoop k).wire m := by
  obtain ⟨q, hn⟩ := hs
  unfold settle
  extract_lets s1 s2 s3 s4 s5
  have h1 : s1 = s := quiet_lines s q
  have h2 : s2 = s := by
    show s1.hoops.foldl settleS3 s1 = s
    rw [h1]; exact quiet_s3 s q
  have h3 : ∀ k, (s3.hoop k).wire m = (s.hoop k).wire m := by
    intro k
    refine (foldl_keeps (fun s : State => (s.hoop k).wire m) _ (fun s h => settleRole_wire hm s h k) _ s2).trans ?_
    exact congrArg (fun s : State => (s.hoop k).wire m) h2
  have h4 : (s4.hoop k).wire m = (s3.hoop k).wire m := foldl_settleLink_wire _ (State.noHandOff_of_wire h3 hn) k
  have h5 : (s5.hoop k).wire m = (s4.hoop k).wire m :=
    foldl_keeps (fun s : State => (s.hoop k).wire m) _ (fun s h => State.upd_view (Hoop.wire m) s h k _ (fun x =>
      (pmcTell_wire hm _).trans ((settleStage_wire hm _).trans ((settleVouch_wire hm _).trans (tellFirst_wire hm _))))) _ s4
  rw [settlePins_hoop]
  exact h5.trans (h4.trans (h3 k))

theorem settle_wlm {s : State} (hs : s.still) (k : HoopId) : ((settle s).hoop k).wlm = (s.hoop k).wlm :=
  Hoop.wlm_of_wire (settle_wire (m := 523) (by decide) hs k)

/-! ## Still modules -/

theorem State.still_of_poised {s : State} (p : s.poised = true) : s.still := by
  refine ⟨State.poised_quiet p, fun hd k => ?_⟩
  have hk : (s.hoop k).poised = true := State.poised_at p (by rw [State.hoops_duplex hd]; cases k <;> simp)
  simp only [Hoop.poised, Bool.and_eq_true, List.isEmpty_iff] at hk
  obtain ⟨⟨⟨⟨⟨⟨-, h⟩, -⟩, -⟩, -⟩, -⟩, -⟩ := hk
  exact h

/-- A module that keeps every hoop's gate stays quiet. -/
theorem State.quiet_of_gate {s t : State} (h : ∀ k, (t.hoop k).gate = (s.hoop k).gate) (hd : t.duo = s.duo) (hs : s.quiet = true) : t.quiet = true := by
  have hp : t.a.part = s.a.part := congrArg (fun q => q.1) (h .hoopA)
  have hl : ∀ k, (t.hoop k).lineOn = (s.hoop k).lineOn := fun k => congrArg (fun q => q.2.1) (h k)
  have hk : ∀ k, (t.hoop k).dk.fcPar = (s.hoop k).dk.fcPar := fun k => congrArg (fun q => q.2.2.1) (h k)
  unfold State.quiet at hs ⊢
  simpa only [State.hoops_of_part hp, hl, hk, hd] using hs

theorem State.still_of_gate {s t : State} (h : ∀ k, (t.hoop k).gate = (s.hoop k).gate) (hd : t.duo = s.duo) (hs : s.still) : t.still := by
  have hp : t.a.part = s.a.part := congrArg (fun q => q.1) (h .hoopA)
  refine ⟨State.quiet_of_gate h hd hs.1, fun hx k => ?_⟩
  exact (congrArg (fun q => q.2.2.2) (h k)).trans (hs.2 (hp ▸ hx) k)

theorem State.still_upd {s : State} {h : HoopId} {f : Hoop → Hoop} (hf : (f (s.hoop h)).gate = (s.hoop h).gate) (hs : s.still) : (s.upd h f).still :=
  State.still_of_gate (fun k => State.upd_view_at Hoop.gate s h k f hf) (State.upd_duo ..) hs

/-- A row's effect on its own hoop in a still module, on the Walimin block. -/
theorem act_wire {m : Nat} (hm : isNote m = true) {s : State} {h : HoopId} {f : Hoop → Hoop} (e : s.has h = true) (hs : s.still)
    (hf : (f (s.hoop h)).gate = (s.hoop h).gate) : ((s.act h f).hoop h).wire m = (f (s.hoop h)).wire m :=
  (settle_wire hm (State.still_upd hf hs) h).trans (congrArg (Hoop.wire m) (State.upd_self s h f e))

theorem act_wlm {s : State} {h : HoopId} {f : Hoop → Hoop} (e : s.has h = true) (hs : s.still)
    (hf : (f (s.hoop h)).gate = (s.hoop h).gate) : ((s.act h f).hoop h).wlm = (f (s.hoop h)).wlm :=
  Hoop.wlm_of_wire (act_wire (m := 523) (by decide) e hs hf)

/-- What a row's own operation says of the Walimin block holds after the row in a poised module. -/
theorem gives_wlm {i : Instr} {s : State} {h : HoopId} {x : Hoop} {P : Hoop → Prop} (f : Hoop → Hoop) (e : s.here h x) (q : s.poised = true)
    (hx : exec i s = .next (s.act h f)) (hf : (f x).gate = x.gate) (hP : ∀ y : Hoop, y.calm = (f x).calm → y.wlm = (f x).wlm → P y) : CompletesWith i s h P := by
  obtain ⟨e, rfl⟩ := e
  exact ⟨_, hx, hP _ (act_calm s h f e) (act_wlm e (State.still_of_poised q) hf)⟩

end Sys2Proof.Machine
end

section
/-!
SUPPORT. Sending on Walimin links (R393, R394, R396): what a frame on one link leaves as it was, and which frame then stands in its queue.
-/

namespace Sys2Proof.Machine
open Sys2Proof

/-! ## Bytes of a frame -/

theorem leBytes_length (n v : Nat) : (leBytes n v).length = n := by
  induction n generalizing v with
  | zero => rfl
  | succ n ih => simp [leBytes, ih]

theorem leNat_leBytes (n v : Nat) : leNat (leBytes n v) = v % 256 ^ n := by
  induction n generalizing v with
  | zero => simp [leBytes, leNat, Nat.mod_one]
  | succ n ih =>
    have h : v % 256 ^ (n + 1) = v % 256 + 256 * (v / 256 % 256 ^ n) := by rw [Nat.pow_succ', Nat.mod_mul]
    rw [leBytes, leNat, ih, h, BitVec.toNat_ofNat]

theorem frameBytes_length (dst src ttl type : Nat) (o : BitVec 16) (q : Nat) (p : Bytes) : (frameBytes dst src ttl type o q p).length = 16 + p.length := by
  simp only [frameBytes, List.length_append, leBytes_length]
  omega

theorem frameBytes_dst {dst : Nat} (h : dst < 4096) (src ttl type : Nat) (o : BitVec 16) (q : Nat) (p : Bytes) : frDst (frameBytes dst src ttl type o q p) = dst := by
  have hf : field (frameBytes dst src ttl type o q p) 0 4 = (dst + src * 4096 + ttl * 2 ^ 24 + type * 2 ^ 28) % 256 ^ 4 := by
    have ht : (frameBytes dst src ttl type o q p).take 4 = leBytes 4 (dst + src * 4096 + ttl * 2 ^ 24 + type * 2 ^ 28) := by
      simp only [frameBytes, List.append_assoc]
      exact List.take_left' (leBytes_length ..)
    rw [field, List.drop_zero, ht, leNat_leBytes]
  rw [frDst, hf]
  omega

/-! ## One frame on one link -/

/-- A link without its counters. -/
def Link.bare (l : Link) : Link := { l with tx := 0, rx := 0, crc := 0, ctlDrop := 0, telDrop := 0 }

/-- A table entry without the note of which links are still to be told of it. -/
def unmarked (q : Nat × Rt) : Nat × Rt := (q.1, { q.2 with changed := [] })

/-- The hoop without what sending on its links changes. -/
def Hoop.station (x : Hoop) : Hoop :=
  { x.untold with wlm := { x.wlm with tx := [], links := [], qdropEvSec := none, seq := 0, localSeq := 0, table := x.wlm.table.map unmarked } }

theorem Hoop.gate_of_station {x y : Hoop} (h : x.station = y.station) : x.gate = y.gate := by
  have hs : x.fc = y.fc := (congrArg Hoop.fc h :)
  have hp : x.part = y.part := (congrArg Hoop.part h :)
  have hk : x.dk = y.dk := (congrArg Hoop.dk h :)
  have hw : x.wlm.handOff = y.wlm.handOff := (congrArg (fun z : Hoop => z.wlm.handOff) h :)
  unfold Hoop.gate Hoop.lineOn Hoop.liveSev
  rw [hs, hp, hk, hw]

theorem Hoop.station_of {x y : Hoop} (hu : x.untold = y.untold) (hw : x.wlm = y.wlm) : x.station = y.station := by
  unfold Hoop.station; rw [hu, hw]

theorem pmcRaw_station (c n : Nat) (x : Hoop) : (pmcRaw c n x).station = x.station := Hoop.station_of (pmcRaw_untold ..) (pmcRaw_wlm ..)

theorem raiseEv_station (src : Nat) (p : List Nat) (sc : Scope) (x : Hoop) : (raiseEv src p sc x).station = x.station :=
  Hoop.station_of (raiseEv_untold ..) (raiseEv_wlm ..)

/-- Sending on link `k` makes `y` of `x`. -/
structure Sent (k : Nat) (x y : Hoop) : Prop where
  station : y.station = x.station
  kept : ∀ f ∈ x.wlm.tx, f ∈ y.wlm.tx
  room : ∀ l, l ≠ k → queued y l false = queued x l false
  links : ∀ l, (y.link l).bare = (x.link l).bare

theorem Sent.refl (k : Nat) (x : Hoop) : Sent k x x := ⟨rfl, fun _ h => h, fun _ _ => rfl, fun _ => rfl⟩

theorem Sent.trans {k : Nat} {x y z : Hoop} (h : Sent k x y) (g : Sent k y z) : Sent k x z :=
  ⟨g.station.trans h.station, fun f hf => g.kept f (h.kept f hf), fun l hl => (g.room l hl).trans (h.room l hl), fun l => (g.links l).trans (h.links l)⟩

/-- What changes neither the links nor the queues. -/
theorem Sent.of_wlm {k : Nat} {x y : Hoop} (hs : y.station = x.station) (ht : y.wlm.tx = x.wlm.tx) (hl : y.wlm.links = x.wlm.links) : Sent k x y := by
  refine ⟨hs, fun f hf => by rw [ht]; exact hf, fun l _ => ?_, fun l => ?_⟩
  · unfold queued; rw [ht]
  · unfold Hoop.link; rw [hl]

theorem Hoop.updLink_link_self (x : Hoop) (k : Nat) (f : Link → Link) : (x.updLink k f).link k = f (x.link k) := smGet_smSet_self ..

theorem Hoop.updLink_link_ne (x : Hoop) {k l : Nat} (f : Link → Link) (h : l ≠ k) : (x.updLink k f).link l = x.link l := smGet_smSet_ne _ _ _ _ h

theorem Hoop.updLink_bare (x : Hoop) (k : Nat) {f : Link → Link} (hf : ∀ l, (f l).bare = l.bare) (l : Nat) : ((x.updLink k f).link l).bare = (x.link l).bare := by
  by_cases h : l = k
  · subst h; rw [Hoop.updLink_link_self, hf]
  · rw [Hoop.updLink_link_ne _ _ h]

theorem Sent.updLink (x : Hoop) (k : Nat) {f : Link → Link} (hf : ∀ l, (f l).bare = l.bare) : Sent k x (x.updLink k f) :=
  ⟨rfl, fun _ h => h, fun _ _ => rfl, x.updLink_bare k hf⟩

/-- A frame appended to a queue. -/
def putFrame (fr : TxFrame) (x : Hoop) : Hoop := { x with wlm := { x.wlm with tx := x.wlm.tx ++ [fr] } }

theorem queued_putFrame (fr : TxFrame) (x : Hoop) (l : Nat) (t : Bool) :
    queued (putFrame fr x) l t = queued x l t + (if fr.link = l ∧ fr.tel = t then fr.bytes.length else 0) := by
  unfold queued putFrame
  rw [List.filter_append, List.map_append, List.sum_append]
  by_cases h : fr.link = l ∧ fr.tel = t
  · simp [h]
  · have hf : (fr.link == l && fr.tel == t) = false := by simpa using h
    simp [hf, h]

theorem Sent.putFrame (fr : TxFrame) (x : Hoop) : Sent fr.link x (putFrame fr x) := by
  refine ⟨rfl, fun f hf => List.mem_append_left _ hf, fun l hl => ?_, fun _ => rfl⟩
  rw [queued_putFrame, if_neg (fun h => hl h.1.symm), Nat.add_zero]

theorem Sent.tell {k : Nat} {x y : Hoop} (h : Sent k x y) (src : Nat) (p : List Nat) (sc : Scope) : Sent k x (raiseEv src p sc y) :=
  h.trans (Sent.of_wlm (raiseEv_station ..) (congrArg Wlm.tx (raiseEv_wlm ..)) (congrArg Wlm.links (raiseEv_wlm ..)))

theorem Sent.count {k : Nat} {x y : Hoop} (h : Sent k x y) (c n : Nat) : Sent k x (pmcRaw c n y) :=
  h.trans (Sent.of_wlm (pmcRaw_station ..) (congrArg Wlm.tx (pmcRaw_wlm ..)) (congrArg Wlm.links (pmcRaw_wlm ..)))

/-- The drop of a frame counted on its link. -/
def countDrop (tel : Bool) (l : Link) : Link := if tel then { l with telDrop := satInc l.telDrop } else { l with ctlDrop := satInc l.ctlDrop }

theorem countDrop_bare (tel : Bool) (l : Link) : (countDrop tel l).bare = l.bare := by cases tel <;> rfl

/-- Event 527, once a second. -/
def tellDrop (k : Nat) (tel : Bool) (y : Hoop) : Hoop :=
  if y.wlm.qdropEvSec = some (y.now / 1000000000) then y
  else raiseEv 527 [k + (if y.isB then 4 else 0), if tel then 1 else 0] .hoop { y with wlm := { y.wlm with qdropEvSec := some (y.now / 1000000000) } }

theorem sendFrame_full {k : Nat} {tel : Bool} {b : Bytes} {x : Hoop} (h : 32768 < queued x k tel + b.length) :
    sendFrame k tel b x = tellDrop k tel (x.updLink k (countDrop tel)) := if_pos h

theorem sendFrame_room {k : Nat} {tel : Bool} {b : Bytes} {x : Hoop} (h : ¬ 32768 < queued x k tel + b.length) :
    sendFrame k tel b x = pmcRaw (210 + k) 1 (putFrame ⟨k, tel, b⟩ (x.updLink k (fun l => { l with tx := l.tx + 1 }))) := if_neg h

theorem Sent.tellDrop {k : Nat} {x y : Hoop} (h : Sent k x y) (j : Nat) (tel : Bool) : Sent k x (tellDrop j tel y) := by
  unfold Machine.tellDrop
  split
  · exact h
  · exact (h.trans (Sent.of_wlm (y := { y with wlm := { y.wlm with qdropEvSec := some (y.now / 1000000000) } }) rfl rfl rfl)).tell ..

/-- A frame sent on a link leaves the rest of the hoop, the other links' queues, and every link but for its counters. -/
theorem Sent.frame (k : Nat) (tel : Bool) (b : Bytes) (x : Hoop) : Sent k x (sendFrame k tel b x) := by
  by_cases h : 32768 < queued x k tel + b.length
  · rw [sendFrame_full h]
    exact (Sent.updLink x k (countDrop_bare tel)).tellDrop ..
  · rw [sendFrame_room h]
    exact ((Sent.updLink x k (f := fun l => { l with tx := l.tx + 1 }) (fun _ => rfl)).trans (Sent.putFrame ⟨k, tel, b⟩ _)).count ..

/-- Where its queue has room, the frame stands in it. -/
theorem sendFrame_mem {k : Nat} {tel : Bool} {b : Bytes} {x : Hoop} (h : queued x k tel + b.length ≤ 32768) :
    (⟨k, tel, b⟩ : TxFrame) ∈ (sendFrame k tel b x).wlm.tx := by
  rw [sendFrame_room (by omega), pmcRaw_wlm]
  exact List.mem_append_right _ (List.mem_singleton.2 rfl)

theorem sendFrame_sends {k : Nat} {b : Bytes} {x : Hoop} (h : roomFor x k b.length = true) : sends (sendFrame k false b x) k b :=
  sendFrame_mem (of_decide_eq_true h)

theorem Sent.localFrame (k type : Nat) (p : Bytes) (x : Hoop) : Sent k x (sendLocal k type p x) := by
  refine Sent.trans ?_ (Sent.frame ..)
  exact Sent.of_wlm rfl rfl rfl

theorem sendLocal_sends {k type : Nat} {p : Bytes} {x : Hoop} (h : roomFor x k (16 + p.length) = true) :
    sends (sendLocal k type p x) k (frameBytes 0 x.wlm.addr.toNat 0 type x.wlmOrigin (nextSeq x.wlm.localSeq) p) := by
  refine sendFrame_sends ?_
  rw [frameBytes_length]
  exact h

/-! ## The same on several links -/

/-- What the hoop is to its links stands. -/
structure Abides (x y : Hoop) : Prop where
  station : y.station = x.station
  links : ∀ l, (y.link l).bare = (x.link l).bare

theorem Abides.trans {x y z : Hoop} (h : Abides x y) (g : Abides y z) : Abides x z :=
  ⟨g.station.trans h.station, fun l => (g.links l).trans (h.links l)⟩

theorem Sent.abides {k : Nat} {x y : Hoop} (h : Sent k x y) : Abides x y := ⟨h.station, h.links⟩

theorem Abides.up {x y : Hoop} (h : Abides x y) (k : Nat) : (y.link k).up = (x.link k).up := (congrArg Link.up (h.links k) :)

theorem Abides.upLinks {x y : Hoop} (h : Abides x y) : y.upLinks = x.upLinks := by
  unfold Hoop.upLinks; simp only [h.up]

section
variable {g : Hoop → Nat → Hoop} (hg : ∀ y k, Sent k y (g y k))
include hg

theorem foldl_abides (L : List Nat) (x : Hoop) : Abides x (L.foldl g x) := by
  induction L generalizing x with
  | nil => exact (Sent.refl 0 x).abides
  | cons k L ih => exact (hg x k).abides.trans (ih _)

theorem foldl_kept (L : List Nat) (x : Hoop) : ∀ f ∈ x.wlm.tx, f ∈ (L.foldl g x).wlm.tx := by
  induction L generalizing x with
  | nil => exact fun _ h => h
  | cons k L ih => exact fun f hf => ih _ f ((hg x k).kept f hf)

/-- A link's turn comes with its queue as it was, and what it then sends stands in the end. -/
theorem foldl_turn {L : List Nat} (hd : L.Nodup) {k : Nat} (hk : k ∈ L) (x : Hoop) :
    ∃ z, Abides x z ∧ queued z k false = queued x k false ∧ ∀ f ∈ (g z k).wlm.tx, f ∈ (L.foldl g x).wlm.tx := by
  induction L generalizing x with
  | nil => exact absurd hk (by simp)
  | cons j L ih =>
    obtain ⟨hj, hd⟩ := List.nodup_cons.1 hd
    by_cases h : k = j
    · subst h
      exact ⟨x, (Sent.refl k x).abides, rfl, foldl_kept hg L _⟩
    · obtain ⟨z, ha, hq, hm⟩ := ih hd ((List.mem_cons.1 hk).resolve_left h) (g x j)
      exact ⟨z, (hg x j).abides.trans ha, hq.trans ((hg x j).room k h), hm⟩

end

theorem upLinks_nodup (x : Hoop) : x.upLinks.Nodup := List.nodup_range.filter _

theorem roomFor_of_queued {x z : Hoop} {k n : Nat} (h : queued z k false = queued x k false) (hr : roomFor x k n = true) : roomFor z k n = true := by
  unfold roomFor at hr ⊢; rw [h]; exact hr

/-! ## Originating -/

/-- The next SEQ taken. -/
def takeSeq (x : Hoop) : Hoop := { x with wlm := { x.wlm with seq := nextSeq x.wlm.seq } }

theorem Sent.takeSeq (k : Nat) (x : Hoop) : Sent k x (takeSeq x) := Sent.of_wlm rfl rfl rfl

theorem originate_bcast (type : Nat) (p : Bytes) (x : Hoop) :
    originate bcast type p x = (takeSeq x).upLinks.foldl (fun y k => sendFrame k false (nextFrame x bcast type p) y) (takeSeq x) := by
  unfold originate
  exact if_pos rfl

theorem originate_to {dst : Nat} (h : dst ≠ bcast) (type : Nat) (p : Bytes) (x : Hoop) :
    originate dst type p x = sendToward (type == 0xB) (nextFrame x dst type p) (takeSeq x) := if_neg h

theorem sendToward_route {k : Nat} {tel : Bool} {b : Bytes} {x : Hoop} (h : x.routeTo (frDst b) = some k) : sendToward tel b x = sendFrame k tel b x := by
  unfold sendToward; rw [h]

/-- A frame for one address leaves on the link of its route. -/
theorem originate_routed {dst k : Nat} (h : dst < bcast) {x : Hoop} (hr : x.routeTo dst = some k) (type : Nat) (p : Bytes) :
    originate dst type p x = sendFrame k (type == 0xB) (nextFrame x dst type p) (takeSeq x) := by
  rw [originate_to (by omega), sendToward_route]
  rw [nextFrame, frameBytes_dst (by unfold bcast at h; omega)]
  exact hr

theorem originate_bcast_abides (type : Nat) (p : Bytes) (x : Hoop) : Abides x (originate bcast type p x) := by
  rw [originate_bcast]
  exact (Sent.takeSeq 0 x).abides.trans (foldl_abides (fun y k => Sent.frame ..) _ _)

/-- A broadcast stands in the queue of every link that is up and has room. -/
theorem originate_bcast_sends {type l : Nat} {p : Bytes} {x : Hoop} (hl : l ∈ x.upLinks) (hr : roomFor x l (16 + p.length) = true) :
    sends (originate bcast type p x) l (nextFrame x bcast type p) := by
  rw [originate_bcast]
  obtain ⟨z, -, hq, hm⟩ := foldl_turn (g := fun y k => sendFrame k false (nextFrame x bcast type p) y) (fun y k => Sent.frame ..)
    (upLinks_nodup (takeSeq x)) hl (takeSeq x)
  refine hm _ (sendFrame_sends ?_)
  rw [nextFrame, frameBytes_length]
  exact roomFor_of_queued hq hr

/-- A frame for one address stands in the queue of its route where that has room. -/
theorem originate_sends {dst k type : Nat} {p : Bytes} {x : Hoop} (h : dst < bcast) (hr : x.routeTo dst = some k) (ht : (type == 0xB) = false)
    (hroom : roomFor x k (16 + p.length) = true) : sends (originate dst type p x) k (nextFrame x dst type p) := by
  rw [originate_routed h hr, ht]
  refine sendFrame_sends ?_
  rw [nextFrame, frameBytes_length]
  exact hroom

end Sys2Proof.Machine
end

section
/-!
SUPPORT. Walimin links and leaders (R392, R398), and what a fault of S0 or S1 leaves of the Walimin block and of the reaction lines.
-/

namespace Sys2Proof.Machine
open Sys2Proof

/-! ## A fault of S0 or S1 -/

theorem filter_smPut {α : Type} {p : Nat × α → Bool} {k : Nat} (hp : ∀ v, p (k, v) = false) (m : SMap α) (v : α) : (smPut m k v).filter p = m.filter p := by
  fun_induction smPut m k v with
  | case1 => simp [hp]
  | case2 => simp_all [List.filter_cons]
  | case3 => simp_all
  | case4 => simp_all [List.filter_cons]

theorem filter_smDel {α : Type} {p : Nat × α → Bool} {k : Nat} (hp : ∀ v, p (k, v) = false) (m : SMap α) : (smDel m k).filter p = m.filter p := by
  fun_induction smDel m k with
  | case1 => rfl
  | case2 => simp_all
  | case3 => simp_all [List.filter_cons]

theorem filter_smSet {α : Type} [DecidableEq α] {p : Nat × α → Bool} {k : Nat} (hp : ∀ v, p (k, v) = false) (d : α) (m : SMap α) (v : α) :
    (smSet d m k v).filter p = m.filter p := by
  unfold smSet
  split
  · exact filter_smDel hp m
  · exact filter_smPut hp m v

/-- A source whose severity asserts no reaction line. -/
def lowSrc (s : Nat) : Bool := sevOf s == some 0 || sevOf s == some 1

theorem Hoop.setSrc_liveSev {s sev : Nat} (h : sevOf s ≠ some sev) (v : Src) (x : Hoop) : (x.setSrc s v).liveSev sev = x.liveSev sev := by
  have hp : ∀ u : Src, (u.live && sevOf s == some sev) = false := fun u => by rw [beq_false_of_ne h, Bool.and_false]
  exact congrArg (List.map _) (filter_smSet (p := fun e : Nat × Src => e.2.live && sevOf e.1 == some sev) hp {} x.fc.src v)

theorem Hoop.setSrc_gate {s : Nat} (h : lowSrc s = true) (v : Src) (x : Hoop) : (x.setSrc s v).gate = x.gate := by
  have h3 : sevOf s ≠ some 3 := fun e => by rw [lowSrc, e] at h; exact absurd h (by decide)
  have h4 : sevOf s ≠ some 4 := fun e => by rw [lowSrc, e] at h; exact absurd h (by decide)
  unfold Hoop.gate Hoop.lineOn
  rw [Hoop.setSrc_liveSev h3, Hoop.setSrc_liveSev h4]
  rfl

theorem Hoop.setSrc_wire (m s : Nat) (v : Src) (x : Hoop) : (x.setSrc s v).wire m = x.wire m := rfl

theorem jnlPut_gate (ty sev src : Nat) (w : Bool) (p : Bytes) (x : Hoop) : (jnlPut ty sev src w p x).gate = x.gate :=
  Hoop.gate_of (jnlPut_lines ..) (jnlPut_core ..) (Hoop.wlm_of_wire (jnlPut_wire (m := 523) (by decide) ..))

theorem wire_fc (m : Nat) (x : Hoop) (f : Fc) : ({ x with fc := f } : Hoop).wire m = x.wire m := rfl

theorem capture_wire (m s sev : Nat) (wire : Bool) (x : Hoop) : (capture s sev wire x).wire m = x.wire m := by
  unfold capture
  extract_lets w f y
  split
  · exact (wire_fc ..).trans (wire_fc ..)
  · exact wire_fc ..

theorem capture_gate (s sev : Nat) (wire : Bool) (x : Hoop) : (capture s sev wire x).gate = x.gate := by
  have hs := capture_fc_src s sev wire x
  have hd := capture_dk s sev wire x
  have hw := Hoop.wlm_of_wire (capture_wire 523 s sev wire x)
  have hp := Hoop.part_of_wire (capture_wire 523 s sev wire x)
  unfold Hoop.gate Hoop.lineOn Hoop.liveSev
  rw [hs, hd, hw, hp]

theorem faultRecord_wire {m : Nat} (hm : isNote m = true) (s sev : Nat) (wire : Bool) (extra : List Nat) (x : Hoop) :
    (faultRecord s sev wire extra x).wire m = x.wire m := by
  unfold faultRecord
  extract_lets v sec num
  split
  · rfl
  · exact (jnlPut_wire hm ..).trans (Hoop.setSrc_wire ..)

theorem faultRecord_gate {s : Nat} (h : lowSrc s = true) (sev : Nat) (wire : Bool) (extra : List Nat) (x : Hoop) :
    (faultRecord s sev wire extra x).gate = x.gate := by
  unfold faultRecord
  extract_lets v sec num
  split
  · rfl
  · exact (jnlPut_gate ..).trans (Hoop.setSrc_gate h ..)

theorem lowSrc_sev {s : Nat} (h : lowSrc s = true) : ∃ sev, sevOf s = some sev ∧ sev < 2 := by
  rcases Bool.or_eq_true_iff.1 h with e | e
  · exact ⟨0, beq_iff_eq.1 e, by decide⟩
  · exact ⟨1, beq_iff_eq.1 e, by decide⟩

theorem fault_wire {m s : Nat} (hm : isNote m = true) (h : lowSrc s = true) (det : Nat) (x : Hoop) : (fault s det x).wire m = x.wire m := by
  obtain ⟨sev, hs, hlow⟩ := lowSrc_sev h
  have hn : m ≠ 448 + sev := by
    simp only [isNote, Bool.and_eq_true, decide_eq_true_eq] at hm
    omega
  unfold fault faultOn
  rw [hs]
  dsimp only
  split
  · rfl
  · rw [if_neg Bool.false_ne_true, react_low _ _ hlow, faultRecord_wire hm, raiseEv_wire hn, pmcRaw_wire, capture_wire]
    exact Hoop.setSrc_wire ..

theorem fault_gate {s : Nat} (h : lowSrc s = true) (det : Nat) (x : Hoop) : (fault s det x).gate = x.gate := by
  obtain ⟨sev, hs, hlow⟩ := lowSrc_sev h
  unfold fault faultOn
  rw [hs]
  dsimp only
  split
  · rfl
  · rw [if_neg Bool.false_ne_true, react_low _ _ hlow, faultRecord_gate h, raiseEv_gate, pmcRaw_gate, capture_gate]
    exact Hoop.setSrc_gate h ..

theorem faultOff_wire {m : Nat} (hm : isNote m = true) (s : Nat) (x : Hoop) : (faultOff s x).wire m = x.wire m := by
  unfold faultOff
  extract_lets v
  split
  · rw [raiseEv_wire (by rintro rfl; exact absurd hm (by decide)), jnlPut_wire hm]
    exact Hoop.setSrc_wire ..
  · rfl

theorem faultOff_gate {s : Nat} (h : lowSrc s = true) (x : Hoop) : (faultOff s x).gate = x.gate := by
  unfold faultOff
  extract_lets v
  split
  · rw [raiseEv_gate, jnlPut_gate]
    exact Hoop.setSrc_gate h ..
  · rfl

theorem fault_wlm {s : Nat} (h : lowSrc s = true) (det : Nat) (x : Hoop) : (fault s det x).wlm = x.wlm :=
  Hoop.wlm_of_wire (fault_wire (m := 523) (by decide) h det x)

theorem faultOff_wlm (s : Nat) (x : Hoop) : (faultOff s x).wlm = x.wlm := Hoop.wlm_of_wire (faultOff_wire (m := 523) (by decide) s x)

end Sys2Proof.Machine
end

section
/-!
SUPPORT. What the ring machinery leaves of a hoop: everything but its counters, its mailbox and the digests it has to send.
-/

namespace Sys2Proof.Machine
open Sys2Proof

/-- The hoop without its performance counters, its mailbox and the digests that it has to send. -/
def Hoop.office (x : Hoop) : Hoop := { x with pmc := {}, mbx := {}, pair := { x.pair with sent := [] } }

theorem Hoop.wire_of_office {x y : Hoop} (h : x.office = y.office) (m : Nat) : x.wire m = y.wire m := (congrArg (Hoop.wire m) h :)

theorem Hoop.gate_of_office {x y : Hoop} (h : x.office = y.office) : x.gate = y.gate := (congrArg Hoop.gate h :)

theorem office_pmc (x : Hoop) (p : Pmc) : ({ x with pmc := p } : Hoop).office = x.office := rfl

theorem office_mbx (x : Hoop) (m : Mbx) : ({ x with mbx := m } : Hoop).office = x.office := rfl

theorem office_sent (x : Hoop) (l : List Digest) : ({ x with pair := { x.pair with sent := l } } : Hoop).office = x.office := rfl

theorem pmcRaw_office (c n : Nat) (x : Hoop) : (pmcRaw c n x).office = x.office := by
  obtain ⟨p, e⟩ := pmcRaw_pmc c n x
  rw [e]; exact office_pmc ..

theorem setRing_office (r : Nat) (g : Ring) (x : Hoop) : (x.setRing r g).office = x.office := office_mbx ..

theorem updRing_office (r : Nat) (f : Ring → Ring) (x : Hoop) : (x.updRing r f).office = x.office := setRing_office ..

theorem msixSend_office (v : Nat) (x : Hoop) : (msixSend v x).office = x.office := (pmcRaw_office ..).trans (office_mbx ..)

theorem putCpl_office (r : Nat) (mk : Nat → Bool → Cpl) (x : Hoop) : (putCpl r mk x).office = x.office := by
  unfold putCpl
  extract_lets g seq c tail sig y
  have hy : y.office = x.office := setRing_office ..
  split
  · exact (msixSend_office ..).trans hy
  · exact hy

theorem noteAccepted_office (st : Nat) (x : Hoop) : (noteAccepted st x).office = x.office := by
  unfold noteAccepted
  split
  · exact office_mbx ..
  · rfl

theorem remoteReply_office (r : Nat) (m : Option Remote) (c : Cpl) (x : Hoop) : (remoteReply r m c x).office = x.office := by
  unfold remoteReply
  split
  · exact office_mbx ..
  · rfl

theorem completeFront_office (r : Nat) (a : Ans) (hold : Option (Nat × Stamp)) (x : Hoop) : (completeFront r a hold x).office = x.office := by
  unfold completeFront
  extract_lets g ep
  split
  · rfl
  next c rest =>
    extract_lets y hd st seq z mk ph u v w
    have hy : y.office = x.office := setRing_office ..
    have hz : z.office = y.office := by
      unfold z
      split
      · exact updRing_office ..
      · rfl
    have hv : v.office = u.office := by
      refine (noteAccepted_office ..).trans ?_
      split
      · rfl
      · exact pmcRaw_office ..
    have hw : w.office = x.office := (remoteReply_office ..).trans (hv.trans ((putCpl_office ..).trans (hz.trans hy)))
    split
    · exact hy
    · split
      · exact (office_sent ..).trans hw
      · exact hw

theorem takeIn_office (r : Nat) (x : Hoop) (g : Ring) (b : Bytes) (slot : Nat) (rm : Option Remote) (form : Option Nat) :
    (takeIn r x g b slot rm form).office = x.office := (pmcRaw_office ..).trans (setRing_office ..)

theorem readOne_office {r : Nat} {x y : Hoop} (h : readOne r x = some y) : y.office = x.office := by
  unfold readOne at h
  extract_lets g at h
  split at h
  · cases h
  · split at h
    · cases h
    · extract_lets hd at h
      split at h
      · obtain rfl := Option.some.inj h
        exact takeIn_office ..
      · obtain rfl := Option.some.inj h
        exact takeIn_office ..

theorem pump_office (n r : Nat) (x : Hoop) : (pump n r x).office = x.office := by
  induction n generalizing x with
  | zero => rfl
  | succ n ih =>
    obtain ⟨y, hy, hp⟩ | hp | ⟨z, a, hz, hp⟩ := pump_cases n r x <;> rw [hp]
    · exact (ih y).trans (readOne_office hy)
    · refine (ih _).trans ((completeFront_office ..).trans ?_)
      obtain rfl | ⟨op, rfl⟩ := hz
      · rfl
      · exact updRing_office ..

theorem pumpRing_office (r : Nat) (x : Hoop) : (pumpRing r x).office = x.office := by
  unfold pumpRing
  extract_lets g y
  exact (updRing_office ..).trans (pump_office ..)

theorem served_office (r : Nat) (c : ReadCmd) (x : Hoop) : (served r c x).office = x.office := by
  unfold served
  split
  · rfl
  · split
    · exact office_mbx ..
    · exact office_mbx ..

theorem breakRun_office (r op : Nat) (x : Hoop) : (breakRun r op x).office = x.office := by
  unfold breakRun
  split
  · rfl
  · exact updRing_office ..

/-- What a command's own effect makes of the Walimin block in a poised module holds after the row, with the blocks that `settle` leaves alone and the
fault collector. -/
theorem gives_serve_wlm {i : Instr} {s : State} {h : HoopId} {r op : Nat} {c : ReadCmd} {v : Verb} {P : Hoop → Prop} (p : passes s h r op c v = true)
    (q : s.poised = true) (hx : exec i s = .next (s.serve h r op v)) (hg : (ran s h r op c v).2.gate = (s.hoop h).gate)
    (hP : ∀ y : Hoop, y.calm = (ran s h r op c v).2.calm → y.lines = (ran s h r op c v).2.lines → y.wlm = (ran s h r op c v).2.wlm → P y) :
    CompletesWith i s h P := by
  have ho : (pumpRing r (completeFront r (ran s h r op c v).1 none (served r c (ran s h r op c v).2))).office = (ran s h r op c v).2.office :=
    (pumpRing_office ..).trans ((completeFront_office ..).trans (served_office ..))
  refine ⟨_, hx, hP _ (serve_calm s h r op c v p) (serve_lines p) ?_⟩
  rw [serve_passes s h r op c v p]
  refine (act_wlm (f := fun _ => _) (passes_has p) (State.still_of_poised q) ((Hoop.gate_of_office ho).trans hg)).trans ?_
  exact Hoop.wlm_of_wire (Hoop.wire_of_office ho 523)

end Sys2Proof.Machine
end

section
/-!
SUPPORT. Walimin links and leaders (R392, R398), and what WLM_CFG makes of the links.
-/

namespace Sys2Proof.Machine
open Sys2Proof

/-! ## A frame that a link brings -/

theorem heard_iff {x : Hoop} {k : Nat} {b : Bytes} {ty : Nat} :
    heard x k b ty = true ↔ hears x k = true ∧ badForm b = none ∧ frType b = ty := by
  simp only [heard, Bool.and_eq_true, beq_iff_eq, and_assoc]

theorem hears_iff {x : Hoop} {k : Nat} : hears x k = true ↔ x.boot.fwRun = true ∧ k < 4 ∧ x.wlm.linkEn.getLsbD k = true := by
  simp only [hears, Bool.and_eq_true, decide_eq_true_eq, and_assoc]

/-- A link-local frame that is heard takes effect on the hoop whose link brought it. -/
theorem rxLocal_heard {s : State} {h : HoopId} {x : Hoop} {k ty : Nat} {b : Bytes} (e : s.here h x) (hh : heard x k b ty = true) (hd : frDst b = 0)
    (f : Hoop → Hoop) : rxLocal ty h k b f s = s.upd h (fun y => f (gotFrame k y)) := by
  obtain ⟨hs, rfl⟩ := e
  obtain ⟨hk, hb, ht⟩ := heard_iff.1 hh
  simp only [rxLocal, hs, hk, hb, ht, hd, if_true, Bool.not_true, Bool.or_self, Bool.false_eq_true, if_false, ne_eq, not_true]

theorem gotFrame_gate (k : Nat) (x : Hoop) : (gotFrame k x).gate = x.gate := (pmcRaw_gate ..).trans rfl

theorem gotFrame_wlm (k : Nat) (x : Hoop) : (gotFrame k x).wlm = (x.updLink k (fun l => { l with rx := l.rx + 1 })).wlm := pmcRaw_wlm ..

theorem gotFrame_abides (k : Nat) (x : Hoop) : Abides x (gotFrame k x) :=
  ((Sent.updLink x k (f := fun l => { l with rx := l.rx + 1 }) (fun _ => rfl)).count ..).abides

theorem gotFrame_queued (j k : Nat) (t : Bool) (x : Hoop) : queued (gotFrame j x) k t = queued x k t := by
  unfold queued; rw [gotFrame_wlm]; rfl

/-! ## The leader of the moment -/

theorem bestLeader_of_wlm {x y : Hoop} (h : x.wlm = y.wlm) : bestLeader x = bestLeader y := by
  unfold bestLeader Hoop.upLinks Hoop.link
  rw [h]

/-- Computing the leader again writes the leader of the moment. -/
theorem updLeader_wlm (x : Hoop) : (updLeader x).wlm =
    { x.wlm with leader := (bestLeader x).1, leaderDist := (bestLeader x).2, isLeader := (bestLeader x).1 == x.wlm.id } := by
  unfold updLeader
  extract_lets q
  split
  next h =>
    obtain ⟨h1, h2⟩ := h
    show ({ x.wlm with isLeader := q.1 == x.wlm.id } : Wlm) = { x.wlm with leader := q.1, leaderDist := q.2, isLeader := q.1 == x.wlm.id }
    rw [h1, h2]
  next => exact raiseEv_wlm ..

/-- The leader that stands is the leader of the moment. -/
def Hoop.ledRight (x : Hoop) : Prop := (x.wlm.leader, x.wlm.leaderDist) = bestLeader x ∧ x.wlm.isLeader = (x.wlm.leader == x.wlm.id)

theorem Hoop.ledRight_of_wlm {x y : Hoop} (h : x.wlm = y.wlm) (hy : y.ledRight) : x.ledRight := by
  unfold Hoop.ledRight at hy ⊢
  rw [bestLeader_of_wlm h, h]
  exact hy

theorem bestLeader_updLeader (x : Hoop) : bestLeader (updLeader x) = bestLeader x := by
  unfold bestLeader Hoop.upLinks Hoop.link
  rw [updLeader_wlm]

theorem updLeader_ledRight (x : Hoop) : (updLeader x).ledRight := by
  unfold Hoop.ledRight
  rw [bestLeader_updLeader, updLeader_wlm]
  exact ⟨rfl, rfl⟩

theorem updLeader_link (x : Hoop) (k : Nat) : (updLeader x).link k = x.link k := by unfold Hoop.link; rw [updLeader_wlm]

theorem updLeader_gate (x : Hoop) : (updLeader x).gate = x.gate := by
  unfold updLeader
  extract_lets q
  split
  · rfl
  · exact (raiseEv_gate ..).trans rfl

theorem updLeader_lines (x : Hoop) : (updLeader x).lines = x.lines := by
  unfold updLeader
  extract_lets q
  split
  · rfl
  · exact (raiseEv_lines ..).trans rfl

/-! ## Links up and down -/

/-- The Walimin block without the links and the leader. -/
def Wlm.hub (w : Wlm) : Wlm := { w with links := [], leader := 0, leaderDist := 0, isLeader := false }

theorem updLeader_hub (x : Hoop) : (updLeader x).wlm.hub = x.wlm.hub := by rw [updLeader_wlm]; rfl

theorem updLink_hub (x : Hoop) (k : Nat) (f : Link → Link) : (x.updLink k f).wlm.hub = x.wlm.hub := rfl

theorem lowSrc_link {k : Nat} (h : k < 4) : lowSrc (192 + k) = true := by interval_cases k <;> decide

theorem hasSrc_link {k : Nat} (h : k < 4) (x : Hoop) : x.hasSrc (192 + k) = true := by
  have hs : (sevOf (192 + k)).isSome = true := by interval_cases k <;> decide
  have hn : decide (64 ≤ 192 + k ∧ 192 + k ≤ 105) = false := decide_eq_false (by omega)
  rw [Hoop.hasSrc, hs, hn]; rfl

/-- The link marked down, with its event. -/
def markDown (k : Nat) (x : Hoop) : Hoop := raiseEv (512 + k) [k, 0, (x.link k).nbrId.toNat] .hoop (x.updLink k (fun l => { l with up := false }))

theorem markDown_wlm (k : Nat) (x : Hoop) : (markDown k x).wlm = (x.updLink k (fun l => { l with up := false })).wlm := raiseEv_wlm ..

theorem linkDown_up {k : Nat} {x : Hoop} (h : (x.link k).up = true) :
    linkDown k x = updLeader (if x.wlm.linkEn.getLsbD k then fault (192 + k) k (markDown k x) else markDown k x) := by
  unfold linkDown
  rw [if_neg (by rw [h]; decide)]
  dsimp only
  rw [show (raiseEv (512 + k) [k, 0, (x.link k).nbrId.toNat] .hoop (x.updLink k (fun l => { l with up := false }))) = markDown k x from rfl, markDown_wlm]
  rfl

theorem linkDown_down {k : Nat} {x : Hoop} (h : (x.link k).up = false) : linkDown k x = x := if_pos (by rw [h]; rfl)

/-- The hoop before the leader is computed again. -/
theorem markedDown_wlm {k : Nat} (h : k < 4) (c : Bool) (x : Hoop) :
    (if c then fault (192 + k) k (markDown k x) else markDown k x).wlm = (x.updLink k (fun l => { l with up := false })).wlm := by
  split
  · exact (fault_wlm (lowSrc_link h) ..).trans (markDown_wlm ..)
  · exact markDown_wlm ..

theorem link_of_wlm {x y : Hoop} (h : x.wlm = y.wlm) (k : Nat) : x.link k = y.link k := by unfold Hoop.link; rw [h]

/-- Down, a link keeps the rest of its registers. -/
theorem linkDown_link_self {k : Nat} (h : k < 4) (x : Hoop) : (linkDown k x).link k = { x.link k with up := false } := by
  cases hu : (x.link k).up with
  | true => rw [linkDown_up hu, updLeader_link, link_of_wlm (markedDown_wlm h _ x), Hoop.updLink_link_self]
  | false =>
    rw [linkDown_down hu]
    calc x.link k = { x.link k with up := (x.link k).up } := rfl
      _ = { x.link k with up := false } := by rw [hu]

theorem linkDown_link_ne {k j : Nat} (h : k < 4) (hj : j ≠ k) (x : Hoop) : (linkDown k x).link j = x.link j := by
  cases hu : (x.link k).up with
  | true => rw [linkDown_up hu, updLeader_link, link_of_wlm (markedDown_wlm h _ x), Hoop.updLink_link_ne _ _ hj]
  | false => rw [linkDown_down hu]

theorem linkDown_hub {k : Nat} (h : k < 4) (x : Hoop) : (linkDown k x).wlm.hub = x.wlm.hub := by
  cases hu : (x.link k).up with
  | true => rw [linkDown_up hu, updLeader_hub, markedDown_wlm h, updLink_hub]
  | false => rw [linkDown_down hu]

theorem markDown_gate (k : Nat) (x : Hoop) : (markDown k x).gate = x.gate := (raiseEv_gate ..).trans rfl

theorem linkDown_gate {k : Nat} (h : k < 4) (x : Hoop) : (linkDown k x).gate = x.gate := by
  cases hu : (x.link k).up with
  | true =>
    rw [linkDown_up hu, updLeader_gate]
    split
    · exact (fault_gate (lowSrc_link h) ..).trans (markDown_gate ..)
    · exact markDown_gate ..
  | false => rw [linkDown_down hu]

/-- A disabled link goes down without its source. -/
theorem linkDown_lines_disabled {k : Nat} {x : Hoop} (hen : x.wlm.linkEn.getLsbD k = false) : (linkDown k x).lines = x.lines := by
  cases hu : (x.link k).up with
  | true =>
    rw [linkDown_up hu, updLeader_lines, hen, if_neg Bool.false_ne_true]
    exact (raiseEv_lines ..).trans rfl
  | false => rw [linkDown_down hu]

/-- An enabled link that was up goes down with its source. -/
theorem linkDown_live {k : Nat} (h : k < 4) {x : Hoop} (hu : (x.link k).up = true) (hen : x.wlm.linkEn.getLsbD k = true) :
    ((linkDown k x).src (192 + k)).live = true := by
  rw [linkDown_up hu, Hoop.src_of_lines (updLeader_lines _), hen, if_pos rfl]
  exact fault_live k (hasSrc_link h _)

theorem linkDown_ledRight {k : Nat} {x : Hoop} (hu : (x.link k).up = true) : (linkDown k x).ledRight := by
  rw [linkDown_up hu]
  exact updLeader_ledRight _

theorem linkUp_down {k : Nat} {x : Hoop} (h : (x.link k).up = false) : linkUp k x =
    raiseEv (512 + k) [k, 1, (x.link k).nbrId.toNat] .hoop (faultOff (192 + k) (x.updLink k (fun l => { l with up := true }))) := if_neg (by rw [h]; decide)

theorem linkUp_up {k : Nat} {x : Hoop} (h : (x.link k).up = true) : linkUp k x = x := if_pos h

theorem linkUp_wlm {k : Nat} {x : Hoop} (h : (x.link k).up = false) : (linkUp k x).wlm = (x.updLink k (fun l => { l with up := true })).wlm := by
  rw [linkUp_down h, raiseEv_wlm, faultOff_wlm]

theorem linkUp_link_self (k : Nat) (x : Hoop) : (linkUp k x).link k = { x.link k with up := true } := by
  cases hu : (x.link k).up with
  | false => rw [link_of_wlm (linkUp_wlm hu), Hoop.updLink_link_self]
  | true =>
    rw [linkUp_up hu]
    calc x.link k = { x.link k with up := (x.link k).up } := rfl
      _ = { x.link k with up := true } := by rw [hu]

theorem linkUp_hub (k : Nat) (x : Hoop) : (linkUp k x).wlm.hub = x.wlm.hub := by
  cases hu : (x.link k).up with
  | false => rw [linkUp_wlm hu, updLink_hub]
  | true => rw [linkUp_up hu]

theorem linkUp_gate {k : Nat} (h : k < 4) (x : Hoop) : (linkUp k x).gate = x.gate := by
  cases hu : (x.link k).up with
  | false =>
    rw [linkUp_down hu, raiseEv_gate, faultOff_gate (lowSrc_link h)]
    rfl
  | true => rw [linkUp_up hu]

end Sys2Proof.Machine
end

section
/-!
SUPPORT. The rows on Walimin links and leaders (O55).
-/

namespace Sys2Proof.Machine
open Sys2Proof

/-! ## HELLO -/

theorem Hoop.isB_of_station {x y : Hoop} (h : x.station = y.station) : x.isB = y.isB := (congrArg Hoop.isB h :)

theorem Hoop.tb_of_station {x y : Hoop} (h : x.station = y.station) : x.tb = y.tb := (congrArg Hoop.tb h :)

theorem Hoop.addr_of_station {x y : Hoop} (h : x.station = y.station) : x.wlm.addr = y.wlm.addr := (congrArg (fun z : Hoop => z.wlm.addr) h :)

theorem wlmOrigin_of_station {x y : Hoop} (h : x.station = y.station) : x.wlmOrigin = y.wlmOrigin := by
  unfold Hoop.wlmOrigin Hoop.origin
  rw [Hoop.isB_of_station h]

theorem helloPayload_of_station {x y : Hoop} (h : x.station = y.station) : helloPayload x = helloPayload y :=
  calc helloPayload x = helloPayload x.station := rfl
    _ = helloPayload y.station := by rw [h]
    _ = helloPayload y := rfl

theorem helloPayload_length (x : Hoop) : (helloPayload x).length = 24 := by
  simp only [helloPayload, List.length_append, leBytes_length, List.length_singleton]

/-- HELLO goes out on every enabled link whose queue has room. -/
theorem helloSend_sends {k : Nat} {x : Hoop} (hf : x.boot.fwRun = true) (hk : k < 4) (hen : x.wlm.linkEn.getLsbD k = true) (hr : roomFor x k 40 = true) :
    Abides x (helloSend x) ∧ ∃ q, sends (helloSend x) k (frameBytes 0 x.wlm.addr.toNat 0 0 x.wlmOrigin q (helloPayload x)) := by
  have hg : ∀ (y : Hoop) (j : Nat), Sent j y (sendLocal j 0 (helloPayload y) y) := fun y j => Sent.localFrame ..
  have hm : k ∈ (List.range 4).filter (fun k => x.wlm.linkEn.getLsbD k) := List.mem_filter.2 ⟨List.mem_range.2 hk, hen⟩
  unfold helloSend
  rw [if_pos hf]
  refine ⟨foldl_abides hg _ x, ?_⟩
  obtain ⟨z, ha, hq, hin⟩ := foldl_turn hg (List.nodup_range.filter _) hm x
  refine ⟨nextSeq z.wlm.localSeq, ?_⟩
  have hz := sendLocal_sends (k := k) (type := 0) (p := helloPayload z) (x := z) (by rw [helloPayload_length]; exact roomFor_of_queued hq hr)
  rw [helloPayload_of_station ha.station, Hoop.addr_of_station ha.station, wlmOrigin_of_station ha.station] at hz
  exact hin _ (helloPayload_of_station ha.station ▸ hz)

/-- What a HELLO writes of its link. -/
def greet (b : Bytes) (now : Nat) (l : Link) : Link :=
  { l with lock0 := true, lock1 := true, aligned := true, nbrId := BitVec.ofNat 64 (field (frPayload b) 0 8), nbrAddr := BitVec.ofNat 12 (field (frPayload b) 8 2)
           leaderId := BitVec.ofNat 64 (field (frPayload b) 12 8), leaderDist := field (frPayload b) 20 1, lastHello := now }

/-- Another neighbour on a link that is up takes it down first. -/
def parted (k : Nat) (b : Bytes) (x : Hoop) : Hoop :=
  if (x.link k).up = true ∧ (x.link k).nbrId ≠ BitVec.ofNat 64 (field (frPayload b) 0 8) then linkDown k x else x

theorem hello_eq (k : Nat) (b : Bytes) (x : Hoop) :
    hello k b x = updLeader (linkUp k ((parted k b x).updLink k (greet b (parted k b x).now))) := rfl

theorem updLeader_tb (x : Hoop) : (updLeader x).tb = x.tb := by
  unfold updLeader
  extract_lets q
  split
  · rfl
  · exact (raiseEv_tb ..).trans rfl

theorem linkDown_tb (k : Nat) (x : Hoop) : (linkDown k x).tb = x.tb := by
  have hm : (markDown k x).tb = x.tb := (raiseEv_tb ..).trans rfl
  cases hu : (x.link k).up with
  | true =>
    rw [linkDown_up hu, updLeader_tb]
    split
    · exact (fault_tb ..).trans hm
    · exact hm
  | false => rw [linkDown_down hu]

theorem parted_view {k : Nat} (h : k < 4) (b : Bytes) (x : Hoop) : (parted k b x).gate = x.gate ∧ (parted k b x).wlm.hub = x.wlm.hub ∧ (parted k b x).tb = x.tb := by
  unfold parted
  split
  · exact ⟨linkDown_gate h x, linkDown_hub h x, linkDown_tb k x⟩
  · exact ⟨rfl, rfl, rfl⟩

theorem Wlm.id_of_hub {v w : Wlm} (h : v.hub = w.hub) : v.id = w.id := (congrArg Wlm.id h :)

theorem Wlm.linkEn_of_hub {v w : Wlm} (h : v.hub = w.hub) : v.linkEn = w.linkEn := (congrArg Wlm.linkEn h :)

theorem updLink_gate (x : Hoop) (k : Nat) (f : Link → Link) : (x.updLink k f).gate = x.gate := rfl

theorem hello_gate {k : Nat} (h : k < 4) (b : Bytes) (x : Hoop) : (hello k b x).gate = x.gate := by
  rw [hello_eq, updLeader_gate, linkUp_gate h, updLink_gate]
  exact (parted_view h b x).1

theorem hello_ledRight (k : Nat) (b : Bytes) (x : Hoop) : (hello k b x).ledRight := by
  rw [hello_eq]
  exact updLeader_ledRight _

theorem hello_id {k : Nat} (h : k < 4) (b : Bytes) (x : Hoop) : (hello k b x).wlm.id = x.wlm.id := by
  have hub : (hello k b x).wlm.hub = x.wlm.hub := by
    rw [hello_eq, updLeader_hub, linkUp_hub, updLink_hub]
    exact (parted_view h b x).2.1
  exact Wlm.id_of_hub hub

/-- A HELLO brings its link up with the neighbour that it names. -/
theorem hello_link {k : Nat} (h : k < 4) (b : Bytes) (x : Hoop) : ∃ l, (hello k b x).link k = { greet b x.now l with up := true } := by
  have ht : (parted k b x).now = x.now := congrArg Tb.now (parted_view h b x).2.2
  refine ⟨(parted k b x).link k, ?_⟩
  rw [hello_eq, updLeader_link, linkUp_link_self, Hoop.updLink_link_self, ht]

/-! ## Links lost -/

theorem helloTimeout_eq {k : Nat} {x : Hoop} (h : k < 4) (ht : (x.link k).lastHello + 3000000 ≤ x.now) : helloTimeout k x = linkDown k x := if_pos ⟨h, ht⟩

/-- A link that lost a lane. -/
def unlocked (lane : Nat) (l : Link) : Link := { l with lock0 := l.lock0 && lane != 0, lock1 := l.lock1 && lane != 1, aligned := false }

theorem laneLoss_eq {k lane : Nat} (h : k < 4) (hl : lane < 2) (x : Hoop) : laneLoss k lane x = linkDown k (x.updLink k (unlocked lane)) := if_pos ⟨h, hl⟩

/-! ## WLM_CFG -/

/-- A disabled link goes down, and its source ends. -/
def dropLink (x : Hoop) (l : Nat) : Hoop := faultOff (192 + l) (linkDown l x)

theorem dropLink_gate {l : Nat} (h : l < 4) (x : Hoop) : (dropLink x l).gate = x.gate := (faultOff_gate (lowSrc_link h) _).trans (linkDown_gate h x)

theorem dropLink_hub {l : Nat} (h : l < 4) (x : Hoop) : (dropLink x l).wlm.hub = x.wlm.hub := by
  rw [dropLink, faultOff_wlm, linkDown_hub h]

theorem dropLink_link_self {l : Nat} (h : l < 4) (x : Hoop) : ((dropLink x l).link l).up = false := by
  rw [dropLink, link_of_wlm (faultOff_wlm ..), linkDown_link_self h]

theorem dropLink_link_ne {l j : Nat} (h : l < 4) (hj : j ≠ l) (x : Hoop) : (dropLink x l).link j = x.link j := by
  rw [dropLink, link_of_wlm (faultOff_wlm ..), linkDown_link_ne h hj]

theorem dropLink_src_self {l : Nat} {x : Hoop} (hen : x.wlm.linkEn.getLsbD l = false) (ha : (x.src (192 + l)).agree = false) :
    ((dropLink x l).src (192 + l)).live = false := by
  have hs : (linkDown l x).src (192 + l) = x.src (192 + l) := Hoop.src_of_lines (linkDown_lines_disabled hen) _
  exact faultOff_not_live (by rw [hs]; exact ha)

theorem dropLink_src_ne {l j : Nat} {x : Hoop} (hen : x.wlm.linkEn.getLsbD l = false) (hj : j ≠ l) : (dropLink x l).src (192 + j) = x.src (192 + j) := by
  rw [dropLink, faultOff_src_ne _ (by omega)]
  exact Hoop.src_of_lines (linkDown_lines_disabled hen) _

/-- The registers of `L` are dropped: what of `x` stands in `y`. -/
structure Dropped (L : List Nat) (x y : Hoop) : Prop where
  gate : y.gate = x.gate
  hub : y.wlm.hub = x.wlm.hub
  others : ∀ j, j ∉ L → y.link j = x.link j ∧ y.src (192 + j) = x.src (192 + j)
  down : ∀ l ∈ L, (y.link l).up = false
  quiet : ∀ l ∈ L, (x.src (192 + l)).agree = false → (y.src (192 + l)).live = false

theorem foldl_dropLink {L : List Nat} (hd : L.Nodup) (h4 : ∀ l ∈ L, l < 4) {x : Hoop} (hen : ∀ l ∈ L, x.wlm.linkEn.getLsbD l = false) :
    Dropped L x (L.foldl dropLink x) := by
  induction L generalizing x with
  | nil => exact ⟨rfl, rfl, fun _ _ => ⟨rfl, rfl⟩, fun _ h => absurd h (by simp), fun _ h => absurd h (by simp)⟩
  | cons k L ih =>
    obtain ⟨hk, hd⟩ := List.nodup_cons.1 hd
    have k4 : k < 4 := h4 k (by simp)
    have hek : x.wlm.linkEn.getLsbD k = false := hen k (by simp)
    have hub := dropLink_hub k4 x
    have hle : (dropLink x k).wlm.linkEn = x.wlm.linkEn := Wlm.linkEn_of_hub hub
    obtain ⟨g, u, o, d, q⟩ := ih hd (fun l hl => h4 l (by simp [hl])) (x := dropLink x k) (fun l hl => by rw [hle]; exact hen l (by simp [hl]))
    obtain ⟨ok, sk⟩ := o k hk
    refine ⟨g.trans (dropLink_gate k4 x), u.trans hub, fun j hj => ?_, fun l hl => ?_, fun l hl ha => ?_⟩
    · have hjk : j ≠ k := fun e => hj (by simp [e])
      obtain ⟨oj, sj⟩ := o j (fun e => hj (by simp [e]))
      exact ⟨oj.trans (dropLink_link_ne k4 hjk x), sj.trans (dropLink_src_ne hek hjk)⟩
    · rcases List.mem_cons.1 hl with rfl | hl
      · rw [List.foldl_cons, ok]
        exact dropLink_link_self k4 x
      · exact d l hl
    · rcases List.mem_cons.1 hl with rfl | hl
      · rw [List.foldl_cons, sk]
        exact dropLink_src_self hek ha
      · have hlk : l ≠ k := fun e => hk (e ▸ hl)
        exact q l hl (by rw [dropLink_src_ne hek hlk]; exact ha)

/-- The links that the parameters leave disabled. -/
def disabled (en : BitVec 4) : List Nat := (List.range 4).filter (fun l => !en.getLsbD l)

theorem mem_disabled {en : BitVec 4} {l : Nat} : l ∈ disabled en ↔ l < 4 ∧ en.getLsbD l = false := by
  simp only [disabled, List.mem_filter, List.mem_range, Bool.not_eq_true']

/-- The registers that WLM_CFG writes, before the links go down. -/
def configured (p : Bytes) (x : Hoop) : Hoop :=
  { x with wlm := { x.wlm with linkEn := BitVec.ofNat 4 (field p 0 1 / (if x.isB then 16 else 1)), pref := BitVec.ofNat 12 (field p 1 2),
                               telInterval := BitVec.ofNat 16 (field p 3 2), tcLimit := BitVec.ofNat 16 (field p 5 2) } }

theorem wlmCfgVerb_run (k : Ctx) (x : Hoop) : wlmCfgVerb.run k x =
    adminOk k x (storeSetting k 0 ((disabled (configured (paramOf k.cmd.bytes) x).wlm.linkEn).foldl dropLink (configured (paramOf k.cmd.bytes) x))) := rfl

theorem configured_dropped (p : Bytes) (x : Hoop) : Dropped (disabled (configured p x).wlm.linkEn) (configured p x)
    ((disabled (configured p x).wlm.linkEn).foldl dropLink (configured p x)) :=
  foldl_dropLink (List.nodup_range.filter _) (fun _ h => (mem_disabled.1 h).1) (fun _ h => (mem_disabled.1 h).2)

theorem adminOk_wlm (k : Ctx) (x y : Hoop) : (adminOk k x y).2.wlm = y.wlm :=
  (raiseEv_wlm ..).trans (Hoop.wlm_of_wire (jnlPut_wire (m := 523) (by decide) ..))

theorem adminOk_gate (k : Ctx) (x y : Hoop) : (adminOk k x y).2.gate = y.gate := (raiseEv_gate ..).trans (jnlPut_gate ..)

theorem storeSetting_gate (k : Ctx) (n : Nat) (x : Hoop) : (storeSetting k n x).gate = x.gate := rfl

/-- The same with the fault collector. -/
theorem gives_wlm_lines {i : Instr} {s : State} {h : HoopId} {x : Hoop} {P : Hoop → Prop} (f : Hoop → Hoop) (e : s.here h x) (q : s.poised = true)
    (hx : exec i s = .next (s.act h f)) (hf : (f x).gate = x.gate)
    (hP : ∀ y : Hoop, y.calm = (f x).calm → y.lines = (f x).lines → y.wlm = (f x).wlm → P y) : CompletesWith i s h P := by
  obtain ⟨e, rfl⟩ := e
  exact ⟨_, hx, hP _ (act_calm s h f e) (act_lines s h f e) (act_wlm e (State.still_of_poised q) hf)⟩

/-! ## O55 -/

theorem gotFrame_hub (k : Nat) (x : Hoop) : (gotFrame k x).wlm.hub = x.wlm.hub := by rw [gotFrame_wlm, updLink_hub]

theorem hearsLink {x : Hoop} {k ty : Nat} {b : Bytes} (h : heard x k b ty = true) : k < 4 := (hears_iff.1 (heard_iff.1 h).1).2.1

theorem ledRight_pair {x : Hoop} (h : x.ledRight) : (x.wlm.leader, x.wlm.leaderDist) = bestLeader x := h.1

/-- WLM_CFG's own effect. -/
theorem wlmCfg_ran {s : State} {h : HoopId} {c : ReadCmd} {x : Hoop} (hx : x = breakRun 0 0x32 (s.hoop h)) (z : Hoop)
    (hz : z = (disabled (configured (paramOf c.bytes) x).wlm.linkEn).foldl dropLink (configured (paramOf c.bytes) x)) :
    ran s h 0 0x32 c wlmCfgVerb = adminOk (ctxOf s h 0 c) x (storeSetting (ctxOf s h 0 c) 0 z) := by
  rw [ran, wlmCfgVerb_run, hz, hx]
  rfl

theorem configured_view (p : Bytes) (x : Hoop) : (configured p x).gate = x.gate ∧ (configured p x).lines = x.lines ∧
    (configured p x).wlm.links = x.wlm.links ∧ (configured p x).wlm.table = x.wlm.table ∧ (configured p x).wlm.addr = x.wlm.addr := ⟨rfl, rfl, rfl, rfl, rfl⟩

/-- WLM_CFG takes its parameters; a disabled link goes down without a source, and an enabled one is not touched. -/
theorem wlmCfg_completes {s : State} {h : HoopId} {c : ReadCmd} (p : passes s h 0 0x32 c wlmCfgVerb = true) (q : s.poised = true) :
    CompletesWith (.wlmCfg h 0) s h (fun z =>
      z.wlm.linkEn = BitVec.ofNat 4 (field (paramOf c.bytes) 0 1 / (if (s.hoop h).isB then 16 else 1)) ∧ z.wlm.pref = BitVec.ofNat 12 (field (paramOf c.bytes) 1 2) ∧
      z.wlm.telInterval = BitVec.ofNat 16 (field (paramOf c.bytes) 3 2) ∧ z.wlm.tcLimit = BitVec.ofNat 16 (field (paramOf c.bytes) 5 2) ∧
      (0x32, 0, paramOf c.bytes) ∈ z.settings ∧ z.wlm.table = (s.hoop h).wlm.table ∧ z.wlm.addr = (s.hoop h).wlm.addr ∧
      ∀ l < 4, if z.wlm.linkEn.getLsbD l then z.link l = (s.hoop h).link l
        else (z.link l).up = false ∧ (((s.hoop h).src (192 + l)).agree = false → (z.src (192 + l)).live = false)) := by
  generalize hx : breakRun 0 0x32 (s.hoop h) = x
  have hxo : x.office = (s.hoop h).office := hx ▸ breakRun_office ..
  have hxw : x.wlm = (s.hoop h).wlm := Hoop.wlm_of_wire (Hoop.wire_of_office hxo 523)
  have hxl : x.lines = (s.hoop h).lines := (congrArg Hoop.lines hxo :)
  have hxb : x.isB = (s.hoop h).isB := (congrArg Hoop.isB hxo :)
  obtain ⟨cg, cl, ck, ct, ca⟩ := configured_view (paramOf c.bytes) x
  have hD := configured_dropped (paramOf c.bytes) x
  generalize hz : (disabled (configured (paramOf c.bytes) x).wlm.linkEn).foldl dropLink (configured (paramOf c.bytes) x) = z at hD
  have hr := wlmCfg_ran (s := s) (h := h) (c := c) hx.symm z hz.symm
  refine gives_serve_wlm p q rfl ?_ fun y hc hl hw => ?_
  · rw [hr, adminOk_gate, storeSetting_gate, hD.gate, cg]
    exact Hoop.gate_of_office hxo
  rw [hr] at hc hl hw
  rw [adminOk_wlm, storeSetting_wlm] at hw
  rw [adminOk_lines, storeSetting_lines] at hl
  have hub : y.wlm.hub = (configured (paramOf c.bytes) x).wlm.hub := hw ▸ hD.hub
  have hen : y.wlm.linkEn = (configured (paramOf c.bytes) x).wlm.linkEn := Wlm.linkEn_of_hub hub
  have htab : y.wlm.table = (s.hoop h).wlm.table := (congrArg Wlm.table hub :).trans (ct.trans (congrArg Wlm.table hxw))
  have hadr : y.wlm.addr = (s.hoop h).wlm.addr := (congrArg Wlm.addr hub :).trans (ca.trans (congrArg Wlm.addr hxw))
  refine ⟨hen.trans (by rw [← hxb]; rfl), (congrArg Wlm.pref hub :), (congrArg Wlm.telInterval hub :), (congrArg Wlm.tcLimit hub :),
    setting_stored hc (passes_opcode p), htab, hadr, fun l l4 => ?_⟩
  have hlk : y.link l = z.link l := link_of_wlm hw l
  have hsrc : y.src (192 + l) = z.src (192 + l) := Hoop.src_of_lines hl _
  split
  next hon =>
    have hm : l ∉ disabled (configured (paramOf c.bytes) x).wlm.linkEn := fun hm => by
      rw [hen, (mem_disabled.1 hm).2] at hon
      exact absurd hon (by decide)
    rw [hlk, (hD.others l hm).1]
    unfold Hoop.link
    rw [ck, hxw]
  next hoff =>
    have hm : l ∈ disabled (configured (paramOf c.bytes) x).wlm.linkEn := mem_disabled.2 ⟨l4, by rw [← hen]; simpa using hoff⟩
    refine ⟨by rw [hlk]; exact hD.down l hm, fun ha => ?_⟩
    rw [hsrc]
    refine hD.quiet l hm ?_
    rw [Hoop.src_of_lines (cl.trans hxl)]
    exact ha

/-- Settles O55: each row's own operation is followed through its links, the leader being computed again last. -/
theorem linkRows : Obligations.LinkRows := by
  unfold Obligations.LinkRows
  refine ⟨?_, ?_, ?_, ?_, ?_⟩
  · intro s h x k e q hf hk hen hr
    obtain ⟨ha, r, hs⟩ := helloSend_sends hf hk hen hr
    refine gives_wlm helloSend e q rfl (Hoop.gate_of_station ha.station) fun y _ hy => ⟨r, ?_⟩
    unfold sends at hs ⊢
    rwa [hy]
  · intro s h x k b e q hh hd
    have h4 := hearsLink hh
    have hx : exec (.hello h k b) s = .next (s.act h (fun y => hello k b (gotFrame k y))) :=
      congrArg (fun t => Host.Outcome.next (settle t)) (rxLocal_heard e hh hd (hello k b))
    refine gives_wlm _ e q hx ((hello_gate h4 b _).trans (gotFrame_gate k x)) fun y _ hy => ?_
    obtain ⟨l, hl⟩ := hello_link h4 b (gotFrame k x)
    have hn : (gotFrame k x).now = x.now := congrArg Tb.now (Hoop.tb_of_station (gotFrame_abides k x).station)
    have hi : (hello k b (gotFrame k x)).wlm.id = x.wlm.id := (hello_id h4 b _).trans (Wlm.id_of_hub (gotFrame_hub k x))
    obtain ⟨hlead, his⟩ := Hoop.ledRight_of_wlm hy (hello_ledRight k b _)
    rw [link_of_wlm hy, hl, hn]
    rw [congrArg Wlm.id hy, hi] at his
    exact ⟨rfl, rfl, rfl, rfl, rfl, hlead, his⟩
  · intro s h x k e q hk hu ht hen
    have hf := helloTimeout_eq hk ht
    refine gives_wlm_lines (helloTimeout k) e q rfl (by rw [hf]; exact linkDown_gate hk x) fun y _ hl hy => ?_
    rw [hf] at hl hy
    refine ⟨?_, ?_, ledRight_pair (Hoop.ledRight_of_wlm hy (linkDown_ledRight hu))⟩
    · rw [link_of_wlm hy, linkDown_link_self hk]
    · rw [Hoop.src_of_lines hl]
      exact linkDown_live hk hu hen
  · intro s h x k lane e q hk hlane hu hen
    have hf := laneLoss_eq hk hlane x
    have hu' : ((x.updLink k (unlocked lane)).link k).up = true := by rw [Hoop.updLink_link_self]; exact hu
    refine gives_wlm_lines (laneLoss k lane) e q rfl (by rw [hf]; exact (linkDown_gate hk _).trans (updLink_gate ..)) fun y _ hl hy => ?_
    rw [hf] at hl hy
    have hlink : y.link k = { unlocked lane (x.link k) with up := false } := by
      rw [link_of_wlm hy, linkDown_link_self hk, Hoop.updLink_link_self]
    refine ⟨?_, ?_, ?_, ?_, ledRight_pair (Hoop.ledRight_of_wlm hy (linkDown_ledRight hu'))⟩
    · rw [hlink]
    · rw [hlink]
      interval_cases lane
      · exact Bool.and_false _
      · exact Bool.and_false _
    · rw [hlink]; rfl
    · rw [Hoop.src_of_lines hl]
      exact linkDown_live hk hu' hen
  · intro s h c y p q hy
    subst hy
    exact wlmCfg_completes p q

end Sys2Proof.Machine
end

section
/-!
SUPPORT. Walimin routing (R400 to R402): the routing table under the rows that write it (O56).
-/

namespace Sys2Proof.Machine
open Sys2Proof

/-! ## The routing table -/

theorem rt_of_table {x y : Hoop} (h : x.wlm.table = y.wlm.table) (a : Nat) : x.rt a = y.rt a := by unfold Hoop.rt; rw [h]

theorem table_of_calm {x y : Hoop} (h : x.calm = y.calm) : x.wlm.table = y.wlm.table := (congrArg (fun z : Hoop => z.wlm.table) h :)

theorem addr_of_calm {x y : Hoop} (h : x.calm = y.calm) : x.wlm.addr = y.wlm.addr := (congrArg (fun z : Hoop => z.wlm.addr) h :)

theorem conflict_of_calm {x y : Hoop} (h : x.calm = y.calm) : x.wlm.conflict = y.wlm.conflict := (congrArg (fun z : Hoop => z.wlm.conflict) h :)

theorem table_of_core {x y : Hoop} (h : x.core = y.core) : x.wlm.table = y.wlm.table := (congrArg (fun z : Hoop => z.wlm.table) h :)

theorem table_of_hub {v w : Wlm} (h : v.hub = w.hub) : v.table = w.table := (congrArg Wlm.table h :)

theorem addr_of_hub {v w : Wlm} (h : v.hub = w.hub) : v.addr = w.addr := (congrArg Wlm.addr h :)

theorem Hoop.setRt_rt (x : Hoop) (a : Nat) (r : Rt) : (x.setRt a r).rt a = r := smGet_smSet_self ..

/-- What a link is to be told of an entry written over another: every link of a change, else the links still to be told. -/
def toTell (old r : Rt) : List Nat :=
  if !old.valid || old.dist != r.dist || old.port != r.port || old.id != r.id || old.bootgen != r.bootgen then [0, 1, 2, 3] else old.changed

theorem toTell_new {old r : Rt} (h : old.valid = false) : toTell old r = [0, 1, 2, 3] := by
  unfold toTell; rw [h]; rfl

theorem toTell_dist {old r : Rt} (h : old.dist ≠ r.dist) : toTell old r = [0, 1, 2, 3] := by
  unfold toTell; rw [bne_iff_ne.2 h, Bool.or_true]; rfl

/-- The address and the table of a hoop. -/
def Hoop.atlas (x : Hoop) : BitVec 12 × Bool × SMap Rt := (x.wlm.addr, x.wlm.conflict, x.wlm.table)

theorem reachNoted_atlas (x : Hoop) (i j : Nat) : ({ x with wlm := { x.wlm with reachEvSec := i, reachEvNum := j } } : Hoop).atlas = x.atlas := rfl

theorem tellReach_atlas (a : Nat) (r : Rt) (x : Hoop) : (tellReach a r x).atlas = x.atlas := by
  unfold tellReach
  extract_lets sec n
  split
  · rfl
  · exact (congrArg (fun w : Wlm => (w.addr, w.conflict, w.table)) (raiseEv_wlm ..)).trans (reachNoted_atlas ..)

theorem clearWins_atlas (a : Nat) (x : Hoop) : (clearWins a x).atlas = x.atlas := rfl

/-- An entry written stands in the table, marked for the links that are to be told. -/
theorem putRt_atlas (a : Nat) (r : Rt) (x : Hoop) :
    (putRt a r x).atlas = (x.wlm.addr, x.wlm.conflict, smSet {} x.wlm.table a { r with changed := toTell (x.rt a) r }) := by
  unfold putRt
  extract_lets old differs y z was
  have hy : y.atlas = x.atlas := by
    show (if _ then _ else _ : Hoop).atlas = _
    split
    · exact clearWins_atlas ..
    · rfl
  obtain ⟨ha, hc, ht⟩ : y.wlm.addr = x.wlm.addr ∧ y.wlm.conflict = x.wlm.conflict ∧ y.wlm.table = x.wlm.table := by
    simpa only [Hoop.atlas, Prod.mk.injEq] using hy
  have hr : (if differs then { r with changed := [0, 1, 2, 3] } else { r with changed := old.changed } : Rt) = { r with changed := toTell old r } := by
    unfold toTell
    show _ = { r with changed := if differs then [0, 1, 2, 3] else old.changed }
    split <;> rfl
  have hz : z.atlas = (x.wlm.addr, x.wlm.conflict, smSet {} x.wlm.table a { r with changed := toTell (x.rt a) r }) := by
    show (y.wlm.addr, y.wlm.conflict, smSet {} y.wlm.table a _) = _
    rw [ha, hc, ht, hr]
  split
  · exact (tellReach_atlas ..).trans hz
  · exact hz

theorem Hoop.rt_of_atlas {x : Hoop} {v : BitVec 12} {c : Bool} {m : SMap Rt} (h : x.atlas = (v, c, m)) (a : Nat) : x.rt a = smGet {} m a :=
  congrArg (fun q : BitVec 12 × Bool × SMap Rt => smGet ({} : Rt) q.2.2 a) h

theorem Hoop.addr_of_atlas {x : Hoop} {v : BitVec 12} {c : Bool} {m : SMap Rt} (h : x.atlas = (v, c, m)) : x.wlm.addr = v :=
  congrArg (fun q : BitVec 12 × Bool × SMap Rt => q.1) h

theorem Hoop.conflict_of_atlas {x : Hoop} {v : BitVec 12} {c : Bool} {m : SMap Rt} (h : x.atlas = (v, c, m)) : x.wlm.conflict = c :=
  congrArg (fun q : BitVec 12 × Bool × SMap Rt => q.2.1) h

theorem putRt_rt (a : Nat) (r : Rt) (x : Hoop) : (putRt a r x).rt a = { r with changed := toTell (x.rt a) r } :=
  (Hoop.rt_of_atlas (putRt_atlas a r x) a).trans (smGet_smSet_self ..)

/-! ## ROUTE -/

/-- The entry that a neighbour's advertisement gives. -/
def advertised (k d gen : Nat) (id : BitVec 64) (x : Hoop) : Rt :=
  { dist := min 16 (d + 1), port := portOf x k, id := id, bootgen := BitVec.ofNat 16 gen, valid := true, at_ := x.now }

/-- One entry advertised. -/
theorem routeIn_one {k : Nat} {b p : Bytes} (hp : p = frPayload b) (h1 : field p 0 1 = 1) (hl : 20 ≤ p.length) (x : Hoop) :
    routeIn k b x = learn k (field p 4 2) (field p 6 1) (field p 8 2) (BitVec.ofNat 64 (field p 12 8)) x := by
  subst hp
  unfold routeIn
  dsimp only
  rw [h1, if_neg (by omega)]
  rfl

/-- An entry that is new, comes from the port in use, or is nearer is taken. -/
theorem learn_taken {k a d gen : Nat} {id : BitVec 64} {x : Hoop} (h1 : 1 ≤ a) (h2 : a < 4095) (ha : a ≠ x.wlm.addr.toNat) (hd : d ≤ 14)
    (hn : (x.rt a).valid = false ∨ (x.rt a).port = portOf x k ∨ d + 1 < (x.rt a).dist) :
    learn k a d gen id x = putRt a (advertised k d gen id x) x := by
  have hm : min 16 (d + 1) = d + 1 := by omega
  have h16 : ¬ min 16 (d + 1) = 16 := by omega
  unfold learn
  rw [if_neg (by omega), if_neg ha]
  dsimp only
  split
  · rfl
  next hold =>
    rw [if_pos]
    · rfl
    rcases hn with hv | hp | hlt
    · rw [hv]; rfl
    · have hv : (x.rt a).valid = false := by simpa [hp] using hold
      rw [hv]; rfl
    · rw [hm, decide_eq_true hlt, Bool.or_true, Bool.true_or]

/-- Another module with a lower ID advertises the hoop's own address. -/
theorem learn_conflict {k a d gen : Nat} {id : BitVec 64} {x : Hoop} (h1 : 1 ≤ a) (h2 : a < 4095) (ha : a = x.wlm.addr.toNat) (hid : id.toNat < x.wlm.id.toNat) :
    learn k a d gen id x = raiseEv 517 [a, 1] .hoop (dropAddr { x with wlm := { x.wlm with conflict := true } }) := by
  have hne : id ≠ x.wlm.id := fun e => by rw [e] at hid; omega
  unfold learn
  rw [if_neg (by omega), if_pos ha, if_neg hne]
  unfold conflict
  dsimp only
  rw [if_pos hid, ha]

theorem dropAddr_held {x : Hoop} (h : x.wlm.addr.toNat ≠ 0) :
    dropAddr x = putRt x.wlm.addr.toNat (unreach x (x.rt x.wlm.addr.toNat)) { x with wlm := { x.wlm with addr := 0 } } := if_neg h

/-- The address given up is unreachable from now on. -/
theorem dropAddr_conflict {x : Hoop} (h : x.wlm.addr.toNat ≠ 0) :
    (dropAddr x).wlm.addr = 0 ∧ (dropAddr x).wlm.conflict = x.wlm.conflict ∧ ((dropAddr x).rt x.wlm.addr.toNat).dist = 16 := by
  rw [dropAddr_held h]
  exact ⟨Hoop.addr_of_atlas (putRt_atlas ..), Hoop.conflict_of_atlas (putRt_atlas ..), congrArg Rt.dist (putRt_rt ..)⟩

theorem dropAddr_addr (x : Hoop) : (dropAddr x).wlm.addr = 0 := by
  by_cases h : x.wlm.addr.toNat = 0
  · rw [dropAddr, if_pos h]
    exact BitVec.eq_of_toNat_eq h
  · exact (dropAddr_conflict h).1

/-- Giving the address up with the other hoop does not touch this one. -/
theorem dropWith_hoop (h : HoopId) (had : Bool) (s : State) : (dropWith h had s).hoop h = s.hoop h := by
  unfold dropWith
  split
  · cases h
    · exact State.upd_other s .hoopB _
    · exact State.upd_other s .hoopA _
  · rfl

/-- The other hoop of a pair gives up the address that this one gave up. -/
theorem dropWith_other {h : HoopId} {s : State} (h0 : (s.hoop h).wlm.addr = 0) (ho : s.has (other h) = true) :
    ((dropWith h true s).hoop (other h)).wlm.addr = 0 := by
  unfold dropWith
  split
  · rw [State.upd_self s (other h) _ ho, raiseEv_wlm]
    exact dropAddr_addr _
  next hn =>
    rw [h0] at hn
    simpa using hn

theorem exec_route {s : State} {h : HoopId} {x : Hoop} {k : Nat} {b : Bytes} (e : s.here h x) (hh : heard x k b 1 = true) (hd : frDst b = 0) :
    exec (.route h k b) s = .next (settle (dropWith h (x.wlm.addr != 0) (s.upd h (fun y => routeIn k b (gotFrame k y))))) := by
  obtain ⟨hs, rfl⟩ := e
  exact congrArg (fun t => Host.Outcome.next (settle (dropWith h ((s.hoop h).wlm.addr != 0) t))) (rxLocal_heard ⟨hs, rfl⟩ hh hd (routeIn k b))

theorem gotFrame_table (k : Nat) (x : Hoop) : (gotFrame k x).wlm.table = x.wlm.table := table_of_hub (gotFrame_hub k x)

theorem gotFrame_addr (k : Nat) (x : Hoop) : (gotFrame k x).wlm.addr = x.wlm.addr := addr_of_hub (gotFrame_hub k x)

theorem gotFrame_now (k : Nat) (x : Hoop) : (gotFrame k x).now = x.now := congrArg Tb.now (Hoop.tb_of_station (gotFrame_abides k x).station)

theorem gotFrame_port (j k : Nat) (x : Hoop) : portOf (gotFrame j x) k = portOf x k := by
  unfold portOf
  rw [Hoop.isB_of_station (gotFrame_abides j x).station]

/-! ## Telling the links -/

theorem told_rt (k : Nat) (x : Hoop) (a : Nat) : (told k x).rt a = { x.rt a with changed := (x.rt a).changed.filter (· != k) } :=
  smGet_map (fun r : Rt => { r with changed := r.changed.filter (· != k) }) (d := {}) rfl x.wlm.table a

theorem Sent.told (k j : Nat) (x : Hoop) : Sent k x (Machine.told j x) := by
  refine Sent.of_wlm ?_ rfl rfl
  have hm : ((Machine.told j x).wlm.table).map unmarked = x.wlm.table.map unmarked := List.map_map ..
  unfold Hoop.station
  rw [hm]
  rfl

theorem Sent.routes (k : Nat) (es : List (Nat × Rt)) (x : Hoop) : Sent k x (sendRoutes k es x) := by
  have hf : ∀ (f : Hoop → Nat → Hoop), (∀ y i, Sent k y (f y i)) → ∀ (L : List Nat) (y : Hoop), Sent k y (L.foldl f y) := by
    intro f hf L
    induction L with
    | nil => exact fun y => Sent.refl k y
    | cons i L ih => exact fun y => (hf y i).trans (ih _)
  exact hf _ (fun y i => Sent.localFrame ..) _ x

theorem sendLocal_table (k ty : Nat) (p : Bytes) (x : Hoop) : (sendLocal k ty p x).wlm.table = x.wlm.table := (table_of_core (sendFrame_core ..)).trans rfl

theorem sendRoutes_table (k : Nat) (es : List (Nat × Rt)) (x : Hoop) : (sendRoutes k es x).wlm.table = x.wlm.table :=
  foldl_keeps (fun x : Hoop => x.wlm.table) _ (fun _ _ => sendLocal_table ..) _ x

theorem rtBytes_length (x : Hoop) (k : Nat) (q : Nat × Rt) : (rtBytes x k q).length = 16 := by
  simp only [rtBytes, List.length_append, leBytes_length, List.length_cons, List.length_nil]

theorem rtBytes_flatten_length (x : Hoop) (k : Nat) (es : List (Nat × Rt)) : ((es.map (rtBytes x k)).flatten).length = 16 * es.length := by
  induction es with
  | nil => rfl
  | cons q es ih => rw [List.map_cons, List.flatten_cons, List.length_append, ih, rtBytes_length, List.length_cons]; omega

/-- Up to 30 entries go out in one frame. -/
theorem sendRoutes_one {k : Nat} {es : List (Nat × Rt)} (h1 : 1 ≤ es.length) (h30 : es.length ≤ 30) (x : Hoop) :
    sendRoutes k es x = sendLocal k 1 (leBytes 4 es.length ++ (es.map (rtBytes x k)).flatten) x := by
  have hr : (es.length + 29) / 30 = 1 := by omega
  unfold sendRoutes
  rw [hr]
  show sendLocal k 1 (leBytes 4 ((es.drop (30 * 0)).take 30).length ++ (((es.drop (30 * 0)).take 30).map (rtBytes x k)).flatten) x = _
  rw [Nat.mul_zero, List.drop_zero, List.take_of_length_le h30]

/-- What goes out on one link, and the link then told. -/
def advertiseOn (y : Hoop) (k : Nat) : Hoop := told k (sendRoutes k (y.wlm.table.filter (fun q => q.2.valid)) y)

theorem routeAdvertise_eq {x : Hoop} (h : x.boot.fwRun = true) : routeAdvertise x = x.upLinks.foldl advertiseOn x := if_pos h

theorem advertiseOn_sent (y : Hoop) (k : Nat) : Sent k y (advertiseOn y k) := (Sent.routes ..).trans (Sent.told ..)

theorem advertiseOn_rt (y : Hoop) (k a : Nat) : (advertiseOn y k).rt a = { y.rt a with changed := (y.rt a).changed.filter (· != k) } := by
  rw [advertiseOn, told_rt, rt_of_table (sendRoutes_table ..)]

/-- A link that was told stays told. -/
theorem foldl_advertiseOn_told {k : Nat} (a : Nat) (L : List Nat) : ∀ x : Hoop, k ∈ L ∨ k ∉ (x.rt a).changed → k ∉ ((L.foldl advertiseOn x).rt a).changed := by
  induction L with
  | nil => exact fun x h => h.resolve_left (by simp)
  | cons j L ih =>
    intro x h
    refine ih _ ?_
    rw [advertiseOn_rt]
    by_cases hj : k = j
    · exact .inr (by simp [hj])
    · refine h.imp (fun hm => (List.mem_cons.1 hm).resolve_left hj) fun hn hm => hn (List.mem_of_mem_filter hm)

theorem filter_valid_unmarked (t : SMap Rt) : (t.filter (fun q => q.2.valid)).map unmarked = (t.map unmarked).filter (fun q => q.2.valid) := by
  rw [List.filter_map]; rfl

theorem table_of_station {x y : Hoop} (h : x.station = y.station) : x.wlm.table.map unmarked = y.wlm.table.map unmarked :=
  (congrArg (fun z : Hoop => z.wlm.table) h :)

theorem rtBytes_of_station {x y : Hoop} (h : x.station = y.station) (k : Nat) : rtBytes x k = rtBytes y k := by
  funext q
  unfold rtBytes portOf
  rw [Hoop.isB_of_station h]

/-- What is advertised does not depend on which links are still to be told. -/
theorem advertised_of_station {x z : Hoop} (h : z.station = x.station) (k : Nat) :
    (z.wlm.table.filter (fun q => q.2.valid)).map (rtBytes z k) = (x.wlm.table.filter (fun q => q.2.valid)).map (rtBytes x k) := by
  have e : ∀ (y : Hoop) (es : List (Nat × Rt)), es.map (rtBytes y k) = (es.map unmarked).map (rtBytes y k) := fun y es => by
    rw [List.map_map]; rfl
  rw [e z, e x, filter_valid_unmarked, filter_valid_unmarked, table_of_station h, rtBytes_of_station h]

/-- The whole table goes out on every up link whose queue has room. -/
theorem routeAdvertise_sends {x : Hoop} {k : Nat} {es : List (Nat × Rt)} (hf : x.boot.fwRun = true) (hk : k ∈ x.upLinks)
    (hes : es = x.wlm.table.filter (fun q => q.2.valid)) (h1 : 1 ≤ es.length) (h30 : es.length ≤ 30) (hr : roomFor x k (20 + 16 * es.length) = true) :
    ∃ q, sends (routeAdvertise x) k (frameBytes 0 x.wlm.addr.toNat 0 1 x.wlmOrigin q (leBytes 4 es.length ++ (es.map (rtBytes x k)).flatten)) := by
  rw [routeAdvertise_eq hf]
  obtain ⟨z, ha, hq, hin⟩ := foldl_turn advertiseOn_sent (upLinks_nodup x) hk x
  have hb := advertised_of_station ha.station k
  rw [← hes] at hb
  have hn : (z.wlm.table.filter (fun q => q.2.valid)).length = es.length := by
    have := congrArg List.length hb
    rwa [List.length_map, List.length_map] at this
  have hroom : roomFor z k (16 + (leBytes 4 es.length ++ (es.map (rtBytes x k)).flatten).length) = true := by
    rw [List.length_append, leBytes_length, rtBytes_flatten_length, ← Nat.add_assoc]
    exact roomFor_of_queued hq hr
  refine ⟨nextSeq z.wlm.localSeq, hin _ ?_⟩
  show _ ∈ (sendRoutes k (z.wlm.table.filter (fun q => q.2.valid)) z).wlm.tx
  rw [sendRoutes_one (by omega) (by omega), hn, hb, ← Hoop.addr_of_station ha.station, ← wlmOrigin_of_station ha.station]
  exact sendLocal_sends hroom

/-! ## TRIGGERED_UPDATE and ROUTE_EXPIRY -/

/-- A link that is due an update is told of what changed. -/
theorem triggered_due {k : Nat} {x : Hoop} {e : Nat × Rt} (hu : (x.link k).up = true) (he : e ∈ x.wlm.table) (hv : e.2.valid = true) (hc : k ∈ e.2.changed)
    (ht : ∀ t, (x.link k).lastTrig = some t → t + 1000000 ≤ x.now) :
    triggered k x = (told k (sendRoutes k (x.wlm.table.filter (fun q => q.2.valid && q.2.changed.contains k)) x)).updLink k (fun l => { l with lastTrig := some x.now }) := by
  have hm : e ∈ x.wlm.table.filter (fun q => q.2.valid && q.2.changed.contains k) :=
    List.mem_filter.2 ⟨he, by rw [hv, List.contains_iff_mem.2 hc]; rfl⟩
  have hne : (x.wlm.table.filter (fun q => q.2.valid && q.2.changed.contains k)).isEmpty = false := by
    cases hl : x.wlm.table.filter (fun q => q.2.valid && q.2.changed.contains k) with
    | nil => rw [hl] at hm; exact absurd hm (by simp)
    | cons _ _ => rfl
  unfold triggered
  cases hlast : (x.link k).lastTrig with
  | none =>
    dsimp only
    rw [hu, hne]; rfl
  | some t =>
    dsimp only
    rw [hu, hne, decide_eq_true (ht t hlast)]; rfl

/-- Within a millisecond of the last update nothing is sent. -/
theorem triggered_early {k t : Nat} {x : Hoop} (hl : (x.link k).lastTrig = some t) (ht : x.now < t + 1000000) : triggered k x = x := by
  unfold triggered
  rw [hl]
  dsimp only
  rw [decide_eq_false (by omega), if_pos (by simp)]

theorem routeExpiry_old {a : Nat} {x : Hoop} (hv : (x.rt a).valid = true) (h0 : (x.rt a).dist ≠ 0) (h16 : (x.rt a).dist ≠ 16) (ht : (x.rt a).at_ + 30000000 ≤ x.now) :
    routeExpiry a x = putRt a (unreach x (x.rt a)) x := by
  unfold routeExpiry
  dsimp only
  rw [if_neg (by rw [hv]; decide), if_neg h16, if_pos ⟨h0, ht⟩]

theorem routeExpiry_dead {a t : Nat} {x : Hoop} (hv : (x.rt a).valid = true) (h16 : (x.rt a).dist = 16) (hd : (x.rt a).deadAt = some t) (ht : t + 30000000 ≤ x.now) :
    routeExpiry a x = x.setRt a {} := by
  unfold routeExpiry
  dsimp only
  rw [if_neg (by rw [hv]; decide), if_pos h16, hd]
  exact if_pos ht

/-! ## O56 -/

/-- An entry that is new, comes from the port in use, or is nearer is taken one hop farther. -/
theorem route_taken {s : State} {h : HoopId} {x : Hoop} {k a : Nat} {b p : Bytes} (e : s.here h x) (hh : heard x k b 1 = true) (hd : frDst b = 0)
    (hp : p = frPayload b) (hn : field p 0 1 = 1) (hl : 20 ≤ p.length) (ha : a = field p 4 2) (h1 : 1 ≤ a) (h2 : a < 4095) (hown : a ≠ x.wlm.addr.toNat)
    (hfar : field p 6 1 ≤ 14) (hbetter : (x.rt a).valid = false ∨ (x.rt a).port = portOf x k ∨ field p 6 1 + 1 < (x.rt a).dist) :
    CompletesWith (.route h k b) s h (fun y => y.rt a =
      { advertised k (field p 6 1) (field p 8 2) (BitVec.ofNat 64 (field p 12 8)) (gotFrame k x) with
        changed := toTell (x.rt a) (advertised k (field p 6 1) (field p 8 2) (BitVec.ofNat 64 (field p 12 8)) (gotFrame k x)) }) := by
  have hrt : ∀ c, (gotFrame k x).rt c = x.rt c := rt_of_table (gotFrame_table k x)
  have hf : routeIn k b (gotFrame k x) = putRt a (advertised k (field p 6 1) (field p 8 2) (BitVec.ofNat 64 (field p 12 8)) (gotFrame k x)) (gotFrame k x) := by
    rw [routeIn_one hp hn hl, ← ha]
    exact learn_taken h1 h2 (by rw [gotFrame_addr]; exact hown) hfar (by rw [hrt, gotFrame_port]; exact hbetter)
  refine ⟨_, exec_route e hh hd, ?_⟩
  show ((settle _).hoop h).rt a = _
  rw [rt_of_table (table_of_calm (settle_calm ..)), dropWith_hoop, State.upd_self s h _ e.1, e.2, hf, putRt_rt, hrt]

/-- Another module with a lower ID that advertises the hoop's own address takes it from the hoops of the pair. -/
theorem route_conflict {s : State} {h : HoopId} {x : Hoop} {k : Nat} {b p : Bytes} (e : s.here h x) (hh : heard x k b 1 = true) (hd : frDst b = 0)
    (hp : p = frPayload b) (hn : field p 0 1 = 1) (hl : 20 ≤ p.length) (ha : field p 4 2 = x.wlm.addr.toNat) (h1 : 1 ≤ field p 4 2) (h2 : field p 4 2 < 4095)
    (hid : field p 12 8 < x.wlm.id.toNat) : ∃ t, exec (.route h k b) s = .next t ∧ (t.hoop h).wlm.conflict = true ∧
      (t.hoop h).wlm.addr = 0 ∧ ((t.hoop h).rt (field p 4 2)).dist = 16 ∧ (s.has (other h) = true → (t.hoop (other h)).wlm.addr = 0) := by
  generalize hz : ({ gotFrame k x with wlm := { (gotFrame k x).wlm with conflict := true } } : Hoop) = z
  have hza : z.wlm.addr = x.wlm.addr := by rw [← hz]; exact gotFrame_addr k x
  have hzc : z.wlm.conflict = true := by rw [← hz]
  have hidk : (BitVec.ofNat 64 (field p 12 8)).toNat < (gotFrame k x).wlm.id.toNat := by
    rw [Wlm.id_of_hub (gotFrame_hub k x), BitVec.toNat_ofNat]
    exact Nat.lt_of_le_of_lt (Nat.mod_le ..) hid
  have hf : routeIn k b (gotFrame k x) = raiseEv 517 [field p 4 2, 1] .hoop (dropAddr z) := by
    rw [routeIn_one hp hn hl, learn_conflict h1 h2 (by rw [gotFrame_addr]; exact ha) hidk, hz]
  have hne : z.wlm.addr.toNat ≠ 0 := by rw [hza]; omega
  obtain ⟨d1, d2, d3⟩ := dropAddr_conflict hne
  rw [hza, ← ha] at d3
  have hown : x.wlm.addr != 0 := bne_iff_ne.2 fun h0 => hne (by rw [hza, h0]; rfl)
  generalize hs' : s.upd h (fun y => routeIn k b (gotFrame k y)) = s'
  have hh' : s'.hoop h = raiseEv 517 [field p 4 2, 1] .hoop (dropAddr z) := by rw [← hs', State.upd_self s h _ e.1, e.2, hf]
  have h0 : (s'.hoop h).wlm.addr = 0 := by rw [hh', raiseEv_wlm]; exact d1
  have hx := exec_route e hh hd
  rw [hs', hown] at hx
  have hc : ((settle (dropWith h true s')).hoop h).calm = (s'.hoop h).calm := (settle_calm ..).trans (congrArg Hoop.calm (dropWith_hoop ..))
  refine ⟨_, hx, ?_, ?_, ?_, fun ho => ?_⟩
  · rw [conflict_of_calm hc, hh', raiseEv_wlm, d2, hzc]
  · rw [addr_of_calm hc, h0]
  · rw [rt_of_table (table_of_calm hc), hh', rt_of_table (congrArg Wlm.table (raiseEv_wlm ..)), d3]
  · rw [addr_of_calm (settle_calm ..)]
    refine dropWith_other h0 ?_
    rw [← hs']
    rw [State.has_of_frame (State.upd_frame s h _ fun y => (routeIn_site k b _).trans (gotFrame_site k y))]
    exact ho

/-- Settles O56: the routing table under each row that writes it, and what goes out on the links. -/
theorem routingRows : Obligations.RoutingRows := by
  unfold Obligations.RoutingRows
  refine ⟨?_, ?_, ?_, ?_, ?_, ?_, ?_, ?_⟩
  · intro s h x k b p a e hh hd hp hn hl ha h1 h2 hown hfar hbetter
    obtain ⟨t, hx, ht⟩ := route_taken e hh hd hp hn hl ha h1 h2 hown hfar hbetter
    refine ⟨t, hx, ?_⟩
    dsimp only at ht ⊢
    rw [ht]
    exact ⟨rfl, Nat.min_eq_right (by omega), gotFrame_port .., gotFrame_now .., rfl, rfl, fun hv => toTell_new hv⟩
  · exact fun s h x k b p e hh hd hp hn hl ha h1 h2 hid => route_conflict e hh hd hp hn hl ha h1 h2 hid
  · intro s h x k e hf hk
    refine gives_act routeAdvertise e rfl fun y hy a => ?_
    rw [rt_of_table (table_of_calm hy), routeAdvertise_eq hf]
    exact foldl_advertiseOn_told a _ x (.inl hk)
  · intro s h x k es e q hf hk hes h1 h30 hr
    obtain ⟨r, hs⟩ := routeAdvertise_sends hf hk hes h1 h30 hr
    have ha : Abides x (routeAdvertise x) := by rw [routeAdvertise_eq hf]; exact foldl_abides advertiseOn_sent _ x
    refine gives_wlm routeAdvertise e q rfl (Hoop.gate_of_station ha.station) fun y _ hy => ⟨r, ?_⟩
    unfold sends at hs ⊢
    rwa [hy]
  · intro s h x k n e q hu hn hv hc ht
    have hf := triggered_due hu hn hv hc ht
    refine gives_wlm (triggered k) e q rfl ?_ fun y _ hy => ⟨?_, fun a => ?_⟩
    · rw [hf, updLink_gate]
      exact Hoop.gate_of_station ((Sent.routes k _ x).trans (Sent.told k k _)).station
    · rw [link_of_wlm hy, hf, Hoop.updLink_link_self]
    · rw [rt_of_table (congrArg Wlm.table hy), hf]
      show k ∉ ((told k _).rt a).changed
      rw [told_rt]
      simp
  · intro s h x k t e hl ht
    exact makes_act (triggered k) e rfl (congrArg Hoop.calm (triggered_early hl ht))
  · intro s h x a e hv h0 h16 ht
    refine gives_act (routeExpiry a) e rfl fun y hy => ?_
    rw [rt_of_table (table_of_calm hy), routeExpiry_old hv h0 h16 ht, putRt_rt]
    exact ⟨hv, rfl, rfl, toTell_dist h16⟩
  · intro s h x a t e hv h16 hd ht
    refine gives_act (routeExpiry a) e rfl fun y hy => ?_
    rw [rt_of_table (table_of_calm hy), routeExpiry_dead hv h16 hd ht, Hoop.setRt_rt]

end Sys2Proof.Machine
end

section
/-!
SUPPORT. A Walimin frame that reaches the hoops in service (R396, R420): each takes it once, by its own window.
-/

namespace Sys2Proof.Machine
open Sys2Proof

/-! ## An effect on several hoops -/

theorem State.upd_hoop_ne (s : State) {h k : HoopId} (f : Hoop → Hoop) (hk : k ≠ h) : (s.upd h f).hoop k = s.hoop k := by
  have hother : k = other h := by
    revert hk
    cases h <;> cases k <;> decide
  rw [hother, State.upd_other]

theorem State.has_upd {s : State} {h : HoopId} {f : Hoop → Hoop} (hf : ∀ x, (f x).site = x.site) (k : HoopId) : (s.upd h f).has k = s.has k :=
  State.has_of_frame (State.upd_frame s h f hf) k

/-- A hoop that a list names once takes the effect once. -/
theorem foldl_upd_once {f : Hoop → Hoop} (hf : ∀ x, (f x).site = x.site) {L : List HoopId} (hd : L.Nodup) {h : HoopId} (hm : h ∈ L) :
    ∀ {s : State}, s.has h = true → (L.foldl (fun s q => s.upd q f) s).hoop h = f (s.hoop h) := by
  have skip : ∀ (L : List HoopId), h ∉ L → ∀ s : State, (L.foldl (fun s q => s.upd q f) s).hoop h = s.hoop h := by
    intro L
    induction L with
    | nil => exact fun _ _ => rfl
    | cons q L ih =>
      intro hn s
      have hq : h ≠ q := fun e => hn (by simp [e])
      have hL : h ∉ L := fun hm => hn (by simp [hm])
      exact (ih hL _).trans (State.upd_hoop_ne s f hq)
  induction L with
  | nil => exact fun _ => absurd hm (by simp)
  | cons q L ih =>
    intro s hs
    obtain ⟨hq, hd⟩ := List.nodup_cons.1 hd
    by_cases e : h = q
    · subst e
      exact (skip L hq _).trans (State.upd_self s h f hs)
    · have hmL := (List.mem_cons.1 hm).resolve_left e
      exact (ih hd hmL (by rw [State.has_upd hf]; exact hs)).trans (congrArg f (State.upd_hoop_ne s f e))

/-- A view that the effect keeps stands in every hoop. -/
theorem foldl_upd_view {γ : Type} (p : Hoop → γ) {f : Hoop → Hoop} (hf : ∀ x, p (f x) = p x) (L : List HoopId) (s : State) (k : HoopId) :
    p ((L.foldl (fun s q => s.upd q f) s).hoop k) = p (s.hoop k) :=
  foldl_keeps (fun s : State => p (s.hoop k)) _ (fun s q => State.upd_view p s q k f hf) L s

theorem foldl_upd_duo (f : Hoop → Hoop) (L : List HoopId) (s : State) : (L.foldl (fun s q => s.upd q f) s).duo = s.duo :=
  foldl_keeps State.duo _ (fun s q => State.upd_duo s q f) L s

theorem State.hoops_nodup (s : State) : s.hoops.Nodup := by unfold State.hoops; split <;> decide

theorem servingHoops_nodup (s : State) : (servingHoops s).Nodup := (State.hoops_nodup s).filter _

theorem mem_servingHoops {s : State} {h : HoopId} : h ∈ servingHoops s ↔ h ∈ s.hoops ∧ ((s.hoop h).pair.role = .active ∨ (s.hoop h).pair.role = .standby) := by
  simp only [servingHoops, List.mem_filter, Bool.or_eq_true, beq_iff_eq]

/-! ## Delivery -/

/-- What a frame does to a hoop that it is delivered to. -/
def deliverTo (b : Bytes) (f : Hoop → Hoop) (x : Hoop) : Hoop :=
  match passWin x.wlm.windows b with
  | some m => f { x with wlm := { x.wlm with windows := m } }
  | none => dupSeen x

/-- The hoops in service, the ACTIVE one first. -/
def activeFirst (s : State) : List HoopId :=
  (servingHoops s).filter (fun h => (s.hoop h).pair.role == .active) ++ (servingHoops s).filter (fun h => (s.hoop h).pair.role != .active)

theorem deliver_eq (b : Bytes) (f : Hoop → Hoop) (s : State) : deliver b f s = (activeFirst s).foldl (fun s h => s.upd h (deliverTo b f)) s := rfl

theorem activeFirst_nodup (s : State) : (activeFirst s).Nodup := by
  have hd := servingHoops_nodup s
  refine List.nodup_append.2 ⟨hd.filter _, hd.filter _, fun a ha b hb e => ?_⟩
  obtain ⟨-, h1⟩ := List.mem_filter.1 ha
  obtain ⟨-, h2⟩ := List.mem_filter.1 hb
  rw [← e, bne, h1] at h2
  exact absurd h2 (by decide)

theorem mem_activeFirst {s : State} {h : HoopId} : h ∈ activeFirst s ↔ h ∈ servingHoops s := by
  unfold activeFirst
  rw [List.mem_append, List.mem_filter, List.mem_filter]
  cases hr : (s.hoop h).pair.role == .active with
  | true => simp [bne, hr]
  | false => simp [bne, hr]

theorem deliverTo_site {f : Hoop → Hoop} (hf : ∀ x, (f x).site = x.site) (b : Bytes) (x : Hoop) : (deliverTo b f x).site = x.site := by
  unfold deliverTo
  split
  · exact hf _
  · exact dupSeen_site x

theorem arrives_iff {x : Hoop} {k ty dst : Nat} {b : Bytes} {m : SMap Win} : arrives x k b ty dst m = true ↔
    heard x k b ty = true ∧ frDst b = dst ∧ dst ≠ 0 ∧ (x.pair.role = .active ∨ x.pair.role = .standby) ∧ passWin x.wlm.windows b = some m := by
  simp only [arrives, Bool.and_eq_true, Bool.or_eq_true, beq_iff_eq, bne_iff_ne, and_assoc]

theorem delivered_iff {x : Hoop} {k ty : Nat} {b : Bytes} {m : SMap Win} : delivered x k b ty m = true ↔
    arrives x k b ty x.wlm.addr.toNat m = true ∧ x.wlm.addr.toNat ≠ bcast := by
  simp only [delivered, Bool.and_eq_true, bne_iff_ne]

theorem gotFrame_pair (k : Nat) (x : Hoop) : (gotFrame k x).pair = x.pair := (congrArg Hoop.pair (gotFrame_abides k x).station :)

theorem gotFrame_windows (k : Nat) (x : Hoop) : (gotFrame k x).wlm.windows = x.wlm.windows := (congrArg Wlm.windows (gotFrame_hub k x) :)

theorem deliverTo_received {x : Hoop} {k : Nat} {b : Bytes} {m : SMap Win} (h : passWin x.wlm.windows b = some m) (f : Hoop → Hoop) :
    deliverTo b f (gotFrame k x) = f (received k m x) := by
  unfold deliverTo
  rw [gotFrame_windows, h]
  rfl

/-- The state as the delivery finds it: the frame counted by the hoop whose link brought it. -/
def counted (s : State) (h : HoopId) (k : Nat) : State := s.upd h (gotFrame k)

theorem counted_hoop {s : State} {h : HoopId} {x : Hoop} (e : s.here h x) (k : Nat) : (counted s h k).hoop h = gotFrame k x := by
  rw [counted, State.upd_self s h _ e.1, e.2]

theorem counted_has (s : State) (h : HoopId) (k : Nat) (j : HoopId) : (counted s h k).has j = s.has j := State.has_upd (gotFrame_site k) j

/-- A hoop in service takes a frame that it has not had. -/
theorem deliver_hoop {s : State} {h : HoopId} {x : Hoop} {k : Nat} {b : Bytes} {m : SMap Win} {f : Hoop → Hoop} (hf : ∀ x, (f x).site = x.site)
    (e : s.here h x) (hr : x.pair.role = .active ∨ x.pair.role = .standby) (hw : passWin x.wlm.windows b = some m) :
    (deliver b f (counted s h k)).hoop h = f (received k m x) := by
  have hs : (counted s h k).has h = true := (counted_has ..).trans e.1
  have hm : h ∈ activeFirst (counted s h k) := by
    refine mem_activeFirst.2 (mem_servingHoops.2 ⟨has_mem hs, ?_⟩)
    rw [counted_hoop e, gotFrame_pair]
    exact hr
  rw [deliver_eq, foldl_upd_once (deliverTo_site hf b) (activeFirst_nodup _) hm hs, counted_hoop e, deliverTo_received hw]

/-- A frame for the hoop's own address is delivered. -/
theorem rxFrame_delivered {s : State} {h : HoopId} {x : Hoop} {k ty : Nat} {b : Bytes} {m : SMap Win} (e : s.here h x) (hd : delivered x k b ty m = true)
    (f : Hoop → Hoop) : rxFrame ty h k b f s = deliver b f (counted s h k) := by
  obtain ⟨hs, rfl⟩ := e
  obtain ⟨ha, hb⟩ := delivered_iff.1 hd
  obtain ⟨hh, hdst, h0, -, -⟩ := arrives_iff.1 ha
  obtain ⟨hk, hform, hty⟩ := heard_iff.1 hh
  unfold rxFrame
  dsimp only
  rw [hs, hk, hform]
  dsimp only
  rw [if_neg (by decide), if_neg (not_not.2 hty), hdst, if_neg h0, if_neg hb, if_pos rfl]
  rfl

/-- The forwarding of a broadcast, by every hoop. -/
def passOn (h : HoopId) (k : Nat) (b : Bytes) (s : State) : State :=
  s.hoops.foldl (fun s q => s.upd q (forward (if q = h then some k else none) b)) s

/-- A broadcast is delivered and passed on. -/
theorem rxFrame_bcast {s : State} {h : HoopId} {x : Hoop} {k ty : Nat} {b : Bytes} {m : SMap Win} (e : s.here h x) (ha : arrives x k b ty bcast m = true)
    (f : Hoop → Hoop) : rxFrame ty h k b f s = passOn h k b (deliver b f (counted s h k)) := by
  obtain ⟨hs, rfl⟩ := e
  obtain ⟨hh, hdst, h0, -, -⟩ := arrives_iff.1 ha
  obtain ⟨hk, hform, hty⟩ := heard_iff.1 hh
  unfold rxFrame
  dsimp only
  rw [hs, hk, hform]
  dsimp only
  rw [if_neg (by decide), if_neg (not_not.2 hty), hdst, if_neg h0, if_pos rfl]
  rfl

/-- A view that forwarding keeps stands through it. -/
theorem passOn_view {γ : Type} (p : Hoop → γ) {b : Bytes} (hp : ∀ o x, p (forward o b x) = p x) (h : HoopId) (k : Nat) (s : State) (j : HoopId) :
    p ((passOn h k b s).hoop j) = p (s.hoop j) :=
  foldl_keeps (fun s : State => p (s.hoop j)) _ (fun s q => State.upd_view p s q j _ (hp _)) _ s

theorem passOn_duo (h : HoopId) (k : Nat) (b : Bytes) (s : State) : (passOn h k b s).duo = s.duo :=
  foldl_keeps State.duo _ (fun s q => State.upd_duo s q _) _ s

theorem dupSeen_gate (x : Hoop) : (dupSeen x).gate = x.gate := (pmcRaw_gate ..).trans rfl

/-- Where the effect keeps every gate, so does the delivery. -/
theorem deliver_gate {f : Hoop → Hoop} (hf : ∀ x, (f x).gate = x.gate) (b : Bytes) (s : State) (h : HoopId) (k : Nat) (j : HoopId) :
    ((deliver b f (counted s h k)).hoop j).gate = (s.hoop j).gate := by
  have hd : ∀ x, (deliverTo b f x).gate = x.gate := fun x => by
    unfold deliverTo
    split
    · exact (hf _).trans rfl
    · exact dupSeen_gate x
  exact (foldl_upd_view Hoop.gate hd _ _ j).trans (State.upd_view Hoop.gate s h j _ (gotFrame_gate k))

theorem deliver_duo (b : Bytes) (f : Hoop → Hoop) (s : State) (h : HoopId) (k : Nat) : (deliver b f (counted s h k)).duo = s.duo :=
  (foldl_upd_duo ..).trans (State.upd_duo ..)

end Sys2Proof.Machine
end

section
/-!
SUPPORT. Walimin addresses (R399): grants, requests and what a grant makes of the module that it names (O57).
-/

namespace Sys2Proof.Machine
open Sys2Proof

/-- What the state before `settle` says of the blocks that `settle` leaves alone holds after the row. -/
theorem gives_next {i : Instr} {s t : State} {h : HoopId} {P : Hoop → Prop} (hx : exec i s = .next (settle t))
    (hP : ∀ y : Hoop, y.calm = (t.hoop h).calm → P y) : CompletesWith i s h P := ⟨_, hx, hP _ (settle_calm t h)⟩

/-- In a still module, the same of the Walimin block. -/
theorem gives_next_wlm {i : Instr} {s t : State} {h : HoopId} {P : Hoop → Prop} (hx : exec i s = .next (settle t)) (ht : t.still)
    (hP : ∀ y : Hoop, y.calm = (t.hoop h).calm → y.wlm = (t.hoop h).wlm → P y) : CompletesWith i s h P :=
  ⟨_, hx, hP _ (settle_calm t h) (settle_wlm ht h)⟩

/-! ## The address that a module holds -/

/-- The address held, the one kept in the MRAM, and the table. -/
def Wlm.deed (w : Wlm) : BitVec 12 × BitVec 12 × SMap Rt := (w.addr, w.lastAddr, w.table)

theorem deed_of_calm {x y : Hoop} (h : x.calm = y.calm) : x.wlm.deed = y.wlm.deed := (congrArg (fun z : Hoop => z.wlm.deed) h :)

theorem deed_of_core {x y : Hoop} (h : x.core = y.core) : x.wlm.deed = y.wlm.deed := (congrArg (fun z : Hoop => z.wlm.deed) h :)

theorem Wlm.lastAddr_of_deed {v w : Wlm} (h : v.deed = w.deed) : v.lastAddr = w.lastAddr := congrArg (fun q => q.2.1) h

theorem Wlm.table_of_deed {v w : Wlm} (h : v.deed = w.deed) : v.table = w.table := congrArg (fun q => q.2.2) h

theorem Wlm.addr_of_deed {v w : Wlm} (h : v.deed = w.deed) : v.addr = w.addr := congrArg (fun q => q.1) h

theorem tellDiscard_deed (x : Hoop) : (tellDiscard x).wlm.deed = x.wlm.deed := by
  unfold tellDiscard
  extract_lets sec
  split
  · rfl
  · exact (congrArg Wlm.deed (raiseEv_wlm ..)).trans rfl

theorem sendToward_deed (tel : Bool) (b : Bytes) (x : Hoop) : (sendToward tel b x).wlm.deed = x.wlm.deed := by
  unfold sendToward
  split
  · exact deed_of_core (sendFrame_core ..)
  · split
    · rfl
    · exact (congrArg Wlm.deed (pmcRaw_wlm ..)).trans rfl

theorem forward_deed (o : Option Nat) (b : Bytes) (x : Hoop) : (forward o b x).wlm.deed = x.wlm.deed := by
  unfold forward
  split
  · exact (congrArg Wlm.deed (pmcRaw_wlm ..)).trans rfl
  next m _ =>
    extract_lets w y
    have hy : y.wlm.deed = x.wlm.deed := rfl
    split
    · exact (tellDiscard_deed _).trans ((congrArg Wlm.deed (pmcRaw_wlm ..)).trans hy)
    · split
      · exact (foldl_keeps (fun z : Hoop => z.wlm.deed) _ (fun _ _ => deed_of_core (sendFrame_core ..)) _ y).trans hy
      · exact (sendToward_deed ..).trans hy

/-- Whether the MRAM may be written, and the address that it keeps. -/
def Hoop.memo (x : Hoop) : Bool × BitVec 12 := (x.mramFree, x.wlm.lastAddr)

theorem raiseEv_memo (src : Nat) (p : List Nat) (sc : Scope) (x : Hoop) : (raiseEv src p sc x).memo = x.memo := by
  have hj : (raiseEv src p sc x).jnl = x.jnl := Hoop.jnl_of_untold (raiseEv_untold ..)
  unfold Hoop.memo Hoop.mramFree
  rw [raiseEv_ths, hj, raiseEv_wlm]

theorem memo_wlm (x : Hoop) {w : Wlm} (h : w.lastAddr = x.wlm.lastAddr) : ({ x with wlm := w } : Hoop).memo = x.memo := congrArg (Prod.mk x.mramFree) h

theorem setRt_memo (a : Nat) (r : Rt) (x : Hoop) : (x.setRt a r).memo = x.memo := memo_wlm x rfl

theorem clearWins_memo (a : Nat) (x : Hoop) : (clearWins a x).memo = x.memo := memo_wlm x rfl

/-- An event of reachability noted for its second. -/
def reachNoted (i j : Nat) (x : Hoop) : Hoop := { x with wlm := { x.wlm with reachEvSec := i, reachEvNum := j } }

theorem reachNoted_memo (i j : Nat) (x : Hoop) : (reachNoted i j x).memo = x.memo := memo_wlm x rfl

theorem reachNoted_id (i j : Nat) (x : Hoop) : (reachNoted i j x).wlm.id = x.wlm.id := rfl

theorem tellReach_memo (a : Nat) (r : Rt) (x : Hoop) : (tellReach a r x).memo = x.memo := by
  unfold tellReach
  extract_lets sec n
  split
  · rfl
  · exact (raiseEv_memo ..).trans (reachNoted_memo ..)

theorem putRt_memo (a : Nat) (r : Rt) (x : Hoop) : (putRt a r x).memo = x.memo := by
  unfold putRt
  extract_lets old differs y z was
  have hy : y.memo = x.memo := by
    show (if _ then _ else _ : Hoop).memo = _
    split
    · exact clearWins_memo ..
    · rfl
  have hz : z.memo = x.memo := (setRt_memo ..).trans hy
  split
  · exact (tellReach_memo ..).trans hz
  · exact hz

theorem dropAddr_memo (x : Hoop) : (dropAddr x).memo = x.memo := by
  unfold dropAddr
  extract_lets a
  split
  · rfl
  · exact (putRt_memo ..).trans (memo_wlm x rfl)

/-- The hoop that takes an address, the one before given up. -/
def bare (a : Nat) (x : Hoop) : Hoop := if x.wlm.addr.toNat = a then x else dropAddr x

theorem bare_memo (a : Nat) (x : Hoop) : (bare a x).memo = x.memo := by
  unfold bare
  split
  · rfl
  · exact dropAddr_memo x

/-- The address written, in the MRAM too. -/
def deeded (a : Nat) (x : Hoop) : Hoop :=
  mramWrite (.address (BitVec.ofNat 12 a)) { bare a x with wlm := { (bare a x).wlm with addr := BitVec.ofNat 12 a } }

/-- The entry of the module's own address. -/
def ownEntry (x y : Hoop) : Rt := { dist := 0, port := 0, id := y.wlm.id, bootgen := y.wlm.bootgen, valid := true, at_ := x.now }

theorem takeAddr_eq (a : Nat) (x : Hoop) : takeAddr a x = raiseEv 517 [a, 0] .hoop (putRt a (ownEntry (bare a x) (bare a x)) (deeded a x)) := rfl

theorem mramWrite_addr (v : BitVec 12) (x : Hoop) : (mramWrite (.address v) x).wlm.addr = x.wlm.addr := by
  unfold mramWrite
  split <;> rfl

theorem deeded_lastAddr {a : Nat} {x : Hoop} (h : x.mramFree = true) : (deeded a x).wlm.lastAddr = BitVec.ofNat 12 a := by
  have hf : (bare a x).mramFree = true := (congrArg Prod.fst (bare_memo a x)).trans h
  unfold deeded mramWrite
  rw [if_pos (show ({ bare a x with wlm := { (bare a x).wlm with addr := BitVec.ofNat 12 a } } : Hoop).mramFree = true from hf)]
  rfl

theorem tellReach_id (a : Nat) (r : Rt) (x : Hoop) : (tellReach a r x).wlm.id = x.wlm.id := by
  unfold tellReach
  extract_lets sec n
  split
  · rfl
  · exact (congrArg Wlm.id (raiseEv_wlm ..)).trans (reachNoted_id ..)

theorem putRt_id (a : Nat) (r : Rt) (x : Hoop) : (putRt a r x).wlm.id = x.wlm.id := by
  unfold putRt
  extract_lets old differs y z was
  have hy : y.wlm.id = x.wlm.id := by
    show (if _ then _ else _ : Hoop).wlm.id = _
    split <;> rfl
  split
  · exact (tellReach_id ..).trans hy
  · exact hy

theorem dropAddr_id (x : Hoop) : (dropAddr x).wlm.id = x.wlm.id := by
  unfold dropAddr
  extract_lets a
  split
  · rfl
  · exact putRt_id ..

theorem bare_id (a : Nat) (x : Hoop) : (bare a x).wlm.id = x.wlm.id := by
  unfold bare
  split
  · rfl
  · exact dropAddr_id x

/-- What the module that takes an address then holds. -/
structure Holds (a : Nat) (x y : Hoop) : Prop where
  addr : y.wlm.addr = BitVec.ofNat 12 a
  kept : x.mramFree = true → y.wlm.lastAddr = BitVec.ofNat 12 a
  valid : (y.rt a).valid = true
  dist : (y.rt a).dist = 0
  id : (y.rt a).id = x.wlm.id

theorem Holds.of_deed {a : Nat} {x y z : Hoop} (h : Holds a x y) (e : z.wlm.deed = y.wlm.deed) : Holds a x z := by
  obtain ⟨h1, h2, h3, h4, h5⟩ := h
  have ht : z.rt a = y.rt a := rt_of_table (Wlm.table_of_deed e) a
  exact ⟨(Wlm.addr_of_deed e).trans h1, fun hf => (Wlm.lastAddr_of_deed e).trans (h2 hf), ht ▸ h3, ht ▸ h4, ht ▸ h5⟩

theorem takeAddr_holds (a : Nat) (x : Hoop) : Holds a x (takeAddr a x) := by
  have hrt : (takeAddr a x).rt a = { ownEntry (bare a x) (bare a x) with changed := toTell ((deeded a x).rt a) (ownEntry (bare a x) (bare a x)) } := by
    rw [takeAddr_eq, rt_of_table (congrArg Wlm.table (raiseEv_wlm ..)), putRt_rt]
  refine ⟨?_, fun hf => ?_, ?_, ?_, ?_⟩
  · rw [takeAddr_eq, raiseEv_wlm, Hoop.addr_of_atlas (putRt_atlas ..)]
    exact mramWrite_addr ..
  · rw [takeAddr_eq, raiseEv_wlm]
    exact (congrArg Prod.snd (putRt_memo ..)).trans (deeded_lastAddr hf)
  · rw [hrt]; rfl
  · rw [hrt]; rfl
  · rw [hrt]; exact bare_id a x

theorem originate_bcast_deed (ty : Nat) (p : Bytes) (x : Hoop) : (originate bcast ty p x).wlm.deed = x.wlm.deed := by
  rw [originate_bcast]
  exact (foldl_keeps (fun z : Hoop => z.wlm.deed) _ (fun _ _ => deed_of_core (sendFrame_core ..)) _ _).trans rfl

/-! ## The address that a leader grants -/

theorem grantFor_pref {x : Hoop} {id : BitVec 64} {pref : Nat} (h1 : 1 ≤ pref) (h2 : pref ≤ 4094) (hf : addrFree x id pref = true) :
    grantFor x id pref = some pref := if_pos ⟨h1, h2, hf⟩

/-- The address granted is free, and is the preferred one or the lowest that is free. -/
theorem grantFor_some {x : Hoop} {id : BitVec 64} {pref a : Nat} (h : grantFor x id pref = some a) :
    1 ≤ a ∧ a ≤ 4094 ∧ addrFree x id a = true ∧ (a = pref ∨ ∀ c, 1 ≤ c → c < a → addrFree x id c = false) := by
  unfold grantFor at h
  split at h
  next hp =>
    obtain ⟨h1, h2, hf⟩ := hp
    obtain rfl := Option.some.inj h
    exact ⟨h1, h2, hf, .inl rfl⟩
  next =>
    rw [List.find?_map] at h
    obtain ⟨j, hj, rfl⟩ := Option.map_eq_some_iff.1 h
    obtain ⟨hfree, hm, hlow⟩ := List.find?_range_eq_some.1 hj
    have hlt := List.mem_range.1 hm
    refine ⟨by omega, by omega, hfree, .inr fun c hc hca => ?_⟩
    have := hlow (c - 1) (by omega)
    simpa [Nat.sub_add_cancel hc] using this

theorem grantFor_of_table {x y : Hoop} (h : x.wlm.table = y.wlm.table) : grantFor x = grantFor y := by
  funext id pref
  have hf : ∀ a, addrFree x id a = addrFree y id a := fun a => by unfold addrFree; rw [rt_of_table h]
  unfold grantFor
  rw [show addrFree x id = addrFree y id from funext hf]

end Sys2Proof.Machine
end

section
/-!
SUPPORT. The rows on Walimin addresses (O57).
-/

namespace Sys2Proof.Machine
open Sys2Proof

/-! ## The hoop that decides -/

theorem holder_has {s : State} {h : HoopId} (e : s.holder = some h) : h ∈ s.hoops ∧ (s.hoop h).pair.role = .active := by
  have hf : s.hoops.find? (fun h => (s.hoop h).pair.role == .active) = some h := e
  exact ⟨List.mem_of_find?_eq_some hf, beq_iff_eq.1 (List.find?_some (p := fun h => (s.hoop h).pair.role == .active) hf)⟩

theorem decider_holder {s : State} {h : HoopId} (e : s.holder = some h) (k : HoopId) : decider s k = s.hoop h := by
  unfold decider; rw [e]

theorem holder_serving {s : State} {h : HoopId} (e : s.holder = some h) : h ∈ servingHoops s :=
  mem_servingHoops.2 ⟨(holder_has e).1, .inl (holder_has e).2⟩

/-- The ACTIVE hoop is the one whose frame was counted before. -/
theorem counted_holder {s : State} {h : HoopId} (k : Nat) (e : s.holder = some h) : (counted s h k).holder = some h := by
  have hr : ∀ j, ((counted s h k).hoop j).pair.role = (s.hoop j).pair.role :=
    fun j => State.upd_view (fun x : Hoop => x.pair.role) s h j _ (fun x => congrArg Pair.role (gotFrame_pair k x))
  have hp : (counted s h k).hoops = s.hoops :=
    State.hoops_of_part (State.upd_view Hoop.part s h .hoopA _ (fun x => (congrArg (fun q => q.1) (gotFrame_gate k x))))
  unfold State.holder at e ⊢
  rw [hp]
  simpa only [hr] using e

theorem counted_still {s : State} (h : HoopId) (k : Nat) (hs : s.still) : (counted s h k).still := State.still_upd (gotFrame_gate ..) hs

/-! ## Requests -/

/-- The address taken, and its grant broadcast. -/
def grantSelf (a : Nat) (x : Hoop) : Hoop := sendGrant x.wlm.id a x.wlm.bootgen.toNat (takeAddr a x)

theorem grantSelf_site (a : Nat) (x : Hoop) : (grantSelf a x).site = x.site := (originate_site ..).trans (takeAddr_site ..)

theorem grantSelf_holds (a : Nat) (x : Hoop) : Holds a x (grantSelf a x) := (takeAddr_holds a x).of_deed (originate_bcast_deed ..)

/-- A leader without an address grants one to itself. -/
theorem addrReqSend_leader {s : State} {h : HoopId} {x : Hoop} {a : Nat} (e : s.here h x) (hf : x.boot.fwRun = true) (ha : x.wlm.addr = 0)
    (hl : x.wlm.isLeader = true) (hh : s.holder = some h) (hg : grantFor x x.wlm.id (preferred x) = some a) :
    addrReqSend h s = (servingHoops s).foldl (fun s q => s.upd q (grantSelf a)) s := by
  obtain ⟨hs, rfl⟩ := e
  unfold addrReqSend
  dsimp only
  rw [hs, hf, ha, hl, if_neg (by decide), if_pos rfl]
  unfold selfGrant
  dsimp only
  rw [decider_holder hh, if_neg (not_not.2 ha), hg]
  rfl

/-- The request of a hoop that is not the leader's. -/
def asked (k : Nat) (x : Hoop) : Hoop :=
  sendFrame k false (frameBytes 0 0 15 2 x.wlmOrigin (nextSeq x.wlm.seq) (leBytes 8 x.wlm.id.toNat ++ leBytes 2 (preferred x) ++ leBytes 2 x.wlm.bootgen.toNat)) (takeSeq x)

theorem reqSend_eq {k : Nat} {x : Hoop} (h : leaderLink x = some k) : reqSend x = asked k x := by
  unfold reqSend
  rw [h]
  rfl

theorem asked_sends {k : Nat} {x : Hoop} (h : roomFor x k 28 = true) : sends (asked k x) k
    (frameBytes 0 0 15 2 x.wlmOrigin (nextSeq x.wlm.seq) (leBytes 8 x.wlm.id.toNat ++ leBytes 2 (preferred x) ++ leBytes 2 x.wlm.bootgen.toNat)) := by
  refine sendFrame_sends ?_
  rw [frameBytes_length, List.length_append, List.length_append, leBytes_length, leBytes_length, leBytes_length]
  exact h

theorem addrReqSend_other {s : State} {h : HoopId} {x : Hoop} (e : s.here h x) (hf : x.boot.fwRun = true) (ha : x.wlm.addr = 0)
    (hl : x.wlm.isLeader = false) : addrReqSend h s = s.upd h reqSend := by
  obtain ⟨hs, rfl⟩ := e
  unfold addrReqSend
  dsimp only
  rw [hs, hf, ha, hl, if_neg (by decide), if_neg (by decide)]

/-- A request heard by a hoop of the leader. -/
theorem addrReq_leader {s : State} {h : HoopId} {x : Hoop} {k : Nat} {b : Bytes} (e : s.here h x) (hh : heard x k b 2 = true) (hl : x.wlm.isLeader = true) :
    addrReq h k b s = grant h b (counted s h k) := by
  obtain ⟨hs, rfl⟩ := e
  obtain ⟨hk, hform, hty⟩ := heard_iff.1 hh
  unfold addrReq
  dsimp only
  rw [hs, hk, hform, hl]
  dsimp only
  rw [if_neg (by decide), if_neg (not_not.2 hty), if_pos rfl]
  rfl

/-- The leader answers with the address that its ACTIVE hoop picks. -/
theorem grant_answers {s : State} {h : HoopId} {b : Bytes} {a : Nat} (hh : s.holder = some h) (ha : (s.hoop h).wlm.addr ≠ 0)
    (hg : grantFor (s.hoop h) (BitVec.ofNat 64 (field (frPayload b) 0 8)) (field (frPayload b) 8 2) = some a) :
    grant h b s = (servingHoops s).foldl (fun s q => s.upd q (sendGrant (BitVec.ofNat 64 (field (frPayload b) 0 8)) a (field (frPayload b) 10 2))) s := by
  have hself : selfGrant h s = s := by
    unfold selfGrant
    dsimp only
    rw [decider_holder hh, if_pos ha]
  unfold grant
  dsimp only
  rw [hself, decider_holder hh, hg]

/-- The request passed on with its TTL one less. -/
def passedOn (l : Nat) (b : Bytes) (x : Hoop) : Hoop := sendReq l (frSeq b) (frTtl b - 1) (BitVec.ofNat 16 (frOrigin b)) (frPayload b) x

/-- What a hoop that is not the leader's does with a request. -/
def relay (b : Bytes) (y : Hoop) : Hoop :=
  if frTtl b ≤ 1 then tellDiscard (pmcRaw 218 1 { y with wlm := { y.wlm with ttlDiscard := satInc y.wlm.ttlDiscard } })
  else match leaderLink y with
    | some l => passedOn l b y
    | none => tellDiscard (pmcRaw 218 1 { y with wlm := { y.wlm with noRoute := satInc y.wlm.noRoute } })

theorem addrReq_other {s : State} {h : HoopId} {x : Hoop} {k : Nat} {b : Bytes} (e : s.here h x) (hh : heard x k b 2 = true) (hl : x.wlm.isLeader = false) :
    addrReq h k b s = (counted s h k).upd h (relay b) := by
  obtain ⟨hs, rfl⟩ := e
  obtain ⟨hk, hform, hty⟩ := heard_iff.1 hh
  unfold addrReq
  dsimp only
  rw [hs, hk, hform, hl]
  dsimp only
  rw [if_neg (by decide), if_neg (not_not.2 hty), if_neg (by decide)]
  rfl

theorem relay_eq {b : Bytes} {l : Nat} {y : Hoop} (ht : 1 < frTtl b) (hl : leaderLink y = some l) : relay b y = passedOn l b y := by
  unfold relay
  rw [if_neg (by omega), hl]

theorem leaderLink_gotFrame (k : Nat) (x : Hoop) : leaderLink (gotFrame k x) = leaderLink x := by
  have hl := gotFrame_abides k x
  have h1 : (gotFrame k x).wlm.leader = x.wlm.leader := (congrArg Wlm.leader (gotFrame_wlm k x)).trans rfl
  have h2 : (gotFrame k x).wlm.leaderDist = x.wlm.leaderDist := (congrArg Wlm.leaderDist (gotFrame_wlm k x)).trans rfl
  have hi : ∀ j, ((gotFrame k x).link j).leaderId = (x.link j).leaderId := fun j => (congrArg Link.leaderId (hl.links j) :)
  have hd : ∀ j, ((gotFrame k x).link j).leaderDist = (x.link j).leaderDist := fun j => (congrArg Link.leaderDist (hl.links j) :)
  unfold leaderLink
  rw [hl.upLinks, h1, h2]
  simp only [hi, hd]

/-- A frame whose form is sound is its header, its payload and its check. -/
theorem frPayload_length {b : Bytes} (h : badForm b = none) : 16 + (frPayload b).length = b.length := by
  have h16 : 16 ≤ b.length := by
    unfold badForm at h
    split at h
    · exact absurd h (by simp)
    next hb => omega
  rw [frPayload, List.length_take, List.length_drop]
  omega

theorem passedOn_sends {l : Nat} {b : Bytes} {x : Hoop} (hb : badForm b = none) (hr : roomFor x l b.length = true) :
    sends (passedOn l b x) l (frameBytes 0 0 (frTtl b - 1) 2 (BitVec.ofNat 16 (frOrigin b)) (frSeq b) (frPayload b)) := by
  refine sendFrame_sends ?_
  rw [frameBytes_length, frPayload_length hb]
  exact hr

/-! ## O57 -/

theorem nextFrame_of_station {x y : Hoop} (h : x.station = y.station) (hq : x.wlm.seq = y.wlm.seq) (dst ty : Nat) (p : Bytes) :
    nextFrame x dst ty p = nextFrame y dst ty p := by
  unfold nextFrame
  rw [Hoop.addr_of_station h, wlmOrigin_of_station h, hq]

theorem gotFrame_seq (k : Nat) (x : Hoop) : (gotFrame k x).wlm.seq = x.wlm.seq := (congrArg Wlm.seq (gotFrame_wlm k x)).trans rfl

theorem gotFrame_roomFor (j k n : Nat) (x : Hoop) : roomFor (gotFrame j x) k n = roomFor x k n := by unfold roomFor; rw [gotFrame_queued]

theorem sendGrant_gate (id : BitVec 64) (a gen : Nat) (x : Hoop) : (sendGrant id a gen x).gate = x.gate :=
  Hoop.gate_of_station (originate_bcast_abides ..).station

/-- The leader's grant stands in the queue of every link that is up and has room. -/
theorem addrReq_granted {s : State} {h : HoopId} {x : Hoop} {k a l : Nat} {b p : Bytes} (e : s.here h x) (q : s.poised = true) (hh : heard x k b 2 = true)
    (hl : x.wlm.isLeader = true) (ha : x.wlm.addr ≠ 0) (hd : s.holder = some h) (hp : p = frPayload b)
    (hg : grantFor x (BitVec.ofNat 64 (field p 0 8)) (field p 8 2) = some a) (hu : l ∈ x.upLinks) (hr : roomFor x l 28 = true) :
    CompletesWith (.addrReq h k b) s h (fun y => sends y l (nextFrame x bcast 3
      (leBytes 8 (BitVec.ofNat 64 (field p 0 8)).toNat ++ leBytes 2 a ++ leBytes 2 (field p 10 2)))) := by
  subst hp
  have hc := counted_hoop e k
  have hh' := counted_holder k hd
  have hg' : grantFor ((counted s h k).hoop h) (BitVec.ofNat 64 (field (frPayload b) 0 8)) (field (frPayload b) 8 2) = some a := by
    rw [hc, grantFor_of_table (gotFrame_table k x)]
    exact hg
  have ha' : ((counted s h k).hoop h).wlm.addr ≠ 0 := by rw [hc, gotFrame_addr]; exact ha
  have hx : exec (.addrReq h k b) s = .next (settle ((servingHoops (counted s h k)).foldl
      (fun s q => s.upd q (sendGrant (BitVec.ofNat 64 (field (frPayload b) 0 8)) a (field (frPayload b) 10 2))) (counted s h k))) :=
    congrArg (fun t => Host.Outcome.next (settle t)) ((addrReq_leader e hh hl).trans (grant_answers hh' ha' hg'))
  refine gives_next_wlm hx ?_ fun y _ hy => ?_
  · refine State.still_of_gate (fun j => foldl_upd_view Hoop.gate (fun x => sendGrant_gate ..) _ _ j) (foldl_upd_duo ..) ?_
    exact counted_still h k (State.still_of_poised q)
  · rw [foldl_upd_once (sendGrant_site _ _ _) (servingHoops_nodup _) (holder_serving hh') ((counted_has ..).trans e.1), hc] at hy
    have hs := originate_bcast_sends (type := 3) (p := leBytes 8 (BitVec.ofNat 64 (field (frPayload b) 0 8)).toNat ++ leBytes 2 a ++ leBytes 2 (field (frPayload b) 10 2))
      (x := gotFrame k x) (l := l) (by rw [(gotFrame_abides k x).upLinks]; exact hu)
      (by rw [List.length_append, List.length_append, leBytes_length, leBytes_length, leBytes_length, gotFrame_roomFor]; exact hr)
    rw [nextFrame_of_station (gotFrame_abides k x).station (gotFrame_seq k x)] at hs
    unfold sends at hs ⊢
    rw [hy]
    exact hs

theorem addrGrant_named {b : Bytes} {a : Nat} {x : Hoop} (hid : field (frPayload b) 0 8 = x.wlm.id.toNat) (ha : a = field (frPayload b) 8 2) (h1 : 1 ≤ a) (h2 : a ≤ 4094) :
    addrGrant b x = takeAddr a x := by
  subst ha
  exact if_pos ⟨hid, h1, h2⟩

/-- The hoop as the delivery finds it differs from what it was only in what counts frames. -/
theorem received_id (k : Nat) (m : SMap Win) (x : Hoop) : (received k m x).wlm.id = x.wlm.id := by
  have h : (gotFrame k x).wlm.id = x.wlm.id := Wlm.id_of_hub (gotFrame_hub k x)
  exact h

theorem received_mramFree (k : Nat) (m : SMap Win) (x : Hoop) : (received k m x).mramFree = x.mramFree := by
  have h : (gotFrame k x).mramFree = x.mramFree := (congrArg Hoop.mramFree (gotFrame_abides k x).station :)
  exact h

/-- Settles O57: who grants, who asks, who passes on, and what the module named then holds. -/
theorem addressRows : Obligations.AddressRows := by
  unfold Obligations.AddressRows
  refine ⟨?_, ?_, ?_, ?_, ?_, ?_, ?_⟩
  · intro s h x a e hf ha hl hh hg
    have hx : exec (.addrReqSend h) s = .next (settle ((servingHoops s).foldl (fun s q => s.upd q (grantSelf a)) s)) :=
      congrArg (fun t => Host.Outcome.next (settle t)) (addrReqSend_leader e hf ha hl hh hg)
    refine gives_next hx fun y hy => ?_
    rw [foldl_upd_once (grantSelf_site a) (servingHoops_nodup s) (holder_serving hh) e.1, e.2] at hy
    obtain ⟨h1, h2, h3, h4, h5⟩ := (grantSelf_holds a x).of_deed (deed_of_calm hy)
    exact ⟨h1, h2, h3, h4, h5⟩
  · intro s h x k e q hf ha hl hk hr
    have hx : exec (.addrReqSend h) s = .next (s.act h reqSend) := congrArg (fun t => Host.Outcome.next (settle t)) (addrReqSend_other e hf ha hl)
    have hs := asked_sends hr
    refine gives_wlm reqSend e q hx ?_ fun y _ hy => ?_
    · rw [reqSend_eq hk]
      exact Hoop.gate_of_station ((Sent.takeSeq k x).trans (Sent.frame ..)).station
    · rw [reqSend_eq hk] at hy
      unfold sends at hs ⊢
      rwa [hy]
  · exact fun s h x k b p a l e q hh hl ha hd hp hg hu hr => addrReq_granted e q hh hl ha hd hp hg hu hr
  · intro s h x k b l e q hh hl ht hk hr
    have hb := (heard_iff.1 hh).2.1
    have hx : exec (.addrReq h k b) s = .next (settle ((counted s h k).upd h (relay b))) :=
      congrArg (fun t => Host.Outcome.next (settle t)) (addrReq_other e hh hl)
    have hrel : relay b (gotFrame k x) = passedOn l b (gotFrame k x) := relay_eq ht (by rw [leaderLink_gotFrame]; exact hk)
    have hs := passedOn_sends (l := l) hb (show roomFor (gotFrame k x) l b.length = true by rw [gotFrame_roomFor]; exact hr)
    refine gives_next_wlm hx (State.still_upd ?_ (counted_still h k (State.still_of_poised q))) fun y _ hy => ?_
    · rw [counted_hoop e, hrel]
      exact Hoop.gate_of_station (Sent.frame ..).station
    · rw [State.upd_self _ h _ ((counted_has ..).trans e.1), counted_hoop e, hrel] at hy
      unfold sends at hs ⊢
      rwa [hy]
  · intro s h x k b m a e ha hid haf h1 h2
    obtain ⟨-, -, -, hrole, hw⟩ := arrives_iff.1 ha
    have hx : exec (.addrGrant h k b) s = .next (settle (passOn h k b (deliver b (addrGrant b) (counted s h k)))) :=
      congrArg (fun t => Host.Outcome.next (settle t)) (rxFrame_bcast e ha (addrGrant b))
    have hd := deliver_hoop (k := k) (addrGrant_site b) e hrole hw
    rw [addrGrant_named (by rw [received_id]; exact hid) haf h1 h2] at hd
    refine gives_next hx fun y hy => ?_
    have hdeed : y.wlm.deed = (takeAddr a (received k m x)).wlm.deed :=
      (deed_of_calm hy).trans ((passOn_view (fun x : Hoop => x.wlm.deed) (fun o x => forward_deed o b x) h k _ h).trans (congrArg (fun x : Hoop => x.wlm.deed) hd))
    obtain ⟨g1, g2, g3, g4, g5⟩ := (takeAddr_holds a (received k m x)).of_deed hdeed
    exact ⟨g1, fun hf => g2 (by rw [received_mramFree]; exact hf), g3, g4, by rw [g5, received_id]⟩
  · exact fun x id pref h1 h2 hf => grantFor_pref h1 h2 hf
  · exact fun x id pref a h => grantFor_some h

end Sys2Proof.Machine
end

section
/-!
SUPPORT. Walimin notices, time checks and telemetry (R415 to R419) as they go out and come in.
-/

namespace Sys2Proof.Machine
open Sys2Proof

/-! ## What sending leaves of a hoop -/

/-- The hoop without what telling and the Walimin block hold. -/
def Hoop.plant (x : Hoop) : Hoop := { x.untold with wlm := {} }

/-- The Walimin block without what sending writes. -/
def Wlm.plain (w : Wlm) : Wlm := { w.core with seq := 0, localSeq := 0 }

theorem plain_of_core {x y : Hoop} (h : x.core = y.core) : x.wlm.plain = y.wlm.plain :=
  congrArg (fun w : Wlm => { w with seq := 0, localSeq := 0 }) (congrArg Hoop.wlm h : x.wlm.core = y.wlm.core)

theorem plant_of_station {x y : Hoop} (h : x.station = y.station) : x.plant = y.plant :=
  (congrArg (fun z : Hoop => { z with wlm := ({} : Wlm) }) h :)

theorem plant_of_untold {x y : Hoop} (h : x.untold = y.untold) : x.plant = y.plant := congrArg (fun z : Hoop => { z with wlm := ({} : Wlm) }) h

theorem sendFrame_plain (k : Nat) (tel : Bool) (b : Bytes) (x : Hoop) : (sendFrame k tel b x).wlm.plain = x.wlm.plain := plain_of_core (sendFrame_core ..)

theorem sendFrame_plant (k : Nat) (tel : Bool) (b : Bytes) (x : Hoop) : (sendFrame k tel b x).plant = x.plant := plant_of_station (Sent.frame ..).station

theorem sendToward_plain (tel : Bool) (b : Bytes) (x : Hoop) : (sendToward tel b x).wlm.plain = x.wlm.plain := by
  unfold sendToward
  split
  · exact sendFrame_plain ..
  · split
    · rfl
    · exact (congrArg Wlm.plain (pmcRaw_wlm ..)).trans rfl

theorem plant_wlm (x : Hoop) (w : Wlm) : ({ x with wlm := w } : Hoop).plant = x.plant := rfl

theorem sendToward_plant (tel : Bool) (b : Bytes) (x : Hoop) : (sendToward tel b x).plant = x.plant := by
  unfold sendToward
  split
  · exact sendFrame_plant ..
  · split
    · exact plant_wlm ..
    · exact (plant_of_untold (pmcRaw_untold ..)).trans (plant_wlm ..)

/-- A frame originated writes only its SEQ and the queues. -/
theorem originate_plain (dst ty : Nat) (p : Bytes) (x : Hoop) : (originate dst ty p x).wlm.plain = x.wlm.plain := by
  by_cases h : dst = bcast
  · subst h
    rw [originate_bcast]
    exact (foldl_keeps (fun z : Hoop => z.wlm.plain) _ (fun _ _ => sendFrame_plain ..) _ _).trans rfl
  · rw [originate_to h]
    exact (sendToward_plain ..).trans rfl

theorem originate_plant (dst ty : Nat) (p : Bytes) (x : Hoop) : (originate dst ty p x).plant = x.plant := by
  by_cases h : dst = bcast
  · subst h
    rw [originate_bcast]
    exact (foldl_keeps Hoop.plant _ (fun _ _ => sendFrame_plant ..) _ _).trans (plant_wlm ..)
  · rw [originate_to h]
    exact (sendToward_plant ..).trans (plant_wlm ..)

/-! ## Notices that go out again -/

/-- A notice sent is counted. -/
def countNotice (x : Hoop) : Hoop := { x with wlm := { x.wlm with noticeTx := satInc x.wlm.noticeTx } }

theorem sendNotices_eq (c : Chain) (i cause : Nat) (x : Hoop) :
    sendNotices c i cause x = (noticeTo c x).foldl (fun y a => originate a 9 (noticePayload c i cause) (countNotice y)) x := rfl

theorem plain_notices {v w : Wlm} (h : v.plain = w.plain) : v.notices = w.notices := (congrArg Wlm.notices h :)

theorem plain_noticeTx {v w : Wlm} (h : v.plain = w.plain) : v.noticeTx = w.noticeTx := (congrArg Wlm.noticeTx h :)

theorem plain_telDeferred {v w : Wlm} (h : v.plain = w.plain) : v.telDeferred = w.telDeferred := (congrArg Wlm.telDeferred h :)

theorem countNotice_notices (x : Hoop) : (countNotice x).wlm.notices = x.wlm.notices := rfl

theorem countNotice_plant (x : Hoop) : (countNotice x).plant = x.plant := rfl

theorem sendNotices_notices (c : Chain) (i cause : Nat) (x : Hoop) : (sendNotices c i cause x).wlm.notices = x.wlm.notices := by
  rw [sendNotices_eq]
  exact foldl_keeps (fun z : Hoop => z.wlm.notices) _ (fun y _ => (plain_notices (originate_plain ..)).trans (countNotice_notices y)) _ x

theorem sendNotices_plant (c : Chain) (i cause : Nat) (x : Hoop) : (sendNotices c i cause x).plant = x.plant := by
  rw [sendNotices_eq]
  exact foldl_keeps Hoop.plant _ (fun y _ => (originate_plant ..).trans (countNotice_plant y)) _ x

/-- The notices that are still to go out. -/
def stillDue (now : Nat) (n : Notice) : Option Notice :=
  if n.sentAt + 1000000 ≤ now then (if n.left ≤ 1 then none else some { n with left := n.left - 1, sentAt := now }) else some n

/-- The hoop with the notices that are still to go out. -/
def noticesKept (x : Hoop) : Hoop := { x with wlm := { x.wlm with notices := x.wlm.notices.filterMap (stillDue x.now) } }

theorem noticeRepeat_eq {x : Hoop} (h : x.tmb.st ≠ .halted) : noticeRepeat x =
    (x.wlm.notices.filter (fun n => decide (n.sentAt + 1000000 ≤ x.now))).foldl (fun y n => sendNotices n.key n.inPort n.cause y) (noticesKept x) := if_neg h

theorem noticeRepeat_notices {x : Hoop} (h : x.tmb.st ≠ .halted) : (noticeRepeat x).wlm.notices = x.wlm.notices.filterMap (stillDue x.now) := by
  rw [noticeRepeat_eq h]
  exact (foldl_keeps (fun z : Hoop => z.wlm.notices) _ (fun _ _ => sendNotices_notices ..) _ _).trans rfl

theorem noticeRepeat_plant (x : Hoop) : (noticeRepeat x).plant = x.plant := by
  by_cases h : x.tmb.st = .halted
  · rw [noticeRepeat, if_pos h]
  · rw [noticeRepeat_eq h]
    exact (foldl_keeps Hoop.plant _ (fun _ _ => sendNotices_plant ..) _ _).trans (plant_wlm ..)

theorem part_of_plant {x y : Hoop} (h : x.plant = y.plant) : x.part = y.part := (congrArg Hoop.part h :)

theorem src_of_plant {x y : Hoop} (h : x.plant = y.plant) : x.fc.src = y.fc.src := (congrArg (fun z : Hoop => z.fc.src) h :)

theorem fcPar_of_plant {x y : Hoop} (h : x.plant = y.plant) : x.dk.fcPar = y.dk.fcPar := (congrArg (fun z : Hoop => z.dk.fcPar) h :)

theorem notices_of_core {x y : Hoop} (h : x.core = y.core) : x.wlm.notices = y.wlm.notices := (congrArg (fun z : Hoop => z.wlm.notices) h :)

theorem stillDue_eq (now : Nat) (n : Notice) : stillDue now n =
    if now < n.sentAt + 1000000 then some n else if n.left ≤ 1 then none else some { n with left := n.left - 1, sentAt := now } := by
  unfold stillDue
  by_cases h : n.sentAt + 1000000 ≤ now
  · have hn : ¬ now < n.sentAt + 1000000 := by omega
    rw [if_pos h, if_neg hn]
  · have hn : now < n.sentAt + 1000000 := by omega
    rw [if_neg h, if_pos hn]

theorem noticePayload_length (c : Chain) (i cause : Nat) : (noticePayload c i cause).length = 16 := by
  simp only [noticePayload, List.length_append, leBytes_length, List.length_cons, List.length_nil]

/-- The one notice that is due, for the one module that is reached. -/
theorem noticeRepeat_one {x : Hoop} {n : Notice} {a : Nat} (h : x.tmb.st ≠ .halted) (hn : x.wlm.notices = [n]) (hd : n.sentAt + 1000000 ≤ x.now)
    (ha : noticeTo n.key x = [a]) : noticeRepeat x = originate a 9 (noticePayload n.key n.inPort n.cause) (countNotice (noticesKept x)) := by
  have hto : noticeTo n.key (noticesKept x) = [a] := ha
  have hdue : x.wlm.notices.filter (fun n => decide (n.sentAt + 1000000 ≤ x.now)) = [n] := by
    rw [hn]
    simp [hd]
  rw [noticeRepeat_eq h, hdue, List.foldl_cons, List.foldl_nil, sendNotices_eq, hto]
  rfl

/-! ## Time checks -/

theorem timeBytes_length (t : Nat) : (timeBytes t).length = 12 := by
  simp only [timeBytes, List.length_append, leBytes_length, List.length_cons, List.length_nil]

theorem tcPayload_length (r a b c : Nat) : (tcPayload r a b c).length = 40 := by
  simp only [tcPayload, List.length_append, leBytes_length, timeBytes_length]

theorem sendTime_of_tb {x y : Hoop} (h : x.tb = y.tb) : sendTime x = sendTime y := by
  unfold sendTime Hoop.now
  rw [h]

/-- A time check goes out on every link that is up and has room. -/
theorem timeCheckSend_sends {x : Hoop} {k : Nat} (hf : x.boot.fwRun = true) (hk : k ∈ x.upLinks) (hr : roomFor x k 56 = true) :
    Abides x (timeCheckSend x) ∧
      ∃ q, sends (timeCheckSend x) k (frameBytes 0 x.wlm.addr.toNat 0 0xA x.wlmOrigin q (tcPayload 0 (sendTime x) 0 0)) := by
  have hg : ∀ (y : Hoop) (j : Nat), Sent j y (sendLocal j 0xA (tcPayload 0 (sendTime y) 0 0) y) := fun y j => Sent.localFrame ..
  unfold timeCheckSend
  rw [if_pos hf]
  refine ⟨foldl_abides hg _ x, ?_⟩
  obtain ⟨z, ha, hq, hin⟩ := foldl_turn hg (upLinks_nodup x) hk x
  have ht : sendTime z = sendTime x := sendTime_of_tb (Hoop.tb_of_station ha.station)
  have hz : sends (sendLocal k 0xA (tcPayload 0 (sendTime z) 0 0) z) k
      (frameBytes 0 x.wlm.addr.toNat 0 0xA x.wlmOrigin (nextSeq z.wlm.localSeq) (tcPayload 0 (sendTime x) 0 0)) := by
    rw [ht, ← Hoop.addr_of_station ha.station, ← wlmOrigin_of_station ha.station]
    exact sendLocal_sends (by rw [tcPayload_length]; exact roomFor_of_queued hq hr)
  exact ⟨nextSeq z.wlm.localSeq, hin _ hz⟩

/-- The count in sixteenths of a nanosecond at which a frame came in. -/
def rxTime (fine : BitVec 4) (x : Hoop) : Nat := x.tb.ptpOf x.now * 16 + fine.toNat

theorem rxTime_of_tb {x y : Hoop} (h : x.tb = y.tb) (fine : BitVec 4) : rxTime fine x = rxTime fine y := by
  unfold rxTime Hoop.now
  rw [h]

/-- A request is answered with its own stamp, the stamp of its arrival and that of the answer. -/
theorem timeCheck_request {k : Nat} {b p : Bytes} (hp : p = frPayload b) (h : field p 0 1 = 0) (fine : BitVec 4) (x : Hoop) :
    timeCheck k b fine x = sendLocal k 0xA (tcPayload 1 (timeAt p 4) (rxTime fine x) (sendTime x)) x := by
  subst hp
  unfold timeCheck
  dsimp only
  rw [if_pos h]
  rfl

/-- The offset that an answer shows (R417). -/
def offsetOf (p : Bytes) (rx : Nat) : Int := (((timeAt p 16 : Int) - (timeAt p 4 : Int)) - ((rx : Int) - (timeAt p 28 : Int))) / 2

/-- The offset of a link noted. -/
def noteOffset (k : Nat) (o : Int) (x : Hoop) : Hoop := x.updLink k (fun l => { l with tofs := o })

theorem timeCheck_reply {k : Nat} {b p : Bytes} (hp : p = frPayload b) (h : field p 0 1 ≠ 0) (fine : BitVec 4) (x : Hoop) :
    timeCheck k b fine x =
      if x.wlm.tcLimit.toNat * 16 < (offsetOf p (rxTime fine x)).natAbs then
        raiseEv 523 [k, ofSigned 32 (offsetOf p (rxTime fine x))] .hoop (noteOffset k (offsetOf p (rxTime fine x)) x)
      else noteOffset k (offsetOf p (rxTime fine x)) x := by
  subst hp
  unfold timeCheck
  dsimp only
  rw [if_neg h]
  rfl

theorem timeCheck_reply_gate {k : Nat} {b p : Bytes} (hp : p = frPayload b) (h : field p 0 1 ≠ 0) (fine : BitVec 4) (x : Hoop) :
    (timeCheck k b fine x).gate = x.gate := by
  rw [timeCheck_reply hp h]
  split
  · exact (raiseEv_gate ..).trans (updLink_gate ..)
  · exact updLink_gate ..

theorem timeCheck_reply_view {k : Nat} {b p : Bytes} (hp : p = frPayload b) (h : field p 0 1 ≠ 0) (fine : BitVec 4) (x : Hoop) :
    ((timeCheck k b fine x).link k).tofs = offsetOf p (rxTime fine x) ∧ smGet 0 (timeCheck k b fine x).evt.cnt 523 =
      smGet 0 x.evt.cnt 523 + (if x.wlm.tcLimit.toNat * 16 < (offsetOf p (rxTime fine x)).natAbs then 1 else 0) := by
  have hl : ((noteOffset k (offsetOf p (rxTime fine x)) x).link k).tofs = offsetOf p (rxTime fine x) := congrArg Link.tofs (Hoop.updLink_link_self ..)
  rw [timeCheck_reply hp h]
  split
  · exact ⟨(congrArg Link.tofs (link_of_wlm (raiseEv_wlm ..) k)).trans hl, raiseEv_cnt ..⟩
  · exact ⟨hl, (BitVec.add_zero _).symm⟩

/-! ## Telemetry -/

theorem padTo_length (n : Nat) (b : Bytes) : (padTo n b).length = n := by
  rw [padTo, List.length_take, List.length_append, List.length_replicate]
  omega

/-- The message is not deferred. -/
def onTime (x : Hoop) : Hoop := { x with wlm := { x.wlm with telDeferred := false } }

theorem telemetrySend_eq {x peer : Hoop} {dark : Bool} {a : Nat} (hf : x.boot.fwRun = true) (ha : x.wlm.addr ≠ 0) (hi : x.wlm.telInterval ≠ 0)
    (hl : x.wlm.isLeader = false) (hr : x.pair.role = .active ∨ x.pair.role = .standby) (hto : x.addrOfId x.wlm.leader = some a)
    (hd : (x.mayDefer && historyFirst x) = false) : telemetrySend peer dark x = originate a 0xB (telPayload (onTime x) peer dark) (onTime x) := by
  have hrole : (x.pair.role == .active || x.pair.role == .standby) = true := by
    rcases hr with e | e
    · rw [e]; rfl
    · rw [e]; rfl
  unfold telemetrySend
  rw [hf, beq_false_of_ne ha, beq_false_of_ne hi, hl, hrole, if_neg (by decide), hto]
  dsimp only
  rw [hd]
  rfl

theorem nextFrame_onTime (x : Hoop) (a ty : Nat) (p : Bytes) : nextFrame (onTime x) a ty p = nextFrame x a ty p := rfl

theorem telPayload_onTime (x peer : Hoop) (dark : Bool) : telPayload (onTime x) peer dark = telPayload x peer dark := by
  have hra : (if (onTime x).isB then peer else onTime x).pair = (if x.isB then peer else x).pair := by
    show (if x.isB then peer else onTime x).pair = _
    split <;> rfl
  have hrb : (if (onTime x).isB then onTime x else peer).pair = (if x.isB then x else peer).pair := by
    show (if x.isB then onTime x else peer).pair = _
    split <;> rfl
  unfold telPayload
  dsimp only
  rw [hra, hrb]
  rfl

/-- Telemetry stands in the telemetry queue of the route to the leader. -/
theorem telemetrySend_queues {x peer : Hoop} {dark : Bool} {a k : Nat} (ha : a < bcast) (hr : x.routeTo a = some k) (hq : queued x k true + 64 ≤ 32768) :
    (⟨k, true, nextFrame x a 0xB (telPayload x peer dark)⟩ : TxFrame) ∈ (originate a 0xB (telPayload (onTime x) peer dark) (onTime x)).wlm.tx := by
  have hl : (nextFrame x a 0xB (telPayload x peer dark)).length = 64 := by rw [nextFrame, frameBytes_length, telPayload, padTo_length]
  rw [originate_routed ha (show (onTime x).routeTo a = some k from hr), nextFrame_onTime, telPayload_onTime]
  exact sendFrame_mem (by rw [hl]; exact hq)

theorem onTime_gate (x : Hoop) : (onTime x).gate = x.gate := rfl

theorem originate_routed_gate {dst k : Nat} (h : dst < bcast) {x : Hoop} (hr : x.routeTo dst = some k) (ty : Nat) (p : Bytes) :
    (originate dst ty p x).gate = x.gate := by
  rw [originate_routed h hr]
  exact Hoop.gate_of_station ((Sent.takeSeq k x).trans (Sent.frame ..)).station

theorem originate_telDeferred (dst ty : Nat) (p : Bytes) (x : Hoop) : (originate dst ty p x).wlm.telDeferred = x.wlm.telDeferred :=
  plain_telDeferred (originate_plain ..)

end Sys2Proof.Machine
end

section
/-!
SUPPORT. A DARK_NOTICE (R416): each live thread that holds the chain's key is darked by source 196, an S2, one after the other.
-/

namespace Sys2Proof.Machine
open Sys2Proof

/-! ## What a dark leaves of the other threads -/

theorem thr_of_core {x y : Hoop} (h : x.core = y.core) : x.thr = y.thr := (congrArg (fun z : Hoop => z.thr) h :)

theorem thread_of_thr {x y : Hoop} (h : x.thr = y.thr) (i : Nat) : x.thread i = y.thread i := congrArg (fun m => smGet ({} : Thread) m i) h

theorem dropParts_thr (i : Nat) (x : Hoop) : (dropParts i x).thr = x.thr := by
  unfold dropParts
  extract_lets alone hit y
  exact foldl_keeps (fun z : Hoop => z.thr) restoreElem (fun _ _ => rfl) alone x

theorem ledEnd_thr (i at_ : Nat) (counted : Bool) (x : Hoop) : (ledEnd i at_ counted x).thr = x.thr := by
  unfold ledEnd
  split
  · rfl
  · rfl

/-- The dark of one thread leaves every other thread. -/
theorem darkThread_thread_ne {i j cause seq src : Nat} {x : Hoop} (h : j ≠ i) : (darkThread i cause seq src x).thread j = x.thread j := by
  unfold darkThread
  split
  · extract_lets y z
    refine (Hoop.thread_of_standing (outcomes_standing _) j).trans ?_
    have hy : y.thr = x.thr := (dropParts_thr ..).trans (ledEnd_thr ..)
    have hz : z.thread j = x.thread j := (setSt_thread_ne _ _ _ _ _ h).trans ((Hoop.setThread_thread_ne _ _ h).trans (thread_of_thr hy j))
    split
    · exact hz
    · exact (Hoop.thread_of_standing (notify_standing ..) j).trans hz
  · rfl

/-- A thread that is not live is not darked again. -/
theorem darkThread_idle {i cause seq src : Nat} {x : Hoop} (h : (x.thread i).st.live = false) : darkThread i cause seq src x = x :=
  if_neg (by rw [h]; decide)

theorem prkPay_thr (i at_ : Nat) (ok : Bool) (x : Hoop) : (prkPay i at_ ok x).thr = x.thr := by
  unfold prkPay
  split
  · rfl
  · split
    · rfl
    · split <;> rfl

theorem darkEyelet_thr (i cause src : Nat) (x : Hoop) : (darkEyelet i cause src x).thr = (darkThread i cause 0 src x).thr := by
  unfold darkEyelet
  extract_lets y
  split
  · exact Eq.trans rfl (prkPay_thr i y.now false y)
  · rfl

/-! ## Source 196 -/

theorem sevOf_notice : sevOf 196 = some 2 := by decide

theorem hasSrc_notice (x : Hoop) : x.hasSrc 196 = true := by
  rw [Hoop.hasSrc, sevOf_notice]; rfl

/-- Source 196 as it asserts with a detail. -/
def struck (j : Nat) (x : Hoop) : Src :=
  { x.src 196 with live := true, sticky := true, wire := (x.src 196).wire || false, cnt := min ((x.src 196).cnt + 1) 65535, det := BitVec.ofNat 13 j
                   time := x.stamp, since := if (x.src 196).live then (x.src 196).since else x.now }

/-- The fault counted, told and recorded, before the reaction. -/
def filed (j : Nat) (x : Hoop) : Hoop :=
  faultRecord 196 2 false [] (raiseEv (448 + 2) [196, j % 8192, (x.setSrc 196 (struck j x)).stamp.toNat] .hoop
    (pmcRaw (226 + 2) 1 (capture 196 2 false (x.setSrc 196 (struck j x)))))

theorem filed_stamp (j : Nat) (x : Hoop) : (pmcRaw (226 + 2) 1 (capture 196 2 false (x.setSrc 196 (struck j x)))).stamp = (x.setSrc 196 (struck j x)).stamp := by
  have h : (pmcRaw (226 + 2) 1 (capture 196 2 false (x.setSrc 196 (struck j x)))).tb = (x.setSrc 196 (struck j x)).tb :=
    (Hoop.tb_of_calm (pmcRaw_calm ..)).trans (Hoop.tb_of_calm (capture_calm ..))
  unfold Hoop.stamp
  rw [h]

/-- The source asserts unless it is live with the same detail. -/
theorem fault_strikes {j : Nat} {x : Hoop} (h : ((x.src 196).live && (x.src 196).det == BitVec.ofNat 13 j) = false) :
    faultOn 196 j false [] x = react 196 (j % 8192) 2 (filed j x) := by
  have hn : ¬ (!x.hasSrc 196 || ((x.src 196).live && (x.src 196).det == BitVec.ofNat 13 j)) = true := by
    rw [h, hasSrc_notice]; decide
  unfold faultOn
  rw [sevOf_notice]
  dsimp only
  rw [if_neg hn, if_neg Bool.false_ne_true]
  unfold filed
  rw [← filed_stamp]
  rfl

theorem fault_repeats {j : Nat} {x : Hoop} (h : ((x.src 196).live && (x.src 196).det == BitVec.ofNat 13 j) = true) : faultOn 196 j false [] x = x := by
  unfold faultOn
  rw [sevOf_notice]
  dsimp only
  rw [if_pos (by rw [h, Bool.or_true])]

theorem faultRecord_src (s sev : Nat) (wire : Bool) (extra : List Nat) (x : Hoop) : ∃ a b, (faultRecord s sev wire extra x).src s = { x.src s with jsec := a, jnum := b } := by
  unfold faultRecord
  extract_lets v sec num
  split
  · exact ⟨(x.src s).jsec, (x.src s).jnum, rfl⟩
  · exact ⟨sec, num + 1, (Hoop.src_of_lines (jnlPut_lines ..) s).trans (Hoop.setSrc_src_self ..)⟩

theorem filed_src (j : Nat) (x : Hoop) : ∃ a b, (filed j x).src 196 = { struck j x with jsec := a, jnum := b } := by
  obtain ⟨a, b, h⟩ := faultRecord_src 196 2 false [] (raiseEv (448 + 2) [196, j % 8192, (x.setSrc 196 (struck j x)).stamp.toNat] .hoop
    (pmcRaw (226 + 2) 1 (capture 196 2 false (x.setSrc 196 (struck j x)))))
  refine ⟨a, b, h.trans ?_⟩
  rw [Hoop.src_of_lines (raiseEv_lines ..), Hoop.src_of_lines (pmcRaw_lines ..), capture_src, Hoop.setSrc_src_self]

theorem thr_fc (x : Hoop) (f : Fc) : ({ x with fc := f } : Hoop).thr = x.thr := rfl

theorem capture_thr (s sev : Nat) (wire : Bool) (x : Hoop) : (capture s sev wire x).thr = x.thr := by
  unfold capture
  extract_lets w f y
  split
  · exact (thr_fc ..).trans (thr_fc ..)
  · exact thr_fc ..

theorem faultRecord_thr (s sev : Nat) (wire : Bool) (extra : List Nat) (x : Hoop) : (faultRecord s sev wire extra x).thr = x.thr := by
  unfold faultRecord
  extract_lets v sec num
  split
  · rfl
  · exact (thr_of_core (jnlPut_core ..)).trans rfl

theorem filed_thr (j : Nat) (x : Hoop) : (filed j x).thr = x.thr := by
  unfold filed
  rw [faultRecord_thr, thr_of_core (raiseEv_core ..), thr_of_core (pmcRaw_core ..), capture_thr]
  rfl

theorem setSrc_part (x : Hoop) (k : Nat) (v : Src) : (x.setSrc k v).part = x.part := rfl

theorem filed_part (j : Nat) (x : Hoop) : (filed j x).part = x.part := by
  unfold filed
  rw [Hoop.part_of_calm (faultRecord_calm ..), raiseEv_part, Hoop.part_of_calm (pmcRaw_calm ..), Hoop.part_of_calm (capture_calm ..), setSrc_part]

/-- What an S2 does: FAULT_N, and the dark of the thread that it names. -/
theorem react_dark (j : Nat) (y : Hoop) : react 196 j 2 y = if j < (heldLow y).n then darkEyelet j 2 196 (heldLow y) else heldLow y := by
  have hr : resolve (heldLow y) 196 j = if j < (heldLow y).n then [j] else [] := if_pos rfl
  have h3 : ¬ 3 ≤ 2 := by decide
  unfold react
  dsimp only
  rw [if_pos (Nat.le_refl 2), if_pos rfl, if_neg h3]
  rw [show msixSend 32 { y with fc := { y.fc with hold := true, pulse := true, pulseEnd := y.now + 10000 } } = heldLow y from rfl, hr]
  split <;> rfl

theorem heldLow_thr (y : Hoop) : (heldLow y).thr = y.thr := (thr_of_core (msixSend_core ..)).trans (thr_fc ..)

theorem heldLow_part (y : Hoop) : (heldLow y).part = y.part := (Hoop.part_of_calm (msixSend_calm ..)).trans rfl

theorem hold_of_lines {x y : Hoop} (h : x.lines = y.lines) : x.fc.hold = y.fc.hold := (congrArg Fc.hold h :)

theorem heldLow_hold (y : Hoop) : (heldLow y).fc.hold = true := (hold_of_lines (msixSend_lines ..)).trans rfl

theorem react_dark_hold (j : Nat) (y : Hoop) : (react 196 j 2 y).fc.hold = true := by
  rw [react_dark]
  split
  · exact (hold_of_lines (darkEyelet_lines ..)).trans (heldLow_hold y)
  · exact heldLow_hold y

theorem react_dark_ne {i j : Nat} (h : i ≠ j) (y : Hoop) : (react 196 j 2 y).thread i = y.thread i := by
  rw [react_dark]
  split
  · exact (thread_of_thr (darkEyelet_thr ..) i).trans ((darkThread_thread_ne h).trans (thread_of_thr (heldLow_thr y) i))
  · exact thread_of_thr (heldLow_thr y) i

theorem react_dark_self {j : Nat} {y : Hoop} (hj : j < y.n) (hl : (y.thread j).st.live = true) : ((react 196 j 2 y).thread j).st = .darked := by
  have hn : j < (heldLow y).n := by unfold Hoop.n at hj ⊢; rw [heldLow_part]; exact hj
  have hl' : ((heldLow y).thread j).st.live = true := by rw [thread_of_thr (heldLow_thr y)]; exact hl
  rw [react_dark, if_pos hn, thread_of_thr (darkEyelet_thr ..)]
  exact darkThread_darked hl'

theorem react_dark_idle {j : Nat} {y : Hoop} (hl : (y.thread j).st.live = false) : (react 196 j 2 y).thread j = y.thread j := by
  have hl' : ((heldLow y).thread j).st.live = false := by rw [thread_of_thr (heldLow_thr y)]; exact hl
  rw [react_dark]
  split
  · rw [thread_of_thr (darkEyelet_thr ..), darkThread_idle hl', thread_of_thr (heldLow_thr y)]
  · exact thread_of_thr (heldLow_thr y) j

/-! ## The notice's threads, one after the other -/

/-- A thread is live, or was darked. -/
def ThreadSt.liveOrDark (t : ThreadSt) : Prop := t.live = true ∨ t = .darked

/-- A thread's dark stands, with the sticky bit of source 196 and FAULT_N. -/
structure Darked (i : Nat) (x : Hoop) : Prop where
  st : (x.thread i).st = .darked
  sticky : (x.src 196).sticky = true
  hold : x.fc.hold = true

/-- What the darks of a notice keep: the thread is live or was darked, and where source 196 is live it named a thread that was darked. -/
structure Striking (i : Nat) (x : Hoop) : Prop where
  st : (x.thread i).st.liveOrDark
  named : (x.src 196).live = true → (x.src 196).sticky = true ∧ x.fc.hold = true ∧ ((x.src 196).det.toNat = i → (x.thread i).st = .darked)

theorem ports_le (p : Part) : Config.ports p ≤ 512 := by cases p <;> decide

theorem faultOff_thr (s : Nat) (x : Hoop) : (faultOff s x).thr = x.thr := by
  unfold faultOff
  extract_lets v
  split
  · exact (thr_of_core (raiseEv_core ..)).trans ((thr_of_core (jnlPut_core ..)).trans rfl)
  · rfl

theorem faultOff_hold (s : Nat) (x : Hoop) : (faultOff s x).fc.hold = x.fc.hold := by
  unfold faultOff
  extract_lets v
  split
  · exact (hold_of_lines (raiseEv_lines ..)).trans ((hold_of_lines (jnlPut_lines ..)).trans rfl)
  · rfl

/-- A condition that ends leaves the source but for LIVE. -/
theorem faultOff_src_self (s : Nat) (x : Hoop) : (faultOff s x).src s = x.src s ∨ (faultOff s x).src s = { x.src s with live := false } := by
  unfold faultOff
  extract_lets v
  split
  · exact .inr ((Hoop.src_of_lines (raiseEv_lines ..) s).trans ((Hoop.src_of_lines (jnlPut_lines ..) s).trans (Hoop.setSrc_src_self ..)))
  · exact .inl rfl

theorem faultOff_striking {i : Nat} {x : Hoop} (h : Striking i x) : Striking i (faultOff 196 x) := by
  refine ⟨by rw [thread_of_thr (faultOff_thr ..)]; exact h.st, fun hl => ?_⟩
  rw [faultOff_hold, thread_of_thr (faultOff_thr ..)]
  rcases faultOff_src_self 196 x with e | e
  · rw [e] at hl ⊢
    exact h.named hl
  · rw [e] at hl
    exact absurd hl Bool.false_ne_true

theorem faultOff_darked {i : Nat} {x : Hoop} (h : Darked i x) : Darked i (faultOff 196 x) := by
  refine ⟨by rw [thread_of_thr (faultOff_thr ..)]; exact h.st, ?_, by rw [faultOff_hold]; exact h.hold⟩
  rcases faultOff_src_self 196 x with e | e
  · rw [e]; exact h.sticky
  · rw [e]; exact h.sticky

/-- The reaction to a detail darks the thread of that number and no other. -/
theorem react_dark_st {i j : Nat} {y : Hoop} (hi : i < y.n) (h : (y.thread i).st.liveOrDark) :
    ((react 196 j 2 y).thread i).st.liveOrDark ∧ (j = i → ((react 196 j 2 y).thread i).st = .darked) := by
  by_cases e : i = j
  · subst e
    have hd : ((react 196 i 2 y).thread i).st = .darked := by
      rcases h with hl | hd
      · exact react_dark_self hi hl
      · rw [react_dark_idle (by rw [hd]; rfl), hd]
    exact ⟨.inr hd, fun _ => hd⟩
  · rw [react_dark_ne e]
    exact ⟨h, fun hj => absurd hj.symm e⟩

/-- What a fault of source 196 leaves. -/
theorem fault_striking {i : Nat} {x : Hoop} (hi : i < x.n) (h : Striking i x) (j : Nat) : Striking i (faultOn 196 j false [] x) ∧ (j = i → Darked i (faultOn 196 j false [] x)) := by
  have h13 : (BitVec.ofNat 13 j).toNat = j % 8192 := BitVec.toNat_ofNat ..
  have hi' : i < 8192 := Nat.lt_of_lt_of_le hi (Nat.le_trans (ports_le _) (by decide))
  cases hrep : (x.src 196).live && (x.src 196).det == BitVec.ofNat 13 j with
  | true =>
    rw [fault_repeats hrep]
    obtain ⟨hl, hd⟩ := Bool.and_eq_true_iff.1 hrep
    obtain ⟨hs, hh, hn⟩ := h.named hl
    refine ⟨h, fun e => ⟨hn ?_, hs, hh⟩⟩
    rw [beq_iff_eq.1 hd, h13, e, Nat.mod_eq_of_lt hi']
  | false =>
    rw [fault_strikes hrep]
    have hfi : i < (filed j x).n := by unfold Hoop.n at hi ⊢; rw [filed_part]; exact hi
    have hst := react_dark_st (j := j % 8192) hfi (by rw [thread_of_thr (filed_thr j x)]; exact h.st)
    obtain ⟨a, b, hsrc⟩ := filed_src j x
    have hsrc' : (react 196 (j % 8192) 2 (filed j x)).src 196 = { struck j x with jsec := a, jnum := b } := (react_src ..).trans hsrc
    have hsticky : ((react 196 (j % 8192) 2 (filed j x)).src 196).sticky = true := by rw [hsrc']; rfl
    have hdet : ((react 196 (j % 8192) 2 (filed j x)).src 196).det = BitVec.ofNat 13 j := by rw [hsrc']; rfl
    refine ⟨⟨hst.1, fun _ => ⟨hsticky, react_dark_hold .., fun e => hst.2 ?_⟩⟩, fun e => ⟨hst.2 ?_, hsticky, react_dark_hold ..⟩⟩
    · rw [← h13, ← hdet, e]
    · rw [e, Nat.mod_eq_of_lt hi']

theorem fault_darked {i : Nat} {x : Hoop} (h : Darked i x) (j : Nat) : Darked i (faultOn 196 j false [] x) := by
  have hs : (faultOn 196 j false [] x).fc.hold = true ∧ ((faultOn 196 j false [] x).src 196).sticky = true ∧ ((faultOn 196 j false [] x).thread i).st = .darked := by
    cases hrep : (x.src 196).live && (x.src 196).det == BitVec.ofNat 13 j with
    | true => rw [fault_repeats hrep]; exact ⟨h.hold, h.sticky, h.st⟩
    | false =>
      rw [fault_strikes hrep]
      obtain ⟨a, b, hsrc⟩ := filed_src j x
      have hsrc' : (react 196 (j % 8192) 2 (filed j x)).src 196 = { struck j x with jsec := a, jnum := b } := (react_src ..).trans hsrc
      refine ⟨react_dark_hold .., by rw [hsrc']; rfl, ?_⟩
      by_cases e : i = j % 8192
      · rw [← e, react_dark_idle (by rw [thread_of_thr (filed_thr j x), h.st]; rfl), thread_of_thr (filed_thr j x), h.st]
      · rw [react_dark_ne e, thread_of_thr (filed_thr j x), h.st]
  exact ⟨hs.2.2, hs.2.1, hs.1⟩

theorem Striking.of_views {i : Nat} {x y : Hoop} (ht : y.thr = x.thr) (hf : y.lines = x.lines) (h : Striking i x) : Striking i y := by
  refine ⟨by rw [thread_of_thr ht]; exact h.st, fun hl => ?_⟩
  rw [Hoop.src_of_lines hf] at hl ⊢
  rw [hold_of_lines hf, thread_of_thr ht]
  exact h.named hl

theorem Darked.of_views {i : Nat} {x y : Hoop} (ht : y.thr = x.thr) (hf : y.lines = x.lines) (h : Darked i x) : Darked i y :=
  ⟨by rw [thread_of_thr ht]; exact h.st, by rw [Hoop.src_of_lines hf]; exact h.sticky, by rw [hold_of_lines hf]; exact h.hold⟩

/-- One thread of the notice told and struck. -/
def noticeOne (ini fcid ch : Nat) (y : Hoop) (j : Nat) : Hoop := pulse 196 j [] (raiseEv 522 [ini, fcid, ch, j] .hoop y)

theorem noticeOne_part (ini fcid ch : Nat) (y : Hoop) (j : Nat) : (noticeOne ini fcid ch y j).part = y.part :=
  (Hoop.part_of_calm (pulse_calm ..)).trans (raiseEv_part ..)

section
variable {i ini fcid ch : Nat}

theorem noticeOne_striking {y : Hoop} (hi : i < y.n) (h : Striking i y) (j : Nat) :
    Striking i (noticeOne ini fcid ch y j) ∧ (j = i → Darked i (noticeOne ini fcid ch y j)) := by
  have hn : i < (raiseEv 522 [ini, fcid, ch, j] .hoop y).n := by unfold Hoop.n at hi ⊢; rw [raiseEv_part]; exact hi
  obtain ⟨h1, h2⟩ := fault_striking hn (Striking.of_views (thr_of_core (raiseEv_core 522 [ini, fcid, ch, j] .hoop y)) (raiseEv_lines ..) h) j
  exact ⟨faultOff_striking h1, fun e => faultOff_darked (h2 e)⟩

theorem noticeOne_darked {y : Hoop} (h : Darked i y) (j : Nat) : Darked i (noticeOne ini fcid ch y j) :=
  faultOff_darked (fault_darked (Darked.of_views (thr_of_core (raiseEv_core 522 [ini, fcid, ch, j] .hoop y)) (raiseEv_lines ..) h) j)

theorem noticeOne_n {y : Hoop} (hi : i < y.n) (j : Nat) : i < (noticeOne ini fcid ch y j).n := by
  unfold Hoop.n at hi ⊢
  rw [noticeOne_part]
  exact hi

theorem foldl_noticeOne_darked (L : List Nat) : ∀ {y : Hoop}, Darked i y → Darked i (L.foldl (noticeOne ini fcid ch) y) := by
  induction L with
  | nil => exact fun h => h
  | cons j L ih => exact fun h => ih (noticeOne_darked h j)

/-- Each thread of the notice is darked. -/
theorem foldl_noticeOne {L : List Nat} (hm : i ∈ L) : ∀ {y : Hoop}, i < y.n → Striking i y → Darked i (L.foldl (noticeOne ini fcid ch) y) := by
  induction L with
  | nil => exact absurd hm (by simp)
  | cons j L ih =>
    intro y hi h
    obtain ⟨h1, h2⟩ := noticeOne_striking (ini := ini) (fcid := fcid) (ch := ch) hi h j
    by_cases e : j = i
    · exact foldl_noticeOne_darked L (h2 e)
    · exact ih ((List.mem_cons.1 hm).resolve_left fun h => e h.symm) (noticeOne_n hi j) h1

end

/-! ## The reaction lines stay as they were -/

/-- What keeps a module quiet: no reaction line and no parity error. -/
def Hoop.hush (x : Hoop) : Part × Bool × Bool := (x.part, x.lineOn, x.dk.fcPar)

theorem Hoop.hush_of {x y : Hoop} (hc : x.calm = y.calm) (hs : x.lineOn = y.lineOn) : x.hush = y.hush := by
  have hk : x.dk.fcPar = y.dk.fcPar := (congrArg (fun z : Hoop => z.dk.fcPar) hc :)
  unfold Hoop.hush
  rw [Hoop.part_of_calm hc, hs, hk]

theorem lineOn_of_src {x y : Hoop} (h : x.fc.src = y.fc.src) : x.lineOn = y.lineOn := by
  unfold Hoop.lineOn Hoop.liveSev
  rw [h]

theorem lineOn_of_lines {x y : Hoop} (h : x.lines = y.lines) : x.lineOn = y.lineOn := lineOn_of_src (Hoop.fc_src_of_lines h)

theorem setSrc_lineOn (v : Src) (x : Hoop) : (x.setSrc 196 v).lineOn = x.lineOn := by
  unfold Hoop.lineOn
  rw [Hoop.setSrc_liveSev (by rw [sevOf_notice]; decide), Hoop.setSrc_liveSev (by rw [sevOf_notice]; decide)]

theorem filed_lineOn (j : Nat) (x : Hoop) : (filed j x).lineOn = x.lineOn := by
  have hr : ∀ y : Hoop, (faultRecord 196 2 false [] y).lineOn = y.lineOn := fun y => by
    unfold faultRecord
    extract_lets v sec num
    split
    · rfl
    · exact (lineOn_of_lines (jnlPut_lines ..)).trans (setSrc_lineOn ..)
  unfold filed
  rw [hr, lineOn_of_lines (raiseEv_lines ..), lineOn_of_lines (pmcRaw_lines ..), lineOn_of_src (capture_fc_src ..), setSrc_lineOn]

theorem react_dark_lineOn (j : Nat) (y : Hoop) : (react 196 j 2 y).lineOn = y.lineOn := by
  have hh : (heldLow y).lineOn = y.lineOn := (lineOn_of_lines (msixSend_lines ..)).trans (lineOn_of_src rfl)
  rw [react_dark]
  split
  · exact (lineOn_of_lines (darkEyelet_lines ..)).trans hh
  · exact hh

theorem noticeOne_lineOn (ini fcid ch : Nat) (y : Hoop) (j : Nat) : (noticeOne ini fcid ch y j).lineOn = y.lineOn := by
  have hoff : ∀ z : Hoop, (faultOff 196 z).lineOn = z.lineOn := fun z => by
    unfold faultOff
    extract_lets v
    split
    · exact (lineOn_of_lines (raiseEv_lines ..)).trans ((lineOn_of_lines (jnlPut_lines ..)).trans (setSrc_lineOn ..))
    · rfl
  have hon : ∀ z : Hoop, (faultOn 196 j false [] z).lineOn = z.lineOn := fun z => by
    cases hrep : (z.src 196).live && (z.src 196).det == BitVec.ofNat 13 j with
    | true => rw [fault_repeats hrep]
    | false => rw [fault_strikes hrep, react_dark_lineOn, filed_lineOn]
  exact (hoff _).trans ((hon _).trans (lineOn_of_lines (raiseEv_lines ..)))

theorem noticeOne_calm (ini fcid ch : Nat) (y : Hoop) (j : Nat) : (noticeOne ini fcid ch y j).calm = y.calm := (pulse_calm ..).trans (raiseEv_calm ..)

/-! ## The whole notice -/

/-- A notice received is counted. -/
def noticeIn (x : Hoop) : Hoop := { x with wlm := { x.wlm with noticeRx := satInc x.wlm.noticeRx } }

/-- The live threads that hold the key that a notice names. -/
def named (p : Bytes) (x : Hoop) : List Nat :=
  (x.wlm.chains.filter (fun q => q.2.initiator == field p 0 2 && q.2.fcid == field p 2 6 && q.2.chain == field p 8 2 && (x.thread q.1).st.live)).map (·.1)

theorem darkNotice_eq (b : Bytes) (x : Hoop) : darkNotice b x =
    if (named (frPayload b) x).isEmpty then
      raiseEv 522 [field (frPayload b) 0 2, field (frPayload b) 2 6, field (frPayload b) 8 2, 0xFFFF] .hoop (noticeIn x)
    else (named (frPayload b) x).foldl (noticeOne (field (frPayload b) 0 2) (field (frPayload b) 2 6) (field (frPayload b) 8 2)) (noticeIn x) := rfl

theorem darkNotice_calm (b : Bytes) (x : Hoop) : (darkNotice b x).calm = (noticeIn x).calm := by
  rw [darkNotice_eq]
  split
  · exact raiseEv_calm ..
  · exact foldl_keeps Hoop.calm _ (fun _ _ => noticeOne_calm ..) _ _

theorem noticeIn_hush (x : Hoop) : (noticeIn x).hush = x.hush := rfl

theorem darkNotice_hush (b : Bytes) (x : Hoop) : (darkNotice b x).hush = x.hush := by
  refine (Hoop.hush_of (darkNotice_calm b x) ?_).trans (noticeIn_hush x)
  rw [darkNotice_eq]
  split
  · exact lineOn_of_lines (raiseEv_lines ..)
  · exact foldl_keeps Hoop.lineOn _ (fun _ _ => noticeOne_lineOn ..) _ _

/-- A live thread that holds the key is darked. -/
theorem darkNotice_darked {b p : Bytes} {x : Hoop} {i : Nat} {q : Chain} (hm : (i, q) ∈ x.wlm.chains) (hi : i < x.n) (hl : (x.thread i).st.live = true)
    (hp : p = frPayload b) (h1 : q.initiator = field p 0 2) (h2 : q.fcid = field p 2 6) (h3 : q.chain = field p 8 2) (hs : (x.src 196).live = false) :
    Darked i (darkNotice b x) := by
  subst hp
  have hin : i ∈ named (frPayload b) x := by
    refine List.mem_map.2 ⟨(i, q), List.mem_filter.2 ⟨hm, ?_⟩, rfl⟩
    rw [h1, h2, h3, hl, beq_self_eq_true, beq_self_eq_true, beq_self_eq_true]
    rfl
  have hne : (named (frPayload b) x).isEmpty = false := by
    cases hn : named (frPayload b) x with
    | nil => rw [hn] at hin; exact absurd hin (by simp)
    | cons _ _ => rfl
  rw [darkNotice_eq, hne, if_neg Bool.false_ne_true]
  refine foldl_noticeOne hin hi ⟨.inl hl, fun h => ?_⟩
  have hs' : ((noticeIn x).src 196).live = false := hs
  rw [hs'] at h
  exact absurd h Bool.false_ne_true

end Sys2Proof.Machine
end

section
/-!
SUPPORT. The rows on notices, time checks and telemetry (O58).
-/

namespace Sys2Proof.Machine
open Sys2Proof

/-! ## Delivery in a quiet module -/

theorem State.quiet_of_hush {s t : State} (h : ∀ k, (t.hoop k).hush = (s.hoop k).hush) (hd : t.duo = s.duo) (hs : s.quiet = true) : t.quiet = true := by
  have hp : t.a.part = s.a.part := congrArg (fun q => q.1) (h .hoopA)
  have hl : ∀ k, (t.hoop k).lineOn = (s.hoop k).lineOn := fun k => congrArg (fun q => q.2.1) (h k)
  have hk : ∀ k, (t.hoop k).dk.fcPar = (s.hoop k).dk.fcPar := fun k => congrArg (fun q => q.2.2) (h k)
  unfold State.quiet at hs ⊢
  simpa only [State.hoops_of_part hp, hl, hk, hd] using hs

theorem Hoop.hush_of_gate {x y : Hoop} (h : x.gate = y.gate) : x.hush = y.hush :=
  congrArg (fun q : Part × Bool × Bool × List Bytes => (q.1, q.2.1, q.2.2.1)) h

theorem hush_windows (x : Hoop) (m : SMap Win) : ({ x with wlm := { x.wlm with windows := m } } : Hoop).hush = x.hush := rfl

/-- Where the effect keeps the reaction lines, the delivery keeps the module quiet. -/
theorem deliver_quiet {f : Hoop → Hoop} (hf : ∀ x, (f x).hush = x.hush) {s : State} (q : s.quiet = true) (b : Bytes) (h : HoopId) (k : Nat) :
    (deliver b f (counted s h k)).quiet = true := by
  have hd : ∀ x, (deliverTo b f x).hush = x.hush := fun x => by
    unfold deliverTo
    split
    · exact (hf _).trans (hush_windows ..)
    · exact Hoop.hush_of_gate (dupSeen_gate x)
  refine State.quiet_of_hush (fun j => ?_) (deliver_duo b f s h k) q
  exact (foldl_upd_view Hoop.hush hd _ _ j).trans (State.upd_view Hoop.hush s h j _ fun x => Hoop.hush_of_gate (gotFrame_gate k x))

theorem deliver_still {f : Hoop → Hoop} (hf : ∀ x, (f x).gate = x.gate) {s : State} (q : s.still) (b : Bytes) (h : HoopId) (k : Nat) :
    (deliver b f (counted s h k)).still := State.still_of_gate (fun j => deliver_gate hf b s h k j) (deliver_duo b f s h k) q

/-- What a row whose frame is delivered makes of the hoop. -/
theorem delivered_hoop {s : State} {h : HoopId} {x : Hoop} {k ty : Nat} {b : Bytes} {m : SMap Win} {f : Hoop → Hoop} (hf : ∀ x, (f x).site = x.site)
    (e : s.here h x) (hd : delivered x k b ty m = true) : (deliver b f (counted s h k)).hoop h = f (received k m x) := by
  obtain ⟨-, -, -, hr, hw⟩ := arrives_iff.1 (delivered_iff.1 hd).1
  exact deliver_hoop hf e hr hw

theorem received_thr (k : Nat) (m : SMap Win) (x : Hoop) : (received k m x).thr = x.thr := by
  have h : (gotFrame k x).thr = x.thr := (congrArg Hoop.thr (gotFrame_abides k x).station :)
  exact h

theorem received_fc (k : Nat) (m : SMap Win) (x : Hoop) : (received k m x).fc = x.fc := by
  have h : (gotFrame k x).fc = x.fc := (congrArg Hoop.fc (gotFrame_abides k x).station :)
  exact h

theorem received_part (k : Nat) (m : SMap Win) (x : Hoop) : (received k m x).part = x.part := by
  have h : (gotFrame k x).part = x.part := (congrArg Hoop.part (gotFrame_abides k x).station :)
  exact h

theorem received_hub (k : Nat) (m : SMap Win) (x : Hoop) : (received k m x).wlm.hub = { x.wlm.hub with windows := m } := by
  have h : (gotFrame k x).wlm.hub = x.wlm.hub := gotFrame_hub k x
  exact congrArg (fun w : Wlm => { w with windows := m }) h

/-! ## The count of an event -/

/-- How often an event was raised. -/
def Hoop.raised (n : Nat) (x : Hoop) : Word := smGet 0 x.evt.cnt n

theorem raised_of_wire {n : Nat} {x y : Hoop} (h : x.wire n = y.wire n) : x.raised n = y.raised n := Hoop.cnt_of_wire h

theorem raised_wlm (n : Nat) (x : Hoop) (w : Wlm) : ({ x with wlm := w } : Hoop).raised n = x.raised n := rfl

theorem pmcRaw_raised (n c m : Nat) (x : Hoop) : (pmcRaw c m x).raised n = x.raised n := raised_of_wire (pmcRaw_wire ..)

theorem updLink_raised (n k : Nat) (f : Link → Link) (x : Hoop) : (x.updLink k f).raised n = x.raised n := raised_wlm ..

theorem gotFrame_raised (n k : Nat) (x : Hoop) : (gotFrame k x).raised n = x.raised n := (pmcRaw_raised ..).trans (updLink_raised ..)

theorem received_raised (n k : Nat) (m : SMap Win) (x : Hoop) : (received k m x).raised n = x.raised n := (raised_wlm ..).trans (gotFrame_raised ..)

section
variable {n : Nat} (hn : isNote n = true)
include hn

theorem tellDiscard_raised (x : Hoop) : (tellDiscard x).raised n = x.raised n := by
  have h0 : n ≠ 526 := by rintro rfl; exact absurd hn (by decide)
  unfold tellDiscard
  extract_lets sec
  split
  · rfl
  · exact (raised_of_wire (raiseEv_wire h0 ..)).trans (raised_wlm ..)

theorem sendFrame_raised (k : Nat) (tel : Bool) (b : Bytes) (x : Hoop) : (sendFrame k tel b x).raised n = x.raised n := by
  have h0 : n ≠ 527 := by rintro rfl; exact absurd hn (by decide)
  by_cases h : 32768 < queued x k tel + b.length
  · rw [sendFrame_full h]
    unfold tellDrop
    split
    · exact updLink_raised ..
    · exact (raised_of_wire (raiseEv_wire h0 ..)).trans ((raised_wlm ..).trans (updLink_raised ..))
  · rw [sendFrame_room h, pmcRaw_raised]
    exact (raised_wlm ..).trans (updLink_raised ..)

theorem sendToward_raised (tel : Bool) (b : Bytes) (x : Hoop) : (sendToward tel b x).raised n = x.raised n := by
  unfold sendToward
  split
  · exact sendFrame_raised hn ..
  · split
    · exact raised_wlm ..
    · exact (pmcRaw_raised ..).trans (raised_wlm ..)

theorem forward_raised (o : Option Nat) (b : Bytes) (x : Hoop) : (forward o b x).raised n = x.raised n := by
  unfold forward
  split
  · exact (pmcRaw_raised ..).trans (raised_wlm ..)
  next m _ =>
    extract_lets w y
    have hy : y.raised n = x.raised n := raised_wlm ..
    split
    · exact (tellDiscard_raised hn _).trans ((pmcRaw_raised ..).trans ((raised_wlm ..).trans hy))
    · split
      · exact (foldl_keeps (Hoop.raised n) _ (fun _ _ => sendFrame_raised hn ..) _ y).trans hy
      · exact (sendToward_raised hn ..).trans hy

end

theorem gate_wlm {x : Hoop} {w : Wlm} (h : w.handOff = x.wlm.handOff) : ({ x with wlm := w } : Hoop).gate = x.gate := by
  unfold Hoop.gate
  rw [← h]
  rfl

theorem tellDiscard_gate (x : Hoop) : (tellDiscard x).gate = x.gate := by
  unfold tellDiscard
  extract_lets sec
  split
  · rfl
  · exact (raiseEv_gate ..).trans (gate_wlm rfl)

/-- A broadcast passed on holds nothing back for the other hoop. -/
theorem forward_gate {b : Bytes} (hb : frDst b = bcast) (o : Option Nat) (x : Hoop) : (forward o b x).gate = x.gate := by
  unfold forward
  split
  · exact (pmcRaw_gate ..).trans (gate_wlm rfl)
  next m _ =>
    extract_lets w y
    have hy : y.gate = x.gate := gate_wlm rfl
    rw [if_pos hb]
    split
    · exact (tellDiscard_gate _).trans ((pmcRaw_gate ..).trans ((gate_wlm rfl).trans hy))
    · exact (foldl_keeps Hoop.gate _ (fun _ _ => Hoop.gate_of_station (Sent.frame ..).station) _ y).trans hy

/-! ## Telemetry and hand-over notices that come in -/

theorem telemetryIn_gate (b : Bytes) (x : Hoop) : (telemetryIn b x).gate = x.gate := by
  unfold telemetryIn
  split
  · exact raiseEv_gate ..
  · rfl

theorem telemetryIn_leader {x : Hoop} (h : x.wlm.isLeader = true) (b : Bytes) : (telemetryIn b x).raised 524 = x.raised 524 + 1 := by
  unfold telemetryIn
  rw [if_pos h]
  exact raiseEv_cnt ..

theorem received_isLeader (k : Nat) (m : SMap Win) (x : Hoop) : (received k m x).wlm.isLeader = x.wlm.isLeader := by
  have h : (gotFrame k x).wlm.isLeader = x.wlm.isLeader := (congrArg Wlm.isLeader (gotFrame_wlm k x)).trans rfl
  exact h

theorem noticeRx_of_calm {x y : Hoop} (h : x.calm = y.calm) : x.wlm.noticeRx = y.wlm.noticeRx := (congrArg (fun z : Hoop => z.wlm.noticeRx) h :)

theorem received_noticeRx (k : Nat) (m : SMap Win) (x : Hoop) : (received k m x).wlm.noticeRx = x.wlm.noticeRx := (congrArg Wlm.noticeRx (received_hub k m x) :)

theorem received_chains (k : Nat) (m : SMap Win) (x : Hoop) : (received k m x).wlm.chains = x.wlm.chains := (congrArg Wlm.chains (received_hub k m x) :)

/-! ## O58 -/

theorem exec_darkNotice {s : State} {h : HoopId} {x : Hoop} {k : Nat} {b : Bytes} {m : SMap Win} (e : s.here h x) (hd : delivered x k b 9 m = true) :
    exec (.darkNotice h k b) s = .next (settle (deliver b (darkNotice b) (counted s h k))) :=
  congrArg (fun t => Host.Outcome.next (settle t)) (rxFrame_delivered e hd (darkNotice b))

/-- A notice that names the key of a live thread darks it. -/
theorem darkNotice_darks {s : State} {h : HoopId} {x : Hoop} {k i : Nat} {b p : Bytes} {m : SMap Win} {c : Chain} (e : s.here h x) (q : s.quiet = true)
    (hd : delivered x k b 9 m = true) (hm : (i, c) ∈ x.wlm.chains) (hi : i < x.n) (hl : (x.thread i).st.live = true) (hp : p = frPayload b)
    (h1 : c.initiator = field p 0 2) (h2 : c.fcid = field p 2 6) (h3 : c.chain = field p 8 2) (hs : (x.src 196).live = false) :
    CompletesWith (.darkNotice h k b) s h (fun y => (y.thread i).st = .darked ∧ (y.src 196).sticky = true ∧ y.fc.hold = true) := by
  have hsrc : ((received k m x).src 196).live = false := by
    unfold Hoop.src at hs ⊢
    rw [received_fc]
    exact hs
  have hn : i < (received k m x).n := by unfold Hoop.n at hi ⊢; rw [received_part]; exact hi
  have hdark : Darked i (darkNotice b (received k m x)) := darkNotice_darked (by rw [received_chains]; exact hm) hn
    (by rw [thread_of_thr (received_thr k m x)]; exact hl) hp h1 h2 h3 hsrc
  have hh := delivered_hoop (darkNotice_site b) e hd
  refine ⟨_, exec_darkNotice e hd, ?_⟩
  have hc := settle_core _ (deliver_quiet (darkNotice_hush b) q b h k) h
  have hl' := settle_lines (deliver b (darkNotice b) (counted s h k)) h
  rw [hh] at hc hl'
  obtain ⟨d1, d2, d3⟩ := hdark.of_views (thr_of_core hc) hl'
  exact ⟨d1, d2, d3⟩

/-- The one notice due goes out to the one module reached, and is counted. -/
theorem noticeRepeat_completes {s : State} {h : HoopId} {x : Hoop} {n : Notice} {a k : Nat} (e : s.here h x) (q : s.poised = true) (ht : x.tmb.st ≠ .halted)
    (hn : x.wlm.notices = [n]) (hd : n.sentAt + 1000000 ≤ x.now) (hto : noticeTo n.key x = [a]) (ha : a < bcast) (hr : x.routeTo a = some k)
    (hroom : roomFor x k 32 = true) :
    CompletesWith (.darkNoticeRepeat h) s h (fun y =>
      sends y k (nextFrame x a 9 (noticePayload n.key n.inPort n.cause)) ∧ y.wlm.noticeTx = satInc x.wlm.noticeTx) := by
  have hf := noticeRepeat_one ht hn hd hto
  have hsend := originate_sends (type := 9) (p := noticePayload n.key n.inPort n.cause) (x := countNotice (noticesKept x)) ha
    (show (countNotice (noticesKept x)).routeTo a = some k from hr) rfl (by rw [noticePayload_length]; exact hroom)
  refine gives_wlm noticeRepeat e q rfl ?_ fun y _ hy => ?_
  · rw [hf, originate_routed_gate ha (show (countNotice (noticesKept x)).routeTo a = some k from hr)]
    exact gate_wlm rfl
  · rw [hf] at hy
    refine ⟨?_, ?_⟩
    · unfold sends at hsend ⊢
      rw [hy]
      exact hsend
    · rw [hy, plain_noticeTx (originate_plain ..)]
      rfl

/-- A request is answered. -/
theorem timeCheck_answers {s : State} {h : HoopId} {x : Hoop} {k : Nat} {b p : Bytes} {fine : BitVec 4} (e : s.here h x) (q : s.poised = true) (hh : heard x k b 0xA = true)
    (hd : frDst b = 0) (hp : p = frPayload b) (h0 : field p 0 1 = 0) (hr : roomFor x k 56 = true) :
    CompletesWith (.timeCheck h k b fine) s h (fun y => ∃ q, sends y k (frameBytes 0 x.wlm.addr.toNat 0 0xA x.wlmOrigin q
      (tcPayload 1 (timeAt p 4) (x.tb.ptpOf x.now * 16 + fine.toNat) (sendTime x)))) := by
  have htb := Hoop.tb_of_station (gotFrame_abides k x).station
  have hx : exec (.timeCheck h k b fine) s = .next (s.act h (fun y => timeCheck k b fine (gotFrame k y))) :=
    congrArg (fun t => Host.Outcome.next (settle t)) (rxLocal_heard e hh hd (timeCheck k b fine))
  have hf := timeCheck_request (k := k) hp h0 fine (gotFrame k x)
  rw [rxTime_of_tb htb, sendTime_of_tb htb] at hf
  have hs := sendLocal_sends (k := k) (type := 0xA) (p := tcPayload 1 (timeAt p 4) (rxTime fine x) (sendTime x)) (x := gotFrame k x)
    (by rw [tcPayload_length, gotFrame_roomFor]; exact hr)
  rw [Hoop.addr_of_station (gotFrame_abides k x).station, wlmOrigin_of_station (gotFrame_abides k x).station] at hs
  refine gives_wlm _ e q hx ?_ fun y _ hy => ⟨nextSeq (gotFrame k x).wlm.localSeq, ?_⟩
  · rw [hf]
    exact (Hoop.gate_of_station (Sent.localFrame ..).station).trans (gotFrame_gate k x)
  · rw [hf] at hy
    unfold sends at hs ⊢
    rw [hy]
    exact hs

/-- An answer gives the link's offset, and event 523 where it passes the limit. -/
theorem timeCheck_measures {s : State} {h : HoopId} {x : Hoop} {k : Nat} {b p : Bytes} {fine : BitVec 4} (e : s.here h x) (q : s.poised = true) (hh : heard x k b 0xA = true)
    (hd : frDst b = 0) (hp : p = frPayload b) (h0 : field p 0 1 ≠ 0) :
    CompletesWith (.timeCheck h k b fine) s h (fun y => (y.link k).tofs = offsetOf p (rxTime fine x) ∧
      smGet 0 y.evt.cnt 523 = smGet 0 x.evt.cnt 523 + (if x.wlm.tcLimit.toNat * 16 < (y.link k).tofs.natAbs then 1 else 0)) := by
  have htb := Hoop.tb_of_station (gotFrame_abides k x).station
  have hx : exec (.timeCheck h k b fine) s = .next (s.act h (fun y => timeCheck k b fine (gotFrame k y))) :=
    congrArg (fun t => Host.Outcome.next (settle t)) (rxLocal_heard e hh hd (timeCheck k b fine))
  obtain ⟨hs, rfl⟩ := e
  refine ⟨_, hx, ?_⟩
  have hg : (timeCheck k b fine (gotFrame k (s.hoop h))).gate = (s.hoop h).gate := (timeCheck_reply_gate hp h0 fine _).trans (gotFrame_gate k _)
  have hw := act_wire (m := 523) (by decide) (f := fun y => timeCheck k b fine (gotFrame k y)) hs (State.still_of_poised q) hg
  have hlim : (gotFrame k (s.hoop h)).wlm.tcLimit = (s.hoop h).wlm.tcLimit := (congrArg Wlm.tcLimit (gotFrame_hub k (s.hoop h)) :)
  have hcnt := gotFrame_raised 523 k (s.hoop h)
  obtain ⟨v1, v2⟩ := timeCheck_reply_view (k := k) hp h0 fine (gotFrame k (s.hoop h))
  rw [rxTime_of_tb htb] at v1 v2
  have ho : (((s.act h (fun y => timeCheck k b fine (gotFrame k y))).hoop h).link k).tofs = offsetOf p (rxTime fine (s.hoop h)) := by
    rw [link_of_wlm (Hoop.wlm_of_wire hw), v1]
  refine ⟨ho, ?_⟩
  rw [Hoop.cnt_of_wire hw, v2, hlim, ho]
  exact congrArg (· + _) hcnt

/-- Telemetry goes to the leader. -/
theorem telemetrySend_completes {s : State} {h : HoopId} {x : Hoop} {a k : Nat} (e : s.here h x) (q : s.poised = true) (hf : x.boot.fwRun = true) (hadr : x.wlm.addr ≠ 0)
    (hi : x.wlm.telInterval ≠ 0) (hl : x.wlm.isLeader = false) (hr : x.pair.role = .active ∨ x.pair.role = .standby) (hto : x.addrOfId x.wlm.leader = some a)
    (ha : a < bcast) (hroute : x.routeTo a = some k) (hroom : queued x k true + 64 ≤ 32768) (hd : (x.mayDefer && historyFirst x) = false) :
    CompletesWith (.telemetrySend h) s h (fun y => y.wlm.telDeferred = false ∧
      (⟨k, true, nextFrame x a 0xB (telPayload x (s.hoop (other h)) s.balls.darkN)⟩ : TxFrame) ∈ y.wlm.tx) := by
  have hfx := telemetrySend_eq (peer := s.hoop (other h)) (dark := s.balls.darkN) hf hadr hi hl hr hto hd
  refine gives_wlm (telemetrySend (s.hoop (other h)) s.balls.darkN) e q rfl ?_ fun y hc hy => ?_
  · rw [hfx, originate_routed_gate ha (show (onTime x).routeTo a = some k from hroute)]
    exact onTime_gate x
  · rw [hfx] at hc hy
    refine ⟨?_, ?_⟩
    · rw [hy, originate_telDeferred]
      rfl
    · rw [hy]
      exact telemetrySend_queues ha hroute hroom

/-- A hand-over notice raises event 525, and is passed on. -/
theorem handoverNotice_raises {s : State} {h : HoopId} {x : Hoop} {k : Nat} {b : Bytes} {m : SMap Win} (e : s.here h x) (q : s.poised = true)
    (ha : arrives x k b 0xC bcast m = true) :
    CompletesWith (.handoverNotice h k b) s h (fun y => smGet 0 y.evt.cnt 525 = smGet 0 x.evt.cnt 525 + 1) := by
  obtain ⟨-, hb, -, hr, hwin⟩ := arrives_iff.1 ha
  have hx : exec (.handoverNotice h k b) s = .next (settle (passOn h k b (deliver b (handoverNotice b) (counted s h k)))) :=
    congrArg (fun t => Host.Outcome.next (settle t)) (rxFrame_bcast e ha (handoverNotice b))
  have hst := deliver_still (fun y => raiseEv_gate 525 [frSrc b, field (frPayload b) 8 1, field (frPayload b) 11 6, field (frPayload b) 17 4] .hoop y) (State.still_of_poised q) b h k
  have hst' : (passOn h k b (deliver b (handoverNotice b) (counted s h k))).still :=
    State.still_of_gate (fun j => passOn_view Hoop.gate (forward_gate hb) h k _ j) (passOn_duo ..) hst
  refine ⟨_, hx, ?_⟩
  have hw := raised_of_wire (settle_wire (m := 525) (by decide) hst' h)
  rw [passOn_view (Hoop.raised 525) (fun o y => forward_raised (n := 525) (by decide) o b y) h k, deliver_hoop (k := k) (handoverNotice_site b) e hr hwin] at hw
  refine hw.trans ((raiseEv_cnt ..).trans ?_)
  exact congrArg (· + 1) (received_raised 525 k m x)

/-- Settles O58: each frame as it goes out, and what each that comes in makes of the hoop. -/
theorem noticeRows : Obligations.NoticeRows := by
  unfold Obligations.NoticeRows
  refine ⟨?_, ?_, ?_, ?_, ?_, ?_, ?_, ?_, ?_, ?_⟩
  · intro s h x e q ht
    have hpl := noticeRepeat_plant x
    refine gives_core noticeRepeat e q rfl (part_of_plant hpl) (src_of_plant hpl) (fcPar_of_plant hpl) fun y hy => ?_
    rw [notices_of_core hy, noticeRepeat_notices ht]
    exact congrArg (fun f => x.wlm.notices.filterMap f) (funext (stillDue_eq x.now))
  · exact fun s h x n a k e q ht hn hd hto ha hr hroom => noticeRepeat_completes e q ht hn hd hto ha hr hroom
  · intro s h x k b m e hd
    refine gives_next (exec_darkNotice e hd) fun y hy => ?_
    rw [delivered_hoop (darkNotice_site b) e hd, darkNotice_calm] at hy
    rw [noticeRx_of_calm hy, ← received_noticeRx k m x]
    rfl
  · exact fun s h x k b m i c p e q hd hm hi hl hp h1 h2 h3 hs => darkNotice_darks e q hd hm hi hl hp h1 h2 h3 hs
  · intro s h x k e q hf hk hr
    obtain ⟨ha, r, hs⟩ := timeCheckSend_sends hf hk hr
    refine gives_wlm timeCheckSend e q rfl (Hoop.gate_of_station ha.station) fun y _ hy => ⟨r, ?_⟩
    unfold sends at hs ⊢
    rwa [hy]
  · exact fun s h x k b fine p e q hh hd hp h0 hr => timeCheck_answers e q hh hd hp h0 hr
  · exact fun s h x k b fine p e q hh hd hp h0 => timeCheck_measures e q hh hd hp h0
  · exact fun s h x a k e q hf hadr hi hl hr hto ha hroute hroom hd => telemetrySend_completes e q hf hadr hi hl hr hto ha hroute hroom hd
  · intro s h x k b m e q hd hl
    have hx : exec (.telemetry h k b) s = .next (settle (deliver b (telemetryIn b) (counted s h k))) :=
      congrArg (fun t => Host.Outcome.next (settle t)) (rxFrame_delivered e hd (telemetryIn b))
    refine ⟨_, hx, ?_⟩
    have hw := settle_wire (m := 524) (by decide) (deliver_still (telemetryIn_gate b) (State.still_of_poised q) b h k) h
    rw [delivered_hoop (telemetryIn_site b) e hd] at hw
    refine (raised_of_wire hw).trans ((telemetryIn_leader (by rw [received_isLeader]; exact hl) b).trans ?_)
    exact congrArg (· + 1) (received_raised ..)
  · exact fun s h x k b m e q ha => handoverNotice_raises e q ha

end Sys2Proof.Machine
end

section
/-!
SUPPORT. Frames that stand in the output queues of a quiet module stand there after `settle`, which sends on what one hoop holds for the other.
-/

namespace Sys2Proof.Machine
open Sys2Proof

/-- Every frame queued in one hoop is queued in the other. -/
def Hoop.Queues (x y : Hoop) : Prop := ∀ f ∈ x.wlm.tx, f ∈ y.wlm.tx

theorem Hoop.Queues.of_wlm {x y : Hoop} (h : y.wlm = x.wlm) : x.Queues y := fun _ hf => h ▸ hf

/-- Every frame queued in a hoop of one state is queued there in the other. -/
def State.Queues (s t : State) : Prop := ∀ k, (s.hoop k).Queues (t.hoop k)

theorem State.Queues.trans {s t u : State} (h : s.Queues t) (g : t.Queues u) : s.Queues u := fun k f hf => g k f (h k f hf)

theorem State.Queues.of_wlm {s t : State} (h : ∀ k, (t.hoop k).wlm = (s.hoop k).wlm) : s.Queues t := fun k => Hoop.Queues.of_wlm (h k)

theorem State.Queues.upd {f : Hoop → Hoop} (hf : ∀ x : Hoop, x.Queues (f x)) (s : State) (h : HoopId) : s.Queues (s.upd h f) := by
  intro k
  by_cases hs : s.has h = true
  · by_cases hk : k = h
    · subst hk
      rw [State.upd_self s k f hs]
      exact hf _
    · rw [State.upd_hoop_ne s f hk]
      exact Hoop.Queues.of_wlm rfl
  · rw [State.upd, if_neg hs]
    exact Hoop.Queues.of_wlm rfl

theorem State.Queues.foldl {α : Type} {g : State → α → State} (hg : ∀ (s : State) (a : α), s.Queues (g s a)) (L : List α) (s : State) : s.Queues (L.foldl g s) := by
  induction L generalizing s with
  | nil => exact State.Queues.of_wlm fun _ => rfl
  | cons a L ih => exact (hg s a).trans (ih _)

theorem sendFrame_queues (k : Nat) (tel : Bool) (b : Bytes) (x : Hoop) : x.Queues (sendFrame k tel b x) := (Sent.frame k tel b x).kept

/-- A frame of the other hoop is sent toward its destination, or counted as without a route. -/
theorem linkTurn_queues (b : Bytes) (y : Hoop) : y.Queues (match y.routeTo (frDst b) with
    | some k => sendFrame k (frType b == 0xB) b y
    | none => pmcRaw 218 1 { y with wlm := { y.wlm with noRoute := satInc y.wlm.noRoute } }) := by
  split
  · exact fun f hf => sendFrame_queues _ _ b y f hf
  · exact fun f hf => by rw [pmcRaw_wlm]; exact hf

/-- What the hoop held for the other has gone. -/
def linkDone (y : Hoop) : Hoop := { y with pair := { y.pair with sent := [] }, wlm := { y.wlm with handOff := [] } }

theorem linkDone_queues (y : Hoop) : y.Queues (linkDone y) := fun _ hf => hf

theorem settleLink_queues (s : State) (h : HoopId) : s.Queues (settleLink s h) := by
  unfold settleLink
  split
  · exact State.Queues.of_wlm fun _ => rfl
  · extract_lets x p t u
    have ht : s.Queues t := State.Queues.upd (fun y => Hoop.Queues.of_wlm (by split <;> rfl)) s p
    have hu : t.Queues u := State.Queues.foldl (fun s b => State.Queues.upd (linkTurn_queues b) s p) _ t
    exact ht.trans (hu.trans (State.Queues.upd linkDone_queues u h))

theorem settleRole_queues (s : State) (h : HoopId) : s.Queues (settleRole s h) :=
  State.Queues.of_wlm fun k => Hoop.wlm_of_wire (settleRole_wire (m := 523) (by decide) s h k)

theorem settleTell_wlm (x : Hoop) : (pmcTell (settleStage (settleVouch (tellFirst x)))).wlm = x.wlm := by
  have hm : isNote 523 = true := by decide
  exact Hoop.wlm_of_wire ((pmcTell_wire hm _).trans ((settleStage_wire hm _).trans ((settleVouch_wire hm _).trans (tellFirst_wire hm x))))

theorem settle_queues {s : State} (q : s.quiet = true) : s.Queues (settle s) := by
  unfold settle
  extract_lets s1 s2 s3 s4 s5
  have h1 : s1 = s := quiet_lines s q
  have h2 : s2 = s := by
    show s1.hoops.foldl settleS3 s1 = s
    rw [h1]; exact quiet_s3 s q
  have h3 : s2.Queues s3 := State.Queues.foldl settleRole_queues _ s2
  have h4 : s3.Queues s4 := State.Queues.foldl settleLink_queues _ s3
  have h5 : s4.Queues s5 := State.Queues.foldl (fun s h => State.Queues.upd (fun x => Hoop.Queues.of_wlm (settleTell_wlm x)) s h) _ s4
  rw [h2] at h3
  intro k
  rw [settlePins_hoop]
  exact (h3.trans (h4.trans h5)) k

/-- A frame queued before a quiet `settle` is queued after the row. -/
theorem gives_next_sends {i : Instr} {s t : State} {h : HoopId} {l : Nat} {b : Bytes} (hx : exec i s = .next (settle t)) (q : t.quiet = true)
    (hs : sends (t.hoop h) l b) : CompletesWith i s h (fun y => sends y l b) := ⟨_, hx, settle_queues q h _ hs⟩

/-- A frame originated for an address with a route is queued on it; a broadcast goes out on it among others. -/
theorem originate_sends_any {dst k type : Nat} {p : Bytes} {x : Hoop} (h : dst < 4096) (hr : x.routeTo dst = some k) (ht : (type == 0xB) = false)
    (hroom : roomFor x k (16 + p.length) = true) : sends (originate dst type p x) k (nextFrame x dst type p) := by
  by_cases hb : dst = bcast
  · subst hb
    have hk : k ∈ x.upLinks := by
      unfold Hoop.routeTo at hr
      dsimp only at hr
      split at hr
      next hc =>
        obtain rfl := Option.some.inj hr
        rw [Bool.and_eq_true] at hc
        exact List.mem_filter.2 ⟨List.mem_range.2 (Nat.mod_lt _ (by decide)), hc.2⟩
      next => exact absurd hr (by simp)
    exact originate_bcast_sends hk hroom
  · exact originate_sends (by unfold bcast at hb ⊢; omega) hr ht hroom

end Sys2Proof.Machine
end

section
/-!
SUPPORT. The records of fabric commits (R405 to R413): what leaves them alone, what a change of one's record and its end make of them.
-/

namespace Sys2Proof.Machine
open Sys2Proof

/-! ## The register of fabric commits -/

/-- The Walimin block without chains, windows and what sending, telling, faults and `settle` may change. -/
def Hoop.pact (x : Hoop) : Wlm := { x.wlm.calm with chains := [], windows := [] }

theorem pact_of_calm {x y : Hoop} (h : x.calm = y.calm) : x.pact = y.pact := (congrArg Hoop.pact h :)

theorem fabs_of_pact {x y : Hoop} (h : x.pact = y.pact) : x.wlm.fabs = y.wlm.fabs := (congrArg Wlm.fabs h :)

theorem ended_of_pact {x y : Hoop} (h : x.pact = y.pact) : x.wlm.ended = y.wlm.ended := (congrArg Wlm.ended h :)

theorem addr_of_pact {x y : Hoop} (h : x.pact = y.pact) : x.wlm.addr = y.wlm.addr := (congrArg Wlm.addr h :)

theorem fcInit_of_pact {x y : Hoop} (h : x.pact = y.pact) : x.wlm.fcInit = y.wlm.fcInit := (congrArg Wlm.fcInit h :)

theorem fcNotComplete_of_pact {x y : Hoop} (h : x.pact = y.pact) : x.wlm.fcNotComplete = y.wlm.fcNotComplete := (congrArg Wlm.fcNotComplete h :)

theorem tb_of_calm {x y : Hoop} (h : x.calm = y.calm) : x.tb = y.tb := (congrArg Hoop.tb h :)

theorem originate_pact (dst ty : Nat) (p : Bytes) (x : Hoop) : (originate dst ty p x).pact = x.pact := pact_of_calm (originate_calm ..)

theorem originate_tb (dst ty : Nat) (p : Bytes) (x : Hoop) : (originate dst ty p x).tb = x.tb := tb_of_calm (originate_calm ..)

theorem raiseEv_pact (src : Nat) (p : List Nat) (sc : Scope) (x : Hoop) : (raiseEv src p sc x).pact = x.pact := pact_of_calm (raiseEv_calm ..)

theorem gotFrame_calm (k : Nat) (x : Hoop) : (gotFrame k x).calm = x.calm := (pmcRaw_calm ..).trans (updLink_calm ..)

theorem pact_windows (x : Hoop) (m : SMap Win) : ({ x with wlm := { x.wlm with windows := m } } : Hoop).pact = x.pact := rfl

theorem received_pact (k : Nat) (m : SMap Win) (x : Hoop) : (received k m x).pact = x.pact := (pact_windows ..).trans (pact_of_calm (gotFrame_calm k x))

theorem received_tb (k : Nat) (m : SMap Win) (x : Hoop) : (received k m x).tb = x.tb := by
  have h : (gotFrame k x).tb = x.tb := tb_of_calm (gotFrame_calm k x)
  exact h

theorem received_hush (k : Nat) (m : SMap Win) (x : Hoop) : (received k m x).hush = x.hush :=
  (hush_windows ..).trans (Hoop.hush_of_gate (gotFrame_gate k x))

theorem received_cm (k : Nat) (m : SMap Win) (x : Hoop) : (received k m x).cm = x.cm := by
  have h : (gotFrame k x).cm = x.cm := (congrArg Hoop.cm (gotFrame_abides k x).station :)
  exact h

/-! ## Comparators and deadlines -/

theorem pact_tb (x : Hoop) (t : Tb) : ({ x with tb := t } : Hoop).pact = x.pact := rfl

theorem armAt_pact (k ns : Nat) (x : Hoop) : (armAt k ns x).pact = x.pact := by
  rcases armAt_cases k ns x with ⟨c, l, h⟩ | h
  · rw [h]; exact pact_tb ..
  · obtain ⟨p, h⟩ := h
    rw [h]; exact raiseEv_pact ..

theorem dropArm_pact (k : Nat) (x : Hoop) : (dropArm k x).pact = x.pact := rfl

theorem cmpFire_pact (k : Nat) (x : Hoop) : (cmpFire k x).pact = x.pact := rfl

theorem cmpFireDue_pact (k : Nat) (x : Hoop) : (cmpFireDue k x).pact = x.pact := by
  unfold cmpFireDue
  split
  · exact cmpFire_pact k x
  · rfl

theorem dropArm_armed (k : Nat) (x : Hoop) : ((dropArm k x).tb.cmp k).armed = false := by
  unfold dropArm cmpDisarm
  rw [Hoop.setCmp_cmp]

theorem dropArm_held {k : Nat} {x : Hoop} : ∀ e ∈ (dropArm k x).tb.heldEvents, e.1 ≠ k := fun _ he => bne_iff_ne.1 (List.mem_filter.1 he).2

theorem cmpFire_fired (k : Nat) (x : Hoop) : ((cmpFire k x).tb.cmp k).armed = false ∧ ((cmpFire k x).tb.cmp k).fired = true := by
  unfold cmpFire
  rw [Hoop.setCmp_cmp]
  exact ⟨rfl, rfl⟩

theorem dropArm_desk (k : Nat) (x : Hoop) : (dropArm k x).desk = x.desk := rfl

theorem cmpFireDue_desk (k : Nat) (x : Hoop) : (cmpFireDue k x).desk = x.desk := by
  unfold cmpFireDue
  split <;> rfl

theorem dropDeadlines_pact (f : Fab) (x : Hoop) : (dropDeadlines f x).pact = x.pact := by
  unfold dropDeadlines
  split
  · exact dropArm_pact ..
  · rfl

theorem dropDeadlines_desk (f : Fab) (x : Hoop) : (dropDeadlines f x).desk = x.desk := by
  unfold dropDeadlines
  split
  · exact dropArm_desk ..
  · rfl

theorem abortMembers_pact (f : Fab) (st why : Nat) (x : Hoop) : (abortMembers f st why x).pact = x.pact :=
  foldl_keeps Hoop.pact _ (fun _ _ => originate_pact ..) _ x

theorem abortMembers_desk (f : Fab) (st why : Nat) (x : Hoop) : (abortMembers f st why x).desk = x.desk :=
  Hoop.desk_foldl _ (fun _ _ => originate_desk ..) _ x

/-! ## Records -/

/-- The record is the initiator's of this fabric commit. -/
def isInit (initiator fcid : Nat) (f : Fab) : Bool := f.init && f.initiator == initiator && f.fcid == fcid

theorem isInit_iff {a c : Nat} {f : Fab} : isInit a c f = true ↔ f.init = true ∧ f.initiator = a ∧ f.fcid = c := by
  simp only [isInit, Bool.and_eq_true, beq_iff_eq, and_assoc]

/-- Every record of the hoop. -/
def Hoop.records (x : Hoop) : List Fab := x.wlm.fabs.map (·.2) ++ x.wlm.ended

theorem initFab_eq (x : Hoop) (c : Nat) : initFab x c = x.records.find? (isInit x.wlm.addr.toNat c) := rfl

theorem initFab_isInit {x : Hoop} {c : Nat} {f : Fab} (h : initFab x c = some f) : isInit x.wlm.addr.toNat c f = true := by
  rw [initFab_eq] at h
  exact List.find?_some (p := isInit x.wlm.addr.toNat c) h

theorem initFab_of_pact {x y : Hoop} (h : x.pact = y.pact) (c : Nat) : initFab x c = initFab y c := by
  unfold initFab
  rw [fabs_of_pact h, ended_of_pact h, addr_of_pact h]

/-- The records changed where `p` holds. -/
def reviseIf (p : Fab → Bool) (g : Fab → Fab) (f : Fab) : Fab := if p f then g f else f

theorem find?_reviseIf {p : Fab → Bool} {g : Fab → Fab} (hg : ∀ f, p f = true → p (g f) = true) (l : List Fab) :
    (l.map (reviseIf p g)).find? p = (l.find? p).map g := by
  induction l with
  | nil => rfl
  | cons f l ih =>
    rw [List.map_cons, List.find?_cons, List.find?_cons]
    cases hp : p f with
    | true => simp [reviseIf, hp, hg f hp]
    | false => simp [reviseIf, hp, ih]

theorem updInit_fabs (a c : Nat) (g : Fab → Fab) (x : Hoop) :
    (updInit a c g x).wlm.fabs = x.wlm.fabs.map (fun q => (q.1, reviseIf (isInit a c) g q.2)) := rfl

theorem updInit_records (a c : Nat) (g : Fab → Fab) (x : Hoop) : (updInit a c g x).records = x.records.map (reviseIf (isInit a c) g) := by
  have hf : (updInit a c g x).wlm.fabs.map (·.2) = (x.wlm.fabs.map (·.2)).map (reviseIf (isInit a c) g) := by
    rw [updInit_fabs, List.map_map, List.map_map]
    rfl
  unfold Hoop.records
  rw [hf, List.map_append]
  rfl

theorem updInit_desk (a c : Nat) (g : Fab → Fab) (x : Hoop) : (updInit a c g x).desk = x.desk := rfl

theorem updInit_addr (a c : Nat) (g : Fab → Fab) (x : Hoop) : (updInit a c g x).wlm.addr = x.wlm.addr := rfl

/-- The initiator's record, changed. -/
theorem initFab_updInit {a c : Nat} {g : Fab → Fab} {x : Hoop} (ha : a = x.wlm.addr.toNat) (hg : ∀ f, isInit a c f = true → isInit a c (g f) = true) :
    initFab (updInit a c g x) c = (initFab x c).map g := by
  subst ha
  rw [initFab_eq, updInit_addr, updInit_records, find?_reviseIf hg, initFab_eq]

theorem smFind_map_snd {α : Type} (r : α → α) (m : SMap α) (k : Nat) : smFind (m.map fun q => (q.1, r q.2)) k = (smFind m k).map r := by
  induction m with
  | nil => rfl
  | cons q m ih =>
    by_cases h : q.1 = k
    · simp [smFind, h]
    · simp [smFind, h, ih]

theorem smFind_updInit (a c : Nat) (g : Fab → Fab) (x : Hoop) (k : Nat) :
    smFind (updInit a c g x).wlm.fabs k = (smFind x.wlm.fabs k).map (reviseIf (isInit a c) g) := by
  rw [updInit_fabs]
  exact smFind_map_snd ..

/-- The outcome raised, no record of the fabric commit is left. -/
theorem fabOutcome_records {f g : Fab} {x : Hoop} (h : g ∈ (fabOutcome f x).records) : isInit f.initiator f.fcid g = false := by
  unfold fabOutcome at h
  extract_lets states all out gone w y at h
  have hr : (raiseEv 519 ([f.fcid, out] ++ states) .hoop y).records = y.records := by
    unfold Hoop.records
    rw [raiseEv_wlm]
  rw [hr] at h
  rcases List.mem_append.1 h with h | h
  · obtain ⟨q, hq, rfl⟩ := List.mem_map.1 h
    exact Bool.not_eq_eq_eq_not.mp (List.mem_filter.1 hq).2
  · exact Bool.not_eq_eq_eq_not.mp (List.mem_filter.1 h).2

theorem fabOutcome_addr (f : Fab) (x : Hoop) : (fabOutcome f x).wlm.addr = x.wlm.addr := by
  unfold fabOutcome
  extract_lets states all out gone w y
  rw [raiseEv_wlm]

theorem initFab_fabOutcome {f : Fab} {c : Nat} {x : Hoop} (h : isInit x.wlm.addr.toNat c f = true) : initFab (fabOutcome f x) c = none := by
  obtain ⟨-, ha, hc⟩ := isInit_iff.1 h
  rw [initFab_eq, fabOutcome_addr, List.find?_eq_none]
  intro g hg
  rw [← ha, ← hc, fabOutcome_records hg]
  decide

/-! ## The local part -/

theorem withdrawPart_none {a c code : Nat} {x : Hoop} (h : x.cm.pending.any (fun d => d.fcid == some (fcKey a c)) = false) : withdrawPart a c code x = x := by
  have hn : x.cm.pending.find? (fun d => d.fcid == some (fcKey a c)) = none := by
    rw [List.find?_eq_none]
    exact List.any_eq_false.1 h
  unfold withdrawPart
  rw [hn]

theorem withdrawPart_some {a c code : Nat} {x : Hoop} {d : Commit} (h : x.cm.pending.find? (fun d => d.fcid == some (fcKey a c)) = some d) :
    withdrawPart a c code x = abortCommit d code true x := by
  unfold withdrawPart
  rw [h]

/-- What giving up makes of the record. -/
def gaveUp (why : Nat) (tell : Bool) (g : Fab) : Fab := { g with st := 5, reason := why, aborted := tell, localSeq := none }

/-- The initiator's record given up, before its own part is withdrawn. -/
def letGo (f : Fab) (tell : Bool) (st why : Nat) (x : Hoop) : Hoop :=
  updInit f.initiator f.fcid (gaveUp why tell) (if tell then abortMembers f st why (dropDeadlines f x) else dropDeadlines f x)

theorem giveUp_eq (f : Fab) (tell : Bool) (st why : Nat) (x : Hoop) : giveUp f tell st why x = withdrawPart f.initiator f.fcid 3 (letGo f tell st why x) := rfl

/-- The hoop before the record is changed. -/
theorem told_pact (f : Fab) (tell : Bool) (st why : Nat) (x : Hoop) :
    (if tell then abortMembers f st why (dropDeadlines f x) else dropDeadlines f x).pact = x.pact := by
  split
  · exact (abortMembers_pact ..).trans (dropDeadlines_pact ..)
  · exact dropDeadlines_pact ..

theorem letGo_desk (f : Fab) (tell : Bool) (st why : Nat) (x : Hoop) : (letGo f tell st why x).desk = x.desk := by
  refine (updInit_desk ..).trans ?_
  split
  · exact (abortMembers_desk ..).trans (dropDeadlines_desk ..)
  · exact dropDeadlines_desk ..

theorem letGo_find {f : Fab} (tell : Bool) (st why : Nat) {x : Hoop} {k : Nat} (h : smFind x.wlm.fabs k = some f) (hi : f.init = true) :
    smFind (letGo f tell st why x).wlm.fabs k = some (gaveUp why tell f) := by
  have hp : isInit f.initiator f.fcid f = true := isInit_iff.2 ⟨hi, rfl, rfl⟩
  unfold letGo
  rw [smFind_updInit, fabs_of_pact (told_pact ..), h, Option.map_some, reviseIf, if_pos hp]

theorem initFab_letGo {f : Fab} (tell : Bool) (st why : Nat) {x : Hoop} {c : Nat} (h : isInit x.wlm.addr.toNat c f = true) :
    initFab (letGo f tell st why x) c = (initFab x c).map (gaveUp why tell) := by
  obtain ⟨-, ha, hc⟩ := isInit_iff.1 h
  unfold letGo
  rw [ha, hc, initFab_updInit (by rw [addr_of_pact (told_pact ..)]), initFab_of_pact (told_pact ..)]
  exact fun g hg => hg

end Sys2Proof.Machine
end

section
/-!
SUPPORT. A commit of a fabric commit as it is taken and withdrawn (R111 to R113, R409 to R411): the pending table loses it and what depends on it, and the
records, comparators and what a quiet module rests on stand.
-/

namespace Sys2Proof.Machine
open Sys2Proof

theorem Hoop.hush_of_desk {x y : Hoop} (h : x.desk = y.desk) : x.hush = y.hush := by
  have hp : x.part = y.part := congrArg Desk.part h
  have hl : x.lineOn = y.lineOn := lineOn_of_src (congrArg Desk.src h)
  have hk : x.dk.fcPar = y.dk.fcPar := congrArg Desk.fcPar h
  unfold Hoop.hush
  rw [hp, hl, hk]

/-! ## Withdrawal -/

/-- What is left of the pending table after a withdrawal, in a hoop whose lines stand. -/
structure Sheds (x y : Hoop) : Prop where
  part : y.part = x.part
  src : y.fc.src = x.fc.src
  fcPar : y.dk.fcPar = x.dk.fcPar
  keys : ∀ m ∈ y.cm.pending, ∃ n ∈ x.cm.pending, n.key = m.key

theorem Sheds.refl (x : Hoop) : Sheds x x := ⟨rfl, rfl, rfl, fun m hm => ⟨m, hm, rfl⟩⟩

theorem Sheds.trans {x y z : Hoop} (h : Sheds x y) (g : Sheds y z) : Sheds x z := by
  refine ⟨g.part.trans h.part, g.src.trans h.src, g.fcPar.trans h.fcPar, fun m hm => ?_⟩
  obtain ⟨n, hn, e⟩ := g.keys m hm
  obtain ⟨l, hl, e'⟩ := h.keys n hn
  exact ⟨l, hl, e'.trans e⟩

theorem Sheds.of_desk {x y : Hoop} (h : y.desk = x.desk) : Sheds x y := by
  refine ⟨congrArg Desk.part h, congrArg Desk.src h, congrArg Desk.fcPar h, fun m hm => ⟨m, ?_, rfl⟩⟩
  rwa [← Hoop.cm_of_desk h]

/-- Stages alone change. -/
theorem Sheds.of_restage {x y : Hoop} {f : Commit → StageSt} (h : y.desk = x.desk.restage f) : Sheds x y := by
  refine ⟨congrArg Desk.part h, congrArg Desk.src h, congrArg Desk.fcPar h, fun m hm => ?_⟩
  rw [show y.cm = (x.desk.restage f).cm from congrArg Desk.cm h] at hm
  obtain ⟨n, hn, rfl⟩ := mem_restage.1 hm
  exact ⟨n, hn, rfl⟩

theorem Sheds.hush {x y : Hoop} (h : Sheds x y) : y.hush = x.hush := by
  unfold Hoop.hush
  rw [h.part, lineOn_of_src h.src, h.fcPar]

/-- No pending commit has the key. -/
def Hoop.lacks (x : Hoop) (k : Nat) : Prop := ∀ m ∈ x.cm.pending, m.key ≠ k

theorem Sheds.lacks {x y : Hoop} (h : Sheds x y) {k : Nat} (hx : x.lacks k) : y.lacks k := by
  intro m hm e
  obtain ⟨n, hn, hk⟩ := h.keys m hm
  exact hx n hn (hk.trans e)

theorem fabEnd_desk (a c r why : Nat) (x : Hoop) : (fabEnd a c r why x).desk = x.desk := by
  unfold fabEnd
  split
  · rfl
  · split
    · rfl
    · split
      · rfl
      · exact (Hoop.desk_of_core (raiseEv_core ..)).trans (originate_desk ..)

/-- The part of a fabric commit that a withdrawal ends. -/
def endPart (c : Commit) (code : Nat) (x : Hoop) : Hoop :=
  match c.fcid with
  | some f => fabEnd (f % 4096) (f / 4096) (if code = 3 then 1 else 2) 0 x
  | none => x

theorem endPart_desk (c : Commit) (code : Nat) (x : Hoop) : (endPart c code x).desk = x.desk := by
  unfold endPart
  split
  · exact fabEnd_desk ..
  · rfl

/-- The commit as one module's alone. -/
def Commit.alone (c : Commit) : Commit := { c with fcid := none }

/-- A commit of a fabric commit is withdrawn as one of this module alone, and its part ends before the next stage is posted. -/
theorem withdraw_alone (c : Commit) (code : Nat) (note : Bool) (x : Hoop) : ∃ z,
    withdraw c.alone code note x = postStage z ∧ withdraw c code note x = postStage (endPart c code z) := ⟨_, rfl, rfl⟩

theorem withdraw_alone_sheds (c : Commit) (code : Nat) (note : Bool) (x : Hoop) :
    Sheds x (withdraw c.alone code note x) ∧ (withdraw c.alone code note x).lacks c.key := by
  obtain ⟨f, y, o, hy, -, -, -, hw⟩ := withdraw_outcome (c := c.alone) (code := code) note x rfl
  obtain ⟨g, hg⟩ := postStage_desk (putOutcome o y)
  obtain ⟨d, hd, hp, hs, hk, hgone, -⟩ := withdraw_desk (c := c.alone) (code := code) note x rfl
  have hcm : (withdraw c.alone code note x).cm = d.cm := congrArg Desk.cm hd
  refine ⟨⟨(congrArg Desk.part hd).trans hp, (congrArg Desk.src hd).trans hs, (congrArg Desk.fcPar hd).trans hk, fun m hm => ?_⟩, ?_⟩
  · have hpend : (putOutcome o y).cm.pending = ((x.desk.without c.key).restage f).cm.pending :=
      (Hoop.pending_of_rig (Hoop.rig_of_standing (putOutcome_standing ..))).trans (congrArg (fun d : Desk => d.cm.pending) hy)
    rw [hw] at hm
    obtain ⟨m1, hm1, e1⟩ := (Sheds.of_restage hg).keys m hm
    rw [hpend] at hm1
    obtain ⟨m2, hm2, rfl⟩ := mem_restage.1 hm1
    exact ⟨m2, (List.mem_filter.1 hm2).1, e1⟩
  · unfold Hoop.lacks
    rw [hcm]
    exact hgone

theorem postStage_keys {x : Hoop} {m : Commit} (h : m ∈ x.cm.pending) : ∃ n ∈ (postStage x).cm.pending, n.key = m.key := by
  obtain ⟨f, hf⟩ := postStage_desk x
  have hcm : (postStage x).cm = (x.desk.restage f).cm := congrArg Desk.cm hf
  rw [hcm]
  exact ⟨_, mem_restage.2 ⟨m, h, rfl⟩, rfl⟩

/-- A commit withdrawn stands no longer in the table, and nothing comes into it. -/
theorem withdraw_sheds (c : Commit) (code : Nat) (note : Bool) (x : Hoop) : Sheds x (withdraw c code note x) ∧ (withdraw c code note x).lacks c.key := by
  obtain ⟨z, hz, hw⟩ := withdraw_alone c code note x
  obtain ⟨hs, hl⟩ := withdraw_alone_sheds c code note x
  obtain ⟨f, hf⟩ := postStage_desk z
  obtain ⟨g, hg⟩ := postStage_desk (endPart c code z)
  rw [hz] at hs hl
  have hzs : Sheds (postStage z) z := by
    refine ⟨(congrArg Desk.part hf).symm, (congrArg Desk.src hf).symm, (congrArg Desk.fcPar hf).symm, fun m hm => ?_⟩
    exact postStage_keys hm
  have hws : Sheds (postStage z) (postStage (endPart c code z)) := hzs.trans ((Sheds.of_desk (endPart_desk ..)).trans (Sheds.of_restage hg))
  rw [hw]
  exact ⟨hs.trans hws, hws.lacks hl⟩

theorem withdrawDeps_sheds (fuel : Nat) (keys : List Nat) (code : Nat) (x : Hoop) : Sheds x (withdrawDeps fuel keys code x) := by
  induction fuel generalizing keys x with
  | zero => exact Sheds.refl x
  | succ fuel ih =>
    unfold withdrawDeps
    split
    · exact (withdraw_sheds ..).1.trans (ih ..)
    · exact Sheds.refl x

theorem abortCommit_sheds (c : Commit) (code : Nat) (note : Bool) (x : Hoop) : Sheds x (abortCommit c code note x) ∧ (abortCommit c code note x).lacks c.key := by
  obtain ⟨hs, hl⟩ := withdraw_sheds c code note x
  have hd := withdrawDeps_sheds (x.cm.pending.length + 1) [c.key] code (withdraw c code note x)
  exact ⟨hs.trans hd, hd.lacks hl⟩

theorem withdrawPart_sheds (a c code : Nat) (x : Hoop) : Sheds x (withdrawPart a c code x) := by
  unfold withdrawPart
  split
  · exact (abortCommit_sheds ..).1
  · exact Sheds.refl x

theorem withdrawPart_lacks {a c code : Nat} {x : Hoop} {d : Commit} (h : x.cm.pending.find? (fun d => d.fcid == some (fcKey a c)) = some d) :
    (withdrawPart a c code x).lacks d.key := by
  rw [withdrawPart_some h]
  exact (abortCommit_sheds ..).2

/-! ## The timebase through a withdrawal -/

theorem undoChange_tb (seq : Nat) (g : Change) (x : Hoop) : (undoChange seq g x).tb = x.tb := by
  unfold undoChange
  extract_lets t
  split
  · rfl
  · split
    · exact (tb_of_calm (threadEvent_calm ..)).trans rfl
    · exact tb_of_calm ((setSt_calm ..).trans (override_calm ..))
    · rfl

theorem fabEnd_tb (a c r why : Nat) (x : Hoop) : (fabEnd a c r why x).tb = x.tb := by
  unfold fabEnd
  split
  · rfl
  · split
    · rfl
    · split
      · rfl
      · exact (tb_of_calm (raiseEv_calm ..)).trans (originate_tb ..)

theorem withdraw_tb (c : Commit) (code : Nat) (note : Bool) (x : Hoop) : (withdraw c code note x).tb = x.tb := by
  unfold withdraw
  extract_lets cm0 x0 others x1 x2 x3 x4 x5
  have h1 : x1.tb = x.tb := by
    show (match c.stage with | .armed k => _ | .posted => _ | .waiting => _ : Hoop).tb = _
    split <;> rfl
  have h2 : x2.tb = x1.tb := foldl_keeps Hoop.tb _ (fun _ _ => undoChange_tb ..) _ x1
  have h3 : x3.tb = x2.tb := by
    show (if _ then raiseEv _ _ _ x2 else x2 : Hoop).tb = x2.tb
    split
    · exact raiseEv_tb ..
    · rfl
  have h4 : x4.tb = x3.tb := tb_of_calm (putOutcome_calm ..)
  have h5 : x5.tb = x4.tb := by
    show (match c.fcid with | some f => _ | none => x4 : Hoop).tb = _
    split
    · exact fabEnd_tb ..
    · rfl
  exact (postStage_tb x5).trans (h5.trans (h4.trans (h3.trans (h2.trans h1))))

theorem withdrawDeps_tb (fuel : Nat) (keys : List Nat) (code : Nat) (x : Hoop) : (withdrawDeps fuel keys code x).tb = x.tb := by
  induction fuel generalizing keys x with
  | zero => rfl
  | succ fuel ih =>
    unfold withdrawDeps
    split
    · exact (ih ..).trans (withdraw_tb ..)
    · rfl

theorem withdrawPart_tb (a c code : Nat) (x : Hoop) : (withdrawPart a c code x).tb = x.tb := by
  unfold withdrawPart
  split
  · exact (withdrawDeps_tb ..).trans (withdraw_tb ..)
  · rfl

/-! ## A commit taken -/

/-- The records of fabric commits and the timebase. -/
def Hoop.seat (x : Hoop) : Wlm × Tb := (x.pact, x.tb)

theorem seat_of_calm {x y : Hoop} (h : x.calm = y.calm) : x.seat = y.seat := (congrArg Hoop.seat h :)

theorem pact_of_seat {x y : Hoop} (h : x.seat = y.seat) : x.pact = y.pact := congrArg Prod.fst h

theorem tb_of_seat {x y : Hoop} (h : x.seat = y.seat) : x.tb = y.tb := congrArg Prod.snd h

theorem unstage_seat (x : Hoop) : (unstage x).seat = x.seat := by
  unfold unstage
  dsimp only
  repeat' split
  all_goals rfl

theorem unstagePrk_seat (x : Hoop) : (unstagePrk x).seat = x.seat := rfl

theorem postStage_seat (x : Hoop) : (postStage x).seat = x.seat := by
  unfold postStage
  repeat' split
  all_goals rfl

theorem stageChange_calm (seq ring epoch : Nat) (y : Hoop) (g : Change) : (stageChange seq ring epoch y g).calm = y.calm := by
  unfold stageChange
  split
  · exact (override_calm ..).trans ((threadEvent_calm ..).trans (setThread_calm ..))
  · exact (setSt_calm ..).trans ((override_calm ..).trans (setThread_calm ..))
  · rfl

theorem takeCommit_seat (seq ring tenant ens : Nat) (c : Compiled) (fcid : Option Nat) (x : Hoop) : (takeCommit seq ring tenant ens c fcid x).seat = x.seat := by
  unfold takeCommit
  extract_lets deps before x1 x2 m cm x3 x4 x5
  have h1 : x1.seat = x.seat := by
    show (if (before && !c.delta.isEmpty) = true then unstage x else x).seat = _
    split
    · exact unstage_seat x
    · rfl
  have h2 : x2.seat = x1.seat := by
    show (if (x1.prk.nextStaged && !c.delta.isEmpty && decide (x1.tb.cntOf ens < x1.prk.nextEpoch)) = true then unstagePrk x1 else x1).seat = _
    split
    · exact unstagePrk_seat x1
    · rfl
  have h3 : x3.seat = x2.seat := rfl
  have h4 : x4.seat = x3.seat := by
    refine foldl_keeps Hoop.seat _ (fun y q => ?_) _ x3
    rfl
  have h5 : x5.seat = x4.seat := foldl_keeps Hoop.seat _ (fun y g => seat_of_calm (stageChange_calm seq ring m.epoch y g)) _ x4
  exact (postStage_seat _).trans ((seat_of_calm (pmcRaw_calm ..)).trans (h5.trans (h4.trans (h3.trans (h2.trans h1)))))

theorem takeCommit_hush (seq ring tenant ens : Nat) (c : Compiled) (fcid : Option Nat) (x : Hoop) : (takeCommit seq ring tenant ens c fcid x).hush = x.hush := by
  obtain ⟨b, hb, -⟩ := takeCommit_desk seq ring tenant ens c fcid x
  have hp : (takeCommit seq ring tenant ens c fcid x).part = x.part := congrArg Desk.part hb
  have hl : (takeCommit seq ring tenant ens c fcid x).lineOn = x.lineOn := lineOn_of_src (congrArg Desk.src hb)
  have hk : (takeCommit seq ring tenant ens c fcid x).dk.fcPar = x.dk.fcPar := congrArg Desk.fcPar hb
  unfold Hoop.hush
  rw [hp, hl, hk]

/-- A commit that stands in the table still stands while the table stays. -/
theorem takeCommit_holds (seq ring tenant ens : Nat) (c : Compiled) (fcid : Option Nat) (x : Hoop) {y : Hoop}
    (h : y.cm = (takeCommit seq ring tenant ens c fcid x).cm) : holdsCommit y seq ring c ens := by
  obtain ⟨b, hb, m, hm, hrec⟩ := takeCommit_desk seq ring tenant ens c fcid x
  refine ⟨m, ?_, hrec⟩
  rw [h, show (takeCommit seq ring tenant ens c fcid x).cm = b from congrArg Desk.cm hb]
  exact hm

/-! ## A record taken -/

theorem takeSlot_find (s : Nat) (f : Fab) (x : Hoop) : smFind (takeSlot s f x).wlm.fabs s = some f := by
  unfold takeSlot
  split
  · exact smFind_smPut_self ..
  · exact smFind_smPut_self ..

theorem takeSlot_tb (s : Nat) (f : Fab) (x : Hoop) : (takeSlot s f x).tb = x.tb := by
  unfold takeSlot
  split <;> rfl

theorem takeSlot_fcInit (s : Nat) (f : Fab) (x : Hoop) : (takeSlot s f x).wlm.fcInit = x.wlm.fcInit := by
  unfold takeSlot
  split <;> rfl

theorem noteChains_seat (a c : Nat) (l : List Nat) (es : List Edit) (x : Hoop) : (noteChains a c l es x).seat = x.seat := by
  unfold noteChains
  refine foldl_keeps Hoop.seat _ (fun y e => ?_) _ x
  rfl

end Sys2Proof.Machine
end

section
/-!
SUPPORT. Fabric commits at the initiator (R405 to R413): what a FABRIC_COMMIT, a READY, a DONE and the deadlines make of the record.
-/

namespace Sys2Proof.Machine
open Sys2Proof

/-! ## What a frame's header and route rest on -/

/-- What the header, the route and the room of a frame rest on: the Walimin block without the records of fabric commits and the chains. -/
def Hoop.mast (x : Hoop) : Part × Bool × Wlm := (x.part, x.isB, { x.wlm with fabs := [], ended := [], fcInit := 0, chains := [] })

theorem nextFrame_of_mast {x y : Hoop} (h : x.mast = y.mast) (dst ty : Nat) (p : Bytes) : nextFrame x dst ty p = nextFrame y dst ty p := by
  have hb : x.isB = y.isB := congrArg (fun q => q.2.1) h
  have ha : x.wlm.addr = y.wlm.addr := (congrArg (fun q => Wlm.addr q.2.2) h :)
  have hs : x.wlm.seq = y.wlm.seq := (congrArg (fun q => Wlm.seq q.2.2) h :)
  unfold nextFrame Hoop.wlmOrigin Hoop.origin
  rw [hb, ha, hs]

theorem routeTo_of_mast {x y : Hoop} (h : x.mast = y.mast) : x.routeTo = y.routeTo := by
  have ht : x.wlm.table = y.wlm.table := (congrArg (fun q => Wlm.table q.2.2) h :)
  have hl : x.wlm.links = y.wlm.links := (congrArg (fun q => Wlm.links q.2.2) h :)
  unfold Hoop.routeTo Hoop.rt Hoop.link
  rw [ht, hl]

theorem roomFor_of_mast {x y : Hoop} (h : x.mast = y.mast) : roomFor x = roomFor y := by
  have ht : x.wlm.tx = y.wlm.tx := (congrArg (fun q => Wlm.tx q.2.2) h :)
  unfold roomFor queued
  rw [ht]

theorem mast_tb (x : Hoop) (t : Tb) : ({ x with tb := t } : Hoop).mast = x.mast := rfl

theorem raiseEv_mast (src : Nat) (p : List Nat) (sc : Scope) (x : Hoop) : (raiseEv src p sc x).mast = x.mast := by
  unfold Hoop.mast
  rw [raiseEv_wlm, Hoop.part_of_calm (raiseEv_calm ..), Hoop.isB_of_calm (raiseEv_calm ..)]

theorem armAt_mast (k ns : Nat) (x : Hoop) : (armAt k ns x).mast = x.mast := by
  rcases armAt_cases k ns x with ⟨c, l, h⟩ | ⟨p, h⟩
  · rw [h]; exact mast_tb ..
  · rw [h]; exact raiseEv_mast ..

theorem dropArm_mast (k : Nat) (x : Hoop) : (dropArm k x).mast = x.mast := rfl

theorem dropDeadlines_mast (f : Fab) (x : Hoop) : (dropDeadlines f x).mast = x.mast := by
  unfold dropDeadlines
  split
  · exact dropArm_mast ..
  · rfl

theorem updInit_mast (a c : Nat) (g : Fab → Fab) (x : Hoop) : (updInit a c g x).mast = x.mast := rfl

theorem takeSlot_mast (s : Nat) (f : Fab) (x : Hoop) : (takeSlot s f x).mast = x.mast := by
  unfold takeSlot
  split <;> rfl

theorem gate_tb (x : Hoop) (t : Tb) : ({ x with tb := t } : Hoop).gate = x.gate := rfl

theorem armAt_gate (k ns : Nat) (x : Hoop) : (armAt k ns x).gate = x.gate := by
  rcases armAt_cases k ns x with ⟨c, l, h⟩ | ⟨p, h⟩
  · rw [h]; exact gate_tb ..
  · rw [h]; exact raiseEv_gate ..

theorem dropArm_gate (k : Nat) (x : Hoop) : (dropArm k x).gate = x.gate := rfl

theorem takeSlot_gate (s : Nat) (f : Fab) (x : Hoop) : (takeSlot s f x).gate = x.gate := by
  unfold takeSlot
  split
  · exact gate_wlm rfl
  · exact gate_wlm rfl

/-! ## FABRIC_COMMIT -/

/-- The record of a fabric commit that the hoop initiates. -/
def startRec (fcid ens : Nat) (ms : List (Nat × List Bytes)) (own : Option Nat) (x : Hoop) : Fab :=
  { st := 1, init := true, fcid := fcid, initiator := x.wlm.addr.toNat, members := ms.map (·.1), readyIn := [], results := [], epoch := x.tb.cntOf ens,
    epochNs := ens, localSeq := own, reason := 0 }

/-- A fabric commit counted. -/
def countInit (x : Hoop) : Hoop := { x with wlm := { x.wlm with fcInit := satInc x.wlm.fcInit } }

/-- The record in its slot with the deadline at E - 20 us. -/
def enrol (fcid ens slot : Nat) (ms : List (Nat × List Bytes)) (own : Option Nat) (x : Hoop) : Hoop :=
  armAt (9 + slot) (ens - 20000) (dropArm (9 + slot) (takeSlot slot (startRec fcid ens ms own x) (countInit x)))

theorem startFabric_eq (fcid ens slot : Nat) (ms : List (Nat × List Bytes)) (es : List Edit) (x : Hoop) : startFabric fcid ens slot ms es x =
    ms.foldl (fun y q => originate q.1 4 (proposePayload fcid ens ms.length (x.wlm.addr.toNat :: ms.map (·.1)) q.2) y)
      (noteChains x.wlm.addr.toNat fcid (x.wlm.addr.toNat :: ms.map (·.1)) es (enrol fcid ens slot ms (if es.isEmpty then none else some fcid) x)) := rfl

theorem enrol_pact (fcid ens slot : Nat) (ms : List (Nat × List Bytes)) (own : Option Nat) (x : Hoop) :
    (enrol fcid ens slot ms own x).pact = (takeSlot slot (startRec fcid ens ms own x) (countInit x)).pact := (armAt_pact ..).trans (dropArm_pact ..)

/-- The record stands in its slot, and the fabric commit is counted. -/
theorem startFabric_pact (fcid ens slot : Nat) (ms : List (Nat × List Bytes)) (es : List Edit) {x y : Hoop} (h : y.pact = (startFabric fcid ens slot ms es x).pact) :
    y.wlm.fcInit = satInc x.wlm.fcInit ∧ smFind y.wlm.fabs slot = some (startRec fcid ens ms (if es.isEmpty then none else some fcid) x) := by
  have hp : y.pact = (takeSlot slot (startRec fcid ens ms (if es.isEmpty then none else some fcid) x) (countInit x)).pact := by
    rw [h, startFabric_eq]
    refine (foldl_keeps Hoop.pact _ (fun _ _ => originate_pact ..) _ _).trans ?_
    exact (pact_of_seat (noteChains_seat ..)).trans (enrol_pact ..)
  rw [fcInit_of_pact hp, fabs_of_pact hp, takeSlot_find, takeSlot_fcInit]
  exact ⟨rfl, rfl⟩

theorem enrol_mast (fcid ens slot : Nat) (ms : List (Nat × List Bytes)) (own : Option Nat) (x : Hoop) : (enrol fcid ens slot ms own x).mast = x.mast :=
  (armAt_mast ..).trans ((dropArm_mast ..).trans ((takeSlot_mast ..).trans rfl))

theorem enrol_gate (fcid ens slot : Nat) (ms : List (Nat × List Bytes)) (own : Option Nat) (x : Hoop) : (enrol fcid ens slot ms own x).gate = x.gate :=
  (armAt_gate ..).trans ((dropArm_gate ..).trans ((takeSlot_gate ..).trans (gate_wlm rfl)))

theorem noteChains_nil (a c : Nat) (l : List Nat) (x : Hoop) : noteChains a c l [] x = x := rfl

/-- One member without a local part is sent its PROPOSE. -/
theorem startFabric_one (fcid ens slot a : Nat) (es : List Bytes) (x : Hoop) : startFabric fcid ens slot [(a, es)] [] x =
    originate a 4 (proposePayload fcid ens 1 [x.wlm.addr.toNat, a] es) (enrol fcid ens slot [(a, es)] none x) := by
  rw [startFabric_eq, noteChains_nil, List.foldl_cons, List.foldl_nil]
  rfl

section
variable {k : Ctx} {x : Hoop} {loc : List Bytes} {ms : List (Nat × List Bytes)} {slot ens : Nat}

/-- The epoch of a FABRIC_COMMIT: the one named, or the earliest that is safe. -/
def fabEpoch (k : Ctx) (x : Hoop) (ms : List (Nat × List Bytes)) : Nat :=
  if (hdrOf k.cmd.bytes).hasEpoch then (hdrOf k.cmd.bytes).epochNs else fabEarliest x (maxL (ms.map (fun q => distTo x k.peer q.1)))

/-- Past the checks of R406 the entries of its own decide. -/
theorem fabricVerb_passed (harg : fabArg (paramOf k.cmd.bytes) = some (loc, ms))
    (hslot : freeSlot x = some slot) (haddr : x.wlm.addr ≠ 0) (hvalid : x.tb.timeValid = true)
    (hfar : (ms.map (fun q => distTo x k.peer q.1)).any (· == 16) = false)
    (hens : ens = fabEpoch k x ms) (hlead : x.tb.ptpOf x.now + 50000 ≤ ens) : fabricVerb.run k x =
      if (loc.map fabEdit).isEmpty then ({ status := 0, epochNs := some ens }, startFabric k.seq ens slot ms [] x)
      else match decideCommit x { ring := 0 } true true ens (loc.map fabEdit) with
        | .refuse st i => ({ status := st, result := i }, x)
        | .tagLimit t _ => ({ status := 14 }, raiseEv 37 [t] .hoop x)
        | .accept c e =>
          ({ status := 0, result := commitResult c, epochNs := some e },
            startFabric k.seq e slot ms (loc.map fabEdit) (takeCommit k.seq 0 0 e c (some (fcKey x.wlm.addr.toNat k.seq)) x)) := by
  have hlate : ¬ ens < x.tb.ptpOf x.now + 50000 := Nat.not_lt.mpr hlead
  have haddr' : ¬ (x.wlm.addr = 0 ∨ (!x.tb.timeValid) = true) := by
    rintro (h | h)
    · exact haddr h
    · rw [hvalid] at h
      exact absurd h (by decide)
  rw [fabEpoch] at hens
  unfold fabricVerb
  dsimp only
  rw [harg]
  dsimp only
  rw [← hens, hslot]
  dsimp only
  rw [if_neg haddr', hfar, if_neg (by decide), if_neg hlate] <;> rfl

/-- A FABRIC_COMMIT without entries of its own starts at once. -/
theorem fabricVerb_start (harg : fabArg (paramOf k.cmd.bytes) = some ([], ms))
    (hslot : freeSlot x = some slot) (haddr : x.wlm.addr ≠ 0) (hvalid : x.tb.timeValid = true)
    (hfar : (ms.map (fun q => distTo x k.peer q.1)).any (· == 16) = false)
    (hens : ens = fabEpoch k x ms) (hlead : x.tb.ptpOf x.now + 50000 ≤ ens) : (fabricVerb.run k x).2 = startFabric k.seq ens slot ms [] x := by
  rw [fabricVerb_passed harg hslot haddr hvalid hfar hens hlead]
  rfl

/-- Entries of its own that are accepted are taken, and the fabric commit starts. -/
theorem fabricVerb_takes {e : Nat} {cmp : Compiled} (harg : fabArg (paramOf k.cmd.bytes) = some (loc, ms))
    (hslot : freeSlot x = some slot) (haddr : x.wlm.addr ≠ 0) (hvalid : x.tb.timeValid = true)
    (hfar : (ms.map (fun q => distTo x k.peer q.1)).any (· == 16) = false) (hloc : loc ≠ [])
    (hens : ens = fabEpoch k x ms) (hlead : x.tb.ptpOf x.now + 50000 ≤ ens)
    (ha : decideCommit x { ring := 0 } true true ens (loc.map fabEdit) = .accept cmp e) : (fabricVerb.run k x).2 =
      startFabric k.seq e slot ms (loc.map fabEdit) (takeCommit k.seq 0 0 e cmp (some (fcKey x.wlm.addr.toNat k.seq)) x) := by
  have hemp : ¬ (loc.map fabEdit).isEmpty = true := by
    rw [List.isEmpty_map]
    exact fun e => hloc (List.isEmpty_iff.1 e)
  rw [fabricVerb_passed harg hslot haddr hvalid hfar hens hlead, if_neg hemp, ha]

end

/-- Every member's address is one that a module may hold. -/
theorem fabCheck_addr {k : Ctx} {x : Hoop} {loc : List Bytes} {ms : List (Nat × List Bytes)} (harg : fabArg (paramOf k.cmd.bytes) = some (loc, ms))
    (h : fabCheck k x = true) {q : Nat × List Bytes} (hq : q ∈ ms) : q.1 < bcast := by
  unfold fabCheck at h
  rw [harg] at h
  simp only [Bool.and_eq_true] at h
  obtain ⟨⟨-, hms⟩, -⟩ := h
  have hm := List.all_eq_true.1 hms q hq
  simp only [Bool.and_eq_true, decide_eq_true_eq] at hm
  obtain ⟨⟨-, -, h4⟩, -⟩ := hm
  unfold bcast
  omega

/-! ## READY and GO -/

/-- The hoop whose record says that GO is sent. -/
def goSent (f : Fab) (x : Hoop) : Hoop := updInit f.initiator f.fcid (fun _ => { f with st := 3 }) (dropDeadlines f x)

theorem sendGo_eq (f : Fab) (x : Hoop) : sendGo f x = f.members.foldl (fun y a => originate a 6 (leBytes 6 f.fcid ++ [0, 0]) y) (goSent f x) := rfl

theorem sendGo_desk (f : Fab) (x : Hoop) : (sendGo f x).desk = x.desk :=
  (Hoop.desk_foldl _ (fun _ _ => originate_desk ..) _ _).trans ((updInit_desk ..).trans (dropDeadlines_desk ..))

theorem initFab_sendGo {f g : Fab} {x : Hoop} {c : Nat} (h : initFab x c = some f) (hg : isInit x.wlm.addr.toNat c g = true) :
    initFab (sendGo g x) c = some { g with st := 3 } := by
  obtain ⟨hi, ha, hc⟩ := isInit_iff.1 hg
  have hp : (sendGo g x).pact = (goSent g x).pact :=
    foldl_keeps Hoop.pact _ (fun _ _ => originate_pact ..) _ _
  rw [initFab_of_pact hp, goSent, hc, initFab_updInit (by rw [ha, addr_of_pact (dropDeadlines_pact ..)]), initFab_of_pact (dropDeadlines_pact ..), h]
  · rfl
  · exact fun _ _ => isInit_iff.2 ⟨hi, rfl, rfl⟩

/-- The record with one READY more. -/
def withReady (src : Nat) (f : Fab) : Fab := { f with readyIn := f.readyIn ++ [src] }

theorem readyIn_eq {b : Bytes} {x : Hoop} {f g : Fab} (hf : initFab x (field (frPayload b) 0 6) = some f) (h1 : f.st = 1) (hm : frSrc b ∈ f.members)
    (hr : frSrc b ∉ f.readyIn) (hg : g = withReady (frSrc b) f) : readyIn b x =
      if !f.members.all (fun a => g.readyIn.contains a) then updInit f.initiator (field (frPayload b) 0 6) (fun _ => g) x
      else if mayGo x f then sendGo g x else updInit f.initiator (field (frPayload b) 0 6) (fun _ => { g with st := 2 }) x := by
  subst hg
  have hin : ¬ (f.st ≠ 1 ∨ (!f.members.contains (frSrc b)) = true ∨ f.readyIn.contains (frSrc b) = true) := by
    simp [h1, hm, hr]
  unfold readyIn
  dsimp only
  rw [hf]
  dsimp only
  rw [if_neg hin]
  rfl

theorem readyIn_desk (b : Bytes) (x : Hoop) : (readyIn b x).desk = x.desk := by
  unfold readyIn
  extract_lets c src
  split
  · rfl
  · split
    · rfl
    · extract_lets g full
      split
      · exact updInit_desk ..
      · split
        · exact sendGo_desk ..
        · exact updInit_desk ..

theorem readyIn_initFab {b : Bytes} {x : Hoop} {f g : Fab} {c : Nat} (hc : c = field (frPayload b) 0 6) (hf : initFab x c = some f) (h1 : f.st = 1)
    (hm : frSrc b ∈ f.members) (hr : frSrc b ∉ f.readyIn) (hg : g = withReady (frSrc b) f) :
    initFab (readyIn b x) c = some (if f.members.all (fun a => g.readyIn.contains a) then { g with st := if mayGo x f then 3 else 2 } else g) := by
  subst hc
  obtain ⟨hi, ha, hc⟩ := isInit_iff.1 (initFab_isInit hf)
  have hgi : isInit x.wlm.addr.toNat (field (frPayload b) 0 6) g = true := isInit_iff.2 (by subst hg; exact ⟨hi, ha, hc⟩)
  have hupd : ∀ n, initFab (updInit f.initiator (field (frPayload b) 0 6) (fun _ => { g with st := n }) x) (field (frPayload b) 0 6) = some { g with st := n } := by
    intro n
    rw [initFab_updInit ha, hf]
    · rfl
    · intro _ _
      rw [ha]
      exact hgi
  rw [readyIn_eq hf h1 hm hr hg]
  cases f.members.all (fun a => g.readyIn.contains a) with
  | false => exact hupd g.st
  | true =>
    cases hgo : mayGo x f with
    | true => exact initFab_sendGo hf hgi
    | false => exact hupd 2

/-! ## Ends -/

/-- The record with one end more. -/
def withEnd (src result : Nat) (f : Fab) : Fab := { f with results := f.results ++ [(src, result)] }

theorem noteEnd_eq {c src r : Nat} {x : Hoop} {f g : Fab} (hf : initFab x c = some f) (hm : src ∈ f.members)
    (hr : f.results.any (fun q => q.1 == src) = false) (hg : g = withEnd src r f) : noteEnd c src r x =
      if allDone g && (g.localSeq.isNone || g.st != 3) then fabOutcome g (updInit f.initiator c (fun _ => g) x) else updInit f.initiator c (fun _ => g) x := by
  subst hg
  have hin : ¬ ((!f.members.contains src || f.results.any (fun q => q.1 == src)) = true) := by
    simp only [hr, Bool.or_false, Bool.not_eq_true', List.contains_eq_mem, decide_eq_false_iff_not, not_not]
    exact hm
  unfold noteEnd
  rw [hf]
  dsimp only
  rw [if_neg hin]
  rfl

theorem noteEnd_initFab {c src r : Nat} {x : Hoop} {f g : Fab} (hf : initFab x c = some f) (hm : src ∈ f.members)
    (hr : f.results.any (fun q => q.1 == src) = false) (hg : g = withEnd src r f) :
    initFab (noteEnd c src r x) c = if allDone g && (g.localSeq.isNone || g.st != 3) then none else some g := by
  obtain ⟨hi, ha, hc⟩ := isInit_iff.1 (initFab_isInit hf)
  have hgi : isInit x.wlm.addr.toNat c g = true := isInit_iff.2 (by subst hg; exact ⟨hi, ha, hc⟩)
  have hupd : initFab (updInit f.initiator c (fun _ => g) x) c = some g := by
    rw [initFab_updInit ha, hf]
    · rfl
    · intro _ _
      rw [ha]
      exact hgi
  rw [noteEnd_eq hf hm hr hg]
  split
  · exact initFab_fabOutcome hgi
  · exact hupd

theorem fabOutcome_desk (f : Fab) (x : Hoop) : (fabOutcome f x).desk = x.desk := by
  unfold fabOutcome
  extract_lets states all out gone w y
  exact (Hoop.desk_of_core (raiseEv_core ..)).trans rfl

theorem noteEnd_desk (c src r : Nat) (x : Hoop) : (noteEnd c src r x).desk = x.desk := by
  unfold noteEnd
  split
  · rfl
  · split
    · rfl
    · extract_lets g y
      split
      · exact (fabOutcome_desk ..).trans (updInit_desk ..)
      · exact updInit_desk ..

/-- Every member has loaded. -/
def allLoaded (f : Fab) : Bool := (f.st == 3 || f.st == 4) && f.members.all (fun a => (f.results.find? (fun q => q.1 == a)).map (·.2) == some 0)

theorem fabOutcome_notComplete (f : Fab) (x : Hoop) :
    (fabOutcome f x).wlm.fcNotComplete = if allLoaded f then x.wlm.fcNotComplete else satInc x.wlm.fcNotComplete := by
  unfold fabOutcome
  extract_lets states all out gone w y
  have hall : all = allLoaded f := by
    show ((f.st == 3 || f.st == 4) && (f.members.map _).all (· == 0)) = _
    rw [allLoaded, List.all_map]
    congr 2
    funext a
    show ((match f.results.find? (fun q => q.1 == a) with | some q => q.2 | none => 3) == 0) = _
    cases f.results.find? (fun q => q.1 == a) <;> rfl
  have hout : out = 0 ↔ all = true := by
    show (if all then 0 else if f.aborted then 2 else 1) = 0 ↔ _
    cases all with
    | true => simp
    | false => cases f.aborted <;> simp
  rw [raiseEv_wlm]
  show (if out = 0 then _ else _) = _
  rw [← hall]
  by_cases ho : all = true
  · rw [if_pos ho, if_pos (hout.2 ho)]
  · rw [if_neg ho, if_neg (fun e => ho (hout.1 e))]

/-! ## Deadlines -/

theorem giveUp_find {f : Fab} (tell : Bool) (st why : Nat) {x : Hoop} {k : Nat} (h : smFind x.wlm.fabs k = some f) (hi : f.init = true)
    (hn : x.cm.pending.any (fun d => d.fcid == some (fcKey f.initiator f.fcid)) = false) :
    smFind (giveUp f tell st why x).wlm.fabs k = some (gaveUp why tell f) := by
  rw [giveUp_eq, withdrawPart_none (by rw [Hoop.cm_of_desk (letGo_desk ..)]; exact hn)]
  exact letGo_find tell st why h hi

theorem giveUp_sheds (f : Fab) (tell : Bool) (st why : Nat) (x : Hoop) : Sheds x (giveUp f tell st why x) := by
  rw [giveUp_eq]
  exact (Sheds.of_desk (letGo_desk ..)).trans (withdrawPart_sheds ..)

theorem giveUp_lacks {f : Fab} (tell : Bool) (st why : Nat) {x : Hoop} {d : Commit}
    (h : x.cm.pending.find? (fun d => d.fcid == some (fcKey f.initiator f.fcid)) = some d) : (giveUp f tell st why x).lacks d.key := by
  rw [giveUp_eq]
  exact withdrawPart_lacks (by rw [Hoop.cm_of_desk (letGo_desk ..)]; exact h)

theorem readyDeadline_eq {x : Hoop} {k : Nat} {f : Fab} (h : smFind x.wlm.fabs k = some f) (hi : f.init = true) (h1 : f.st = 1) (ht : f.epoch ≤ x.now + 20000) :
    readyDeadline k x = giveUp f true 11 2 (cmpFireDue (9 + k) x) := by
  unfold readyDeadline
  rw [h]
  dsimp only
  rw [hi, decide_eq_true ht, if_neg (by decide), if_pos h1]

theorem goSendDeadline_eq {x : Hoop} {k : Nat} {f : Fab} (h : smFind x.wlm.fabs k = some f) (hi : f.init = true) (h1 : f.st = 1 ∨ f.st = 2)
    (ht : f.epoch ≤ x.now + 10000) : goSendDeadline k x = giveUp f false 0 0 (cmpFireDue (9 + k) x) := by
  have hst : (f.st == 1 || f.st == 2) = true := by
    rcases h1 with e | e
    · rw [e]; rfl
    · rw [e]; rfl
  unfold goSendDeadline
  rw [h]
  dsimp only
  rw [hi, hst, decide_eq_true ht]
  rfl

theorem outcomeTimeout_eq {x : Hoop} {k : Nat} {f : Fab} (hk : k < 5) (h : smFind x.wlm.fabs k = some f) (hi : f.init = true) (ht : f.epoch + 200000 ≤ x.now) :
    outcomeTimeout k x = fabOutcome f x := by
  unfold outcomeTimeout
  rw [if_pos hk, h]
  dsimp only
  rw [hi, decide_eq_true ht]
  rfl

end Sys2Proof.Machine
end

section
/-!
SUPPORT. The rows of fabric commits at the initiator (O59).
-/

namespace Sys2Proof.Machine
open Sys2Proof

/-! ## Rows whose frame is delivered, and rows that withdraw -/

/-- What a delivered frame's effect makes of the blocks that `settle` leaves alone holds after the row. -/
theorem gives_delivered {i : Instr} {s : State} {h : HoopId} {x : Hoop} {k ty : Nat} {b : Bytes} {m : SMap Win} {f : Hoop → Hoop} {P : Hoop → Prop}
    (hx : exec i s = .next (settle (rxFrame ty h k b f s))) (hf : ∀ x, (f x).site = x.site) (e : s.here h x) (hd : delivered x k b ty m = true)
    (hP : ∀ y : Hoop, y.calm = (f (received k m x)).calm → P y) : CompletesWith i s h P := by
  rw [rxFrame_delivered e hd] at hx
  refine gives_next hx fun y hy => hP y ?_
  rw [hy, delivered_hoop hf e hd]

/-- In a quiet module, of the core. -/
theorem gives_delivered_core {i : Instr} {s : State} {h : HoopId} {x : Hoop} {k ty : Nat} {b : Bytes} {m : SMap Win} {f : Hoop → Hoop} {P : Hoop → Prop}
    (hx : exec i s = .next (settle (rxFrame ty h k b f s))) (hf : ∀ x, (f x).site = x.site) (hq : ∀ x, (f x).hush = x.hush) (e : s.here h x)
    (q : s.quiet = true) (hd : delivered x k b ty m = true)
    (hP : ∀ y : Hoop, y.calm = (f (received k m x)).calm → y.core = (f (received k m x)).core → P y) : CompletesWith i s h P := by
  rw [rxFrame_delivered e hd] at hx
  refine ⟨_, hx, hP _ ?_ ?_⟩
  · rw [settle_calm, delivered_hoop hf e hd]
  · rw [settle_core _ (deliver_quiet hq q b h k), delivered_hoop hf e hd]

/-- In a quiet module, of the frames queued. -/
theorem gives_delivered_sends {i : Instr} {s : State} {h : HoopId} {x : Hoop} {k ty l : Nat} {b fr : Bytes} {m : SMap Win} {f : Hoop → Hoop}
    (hx : exec i s = .next (settle (rxFrame ty h k b f s))) (hf : ∀ x, (f x).site = x.site) (hq : ∀ x, (f x).hush = x.hush) (e : s.here h x)
    (q : s.quiet = true) (hd : delivered x k b ty m = true) (hs : sends (f (received k m x)) l fr) : CompletesWith i s h (fun y => sends y l fr) := by
  rw [rxFrame_delivered e hd] at hx
  refine gives_next_sends hx (deliver_quiet hq q b h k) ?_
  rw [delivered_hoop hf e hd]
  exact hs

/-- A row that withdraws a commit in a quiet module. -/
theorem gives_lacks {i : Instr} {s : State} {h : HoopId} {x : Hoop} {key : Nat} (f : Hoop → Hoop) (e : s.here h x) (q : s.quiet = true)
    (hx : exec i s = .next (s.act h f)) (hs : Sheds x (f x)) (hl : (f x).lacks key) : CompletesWith i s h (fun y => ∀ e ∈ y.cm.pending, e.key ≠ key) := by
  refine gives_core f e q hx hs.part hs.src hs.fcPar fun y hy => ?_
  rw [Hoop.cm_of_desk (Hoop.desk_of_core hy)]
  exact hl

/-! ## FABRIC_COMMIT -/

theorem fabEarliest_breakRun (x : Hoop) (n : Nat) : fabEarliest (breakRun 0 0x31 x) n = fabEarliest x n := by
  unfold fabEarliest Hoop.now
  rw [breakRun_tb]

/-- A FABRIC_COMMIT without entries of its own in the context of its ring. -/
theorem ran_start {s : State} {h : HoopId} {c : ReadCmd} {ms : List (Nat × List Bytes)} {slot ens : Nat} (harg : fabArg (paramOf c.bytes) = some ([], ms))
    (hslot : freeSlot (s.hoop h) = some slot) (haddr : (s.hoop h).wlm.addr ≠ 0) (hvalid : (s.hoop h).tb.timeValid = true)
    (hfar : (ms.map (fun q => distTo (s.hoop h) (s.hoop (other h)) q.1)).any (· == 16) = false)
    (hens : ens = (if (hdrOf c.bytes).hasEpoch then (hdrOf c.bytes).epochNs else fabEarliest (s.hoop h) (maxL (ms.map (fun q => distTo (s.hoop h) (s.hoop (other h)) q.1)))))
    (hlead : (s.hoop h).tb.ptpOf (s.hoop h).now + 50000 ≤ ens) :
    (ran s h 0 0x31 c fabricVerb).2 = startFabric ((s.hoop h).nextCplSeq 0) ens slot ms [] (breakRun 0 0x31 (s.hoop h)) := by
  refine fabricVerb_start (k := ctxOf s h 0 c) harg ((freeSlot_breakRun _).trans hslot) (by rwa [breakRun_wlm]) (by rwa [breakRun_tb]) ?_ ?_
    (by rwa [Hoop.now, breakRun_tb])
  · simp only [distTo_breakRun]
    exact hfar
  · unfold fabEpoch
    simp only [distTo_breakRun, fabEarliest_breakRun]
    exact hens

theorem startRec_breakRun (fcid ens : Nat) (ms : List (Nat × List Bytes)) (own : Option Nat) (x : Hoop) :
    startRec fcid ens ms own (breakRun 0 0x31 x) = startRec fcid ens ms own x := by
  unfold startRec
  rw [breakRun_wlm, breakRun_tb]

theorem breakRun_gate (r op : Nat) (x : Hoop) : (breakRun r op x).gate = x.gate := Hoop.gate_of_office (breakRun_office ..)

theorem breakRun_mast (r op : Nat) (x : Hoop) : (breakRun r op x).mast = x.mast := by
  unfold Hoop.mast
  rw [breakRun_wlm, breakRun_isB, breakRun_part]

/-- The local part of a FABRIC_COMMIT that is accepted, at the epoch named or at the earliest safe one. -/
theorem ran_accept {s : State} {h : HoopId} {c : ReadCmd} {loc : List Bytes} {ms : List (Nat × List Bytes)} {slot ens e : Nat} {cmp : Compiled}
    (harg : fabArg (paramOf c.bytes) = some (loc, ms)) (hslot : freeSlot (s.hoop h) = some slot) (haddr : (s.hoop h).wlm.addr ≠ 0)
    (hvalid : (s.hoop h).tb.timeValid = true) (hfar : (ms.map (fun q => distTo (s.hoop h) (s.hoop (other h)) q.1)).any (· == 16) = false)
    (hens : ens = (if (hdrOf c.bytes).hasEpoch then (hdrOf c.bytes).epochNs else fabEarliest (s.hoop h) (maxL (ms.map (fun q => distTo (s.hoop h) (s.hoop (other h)) q.1)))))
    (hlead : (s.hoop h).tb.ptpOf (s.hoop h).now + 50000 ≤ ens) (hloc : loc ≠ [])
    (ha : decideCommit (breakRun 0 0x31 (s.hoop h)) { ring := 0 } true true ens (loc.map fabEdit) = .accept cmp e) :
    (ran s h 0 0x31 c fabricVerb).2 = startFabric ((s.hoop h).nextCplSeq 0) e slot ms (loc.map fabEdit)
      (takeCommit ((s.hoop h).nextCplSeq 0) 0 0 e cmp (some (fcKey (breakRun 0 0x31 (s.hoop h)).wlm.addr.toNat ((s.hoop h).nextCplSeq 0))) (breakRun 0 0x31 (s.hoop h))) := by
  refine fabricVerb_takes (k := ctxOf s h 0 c) harg ((freeSlot_breakRun _).trans hslot) (by rwa [breakRun_wlm]) (by rwa [breakRun_tb]) ?_ hloc ?_
    (by rwa [Hoop.now, breakRun_tb]) ha
  · simp only [distTo_breakRun]
    exact hfar
  · unfold fabEpoch
    simp only [distTo_breakRun, fabEarliest_breakRun]
    exact hens

/-- The local part and the record of an accepted FABRIC_COMMIT. -/
theorem fabricCommit_holds {s : State} {h : HoopId} {c : ReadCmd} {loc : List Bytes} {ms : List (Nat × List Bytes)} {slot e : Nat} {cmp : Compiled}
    (q : s.quiet = true) (p : passes s h 0 0x31 c fabricVerb = true)
    (hrun : (ran s h 0 0x31 c fabricVerb).2 = startFabric ((s.hoop h).nextCplSeq 0) e slot ms (loc.map fabEdit)
      (takeCommit ((s.hoop h).nextCplSeq 0) 0 0 e cmp (some (fcKey (breakRun 0 0x31 (s.hoop h)).wlm.addr.toNat ((s.hoop h).nextCplSeq 0))) (breakRun 0 0x31 (s.hoop h))))
    (hloc : loc ≠ []) :
    CompletesWith (.fabricCommit h 0) s h (fun y => holdsCommit y ((s.hoop h).nextCplSeq 0) 0 cmp e ∧
      smFind y.wlm.fabs slot = some (startRec ((s.hoop h).nextCplSeq 0) e ms (some ((s.hoop h).nextCplSeq 0)) (s.hoop h))) := by
  generalize hz : takeCommit ((s.hoop h).nextCplSeq 0) 0 0 e cmp (some (fcKey (breakRun 0 0x31 (s.hoop h)).wlm.addr.toNat ((s.hoop h).nextCplSeq 0)))
    (breakRun 0 0x31 (s.hoop h)) = z at hrun
  have hdesk : (ran s h 0 0x31 c fabricVerb).2.desk = { z.desk with fcInit := satInc z.wlm.fcInit } := (congrArg Hoop.desk hrun).trans (startFabric_desk ..)
  obtain ⟨b, hb, -⟩ := takeCommit_desk ((s.hoop h).nextCplSeq 0) 0 0 e cmp
    (some (fcKey (breakRun 0 0x31 (s.hoop h)).wlm.addr.toNat ((s.hoop h).nextCplSeq 0))) (breakRun 0 0x31 (s.hoop h))
  rw [hz, breakRun_desk] at hb
  have hseat : z.seat = (breakRun 0 0x31 (s.hoop h)).seat := hz ▸ takeCommit_seat ..
  have hrec : startRec ((s.hoop h).nextCplSeq 0) e ms (some ((s.hoop h).nextCplSeq 0)) z
      = startRec ((s.hoop h).nextCplSeq 0) e ms (some ((s.hoop h).nextCplSeq 0)) (s.hoop h) := by
    rw [← startRec_breakRun _ _ _ _ (s.hoop h)]
    unfold startRec
    rw [addr_of_pact (pact_of_seat hseat), tb_of_seat hseat]
  have hemp : (loc.map fabEdit).isEmpty = false := by
    rw [List.isEmpty_map]
    exact Bool.eq_false_iff.2 (fun e => hloc (List.isEmpty_iff.1 e))
  refine gives_serve_desk p q rfl hdesk (congrArg Desk.part hb) (congrArg Desk.src hb) (congrArg Desk.fcPar hb) fun y hc hy => ⟨?_, ?_⟩
  · exact takeCommit_holds _ _ _ _ _ _ _ (by rw [hz]; exact (congrArg Desk.cm hy :))
  · have hfabs : y.wlm.fabs = (ran s h 0 0x31 c fabricVerb).2.wlm.fabs := (congrArg (fun z : Hoop => z.wlm.fabs) hc :)
    have hfind := (startFabric_pact ((s.hoop h).nextCplSeq 0) e slot ms (loc.map fabEdit) (x := z) rfl).2
    rw [hfabs, hrun, hfind, hemp]
    exact congrArg some hrec

/-- The PROPOSE of the one member stands in the queue of its route. -/
theorem fabricCommit_sends {s : State} {h : HoopId} {c : ReadCmd} {a slot ens k : Nat} {es : List Bytes} (q : s.poised = true)
    (p : passes s h 0 0x31 c fabricVerb = true) (ha : a < bcast)
    (hrun : (ran s h 0 0x31 c fabricVerb).2 = startFabric ((s.hoop h).nextCplSeq 0) ens slot [(a, es)] [] (breakRun 0 0x31 (s.hoop h)))
    (hr : (s.hoop h).routeTo a = some k)
    (hroom : roomFor (s.hoop h) k (16 + (proposePayload ((s.hoop h).nextCplSeq 0) ens 1 [(s.hoop h).wlm.addr.toNat, a] es).length) = true) :
    CompletesWith (.fabricCommit h 0) s h (fun y => sends y k
      (nextFrame (s.hoop h) a 4 (proposePayload ((s.hoop h).nextCplSeq 0) ens 1 [(s.hoop h).wlm.addr.toNat, a] es))) := by
  rw [startFabric_one, breakRun_wlm] at hrun
  generalize proposePayload ((s.hoop h).nextCplSeq 0) ens 1 [(s.hoop h).wlm.addr.toNat, a] es = pl at hrun hroom ⊢
  generalize hz : enrol ((s.hoop h).nextCplSeq 0) ens slot [(a, es)] none (breakRun 0 0x31 (s.hoop h)) = z at hrun
  have hm : z.mast = (s.hoop h).mast := hz ▸ (enrol_mast ..).trans (breakRun_mast ..)
  have hg : z.gate = (s.hoop h).gate := hz ▸ (enrol_gate ..).trans (breakRun_gate ..)
  have hrz : z.routeTo a = some k := (congrFun (routeTo_of_mast hm) a).trans hr
  have hs := originate_sends (type := 4) (p := pl) ha hrz rfl (by rw [roomFor_of_mast hm]; exact hroom)
  rw [nextFrame_of_mast hm] at hs
  refine gives_serve_wlm p q rfl ?_ fun y _ _ hy => ?_
  · rw [hrun]
    exact (originate_routed_gate ha hrz ..).trans hg
  · rw [hrun] at hy
    unfold sends at hs ⊢
    rw [hy]
    exact hs

/-! ## READY -/

theorem Hoop.hush_lineOn {x y : Hoop} (h : x.hush = y.hush) : x.lineOn = y.lineOn := congrArg (fun q => q.2.1) h

theorem mayGo_received (k : Nat) (m : SMap Win) (x : Hoop) (f : Fab) : mayGo (received k m x) f = mayGo x f := by
  unfold mayGo
  rw [received_cm, received_tb, Hoop.hush_lineOn (received_hush ..)]

theorem received_routeTo (k : Nat) (m : SMap Win) (x : Hoop) (a : Nat) : (received k m x).routeTo a = x.routeTo a := by
  have h : (received k m x).routeTo a = (gotFrame k x).routeTo a := rfl
  rw [h]
  unfold Hoop.routeTo
  rw [rt_of_table (gotFrame_table k x)]
  dsimp only
  rw [(gotFrame_abides k x).up]

theorem received_roomFor (k : Nat) (m : SMap Win) (x : Hoop) (l n : Nat) : roomFor (received k m x) l n = roomFor x l n := by
  have h : roomFor (received k m x) l n = roomFor (gotFrame k x) l n := rfl
  rw [h, gotFrame_roomFor]

theorem received_nextFrame (k : Nat) (m : SMap Win) (x : Hoop) (a ty : Nat) (p : Bytes) : nextFrame (received k m x) a ty p = nextFrame x a ty p := by
  have h : nextFrame (received k m x) a ty p = nextFrame (gotFrame k x) a ty p := rfl
  rw [h, nextFrame_of_station (gotFrame_abides k x).station (gotFrame_seq k x)]

theorem frSrc_lt (b : Bytes) : frSrc b < 4096 := Nat.mod_lt _ (by decide)

theorem goSent_mast (f : Fab) (x : Hoop) : (goSent f x).mast = x.mast := (updInit_mast ..).trans (dropDeadlines_mast ..)

theorem sendGo_one {f : Fab} {a : Nat} (h : f.members = [a]) (x : Hoop) : sendGo f x = originate a 6 (leBytes 6 f.fcid ++ [0, 0]) (goSent f x) := by
  rw [sendGo_eq, h, List.foldl_cons, List.foldl_nil]

/-- GO for one member stands in the queue of its route. -/
theorem sendGo_sends {f : Fab} {a l : Nat} {x : Hoop} (h : f.members = [a]) (ha : a < 4096) (hr : x.routeTo a = some l) (hroom : roomFor x l 24 = true) :
    sends (sendGo f x) l (nextFrame x a 6 (leBytes 6 f.fcid ++ [0, 0])) := by
  have hm := goSent_mast f x
  have hs := originate_sends_any (type := 6) (p := leBytes 6 f.fcid ++ [0, 0]) ha ((congrFun (routeTo_of_mast hm) a).trans hr) (by decide)
    (by rw [roomFor_of_mast hm, List.length_append, leBytes_length]; exact hroom)
  rwa [nextFrame_of_mast hm, ← sendGo_one h] at hs

/-- With the last READY the GO may go out. -/
theorem readyIn_last {b : Bytes} {x : Hoop} {f : Fab} (hf : initFab x (field (frPayload b) 0 6) = some f) (h1 : f.st = 1)
    (hm : f.members = [frSrc b]) (hr : f.readyIn = []) (hgo : mayGo x f = true) : readyIn b x = sendGo (withReady (frSrc b) f) x := by
  have hfull : (!f.members.all (fun a => (withReady (frSrc b) f).readyIn.contains a)) = false := by
    rw [hm, withReady, hr]
    simp
  rw [readyIn_eq hf h1 (by rw [hm]; exact List.mem_singleton_self _) (by rw [hr]; exact List.not_mem_nil) rfl, hfull, if_neg (by decide), if_pos hgo]

theorem readyIn_sends {b : Bytes} {x : Hoop} {f : Fab} {l : Nat} (hf : initFab x (field (frPayload b) 0 6) = some f) (h1 : f.st = 1)
    (hm : f.members = [frSrc b]) (hr : f.readyIn = []) (hgo : mayGo x f = true) (hroute : x.routeTo (frSrc b) = some l) (hroom : roomFor x l 24 = true) :
    sends (readyIn b x) l (nextFrame x (frSrc b) 6 (leBytes 6 (field (frPayload b) 0 6) ++ [0, 0])) := by
  obtain ⟨-, -, hc⟩ := isInit_iff.1 (initFab_isInit hf)
  have hs := sendGo_sends (f := withReady (frSrc b) f) hm (frSrc_lt b) hroute hroom
  rw [← readyIn_last hf h1 hm hr hgo, show (withReady (frSrc b) f).fcid = field (frPayload b) 0 6 from hc] at hs
  exact hs

/-! ## O59 -/

/-- Settles O59: the record after each message and deadline, the local part in the pending table, and the frames that the members are sent. -/
theorem fabricInitiatorRows : Obligations.FabricInitiatorRows := by
  unfold Obligations.FabricInitiatorRows
  refine ⟨?commit, ?own, ?propose, ?ready, ?go, ?done, ?late, ?lateLocal, ?unsent, ?unsentLocal, ?timeout⟩
  case commit =>
    intro s h x c loc ms slot ds ens hx p harg hslot haddr hvalid hds hfar hens hlead hloc
    subst hx hds hloc
    refine gives_serve p rfl fun y hy => ?_
    rw [ran_start harg hslot haddr hvalid hfar hens hlead] at hy
    obtain ⟨h1, h2⟩ := startFabric_pact _ _ _ _ _ (pact_of_calm hy)
    rw [startRec_breakRun] at h2
    rw [breakRun_wlm] at h1
    exact ⟨h1, h2⟩
  case own =>
    intro s h x c loc ms slot ds ens cmp e hx q p harg hslot haddr hvalid hds hfar hens hlead hloc ha
    subst hx hds
    exact fabricCommit_holds q p (ran_accept harg hslot haddr hvalid hfar hens hlead hloc ha) hloc
  case propose =>
    intro s h x c a es slot ens k b hx q p harg hslot haddr hvalid hfar hens hlead hr hb hroom
    subst hx hb
    have ha : a < bcast := fabCheck_addr (k := ctxOf s h 0 c) harg (passes_check p) List.mem_cons_self
    have hrun := ran_start harg hslot haddr hvalid (by simpa using hfar) hens hlead
    refine fabricCommit_sends q p ha hrun hr ?_
    rw [nextFrame, frameBytes_length] at hroom
    exact hroom
  case ready =>
    intro s h x k b m c src f g e hd hc hsrc hf h1 hm hr hg
    subst hsrc
    refine gives_delivered (f := readyIn b) rfl (readyIn_site b) e hd fun y hy => ?_
    rw [initFab_of_pact (pact_of_calm hy), readyIn_initFab hc ((initFab_of_pact (received_pact ..) c).trans hf) h1 hm hr hg, mayGo_received]
  case go =>
    intro s h x k b m c src f l e q hd hc hsrc hf h1 hm hr hgo hroute hroom
    subst hc hsrc
    refine gives_delivered_sends (f := readyIn b) rfl (readyIn_site b) (fun x => Hoop.hush_of_desk (readyIn_desk b x)) e (State.poised_quiet q) hd ?_
    rw [← received_nextFrame k m x]
    exact readyIn_sends ((initFab_of_pact (received_pact ..) _).trans hf) h1 hm hr ((mayGo_received ..).trans hgo) ((received_routeTo ..).trans hroute)
      ((received_roomFor ..).trans hroom)
  case done =>
    intro s h x k b m c src f g e hd hc hsrc hf hm hr hg
    subst hc hsrc
    refine gives_delivered (f := doneIn b) rfl (doneIn_site b) e hd fun y hy => ?_
    rw [initFab_of_pact (pact_of_calm hy)]
    exact noteEnd_initFab ((initFab_of_pact (received_pact ..) _).trans hf) hm hr hg
  case late =>
    intro s h x slot f e hf hi h1 ht hn
    refine gives_act (readyDeadline slot) e rfl fun y hy => ?_
    rw [fabs_of_pact (pact_of_calm hy), readyDeadline_eq hf hi h1 ht]
    exact giveUp_find true 11 2 ((congrArg (smFind · slot) (fabs_of_pact (cmpFireDue_pact ..))).trans hf) hi (by rw [Hoop.cm_of_desk (cmpFireDue_desk ..)]; exact hn)
  case lateLocal =>
    intro s h x slot f d e q hf hi h1 ht hd
    refine gives_lacks (readyDeadline slot) e q rfl ?_ ?_
    · rw [readyDeadline_eq hf hi h1 ht]
      exact (Sheds.of_desk (cmpFireDue_desk ..)).trans (giveUp_sheds ..)
    · rw [readyDeadline_eq hf hi h1 ht]
      exact giveUp_lacks true 11 2 (by rw [Hoop.cm_of_desk (cmpFireDue_desk ..)]; exact hd)
  case unsent =>
    intro s h x slot f e hf hi h1 ht hn
    refine gives_act (goSendDeadline slot) e rfl fun y hy => ?_
    rw [fabs_of_pact (pact_of_calm hy), goSendDeadline_eq hf hi h1 ht]
    exact giveUp_find false 0 0 ((congrArg (smFind · slot) (fabs_of_pact (cmpFireDue_pact ..))).trans hf) hi (by rw [Hoop.cm_of_desk (cmpFireDue_desk ..)]; exact hn)
  case unsentLocal =>
    intro s h x slot f d e q hf hi h1 ht hd
    refine gives_lacks (goSendDeadline slot) e q rfl ?_ ?_
    · rw [goSendDeadline_eq hf hi h1 ht]
      exact (Sheds.of_desk (cmpFireDue_desk ..)).trans (giveUp_sheds ..)
    · rw [goSendDeadline_eq hf hi h1 ht]
      exact giveUp_lacks false 0 0 (by rw [Hoop.cm_of_desk (cmpFireDue_desk ..)]; exact hd)
  case timeout =>
    intro s h x slot f e hk hf hi ht
    refine gives_act (outcomeTimeout slot) e rfl fun y hy => ⟨fun r hr hin => ?_, ?_⟩
    · rw [fabs_of_pact (pact_of_calm hy), outcomeTimeout_eq hk hf hi ht] at hr
      have hgone := fabOutcome_records (List.mem_append_left _ (List.mem_map_of_mem hr))
      rw [isInit_iff.2 hin] at hgone
      exact absurd hgone (by decide)
    · rw [fcNotComplete_of_pact (pact_of_calm hy), outcomeTimeout_eq hk hf hi ht]
      exact fabOutcome_notComplete f x

end Sys2Proof.Machine
end

section
/-!
SUPPORT. Fabric commits at a member (R408, R409, R411): what a PROPOSE, a GO, an ABORT and the deadline make of the record and the local part.
-/

namespace Sys2Proof.Machine
open Sys2Proof

/-! ## PROPOSE -/

theorem freeSlot_of_seat {x y : Hoop} (h : x.seat = y.seat) : freeSlot x = freeSlot y := by
  unfold freeSlot givenBack Hoop.now
  rw [fabs_of_pact (pact_of_seat h), tb_of_seat h]

theorem received_seat (k : Nat) (m : SMap Win) (x : Hoop) : (received k m x).seat = x.seat := Prod.ext (received_pact k m x) (received_tb k m x)

theorem refuseProp_desk (a c st why : Nat) (x : Hoop) : (refuseProp a c st why x).desk = x.desk := originate_desk ..

/-- The record of a fabric commit that the hoop joins. -/
def memberRec (b : Bytes) (ens at_ : Nat) : Fab :=
  { st := 2, init := false, fcid := field (frPayload b) 0 6, initiator := frSrc b,
    members := (((List.range 16).map (fun i => field (frPayload b) (20 + 2 * i) 2)).filter (· != 0)).drop 1, readyIn := [], results := [], epoch := at_,
    epochNs := ens, localSeq := some (field (frPayload b) 0 6), reason := 0 }

/-- A PROPOSE accepted: its part taken, the record kept with its deadline, READY sent. -/
def join (b : Bytes) (ens slot : Nat) (c : Compiled) (es : List Edit) (x : Hoop) : Hoop :=
  originate (frSrc b) 5 (leBytes 6 (field (frPayload b) 0 6) ++ leBytes 2 c.n ++ leBytes 2 c.nch ++ [0, 0])
    (armAt (9 + slot) (ens - 5000) (dropArm (9 + slot)
      (noteChains (frSrc b) (field (frPayload b) 0 6) (((List.range 16).map (fun i => field (frPayload b) (20 + 2 * i) 2)).filter (· != 0)) es
        (takeSlot slot (memberRec b ens (x.tb.cntOf ens))
          (takeCommit (memberSeq (frSrc b) (field (frPayload b) 0 6)) 0 0 ens c (some (fcKey (frSrc b) (field (frPayload b) 0 6))) x)))))

section
variable {b : Bytes} {ens slot : Nat} {c : Compiled} {es : List Edit} {x : Hoop}

theorem join_desk : (join b ens slot c es x).desk =
    (takeCommit (memberSeq (frSrc b) (field (frPayload b) 0 6)) 0 0 ens c (some (fcKey (frSrc b) (field (frPayload b) 0 6))) x).desk :=
  (originate_desk ..).trans ((armAt_desk ..).trans ((dropArm_desk ..).trans ((noteChains_desk ..).trans (takeSlot_desk ..))))

theorem join_hush : (join b ens slot c es x).hush = x.hush := (Hoop.hush_of_desk join_desk).trans (takeCommit_hush ..)

theorem join_find {y : Hoop} (h : y.pact = (join b ens slot c es x).pact) : smFind y.wlm.fabs slot = some (memberRec b ens (x.tb.cntOf ens)) := by
  have hp := h.trans ((originate_pact ..).trans ((armAt_pact ..).trans ((dropArm_pact ..).trans (pact_of_seat (noteChains_seat ..)))))
  rw [fabs_of_pact hp]
  exact takeSlot_find ..

/-- E - 5 us from 100 ns to 2 s ahead is armed. -/
theorem join_armed (h1 : x.now + 100 ≤ x.tb.cntOf (ens - 5000)) (h2 : x.tb.cntOf (ens - 5000) ≤ x.now + 2000000000) :
    (join b ens slot c es x).tb.cmp (9 + slot) = { t16 := x.tb.cntOf (ens - 5000) * 16, armed := true, fired := false } := by
  generalize hz : noteChains (frSrc b) (field (frPayload b) 0 6) (((List.range 16).map (fun i => field (frPayload b) (20 + 2 * i) 2)).filter (· != 0)) es
    (takeSlot slot (memberRec b ens (x.tb.cntOf ens))
      (takeCommit (memberSeq (frSrc b) (field (frPayload b) 0 6)) 0 0 ens c (some (fcKey (frSrc b) (field (frPayload b) 0 6))) x)) = z
  have htb : z.tb = x.tb := hz ▸ (tb_of_seat (noteChains_seat ..)).trans ((takeSlot_tb ..).trans (tb_of_seat (takeCommit_seat ..)))
  have hcnt : (dropArm (9 + slot) z).tb.cntOf (ens - 5000) = x.tb.cntOf (ens - 5000) := htb ▸ rfl
  have hnow : (dropArm (9 + slot) z).now = x.now := by
    have h : (dropArm (9 + slot) z).now = z.now := rfl
    rw [h, Hoop.now, Hoop.now, htb]
  have ha := armAt_armed (9 + slot) (ens - 5000) (dropArm (9 + slot) z) (by rw [hcnt, hnow]; exact h1) (by rw [hcnt, hnow]; exact h2)
  rw [hcnt] at ha
  unfold join
  rw [originate_tb, hz, ha]

end

/-- A PROPOSE without valid time is refused. -/
theorem propose_untimed {b : Bytes} {x : Hoop} (h : x.tb.timeValid = false) : propose b x = refuseProp (frSrc b) (field (frPayload b) 0 6) 14 3 x := by
  unfold propose
  dsimp only
  rw [h]
  rfl

/-- A PROPOSE for which no comparator is free is refused. -/
theorem propose_full {b : Bytes} {x : Hoop} (h : x.tb.timeValid = true) (hs : freeSlot x = none) :
    propose b x = refuseProp (frSrc b) (field (frPayload b) 0 6) 14 4 x := by
  unfold propose
  dsimp only
  rw [h, hs, if_neg (by decide)]

/-- The form of a PROPOSE: its entries and its time. -/
structure Proposes (b : Bytes) (ens : Nat) (raw : List Bytes) (x : Hoop) : Prop where
  epoch : ens = field (frPayload b) 6 6 * 1000000000 + field (frPayload b) 12 4
  entries : raw = fabEntries (field (frPayload b) 17 1) ((frPayload b).drop 52)
  soon : x.now + 20000 ≤ x.tb.cntOf ens
  some_ : 1 ≤ field (frPayload b) 17 1
  few : field (frPayload b) 17 1 ≤ 37
  whole : 52 + 12 * field (frPayload b) 17 1 ≤ (frPayload b).length
  nanos : field (frPayload b) 12 4 ≤ 999999999
  hour : ens ≤ x.tb.ptpOf x.now + 3600000000000
  list : fabListOk raw = true
  fields : raw.all (fabFieldsOk x) = true

/-- A PROPOSE that passes the checks is joined. -/
theorem propose_join {b : Bytes} {x : Hoop} {ens slot e : Nat} {raw : List Bytes} {cmp : Compiled} (hv : x.tb.timeValid = true) (hs : freeSlot x = some slot)
    (hp : Proposes b ens raw x) (ha : decideCommit x { ring := 0, fabric := true } true true ens (raw.map fabEdit) = .accept cmp e) :
    propose b x = join b ens slot cmp (raw.map fabEdit) x := by
  obtain ⟨rfl, rfl, hsoon, h1, h37, hw, hn, hh, hl, hf⟩ := hp
  have hform : ¬ (field (frPayload b) 17 1 = 0 ∨ 37 < field (frPayload b) 17 1 ∨ (frPayload b).length < 52 + 12 * field (frPayload b) 17 1 ∨
      999999999 < field (frPayload b) 12 4 ∨
      x.tb.ptpOf x.now + 3600000000000 < field (frPayload b) 6 6 * 1000000000 + field (frPayload b) 12 4 ∨
      (!fabListOk (fabEntries (field (frPayload b) 17 1) ((frPayload b).drop 52))) = true ∨
      (!(fabEntries (field (frPayload b) 17 1) ((frPayload b).drop 52)).all (fabFieldsOk x)) = true) := by
    rw [hl, hf]
    simp only [Bool.not_true, Bool.false_eq_true, or_false]
    omega
  unfold propose
  dsimp only
  rw [hv, hs, if_neg (by decide)]
  dsimp only
  rw [if_neg (Nat.not_lt.2 hsoon), if_neg hform, ha]
  rfl

theorem propose_hush (b : Bytes) (x : Hoop) : (propose b x).hush = x.hush := by
  have href : ∀ st why, (refuseProp (frSrc b) (field (frPayload b) 0 6) st why x).hush = x.hush := fun st why => Hoop.hush_of_desk (refuseProp_desk ..)
  unfold propose
  extract_lets p ini fcid ens cnt raw e es addrs
  split
  · exact href 14 3
  · split
    · exact href 14 4
    · split
      · exact href 11 1
      · split
        · exact href 4 0
        · split
          · exact href _ 0
          · exact Hoop.hush_of_desk ((refuseProp_desk ..).trans (Hoop.desk_of_core (raiseEv_core ..)))
          · exact join_hush

/-- An ABORT to the initiator stands in the queue of its route. -/
theorem refuseProp_sends {b : Bytes} {st why l : Nat} {x : Hoop} (hr : x.routeTo (frSrc b) = some l) (hroom : roomFor x l 24 = true) :
    sends (refuseProp (frSrc b) (field (frPayload b) 0 6) st why x) l
      (nextFrame x (frSrc b) 7 (leBytes 6 (field (frPayload b) 0 6) ++ leBytes 1 st ++ leBytes 1 why)) :=
  originate_sends_any (frSrc_lt b) hr rfl (by rw [List.length_append, List.length_append, leBytes_length, leBytes_length, leBytes_length]; exact hroom)

/-! ## GO and ABORT -/

theorem memberFab_of_pact {x y : Hoop} (h : x.pact = y.pact) (a c : Nat) : memberFab x a c = memberFab y a c := by
  unfold memberFab
  rw [fabs_of_pact h]

theorem setFab_tb (s : Nat) (f : Fab) (x : Hoop) : (setFab s f x).tb = x.tb := rfl

theorem setFab_desk (s : Nat) (f : Fab) (x : Hoop) : (setFab s f x).desk = x.desk := rfl

theorem setFab_find (s : Nat) (f : Fab) (x : Hoop) : smFind (setFab s f x).wlm.fabs s = some f := smFind_smPut_self ..

theorem goIn_eq {b : Bytes} {x : Hoop} {slot : Nat} {f : Fab} (h : memberFab x (frSrc b) (field (frPayload b) 0 6) = some (slot, f)) (h2 : f.st = 2) :
    goIn b x = setFab slot { f with st := 3 } (dropArm (9 + slot) x) := by
  unfold goIn
  rw [h]
  exact if_pos h2

/-- A member's record with the reason of an ABORT, its deadline off. -/
def abortNoted (b : Bytes) (slot : Nat) (f : Fab) (x : Hoop) : Hoop := setFab slot { f with reason := field (frPayload b) 7 1 } (dropArm (9 + slot) x)

theorem abortNoted_desk (b : Bytes) (slot : Nat) (f : Fab) (x : Hoop) : (abortNoted b slot f x).desk = x.desk := (setFab_desk ..).trans (dropArm_desk ..)

theorem abortIn_member {b : Bytes} {x : Hoop} {slot : Nat} {f : Fab} (h : memberFab x (frSrc b) (field (frPayload b) 0 6) = some (slot, f)) :
    abortIn b x = withdrawPart (frSrc b) (field (frPayload b) 0 6) 3 (abortNoted b slot f x) := by
  unfold abortIn
  dsimp only
  rw [h]
  rfl

theorem abortIn_initiator {b : Bytes} {x : Hoop} {f : Fab} (h : memberFab x (frSrc b) (field (frPayload b) 0 6) = none)
    (hf : initFab x (field (frPayload b) 0 6) = some f) (hm : frSrc b ∈ f.members) (hst : f.st = 1 ∨ f.st = 2) :
    abortIn b x = noteEnd (field (frPayload b) 0 6) (frSrc b) 1 (giveUp f true (field (frPayload b) 6 1) (field (frPayload b) 7 1) x) := by
  have hin : ¬ ((!f.members.contains (frSrc b)) = true) := by simp [hm]
  unfold abortIn
  dsimp only
  rw [h]
  dsimp only
  rw [hf]
  dsimp only
  rw [if_neg hin, if_pos hst]

theorem abortIn_hush (b : Bytes) (x : Hoop) : (abortIn b x).hush = x.hush := by
  unfold abortIn
  extract_lets p c src
  split
  next slot f _ => exact ((Sheds.of_desk (abortNoted_desk b slot f x)).trans (withdrawPart_sheds ..)).hush
  · split
    · rfl
    next f _ =>
      split
      · rfl
      · extract_lets y
        refine (Hoop.hush_of_desk (noteEnd_desk ..)).trans ?_
        show (if _ then giveUp f true _ _ x else x : Hoop).hush = x.hush
        split
        · exact (giveUp_sheds ..).hush
        · rfl

theorem abortIn_tb {b : Bytes} {x : Hoop} {slot : Nat} {f : Fab} (h : memberFab x (frSrc b) (field (frPayload b) 0 6) = some (slot, f)) :
    (abortIn b x).tb = (dropArm (9 + slot) x).tb := by
  rw [abortIn_member h, withdrawPart_tb]
  exact setFab_tb ..

/-- The initiator aborts for one of two members: the record is given up, and that member's end noted. -/
theorem abortIn_initFab {b : Bytes} {x : Hoop} {f : Fab} {a : Nat} (h : memberFab x (frSrc b) (field (frPayload b) 0 6) = none)
    (hf : initFab x (field (frPayload b) 0 6) = some f) (hm : f.members = [frSrc b, a]) (hne : frSrc b ≠ a) (hr : f.results = []) (hst : f.st = 1 ∨ f.st = 2)
    (hn : x.cm.pending.any (fun d => d.fcid == some (fcKey f.initiator f.fcid)) = false) :
    initFab (abortIn b x) (field (frPayload b) 0 6) = some (withEnd (frSrc b) 1 (gaveUp (field (frPayload b) 7 1) true f)) := by
  have hmem : frSrc b ∈ f.members := by
    rw [hm]
    exact List.mem_cons_self
  have hgave : initFab (giveUp f true (field (frPayload b) 6 1) (field (frPayload b) 7 1) x) (field (frPayload b) 0 6) = some (gaveUp (field (frPayload b) 7 1) true f) := by
    rw [giveUp_eq, withdrawPart_none (by rw [Hoop.cm_of_desk (letGo_desk ..)]; exact hn), initFab_letGo true _ _ (initFab_isInit hf), hf]
    rfl
  have hpart : allDone (withEnd (frSrc b) 1 (gaveUp (field (frPayload b) 7 1) true f)) = false := by
    simp [allDone, withEnd, gaveUp, hm, hr, hne]
  rw [abortIn_initiator h hf hmem hst, noteEnd_initFab hgave hmem (by rw [show (gaveUp (field (frPayload b) 7 1) true f).results = [] from hr]; rfl) rfl, hpart]
  rfl

/-! ## The deadline at a member -/

theorem goDeadline_eq {k : Nat} {x : Hoop} {f : Fab} (h9 : 9 ≤ k) (h13 : k ≤ 13) (hd : cmpDue x k = true) (hf : smFind x.wlm.fabs (k - 9) = some f) :
    goDeadline k x = if !f.init && f.st == 2 then
      withdrawPart f.initiator f.fcid 3 (refuseProp f.initiator f.fcid 11 7 (setFab (k - 9) { f with reason := 7 } (cmpFire k x))) else cmpFire k x := by
  have hf' : smFind (cmpFire k x).wlm.fabs (k - 9) = some f := by rw [fabs_of_pact (cmpFire_pact k x)]; exact hf
  unfold goDeadline
  rw [hd, decide_eq_true (show 9 ≤ k ∧ k ≤ 13 from ⟨h9, h13⟩), if_neg (by decide)]
  dsimp only
  rw [hf']

theorem goDeadline_tb {k : Nat} {x : Hoop} {f : Fab} (h9 : 9 ≤ k) (h13 : k ≤ 13) (hd : cmpDue x k = true) (hf : smFind x.wlm.fabs (k - 9) = some f) :
    (goDeadline k x).tb = (cmpFire k x).tb := by
  rw [goDeadline_eq h9 h13 hd hf]
  split
  · exact (withdrawPart_tb ..).trans ((originate_tb ..).trans (setFab_tb ..))
  · rfl

theorem cmpFire_desk (k : Nat) (x : Hoop) : (cmpFire k x).desk = x.desk := rfl

/-- What the withdrawal at the deadline finds. -/
theorem missed_desk (k : Nat) (f : Fab) (x : Hoop) :
    (refuseProp f.initiator f.fcid 11 7 (setFab (k - 9) { f with reason := 7 } (cmpFire k x))).desk = x.desk :=
  (refuseProp_desk ..).trans ((setFab_desk ..).trans (cmpFire_desk ..))

/-! ## O60 -/

/-- Settles O60: a PROPOSE joined or refused, and what GO, ABORT and the deadline make of the record, its comparator and the local part. -/
theorem fabricMemberRows : Obligations.FabricMemberRows := by
  unfold Obligations.FabricMemberRows
  refine ⟨?join, ?untimed, ?full, ?go, ?abort, ?abortLocal, ?abortInit, ?deadline, ?deadlineLocal⟩
  case join =>
    intro s h x y k b m p ens slot raw cmp e hx q hd hy hp hens hraw hv hs hsoon h1 h37 hw hn hh hl hf ha
    subst hy hp
    have hnow : (received k m x).now = x.now := by rw [Hoop.now, received_tb]; rfl
    have hj := propose_join (b := b) (x := received k m x) (by rw [received_tb]; exact hv) ((freeSlot_of_seat (received_seat ..)).trans hs)
      ⟨hens, hraw, by rw [hnow, received_tb]; exact hsoon, h1, h37, hw, hn, by rw [hnow, received_tb]; exact hh, hl, hf⟩ ha
    refine gives_delivered_core (f := propose b) rfl (propose_site b) (propose_hush b) hx q hd fun z hcalm hcore =>
      ⟨?_, ⟨memberRec b ens ((received k m x).tb.cntOf ens), ?_, rfl, rfl, rfl, rfl, rfl⟩, fun h1 h2 => ?_⟩
    · have hdesk := (Hoop.desk_of_core hcore).trans ((congrArg Hoop.desk hj).trans join_desk)
      exact takeCommit_holds _ _ _ _ _ _ _ (Hoop.cm_of_desk hdesk)
    · rw [hj] at hcalm
      exact join_find (pact_of_calm hcalm)
    · rw [hj] at hcalm
      rw [tb_of_calm hcalm, join_armed (by rw [hnow, received_tb]; exact h1) (by rw [hnow, received_tb]; exact h2), received_tb]
  case untimed =>
    intro s h x k b m l e q hd hv hr hroom
    refine gives_delivered_sends (f := propose b) rfl (propose_site b) (propose_hush b) e (State.poised_quiet q) hd ?_
    rw [propose_untimed (by rw [received_tb]; exact hv), ← received_nextFrame k m x]
    exact refuseProp_sends ((received_routeTo ..).trans hr) ((received_roomFor ..).trans hroom)
  case full =>
    intro s h x k b m l e q hd hv hs hr hroom
    refine gives_delivered_sends (f := propose b) rfl (propose_site b) (propose_hush b) e (State.poised_quiet q) hd ?_
    rw [propose_full (by rw [received_tb]; exact hv) ((freeSlot_of_seat (received_seat ..)).trans hs), ← received_nextFrame k m x]
    exact refuseProp_sends ((received_routeTo ..).trans hr) ((received_roomFor ..).trans hroom)
  case go =>
    intro s h x k b m slot f e hd hf h2
    refine gives_delivered (f := goIn b) rfl (goIn_site b) e hd fun y hy => ?_
    rw [goIn_eq ((memberFab_of_pact (received_pact ..) ..).trans hf) h2] at hy
    rw [fabs_of_pact (pact_of_calm hy), tb_of_calm hy, setFab_tb]
    exact ⟨setFab_find .., dropArm_armed .., dropArm_held⟩
  case abort =>
    intro s h x k b m slot f e hd hf
    refine gives_delivered (f := abortIn b) rfl (abortIn_site b) e hd fun y hy => ?_
    rw [tb_of_calm hy, abortIn_tb ((memberFab_of_pact (received_pact ..) ..).trans hf)]
    exact dropArm_armed ..
  case abortLocal =>
    intro s h x k b m slot f d e q hd hf hfind
    refine gives_delivered_core (f := abortIn b) rfl (abortIn_site b) (abortIn_hush b) e q hd fun y _ hy => ?_
    rw [Hoop.cm_of_desk (Hoop.desk_of_core hy), abortIn_member ((memberFab_of_pact (received_pact ..) ..).trans hf)]
    exact withdrawPart_lacks (by rw [Hoop.cm_of_desk (abortNoted_desk ..), received_cm]; exact hfind)
  case abortInit =>
    intro s h x k b m a f c e hd hc hf hi hst hm hne hr hn
    subst hc
    refine gives_delivered (f := abortIn b) rfl (abortIn_site b) e hd fun y hy => ?_
    rw [initFab_of_pact (pact_of_calm hy), abortIn_initFab ((memberFab_of_pact (received_pact ..) ..).trans hf) ((initFab_of_pact (received_pact ..) _).trans hi)
      hm hne hr hst (by rw [received_cm]; exact hn)]
    simp only [withEnd, gaveUp, hr, List.nil_append]
  case deadline =>
    intro s h x k f e h9 h13 hd hf
    refine gives_act (goDeadline k) e rfl fun y hy => ?_
    rw [tb_of_calm hy, goDeadline_tb h9 h13 hd hf]
    exact cmpFire_fired k x
  case deadlineLocal =>
    intro s h x k f d e q h9 h13 hd hf hi h2 hfind
    have heq : goDeadline k x = withdrawPart f.initiator f.fcid 3 (refuseProp f.initiator f.fcid 11 7 (setFab (k - 9) { f with reason := 7 } (cmpFire k x))) := by
      rw [goDeadline_eq h9 h13 hd hf, hi, h2]
      rfl
    refine gives_lacks (goDeadline k) e q rfl ?_ ?_
    · rw [heq]
      exact (Sheds.of_desk (missed_desk ..)).trans (withdrawPart_sheds ..)
    · rw [heq]
      exact withdrawPart_lacks (by rw [Hoop.cm_of_desk (missed_desk ..)]; exact hfind)

end Sys2Proof.Machine
end
